-- ==== Sys2Proof/Word.lean ====
section
/-!
DEFINITION. The word types of the module and their plainest arithmetic.
-/

namespace Sys2Proof

/-- A byte: 8 bits (R5). -/
abbrev Byte := BitVec 8

/-- A 32-bit register or field. -/
abbrev W32 := BitVec 32

/-- A 64-bit register, descriptor word or general register. -/
abbrev W64 := BitVec 64

/-- A 64-byte ring entry, spore write or stage record: byte 0 in bits [7:0] (R7). -/
abbrev Line := BitVec 512

/-- Bit field [hi:lo] of a word as a number (R6). -/
def field {n : Nat} (w : BitVec n) (hi lo : Nat) : Nat :=
  (w.toNat >>> lo) % 2 ^ (hi + 1 - lo)

/-- The k-th little-endian 64-bit word of a 64-byte line (R7, R361). -/
def lineWord (l : Line) (k : Nat) : W64 := BitVec.ofNat 64 (l.toNat >>> (64 * k))

end Sys2Proof
end

