-- ==== Sys2Proof/Config.lean ====
section
/-!
DEFINITION. What an implementation fixes and the free values: constants without a body, so that no
proof can see what they are. The argument `seed` of most of them is the plain counter `State.seed`,
which a step reads and advances, so that every use is a fresh value.
-/

namespace Sys2Proof.Config

/-- A fresh free natural number (an unstated choice or value). DESIGN CHOICE, log 2. -/
opaque freeNat : Nat → Nat

/-- A fresh free 64-bit value. DESIGN CHOICE, log 2. -/
opaque freeWord : Nat → BitVec 64

/-- Core cycles an instruction takes (R185 bounds them, the model keeps no time). Log 3. -/
opaque cycles : Nat → Nat

/-- Wrong-path instructions issued after a misprediction; used modulo 25 (R182). Log 4. -/
opaque wrongPath : Nat → Nat

/-- The floating-point operation that minor opcode FN of major FP selects; the spec gives no table
of these codes (R160). `none` is a code that does not decode. Operation numbers are those of
`Sys2Proof.Machine.fpOperation`. Log 5. -/
opaque fpSelect : BitVec 11 → Option Nat

/-- Which of fnmadd and fnmsub subtracts c: the spec names them and states no formula (R160). When
true, fnmadd is −(a × b) − c and fnmsub is −(a × b) + c; when false the other way round. Log 28. -/
opaque fnmSubtracts : Bool

/-- The operation that bits [5:0] of an FMA word select: fmadd, fmsub, fnmadd or fnmsub by number, and whether in .d; the
spec gives no table of these codes (R160). `none` is a code that does not decode. Log 5. -/
opaque fmaSelect : BitVec 6 → Option (Fin 4 × Bool)

/-- The hand-off port operation that minor opcode FN of major HO selects; the spec gives no table
(R160, R164). `none` is a code that does not decode. Log 6. -/
opaque hoSelect : BitVec 11 → Option Nat

/-- Whether an RSASSA-PSS signature verifies: modulus, message (signed header), signature (R529). Log 7. -/
opaque rsaVerify : List Byte → List Byte → List Byte → Bool

/-- Whether an SLH-DSA-SHA2-192s signature verifies: public key, message, signature (R529). Log 7. -/
opaque slhVerify : List Byte → List Byte → List Byte → Bool

/-- The module's RSA signature over a message (R540). Log 7. -/
opaque rsaSign : List Byte → List Byte

/-- The module's SLH-DSA signature over a message, 16,224 bytes are used (R540). Log 7. -/
opaque slhSign : List Byte → List Byte

/-- The RSA key hash of key pair i in OTP (R532). Log 8. -/
opaque rsaKeyHash : Nat → List Byte

/-- The SLH-DSA key hash of key pair i in OTP (R532). Log 8. -/
opaque slhKeyHash : Nat → List Byte

/-- The 16-byte module identifier in OTP (R532). Log 8. -/
opaque uid : BitVec 128

/-- SEC_NONCE after its n-th renewal (R545). Log 8. -/
opaque nonce : Nat → BitVec 128

/-- The certificate chain of SPDM slot 0 (RSA) or 1 (SLH-DSA) (R537). Log 8. -/
opaque certChain : Nat → List Byte

/-- The packages that the two banks of the boot flash hold at first, but for their FW_VER (R534). Log 8. -/
opaque bootFlash : Bool → List Byte

/-- DataTransferSize and MaxSPDMmsgSize of CAPABILITIES (R538). Log 98. -/
opaque spdmSize : Nat

/-- The descriptors of QueryDeviceIdentifiers (R546). Log 99. -/
opaque pldmIds : List Byte

/-- SHA-384 of the Fiddlehead ROM (R539, index 1). Log 8. -/
opaque romDigest : List Byte

/-- Lifecycle fuses burned at manufacture (R543). Log 8. -/
opaque lifecycleFuse : BitVec 2

/-- What user-defined operator code leaves when it returns, from its code bytes, the scratchpad that it finds, and g1 and g2 at
entry: g1, and the scratchpad (R148, R149). Log 9. -/
opaque udo : List Byte → List (Nat × Byte) → BitVec 64 → BitVec 64 → BitVec 64 × List (Nat × Byte)

/-- The bin of the memory packages: true is B (12.8 Gb/s), false is A (R332). Log 8. -/
opaque binB : Bool

/-- NaN payload and sign of a floating-point result that IEEE 754-2019 leaves open. Log 10. -/
opaque nanBits32 : BitVec 32 → BitVec 32 → BitVec 32

/-- The same for binary64. Log 10. -/
opaque nanBits64 : BitVec 64 → BitVec 64 → BitVec 64

/-- Whether tininess is detected before rounding, a choice that IEEE 754-2019 leaves to the
implementation. Log 10. -/
opaque tinyBefore : Bool

/-- Whether a fused zero times infinity plus a quiet NaN signals invalid, which IEEE 754-2019 leaves to the implementation. Log 10. -/
opaque fmaInvalid : Bool

/-- Whether vfcvti signals inexact: IEEE 754-2019 has both conversions, and R201 names NV only. Log 10. -/
opaque cvtInexact : Bool

/-- Bytes that a group of a partial AGG takes in its table: key bytes and number of functions (R138 gives no layout).
Log 63. -/
opaque aggEntry : Nat → Nat → Nat

/-- Which of two equal but not identical floats (−0.0 and +0.0, NaNs) MIN and MAX keep: true is the first. Log 64. -/
opaque floatTie : BitVec 64 → BitVec 64 → Bool

/-- Size in 0.5 W and length in µs of the grant of a link bring-up, which R508 names without figures. Log 92. -/
opaque linkUnits : Nat

/-- See `linkUnits`. -/
opaque linkUs : Nat

/-- Bytes of the bucket directory of a build partition with a number of rows (R122 gives no layout). Log 148. -/
opaque bucketBytes : Nat → Nat

/-- The context port, and the offset in it, that the request handle of an ENGINE stream request names: unit, slot, offset; none for
another engine (R168 leaves handles to the runtime). Log 153. -/
opaque enginePort : Nat → Option (Nat × Nat × Nat)

/-- Busy time in ns that one unit of weight is worth in a turn of the deficit round robin (R289 names no quantum). Log 75. -/
opaque drrQuantum : Nat

end Sys2Proof.Config
end

