-- ==== Sys2Proof/Syntax.lean ====
section
/-!
DEFINITION. The commands of the block: one constructor per row of the table of operations and
events, with what each of them carries. The block has no instruction words, so these are syntax only.
-/

namespace Sys2Proof

/-- The fields of a vector instruction word (R197). -/
structure VOps where
  d : BitVec 5
  a : BitVec 5
  b : BitVec 5
  men : Bool
  msk : BitVec 3
  w : BitVec 3
  deriving DecidableEq, Repr

/-- What a register write reaches (R27, R314): a BAR0 offset of a function through a host port, or an offset of a digest
context port as an instance's requester writes it. -/
inductive WrTarget where
  | bar0 (fn port off : Nat)
  | ctxPort (unit slot acc off : Nat)
  deriving DecidableEq, Repr

/-- What the sensors give a telemetry sample (R522): supplies, raw sensor readings, domain readings. -/
structure Sample where
  vinMv : BitVec 16
  iin : BitVec 16
  vauxMv : BitVec 16
  iaux : BitVec 16
  /-- raw reading of each sensor, in 1/16 °C, two's complement -/
  temps : List (BitVec 16)
  /-- voltage and current of each power domain, alternating -/
  doms : List (BitVec 16)
  deriving DecidableEq, Repr

/-- What firmware finds at a storage port (R402, R555): an NVMe 2.0 controller with the format of R402, its
store label, blank LBAs 0 to 7. -/
structure SsdFound where
  port : Nat
  formatOk : Bool
  label : Bool
  blank : Bool
  /-- extent copies that its namespace holds (R405, R409; log 85) -/
  extents : Nat
  deriving DecidableEq, Repr

/-- Data of a write at a memory controller (R336, R348). -/
structure MemWrite where
  bytes : List Byte
  /-- the writer marks what it writes as poisoned (R348) -/
  poison : Bool
  deriving DecidableEq, Repr

/-- A flit as it arrives (R557): whether its CRC holds, and its fields. -/
structure FlitIn where
  crcOk : Bool
  ftype : Nat
  vc : Nat
  seq : Nat
  ackseq : Nat
  sof : Bool
  eof : Bool
  crd : BitVec 32
  payload : List Byte
  deriving DecidableEq, Repr

/-- A flow whose item in service leaves its operator, with what the host delivered for the chunks of that item's HOST input. -/
structure FlowLeave where
  flow : Nat
  host : List (Option (List Byte))
  deriving DecidableEq, Repr

/-- A burst of searches: the item whose keys they are, and the keys. -/
structure Burst where
  item : Nat
  keys : List (List Byte)
  deriving DecidableEq, Repr

/-- A digest message that is finished: its context slot, and the comparator that a fault upsets, if one does. -/
structure DigFinished where
  slot : Nat
  glitch : Option Bool
  deriving DecidableEq, Repr

/-- A frame as it arrives, header and payload (R561). -/
structure FrameIn where
  hops : Nat
  hopIdx : Nat
  inst : Nat
  route : BitVec 32
  fseq : Nat
  xid : BitVec 64
  payload : List Byte
  deriving DecidableEq, Repr

/-- A command of the block: one constructor per row of the table of operations and events. -/
inductive Instr where
  /-- NOP (R363). -/
  | nop (slot : Nat)
  /-- QUERY (R55). -/
  | query (slot : Nat)
  /-- QUERY_POINT (R56). -/
  | queryPoint (slot : Nat)
  /-- STORE_WRITE (R416). -/
  | storeWrite (slot : Nat)
  /-- STORE_READ (R416). -/
  | storeRead (slot : Nat)
  /-- STORE_APPEND (R416). -/
  | storeAppend (slot : Nat)
  /-- STORE_FLUSH (R423). -/
  | storeFlush (slot : Nat)
  /-- STORE_TRIM (R416). -/
  | storeTrim (slot : Nat)
  /-- STORE_ATTR_CREATE (R416). -/
  | storeAttrCreate (slot : Nat)
  /-- STORE_ATTR_DELETE (R416). -/
  | storeAttrDelete (slot : Nat)
  /-- STORE_ATTR_GET (R415). -/
  | storeAttrGet (slot : Nat)
  /-- STORE_ATTR_RESIZE (R416). -/
  | storeAttrResize (slot : Nat)
  /-- DIGEST (R328). -/
  | digest (slot : Nat)
  /-- DIGEST_VERIFY (R328). -/
  | digestVerify (slot : Nat)
  /-- MATCH_UPDATE (R249). -/
  | matchUpdate (slot : Nat)
  /-- MATCH_SEARCH (R253). -/
  | matchSearch (slot : Nat)
  /-- ABORT (R395). -/
  | abort (slot : Nat)
  /-- RING_SQ_TAIL_WRITE (R372). -/
  | ringSqTailWrite (inst sq : Nat) (val : BitVec 32)
  /-- SPORE_WRITE (R379). -/
  | sporeWrite (inst sq : Nat) (line : BitVec 512)
  /-- RING_CQ_HEAD_WRITE (R373). -/
  | ringCqHeadWrite (inst cq : Nat) (val : BitVec 32)
  /-- REGISTER_WRITE (R27). -/
  | registerWrite (tgt : WrTarget) (data : List Byte)
  /-- COMMAND_FETCH_START (R390). -/
  | commandFetchStart (inst sq : Nat)
  /-- SQ_ENTRY_READ_DONE (R374). -/
  | sqEntryReadDone (inst sq idx : Nat) (data : Option (BitVec 512))
  /-- SPORE_COMPARE_READ_DONE (R380). -/
  | sporeCompareReadDone (inst sq idx : Nat) (data : Option (BitVec 512))
  /-- PARAM_BLOCK_READ_DONE (R58). -/
  | paramBlockReadDone (slot : Nat) (data : Option (List Byte))
  /-- GROUP_DIRECTORY_READ_DONE (R61). -/
  | groupDirectoryReadDone (slot : Nat)
  /-- FLOW_ID_WAIT_END (R68). -/
  | flowIdWaitEnd (slot : Nat)
  /-- DEADLINE_TIMER_WAIT_END (R303). -/
  | deadlineTimerWaitEnd (slot : Nat)
  /-- ITEM_DISPATCH (R289). -/
  | itemDispatch (cls unit : Nat)
  /-- AFF_WAIT_EXPIRY (R291). -/
  | affWaitExpiry (slot pipe : Nat)
  /-- ITEM_END (R186). -/
  | itemEnd (f : Fin 128) (host : List (Option (List Byte)))
  /-- COMMIT_FINISH (R74). -/
  | commitFinish (slot : Nat)
  /-- COMPLETION_BUFFER_DRAIN (R392). -/
  | completionBufferDrain (inst cq : Nat)
  /-- CQ_AGG_TIME_EXPIRY (R400). -/
  | cqAggTimeExpiry (inst cq : Nat)
  /-- DEADLINE_EXPIRY (R304). -/
  | deadlineExpiry (slot : Nat)
  /-- BREAKER_FINISH (R63). -/
  | breakerFinish (slot pipe : Nat)
  /-- FLOW_SERVICE_END (R298). -/
  | flowServiceEnd (slot pipe op : Nat) (flow : FlowLeave)
  /-- HANDOFF_BATCH_TAKEN (R66). -/
  | handoffBatchTaken (slot pipe item stage : Nat)
  /-- QUADRANT_PARK (R504). -/
  | quadrantPark (quad : Nat)
  /-- ADMISSION_REQUEST (R509). -/
  | admissionRequest (units us level : Nat) (inst : Option Nat) (disc : Bool) (die : Option Nat)
  /-- GRANT_GIVEN (R509). -/
  | grantGiven
  /-- GRANT_RELEASE (R510). -/
  | grantRelease (id : Nat)
  /-- GRANT_EXPIRY (R510). -/
  | grantExpiry (id : Nat)
  /-- TELEMETRY_SAMPLE (R522). -/
  | telemetrySample (smp : Sample)
  /-- CAP_LIMIT_RISE (R511). -/
  | capLimitRise
  /-- THERMAL_LIMIT_RISE (R520). -/
  | thermalLimitRise (die : Nat)
  /-- FROND_CLOCK_STEP (R501). -/
  | frondClockStep (die : Nat)
  /-- OBSERVATION_WINDOW_END (R308). -/
  | observationWindowEnd (loads : List (Nat × Nat)) (occ : List Nat)
  /-- FROND_STOP (R177). -/
  | frondStop (f : Fin 128)
  /-- BUDGET (R158). -/
  | budget (f : Fin 128)
  /-- DOUBLE_FAULT_RECOVERY (R175). -/
  | doubleFaultRecovery (f : Fin 128)
  /-- STATE_PAGE_BACKING (R221). -/
  | statePageBacking (f : Fin 128)
  /-- STREAM_REQUEST_DONE (R170). -/
  | streamRequestDone (f : Fin 128) (tag : Nat) (data : Option (List Byte))
  /-- ADDI (R160). -/
  | addi (f : Fin 128) (d a : BitVec 5) (imm : BitVec 16)
  /-- ANDI (R160). -/
  | andi (f : Fin 128) (d a : BitVec 5) (imm : BitVec 16)
  /-- ORI (R160). -/
  | ori (f : Fin 128) (d a : BitVec 5) (imm : BitVec 16)
  /-- XORI (R160). -/
  | xori (f : Fin 128) (d a : BitVec 5) (imm : BitVec 16)
  /-- LUI (R160). -/
  | lui (f : Fin 128) (d : BitVec 5) (imm : BitVec 16)
  /-- SHI (R160). -/
  | shi (f : Fin 128) (d a : BitVec 5) (imm : BitVec 16)
  /-- SLTI (R160). -/
  | slti (f : Fin 128) (d a : BitVec 5) (imm : BitVec 16)
  /-- LD_B (R160). -/
  | ldB (f : Fin 128) (d a : BitVec 5) (imm : BitVec 16)
  /-- LD_H (R160). -/
  | ldH (f : Fin 128) (d a : BitVec 5) (imm : BitVec 16)
  /-- LD_W (R160). -/
  | ldW (f : Fin 128) (d a : BitVec 5) (imm : BitVec 16)
  /-- LD_D (R160). -/
  | ldD (f : Fin 128) (d a : BitVec 5) (imm : BitVec 16)
  /-- LDU_B (R160). -/
  | lduB (f : Fin 128) (d a : BitVec 5) (imm : BitVec 16)
  /-- LDU_H (R160). -/
  | lduH (f : Fin 128) (d a : BitVec 5) (imm : BitVec 16)
  /-- LDU_W (R160). -/
  | lduW (f : Fin 128) (d a : BitVec 5) (imm : BitVec 16)
  /-- ST_B (R160). -/
  | stB (f : Fin 128) (d a : BitVec 5) (imm : BitVec 16)
  /-- ST_H (R160). -/
  | stH (f : Fin 128) (d a : BitVec 5) (imm : BitVec 16)
  /-- ST_W (R160). -/
  | stW (f : Fin 128) (d a : BitVec 5) (imm : BitVec 16)
  /-- ST_D (R160). -/
  | stD (f : Fin 128) (d a : BitVec 5) (imm : BitVec 16)
  /-- FLD_S (R160). -/
  | fldS (f : Fin 128) (d a : BitVec 5) (imm : BitVec 16)
  /-- FLD_D (R160). -/
  | fldD (f : Fin 128) (d a : BitVec 5) (imm : BitVec 16)
  /-- FST_S (R160). -/
  | fstS (f : Fin 128) (d a : BitVec 5) (imm : BitVec 16)
  /-- FST_D (R160). -/
  | fstD (f : Fin 128) (d a : BitVec 5) (imm : BitVec 16)
  /-- BR (R160). -/
  | br (f : Fin 128) (cond a b : BitVec 5) (off : BitVec 11)
  /-- J (R160). -/
  | j (f : Fin 128) (off : BitVec 26)
  /-- JL (R160). -/
  | jl (f : Fin 128) (off : BitVec 26)
  /-- JR (R160). -/
  | jr (f : Fin 128) (a : BitVec 5)
  /-- JLR (R160). -/
  | jlr (f : Fin 128) (d a : BitVec 5)
  /-- FP (R160). -/
  | fp (f : Fin 128) (d a b : BitVec 5) (fn : BitVec 11)
  /-- FMADD (R160). -/
  | fmadd (f : Fin 128) (d a b c : BitVec 5) (dbl : Bool)
  /-- FMSUB (R160). -/
  | fmsub (f : Fin 128) (d a b c : BitVec 5) (dbl : Bool)
  /-- FNMADD (R160). -/
  | fnmadd (f : Fin 128) (d a b c : BitVec 5) (dbl : Bool)
  /-- FNMSUB (R160). -/
  | fnmsub (f : Fin 128) (d a b c : BitVec 5) (dbl : Bool)
  /-- FCRD (R157). -/
  | fcrd (f : Fin 128) (d : BitVec 5) (imm : BitVec 16)
  /-- FCWR (R157). -/
  | fcwr (f : Fin 128) (a : BitVec 5) (imm : BitVec 16)
  /-- HO (R160). -/
  | ho (f : Fin 128) (d a b : BitVec 5) (fn : BitVec 11)
  /-- ADD (R161). -/
  | add (f : Fin 128) (d a b : BitVec 5)
  /-- SUB (R161). -/
  | sub (f : Fin 128) (d a b : BitVec 5)
  /-- AND (R161). -/
  | opAnd (f : Fin 128) (d a b : BitVec 5)
  /-- OR (R161). -/
  | opOr (f : Fin 128) (d a b : BitVec 5)
  /-- XOR (R161). -/
  | opXor (f : Fin 128) (d a b : BitVec 5)
  /-- SLL (R161). -/
  | sll (f : Fin 128) (d a b : BitVec 5)
  /-- SRL (R161). -/
  | srl (f : Fin 128) (d a b : BitVec 5)
  /-- SRA (R161). -/
  | sra (f : Fin 128) (d a b : BitVec 5)
  /-- SLT (R161). -/
  | slt (f : Fin 128) (d a b : BitVec 5)
  /-- SLTU (R161). -/
  | sltu (f : Fin 128) (d a b : BitVec 5)
  /-- MIN (R161). -/
  | minS (f : Fin 128) (d a b : BitVec 5)
  /-- MAX (R161). -/
  | maxS (f : Fin 128) (d a b : BitVec 5)
  /-- MINU (R161). -/
  | minU (f : Fin 128) (d a b : BitVec 5)
  /-- MAXU (R161). -/
  | maxU (f : Fin 128) (d a b : BitVec 5)
  /-- CLZ (R161). -/
  | clz (f : Fin 128) (d a : BitVec 5)
  /-- CTZ (R161). -/
  | ctz (f : Fin 128) (d a : BitVec 5)
  /-- POPC (R161). -/
  | popc (f : Fin 128) (d a : BitVec 5)
  /-- BSWAP (R161). -/
  | bswap (f : Fin 128) (d a : BitVec 5)
  /-- MUL (R161). -/
  | mulLo (f : Fin 128) (d a b : BitVec 5)
  /-- MULH (R161). -/
  | mulh (f : Fin 128) (d a b : BitVec 5)
  /-- MULHU (R161). -/
  | mulhu (f : Fin 128) (d a b : BitVec 5)
  /-- DIV (R162). -/
  | divS (f : Fin 128) (d a b : BitVec 5)
  /-- DIVU (R162). -/
  | divu (f : Fin 128) (d a b : BitVec 5)
  /-- REM (R162). -/
  | rem (f : Fin 128) (d a b : BitVec 5)
  /-- REMU (R162). -/
  | remu (f : Fin 128) (d a b : BitVec 5)
  /-- TRAP (R161). -/
  | trap (f : Fin 128) (b : BitVec 5)
  /-- ERET (R174). -/
  | eret (f : Fin 128)
  /-- FENCE (R171). -/
  | fence (f : Fin 128)
  /-- WFE (R161). -/
  | wfe (f : Fin 128)
  /-- BP_FLUSH (R179). -/
  | bpFlush (f : Fin 128)
  /-- BP_BAR (R180). -/
  | bpBar (f : Fin 128)
  /-- BP_UNBAR (R180). -/
  | bpUnbar (f : Fin 128)
  /-- SPCLR (R167). -/
  | spclr (f : Fin 128)
  /-- STR_ISSUE (R168). -/
  | strIssue (f : Fin 128) (a b : BitVec 5)
  /-- STR_WAIT (R170). -/
  | strWait (f : Fin 128) (b : BitVec 5)
  /-- STR_POLL (R169). -/
  | strPoll (f : Fin 128) (d b : BitVec 5)
  /-- STR_CANCEL (R161). -/
  | strCancel (f : Fin 128)
  /-- VADD (R199). -/
  | vadd (f : Fin 128) (o : VOps)
  /-- VSUB (R199). -/
  | vsub (f : Fin 128) (o : VOps)
  /-- VMUL (R199). -/
  | vmul (f : Fin 128) (o : VOps)
  /-- VMULHU (R199). -/
  | vmulhu (f : Fin 128) (o : VOps)
  /-- VMIN (R199). -/
  | vmin (f : Fin 128) (o : VOps)
  /-- VMAX (R199). -/
  | vmax (f : Fin 128) (o : VOps)
  /-- VMINU (R199). -/
  | vminu (f : Fin 128) (o : VOps)
  /-- VMAXU (R199). -/
  | vmaxu (f : Fin 128) (o : VOps)
  /-- VAND (R199). -/
  | vand (f : Fin 128) (o : VOps)
  /-- VOR (R199). -/
  | vor (f : Fin 128) (o : VOps)
  /-- VXOR (R199). -/
  | vxor (f : Fin 128) (o : VOps)
  /-- VANDN (R199). -/
  | vandn (f : Fin 128) (o : VOps)
  /-- VSLL (R199). -/
  | vsll (f : Fin 128) (o : VOps)
  /-- VSRL (R199). -/
  | vsrl (f : Fin 128) (o : VOps)
  /-- VSRA (R199). -/
  | vsra (f : Fin 128) (o : VOps)
  /-- VPICK (R199). -/
  | vpick (f : Fin 128) (o : VOps)
  /-- VOPX (R198). -/
  | vopx (f : Fin 128) (o : VOps) (fn : BitVec 4)
  /-- VEQ (R200). -/
  | veq (f : Fin 128) (o : VOps)
  /-- VNE (R200). -/
  | vne (f : Fin 128) (o : VOps)
  /-- VLT (R200). -/
  | vlt (f : Fin 128) (o : VOps)
  /-- VGE (R200). -/
  | vge (f : Fin 128) (o : VOps)
  /-- VLTU (R200). -/
  | vltu (f : Fin 128) (o : VOps)
  /-- VGEU (R200). -/
  | vgeu (f : Fin 128) (o : VOps)
  /-- VOVADD (R200). -/
  | vovadd (f : Fin 128) (o : VOps)
  /-- VOVSUB (R200). -/
  | vovsub (f : Fin 128) (o : VOps)
  /-- VOVMUL (R200). -/
  | vovmul (f : Fin 128) (o : VOps)
  /-- VOVADDU (R200). -/
  | vovaddu (f : Fin 128) (o : VOps)
  /-- VOVSUBU (R200). -/
  | vovsubu (f : Fin 128) (o : VOps)
  /-- VOVMULU (R200). -/
  | vovmulu (f : Fin 128) (o : VOps)
  /-- VCMPX (R198). -/
  | vcmpx (f : Fin 128) (o : VOps) (fn : BitVec 4)
  /-- VFADD (R201). -/
  | vfadd (f : Fin 128) (o : VOps)
  /-- VFSUB (R201). -/
  | vfsub (f : Fin 128) (o : VOps)
  /-- VFMUL (R201). -/
  | vfmul (f : Fin 128) (o : VOps)
  /-- VFDIV (R201). -/
  | vfdiv (f : Fin 128) (o : VOps)
  /-- VFSQRT (R201). -/
  | vfsqrt (f : Fin 128) (o : VOps)
  /-- VFMIN (R201). -/
  | vfmin (f : Fin 128) (o : VOps)
  /-- VFMAX (R201). -/
  | vfmax (f : Fin 128) (o : VOps)
  /-- VFMACC (R201). -/
  | vfmacc (f : Fin 128) (o : VOps)
  /-- VFEQ (R201). -/
  | vfeq (f : Fin 128) (o : VOps)
  /-- VFLT (R201). -/
  | vflt (f : Fin 128) (o : VOps)
  /-- VFLE (R201). -/
  | vfle (f : Fin 128) (o : VOps)
  /-- VFTEQ (R201). -/
  | vfteq (f : Fin 128) (o : VOps)
  /-- VFTLT (R201). -/
  | vftlt (f : Fin 128) (o : VOps)
  /-- VFCVTI (R201). -/
  | vfcvti (f : Fin 128) (o : VOps)
  /-- VICVTF (R201). -/
  | vicvtf (f : Fin 128) (o : VOps)
  /-- VFWID (R201). -/
  | vfwid (f : Fin 128) (o : VOps)
  /-- MKAND (R202). -/
  | mkand (f : Fin 128) (o : VOps)
  /-- MKOR (R202). -/
  | mkor (f : Fin 128) (o : VOps)
  /-- MKXOR (R202). -/
  | mkxor (f : Fin 128) (o : VOps)
  /-- MKANDN (R202). -/
  | mkandn (f : Fin 128) (o : VOps)
  /-- MKNOT (R202). -/
  | mknot (f : Fin 128) (o : VOps)
  /-- MKCOPY (R202). -/
  | mkcopy (f : Fin 128) (o : VOps)
  /-- MKCOUNT (R202). -/
  | mkcount (f : Fin 128) (o : VOps)
  /-- MKFIRST (R202). -/
  | mkfirst (f : Fin 128) (o : VOps)
  /-- MKFILL (R202). -/
  | mkfill (f : Fin 128) (o : VOps)
  /-- MKZERO (R202). -/
  | mkzero (f : Fin 128) (o : VOps)
  /-- MTOV (R202). -/
  | mtov (f : Fin 128) (o : VOps)
  /-- VTOM (R202). -/
  | vtom (f : Fin 128) (o : VOps)
  /-- VCOPY (R203). -/
  | vcopy (f : Fin 128) (o : VOps)
  /-- VBCAST (R203). -/
  | vbcast (f : Fin 128) (o : VOps)
  /-- VEXT (R203). -/
  | vext (f : Fin 128) (o : VOps)
  /-- VINS (R203). -/
  | vins (f : Fin 128) (o : VOps)
  /-- VSEQ (R203). -/
  | vseq (f : Fin 128) (o : VOps)
  /-- VSQUEEZE (R203). -/
  | vsqueeze (f : Fin 128) (o : VOps)
  /-- VWID (R203). -/
  | vwid (f : Fin 128) (o : VOps)
  /-- VWIDU (R203). -/
  | vwidu (f : Fin 128) (o : VOps)
  /-- VNAR (R203). -/
  | vnar (f : Fin 128) (o : VOps)
  /-- VSUMR (R204). -/
  | vsumr (f : Fin 128) (o : VOps)
  /-- VSUMUR (R204). -/
  | vsumur (f : Fin 128) (o : VOps)
  /-- VMINR (R204). -/
  | vminr (f : Fin 128) (o : VOps)
  /-- VMAXR (R204). -/
  | vmaxr (f : Fin 128) (o : VOps)
  /-- VMINUR (R204). -/
  | vminur (f : Fin 128) (o : VOps)
  /-- VMAXUR (R204). -/
  | vmaxur (f : Fin 128) (o : VOps)
  /-- VANDR (R204). -/
  | vandr (f : Fin 128) (o : VOps)
  /-- VORR (R204). -/
  | vorr (f : Fin 128) (o : VOps)
  /-- VXORR (R204). -/
  | vxorr (f : Fin 128) (o : VOps)
  /-- VBITCNT (R204). -/
  | vbitcnt (f : Fin 128) (o : VOps)
  /-- VFSUMR (R205). -/
  | vfsumr (f : Fin 128) (o : VOps)
  /-- VFMINR (R204). -/
  | vfminr (f : Fin 128) (o : VOps)
  /-- VFMAXR (R204). -/
  | vfmaxr (f : Fin 128) (o : VOps)
  /-- VLD (R206). -/
  | vld (f : Fin 128) (o : VOps)
  /-- VST (R206). -/
  | vst (f : Fin 128) (o : VOps)
  /-- VLDS (R206). -/
  | vlds (f : Fin 128) (o : VOps)
  /-- VSTS (R206). -/
  | vsts (f : Fin 128) (o : VOps)
  /-- VGATH (R215). -/
  | vgath (f : Fin 128) (o : VOps) (scale : BitVec 2) (dev : Bool)
  /-- VSCAT (R215). -/
  | vscat (f : Fin 128) (o : VOps) (scale : BitVec 2) (dev : Bool)
  /-- VUNPK (R209). -/
  | vunpk (f : Fin 128) (o : VOps)
  /-- VPCMP (R209). -/
  | vpcmp (f : Fin 128) (o : VOps)
  /-- VPSEL (R209). -/
  | vpsel (f : Fin 128) (o : VOps)
  /-- VDICT (R209). -/
  | vdict (f : Fin 128) (o : VOps)
  /-- VRLE (R210). -/
  | vrle (f : Fin 128) (o : VOps)
  /-- VRLEC (R210). -/
  | vrlec (f : Fin 128) (o : VOps)
  /-- VHASH (R211). -/
  | vhash (f : Fin 128) (o : VOps)
  /-- VHASHX (R211). -/
  | vhashx (f : Fin 128) (o : VOps)
  /-- VHFIN (R211). -/
  | vhfin (f : Fin 128) (o : VOps)
  /-- VPART (R212). -/
  | vpart (f : Fin 128) (o : VOps)
  /-- VSTRIP (R228). -/
  | vstrip (f : Fin 128) (o : VOps)
  /-- MEM_READ_REQUEST (R335). -/
  | memReadRequest (req : Option Nat) (addr : Nat) (e0 e1 : Nat)
  /-- MEM_WRITE_REQUEST (R336). -/
  | memWriteRequest (req : Option Nat) (addr : Nat) (data : MemWrite)
  /-- LEAF_ENTRY_CHANGE (R340). -/
  | leafEntryChange (inst page : Nat) (ent : BitVec 32)
  /-- RELEASE_SCRUB_BURST (R345). -/
  | releaseScrubBurst
  /-- SCRUB_FRAME_DONE (R345). -/
  | scrubFrameDone (frame : Nat)
  /-- RECOLOUR_DONE (R346). -/
  | recolourDone (frame : Nat)
  /-- PATROL_READ (R351). -/
  | patrolRead (addr : Nat) (e0 e1 : Nat)
  /-- RETRAIN_DUE (R352). -/
  | retrainDue (ch : Nat)
  /-- RETRAIN_DONE (R352). -/
  | retrainDone (ch : Nat) (ok : Bool)
  /-- REFRESH_DUE (R353). -/
  | refreshDue (ch : Nat)
  /-- CMU_SEARCH_BURST (R236). -/
  | cmuSearchBurst (unit slot pipe op : Nat) (keys : Burst)
  /-- CMU_SHADOW_WRITE_ACK (R243). -/
  | cmuShadowWriteAck (unit : Nat)
  /-- CMU_UPDATE_STEP (R243). -/
  | cmuUpdateStep (unit : Nat)
  /-- CMU_COMPARER_CHECK (R254). -/
  | cmuComparerCheck (unit : Nat) (auto upset shadowOk : Bool)
  /-- CMU_THROTTLE_STEP_CHANGE (R258). -/
  | cmuThrottleStepChange (unit temp : Nat)
  /-- CMU_CMPCFG_WRITE (R265). -/
  | cmuCmpcfgWrite (val : BitVec 32)
  /-- CMU_TABLE_RECLAIM (R251). -/
  | cmuTableReclaim (inst table : Nat)
  /-- SMU_JOB_END (R276). -/
  | smuJobEnd (unit : Nat)
  /-- SMU_QUANTUM_EXPIRY (R280). -/
  | smuQuantumExpiry (unit : Nat)
  /-- ENGINE_UNIT_FAULT (R282). -/
  | engineUnitFault (kind unit : Nat)
  /-- FABRIC_LINK (R20). -/
  | fabricLink (link : Nat)
  /-- DIG_CONTEXT_OPEN (R313). -/
  | digContextOpen (unit : Nat) (frond : Option (Fin 128))
  /-- DIG_START (R315). -/
  | digStart (unit slot acc : Nat) (cfg : BitVec 64)
  /-- DIG_CLOSE (R323). -/
  | digClose (unit slot acc : Nat)
  /-- DIG_DATA_WRITE (R317). -/
  | digDataWrite (unit slot acc : Nat) (word : BitVec 64)
  /-- DIG_LAST_WRITE (R317). -/
  | digLastWrite (unit slot acc : Nat) (word : BitVec 64) (valid : Nat)
  /-- DIG_FINISH (R318). -/
  | digFinish (unit : Nat) (slot : DigFinished)
  /-- DGU_LANE_GRANT (R324). -/
  | dguLaneGrant (unit slot : Nat)
  /-- DGU_QUANTUM_EXPIRY (R326). -/
  | dguQuantumExpiry (unit : Nat)
  /-- ROT_ALARM (R547). -/
  | rotAlarm (sensor : Nat)
  /-- QUEUE_DRAIN_COMPLETE (R398). -/
  | queueDrainComplete (inst sq : Nat)
  /-- ORDERING_WAIT_END (R418). -/
  | orderingWaitEnd (slot : Nat)
  /-- EXTENT_READ_DONE (R408). -/
  | extentReadDone (id : Nat) (data : Option (List Byte))
  /-- NVME_COMPLETION (R425). -/
  | nvmeCompletion (id : Nat) (ok : Bool)
  /-- NVME_TIMEOUT (R425). -/
  | nvmeTimeout (id : Nat)
  /-- DESTAGE (R424). -/
  | destage
  /-- JOURNAL_COMMIT (R422). -/
  | journalCommit
  /-- JOURNAL_COPY_DONE (R403). -/
  | journalCopyDone
  /-- WRITE_CACHE_ROOM (R424). -/
  | writeCacheRoom (slot : Nat)
  /-- STORE_MOUNT (R404). -/
  | storeMount (found : List SsdFound)
  /-- IDLE1_EXPIRY (R432). -/
  | idle1Expiry
  /-- IDLE2_EXPIRY (R432). -/
  | idle2Expiry
  /-- IDLE3_EXPIRY (R432). -/
  | idle3Expiry
  /-- PS_ENTRY_COMPLETE (R505). -/
  | psEntryComplete
  /-- PS_EXIT_COMPLETE (R506). -/
  | psExitComplete
  /-- INFO (R469). -/
  | info (fn : Nat)
  /-- INST_CREATE (R470). -/
  | instCreate (fn : Nat) (host : Option (List Byte))
  /-- INST_RESIZE (R445). -/
  | instResize (fn : Nat) (host : Option (List Byte))
  /-- INST_RESET (R455). -/
  | instReset (fn : Nat)
  /-- INSTANCE_FENCE_COMPLETE (R307). -/
  | instanceFenceComplete (inst : Nat)
  /-- INSTANCE_RESET_FINISH (R455). -/
  | instanceResetFinish (inst : Nat)
  /-- INST_DESTROY (R458). -/
  | instDestroy (fn : Nat)
  /-- RESIZE_DRAIN_DONE (R446). -/
  | resizeDrainDone (inst : Nat)
  /-- RESIZE_DRAIN_TIMEOUT (R446). -/
  | resizeDrainTimeout (inst : Nat)
  /-- FUNCTION_LEVEL_RESET (R454). -/
  | functionLevelReset (fn : Nat)
  /-- VF_ENABLE_CLEAR (R454). -/
  | vfEnableClear
  /-- QUEUE_CREATE (R359). -/
  | queueCreate (fn : Nat)
  /-- QUEUE_DELETE (R398). -/
  | queueDelete (fn : Nat)
  /-- QUEUE_RESET (R398). -/
  | queueReset (fn : Nat)
  /-- PLAN_LOAD (R48). -/
  | planLoad (fn : Nat) (host : Option (List Byte)) (host2 : Option (List Byte))
  /-- PLAN_UNLOAD (R52). -/
  | planUnload (fn : Nat)
  /-- CMU_TABLE_CREATE (R251). -/
  | cmuTableCreate (fn : Nat) (host : Option (List Byte))
  /-- CMU_TABLE_REFILL (R251). -/
  | cmuTableRefill (fn : Nat) (host : Option (List Byte))
  /-- CMU_TABLE_DELETE (R251). -/
  | cmuTableDelete (fn : Nat)
  /-- PROFILE_SET (R449). -/
  | profileSet (fn : Nat)
  /-- PROFILE_SET_COMPLETE (R449). -/
  | profileSetComplete
  /-- POWER_CAP_SET (R511). -/
  | powerCapSet (fn : Nat)
  /-- TELEMETRY_CFG (R523). -/
  | telemetryCfg (fn : Nat)
  /-- FW_STAGE (R480). -/
  | fwStage (fn : Nat) (host : Option (List Byte))
  /-- FW_ACTIVATE (R481). -/
  | fwActivate (fn : Nat)
  /-- FW_STANDBY_VERIFIED (R481). -/
  | fwStandbyVerified (ok : Bool)
  /-- FW_HANDOVER (R481). -/
  | fwHandover (ok : Bool)
  /-- PLAN_RELOAD (R481). -/
  | planReload (inst plan : Nat)
  /-- FW_REJOIN (R481). -/
  | fwRejoin
  /-- LOG_READ (R478). -/
  | logRead (fn : Nat)
  /-- SIDEBAND_LOG_READ (R478). -/
  | sidebandLogRead (start count : Nat)
  /-- SET_ROLE (R566). -/
  | setRole (fn : Nat)
  /-- SET_WORKERS (R567). -/
  | setWorkers (fn : Nat) (host : Option (List Byte))
  /-- ADMIT_SSD (R555). -/
  | admitSsd (fn : Nat) (found : SsdFound)
  /-- MC_DIVERGE (R489). -/
  | mcDiverge
  /-- MC_WATCHDOG (R489). -/
  | mcWatchdog (core : Bool)
  /-- MC_CORE_FAULT (R489). -/
  | mcCoreFault (core : Bool)
  /-- ARBITRATION_VERDICT (R490). -/
  | arbitrationVerdict (failA failB : Bool) (sliceA sliceB : Byte)
  /-- STANDBY_SWEEP_DONE (R494). -/
  | standbySweepDone (ok : Bool) (slice : Byte)
  /-- MC_RETEST (R495). -/
  | mcRetest (ok : Bool) (slice : Byte)
  /-- MC_REJOIN (R495). -/
  | mcRejoin
  /-- MC_RETURN (R496). -/
  | mcReturn
  /-- AON_TICK (R502). -/
  | aonTick
  /-- REFCLK_LOSS (R500). -/
  | refclkLoss
  /-- REFCLK_RETURN (R500). -/
  | refclkReturn
  /-- SUPPLY_WARNING (R516). -/
  | supplyWarning (src : Nat)
  /-- SAG_CLEAR (R517). -/
  | sagClear
  /-- SENSOR_CALIBRATION (R519). -/
  | sensorCalibration (offs : List Int)
  /-- THERMAL_TRIP (R521). -/
  | thermalTrip (sensor : Nat)
  /-- THERMAL_HOLD_END (R521). -/
  | thermalHoldEnd
  /-- VIN_RESET (R515). -/
  | vinReset
  /-- RAIL_RESET (R515). -/
  | railReset (dom : Nat)
  /-- POWER_ON_RESET (R583). -/
  | powerOnReset
  /-- MOD_RST_N_ASSERT (R584). -/
  | modRstNAssert
  /-- PERST_N_ASSERT (R584). -/
  | perstNAssert
  /-- RESET_RELEASE (R584). -/
  | resetRelease (perst : Bool)
  /-- BOOT (R534). -/
  | boot (refLoc : Bool)
  /-- HOT_RESET (R552). -/
  | hotReset (port : Nat)
  /-- HOST_LINK_ABSENCE_TIMEOUT (R552). -/
  | hostLinkAbsenceTimeout (port : Nat)
  /-- HOST_LINK_RETURN (R552). -/
  | hostLinkReturn (port : Nat)
  /-- CXL_MEM_READ (R553). -/
  | cxlMemRead (addr : Nat)
  /-- CXL_MEM_WRITE (R553). -/
  | cxlMemWrite (addr : Nat) (data : List Byte)
  /-- FLIT_RECEIVE (R559). -/
  | flitReceive (link : Nat) (flit : FlitIn)
  /-- FLIT_ACK_TIMEOUT (R559). -/
  | flitAckTimeout (link : Nat)
  /-- RHIZOME_RETRAIN_DONE (R560). -/
  | rhizomeRetrainDone (link : Nat) (ok : Bool)
  /-- LINK_UP_RETRY (R560). -/
  | linkUpRetry (link : Nat)
  /-- FRAME_RESEND_TIMEOUT (R561). -/
  | frameResendTimeout (route fseq : Nat)
  /-- HELLO (R567). -/
  | helloFrame (link : Nat) (fr : FrameIn)
  /-- CONFIG (R567). -/
  | configFrame (link : Nat) (fr : FrameIn)
  /-- BYE (R567). -/
  | byeFrame (link : Nat) (fr : FrameIn)
  /-- PLAN (R569). -/
  | planFrame (link : Nat) (fr : FrameIn)
  /-- FANOUT (R571). -/
  | fanoutFrame (link : Nat) (fr : FrameIn)
  /-- XDATA (R563). -/
  | xdataFrame (link : Nat) (fr : FrameIn)
  /-- END (R143). -/
  | endFrame (link : Nat) (fr : FrameIn)
  /-- ACKF (R561). -/
  | ackFrame (link : Nat) (fr : FrameIn)
  /-- FAIL (R572). -/
  | failFrame (link : Nat) (fr : FrameIn)
  /-- STOP (R572). -/
  | stopFrame (link : Nat) (fr : FrameIn)
  /-- BARRIER_ARM (R575). -/
  | barrierArmFrame (link : Nat) (fr : FrameIn)
  /-- TELEM (R576). -/
  | telemFrame (link : Nat) (fr : FrameIn)
  /-- FANOUT_STOP_TIMEOUT (R572). -/
  | fanoutStopTimeout (xid : Nat)
  /-- FANOUT_WORKER_TIMEOUT (R572). -/
  | fanoutWorkerTimeout (xid : Nat)
  /-- HBAR0_IN_FALL (R574). -/
  | hbar0InFall
  /-- HBAR0_IN_RISE (R574). -/
  | hbar0InRise
  /-- HBAR0_STOP_HOLD (R574). -/
  | hbar0StopHold
  /-- HBAR1_IN_FALL (R575). -/
  | hbar1InFall
  /-- HBAR1_IN_RISE (R574). -/
  | hbar1InRise
  /-- GET_VERSION (R538). -/
  | getVersion (tr : Nat) (req : List Byte)
  /-- GET_CAPABILITIES (R538). -/
  | getCapabilities (tr : Nat) (req : List Byte)
  /-- NEGOTIATE_ALGORITHMS (R538). -/
  | negotiateAlgorithms (tr : Nat) (req : List Byte)
  /-- GET_DIGESTS (R538). -/
  | getDigests (tr : Nat) (req : List Byte)
  /-- GET_CERTIFICATE (R537). -/
  | getCertificate (tr : Nat) (req : List Byte)
  /-- CHALLENGE (R540). -/
  | challenge (tr : Nat) (req : List Byte)
  /-- GET_MEASUREMENTS (R539). -/
  | getMeasurements (tr : Nat) (req : List Byte)
  /-- GET_SLH_SIG (R540). -/
  | getSlhSig (tr : Nat) (req : List Byte)
  /-- SPDM_SIGNING_DONE (R538). -/
  | spdmSigningDone
  /-- DEBUG_UNLOCK (R545). -/
  | debugUnlock (token : List Byte)
  /-- TO_RETURN (R545). -/
  | toReturn (token : List Byte)
  /-- TO_DECOMMISSIONED (R545). -/
  | toDecommissioned (token : List Byte)
  /-- REVOKE_KEY (R545). -/
  | revokeKey (token : List Byte)
  /-- QUERY_DEVICE_IDENTIFIERS (R546). -/
  | queryDeviceIdentifiers (tr : Nat) (req : List Byte)
  /-- GET_FIRMWARE_PARAMETERS (R546). -/
  | getFirmwareParameters (tr : Nat) (req : List Byte)
  /-- REQUEST_UPDATE (R546). -/
  | requestUpdate (tr : Nat) (req : List Byte)
  /-- PASS_COMPONENT_TABLE (R546). -/
  | passComponentTable (tr : Nat) (req : List Byte)
  /-- UPDATE_COMPONENT (R546). -/
  | updateComponent (tr : Nat) (req : List Byte)
  /-- REQUEST_FIRMWARE_DATA (R546). -/
  | requestFirmwareData (tr : Nat) (req : List Byte)
  /-- TRANSFER_COMPLETE (R546). -/
  | transferComplete (tr : Nat) (req : List Byte)
  /-- VERIFY_COMPLETE (R546). -/
  | verifyComplete (tr : Nat) (req : List Byte)
  /-- APPLY_COMPLETE (R546). -/
  | applyComplete (tr : Nat) (req : List Byte)
  /-- ACTIVATE_FIRMWARE (R546). -/
  | activateFirmware (tr : Nat) (req : List Byte)
  /-- GET_STATUS (R546). -/
  | getStatus (tr : Nat) (req : List Byte)
  /-- CANCEL_UPDATE (R546). -/
  | cancelUpdate (tr : Nat) (req : List Byte)
  /-- POWER_ON_RESET_RELEASE (R586). -/
  | powerOnResetRelease
  /-- VIN_APPLIED (R586). -/
  | vinApplied (vin : Nat)
  /-- HOST_PORT_OUT_OF_L0 (R552). -/
  | hostPortOutOfL0 (port : Nat)
  /-- FEC_BLOCK_LOCK_LOSS (R560). -/
  | fecBlockLockLoss (link : Nat)
  /-- HOST_READ_DONE (R249). -/
  | hostReadDone (slot : Nat) (data : Option (List Byte))
  deriving DecidableEq, Repr

end Sys2Proof
end

