-- ==== Sys2Proof/Decode.lean ====
section
/-!
DEFINITION. Decoding. The table of operations and events gives no row any bits, so `decodeTableWord` reads none. The
instruction words of the fronds have the formats and opcodes of R159 to R161 and R197 to R213: `decodeFrond` gives the
command that a word of frond f is.
-/

namespace Sys2Proof

/-- The command that a word spells by the table's bits: no row has any. -/
def decodeTableWord (_nbits _w : Nat) : Option Instr := none

/-- An instruction word of a frond. -/
abbrev FrondWord := BitVec 32

/-- Field d of R159. -/
def FrondWord.fieldD (w : FrondWord) : BitVec 5 := w.extractLsb' 21 5

/-- Field a of R159. -/
def FrondWord.fieldA (w : FrondWord) : BitVec 5 := w.extractLsb' 16 5

/-- Field b of R159. -/
def FrondWord.fieldB (w : FrondWord) : BitVec 5 := w.extractLsb' 11 5

/-- FN, the minor opcode of the R format. -/
def FrondWord.minor (w : FrondWord) : BitVec 11 := w.extractLsb' 0 11

/-- The fields of the V format (R197). -/
def FrondWord.vops (w : FrondWord) : VOps :=
  { d := w.fieldD, a := w.fieldA, b := w.fieldB, men := w.getLsbD 10, msk := w.extractLsb' 7 3, w := w.extractLsb' 4 3 }

/-- An operation of three fields. -/
def FrondWord.rrr (w : FrondWord) (f : Fin 128) (c : Fin 128 → BitVec 5 → BitVec 5 → BitVec 5 → Instr) : Option Instr :=
  some (c f w.fieldD w.fieldA w.fieldB)

/-- An operation of two fields. -/
def FrondWord.rr (w : FrondWord) (f : Fin 128) (c : Fin 128 → BitVec 5 → BitVec 5 → Instr) : Option Instr :=
  some (c f w.fieldD w.fieldA)

/-- An I-format operation. -/
def FrondWord.imm (w : FrondWord) (f : Fin 128) (c : Fin 128 → BitVec 5 → BitVec 5 → BitVec 16 → Instr) : Option Instr :=
  some (c f w.fieldD w.fieldA (w.extractLsb' 0 16))

/-- Major OP (R161). -/
def decodeOp (f : Fin 128) (w : FrondWord) : Option Instr :=
  match w.minor.toNat with
  | 0x000 => w.rrr f .add
  | 0x001 => w.rrr f .sub
  | 0x002 => w.rrr f .opAnd
  | 0x003 => w.rrr f .opOr
  | 0x004 => w.rrr f .opXor
  | 0x005 => w.rrr f .sll
  | 0x006 => w.rrr f .srl
  | 0x007 => w.rrr f .sra
  | 0x008 => w.rrr f .slt
  | 0x009 => w.rrr f .sltu
  | 0x00A => w.rrr f .minS
  | 0x00B => w.rrr f .maxS
  | 0x00C => w.rrr f .minU
  | 0x00D => w.rrr f .maxU
  | 0x010 => w.rr f .clz
  | 0x011 => w.rr f .ctz
  | 0x012 => w.rr f .popc
  | 0x013 => w.rr f .bswap
  | _ => none

/-- Major MULDIV (R161). -/
def decodeMulDiv (f : Fin 128) (w : FrondWord) : Option Instr :=
  match w.minor.toNat with
  | 0x000 => w.rrr f .mulLo
  | 0x001 => w.rrr f .mulh
  | 0x002 => w.rrr f .mulhu
  | 0x004 => w.rrr f .divS
  | 0x005 => w.rrr f .divu
  | 0x006 => w.rrr f .rem
  | 0x007 => w.rrr f .remu
  | _ => none

/-- Major FMA: source c in [10:6]; which of the eight operations [5:0] selects is `Config.fmaSelect` (R160, log 5). -/
def decodeFma (f : Fin 128) (w : FrondWord) : Option Instr :=
  let c := w.extractLsb' 6 5
  match Config.fmaSelect (w.extractLsb' 0 6) with
  | none => none
  | some (op, dbl) =>
    match op with
    | 0 => some (.fmadd f w.fieldD w.fieldA w.fieldB c dbl)
    | 1 => some (.fmsub f w.fieldD w.fieldA w.fieldB c dbl)
    | 2 => some (.fnmadd f w.fieldD w.fieldA w.fieldB c dbl)
    | 3 => some (.fnmsub f w.fieldD w.fieldA w.fieldB c dbl)

/-- Major SYS (R161). -/
def decodeSys (f : Fin 128) (w : FrondWord) : Option Instr :=
  match w.minor.toNat with
  | 0x001 => some (.trap f w.fieldB)
  | 0x002 => some (.eret f)
  | 0x003 => some (.fence f)
  | 0x004 => some (.wfe f)
  | 0x010 => some (.bpFlush f)
  | 0x011 => some (.bpBar f)
  | 0x012 => some (.bpUnbar f)
  | 0x020 => some (.spclr f)
  | _ => none

/-- Major STR (R161). -/
def decodeStr (f : Fin 128) (w : FrondWord) : Option Instr :=
  match w.minor.toNat with
  | 0x000 => some (.strIssue f w.fieldA w.fieldB)
  | 0x001 => some (.strWait f w.fieldB)
  | 0x002 => some (.strPoll f w.fieldD w.fieldB)
  | 0x003 => some (.strCancel f)
  | _ => none

/-- The operations of VOP by minor opcode (R199). -/
def vopTable : List (Fin 128 → VOps → Instr) :=
  [.vadd, .vsub, .vmul, .vmulhu, .vmin, .vmax, .vminu, .vmaxu, .vand, .vor, .vxor, .vandn, .vsll, .vsrl, .vsra, .vpick]

/-- VCMP (R200). -/
def vcmpTable : List (Fin 128 → VOps → Instr) :=
  [.veq, .vne, .vlt, .vge, .vltu, .vgeu, .vovadd, .vovsub, .vovmul, .vovaddu, .vovsubu, .vovmulu]

/-- VFP (R201). -/
def vfpTable : List (Fin 128 → VOps → Instr) :=
  [.vfadd, .vfsub, .vfmul, .vfdiv, .vfsqrt, .vfmin, .vfmax, .vfmacc, .vfeq, .vflt, .vfle, .vfteq, .vftlt, .vfcvti,
   .vicvtf, .vfwid]

/-- VMASK (R202). -/
def vmaskTable : List (Fin 128 → VOps → Instr) :=
  [.mkand, .mkor, .mkxor, .mkandn, .mknot, .mkcopy, .mkcount, .mkfirst, .mkfill, .mkzero, .mtov, .vtom]

/-- VMOVE (R203). -/
def vmoveTable : List (Fin 128 → VOps → Instr) :=
  [.vcopy, .vbcast, .vext, .vins, .vseq, .vsqueeze, .vwid, .vwidu, .vnar]

/-- VRED (R204). -/
def vredTable : List (Fin 128 → VOps → Instr) :=
  [.vsumr, .vsumur, .vminr, .vmaxr, .vminur, .vmaxur, .vandr, .vorr, .vxorr, .vbitcnt, .vfsumr, .vfminr, .vfmaxr]

/-- VMEM (R206). -/
def vmemTable : List (Fin 128 → VOps → Instr) := [.vld, .vst, .vlds, .vsts]

/-- VPACK (R209). -/
def vpackTable : List (Fin 128 → VOps → Instr) := [.vunpk, .vpcmp, .vpsel, .vdict, .vrle, .vrlec]

/-- VHASH (R211). -/
def vhashTable : List (Fin 128 → VOps → Instr) := [.vhash, .vhashx, .vhfin, .vpart]

/-- The vector majors (R198, R213); VGS has its direction in bit 0, the space in bit 1, the scale above. -/
def decodeVector (f : Fin 128) (w : FrondWord) : Option Instr :=
  let fn := w.extractLsb' 0 4
  let pick := fun (t : List (Fin 128 → VOps → Instr)) => t[fn.toNat]?.map fun c => c f w.vops
  match (w.extractLsb' 26 6).toNat with
  | 0x30 => pick vopTable
  | 0x31 => some (.vopx f w.vops fn)
  | 0x32 => pick vcmpTable
  | 0x33 => if fn.toNat < vcmpTable.length then some (.vcmpx f w.vops fn) else none
  | 0x34 => pick vfpTable
  | 0x35 => pick vmaskTable
  | 0x36 => pick vmoveTable
  | 0x37 => pick vredTable
  | 0x38 => pick vmemTable
  | 0x39 =>
    if fn.getLsbD 0 then some (.vscat f w.vops (fn.extractLsb' 2 2) (fn.getLsbD 1))
    else some (.vgath f w.vops (fn.extractLsb' 2 2) (fn.getLsbD 1))
  | 0x3A => pick vpackTable
  | 0x3B => pick vhashTable
  | 0x3C => if fn = 0 then some (.vstrip f w.vops) else none
  | _ => none

/-- The command that an instruction word of frond f is (R159 to R161, R197, R198); `none` is a major or minor opcode that
no table lists, which raises ILLEGAL. What a command itself makes of its fields (a COND above 5, the field rules of R197,
a control register that does not exist) is its own meaning. -/
def decodeFrond (f : Fin 128) (w : FrondWord) : Option Instr :=
  match (w.extractLsb' 26 6).toNat with
  | 0x00 => decodeOp f w
  | 0x01 => w.imm f .addi
  | 0x02 => w.imm f .andi
  | 0x03 => w.imm f .ori
  | 0x04 => w.imm f .xori
  | 0x05 => some (.lui f w.fieldD (w.extractLsb' 0 16))
  | 0x06 => w.imm f .shi
  | 0x07 => w.imm f .slti
  | 0x08 => w.imm f .ldB
  | 0x09 => w.imm f .ldH
  | 0x0A => w.imm f .ldW
  | 0x0B => w.imm f .ldD
  | 0x0C => w.imm f .lduB
  | 0x0D => w.imm f .lduH
  | 0x0E => w.imm f .lduW
  | 0x10 => w.imm f .stB
  | 0x11 => w.imm f .stH
  | 0x12 => w.imm f .stW
  | 0x13 => w.imm f .stD
  | 0x14 => w.imm f .fldS
  | 0x15 => w.imm f .fldD
  | 0x16 => w.imm f .fstS
  | 0x17 => w.imm f .fstD
  | 0x18 => some (.br f w.fieldD w.fieldA w.fieldB w.minor)
  | 0x19 => some (.j f (w.extractLsb' 0 26))
  | 0x1A => some (.jl f (w.extractLsb' 0 26))
  | 0x1B =>
    match w.minor.toNat with
    | 0 => some (.jr f w.fieldA)
    | 1 => w.rr f .jlr
    | _ => none
  | 0x1C => decodeMulDiv f w
  | 0x20 => some (.fp f w.fieldD w.fieldA w.fieldB w.minor)
  | 0x21 => decodeFma f w
  | 0x24 => decodeSys f w
  | 0x25 => some (.fcrd f w.fieldD (w.extractLsb' 0 16))
  | 0x26 => some (.fcwr f w.fieldA (w.extractLsb' 0 16))
  | 0x28 => decodeStr f w
  | 0x2C => some (.ho f w.fieldD w.fieldA w.fieldB w.minor)
  | _ => decodeVector f w

end Sys2Proof
end

