-- ==== Sys2Proof/Machine/Tbl.lean ====
section
/-!
DEFINITION. A sparse table with a default: the one data structure that register files, memories,
queues and every other numbered set of like things use. In its canonical form the keys strictly rise
and no entry holds the default, so that equal tables are equal lists.
-/

namespace Sys2Proof.Machine

/-- A sparse table: (key, value) pairs; an unlisted key holds the table's default. -/
abbrev Tbl (α : Type) := List (Nat × α)

/-- The value at a key, `d` when the key is not listed. -/
def Tbl.get {α : Type} (d : α) : Tbl α → Nat → α
  | [], _ => d
  | (j, v) :: t, k => if j = k then v else Tbl.get d t k

/-- The table without any entry of a key. -/
def Tbl.erase {α : Type} : Tbl α → Nat → Tbl α
  | [], _ => []
  | (j, v) :: t, k => if j = k then Tbl.erase t k else (j, v) :: Tbl.erase t k

/-- Inserts an entry before the first larger key. -/
def Tbl.insert {α : Type} (k : Nat) (v : α) : Tbl α → Tbl α
  | [] => [(k, v)]
  | (j, w) :: t => if k < j then (k, v) :: (j, w) :: t else (j, w) :: Tbl.insert k v t

/-- Writes the value at a key; writing the default removes the entry. -/
def Tbl.set {α : Type} [DecidableEq α] (d : α) (t : Tbl α) (k : Nat) (v : α) : Tbl α :=
  if v = d then t.erase k else (t.erase k).insert k v

/-- The keys strictly rise and lie above `lo` (when given), and no entry holds the default. -/
def Tbl.wfFrom {α : Type} [DecidableEq α] (d : α) : Option Nat → Tbl α → Bool
  | _, [] => true
  | lo, (k, v) :: t =>
    (match lo with | none => true | some l => decide (l < k)) && decide (v ≠ d) &&
      Tbl.wfFrom d (some k) t

/-- The canonical form. -/
def Tbl.wf {α : Type} [DecidableEq α] (d : α) (t : Tbl α) : Bool := t.wfFrom d none

/-- Reads n consecutive cells from address a, lowest address first. -/
def Tbl.read {α : Type} (d : α) (t : Tbl α) (a : Nat) : Nat → List α
  | 0 => []
  | n + 1 => t.get d a :: Tbl.read d t (a + 1) n

/-- Writes a list of cells at consecutive addresses from a. -/
def Tbl.write {α : Type} [DecidableEq α] (d : α) (t : Tbl α) (a : Nat) : List α → Tbl α
  | [] => t
  | v :: vs => Tbl.write d (t.set d a v) (a + 1) vs

/-- Removes every entry whose key lies in [lo, hi). -/
def Tbl.clearRange {α : Type} (t : Tbl α) (lo hi : Nat) : Tbl α :=
  t.filter fun e => decide (e.1 < lo) || decide (hi ≤ e.1)

/-- Little-endian bytes to a number: the first byte is least significant (R7). -/
def leNat : List Byte → Nat
  | [] => 0
  | b :: t => b.toNat + 256 * leNat t

/-- The n low bytes of a number, least significant first (R7). -/
def leBytes (x : Nat) : Nat → List Byte
  | 0 => []
  | n + 1 => BitVec.ofNat 8 x :: leBytes (x / 256) n

end Sys2Proof.Machine
end

