-- ==== Sys2Proof/Machine/PlanTypes.lean ====
section
/-!
DEFINITION. Values, rows, and the parsed form of a plan image (R36 to R46), with the argument
records of the operators (R116 to R148): data only.
-/

namespace Sys2Proof.Machine

/-- A value of a column, or null (R78, R82). Integers, dates, timestamps and the unscaled value of
decimals are `int`. -/
inductive Val where
  | null
  | bool (b : Bool)
  | int (i : Int)
  | f32 (w : BitVec 32)
  | f64 (w : BitVec 64)
  | str (b : List Byte)
  deriving DecidableEq, Repr

/-- A row: pipeline column number to value; an unlisted column is null (R103). -/
abbrev Row := Tbl Val

/-- A type code with its TPARAM (R78). -/
structure Ty where
  code : Nat
  tparam : Nat
  deriving DecidableEq, Repr

/-- One term of an expression record (R109, R110). `cval` is the constant of CONST and CONSTREF,
`set` the elements of INSET. -/
structure Term where
  eop : Nat
  ty : Ty
  mode : Nat
  imm : Nat
  cval : Val
  set : List Val
  deriving DecidableEq, Repr

/-- SCAN's entry for one column (R116). -/
structure ScanCol where
  icol : Nat
  pcol : Nat
  ty : Ty
  codes : Bool
  deriving DecidableEq, Repr

/-- A key entry with its flags: COL, collation, and for sorts DESC, NULLS_FIRST and PREFIX. -/
structure KeyEnt where
  col : Nat
  coll : Nat
  desc : Bool
  nullsFirst : Bool
  pre : Nat
  deriving DecidableEq, Repr

/-- A function entry of AGG (R134, R135). -/
structure AggFn where
  fn : Nat
  col : Nat
  ocol : Nat
  mode : Nat
  deriving DecidableEq, Repr

/-- A field entry of MATCH (R126). -/
structure MatchField where
  col : Nat
  bitoff : Nat
  bits : Nat
  deriving DecidableEq, Repr

/-- The parsed argument record of an operator (R116 to R148). -/
inductive OpArgs where
  | scan (src pipe : Nat) (cols : List ScanCol)
  | filter (e : List Term)
  | project (drop : Nat) (outs : List (Nat × List Term))
  | hashBuild (keys : List KeyEnt) (pays : List Nat) (mark : Bool) (npart : Nat)
  | hashProbe (build jkind : Nat) (keys : List Nat) (pays : List (Nat × Nat)) (resid : List Term)
  | matchOp (mmode mkind tsrc hitCol resCol posCol coll : Nat) (fields : List MatchField)
  | sort (keys : List KeyEnt) (stable : Bool) (pays : List Nat) (limit : Nat)
  | topk (keys : List KeyEnt) (stable : Bool) (pays : List Nat) (k : Nat)
  | merge (src : Nat) (cols : List (Nat × Nat))
  | agg (final : Bool) (src npart tbl4k : Nat) (keys : List (Nat × Nat × Nat)) (fns : List AggFn)
  | verify (mask : Nat)
  | exchange (xmode nlocal : Nat) (keys : List KeyEnt) (cols : List Nat)
  | emit (oslot : Nat) (cols : List (Nat × Nat))
  | udo (cycles : Nat) (ins : List Nat) (outs : List (Nat × Ty))
  deriving DecidableEq, Repr

/-- An operator entry (R42) with its parsed arguments. -/
structure OpEnt where
  opc : Nat
  pipe : Nat
  stage : Nat
  flags : Nat
  codeOff : Nat
  codeLen : Nat
  argsOff : Nat
  argsLen : Nat
  flows : Nat
  hq : Nat
  args : OpArgs
  deriving DecidableEq, Repr

/-- A pipeline entry (R41). -/
structure PipeEnt where
  kind : Nat
  deps : Nat
  firstOp : Nat
  nops : Nat
  nstage : Nat
  breaker : Nat
  source : Nat
  npart : Nat
  work : Nat
  grantUnits : Nat
  grantUs : Nat
  deriving DecidableEq, Repr

/-- A parameter slot entry (R45). -/
structure SlotEnt where
  kind : Nat
  ty : Ty
  offset : Nat
  size : Nat
  flags : Nat
  deriving DecidableEq, Repr

/-- An automaton image (R238 to R240): its states are 512-bit records. -/
structure AutoImg where
  coll : Nat
  nclass : Nat
  npat : Nat
  start : Nat
  classMap : List Nat
  states : List (BitVec 512)
  deriving DecidableEq, Repr

/-- A loaded plan image, parsed (R37 to R46). -/
structure Plan where
  uid : Nat
  pflags : Nat
  pbSize : Nat
  prs : Nat
  pipes : List PipeEnt
  ops : List OpEnt
  slots : List SlotEnt
  autos : List AutoImg
  code : List Byte
  image : List Byte
  defaults : List Byte
  deriving DecidableEq, Repr

end Sys2Proof.Machine
end

