-- ==== Sys2Proof/Machine/StateFrond.lean ====
section
/-!
DEFINITION. The state of one frond: control core, vector unit, scratchpad, stream unit, predictor
(chapters *Frond core* and *Long-vector extension*).
-/

namespace Sys2Proof.Machine

/-- The state of a stream tag as str.poll shows it (R169). -/
inductive TagState where
  | pending | done | failed | cancelled
  deriving DecidableEq, Repr

/-- Outcomes of a translation (R339): a physical address, DEV_MAP, or DEV_COLOUR with the physical
address and the colour found. -/
inductive XlateRes where
  | phys (a : Nat)
  | mapFault
  | colour (a found : Nat)
  deriving DecidableEq, Repr

/-- One stream tag: its state and the request it carries, as str.issue read it (R168, R169, R170). -/
structure StreamTag where
  st : TagState
  /-- 0 DEV, 1 HOST, 2 ENGINE -/
  space : Nat
  /-- true PUT, false GET -/
  put : Bool
  spaddr : Nat
  remote : Nat
  len : Nat
  /-- fc.inst at str.issue -/
  inst : Nat
  /-- the request has been sent in whole or in part -/
  sent : Bool
  /-- cause code of the failure, raised by the next str.wait -/
  code : Nat
  /-- first failing address -/
  addr : Nat
  /-- the fault has been raised by str.wait -/
  raised : Bool
  /-- a PUT's bytes as the stream unit reads them (R171) -/
  data : List Byte
  /-- the translations of the pages of a DEV request, made at str.issue (R170): page, result for the
  page's first byte -/
  xl : List (Nat × XlateRes)
  /-- issue order among the frond's requests (R171) -/
  order : Nat
  /-- str.cancel has cut it short: it ends CANCELLED -/
  cut : Bool := false
  deriving DecidableEq, Repr

/-- A tag that has carried no request: it reads as done. DESIGN CHOICE, log 11. -/
def StreamTag.idle : StreamTag :=
  { st := .done, space := 0, put := false, spaddr := 0, remote := 0, len := 0, inst := 0,
    sent := false, code := 0, addr := 0, raised := false, data := [], xl := [], order := 0 }

/-- The item a frond runs: command slot, pipeline, item index, stage (R63, R65). -/
structure ItemRef where
  slot : Nat
  pipe : Nat
  idx : Nat
  stage : Nat
  deriving DecidableEq, Repr

/-- One frond (R154 to R187, R188 to R228). Control registers stand under their own names. -/
structure Frond where
  /-- g1 to g31; g0 is not held (R154) -/
  g : Tbl W64
  /-- v0 to v31; fN is bits [63:0] of vN (R155, R188, R189) -/
  v : Tbl (BitVec 4096)
  /-- m0 to m7 (R190) -/
  m : Tbl (BitVec 512)
  /-- address of the next instruction -/
  pc : W64
  status : W64
  cause : W64
  epc : W64
  tval : W64
  evec : W64
  kscr0 : W64
  kscr1 : W64
  inst : BitVec 8
  cbase : W32
  clim : W32
  wlim : W32
  bpctl : W64
  fflags : BitVec 5
  frm : BitVec 2
  vl : BitVec 13
  vri : BitVec 13
  ew : BitVec 3
  cyc : W64
  ret : W64
  iss : W64
  specx : W64
  budget : W64
  /-- scratchpad bytes, 2 MiB (R165) -/
  sp : List (Nat × BitVec 8)
  /-- what bytes held before stores that no fence has followed yet (R171) -/
  unfenced : Tbl (Option (BitVec 8))
  /-- dirty bit per 4 KiB block of the working region (R167) -/
  dirty : Tbl Bool
  /-- 4,096 two-bit direction counters (R178) -/
  bpc : Tbl (BitVec 2)
  hist : BitVec 12
  /-- return stack, top first, at most 16 (R178) -/
  ras : List W64
  tags : Tbl StreamTag
  /-- a double fault has halted the frond (R175) -/
  halted : Bool
  /-- STOP has arrived and has not been taken (R176, R177) -/
  stopReq : Bool
  /-- BUDGET has been raised and has not been taken (R158, R176) -/
  budgetReq : Bool
  /-- a hand-off or stream event that wfe waits for has come (R161) -/
  event : Bool
  /-- the item that runs (R186) -/
  item : Option ItemRef
  /-- reserved for a chain (R292): slot and pipeline -/
  reserved : Option (Nat × Nat)
  /-- the item has been told to stop, with the status that the dispatcher gives -/
  stopping : Option Nat
  /-- records sent through the hand-off port: operation, operands -/
  hoOut : List (Nat × W64 × W64)
  /-- its runtime has asked for the next item and keeps what the last one left until the answer (R186) -/
  asking : Bool := false
  /-- module time at which the item began: the busy time that R289 counts -/
  since : Nat := 0
  deriving DecidableEq, Repr

/-- A frond right after reset (R157, R191). Registers without a stated reset value are zero and the
predictor is as bp.flush leaves it. DESIGN CHOICE, log 1. -/
def Frond.reset : Frond :=
  { g := [], v := [], m := [], pc := 0x1C0000, status := 0x81, cause := 0, epc := 0, tval := 0,
    evec := 0x1C0000, kscr0 := 0, kscr1 := 0, inst := 0, cbase := 0, clim := 0, wlim := 0x40000,
    bpctl := 0, fflags := 0, frm := 0, vl := 0, vri := 0, ew := 0, cyc := 0, ret := 0, iss := 0,
    specx := 0, budget := 0, sp := [], unfenced := [], dirty := [], bpc := [], hist := 0, ras := [], tags := [],
    halted := false, stopReq := false, budgetReq := false, event := false, item := none,
    reserved := none, stopping := none, hoOut := [] }

end Sys2Proof.Machine
end

