-- ==== Sys2Proof/Machine/StateRing.lean ====
section
/-!
DEFINITION. Queues, commands in flight and the dispatcher's state (chapters *Submission and
completion rings*, *Hardware dispatcher*, and what *Query plans and pipelines* and *Table store*
keep per command).
-/

namespace Sys2Proof.Machine

/-- STATE of an SQ or CQ (R401). -/
inductive QState where
  | disabled | active | error | draining
  deriving DecidableEq, Repr

/-- A record of the duplicate window (R386). -/
structure DupRec where
  tag : W64
  accNo : Nat
  fixed : Bool
  /-- STATUS, RESULT0 and RESULT1, once the entry is written -/
  written : Option (Nat × W64 × W32)
  /-- the command is an ABORT, which no ABORT names (R395) -/
  abort : Bool := false
  deriving DecidableEq, Repr

/-- A command being framed: its FIRST entry (or orphan), the continuations kept, and the counts (R365). -/
structure Framing where
  slot : Nat
  first : Line
  /-- continuation entries, oldest first -/
  conts : List Line
  count : Nat
  orphan : Bool
  deriving DecidableEq, Repr

/-- A submission queue (R357 to R381, R401). -/
structure Sq where
  st : QState
  cause : Nat
  base : Nat
  log2 : Nat
  cq : Nat
  outlim : Nat
  prefetching : Bool
  port : Nat
  tail : W32
  head : W32
  stOutlim : Bool
  stQuota : Bool
  stCq : Bool
  stChain : Bool
  stPhase : Bool
  /-- unconsumed spore contents: index and bytes, at most 8 (R379) -/
  spores : List (Nat × Line)
  /-- prefetched copies: index and bytes (R375) -/
  copies : List (Nat × Line)
  /-- spore entries consumed whose slot has not been compared (R380) -/
  compares : List (Nat × Line)
  window : List DupRec
  framing : Option Framing
  /-- the command slot reserved for the next command (R383, step 1) -/
  slotRes : Option Nat
  /-- QUEUE_RESET (false) or QUEUE_DELETE (true) in progress, and the mailbox function if one waits (R398) -/
  drain : Option (Bool × Option Nat)
  /-- entries whose read has been issued and has not returned (R375, R376) -/
  reads : List Nat := []
  /-- entries that wait on a PHASE: they are read again after the next tail or spore write (R375) -/
  phaseOn : List Nat := []
  deriving DecidableEq, Repr

/-- A queue that does not exist (R382). -/
def Sq.absent : Sq :=
  { st := .disabled, cause := 0, base := 0, log2 := 4, cq := 0, outlim := 1, prefetching := false,
    port := 0, tail := 0, head := 0, stOutlim := false, stQuota := false, stCq := false,
    stChain := false, stPhase := false, spores := [], copies := [], compares := [], window := [],
    framing := none, slotRes := none, drain := none }

/-- A completion queue (R357 to R359, R392, R400, R401). -/
structure Cq where
  st : QState
  cause : Nat
  base : Nat
  log2 : Nat
  port : Nat
  vector : Nat
  ien : Bool
  aggCount : Nat
  aggTime : Nat
  head : W32
  tail : W32
  /-- committed entries in the completion buffer, oldest first, at most 64, by command slot -/
  buf : List Nat
  /-- committed entries that wait in their command slots, in order, by command slot -/
  held : List Nat
  /-- CQ_FULL has been raised and the CQ has not been clear since -/
  fullRaised : Bool
  /-- signalling entries written since the last message -/
  sigCount : Nat
  /-- module time of the first of them -/
  sigFirst : Nat
  deriving DecidableEq, Repr

/-- A queue that does not exist (R382). -/
def Cq.absent : Cq :=
  { st := .disabled, cause := 0, base := 0, log2 := 4, port := 0, vector := 0, ien := false,
    aggCount := 1, aggTime := 0, head := 0, tail := 0, buf := [], held := [], fullRaised := false,
    sigCount := 0, sigFirst := 0 }

/-- Where a command stands between acceptance and its completion entry. -/
inductive CmdPhase where
  /-- accepted and handed on; its own work has not begun (R383, step 5) -/
  | handed
  /-- its opcode's work is held: a FENCE, a store mount or an ordering wait -/
  | ordering
  /-- waits for host data (R58, R249, R328) -/
  | hostRead
  /-- waits for the group directories (R61) -/
  | directory
  /-- waits for flow IDs (R68) -/
  | flowWait
  /-- waits for a timer (R303) -/
  | timerWait
  /-- waits for write-cache space (R424) -/
  | cacheWait
  /-- its items, searches or media accesses run -/
  | running
  /-- its host writes wait for their port; the outcome is open (R74 step 1, R552) -/
  | writeWait
  /-- waits for durability (R421) -/
  | durWait
  /-- its work has ended; steps 3 and 4 of R74 remain -/
  | ended
  /-- a duplicate that waits for its original's entry (R387) -/
  | dupWait
  /-- its completion entry waits for CQ space (R392) -/
  | entryWait
  deriving DecidableEq, Repr

/-- An object's contents at one version (R406, R410). -/
structure ObjImage where
  size : Nat
  ver : Nat
  /-- bytes by object offset; an unlisted byte reads as zero -/
  bytes : List (Nat × BitVec 8)
  /-- extents held: index to the version that wrote it plus 1, 0 for none -/
  exts : Tbl Nat
  deriving DecidableEq, Repr

/-- An object without contents. -/
def ObjImage.empty : ObjImage := { size := 0, ver := 0, bytes := [], exts := [] }

/-- What a STORE_ command has done (R413 to R420). -/
structure StoreRun where
  /-- data staged in the write cache, or an attribute record read -/
  data : List Byte
  staged : Bool
  /-- its ordering point has passed (R418) -/
  passed : Bool
  /-- the snapshot of a read (R412) -/
  snap : ObjImage
  /-- write-cache frames held (R421) -/
  frames : Nat
  deriving DecidableEq, Repr

/-- Nothing done yet. -/
def StoreRun.start : StoreRun := { data := [], staged := false, passed := false, snap := .empty, frames := 0 }

/-- What a DIGEST or DIGEST_VERIFY has done (R327, R328). -/
structure DigestRun where
  /-- the key record -/
  key : List Byte
  /-- the expected digest -/
  expected : List Byte
  /-- unit and context slot, while one is held -/
  ctx : Option (Nat × Nat)
  out : List Byte
  /-- the snapshot of a STORE source, and whether it has been taken -/
  snap : ObjImage
  passed : Bool
  deriving DecidableEq, Repr

/-- Nothing done yet. -/
def DigestRun.start : DigestRun :=
  { key := [], expected := [], ctx := none, out := [], snap := .empty, passed := false }

/-- One input of a query (R59 to R61). -/
structure InputRun where
  slot : Nat
  kind : Nat
  ncol : Nat
  first : Nat
  ngroups : Nat
  tid : Nat
  addr : Nat
  /-- the directory entries in use: CHUNK_ADDR, CHUNK_LEN, ROWS, group by group -/
  dir : List (Nat × Nat × Nat)
  loaded : Bool
  /-- the snapshot of a STORE input: object bytes and SIZE (R412) -/
  snap : ObjImage
  deriving DecidableEq, Repr

/-- The state of one aggregate function in one group (R135 to R137). -/
structure AggSt where
  count : Nat
  sum : Int
  fsum : W64
  best : Val
  deriving DecidableEq, Repr

/-- A group of a partial AGG (R138). -/
structure AggGroup where
  part : Nat
  item : Nat
  spill : Nat
  key : List Val
  states : List AggSt
  deriving DecidableEq, Repr

/-- A row kept by a breaker: build, sort or received row (R122, R143, R271). -/
structure KRow where
  part : Nat
  item : Nat
  pos : Nat
  key : List Val
  pay : List Val
  mark : Bool
  deriving DecidableEq, Repr

/-- What an area of a pipeline's device-memory state holds (R122, R138, R143, R271 to R273). -/
inductive AreaKind where
  /-- rows of a build partition (R122) -/
  | table
  /-- bucket directory of a build partition (R122) -/
  | directory
  /-- rows that a SORT item wrote to the row area (R271) -/
  | rowArea
  /-- a sorted run or block (R272, R273) -/
  | run
  /-- groups of a partition (R138) -/
  | groups
  /-- received rows of a partition (R143) -/
  | received
  deriving DecidableEq, Repr

/-- Pages of the instance's quota that hold part of a pipeline's state, in order, and the bytes in use (R153, R221). -/
structure Area where
  kind : AreaKind
  /-- partition, item or run number -/
  id : Nat
  /-- page numbers of the instance -/
  pages : List Nat
  used : Nat
  deriving DecidableEq, Repr

/-- A sorted run (R272): the number of its area and the records that it should hold; their bytes stand in device memory
alone. -/
structure SortRun where
  area : Nat
  nrec : Nat
  deriving DecidableEq, Repr

/-- An item whose blocks an SMU merges, pass by pass (R273). -/
structure ItemPass where
  item : Nat
  blocks : List SortRun
  /-- the passes have ended: the item has its one run -/
  done : Bool
  deriving DecidableEq, Repr

/-- What a pipeline has done (R63). -/
structure PipeRun where
  /-- its cursor has joined a list: DEPS are met -/
  started : Bool
  /-- items handed out -/
  made : Nat
  ended : Nat
  /-- finalising items or merge jobs handed out and ended in the pass -/
  finMade : Nat
  finEnded : Nat
  /-- the breaker has finished, or the last item has ended -/
  finished : Bool
  /-- rows of HASH_BUILD, SORT (row area) or a received EXCHANGE -/
  rows : List KRow
  /-- a build row with a null key was seen (R122) -/
  nullKey : Bool
  /-- sorted runs, in item order (R272, R277) -/
  runs : List SortRun
  /-- runs made by the merge pass in progress -/
  nextRuns : List SortRun
  groups : List AggGroup
  /-- end marks received of EXCHANGE senders -/
  endMarks : List Nat
  /-- batches that an EXCHANGE has still to send: destination (64 is the manager), partition, rows (R142, R143) -/
  outbox : List (Nat × Nat × List (List Val))
  /-- next CSEQ by destination and partition: key 4096 × destination + partition (R563) -/
  cseq : Tbl Nat
  /-- this module's END marks of the EXCHANGE have been sent -/
  endSent : Bool
  /-- armed for the next barrier edge, and that edge has come (R575) -/
  armed : Bool
  edge : Bool
  /-- device-memory state of the pipeline's breaker (R153) -/
  areas : List Area := []
  /-- number of the next run area -/
  nextRun : Nat := 0
  /-- items whose blocks an SMU merges, in the order of their requests, and how many have been given to a unit (R273) -/
  passQ : List ItemPass := []
  passMade : Nat := 0
  /-- the rows that the last pass of a MERGE has delivered, by index into `rows` of its SORT (R275) -/
  merged : List Nat := []
  deriving DecidableEq, Repr

/-- A pipeline that has not begun. -/
def PipeRun.idle : PipeRun :=
  { started := false, made := 0, ended := 0, finMade := 0, finEnded := 0, finished := false,
    rows := [], nullKey := false, runs := [], nextRuns := [], groups := [], endMarks := [],
    outbox := [], cseq := [], endSent := false, armed := false, edge := false }

/-- An output of a query (R69 to R73). -/
structure OutRun where
  slot : Nat
  kind : Nat
  format : Nat
  tid : Nat
  offset : Nat
  limit : Nat
  /-- an EMIT of the plan names the slot (R593) -/
  named : Bool
  /-- the header with STATE INCOMPLETE has been written (R72) -/
  header : Bool
  /-- rows by item: pipeline, item index, rows in EMIT's column order -/
  rows : List (Nat × Nat × List (List Val))
  deriving DecidableEq, Repr

/-- The result of one search of a burst (R236, R237): pipeline, operator and item, the bytes searched, and what the unit
answered, none where it could not serve the search (R128). -/
structure BurstRes where
  pipe : Nat
  op : Nat
  item : Nat
  key : List Byte
  res : Option (Option (Nat × Nat))
  deriving DecidableEq, Repr

/-- An item that has left a FLOW operator while its later operators still run (R298): the number of the next operator
and its batches. -/
structure PartRun where
  pipe : Nat
  idx : Nat
  next : Nat
  batches : List (List (Option (Tbl Val)))
  deriving DecidableEq, Repr

/-- A query in flight. -/
structure QueryRun where
  planId : Nat
  plan : Plan
  pb : List Byte
  inputs : List InputRun
  outs : List OutRun
  pipes : Tbl PipeRun
  /-- flow IDs held (R68) -/
  flows : Nat
  /-- items in service or parked, per flow: pipeline, operator, flow index, items in order (R298) -/
  flowQ : List (Nat × Nat × Nat × List Nat)
  /-- the group directories have been read -/
  dirDone : Bool
  /-- fan-out identity, 0 for a query that is not fanned out (R570) -/
  xid : Nat
  /-- acceptance number from which the binding of the plan that it runs was in force (R51) -/
  bound : Nat := 0
  /-- results of search bursts whose items have not ended (R236) -/
  bursts : List BurstRes := []
  /-- items between two of their operators -/
  parts : List PartRun := []
  /-- write-cache frames that its STORE outputs hold until they are published (R424) -/
  frames : Nat := 0
  /-- extent copies that its STORE outputs add to those of their objects, until they are published (R73, R409) -/
  copies : Nat := 0
  deriving DecidableEq, Repr

/-- The work of a command beyond its descriptor. -/
inductive CmdWork where
  | none
  | query (q : QueryRun)
  | store (r : StoreRun)
  | digest (r : DigestRun)
  /-- match: records or keys read, how many are done, result bytes, unit and table -/
  | matching (data : List Byte) (done : Nat) (results : List Byte) (hits : Nat)
  deriving DecidableEq, Repr

/-- A command that holds a slot (R383, R389). -/
structure Cmd where
  inst : Nat
  sq : Nat
  first : Line
  /-- continuation segments: address, length (R364) -/
  segs : List (W64 × W64)
  /-- acceptance number, in acceptance order over the module -/
  accNo : Nat
  /-- it reached step 4 of R383; a command that fails step 2 did not -/
  accepted : Bool
  /-- module time A of acceptance (R303) -/
  accTime : Nat
  /-- the original's acceptance number when this is a duplicate (R387) -/
  dupOf : Option Nat
  phase : CmdPhase
  work : CmdWork
  /-- the outcome, once fixed at the commit point (R393) -/
  outcome : Option Nat
  /-- ORIG_STATUS of a duplicate's entry (R387) -/
  orig : Nat
  /-- first failure recorded, with RESULT0 (R76, R77) -/
  failure : Option (Nat × W64)
  r0 : W64
  r1 : W32
  /-- step 3 of R74 has begun (R397) -/
  step3 : Bool
  /-- deadline D and its timer, when it holds one (R303) -/
  deadline : Option Nat
  timer : Option Nat
  /-- acceptance numbers a FENCE waits for (R385) -/
  fenceOn : List Nat
  /-- no entry is to be written: function-level reset (R454) -/
  silent : Bool
  /-- state-region pages backed for the command (R153, R221) -/
  pages : List Nat
  deriving DecidableEq, Repr

/-- Counters of the ring engine (R401). -/
structure RingCnt where
  accepted : W64
  dupHits : W64
  sporeUsed : W64
  sporeStale : W64
  sporeMismatch : W64
  phaseWaits : W64
  qerrors : W32
  slotStalls : W64
  deriving DecidableEq, Repr

/-- Counters after module reset (R401, R472). -/
def RingCnt.zero : RingCnt :=
  { accepted := 0, dupHits := 0, sporeUsed := 0, sporeStale := 0, sporeMismatch := 0,
    phaseWaits := 0, qerrors := 0, slotStalls := 0 }

/-- The ring engine and completion writer. -/
structure RingSt where
  /-- SQ n of instance i under key 65,536 i + n -/
  sqs : Tbl Sq
  /-- CQ n of instance i under key 65,536 i + n -/
  cqs : Tbl Cq
  /-- command slots 0 to 65,535 -/
  cmds : Tbl (Option Cmd)
  /-- commands accepted so far: the next acceptance number -/
  nextAcc : Nat
  cnt : RingCnt
  /-- the same counters per instance, for the VF views (R401) -/
  instCnt : Tbl RingCnt
  deriving DecidableEq, Repr

/-- One entry of a ready list: the work of a pipeline (R288). -/
inductive WorkKind where
  /-- items of the pipeline, in the order of R63 -/
  | items
  /-- finalising items of a HASH_BUILD (R122) -/
  | finals
  /-- merge jobs of a pass (R276) -/
  | jobs
  /-- item passes of a SORT (R273) -/
  | passes
  /-- an open request of a frond for a digest context; `pipe` is the frond (R313) -/
  | digFrond
  /-- an open request of a digest context (R313) -/
  | digOpen
  /-- exchange sends (R285) -/
  | sends
  deriving DecidableEq, Repr

/-- A cursor: command slot, pipeline and the kind of work (R288). -/
structure Cursor where
  slot : Nat
  pipe : Nat
  kind : WorkKind
  /-- home-die wait of the item at its front has run out (R291) -/
  affOver : Bool
  /-- waits for its power grant (R294) -/
  grantWait : Bool
  /-- its stage's grant has been given -/
  granted : Bool
  /-- module time at which the item became eligible (R309) -/
  since : Nat
  deriving DecidableEq, Repr

/-- A ready list (R285, R286, R310). -/
structure ReadyList where
  used : Bool
  inst : Nat
  level : Nat
  cls : Nat
  cursors : List Cursor
  deriving DecidableEq, Repr

/-- An unassigned ready list. -/
def ReadyList.free : ReadyList := { used := false, inst := 0, level := 0, cls := 0, cursors := [] }

/-- A timer on the delay lists (R301, R302). -/
structure Timer where
  id : Nat
  /-- owner: an instance, or none for the module's own use -/
  owner : Option Nat
  /-- command slot of a deadline -/
  slot : Nat
  expiry : Nat
  setAt : Nat
  deriving DecidableEq, Repr

/-- An instance fence in progress (R307, R455). -/
structure FenceRec where
  inst : Nat
  /-- function-level form: no completion entries, queues deleted (R454) -/
  flr : Bool
  /-- the instance is being destroyed (R458) -/
  destroying : Bool
  /-- mailbox functions that wait for the end -/
  mbxs : List Nat
  /-- INSTANCE_FENCE_COMPLETE has come -/
  complete : Bool
  deriving DecidableEq, Repr

/-- A change of profile in progress (R449): the mailbox that waits, the profile before, and the items that ran when it took
effect (acceptance number, pipeline, item). -/
structure ProfChange where
  mbx : Nat
  prev : BitVec 2
  items : List (Nat × Nat × Nat)
  deriving DecidableEq, Repr

/-- The dispatcher (R285 to R310). -/
structure DispSt where
  lists : Tbl ReadyList
  timers : List Timer
  tmrWaits : W64
  flowWaits : W64
  deadlines : W64
  /-- waiting-time histograms: level l bucket b at 16 l + b (R309, R310) -/
  lvlHist : Tbl W32
  /-- instance i bucket b at 16 i + b -/
  instHist : Tbl W32
  /-- busy cycles per frond in the last window (R310) -/
  frondLoad : Tbl (BitVec 22)
  /-- busy permille per engine in the last window -/
  engOcc : Tbl (BitVec 10)
  profile : BitVec 2
  latLevel : BitVec 3
  /-- a change of profile that has not completed (R449) -/
  profileChange : Option ProfChange
  /-- flow IDs taken per instance (R300) -/
  flowUsed : Tbl Nat
  /-- commands that wait for flow IDs, in acceptance order (R68) -/
  flowQ : List Nat
  /-- commands that wait for a timer, in acceptance order (R303) -/
  tmrQ : List Nat
  fences : List FenceRec
  /-- frond sets of STRICT: owner of each frond, 0 means none, i + 1 means instance i (R297) -/
  frondSet : Tbl Nat
  /-- plans being reloaded: instance, plan ID (R306) -/
  reloading : List (Nat × Nat)
  /-- deficit of the round robin of R289 in ns: class c and instance i at 1,024 c + i -/
  deficit : Tbl Int := []
  /-- instance served last in the round of a class (R289) -/
  turn : Tbl Nat := []
  /-- since the window began: core cycles of each frond with an item; slots used of each CMU (and offered, at 32 + u), and µs of
  work of the other engines (R308) -/
  winFrond : Tbl Nat := []
  winEng : Tbl Nat := []
  /-- the same for the work of one instance: frond f or engine e of instance i at 1,024 i + f or e -/
  winFrondOwn : Tbl Nat := []
  winEngOwn : Tbl Nat := []
  /-- what the last window gave for one instance (R310) -/
  frondOwn : Tbl (BitVec 22) := []
  engOwn : Tbl (BitVec 10) := []
  /-- ring fetch: the instance whose turn it is with the turns left of its weight, and the turn of the STRICT frame (R384) -/
  fetchInst : Nat := 0
  fetchCredit : Nat := 0
  fetchPos : Nat := 0
  deriving DecidableEq, Repr

end Sys2Proof.Machine
end

