-- ==== Sys2Proof/Machine/StateUnits.lean ====
section
/-!
DEFINITION. Device memory and the shared engines (chapters *Device memory*, *Content match unit*,
*Sort and merge units*, *Digest engine*).
-/

namespace Sys2Proof.Machine

/-- Frame states (R344). -/
inductive FrameState where
  | system | owned | released | free | recolour | retired
  deriving DecidableEq, Repr

/-- A page frame (R344 to R347, R592). -/
structure Frame where
  st : FrameState
  /-- entry of the frame colour table (R592) -/
  tbl : BitVec 8
  /-- colour that the lines carry where no codeword has one of its own -/
  lines : BitVec 8
  /-- instance in whose quota it counts, when OWNED -/
  owner : Option Nat
  /-- its release scrub is running (R345) -/
  scrubbing : Bool
  /-- module times of the corrected errors counted by R347 -/
  ce : List Nat
  /-- it has returned an uncorrectable error (R347) -/
  ue : Bool
  deriving DecidableEq, Repr

/-- A frame of a module that has just been reset: FREE, zero, colour 0. DESIGN CHOICE, log 1. -/
def Frame.reset : Frame :=
  { st := .free, tbl := 0, lines := 0, owner := none, scrubbing := false, ce := [], ue := false }

/-- States of a channel (R356). -/
inductive ChanState where
  | active | selfRefresh | retraining | failed
  deriving DecidableEq, Repr

/-- A memory channel (R352, R356). -/
structure Chan where
  ce : W32
  ue : W32
  retrain : W32
  st : ChanState
  fails : Nat
  temp : BitVec 8
  lastRetrain : Nat
  /-- package reading at the last retrain, °C -/
  lastTemp : BitVec 8
  retrainDue : Bool
  refreshes : Nat
  deriving DecidableEq, Repr

/-- A channel right after module reset (R356). -/
def Chan.reset : Chan :=
  { ce := 0, ue := 0, retrain := 0, st := .active, fails := 0, temp := 0, lastRetrain := 0,
    lastTemp := 0, retrainDue := false, refreshes := 0 }

/-- An allocation that waits for a frame or for RECOLOUR (R346). -/
structure AllocWait where
  inst : Nat
  page : Nat
  /-- frame in RECOLOUR, none while the allocation waits for a scrub to end -/
  frame : Option Nat
  /-- the frond whose fault the page resolves, none for INST_RESIZE, INST_CREATE and PLAN_LOAD -/
  frond : Option Nat
  /-- mailbox whose command ends when its last RECOLOUR ends, if one waits -/
  mbx : Option Nat
  die : Nat
  wr : Bool
  deriving DecidableEq, Repr

/-- A frame whose map entry has been removed and whose old translation a request still uses (R340, step 3). -/
structure Leaving where
  frame : Nat
  inst : Nat
  page : Nat
  deriving DecidableEq, Repr

/-- A request that waits for its channel (R352, R353); `data` is that of a write. -/
structure MemReq where
  req : Option Nat
  addr : Nat
  e0 : Nat
  e1 : Nat
  data : Option MemWrite
  deriving DecidableEq, Repr

/-- Device memory (R331 to R356, R592). -/
structure MemSt where
  /-- data bytes by physical byte address, frame × 2 MiB + offset -/
  bytes : List (Nat × BitVec 8)
  /-- poisoned or uncorrectable codewords, by physical address / 32 (R348) -/
  poison : Tbl Bool
  /-- colour of a codeword where it differs from its frame's -/
  cwCol : Tbl (Option (BitVec 8))
  frames : Tbl Frame
  /-- the system frames of R343 are SYSTEM and their bitmap bits set (R534, step 3) -/
  sysUp : Bool
  /-- directory entries: instance i index k at 4096 i + k (R338) -/
  dir : Tbl W32
  /-- leaf entries: leaf table t of the system leaf pool, index p at 32,768 t + p (R337, R338) -/
  leaf : Tbl W32
  chans : Tbl Chan
  scrubBytes : W64
  errAddr : BitVec 41
  errInfo : W32
  colourFaults : W64
  /-- the same per raising instance (R356) -/
  instFaults : Tbl W64
  retired : W32
  sr : Bool
  ueSeen : Bool
  cfSeen : Bool
  temp : BitVec 8
  /-- RELEASED frames in release order (R345) -/
  releaseQ : List Nat
  /-- frames of the scrub burst in progress, in order -/
  burst : List Nat
  /-- the scrub is paused by a supply warning (R516) or PS3 (R353) -/
  scrubPaused : Bool
  allocs : List AllocWait
  /-- die of the next spread frame per instance (R346) -/
  nextDie : Tbl Nat
  patrolStop : Bool
  /-- frames unmapped and not yet RELEASED (R340, R345) -/
  leaving : List Leaving := []
  /-- requests that wait for their channel, oldest first (R352) -/
  waits : List MemReq := []
  deriving DecidableEq, Repr

/-- A ternary entry as hardware keeps it (R232). -/
structure TEntry where
  key : BitVec 144
  mask : BitVec 144
  res : W32
  valid : Bool
  tsel : BitVec 12
  deriving DecidableEq, Repr

/-- An entry after module reset: invalid and zero. DESIGN CHOICE, log 1. -/
def TEntry.empty : TEntry := { key := 0, mask := 0, res := 0, valid := false, tsel := 0 }

/-- A CMU table (R235). -/
structure CmuTable where
  inst : Nat
  id : Nat
  base : Nat
  size : Nat
  tsel : BitVec 12
  faulted : Bool
  /-- deleted: the ID is unusable and the block waits for reclaim (R251) -/
  gone : Bool
  /-- acceptance number below which commands may still use a deleted table -/
  goneAt : Nat
  /-- acceptance number from which commands use the table (R23) -/
  since : Nat := 0
  deriving DecidableEq, Repr

/-- An image table entry (R242). -/
structure ImgEnt where
  inst : Nat
  planId : Nat
  uid : Nat
  idx : Nat
  base : Nat
  nstate : Nat
  faulted : Bool
  /-- acceptance number from which the plan's binding is in force, none until the plan is usable (R51) -/
  bound : Option Nat := none
  deriving DecidableEq, Repr

/-- One update record of R248. -/
structure UpdRec where
  index : Nat
  write : Bool
  res : W32
  key : BitVec 144
  mask : BitVec 144
  deriving DecidableEq, Repr

/-- A list of records being applied by the update engine (R243, R246). -/
structure UpdRun where
  /-- the MATCH_UPDATE command's slot, or the mailbox function of a CMU_TABLE_LOAD -/
  slot : Option Nat
  mbx : Option Nat
  inst : Nat
  table : Nat
  recs : List UpdRec
  applied : Nat
  /-- 0 before step 1, 1 after it, 2 after step 2, 3 after step 3 -/
  step : Nat
  /-- stop at the next record boundary (R250, R264) -/
  stop : Bool
  deriving DecidableEq, Repr

/-- A content match unit (R229 to R265). -/
structure CmuUnit where
  ent : Tbl TEntry
  /-- shadow records of the ternary array (R254) -/
  shadow : Tbl TEntry
  states : Tbl (BitVec 512)
  stShadow : Tbl (BitVec 512)
  images : List ImgEnt
  tables : List CmuTable
  /-- update runs, the one in progress first -/
  upd : List UpdRun
  /-- address marked busy to the comparer (R243) -/
  busy : Option Nat
  ptrT : Nat
  ptrA : Nat
  temp : BitVec 8
  fault : Bool
  shadowErr : Bool
  step : Nat
  searches : W64
  autoBytes : W64
  updSteps : W64
  cmpChecks : W64
  repairs : W32
  sweeps : W32
  thrUs : W64
  /-- searches, bytes and steps per instance (R265): key 4 i + k -/
  instCnt : Tbl W64
  /-- a supply warning holds the unit at step 2 or above (R516) -/
  sagHold : Bool
  /-- strict schedule entered (R449) -/
  strict : Bool
  /-- weighted round robin of slots: the instance whose turn it is and the slots left of its share (R262) -/
  turn : Nat := 0
  credit : Nat := 0
  /-- the same for lane cycles -/
  laneTurn : Nat := 0
  laneCredit : Nat := 0
  /-- next position of the frame of 1,024 slots (R263) -/
  pos : Nat := 0
  /-- the reading that the step follows, in °C rounded up (R258) -/
  reading : Nat := 0
  deriving DecidableEq, Repr

/-- A unit after module reset (R231, R265). -/
def CmuUnit.reset : CmuUnit :=
  { ent := [], shadow := [], states := [], stShadow := [], images := [], tables := [], upd := [],
    busy := none, ptrT := 0, ptrA := 0, temp := 0, fault := false, shadowErr := false, step := 0,
    searches := 0, autoBytes := 0, updSteps := 0, cmpChecks := 0, repairs := 0, sweeps := 0,
    thrUs := 0, instCnt := [], sagHold := false, strict := false }

/-- A job in a merge tree (R275, R276, R280). -/
structure SmuJob where
  slot : Nat
  pipe : Nat
  inst : Nat
  /-- first run of the group -/
  group : Nat
  nin : Nat
  /-- the last pass of a MERGE (R275) -/
  lastPass : Bool
  /-- the item whose blocks an item pass merges (R273) -/
  item : Option Nat := none
  /-- module time at which the unit took it -/
  since : Nat := 0
  /-- record bytes that it reads, and how many it has merged so far (R280) -/
  bytes : Nat := 0
  merged : Nat := 0
  deriving DecidableEq, Repr

/-- A sort/merge unit (R266 to R284). -/
structure SmuUnit where
  fault : Bool
  strict : Bool
  /-- the job in the tree first, then jobs switched out (R280) -/
  jobs : List SmuJob
  bytesIn : W64
  done : W64
  busyUs : W64
  switches : W64
  /-- bytes and jobs per instance (R284): key 2 i + k -/
  instCnt : Tbl W64
  paused : Bool
  /-- position in the STRICT frame (R280) -/
  quantum : Nat
  /-- weighted round robin by bytes: what is left of the share of the job in the tree, in 4 KiB blocks (R280) -/
  credit : Nat := 0
  deriving DecidableEq, Repr

/-- A unit after module reset (R284). -/
def SmuUnit.reset : SmuUnit :=
  { fault := false, strict := false, jobs := [], bytesIn := 0, done := 0, busyUs := 0,
    switches := 0, instCnt := [], paused := false, quantum := 0 }

/-- STATE of a digest context (R314). -/
inductive CtxState where
  | free | opened | active | done | failed
  deriving DecidableEq, Repr

/-- A digest context slot (R311 to R323). The running state of a message is the bytes delivered. -/
structure Ctx where
  st : CtxState
  inst : Nat
  detail : Nat
  cmp : BitVec 2
  func : Nat
  outlen : Nat
  keylen : Nat
  custlen : Nat
  cmplen : Nat
  /-- declared length in force (R315) -/
  len : Nat
  /-- what DIG_LEN, DIG_EXP, DIG_KEY and DIG_CUST were last given, by byte offset from the port base; it takes effect at
  START (R314, R315) -/
  regs : Tbl (BitVec 8)
  key : List Byte
  cust : List Byte
  expect : List Byte
  msg : List Byte
  out : List Byte
  /-- DIG_LAST has been written -/
  last : Bool
  /-- requester: a command slot of the hub's command engine, or a frond -/
  slot : Option Nat
  frond : Option Nat
  /-- input buffer of 512 bytes: data delivered and not yet taken by a lane (R315) -/
  inbuf : List Byte := []
  /-- what the requester has still to write, held back while the buffer is full (R315) -/
  held : List Byte := []
  deriving DecidableEq, Repr

/-- A FREE slot (R314). -/
def Ctx.free : Ctx :=
  { st := .free, inst := 0, detail := 0, cmp := 0, func := 0, outlen := 0, keylen := 0, custlen := 0,
    cmplen := 0, len := 0, regs := [], key := [], cust := [], expect := [], msg := [], out := [], last := false,
    slot := none, frond := none }

/-- A digest unit (R311, R324, R330). -/
structure DguUnit where
  fault : Bool
  alarm : Bool
  strict : Bool
  ctxs : Tbl Ctx
  /-- lane to context slot with the start time of its present run (R324) -/
  lanes : Tbl (Option (Nat × Nat))
  /-- context slots whose messages wait for a lane, in order -/
  waiting : List Nat
  bytes : W64
  msgs : W64
  mismatch : W64
  preempt : W64
  clears : W32
  instCnt : Tbl W64
  quantum : Nat
  deriving DecidableEq, Repr

/-- A unit after module reset (R330). -/
def DguUnit.reset : DguUnit :=
  { fault := false, alarm := false, strict := false, ctxs := [], lanes := [], waiting := [],
    bytes := 0, msgs := 0, mismatch := 0, preempt := 0, clears := 0, instCnt := [], quantum := 0 }

/-- The shared engines. -/
structure EngSt where
  cmu : Tbl CmuUnit
  /-- RATIO_LOG2 of CMU_CMPCFG (R265) -/
  ratio : BitVec 5
  smu : Tbl SmuUnit
  dgu : Tbl DguUnit
  /-- commands whose open request waits for a context slot, in order (R313) -/
  digOpens : List Nat
  /-- open requests of a frond that wait behind the one on its ready list (R313) -/
  digAsks : Tbl Nat := []
  /-- a module fabric link that cannot recover (R20) -/
  fabricDown : Tbl Bool
  deriving DecidableEq, Repr

end Sys2Proof.Machine
end

