-- ==== Sys2Proof/Machine/StateHost.lean ====
section
/-!
DEFINITION. Instances, mailboxes, the event log, the management pair, power and telemetry, the root
of trust, links and hierarchy, the table store, pads, and what the module has sent out.
-/

namespace Sys2Proof.Machine

/-- A table-store object (R405 to R412, R422, R427). -/
structure StoreObj where
  inst : Nat
  id : Nat
  stripe : BitVec 16
  copies : Nat
  cur : ObjImage
  /-- the state that the journal holds (R422) -/
  dur : ObjImage
  /-- DURABLE version -/
  durVer : Nat
  created : Bool
  /-- the create itself is durable -/
  durExists : Bool
  /-- a background destage has failed (R427) -/
  wfault : Bool
  deleted : Bool
  /-- acceptance number at the delete: earlier commands may still run (R416) -/
  goneAt : Nat
  /-- extents that fail R408 on every copy (R430) -/
  badExts : List Nat
  /-- extent copies that lie off their place of R406: port + 1 by 2 × extent + copy (R426, R427) -/
  moved : Tbl Nat := []
  deriving DecidableEq, Repr

/-- A publication that is not durable yet (R422, R424), or one with DUR that waits for its extents to reach
media before it is made (R73, R427). -/
structure Pub where
  inst : Nat
  id : Nat
  img : ObjImage
  /-- extent copies still to reach media: 2 × extent + copy -/
  todo : List Nat
  /-- acceptance number of the publishing command -/
  accNo : Nat
  /-- commands accepted when the publishing command's completion entry was written (R423) -/
  doneAcc : Option Nat
  /-- the object ceases to exist -/
  delete : Bool
  /-- the publication has not been made: it waits for media -/
  hidden : Bool
  /-- command that waits for durability -/
  slot : Option Nat
  /-- write-cache frames held -/
  frames : Nat
  /-- RESULT0 of the query whose output it is, should extent k be lost (R77, R146) -/
  blame : List W64 := []
  /-- ports that took its extent copies, by 2 × extent + copy -/
  places : List (Nat × Nat) := []
  deriving DecidableEq, Repr

/-- An SSD (R402, R425, R555). -/
structure Ssd where
  present : Bool
  /-- NVMe 2.0, namespace 1 active with the format of R402 -/
  formatOk : Bool
  label : Bool
  blank : Bool
  pool : Bool
  failed : Bool
  failCount : Nat
  /-- extent copies that it holds (R409; log 85) -/
  extents : Nat
  deriving DecidableEq, Repr

/-- No SSD at the port. -/
def Ssd.none : Ssd :=
  { present := false, formatOk := false, label := false, blank := false, pool := false,
    failed := false, failCount := 0, extents := 0 }

/-- What an NVMe command serves (R425 to R427): reading an extent, writing one of a publication, rewriting a bad
copy from a good one. -/
inductive NvmeKind where
  | extRead | extWrite | rewrite
  deriving DecidableEq, Repr

/-- An NVMe command sent and not completed (R425). -/
structure Nvme where
  id : Nat
  port : Nat
  kind : NvmeKind
  inst : Nat
  obj : Nat
  ext : Nat
  ver : Nat
  tries : Nat
  /-- placements tried (R427) or copy read (R426) -/
  place : Nat
  slot : Option Nat
  sentAt : Nat
  /-- a write: acceptance number of the publication that it serves -/
  acc : Nat := 0
  /-- a read for an item of a query: RESULT0 should it fail (R77) -/
  r0 : Option W64 := none
  /-- a read of the second copy after the first one failed, which is then rewritten (R426) -/
  heal : Bool := false
  /-- a write: the 257 LBAs sent (R407) -/
  data : List Byte := []
  deriving DecidableEq, Repr

/-- The table store (R402 to R430). -/
structure StoreSt where
  mounted : Bool
  ssds : Tbl Ssd
  objs : List StoreObj
  /-- publications in publication order -/
  pubs : List Pub
  nvme : List Nvme
  nextNvme : Nat
  /-- ports of the two journal copies (R403) -/
  jour1 : Option Nat
  jour2 : Option Nat
  /-- a journal copy is being made to this port -/
  jourCopy : Option Nat
  /-- commands that wait for write-cache space, in order (R424) -/
  cacheQ : List Nat
  /-- flushes: command slot and the publications (instance, id, version) it waits for (R423) -/
  flushes : List (Nat × List (Nat × Nat × Nat))
  deriving DecidableEq, Repr

/-- Instance states (R438). -/
inductive InstState where
  | absent | active | resizing | resetting | destroying
  deriving DecidableEq, Repr

/-- The resource record of R470, field j of VALID in order. -/
structure ResRec where
  sqs : Nat
  cqs : Nat
  slots : Nat
  lists : Nat
  msix : Nat
  weights : W32
  pages : Nat
  dataPages : Nat
  cmuEnt : List Nat
  cmuStates : Nat
  cmuSlots : Nat
  smuShare : Nat
  xchShare : Nat
  digCtx : List Nat
  plans : Nat
  storeExt : Nat
  deriving DecidableEq, Repr

/-- An absent instance holds nothing (R438). -/
def ResRec.zero : ResRec :=
  { sqs := 0, cqs := 0, slots := 0, lists := 0, msix := 0, weights := 0, pages := 0, dataPages := 0,
    cmuEnt := [0, 0, 0, 0], cmuStates := 0, cmuSlots := 0, smuShare := 0, xchShare := 0,
    digCtx := [0, 0, 0, 0], plans := 0, storeExt := 0 }

/-- Instance 0 after module reset (R443). -/
def ResRec.inst0 : ResRec :=
  { sqs := 16, cqs := 16, slots := 1024, lists := 4, msix := 16, weights := 0x10101010,
    pages := 1024, dataPages := 0, cmuEnt := [0, 0, 0, 0], cmuStates := 0, cmuSlots := 16,
    smuShare := 16, xchShare := 16, digCtx := [2, 2, 2, 2], plans := 16, storeExt := 0 }

/-- A plan-table entry (R47, R51, R52). -/
structure PlanEnt where
  id : Nat
  plan : Plan
  /-- pages of the instance that hold the image -/
  pages : List Nat
  pinned : Bool
  /-- acceptance number from which the binding is in force (R23, R51) -/
  boundFrom : Nat := 0
  /-- the image stands in its pages and the ID is usable -/
  ready : Bool
  /-- unbound by PLAN_UNLOAD or REPLACE; released after its last command -/
  gone : Bool
  goneAt : Nat
  deriving DecidableEq, Repr

/-- An INST_RESIZE that waits for drains (R445, R446). -/
structure Resize where
  old : ResRec
  new : ResRec
  valid : Nat
  expiry : Nat
  mbx : Nat
  /-- a drain still waits; otherwise only pages do -/
  waits : Bool
  deriving DecidableEq, Repr

/-- An instance (R437 to R446). -/
structure Inst where
  st : InstState
  res : ResRec
  plans : List PlanEnt
  resize : Option Resize
  /-- LOG_NEXT_SEQ when the most recent INST_CREATE took effect (R453) -/
  logBase : Nat
  /-- the eight counters of R524; the last is reserved and zero -/
  counters : Tbl W64
  /-- physical frames in the instance's quota, in allocation order -/
  frames : List Nat
  deriving DecidableEq, Repr

/-- An instance that does not exist (R438). -/
def Inst.absent : Inst :=
  { st := .absent, res := .zero, plans := [], resize := none, logBase := 0, counters := [], frames := [] }

/-- STATE of a mailbox (R460). -/
inductive MbxState where
  | idle | busy | done | error
  deriving DecidableEq, Repr

/-- A mailbox (R460 to R463). -/
structure Mbx where
  cmd : BitVec 512
  seq : W32
  /-- captured at GO -/
  capCmd : BitVec 512
  capSeq : W32
  /-- IRQ, vector and port of the GO -/
  irq : Bool
  vector : Nat
  port : Nat
  st : MbxState
  replay : Bool
  held : Bool
  err : Nat
  mop : Nat
  rlen : Nat
  resp : List Byte
  /-- MBX_SEQ of the last command that ended, none after a clear (R462) -/
  lastSeq : Option W32
  /-- the cached response: state, err, rlen, mop, bytes (R462) -/
  cache : MbxState × Nat × Nat × Nat × List Byte
  /-- the captured command has begun and waits (drain, profile change, staging, ...) -/
  started : Bool
  /-- order of the GO, for held commands (R481, step 5) -/
  goNo : Nat
  deriving DecidableEq, Repr

/-- A mailbox after module reset. -/
def Mbx.reset : Mbx :=
  { cmd := 0, seq := 0, capCmd := 0, capSeq := 0, irq := false, vector := 0, port := 0, st := .idle,
    replay := false, held := false, err := 0, mop := 0, rlen := 0, resp := [], lastSeq := none,
    cache := (.idle, 0, 0, 0, []), started := false, goNo := 0 }

/-- The writable part of a function's HAW (R472). -/
structure Haw where
  events : BitVec 5
  en : BitVec 5
  vector : Nat
  port : Nat
  deriving DecidableEq, Repr

/-- The HAW after module reset. -/
def Haw.reset : Haw := { events := 0, en := 0, vector := 0, port := 0 }

/-- A log entry (R475). -/
structure LogEnt where
  time : W64
  code : BitVec 16
  source : Byte
  inst : Byte
  detail : W32
  deriving DecidableEq, Repr

/-- The event log: entries held, newest first, at most 4,096 (R474). -/
structure LogSt where
  entries : List LogEnt
  next : W64
  deriving DecidableEq, Repr

/-- State of a management core (R498). -/
inductive McState where
  | active | standby | testing | out
  deriving DecidableEq, Repr

/-- MP_HEALTH of a core (R498). -/
structure McHealth where
  failSlice : Byte
  retests : Nat
  contFail : Bool
  stFail : Bool
  stPass : Bool
  contOk : Bool
  deriving DecidableEq, Repr

/-- Health after module reset. -/
def McHealth.reset : McHealth :=
  { failSlice := 0, retests := 0, contFail := false, stFail := false, stPass := false, contOk := false }

/-- An output of management firmware that the output gate holds (R487): a mailbox response or a log event. -/
inductive GateOut where
  /-- a response: function, ERR, DETAIL, OFF, payload -/
  | response (fn err detail off : Nat) (payload : List Byte)
  /-- a log event: code, instance, DETAIL -/
  | event (code inst detail : Nat)
  deriving DecidableEq, Repr

/-- The Lichen pair and firmware activation (R480 to R498). -/
structure MpSt where
  /-- false MC-A, true MC-B -/
  actSel : Bool
  lockstep : Bool
  stA : McState
  stB : McState
  arbitrating : Bool
  /-- module time at which the arbitration began (R498) -/
  arbFrom : Nat
  arbCause : Nat
  /-- a second self-test of a double failure is under way (R492) -/
  arbSecond : Bool
  activating : Bool
  /-- step of R481 reached, 0 when no activation runs -/
  actStep : Nat
  /-- activation was started through PLDM, else by a mailbox function -/
  actMbx : Option Nat
  /-- module time at which the 100 ms count of R496 began; RETURN_MS is what is left of it -/
  returnFrom : Option Nat
  arbs : W64
  healthA : McHealth
  healthB : McHealth
  lastUs : W32
  /-- firmware versions: running, and the staged image with its package bytes (R480) -/
  runVer : W32
  staged : Option (W32 × List Byte)
  /-- plans still to reload: instance, plan ID (R481, step 7) -/
  reloads : List (Nat × Nat)
  /-- sequence number of the next output of firmware, and the outputs that the gate holds with theirs (R487) -/
  outSeq : W32 := 0
  gate : List (W32 × GateOut) := []
  deriving DecidableEq, Repr

/-- Who holds or asks for a grant (R41, R152, R276, R345, R508). -/
inductive Holder where
  /-- a stage of an item: command slot, pipeline, frond -/
  | stage (slot pipe f : Nat)
  /-- a release scrub burst -/
  | scrub
  /-- a merge job or item pass of a command on an SMU -/
  | smu (unit slot : Nat)
  /-- a search burst on a CMU -/
  | cmu (unit slot : Nat)
  /-- bring-up of a link -/
  | link (l : Nat)
  /-- a request made by ADMISSION_REQUEST alone -/
  | other
  deriving DecidableEq, Repr

/-- A grant in force or revoked, or a request that waits (R508 to R510). -/
structure Grant where
  id : Nat
  units : Nat
  us : Nat
  level : Nat
  /-- owner: an instance, or none for the system -/
  inst : Option Nat
  discretionary : Bool
  /-- frond die of a frond-stage grant (R517) -/
  die : Option Nat
  holder : Holder
  /-- module time from which it has been in force -/
  given : Nat
  expiry : Nat
  /-- module time at which it was first given: the order of reinstatement (R517) -/
  first : Nat := 0
  deriving DecidableEq, Repr

/-- Power, clocks and power states (R431 to R436, R499 to R517). -/
structure PwrSt where
  /-- cap in 0.5 W units -/
  cap : Nat
  baseline : Nat
  /-- measured input power of the last sample, in 0.5 W units -/
  measured : Nat
  grants : List Grant
  /-- waiting requests in descending level, then arrival order -/
  waits : List Grant
  revoked : List Grant
  nextGrant : Nat
  waitCnt : W64
  overruns : W64
  revokes : W64
  ps : BitVec 2
  target : BitVec 2
  entering : Bool
  ponr : Bool
  /-- a wake event came at or after the point of no return (R433) -/
  wakeAfter : Bool
  /-- an exit is in progress -/
  exiting : Bool
  idle1 : BitVec 24
  idle2 : BitVec 24
  idle3 : BitVec 24
  /-- module time at which the entry in progress began -/
  entryAt : Nat
  /-- the idle timer: whole µs for which the module has been idle (R432) -/
  idleUs : Nat
  /-- numbers of the next command accepted and of the next mailbox command at the last tick, which tell whether work came since -/
  idleMark : Nat × Nat
  /-- storage links and host links are in L1 and Rhizome links quiet (R431) -/
  linksLow : Bool
  /-- the host links may enter L1.2 (R431, R500) -/
  l12 : Bool
  /-- write cache is being destaged before PS2 (R432) -/
  destaging : Bool
  sag : Bool
  sagSource : BitVec 6
  vinMv : BitVec 16
  /-- consecutive samples above the cap (R511) -/
  overCap : Nat
  /-- per die, in 100 MHz units -/
  capLim : Tbl Nat
  thermLim : Tbl Nat
  sagLim : Tbl Nat
  fclk : Tbl Nat
  /-- parked quadrants (R504) -/
  parked : Tbl Bool
  /-- rails below −5 % (R527) -/
  domWarn : Tbl Bool
  refLost : Bool
  /-- reference: true REFCLK_LOC (R500) -/
  refLoc : Bool
  reduced : Bool
  deriving DecidableEq, Repr

/-- A temperature sensor (R518, R519, R528). -/
structure Sensor where
  valid : Bool
  offset : BitVec 12
  temp : BitVec 16
  deriving DecidableEq, Repr

/-- A sensor after module reset (R528). -/
def Sensor.reset : Sensor := { valid := false, offset := 0, temp := 0 }

/-- The record of a worker in a manager's mirror (R526). -/
structure WorkerRec where
  timeRx : W64
  head : List Byte
  subCount : W32
  subPower : W32
  subHot : Byte
  deriving DecidableEq, Repr

/-- No record received yet. -/
def WorkerRec.zero : WorkerRec := { timeRx := 0, head := [], subCount := 0, subPower := 0, subHot := 0 }

/-- Telemetry (R518 to R528). -/
structure TelSt where
  mirror : Bool
  rollup : Bool
  div : BitVec 14
  samples : W64
  calTime : W64
  vinMv : BitVec 16
  iin : BitVec 16
  vauxMv : BitVec 16
  iaux : BitVec 16
  sensors : Tbl Sensor
  /-- voltage and current of domain k at 2 k and 2 k + 1 -/
  doms : Tbl (BitVec 16)
  /-- HAW_POWER [31:16] and HAW_TEMP of the last sample -/
  hawPower : BitVec 16
  hawTemp : W32
  /-- the telemetry mirror of function i as last written: bytes 0x0_0000 to 0x0_037F under key i -/
  mirrorHead : Tbl (List Byte)
  /-- the 64-byte record of instance j in the mirror of function i, key 256 i + j -/
  mirrorRec : Tbl (List Byte)
  mirrorSeq : W64
  workers : Tbl WorkerRec
  deriving DecidableEq, Repr

/-- State of an SPDM connection (R538 to R541). -/
structure SpdmConn where
  /-- 0 none, 1 version, 2 capabilities, 3 algorithms negotiated -/
  phase : Nat
  /-- the messages up to ALGORITHMS, those about certificates since, and the measurement messages since the last signed
  one: what SPDM 1.3 has signatures cover -/
  vca : List Byte
  certs : List Byte
  measLog : List Byte
  /-- pending SLH-DSA signatures: CHALLENGE_AUTH and MEASUREMENTS, with the message signed -/
  pendChal : Option (List Byte)
  pendMeas : Option (List Byte)
  deriving DecidableEq, Repr

/-- A connection after module reset. -/
def SpdmConn.reset : SpdmConn := { phase := 0, vca := [], certs := [], measLog := [], pendChal := none, pendMeas := none }

/-- A signed response being made (R540, R541): transport, 1 CHALLENGE_AUTH or 2 MEASUREMENTS, the message to sign, the
response without its signature, and the module time of the request. -/
structure SignJob where
  transport : Nat
  ref : Nat
  msg : List Byte
  body : List Byte
  since : Nat
  deriving DecidableEq, Repr

/-- State of the PLDM firmware device (R546). -/
inductive PldmState where
  | idle | learn | ready | download | verify | apply | activate
  deriving DecidableEq, Repr

/-- The root of trust (R529 to R549). -/
structure SecSt where
  /-- lifecycle in force, and as the fuses stand -/
  lifecycle : BitVec 2
  fuse : BitVec 2
  scope : BitVec 3
  unlocked : Bool
  bank : Bool
  fallback : Bool
  bootErr : Byte
  svn : List Nat
  /-- renewals of SEC_NONCE so far (R545) -/
  nonceNo : Nat
  tokenAddr : W64
  tokenSt : MbxState
  tokenErr : Byte
  /-- revocation fuses of the key pairs -/
  revoked : BitVec 4
  keysGone : Bool
  /-- boot flash banks: package bytes -/
  flash0 : List Byte
  flash1 : List Byte
  /-- preferred bank: false 0, true 1 -/
  preferred : Bool
  /-- measurements of FSL, FIUSH and RUNTIME (R539) -/
  meas : List (List Byte)
  /-- profile shown by attestation (R449, R539) -/
  attProfile : BitVec 2
  spdm : Tbl SpdmConn
  /-- signed responses being made, in arrival order (R541) -/
  signQ : List SignJob
  pldm : PldmState
  pldmData : List Byte
  pldmSize : Nat
  recovery : Bool
  deriving DecidableEq, Repr

/-- A flit in a sender's window (R557, R559). -/
structure Flit where
  vc : Nat
  seq : Nat
  sof : Bool
  eof : Bool
  payload : List Byte
  /-- the unacknowledged frame of this module that the flit is part of: destination key and FSEQ (R560) -/
  own : Option (Nat × Nat)
  deriving DecidableEq, Repr

/-- STATE of a Rhizome link (R577). -/
inductive LinkState where
  | down | training | up | retraining
  deriving DecidableEq, Repr

/-- A Rhizome link (R556 to R560, R577). -/
structure Link where
  st : LinkState
  /-- flits sent and not acknowledged, oldest first, at most 64 -/
  window : List Flit
  /-- flits that wait for a credit or window room -/
  sendQ : List Flit
  nextSeq : Nat
  expSeq : Nat
  /-- a NAK has been sent and the expected flit has not come -/
  naked : Bool
  /-- credits held per virtual channel -/
  credits : Tbl Nat
  /-- payload of the frame being received per virtual channel -/
  rx : Tbl (List Byte)
  /-- consecutive resends without progress -/
  resends : Nat
  crcErr : W32
  replay : W32
  retrain : W32
  deriving DecidableEq, Repr

/-- A link right after module reset (R577). -/
def Link.reset : Link :=
  { st := .down, window := [], sendQ := [], nextSeq := 0, expSeq := 0, naked := false, credits := [],
    rx := [], resends := 0, crcErr := 0, replay := 0, retrain := 0 }

/-- A frame header (R561) with its payload. -/
structure RFrame where
  ftype : Nat
  hops : Nat
  hopIdx : Nat
  inst : Nat
  route : W32
  fseq : Nat
  xid : W64
  payload : List Byte
  deriving DecidableEq, Repr

/-- What the module has sent to the host, in order (R369, R400, R440). -/
inductive HostMsg where
  /-- memory write: port, requester function, address, bytes -/
  | write (port fn addr : Nat) (data : List Byte)
  /-- MSI-X message: port, function, vector -/
  | msix (port fn vector : Nat)
  /-- memory read request: port, requester function, address, length -/
  | read (port fn addr len : Nat)
  deriving DecidableEq, Repr

/-- A host port (R552). -/
structure HostPort where
  /-- in L0 or an ASPM state -/
  up : Bool
  /-- out of L0 for 1 ms: reads fail (R552) -/
  absent : Bool
  /-- writes that wait for the port, in order -/
  waitQ : List HostMsg
  /-- function and acceptance number of the commands whose writes are among them -/
  owners : List (Nat × Nat) := []
  deriving DecidableEq, Repr

/-- A worker of this module (R567). -/
structure Worker where
  uid : BitVec 128
  route : W32
  hops : Nat
  /-- peer route row: ROUTE and HOPS to every worker -/
  peers : List (W32 × Nat)
  adopted : Bool
  deriving DecidableEq, Repr

/-- A fan-out command this module takes part in (R570 to R572). -/
structure Fan where
  xid : W64
  inst : Nat
  top : Bool
  slot : Option Nat
  /-- workers that reported END, acknowledged STOP, acknowledged BARRIER_ARM -/
  ends : List Nat
  stopAcks : List Nat
  armAcks : List Nat
  armed : List Nat
  stopped : Bool
  status : Option Nat
  lastFrame : Nat
  params : List Byte
  /-- frames of the manager to acknowledge once the workers have: FSEQ, workers still to answer (R572, R575) -/
  owed : List (Nat × List Nat)
  /-- acceptance number of the command, by which it keeps the worker table of its time (R23) -/
  acc : Nat := 0
  deriving DecidableEq, Repr

/-- A chunk being put together from XDATA segments (R563): sender route, pipeline, partition. -/
structure Reasm where
  xid : W64
  inst : Nat
  sender : W32
  xpipe : Nat
  part : Nat
  xcol : Nat
  /-- CSEQ of the chunk being received, or of the next one -/
  cseq : Nat
  open_ : Bool
  bytes : List Byte
  /-- the reassembly area: pages of the instance's quota, into which the segments are appended (R563) -/
  pages : List Nat := []
  /-- complete chunks of the batch being received, as values -/
  cols : List (List Val)
  deriving DecidableEq, Repr

/-- A frame sent and not acknowledged by ACKF (R561). -/
structure SentFrame where
  frame : RFrame
  /-- level of the command, for the virtual channel -/
  level : Nat
  sentAt : Nat
  deriving DecidableEq, Repr

/-- A plan change being applied to the workers (R569). -/
structure PlanDist where
  /-- who waits: the mailbox of a function, or 1000 + i for a change of instance i that a manager's frames brought -/
  key : Nat
  inst : Nat
  planId : Nat
  /-- PLAN_LOAD, else PLAN_UNLOAD -/
  load : Bool
  /-- worker indices whose answers are awaited -/
  waits : List Nat
  /-- the first failure by worker index: index, error, detail, offset -/
  fail : Option (Nat × Nat × Nat × Nat)
  deriving DecidableEq, Repr

/-- Links and hierarchy (R550 to R577). -/
structure LnkSt where
  hp : Tbl HostPort
  links : Tbl Link
  manager : Bool
  adopted : Bool
  level : Nat
  index : Nat
  /-- UID of the manager, reply route and hops of the last CONFIG -/
  mgrUid : BitVec 128
  mgrRoute : W32
  mgrHops : Nat
  workers : List Worker
  /-- the table being adopted, with the answers still awaited (R567) -/
  newWorkers : List Worker
  /-- worker tables that earlier commands still run under, oldest first: the number of the first command accepted after the table was
  replaced, and the table (R23) -/
  oldTables : List (Nat × List Worker) := []
  /-- the mailbox of the SET_WORKERS that waits, and the module time of its HELLO frames -/
  helloFrom : Option (Nat × Nat)
  peers : List (W32 × Nat)
  fans : List Fan
  reasm : List Reasm
  sent : List SentFrame
  /-- next FSEQ per destination route -/
  fseq : Tbl Nat
  /-- frames received: reply route and FSEQ (log 48) -/
  seen : List (Nat × Nat)
  nextXid : Nat
  hbar0In : Bool
  hbar0Out : Bool
  hbar1In : Bool
  hbar1Out : Bool
  cxlOn : Bool
  /-- MSI-X table entries as PCIe lays them out: vector v of function f at 2048 f + v (R25, R26) -/
  msix : Tbl (BitVec 128)
  /-- MSI-X pending bits: port, function, vector -/
  msixPend : List (Nat × Nat × Nat)
  /-- fields of the PF's SR-IOV capability (R437) -/
  totalVfs : Nat := 255
  firstVf : Nat := 1
  vfStride : Nat := 1
  vfEnable : Bool
  numVfs : Nat
  /-- functions whose Bus Master Enable is set at a port: port, function (R551; log 160) -/
  busMaster : List (Nat × Nat)
  /-- functions whose MSI-X Enable is set at a port: port, function (R551; log 160) -/
  msixEnable : List (Nat × Nat)
  /-- plan image slices received: instance, plan ID, bytes -/
  planRx : List (Nat × Nat × List Byte)
  /-- plan changes whose answers are awaited from workers -/
  planDist : List PlanDist
  deriving DecidableEq, Repr

/-- Pads and resets (R574, R578 to R588). -/
structure PadSt where
  porHeld : Bool
  /-- module reset in force, with the causes that prolong it -/
  inReset : Bool
  modRstLow : Bool
  perstLow : Bool
  thermalHold : Bool
  vauxOk : Bool
  vinOk : Bool
  railsOk : Bool
  roleSel : Bool
  i3cAddr : BitVec 2
  /-- straps as the pads carry them now -/
  rolePad : Bool
  i3cPad : BitVec 2
  /-- module time of the last RESET_CAUSE trigger with its cause (R585) -/
  lastCause : Option (Nat × Nat)
  /-- the reset pads have been released and no boot has run since -/
  bootDue : Bool
  booted : Bool
  deriving DecidableEq, Repr

/-- The most recent answer of a memory controller (R335, R336). -/
inductive MemResp where
  | none
  | data (d : List Byte)
  | poison
  | colour
  | mapFault
  | ok
  | cxlPoison
  deriving DecidableEq, Repr

/-- An SPDM or PLDM message that the module sends (R538 to R546): the transport (0 DOE, 1 MCTP), the code, and the bytes:
of SPDM the whole message, of PLDM what follows its header. -/
structure BusMsg where
  transport : Nat
  code : Nat
  data : List Byte
  deriving DecidableEq, Repr

/-- What has left the module, oldest first: the model's own record of its outputs. -/
structure OutSt where
  host : List HostMsg
  /-- frames handed to links: port and frame -/
  frames : List (Nat × RFrame)
  /-- NAK and resent flits: port, kind (0 DATA, 2 NAK), SEQ -/
  flits : List (Nat × Nat × Nat)
  bus : List BusMsg
  mem : MemResp
  /-- answers to requests that had waited for their channel, oldest first (R352) -/
  memHeld : List MemResp := []
  /-- log entries delivered over the sideband (R478) -/
  sideband : List LogEnt
  /-- low pulses of 100 ns that a top manager has driven on HBAR1_OUT_N (R575) -/
  pulses : Nat
  /-- results of the last CMU search burst: (hit, index, RESULT) (R234) -/
  cmu : List (Bool × Nat × W32)
  deriving DecidableEq, Repr

end Sys2Proof.Machine
end

