-- ==== Sys2Proof/Machine/State.lean ====
section
/-!
DEFINITION. The state of the module, the reasons a step can stop, and the state right after reset.
-/

namespace Sys2Proof.Machine

/-- The whole module. -/
structure State where
  /-- commands that wait, first in first out (the model's own queue) -/
  pending : List Instr
  /-- counter of the free values used so far (the model's own field, log 2) -/
  seed : Nat
  /-- module time in ns (R502) -/
  time : Nat
  fronds : Tbl Frond
  ring : RingSt
  disp : DispSt
  mem : MemSt
  eng : EngSt
  store : StoreSt
  insts : Tbl Inst
  mbx : Tbl Mbx
  haw : Tbl Haw
  log : LogSt
  mp : MpSt
  pwr : PwrSt
  tel : TelSt
  sec : SecSt
  lnk : LnkSt
  pads : PadSt
  out : OutSt
  deriving DecidableEq, Repr

/-- Reasons a step ends in a fault. No command of this block stops with one: every error that the
spec describes is an effect on the state. -/
inductive Fault where
  /-- Raised by no command; stands for a state the spec excludes. Safe: the model would stop. -/
  | excluded
  deriving DecidableEq, Repr

/-- Reasons a step is refused. -/
inductive Refusal where
  /-- Raised for a command whose meaning has not been written; safe, since the model stops. -/
  | notModelled (mnemonic : String)
  deriving DecidableEq, Repr

/-- Rings right after module reset: no queue exists, no slot is held (R401, R443). -/
def RingSt.reset : RingSt :=
  { sqs := [], cqs := [], cmds := [], nextAcc := 0, cnt := .zero, instCnt := [] }

/-- The ready lists of instance 0: one per class at level 0 (R286, R443). The lists' numbers are
firmware's choice. DESIGN CHOICE, log 12. -/
def listsOfInst0 : Tbl ReadyList :=
  [(0, { ReadyList.free with used := true, cls := 0 }), (1, { ReadyList.free with used := true, cls := 1 }),
   (2, { ReadyList.free with used := true, cls := 2 }), (3, { ReadyList.free with used := true, cls := 3 })]

/-- The dispatcher right after module reset (R295, R310). -/
def DispSt.reset : DispSt :=
  { lists := listsOfInst0, timers := [], tmrWaits := 0, flowWaits := 0, deadlines := 0, lvlHist := [],
    instHist := [], frondLoad := [], engOcc := [], profile := 0, latLevel := 4, profileChange := none,
    flowUsed := [], flowQ := [], tmrQ := [], fences := [], frondSet := [], reloading := [] }

/-- Device memory right after power-on (R356). -/
def MemSt.reset : MemSt :=
  { bytes := [], poison := [], cwCol := [], frames := [], sysUp := false, dir := [], leaf := [],
    chans := [], scrubBytes := 0, errAddr := 0, errInfo := 0, colourFaults := 0, instFaults := [],
    retired := 0, sr := false, ueSeen := false, cfSeen := false, temp := 0, releaseQ := [], burst := [],
    scrubPaused := false, allocs := [], nextDie := [], patrolStop := false, leaving := [],
    waits := [] }

/-- The shared engines right after module reset (R265, R284, R330). -/
def EngSt.reset : EngSt :=
  { cmu := [], ratio := 10, smu := [], dgu := [], digOpens := [], fabricDown := [] }

/-- The table store before it is mounted (R404). -/
def StoreSt.reset : StoreSt :=
  { mounted := false, ssds := [], objs := [], pubs := [], nvme := [], nextNvme := 0, jour1 := none,
    jour2 := none, jourCopy := none, cacheQ := [], flushes := [] }

/-- The management pair right after module reset (R484, R498). -/
def MpSt.reset : MpSt :=
  { actSel := false, lockstep := true, stA := .active, stB := .standby, arbitrating := false,
    arbFrom := 0, arbCause := 0, arbSecond := false, activating := false, actStep := 0, actMbx := none,
    returnFrom := none, arbs := 0, healthA := .reset, healthB := .reset, lastUs := 0,
    runVer := 0x03020000, staged := none, reloads := [] }

/-- Power right after module reset (R436, R513). -/
def PwrSt.reset : PwrSt :=
  { cap := 1520, baseline := 0, measured := 0, grants := [], waits := [], revoked := [], nextGrant := 0,
    waitCnt := 0, overruns := 0, revokes := 0, ps := 0, target := 0, entering := false, ponr := false,
    wakeAfter := false, exiting := false, idle1 := 20, idle2 := 2000, idle3 := 1000000, entryAt := 0,
    idleUs := 0, idleMark := (0, 0), linksLow := false, l12 := false,
    destaging := false, sag := false, sagSource := 0, vinMv := 0, overCap := 0, capLim := [],
    thermLim := [], sagLim := [], fclk := [], parked := [], domWarn := [], refLost := false,
    refLoc := false, reduced := false }

/-- Telemetry right after module reset (R523, R527, R528). -/
def TelSt.reset : TelSt :=
  { mirror := true, rollup := false, div := 10, samples := 0, calTime := 0, vinMv := 0, iin := 0,
    vauxMv := 0, iaux := 0, sensors := [], doms := [], hawPower := 0, hawTemp := 0, mirrorHead := [], mirrorRec := [],
    mirrorSeq := 0, workers := [] }

/-- The package that a bank of the boot flash holds at first: FW_VER of its header, at 0x0C, is Fiush 3.2 (R2, R533); the rest is
open (log 8). -/
def firstPackage (bank : Bool) : List Byte :=
  let b := Config.bootFlash bank
  (b ++ List.replicate 12 0).take 12 ++ leBytes 0x03020000 4 ++ b.drop 16

/-- The root of trust right after module reset (R549). -/
def SecSt.reset : SecSt :=
  { lifecycle := Config.lifecycleFuse, fuse := Config.lifecycleFuse, scope := 0, unlocked := false,
    bank := false, fallback := false, bootErr := 0, svn := [0, 0, 0], nonceNo := 0, tokenAddr := 0,
    tokenSt := .idle, tokenErr := 0, revoked := 0, keysGone := false, flash0 := firstPackage false, flash1 := firstPackage true,
    preferred := false, meas := [], attProfile := 0, spdm := [], signQ := [], pldm := .idle,
    pldmData := [], pldmSize := 0, recovery := false }

/-- Links right after module reset (R551, R566, R577). -/
def LnkSt.reset : LnkSt :=
  { hp := [], links := [], manager := false, adopted := false, level := 0, index := 0, mgrUid := 0,
    mgrRoute := 0, mgrHops := 0, workers := [], newWorkers := [], helloFrom := none, peers := [], fans := [], reasm := [],
    sent := [], fseq := [], seen := [], nextXid := 0, hbar0In := true, hbar0Out := true, hbar1In := true,
    hbar1Out := true, cxlOn := false, msix := [], msixPend := [], vfEnable := false, numVfs := 0, busMaster := [], msixEnable := [], planRx := [], planDist := [] }

/-- Pads: supplies in range, resets released, boot about to run (R586). -/
def PadSt.reset : PadSt :=
  { porHeld := false, inReset := false, modRstLow := false, perstLow := false, thermalHold := false,
    vauxOk := true, vinOk := true, railsOk := true, roleSel := false, i3cAddr := 0, rolePad := false,
    i3cPad := 0, lastCause := none, bootDue := true, booted := false }

/-- Nothing has left the module. -/
def OutSt.reset : OutSt :=
  { host := [], frames := [], flits := [], bus := [], mem := .none, sideband := [], pulses := 0, cmu := [] }

/-- Instance 0 exists from module reset on (R443). -/
def Inst.zero : Inst := { Inst.absent with st := .active, res := .inst0 }

/-- The module right after power-on reset and the release of its resets. -/
def State.reset : State :=
  { pending := [], seed := 0, time := 0, fronds := [], ring := .reset, disp := .reset, mem := .reset,
    eng := .reset, store := .reset, insts := [(0, Inst.zero)], mbx := [], haw := [],
    log := { entries := [], next := 0 }, mp := .reset, pwr := .reset, tel := .reset, sec := .reset,
    lnk := .reset, pads := .reset, out := .reset }

end Sys2Proof.Machine
end

