-- ==== Sys2Proof/Machine/Ops.lean ====
section
/-!
DEFINITION. Named operations that every family uses: reading and writing the numbered parts of the
state, free values, the event log, host messages, and bit helpers.
-/

namespace Sys2Proof.Machine

/-! ## Bit helpers -/

/-- The n-bit two's-complement value of x, as an integer. -/
def toSigned (n x : Nat) : Int :=
  if x % 2 ^ n < 2 ^ (n - 1) then ((x % 2 ^ n : Nat) : Int) else ((x % 2 ^ n : Nat) : Int) - (2 : Int) ^ n

/-- The n low bits of an integer, as a number. -/
def ofSigned (n : Nat) (i : Int) : Nat := (i % (2 : Int) ^ n).toNat

/-- Bit n of a number. -/
def bit (x n : Nat) : Bool := x.testBit n

/-- Bit field [hi:lo] of a number (R6). -/
def bits (x hi lo : Nat) : Nat := (x >>> lo) % 2 ^ (hi + 1 - lo)

/-- How many blocks of k hold x. -/
def ceilDiv (x k : Nat) : Nat := if x % k = 0 then x / k else x / k + 1

/-- A number rounded up to a multiple of k. -/
def roundUp (x k : Nat) : Nat := ceilDiv x k * k

/-- A little-endian field of n bytes at an offset of a byte list; bytes past the end read as zero. -/
def leAt (b : List Byte) (off n : Nat) : Nat := leNat ((b.drop off).take n)

/-- The same over a stored object's bytes. -/
def zeros (n : Nat) : List Byte := List.replicate n 0

/-- Whether the bytes [off, off + n) are all zero. -/
def zeroAt (b : List Byte) (off n : Nat) : Bool := ((b.drop off).take n).all (· = 0)

/-! ## Numbered parts of the state -/

def State.frond (s : State) (f : Nat) : Frond := s.fronds.get Frond.reset f
def State.setFrond (s : State) (f : Nat) (x : Frond) : State :=
  { s with fronds := s.fronds.set Frond.reset f x }

def State.inst (s : State) (i : Nat) : Inst := s.insts.get Inst.absent i
def State.setInst (s : State) (i : Nat) (x : Inst) : State :=
  { s with insts := s.insts.set Inst.absent i x }

/-- Key of SQ n of instance i: every 16-bit queue number of an instance has a key of its own (R357). -/
def sqKey (i n : Nat) : Nat := 65536 * i + n
/-- Key of CQ n of instance i. -/
def cqKey (i n : Nat) : Nat := 65536 * i + n
/-- The instance and the number in the key of a queue. -/
def keyInst (k : Nat) : Nat := k / 65536
def keyNum (k : Nat) : Nat := k % 65536

def State.sq (s : State) (i n : Nat) : Sq := s.ring.sqs.get Sq.absent (sqKey i n)
def State.setSq (s : State) (i n : Nat) (x : Sq) : State :=
  { s with ring := { s.ring with sqs := s.ring.sqs.set Sq.absent (sqKey i n) x } }

def State.cq (s : State) (i n : Nat) : Cq := s.ring.cqs.get Cq.absent (cqKey i n)
def State.setCq (s : State) (i n : Nat) (x : Cq) : State :=
  { s with ring := { s.ring with cqs := s.ring.cqs.set Cq.absent (cqKey i n) x } }

def State.cmd (s : State) (k : Nat) : Option Cmd := s.ring.cmds.get none k
def State.setCmd (s : State) (k : Nat) (x : Option Cmd) : State :=
  { s with ring := { s.ring with cmds := s.ring.cmds.set none k x } }

/-- Command slots 0 to 65,535 are the module's (R383); work that a fan-out of another module gives this one stands
above them and is no command of its rings (R571). -/
def nSlots : Nat := 65536

/-- Changes a command that holds slot k. -/
def State.modCmd (s : State) (k : Nat) (f : Cmd → Cmd) : State :=
  match s.cmd k with
  | none => s
  | some c => s.setCmd k (some (f c))

def State.getMbx (s : State) (i : Nat) : Mbx := s.mbx.get Mbx.reset i
def State.setMbx (s : State) (i : Nat) (x : Mbx) : State := { s with mbx := s.mbx.set Mbx.reset i x }

def State.getHaw (s : State) (i : Nat) : Haw := s.haw.get Haw.reset i
def State.setHaw (s : State) (i : Nat) (x : Haw) : State := { s with haw := s.haw.set Haw.reset i x }

def State.chan (s : State) (c : Nat) : Chan := s.mem.chans.get Chan.reset c
def State.setChan (s : State) (c : Nat) (x : Chan) : State :=
  { s with mem := { s.mem with chans := s.mem.chans.set Chan.reset c x } }

def State.cmu (s : State) (u : Nat) : CmuUnit := s.eng.cmu.get CmuUnit.reset u
def State.setCmu (s : State) (u : Nat) (x : CmuUnit) : State :=
  { s with eng := { s.eng with cmu := s.eng.cmu.set CmuUnit.reset u x } }

def State.smu (s : State) (u : Nat) : SmuUnit := s.eng.smu.get SmuUnit.reset u
def State.setSmu (s : State) (u : Nat) (x : SmuUnit) : State :=
  { s with eng := { s.eng with smu := s.eng.smu.set SmuUnit.reset u x } }

def State.dgu (s : State) (u : Nat) : DguUnit := s.eng.dgu.get DguUnit.reset u
def State.setDgu (s : State) (u : Nat) (x : DguUnit) : State :=
  { s with eng := { s.eng with dgu := s.eng.dgu.set DguUnit.reset u x } }

def State.link (s : State) (l : Nat) : Link := s.lnk.links.get Link.reset l
def State.setLink (s : State) (l : Nat) (x : Link) : State :=
  { s with lnk := { s.lnk with links := s.lnk.links.set Link.reset l x } }

/-- A host port: in L0 unless an event has said otherwise. DESIGN CHOICE, log 13. -/
def HostPort.reset : HostPort := { up := true, absent := false, waitQ := [] }

def State.hostPort (s : State) (p : Nat) : HostPort := s.lnk.hp.get HostPort.reset p
def State.setHostPort (s : State) (p : Nat) (x : HostPort) : State :=
  { s with lnk := { s.lnk with hp := s.lnk.hp.set HostPort.reset p x } }

/-- Applies an operation for every number below n, lowest first. -/
def forBelow {α : Type} (f : Nat → α → α) : Nat → α → α
  | 0, a => a
  | n + 1, a => f n (forBelow f n a)

/-- Applies an operation for every element, first to last. -/
def forEach {α β : Type} (f : β → α → α) : List β → α → α
  | [], a => a
  | b :: t, a => forEach f t (f b a)

/-- Inserts into a list that rises in a number. -/
def insertOn {α : Type} (key : α → Nat) (a : α) : List α → List α
  | [] => [a]
  | b :: t => if key a ≤ key b then a :: b :: t else b :: insertOn key a t

/-- Sorts by a number; equal elements keep their order. -/
def sortOn {α : Type} (key : α → Nat) : List α → List α
  | [] => []
  | a :: t => insertOn key a (sortOn key t)

/-! ## Free values (log 2) -/

/-- A fresh free number, with the counter advanced. -/
def State.freshNat (s : State) : Nat × State := (Config.freeNat s.seed, { s with seed := s.seed + 1 })

/-- A fresh free word, with the counter advanced. -/
def State.freshWord (s : State) : W64 × State := (Config.freeWord s.seed, { s with seed := s.seed + 1 })

/-- n bytes that nothing fixes. -/
def freshBytes : Nat → State → List Byte × State
  | 0, s => ([], s)
  | n + 1, s =>
    let r := s.freshNat
    let t := freshBytes n r.2
    (BitVec.ofNat 8 (r.1 % 256) :: t.1, t.2)

/-- A free choice among the elements of a list: the first, some other, or none when it is empty. -/
def State.choose {α : Type} (s : State) (l : List α) : Option α × State :=
  match l with
  | [] => (none, s)
  | [a] => (some a, s)
  | _ => (l[Config.freeNat s.seed % l.length]?, { s with seed := s.seed + 1 })

/-! ## Event log (R474, R475) -/

/-- The AON log writer stores one entry at the next sequence number; at most 4,096 are held. -/
def logOne (code src inst detail : Nat) (s : State) : State :=
  let e : LogEnt := { time := BitVec.ofNat 64 s.time, code := BitVec.ofNat 16 code,
                      source := BitVec.ofNat 8 src, inst := BitVec.ofNat 8 inst,
                      detail := BitVec.ofNat 32 detail }
  { s with log := { entries := (e :: s.log.entries).take 4096, next := s.log.next + 1 } }

/-- An event; one whose detail needs more than 4 bytes takes an extension entry (R475). -/
def logEvent (code src inst detail : Nat) (ext : Option Nat) (s : State) : State :=
  match ext with
  | none => logOne code src inst detail s
  | some x => logOne 0xFFFF src inst x (logOne code src inst detail s)

/-! ## Outputs of management firmware (R487) -/

/-- The next output of the pair: it takes its sequence number, and is released at once; while an arbitration keeps the
gate closed it waits there with its number (R487, R490, R491). -/
def gateOut (o : GateOut) (release : State → State) (s : State) : State :=
  let n := s.mp.outSeq
  let s := { s with mp := { s.mp with outSeq := n + 1 } }
  if s.mp.arbitrating then { s with mp := { s.mp with gate := s.mp.gate ++ [(n, o)] } } else release s

/-- A log entry that firmware writes: source MC (R476). -/
def fwEvent (code inst detail : Nat) (s : State) : State :=
  gateOut (.event code inst detail) (logEvent code 0x01 inst detail none) s

/-! ## Messages to the host -/

/-- An MSI-X table entry as PCIe resets it: the vector is masked (R25, R400). PRESUMED, log 87. -/
def msixReset : BitVec 128 := 1#128 <<< 96

/-- A vector of a function is masked. -/
def msixMasked (s : State) (fn v : Nat) : Bool := (s.lnk.msix.get msixReset (2048 * fn + v)).getLsbD 96

/-- A memory read request. -/
def HostMsg.isRead (m : HostMsg) : Bool :=
  match m with
  | .read .. => true
  | _ => false

/-- A write or message leaves through its port, or waits there in order while the port is out of
L0; a read made while the port is absent fails and is not sent (R552). -/
def hostOut (port : Nat) (m : HostMsg) (s : State) : State :=
  let p := s.hostPort port
  if p.up then { s with out := { s.out with host := s.out.host ++ [m] } }
  else if p.absent && m.isRead then s
  else s.setHostPort port { p with waitQ := p.waitQ ++ [m] }

/-- A message of a masked vector stays pending until the vector is unmasked, as PCIe says (R400). -/
def hostSend (port : Nat) (m : HostMsg) (s : State) : State :=
  match m with
  | .msix p fn v =>
    if msixMasked s fn v then
      if s.lnk.msixPend.contains (p, fn, v) then s
      else { s with lnk := { s.lnk with msixPend := s.lnk.msixPend ++ [(p, fn, v)] } }
    else hostOut port m s
  | _ => hostOut port m s

/-- A host memory write of a function through a port. -/
def hostWrite (port fn addr : Nat) (d : List Byte) (s : State) : State :=
  hostSend port (.write port fn addr d) s

/-- A host memory write made for the command of a function with an acceptance number: the port keeps whose writes wait (R552). -/
def hostWriteFor (port fn acc addr : Nat) (d : List Byte) (s : State) : State :=
  let s := hostWrite port fn addr d s
  let p := s.hostPort port
  if p.up then s else s.setHostPort port { p with owners := p.owners ++ [(fn, acc)] }

/-- A host read through a port as it returned: while the port is absent every read fails (R552). -/
def hostGave {α : Type} (s : State) (port : Nat) (d : Option α) : Option α :=
  if (s.hostPort port).absent then none else d

/-- Sets a bit of HAW_EVENTS of a function; its message goes out when the enable is set (R472). -/
def hawEvent (i b : Nat) (s : State) : State :=
  let h := s.getHaw i
  let s := s.setHaw i { h with events := h.events ||| BitVec.ofNat 5 (2 ^ b) }
  if bit h.en.toNat b then hostSend h.port (.msix h.port i h.vector) s else s

/-- Sets a module-wide bit of HAW_EVENTS in the HAW of every function that exists. -/
def hawEventAll (b : Nat) (s : State) : State :=
  forEach (fun (e : Nat × Inst) s => hawEvent e.1 b s) s.insts s

/-- MC_SWITCH: the core active afterwards (true MC-B) and the cause; the bit of that name is set in every HAW (R472, R489;
log 161). -/
def mcSwitch (act : Bool) (cause : Nat) (s : State) : State :=
  hawEventAll 4 (logEvent 0x0701 0x00 0 ((if act then 1 else 0) + 16 * cause) none s)

/-- BAD_ACCESS names the function and the BAR0 offset (R27, R477). -/
def badAccess (fn off : Nat) (s : State) : State := logEvent 0x0105 0x05 fn (off % 2 ^ 26) none s

/-- Adds to one of the eight counters of an instance record (R524). -/
def addCounter (i k n : Nat) (s : State) : State :=
  let x := s.inst i
  if x.st = .absent then s
  else s.setInst i { x with counters := x.counters.set 0 k (x.counters.get 0 k + BitVec.ofNat 64 n) }

/-! ## Bytes of a line -/

/-- The 64 bytes of a line, lowest first. -/
def lineBytes (l : Line) : List Byte := leBytes l.toNat 64

/-- A line from bytes. -/
def bytesLine (b : List Byte) : Line := BitVec.ofNat 512 (leNat (b.take 64))

/-! ## Profile and weights (R290, R295) -/

/-- The weight of an instance under profile p: bytes of WEIGHTS in profile order (R470). -/
def weightOf (s : State) (i p : Nat) : Nat := bits (s.inst i).res.weights.toNat (8 * p + 7) (8 * p)

/-- The owner of quantum q of a frame of n: fixed positions in proportion to weights, in ascending instance
number (log 57). -/
def quantumOwner (ws : List (Nat × Nat)) (n q : Nat) : Option Nat :=
  let total := (ws.map (·.2)).sum
  let rec go : List (Nat × Nat) → Nat → Option Nat
    | [], _ => none
    | (i, w) :: t, acc => if q < (acc + w) * n / (max 1 total) then some i else go t (acc + w)
  go ws 0

/-- The least number of a list above n, else the least of all: cyclic order. -/
def nextAfter (n : Nat) (l : List Nat) : Option Nat :=
  match (l.filter fun i => n < i).min? with
  | some i => some i
  | none => l.min?

/-! ## Turns (R262, R263, R280, R384) -/

/-- Weighted round robin: of the instances with work, the one in turn while something of its weight is left, then the next in
ascending number; one of weight 0 is served when no other has work. -/
def wrrNext (w : Nat → Nat) (turn credit : Nat) (l : List Nat) : Option Nat :=
  let heavy := l.filter fun i => w i ≠ 0
  let l := if heavy.isEmpty then l else heavy
  if l.contains turn ∧ 0 < credit then some turn else nextAfter turn l

/-- What is left of the weight of an instance that has been served n times in its turn. -/
def wrrLeft (w : Nat → Nat) (turn credit i n : Nat) : Nat := (if turn = i ∧ 0 < credit then credit else w i) - n

/-- A frame of n fixed positions: the next one whose owner has work, and the position after it; positions of others without
work stay idle. -/
def frameNext (owner : Nat → Option Nat) (n pos : Nat) (l : List Nat) : Option (Nat × Nat) :=
  (List.range n).findSome? fun k =>
    match owner ((pos + k) % n) with
    | some i => if l.contains i then some (i, (pos + k + 1) % n) else none
    | none => none

end Sys2Proof.Machine
end

