-- ==== Sys2Proof/Machine/MemOps.lean ====
section
/-!
DEFINITION. Device memory as every block uses it: places of frames and channels (R331, R333),
translation (R337 to R339), the read check (R335), the write check (R336, R342, R592), allocation
and release of frames (R345 to R347).
-/

namespace Sys2Proof.Machine

/-! ## Places -/

/-- Page frames of the module and of one die (R331). -/
def nFrames : Nat := 786432
def framesPerDie : Nat := 196608
def pageSize : Nat := 2097152

/-- The frame that holds a physical address. -/
def frameAt (a : Nat) : Nat := a / pageSize

/-- The die of a frame (R333). -/
def dieOfFrame (f : Nat) : Nat := f / framesPerDie

/-- The channel that holds a physical address (R333). -/
def chanAt (a : Nat) : Nat :=
  24 * dieOfFrame (frameAt a) + ((a % pageSize) / 256 + frameAt a) % 24

/-- What the system frames of a die hold: its quarters of the system reserve, of the write cache and of the extent maps (R343). -/
inductive SysRange where
  | reserve | writeCache | extentMaps
  deriving DecidableEq, Repr

/-- Frames of each range on one die, from the top down (R343). -/
def SysRange.size : SysRange → Nat
  | .reserve => 2048
  | .writeCache => 4096
  | .extentMaps => 512

/-- System frames of a die. -/
def sysPerDie : Nat := SysRange.reserve.size + SysRange.writeCache.size + SysRange.extentMaps.size

/-- The range in which a frame lies: the highest frames of its die are the reserve, those below the write cache, those below the
extent maps (R343). Which structure lies in which frame of a range is firmware's choice, and the model keeps the structures in
fields of their own (log 167). -/
def sysRange (f : Nat) : Option SysRange :=
  let k := f % framesPerDie
  if nFrames ≤ f then none
  else if framesPerDie - SysRange.reserve.size ≤ k then some .reserve
  else if framesPerDie - SysRange.reserve.size - SysRange.writeCache.size ≤ k then some .writeCache
  else if framesPerDie - sysPerDie ≤ k then some .extentMaps
  else none

/-- The fixed system frames of R343, held once the boot has taken them (R534, step 3). -/
def isSysFrame (s : State) (f : Nat) : Bool := s.mem.sysUp && (sysRange f).isSome

/-- A frame's record. -/
def State.frame (s : State) (f : Nat) : Frame :=
  if isSysFrame s f then { Frame.reset with st := .system } else s.mem.frames.get Frame.reset f

def State.setFrame (s : State) (f : Nat) (x : Frame) : State :=
  { s with mem := { s.mem with frames := s.mem.frames.set Frame.reset f x } }

/-- The colour of codeword k (physical address / 32). -/
def colourOf (s : State) (k : Nat) : Nat :=
  match s.mem.cwCol.get none k with
  | some c => c.toNat
  | none => (s.frame (frameAt (32 * k))).lines.toNat

/-- Bytes of device memory; an unlisted byte reads as zero. DESIGN CHOICE, log 14. -/
def readBytes (s : State) (a n : Nat) : List Byte := Tbl.read 0 s.mem.bytes a n

/-! ## Errors -/

/-- Detail words of an event that names a physical address (R355, R477). -/
def addrExt (a colour : Nat) : Nat :=
  bits a 40 32 + 2 ^ 16 * chanAt a + 2 ^ 24 * colour

/-- Source code of the controller of an address (R476). -/
def fdSource (a : Nat) : Nat := 0x10 + dieOfFrame (frameAt a)

/-- Packs MEM_ERR_INFO (R356). -/
def errInfoOf (kind : Nat) (req : Option Nat) (a : Nat) : W32 :=
  BitVec.ofNat 32 (2 ^ 31 + 2 ^ 29 * kind + 2 ^ 16 * (req.getD 0) +
    (if req.isNone then 2 ^ 15 else 0) + chanAt a)

/-- A colour fault or refusal: counted, recorded and logged (R342, R355, R592). -/
def colourFault (req : Option Nat) (a found : Nat) (s : State) : State :=
  let i := req.getD 0
  let s := { s with mem := { s.mem with
    colourFaults := s.mem.colourFaults + 1, cfSeen := true, errAddr := BitVec.ofNat 41 a,
    errInfo := errInfoOf 1 req a,
    instFaults := s.mem.instFaults.set 0 i (s.mem.instFaults.get 0 i + 1) } }
  logEvent 0x0303 (fdSource a) i (a % 2 ^ 32) (some (addrExt a found)) s

/-- An uncorrectable codeword has been read (R347, R355). -/
def uncorrectable (req : Option Nat) (a : Nat) (s : State) : State :=
  let c := chanAt a
  let ch := s.chan c
  let s := s.setChan c { ch with ue := ch.ue + 1 }
  let f := frameAt a
  let s := if isSysFrame s f then s else s.setFrame f { s.frame f with ue := true }
  let s := { s with mem := { s.mem with ueSeen := true, errAddr := BitVec.ofNat 41 a,
                                        errInfo := errInfoOf 0 req a } }
  logEvent 0x0302 (fdSource a) 0 (a % 2 ^ 32) (some (addrExt a 0)) s

/-- A corrected single-symbol error (R335, R347, R355): the first and every 1,024th after it is
logged. -/
def corrected (a : Nat) (s : State) : State :=
  let c := chanAt a
  let ch := s.chan c
  let s := s.setChan c { ch with ce := ch.ce + 1 }
  let f := frameAt a
  let s := if isSysFrame s f then s
    else s.setFrame f { s.frame f with ce := (s.frame f).ce ++ [s.time] }
  if ch.ce.toNat % 1024 = 0 then logEvent 0x0301 (fdSource a) 0 (a % 2 ^ 32) (some (addrExt a 0)) s
  else s

/-! ## Reads and writes at the controller -/

/-- Whether a codeword reads as poisoned: its check symbols say so or its channel is FAILED (R348,
R352). -/
def poisonedAt (s : State) (k : Nat) : Bool :=
  s.mem.poison.get false k || decide ((s.chan (chanAt (32 * k))).st = .failed)

/-- Errors found when a codeword is decoded: 0 none, 1 one symbol, 2 uncorrectable (R334, R335). -/
def decodeCw (k e : Nat) (s : State) : State :=
  match e with
  | 0 => s
  | 1 => corrected (32 * k) s
  | _ => { s with mem := { s.mem with poison := s.mem.poison.set false k true } }

/-- The memory controller reads the line at physical address a (64-byte aligned) for a requester,
`none` being SYS, by the steps of R335 after the bitmap check of R342. e0 and e1 are what the decoder
finds in the two codewords. -/
def readLine (req : Option Nat) (a e0 e1 : Nat) (s : State) : MemResp × State :=
  let a := a / 64 * 64
  let k := a / 32
  if req.isSome && isSysFrame s (frameAt a) then (.colour, colourFault req a 0 s)
  else
    let s := decodeCw (k + 1) e1 (decodeCw k e0 s)
    if poisonedAt s k || poisonedAt s (k + 1) then (.poison, uncorrectable req a s)
    else
      match req with
      | none => (.data (readBytes s a 64), s)
      | some i =>
        if colourOf s k ≠ i then (.colour, colourFault req a (colourOf s k) s)
        else if colourOf s (k + 1) ≠ i then (.colour, colourFault req a (colourOf s (k + 1)) s)
        else (.data (readBytes s a 64), addCounter i 1 64 s)

/-- Writes one codeword's share of a request: bytes d at physical address a, within codeword k. The
result says whether the writer gets DEV_COLOUR (R336). -/
def writeCw (req : Option Nat) (k a : Nat) (d : List Byte) (s : State) : Bool × State :=
  let col := req.getD 0
  if (s.chan (chanAt (32 * k))).st = .failed then (false, s)
  else if d.length = 32 then
    let cc : Option (BitVec 8) :=
      if (s.frame (frameAt a)).lines.toNat = col then none else some (BitVec.ofNat 8 col)
    (false, { s with mem := { s.mem with
      bytes := Tbl.write 0 s.mem.bytes a d, poison := s.mem.poison.set false k false,
      cwCol := s.mem.cwCol.set none k cc } })
  else if poisonedAt s k then (false, uncorrectable req (32 * k) s)
  else if req.isSome && colourOf s k ≠ col then (true, colourFault req (32 * k) (colourOf s k) s)
  else (false, { s with mem := { s.mem with bytes := Tbl.write 0 s.mem.bytes a d } })

/-- Splits bytes at address a into the shares of successive codewords. -/
def cwShares : Nat → Nat → List Byte → List (Nat × Nat × List Byte)
  | 0, _, _ => []
  | fuel + 1, a, d =>
    match d with
    | [] => []
    | _ =>
      let n := 32 - a % 32
      (a / 32, a, d.take n) :: cwShares fuel (a + n) (d.drop n)

/-- A write request at physical address a (R336, R342, R592). -/
def writePhys (req : Option Nat) (a : Nat) (d : List Byte) (s : State) : MemResp × State :=
  let f := frameAt a
  if req.isSome && isSysFrame s f then (.colour, colourFault req a 0 s)
  else if req.isSome && (s.frame f).tbl.toNat ≠ req.getD 0 then
    (.colour, colourFault req a (s.frame f).tbl.toNat s)
  else
    let r := forEach (fun (x : Nat × Nat × List Byte) (acc : Bool × State) =>
      let w := writeCw req x.1 x.2.1 x.2.2 acc.2
      (acc.1 || w.1, w.2)) (cwShares (d.length + 1) a d) (false, s)
    (if r.1 then .colour else .ok, r.2)

/-- A block writes a codeword as poisoned (R348, R349). -/
def writePoison (k : Nat) (s : State) : State :=
  { s with mem := { s.mem with poison := s.mem.poison.set false k true } }

/-- A write of data that the writer marks as poisoned: the codewords that it writes become so (R348, R349). -/
def writeMarked (req : Option Nat) (a : Nat) (w : MemWrite) (s : State) : MemResp × State :=
  let r := writePhys req a w.bytes s
  if w.poison && decide (r.1 = .ok) then
    (r.1, forEach (fun (x : Nat × Nat × List Byte) s => writePoison x.1 s) (cwShares (w.bytes.length + 1) a w.bytes) r.2)
  else r

/-! ## Translation -/

def dirKey (i k : Nat) : Nat := 4096 * i + k
def leafKey (t p : Nat) : Nat := 32768 * t + p % 32768

/-- The leaf table that holds page p of instance i: LEAF of the directory entry of [47:36], when its V is set (R337, R338). -/
def leafTable (s : State) (i p : Nat) : Option Nat :=
  let d := (s.mem.dir.get 0 (dirKey i (p / 32768))).toNat
  if bit d 31 then some (bits d 15 0) else none

/-- The leaf entry of page p of instance i: none where the directory has no leaf table (R337, R338). -/
def leafEntry (s : State) (i p : Nat) : Option W32 := (leafTable s i p).map fun t => s.mem.leaf.get 0 (leafKey t p)

/-- Translates an instance device address (R214, R339). -/
def translate (s : State) (i a : Nat) (wr : Bool) : XlateRes :=
  if 2 ^ 48 ≤ a then .mapFault
  else
    match leafEntry s i (a / pageSize) with
    | none => .mapFault
    | some e =>
      let e := e.toNat
      let f := bits e 19 0
      if !bit e 31 || decide (nFrames ≤ f) || (wr && !bit e 30) then .mapFault
      else if bits e 27 20 ≠ i then .colour (f * pageSize + a % pageSize) (bits e 27 20)
      else .phys (f * pageSize + a % pageSize)

/-- What an access to instance device memory can end with. -/
inductive DevErr where
  | map | colour | poison
  deriving DecidableEq, Repr

/-- Cause code of a device access that fails (R173). -/
def DevErr.code : DevErr → Nat
  | .map => 0x07
  | .colour => 0x08
  | .poison => 0x09

/-- Item status of a device access that fails (R151, R173). -/
def DevErr.status : DevErr → Nat
  | .map => 0x0104
  | .colour => 0x0104
  | .poison => 0x0202

/-- One line-sized read of an instance: bytes [a, a + n), which lie in one 64-byte line. -/
def devReadLine (i a n : Nat) (s : State) : Except DevErr (List Byte) × State :=
  match translate s i a false with
  | .mapFault => (.error .map, s)
  | .colour p c => (.error .colour, colourFault (some i) p c s)
  | .phys p =>
    match readLine (some i) p 0 0 s with
    | (.data d, s) => (.ok ((d.drop (p % 64)).take n), s)
    | (.poison, s) => (.error .poison, s)
    | (_, s) => (.error .colour, s)

/-- One write of an instance within one 64-byte line. -/
def devWriteLine (i a : Nat) (d : List Byte) (s : State) : Option DevErr × State :=
  match translate s i a true with
  | .mapFault => (some .map, s)
  | .colour p c => (some .colour, colourFault (some i) p c s)
  | .phys p =>
    match writePhys (some i) p d s with
    | (.colour, s) => (some .colour, s)
    | (_, s) => (none, s)

/-- Reads n bytes of an instance from a, line by line in ascending order, up to the first failing
line: the bytes read, and the failure with its address. -/
def devRead (i : Nat) : Nat → Nat → Nat → State → List Byte × Option (DevErr × Nat) × State
  | 0, _, _, s => ([], none, s)
  | fuel + 1, a, n, s =>
    if n = 0 then ([], none, s)
    else
      let m := min n (64 - a % 64)
      match devReadLine i a m s with
      | (.error e, s) => ([], some (e, a), s)
      | (.ok d, s) =>
        let r := devRead i fuel (a + m) (n - m) s
        (d ++ r.1, r.2)

/-- Writes bytes of an instance from a, line by line in ascending order, up to the first failure. -/
def devWrite (i : Nat) : Nat → Nat → List Byte → State → Option (DevErr × Nat) × State
  | 0, _, _, s => (none, s)
  | fuel + 1, a, d, s =>
    match d with
    | [] => (none, s)
    | _ =>
      let m := 64 - a % 64
      match devWriteLine i a (d.take m) s with
      | (some e, s) => (some (e, a), s)
      | (none, s) => devWrite i fuel (a + m) (d.drop m) s

/-- Reads with as many lines as the length can touch. -/
def devReadN (i a n : Nat) (s : State) : List Byte × Option (DevErr × Nat) × State :=
  devRead i (n / 64 + 2) a n s

/-- Writes with as many lines as the length can touch. -/
def devWriteN (i a : Nat) (d : List Byte) (s : State) : Option (DevErr × Nat) × State :=
  devWrite i (d.length / 64 + 2) a d s

/-! ## Map entries, allocation and release -/

/-- The lowest key at or above k that a table does not list, within fuel keys. -/
def firstUnlisted {α : Type} (t : Tbl α) : Nat → Nat → Option Nat
  | 0, _ => none
  | fuel + 1, k => if t.any (fun e => e.1 = k) then firstUnlisted t fuel (k + 1) else some k

/-- The lowest leaf table of the system leaf pool that no directory entry names. Which one firmware takes is its choice. DESIGN
CHOICE, log 15. -/
def freeLeaf (s : State) : Option Nat :=
  let used := (s.mem.dir.filter fun e => bit e.2.toNat 31).map fun e => (bits e.2.toNat 15 0, ())
  match firstUnlisted used (used.length + 1) 0 with
  | some t => if t < 65536 then some t else none
  | none => none

/-- Writes the entry of page p in leaf table t. -/
def putLeaf (t p : Nat) (e : W32) (s : State) : State :=
  { s with mem := { s.mem with leaf := s.mem.leaf.set 0 (leafKey t p) e } }

/-- Writes a leaf entry. Where the directory has no leaf table for it, a free one of the pool is taken, and without one the entry
is not written (R337, R338). -/
def setLeaf (i p : Nat) (e : W32) (s : State) : State :=
  match leafTable s i p with
  | some t => putLeaf t p e s
  | none =>
    match freeLeaf s with
    | none => s
    | some t => putLeaf t p e { s with mem := { s.mem with
        dir := s.mem.dir.set 0 (dirKey i (p / 32768)) (BitVec.ofNat 32 (2 ^ 31 + t)) } }

/-- The leaf tables of an instance, each with its directory index. -/
def leafTables (s : State) (i : Nat) : List (Nat × Nat) :=
  (s.mem.dir.filter fun e => decide (e.1 / 4096 = i) && bit e.2.toNat 31).map fun e => (e.1 % 4096, bits e.2.toNat 15 0)

/-- Pages of an instance that are mapped. -/
def mappedPages (s : State) (i : Nat) : List Nat :=
  ((leafTables s i).map fun d =>
    (s.mem.leaf.filter fun e => decide (e.1 / 32768 = d.2) && bit e.2.toNat 31).map fun e => 32768 * d.1 + e.1 % 32768).flatten

/-- The leaf tables of an instance return to the pool. -/
def dropLeafTables (i : Nat) (s : State) : State :=
  { s with mem := { s.mem with
      leaf := (leafTables s i).foldl (fun l d => l.clearRange (32768 * d.2) (32768 * d.2 + 32768)) s.mem.leaf,
      dir := s.mem.dir.clearRange (4096 * i) (4096 * i + 4096) } }

/-- A leaf entry that maps a frame (R338). -/
def leafOf (i f : Nat) (wr : Bool) : W32 :=
  BitVec.ofNat 32 (2 ^ 31 + (if wr then 2 ^ 30 else 0) + 2 ^ 20 * i + f)

/-- Whether a frame becomes RETIRED at its release (R347): it has returned an uncorrectable error, or more than 64 corrected errors
within some 24 hours. Their times stand in order. -/
def retires (x : Frame) : Bool :=
  x.ue || (List.range (x.ce.length - 64)).any fun k => decide (x.ce.getD (k + 64) 0 ≤ x.ce.getD k 0 + 86400 * 10 ^ 9)

/-- A frame leaves its owner's quota (R345). -/
def leaveQuota (f : Nat) (s : State) : State :=
  match (s.frame f).owner with
  | none => s
  | some i => (s.setInst i { s.inst i with frames := (s.inst i).frames.erase f }).setFrame f { s.frame f with owner := none }

/-- A frame leaves its owner: RELEASED and queued for the release scrub, or RETIRED (R345, R347). -/
def releaseFrame (f : Nat) (s : State) : State :=
  let s := leaveQuota f s
  let x := s.frame f
  if retires x then
    let s := s.setFrame f { x with st := .retired }
    logEvent 0x0304 (0x10 + dieOfFrame f) 0 f none { s with mem := { s.mem with retired := s.mem.retired + 1 } }
  else
    let s := s.setFrame f { x with st := .released, scrubbing := false }
    { s with mem := { s.mem with releaseQ := s.mem.releaseQ ++ [f] } }

/-- A request of an instance that was translated under the old entry of a page is still on its way (R340, step 3): a stream request
of a frond. Every other access of the model is over within its command. -/
def oldRequest (s : State) (i p : Nat) : Bool :=
  s.fronds.any fun e => e.2.tags.any fun t =>
    decide (t.2.st = .pending) && decide (t.2.space = 0) && decide (t.2.inst = i) && t.2.xl.any fun x => x.1 = p

/-- Clears a leaf entry: the frame leaves the quota, and is released once the steps of R340 have ended (R340, R345). -/
def unmapPage (i p : Nat) (s : State) : State :=
  match leafEntry s i p with
  | none => s
  | some e =>
    let s := setLeaf i p 0 s
    let f := bits e.toNat 19 0
    if !bit e.toNat 31 then s
    else if oldRequest s i p then
      let s := leaveQuota f s
      { s with mem := { s.mem with leaving := s.mem.leaving ++ [{ frame := f, inst := i, page := p }] } }
    else releaseFrame f s

/-- Frames whose last request under the old entry has completed are released (R340, R345). -/
def settleLeaving (s : State) : State :=
  if s.mem.leaving.isEmpty then s
  else
    let gone := s.mem.leaving.filter fun l => !oldRequest s l.inst l.page
    forEach (fun (l : Leaving) s => releaseFrame l.frame s) gone
      { s with mem := { s.mem with leaving := s.mem.leaving.filter fun l => oldRequest s l.inst l.page } }

/-- Every line of a frame is written with zeros and a colour, which also ends poison (R345, R346,
R350); MEM_SCRUB_BYTES counts it. -/
def wipeFrame (f : Nat) (c : BitVec 8) (s : State) : State :=
  let lo := f * pageSize
  let hi := lo + pageSize
  let s := { s with mem := { s.mem with
    bytes := Tbl.clearRange s.mem.bytes lo hi,
    poison := Tbl.clearRange s.mem.poison (lo / 32) (hi / 32),
    cwCol := Tbl.clearRange s.mem.cwCol (lo / 32) (hi / 32),
    scrubBytes := s.mem.scrubBytes + BitVec.ofNat 64 pageSize } }
  s.setFrame f { s.frame f with lines := c }

/-- The lowest of two optional numbers. -/
def minOpt : Option Nat → Option Nat → Option Nat
  | none, b => b
  | a, none => a
  | some a, some b => some (min a b)

/-- The lowest-numbered frame of a die whose record satisfies p. -/
def lowestFrame (s : State) (d : Nat) (p : Frame → Bool) : Option Nat :=
  let lo := d * framesPerDie
  let hi := lo + framesPerDie - (if s.mem.sysUp then sysPerDie else 0)
  let listed := (s.mem.frames.find? fun e => decide (lo ≤ e.1) && decide (e.1 < hi) && p e.2).map (·.1)
  let fresh := if p Frame.reset then
      match firstUnlisted s.mem.frames (s.mem.frames.length + 1) lo with
      | some k => if k < hi then some k else none
      | none => none
    else none
  minOpt listed fresh

/-- The frame an allocation takes on one die, and whether it needs RECOLOUR (R346, forms 1 to 3); a RELEASED one stays so while the
packages are in self-refresh (R353). -/
def frameOnDie (s : State) (i d : Nat) : Option (Nat × Bool) :=
  match lowestFrame s d (fun x => decide (x.st = .free) && decide (x.tbl.toNat = i)) with
  | some f => some (f, false)
  | none =>
    match lowestFrame s d (fun x => decide (x.st = .free)) with
    | some f => some (f, true)
    | none =>
      match lowestFrame s d (fun x => !s.mem.patrolStop && decide (x.st = .released) && !x.scrubbing) with
      | some f => some (f, true)
      | none => none

/-- The frame an allocation takes, with the dies tried from the preferred one (R346). -/
def frameFor (s : State) (i d : Nat) : Option (Nat × Bool) :=
  match frameOnDie s i (d % 4) with
  | some r => some r
  | none =>
    match frameOnDie s i ((d + 1) % 4) with
    | some r => some r
    | none =>
      match frameOnDie s i ((d + 2) % 4) with
      | some r => some r
      | none => frameOnDie s i ((d + 3) % 4)

/-- Whether a release scrub of some frame is running. -/
def scrubRunning (s : State) : Bool := s.mem.frames.any fun e => e.2.scrubbing

/-- Takes a frame for an instance: it counts in the quota and starts RECOLOUR when needed (R346,
R592). -/
def takeFrame (i f : Nat) (recolour : Bool) (s : State) : State :=
  let x := s.frame f
  let s := s.setFrame f { x with
    st := if recolour then .recolour else .owned, tbl := BitVec.ofNat 8 i, owner := some i }
  let s := { s with mem := { s.mem with
    releaseQ := s.mem.releaseQ.erase f, burst := s.mem.burst.erase f } }
  s.setInst i { s.inst i with frames := (s.inst i).frames ++ [f] }

/-- Outcomes of an allocation. -/
inductive AllocRes where
  /-- mapped at once -/
  | done
  /-- waits for RECOLOUR or for a release scrub -/
  | waits
  /-- RESOURCE_EXHAUSTED -/
  | exhausted
  deriving DecidableEq, Repr

/-- First page number of the ranges that the runtime reserves for operator state (R221 leaves them to the runtime). DESIGN CHOICE,
log 148. -/
def statePageBase : Nat := 1572864

/-- The preferred die of an allocation: for a state-region page that of the frond, otherwise the die after the one that received the
instance's previous frame (R346). -/
def prefDie (w : AllocWait) (s : State) : Nat := if w.frond.isSome then w.die else s.mem.nextDie.get 0 w.inst

/-- An allocation receives frame f: its entry is written, or it waits for RECOLOUR; the next one prefers the die after (R346). -/
def giveFrame (w : AllocWait) (f : Nat) (recolour : Bool) (s : State) : State :=
  let s := takeFrame w.inst f recolour s
  let s := if w.frond.isSome then s
    else { s with mem := { s.mem with nextDie := s.mem.nextDie.set 0 w.inst ((dieOfFrame f + 1) % 4) } }
  if recolour then { s with mem := { s.mem with allocs := s.mem.allocs ++ [{ w with frame := some f }] } }
  else setLeaf w.inst w.page (leafOf w.inst f w.wr) s

/-- The quota of an instance is used up. -/
def quotaUsed (s : State) (i : Nat) : Bool := decide ((s.inst i).res.pages ≤ (s.inst i).frames.length)

/-- Allocates a frame for a page of an instance (R346). The quota is the instance's PAGES. -/
def allocPage (w : AllocWait) (s : State) : AllocRes × State :=
  if quotaUsed s w.inst then (.exhausted, s)
  else
    match frameFor s w.inst (prefDie w s) with
    | some (f, re) => (if re then .waits else .done, giveFrame w f re s)
    | none =>
      if scrubRunning s then
        (.waits, { s with mem := { s.mem with allocs := s.mem.allocs ++ [{ w with frame := none }] } })
      else (.exhausted, s)

/-- Sets how many open requests of a frond wait behind the one on its list. -/
def setAsks (f n : Nat) (s : State) : State := { s with eng := { s.eng with digAsks := s.eng.digAsks.set 0 f n } }

/-- Allocations that satisfy p are forgotten, and frames in RECOLOUR for them released. -/
def dropWaits (p : AllocWait → Bool) (s : State) : State :=
  let gone := s.mem.allocs.filter p
  let s := { s with mem := { s.mem with allocs := s.mem.allocs.filter fun w => !p w } }
  forEach (fun (w : AllocWait) s => match w.frame with | some f => releaseFrame f s | none => s) gone s

end Sys2Proof.Machine
end

