-- ==== Sys2Proof/Machine/PowerOps.lean ====
section
/-!
DEFINITION. Power admission (R508 to R512, R516, R517), frond clock ceilings (R501), and the wake
events and idleness of the power states (R431 to R433).
-/

namespace Sys2Proof.Machine

/-- STRICT is the profile in force. -/
def isStrict (s : State) : Bool := decide (s.disp.profile = 3)

/-! ## Admission -/

/-- Units of the grants in force (R509). -/
def granted (s : State) : Nat := (s.pwr.grants.map (·.units)).sum

/-- Units of the grants in force of one owner (R512). -/
def grantedTo (s : State) (o : Option Nat) : Nat :=
  ((s.pwr.grants.filter fun g => g.inst = o).map (·.units)).sum

/-- The sum of the STRICT weights. -/
def strictWeights (s : State) : Nat := (s.insts.map fun e => weightOf s e.1 3).sum

/-- The part of the STRICT budget of an owner: a tenth for the system, the rest by STRICT weight
(R512). Shares are rounded down. DESIGN CHOICE, log 16. -/
def strictPart (s : State) (o : Option Nat) : Nat :=
  let b := s.pwr.cap - 640
  match o with
  | none => b / 10
  | some i => (b - b / 10) * weightOf s i 3 / strictWeights s

/-- Whether a request fits (R509, R512); no discretionary request fits while SAG_WARN or the reduced
mode is in force (R515, R516). -/
def fits (s : State) (g : Grant) : Bool :=
  !(g.discretionary && (s.pwr.sag || s.pwr.reduced)) &&
  (if isStrict s then decide (grantedTo s g.inst + g.units ≤ strictPart s g.inst)
   else decide (s.pwr.baseline + granted s + g.units ≤ s.pwr.cap))

/-- Frond number under which a stage's grant is held until its item starts. -/
def waitingFrond : Nat := 999

/-- What a holder does when its grant is given: a stage's cursor may go on (R294), a paused burst or
job resumes (R517). -/
def onGrant (g : Grant) (s : State) : State :=
  match g.holder with
  | .stage slot pipe f =>
    -- a grant reinstated for an item that runs (f is its frond) touches no cursor
    { s with disp := { s.disp with lists := s.disp.lists.map fun e =>
        (e.1, { e.2 with cursors := e.2.cursors.map fun c =>
          if c.slot = slot ∧ c.pipe = pipe ∧ f = waitingFrond ∧ c.grantWait then
            { c with grantWait := false, granted := true, since := s.time } else c }) } }
  | .scrub =>
    let s := { s with mem := { s.mem with scrubPaused := false } }
    let s := if s.mem.burst.isEmpty then
        { s with mem := { s.mem with burst := s.mem.releaseQ.take 32, releaseQ := s.mem.releaseQ.drop 32 } }
      else s
    match s.mem.burst with
    | [] => s
    | f :: _ => if s.mem.patrolStop then s else s.setFrame f { s.frame f with scrubbing := true }
  | .smu u _ => s.setSmu u { s.smu u with paused := false }
  | .cmu u _ => s.setCmu u { s.cmu u with sagHold := false }
  | .link l => if (s.link l).st = .down then s.setLink l { s.link l with st := .training } else s
  | .other => s

/-! ## Timers (R301, R302) -/

/-- The lowest timer number not in use. -/
def timerId (s : State) : Nat :=
  (firstUnlisted (s.disp.timers.map fun t => (t.id, t)) (s.disp.timers.length + 1) 0).getD 0

/-- Timers that the module itself has set. -/
def reservedTimers (s : State) : Nat := (s.disp.timers.filter fun t => t.owner.isNone).length

/-- A request that waits for its grant takes one of the 2,048 reserved timers, if one is free; the wait ends with the grant, so the
timer never fires (R294, R302; log 151). -/
def setWaitTimer (id : Nat) (s : State) : State :=
  if 2048 ≤ reservedTimers s then s
  else
    let t : Timer := { id := timerId s, owner := none, slot := id, expiry := 2 ^ 64, setAt := s.time }
    { s with disp := { s.disp with timers := s.disp.timers ++ [t] } }

/-- The wait of a request is over: its timer is free. -/
def dropWaitTimer (id : Nat) (s : State) : State :=
  { s with disp := { s.disp with timers := s.disp.timers.filter fun t => !(t.owner.isNone && decide (t.slot = id)) } }

/-- Gives a grant now. -/
def giveGrant (g : Grant) (s : State) : State :=
  let g := { g with given := s.time, first := s.time, expiry := s.time + 1000 * g.us }
  onGrant g (dropWaitTimer g.id { s with pwr := { s.pwr with grants := s.pwr.grants ++ [g] } })

/-- Takes the waiting requests in order; one that does not fit holds back every request behind it, in
STRICT only those of the same owner (R509, R512; log 17). -/
def grantQueue : List Grant → List (Option Nat) → State → State
  | [], _, s => s
  | g :: t, held, s =>
    if held.contains g.inst then grantQueue t held s
    else if fits s g then
      grantQueue t held
        (giveGrant g { s with pwr := { s.pwr with waits := s.pwr.waits.filter (·.id ≠ g.id) } })
    else if isStrict s then grantQueue t (g.inst :: held) s
    else if g.discretionary && (s.pwr.sag || s.pwr.reduced) then grantQueue t held s
    else s

/-- Inserts a grant by the time at which it was first given, behind those of the same time. -/
def insertFirst (g : Grant) : List Grant → List Grant
  | [] => [g]
  | h :: t => if g.first < h.first then g :: h :: t else h :: insertFirst g t

/-- Reinstates revoked grants in the order given, as they fit; one that does not fit holds back those behind it, in
STRICT those of its owner (R509, R512, R517; log 17). -/
def reinstate : List Grant → List (Option Nat) → State → State
  | [], _, s => s
  | g :: t, held, s =>
    if held.contains g.inst then reinstate t held s
    else if fits s g then
      reinstate t held (onGrant g { s with pwr := { s.pwr with
        revoked := s.pwr.revoked.filter (·.id ≠ g.id), grants := s.pwr.grants ++ [{ g with given := s.time }] } })
    else if isStrict s then reinstate t (g.inst :: held) s
    else s

/-- The sag limit of a die rises once every frond-stage grant on it has been reinstated (R517). -/
def raiseSag (d : Nat) (s : State) : State :=
  if s.pwr.revoked.any (fun g => g.die = some d) then s
  else { s with pwr := { s.pwr with sagLim := s.pwr.sagLim.set 24 d 24 } }

/-- The queue is examined: revoked grants first, then the waiting requests (R509, R517). -/
def examineGrants (s : State) : State :=
  let s := if s.pwr.sag || s.pwr.reduced then s
    else forBelow raiseSag 4 (reinstate (s.pwr.revoked.foldl (fun l g => insertFirst g l) []) [] s)
  grantQueue s.pwr.waits [] s

/-- Inserts a request in descending level, then arrival order (R509). -/
def insertWait (g : Grant) : List Grant → List Grant
  | [] => [g]
  | h :: t => if h.level < g.level then g :: h :: t else h :: insertWait g t

/-- A request reaches the admission controller: given at once or queued; PWR_WAITS counts a request
that waits (R509). -/
def requestGrant (units us level : Nat) (inst : Option Nat) (disc : Bool) (die : Option Nat)
    (h : Holder) (s : State) : State :=
  let id := s.pwr.nextGrant
  let g : Grant := { id := id, units := units, us := us, level := level, inst := inst,
                     discretionary := disc, die := die, holder := h, given := s.time, expiry := 0 }
  let s := { s with pwr := { s.pwr with nextGrant := id + 1, waits := insertWait g s.pwr.waits } }
  let s := grantQueue s.pwr.waits [] s
  if s.pwr.waits.any (·.id = id) then
    setWaitTimer id { s with pwr := { s.pwr with waitCnt := s.pwr.waitCnt + 1 } }
  else s

/-- The owner of a grant in force is charged units × µs held (R524). -/
def chargeGrant (g : Grant) (s : State) : State :=
  match g.inst with
  | some i => addCounter i 5 (g.units * ((s.time - g.given) / 1000)) s
  | none => s

/-- A grant ends: it leaves the grants in force or the revoked ones, its owner is charged, and the queue is
examined (R509, R510, R524). -/
def endGrant (id : Nat) (s : State) : State :=
  let s := forEach chargeGrant (s.pwr.grants.filter fun g => g.id = id) s
  examineGrants (dropWaitTimer id { s with pwr := { s.pwr with
    grants := s.pwr.grants.filter (·.id ≠ id), revoked := s.pwr.revoked.filter (·.id ≠ id),
    waits := s.pwr.waits.filter (·.id ≠ id) } })

/-- Ends every grant, revoked grant and request of a holder. -/
def endHolder (h : Holder) (s : State) : State :=
  forEach (fun (g : Grant) s => endGrant g.id s)
    ((s.pwr.grants ++ s.pwr.revoked ++ s.pwr.waits).filter fun g => g.holder = h) s

/-! ## The job in a merge tree (R276, R280, R284) -/

/-- SMU shares of the instances that exist, and the quanta of the STRICT frame: one for each unit of share (R280). -/
def smuShares (s : State) : List (Nat × Nat) := s.insts.map fun e => (e.1, e.2.res.smuShare)

def smuFrame (s : State) : Nat := max 1 ((smuShares s).map (·.2)).sum

/-- The instance that owns the quantum of a unit. -/
def smuOwner (s : State) (u : Nat) : Option Nat := quantumOwner (smuShares s) (smuFrame s) (s.smu u).quantum

/-- A job has its grant; one revoked by a supply warning keeps its place in the tree (R516). -/
def jobGranted (u : Nat) (j : SmuJob) (s : State) : Bool :=
  (s.pwr.grants ++ s.pwr.revoked).any fun g => decide (g.holder = .smu u j.slot)

/-- The SMU share of a job's instance. -/
def jobShare (s : State) (j : SmuJob) : Nat := (s.inst j.inst).res.smuShare

/-- Jobs of a unit that may stand in its tree: those with their grant; in STRICT of the instance that owns the quantum, otherwise
of share 0 only when there is no other (log 149). -/
def mayMerge (s : State) (u : Nat) (j : SmuJob) : Bool :=
  jobGranted u j s &&
  (if (s.smu u).strict then decide (smuOwner s u = some j.inst)
   else decide (jobShare s j ≠ 0) || !((s.smu u).jobs.any fun k => jobGranted u k s && decide (jobShare s k ≠ 0)))

/-- A unit enters the schedule of the profile in force at its next quantum (R280, R449). -/
def enterSmu (u : Nat) (s : State) : State :=
  if (s.smu u).strict = isStrict s then s else s.setSmu u { s.smu u with strict := isStrict s }

/-- The same for a digest unit (R326, R449). -/
def enterDgu (u : Nat) (s : State) : State :=
  if (s.dgu u).strict = isStrict s then s else s.setDgu u { s.dgu u with strict := isStrict s }

/-- The job in the tree: the first that may stand there. -/
def treeJob (s : State) (u : Nat) : Option SmuJob := (s.smu u).jobs.find? (mayMerge s u)

/-- Counts bytes merged and jobs or item passes completed of a unit (R284). -/
def countSmu (u i bytes jobs : Nat) (s : State) : State :=
  let x := s.smu u
  s.setSmu u { x with
    bytesIn := x.bytesIn + BitVec.ofNat 64 bytes, done := x.done + BitVec.ofNat 64 jobs,
    instCnt := (x.instCnt.set 0 (2 * i) (x.instCnt.get 0 (2 * i) + BitVec.ofNat 64 bytes)).set 0 (2 * i + 1)
      (x.instCnt.get 0 (2 * i + 1) + BitVec.ofNat 64 jobs) }

/-- Output of a unit between two of its switching points (R280). -/
def outBlock : Nat := 4096

/-- A merge tree at work: the jobs of the unit, what is left of the share of the one in the tree, and changes of instance. -/
structure TreeAt where
  jobs : List SmuJob
  credit : Nat
  switches : Nat

/-- One output block: the job in the tree merges, until the share of its instance is used up, and then the next one that may stand
in the tree takes its place. A job whose last block this is leaves the tree, and what is left of its share goes with it. -/
def blockStep (may : SmuJob → Bool) (share : SmuJob → Nat) (x : TreeAt) : Option SmuJob × TreeAt :=
  match x.jobs.find? may with
  | none => (none, x)
  | some j =>
    let left := if x.credit = 0 then max 1 (share j) else x.credit
    let rest := x.jobs.erase j
    if j.bytes ≤ j.merged + outBlock then (some j, { x with jobs := rest, credit := 0 })
    else
      let j := { j with merged := j.merged + outBlock }
      if 1 < left then (none, { x with jobs := j :: rest, credit := left - 1 })
      else
        match rest.find? may with
        | none => (none, { x with jobs := j :: rest, credit := 0 })
        | some k => (none, {
            jobs := k :: rest.erase k ++ [j], credit := 0, switches := if k.inst = j.inst then x.switches else x.switches + 1 })

/-- The tree until the first of its jobs ends. -/
def runTree (may : SmuJob → Bool) (share : SmuJob → Nat) : Nat → TreeAt → Option (SmuJob × TreeAt)
  | 0, _ => none
  | fuel + 1, x =>
    match blockStep may share x with
    | (some j, y) => some (j, y)
    | (none, y) => runTree may share fuel y

/-- The tree for a number of output blocks, short of the last one of a job. -/
def passTree (may : SmuJob → Bool) (share : SmuJob → Nat) : Nat → TreeAt → TreeAt
  | 0, x => x
  | n + 1, x =>
    match blockStep may share x with
    | (some _, _) => x
    | (none, y) => passTree may share n y

/-- Blocks that the jobs of a unit have still to put out. -/
def blocksLeft (l : List SmuJob) : Nat := (l.map fun j => (j.bytes - j.merged) / outBlock + 1).sum

/-- Bytes that jobs have merged since an earlier state of the unit count for their instances. -/
def countMerged (u : Nat) (before l : List SmuJob) (s : State) : State :=
  forEach (fun (j : SmuJob) s =>
    match before.find? fun k => decide (k.slot = j.slot) && decide (k.inst = j.inst) with
    | some k => if j.merged = k.merged then s else countSmu u j.inst (j.merged - k.merged) 0 s
    | none => s) l s

/-- The tree of a unit as it stands. -/
def treeAt (x : SmuUnit) : TreeAt := { jobs := x.jobs, credit := x.credit, switches := 0 }

/-- A unit stands where its tree has come to; `also` are jobs that have left it on the way (R284). -/
def putTree (u : Nat) (also : List SmuJob) (y : TreeAt) (s : State) : State :=
  let x := s.smu u
  countMerged u x.jobs (also ++ y.jobs) (s.setSmu u { x with
    jobs := y.jobs, credit := y.credit, switches := x.switches + BitVec.ofNat 64 y.switches })

/-- Time passes for a unit with jobs: it merges a number of blocks that the spec leaves open (R266; log 19). -/
def advanceSmu (u : Nat) (s : State) : State :=
  if (treeJob s u).isNone || (s.smu u).paused then s
  else
    let r := s.freshNat
    putTree u [] (passTree (mayMerge s u) (jobShare s) (r.1 % (blocksLeft (s.smu u).jobs + 1)) (treeAt (s.smu u))) r.2

/-- The power domain that a unit lies in, and its die (R30, R266). -/
def smuDie (u : Nat) : Nat := u / 2

def smuDomain (u : Nat) : Nat := 31 + smuDie u

/-- The jobs of a command leave their units at a 4 KiB output boundary; how much each has merged by then is free (R281, R284;
log 19). -/
def dropJobs (slot u : Nat) (s : State) : State :=
  let l := (s.smu u).jobs.filter fun j => j.slot = slot
  let s := forEach (fun (j : SmuJob) s =>
    if jobGranted u j s then
      let r := s.freshNat
      countSmu u j.inst (r.1 % (j.bytes - j.merged + 1)) 0 r.2
    else s) l s
  if l.isEmpty then s else s.setSmu u { s.smu u with jobs := (s.smu u).jobs.filter fun j => j.slot ≠ slot }

/-! ## Frond clocks (R501) -/

/-- The profile limit in 100 MHz units (R514). -/
def profileLimit (s : State) : Nat := if s.disp.profile = 2 then 16 else 24

/-- The ceiling of a die: the lowest of the profile, thermal, sag and cap limits; no thermal and no cap limit acts
in STRICT (R501, R511, R512, R514, R520). -/
def ceiling (s : State) (d : Nat) : Nat :=
  min (min (profileLimit s) (if isStrict s then 24 else s.pwr.thermLim.get 24 d))
    (min (s.pwr.sagLim.get 24 d) (if isStrict s then 24 else s.pwr.capLim.get 24 d))

/-! ## Power states (R431 to R433) -/

/-- STATE of a domain: 0 ON, 1 CLOCK_STOPPED, 2 RETENTION, 3 OFF (R503). -/
def domState (s : State) (k : Nat) : Nat :=
  let ps := s.pwr.ps.toNat
  if 15 ≤ k ∧ k ≤ 30 then
    (if 2 ≤ ps then 3 else if ps = 1 ∨ s.pwr.parked.get false (k - 15) then 1 else 0)
  else if 31 ≤ k ∧ k ≤ 34 then (if 2 ≤ ps then 3 else 0)
  else if 35 ≤ k ∧ ps = 3 then 2
  else 0

/-- No command holds a slot or waits in a ring, no mailbox command runs, the dispatcher holds no work, and no Rhizome
frame is in transit (R432; log 173). -/
def moduleIdle (s : State) : Bool :=
  s.ring.cmds.all (fun e => e.2.isNone) &&
  s.ring.sqs.all (fun e => e.2.slotRes.isNone && (decide (e.2.st ≠ .active) || decide (e.2.head = e.2.tail))) &&
  s.mbx.all (fun e => decide (e.2.st ≠ .busy)) &&
  s.disp.lists.all (fun e => e.2.cursors.isEmpty) &&
  s.fronds.all (fun e => e.2.item.isNone) &&
  s.lnk.sent.isEmpty && s.lnk.links.all (fun e => e.2.window.isEmpty && e.2.sendQ.isEmpty)

/-- The module works as in PS0: it is in PS0 and enters no other state. -/
def awake (s : State) : Bool := decide (s.pwr.ps = 0) && !s.pwr.entering

/-- What tells that work came: the numbers of the next command accepted and of the next mailbox command. -/
def workMarks (s : State) : Nat × Nat := (s.ring.nextAcc, (s.mbx.map fun e => e.2.goNo + 1).foldl max 0)

/-- The idle timer counts a µs while the module is idle and no work came since the last tick, and restarts at zero otherwise (R432). -/
def idleTick (s : State) : State :=
  let n := if moduleIdle s && decide (s.pwr.idleMark = workMarks s) then s.pwr.idleUs + 1 else 0
  { s with pwr := { s.pwr with idleUs := n, idleMark := workMarks s } }

/-- A wake event (R433), which restarts the idle timer of a module that is not in PS0 (log 173). Before the point of no return an entry is abandoned and the previous state
restored, after it the exit follows the entry; in PS1 to PS3 the exit starts. -/
def wake (s : State) : State :=
  let p := s.pwr
  if p.entering then
    if p.ponr then { s with pwr := { p with wakeAfter := true, idleUs := 0 } }
    else { s with pwr := { p with entering := false, target := 0, destaging := false, idleUs := 0,
                                  exiting := decide (p.ps ≠ 0) } }
  else if p.ps ≠ 0 then { s with pwr := { p with exiting := true, destaging := false, idleUs := 0 } }
  else s

/-- Begins the entry into a power state (R432). -/
def enterPs (t : BitVec 2) (s : State) : State :=
  { s with pwr := { s.pwr with entering := true, target := t, ponr := false, wakeAfter := false,
                               entryAt := s.time, destaging := false } }

/-- Time from the start of an entry to its point of no return, in ns (R431). -/
def ponrAfter (t : BitVec 2) : Nat := if t = 1 then 300 else if t = 2 then 12000 else 150000

end Sys2Proof.Machine
end

