-- ==== Sys2Proof/Machine/CmdOps.lean ====
section
/-!
DEFINITION. Commands in flight: the fields of their descriptors (R361), the commit point (R393 to
R397), the end of a command's work (R305, R76), and the writing of completion entries (R368, R369,
R387, R391, R392, R400).
-/

namespace Sys2Proof.Machine

/-! ## Descriptors (R361, R362, R364) -/

def entOpc (l : Line) : Nat := field (lineWord l 0) 63 56
def entFlag (l : Line) (b : Nat) : Bool := (lineWord l 0).getLsbD b
def entPhase (l : Line) : Bool := entFlag l 55
def entFirst (l : Line) : Bool := entFlag l 54
def entLast (l : Line) : Bool := entFlag l 53

def Cmd.word (c : Cmd) (k : Nat) : W64 := lineWord c.first k

/-- W0 [39:32] and the reserved FLAGS bit are zero, for the opcodes that refuse a nonzero reserved field (R251, R253, R328, R361,
R362, R413, R414). -/
def reservedOk (c : Cmd) : Bool := decide (field (c.word 0) 39 32 = 0) && decide (field (c.word 0) 48 48 = 0)
def Cmd.opc (c : Cmd) : Nat := entOpc c.first
def Cmd.dur (c : Cmd) : Bool := entFlag c.first 52
def Cmd.fence (c : Cmd) : Bool := entFlag c.first 51
/-- IRQ of the FIRST descriptor; an entry without FIRST has no FLAGS but PHASE and LAST (R362, R400). -/
def Cmd.irq (c : Cmd) : Bool := entFirst c.first && entFlag c.first 50
def Cmd.nodedup (c : Cmd) : Bool := entFlag c.first 49
def Cmd.prio (c : Cmd) : Nat := field (c.word 0) 47 40
def Cmd.obj (c : Cmd) : Nat := field (c.word 0) 31 0
def Cmd.tag (c : Cmd) : W64 := c.word 1
def Cmd.addr0 (c : Cmd) : Nat := (c.word 2).toNat
def Cmd.len (c : Cmd) : Nat := (c.word 3).toNat
def Cmd.addr1 (c : Cmd) : Nat := (c.word 4).toNat
def Cmd.param (c : Cmd) (k : Nat) : Nat := (c.word (5 + k)).toNat

/-- Status codes (R370). -/
def stSuccess : Nat := 0x0000
def stDuplicate : Nat := 0x0001
def stTooLate : Nat := 0x0002
def stApplied : Nat := 0x0003
def stBadOpcode : Nat := 0x0101
def stChain : Nat := 0x0102
def stLength : Nat := 0x0103
def stDenied : Nat := 0x0104
def stNoPlan : Nat := 0x0105
def stParam : Nat := 0x0106
def stHost : Nat := 0x0107
def stNotFound : Nat := 0x0108
def stRange : Nat := 0x0109
def stIntegrity : Nat := 0x0201
def stPoisoned : Nat := 0x0202
def stFormat : Nat := 0x0203
def stArith : Nat := 0x0204
def stMedia : Nat := 0x0205
def stExhausted : Nat := 0x0301
def stInternal : Nat := 0x0302
def stEngine : Nat := 0x0303
def stLink : Nat := 0x0304
def stAborted : Nat := 0x0401
def stReset : Nat := 0x0402
def stQdel : Nat := 0x0403
def stDeadline : Nat := 0x0404

/-- RESULT0 of a QUERY that fails without a failing item (R77, R305). -/
def noItemR0 : W64 := 0xFFFF0000FFFFFFFF

/-- The work of the command in a slot. -/
def workOf (s : State) (slot : Nat) : CmdWork := ((s.cmd slot).map fun c => c.work).getD .none

/-- QUERY or QUERY_POINT. -/
def Cmd.isQuery (c : Cmd) : Bool := c.opc == 1 || c.opc == 2

/-- Records that the update engine has applied for a MATCH_UPDATE command (R250). -/
def appliedOf (slot : Nat) (s : State) : Nat :=
  ((s.eng.cmu.map fun e => e.2.upd.map fun u => if u.slot = some slot then u.applied else 0).flatten).sum

/-- RESULT0 of a failure for which the opcode's chapter gives no value: R77 gives it for queries, for
the others it is a free value. DESIGN CHOICE, log 18. -/
def openR0 (c : Cmd) (s : State) : W64 × State :=
  if c.isQuery then (noItemR0, s) else s.freshWord

/-! ## Work in progress -/

/-- Whether a frond runs an item of the command, a tree holds a job of it, the update engine is inside
one of its records, or an NVMe command sent for it is outstanding. -/
def cmdBusy (slot : Nat) (s : State) : Bool :=
  s.fronds.any (fun e => e.2.item.any fun it => it.slot = slot) ||
  s.eng.smu.any (fun e => e.2.jobs.any fun j => j.slot = slot) ||
  s.eng.cmu.any (fun e => e.2.upd.any fun u => u.slot = some slot && u.step ≠ 0) ||
  s.store.nvme.any (fun n => n.slot = some slot)

/-- Removes the cursors of a command from every ready list. -/
def dropCursors (slot : Nat) (s : State) : State :=
  { s with disp := { s.disp with lists := s.disp.lists.map fun e =>
      (e.1, { e.2 with cursors := e.2.cursors.filter fun c => c.slot ≠ slot }) } }

/-! ## Digest contexts (R313, R314, R317, R320, R323) -/

def State.ctx (s : State) (u k : Nat) : Ctx := (s.dgu u).ctxs.get Ctx.free k
def State.setCtx (s : State) (u k : Nat) (x : Ctx) : State :=
  s.setDgu u { s.dgu u with ctxs := (s.dgu u).ctxs.set Ctx.free k x }

/-- Failure details (R320). -/
def dtLength : Nat := 1
def dtMismatch : Nat := 2
def dtCmpFault : Nat := 3
def dtCleared : Nat := 4
def dtBadCfg : Nat := 5
def dtOrder : Nat := 6

/-- A message leaves its lane and the queue for one. -/
def leaveLane (u k : Nat) (s : State) : State :=
  let d := s.dgu u
  s.setDgu u { d with
    lanes := d.lanes.filter fun e => (match e.2 with | some (x, _) => decide (x ≠ k) | none => false),
    waiting := d.waiting.filter (· ≠ k) }

/-- A context without its message: owner and requester stay until CLOSE. -/
def blankCtx (x : Ctx) : Ctx := { Ctx.free with inst := x.inst, slot := x.slot, frond := x.frond }

/-- A message fails with a detail, CMP reading `cmp`: state, partial block, key and output are cleared (R317, R322). -/
def failCtxCmp (u k dt : Nat) (cmp : BitVec 2) (s : State) : State :=
  let x := s.ctx u k
  leaveLane u k (s.setCtx u k { blankCtx x with st := .failed, detail := dt, cmp := cmp })

/-- A message fails without an outcome of its comparison. -/
def failCtx (u k dt : Nat) (s : State) : State := failCtxCmp u k dt 0 s

/-- A context is cleared (R323): its message ends FAILED, DETAIL CLEARED, and DIG_CLEARS counts it. -/
def clearCtx (u k : Nat) (s : State) : State :=
  let s := failCtx u k dtCleared s
  s.setDgu u { s.dgu u with clears := (s.dgu u).clears + 1 }

/-- A unit logs what has made it clear contexts as a module event: it names no instance (R453, R475). R477 has no code of its own
for a trigger that is no alarm (log 152). -/
def logCleared (u : Nat) (s : State) : State :=
  let r := s.freshNat
  logEvent 0x0405 (0x30 + u) 0 (r.1 % 2 ^ 32) none r.2

/-- One context is cleared, and the event logged. -/
def clearLogged (u k : Nat) (s : State) : State := logCleared u (clearCtx u k s)

/-- Does something to every context of a unit that is not FREE and satisfies p. -/
def forCtxs (p : Ctx → Bool) (f : Nat → Nat → State → State) (u : Nat) (s : State) : State :=
  forEach (fun (e : Nat × Ctx) s => if e.2.st ≠ .free ∧ p e.2 then f u e.1 s else s) (s.dgu u).ctxs s

/-- The messages of a command that has ended otherwise than by a reset stop, and their contexts are cleared; the slots stay
with them until CLOSE (R328, R329). -/
def stopDigests (slot : Nat) (s : State) : State :=
  forBelow (forCtxs (fun c => decide (c.slot = some slot) && decide (c.st ≠ .failed)) fun u k s => failCtx u k dtCleared s) 4 s

/-- DIG_STAT of a context (R314). -/
def CtxState.code (x : CtxState) : Nat :=
  match x with | .free => 0 | .opened => 1 | .active => 2 | .done => 3 | .failed => 4
def Ctx.stat (x : Ctx) : Nat := 2 ^ 24 * x.inst + 2 ^ 16 * x.detail + x.st.code

/-- What a read of a context port gives, from the port base on: DIG_STAT, DIG_CMP and DIG_OUT, which is zero unless STATE is DONE;
write-only registers read as zero (R314, R321). -/
def Ctx.port (x : Ctx) : List Byte :=
  zeros 0x10 ++ leBytes x.stat 4 ++ zeros 4 ++ leBytes x.cmp.toNat 4 ++ zeros 0x64 ++
    (if x.st = .done then (x.out ++ zeros 64).take 64 else zeros 64)

/-- A read of a context port by instance `acc`: of another's context it reads zero, and is logged (R313). -/
def ctxPortRead (u k acc off n : Nat) (s : State) : List Byte × State :=
  let x := s.ctx u k
  if x.st ≠ .free ∧ x.inst ≠ acc then (zeros n, logEvent 0x0404 (0x30 + u) acc k none s)
  else (((x.port.drop off) ++ zeros n).take n, s)

/-- Ends every grant, revoked grant and request whose holder satisfies p. -/
def endHolders (p : Holder → Bool) (s : State) : State :=
  forEach (fun (g : Grant) s => endGrant g.id s) ((s.pwr.grants ++ s.pwr.revoked ++ s.pwr.waits).filter fun g => p g.holder) s

/-- A grant that belongs to a command's engine work, or to a stage that has not started. -/
def engineHolder (slot : Nat) (h : Holder) : Bool :=
  match h with
  | .stage k _ f => decide (k = slot) && decide (f = 999)
  | .smu _ k => decide (k = slot)
  | .cmu _ k => decide (k = slot)
  | _ => false

/-- Ends a command's work (R76, R305, R281, R250, R329): no further item or request is made, STOP goes
to the fronds that run its items, its merge jobs, search bursts and digest messages end, and a MATCH_UPDATE stops at
the next record boundary. Engines end at once in the model (log 19). -/
def stopWork (slot status : Nat) (s : State) : State :=
  let s := forBelow (dropJobs slot) 8 (dropCursors slot s)
  let s := { s with
    fronds := s.fronds.map fun e =>
      (e.1, if e.2.item.any (fun it => it.slot = slot) then { e.2 with stopping := some status }
            else if e.2.reserved.any (fun r => r.1 = slot) then { e.2 with reserved := none } else e.2),
    disp := { s.disp with flowQ := s.disp.flowQ.filter (· ≠ slot), tmrQ := s.disp.tmrQ.filter (· ≠ slot) },
    store := { s.store with
      cacheQ := s.store.cacheQ.filter (· ≠ slot), flushes := s.store.flushes.filter (·.1 ≠ slot),
      pubs := s.store.pubs.filter fun p => !(p.hidden && decide (p.slot = some slot)) },
    eng := { s.eng with
      cmu := s.eng.cmu.map fun e => (e.1, { e.2 with
        upd := (e.2.upd.filter fun u => !(u.slot = some slot && u.step = 0)).map fun u =>
          if u.slot = some slot then { u with stop := true } else u }),
      digOpens := s.eng.digOpens.filter (· ≠ slot) } }
  endHolders (engineHolder slot) (if status = stReset then s else stopDigests slot s)

/-! ## The commit point -/

/-- Marks the command's record of the duplicate window: the outcome is fixed (R386). -/
def fixRecord (c : Cmd) (s : State) : State :=
  let q := s.sq c.inst c.sq
  s.setSq c.inst c.sq { q with window := q.window.map fun r =>
    if r.accNo = c.accNo then { r with fixed := true } else r }

/-- An event reaches a command's commit point; the first event fixes the outcome (R393). Anything but
SUCCESS ends the command's work (R396, R305). An aborted MATCH_UPDATE gives the records applied (R250). -/
def presentOutcome (slot st : Nat) (r0 : W64) (s : State) : State :=
  match s.cmd slot with
  | none => s
  | some c =>
    if c.outcome.isSome then s
    else
      let r0 := if st = stAborted ∧ c.opc = 0x30 then BitVec.ofNat 64 (appliedOf slot s) else r0
      let s := fixRecord c (s.setCmd slot (some { c with outcome := some st, r0 := r0 }))
      if st = stSuccess then s else stopWork slot st s

/-- END with a failure for which no item is named. -/
def failCmd (slot st : Nat) (s : State) : State :=
  match s.cmd slot with
  | none => s
  | some c =>
    let r := openR0 c s
    presentOutcome slot st r.1 r.2

/-- END with SUCCESS. -/
def succeed (slot : Nat) (r0 : W64) (s : State) : State := presentOutcome slot stSuccess r0 s

/-- FENCE: fixes ABORTED_RESET of an accepted command with the RESULT0 of R455, and changes a fixed outcome while step 3 of R74
has not begun (R393, R397, R455). Duplicates take their original's status (R388). -/
def presentFence (slot : Nat) (s : State) : State :=
  match s.cmd slot with
  | none => s
  | some c =>
    if c.dupOf.isSome || c.step3 || (!c.accepted && decide (slot < nSlots)) then s
    else
      let s := fixRecord c (s.setCmd slot (some { c with outcome := some stReset, r0 := noItemR0, r1 := c.r1 &&& 3 }))
      stopWork slot stReset s

/-- END with SUCCESS of a command whose step 3 is done with it: a publication (R74, R397). -/
def succeedDone (slot : Nat) (r0 : W64) (s : State) : State :=
  if (s.cmd slot).any fun c => c.outcome.isNone then (succeed slot r0 s).modCmd slot fun c => { c with step3 := true } else s

/-- Records the first failure of a command (R76): no further item is made or started, the others are
told to stop; the outcome is fixed when the last has ended. -/
def recordFailure (slot st : Nat) (r0 : W64) (s : State) : State :=
  match s.cmd slot with
  | none => s
  | some c =>
    if c.outcome.isSome || c.failure.isSome then s
    else stopWork slot st (s.setCmd slot (some { c with failure := some (st, r0) }))

/-- END of a command whose recorded failure stands and whose last item and job have ended (R76). -/
def endIfFailed (slot : Nat) (s : State) : State :=
  match s.cmd slot with
  | none => s
  | some c =>
    match c.failure with
    | some (st, r0) => if cmdBusy slot s then s else presentOutcome slot st r0 s
    | none => s

/-! ## Rings (R371) -/

def ringSize (n : Nat) : Nat := 2 ^ n
def ringMask (n : Nat) : Nat := 2 ^ (n + 1)
def ringSlot (n i : Nat) : Nat := i % 2 ^ n
def ringWrap (n i : Nat) : Bool := i.testBit n
def ringUsed (n t h : Nat) : Nat := (t + 2 ^ (n + 1) - h % 2 ^ (n + 1)) % 2 ^ (n + 1)
def ringNext (n i : Nat) : Nat := (i + 1) % 2 ^ (n + 1)

/-! ## Completion entries -/

/-- Packs a completion entry (R368). -/
def entryWords (c : Cmd) (st : Nat) (ph : Bool) (head : Nat) : List Byte :=
  leBytes c.tag.toNat 8 ++
  leBytes ((if ph then 2 ^ 63 else 0) + 2 ^ 32 * st + 2 ^ 16 * c.orig + c.sq) 8 ++
  leBytes c.r0.toNat 8 ++
  leBytes (2 ^ 32 * head + c.r1.toNat) 8

/-- Sends the interrupt of a CQ when R400 allows: AGG_COUNT reached, or AGG_TIME 0. -/
def signalCq (i n : Nat) (force : Bool) (s : State) : State :=
  let q := s.cq i n
  if q.ien && decide (0 < q.sigCount) && (force || decide (q.aggCount ≤ q.sigCount) || decide (q.aggTime = 0))
  then hostSend q.port (.msix q.port i q.vector) (s.setCq i n { q with sigCount := 0, sigFirst := 0 })
  else s

/-- A CQ can take an entry now: ACTIVE, not full, its port in L0 (R369, R391, R392). -/
def cqReady (i n : Nat) (s : State) : Bool :=
  let q := s.cq i n
  decide (q.st = .active) && decide (ringUsed q.log2 q.tail.toNat q.head.toNat < ringSize q.log2) &&
    (s.hostPort q.port).up

/-! ## Plans that are no longer bound (R51, R52, R242) -/

/-- A query accepted while this very binding was in force still holds its slot: two images of one ID never share an
acceptance number. -/
def planInUse (s : State) (i : Nat) (p : PlanEnt) : Bool :=
  s.ring.cmds.any fun e => e.2.any fun c => decide (c.inst = i) && decide (p.boundFrom ≤ c.accNo) && decide (c.accNo < p.goneAt) &&
    (match c.work with
     | .query q => decide (q.planId = p.id) && decide (q.bound = p.boundFrom)
     | _ => false)

/-- Removes the last image-table entry that satisfies p: the oldest, since new ones stand first. -/
def dropLastImage (p : ImgEnt → Bool) (l : List ImgEnt) : List ImgEnt := (l.reverse.eraseP p).reverse

/-- Whether an image-table entry is image k of a plan. -/
def isImage (i : Nat) (p : PlanEnt) (k : Nat) (m : ImgEnt) : Bool :=
  decide (m.inst = i) && decide (m.planId = p.id) && decide (m.uid = p.plan.uid) && decide (m.idx = k) &&
  decide (m.bound = if p.ready then some p.boundFrom else none)

/-- The image table without one set of the plan's images. -/
def withoutImages (i : Nat) (p : PlanEnt) (l : List ImgEnt) : List ImgEnt :=
  (List.range p.plan.autos.length).foldl (fun l k => dropLastImage (isImage i p k) l) l

/-- The automaton states and image-table entries of a plan are released in every unit (R242). -/
def dropImages (i : Nat) (p : PlanEnt) (s : State) : State :=
  forBelow (fun u s => s.setCmu u { s.cmu u with images := withoutImages i p (s.cmu u).images }) 4 s

/-- Releases what an unbound plan holds, once its last command has completed. -/
def reapPlans (i : Nat) (s : State) : State :=
  let dead := (s.inst i).plans.filter fun p => p.gone && !planInUse s i p
  let s := s.setInst i { s.inst i with plans := (s.inst i).plans.filter fun p => !(p.gone && !planInUse s i p) }
  forEach (fun (p : PlanEnt) s => dropImages i p (forEach (unmapPage i) p.pages s)) dead s

/-- Unbinds a plan ID at once; its pin ends (R52, R54). -/
def unbindPlan (i id : Nat) (s : State) : State :=
  s.setInst i { s.inst i with plans := (s.inst i).plans.map fun p =>
    if p.id = id ∧ p.ready ∧ !p.gone then { p with gone := true, pinned := false, goneAt := s.ring.nextAcc } else p }

/-- A command leaves its slot (R389): its timer, flow IDs and state pages are released, fences that waited for it go
on, and an unbound plan that it used last is released (R51, R153, R300, R302, R385). -/
def retireCmd (slot : Nat) (s : State) : State :=
  match s.cmd slot with
  | none => s
  | some c =>
    let flows := match c.work with | .query q => q.flows | _ => 0
    let s := s.setCmd slot none
    let s := forEach (unmapPage c.inst) c.pages s
    let s := reapPlans c.inst s
    { s with
      disp := { s.disp with
        timers := s.disp.timers.filter fun t => !(t.owner = some c.inst && t.slot = slot),
        flowUsed := s.disp.flowUsed.set 0 c.inst (s.disp.flowUsed.get 0 c.inst - flows) },
      ring := { s.ring with cmds := s.ring.cmds.map fun e =>
        (e.1, e.2.map fun x => if x.inst = c.inst then { x with fenceOn := x.fenceOn.erase c.accNo } else x) } }

/-! ## Back-pressure (R390, R392) -/

/-- Counts in the module's and the instance's ring counters. -/
def countRing (i : Nat) (f : RingCnt → RingCnt) (s : State) : State :=
  { s with ring := { s.ring with
      cnt := f s.ring.cnt,
      instCnt := s.ring.instCnt.set RingCnt.zero i (f (s.ring.instCnt.get RingCnt.zero i)) } }

/-- Sets the stall bits of RING_SQ_STATE; HAW_SLOT_STALLS counts each change into STALLED (R390). -/
def setStall (i n : Nat) (o k c : Bool) (s : State) : State :=
  let q := s.sq i n
  let was := q.stOutlim || q.stQuota || q.stCq
  let s := s.setSq i n { q with stOutlim := o, stQuota := k, stCq := c }
  if !was && (o || k || c) then countRing i (fun r => { r with slotStalls := r.slotStalls + 1 }) s else s

/-- SQs of an instance that map to a CQ. -/
def sqsOf (s : State) (i n : Nat) : List Nat :=
  (s.ring.sqs.filter fun e => decide (keyInst e.1 = i) && decide (e.2.st ≠ .disabled) && decide (e.2.cq = n)).map fun e => keyNum e.1

/-- ST_CQ of every SQ that maps to a CQ: whether entries of the CQ wait (R392). -/
def markCq (i n : Nat) (b : Bool) (s : State) : State :=
  forEach (fun k s => setStall i k (s.sq i k).stOutlim (s.sq i k).stQuota b s) (sqsOf s i n) s

/-- Host writes of a command still wait for the port of its SQ. -/
def writesWait (s : State) (c : Cmd) : Bool := (s.hostPort (s.sq c.inst c.sq).port).owners.contains (c.inst, c.accNo)

/-- Writes the completion entry of the command in a slot to its CQ, which is ready, and retires the
command (R369, R386, R391). -/
def writeEntryNow (slot n : Nat) (s : State) : State :=
  match s.cmd slot with
  | none => s
  | some c =>
    let i := c.inst
    let q := s.cq i n
    let st := c.outcome.getD 0
    let sqr := s.sq i c.sq
    let ph := ringWrap q.log2 q.tail.toNat
    let d := entryWords c st ph sqr.head.toNat
    let s := hostWrite q.port i (q.base + 32 * ringSlot q.log2 q.tail.toNat) d s
    let sig := q.ien && c.irq
    let s := s.setCq i n { q with
      tail := BitVec.ofNat 32 (ringNext q.log2 q.tail.toNat),
      sigCount := if sig then q.sigCount + 1 else q.sigCount,
      sigFirst := if sig && decide (q.sigCount = 0) then s.time else q.sigFirst }
    let s := s.setSq i c.sq { sqr with window := sqr.window.map fun r =>
      if r.accNo = c.accNo then { r with fixed := true, written := some (st, c.r0, c.r1) } else r }
    let s := addCounter i 6 1 (addCounter i 3 32 s)
    let s := { s with store := { s.store with pubs := s.store.pubs.map fun p =>
      if p.accNo = c.accNo then { p with doneAcc := some s.ring.nextAcc } else p } }
    signalCq i n false (retireCmd slot s)

/-- Places in the completion buffer that entries of an instance take, or of the whole module. -/
def bufUsed (s : State) (p : Nat → Bool) : Nat :=
  ((s.ring.cqs.filter fun e => p (keyInst e.1)).map fun e => e.2.buf.length).sum

/-- Whether the completion buffer has a place for the CQ (R392). -/
def bufRoom (i n : Nat) (s : State) : Bool :=
  decide ((s.cq i n).buf.length < 64) && (s.cq i n).held.isEmpty &&
  (if isStrict s then decide (bufUsed s (· = i) < 16) else decide (bufUsed s (fun _ => true) < 4096))

/-- A committed entry that cannot be written waits: in the completion buffer, or in its slot. CQ_FULL
is raised when the CQ first holds one, and its SQs show ST_CQ (R392). -/
def holdEntry (slot i n : Nat) (s : State) : State :=
  let q := s.cq i n
  let s := if bufRoom i n s then s.setCq i n { q with buf := q.buf ++ [slot], fullRaised := true }
           else s.setCq i n { q with held := q.held ++ [slot], fullRaised := true }
  let s := markCq i n true (s.modCmd slot fun c => { c with phase := .entryWait })
  if q.fullRaised then s else logEvent 0x0103 0x03 i n none (hawEvent i 1 s)

/-- The entry of a command can be written now: its CQ is ready, and every write of its results has left (R74 step 4, R391). -/
def entryReady (c : Cmd) (n : Nat) (s : State) : Bool := cqReady c.inst n s && !writesWait s c

/-- The entry of a command whose outcome stands is due: written at once, or held behind earlier ones
(R391, R392). A command ended by a function-level reset gets none (R454). -/
def placeOne (slot : Nat) (s : State) : State :=
  match s.cmd slot with
  | none => s
  | some c =>
    if c.silent then retireCmd slot s
    else
      let n := (s.sq c.inst c.sq).cq
      let q := s.cq c.inst n
      if entryReady c n s && q.buf.isEmpty && q.held.isEmpty then writeEntryNow slot n s
      else holdEntry slot c.inst n s

/-- The outcome of a duplicate from its original's entry (R387, R388): SUCCESS_DUPLICATE with the
original's results, or the abort status that ended the original. -/
def dupOutcome (st : Nat) (r0 : W64) (r1 : W32) (c : Cmd) : Cmd :=
  { c with outcome := some (if st = stReset ∨ st = stQdel then st else stDuplicate), orig := st, r0 := r0,
           r1 := r1 ||| 1 }

/-- The entry of a command has been written, or never will be: those of the duplicates that waited for it are due, in acceptance
order (R387, R391). -/
def placeDups (c : Cmd) (s : State) : State :=
  let dups := (sortOn (fun e => (e.2.map (·.accNo)).getD 0)
    (s.ring.cmds.filter fun e => e.2.any fun x => decide (x.dupOf = some c.accNo) && decide (x.phase = .dupWait))).map (·.1)
  forEach (fun k s => placeOne k (s.modCmd k (dupOutcome (c.outcome.getD 0) c.r0 c.r1))) dups s

/-- The entry of a command is due; once it has left its slot, its duplicates follow (R35, R387). -/
def completeCmd (slot : Nat) (s : State) : State :=
  match s.cmd slot with
  | none => s
  | some c =>
    let s := placeOne slot s
    if (s.cmd slot).any fun x => x.accNo = c.accNo then s else placeDups c s

/-- Writes an entry that has waited, and places those of its duplicates. -/
def writeHeld (slot n : Nat) (s : State) : State :=
  match s.cmd slot with
  | none => s
  | some c => placeDups c (writeEntryNow slot n s)

/-- Writes waiting entries in order while the CQ can take them: the buffer's first, then those in
slots (R391, R392). When nothing waits any more, CQ_FULL may be raised again and ST_CQ is clear. -/
def drainCq (i n : Nat) : Nat → State → State
  | 0, s => s
  | fuel + 1, s =>
    let q := s.cq i n
    let ready := fun (k : Nat) => (s.cmd k).all fun c => entryReady c n s
    match q.buf, q.held with
    | k :: t, h => if ready k then drainCq i n fuel (writeHeld k n (s.setCq i n { q with buf := t, held := h })) else s
    | [], k :: t => if ready k then drainCq i n fuel (writeHeld k n (s.setCq i n { q with held := t })) else s
    | [], [] => markCq i n false (s.setCq i n { q with fullRaised := false })

/-- Entries of the CQ of an SQ wait, so nothing of that SQ is fetched or dispatched (R392). -/
def cqHolds (i n : Nat) (s : State) : Bool := !(s.cq i n).buf.isEmpty || !(s.cq i n).held.isEmpty

/-- The same for the CQ that a command's SQ maps to. -/
def cmdHeldByCq (c : Cmd) (s : State) : Bool := !c.silent && cqHolds c.inst (s.sq c.inst c.sq).cq s

end Sys2Proof.Machine
end

