-- ==== Sys2Proof/Machine/Rings.lean ====
section
/-!
DEFINITION. Submission and completion rings (R357 to R401): tail, spore and head writes, fetching,
framing and acceptance, duplicates, ABORT, NOP, interrupts, deadlines' timers (R301 to R304).
-/

namespace Sys2Proof.Machine

/-! ## Queue errors -/

/-- An SQ goes to ERROR with a cause and an event is raised (R372, R377). -/
def sqError (i n cause : Nat) (s : State) : State :=
  let s := s.setSq i n { s.sq i n with st := .error, cause := cause }
  let s := countRing i (fun c => { c with qerrors := c.qerrors + 1 }) s
  logEvent 0x0101 0x03 i (2 ^ 24 * cause + n) none (hawEvent i 2 s)

/-- A CQ goes to ERROR with cause HEAD_BAD and an event is raised (R373). -/
def cqError (i n : Nat) (s : State) : State :=
  let s := s.setCq i n { s.cq i n with st := .error, cause := 1 }
  let s := countRing i (fun c => { c with qerrors := c.qerrors + 1 }) s
  logEvent 0x0102 0x03 i n none (hawEvent i 2 s)

/-! ## Timers of deadlines (R301 to R303) -/

/-- Timers that an instance has set. -/
def timersOf (s : State) (i : Nat) : Nat := (s.disp.timers.filter fun t => t.owner = some i).length

/-- Whether a timer of the instance is free: 7 for each ready list of its quota (R302). -/
def timerFree (s : State) (i : Nat) : Bool := decide (timersOf s i < 7 * (s.inst i).res.lists)

/-- A command takes a timer of its instance for its deadline. -/
def setDeadline (slot i d : Nat) (s : State) : State :=
  let id := timerId s
  let t : Timer := { id := id, owner := some i, slot := slot, expiry := d, setAt := s.time }
  { s with disp := { s.disp with timers := s.disp.timers ++ [t] } }

/-- The deadline has passed: presented at the commit point and counted when it fixes the outcome
(R303, R304). -/
def expireDeadline (slot : Nat) (s : State) : State :=
  match s.cmd slot with
  | none => s
  | some c =>
    if c.outcome.isSome then s
    else presentOutcome slot stDeadline noItemR0
      { s with disp := { s.disp with deadlines := s.disp.deadlines + 1 } }

/-! ## Framing and acceptance -/

/-- The opcodes of R363. -/
def opcodes : List Nat := [0, 1, 2, 0x10, 0x11, 0x12, 0x13, 0x14, 0x15, 0x20, 0x21, 0x30, 0x31, 0x3F]

/-- The opcodes that admit continuation entries (R363). -/
def chainOpcodes : List Nat := [1, 0x10, 0x11, 0x12, 0x20, 0x21]

/-- The segment pairs of a continuation entry; pairs after a zero length are not read (R364). -/
def segPairs (l : Line) : List (W64 × W64) :=
  let p1 := (lineWord l 2, lineWord l 3)
  let p2 := (lineWord l 4, lineWord l 5)
  let p3 := (lineWord l 6, lineWord l 7)
  if p1.2 = 0 then []
  else if p2.2 = 0 then [p1]
  else if p3.2 = 0 then [p1, p2]
  else [p1, p2, p3]

/-- R365: whether the framed entries are malformed. `ended` says that the command has its LAST entry. -/
def malformed (fr : Framing) (ended : Bool) : Bool :=
  fr.orphan || !ended || decide (256 < fr.count) ||
  fr.conts.any (fun l => decide (entOpc l ≠ entOpc fr.first) ||
    decide (lineWord l 1 ≠ lineWord fr.first 1) || decide (lineWord l 3 = 0)) ||
  (!chainOpcodes.contains (entOpc fr.first) && decide (fr.count ≠ 1))

/-- The bytes that the FIRST entry itself names in a chain (R367). -/
def firstNames (l : Line) : Nat :=
  if entOpc l = 1 then field (lineWord l 5) 12 0
  else if entOpc l = 0x20 ∨ entOpc l = 0x21 then 0
  else field (lineWord l 5) 31 0

/-- The first failing check of step 2 of R383, in its order. -/
def acceptCheck (fr : Framing) (ended : Bool) : Option Nat :=
  if malformed fr ended then some stChain
  else if !opcodes.contains (entOpc fr.first) then some stBadOpcode
  else if 7 < field (lineWord fr.first 0) 47 40 then some stParam
  else if 1 < fr.count ∧
      (lineWord fr.first 3).toNat ≠
        firstNames fr.first + ((fr.conts.map segPairs).flatten.map fun p => p.2.toNat).sum then
    some stLength
  else none

/-- The plan that a QUERY or QUERY_POINT names when it is accepted (R23, R51 to R53). -/
def boundEnt (s : State) (i id : Nat) : Option PlanEnt :=
  (s.inst i).plans.find? fun p => decide (p.id = id) && p.ready && !p.gone

/-- The plan itself. -/
def boundPlan (s : State) (i id : Nat) : Option Plan := (boundEnt s i id).map (·.plan)

/-- The work of a command at its acceptance: a query holds the plan that its ID is bound to. -/
def initialWork (s : State) (i : Nat) (l : Line) : CmdWork :=
  if entOpc l = 1 ∨ entOpc l = 2 then
    match boundEnt s i (field (lineWord l 0) 31 0) with
    | some p => .query {
        planId := field (lineWord l 0) 31 0, plan := p.plan, pb := [], inputs := [], outs := [], pipes := [], flows := 0,
        flowQ := [], dirDone := false, xid := 0, bound := p.boundFrom }
    | none => .none
  else .none

/-- A command as its acceptance makes it (R383). -/
def newCmd (i n : Nat) (fr : Framing) (s : State) : Cmd :=
  { inst := i, sq := n, first := fr.first, segs := (fr.conts.map segPairs).flatten, accNo := s.ring.nextAcc,
    accepted := true, accTime := s.time, dupOf := none, phase := .handed, work := initialWork s i fr.first,
    outcome := none, orig := 0, failure := none, r0 := 0, r1 := 0, step3 := false, deadline := none,
    timer := none, fenceOn := [], silent := false, pages := [] }

/-- Accepted commands of an instance that hold a slot: what a FENCE waits for (R385). -/
def accNosOf (s : State) (i : Nat) : List Nat :=
  s.ring.cmds.filterMap fun e =>
    match e.2 with
    | some c => if c.inst = i ∧ c.accepted then some c.accNo else none
    | none => none

/-- The deadline of an accepted QUERY: a timer, or a wait for one (R303). -/
def armDeadline (slot i us : Nat) (s : State) : State :=
  if us = 0 then s
  else
    let d := s.time + 1000 * us
    let s := s.modCmd slot fun c => { c with deadline := some d }
    if timerFree s i && !(s.disp.tmrQ.any fun k => (s.cmd k).any fun x => x.inst = i) then setDeadline slot i d s
    else
      let s := s.modCmd slot fun c => { c with phase := .timerWait }
      { s with disp := { s.disp with tmrQ := s.disp.tmrQ ++ [slot], tmrWaits := s.disp.tmrWaits + 1 } }

/-- The sequence of R383 for a framed command of SQ n of instance i. -/
def acceptCmd (i n : Nat) (fr : Framing) (ended : Bool) (s : State) : State :=
  let q := s.sq i n
  let s := s.setSq i n { q with framing := none, slotRes := none, stChain := false }
  let c := newCmd i n fr s
  let s := { s with ring := { s.ring with nextAcc := s.ring.nextAcc + 1 } }
  match acceptCheck fr ended with
  | some st => failCmd fr.slot st (s.setCmd fr.slot (some { c with accepted := false }))
  | none =>
    let s := countRing i (fun k => { k with accepted := k.accepted + 1 }) s
    let dedup := decide (c.tag ≠ 0) && !c.nodedup
    let hit := if dedup then q.window.find? fun r => r.tag = c.tag else none
    match hit with
    | some r =>
      let s := countRing i (fun k => { k with dupHits := k.dupHits + 1 }) s
      let c := { c with dupOf := some r.accNo, phase := .dupWait, work := .none }
      let s := s.setCmd fr.slot (some c)
      match r.written with
      | some w => placeOne fr.slot (s.modCmd fr.slot (dupOutcome w.1 w.2.1 w.2.2))
      | none => s
    | none =>
      let q := s.sq i n
      let rec_ : DupRec := { tag := c.tag, accNo := c.accNo, fixed := false, written := none, abort := decide (c.opc = 0x3F) }
      let s := if dedup then s.setSq i n { q with window := (rec_ :: q.window).take 256 } else s
      let fo := if c.fence ∧ c.opc ≠ 0x3F then accNosOf s i else []
      let s := s.setCmd fr.slot (some { c with fenceOn := fo })
      if c.opc = 1 then armDeadline fr.slot i (bits (c.param 2) 31 0) s else s

/-! ## Consuming entries -/

/-- The contents held for an index: spore contents first, else a copy whose PHASE matches (R375,
R379). The flag says that they came from a spore write. -/
def heldEntry (q : Sq) (idx : Nat) : Option (Line × Bool) :=
  match q.spores.find? fun e => e.1 = idx with
  | some e => some (e.2, true)
  | none =>
    match q.copies.find? fun e => decide (e.1 = idx) && (entPhase e.2 == ringWrap q.log2 idx) with
    | some e => some (e.2, false)
    | none => none

/-- A consumed spore entry is compared with its slot: at once with a copy whose PHASE matches, else by
a read after acceptance (R380). -/
def sporeMismatch (i n : Nat) (s : State) : State :=
  logEvent 0x0104 0x03 i n none (countRing i (fun k => { k with sporeMismatch := k.sporeMismatch + 1 }) s)

/-! ## Reads of entries (R374 to R376) -/

/-- Issues the read of an entry, one aligned 64-byte line at BASE + 64 × slot, unless its contents are held or on their way
(R376, R440). -/
def issueRead (i n idx : Nat) (s : State) : State :=
  let q := s.sq i n
  if q.reads.contains idx ∨ q.phaseOn.contains idx ∨ q.spores.any (fun e => e.1 = idx) ∨ q.copies.any (fun e => e.1 = idx) then s
  else
    hostSend q.port (.read q.port i (q.base + 64 * ringSlot q.log2 idx) 64)
      (s.setSq i n { q with reads := q.reads ++ [idx] })

/-- An index lies at or above the tail, at most 8 ahead of it and below head + size (R375). -/
def prefetchable (q : Sq) (idx : Nat) : Bool :=
  q.prefetching && decide (ringUsed q.log2 idx q.tail.toNat < 8) &&
    decide (ringUsed q.log2 idx q.head.toNat < ringSize q.log2)

/-- An index lies between head and tail: the tail covers it and it has not been consumed. -/
def covered (q : Sq) (idx : Nat) : Bool :=
  decide (ringUsed q.log2 idx q.head.toNat < ringUsed q.log2 q.tail.toNat q.head.toNat)

/-- While a command is being fetched, the entries that the tail covers are read, at most 256 from the head on: what one command
can have (R364, R374; log 164). -/
def readAhead (i n : Nat) (s : State) : State :=
  let q := s.sq i n
  if q.slotRes.isNone ∨ q.st ≠ .active then s
  else
    forEach (issueRead i n) ((List.range (min 256 (ringUsed q.log2 q.tail.toNat q.head.toNat))).map fun k =>
      (q.head.toNat + k) % ringMask q.log2) s

/-- With PREFETCH set, up to 8 entries beyond a tail are read (R375; log 164). -/
def readBeyond (i n : Nat) (s : State) : State :=
  let q := s.sq i n
  forEach (issueRead i n) (((List.range 8).map fun k => (q.tail.toNat + k) % ringMask q.log2).filter (prefetchable q)) s

/-- Consumes the entry at the head: RING_SQ_HEAD passes it (R374), and a spore entry's comparison is
made or left to do (R380). -/
def consumeHead (i n : Nat) (l : Line) (spore : Bool) (s : State) : State :=
  let q := s.sq i n
  let idx := q.head.toNat
  let copy := q.copies.find? fun e => decide (e.1 = idx) && (entPhase e.2 == ringWrap q.log2 idx)
  let q' := { q with
    head := BitVec.ofNat 32 (ringNext q.log2 idx), spores := q.spores.filter (·.1 ≠ idx),
    copies := q.copies.filter (·.1 ≠ idx),
    compares := if spore && copy.isNone then q.compares ++ [(idx, l)] else q.compares }
  let s := s.setSq i n q'
  match spore, copy with
  | true, some e => if e.2 = l then s else sporeMismatch i n s
  | _, _ => s

/-- Adds a continuation entry to a command being framed; entries past the 256th are not kept (R365). -/
def addCont (fr : Framing) (l : Line) : Framing :=
  { fr with count := fr.count + 1, conts := if fr.count < 256 then fr.conts ++ [l] else fr.conts }

/-- The ring engine consumes entries that the tail covers and that it holds, in index order, until
the command is framed, an entry is missing, or the CQ holds entries back (R365, R366, R374, R392). -/
def fetchLoop (i n : Nat) : Nat → State → State
  | 0, s => s
  | fuel + 1, s =>
    let q := s.sq i n
    match q.slotRes with
    | none => s
    | some slot =>
      if q.st ≠ .active ∨ q.head = q.tail ∨ cqHolds i q.cq s then
        if q.framing.isSome ∧ q.head = q.tail ∧ q.st = .active then s.setSq i n { q with stChain := true } else s
      else
        match heldEntry q q.head.toNat with
        | none => s
        | some (l, sp) =>
          match q.framing with
          | none =>
            let s := consumeHead i n l sp s
            let fr : Framing := { slot := slot, first := l, conts := [], count := 1, orphan := !entFirst l }
            if !entFirst l || entLast l then acceptCmd i n fr true s
            else fetchLoop i n fuel (s.setSq i n { s.sq i n with framing := some fr })
          | some fr =>
            if entFirst l then acceptCmd i n fr false s
            else
              let s := consumeHead i n l sp s
              let fr := addCont fr l
              if entLast l then acceptCmd i n fr true s
              else fetchLoop i n fuel (s.setSq i n { s.sq i n with framing := some fr, stChain := false })

/-- Runs the fetch of an SQ over all entries that it holds, and has those read that it still needs. -/
def fetchRun (i n : Nat) (s : State) : State :=
  let q := s.sq i n
  readAhead i n (fetchLoop i n (ringUsed q.log2 q.tail.toNat q.head.toNat + 1) s)

/-! ## Tail, spore and head writes -/

/-- Outcomes of the check of R372. -/
inductive TailCheck where
  | accepted | overrun | back
  deriving DecidableEq, Repr

/-- The check of R372 on a new tail. -/
def checkTail (q : Sq) (t : Nat) : TailCheck :=
  if ringSize q.log2 < ringUsed q.log2 t q.head.toNat then .overrun
  else if ringUsed q.log2 t q.head.toNat < ringUsed q.log2 q.tail.toNat q.head.toNat then .back
  else .accepted

/-- A copy that a tail covers and whose PHASE does not match (R375). -/
def badCopy (q : Sq) (t : Nat) (e : Nat × Line) : Bool :=
  decide (ringUsed q.log2 e.1 q.head.toNat < ringUsed q.log2 t q.head.toNat) && (entPhase e.2 != ringWrap q.log2 e.1)

/-- An accepted tail: copies that it covers and whose PHASE does not match are discarded, and a wait
on a PHASE ends (R375). -/
def moveTail (q : Sq) (t : Nat) : Sq :=
  { q with
    tail := BitVec.ofNat 32 t, stPhase := false, phaseOn := [], copies := q.copies.filter fun e => !badCopy q t e }

/-- After an accepted tail, where SQ q stood before: what has been discarded and what waited on a PHASE is read again at once,
entries beyond the tail are prefetched, and the fetch goes on (R375). -/
def afterTail (i n : Nat) (q : Sq) (t : Nat) (s : State) : State :=
  fetchRun i n (readBeyond i n (forEach (issueRead i n) ((q.copies.filter (badCopy q t)).map (·.1) ++ q.phaseOn) s))

/-- Tail, spore and head writes of an instance are discarded: it does not exist, or a reset runs (R438, R455). -/
def ringClosed (s : State) (i : Nat) : Bool :=
  decide ((s.inst i).st = .absent) || decide ((s.inst i).st = .resetting) || decide ((s.inst i).st = .destroying)

/-- RING_SQ_TAIL_WRITE (R372, R382, R28). -/
def execRingSqTailWrite (inst sq : Nat) (val : W32) (s : State) : Host.Outcome State Fault Refusal :=
  if (s.inst inst).res.sqs ≤ sq ∨ ringClosed s inst then .next s
  else
    let s := wake s
    let q := s.sq inst sq
    match q.st with
    | .disabled => .next (badAccess inst (0x100000 + 128 * sq) s)
    | .error => .next s
    | .draining => .next s
    | .active =>
      let t := val.toNat % ringMask q.log2
      match checkTail q t with
      | .overrun => .next (sqError inst sq 1 s)
      | .back => .next (sqError inst sq 2 s)
      | .accepted => .next (afterTail inst sq q t (s.setSq inst sq (moveTail q t)))

/-- SPORE_WRITE (R379, R382). -/
def execSporeWrite (inst sq : Nat) (line : Line) (s : State) : Host.Outcome State Fault Refusal :=
  if (s.inst inst).res.sqs ≤ sq ∨ ringClosed s inst then .next s
  else
    let s := wake s
    let q := s.sq inst sq
    match q.st with
    | .disabled => .next (badAccess inst (0x100040 + 128 * sq) s)
    | .error => .next s
    | .draining => .next s
    | .active =>
      let t := ringNext q.log2 q.tail.toNat
      match checkTail q t with
      | .overrun => .next (sqError inst sq 1 s)
      | .back => .next (sqError inst sq 2 s)
      | .accepted =>
        let q' := moveTail q t
        if (entPhase line == ringWrap q.log2 q.tail.toNat) && decide (q.spores.length < 8) then
          let s := s.setSq inst sq { q' with spores := q'.spores ++ [(q.tail.toNat, line)] }
          .next (afterTail inst sq q t (countRing inst (fun k => { k with sporeUsed := k.sporeUsed + 1 }) s))
        else
          .next (afterTail inst sq q t
            (countRing inst (fun k => { k with sporeStale := k.sporeStale + 1 }) (s.setSq inst sq q')))

/-- RING_CQ_HEAD_WRITE (R373, R382, R391). -/
def execRingCqHeadWrite (inst cq : Nat) (val : W32) (s : State) : Host.Outcome State Fault Refusal :=
  if (s.inst inst).res.cqs ≤ cq ∨ ringClosed s inst then .next s
  else
    let s := wake s
    let q := s.cq inst cq
    match q.st with
    | .disabled => .next (badAccess inst (0x14000 + 4 * cq) s)
    | .error => .next s
    | .draining => .next s
    | .active =>
      let h := val.toNat % ringMask q.log2
      if ringUsed q.log2 q.tail.toNat h ≤ ringUsed q.log2 q.tail.toNat q.head.toNat then
        .next (s.setCq inst cq { q with head := BitVec.ofNat 32 h })
      else .next (cqError inst cq s)

/-! ## Fetching -/

/-- Command slots that the ring engine has reserved for a command still being fetched. -/
def reservedSlots (s : State) : List Nat := s.ring.sqs.filterMap fun e => e.2.slotRes

/-- Slots held by an instance, reserved ones included (R389). -/
def slotsHeld (s : State) (i : Nat) : Nat :=
  (s.ring.cmds.filter fun e => decide (e.1 < nSlots) && e.2.any fun c => c.inst = i).length +
  (s.ring.sqs.filter fun e => decide (keyInst e.1 = i) && e.2.slotRes.isSome).length

/-- Commands of an SQ that hold a slot: OUT of RING_SQ_STATE (R390, R401). -/
def sqOut (s : State) (i n : Nat) : Nat :=
  (s.ring.cmds.filter fun e => decide (e.1 < nSlots) && e.2.any fun c => decide (c.inst = i) && decide (c.sq = n)).length +
  (if (s.sq i n).slotRes.isSome then 1 else 0)

/-- The lowest slot that is neither held nor reserved. -/
def freeSlot (s : State) : Nat :=
  let used : Tbl Bool := s.ring.cmds.map (fun e => (e.1, true)) ++ (reservedSlots s).map (fun k => (k, true))
  (firstUnlisted used (used.length + 1) 0).getD 0

/-- The bounds of R390 that keep an SQ from starting a command: OUTLIM, the slot quota, its CQ. No slot of the module is given
above the last one (R389). -/
def fetchBounds (s : State) (i n : Nat) : Bool × Bool × Bool :=
  let q := s.sq i n
  (decide (q.outlim ≤ sqOut s i n), decide ((s.inst i).res.slots ≤ slotsHeld s i) || decide (nSlots ≤ freeSlot s), cqHolds i q.cq s)

/-- An SQ has an entry to fetch and no command of it is being fetched; nothing is fetched while the module is not in PS0 (R433). -/
def fetchable (s : State) (i n : Nat) : Bool :=
  let q := s.sq i n
  decide (q.st = .active) && q.slotRes.isNone && decide (q.head ≠ q.tail) && awake s && !ringClosed s i

/-- Instances with an SQ that may start a command now. -/
def fetchInsts (s : State) : List Nat :=
  ((s.ring.sqs.filter fun e => fetchable s (keyInst e.1) (keyNum e.1) &&
    decide (fetchBounds s (keyInst e.1) (keyNum e.1) = (false, false, false))).map fun e => keyInst e.1).dedup

/-- Takes the turn of an instance among those that have something to fetch (R384): by deficit round robin on the weights of the
profile in force, each command being one unit, or in STRICT at its position of the frame of 256 turns (log 57). None when the
turn is another's. -/
def fetchTurn (i : Nat) (s : State) : Option State :=
  let l := fetchInsts s
  if isStrict s then
    let ws := (s.insts.filter fun e => decide (e.2.st ≠ .absent)).map fun e => (e.1, weightOf s e.1 3)
    match frameNext (quantumOwner ws 256) 256 s.disp.fetchPos l with
    | some (j, p) => if j = i then some { s with disp := { s.disp with fetchPos := p } } else none
    | none => none
  else
    let w := fun j => weightOf s j s.disp.profile.toNat
    if wrrNext w s.disp.fetchInst s.disp.fetchCredit l = some i then
      some { s with disp := { s.disp with
        fetchInst := i, fetchCredit := wrrLeft w s.disp.fetchInst s.disp.fetchCredit i 1 } }
    else none

/-- COMMAND_FETCH_START: the ring engine reserves a slot and starts consuming the SQ's entries once
the bounds of R390 allow and the turn is the instance's (R384). -/
def execCommandFetchStart (inst sq : Nat) (s : State) : Host.Outcome State Fault Refusal :=
  if !fetchable s inst sq then .next s
  else
    let b := fetchBounds s inst sq
    let s := setStall inst sq b.1 b.2.1 b.2.2 s
    if b.1 || b.2.1 || b.2.2 then .next s
    else
      match fetchTurn inst s with
      | none => .next s
      | some s => .next (fetchRun inst sq (s.setSq inst sq { s.sq inst sq with slotRes := some (freeSlot s) }))

/-- Replaces the copy held for an index. -/
def putCopy (q : Sq) (idx : Nat) (l : Line) : Sq :=
  { q with copies := q.copies.filter (·.1 ≠ idx) ++ [(idx, l)] }

/-- SQ_ENTRY_READ_DONE (R374 to R377): a failed or short read puts the SQ into ERROR; contents whose
PHASE does not match are never used. A read that had not been issued before is issued with it. -/
def execSqEntryReadDone (inst sq idx : Nat) (data : Option Line) (s : State) :
    Host.Outcome State Fault Refusal :=
  let q := s.sq inst sq
  if q.st ≠ .active ∨ q.phaseOn.contains idx then .next s
  else if !covered q idx && !prefetchable q idx then .next s
  else
    let s := issueRead inst sq idx s
    let q := { s.sq inst sq with reads := (s.sq inst sq).reads.erase idx }
    let s := s.setSq inst sq q
    match hostGave s q.port data with
    | none => .next (sqError inst sq 3 s)
    | some l =>
      if !covered q idx then .next (s.setSq inst sq (putCopy q idx l))
      else if entPhase l == ringWrap q.log2 idx then
        .next (fetchRun inst sq (s.setSq inst sq (putCopy q idx l)))
      else if q.spores.any fun e => e.1 = idx then .next s
      else
        .next (countRing inst (fun k => { k with phaseWaits := k.phaseWaits + 1 })
          (s.setSq inst sq { q with stPhase := true, phaseOn := q.phaseOn ++ [idx], copies := q.copies.filter (·.1 ≠ idx) }))

/-- SPORE_COMPARE_READ_DONE (R380): the slot of a consumed spore entry has been read; only contents whose PHASE matches are a copy
of it. A difference is counted and logged; a failed read compares nothing. -/
def execSporeCompareReadDone (inst sq idx : Nat) (data : Option Line) (s : State) :
    Host.Outcome State Fault Refusal :=
  let q := s.sq inst sq
  match q.compares.find? fun e => e.1 = idx with
  | none => .next s
  | some e =>
    let s := hostSend q.port (.read q.port inst (q.base + 64 * ringSlot q.log2 idx) 64)
      (s.setSq inst sq { q with compares := q.compares.erase e })
    match hostGave s q.port data with
    | none => .next s
    | some l => if l = e.2 ∨ entPhase l ≠ ringWrap q.log2 idx then .next s else .next (sporeMismatch inst sq s)

/-! ## Commands that the ring engine carries out itself -/

/-- The opcodes that need no item and no engine: NOP and ABORT. -/
def ringOpcode (opc : Nat) : Bool := decide (opc = 0) || decide (opc = 0x3F)

/-- Runs an opcode's part of a command that stands in a slot, has been handed on, is not held by a
FENCE, and carries that opcode; nothing is handed to an engine while the CQ holds entries back (R383 step 5, R385, R392). -/
def onHanded (slot opc : Nat) (f : Cmd → State → State) (s : State) : State :=
  match s.cmd slot with
  | none => s
  | some c =>
    if c.phase = .handed ∧ c.outcome = none ∧ c.opc = opc ∧ (c.fenceOn = [] ∨ opc = 0x3F) ∧ (ringOpcode opc ∨ !cmdHeldByCq c s)
    then f c s else s

/-- NOP completes with SUCCESS and RESULT0 zero (R363). -/
def execNop (slot : Nat) (s : State) : Host.Outcome State Fault Refusal :=
  .next (onHanded slot 0 (fun _ s => succeed slot 0 s) s)

/-- The fields that an ABORT leaves zero (R394): of W0 all but OPC and the FLAGS that every entry may carry. -/
def abortFieldsOk (c : Cmd) : Bool :=
  decide (field (c.word 0) 48 32 = 0) && decide (c.obj = 0) && decide (c.word 2 = 0) && decide (c.word 3 = 0) && decide (c.word 4 = 0) &&
  decide (c.word 7 = 0) && decide (field (c.word 6) 63 13 = 0) && decide (c.word 5 ≠ 0)

/-- The live command that an ABORT of a TAG on SQ n names: the earliest accepted, leaving out
duplicates and ABORTs (R395). -/
def abortTarget (s : State) (i n : Nat) (tag : W64) : Option (Nat × Cmd) :=
  (sortOn (fun (e : Nat × Cmd) => e.2.accNo) (s.ring.cmds.filterMap fun e =>
    match e.2 with
    | some c => if e.1 < nSlots ∧ c.inst = i ∧ c.sq = n ∧ c.tag = tag ∧ c.accepted ∧ c.dupOf = none ∧ c.opc ≠ 0x3F
        then some (e.1, c) else none
    | none => none)).head?

/-- Acceptance number of the earliest record of a TAG in the window whose entry has been written, ABORTs left out. -/
def writtenRecord (q : Sq) (tag : W64) : Option Nat :=
  (sortOn id (q.window.filterMap fun r =>
    if r.tag = tag ∧ r.written.isSome ∧ !r.abort then some r.accNo else none)).head?

/-- ABORT completes with a status; R394 and R395 give no RESULT0, so it is free (log 18). -/
def endAbort (slot st : Nat) (s : State) : State :=
  let r := s.freshWord
  presentOutcome slot st r.1 r.2

/-- ABORT (R394, R395). -/
def runAbort (slot : Nat) (c : Cmd) (s : State) : State :=
  if !abortFieldsOk c then endAbort slot stParam s
  else
    let tag := c.word 5
    let n := field (c.word 6) 12 0
    match abortTarget s c.inst n tag, writtenRecord (s.sq c.inst n) tag with
    | some (k, x), w =>
      if w.any (· < x.accNo) then endAbort slot stTooLate s
      else if x.outcome = none then
        let r := openR0 x s
        endAbort slot stApplied (presentOutcome k stAborted r.1 r.2)
      else endAbort slot stTooLate (s.modCmd k fun y => { y with r1 := y.r1 ||| 2 })
    | none, some _ => endAbort slot stTooLate s
    | none, none => endAbort slot stNotFound s

/-- ABORT. -/
def execAbort (slot : Nat) (s : State) : Host.Outcome State Fault Refusal :=
  .next (onHanded slot 0x3F (runAbort slot) s)

/-! ## Completion queues -/

/-- Writes what waits for a CQ; once it holds nothing, fetches from its SQs that had begun go on (R392). -/
def drainAll (i n : Nat) (s : State) : State :=
  let s := drainCq i n (s.ring.cmds.length + 1) s
  if cqHolds i n s then s
  else forEach (fun k s => fetchRun i (keyNum k) s)
    ((s.ring.sqs.filter fun e => decide (keyInst e.1 = i) && decide (e.2.cq = n) && e.2.slotRes.isSome).map (·.1)) s

/-- COMPLETION_BUFFER_DRAIN: waiting entries are written once the CQ has room (R392). -/
def execCompletionBufferDrain (inst cq : Nat) (s : State) : Host.Outcome State Fault Refusal := .next (drainAll inst cq s)

/-- CQ_AGG_TIME_EXPIRY: AGG_TIME µs have passed since the first signalling entry (R400). -/
def execCqAggTimeExpiry (inst cq : Nat) (s : State) : Host.Outcome State Fault Refusal :=
  let q := s.cq inst cq
  if q.sigCount = 0 ∨ s.time < q.sigFirst + 1000 * q.aggTime then .next s
  else .next (signalCq inst cq true s)

/-! ## Deadlines -/

/-- DEADLINE_TIMER_WAIT_END: the first waiting command of its instance takes a timer that has become
free, and expires at once when D has passed (R303). -/
def execDeadlineTimerWaitEnd (slot : Nat) (s : State) : Host.Outcome State Fault Refusal :=
  match s.cmd slot with
  | none => .next s
  | some c =>
    let ahead := (s.disp.tmrQ.filter fun k => (s.cmd k).any fun x => x.inst = c.inst).head?
    if ahead ≠ some slot ∨ !timerFree s c.inst then .next s
    else
      let s := { s with disp := { s.disp with tmrQ := s.disp.tmrQ.filter (· ≠ slot) } }
      let s := s.modCmd slot fun c => { c with phase := .handed }
      let d := c.deadline.getD 0
      if d ≤ s.time then .next (expireDeadline slot s) else .next (setDeadline slot c.inst d s)

/-- The tick at which a timer fires. -/
def Timer.tick (t : Timer) : Nat := (t.expiry + 999) / 1000

/-- One timer fires before another: by tick, then by the time it was set, then by number (R301). -/
def Timer.before (a b : Timer) : Bool :=
  decide (a.tick < b.tick) || (decide (a.tick = b.tick) &&
    (decide (a.setAt < b.setAt) || (decide (a.setAt = b.setAt) && decide (a.id < b.id))))

/-- Timers of deadlines that are due. -/
def dueTimers (s : State) : List Timer := s.disp.timers.filter fun t => t.owner.isSome && decide (t.expiry ≤ s.time)

/-- A timer of a deadline fires. -/
def fireTimer (t : Timer) (s : State) : State :=
  expireDeadline t.slot { s with disp := { s.disp with timers := s.disp.timers.erase t } }

/-- DEADLINE_EXPIRY: the timer that is first among those due presents the expiry (R301, R304). -/
def execDeadlineExpiry (slot : Nat) (s : State) : Host.Outcome State Fault Refusal :=
  match (dueTimers s).find? fun t => decide (t.slot = slot) with
  | none => .next s
  | some t => if (dueTimers s).any fun x => x.before t then .next s else .next (fireTimer t s)

/-- The first of the timers that are due fires, and so on: none is later than one tick (R301). -/
def fireDue : Nat → State → State
  | 0, s => s
  | fuel + 1, s =>
    match (dueTimers s).find? fun t => !(dueTimers s).any fun x => x.before t with
    | none => s
    | some t => fireDue fuel (fireTimer t s)

end Sys2Proof.Machine
end

