-- ==== Sys2Proof/Machine/SoftFp.lean ====
section
/-!
DEFINITION. IEEE 754-2019 arithmetic on binary32 and binary64 bit patterns (R156, R201, R205): exact
results, rounded once in the direction of fc.frm, with the five flags. Bit patterns are numbers.
-/

namespace Sys2Proof.Machine

/-- A binary interchange format: exponent and fraction widths. -/
structure Fmt where
  ew : Nat
  mw : Nat
  deriving DecidableEq, Repr

def binary32 : Fmt := { ew := 8, mw := 23 }
def binary64 : Fmt := { ew := 11, mw := 52 }

def Fmt.bias (f : Fmt) : Nat := 2 ^ (f.ew - 1) - 1
def Fmt.width (f : Fmt) : Nat := 1 + f.ew + f.mw

/-- Exception flags of fc.fflags: [4] NV, [3] DZ, [2] OF, [1] UF, [0] NX. -/
abbrev FFlags := BitVec 5
def flNV : FFlags := 16
def flDZ : FFlags := 8
def flOF : FFlags := 4
def flUF : FFlags := 2
def flNX : FFlags := 1

def fpSign (f : Fmt) (x : Nat) : Bool := x.testBit (f.ew + f.mw)
def fpExp (f : Fmt) (x : Nat) : Nat := (x >>> f.mw) % 2 ^ f.ew
def fpFrac (f : Fmt) (x : Nat) : Nat := x % 2 ^ f.mw
def fpIsNan (f : Fmt) (x : Nat) : Bool := decide (fpExp f x = 2 ^ f.ew - 1) && decide (fpFrac f x ≠ 0)
def fpIsInf (f : Fmt) (x : Nat) : Bool := decide (fpExp f x = 2 ^ f.ew - 1) && decide (fpFrac f x = 0)
def fpIsZero (f : Fmt) (x : Nat) : Bool := decide (fpExp f x = 0) && decide (fpFrac f x = 0)

/-- A signalling NaN: its top fraction bit is clear. -/
def fpIsSnan (f : Fmt) (x : Nat) : Bool := fpIsNan f x && !x.testBit (f.mw - 1)

def fpPack (f : Fmt) (s : Bool) (e m : Nat) : Nat :=
  (if s then 2 ^ (f.ew + f.mw) else 0) + e * 2 ^ f.mw + m

def fpInf (f : Fmt) (s : Bool) : Nat := fpPack f s (2 ^ f.ew - 1) 0
def fpZero (f : Fmt) (s : Bool) : Nat := fpPack f s 0 0
def fpMax (f : Fmt) (s : Bool) : Nat := fpPack f s (2 ^ f.ew - 2) (2 ^ f.mw - 1)

/-- The default quiet NaN, 0x7FC0_0000 or 0x7FF8_0000_0000_0000 (R204). -/
def fpDefaultNan (f : Fmt) : Nat := fpPack f false (2 ^ f.ew - 1) (2 ^ (f.mw - 1))

/-- The NaN that an operation returns: quiet, sign and payload free (log 10). -/
def fpNan (f : Fmt) (a b : Nat) : Nat :=
  let r := if f.ew = 8 then (Config.nanBits32 (BitVec.ofNat 32 a) (BitVec.ofNat 32 b)).toNat
           else (Config.nanBits64 (BitVec.ofNat 64 a) (BitVec.ofNat 64 b)).toNat
  fpPack f (r.testBit (f.ew + f.mw)) (2 ^ f.ew - 1) (r % 2 ^ (f.mw - 1) + 2 ^ (f.mw - 1))

/-- Significand and exponent of a finite number: its magnitude is m × 2 ^ e. -/
def fpMag (f : Fmt) (x : Nat) : Nat × Int :=
  if fpExp f x = 0 then (fpFrac f x, 1 - (f.bias : Int) - f.mw)
  else (fpFrac f x + 2 ^ f.mw, (fpExp f x : Int) - f.bias - f.mw)

/-- Number of bits of a positive number, 0 for 0. -/
def bitLen (m : Nat) : Nat := if m = 0 then 0 else Nat.log2 m + 1

/-- Whether a magnitude with the given remainder is rounded away from zero (R157: 0 nearest even,
1 toward zero, 2 down, 3 up). -/
def roundsUp (rm : Nat) (s odd : Bool) (r half : Nat) (sticky : Bool) : Bool :=
  let inexact := decide (r ≠ 0) || sticky
  if rm = 0 then decide (half < r) || (decide (r = half) && (sticky || odd) && decide (half ≠ 0))
  else if rm = 1 then false
  else if rm = 2 then s && inexact
  else !s && inexact

/-- Rounds m × 2 ^ e (plus a positive amount below the last place when sticky) to multiples of 2 ^ t. -/
def roundAt (rm : Nat) (s : Bool) (m : Nat) (e t : Int) (sticky : Bool) : Nat × Bool :=
  if t ≤ e then (m * 2 ^ (e - t).toNat, sticky)
  else
    let k := (t - e).toNat
    let q := m / 2 ^ k
    let r := m % 2 ^ k
    (if roundsUp rm s (q.testBit 0) r (2 ^ (k - 1)) sticky then q + 1 else q, decide (r ≠ 0) || sticky)

/-- Rounds a nonzero magnitude to the format. -/
def roundPack (f : Fmt) (rm : Nat) (s : Bool) (m : Nat) (e : Int) (sticky : Bool) : Nat × FFlags :=
  if m = 0 then (fpZero f s, if sticky then flUF ||| flNX else 0)
  else
    let p := f.mw + 1
    let emin : Int := 1 - f.bias
    let tu : Int := e + bitLen m - p
    let t : Int := if tu < emin - f.mw then emin - f.mw else tu
    let r := roundAt rm s m e t sticky
    let carry := decide (r.1 = 2 ^ p)
    let q := if carry then 2 ^ (p - 1) else r.1
    let t := if carry then t + 1 else t
    let be := (t + f.mw + f.bias).toNat
    if q ≥ 2 ^ f.mw ∧ be ≥ 2 ^ f.ew - 1 then
      let inf := decide (rm = 0) || (decide (rm = 2) && s) || (decide (rm = 3) && !s)
      (if inf then fpInf f s else fpMax f s, flOF ||| flNX)
    else
      let ru := roundAt rm s m e tu sticky
      let tinyB := decide (e + (bitLen m : Int) - 1 < emin)
      let tinyA := decide (tu + (if ru.1 = 2 ^ p then 1 else 0) + p - 1 < emin)
      let tiny := if Config.tinyBefore then tinyB else tinyA
      let fl := (if r.2 then flNX else 0) ||| (if r.2 && tiny then flUF else 0)
      (if q ≥ 2 ^ f.mw then fpPack f s be (q - 2 ^ f.mw) else fpPack f s 0 q, fl)

/-- A signed exact value m × 2 ^ e, rounded; an exact zero takes the sign z. -/
def roundInt (f : Fmt) (rm : Nat) (m : Int) (e : Int) (z : Bool) : Nat × FFlags :=
  if m = 0 then (fpZero f z, 0) else roundPack f rm (decide (m < 0)) m.natAbs e false

/-- A NaN result, with NV when an operand signals. -/
def nanResult (f : Fmt) (a b : Nat) : Nat × FFlags :=
  (fpNan f a b, if fpIsSnan f a || fpIsSnan f b then flNV else 0)

/-- An invalid operation. -/
def fpInvalid (f : Fmt) (a b : Nat) : Nat × FFlags := (fpNan f a b, flNV)

def fpNeg (f : Fmt) (x : Nat) : Nat :=
  if fpSign f x then x - 2 ^ (f.ew + f.mw) else x + 2 ^ (f.ew + f.mw)

def signedMag (f : Fmt) (x : Nat) : Int := if fpSign f x then -((fpMag f x).1 : Int) else (fpMag f x).1

/-- The exact sum of m1 × 2 ^ e1 and m2 × 2 ^ e2. -/
def addExact (m1 e1 m2 e2 : Int) : Int × Int :=
  if e1 ≤ e2 then (m1 + m2 * 2 ^ (e2 - e1).toNat, e1) else (m1 * 2 ^ (e1 - e2).toNat + m2, e2)

def fpAdd (f : Fmt) (rm a b : Nat) : Nat × FFlags :=
  if fpIsNan f a || fpIsNan f b then nanResult f a b
  else if fpIsInf f a then
    if fpIsInf f b && fpSign f a != fpSign f b then fpInvalid f a b else (a, 0)
  else if fpIsInf f b then (b, 0)
  else
    let r := addExact (signedMag f a) (fpMag f a).2 (signedMag f b) (fpMag f b).2
    let z := if fpSign f a == fpSign f b then fpSign f a else decide (rm = 2)
    roundInt f rm r.1 r.2 z

def fpSub (f : Fmt) (rm a b : Nat) : Nat × FFlags :=
  if fpIsNan f a || fpIsNan f b then nanResult f a b else fpAdd f rm a (fpNeg f b)

def fpMul (f : Fmt) (rm a b : Nat) : Nat × FFlags :=
  let s := fpSign f a != fpSign f b
  if fpIsNan f a || fpIsNan f b then nanResult f a b
  else if fpIsInf f a || fpIsInf f b then
    if fpIsZero f a || fpIsZero f b then fpInvalid f a b else (fpInf f s, 0)
  else roundInt f rm (signedMag f a * signedMag f b) ((fpMag f a).2 + (fpMag f b).2) s

/-- a × b + c, rounded once. Whether zero times infinity with a quiet NaN addend signals invalid is free (log 10). -/
def fpFma (f : Fmt) (rm a b c : Nat) : Nat × FFlags :=
  let s := fpSign f a != fpSign f b
  let inv := (fpIsInf f a && fpIsZero f b) || (fpIsZero f a && fpIsInf f b)
  if fpIsNan f a || fpIsNan f b then
    let r := nanResult f a b
    (r.1, r.2 ||| (if fpIsSnan f c then flNV else 0))
  else if fpIsNan f c && (!inv || fpIsSnan f c || !Config.fmaInvalid) then nanResult f c c
  else if inv then fpInvalid f a b
  else if fpIsInf f a || fpIsInf f b then
    if fpIsInf f c && fpSign f c != s then fpInvalid f a c else (fpInf f s, 0)
  else if fpIsInf f c then (c, 0)
  else
    let r := addExact (signedMag f a * signedMag f b) ((fpMag f a).2 + (fpMag f b).2)
      (signedMag f c) (fpMag f c).2
    let z := if s == fpSign f c then s else decide (rm = 2)
    roundInt f rm r.1 r.2 z

def fpDiv (f : Fmt) (rm a b : Nat) : Nat × FFlags :=
  let s := fpSign f a != fpSign f b
  if fpIsNan f a || fpIsNan f b then nanResult f a b
  else if fpIsInf f a then if fpIsInf f b then fpInvalid f a b else (fpInf f s, 0)
  else if fpIsInf f b then (fpZero f s, 0)
  else if fpIsZero f b then
    if fpIsZero f a then fpInvalid f a b else (fpInf f s, flDZ)
  else if fpIsZero f a then (fpZero f s, 0)
  else
    let k := 2 * f.mw + 4
    let n := (fpMag f a).1 * 2 ^ k
    let d := (fpMag f b).1
    roundPack f rm s (n / d) ((fpMag f a).2 - (fpMag f b).2 - k) (decide (n % d ≠ 0))

/-- The integer square root, bit by bit from 2 ^ k downward. -/
def isqrtGo (n : Nat) : Nat → Nat → Nat
  | 0, r => r
  | k + 1, r =>
    let r' := r + 2 ^ k
    isqrtGo n k (if r' * r' ≤ n then r' else r)

def isqrt (n : Nat) : Nat := isqrtGo n (bitLen n / 2 + 1) 0

def fpSqrt (f : Fmt) (rm a : Nat) : Nat × FFlags :=
  if fpIsNan f a then nanResult f a a
  else if fpIsZero f a then (a, 0)
  else if fpSign f a then fpInvalid f a a
  else if fpIsInf f a then (a, 0)
  else
    let m := (fpMag f a).1
    let e := (fpMag f a).2
    let k : Nat := 2 * f.mw + 4
    let k := if (e - k) % 2 = 0 then k else k + 1
    let n := m * 2 ^ k
    let r := isqrt n
    roundPack f rm false r ((e - k) / 2) (decide (r * r ≠ n))

/-! ## Comparisons -/

/-- The numeric order of two numbers that are not NaN: −1, 0 or 1. -/
def fpCmp (f : Fmt) (a b : Nat) : Int :=
  if fpIsZero f a && fpIsZero f b then 0
  else
    let va : Int := if fpSign f a then -((a % 2 ^ (f.ew + f.mw) : Nat) : Int) else (a % 2 ^ (f.ew + f.mw) : Nat)
    let vb : Int := if fpSign f b then -((b % 2 ^ (f.ew + f.mw) : Nat) : Int) else (b % 2 ^ (f.ew + f.mw) : Nat)
    if va < vb then -1 else if va = vb then 0 else 1

/-- The order of R80: every NaN equals every other NaN and lies above +∞. -/
def fpOrder (f : Fmt) (a b : Nat) : Int :=
  if fpIsNan f a then (if fpIsNan f b then 0 else 1)
  else if fpIsNan f b then -1
  else fpCmp f a b

/-- IEEE equality: quiet, so only a signalling NaN raises NV (log 20). -/
def fpEq (f : Fmt) (a b : Nat) : Bool × FFlags :=
  if fpIsNan f a || fpIsNan f b then (false, if fpIsSnan f a || fpIsSnan f b then flNV else 0)
  else (decide (fpCmp f a b = 0), 0)

/-- IEEE less and less-or-equal: any NaN raises NV (log 20). -/
def fpLt (f : Fmt) (orEq : Bool) (a b : Nat) : Bool × FFlags :=
  if fpIsNan f a || fpIsNan f b then (false, flNV)
  else (if orEq then decide (fpCmp f a b ≤ 0) else decide (fpCmp f a b < 0), 0)

/-! ## Conversions -/

/-- Float to a signed integer of w bits; NaN or out of range gives the most negative integer and NV
(R201). Whether an inexact result sets NX is free (log 10). -/
def fpToInt (f : Fmt) (rm w a : Nat) : Nat × FFlags :=
  let bad := (2 ^ (w - 1), flNV)
  if fpIsNan f a || fpIsInf f a then bad
  else
    let r := roundAt rm (fpSign f a) (fpMag f a).1 (fpMag f a).2 0 false
    let v : Int := if fpSign f a then -(r.1 : Int) else r.1
    if v < -(2 ^ (w - 1) : Nat) ∨ ((2 ^ (w - 1) : Nat) : Int) ≤ v then bad
    else ((v % (2 ^ w : Nat)).toNat, if r.2 && Config.cvtInexact then flNX else 0)

/-- A signed integer to float. -/
def fpOfInt (f : Fmt) (rm : Nat) (v : Int) : Nat × FFlags := roundInt f rm v 0 false

/-- Conversion between formats; exact when it widens. -/
def fpConvert (f g : Fmt) (rm a : Nat) : Nat × FFlags :=
  if fpIsNan f a then (fpNan g a a, if fpIsSnan f a then flNV else 0)
  else if fpIsInf f a then (fpInf g (fpSign f a), 0)
  else roundInt g rm (signedMag f a) (fpMag f a).2 (fpSign f a)

/-- The exact value of a finite number as m × 2 ^ e. -/
def fpExact (f : Fmt) (a : Nat) : Int × Int := (signedMag f a, (fpMag f a).2)

end Sys2Proof.Machine
end

