-- ==== Sys2Proof/Machine/FrondOps.lean ====
section
/-!
DEFINITION. How a frond runs one instruction (R154 to R187): registers, scratchpad, the fetch check,
exception entry and double fault, counters and prediction, asynchronous requests, stream requests.
-/

namespace Sys2Proof.Machine

/-! ## Registers (R154, R155, R189) -/

/-- gN; g0 reads as zero. -/
def Frond.gr (fr : Frond) (n : BitVec 5) : W64 := if n = 0 then 0 else fr.g.get 0 n.toNat

/-- Writes gN; a write to g0 is discarded. -/
def Frond.setG (fr : Frond) (n : BitVec 5) (x : W64) : Frond :=
  if n = 0 then fr else { fr with g := fr.g.set 0 n.toNat x }

def Frond.vr (fr : Frond) (n : Nat) : BitVec 4096 := fr.v.get 0 n
def Frond.setV (fr : Frond) (n : Nat) (x : BitVec 4096) : Frond := { fr with v := fr.v.set 0 n x }

def Frond.mr (fr : Frond) (n : Nat) : BitVec 512 := fr.m.get 0 n
def Frond.setM (fr : Frond) (n : Nat) (x : BitVec 512) : Frond := { fr with m := fr.m.set 0 n x }

/-- fN is bits [63:0] of vN. -/
def Frond.fpr (fr : Frond) (n : BitVec 5) : Nat := (fr.vr n.toNat).toNat % 2 ^ 64

/-- Writes bits [63:0] of vN and no other bit (R155). -/
def Frond.setF (fr : Frond) (n : BitVec 5) (x : Nat) : Frond :=
  let v := (fr.vr n.toNat).toNat
  fr.setV n.toNat (BitVec.ofNat 4096 (v / 2 ^ 64 * 2 ^ 64 + x % 2 ^ 64))

/-- An operand or result of a format: binary32 in bits [31:0], a result clearing [63:32] (R155). -/
def Frond.fpv (fr : Frond) (dbl : Bool) (n : BitVec 5) : Nat :=
  if dbl then fr.fpr n else fr.fpr n % 2 ^ 32
def fmtOf (dbl : Bool) : Fmt := if dbl then binary64 else binary32

/-- Sets sticky flags (R156). -/
def Frond.raise (fr : Frond) (fl : FFlags) : Frond := { fr with fflags := fr.fflags ||| fl }

/-! ## Level and status -/

def Frond.isK (fr : Frond) : Bool := fr.status.getLsbD 0
def Frond.exl (fr : Frond) : Bool := fr.status.getLsbD 7
def Frond.ie (fr : Frond) : Bool := fr.status.getLsbD 6
def Frond.pen (fr : Frond) : Bool := fr.bpctl.getLsbD 0
def Frond.bar (fr : Frond) : Bool := fr.bpctl.getLsbD 1

/-- fc.status from its fields (R157). -/
def statusOf (exl ie pp p : Bool) : W64 :=
  BitVec.ofNat 64 ((if exl then 128 else 0) + (if ie then 64 else 0) + (if pp then 8 else 0) + (if p then 1 else 0))

/-- bp.flush: every counter weakly not-taken, history and return stack empty (R179). -/
def Frond.flush (fr : Frond) : Frond := { fr with bpc := [], hist := 0, ras := [] }

/-! ## Scratchpad (R165 to R167) -/

def spBase : Nat := 0x40000
def spRuntime : Nat := 0x1C0000
def spTop : Nat := 0x200000

/-- Whether a load or store of the current level may touch a scratchpad address: the code of the
fault, or none (R165, R207). -/
def Frond.spFault (fr : Frond) (a : Nat) : Option Nat :=
  if spTop ≤ a then some 0x06
  else if fr.isK then none
  else if spBase ≤ a ∧ a < fr.wlim.toNat ∧ a < spRuntime then none
  else some 0x05

/-- The same for an access of n bytes: its first byte decides, then its last. -/
def Frond.spFaultN (fr : Frond) (a n : Nat) : Option Nat :=
  match fr.spFault a with
  | some c => some c
  | none => fr.spFault (a + n - 1)

def Frond.spRead (fr : Frond) (a n : Nat) : List Byte := Tbl.read 0 fr.sp a n
def Frond.spNat (fr : Frond) (a n : Nat) : Nat := leNat (fr.spRead a n)

/-- Marks the 4 KiB block of an address of the working region dirty (R167). -/
def Frond.markDirty (fr : Frond) (a : Nat) : Frond :=
  if spBase ≤ a ∧ a < spRuntime then { fr with dirty := fr.dirty.set false (a / 4096) true } else fr

/-- Remembers what a byte held before a store that no fence has followed (R171). -/
def keepOld (sp : List (Nat × Byte)) : Nat → List Byte → Tbl (Option Byte) → Tbl (Option Byte)
  | _, [], u => u
  | a, _ :: t, u =>
    keepOld sp (a + 1) t (if (u.get none a).isSome then u else u.set none a (some (Tbl.get 0 sp a)))

/-- Stores bytes in scratchpad at an address; the block becomes dirty (R166, R167). -/
def Frond.spStore (fr : Frond) (a : Nat) (d : List Byte) : Frond :=
  Frond.markDirty (Frond.markDirty { fr with
    sp := Tbl.write 0 fr.sp a d, unfenced := keepOld fr.sp a d fr.unfenced } a) (a + d.length - 1)

/-- spclr: zero-fills the dirty blocks of the working region and clears their bits (R167). -/
def Frond.spclr (fr : Frond) : Frond :=
  { fr with
    sp := forEach (fun (e : Nat × Bool) sp => Tbl.clearRange sp (4096 * e.1) (4096 * e.1 + 4096)) fr.dirty fr.sp,
    dirty := [] }

/-- Steps 3 to 5 of R186: nothing of the ended item's instance stays on the frond, and its runtime runs at K level
(R163). -/
def Frond.clear (fr : Frond) : Frond :=
  let fr := fr.spclr
  Frond.flush { fr with
    g := [], v := [], m := [], fflags := 0, frm := 0, cause := 0, tval := 0, epc := 0, vl := 0, vri := 0,
    ew := 0, unfenced := [], tags := [], hoOut := [], event := false, status := statusOf true fr.ie false true }

/-! ## One instruction -/

/-- What an instruction does: it retires with the next address, raises an exception (code, DETAIL,
faulting address), or waits. The state is the rest of the module after it. -/
inductive FOut where
  | next (s : State) (fr : Frond) (pc : W64)
  | exc (s : State) (fr : Frond) (code detail : Nat) (tval : Option Nat)
  /-- an exception of a vector memory instruction, behind which nothing has been issued (R223) -/
  | heldExc (s : State) (fr : Frond) (code : Nat) (tval : Nat)
  | stall

/-- The frond's core clock runs: PS0, its quadrant not parked (R431, R504). -/
def clockOn (f : Nat) (s : State) : Bool :=
  decide (s.pwr.ps = 0) && !(s.pwr.parked.get false (f / 8)) && !s.pads.inReset

/-- The fetch check of R165 at the current level; an address that is no multiple of 4 is in no range
(log 21). -/
def Frond.fetchOk (fr : Frond) : Bool :=
  let a := fr.pc.toNat
  decide (a % 4 = 0) &&
  (if fr.isK then decide (a < spBase) || (decide (spRuntime ≤ a) && decide (a < spTop))
   else decide (fr.cbase.toNat ≤ a) && decide (a < fr.clim.toNat) && decide (a < spBase))

/-- Time passes for the core: fc.cyc, and fc.budget at P level (R157, R158). -/
def Frond.passCycles (fr : Frond) (wasK : Bool) (n : Nat) : Frond :=
  let fr := { fr with cyc := fr.cyc + BitVec.ofNat 64 n }
  if wasK || decide (fr.budget = 0) then fr
  else if fr.budget.toNat ≤ n then { fr with budget := 0, budgetReq := true }
  else { fr with budget := fr.budget - BitVec.ofNat 64 n }

/-- The chunk group of the directory or the partition that an item stands for, 0xFFFFFFFF for a SINGLE item (R60, R63, R77). A chunk
group counts from the first of the directory, not from FIRST_GROUP (log 147). -/
def QueryRun.itemNo (q : QueryRun) (pipe idx : Nat) : Nat :=
  match q.plan.pipes[pipe]? with
  | none => idx
  | some e =>
    if e.kind = 2 then 0xFFFFFFFF
    else if e.kind = 0 then ((q.inputs.find? fun x => x.slot = e.source).map (·.first)).getD 0 + idx
    else idx

/-- Marks a finalising item of a HASH_BUILD in `ItemRef.stage`; it stands for its partition (R122). -/
def finalStage : Nat := 64

/-- RESULT0 of a failing item (R77). -/
def itemR0 (s : State) (it : ItemRef) (op : Nat) : W64 :=
  let idx := match workOf s it.slot with
    | .query q => if it.stage = finalStage then it.idx else q.itemNo it.pipe it.idx
    | _ => it.idx
  BitVec.ofNat 64 (2 ^ 56 * it.pipe + 2 ^ 48 * (op % 256) + idx % 2 ^ 32)

/-- The operators that an item's frond runs, each with its index in the pipeline: those of its stage where the pipeline hands off
(R65), else all; a finalising item stands for the HASH_BUILD at the end. -/
def stageOpsAt (s : State) (it : ItemRef) : List (OpEnt × Nat) :=
  match workOf s it.slot with
  | .query q =>
    let ops := (q.plan.ops.filter fun o => o.pipe = it.pipe).zipIdx
    let cut := ops.any fun o => bit o.1.flags 2
    if it.stage = finalStage then ops.drop (ops.length - 1) else ops.filter fun o => !cut || decide (o.1.stage = it.stage)
  | _ => []

/-- The indices of those operators. -/
def stageIdx (s : State) (it : ItemRef) : List Nat := (stageOpsAt s it).map (·.2)

/-- Where the code of an operator stands, and the CYCLES of a UDO. -/
structure OpSpan where
  op : Nat
  start : Nat
  stop : Nat
  cycles : Nat

/-- The code of operators stands one after another from an address on (log 76). -/
def placeOps : Nat → List (OpEnt × Nat) → List OpSpan
  | _, [] => []
  | a, (o, k) :: t =>
    { op := k, start := a, stop := a + o.codeLen, cycles := match o.args with | .udo c _ _ => c | _ => 0 } :: placeOps (a + o.codeLen) t

/-- The operators whose code a frond holds. -/
def opSpans (s : State) (fr : Frond) : List OpSpan :=
  match fr.item with
  | none => []
  | some it => if it.stage = finalStage then [] else placeOps 0 (stageOpsAt s it)

/-- The operator whose code a frond runs, or has run when it stands in its handler. -/
def opAt (s : State) (fr : Frond) : Option Nat :=
  let a := if fr.exl then fr.epc.toNat else fr.pc.toNat
  ((opSpans s fr).find? fun x => decide (x.start ≤ a) && decide (a < x.stop)).map (·.op)

/-- The runtime calls an operator for a batch: the code of the operator is entered at its first address from elsewhere, and fc.budget
has been loaded with the CYCLES of a UDO, or 0 (R148, R158; log 171). -/
def enterOp (s : State) (fr : Frond) (pc : W64) : Frond :=
  match (opSpans s fr).find? fun x => decide (x.start = pc.toNat) && decide (x.start < x.stop) with
  | none => fr
  | some x =>
    if x.start ≤ fr.pc.toNat ∧ fr.pc.toNat < x.stop then fr else { fr with budget := BitVec.ofNat 64 x.cycles }

/-- The statuses with which every operator can fail an item, and those of its own (R151). -/
def opAdmits (o : OpArgs) (st : Nat) : Bool :=
  [stFormat, stPoisoned, stIntegrity, stEngine, stDenied, stInternal, stExhausted].contains st ||
  (match o with
   | .scan .. => [stHost, stMedia].contains st
   | .filter .. => decide (st = stArith)
   | .project .. => decide (st = stArith)
   | .hashBuild .. => decide (st = stRange)
   | .hashProbe .. => decide (st = stArith)
   | .sort .. => decide (st = stRange)
   | .agg .. => decide (st = stArith)
   | .exchange .. => decide (st = stLink)
   | .emit .. => [stRange, stHost, stMedia].contains st
   | .udo .. => [stArith, stRange].contains st
   | _ => false)

/-- The operator at which the item of a frond fails with a status: the one whose code the frond runs; while it runs none of the plan's
code, one of its stage that fails so, which is open (R77, R151; log 24). -/
def failOp (f st : Nat) (s : State) : Nat × State :=
  match (s.frond f).item with
  | none => (0, s)
  | some it =>
    match opAt s (s.frond f) with
    | some k => (k, s)
    | none =>
      let ok := (stageOpsAt s it).filter fun o => opAdmits o.1.args st
      let r := s.choose (if ok.isEmpty then stageIdx s it else ok.map (·.2))
      (r.1.getD 0, r.2)

/-- The item of a frond fails with a status (R76). -/
def failItem (f st : Nat) (s : State) : State :=
  match (s.frond f).item with
  | none => s
  | some it =>
    let r := failOp f st s
    recordFailure it.slot st (itemR0 s it r.1) r.2

/-! ## Stream requests (R168 to R171) -/

/-- The host port of the SQ of the command whose item a frond runs. -/
def itemPort (f : Nat) (s : State) : Nat :=
  match (s.frond f).item with
  | none => 0
  | some it => match s.cmd it.slot with
    | none => 0
    | some c => (s.sq c.inst c.sq).port

/-- The physical address of a line of a DEV request by the translations made at str.issue. -/
def tagPhys (t : StreamTag) (a : Nat) : XlateRes :=
  match t.xl.find? fun e => e.1 = a / pageSize with
  | some (_, .phys p) => .phys (p + a % pageSize)
  | some (_, r) => r
  | none => .mapFault

/-- Reads and checks one line of a GET, or writes one line of a PUT, at its memory controller. -/
def tagLine (t : StreamTag) (a n : Nat) (s : State) : Except Nat (List Byte) × State :=
  match tagPhys t a with
  | .mapFault => (.error 0x07, s)
  | .colour p c => (.error 0x08, colourFault (some t.inst) p c s)
  | .phys p =>
    if t.put then
      match writePhys (some t.inst) p ((t.data.drop (a - t.remote)).take n) s with
      | (.colour, s) => (.error 0x08, s)
      | (_, s) => (.ok [], s)
    else
      match readLine (some t.inst) p 0 0 s with
      | (.data d, s) => (.ok ((d.drop (p % 64)).take n), s)
      | (.poison, s) => (.error 0x09, s)
      | (_, s) => (.error 0x08, s)

/-- The lines of a request in ascending order up to the first failing one: the bytes of a GET, and the
failure. After a failure `extra` further lines are in flight: they are checked and discarded, or
written (R170). -/
def tagLines (t : StreamTag) (extra : Nat) : Nat → Nat → Nat → Option (Nat × Nat) → State →
    List Byte × Option (Nat × Nat) × State
  | 0, _, _, bad, s => ([], bad, s)
  | fuel + 1, a, k, bad, s =>
    let endA := t.remote + t.len
    if endA ≤ a ∨ (bad.isSome ∧ extra ≤ k) then ([], bad, s)
    else
      let n := min (endA - a) (64 - a % 64)
      match bad with
      | some _ => tagLines t extra fuel (a + n) (k + 1) bad (tagLine t a n s).2
      | none =>
        match tagLine t a n s with
        | (.error c, s) => tagLines t extra fuel (a + n) 0 (some (c, a)) s
        | (.ok d, s) =>
          let r := tagLines t extra fuel (a + n) 0 none s
          (d ++ r.1, r.2)

/-- What a host read has brought of a GET that failed: whole lines from the first one on (R170). -/
def wholeLines (t : StreamTag) (d : List Byte) : List Byte := d.take ((t.remote + d.length) / 64 * 64 - t.remote)

/-- A PUT into a context port stalls while its message has words held back by the full input buffer (R315). -/
def engineStalls (s : State) (t : StreamTag) : Bool :=
  match Config.enginePort t.remote with
  | some (u, k, _) => t.put && decide (t.space = 2) && decide ((s.ctx (u % 4) (k % 64)).st = .active) && !(s.ctx (u % 4) (k % 64)).held.isEmpty
  | none => false

/-- A request ends: done, or failed with a code and the first failing address (R170). Bytes of a GET
below the first failing line reach the scratchpad and set dirty bits. A host write waits for its port and does not
fail (R552). An ENGINE request whose handle is that of a context port reads the port, and one that fails on the way to it
clears the context (R313, R314, R323). -/
def endTag (f tag : Nat) (data : Option (List Byte)) (s : State) : State :=
  let fr := s.frond f
  let t := fr.tags.get StreamTag.idle tag
  let fin := fun (st : TagState) (code addr : Nat) (got : List Byte) (s : State) =>
    let fr := s.frond f
    let fr := if got.isEmpty then fr else
      forEach (fun k (fr : Frond) => fr.markDirty (4096 * k))
        (List.range' (t.spaddr / 4096) ((t.spaddr + got.length - 1) / 4096 + 1 - t.spaddr / 4096))
        { fr with sp := Tbl.write 0 fr.sp t.spaddr got }
    let st := if t.cut ∧ st = TagState.done then TagState.cancelled else st
    let t' := { t with st := st, code := code, addr := addr, raised := false, data := [], xl := [] }
    s.setFrond f { fr with event := true, tags := fr.tags.set StreamTag.idle tag t' }
  if t.space = 0 then
    let r := s.freshNat
    let g := tagLines t (r.1 % (t.len / 64 + 1)) (t.len / 64 + 2) t.remote 0 none r.2
    match g.2.1 with
    | none => fin .done 0 0 (if t.put then [] else g.1) g.2.2
    | some (c, a) => fin .failed c a (if t.put then [] else g.1) g.2.2
  else if t.space = 1 then
    if t.put then
      if !(s.hostPort (itemPort f s)).up then s
      else fin .done 0 0 [] (addCounter t.inst 3 t.len (hostWrite (itemPort f s) t.inst t.remote t.data s))
    else
      let d := if (s.hostPort (itemPort f s)).absent then [] else data.getD []
      if d.length < t.len then fin .failed 0x0A (t.remote + (wholeLines t d).length) (wholeLines t d) s
      else fin .done 0 0 (d.take t.len) s
  else
    match data, Config.enginePort t.remote with
    | none, p =>
      let r := s.freshNat
      let s := match p with
        | some (u, k, _) =>
          let x := r.2.ctx (u % 4) (k % 64)
          if t.put ∧ x.st = .active ∧ x.frond = some f then clearLogged (u % 4) (k % 64) r.2 else r.2
        | none => r.2
      fin .failed (1 + r.1 % 0x0B) t.remote [] s
    | some _, some (u, k, off) =>
      if t.put then (if engineStalls s t then s else fin .done 0 0 [] s)
      else
        let r := ctxPortRead (u % 4) (k % 64) t.inst off t.len s
        fin .done 0 0 r.1 r.2
    | some d, none => fin .done 0 0 (if t.put then [] else d.take t.len) s

/-- A request ends, and frames that waited for it are released (R340, R345). -/
def endRequest (f tag : Nat) (data : Option (List Byte)) (s : State) : State := settleLeaving (endTag f tag data s)

/-- Changes a tag. -/
def setTag (f tag : Nat) (t : StreamTag) (s : State) : State :=
  let fr := s.frond f
  s.setFrond f { fr with tags := fr.tags.set StreamTag.idle tag t }

/-- Lines of a request; an ENGINE request is sent as one. -/
def StreamTag.lines (t : StreamTag) : Nat :=
  if t.space = 2 then 1 else (t.remote + t.len - 1) / 64 + 1 - t.remote / 64

/-- Bytes of the first n lines of a request. -/
def StreamTag.bytesOf (t : StreamTag) (n : Nat) : Nat := min t.len (64 * (t.remote / 64 + n) - t.remote)

/-- str.cancel on one pending tag: the lines that have not been sent are cancelled, those sent end as they would have, in issue order
with the frond's other requests; how many have been sent is a free number (R161, R171, R177, log 26). -/
def cancelTag (f tag : Nat) (s : State) : State :=
  let t := (s.frond f).tags.get StreamTag.idle tag
  let r := s.freshNat
  let n := r.1 % (t.lines + 1)
  if n = 0 then setTag f tag { t with st := .cancelled, data := [], xl := [] } r.2
  else if n = t.lines then setTag f tag { t with sent := true } r.2
  else setTag f tag { t with sent := true, cut := true, len := t.bytesOf n } r.2

/-- The tags of a frond in the order in which their requests were issued (R171). -/
def tagOrder (fr : Frond) : List Nat := sortOn (fun tag => (fr.tags.get StreamTag.idle tag).order) (List.range 16)

/-- str.cancel: what has not been sent is cancelled under every tag. -/
def cancelTags (f : Nat) (s : State) : State :=
  settleLeaving (forEach (fun tag s =>
    let t := (s.frond f).tags.get StreamTag.idle tag
    if t.st = .pending ∧ !t.sent then cancelTag f tag s else s) (tagOrder (s.frond f)) s)

/-- A write of a frond that cannot end yet: one to the host waits for its port, one to a context port for room (R315, R552). -/
def putWaits (s : State) (f : Nat) (t : StreamTag) : Bool :=
  decide (t.st = .pending) && ((decide (t.space = 1) && t.put && !(s.hostPort (itemPort f s)).up) || engineStalls s t)

/-- Every request already sent is acknowledged, in issue order, before the item is reported ended (R171, R177, R186); a
write that still waits for its port is discarded (R552). -/
def settleTags (f : Nat) (s : State) : State :=
  forEach (fun tag s =>
    let t := (s.frond f).tags.get StreamTag.idle tag
    if putWaits s f t then setTag f tag { t with st := .done, data := [], xl := [] } s
    else if t.st = .pending then endRequest f tag (some []) s
    else s) (tagOrder (s.frond f)) s

/-! ## Exceptions (R173 to R177) -/

/-- Double fault: the frond halts, its item fails with INTERNAL_ERROR and ends, with nothing of it outstanding, and firmware
logs the event (R175, R177, R187). -/
def doubleFault (f : Nat) (fr : Frond) (s : State) : State :=
  let s := s.setFrond f { fr with halted := true }
  let s := fwEvent 0x0201 fr.inst.toNat f s
  let s := settleTags f (cancelTags f (failItem f stInternal s))
  let it := fr.item
  let s := s.setFrond f { s.frond f with item := none, stopping := none, reserved := none }
  match it with
  | none => s
  | some it => endIfFailed it.slot (endHolder (.stage it.slot it.pipe f) s)

/-- Exception entry (R174): saved registers written, K level, EXL, predictor flushed, fetch from
fc.evec. A cause without a faulting address leaves a free value in fc.tval (log 25). -/
def takeException (f : Nat) (fr : Frond) (async : Bool) (code detail : Nat) (tval : Option Nat) (s : State) :
    State :=
  if fr.exl then doubleFault f fr s
  else
    let r := s.freshWord
    let tv := match tval with | some a => BitVec.ofNat 64 a | none => r.1
    let s := match tval with | some _ => s | none => r.2
    s.setFrond f (Frond.flush { fr with
      epc := fr.pc, cause := BitVec.ofNat 64 ((if async then 2 ^ 63 else 0) + 2 ^ 8 * detail + code), tval := tv,
      status := statusOf true fr.ie fr.isK true, pc := fr.evec })

/-- An item of an instance waits for a frond: a cursor of items stands on one of its lists. -/
def itemWaits (s : State) (i : Nat) : Bool :=
  s.disp.lists.any fun e => e.2.used && decide (e.2.inst = i) && decide (e.2.cls = 0) && !e.2.cursors.isEmpty

/-- Open requests that a frond's runtime has made for an item go with it, and so does the page that it waits for (R450). -/
def dropAsks (f : Nat) (s : State) : State :=
  let s := setAsks f 0 (dropWaits (fun w => decide (w.frond = some f)) s)
  { s with disp := { s.disp with lists := s.disp.lists.map fun e =>
      (e.1, { e.2 with cursors := e.2.cursors.filter fun x => !(decide (x.kind = .digFrond) && decide (x.pipe = f)) }) } }

/-- The frond reports its item ended. It is cleared, unless an item of the same instance may follow: then its runtime asks for the next
one first, and clears the frond when another or none is the answer (R177, R186). -/
def reportEnded (f : Nat) (s : State) : State :=
  let fr := s.frond f
  let it := fr.item
  let ask := itemWaits s fr.inst.toNat
  let kept := if ask then fr else fr.clear
  let s := s.setFrond f { kept with
    asking := ask, item := none, stopping := none, stopReq := false, budgetReq := false, reserved := none }
  match it with
  | none => s
  | some it => endIfFailed it.slot (endHolder (.stage it.slot it.pipe f) (dropAsks f s))

/-- STOP is taken: exception entry, unsent stream traffic cancelled, sent requests acknowledged, and
the item reported ended (R177). A double fault ends the item in its own way (R175). -/
def takeStop (f : Nat) (s : State) : State :=
  let fr := { s.frond f with stopReq := false }
  let s := takeException f fr true 0x10 0 none s
  if (s.frond f).halted then s
  else reportEnded f (settleTags f (cancelTags f s))

/-- Asynchronous requests are taken at an instruction boundary, at P level always and at K level while
IE is 1 (R176); STOP before BUDGET (log 27). -/
def takeAsync (f : Nat) (s : State) : State :=
  let fr := s.frond f
  if fr.isK && !fr.ie then s
  else if fr.stopReq then takeStop f s
  else if fr.budgetReq then takeException f { fr with budgetReq := false } true 0x11 0 none s
  else s

/-- Retirement: counters and the next address (R184), and the budget of an operator that is entered, then pending asynchronous
requests. -/
def retireInstr (f : Nat) (wasK : Bool) (fr : Frond) (pc : W64) (s : State) : State :=
  let k := Config.cycles s.seed
  let fr := enterOp s (Frond.passCycles fr wasK k) pc
  let fr := { fr with pc := pc, ret := fr.ret + 1, iss := fr.iss + 1 }
  let s := { s with seed := s.seed + 1 }
  takeAsync f (s.setFrond f fr)

/-- Time passes while an instruction that raises an exception is executed. -/
def excTime (fr : Frond) (wasK : Bool) (s : State) : Frond × State :=
  (fr.passCycles wasK (Config.cycles s.seed), { s with seed := s.seed + 1 })

/-- An excepting instruction and the younger ones already issued are squashed (R174, R184). -/
def squashInstr (fr : Frond) (k : Nat) : Frond :=
  { fr with iss := fr.iss + BitVec.ofNat 64 (1 + k), specx := fr.specx + BitVec.ofNat 64 (1 + k) }

/-- The word that a frond fetches at its pc (R159). -/
def Frond.fetchWord (fr : Frond) : FrondWord := BitVec.ofNat 32 (fr.spNat fr.pc.toNat 4)

/-- The word at the pc is one that the tables of opcodes list. -/
def Frond.listed (fr : Frond) : Bool := (decodeFrond 0 fr.fetchWord).isSome

/-- The instruction that a command gives is executed where the word fetched is a listed one; one that no table lists raises ILLEGAL
(R160, R161, R198). Which listed word a command stands for is the command's own (log 29). -/
def fetched (op : State → Frond → FOut) (s : State) (fr : Frond) : FOut :=
  if fr.listed then op s fr else .exc s fr 0x01 0 none

/-- Frond f executes one instruction whose effect is `op` (R165, R174, R184). A halted frond (R175) or
one without a clock executes nothing. -/
def runFrond (f : Nat) (op : State → Frond → FOut) (s : State) : State :=
  let fr := s.frond f
  if fr.halted || !clockOn f s then s
  else if !fr.fetchOk then
    let e := excTime (squashInstr fr 0) fr.isK s
    takeException f e.1 false 0x03 0 (some fr.pc.toNat) e.2
  else
    match fetched op s fr with
    | .next s' fr' pc => retireInstr f fr.isK fr' pc s'
    | .exc s' fr' c d tv =>
      let r := s'.freshNat
      let e := excTime (squashInstr fr' r.1) fr.isK r.2
      takeException f e.1 false c d tv e.2
    | .heldExc s' fr' c tv =>
      let e := excTime (squashInstr fr' 0) fr.isK s'
      takeException f e.1 false c 0 (some tv) e.2
    | .stall => s

/-- An instruction that changes only the frond and goes on to the next address. -/
def pureOp (g : Frond → Frond) : State → Frond → FOut :=
  fun s fr => .next s (g fr) (fr.pc + 4)

/-- A K-only instruction (R164). -/
def kOnly (g : State → Frond → FOut) : State → Frond → FOut :=
  fun s fr => if fr.isK then g s fr else .exc s fr 0x02 0 none

/-- A word that no table of opcodes lists raises ILLEGAL (R160, R161, R198). -/
def illegalWord (f : Fin 128) (s : State) : State :=
  runFrond f.val (fun s fr => .exc s fr 0x01 0 none) s

/-! ## Prediction (R178 to R182) -/

/-- Index of a branch's direction counter. -/
def Frond.bpIndex (fr : Frond) : Nat := (bits fr.pc.toNat 13 2) ^^^ fr.hist.toNat

/-- A two-bit counter moves toward the outcome. -/
def bump (c : BitVec 2) (taken : Bool) : BitVec 2 :=
  if taken then (if c = 3 then 3 else c + 1) else (if c = 0 then 0 else c - 1)

/-- A wrong-path instruction may push to or pop from the return stack (R181, R183). -/
def wrongRas (seed : Nat) : Nat → List W64 → List W64
  | 0, r => r
  | n + 1, r =>
    let r := wrongRas seed n r
    match Config.freeNat (seed + n) % 3 with
    | 0 => r
    | 1 => r.drop 1
    | _ => (Config.freeWord (seed + n) :: r).take 16

/-- A misprediction: up to 24 instructions were issued on the wrong path, none under BAR, and are
squashed; they may have moved the return stack (R180 to R184). -/
def mispredict (s : State) (fr : Frond) : State × Frond :=
  if fr.bar then (s, fr)
  else
    let k := Config.wrongPath s.seed % 25
    ({ s with seed := s.seed + k + 1 },
     { fr with iss := fr.iss + BitVec.ofNat 64 k, specx := fr.specx + BitVec.ofNat 64 k,
               ras := wrongRas (s.seed + 1) k fr.ras })

/-- A conditional branch resolves: its counter learns, and the history keeps the prediction when it
was right and is restored when it was wrong (R178). -/
def resolveBranch (taken : Bool) (s : State) (fr : Frond) : State × Frond :=
  let i := fr.bpIndex
  let c := fr.bpc.get 1 i
  let pred := decide (2 ≤ c.toNat)
  let fr' := { fr with bpc := fr.bpc.set 1 i (bump c taken) }
  if pred == taken then
    (s, { fr' with hist := BitVec.ofNat 12 (2 * fr.hist.toNat + (if taken then 1 else 0)) })
  else mispredict s fr'

/-- A push onto the return stack; a full stack loses its oldest entry. -/
def Frond.pushRas (fr : Frond) (a : W64) : Frond := { fr with ras := (a :: fr.ras).take 16 }

end Sys2Proof.Machine
end

