-- ==== Sys2Proof/Machine/Operands.lean ====
section
/-!
DEFINITION. Operand forms of the frond instructions: immediates, scratchpad addresses, vector
elements, masks and active elements (R159, R166, R192 to R197).
-/

namespace Sys2Proof.Machine

/-! ## Scalar -/

/-- IMM16 sign-extended to 64 bits. -/
def immS (i : BitVec 16) : W64 := i.signExtend 64

/-- IMM16 zero-extended to 64 bits. -/
def immZ (i : BitVec 16) : W64 := i.zeroExtend 64

/-- The scratchpad address ga + IMM16 of a load or store, modulo 2^64 (R160; IMM16 is taken as
signed, log 22). -/
def spAddr (fr : Frond) (a : BitVec 5) (i : BitVec 16) : Nat := (fr.gr a + immS i).toNat

/-- The fault of a scalar access of n bytes: alignment, then range, then protection (R165, R166;
order by log 21). -/
def scalarFault (fr : Frond) (addr n : Nat) : Option Nat :=
  if addr % n ≠ 0 then some 0x04 else fr.spFaultN addr n

/-- Target of a branch or jump: a signed count of words from its own address (R159). -/
def target {n : Nat} (pc : W64) (off : BitVec n) : W64 := pc + 4 * off.signExtend 64

/-! ## Vector elements (R188, R192) -/

/-- Width in bits of a width code; .bit is 1. -/
def wBits (w : BitVec 3) : Nat :=
  if w = 0 then 8 else if w = 1 then 16 else if w = 2 then 32 else if w = 3 then 64 else 1

/-- VLMAX of a width code. -/
def vlmax (w : BitVec 3) : Nat :=
  if w = 0 then 512 else if w = 1 then 256 else if w = 2 then 128 else if w = 3 then 64 else 4096

/-- VLMAX of a width in bits. -/
def vlmaxOf (wb : Nat) : Nat := if wb = 1 then 4096 else 4096 / wb

/-- Element e of width wb bits of a register. -/
def elem (v : BitVec 4096) (wb e : Nat) : Nat := (v.toNat >>> (wb * e)) % 2 ^ wb

/-- Adds the elements of a list of values, the first at index e, to a register image. -/
def packElems (wb : Nat) : List Nat → Nat
  | [] => 0
  | x :: t => x % 2 ^ wb + 2 ^ wb * packElems wb t

/-- A register whose elements below n are given by a function, and which keeps every bit above. -/
def buildV (old : BitVec 4096) (wb n : Nat) (g : Nat → Nat) : BitVec 4096 :=
  BitVec.ofNat 4096 (packElems wb ((List.range n).map g) + (old.toNat >>> (wb * n)) <<< (wb * n))

/-- Writes one element. -/
def setElem (v : BitVec 4096) (wb e x : Nat) : BitVec 4096 :=
  BitVec.ofNat 4096 (v.toNat - elem v wb e * 2 ^ (wb * e) + (x % 2 ^ wb) * 2 ^ (wb * e))

/-- The effective length for a width (R193). -/
def effLen (fr : Frond) (w : BitVec 3) : Nat := min fr.vl.toNat (vlmax w)

/-- The mask bit of element e: set when there is no mask operand (R194). -/
def maskBit (fr : Frond) (o : VOps) (e : Nat) : Bool := !o.men || (fr.mr o.msk.toNat).getLsbD e

/-- Whether element e is active (R194). -/
def active (fr : Frond) (o : VOps) (n e : Nat) : Bool :=
  decide (fr.vri.toNat ≤ e) && decide (e < n) && maskBit fr o e

/-- Writes the active elements of vd and leaves every other element as it is (R194). -/
def writeActive (fr : Frond) (o : VOps) (wb n : Nat) (g : Nat → Nat) : Frond :=
  let old := fr.vr o.d.toNat
  fr.setV o.d.toNat (buildV old wb n fun e => if active fr o n e then g e else elem old wb e)

/-- A mask from a function of the element number below n; bits at and above n are 0. -/
def buildM (n : Nat) (g : Nat → Bool) : BitVec 512 :=
  BitVec.ofNat 512 (packElems 1 ((List.range n).map fun e => if g e then 1 else 0))

/-- Writes a destination mask by R195: active bits get the result, masked-off bits from fc.vri to
n − 1 get 0, bits at and above n get 0, bits below fc.vri keep. A bit at or above n that lies below fc.vri keeps: DESIGN CHOICE,
log 175. -/
def writeMask (fr : Frond) (o : VOps) (n : Nat) (g : Nat → Bool) : Frond :=
  let k := o.d.toNat % 8
  let old := fr.mr k
  fr.setM k (buildM 512 fun e =>
    if e < fr.vri.toNat then old.getLsbD e else if e < n then maskBit fr o e && g e else false)

/-! ## Encoding rules (R197) -/

/-- What a field of a vector instruction names. -/
inductive FldUse where
  | unused
  | any
  /-- a mask register: the upper two bits are zero -/
  | mask
  deriving DecidableEq, Repr

/-- A field obeys its use. -/
def FldUse.ok : FldUse → BitVec 5 → Bool
  | .unused, x => decide (x = 0)
  | .any, _ => true
  | .mask, x => decide (x.toNat < 8)

/-- How an instruction uses its fields: d, a, b, whether a mask is admitted, required or not
admitted, and the admitted width codes. -/
structure VForm where
  d : FldUse
  a : FldUse
  b : FldUse
  /-- 0 not admitted, 1 admitted, 2 required -/
  men : Nat
  ws : List (BitVec 3)
  deriving DecidableEq, Repr

/-- The encoding obeys R197; .bit has no mask operand (R192). -/
def VForm.ok (v : VForm) (o : VOps) : Bool :=
  v.d.ok o.d && v.a.ok o.a && v.b.ok o.b &&
  (match v.men with | 0 => !o.men | 1 => true | _ => o.men) &&
  (o.men || decide (o.msk = 0)) && v.ws.contains o.w && !(decide (o.w = 4) && o.men)

def wInt : List (BitVec 3) := [0, 1, 2, 3]
def wAll : List (BitVec 3) := [0, 1, 2, 3, 4]
def wFp : List (BitVec 3) := [2, 3]
def wD : List (BitVec 3) := [3]

/-- A vector instruction that touches only the frond: an encoding that breaks R197 raises ILLEGAL, and
fc.vri is 0 when it completes (R196). -/
def vecOp (v : VForm) (o : VOps) (g : Frond → Frond) : State → Frond → FOut :=
  fun s fr =>
    if v.ok o then .next s { g fr with vri := 0 } (fr.pc + 4) else .exc s fr 0x01 0 none

end Sys2Proof.Machine
end

