-- ==== Sys2Proof/Machine/Flags.lean ====
section
/-!
DEFINITION. Comparisons, overflow tests and sticky flags: the conditions that branches, the vector
compares (R200) and the floating-point instructions (R156, R201) compute.
-/

namespace Sys2Proof.Machine

/-! ## Conditions -/

/-- The condition of BR (R160): COND 0 EQ, 1 NE, 2 LT, 3 GE, 4 LTU, 5 GEU; none for any other. -/
def brCond (c : BitVec 5) (x y : W64) : Option Bool :=
  match c.toNat with
  | 0 => some (x == y)
  | 1 => some (x != y)
  | 2 => some (x.slt y)
  | 3 => some (!x.slt y)
  | 4 => some (x.ult y)
  | 5 => some (!x.ult y)
  | _ => none

/-- An exact integer lies outside the signed range of n bits. -/
def ovSigned (n : Nat) (i : Int) : Bool :=
  decide (i < -(2 : Int) ^ (n - 1)) || decide ((2 : Int) ^ (n - 1) ≤ i)

/-- An exact integer lies outside the unsigned range of n bits. -/
def ovUnsigned (n : Nat) (i : Int) : Bool := decide (i < 0) || decide ((2 : Int) ^ n ≤ i)

/-- The minor opcodes of VCMP and VCMPX on n-bit operands (R200). -/
def vcmpTest (fn n x y : Nat) : Option Bool :=
  let a := toSigned n x
  let b := toSigned n y
  match fn with
  | 0 => some (decide (x = y))
  | 1 => some (decide (x ≠ y))
  | 2 => some (decide (a < b))
  | 3 => some (decide (b ≤ a))
  | 4 => some (decide (x < y))
  | 5 => some (decide (y ≤ x))
  | 6 => some (ovSigned n (a + b))
  | 7 => some (ovSigned n (a - b))
  | 8 => some (ovSigned n (a * b))
  | 9 => some (ovUnsigned n ((x : Int) + y))
  | 10 => some (ovUnsigned n ((x : Int) - y))
  | 11 => some (ovUnsigned n ((x : Int) * y))
  | _ => none

/-- PRED of a code descriptor (R208): 6 and 7 give no set bit. -/
def codePred (p x c : Nat) : Bool :=
  match p with
  | 0 => decide (x = c)
  | 1 => decide (x ≠ c)
  | 2 => decide (x < c)
  | 3 => decide (x ≤ c)
  | 4 => decide (c < x)
  | 5 => decide (c ≤ x)
  | _ => false

/-! ## Sticky flags -/

/-- A floating-point result into fd with its flags (R155, R156). -/
def Frond.fpResult (fr : Frond) (d : BitVec 5) (r : Nat × FFlags) : Frond := (fr.setF d r.1).raise r.2

/-- A comparison result into gd with its flags. -/
def Frond.fpTest (fr : Frond) (d : BitVec 5) (r : Bool × FFlags) : Frond :=
  (fr.setG d (if r.1 then 1 else 0)).raise r.2

/-- The union of the flags of a list of results. -/
def flagsOf {α : Type} : List (α × FFlags) → FFlags
  | [] => 0
  | r :: t => r.2 ||| flagsOf t

end Sys2Proof.Machine
end

