-- ==== Sys2Proof/Machine/FrondScalar.lean ====
section
/-!
DEFINITION. The scalar instructions of the frond core (R160 to R185): one meaning per row. The row is
the event that the core executes the instruction at fc's next address; the model does not compare the
row with the word that scratchpad holds there (log 29).
-/

namespace Sys2Proof.Machine

/-! ## Register and immediate operations (R160, R161, R162) -/

/-- ADDI: gd = ga + IMM16 sign-extended. -/
def execAddi (f : Fin 128) (d a : BitVec 5) (imm : BitVec 16) (s : State) : Host.Outcome State Fault Refusal :=
  .next (runFrond f.val (pureOp fun fr => fr.setG d (fr.gr a + immS imm)) s)

/-- ANDI: gd = ga and IMM16 zero-extended. -/
def execAndi (f : Fin 128) (d a : BitVec 5) (imm : BitVec 16) (s : State) : Host.Outcome State Fault Refusal :=
  .next (runFrond f.val (pureOp fun fr => fr.setG d (fr.gr a &&& immZ imm)) s)

/-- ORI: gd = ga or IMM16 zero-extended. -/
def execOri (f : Fin 128) (d a : BitVec 5) (imm : BitVec 16) (s : State) : Host.Outcome State Fault Refusal :=
  .next (runFrond f.val (pureOp fun fr => fr.setG d (fr.gr a ||| immZ imm)) s)

/-- XORI: gd = ga xor IMM16 zero-extended. -/
def execXori (f : Fin 128) (d a : BitVec 5) (imm : BitVec 16) (s : State) : Host.Outcome State Fault Refusal :=
  .next (runFrond f.val (pureOp fun fr => fr.setG d (fr.gr a ^^^ immZ imm)) s)

/-- LUI: gd = IMM16 << 16, sign-extended from bit 31. -/
def execLui (f : Fin 128) (d : BitVec 5) (imm : BitVec 16) (s : State) : Host.Outcome State Fault Refusal :=
  .next (runFrond f.val (pureOp fun fr => fr.setG d ((imm ++ (0 : BitVec 16)).signExtend 64)) s)

/-- The shift that IMM16[7:6] of SHI selects: SLL, SRL, SRA, ROL. -/
def shiftBy (kind : Nat) (x : W64) (n : Nat) : W64 :=
  match kind with
  | 0 => x <<< n
  | 1 => x >>> n
  | 2 => x.sshiftRight n
  | _ => x.rotateLeft n

/-- SHI: IMM16[7:6] selects SLL, SRL, SRA or ROL; IMM16[5:0] is the amount. -/
def execShi (f : Fin 128) (d a : BitVec 5) (imm : BitVec 16) (s : State) : Host.Outcome State Fault Refusal :=
  .next (runFrond f.val (pureOp fun fr => fr.setG d (shiftBy (field imm 7 6) (fr.gr a) (field imm 5 0))) s)

/-- SLTI: gd = 1 when ga < IMM16 sign-extended, signed. -/
def execSlti (f : Fin 128) (d a : BitVec 5) (imm : BitVec 16) (s : State) : Host.Outcome State Fault Refusal :=
  .next (runFrond f.val (pureOp fun fr => fr.setG d (if (fr.gr a).slt (immS imm) then 1 else 0)) s)

/-- add: gd = ga + gb, modulo 2^64. -/
def execAdd (f : Fin 128) (d a b : BitVec 5) (s : State) : Host.Outcome State Fault Refusal :=
  .next (runFrond f.val (pureOp fun fr => fr.setG d (fr.gr a + fr.gr b)) s)

/-- sub: gd = ga − gb, modulo 2^64. -/
def execSub (f : Fin 128) (d a b : BitVec 5) (s : State) : Host.Outcome State Fault Refusal :=
  .next (runFrond f.val (pureOp fun fr => fr.setG d (fr.gr a - fr.gr b)) s)

/-- and. -/
def execOpAnd (f : Fin 128) (d a b : BitVec 5) (s : State) : Host.Outcome State Fault Refusal :=
  .next (runFrond f.val (pureOp fun fr => fr.setG d (fr.gr a &&& fr.gr b)) s)

/-- or. -/
def execOpOr (f : Fin 128) (d a b : BitVec 5) (s : State) : Host.Outcome State Fault Refusal :=
  .next (runFrond f.val (pureOp fun fr => fr.setG d (fr.gr a ||| fr.gr b)) s)

/-- xor. -/
def execOpXor (f : Fin 128) (d a b : BitVec 5) (s : State) : Host.Outcome State Fault Refusal :=
  .next (runFrond f.val (pureOp fun fr => fr.setG d (fr.gr a ^^^ fr.gr b)) s)

/-- The amount of a shift by register: bits [5:0] of gb (R161). -/
def shAmt (x : W64) : Nat := field x 5 0

/-- sll. -/
def execSll (f : Fin 128) (d a b : BitVec 5) (s : State) : Host.Outcome State Fault Refusal :=
  .next (runFrond f.val (pureOp fun fr => fr.setG d (shiftBy 0 (fr.gr a) (shAmt (fr.gr b)))) s)

/-- srl. -/
def execSrl (f : Fin 128) (d a b : BitVec 5) (s : State) : Host.Outcome State Fault Refusal :=
  .next (runFrond f.val (pureOp fun fr => fr.setG d (shiftBy 1 (fr.gr a) (shAmt (fr.gr b)))) s)

/-- sra. -/
def execSra (f : Fin 128) (d a b : BitVec 5) (s : State) : Host.Outcome State Fault Refusal :=
  .next (runFrond f.val (pureOp fun fr => fr.setG d (shiftBy 2 (fr.gr a) (shAmt (fr.gr b)))) s)

/-- slt: gd = 1 when ga < gb, signed. -/
def execSlt (f : Fin 128) (d a b : BitVec 5) (s : State) : Host.Outcome State Fault Refusal :=
  .next (runFrond f.val (pureOp fun fr => fr.setG d (if (fr.gr a).slt (fr.gr b) then 1 else 0)) s)

/-- sltu: gd = 1 when ga < gb, unsigned. -/
def execSltu (f : Fin 128) (d a b : BitVec 5) (s : State) : Host.Outcome State Fault Refusal :=
  .next (runFrond f.val (pureOp fun fr => fr.setG d (if (fr.gr a).ult (fr.gr b) then 1 else 0)) s)

/-- min, signed. -/
def execMinS (f : Fin 128) (d a b : BitVec 5) (s : State) : Host.Outcome State Fault Refusal :=
  .next (runFrond f.val (pureOp fun fr => fr.setG d (if (fr.gr b).slt (fr.gr a) then fr.gr b else fr.gr a)) s)

/-- max, signed. -/
def execMaxS (f : Fin 128) (d a b : BitVec 5) (s : State) : Host.Outcome State Fault Refusal :=
  .next (runFrond f.val (pureOp fun fr => fr.setG d (if (fr.gr a).slt (fr.gr b) then fr.gr b else fr.gr a)) s)

/-- minu, unsigned. -/
def execMinU (f : Fin 128) (d a b : BitVec 5) (s : State) : Host.Outcome State Fault Refusal :=
  .next (runFrond f.val (pureOp fun fr => fr.setG d (if (fr.gr b).ult (fr.gr a) then fr.gr b else fr.gr a)) s)

/-- maxu, unsigned. -/
def execMaxU (f : Fin 128) (d a b : BitVec 5) (s : State) : Host.Outcome State Fault Refusal :=
  .next (runFrond f.val (pureOp fun fr => fr.setG d (if (fr.gr a).ult (fr.gr b) then fr.gr b else fr.gr a)) s)

/-- Leading zeros of a 64-bit word; 64 for zero. -/
def clz64 (x : W64) : Nat := 64 - bitLen x.toNat

/-- Trailing zeros, counted from bit n upward within k bits. -/
def ctzFrom (x : W64) (n : Nat) : Nat → Nat
  | 0 => n
  | k + 1 => if x.getLsbD n then n else ctzFrom x (n + 1) k

/-- Trailing zeros of a 64-bit word; 64 for zero. -/
def ctz64 (x : W64) : Nat := ctzFrom x 0 64

/-- Set bits among the n lowest bits of a number. -/
def popCount (x : Nat) : Nat → Nat
  | 0 => 0
  | n + 1 => popCount x n + (if x.testBit n then 1 else 0)

/-- clz: leading zeros of ga. -/
def execClz (f : Fin 128) (d a : BitVec 5) (s : State) : Host.Outcome State Fault Refusal :=
  .next (runFrond f.val (pureOp fun fr => fr.setG d (BitVec.ofNat 64 (clz64 (fr.gr a)))) s)

/-- ctz: trailing zeros of ga. -/
def execCtz (f : Fin 128) (d a : BitVec 5) (s : State) : Host.Outcome State Fault Refusal :=
  .next (runFrond f.val (pureOp fun fr => fr.setG d (BitVec.ofNat 64 (ctz64 (fr.gr a)))) s)

/-- popc: set bits of ga. -/
def execPopc (f : Fin 128) (d a : BitVec 5) (s : State) : Host.Outcome State Fault Refusal :=
  .next (runFrond f.val (pureOp fun fr => fr.setG d (BitVec.ofNat 64 (popCount (fr.gr a).toNat 64))) s)

/-- bswap: the bytes of ga in reverse order. -/
def execBswap (f : Fin 128) (d a : BitVec 5) (s : State) : Host.Outcome State Fault Refusal :=
  .next (runFrond f.val (pureOp fun fr => fr.setG d (BitVec.ofNat 64 (leNat (leBytes (fr.gr a).toNat 8).reverse))) s)

/-- mul: the low 64 bits of the product. -/
def execMulLo (f : Fin 128) (d a b : BitVec 5) (s : State) : Host.Outcome State Fault Refusal :=
  .next (runFrond f.val (pureOp fun fr => fr.setG d (fr.gr a * fr.gr b)) s)

/-- mulh: the high 64 bits of the signed product. -/
def execMulh (f : Fin 128) (d a b : BitVec 5) (s : State) : Host.Outcome State Fault Refusal :=
  .next (runFrond f.val (pureOp fun fr => fr.setG d (BitVec.ofInt 64 ((fr.gr a).toInt * (fr.gr b).toInt / 2 ^ 64))) s)

/-- mulhu: the high 64 bits of the unsigned product. -/
def execMulhu (f : Fin 128) (d a b : BitVec 5) (s : State) : Host.Outcome State Fault Refusal :=
  .next (runFrond f.val (pureOp fun fr => fr.setG d (BitVec.ofNat 64 ((fr.gr a).toNat * (fr.gr b).toNat / 2 ^ 64))) s)

/-- Truncating signed division with the corners of R162. -/
def divSigned (x y : W64) : W64 := if y = 0 then -1 else BitVec.ofInt 64 (x.toInt.tdiv y.toInt)

/-- The remainder of truncating signed division with the corners of R162. -/
def remSigned (x y : W64) : W64 := if y = 0 then x else BitVec.ofInt 64 (x.toInt.tmod y.toInt)

/-- div: truncating; by zero gives all ones, −2^63 by −1 gives −2^63. -/
def execDivS (f : Fin 128) (d a b : BitVec 5) (s : State) : Host.Outcome State Fault Refusal :=
  .next (runFrond f.val (pureOp fun fr => fr.setG d (divSigned (fr.gr a) (fr.gr b))) s)

/-- divu: by zero gives all ones. -/
def execDivu (f : Fin 128) (d a b : BitVec 5) (s : State) : Host.Outcome State Fault Refusal :=
  .next (runFrond f.val (pureOp fun fr => fr.setG d (if fr.gr b = 0 then -1 else fr.gr a / fr.gr b)) s)

/-- rem: by zero gives the dividend, −2^63 by −1 gives 0. -/
def execRem (f : Fin 128) (d a b : BitVec 5) (s : State) : Host.Outcome State Fault Refusal :=
  .next (runFrond f.val (pureOp fun fr => fr.setG d (remSigned (fr.gr a) (fr.gr b))) s)

/-- remu: by zero gives the dividend. -/
def execRemu (f : Fin 128) (d a b : BitVec 5) (s : State) : Host.Outcome State Fault Refusal :=
  .next (runFrond f.val (pureOp fun fr => fr.setG d (if fr.gr b = 0 then fr.gr a else fr.gr a % fr.gr b)) s)

/-! ## Scratchpad loads and stores (R165, R166) -/

/-- A scalar load of n bytes: an address that fails its check raises, else g receives the value. -/
def loadOp (a : BitVec 5) (imm : BitVec 16) (n : Nat) (g : Nat → Frond → Frond) : State → Frond → FOut :=
  fun s fr =>
    let addr := spAddr fr a imm
    match scalarFault fr addr n with
    | some c => .exc s fr c 0 (some addr)
    | none => .next s (g (fr.spNat addr n) fr) (fr.pc + 4)

/-- A scalar store of n bytes. -/
def storeOp (a : BitVec 5) (imm : BitVec 16) (n : Nat) (v : Frond → Nat) : State → Frond → FOut :=
  fun s fr =>
    let addr := spAddr fr a imm
    match scalarFault fr addr n with
    | some c => .exc s fr c 0 (some addr)
    | none => .next s (fr.spStore addr (leBytes (v fr) n)) (fr.pc + 4)

/-- The sign-extended value of n bytes. -/
def sext (n x : Nat) : W64 := BitVec.ofInt 64 (toSigned (8 * n) x)

/-- ld.b: sign-extended. -/
def execLdB (f : Fin 128) (d a : BitVec 5) (imm : BitVec 16) (s : State) : Host.Outcome State Fault Refusal :=
  .next (runFrond f.val (loadOp a imm 1 fun x fr => fr.setG d (sext 1 x)) s)

/-- ld.h: sign-extended. -/
def execLdH (f : Fin 128) (d a : BitVec 5) (imm : BitVec 16) (s : State) : Host.Outcome State Fault Refusal :=
  .next (runFrond f.val (loadOp a imm 2 fun x fr => fr.setG d (sext 2 x)) s)

/-- ld.w: sign-extended. -/
def execLdW (f : Fin 128) (d a : BitVec 5) (imm : BitVec 16) (s : State) : Host.Outcome State Fault Refusal :=
  .next (runFrond f.val (loadOp a imm 4 fun x fr => fr.setG d (sext 4 x)) s)

/-- ld.d: sign-extended. -/
def execLdD (f : Fin 128) (d a : BitVec 5) (imm : BitVec 16) (s : State) : Host.Outcome State Fault Refusal :=
  .next (runFrond f.val (loadOp a imm 8 fun x fr => fr.setG d (sext 8 x)) s)

/-- ldu.b: zero-extended. -/
def execLduB (f : Fin 128) (d a : BitVec 5) (imm : BitVec 16) (s : State) : Host.Outcome State Fault Refusal :=
  .next (runFrond f.val (loadOp a imm 1 fun x fr => fr.setG d (BitVec.ofNat 64 x)) s)

/-- ldu.h: zero-extended. -/
def execLduH (f : Fin 128) (d a : BitVec 5) (imm : BitVec 16) (s : State) : Host.Outcome State Fault Refusal :=
  .next (runFrond f.val (loadOp a imm 2 fun x fr => fr.setG d (BitVec.ofNat 64 x)) s)

/-- ldu.w: zero-extended. -/
def execLduW (f : Fin 128) (d a : BitVec 5) (imm : BitVec 16) (s : State) : Host.Outcome State Fault Refusal :=
  .next (runFrond f.val (loadOp a imm 4 fun x fr => fr.setG d (BitVec.ofNat 64 x)) s)

/-- st.b: stores gd. -/
def execStB (f : Fin 128) (d a : BitVec 5) (imm : BitVec 16) (s : State) : Host.Outcome State Fault Refusal :=
  .next (runFrond f.val (storeOp a imm 1 fun fr => (fr.gr d).toNat) s)

/-- st.h: stores gd. -/
def execStH (f : Fin 128) (d a : BitVec 5) (imm : BitVec 16) (s : State) : Host.Outcome State Fault Refusal :=
  .next (runFrond f.val (storeOp a imm 2 fun fr => (fr.gr d).toNat) s)

/-- st.w: stores gd. -/
def execStW (f : Fin 128) (d a : BitVec 5) (imm : BitVec 16) (s : State) : Host.Outcome State Fault Refusal :=
  .next (runFrond f.val (storeOp a imm 4 fun fr => (fr.gr d).toNat) s)

/-- st.d: stores gd. -/
def execStD (f : Fin 128) (d a : BitVec 5) (imm : BitVec 16) (s : State) : Host.Outcome State Fault Refusal :=
  .next (runFrond f.val (storeOp a imm 8 fun fr => (fr.gr d).toNat) s)

/-- fld.s: bits [31:0] from scratchpad, bits [63:32] zero (R155, log 30). -/
def execFldS (f : Fin 128) (d a : BitVec 5) (imm : BitVec 16) (s : State) : Host.Outcome State Fault Refusal :=
  .next (runFrond f.val (loadOp a imm 4 fun x fr => fr.setF d x) s)

/-- fld.d. -/
def execFldD (f : Fin 128) (d a : BitVec 5) (imm : BitVec 16) (s : State) : Host.Outcome State Fault Refusal :=
  .next (runFrond f.val (loadOp a imm 8 fun x fr => fr.setF d x) s)

/-- fst.s: bits [31:0] of fd. -/
def execFstS (f : Fin 128) (d a : BitVec 5) (imm : BitVec 16) (s : State) : Host.Outcome State Fault Refusal :=
  .next (runFrond f.val (storeOp a imm 4 fun fr => fr.fpr d) s)

/-- fst.d. -/
def execFstD (f : Fin 128) (d a : BitVec 5) (imm : BitVec 16) (s : State) : Host.Outcome State Fault Refusal :=
  .next (runFrond f.val (storeOp a imm 8 fun fr => fr.fpr d) s)

/-! ## Branches and jumps (R160, R178 to R181) -/

/-- BR: COND above 5 raises ILLEGAL. -/
def execBr (f : Fin 128) (cond a b : BitVec 5) (off : BitVec 11) (s : State) : Host.Outcome State Fault Refusal :=
  .next (runFrond f.val (fun s fr =>
    match brCond cond (fr.gr a) (fr.gr b) with
    | none => .exc s fr 0x01 0 none
    | some t =>
      let r := resolveBranch t s fr
      .next r.1 r.2 (if t then target fr.pc off else fr.pc + 4)) s)

/-- j. -/
def execJ (f : Fin 128) (off : BitVec 26) (s : State) : Host.Outcome State Fault Refusal :=
  .next (runFrond f.val (fun s fr => .next s fr (target fr.pc off)) s)

/-- jl: g31 = address + 4; the return stack is pushed. -/
def execJl (f : Fin 128) (off : BitVec 26) (s : State) : Host.Outcome State Fault Refusal :=
  .next (runFrond f.val (fun s fr =>
    .next s ((fr.setG 31 (fr.pc + 4)).pushRas (fr.pc + 4)) (target fr.pc off)) s)

/-- jr: to ga; with a = 31 the return stack is popped and its prediction checked (R178, R181). -/
def execJr (f : Fin 128) (a : BitVec 5) (s : State) : Host.Outcome State Fault Refusal :=
  .next (runFrond f.val (fun s fr =>
    let t := fr.gr a
    if a = 31 then
      let pred := fr.ras.head?.getD (fr.pc + 4)
      let fr' := { fr with ras := fr.ras.drop 1 }
      if pred = t then .next s fr' t
      else
        let r := mispredict s fr'
        .next r.1 r.2 t
    else .next s fr t) s)

/-- jlr: gd = address + 4, to ga; with d = 31 the return stack is pushed. -/
def execJlr (f : Fin 128) (d a : BitVec 5) (s : State) : Host.Outcome State Fault Refusal :=
  .next (runFrond f.val (fun s fr =>
    let t := fr.gr a
    let fr' := fr.setG d (fr.pc + 4)
    .next s (if d = 31 then fr'.pushRas (fr.pc + 4) else fr') t) s)

/-! ## Floating point (R156, R160) -/

/-- The operation of a number given by `Config.fpSelect` (log 5); none above 17. -/
def fpOperation (n : Nat) (d a b : BitVec 5) (fr : Frond) : Option Frond :=
  let rm := fr.frm.toNat
  let dbl := decide (n % 2 = 1)
  let f := fmtOf dbl
  let x := fr.fpv dbl a
  let y := fr.fpv dbl b
  match n / 2 with
  | 0 => some (fr.fpResult d (fpAdd f rm x y))
  | 1 => some (fr.fpResult d (fpSub f rm x y))
  | 2 => some (fr.fpResult d (fpMul f rm x y))
  | 3 => some (fr.fpResult d (fpDiv f rm x y))
  | 4 => some (fr.fpResult d (fpSqrt f rm x))
  | 5 => some (fr.fpTest d (fpEq f x y))
  | 6 => some (fr.fpTest d (fpLt f false x y))
  | 7 => some (fr.fpTest d (fpLt f true x y))
  | 8 => if dbl then some (fr.fpResult d (fpConvert binary64 binary32 rm (fr.fpv true a)))
         else some (fr.fpResult d (fpConvert binary32 binary64 rm (fr.fpv false a)))
  | _ => none

/-- FP: the minor opcode's operation. The spec gives no table of its codes, so which operation a code
selects is free (log 5); an operation that the model does not number writes a free value to fd and
free flags. A code that selects none raises ILLEGAL. -/
def execFp (f : Fin 128) (d a b : BitVec 5) (fn : BitVec 11) (s : State) : Host.Outcome State Fault Refusal :=
  .next (runFrond f.val (fun s fr =>
    match Config.fpSelect fn with
    | none => .exc s fr 0x01 0 none
    | some n =>
      match fpOperation n d a b fr with
      | some fr' => .next s fr' (fr.pc + 4)
      | none =>
        let v := s.freshWord
        let w := v.2.freshWord
        .next w.2 ((fr.setF d v.1.toNat).raise (BitVec.ofNat 5 w.1.toNat)) (fr.pc + 4)) s)

/-- A fused multiply-add: `np` negates the product, `nc` the addend; rounded once. -/
def fmaOp (np nc : Bool) (d a b c : BitVec 5) (dbl : Bool) : State → Frond → FOut :=
  pureOp fun fr =>
    let f := fmtOf dbl
    let x := fr.fpv dbl a
    let z := fr.fpv dbl c
    fr.fpResult d (fpFma f fr.frm.toNat (if np then fpNeg f x else x) (fr.fpv dbl b)
      (if nc then fpNeg f z else z))

/-- fmadd: fd = a × b + c. -/
def execFmadd (f : Fin 128) (d a b c : BitVec 5) (dbl : Bool) (s : State) : Host.Outcome State Fault Refusal :=
  .next (runFrond f.val (fmaOp false false d a b c dbl) s)

/-- fmsub: fd = a × b − c. -/
def execFmsub (f : Fin 128) (d a b c : BitVec 5) (dbl : Bool) (s : State) : Host.Outcome State Fault Refusal :=
  .next (runFrond f.val (fmaOp false true d a b c dbl) s)

/-- fnmadd: the product negated; the sign of c by `Config.fnmSubtracts` (log 28). -/
def execFnmadd (f : Fin 128) (d a b c : BitVec 5) (dbl : Bool) (s : State) : Host.Outcome State Fault Refusal :=
  .next (runFrond f.val (fmaOp true Config.fnmSubtracts d a b c dbl) s)

/-- fnmsub: the product negated; the other sign of c (log 28). -/
def execFnmsub (f : Fin 128) (d a b c : BitVec 5) (dbl : Bool) (s : State) : Host.Outcome State Fault Refusal :=
  .next (runFrond f.val (fmaOp true (!Config.fnmSubtracts) d a b c dbl) s)

end Sys2Proof.Machine
end

