-- ==== Sys2Proof/Machine/FrondSystem.lean ====
section
/-!
DEFINITION. System, control-register, stream-unit and hand-off instructions of the frond core (R157 to
R164, R167 to R171, R174, R179, R180), and the events that reach a frond from outside (R158, R170,
R175, R177).
-/

namespace Sys2Proof.Machine

/-! ## Control registers (R157, R191) -/

/-- Access of a level to a control register. -/
inductive CrAcc where
  | none | ro | rw
  deriving DecidableEq, Repr

/-- The table of R157 and R191: access at P and at K; none for a number not in it. -/
def crAccess (n : Nat) : Option (CrAcc × CrAcc) :=
  match n with
  | 0x000 => some (.ro, .rw)
  | 0x001 => some (.ro, .rw)
  | 0x002 => some (.none, .rw)
  | 0x003 => some (.none, .rw)
  | 0x004 => some (.none, .rw)
  | 0x005 => some (.none, .rw)
  | 0x006 => some (.none, .rw)
  | 0x008 => some (.ro, .rw)
  | 0x009 => some (.ro, .ro)
  | 0x00A => some (.none, .rw)
  | 0x00B => some (.none, .rw)
  | 0x00C => some (.none, .rw)
  | 0x010 => some (.ro, .rw)
  | 0x018 => some (.rw, .rw)
  | 0x019 => some (.rw, .rw)
  | 0x020 => some (.rw, .rw)
  | 0x021 => some (.rw, .rw)
  | 0x022 => some (.rw, .rw)
  | 0x030 => some (.ro, .rw)
  | 0x031 => some (.ro, .rw)
  | 0x032 => some (.ro, .rw)
  | 0x033 => some (.ro, .rw)
  | 0x034 => some (.none, .rw)
  | _ => none

/-- The access that the frond's level has. -/
def crLevel (fr : Frond) (a : CrAcc × CrAcc) : CrAcc := if fr.isK then a.2 else a.1

/-- The value of control register n of frond f; unlisted numbers are not read. -/
def crRead (f : Nat) (fr : Frond) (n : Nat) : W64 :=
  match n with
  | 0x000 => fr.status
  | 0x001 => fr.cause
  | 0x002 => fr.epc
  | 0x003 => fr.tval
  | 0x004 => fr.evec
  | 0x005 => fr.kscr0
  | 0x006 => fr.kscr1
  | 0x008 => fr.inst.zeroExtend 64
  | 0x009 => BitVec.ofNat 64 f
  | 0x00A => fr.cbase.zeroExtend 64
  | 0x00B => fr.clim.zeroExtend 64
  | 0x00C => fr.wlim.zeroExtend 64
  | 0x010 => fr.bpctl
  | 0x018 => fr.fflags.zeroExtend 64
  | 0x019 => fr.frm.zeroExtend 64
  | 0x020 => fr.vl.zeroExtend 64
  | 0x021 => fr.vri.zeroExtend 64
  | 0x022 => fr.ew.zeroExtend 64
  | 0x030 => fr.cyc
  | 0x031 => fr.ret
  | 0x032 => fr.iss
  | 0x033 => fr.specx
  | 0x034 => fr.budget
  | _ => 0

/-- A write of fc.vl: above VLMAX of fc.ew it is stored as VLMAX (R191; bits [63:13] are ignored, log
31). -/
def Frond.setVl (fr : Frond) (x : Nat) : Frond := { fr with vl := BitVec.ofNat 13 (min (x % 2 ^ 13) (vlmax fr.ew)) }

/-- A write of fc.ew: 5 to 7 is ignored; one that lowers VLMAX lowers VL (R191). -/
def Frond.setEw (fr : Frond) (x : BitVec 3) : Frond :=
  if 4 < x.toNat then fr else { fr with ew := x, vl := BitVec.ofNat 13 (min fr.vl.toNat (vlmax x)) }

/-- Writes control register n; read-only bits keep their values. -/
def crWrite (fr : Frond) (n : Nat) (x : W64) : Frond :=
  match n with
  | 0x000 => { fr with status := (fr.status &&& 0xFFFFFFFFFFFFFF37) ||| (x &&& 0xC8) }
  | 0x001 => { fr with cause := x &&& 0x800000000000FFFF }
  | 0x002 => { fr with epc := x }
  | 0x003 => { fr with tval := x }
  | 0x004 => { fr with evec := x }
  | 0x005 => { fr with kscr0 := x }
  | 0x006 => { fr with kscr1 := x }
  | 0x008 => { fr with inst := x.truncate 8 }
  | 0x00A => { fr with cbase := x.truncate 32 }
  | 0x00B => { fr with clim := x.truncate 32 }
  | 0x00C => { fr with wlim := x.truncate 32 }
  | 0x010 => { fr with bpctl := x &&& 3 }
  | 0x018 => { fr with fflags := x.truncate 5 }
  | 0x019 => { fr with frm := x.truncate 2 }
  | 0x020 => fr.setVl x.toNat
  | 0x021 => { fr with vri := x.truncate 13 }
  | 0x022 => fr.setEw (x.truncate 3)
  | 0x030 => { fr with cyc := x }
  | 0x031 => { fr with ret := x }
  | 0x032 => { fr with iss := x }
  | 0x033 => { fr with specx := x }
  | 0x034 => { fr with budget := x }
  | _ => fr

/-- fcrd: IMM16[15:11] must be zero (R160); a number not in the table raises ILLEGAL, a denied access
PRIV (R157). -/
def execFcrd (f : Fin 128) (d : BitVec 5) (imm : BitVec 16) (s : State) : Host.Outcome State Fault Refusal :=
  .next (runFrond f.val (fun s fr =>
    match crAccess imm.toNat with
    | none => .exc s fr 0x01 0 none
    | some a =>
      if crLevel fr a = .none then .exc s fr 0x02 0 none
      else .next s (fr.setG d (crRead f.val fr imm.toNat)) (fr.pc + 4)) s)

/-- fcwr: the register number is IMM16[10:0]. -/
def execFcwr (f : Fin 128) (a : BitVec 5) (imm : BitVec 16) (s : State) : Host.Outcome State Fault Refusal :=
  .next (runFrond f.val (fun s fr =>
    match crAccess (field imm 10 0) with
    | none => .exc s fr 0x01 0 none
    | some acc =>
      if crLevel fr acc = .rw then .next s (crWrite fr (field imm 10 0) (fr.gr a)) (fr.pc + 4)
      else .exc s fr 0x02 0 none) s)

/-! ## System operations (R161, R164, R174, R179, R180) -/

/-- trap: DETAIL is field b. -/
def execTrap (f : Fin 128) (b : BitVec 5) (s : State) : Host.Outcome State Fault Refusal :=
  .next (runFrond f.val (fun s fr => .exc s fr 0x0C b.toNat none) s)

/-- eret: PPRIV to PRIV, EXL cleared, predictor flushed, fetch from fc.epc (R174). -/
def Frond.doEret (fr : Frond) : Frond :=
  Frond.flush { fr with status := statusOf false fr.ie (fr.status.getLsbD 3) (fr.status.getLsbD 3) }

/-- eret; K only. -/
def execEret (f : Fin 128) (s : State) : Host.Outcome State Fault Refusal :=
  .next (runFrond f.val (kOnly fun s fr => .next s fr.doEret fr.epc) s)

/-- fence: older scratchpad stores become visible to later PUT requests (R171). -/
def execFence (f : Fin 128) (s : State) : Host.Outcome State Fault Refusal :=
  .next (runFrond f.val (pureOp fun fr => { fr with unfenced := [] }) s)

/-- wfe: waits until a hand-off or stream event has come; K only. -/
def execWfe (f : Fin 128) (s : State) : Host.Outcome State Fault Refusal :=
  .next (runFrond f.val (kOnly fun s fr =>
    if fr.event then .next s { fr with event := false } (fr.pc + 4) else .stall) s)

/-- A bp.* instruction: K only unless fc.bpctl.PEN is set (R164). -/
def bpOnly (g : Frond → Frond) : State → Frond → FOut :=
  fun s fr => if fr.isK || fr.pen then .next s (g fr) (fr.pc + 4) else .exc s fr 0x02 0 none

/-- bp.flush (R179). -/
def execBpFlush (f : Fin 128) (s : State) : Host.Outcome State Fault Refusal :=
  .next (runFrond f.val (bpOnly Frond.flush) s)

/-- bp.bar sets fc.bpctl.BAR. -/
def execBpBar (f : Fin 128) (s : State) : Host.Outcome State Fault Refusal :=
  .next (runFrond f.val (bpOnly fun fr => { fr with bpctl := fr.bpctl ||| 2 }) s)

/-- bp.unbar clears fc.bpctl.BAR. -/
def execBpUnbar (f : Fin 128) (s : State) : Host.Outcome State Fault Refusal :=
  .next (runFrond f.val (bpOnly fun fr => { fr with bpctl := fr.bpctl &&& 0xFFFFFFFFFFFFFFFD }) s)

/-- spclr; K only (R167). -/
def execSpclr (f : Fin 128) (s : State) : Host.Outcome State Fault Refusal :=
  .next (runFrond f.val (kOnly fun s fr => .next s fr.spclr (fr.pc + 4)) s)

/-! ## Stream unit (R164, R168 to R171) -/

/-- The descriptor at a scratchpad address, as fields of R168. -/
structure StreamDesc where
  space : Nat
  dir : Nat
  spaddr : Nat
  remote : Nat
  len : Nat
  resv : Nat
  deriving DecidableEq, Repr

def readDesc (fr : Frond) (a : Nat) : StreamDesc :=
  { space := fr.spNat a 1, dir := fr.spNat (a + 1) 1, spaddr := fr.spNat (a + 4) 4,
    remote := fr.spNat (a + 8) 8, len := fr.spNat (a + 16) 4,
    resv := fr.spNat (a + 2) 2 + fr.spNat (a + 20) 12 }

/-- [a, a + n) may be a descriptor or a buffer at the frond's level: at P level within the working
region below fc.wlim, at K level within the scratchpad (R168; the lower bound of a P buffer, log 32). -/
def Frond.spOpen (fr : Frond) (a n : Nat) : Bool :=
  if fr.isK then decide (a + n ≤ spTop)
  else decide (spBase ≤ a) && decide (a + n ≤ fr.wlim.toNat) && decide (a + n ≤ spRuntime)

/-- The descriptor obeys the rules of R168. -/
def StreamDesc.ok (d : StreamDesc) (fr : Frond) : Bool :=
  decide (d.space ≤ 2) && decide (d.dir ≤ 1) && decide (d.resv = 0) && decide (d.spaddr % 8 = 0) &&
  fr.spOpen d.spaddr d.len && decide (8 ≤ d.len) && decide (d.len ≤ 65536) && decide (d.len % 8 = 0) &&
  (decide (d.space ≠ 0) || (decide (d.remote < 2 ^ 48) && decide (d.remote % 8 = 0)))

/-- The bytes of a PUT: a byte that an unfenced store wrote may still read as before (R171). -/
def putBytes (fr : Frond) (seed : Nat) : Nat → Nat → List Byte
  | _, 0 => []
  | a, n + 1 =>
    (match fr.unfenced.get none a with
     | some old => if Config.freeNat (seed + n) % 2 = 0 then old else Tbl.get 0 fr.sp a
     | none => Tbl.get 0 fr.sp a) :: putBytes fr seed (a + 1) n

/-- The 2 MiB pages that a device range touches. -/
def pagesOf (a n : Nat) : List Nat :=
  List.range' (a / pageSize) ((a + n - 1) / pageSize + 1 - a / pageSize)

/-- The request that str.issue makes of a descriptor. -/
def makeTag (s : State) (fr : Frond) (d : StreamDesc) : StreamTag :=
  { st := .pending, space := d.space, put := decide (d.dir = 1), spaddr := d.spaddr, remote := d.remote,
    len := d.len, inst := fr.inst.toNat, sent := false, code := 0, addr := 0, raised := false,
    data := if d.dir = 1 then putBytes fr s.seed d.spaddr d.len else [],
    xl := if d.space = 0 then (pagesOf d.remote d.len).map fun p =>
        (p, translate s fr.inst.toNat (p * pageSize) (decide (d.dir = 1))) else [],
    order := (fr.tags.map fun e => e.2.order + 1).foldl max 0 }

/-- What str.issue does: the tag, then the descriptor's place, the level, the descriptor's rules. -/
def strIssueOp (a b : BitVec 5) : State → Frond → FOut := fun s fr =>
  let addr := (fr.gr a).toNat
  if 15 < b.toNat then .exc s fr 0x01 0 none
  else if (fr.tags.get StreamTag.idle b.toNat).st = .pending then .stall
  else if addr % 8 ≠ 0 ∨ !fr.spOpen addr 32 then .exc s fr 0x0B b.toNat none
  else
    let d := readDesc fr addr
    if !fr.isK ∧ d.space ≠ 0 then .exc s fr 0x02 0 none
    else if !d.ok fr then .exc s fr 0x0B b.toNat none
    else
      let s' := { s with seed := s.seed + (if d.dir = 1 then d.len else 0) }
      .next s' { fr with tags := fr.tags.set StreamTag.idle b.toNat (makeTag s fr d) } (fr.pc + 4)

/-- str.issue. -/
def execStrIssue (f : Fin 128) (a b : BitVec 5) (s : State) : Host.Outcome State Fault Refusal :=
  .next (runFrond f.val (strIssueOp a b) s)

/-- str.wait: waits for the tag, and raises the fault of a failed one once (R170). -/
def strWaitOp (b : BitVec 5) : State → Frond → FOut := fun s fr =>
  let t := fr.tags.get StreamTag.idle b.toNat
  if 15 < b.toNat then .exc s fr 0x01 0 none
  else if t.st = .pending then .stall
  else if t.st = .failed ∧ !t.raised then
    .exc s { fr with tags := fr.tags.set StreamTag.idle b.toNat { t with raised := true } } t.code b.toNat
      (some t.addr)
  else .next s fr (fr.pc + 4)

/-- str.wait. -/
def execStrWait (f : Fin 128) (b : BitVec 5) (s : State) : Host.Outcome State Fault Refusal :=
  .next (runFrond f.val (strWaitOp b) s)

/-- The value of str.poll (R169). -/
def TagState.code : TagState → W64
  | .pending => 0
  | .done => 1
  | .failed => 2
  | .cancelled => 3

/-- str.poll. -/
def execStrPoll (f : Fin 128) (d b : BitVec 5) (s : State) : Host.Outcome State Fault Refusal :=
  .next (runFrond f.val (fun s fr =>
    if 15 < b.toNat then .exc s fr 0x01 0 none
    else .next s (fr.setG d (fr.tags.get StreamTag.idle b.toNat).st.code) (fr.pc + 4)) s)

/-- str.cancel; K only. -/
def execStrCancel (f : Fin 128) (s : State) : Host.Outcome State Fault Refusal :=
  .next (runFrond f.val (kOnly fun s fr =>
    let t := cancelTags f.val (s.setFrond f.val fr)
    .next t (t.frond f.val) (fr.pc + 4)) s)

/-! ## Hand-off port (R160, R164) -/

/-- HQ_DEPTH of the operator that hands off at the end of a frond's stage (R42, R66). -/
def handoffDepth (s : State) (fr : Frond) : Option Nat :=
  match fr.item with
  | none => none
  | some it =>
    match workOf s it.slot with
    | .query q =>
      (q.plan.ops.find? fun o => decide (o.pipe = it.pipe) && decide (o.stage = it.stage) && bit o.flags 2).map (·.hq)
    | _ => none

/-- Batches in a frond's outgoing hand-off queue: records of operation 0 that the next stage has not taken. -/
def batchesOut (fr : Frond) : Nat := (fr.hoOut.filter fun x => x.1 = 0).length

/-- HO: K only. The spec gives no table of its minor opcodes: an operation hands the operands to the
dispatcher and writes a free value to gd; operation 0 announces a batch, and waits while the hand-off queue is full
(R66, log 6). -/
def execHo (f : Fin 128) (d a b : BitVec 5) (fn : BitVec 11) (s : State) : Host.Outcome State Fault Refusal :=
  .next (runFrond f.val (fun s fr =>
    match Config.hoSelect fn with
    | none => .exc s fr 0x01 0 none
    | some n =>
      if !fr.isK then .exc s fr 0x02 0 none
      else if n = 0 ∧ (handoffDepth s fr).any (fun k => decide (k ≤ batchesOut fr)) then .stall
      else
        let r := s.freshWord
        .next r.2 ({ fr with hoOut := fr.hoOut ++ [(n, fr.gr a, fr.gr b)] }.setG d r.1) (fr.pc + 4)) s)

/-! ## Events from outside -/

/-- FROND_STOP: STOP reaches a frond whose item has been told to stop; it is taken at once at P level
and while IE is 1, else it waits (R176, R177). -/
def execFrondStop (f : Fin 128) (s : State) : Host.Outcome State Fault Refusal :=
  let fr := s.frond f.val
  if fr.item.isNone || fr.stopping.isNone || fr.halted then .next s
  else .next (takeAsync f.val (s.setFrond f.val { fr with stopReq := true }))

/-- BUDGET: fc.budget steps from 1 to 0 at P level and raises the asynchronous request (R158). -/
def execBudget (f : Fin 128) (s : State) : Host.Outcome State Fault Refusal :=
  let fr := s.frond f.val
  if fr.isK || fr.halted || !clockOn f.val s || decide (fr.budget ≠ 1) then .next s
  else .next (takeAsync f.val (s.setFrond f.val (fr.passCycles false 1)))

/-- DOUBLE_FAULT_RECOVERY: firmware resets a halted frond and returns it to service (R175); nothing of
its last item's instance stays on it (R187). -/
def execDoubleFaultRecovery (f : Fin 128) (s : State) : Host.Outcome State Fault Refusal :=
  let fr := s.frond f.val
  if fr.halted then .next (s.setFrond f.val { Frond.reset with sp := fr.spclr.sp }) else .next s

/-- Whether an older pending DEV request of the frond overlaps the device range of a tag (R171). -/
def blockedTag (fr : Frond) (t : StreamTag) : Bool :=
  decide (t.space = 0) && fr.tags.any fun e =>
    decide (e.2.st = .pending) && decide (e.2.space = 0) && decide (e.2.order < t.order) &&
    decide (e.2.remote < t.remote + t.len) && decide (t.remote < e.2.remote + e.2.len)

/-- STREAM_REQUEST_DONE: a pending request ends; requests to overlapping device addresses end in issue
order (R170, R171). -/
def execStreamRequestDone (f : Fin 128) (tag : Nat) (data : Option (List Byte)) (s : State) :
    Host.Outcome State Fault Refusal :=
  let fr := s.frond f.val
  let t := fr.tags.get StreamTag.idle tag
  if t.st = .pending ∧ !blockedTag fr t then .next (endRequest f.val tag data s) else .next s

end Sys2Proof.Machine
end

