-- ==== Sys2Proof/Machine/FrondVector.lean ====
section
/-!
DEFINITION. Register-to-register instructions of the long-vector unit (R199 to R205, R211, R228): one
meaning per row.
-/

namespace Sys2Proof.Machine

/-! ## Integer operations (R199) -/

/-- The low log2(n) bits of a shift count. -/
def shCount (n y : Nat) : Nat := y % n

/-- The minor opcodes 0x0 to 0xE of VOP and VOPX on n-bit elements. -/
def vopElem (fn n x y : Nat) : Nat :=
  let a := toSigned n x
  let b := toSigned n y
  match fn with
  | 0 => (x + y) % 2 ^ n
  | 1 => (x + 2 ^ n - y) % 2 ^ n
  | 2 => (x * y) % 2 ^ n
  | 3 => x * y / 2 ^ n
  | 4 => if b < a then y else x
  | 5 => if a < b then y else x
  | 6 => min x y
  | 7 => max x y
  | 8 => x &&& y
  | 9 => x ||| y
  | 10 => x ^^^ y
  | 11 => x &&& (2 ^ n - 1 - y)
  | 12 => (x <<< shCount n y) % 2 ^ n
  | 13 => x >>> shCount n y
  | 14 => ofSigned n (a / 2 ^ shCount n y)
  | _ => y

/-- Width codes that a minor opcode of VOP admits: .bit for the logical ones only. -/
def vopWidths (fn : Nat) : List (BitVec 3) := if 8 ≤ fn ∧ fn ≤ 11 then wAll else wInt

/-- How a minor opcode of VOP uses its fields; vpick needs a mask. -/
def vopForm (fn : Nat) : VForm :=
  { d := .any, a := .any, b := .any, men := if fn = 15 then 2 else 1, ws := vopWidths fn }

/-- Source b of element e: of vb, or of gb truncated to the width. -/
def srcB (x : Bool) (fr : Frond) (o : VOps) (e : Nat) : Nat :=
  if x then (fr.gr o.b).toNat % 2 ^ wBits o.w else elem (fr.vr o.b.toNat) (wBits o.w) e

/-- vpick: the mask selects and does not gate. -/
def vpick (x : Bool) (o : VOps) (fr : Frond) : Frond :=
  let n := effLen fr o.w
  let wb := wBits o.w
  let old := fr.vr o.d.toNat
  fr.setV o.d.toNat (buildV old wb n fun e =>
    if e < fr.vri.toNat then elem old wb e
    else if maskBit fr o e then srcB x fr o e else elem (fr.vr o.a.toNat) wb e)

/-- A VOP or VOPX instruction. -/
def vopRun (x : Bool) (fn : Nat) (o : VOps) : State → Frond → FOut :=
  vecOp (vopForm fn) o fun fr =>
    if fn = 15 then vpick x o fr
    else writeActive fr o (wBits o.w) (effLen fr o.w) fun e =>
      vopElem fn (wBits o.w) (elem (fr.vr o.a.toNat) (wBits o.w) e) (srcB x fr o e)

/-- vadd (R199). -/
def execVadd (f : Fin 128) (o : VOps) (s : State) : Host.Outcome State Fault Refusal :=
  .next (runFrond f.val (vopRun false 0 o) s)

/-- vsub (R199). -/
def execVsub (f : Fin 128) (o : VOps) (s : State) : Host.Outcome State Fault Refusal :=
  .next (runFrond f.val (vopRun false 1 o) s)

/-- vmul (R199). -/
def execVmul (f : Fin 128) (o : VOps) (s : State) : Host.Outcome State Fault Refusal :=
  .next (runFrond f.val (vopRun false 2 o) s)

/-- vmulhu (R199). -/
def execVmulhu (f : Fin 128) (o : VOps) (s : State) : Host.Outcome State Fault Refusal :=
  .next (runFrond f.val (vopRun false 3 o) s)

/-- vmin (R199). -/
def execVmin (f : Fin 128) (o : VOps) (s : State) : Host.Outcome State Fault Refusal :=
  .next (runFrond f.val (vopRun false 4 o) s)

/-- vmax (R199). -/
def execVmax (f : Fin 128) (o : VOps) (s : State) : Host.Outcome State Fault Refusal :=
  .next (runFrond f.val (vopRun false 5 o) s)

/-- vminu (R199). -/
def execVminu (f : Fin 128) (o : VOps) (s : State) : Host.Outcome State Fault Refusal :=
  .next (runFrond f.val (vopRun false 6 o) s)

/-- vmaxu (R199). -/
def execVmaxu (f : Fin 128) (o : VOps) (s : State) : Host.Outcome State Fault Refusal :=
  .next (runFrond f.val (vopRun false 7 o) s)

/-- vand (R199). -/
def execVand (f : Fin 128) (o : VOps) (s : State) : Host.Outcome State Fault Refusal :=
  .next (runFrond f.val (vopRun false 8 o) s)

/-- vor (R199). -/
def execVor (f : Fin 128) (o : VOps) (s : State) : Host.Outcome State Fault Refusal :=
  .next (runFrond f.val (vopRun false 9 o) s)

/-- vxor (R199). -/
def execVxor (f : Fin 128) (o : VOps) (s : State) : Host.Outcome State Fault Refusal :=
  .next (runFrond f.val (vopRun false 10 o) s)

/-- vandn (R199). -/
def execVandn (f : Fin 128) (o : VOps) (s : State) : Host.Outcome State Fault Refusal :=
  .next (runFrond f.val (vopRun false 11 o) s)

/-- vsll (R199). -/
def execVsll (f : Fin 128) (o : VOps) (s : State) : Host.Outcome State Fault Refusal :=
  .next (runFrond f.val (vopRun false 12 o) s)

/-- vsrl (R199). -/
def execVsrl (f : Fin 128) (o : VOps) (s : State) : Host.Outcome State Fault Refusal :=
  .next (runFrond f.val (vopRun false 13 o) s)

/-- vsra (R199). -/
def execVsra (f : Fin 128) (o : VOps) (s : State) : Host.Outcome State Fault Refusal :=
  .next (runFrond f.val (vopRun false 14 o) s)

/-- vpick (R199). -/
def execVpick (f : Fin 128) (o : VOps) (s : State) : Host.Outcome State Fault Refusal :=
  .next (runFrond f.val (vopRun false 15 o) s)

/-- VOPX: as VOP, with source b the general register gb truncated to the width (R198). -/
def execVopx (f : Fin 128) (o : VOps) (fn : BitVec 4) (s : State) : Host.Outcome State Fault Refusal :=
  .next (runFrond f.val (vopRun true fn.toNat o) s)

/-! ## Compares and overflow tests (R200) -/

/-- A VCMP or VCMPX instruction; minor opcodes above 0xB raise ILLEGAL. -/
def vcmpRun (x : Bool) (fn : Nat) (o : VOps) : State → Frond → FOut := fun s fr =>
  if 11 < fn then .exc s fr 0x01 0 none
  else vecOp { d := .mask, a := .any, b := .any, men := 1, ws := wInt } o (fun fr =>
    writeMask fr o (effLen fr o.w) fun e =>
      (vcmpTest fn (wBits o.w) (elem (fr.vr o.a.toNat) (wBits o.w) e) (srcB x fr o e)).getD false) s fr

/-- veq (R200). -/
def execVeq (f : Fin 128) (o : VOps) (s : State) : Host.Outcome State Fault Refusal :=
  .next (runFrond f.val (vcmpRun false 0 o) s)

/-- vne (R200). -/
def execVne (f : Fin 128) (o : VOps) (s : State) : Host.Outcome State Fault Refusal :=
  .next (runFrond f.val (vcmpRun false 1 o) s)

/-- vlt (R200). -/
def execVlt (f : Fin 128) (o : VOps) (s : State) : Host.Outcome State Fault Refusal :=
  .next (runFrond f.val (vcmpRun false 2 o) s)

/-- vge (R200). -/
def execVge (f : Fin 128) (o : VOps) (s : State) : Host.Outcome State Fault Refusal :=
  .next (runFrond f.val (vcmpRun false 3 o) s)

/-- vltu (R200). -/
def execVltu (f : Fin 128) (o : VOps) (s : State) : Host.Outcome State Fault Refusal :=
  .next (runFrond f.val (vcmpRun false 4 o) s)

/-- vgeu (R200). -/
def execVgeu (f : Fin 128) (o : VOps) (s : State) : Host.Outcome State Fault Refusal :=
  .next (runFrond f.val (vcmpRun false 5 o) s)

/-- vovadd (R200). -/
def execVovadd (f : Fin 128) (o : VOps) (s : State) : Host.Outcome State Fault Refusal :=
  .next (runFrond f.val (vcmpRun false 6 o) s)

/-- vovsub (R200). -/
def execVovsub (f : Fin 128) (o : VOps) (s : State) : Host.Outcome State Fault Refusal :=
  .next (runFrond f.val (vcmpRun false 7 o) s)

/-- vovmul (R200). -/
def execVovmul (f : Fin 128) (o : VOps) (s : State) : Host.Outcome State Fault Refusal :=
  .next (runFrond f.val (vcmpRun false 8 o) s)

/-- vovaddu (R200). -/
def execVovaddu (f : Fin 128) (o : VOps) (s : State) : Host.Outcome State Fault Refusal :=
  .next (runFrond f.val (vcmpRun false 9 o) s)

/-- vovsubu (R200). -/
def execVovsubu (f : Fin 128) (o : VOps) (s : State) : Host.Outcome State Fault Refusal :=
  .next (runFrond f.val (vcmpRun false 10 o) s)

/-- vovmulu (R200). -/
def execVovmulu (f : Fin 128) (o : VOps) (s : State) : Host.Outcome State Fault Refusal :=
  .next (runFrond f.val (vcmpRun false 11 o) s)

/-- VCMPX: as VCMP, with source b the general register gb truncated to the width (R198). -/
def execVcmpx (f : Fin 128) (o : VOps) (fn : BitVec 4) (s : State) : Host.Outcome State Fault Refusal :=
  .next (runFrond f.val (vcmpRun true fn.toNat o) s)

/-! ## Floating point (R201) -/

/-- The format of a width code. -/
def vfmt (o : VOps) : Fmt := if o.w = 3 then binary64 else binary32

/-- The greater or lesser of two in the order of R80; the first when they are equal. -/
def fpPick (f : Fmt) (gt : Bool) (x y : Nat) : Nat :=
  if gt then (if fpOrder f x y < 0 then y else x) else (if 0 < fpOrder f x y then y else x)

/-- The minor opcodes of VFP that write a vector: x of va, y of vb, z of vd, each w bits. -/
def vfpElem (fn : Nat) (f : Fmt) (rm x y z : Nat) : Nat × FFlags :=
  match fn with
  | 0 => fpAdd f rm x y
  | 1 => fpSub f rm x y
  | 2 => fpMul f rm x y
  | 3 => fpDiv f rm x y
  | 4 => fpSqrt f rm x
  | 5 => (fpPick f false x y, 0)
  | 6 => (fpPick f true x y, 0)
  | 7 => fpFma f rm x y z
  | 13 => fpToInt f rm f.width x
  | 14 => fpOfInt f rm (toSigned f.width x)
  | _ => fpConvert binary32 binary64 rm x

/-- The compares of VFP. -/
def vfpTest (fn : Nat) (f : Fmt) (x y : Nat) : Bool × FFlags :=
  match fn with
  | 8 => fpEq f x y
  | 9 => fpLt f false x y
  | 10 => fpLt f true x y
  | 11 => (decide (fpOrder f x y = 0), 0)
  | _ => (decide (fpOrder f x y < 0), 0)

/-- Active elements in ascending order. -/
def activeList (fr : Frond) (o : VOps) (n : Nat) : List Nat := (List.range n).filter fun e => active fr o n e

/-- A VFP instruction that writes vd; `wa` is the width at which va is read. -/
def vfpRun (fn wa : Nat) (b : FldUse) (ws : List (BitVec 3)) (o : VOps) : State → Frond → FOut :=
  vecOp { d := .any, a := .any, b := b, men := 1, ws := ws } o fun fr =>
    let n := effLen fr o.w
    let wb := wBits o.w
    let g := fun e => vfpElem fn (vfmt o) fr.frm.toNat (elem (fr.vr o.a.toNat) wa e)
      (elem (fr.vr o.b.toNat) wb e) (elem (fr.vr o.d.toNat) wb e)
    (writeActive fr o wb n fun e => (g e).1).raise (flagsOf ((activeList fr o n).map g))

/-- A VFP instruction that writes a mask. -/
def vfpCmp (fn : Nat) (o : VOps) : State → Frond → FOut :=
  vecOp { d := .mask, a := .any, b := .any, men := 1, ws := wFp } o fun fr =>
    let n := effLen fr o.w
    let wb := wBits o.w
    let g := fun e => vfpTest fn (vfmt o) (elem (fr.vr o.a.toNat) wb e) (elem (fr.vr o.b.toNat) wb e)
    (writeMask fr o n fun e => (g e).1).raise (flagsOf ((activeList fr o n).map g))

/-- vfadd (R201). -/
def execVfadd (f : Fin 128) (o : VOps) (s : State) : Host.Outcome State Fault Refusal :=
  .next (runFrond f.val (vfpRun 0 (wBits o.w) .any wFp o) s)

/-- vfsub (R201). -/
def execVfsub (f : Fin 128) (o : VOps) (s : State) : Host.Outcome State Fault Refusal :=
  .next (runFrond f.val (vfpRun 1 (wBits o.w) .any wFp o) s)

/-- vfmul (R201). -/
def execVfmul (f : Fin 128) (o : VOps) (s : State) : Host.Outcome State Fault Refusal :=
  .next (runFrond f.val (vfpRun 2 (wBits o.w) .any wFp o) s)

/-- vfdiv (R201). -/
def execVfdiv (f : Fin 128) (o : VOps) (s : State) : Host.Outcome State Fault Refusal :=
  .next (runFrond f.val (vfpRun 3 (wBits o.w) .any wFp o) s)

/-- vfsqrt (R201). -/
def execVfsqrt (f : Fin 128) (o : VOps) (s : State) : Host.Outcome State Fault Refusal :=
  .next (runFrond f.val (vfpRun 4 (wBits o.w) .unused wFp o) s)

/-- vfmin (R201). -/
def execVfmin (f : Fin 128) (o : VOps) (s : State) : Host.Outcome State Fault Refusal :=
  .next (runFrond f.val (vfpRun 5 (wBits o.w) .any wFp o) s)

/-- vfmax (R201). -/
def execVfmax (f : Fin 128) (o : VOps) (s : State) : Host.Outcome State Fault Refusal :=
  .next (runFrond f.val (vfpRun 6 (wBits o.w) .any wFp o) s)

/-- vfmacc (R201). -/
def execVfmacc (f : Fin 128) (o : VOps) (s : State) : Host.Outcome State Fault Refusal :=
  .next (runFrond f.val (vfpRun 7 (wBits o.w) .any wFp o) s)

/-- vfcvti (R201). -/
def execVfcvti (f : Fin 128) (o : VOps) (s : State) : Host.Outcome State Fault Refusal :=
  .next (runFrond f.val (vfpRun 13 (wBits o.w) .unused wFp o) s)

/-- vicvtf (R201). -/
def execVicvtf (f : Fin 128) (o : VOps) (s : State) : Host.Outcome State Fault Refusal :=
  .next (runFrond f.val (vfpRun 14 (wBits o.w) .unused wFp o) s)

/-- vfwid: .d only; element e of va read as binary32 (R201). -/
def execVfwid (f : Fin 128) (o : VOps) (s : State) : Host.Outcome State Fault Refusal :=
  .next (runFrond f.val (vfpRun 15 32 .unused wD o) s)

/-- vfeq (R201). -/
def execVfeq (f : Fin 128) (o : VOps) (s : State) : Host.Outcome State Fault Refusal :=
  .next (runFrond f.val (vfpCmp 8 o) s)

/-- vflt (R201). -/
def execVflt (f : Fin 128) (o : VOps) (s : State) : Host.Outcome State Fault Refusal :=
  .next (runFrond f.val (vfpCmp 9 o) s)

/-- vfle (R201). -/
def execVfle (f : Fin 128) (o : VOps) (s : State) : Host.Outcome State Fault Refusal :=
  .next (runFrond f.val (vfpCmp 10 o) s)

/-- vfteq (R201). -/
def execVfteq (f : Fin 128) (o : VOps) (s : State) : Host.Outcome State Fault Refusal :=
  .next (runFrond f.val (vfpCmp 11 o) s)

/-- vftlt (R201). -/
def execVftlt (f : Fin 128) (o : VOps) (s : State) : Host.Outcome State Fault Refusal :=
  .next (runFrond f.val (vfpCmp 12 o) s)

/-! ## Masks (R202) -/

/-- A mask as a number of 512 bits. -/
def maskOnes (n : Nat) : BitVec 512 := BitVec.ofNat 512 (2 ^ n - 1)

/-- fc.vl as the bound of a mask. -/
def maskVl (fr : Frond) : Nat := min fr.vl.toNat 512

/-- A VMASK instruction: MEN is 0 and W is 0. -/
def mkRun (d a b : FldUse) (o : VOps) (g : Frond → Frond) : State → Frond → FOut :=
  vecOp { d := d, a := a, b := b, men := 0, ws := [0] } o g

/-- A VMASK instruction that writes md from ma and mb. -/
def mkBin (b : FldUse) (o : VOps) (g : BitVec 512 → BitVec 512 → BitVec 512) : State → Frond → FOut :=
  mkRun .mask .mask b o fun fr => fr.setM o.d.toNat (g (fr.mr o.a.toNat) (fr.mr o.b.toNat))

/-- The lowest set bit of a number below n. -/
def lowestBit (x : Nat) (n : Nat) : Option Nat := (List.range n).find? fun e => x.testBit e

/-- mkand. -/
def execMkand (f : Fin 128) (o : VOps) (s : State) : Host.Outcome State Fault Refusal :=
  .next (runFrond f.val (mkBin .mask o (· &&& ·)) s)

/-- mkor. -/
def execMkor (f : Fin 128) (o : VOps) (s : State) : Host.Outcome State Fault Refusal :=
  .next (runFrond f.val (mkBin .mask o (· ||| ·)) s)

/-- mkxor. -/
def execMkxor (f : Fin 128) (o : VOps) (s : State) : Host.Outcome State Fault Refusal :=
  .next (runFrond f.val (mkBin .mask o (· ^^^ ·)) s)

/-- mkandn: ma and not mb. -/
def execMkandn (f : Fin 128) (o : VOps) (s : State) : Host.Outcome State Fault Refusal :=
  .next (runFrond f.val (mkBin .mask o fun x y => x &&& ~~~y) s)

/-- mknot. -/
def execMknot (f : Fin 128) (o : VOps) (s : State) : Host.Outcome State Fault Refusal :=
  .next (runFrond f.val (mkBin .unused o fun x _ => ~~~x) s)

/-- mkcopy. -/
def execMkcopy (f : Fin 128) (o : VOps) (s : State) : Host.Outcome State Fault Refusal :=
  .next (runFrond f.val (mkBin .unused o fun x _ => x) s)

/-- mkcount: set bits of ma below fc.vl. -/
def execMkcount (f : Fin 128) (o : VOps) (s : State) : Host.Outcome State Fault Refusal :=
  .next (runFrond f.val (mkRun .any .mask .unused o fun fr =>
    fr.setG o.d (BitVec.ofNat 64 (popCount (fr.mr o.a.toNat).toNat (maskVl fr)))) s)

/-- mkfirst: the lowest set bit of ma below fc.vl, or all ones. -/
def execMkfirst (f : Fin 128) (o : VOps) (s : State) : Host.Outcome State Fault Refusal :=
  .next (runFrond f.val (mkRun .any .mask .unused o fun fr =>
    fr.setG o.d (match lowestBit (fr.mr o.a.toNat).toNat (maskVl fr) with
      | some e => BitVec.ofNat 64 e
      | none => -1)) s)

/-- mkfill: ones below fc.vl, zeros above. -/
def execMkfill (f : Fin 128) (o : VOps) (s : State) : Host.Outcome State Fault Refusal :=
  .next (runFrond f.val (mkRun .mask .unused .unused o fun fr => fr.setM o.d.toNat (maskOnes (maskVl fr))) s)

/-- mkzero. -/
def execMkzero (f : Fin 128) (o : VOps) (s : State) : Host.Outcome State Fault Refusal :=
  .next (runFrond f.val (mkRun .mask .unused .unused o fun fr => fr.setM o.d.toNat 0) s)

/-- mtov: bits [511:0] of vd = ma. -/
def execMtov (f : Fin 128) (o : VOps) (s : State) : Host.Outcome State Fault Refusal :=
  .next (runFrond f.val (mkRun .any .mask .unused o fun fr =>
    fr.setV o.d.toNat (buildV (fr.vr o.d.toNat) 512 1 fun _ => (fr.mr o.a.toNat).toNat)) s)

/-- vtom: md = bits [511:0] of va. -/
def execVtom (f : Fin 128) (o : VOps) (s : State) : Host.Outcome State Fault Refusal :=
  .next (runFrond f.val (mkRun .mask .any .unused o fun fr =>
    fr.setM o.d.toNat ((fr.vr o.a.toNat).truncate 512)) s)

/-! ## Moves (R203) -/

/-- A VMOVE instruction that writes active elements; `lim` bounds the effective length further. -/
def vmoveRun (a b : FldUse) (ws : List (BitVec 3)) (o : VOps) (lim : Nat) (g : Frond → Nat → Nat) :
    State → Frond → FOut :=
  vecOp { d := .any, a := a, b := b, men := 1, ws := ws } o fun fr =>
    writeActive fr o (wBits o.w) (min (effLen fr o.w) lim) (g fr)

/-- Mask bits set below an element: where a squeezing instruction writes it (R203, R209). -/
def squeezePos (fr : Frond) (o : VOps) (e : Nat) : Nat := popCount (fr.mr o.msk.toNat).toNat e

/-- Writes the values of a list of elements to consecutive places (R203, R209). -/
def squeezeInto (fr : Frond) (o : VOps) (es : List Nat) (g : Nat → Nat) : Frond :=
  let wb := wBits o.w
  fr.setV o.d.toNat (forEach (fun e v => setElem v wb (squeezePos fr o e) (g e)) es (fr.vr o.d.toNat))

/-- A VMOVE instruction without a mask operand. -/
def vscalRun (d : FldUse) (a : FldUse) (o : VOps) (g : Frond → Frond) : State → Frond → FOut :=
  vecOp { d := d, a := a, b := .any, men := 0, ws := wInt } o g

/-- vcopy. -/
def execVcopy (f : Fin 128) (o : VOps) (s : State) : Host.Outcome State Fault Refusal :=
  .next (runFrond f.val (vmoveRun .any .unused wInt o 4096 fun fr e => elem (fr.vr o.a.toNat) (wBits o.w) e) s)

/-- vbcast: gb in every active element. -/
def execVbcast (f : Fin 128) (o : VOps) (s : State) : Host.Outcome State Fault Refusal :=
  .next (runFrond f.val (vmoveRun .unused .any wInt o 4096 fun fr _ => (fr.gr o.b).toNat) s)

/-- vext: gd = element gb of va, or 0 when gb ≥ VLMAX(W). -/
def execVext (f : Fin 128) (o : VOps) (s : State) : Host.Outcome State Fault Refusal :=
  .next (runFrond f.val (vscalRun .any .any o fun fr =>
    fr.setG o.d (if (fr.gr o.b).toNat < vlmax o.w
      then BitVec.ofNat 64 (elem (fr.vr o.a.toNat) (wBits o.w) (fr.gr o.b).toNat) else 0)) s)

/-- vins: element ga of vd = low W bits of gb; no effect when ga ≥ VLMAX(W). -/
def execVins (f : Fin 128) (o : VOps) (s : State) : Host.Outcome State Fault Refusal :=
  .next (runFrond f.val (vscalRun .any .any o fun fr =>
    if (fr.gr o.a).toNat < vlmax o.w
    then fr.setV o.d.toNat (setElem (fr.vr o.d.toNat) (wBits o.w) (fr.gr o.a).toNat (fr.gr o.b).toNat) else fr) s)

/-- vseq: vd = e. -/
def execVseq (f : Fin 128) (o : VOps) (s : State) : Host.Outcome State Fault Refusal :=
  .next (runFrond f.val (vmoveRun .unused .unused wInt o 4096 fun _ e => e) s)

/-- vsqueeze (R203). -/
def execVsqueeze (f : Fin 128) (o : VOps) (s : State) : Host.Outcome State Fault Refusal :=
  .next (runFrond f.val (vecOp (VForm.mk .any .any .unused 2 wInt) o fun fr =>
    squeezeInto fr o (activeList fr o (effLen fr o.w)) fun e => elem (fr.vr o.a.toNat) (wBits o.w) e) s)

/-- vwid: element e of va read at width W / 2, sign-extended. -/
def execVwid (f : Fin 128) (o : VOps) (s : State) : Host.Outcome State Fault Refusal :=
  .next (runFrond f.val (vmoveRun .any .unused [1, 2, 3] o 4096 fun fr e =>
    ofSigned (wBits o.w) (toSigned (wBits o.w / 2) (elem (fr.vr o.a.toNat) (wBits o.w / 2) e))) s)

/-- vwidu: zero-extended. -/
def execVwidu (f : Fin 128) (o : VOps) (s : State) : Host.Outcome State Fault Refusal :=
  .next (runFrond f.val (vmoveRun .any .unused [1, 2, 3] o 4096 fun fr e =>
    elem (fr.vr o.a.toNat) (wBits o.w / 2) e) s)

/-- vnar: element e of va read at width 2W, truncated; n is at most VLMAX(2W). -/
def execVnar (f : Fin 128) (o : VOps) (s : State) : Host.Outcome State Fault Refusal :=
  .next (runFrond f.val (vmoveRun .any .unused [0, 1, 2] o (vlmax (o.w + 1)) fun fr e =>
    elem (fr.vr o.a.toNat) (2 * wBits o.w) e) s)

/-! ## Reductions (R204, R205) -/

/-- The active elements of va in ascending order. -/
def activeVals (fr : Frond) (o : VOps) : List Nat :=
  (activeList fr o (effLen fr o.w)).map fun e => elem (fr.vr o.a.toNat) (wBits o.w) e

/-- An integer fold into gd. -/
def vredRun (ws : List (BitVec 3)) (o : VOps) (g : Nat → List Nat → W64) : State → Frond → FOut :=
  vecOp { d := .any, a := .any, b := .unused, men := 1, ws := ws } o fun fr =>
    fr.setG o.d (g (wBits o.w) (activeVals fr o))

/-- The sum of a list of integers. -/
def sumInt : List Int → Int
  | [] => 0
  | x :: t => x + sumInt t

/-- Extreme of a list by a test "replaces", from an identity. -/
def extreme {α : Type} (repl : α → α → Bool) (i : α) (l : List α) : α :=
  l.foldl (fun m x => if repl m x then x else m) i

/-- One halving of the tree of R205: x[i] + x[i + m]. -/
def treeStep (f : Fmt) (rm : Nat) (l : List Nat) : List (Nat × FFlags) :=
  List.zipWith (fpAdd f rm) (l.take (l.length / 2)) (l.drop (l.length / 2))

/-- The tree sum of R205 over a list of 2 ^ k values. -/
def treeSum (f : Fmt) (rm : Nat) : Nat → List Nat → FFlags → Nat × FFlags
  | 0, l, fl => (l.headD 0, fl)
  | k + 1, l, fl =>
    let r := treeStep f rm l
    treeSum f rm k (r.map (·.1)) (fl ||| flagsOf r)

/-- The sum of R205 over 2 ^ k places; a place without an active element holds +0.0. Active elements that are all −0.0 give +0.0,
whatever the tree makes of them. -/
def foldSum (f : Fmt) (rm k : Nat) (l : List (Option Nat)) : Nat × FFlags :=
  let r := treeSum f rm k (l.map fun x => x.getD 0) 0
  let act := l.filterMap id
  if !act.isEmpty && act.all (fun x => decide (x = 2 ^ (f.width - 1))) then (0, r.2) else r

/-- The least k with n ≤ 2 ^ k. -/
def log2Up (n : Nat) : Nat := if n ≤ 1 then 0 else Nat.log2 (n - 1) + 1

/-- A floating-point fold into fd. -/
def vfredRun (o : VOps) (g : Frond → Nat × FFlags) : State → Frond → FOut :=
  vecOp { d := .any, a := .any, b := .unused, men := 1, ws := wFp } o fun fr => fr.fpResult o.d (g fr)

/-- vsumr: each element sign-extended, modulo 2^64. -/
def execVsumr (f : Fin 128) (o : VOps) (s : State) : Host.Outcome State Fault Refusal :=
  .next (runFrond f.val (vredRun wInt o fun n l => BitVec.ofInt 64 (sumInt (l.map (toSigned n)))) s)

/-- vsumur: each element zero-extended. -/
def execVsumur (f : Fin 128) (o : VOps) (s : State) : Host.Outcome State Fault Refusal :=
  .next (runFrond f.val (vredRun wInt o fun _ l => BitVec.ofNat 64 l.sum) s)

/-- vminr: the largest signed value when no element is active. -/
def execVminr (f : Fin 128) (o : VOps) (s : State) : Host.Outcome State Fault Refusal :=
  .next (runFrond f.val (vredRun wInt o fun n l =>
    BitVec.ofInt 64 (extreme (fun m x => decide (x < m)) ((2 : Int) ^ (n - 1) - 1) (l.map (toSigned n)))) s)

/-- vmaxr: the smallest signed value when no element is active. -/
def execVmaxr (f : Fin 128) (o : VOps) (s : State) : Host.Outcome State Fault Refusal :=
  .next (runFrond f.val (vredRun wInt o fun n l =>
    BitVec.ofInt 64 (extreme (fun m x => decide (m < x)) (-(2 : Int) ^ (n - 1)) (l.map (toSigned n)))) s)

/-- vminur: all ones when no element is active. -/
def execVminur (f : Fin 128) (o : VOps) (s : State) : Host.Outcome State Fault Refusal :=
  .next (runFrond f.val (vredRun wInt o fun n l => BitVec.ofNat 64 (extreme (fun m x => decide (x < m)) (2 ^ n - 1) l)) s)

/-- vmaxur: 0 when no element is active. -/
def execVmaxur (f : Fin 128) (o : VOps) (s : State) : Host.Outcome State Fault Refusal :=
  .next (runFrond f.val (vredRun wInt o fun _ l => BitVec.ofNat 64 (extreme (fun m x => decide (m < x)) 0 l)) s)

/-- vandr: all ones when no element is active. -/
def execVandr (f : Fin 128) (o : VOps) (s : State) : Host.Outcome State Fault Refusal :=
  .next (runFrond f.val (vredRun wInt o fun n l => BitVec.ofNat 64 (l.foldl (· &&& ·) (2 ^ n - 1))) s)

/-- vorr. -/
def execVorr (f : Fin 128) (o : VOps) (s : State) : Host.Outcome State Fault Refusal :=
  .next (runFrond f.val (vredRun wInt o fun _ l => BitVec.ofNat 64 (l.foldl (· ||| ·) 0)) s)

/-- vxorr. -/
def execVxorr (f : Fin 128) (o : VOps) (s : State) : Host.Outcome State Fault Refusal :=
  .next (runFrond f.val (vredRun wInt o fun _ l => BitVec.ofNat 64 (l.foldl (· ^^^ ·) 0)) s)

/-- vbitcnt: .bit only; the count of active set bits. -/
def execVbitcnt (f : Fin 128) (o : VOps) (s : State) : Host.Outcome State Fault Refusal :=
  .next (runFrond f.val (vredRun [4] o fun _ l => BitVec.ofNat 64 l.sum) s)

/-- vfsumr: the tree order of R205. -/
def execVfsumr (f : Fin 128) (o : VOps) (s : State) : Host.Outcome State Fault Refusal :=
  .next (runFrond f.val (vfredRun o fun fr =>
    let n := effLen fr o.w
    let k := log2Up n
    foldSum (vfmt o) fr.frm.toNat k ((List.range (2 ^ k)).map fun e =>
      if active fr o n e then some (elem (fr.vr o.a.toNat) (wBits o.w) e) else none)) s)

/-- vfminr: least in the order of R80; the default NaN when no element is active. Of elements that are equal in that order the
lowest-numbered is returned: DESIGN CHOICE, log 176. -/
def execVfminr (f : Fin 128) (o : VOps) (s : State) : Host.Outcome State Fault Refusal :=
  .next (runFrond f.val (vfredRun o fun fr =>
    match activeVals fr o with
    | [] => (fpDefaultNan (vfmt o), 0)
    | x :: t => (extreme (fun m x => decide (fpOrder (vfmt o) x m < 0)) x t, 0)) s)

/-- vfmaxr: greatest in the order of R80; −∞ when no element is active. Of equal elements the lowest-numbered: DESIGN CHOICE, log 176. -/
def execVfmaxr (f : Fin 128) (o : VOps) (s : State) : Host.Outcome State Fault Refusal :=
  .next (runFrond f.val (vfredRun o fun fr =>
    match activeVals fr o with
    | [] => (fpInf (vfmt o) true, 0)
    | x :: t => (extreme (fun m x => decide (fpOrder (vfmt o) m x < 0)) x t, 0)) s)

/-! ## Hashing (R113, R211) -/

/-- mix of R113. -/
def mixHash (x : W64) : W64 :=
  let x := x ^^^ (x >>> 31)
  let x := x * 0xA3B195C60E2D7F49
  let x := x ^^^ (x >>> 29)
  let x := x * 0xD1E74A936C58B2A5
  x ^^^ (x >>> 32)

/-- step of R113. -/
def stepHash (h w : W64) : W64 := mixHash (h ^^^ w) + 0x5F0C83D2E96B14A7

/-- A VHASH instruction on 64-bit elements. -/
def vhashRun (o : VOps) (g : Frond → Nat → W64 → W64) : State → Frond → FOut :=
  vecOp { d := .any, a := .any, b := .any, men := 1, ws := wD } o fun fr =>
    writeActive fr o 64 (effLen fr o.w) fun e =>
      (g fr e (BitVec.ofNat 64 (elem (fr.vr o.a.toNat) 64 e))).toNat

/-- vhash: step(va, vb). -/
def execVhash (f : Fin 128) (o : VOps) (s : State) : Host.Outcome State Fault Refusal :=
  .next (runFrond f.val (vhashRun o fun fr e x => stepHash x (BitVec.ofNat 64 (elem (fr.vr o.b.toNat) 64 e))) s)

/-- vhashx: step(va, gb). -/
def execVhashx (f : Fin 128) (o : VOps) (s : State) : Host.Outcome State Fault Refusal :=
  .next (runFrond f.val (vhashRun o fun fr _ x => stepHash x (fr.gr o.b)) s)

/-- vhfin: mix(va xor gb). -/
def execVhfin (f : Fin 128) (o : VOps) (s : State) : Host.Outcome State Fault Refusal :=
  .next (runFrond f.val (vhashRun o fun fr _ x => mixHash (x ^^^ fr.gr o.b)) s)

/-! ## Vector length (R228) -/

/-- The new fc.vl of vstrip: the least of ga, VLMAX(W) and, when field b is not 0, gb. -/
def stripLen (fr : Frond) (o : VOps) : Nat :=
  let m := min (fr.gr o.a).toNat (vlmax o.w)
  if o.b = 0 then m else min m (fr.gr o.b).toNat

/-- vstrip: fc.ew = W, fc.vl and gd the new length. -/
def execVstrip (f : Fin 128) (o : VOps) (s : State) : Host.Outcome State Fault Refusal :=
  .next (runFrond f.val (vecOp (VForm.mk .any .any .any 0 wInt) o fun fr =>
    let n := stripLen fr o
    ({ fr with ew := o.w, vl := BitVec.ofNat 13 n }).setG o.d (BitVec.ofNat 64 n)) s)

end Sys2Proof.Machine
end

