-- ==== Sys2Proof/Machine/FrondMem.lean ====
section
/-!
DEFINITION. Vector instructions that access memory (R206 to R221): scratchpad loads and stores, packed
codes, run lengths, radix partition, gather and scatter.
-/

namespace Sys2Proof.Machine

/-! ## Faults inside an instruction (R218, R219) -/

/-- An address with its low log2(wb / 8) bits ignored (R206, R214). -/
def alignTo (wb a : Nat) : Nat := a / (wb / 8) * (wb / 8)

/-- A 64-bit address. -/
def addr64 (a : Nat) : Nat := a % 2 ^ 64

/-- The lowest failing element of a list: element, code, address. -/
def firstFault (chk : Nat → Option (Nat × Nat)) : List Nat → Option (Nat × Nat × Nat)
  | [] => none
  | e :: t =>
    match chk e with
    | some c => some (e, c.1, c.2)
    | none => firstFault chk t

/-- The elements of a list that lie below the failing one. -/
def belowFault (bad : Option (Nat × Nat × Nat)) (es : List Nat) : List Nat :=
  match bad with
  | none => es
  | some b => es.filter fun e => decide (e < b.1)

/-- The end of a memory instruction: fc.vri is 0 when it completes, else the failing element and the
exception is taken. -/
def endVec (s : State) (fr : Frond) (bad : Option (Nat × Nat × Nat)) : FOut :=
  match bad with
  | none => .next s { fr with vri := 0 } (fr.pc + 4)
  | some b => .heldExc s { fr with vri := BitVec.ofNat 13 b.1 } b.2.1 b.2.2

/-- A memory instruction: its encoding is checked, then it runs. -/
def vmemOp (v : VForm) (o : VOps) (g : State → Frond → FOut) : State → Frond → FOut :=
  fun s fr => if v.ok o then g s fr else .exc s fr 0x01 0 none

/-- The fault of a scratchpad access of n bytes with the address that it reports. -/
def spCheck (fr : Frond) (a n : Nat) : Option (Nat × Nat) := (fr.spFaultN a n).map fun c => (c, a)

/-- Writes elements of vd from a function. -/
def putElems (fr : Frond) (o : VOps) (es : List Nat) (g : Nat → Nat) : Frond :=
  let v := fr.vr o.d.toNat
  let n := vlmax o.w
  fr.setV o.d.toNat (buildV v (wBits o.w) n fun e => if es.contains e then g e else elem v (wBits o.w) e)

/-! ## Unit-stride and strided access (R206, R207) -/

/-- Address of element e: ga + gb + e × W / 8, or ga + e × gb. -/
def vmemAddr (strided : Bool) (fr : Frond) (o : VOps) (e : Nat) : Nat :=
  let a := (fr.gr o.a).toNat
  let b := (fr.gr o.b).toNat
  if strided then alignTo (wBits o.w) (addr64 (a + e * b))
  else if o.w = 4 then addr64 (a + b + e / 8)
  else alignTo (wBits o.w) (addr64 (a + b + e * (wBits o.w / 8)))

/-- Bytes that one element's access touches. -/
def elemBytes (o : VOps) : Nat := if o.w = 4 then 1 else wBits o.w / 8

/-- The value that element e of a load reads. -/
def vmemRead (strided : Bool) (fr : Frond) (o : VOps) (e : Nat) : Nat :=
  let x := fr.spNat (vmemAddr strided fr o e) (elemBytes o)
  if o.w = 4 then x / 2 ^ (e % 8) % 2 else x

/-- Stores one element; .bit writes its bit of the byte (R194, log 35). -/
def vmemStore (strided : Bool) (o : VOps) (v : BitVec 4096) (e : Nat) (fr : Frond) : Frond :=
  let a := vmemAddr strided fr o e
  let x := elem v (wBits o.w) e
  if o.w = 4 then
    let old := fr.spNat a 1
    let clr := old - old / 2 ^ (e % 8) % 2 * 2 ^ (e % 8)
    fr.spStore a [BitVec.ofNat 8 (clr + x * 2 ^ (e % 8))]
  else fr.spStore a (leBytes x (elemBytes o))

/-- Form of a VMEM instruction; .bit for vld and vst only. -/
def vmemForm (strided : Bool) : VForm :=
  { d := .any, a := .any, b := .any, men := 1, ws := if strided then wInt else wAll }

/-- vld and vlds. -/
def vloadOp (strided : Bool) (o : VOps) : State → Frond → FOut :=
  vmemOp (vmemForm strided) o fun s fr =>
    let es := activeList fr o (effLen fr o.w)
    let bad := firstFault (fun e => spCheck fr (vmemAddr strided fr o e) (elemBytes o)) es
    endVec s (putElems fr o (belowFault bad es) (vmemRead strided fr o)) bad

/-- vst and vsts: element by element in ascending order. -/
def vstoreOp (strided : Bool) (o : VOps) : State → Frond → FOut :=
  vmemOp (vmemForm strided) o fun s fr =>
    let es := activeList fr o (effLen fr o.w)
    let bad := firstFault (fun e => spCheck fr (vmemAddr strided fr o e) (elemBytes o)) es
    endVec s (forEach (vmemStore strided o (fr.vr o.d.toNat)) (belowFault bad es) fr) bad

/-- vld (R206). -/
def execVld (f : Fin 128) (o : VOps) (s : State) : Host.Outcome State Fault Refusal :=
  .next (runFrond f.val (vloadOp false o) s)

/-- vst (R206). -/
def execVst (f : Fin 128) (o : VOps) (s : State) : Host.Outcome State Fault Refusal :=
  .next (runFrond f.val (vstoreOp false o) s)

/-- vlds (R206). -/
def execVlds (f : Fin 128) (o : VOps) (s : State) : Host.Outcome State Fault Refusal :=
  .next (runFrond f.val (vloadOp true o) s)

/-- vsts (R206). -/
def execVsts (f : Fin 128) (o : VOps) (s : State) : Host.Outcome State Fault Refusal :=
  .next (runFrond f.val (vstoreOp true o) s)

/-! ## Packed codes (R208, R209) -/

/-- CW of a code descriptor: 0 means 32. -/
def codeWidth (d : Nat) : Nat := if bits d 4 0 = 0 then 32 else bits d 4 0

/-- First bit of the code that element e reads, from the base of ga. -/
def codeBit (d e : Nat) : Nat := (bits d 28 8 + e) * codeWidth d

/-- Address of the first byte of element e's code; the low 3 bits of ga are ignored. -/
def codeAddr (fr : Frond) (o : VOps) (e : Nat) : Nat :=
  addr64 ((fr.gr o.a).toNat / 8 * 8 + codeBit (fr.gr o.b).toNat e / 8)

/-- Bytes that hold element e's code. -/
def codeBytes (fr : Frond) (o : VOps) (e : Nat) : Nat :=
  let d := (fr.gr o.b).toNat
  (codeBit d e % 8 + codeWidth d + 7) / 8

/-- The code that element e reads. -/
def codeAt (fr : Frond) (o : VOps) (e : Nat) : Nat :=
  let d := (fr.gr o.b).toNat
  fr.spNat (codeAddr fr o e) (codeBytes fr o e) / 2 ^ (codeBit d e % 8) % 2 ^ codeWidth d

/-- The fault of element e's code. -/
def codeCheck (fr : Frond) (o : VOps) (e : Nat) : Option (Nat × Nat) :=
  spCheck fr (codeAddr fr o e) (codeBytes fr o e)

/-- The form of a VPACK instruction. -/
def packForm (d : FldUse) (men : Nat) : VForm := { d := d, a := .any, b := .any, men := men, ws := wInt }

/-- vunpk: the code zero-extended or truncated to W. -/
def vunpkOp (o : VOps) : State → Frond → FOut :=
  vmemOp (packForm .any 1) o fun s fr =>
    let es := activeList fr o (effLen fr o.w)
    let bad := firstFault (codeCheck fr o) es
    endVec s (putElems fr o (belowFault bad es) (codeAt fr o)) bad

/-- vpcmp: md by R195; below a failing element its bits are written, at and above it none is (R218). -/
def vpcmpOp (o : VOps) : State → Frond → FOut :=
  vmemOp (packForm .mask 1) o fun s fr =>
    let n := effLen fr o.w
    let d := (fr.gr o.b).toNat
    let bad := firstFault (codeCheck fr o) (activeList fr o n)
    let g := fun e => codePred (bits d 31 29) (codeAt fr o e) (bits d 63 32)
    let fr' := match bad with
      | none => writeMask fr o n g
      | some b =>
        let old := fr.mr o.d.toNat
        fr.setM o.d.toNat (buildM 512 fun e =>
          if fr.vri.toNat ≤ e ∧ e < b.1 then maskBit fr o e && g e else old.getLsbD e)
    endVec s fr' bad

/-- vpsel: the codes of the active elements to consecutive elements of vd. -/
def vpselOp (o : VOps) : State → Frond → FOut :=
  vmemOp (packForm .any 2) o fun s fr =>
    let es := activeList fr o (effLen fr o.w)
    let bad := firstFault (codeCheck fr o) es
    endVec s (squeezeInto fr o (belowFault bad es) (codeAt fr o)) bad

/-- Address of the dictionary entry of element e; no vector access raises SP_ALIGN (R206, log 36). -/
def dictAddr (fr : Frond) (o : VOps) (e : Nat) : Nat :=
  let wb := wBits o.w
  alignTo wb (addr64 ((fr.gr o.b).toNat + elem (fr.vr o.a.toNat) wb e * (wb / 8)))

/-- vdict. -/
def vdictOp (o : VOps) : State → Frond → FOut :=
  vmemOp (packForm .any 1) o fun s fr =>
    let es := activeList fr o (effLen fr o.w)
    let bad := firstFault (fun e => spCheck fr (dictAddr fr o e) (elemBytes o)) es
    endVec s (putElems fr o (belowFault bad es) fun e => fr.spNat (dictAddr fr o e) (elemBytes o)) bad

/-- vunpk (R209). -/
def execVunpk (f : Fin 128) (o : VOps) (s : State) : Host.Outcome State Fault Refusal :=
  .next (runFrond f.val (vunpkOp o) s)

/-- vpcmp (R209). -/
def execVpcmp (f : Fin 128) (o : VOps) (s : State) : Host.Outcome State Fault Refusal :=
  .next (runFrond f.val (vpcmpOp o) s)

/-- vpsel (R209). -/
def execVpsel (f : Fin 128) (o : VOps) (s : State) : Host.Outcome State Fault Refusal :=
  .next (runFrond f.val (vpselOp o) s)

/-- vdict (R209). -/
def execVdict (f : Fin 128) (o : VOps) (s : State) : Host.Outcome State Fault Refusal :=
  .next (runFrond f.val (vdictOp o) s)

/-! ## Run lengths (R90, R210) -/

/-- Where a cursor stands: a row of a run, past the last run, or where a read failed. -/
inductive RlePos where
  | at (run off : Nat)
  | past
  | fault (code addr : Nat)
  deriving DecidableEq, Repr

/-- The parts of an RLE page body: NRUNS, the values' base, the stored lengths' base. -/
structure RleBody where
  nruns : Nat
  vals : Nat
  lens : Nat
  deriving DecidableEq, Repr

/-- Reads NRUNS at ga and locates the parts. -/
def rleBody (fr : Frond) (o : VOps) : Except (Nat × Nat) RleBody :=
  let a := (fr.gr o.a).toNat
  match spCheck fr a 4 with
  | some c => .error c
  | none =>
    let n := fr.spNat a 4
    .ok { nruns := n, vals := a + 8, lens := a + 8 + (n * (wBits o.w / 8) + 7) / 8 * 8 }

/-- Moves a cursor forward until its offset lies within its run. -/
def rleNorm (fr : Frond) (b : RleBody) : Nat → Nat → Nat → RlePos
  | 0, _, _ => .past
  | fuel + 1, run, off =>
    if b.nruns ≤ run then .past
    else
      let a := addr64 (b.lens + 2 * run)
      match spCheck fr a 2 with
      | some c => .fault c.1 c.2
      | none =>
        let len := fr.spNat a 2 + 1
        if off < len then .at run off else rleNorm fr b fuel (run + 1) (off - len)

/-- The place of the row k rows after the cursor. -/
def rleAt (fr : Frond) (o : VOps) (k : Nat) : Except (Nat × Nat) (RleBody × RlePos) :=
  match rleBody fr o with
  | .error c => .error c
  | .ok b =>
    let cur := (fr.gr o.b).toNat
    .ok (b, rleNorm fr b (b.nruns - bits cur 16 0 + 1) (bits cur 16 0) (bits cur 47 32 + k))

/-- Address of the value of a run. -/
def rleValAddr (o : VOps) (b : RleBody) (run : Nat) : Nat := addr64 (b.vals + run * (wBits o.w / 8))

/-- The fault of element e of vrle. -/
def rleCheck (fr : Frond) (o : VOps) (e : Nat) : Option (Nat × Nat) :=
  match rleAt fr o e with
  | .error c => some c
  | .ok (_, .fault c a) => some (c, a)
  | .ok (_, .past) => none
  | .ok (b, .at run _) => spCheck fr (rleValAddr o b run) (elemBytes o)

/-- The value of element e of vrle, none past the last run. -/
def rleVal (fr : Frond) (o : VOps) (e : Nat) : Option Nat :=
  match rleAt fr o e with
  | .ok (b, .at run _) => some (fr.spNat (rleValAddr o b run) (elemBytes o))
  | _ => none

/-- vrle: an element whose row lies past the last run is not written. -/
def vrleOp (o : VOps) : State → Frond → FOut :=
  vmemOp (packForm .any 1) o fun s fr =>
    let es := activeList fr o (effLen fr o.w)
    let bad := firstFault (rleCheck fr o) es
    let es := (belowFault bad es).filter fun e => (rleVal fr o e).isSome
    endVec s (putElems fr o es fun e => (rleVal fr o e).getD 0) bad

/-- vrlec: the cursor of the row after element n − 1; MEN is 0, and a fault is that of the lowest
element from fc.vri whose row cannot be located. -/
def vrlecOp (o : VOps) : State → Frond → FOut :=
  vmemOp (packForm .any 0) o fun s fr =>
    let n := effLen fr o.w
    let locate := fun e => match rleAt fr o e with
      | .error c => some c
      | .ok (_, .fault c a) => some (c, a)
      | .ok _ => none
    let es := (List.range (n + 1)).filter fun e => decide (fr.vri.toNat ≤ e) || decide (e = n)
    match firstFault locate es with
    | some b => endVec s fr (some (min b.1 (n - 1), b.2))
    | none =>
      let cur := match rleAt fr o n with
        | .ok (_, .at run off) => BitVec.ofNat 64 (run % 2 ^ 17 + off * 2 ^ 32)
        | .ok (b, _) => BitVec.ofNat 64 (b.nruns % 2 ^ 17)
        | .error _ => 0
      endVec s (fr.setG o.d cur) none

/-- vrle (R210). -/
def execVrle (f : Fin 128) (o : VOps) (s : State) : Host.Outcome State Fault Refusal :=
  .next (runFrond f.val (vrleOp o) s)

/-- vrlec (R210). -/
def execVrlec (f : Fin 128) (o : VOps) (s : State) : Host.Outcome State Fault Refusal :=
  .next (runFrond f.val (vrlecOp o) s)

/-! ## Radix partition (R212) -/

/-- How a run of vpart ends: all placed, a bucket full at an element, or a fault. -/
inductive PartEnd where
  | all
  | full (e : Nat)
  | fault (e code addr : Nat)
  deriving DecidableEq, Repr

/-- Places the elements of a list in order. -/
def partRun (o : VOps) (va vb : BitVec 4096) (tbl : Nat) : List Nat → Frond → PartEnd × Frond
  | [], fr => (.all, fr)
  | e :: t, fr =>
    let ent := tbl + 8 * elem vb 8 e
    match spCheck fr ent 8 with
    | some c => (.fault e c.1 c.2, fr)
    | none =>
      let nx := fr.spNat ent 4
      let n := elemBytes o
      if fr.spNat (ent + 4) 4 < nx + n then (.full e, fr)
      else
        let a := alignTo (wBits o.w) nx
        match spCheck fr a n with
        | some c => (.fault e c.1 c.2, fr)
        | none =>
          partRun o va vb tbl t
            ((fr.spStore a (leBytes (elem va (wBits o.w) e) n)).spStore ent (leBytes (nx + n) 4))

/-- vpart: a is at most 30; gd receives the element at which it stopped, or n. -/
def vpartOp (o : VOps) : State → Frond → FOut :=
  vmemOp (packForm .any 1) o fun s fr =>
    if o.a = 31 then .exc s fr 0x01 0 none
    else
      let n := effLen fr o.w
      let tbl := (fr.gr o.b).toNat / 8 * 8
      let r := partRun o (fr.vr o.a.toNat) (fr.vr (o.a.toNat + 1)) tbl (activeList fr o n) fr
      match r.1 with
      | .all => endVec s (r.2.setG o.d (BitVec.ofNat 64 n)) none
      | .full e => endVec s (r.2.setG o.d (BitVec.ofNat 64 e)) none
      | .fault e c a => endVec s r.2 (some (e, c, a))

/-- vpart (R212). -/
def execVpart (f : Fin 128) (o : VOps) (s : State) : Host.Outcome State Fault Refusal :=
  .next (runFrond f.val (vpartOp o) s)

/-! ## Gather and scatter (R213 to R216) -/

/-- Effective length of a gather or scatter: at most 128 (R193). -/
def gatherLen (fr : Frond) (o : VOps) : Nat := min (effLen fr o.w) 128

/-- Address of element e (R214). -/
def gatherAddr (fr : Frond) (o : VOps) (scale : BitVec 2) (e : Nat) : Nat :=
  alignTo (wBits o.w) (addr64 ((fr.gr o.a).toNat + elem (fr.vr o.b.toNat) 32 e * 2 ^ scale.toNat))

/-- An older pending DEV request of the frond that conflicts with an access (R171, R216). -/
def devConflict (fr : Frond) (wr : Bool) (n : Nat) (as : List Nat) : Bool :=
  fr.tags.any fun t =>
    decide (t.2.st = .pending) && decide (t.2.space = 0) && (wr || t.2.put) &&
    as.any fun a => decide (t.2.remote < a + n) && decide (a < t.2.remote + t.2.len)

/-- Translation of a device element when the instruction issues: a code, or the physical address. A
map entry with another colour is counted there (R339, R342). -/
def devXlate (i : Nat) (wr : Bool) (a : Nat) (s : State) : Except Nat Nat × State :=
  match translate s i a wr with
  | .mapFault => (.error 0x07, s)
  | .colour p c => (.error 0x08, colourFault (some i) p c s)
  | .phys p => (.ok p, s)

/-- Translates the elements of a list up to the first failing one. -/
def xlateAll (i : Nat) (wr : Bool) (addr : Nat → Nat) : List Nat → State →
    List (Nat × Nat) × Option (Nat × Nat × Nat) × State
  | [], s => ([], none, s)
  | e :: t, s =>
    match devXlate i wr (addr e) s with
    | (.error c, s) => ([], some (e, c, addr e), s)
    | (.ok p, s) =>
      let r := xlateAll i wr addr t s
      ((e, p) :: r.1, r.2)

/-- Reads the lines of translated elements in order, a line shared by several elements once; after the
first failing element `extra` further reads are in flight, are checked and discarded (R215, R218). -/
def gatherLines (i n : Nat) (addr : Nat → Nat) : List (Nat × Nat) → List (Nat × MemResp) → Nat →
    Option (Nat × Nat × Nat) → State → List (Nat × Nat) × Option (Nat × Nat × Nat) × State
  | [], _, _, bad, s => ([], bad, s)
  | (e, p) :: t, seen, extra, bad, s =>
    if bad.isSome ∧ extra = 0 then ([], bad, s)
    else
      let line := p / 64 * 64
      let got : MemResp × State := match seen.find? fun x => x.1 = line with
        | some x => (x.2, s)
        | none => readLine (some i) line 0 0 s
      let seen := (line, got.1) :: seen
      match bad, got.1 with
      | some b, _ => gatherLines i n addr t seen (extra - 1) (some b) got.2
      | none, .data d =>
        let r := gatherLines i n addr t seen extra none got.2
        ((e, leNat ((d.drop (p % 64)).take n)) :: r.1, r.2)
      | none, .poison => gatherLines i n addr t seen extra (some (e, 0x09, addr e)) got.2
      | none, _ => gatherLines i n addr t seen extra (some (e, 0x08, addr e)) got.2

/-- vgath. -/
def vgathOp (o : VOps) (scale : BitVec 2) (dev : Bool) : State → Frond → FOut :=
  vmemOp { d := .any, a := .any, b := .any, men := 1, ws := wInt } o fun s fr =>
    let es := activeList fr o (gatherLen fr o)
    let addr := gatherAddr fr o scale
    let n := elemBytes o
    if dev then
      if devConflict fr false n (es.map addr) then .stall
      else
        let i := fr.inst.toNat
        let x := xlateAll i false addr es s
        let k := x.2.2.freshNat
        let r := gatherLines i n addr x.1 [] (k.1 % 64) none k.2
        let bad := match r.2.1 with | some b => some b | none => x.2.1
        endVec r.2.2 (putElems fr o (r.1.map (·.1)) fun e => Tbl.get 0 r.1 e) bad
    else
      let bad := firstFault (fun e => spCheck fr (addr e) n) es
      endVec s (putElems fr o (belowFault bad es) fun e => fr.spNat (addr e) n) bad

/-- Stores of a device scatter in ascending order; after the lowest refused one the others may or may
not have taken effect (R215). -/
def scatterLines (i n wb : Nat) (v : BitVec 4096) (addr : Nat → Nat) : List (Nat × Nat) →
    Option (Nat × Nat × Nat) → State → Option (Nat × Nat × Nat) × State
  | [], bad, s => (bad, s)
  | (e, p) :: t, bad, s =>
    let d := leBytes (elem v wb e) n
    match bad with
    | none =>
      match writePhys (some i) p d s with
      | (.colour, s) => scatterLines i n wb v addr t (some (e, 0x08, addr e)) s
      | (_, s) => scatterLines i n wb v addr t none s
    | some b =>
      let k := s.freshNat
      scatterLines i n wb v addr t (some b) (if k.1 % 2 = 0 then (writePhys (some i) p d k.2).2 else k.2)

/-- vscat. -/
def vscatOp (o : VOps) (scale : BitVec 2) (dev : Bool) : State → Frond → FOut :=
  vmemOp { d := .any, a := .any, b := .any, men := 1, ws := wInt } o fun s fr =>
    let es := activeList fr o (gatherLen fr o)
    let addr := gatherAddr fr o scale
    let n := elemBytes o
    let v := fr.vr o.d.toNat
    if dev then
      if devConflict fr true n (es.map addr) then .stall
      else
        let i := fr.inst.toNat
        let x := xlateAll i true addr es s
        let r := scatterLines i n (wBits o.w) v addr x.1 none x.2.2
        let bad := match r.1 with | some b => some b | none => x.2.1
        endVec r.2 fr bad
    else
      let bad := firstFault (fun e => spCheck fr (addr e) n) es
      endVec s (forEach (fun e fr => fr.spStore (addr e) (leBytes (elem v (wBits o.w) e) n))
        (belowFault bad es) fr) bad

/-- vgath (R213). -/
def execVgath (f : Fin 128) (o : VOps) (scale : BitVec 2) (dev : Bool) (s : State) :
    Host.Outcome State Fault Refusal :=
  .next (runFrond f.val (vgathOp o scale dev) s)

/-- vscat (R213). -/
def execVscat (f : Fin 128) (o : VOps) (scale : BitVec 2) (dev : Bool) (s : State) :
    Host.Outcome State Fault Refusal :=
  .next (runFrond f.val (vscatOp o scale dev) s)

end Sys2Proof.Machine
end

