-- ==== Sys2Proof/Machine/Crc.lean ====
section
/-!
DEFINITION. CRC-32C: Castagnoli polynomial, initial value and final XOR 0xFFFF_FFFF (R38).
-/

namespace Sys2Proof.Machine

/-- One bit of the reflected CRC register. -/
def crcBit (c : Nat) : Nat := if c % 2 = 1 then (c / 2) ^^^ 0x82F63B78 else c / 2

/-- Eight bits. -/
def crcByte (c : Nat) (b : Byte) : Nat :=
  crcBit (crcBit (crcBit (crcBit (crcBit (crcBit (crcBit (crcBit (c ^^^ b.toNat))))))))

/-- The register over a list of bytes. -/
def crcRun : Nat → List Byte → Nat
  | c, [] => c
  | c, b :: t => crcRun (crcByte c b) t

/-- CRC-32C of a list of bytes. -/
def crc32c (d : List Byte) : Nat := crcRun 0xFFFFFFFF d ^^^ 0xFFFFFFFF

end Sys2Proof.Machine
end

