-- ==== Sys2Proof/Machine/LinkOps.lean ====
section
/-!
DEFINITION. Rhizome flits and frames as every block sends them (R557 to R564).
-/

namespace Sys2Proof.Machine

/-! ## Frame types and virtual channels (R558, R562) -/

def ftMgmt : Nat := 0x01
def ftPlan : Nat := 0x02
def ftFanout : Nat := 0x03
def ftXdata : Nat := 0x04
def ftEnd : Nat := 0x05
def ftAckf : Nat := 0x06
def ftFail : Nat := 0x07
def ftStop : Nat := 0x08
def ftBarrier : Nat := 0x09
def ftTelem : Nat := 0x0A

/-- The virtual channel of a frame; XDATA goes by its level. FANOUT, which R558 does not list, goes on
VC1 (log 49). -/
def vcOf (ft level : Nat) : Nat :=
  if ft = ftMgmt then 0 else if ft = ftPlan then 2 else if ft = ftTelem then 3
  else if ft = ftXdata then 4 + level / 2 else 1

/-! ## Bytes of a frame (R561) -/

/-- The 32-byte header with a given FCRC; ROUTE and HOP_IDX are zero in the copy that FCRC covers. -/
def frameHeader (f : RFrame) (zeroRoute : Bool) (fcrc : Nat) : List Byte :=
  leBytes f.ftype 1 ++ leBytes f.hops 1 ++ leBytes (if zeroRoute then 0 else f.hopIdx) 1 ++ leBytes f.inst 1 ++
  leBytes (if zeroRoute then 0 else f.route.toNat) 4 ++ leBytes f.payload.length 2 ++ zeros 2 ++
  leBytes f.fseq 4 ++ leBytes f.xid.toNat 8 ++ zeros 4 ++ leBytes fcrc 4

/-- FCRC of a frame. -/
def frameCrc (f : RFrame) : Nat := crc32c (frameHeader f true 0 ++ f.payload)

/-- A frame as its flits carry it. -/
def frameBytes (f : RFrame) : List Byte := frameHeader f false (frameCrc f) ++ f.payload

/-- A frame from the payload bytes of its flits. -/
def frameOf (b : List Byte) : RFrame :=
  { ftype := leAt b 0 1, hops := leAt b 1 1, hopIdx := leAt b 2 1, inst := leAt b 3 1,
    route := BitVec.ofNat 32 (leAt b 4 4), fseq := leAt b 0x0C 4, xid := BitVec.ofNat 64 (leAt b 0x10 8),
    payload := b.drop 32 }

/-- Whether the bytes of a frame have the length and the FCRC that its header gives. -/
def frameGood (b : List Byte) : Bool :=
  decide (32 ≤ b.length) && decide (leAt b 8 2 = (frameOf b).payload.length) && decide (leAt b 0x1C 4 = frameCrc (frameOf b))

/-! ## Flits (R557 to R559) -/

/-- Cuts bytes into flits of at most 244 payload bytes of one virtual channel; SEQ is given when they
are sent. -/
def cutFlits (vc : Nat) (own : Option (Nat × Nat)) (first : Bool) : Nat → List Byte → List Flit
  | 0, _ => []
  | fuel + 1, b =>
    let rest := b.drop 244
    { vc := vc, seq := 0, sof := first, eof := rest.isEmpty, payload := b.take 244, own := own } ::
      (if rest.isEmpty then [] else cutFlits vc own false fuel rest)

/-- Sends flits that wait while the link is UP, the window of 64 has room and the virtual channel has a
credit; no virtual channel waits on another (R558, R559). -/
def pumpGo (l : Nat) : List Flit → List Nat → State → State
  | [], _, s => s
  | f :: t, blocked, s =>
    let k := s.link l
    let c := k.credits.get 0 f.vc
    if k.st ≠ .up ∨ 64 ≤ k.window.length then s
    else if blocked.contains f.vc ∨ c = 0 then pumpGo l t (f.vc :: blocked) s
    else
      let g := { f with seq := k.nextSeq }
      let s := s.setLink l { k with
        window := k.window ++ [g], sendQ := k.sendQ.erase f, nextSeq := (k.nextSeq + 1) % 4096,
        credits := k.credits.set 0 f.vc (c - 1) }
      pumpGo l t blocked { s with out := { s.out with flits := s.out.flits ++ [(l, 0, g.seq)] } }

def pump (l : Nat) (s : State) : State := pumpGo l (s.link l).sendQ [] s

/-! ## Routes (R564) -/

/-- Nibble k of a route. -/
def nibble (r : W32) (k : Nat) : Nat := bits r.toNat (4 * k + 3) (4 * k)

/-- A route with nibble k replaced. -/
def setNibble (r : W32) (k v : Nat) : W32 :=
  BitVec.ofNat 32 (r.toNat - nibble r k * 16 ^ k + v % 16 * 16 ^ k)

/-- The reply route of a frame at its destination: its nibbles in reverse order. -/
def replyRoute (r : W32) (hops : Nat) : W32 :=
  BitVec.ofNat 32 (((List.range hops).map fun k => nibble r (hops - 1 - k) * 16 ^ k).sum)

/-! ## Sending -/

/-- The key of a destination in `LnkSt.fseq` and `LnkSt.seen`: its route and hops. -/
def routeKey (r : W32) (hops : Nat) : Nat := r.toNat + 2 ^ 32 * hops

/-- Hands a frame, and its bytes, to the link of its next hop; a frame whose next port is DOWN, or that has more than 8
hops, is discarded (R564). -/
def linkBytes (vc : Nat) (own : Option (Nat × Nat)) (f : RFrame) (b : List Byte) (s : State) : State :=
  let l := nibble f.route f.hopIdx
  if 8 < f.hops ∨ (s.link l).st = .down then s
  else
    let k := s.link l
    let s := s.setLink l { k with sendQ := k.sendQ ++ cutFlits vc own true (b.length / 244 + 1) b }
    pump l { s with out := { s.out with frames := s.out.frames ++ [(l, f)] } }

/-- Hands a frame of this module to its link; `level` is the level of its command. -/
def linkFrame (level : Nat) (f : RFrame) (s : State) : State :=
  let own := if f.ftype = ftAckf then none else some (routeKey f.route f.hops, f.fseq)
  linkBytes (vcOf f.ftype level) own f (frameBytes f) s

/-- Sends a frame of this module. All but ACKF are kept until acknowledged (R561). -/
def sendFrame (ft hops : Nat) (route : W32) (inst : Nat) (xid : W64) (level : Nat) (payload : List Byte)
    (s : State) : State :=
  let key := routeKey route hops
  let q := s.lnk.fseq.get 0 key
  let f : RFrame := { ftype := ft, hops := hops, hopIdx := 0, inst := inst, route := route, fseq := q,
                      xid := xid, payload := payload }
  let s := { s with lnk := { s.lnk with fseq := s.lnk.fseq.set 0 key ((q + 1) % 2 ^ 32) } }
  let s := if ft = ftAckf then s
    else { s with lnk := { s.lnk with sent := s.lnk.sent ++ [{ frame := f, level := level, sentAt := s.time }] } }
  linkFrame level f s

/-- Payload of a rollup (R526, R576): HEAD, SUB_COUNT, SUB_POWER, SUB_HOT. -/
def rollupPayload (head : List Byte) (count power hot : Nat) : List Byte :=
  head ++ leBytes count 4 ++ leBytes power 4 ++ leBytes hot 1

end Sys2Proof.Machine
end

