-- ==== Sys2Proof/Machine/MbxOps.lean ====
section
/-!
DEFINITION. Mailboxes as every mailbox command uses them (R460 to R468), the resource record (R470),
and what the end of a frame allocation does for the one who waits for it (R221, R346).
-/

namespace Sys2Proof.Machine

/-! ## Running firmware -/

/-- Management firmware runs and takes commands: booted, not in reset, not held by an arbitration
(R490), and the module awake (R433). -/
def fwRuns (s : State) : Bool :=
  s.pads.booted && !s.pads.inReset && !s.mp.arbitrating && awake s

/-! ## Captured commands (R461, R465) -/

/-- Field of n bytes at an offset of the captured command. -/
def Mbx.arg (m : Mbx) (off n : Nat) : Nat := m.capCmd.toNat / 2 ^ (8 * off) % 2 ^ (8 * n)

/-- TARGET. -/
def Mbx.target (m : Mbx) : Nat := m.arg 4 4

/-- The first of the bytes 1 to 63, TARGET left out, that no range of a list (offset, length) names and
that is not zero: a reserved byte (R465). -/
def badReserved (m : Mbx) (named : List (Nat × Nat)) : Option Nat :=
  (List.range' 1 63).find? fun o =>
    !(decide (4 ≤ o) && decide (o < 8)) && !(named.any fun r => decide (r.1 ≤ o) && decide (o < r.1 + r.2)) &&
    decide (m.arg o 1 ≠ 0)

/-- Error codes of R467. -/
def meUnknown : Nat := 0x01
def meDenied : Nat := 0x02
def meField : Nat := 0x03
def meState : Nat := 0x04
def meLimit : Nat := 0x05
def meInUse : Nat := 0x06
def meHost : Nat := 0x07
def meRejected : Nat := 0x08
def meDrain : Nat := 0x09
def meNotFound : Nat := 0x0A
def meExists : Nat := 0x0B
def meInternal : Nat := 0x0C

/-! ## The end of a command (R462, R463, R466) -/

/-- The response of R466 stands in the mailbox; RLEN counts the header and the payload in units of 8 (log 40). -/
def respond (fn err detail off : Nat) (payload : List Byte) (s : State) : State :=
  let m := s.getMbx fn
  let head := leBytes m.mop 1 ++ leBytes err 1 ++ leBytes detail 2 ++ leBytes m.capSeq.toNat 4 ++ leBytes off 8
  let resp := head ++ payload.take 240
  let rlen := (resp.length + 7) / 8
  let resp := resp ++ zeros (256 - resp.length)
  let st : MbxState := if err = 0 then .done else .error
  let s := s.setMbx fn { m with
    st := st, replay := false, held := false, started := false, err := err, rlen := rlen, resp := resp,
    lastSeq := some m.capSeq, cache := (st, err, rlen, m.mop, resp) }
  if m.irq then hostSend m.port (.msix m.port fn m.vector) s else s

/-- A command ends: its response is an output of firmware (R487). -/
def endMbx (fn err detail off : Nat) (payload : List Byte) (s : State) : State :=
  gateOut (.response fn err detail off payload) (respond fn err detail off payload) s

/-- What the gate held is released in the order of its numbers (R490 step 5, R491). -/
def openGate (s : State) : State :=
  s.mp.gate.foldl (fun s e => match e.2 with
    | .response fn err detail off payload => respond fn err detail off payload s
    | .event code inst detail => logEvent code 0x01 inst detail none s) { s with mp := { s.mp with gate := [] } }

/-- An error without detail. -/
def mbxErr (fn err : Nat) (s : State) : State := endMbx fn err 0 0 [] s

/-- BAD_FIELD names the byte offset of the field. -/
def mbxBad (fn off : Nat) (s : State) : State := endMbx fn meField 0 off [] s

/-- The command ends well without a payload. -/
def mbxOk (fn : Nat) (s : State) : State := endMbx fn 0 0 0 [] s

/-- Changes a mailbox. -/
def State.modMbx (s : State) (fn : Nat) (f : Mbx → Mbx) : State := s.setMbx fn (f (s.getMbx fn))

/-- The mailbox command codes of R469. -/
def mbxOps : List Nat :=
  [0x01, 0x10, 0x11, 0x12, 0x13, 0x20, 0x21, 0x22, 0x30, 0x31, 0x32, 0x40, 0x41, 0x42, 0x50, 0x51, 0x60, 0x70]

/-- Captured commands that no row of the table runs end at once when firmware runs: an unknown MOP, and a CTOP or HOP
that R469 does not list. -/
def refuseUnknown (fn : Nat) (s : State) : State :=
  let m := s.getMbx fn
  if m.st ≠ .busy ∨ m.held ∨ !s.pads.booted then s
  else if !mbxOps.contains m.mop then mbxErr fn meUnknown s
  else if (m.mop = 0x32 ∨ m.mop = 0x70) ∧ (m.arg 8 1 = 0 ∨ 3 < m.arg 8 1) then
    if (s.inst fn).st = .absent then mbxErr fn meState s
    else if m.mop = 0x70 ∧ fn ≠ 0 then mbxErr fn meDenied s
    else mbxBad fn 8 s
  else s

/-- A GO is held while firmware activation quiesces the mailboxes (R481, steps 3 to 5). -/
def quiesced (s : State) : Bool := s.mp.activating && decide (3 ≤ s.mp.actStep) && decide (s.mp.actStep ≤ 4)

/-- Order of the next GO. -/
def nextGo (s : State) : Nat := (s.mbx.map fun e => e.2.goNo + 1).foldl max 0

/-- GO (R461, R462). In recovery mailboxes take no command (R535). -/
def mbxGo (fn port : Nat) (db : W32) (s : State) : State :=
  let s := wake s
  let m := s.getMbx fn
  if s.sec.recovery then s
  else if m.st = .busy then logEvent 0x0106 0x05 fn 0 none s
  else
    let m := { m with irq := db.getLsbD 31, vector := field db 26 16, port := port }
    if m.lastSeq = some m.seq then
      let s := s.setMbx fn { m with
        st := m.cache.1, err := m.cache.2.1, rlen := m.cache.2.2.1, mop := m.cache.2.2.2.1,
        resp := m.cache.2.2.2.2, replay := true }
      if m.irq then hostSend port (.msix port fn m.vector) s else s
    else
      refuseUnknown fn (s.setMbx fn { m with
        capCmd := m.cmd, capSeq := m.seq, st := .busy, replay := false, held := quiesced s, err := 0,
        mop := m.cmd.toNat % 256, rlen := 0, started := false, goNo := nextGo s })

/-- Who may issue a command and what TARGET names (R439, R465). -/
structure MbxRule where
  pfOnly : Bool
  /-- TARGET names an instance -/
  targeted : Bool
  named : List (Nat × Nat)
  deriving DecidableEq, Repr

/-- Whether a function without an instance has nothing but INFO (R438). -/
def fnAbsent (fn : Nat) (s : State) : Bool := decide ((s.inst fn).st = .absent)

/-- Runs a mailbox command: the captured command of the function carries the MOP, is neither held nor
already waiting, and firmware runs. The checks that every command has come first (log 41). -/
def onMbx (fn mop : Nat) (r : MbxRule) (f : Mbx → State → State) (s : State) : State :=
  let m := s.getMbx fn
  if m.st ≠ .busy ∨ m.held ∨ m.started ∨ m.mop ≠ mop ∨ !fwRuns s then s
  else if fnAbsent fn s && decide (mop ≠ 0x01) then mbxErr fn meState s
  else if r.pfOnly && decide (fn ≠ 0) then mbxErr fn meDenied s
  else if r.targeted && decide (fn ≠ 0) && decide (m.target ≠ fn) then mbxErr fn meDenied s
  else if !r.targeted && decide (m.target ≠ 0) then mbxBad fn 4 s
  else
    match badReserved m r.named with
    | some o => mbxBad fn o s
    | none => f m s

/-! ## Host memory that a command names (R440, R468) -/

/-- The port of a mailbox command answers reads: in L0, or absent so that they fail (R552). -/
def mbxReads (s : State) (m : Mbx) : Bool := (s.hostPort m.port).up || (s.hostPort m.port).absent

/-- Ranges of host memory that a mailbox command names are read, with the requester ID of the function that issued it; while its port
is out of L0 the reads, and the command, wait (R440, R468, R552). Ranges of no bytes take no read. -/
def mbxRead (fn : Nat) (m : Mbx) (reads : List (Nat × Nat)) (k : State → State) (s : State) : State :=
  let rs := reads.filter fun r => r.2 ≠ 0
  if mbxReads s m || rs.isEmpty then k (forEach (fun (r : Nat × Nat) s => hostSend m.port (.read m.port fn r.1 r.2) s) rs s) else s

/-! ## The resource record (R470) -/

/-- The record as 128 bytes; every bit of VALID that names a field is set (log 42). -/
def recBytes (r : ResRec) : List Byte :=
  leBytes 0xFFFF 8 ++ leBytes r.sqs 2 ++ leBytes r.cqs 2 ++ leBytes r.slots 4 ++ leBytes r.lists 2 ++
  leBytes r.msix 2 ++ leBytes r.weights.toNat 4 ++ leBytes r.pages 4 ++ leBytes r.dataPages 4 ++
  (r.cmuEnt.map fun x => leBytes x 4).flatten ++ leBytes r.cmuStates 4 ++ leBytes r.cmuSlots 1 ++
  leBytes r.smuShare 1 ++ leBytes r.xchShare 1 ++ zeros 1 ++ (r.digCtx.map fun x => leBytes x 1).flatten ++
  leBytes r.plans 2 ++ zeros 2 ++ leBytes r.storeExt 8 ++ zeros 56

/-- A record as the bytes of host memory give it. -/
def readRec (b : List Byte) : ResRec :=
  { sqs := leAt b 0x08 2, cqs := leAt b 0x0A 2, slots := leAt b 0x0C 4, lists := leAt b 0x10 2,
    msix := leAt b 0x12 2, weights := BitVec.ofNat 32 (leAt b 0x14 4), pages := leAt b 0x18 4,
    dataPages := leAt b 0x1C 4,
    cmuEnt := [leAt b 0x20 4, leAt b 0x24 4, leAt b 0x28 4, leAt b 0x2C 4],
    cmuStates := leAt b 0x30 4, cmuSlots := leAt b 0x34 1, smuShare := leAt b 0x35 1,
    xchShare := leAt b 0x36 1,
    digCtx := [leAt b 0x38 1, leAt b 0x39 1, leAt b 0x3A 1, leAt b 0x3B 1],
    plans := leAt b 0x3C 2, storeExt := leAt b 0x40 8 }

/-! ## Pages above the data region -/

/-- Page p of an instance is mapped, or an allocation for it waits. -/
def pageTaken (s : State) (i p : Nat) : Bool :=
  ((leafEntry s i p).any fun e => e.getLsbD 31) || s.mem.allocs.any fun w => decide (w.inst = i) && decide (w.page = p)

/-- The lowest free page of an instance at or above p. Which pages hold plan images is firmware's
choice (R442). DESIGN CHOICE, log 43. -/
def freePage (s : State) (i : Nat) : Nat → Nat → Nat
  | 0, p => p
  | fuel + 1, p => if pageTaken s i p then freePage s i fuel (p + 1) else p

/-- Allocates n pages for a mailbox command, spread over the dies (R346): the pages, and whether all
were found. -/
def allocMany (i : Nat) (mbx : Option Nat) (wr : Bool) (place : State → Nat) : Nat → State → List Nat × Bool × State
  | 0, s => ([], true, s)
  | n + 1, s =>
    let p := place s
    match allocPage { inst := i, page := p, frame := none, frond := none, mbx := mbx, die := 0, wr := wr } s with
    | (.exhausted, s) => ([], false, s)
    | (_, s) =>
      let r := allocMany i mbx wr place n s
      (p :: r.1, r.2.1, r.2.2)

/-- Gives back pages: mapped ones are unmapped, waiting ones released (R345). -/
def dropPages (i : Nat) (ps : List Nat) (s : State) : State :=
  forEach (unmapPage i) ps (dropWaits (fun w => decide (w.inst = i) && ps.contains w.page) s)

/-! ## The end of an allocation -/

/-! ## Plans across the workers (R569): the payloads of PLAN frames are the model's own (log 62) -/

/-- Payload of a frame that carries a slice of an image with its default block: OP 1, OPT, PB length, plan ID, offset,
total, then the slice. -/
def planSlice (opt pbLen id off total : Nat) (d : List Byte) : List Byte :=
  leBytes 1 1 ++ leBytes opt 1 ++ leBytes pbLen 2 ++ leBytes id 4 ++ leBytes off 4 ++ leBytes total 4 ++ d

/-- Payload of a PLAN_UNLOAD. -/
def planDrop (id : Nat) : List Byte := leBytes 2 1 ++ zeros 3 ++ leBytes id 4

/-- Payload that takes a load back; it is not answered (R569). -/
def planUndo (id : Nat) : List Byte := leBytes 2 1 ++ leBytes 1 1 ++ zeros 2 ++ leBytes id 4

/-- Payload of an answer: OP 3, error, detail, plan ID, offset. -/
def planAnswer (id err detail off : Nat) : List Byte :=
  leBytes 3 1 ++ leBytes err 1 ++ leBytes detail 2 ++ leBytes id 4 ++ leBytes off 8

/-- The slices of an image and its default block. -/
def planSlices (opt pbLen id : Nat) (d : List Byte) : List (List Byte) :=
  (List.range (max 1 ((d.length + 16335) / 16336))).map fun k =>
    planSlice opt pbLen id (16336 * k) d.length ((d.drop (16336 * k)).take 16336)

/-- Sends PLAN frames to every worker. -/
def planToWorkers (i : Nat) (ps : List (List Byte)) (s : State) : State :=
  forEach (fun (w : Worker) s => forEach (fun p s => sendFrame ftPlan w.hops w.route i 0 0 p s) ps s) s.lnk.workers s

/-- Begins to apply a change to the workers, when there are any. -/
def distribute (key i id : Nat) (load : Bool) (ps : List (List Byte)) (s : State) : State :=
  if s.lnk.workers.isEmpty then s
  else
    let d : PlanDist := {
      key := key, inst := i, planId := id, load := load, waits := List.range s.lnk.workers.length, fail := none }
    planToWorkers i ps { s with lnk := { s.lnk with planDist := s.lnk.planDist ++ [d] } }

/-- The change of a key that still waits. -/
def distOf (s : State) (key : Nat) : Option PlanDist := s.lnk.planDist.find? fun d => d.key = key

/-- Forgets the change of a key. -/
def dropDist (key : Nat) (s : State) : State :=
  { s with lnk := { s.lnk with planDist := s.lnk.planDist.filter fun d => d.key ≠ key } }

/-! ## The end of PLAN_LOAD and PLAN_UNLOAD -/

/-- The entry of a plan ID that is being loaded. -/
def loadingPlan (s : State) (i id : Nat) : Option PlanEnt :=
  (s.inst i).plans.find? fun p => decide (p.id = id) && !p.ready

/-- The automata of a plan that becomes usable belong to its binding from acceptance number n on. -/
def bindImages (i : Nat) (e : PlanEnt) (n : Nat) (s : State) : State :=
  let bind (m : ImgEnt) : ImgEnt :=
    if (List.range e.plan.autos.length).any (isImage i e · m) then { m with bound := some n } else m
  forBelow (fun u s => s.setCmu u { s.cmu u with images := (s.cmu u).images.map bind }) 4 s

/-- A plan whose image stands in its pages becomes usable; an older image of the same ID goes (R51, R54). -/
def planReady (i id : Nat) (s : State) : State :=
  match loadingPlan s i id with
  | none => s
  | some e =>
    let s := forEach (fun (pk : Nat × Nat) s =>
        (devWriteN i (pk.2 * pageSize) ((e.plan.image.drop (pk.1 * pageSize)).take pageSize) s).2)
      (List.zip (List.range e.pages.length) e.pages) s
    let s := bindImages i e s.ring.nextAcc (unbindPlan i id s)
    let x := s.inst i
    reapPlans i (s.setInst i { x with plans := x.plans.map fun p =>
      if p.id = id ∧ !p.ready then { p with ready := true, boundFrom := s.ring.nextAcc } else p })

/-- Gives back what a plan that is not loaded after all holds. -/
def dropLoading (i id : Nat) (s : State) : State :=
  match loadingPlan s i id with
  | none => s
  | some e =>
    let s := dropPages i e.pages s
    dropImages i e (s.setInst i { s.inst i with plans := (s.inst i).plans.erase e })

/-- Reports the end of a plan change to the one who waits: the mailbox command's response, or an answer to the
manager. -/
def endPlan (key i id err detail off : Nat) (payload : List Byte) (s : State) : State :=
  if key < 1000 then endMbx key err detail off payload s
  else sendFrame ftPlan s.lnk.mgrHops s.lnk.mgrRoute i 0 0 (planAnswer id err detail off) s

/-- A change ends with a failure: every module that loaded the plan unloads it again (R569). -/
def failPlan (key i id err detail off : Nat) (s : State) : State :=
  let s := dropLoading i id (dropDist key s)
  endPlan key i id err detail off [] s

/-- The end of a change once this module and every worker have done it (R469, R569). -/
def finishPlan (key i id : Nat) (load : Bool) (s : State) : State :=
  if load ∧ (loadingPlan s i id).isSome then s
  else
    let out := fun (s : State) =>
      match (s.inst i).plans.find? fun p => decide (p.id = id) && !p.gone with
      | some e => if load then leBytes e.plan.uid 8 ++ leBytes e.pages.length 4 else []
      | none => []
    match distOf s key with
    | none => endPlan key i id 0 0 0 (out s) s
    | some d =>
      if !d.waits.isEmpty then s
      else
        match d.fail with
        | none => endPlan key i id 0 0 0 (out s) (dropDist key s)
        | some f =>
          let s := if load then planToWorkers i [planUndo id] (reapPlans i (unbindPlan i id s)) else s
          failPlan key i id f.2.1 f.2.2.1 f.2.2.2 s

/-- The response of INST_CREATE or INST_RESIZE. -/
def endWithRec (fn : Nat) (s : State) : State :=
  endMbx fn 0 0 0 (recBytes (s.inst (s.getMbx fn).target).res) s

/-- Every page of an instance is unmapped and released, and what waits for one forgotten. -/
def unmapAll (i : Nat) (s : State) : State :=
  let s := dropWaits (fun w => decide (w.inst = i)) s
  dropLeafTables i (forEach (unmapPage i) (mappedPages s i) s)

/-- The ready lists of an instance are free again. -/
def freeLists (i : Nat) (s : State) : State :=
  { s with disp := { s.disp with lists := s.disp.lists.filter fun e => !(e.2.used && decide (e.2.inst = i)) } }

/-- The frond sets of STRICT: contiguous ranges in ascending instance number, one frond each and the rest in proportion
to the STRICT weights (R297; log 84). -/
def frondSets (s : State) : Tbl Nat :=
  let ws := (s.insts.filter fun e => decide (e.2.st ≠ .absent)).map fun e => (e.1, weightOf s e.1 3)
  let n := ws.length
  let total := max 1 ((ws.map (·.2)).sum)
  let rec go : List (Nat × Nat) → Nat → Nat → Tbl Nat
    | [], _, _ => []
    | (i, w) :: t, k, acc =>
      let lo := k + (128 - n) * acc / total
      let hi := k + 1 + (128 - n) * (acc + w) / total
      ((List.range' lo (hi - lo)).map fun f => (f, i + 1)) ++ go t (k + 1) (acc + w)
  go ws 0 0

/-- In STRICT the sets follow the instances and their weights. -/
def renewSets (s : State) : State :=
  if isStrict s then { s with disp := { s.disp with frondSet := frondSets s } } else s

/-- An INST_CREATE takes effect: the instance is ACTIVE, logged, and older log entries are not its own (R453, R470). -/
def createDone (fn : Nat) (s : State) : State :=
  let i := (s.getMbx fn).target
  let s := s.setInst i { s.inst i with st := .active, logBase := s.log.next.toNat }
  endWithRec fn (fwEvent 0x0601 i 0 (renewSets s))

/-- An INST_CREATE that finds no frame for its data region has no effect (R441). -/
def undoCreate (i : Nat) (s : State) : State := (freeLists i (unmapAll i s)).setInst i Inst.absent

/-- The end of an INST_RESIZE: its drains and pages are over. -/
def finishResize (fn i : Nat) (s : State) : State :=
  let x := s.inst i
  endWithRec fn (s.setInst i { x with resize := none, st := if x.st = .resizing then .active else x.st })

/-- A growth of the data region that finds no frame: the region keeps its old size (log 83). -/
def undoGrow (i : Nat) (s : State) : State :=
  let x := s.inst i
  match x.resize with
  | none => s
  | some r =>
    let s := dropPages i (List.range' r.old.dataPages (x.res.dataPages - r.old.dataPages)) s
    let x := s.inst i
    s.setInst i { x with
      resize := none, st := if x.st = .resizing then .active else x.st, res := { x.res with dataPages := r.old.dataPages } }

/-- The plan ID that a waiting PLAN_LOAD loads: of a mailbox command its PLAN_ID, of a manager's frames the one in
`planDist` or the one still loading. -/
def loadingId (s : State) (key i : Nat) : Nat :=
  if key < 1000 then (s.getMbx key).arg 8 4 else (((s.inst i).plans.find? fun p => !p.ready).map (·.id)).getD 0

/-- The pages of an INST_RESIZE's or INST_CREATE's command, or a PLAN_LOAD's, are all there: the command
ends, unless drains or workers still wait (R346, R446, R569). -/
def mbxPagesDone (fn : Nat) (s : State) : State :=
  let m := s.getMbx fn
  if s.mem.allocs.any fun w => w.mbx = some fn then s
  else if fn < 1000 ∧ !(decide (m.st = .busy) && m.started) then s
  else if fn < 1000 ∧ m.mop = 0x10 then createDone fn s
  else if fn < 1000 ∧ m.mop = 0x11 then
    if (s.inst m.target).resize.any fun r => r.waits then s else finishResize fn m.target s
  else
    let i := fn % 1000
    let id := loadingId s fn i
    finishPlan fn i id true (planReady i id s)

/-- The runtime returns from the exception it has resolved (R221): the instruction starts again. -/
def runtimeEret (f : Nat) (s : State) : State :=
  let fr := s.frond f
  s.setFrond f { fr.doEret with pc := fr.epc }

/-- The frond stands in its handler for the access for which an allocation was made: an item of the same instance, at the page of
its faulting address (R221, R450). -/
def waitsFor (w : AllocWait) (fr : Frond) : Bool :=
  fr.item.isSome && fr.exl && decide (fr.inst.toNat = w.inst) && decide (fr.tval.toNat / pageSize = w.page)

/-- A page is mapped: the one who waits for it goes on. -/
def allocDone (w : AllocWait) (s : State) : State :=
  match w.frond, w.mbx with
  | some f, _ =>
    match (s.frond f).item with
    | none => s
    | some it =>
      if waitsFor w (s.frond f) then runtimeEret f (s.modCmd it.slot fun c => { c with pages := c.pages ++ [w.page] }) else s
  | none, some fn => mbxPagesDone fn s
  | none, none => s

/-- No frame is left (R346): the item fails with RESOURCE_EXHAUSTED, or the mailbox command ends with
LIMIT. -/
def allocFailed (w : AllocWait) (s : State) : State :=
  match w.frond, w.mbx with
  | some f, _ => failItem f stExhausted s
  | none, some fn =>
    let m := s.getMbx fn
    if fn < 1000 ∧ m.mop = 0x10 then mbxErr fn meLimit (undoCreate m.target s)
    else if fn < 1000 ∧ m.mop = 0x11 then mbxErr fn meLimit (undoGrow m.target s)
    else
      let i := fn % 1000
      let id := loadingId s fn i
      failPlan fn i id meLimit 0x0E 0 (if s.lnk.workers.isEmpty then s else planToWorkers i [planUndo id] s)
  | none, none => s

/-- An allocation that has waited for a release scrub tries again: it takes a frame, keeps its place, or fails when the quota is used
up or no frame is left (R346). -/
def retryAlloc (w : AllocWait) (s : State) : State :=
  if !s.mem.allocs.contains w then s
  else
    let t := { s with mem := { s.mem with allocs := s.mem.allocs.erase w } }
    if quotaUsed s w.inst then allocFailed w t
    else
      match frameFor s w.inst (prefDie w s) with
      | some (f, re) => if re then giveFrame w f re t else allocDone w (giveFrame w f re t)
      | none => if scrubRunning s then s else allocFailed w t

/-- Allocations that waited for a release scrub try again, in order (R346). -/
def retryAllocs (s : State) : State := forEach retryAlloc (s.mem.allocs.filter fun w => w.frame.isNone) s

end Sys2Proof.Machine
end

