-- ==== Sys2Proof/Machine/CmuOps.lean ====
section
/-!
DEFINITION. Content match unit: tables and searches (R232 to R237), automata (R240, R241), update runs
(R243 to R251), and what a unit that fails does to its work.
-/

namespace Sys2Proof.Machine

/-! ## Ternary searches (R232 to R235) -/

/-- Set bits of a mask: the mask length (R233). -/
def maskLen (m : BitVec 144) : Nat := ((List.range 144).filter fun i => m.getLsbD i).length

/-- Whether a key matches an entry of the table with selector t (R233, R235). -/
def entMatches (t : BitVec 12) (key : BitVec 144) (e : TEntry) : Bool :=
  e.valid && decide (e.tsel = t) && decide ((key ^^^ e.key) &&& e.mask = 0)

/-- The better of two matching entries: the longer mask, then the lower address (R234). -/
def betterEnt (a b : Nat × TEntry) : Nat × TEntry :=
  if maskLen a.2.mask < maskLen b.2.mask then b
  else if maskLen a.2.mask = maskLen b.2.mask ∧ b.1 < a.1 then b else a

/-- The best of a list of matching entries. -/
def bestEnt : List (Nat × TEntry) → Option (Nat × TEntry)
  | [] => none
  | e :: t =>
    match bestEnt t with
    | none => some e
    | some b => some (betterEnt e b)

/-- A search of a table: index in the table and RESULT of the entry that wins (R234, R237). -/
def searchTable (u : CmuUnit) (t : CmuTable) (key : BitVec 144) : Option (Nat × W32) :=
  match bestEnt (u.ent.filter fun e =>
      decide (t.base ≤ e.1) && decide (e.1 < t.base + t.size) && entMatches t.tsel key e.2) with
  | none => none
  | some e => some (e.1 - t.base, e.2.res)

/-! ## Automata (R240, R241) -/

/-- NEXT[c] of a state record. -/
def autoNext (r : BitVec 512) (c : Nat) : Nat := (r.toNat >>> (15 * c)) % 2 ^ 15
/-- ACCEPT. -/
def autoAccept (r : BitVec 512) : Bool := r.getLsbD 480
/-- PID. -/
def autoPid (r : BitVec 512) : Nat := field r 492 481

/-- One lane from state st before byte position p; the result is the pattern and the position (R241). -/
def laneRun (state : Nat → BitVec 512) (cls : List Nat) : List Byte → Nat → Nat → Option (Nat × Nat)
  | [], st, p =>
    let r := state st
    let e := state (autoNext r 31)
    match autoAccept r, autoAccept e with
    | true, true => some (min (autoPid r) (autoPid e), p)
    | true, false => some (autoPid r, p)
    | false, true => some (autoPid e, p)
    | false, false => none
  | b :: t, st, p =>
    let r := state st
    if autoAccept r then some (autoPid r, p)
    else laneRun state cls t (autoNext r (cls.getD b.toNat 0)) (p + 1)

/-- Bytes that the lane has consumed when it stops. -/
def laneBytes (n : Nat) : Option (Nat × Nat) → Nat
  | some (_, p) => p
  | none => n

/-- The image table entry of image idx of a plan, under the binding that began at an acceptance number (R51, R242). -/
def imgEnt (u : CmuUnit) (i uid bound idx : Nat) : Option ImgEnt :=
  u.images.find? fun m => decide (m.inst = i) && decide (m.uid = uid) && decide (m.bound = some bound) && decide (m.idx = idx)

/-- Runs a string against an image held by a unit. -/
def runImage (u : CmuUnit) (m : ImgEnt) (a : AutoImg) (str : List Byte) : Option (Nat × Nat) :=
  laneRun (fun k => u.states.get 0 (m.base + k)) a.classMap str a.start 0

/-! ## Tables (R235, R251) -/

/-- The table that an ID names for a command of acceptance number n: the one that stood when it was accepted (R23); one
deleted since then still serves it (R251). -/
def cmuTableFor (s : State) (i id n : Nat) : Option (Nat × CmuTable) :=
  (List.range 4).findSome? fun u =>
    ((s.cmu u).tables.find? fun t =>
      decide (t.inst = i) && decide (t.id = id) && decide (t.since ≤ n) && (!t.gone || decide (n < t.goneAt))).map fun t => (u, t)

/-- The table that an ID names now. -/
def cmuTableNow (s : State) (i id : Nat) : Option (Nat × CmuTable) :=
  (List.range 4).findSome? fun u =>
    ((s.cmu u).tables.find? fun t => decide (t.inst = i) && decide (t.id = id) && !t.gone).map fun t => (u, t)

/-- Changes the table with a given selector in a unit. -/
def modTable (u : Nat) (sel : BitVec 12) (f : CmuTable → CmuTable) (s : State) : State :=
  s.setCmu u { s.cmu u with tables := (s.cmu u).tables.map fun t => if t.tsel = sel then f t else t }

/-- Entries of a unit that an instance's tables hold (CMU_ENT_USED, R261, R265). -/
def entUsed (x : CmuUnit) (i : Nat) : Nat := ((x.tables.filter fun t => t.inst = i).map (·.size)).sum

/-- States of a unit that an instance's images hold (CMU_ST_USED). -/
def stUsed (x : CmuUnit) (i : Nat) : Nat := ((x.images.filter fun m => m.inst = i).map (·.nstate)).sum

/-- Whether [c, c + n) lies in the array and overlaps no block. -/
def blockFits (lim : Nat) (blocks : List (Nat × Nat)) (c n : Nat) : Bool :=
  decide (c + n ≤ lim) && blocks.all fun b => decide (c + n ≤ b.1) || decide (b.1 + b.2 ≤ c)

/-- The lowest base of n consecutive free places: which block is taken is firmware's choice (log 53). -/
def firstBlock (lim : Nat) (blocks : List (Nat × Nat)) (n : Nat) : Option Nat :=
  (sortOn id (0 :: blocks.map fun b => b.1 + b.2)).find? fun c => blockFits lim blocks c n

/-- The lowest table selector not in use. -/
def freeSel (x : CmuUnit) : Nat :=
  (firstUnlisted (x.tables.map fun t => (t.tsel.toNat, t)) (x.tables.length + 1) 0).getD 0

/-- Clears VALID over a block of an array. -/
def clearValid (t : Tbl TEntry) (lo n : Nat) : Tbl TEntry :=
  (t.map fun e => if lo ≤ e.1 ∧ e.1 < lo + n then (e.1, { e.2 with valid := false }) else e).filter
    fun e => e.2 ≠ TEntry.empty

/-! ## Update records (R248, R249) -/

/-- A record from its 64 bytes. -/
def readRecord (b : List Byte) : UpdRec :=
  { index := leAt b 0 4, write := decide (leAt b 4 1 = 1), res := BitVec.ofNat 32 (leAt b 8 4),
    key := BitVec.ofNat 144 (leAt b 0x10 18), mask := BitVec.ofNat 144 (leAt b 0x28 18) }

/-- What is wrong with a record: false a field, true the INDEX, with the byte offset. -/
def recordError (size : Nat) (b : List Byte) : Option (Bool × Nat) :=
  let inval := decide (leAt b 4 1 = 2)
  let key := leAt b 0x10 18
  let msk := leAt b 0x28 18
  if leAt b 4 1 ≠ 1 ∧ leAt b 4 1 ≠ 2 then some (false, 4)
  else if !zeroAt b 5 3 then some (false, 5)
  else if inval ∧ leAt b 8 4 ≠ 0 then some (false, 8)
  else if !zeroAt b 0x0C 4 then some (false, 0x0C)
  else if (inval ∧ key ≠ 0) ∨ key &&& msk ≠ key then some (false, 0x10)
  else if !zeroAt b 0x22 6 then some (false, 0x22)
  else if inval ∧ msk ≠ 0 then some (false, 0x28)
  else if !zeroAt b 0x3A 6 then some (false, 0x3A)
  else if size ≤ leAt b 0 4 then some (true, 0)
  else none

/-- Cuts bytes into pieces of n. -/
def chunksOf (n : Nat) : Nat → List Byte → List (List Byte)
  | 0, _ => []
  | fuel + 1, b => if b.isEmpty then [] else b.take n :: chunksOf n fuel (b.drop n)

/-- The records of a list. -/
def recordsOf (b : List Byte) : List (List Byte) := chunksOf 64 (b.length / 64 + 1) b

/-- The first record of a list that fails, with its index, kind and offset. -/
def firstBadRecord (size : Nat) : Nat → List (List Byte) → Option (Nat × Bool × Nat)
  | _, [] => none
  | k, b :: t =>
    match recordError size b with
    | some e => some (k, e)
    | none => firstBadRecord size (k + 1) t

/-! ## Update runs -/

/-- Adds to the counters of a unit and of an instance in it: k is 0 searches, 1 bytes, 2 steps (R265). -/
def countCmu (u i k n : Nat) (s : State) : State :=
  let x := s.cmu u
  let x := { x with instCnt := x.instCnt.set 0 (4 * i + k) (x.instCnt.get 0 (4 * i + k) + BitVec.ofNat 64 n) }
  -- searches and steps take slots of the window of R308
  let s := if k = 1 then s else { s with disp := { s.disp with
    winEng := s.disp.winEng.set 0 u (s.disp.winEng.get 0 u + n),
    winEngOwn := s.disp.winEngOwn.set 0 (1024 * i + u) (s.disp.winEngOwn.get 0 (1024 * i + u) + n) } }
  s.setCmu u (if k = 0 then { x with searches := x.searches + BitVec.ofNat 64 n }
    else if k = 1 then { x with autoBytes := x.autoBytes + BitVec.ofNat 64 n }
    else { x with updSteps := x.updSteps + BitVec.ofNat 64 n })

/-- A refill that writes every index ends the FAULTED state (R251). -/
def writesAll (size : Nat) (recs : List UpdRec) : Bool :=
  (List.range size).all fun k => recs.any fun r => r.write && decide (r.index = k)

/-- The end of a run: its command succeeds, or its mailbox command ends (R249, R251). A run told to stop
has its command's outcome fixed already; an aborted one reports the records applied (R250). -/
def endRun (u : Nat) (r : UpdRun) (s : State) : State :=
  let s := s.setCmu u { s.cmu u with upd := (s.cmu u).upd.drop 1, busy := none }
  match r.slot, r.mbx with
  | some k, _ =>
    if r.stop then s.modCmd k fun c => if c.outcome = some stAborted then { c with r0 := BitVec.ofNat 64 r.applied } else c
    else succeed k (BitVec.ofNat 64 r.applied) s
  | none, some fn =>
    if r.stop then mbxErr fn meState s
    else
      let s := if writesAll (((cmuTableNow s r.inst r.table).map fun t => t.2.size).getD 0) r.recs then
          match cmuTableNow s r.inst r.table with
          | some (v, t) => modTable v t.tsel (fun t => { t with faulted := false }) s
          | none => s
        else s
      endMbx fn 0 0 0 (leBytes r.applied 4) s
  | none, none => s

/-! ## Slots (R262, R263) -/

/-- Slot shares of the instances that exist (R261). -/
def slotShares (s : State) : List (Nat × Nat) := s.insts.map fun e => (e.1, e.2.res.cmuSlots)

/-- The slot share of an instance. -/
def slotShare (s : State) (i : Nat) : Nat := (s.inst i).res.cmuSlots

/-- The owner of a slot of the frames of STRICT: slot 0 is the comparer's, slots 1 to 1,023 stand in fixed positions by share
(R263). -/
def slotOwner (s : State) (q : Nat) : Option Nat :=
  if q % 1024 = 0 then none else quantumOwner (slotShares s) 1023 (q % 1024 - 1)

/-- An instance has slots in the frames of STRICT; the lanes are divided in the same proportion (R263). -/
def hasSlot (s : State) (i : Nat) : Bool := (List.range 1024).any fun q => decide (slotOwner s q = some i)

/-- Instances whose bursts have their grant on a unit. -/
def burstWaiters (s : State) (u : Nat) : List Nat :=
  s.pwr.grants.filterMap fun g => match g.holder with
    | .cmu v k => if v = u then (s.cmd k).map (·.inst) else none
    | _ => none

/-- Instances with work that waits for slots of a unit: the record whose steps have begun, the running MATCH_SEARCH
commands of its tables, and bursts. -/
def slotWaiters (s : State) (u : Nat) : List Nat :=
  (((s.cmu u).upd.take 1).filter fun r => r.step ≠ 0).map (·.inst) ++
  (s.ring.cmds.filterMap fun e => e.2.bind fun c =>
    if c.opc = 0x31 ∧ c.phase = .running ∧ c.outcome.isNone ∧ ((cmuTableFor s c.inst c.obj c.accNo).any fun x => x.1 = u) then
      some c.inst else none) ++ burstWaiters s u

/-- An instance's work takes the slot that is offered: in STRICT the next one of the frame that is owned by work at hand (R263), else
when it is its turn in the weighted round robin (R262; log 149). -/
def slotMine (s : State) (u i : Nat) : Bool :=
  let x := s.cmu u
  if x.strict then (frameNext (slotOwner s) 1024 x.pos (slotWaiters s u)).any fun y => y.1 = i
  else decide (wrrNext (slotShare s) x.turn x.credit (slotWaiters s u) = some i)

/-- Slots of the frame that an instance has from the position reached until one of another instance with work comes. -/
def ownRun (s : State) (u i : Nat) : Nat :=
  (((List.range 1024).map fun k => slotOwner s ((s.cmu u).pos + k)).takeWhile fun o =>
    decide (o = some i) || !(o.any (slotWaiters s u).contains)).countP fun o => decide (o = some i)

/-- What is left of a turn: at least one slot. -/
def turnLeft (w : Nat → Nat) (turn credit i : Nat) : Nat := max 1 (wrrLeft w turn credit i 0)

/-- Slots that an instance may take before another's turn comes; none when no other instance waits. -/
def slotLimit (s : State) (u i : Nat) : Option Nat :=
  let x := s.cmu u
  if (slotWaiters s u).all (fun j => decide (j = i)) then none
  else if x.strict then some (max 1 (ownRun s u i)) else some (turnLeft (slotShare s) x.turn x.credit i)

/-- The position behind the n-th slot of an instance from a position on. -/
def behindOwn (s : State) (i pos n : Nat) : Nat :=
  let own := (List.range 1024).filter fun q => decide (slotOwner s q = some i)
  let l := own.filter (fun q => decide (pos ≤ q)) ++ own.filter fun q => decide (q < pos)
  if n = 0 ∨ own.isEmpty then pos else (l.getD ((n - 1) % own.length) 0 + 1) % 1024

/-- An instance has taken n slots: its turn is shorter by them, and in STRICT the frame has gone on. -/
def takeSlots (u i n : Nat) (s : State) : State :=
  let x := s.cmu u
  s.setCmu u (if x.strict then { x with pos := behindOwn s i x.pos n }
    else { x with turn := i, credit := wrrLeft (slotShare s) x.turn x.credit i n })

/-- The same for lane cycles, in strings (log 149): in STRICT an instance has lanes of its own (R263), else it waits its turn (R262). -/
def laneMine (s : State) (u i : Nat) : Bool :=
  let x := s.cmu u
  if x.strict then hasSlot s i else decide (wrrNext (slotShare s) x.laneTurn x.laneCredit (burstWaiters s u) = some i)

def laneLimit (s : State) (u i : Nat) : Option Nat :=
  let x := s.cmu u
  if x.strict ∨ (burstWaiters s u).all (fun j => decide (j = i)) then none
  else some (turnLeft (slotShare s) x.laneTurn x.laneCredit i)

def takeLanes (u i n : Nat) (s : State) : State :=
  let x := s.cmu u
  if x.strict then s
  else s.setCmu u { x with laneTurn := i, laneCredit := wrrLeft (slotShare s) x.laneTurn x.laneCredit i n }

/-- The run whose record comes next stands first: that of the instance in turn (R246, R262). -/
def arrangeRuns (u : Nat) (s : State) : State :=
  let x := s.cmu u
  match wrrNext (slotShare s) x.turn x.credit (x.upd.map (·.inst)) with
  | none => s
  | some i =>
    match x.upd.find? fun r => r.inst = i with
    | none => s
    | some r => s.setCmu u { x with upd := r :: x.upd.erase r }

/-- Puts the run in progress back with a change. -/
def setRun (u : Nat) (r : UpdRun) (s : State) : State :=
  s.setCmu u { s.cmu u with upd := r :: (s.cmu u).upd.drop 1 }

/-- A record boundary: the next record, or the end of the run (R246, R250). -/
def nextRecord (u : Nat) (r : UpdRun) (s : State) : State :=
  let r := { r with applied := r.applied + 1, recs := r.recs, step := 0 }
  arrangeRuns u (if r.stop ∨ r.recs.length ≤ r.applied then endRun u r s else setRun u r s)

/-- Queues a run on its unit; one without records ends at once. -/
def startRun (u : Nat) (r : UpdRun) (s : State) : State :=
  if r.recs.isEmpty then
    match r.mbx with
    | some fn => endMbx fn 0 0 0 (leBytes 0 4) s
    | none => s
  else s.setCmu u { s.cmu u with upd := (s.cmu u).upd ++ [r] }

/-- On an instance fence a unit starts no further record of the instance (R264). -/
def fenceCmu (i u : Nat) (s : State) : State :=
  let x := s.cmu u
  let gone := x.upd.filter fun r => decide (r.inst = i) && decide (r.step = 0)
  let s := s.setCmu u { x with
    upd := (x.upd.filter fun r => !(decide (r.inst = i) && decide (r.step = 0))).map fun r =>
      if r.inst = i then { r with stop := true } else r }
  forEach (fun (r : UpdRun) s => match r.mbx with | some fn => mbxErr fn meState s | none => s) gone s

/-! ## Order of match commands (R246) -/

/-- An earlier MATCH_UPDATE or MATCH_SEARCH of the same SQ that names the same table and has no outcome
yet, or whose record in progress has still steps to take. -/
def matchBlocked (c : Cmd) (s : State) : Bool :=
  s.ring.cmds.any fun e => e.2.any fun x =>
    decide (x.inst = c.inst) && decide (x.sq = c.sq) && decide (x.accNo < c.accNo) && x.accepted &&
    (decide (x.opc = 0x30) || decide (x.opc = 0x31)) && decide (x.obj = c.obj) && x.dupOf.isNone &&
    (x.outcome.isNone || s.eng.cmu.any fun y => y.2.upd.any fun r => decide (r.slot = some e.1))

/-- The bytes read for a match command. -/
def matchBytes (c : Cmd) : List Byte :=
  match c.work with
  | .matching d _ _ _ => d
  | _ => []

/-- Holds a match command behind an earlier one, with its bytes. -/
def holdMatch (slot : Nat) (d : List Byte) (s : State) : State :=
  s.modCmd slot fun c => { c with phase := .ordering, work := .matching d 0 [] 0 }

/-- Asks the host for the bytes [a, a + n) of a command (R440). -/
def askHost (slot : Nat) (c : Cmd) (a n : Nat) (s : State) : State :=
  let p := (s.sq c.inst c.sq).port
  hostSend p (.read p c.inst a n) (s.modCmd slot fun c => { c with phase := .hostRead })

/-! ## Throttle steps (R258 to R260) -/

/-- Lower edge of a step in °C. -/
def stepEdge (k : Nat) : Nat := if k = 1 then 85 else if k = 2 then 95 else 100

/-- The step whose range a reading lies in. -/
def stepOf (t : Nat) : Nat := if 100 < t then 3 else if 95 < t then 2 else if 85 < t then 1 else 0

/-- A step is left downward only 2 °C below its lower edge. -/
def stepDown (t : Nat) : Nat → Nat
  | 0 => 0
  | k + 1 => if t + 2 ≤ stepEdge (k + 1) then stepDown t k else k + 1

/-- The step of a unit after a reading in °C: in STRICT the 50 % step up to 100 °C (R260); under SAG_WARN step 2 or above
(R516). -/
def nextStep (strict sag : Bool) (temp old : Nat) : Nat :=
  let k := min 3 (max (stepOf temp) (stepDown temp old))
  if strict then (if 100 < temp then 3 else 2) else if sag then max 2 k else k

/-- A unit runs at the step of a reading; a step to 3 in STRICT is logged. -/
def throttleTo (u temp : Nat) (s : State) : State :=
  let x := s.cmu u
  let k := nextStep x.strict s.pwr.sag temp x.step
  let s := s.setCmu u { x with temp := BitVec.ofNat 8 temp, reading := temp, step := k }
  if x.strict && decide (k = 3) && decide (x.step ≠ 3) then logEvent 0x0403 (0x20 + u) 0 0 none s else s

end Sys2Proof.Machine
end

