-- ==== Sys2Proof/Machine/DeviceMemory.lean ====
section
/-!
DEFINITION. Device memory (R331 to R356): requests at the controllers, map changes, scrub and RECOLOUR,
patrol, retrains and refresh, and the backing of state-region pages (R221).
-/

namespace Sys2Proof.Machine

/-- The channel of an address serves requests: during a retrain and in self-refresh they wait (R352,
R353). -/
def chanServes (s : State) (a : Nat) : Bool :=
  let st := (s.chan (chanAt a)).st
  decide (st ≠ .retraining) && decide (st ≠ .selfRefresh)

/-- The address lies in device memory (R331). -/
def inMemory (a : Nat) : Bool := decide (a < nFrames * pageSize)

/-- The controller serves a request: one line is read by R335 and R342, or written by R336, R342 and R592. -/
def serveMem (r : MemReq) (s : State) : MemResp × State :=
  match r.data with
  | none => readLine r.req r.addr r.e0 r.e1 s
  | some w => writeMarked r.req r.addr w s

/-- A request reaches its controller: it is served, or waits for its channel (R352). -/
def askMem (r : MemReq) (s : State) : State :=
  if chanServes s r.addr then
    let x := serveMem r s
    { x.2 with out := { x.2.out with mem := x.1 } }
  else { s with mem := { s.mem with waits := s.mem.waits ++ [r] } }

/-- A channel serves again: the requests that waited for it are served in the order of their arrival (R336, R352). -/
def resumeChan (c : Nat) (s : State) : State :=
  let mine := s.mem.waits.filter fun r => chanAt r.addr = c
  let s := { s with mem := { s.mem with waits := s.mem.waits.filter fun r => chanAt r.addr ≠ c } }
  forEach (fun (r : MemReq) s =>
    let x := serveMem r s
    { x.2 with out := { x.2.out with mem := x.1, memHeld := x.2.out.memHeld ++ [x.1] } }) mine s

/-- MEM_READ_REQUEST of one line. -/
def execMemReadRequest (req : Option Nat) (addr e0 e1 : Nat) (s : State) : Host.Outcome State Fault Refusal :=
  if inMemory addr then .next (askMem { req := req, addr := addr, e0 := e0, e1 := e1, data := none } s) else .next s

/-- MEM_WRITE_REQUEST within one line. -/
def execMemWriteRequest (req : Option Nat) (addr : Nat) (data : MemWrite) (s : State) :
    Host.Outcome State Fault Refusal :=
  if inMemory addr && !data.bytes.isEmpty && decide (addr % 64 + data.bytes.length ≤ 64) then
    .next (askMem { req := req, addr := addr, e0 := 0, e1 := 0, data := some data } s)
  else .next s

/-! ## Map changes (R340) -/

/-- Every request of the instance that was translated under the old entry of a page completes. -/
def settlePage (i p : Nat) (s : State) : State :=
  forBelow (fun f s =>
    forBelow (fun tag s =>
      let t := (s.frond f).tags.get StreamTag.idle tag
      if t.st = .pending ∧ t.space = 0 ∧ t.inst = i ∧ t.xl.any (fun x => x.1 = p)
      then endRequest f tag none s else s) 16 s) 128 s

/-- LEAF_ENTRY_CHANGE: the entry is written, the translation caches are invalidated, old requests
complete, and a frame that the instance no longer maps is released. -/
def execLeafEntryChange (inst page : Nat) (ent : W32) (s : State) : Host.Outcome State Fault Refusal :=
  let old := ((leafEntry s inst page).getD 0).toNat
  let s := settlePage inst page (setLeaf inst page (ent &&& 0xCFFFFFFF) s)
  let f := bits old 19 0
  if bit old 31 && (!ent.getLsbD 31 || decide (field ent 19 0 ≠ f)) && decide ((s.frame f).owner = some inst)
  then .next (releaseFrame f s) else .next s

/-! ## Scrub and RECOLOUR (R345, R346) -/

/-- RELEASE_SCRUB_BURST: a burst asks the admission controller for 12 units for 336 µs; it starts when
the grant is given. Its level is firmware's choice. DESIGN CHOICE, log 44. The pacing of bursts is a timer of the module's own, which
wakes it (R302, R433). -/
def execReleaseScrubBurst (s : State) : Host.Outcome State Fault Refusal :=
  let s := settleLeaving s
  if s.mem.releaseQ.isEmpty || !s.mem.burst.isEmpty || s.mem.scrubPaused || s.mem.patrolStop ||
     (s.pwr.grants ++ s.pwr.revoked ++ s.pwr.waits).any (fun g => g.holder = .scrub) then .next s
  else if !awake s then .next (wake s)
  else .next (requestGrant 12 336 0 none true none .scrub s)

/-- The next frame of the burst is scrubbed, or the burst ends and its grant with it. -/
def nextScrub (s : State) : State :=
  match s.mem.burst with
  | [] => endHolder .scrub s
  | f :: _ => if s.mem.scrubPaused || s.mem.patrolStop then s else s.setFrame f { s.frame f with scrubbing := true }

/-- The scrub of a frame ends: every line holds zeros and the former owner's colour, and the frame is FREE. -/
def scrubDone (frame : Nat) (s : State) : State :=
  let x := s.frame frame
  if x.st ≠ .released ∨ !x.scrubbing then s
  else
    let s := wipeFrame frame x.tbl s
    let s := s.setFrame frame { s.frame frame with st := .free, scrubbing := false, ce := x.ce, ue := x.ue }
    let s := { s with mem := { s.mem with burst := s.mem.burst.erase frame } }
    retryAllocs (nextScrub s)

/-- SCRUB_FRAME_DONE. -/
def execScrubFrameDone (frame : Nat) (s : State) : Host.Outcome State Fault Refusal := .next (scrubDone frame s)

/-- RECOLOUR_DONE: the frame holds zeros and the new colour, it is OWNED and its map entry is written. -/
def execRecolourDone (frame : Nat) (s : State) : Host.Outcome State Fault Refusal :=
  match s.mem.allocs.find? fun w => w.frame = some frame with
  | none => .next s
  | some w =>
    let s := wipeFrame frame (BitVec.ofNat 8 w.inst) s
    let s := s.setFrame frame { s.frame frame with st := .owned }
    let s := setLeaf w.inst w.page (leafOf w.inst frame w.wr) s
    let s := { s with mem := { s.mem with allocs := s.mem.allocs.erase w } }
    .next (allocDone w s)

/-! ## State-region pages (R221) -/

/-- A frond stands in its handler for DEV_MAP, with the page of the faulting address not mapped and in the ranges of state regions
(log 45). -/
def mapFaultPage (f : Nat) (s : State) : Option Nat :=
  let fr := s.frond f
  let p := fr.tval.toNat / pageSize
  if fr.exl && decide (fr.cause.toNat % 256 = 0x07) && !fr.halted && decide (fr.tval.toNat < 2 ^ 48) &&
     decide (statePageBase ≤ p) && !pageTaken s fr.inst.toNat p then some p else none

/-- STATE_PAGE_BACKING: the runtime backs the page from the quota, on the frond's die, and returns by
eret; with no page left the item fails with RESOURCE_EXHAUSTED. Which addresses are state regions is the
runtime's choice: those from `statePageBase` on (log 45). -/
def execStatePageBacking (f : Fin 128) (s : State) : Host.Outcome State Fault Refusal :=
  match (s.frond f.val).item, mapFaultPage f.val s with
  | some _, some p =>
    let w : AllocWait := { inst := (s.frond f.val).inst.toNat, page := p, frame := none, frond := some f.val,
                           mbx := none, die := f.val / 32, wr := true }
    match allocPage w s with
    | (.done, s) => .next (allocDone w s)
    | (.waits, s) => .next s
    | (.exhausted, s) => .next (failItem f.val stExhausted s)
  | _, _ => .next s

/-! ## Patrol, retrain, refresh (R351 to R353) -/

/-- PATROL_READ: a SYS read of a line of an OWNED or SYSTEM frame; a corrected error is written back. -/
def execPatrolRead (addr e0 e1 : Nat) (s : State) : Host.Outcome State Fault Refusal :=
  let st := (s.frame (frameAt addr)).st
  if inMemory addr && !s.mem.patrolStop && chanServes s addr && (decide (st = .owned) || decide (st = .system))
  then .next (readLine none addr e0 e1 s).2 else .next s

/-- Difference of two readings. -/
def drift (a b : BitVec 8) : Nat := (a.toInt - b.toInt).natAbs

/-- RETRAIN_DUE: 100 ms after the last retrain, or at a drift of 5 °C at most every 10 ms (R352, step 1). When it falls due again
before a refresh has taken it in, it gets a slot of its own (step 2; log 168). -/
def execRetrainDue (ch : Nat) (s : State) : Host.Outcome State Fault Refusal :=
  let c := s.chan ch
  if c.st ≠ .active then .next s
  else if c.retrainDue then .next (s.setChan ch { c with st := .retraining })
  else if c.lastRetrain + 100000000 ≤ s.time ∨ (5 ≤ drift c.temp c.lastTemp ∧ c.lastRetrain + 10000000 ≤ s.time)
  then .next (s.setChan ch { c with retrainDue := true }) else .next s

/-- A channel goes out of service until module reset (R352). -/
def failChannel (ch : Nat) (s : State) : State :=
  let s := s.setChan ch { s.chan ch with st := .failed, retrainDue := false }
  let s := { s with mem := { s.mem with errInfo := BitVec.ofNat 32 (2 ^ 31 + 2 ^ 30 + 2 ^ 15 + ch) } }
  logEvent 0x0306 (0x10 + ch / 24) 0 ch none s

/-- A channel has been trained: it is ACTIVE, the retrain counts, and what waited is served (R352, steps 3 and 4). -/
def trained (ch : Nat) (s : State) : State :=
  let c := s.chan ch
  resumeChan ch (s.setChan ch { c with
    st := .active, retrain := c.retrain + 1, fails := 0, retrainDue := false, lastRetrain := s.time, lastTemp := c.temp })

/-- RETRAIN_DONE: traffic resumes and the retrain counts, or it failed and is repeated in the next slot; the third
failure in a row makes the channel FAILED. -/
def execRetrainDone (ch : Nat) (ok : Bool) (s : State) : Host.Outcome State Fault Refusal :=
  let c := s.chan ch
  if c.st ≠ .retraining then .next s
  else if ok then .next (trained ch s)
  else
    let n := c.fails + 1
    let s := s.setChan ch { c with st := .active, fails := n }
    let s := logEvent 0x0305 (0x10 + ch / 24) 0 (ch + 256 * n) none s
    .next (resumeChan ch (if 3 ≤ n then failChannel ch s else s))

/-- REFRESH_DUE: a refresh; a retrain that is due is placed inside it, and requests wait (R352, step 2;
R353). -/
def execRefreshDue (ch : Nat) (s : State) : Host.Outcome State Fault Refusal :=
  let c := s.chan ch
  if c.st = .selfRefresh ∨ c.st = .failed then .next s
  else .next (s.setChan ch { c with refreshes := c.refreshes + 1,
                                    st := if c.retrainDue then .retraining else c.st })

/-! ## Self-refresh (R353, R507) -/

/-- Outstanding requests complete, the scrub in progress finishes its frame, and channels enter self-refresh; a FAILED channel stays
so (R352, R353). -/
def selfRefresh (s : State) : State :=
  let s := { s with mem := { s.mem with sr := true, patrolStop := true } }
  let s := match s.mem.burst with
    | f :: _ => scrubDone f s
    | [] => s
  forBelow (fun c s =>
    if (s.chan c).st = .failed then s
    else resumeSelf c s) 96 s
where
  /-- What waits for a channel is served, and it enters self-refresh. -/
  resumeSelf (c : Nat) (s : State) : State :=
    let s := resumeChan c s
    s.setChan c { s.chan c with st := .selfRefresh }

/-- Every channel leaves self-refresh with a retrain, and patrol and scrub resume (R353, R507). -/
def leaveSelfRefresh (s : State) : State :=
  let s := forBelow (fun c s => if (s.chan c).st = .failed then s else trained c s) 96 s
  let s := { s with mem := { s.mem with sr := false, patrolStop := false } }
  if s.mem.burst.isEmpty then s else nextScrub s

end Sys2Proof.Machine
end

