-- ==== Sys2Proof/Machine/Telemetry.lean ====
section
/-!
DEFINITION. Telemetry samples and what they feed: admission, the cap, the throttles, the HAW, the
mirror and the rollup (R509, R511, R518 to R528), and sensor calibration (R519).
-/

namespace Sys2Proof.Machine

/-! ## Readings -/

/-- Whole °C of a reading in 1/16 °C, rounded down. -/
def degrees (t : BitVec 16) : Int := t.toInt / 16

def State.sensor (s : State) (k : Nat) : Sensor := s.tel.sensors.get Sensor.reset k

/-- The hottest valid reading, in 1/16 °C, among sensors [lo, lo + n); none when none is valid. -/
def hottest (s : State) (lo : Nat) : Nat → Option Int
  | 0 => none
  | n + 1 =>
    let x := s.sensor (lo + n)
    let r := hottest s lo n
    if x.valid then
      match r with
      | none => some x.temp.toInt
      | some y => some (max x.temp.toInt y)
    else r

/-- The greater of two optional readings. -/
def maxOpt : Option Int → Option Int → Option Int
  | none, b => b
  | a, none => a
  | some a, some b => some (max a b)

/-- A reading as a byte of whole °C; 0 where no sensor is valid (log 50). -/
def tempByte (r : Option Int) : BitVec 8 := BitVec.ofInt 8 ((r.getD 0) / 16)

/-- The hottest reading of the eight quadrant sensors of a die (R518). -/
def dieQuadTemp (s : State) (d : Nat) : Option Int := hottest s (16 * d) 8

/-- The hottest junction of a frond die: its sixteen sensors. -/
def dieTemp (s : State) (d : Nat) : Option Int := hottest s (16 * d) 16

/-- The hottest frond-die junction of the module. -/
def frondDieTemp (s : State) : Option Int :=
  maxOpt (maxOpt (dieTemp s 0) (dieTemp s 1)) (maxOpt (dieTemp s 2) (dieTemp s 3))

/-- The hottest CMU reading. -/
def cmuTemp (s : State) : Option Int :=
  maxOpt (maxOpt (hottest s 8 4) (hottest s 24 4)) (maxOpt (hottest s 40 4) (hottest s 56 4))

/-! ## What a sample stores (R522) -/

/-- Input power of a sample in 0.5 W: VIN × IIN + VAUX × IAUX, rounded down (log 51). -/
def inputPower (m : Sample) : Nat :=
  (m.vinMv.toNat * m.iin.toNat * 10 + m.vauxMv.toNat * m.iaux.toNat) / 500000

/-- The reading of a sensor: on-die sensors with their correction, packages as reported (R519). -/
def takeReading (k : Nat) (raw : BitVec 16) (x : Sensor) : Sensor :=
  if k < 72 then { x with temp := raw + x.offset.signExtend 16 } else { x with temp := raw, valid := true }

/-- Stores the readings of the list from sensor k on. -/
def storeReadings : Nat → List (BitVec 16) → Tbl Sensor → Tbl Sensor
  | _, [], t => t
  | k, r :: rs, t =>
    if 96 ≤ k then t
    else storeReadings (k + 1) rs (t.set Sensor.reset k (takeReading k r (t.get Sensor.reset k)))

/-- Stores domain values from entry k on; 41 domains of two values. -/
def storeDoms : Nat → List (BitVec 16) → Tbl (BitVec 16) → Tbl (BitVec 16)
  | _, [], t => t
  | k, r :: rs, t => if 82 ≤ k then t else storeDoms (k + 1) rs (t.set 0 k r)

/-- The package readings that the memory controllers use (R352, R356). -/
def memTemps (s : State) : State :=
  let s := forBelow (fun c s => s.setChan c { s.chan c with temp := tempByte (hottest s (72 + c / 4) 1) }) 96 s
  { s with mem := { s.mem with temp := tempByte (hottest s 72 24) } }

/-! ## Loops (R509, R511, R520) -/

/-- The baseline: measured power less the grants in force, at least 60 units; 640 in STRICT (R509, R512). -/
def newBaseline (s : State) (p : Nat) : Nat := if isStrict s then 640 else max 60 (p - granted s)

/-- A limit falls by 100 MHz, not below 0.6 GHz. -/
def lowerLimit (x : Nat) : Nat := max 6 (x - 1)

/-- The cap loop: after 10 samples in a row above the cap, each further one lowers every die (R511). -/
def capLoop (p : Nat) (s : State) : State :=
  let hot := decide (s.pwr.cap < p)
  let s := if hot && decide (10 ≤ s.pwr.overCap) && !isStrict s then
      forBelow (fun d s => { s with pwr := { s.pwr with
        capLim := s.pwr.capLim.set 24 d (lowerLimit (s.pwr.capLim.get 24 d)) } }) 4 s
    else s
  { s with pwr := { s.pwr with overCap := if hot then s.pwr.overCap + 1 else 0 } }

/-- The thermal loop: a die above 100 °C falls by 100 MHz (R520). -/
def thermLoop (s : State) : State :=
  if isStrict s then s
  else forBelow (fun d s =>
    if (dieQuadTemp s d).any (fun t => decide (100 * 16 < t)) then
      { s with pwr := { s.pwr with thermLim := s.pwr.thermLim.set 24 d (lowerLimit (s.pwr.thermLim.get 24 d)) } }
    else s) 4 s

/-! ## Mirror and rollup (R523, R526, R576) -/

/-- PWR_BUDGET. -/
def pwrBudget (s : State) : Nat := 2 ^ 16 * (granted s % 2048) + s.pwr.baseline % 2048

/-- PWR_FCLK. -/
def pwrFclk (s : State) : Nat :=
  s.pwr.fclk.get 24 0 + 2 ^ 8 * s.pwr.fclk.get 24 1 + 2 ^ 16 * s.pwr.fclk.get 24 2 + 2 ^ 24 * s.pwr.fclk.get 24 3

/-- Bits [5:0] of PWR_STATE (R436). -/
def pwrState (s : State) : Nat :=
  (if s.pwr.ponr then 32 else 0) + (if s.pwr.entering then 16 else 0) + 4 * s.pwr.target.toNat + s.pwr.ps.toNat

/-- HAW_POWER (R472). -/
def hawPowerWord (s : State) : Nat := 2 ^ 16 * s.tel.hawPower.toNat + pwrState s

/-- TEL_INPUT. -/
def telInput (s : State) : Nat :=
  2 ^ 48 * s.tel.vinMv.toNat + 2 ^ 32 * s.tel.iin.toNat + 2 ^ 16 * s.tel.vauxMv.toNat + s.tel.iaux.toNat

/-- TEL_SENSOR entry k. -/
def telSensor (s : State) (k : Nat) : Nat :=
  let x := s.sensor k
  (if x.valid then 2 ^ 31 else 0) + 2 ^ 16 * x.offset.toNat + x.temp.toNat

/-- TEL_DOMAIN entry k. -/
def telDomain (s : State) (k : Nat) : Nat :=
  (s.tel.doms.get 0 (2 * k)).toNat + 2 ^ 32 * (s.tel.doms.get 0 (2 * k + 1)).toNat

/-- Mirror bytes 0x00 to 0x3F with SEQ stable (R523). -/
def mirrorTop (s : State) : List Byte :=
  leBytes 0x4D54515A 4 ++ leBytes 1 2 ++ leBytes s.tel.div.toNat 2 ++ leBytes s.tel.mirrorSeq.toNat 8 ++
  leBytes s.time 8 ++ leBytes s.tel.samples.toNat 8 ++ leBytes (telInput s) 8 ++ leBytes (pwrBudget s) 4 ++
  leBytes (pwrFclk s) 4 ++ leBytes (hawPowerWord s) 4 ++ leBytes s.tel.hawTemp.toNat 4 ++ zeros 8

/-- Mirror bytes 0x40 to 0x37F: domains and sensors; zero in a VF mirror in STRICT (R525). -/
def mirrorRest (fn : Nat) (s : State) : List Byte :=
  if fn ≠ 0 ∧ isStrict s then zeros (384 + 384)
  else ((List.range 48).map fun k => leBytes (if k < 41 then telDomain s k else 0) 8).flatten ++
    ((List.range 96).map fun k => leBytes (telSensor s k) 4).flatten

/-- The record of an instance: its eight counters (R524). -/
def instRecord (s : State) (i : Nat) : List Byte :=
  ((List.range 8).map fun k => leBytes ((s.inst i).counters.get 0 k).toNat 8).flatten

/-- Writes the mirror of one function: the PF's holds every instance's record, a VF's its own. -/
def mirrorFn (fn : Nat) (s : State) : State :=
  let recs := if fn = 0 then s.insts.map (·.1) else [fn]
  let put := fun j (m : Tbl (List Byte)) => m.set [] (256 * fn + (if fn = 0 then j else 0)) (instRecord s j)
  let rs := forEach put recs s.tel.mirrorRec
  let hd := s.tel.mirrorHead.set [] fn (mirrorTop s ++ mirrorRest fn s)
  { s with tel := { s.tel with mirrorHead := hd, mirrorRec := rs } }

/-- Writes the mirror of every function (R523): SEQ goes to the next even number. -/
def mirrorAll (s : State) : State :=
  let s := { s with tel := { s.tel with mirrorSeq := s.tel.mirrorSeq + 2 } }
  forEach (fun (e : Nat × Inst) s => mirrorFn e.1 s) s.insts s

/-- The worker records of this module. -/
def workerRecs (s : State) : List WorkerRec :=
  (List.range s.lnk.workers.length).map fun j => s.tel.workers.get WorkerRec.zero j

/-- Modules in the subtree, its power and its hottest junction: this module and its workers' records
(R526). -/
def subCount (s : State) : Nat := 1 + ((workerRecs s).map fun r => r.subCount.toNat).sum
def subPower (s : State) : Nat := s.pwr.measured + ((workerRecs s).map fun r => r.subPower.toNat).sum
def subHot (s : State) : Nat :=
  let own := (tempByte (maxOpt (frondDieTemp s) (hottest s 64 8))).toInt
  (BitVec.ofInt 8 (((workerRecs s).map fun r => r.subHot.toInt).foldl max own)).toNat

/-- The rollup frame to the manager (R576). -/
def sendRollup (s : State) : State :=
  if s.lnk.adopted then
    sendFrame ftTelem s.lnk.mgrHops s.lnk.mgrRoute 0 0 0
      (rollupPayload (mirrorTop s) (subCount s) (subPower s) (subHot s)) s
  else s

/-- The last sample of the hottest of a unit's four sensors, in whole °C rounded up, which lies past an edge, or 2 °C below one,
exactly when the reading itself does (R258, R522). -/
def cmuReading (s : State) (u : Nat) : Option Nat := (hottest s (16 * u + 8) 4).map fun x => ((x + 15) / 16).toNat

/-- A unit follows that reading, or the one before while no sensor is valid: the step of R258 and R260. -/
def cmuFollow (u : Nat) (s : State) : State :=
  let t := (cmuReading s u).getD (s.cmu u).reading
  let b := (s.cmu u).temp
  let s := throttleTo u t s
  s.setCmu u { s.cmu u with temp := b }

/-- A unit enters the schedule of the profile in force at its next frame (R260, R263, R449). -/
def enterCmu (u : Nat) (s : State) : State :=
  let p := isStrict s
  let x := s.cmu u
  if x.strict = p then s
  else cmuFollow u (s.setCmu u { x with
    strict := p, step := if p then 2 else x.step, turn := 0, credit := 0, laneTurn := 0, laneCredit := 0, pos := 0 })

/-- A sample of a unit's sensors: TEMP and the step. -/
def cmuSample (u : Nat) (s : State) : State :=
  let s := cmuFollow u s
  s.setCmu u { s.cmu u with temp := tempByte (hottest s (16 * u + 8) 4) }

/-- TELEMETRY_SAMPLE: at module times that are multiples of 100 µs (R522). -/
def execTelemetrySample (smp : Sample) (s : State) : Host.Outcome State Fault Refusal :=
  if s.time % 100000 ≠ 0 ∨ s.pads.inReset then .next s
  else
    let p := inputPower smp
    let s := { s with tel := { s.tel with
      samples := s.tel.samples + 1, vinMv := smp.vinMv, iin := smp.iin, vauxMv := smp.vauxMv, iaux := smp.iaux,
      sensors := storeReadings 0 smp.temps s.tel.sensors, doms := storeDoms 0 smp.doms s.tel.doms,
      hawPower := BitVec.ofNat 16 p } }
    let ht := tempByte (frondDieTemp s) ++ tempByte (hottest s 64 8) ++ tempByte (hottest s 72 24) ++ tempByte (cmuTemp s)
    let s := { s with tel := { s.tel with hawTemp := ht } }
    let s := forBelow cmuSample 4 (memTemps s)
    let s := { s with pwr := { s.pwr with measured := p, vinMv := smp.vinMv, baseline := newBaseline s p } }
    let s := examineGrants (thermLoop (capLoop p s))
    if s.tel.samples.toNat % (max 1 s.tel.div.toNat) ≠ 0 then .next s
    else
      let s := if s.tel.mirror then mirrorAll s else s
      .next (if s.tel.rollup then sendRollup s else s)

/-! ## Calibration (R519) -/

/-- The offset that corrects a sensor; more than 8 °C makes it invalid. -/
def calibrate (off : Int) (x : Sensor) : Sensor :=
  if 128 < off.natAbs then { x with valid := false }
  else { x with valid := true, offset := BitVec.ofInt 12 off }

/-- Applies the corrections of a pass, sensor by sensor. -/
def calibrateAll : Nat → List Int → Tbl Sensor → Tbl Sensor
  | _, [], t => t
  | k, o :: os, t =>
    if 72 ≤ k then t
    else calibrateAll (k + 1) os (t.set Sensor.reset k (calibrate o (t.get Sensor.reset k)))

/-- SENSOR_CALIBRATION: each on-die sensor against the AON reference. -/
def execSensorCalibration (offs : List Int) (s : State) : Host.Outcome State Fault Refusal :=
  .next { s with tel := { s.tel with
    sensors := calibrateAll 0 offs s.tel.sensors, calTime := BitVec.ofNat 64 s.time } }

end Sys2Proof.Machine
end

