-- ==== Sys2Proof/Machine/Cmu.lean ====
section
/-!
DEFINITION. Commands and events of the content match units (R229 to R265).
-/

namespace Sys2Proof.Machine

/-! ## MATCH_UPDATE (R247 to R250) -/

/-- The descriptor of a MATCH_UPDATE: unused words zero, LEN and ADDR0 in range (R247). -/
def updateDescOk (c : Cmd) : Bool :=
  reservedOk c && decide (c.word 4 = 0) && decide (c.word 5 = 0) && decide (c.word 6 = 0) && decide (c.word 7 = 0) &&
  decide (c.addr0 % 64 = 0) && decide (c.len % 64 = 0) && decide (64 ≤ c.len) && decide (c.len ≤ 4194304)

/-- The checks of R249 on a list that has been read, in the order of its statuses, then the run. -/
def tryUpdate (slot : Nat) (c : Cmd) (d : List Byte) (s : State) : State :=
  if matchBlocked c s then holdMatch slot d s
  else
    match cmuTableFor s c.inst c.obj c.accNo with
    | none => failCmd slot stNotFound s
    | some (u, t) =>
      let rs := recordsOf d
      match firstBadRecord (2 ^ 32) 0 rs with
      | some _ => failCmd slot stParam s
      | none =>
        match firstBadRecord t.size 0 rs with
        | some _ => failCmd slot stRange s
        | none =>
          if t.faulted ∨ (s.cmu u).fault then failCmd slot stEngine s
          else
            let r : UpdRun := {
              slot := some slot, mbx := none, inst := c.inst, table := c.obj, recs := rs.map readRecord,
              applied := 0, step := 0, stop := false }
            startRun u r (s.modCmd slot fun c => { c with phase := .running, work := .matching d 0 [] 0 })

/-- The record list has been read, or the read has failed (R249). -/
def matchUpdateRead (slot : Nat) (c : Cmd) (data : Option (List Byte)) (s : State) : State :=
  match data with
  | none => failCmd slot stHost s
  | some d => if d.length ≠ c.len then failCmd slot stHost s else tryUpdate slot c d s

/-- Goes on with a match command that an earlier one held back (R246). -/
def onOrdering (slot opc : Nat) (f : Cmd → State → State) (s : State) : State :=
  match s.cmd slot with
  | none => s
  | some c => if c.phase = .ordering ∧ c.outcome = none ∧ c.opc = opc then f c s else s

/-- MATCH_UPDATE: its record list is asked for; held behind an earlier command, it tries again. -/
def execMatchUpdate (slot : Nat) (s : State) : Host.Outcome State Fault Refusal :=
  if (s.cmd slot).any (fun c => c.phase = .ordering) then
    .next (onOrdering slot 0x30 (fun c s => tryUpdate slot c (matchBytes c) s) s)
  else
    .next (onHanded slot 0x30 (fun c s =>
      if updateDescOk c then askHost slot c c.addr0 c.len s else failCmd slot stParam s) s)

/-! ## MATCH_SEARCH (R252, R253) -/

/-- The descriptor checks of a MATCH_SEARCH. -/
def searchDesc (c : Cmd) : Option Nat :=
  let n := bits (c.param 0) 16 0
  if c.len ≠ 32 * n then some stLength
  else if !reservedOk c ∨ n = 0 ∨ 65536 < n ∨ bits (c.param 0) 63 17 ≠ 0 ∨ c.word 7 ≠ 0 ∨ c.addr0 % 32 ≠ 0 ∨ c.addr1 % 16 ≠ 0 ∨
      c.param 1 < 16 * n then some stParam
  else none

/-- The checks on the key records and the table, then the searches may begin. -/
def trySearch (slot : Nat) (c : Cmd) (d : List Byte) (s : State) : State :=
  if matchBlocked c s then holdMatch slot d s
  else if (chunksOf 32 (d.length / 32 + 1) d).any (fun k => !zeroAt k 18 14) then failCmd slot stParam s
  else
    match cmuTableFor s c.inst c.obj c.accNo with
    | none => failCmd slot stNotFound s
    | some (u, t) =>
      if t.faulted ∨ (s.cmu u).fault then failCmd slot stEngine s
      else s.modCmd slot fun c => { c with phase := .running, work := .matching d 0 [] 0 }

/-- The key records have been read, or the read has failed. -/
def matchSearchRead (slot : Nat) (c : Cmd) (data : Option (List Byte)) (s : State) : State :=
  match data with
  | none => failCmd slot stHost s
  | some d => if d.length ≠ c.len then failCmd slot stHost s else trySearch slot c d s

/-- A result record (R252). -/
def resultRecord (r : Option (Nat × W32)) : List Byte :=
  match r with
  | none => leBytes 0xFFFFFFFF 4 ++ zeros 12
  | some (k, w) => leBytes k 4 ++ leBytes w.toNat 4 ++ leBytes 1 4 ++ zeros 4

/-- Searches the next n keys, each in its own slot (R253). -/
def searchKeys (slot u : Nat) (c : Cmd) (t : CmuTable) (n : Nat) (s : State) : State :=
  match c.work with
  | .matching d k res hits =>
    let keys := (chunksOf 32 (d.length / 32 + 1) d).drop k
    let rs := (keys.take n).map fun b => searchTable (s.cmu u) t (BitVec.ofNat 144 (leAt b 0 18))
    let h := hits + (rs.filter (·.isSome)).length
    let s := countCmu u c.inst 0 rs.length s
    let s := s.modCmd slot fun c => { c with work := .matching d (k + rs.length) (res ++ (rs.map resultRecord).flatten) h }
    if keys.length ≤ n then succeed slot (BitVec.ofNat 64 h) s else s
  | _ => s

/-- Some slots of the unit go to the command when it is its instance's turn: at most what is left of the turn while another
instance waits, otherwise how many is free (R262; log 149). -/
def searchSome (slot : Nat) (c : Cmd) (s : State) : State :=
  match cmuTableFor s c.inst c.obj c.accNo with
  | none => failCmd slot stNotFound s
  | some (u, t) =>
    if t.faulted ∨ (s.cmu u).fault then failCmd slot stEngine s
    else
      let s := enterCmu u s
      if !slotMine s u c.inst then s
      else
        let r := s.freshNat
        let n := match slotLimit s u c.inst with
          | none => r.1 + 1
          | some k => min k (r.1 + 1)
        searchKeys slot u c t n (takeSlots u c.inst n r.2)

/-- MATCH_SEARCH: asks for its keys, waits its turn, then searches. -/
def execMatchSearch (slot : Nat) (s : State) : Host.Outcome State Fault Refusal :=
  match s.cmd slot with
  | none => .next s
  | some c =>
    if c.phase = .ordering then .next (onOrdering slot 0x31 (fun c s => trySearch slot c (matchBytes c) s) s)
    else if c.phase = .running ∧ c.opc = 0x31 ∧ c.outcome = none then .next (searchSome slot c s)
    else
      .next (onHanded slot 0x31 (fun c s =>
        match searchDesc c with
        | some st => failCmd slot st s
        | none => askHost slot c c.addr0 c.len s) s)

/-! ## Update steps (R243 to R246) -/

/-- The record that a unit's update engine works on, with its run and its table. -/
def currentRecord (s : State) (u : Nat) : Option (UpdRun × UpdRec × CmuTable) :=
  match (s.cmu u).upd with
  | [] => none
  | r :: _ =>
    match r.recs[r.applied]?, (s.cmu u).tables.find? fun t =>
        decide (t.inst = r.inst) && decide (t.id = r.table) &&
        (match r.slot with
         | none => !t.gone
         | some k => (s.cmd k).any fun c => decide (t.since ≤ c.accNo) && (!t.gone || decide (c.accNo < t.goneAt))) with
    | some x, some t => some (r, x, t)
    | _, _ => none

/-- The entry that a record makes. -/
def entryOf (x : UpdRec) (t : CmuTable) : TEntry :=
  if x.write then { key := x.key, mask := x.mask, res := x.res, valid := true, tsel := t.tsel } else TEntry.empty

/-- CMU_SHADOW_WRITE_ACK: step 1 of R243 ends, the address is marked busy. -/
def execCmuShadowWriteAck (unit : Nat) (s : State) : Host.Outcome State Fault Refusal :=
  match currentRecord s unit with
  | none => .next s
  | some (r, x, t) =>
    if r.step ≠ 0 ∨ (s.cmu unit).fault then .next s
    else
      let u := s.cmu unit
      let a := t.base + x.index
      let sh := if x.write then entryOf x t else { u.shadow.get TEntry.empty a with valid := false }
      .next (setRun unit { r with step := 1 }
        (s.setCmu unit { u with shadow := u.shadow.set TEntry.empty a sh, busy := some a }))

/-- CMU_UPDATE_STEP: step 2, 3 or 4 of R243 takes a slot of its instance's share (R262). -/
def execCmuUpdateStep (unit : Nat) (s : State) : Host.Outcome State Fault Refusal :=
  let s := enterCmu unit s
  match currentRecord s unit with
  | none => .next s
  | some (r, x, t) =>
    if r.step = 0 ∨ (s.cmu unit).fault ∨ !slotMine s unit r.inst then .next s
    else
      let s := countCmu unit r.inst 2 1 (takeSlots unit r.inst 1 s)
      let u := s.cmu unit
      let a := t.base + x.index
      let e := u.ent.get TEntry.empty a
      if r.step = 1 then
        let s := s.setCmu unit { u with ent := u.ent.set TEntry.empty a { e with valid := false } }
        if x.write then .next (setRun unit { r with step := 2 } s)
        else .next (nextRecord unit r (s.setCmu unit { s.cmu unit with busy := none }))
      else if r.step = 2 then
        .next (setRun unit { r with step := 3 }
          (s.setCmu unit { u with ent := u.ent.set TEntry.empty a { entryOf x t with valid := false } }))
      else
        .next (nextRecord unit r
          (s.setCmu unit { u with ent := u.ent.set TEntry.empty a { e with valid := true }, busy := none }))

/-! ## Searches of a plan (R126 to R128, R236) -/

/-- Slot k of the parameter block of a query, its bytes. -/
def pbSlot (q : QueryRun) (k : Nat) : List Byte :=
  match q.plan.slots[k]? with
  | none => []
  | some e => (q.pb.drop e.offset).take e.size

/-- Operator op of pipeline pipe of a plan. -/
def planOp (p : Plan) (pipe op : Nat) : Option OpEnt :=
  match p.pipes[pipe]? with
  | none => none
  | some e => if op < e.nops then p.ops[e.firstOp + op]? else none

/-- The results of a burst in key order; none when the unit cannot serve it. -/
def burstResults (s : State) (unit : Nat) (c : Cmd) (q : QueryRun) (o : OpEnt) (keys : List (List Byte)) :
    Option (List (Bool × Nat × W32) × Nat × Nat) :=
  match o.args with
  | .matchOp 0 _ tsrc _ _ _ _ _ =>
    match cmuTableFor s c.inst (leNat (pbSlot q tsrc)) c.accNo with
    | none => none
    | some (u, t) =>
      if u ≠ unit ∨ t.faulted then none
      else some (keys.map fun k =>
        match searchTable (s.cmu u) t (BitVec.ofNat 144 (leNat k)) with
        | none => (false, 0, 0)
        | some (i, w) => (true, i, w), 0, keys.length)
  | .matchOp _ _ tsrc _ _ _ _ _ =>
    match imgEnt (s.cmu unit) c.inst q.plan.uid q.bound tsrc, q.plan.autos[tsrc]? with
    | some m, some a =>
      if m.faulted then none
      else
        let rs := keys.map fun k => runImage (s.cmu unit) m a k
        some (rs.map fun r => match r with
          | none => (false, 0, 0)
          | some (p, e) => (true, e, BitVec.ofNat 32 p), 1,
          ((keys.zip rs).map fun x => laneBytes x.1.length x.2).sum)
    | _, _ => none
  | _ => none

/-- The record of one search of a burst; none where the search could not be served (R128). -/
def burstRes (pipe op item : Nat) (x : List Byte × Option (Bool × Nat × W32)) : BurstRes :=
  { pipe := pipe, op := op, item := item, key := x.1, res := x.2.map fun r => if r.1 then some (r.2.2.toNat, r.2.1) else none }

/-- A burst has its grant of 30 units, which it asks for with its first turn (R152, R236); the declared length is the slots its keys
take, in µs (log 54). -/
def burstGrant (u slot : Nat) (c : Cmd) (n : Nat) (s : State) : Bool × State :=
  let h := Holder.cmu u slot
  let s := if (s.pwr.grants ++ s.pwr.waits).any fun g => g.holder = h then s
    else requestGrant 30 (n / 1200 + 1) c.prio (some c.inst) true none h s
  (s.pwr.grants.any fun g => g.holder = h, s)

/-- A MATCH searches a table, not an automaton. -/
def OpEnt.ternary (o : OpEnt) : Bool :=
  match o.args with
  | .matchOp 0 .. => true
  | _ => false

/-- One turn of a burst that has its grant: as many of its keys as the unit's slots, or lanes, go to its instance now are searched, in
order, each as the unit then stands (R236, R237, R262, R263). The answer is the records of those keys, what the unit returned, and the
state, in which the burst has given its grant back when no key is left; none while another instance is in turn. -/
def burstTurn (u slot pipe op item : Nat) (c : Cmd) (q : QueryRun) (o : OpEnt) (keys : List (List Byte)) (s : State) :
    Option (List BurstRes × List (Bool × Nat × W32) × State) :=
  let mine := if o.ternary then slotMine s u c.inst else laneMine s u c.inst
  let n := min keys.length (((if o.ternary then slotLimit s u c.inst else laneLimit s u c.inst)).getD keys.length)
  let ks := keys.take n
  let ended := fun (s : State) => if n = keys.length then endHolder (.cmu u slot) s else s
  if !mine then none
  else
    match burstResults s u c q o ks with
    | none => some (keys.map fun k => burstRes pipe op item (k, none), [], endHolder (.cmu u slot) s)
    | some (rs, k, m) =>
      let s := if o.ternary then takeSlots u c.inst n s else takeLanes u c.inst n s
      some ((ks.zip rs).map fun x => burstRes pipe op item (x.1, some x.2), rs, ended (countCmu u c.inst k m s))

/-- Keeps the results of searches for the item that sent them. -/
def keepBurst (slot : Nat) (rs : List BurstRes) (s : State) : State :=
  s.modCmd slot fun c => match c.work with
    | .query q => { c with work := .query { q with bursts := q.bursts ++ rs } }
    | _ => c

/-- CMU_SEARCH_BURST: the batch of up to 4,096 keys that an item's MATCH stage sends, under its grant (R152, R236). Keys that the turn
does not reach come with a further such command (R262); the item finds its results when it ends. A unit, table or image that cannot
serve the burst leaves failures (R128). -/
def execCmuSearchBurst (unit slot pipe op : Nat) (keys : Burst) (s : State) : Host.Outcome State Fault Refusal :=
  match s.cmd slot with
  | none => .next s
  | some c =>
    match c.work with
    | .query q =>
      match planOp q.plan pipe op with
      | none => .next s
      | some o =>
        if 4 ≤ unit ∨ 4096 < keys.keys.length ∨ c.phase ≠ .running ∨ (s.cmu unit).fault ∨ (s.cmu unit).sagHold then .next s
        else
          let g := burstGrant unit slot c keys.keys.length (enterCmu unit s)
          if !g.1 then .next g.2
          else
            match burstTurn unit slot pipe op keys.item c q o keys.keys g.2 with
            | none => .next g.2
            | some (l, rs, s) => .next (keepBurst slot l { s with out := { s.out with cmu := rs } })
    | _ => .next s

/-! ## Comparer (R254 to R256) -/

/-- A state that accepts nothing and whose every NEXT is itself, k being its number in the image (R256). -/
def deadState (k : Nat) : BitVec 512 :=
  BitVec.ofNat 512 (((List.range 32).map fun c => (k % 2 ^ 15) * 2 ^ (15 * c)).sum)

/-- The shadow of an entry cannot be read: the entry is invalidated and its table FAULTED. -/
def shadowLostEnt (u a : Nat) (s : State) : State :=
  let x := s.cmu u
  let e := x.ent.get TEntry.empty a
  s.setCmu u { x with
    ent := x.ent.set TEntry.empty a { e with valid := false }, shadowErr := true,
    tables := x.tables.map fun t => if t.base ≤ a ∧ a < t.base + t.size then { t with faulted := true } else t }

/-- The shadow of a state cannot be read: the state is made harmless, and its image is FAULTED in every unit, since a FAULTED
plan's searches fail on whichever unit serves them. -/
def shadowLostState (u a : Nat) (s : State) : State :=
  let x := s.cmu u
  let owner := x.images.find? fun m => decide (m.base ≤ a) && decide (a < m.base + m.nstate)
  let s := s.setCmu u { x with states := x.states.set 0 a (deadState (a - (owner.map (·.base)).getD 0)), shadowErr := true }
  match owner with
  | none => s
  | some o => forBelow (fun v s => s.setCmu v { s.cmu v with images := (s.cmu v).images.map fun m =>
      if m.inst = o.inst ∧ m.planId = o.planId ∧ m.uid = o.uid ∧ m.bound = o.bound ∧ m.idx = o.idx then { m with faulted := true }
      else m }) 4 s

/-- The next address of a comparer's sweep. -/
def advance (u : Nat) (auto : Bool) (s : State) : State :=
  let x := s.cmu u
  if auto then s.setCmu u { x with ptrA := (x.ptrA + 1) % 262144 }
  else s.setCmu u { x with ptrT := (x.ptrT + 1) % 65536,
                           sweeps := if x.ptrT = 65535 then x.sweeps + 1 else x.sweeps }

/-- CMU_COMPARER_CHECK: `upset` says that a soft error has changed what the array holds, `shadowOk` that the
shadow record reads well (R254 to R256). -/
def execCmuComparerCheck (unit : Nat) (auto upset shadowOk : Bool) (s : State) : Host.Outcome State Fault Refusal :=
  let x := s.cmu unit
  if 4 ≤ unit then .next s
  else if !auto && decide (x.busy = some x.ptrT) then .next (advance unit auto s)
  else
    let a := if auto then x.ptrA else x.ptrT
    let s := advance unit auto (s.setCmu unit { x with cmpChecks := x.cmpChecks + 1 })
    let x := s.cmu unit
    let differs := if auto then decide (x.states.get 0 a ≠ x.stShadow.get 0 a)
      else decide (x.ent.get TEntry.empty a ≠ x.shadow.get TEntry.empty a)
    let detail := (if auto then 2 ^ 31 else 0) + a
    if !shadowOk then
      .next (logEvent 0x0402 (0x20 + unit) 0 detail none
        (if auto then shadowLostState unit a s else shadowLostEnt unit a s))
    else if !(upset || differs) then .next s
    else
      let x := if auto then { x with states := x.states.set 0 a (x.stShadow.get 0 a) }
        else { x with ent := x.ent.set TEntry.empty a (x.shadow.get TEntry.empty a) }
      .next (logEvent 0x0401 (0x20 + unit) 0 detail none (s.setCmu unit { x with repairs := x.repairs + 1 }))

/-! ## Throttle and configuration (R258 to R260, R265) -/

/-- CMU_THROTTLE_STEP_CHANGE: the unit takes the step of its hottest sensor's reading in °C, which is that of the last sample, since
the throttles use the same one (R522; log 179). -/
def execCmuThrottleStepChange (unit temp : Nat) (s : State) : Host.Outcome State Fault Refusal :=
  if 4 ≤ unit ∨ cmuReading s unit ≠ some temp then .next s else .next (cmuFollow unit s)

/-- CMU_CMPCFG_WRITE: RATIO_LOG2 takes a value from 6 to 16 outside STRICT. -/
def execCmuCmpcfgWrite (val : W32) (s : State) : Host.Outcome State Fault Refusal :=
  let r := val.toNat % 32
  if 6 ≤ r ∧ r ≤ 16 ∧ !isStrict s then .next { s with eng := { s.eng with ratio := BitVec.ofNat 5 r } }
  else .next s

/-! ## Tables (R251, R469) -/

/-- Fields of CMU_TABLE_LOAD. -/
def tableRule : MbxRule :=
  { pfOnly := false, targeted := false, named := [(0x08, 1), (0x09, 1), (0x0C, 4), (0x10, 4), (0x18, 8), (0x20, 4)] }

/-- Runs a mailbox command of which a captured byte tells the operation. -/
def onMbxSub (fn mop sub : Nat) (r : MbxRule) (f : Mbx → State → State) (s : State) : State :=
  if (s.getMbx fn).arg 8 1 = sub then onMbx fn mop r f s else s

/-- The first field of CMU_TABLE_LOAD that is out of range, by offset. -/
def tableBadField (m : Mbx) (create : Bool) : Option Nat :=
  if create ∧ 3 < m.arg 9 1 then some 9
  else if create ∧ (m.arg 0x10 4 = 0 ∨ 65536 < m.arg 0x10 4) then some 0x10
  else if m.arg 0x18 8 % 64 ≠ 0 then some 0x18
  else if m.arg 0x20 4 % 64 ≠ 0 ∨ 4194304 < m.arg 0x20 4 then some 0x20
  else none

/-- The record list of a CMU_TABLE_LOAD as the host read gives it: HOST_ACCESS, REJECTED, or the records
(R469). -/
def tableList (m : Mbx) (size : Nat) (host : Option (List Byte)) : Except (Nat × Nat × Nat) (List UpdRec) :=
  let d := if m.arg 0x20 4 = 0 then some [] else host
  match d with
  | none => .error (meHost, 0, 0)
  | some d =>
    if d.length ≠ m.arg 0x20 4 then .error (meHost, 0, 0)
    else
      match firstBadRecord size 0 (recordsOf d) with
      | some (k, _, off) => .error (meRejected, k, off)
      | none => .ok ((recordsOf d).map readRecord)

/-- The command's records go to the unit; it waits for their end. A unit that is out of service ends it with
BAD_STATE (log 55). -/
def startTableRun (fn u id : Nat) (rs : List UpdRec) (s : State) : State :=
  if (s.cmu u).fault then mbxErr fn meState s
  else
    let r : UpdRun := {
      slot := none, mbx := some fn, inst := fn, table := id, recs := rs, applied := 0, step := 0, stop := false }
    startRun u r (s.modMbx fn fun m => { m with started := true })

/-- CREATE: SIZE consecutive entries of the unit, all invalid (R235, R251, R261). -/
def createTable (fn u id size : Nat) (s : State) : Option State :=
  let x := s.cmu u
  if 4096 ≤ x.tables.length ∨ (s.inst fn).res.cmuEnt.getD u 0 < entUsed x fn + size then none
  else
    match firstBlock 65536 (x.tables.map fun t => (t.base, t.size)) size with
    | none => none
    | some b =>
      let t : CmuTable := {
        inst := fn, id := id, base := b, size := size, tsel := BitVec.ofNat 12 (freeSel x), faulted := false,
        gone := false, goneAt := 0, since := s.ring.nextAcc }
      some (s.setCmu u { x with tables := x.tables ++ [t] })

/-- CMU_TABLE_CREATE. -/
def execCmuTableCreate (fn : Nat) (host : Option (List Byte)) (s : State) : Host.Outcome State Fault Refusal :=
  .next (onMbxSub fn 0x32 1 tableRule (fun m s =>
    let u := m.arg 9 1
    let id := m.arg 0x0C 4
    match tableBadField m true with
    | some o => mbxBad fn o s
    | none =>
      if (cmuTableNow s fn id).isSome then mbxErr fn meExists s
      else
        match createTable fn u id (m.arg 0x10 4) s with
        | none => mbxErr fn meLimit s
        | some s' =>
          mbxRead fn m [(m.arg 0x18 8, m.arg 0x20 4)] (fun t =>
            match tableList m (m.arg 0x10 4) (hostGave s m.port host) with
            | .error e => endMbx fn e.1 e.2.1 e.2.2 [] t
            | .ok rs => startTableRun fn u id rs (if (s.cmu u).fault then t else t.setCmu u (s'.cmu u))) s) s)

/-- CMU_TABLE_REFILL. -/
def execCmuTableRefill (fn : Nat) (host : Option (List Byte)) (s : State) : Host.Outcome State Fault Refusal :=
  .next (onMbxSub fn 0x32 2 tableRule (fun m s =>
    let id := m.arg 0x0C 4
    match tableBadField m false with
    | some o => mbxBad fn o s
    | none =>
      match cmuTableNow s fn id with
      | none => mbxErr fn meNotFound s
      | some (u, t) =>
        mbxRead fn m [(m.arg 0x18 8, m.arg 0x20 4)] (fun s =>
          match tableList m t.size (hostGave s m.port host) with
          | .error e => endMbx fn e.1 e.2.1 e.2.2 [] s
          | .ok rs => startTableRun fn u id rs s) s) s)

/-- Deletes a table: its ID is unusable at once (R251). -/
def deleteTable (i id : Nat) (s : State) : State :=
  match cmuTableNow s i id with
  | none => s
  | some (u, t) => modTable u t.tsel (fun t => { t with gone := true, goneAt := s.ring.nextAcc }) s

/-- CMU_TABLE_DELETE. -/
def execCmuTableDelete (fn : Nat) (s : State) : Host.Outcome State Fault Refusal :=
  .next (onMbxSub fn 0x32 3 tableRule (fun m s =>
    match cmuTableNow s fn (m.arg 0x0C 4) with
    | none => mbxErr fn meNotFound s
    | some _ => endMbx fn 0 0 0 (leBytes 0 4) (deleteTable fn (m.arg 0x0C 4) s)) s)

/-- Whether a command names a table: a MATCH_UPDATE or MATCH_SEARCH by OBJ, a query by a CMU_TABLE slot. A
query whose parameter block has not been read may name any. -/
def namesTable (c : Cmd) (id : Nat) : Bool :=
  match c.work with
  | .query q =>
    q.plan.slots.any (fun e => decide (e.kind = 4) &&
      (q.pb.isEmpty || decide (leNat ((q.pb.drop e.offset).take e.size) = id)))
  | _ => (decide (c.opc = 0x30) || decide (c.opc = 0x31)) && decide (c.obj = id)

/-- A command accepted before the delete that names the table has not completed. -/
def tableInUse (s : State) (t : CmuTable) : Bool :=
  (s.ring.cmds.any fun e => e.2.any fun c =>
    decide (c.inst = t.inst) && decide (c.accNo < t.goneAt) && c.dupOf.isNone && namesTable c t.id) ||
  (s.eng.cmu.any fun e => e.2.upd.any fun r => decide (r.inst = t.inst) && decide (r.table = t.id))

/-- CMU_TABLE_RECLAIM: the entries of a deleted table are invalidated, one slot each, and the block returns to
the quota (R251). -/
def execCmuTableReclaim (inst table : Nat) (s : State) : Host.Outcome State Fault Refusal :=
  let found := (List.range 4).findSome? fun u =>
    ((s.cmu u).tables.find? fun t => decide (t.inst = inst) && decide (t.id = table) && t.gone).map fun t => (u, t)
  match found with
  | none => .next s
  | some (u, t) =>
    if tableInUse s t then .next s
    else
      let s := countCmu u inst 2 t.size s
      let x := s.cmu u
      .next (s.setCmu u { x with
        ent := clearValid x.ent t.base t.size, shadow := clearValid x.shadow t.base t.size,
        tables := x.tables.filter fun y => y.tsel ≠ t.tsel })

end Sys2Proof.Machine
end

