-- ==== Sys2Proof/Machine/Ready.lean ====
section
/-!
DEFINITION. Ready lists and the choice among them (R285 to R290, R294, R309).
-/

namespace Sys2Proof.Machine

/-! ## Lists and cursors (R286, R288) -/

/-- The list that takes work of a class and level of an instance. -/
def listFor (s : State) (i lvl cls : Nat) : Option Nat :=
  let mine := s.disp.lists.filter fun e => e.2.used && decide (e.2.inst = i) && decide (e.2.cls = cls)
  let low := mine.filter fun e => e.2.level ≤ lvl
  let top := (low.map (·.2.level)).foldl max 0
  let bottom := (mine.map (·.2.level)).foldl min 7
  let pick := if low.isEmpty then mine.filter fun e => e.2.level = bottom else low.filter fun e => e.2.level = top
  pick.head?.map (·.1)

/-- A cursor joins the list of its class; the hub takes the command's level. -/
def addCursor (slot pipe : Nat) (kind : WorkKind) (cls : Nat) (s : State) : State :=
  match s.cmd slot with
  | none => s
  | some c =>
    match listFor s c.inst c.prio cls with
    | none => s
    | some l =>
      let x : Cursor := {
        slot := slot, pipe := pipe, kind := kind, affOver := false, grantWait := false, granted := false, since := s.time }
      let r := s.disp.lists.get ReadyList.free l
      { s with disp := { s.disp with lists := s.disp.lists.set ReadyList.free l { r with cursors := r.cursors ++ [x] } } }

/-- A cursor of a command leaves its list. -/
def dropCursor (slot pipe : Nat) (kind : WorkKind) (s : State) : State :=
  { s with disp := { s.disp with lists := s.disp.lists.map fun e =>
      (e.1, { e.2 with cursors := e.2.cursors.filter fun c => !(decide (c.slot = slot) && decide (c.pipe = pipe) && decide (c.kind = kind)) }) } }

/-- A cursor stands on some list. -/
def hasCursor (s : State) (slot pipe : Nat) (kind : WorkKind) : Bool :=
  s.disp.lists.any fun e => e.2.cursors.any fun x => decide (x.slot = slot) && decide (x.pipe = pipe) && decide (x.kind = kind)

/-- Changes the cursors of a list. -/
def modList (l : Nat) (f : List Cursor → List Cursor) (s : State) : State :=
  let r := s.disp.lists.get ReadyList.free l
  { s with disp := { s.disp with lists := s.disp.lists.set ReadyList.free l { r with cursors := f r.cursors } } }

/-- The same work: command, pipeline and kind. -/
def sameCursor (a b : Cursor) : Bool := decide (a.slot = b.slot) && decide (a.pipe = b.pipe) && decide (a.kind = b.kind)

/-- After a unit of work: the cursor goes behind the others, or leaves its list with its last one (R288). -/
def turnCursor (l : Nat) (x : Cursor) (left : Nat) (s : State) : State :=
  modList l (fun cs =>
    let rest := cs.filter fun y => !sameCursor x y
    if left = 0 then rest else rest ++ [{ x with affOver := false, grantWait := false, granted := false, since := s.time }]) s

/-- A cursor that waits for its grant stands at the head of its list (R294). -/
def holdCursor (l : Nat) (x : Cursor) (s : State) : State :=
  modList l (fun cs => { x with grantWait := true } :: cs.filter fun y => !sameCursor x y) s

/-- Counts a waiting time (R309). -/
def countWait (level i since : Nat) (s : State) : State :=
  let w := (s.time - since) / 100
  let b := if w = 0 then 0 else min 15 (Nat.log2 w + 1)
  let add := fun (t : Tbl W32) (k : Nat) => t.set 0 k (t.get 0 k + 1)
  { s with disp := { s.disp with
      lvlHist := add s.disp.lvlHist (16 * level + b), instHist := add s.disp.instHist (16 * i + b) } }

/-! ## Choosing (R289, R290) -/

/-- A list with a cursor that may go on: list number, list, cursor. -/
abbrev Choice := Nat × ReadyList × Cursor

/-- The first eligible cursor of each list of a class; one that waits for its grant holds back its list (R294). -/
def candidates (s : State) (cls : Nat) (ok : Cursor → Bool) : List Choice :=
  s.disp.lists.filterMap fun e =>
    if !e.2.used ∨ e.2.cls ≠ cls ∨ e.2.cursors.any (fun x => x.grantWait) then none
    else (e.2.cursors.find? ok).map fun x => (e.1, e.2, x)

/-- The weight of an instance for a class: the SMU share for merge jobs (R276), else the weight of the profile in force (R290). -/
def classWeight (s : State) (cls i : Nat) : Nat :=
  if cls = 1 then (s.inst i).res.smuShare else weightOf s i s.disp.profile.toNat

/-- The deficit of an instance in a class: busy time in ns that it may still use in its turn (R289; log 75). -/
def deficitOf (s : State) (cls i : Nat) : Int := s.disp.deficit.get 0 (1024 * cls + i)

def setDeficit (cls i : Nat) (x : Int) (s : State) : State :=
  { s with disp := { s.disp with deficit := s.disp.deficit.set 0 (1024 * cls + i) x } }

/-- Busy time that a round of the deficit round robin gives an instance. -/
def roundShare (s : State) (cls i : Nat) : Nat := classWeight s cls i * (1 + Config.drrQuantum)

/-- Rounds after which an instance has something left to use. -/
def roundsFor (s : State) (cls i : Nat) : Nat :=
  let d := deficitOf s cls i
  if 0 < d then 0 else (-d).toNat / roundShare s cls i + 1

/-- Work done for an instance counts against its deficit. -/
def chargeWork (cls i ns : Nat) (s : State) : State := setDeficit cls i (deficitOf s cls i - ns) s

/-- Before a turn: an instance with nothing to do keeps no credit, and when none of those that wait has some left, as many rounds
are given as it takes (log 75). -/
def fillDeficits (cls : Nat) (l : List Nat) (s : State) : State :=
  let idle := (s.insts.map (·.1)).filter fun i => !l.contains i && decide (0 < deficitOf s cls i)
  let s := forEach (fun i s => setDeficit cls i 0 s) idle s
  let n := ((l.map (roundsFor s cls)).min?).getD 0
  if n = 0 then s else forEach (fun i s => setDeficit cls i (deficitOf s cls i + n * roundShare s cls i) s) l s

/-- The one in turn where it is among some instances, else the next of them. -/
def keepTurn (now : Nat) (l : List Nat) : Option Nat := if l.contains now then some now else nextAfter now l

/-- One choice by deficit round robin among instances of nonzero weight: the instance whose turn it is keeps it while its deficit
lasts; then the next one that has some left. -/
def chooseHeavy (cls : Nat) (l : List Nat) (s : State) : Option Nat × State :=
  let s := fillDeficits cls l s
  match keepTurn (s.disp.turn.get 0 cls) (l.filter fun i => decide (0 < deficitOf s cls i)) with
  | none => (none, s)
  | some i => (some i, { s with disp := { s.disp with turn := s.disp.turn.set 0 cls i } })

/-- Chooses a cursor: the highest level; among its instances by deficit round robin, one of weight 0 only when there is no other;
then the lowest list. -/
def chooseCursor (cls : Nat) (l : List Choice) (s : State) : Option (Nat × Cursor) × State :=
  let top := (l.map fun x => x.2.1.level).foldl max 0
  let l := l.filter fun x => x.2.1.level = top
  let insts := (l.map fun x => x.2.1.inst).dedup
  let heavy := insts.filter fun i => classWeight s cls i ≠ 0
  match if heavy.isEmpty then s.choose insts else chooseHeavy cls heavy s with
  | (none, s) => (none, s)
  | (some i, s) => ((l.find? fun x => x.2.1.inst = i).map fun x => (x.1, x.2.2), s)

end Sys2Proof.Machine
end

