-- ==== Sys2Proof/Machine/Digests.lean ====
section
/-!
DEFINITION. The digest functions of R311 over byte strings: SHA-2 (FIPS 180-4), SHA-3 and SHAKE (FIPS 202),
HMAC (FIPS 198-1) and KMAC (NIST SP 800-185), as the standards that the spec names define them.
-/

namespace Sys2Proof.Machine

/-! ## SHA-2 -/

/-- Round constants of SHA-256. -/
def k256 : List Nat :=
  [0x428A2F98, 0x71374491, 0xB5C0FBCF, 0xE9B5DBA5, 0x3956C25B, 0x59F111F1, 0x923F82A4, 0xAB1C5ED5,
   0xD807AA98, 0x12835B01, 0x243185BE, 0x550C7DC3, 0x72BE5D74, 0x80DEB1FE, 0x9BDC06A7, 0xC19BF174] ++
  [0xE49B69C1, 0xEFBE4786, 0x0FC19DC6, 0x240CA1CC, 0x2DE92C6F, 0x4A7484AA, 0x5CB0A9DC, 0x76F988DA,
   0x983E5152, 0xA831C66D, 0xB00327C8, 0xBF597FC7, 0xC6E00BF3, 0xD5A79147, 0x06CA6351, 0x14292967] ++
  [0x27B70A85, 0x2E1B2138, 0x4D2C6DFC, 0x53380D13, 0x650A7354, 0x766A0ABB, 0x81C2C92E, 0x92722C85,
   0xA2BFE8A1, 0xA81A664B, 0xC24B8B70, 0xC76C51A3, 0xD192E819, 0xD6990624, 0xF40E3585, 0x106AA070] ++
  [0x19A4C116, 0x1E376C08, 0x2748774C, 0x34B0BCB5, 0x391C0CB3, 0x4ED8AA4A, 0x5B9CCA4F, 0x682E6FF3,
   0x748F82EE, 0x78A5636F, 0x84C87814, 0x8CC70208, 0x90BEFFFA, 0xA4506CEB, 0xBEF9A3F7, 0xC67178F2]

/-- Round constants of SHA-512. -/
def k512 : List Nat :=
  [0x428A2F98D728AE22, 0x7137449123EF65CD, 0xB5C0FBCFEC4D3B2F, 0xE9B5DBA58189DBBC,
   0x3956C25BF348B538, 0x59F111F1B605D019, 0x923F82A4AF194F9B, 0xAB1C5ED5DA6D8118,
   0xD807AA98A3030242, 0x12835B0145706FBE, 0x243185BE4EE4B28C, 0x550C7DC3D5FFB4E2,
   0x72BE5D74F27B896F, 0x80DEB1FE3B1696B1, 0x9BDC06A725C71235, 0xC19BF174CF692694] ++
  [0xE49B69C19EF14AD2, 0xEFBE4786384F25E3, 0x0FC19DC68B8CD5B5, 0x240CA1CC77AC9C65,
   0x2DE92C6F592B0275, 0x4A7484AA6EA6E483, 0x5CB0A9DCBD41FBD4, 0x76F988DA831153B5,
   0x983E5152EE66DFAB, 0xA831C66D2DB43210, 0xB00327C898FB213F, 0xBF597FC7BEEF0EE4,
   0xC6E00BF33DA88FC2, 0xD5A79147930AA725, 0x06CA6351E003826F, 0x142929670A0E6E70] ++
  [0x27B70A8546D22FFC, 0x2E1B21385C26C926, 0x4D2C6DFC5AC42AED, 0x53380D139D95B3DF,
   0x650A73548BAF63DE, 0x766A0ABB3C77B2A8, 0x81C2C92E47EDAEE6, 0x92722C851482353B,
   0xA2BFE8A14CF10364, 0xA81A664BBC423001, 0xC24B8B70D0F89791, 0xC76C51A30654BE30,
   0xD192E819D6EF5218, 0xD69906245565A910, 0xF40E35855771202A, 0x106AA07032BBD1B8] ++
  [0x19A4C116B8D2D0C8, 0x1E376C085141AB53, 0x2748774CDF8EEB99, 0x34B0BCB5E19B48A8,
   0x391C0CB3C5C95A63, 0x4ED8AA4AE3418ACB, 0x5B9CCA4F7763E373, 0x682E6FF3D6B2B8A3,
   0x748F82EE5DEFB2FC, 0x78A5636F43172F60, 0x84C87814A1F0AB72, 0x8CC702081A6439EC,
   0x90BEFFFA23631E28, 0xA4506CEBDE82BDE9, 0xBEF9A3F7B2C67915, 0xC67178F2E372532B] ++
  [0xCA273ECEEA26619C, 0xD186B8C721C0C207, 0xEADA7DD6CDE0EB1E, 0xF57D4F7FEE6ED178,
   0x06F067AA72176FBA, 0x0A637DC5A2C898A6, 0x113F9804BEF90DAE, 0x1B710B35131C471B,
   0x28DB77F523047D84, 0x32CAAB7B40C72493, 0x3C9EBE0A15C9BEBC, 0x431D67C49C100D4C,
   0x4CC5D4BECB3E42B6, 0x597F299CFC657E2A, 0x5FCB6FAB3AD6FAEC, 0x6C44198C4A475817]

/-- Initial hash value of SHA-256. -/
def h256 : List Nat :=
  [0x6A09E667, 0xBB67AE85, 0x3C6EF372, 0xA54FF53A, 0x510E527F, 0x9B05688C, 0x1F83D9AB, 0x5BE0CD19]

/-- Initial hash value of SHA-384. -/
def h384 : List Nat :=
  [0xCBBB9D5DC1059ED8, 0x629A292A367CD507, 0x9159015A3070DD17, 0x152FECD8F70E5939,
   0x67332667FFC00B31, 0x8EB44A8768581511, 0xDB0C2E0D64F98FA7, 0x47B5481DBEFA4FA4]

/-- Initial hash value of SHA-512. -/
def h512 : List Nat :=
  [0x6A09E667F3BCC908, 0xBB67AE8584CAA73B, 0x3C6EF372FE94F82B, 0xA54FF53A5F1D36F1,
   0x510E527FADE682D1, 0x9B05688C2B3E6C1F, 0x1F83D9ABFB41BD6B, 0x5BE0CD19137E2179]

/-- A word size of SHA-2: bits, and the rotations of Σ0, Σ1, σ0 and σ1 (the last amount of a σ is a shift). -/
structure Sha2 where
  w : Nat
  s0 : Nat × Nat × Nat
  s1 : Nat × Nat × Nat
  m0 : Nat × Nat × Nat
  m1 : Nat × Nat × Nat
  k : List Nat
  deriving DecidableEq, Repr

def sha2w32 : Sha2 :=
  { w := 32, s0 := (2, 13, 22), s1 := (6, 11, 25), m0 := (7, 18, 3), m1 := (17, 19, 10), k := k256 }
def sha2w64 : Sha2 :=
  { w := 64, s0 := (28, 34, 39), s1 := (14, 18, 41), m0 := (1, 8, 7), m1 := (19, 61, 6), k := k512 }

/-- Rotation right of a w-bit number. -/
def rotr (w n x : Nat) : Nat := (x >>> n) ||| ((x % 2 ^ n) <<< (w - n))

/-- Σ: three rotations. -/
def bigSigma (w : Nat) (r : Nat × Nat × Nat) (x : Nat) : Nat := rotr w r.1 x ^^^ rotr w r.2.1 x ^^^ rotr w r.2.2 x

/-- σ: two rotations and a shift. -/
def smallSigma (w : Nat) (r : Nat × Nat × Nat) (x : Nat) : Nat := rotr w r.1 x ^^^ rotr w r.2.1 x ^^^ (x >>> r.2.2)

/-- Extends the message schedule, kept newest first, by n words. -/
def schedule (c : Sha2) : Nat → List Nat → List Nat
  | 0, l => l
  | n + 1, l =>
    let x := (smallSigma c.w c.m1 (l.getD 1 0) + l.getD 6 0 + smallSigma c.w c.m0 (l.getD 14 0) + l.getD 15 0) % 2 ^ c.w
    schedule c n (x :: l)

/-- One round on the eight working variables. -/
def sha2Round (c : Sha2) (v : List Nat) (kw : Nat × Nat) : List Nat :=
  match v with
  | [a, b, cc, d, e, f, g, h] =>
    let t1 := h + bigSigma c.w c.s1 e + ((e &&& f) ^^^ ((2 ^ c.w - 1 - e) &&& g)) + kw.1 + kw.2
    let t2 := bigSigma c.w c.s0 a + ((a &&& b) ^^^ (a &&& cc) ^^^ (b &&& cc))
    [(t1 + t2) % 2 ^ c.w, a, b, cc, (d + t1) % 2 ^ c.w, e, f, g]
  | _ => v

/-- A big-endian number from bytes. -/
def beNat (b : List Byte) : Nat := b.foldl (fun a x => 256 * a + x.toNat) 0

/-- The n low bytes of a number, most significant first. -/
def beBytes (x n : Nat) : List Byte := (leBytes x n).reverse

/-- Cuts a list into pieces of n elements. -/
def pieces {α : Type} (n : Nat) : Nat → List α → List (List α)
  | 0, _ => []
  | fuel + 1, l => if l.isEmpty then [] else l.take n :: pieces n fuel (l.drop n)

/-- The compression of one block. -/
def sha2Block (c : Sha2) (h : List Nat) (blk : List Byte) : List Nat :=
  let ws := (pieces (c.w / 8) 17 blk).map beNat
  let sched := (schedule c (c.k.length - 16) ws.reverse).reverse
  let v := (c.k.zip sched).foldl (sha2Round c) h
  (h.zip v).map fun x => (x.1 + x.2) % 2 ^ c.w

/-- SHA-2 padding with the length field. -/
def sha2Pad (c : Sha2) (m : List Byte) : List Byte :=
  let blk := 2 * c.w
  let lf := c.w / 4
  let z := (2 * blk - 1 - lf - m.length % blk) % blk
  m ++ [0x80] ++ zeros z ++ beBytes (8 * m.length) lf

/-- A SHA-2 digest of n bytes. -/
def sha2 (c : Sha2) (iv : List Nat) (n : Nat) (m : List Byte) : List Byte :=
  let p := sha2Pad c m
  let h := (pieces (2 * c.w) (p.length / (2 * c.w) + 1) p).foldl (sha2Block c) iv
  ((h.map fun x => beBytes x (c.w / 8)).flatten).take n

def sha256 (m : List Byte) : List Byte := sha2 sha2w32 h256 32 m
def sha384 (m : List Byte) : List Byte := sha2 sha2w64 h384 48 m
def sha512 (m : List Byte) : List Byte := sha2 sha2w64 h512 64 m

/-! ## SHA-3 -/

/-- Round constants of KECCAK-f[1600]. -/
def keccakRc : List Nat :=
  [0x0000000000000001, 0x0000000000008082, 0x800000000000808A, 0x8000000080008000,
   0x000000000000808B, 0x0000000080000001, 0x8000000080008081, 0x8000000000008009,
   0x000000000000008A, 0x0000000000000088, 0x0000000080008009, 0x000000008000000A,
   0x000000008000808B, 0x800000000000008B, 0x8000000000008089, 0x8000000000008003] ++
  [0x8000000000008002, 0x8000000000000080, 0x000000000000800A, 0x800000008000000A,
   0x8000000080008081, 0x8000000000008080, 0x0000000080000001, 0x8000000080008008]

/-- Rotation offsets of ρ, lane x + 5 y. -/
def keccakRot : List Nat :=
  [0, 1, 62, 28, 27, 36, 44, 6, 55, 20, 3, 10, 43, 25, 39, 41, 45, 15, 21, 8, 18, 2, 61, 56, 14]

/-- Rotation left of a 64-bit number. -/
def rotl64 (n x : Nat) : Nat := ((x <<< n) % 2 ^ 64) ||| (x >>> (64 - n))

/-- One round of KECCAK-f[1600] on 25 lanes. -/
def keccakRound (a : List Nat) (rc : Nat) : List Nat :=
  let g := fun (l : List Nat) x y => l.getD (x % 5 + 5 * (y % 5)) 0
  let c := (List.range 5).map fun x => g a x 0 ^^^ g a x 1 ^^^ g a x 2 ^^^ g a x 3 ^^^ g a x 4
  let d := (List.range 5).map fun x => c.getD ((x + 4) % 5) 0 ^^^ rotl64 1 (c.getD ((x + 1) % 5) 0)
  let t := (List.range 25).map fun i => a.getD i 0 ^^^ d.getD (i % 5) 0
  -- ρ and π: lane (x, y) of the result comes from lane (x + 3 y, x)
  let b := (List.range 25).map fun i =>
    let x := i % 5
    let y := i / 5
    let j := (x + 3 * y) % 5 + 5 * x
    rotl64 (keccakRot.getD j 0) (t.getD j 0)
  let e := (List.range 25).map fun i =>
    let x := i % 5
    let y := i / 5
    g b x y ^^^ ((2 ^ 64 - 1 - g b (x + 1) y) &&& g b (x + 2) y)
  match e with
  | [] => []
  | h :: t => (h ^^^ rc) :: t

/-- KECCAK-f[1600]. -/
def keccakF (a : List Nat) : List Nat := keccakRc.foldl keccakRound a

/-- Absorbs one block of the rate. -/
def absorb (a : List Nat) (blk : List Byte) : List Nat :=
  let ws := (pieces 8 26 blk).map leNat
  keccakF ((List.range 25).map fun i => a.getD i 0 ^^^ ws.getD i 0)

/-- The bytes of a state. -/
def laneBytesOf (a : List Nat) : List Byte := (a.map fun x => leBytes x 8).flatten

/-- Squeezes n bytes. -/
def squeeze (rate : Nat) : Nat → List Nat → Nat → List Byte
  | 0, _, _ => []
  | fuel + 1, a, n =>
    if n = 0 then []
    else ((laneBytesOf a).take (min rate n)) ++ squeeze rate fuel (keccakF a) (n - min rate n)

/-- The sponge with a domain byte (its low bits, then the first 1 of pad10*1). -/
def sponge (rate dom outlen : Nat) (m : List Byte) : List Byte :=
  let z := rate - 1 - m.length % rate
  let p := if z = 0 then m ++ [BitVec.ofNat 8 (dom + 128)]
    else m ++ [BitVec.ofNat 8 dom] ++ zeros (z - 1) ++ [0x80]
  squeeze rate (outlen / rate + 2) ((pieces rate (p.length / rate + 1) p).foldl absorb (List.replicate 25 0)) outlen

def sha3 (n : Nat) (m : List Byte) : List Byte := sponge (200 - 2 * n) 0x06 n m
def shake128 (n : Nat) (m : List Byte) : List Byte := sponge 168 0x1F n m
def shake256 (n : Nat) (m : List Byte) : List Byte := sponge 136 0x1F n m

/-! ## HMAC and KMAC -/

/-- HMAC over a hash function with its block length. -/
def hmac (h : List Byte → List Byte) (blk : Nat) (key m : List Byte) : List Byte :=
  let k := if blk < key.length then h key else key
  let k := k ++ zeros (blk - k.length)
  h (k.map (· ^^^ 0x5C) ++ h (k.map (· ^^^ 0x36) ++ m))

/-- Bytes that a number needs, at least 1. -/
def numBytes (x : Nat) : Nat := max 1 ((Nat.log2 x + 8) / 8)

def leftEncode (x : Nat) : List Byte := BitVec.ofNat 8 (numBytes x) :: beBytes x (numBytes x)
def rightEncode (x : Nat) : List Byte := beBytes x (numBytes x) ++ [BitVec.ofNat 8 (numBytes x)]
def encodeString (b : List Byte) : List Byte := leftEncode (8 * b.length) ++ b

/-- bytepad of SP 800-185. -/
def bytepad (b : List Byte) (w : Nat) : List Byte :=
  let z := leftEncode w ++ b
  z ++ zeros ((w - z.length % w) % w)

/-- KMAC with a fixed-length output; the rate picks KMAC128 or KMAC256. -/
def kmac (rate outlen : Nat) (key cust m : List Byte) : List Byte :=
  let name : List Byte := [0x4B, 0x4D, 0x41, 0x43]
  sponge rate 0x04 outlen
    (bytepad (encodeString name ++ encodeString cust) rate ++ bytepad (encodeString key) rate ++ m ++
      rightEncode (8 * outlen))

/-! ## Functions by number (R311) -/

/-- Digest length of a fixed-length function, 0 for a variable one. -/
def digestLen (f : Nat) : Nat :=
  if f = 1 ∨ f = 4 ∨ f = 9 then 32 else if f = 2 ∨ f = 5 ∨ f = 10 then 48
  else if f = 3 ∨ f = 6 ∨ f = 11 then 64 else 0

/-- Output length with a setting of OUTLEN; none where the setting is out of range. -/
def outLength (f o : Nat) : Option Nat :=
  if f = 0 ∨ 13 < f then none
  else if digestLen f ≠ 0 then (if o = 0 ∨ o = digestLen f then some (digestLen f) else none)
  else if 1 ≤ o ∧ o ≤ 64 then some o else none

/-- Functions with a key: HMAC and KMAC; with a customisation string: KMAC. -/
def keyed (f : Nat) : Bool := decide (9 ≤ f) && decide (f ≤ 13)
def customised (f : Nat) : Bool := decide (f = 12) || decide (f = 13)

/-- The output of a function over a message. -/
def digestOf (f n : Nat) (key cust m : List Byte) : List Byte :=
  match f with
  | 1 => sha256 m
  | 2 => sha384 m
  | 3 => sha512 m
  | 4 => sha3 32 m
  | 5 => sha3 48 m
  | 6 => sha3 64 m
  | 7 => shake128 n m
  | 8 => shake256 n m
  | 9 => hmac sha256 64 key m
  | 10 => hmac sha384 128 key m
  | 11 => hmac sha512 128 key m
  | 12 => kmac 168 n key cust m
  | _ => kmac 136 n key cust m

end Sys2Proof.Machine
end

