-- ==== Sys2Proof/Machine/StoreOps.lean ====
section
/-!
DEFINITION. Table store: objects, extents and snapshots (R405 to R412), what each operation makes of an object
(R416), capacity (R409), ordering (R418), publication and durability (R410, R421 to R424), NVMe commands
(R425 to R427).
-/

namespace Sys2Proof.Machine

/-- Bytes of an extent (R405). -/
def extSize : Nat := 1048576

/-- The largest object (R405). -/
def objMax : Nat := 2 ^ 44

/-! ## Objects -/

/-- The object that an ID names for a command of acceptance number n: one deleted since then still serves
it (R416). -/
def objFor (s : State) (i id n : Nat) : Option StoreObj :=
  s.store.objs.find? fun o => decide (o.inst = i) && decide (o.id = id) && (!o.deleted || decide (n < o.goneAt))

/-- The object that an ID names now. -/
def objNow (s : State) (i id : Nat) : Option StoreObj :=
  s.store.objs.find? fun o => decide (o.inst = i) && decide (o.id = id) && !o.deleted

/-- Whether two object records are the same object: deleted ones differ by the time of their delete. -/
def sameObj (a b : StoreObj) : Bool :=
  decide (a.inst = b.inst) && decide (a.id = b.id) && (a.deleted == b.deleted) && decide (a.goneAt = b.goneAt)

/-- Changes an object. -/
def modObj (o : StoreObj) (f : StoreObj → StoreObj) (s : State) : State :=
  { s with store := { s.store with objs := s.store.objs.map fun x => if sameObj x o then f x else x } }

/-- Bytes [off, off + n) of an object's contents. -/
def imgRead (m : ObjImage) (off n : Nat) : List Byte := Tbl.read 0 m.bytes off n

/-- The extents that a range of n bytes touches. -/
def extsOf (off n : Nat) : List Nat :=
  if n = 0 then [] else List.range' (off / extSize) ((off + n - 1) / extSize + 1 - off / extSize)

/-- Whether a range covers a whole extent. -/
def coversExt (off n e : Nat) : Bool := decide (off ≤ e * extSize) && decide ((e + 1) * extSize ≤ off + n)

/-- The contents after a write: the next version, with the extents it touches rewritten (R410, R416). -/
def imgWrite (m : ObjImage) (off : Nat) (d : List Byte) : ObjImage :=
  { size := max m.size (off + d.length), ver := m.ver + 1, bytes := Tbl.write 0 m.bytes off d,
    exts := (extsOf off d.length).foldl (fun t e => t.set 0 e (m.ver + 2)) m.exts }

/-- The contents after a trim: whole extents released, the parts at the ends zero. -/
def imgTrim (m : ObjImage) (off n : Nat) : ObjImage :=
  { size := m.size, ver := m.ver + 1, bytes := Tbl.clearRange m.bytes off (off + n),
    exts := (extsOf off n).foldl (fun t e =>
      if coversExt off n e then t.set 0 e 0 else if t.get 0 e = 0 then t else t.set 0 e (m.ver + 2)) m.exts }

/-- Bytes of the extents that a trim releases (R417). -/
def trimReleased (m : ObjImage) (off n : Nat) : Nat :=
  extSize * ((extsOf off n).filter fun e => coversExt off n e && decide (m.exts.get 0 e ≠ 0)).length

/-- The extent that a RESIZE to n bytes cuts. -/
def cutExt (m : ObjImage) (n : Nat) : Option Nat :=
  if n < m.size ∧ n % extSize ≠ 0 ∧ m.exts.get 0 (n / extSize) ≠ 0 then some (n / extSize) else none

/-- The contents after RESIZE: the extent that it cuts is written anew, its end zero (R410, R416). -/
def imgResize (m : ObjImage) (n : Nat) : ObjImage :=
  let kept : Tbl Nat := m.exts.filter fun e => decide (e.1 * extSize < n)
  { size := n, ver := m.ver + 1, bytes := m.bytes.filter fun e => decide (e.1 < n),
    exts := match cutExt m n with | some e => kept.set 0 e (m.ver + 2) | none => kept }

/-- The contents after a QUERY's STORE output: the whole object is replaced (R412). -/
def imgReplace (m : ObjImage) (d : List Byte) : ObjImage :=
  imgWrite { size := 0, ver := m.ver, bytes := [], exts := [] } 0 d

/-! ## SSDs (R402) -/

def State.ssd (s : State) (p : Nat) : Ssd := s.store.ssds.get Ssd.none p
def State.setSsd (s : State) (p : Nat) (x : Ssd) : State :=
  { s with store := { s.store with ssds := s.store.ssds.set Ssd.none p x } }

/-- An SSD of the pool that takes commands. -/
def healthy (s : State) (p : Nat) : Bool := (s.ssd p).pool && !(s.ssd p).failed

/-! ## Capacity (R409) -/

/-- Extents that an image holds, each with the version that wrote it. -/
def imgExts (m : ObjImage) : List (Nat × Nat) := m.exts

/-- Snapshots that commands in flight hold. -/
def liveSnaps (s : State) (i id : Nat) : List ObjImage :=
  (s.ring.cmds.filterMap fun e => e.2.bind fun c =>
    if c.inst ≠ i ∨ c.outcome.isSome then none
    else
      match c.work with
      | .store r => if c.obj = id ∧ r.passed then some [r.snap] else none
      | .digest r => if c.obj = id ∧ r.passed then some [r.snap] else none
      | .query q => some ((q.inputs.filter fun x => decide (x.kind = 2) && decide (x.tid = id)).map (·.snap))
      | _ => none).flatten

/-- Extent copies that an object holds on media or in the write cache, with contents m in place of its
present ones. -/
def objCopies (s : State) (o : StoreObj) (m : ObjImage) : Nat :=
  let pubs := (s.store.pubs.filter fun p => decide (p.inst = o.inst) && decide (p.id = o.id)).map (·.img)
  let all := (m :: o.dur :: pubs ++ liveSnaps s o.inst o.id).map imgExts
  o.copies * (all.flatten.eraseDups).length

/-- A sum over the queries in flight whose outcome is open or SUCCESS. -/
def querySum (s : State) (p : Cmd → Bool) (f : QueryRun → Nat) : Nat :=
  (s.ring.cmds.map fun e => match e.2 with
    | some c =>
      if p c && (c.outcome.isNone || decide (c.outcome = some stSuccess)) then (match c.work with | .query q => f q | _ => 0) else 0
    | none => 0).sum

/-- Extent copies that an instance's objects hold, with those that its queries have still to publish. -/
def instCopies (s : State) (i : Nat) : Nat :=
  ((s.store.objs.filter fun o => o.inst = i).map fun o => objCopies s o o.cur).sum +
    querySum s (fun c => decide (c.inst = i)) (·.copies)

/-- Extent copies that all objects hold, with those that queries have still to publish. -/
def storeCopies (s : State) : Nat := (s.store.objs.map fun o => objCopies s o o.cur).sum + querySum s (fun _ => true) (·.copies)

/-- Extent copies that the pool holds (log 85). -/
def poolCopies (s : State) : Nat := ((List.range 16).map fun p => if healthy s p then (s.ssd p).extents else 0).sum

/-- Extent copies that new contents of objects, all taken together, need beyond those of their present contents. -/
def moreCopies (s : State) (l : List (StoreObj × ObjImage)) : Nat :=
  (l.map fun x => objCopies s x.1 x.2).sum - (l.map fun x => objCopies s x.1 x.1.cur).sum

/-- Whether new contents of objects of an instance exceed its capacity or the pool's, all taken together. Contents that
need no further copy exceed neither, however little is left. -/
def overAll (s : State) (i : Nat) (l : List (StoreObj × ObjImage)) : Bool :=
  let more := moreCopies s l
  decide (0 < more) && (decide ((s.inst i).res.storeExt < instCopies s i + more) || decide (poolCopies s < storeCopies s + more))

/-- Whether contents m of an object exceed the instance's capacity. -/
def overCapacity (s : State) (o : StoreObj) (m : ObjImage) : Bool := overAll s o.inst [(o, m)]

/-! ## Write cache (R421, R424) -/

/-- Write-cache frames held: by all, or by one instance. -/
def cacheFrames (s : State) (inst : Option Nat) : Nat :=
  let mine := fun (i : Nat) => match inst with | some k => decide (k = i) | none => true
  ((s.store.pubs.filter fun p => mine p.inst).map (·.frames)).sum +
  (s.ring.cmds.map fun e => match e.2 with
    | some c => (match c.work with | .store r => if mine c.inst then r.frames else 0 | _ => 0)
    | none => 0).sum +
  querySum s (fun c => mine c.inst) (·.frames)

/-- Frames that n bytes take in the write cache. -/
def framesFor (n : Nat) : Nat := ceilDiv n pageSize

/-- A place in the write cache for n bytes of an instance. In STRICT the cache is divided by STRICT weights, rounded down
(R448, log 16). Bytes that would not fit even into an empty cache are let into an empty one (log 102). -/
def cacheRoom (s : State) (i n : Nat) : Bool :=
  let held := cacheFrames s (if isStrict s then some i else none)
  let size := if isStrict s then 16384 * weightOf s i 3 / strictWeights s else 16384
  decide (held + framesFor n ≤ size) || decide (held = 0)

/-- The write of an instance that waits longest for a place; in STRICT no instance waits for another. -/
def nextWaiting (s : State) (i : Nat) : Option Nat :=
  if isStrict s then s.store.cacheQ.find? fun k => (s.cmd k).any fun c => decide (c.inst = i) else s.store.cacheQ.head?

/-! ## Placement (R402, R403, R406, R427) -/

/-- Ports of a stripe set, ascending. -/
def stripePorts (o : StoreObj) : List Nat := (List.range 16).filter fun p => o.stripe.getLsbD p

/-- Port of copy c of extent e (R406). -/
def extPort (o : StoreObj) (e c : Nat) : Nat :=
  let ps := stripePorts o
  ps.getD ((e + c) % (max 1 ps.length)) 0

/-- Port on which copy c of extent e lies. -/
def copyPort (o : StoreObj) (e c : Nat) : Nat :=
  match o.moved.get 0 (2 * e + c) with
  | 0 => extPort o e c
  | p + 1 => p

/-- An extent copy, by 2 × extent + copy, has been written on a port. -/
def placeCopy (o : StoreObj) (k port : Nat) : StoreObj :=
  { o with moved := o.moved.set 0 k (if port = extPort o (k / 2) (k % 2) then 0 else port + 1) }

/-- The next healthy SSD of the stripe set after a port, in ascending order and wrapping (R427). -/
def nextHealthy (s : State) (o : StoreObj) (p : Nat) : Option Nat :=
  let ps := (stripePorts o).filter (healthy s)
  match ps.find? fun x => p < x with
  | some x => some x
  | none => (ps.filter (· ≠ p)).head?

/-- The port on which copy c of an extent is written first: its own, or the next healthy one. -/
def writePort (s : State) (o : StoreObj) (e c : Nat) : Option Nat :=
  let p := extPort o e c
  if healthy s p then some p else nextHealthy s o p

/-- The trailer block's record and zeros (R407). -/
def trailer (o : StoreObj) (e ver : Nat) (data : List Byte) : List Byte :=
  let r := sha256 data ++ leBytes 0x5458515A 4 ++ leBytes o.id 4 ++ leBytes o.inst 1 ++ zeros 3 ++ leBytes e 4 ++
    leBytes ver 8 ++ zeros 4
  r ++ leBytes (crc32c r) 4 ++ zeros (4096 - 64)

/-- The 257 LBAs of extent e with contents m: its data, padded with zeros, and its trailer block (R407). -/
def extentBlocks (o : StoreObj) (m : ObjImage) (e : Nat) : List Byte :=
  let d := imgRead m (e * extSize) extSize
  d ++ trailer o e (m.exts.get 0 e - 1) d

/-- The check of R408 on the 257 LBAs of an extent. -/
def extentPasses (o : StoreObj) (e ver : Nat) (d : List Byte) : Bool :=
  let t := d.drop extSize
  decide (d.length = 257 * 4096) && decide (leAt t 0x3C 4 = crc32c (t.take 0x3C)) && decide (leAt t 0x20 4 = 0x5458515A) &&
  decide (leAt t 0x24 4 = o.id) && decide (leAt t 0x28 1 = o.inst) && decide (leAt t 0x2C 4 = e) &&
  decide (leAt t 0x30 8 = ver) && decide (t.take 32 = sha256 (d.take extSize))

/-! ## NVMe commands (R425) -/

/-- An instance is in a fence: the store sends nothing more for it (R429, R455, R456). -/
def inFence (s : State) (i : Nat) : Bool := decide ((s.inst i).st = .resetting) || decide ((s.inst i).st = .destroying)

/-- Sends an NVMe command. -/
def sendNvme (n : Nvme) (s : State) : State :=
  if inFence s n.inst then s
  else { s with store := { s.store with
      nvme := s.store.nvme ++ [{ n with id := s.store.nextNvme, sentAt := s.time }], nextNvme := s.store.nextNvme + 1 } }

/-- Takes an NVMe command off the list of those outstanding. -/
def dropNvme (n : Nvme) (s : State) : State :=
  { s with store := { s.store with nvme := s.store.nvme.filter fun x => x.id ≠ n.id } }

/-- EXTENT_BAD names the table, the extent and the port (R426, R477). -/
def extentBad (n : Nvme) (s : State) : State :=
  logEvent 0x0504 0x06 n.inst n.obj (some (n.ext % 2 ^ 24 + 2 ^ 28 * n.port)) s

/-- The object of an NVMe command. -/
def nvmeObj (s : State) (n : Nvme) : Option StoreObj :=
  match n.slot.bind s.cmd with
  | some c => objFor s n.inst n.obj c.accNo
  | none => s.store.objs.find? fun o => decide (o.inst = n.inst) && decide (o.id = n.obj)

/-- An extent of a snapshot that lies on media: the durable contents hold the same one; others stand in the
write cache (R421). -/
def onMedia (o : StoreObj) (m : ObjImage) (e : Nat) : Bool :=
  decide (m.exts.get 0 e ≠ 0) && decide (o.dur.exts.get 0 e = m.exts.get 0 e)

/-- An extent that a command needs cannot be read: a group directory fails its query with PARAM_INVALID, a chunk its item
with the status at its SCAN (R61, R117), the message of a digest clears its context (R323), and any other command fails with
the status. -/
def extentLost (slot : Nat) (r0 : Option W64) (st : Nat) (s : State) : State :=
  match s.cmd slot with
  | none => s
  | some c =>
    match c.work, r0 with
    | .query _, some r => endIfFailed slot (recordFailure slot st r s)
    | .query _, none => failCmd slot stParam s
    | .digest { ctx := some (u, k), .. }, _ => failCmd slot st (clearLogged u k s)
    | _, _ => failCmd slot st s

/-- A read of an extent failed with a status: the second copy serves it when there is one; else its command fails, and an
extent of the present contents that fails the check on every copy stays bad (R425, R426, R430). -/
def readLost (n : Nvme) (st : Nat) (s : State) : State :=
  let s := extentBad n (dropNvme n s)
  match nvmeObj s n with
  | none => s
  | some o =>
    let other := copyPort o n.ext 1
    if n.place = 0 ∧ o.copies = 2 ∧ healthy s other then sendNvme { n with port := other, tries := 0, place := 1, heal := true } s
    else
      let s := if st = stIntegrity ∧ o.cur.exts.get 0 n.ext = n.ver + 1 then
          modObj o (fun x => { x with badExts := n.ext :: x.badExts.filter (· ≠ n.ext) }) s else s
      match n.slot with
      | some k => extentLost k n.r0 st s
      | none => s

/-- Reads one extent of a snapshot for a command, from its first copy on a healthy SSD. One that is known to be bad, or has no
such copy, is lost at once (R425, R426, R430). -/
def readExtent (slot : Nat) (r0 : Option W64) (o : StoreObj) (m : ObjImage) (e : Nat) (s : State) : State :=
  let c := if healthy s (copyPort o e 0) || decide (o.copies ≠ 2) then 0 else 1
  let n : Nvme := { id := s.store.nextNvme, port := copyPort o e c, kind := .extRead, inst := o.inst, obj := o.id, ext := e,
                    ver := m.exts.get 0 e - 1, tries := 0, place := c, slot := some slot, sentAt := 0, r0 := r0 }
  if o.badExts.contains e && decide (o.cur.exts.get 0 e = m.exts.get 0 e) then
    extentLost slot r0 stIntegrity (extentBad n s)
  else if !onMedia o m e then s
  else if healthy s n.port then sendNvme n s
  else extentLost slot r0 stMedia (extentBad n s)

/-- Reads the extents of a list for a command, until one of them ends it. -/
def readExtents (slot : Nat) (r0 : Option W64) (o : StoreObj) (m : ObjImage) (es : List Nat) (s : State) : State :=
  forEach (fun e s =>
    if (s.cmd slot).any fun c => c.outcome.isSome || c.failure.isSome then s else readExtent slot r0 o m e s) es s

/-- Media reads of a command that are outstanding. -/
def readsLeft (s : State) (slot : Nat) : Bool := s.store.nvme.any fun n => n.slot = some slot

/-- Media reads of one item of a query that are outstanding. -/
def itemReads (s : State) (slot : Nat) (r0 : W64) : Bool :=
  s.store.nvme.any fun n => decide (n.slot = some slot) && decide (n.r0 = some r0)

/-! ## Ordering (R418) -/

/-- What a command touches of an object: everything, or a range. -/
inductive Touch where
  | none
  | all
  | range (off n : Nat)
  deriving DecidableEq, Repr

/-- The records of a query's parameter block that name store objects: kind 2 INPUT with IKIND 2, kind 3 OUTPUT with
OKIND 3. -/
def queryObjs (q : QueryRun) : List Nat :=
  q.plan.slots.filterMap fun e =>
    let r := (q.pb.drop e.offset).take e.size
    if e.kind = 2 ∧ leAt r 0 1 = 2 then some (leAt r 0x0C 4)
    else if e.kind = 3 ∧ leAt r 0 1 = 3 then some (leAt r 4 4)
    else none

/-- What a command touches of object id. -/
def touches (c : Cmd) (id : Nat) : Touch :=
  match c.work with
  | .query q =>
    if q.pb.isEmpty then (if q.plan.slots.any fun e => decide (e.kind = 2) || decide (e.kind = 3) then .all else .none)
    else if (queryObjs q).contains id then .all else .none
  | _ =>
    if c.obj ≠ id then .none
    else if c.opc = 0x10 ∨ c.opc = 0x11 ∨ c.opc = 0x14 then .range c.addr1 c.len
    else if c.opc = 0x12 then .all
    else if c.opc = 0x15 then (if bits (c.param 0) 7 0 = 2 ∨ bits (c.param 0) 7 0 = 4 then .all else .range 0 0)
    else if (c.opc = 0x20 ∨ c.opc = 0x21) ∧ bits (c.param 0) 9 8 = 2 then .range c.addr0 c.len
    else .none

/-- Two commands on an object overlap. -/
def overlaps : Touch → Touch → Bool
  | .none, _ => false
  | _, .none => false
  | .all, _ => true
  | _, .all => true
  | .range a n, .range b m => decide (a < b + m) && decide (b < a + n)

/-- A query that publishes store objects, or whose parameter block has not been read and could name some. -/
def publishes (q : QueryRun) : Bool :=
  if q.pb.isEmpty then q.plan.slots.any fun e => decide (e.kind = 2) || decide (e.kind = 3)
  else q.plan.slots.any fun e => decide (e.kind = 3) && decide (leAt ((q.pb.drop e.offset).take e.size) 0 1 = 3)

/-- Whether a command has passed its ordering point: its snapshot or its publication; a query has both. -/
def orderPassed (s : State) (c : Cmd) : Bool :=
  c.outcome.isSome && (c.step3 || decide (c.outcome ≠ some stSuccess) || !c.isQuery) ||
  (match c.work with
   | .store r => r.passed
   | .digest r => r.passed
   | .query q => !(publishes q) && q.inputs.all (fun x => decide (x.kind ≠ 2) || x.loaded)
   | _ => false) ||
  s.store.pubs.any fun p => decide (p.accNo = c.accNo) && !p.hidden

/-- An overlapping command accepted earlier in the same SQ has not passed its ordering point. -/
def orderBlocked (s : State) (c : Cmd) (ids : List Nat) : Bool :=
  s.ring.cmds.any fun e => e.2.any fun x =>
    decide (x.inst = c.inst) && decide (x.sq = c.sq) && decide (x.accNo < c.accNo) && x.accepted && x.dupOf.isNone &&
    !orderPassed s x && ids.any fun id => overlaps (touches x id) (touches c id)

/-! ## Publication (R410, R411) -/

/-- The extent copies that contents m need on media and contents `old` did not have. -/
def newCopies (o : StoreObj) (old m : ObjImage) : List Nat :=
  ((m.exts.filter fun e => decide (old.exts.get 0 e.1 ≠ e.2)).map fun e =>
    (List.range o.copies).map fun c => 2 * e.1 + c).flatten

/-- Publishes contents of an object now; the publication waits in the write cache for media (R421). A deleted object keeps its
contents for the commands accepted earlier (R416). -/
def publish (o : StoreObj) (m : ObjImage) (c : Cmd) (slot : Option Nat) (frames : Nat) (del : Bool) (s : State) : State :=
  let p : Pub := {
    inst := o.inst, id := o.id, img := m, todo := newCopies o o.cur m, accNo := c.accNo, doneAcc := none, delete := del,
    hidden := false, slot := slot, frames := frames }
  let s := { s with store := { s.store with pubs := s.store.pubs ++ [p] } }
  let now := if del then { o.cur with ver := m.ver } else m
  modObj o (fun x => { x with cur := now, deleted := x.deleted || del, goneAt := if del then s.ring.nextAcc else x.goneAt,
                              badExts := x.badExts.filter fun e => decide (x.cur.exts.get 0 e = now.exts.get 0 e) }) s

/-- Contents under the version that is `k` versions later. -/
def ObjImage.later (m : ObjImage) (k : Nat) : ObjImage := { m with ver := m.ver + k, exts := m.exts.map fun e => (e.1, e.2 + k) }

/-- The publications of a command that wait to be made, in order. -/
def hiddenPubs (s : State) (acc : Nat) : List Pub := s.store.pubs.filter fun p => p.hidden && decide (p.accNo = acc)

/-- A publication with DUR waits for its extents to reach media first (R73, R427). A further one of its command on the same object
takes the version after. -/
def publishLater (o : StoreObj) (m : ObjImage) (c : Cmd) (slot frames : Nat) (s : State) : State :=
  let m := m.later ((hiddenPubs s c.accNo).filter fun p => p.id = o.id).length
  let p : Pub := {
    inst := o.inst, id := o.id, img := m, todo := newCopies o o.cur m, accNo := c.accNo, doneAcc := none, delete := false,
    hidden := true, slot := some slot, frames := frames }
  { s with store := { s.store with pubs := s.store.pubs ++ [p] } }

/-- What a publishing command makes of an object's present contents; none for a command that makes nothing. -/
def effectOf (c : Cmd) (m : ObjImage) : Option ObjImage :=
  match c.work with
  | .store r =>
    if c.opc = 0x10 then some (imgWrite m c.addr1 r.data)
    else if c.opc = 0x12 then some (imgWrite m m.size r.data)
    else if c.opc = 0x14 then some (imgTrim m c.addr1 c.len)
    else if c.opc = 0x15 ∧ bits (c.param 0) 7 0 = 4 then some (imgResize m (c.param 1))
    else none
  | _ => none

/-- RESULT0 of a publishing command on the contents it met (R417). -/
def publishResult (c : Cmd) (m m' : ObjImage) : Nat :=
  if c.opc = 0x10 then c.len
  else if c.opc = 0x12 then m.size
  else if c.opc = 0x14 then trimReleased m c.addr1 c.len
  else m'.ver

/-- The objects that a publication serves. -/
def pubObj (s : State) (p : Pub) : Option StoreObj :=
  s.store.objs.find? fun o => decide (o.inst = p.inst) && decide (o.id = p.id) &&
    (!o.deleted || decide (p.accNo < o.goneAt))

/-! ## Durability (R422, R423) -/

/-- Extents of a publication that are all on media. -/
def Pub.onMedia (p : Pub) : Bool := p.todo.isEmpty

/-- Flushes no longer wait for a publication; one that waits for nothing more has succeeded, RESULT0 being the
highest version it made durable (R417, R423). -/
def flushDone (i id ver : Nat) (s : State) : State :=
  let hit := fun (f : Nat × List (Nat × Nat × Nat)) => f.2.contains (i, id, ver)
  let done := s.store.flushes.filter fun f => hit f && f.2.all fun p => decide (p = (i, id, ver))
  let more := s.store.flushes.filter fun f => hit f && !f.2.all fun p => decide (p = (i, id, ver))
  let s := { s with store := { s.store with
    flushes := (s.store.flushes.map fun f => (f.1, if hit f then f.2.erase (i, id, ver) else f.2)).filter
      fun f => !f.2.isEmpty } }
  let top := fun (slot : Nat) => match s.cmd slot with | some c => max c.r0.toNat ver | none => ver
  let s := forEach (fun (f : Nat × List (Nat × Nat × Nat)) s =>
    s.modCmd f.1 fun c => { c with r0 := BitVec.ofNat 64 (max c.r0.toNat ver) }) more s
  forEach (fun (f : Nat × List (Nat × Nat × Nat)) s => succeed f.1 (BitVec.ofNat 64 (top f.1)) s) done s

/-- Two publications are of one object. -/
def Pub.sameObj (p q : Pub) : Bool := decide (p.inst = q.inst) && decide (p.id = q.id)

/-- What publication p shows of its object's contents is on media, of those extents at least that q wrote: one that p supersedes
need never reach media (R422). -/
def Pub.restsOn (p q : Pub) : Bool :=
  q.todo.all fun k => decide (q.img.exts.get 0 (k / 2) ≠ p.img.exts.get 0 (k / 2))

/-- The publications that a commit record can cover: of each object, those up to one whose contents are all on media. One that
waits to be made is none of them. -/
def coverable (l : List Pub) : List Pub :=
  let made := l.filter fun p => !p.hidden
  let ready := fun (n : Nat) (p : Pub) => (made.take (n + 1)).all fun q => !(p.sameObj q) || p.restsOn q
  (made.zipIdx.filter fun x => (made.zipIdx.drop x.2).any fun y => x.1.sameObj y.1 && ready y.2 y.1).map (·.1)

/-- A deleted object whose delete is durable. -/
def goneForGood (s : State) (o : StoreObj) : Bool :=
  o.deleted && !s.store.pubs.any fun p => decide (p.inst = o.inst) && decide (p.id = o.id) && p.delete

/-- A publication becomes durable: the journal holds its contents, with the places of its extent copies. -/
def makeDurable (p : Pub) (s : State) : State :=
  let s := { s with store := { s.store with pubs := s.store.pubs.erase p } }
  let s := match pubObj s p with
    | none => s
    | some o => modObj o (fun x => p.places.foldl (fun x e => placeCopy x e.1 e.2)
        { x with dur := p.img, durVer := p.img.ver, durExists := !p.delete && !goneForGood s o, wfault := false }) s
  let s := flushDone p.inst p.id p.img.ver s
  match p.slot with
  | some k => if (s.cmd k).any (fun c => decide (c.phase = .durWait) && decide (c.accNo = p.accNo)) then
      (match s.cmd k with
       | some c =>
         if c.isQuery then
           (if s.store.pubs.any (fun x => x.accNo = c.accNo) then s else s.modCmd k fun c => { c with phase := .ended })
         else succeedDone k c.r0 s
       | none => s)
    else s
  | none => s

/-- Deleted objects whose earlier commands have ended and whose delete is durable leave the store (R416). -/
def dropDeleted (s : State) : State :=
  { s with store := { s.store with objs := s.store.objs.filter fun o =>
      !(o.deleted && !o.durExists && !(s.store.pubs.any fun p => decide (p.inst = o.inst) && decide (p.id = o.id)) &&
        !(s.ring.cmds.any fun e => e.2.any fun c => decide (c.inst = o.inst) && decide (c.accNo < o.goneAt) && c.outcome.isNone)) } }

/-! ## The pool and its journal (R402, R403) -/

/-- The healthy SSDs of the pool, ascending. -/
def poolPorts (s : State) : List Nat := (List.range 16).filter (healthy s)

/-- The journal stands on the two lowest-numbered healthy SSDs where it has no place yet. -/
def placeJournal (s : State) : State :=
  let ps := poolPorts s
  match s.store.jour1, s.store.jour2 with
  | none, none => { s with store := { s.store with jour1 := ps[0]?, jour2 := ps[1]? } }
  | some a, none => { s with store := { s.store with jour2 := (ps.filter (· ≠ a)).head? } }
  | none, some b => { s with store := { s.store with jour1 := (ps.filter (· ≠ b)).head? } }
  | _, _ => s

/-- The next healthy SSD after p that holds no journal copy. -/
def journalTarget (p : Nat) (s : State) : Option Nat :=
  let free := (poolPorts s).filter fun x => decide (some x ≠ s.store.jour1) && decide (some x ≠ s.store.jour2)
  (free.filter (p < ·)).head? <|> free.head?

/-- A journal copy is missing. -/
def journalShort (s : State) : Bool := s.store.jour1.isNone || s.store.jour2.isNone

/-- A journal SSD, or the one to which the journal is being copied, has failed: the copy is made on the next healthy SSD, and the
event is logged (R403). A copy that is under way goes on. -/
def moveJournal (p : Nat) (s : State) : State :=
  let st := s.store
  if st.jour1 ≠ some p ∧ st.jour2 ≠ some p ∧ st.jourCopy ≠ some p then s
  else
    let lost := fun (x : Option Nat) => if x = some p then none else x
    let s := { s with store := { st with jour1 := lost st.jour1, jour2 := lost st.jour2, jourCopy := lost st.jourCopy } }
    let x := match s.store.jourCopy with | some y => some y | none => journalTarget p s
    -- with no SSD left to take the copy, the entry names the failed one twice (log 165)
    logEvent 0x0503 0x06 0 (p + 16 * x.getD p) none { s with store := { s.store with jourCopy := x } }

end Sys2Proof.Machine
end

