-- ==== Sys2Proof/Machine/Store.lean ====
section
/-!
DEFINITION. Commands and events of the table store (R402 to R430, R555).
-/

namespace Sys2Proof.Machine

/-! ## Field checks (R413, R414, R417) -/

/-- The fields of STORE_WRITE, STORE_READ and STORE_APPEND. -/
def storeDesc (c : Cmd) : Option Nat :=
  let first := bits (c.param 0) 31 0
  let dev := decide (c.param 1 = 1)
  let lim := if c.opc = 0x11 then 2 ^ 30 else 67108864
  if !reservedOk c ∨ c.len = 0 ∨ lim < c.len ∨ bits (c.param 0) 63 32 ≠ 0 ∨ 1 < c.param 1 ∨ c.word 7 ≠ 0 ∨ c.len < first ∨
      (c.opc = 0x12 ∧ c.addr1 ≠ 0) then some stParam
  else if dev ∧ !c.segs.isEmpty then some stChain
  else if c.segs.isEmpty ∧ first ≠ c.len then some stLength
  else none

/-- The fields of STORE_FLUSH and STORE_TRIM that are zero. -/
def bareDesc (c : Cmd) : Bool :=
  reservedOk c && decide (c.word 2 = 0) && decide (c.word 5 = 0) && decide (c.word 6 = 0) && decide (c.word 7 = 0)

/-- The work of a STORE_ command. -/
def storeRun (c : Cmd) : StoreRun :=
  match c.work with
  | .store r => r
  | _ => .start

/-- Changes the work of a STORE_ command. -/
def modRun (slot : Nat) (f : StoreRun → StoreRun) (s : State) : State :=
  s.modCmd slot fun c => { c with work := .store (f (storeRun c)) }

/-- Sets the phase of a command. -/
def setPhase (slot : Nat) (p : CmdPhase) (s : State) : State := s.modCmd slot fun c => { c with phase := p }

/-! ## Reads (R412, R416) -/

/-- Writes bytes to the pieces of a chain: the first piece, then the segments (R364, R413). -/
def scatter (port : Nat) (c : Cmd) : List (Nat × Nat) → List Byte → State → State
  | [], _, s => s
  | (a, n) :: t, d, s => scatter port c t (d.drop n) (hostWriteFor port c.inst c.accNo a (d.take n) s)

/-- The host pieces of a command. -/
def hostPieces (c : Cmd) : List (Nat × Nat) :=
  (c.addr0, bits (c.param 0) 31 0) :: c.segs.map fun p => (p.1.toNat, p.2.toNat)

/-- A read whose extents are all there delivers its bytes from the snapshot. -/
def finishRead (slot : Nat) (s : State) : State :=
  match s.cmd slot with
  | none => s
  | some c =>
    let d := imgRead (storeRun c).snap c.addr1 c.len
    let s := addCounter c.inst 2 c.len s
    if c.param 1 = 1 then
      match devWriteN c.inst c.addr0 d s with
      | (none, s) => succeed slot (BitVec.ofNat 64 c.len) s
      | (some _, s) => failCmd slot stDenied s
    else
      let s := scatter (s.sq c.inst c.sq).port c (hostPieces c) d s
      succeed slot (BitVec.ofNat 64 c.len) (addCounter c.inst 3 c.len s)

/-- The snapshot of a STORE_READ, and the media reads it needs. -/
def takeRead (slot : Nat) (c : Cmd) (o : StoreObj) (s : State) : State :=
  if o.cur.size < c.addr1 + c.len then failCmd slot stRange s
  else
    let es := extsOf c.addr1 c.len
    let s := setPhase slot .running (modRun slot (fun r => { r with passed := true, snap := o.cur }) s)
    let s := readExtents slot none o o.cur es s
    if readsLeft s slot ∨ (s.cmd slot).any (fun c => c.outcome.isSome) then s else finishRead slot s

/-! ## Publication (R410, R411, R421) -/

/-- What the k-th hidden publication of a command on an object makes of its contents now: what the command itself makes of
them, or, for a query, its output under the next version (R410). -/
def renewedImg (c : Cmd) (o : StoreObj) (k : Nat) (p : Pub) : ObjImage :=
  (effectOf c o.cur).getD (p.img.later (o.cur.ver + 1 + k - p.img.ver))

/-- The hidden publications of a command, each with its object and its contents as they would be made now. -/
def renewals (c : Cmd) (s : State) : List (Pub × StoreObj × ObjImage) :=
  let l := hiddenPubs s c.accNo
  l.zipIdx.filterMap fun x => (pubObj s x.1).map fun o =>
    (x.1, o, renewedImg c o ((l.take x.2).filter fun p => p.id = x.1.id).length x.1)

/-- A hidden publication is made: it takes its place after those made before it. -/
def makePub (p : Pub) (o : StoreObj) (s : State) : State :=
  let s := { s with store := { s.store with pubs := s.store.pubs.erase p ++ [{ p with hidden := false }] } }
  modObj o (fun x => { x with
    cur := p.img, badExts := x.badExts.filter fun e => decide (x.cur.exts.get 0 e = p.img.exts.get 0 e) }) s

/-- The publications with DUR of a command are made together, once the extents of all are on media. Where another publication came
between, the extents are written anew under the next version first. A query's step 3 begins here (R73, R397). -/
def publishHidden (slot : Nat) (s : State) : State :=
  match s.cmd slot with
  | none => s
  | some c =>
    let l := renewals c s
    if l.isEmpty ∨ l.any fun x => !x.1.onMedia then s
    else if l.any fun x => decide (x.2.2 ≠ x.1.img) then
      forEach (fun (x : Pub × StoreObj × ObjImage) s =>
        { s with store := { s.store with pubs := s.store.pubs.map fun q =>
            if q = x.1 then { q with img := x.2.2, todo := newCopies x.2.1 x.2.1.cur x.2.2, places := [] } else q } }) l s
    else
      let s := forEach (fun (x : Pub × StoreObj × ObjImage) s => makePub x.1 x.2.1 s) l s
      if c.isQuery then s.modCmd slot fun c => { c with step3 := true }
      else s.modCmd slot fun c => { c with
        r0 := BitVec.ofNat 64 (publishResult c ((l.head?.map fun x => x.2.1.cur).getD .empty) ((l.head?.map (·.2.2)).getD .empty)),
        work := .store { storeRun c with passed := true } }

/-- The extents that an operation changes only in part (R408, R430). -/
def partExts (c : Cmd) (o : StoreObj) : List Nat :=
  if c.opc = 0x15 then (cutExt o.cur (c.param 1)).toList
  else
    let off := if c.opc = 0x12 then o.cur.size else c.addr1
    (extsOf off c.len).filter fun e => !coversExt off c.len e

/-- Publishes what a command makes of an object, at its ordering point. -/
def doPublish (slot : Nat) (c : Cmd) (o : StoreObj) (s : State) : State :=
  match effectOf c o.cur with
  | none => s
  | some m =>
    if objMax < m.size then failCmd slot stRange s
    else if (partExts c o).any o.badExts.contains then failCmd slot stIntegrity s
    else if overCapacity s o m then failCmd slot stExhausted s
    else
      let fr := (storeRun c).frames
      let s := modRun slot (fun r => { r with frames := 0 }) s
      let s := if c.opc = 0x10 ∨ c.opc = 0x12 then addCounter c.inst 2 c.len s else s
      if c.dur then publishHidden slot (setPhase slot .durWait (publishLater o m c slot fr s))
      else
        let s := publish o m c none fr false (modRun slot (fun r => { r with passed := true }) s)
        succeedDone slot (BitVec.ofNat 64 (publishResult c o.cur m)) s

/-- A STORE_ command at its ordering point goes on when no overlapping predecessor holds it back and the old
extents it needs have been read (R408, R418). -/
def tryStore (slot : Nat) (s : State) : State :=
  match s.cmd slot with
  | none => s
  | some c =>
    if c.phase ≠ .ordering ∨ c.outcome.isSome ∨ readsLeft s slot ∨ orderBlocked s c [c.obj] then s
    else
      match objFor s c.inst c.obj c.accNo with
      | none => failCmd slot stNotFound s
      | some o => if c.opc = 0x11 then takeRead slot c o s else doPublish slot c o s

/-- The old extents that an operation changes in part are read and checked first (R408). -/
def readPartial (slot : Nat) (c : Cmd) (o : StoreObj) (s : State) : State :=
  tryStore slot (readExtents slot none o o.cur (partExts c o) (setPhase slot .ordering s))

/-! ## Staging (R420, R424) -/

/-- The data of a write is in the write cache. -/
def staged (slot : Nat) (c : Cmd) (d : List Byte) (s : State) : State :=
  let s := modRun slot (fun r => { r with data := d, staged := true }) s
  match objFor s c.inst c.obj c.accNo with
  | none => failCmd slot stNotFound s
  | some o => readPartial slot c o s

/-- Status of a device-memory source that cannot be read (R417, R428). -/
def sourceStatus (e : DevErr) : Nat := if e = .poison then stPoisoned else stDenied

/-- Asks the host for every piece of a command's data. -/
def askPieces (slot : Nat) (c : Cmd) (s : State) : State :=
  let p := (s.sq c.inst c.sq).port
  forEach (fun (x : Nat × Nat) s => if x.2 = 0 then s else hostSend p (.read p c.inst x.1 x.2) s) (hostPieces c)
    (setPhase slot .hostRead s)

/-- Stages the data of a write: write-cache space is taken, the source is read. -/
def stage (slot : Nat) (c : Cmd) (s : State) : State :=
  let s := modRun slot (fun r => { r with frames := framesFor c.len }) s
  if c.param 1 = 1 then
    match devReadN c.inst c.addr0 c.len s with
    | (d, none, s) => staged slot c d s
    | (_, some e, s) => failCmd slot (sourceStatus e.1) s
  else askPieces slot c s

/-- The host has delivered the data of a write, or a read has failed. -/
def storeDataRead (slot : Nat) (c : Cmd) (data : Option (List Byte)) (s : State) : State :=
  match data with
  | none => failCmd slot stHost s
  | some d => if d.length ≠ c.len then failCmd slot stHost s else staged slot c d s

/-- A write begins: an object with a write fault refuses DUR (R427), a full write cache makes it wait. -/
def startWrite (slot : Nat) (c : Cmd) (o : StoreObj) (s : State) : State :=
  if c.dur ∧ o.wfault then failCmd slot stMedia s
  else if cacheRoom s c.inst c.len then stage slot c s
  else { setPhase slot .cacheWait s with store := { (setPhase slot .cacheWait s).store with cacheQ := s.store.cacheQ ++ [slot] } }

/-- Runs a STORE_ opcode once the store is mounted (R404): fields, object, range, then its work. While an overlapping command
before it has still to pass its ordering point, its object may yet be created (R418). -/
def onStore (slot opc : Nat) (desc : Cmd → Option Nat) (f : Cmd → StoreObj → State → State) (s : State) : State :=
  if !s.store.mounted then s
  else
    onHanded slot opc (fun c s =>
      match desc c with
      | some st => failCmd slot st s
      | none =>
        match objFor s c.inst c.obj c.accNo with
        | none => if orderBlocked s c [c.obj] then s else failCmd slot stNotFound s
        | some o => if objMax < c.addr1 + c.len then failCmd slot stRange s else f c o s) s

/-- STORE_WRITE. -/
def execStoreWrite (slot : Nat) (s : State) : Host.Outcome State Fault Refusal :=
  .next (onStore slot 0x10 storeDesc (startWrite slot) s)

/-- STORE_APPEND. -/
def execStoreAppend (slot : Nat) (s : State) : Host.Outcome State Fault Refusal :=
  .next (onStore slot 0x12 storeDesc (startWrite slot) s)

/-- STORE_READ. -/
def execStoreRead (slot : Nat) (s : State) : Host.Outcome State Fault Refusal :=
  .next (onStore slot 0x11 storeDesc (fun _ _ s => tryStore slot (setPhase slot .ordering (modRun slot id s))) s)

/-- The fields of STORE_TRIM. -/
def trimDesc (c : Cmd) : Option Nat :=
  if !bareDesc c ∨ c.len = 0 ∨ objMax < c.len then some stParam else none

/-- STORE_TRIM. -/
def execStoreTrim (slot : Nat) (s : State) : Host.Outcome State Fault Refusal :=
  .next (onStore slot 0x14 trimDesc (fun c o s =>
    if c.dur ∧ o.wfault then failCmd slot stMedia s else readPartial slot c o (modRun slot id s)) s)

/-! ## STORE_FLUSH (R423) -/

/-- The publications that a flush waits for: their commands' entries were written before it was accepted. -/
def flushSet (s : State) (c : Cmd) : List (Nat × Nat × Nat) :=
  (s.store.pubs.filter fun p => decide (p.inst = c.inst) && (decide (c.obj = 0) || decide (p.id = c.obj)) && !p.hidden &&
    p.doneAcc.any fun k => decide (k ≤ c.accNo)).map fun p => (p.inst, p.id, p.img.ver)

/-- An object that the flush covers has a write fault (R427). -/
def flushFault (s : State) (c : Cmd) : Bool :=
  s.store.objs.any fun o => decide (o.inst = c.inst) && (decide (c.obj = 0) || decide (o.id = c.obj)) && o.wfault

/-- STORE_FLUSH. -/
def runFlush (slot : Nat) (c : Cmd) (s : State) : State :=
  if !bareDesc c ∨ c.word 3 ≠ 0 ∨ c.word 4 ≠ 0 then failCmd slot stParam s
  else if c.obj ≠ 0 ∧ (objFor s c.inst c.obj c.accNo).isNone then failCmd slot stNotFound s
  else if flushFault s c then failCmd slot stMedia s
  else
    let ps := flushSet s c
    if ps.isEmpty then succeed slot 0 s
    else
      let s := setPhase slot .durWait s
      { s with store := { s.store with flushes := s.store.flushes ++ [(slot, ps)] } }

def execStoreFlush (slot : Nat) (s : State) : Host.Outcome State Fault Refusal :=
  if s.store.mounted then .next (onHanded slot 0x13 (runFlush slot) s) else .next s

/-! ## STORE_ATTR (R414 to R416) -/

/-- AOP of a STORE_ATTR. -/
def Cmd.aop (c : Cmd) : Nat := bits (c.param 0) 7 0

/-- The fields of a STORE_ATTR. -/
def attrDescOk (c : Cmd) : Bool :=
  reservedOk c && decide (c.len = 64) && decide (c.addr0 % 64 = 0) && decide (c.word 4 = 0) && decide (bits (c.param 0) 63 8 = 0) &&
  decide (1 ≤ c.aop) && decide (c.aop ≤ 4) && decide (c.word 7 = 0) && (decide (c.aop = 4) || decide (c.word 6 = 0))

/-- Runs STORE_ATTR of one AOP; an unknown AOP fails whichever row takes it up. -/
def onAttr (slot aop : Nat) (f : Cmd → State → State) (s : State) : State :=
  if !s.store.mounted then s
  else
    onHanded slot 0x15 (fun c s =>
      if !attrDescOk c then failCmd slot stParam s else if c.aop = aop then f c s else s) s

/-- STORE_ATTR CREATE: once no overlapping command stands before it (R418), it reads its record. -/
def runCreate (slot : Nat) (s : State) : State :=
  match s.cmd slot with
  | none => s
  | some c =>
    if c.obj = 0 ∨ c.obj = 0xFFFFFFFF then failCmd slot stParam s
    else if orderBlocked s c [c.obj] then setPhase slot .ordering (modRun slot id s)
    else if (objNow s c.inst c.obj).isSome then failCmd slot stParam s
    else askHost slot c c.addr0 64 s

def execStoreAttrCreate (slot : Nat) (s : State) : Host.Outcome State Fault Refusal :=
  .next (onAttr slot 1 (fun _ s => runCreate slot s) s)

/-- Bits set in STRIPE. -/
def stripeCount (w : BitVec 16) : Nat := ((List.range 16).filter fun p => w.getLsbD p).length

/-- The attribute record of a CREATE is in order (R415, R417). -/
def createOk (s : State) (d : List Byte) : Bool :=
  let w := BitVec.ofNat 16 (leAt d 4 2)
  let k := leAt d 6 1
  zeroAt d 0 4 && zeroAt d 7 57 && decide (stripeCount w ≠ 0) &&
  ((List.range 16).all fun p => !w.getLsbD p || (s.ssd p).pool) &&
  (decide (k = 1) || (decide (k = 2) && decide (2 ≤ stripeCount w)))

/-- The object that CREATE makes; its first publication is version 1 (log 56). -/
def newObj (i id : Nat) (d : List Byte) : StoreObj :=
  { inst := i, id := id, stripe := BitVec.ofNat 16 (leAt d 4 2), copies := leAt d 6 1, cur := .empty, dur := .empty,
    durVer := 0, created := true, durExists := false, wfault := false, deleted := false, goneAt := 0, badExts := [] }

/-- A change of the set of objects or of SIZE is published; with DUR its command waits for durability. -/
def publishAttr (slot : Nat) (c : Cmd) (o : StoreObj) (m : ObjImage) (del : Bool) (s : State) : State :=
  let s := publish o m c (if c.dur then some slot else none) 0 del (modRun slot (fun r => { r with passed := true }) s)
  let r : W64 := if del then 0 else BitVec.ofNat 64 m.ver
  if c.dur then s.modCmd slot fun c => { c with phase := .durWait, r0 := r } else succeedDone slot r s

/-- The record of a CREATE has been read. -/
def createRead (slot : Nat) (c : Cmd) (data : Option (List Byte)) (s : State) : State :=
  match data with
  | none => failCmd slot stHost s
  | some d =>
    if d.length ≠ 64 then failCmd slot stHost s
    else if !createOk s d ∨ (objNow s c.inst c.obj).isSome then failCmd slot stParam s
    else if 65536 ≤ (s.store.objs.filter fun o => decide (o.inst = c.inst) && !o.deleted).length ∨
        1048576 ≤ s.store.objs.length then failCmd slot stExhausted s
    else
      let o := newObj c.inst c.obj d
      let s := { s with store := { s.store with objs := s.store.objs ++ [o] } }
      publishAttr slot c o { ObjImage.empty with ver := 1 } false s

/-- STORE_ATTR DELETE: the ID is unusable at once. -/
def runDelete (slot : Nat) (s : State) : State :=
  match s.cmd slot with
  | none => s
  | some c =>
    match objNow s c.inst c.obj, orderBlocked s c [c.obj] with
    | _, true => setPhase slot .ordering (modRun slot id s)
    | none, false => failCmd slot stNotFound s
    | some o, false =>
      if c.dur ∧ o.wfault then failCmd slot stMedia s
      else publishAttr slot c o { size := 0, ver := o.cur.ver + 1, bytes := [], exts := [] } true s

def execStoreAttrDelete (slot : Nat) (s : State) : Host.Outcome State Fault Refusal :=
  .next (onAttr slot 2 (fun _ s => runDelete slot s) s)

/-- The attribute record (R415). -/
def attrRecord (s : State) (o : StoreObj) : List Byte :=
  leBytes o.id 4 ++ leBytes o.stripe.toNat 2 ++ leBytes o.copies 1 ++ zeros 1 ++ leBytes o.cur.size 8 ++
  leBytes (objCopies s o o.cur) 8 ++ leBytes o.cur.ver 8 ++ leBytes o.durVer 8 ++ zeros 24

/-- STORE_ATTR GET. -/
def runGet (slot : Nat) (s : State) : State :=
  match s.cmd slot with
  | none => s
  | some c =>
    match objFor s c.inst c.obj c.accNo with
    | none => failCmd slot stNotFound s
    | some o =>
      if orderBlocked s c [c.obj] then setPhase slot .ordering (modRun slot id s)
      else
        let s := hostWriteFor (s.sq c.inst c.sq).port c.inst c.accNo c.addr0 (attrRecord s o) s
        succeed slot (BitVec.ofNat 64 o.cur.ver) (addCounter c.inst 3 64 s)

def execStoreAttrGet (slot : Nat) (s : State) : Host.Outcome State Fault Refusal :=
  .next (onAttr slot 3 (fun _ s => runGet slot s) s)

/-- STORE_ATTR RESIZE. -/
def execStoreAttrResize (slot : Nat) (s : State) : Host.Outcome State Fault Refusal :=
  .next (onAttr slot 4 (fun c s =>
    match objFor s c.inst c.obj c.accNo with
    | none => if orderBlocked s c [c.obj] then s else failCmd slot stNotFound s
    | some o =>
      if objMax < c.param 1 then failCmd slot stRange s
      else if c.dur ∧ o.wfault then failCmd slot stMedia s
      else readPartial slot c o (modRun slot id s)) s)

/-- What the end of an ordering wait does for a STORE_ command (R418). -/
def storeOrdered (slot : Nat) (c : Cmd) (s : State) : State :=
  if c.opc = 0x15 ∧ c.aop = 1 then (if orderBlocked s c [c.obj] then s else runCreate slot s)
  else if c.opc = 0x15 ∧ c.aop = 2 then (if orderBlocked s c [c.obj] then s else runDelete slot s)
  else if c.opc = 0x15 ∧ c.aop = 3 then (if orderBlocked s c [c.obj] then s else runGet slot s)
  else tryStore slot s

/-! ## NVMe (R425 to R427, R430) -/

/-- The publication that an extent write serves. -/
def nvmePub (s : State) (n : Nvme) : Option Pub :=
  s.store.pubs.find? fun p => decide (p.accNo = n.acc) && decide (p.inst = n.inst) && decide (p.id = n.obj) && decide (p.img.ver = n.ver)

/-- A QUERY with DUR whose STORE output finds no SSD ends with MEDIA_ERROR after its commit point: what is not yet
published stays unpublished, and its headers become INVALID (R73, R427; log 80). -/
def loseQuery (slot : Nat) (c : Cmd) (r0 : W64) (s : State) : State :=
  let s := { s with store := { s.store with pubs := s.store.pubs.filter fun p => !(p.hidden && decide (p.accNo = c.accNo)) } }
  s.modCmd slot fun c => { c with outcome := some stMedia, r0 := r0, phase := .running }

/-- No healthy SSD takes an extent of a publication: its command fails and publishes nothing, or a background
destage leaves it in the write cache (R427). -/
def writeLost (p : Pub) (ext : Nat) (s : State) : State :=
  match p.hidden, p.slot with
  | true, some k =>
    match s.cmd k with
    | some c =>
      if c.isQuery then loseQuery k c (p.blame.getD ext noItemR0) s else failCmd k stMedia { s with store := { s.store with pubs := s.store.pubs.erase p } }
    | none => { s with store := { s.store with pubs := s.store.pubs.erase p } }
  | _, _ =>
    match pubObj s p with
    | none => s
    | some o =>
      if o.wfault then s
      else logEvent 0x0505 0x06 p.inst p.id none (modObj o (fun x => { x with wfault := true }) s)

/-- An extent write failed: placed again on the next healthy SSD of the stripe set, at most twice. -/
def rePlace (n : Nvme) (s : State) : State :=
  let s := dropNvme n s
  match nvmePub s n with
  | none => s
  | some p =>
    match pubObj s p with
    | none => s
    | some o =>
      match nextHealthy s o n.port with
      | some x => if n.place < 2 then sendNvme { n with port := x, tries := 0, place := n.place + 1 } s else writeLost p (n.ext / 2) s
      | none => writeLost p (n.ext / 2) s

/-- An NVMe command that its SSD will not complete. -/
def giveUp (n : Nvme) (s : State) : State :=
  match n.kind with
  | .extRead => readLost n stMedia s
  | .extWrite => rePlace n s
  | .rewrite => dropNvme n s

/-- An SSD becomes FAILED: logged with port and LBA (the place of an extent on an SSD is the firmware's, so the
LBA is free), its commands go elsewhere, and a journal copy on it moves (R403, R425). -/
def failSsd (p : Nat) (s : State) : State :=
  if (s.ssd p).failed then s
  else
    let r := s.freshNat
    let s := r.2.setSsd p { r.2.ssd p with failed := true }
    let s := logEvent 0x0502 0x06 0 (r.1 % 2 ^ 32) (some (r.1 / 2 ^ 32 % 2 ^ 16 + 2 ^ 16 * p)) s
    let s := moveJournal p s
    forEach giveUp (s.store.nvme.filter fun n => n.port = p) s

/-- An NVMe command ends with an error status: tried twice more, then given up; three in a row make the SSD
FAILED (R425). -/
def nvmeError (n : Nvme) (s : State) : State :=
  if n.tries < 2 then
    { s with store := { s.store with nvme := s.store.nvme.map fun x =>
        if x.id = n.id then { x with tries := n.tries + 1, sentAt := s.time } else x } }
  else
    let k := (s.ssd n.port).failCount + 1
    let s := s.setSsd n.port { s.ssd n.port with failCount := k }
    if 3 ≤ k then failSsd n.port s else giveUp n s

/-- What goes on when the last media read of a command has passed, for the STORE_ opcodes. -/
def storeReadsDone (slot : Nat) (c : Cmd) (s : State) : State :=
  if c.opc = 0x11 ∧ c.phase = .running then finishRead slot s else tryStore slot s

/-- Puts the bytes of a checked extent into the snapshot of the command that reads it. -/
def fillSnap (slot obj e : Nat) (d : List Byte) (s : State) : State :=
  let put := fun (m : ObjImage) => { m with bytes := Tbl.write 0 m.bytes (e * extSize) (d.take extSize) }
  s.modCmd slot fun c =>
    match c.work with
    | .store r => { c with work := .store { r with snap := put r.snap } }
    | .digest r => { c with work := .digest { r with snap := put r.snap } }
    | .query q => { c with work := .query { q with inputs := q.inputs.map fun x =>
        if x.kind = 2 ∧ x.tid = obj then { x with snap := put x.snap } else x } }
    | _ => c

/-- A good second copy rewrites the bad first one in a new place, with what was read (R426). -/
def healCopy (n : Nvme) (o : StoreObj) (d : List Byte) (s : State) : State :=
  if !n.heal then s
  else
    match writePort s o n.ext 0 with
    | some p => sendNvme { n with
        port := p, kind := .rewrite, ext := 2 * n.ext, tries := 0, place := 0, slot := none, r0 := none, heal := false, data := d } s
    | none => s

/-- A bad copy has been written anew: the object's map names its new place, if the extent is still the same. -/
def healed (n : Nvme) (s : State) : State :=
  match nvmeObj s n with
  | none => s
  | some o => if o.dur.exts.get 0 (n.ext / 2) = n.ver + 1 then modObj o (fun x => placeCopy x n.ext n.port) s else s

/-- NVME_COMPLETION: an error is retried; a write of a publication that succeeds brings it closer to media. -/
def execNvmeCompletion (id : Nat) (ok : Bool) (s : State) : Host.Outcome State Fault Refusal :=
  match s.store.nvme.find? fun n => n.id = id with
  | none => .next s
  | some n =>
    if !ok then .next (nvmeError n s)
    else
      let s := s.setSsd n.port { s.ssd n.port with failCount := 0 }
      match n.kind with
      | .extRead => .next s
      | .rewrite => .next (healed n (dropNvme n s))
      | .extWrite =>
        let s := dropNvme n s
        match nvmePub s n with
        | none => .next s
        | some p =>
          let q := { p with todo := p.todo.erase n.ext, places := p.places.filter (fun e => e.1 ≠ n.ext) ++ [(n.ext, n.port)] }
          let s := { s with store := { s.store with pubs := s.store.pubs.map fun x => if x = p then q else x } }
          match q.hidden, q.slot with
          | true, some k => .next (publishHidden k s)
          | _, _ => .next s

/-- NVME_TIMEOUT: a command not completed within 2 s makes the SSD FAILED; one on an SSD that has FAILED is given up. -/
def execNvmeTimeout (id : Nat) (s : State) : Host.Outcome State Fault Refusal :=
  match s.store.nvme.find? fun n => n.id = id with
  | none => .next s
  | some n =>
    if s.time < n.sentAt + 2000000000 then .next s
    else if (s.ssd n.port).failed then .next (giveUp n s)
    else .next (failSsd n.port s)

/-! ## Destage and journal (R403, R422, R424) -/

/-- Writes one extent copy of a publication. -/
def destageOne (p : Pub) (o : StoreObj) (k : Nat) (s : State) : State :=
  match writePort s o (k / 2) (k % 2) with
  | none => writeLost p (k / 2) s
  | some port =>
    sendNvme { id := 0, port := port, kind := .extWrite, inst := p.inst, obj := p.id, ext := k, ver := p.img.ver, tries := 0,
               place := 0, slot := if p.hidden then p.slot else none, sentAt := 0, acc := p.accNo,
               data := extentBlocks o p.img (k / 2) } s

/-- DESTAGE: the oldest publication whose extents are neither on media nor on their way is written, with FUA.
Nothing is sent for an instance in a fence (R429). -/
def execDestage (s : State) : Host.Outcome State Fault Refusal :=
  let wanted := fun (p : Pub) => !p.onMedia && !inFence s p.inst &&
    !(s.store.nvme.any fun n => decide (n.kind = .extWrite) && decide (n.acc = p.accNo) && decide (n.inst = p.inst) &&
      decide (n.obj = p.id) && decide (n.ver = p.img.ver))
  match s.store.mounted, s.store.pubs.find? wanted with
  | true, some p =>
    match pubObj s p with
    | none => .next s
    | some o => .next (forEach (destageOne p o) p.todo s)
  | _, _ => .next s

/-- JOURNAL_COMMIT: a commit record reaches the journal copies in use and covers, of each object, the
publications whose extents are on media. A write cache made clean for PS2 lets the entry begin (R432). -/
def execJournalCommit (s : State) : Host.Outcome State Fault Refusal :=
  if !s.store.mounted ∨ (s.store.jour1.isNone ∧ s.store.jour2.isNone) then .next s
  else
    let s := dropDeleted (forEach makeDurable (coverable s.store.pubs) s)
    if s.pwr.destaging ∧ s.store.pubs.isEmpty ∧ moduleIdle s then .next (enterPs 2 s) else .next s

/-- JOURNAL_COPY_DONE: the SSD holds a copy of the journal; where the other copy is missing too, it is made next. -/
def execJournalCopyDone (s : State) : Host.Outcome State Fault Refusal :=
  match s.store.jourCopy with
  | none => .next s
  | some x =>
    let st := s.store
    let st := if st.jour1.isNone then { st with jour1 := some x } else { st with jour2 := some x }
    let s := { s with store := { st with jourCopy := none } }
    .next (if journalShort s then { s with store := { s.store with jourCopy := journalTarget x s } } else s)

/-- What firmware makes of an SSD it finds at start (R402). -/
def takeSsd (x : SsdFound) (s : State) : State :=
  if 16 ≤ x.port then s
  else
    let ok := x.formatOk && x.label
    let d : Ssd := {
      present := true, formatOk := x.formatOk, label := x.label, blank := x.blank, pool := ok, failed := false, failCount := 0,
      extents := x.extents }
    let s := s.setSsd x.port d
    if ok then s else logEvent 0x0501 0x06 0 x.port none s

/-- STORE_MOUNT: the labels are read, the journal replayed, the store mounted. -/
def execStoreMount (found : List SsdFound) (s : State) : Host.Outcome State Fault Refusal :=
  if s.store.mounted ∨ !s.pads.booted then .next s
  else
    let s := placeJournal (forEach takeSsd found s)
    .next { s with store := { s.store with mounted := true } }

/-- ADMIT_SSD: a blank SSD that meets R402 is labelled and taken into the pool (R555). -/
def execAdmitSsd (fn : Nat) (found : SsdFound) (s : State) : Host.Outcome State Fault Refusal :=
  .next (onMbxSub fn 0x70 3 { pfOnly := true, targeted := false, named := [(0x08, 1), (0x09, 1)] } (fun m s =>
    let p := m.arg 9 1
    if 15 < p then mbxBad fn 9 s
    else if (s.ssd p).pool ∨ found.port ≠ p ∨ !found.formatOk ∨ !found.blank then mbxErr fn meState s
    else
      let d : Ssd := {
        present := true, formatOk := true, label := true, blank := false, pool := true, failed := false, failCount := 0,
        extents := found.extents }
      mbxOk fn (placeJournal (s.setSsd p d))) s)

end Sys2Proof.Machine
end

