-- ==== Sys2Proof/Machine/DigestOps.lean ====
section
/-!
DEFINITION. Digest contexts (R312 to R323), lanes (R324 to R326), and what a cleared or finished message does for
its requester (R328).
-/

namespace Sys2Proof.Machine

/-! ## Contexts -/

/-- A port access of instance `acc` reaches a context of its own; any other writes nothing and is logged
(R313). -/
def onPort (u k acc : Nat) (f : Ctx → State → State) (s : State) : State :=
  let x := s.ctx u k
  if 4 ≤ u ∨ 64 ≤ k ∨ x.st = .free then s
  else if x.inst ≠ acc then logEvent 0x0404 (0x30 + u) acc k none s
  else f x s

/-! ## Starting and feeding -/

/-- A setting of DIG_CFG out of range (R311, R312, R314). -/
def badCfg (func o keylen custlen cmplen len : Nat) : Bool :=
  match outLength func o with
  | none => true
  | some n => decide (128 < keylen) || decide (64 < custlen) || decide (n < cmplen) || decide (2 ^ 61 ≤ len)

/-- START with its settings (R315, R319). -/
def startCtx (u k : Nat) (func o keylen custlen cmplen len : Nat) (key cust expect : List Byte) (s : State) : State :=
  let x := s.ctx u k
  if x.st = .active ∨ x.st = .failed then failCtx u k dtOrder s
  else if badCfg func o keylen custlen cmplen len then failCtx u k dtBadCfg s
  else
    s.setCtx u k { blankCtx x with
      st := .active, func := func, outlen := (outLength func o).getD 0, keylen := keylen, custlen := custlen,
      cmplen := cmplen, len := len, regs := x.regs, key := key.take keylen, cust := cust.take custlen, expect := expect }

/-- The bytes delivered so far: those that a lane has taken, and those that wait (R317). -/
def Ctx.fed (x : Ctx) : List Byte := x.msg ++ x.inbuf ++ x.held

/-- Delivers message bytes; the last of them when `fin` (R317, R319). What the buffer cannot take is held back (R315). -/
def feedCtx (u k : Nat) (d : List Byte) (fin : Bool) (s : State) : State :=
  let x := s.ctx u k
  let n := x.fed.length + d.length
  if x.st ≠ .active then failCtx u k dtOrder s
  else if x.len < n ∨ (fin ∧ n ≠ x.len) then failCtx u k dtLength s
  else if x.last then failCtx u k dtOrder s
  else
    let free := if x.held.isEmpty then 512 - x.inbuf.length else 0
    s.setCtx u k { x with inbuf := x.inbuf ++ d.take free, held := x.held ++ d.drop free, last := fin }

/-- The output of a finished message and the outcome of its comparison (R318, R321, R322). -/
def ctxOutput (x : Ctx) : List Byte := digestOf x.func x.outlen x.key x.cust x.msg

/-- CMP: bit 0 from the comparator of the output, bit 1 from that of the inverted output. -/
def cmpOf (out expect : List Byte) (n : Nat) : BitVec 2 :=
  let a := decide (out.take n = expect.take n)
  let b := decide ((out.take n).map (fun x => ~~~x) ≠ (expect.take n).map fun x => ~~~x)
  BitVec.ofNat 2 ((if a then 1 else 0) + (if b then 2 else 0))

/-- What CMP reads when a fault upsets one of the two comparators: `some false` the first, `some true` the second. -/
def upsetCmp (g : Option Bool) (c : BitVec 2) : BitVec 2 :=
  match g with
  | none => c
  | some false => c ^^^ 1
  | some true => c ^^^ 2

/-- The detail of a comparison that does not read 0b01 (R320, R322). -/
def cmpDetail (c : BitVec 2) : Nat := if c = 2 then dtMismatch else dtCmpFault

/-! ## STRICT weights (R280, R326) -/

/-- The STRICT weights of the instances that exist. -/
def strictWs (s : State) : List (Nat × Nat) := s.insts.map fun e => (e.1, weightOf s e.1 3)

/-! ## Lanes (R324 to R326) -/

/-- A message is on a lane. -/
def onLane (s : State) (u k : Nat) : Bool :=
  (s.dgu u).lanes.any fun e => match e.2 with | some (y, _) => decide (y = k) | none => false

/-- Lanes of a unit that hold a message of an instance. -/
def lanesHeld (s : State) (u i : Nat) : Nat :=
  ((s.dgu u).lanes.filter fun e => match e.2 with | some (k, _) => decide ((s.ctx u k).inst = i) | none => false).length

/-- The DGU weight of an instance under the profile in force. -/
def dguWeight (s : State) (i : Nat) : Nat := weightOf s i s.disp.profile.toNat

/-- Instances with waiting or running work on a unit. -/
def dguBusy (s : State) (u : Nat) : List Nat :=
  let run := (s.dgu u).lanes.filterMap fun e => e.2.map (·.1)
  ((run ++ (s.dgu u).waiting).map fun k => (s.ctx u k).inst).eraseDups

/-- The lane share of an instance. -/
def laneShare (s : State) (u i : Nat) : Nat :=
  let w := dguWeight s i
  let sum := ((dguBusy s u).map (dguWeight s)).sum
  if w = 0 then 0 else max 1 (16 * w / (max 1 sum))

/-- The lowest free lane. -/
def freeLane (s : State) (u : Nat) : Option Nat :=
  (List.range 16).find? fun l => ((s.dgu u).lanes.get none l).isNone

/-- Adds to a per-instance counter of a unit: 0 bytes, 1 messages, 2 mismatches (R330). -/
def addDgu (u i k n : Nat) (s : State) : State :=
  let x := s.dgu u
  s.setDgu u { x with instCnt := x.instCnt.set 0 (4 * i + k) (x.instCnt.get 0 (4 * i + k) + BitVec.ofNat 64 n) }

/-- Counts message bytes that a unit processes, whatever becomes of the message (R330). -/
def countBytes (u i n : Nat) (s : State) : State :=
  addDgu u i 0 n (s.setDgu u { s.dgu u with bytes := (s.dgu u).bytes + BitVec.ofNat 64 n })

/-- A message takes the words that wait for it; one that has more to come then needs no lane (R316, R324). Their time on the lane
is not counted (log 118). -/
def runWords (u k : Nat) (s : State) : State :=
  let x := s.ctx u k
  let s := countBytes u x.inst (x.inbuf.length + x.held.length) (s.setCtx u k { x with msg := x.fed, inbuf := [], held := [] })
  if x.last then s else leaveLane u k s

/-- Puts a message on a lane. -/
def takeLane (u k l : Nat) (s : State) : State :=
  let d := s.dgu u
  runWords u k (s.setDgu u { d with lanes := d.lanes.set none l (some (k, s.time)), waiting := d.waiting.filter (· ≠ k) })

/-- The lane to preempt for an instance below its share: of those above theirs, the one whose message has run
longest since it last started. -/
def victimLane (s : State) (u : Nat) : Option (Nat × Nat) :=
  let cand := (s.dgu u).lanes.filterMap fun e =>
    match e.2 with
    | some (k, t) =>
      if laneShare s u (s.ctx u k).inst < lanesHeld s u (s.ctx u k).inst then some (t, e.1, k) else none
    | none => none
  (sortOn (fun (x : Nat × Nat × Nat) => x.1) cand).head?.map fun x => (x.2.1, x.2.2)

/-- The lane time of a message's present run counts against its instance (R289). -/
def chargeLane (u k : Nat) (s : State) : State :=
  match (s.dgu u).lanes.findSome? fun e => e.2.bind fun y => if y.1 = k then some y.2 else none with
  | none => s
  | some t => chargeWork 2 (s.ctx u k).inst (s.time - t) s

/-- A message preempts a lane: the other one waits at the head of its instance's messages, and the preemption counts (R325). -/
def preemptLane (u k l v : Nat) (s : State) : State :=
  let s := chargeLane u v s
  let d := s.dgu u
  let s := s.setDgu u { d with lanes := d.lanes.set none l none, waiting := v :: d.waiting.filter (· ≠ v), preempt := d.preempt + 1 }
  takeLane u k l s

/-- The lane that a waiting message may have now (R324, R326): only the first of its instance takes one; in STRICT a free lane in a
quantum of its instance; otherwise a free lane, or one preempted under the shares. -/
def serveLane (u k : Nat) (s : State) : State :=
  let d := s.dgu u
  let i := (s.ctx u k).inst
  if d.fault ∨ d.waiting.find? (fun j => (s.ctx u j).inst = i) ≠ some k then s
  else if d.strict then
    if quantumOwner (strictWs s) 16 d.quantum = some i then
      (match freeLane s u with | some l => takeLane u k l s | none => s)
    else s
  else
    match freeLane s u with
    | some l => takeLane u k l s
    | none =>
      if laneShare s u i ≤ lanesHeld s u i then s
      else
        match victimLane s u with
        | none => s
        | some (l, v) => preemptLane u k l v s

/-- A message with words to process joins the messages that wait, and takes a lane if it may. -/
def wantLane (u k : Nat) (s : State) : State :=
  if (s.ctx u k).st ≠ .active then s
  else if onLane s u k then runWords u k s
  else
    let d := s.dgu u
    serveLane u k (if d.waiting.contains k then s else s.setDgu u { d with waiting := d.waiting ++ [k] })

/-! ## DIGEST and DIGEST_VERIFY (R327 to R329) -/

/-- The work of a digest command. -/
def digestRun (c : Cmd) : DigestRun :=
  match c.work with
  | .digest r => r
  | _ => .start

/-- Changes the work of a digest command. -/
def modDigest (slot : Nat) (f : DigestRun → DigestRun) (s : State) : State :=
  s.modCmd slot fun c => { c with work := .digest (f (digestRun c)) }

/-- A digest command fails with a status of its unit: RESULT1 [15:8] holds the detail, unless its outcome is fixed already (R328,
R393). -/
def failDigest (slot st dt : Nat) (s : State) : State :=
  failCmd slot st (s.modCmd slot fun c => if c.outcome.isSome then c else { c with r1 := c.r1 ||| BitVec.ofNat 32 (256 * dt) })

/-- The status that a requester reports for a failed message of its own (R317, R323, R328). -/
def ctxStatus (dt : Nat) : Nat := if dt = dtBadCfg then stParam else if dt = dtCleared then stEngine else stIntegrity

/-- A message that has failed or ended tells its requester: a command fails with the unit's detail, an item
fails with the status. -/
def reportCtx (x : Ctx) (st dt : Nat) (s : State) : State :=
  match x.slot, x.frond with
  | some k, _ => failDigest k st dt s
  | none, some f => if (s.frond f).item.isSome then failItem f st s else s
  | none, none => s

/-- The pipeline of an item has a VERIFY. -/
def verifies (s : State) (it : ItemRef) : Bool :=
  match workOf s it.slot with
  | .query q => q.plan.ops.any fun o => decide (o.pipe = it.pipe) && (match o.args with | .verify _ => true | _ => false)
  | _ => false

/-- A digest that a unit computes for a VERIFY does not pass: the item fails with INTEGRITY_MISMATCH at the VERIFY. Whether an item
has one on this unit just then is open (R139, R322; log 24). -/
def failVerifies (s : State) : State :=
  forBelow (fun f s =>
    match (s.frond f).item with
    | none => s
    | some it =>
      if !verifies s it then s
      else
        let r := s.freshNat
        if r.1 % 2 = 0 then r.2 else recordFailure it.slot stIntegrity (itemR0 r.2 it 1) r.2) 128 s

/-- The alarm of the root of trust or a unit's own fault clears every context of a unit: ENGINE_FAULT, unless its requester has been
told of a failure before (R323). -/
def alarmCtxs (u : Nat) (s : State) : State :=
  failVerifies (forCtxs (fun _ => true) (fun u k s =>
    let x := s.ctx u k
    let s := clearCtx u k s
    if x.st = .failed then s else reportCtx x stEngine dtCleared s) u s)

/-- An SPDM ERROR response: code 0x7F with its error code and error data (R538, R541). -/
def spdmError (tr err data : Nat) (s : State) : State :=
  { s with out := { s.out with bus := s.out.bus ++
      [{ transport := tr, code := 0x7F, data := [0x13, 0x7F, BitVec.ofNat 8 err, BitVec.ofNat 8 data] }] } }

/-- A token attempt ends, and SEC_NONCE is renewed (R545). -/
def endToken (st : MbxState) (err : Nat) (s : State) : State :=
  let x := s.sec
  { s with sec := { x with tokenSt := st, tokenErr := BitVec.ofNat 8 err, nonceNo := x.nonceNo + 1 } }

/-- Signatures in progress and pending SLH-DSA signatures are discarded (R547). -/
def dropSigning (s : State) : State :=
  let conns := s.sec.spdm.map fun e => (e.1, { e.2 with pendChal := none, pendMeas := none })
  { s with sec := { s.sec with signQ := [], spdm := conns } }

/-- An alarm reaches a digest unit: its contexts are cleared, and it logs the event (R323, R477). -/
def alarmUnit (sensor u : Nat) (s : State) : State :=
  let s := alarmCtxs u s
  logEvent 0x0405 (0x30 + u) 0 sensor none (s.setDgu u { s.dgu u with alarm := true })

/-- A sensor alarm of the root of trust (R323, R547): contexts of every digest unit are cleared, verifications and
signatures in progress are discarded (a signed SPDM request is answered with ERROR Unspecified), a token attempt ends
with ALARM, and the alarm is logged. -/
def rotAlarm (sensor : Nat) (s : State) : State :=
  let s := forEach (fun (q : SignJob) s => spdmError q.transport 0x05 0 s) s.sec.signQ s
  let s := dropSigning s
  let s := if s.sec.tokenSt = .busy then endToken .error 0x13 s else s
  forBelow (alarmUnit sensor) 4 s

end Sys2Proof.Machine
end

