-- ==== Sys2Proof/Machine/Digest.lean ====
section
/-!
DEFINITION. Commands and events of the digest units (R311 to R330), the extent reads that a DIGEST or a STORE_
command waits for (R408), and root-of-trust alarms (R547).
-/

namespace Sys2Proof.Machine

/-! ## DIGEST and DIGEST_VERIFY (R327, R328) -/

/-- FUNC, SRC and OUTLEN of PARAM0. -/
def Cmd.dFunc (c : Cmd) : Nat := bits (c.param 0) 7 0
def Cmd.dSrc (c : Cmd) : Nat := bits (c.param 0) 9 8
def Cmd.dOut (c : Cmd) : Nat := bits (c.param 0) 23 16

/-- The field checks of a digest command. -/
def digestDesc (c : Cmd) : Option Nat :=
  if !reservedOk c ∨ (outLength c.dFunc c.dOut).isNone ∨ 2 < c.dSrc ∨ bits (c.param 0) 15 10 ≠ 0 ∨ bits (c.param 0) 63 24 ≠ 0 ∨ c.word 7 ≠ 0 ∨
      2 ^ 48 < c.len ∨ (c.dSrc ≠ 2 ∧ c.obj ≠ 0) ∨ (c.opc = 0x20 ∧ c.addr1 % 8 ≠ 0) ∨ c.param 1 % 8 ≠ 0 ∨
      (keyed c.dFunc ∧ c.param 1 = 0) ∨ (!keyed c.dFunc ∧ c.param 1 ≠ 0) ∨ (!c.segs.isEmpty ∧ c.dSrc = 0 ∧ c.addr0 ≠ 0) then
    some stParam
  else if c.dSrc ≠ 0 ∧ !c.segs.isEmpty then some stChain
  else none

/-- The pieces of a HOST message: the one piece of a single entry, or the segments of a chain. -/
def messagePieces (c : Cmd) : List (Nat × Nat) :=
  if c.segs.isEmpty then [(c.addr0, c.len)] else c.segs.map fun p => (p.1.toNat, p.2.toNat)

/-- The command asks for a context: it waits on its DGU ready list (R285, R313). -/
def openDigest (slot : Nat) (s : State) : State :=
  let s := addCursor slot 0 .digOpen 2 (dropCursor slot 0 .digOpen (setPhase slot .running s))
  { s with eng := { s.eng with digOpens := s.eng.digOpens.filter (· ≠ slot) ++ [slot] } }

/-- The next read that the command needs before its message: key record, then expected digest (R327). -/
def digestNext (slot : Nat) (s : State) : State :=
  match s.cmd slot with
  | none => s
  | some c =>
    let r := digestRun c
    if keyed c.dFunc ∧ r.key.isEmpty then askHost slot c (c.param 1) 200 s
    else if c.opc = 0x21 ∧ r.expected.isEmpty then askHost slot c c.addr1 ((outLength c.dFunc c.dOut).getD 0) s
    else openDigest slot s

/-- A STORE source takes its snapshot when its ordering wait has ended (R412, R418); then the key record is
read. -/
def tryDigest (slot : Nat) (s : State) : State :=
  match s.cmd slot with
  | none => s
  | some c =>
    if c.phase ≠ .ordering ∨ c.outcome.isSome ∨ orderBlocked s c [c.obj] then s
    else
      match objFor s c.inst c.obj c.accNo with
      | none => failCmd slot stNotFound s
      | some o =>
        if o.cur.size < c.addr0 + c.len then failCmd slot stRange s
        else digestNext slot (modDigest slot (fun r => { r with snap := o.cur, passed := true }) s)

/-- The work of a digest command at its hand-on. -/
def runDigest (slot : Nat) (c : Cmd) (s : State) : State :=
  match digestDesc c with
  | some st => failCmd slot st s
  | none =>
    let s := modDigest slot id s
    if c.dSrc = 2 then
      (if s.store.mounted then tryDigest slot (setPhase slot .ordering s) else setPhase slot .handed s)
    else digestNext slot s

/-- DIGEST. -/
def execDigest (slot : Nat) (s : State) : Host.Outcome State Fault Refusal :=
  .next (onHanded slot 0x20 (runDigest slot) s)

/-- DIGEST_VERIFY. -/
def execDigestVerify (slot : Nat) (s : State) : Host.Outcome State Fault Refusal :=
  .next (onHanded slot 0x21 (runDigest slot) s)

/-- The key record is in order: lengths in range, reserved bytes zero (R327, R312). -/
def keyRecordOk (d : List Byte) : Bool := decide (leAt d 0 2 ≤ 128) && decide (leAt d 2 1 ≤ 64) && zeroAt d 3 5

/-- The whole message is delivered to the command's context, with DIG_LAST (R315). A context that fails ends the
command. -/
def deliver (slot u k : Nat) (d : List Byte) (s : State) : State :=
  let s := wantLane u k (feedCtx u k d true s)
  let x := s.ctx u k
  if x.st = .failed then failDigest slot (ctxStatus x.detail) x.detail s else s

/-- The feed of a message fails: its context is cleared and the command ends with the read's status (R323). -/
def feedLost (slot st : Nat) (s : State) : State :=
  match (s.cmd slot).map digestRun with
  | some { ctx := some (u, k), .. } => failDigest slot st 0 (clearLogged u k s)
  | _ => failDigest slot st 0 s

/-- The bytes of a STORE source are all there. -/
def storeFeed (slot : Nat) (s : State) : State :=
  match s.cmd slot with
  | none => s
  | some c =>
    match (digestRun c).ctx with
    | none => s
    | some (u, k) => deliver slot u k (imgRead (digestRun c).snap c.addr0 c.len) (addCounter c.inst 2 c.len s)

/-- The message is read once its context is open. -/
def readMessage (slot u k : Nat) (c : Cmd) (s : State) : State :=
  if c.len = 0 then deliver slot u k [] s
  else if c.dSrc = 0 then
    let p := (s.sq c.inst c.sq).port
    forEach (fun (x : Nat × Nat) s => hostSend p (.read p c.inst x.1 x.2) s) (messagePieces c) (setPhase slot .hostRead s)
  else if c.dSrc = 1 then
    match devReadN c.inst c.addr0 c.len s with
    | (d, none, s) => deliver slot u k d s
    | (_, some e, s) => feedLost slot (sourceStatus e.1) s
  else
    let r := digestRun c
    match objFor s c.inst c.obj c.accNo with
    | none => feedLost slot stNotFound s
    | some o =>
      let s := readExtents slot none o r.snap (extsOf c.addr0 c.len) s
      if readsLeft s slot ∨ (s.cmd slot).any (fun c => c.outcome.isSome) then s else storeFeed slot s

/-- The context of a command is open: START with the command's settings, then the message (R315, R328).
DIGEST_VERIFY compares all OUTLEN bytes. -/
def startDigest (slot u k : Nat) (s : State) : State :=
  match s.cmd slot with
  | none => s
  | some c =>
    let r := digestRun c
    let n := (outLength c.dFunc c.dOut).getD 0
    let s := modDigest slot (fun r => { r with ctx := some (u, k) }) s
    let s := startCtx u k c.dFunc c.dOut (leAt r.key 0 2) (leAt r.key 2 1) (if c.opc = 0x21 then n else 0) c.len
      (r.key.drop 8) (r.key.drop 136) r.expected s
    readMessage slot u k c s

/-- A host read of a digest command has returned: key record, expected digest, or message. -/
def digestRead (slot : Nat) (c : Cmd) (data : Option (List Byte)) (s : State) : State :=
  let r := digestRun c
  match r.ctx, data with
  | some (u, k), some d => if d.length ≠ c.len then feedLost slot stHost s else deliver slot u k d (setPhase slot .running s)
  | some _, none => feedLost slot stHost s
  | none, none => failDigest slot stHost 0 s
  | none, some d =>
    if keyed c.dFunc ∧ r.key.isEmpty then
      (if d.length ≠ 200 then failDigest slot stHost 0 s
       else if !keyRecordOk d then failDigest slot stParam 0 s
       else digestNext slot (modDigest slot (fun r => { r with key := d }) s))
    else if d.length ≠ (outLength c.dFunc c.dOut).getD 0 then failDigest slot stHost 0 s
    else digestNext slot (modDigest slot (fun r => { r with expected := d }) s)

/-! ## Context port (R313 to R319) -/

/-- The lowest FREE slot of a unit. -/
def freeCtx (s : State) (u : Nat) : Option Nat := (List.range 64).find? fun k => (s.ctx u k).st = .free

/-- Slots of a unit that an instance holds. -/
def ctxUsed (s : State) (u i : Nat) : Nat := ((s.dgu u).ctxs.filter fun e => decide (e.2.inst = i) && decide (e.2.st ≠ .free)).length

/-- A free slot of a unit within an instance's quota. -/
def slotFor (s : State) (u i : Nat) : Option Nat :=
  if (s.dgu u).fault ∨ (s.inst i).res.digCtx.getD u 0 ≤ ctxUsed s u i then none else freeCtx s u

/-- Gives a slot to a requester: STATE OPEN. -/
def openCtx (u k i : Nat) (slot frond : Option Nat) (s : State) : State :=
  s.setCtx u k { Ctx.free with st := .opened, inst := i, slot := slot, frond := frond }

/-- A request for a context that unit u can serve: a command's, or that of a frond's runtime, which prefers its own die (R313). -/
def openEligible (s : State) (u : Nat) (x : Cursor) : Bool :=
  match x.kind with
  | .digOpen => (s.cmd x.slot).any fun c => (slotFor s u c.inst).isSome
  | .digFrond =>
    let i := (s.frond x.pipe).inst.toNat
    (s.frond x.pipe).item.any (fun it => decide (it.slot = x.slot)) && (slotFor s u i).isSome &&
    (decide (u = x.pipe / 32) || (slotFor s (x.pipe / 32) i).isNone)
  | _ => false

/-- Gives the slot of a unit to the request that the dispatcher chooses (R289, R313). -/
def serveOpen (u : Nat) (s : State) : State :=
  match chooseCursor 2 (candidates s 2 (openEligible s u)) s with
  | (none, s) => s
  | (some (l, x), s) =>
    let r := s.disp.lists.get ReadyList.free l
    match slotFor s u r.inst with
    | none => s
    | some k =>
      let more := if x.kind = .digFrond then s.eng.digAsks.get 0 x.pipe else 0
      let s := turnCursor l x more (countWait r.level r.inst x.since s)
      if x.kind = .digFrond then openCtx u k r.inst none (some x.pipe) (setAsks x.pipe (more - 1) s)
      else
        let s := { s with eng := { s.eng with digOpens := s.eng.digOpens.filter (· ≠ x.slot) } }
        startDigest x.slot u k (openCtx u k r.inst (some x.slot) none s)

/-- The runtime of a frond asks for a context: the request joins its ready list; one more waits behind it (R313). -/
def askContext (f : Nat) (s : State) : State :=
  match (s.frond f).item with
  | none => s
  | some it =>
    if hasCursor s it.slot f .digFrond then setAsks f (s.eng.digAsks.get 0 f + 1) s else addCursor it.slot f .digFrond 2 s

/-- DIG_CONTEXT_OPEN: the open request of a frond's runtime comes, and unit `unit` serves the request that is due. -/
def execDigContextOpen (unit : Nat) (frond : Option (Fin 128)) (s : State) : Host.Outcome State Fault Refusal :=
  if 4 ≤ unit then .next s
  else
    match frond with
    | some f => .next (serveOpen unit (askContext f.val s))
    | none => .next (serveOpen unit s)

/-- DIG_START: DIG_CFG with OP START; the settings written before it take effect (R315). -/
def execDigStart (unit slot acc : Nat) (cfg : W64) (s : State) : Host.Outcome State Fault Refusal :=
  if field cfg 1 0 ≠ 1 then .next s
  else
    .next (onPort unit slot acc (fun x s =>
      let at_ := fun (off n : Nat) => x.regs.read 0 off n
      startCtx unit slot (field cfg 15 8) (field cfg 23 16) (field cfg 31 24) (field cfg 39 32) (field cfg 47 40)
        (leNat (at_ 8 8)) (at_ 0x100 128) (at_ 0x180 64) (at_ 0x40 64) s) s)

/-- DIG_CLOSE: accepted in every state; the slot becomes FREE (R319, R323). -/
def execDigClose (unit slot acc : Nat) (s : State) : Host.Outcome State Fault Refusal :=
  .next (onPort unit slot acc (fun _ s => leaveLane unit slot (s.setCtx unit slot Ctx.free)) s)

/-- A port write that fails the message is reported to its requester. -/
def afterWrite (u k : Nat) (before : Ctx) (s : State) : State :=
  let x := s.ctx u k
  if x.st = .failed ∧ before.st ≠ .failed then reportCtx x (ctxStatus x.detail) x.detail s else wantLane u k s

/-- DIG_DATA_WRITE: one message word, byte 0 in bits [7:0]. One that the full buffer cannot take is held back, and stalls the PUT
that brings it; it is not lost (R315). -/
def execDigDataWrite (unit slot acc : Nat) (word : W64) (s : State) : Host.Outcome State Fault Refusal :=
  .next (onPort unit slot acc (fun x s => afterWrite unit slot x (feedCtx unit slot (leBytes word.toNat 8) false s)) s)

/-- DIG_LAST_WRITE: VALID is 1 to 8, or 0 for a message of length 0; any other VALID cannot agree with the length
(log 59). -/
def execDigLastWrite (unit slot acc : Nat) (word : W64) (valid : Nat) (s : State) : Host.Outcome State Fault Refusal :=
  .next (onPort unit slot acc (fun x s =>
    let s := if x.st = .active ∧ (8 < valid ∨ (valid = 0 ∧ x.len ≠ 0)) then failCtx unit slot dtLength s
      else feedCtx unit slot (leBytes word.toNat valid) true s
    afterWrite unit slot x s) s)

/-- Counts a finished message (R330). -/
def countDigest (u i : Nat) (bad : Bool) (s : State) : State :=
  let n := if bad then 1 else 0
  let s := s.setDgu u { s.dgu u with msgs := (s.dgu u).msgs + 1, mismatch := (s.dgu u).mismatch + BitVec.ofNat 64 n }
  addDgu u i 2 n (addDgu u i 1 1 s)

/-- The command of a finished message: its outcome is presented. -/
def digestEnd (slot : Nat) (out : List Byte) (s : State) : State :=
  match s.cmd slot with
  | none => s
  | some c => succeed slot (BitVec.ofNat 64 c.len) (modDigest slot (fun r => { r with out := out }) s)

/-- DIG_FINISH: the message on its lane is padded and finished; DIG_OUT and CMP are written, STATE becomes DONE, or
FAILED where a comparison does not read 0b01 (R318, R321, R322; log 154). -/
def execDigFinish (unit : Nat) (slot : DigFinished) (s : State) : Host.Outcome State Fault Refusal :=
  let glitch := slot.glitch
  let slot := slot.slot
  let x := s.ctx unit slot
  if 4 ≤ unit ∨ x.st ≠ .active ∨ !x.last ∨ !onLane s unit slot then .next s
  else
    let out := ctxOutput x
    let cmp := if x.cmplen = 0 then 0 else upsetCmp glitch (cmpOf out x.expect x.cmplen)
    let bad := decide (x.cmplen ≠ 0) && decide (cmp ≠ 1)
    let s := chargeLane unit slot (countDigest unit x.inst bad s)
    if bad then
      let s := failCtxCmp unit slot (cmpDetail cmp) cmp s
      .next (reportCtx x stIntegrity (cmpDetail cmp) s)
    else
      let s := leaveLane unit slot (s.setCtx unit slot { x with st := .done, cmp := cmp, out := out, msg := [], key := [] })
      match x.slot with
      | some k => .next (digestEnd k out s)
      | none => .next s

/-! ## Lanes (R324 to R326) -/

/-- DGU_LANE_GRANT: a message that waits for a lane takes one, if it is its turn. -/
def execDguLaneGrant (unit slot : Nat) (s : State) : Host.Outcome State Fault Refusal :=
  if 4 ≤ unit ∨ (s.ctx unit slot).st ≠ .active ∨ onLane s unit slot then .next s
  else .next (serveLane unit slot s)

/-- DGU_QUANTUM_EXPIRY: the unit enters the schedule of the profile in force; in STRICT all lanes pass to the instance of the next quantum (R326). -/
def execDguQuantumExpiry (unit : Nat) (s : State) : Host.Outcome State Fault Refusal :=
  let s := enterDgu unit s
  if 4 ≤ unit ∨ !(s.dgu unit).strict then .next s
  else
    let saved := (s.dgu unit).lanes.filterMap fun e => e.2.map (·.1)
    let s := forEach (chargeLane unit) saved s
    let d := s.dgu unit
    let s := s.setDgu unit { d with
      quantum := (d.quantum + 1) % 16, lanes := [], waiting := saved ++ d.waiting.filter fun k => !saved.contains k }
    .next (forEach (serveLane unit) (s.dgu unit).waiting s)

/-- ROT_ALARM: sensor 0 voltage, 1 clock, 2 temperature, 3 fault injection. -/
def execRotAlarm (sensor : Nat) (s : State) : Host.Outcome State Fault Refusal :=
  if 3 < sensor then .next s else .next (rotAlarm sensor s)

/-! ## Extent reads (R408, R426) -/

/-- Goes on with a command whose media reads have all passed. -/
def readsDone (slot : Nat) (s : State) : State :=
  if readsLeft s slot then s
  else
    match s.cmd slot with
    | none => s
    | some c =>
      if c.outcome.isSome then s
      else if c.isQuery then endIfFailed slot s
      else if c.opc = 0x20 ∨ c.opc = 0x21 then storeFeed slot s
      else storeReadsDone slot c s

/-- EXTENT_READ_DONE: 257 LBAs of an extent, checked; a failed read counts as an NVMe error. -/
def execExtentReadDone (id : Nat) (data : Option (List Byte)) (s : State) : Host.Outcome State Fault Refusal :=
  match s.store.nvme.find? fun n => decide (n.id = id) && decide (n.kind = .extRead) with
  | none => .next s
  | some n =>
    match data, nvmeObj s n with
    | none, _ => .next (nvmeError n s)
    | some _, none => .next (dropNvme n s)
    | some d, some o =>
      let s := s.setSsd n.port { s.ssd n.port with failCount := 0 }
      if !extentPasses o n.ext n.ver d then .next (readLost n stIntegrity s)
      else
        let s := healCopy n o d (dropNvme n s)
        match n.slot with
        | none => .next s
        | some k => .next (readsDone k (fillSnap k n.obj n.ext d s))

end Sys2Proof.Machine
end

