-- ==== Sys2Proof/Machine/Values.lean ====
section
/-!
DEFINITION. Values of columns: types and their ranges (R78), PLAIN bytes (R90), order and equality (R80, R107,
R108), collations (R81), and the hash of keys (R113 to R115).
-/

namespace Sys2Proof.Machine

/-! ## Types (R78) -/

def tyBool : Ty := { code := 1, tparam := 0 }
def tyI32 : Ty := { code := 4, tparam := 0 }
def tyI64 : Ty := { code := 5, tparam := 0 }
def tyU32 : Ty := { code := 8, tparam := 0 }
def tyU64 : Ty := { code := 9, tparam := 0 }
def tyF64 : Ty := { code := 11, tparam := 0 }

def Ty.isBool (t : Ty) : Bool := decide (t.code = 1)
def Ty.isSigned (t : Ty) : Bool := decide (2 ≤ t.code) && decide (t.code ≤ 5)
def Ty.isUnsigned (t : Ty) : Bool := decide (6 ≤ t.code) && decide (t.code ≤ 9)
def Ty.isInt (t : Ty) : Bool := t.isSigned || t.isUnsigned
def Ty.isFloat (t : Ty) : Bool := decide (t.code = 10) || decide (t.code = 11)
def Ty.isDec (t : Ty) : Bool := decide (t.code = 12) || decide (t.code = 13)
def Ty.isDate (t : Ty) : Bool := decide (t.code = 14)
def Ty.isTime (t : Ty) : Bool := decide (t.code = 15)
def Ty.isStr (t : Ty) : Bool := decide (16 ≤ t.code) && decide (t.code ≤ 18)
/-- BYTES and UTF8. -/
def Ty.isVar (t : Ty) : Bool := decide (t.code = 17) || decide (t.code = 18)
def Ty.isExact (t : Ty) : Bool := t.isInt || t.isDec

/-- A type of the table with a TPARAM it admits. -/
def Ty.ok (t : Ty) : Bool :=
  decide (1 ≤ t.code) && decide (t.code ≤ 18) &&
  (if t.isDec then decide (t.tparam ≤ 38) else if t.isTime then decide (t.tparam ≤ 1)
   else if t.code = 16 then decide (1 ≤ t.tparam) && decide (t.tparam ≤ 64) else decide (t.tparam = 0))

/-- PLAIN width in bytes, BOOL taking one where it stands alone; 0 for a variable one. -/
def Ty.width (t : Ty) : Nat :=
  match t.code with
  | 1 => 1 | 2 => 1 | 3 => 2 | 4 => 4 | 5 => 8 | 6 => 1 | 7 => 2 | 8 => 4 | 9 => 8 | 10 => 4 | 11 => 8
  | 12 => 8 | 13 => 16 | 14 => 4 | 15 => 8 | 16 => t.tparam | _ => 0

/-- Least and greatest value of a type held as an integer. -/
def Ty.range (t : Ty) : Int × Int :=
  match t.code with
  | 12 => (-(10 ^ 18 - 1), 10 ^ 18 - 1)
  | 13 => (-(10 ^ 38 - 1), 10 ^ 38 - 1)
  | _ => if t.isUnsigned then (0, 2 ^ (8 * t.width) - 1) else (-(2 ^ (8 * t.width - 1)), 2 ^ (8 * t.width - 1) - 1)

def Ty.inRange (t : Ty) (v : Int) : Bool := decide (t.range.1 ≤ v) && decide (v ≤ t.range.2)

/-- Scale of an exact number: that of a decimal, 0 for an integer (R107). -/
def Ty.scale (t : Ty) : Nat := if t.isDec then t.tparam else 0

/-- Comparison families (R107). -/
def Ty.family (t : Ty) : Nat :=
  if t.isExact then 1 else if t.isFloat then 2 else if t.isDate then 3 else if t.isTime then 4 else if t.isBool then 5
  else 6

/-! ## PLAIN bytes (R90) -/

/-- A value from its PLAIN bytes. -/
def ofPlain (t : Ty) (b : List Byte) : Val :=
  if t.isStr then .str b
  else
    let n := leNat b
    if t.isBool then .bool (decide (n ≠ 0))
    else if t.code = 10 then .f32 (BitVec.ofNat 32 n)
    else if t.code = 11 then .f64 (BitVec.ofNat 64 n)
    else if t.isUnsigned then .int n
    else .int (toSigned (8 * t.width) n)

/-- The PLAIN bytes of a value; a null slot holds zeros (R93). -/
def toPlain (t : Ty) : Val → List Byte
  | .null => zeros t.width
  | .bool b => [if b then 1 else 0]
  | .int i => leBytes (ofSigned (8 * t.width) i) t.width
  | .f32 w => leBytes w.toNat 4
  | .f64 w => leBytes w.toNat 8
  | .str b => b

/-- A value lies in the range of its type; floats and strings always do, given their widths. -/
def valInRange (t : Ty) : Val → Bool
  | .int i => t.inRange i
  | _ => true

/-! ## Order (R80, R81, R107) -/

/-- A byte under a collation. -/
def foldByte (coll : Nat) (b : Byte) : Byte :=
  if coll = 1 ∧ 0x41 ≤ b.toNat ∧ b.toNat ≤ 0x5A then b + 0x20 else b

def foldStr (coll : Nat) (b : List Byte) : List Byte := if coll = 0 then b else b.map (foldByte coll)

/-- Lexicographic order on unsigned bytes; a proper prefix comes first. -/
def cmpBytes : List Byte → List Byte → Int
  | [], [] => 0
  | [], _ :: _ => -1
  | _ :: _, [] => 1
  | a :: x, b :: y => if a.toNat < b.toNat then -1 else if b.toNat < a.toNat then 1 else cmpBytes x y

def cmpInt (a b : Int) : Int := if a < b then -1 else if b < a then 1 else 0

/-- The bits of a float as binary64, widened exactly; a NaN stays a NaN. -/
def asF64 : Val → Nat
  | .f32 w => if fpIsNan binary32 w.toNat then fpDefaultNan binary64 else (fpConvert binary32 binary64 0 w.toNat).1
  | .f64 w => w.toNat
  | _ => 0

/-- The integer of a value held as one. -/
def asInt : Val → Int
  | .int i => i
  | .bool b => if b then 1 else 0
  | _ => 0

/-- The bytes of a string. -/
def asStr : Val → List Byte
  | .str b => b
  | _ => []

/-- A timestamp in ns (R107). -/
def asNs (t : Ty) (v : Val) : Int := if t.tparam = 0 then asInt v * 1000 else asInt v

/-- Order of two values that are not null, of types of one family: −1, 0 or 1. -/
def cmpVals (coll : Nat) (ta tb : Ty) (a b : Val) : Int :=
  if ta.isStr then cmpBytes (foldStr coll (asStr a)) (foldStr coll (asStr b))
  else if ta.isFloat then fpOrder binary64 (asF64 a) (asF64 b)
  else if ta.isTime then cmpInt (asNs ta a) (asNs tb b)
  else
    let m := max ta.scale tb.scale
    cmpInt (asInt a * 10 ^ (m - ta.scale)) (asInt b * 10 ^ (m - tb.scale))

/-- Equality of two key values, a null being equal to a null and nothing else (R108). -/
def eqNullSafe (coll : Nat) (ta tb : Ty) (a b : Val) : Bool :=
  match a, b with
  | .null, .null => true
  | .null, _ => false
  | _, .null => false
  | _, _ => decide (cmpVals coll ta tb a b = 0)

/-- Equality of join keys: a null matches nothing (R108). -/
def eqNoNull (coll : Nat) (t : Ty) (a b : Val) : Bool :=
  decide (a ≠ .null) && decide (b ≠ .null) && decide (cmpVals coll t t a b = 0)

/-! ## Hash (R113 to R115) -/

/-- The bytes of a string in 8-byte words, the last padded with zeros. -/
def strWords : Nat → List Byte → List W64
  | 0, _ => []
  | fuel + 1, b => if b.isEmpty then [] else BitVec.ofNat 64 (leNat (b.take 8)) :: strWords fuel (b.drop 8)

/-- The words that a key column contributes. -/
def keyWords (t : Ty) (coll : Nat) : Val → List W64
  | .null => [0x7E15C3A90B64D28F]
  | .bool b => [if b then 1 else 0]
  | .int i => if t.code = 13 then [BitVec.ofInt 64 i, BitVec.ofInt 64 (i / (2 : Int) ^ 64)] else [BitVec.ofInt 64 i]
  | .str b => strWords (b.length / 8 + 1) (foldStr coll b) ++ [BitVec.ofNat 64 b.length]
  | v =>
    let x := asF64 v
    [if fpIsNan binary64 x then 0x7FF8000000000000 else if fpIsZero binary64 x then 0 else BitVec.ofNat 64 x]

/-- The hash of a key: columns with type and collation. -/
def hashKey (seed : W64) (cols : List (Ty × Nat × Val)) : W64 :=
  let ws := (cols.map fun c => keyWords c.1 c.2.1 c.2.2).flatten
  mixHash (ws.foldl stepHash seed ^^^ BitVec.ofNat 64 ws.length)

/-- The share of n that a hash selects. -/
def hashPart (h : W64) (n : Nat) : Nat := (h.toNat / 2 ^ 32) * n / 2 ^ 32

end Sys2Proof.Machine
end

