-- ==== Sys2Proof/Machine/Expr.lean ====
section
/-!
DEFINITION. Expression records: the types of their terms (R109, R110, R594, R107) and their evaluation (R106,
R110 to R112).
-/

namespace Sys2Proof.Machine

/-! ## Types of terms -/

/-- A collation field is admitted for an operand (R81). -/
def collOk (coll : Nat) (t : Ty) : Bool := decide (coll ≤ 1) && (t.isStr || decide (coll = 0))

/-- The overflow mode of an arithmetic term or CAST is admitted (R111). -/
def modeOk (mode : Nat) (res : Ty) (fromFloat : Bool) : Bool :=
  decide (mode ≤ 1) || (decide (mode = 2) && res.isInt && !fromFloat)

/-- The pairs that CAST converts (R112). -/
def castOk (a b : Ty) : Bool :=
  (a.isExact && b.isExact) || (a.isExact && b.isFloat) || (a.isFloat && b.isExact) ||
  (decide (a.code = 11) && decide (b.code = 10)) || (a.isDate && b.isTime) || (a.isTime && b.isDate) ||
  (a.isTime && b.isTime && decide (a.tparam ≠ b.tparam)) || (a.isBool && b.isInt) || (a.isInt && b.isBool) ||
  (a.isStr && b.isStr)

/-- A constant is a value of its type. -/
def constOk (t : Ty) (v : Val) : Bool :=
  valInRange t v &&
  match v with
  | .str b => if t.isVar then decide (b.length ≤ 65535) else decide (b.length = t.tparam)
  | _ => true

/-- The elements of an INSET set ascend strictly under BINARY. -/
def ascending (t : Ty) : List Val → Bool
  | [] => true
  | [_] => true
  | a :: b :: l => decide (cmpVals 0 t t a b < 0) && ascending t (b :: l)

/-- What a term makes of the stack of types, last operand first; none where PLAN_LOAD rejects it. Arithmetic on dates, times and
booleans, for which R111 has no line, is rejected (log 147). -/
def typeTerm (cols : Nat → Option Ty) (slots : List SlotEnt) (stk : List Ty) (x : Term) : Option (List Ty) :=
  let t := x.ty
  let plain := decide (x.mode = 0)
  let noImm := decide (x.imm = 0)
  let give := fun (ok : Bool) (st : List Ty) => if ok && t.ok then some (t :: st) else none
  match x.eop, stk with
  | 0x01, st => give (plain && decide (x.imm < 64) && decide (cols x.imm = some t)) st
  | 0x02, st => give (plain && decide (1 ≤ t.width) && decide (t.width ≤ 8) && constOk t x.cval &&
      (!t.isBool || decide (x.imm % 256 ≤ 1))) st
  | 0x03, st => give (plain && (t.isStr || decide (t.code = 13)) && decide (x.cval ≠ .null) && constOk t x.cval) st
  | 0x04, st => give (plain && (match slots[x.imm]? with
      | some e => decide (e.kind = 1) && decide (e.ty = t)
      | none => false)) st
  | 0x05, st => give (plain && noImm) st
  | 0x18, _ :: st => give (plain && noImm && decide (t = tyBool)) st
  | 0x19, _ :: st => give (plain && noImm && decide (t = tyBool)) st
  | 0x20, b :: a :: st => give (plain && noImm && decide (t = tyBool) && a.isBool && b.isBool) st
  | 0x21, b :: a :: st => give (plain && noImm && decide (t = tyBool) && a.isBool && b.isBool) st
  | 0x22, a :: st => give (plain && noImm && decide (t = tyBool) && a.isBool) st
  | 0x23, b :: a :: c :: st => give (plain && noImm && c.isBool && decide (a = b) && decide (t = a)) st
  | 0x24, b :: a :: st => give (plain && noImm && decide (a = b) && decide (t = a)) st
  | 0x2C, b :: a :: st => give (noImm && modeOk x.mode t false && t.isInt && a.isInt && b.isInt) st
  | 0x2D, a :: st => give (noImm && modeOk x.mode t false && (t.isExact || t.isFloat) && decide (a.family = t.family)) st
  | 0x2E, a :: st => give (noImm && modeOk x.mode t false && (t.isExact || t.isFloat) && decide (a.family = t.family)) st
  | 0x30, a :: st => give (noImm && modeOk x.mode t a.isFloat && castOk a t) st
  | 0x3B, a :: st => give (plain && noImm && t.isInt && decide (a = t)) st
  | 0x3C, b :: a :: st => give (plain && noImm && t.isInt && decide (a = t) && b.isInt) st
  | 0x3D, b :: a :: st => give (plain && noImm && t.isInt && decide (a = t) && b.isInt) st
  | 0x40, a :: st => give (plain && noImm && a.isStr && decide (t = tyI32)) st
  | 0x41, a :: st => give (collOk x.mode a && decide (t = tyBool) && decide (x.cval ≠ .null) && ascending a x.set) st
  | 0x48, a :: st => give (decide (x.mode ≤ 1) && (a.isDate || a.isTime) && decide (t = a) && decide (1 ≤ x.imm) &&
      decide (x.imm ≤ 2 ^ 62)) st
  | e, b :: a :: st =>
    if 0x10 ≤ e ∧ e ≤ 0x16 then
      give (noImm && decide (a.family = b.family) && collOk x.mode a && decide (t = tyBool)) st
    else if 0x28 ≤ e ∧ e ≤ 0x2B then
      give (noImm && modeOk x.mode t false && (t.isExact || t.isFloat) && decide (a.family = t.family) &&
        decide (b.family = t.family)) st
    else if 0x38 ≤ e ∧ e ≤ 0x3A then give (plain && noImm && t.isInt && decide (a = t) && decide (b = t)) st
    else none
  | _, _ => none

/-- The first term of a record that is rejected, or the type of its value; the whole record fails at term 0 when
the stack does not end with one value (R109). -/
def typeExpr (cols : Nat → Option Ty) (slots : List SlotEnt) : Nat → List Ty → List Term → Except Nat Ty
  | _, [t], [] => .ok t
  | _, _, [] => .error 0
  | k, stk, x :: rest =>
    match typeTerm cols slots stk x with
    | none => .error k
    | some st => if 16 < st.length then .error k else typeExpr cols slots (k + 1) st rest

/-! ## Exact arithmetic (R111) -/

/-- n / d rounded half away from zero, d positive. -/
def roundHalf (n d : Int) : Int :=
  let q := (2 * n.natAbs + d.natAbs) / (2 * d.natAbs)
  if n < 0 then -(q : Int) else q

/-- An exact value n / d at the scale of a type. -/
def atScale (t : Ty) (n d : Int) : Int := roundHalf (n * 10 ^ t.scale) d

/-- The result of an overflow under a mode: none for FAIL (R111). -/
def overflow (mode : Nat) (t : Ty) (x : Option Int) : Option Val :=
  if mode = 0 then none
  else if mode = 2 then
    match x with
    | none => some .null
    | some i =>
      let n := 8 * t.width
      some (.int (if t.isUnsigned then (ofSigned n i : Nat) else toSigned n (ofSigned n i)))
  else some .null

/-- A result checked against the range of its type. -/
def fitVal (mode : Nat) (t : Ty) (i : Int) : Option Val :=
  if t.inRange i then some (.int i) else overflow mode t (some i)

/-- ADD, SUB, MUL, DIV, MOD on exact numbers. -/
def exactArith (e mode : Nat) (t ta tb : Ty) (a b : Int) : Option Val :=
  let sa := ta.scale
  let sb := tb.scale
  let p : Nat → Int := fun k => 10 ^ k
  if e = 0x28 then fitVal mode t (atScale t (a * p sb + b * p sa) (p (sa + sb)))
  else if e = 0x29 then fitVal mode t (atScale t (a * p sb - b * p sa) (p (sa + sb)))
  else if e = 0x2A then fitVal mode t (atScale t (a * b) (p (sa + sb)))
  else if b = 0 then overflow mode t none
  else if e = 0x2C then fitVal mode t (a.tmod b)
  else if ta.isInt && tb.isInt && t.isInt then fitVal mode t (a.tdiv b)
  else
    let n := a * p sb * (if b < 0 then -1 else 1)
    fitVal mode t (atScale t n ((b.natAbs : Int) * p sa))

/-! ## Float arithmetic (R111) -/

/-- The format of a float type. -/
def fmtTy (t : Ty) : Fmt := if t.code = 10 then binary32 else binary64

/-- A float value of a type from its bits. -/
def ofBits (t : Ty) (n : Nat) : Val := if t.code = 10 then .f32 (BitVec.ofNat 32 n) else .f64 (BitVec.ofNat 64 n)

/-- The bits of a float converted to a type, rounding to nearest even. -/
def toFmt (t : Ty) (v : Val) : Nat :=
  match v with
  | .f32 w => if t.code = 10 then w.toNat else (fpConvert binary32 binary64 0 w.toNat).1
  | .f64 w => if t.code = 10 then (fpConvert binary64 binary32 0 w.toNat).1 else w.toNat
  | _ => 0

def floatArith (e : Nat) (t : Ty) (a b : Val) : Val :=
  let f := fmtTy t
  let x := toFmt t a
  let y := toFmt t b
  ofBits t (if e = 0x28 then (fpAdd f 0 x y).1 else if e = 0x29 then (fpSub f 0 x y).1
    else if e = 0x2A then (fpMul f 0 x y).1 else (fpDiv f 0 x y).1)

/-- n / d rounded once to nearest even, d positive. -/
def ratToFp (f : Fmt) (n : Int) (d : Nat) : Nat :=
  if n = 0 then fpZero f false
  else
    let m := n.natAbs * 2 ^ 256
    (roundPack f 0 (decide (n < 0)) (m / d) (-256) (decide (m % d ≠ 0))).1

/-- A finite float toward zero at a decimal scale; none for NaN and infinities (R112). -/
def fpTrunc (f : Fmt) (x scale : Nat) : Option Int :=
  if fpIsNan f x || fpIsInf f x then none
  else
    let r := fpExact f x
    let n := r.1 * 10 ^ scale
    some (if 0 ≤ r.2 then n * 2 ^ r.2.toNat else n.tdiv (2 ^ (-r.2).toNat))

/-! ## CAST (R112) -/

/-- µs or ns in a day. -/
def dayUnits (t : Ty) : Int := if t.tparam = 0 then 86400 * 10 ^ 6 else 86400 * 10 ^ 9

def castVal (mode : Nat) (a t : Ty) (v : Val) : Option Val :=
  if a.isExact && t.isExact then fitVal mode t (atScale t (asInt v) (10 ^ a.scale))
  else if a.isExact && t.isFloat then some (ofBits t (ratToFp (fmtTy t) (asInt v) (10 ^ a.scale)))
  else if a.isFloat && t.isExact then
    match fpTrunc (fmtTy a) (toFmt a v) t.scale with
    | none => overflow mode t none
    | some i => fitVal mode t i
  else if a.isFloat && t.isFloat then some (ofBits t (toFmt t v))
  else if a.isDate && t.isTime then fitVal mode t (asInt v * dayUnits t)
  else if a.isTime && t.isDate then fitVal mode t (asInt v / dayUnits a)
  else if a.isTime && t.isTime then
    if a.tparam = 1 then some (.int (asInt v / 1000)) else fitVal mode t (asInt v * 1000)
  else if a.isBool then some (.int (asInt v))
  else if t.isBool then some (.bool (decide (asInt v ≠ 0)))
  else if t.isVar || decide ((asStr v).length = t.tparam) then some v
  else overflow mode t none

/-! ## Bit operations and the other terms (R110) -/

/-- An integer of a type from its bits. -/
def intOfBits (t : Ty) (n : Nat) : Val := .int (if t.isUnsigned then (n % 2 ^ (8 * t.width) : Nat) else toSigned (8 * t.width) n)

def bitTerm (e : Nat) (t : Ty) (a b : Int) : Val :=
  let w := 8 * t.width
  let x := ofSigned w a
  let y := ofSigned w b
  if e = 0x38 then intOfBits t (x &&& y)
  else if e = 0x39 then intOfBits t (x ||| y)
  else if e = 0x3A then intOfBits t (x ^^^ y)
  else if e = 0x3B then intOfBits t (2 ^ w - 1 - x)
  else
    let n := ofSigned 64 b
    if e = 0x3C then (if w ≤ n then .int 0 else intOfBits t (x * 2 ^ n))
    else if w ≤ n then (if t.isUnsigned then .int 0 else .int (if a < 0 then -1 else 0))
    else .int (a / 2 ^ n)

/-- The outcome of a comparison term. -/
def cmpTerm (e : Nat) (c : Int) : Bool :=
  if e = 0x10 then decide (c = 0) else if e = 0x11 then decide (c ≠ 0) else if e = 0x12 then decide (c < 0)
  else if e = 0x13 then decide (c ≤ 0) else if e = 0x14 then decide (0 < c) else decide (0 ≤ c)

/-- A stack entry: its type and its value; none for a value that has overflowed under FAIL. -/
abbrev SEnt := Ty × Option Val

/-- AND of R106; an overflow beside FALSE has no effect. -/
def andVal : Option Val → Option Val → Option Val
  | some (.bool false), _ => some (.bool false)
  | _, some (.bool false) => some (.bool false)
  | none, _ => none
  | _, none => none
  | some .null, _ => some .null
  | _, some .null => some .null
  | _, _ => some (.bool true)

/-- OR of R106; an overflow beside TRUE has no effect. -/
def orVal : Option Val → Option Val → Option Val
  | some (.bool true), _ => some (.bool true)
  | _, some (.bool true) => some (.bool true)
  | none, _ => none
  | _, none => none
  | some .null, _ => some .null
  | _, some .null => some .null
  | _, _ => some (.bool false)

/-- A term of one operand on a value that is not null. -/
def unary (x : Term) (ta : Ty) (v : Val) : Option Val :=
  match x.eop with
  | 0x22 => some (.bool (decide (v = .bool false)))
  | 0x2D =>
    if x.ty.isFloat then some (ofBits x.ty (fpNeg (fmtTy x.ty) (toFmt x.ty v)))
    else fitVal x.mode x.ty (atScale x.ty (-(asInt v)) (10 ^ ta.scale))
  | 0x2E =>
    if x.ty.isFloat then
      let n := toFmt x.ty v
      some (ofBits x.ty (if fpSign (fmtTy x.ty) n then fpNeg (fmtTy x.ty) n else n))
    else fitVal x.mode x.ty (atScale x.ty (asInt v).natAbs (10 ^ ta.scale))
  | 0x30 => castVal x.mode ta x.ty v
  | 0x3B => some (bitTerm 0x3B x.ty (asInt v) 0)
  | 0x40 => some (.int (asStr v).length)
  | 0x41 => some (.bool (x.set.any fun e => decide (cmpVals x.mode ta ta v e = 0)))
  | _ =>
    let i := (asInt v / (x.imm : Int)) * x.imm
    fitVal x.mode x.ty i

/-- A term of two operands that are not null. -/
def binary (x : Term) (ta tb : Ty) (a b : Val) : Option Val :=
  if 0x10 ≤ x.eop ∧ x.eop ≤ 0x15 then some (.bool (cmpTerm x.eop (cmpVals x.mode ta tb a b)))
  else if 0x28 ≤ x.eop ∧ x.eop ≤ 0x2C then
    if x.ty.isFloat then some (floatArith x.eop x.ty a b)
    else exactArith x.eop x.mode x.ty ta tb (asInt a) (asInt b)
  else some (bitTerm x.eop x.ty (asInt a) (asInt b))

/-- One term on the stack (R110); a null operand gives null except where the term says otherwise (R106). -/
def evalTerm (row : Row) (pars : Nat → Val) (x : Term) : List SEnt → List SEnt := fun stk =>
  match x.eop, stk with
  | 0x01, st => (x.ty, some (row.get .null x.imm)) :: st
  | 0x02, st => (x.ty, some x.cval) :: st
  | 0x03, st => (x.ty, some x.cval) :: st
  | 0x04, st => (x.ty, some (pars x.imm)) :: st
  | 0x05, st => (x.ty, some .null) :: st
  | 0x16, (tb, b) :: (ta, a) :: st =>
    (x.ty, match a, b with
      | some u, some v => some (.bool (eqNullSafe x.mode ta tb u v))
      | _, _ => none) :: st
  | 0x18, (_, a) :: st => (x.ty, a.map fun v => .bool (decide (v = .null))) :: st
  | 0x19, (_, a) :: st => (x.ty, a.map fun v => .bool (decide (v ≠ .null))) :: st
  | 0x20, (_, b) :: (_, a) :: st => (x.ty, andVal a b) :: st
  | 0x21, (_, b) :: (_, a) :: st => (x.ty, orVal a b) :: st
  | 0x23, (_, b) :: (_, a) :: (_, c) :: st =>
    (x.ty, match c with
      | none => none
      | some v => if v = .bool true then a else b) :: st
  | 0x24, (_, b) :: (_, a) :: st => (x.ty, if a = some .null then b else a) :: st
  | e, st =>
    if e = 0x22 ∨ e = 0x2D ∨ e = 0x2E ∨ e = 0x30 ∨ e = 0x3B ∨ e = 0x40 ∨ e = 0x41 ∨ e = 0x48 then
      match st with
      | (ta, a) :: st => (x.ty, a.bind fun v => if v = .null then some .null else unary x ta v) :: st
      | [] => []
    else
      match st with
      | (tb, b) :: (ta, a) :: st =>
        (x.ty, match a, b with
          | some u, some v => if u = .null ∨ v = .null then some .null else binary x ta tb u v
          | _, _ => none) :: st
      | st => st

/-- The value of a record on a row; none when it overflows under FAIL. -/
def evalExpr (row : Row) (pars : Nat → Val) (e : List Term) : Option Val :=
  match e.foldl (fun stk x => evalTerm row pars x stk) [] with
  | (_, v) :: _ => v
  | [] => none

end Sys2Proof.Machine
end

