-- ==== Sys2Proof/Machine/Chunks.lean ====
section
/-!
DEFINITION. Column chunks: the checks and the decoding of a chunk (R83 to R96), the chunks that the module writes
(R93, R145), group directories (R60, R100) and Arrow batches (R101, R102).
-/

namespace Sys2Proof.Machine

/-! ## Reading -/

/-- The fields of a chunk header (R84). -/
structure ChunkHdr where
  ty : Ty
  enc : Nat
  validity : Bool
  rows : Nat
  len : Nat
  nulls : Nat
  npages : Nat
  width : Nat
  dictCount : Nat
  base : Nat
  deriving DecidableEq, Repr

/-- A page: its header fields and its body (R85). -/
structure Page where
  kind : Nat
  reserved : Bool
  firstRow : Nat
  prows : Nat
  plen : Nat
  body : List Byte
  deriving DecidableEq, Repr

/-- The header of a chunk. -/
def readHdr (b : List Byte) : ChunkHdr :=
  { ty := { code := leAt b 5 1, tparam := leAt b 0x16 2 }, enc := leAt b 6 1, validity := decide (leAt b 7 1 % 2 = 1),
    rows := leAt b 8 4, len := leAt b 0x0C 4, nulls := leAt b 0x10 4, npages := leAt b 0x14 1,
    width := leAt b 0x15 1, dictCount := leAt b 0x18 4, base := leAt b 0x20 8 }

/-- The encodings that a type admits (R89). -/
def encAdmits (enc : Nat) (t : Ty) : Bool :=
  match enc with
  | 0 => true
  | 1 => t.isInt
  | 2 => t.isInt || decide (t.code = 12) || t.isDate || t.isTime
  | 3 => !t.isBool
  | 4 => t.isBool || t.isInt || t.isFloat || t.isDec || t.isDate || t.isTime
  | 5 => t.isInt || decide (t.code = 12) || t.isDate || t.isTime
  | _ => false

/-- Encodings whose codes have a WIDTH. -/
def hasWidth (enc : Nat) : Bool := decide (enc = 1) || decide (enc = 2) || decide (enc = 3) || decide (enc = 5)

/-- The header's own fields are in order (R84, R89, R95). A BASE outside the range of the type is not refused here: the values that
it gives are checked as they are decoded (log 147). -/
def hdrOk (b : List Byte) (h : ChunkHdr) : Bool :=
  decide (leAt b 0 4 = 0x4343515A) && decide (leAt b 4 1 = 1) && h.ty.ok && encAdmits h.enc h.ty &&
  decide (leAt b 7 1 ≤ 1) && decide (1 ≤ h.rows) && decide (h.rows ≤ 65536) && decide (0x98 ≤ h.len) &&
  decide (h.len ≤ 0x10000000) && decide (1 ≤ h.npages) && decide (h.npages ≤ 64) &&
  (if hasWidth h.enc then decide (1 ≤ h.width) && decide (h.width ≤ 32) &&
      (decide (h.enc ≠ 1) || decide (h.width ≤ 8 * h.ty.width)) else decide (h.width = 0)) &&
  (if h.enc = 3 then decide (1 ≤ h.dictCount) && decide (h.dictCount ≤ 65536) else decide (h.dictCount = 0)) &&
  zeroAt b 0x1C 4 && (decide (h.enc = 2) || decide (h.base = 0)) && zeroAt b 0x28 24

/-- The pages that follow one another in the bytes between header and trailer; none when one runs over the end or
bytes are left. -/
def chunkPages : Nat → List Byte → Option (List Page)
  | 0, b => if b.isEmpty then some [] else none
  | n + 1, b =>
    let plen := leAt b 0x0C 4
    let k := 16 + (plen + 7) / 8 * 8
    if b.length < k then none
    else
      let p : Page := {
        kind := leAt b 0 1, reserved := zeroAt b 1 3, firstRow := leAt b 4 4, prows := leAt b 8 4, plen := plen,
        body := (b.drop 16).take plen }
      (chunkPages n (b.drop k)).map fun t => p :: t

/-- Bytes of a code sequence (R89). -/
def seqLen (n w : Nat) : Nat := (n * w + 7) / 8

/-- PLEN of a page whose headers alone fix it; none for RLE and variable-length PLAIN (R90, R95). -/
def fixedLen (h : ChunkHdr) (p : Page) : Option Nat :=
  if p.kind = 1 then some ((h.rows + 7) / 8)
  else if p.kind = 2 then (if h.ty.isVar then none else some (h.dictCount * h.ty.width))
  else
    match h.enc with
    | 0 => if h.ty.isVar then none else if h.ty.isBool then some ((p.prows + 7) / 8) else some (p.prows * h.ty.width)
    | 4 => none
    | 5 => some (8 + seqLen (p.prows - 1) h.width)
    | _ => some (seqLen p.prows h.width)

/-- DATA pages follow one another from row r to the last row (R86). -/
def dataPagesOk (h : ChunkHdr) : Nat → List Page → Bool
  | r, [] => decide (r = h.rows)
  | r, p :: t => decide (p.kind = 3) && decide (p.firstRow = r) && decide (1 ≤ p.prows) && dataPagesOk h (r + p.prows) t

/-- The page order of R86. -/
def pagesOk (h : ChunkHdr) (ps : List Page) : Bool :=
  let each := ps.all fun p => p.reserved && decide (p.plen ≤ 16777216) &&
    (match fixedLen h p with | some n => decide (p.plen = n) | none => true)
  let rest1 := if h.validity then ps.drop 1 else ps
  let rest2 := if h.enc = 3 then rest1.drop 1 else rest1
  each && decide (rest2 ≠ []) && dataPagesOk h 0 rest2 &&
  (!h.validity || (ps.head?.any fun p => decide (p.kind = 1) && decide (p.firstRow = 0) && decide (p.prows = h.rows))) &&
  (decide (h.enc ≠ 3) || (rest1.head?.any fun p => decide (p.kind = 2) && decide (p.firstRow = 0) &&
    decide (p.prows = h.dictCount) && decide (p.plen ≤ 1048576)))

/-- The header-time checks of R95 on a chunk of `len` bytes as its directory or segment names it (R62): header and
pages, or none for a format error. -/
def headerCheck (b : List Byte) (len : Nat) : Option (ChunkHdr × List Page) :=
  let h := readHdr b
  let t := b.drop (len - 64)
  if !hdrOk b h || decide (h.len ≠ len) || decide (b.length ≠ len) ||
     decide (leAt t 0x20 4 ≠ 0x5443515A) || decide (leAt t 0x24 4 ≠ len) || !zeroAt t 0x28 24 then none
  else
    match chunkPages h.npages ((b.drop 64).take (len - 128)) with
    | none => none
    | some ps => if pagesOk h ps then some (h, ps) else none

/-- Code i of a sequence held as a number. -/
def seqCode (body w i : Nat) : Nat := (body >>> (i * w)) % 2 ^ w

/-- The offsets of a variable-length PLAIN body are in order (R90): they start at 0, do not decrease and end at the
count of value bytes. -/
def offsetsOk (n plen : Nat) (body : List Byte) : Bool :=
  decide (4 * (n + 1) ≤ plen) && decide (leAt body 0 4 = 0) &&
  ((List.range n).all fun i => decide (leAt body (4 * i) 4 ≤ leAt body (4 * i + 4) 4)) &&
  decide (leAt body (4 * n) 4 = plen - 4 * (n + 1))

/-- Value i of a variable-length PLAIN body. -/
def varAt (n : Nat) (body : List Byte) (i : Nat) : List Byte :=
  let a := leAt body (4 * i) 4
  let z := leAt body (4 * i + 4) 4
  (body.drop (4 * (n + 1) + a)).take (z - a)

/-- Value i of a PLAIN body of n values (R90); none when it is out of range or too long. -/
def plainAt (t : Ty) (n : Nat) (body : List Byte) (i : Nat) : Option Val :=
  let v := if t.isVar then Val.str (varAt n body i)
    else if t.isBool then .bool ((leAt body (i / 8) 1).testBit (i % 8))
    else ofPlain t ((body.drop (i * t.width)).take t.width)
  if valInRange t v && decide ((asStr v).length ≤ 65535) then some v else none

/-- Values of the rows whose validity bits are set, null for the others. -/
def pickRows (valid : List Bool) (f : Nat → Option Val) : Option (List Val) :=
  (valid.zipIdx).mapM fun x => if x.1 then f x.2 else some .null

/-- A decoded integer in the range of its type (R91). -/
def intAt (t : Ty) (v : Int) : Option Val := if t.inRange v then some (.int v) else none

/-- BASE or FIRST as the type reads it (R91). -/
def wide (t : Ty) (n : Nat) : Int := if t.code = 9 then (n : Int) else toSigned 64 n

/-- Zigzag (R90). -/
def unzig (c : Nat) : Int := if c % 2 = 0 then ((c / 2 : Nat) : Int) else -((c / 2 : Nat) : Int) - 1
def zigzag (d : Int) : Nat := if 0 ≤ d then 2 * d.toNat else 2 * (-d).toNat - 1

/-- The value of each row of a DELTA page. -/
def deltaVals (body w : Nat) (first : Int) : Nat → List Int
  | 0 => []
  | 1 => [first]
  | n + 2 =>
    let l := deltaVals body w first (n + 1)
    l ++ [l.getLastD first + unzig (seqCode body w n)]

/-- The run that holds row i: run lengths in order. -/
def runOf : List Nat → Nat → Nat
  | [], _ => 0
  | n :: t, i => if i < n then 0 else 1 + runOf t (i - n)

/-- The values of one DATA page (R90). What stands between the values and the run lengths of an RLE body as padding is not checked;
the reserved word of an RLE body is, when it is decoded and not with the header: DESIGN CHOICE, log 147. -/
def pageVals (h : ChunkHdr) (dict : List Val) (valid : List Bool) (p : Page) : Option (List Val) :=
  let t := h.ty
  let body := leNat p.body
  match h.enc with
  | 0 =>
    if t.isVar && !offsetsOk p.prows p.plen p.body then none else pickRows valid (plainAt t p.prows p.body)
  | 1 => pickRows valid fun i => intAt t (seqCode body h.width i)
  | 2 => pickRows valid fun i => intAt t (wide t h.base + seqCode body h.width i)
  | 3 => pickRows valid fun i => dict[seqCode body h.width i]?
  | 4 =>
    let n := leAt p.body 0 4
    let w := t.width
    let at_ := 8 + (n * w + 7) / 8 * 8
    if n = 0 ∨ p.prows < n ∨ !zeroAt p.body 4 4 ∨ p.plen ≠ at_ + 2 * n then none
    else
      let lens := (List.range n).map fun k => leAt p.body (at_ + 2 * k) 2 + 1
      if lens.sum ≠ p.prows then none
      else
        pickRows valid fun i =>
          let b := (p.body.drop (8 + w * runOf lens i)).take w
          if t.isBool && decide (1 < leNat b) then none
          else if valInRange t (ofPlain t b) then some (ofPlain t b) else none
  | _ =>
    let vs := deltaVals (leNat (p.body.drop 8)) h.width (wide t (leAt p.body 0 8)) p.prows
    pickRows valid fun i => vs[i]?.bind (intAt t)

/-- The dictionary of a chunk: its entries are distinct under R80 with BINARY (R92). -/
def dictVals (h : ChunkHdr) (p : Page) : Option (List Val) :=
  let n := h.dictCount
  if h.ty.isVar && !offsetsOk n p.plen p.body then none
  else
    match (List.range n).mapM (plainAt h.ty n p.body) with
    | none => none
    | some vs =>
      if vs.zipIdx.all fun x => (vs.take x.2).all fun y => decide (cmpVals 0 h.ty h.ty x.1 y ≠ 0) then some vs else none

/-- Rows of the DATA pages, page by page. -/
def dataVals (h : ChunkHdr) (dict : List Val) : List Bool → List Page → Option (List Val)
  | _, [] => some []
  | valid, p :: t =>
    match pageVals h dict (valid.take p.prows) p, dataVals h dict (valid.drop p.prows) t with
    | some a, some b => some (a ++ b)
    | _, _ => none

/-- Decodes a chunk that has passed its header-time checks: one value for each row, or none for a format error. -/
def decodeChunk (h : ChunkHdr) (ps : List Page) : Option (List Val) :=
  let valid := if h.validity then
      match ps.head? with
      | some p => (List.range h.rows).map fun r => (leAt p.body (r / 8) 1).testBit (r % 8)
      | none => []
    else List.replicate h.rows true
  let rest1 := if h.validity then ps.drop 1 else ps
  if (valid.filter (· = false)).length ≠ h.nulls then none
  else if h.enc = 3 then
    match rest1 with
    | [] => none
    | d :: rest =>
      match dictVals h d with
      | none => none
      | some dict => dataVals h dict valid rest
  else dataVals h [] valid rest1

/-! ## Writing (R93, R145) -/

/-- Packs codes of w bits into bytes. -/
def packCodes (w : Nat) (l : List Nat) : List Byte :=
  leBytes (l.foldr (fun c acc => c + 2 ^ w * acc) 0) (seqLen l.length w)

/-- The least width that holds every code, at least 1. -/
def leastWidth (l : List Nat) : Nat := max 1 (bitLen (l.foldl max 0))

/-- The PLAIN body of values; null slots are zero or empty. -/
def plainBody (t : Ty) (vs : List Val) : List Byte :=
  if t.isVar then
    let offs := vs.foldl (fun (acc : List Nat × Nat) v => (acc.1 ++ [acc.2 + (asStr v).length], acc.2 + (asStr v).length))
      ([0], 0)
    (offs.1.map fun o => leBytes o 4).flatten ++ (vs.map asStr).flatten
  else if t.isBool then packCodes 1 (vs.map fun v => if v = .bool true then 1 else 0)
  else (vs.map (toPlain t)).flatten

/-- Bytes of a page header and its padded body. -/
def pageBytes (kind firstRow prows : Nat) (body : List Byte) : List Byte :=
  leBytes kind 1 ++ zeros 3 ++ leBytes firstRow 4 ++ leBytes prows 4 ++ leBytes body.length 4 ++ body ++
  zeros ((body.length + 7) / 8 * 8 - body.length)

/-- Rows of the first DATA page: as many whole rows as fit within 16 MiB (R145). -/
def pageRows (t : Ty) (vs : List Val) : Nat :=
  if t.isVar then
    let go := vs.foldl (fun (acc : Nat × Nat × Bool) v =>
      let n := acc.2.1 + 4 + (asStr v).length
      if acc.2.2 && decide (n ≤ 16777216) then (acc.1 + 1, n, true) else (acc.1, acc.2.1, false)) (0, 4, true)
    go.1
  else vs.length

/-- PLAIN DATA pages. -/
def plainPages (t : Ty) : Nat → Nat → List Val → List (List Byte)
  | 0, _, _ => []
  | fuel + 1, r, vs =>
    if vs.isEmpty then []
    else
      let n := max 1 (pageRows t vs)
      pageBytes 3 r n (plainBody t (vs.take n)) :: plainPages t fuel (r + n) (vs.drop n)

/-- The validity page of values, when one is null (R94, R100). -/
def validityPage (vs : List Val) : List (List Byte) :=
  if vs.contains .null then [pageBytes 1 0 vs.length (packCodes 1 (vs.map fun v => if v = .null then 0 else 1))] else []

/-- A whole chunk from its parts, with its trailer and digest (R84, R87, R88). -/
def chunkBytes (t : Ty) (enc width dictCount base : Nat) (vs : List Val) (pages : List (List Byte)) : List Byte :=
  let nulls := (vs.filter (· = .null)).length
  let body := pages.flatten
  let len := 128 + body.length
  let head := leBytes 0x4343515A 4 ++ leBytes 1 1 ++ leBytes t.code 1 ++ leBytes enc 1 ++
    leBytes (if nulls = 0 then 0 else 1) 1 ++ leBytes vs.length 4 ++ leBytes len 4 ++ leBytes nulls 4 ++
    leBytes pages.length 1 ++ leBytes width 1 ++ leBytes t.tparam 2 ++ leBytes dictCount 4 ++ zeros 4 ++
    leBytes base 8 ++ zeros 24
  head ++ body ++ sha256 (head ++ body) ++ leBytes 0x5443515A 4 ++ leBytes len 4 ++ zeros 24

/-- The chunk written PLAIN. -/
def plainChunk (t : Ty) (vs : List Val) : List Byte :=
  chunkBytes t 0 0 0 0 vs (validityPage vs ++ plainPages t (vs.length + 1) 0 vs)

/-- A chunk of one code sequence, unless a code needs more than 32 bits. -/
def codeChunk (t : Ty) (enc dictCount base : Nat) (vs : List Val) (codes : List Nat) (dict : List (List Byte))
    (lead : List Byte) : List Byte :=
  let w := leastWidth codes
  if 32 < w then plainChunk t vs
  else chunkBytes t enc w dictCount base vs
    (validityPage vs ++ dict ++ [pageBytes 3 0 vs.length (lead ++ packCodes w codes)])

/-- The dictionary of values in order of first appearance, distinct under R80 (R92, R145). -/
def dictOf (t : Ty) (vs : List Val) : List Val :=
  vs.foldl (fun d v => if v = .null ∨ d.any (fun x => decide (cmpVals 0 t t x v = 0)) then d else d ++ [v]) []

/-- The code of a value in a dictionary; 0 for a null. -/
def dictCode (t : Ty) (d : List Val) (v : Val) : Nat :=
  if v = .null then 0 else d.findIdx fun x => decide (cmpVals 0 t t x v = 0)

/-- Maximal runs of values that are the same, a null counting as zero (log 60). -/
def runsOf (t : Ty) (vs : List Val) : List (List Byte × Nat) :=
  (vs.foldl (fun (acc : List (List Byte × Nat)) v =>
    let b := toPlain t v
    match acc with
    | (x, n) :: rest => if x = b then (x, n + 1) :: rest else (b, 1) :: acc
    | [] => [(b, 1)]) []).reverse

/-- The codes of a DELTA page: a null takes the code 0 and leaves the running value (R93). -/
def deltaCodes (first : Int) (vs : List Val) : List Nat :=
  ((vs.drop 1).foldl (fun (acc : List Nat × Int) v =>
    match v with
    | .int i => (acc.1 ++ [zigzag (i - acc.2)], i)
    | _ => (acc.1 ++ [0], acc.2)) ([], first)).1

/-- The chunk of a column under an encoding, or PLAIN where that cannot represent it (R145). -/
def encodeChunk (t : Ty) (enc : Nat) (vs : List Val) : List Byte :=
  let ints := vs.filterMap fun v => match v with | .int i => some i | _ => none
  match enc with
  | 1 =>
    if ints.any (· < 0) then plainChunk t vs else codeChunk t 1 0 0 vs (vs.map fun v => (asInt v).toNat) [] []
  | 2 =>
    let base := match ints with | [] => 0 | i :: l => l.foldl min i
    codeChunk t 2 0 (ofSigned 64 base) vs (vs.map fun v => if v = .null then 0 else (asInt v - base).toNat) [] []
  | 3 =>
    let d := dictOf t vs
    let body := plainBody t d
    if d.isEmpty ∨ 65536 < d.length ∨ 1048576 < body.length then plainChunk t vs
    else codeChunk t 3 d.length 0 vs (vs.map (dictCode t d)) [pageBytes 2 0 d.length body] []
  | 4 =>
    let rs := runsOf t vs
    let vals := (rs.map (·.1)).flatten
    let body := leBytes rs.length 4 ++ zeros 4 ++ vals ++ zeros ((vals.length + 7) / 8 * 8 - vals.length) ++
      (rs.map fun r => leBytes (r.2 - 1) 2).flatten
    chunkBytes t 4 0 0 0 vs (validityPage vs ++ [pageBytes 3 0 vs.length body])
  | 5 =>
    let first := match vs.head? with | some (.int i) => i | _ => 0
    codeChunk t 5 0 0 vs (deltaCodes first vs) [] (leBytes (ofSigned 64 first) 8)
  | _ => plainChunk t vs

/-! ## Group directories (R60, R100) -/

/-- A column of an output: type, encoding, values. -/
abbrev OutCol := Ty × Nat × List Val

/-- Rows of the first group: 65,536, or the last row with which every chunk stays within 256 MiB. -/
def groupRows (cols : List OutCol) : Nat → Nat
  | 0 => 0
  | n + 1 =>
    if cols.all fun c => decide ((encodeChunk c.1 c.2.1 (c.2.2.take (n + 1))).length ≤ 0x10000000) then n + 1
    else groupRows cols n

/-- The groups of an output: rows and the chunks of each. -/
def outGroups (cols : List OutCol) : Nat → Nat → List (Nat × List (List Byte))
  | 0, _ => []
  | fuel + 1, rows =>
    if rows = 0 then []
    else
      let n := max 1 (groupRows cols (min rows 65536))
      (n, cols.map fun c => encodeChunk c.1 c.2.1 (c.2.2.take n)) ::
        outGroups (cols.map fun c => (c.1, c.2.1, c.2.2.drop n)) fuel (rows - n)

/-- Chunks laid out behind what stands up to an offset, each at the next multiple of 64: entries (offset, length, rows) and
bytes, with the padding before each chunk. Nothing follows the last chunk (log 147). -/
def layChunks : Nat → List (Nat × List Byte) → List (Nat × Nat × Nat) × List Byte
  | _, [] => ([], [])
  | off, (rows, b) :: t =>
    let at_ := roundUp off 64
    let r := layChunks (at_ + b.length) t
    ((at_, b.length, rows) :: r.1, zeros (at_ - off) ++ b ++ r.2)

/-- The bytes of a group directory at address `at_`. -/
def dirBytes (ncol ngroups : Nat) (ents : List (Nat × Nat × Nat)) : List Byte :=
  leBytes 0x4447515A 4 ++ leBytes ncol 2 ++ zeros 2 ++ leBytes ngroups 4 ++ zeros 52 ++
  (ents.map fun e => leBytes e.1 8 ++ leBytes e.2.1 4 ++ leBytes e.2.2 4).flatten

/-- A FORMAT 0 output: the directory and its chunks, CHUNK_ADDR counted from `base` (R100). -/
def chunkOutput (cols : List OutCol) (rows base : Nat) : List Byte :=
  let gs := outGroups cols (rows + 1) rows
  let flat := (gs.map fun g => g.2.map fun b => (g.1, b)).flatten
  let r := layChunks (64 + 16 * flat.length) flat
  dirBytes cols.length gs.length (r.1.map fun e => (base + e.1, e.2)) ++ r.2

/-- Rows of an output whose chunks are complete before its last row has come: those of the groups that hold 65,536 rows or were
cut short (R100, R146). -/
def completeRows (cols : List OutCol) (rows : Nat) : Nat :=
  let ns := (outGroups cols (rows + 1) rows).map (·.1)
  if ns.getLastD 65536 = 65536 then ns.sum else (ns.dropLast).sum

/-! ## Arrow batches (R101, R102) -/

/-- The type that a record carries: DECIMAL64 is widened. -/
def arrowTy (t : Ty) : Ty := if t.code = 12 then { t with code := 13 } else t

/-- Padded to a multiple of 64. -/
def pad64 (b : List Byte) : List Byte := b ++ zeros (roundUp b.length 64 - b.length)

/-- Buffers of values: offsets (empty when there are none) and data. -/
def arrowVals (t : Ty) (vs : List Val) : List Byte × List Byte :=
  let b := plainBody t vs
  if t.isVar then (b.take (4 * (vs.length + 1)), b.drop (4 * (vs.length + 1))) else ([], b)

/-- One column's record and buffers, the buffers standing from an offset on. A buffer without bytes is absent: offset 0 (log 147). -/
def arrowCol (off : Nat) (c : OutCol) : List Byte × List Byte :=
  let t := arrowTy c.1
  let vs := c.2.2
  let nulls := (vs.filter (· = .null)).length
  let isDict := decide (c.2.1 = 3)
  let d := if isDict then dictOf c.1 vs else []
  let src := arrowVals t (if isDict then d else vs)
  let valid := if nulls = 0 then [] else packCodes 1 (vs.map fun v => if v = .null then 0 else 1)
  let idx := if isDict then (vs.map fun v => leBytes (dictCode c.1 d v) 4).flatten else []
  let o1 := off
  let o2 := o1 + (pad64 valid).length
  let o3 := o2 + (pad64 src.1).length
  let o4 := o3 + (pad64 src.2).length
  let place := fun (b : List Byte) (o : Nat) => if b.isEmpty then 0 else o
  (leBytes t.code 1 ++ leBytes (if isDict then 1 else 0) 1 ++ leBytes t.tparam 2 ++ leBytes d.length 4 ++
    leBytes nulls 8 ++ leBytes (place valid o1) 8 ++ leBytes (place src.1 o2) 8 ++ leBytes (place src.2 o3) 8 ++
    leBytes (place idx o4) 8 ++ leBytes src.2.length 8 ++ zeros 8,
   pad64 valid ++ pad64 src.1 ++ pad64 src.2 ++ pad64 idx)

/-- The columns one after another. -/
def arrowCols : Nat → List OutCol → List Byte × List Byte
  | _, [] => ([], [])
  | off, c :: t =>
    let a := arrowCol off c
    let r := arrowCols (off + a.2.length) t
    (a.1 ++ r.1, a.2 ++ r.2)

/-- A FORMAT 1 output. -/
def arrowOutput (cols : List OutCol) (rows : Nat) : List Byte :=
  let r := arrowCols (64 + 64 * cols.length) cols
  leBytes 0x4241515A 4 ++ leBytes cols.length 2 ++ zeros 2 ++ leBytes rows 8 ++ zeros 48 ++ r.1 ++ r.2

/-- A BYTES or UTF8 column, or a dictionary of any type, whose value bytes exceed 2,147,483,647 (R102). -/
def arrowTooLong (cols : List OutCol) : Bool :=
  cols.any fun c =>
    let vs := if c.2.1 = 3 then dictOf c.1 c.2.2 else c.2.2
    (c.1.isVar || decide (c.2.1 = 3)) && decide (2147483647 < (arrowVals (arrowTy c.1) vs).2.length)

end Sys2Proof.Machine
end

