-- ==== Sys2Proof/Machine/CodeCheck.lean ====
section
/-!
DEFINITION. Whether an instruction word of plan code decodes and may stand in it (R48 BAD_CODE, R160 to R164, R197 to
R213).
-/

namespace Sys2Proof.Machine

/-- Where a word may stand: it does not decode, it is K-only, it is one of bp.*, or anywhere. -/
inductive WordClass where
  | bad | kOnly | bp | any
  deriving DecidableEq, Repr

/-- The form of a vector instruction of a major and a minor opcode; none for one that raises ILLEGAL. -/
def vectorForm (maj fn : Nat) : Option VForm :=
  let f := fun (d a b : FldUse) (men : Nat) (ws : List (BitVec 3)) => some (VForm.mk d a b men ws)
  match maj with
  | 0x30 => some (vopForm fn)
  | 0x31 => some (vopForm fn)
  | 0x32 => if fn ≤ 11 then f .mask .any .any 1 wInt else none
  | 0x33 => if fn ≤ 11 then f .mask .any .any 1 wInt else none
  | 0x34 =>
    if 8 ≤ fn ∧ fn ≤ 12 then f .mask .any .any 1 wFp
    else if fn = 4 ∨ fn = 13 ∨ fn = 14 then f .any .any .unused 1 wFp
    else if fn = 15 then f .any .any .unused 1 wD
    else f .any .any .any 1 wFp
  | 0x35 =>
    match fn with
    | 4 => f .mask .mask .unused 0 [0]
    | 5 => f .mask .mask .unused 0 [0]
    | 6 => f .any .mask .unused 0 [0]
    | 7 => f .any .mask .unused 0 [0]
    | 8 => f .mask .unused .unused 0 [0]
    | 9 => f .mask .unused .unused 0 [0]
    | 10 => f .any .mask .unused 0 [0]
    | 11 => f .mask .any .unused 0 [0]
    | _ => if fn ≤ 3 then f .mask .mask .mask 0 [0] else none
  | 0x36 =>
    match fn with
    | 0 => f .any .any .unused 1 wInt
    | 1 => f .any .unused .any 1 wInt
    | 2 => f .any .any .any 0 wInt
    | 3 => f .any .any .any 0 wInt
    | 4 => f .any .unused .unused 1 wInt
    | 5 => f .any .any .unused 2 wInt
    | 6 => f .any .any .unused 1 [1, 2, 3]
    | 7 => f .any .any .unused 1 [1, 2, 3]
    | 8 => f .any .any .unused 1 [0, 1, 2]
    | _ => none
  | 0x37 =>
    if fn ≤ 8 then f .any .any .unused 1 wInt
    else if fn = 9 then f .any .any .unused 1 [4]
    else if fn ≤ 12 then f .any .any .unused 1 wFp else none
  | 0x38 => if fn ≤ 1 then some (vmemForm false) else if fn ≤ 3 then some (vmemForm true) else none
  | 0x39 => f .any .any .any 1 wInt
  | 0x3A =>
    match fn with
    | 0 => f .any .any .any 1 wInt
    | 1 => f .mask .any .any 1 wInt
    | 2 => f .any .any .any 2 wInt
    | 3 => f .any .any .any 1 wInt
    | 4 => f .any .any .any 1 wInt
    | 5 => f .any .any .any 0 wInt
    | _ => none
  | 0x3B => if fn ≤ 2 then f .any .any .any 1 wD else if fn = 3 then f .any .any .any 1 wInt else none
  | 0x3C => if fn = 0 then f .any .any .any 0 wInt else none
  | _ => none

/-- The fields of a V-format word (R197). -/
def vopsOf (w : Nat) : VOps :=
  { d := BitVec.ofNat 5 (bits w 25 21), a := BitVec.ofNat 5 (bits w 20 16), b := BitVec.ofNat 5 (bits w 15 11),
    men := bit w 10, msk := BitVec.ofNat 3 (bits w 9 7), w := BitVec.ofNat 3 (bits w 6 4) }

/-- The class of a control-register access by the table of R157. -/
def crClass (n : Nat) (wr : Bool) : WordClass :=
  match crAccess n with
  | none => .bad
  | some (p, k) =>
    if wr then (if p = .rw then .any else if k = .rw then .kOnly else .bad)
    else if p = .none then .kOnly else .any

/-- The class of an instruction word. -/
def wordClass (w : Nat) : WordClass :=
  let fn := bits w 10 0
  let ok := fun (b : Bool) => if b then WordClass.any else .bad
  match bits w 31 26 with
  | 0x00 => ok (decide (fn ≤ 0x0D) || (decide (0x10 ≤ fn) && decide (fn ≤ 0x13)))
  | 0x0F => .bad
  | 0x18 => ok (decide (bits w 25 21 ≤ 5))
  | 0x19 => .any
  | 0x1A => .any
  | 0x1B => ok (decide (fn ≤ 1))
  | 0x1C => ok (decide (fn ≤ 7) && decide (fn ≠ 3))
  | 0x20 => ok (Config.fpSelect (BitVec.ofNat 11 fn)).isSome
  | 0x21 => ok (Config.fmaSelect (BitVec.ofNat 6 w)).isSome
  | 0x24 =>
    match fn with
    | 0x01 => .any
    | 0x02 => .kOnly
    | 0x03 => .any
    | 0x04 => .kOnly
    | 0x10 => .bp
    | 0x11 => .bp
    | 0x12 => .bp
    | 0x20 => .kOnly
    | _ => .bad
  | 0x25 => crClass (bits w 15 0) false
  | 0x26 => crClass fn true
  | 0x28 => if fn = 3 then .kOnly else ok (decide (fn ≤ 2) && decide (bits w 15 11 ≤ 15))
  | 0x2C => if (Config.hoSelect (BitVec.ofNat 11 fn)).isSome then .kOnly else .bad
  | m =>
    if 0x30 ≤ m then
      match vectorForm m (bits w 3 0) with
      | none => .bad
      | some v => ok (v.ok (vopsOf w) && (decide (m ≠ 0x3B) || decide (bits w 3 0 ≠ 3) || decide (bits w 20 16 ≤ 30)))
    else ok (decide (m ≤ 0x17))

/-- The target of a branch or jump with an offset, as a byte distance from its own address (R159). -/
def branchDist (w : Nat) : Option Int :=
  let m := bits w 31 26
  if m = 0x18 then some (4 * toSigned 11 (bits w 10 0))
  else if m = 0x19 ∨ m = 0x1A then some (4 * toSigned 26 (bits w 25 0))
  else none

/-- A word at byte `at_` of an operator's code of n bytes may stand there. -/
def wordOk (klevel bpctl : Bool) (n at_ w : Nat) : Bool :=
  (match wordClass w with
   | .bad => false
   | .kOnly => klevel
   | .bp => klevel || bpctl
   | .any => true) &&
  (match branchDist w with
   | none => true
   | some d => decide (0 ≤ (at_ : Int) + d) && decide ((at_ : Int) + d < n))

/-- The first word of an operator's code that may not stand there, as a byte offset in the code. -/
def firstBadWord (klevel bpctl : Bool) (code : List Byte) : Option Nat :=
  ((List.range (code.length / 4)).find? fun k =>
    !wordOk klevel bpctl code.length (4 * k) (leAt code (4 * k) 4)).map (4 * ·)

end Sys2Proof.Machine
end

