-- ==== Sys2Proof/Machine/PlanParse.lean ====
section
/-!
DEFINITION. The parsed form of a plan image (R37 to R46, R109, R110, R116 to R148, R238 to R240). Parsing is total;
the checks of R48 decide whether the image is one.
-/

namespace Sys2Proof.Machine

/-! ## Sections (R39, R40) -/

/-- A section directory entry with the offset of the entry itself. -/
structure Sect where
  stype : Nat
  off : Nat
  size : Nat
  count : Nat
  ent : Nat
  deriving DecidableEq, Repr

/-- The section directory. -/
def sectsOf (img : List Byte) : List Sect :=
  (List.range (leAt img 0x1D 1)).map fun i =>
    let e := 0x80 + 16 * i
    { stype := leAt img e 2, off := leAt img (e + 4) 4, size := leAt img (e + 8) 4, count := leAt img (e + 12) 4,
      ent := e }

/-- The section of a type; an empty one when there is none. -/
def sectOf (img : List Byte) (t : Nat) : Sect :=
  ((sectsOf img).find? fun s => s.stype = t).getD { stype := t, off := 0, size := 0, count := 0, ent := 0 }

/-- The bytes of a section. -/
def sectBytes (img : List Byte) (t : Nat) : List Byte :=
  let s := sectOf img t
  (img.drop s.off).take s.size

def secPipe : Nat := 1
def secOper : Nat := 2
def secCode : Nat := 3
def secConst : Nat := 4
def secAuto : Nat := 5
def secSlot : Nat := 6
def secSig : Nat := 0xF0

/-! ## Entries (R41, R42, R45) -/

def pipeOf (b : List Byte) : PipeEnt :=
  { kind := leAt b 1 1, deps := leAt b 2 2, firstOp := leAt b 4 2, nops := leAt b 6 1, nstage := leAt b 7 1,
    breaker := leAt b 8 1, source := leAt b 0x0A 2, npart := leAt b 0x0C 2, work := leAt b 0x10 4,
    grantUnits := leAt b 0x14 2, grantUs := leAt b 0x18 4 }

def slotOf (b : List Byte) : SlotEnt :=
  { kind := leAt b 0 1, ty := { code := leAt b 1 1, tparam := leAt b 8 2 }, offset := leAt b 2 2, size := leAt b 4 2,
    flags := leAt b 6 1 }

/-! ## Expression records (R109, R110) -/

/-- The elements of the INSET set at an offset of the CONST section, typed by the operand; null where it does not
lie in the section. -/
def insetOf (con : List Byte) (off : Nat) (t : Ty) : Option (List Val) :=
  let n := leAt con off 4
  let b := con.drop (off + 4)
  if con.length < off + 4 ∨ 65536 < n then none
  else if t.isVar then
    let k := leAt b (4 * n) 4
    if b.length < 4 * (n + 1) + k ∨ !offsetsOk n (4 * (n + 1) + k) b then none else (List.range n).mapM (plainAt t n b)
  else
    let k := if t.isBool then (n + 7) / 8 else n * t.width
    if b.length < k then none else (List.range n).mapM (plainAt t n b)

/-- The constant of a CONST or CONSTREF term. -/
def constOf (con : List Byte) (e imm : Nat) (t : Ty) : Val :=
  if e = 2 then ofPlain t ((leBytes imm 8).take t.width)
  else
    let n := leAt con imm 4
    if con.length < imm + 4 + n ∨ (t.code = 13 ∧ n ≠ 16) then .null else ofPlain t ((con.drop (imm + 4)).take n)

/-- The operand types that a term finds, for the sets of INSET. -/
def topTy (cols : Nat → Option Ty) (slots : List SlotEnt) (stk : List Ty) (x : Term) : List Ty :=
  (typeTerm cols slots stk { x with cval := if x.eop = 0x41 then .bool true else x.cval }).getD []

/-- The terms of a record, each with its constant or its set; a set that is malformed leaves `cval` null. -/
def termsOf (con : List Byte) (cols : Nat → Option Ty) (slots : List SlotEnt) : Nat → Nat → List Ty → List Term
  | 0, _, _ => []
  | n + 1, off, stk =>
    let b := (con.drop off).take 16
    let t : Ty := { code := leAt b 1 1, tparam := leAt b 2 2 }
    let e := leAt b 0 1
    let imm := leAt b 8 8
    let set := if e = 0x41 then insetOf con imm (stk.headD tyBool) else some []
    let x : Term := {
      eop := e, ty := t, mode := leAt b 4 1, imm := imm,
      cval := if e = 2 ∨ e = 3 then constOf con e imm t else if e = 0x41 ∧ set.isSome then .bool true else .null,
      set := set.getD [] }
    x :: termsOf con cols slots n (off + 16) (topTy cols slots stk x)

/-- The expression record at an offset of the CONST section. -/
def exprOf (con : List Byte) (cols : Nat → Option Ty) (slots : List SlotEnt) (off : Nat) : List Term :=
  termsOf con cols slots (min 256 (leAt con off 2)) (off + 8) []

/-! ## Columns of a pipeline (R103) -/

/-- The columns defined at a point of a pipeline, with their types. -/
abbrev Env := List (Nat × Ty)

def Env.col (e : Env) (c : Nat) : Option Ty := (e.find? fun x => x.1 = c).map (·.2)
def Env.ty (e : Env) (c : Nat) : Ty := (e.col c).getD tyBool

/-- Result type of an aggregate function on an argument type (R135); none where it is rejected. -/
def aggTy (fn : Nat) (t : Ty) : Option Ty :=
  match fn with
  | 1 => some tyI64
  | 2 => some tyI64
  | 3 => if t.isSigned then some tyI64 else if t.isUnsigned then some tyU64
         else if t.isDec then some { code := 13, tparam := t.tparam } else if t.isFloat then some tyF64 else none
  | 4 => if t.isBool then none else some t
  | 5 => if t.isBool then none else some t
  | 6 => if t.isInt || t.isFloat then some tyF64
         else if t.isDec then some { code := 13, tparam := min (t.tparam + 6) 38 } else none
  | 7 => if t.isInt then some t else none
  | 8 => if t.isInt then some t else none
  | 9 => if t.isBool then some t else none
  | 10 => if t.isBool then some t else none
  | _ => none

/-- The last operator of a pipeline. -/
def lastOp (p : Plan) (n : Nat) : Option OpEnt := (p.pipes[n]?).bind fun e => p.ops[e.firstOp + e.nops - 1]?

/-- The arguments of the last operator of a pipeline. -/
def lastArgs (p : Plan) (n : Nat) : Option OpArgs := (lastOp p n).map fun o => o.args

/-- The columns that an operator defines, `done` holding the columns at the end of each earlier pipeline. -/
def opDefs (p : Plan) (done : List Env) (env : Env) (o : OpEnt) : Env :=
  match o.args with
  | .scan _ _ cols => cols.map fun c => (c.pcol, c.ty)
  | .project _ outs => outs.map fun x => (x.1, (x.2.getLast?.map (·.ty)).getD tyBool)
  | .hashProbe b _ _ pays _ =>
    match lastArgs p b with
    | some (.hashBuild _ bp _ _) => pays.map fun x => (x.2, (done.getD b []).ty (bp.getD x.1 0))
    | _ => []
  | .matchOp _ _ _ h r q _ _ =>
    (if h = 255 then [] else [(h, tyBool)]) ++ (if r = 255 then [] else [(r, tyU32)]) ++
    (if q = 255 then [] else [(q, tyU32)])
  | .merge src cols =>
    match lastArgs p src with
    | some (.sort keys _ pays _) => cols.map fun x =>
        (x.2, (done.getD src []).ty (if 128 ≤ x.1 then (keys.map (·.col)).getD (x.1 - 128) 0 else pays.getD x.1 0))
    | _ => []
  | .agg true src _ _ keys fns =>
    match lastArgs p src with
    | some (.agg false _ _ _ pk pf) =>
      let e := done.getD src []
      ((keys.zip pk).map fun x => (x.1.2.2, e.ty x.2.1)) ++
      ((fns.zip pf).map fun x => (x.1.ocol, (aggTy x.2.fn (e.ty x.2.col)).getD tyI64))
    | _ => []
  | .udo _ _ outs => outs
  | _ => env.filter fun _ => false

/-- The columns after an operator: those dropped by PROJECT are gone, and after UDO its outputs alone stand (R120,
R149; log 61). -/
def envAfter (p : Plan) (done : List Env) (env : Env) (o : OpEnt) : Env :=
  match o.args with
  | .project drop _ => (env.filter fun x => !bit drop x.1) ++ opDefs p done env o
  | .udo _ _ outs => outs
  | _ => env ++ opDefs p done env o

/-! ## Argument records (R116 to R148) -/

/-- Entries of k bytes from an offset of a record. -/
def entsOf {α : Type} (b : List Byte) (off k n : Nat) (f : List Byte → α) : List α :=
  (List.range n).map fun i => f ((b.drop (off + k * i)).take k)

/-- A key entry of a sort. -/
def sortKey (b : List Byte) : KeyEnt :=
  { col := leAt b 0 1, coll := leAt b 2 1, desc := bit (leAt b 1 1) 0, nullsFirst := bit (leAt b 1 1) 1, pre := leAt b 3 1 }

/-- A key entry that holds a column and a collation. -/
def plainKey (b : List Byte) : KeyEnt := { col := leAt b 0 1, coll := leAt b 1 1, desc := false, nullsFirst := false, pre := 0 }

/-- The argument record b of an operator, which stands at offset `off` of the CONST section. -/
def argsOf (con : List Byte) (slots : List SlotEnt) (env : Env) (opc off : Nat) (b : List Byte) : OpArgs :=
  let n0 := leAt b 0 1
  let n1 := leAt b 1 1
  let n2 := leAt b 2 1
  let n3 := leAt b 3 1
  match opc with
  | 0x01 => .scan n0 n2 (entsOf b 8 8 n1 fun e => {
      icol := leAt e 0 1, pcol := leAt e 1 1, ty := { code := leAt e 2 1, tparam := leAt e 4 2 },
      codes := bit (leAt e 3 1) 0 })
  | 0x02 => .filter (exprOf con env.col slots off)
  | 0x03 => .project (leAt b 8 8) (entsOf b 16 8 n0 fun e => (leAt e 0 1, exprOf con env.col slots (off + leAt e 4 4)))
  | 0x04 => .hashBuild (entsOf b 8 4 n0 plainKey) (entsOf b (8 + 4 * n0) 4 n1 fun e => leAt e 0 1) (bit n2 0) (leAt b 4 2)
  | 0x05 => .hashProbe n0 n1 (entsOf b 8 4 n2 fun e => leAt e 0 1)
      (entsOf b (8 + 4 * n2) 4 n3 fun e => (leAt e 0 1, leAt e 1 1)) []
  | 0x06 => .matchOp n0 n1 n2 (leAt b 4 1) (leAt b 5 1) (leAt b 6 1) (leAt b 7 1)
      (entsOf b 8 4 n3 fun e => { col := leAt e 0 1, bitoff := leAt e 1 1, bits := leAt e 2 1 })
  | 0x07 => .sort (entsOf b 8 4 n0 sortKey) (bit n1 0) (entsOf b (8 + 4 * n0) 4 n2 fun e => leAt e 0 1) (leAt b 4 4)
  | 0x08 => .merge n0 (entsOf b 8 4 n1 fun e => (leAt e 0 1, leAt e 1 1))
  | 0x09 => .agg (decide (n0 = 1)) n3 (leAt b 4 2) (leAt b 6 2)
      (entsOf b 8 4 n1 fun e => (leAt e 0 1, leAt e 1 1, leAt e 2 1))
      (entsOf b (8 + 4 * n1) 4 n2 fun e => { fn := leAt e 0 1, col := leAt e 1 1, ocol := leAt e 2 1, mode := leAt e 3 1 })
  | 0x0A => .topk (entsOf b 8 4 n0 sortKey) (bit n1 0) (entsOf b (8 + 4 * n0) 4 n2 fun e => leAt e 0 1) (leAt b 4 4)
  | 0x0B => .verify (leAt b 0 8)
  | 0x0C => .exchange n0 (leAt b 4 2) (entsOf b 8 4 n1 plainKey) (entsOf b (8 + 4 * n1) 4 n2 fun e => leAt e 0 1)
  | 0x0D => .emit n0 (entsOf b 8 4 n1 fun e => (leAt e 0 1, leAt e 1 1))
  | _ => .udo (leAt b 4 4) (entsOf b 8 4 n0 fun e => leAt e 0 1)
      (entsOf b (8 + 4 * n0) 4 n1 fun e => (leAt e 0 1, { code := leAt e 1 1, tparam := leAt e 2 2 }))

/-- Adds the residual of a HASH_PROBE, which sees the taken payload columns too (R123). -/
def withResid (p : Plan) (done : List Env) (con : List Byte) (env : Env) (o : OpEnt) : OpEnt :=
  match o.args with
  | .hashProbe b j ks ps _ =>
    let r := leAt con (o.argsOff + 4) 4
    if r = 0 then o
    else { o with args := .hashProbe b j ks ps (exprOf con (env ++ opDefs p done env o).col p.slots (o.argsOff + r)) }
  | _ => o

/-- An operator entry without its arguments. -/
def opOf (b : List Byte) : OpEnt :=
  { opc := leAt b 0 1, pipe := leAt b 1 1, stage := leAt b 2 1, flags := leAt b 3 1, codeOff := leAt b 4 4,
    codeLen := leAt b 8 4, argsOff := leAt b 0x0C 4, argsLen := leAt b 0x10 4, flows := leAt b 0x14 2, hq := leAt b 0x16 2,
    args := .verify 0 }

/-- Parses the arguments of the operators of one pipeline, in order; the columns at its end. -/
def parseOps (con : List Byte) (done : List Env) : List Nat → Env → Plan → Plan × Env
  | [], env, p => (p, env)
  | k :: t, env, p =>
    match p.ops[k]? with
    | none => (p, env)
    | some o =>
      let o := { o with args := argsOf con p.slots env o.opc o.argsOff ((con.drop o.argsOff).take o.argsLen) }
      let o := withResid p done con env o
      parseOps con done t (envAfter p done env o) { p with ops := p.ops.set k o }

/-- The operator numbers of a pipeline. -/
def PipeEnt.opNums (e : PipeEnt) : List Nat := List.range' e.firstOp e.nops

/-- Parses pipeline after pipeline: the plan and the columns at the end of each. -/
def parsePipes (con : List Byte) : List PipeEnt → List Env → Plan → Plan × List Env
  | [], done, p => (p, done)
  | e :: t, done, p =>
    let r := parseOps con done e.opNums [] p
    parsePipes con t (done ++ [r.2]) r.1

/-! ## Automata (R238 to R240) -/

/-- Offset in the image and size of each automaton image. -/
def autoSpans (img : List Byte) : List (Nat × Nat) :=
  let s := sectOf img secAuto
  (List.range s.count).map fun i => (s.off + leAt img (s.off + 8 * i) 4, leAt img (s.off + 8 * i + 4) 4)

/-- An automaton image. -/
def autoOf (b : List Byte) : AutoImg :=
  { coll := leAt b 5 1, nclass := leAt b 6 1, npat := leAt b 0x0C 2, start := leAt b 0x0E 2,
    classMap := (List.range 256).map fun i => leAt b (0x40 + i) 1,
    states := (List.range (leAt b 8 4)).map fun j => BitVec.ofNat 512 (leAt b (0x140 + 64 * j) 64) }

/-! ## The whole image -/

/-- Entries of a table section. -/
def tableOf {α : Type} (img : List Byte) (t n k : Nat) (f : List Byte → α) : List α :=
  let s := sectOf img t
  (List.range (min n (s.size / k))).map fun i => f ((img.drop (s.off + k * i)).take k)

/-- The parsed image with the columns at the end of each pipeline. -/
def parseWith (img : List Byte) : Plan × List Env :=
  let p : Plan := {
    uid := leAt img 0x10 8, pflags := leAt img 0x18 4, pbSize := leAt img 0x22 2, prs := leAt img 0x24 2,
    pipes := tableOf img secPipe (leAt img 0x1C 1) 64 pipeOf, ops := tableOf img secOper (leAt img 0x20 2) 32 opOf,
    slots := tableOf img secSlot (leAt img 0x1E 2) 16 slotOf,
    autos := (autoSpans img).map fun x => autoOf ((img.drop x.1).take x.2), code := sectBytes img secCode,
    image := img, defaults := [] }
  parsePipes (sectBytes img secConst) p.pipes [] p

def parsePlan (img : List Byte) : Plan := (parseWith img).1

/-- Columns at the end of each pipeline of a plan. -/
def planEnvs (p : Plan) : List Env :=
  p.pipes.foldl (fun done e => done ++ [(e.opNums.filterMap (p.ops[·]?)).foldl (envAfter p done) []]) []

/-- Columns before operator k of a pipeline. -/
def envBefore (p : Plan) (n k : Nat) : Env :=
  match p.pipes[n]? with
  | none => []
  | some e =>
    let done := planEnvs p
    ((e.opNums.take k).filterMap (p.ops[·]?)).foldl (envAfter p done) []

/-- PFLAGS. -/
def Plan.point (p : Plan) : Bool := bit p.pflags 0
def Plan.kcode (p : Plan) : Bool := bit p.pflags 1
def Plan.bpctl (p : Plan) : Bool := bit p.pflags 2
def Plan.homekey (p : Plan) : Bool := bit p.pflags 3

/-- OFLAGS. -/
def OpEnt.klevel (o : OpEnt) : Bool := bit o.flags 0
def OpEnt.flow (o : OpEnt) : Bool := bit o.flags 1
def OpEnt.handoff (o : OpEnt) : Bool := bit o.flags 2

end Sys2Proof.Machine
end

