-- ==== Sys2Proof/Machine/PlanCheck.lean ====
section
/-!
DEFINITION. Signature blocks (R529 to R531), and the checks that PLAN_LOAD makes on an image (R36 to R46, R48, R49,
R103, R109 to R148, R238 to R242) and on a parameter block (R57, R59, R69). Every check answers the byte offsets of
the fields that fail it.
-/

namespace Sys2Proof.Machine

/-! ## The dual signature block -/

/-- Why a block does not verify (R530, R483). -/
def sigBadFormat : Nat := 1
def sigRsa : Nat := 3
def sigSlh : Nat := 4

/-- The check of R530 on a block that covers some bytes for a purpose; none when it verifies. -/
def dsbCheck (s : State) (purpose : Nat) (covered d : List Byte) : Option Nat :=
  let k := leAt d 7 1
  let n := (d.drop 0x40).take 384
  let pk := (d.drop 0x1C0).take 48
  if d.length ≠ 17152 ∨ leAt d 0 4 ≠ 0x5344515A ∨ leAt d 4 2 ≠ 1 ∨ leAt d 6 1 ≠ purpose ∨ 3 < k ∨
     !zeroAt d 0x1F0 16 ∨ !zeroAt d 0x42E0 32 ∨ s.sec.revoked.getLsbD k ∨ sha384 n ≠ Config.rsaKeyHash k ∨
     sha384 pk ≠ Config.slhKeyHash k ∨ leAt d 8 8 ≠ covered.length ∨ (d.drop 0x10).take 48 ≠ sha384 covered then
    some sigBadFormat
  else if !Config.rsaVerify n (d.take 64) ((d.drop 0x200).take 384) then some sigRsa
  else if !Config.slhVerify pk (d.take 64) ((d.drop 0x380).take 16224) then some sigSlh
  else none

/-! ## Lists of failing offsets -/

/-- No failure, or the offset of the field. -/
def need (ok : Bool) (off : Nat) : List Nat := if ok then [] else [off]

/-- The failures of a list of entries of k bytes that start at an offset. -/
def eachEnt {α : Type} (off k : Nat) (l : List α) (f : α → Nat → List Nat) : List Nat :=
  (l.zipIdx.map fun x => f x.1 (off + k * x.2)).flatten

/-- The failures of every number below n. -/
def eachBelow (n : Nat) (f : Nat → List Nat) : List Nat := ((List.range n).map f).flatten

/-- The lowest offset that fails. -/
def lowest (l : List Nat) : Option Nat := l.foldl (fun m x => minOpt m (some x)) none

/-- Whether x lies in a range. -/
def within (lo x hi : Nat) : Bool := decide (lo ≤ x) && decide (x ≤ hi)

/-! ## Header and sections: BAD_SECTION (R37 to R40) -/

/-- Entry size of the sections made of entries of fixed size. -/
def sectEnt (t : Nat) : Nat := if t = 1 then 64 else if t = 2 then 32 else if t = 6 then 16 else 0

/-- Entries that the header names for a section. -/
def sectCount (img : List Byte) (t : Nat) : Nat :=
  if t = 1 then leAt img 0x1C 1 else if t = 2 then leAt img 0x20 2 else leAt img 0x1E 2

/-- The rules of one section entry. -/
def sectFails (img : List Byte) (all : List Sect) (s : Sect) : List Nat :=
  let n := leAt img 0x1D 1
  let before := all.filter fun x => x.ent < s.ent
  need ((decide (1 ≤ s.stype) && decide (s.stype ≤ 6)) || decide (s.stype = secSig)) s.ent ++
  need (!before.any fun x => x.stype = s.stype) s.ent ++
  need (zeroAt img (s.ent + 2) 2) (s.ent + 2) ++
  need (decide (s.off % 64 = 0) && decide (0x80 + 16 * n ≤ s.off) &&
    !before.any fun x => decide (s.off < x.off + x.size) && decide (x.off < s.off + s.size)) (s.ent + 4) ++
  need (decide (s.stype ≠ secSig) ||
    all.all (fun x => decide (x.off ≤ s.off))) (s.ent + 4) ++
  need (decide (s.off + s.size ≤ img.length)) (s.ent + 8) ++
  need (if sectEnt s.stype ≠ 0 then decide (s.size = s.count * sectEnt s.stype)
        else if s.stype = secSig then decide (s.size = 17152)
        else decide (s.stype ≠ secCode) || decide (s.size % 4 = 0)) (s.ent + 8) ++
  need (if sectEnt s.stype ≠ 0 then decide (s.count = sectCount img s.stype)
        else decide (s.stype = secAuto) || decide (s.count = 0)) (s.ent + 0xC)

/-- Reserved fields of the table entries. -/
def reservedFails (img : List Byte) : List Nat :=
  let pipe := (sectOf img secPipe).off
  let oper := (sectOf img secOper).off
  let slot := (sectOf img secSlot).off
  eachBelow (sectOf img secPipe).count (fun i =>
    let e := pipe + 64 * i
    need (zeroAt img (e + 9) 1) (e + 9) ++ need (zeroAt img (e + 0xE) 2) (e + 0xE) ++
    need (zeroAt img (e + 0x16) 2) (e + 0x16) ++ need (zeroAt img (e + 0x1C) 36) (e + 0x1C)) ++
  eachBelow (sectOf img secOper).count (fun i =>
    let e := oper + 32 * i
    need (decide (leAt img (e + 3) 1 < 8)) (e + 3) ++ need (zeroAt img (e + 0x18) 8) (e + 0x18)) ++
  eachBelow (sectOf img secSlot).count fun i =>
    let e := slot + 16 * i
    need (decide (leAt img (e + 6) 1 < 4)) (e + 6) ++ need (zeroAt img (e + 7) 1) (e + 7) ++
    need (zeroAt img (e + 0xA) 6) (e + 0xA)

def sectionFails (img : List Byte) : List Nat :=
  let all := sectsOf img
  let has := fun (t : Nat) => all.any fun x => x.stype = t
  need (decide (leAt img 0x18 4 < 16)) 0x18 ++ need (within 1 (leAt img 0x1D 1) 16) 0x1D ++ need (zeroAt img 0x28 88) 0x28 ++
  need (has secPipe && has secOper && has secCode) 0x1D ++
  need (has secSlot == decide (leAt img 0x1E 2 ≠ 0)) 0x1E ++
  (all.map (sectFails img all)).flatten ++ reservedFails img

/-! ## Pipelines: BAD_PIPELINE (R41, R44) -/

/-- The operator code in which a breaker's pipeline ends. -/
def breakerOpc (b : Nat) : Nat := if b = 0 then 0x0D else if b = 1 then 0x04 else if b = 2 then 0x07 else if b = 3 then 0x09 else 0x0C

def pipeFails (p : Plan) (off n : Nat) (id : Nat) (e : PipeEnt) : List Nat :=
  let o := off + 64 * n
  let ops := e.opNums.filterMap (p.ops[·]?)
  let src := p.pipes[e.source]?
  need (decide (id = n)) o ++
  need (decide (e.kind ≤ 2)) (o + 1) ++
  need (decide (e.deps < 2 ^ n)) (o + 2) ++
  need (decide (e.firstOp + e.nops ≤ p.ops.length)) (o + 4) ++
  need ((ops.zipIdx.all fun x => decide (x.1.opc ≠ 0x01) || (decide (x.2 = 0) && decide (e.kind ≠ 2))) &&
    (decide (e.kind ≠ 0) || (ops.head?.any fun x => x.opc = 0x01))) (o + 4) ++
  need (within 1 e.nops 64) (o + 6) ++
  need (within 1 e.nstage 64) (o + 7) ++
  need (decide (e.breaker ≤ 4)) (o + 8) ++
  need (ops.getLast?.any fun x => x.opc = breakerOpc e.breaker) (o + 8) ++
  need (decide (e.breaker = 0) || p.pipes.zipIdx.any fun x => decide (n < x.2) && bit x.1.deps n) (o + 8) ++
  need (if e.kind = 0 then (p.slots[e.source]?).any fun x => x.kind = 2
        else if e.kind = 1 then bit e.deps e.source && decide (e.source < n) &&
          src.any fun x => decide (x.breaker = 1) || decide (x.breaker = 3) || decide (x.breaker = 4)
        else decide (e.source = 0xFFFF)) (o + 0xA) ++
  need (if e.kind = 1 then within 1 e.npart 4096 else decide (e.npart = 0)) (o + 0xC)

def pipelineFails (p : Plan) (img : List Byte) : List Nat :=
  let off := (sectOf img secPipe).off
  need (within 1 (leAt img 0x1C 1) 16) 0x1C ++
  (p.pipes.zipIdx.map fun x => pipeFails p off x.2 (leAt img (off + 64 * x.2) 1) x.1).flatten ++
  need (p.pipes.any fun e => e.breaker = 0) (off + 8)

/-! ## Argument records: BAD_OPERATOR (R103, R109 to R148) -/

/-- Failures of the expression record at an offset of the CONST section that stands at `base` in the image, whose
value must be of a type, when one is named. -/
def exprFails (con : List Byte) (base : Nat) (p : Plan) (env : Env) (off : Nat) (want : Option Ty) : List Nat :=
  let n := leAt con off 2
  let at_ := base + off
  if !within 1 n 256 ∨ con.length < off + 8 + 16 * n then [at_]
  else
    need (zeroAt con (off + 2) 6) (at_ + 2) ++
    eachBelow n (fun k => need (zeroAt con (off + 8 + 16 * k + 5) 3) (at_ + 8 + 16 * k + 5)) ++
    match typeExpr env.col p.slots 0 [] (exprOf con env.col p.slots off) with
    | .error k => [at_ + 8 + 16 * k]
    | .ok t => need (match want with | none => true | some w => decide (t = w)) at_

/-- A column is defined. -/
def isCol (env : Env) (c : Nat) : Bool := (env.col c).isSome

/-- A column may be defined: it is a pipeline column, it is not defined, and no earlier entry of the record defines it. -/
def newCol (env : Env) (earlier : List Nat) (c : Nat) : Bool :=
  decide (c < 64) && (env.col c).isNone && !earlier.contains c

/-- Failures of a list of columns that a record defines: entry i holds its column at byte `sub` of k bytes. -/
def defFails (env : Env) (off k sub : Nat) (cs : List Nat) : List Nat :=
  eachBelow cs.length fun i => need (newCol env (cs.take i) (cs.getD i 0)) (off + k * i + sub)

/-- Value bytes of a normalised key (R268). -/
def normBytes (t : Ty) (pre : Nat) : Nat := 1 + (if t.isStr then pre + 1 else t.width)

/-- Bytes of the normalised keys of a sort record (R267). -/
def normLen (env : Env) (keys : List KeyEnt) (stable : Bool) : Nat :=
  (keys.map fun k => normBytes (env.ty k.col) k.pre).sum + (if stable then 6 else 0)

/-- The breaker of a pipeline, when a pipeline's DEPS name it. -/
def depBreaker (p : Plan) (e : PipeEnt) (n : Nat) : Option Nat :=
  if bit e.deps n then (p.pipes[n]?).map (·.breaker) else none

/-- Failures of the key and payload entries of a SORT or TOPK record (R129). -/
def sortFails (env : Env) (b : List Byte) (a : Nat) (keys : List KeyEnt) (pays : List Nat) (stable : Bool) : List Nat :=
  let pay := 8 + 4 * keys.length
  need (within 1 keys.length 8 && decide (normLen env keys stable ≤ 64)) a ++
  need (decide (leAt b 1 1 < 2)) (a + 1) ++ need (decide (pays.length ≤ 56)) (a + 2) ++ need (zeroAt b 3 1) (a + 3) ++
  eachEnt (a + 8) 4 keys (fun k o =>
    need (isCol env k.col) o ++ need (decide (leAt b (o - a + 1) 1 < 4)) (o + 1) ++
    need (collOk k.coll (env.ty k.col)) (o + 2) ++
    need (if (env.ty k.col).isStr then within 1 k.pre 63 else decide (k.pre = 0)) (o + 3)) ++
  eachEnt (a + pay) 4 pays fun c o => need (isCol env c) o ++ need (zeroAt b (o - a + 1) 3) (o + 1)

/-- The argument-record length of an operator: the bytes its fixed parts take. -/
def argsNeed (a : OpArgs) (con : List Byte) (off : Nat) : Nat :=
  match a with
  | .scan _ _ cs => 8 + 8 * cs.length
  | .filter _ => 8 + 16 * leAt con off 2
  | .project _ os => 16 + 8 * os.length
  | .hashBuild ks ps _ _ => 8 + 4 * (ks.length + ps.length)
  | .hashProbe _ _ ks ps _ => 8 + 4 * (ks.length + ps.length)
  | .matchOp _ _ _ _ _ _ _ fs => 8 + 4 * fs.length
  | .sort ks _ ps _ => 8 + 4 * (ks.length + ps.length)
  | .topk ks _ ps _ => 8 + 4 * (ks.length + ps.length)
  | .merge _ cs => 8 + 4 * cs.length
  | .agg _ _ _ _ ks fs => 8 + 4 * (ks.length + fs.length)
  | .verify _ => 8
  | .exchange _ _ ks cs => 8 + 4 * (ks.length + cs.length)
  | .emit _ cs => 8 + 4 * cs.length
  | .udo _ is os => 8 + 4 * (is.length + os.length)

/-- What the operator just before and just after in the pipeline is, for the rules of order. -/
structure OpPlace where
  pipe : Nat
  ent : PipeEnt
  /-- position in the pipeline -/
  pos : Nat
  prev : Option OpEnt
  next : Option OpEnt
  /-- offset of the operator entry -/
  off : Nat
  deriving DecidableEq, Repr

/-- The last operator of its pipeline. -/
def OpPlace.isLast (w : OpPlace) : Bool := decide (w.pos + 1 = w.ent.nops)

/-- The arguments of the operator just before. -/
def OpPlace.prevArgs (w : OpPlace) : Option OpArgs := w.prev.map fun x => x.args

def scanFails (p : Plan) (w : OpPlace) (b : List Byte) (a src pipe : Nat) (cols : List ScanCol) : List Nat :=
  let lim := match src, lastArgs p pipe with
    | 0, _ => 64
    | 1, some (.exchange _ _ _ cs) => cs.length
    | 2, some (.hashBuild _ ps _ _) => ps.length
    | _, _ => 0
  need (if w.ent.kind = 0 then decide (src = 0) else decide (src = 1) || decide (src = 2)) a ++
  need (within 1 cols.length 64) (a + 1) ++
  need (if src = 0 then decide (pipe = 0)
    else decide (w.ent.kind = 1) && decide (w.ent.source = pipe) &&
      decide (depBreaker p w.ent pipe = some (if src = 1 then 4 else 1))) (a + 2) ++
  need (zeroAt b 3 5) (a + 3) ++
  eachEnt (a + 8) 8 cols (fun c o =>
    need (decide (c.icol < lim)) o ++ need c.ty.ok (o + 2) ++ need (decide (leAt b (o - a + 3) 1 < 2)) (o + 3) ++
    need (zeroAt b (o - a + 6) 2) (o + 6)) ++
  defFails [] (a + 8) 8 1 (cols.map (·.pcol))

def probeFails (p : Plan) (done : List Env) (con : List Byte) (base : Nat) (w : OpPlace) (env : Env) (o : OpEnt) (b : List Byte)
    (a build jk : Nat) (keys : List Nat) (pays : List (Nat × Nat)) : List Nat :=
  let benv := done.getD build []
  let bk : List KeyEnt × List Nat × Bool := match lastArgs p build with
    | some (.hashBuild ks ps m _) => (ks, ps, m)
    | _ => ([], [], false)
  let r := leAt b 4 4
  need (decide (depBreaker p w.ent build = some 1)) a ++
  need (decide (jk ≤ 6) && ((decide (jk ≠ 2) && decide (jk ≠ 3)) || bk.2.2)) (a + 1) ++
  need (decide (keys.length = bk.1.length)) (a + 2) ++
  need (decide (pays.length ≤ 56) && (decide (jk < 4) || decide (pays = []))) (a + 3) ++
  need (decide (jk ≠ 6) || decide (r = 0)) (a + 4) ++
  eachEnt (a + 8) 4 (keys.zip bk.1) (fun k q => need (isCol env k.1 && decide (env.ty k.1 = benv.ty k.2.col)) q) ++
  eachEnt (a + 8) 4 keys (fun _ q => need (zeroAt b (q - a + 1) 3) (q + 1)) ++
  eachEnt (a + 8 + 4 * keys.length) 4 pays (fun x q =>
    need (decide (x.1 < bk.2.1.length)) q ++ need (zeroAt b (q - a + 2) 2) (q + 2)) ++
  defFails env (a + 8 + 4 * keys.length) 4 1 (pays.map (·.2)) ++
  (if r = 0 then [] else exprFails con base p (env ++ opDefs p done env o) (o.argsOff + r) (some tyBool))

/-- Fields of a TERNARY search do not overlap: entry i against those before it. -/
def fieldsApart (fs : List MatchField) (f : MatchField) : Bool :=
  decide (f.bitoff + f.bits ≤ 144) && fs.all fun g => decide (f.bitoff + f.bits ≤ g.bitoff) || decide (g.bitoff + g.bits ≤ f.bitoff)

def matchFails (p : Plan) (env : Env) (b : List Byte) (a mm mk ts h r q coll : Nat) (fs : List MatchField) : List Nat :=
  let outs := [h, r, q]
  need (decide (mm ≤ 1)) a ++ need (decide (mk ≤ 2)) (a + 1) ++
  need (if mm = 0 then (p.slots[ts]?).any fun e => e.kind = 4 else decide (ts < p.autos.length)) (a + 2) ++
  need (if mm = 0 then within 1 fs.length 8 else decide (fs.length = 1)) (a + 3) ++
  eachBelow 3 (fun i => need (decide (outs.getD i 0 = 255) || newCol env (outs.take i) (outs.getD i 0)) (a + 4 + i)) ++
  need (if mm = 0 then decide (coll = 0) else (p.autos[ts]?).any fun x => decide (x.coll = coll) &&
    collOk coll (env.ty ((fs.head?.map (·.col)).getD 0))) (a + 7) ++
  eachBelow fs.length fun i =>
    let f := fs.getD i { col := 0, bitoff := 0, bits := 0 }
    let o := a + 8 + 4 * i
    let t := env.ty f.col
    need (isCol env f.col && (if mm = 0 then t.isInt || t.isDate || t.isTime || (decide (t.code = 16) && decide (t.tparam ≤ 18))
      else t.isStr)) o ++
    need (decide (mm ≠ 0) || fieldsApart (fs.take i) f) (o + 1) ++
    need (decide (mm ≠ 0) || (if t.code = 16 then decide (f.bits = 8 * t.tparam) else within 1 f.bits 64)) (o + 2) ++
    need (zeroAt b (o - a + 3) 1) (o + 3)

/-- MODE of an aggregate function (R134). -/
def aggModeOk (fn mode : Nat) (t : Ty) : Bool :=
  if fn = 3 ∨ fn = 6 then modeOk mode ((aggTy fn t).getD tyI64) false
  else if fn = 4 ∨ fn = 5 then collOk mode t else decide (mode = 0)

def aggFails (p : Plan) (w : OpPlace) (env : Env) (b : List Byte) (a : Nat) (final : Bool) (src npart tbl : Nat)
    (keys : List (Nat × Nat × Nat)) (fns : List AggFn) : List Nat :=
  let pk : List (Nat × Nat × Nat) × List AggFn := match lastArgs p src with
    | some (.agg false _ _ _ ks fs) => (ks, fs)
    | _ => ([], [])
  let f0 := 8 + 4 * keys.length
  let kOff := fun (i : Nat) => a + 8 + 4 * i
  let fOff := fun (i : Nat) => a + f0 + 4 * i
  let key := fun (i : Nat) => keys.getD i (0, 0, 0)
  let fn := fun (i : Nat) => fns.getD i { fn := 0, col := 0, ocol := 0, mode := 0 }
  need (decide (leAt b 0 1 ≤ 1)) a ++
  need (decide (keys.length ≤ 8) && decide (1 ≤ keys.length + fns.length)) (a + 1) ++
  need (decide (fns.length ≤ 32)) (a + 2) ++
  eachBelow keys.length (fun i => need (zeroAt b (8 + 4 * i + 3) 1) (kOff i + 3)) ++
  (if final then
    need (decide (w.pos = 0)) w.off ++
    need (decide (keys.length = pk.1.length)) (a + 1) ++ need (decide (fns.length = pk.2.length)) (a + 2) ++
    need (decide (depBreaker p w.ent src = some 3) && (decide (w.ent.kind ≠ 1) || decide (w.ent.source = src))) (a + 3) ++
    need (decide (npart = 0)) (a + 4) ++ need (decide (tbl = 0)) (a + 6) ++
    eachBelow keys.length (fun i =>
      need (decide ((key i).1 = 0)) (kOff i) ++
      need ((pk.1[i]?).any fun x => decide (x.2.1 = (key i).2.1)) (kOff i + 1)) ++
    eachBelow fns.length (fun i =>
      need ((pk.2[i]?).any fun x => decide (x.fn = (fn i).fn)) (fOff i) ++ need (decide ((fn i).col = 0)) (fOff i + 1) ++
      need ((pk.2[i]?).any fun x => decide (x.mode = (fn i).mode)) (fOff i + 3)) ++
    eachBelow keys.length (fun i => need (newCol env ((keys.map (·.2.2)).take i) (key i).2.2) (kOff i + 2)) ++
    eachBelow fns.length fun i =>
      need (newCol env (keys.map (·.2.2) ++ (fns.map (·.ocol)).take i) (fn i).ocol) (fOff i + 2)
  else
    need (w.isLast && decide (w.ent.breaker = 3)) w.off ++
    need (decide (src = 0)) (a + 3) ++ need (within 1 npart 4096) (a + 4) ++
    need (within 1 tbl (w.ent.work / 4096)) (a + 6) ++
    eachBelow keys.length (fun i =>
      need (isCol env (key i).1) (kOff i) ++ need (collOk (key i).2.1 (env.ty (key i).1)) (kOff i + 1) ++
      need (decide ((key i).2.2 = 0)) (kOff i + 2)) ++
    eachBelow fns.length fun i =>
      let f := fn i
      need (within 1 f.fn 10 && (decide (f.fn = 1) || (aggTy f.fn (env.ty f.col)).isSome)) (fOff i) ++
      need (if f.fn = 1 then decide (f.col = 0) else isCol env f.col) (fOff i + 1) ++
      need (decide (f.ocol = 0)) (fOff i + 2) ++ need (aggModeOk f.fn f.mode (env.ty f.col)) (fOff i + 3))

def emitFails (p : Plan) (env : Env) (b : List Byte) (a slot : Nat) (cols : List (Nat × Nat)) : List Nat :=
  let k := ((p.slots[slot]?).map (·.kind)).getD 0
  let tys := cols.map fun c => env.ty c.1
  need ((decide (k = 3) || decide (k = 6)) && (decide (k ≠ 6) || decide ((tys.map Ty.width).sum = p.prs))) a ++
  need (within 1 cols.length 64) (a + 1) ++ need (zeroAt b 2 6) (a + 2) ++
  eachEnt (a + 8) 4 cols fun c o =>
    let t := env.ty c.1
    need (isCol env c.1 && (decide (k ≠ 6) || !t.isVar)) o ++ need (decide (c.2 ≤ 5) && encAdmits c.2 t) (o + 1) ++
    need (zeroAt b (o - a + 2) 2) (o + 2)

/-- Failures of an operator's argument record, which stands at `a` in the image; env holds the columns before it. -/
def argFails (p : Plan) (done : List Env) (con : List Byte) (base : Nat) (w : OpPlace) (env : Env) (o : OpEnt) : List Nat :=
  let a := base + o.argsOff
  let b := (con.drop o.argsOff).take o.argsLen
  match o.args with
  | .scan src pipe cols => scanFails p w b a src pipe cols
  | .filter _ => exprFails con base p env o.argsOff (some tyBool)
  | .project drop outs =>
    need (within 1 outs.length 64) a ++ need (zeroAt b 1 7) (a + 1) ++
    need ((List.range 64).all fun c => !bit drop c || isCol env c) (a + 8) ++
    eachBelow outs.length (fun i => need (zeroAt b (16 + 8 * i + 1) 3) (a + 16 + 8 * i + 1)) ++
    defFails env (a + 16) 8 0 (outs.map (·.1)) ++
    eachBelow outs.length fun i => exprFails con base p env (o.argsOff + leAt b (16 + 8 * i + 4) 4) none
  | .hashBuild keys pays _ npart =>
    need w.isLast w.off ++
    need (within 1 keys.length 8) a ++ need (decide (pays.length ≤ 56)) (a + 1) ++ need (decide (leAt b 2 1 < 2)) (a + 2) ++
    need (zeroAt b 3 1) (a + 3) ++ need (within 1 npart 4096) (a + 4) ++ need (zeroAt b 6 2) (a + 6) ++
    eachEnt (a + 8) 4 keys (fun k q =>
      need (isCol env k.col) q ++ need (collOk k.coll (env.ty k.col)) (q + 1) ++ need (zeroAt b (q - a + 2) 2) (q + 2)) ++
    eachEnt (a + 8 + 4 * keys.length) 4 pays fun c q => need (isCol env c) q ++ need (zeroAt b (q - a + 1) 3) (q + 1)
  | .hashProbe build jk keys pays _ => probeFails p done con base w env o b a build jk keys pays
  | .matchOp mm mk ts h r q coll fs => matchFails p env b a mm mk ts h r q coll fs
  | .sort keys st pays _ => need w.isLast w.off ++ sortFails env b a keys pays st
  | .topk keys st pays k =>
    need (match w.next with
      | some n => (match n.args with
        | .sort ks st' _ lim => decide (ks = keys) && (st == st') && decide (lim = k)
        | _ => false)
      | none => false) w.off ++
    need (decide (1 ≤ k)) (a + 4) ++ sortFails env b a keys pays st
  | .merge src cols =>
    let ks : List KeyEnt × List Nat := match lastArgs p src with
      | some (.sort ks _ ps _) => (ks, ps)
      | _ => ([], [])
    need (decide (w.pos = 0) && decide (w.ent.kind = 2)) w.off ++
    need (decide (depBreaker p w.ent src = some 2)) a ++ need (zeroAt b 2 6) (a + 2) ++
    eachEnt (a + 8) 4 cols (fun c q =>
      need (if 128 ≤ c.1 then decide (c.1 - 128 < ks.1.length) else decide (c.1 < ks.2.length)) q ++
      need (zeroAt b (q - a + 2) 2) (q + 2)) ++
    defFails env (a + 8) 4 1 (cols.map (·.2))
  | .agg final src npart tbl keys fns => aggFails p w env b a final src npart tbl keys fns
  | .verify mask =>
    match w.prevArgs with
    | some (.scan _ _ cols) => need ((List.range 64).all fun i => !bit mask i || cols.any fun c => c.icol = i) a
    | _ => [w.off]
  | .exchange mode nlocal keys cols =>
    need w.isLast w.off ++ need (decide (mode ≤ 2)) a ++
    need (if mode = 0 then within 1 keys.length 8 else decide (keys = [])) (a + 1) ++
    need (within 1 cols.length 64) (a + 2) ++ need (zeroAt b 3 1) (a + 3) ++ need (within 1 nlocal 4096) (a + 4) ++
    need (zeroAt b 6 2) (a + 6) ++
    eachEnt (a + 8) 4 keys (fun k q =>
      need (isCol env k.col) q ++ need (collOk k.coll (env.ty k.col)) (q + 1) ++ need (zeroAt b (q - a + 2) 2) (q + 2)) ++
    eachEnt (a + 8 + 4 * keys.length) 4 cols fun c q => need (isCol env c) q ++ need (zeroAt b (q - a + 1) 3) (q + 1)
  | .emit slot cols => emitFails p env b a slot cols
  | .udo cycles ins outs =>
    need (decide (ins.length ≤ 32)) a ++ need (decide (outs.length ≤ 32)) (a + 1) ++ need (zeroAt b 2 2) (a + 2) ++
    need (decide (1 ≤ cycles)) (a + 4) ++
    eachEnt (a + 8) 4 ins (fun c q => need (isCol env c) q ++ need (zeroAt b (q - a + 1) 3) (q + 1)) ++
    eachEnt (a + 8 + 4 * ins.length) 4 outs (fun x q => need x.2.ok (q + 1)) ++
    defFails env (a + 8 + 4 * ins.length) 4 0 (outs.map (·.1))

/-- Failures of an operator entry itself (R42). -/
def entryFails (img : List Byte) (w : OpPlace) (o : OpEnt) : List Nat :=
  let code := sectOf img secCode
  let con := sectOf img secConst
  let first := decide (w.pos = 0)
  need (within 1 o.opc 0x0E) w.off ++
  need (decide (o.pipe = w.pipe)) (w.off + 1) ++
  need (if first then decide (o.stage = 0)
        else (w.prev.any fun x => decide (x.stage ≤ o.stage) && decide (o.stage ≤ x.stage + 1))) (w.off + 2) ++
  need (!w.isLast || decide (o.stage + 1 = w.ent.nstage)) (w.off + 2) ++
  need (!o.handoff || (w.next.any fun x => decide (x.stage = o.stage + 1))) (w.off + 3) ++
  need (decide (o.codeOff % 64 = 0) && decide (o.codeOff ≤ code.size)) (w.off + 4) ++
  need (decide (o.codeLen ≠ 0) && decide (o.codeLen % 4 = 0) && decide (o.codeOff + o.codeLen ≤ code.size)) (w.off + 8) ++
  need (decide (o.argsOff ≤ con.size)) (w.off + 0xC) ++
  need (decide (o.argsOff + o.argsLen ≤ con.size) &&
    decide (argsNeed o.args (sectBytes img secConst) o.argsOff ≤ o.argsLen)) (w.off + 0x10) ++
  need (if o.flow then decide (o.flows = 1) || (decide (o.flows = w.ent.npart) && decide (o.flows ≠ 0))
        else decide (o.flows = 0)) (w.off + 0x14) ++
  need (if o.handoff then within 4 o.hq 64 else decide (o.hq = 0)) (w.off + 0x16)

/-- Failures of the operators of a pipeline, in order, with the columns before each. -/
def opsFails (p : Plan) (img con : List Byte) (done : List Env) (n : Nat) (e : PipeEnt) : Nat → List Nat → Env → List Nat
  | _, [], _ => []
  | pos, k :: t, env =>
    match p.ops[k]? with
    | none => []
    | some o =>
      let w : OpPlace := {
        pipe := n, ent := e, pos := pos, prev := if pos = 0 then none else p.ops[k - 1]?,
        next := if pos + 1 = e.nops then none else p.ops[k + 1]?, off := (sectOf img secOper).off + 32 * k }
      entryFails img w o ++ argFails p done con (sectOf img secConst).off w env o ++
        opsFails p img con done n e (pos + 1) t (envAfter p done env o)

/-- Operator entries that no pipeline holds. -/
def strayOps (p : Plan) : List Nat :=
  (List.range p.ops.length).filter fun k =>
    !p.pipes.any fun e => decide (e.firstOp ≤ k) && decide (k < e.firstOp + e.nops)

/-- A pipeline that scans UNMATCHED rows names every pipeline that probes the table in its DEPS (R125). -/
def unmatchedFails (p : Plan) (img : List Byte) : List Nat :=
  let con := (sectOf img secConst).off
  let probes := fun (b : Nat) => (List.range p.pipes.length).filter fun j =>
    (p.pipes[j]?).any fun e => e.opNums.any fun k => (p.ops[k]?).any fun o =>
      match o.args with | .hashProbe x _ _ _ _ => decide (x = b) | _ => false
  (p.pipes.map fun e =>
    match p.ops[e.firstOp]? with
    | none => []
    | some o =>
      match o.args with
      | .scan 2 b _ => need ((probes b).all fun j => bit e.deps j) (con + o.argsOff + 2)
      | _ => []).flatten

def operatorFails (p : Plan) (envs : List Env) (img : List Byte) : List Nat :=
  let con := sectBytes img secConst
  let oper := (sectOf img secOper).off
  need (within 1 (leAt img 0x20 2) 1024) 0x20 ++
  (p.pipes.zipIdx.map fun x => opsFails p img con (envs.take x.2) x.2 x.1 0 x.1.opNums []).flatten ++
  (strayOps p).map (fun k => oper + 32 * k + 1) ++ unmatchedFails p img

/-- The partition count of a breaker. -/
def breakerParts (p : Plan) (n : Nat) : Nat :=
  match lastArgs p n with
  | some (.hashBuild _ _ _ k) => k
  | some (.agg false _ k _ _ _) => k
  | some (.exchange _ k _ _) => k
  | _ => 0

/-- The NPART equality of R41. -/
def npartFails (p : Plan) (img : List Byte) : List Nat :=
  let off := (sectOf img secPipe).off
  eachBelow p.pipes.length fun n =>
    match p.pipes[n]? with
    | some e => need (decide (e.kind ≠ 1) || decide (e.npart = breakerParts p e.source)) (off + 64 * n + 0xC)
    | none => []

/-! ## BAD_CODE (R48, R164) -/

def codeFails (p : Plan) (img : List Byte) : List Nat :=
  p.ops.filterMap fun o =>
    (firstBadWord o.klevel p.bpctl ((p.code.drop o.codeOff).take o.codeLen)).map fun b =>
      (sectOf img secCode).off + o.codeOff + b

/-! ## BAD_AUTOMATON (R238 to R240, R242) -/

/-- States that an instance may still take in every unit. -/
def freeStates (s : State) (i : Nat) : Nat :=
  (List.range 4).foldl (fun m u => min m ((s.inst i).res.cmuStates - stUsed (s.cmu u) i)) (s.inst i).res.cmuStates

/-- Entries free in the image table of every unit. -/
def freeImages (s : State) : Nat := (List.range 4).foldl (fun m u => min m (8192 - (s.cmu u).images.length)) 8192

/-- A state record's rules. -/
def stateOk (ncls npat nstate : Nat) (r : BitVec 512) : Bool :=
  decide (r.toNat < 2 ^ 493) && (if autoAccept r then decide (autoPid r < npat) else decide (autoPid r = 0)) &&
  (List.range 32).all fun c => if c < ncls ∨ c = 31 then decide (autoNext r c < nstate) else decide (autoNext r c = 0)

/-- Failures of an image of `size` bytes at `a`. -/
def imageFails (img : List Byte) (a size : Nat) : List Nat :=
  let n := leAt img (a + 8) 4
  let cls := leAt img (a + 6) 1
  let m := fun (x : Nat) => leAt img (a + 0x40 + x) 1
  need (decide (leAt img a 4 = 0x5541515A)) a ++ need (decide (leAt img (a + 4) 1 = 1)) (a + 4) ++
  need (decide (leAt img (a + 5) 1 ≤ 1)) (a + 5) ++ need (within 1 cls 31) (a + 6) ++ need (zeroAt img (a + 7) 1) (a + 7) ++
  need (within 1 n 32768 && decide (size = 320 + 64 * n)) (a + 8) ++ need (within 1 (leAt img (a + 0xC) 2) 4096) (a + 0xC) ++
  need (decide (leAt img (a + 0xE) 2 < n)) (a + 0xE) ++ need (zeroAt img (a + 0x10) 48) (a + 0x10) ++
  eachBelow 256 (fun x => need (decide (m x < cls) &&
    (decide (leAt img (a + 5) 1 ≠ 1) || !within 0x41 x 0x5A || decide (m x = m (x + 32)))) (a + 0x40 + x)) ++
  eachBelow (min n 32768) fun j => need (stateOk cls (leAt img (a + 0xC) 2) n (BitVec.ofNat 512 (leAt img (a + 0x140 + 64 * j) 64)))
    (a + 0x140 + 64 * j)

/-- States of the images before and with image k. -/
def statesUpTo (p : Plan) (k : Nat) : Nat := ((p.autos.take (k + 1)).map fun a => a.states.length).sum

def automatonFails (s : State) (i : Nat) (p : Plan) (img : List Byte) : List Nat :=
  let a := sectOf img secAuto
  let dir := roundUp (8 * a.count) 64
  if a.size = 0 ∧ a.count = 0 then []
  else if a.size < dir then [a.ent + 8]
  else
    need (zeroAt img (a.off + 8 * a.count) (dir - 8 * a.count)) (a.off + 8 * a.count) ++
    (eachBelow a.count fun k =>
      let e := a.off + 8 * k
      let io := leAt img e 4
      let n := leAt img (e + 4) 4
      if io % 64 ≠ 0 ∨ io < dir then [e]
      else if a.size < io + n ∨ n < 384 then [e + 4]
      else
        need (decide (k < freeImages s)) e ++ imageFails img (a.off + io) n ++
        need (decide (statesUpTo p k ≤ freeStates s i)) (a.off + io + 8))

/-! ## BAD_SLOT (R45, R46) -/

/-- SIZE of a slot as its kind needs (R45). -/
def slotSizeOk (e : SlotEnt) : Bool :=
  if e.kind = 1 then (if e.ty.isVar then decide (4 ≤ e.size) else decide (e.size = e.ty.width))
  else if e.kind = 2 ∨ e.kind = 3 then decide (e.size = 32)
  else if e.kind = 6 then decide (e.size = 0) else decide (e.size = 4)

def SlotEnt.nullable (e : SlotEnt) : Bool := bit e.flags 0
def SlotEnt.point (e : SlotEnt) : Bool := bit e.flags 1

/-- Slots of a kind before entry k. -/
def slotsBefore (p : Plan) (k kind : Nat) : Nat := ((p.slots.take k).filter fun e => e.kind = kind).length

/-- The rules of a slot entry (R45). NULLABLE, of which the rule speaks for a VALUE only, is refused on every other kind,
and an empty slot whose offset lies strictly inside another overlaps it: DESIGN CHOICE, log 147. -/
def slotFails (p : Plan) (off k : Nat) (e : SlotEnt) : List Nat :=
  let o := off + 16 * k
  need (within 1 e.kind 6) o ++
  need ((decide (e.kind ≠ 2) && decide (e.kind ≠ 3)) || decide (slotsBefore p k e.kind < 8)) o ++
  need (if p.point then decide (e.kind ≠ 3) && (decide (e.kind ≠ 6) || decide (slotsBefore p k 6 = 0)) else decide (e.kind ≠ 6)) o ++
  need (if e.kind = 1 then ({ e.ty with tparam := if e.ty.isDec || e.ty.isTime || decide (e.ty.code = 16) then e.ty.tparam else 0 } : Ty).ok
        else decide (e.ty.code = 0)) (o + 1) ++
  need (decide (0x40 ≤ e.offset) && decide (e.offset % 8 = 0) && decide (e.offset + e.size ≤ p.pbSize) &&
    (p.slots.take k).all fun x => decide (x.offset + x.size ≤ e.offset) || decide (e.offset + e.size ≤ x.offset)) (o + 2) ++
  need (slotSizeOk e) (o + 4) ++
  need (if e.kind = 1 then !e.point || (p.point && decide (e.size ≤ 8) && !e.nullable &&
      decide (((p.slots.take k).filter SlotEnt.point).length < 3)) else decide (e.flags = 0)) (o + 6) ++
  need (if e.kind = 1 then e.ty.ok else decide (e.ty.tparam = 0)) (o + 8)

def slotTableFails (p : Plan) (img : List Byte) : List Nat :=
  let n := leAt img 0x1E 2
  let off := (sectOf img secSlot).off
  need (!p.homekey || (p.point && p.slots.any SlotEnt.point)) 0x18 ++
  need (decide (n ≤ 256) && (!p.point || p.slots.any fun e => e.kind = 6)) 0x1E ++
  need (if n = 0 then decide (p.pbSize = 0) else decide (p.pbSize % 8 = 0) && within 0x40 p.pbSize 0x1000) 0x22 ++
  need (if p.point then within 1 p.prs 4096 else decide (p.prs = 0)) 0x24 ++
  (p.slots.zipIdx.map fun x => slotFails p off x.2 x.1).flatten

/-! ## BAD_RESOURCE (R36, R41, R42) -/

/-- Code bytes of the operators of a stage up to operator k. -/
def stageCode (p : Plan) (e : PipeEnt) (st k : Nat) : Nat :=
  ((e.opNums.filterMap fun j => if j ≤ k then p.ops[j]? else none).filter fun o => o.stage = st).map (·.codeLen) |>.sum

def resourceFails (p : Plan) (img : List Byte) : List Nat :=
  let po := (sectOf img secPipe).off
  let oo := (sectOf img secOper).off
  eachEnt po 64 p.pipes (fun e o =>
    let hands := e.opNums.any fun k => (p.ops[k]?).any OpEnt.handoff
    need (!hands || decide (e.nstage ≤ 8)) (o + 7) ++ need (decide (e.work ≤ 1572864)) (o + 0x10)) ++
  (p.pipes.map fun e => (e.opNums.map fun k =>
    match p.ops[k]? with
    | some o => need (decide (stageCode p e o.stage k ≤ 131072)) (oo + 32 * k + 8)
    | none => []).flatten).flatten ++
  eachBelow p.ops.length fun k => need (decide (((p.ops.take (k + 1)).map (·.flows)).sum ≤ 65536)) (oo + 32 * k + 0x14)

/-! ## BAD_SIGNATURE (R40, R49, R531) -/

def signatureFails (s : State) (p : Plan) (img : List Byte) : List Nat :=
  let sg := sectOf img secSig
  let present := decide (sg.ent ≠ 0)
  need (!p.kcode || present) 0x18 ++ need (p.kcode || !present) sg.ent ++
  eachEnt (sectOf img secOper).off 32 p.ops (fun o e => need (!o.klevel || p.kcode) (e + 3)) ++
  (if p.kcode && present then need (dsbCheck s 2 (img.take sg.off) (sectBytes img secSig)).isNone sg.off else [])

/-! ## Parameter blocks (R57, R59, R69) -/

/-- Bit k of NULLS. -/
def pbNull (pb : List Byte) (k : Nat) : Bool := (leAt pb 8 32).testBit k

/-- The value that a VALUE slot holds (R45); null when its NULLS bit is set. -/
def slotValue (pb : List Byte) (k : Nat) (e : SlotEnt) : Val :=
  if pbNull pb k then .null
  else
    let b := (pb.drop e.offset).take e.size
    if e.ty.isVar then .str ((b.drop 4).take (leAt b 0 4)) else ofPlain e.ty b

/-- The columns that SCANs of an input slot list. -/
def scannedCols (p : Plan) (k : Nat) : List Nat :=
  ((p.pipes.filter fun e => decide (e.kind = 0) && decide (e.source = k)).map fun e =>
    match p.ops[e.firstOp]? with
    | some o => (match o.args with | .scan 0 _ cols => cols.map (·.icol) | _ => [])
    | none => []).flatten

/-- Failures of the contents of slot k, at their offset in the block. The reserved bytes of INPUT and OUTPUT records are checked too:
DESIGN CHOICE, log 147. -/
def slotPbFails (s : State) (i acc : Nat) (p : Plan) (pb : List Byte) (k : Nat) (e : SlotEnt) : List Nat :=
  let b := (pb.drop e.offset).take e.size
  let o := e.offset
  match e.kind with
  | 1 =>
    if pbNull pb k then []
    else if e.ty.isBool then need (decide (leAt b 0 1 ≤ 1)) o
    else if e.ty.isVar then need (decide (leAt b 0 4 ≤ e.size - 4)) o
    else need (valInRange e.ty (ofPlain e.ty b)) o
  | 2 =>
    let kind := leAt b 0 1
    need (within 1 kind 3) o ++
    need (within 1 (leAt b 1 1) 64 && (scannedCols p k).all fun c => decide (c < leAt b 1 1)) (o + 1) ++
    need (zeroAt b 2 2) (o + 2) ++ need (decide (kind ≠ 3) || decide (leAt b 4 4 = 0)) (o + 4) ++
    need (decide (leAt b 8 4 ≤ 16777216)) (o + 8) ++
    need (if kind = 2 then (objFor s i (leAt b 0xC 4) acc).isSome else decide (leAt b 0xC 4 = 0)) (o + 0xC) ++
    need (zeroAt b 0x18 8) (o + 0x18)
  | 3 =>
    let kind := leAt b 0 1
    need (within 1 kind 3) o ++ need (decide (leAt b 1 1 ≤ 1)) (o + 1) ++ need (zeroAt b 2 2) (o + 2) ++
    need (if kind = 3 then (objFor s i (leAt b 4 4) acc).isSome else decide (leAt b 4 4 = 0)) (o + 4) ++
    need (if kind = 3 then decide (leAt b 8 8 = 0) else decide (leAt b 8 8 % 64 = 0)) (o + 8) ++
    need (decide (64 ≤ leAt b 0x10 8)) (o + 0x10) ++ need (zeroAt b 0x18 8) (o + 0x18)
  | 4 => need (cmuTableFor s i (leAt b 0 4) acc).isSome o
  | 5 => need (objFor s i (leAt b 0 4) acc).isSome o
  | _ => []

/-- Failures of a parameter block of a plan for a command of acceptance number `acc`: nothing is checked when PB_SIZE
is 0. -/
def blockFails (s : State) (i acc : Nat) (p : Plan) (pb : List Byte) : List Nat :=
  if p.pbSize = 0 then []
  else
    need (decide (leAt pb 0 8 = p.uid)) 0 ++
    need ((List.range 256).all fun k => !pbNull pb k || ((p.slots[k]?).any fun e => decide (e.kind = 1) && e.nullable)) 8 ++
    need (zeroAt pb 0x28 24) 0x28 ++
    (p.slots.zipIdx.map fun x => slotPbFails s i acc p pb x.2 x.1).flatten

/-- BAD_DEFAULTS (R46, R48). -/
def defaultFails (s : State) (i : Nat) (p : Plan) (pb : List Byte) : List Nat :=
  if pb = [] then need (!p.point) 0
  else if pb.length < p.pbSize then [pb.length]
  else
    blockFails s i s.ring.nextAcc p pb ++
    (p.slots.map fun e => need (!(p.point && decide (e.kind = 2) && decide (leAt pb e.offset 1 = 3))) e.offset).flatten

/-! ## All checks in the order of R48 -/

/-- Code of plans of an instance and of all others that PIN keeps in the warm fronds (R54). -/
def pinnedBytes (s : State) : Nat :=
  (s.insts.map fun e => ((e.2.plans.filter fun x => x.pinned).map fun x => x.plan.code.length).sum).sum

/-- The first detail with a failure, and its lowest offset. -/
def firstDetail : List (Nat × (Unit → List Nat)) → Option (Nat × Nat)
  | [] => none
  | (d, f) :: t =>
    match lowest (f ()) with
    | some o => some (d, o)
    | none => firstDetail t

/-- The checks of R48 on an image as it was delivered: details 0x01 to 0x0D in order, the NPART equality of R41 after
the other operator checks, and PIN last. -/
def imageCheck (s : State) (i : Nat) (pin : Bool) (img pb : List Byte) : Option (Nat × Nat) :=
  let r := parseWith img
  let p := r.1
  firstDetail [
    (0x01, fun _ => need (decide (leAt img 0 4 = 0x4C50515A)) 0 ++ need (decide (leAt img 6 2 = 0x80)) 6),
    (0x02, fun _ => need (decide (leAt img 4 2 = 2)) 4 ++
      need (decide (leAt img 0x26 2 ≤ min 0x0302 (s.mp.runVer.toNat / 65536))) 0x26),
    (0x03, fun _ => need (within 0x100 (leAt img 8 4) 0x1000000 && decide (leAt img 8 4 = img.length)) 8),
    (0x04, fun _ => need (decide (leAt img 0xC 4 = crc32c (img.take 0xC ++ zeros 4 ++ img.drop 0x10))) 0xC),
    (0x05, fun _ => sectionFails img), (0x06, fun _ => pipelineFails p img), (0x07, fun _ => operatorFails p r.2 img),
    (0x06, fun _ => npartFails p img), (0x08, fun _ => codeFails p img), (0x09, fun _ => automatonFails s i p img),
    (0x0A, fun _ => slotTableFails p img), (0x0B, fun _ => resourceFails p img), (0x0C, fun _ => signatureFails s p img),
    (0x0D, fun _ => defaultFails s i p pb),
    (0x10, fun _ => need (!pin || decide (pinnedBytes s + p.code.length ≤ 131072)) 0)]

end Sys2Proof.Machine
end

