-- ==== Sys2Proof/Machine/PlanLoad.lean ====
section
/-!
DEFINITION. Loading, unloading and reloading plans (R47 to R54, R242, R469, R481 step 7, R569).
-/

namespace Sys2Proof.Machine

/-- The lowest base of n consecutive free states of a unit (log 53). -/
def stateBase (x : CmuUnit) (n : Nat) : Option Nat :=
  firstBlock 262144 (x.images.map fun m => (m.base, m.nstate)) n

/-- Writes image k of a plan into a unit, with its shadow records and its image-table entry (R242). -/
def writeImage (i id uid k : Nat) (a : AutoImg) (u : Nat) (s : State) : State :=
  let x := s.cmu u
  let n := a.states.length
  match stateBase x n with
  | none => s
  | some b =>
    let e : ImgEnt := { inst := i, planId := id, uid := uid, idx := k, base := b, nstate := n, faulted := false }
    s.setCmu u { x with
      states := Tbl.write 0 x.states b a.states, stShadow := Tbl.write 0 x.stShadow b a.states, images := e :: x.images }

/-- Writes every image of a plan into all four units. -/
def writeImages (i id : Nat) (p : Plan) (s : State) : State :=
  forEach (fun (x : AutoImg × Nat) s => forBelow (writeImage i id p.uid x.2 x.1) 4 s) p.autos.zipIdx s

/-- Every image found its consecutive states in every unit. -/
def imagesPlaced (i id : Nat) (p : Plan) (s : State) : Bool :=
  (List.range 4).all fun u => (List.range p.autos.length).all fun k =>
    (s.cmu u).images.any (isImage i { id := id, plan := p, pages := [], pinned := false, ready := false, gone := false, goneAt := 0 } k)

/-- The detail of R48 that is found before the image is copied: EXISTS, then QUOTA against the length. -/
def beforeCopy (s : State) (i id len : Nat) (replace : Bool) : Option Nat :=
  let x := s.inst i
  if !replace && x.plans.any (fun p => decide (p.id = id) && !p.gone) then some 0x0F
  else if x.res.plans ≤ x.plans.length ∨ x.res.pages < x.frames.length + ceilDiv len pageSize then some 0x0E
  else none

/-- The first page that plan images may take: above the largest data region that R441 allows, so that no later growth
of the region meets one (R442). DESIGN CHOICE, log 43. -/
def planPageBase : Nat := 786432

/-- Loads an image for instance i once it stands in the module: validation, automata, pages; what waits is told by
`finishPlan` (R47, R48, R51, R242, R569). -/
def loadImage (key i id opt : Nat) (img pb : List Byte) (s : State) : State :=
  match imageCheck s i (bit opt 1) img pb with
  | some (d, o) => endPlan key i id meRejected d o [] s
  | none =>
    let p := { parsePlan img with defaults := pb }
    let s := writeImages i id p s
    let mk := fun (pages : List Nat) => ({
      id := id, plan := p, pages := pages, pinned := bit opt 1, ready := false, gone := false, goneAt := 0 } : PlanEnt)
    if !imagesPlaced i id p s then endPlan key i id meRejected 0x09 0 [] (dropImages i (mk []) s)
    else
      let s := s.setInst i { s.inst i with plans := (s.inst i).plans ++ [mk []] }
      let place := fun (s : State) => freePage s i (s.mem.leaf.length + s.mem.allocs.length + 1) planPageBase
      let r := allocMany i (some key) true place (ceilDiv img.length pageSize) s
      let s := r.2.2
      let s := s.setInst i { s.inst i with plans := (s.inst i).plans.map fun e =>
        if e.id = id ∧ !e.ready then { e with pages := r.1 } else e }
      if !r.2.1 then failPlan key i id meLimit 0x0E 0 s
      else mbxPagesDone key (distribute key i id true (planSlices opt pb.length id (img ++ pb)) s)

/-- The fields of PLAN_LOAD (R469). -/
def planLoadRule : MbxRule :=
  { pfOnly := false, targeted := false,
    named := [(0x08, 4), (0x0C, 1), (0x10, 8), (0x18, 4), (0x20, 8), (0x28, 2)] }

/-- The first field of PLAN_LOAD that is out of range. -/
def planBadField (m : Mbx) : Option Nat :=
  let id := m.arg 8 4
  if id = 0 ∨ id = 0xFFFFFFFF then some 8
  else if 3 < m.arg 0xC 1 then some 0xC
  else if m.arg 0x10 8 % 64 ≠ 0 then some 0x10
  else if m.arg 0x20 8 % 8 ≠ 0 then some 0x20
  else if 4096 < m.arg 0x28 2 ∨ (m.arg 0x20 8 = 0 ∧ m.arg 0x28 2 ≠ 0) then some 0x28
  else none

/-- A host read of n bytes as it returned: whole, or failed or short. -/
def whole (n : Nat) (d : Option (List Byte)) : Option (List Byte) :=
  match d with
  | some b => if b.length = n then some b else none
  | none => none

/-- PLAN_LOAD: `host` is the image and `host2` the default parameter block, as the host reads return them (R48, R468). -/
def execPlanLoad (fn : Nat) (host host2 : Option (List Byte)) (s : State) : Host.Outcome State Fault Refusal :=
  .next (onMbx fn 0x30 planLoadRule (fun m s =>
    let id := m.arg 8 4
    let opt := m.arg 0xC 1
    match planBadField m with
    | some o => mbxBad fn o s
    | none =>
      match beforeCopy s fn id (m.arg 0x18 4) (bit opt 0) with
      | some 0x0F => endMbx fn meExists 0x0F 8 [] s
      | some d => endMbx fn meLimit d 0x18 [] s
      | none =>
        mbxRead fn m [(m.arg 0x10 8, m.arg 0x18 4), (m.arg 0x20 8, m.arg 0x28 2)] (fun s =>
          match whole (m.arg 0x18 4) (hostGave s m.port host),
              (if m.arg 0x20 8 = 0 then some [] else whole (m.arg 0x28 2) (hostGave s m.port host2)) with
          | some img, some pb => loadImage fn fn id opt img pb (s.modMbx fn fun m => { m with started := true })
          | _, _ => mbxErr fn meHost s) s) s)

/-- The fields of PLAN_UNLOAD. -/
def planUnloadRule : MbxRule := { pfOnly := false, targeted := false, named := [(0x08, 4)] }

/-- PLAN_UNLOAD unbinds the ID at once, here and on every worker (R52, R569). -/
def execPlanUnload (fn : Nat) (s : State) : Host.Outcome State Fault Refusal :=
  .next (onMbx fn 0x31 planUnloadRule (fun m s =>
    let id := m.arg 8 4
    if !(s.inst fn).plans.any (fun p => decide (p.id = id) && p.ready && !p.gone) then mbxErr fn meNotFound s
    else
      let s := reapPlans fn (unbindPlan fn id (s.modMbx fn fun m => { m with started := true }))
      finishPlan fn fn id false (distribute fn fn id false [planDrop id] s)) s)

/-- A command of an instance runs a plan. -/
def runsPlan (s : State) (inst plan slot : Nat) : Bool :=
  match s.cmd slot with
  | none => false
  | some c => decide (c.inst = inst) && (match c.work with | .query q => decide (q.planId = plan) | _ => false)

/-- A cursor whose command a reload held waits from now (R309). -/
def renewHeld (s : State) (inst plan : Nat) (x : Cursor) : Cursor :=
  if runsPlan s inst plan x.slot then { x with since := s.time } else x

/-- The cursors of the commands that a reload held become eligible now (R306, R309). -/
def unholdPlan (inst plan : Nat) (s : State) : State :=
  { s with
    mp := { s.mp with reloads := s.mp.reloads.erase (inst, plan) },
    disp := { s.disp with
      reloading := s.disp.reloading.erase (inst, plan),
      lists := s.disp.lists.map fun e => (e.1, { e.2 with cursors := e.2.cursors.map (renewHeld s inst plan) }) } }

/-- A loaded plan does not pass the checks of new firmware, made on its own pages as if it were loaded now (R48, R481). -/
def reloadFails (inst : Nat) (e : PlanEnt) (s : State) : Bool :=
  let without := s.setInst inst { s.inst inst with plans := (s.inst inst).plans.erase e }
  (imageCheck (dropImages inst e without) inst e.pinned e.plan.image e.plan.defaults).isSome

/-- PLAN_RELOAD: the new firmware has checked a plan again from its pages; queries that waited for it go on, and a plan
that fails the checks is unloaded (R306, R481 step 7). -/
def execPlanReload (inst plan : Nat) (s : State) : Host.Outcome State Fault Refusal :=
  if !s.mp.reloads.contains (inst, plan) ∨ s.mp.arbitrating then .next s
  else
    let s := unholdPlan inst plan s
    match (s.inst inst).plans.find? fun p => decide (p.id = plan) && p.ready && !p.gone with
    | none => .next s
    | some e =>
      if reloadFails inst e s then .next (fwEvent 0x0602 inst plan (reapPlans inst (unbindPlan inst plan s))) else .next s

end Sys2Proof.Machine
end

