-- ==== Sys2Proof/Machine/Areas.lean ====
section
/-!
DEFINITION. The device-memory state of operators (R122, R138, R140, R143, R153, R221, R271, R272): areas of pages that are taken
from the instance's quota, written, read and released.
-/

namespace Sys2Proof.Machine

/-- Pseudo-status of work that cannot end yet: it waits for a release scrub, a power grant or an item pass. No entry carries
it. -/
def stWaits : Nat := 65536

/-- Takes a page of an instance's quota for the command in a slot, with a preferred die (R153, R221, R346). RECOLOUR of a frame of
another colour is over within the item (log 148). The failure is RESOURCE_EXHAUSTED, or `stWaits` while every frame left is being
scrubbed. -/
def takePage (slot i die : Nat) (s : State) : Except Nat Nat × State :=
  if quotaUsed s i then (.error stExhausted, s)
  else
    match frameFor s i die with
    | none => (.error (if scrubRunning s then stWaits else stExhausted), s)
    | some (f, re) =>
      let p := freePage s i (s.mem.leaf.length + s.mem.allocs.length + 1) statePageBase
      let s := takeFrame i f re s
      let s := if re then
          let s := wipeFrame f (BitVec.ofNat 8 i) s
          s.setFrame f { s.frame f with st := .owned }
        else s
      (.ok p, (setLeaf i p (leafOf i f true) s).modCmd slot fun c => { c with pages := c.pages ++ [p] })

/-- Takes n pages. -/
def takePages (slot i die : Nat) : Nat → State → Except Nat (List Nat) × State
  | 0, s => (.ok [], s)
  | n + 1, s =>
    match takePage slot i die s with
    | (.error e, s) => (.error e, s)
    | (.ok p, s) =>
      match takePages slot i die n s with
      | (.error e, s) => (.error e, s)
      | (.ok l, s) => (.ok (p :: l), s)

/-- Gives pages of a command back before it completes; they are scrubbed (R153, R345). -/
def releasePages (slot i : Nat) (ps : List Nat) (s : State) : State :=
  (forEach (unmapPage i) ps s).modCmd slot fun c => { c with pages := c.pages.filter fun p => !ps.contains p }

/-- An area of a pipeline. -/
def PipeRun.area (p : PipeRun) (k : AreaKind) (id : Nat) : Area :=
  (p.areas.find? fun a => decide (a.kind = k) && decide (a.id = id)).getD { kind := k, id := id, pages := [], used := 0 }

/-- Puts an area in its place. -/
def PipeRun.setArea (p : PipeRun) (a : Area) : PipeRun :=
  { p with areas := p.areas.filter (fun b => !(decide (b.kind = a.kind) && decide (b.id = a.id))) ++ [a] }

/-- Removes an area. -/
def PipeRun.dropArea (p : PipeRun) (k : AreaKind) (id : Nat) : PipeRun :=
  { p with areas := p.areas.filter fun b => !(decide (b.kind = k) && decide (b.id = id)) }

/-- Pages that `n` bytes take. -/
def pagesFor (n : Nat) : Nat := ceilDiv n pageSize

/-- Lengthens an area of a pipeline by a number of bytes, with the pages that this takes. -/
def growArea (slot i die : Nat) (k : AreaKind) (id n : Nat) (p : PipeRun) (s : State) : Except Nat PipeRun × State :=
  let a := p.area k id
  match takePages slot i die (pagesFor (a.used + n) - a.pages.length) s with
  | (.error e, s) => (.error e, s)
  | (.ok ps, s) => (.ok (p.setArea { a with pages := a.pages ++ ps, used := a.used + n }), s)

/-- Instance device address of an offset of an area. -/
def Area.addr (a : Area) (off : Nat) : Nat := a.pages.getD (off / pageSize) 0 * pageSize + off % pageSize

/-- Writes bytes at an offset of an area, page by page; the status of the first write that fails. -/
def Area.write (i : Nat) (a : Area) : Nat → Nat → List Byte → State → Option Nat × State
  | 0, _, _, s => (none, s)
  | fuel + 1, off, d, s =>
    if d.isEmpty then (none, s)
    else
      let m := pageSize - off % pageSize
      match devWriteN i (a.addr off) (d.take m) s with
      | (some e, s) => (some e.1.status, s)
      | (none, s) => Area.write i a fuel (off + m) (d.drop m) s

/-- Writes bytes at an offset of an area that reaches over them. -/
def Area.put (i : Nat) (a : Area) (off : Nat) (d : List Byte) (s : State) : Option Nat × State :=
  a.write i (a.pages.length + 1) off d s

/-- Reads bytes at an offset of an area, page by page; the status of the first read that fails. -/
def Area.read (i : Nat) (a : Area) : Nat → Nat → Nat → State → Except Nat (List Byte) × State
  | 0, _, _, s => (.ok [], s)
  | fuel + 1, off, n, s =>
    if n = 0 then (.ok [], s)
    else
      let m := min n (pageSize - off % pageSize)
      match devReadN i (a.addr off) m s with
      | (_, some e, s) => (.error e.1.status, s)
      | (d, none, s) =>
        match Area.read i a fuel (off + m) (n - m) s with
        | (.error e, s) => (.error e, s)
        | (.ok t, s) => (.ok (d ++ t), s)

/-- Reads an area whole. -/
def Area.readAll (i : Nat) (a : Area) (s : State) : Except Nat (List Byte) × State := a.read i (a.pages.length + 1) 0 a.used s

/-- Appends bytes to an area of a pipeline: pages first, then the write. -/
def appendArea (slot i die : Nat) (k : AreaKind) (id : Nat) (d : List Byte) (p : PipeRun) (s : State) :
    Except Nat PipeRun × State :=
  let off := (p.area k id).used
  match growArea slot i die k id d.length p s with
  | (.error e, s) => (.error e, s)
  | (.ok p, s) =>
    match (p.area k id).put i off d s with
    | (some e, s) => (.error e, s)
    | (none, s) => (.ok p, s)

/-- Releases an area of a pipeline. -/
def freeArea (slot i : Nat) (k : AreaKind) (id : Nat) (p : PipeRun) (s : State) : PipeRun × State :=
  (p.dropArea k id, releasePages slot i (p.area k id).pages s)

/-- The die that holds the first page of an area (R291). -/
def Area.die (s : State) (i : Nat) (a : Area) : Option Nat :=
  match a.pages.head? with
  | none => none
  | some p =>
    match translate s i (p * pageSize) false with
    | .phys f => some (dieOfFrame (frameAt f))
    | _ => none

end Sys2Proof.Machine
end

