-- ==== Sys2Proof/Machine/QueryOps.lean ====
section
/-!
DEFINITION. Queries in flight: their pipelines, ready lists and cursors, flow IDs, merge passes, and the end of the
last pipeline (R63, R68, R74, R275, R286, R288, R300, R570, R571).
-/

namespace Sys2Proof.Machine

/-! ## Access -/

/-- The query that a command runs. -/
def queryRun (c : Cmd) : Option QueryRun :=
  match c.work with
  | .query q => some q
  | _ => none

/-- Changes the query of a command. -/
def modQuery (slot : Nat) (f : QueryRun → QueryRun) (s : State) : State :=
  s.modCmd slot fun c => match c.work with
    | .query q => { c with work := .query (f q) }
    | _ => c

def QueryRun.pipe (q : QueryRun) (n : Nat) : PipeRun := q.pipes.get .idle n

/-- A query with one pipeline changed. -/
def QueryRun.modPipe (q : QueryRun) (n : Nat) (f : PipeRun → PipeRun) : QueryRun :=
  { q with pipes := q.pipes.set .idle n (f (q.pipe n)) }

def modPipe (slot n : Nat) (f : PipeRun → PipeRun) (s : State) : State := modQuery slot (fun q => q.modPipe n f) s

/-- A query whose items may run: its outcome is open, no item has failed. -/
def liveQuery (s : State) (slot : Nat) : Option (Cmd × QueryRun) :=
  match s.cmd slot with
  | none => none
  | some c => if c.outcome.isNone && c.failure.isNone && decide (c.phase = .running) then (queryRun c).map fun q => (c, q) else none

/-- The input that an INPUT slot names. -/
def inputOf (q : QueryRun) (k : Nat) : Option InputRun := q.inputs.find? fun x => x.slot = k

/-- Items of a pipeline (R63). -/
def itemCount (q : QueryRun) (n : Nat) : Nat :=
  match q.plan.pipes[n]? with
  | none => 0
  | some e => if e.kind = 0 then ((inputOf q e.source).map (·.ngroups)).getD 0 else if e.kind = 1 then e.npart else 1

/-- Operators of a pipeline, in order. -/
def pipeOps (p : Plan) (n : Nat) : List OpEnt :=
  match p.pipes[n]? with
  | none => []
  | some e => e.opNums.filterMap (p.ops[·]?)

/-- A pipeline has an operator with FLOW set. -/
def pipeFlows (p : Plan) (n : Nat) : Bool := (pipeOps p n).any OpEnt.flow

/-- BREAKER of a pipeline. -/
def breakerOf (p : Plan) (n : Nat) : Nat := ((p.pipes[n]?).map (·.breaker)).getD 0

/-! ## Fan-out (R570) -/

/-- The pipeline that ends in an EXCHANGE with XMODE GATHER. -/
def gatherOf (p : Plan) : Option Nat :=
  (List.range p.pipes.length).find? fun n =>
    match lastArgs p n with
    | some (.exchange 2 _ _ _) => true
    | _ => false

/-- What a module does for a fan-out command. -/
inductive Role where
  | alone | top | leaf | middle
  deriving DecidableEq, Repr

/-- The record of the fan-out command in a slot. -/
def fanOf (s : State) (slot : Nat) : Option Fan := s.lnk.fans.find? fun f => f.slot = some slot

/-- The worker table under which a command with an acceptance number runs: the one in force when it was accepted (R23). -/
def workersAt (s : State) (acc : Nat) : List Worker :=
  ((s.lnk.oldTables.find? fun e => decide (acc < e.1)).map (·.2)).getD s.lnk.workers

/-- The worker table of a fan-out. -/
def fanWorkers (s : State) (f : Fan) : List Worker := workersAt s f.acc

def roleOf (s : State) (slot : Nat) : Role :=
  match fanOf s slot with
  | none => .alone
  | some f => if f.top then .top else if (fanWorkers s f).isEmpty then .leaf else .middle

/-- Whether a module in a role runs pipeline n: the worker part ends with the GATHER pipeline. -/
def runsPipe (r : Role) (p : Plan) (n : Nat) : Bool :=
  match r with
  | .alone => true
  | .middle => true
  | .top => decide ((gatherOf p).getD 0 < n)
  | .leaf => decide (n ≤ (gatherOf p).getD 0)

/-! ## Runs (R272, R275) -/

/-- A group for which no run has been made yet. -/
def SortRun.none : SortRun := { area := 0, nrec := 0 }

/-- Groups of 64 runs that a pass splits its runs into. -/
def passGroups (runs : Nat) : Nat := (runs + 63) / 64

/-- Merge jobs of a pass: a last group of one run is not a job. -/
def passJobs (runs : Nat) : Nat := if runs % 64 = 1 then runs / 64 else passGroups runs

/-- Starts a pass over more than 64 runs: its jobs go to the instance's SMU list. -/
def startPass (slot n : Nat) (s : State) : State :=
  match s.cmd slot with
  | none => s
  | some c =>
    match queryRun c with
    | none => s
    | some q =>
      let r := (q.pipe n).runs
      if r.length ≤ 64 then s
      else
        let rest := if r.length % 64 = 1 then [r.getLastD .none] else []
        let s := modPipe slot n (fun p => { p with
          nextRuns := List.replicate (passJobs r.length) .none ++ rest, finMade := 0, finEnded := 0 }) s
        addCursor slot n .jobs 1 s

/-! ## End marks of an EXCHANGE (R143, R571, R575) -/

/-- Key of worker w's report for EXCHANGE pipeline n in `Fan.ends`; w = 127 is this module's own report upward. -/
def endKey (n w : Nat) : Nat := 128 * n + w

/-- Changes the fan-out record of a slot. -/
def modFan (slot : Nat) (f : Fan → Fan) (s : State) : State :=
  { s with lnk := { s.lnk with fans := s.lnk.fans.map fun x => if x.slot = some slot then f x else x } }

/-- Every worker has reported END for EXCHANGE n. -/
def workersEnded (s : State) (f : Fan) (n : Nat) : Bool :=
  (List.range (fanWorkers s f).length).all fun w => f.ends.contains (endKey n w)

/-- XMODE of the EXCHANGE that ends a pipeline. -/
def exchangeMode (p : Plan) (n : Nat) : Option Nat :=
  match lastArgs p n with
  | some (.exchange m _ _ _) => some m
  | _ => none

/-- Frames of an EXCHANGE that have not been acknowledged. -/
def framesLeft (s : State) (xid : Nat) (n : Nat) : Bool :=
  s.lnk.sent.any fun f => decide (f.frame.xid.toNat = xid) &&
    ((decide (f.frame.ftype = ftXdata) && decide (leAt f.frame.payload 2 1 = n)) ||
     (decide (f.frame.ftype = ftEnd) && decide (leAt f.frame.payload 0 1 = n)))

/-- The end mark of every other member of the exchange group has come; a GATHER has no other sender here. -/
def marksIn (s : State) (p : PipeRun) (mode : Option Nat) : Bool :=
  decide (mode = some 2) || (List.range s.lnk.peers.length).all fun d => decide (d = s.lnk.index) || p.endMarks.contains d

/-- Reports END for EXCHANGE n to the manager, once this module's part and its workers' have ended: what it has sent is acknowledged,
and the end marks of its peers are there (R143, R575). -/
def reportUp (slot n : Nat) (s : State) : State :=
  match s.cmd slot, fanOf s slot with
  | some c, some f =>
    match queryRun c with
    | none => s
    | some q =>
      if f.top ∨ !(q.pipe n).endSent ∨ f.ends.contains (endKey n 127) ∨ !workersEnded s f n ∨ framesLeft s f.xid.toNat n ∨
          !marksIn s (q.pipe n) (exchangeMode q.plan n) then s
      else
        sendFrame ftEnd s.lnk.mgrHops s.lnk.mgrRoute c.inst f.xid c.prio (leBytes n 1)
          (modFan slot (fun f => { f with ends := f.ends ++ [endKey n 127] }) s)
  | _, _ => s

/-- Reports END upward for every EXCHANGE of a command for which it is due. -/
def reportAll (slot : Nat) (s : State) : State :=
  match (s.cmd slot).bind queryRun with
  | some q => forEach (reportUp slot) (List.range q.plan.pipes.length) s
  | none => s

/-- This module has sent all it has for EXCHANGE n: its end mark goes to the other members, and upward. -/
def sendEnd (slot n : Nat) (c : Cmd) (q : QueryRun) (s : State) : State :=
  match fanOf s slot with
  | none => modPipe slot n (fun p => { p with endSent := true, endMarks := [0] }) s
  | some f =>
    let s := modPipe slot n (fun p => { p with endSent := true, endMarks := p.endMarks ++ [s.lnk.index] }) s
    let s := if exchangeMode q.plan n = some 2 then s
      else forEach (fun (d : Nat) s =>
        match s.lnk.peers[d]? with
        | some (r, h) => if d = s.lnk.index then s else sendFrame ftEnd h r c.inst f.xid c.prio (leBytes n 1) s
        | none => s) (List.range s.lnk.peers.length) s
    reportUp slot n s

/-- The items of an EXCHANGE pipeline have ended and its outbox is empty: its end marks go out. A module between top
and leaves ends the GATHER when its manager part has run (R571; log 73). -/
def exchangeEnd (slot n : Nat) (itemsEnded : Bool) (s : State) : State :=
  match s.cmd slot with
  | none => s
  | some c =>
    match queryRun c with
    | none => s
    | some q =>
      let late := decide (roleOf s slot = .middle) && decide (gatherOf q.plan = some n)
      if !itemsEnded ∨ late ∨ (q.pipe n).endSent ∨ !(q.pipe n).outbox.isEmpty ∨ breakerOf q.plan n ≠ 4 then s
      else sendEnd slot n c q s

/-! ## The end of a pipeline's items -/

/-- The last item of a pipeline has ended: a pipeline without a breaker has finished, the others begin the finalising
step of their operator (R63, R122, R275, R143). -/
def itemsDone (slot n : Nat) (s : State) : State :=
  match s.cmd slot with
  | none => s
  | some c =>
    match queryRun c with
    | none => s
    | some q =>
      match breakerOf q.plan n with
      | 0 => modPipe slot n (fun p => { p with finished := true }) s
      | 1 => addCursor slot n .finals 0 (modPipe slot n (fun p => { p with finMade := 0, finEnded := 0 }) s)
      | 2 => startPass slot n s
      | 4 => exchangeEnd slot n true s
      | _ => s

/-- Whether a pipeline's items have all been made and ended. -/
def itemsOver (q : QueryRun) (n : Nat) : Bool :=
  let p := q.pipe n
  p.started && decide (p.ended = itemCount q n)

/-! ## Joining (R63, R68, R288, R300) -/

/-- Every pipeline named in DEPS has finished. -/
def depsMet (q : QueryRun) (e : PipeEnt) : Bool :=
  (List.range 16).all fun j => !bit e.deps j || (q.pipe j).finished

/-- Flow IDs that a plan takes: the sum of FLOWS. -/
def flowTotal (p : Plan) : Nat := (p.ops.map (·.flows)).sum

/-- The flow block of a command fits, and no command of the instance that was accepted earlier waits for one. -/
def flowsFit (s : State) (c : Cmd) (q : QueryRun) : Bool :=
  decide (s.disp.flowUsed.get 0 c.inst + flowTotal q.plan ≤ 65536) &&
  s.disp.flowQ.all fun k => (s.cmd k).all fun x => decide (x.inst ≠ c.inst) || decide (c.accNo ≤ x.accNo)

/-- A command joins a queue of commands in acceptance order. -/
def inAccOrder (s : State) (slot : Nat) (c : Cmd) (l : List Nat) : List Nat :=
  let early := fun (k : Nat) => (s.cmd k).any fun x => decide (x.accNo ≤ c.accNo)
  l.filter early ++ [slot] ++ l.filter fun k => !early k

/-- Takes the flow block. -/
def takeFlows (slot : Nat) (c : Cmd) (q : QueryRun) (s : State) : State :=
  let n := flowTotal q.plan
  let s := modQuery slot (fun q => { q with flows := n }) s
  { s with disp := { s.disp with flowUsed := s.disp.flowUsed.set 0 c.inst (s.disp.flowUsed.get 0 c.inst + n) } }

/-- The cursor of a pipeline joins its list; a pipeline without items is over at once. -/
def startPipe (slot n : Nat) (q : QueryRun) (s : State) : State :=
  let s := modPipe slot n (fun p => { p with started := true }) s
  if itemCount q n = 0 then itemsDone slot n s else addCursor slot n .items 0 s

/-- Starts every pipeline whose DEPS are met, in ascending order; a command that must wait for flow IDs has no
eligible item until it gets them. -/
def joinPipes : Nat → Nat → State → State
  | 0, _, s => s
  | fuel + 1, slot, s =>
    match liveQuery s slot with
    | none => s
    | some (c, q) =>
      let role := roleOf s slot
      let next := (List.range q.plan.pipes.length).find? fun n =>
        !(q.pipe n).started && runsPipe role q.plan n && (q.plan.pipes[n]?).any (depsMet q)
      match next with
      | none => s
      | some n =>
        if pipeFlows q.plan n && decide (q.flows = 0) then
          if flowsFit s c q then joinPipes fuel slot (startPipe slot n q (takeFlows slot c q s))
          else
            let s := s.modCmd slot fun c => { c with phase := .flowWait }
            { s with disp := { s.disp with flowQ := inAccOrder s slot c s.disp.flowQ, flowWaits := s.disp.flowWaits + 1 } }
        else joinPipes fuel slot (startPipe slot n q s)

/-! ## Outputs (R71 to R73, R77, R100, R101, R144 to R147) -/

/-- The EMIT operators of a plan that name a slot: pipeline, arguments, and whether an atomic flow of the pipeline
orders its items (R67, R138, R146). -/
def emitsTo (p : Plan) (k : Nat) : List (Nat × List (Nat × Nat) × Bool) :=
  ((List.range p.pipes.length).map fun n => (pipeOps p n).filterMap fun o =>
    match o.args with
    | .emit sl cols => if sl = k then some (n, cols, pipeFlows p n) else none
    | _ => none).flatten

/-- Types and encodings of the columns that an output holds: those of its first EMIT (log 66). -/
def outTypes (p : Plan) (k : Nat) : List (Ty × Nat) :=
  match emitsTo p k with
  | [] => []
  | (n, cols, _) :: _ =>
    let at_ := (pipeOps p n).findIdx fun o => match o.args with | .emit sl _ => decide (sl = k) | _ => false
    let env := envBefore p n at_
    cols.map fun c => (env.ty c.1, c.2)

/-- The rows of an output item by item, in the order in which they are written: a pipeline whose EMIT has FLOW set in item
order, the others as their items ended (R146). -/
def outItems (p : Plan) (o : OutRun) : List (Nat × Nat × List (List Val)) :=
  if (emitsTo p o.slot).any fun e => e.2.2 then sortOn (fun (e : Nat × Nat × List (List Val)) => e.2.1) o.rows else o.rows

/-- The rows of an output in the order in which they are written. -/
def outRows (p : Plan) (o : OutRun) : List (List Val) := ((outItems p o).map (·.2.2)).flatten

/-- Columns of an output from its rows. -/
def outCols (tys : List (Ty × Nat)) (rows : List (List Val)) : List OutCol :=
  tys.zipIdx.map fun x => (x.1.1, x.1.2, rows.map fun r => r.getD x.2 .null)

/-- Data bytes of an output of its first n rows, without the result header. CHUNK_ADDR is counted from the place of
the directory: its device address for DEVMEM, 0 otherwise (R100). -/
def outData (p : Plan) (o : OutRun) (n : Nat) : List Byte :=
  let rows := (outRows p o).take n
  let cols := outCols (outTypes p o.slot) rows
  if !o.named then [] else if o.format = 1 then arrowOutput cols rows.length
  else chunkOutput cols rows.length (if o.kind = 2 then o.offset + 64 else 0)

/-- The result header (R71). -/
def resultHeader (c : Cmd) (o : OutRun) (st rows bytes : Nat) : List Byte :=
  leBytes 0x5352515A 4 ++ leBytes st 4 ++ leBytes c.tag.toNat 8 ++ leBytes rows 8 ++ leBytes bytes 8 ++
  leBytes o.format 1 ++ zeros 31

/-- Writes bytes of an output at an offset of its area; a store output has none. The answer is the offset in the output at
which a write failed. -/
def writeOut (c : Cmd) (o : OutRun) (off : Nat) (d : List Byte) (s : State) : Option Nat × State :=
  if o.kind = 1 then
    (none, addCounter c.inst 3 d.length (hostWriteFor (s.sq c.inst c.sq).port c.inst c.accNo (c.addr1 + o.offset + off) d s))
  else if o.kind = 2 then
    let r := devWriteN c.inst (o.offset + off) d s
    (r.1.map fun e => e.2 - o.offset, r.2)
  else (none, s)

/-- Headers with STATE INCOMPLETE stand before the first data byte (R72). The answer is the first output whose header could not
be written. -/
def writeIncomplete (slot : Nat) (c : Cmd) (q : QueryRun) (s : State) : Option OutRun × State :=
  let r := forEach (fun (o : OutRun) (acc : Option OutRun × State) =>
    if o.header || decide (o.kind = 0) || decide (o.kind = 3) then acc
    else
      let w := writeOut c o 0 (resultHeader c o 0 0 0) acc.2
      (acc.1 <|> w.1.map fun _ => o, w.2)) q.outs (none, s)
  (r.1, modQuery slot (fun q => { q with outs := q.outs.map fun o => { o with header := true } }) r.2)

/-- PRS bytes of a row for a POINT_OUT slot (R147). -/
def pointBytes (tys : List (Ty × Nat)) (r : List Val) : List Byte :=
  (tys.zipIdx.map fun x => toPlain x.1.1 (r.getD x.2 .null)).flatten

/-- The rows of a POINT_OUT slot in ascending order of item, those of several pipelines by item number too (log 147). -/
def pointRows (o : OutRun) : List (List Val) :=
  ((sortOn (fun (e : Nat × Nat × List (List Val)) => e.2.1) o.rows).map (·.2.2)).flatten

/-- The results of a query stand where they belong: SUCCESS, once the host port has taken every write (R74 step 1, R552). -/
def endWritten (slot : Nat) (r0 : W64) (s : State) : State :=
  if (s.cmd slot).any (writesWait s) then s.modCmd slot fun c => { c with phase := .writeWait, r0 := r0 } else succeed slot r0 s

/-- A QUERY_POINT has run (R77, R147). -/
def finishPoint (slot : Nat) (c : Cmd) (q : QueryRun) (s : State) : State :=
  match q.outs.find? fun o => o.kind = 0 with
  | none => succeed slot 0 s
  | some o =>
    match pointRows o with
    | [] => succeed slot 0 s
    | r :: more =>
      let b := pointBytes (outTypes q.plan o.slot) r
      let flags := 4 + (if r.contains .null then 8 else 0) + (if more.isEmpty then 0 else 16)
      let s := s.modCmd slot fun c => { c with r1 := BitVec.ofNat 32 flags }
      if q.plan.prs ≤ 8 then succeed slot (BitVec.ofNat 64 (leNat b)) s
      else
        let s := addCounter c.inst 3 b.length (hostWriteFor (s.sq c.inst c.sq).port c.inst c.accNo c.addr1 b s)
        endWritten slot 0 s

/-! ### What an output needs (R70, R73, R100, R102, R146) -/

/-- No item writes to an output any more; `ending` is the pipeline of which an item is about to end. -/
def outClosed (q : QueryRun) (ending : Option Nat) (k : Nat) : Bool :=
  (emitsTo q.plan k).all fun e =>
    if ending = some e.1 then decide ((q.pipe e.1).ended + 1 = itemCount q e.1) else (q.pipe e.1).finished

/-- The data that an output has reserved: its complete chunks, all of it once its last row has come, with what describes
them. -/
def outReserved (q : QueryRun) (ending : Option Nat) (o : OutRun) : List Byte :=
  let rows := outRows q.plan o
  outData q.plan o (if outClosed q ending o.slot ∨ o.format = 1 then rows.length
    else completeRows (outCols (outTypes q.plan o.slot) rows) rows.length)

/-- The contents that the STORE outputs of a query give their objects. -/
def outImages (s : State) (c : Cmd) (q : QueryRun) (ending : Option Nat) : List (StoreObj × ObjImage) :=
  q.outs.filterMap fun o =>
    if o.kind = 3 then (objFor s c.inst o.tid c.accNo).map fun x => (x, imgReplace x.cur (outReserved q ending o)) else none

/-- The STORE outputs of a query together take more than the instance's capacity. -/
def storeOver (s : State) (c : Cmd) (q : QueryRun) (ending : Option Nat) : Bool := overAll s c.inst (outImages s c q ending)

/-- The status with which an output fails: past LIMIT, an Arrow buffer too long, past the store capacity, or with DUR an object with
a write fault (R427). -/
def outError (s : State) (c : Cmd) (q : QueryRun) (ending : Option Nat) (o : OutRun) : Option Nat :=
  if o.kind = 0 then none
  else if o.limit < (outReserved q ending o).length + (if o.kind = 3 then 0 else 64) then some stRange
  else if o.format = 1 && arrowTooLong (outCols (outTypes q.plan o.slot) (outRows q.plan o)) then some stRange
  else if o.kind = 3 ∧ storeOver s c q ending then some stExhausted
  else if o.kind = 3 ∧ c.dur ∧ (objFor s c.inst o.tid c.accNo).any (·.wfault) then some stMedia
  else none

/-- RESULT0 for an output: the EMIT that names its slot, in the pipeline of the item, and the item (R77). -/
def outR0 (p : Plan) (o : OutRun) (n item : Nat) : W64 :=
  let k := (pipeOps p n).findIdx fun x => match x.args with | .emit sl _ => decide (sl = o.slot) | _ => false
  BitVec.ofNat 64 (2 ^ 56 * n + 2 ^ 48 * k + item % 2 ^ 32)

/-- RESULT0 for an output that fails without an item. -/
def outNoItem (p : Plan) (o : OutRun) : W64 := outR0 p o (((emitsTo p o.slot).map (·.1)).headD 0) 0xFFFFFFFF

/-- The item whose rows reach the n-th row. -/
def itemOfRow : Nat → List (Nat × Nat × List (List Val)) → Option (Nat × Nat)
  | _, [] => none
  | n, (p, i, r) :: t => if n ≤ r.length then some (p, i) else itemOfRow (n - r.length) t

/-- Rows up to the end of the group to which a byte of a FORMAT 0 output belongs: that of its directory entry or its
chunk. -/
def rowsToByte (cols : List OutCol) (rows off : Nat) : Nat :=
  let gs := outGroups cols (rows + 1) rows
  let flat := (gs.map fun g => g.2.map fun b => (g.1, b)).flatten
  let dir := 64 + 16 * flat.length
  let k := if off < dir then (off - 64) / 16 else ((layChunks dir flat).1.filter fun e => decide (e.1 + e.2.1 ≤ off)).length
  ((gs.map (·.1)).take (k / max 1 cols.length + 1)).sum

/-- RESULT0 for a write of output data that fails at an offset of the data: it names the item whose rows completed what the
byte belongs to (R77, R146). -/
def outByteR0 (q : QueryRun) (o : OutRun) (off : Nat) : W64 :=
  let rows := outRows q.plan o
  let n := if o.format = 1 then rows.length else rowsToByte (outCols (outTypes q.plan o.slot) rows) rows.length off
  match itemOfRow n (outItems q.plan o) with
  | some (p, i) => outR0 q.plan o p (q.itemNo p i)
  | none => outNoItem q.plan o

/-- Writes the data of the outputs, one after another; the first device write that fails ends the command with
ACCESS_DENIED (R77, R151). -/
def writeOutputs (slot : Nat) (c : Cmd) (q : QueryRun) : List OutRun → State → Bool × State
  | [], s => (true, s)
  | o :: t, s =>
    let w := writeOut c o 64 (outData q.plan o (outRows q.plan o).length) s
    match w.1 with
    | none => writeOutputs slot c q t w.2
    | some a => (false, presentOutcome slot stDenied (outByteR0 q o (a - 64)) w.2)

/-- Bytes of the STORE outputs of a query. -/
def storeBytes (q : QueryRun) : Nat :=
  ((q.outs.filter fun o => o.kind = 3).map fun o => (outData q.plan o (outRows q.plan o).length).length).sum

/-- The STORE outputs of a query are staged: they hold their frames and extent copies until they are published (R73, R424). -/
def stageOutputs (slot : Nat) (c : Cmd) (q : QueryRun) (s : State) : State :=
  let n := moreCopies s (outImages s c q none)
  modQuery slot (fun q => { q with frames := framesFor (storeBytes q), copies := n }) s

/-- The last item of every pipeline without a breaker has ended: the data stands in the outputs and the command
reaches its commit point (R74, steps 1 and 2). An EMIT pipeline without items has not been held to LIMIT and capacity
before (R70, R73). STORE outputs wait for space in a full write cache (R424). -/
def finishQuery (slot : Nat) (c : Cmd) (q : QueryRun) (s : State) : State :=
  if nSlots ≤ slot then succeed slot 0 s
  else if q.plan.point then finishPoint slot c q s
  else
    match q.outs.findSome? fun o => (outError s c q none o).map fun st => (st, outNoItem q.plan o) with
    | some (st, r0) => presentOutcome slot st r0 s
    | none =>
      if storeBytes q ≠ 0 ∧ !cacheRoom s c.inst (storeBytes q) then
        let s := s.modCmd slot fun c => { c with phase := .cacheWait }
        { s with store := { s.store with cacheQ := s.store.cacheQ ++ [slot] } }
      else
        match writeIncomplete slot c q (stageOutputs slot c q s) with
        | (some o, s) => presentOutcome slot stDenied (outNoItem q.plan o) s
        | (none, s) =>
          let w := writeOutputs slot c q q.outs s
          if w.1 then endWritten slot (BitVec.ofNat 64 ((q.outs.map fun o => (outRows q.plan o).length).sum)) w.2 else w.2

/-- Whether everything that this module runs of a query has finished. -/
def queryOver (s : State) (slot : Nat) (q : QueryRun) : Bool :=
  let role := roleOf s slot
  let g := (gatherOf q.plan).getD 0
  ((List.range q.plan.pipes.length).all fun n =>
    !runsPipe role q.plan n || decide (breakerOf q.plan n ≠ 0) || (q.pipe n).finished) &&
  (match role with
   | .leaf => (q.pipe g).finished
   | .middle => (q.pipe g).edge
   | _ => true)

/-- A module between top and leaves has run its manager part: once its rows are sent, it reports END upward. -/
def middleEnd (slot : Nat) (s : State) : State :=
  match liveQuery s slot with
  | none => s
  | some (c, q) =>
    let g := (gatherOf q.plan).getD 0
    let ran := (List.range q.plan.pipes.length).all fun n => decide (breakerOf q.plan n ≠ 0) || (q.pipe n).finished
    if roleOf s slot = .middle ∧ ran ∧ (q.pipe g).finished ∧ (q.pipe g).outbox.isEmpty ∧ !(q.pipe g).endSent then
      sendEnd slot g c q s
    else s

/-- After a change of pipelines: those whose DEPS are met start, and a query that is over reaches its commit point. -/
def settle (slot : Nat) (s : State) : State :=
  let s := middleEnd slot (joinPipes 17 slot s)
  match liveQuery s slot with
  | none => s
  | some (c, q) => if queryOver s slot q then finishQuery slot c q s else s

end Sys2Proof.Machine
end

