-- ==== Sys2Proof/Machine/Query.lean ====
section
/-!
DEFINITION. Binding a plan to data (R55 to R61, R68 to R70, R570): QUERY, QUERY_POINT and the reads that precede the
first item.
-/

namespace Sys2Proof.Machine

/-! ## Descriptors (R53, R55, R56) -/

/-- The fields of a QUERY. -/
def queryDesc (c : Cmd) (p : Plan) : Option Nat :=
  let n := bits (c.param 0) 12 0
  if p.point ∨ (p.pbSize ≠ 0 ∧ c.addr0 % 8 ≠ 0) ∨ n % 8 ≠ 0 ∨ n < p.pbSize ∨ 4096 < n ∨ c.addr1 % 64 ≠ 0 then some stParam
  else if c.segs.isEmpty ∧ n ≠ c.len then some stLength
  else none

/-- The fields of a QUERY_POINT. -/
def pointDesc (c : Cmd) (p : Plan) : Option Nat :=
  if !entLast c.first then some stChain
  else if !p.point ∨ c.word 2 ≠ 0 ∨ c.word 3 ≠ 0 ∨ (if p.prs ≤ 8 then decide (c.addr1 ≠ 0) else decide (c.addr1 % 8 ≠ 0)) then
    some stParam
  else none

/-! ## The parameter block (R57, R59, R61, R69, R70) -/

/-- The record of an INPUT slot. -/
def inputRun (pb : List Byte) (k : Nat) (e : SlotEnt) : InputRun :=
  let b := (pb.drop e.offset).take e.size
  { slot := k, kind := leAt b 0 1, ncol := leAt b 1 1, first := leAt b 4 4, ngroups := leAt b 8 4, tid := leAt b 0xC 4,
    addr := leAt b 0x10 8, dir := [], loaded := false, snap := .empty }

/-- The record of an OUTPUT slot; a POINT_OUT slot has kind 0. -/
def outRun (p : Plan) (pb : List Byte) (k : Nat) (e : SlotEnt) : OutRun :=
  let b := (pb.drop e.offset).take e.size
  let named := !(emitsTo p k).isEmpty
  if e.kind = 6 then
    { slot := k, kind := 0, format := 0, tid := 0, offset := 0, limit := 0, named := named, header := false, rows := [] }
  else
    { slot := k, kind := leAt b 0 1, format := leAt b 1 1, tid := leAt b 4 4, offset := leAt b 8 8, limit := leAt b 0x10 8,
      named := named, header := false, rows := [] }

/-- The inputs of a block. -/
def blockInputs (p : Plan) (pb : List Byte) : List InputRun :=
  p.slots.zipIdx.filterMap fun x => if x.1.kind = 2 then some (inputRun pb x.2 x.1) else none

/-- The outputs of a block. -/
def blockOuts (p : Plan) (pb : List Byte) : List OutRun :=
  p.slots.zipIdx.filterMap fun x => if x.1.kind = 3 ∨ x.1.kind = 6 then some (outRun p pb x.2 x.1) else none

/-- Two ranges of bytes meet. -/
def meets (a n b m : Nat) : Bool := decide (a < b + m) && decide (b < a + n)

/-- Every pair of a list, in order. -/
def pairsOf {α : Type} : List α → List (α × α)
  | [] => []
  | a :: t => t.map (fun b => (a, b)) ++ pairsOf t

/-- The checks of R70 on the outputs of a QUERY. -/
def outputsOk (c : Cmd) (p : Plan) (outs : List OutRun) : Bool :=
  let host := outs.filter fun o => o.kind = 1
  let dev := outs.filter fun o => o.kind = 2
  let res := c.param 1
  (if host.isEmpty then decide (c.addr1 = 0) && decide (res = 0) else decide (c.addr1 ≠ 0) && decide (res ≠ 0)) &&
  host.all (fun o => decide (o.offset + o.limit ≤ res)) &&
  (host.isEmpty || decide (p.pbSize = 0) || !meets c.addr1 res c.addr0 (bits (c.param 0) 12 0)) &&
  (pairsOf host ++ pairsOf dev).all fun x => !meets x.1.offset x.1.limit x.2.offset x.2.limit

/-- HOST inputs find their segments in the chain; segments that no input uses are ignored (log 67). An input without groups is held to
the chain too: DESIGN CHOICE, log 147. -/
def segmentsOk (c : Cmd) (ins : List InputRun) : Bool :=
  ins.all fun x => decide (x.kind ≠ 3) || decide (x.addr + x.ncol * x.ngroups ≤ c.segs.length)

/-- The columns of the EMIT operators of a pipeline's plan with their types. -/
def emitTypes (p : Plan) (n : Nat) : List (List Ty) :=
  ((pipeOps p n).zipIdx.filterMap fun x =>
    match x.1.args with
    | .emit _ cols => some (cols.map fun c => (envBefore p n x.2).ty c.1)
    | _ => none)

/-- The types of the columns that a GATHER sends. -/
def gatherTypes (p : Plan) (g : Nat) : List Ty :=
  match lastArgs p g with
  | some (.exchange _ _ _ cols) => cols.map fun c => ((planEnvs p).getD g []).ty c
  | _ => []

/-- The checks of R570 on a fan-out command, for a module in a role. -/
def fanOk (r : Role) (p : Plan) (ins : List InputRun) : Bool :=
  let g := (gatherOf p).getD 0
  ((List.range (g + 1)).all fun n => (emitTypes p n).isEmpty) && ins.all (fun x => decide (x.kind ≠ 3)) &&
  (decide (r ≠ .middle) || (List.range p.pipes.length).all fun n =>
    decide (n ≤ g) || (emitTypes p n).all fun t => decide (t = gatherTypes p g))

/-! ## Group directories (R60, R61) -/

/-- An input that a SCAN of a pipeline run here reads. -/
def inputUsed (s : State) (slot : Nat) (q : QueryRun) (x : InputRun) : Bool :=
  (List.range q.plan.pipes.length).any fun n =>
    runsPipe (roleOf s slot) q.plan n && (q.plan.pipes[n]?).any fun e => decide (e.kind = 0) && decide (e.source = x.slot)

/-- The cursors of the query are made; nothing is written yet. -/
def startPipes (slot : Nat) (s : State) : State :=
  match s.cmd slot with
  | none => s
  | some c =>
    match queryRun c with
    | none => s
    | some q =>
      let role := roleOf s slot
      let g := (gatherOf q.plan).getD 0
      -- the worker part of a fan-out runs elsewhere: its pipelines before the GATHER are over for the top
      let away := fun (q : QueryRun) => (List.range g).foldl (fun q n =>
        q.modPipe n fun p => { p with started := true, finished := true }) q
      let s := modQuery slot (fun q => { (if role = .top then away q else q) with dirDone := true }) s
      settle slot (setPhase slot .running s)

/-- The extents of a STORE input that hold its directory's header and the entries of the groups in use. -/
def directoryExts (x : InputRun) : List Nat :=
  (extsOf x.addr 64 ++ extsOf (x.addr + 64 + 16 * (x.first * x.ncol)) (16 * (x.ncol * x.ngroups))).dedup

/-- Reads extents of a STORE input from media. -/
def readInput (slot : Nat) (r0 : Option W64) (c : Cmd) (x : InputRun) (es : List Nat) (s : State) : State :=
  match objFor s c.inst x.tid c.accNo with
  | none => s
  | some o => readExtents slot r0 o x.snap es s

/-- The directories of the inputs are read next, when there are any. -/
def readDirectories (slot : Nat) (s : State) : State :=
  match s.cmd slot, (s.cmd slot).bind queryRun with
  | some c, some q =>
    let used := q.inputs.filter fun x => decide (x.kind ≠ 3) && inputUsed s slot q x
    if used.isEmpty then startPipes slot s
    else
      forEach (fun (x : InputRun) s => if x.kind = 2 then readInput slot none c x (directoryExts x) s else s) used
        (setPhase slot .directory s)
  | _, _ => s

/-- Takes the snapshots of the STORE inputs once no overlapping predecessor of the SQ stands before them (R412,
R418). -/
def tryQuery (slot : Nat) (s : State) : State :=
  match s.cmd slot with
  | none => s
  | some c =>
    match queryRun c with
    | none => s
    | some q =>
      if c.phase ≠ .ordering ∨ c.outcome.isSome ∨ !s.store.mounted ∨ orderBlocked s c (queryObjs q) then s
      else
        let take := fun (x : InputRun) =>
          if x.kind ≠ 2 then x
          else match objFor s c.inst x.tid c.accNo with
            | some o => { x with snap := o.cur, loaded := true }
            | none => x
        if q.inputs.any fun x => decide (x.kind = 2) && (objFor s c.inst x.tid c.accNo).isNone then failCmd slot stParam s
        else readDirectories slot (modQuery slot (fun q => { q with inputs := q.inputs.map take }) s)

/-! ## Fan-out (R570, R571) -/

/-- Payload of a FANOUT frame: time left to the deadline in ns, 0 for none; plan ID; level; then the parameter block
(log 68). -/
def fanoutPayload (left plan level : Nat) (pb : List Byte) : List Byte :=
  leBytes left 8 ++ leBytes plan 4 ++ leBytes level 1 ++ zeros 3 ++ pb

/-- FANOUT frames to every worker. -/
def sendFanout (c : Cmd) (xid : Nat) (pb : List Byte) (s : State) : State :=
  let left := match c.deadline with | some d => max 1 (d - s.time) | none => 0
  forEach (fun (w : Worker) s =>
    sendFrame ftFanout w.hops w.route c.inst (BitVec.ofNat 64 xid) c.prio (fanoutPayload left c.obj c.prio pb) s) (workersAt s c.accNo) s

/-- The record of a fan-out command that this module takes part in. -/
def newFan (xid inst slot : Nat) (top : Bool) (pb : List Byte) (now acc : Nat) : Fan :=
  { xid := BitVec.ofNat 64 xid, inst := inst, top := top, slot := some slot, ends := [], stopAcks := [], armAcks := [],
    armed := [], stopped := false, status := none, lastFrame := now, params := pb, owed := [], acc := acc }

/-- Begins the fan-out of a QUERY on a module with workers, whose plan holds a GATHER (R570). -/
def beginFan (slot : Nat) (c : Cmd) (q : QueryRun) (pb : List Byte) (s : State) : State :=
  if nSlots ≤ slot then
    if (workersAt s c.accNo).isEmpty then s else sendFanout c q.xid pb s
  else if (workersAt s c.accNo).isEmpty ∨ (gatherOf q.plan).isNone then s
  else
    let xid := s.lnk.nextXid + 1
    let s := { s with lnk := { s.lnk with
      nextXid := xid, fans := s.lnk.fans ++ [newFan xid c.inst slot true pb s.time c.accNo] } }
    sendFanout c xid pb (modQuery slot (fun q => { q with xid := xid }) s)

/-- The parameter block stands in the module: it is checked, and the query is bound to its inputs and outputs (R57,
R58, R70). -/
def startBlock (slot : Nat) (pb : List Byte) (s : State) : State :=
  match s.cmd slot with
  | none => s
  | some c =>
    match queryRun c with
    | none => s
    | some q =>
      let ins := blockInputs q.plan pb
      let remote := decide (nSlots ≤ slot)
      let ws := workersAt s c.accNo
      let fan := remote || (!ws.isEmpty && (gatherOf q.plan).isSome)
      let role : Role := if !fan then .alone else if !remote then .top else if ws.isEmpty then .leaf else .middle
      if blockFails s c.inst c.accNo q.plan pb ≠ [] ∨ !segmentsOk c ins ∨
          (c.opc = 1 ∧ !remote ∧ !outputsOk c q.plan (blockOuts q.plan pb)) ∨ (fan ∧ !fanOk role q.plan ins) then
        failCmd slot stParam s
      else
        let s := modQuery slot (fun q => { q with
          pb := pb, inputs := ins, outs := if remote then [] else blockOuts q.plan pb }) s
        let s := beginFan slot c q pb s
        if ins.any fun x => x.kind = 2 then tryQuery slot (setPhase slot .ordering s) else readDirectories slot s

/-! ## Commands and events -/

/-- Runs a query opcode: no plan, then its descriptor, then its work (R53). -/
def onQuery (slot opc : Nat) (desc : Cmd → Plan → Option Nat) (f : Cmd → QueryRun → State → State) (s : State) : State :=
  onHanded slot opc (fun c s =>
    match queryRun c with
    | none => failCmd slot stNoPlan s
    | some q =>
      match desc c q.plan with
      | some st => failCmd slot st s
      | none => f c q s) s

/-- QUERY: a plan with parameter slots asks the host for its parameter block. -/
def execQuery (slot : Nat) (s : State) : Host.Outcome State Fault Refusal :=
  .next (onQuery slot 1 queryDesc (fun c q s =>
    if q.plan.pbSize = 0 then startBlock slot [] s else askHost slot c c.addr0 q.plan.pbSize s) s)

/-- The default parameter block with the POINT slots taken from PARAM0 to PARAM2, in ascending slot order (R56). -/
def pointBlock (c : Cmd) (p : Plan) : List Byte :=
  ((p.slots.filter SlotEnt.point).zipIdx).foldl (fun pb x =>
    pb.take x.1.offset ++ leBytes (c.param x.2) x.1.size ++ pb.drop (x.1.offset + x.1.size)) p.defaults

/-- QUERY_POINT: the probe starts without a host read. -/
def execQueryPoint (slot : Nat) (s : State) : Host.Outcome State Fault Refusal :=
  .next (onQuery slot 2 pointDesc (fun c q s => startBlock slot ((pointBlock c q.plan).take q.plan.pbSize) s) s)

/-- PARAM_BLOCK_READ_DONE: the host has answered the read of the parameter block, or the read has failed. -/
def execParamBlockReadDone (slot : Nat) (data : Option (List Byte)) (s : State) : Host.Outcome State Fault Refusal :=
  match s.cmd slot with
  | none => .next s
  | some c =>
    if c.phase ≠ .hostRead ∨ c.opc ≠ 1 ∨ c.outcome.isSome then .next s
    else
      match hostGave s (s.sq c.inst c.sq).port data, queryRun c with
      | some d, some q =>
        if d.length < q.plan.pbSize then .next (failCmd slot stHost s) else .next (startBlock slot (d.take q.plan.pbSize) s)
      | _, _ => .next (failCmd slot stHost s)

/-- Reads bytes of an input's source; none for a read that faults (R61). -/
def readSource (c : Cmd) (x : InputRun) (a n : Nat) (s : State) : Option (List Byte) × State :=
  if x.kind = 1 then
    let r := devReadN c.inst a n s
    (if r.2.1.isNone then some r.1 else none, r.2.2)
  else
    if x.snap.size < a + n then (none, s) else (some (imgRead x.snap a n), addCounter c.inst 2 n s)

/-- The header of a group directory is in order for an input (R60). -/
def directoryOk (x : InputRun) (b : List Byte) : Bool :=
  decide (leAt b 0 4 = 0x4447515A) && decide (leAt b 4 2 = x.ncol) && zeroAt b 6 2 && zeroAt b 0xC 52 &&
  decide (x.first + x.ngroups ≤ leAt b 8 4)

/-- An entry of a group directory. -/
def dirEntry (b : List Byte) (k : Nat) : Nat × Nat × Nat := (leAt b (16 * k) 8, leAt b (16 * k + 8) 4, leAt b (16 * k + 12) 4)

/-- Reads the directory of an input: the header, then the entries of the groups in use. -/
def loadDirectory (c : Cmd) (x : InputRun) (s : State) : Option InputRun × State :=
  match readSource c x x.addr 64 s with
  | (none, s) => (none, s)
  | (some h, s) =>
    if !directoryOk x h then (none, s)
    else
      let k := x.ncol * x.ngroups
      if k = 0 then (some { x with loaded := true }, s)
      else
        match readSource c x (x.addr + 64 + 16 * (x.first * x.ncol)) (16 * k) s with
        | (none, s) => (none, s)
        | (some b, s) => (some { x with dir := (List.range k).map (dirEntry b), loaded := true }, s)

/-- Loads the directories of the inputs of a list; none as soon as one fails. -/
def loadDirectories (c : Cmd) (used : InputRun → Bool) : List InputRun → State → Option (List InputRun) × State
  | [], s => (some [], s)
  | x :: t, s =>
    let r := if x.kind ≠ 3 ∧ used x then loadDirectory c x s else (some x, s)
    match r with
    | (none, s) => (none, s)
    | (some y, s) =>
      let q := loadDirectories c used t s
      (q.1.map fun l => y :: l, q.2)

/-- GROUP_DIRECTORY_READ_DONE: the directories have been read, those of STORE inputs from media (R408); one that fails ends the command with PARAM_INVALID. -/
def execGroupDirectoryReadDone (slot : Nat) (s : State) : Host.Outcome State Fault Refusal :=
  match s.cmd slot with
  | none => .next s
  | some c =>
    if c.phase ≠ .directory ∨ c.outcome.isSome ∨ readsLeft s slot then .next s
    else
      match queryRun c with
      | none => .next s
      | some q =>
        match loadDirectories c (inputUsed s slot q) q.inputs s with
        | (none, s) => .next (failCmd slot stParam s)
        | (some ins, s) => .next (startPipes slot (modQuery slot (fun q => { q with inputs := ins }) s))

/-- FLOW_ID_WAIT_END: a command that waited takes its flow block, in acceptance order within its instance, and its
pipelines go on; their items become eligible now (R300, R309). -/
def execFlowIdWaitEnd (slot : Nat) (s : State) : Host.Outcome State Fault Refusal :=
  match s.cmd slot with
  | none => .next s
  | some c =>
    match queryRun c with
    | none => .next s
    | some q =>
      if c.phase ≠ .flowWait ∨ c.outcome.isSome ∨ !s.disp.flowQ.contains slot ∨ !flowsFit s c q then .next s
      else
        let s := { s with disp := { s.disp with
          flowQ := s.disp.flowQ.filter (· ≠ slot),
          lists := s.disp.lists.map fun e =>
            (e.1, { e.2 with cursors := e.2.cursors.map fun x => if x.slot = slot then { x with since := s.time } else x }) } }
        .next (settle slot (takeFlows slot c q (setPhase slot .running s)))

end Sys2Proof.Machine
end

