-- ==== Sys2Proof/Machine/Operators.lean ====
section
/-!
DEFINITION. What the operators of an item compute (R103 to R149, R267 to R278): batches, SCAN and VERIFY, filters,
joins, matches, sorts and merges.
-/

namespace Sys2Proof.Machine

/-- A batch of rows with its selection mask: a cleared row is none (R104). -/
abbrev Batch := List (Option Row)

/-- An item as its operators see it: the command, the pipeline, the item number, the die of its frond, and what the host
delivered for the chunks of a HOST input. -/
structure Item where
  slot : Nat
  pipe : Nat
  idx : Nat
  c : Cmd
  die : Nat
  host : List (Option (List Byte))

/-- What an operator makes of its batches: new batches, or the status with which the item fails, `stWaits` where it cannot end
yet. The query and the rest of the module go on with it. -/
abbrev OpOut := Except Nat (List Batch) × QueryRun × State

/-! ## Device-memory state of an item's pipeline (R153) -/

/-- Goes on with what a step has given, or fails with it. -/
def thenOk {α β : Type} (r : Except Nat α × State) (f : α → State → Except Nat β × State) : Except Nat β × State :=
  match r with
  | (.error e, s) => (.error e, s)
  | (.ok a, s) => f a s

/-- Rows in the PLAIN layout of R90: for each column a validity bitmap, then its body (log 148). -/
def plainRows (tys : List Ty) (rows : List (List Val)) : List Byte :=
  (tys.zipIdx.map fun t =>
    let vs := rows.map fun r => r.getD t.2 .null
    packCodes 1 (vs.map fun v => if v = .null then 0 else 1) ++ plainBody t.1 vs).flatten

/-- Appends bytes to areas of the item's pipeline, one after another; the status of the first that fails. -/
def appendAll (it : Item) (k : AreaKind) : List (Nat × List Byte) → PipeRun → State → Except Nat PipeRun × State
  | [], p, s => (.ok p, s)
  | (id, d) :: t, p, s =>
    match appendArea it.slot it.c.inst it.die k id d p s with
    | (.error e, s) => (.error e, s)
    | (.ok p, s) => appendAll it k t p s

/-- The rows of a list by partition, in ascending order. -/
def byPart {α : Type} (part : α → Nat) (l : List α) : List (Nat × List α) :=
  (sortOn id ((l.map part).dedup)).map fun k => (k, l.filter fun x => part x = k)

/-- Reads areas of a pipeline whole; the status of the first that fails. -/
def readAreas (i : Nat) (p : PipeRun) (k : AreaKind) : List Nat → State → Except Nat Unit × State
  | [], s => (.ok (), s)
  | id :: t, s =>
    match (p.area k id).readAll i s with
    | (.error e, s) => (.error e, s)
    | (.ok _, s) => readAreas i p k t s

/-! ## Batches -/

/-- Rows cut into batches of at most 4,096. -/
def cutBatches : Nat → List Row → List Batch
  | 0, _ => []
  | fuel + 1, l => if l.isEmpty then [] else (l.take 4096).map some :: cutBatches fuel (l.drop 4096)

def batchesOf (l : List Row) : List Batch := cutBatches (l.length + 1) l

/-- The selected rows of batches, in order. -/
def liveRows (bs : List Batch) : List Row := (bs.map fun b => b.filterMap id).flatten

/-- Applies an operation to every selected row; none as soon as one fails. -/
def mapRows (f : Row → Option (Option Row)) (bs : List Batch) : Option (List Batch) :=
  bs.mapM fun b => b.mapM fun r => match r with | none => some none | some r => f r

/-- A free order of a list. -/
def shuffle {α : Type} : Nat → List α → State → List α × State
  | 0, l, s => (l, s)
  | fuel + 1, l, s =>
    if l.length ≤ 1 then (l, s)
    else
      let r := s.freshNat
      let k := r.1 % l.length
      match l[k]? with
      | none => (l, r.2)
      | some x =>
        let t := shuffle fuel (l.eraseIdx k) r.2
        (x :: t.1, t.2)

/-- Inserts into a list ordered by `le`, after the elements that do not come after it. -/
def insertLe {α : Type} (le : α → α → Bool) (a : α) : List α → List α
  | [] => [a]
  | b :: t => if le a b then a :: b :: t else b :: insertLe le a t

/-- Sorts by an order; equal elements keep their order. -/
def sortLe {α : Type} (le : α → α → Bool) : List α → List α
  | [] => []
  | a :: t => insertLe le a (sortLe le t)

/-- The value that a PARAM term reads. -/
def parVal (q : QueryRun) (k : Nat) : Val :=
  match q.plan.slots[k]? with
  | some e => slotValue q.pb k e
  | none => .null

def Row.val (r : Row) (c : Nat) : Val := r.get .null c

/-- The hash of key columns of a row (R115). -/
def rowHash (seed : W64) (env : Env) (keys : List KeyEnt) (r : Row) : W64 :=
  hashKey seed (keys.map fun k => (env.ty k.col, k.coll, r.val k.col))

/-! ## SCAN and VERIFY (R62, R95, R96, R116 to R118, R139, R140) -/

/-- The distinct ICOLs of a SCAN in the order of its entries: the chunks that it reads. -/
def scanChunks (cols : List ScanCol) : List Nat :=
  cols.foldl (fun l c => if l.contains c.icol then l else l ++ [c.icol]) []

/-- A chunk as it was delivered: its bytes, its length and ROWS by the directory, and whether it starts on an 8-byte
boundary. -/
structure ChunkRead where
  bytes : List Byte
  len : Nat
  rows : Option Nat
  aligned : Bool

/-- Reads one chunk of a group; `k` is its place among the chunks that the SCAN lists. -/
def readChunk (it : Item) (x : InputRun) (icol k : Nat) (s : State) : Except Nat ChunkRead × State :=
  let at_ := it.idx * x.ncol + icol
  if x.kind = 3 then
    match it.host.getD k none, it.c.segs[x.addr + at_]? with
    | some d, some (a, n) =>
      if d.length < n.toNat then (.error stHost, s)
      else (.ok { bytes := d.take n.toNat, len := n.toNat, rows := none, aligned := decide (a.toNat % 8 = 0) }, s)
    | _, _ => (.error stHost, s)
  else
    let e := x.dir.getD at_ (0, 0, 0)
    let got := fun (d : List Byte) => ({ bytes := d, len := e.2.1, rows := some e.2.2, aligned := decide (e.1 % 8 = 0) } : ChunkRead)
    if x.kind = 1 then
      match devReadN it.c.inst e.1 e.2.1 s with
      | (d, none, s) => (.ok (got d), s)
      | (_, some f, s) => (.error f.1.status, s)
    else
      -- a chunk that reaches past SIZE disagrees with what is delivered (log 69)
      if x.snap.size < e.1 + e.2.1 then (.error stFormat, s)
      else (.ok (got (imgRead x.snap e.1 e.2.1)), addCounter it.c.inst 2 e.2.1 s)

/-- Bytes of an item's chunk area: the working region above WORK_BYTES (R140). -/
def chunkArea (work : Nat) : Nat := 0x1C0000 - (0x40000 + roundUp work 4096)

/-- Puts a chunk into a staging copy: pages of the instance, from which SCAN and VERIFY work (R140). -/
def stageChunk (it : Item) (b : List Byte) (s : State) : Except Nat (List Nat) × State :=
  thenOk (takePages it.slot it.c.inst it.die (pagesFor b.length) s) fun new s =>
    let a : Area := { kind := .run, id := 0, pages := new, used := b.length }
    match a.put it.c.inst 0 b s with
    | (some e, s) => (.error e, s)
    | (none, s) => thenOk (a.readAll it.c.inst s) fun _ s => (.ok new, s)

/-- Reads the listed chunks in order: those of a HOST or STORE input go into the chunk area while they fit, of which `room` is left,
or into staging copies (R140). The answer is the chunks with the pages taken; a failure says whether it was one of staging. -/
def readChunks (it : Item) (x : InputRun) : Nat → List Nat → List (Nat × Nat) → State →
    Except (Bool × Nat) (List ChunkRead × List Nat) × State
  | _, ps, [], s => (.ok ([], ps), s)
  | room, ps, (icol, k) :: t, s =>
    match readChunk it x icol k s with
    | (.error e, s) => (.error (false, e), s)
    | (.ok a, s) =>
      let fits := decide (x.kind = 1) || decide (a.bytes.length ≤ room)
      match if fits then (.ok [], s) else stageChunk it a.bytes s with
      | (.error e, s) => (.error (true, e), s)
      | (.ok new, s) =>
        match readChunks it x (if fits then room - a.bytes.length else room) (ps ++ new) t s with
        | (.error e, s) => (.error e, s)
        | (.ok l, s) => (.ok (a :: l.1, l.2), s)

/-- A chunk that has passed its header-time checks. -/
abbrev CheckedChunk := Nat × List Byte × ChunkHdr × List Page

/-- The header-time checks of a chunk: its place (R83), its own, the types of the entries that list it, ROWS of the directory
and of the group's first chunk. -/
def checkChunk (cols : List ScanCol) (rows : Option Nat) (icol : Nat) (r : ChunkRead) : Option CheckedChunk :=
  match headerCheck r.bytes r.len with
  | none => none
  | some (h, ps) =>
    if r.aligned && (cols.filter fun c => c.icol = icol).all (fun c => decide (c.ty = h.ty)) &&
        decide (r.rows.getD h.rows = h.rows) && decide (rows.getD h.rows = h.rows) then some (icol, r.bytes, h, ps)
    else none

def checkChunks (cols : List ScanCol) : Option Nat → List (Nat × ChunkRead) → Option (List CheckedChunk)
  | _, [] => some []
  | rows, (icol, r) :: t =>
    match checkChunk cols rows icol r with
    | none => none
    | some c => (checkChunks cols (some c.2.2.1.rows) t).map fun l => c :: l

/-- The chunks of a group carry one ROWS in the directory, those that no entry lists too (R62). -/
def groupRowsOk (x : InputRun) (idx : Nat) : Bool :=
  let g := ((x.dir.drop (idx * x.ncol)).take x.ncol).map (·.2.2)
  decide (x.kind = 3) || g.all fun n => decide (some n = g.head?)

/-- DIG_CMP of a chunk's digest and the one that its trailer holds (R87, R88, R139). -/
def digestOk (b : List Byte) : Bool :=
  decide (cmpOf (sha256 (b.take (b.length - 64))) ((b.drop (b.length - 64)).take 32) 32 = 1)

/-- The arguments of operator k of a pipeline. -/
def argsAt (p : Plan) (n k : Nat) : Option OpArgs := ((pipeOps p n)[k]?).map fun o => o.args

/-- The VERIFY that directly follows the SCAN of a pipeline: its COLMASK, 0 where there is none. -/
def verifyMask (p : Plan) (n : Nat) : Nat :=
  match argsAt p n 1 with
  | some (.verify m) => m
  | _ => 0

/-- The rows that decoded columns give. -/
def rowsOf (cols : List ScanCol) (vals : List (Nat × List Val)) (n : Nat) : List Row :=
  (List.range n).map fun r => cols.foldl (fun row c =>
    match vals.find? fun v => v.1 = c.icol with
    | some v => Tbl.set Val.null row c.pcol (v.2.getD r .null)
    | none => row) []

/-- SCAN of an input: the chunks are read and checked, VERIFY passes them, and they are decoded; staging copies are released
then. The failure carries the operator: 0 is the SCAN, 1 the VERIFY, at which a copy that finds no page fails where there is one
(R151). Every listed chunk is read before the first header-time check (log 147). -/
def scanInput (it : Item) (cols : List ScanCol) (q : QueryRun) (s : State) : Except (Nat × Nat) (List Row) × State :=
  match (q.plan.pipes[it.pipe]?).bind fun e => inputOf q e.source with
  | none => (.error (0, stFormat), s)
  | some x =>
    let icols := scanChunks cols
    let work := ((q.plan.pipes[it.pipe]?).map (·.work)).getD 0
    let verify := (match argsAt q.plan it.pipe 1 with | some (.verify _) => true | _ => false)
    match readChunks it x (chunkArea work) [] icols.zipIdx s with
    | (.error (staging, e), s) => (.error (if staging && verify then 1 else 0, e), s)
    | (.ok (raw, pages), s) =>
      match if groupRowsOk x it.idx then checkChunks cols none (icols.zip raw) else none with
      | none => (.error (0, stFormat), s)
      | some cs =>
        let mask := verifyMask q.plan it.pipe
        let picked := cs.filter fun c => bit mask c.1
        if !picked.isEmpty && (List.range 4).all fun u => (s.dgu u).fault then (.error (1, stEngine), s)
        else if !(picked.all fun c => digestOk c.2.1) then (.error (1, stIntegrity), s)
        else
          match cs.mapM fun c => (decodeChunk c.2.2.1 c.2.2.2).map fun v => (c.1, v) with
          | none => (.error (0, stFormat), s)
          | some vals =>
            let n := (cs.head?.map fun c => c.2.2.1.rows).getD 0
            (.ok (rowsOf cols vals n), addCounter it.c.inst 0 n (releasePages it.slot it.c.inst pages s))

/-- Types of the rows that a breaker holds for a SCAN: the columns that an EXCHANGE sends, or a build's payload. -/
def keptTypes (p : Plan) (src pipe : Nat) : List Ty :=
  if src = 1 then gatherTypes p pipe
  else match lastArgs p pipe with
    | some (.hashBuild _ pays _ _) => pays.map fun c => ((planEnvs p).getD pipe []).ty c
    | _ => []

/-- The area that holds them. -/
def keptArea (src : Nat) : AreaKind := if src = 1 then .received else .table

/-- A SCAN's entries carry the types of what it reads (R117). -/
def keptOk (p : Plan) (src pipe : Nat) (cols : List ScanCol) : Bool :=
  cols.all fun c => decide ((keptTypes p src pipe)[c.icol]? = some c.ty)

/-- SCAN of rows that a breaker holds: received rows, or build rows whose mark is clear. -/
def scanKept (it : Item) (src pipe : Nat) (cols : List ScanCol) (q : QueryRun) : List Row :=
  let rows := (q.pipe pipe).rows.filter fun r => decide (r.part = it.idx) && (decide (src = 1) || !r.mark)
  rows.map fun r => cols.foldl (fun row c => Tbl.set Val.null row c.pcol (r.pay.getD c.icol .null)) []

/-! ## FILTER and PROJECT (R119, R120) -/

def filterRows (q : QueryRun) (e : List Term) (bs : List Batch) : Option (List Batch) :=
  mapRows (fun r => (evalExpr r (parVal q) e).map fun v => if v = .bool true then some r else none) bs

/-- The outputs see the columns as they were; DROP takes effect after them. -/
def projectRow (q : QueryRun) (drop : Nat) (outs : List (Nat × List Term)) (r : Row) : Option (Option Row) :=
  (outs.mapM fun o => (evalExpr r (parVal q) o.2).map fun v => (o.1, v)).map fun vs =>
    let kept : Row := r.filter fun x => !bit drop x.1
    some (vs.foldl (fun (row : Row) v => Tbl.set Val.null row v.1 v.2) kept)

/-! ## Hash joins (R121 to R125) -/

/-- Rows that an item adds to a build table. -/
def buildRows (env : Env) (keys : List KeyEnt) (pays : List Nat) (npart item : Nat) (rows : List Row) : List KRow :=
  rows.zipIdx.map fun x =>
    { part := hashPart (rowHash 0 env keys x.1) npart, item := item, pos := x.2, key := keys.map fun k => x.1.val k.col,
      pay := pays.map x.1.val, mark := false }

/-- A probe row with the payload of a build row. -/
def joinRow (pays : List (Nat × Nat)) (r : Row) (b : KRow) : Row :=
  pays.foldl (fun row p => Tbl.set Val.null row p.2 (b.pay.getD p.1 .null)) r

/-- The build rows that a probe row matches, by number; none when the residual overflows. -/
def matchesOf (q : QueryRun) (env : Env) (bkeys : List KeyEnt) (keys : List Nat) (pays : List (Nat × Nat))
    (resid : List Term) (build : List KRow) (r : Row) : Option (List Nat) :=
  let cand := build.zipIdx.filter fun b =>
    ((keys.zip bkeys).zip b.1.key).all fun k => eqNoNull k.1.2.coll (env.ty k.1.1) (r.val k.1.1) k.2
  (cand.mapM fun b =>
    if resid.isEmpty then some (some b.2)
    else (evalExpr (joinRow pays r b.1) (parVal q) resid).map fun v => if v = .bool true then some b.2 else none).map
      fun l => l.filterMap id

/-- Output rows of one probe row, before their order is chosen; the matched build rows keep their numbers. -/
def probeRow (q : QueryRun) (env : Env) (bp : PipeRun) (bkeys : List KeyEnt) (jkind : Nat) (keys : List Nat)
    (pays : List (Nat × Nat)) (resid : List Term) (r : Row) : Option (List Row × List Nat) :=
  (matchesOf q env bkeys keys pays resid bp.rows r).map fun ms =>
    let joined := ms.filterMap fun k => (bp.rows[k]?).map fun b => joinRow pays r b
    let nullKey := keys.any fun k => decide (r.val k = .null)
    let alone := if ms.isEmpty then [r] else []
    let out :=
      match jkind with
      | 1 => joined ++ alone
      | 3 => joined ++ alone
      | 4 => if ms.isEmpty then [] else [r]
      | 5 => alone
      | 6 => if bp.rows.isEmpty then [r] else if bp.nullKey || nullKey then [] else alone
      | _ => joined
    (out, if jkind = 2 ∨ jkind = 3 then ms else [])

/-- The rows of a batch through a probe, one probe row after another. -/
def probeRows (f : Row → Option (List Row × List Nat)) : List Row → State → Option (List Row × List Nat) × State
  | [], s => (some ([], []), s)
  | r :: t, s =>
    match f r with
    | none => (none, s)
    | some (rows, ms) =>
      let m := shuffle rows.length rows s
      let rest := probeRows f t m.2
      (rest.1.map fun x => (m.1 ++ x.1, ms ++ x.2), rest.2)

/-- The batches through a probe: the rows of one input batch never share a batch with those of the next (R104). -/
def probeBatches (f : Row → Option (List Row × List Nat)) : List Batch → State → Option (List Batch × List Nat) × State
  | [], s => (some ([], []), s)
  | b :: t, s =>
    match probeRows f (b.filterMap id) s with
    | (none, s) => (none, s)
    | (some (rows, ms), s) =>
      let rest := probeBatches f t s
      (rest.1.map fun x => (batchesOf rows ++ x.1, ms ++ x.2), rest.2)

/-- Sets the marks of build rows. -/
def markRows (ms : List Nat) (rows : List KRow) : List KRow :=
  rows.zipIdx.map fun x => if ms.contains x.2 then { x.1 with mark := true } else x.1

/-! ## MATCH (R126 to R128) -/

/-- A key field of a ternary search; none when an integer does not fit. An unsigned type's value fits below 2^BITS, a
signed one in two's complement (log 70). -/
def fieldBits (t : Ty) (n : Nat) : Val → Option Nat
  | .str b => some (leNat b % 2 ^ n)
  | v =>
    let i := asInt v
    let fits := if t.isUnsigned then decide (i < (2 : Int) ^ n)
      else decide (-(2 : Int) ^ (n - 1) ≤ i) && decide (i < (2 : Int) ^ (n - 1))
    if fits then some (ofSigned n i) else none

/-- The key of a ternary search: none when no search is issued. -/
def ternaryKey (env : Env) (fields : List MatchField) (r : Row) : Option (BitVec 144) :=
  (fields.mapM fun f => if r.val f.col = .null then none
    else (fieldBits (env.ty f.col) f.bits (r.val f.col)).map fun b => b * 2 ^ f.bitoff).map fun l => BitVec.ofNat 144 l.sum

/-- The answer of one search: result word and position of a hit. -/
abbrev MatchHit := Option (Nat × Nat)

/-- The result of one search: none where none is issued. -/
abbrev MatchRes := Option MatchHit

/-- A row with the columns that MATCH defines, or dropped by MKIND. -/
def matchRow (mkind hc rc pc : Nat) (x : MatchRes) (r : Row) : Option Row :=
  let put := fun (c : Nat) (v : Val) (row : Row) => if c = 255 then row else Tbl.set Val.null row c v
  let hit := match x with | none => Val.null | some m => .bool m.isSome
  let res := match x with | some (some m) => Val.int m.1 | _ => .null
  let pos := match x with | some (some m) => Val.int m.2 | _ => .null
  let keep := if mkind = 1 then decide (hit = .bool true) else if mkind = 2 then decide (hit ≠ .bool true) else true
  if keep then some (put pc pos (put rc res (put hc hit r))) else none

/-- The bytes that a MATCH searches for a row; none where no search is issued (R127). -/
def searchKey (env : Env) (mmode : Nat) (fields : List MatchField) (r : Row) : Option (List Byte) :=
  if mmode = 0 then (ternaryKey env fields r).map fun k => leBytes k.toNat 18
  else
    let col := (fields.head?.map (·.col)).getD 0
    if r.val col = .null then none else some (asStr (r.val col))

/-- Units that serve a MATCH of an automaton: those in service. -/
def autoUnits (s : State) : List Nat := (List.range 4).filter fun u => !(s.cmu u).fault

/-- The unit that searches for an operator: that of its table, or one in service; the one whose grant the command holds or waits
for comes first. -/
def searchUnit (it : Item) (mmode tsrc : Nat) (q : QueryRun) (s : State) : Option Nat × State :=
  if mmode = 0 then ((cmuTableFor s it.c.inst (leNat (pbSlot q tsrc)) it.c.accNo).map (·.1), s)
  else
    match (autoUnits s).find? fun u => (s.pwr.grants ++ s.pwr.waits).any fun g => g.holder = .cmu u it.slot with
    | some u => (some u, s)
    | none => s.choose (autoUnits s)

/-- The recorded result of a search: key compared as the operator's mode reads it. -/
def isBurst (it : Item) (k mmode : Nat) (key : List Byte) (b : BurstRes) : Bool :=
  decide (b.pipe = it.pipe) && decide (b.op = k) && decide (b.item = it.idx) &&
  (if mmode = 0 then decide (leNat b.key = leNat key) else decide (b.key = key))

/-- The recorded results of keys, each used once; none for a key without one. -/
def takeBursts (it : Item) (k mmode : Nat) : List (List Byte) → List BurstRes → List (Option (Option MatchHit)) × List BurstRes
  | [], l => ([], l)
  | key :: t, l =>
    let r := takeBursts it k mmode t (l.eraseP (isBurst it k mmode key))
    ((l.find? (isBurst it k mmode key)).map (·.res) :: r.1, r.2)

/-- A turn of the burst for keys of a batch that no CMU_SEARCH_BURST has searched: the records that it gives, and whether keys are
left, for which the item waits as it does for the grant and while the unit is held (R152, R236). A unit out of service leaves
failures (R128, R256). -/
def lateBurst (it : Item) (k : Nat) (o : OpEnt) (mmode tsrc : Nat) (keys : List (List Byte)) (q : QueryRun) (s : State) :
    List BurstRes × Bool × State :=
  let lost := keys.map fun x => burstRes it.pipe k it.idx (x, none)
  match searchUnit it mmode tsrc q s with
  | (none, s) => (lost, false, s)
  | (some u, s) =>
    if (s.cmu u).fault then (lost, false, s)
    else if (s.cmu u).sagHold then ([], true, s)
    else
      let g := burstGrant u it.slot it.c keys.length (enterCmu u s)
      if !g.1 then ([], true, g.2)
      else
        match burstTurn u it.slot it.pipe k it.idx it.c q o keys g.2 with
        | none => ([], true, g.2)
        | some (l, _, s) => (l, decide (l.length < keys.length), s)

/-- Each batch sends the searches that are still to be made, one burst after another; `seen` are the records that belong to this batch
and those behind it. The item waits while a burst does, and keeps what it has. -/
def lateBursts (it : Item) (k : Nat) (o : OpEnt) (mmode tsrc : Nat) (key : Row → Option (List Byte)) :
    List Batch → List BurstRes → QueryRun → State → OpOut
  | [], _, q, s => (.ok [], q, s)
  | b :: t, seen, q, s =>
    let keys := (b.filterMap id).filterMap key
    let r := takeBursts it k mmode keys seen
    let late := ((keys.zip r.1).filter fun x => x.2.isNone).map (·.1)
    if late.isEmpty then lateBursts it k o mmode tsrc key t r.2 q s
    else
      let l := lateBurst it k o mmode tsrc late q s
      let q := { q with bursts := q.bursts ++ l.1 }
      if l.2.1 then (.error stWaits, q, l.2.2) else lateBursts it k o mmode tsrc key t r.2 q l.2.2

/-- Applies MATCH to batches with the results of its searches in row order; none where a search could not be served. -/
def matchBatches (key : Row → Option (List Byte)) (f : MatchRes → Row → Option Row) :
    List Batch → List (Option MatchHit) → Option (List Batch)
  | [], _ => some []
  | b :: t, l =>
    let rec go : Batch → List (Option MatchHit) → Option (Batch × List (Option MatchHit))
      | [], l => some ([], l)
      | none :: t, l => (go t l).map fun x => (none :: x.1, x.2)
      | some r :: t, l =>
        match key r, l with
        | none, l => (go t l).map fun x => (f none r :: x.1, x.2)
        | some _, some m :: l => (go t l).map fun x => (f (some m) r :: x.1, x.2)
        | some _, _ => none
    match go b l with
    | none => none
    | some (b, l) => (matchBatches key f t l).map fun bs => b :: bs

/-- MATCH of an item: its searches are those of its bursts, one burst for each batch (R126 to R128, R236); their records stay until the
item has ended. -/
def matchItem (it : Item) (k : Nat) (o : OpEnt) (env : Env) (mmode mkind tsrc hc rc pc : Nat) (fields : List MatchField)
    (bs : List Batch) (q : QueryRun) (s : State) : OpOut :=
  let key := searchKey env mmode fields
  match lateBursts it k o mmode tsrc key bs q.bursts q s with
  | (.error e, q, s) => (.error e, q, s)
  | (.ok _, q, s) =>
    let r := (takeBursts it k mmode ((liveRows bs).filterMap key) q.bursts).1
    match matchBatches key (matchRow mkind hc rc pc) bs (r.map fun x => x.getD none) with
    | none => (.error stEngine, q, s)
    | some bs => (.ok bs, q, s)

/-! ## Sort order (R108, R130, R131, R267 to R269, R274, R278) -/

/-- The order of two values of a sort key. -/
def cmpSortVal (t : Ty) (k : KeyEnt) (a b : Val) : Int :=
  match a, b with
  | .null, .null => 0
  | .null, _ => if k.nullsFirst then -1 else 1
  | _, .null => if k.nullsFirst then 1 else -1
  | _, _ =>
    let c := cmpVals k.coll t t a b
    if k.desc then -c else c

/-- The order of two rows by their keys, left to right. -/
def cmpSortKeys : List (Ty × KeyEnt) → List Val → List Val → Int
  | (t, k) :: ks, a :: as, b :: bs =>
    let c := cmpSortVal t k a b
    if c ≠ 0 then c else cmpSortKeys ks as bs
  | _, _, _ => 0

/-- A row comes before another or beside it: by the keys, then under STABLE by item and row, else by a free number
(R130). -/
def sortedLe (keys : List (Ty × KeyEnt)) (stable : Bool) (a b : KRow) : Bool :=
  let c := cmpSortKeys keys a.key b.key
  if c ≠ 0 then decide (c < 0)
  else if stable then decide (a.item < b.item) || (decide (a.item = b.item) && decide (a.pos ≤ b.pos))
  else decide (a.pos ≤ b.pos)

/-- A string key is truncated in the normalised key. -/
def truncated (t : Ty) (k : KeyEnt) (v : Val) : Bool := t.isStr && decide (k.pre < (asStr v).length)

/-- The value bytes of a key in the normalised key, before DESC (R268). -/
def normVal (t : Ty) (k : KeyEnt) (v : Val) : List Byte :=
  let big := fun (n : Nat) (x : Nat) => (leBytes x n).reverse
  match v with
  | .null => zeros (if t.isStr then k.pre + 1 else t.width)
  | .bool b => [if b then 1 else 0]
  | .int i => big t.width (if t.isUnsigned then ofSigned (8 * t.width) i else ofSigned (8 * t.width) (i + 2 ^ (8 * t.width - 1)))
  | .str b =>
    let f := foldStr k.coll b
    f.take k.pre ++ zeros (k.pre - f.length) ++ [BitVec.ofNat 8 (min b.length (k.pre + 1))]
  | _ =>
    let n := t.width
    let raw := match v with | .f32 w => w.toNat | .f64 w => w.toNat | _ => 0
    let f := if n = 4 then binary32 else binary64
    let x := if fpIsNan f raw then (if n = 4 then 0x7FC00000 else 0x7FF8000000000000) else if raw = 2 ^ (8 * n - 1) then 0 else raw
    big n (if x < 2 ^ (8 * n - 1) then x + 2 ^ (8 * n - 1) else 2 ^ (8 * n) - 1 - x)

/-- One key of the normalised key: marker byte and value bytes. -/
def normOne (t : Ty) (k : KeyEnt) (v : Val) : List Byte :=
  if v = .null then (if k.nullsFirst then 0 else 255) :: normVal t k v
  else 0x80 :: (if k.desc then (normVal t k v).map fun b => ~~~b else normVal t k v)

/-- The bytes of a record up to and including the first truncated string key; none when none is truncated (R278). -/
def tieBytes : List (Ty × KeyEnt) → List Val → Option (List Byte)
  | (t, k) :: ks, v :: vs =>
    if truncated t k v then some (normOne t k v)
    else (tieBytes ks vs).map fun b => normOne t k v ++ b
  | _, _ => none

/-- Sort rows of an item; without STABLE each takes a free number that orders it among equals. -/
def sortRows (keys : List KeyEnt) (stable : Bool) (pays : List Nat) (item : Nat) : List (Row × Nat) → State → List KRow × State
  | [], s => ([], s)
  | (r, i) :: t, s =>
    let n := if stable then (i, s) else s.freshNat
    let k : KRow := { part := 0, item := item, pos := n.1, key := keys.map fun k => r.val k.col, pay := pays.map r.val, mark := false }
    let rest := sortRows keys stable pays item t n.2
    (k :: rest.1, rest.2)

/-- The key entries of a sort with the types of their columns. -/
def typedKeys (env : Env) (keys : List KeyEnt) : List (Ty × KeyEnt) := keys.map fun k => (env.ty k.col, k)

/-- TOPK with K up to 4,096 keeps the item's K best rows; above that the item's run is cut later (R132, R274). -/
def topkRows (env : Env) (keys : List KeyEnt) (stable : Bool) (k : Nat) (bs : List Batch) (s : State) : List Batch × State :=
  if 4096 < k then (bs, s)
  else
    let flat := (bs.map fun b => b.map fun r => r).flatten
    let live := flat.zipIdx.filterMap fun x => x.1.map fun r => (r, x.2)
    let ks := sortRows keys stable [] 0 live s
    let tagged := (ks.1.zip (live.map (·.2))).map fun x => ({ x.1 with part := x.2 } : KRow)
    let kept := ((sortLe (sortedLe (typedKeys env keys) stable) tagged).take k).map (·.part)
    let rec mask : Nat → List Batch → List Batch
      | _, [] => []
      | off, b :: t => (b.zipIdx.map fun x => if kept.contains (off + x.2) then x.1 else none) :: mask (off + b.length) t
    (mask 0 bs, ks.2)

/-- Bytes of a sort record (R270). -/
def recordLen (env : Env) (keys : List KeyEnt) (stable : Bool) : Nat := (normLen env keys stable + 7) / 8 * 8 + 8

/-- The normalised key of a sort row with its tie key (R267, R269); `item` is the number of its item. -/
def normKey (keys : List (Ty × KeyEnt)) (stable : Bool) (item pos : Nat) (vs : List Val) : List Byte :=
  ((keys.zip vs).map fun x => normOne x.1.1 x.1.2 x.2).flatten ++
  (if stable then (leBytes (item % 2 ^ 24 * 2 ^ 24 + pos % 2 ^ 24) 6).reverse else [])

/-- A sort record (R270). -/
def sortRecord (rl : Nat) (key : List Byte) (ref : Nat) : List Byte :=
  ((key ++ zeros rl).take (rl - 8)) ++ leBytes ref 4 ++ zeros 4

/-- What a unit reads of a record: the bytes it compares, and ROWREF. -/
abbrev SortRec := List Byte × Nat

def sortRec (rl : Nat) (b : List Byte) : SortRec := (b.take (rl - 8), leAt b (rl - 8) 4)

/-- The header of a run (R272); SORT_ID is the number of the SORT's pipeline (log 148). -/
def runHeader (rl nrec sort : Nat) : List Byte :=
  leBytes 0x4E52515A 4 ++ leBytes rl 1 ++ leBytes (rl - 8) 1 ++ zeros 2 ++ leBytes nrec 8 ++ leBytes sort 8 ++ zeros 40

/-- A whole run. -/
def runBytes (rl sort : Nat) (l : List SortRec) : List Byte :=
  runHeader rl l.length sort ++ (l.map fun r => sortRecord rl r.1 r.2).flatten

/-- The records of a run's bytes; none where MAGIC, RL or NREC is not what the job expects (R272). -/
def readRun (rl nrec : Nat) (b : List Byte) : Option (List SortRec) :=
  if leAt b 0 4 = 0x4E52515A ∧ leAt b 4 1 = rl ∧ leAt b 8 8 = nrec then
    some ((List.range nrec).map fun k => sortRec rl ((b.drop (64 + rl * k)).take rl))
  else none

/-- The record of a sort row with a ROWREF. -/
def recordOf (keys : List (Ty × KeyEnt)) (stable : Bool) (rl item : Nat) (r : KRow) (ref : Nat) : SortRec :=
  (((normKey keys stable item r.pos r.key) ++ zeros rl).take (rl - 8), ref)

/-- Records in the order of their compared bytes; equal ones of one item keep a free order (R277). -/
def sortRecs (rows : List KRow) (l : List SortRec) : List SortRec :=
  let pos := fun (r : SortRec) => (rows[r.2]?.map (·.pos)).getD 0
  sortLe (fun a b =>
    let c := cmpBytes a.1 b.1
    decide (c < 0) || (decide (c = 0) && decide (pos a ≤ pos b))) l

/-- The first n records of a run with the tie group of the n-th (R274, R278); all when n is 0. -/
def cutRecs (keys : List (Ty × KeyEnt)) (rows : List KRow) (n : Nat) (l : List SortRec) : List SortRec :=
  if n = 0 then l
  else
    let tie := fun (r : SortRec) => (rows[r.2]?).bind fun k => tieBytes keys k.key
    let last := ((l.take n).getLast?).bind tie
    l.take n ++ (l.drop n).takeWhile fun r => last.isSome && decide (tie r = last)

/-- The least head of some inputs: the lowest-numbered of the least (R277). -/
def leastHead : Nat → List (List SortRec) → Option (Nat × SortRec)
  | _, [] => none
  | k, [] :: t => leastHead (k + 1) t
  | k, (r :: _) :: t =>
    match leastHead (k + 1) t with
    | none => some (k, r)
    | some (j, x) => if cmpBytes r.1 x.1 ≤ 0 then some (k, r) else some (j, x)

/-- The merge tree: the least head leaves, one record after another. -/
def mergeTree : Nat → List (List SortRec) → List SortRec
  | 0, _ => []
  | fuel + 1, l =>
    match leastHead 0 l with
    | none => []
    | some (k, r) => r :: mergeTree fuel (l.modify k List.tail)

/-- Reads the inputs of a job; the status of the first that fails, INTERNAL_ERROR for a header (R272, R282). -/
def readRuns (i rl : Nat) (p : PipeRun) : List SortRun → State → Except Nat (List (List SortRec)) × State
  | [], s => (.ok [], s)
  | r :: t, s =>
    match (p.area .run r.area).readAll i s with
    | (.error e, s) => (.error e, s)
    | (.ok b, s) =>
      match readRun rl r.nrec b with
      | none => (.error stInternal, s)
      | some l =>
        match readRuns i rl p t s with
        | (.error e, s) => (.error e, s)
        | (.ok m, s) => (.ok (l :: m), s)

/-- Writes records as a new run of a pipeline. -/
def writeRun (slot i die rl sort : Nat) (l : List SortRec) (p : PipeRun) (s : State) : Except Nat (SortRun × PipeRun) × State :=
  match appendArea slot i die .run p.nextRun (runBytes rl sort l) p s with
  | (.error e, s) => (.error e, s)
  | (.ok q, s) => (.ok ({ area := p.nextRun, nrec := l.length }, { q with nextRun := p.nextRun + 1 }), s)

/-- Writes lists of records as runs of a pipeline, one after another. -/
def writeRuns (slot i die rl sort : Nat) : List (List SortRec) → PipeRun → State → Except Nat (List SortRun × PipeRun) × State
  | [], p, s => (.ok ([], p), s)
  | l :: t, p, s =>
    match writeRun slot i die rl sort l p s with
    | (.error e, s) => (.error e, s)
    | (.ok (r, p), s) =>
      match writeRuns slot i die rl sort t p s with
      | (.error e, s) => (.error e, s)
      | (.ok (m, p), s) => (.ok (r :: m, p), s)

/-- One pass over some inputs, 64 at a time; LIMIT cuts the run that is left alone at the end (R273, R274). -/
def mergePass (keys : List (Ty × KeyEnt)) (rows : List KRow) (limit : Nat) (l : List (List SortRec)) : List (List SortRec) :=
  match pieces 64 l.length l with
  | [g] => [cutRecs keys rows limit (mergeTree (g.map (·.length)).sum g)]
  | gs => gs.map fun g => mergeTree (g.map (·.length)).sum g

/-- Releases the areas of runs. -/
def freeRuns (slot i : Nat) (l : List SortRun) (p : PipeRun) (s : State) : PipeRun × State :=
  l.foldl (fun a r => freeArea slot i .run r.area a.1 a.2) (p, s)

/-- Tie groups of rows in merge order: adjacent rows that agree up to a truncated key; every other row stands alone (R278). -/
def tieGroups (keys : List (Ty × KeyEnt)) : List KRow → List (List KRow)
  | [] => []
  | r :: t =>
    let tie := tieBytes keys r.key
    match tieGroups keys t with
    | (x :: g) :: rest =>
      if tie.isSome ∧ tieBytes keys x.key = tie then (r :: x :: g) :: rest else [r] :: (x :: g) :: rest
    | l => [r] :: l

/-- One value of a row area: position k of n rows in the column of type t that starts at an offset (R90, R271). -/
def readCell (i : Nat) (a : Area) (t : Ty) (start n k : Nat) (s : State) : Except Nat Val × State :=
  let get := a.read i (a.pages.length + 1)
  let body := start + (n + 7) / 8
  thenOk (get (start + k / 8) 1 s) fun v s =>
    if !(leNat v).testBit (k % 8) then (.ok .null, s)
    else if t.isVar then
      thenOk (get (body + 4 * k) 8 s) fun o s =>
        thenOk (get (body + 4 * (n + 1) + leAt o 0 4) (leAt o 4 4 - leAt o 0 4) s) fun b s => (.ok (.str b), s)
    else if t.isBool then thenOk (get (body + k / 8) 1 s) fun b s => (.ok (.bool ((leNat b).testBit (k % 8))), s)
    else thenOk (get (body + k * t.width) t.width s) fun b s => (.ok (ofPlain t b), s)

/-- The values of a row, column by column. -/
def readCells (i : Nat) (a : Area) (n k : Nat) : List (Ty × Nat) → State → Except Nat (List Val) × State
  | [], s => (.ok [], s)
  | (t, start) :: cs, s =>
    thenOk (readCell i a t start n k s) fun v s => thenOk (readCells i a n k cs s) fun vs s => (.ok (v :: vs), s)

/-- Where the columns of some rows start in their PLAIN layout. -/
def colStarts (tys : List Ty) (rows : List (List Val)) : List Nat :=
  (List.range tys.length).map fun k => (plainRows (tys.take k) rows).length

/-- The rows that some ROWREFs name, with the keys and payload that the row area holds (R271). -/
def readRows (i : Nat) (tys : List Ty) (nkeys : Nat) (p : PipeRun) : List Nat → State → Except Nat (List KRow) × State
  | [], s => (.ok [], s)
  | r :: t, s =>
    match p.rows[r]? with
    | none => readRows i tys nkeys p t s
    | some x =>
      let mine := (p.rows.filter fun y => y.item = x.item).map fun y => y.key ++ y.pay
      let first := p.rows.findIdx fun y => y.item = x.item
      thenOk (readCells i (p.area .rowArea x.item) mine.length (r - first) (tys.zip (colStarts tys mine)) s) fun vs s =>
        thenOk (readRows i tys nkeys p t s) fun l s => (.ok ({ x with key := vs.take nkeys, pay := vs.drop nkeys } :: l), s)

/-- The rows that MERGE emits: what its last pass has delivered, each tie group in the order of a full comparison, up to the
LIMIT (R278, R279). -/
def mergedRows (keys : List (Ty × KeyEnt)) (stable : Bool) (limit : Nat) (rows : List KRow) : List KRow :=
  let l := ((tieGroups keys rows).map (sortLe (sortedLe keys stable))).flatten
  if limit = 0 then l else l.take limit

/-- A row that MERGE delivers. -/
def mergeRow (cols : List (Nat × Nat)) (r : KRow) : Row :=
  cols.foldl (fun row c =>
    Tbl.set Val.null row c.2 (if 128 ≤ c.1 then r.key.getD (c.1 - 128) .null else r.pay.getD c.1 .null)) []

end Sys2Proof.Machine
end

