-- ==== Sys2Proof/Machine/ItemRun.lean ====
section
/-!
DEFINITION. The rest of what the operators of an item compute (R134 to R149, R273): AGG, SORT, EXCHANGE, EMIT, UDO,
and the run of a whole item.
-/

namespace Sys2Proof.Machine

/-! ## AGG (R134 to R138) -/

/-- The state of a function that has seen nothing. -/
def aggZero : AggSt := { count := 0, sum := 0, fsum := 0, best := .null }

/-- SUM or AVG of a float column: accumulated strip by strip (R137). -/
def floatSum (fn : Nat) (t : Ty) : Bool := (decide (fn = 3) || decide (fn = 6)) && t.isFloat

/-- The one of two values that MIN or MAX keeps (R80, R136). -/
def extremum (isMax : Bool) (coll : Nat) (t : Ty) (a b : Val) : Val :=
  if a = .null then b
  else if b = .null then a
  else
    let c := cmpVals coll t t a b
    if c = 0 then
      if t.isStr then (if cmpBytes (asStr a) (asStr b) ≤ 0 then a else b)
      else if t.isFloat then (if Config.floatTie (BitVec.ofNat 64 (asF64 a)) (BitVec.ofNat 64 (asF64 b)) then a else b)
      else a
    else if isMax then (if 0 < c then a else b) else (if c < 0 then a else b)

/-- Two values of a function other than the sums, put together. -/
def aggBest (f : AggFn) (t : Ty) (a b : Val) : Val :=
  if f.fn = 4 then extremum false f.mode t a b
  else if f.fn = 5 then extremum true f.mode t a b
  else if a = .null then b
  else if b = .null then a
  else if f.fn = 7 then bitTerm 0x38 t (asInt a) (asInt b)
  else if f.fn = 8 then bitTerm 0x39 t (asInt a) (asInt b)
  else if f.fn = 9 then .bool (decide (a = .bool true) && decide (b = .bool true))
  else if f.fn = 10 then .bool (decide (a = .bool true) || decide (b = .bool true))
  else a

/-- A function takes the value of one row; null arguments count for COUNT_ALL only (R136). -/
def aggTake (f : AggFn) (t : Ty) (x : AggSt) (v : Val) : AggSt :=
  if f.fn = 1 then { x with count := x.count + 1 }
  else if v = .null then x
  else
    let x := { x with count := x.count + 1 }
    if f.fn = 2 ∨ floatSum f.fn t then x
    else if f.fn = 3 ∨ f.fn = 6 then { x with sum := x.sum + asInt v }
    else { x with best := aggBest f t x.best v }

/-- Partial states are added (R137). -/
def aggJoin (f : AggFn) (t : Ty) (a b : AggSt) : AggSt :=
  { count := a.count + b.count, sum := a.sum + b.sum,
    fsum := if floatSum f.fn t then BitVec.ofNat 64 (fpAdd binary64 0 a.fsum.toNat b.fsum.toNat).1 else a.fsum,
    best := aggBest f t a.best b.best }

/-- The key value that a group carries: the one whose PLAIN bytes are least (R136). -/
def leastKey (t : Ty) (a b : Val) : Val :=
  if t.isStr then (if cmpBytes (asStr a) (asStr b) ≤ 0 then a else b)
  else if t.isFloat then (if leNat (toPlain t a) ≤ leNat (toPlain t b) then a else b)
  else a

/-- Two keys name one group (R108). -/
def sameGroup (kt : List (Ty × Nat)) (a b : List Val) : Bool :=
  (kt.zip (a.zip b)).all fun x => eqNullSafe x.1.2 x.1.1 x.1.1 x.2.1 x.2.2

/-- The key values of a group that two rows belong to. -/
def joinKeys (kt : List (Ty × Nat)) (a b : List Val) : List Val :=
  (kt.zip (a.zip b)).map fun x => if x.2.1 = .null then .null else leastKey x.1.1 x.2.1 x.2.2

/-- A partial AGG at work: groups in the table, groups written to the partitions, and the rows of the strip in hand
with their position and the number of their group. -/
structure AggTab where
  cur : List AggGroup
  done : List AggGroup
  spill : Nat
  strip : List (Nat × Nat × Row)

/-- What a partial AGG is set up with: key types and collations, functions with argument types, partitions, table
bytes, item. -/
structure AggSet where
  keys : List KeyEnt
  kt : List (Ty × Nat)
  fns : List (AggFn × Ty)
  npart : Nat
  limit : Nat
  item : Nat

/-- The strip sum of a float function for the group g (R137, R205). -/
def stripSum (x : AggTab) (g : Nat) (f : AggFn) : Nat :=
  (foldSum binary64 0 6 ((List.range 64).map fun p =>
    match x.strip.find? fun e => decide (e.1 = p) && decide (e.2.1 = g) with
    | some e => if e.2.2.val f.col = .null then none else some (asF64 (e.2.2.val f.col))
    | none => none)).1

/-- The strip is over, or its table is written out: strip sums go to the running sums. A table that fills inside a strip so splits its
sum in two: DESIGN CHOICE, log 178. -/
def flushStrip (a : AggSet) (x : AggTab) : AggTab :=
  { x with
    strip := [],
    cur := x.cur.zipIdx.map fun g =>
      if x.strip.any fun e => e.2.1 = g.2 then
        { g.1 with states := (g.1.states.zip a.fns).map fun y =>
            if floatSum y.2.1.fn y.2.2 then
              { y.1 with fsum := BitVec.ofNat 64 (fpAdd binary64 0 y.1.fsum.toNat (stripSum x g.2 y.2.1)).1 }
            else y.1 }
      else g.1 }

/-- Bytes of a group in the table (log 63). -/
def groupBytes (a : AggSet) (key : List Val) : Nat :=
  Config.aggEntry (((a.kt.zip key).map fun x => (toPlain x.1.1 x.2).length).sum) a.fns.length

/-- One row at a position of its strip. A new group that would overfill the table sends the groups so far to the
partitions first (R138). -/
def aggRow (a : AggSet) (env : Env) (p : Nat) (r : Row) (x : AggTab) : AggTab :=
  let key := a.keys.map fun k => r.val k.col
  let take := fun (g : AggGroup) => { g with
    key := joinKeys a.kt g.key key, states := (g.states.zip a.fns).map fun y => aggTake y.2.1 y.2.2 y.1 (r.val y.2.1.col) }
  let g := x.cur.findIdx fun g => sameGroup a.kt g.key key
  if g < x.cur.length then
    { x with cur := x.cur.zipIdx.map fun y => if y.2 = g then take y.1 else y.1, strip := x.strip ++ [(p, g, r)] }
  else
    let full := decide (a.limit < (x.cur.map fun g => groupBytes a g.key).sum + groupBytes a key) && !x.cur.isEmpty
    let x := if full then
        let y := flushStrip a x
        { y with done := y.done ++ y.cur, cur := [], spill := y.spill + 1 }
      else x
    let new : AggGroup := {
      part := hashPart (rowHash 0 env a.keys r) a.npart, item := a.item, spill := x.spill, key := key,
      states := a.fns.map fun _ => aggZero }
    { x with strip := x.strip ++ [(p, x.cur.length, r)], cur := x.cur ++ [take new] }

/-- One strip of up to 64 rows. -/
def aggStrip (a : AggSet) (env : Env) (b : Batch) (x : AggTab) : AggTab :=
  flushStrip a (b.zipIdx.foldl (fun x r => match r.1 with | some row => aggRow a env r.2 row x | none => x) x)

/-- A batch in strips of 64, counted from its first row. -/
def aggBatch (a : AggSet) (env : Env) : Nat → Batch → AggTab → AggTab
  | 0, _, x => x
  | fuel + 1, b, x => if b.isEmpty then x else aggBatch a env fuel (b.drop 64) (aggStrip a env (b.take 64) x)

/-- The groups that an item of a partial AGG writes to the partitions. -/
def aggItem (a : AggSet) (env : Env) (bs : List Batch) : List AggGroup :=
  let x := bs.foldl (fun x b => aggBatch a env (b.length + 1) b x) { cur := [], done := [], spill := 0, strip := [] }
  x.done ++ x.cur

/-- Merges a group into the list of final groups. -/
def mergeGroup (kt : List (Ty × Nat)) (fns : List (AggFn × Ty)) (g : AggGroup) : List AggGroup → List AggGroup
  | [] => [g]
  | h :: t =>
    if sameGroup kt h.key g.key then
      { h with key := joinKeys kt h.key g.key,
               states := (fns.zip (h.states.zip g.states)).map fun y => aggJoin y.1.1 y.1.2 y.2.1 y.2.2 } :: t
    else h :: mergeGroup kt fns g t

/-- The result of a function from its final state; none when it overflows under FAIL (R135 to R137). -/
def aggResult (f : AggFn) (t : Ty) (x : AggSt) : Option Val :=
  let res := (aggTy f.fn t).getD tyI64
  if f.fn = 1 ∨ f.fn = 2 then some (.int x.count)
  else if x.count = 0 then some .null
  else if f.fn = 3 then (if t.isFloat then some (.f64 x.fsum) else fitVal f.mode res x.sum)
  else if f.fn = 6 then
    if t.isFloat then
      some (.f64 (BitVec.ofNat 64 (fpDiv binary64 0 x.fsum.toNat (ratToFp binary64 x.count 1)).1))
    else if t.isInt then some (.f64 (BitVec.ofNat 64 (ratToFp binary64 x.sum x.count)))
    else fitVal f.mode res (atScale res x.sum (10 ^ t.scale * (x.count : Int)))
  else some x.best

/-- Groups in the order in which they leave: none is promised, but with FLOW the partitions ascend (R138). -/
def groupOrder (flow : Bool) (gs : List AggGroup) (s : State) : List AggGroup × State :=
  if flow then
    (byPart (·.part) gs).foldl (fun a x => let r := shuffle x.2.length x.2 a.2; (a.1 ++ r.1, r.2)) ([], s)
  else shuffle gs.length gs s

/-- The rows of a final AGG over the partial groups of a partition, or of all (R134, R136, R138). -/
def finalRows (it : Item) (single flow : Bool) (src : Nat) (keys : List (Nat × Nat × Nat)) (fns : List AggFn) (q : QueryRun)
    (s : State) : Option (List Row) × State :=
  match lastArgs q.plan src with
  | some (.agg false _ npart _ pk pf) =>
    let env := (planEnvs q.plan).getD src []
    let kt := pk.map fun k => (env.ty k.1, k.2.1)
    let ft := pf.map fun f => (f, env.ty f.col)
    let mine := (q.pipe src).groups.filter fun g => single || decide (g.part = it.idx)
    let ordered := sortLe (fun a b => decide (a.item < b.item) || (decide (a.item = b.item) && decide (a.spill ≤ b.spill))) mine
    let gs := ordered.foldl (fun l g => mergeGroup kt ft g l) []
    let empty : AggGroup := { part := 0, item := 0, spill := 0, key := [], states := fns.map fun _ => aggZero }
    let home := single || decide (hashPart (hashKey 0 []) npart = it.idx)
    let gs := if keys.isEmpty then (if home then (match gs with | [] => [empty] | l => l) else []) else gs
    let r := groupOrder flow gs s
    (r.1.mapM fun g => ((fns.zip (ft.zip g.states)).mapM fun y => (aggResult y.2.1.1 y.2.1.2 y.2.2).map fun v => (y.1.ocol, v)).map
      fun vs => ((keys.map fun k => k.2.2).zip g.key ++ vs).foldl (fun (row : Row) v => Tbl.set Val.null row v.1 v.2) [], r.2)
  | _ => (some [], s)

/-! ## SORT (R130, R269, R273, R274) -/

/-- The number of an item in a tie key: its chunk group or partition, 0 for a SINGLE pipeline (R269). -/
def tieItem (q : QueryRun) (pipe idx : Nat) : Nat :=
  if (q.plan.pipes[pipe]?).any fun e => decide (e.kind = 2) then 0 else q.itemNo pipe idx

/-- A run takes its item's place among the runs of the SORT. -/
def placeRun (q : QueryRun) (pipe idx : Nat) (r : SortRun) (p : PipeRun) : PipeRun :=
  let runs := if p.runs.isEmpty then List.replicate (itemCount q pipe) .none else p.runs
  { p with runs := runs.set idx r }

/-- A SORT item writes its rows to the row area, and its sorted records to device memory: as its run, or, when they exceed half of
its WORK_BYTES, as sorted blocks that an SMU has still to merge (R271 to R274). Rows of equal key without STABLE take free
positions. -/
def sortItem (it : Item) (env : Env) (keys : List KeyEnt) (stable : Bool) (pays : List Nat) (limit : Nat) (bs : List Batch)
    (q : QueryRun) (s : State) : OpOut :=
  let live := (liveRows bs).zipIdx
  let p := q.pipe it.pipe
  if (stable ∧ 16777216 < live.length) ∨ 4294967295 < p.rows.length + live.length then (.error stRange, q, s)
  else
    let tk := typedKeys env keys
    let r := sortRows keys stable pays it.idx live s
    let tys := (keys.map fun k => env.ty k.col) ++ pays.map env.ty
    match appendAll it .rowArea [(it.idx, plainRows tys (r.1.map fun x => x.key ++ x.pay))] p r.2 with
    | (.error e, s) => (.error e, q, s)
    | (.ok p, s) =>
      let rl := recordLen env keys stable
      let base := p.rows.length
      let p := { p with rows := p.rows ++ r.1 }
      let recs := r.1.zipIdx.map fun x => recordOf tk stable rl (tieItem q it.pipe it.idx) x.1 (base + x.2)
      let work := ((q.plan.pipes[it.pipe]?).map (·.work)).getD 0
      if rl * recs.length ≤ work / 2 then
        match writeRun it.slot it.c.inst it.die rl it.pipe (cutRecs tk p.rows limit (sortRecs p.rows recs)) p s with
        | (.error e, s) => (.error e, q, s)
        | (.ok (x, p), s) => (.ok [], q.modPipe it.pipe (fun _ => placeRun q it.pipe it.idx x p), s)
      else
        let blocks := (pieces (max 1 (work / 2 / rl)) recs.length recs).map (sortRecs p.rows)
        match writeRuns it.slot it.c.inst it.die rl it.pipe blocks p s with
        | (.error e, s) => (.error e, q, s)
        | (.ok (l, p), s) =>
          (.ok [], q.modPipe it.pipe (fun _ => { p with passQ := p.passQ ++ [{ item := it.idx, blocks := l, done := false }] }), s)

/-! ## EXCHANGE (R141 to R143, R563, R568, R570) -/

/-- The module itself and the manager as destinations. -/
def destSelf : Nat := 65
def destManager : Nat := 64

/-- Where a row goes: destinations with their partition. The destinations are the group that HIER_CONFIG gave, in a fan-out and
outside one; a module that no manager has adopted keeps its rows (R142, R568; log 72). -/
def exchangeTo (s : State) (mode nlocal : Nat) (h : W64) : List (Nat × Nat) :=
  let n := if s.lnk.adopted then max 1 s.lnk.peers.length else 1
  let here := fun (d : Nat) => if n = 1 ∨ d = s.lnk.index then destSelf else d
  let part := (h.toNat % 2 ^ 32) * nlocal / 2 ^ 32
  if !s.lnk.adopted then [(destSelf, if mode = 0 then part else 0)]
  else if mode = 0 then [(here (hashPart h n), part)]
  else if mode = 1 then (List.range n).map fun d => (here d, 0)
  else [(destManager, 0)]

/-- Adds rows to the outbox: batch by batch, one entry for each destination and partition. -/
def toOutbox (rows : List (Nat × Nat × List Val)) (p : PipeRun) : PipeRun :=
  let marks := rows.foldl (fun (l : List (Nat × Nat)) r => if l.contains (r.1, r.2.1) then l else l ++ [(r.1, r.2.1)]) []
  { p with outbox := p.outbox ++ marks.map fun m =>
      (m.1, m.2, (rows.filter fun r => decide (r.1 = m.1) && decide (r.2.1 = m.2)).map (·.2.2)) }

/-- Rows that arrive at a partition of an EXCHANGE. -/
def receiveRows (part item : Nat) (rows : List (List Val)) (p : PipeRun) : PipeRun :=
  { p with rows := p.rows ++ rows.zipIdx.map fun r =>
      { part := part, item := item, pos := p.rows.length + r.2, key := [], pay := r.1, mark := false } }

/-- Received rows take pages of the instance: those of each partition are appended to its area (R143, R153). -/
def storeReceived (it : Item) (tys : List Ty) (rows : List (Nat × List Val)) (p : PipeRun) (s : State) :
    Except Nat PipeRun × State :=
  appendAll it .received ((byPart (·.1) rows).map fun x => (x.1, plainRows tys (x.2.map (·.2)))) p s

/-- An EXCHANGE sends the rows of a batch; those for this module enter their partitions at once. -/
def exchangeBatch (it : Item) (env : Env) (mode nlocal : Nat) (keys : List KeyEnt) (cols : List Nat) (b : Batch)
    (p : PipeRun) (s : State) : Except Nat PipeRun × State :=
  let out := ((b.filterMap id).map fun r =>
    (exchangeTo s mode nlocal (rowHash 1 env keys r)).map fun d => (d.1, d.2, cols.map r.val)).flatten
  let here := (out.filter fun x => x.1 = destSelf).map (·.2)
  match storeReceived it (cols.map env.ty) here p s with
  | (.error e, s) => (.error e, s)
  | (.ok p, s) =>
    let p := here.foldl (fun p x => receiveRows x.1 it.idx [x.2] p) p
    (.ok (toOutbox (out.filter fun x => x.1 ≠ destSelf) p), s)

/-- An EXCHANGE sends the batches of an item. -/
def exchangeItem (it : Item) (env : Env) (mode nlocal : Nat) (keys : List KeyEnt) (cols : List Nat) :
    List Batch → PipeRun → State → Except Nat PipeRun × State
  | [], p, s => (.ok p, s)
  | b :: t, p, s =>
    match exchangeBatch it env mode nlocal keys cols b p s with
    | (.error e, s) => (.error e, s)
    | (.ok p, s) => exchangeItem it env mode nlocal keys cols t p s

/-! ## EMIT (R70, R73, R102, R144 to R147) -/

/-- EMIT: the rows of the item go to the output, or up to the manager, in batches of up to 4,096 rows, where this module stands
between top and leaves (R143, R570). -/
def emitItem (it : Item) (k : Nat) (cols : List (Nat × Nat)) (bs : List Batch) (q : QueryRun) (s : State) : OpOut :=
  if roleOf s it.slot = .middle then
    let g := (gatherOf q.plan).getD 0
    let out := bs.map fun b => (b.filterMap id).map fun r => (destManager, 0, cols.map fun c => r.val c.1)
    (.ok bs, q.modPipe g (fun p => out.foldl (fun p rows => toOutbox rows p) p), s)
  else
    let rows := (liveRows bs).map fun r => cols.map fun c => r.val c.1
    let q := { q with outs := q.outs.map fun o =>
      if o.slot = k then { o with rows := o.rows ++ [(it.pipe, it.idx, rows)] } else o }
    match (q.outs.find? fun o => o.slot = k).bind fun o => outError s it.c q (some it.pipe) o with
    | some st => (.error st, q, s)
    | none => (.ok bs, q, s)

/-! ## UDO (R148, R149; log 9, log 61) -/

/-- Scratchpad addresses of a column's values, validity bitmap and offsets. -/
structure UdoCol where
  ty : Ty
  data : Nat
  valid : Nat
  offs : Nat

/-- Places for the buffers of columns for n rows, one after another at multiples of 64; `size` gives the bytes of the values of
each. Where the runtime puts them is its choice (log 61). -/
def placeCols (n : Nat) : Nat → List (Ty × Nat) → List UdoCol × Nat
  | a, [] => ([], a)
  | a, (t, size) :: rest =>
    let v := roundUp (a + size) 64
    let o := roundUp (v + (n + 7) / 8) 64
    let r := placeCols n (if t.isVar then roundUp (o + 4 * (n + 1)) 64 else o) rest
    ({ ty := t, data := a, valid := v, offs := if t.isVar then o else 0 } :: r.1, r.2)

/-- A batch descriptor (R149). -/
def udoDesc (rows : Nat) (cols : List UdoCol) : List Byte :=
  leBytes rows 4 ++ leBytes cols.length 2 ++ zeros 10 ++
  (cols.map fun c => leBytes c.data 4 ++ leBytes c.valid 4 ++ leBytes c.offs 4 ++ leBytes c.ty.code 1 ++ zeros 1 ++
    leBytes c.ty.tparam 2).flatten

/-- The PLAIN body of a column, as its values and its offsets. -/
def udoBody (t : Ty) (vs : List Val) : List Byte × List Byte :=
  let b := plainBody t vs
  if t.isVar then (b.drop (4 * (vs.length + 1)), b.take (4 * (vs.length + 1))) else (b, [])

/-- The scratchpad as user code finds it, with the addresses of the two descriptors and the places of the output columns. -/
def udoEntry (ins outs : List Ty) (rows : List (List Val)) : Tbl Byte × Nat × Nat × List UdoCol :=
  let vals := ins.zipIdx.map fun t => rows.map fun r => r.getD t.2 .null
  let d1 := 0x40000
  let d2 := d1 + 16 + 16 * ins.length
  let i := placeCols rows.length (roundUp (d2 + 16 + 16 * outs.length) 64)
    ((ins.zip vals).map fun x => (x.1, (udoBody x.1 x.2).1.length))
  let o := placeCols 4096 i.2 (outs.map fun t => (t, 4096 * (if t.isVar then 16 else max 1 t.width)))
  let sp := Tbl.write 0 (Tbl.write 0 [] d1 (udoDesc rows.length i.1)) d2 (udoDesc 0 o.1)
  let sp := (i.1.zip vals).foldl (fun sp x =>
    let b := udoBody x.1.ty x.2
    let v := packCodes 1 (x.2.map fun v => if v = .null then 0 else 1)
    Tbl.write 0 (Tbl.write 0 (Tbl.write 0 sp x.1.data b.1) x.1.valid v) x.1.offs b.2) sp
  (sp, d1, d2, o.1)

/-- Bytes of a scratchpad. -/
def spBytes (sp : Tbl Byte) (a n : Nat) : List Byte := (List.range n).map fun k => sp.get 0 (a + k)

/-- The values that user code has left in an output column of n rows; none when they are no PLAIN values of its type. -/
def udoValues (sp : Tbl Byte) (n : Nat) (c : UdoCol) : Option (List Val) :=
  let offs := if c.ty.isVar then spBytes sp c.offs (4 * (n + 1)) else []
  let len := if c.ty.isVar then leAt offs (4 * n) 4 else if c.ty.isBool then (n + 7) / 8 else n * c.ty.width
  let body := offs ++ spBytes sp c.data len
  if c.ty.isVar ∧ !offsetsOk n body.length body then none
  else pickRows ((List.range n).map fun k => (sp.get 0 (c.valid + k / 8)).getLsbD (k % 8)) (plainAt c.ty n body)

/-- One batch through user code: g1 and g2 hold the descriptors at entry, and g1 the status at return (R148). ROWS past 4,096, and
values that are no values of their type, fail the item with INTERNAL_ERROR (log 147). -/
def udoBatch (p : Plan) (o : OpEnt) (env : Env) (ins : List Nat) (outs : List (Nat × Ty)) (b : Batch) : Except Nat Batch :=
  let rows := (b.filterMap id).map fun row => ins.map row.val
  let e := udoEntry (ins.map env.ty) (outs.map (·.2)) rows
  let r := Config.udo ((p.code.drop o.codeOff).take o.codeLen) e.1 (BitVec.ofNat 64 e.2.1) (BitVec.ofNat 64 e.2.2.1)
  let n := leNat (spBytes r.2 e.2.2.1 4)
  if r.1 ≠ 0 then .error (if [stArith, stFormat, stRange, stIntegrity].contains r.1.toNat then r.1.toNat else stInternal)
  else if 4096 < n then .error stInternal
  else
    match e.2.2.2.mapM (udoValues r.2 n) with
    | none => .error stInternal
    | some cols => .ok ((List.range n).map fun k => some ((outs.zip cols).foldl (fun (row : Row) x =>
        Tbl.set Val.null row x.1.1 (x.2.getD k .null)) []))

/-! ## The run of an item -/

/-- HASH_BUILD: the rows of an item are copied into their partitions (R122). -/
def buildItem (it : Item) (env : Env) (keys : List KeyEnt) (pays : List Nat) (npart : Nat) (bs : List Batch) (q : QueryRun)
    (s : State) : OpOut :=
  let new := buildRows env keys pays npart it.idx (liveRows bs)
  let tys := (keys.map fun k => env.ty k.col) ++ pays.map env.ty
  if 4294967295 < (q.pipe it.pipe).rows.length + new.length then (.error stRange, q, s)
  else
    let parts := (byPart (·.part) new).map fun x => (x.1, plainRows tys (x.2.map fun r => r.key ++ r.pay))
    match appendAll it .table parts (q.pipe it.pipe) s with
    | (.error e, s) => (.error e, q, s)
    | (.ok p, s) => (.ok [], q.modPipe it.pipe (fun _ => { p with
        rows := p.rows ++ new, nullKey := p.nullKey || new.any fun r => r.key.contains .null }), s)

/-- A finalising item of a HASH_BUILD reads its partition and writes the bucket directory (R122); the directory's size and contents
are open (log 148). -/
def finalItem (it : Item) (q : QueryRun) (s : State) : OpOut :=
  let p := q.pipe it.pipe
  match (p.area .table it.idx).readAll it.c.inst s with
  | (.error e, s) => (.error e, q, s)
  | (.ok _, s) =>
    let d := freshBytes (Config.bucketBytes (p.rows.filter fun r => r.part = it.idx).length) s
    match appendAll it .directory [(it.idx, d.1)] p d.2 with
    | (.error e, s) => (.error e, q, s)
    | (.ok p, s) => (.ok [], q.modPipe it.pipe (fun _ => p), s)

/-- A partial AGG writes the groups of an item to their partitions, each in the bytes that it took in the table (R138); what those
bytes are is open (log 148). -/
def writeGroups (it : Item) (a : AggSet) : List AggGroup → PipeRun → State → Except Nat PipeRun × State
  | [], p, s => (.ok p, s)
  | g :: t, p, s =>
    let d := freshBytes (groupBytes a g.key) s
    match appendAll it .groups [(g.part, d.1)] p d.2 with
    | (.error e, s) => (.error e, s)
    | (.ok p, s) => writeGroups it a t { p with groups := p.groups ++ [g] } s

/-- One operator, number k of its pipeline, on the batches of an item. A VERIFY behind a SCAN of received or unmatched rows has
nothing to check (log 147). -/
def stepOp (it : Item) (k : Nat) (env : Env) (o : OpEnt) (bs : List Batch) (q : QueryRun) (s : State) : OpOut :=
  let keep := fun (r : Option (List Batch)) => match r with
    | some l => ((.ok l, q, s) : OpOut)
    | none => (.error stArith, q, s)
  match o.args with
  | .scan src pipe cols =>
    if src = 0 then (.ok bs, q, s)
    else if !keptOk q.plan src pipe cols then (.error stFormat, q, s)
    else
      match readAreas it.c.inst (q.pipe pipe) (keptArea src) [it.idx] s with
      | (.error e, s) => (.error e, q, s)
      | (.ok _, s) => (.ok (batchesOf (scanKept it src pipe cols q)), q, s)
  | .filter e => keep (filterRows q e bs)
  | .project drop outs => keep (mapRows (projectRow q drop outs) bs)
  | .hashBuild keys pays _ npart => buildItem it env keys pays npart bs q s
  | .hashProbe b jkind keys pays resid =>
    let bkeys := match lastArgs q.plan b with
      | some (.hashBuild ks _ _ _) => ks
      | _ => []
    match probeBatches (probeRow q env (q.pipe b) bkeys jkind keys pays resid) bs s with
    | (none, s) => (.error stArith, q, s)
    | (some (out, ms), s) => (.ok out, q.modPipe b (fun p => { p with rows := markRows ms p.rows }), s)
  | .matchOp mmode mkind tsrc hc rc pc _ fields => matchItem it k o env mmode mkind tsrc hc rc pc fields bs q s
  | .sort keys stable pays limit => sortItem it env keys stable pays limit bs q s
  | .topk keys stable _ k =>
    let r := topkRows env keys stable k bs s
    (.ok r.1, q, r.2)
  | .merge src cols =>
    match lastArgs q.plan src with
    | some (.sort keys stable pays limit) =>
      let senv := (planEnvs q.plan).getD src []
      let tys := (keys.map fun k => senv.ty k.col) ++ pays.map senv.ty
      match readRows it.c.inst tys keys.length (q.pipe src) (q.pipe it.pipe).merged s with
      | (.error e, s) => (.error e, q, s)
      | (.ok rows, s) => (.ok (batchesOf ((mergedRows (typedKeys senv keys) stable limit rows).map (mergeRow cols))), q, s)
    | _ => (.ok [], q, s)
  | .agg false _ npart tbl4k keys fns =>
    let a : AggSet := {
      keys := keys.map fun k => { col := k.1, coll := k.2.1, desc := false, nullsFirst := false, pre := 0 },
      kt := keys.map fun k => (env.ty k.1, k.2.1), fns := fns.map fun f => (f, env.ty f.col), npart := npart,
      limit := 4096 * tbl4k, item := it.idx }
    match writeGroups it a (aggItem a env bs) (q.pipe it.pipe) s with
    | (.error e, s) => (.error e, q, s)
    | (.ok p, s) => (.ok [], q.modPipe it.pipe (fun _ => p), s)
  | .agg true src _ _ keys fns =>
    let single := decide (((q.plan.pipes[it.pipe]?).map (·.kind)).getD 2 = 2)
    let parts := if single then ((q.pipe src).areas.filter fun a => a.kind = .groups).map (·.id) else [it.idx]
    match readAreas it.c.inst (q.pipe src) .groups parts s with
    | (.error e, s) => (.error e, q, s)
    | (.ok _, s) =>
      match finalRows it single o.flow src keys fns q s with
      | (none, s) => (.error stArith, q, s)
      | (some rows, s) => (.ok (batchesOf rows), q, s)
  | .verify _ => (.ok bs, q, s)
  | .exchange mode nlocal keys cols =>
    match exchangeItem it env mode nlocal keys cols bs (q.pipe it.pipe) s with
    | (.error e, s) => (.error e, q, s)
    | (.ok p, s) => (.ok [], q.modPipe it.pipe (fun _ => p), s)
  | .emit k cols => emitItem it k cols bs q s
  | .udo _ ins outs =>
    match bs.foldl (fun (acc : Except Nat (List Batch)) b => match acc with
        | .error e => .error e
        | .ok l => match udoBatch q.plan o env ins outs b with
          | .error e => .error e
          | .ok x => .ok (l ++ [x])) (.ok []) with
    | .error e => (.error e, q, s)
    | .ok l => (.ok l, q, s)

/-- Operators one after another, each over all batches (log 74); the failure names the operator. -/
def runOps (it : Item) : List (OpEnt × Nat) → List Batch → QueryRun → State → Except (Nat × Nat) (List Batch) × QueryRun × State
  | [], bs, q, s => (.ok bs, q, s)
  | (o, k) :: t, bs, q, s =>
    match stepOp it k (envBefore q.plan it.pipe k) o bs q s with
    | (.error e, q, s) => (.error (k, e), q, s)
    | (.ok bs, q, s) => runOps it t bs q s

/-- The state of an item between two operators, if some have run. -/
def partOf (q : QueryRun) (pipe idx : Nat) : Option PartRun :=
  q.parts.find? fun p => decide (p.pipe = pipe) && decide (p.idx = idx)

/-- Forgets an item between its operators. -/
def dropPart (pipe idx : Nat) (q : QueryRun) : QueryRun :=
  { q with parts := q.parts.filter fun p => !(decide (p.pipe = pipe) && decide (p.idx = idx)) }

/-- Runs the operators of an item that have not run yet, up to and without number `stop`: SCAN of an input first, where the
pipeline begins with one. -/
def runUpto (it : Item) (stop : Nat) (q : QueryRun) (s : State) : Except (Nat × Nat) (List Batch) × QueryRun × State :=
  let ops := (pipeOps q.plan it.pipe).zipIdx.filter fun o => decide (o.2 < stop)
  match partOf q it.pipe it.idx with
  | some p => runOps it (ops.filter fun o => decide (p.next ≤ o.2)) p.batches q s
  | none =>
    match argsAt q.plan it.pipe 0 with
    | some (.scan 0 _ cols) =>
      match scanInput it cols q s with
      | (.error e, s) => (.error e, q, s)
      | (.ok rows, s) => runOps it ops (batchesOf rows) q s
    | _ => runOps it ops [] q s

/-- The item has left operator number `next - 1`: its batches wait for the next one. -/
def keepPart (it : Item) (next : Nat) (bs : List Batch) (q : QueryRun) : QueryRun :=
  let q := dropPart it.pipe it.idx q
  { q with parts := q.parts ++ [{ pipe := it.pipe, idx := it.idx, next := next, batches := bs }] }

/-- Runs an item to its end; what its bursts and earlier operators left is used up. -/
def runItem (it : Item) (q : QueryRun) (s : State) : Except (Nat × Nat) Unit × QueryRun × State :=
  match runUpto it (pipeOps q.plan it.pipe).length q s with
  | (.error e, q, s) => (.error e, q, s)
  | (.ok _, q, s) =>
    let q := dropPart it.pipe it.idx q
    (.ok (), { q with bursts := q.bursts.filter fun b => !(decide (b.pipe = it.pipe) && decide (b.item = it.idx)) }, s)

end Sys2Proof.Machine
end

