-- ==== Sys2Proof/Machine/Power.lean ====
section
/-!
DEFINITION. Power and clocks (R431 to R436, R499 to R517, R520, R521): admission events, limits and
frond clocks, parking, power states, supply warnings, the reference clock.
-/

namespace Sys2Proof.Machine

/-! ## Admission (R508 to R510) -/

/-- ADMISSION_REQUEST: a request of some holder reaches the admission controller. -/
def execAdmissionRequest (units us level : Nat) (inst : Option Nat) (disc : Bool) (die : Option Nat) (s : State) :
    Host.Outcome State Fault Refusal :=
  .next (requestGrant units us level inst disc die .other s)

/-- GRANT_GIVEN: the queue is examined and what fits is granted. -/
def execGrantGiven (s : State) : Host.Outcome State Fault Refusal := .next (examineGrants s)

/-- GRANT_RELEASE: the holder ends. -/
def execGrantRelease (id : Nat) (s : State) : Host.Outcome State Fault Refusal :=
  if (s.pwr.grants ++ s.pwr.revoked).any (fun g => g.id = id) then .next (endGrant id s) else .next s

/-- Whether the holder of a grant still runs. -/
def holderRuns (s : State) (g : Grant) : Bool :=
  match g.holder with
  | .stage slot pipe f => (s.frond f).item.any fun it => decide (it.slot = slot) && decide (it.pipe = pipe)
  | .scrub => !s.mem.burst.isEmpty
  | .smu u slot => (s.smu u).jobs.any fun j => j.slot = slot
  | .cmu _ slot => (s.cmd slot).isSome
  | .link l => decide ((s.link l).st ≠ .up)
  | .other => true

/-- GRANT_EXPIRY: the declared length has run out; a holder that still runs is extended without a check,
any other grant ends (R510). -/
def execGrantExpiry (id : Nat) (s : State) : Host.Outcome State Fault Refusal :=
  match s.pwr.grants.find? fun g => g.id = id with
  | none => .next s
  | some g =>
    if s.time < g.expiry then .next s
    else if holderRuns s g then
      .next { s with pwr := { s.pwr with
        overruns := s.pwr.overruns + 1,
        grants := s.pwr.grants.map fun x => if x.id = id then { x with expiry := x.expiry + 1000 * x.us } else x } }
    else .next (endGrant id s)

/-! ## Limits and clocks (R501, R511, R520) -/

/-- A limit rises by 100 MHz, up to 2.4 GHz. -/
def raiseLimit (x : Nat) : Nat := min 24 (x + 1)

/-- CAP_LIMIT_RISE: input power has stayed at or below 0.95 times the cap for 1 ms (R511). -/
def execCapLimitRise (s : State) : Host.Outcome State Fault Refusal :=
  if isStrict s ∨ 95 * s.pwr.cap < 100 * s.pwr.measured then .next s
  else .next (forBelow (fun d s => { s with pwr := { s.pwr with
    capLim := s.pwr.capLim.set 24 d (raiseLimit (s.pwr.capLim.get 24 d)) } }) 4 s)

/-- THERMAL_LIMIT_RISE: the die's hottest quadrant sensor has stayed at or below 98 °C for 1 ms (R520). -/
def execThermalLimitRise (die : Nat) (s : State) : Host.Outcome State Fault Refusal :=
  if isStrict s ∨ 4 ≤ die ∨ !(dieQuadTemp s die).all (fun t => decide (t ≤ 98 * 16)) then .next s
  else .next { s with pwr := { s.pwr with
    thermLim := s.pwr.thermLim.set 24 die (raiseLimit (s.pwr.thermLim.get 24 die)) } }

/-- FROND_CLOCK_STEP: the clock moves 100 MHz toward its ceiling. -/
def execFrondClockStep (die : Nat) (s : State) : Host.Outcome State Fault Refusal :=
  if 4 ≤ die then .next s
  else
    let f := s.pwr.fclk.get 24 die
    let c := ceiling s die
    let f' := if f < c then f + 1 else if c < f then f - 1 else f
    .next { s with pwr := { s.pwr with fclk := s.pwr.fclk.set 24 die f' } }

/-! ## Parking (R31, R504) -/

/-- Every frond of a quadrant is idle. -/
def quadIdle (s : State) (q : Nat) : Bool :=
  (List.range' (8 * q) 8).all fun f => (s.frond f).item.isNone && (s.frond f).reserved.isNone

/-- Quadrants 0, 4, 8 and 12 are warm in LATENCY (R31). -/
def isWarm (s : State) (q : Nat) : Bool := decide (s.disp.profile = 1) && decide (q % 4 = 0)

/-- QUADRANT_PARK: in PS0, outside STRICT, a quadrant that is not warm and has been idle for the park
time has its clock stopped. -/
def execQuadrantPark (quad : Nat) (s : State) : Host.Outcome State Fault Refusal :=
  if quad < 16 ∧ awake s ∧ !isStrict s ∧ !isWarm s quad ∧ quadIdle s quad then
    .next { s with pwr := { s.pwr with parked := s.pwr.parked.set false quad true } }
  else .next s

/-! ## Power states (R431 to R435, R505 to R507) -/

/-- An idle timer runs out: the module is in the state, has been idle for the timer's value, enters and leaves no state, STRICT is
not in force, and no timer value down to it is 0. Every timer counts from the start of the idle time (R432, R434; log 173). -/
def idleMay (ps : BitVec 2) (vals : List (BitVec 24)) (s : State) : Bool :=
  decide (s.pwr.ps = ps) && !s.pwr.entering && !s.pwr.exiting && !s.pwr.destaging && moduleIdle s && !isStrict s &&
  !s.pads.inReset && vals.all (fun v => decide (v ≠ 0)) && decide (s.pwr.idleMark = workMarks s) &&
  decide ((vals.getLastD 0).toNat ≤ s.pwr.idleUs)

/-- IDLE1_EXPIRY: PS1 entry begins. -/
def execIdle1Expiry (s : State) : Host.Outcome State Fault Refusal :=
  if idleMay 0 [s.pwr.idle1] s then .next (enterPs 1 s) else .next s

/-- Whether every publication is durable and nothing staged stands in the write cache. -/
def cacheClean (s : State) : Bool := s.store.pubs.isEmpty

/-- IDLE2_EXPIRY: the write cache is destaged first, then PS2 entry begins. -/
def execIdle2Expiry (s : State) : Host.Outcome State Fault Refusal :=
  if idleMay 1 [s.pwr.idle1, s.pwr.idle2] s then
    if cacheClean s then .next (enterPs 2 s) else .next { s with pwr := { s.pwr with destaging := true } }
  else .next s

/-- IDLE3_EXPIRY: PS3 entry begins; not with CXL.mem enabled. -/
def execIdle3Expiry (s : State) : Host.Outcome State Fault Refusal :=
  if idleMay 2 [s.pwr.idle1, s.pwr.idle2, s.pwr.idle3] s && !s.lnk.cxlOn then .next (enterPs 3 s) else .next s

/-- In PS3 the storage and host links are in L1, the host links where REFCLK_LOC is the reference may be in L1.2, and the Rhizome links
are quiet (R431, R500). -/
def lowLinks (s : State) : State := { s with pwr := { s.pwr with linksLow := true, l12 := s.pwr.refLoc } }

/-- PS_ENTRY_COMPLETE: the module is in the new state; a wake after the point of no return starts the
exit at once (R433, R505). -/
def execPsEntryComplete (s : State) : Host.Outcome State Fault Refusal :=
  if !s.pwr.entering then .next s
  else
    let s := if s.pwr.target = 3 then lowLinks (selfRefresh s) else s
    let p := s.pwr
    .next { s with pwr := { p with ps := p.target, entering := false, ponr := false, exiting := p.wakeAfter, wakeAfter := false } }

/-- A frond whose domain was off: its runtime starts again; scratchpad was retained (R503, R506). -/
def restartFrond (fr : Frond) : Frond := { Frond.reset with sp := fr.sp, dirty := fr.dirty }

/-- PS_EXIT_COMPLETE: the module is in PS0 and held work is dispatched (R506, R507). -/
def execPsExitComplete (s : State) : Host.Outcome State Fault Refusal :=
  if !s.pwr.exiting ∨ s.pwr.entering then .next s
  else
    let ps := s.pwr.ps
    let s := if ps = 3 then leaveSelfRefresh s else s
    let s := if 2 ≤ ps.toNat then { s with fronds := s.fronds.map fun e => (e.1, restartFrond e.2) } else s
    .next { s with pwr := { s.pwr with ps := 0, target := 0, exiting := false, ponr := false, linksLow := false, l12 := false } }

/-! ## Supply warnings (R501, R515 to R517) -/

/-- The sag limit of a die is 1.2 GHz; a clock above it is divided by two at once, here to whole steps of 100 MHz (log 163). -/
def sagDie (d : Nat) (s : State) : State :=
  let f := s.pwr.fclk.get 24 d
  { s with pwr := { s.pwr with
      sagLim := s.pwr.sagLim.set 24 d 12,
      fclk := s.pwr.fclk.set 24 d (if 12 < f then f / 2 else f) } }

/-- SUPPLY_WARNING: VIN (source 0x3F) or the rail of a domain 1 to 40 has stayed below its warning
threshold for 2 µs. -/
def execSupplyWarning (src : Nat) (s : State) : Host.Outcome State Fault Refusal :=
  if src ≠ 0x3F ∧ (src = 0 ∨ 40 < src) then .next s
  else
    let s := logEvent 0x0801 0x00 0 src none s
    let disc := s.pwr.grants.filter (·.discretionary)
    let s := forEach chargeGrant disc s
    let s := { s with pwr := { s.pwr with
      sag := true, sagSource := BitVec.ofNat 6 src,
      domWarn := if src = 0x3F then s.pwr.domWarn else s.pwr.domWarn.set false src true,
      revoked := s.pwr.revoked ++ disc, grants := s.pwr.grants.filter fun g => !g.discretionary,
      revokes := s.pwr.revokes + BitVec.ofNat 64 disc.length } }
    let s := forBelow sagDie 4 s
    let s := forBelow (fun u s => s.setCmu u { s.cmu u with sagHold := true, step := max 2 (s.cmu u).step }) 4 s
    let s := forBelow (fun u s => if (s.smu u).jobs.isEmpty then s else s.setSmu u { s.smu u with paused := true }) 8 s
    .next (hawEventAll 0 { s with mem := { s.mem with scrubPaused := true } })

/-- The step of a CMU when the warning has ended: that of its last reading, left downward as R258 says. -/
def cmuStepFree (u : Nat) (s : State) : State :=
  let x := s.cmu u
  s.setCmu u { x with step := nextStep x.strict s.pwr.sag x.reading x.step }

/-- SAG_CLEAR: VIN and the rails have been in range for 1 ms; revoked grants are reinstated in order and
their holders resume (R517). -/
def execSagClear (s : State) : Host.Outcome State Fault Refusal :=
  if !s.pwr.sag && !s.pwr.reduced then .next s
  else
    let rv := s.pwr.revoked.filter (holderRuns s)
    let s := { s with pwr := { s.pwr with sag := false, domWarn := [], reduced := false, revoked := rv } }
    let s := forBelow (fun u s =>
      if s.pwr.revoked.any (fun g => match g.holder with | .cmu v _ => decide (v = u) | _ => false) then s
      else s.setCmu u { s.cmu u with sagHold := false }) 4 (forBelow cmuStepFree 4 s)
    let s := forBelow (fun u s =>
      if s.pwr.revoked.any (fun g => match g.holder with | .smu v _ => decide (v = u) | _ => false) then s
      else s.setSmu u { s.smu u with paused := false }) 8 s
    let s := if s.pwr.revoked.any (fun g => g.holder = .scrub) then s
      else { s with mem := { s.mem with scrubPaused := false } }
    .next (examineGrants s)

/-! ## Reference clock (R500) -/

/-- REFCLK_LOSS: PLLs hold, the clock alarm is raised, DEGRADED is set. -/
def execRefclkLoss (s : State) : Host.Outcome State Fault Refusal :=
  if s.pwr.refLost then .next s
  else .next (rotAlarm 1 { s with pwr := { s.pwr with refLost := true } })

/-- REFCLK_RETURN: every PLL has relocked. -/
def execRefclkReturn (s : State) : Host.Outcome State Fault Refusal :=
  .next { s with pwr := { s.pwr with refLost := false } }

/-! ## Module time (R502) -/

/-- A module timer falls due: a deadline of the dispatcher (R301), which is a wake event (R433). -/
def timerDue (s : State) : Bool := s.disp.timers.any fun t => decide (t.expiry ≤ s.time)

/-- The counters of time: µs of a CMU at a step other than 0 (R265) and of an SMU with a job in its tree
(R284), which merges meanwhile. -/
def busyTick (s : State) : State :=
  let s := forBelow (fun u s =>
    if (s.cmu u).step = 0 then s else s.setCmu u { s.cmu u with thrUs := (s.cmu u).thrUs + 1 }) 4 s
  forBelow (fun u s =>
    if (treeJob s u).isNone then s
    else advanceSmu u (s.setSmu u { s.smu u with busyUs := (s.smu u).busyUs + 1 })) 8 s

/-- Adds busy time of an instance's work on a frond or an engine to the window in progress. -/
def addWin (eng : Bool) (k i n : Nat) (s : State) : State :=
  let add := fun (t : Tbl Nat) (j : Nat) => t.set 0 j (t.get 0 j + n)
  if eng then { s with disp := { s.disp with
    winEng := add s.disp.winEng k, winEngOwn := add s.disp.winEngOwn (1024 * i + k) } }
  else { s with disp := { s.disp with
    winFrond := add s.disp.winFrond k, winFrondOwn := add s.disp.winFrondOwn (1024 * i + k) } }

/-- Slots that a unit offers in 1 µs at its throttle step (R230, R258). -/
def slotsOffered (step : Nat) : Nat := if step = 0 then 1200 else if step = 1 then 900 else if step = 2 then 600 else 300

/-- Instances whose frames the exchange has in transit (log 150). -/
def exchangeInsts (s : State) : List Nat := ((s.lnk.sent.filter fun f => f.frame.ftype = ftXdata).map fun f => f.frame.inst).dedup

/-- What the counters of R308 see in 1 µs: the core cycles of fronds with an item, the slots that CMUs offer, and the SMUs, DGUs
and exchange that work. -/
def windowTick (s : State) : State :=
  let s := forBelow (fun f s =>
    if (s.frond f).item.isSome && clockOn f s then addWin false f (s.frond f).inst.toNat (100 * s.pwr.fclk.get 24 (f / 32)) s else s) 128 s
  let s := forBelow (fun u s => { s with disp := { s.disp with
    winEng := s.disp.winEng.set 0 (32 + u) (s.disp.winEng.get 0 (32 + u) + slotsOffered (s.cmu u).step) } }) 4 s
  let s := forBelow (fun u s =>
    match treeJob s u with
    | some j => if (s.smu u).paused then s else addWin true (4 + u) j.inst 1 s
    | none => s) 8 s
  let s := forBelow (fun u s =>
    let is := ((s.dgu u).lanes.filterMap fun e => e.2.map fun x => ((s.dgu u).ctxs.get Ctx.free x.1).inst).dedup
    ownOnly (12 + u) is s) 4 s
  ownOnly 16 (exchangeInsts s) s
where
  /-- An engine that several instances use at once counts once, and once for each of them. -/
  ownOnly (k : Nat) (is : List Nat) (s : State) : State :=
    if is.isEmpty then s
    else
      let s := { s with disp := { s.disp with winEng := s.disp.winEng.set 0 k (s.disp.winEng.get 0 k + 1) } }
      forEach (fun i s => { s with disp := { s.disp with
        winEngOwn := s.disp.winEngOwn.set 0 (1024 * i + k) (s.disp.winEngOwn.get 0 (1024 * i + k) + 1) } }) is s

/-- AON_TICK: deadlines that were due fire, module time advances by 1,000 ns; an entry in progress may pass its point of no
return, and a timer that falls due wakes the module (R301, R308, R431, R433, R502). -/
def execAonTick (s : State) : Host.Outcome State Fault Refusal :=
  if s.pads.porHeld then .next s
  else
    let s := fireDue s.disp.timers.length s
    let s := windowTick (busyTick { s with time := (s.time + 1000) % 2 ^ 64 })
    let s := if s.pwr.entering && decide (s.pwr.entryAt + ponrAfter s.pwr.target ≤ s.time)
      then { s with pwr := { s.pwr with ponr := true } } else s
    let s := idleTick s
    .next (if timerDue s && !awake s then wake s else s)

/-! ## Windows of observation (R308, R310) -/

/-- Busy permille of an engine in a window: slots used per slot offered for a CMU, otherwise the share of 1,000 µs (R310). -/
def winPermille (s : State) (k n : Nat) : BitVec 10 :=
  let n := if k < 4 then n * 1000 / max 1 (s.disp.winEng.get 0 (32 + k)) else n
  BitVec.ofNat 10 (min 1000 n)

/-- Cycles of a frond in a window beyond those of whole microseconds: less than one microsecond's (log 157). -/
def windowRest (loads : List (Nat × Nat)) (s : State) (f : Nat) : Nat :=
  match loads.find? fun e => e.1 = f with
  | some e => e.2 % (100 * s.pwr.fclk.get 24 (f / 32))
  | none => 0

/-- Loads of the fronds in a window. -/
def windowLoads (loads : List (Nat × Nat)) (s : State) : Tbl (BitVec 22) :=
  (List.range 128).foldl (fun t f => t.set 0 f (BitVec.ofNat 22 (s.disp.winFrond.get 0 f + windowRest loads s f))) []

/-- Occupancies of the engines in a window, those named rounded up (log 157). -/
def windowOcc (occ : List Nat) (s : State) : Tbl (BitVec 10) :=
  (List.range 17).foldl (fun t e => t.set 0 e
    (BitVec.ofNat 10 (min 1000 ((winPermille s e (s.disp.winEng.get 0 e)).toNat + if occ.contains e then 1 else 0)))) []

/-- OBSERVATION_WINDOW_END: a window of 1 ms ends and the load counters take what the module has counted in it, for the whole and
for each instance; the next window begins. The operands bring what whole microseconds do not show (log 157). -/
def execObservationWindowEnd (loads : List (Nat × Nat)) (occ : List Nat) (s : State) : Host.Outcome State Fault Refusal :=
  if s.time % 1000000 ≠ 0 then .next s
  else
    let d := s.disp
    .next { s with disp := { d with
      frondLoad := windowLoads loads s,
      engOcc := windowOcc occ s,
      frondOwn := d.winFrondOwn.map fun e => (e.1, BitVec.ofNat 22 e.2),
      engOwn := d.winEngOwn.map fun e => (e.1, winPermille s (e.1 % 1024) e.2),
      winFrond := [], winEng := [], winFrondOwn := [], winEngOwn := [] } }

end Sys2Proof.Machine
end

