-- ==== Sys2Proof/Machine/Dispatcher.lean ====
section
/-!
DEFINITION. The hardware dispatcher (R285 to R300, R309) and the end of items (R62 to R67, R76, R150, R186).
-/

namespace Sys2Proof.Machine

/-! ## What a cursor has left (R63, R122, R275, R285) -/

/-- Finalising items of a HASH_BUILD: one for each partition. -/
def finalCount (p : Plan) (n : Nat) : Nat :=
  match lastArgs p n with
  | some (.hashBuild _ _ _ k) => k
  | _ => 0

/-- The SORT pipeline whose last pass a pipeline performs. -/
def mergeSrc (p : Plan) (n : Nat) : Option Nat :=
  match argsAt p n 0 with
  | some (.merge src _) => some src
  | _ => none

/-- The merge jobs of a pipeline are the last pass of its MERGE: its items have not ended yet. -/
def atMerge (q : QueryRun) (n : Nat) : Bool := (mergeSrc q.plan n).isSome && !itemsOver q n

/-- Merge jobs of a cursor: the one last pass of a MERGE, or the jobs of a pass. -/
def jobCount (q : QueryRun) (n : Nat) : Nat := if atMerge q n then 1 else passJobs (q.pipe n).runs.length

/-- Units of work that a cursor has still to hand out. -/
def cursorLeft (q : QueryRun) (c : Cursor) : Nat :=
  let p := q.pipe c.pipe
  match c.kind with
  | .items => itemCount q c.pipe - p.made
  | .finals => finalCount q.plan c.pipe - p.finMade
  | .jobs => jobCount q c.pipe - p.finMade
  | .passes => p.passQ.length - p.passMade
  | .sends => p.outbox.length
  | .digOpen => 0
  | .digFrond => 0

/-- A command whose cursors yield items: its query is live, its plan is not being reloaded (R306), no entry waits for
its CQ (R392). -/
def runnable (s : State) (slot : Nat) : Option (Cmd × QueryRun) :=
  match liveQuery s slot with
  | none => none
  | some (c, q) => if s.disp.reloading.contains (c.inst, q.planId) || cmdHeldByCq c s then none else some (c, q)

/-! ## Fronds (R187, R291, R292, R297, R504) -/

/-- A frond that can take work for a cursor: idle, in service, not held for another chain, in the instance's set under
STRICT. -/
def frondTakes (s : State) (slot pipe i f : Nat) : Bool :=
  let fr := s.frond f
  fr.item.isNone && !fr.halted && (fr.reserved.isNone || decide (fr.reserved = some (slot, pipe))) &&
  (!isStrict s || decide (s.disp.frondSet.get 0 f = i + 1))

/-- The die of an instance device address, when it is mapped. -/
def dieOfDev (s : State) (i a : Nat) : Option Nat :=
  match translate s i a false with
  | .phys p => some (dieOfFrame (frameAt p))
  | _ => none

/-- The die that holds the first page of a partition of a breaker: of its build rows, received rows or groups. -/
def partitionDie (s : State) (i : Nat) (p : PipeRun) (k : Nat) : Option Nat :=
  [AreaKind.table, .received, .groups].findSome? fun a => (p.area a k).die s i

/-- The home die of an item (R291). A HOST or STORE chunk lies on no die, and an empty partition has no page (log 65). -/
def homeDie (s : State) (c : Cmd) (q : QueryRun) (x : Cursor) : Option Nat :=
  if q.plan.homekey ∧ c.opc = 2 then
    match q.plan.slots.zipIdx.find? fun e => e.1.point with
    | some e => some (hashPart (hashKey 0 [(e.1.ty, 0, slotValue q.pb e.2 e.1)]) 4)
    | none => none
  else
    match q.plan.pipes[x.pipe]? with
    | none => none
    | some e =>
      if x.kind = .finals then partitionDie s c.inst (q.pipe x.pipe) (q.pipe x.pipe).finMade
      else if e.kind = 1 then partitionDie s c.inst (q.pipe e.source) (q.pipe x.pipe).made
      else if e.kind = 0 then
        match inputOf q e.source with
        | some inp => if inp.kind = 1 then
            (inp.dir[(q.pipe x.pipe).made * inp.ncol]?).bind fun d => dieOfDev s c.inst d.1
          else none
        | none => none
      else none

/-- AFF_WAIT of the profile in ns (R295). -/
def affWait (s : State) : Nat := if s.disp.profile = 0 then 1000 else if s.disp.profile = 2 then 2000 else 0

/-- Home-die preference: another die's frond takes the item only when none on the home die is idle and the wait is
over. -/
def homeAllows (s : State) (c : Cmd) (q : QueryRun) (x : Cursor) (f : Nat) : Bool :=
  match homeDie s c q x with
  | none => true
  | some d =>
    decide (f / 32 = d) ||
    (!((List.range' (32 * d) 32).any fun g => frondTakes s x.slot x.pipe c.inst g) && (x.affOver || decide (affWait s = 0)))

/-- Stages of a handed-off pipeline; none for a fused one (R65). -/
def chainStages (p : Plan) (n : Nat) : Option Nat :=
  if (pipeOps p n).any OpEnt.handoff then (p.pipes[n]?).map (·.nstage) else none

/-- Fronds of a quadrant that a chain may take. -/
def quadFree (s : State) (slot pipe i k : Nat) : List Nat :=
  (List.range' (8 * k) 8).filter fun f => frondTakes s slot pipe i f

/-- The quadrant in which a chain is assembled: where its assembly stands, else the one with the most idle fronds among
those without an assembly, the lowest on a tie (R292). -/
def chainQuad (s : State) (slot pipe i : Nat) : Option Nat :=
  match (List.range 128).find? fun f => (s.frond f).reserved = some (slot, pipe) with
  | some f => some (f / 8)
  | none =>
    let free := (List.range 16).filter fun k => (List.range' (8 * k) 8).all fun f => (s.frond f).reserved.isNone
    let best := (free.map fun k => (quadFree s slot pipe i k).length).foldl max 0
    if best = 0 then none else free.find? fun k => (quadFree s slot pipe i k).length = best

/-- A cursor's next item may go to frond f. -/
def frondEligible (s : State) (f : Nat) (x : Cursor) : Bool :=
  match runnable s x.slot with
  | none => false
  | some (c, q) =>
    (decide (x.kind = .items) || decide (x.kind = .finals)) && decide (0 < cursorLeft q x) && !x.grantWait &&
    frondTakes s x.slot x.pipe c.inst f &&
    (if x.kind = .items ∧ (chainStages q.plan x.pipe).isSome then decide (chainQuad s x.slot x.pipe c.inst = some (f / 8))
     else homeAllows s c q x f)

/-! ## Choosing (R296) -/

/-- Candidates of a frond: one of a warm quadrant takes latency items first (R296). -/
def frondChoices (s : State) (f : Nat) : List Choice :=
  let l := candidates s 0 (frondEligible s f)
  let lat := l.filter fun x => decide (s.disp.latLevel.toNat ≤ x.2.1.level)
  if isWarm s (f / 8) ∧ !lat.isEmpty then lat else l

/-! ## Starting items (R72, R186, R298, R299) -/

/-- Code bytes of operators. -/
def codeOf (p : Plan) (ops : List OpEnt) : List Byte :=
  (ops.map fun o => (p.code.drop o.codeOff).take o.codeLen).flatten

/-- Operators whose code a frond runs: those of its stage in a handed-off pipeline, all of them in a fused one; a
finalising item runs none of the plan's code. -/
def stageOps (p : Plan) (n stage : Nat) : List OpEnt :=
  if stage = finalStage then []
  else if (chainStages p n).isSome then (pipeOps p n).filter fun o => o.stage = stage
  else pipeOps p n

/-- The last steps of R186: the frond takes an item of an instance and enters the first operator of its stage, at that operator's
level and, for a UDO, with its CYCLES; `enterOp` says what later entries load. One that last ran another instance is cleared first
(R187). Code stands from address 0 on (log 76). -/
def startFrond (f : Nat) (c : Cmd) (p : Plan) (it : ItemRef) (s : State) : State :=
  let fr := s.frond f
  let fr := if fr.inst.toNat = c.inst then fr else fr.clear
  let ops := stageOps p it.pipe it.stage
  let code := codeOf p ops
  let work := ((p.pipes[it.pipe]?).map (·.work)).getD 0
  let budget := match ops.head?.map (·.args) with | some (.udo cy _ _) => cy | _ => 0
  let k := ops.head?.any OpEnt.klevel
  let s := { s with pwr := { s.pwr with parked := s.pwr.parked.set false (f / 8) false } }
  s.setFrond f (Frond.flush { fr with
    inst := BitVec.ofNat 8 c.inst, cbase := 0, clim := BitVec.ofNat 32 code.length,
    wlim := BitVec.ofNat 32 (0x40000 + roundUp work 4096), bpctl := if p.bpctl then 1 else 0, cyc := 0, ret := 0, iss := 0,
    specx := 0, budget := BitVec.ofNat 64 budget, pc := 0, status := statusOf false fr.ie k k, since := s.time,
    sp := Tbl.write 0 fr.sp 0 code, item := some it, asking := false, reserved := none, stopping := none, stopReq := false, budgetReq := false,
    hoOut := [] })

/-- An item takes its place in the flows of its pipeline's FLOW operators: the order in which items enter service is that of
their dispatch, R63's (R67, R298, R299). -/
def enterFlows (n idx : Nat) (q : QueryRun) : QueryRun :=
  let add := fun (l : List (Nat × Nat × Nat × List Nat)) (k fl : Nat) =>
    if l.any fun e => decide (e.1 = n) && decide (e.2.1 = k) && decide (e.2.2.1 = fl) then
      l.map fun e => if e.1 = n ∧ e.2.1 = k ∧ e.2.2.1 = fl then (n, k, fl, e.2.2.2 ++ [idx]) else e
    else l ++ [(n, k, fl, [idx])]
  { q with flowQ := (pipeOps q.plan n).zipIdx.foldl (fun l o =>
      if o.1.flow then add l o.2 (if o.1.flows = 1 then 0 else idx) else l) q.flowQ }

/-- The item has left operator k: it is gone from that operator's flow and from those of the operators before it. -/
def leaveUpto (n k idx : Nat) (q : QueryRun) : QueryRun :=
  { q with flowQ := q.flowQ.map fun e => if e.1 = n ∧ e.2.1 ≤ k then (n, e.2.1, e.2.2.1, e.2.2.2.filter (· ≠ idx)) else e }

/-- Removes an item from every flow of its pipeline. -/
def leaveFlows (n idx : Nat) (q : QueryRun) : QueryRun :=
  { q with flowQ := q.flowQ.map fun e => if e.1 = n then (n, e.2.1, e.2.2.1, e.2.2.2.filter (· ≠ idx)) else e }

/-- An item is parked at an operator up to number k: another one is before it in a flow. -/
def parkedItem (q : QueryRun) (n k idx : Nat) : Bool :=
  q.flowQ.any fun e => decide (e.1 = n) && decide (e.2.1 ≤ k) && e.2.2.2.contains idx && decide (e.2.2.2.head? ≠ some idx)

/-- The first operator of a pipeline at which an item parks. -/
def parkedAt (q : QueryRun) (n idx : Nat) : Option Nat :=
  (List.range (pipeOps q.plan n).length).find? fun k => parkedItem q n k idx

/-- Names the frond that holds a stage's grant; until the start it is held under frond number 999. -/
def nameGrant (slot pipe f : Nat) (s : State) : State :=
  let g := fun (x : Grant) => if x.holder = .stage slot pipe 999 then { x with holder := .stage slot pipe f, die := some (f / 32) } else x
  { s with pwr := { s.pwr with grants := s.pwr.grants.map g, revoked := s.pwr.revoked.map g } }

/-- A stage's grant: none needed or given, or the cursor waits for it (R294). -/
def stageGrant (l : Nat) (x : Cursor) (c : Cmd) (units us f : Nat) (s : State) : Bool × State :=
  if units = 0 ∨ x.granted then (true, s)
  else
    let s := requestGrant units us c.prio (some c.inst) true (some (f / 32)) (.stage x.slot x.pipe 999) s
    if s.pwr.waits.any fun g => g.holder = .stage x.slot x.pipe 999 then (false, holdCursor l x s) else (true, s)

/-- The item of a cursor fails before it starts (R297, R512). -/
def failStart (x : Cursor) (q : QueryRun) (s : State) : State :=
  let it : ItemRef := if x.kind = .finals then { slot := x.slot, pipe := x.pipe, idx := (q.pipe x.pipe).finMade, stage := finalStage }
    else { slot := x.slot, pipe := x.pipe, idx := (q.pipe x.pipe).made, stage := 0 }
  endIfFailed x.slot (recordFailure x.slot stExhausted (itemR0 s it ((stageIdx s it).headD 0)) s)

/-- The chunks of its group that an item reads, each by its place among the directory entries of its input (R62, R117). -/
def itemChunks (q : QueryRun) (pipe idx : Nat) : Option (InputRun × List Nat) :=
  match argsAt q.plan pipe 0, (q.plan.pipes[pipe]?).bind fun e => inputOf q e.source with
  | some (.scan 0 _ cols), some x => some (x, (scanChunks cols).map fun k => idx * x.ncol + k)
  | _, _ => none

/-- RESULT0 of an item that its SCAN fails. -/
def scanR0 (s : State) (slot pipe idx : Nat) : W64 := itemR0 s { slot := slot, pipe := pipe, idx := idx, stage := 0 } 0

/-- The reads of an item's chunks are made as it starts: those of a HOST input from the host, those of a STORE input from media
(R117, R408). -/
def askChunks (slot pipe idx : Nat) (c : Cmd) (q : QueryRun) (s : State) : State :=
  match itemChunks q pipe idx with
  | none => s
  | some (x, ks) =>
    if x.kind = 3 then
      let p := (s.sq c.inst c.sq).port
      forEach (fun (k : Nat) s => match c.segs[x.addr + k]? with
        | some (a, n) => if n = 0 then s else hostSend p (.read p c.inst a.toNat n.toNat) s
        | none => s) ks s
    else if x.kind = 2 then
      let es := (ks.map fun k => let e := x.dir.getD k (0, 0, 0); extsOf e.1 e.2.1).flatten.dedup
      readInput slot (some (scanR0 s slot pipe idx)) c x es s
    else s

/-- Chunks of an item are still on their way: extents from media, or host reads that wait for a port out of L0 (R117, R552;
log 166). -/
def chunksWait (s : State) (slot pipe idx : Nat) (c : Cmd) (q : QueryRun) : Bool :=
  match itemChunks q pipe idx with
  | none => false
  | some (x, _) =>
    (decide (x.kind = 2) && itemReads s slot (scanR0 s slot pipe idx)) ||
    (decide (x.kind = 3) && (let p := s.hostPort (s.sq c.inst c.sq).port; !p.up && !p.absent))

/-- Takes the cursor's next item and starts it on fronds, one for each stage. -/
def takeItem (l : Nat) (x : Cursor) (c : Cmd) (q : QueryRun) (fs : List Nat) (s : State) : State :=
  let fin := decide (x.kind = .finals)
  let idx := if fin then (q.pipe x.pipe).finMade else (q.pipe x.pipe).made
  let s := countWait (s.disp.lists.get ReadyList.free l).level c.inst x.since s
  let s := nameGrant x.slot x.pipe (fs.headD 0) s
  let s := turnCursor l x (cursorLeft q x - 1) s
  let s := modQuery x.slot (fun q =>
    if fin then q.modPipe x.pipe fun p => { p with finMade := p.finMade + 1 }
    else enterFlows x.pipe idx (q.modPipe x.pipe fun p => { p with made := p.made + 1 })) s
  let s := if !fin && (mergeSrc q.plan x.pipe).isSome then addCursor x.slot x.pipe .jobs 1 s else s
  let s := forEach (fun (fk : Nat × Nat) s =>
    startFrond fk.1 c q.plan { slot := x.slot, pipe := x.pipe, idx := idx, stage := if fin then finalStage else fk.2 } s)
    fs.zipIdx s
  if fin then s else askChunks x.slot x.pipe idx c q s

/-- Hands the next item of a chosen cursor to frond f, or assembles its chain. -/
def giveItem (l : Nat) (x : Cursor) (f : Nat) (s : State) : State :=
  match runnable s x.slot with
  | none => s
  | some (c, q) =>
    let e := (q.plan.pipes[x.pipe]?).getD { kind := 0, deps := 0, firstOp := 0, nops := 0, nstage := 1, breaker := 0, source := 0,
                                            npart := 0, work := 0, grantUnits := 0, grantUs := 0 }
    let n := match x.kind with | .items => (chainStages q.plan x.pipe).getD 1 | _ => 1
    let units := n * e.grantUnits
    let w := writeIncomplete x.slot c q s
    let s := w.2
    if w.1.isSome then
      endIfFailed x.slot (recordFailure x.slot stDenied ((w.1.map (outNoItem q.plan)).getD noItemR0) s)
    else if isStrict s ∧ strictPart s (some c.inst) < units then failStart x q s
    else if x.kind = .items ∧ (chainStages q.plan x.pipe).isSome then
      let most := ((List.range 16).map fun k => ((List.range' (8 * k) 8).filter fun g => s.disp.frondSet.get 0 g = c.inst + 1).length).foldl max 0
      if isStrict s ∧ most < n then failStart x q s
      else
        let held := (List.range 128).filter fun g => (s.frond g).reserved = some (x.slot, x.pipe)
        let free := (quadFree s x.slot x.pipe c.inst (f / 8)).filter fun g => !held.contains g
        let fs := held ++ free.take (n - held.length)
        let s := forEach (fun g s => s.setFrond g { s.frond g with reserved := some (x.slot, x.pipe) }) fs s
        if fs.length < n then s
        else
          let r := stageGrant l x c units e.grantUs f s
          if r.1 then takeItem l x c q fs r.2 else r.2
    else
      let r := stageGrant l x c units e.grantUs f s
      if r.1 then takeItem l x c q [f] r.2 else r.2

/-- A frond whose request is answered with no item is cleared, and idle (R186, steps 3 to 5). -/
def answerIdle (f : Nat) (s : State) : State :=
  let fr := s.frond f
  if fr.asking && fr.item.isNone then s.setFrond f { fr.clear with reserved := fr.reserved, asking := false } else s

/-- Frond f asks for its next item: the dispatcher chooses one (R186 step 2, R289, R293). -/
def dispatchFrond (f : Nat) (s : State) : State :=
  let fr := s.frond f
  if 128 ≤ f ∨ fr.item.isSome ∨ fr.halted ∨ !awake s ∨ s.pads.inReset then s
  else
    match chooseCursor 0 (frondChoices s f) s with
    | (none, s) => answerIdle f s
    | (some (l, x), s) => answerIdle f (giveItem l x f s)

/-! ## Merge jobs (R152, R275, R276) -/

/-- Key types of the SORT of a pipeline, with its STABLE flag and LIMIT. -/
def sortOf (p : Plan) (n : Nat) : Option (List (Ty × KeyEnt) × Bool × Nat × Nat) :=
  match lastArgs p n with
  | some (.sort keys stable _ limit) =>
    let env := (planEnvs p).getD n []
    some (typedKeys env keys, stable, limit, recordLen env keys stable)
  | _ => none

/-- The SORT pipeline whose runs a job merges. -/
def jobSort (q : QueryRun) (j : SmuJob) : Nat := if j.lastPass then (mergeSrc q.plan j.pipe).getD 0 else j.pipe

/-- RL of a job's records. -/
def jobRl (q : QueryRun) (j : SmuJob) : Nat := ((sortOf q.plan (jobSort q j)).map fun x => x.2.2.2).getD 0

/-- The runs that a job merges: the blocks of an item, the runs of its group, or all for a last pass. -/
def jobRuns (q : QueryRun) (j : SmuJob) : List SortRun :=
  let p := q.pipe (jobSort q j)
  match j.item with
  | some idx => ((p.passQ.find? fun e => e.item = idx).map (·.blocks)).getD []
  | none => if j.lastPass then p.runs else (p.runs.drop (64 * j.group)).take 64

/-- Record bytes that a job reads. -/
def jobBytes (q : QueryRun) (j : SmuJob) : Nat := jobRl q j * ((jobRuns q j).map (·.nrec)).sum

/-- A cursor's next job may go to unit u: it is in service, its domain is on, and it holds no job of the instance. -/
def smuEligible (s : State) (u : Nat) (x : Cursor) : Bool :=
  match runnable s x.slot with
  | none => false
  | some (c, q) =>
    (decide (x.kind = .jobs) || decide (x.kind = .passes)) && decide (0 < cursorLeft q x) && !(s.smu u).fault &&
    decide (domState s (smuDomain u) = 0) && (s.smu u).jobs.all fun j => decide (j.inst ≠ c.inst)

/-- A job with what its inputs give: their number, at most 64 at a time, and their record bytes. -/
def sizeJob (q : QueryRun) (j : SmuJob) : SmuJob := { j with nin := min 64 (jobRuns q j).length, bytes := jobBytes q j, merged := 0 }

/-- The next job of a cursor. -/
def nextJob (s : State) (x : Cursor) (c : Cmd) (q : QueryRun) : SmuJob :=
  let p := q.pipe x.pipe
  sizeJob q {
    slot := x.slot, pipe := x.pipe, inst := c.inst, group := p.finMade, nin := 0,
    lastPass := decide (x.kind = .jobs) && atMerge q x.pipe,
    item := if x.kind = .passes then (p.passQ[p.passMade]?).map (·.item) else none, since := s.time }

/-- A job of the cursor has been handed out. -/
def countJob (x : Cursor) (p : PipeRun) : PipeRun :=
  if x.kind = .passes then { p with passMade := p.passMade + 1 } else { p with finMade := p.finMade + 1 }

/-- A job joins a unit, whose tree has come some way by then, and asks for 8 units for the time of its records (R276, R280). -/
def joinUnit (u : Nat) (j : SmuJob) (prio : Nat) (s : State) : State :=
  let s := advanceSmu u s
  let s := s.setSmu u { s.smu u with jobs := (s.smu u).jobs ++ [j] }
  requestGrant 8 (max 10 ((j.bytes + 199999) / 200000)) prio (some j.inst) true none (.smu u j.slot) s

/-- The unit that takes a job when unit u can: of several that are free, the lowest-numbered (R276). -/
def freeUnit (s : State) (u : Nat) : Nat :=
  if (s.smu u).jobs.isEmpty then
    ((List.range 8).find? fun v => (s.smu v).jobs.isEmpty && !(s.smu v).fault).getD u
  else u

/-- Unit u can take work: the next job goes to it, or to a free unit before it (R276). -/
def dispatchSmu (u : Nat) (s : State) : State :=
  if 8 ≤ u ∨ !awake s ∨ s.pads.inReset then s
  else
    let u := freeUnit s u
    match chooseCursor 1 (candidates s 1 (smuEligible s u)) s with
    | (none, s) => s
    | (some (l, x), s) =>
      match runnable s x.slot with
      | none => s
      | some (c, q) =>
        let s := countWait (s.disp.lists.get ReadyList.free l).level c.inst x.since s
        let s := turnCursor l x (cursorLeft q x - 1) s
        joinUnit u (nextJob s x c q) c.prio (modPipe x.slot x.pipe (countJob x) s)

/-! ## Exchange sends (R143, R563) -/

/-- Segments of a chunk: offset, bytes, last. -/
def segmentsOf : Nat → Nat → List Byte → List (Nat × List Byte × Bool)
  | 0, _, _ => []
  | fuel + 1, off, b =>
    let rest := b.drop 16328
    (off, b.take 16328, rest.isEmpty) :: (if rest.isEmpty then [] else segmentsOf fuel (off + 16328) rest)

/-- Payload of an XDATA frame. -/
def xdataPayload (part pipe col cseq off len : Nat) (first last : Bool) (d : List Byte) : List Byte :=
  leBytes part 2 ++ leBytes pipe 1 ++ leBytes col 1 ++ leBytes ((if first then 1 else 0) + (if last then 2 else 0)) 1 ++
  zeros 3 ++ leBytes cseq 4 ++ leBytes off 4 ++ leBytes len 4 ++ zeros 4 ++ d

/-- Route of a destination. -/
def destRoute (s : State) (d : Nat) : W32 × Nat :=
  if d = destManager then (s.lnk.mgrRoute, s.lnk.mgrHops) else s.lnk.peers.getD d (0, 0)

/-- Sends the chunks of one batch to a destination, column by column, in consecutive CSEQ. Chunks are written PLAIN
(log 77). -/
def sendBatch (c : Cmd) (xid : W64) (pipe : Nat) (tys : List Ty) (d part cseq : Nat) (rows : List (List Val)) (s : State) : State :=
  let r := destRoute s d
  forEach (fun (t : Ty × Nat) s =>
    let b := plainChunk t.1 (rows.map fun row => row.getD t.2 .null)
    forEach (fun (g : Nat × List Byte × Bool) s =>
      sendFrame ftXdata r.2 r.1 c.inst xid c.prio
        (xdataPayload part pipe t.2 (cseq + t.2) g.1 b.length (decide (g.1 = 0)) g.2.2 g.2.1) s)
      (segmentsOf (b.length / 16328 + 1) 0 b) s) tys.zipIdx s

/-- Chunk bytes of a batch. -/
def batchSize (tys : List Ty) (rows : List (List Val)) : Nat :=
  (tys.zipIdx.map fun t => (plainChunk t.1 (rows.map fun row => row.getD t.2 .null)).length).sum

/-- A cursor has rows to send. -/
def sendEligible (s : State) (x : Cursor) : Bool :=
  match runnable s x.slot with
  | none => false
  | some (_, q) => decide (x.kind = .sends) && decide (0 < cursorLeft q x)

/-- Types of the columns that an EXCHANGE sends. -/
def sentTypes (p : Plan) (n : Nat) : List Ty := gatherTypes p n

/-- In STRICT, the position of the frame of 256 that the exchange is at belongs to one instance by STRICT weight, and stays idle
when that has nothing to send (R297, R565; log 150). The answer is who may send, none for any. -/
def sendOwner (s : State) : Option (Option Nat) :=
  if isStrict s then some (quantumOwner (strictWs s) 256 (s.disp.turn.get 0 3 % 256)) else none

/-- The next position of the frame. -/
def nextPosition (s : State) : State :=
  if isStrict s then { s with disp := { s.disp with turn := s.disp.turn.set 0 3 ((s.disp.turn.get 0 3 + 1) % 256) } } else s

/-- The cursors that may send now. -/
def sendChoices (s : State) : List Choice :=
  (candidates s 3 (sendEligible s)).filter fun x => match sendOwner s with
    | none => true
    | some o => decide (o = some x.2.1.inst)

/-- The exchange sends the next batch of an outbox; its bytes count as its busy time (log 150). -/
def dispatchSend (s : State) : State :=
  if !awake s ∨ s.pads.inReset then s
  else
    match chooseCursor 3 (sendChoices s) (nextPosition s) with
    | (none, s) => s
    | (some (l, x), s) =>
      match runnable s x.slot with
      | none => s
      | some (c, q) =>
        match (q.pipe x.pipe).outbox with
        | [] => s
        | (d, part, rows) :: t =>
          let key := 4096 * d + part
          let tys := sentTypes q.plan x.pipe
          let n := (q.pipe x.pipe).cseq.get 0 key
          let s := countWait (s.disp.lists.get ReadyList.free l).level c.inst x.since s
          let s := turnCursor l x t.length s
          let s := modPipe x.slot x.pipe (fun p => { p with outbox := t, cseq := p.cseq.set 0 key (n + tys.length) }) s
          let s := chargeWork 3 c.inst (batchSize tys rows) (sendBatch c (BitVec.ofNat 64 q.xid) x.pipe tys d part n rows s)
          settle x.slot (exchangeEnd x.slot x.pipe (itemsOver q x.pipe) s)

/-- ITEM_DISPATCH: a frond, an SMU, a DGU or the exchange can take work; class 0 to 3 and the unit. -/
def execItemDispatch (cls unit : Nat) (s : State) : Host.Outcome State Fault Refusal :=
  match cls with
  | 0 => .next (dispatchFrond unit s)
  | 1 => .next (dispatchSmu unit s)
  | 2 => execDigContextOpen unit none s
  | 3 => .next (dispatchSend s)
  | _ => .next s

/-- AFF_WAIT_EXPIRY: the item at the front of a cursor has waited AFF_WAIT for its home die. -/
def execAffWaitExpiry (slot pipe : Nat) (s : State) : Host.Outcome State Fault Refusal :=
  .next { s with disp := { s.disp with lists := s.disp.lists.map fun e =>
    (e.1, { e.2 with cursors := e.2.cursors.map fun x =>
      if x.slot = slot ∧ x.pipe = pipe ∧ x.kind ≠ .jobs ∧ x.kind ≠ .sends ∧ x.since + affWait s ≤ s.time then
        { x with affOver := true } else x }) } }

/-! ## The end of an item (R65, R76, R150, R173, R186) -/

/-- Item status of a cause that the runtime does not resolve (R173); none for a trap, whose service gives it. -/
def causeStatus (code : Nat) : Option Nat :=
  if code = 5 ∨ code = 6 ∨ code = 7 ∨ code = 8 then some stDenied
  else if code = 9 then some stPoisoned
  else if code = 0xA then some stHost
  else if code = 0x11 then some stExhausted
  else if code = 1 ∨ code = 2 ∨ code = 3 ∨ code = 4 ∨ code = 0xB then some stInternal
  else none

/-- The exception with which a frond stands in its handler. -/
def pendingCause (fr : Frond) : Option Nat := if fr.exl then causeStatus (field fr.cause 7 0) else none

/-- A frond stands in its handler with a trap. -/
def trapped (fr : Frond) : Bool := fr.exl && decide (field fr.cause 7 0 = 0xC)

/-- What the runtime's service of a trap can give an item that it does not resolve (R76, R173); which it is, is open (log 24). -/
def trapResults : List Nat :=
  [stDenied, stHost, stRange, stIntegrity, stPoisoned, stFormat, stArith, stMedia, stExhausted, stInternal, stEngine]

/-- A frond of an item that stands in its handler: the operator at which the item fails, and the status. A trap of an operator gives
one of the statuses that it can fail with (R151). -/
def unresolved (s : State) (fs : List Nat) : Option (Nat × Nat) × State :=
  match fs.find? fun g => (pendingCause (s.frond g)).isSome || trapped (s.frond g) with
  | none => (none, s)
  | some g =>
    match pendingCause (s.frond g) with
    | some st =>
      let r := failOp g st s
      (some (r.1, st), r.2)
    | none =>
      let r := failOp g stInternal s
      let args := ((s.frond g).item.bind fun it => (stageOpsAt s it).find? fun o => o.2 = r.1).map fun o => o.1.args
      let st := r.2.choose (trapResults.filter fun st => args.all fun a => opAdmits a st)
      (some (r.1, st.1.getD stInternal), st.2)

/-- The fronds of an item's chain. -/
def chainFronds (s : State) (it : ItemRef) : List Nat :=
  (List.range 128).filter fun f => (s.frond f).item.any fun x =>
    decide (x.slot = it.slot) && decide (x.pipe = it.pipe) && decide (x.idx = it.idx) &&
    decide ((x.stage = finalStage) = (it.stage = finalStage))

/-- The fronds of an ended item are free; FROND_CYCLES and the deficit of the instance count their time (R289), and grants end.
Their state stays until the next item is known. -/
def freeFronds (it : ItemRef) (i : Nat) (fs : List Nat) (s : State) : State :=
  forEach (fun f s =>
    let s := dropAsks f (addCounter i 4 (s.frond f).cyc.toNat (settleTags f s))
    let s := chargeWork 0 i (s.time - (s.frond f).since) s
    let s := s.setFrond f { s.frond f with
      item := none, stopping := none, stopReq := false, budgetReq := false, reserved := none }
    endHolder (.stage it.slot it.pipe f) s) fs s

/-- The chain that is being assembled in a quadrant. -/
def assembling (s : State) (k : Nat) : Option (Nat × Nat) :=
  (List.range' (8 * k) 8).findSome? fun g => if (s.frond g).item.isNone then (s.frond g).reserved else none

/-- The items cursor of a pipeline and its list. -/
def itemsCursor (s : State) (slot pipe : Nat) : Option (Nat × Cursor) :=
  s.disp.lists.findSome? fun e =>
    (e.2.cursors.find? fun x => decide (x.slot = slot) && decide (x.pipe = pipe) && decide (x.kind = .items)).map fun x => (e.1, x)

/-- A frond that has ended its item is reserved for the chain that is being assembled in its quadrant; the chain's item starts
with the last frond that it needs (R292). -/
def joinChain (f : Nat) (s : State) : State :=
  match assembling s (f / 8) with
  | none => s
  | some (slot, pipe) =>
    match s.cmd slot, itemsCursor s slot pipe with
    | some c, some (l, x) =>
      if !frondTakes s slot pipe c.inst f then s
      else
        let s := s.setFrond f { s.frond f with reserved := some (slot, pipe) }
        if (s.disp.lists.get ReadyList.free l).cursors.any (fun y => y.grantWait) ∨ !frondEligible s f x then s
        else giveItem l x f s
    | _, _ => s

/-- The next item is requested for each frond; one that gets none is cleared and idle (R186). -/
def nextItems (fs : List Nat) (s : State) : State :=
  forEach (fun f s =>
    let s := if (s.frond f).item.isSome then s else joinChain f s
    let s := if (s.frond f).item.isSome ∨ (s.frond f).reserved.isSome then s else dispatchFrond f s
    if (s.frond f).item.isSome then s
    else
      let keep := (s.frond f).reserved
      s.setFrond f { (s.frond f).clear with reserved := keep }) fs s

/-- Outboxes that have rows to send get a cursor. -/
def needSends (slot : Nat) (s : State) : State :=
  match (s.cmd slot).bind queryRun with
  | none => s
  | some q =>
    let has := fun (n : Nat) => s.disp.lists.any fun e => e.2.cursors.any fun x =>
      decide (x.slot = slot) && decide (x.pipe = n) && decide (x.kind = .sends)
    forEach (fun n s => if (q.pipe n).outbox.isEmpty || has n then s else addCursor slot n .sends 3 s)
      (List.range q.plan.pipes.length) s

/-- An item has ended well: its pipeline goes on, and with the last one the finalising step begins. -/
def itemEnded (it : ItemRef) (s : State) : State :=
  if it.stage = finalStage then modPipe it.slot it.pipe (fun p => { p with finEnded := p.finEnded + 1 }) s
  else
    let s := modQuery it.slot (fun q => leaveFlows it.pipe it.idx (q.modPipe it.pipe fun p => { p with ended := p.ended + 1 })) s
    let s := needSends it.slot s
    let finished := ((s.cmd it.slot).bind queryRun).any fun q => itemsOver q it.pipe
    settle it.slot (if finished then itemsDone it.slot it.pipe s else s)

/-- An item fails with a status at an operator; its fronds end their work. -/
def itemFails (it : ItemRef) (op st : Nat) (s : State) : State := recordFailure it.slot st (itemR0 s it op) s

/-- The MERGE of a pipeline may end: its last pass has run, or there was nothing to merge. -/
def mergeReady (q : QueryRun) (n : Nat) : Bool := (mergeSrc q.plan n).isNone || decide (0 < (q.pipe n).finEnded)

/-- Power × time that an instance has been charged stands, whatever becomes of the work (R524). -/
def keepEnergy (t : State) (e : Nat × Inst) : Nat × Inst :=
  (e.1, { e.2 with counters := e.2.counters.set 0 5 ((t.inst e.1).counters.get 0 5) })

/-- An item that cannot end yet leaves behind its request for a grant, and what its searches have used and found; its operators run
again when it goes on. -/
def keepWait (it : ItemRef) (q : QueryRun) (s t : State) : State :=
  modQuery it.slot (fun x => { x with bursts := q.bursts }) { s with
    pwr := t.pwr, seed := t.seed, eng := t.eng, insts := s.insts.map (keepEnergy t),
    disp := { s.disp with timers := t.disp.timers, winEng := t.disp.winEng, winEngOwn := t.disp.winEngOwn } }

/-- The command and query of an item that has been taken: it runs to its end, whatever holds the cursors (R306). -/
def takenQuery (s : State) (slot : Nat) : Option (Cmd × QueryRun) :=
  match s.cmd slot with
  | none => none
  | some c => if c.outcome.isNone && c.failure.isNone then (queryRun c).map fun q => (c, q) else none

/-- The item as its operators see it; while the command's host port is absent it delivers nothing (R552). -/
def itemOf (s : State) (it : ItemRef) (c : Cmd) (f : Nat) (host : List (Option (List Byte))) : Item :=
  { slot := it.slot, pipe := it.pipe, idx := it.idx, c := c, die := f / 32,
    host := host.map (hostGave s (s.sq c.inst c.sq).port) }

/-- An item of some fronds fails at an operator: they end it and ask for the next one (R76, R186). -/
def endFailed (it : ItemRef) (i op st : Nat) (fs : List Nat) (s : State) : State :=
  nextItems fs (endIfFailed it.slot (freeFronds it i fs (itemFails it op st s)))

/-- An item of some fronds ends well. -/
def endWell (it : ItemRef) (i : Nat) (fs : List Nat) (s : State) : State := nextItems fs (itemEnded it (freeFronds it i fs s))

/-- What running an item has given: it fails, it waits, it ends, or, where an SMU has still to merge its blocks, it stays on its
frond and its item passes join the instance's SMU list (R273, R285). -/
def itemOutcome (it : ItemRef) (c : Cmd) (fs : List Nat) (s : State) (r : Except (Nat × Nat) Unit × QueryRun × State) : State :=
  match r with
  | (.error e, q, t) => if e.2 = stWaits then keepWait it q s t else endFailed it c.inst e.1 e.2 fs t
  | (.ok _, q, t) =>
    let t := modQuery it.slot (fun _ => q) t
    if (q.pipe it.pipe).passQ.any fun e => decide (e.item = it.idx) && it.stage ≠ finalStage then
      if hasCursor t it.slot it.pipe .passes then t else addCursor it.slot it.pipe .passes 1 t
    else endWell it c.inst fs t

/-- The operators of an item can run: its chunks are there, and the last pass of a MERGE has run. -/
def mayRun (s : State) (it : ItemRef) (c : Cmd) (q : QueryRun) : Bool :=
  !chunksWait s it.slot it.pipe it.idx c q && mergeReady q it.pipe

/-- The stages of an item have all run: its last stage asks for its end, no batch stands in a queue, nothing is parked or waits for
a merge or a host port. -/
def mayEnd (s : State) (it : ItemRef) (c : Cmd) (q : QueryRun) (fs : List Nat) : Bool :=
  !fs.any (fun g => (s.frond g).tags.any fun t => putWaits s g t.2) &&
  (decide (it.stage = finalStage) ||
   (mayRun s it c q && decide (it.stage + 1 = (chainStages q.plan it.pipe).getD 1) &&
    !fs.any (fun g => decide (0 < batchesOut (s.frond g))) && !parkedItem q it.pipe (pipeOps q.plan it.pipe).length it.idx))

/-- An item has reached an operator whose flow has another item in service: the operators before it have run, in parallel with that
item, and it parks there (R298). -/
def reachFlow (x : Item) (fs : List Nat) (q : QueryRun) (s : State) : State :=
  let it : ItemRef := { slot := x.slot, pipe := x.pipe, idx := x.idx, stage := 0 }
  match parkedAt q x.pipe x.idx with
  | none => s
  | some k =>
    match runUpto x k q s with
    | (.error e, q, t) => if e.2 = stWaits then keepWait it q s t else endFailed it x.c.inst e.1 e.2 fs t
    | (.ok bs, q, t) => modQuery x.slot (fun _ => keepPart x k bs q) t

/-- ITEM_END: the item of frond f ends, in a chain with its last stage. What its operators compute comes about here;
`host` is what the host delivered for the chunks of a HOST input. -/
def execItemEnd (f : Fin 128) (host : List (Option (List Byte))) (s : State) : Host.Outcome State Fault Refusal :=
  let fr := s.frond f.val
  match fr.item with
  | none => .next s
  | some it =>
    if (s.cmd it.slot).isNone then .next (reportEnded f.val (settleTags f.val s))
    else if fr.stopping.isSome then .next (nextItems [f.val] (reportEnded f.val (settleTags f.val s)))
    else
      match takenQuery s it.slot with
      | none => .next s
      | some (c, q) =>
        let fs := chainFronds s it
        let x := itemOf s it c f.val host
        match unresolved s fs with
        | (some (k, st), s) => .next (endFailed it c.inst k st fs s)
        | (none, _) =>
          if it.stage ≠ finalStage ∧ mayRun s it c q ∧ (parkedAt q it.pipe it.idx).isSome then .next (reachFlow x fs q s)
          else if !mayEnd s it c q fs then .next s
          else if it.stage = finalStage then
            match finalItem x q s with
            | (.error e, q, t) => .next (itemOutcome it c fs s (.error ((pipeOps q.plan it.pipe).length - 1, e), q, t))
            | (.ok _, q, t) => .next (itemOutcome it c fs s (.ok (), q, t))
          else
            match (q.pipe it.pipe).passQ.find? fun e => e.item = it.idx with
            | some e => .next (if e.done then endWell it c.inst fs s else s)
            | none => .next (itemOutcome it c fs s (runItem x q s))

/-! ## Breakers and flows (R63, R67, R125, R143, R298) -/

/-- An EXCHANGE has run on this module: its items have ended, its end marks are out, and every frame is acknowledged (R143). -/
def exchangeRun (s : State) (xid n : Nat) (q : QueryRun) : Bool := itemsOver q n && (q.pipe n).endSent && !framesLeft s xid n

/-- The finalising step of a breaker has ended. An EXCHANGE of a fan-out's worker part finishes at the barrier edge, but for the
GATHER of a module with workers, which finishes once END has come from each of them; one of the manager part takes part in no
barrier (R571, R575; log 73). -/
def breakerReady (s : State) (slot n : Nat) (q : QueryRun) : Bool :=
  let p := q.pipe n
  match breakerOf q.plan n with
  | 1 => itemsOver q n && decide (p.finEnded = finalCount q.plan n)
  | 2 => itemsOver q n && decide (p.runs.length ≤ 64)
  | 3 => itemsOver q n
  | 4 =>
    match fanOf s slot with
    | none => exchangeRun s 0 n q
    | some f =>
      let partial_ := s.lnk.reasm.any fun r => decide (r.xid = f.xid) && decide (r.xpipe = n) && r.open_
      if gatherOf q.plan = some n ∧ roleOf s slot ≠ .leaf then (f.top || itemsOver q n) && workersEnded s f n && !partial_
      else if (gatherOf q.plan).any (fun g => decide (g < n)) then exchangeRun s f.xid.toNat n q
      else p.edge
  | _ => false

/-- BREAKER_FINISH: dependent pipelines become ready. -/
def execBreakerFinish (slot pipe : Nat) (s : State) : Host.Outcome State Fault Refusal :=
  match liveQuery s slot with
  | none => .next s
  | some (_, q) =>
    if (q.pipe pipe).finished ∨ !breakerReady s slot pipe q then .next s
    else .next (settle slot (modPipe slot pipe (fun p => { p with finished := true }) s))

/-- The item in service of a flow. -/
def inService (q : QueryRun) (pipe op flow : Nat) : Option Nat :=
  (q.flowQ.find? fun e => decide (e.1 = pipe) && decide (e.2.1 = op) && decide (e.2.2.1 = flow)).bind fun e => e.2.2.2.head?

/-- FLOW_SERVICE_END: the item in service of a flow leaves its operator, and the parked next one resumes. Its operators up to that
one have run by then. -/
def execFlowServiceEnd (slot pipe op : Nat) (flow : FlowLeave) (s : State) : Host.Outcome State Fault Refusal :=
  match takenQuery s slot with
  | none => .next s
  | some (c, q) =>
    match inService q pipe op flow.flow with
    | none => .next s
    | some idx =>
      let it : ItemRef := { slot := slot, pipe := pipe, idx := idx, stage := 0 }
      let fs := chainFronds s it
      match fs with
      | [] => .next s
      | f :: _ =>
        if parkedItem q pipe op idx ∨ !mayRun s it c q ∨ fs.any (fun g => (s.frond g).stopping.isSome || (s.frond g).exl) then .next s
        else
          let x := itemOf s it c f flow.host
          match runUpto x (op + 1) q s with
          | (.error e, q, t) => .next (if e.2 = stWaits then keepWait it q s t else endFailed it c.inst e.1 e.2 fs t)
          | (.ok bs, q, t) => .next (needSends slot (modQuery slot (fun _ => leaveUpto pipe op idx (keepPart x (op + 1) bs q)) t))

/-- HANDOFF_BATCH_TAKEN: the next stage takes the oldest batch of a stage's queue; both may be waiting. -/
def execHandoffBatchTaken (slot pipe item stage : Nat) (s : State) : Host.Outcome State Fault Refusal :=
  let on := fun (k f : Nat) => decide ((s.frond f).item = some { slot := slot, pipe := pipe, idx := item, stage := k })
  match (List.range 128).find? (on stage), (List.range 128).find? (on (stage + 1)) with
  | some f, some g =>
    if batchesOut (s.frond f) = 0 then .next s
    else
      let s := s.setFrond f { s.frond f with hoOut := (s.frond f).hoOut.eraseP fun x => x.1 = 0, event := true }
      .next (s.setFrond g { s.frond g with event := true })
  | _, _ => .next s

end Sys2Proof.Machine
end

