-- ==== Sys2Proof/Machine/Smu.lean ====
section
/-!
DEFINITION. Sort and merge units at work (R275 to R284), and faults of engines and fabric links (R20, R282, R323).
-/

namespace Sys2Proof.Machine

/-! ## The merge tree (R280) -/

/-- The job that ends next on a unit, and the unit as it then stands: in STRICT the job in the tree, otherwise the first that the
round robin brings to its end. -/
def endingJob (u : Nat) (s : State) : Option (SmuJob × State) :=
  let x := s.smu u
  if x.strict then (treeJob s u).map fun j => (j, s.setSmu u { x with jobs := x.jobs.erase j })
  else
    (runTree (mayMerge s u) (jobShare s) (blocksLeft x.jobs) (treeAt x)).map fun r => (r.1, putTree u [r.1] r.2 s)

/-! ## Merge jobs (R272 to R278, R282) -/

/-- RESULT0 of a query that fails through a job: the SORT at the end of the job's pipeline, with the item of an item pass, or the
MERGE at its start. -/
def jobR0 (q : QueryRun) (j : SmuJob) : W64 :=
  let op := if j.lastPass then 0 else (pipeOps q.plan j.pipe).length - 1
  let item := match j.item with | some idx => q.itemNo j.pipe idx | none => 0xFFFFFFFF
  BitVec.ofNat 64 (2 ^ 56 * j.pipe + 2 ^ 48 * (op % 256) + item % 2 ^ 32)

/-- The merge of a job: its inputs are read and checked, merged, and cut to LIMIT with the tie group (R278); the output stands in
new pages and the inputs are released. A last pass feeds its records to the MERGE instead. The answer is the SORT's pipeline, the
runs, of which an item pass may leave several, and the rows in merge order. -/
def mergeJob (u : Nat) (j : SmuJob) (q : QueryRun) (s : State) : Except Nat (PipeRun × List SortRun × List Nat) × State :=
  let n := jobSort q j
  match sortOf q.plan n with
  | none => (.error stInternal, s)
  | some (keys, _, limit, rl) =>
    let p := q.pipe n
    let runs := jobRuns q j
    match readRuns j.inst rl p runs s with
    | (.error e, s) => (.error e, s)
    | (.ok l, s) =>
      let outs := mergePass keys p.rows limit l
      if j.lastPass then
        let r := freeRuns j.slot j.inst runs p s
        (.ok (r.1, [], outs.flatten.map (·.2)), r.2)
      else
        match writeRuns j.slot j.inst (smuDie u) rl n outs p s with
        | (.error e, s) => (.error e, s)
        | (.ok (r, p), s) =>
          let f := freeRuns j.slot j.inst runs p s
          (.ok (f.1, r, []), f.2)

/-- An item pass has left some runs: one is the item's run; of more, the unit merges the next pass, under a grant of its own (R152,
R273). -/
def passDone (u : Nat) (j : SmuJob) (idx : Nat) (q : QueryRun) (p : PipeRun) (rs : List SortRun) (s : State) : State :=
  let last := decide (rs.length ≤ 1)
  let p := { p with passQ := p.passQ.map fun e => if e.item = idx then { e with blocks := rs, done := last } else e }
  let p := if last then placeRun q j.pipe idx (rs.headD .none) p else p
  let s := modPipe j.slot j.pipe (fun _ => p) s
  if last then s
  else joinUnit u (sizeJob (q.modPipe j.pipe fun _ => p) { j with since := s.time }) (((s.cmd j.slot).map (·.prio)).getD 0) s

/-- What a job that has ended leaves: the rows that MERGE emits, the runs of an item pass, or the run of its group; after the last
job of a pass the next pass may start (R275). -/
def jobDone (u : Nat) (j : SmuJob) (q : QueryRun) (p : PipeRun) (rs : List SortRun) (rows : List Nat) (s : State) : State :=
  let n := jobSort q j
  if j.lastPass then
    modPipe j.slot j.pipe (fun m => { m with merged := rows, finEnded := m.finEnded + 1 })
      (modPipe j.slot n (fun _ => { p with runs := [] }) s)
  else
    match j.item with
    | some idx => passDone u j idx q p rs s
    | none =>
      let p := { p with nextRuns := p.nextRuns.set j.group (rs.headD .none), finEnded := p.finEnded + 1 }
      if p.finEnded < passJobs p.runs.length then modPipe j.slot n (fun _ => p) s
      else startPass j.slot n (modPipe j.slot n (fun _ => { p with runs := p.nextRuns, nextRuns := [] }) s)

/-- A job fails with a status, and with it its command; a run header that is not in order is logged (R272, R282). -/
def jobFails (u : Nat) (j : SmuJob) (q : QueryRun) (st : Nat) (s : State) : State :=
  let s := if st = stInternal then logEvent 0x0406 (0x28 + u) j.inst 0 none s else s
  endIfFailed j.slot (recordFailure j.slot st (jobR0 q j) s)

/-- The unit goes on to the next job; another instance's counts a switch (R280, R284). The instance is charged for the time since it
was given the job (R289). -/
def nextInTree (u : Nat) (j : SmuJob) (s : State) : State :=
  let x := s.smu u
  let other := (treeJob s u).any fun k => decide (k.inst ≠ j.inst)
  let s := s.setSmu u { x with switches := if other then x.switches + 1 else x.switches }
  chargeWork 1 j.inst (s.time - j.since) s

/-- SMU_JOB_END: a merge job or item pass of unit u writes its last record. One for whose output no frame is free yet goes on. -/
def execSmuJobEnd (unit : Nat) (s : State) : Host.Outcome State Fault Refusal :=
  let x := s.smu unit
  if 8 ≤ unit ∨ x.fault ∨ x.paused then .next s
  else
    match endingJob unit s with
    | none => .next s
    | some (j, t) =>
      let t := endHolder (.smu unit j.slot) (nextInTree unit j t)
      match liveQuery t j.slot with
      | none => .next t
      | some (_, q) =>
        match mergeJob unit j q t with
        | (.error e, t) => if e = stWaits then .next s else .next (jobFails unit j q e t)
        | (.ok (p, rs, rows), t) => .next (jobDone unit j q p rs rows (countSmu unit j.inst (j.bytes - j.merged) 1 t))

/-- SMU_QUANTUM_EXPIRY: the unit enters the schedule of the profile in force; in STRICT the next quantum of the frame begins; a job of another instance in the tree counts a switch. -/
def execSmuQuantumExpiry (unit : Nat) (s : State) : Host.Outcome State Fault Refusal :=
  let s := enterSmu unit s
  let x := s.smu unit
  if 8 ≤ unit ∨ !x.strict then .next s
  else
    let t := s.setSmu unit { x with quantum := (x.quantum + 1) % smuFrame s }
    let other := (treeJob t unit).any fun j => decide (some j.inst ≠ (treeJob s unit).map (·.inst))
    .next (t.setSmu unit { t.smu unit with switches := if other then x.switches + 1 else x.switches })

/-! ## Faults of units and links -/

/-- The update runs of a CMU out of service: commands fail, a mailbox command ends (R251, R265; log 55). -/
def cmuFault (u : Nat) (s : State) : State :=
  let x := s.cmu u
  let s := s.setCmu u { x with fault := true, upd := [], busy := none }
  forEach (fun (r : UpdRun) s =>
    match r.slot, r.mbx with
    | some k, _ => failCmd k stEngine s
    | none, some fn => mbxErr fn meState s
    | none, none => s) x.upd s

/-- The jobs of an SMU out of service fail, and with them their commands (R282). -/
def smuFault (u : Nat) (s : State) : State :=
  let x := s.smu u
  let s := s.setSmu u { x with fault := true, jobs := [] }
  forEach (fun (j : SmuJob) s =>
    let s := endHolder (.smu u j.slot) s
    match (s.cmd j.slot).bind queryRun with
    | some q => endIfFailed j.slot (recordFailure j.slot stEngine (jobR0 q j) s)
    | none => s) x.jobs s

/-- The open requests of fronds that wait on a ready list fail with their items. -/
def failAsks (s : State) : State :=
  let fs := (s.disp.lists.map fun e => (e.2.cursors.filter fun x => x.kind = .digFrond).map (·.pipe)).flatten
  forEach (fun f s => failItem f stEngine (dropAsks f s)) fs s

/-- A DGU out of service clears its contexts; when none is left, the open requests that wait fail (R323, R330). -/
def dguFault (u : Nat) (s : State) : State :=
  let s := alarmCtxs u s
  let s := s.setDgu u { s.dgu u with fault := true, lanes := [], waiting := [] }
  if (List.range 4).all fun v => (s.dgu v).fault then
    failAsks (forEach (fun (k : Nat) s => failDigest k stEngine 0 (dropCursor k 0 .digOpen s)) s.eng.digOpens
      { s with eng := { s.eng with digOpens := [] } })
  else s

/-- ENGINE_UNIT_FAULT: kind 0 is a CMU, 1 an SMU, 2 a DGU (R477). -/
def execEngineUnitFault (kind unit : Nat) (s : State) : Host.Outcome State Fault Refusal :=
  let n := if kind = 1 then 8 else 4
  let src := if kind = 0 then 0x20 else if kind = 1 then 0x28 else 0x30
  let old := if kind = 0 then (s.cmu unit).fault else if kind = 1 then (s.smu unit).fault else (s.dgu unit).fault
  if 2 < kind ∨ n ≤ unit ∨ old then .next s
  else
    let s := logEvent 0x0407 (src + unit) 0 0 none s
    .next (if kind = 0 then cmuFault unit s else if kind = 1 then smuFault unit s else dguFault unit s)

/-! ## The module fabric (R18 to R20) -/

/-- Links between a frond die and the hub die: the two of die d are 2 d and 2 d + 1. The spec numbers no link (log 79). -/
def hubLinks (d : Nat) : List Nat := [2 * d, 2 * d + 1]

/-- The link between two frond dies: 8 to 13, in the order (0,1), (0,2), (0,3), (1,2), (1,3), (2,3) (log 79). -/
def pairLink (a b : Nat) : Nat :=
  let lo := min a b
  let hi := max a b
  8 + (if lo = 0 then hi - 1 else if lo = 1 then hi + 1 else 5)

/-- The links by which a request goes from a die, or the hub die, to the die that owns a channel: one of those named. None are
crossed on the own die (R19). -/
def fabricPath (src : Option Nat) (d : Nat) : List Nat :=
  match src with
  | none => hubLinks d
  | some a => if a = d then [] else [pairLink a d]

/-- The paths of a stream request: to the channels of its pages, to the hub for the host, to the unit of an engine handle. -/
def tagPaths (f : Nat) (t : StreamTag) : List (List Nat) :=
  if t.st ≠ .pending then []
  else if t.space = 0 then t.xl.filterMap fun e => match e.2 with
    | .phys a => some (fabricPath (some (f / 32)) (dieOfFrame (frameAt a)))
    | _ => none
  else if t.space = 1 then [hubLinks (f / 32)]
  else match Config.enginePort t.remote with
    | some (u, _, _) => [fabricPath (some (f / 32)) (u % 4)]
    | none => []

/-- The paths of a merge job: to the channels of its inputs, and to the die that its output is taken from (R266). -/
def jobPaths (s : State) (u : Nat) (j : SmuJob) (q : QueryRun) : List (List Nat) :=
  if !jobGranted u j s then []
  else
    let reads := ((jobRuns q j).map fun r => ((q.pipe (jobSort q j)).area .run r.area).pages).flatten.filterMap fun p =>
      dieOfDev s j.inst (p * pageSize)
    let writes := if j.lastPass then [] else ((frameFor s j.inst (smuDie u)).map fun f => dieOfFrame f.1).toList
    (reads ++ writes).map (fabricPath (some (smuDie u)))

/-- One of some requests goes by a link; of two links to the hub a request takes either (log 79). -/
def goesBy (link : Nat) : List (List Nat) → State → Bool × State
  | [], s => (false, s)
  | p :: t, s =>
    if p = [link] then (true, s)
    else if p.contains link then
      let r := s.freshNat
      if r.1 % p.length = 0 then (true, r.2) else goesBy link t r.2
    else goesBy link t s

/-- The item of a frond with a request on the link fails. -/
def linkFrond (link f : Nat) (s : State) : State :=
  let fr := s.frond f
  if fr.item.isNone then s
  else
    let r := goesBy link ((fr.tags.map fun t => tagPaths f t.2).flatten) s
    if r.1 then failItem f stEngine r.2 else r.2

/-- The commands of a unit's jobs with a request on the link fail. -/
def linkSmu (link u : Nat) (s : State) : State :=
  forEach (fun (j : SmuJob) s =>
    match (s.cmd j.slot).bind queryRun with
    | none => s
    | some q =>
      let r := goesBy link (jobPaths s u j q) s
      if r.1 then endIfFailed j.slot (recordFailure j.slot stEngine (jobR0 q j) r.2) else r.2) (s.smu u).jobs s

/-- A digest command that is being fed from the hub fails when its unit's die is reached by the link. -/
def linkDgu (link u : Nat) (s : State) : State :=
  forCtxs (fun x => decide (x.st = .active) && x.slot.isSome && !x.last) (fun u k s =>
    match (s.ctx u k).slot with
    | none => s
    | some slot =>
      let r := goesBy link [hubLinks u] s
      if r.1 then failDigest slot stEngine 0 r.2 else r.2) u s

/-- A command with a media read or write outstanding that goes by the link between hub and memory: which die holds its data, and
which of the die's two links it takes, is open (R19; log 79). -/
def linkNvme (link : Nat) (s : State) : State :=
  forEach (fun (n : Nvme) s =>
    match n.slot with
    | none => s
    | some k =>
      let d := s.freshNat
      let r := goesBy link [hubLinks (d.1 % 4)] d.2
      if !r.1 then r.2
      else match n.r0 with
        | some r0 => endIfFailed k (recordFailure k stEngine r0 r.2)
        | none => failCmd k stEngine r.2) s.store.nvme s

/-- FABRIC_LINK: every command with a request outstanding on the link fails with ENGINE_FAULT (R20). -/
def execFabricLink (link : Nat) (s : State) : Host.Outcome State Fault Refusal :=
  if 14 ≤ link ∨ s.eng.fabricDown.get false link then .next s
  else
    let s := { s with eng := { s.eng with fabricDown := s.eng.fabricDown.set false link true } }
    let s := logEvent 0x0202 0x00 0 link none s
    .next (linkNvme link (forBelow (linkDgu link) 4 (forBelow (linkSmu link) 8 (forBelow (linkFrond link) 128 s))))

end Sys2Proof.Machine
end

