-- ==== Sys2Proof/Machine/Commit.lean ====
section
/-!
DEFINITION. Steps 3 and 4 of the commit sequence (R72 to R74, R392, R572), and the two events that let a command's own work
go on: the end of an ordering wait and the end of a host read.
-/

namespace Sys2Proof.Machine

/-! ## STOP of a fan-out command (R572) -/

/-- Every worker has acknowledged the STOP. -/
def stopAnswered (s : State) (f : Fan) : Bool := (List.range (fanWorkers s f).length).all f.stopAcks.contains

/-- STOP to every worker of a fan-out. -/
def sendStop (xid : W64) (inst : Nat) (s : State) : State :=
  let ws := ((s.lnk.fans.find? fun x => x.xid = xid).map (fanWorkers s)).getD s.lnk.workers
  let s := { s with lnk := { s.lnk with fans := s.lnk.fans.map fun x => if x.xid = xid then { x with stopped := true, lastFrame := s.time } else x } }
  forEach (fun (w : Worker) s => sendFrame ftStop w.hops w.route inst xid 0 [] s) ws s

/-- Everything that belongs to a fan-out identity leaves the module. -/
def dropFan (xid : W64) (s : State) : State :=
  { s with lnk := { s.lnk with
      fans := s.lnk.fans.filter fun f => f.xid ≠ xid, reasm := s.lnk.reasm.filter fun r => r.xid ≠ xid } }

/-! ## Results (R71, R72, R73) -/

/-- Headers of the outputs with STATE VALID or INVALID. An INVALID header shows no rows (log 81). After a fence nothing
is written (R75). -/
def writeHeaders (slot : Nat) (c : Cmd) (s : State) : State :=
  match queryRun c with
  | none => s
  | some q =>
    if c.outcome = some stReset ∨ nSlots ≤ slot then s
    else
      forEach (fun (o : OutRun) s =>
        let rows := outRows q.plan o
        let h := if c.outcome = some stSuccess then resultHeader c o 1 rows.length (outData q.plan o rows.length).length
          else resultHeader c o 2 0 0
        if o.kind = 1 ∨ o.kind = 2 then (writeOut c o 0 h s).2 else s) q.outs s

/-- The STORE outputs of a query. -/
def storeOuts (c : Cmd) : List (OutRun × Plan) :=
  match queryRun c with
  | none => []
  | some q => (q.outs.filter fun o => o.kind = 3).map fun o => (o, q.plan)

/-- A publication that waits for media keeps which item each of its extents is to be blamed on: the one whose rows completed
what its first byte belongs to (R77, R146; log 80). -/
def blameRows (c : Cmd) (o : OutRun) (n : Nat) (s : State) : State :=
  match queryRun c with
  | none => s
  | some q =>
    let l := (List.range n).map fun k => outByteR0 q o (k * extSize)
    { s with store := { s.store with pubs := s.store.pubs.map fun p =>
        if p.accNo = c.accNo ∧ p.hidden ∧ p.id = o.tid then { p with blame := l } else p } }

/-- Publishes the STORE outputs; with DUR each waits for media first. -/
def publishOuts (slot : Nat) (c : Cmd) (s : State) : State :=
  let s := forEach (fun (x : OutRun × Plan) s =>
    match objFor s c.inst x.1.tid c.accNo with
    | none => s
    | some o =>
      let d := outData x.2 x.1 (outRows x.2 x.1).length
      let m := imgReplace o.cur d
      let s := addCounter c.inst 2 d.length s
      if c.dur then blameRows c x.1 (ceilDiv d.length extSize) (publishLater o m c slot (framesFor d.length) s)
      else publish o m c none (framesFor d.length) false s)
    (storeOuts c) (modQuery slot (fun q => { q with frames := 0, copies := 0 }) s)
  publishHidden slot s

/-- What the other opcodes write for SUCCESS: the digest of DIGEST, the results of MATCH_SEARCH. -/
def writeOwn (c : Cmd) (s : State) : State :=
  let put := fun (d : List Byte) => addCounter c.inst 3 d.length (hostWriteFor (s.sq c.inst c.sq).port c.inst c.accNo c.addr1 d s)
  if c.outcome ≠ some stSuccess then s
  else
    match c.work with
    | .digest r => if c.opc = 0x20 then put r.out else s
    | .matching _ _ results _ => if c.opc = 0x31 then put results else s
    | _ => s

/-- The context of a digest command is closed (R319, R328). -/
def closeOwn (slot : Nat) (c : Cmd) (s : State) : State :=
  match c.work with
  | .digest { ctx := some (u, k), .. } =>
    if (s.ctx u k).slot = some slot then leaveLane u k (s.setCtx u k Ctx.free) else s
  | _ => s

/-- The last writes of step 3, then the completion entry; the record of a fan-out goes with it. -/
def endCommand (slot : Nat) (c : Cmd) (s : State) : State :=
  let s := closeOwn slot c (writeOwn c (writeHeaders slot c s))
  let s := completeCmd slot (setPhase slot .ended s)
  match fanOf s slot with
  | some f => dropFan f.xid s
  | none => s

/-- A worker's part of a fan-out has ended: it writes no entry; a failure of its own goes up as FAIL (R571, R572). A
module with workers keeps the record until they have been stopped. -/
def endPart (slot : Nat) (c : Cmd) (s : State) : State :=
  match fanOf s slot with
  | none => retireCmd slot s
  | some f =>
    let st := c.outcome.getD 0
    let s := if st = stSuccess ∨ f.stopped then s
      else sendFrame ftFail s.lnk.mgrHops s.lnk.mgrRoute c.inst f.xid c.prio (leBytes st 2) s
    let s := modFan slot (fun f => { f with slot := none, status := some st }) s
    let keep := !(fanWorkers s f).isEmpty && decide (st ≠ stSuccess) && !(f.stopped && f.owed.isEmpty)
    retireCmd slot (if keep then s else dropFan f.xid s)

/-- COMMIT_FINISH: the outcome of a command stands and its last item, job and access have ended (R74). -/
def execCommitFinish (slot : Nat) (s : State) : Host.Outcome State Fault Refusal :=
  match s.cmd slot with
  | none => .next s
  | some c =>
    let waits := decide (c.phase = .entryWait) || (c.isQuery && decide (c.phase = .durWait) && decide (c.outcome = some stSuccess))
    if c.outcome.isNone ∨ c.dupOf.isSome ∨ waits ∨ cmdBusy slot s then .next s
    else if nSlots ≤ slot then .next (endPart slot c s)
    else
      let ok := decide (c.outcome = some stSuccess)
      match fanOf s slot, ok with
      | some f, false =>
        if !f.stopped then .next (sendStop f.xid c.inst s)
        else if !stopAnswered s f then .next s
        else .next (endCommand slot c (s.modCmd slot fun c => { c with step3 := true }))
      | _, _ =>
        let outs := storeOuts c
        if c.phase = .ended ∨ !ok ∨ outs.isEmpty then .next (endCommand slot c (s.modCmd slot fun c => { c with step3 := true }))
        else if orderBlocked s c (outs.map fun x => x.1.tid) then .next s
        else
          let s := publishOuts slot c (if c.dur then s else s.modCmd slot fun c => { c with step3 := true })
          if s.store.pubs.any (fun p => decide (p.slot = some slot) && decide (p.accNo = c.accNo)) then
            .next (setPhase slot .durWait s)
          else .next (endCommand slot c (s.modCmd slot fun c => { c with step3 := true }))

/-! ## Waits of a command's own work -/

/-- ORDERING_WAIT_END: the command tries again at its ordering point (R246, R418). -/
def execOrderingWaitEnd (slot : Nat) (s : State) : Host.Outcome State Fault Refusal :=
  match s.cmd slot with
  | none => .next s
  | some c =>
    if c.phase ≠ .ordering ∨ c.outcome.isSome then .next s
    else if c.isQuery then .next (tryQuery slot s)
    else if 0x10 ≤ c.opc ∧ c.opc ≤ 0x15 then .next (storeOrdered slot c s)
    else if c.opc = 0x20 ∨ c.opc = 0x21 then .next (tryDigest slot s)
    else if c.opc = 0x30 then .next (tryUpdate slot c (matchBytes c) s)
    else .next (trySearch slot c (matchBytes c) s)

/-- WRITE_CACHE_ROOM: the first write that waits for space is staged, a query's STORE outputs too (R424). -/
def execWriteCacheRoom (slot : Nat) (s : State) : Host.Outcome State Fault Refusal :=
  match s.cmd slot with
  | none => .next s
  | some c =>
    let n := match queryRun c with | some q => storeBytes q | none => c.len
    if c.phase ≠ .cacheWait ∨ c.outcome.isSome ∨ nextWaiting s c.inst ≠ some slot ∨ !cacheRoom s c.inst n then .next s
    else
      let s := { s with store := { s.store with cacheQ := s.store.cacheQ.filter (· ≠ slot) } }
      match queryRun c with
      | some q => .next (finishQuery slot c q (setPhase slot .running s))
      | none => .next (stage slot c s)

/-- HOST_READ_DONE: a host read of a command's own data returns, or has failed (R249, R252, R327, R417). -/
def execHostReadDone (slot : Nat) (data : Option (List Byte)) (s : State) : Host.Outcome State Fault Refusal :=
  match s.cmd slot with
  | none => .next s
  | some c =>
    let data := hostGave s (s.sq c.inst c.sq).port data
    if c.phase ≠ .hostRead ∨ c.outcome.isSome then .next s
    else if c.opc = 0x10 ∨ c.opc = 0x12 then .next (storeDataRead slot c data s)
    else if c.opc = 0x15 then .next (createRead slot c data s)
    else if c.opc = 0x20 ∨ c.opc = 0x21 then .next (digestRead slot c data s)
    else if c.opc = 0x30 then .next (matchUpdateRead slot c data s)
    else if c.opc = 0x31 then .next (matchSearchRead slot c data s)
    else .next s

end Sys2Proof.Machine
end

