-- ==== Sys2Proof/Machine/QueueAdmin.lean ====
section
/-!
DEFINITION. Queues as mailbox commands make, reset and delete them (R357 to R359, R398, R399, R469).
-/

namespace Sys2Proof.Machine

/-! ## QUEUE_CREATE -/

/-- The bytes that QUEUE_CREATE names. -/
def queueRule : MbxRule := { pfOnly := false, targeted := false, named := [(0x08, 0x18)] }

/-- The first field of QUEUE_CREATE that is out of range, or that belongs to the other kind and is not zero. -/
def queueBadField (m : Mbx) (r : ResRec) : Option Nat :=
  let cq := decide (m.arg 8 1 = 1)
  let flags := m.arg 0x0C 1
  let quota := if cq then r.cqs else r.sqs
  if 1 < m.arg 8 1 then some 8
  else if m.arg 9 1 < 4 ∨ 16 < m.arg 9 1 then some 9
  else if quota ≤ m.arg 0x0A 2 then some 0x0A
  else if 7 < flags ∨ (cq ∧ bit flags 0) ∨ (!cq ∧ bit flags 2) then some 0x0C
  else if !cq ∧ m.arg 0x0D 1 ≠ 0 then some 0x0D
  else if (if cq then m.arg 0x0E 2 = 0 ∨ 256 < m.arg 0x0E 2 else m.arg 0x0E 2 ≠ 0) then some 0x0E
  else if m.arg 0x10 8 % 4096 ≠ 0 then some 0x10
  else if (if cq then m.arg 0x18 4 ≠ 0 else m.arg 0x18 4 = 0 ∨ 65536 < m.arg 0x18 4) then some 0x18
  else if cq ∧ m.arg 0x1C 2 ≠ 0 then some 0x1C
  else if (if cq then r.msix ≤ m.arg 0x1E 2 else m.arg 0x1E 2 ≠ 0) then some 0x1E
  else none

/-- The SQ that a QUEUE_CREATE makes. -/
def sqOf (m : Mbx) : Sq :=
  { Sq.absent with
    st := .active, base := m.arg 0x10 8, log2 := m.arg 9 1, cq := m.arg 0x1C 2, outlim := m.arg 0x18 4,
    prefetching := bit (m.arg 0x0C 1) 0, port := bits (m.arg 0x0C 1) 1 1 }

/-- The CQ that a QUEUE_CREATE makes. -/
def cqOf (m : Mbx) : Cq :=
  { Cq.absent with
    st := .active, base := m.arg 0x10 8, log2 := m.arg 9 1, port := bits (m.arg 0x0C 1) 1 1, vector := m.arg 0x1E 2,
    ien := bit (m.arg 0x0C 1) 2, aggCount := m.arg 0x0E 2, aggTime := m.arg 0x0D 1 }

/-- QUEUE_CREATE. -/
def execQueueCreate (fn : Nat) (s : State) : Host.Outcome State Fault Refusal :=
  .next (onMbx fn 0x20 queueRule (fun m s =>
    match queueBadField m (s.inst fn).res with
    | some o => mbxBad fn o s
    | none =>
      let n := m.arg 0x0A 2
      if m.arg 8 1 = 1 then
        if (s.cq fn n).st ≠ .disabled then mbxErr fn meExists s else mbxOk fn (s.setCq fn n (cqOf m))
      else if (s.sq fn n).st ≠ .disabled then mbxErr fn meExists s
      else if (s.cq fn (m.arg 0x1C 2)).st = .disabled then mbxErr fn meNotFound s
      else mbxOk fn (s.setSq fn n (sqOf m))) s)

/-! ## The drain of an SQ (R398) -/

/-- Steps 1 to 3: nothing more is fetched, entries not consumed and a partial chain are discarded, and QDEL reaches the
commit point of every accepted command of the SQ. -/
def drainSq (i n : Nat) (delete : Bool) (mbx : Option Nat) (s : State) : State :=
  let q := s.sq i n
  let s := s.setSq i n { q with
    st := .draining, spores := [], copies := [], compares := [], framing := none, slotRes := none, stChain := false,
    stPhase := false, reads := [], phaseOn := [], drain := some (delete, mbx) }
  let mine := (s.ring.cmds.filter fun e => decide (e.1 < nSlots) && e.2.any fun c =>
    decide (c.inst = i) && decide (c.sq = n) && c.accepted && c.dupOf.isNone && c.outcome.isNone).map (·.1)
  forEach (fun k s => failCmd k stQdel s) mine s

/-- The CQs of an instance at or above its quota that no SQ maps to any more are deleted (R441). -/
def trimCqs (i : Nat) (s : State) : State :=
  let used := (s.ring.sqs.filter fun e => decide (keyInst e.1 = i) && decide (e.2.st ≠ .disabled)).map fun e => e.2.cq
  { s with ring := { s.ring with cqs := s.ring.cqs.filter fun e =>
      !(decide (keyInst e.1 = i) && decide ((s.inst i).res.cqs ≤ keyNum e.1) && !used.contains (keyNum e.1)) } }

/-- Step 5: the SQ stands as after its creation, or is gone; the one who waits is answered. -/
def endDrain (i n : Nat) (s : State) : State :=
  let q := s.sq i n
  match q.drain with
  | none => s
  | some (delete, mbx) =>
    let fresh : Sq := { q with
      st := .active, cause := 0, tail := 0, head := 0, window := [], drain := none, stOutlim := false, stQuota := false,
      stCq := false }
    let s := s.setSq i n (if delete then Sq.absent else fresh)
    let s := if delete then trimCqs i s else s
    match mbx with
    | some fn => mbxOk fn s
    | none => s

/-- QUEUE_DRAIN_COMPLETE: the entries of every command of the SQ have been written. -/
def execQueueDrainComplete (inst sq : Nat) (s : State) : Host.Outcome State Fault Refusal :=
  if (s.sq inst sq).drain.isNone ∨ 0 < sqOut s inst sq then .next s else .next (endDrain inst sq s)

/-! ## QUEUE_RESET and QUEUE_DELETE -/

/-- The bytes that both name. -/
def queueIdRule : MbxRule := { pfOnly := false, targeted := false, named := [(0x08, 1), (0x0A, 2)] }

/-- A reset of a CQ: its entries that wait are written again from index 0 on (R399). -/
def resetCq (i n : Nat) (s : State) : State :=
  let q := s.cq i n
  drainAll i n (s.setCq i n { q with st := .active, cause := 0, head := 0, tail := 0 })

/-- An SQ of the instance that exists maps to a CQ. -/
def cqMapped (s : State) (i n : Nat) : Bool :=
  s.ring.sqs.any fun e => decide (keyInst e.1 = i) && decide (e.2.st ≠ .disabled) && decide (e.2.cq = n)

/-- Runs QUEUE_RESET or QUEUE_DELETE on the queue that the command names. -/
def onQueue (fn mop : Nat) (delete : Bool) (s : State) : State :=
  onMbx fn mop queueIdRule (fun m s =>
    let n := m.arg 0x0A 2
    if 1 < m.arg 8 1 then mbxBad fn 8 s
    else if m.arg 8 1 = 1 then
      if (s.cq fn n).st = .disabled then mbxErr fn meNotFound s
      else if !delete then mbxOk fn (resetCq fn n s)
      else if cqMapped s fn n then mbxErr fn meInUse s
      else mbxOk fn (s.setCq fn n Cq.absent)
    else if (s.sq fn n).st = .disabled then mbxErr fn meNotFound s
    else if (s.sq fn n).drain.isSome then mbxErr fn meState s
    else drainSq fn n delete (some fn) (s.modMbx fn fun m => { m with started := true })) s

/-- QUEUE_DELETE. -/
def execQueueDelete (fn : Nat) (s : State) : Host.Outcome State Fault Refusal := .next (onQueue fn 0x21 true s)

/-- QUEUE_RESET. -/
def execQueueReset (fn : Nat) (s : State) : Host.Outcome State Fault Refusal := .next (onQueue fn 0x22 false s)

end Sys2Proof.Machine
end

