-- ==== Sys2Proof/Machine/InstanceOps.lean ====
section
/-!
DEFINITION. What the instance commands share: ready lists (R286), checks of a resource record
(R441, R448, R470), the instance fence, the end of an instance reset, and the end of an instance (R307, R454 to R458).
-/

namespace Sys2Proof.Machine

/-! ## Ready lists and frond sets -/

/-- Lists of an instance: number, level, class. -/
def listsOf (s : State) (i : Nat) : List (Nat × Nat × Nat) :=
  (s.disp.lists.filter fun e => e.2.used && decide (e.2.inst = i)).map fun e => (e.1, e.2.level, e.2.cls)

/-- The class and level that the next list of an instance gets: one per class at level 0, then level by level
(log 12). -/
def nextListKind (s : State) (i : Nat) : Nat × Nat :=
  let have_ := (listsOf s i).map fun x => x.2
  let k := ((List.range 32).find? fun k => !have_.contains (k / 4, k % 4)).getD 0
  (k / 4, k % 4)

/-- The lowest list number not in use. -/
def freeList (s : State) : Nat :=
  (firstUnlisted (s.disp.lists.filter fun e => e.2.used) (s.disp.lists.length + 1) 0).getD 0

/-- Assigns lists to an instance until it has n (R286). -/
def growLists (i : Nat) : Nat → State → State
  | 0, s => s
  | n + 1, s =>
    let s := growLists i n s
    if n < (listsOf s i).length then s
    else
      let k := nextListKind s i
      let l : ReadyList := { used := true, inst := i, level := k.1, cls := k.2, cursors := [] }
      { s with disp := { s.disp with lists := s.disp.lists.set ReadyList.free (freeList s) l } }

/-- A list that may go: it holds no cursor, and another one of its class stays. -/
def spareLists (s : State) (i : Nat) : List (Nat × Nat × Nat) :=
  (listsOf s i).filter fun x =>
    (s.disp.lists.get ReadyList.free x.1).cursors.isEmpty && decide (1 < ((listsOf s i).filter fun y => y.2.2 = x.2.2).length)

/-- Removes lists without cursors, highest level first, until the instance has n or none can go (R441). -/
def shrinkLists (i n : Nat) : Nat → State → State
  | 0, s => s
  | fuel + 1, s =>
    if (listsOf s i).length ≤ n then s
    else
      let spare := spareLists s i
      let top := (spare.map fun x => x.2.1).foldl max 0
      match (spare.filter fun x => x.2.1 = top).getLast? with
      | none => s
      | some x =>
        shrinkLists i n fuel
          { s with disp := { s.disp with lists := s.disp.lists.set ReadyList.free x.1 ReadyList.free } }

/-! ## The resource record (R441, R470) -/

/-- The first field of a record that is out of range, with its field number: only the fields that `named` names count. -/
def recBadField (i : Nat) (b : List Byte) (named : Nat → Bool) : Option Nat :=
  let r := readRec b
  let bad := fun (j off : Nat) (p : Bool) => if named j && p then some off else none
  bad 0 0x08 (decide (8192 < r.sqs)) <|> bad 1 0x0A (decide (4096 < r.cqs)) <|> bad 2 0x0C (decide (65536 < r.slots)) <|>
  bad 3 0x10 (decide (r.lists < 4) || decide (2048 < r.lists)) <|>
  bad 4 0x12 (decide ((if i = 0 then 2048 else 64) < r.msix)) <|> bad 6 0x18 (decide (759808 < r.pages)) <|>
  ((List.range 4).findSome? fun u => bad 8 (0x20 + 4 * u) (decide (65536 < r.cmuEnt.getD u 0))) <|>
  bad 9 0x30 (decide (262144 < r.cmuStates)) <|> (if zeroAt b 0x37 1 then none else some 0x37) <|>
  ((List.range 4).findSome? fun u => bad 13 (0x38 + u) (decide (64 < r.digCtx.getD u 0))) <|>
  bad 14 0x3C (decide (16384 < r.plans)) <|> (if zeroAt b 0x3E 2 then none else some 0x3E) <|>
  ((List.range' 0x48 56).find? fun o => !zeroAt b o 1)

/-- A record in which only the named fields are replaced. -/
def mergeRec (old new : ResRec) (named : Nat → Bool) : ResRec :=
  { sqs := if named 0 then new.sqs else old.sqs, cqs := if named 1 then new.cqs else old.cqs,
    slots := if named 2 then new.slots else old.slots, lists := if named 3 then new.lists else old.lists,
    msix := if named 4 then new.msix else old.msix, weights := if named 5 then new.weights else old.weights,
    pages := if named 6 then new.pages else old.pages, dataPages := if named 7 then new.dataPages else old.dataPages,
    cmuEnt := if named 8 then new.cmuEnt else old.cmuEnt, cmuStates := if named 9 then new.cmuStates else old.cmuStates,
    cmuSlots := if named 10 then new.cmuSlots else old.cmuSlots,
    smuShare := if named 11 then new.smuShare else old.smuShare,
    xchShare := if named 12 then new.xchShare else old.xchShare, digCtx := if named 13 then new.digCtx else old.digCtx,
    plans := if named 14 then new.plans else old.plans, storeExt := if named 15 then new.storeExt else old.storeExt }

/-- Whether a resource of the module would pass its total, instance i holding record r (R441). -/
def overTotal (s : State) (i : Nat) (r : ResRec) : Bool :=
  let sum := fun (f : ResRec → Nat) => ((s.insts.filter fun e => e.1 ≠ i).map fun e => f e.2.res).sum + f r
  let more := fun (f : ResRec → Nat) (lim : Nat) => decide (f (s.inst i).res < f r) && decide (lim < sum f)
  more (·.sqs) 8192 || more (·.cqs) 4096 || more (·.slots) 65536 || more (·.lists) 2048 || more (·.pages) 759808 ||
  (List.range 4).any (fun u => more (fun r => r.cmuEnt.getD u 0) 65536) || more (·.cmuStates) 262144 ||
  (List.range 4).any (fun u => more (fun r => r.digCtx.getD u 0) 64) || more (·.plans) 16384 ||
  more (·.storeExt) (poolCopies s)

/-! ## The fence (R307, R455 steps 1 and 2) -/

/-- Clears the contexts of an instance in every digest unit; a unit that has some logs it (R323, R329). -/
def fenceDigests (i : Nat) (s : State) : State :=
  forBelow (fun u s =>
    if (s.dgu u).ctxs.any fun e => decide (e.2.inst = i) && decide (e.2.st ≠ .free) then
      logCleared u (forCtxs (fun c => decide (c.inst = i)) clearCtx u s)
    else s) 4 s

/-- The exchange drops what it has staged and received for an instance (R573). -/
def fenceExchange (i : Nat) (s : State) : State :=
  { s with lnk := { s.lnk with
      reasm := s.lnk.reasm.filter fun r => r.inst ≠ i,
      sent := s.lnk.sent.filter fun f => !(decide (f.frame.inst = i) && decide (f.frame.xid ≠ 0) && decide (f.frame.ftype ≠ ftStop)) } }

/-- Host writes of an instance that still wait for a port, and its reads, are dropped; interrupt messages stay
(R455, R456). -/
def fenceHost (i : Nat) (s : State) : State :=
  let keep := fun (m : HostMsg) =>
    match m with
    | .write _ fn _ _ => decide (fn ≠ i)
    | .read _ fn _ _ => decide (fn ≠ i)
    | .msix .. => true
  { s with lnk := { s.lnk with hp := s.lnk.hp.map fun e =>
      (e.1, { e.2 with waitQ := e.2.waitQ.filter keep, owners := e.2.owners.filter fun o => o.1 ≠ i }) } }

/-- The fence reaches dispatcher, fronds, engines, exchange and hub. -/
def fenceAll (i : Nat) (s : State) : State :=
  let slots := (s.ring.cmds.filter fun e => e.2.any fun c => decide (c.inst = i)).map (·.1)
  let s := forEach presentFence slots s
  let s := { s with disp := { s.disp with timers := s.disp.timers.filter fun t => t.owner ≠ some i } }
  let s := forBelow (fenceCmu i) 4 s
  fenceHost i (fenceExchange i (fenceDigests i s))

/-- Joins a reset in progress: the form becomes the function-level one when either is (R457; log 86). -/
def joinFence (flr destroying : Bool) (mbx : Option Nat) (f : FenceRec) : FenceRec :=
  { f with flr := f.flr || flr, destroying := f.destroying || destroying, mbxs := f.mbxs ++ mbx.toList }

/-- Ends one command of an instance whose fence is complete: step 3 that had begun is finished, the entry written; one whose entry
waits has finished it before. A part of another module's fan-out ends silently, and workers get STOP (R75, R455, R572, R573). -/
def endFenced (flr : Bool) (slot : Nat) (s : State) : State :=
  match s.cmd slot with
  | none => s
  | some c =>
    let s := match fanOf s slot with
      | some f => if f.stopped then s else sendStop f.xid c.inst s
      | none => s
    if nSlots ≤ slot then
      match fanOf s slot with
      | some f => dropFan f.xid (retireCmd slot s)
      | none => retireCmd slot s
    else if flr then retireCmd slot (if c.step3 ∧ c.phase ≠ .entryWait then writeHeaders slot c s else s)
    else if c.phase = .entryWait ∨ c.dupOf.isSome then s
    else endCommand slot c s

/-- The slots that hold commands of an instance, in acceptance order. -/
def instSlots (s : State) (i : Nat) : List Nat :=
  sortOn (fun k => ((s.cmd k).map (·.accNo)).getD 0) ((s.ring.cmds.filter fun e => e.2.any fun c => decide (c.inst = i)).map (·.1))

/-- Begins an instance reset, or joins the one in progress (R455, R457, R458). -/
def beginReset (i : Nat) (flr destroying : Bool) (mbx : Option Nat) (s : State) : State :=
  let x := s.inst i
  let s := s.setInst i { x with st := if destroying || decide (x.st = .destroying) then .destroying else .resetting }
  if s.disp.fences.any fun f => f.inst = i then
    -- entries that still wait for their CQs are not written in the function-level form (R454)
    let s := if flr && s.disp.fences.any (fun f => decide (f.inst = i) && f.complete) then forEach (endFenced true) (instSlots s i) s else s
    { s with disp := { s.disp with fences := s.disp.fences.map fun f =>
        if f.inst = i then joinFence flr destroying mbx f else f } }
  else
    let f : FenceRec := { inst := i, flr := flr, destroying := destroying, mbxs := mbx.toList, complete := false }
    let s := { s with
      disp := { s.disp with fences := s.disp.fences ++ [f] },
      ring := { s.ring with sqs := s.ring.sqs.map fun e =>
        (e.1, if keyInst e.1 = i then { e.2 with framing := none, slotRes := none, stChain := false } else e.2) } }
    fenceAll i s

/-- Work of the instance that a front or engine has not ended yet. -/
def fenceBusy (s : State) (i : Nat) : Bool :=
  (s.ring.cmds.any fun e => (e.2.any fun c => decide (c.inst = i)) && cmdBusy e.1 s) ||
  (s.eng.cmu.any fun e => e.2.upd.any fun r => decide (r.inst = i) && decide (r.step ≠ 0)) ||
  s.store.nvme.any fun n => n.inst = i

/-! ## The end of an instance (R458) -/

/-- A table-store object ceases to exist with its instance (R416). The removal takes an acceptance number of its own. -/
def deleteObj (o : StoreObj) (s : State) : State :=
  let m : ObjImage := { size := 0, ver := o.cur.ver + 1, bytes := [], exts := [] }
  let p : Pub := {
    inst := o.inst, id := o.id, img := m, todo := [], accNo := s.ring.nextAcc, doneAcc := none, delete := true,
    hidden := false, slot := none, frames := 0 }
  let n := s.ring.nextAcc + 1
  let s := { s with store := { s.store with pubs := s.store.pubs ++ [p] }, ring := { s.ring with nextAcc := n } }
  modObj o (fun x => { x with cur := m, deleted := true, goneAt := n }) s

/-- The context slots of an instance in a unit become FREE. -/
def freeContexts (i u : Nat) (s : State) : State :=
  forEach (fun (e : Nat × Ctx) s => if e.2.inst = i then leaveLane u e.1 (s.setCtx u e.1 Ctx.free) else s) (s.dgu u).ctxs s

/-- The mailbox commands that wait on an instance and that its end answers with BAD_STATE: one of its own function, and an INST_RESIZE
of it; those that wait for its reset are answered by that (log 103). -/
def cutOff (i : Nat) (mbxs : List Nat) (s : State) : List Nat :=
  let own := if (s.getMbx i).st = .busy ∧ (s.getMbx i).started then [i] else []
  (own ++ (((s.inst i).resize.map (·.mbx)).toList)).filter fun f => !mbxs.contains f

/-- The counters that engines keep for an instance start at zero (R265, R284, R330). -/
def clearUnitCnts (i : Nat) (s : State) : State :=
  let s := forBelow (fun u s => s.setCmu u { s.cmu u with instCnt := (s.cmu u).instCnt.clearRange (4 * i) (4 * i + 4) }) 4 s
  let s := forBelow (fun u s => s.setSmu u { s.smu u with instCnt := (s.smu u).instCnt.clearRange (2 * i) (2 * i + 2) }) 8 s
  forBelow (fun u s => s.setDgu u { s.dgu u with instCnt := (s.dgu u).instCnt.clearRange (4 * i) (4 * i + 4) }) 4 s

/-- Everything that an instance holds goes; its quotas return and it is ABSENT. Mailbox commands that wait on it end, but for those of
the reset itself. -/
def removeInst (i : Nat) (mbxs : List Nat) (s : State) : State :=
  let s := clearUnitCnts i (forEach (fun f s => mbxErr f meState s) (cutOff i mbxs s) s)
  let s := forEach (fun (p : PlanEnt) s => unbindPlan i p.id s) (s.inst i).plans s
  let s := forEach (fun (p : PlanEnt) s => dropImages i p s) (s.inst i).plans s
  let s := forEach (deleteTable i) (((List.range 4).map fun u =>
    ((s.cmu u).tables.filter fun t => decide (t.inst = i) && !t.gone).map (·.id)).flatten) s
  let s := forEach deleteObj (s.store.objs.filter fun o => decide (o.inst = i) && !o.deleted) s
  let s := forBelow (freeContexts i) 4 (freeLists i (unmapAll i s))
  let s := { s with
    ring := { s.ring with
      sqs := s.ring.sqs.filter fun e => keyInst e.1 ≠ i, cqs := s.ring.cqs.filter fun e => keyInst e.1 ≠ i },
    lnk := { s.lnk with fans := s.lnk.fans.filter fun f => f.inst ≠ i } }
  renewSets (fwEvent 0x0601 i 2 (s.setInst i Inst.absent))

/-! ## Step 5 and 6 of an instance reset -/

/-- Pages that wait for a frond's access of the instance are forgotten: its state regions are released. -/
def dropStatePages (i : Nat) (s : State) : State :=
  dropPages i ((s.mem.allocs.filter fun w => decide (w.inst = i) && w.mbx.isNone).map (·.page)) s

/-- MSI-X and Bus Master Enable of a function return to their PCIe reset values (R454). -/
def clearMsix (fn : Nat) (s : State) : State :=
  { s with lnk := { s.lnk with
      busMaster := s.lnk.busMaster.filter fun e => e.2 ≠ fn, msixEnable := s.lnk.msixEnable.filter fun e => e.2 ≠ fn,
      msix := s.lnk.msix.clearRange (2048 * fn) (2048 * fn + 2048), msixPend := s.lnk.msixPend.filter fun e => e.2.1 ≠ fn } }

/-- Every SQ of the instance is reset, or, in the function-level form, every queue deleted. -/
def resetQueues (i : Nat) (flr : Bool) (s : State) : State :=
  let mine := (s.ring.sqs.filter fun e => decide (keyInst e.1 = i) && decide (e.2.st ≠ .disabled)).map fun e => keyNum e.1
  let s := forEach (fun n s =>
    let q := s.sq i n
    endDrain i n (s.setSq i n { q with
      st := .draining, spores := [], copies := [], compares := [], framing := none, slotRes := none, stPhase := false,
      reads := [], phaseOn := [], drain := some (match q.drain with | some d => (d.1 || flr, d.2) | none => (flr, none)) })) mine s
  if flr then { s with ring := { s.ring with cqs := s.ring.cqs.filter fun e => keyInst e.1 ≠ i } } else s

/-- The instance is ACTIVE again, or RESIZING while a drain still waits. -/
def backActive (i : Nat) (s : State) : State :=
  let x := s.inst i
  let st : InstState := if x.resize.any fun r => r.waits then .resizing else .active
  fwEvent 0x0601 i 1 (s.setInst i { x with st := st })

end Sys2Proof.Machine
end

