-- ==== Sys2Proof/Machine/Instances.lean ====
section
/-!
DEFINITION. Commands and events of instances (R437 to R459, R469, R470).
-/

namespace Sys2Proof.Machine

/-! ## INFO (R469) -/

/-- The state of an instance as a number (R438). -/
def InstState.code : InstState → Nat
  | .absent => 0
  | .active => 1
  | .resizing => 2
  | .resetting => 3
  | .destroying => 4

/-- Payload of INFO for the module. -/
def infoModule (s : State) : List Byte :=
  let states := (List.range 128).map fun k =>
    BitVec.ofNat 8 ((s.inst (2 * k)).st.code + 16 * (s.inst (2 * k + 1)).st.code)
  leBytes s.mp.runVer.toNat 4 ++ leBytes 0xB0 1 ++ leBytes s.disp.profile.toNat 1 ++ leBytes s.pwr.cap 2 ++
  leBytes (if s.lnk.manager then 1 else 0) 1 ++ leBytes ((List.range 16).filter fun p => (s.ssd p).pool).length 1 ++
  leBytes s.disp.latLevel.toNat 1 ++ zeros 1 ++ leBytes ((s.mp.staged.map fun x => x.1.toNat).getD 0) 4 ++ states

/-- CMU tables of an instance. -/
def tablesOf (s : State) (i : Nat) : Nat :=
  ((List.range 4).map fun u => ((s.cmu u).tables.filter fun t => decide (t.inst = i) && !t.gone).length).sum

/-- Payload of INFO for an instance. -/
def infoInst (s : State) (i : Nat) : List Byte :=
  let x := s.inst i
  leBytes x.st.code 1 ++ zeros 7 ++ recBytes x.res ++ leBytes x.frames.length 4 ++ leBytes (slotsHeld s i) 4 ++
  leBytes (x.plans.filter fun p => !p.gone).length 2 ++ leBytes (tablesOf s i) 2 ++
  leBytes (s.store.objs.filter fun o => decide (o.inst = i) && !o.deleted).length 4

/-- INFO. -/
def execInfo (fn : Nat) (s : State) : Host.Outcome State Fault Refusal :=
  .next (onMbx fn 0x01 { pfOnly := false, targeted := true, named := [] } (fun m s =>
    if m.target = 0xFFFFFFFF then endMbx fn 0 0 0 (infoModule s) s
    else if 255 < m.target then mbxBad fn 4 s
    else endMbx fn 0 0 0 (infoInst s m.target) s) s)

/-! ## INST_CREATE (R441, R448, R453, R470) -/

/-- Instances that exist. -/
def instCount (s : State) : Nat := (s.insts.filter fun e => e.2.st ≠ .absent).length

/-- Allocates pages of an instance's data region for the mailbox command of a function, those that are not mapped yet (R442); whether
all were found. -/
def growPages (fn i : Nat) : List Nat → State → Bool × State
  | [], s => (true, s)
  | p :: t, s =>
    if pageTaken s i p then growPages fn i t s
    else
      match allocPage { inst := i, page := p, frame := none, frond := none, mbx := some fn, die := 0, wr := true } s with
      | (.exhausted, s) => (false, s)
      | (_, s) => growPages fn i t s

/-- The data region of an instance grows by pages [lo, lo + n). -/
def growData (fn i lo n : Nat) (s : State) : Bool × State := growPages fn i (List.range' lo n) s

/-- The record of an INST_CREATE is admitted: the instance takes what it names; it is ACTIVE once its data region is
mapped. -/
def createInst (fn i : Nat) (r : ResRec) (s : State) : State :=
  let s := (s.modMbx fn fun m => { m with started := true }).modMbx i fun m => { m with lastSeq := none }
  let s := clearUnitCnts i (s.setInst i { Inst.absent with res := r })
  let s := { s with
    ring := { s.ring with instCnt := s.ring.instCnt.set RingCnt.zero i RingCnt.zero },
    mem := { s.mem with nextDie := s.mem.nextDie.set 0 i 0, instFaults := s.mem.instFaults.set 0 i 0 } }
  let g := growData fn i 0 r.dataPages (growLists i r.lists s)
  if !g.1 then mbxErr fn meLimit (undoCreate i g.2) else mbxPagesDone fn g.2

/-- INST_CREATE: `host` is the resource record as the host read returns it. -/
def execInstCreate (fn : Nat) (host : Option (List Byte)) (s : State) : Host.Outcome State Fault Refusal :=
  .next (onMbx fn 0x10 { pfOnly := true, targeted := true, named := [(0x08, 8)] } (fun m s =>
    let i := m.target
    if i = 0 ∨ 255 < i then mbxBad fn 4 s
    else if m.arg 8 8 % 64 ≠ 0 then mbxBad fn 8 s
    else if (s.inst i).st ≠ .absent then mbxErr fn meState s
    else if isStrict s ∧ 128 ≤ instCount s then endMbx fn meState 3 0 [] s
    else
      mbxRead fn m [(m.arg 8 8, 128)] (fun s =>
        match whole 128 (hostGave s m.port host) with
        | none => mbxErr fn meHost s
        | some b =>
          let r := readRec b
          match recBadField i b (fun _ => true) with
          | some o => mbxBad fn o s
          | none =>
            if r.pages < r.dataPages then mbxBad fn 0x1C s
            else if isStrict s ∧ field r.weights 31 24 = 0 then endMbx fn meState 1 0 [] s
            else if overTotal s i r then mbxErr fn meLimit s
            else createInst fn i r s) s) s)

/-! ## INST_RESIZE (R444 to R446) -/

/-- The first resource of an instance still above its quota, by field number of R470 (R441). -/
def firstUndrained (s : State) (i : Nat) : Option Nat :=
  let x := s.inst i
  let r := x.res
  let has := fun (j : Nat) (p : Bool) => if p then some j else none
  has 0 (s.ring.sqs.any fun e => decide (keyInst e.1 = i) && decide (r.sqs ≤ keyNum e.1) && decide (e.2.st ≠ .disabled)) <|>
  has 1 (s.ring.cqs.any fun e => decide (keyInst e.1 = i) && decide (r.cqs ≤ keyNum e.1) && decide (e.2.st ≠ .disabled)) <|>
  has 2 (decide (r.slots < slotsHeld s i)) <|> has 3 (decide (r.lists < (listsOf s i).length)) <|>
  has 6 (decide (r.pages < x.frames.length)) <|>
  has 8 ((List.range 4).any fun u => decide (r.cmuEnt.getD u 0 < entUsed (s.cmu u) i)) <|>
  has 9 ((List.range 4).any fun u => decide (r.cmuStates < stUsed (s.cmu u) i)) <|>
  has 13 ((List.range 4).any fun u => decide (r.digCtx.getD u 0 < ctxUsed s u i)) <|>
  has 14 (decide (r.plans < x.plans.length)) <|> has 15 (decide (r.storeExt < instCopies s i))

/-- What a resize frees whenever it can: lists without cursors, CQs that no SQ maps to. -/
def trimInst (i : Nat) (s : State) : State :=
  trimCqs i (shrinkLists i (s.inst i).res.lists (listsOf s i).length s)

/-- An SQ that stays maps to a CQ above the new quota, or a CQ uses a vector above it (R441). -/
def resizeInUse (s : State) (i : Nat) (r : ResRec) : Bool :=
  (s.ring.sqs.any fun e => decide (keyInst e.1 = i) && decide (e.2.st ≠ .disabled) && decide (keyNum e.1 < r.sqs) && decide (r.cqs ≤ e.2.cq)) ||
  s.ring.cqs.any fun e => decide (keyInst e.1 = i) && decide (e.2.st ≠ .disabled) && decide (r.msix ≤ e.2.vector)

/-- The QUEUE_RESETs in progress on SQs above the quota end with their deletion (R445). -/
def deleteDrained (i n : Nat) (s : State) : State :=
  { s with ring := { s.ring with sqs := s.ring.sqs.map fun e =>
      (e.1, if keyInst e.1 = i ∧ n ≤ keyNum e.1 then { e.2 with drain := e.2.drain.map fun d => (true, d.2) } else e.2) } }

/-- The shrinks of a resize begin: SQs above the quota are drained, data pages above the region unmapped. -/
def beginShrink (i : Nat) (old r : ResRec) (s : State) : State :=
  let gone := (s.ring.sqs.filter fun e => decide (keyInst e.1 = i) && decide (r.sqs ≤ keyNum e.1) && decide (e.2.st ≠ .disabled) &&
    e.2.drain.isNone).map fun e => keyNum e.1
  let s := forEach (fun n s => drainSq i n true none s) gone (deleteDrained i r.sqs s)
  let s := forEach (unmapPage i) (List.range' r.dataPages (old.dataPages - r.dataPages)) s
  trimInst i s

/-- A resize takes effect (R444, R445). -/
def resizeInst (fn i valid ms : Nat) (old r : ResRec) (s : State) : State :=
  let s := s.modMbx fn fun m => { m with started := true }
  let x := s.inst i
  let z : Resize := { old := old, new := r, valid := valid, expiry := s.time + 1000000 * ms, mbx := fn, waits := true }
  let s := s.setInst i { x with res := r, resize := some z }
  let g := growData fn i old.dataPages (r.dataPages - old.dataPages) s
  if !g.1 then
    let s := undoGrow i g.2
    mbxErr fn meLimit (s.setInst i { s.inst i with res := old })
  else
    let s := renewSets (beginShrink i old r (growLists i r.lists g.2))
    let s := fwEvent 0x0601 i 3 s
    let waits := (firstUndrained s i).isSome
    let x := s.inst i
    let s := s.setInst i { x with resize := some { z with waits := waits }, st := if waits then .resizing else x.st }
    mbxPagesDone fn s

/-- INST_RESIZE: `host` is the resource record as the host read returns it. -/
def execInstResize (fn : Nat) (host : Option (List Byte)) (s : State) : Host.Outcome State Fault Refusal :=
  .next (onMbx fn 0x11 { pfOnly := true, targeted := true, named := [(0x08, 8), (0x10, 2)] } (fun m s =>
    let i := m.target
    if 255 < i then mbxBad fn 4 s
    else if m.arg 8 8 % 64 ≠ 0 then mbxBad fn 8 s
    else if m.arg 0x10 2 = 0 then mbxBad fn 0x10 s
    else if (s.inst i).st ≠ .active then mbxErr fn meState s
    else
      mbxRead fn m [(m.arg 8 8, 128)] (fun s =>
        match whole 128 (hostGave s m.port host) with
        | none => mbxErr fn meHost s
        | some b =>
          let named := fun (j : Nat) => bit (leAt b 0 8) j
          let old := (s.inst i).res
          let r := mergeRec old (readRec b) named
          if 65536 ≤ leAt b 0 8 then mbxBad fn 0 s
          else
            match recBadField i b named with
            | some o => mbxBad fn o s
            | none =>
              if r.pages < r.dataPages then mbxBad fn (if named 7 then 0x1C else 0x18) s
              else if isStrict s ∧ field r.weights 31 24 = 0 then endMbx fn meState 1 0 [] s
              else if resizeInUse s i r then mbxErr fn meInUse s
              else if overTotal s i r then mbxErr fn meLimit s
              else resizeInst fn i (leAt b 0 8) (m.arg 0x10 2) old r s) s) s)

/-- RESIZE_DRAIN_DONE: what can go goes; with the last drain the command ends, or waits for its pages only. -/
def execResizeDrainDone (inst : Nat) (s : State) : Host.Outcome State Fault Refusal :=
  let s := trimInst inst s
  match (s.inst inst).resize with
  | none => .next s
  | some z =>
    if !z.waits ∨ s.mp.arbitrating ∨ (firstUndrained s inst).isSome then .next s
    else
      let x := s.inst inst
      let s := s.setInst inst { x with
        resize := some { z with waits := false }, st := if x.st = .resizing then .active else x.st }
      .next (mbxPagesDone z.mbx s)

/-- RESIZE_DRAIN_TIMEOUT: DETAIL is the first resource still above its value; the lowered limits stay (R446). -/
def execResizeDrainTimeout (inst : Nat) (s : State) : Host.Outcome State Fault Refusal :=
  let s := trimInst inst s
  match (s.inst inst).resize, firstUndrained s inst with
  | some z, some j =>
    if !z.waits ∨ s.mp.arbitrating ∨ s.time < z.expiry then .next s
    else
      let x := s.inst inst
      let s := s.setInst inst { x with resize := none, st := if x.st = .resizing then .active else x.st }
      -- pages still in RECOLOUR are mapped when they can be, for nobody
      let s := { s with mem := { s.mem with allocs := s.mem.allocs.map fun w => if w.mbx = some z.mbx then { w with mbx := none } else w } }
      .next (endMbx z.mbx meDrain j 0 [] s)
  | _, _ => .next s

/-! ## Instance reset (R454 to R457) -/

/-- INST_RESET. -/
def execInstReset (fn : Nat) (s : State) : Host.Outcome State Fault Refusal :=
  .next (onMbx fn 0x12 { pfOnly := false, targeted := true, named := [] } (fun m s =>
    if 255 < m.target then mbxBad fn 4 s
    else if (s.inst m.target).st = .absent then mbxErr fn meState s
    else beginReset m.target false false (some fn) (s.modMbx fn fun m => { m with started := true })) s)

/-- INST_DESTROY. -/
def execInstDestroy (fn : Nat) (s : State) : Host.Outcome State Fault Refusal :=
  .next (onMbx fn 0x13 { pfOnly := true, targeted := true, named := [] } (fun m s =>
    if m.target = 0 then mbxErr fn meDenied s
    else if 255 < m.target then mbxBad fn 4 s
    else if (s.inst m.target).st = .absent then mbxErr fn meState s
    else beginReset m.target true true (some fn) (s.modMbx fn fun m => { m with started := true })) s)

/-- INSTANCE_FENCE_COMPLETE: every front and engine has reported; flow IDs are released with the commands, whose
entries are written in acceptance order. A write that no port could take yet is dropped: none leaves after this (R456). -/
def execInstanceFenceComplete (inst : Nat) (s : State) : Host.Outcome State Fault Refusal :=
  match s.disp.fences.find? fun f => f.inst = inst with
  | none => .next s
  | some f =>
    if f.complete ∨ fenceBusy s inst then .next s
    else
      let mine := instSlots s inst
      let s := fenceHost inst (forEach (endFenced f.flr) mine s)
      .next { s with disp := { s.disp with fences := s.disp.fences.map fun g =>
        if g.inst = inst then { g with complete := true } else g } }

/-- INSTANCE_RESET_FINISH: firmware resets the queues and releases what the commands held; the instance is ACTIVE, or
gone. It waits for a firmware handover and for entries that the CQs cannot take (R455, R457). -/
def execInstanceResetFinish (inst : Nat) (s : State) : Host.Outcome State Fault Refusal :=
  match s.disp.fences.find? fun f => f.inst = inst with
  | none => .next s
  | some f =>
    if !f.complete ∨ 0 < slotsHeld s inst ∨ (quiesced s ∧ f.mbxs.isEmpty) ∨ !s.pads.booted ∨ s.pads.inReset ∨ s.mp.arbitrating then .next s
    else
      let s := { s with disp := { s.disp with fences := s.disp.fences.filter fun g => g.inst ≠ inst } }
      let s := dropStatePages inst (resetQueues inst f.flr s)
      let s := if f.flr then clearMsix inst (s.modMbx inst fun m => { m with lastSeq := none }) else s
      let s := if f.destroying then removeInst inst f.mbxs s else backActive inst s
      .next (forEach mbxOk f.mbxs s)

/-- A function-level reset of the PF, or VF Enable cleared: instance 0 is reset, every VF instance destroyed. -/
def resetPf (s : State) : State :=
  let s := { s with lnk := { s.lnk with vfEnable := false, numVfs := 0 } }
  let vfs := (s.insts.filter fun e => decide (e.1 ≠ 0) && decide (e.2.st ≠ .absent)).map (·.1)
  let s := forEach (fun i s => beginReset i true true none s) vfs s
  beginReset 0 true false none s

/-- FUNCTION_LEVEL_RESET of a function: the mailbox forgets its last response (R462). -/
def execFunctionLevelReset (fn : Nat) (s : State) : Host.Outcome State Fault Refusal :=
  if 255 < fn then .next s
  else
    let s := s.modMbx fn fun m => { m with lastSeq := none }
    if fn = 0 then .next (resetPf s)
    else if (s.inst fn).st = .absent then .next (clearMsix fn s)
    else .next (beginReset fn true false none s)

/-- VF_ENABLE_CLEAR. -/
def execVfEnableClear (s : State) : Host.Outcome State Fault Refusal := .next (resetPf s)

end Sys2Proof.Machine
end

