-- ==== Sys2Proof/Machine/Firmware.lean ====
section
/-!
DEFINITION. Firmware packages and the commands that change the module as a whole: profile, power cap, telemetry, staging
and activation of firmware (R447 to R449, R469, R480 to R483, R511, R512, R523, R533, R536).
-/

namespace Sys2Proof.Machine

/-! ## Profiles (R434, R435, R447 to R449, R512) -/

/-- Items on fronds: acceptance number of the command, pipeline, item. -/
def runningItems (s : State) : List (Nat × Nat × Nat) :=
  (s.fronds.filterMap fun e => e.2.item.bind fun it => (s.cmd it.slot).map fun c => (c.accNo, it.pipe, it.idx)).eraseDups

/-- The idle timers of a profile (R435). -/
def idleTimers (p : Nat) : Nat × Nat × Nat :=
  if p = 0 then (20, 2000, 1000000) else if p = 2 then (5, 200, 100000) else (0, 0, 0)

/-- Why STRICT is refused, as the detail of BAD_STATE (R448, R512). -/
def strictRefused (s : State) : Option Nat :=
  if s.insts.any fun e => decide (e.2.st ≠ .absent) && decide (field e.2.res.weights 31 24 = 0) then some 1
  else if 128 < instCount s then some 3
  else if s.pwr.cap < 1000 then some 2
  else none

/-- The profile takes effect for work handed out from now on (R449); in LATENCY the warm quadrants are clocked (R31). -/
def enterProfile (fn p : Nat) (lat : Option Nat) (s : State) : State :=
  let t := idleTimers p
  let ch : ProfChange := { mbx := fn, prev := s.disp.profile, items := runningItems s }
  let d := { s.disp with
    profile := BitVec.ofNat 2 p, latLevel := (lat.map (BitVec.ofNat 3)).getD s.disp.latLevel, profileChange := some ch }
  let s := { s with disp := d }
  let s := { s with disp := { s.disp with frondSet := if p = 3 then frondSets s else [] } }
  { s with pwr := { s.pwr with
      idle1 := BitVec.ofNat 24 t.1, idle2 := BitVec.ofNat 24 t.2.1, idle3 := BitVec.ofNat 24 t.2.2,
      parked := if p = 1 then [0, 4, 8, 12].foldl (fun t k => t.set false k false) s.pwr.parked else s.pwr.parked,
      baseline := if p = 3 then 640 else s.pwr.baseline } }

/-- PROFILE_SET. -/
def execProfileSet (fn : Nat) (s : State) : Host.Outcome State Fault Refusal :=
  .next (onMbx fn 0x40 { pfOnly := true, targeted := false, named := [(8, 1), (9, 1), (0xA, 1)] } (fun m s =>
    let p := m.arg 8 1
    let flags := m.arg 0xA 1
    if 3 < p then mbxBad fn 8 s
    else if 7 < m.arg 9 1 then mbxBad fn 9 s
    else if 1 < flags then mbxBad fn 0xA s
    else
      match (if p = 3 then strictRefused s else none) with
      | some d => endMbx fn meState d 0 [] s
      | none =>
        examineGrants (enterProfile fn p (if flags = 1 then some (m.arg 9 1) else none)
          (s.modMbx fn fun m => { m with started := true }))) s)

/-- Engines that have met no boundary since the profile changed enter its schedule (R260, R263, R280, R326, R449). -/
def engineSchedules (s : State) : State :=
  let s := forBelow enterDgu 4 (forBelow enterSmu 8 (forBelow enterCmu 4 s))
  if isStrict s then { s with eng := { s.eng with ratio := 10 } } else s

/-- PROFILE_SET_COMPLETE: every block has entered the new schedule, and no item of the change runs any more. -/
def execProfileSetComplete (s : State) : Host.Outcome State Fault Refusal :=
  match s.disp.profileChange with
  | none => .next s
  | some ch =>
    if s.mp.arbitrating || (runningItems s).any fun x => ch.items.contains x then .next s
    else
      let s := engineSchedules { s with disp := { s.disp with profileChange := none } }
      let s := { s with sec := { s.sec with attProfile := s.disp.profile } }
      .next (endMbx ch.mbx 0 0 0 [ch.prev.zeroExtend 8] (fwEvent 0x0603 0 s.disp.profile.toNat s))

/-! ## Power cap and telemetry (R469, R511, R512, R523) -/

/-- POWER_CAP_SET: the cap of every check made from now on. -/
def execPowerCapSet (fn : Nat) (s : State) : Host.Outcome State Fault Refusal :=
  .next (onMbx fn 0x41 { pfOnly := true, targeted := false, named := [(8, 2)] } (fun m s =>
    let c := m.arg 8 2
    if c < 500 ∨ 1520 < c then mbxBad fn 8 s
    else if isStrict s ∧ c < 1000 then endMbx fn meState 2 0 [] s
    else endMbx fn 0 0 0 (leBytes s.pwr.cap 2) { s with pwr := { s.pwr with cap := c } }) s)

/-- TELEMETRY_CFG. -/
def execTelemetryCfg (fn : Nat) (s : State) : Host.Outcome State Fault Refusal :=
  .next (onMbx fn 0x42 { pfOnly := true, targeted := false, named := [(8, 1), (0xA, 2)] } (fun m s =>
    let d := m.arg 0xA 2
    if 3 < m.arg 8 1 then mbxBad fn 8 s
    else if d = 0 ∨ 10000 < d then mbxBad fn 0xA s
    else mbxOk fn { s with tel := { s.tel with
      mirror := bit (m.arg 8 1) 0, rollup := bit (m.arg 8 1) 1, div := BitVec.ofNat 14 d } }) s)

/-! ## Firmware packages (R529 to R533) -/

/-- A component of a package: kind, SVN, and where its payload and its signature block stand. -/
structure FwPart where
  kind : Nat
  svn : Nat
  off : Nat
  len : Nat
  dsb : Nat
  deriving DecidableEq, Repr

/-- The three component entries. -/
def fwParts (b : List Byte) : List FwPart :=
  (List.range 3).map fun k =>
    let e := 0x40 + 16 * k
    { kind := leAt b e 1, svn := leAt b (e + 2) 2, off := leAt b (e + 4) 4, len := leAt b (e + 8) 4,
      dsb := roundUp (leAt b (e + 4) 4 + leAt b (e + 8) 4) 64 }

/-- Details of R483. -/
def fdFormat : Nat := 1
def fdSize : Nat := 2
def fdRollback : Nat := 5
def fdNotStaged : Nat := 6
def fdVersion : Nat := 7
def fdTakeover : Nat := 8

/-- The first field of the header or of an entry that is malformed: the components follow one another in the order of
their kinds, each with its signature block. -/
def fwHeaderBad (b : List Byte) : Option Nat :=
  if b.length < 128 ∨ leAt b 0 4 ≠ 0x5746515A then some 0
  else if leAt b 4 2 ≠ 1 then some 4
  else if leAt b 6 2 ≠ 3 then some 6
  else if !zeroAt b 0x10 48 then some 0x10
  else if !zeroAt b 0x70 16 then some 0x70
  else
    let ps := fwParts b
    (List.range 3).findSome? fun k =>
      let e := 0x40 + 16 * k
      let p := ps.getD k { kind := 0, svn := 0, off := 0, len := 0, dsb := 0 }
      let lo := if k = 0 then 128 else ((ps[k - 1]?).map fun q => q.dsb + 17152).getD 0
      if p.kind ≠ k + 1 then some e
      else if !zeroAt b (e + 1) 1 then some (e + 1)
      else if 64 < p.svn then some (e + 2)
      else if p.off % 64 ≠ 0 ∨ p.off < lo then some (e + 4)
      else if b.length < p.dsb + 17152 ∨ !zeroAt b (e + 12) 4 then some (e + 8)
      else none

/-- The check of one component: its signature block, which covers the header and the payload, then its SVN. -/
def fwPartBad (s : State) (b : List Byte) (k : Nat) (p : FwPart) : Option (Nat × Nat) :=
  match dsbCheck s 1 (b.take 128 ++ (b.drop p.off).take p.len) ((b.drop p.dsb).take 17152) with
  | some d => some (d, p.dsb)
  | none => if p.svn < s.sec.svn.getD k 0 then some (fdRollback, 0x40 + 16 * k + 2) else none

/-- Why a package fails: detail of R483 and byte offset. -/
def fwCheck (s : State) (b : List Byte) : Option (Nat × Nat) :=
  if b.length < 12 then some (fdFormat, 0)
  else if leAt b 8 4 ≠ b.length then some (fdSize, 8)
  else
    match fwHeaderBad b with
    | some o => some (fdFormat, o)
    | none => ((fwParts b).zip (List.range 3)).findSome? fun x => fwPartBad s b x.2 x.1

/-- FW_VER of a package. -/
def fwVersion (b : List Byte) : W32 := BitVec.ofNat 32 (leAt b 0xC 4)

/-- Measurements of a package: the DIGEST of each signature block (R534). -/
def fwMeas (b : List Byte) : List (List Byte) := (fwParts b).map fun p => (b.drop (p.dsb + 0x10)).take 48

/-- The package running now. -/
def runningPkg (s : State) : List Byte := if s.sec.bank then s.sec.flash1 else s.sec.flash0

/-- Rollback counters rise to the SVNs of the running components (R536). -/
def raiseSvn (b : List Byte) (s : State) : State :=
  let v := ((fwParts b).zip s.sec.svn).map fun x => max x.1.svn x.2
  { s with sec := { s.sec with svn := v } }

/-! ## Staging (R480) -/

/-- The staging area is taken by an activation, or by PLDM in update mode (R480, R546). -/
def stagingBusy (s : State) : Bool := s.mp.activating || decide (s.sec.pldm ≠ .idle)

/-- A package that passes becomes the staged image. -/
def stageImage (b : List Byte) (s : State) : State :=
  fwEvent 0x0604 0 0 { s with mp := { s.mp with staged := some (fwVersion b, b) } }

/-- FW_STAGE: `host` is the image as the host read returns it. While the staging area is taken the command waits. -/
def execFwStage (fn : Nat) (host : Option (List Byte)) (s : State) : Host.Outcome State Fault Refusal :=
  if fn = 0 ∧ stagingBusy s then .next s
  else .next (onMbx fn 0x50 { pfOnly := true, targeted := false, named := [(8, 8), (0x10, 4)] } (fun m s =>
    let n := m.arg 0x10 4
    if m.arg 8 8 % 64 ≠ 0 then mbxBad fn 8 s
    else if 33554432 < n then endMbx fn meRejected fdSize 0x10 [] s
    else
      mbxRead fn m [(m.arg 8 8, n)] (fun s =>
        match whole n (hostGave s m.port host) with
        | none => mbxErr fn meHost s
        | some b =>
          match fwCheck s b with
          | some (d, o) => endMbx fn meRejected d o [] s
          | none => endMbx fn 0 0 0 (leBytes (fwVersion b).toNat 4) (stageImage b s)) s) s)

/-! ## Activation (R481, R482, R497, R536) -/

/-- The standby of the active core. -/
def setStandby (st : McState) (s : State) : State :=
  if s.mp.actSel then { s with mp := { s.mp with stA := st } } else { s with mp := { s.mp with stB := st } }

/-- Steps 1 and 2 begin: the events are set and the standby leaves lockstep. -/
def beginActivation (mbx : Option Nat) (s : State) : State :=
  let s := hawEventAll 4 (hawEventAll 3 s)
  setStandby .testing { s with mp := { s.mp with
    activating := true, actStep := 2, actMbx := mbx, lockstep := false, returnFrom := none } }

/-- The update of PLDM ends with the activation it started (R546). -/
def pldmOver (x : SecSt) : SecSt := if x.pldm = .activate then { x with pldm := .idle } else x

/-- The activation is given up: lockstep is restored when the standby can rejoin, and the staged image is discarded. -/
def dropActivation (lock : Bool) (s : State) : State :=
  let s := if lock then setStandby .standby s else s
  let mp := { s.mp with
    activating := false, actStep := 0, actMbx := none, staged := none, lockstep := lock || s.mp.lockstep }
  { s with mp := mp, sec := pldmOver s.sec }

/-- The commands held during the quiesce are served in the order of their GO (R481, step 5). -/
def releaseHeld (s : State) : State :=
  let held := sortOn (fun fn => (s.getMbx fn).goNo) ((s.mbx.filter fun e => e.2.held).map (·.1))
  forEach (fun fn s => refuseUnknown fn (s.modMbx fn fun m => { m with held := false })) held s

/-- How an activation that PLDM started, or a mailbox, hears of its end. -/
def answerActivation (err detail : Nat) (payload : List Byte) (s : State) : State :=
  match s.mp.actMbx with
  | some fn => endMbx fn err detail 0 payload s
  | none => s

/-- An activation fails: the event names the detail, and what was held goes on under the old firmware. -/
def failActivation (err detail : Nat) (lock : Bool) (s : State) : State :=
  let s := answerActivation err detail [] s
  releaseHeld (dropActivation lock (fwEvent 0x0604 0 (2 + 256 * detail) s))

/-- FW_ACTIVATE: an image is staged, and EXPECT_VER is its version. A pair that is not in lockstep has no standby to
load it (log 88). -/
def execFwActivate (fn : Nat) (s : State) : Host.Outcome State Fault Refusal :=
  .next (onMbx fn 0x51 { pfOnly := true, targeted := false, named := [(8, 4)] } (fun m s =>
    match s.mp.staged with
    | none => endMbx fn meRejected fdNotStaged 8 [] s
    | some (v, _) =>
      if m.arg 8 4 ≠ v.toNat then endMbx fn meRejected fdVersion 8 [] s
      else if s.mp.activating ∨ !s.mp.lockstep then mbxErr fn meState s
      else beginActivation (some fn) (s.modMbx fn fun m => { m with started := true })) s)

/-- FW_STANDBY_VERIFIED: the standby has loaded the staged image and verified it again; every mailbox is held, or the
activation ends (R481 steps 2 and 3, R482). -/
def execFwStandbyVerified (ok : Bool) (s : State) : Host.Outcome State Fault Refusal :=
  if !s.mp.activating ∨ s.mp.actStep ≠ 2 ∨ s.mp.arbitrating then .next s
  else
    match s.mp.staged with
    | none => .next s
    | some (_, b) =>
      match fwCheck s b, ok with
      | none, true => .next { s with mp := { s.mp with actStep := 3 } }
      | some (d, _), _ => .next (failActivation meRejected d true s)
      | none, false => .next (failActivation meRejected fdFormat true s)

/-- A mailbox command that runs: not held, not a wait in progress that carries over (drains, PROFILE_SET), not the
activation itself, and not a FW_STAGE that waits for its end (R480, R481 step 4). -/
def mbxRuns (s : State) (e : Nat × Mbx) : Bool :=
  decide (e.2.st = .busy) && !e.2.held && decide (some e.1 ≠ s.mp.actMbx) && decide (e.2.mop ≠ 0x50) &&
  !(e.2.started && [0x11, 0x21, 0x22, 0x40].contains e.2.mop)

/-- Loaded plans in ascending instance, then plan ID. -/
def loadedPlans (s : State) : List (Nat × Nat) :=
  (s.insts.map fun e =>
    sortOn (fun (x : Nat × Nat) => x.2) ((e.2.plans.filter fun p => p.ready && !p.gone).map fun p => (e.1, p.id))).flatten

/-- The staged package is written into the bank that does not run (R536). -/
def writeBank (b : List Byte) (s : State) : State :=
  if s.sec.bank then { s with sec := { s.sec with flash0 := b } } else { s with sec := { s.sec with flash1 := b } }

/-- Steps 4 to 6: the standby takes ACT_SEL with the new image, and every plan is to be checked again. -/
def handOver (v : W32) (b : List Byte) (s : State) : State :=
  let now := !s.mp.actSel
  let ps := loadedPlans s
  let idle := fun (h : McHealth) => { h with contOk := false }
  let s := { s with mp := { s.mp with
    healthA := if now then s.mp.healthA else idle s.mp.healthA, healthB := if now then idle s.mp.healthB else s.mp.healthB,
    actSel := now, stA := if now then .testing else .active, stB := if now then .active else .testing,
    runVer := v, actStep := 7, reloads := ps } }
  let s := mcSwitch now 5 s
  let s := writeBank b { s with sec := { s.sec with meas := fwMeas b }, disp := { s.disp with reloading := ps } }
  let s := answerActivation 0 0 (leBytes v.toNat 4) s
  releaseHeld { s with mp := { s.mp with actMbx := none } }

/-- FW_HANDOVER: once no mailbox command runs; `ok` tells whether the new firmware passes its takeover self-check (R482). -/
def execFwHandover (ok : Bool) (s : State) : Host.Outcome State Fault Refusal :=
  if !s.mp.activating ∨ s.mp.actStep ≠ 3 ∨ s.mp.arbitrating ∨ s.mbx.any (mbxRuns s) then .next s
  else
    match s.mp.staged with
    | none => .next s
    | some (v, b) =>
      if ok then .next (handOver v b s)
      else
        -- the standby takes ACT_SEL, and the former active core takes it back (R482)
        .next (failActivation meRejected fdTakeover false (mcSwitch s.mp.actSel 5 (mcSwitch (!s.mp.actSel) 5 s)))

/-- FW_REJOIN: after the plans the former active core loads the new image and rejoins lockstep; the bank of the new image
becomes preferred, and the rollback counters rise (R481 step 8, R536). The former staged image now runs. -/
def execFwRejoin (s : State) : Host.Outcome State Fault Refusal :=
  let ready := decide ((if s.mp.actSel then s.mp.stA else s.mp.stB) = .testing)
  if !s.mp.activating ∨ s.mp.actStep ≠ 7 ∨ !s.mp.reloads.isEmpty ∨ s.mp.arbitrating ∨ !ready then .next s
  else
    match s.mp.staged with
    | none => .next s
    | some (_, b) =>
      let bank := !s.sec.bank
      let s := raiseSvn b { s with sec := { pldmOver s.sec with bank := bank, preferred := bank } }
      let s := setStandby .standby { s with mp := { s.mp with
        lockstep := true, activating := false, actStep := 0, staged := none,
        returnFrom := if s.mp.actSel then some s.time else none } }
      let s := fwEvent 0x0604 0 1 s
      .next (mcSwitch s.mp.actSel 6 s)

end Sys2Proof.Machine
end

