-- ==== Sys2Proof/Machine/Resets.lean ====
section
/-!
DEFINITION. Resets, pads, power-up and the boot chain (R10, R515, R521, R534 to R536, R578 to R588).
-/

namespace Sys2Proof.Machine

/-! ## What a module reset keeps (R583) -/

/-- An object as the journal holds it (R422): publications that are not durable are lost. -/
def durableObj (o : StoreObj) : StoreObj :=
  { o with cur := o.dur, created := true, wfault := false, deleted := false, goneAt := 0 }

/-- The SSDs and the durable contents of the store; it is not mounted. -/
def resetStore (x : StoreSt) : StoreSt :=
  { StoreSt.reset with
    ssds := x.ssds.map fun e => (e.1, { e.2 with pool := false, failed := false, failCount := 0 }),
    objs := (x.objs.filter fun o => o.durExists).map durableObj }

/-- OTP and boot flash stay; the lifecycle state burned takes effect, a debug unlock ends, SEC_NONCE is new. -/
def resetSec (x : SecSt) : SecSt :=
  { SecSt.reset with
    lifecycle := x.fuse, fuse := x.fuse, bank := x.bank, svn := x.svn, nonceNo := x.nonceNo + 1, revoked := x.revoked,
    keysGone := x.keysGone, flash0 := x.flash0, flash1 := x.flash1, preferred := x.preferred }

/-- The role is the strap's again; a top manager holds HBAR0_OUT_N low while in reset (R574, R585). -/
def resetLnk (manager : Bool) (x : LnkSt) : LnkSt :=
  { LnkSt.reset with
    manager := manager, level := if manager then 1 else 0, hbar0In := x.hbar0In, hbar0Out := x.hbar0In && !manager,
    hbar1In := x.hbar1In, hbar1Out := x.hbar1In }

/-- Everything a module reset clears (R583). -/
def clearModule (s : State) : State :=
  { State.reset with
    pending := s.pending, seed := s.seed, time := s.time, log := s.log, out := s.out, pads := s.pads,
    store := resetStore s.store, sec := resetSec s.sec, lnk := resetLnk s.pads.roleSel s.lnk,
    mp := { MpSt.reset with arbs := s.mp.arbs },
    pwr := { PwrSt.reset with
      refLost := s.pwr.refLost, refLoc := s.pwr.refLoc, reduced := s.pwr.reduced,
      sagLim := if s.pwr.reduced then [(0, 12), (1, 12), (2, 12), (3, 12)] else [] } }

/-- Something still holds the module in reset (R584, R586). -/
def resetHeld (p : PadSt) : Bool := p.porHeld || p.modRstLow || p.perstLow || p.thermalHold || !p.vinOk || !p.railsOk

/-- The module is in reset as long as something holds it; then the boot is due. HBAR0_OUT_N of a top manager follows its
input again at the end of the reset. -/
def settleReset (s : State) : State :=
  let held := resetHeld s.pads
  let s := { s with pads := { s.pads with inReset := held, bootDue := true, booted := false } }
  if held then s else { s with lnk := { s.lnk with hbar0Out := s.lnk.hbar0In } }

/-- The cause of the newest RESET_CAUSE entry becomes a lower one (R585). -/
def amendCause (cause : Nat) (l : LogSt) : LogSt :=
  let rec go : List LogEnt → List LogEnt
    | [] => []
    | e :: t => if e.code = 0x0802 then { e with detail := BitVec.ofNat 32 cause } :: t else e :: go t
  { l with entries := go l.entries }

/-- A trigger of a module reset (R583, R585): the entry is written before the reset it records. Triggers within one AON
cycle make one reset and one entry with the lowest cause; a trigger in reset writes none. -/
def moduleReset (cause : Nat) (s : State) : State :=
  if s.pads.porHeld then settleReset s
  else
    match s.pads.lastCause with
    | some (t, c) =>
      if t = s.time ∧ !s.pads.booted then
        let low := min c cause
        settleReset { s with log := if cause < c then amendCause low s.log else s.log, pads := { s.pads with lastCause := some (t, low) } }
      else if s.pads.inReset then settleReset s
      else
        let s := logEvent 0x0802 0x00 0 cause none s
        settleReset (clearModule { s with pads := { s.pads with lastCause := some (s.time, cause) } })
    | none =>
      if s.pads.inReset then settleReset s
      else
        let s := logEvent 0x0802 0x00 0 cause none s
        settleReset (clearModule { s with pads := { s.pads with lastCause := some (s.time, cause) } })

/-! ## Triggers (R515, R521, R583, R584) -/

/-- VIN_RESET: VIN has stayed below 38.0 V for 1 µs. -/
def execVinReset (s : State) : Host.Outcome State Fault Refusal :=
  .next (moduleReset 0 { s with pads := { s.pads with vinOk := false } })

/-- RAIL_RESET: a rail of domains 1 to 40 has left its limits for 1 µs. -/
def execRailReset (dom : Nat) (s : State) : Host.Outcome State Fault Refusal :=
  if dom = 0 ∨ 40 < dom then .next s else .next (moduleReset 1 s)

/-- THERMAL_TRIP: the module resets and is held until it has cooled (R521). -/
def execThermalTrip (sensor : Nat) (s : State) : Host.Outcome State Fault Refusal :=
  if 96 ≤ sensor then .next s else .next (moduleReset 2 { s with pads := { s.pads with thermalHold := true } })

/-- THERMAL_HOLD_END: every on-die sensor reads below 90 °C. -/
def execThermalHoldEnd (s : State) : Host.Outcome State Fault Refusal :=
  if s.pads.thermalHold then .next (settleReset { s with pads := { s.pads with thermalHold := false } }) else .next s

/-- MOD_RST_N_ASSERT: the pad has been low for 1 µs. -/
def execModRstNAssert (s : State) : Host.Outcome State Fault Refusal :=
  .next (moduleReset 4 { s with pads := { s.pads with modRstLow := true } })

/-- PERST_N_ASSERT: the pad has been low for 1 µs. -/
def execPerstNAssert (s : State) : Host.Outcome State Fault Refusal :=
  .next (moduleReset 5 { s with pads := { s.pads with perstLow := true } })

/-- RESET_RELEASE: PERST_N, or MOD_RST_N, rises. -/
def execResetRelease (perst : Bool) (s : State) : Host.Outcome State Fault Refusal :=
  let p := s.pads
  if perst ∧ p.perstLow then .next (settleReset { s with pads := { p with perstLow := false } })
  else if !perst ∧ p.modRstLow then .next (settleReset { s with pads := { p with modRstLow := false } })
  else .next s

/-! ## Power-on reset and power-up (R10, R581, R582, R586) -/

/-- POWER_ON_RESET: VAUX, or the rail of domain 0, has failed. The log, module time and RWS fields go too; the regulators
are off. -/
def execPowerOnReset (s : State) : Host.Outcome State Fault Refusal :=
  let s := clearModule s
  .next { s with
    time := 0, log := { entries := [], next := 0 }, mp := MpSt.reset,
    pads := { s.pads with
      porHeld := true, inReset := true, thermalHold := false, vauxOk := false, vinOk := false, railsOk := false,
      lastCause := none, bootDue := true, booted := false } }

/-- POWER_ON_RESET_RELEASE: VAUX has been in range for 2 ms; the straps are sampled, module time and the log start
from 0. -/
def execPowerOnResetRelease (s : State) : Host.Outcome State Fault Refusal :=
  if !s.pads.porHeld then .next s
  else
    let p := s.pads
    let s := { s with
      time := 0, log := { entries := [], next := 0 },
      pads := { p with porHeld := false, vauxOk := true, roleSel := p.rolePad, i3cAddr := p.i3cPad },
      lnk := resetLnk p.rolePad s.lnk }
    .next (settleReset s)

/-- The reduced mode below 42.0 V: frond clocks at 1.2 GHz at most (R515). -/
def reducedMode (low : Bool) (s : State) : State :=
  let s := { s with pwr := { s.pwr with reduced := low } }
  if low then forBelow (fun d s => { s with pwr := { s.pwr with sagLim := s.pwr.sagLim.set 24 d 12 } }) 4 s else s

/-- VIN_APPLIED: VIN, in mV, has reached 40.0 V; the regulators start and the rails come up. -/
def execVinApplied (vin : Nat) (s : State) : Host.Outcome State Fault Refusal :=
  if vin < 40000 ∨ s.pads.porHeld ∨ s.pads.vinOk then .next s
  else .next (settleReset (reducedMode (decide (vin < 42000)) { s with pads := { s.pads with vinOk := true, railsOk := true } }))

/-! ## The boot chain (R534 to R536) -/

/-- Why the package of a bank does not boot; in MANUFACTURE an unsigned FSL is admitted (R543). -/
def bootCheck (s : State) (b : List Byte) : Option Nat :=
  if s.sec.lifecycle ≠ 0 then (fwCheck s b).map (·.1)
  else if b.length < 12 ∨ leAt b 8 4 ≠ b.length then some fdSize
  else
    match fwHeaderBad b with
    | some _ => some fdFormat
    | none =>
      ((fwParts b).zip (List.range 3)).findSome? fun x =>
        if x.2 = 0 then (if x.1.svn < s.sec.svn.getD 0 0 then some fdRollback else none)
        else (fwPartBad s b x.2 x.1).map (·.1)

/-- Firmware runs: both cores in lockstep, MC-A active; mailboxes take commands. -/
def startFirmware (bank fallback : Bool) (b : List Byte) (s : State) : State :=
  let s := { s with
    sec := { s.sec with bank := bank, fallback := fallback, meas := fwMeas b },
    mem := { s.mem with sysUp := true },
    mp := { s.mp with runVer := fwVersion b },
    pads := { s.pads with booted := true } }
  forEach (fun (e : Nat × Mbx) s => refuseUnknown e.1 s) s.mbx (raiseSvn b s)

/-- BOOT: the preferred bank, then the other (R535); recovery when both fail. `refLoc`: REFCLK_LOC toggles at the release
of the reset (R500, R588). A DECOMMISSIONED module stops after step 1. -/
def execBoot (refLoc : Bool) (s : State) : Host.Outcome State Fault Refusal :=
  if !s.pads.bootDue ∨ s.pads.inReset ∨ s.pads.porHeld then .next s
  else
    let s := { s with
      pads := { s.pads with bootDue := false, lastCause := none }, pwr := { s.pwr with refLoc := refLoc } }
    if s.sec.lifecycle = 3 then .next s
    else
      let p := s.sec.preferred
      let pkg := fun (k : Bool) => if k then s.sec.flash1 else s.sec.flash0
      match bootCheck s (pkg p) with
      | none => .next (startFirmware p false (pkg p) s)
      | some d =>
        let s := { s with sec := { s.sec with bootErr := BitVec.ofNat 8 d } }
        let s := logEvent 0x0604 0x02 0 (2 + 256 * d) none s
        match bootCheck s (pkg !p) with
        | none => .next (startFirmware (!p) true (pkg !p) s)
        | some e =>
          let s := { s with sec := { s.sec with bootErr := BitVec.ofNat 8 e, recovery := true } }
          .next (logEvent 0x0604 0x02 0 (2 + 256 * e) none s)

end Sys2Proof.Machine
end

