-- ==== Sys2Proof/Machine/Lichen.lean ====
section
/-!
DEFINITION. The Lichen pair (R484 to R498): arbitration, the standby's self-test, retest, rejoin and the return to MC-A.
A core is named by a Bool: false MC-A, true MC-B.
-/

namespace Sys2Proof.Machine

/-! ## The two cores -/

/-- State of a core. -/
def coreSt (core : Bool) (s : State) : McState := if core then s.mp.stB else s.mp.stA

/-- Sets the state of a core. -/
def setCore (core : Bool) (st : McState) (s : State) : State :=
  if core then { s with mp := { s.mp with stB := st } } else { s with mp := { s.mp with stA := st } }

/-- Changes the health of a core. -/
def modHealth (core : Bool) (f : McHealth → McHealth) (s : State) : State :=
  if core then { s with mp := { s.mp with healthB := f s.mp.healthB } }
  else { s with mp := { s.mp with healthA := f s.mp.healthA } }

/-- Health of a core. -/
def healthOf (core : Bool) (s : State) : McHealth := if core then s.mp.healthB else s.mp.healthA

/-- MC_SWITCH: the active core and the cause (R489). -/
def logSwitch (cause : Nat) (s : State) : State := mcSwitch s.mp.actSel cause s

/-- The 100 ms of R496 begin when MC-B is active in lockstep. -/
def countReturn (s : State) : State :=
  { s with mp := { s.mp with returnFrom := if s.mp.actSel && s.mp.lockstep then some s.time else none } }

/-- A core is out of lockstep and of service until a retest passes (R495). -/
def takeOut (core : Bool) (s : State) : State :=
  let s := setCore core .out (modHealth core (fun h => { h with retests := 0 }) s)
  { s with mp := { s.mp with lockstep := false, returnFrom := none } }

/-! ## Arbitration (R489 to R493) -/

/-- An arbitration begins: in lockstep both cores test themselves, else the active one alone. -/
def beginArb (cause : Nat) (s : State) : State :=
  let s := { s with mp := { s.mp with
    arbitrating := true, arbCause := cause, arbSecond := false, arbFrom := s.time, arbs := s.mp.arbs + 1 } }
  let s := setCore s.mp.actSel .testing s
  if s.mp.lockstep then setCore (!s.mp.actSel) .testing s else s

/-- A fault before step 4 of R481 abandons the activation: INTERNAL, the staged image is discarded (R497). -/
def abandonActivation (s : State) : State :=
  if s.mp.activating ∧ s.mp.actStep ≤ 3 then
    let s := answerActivation meInternal 0 [] s
    releaseHeld (dropActivation false (fwEvent 0x0604 0 2 s))
  else s

/-- A watchdog or a fault of a core (R490, R493, R497): in lockstep an arbitration; the standby alone is taken out
without a hold; the sole active core tests itself alone. -/
def coreFault (cause : Nat) (core : Bool) (s : State) : State :=
  if s.mp.arbitrating ∨ s.pads.inReset ∨ coreSt core s = .out then s
  else if s.mp.lockstep then beginArb cause s
  else
    let s := abandonActivation s
    if core = s.mp.actSel then beginArb cause s else takeOut core s

/-- MC_DIVERGE: two copies differ; it cannot be seen outside lockstep, and joins an arbitration in progress. -/
def execMcDiverge (s : State) : Host.Outcome State Fault Refusal :=
  if s.mp.arbitrating ∨ s.pads.inReset ∨ !s.mp.lockstep then .next s else .next (beginArb 0 s)

/-- MC_WATCHDOG. -/
def execMcWatchdog (core : Bool) (s : State) : Host.Outcome State Fault Refusal := .next (coreFault 1 core s)

/-- MC_CORE_FAULT. -/
def execMcCoreFault (core : Bool) (s : State) : Host.Outcome State Fault Refusal := .next (coreFault 2 core s)

/-- The result of a self-test in a core's health. -/
def testResult (core fail : Bool) (slice : Byte) (s : State) : State :=
  modHealth core (fun h => { h with
    stPass := !fail, stFail := fail, failSlice := if fail then slice else h.failSlice }) s

/-- The arbitration ends with an active core: MC_SWITCH, the time of the hold, the count of R496, and the outputs that
the gate held. -/
def endArb (s : State) : State :=
  let s := modHealth s.mp.actSel (fun h => { h with contOk := false }) s
  let us := (s.time - s.mp.arbFrom) / 1000
  let s := { s with mp := { s.mp with arbitrating := false, lastUs := BitVec.ofNat 32 (min us (2 ^ 32 - 1)) } }
  openGate (countReturn (logSwitch s.mp.arbCause s))

/-- ARBITRATION_VERDICT: the self-tests have ended (R490, R492). -/
def execArbitrationVerdict (failA failB : Bool) (sliceA sliceB : Byte) (s : State) : Host.Outcome State Fault Refusal :=
  if !s.mp.arbitrating then .next s
  else
    let act := s.mp.actSel
    let both := s.mp.lockstep
    let s := if both || !act then testResult false failA sliceA s else s
    let s := if both || act then testResult true failB sliceB s else s
    let pass := fun (c : Bool) => (both || decide (c = act)) && !(if c then failB else failA)
    if !pass act && !pass (!act) then
      if s.mp.arbSecond then .next (moduleReset 3 s) else .next { s with mp := { s.mp with arbSecond := true } }
    else if both && s.mp.arbCause == 1 && pass act && pass (!act) then .next (moduleReset 3 s)
    else if pass act then
      let s := setCore act .active s
      if !both then .next (endArb s)
      else if pass (!act) then .next (endArb (setCore (!act) .standby s))
      else .next (endArb (takeOut (!act) s))
    else
      let s := takeOut act { s with mp := { s.mp with actSel := !act } }
      .next (endArb (setCore (!act) .active s))

/-! ## Self-test of the standby (R494), retest and rejoin (R495), return (R496) -/

/-- STANDBY_SWEEP_DONE: a failed sweep takes the standby out; `slice` is the slice that failed. -/
def execStandbySweepDone (ok : Bool) (slice : Byte) (s : State) : Host.Outcome State Fault Refusal :=
  let c := !s.mp.actSel
  if !s.mp.lockstep ∨ s.mp.arbitrating ∨ s.pads.inReset then .next s
  else
    let s := modHealth c (fun h => { h with
      contOk := ok, contFail := !ok, failSlice := if ok then h.failSlice else slice }) s
    if ok then .next s else .next (logSwitch 3 (takeOut c s))

/-- MC_RETEST of the core that is out; three failures keep it out until module reset. A core that passes rejoins. -/
def execMcRetest (ok : Bool) (slice : Byte) (s : State) : Host.Outcome State Fault Refusal :=
  let c := !s.mp.actSel
  if coreSt c s ≠ .out ∨ s.mp.arbitrating ∨ s.pads.inReset ∨ 3 ≤ (healthOf c s).retests then .next s
  else
    let s := testResult c (!ok) slice s
    if ok then .next (setCore c .testing s)
    else .next (modHealth c (fun h => { h with retests := h.retests + 1 }) s)

/-- MC_REJOIN: a core that has passed its retest, or whose activation was given up, has the active core's state and
re-enters lockstep. -/
def execMcRejoin (s : State) : Host.Outcome State Fault Refusal :=
  let c := !s.mp.actSel
  if s.mp.lockstep ∨ s.mp.arbitrating ∨ s.mp.activating ∨ s.pads.inReset ∨ coreSt c s ≠ .testing then .next s
  else
    let s := setCore c .standby { s with mp := { s.mp with lockstep := true } }
    .next (logSwitch 6 (countReturn s))

/-- MC_RETURN: MC-B has been active in lockstep for 100 ms without an arbitration. -/
def execMcReturn (s : State) : Host.Outcome State Fault Refusal :=
  if !s.mp.actSel ∨ !s.mp.lockstep ∨ s.mp.arbitrating ∨ s.mp.activating ∨ s.pads.inReset then .next s
  else
    match s.mp.returnFrom with
    | none => .next s
    | some t =>
      if s.time < t + 100000000 then .next s
      else
        let s := { s with mp := { s.mp with actSel := false, stA := .active, stB := .standby, returnFrom := none } }
        .next (logSwitch 4 (modHealth false (fun h => { h with contOk := false }) s))

end Sys2Proof.Machine
end

