-- ==== Sys2Proof/Machine/Regs.lean ====
section
/-!
DEFINITION. Writes of registers that have no command of their own: BAR0 (R25 to R29, R378, R436, R460, R472, R548 and the
register tables of the chapters) and the digest context ports (R314, R315, R319).
-/

namespace Sys2Proof.Machine

/-! ## Parts of a write -/

/-- Bytes [off, off + n) replaced in a register of w bits. -/
def regPut {w : Nat} (r : BitVec w) (off : Nat) (d : List Byte) : BitVec w :=
  let m := 2 ^ (8 * d.length)
  let hi := r.toNat / 2 ^ (8 * off) / m * m
  BitVec.ofNat w ((hi + leNat d) * 2 ^ (8 * off) + r.toNat % 2 ^ (8 * off))

/-- Naturally aligned, with a power-of-two size of at most m bytes. -/
def alignedWrite (off n m : Nat) : Bool := [1, 2, 4, 8, 16, 32, 64].contains n && decide (n ≤ m) && decide (off % n = 0)

/-- The 4-byte writes that a write of 4 or 8 bytes is made of: offset and bytes. -/
def words (off : Nat) (d : List Byte) : List (Nat × W32) :=
  (List.range (d.length / 4)).map fun k => (off + 4 * k, BitVec.ofNat 32 (leAt d (4 * k) 4))

/-! ## Reserved ranges (R25, R26, R28) -/

/-- A reserved range of a function's BAR0; the queue window of an SQ at or above the quota is one too, and so is all of the
BAR0 of an ABSENT instance but its mailbox (R28, R438). -/
def barReserved (s : State) (fn off : Nat) : Bool :=
  let inR := fun (lo hi : Nat) => decide (lo ≤ off) && decide (off < hi)
  let window := inR 0x100000 0x200000 &&
    (decide ((s.inst fn).res.sqs ≤ (off - 0x100000) / 128) || decide (off % 128 / 4 = 1) ||
     decide (0x10 ≤ off % 128 ∧ off % 128 < 0x40))
  if fn ≠ 0 ∧ (s.inst fn).st = .absent then !inR 0x1000 0x2000
  else if fn = 0 then
    inR 0x2000 0x10000 || inR 0xD0000 0x100000 || inR 0x208000 0x210000 || inR 0x210100 0x300000 || decide (0x400000 ≤ off) || window
  else inR 0x2000 0x10000 || inR 0xD0000 0xE0000 || inR 0xE0400 0xE8000 || inR 0xE8008 0xF0000 || decide (0x200000 ≤ off) || window

/-! ## HAW (R472) -/

/-- HAW_EVENTS is RW1C, HAW_EVENT_EN is RW; its message goes through the port that wrote it (R551). -/
def writeHaw (fn port off : Nat) (w : W32) (s : State) : State :=
  let h := s.getHaw fn
  if off = 0x00C then s.setHaw fn { h with events := h.events &&& ~~~(w.truncate 5) }
  else if off = 0x058 then s.setHaw fn { h with en := w.truncate 5, vector := field w 26 16, port := port }
  else s

/-! ## MSI-X (R25, R26, R400) -/

/-- Sends the pending messages of a vector that is no longer masked. -/
def flushMsix (fn v : Nat) (s : State) : State :=
  if msixMasked s fn v then s
  else
    let mine := s.lnk.msixPend.filter fun e => decide (e.2 = (fn, v))
    let s := { s with lnk := { s.lnk with msixPend := s.lnk.msixPend.filter fun e => decide (e.2 ≠ (fn, v)) } }
    forEach (fun (e : Nat × Nat × Nat) s => hostOut e.1 (.msix e.1 fn v) s) mine s

/-- Writes a part of an MSI-X table entry. -/
def writeMsix (fn off : Nat) (d : List Byte) (s : State) : State :=
  let v := off / 16
  let k := 2048 * fn + v
  let e := regPut (s.lnk.msix.get msixReset k) (off % 16) d
  flushMsix fn v { s with lnk := { s.lnk with msix := s.lnk.msix.set msixReset k e } }

/-! ## Registers of the PF (R265, R330, R356, R436, R548) -/

/-- Clears a bit that was written with 1. -/
def w1c (w : W32) (b : Nat) (x : Bool) : Bool := x && !w.getLsbD b

/-- GO of SEC_TOKEN_CTL starts a token attempt; while one runs it is discarded (R545). -/
def tokenGo (w : W32) (s : State) : State :=
  if w.getLsbD 31 ∧ s.sec.tokenSt ≠ .busy then { s with sec := { s.sec with tokenSt := .busy, tokenErr := 0 } } else s

/-- One 4-byte write to the register blocks of the PF. -/
def writePf (off : Nat) (w : W32) (s : State) : State :=
  if off = 0x070010 then { s with pwr := { s.pwr with idle1 := w.truncate 24 } }
  else if off = 0x070014 then { s with pwr := { s.pwr with idle2 := w.truncate 24 } }
  else if off = 0x070018 then { s with pwr := { s.pwr with idle3 := w.truncate 24 } }
  else if off = 0x090030 ∨ off = 0x090034 then
    { s with sec := { s.sec with tokenAddr := regPut s.sec.tokenAddr (off - 0x090030) (leBytes w.toNat 4) } }
  else if off = 0x090038 then tokenGo w s
  else if off = 0x060008 then
    { s with mem := { s.mem with ueSeen := w1c w 29 s.mem.ueSeen, cfSeen := w1c w 28 s.mem.cfSeen } }
  else if off = 0x060028 then
    if w.getLsbD 31 then { s with mem := { s.mem with errInfo := s.mem.errInfo &&& 0x7FFFFFFF } } else s
  else if 0x031000 ≤ off ∧ off < 0x031400 ∧ off % 256 = 0 then
    let u := (off - 0x031000) / 256
    s.setCmu u { s.cmu u with shadowErr := w1c w 14 (s.cmu u).shadowErr }
  else if 0x051000 ≤ off ∧ off < 0x051400 ∧ off % 256 = 0 then
    let u := (off - 0x051000) / 256
    s.setDgu u { s.dgu u with alarm := w1c w 29 (s.dgu u).alarm }
  else s

/-- In a VF view the record of an error of the VF's own may be cleared (R356); every other write is discarded. -/
def writeVf (fn off : Nat) (w : W32) (s : State) : State :=
  if off = 0x060028 ∧ w.getLsbD 31 ∧ field s.mem.errInfo 23 16 = fn ∧ !s.mem.errInfo.getLsbD 15 then
    { s with mem := { s.mem with errInfo := s.mem.errInfo &&& 0x7FFFFFFF } }
  else s

/-! ## Mailbox (R460, R461) -/

/-- A write within the mailbox. The doorbell's GO starts the command. -/
def writeMbx (fn port off : Nat) (d : List Byte) (s : State) : State :=
  if off < 0x40 then s.modMbx fn fun m => { m with cmd := regPut m.cmd off d }
  else
    forEach (fun (x : Nat × W32) s =>
      if x.1 = 0x40 then s.modMbx fn fun m => { m with seq := x.2 }
      else if x.1 = 0x48 ∧ x.2.getLsbD 0 then mbxGo fn port x.2 s
      else s) (words off d) s

/-! ## BAR0 (R27) -/

/-- A write that the access rules admit, in a range that is not reserved. Registers with a command of their own (tail,
head, spore window, CMU_CMPCFG) and read-only ones are left as they are. -/
def writeBar (fn port off : Nat) (d : List Byte) (s : State) : State :=
  if 0x1000 ≤ off ∧ off < 0x2000 then writeMbx fn port (off - 0x1000) d s
  else if fn = 0 ∧ 0x200000 ≤ off ∧ off < 0x208000 then writeMsix fn (off - 0x200000) d s
  else if fn ≠ 0 ∧ 0xE0000 ≤ off ∧ off < 0xE0400 then writeMsix fn (off - 0xE0000) d s
  else
    forEach (fun (x : Nat × W32) s =>
      if x.1 < 0x1000 then writeHaw fn port x.1 x.2 s
      else if x.1 < 0x100000 then (if fn = 0 then writePf x.1 x.2 s else writeVf fn x.1 x.2 s)
      else s) (words off d) s

/-- The sizes that an offset accepts: 4 or 8 bytes; up to 64 in the command buffer; none in the spore window but its own
command (R27, R378). -/
def writeAdmitted (off n : Nat) : Bool :=
  if 0x1000 ≤ off ∧ off < 0x1040 then alignedWrite off n 64
  else if 0x100000 ≤ off ∧ off < 0x200000 ∧ 0x40 ≤ off % 128 then decide (n = 64) && decide (off % 64 = 0)
  else (n = 4 ∨ n = 8) && decide (off % n = 0)

/-- A write to a context port (R314, R315, R319): settings are kept until START, and ignored while ACTIVE; any write while
FAILED fails the message with ORDER. -/
def ctxPortWrite (u k acc off : Nat) (d : List Byte) (s : State) : State :=
  let setting := decide (8 ≤ off ∧ off + d.length ≤ 0x10) || decide (0x40 ≤ off ∧ off + d.length ≤ 0x80) ||
    decide (0x100 ≤ off ∧ off + d.length ≤ 0x1C0)
  onPort u k acc (fun x s =>
    if x.st = .failed then failCtx u k dtOrder s
    else if x.st = .active ∨ !setting then s
    else s.setCtx u k { x with regs := Tbl.write 0 x.regs off d }) s

/-- Host software sets NumVFs and VF Enable in configuration space, for which the table has no row: an access of a VF shows that they
are set (R437; log 170). -/
def vfSeen (fn : Nat) (s : State) : State :=
  if fn = 0 then s
  else { s with lnk := { s.lnk with
    vfEnable := true, numVfs := max s.lnk.numVfs ((fn - s.lnk.firstVf) / s.lnk.vfStride + 1) } }

/-- REGISTER_WRITE. -/
def execRegisterWrite (tgt : WrTarget) (data : List Byte) (s : State) : Host.Outcome State Fault Refusal :=
  match tgt with
  | .ctxPort unit slot acc off => .next (ctxPortWrite unit slot acc off data s)
  | .bar0 fn port off =>
    if s.pads.inReset ∨ 255 < fn ∨ 1 < port ∨ data.isEmpty ∨ 2 ^ 26 ≤ off then .next s
    else
      let s := vfSeen fn s
      if barReserved s fn off then .next s
      else if !writeAdmitted off data.length then .next (badAccess fn off s)
      else .next (writeBar fn port off data s)

end Sys2Proof.Machine
end

