-- ==== Sys2Proof/Machine/HostPorts.lean ====
section
/-!
DEFINITION. The host ports (R552) and CXL.mem (R341, R553).
-/

namespace Sys2Proof.Machine

/-- HOST_PORT_OUT_OF_L0: writes start to wait. -/
def execHostPortOutOfL0 (port : Nat) (s : State) : Host.Outcome State Fault Refusal :=
  if 1 < port then .next s else .next (s.setHostPort port { s.hostPort port with up := false })

/-- Reads of entries of an ACTIVE SQ are pending. -/
def fetchPending (q : Sq) : Bool := decide (q.st = .active) && !q.reads.isEmpty

/-- Every host read of a command on the port fails (R552). -/
def failHostRead (slot : Nat) (s : State) : State :=
  match s.cmd slot with
  | none => s
  | some c =>
    if c.phase ≠ .hostRead ∨ c.outcome.isSome then s
    else if c.opc = 0x10 ∨ c.opc = 0x12 then storeDataRead slot c none s
    else if c.opc = 0x15 then createRead slot c none s
    else if c.opc = 0x20 ∨ c.opc = 0x21 then digestRead slot c none s
    else if c.opc = 0x30 then matchUpdateRead slot c none s
    else if c.opc = 0x31 then matchSearchRead slot c none s
    else failCmd slot stHost s

/-- Every stream GET of a frond that reads host memory through the port fails. -/
def failHostGets (port f : Nat) (s : State) : State :=
  if itemPort f s ≠ port then s
  else
    forBelow (fun tag s =>
      let t := (s.frond f).tags.get StreamTag.idle tag
      if t.st = .pending ∧ t.space = 1 ∧ !t.put then endRequest f tag none s else s) 16 s

/-- HOST_LINK_ABSENCE_TIMEOUT: the port has been out of L0 for 1 ms; every read pending on it fails. -/
def execHostLinkAbsenceTimeout (port : Nat) (s : State) : Host.Outcome State Fault Refusal :=
  let p := s.hostPort port
  if 1 < port ∨ p.up ∨ p.absent then .next s
  else
    let s := s.setHostPort port { p with
      absent := true, waitQ := p.waitQ.filter fun m => match m with | .read .. => false | _ => true }
    let slots := (s.ring.cmds.filter fun e => e.2.any fun c => decide ((s.sq c.inst c.sq).port = port)).map (·.1)
    let sqs := (s.ring.sqs.filter fun e => decide (e.2.port = port) && fetchPending e.2).map (·.1)
    let s := forEach failHostRead slots s
    let s := forEach (failHostGets port) (s.fronds.map (·.1)) s
    .next (forEach (fun k s => sqError (keyInst k) (keyNum k) 3 s) sqs s)

/-- A query whose last writes have left through the port reaches its commit point (R74). -/
def endWriteWait (port slot : Nat) (s : State) : State :=
  match s.cmd slot with
  | none => s
  | some c => if c.phase = .writeWait ∧ (s.sq c.inst c.sq).port = port then succeed slot c.r0 s else s

/-- HOST_LINK_RETURN: the port is in L0 again; what waits is sent in order. -/
def execHostLinkReturn (port : Nat) (s : State) : Host.Outcome State Fault Refusal :=
  let p := s.hostPort port
  if 1 < port ∨ p.up then .next s
  else
    let s := { s with out := { s.out with host := s.out.host ++ p.waitQ } }
    let s := s.setHostPort port { up := true, absent := false, waitQ := [] }
    .next (forEach (endWriteWait port) (s.ring.cmds.map (·.1)) s)

/-- HOT_RESET of a port, or link disable: a function-level reset of the PF and of every VF; what waits for the port is
discarded. -/
def execHotReset (port : Nat) (s : State) : Host.Outcome State Fault Refusal :=
  if 1 < port then .next s
  else
    let s := s.setHostPort port { s.hostPort port with waitQ := [], owners := [] }
    .next (resetPf (s.modMbx 0 fun m => { m with lastSeq := none }))

/-! ## CXL.mem (R341, R553): instance 0's data region from device address 0 -/

/-- The address lies in the range of the decoder. -/
def inCxl (s : State) (a : Nat) : Bool := decide (a < (s.inst 0).res.dataPages * pageSize) && decide (a < 2 ^ 40)

/-- A host access shows that CXL.mem is enabled (log 90). -/
def cxlSeen (s : State) : State := { s with lnk := { s.lnk with cxlOn := true } }

/-- The line lies in a system frame, which the bitmap of R342 refuses. -/
def cxlSystem (s : State) (a : Nat) : Bool :=
  match translate s 0 a false with
  | .phys p => isSysFrame s (frameAt p)
  | _ => false

/-- CXL_MEM_READ of a line: a poisoned one, and one that the system-frame bitmap refuses, give a CXL poison response (R342,
R553); one of another colour gives zeros (R335). -/
def execCxlMemRead (addr : Nat) (s : State) : Host.Outcome State Fault Refusal :=
  if !inCxl s addr then .next s
  else
    let r := devReadN 0 (addr / 64 * 64) 64 (cxlSeen s)
    let m : MemResp := match r.2.1 with
      | none => .data r.1
      | some (.poison, _) => .cxlPoison
      | some (.colour, _) => if cxlSystem s (addr / 64 * 64) then .cxlPoison else .data (zeros 64)
      | some (.map, _) => .mapFault
    .next { r.2.2 with out := { r.2.2.out with mem := m } }

/-- CXL_MEM_WRITE within one line: checked as a request of instance 0. -/
def execCxlMemWrite (addr : Nat) (data : List Byte) (s : State) : Host.Outcome State Fault Refusal :=
  if !inCxl s addr ∨ data.isEmpty ∨ 64 < addr % 64 + data.length then .next s
  else
    let r := devWriteN 0 addr data (cxlSeen s)
    let m : MemResp := match r.1 with
      | none => .ok
      | some (.poison, _) => .ok
      | some (.colour, _) => .colour
      | some (.map, _) => .mapFault
    .next { r.2 with out := { r.2.out with mem := m } }

end Sys2Proof.Machine
end

