-- ==== Sys2Proof/Machine/FanOut.lean ====
section
/-!
DEFINITION. What frames of a fan-out command do at the module they are for (R142, R143, R563, R568 to R575).
-/

namespace Sys2Proof.Machine

/-- A frame that has arrived for this module: the route and hops back to its sender, and its fields (R564). -/
structure Got where
  back : W32
  hops : Nat
  inst : Nat
  fseq : Nat
  xid : W64
  payload : List Byte
  deriving DecidableEq, Repr

/-! ## Senders -/

/-- ACKF of a frame. -/
def ackGot (g : Got) (s : State) : State := sendFrame ftAckf g.hops g.back g.inst g.xid 0 (leBytes g.fseq 4) s

/-- The worker of a table that sent a frame. -/
def workerAt (ws : List Worker) (g : Got) : Option Nat :=
  (List.range ws.length).find? fun j => ws[j]?.any fun w => decide (w.route = g.back) && decide (w.hops = g.hops)

/-- The peer of the exchange group that sent a frame. -/
def fromPeer (s : State) (g : Got) : Option Nat :=
  (List.range s.lnk.peers.length).find? fun j => decide (s.lnk.peers[j]? = some (g.back, g.hops))

/-- The record of a fan-out identity. -/
def fanBy (s : State) (xid : W64) : Option Fan := s.lnk.fans.find? fun f => f.xid = xid

/-- Changes the record of a fan-out identity. -/
def modXid (xid : W64) (f : Fan → Fan) (s : State) : State :=
  { s with lnk := { s.lnk with fans := s.lnk.fans.map fun x => if x.xid = xid then f x else x } }

/-- FAIL with a status. -/
def sendFail (route : W32) (hops inst : Nat) (xid : W64) (st : Nat) (s : State) : State :=
  sendFrame ftFail hops route inst xid 0 (leBytes st 2) s

/-! ## Failures (R572) -/

/-- RESULT0 of a failure on another module: the EXCHANGE by which it shows here, where that is known; the item is not known here
(R77, R151; log 24). -/
def remoteR0 (q : QueryRun) (n : Option Nat) (s : State) : W64 × State :=
  let r := s.freshNat
  match n with
  | none => (BitVec.ofNat 64 (2 ^ 48 * (r.1 / 2 ^ 32 % 2 ^ 16) + r.1 % 2 ^ 32), r.2)
  | some n => (BitVec.ofNat 64 (2 ^ 56 * n + 2 ^ 48 * (((pipeOps q.plan n).length - 1) % 256) + r.1 % 2 ^ 32), r.2)

/-- A failure on another module is the END of a failed item. -/
def remoteFailure (slot : Nat) (n : Option Nat) (st : Nat) (s : State) : State :=
  match (s.cmd slot).bind queryRun with
  | none => s
  | some q =>
    let r := remoteR0 q n s
    endIfFailed slot (recordFailure slot st r.1 r.2)

/-- This module's part of a fan-out fails. -/
def failPart (xid : W64) (n : Option Nat) (st : Nat) (s : State) : State :=
  match (fanBy s xid).bind (·.slot) with
  | some slot => remoteFailure slot n st s
  | none => s

/-- The queries of an instance outside any fan-out that run EXCHANGE n, or some EXCHANGE, fail: their frames carry no identity that
tells them apart (log 72). -/
def failAlone (i : Nat) (n : Option Nat) (st : Nat) (s : State) : State :=
  forEach (fun (k : Nat) s =>
    match liveQuery s k with
    | none => s
    | some (c, q) =>
      let open_ := (List.range q.plan.pipes.length).filter fun m =>
        decide (breakerOf q.plan m = 4) && (q.pipe m).started && !(q.pipe m).finished && (n.isNone || decide (n = some m))
      if c.inst = i ∧ (fanOf s k).isNone then
        (match open_ with | m :: _ => remoteFailure k (some m) st s | [] => s)
      else s) (s.ring.cmds.map (·.1)) s

/-- A FAIL frame: from a worker it goes on toward the top, or is the top's; from any other module it fails this module's
own part (R572, R573). -/
def gotFail (g : Got) (s : State) : State :=
  let st := leAt g.payload 0 2
  match fanBy s g.xid with
  | none => if g.xid = 0 then failAlone g.inst none st s else s
  | some f =>
    if f.top then failPart g.xid none st s
    else if (workerAt (fanWorkers s f) g).isSome then sendFail s.lnk.mgrRoute s.lnk.mgrHops g.inst g.xid st s
    else failPart g.xid none st s

/-! ## STOP and BARRIER_ARM travel down, their acknowledgements up (R572, R575) -/

/-- Acknowledges the manager's frames of a fan-out for which no worker's answer is awaited any more. -/
def payOwed (xid : W64) (s : State) : State :=
  match fanBy s xid with
  | none => s
  | some f =>
    let ready := f.owed.filter fun o => o.2.isEmpty
    let s := modXid xid (fun f => { f with owed := f.owed.filter fun o => !o.2.isEmpty }) s
    forEach (fun (o : Nat × List Nat) s =>
      sendFrame ftAckf s.lnk.mgrHops s.lnk.mgrRoute f.inst xid 0 (leBytes o.1 4) s) ready s

/-- The record of a stopped fan-out goes once its part has ended and nobody is still to be answered. -/
def dropStopped (xid : W64) (s : State) : State :=
  match fanBy s xid with
  | none => s
  | some f => if !f.top && f.stopped && f.slot.isNone && f.owed.isEmpty then dropFan xid s else s

/-- Forwards a STOP or BARRIER_ARM to the workers; its acknowledgement waits for theirs. -/
def relay (ft : Nat) (g : Got) (s : State) : State :=
  let ws := ((fanBy s g.xid).map (fanWorkers s)).getD s.lnk.workers
  if ws.isEmpty then ackGot g s
  else
    let s := modXid g.xid (fun f => { f with owed := f.owed ++ [(g.fseq, List.range ws.length)] }) s
    forEach (fun (w : Worker) s => sendFrame ft w.hops w.route g.inst g.xid 0 g.payload s) ws s

/-- A worker has acknowledged a STOP or an arm: the oldest frame owed for it. -/
def payWorker (xid : W64) (w : Nat) (s : State) : State :=
  let rec pay : List (Nat × List Nat) → List (Nat × List Nat)
    | [] => []
    | (q, ws) :: t => if ws.contains w then (q, ws.erase w) :: t else (q, ws) :: pay t
  dropStopped xid (payOwed xid (modXid xid (fun f => { f with owed := pay f.owed }) s))

/-- STOP: every item and job of the command ends, and the STOP goes on down. -/
def gotStop (g : Got) (s : State) : State :=
  match fanBy s g.xid with
  | none => ackGot g s
  | some f =>
    let s := modXid g.xid (fun f => { f with stopped := true, lastFrame := s.time }) s
    let s := relay ftStop g s
    let s := match f.slot with
      | some slot => presentOutcome slot stAborted 0 s
      | none => s
    dropStopped g.xid s

/-- BARRIER_ARM: the breaker waits for the next falling edge of HBAR1_IN_N. -/
def gotArm (g : Got) (s : State) : State :=
  match fanBy s g.xid with
  | none => ackGot g s
  | some f =>
    let n := leAt g.payload 0 1
    let s := modXid g.xid (fun f => { f with armed := f.armed ++ [n], lastFrame := s.time }) s
    let s := match f.slot with
      | some slot => modPipe slot n (fun p => { p with armed := true }) s
      | none => s
    relay ftBarrier g s

/-- The falling edge of HBAR1_IN_N finishes every armed breaker (R575). -/
def barrierEdge (f : Fan) (s : State) : State :=
  let s := modXid f.xid (fun f => { f with armed := [] }) s
  match f.slot with
  | none => s
  | some slot =>
    let s := forEach (fun n s => modPipe slot n (fun p =>
      if p.armed then { p with edge := true, armed := false, finished := true } else p) s) f.armed s
    settle slot s

/-! ## END (R143, R571, R575) -/

/-- The top arms the breaker once every worker has reported END for it. -/
def armIfEnded (xid : W64) (n : Nat) (s : State) : State :=
  match fanBy s xid with
  | none => s
  | some f =>
    if !f.top ∨ f.armed.contains n ∨ !workersEnded s f n then s
    else
      let s := modXid xid (fun f => { f with armed := f.armed ++ [n] }) s
      forEach (fun (w : Worker) s => sendFrame ftBarrier w.hops w.route f.inst xid 0 (leBytes n 1) s) (fanWorkers s f) s

/-- END: a worker's report, or the end mark of a peer. -/
def gotEnd (g : Got) (s : State) : State :=
  let n := leAt g.payload 0 1
  match fanBy s g.xid with
  | none => s
  | some f =>
    match workerAt (fanWorkers s f) g, f.slot with
    | some w, slot =>
      let s := modXid g.xid (fun f => if f.ends.contains (endKey n w) then f else { f with ends := f.ends ++ [endKey n w] }) s
      let s := armIfEnded g.xid n s
      (match slot with
        | some k => if f.top then s else settle k (reportUp k n s)
        | none => s)
    | none, some k =>
      (match fromPeer s g with
        | some d => reportUp k n (modPipe k n (fun p => if p.endMarks.contains d then p else { p with endMarks := p.endMarks ++ [d] }) s)
        | none => s)
    | none, none => s

/-! ## XDATA (R143, R563) -/

/-- A reassembly that has received nothing. -/
def newReasm (g : Got) (pipe part : Nat) : Reasm :=
  { xid := g.xid, inst := g.inst, sender := g.back, xpipe := pipe, part := part, xcol := 0, cseq := 0, open_ := false,
    bytes := [], cols := [] }

/-- The reassembly of a sender, pipeline and partition. -/
def reasmOf (s : State) (g : Got) (pipe part : Nat) : Reasm :=
  (s.lnk.reasm.find? fun r => decide (r.xid = g.xid) && decide (r.sender = g.back) && decide (r.xpipe = pipe) && decide (r.part = part)).getD
    (newReasm g pipe part)

/-- Stores a reassembly. -/
def putReasm (r : Reasm) (s : State) : State :=
  let rest := s.lnk.reasm.filter fun x =>
    !(decide (x.xid = r.xid) && decide (x.sender = r.sender) && decide (x.xpipe = r.xpipe) && decide (x.part = r.part))
  { s with lnk := { s.lnk with reasm := rest ++ [r] } }

/-- Rows of a batch from its columns. -/
def batchRows (cols : List (List Val)) : List (List Val) :=
  (List.range ((cols.map (·.length)).foldl max 0)).map fun k => cols.map fun c => c.getD k .null

/-- The number by which a partition orders what senders deliver: the sender's index. -/
def senderIndex (s : State) (g : Got) : Nat :=
  match (fanBy s g.xid).bind fun f => workerAt (fanWorkers s f) g with
  | some w => w
  | none => (fromPeer s g).getD 0

/-- The reassembly area of a chunk (R563). -/
def Reasm.area (r : Reasm) : Area := { kind := .received, id := r.part, pages := r.pages, used := r.bytes.length }

/-- Appends a segment to the reassembly area, with the pages that it takes; the status of the first failure, `stWaits` while no frame
is free yet. -/
def storeSegment (slot : Nat) (r : Reasm) (d : List Byte) (s : State) : Except Nat Reasm × State :=
  match takePages slot r.inst 0 (pagesFor (r.bytes.length + d.length) - r.pages.length) s with
  | (.error e, s) => (.error e, s)
  | (.ok ps, s) =>
    let n := r.bytes.length
    let r := { r with open_ := true, bytes := r.bytes ++ d, pages := r.pages ++ ps }
    match r.area.put r.inst n d s with
    | (some e, s) => (.error e, s)
    | (none, s) => (.ok r, s)

/-- Rows enter a partition of an EXCHANGE, in pages of the instance (R143). -/
def storeRows (slot i pipe part item : Nat) (tys : List Ty) (rows : List (List Val)) (q : QueryRun) (s : State) :
    Except Nat Unit × State :=
  match appendArea slot i 0 .received part (plainRows tys rows) (q.pipe pipe) s with
  | (.error e, s) => (.error e, s)
  | (.ok p, s) => (.ok (), modPipe slot pipe (fun _ => receiveRows part item rows p) s)

/-- A chunk is complete: its values, read from the reassembly area, join the batch; with the last column the rows enter the
partition's flow. A chunk that cannot be read fails the part, one that breaks the format with INTERNAL_ERROR: DESIGN CHOICE, log 177. -/
def chunkDone (g : Got) (slot : Nat) (q : QueryRun) (r : Reasm) (tys : List Ty) (s : State) : Except Nat Unit × State :=
  match r.area.readAll r.inst s with
  | (.error e, s) => (.error e, s)
  | (.ok b, s) =>
    match (headerCheck b b.length).bind fun h => decodeChunk h.1 h.2 with
    | none => (.error stInternal, s)
    | some vs =>
      let cols := r.cols ++ [vs]
      let next : Reasm := { r with cseq := r.cseq + 1, open_ := false, bytes := [] }
      if cols.length < tys.length then (.ok (), putReasm { next with xcol := r.xcol + 1, cols := cols } s)
      else
        match storeRows slot r.inst r.xpipe r.part (senderIndex s g) tys (batchRows cols) q s with
        | (.error e, s) => (.error e, s)
        | (.ok _, s) => (.ok (), settle slot (putReasm { next with xcol := 0, cols := [] } s))

/-- A segment: it must continue the chunk, the chunk must follow the one before, and the last segment ends at
CHUNK_LEN. None while the pages that it takes are still being scrubbed: it is not acknowledged, and the sender sends it again. -/
def gotSegment (g : Got) (slot : Nat) (q : QueryRun) (s : State) : Option State :=
  let p := g.payload
  let part := leAt p 0 2
  let pipe := leAt p 2 1
  let flags := leAt p 4 1
  let d := p.drop 24
  let r := reasmOf s g pipe part
  let tys := sentTypes q.plan pipe
  let total := leAt p 0x10 4
  let bad := decide (leAt p 8 4 ≠ r.cseq) || decide (leAt p 0xC 4 ≠ r.bytes.length) || decide (leAt p 3 1 ≠ r.xcol) ||
    (bit flags 0 != !r.open_) || decide (p.length < 25) || tys.isEmpty ||
    (bit flags 1 && decide (r.bytes.length + d.length ≠ total))
  let fail := fun (e : Nat) (s : State) => if e = stWaits then none else some (failPart g.xid (some pipe) e s)
  if bad then fail stInternal s
  else
    match storeSegment slot r d s with
    | (.error e, s) => fail e s
    | (.ok r, s) =>
      if !bit flags 1 then some (putReasm r s)
      else
        match chunkDone g slot q r tys s with
        | (.error e, s) => fail e s
        | (.ok _, s) => some s

/-- XDATA. Rows that come before this module's part of the fan-out runs are not taken and not acknowledged, so that the sender sends
them again; those for a part that is over, or for no fan-out, are acknowledged and dropped (R143; log 172). -/
def gotXdata (g : Got) (s : State) : Option State :=
  match fanBy s g.xid with
  | none => if g.xid = 0 then some s else none
  | some f =>
    match f.slot with
    | none => some s
    | some slot =>
      match takenQuery s slot with
      | none => some s
      | some _ => (liveQuery s slot).bind fun x => gotSegment g slot x.2 s

/-! ## FANOUT (R570, R571) -/

/-- The lowest slot for work of other modules that is free. -/
def freePart (s : State) : Nat :=
  ((List.range (s.ring.cmds.length + 1)).find? fun k => (s.cmd (nSlots + k)).isNone).getD 0 + nSlots

/-- The command that runs the worker part: it has no ring and writes no entry. -/
def partCmd (i level plan : Nat) (p : PlanEnt) (xid : W64) (s : State) : Cmd :=
  let q : QueryRun := {
    planId := plan, plan := p.plan, pb := [], inputs := [], outs := [], pipes := [], flows := 0, flowQ := [], dirDone := false,
    xid := xid.toNat, bound := p.boundFrom }
  { inst := i, sq := 0, first := BitVec.ofNat 512 (2 ^ 56 + 2 ^ 40 * level + plan), segs := [], accNo := s.ring.nextAcc,
    accepted := false, accTime := s.time, dupOf := none, phase := .handed, work := .query q, outcome := none, orig := 0,
    failure := none, r0 := 0, r1 := 0, step3 := false, deadline := none, timer := none, fenceOn := [], silent := true,
    pages := [] }

/-- FANOUT: the worker part starts, and the frame goes on to this module's workers. -/
def gotFanout (g : Got) (s : State) : State :=
  let left := leAt g.payload 0 8
  let plan := leAt g.payload 8 4
  if (fanBy s g.xid).isSome then s
  else
    match boundEnt s g.inst plan with
    | none => sendFail g.back g.hops g.inst g.xid stNoPlan s
    | some p =>
      let slot := freePart s
      let pb := g.payload.drop 16
      let s := s.setCmd slot (some (partCmd g.inst (leAt g.payload 12 1 % 8) plan p g.xid s))
      let s := { s with
        ring := { s.ring with nextAcc := s.ring.nextAcc + 1 },
        lnk := { s.lnk with fans := s.lnk.fans ++ [newFan g.xid.toNat g.inst slot false pb s.time s.ring.nextAcc] } }
      let s := if left = 0 ∨ !timerFree s g.inst then s
        else setDeadline slot g.inst (s.time + left) (s.modCmd slot fun c => { c with deadline := some (s.time + left) })
      startBlock slot pb s

end Sys2Proof.Machine
end

