-- ==== Sys2Proof/Machine/Hierarchy.lean ====
section
/-!
DEFINITION. Managers and workers: adoption, plan distribution, telemetry records, and the end of frames (R566 to R569, R526).
The payloads of MGMT frames are the model's own (log 93).
-/

namespace Sys2Proof.Machine

/-! ## Payloads of MGMT frames -/

/-- HELLO: the manager's level and UID, and the UID of the worker's entry. -/
def helloPayload (level : Nat) (entry : BitVec 128) : List Byte :=
  leBytes 1 1 ++ leBytes level 1 ++ zeros 6 ++ leBytes Config.uid.toNat 16 ++ leBytes entry.toNat 16

/-- CONFIG: the worker's index and its row of the peer matrix. -/
def configPayload (index : Nat) (row : List (W32 × Nat)) : List Byte :=
  leBytes 2 1 ++ leBytes index 1 ++ leBytes row.length 1 ++ zeros 5 ++
  (row.map fun e => leBytes e.1.toNat 4 ++ leBytes e.2 1 ++ zeros 3).flatten

/-- BYE: the manager's UID. -/
def byePayload : List Byte := leBytes 3 1 ++ zeros 7 ++ leBytes Config.uid.toNat 16

/-! ## SET_ROLE (R566) -/

/-- The role changes; a manager is level 1, a worker starts without a manager. -/
def takeRole (manager : Bool) (s : State) : State :=
  if s.lnk.manager = manager then s
  else { s with lnk := { s.lnk with
    manager := manager, adopted := false, level := if manager then 1 else 0, index := 0, peers := [], mgrUid := 0, mgrRoute := 0,
    mgrHops := 0 } }

/-- SET_ROLE: refused while a fan-out command runs. -/
def execSetRole (fn : Nat) (s : State) : Host.Outcome State Fault Refusal :=
  .next (onMbxSub fn 0x70 1 { pfOnly := true, targeted := false, named := [(0x08, 1), (0x09, 1)] } (fun m s =>
    let r := m.arg 9 1
    if 1 < r then mbxBad fn 9 s
    else if s.lnk.manager ≠ decide (r = 1) ∧ !s.lnk.fans.isEmpty then mbxErr fn meState s
    else mbxOk fn (takeRole (decide (r = 1)) s)) s)

/-! ## SET_WORKERS (R567) -/

/-- Entry i of a worker table of n entries. -/
def workerEntry (b : List Byte) (n i : Nat) : Worker :=
  let e := 64 + 32 * i
  let p := fun j => 64 + 32 * n + 8 * (i * n + j)
  { uid := BitVec.ofNat 128 (leAt b e 16), route := BitVec.ofNat 32 (leAt b (e + 16) 4), hops := leAt b (e + 20) 1,
    peers := (List.range n).map fun j => (BitVec.ofNat 32 (leAt b (p j) 4), leAt b (p j + 4) 1), adopted := false }

/-- The first worker whose entry or matrix row does not have the form of R567. -/
def badEntry (b : List Byte) (n : Nat) : Option Nat :=
  (List.range n).find? fun i =>
    let e := 64 + 32 * i
    let p := fun j => 64 + 32 * n + 8 * (i * n + j)
    !zeroAt b (e + 21) 11 || (List.range n).any (fun j => !zeroAt b (p j + 5) 3) || decide (leAt b (p i + 4) 1 ≠ 0)

/-- The header of a worker table. -/
def tableHead (b : List Byte) (n : Nat) : Bool :=
  decide (leAt b 0 4 = 0x5457515A) && decide (leAt b 4 1 = n) && zeroAt b 5 59

/-- SET_WORKERS ends with the index of the worker that did not accept; the previous table stays (R567). -/
def rejectWorkers (fn i : Nat) (s : State) : State :=
  endMbx fn meRejected i 0 [] { s with lnk := { s.lnk with
    newWorkers := [], helloFrom := none,
    sent := s.lnk.sent.filter fun x => !(decide (x.frame.ftype = ftMgmt) && decide (leAt x.frame.payload 0 1 = 1)) } }

/-- The worker tables to keep when the one in force is replaced: those under which a command or a fan-out accepted before still
runs (R23). -/
def keptTables (s : State) : List (Nat × List Worker) :=
  (s.lnk.oldTables ++ [(s.ring.nextAcc, s.lnk.workers)]).filter fun e =>
    s.ring.cmds.any (fun x => x.2.any fun c => decide (c.accNo < e.1)) || s.lnk.fans.any fun f => decide (f.acc < e.1)

/-- Every worker has accepted: those no longer named receive BYE, and the new ones CONFIG. Commands accepted before keep the table
that they were accepted under (R23). -/
def adoptTable (fn : Nat) (s : State) : State :=
  let new := s.lnk.newWorkers
  let gone := s.lnk.workers.filter fun w => !new.any fun v => v.uid = w.uid
  let s := forEach (fun (w : Worker) s => sendFrame ftMgmt w.hops w.route 0 0 0 byePayload s) gone s
  let s := { s with
    lnk := { s.lnk with workers := new, newWorkers := [], helloFrom := none, oldTables := keptTables s },
    tel := { s.tel with workers := [] } }
  let s := forEach (fun (x : Worker × Nat) s => sendFrame ftMgmt x.1.hops x.1.route 0 0 0 (configPayload x.2 x.1.peers) s)
    new.zipIdx s
  mbxOk fn s

/-- A HELLO to each worker of a table. -/
def sendHellos (fn : Nat) (ws : List Worker) (s : State) : State :=
  let s := s.modMbx fn fun m => { m with started := true }
  let s := { s with lnk := { s.lnk with newWorkers := ws, helloFrom := some (fn, s.time) } }
  forEach (fun (w : Worker) s => sendFrame ftMgmt w.hops w.route 0 0 0 (helloPayload s.lnk.level w.uid) s) ws s

/-- SET_WORKERS: the worker table as the host read returns it. A table of another form is REJECTED (log 94). -/
def execSetWorkers (fn : Nat) (host : Option (List Byte)) (s : State) : Host.Outcome State Fault Refusal :=
  .next (onMbxSub fn 0x70 2 { pfOnly := true, targeted := false, named := [(0x08, 1), (0x09, 1), (0x10, 8)] } (fun m s =>
    let n := m.arg 9 1
    if n = 0 ∨ 64 < n then mbxBad fn 9 s
    else if !s.lnk.manager && (!s.lnk.adopted || decide (s.lnk.level = 3)) then mbxErr fn meState s
    else
      let len := 64 + 32 * n + 8 * n * n
      mbxRead fn m [(m.arg 0x10 8, len)] (fun s =>
        match whole len (hostGave s m.port host) with
        | none => mbxErr fn meHost s
        | some b =>
          if !tableHead b n then endMbx fn meRejected 0 0 [] s
          else
            match badEntry b n with
            | some i => endMbx fn meRejected i 0 [] s
            | none => sendHellos fn ((List.range n).map (workerEntry b n)) s) s) s)

/-! ## HELLO, CONFIG, BYE at a worker (R567, R568) -/

/-- A worker accepts a HELLO when its role is worker, it has no manager or already this one, and the entry names it. -/
def acceptsHello (s : State) (g : Got) : Bool :=
  !s.lnk.manager && (!s.lnk.adopted || decide (s.lnk.mgrUid.toNat = leAt g.payload 8 16)) &&
  decide (leAt g.payload 24 16 = Config.uid.toNat)

/-- HELLO: what this module has seen from the sender before is forgotten, since a manager may have started again
(log 48). -/
def gotHello (g : Got) (s : State) : State :=
  if !acceptsHello s g then s
  else
    let key := routeKey g.back g.hops
    ackGot g { s with lnk := { s.lnk with
      adopted := true, mgrUid := BitVec.ofNat 128 (leAt g.payload 8 16), level := leAt g.payload 1 1 + 1, mgrRoute := g.back,
      mgrHops := g.hops, seen := s.lnk.seen.filter fun x => x.1 ≠ key } }

/-- CONFIG: the worker's index, its peers, and the way to its manager. -/
def gotConfig (g : Got) (s : State) : State :=
  if !s.lnk.adopted then s
  else
    let row := (List.range (leAt g.payload 2 1)).map fun j =>
      (BitVec.ofNat 32 (leAt g.payload (8 + 8 * j) 4), leAt g.payload (12 + 8 * j) 1)
    { s with lnk := { s.lnk with index := leAt g.payload 1 1, peers := row, mgrRoute := g.back, mgrHops := g.hops } }

/-- BYE: the worker loses its manager. -/
def gotBye (g : Got) (s : State) : State :=
  if !s.lnk.adopted ∨ s.lnk.mgrUid.toNat ≠ leAt g.payload 8 16 then s
  else { s with lnk := { s.lnk with
    adopted := false, level := 0, index := 0, peers := [], mgrUid := 0, mgrRoute := 0, mgrHops := 0 } }

/-! ## TELEM at a manager (R526, R576) -/

/-- TELEM: the record of a worker. -/
def gotTelem (g : Got) (s : State) : State :=
  match workerAt s.lnk.workers g with
  | none => s
  | some j =>
    let p := g.payload
    let r : WorkerRec := {
      timeRx := BitVec.ofNat 64 s.time, head := p.take 64, subCount := BitVec.ofNat 32 (leAt p 64 4),
      subPower := BitVec.ofNat 32 (leAt p 68 4), subHot := BitVec.ofNat 8 (leAt p 72 1) }
    { s with tel := { s.tel with workers := s.tel.workers.set .zero j r } }

/-! ## PLAN (R569) -/

/-- The slices of an image received so far. -/
def planGot (s : State) (i id : Nat) : List Byte :=
  ((s.lnk.planRx.find? fun e => decide (e.1 = i) && decide (e.2.1 = id)).map (·.2.2)).getD []

/-- Replaces the slices of an image. -/
def putPlan (i id : Nat) (b : Option (List Byte)) (s : State) : State :=
  let rest := s.lnk.planRx.filter fun e => !(decide (e.1 = i) && decide (e.2.1 = id))
  { s with lnk := { s.lnk with planRx := rest ++ (b.map fun d => (i, id, d)).toList } }

/-- The whole image has come: this module loads it as PLAN_LOAD does, and answers. -/
def planWhole (i id opt pbLen : Nat) (b : List Byte) (s : State) : State :=
  let img := b.take (b.length - pbLen)
  let answer := fun err d o s => endPlan (1000 + i) i id err d o [] s
  if (s.inst i).st = .absent then answer meLimit 0x0E 0 s
  else
    match beforeCopy s i id img.length (bit opt 0) with
    | some 0x0F => answer meExists 0x0F 8 s
    | some d => answer meLimit d 0x18 s
    | none => loadImage (1000 + i) i id opt img (b.drop (b.length - pbLen)) s

/-- A slice of an image; one that does not continue what has come is not taken and not acknowledged. -/
def planSliceCome (g : Got) (s : State) : Option State :=
  let p := g.payload
  let id := leAt p 4 4
  let off := leAt p 8 4
  let total := leAt p 12 4
  let had := if off = 0 then [] else planGot s g.inst id
  if off ≠ had.length then none
  else
    let b := had ++ p.drop 16
    if b.length < total then some (putPlan g.inst id (some b) s)
    else some (planWhole g.inst id (leAt p 1 1) (leAt p 2 2) b (putPlan g.inst id none s))

/-- A PLAN_UNLOAD that the manager applies, or the taking back of a load that failed elsewhere. -/
def planDropCome (g : Got) (s : State) : State :=
  let id := leAt g.payload 4 4
  let i := g.inst
  let s := putPlan i id none s
  let here := (s.inst i).plans.any fun p => decide (p.id = id) && p.ready && !p.gone
  if leAt g.payload 1 1 = 1 then
    let s := dropLoading i id (dropDist (1000 + i) s)
    planToWorkers i [planUndo id] (reapPlans i (unbindPlan i id s))
  else if !here then endPlan (1000 + i) i id meNotFound 0 0 [] s
  else
    let s := reapPlans i (unbindPlan i id s)
    finishPlan (1000 + i) i id false (distribute (1000 + i) i id false [planDrop id] s)

/-- The answer of a worker: the first failure by worker index counts (R569). -/
def planAnswered (i id w err detail off : Nat) (s : State) : State :=
  match s.lnk.planDist.find? fun d => decide (d.inst = i) && decide (d.planId = id) && d.waits.contains w with
  | none => s
  | some d =>
    let worse := decide (err ≠ 0) && (d.fail.isNone || d.fail.any fun f => decide (w < f.1))
    let d' := { d with waits := d.waits.erase w, fail := if worse then some (w, err, detail, off) else d.fail }
    let s := { s with lnk := { s.lnk with planDist := s.lnk.planDist.map fun x => if x = d then d' else x } }
    finishPlan d.key d.inst d.planId d.load s

/-- A PLAN frame; none when it is not taken. -/
def gotPlan (g : Got) (s : State) : Option State :=
  let p := g.payload
  match leAt p 0 1 with
  | 1 => planSliceCome g s
  | 2 => some (planDropCome g s)
  | 3 =>
    (match workerAt s.lnk.workers g with
      | some w => some (planAnswered g.inst (leAt p 4 4) w (leAt p 1 1) (leAt p 2 2) (leAt p 8 8) s)
      | none => some s)
  | _ => some s

/-! ## The end of a frame that was sent (R561, R567, R572, R575) -/

/-- The worker of this module that a sent frame went to. -/
def sentTo (ws : List Worker) (f : RFrame) : Option Nat :=
  (List.range ws.length).find? fun j => ws[j]?.any fun w => decide (w.route = f.route) && decide (w.hops = f.hops)

/-- A worker has accepted a HELLO. -/
def helloAcked (f : RFrame) (s : State) : State :=
  match sentTo s.lnk.newWorkers f, s.lnk.helloFrom with
  | some j, some (fn, _) =>
    let ws := s.lnk.newWorkers.zipIdx.map fun x => if x.2 = j then { x.1 with adopted := true } else x.1
    let s := { s with lnk := { s.lnk with newWorkers := ws } }
    if ws.all (·.adopted) then adoptTable fn s else s
  | _, _ => s

/-- A worker has acknowledged a STOP. -/
def stopAcked (f : RFrame) (w : Nat) (s : State) : State :=
  match fanBy s f.xid with
  | none => s
  | some x =>
    let s := modXid f.xid (fun x => if x.stopAcks.contains w then x else { x with stopAcks := x.stopAcks ++ [w] }) s
    if x.top then s else payWorker f.xid w s

/-- A worker has acknowledged an arm; once every one has, the top drives HBAR1_OUT_N low for 100 ns. -/
def armAcked (f : RFrame) (w : Nat) (s : State) : State :=
  let n := leAt f.payload 0 1
  match fanBy s f.xid with
  | none => s
  | some x =>
    if !x.top then payWorker f.xid w s
    else
      let acks := if x.armAcks.contains (endKey n w) then x.armAcks else x.armAcks ++ [endKey n w]
      let s := modXid f.xid (fun x => { x with armAcks := acks }) s
      if (List.range (fanWorkers s x).length).all fun j => acks.contains (endKey n j) then
        { s with out := { s.out with pulses := s.out.pulses + 1 } }
      else s

/-- What the acknowledgement of a frame means beyond the frame itself. -/
def frameAcked (f : RFrame) (s : State) : State :=
  if f.ftype = ftMgmt ∧ leAt f.payload 0 1 = 1 then helloAcked f s
  else
    match sentTo (((fanBy s f.xid).map (fanWorkers s)).getD s.lnk.workers) f with
    | some w => if f.ftype = ftStop then stopAcked f w s else if f.ftype = ftBarrier then armAcked f w s else s
    | none => s

/-- ACKF: the frame is no longer resent. -/
def gotAck (g : Got) (s : State) : State :=
  let q := leAt g.payload 0 4
  let hit := fun (x : SentFrame) => decide (x.frame.route = g.back) && decide (x.frame.hops = g.hops) && decide (x.frame.fseq = q)
  match s.lnk.sent.find? hit with
  | none => s
  | some x =>
    let s := frameAcked x.frame { s with lnk := { s.lnk with sent := s.lnk.sent.filter fun y => !hit y } }
    match (fanBy s x.frame.xid).bind (·.slot) with
    | some slot => settle slot (reportAll slot s)
    | none => s

/-- The EXCHANGE that a frame belongs to. -/
def exchangeOf (f : RFrame) : Option Nat :=
  if f.ftype = ftXdata then some (leAt f.payload 2 1) else if f.ftype = ftEnd then some (leAt f.payload 0 1) else none

/-- A frame of this module will not arrive: its fan-out command fails with LINK_DOWN, a plan change with INTERNAL, an
adoption with REJECTED (R560, R567, R569). -/
def frameLost (f : RFrame) (s : State) : State :=
  let s := { s with lnk := { s.lnk with sent := s.lnk.sent.filter fun x => x.frame ≠ f } }
  if f.xid ≠ 0 then failPart f.xid (exchangeOf f) stLink s
  else if (exchangeOf f).isSome then failAlone f.inst (exchangeOf f) stLink s
  else if f.ftype = ftPlan then
    match sentTo s.lnk.workers f with
    | some w => planAnswered f.inst (leAt f.payload 4 4) w meInternal 0 0 s
    | none => s
  else if f.ftype = ftMgmt ∧ leAt f.payload 0 1 = 1 then
    match sentTo s.lnk.newWorkers f, s.lnk.helloFrom with
    | some j, some (fn, _) => rejectWorkers fn j s
    | _, _ => s
  else s

/-! ## Frames for this module -/

/-- A frame for an instance that is neither ACTIVE nor RESIZING is discarded, and the sender's part fails (R573). -/
def refused (s : State) (ft i : Nat) : Bool :=
  (decide (ft = ftFanout) || decide (ft = ftXdata) || decide (ft = ftEnd) || decide (ft = ftFail) || decide (ft = ftBarrier)) &&
  !(decide ((s.inst i).st = .active) || decide ((s.inst i).st = .resizing))

/-- Whether an acknowledgement of a frame is still to come from this module. -/
def stillOwed (s : State) (g : Got) : Bool :=
  (fanBy s g.xid).any fun f => f.owed.any fun o => o.1 = g.fseq

/-- Remembers a frame, by its sender and FSEQ (log 48). -/
def markSeen (g : Got) (s : State) : State :=
  { s with lnk := { s.lnk with seen := s.lnk.seen ++ [(routeKey g.back g.hops, g.fseq)] } }

/-- A frame from the manager counts as one from the top (R572). -/
def heardTop (g : Got) (s : State) : State :=
  if s.lnk.mgrRoute = g.back ∧ s.lnk.mgrHops = g.hops then modXid g.xid (fun f => { f with lastFrame := s.time }) s else s

/-- An event whose code R477 does not list (log 91). -/
def logOpen (detail : Nat) (s : State) : State :=
  let r := s.freshNat
  logEvent (r.1 % 65535) 7 0 detail none r.2

/-- A frame of a known type that has come for the first time, with its acknowledgement. -/
def newFrame (ft sub : Nat) (g : Got) (s : State) : State :=
  if refused s ft g.inst then sendFail g.back g.hops g.inst g.xid stDenied (ackGot g (markSeen g s))
  else if ft = ftPlan then (gotPlan g (ackGot g (markSeen g s))).getD s
  else if ft = ftXdata then (gotXdata g (ackGot g (markSeen g s))).getD s
  else if ft = ftStop then gotStop g (markSeen g s)
  else if ft = ftBarrier then gotArm g (markSeen g s)
  else
    let s := ackGot g (markSeen g s)
    if ft = ftMgmt then (if sub = 2 then gotConfig g s else gotBye g s)
    else if ft = ftFanout then gotFanout g s
    else if ft = ftEnd then gotEnd g s
    else if ft = ftFail then gotFail g s
    else gotTelem g s

/-- A frame whose FCRC is right has come for this module (R561, R562). It wakes the module (R433); one that has come
before is only acknowledged again. -/
def ownFrame (ft sub : Nat) (g : Got) (s : State) : State :=
  let s := heardTop g (wake s)
  if ft = ftAckf then gotAck g s
  else if ft = 0 ∨ 0x0A < ft ∨ (ft = ftMgmt ∧ (sub = 0 ∨ 3 < sub)) then logOpen ft s
  else if ft = ftMgmt ∧ sub = 1 then gotHello g s
  else if s.lnk.seen.contains (routeKey g.back g.hops, g.fseq) then (if stillOwed s g then s else ackGot g s)
  else newFrame ft sub g s

end Sys2Proof.Machine
end

