-- ==== Sys2Proof/Machine/Links.lean ====
section
/-!
DEFINITION. Rhizome links: flits, retry, retraining, frames that pass through, the commands that bring a frame, the
timeouts of a fan-out, and the barrier pads (R556 to R564, R572, R574, R575).
-/

namespace Sys2Proof.Machine

/-! ## Frames that arrive (R564) -/

/-- The header after a frame has come in on link l: the ingress port stands in its nibble, HOP_IDX has advanced. -/
def crossed (l : Nat) (f : RFrame) : RFrame :=
  { f with route := setNibble f.route f.hopIdx l, hopIdx := (f.hopIdx + 1) % 256 }

/-- The bytes of a frame with the header after the crossing; nothing else changes on the way. -/
def crossedBytes (f : RFrame) (b : List Byte) : List Byte :=
  b.take 2 ++ leBytes f.hopIdx 1 ++ (b.drop 3).take 1 ++ leBytes f.route.toNat 4 ++ b.drop 8

/-- The frame as its destination sees it. -/
def gotOf (f : RFrame) : Got :=
  { back := replyRoute f.route f.hops, hops := f.hops, inst := f.inst, fseq := f.fseq, xid := f.xid, payload := f.payload }

/-- A frame has come in on link l in a virtual channel: for this module, or on to its next link. -/
def frameIn (l vc sub : Nat) (b : List Byte) (s : State) : State :=
  let f := crossed l (frameOf b)
  if b.length < 32 then logOpen 0 s
  else if 8 < f.hops then s
  else if f.hopIdx ≠ f.hops then linkBytes vc none f (crossedBytes f b) s
  else if !frameGood b then logOpen f.ftype s
  else ownFrame f.ftype sub (gotOf f) s

/-- The operation of a MGMT frame. -/
def mgmtOp (b : List Byte) : Nat := leAt b 32 1

/-! ## Retry (R559, R560) -/

/-- What a link has sent of kind k. -/
def sentFlit (l k q : Nat) (s : State) : State :=
  { s with out := { s.out with flits := s.out.flits ++ [(l, k, q)] } }

/-- A link begins to retrain. -/
def beginRetrain (l : Nat) (s : State) : State :=
  s.setLink l { s.link l with st := .retraining, retrain := (s.link l).retrain + 1, resends := 0 }

/-- Every flit of the window goes out again, in order. -/
def resendWindow (l : Nat) (s : State) : State := forEach (fun (f : Flit) s => sentFlit l 0 f.seq s) (s.link l).window s

/-- A resend of R559; the eighth in a row without progress begins a retrain instead of ending. -/
def resend (l : Nat) (s : State) : State :=
  let k := s.link l
  if k.st ≠ .up ∨ k.window.isEmpty then s
  else
    let s := resendWindow l (s.setLink l { k with replay := k.replay + 1, resends := k.resends + 1 })
    if 8 ≤ k.resends + 1 then beginRetrain l s else s

/-- ACKSEQ: the flits before it have arrived. -/
def takeAck (l ack : Nat) (s : State) : State :=
  let k := s.link l
  match k.window with
  | [] => s
  | f :: _ =>
    let n := (ack + 4096 - f.seq) % 4096
    if n = 0 ∨ k.window.length < n then s else s.setLink l { k with window := k.window.drop n, resends := 0 }

/-- A credit return. -/
def takeCredits (l vc n : Nat) (s : State) : State :=
  let k := s.link l
  s.setLink l { k with credits := k.credits.set 0 vc (k.credits.get 0 vc + n) }

/-- One NAK with the expected SEQ, until that SEQ arrives. -/
def sendNak (l : Nat) (s : State) : State :=
  let k := s.link l
  if k.naked then s else sentFlit l 2 k.expSeq (s.setLink l { k with naked := true })

/-- A DATA flit in its turn joins the frame of its virtual channel; the last one completes it. -/
def takeData (l : Nat) (f : FlitIn) (s : State) : State :=
  let k := s.link l
  let had := if f.sof then [] else k.rx.get [] f.vc
  let b := had ++ f.payload
  let k := { k with expSeq := (k.expSeq + 1) % 4096, naked := false }
  if f.eof then frameIn l f.vc (mgmtOp b) b (s.setLink l { k with rx := k.rx.set [] f.vc [] })
  else s.setLink l { k with rx := k.rx.set [] f.vc b }

/-- A flit whose CRC holds. -/
def goodFlit (l : Nat) (f : FlitIn) (s : State) : State :=
  if 3 < f.ftype then s
  else
    let s := pump l (takeCredits l (field f.crd 10 8) (field f.crd 7 0) (takeAck l (f.ackseq % 4096) s))
    if f.ftype = 2 then resend l s
    else if f.ftype ≠ 0 then s
    else if f.seq = (s.link l).expSeq then takeData l f s
    else sendNak l s

/-- FLIT_RECEIVE: a link that is UP takes every flit, one that trains the INIT flits that announce credits. -/
def execFlitReceive (link : Nat) (flit : FlitIn) (s : State) : Host.Outcome State Fault Refusal :=
  let k := s.link link
  let open_ := decide (k.st = .up) || (decide (k.st = .training) && decide (flit.ftype = 3))
  if 16 ≤ link ∨ s.pads.inReset ∨ !open_ then .next s
  else if !flit.crcOk then .next (sendNak link (s.setLink link { k with crcErr := k.crcErr + 1 }))
  else .next (goodFlit link flit s)

/-- FLIT_ACK_TIMEOUT: 1 µs without progress of ACKSEQ while flits are unacknowledged. -/
def execFlitAckTimeout (link : Nat) (s : State) : Host.Outcome State Fault Refusal :=
  if 16 ≤ link ∨ s.pads.inReset then .next s else .next (resend link s)

/-- FEC_BLOCK_LOCK_LOSS: the link retrains (R560). -/
def execFecBlockLockLoss (link : Nat) (s : State) : Host.Outcome State Fault Refusal :=
  if 16 ≤ link ∨ s.pads.inReset ∨ (s.link link).st ≠ .up then .next s else .next (beginRetrain link s)

/-- A link without flits, credits and sequence. -/
def idleLink (k : Link) (st : LinkState) : Link :=
  { k with
    st := st, window := [], sendQ := [], nextSeq := 0, expSeq := 0, naked := false, credits := [], rx := [], resends := 0 }

/-- The frames of this module with a flit outstanding on a link. -/
def framesOn (l : Nat) (s : State) : List RFrame :=
  let k := s.link l
  (s.lnk.sent.filter fun x =>
    (k.window ++ k.sendQ).any fun f => decide (f.own = some (routeKey x.frame.route x.frame.hops, x.frame.fseq))).map (·.frame)

/-- A retrain has failed: the link is DOWN, and every frame with a flit outstanding on it is lost. -/
def linkDown (l : Nat) (s : State) : State :=
  let lost := framesOn l s
  let s := logEvent 0x0901 7 0 l none (s.setLink l (idleLink (s.link l) .down))
  forEach frameLost lost s

/-- RHIZOME_RETRAIN_DONE: the end of a retrain, or of the training that a link-up began (log 95). -/
def execRhizomeRetrainDone (link : Nat) (ok : Bool) (s : State) : Host.Outcome State Fault Refusal :=
  let k := s.link link
  if 16 ≤ link then .next s
  else
    match k.st with
    | .retraining =>
      if ok then .next (pump link (resendWindow link (s.setLink link { k with st := .up, resends := 0 })))
      else .next (linkDown link s)
    | .training => .next (endHolder (.link link) (s.setLink link { k with st := if ok then .up else .down }))
    | _ => .next s

/-- LINK_UP_RETRY: a DOWN link asks for the grant of a bring-up; the grant starts the training (R508). -/
def execLinkUpRetry (link : Nat) (s : State) : Host.Outcome State Fault Refusal :=
  let asked := (s.pwr.grants ++ s.pwr.revoked ++ s.pwr.waits).any fun g => g.holder = .link link
  if 16 ≤ link ∨ s.pads.inReset ∨ (s.link link).st ≠ .down ∨ asked then .next s
  else
    .next (requestGrant Config.linkUnits Config.linkUs 7 none false none (.link link) (s.setLink link (idleLink (s.link link) .down)))

/-! ## Resending a frame (R561) -/

/-- FRAME_RESEND_TIMEOUT: 100 µs without ACKF. A frame whose link is DOWN is lost, and so is a HELLO that has not been
answered within the bound of SET_WORKERS. -/
def execFrameResendTimeout (route fseq : Nat) (s : State) : Host.Outcome State Fault Refusal :=
  let hit := fun (x : SentFrame) =>
    decide (routeKey x.frame.route x.frame.hops = route) && decide (x.frame.fseq = fseq) && decide (x.sentAt + 100000 ≤ s.time)
  match s.lnk.sent.find? hit with
  | none => .next s
  | some x =>
    let f := x.frame
    let hello := decide (f.ftype = ftMgmt) && decide (leAt f.payload 0 1 = 1)
    let late := hello && s.lnk.helloFrom.any fun h => decide (h.2 + 10000000 ≤ s.time)
    if (s.link (nibble f.route 0)).st = .down ∨ late then .next (frameLost f s)
    else
      let s := { s with lnk := { s.lnk with
        sent := s.lnk.sent.map fun y => if hit y then { y with sentAt := s.time } else y } }
      .next (linkFrame x.level f s)

/-! ## Commands that bring one frame -/

/-- The level of a frame that only passes through: its virtual channel is not an operand of these commands, so for
XDATA it is a free choice (log 96). -/
def passVc (ft : Nat) (s : State) : Nat × State :=
  if ft = ftXdata then
    let r := s.freshNat
    (vcOf ft (r.1 % 8), r.2)
  else (vcOf ft 0, s)

/-- A frame of type ft has come in on a link, whole. -/
def frameCome (ft sub l : Nat) (x : FrameIn) (s : State) : State :=
  let f : RFrame := {
    ftype := ft, hops := x.hops, hopIdx := x.hopIdx, inst := x.inst, route := x.route, fseq := x.fseq, xid := x.xid,
    payload := x.payload }
  if 16 ≤ l ∨ s.pads.inReset ∨ (s.link l).st ≠ .up then s
  else
    let r := passVc ft s
    frameIn l r.1 sub (frameBytes f) r.2

/-- HELLO. -/
def execHelloFrame (link : Nat) (fr : FrameIn) (s : State) : Host.Outcome State Fault Refusal :=
  .next (frameCome ftMgmt 1 link fr s)

/-- CONFIG. -/
def execConfigFrame (link : Nat) (fr : FrameIn) (s : State) : Host.Outcome State Fault Refusal :=
  .next (frameCome ftMgmt 2 link fr s)

/-- BYE. -/
def execByeFrame (link : Nat) (fr : FrameIn) (s : State) : Host.Outcome State Fault Refusal :=
  .next (frameCome ftMgmt 3 link fr s)

/-- PLAN. -/
def execPlanFrame (link : Nat) (fr : FrameIn) (s : State) : Host.Outcome State Fault Refusal :=
  .next (frameCome ftPlan 0 link fr s)

/-- FANOUT. -/
def execFanoutFrame (link : Nat) (fr : FrameIn) (s : State) : Host.Outcome State Fault Refusal :=
  .next (frameCome ftFanout 0 link fr s)

/-- XDATA. -/
def execXdataFrame (link : Nat) (fr : FrameIn) (s : State) : Host.Outcome State Fault Refusal :=
  .next (frameCome ftXdata 0 link fr s)

/-- END. -/
def execEndFrame (link : Nat) (fr : FrameIn) (s : State) : Host.Outcome State Fault Refusal :=
  .next (frameCome ftEnd 0 link fr s)

/-- ACKF. -/
def execAckFrame (link : Nat) (fr : FrameIn) (s : State) : Host.Outcome State Fault Refusal :=
  .next (frameCome ftAckf 0 link fr s)

/-- FAIL. -/
def execFailFrame (link : Nat) (fr : FrameIn) (s : State) : Host.Outcome State Fault Refusal :=
  .next (frameCome ftFail 0 link fr s)

/-- STOP. -/
def execStopFrame (link : Nat) (fr : FrameIn) (s : State) : Host.Outcome State Fault Refusal :=
  .next (frameCome ftStop 0 link fr s)

/-- BARRIER_ARM. -/
def execBarrierArmFrame (link : Nat) (fr : FrameIn) (s : State) : Host.Outcome State Fault Refusal :=
  .next (frameCome ftBarrier 0 link fr s)

/-- TELEM. -/
def execTelemFrame (link : Nat) (fr : FrameIn) (s : State) : Host.Outcome State Fault Refusal :=
  .next (frameCome ftTelem 0 link fr s)

/-! ## Timeouts of a fan-out (R572) -/

/-- FANOUT_STOP_TIMEOUT: 10 ms per level have passed since STOP; the workers that have not answered are logged, and the
top goes on. The levels below the top are at least one (log 97). -/
def execFanoutStopTimeout (xid : Nat) (s : State) : Host.Outcome State Fault Refusal :=
  match fanBy s (BitVec.ofNat 64 xid) with
  | none => .next s
  | some f =>
    if !f.top ∨ !f.stopped ∨ stopAnswered s f ∨ s.time < f.lastFrame + 10000000 then .next s
    else
      let left := (List.range (fanWorkers s f).length).filter fun w => !f.stopAcks.contains w
      let s := forEach logOpen left s
      .next (modXid f.xid (fun f => { f with stopAcks := f.stopAcks ++ left }) s)

/-- FANOUT_WORKER_TIMEOUT: 100 ms without a frame from the top; the module drops the command. -/
def execFanoutWorkerTimeout (xid : Nat) (s : State) : Host.Outcome State Fault Refusal :=
  match fanBy s (BitVec.ofNat 64 xid) with
  | none => .next s
  | some f =>
    if f.top ∨ s.time < f.lastFrame + 100000000 then .next s
    else
      let s := modXid f.xid (fun f => { f with stopped := true, owed := [] }) s
      match f.slot with
      | some slot => .next (presentOutcome slot stAborted 0 s)
      | none => .next (dropFan f.xid s)

/-! ## Barrier pads (R574, R575) -/

/-- A top manager holds HBAR0_OUT_N low in reset and during a thermal trip. -/
def holdsHbar0 (s : State) : Bool := s.lnk.manager && !s.lnk.adopted && (s.pads.inReset || s.pads.thermalHold)

/-- HBAR0_IN_FALL: OUT follows IN. -/
def execHbar0InFall (s : State) : Host.Outcome State Fault Refusal :=
  .next { s with lnk := { s.lnk with hbar0In := false, hbar0Out := false } }

/-- HBAR0_IN_RISE. -/
def execHbar0InRise (s : State) : Host.Outcome State Fault Refusal :=
  .next { s with lnk := { s.lnk with hbar0In := true, hbar0Out := !holdsHbar0 s } }

/-- A fan-out ends as by a STOP; a top presents ABORTED_BY_HOST. -/
def barStop (f : Fan) (s : State) : State :=
  let s := if f.top then s else modXid f.xid (fun f => { f with stopped := true }) s
  match f.slot with
  | some slot => presentOutcome slot stAborted 0 s
  | none => if f.top then s else dropStopped f.xid s

/-- HBAR0_STOP_HOLD: HBAR0_IN_N has been low for 100 ns. -/
def execHbar0StopHold (s : State) : Host.Outcome State Fault Refusal :=
  if s.lnk.hbar0In then .next s else .next (forEach barStop s.lnk.fans s)

/-- HBAR1_IN_FALL: OUT follows, and every armed breaker finishes. -/
def execHbar1InFall (s : State) : Host.Outcome State Fault Refusal :=
  if !s.lnk.hbar1In then .next s
  else
    let s := { s with lnk := { s.lnk with hbar1In := false, hbar1Out := false } }
    .next (forEach barrierEdge s.lnk.fans s)

/-- HBAR1_IN_RISE. -/
def execHbar1InRise (s : State) : Host.Outcome State Fault Refusal :=
  .next { s with lnk := { s.lnk with hbar1In := true, hbar1Out := true } }

end Sys2Proof.Machine
end

