-- ==== Sys2Proof/Machine/LogRead.lean ====
section
/-!
DEFINITION. Reading the event log (R453, R474, R475, R477, R478).
-/

namespace Sys2Proof.Machine

/-- Entries held, oldest first, with their sequence numbers. -/
def logHeld (s : State) : List (Nat × LogEnt) :=
  let n := s.log.entries.length
  (List.range' (s.log.next.toNat - n) n).zip s.log.entries.reverse

/-- Events that name an instance (R477); every other code is a module event. -/
def instEvents : List Nat :=
  [0x0101, 0x0102, 0x0103, 0x0104, 0x0105, 0x0106, 0x0201, 0x0303, 0x0404, 0x0406, 0x0504, 0x0505, 0x0601, 0x0602]

/-- The bytes of an entry (R475). -/
def entBytes (e : LogEnt) : List Byte :=
  leBytes e.time.toNat 8 ++ leBytes e.code.toNat 2 ++ [e.source, e.inst] ++ leBytes e.detail.toNat 4

/-- A first entry passes to a function: everything to the PF; to a VF module events, and its own events since its
instance was created (R478). -/
def passesFirst (s : State) (fn : Nat) (x : Nat × LogEnt) : Bool :=
  decide (fn = 0) || !instEvents.contains x.2.code.toNat ||
  (decide (x.2.inst.toNat = fn) && decide ((s.inst fn).logBase ≤ x.1))

/-- The entries that pass. An extension goes with its first entry; one whose first entry is no longer held is withheld
from a VF (log 89). -/
def passing (s : State) (fn : Nat) : Bool → List (Nat × LogEnt) → List (Nat × LogEnt)
  | _, [] => []
  | prev, x :: t =>
    let p := if x.2.code = 0xFFFF then prev else passesFirst s fn x
    if p then x :: passing s fn p t else passing s fn p t

/-- Entry n of the log that follows is an extension: the entry before it is the first of a pair. -/
def opensPair : List (Nat × LogEnt) → Bool
  | x :: _ => decide (x.2.code = 0xFFFF)
  | [] => false

/-- Takes entries while there is room; a pair is not separated, unless `alone` lets the first entry written stand alone
(R478). -/
def takeLog (alone : Bool) : Nat → List (Nat × LogEnt) → List (Nat × LogEnt)
  | 0, _ => []
  | _, [] => []
  | n + 1, x :: t =>
    if decide (x.2.code ≠ 0xFFFF) && opensPair t && decide (n = 0) && !alone then [] else x :: takeLog false n t

/-- What a LOG_READ writes: entries from START_SEQ on that pass, at most n. -/
def logEntries (s : State) (fn start n : Nat) : List (Nat × LogEnt) :=
  takeLog (decide (n = 1)) n ((passing s fn (decide (fn = 0)) (logHeld s)).filter fun x => decide (start ≤ x.1))

/-- LOG_READ. -/
def execLogRead (fn : Nat) (s : State) : Host.Outcome State Fault Refusal :=
  .next (onMbx fn 0x60 { pfOnly := false, targeted := false, named := [(8, 8), (0x10, 8), (0x18, 4)] } (fun m s =>
    let start := m.arg 8 8
    let len := m.arg 0x18 4
    if m.arg 0x10 8 % 16 ≠ 0 then mbxBad fn 0x10 s
    else if len % 16 ≠ 0 ∨ len < 16 ∨ 65536 < len then mbxBad fn 0x18 s
    else
      let es := logEntries s fn start (len / 16)
      let d := (es.map fun x => entBytes x.2).flatten
      let first := ((es.head?).map (·.1)).getD start
      let next := ((es.getLast?).map fun x => x.1 + 1).getD start
      let oldest := s.log.next.toNat - s.log.entries.length
      let s := if d.isEmpty then s else hostWrite m.port fn (m.arg 0x10 8) d s
      endMbx fn 0 0 0 (leBytes first 8 ++ leBytes es.length 4 ++ zeros 4 ++ leBytes next 8 ++ leBytes (oldest - start) 8) s) s)

/-- SIDEBAND_LOG_READ: at most `count` entries from `start` on, over MCTP. -/
def execSidebandLogRead (start count : Nat) (s : State) : Host.Outcome State Fault Refusal :=
  .next { s with out := { s.out with
    sideband := (((logHeld s).filter fun x => decide (start ≤ x.1)).take count).map (·.2) } }

end Sys2Proof.Machine
end

