-- ==== Sys2Proof/Machine/Spdm.lean ====
section
/-!
DEFINITION. Attestation over SPDM 1.3 (R537 to R541). The layout of the messages is that of SPDM 1.3, which the spec names
and does not repeat. PRESUMED, log 98.
-/

namespace Sys2Proof.Machine

/-! ## Connections and messages -/

/-- The connection of a transport. -/
def State.conn (s : State) (tr : Nat) : SpdmConn := s.sec.spdm.get SpdmConn.reset tr

/-- Stores a connection. -/
def State.setConn (s : State) (tr : Nat) (c : SpdmConn) : State :=
  { s with sec := { s.sec with spdm := s.sec.spdm.set SpdmConn.reset tr c } }

/-- Sends a response. -/
def spdmSend (tr : Nat) (m : List Byte) (s : State) : State :=
  { s with out := { s.out with bus := s.out.bus ++ [{ transport := tr, code := leAt m 1 1, data := m }] } }

/-- Bytes cut or filled to a length. -/
def fixLen (n : Nat) (b : List Byte) : List Byte := b.take n ++ zeros (n - b.length)

/-- Error codes of SPDM 1.3. -/
def seInvalid : Nat := 0x01
def seUnexpected : Nat := 0x04
def seUnspecified : Nat := 0x05
def seUnsupported : Nat := 0x07
def seVersion : Nat := 0x41
def seNotReady : Nat := 0x42

/-- SPDM answers while the root of trust runs. -/
def onSpdm (tr : Nat) (f : State → State) (s : State) : Host.Outcome State Fault Refusal :=
  if 2 ≤ tr ∨ s.pads.inReset ∨ s.pads.porHeld then .next s else .next (f s)

/-- A request of version 1.3 that has its length and comes when the connection has reached a phase. -/
def onRequest (tr len : Nat) (phase : Nat → Bool) (req : List Byte) (f : SpdmConn → State → State) (s : State) : State :=
  let c := s.conn tr
  if leAt req 0 1 ≠ 0x13 then spdmError tr seVersion 0 s
  else if !phase c.phase then spdmError tr seUnexpected 0 s
  else if req.length < len then spdmError tr seInvalid 0 s
  else f c s

/-- Signed responses need the identity keys, and MANUFACTURE has no attestation (R543). -/
def canSign (s : State) : Bool := !s.sec.keysGone && decide (s.sec.lifecycle ≠ 0) && decide (s.sec.lifecycle ≠ 3)

/-! ## Negotiation -/

/-- GET_VERSION: the connection starts again, and a pending SLH-DSA signature goes (R541). -/
def execGetVersion (tr : Nat) (req : List Byte) (s : State) : Host.Outcome State Fault Refusal :=
  onSpdm tr (fun s =>
    if leAt req 0 1 ≠ 0x10 then spdmError tr seVersion 0 s
    else
      let resp : List Byte := [0x10, 0x04, 0, 0, 0, 1, 0, 0x13]
      let s := { s with sec := { s.sec with signQ := s.sec.signQ.filter fun j => j.transport ≠ tr } }
      spdmSend tr resp (s.setConn tr { SpdmConn.reset with phase := 1, vca := req ++ resp })) s

/-- CERT, CHAL, MEAS with signature, CHUNK (R538). -/
def spdmFlags : Nat := 2 ^ 1 + 2 ^ 2 + 2 ^ 4 + 2 ^ 17

/-- GET_CAPABILITIES: CT exponent 18. -/
def execGetCapabilities (tr : Nat) (req : List Byte) (s : State) : Host.Outcome State Fault Refusal :=
  onSpdm tr (onRequest tr 20 (· == 1) req (fun c s =>
    let resp := [0x13, 0x61, 0, 0, 0, 18, 0, 0] ++ leBytes spdmFlags 4 ++ leBytes Config.spdmSize 4 ++ leBytes Config.spdmSize 4
    spdmSend tr resp (s.setConn tr { c with phase := 2, vca := c.vca ++ req ++ resp }))) s

/-- NEGOTIATE_ALGORITHMS: RSASSA-PSS 3072 and SHA-384 only. -/
def execNegotiateAlgorithms (tr : Nat) (req : List Byte) (s : State) : Host.Outcome State Fault Refusal :=
  onSpdm tr (onRequest tr 32 (· == 2) req (fun c s =>
    if !bit (leAt req 8 4) 3 ∨ !bit (leAt req 12 4) 1 then spdmError tr seInvalid 0 s
    else
      let resp := [0x13, 0x63, 0, 0, 36, 0, 1, 0] ++ leBytes 4 4 ++ leBytes 8 4 ++ leBytes 2 4 ++ zeros 16
      spdmSend tr resp (s.setConn tr { c with phase := 3, vca := c.vca ++ req ++ resp }))) s

/-! ## Certificates (R537) -/

/-- Adds an exchange about certificates; what GET_MEASUREMENTS has gathered starts again. -/
def noteCerts (tr : Nat) (m : List Byte) (s : State) : State :=
  let c := s.conn tr
  s.setConn tr { c with certs := c.certs ++ m, measLog := [] }

/-- GET_DIGESTS: slots 0 and 1. -/
def execGetDigests (tr : Nat) (req : List Byte) (s : State) : Host.Outcome State Fault Refusal :=
  onSpdm tr (onRequest tr 4 (· == 3) req (fun _ s =>
    let resp := [0x13, 0x01, 3, 3] ++ sha384 (Config.certChain 0) ++ sha384 (Config.certChain 1)
    spdmSend tr resp (noteCerts tr (req ++ resp) s))) s

/-- GET_CERTIFICATE: a portion of the chain of a slot. -/
def execGetCertificate (tr : Nat) (req : List Byte) (s : State) : Host.Outcome State Fault Refusal :=
  onSpdm tr (onRequest tr 8 (· == 3) req (fun _ s =>
    let slot := leAt req 2 1
    let chain := Config.certChain slot
    let off := leAt req 4 2
    if 1 < slot ∨ chain.length ≤ off then spdmError tr seInvalid 0 s
    else
      let part := (chain.drop off).take (leAt req 6 2)
      let resp := [0x13, 0x02] ++ leBytes slot 1 ++ zeros 1 ++ leBytes part.length 2 ++
        leBytes (chain.length - off - part.length) 2 ++ part
      spdmSend tr resp (noteCerts tr (req ++ resp) s))) s

/-! ## Measurements (R539) -/

/-- DMTF type and value of a measurement index. -/
def measValue (s : State) : Nat → Option (Nat × List Byte)
  | 1 => some (0x00, Config.romDigest)
  | 2 => some (0x01, s.sec.meas.getD 0 [])
  | 3 => some (0x01, s.sec.meas.getD 1 [])
  | 4 => some (0x01, s.sec.meas.getD 2 [])
  | 5 => some (0x86, leBytes s.mp.runVer.toNat 4)
  | 6 => some (0x87, (List.range 3).map fun k => BitVec.ofNat 8 (s.sec.svn.getD k 0))
  | 7 => some (0x85, [s.sec.lifecycle.zeroExtend 8, if s.sec.unlocked then 1 else 0, s.sec.scope.zeroExtend 8])
  | 8 => some (0x83, [s.sec.attProfile.zeroExtend 8, if s.sec.attProfile = 3 then 1 else 0])
  | 9 => some (0x83, [s.sec.revoked.zeroExtend 8])
  | _ => none

/-- A measurement block. -/
def measBlock (s : State) (k : Nat) : List Byte :=
  match measValue s k with
  | none => []
  | some (t, v) => leBytes k 1 ++ leBytes 1 1 ++ leBytes (v.length + 3) 2 ++ leBytes t 1 ++ leBytes v.length 2 ++ v

/-- The blocks of an operation: none for 0, all for 0xFF, else one index. -/
def measBlocks (s : State) (op : Nat) : Option (List (List Byte)) :=
  if op = 0 then some []
  else if op = 0xFF then some ((List.range' 1 9).map (measBlock s))
  else if 1 ≤ op ∧ op ≤ 9 then some [measBlock s op]
  else none

/-- A signed response is put to the signing engine. -/
def queueSign (tr ref : Nat) (msg body : List Byte) (s : State) : State :=
  let j : SignJob := { transport := tr, ref := ref, msg := msg, body := body, since := s.time }
  { s with sec := { s.sec with signQ := s.sec.signQ ++ [j] } }

/-- MEASUREMENTS without its signature. -/
def measBody (req : List Byte) (signed : Bool) (blocks : List (List Byte)) (nonce : List Byte) : List Byte :=
  let op := leAt req 3 1
  let rec_ := blocks.flatten
  [0x13, 0x60] ++ leBytes (if op = 0 then 9 else 0) 1 ++ leBytes (if signed then leAt req 36 1 else 0) 1 ++
  leBytes blocks.length 1 ++ leBytes rec_.length 3 ++ rec_ ++ nonce ++ zeros 2 ++
  (req.drop (if signed then 37 else 4)).take 8

/-- GET_MEASUREMENTS: values are taken now, whenever the response is sent. -/
def execGetMeasurements (tr : Nat) (req : List Byte) (s : State) : Host.Outcome State Fault Refusal :=
  let signed := bit (leAt req 2 1) 0
  onSpdm tr (onRequest tr (if signed then 45 else 12) (· == 3) req (fun c s =>
    match measBlocks s (leAt req 3 1) with
    | none => spdmError tr seInvalid 0 s
    | some bs =>
      if s.sec.lifecycle = 0 ∨ (signed ∧ !canSign s) then spdmError tr seUnsupported 0xE0 s
      else if signed ∧ leAt req 36 1 ≠ 0 then spdmError tr seInvalid 0 s
      else
        let n := freshBytes 32 s
        let s := n.2
        let body := measBody req signed bs n.1
        if signed then queueSign tr 2 (c.vca ++ c.measLog ++ req ++ body) body (s.setConn tr { c with measLog := [] })
        else spdmSend tr body (s.setConn tr { c with measLog := c.measLog ++ req ++ body }))) s

/-! ## CHALLENGE (R540) -/

/-- CHALLENGE_AUTH without its signature. -/
def authBody (s : State) (req nonce : List Byte) : List Byte :=
  let sum := if leAt req 3 1 = 0 then [] else sha384 (((List.range' 1 9).map (measBlock s)).flatten)
  [0x13, 0x03, 0, 1] ++ sha384 (Config.certChain 0) ++ nonce ++ sum ++ zeros 2 ++ (req.drop 36).take 8

/-- CHALLENGE, of slot 0: the RSA chain signs the standard message. -/
def execChallenge (tr : Nat) (req : List Byte) (s : State) : Host.Outcome State Fault Refusal :=
  onSpdm tr (onRequest tr 44 (· == 3) req (fun c s =>
    let sum := leAt req 3 1
    if !canSign s then spdmError tr seUnsupported 0x83 s
    else if leAt req 2 1 ≠ 0 ∨ (sum ≠ 0 ∧ sum ≠ 1 ∧ sum ≠ 0xFF) then spdmError tr seInvalid 0 s
    else
      let n := freshBytes 32 s
      let s := n.2
      let body := authBody s req n.1
      queueSign tr 1 (c.vca ++ c.certs ++ req ++ body) body (s.setConn tr { c with certs := [], measLog := [] }))) s

/-- SPDM_SIGNING_DONE: the oldest signed response is complete: it goes out with its RSA signature, and its SLH-DSA
signature becomes the pending one of its kind. After 200 ms the answer is ResponseNotReady (R538, R541). -/
def execSpdmSigningDone (s : State) : Host.Outcome State Fault Refusal :=
  match s.sec.signQ with
  | [] => .next s
  | j :: rest =>
    let s := { s with sec := { s.sec with signQ := rest } }
    let c := s.conn j.transport
    if s.sec.keysGone then .next (spdmError j.transport seUnspecified 0 s)
    else if j.since + 200000000 < s.time then .next (spdmError j.transport seNotReady 0 s)
    else
      let c := if j.ref = 1 then { c with pendChal := some j.msg } else { c with pendMeas := some j.msg }
      .next (spdmSend j.transport (j.body ++ fixLen 384 (Config.rsaSign j.msg)) (s.setConn j.transport c))

/-! ## GET_SLH_SIG (R540, R541) -/

/-- The head of a response: VCMD, STATUS, REF, OFFSET, PORTION, REMAINDER. -/
def slhHead (st ref off portion left : Nat) : List Byte :=
  leBytes 1 1 ++ leBytes st 1 ++ leBytes ref 1 ++ zeros 1 ++ leBytes off 2 ++ leBytes portion 2 ++ leBytes left 2 ++ zeros 2

/-- A vendor-defined response. -/
def vendorResp (p : List Byte) : List Byte :=
  [0x13, 0x7E, 0, 0, 3, 0, 2, 0xA7, 0x1E] ++ leBytes p.length 2 ++ p

/-- The vendor-defined request is GET_SLH_SIG. -/
def isSlhReq (req : List Byte) : Bool :=
  decide (leAt req 4 2 = 3) && decide (leAt req 6 1 = 2) && decide (leAt req 7 2 = 0x1EA7) && decide (leAt req 11 1 = 1) &&
  decide (leAt req 12 1 = 0) && decide (leAt req 14 1 = 0)

/-- The pending message of a REF. -/
def pendingOf (c : SpdmConn) (ref : Nat) : Option (List Byte) :=
  if ref = 1 then c.pendChal else if ref = 2 then c.pendMeas else none

/-- GET_SLH_SIG: a portion of the pending SLH-DSA signature. A LENGTH outside 1 to 4,096 is a bad range; what TH reads
without a pending signature is open (log 100). -/
def execGetSlhSig (tr : Nat) (req : List Byte) (s : State) : Host.Outcome State Fault Refusal :=
  onSpdm tr (onRequest tr 19 (· == 3) req (fun c s =>
    let ref := leAt req 13 1
    let off := leAt req 15 2
    let len := leAt req 17 2
    if !isSlhReq req ∨ s.sec.lifecycle = 0 then spdmError tr seUnsupported 0xFE s
    else
      match pendingOf c ref with
      | none =>
        let n := freshBytes 48 s
        spdmSend tr (vendorResp (slhHead 1 ref off 0 0 ++ n.1)) n.2
      | some m =>
        if 16224 ≤ off ∨ len = 0 ∨ 4096 < len then spdmSend tr (vendorResp (slhHead 2 ref off 0 0 ++ sha384 m)) s
        else
          let portion := min len (16224 - off)
          let sig := fixLen 16224 (Config.slhSign m)
          spdmSend tr (vendorResp (slhHead 0 ref off portion (16224 - off - portion) ++ sha384 m ++ (sig.drop off).take portion)) s)) s

end Sys2Proof.Machine
end

