-- ==== Sys2Proof/Machine/Tokens.lean ====
section
/-!
DEFINITION. Lifecycle tokens (R543 to R545, R549).
-/

namespace Sys2Proof.Machine

/-- Fields of a token body (R544). -/
def tokKind (t : List Byte) : Nat := leAt t 6 1
def tokScope (t : List Byte) : Nat := leAt t 0x28 4

/-- The body has the form of R544: outside DEBUG_UNLOCK the NONCE is zero, and SCOPE has only the bits of its KIND. -/
def bodyGood (t : List Byte) : Bool :=
  decide (leAt t 0 4 = 0x5444515A) && decide (leAt t 4 2 = 1) && decide (1 ≤ tokKind t) && decide (tokKind t ≤ 4) &&
  zeroAt t 7 1 && zeroAt t 0x2C 20 && (decide (tokKind t = 1) || zeroAt t 0x18 16) &&
  decide (tokScope t < (if tokKind t = 1 then 8 else if tokKind t = 4 then 4 else 1))

/-- Key pair that signs a token. -/
def tokKey (t : List Byte) : Nat := leAt t 71 1

/-- NONCE is admitted: it is SEC_NONCE, or zero in RETURN (R543). -/
def nonceGood (s : State) (t : List Byte) : Bool :=
  decide (tokKind t ≠ 1) || decide (leAt t 0x18 16 = (Config.nonce s.sec.nonceNo).toNat) ||
  (decide (s.sec.lifecycle = 2) && zeroAt t 0x18 16)

/-- A pair other than p stands unrevoked. -/
def otherPair (s : State) (p : Nat) : Bool := (List.range 4).any fun k => decide (k ≠ p) && !s.sec.revoked.getLsbD k

/-- KIND is admitted now: debug by token in PRODUCTION and RETURN, lifecycle only forward, and no revocation of the signing
pair or of the last one (R543, R545). -/
def kindGood (s : State) (t : List Byte) : Bool :=
  match tokKind t with
  | 1 => decide (s.sec.lifecycle = 1) || decide (s.sec.lifecycle = 2)
  | 2 => decide (s.sec.fuse.toNat < 2)
  | 3 => decide (s.sec.fuse.toNat < 3)
  | _ => decide (tokScope t % 4 ≠ tokKey t) && otherPair s (tokScope t % 4)

/-- The first failing check, in the order of R549. -/
def tokenBad (s : State) (t : List Byte) : Option Nat :=
  if t.length ≠ 17216 ∨ !bodyGood t then some 0x01
  else
    match dsbCheck s 3 (t.take 64) (t.drop 64) with
    | some d => some d
    | none =>
      if leAt t 8 16 ≠ Config.uid.toNat then some 0x10
      else if !nonceGood s t then some 0x11
      else if !kindGood s t then some 0x12
      else none

/-- The attempt that a GO began ends: with the effect of the KIND, or with the first failing check. A token of another
KIND is no event of this command. -/
def tokenAttempt (kind : Nat) (t : List Byte) (f : State → State) (s : State) : Host.Outcome State Fault Refusal :=
  if s.sec.tokenSt ≠ .busy ∨ s.pads.inReset then .next s
  else
    match tokenBad s t with
    | some e => if e ≠ 1 ∧ tokKind t ≠ kind then .next s else .next (endToken .error e s)
    | none => if tokKind t ≠ kind then .next s else .next (endToken .done 0 (f s))

/-- DEBUG_UNLOCK: the debug ports of SCOPE open until module reset. The event's detail is one that R477 does not list
(log 91). -/
def execDebugUnlock (token : List Byte) (s : State) : Host.Outcome State Fault Refusal :=
  tokenAttempt 1 token (fun s =>
    let r := s.freshNat
    let s := r.2
    let x := { s.sec with scope := s.sec.scope ||| BitVec.ofNat 3 (tokScope token), unlocked := true }
    logEvent 0x0604 0x02 0 (r.1 % 2 ^ 32) none { s with sec := x }) s

/-- TO_RETURN: the fuse burns now, the state takes effect at the next module reset. -/
def execToReturn (token : List Byte) (s : State) : Host.Outcome State Fault Refusal :=
  tokenAttempt 2 token (fun s => { s with sec := { s.sec with fuse := 2 } }) s

/-- TO_DECOMMISSIONED: the identity keys go at once. -/
def execToDecommissioned (token : List Byte) (s : State) : Host.Outcome State Fault Refusal :=
  tokenAttempt 3 token (fun s => { s with sec := { s.sec with fuse := 3, keysGone := true } }) s

/-- REVOKE_KEY: the revocation fuse of a pair burns. -/
def execRevokeKey (token : List Byte) (s : State) : Host.Outcome State Fault Refusal :=
  tokenAttempt 4 token (fun s =>
    { s with sec := { s.sec with revoked := s.sec.revoked ||| (1#4 <<< (tokScope token % 4)) } }) s

end Sys2Proof.Machine
end

