-- ==== Sys2Proof/Machine/Pldm.lean ====
section
/-!
DEFINITION. The PLDM firmware device (R546, R535). Its states, command codes and completion codes are those of PLDM for
Firmware Update, which the spec names and does not repeat. PRESUMED, log 99.
-/

namespace Sys2Proof.Machine

/-- A message of the device: the command, then what follows the PLDM header; a response begins with its completion code. -/
def pldmSend (cmd : Nat) (d : List Byte) (s : State) : State :=
  { s with out := { s.out with bus := s.out.bus ++ [{ transport := 1, code := cmd, data := d }] } }

/-- A response that is only a completion code. -/
def pldmCode (cmd cc : Nat) (s : State) : State := pldmSend cmd (leBytes cc 1) s

/-- Completion codes. -/
def pcNotUpdate : Nat := 0x80
def pcAlready : Nat := 0x81
def pcState : Nat := 0x84
def pcIncomplete : Nat := 0x85
def pcRetry : Nat := 0x8E

/-- The device answers over MCTP on the I3C sideband while the module is not in reset. -/
def onPldm (tr : Nat) (f : State → State) (s : State) : Host.Outcome State Fault Refusal :=
  if tr ≠ 1 ∨ s.pads.inReset ∨ s.pads.porHeld then .next s else .next (f s)

/-- Enters a state of the update. -/
def toPldm (p : PldmState) (s : State) : State := { s with sec := { s.sec with pldm := p } }

/-- QUERY_DEVICE_IDENTIFIERS: the identifiers are not in the spec. -/
def execQueryDeviceIdentifiers (tr : Nat) (_req : List Byte) (s : State) : Host.Outcome State Fault Refusal :=
  onPldm tr (pldmSend 0x01 ([0] ++ Config.pldmIds)) s

/-- GET_FIRMWARE_PARAMETERS: one component, identifier 0x0001, with the running and the staged version. -/
def execGetFirmwareParameters (tr : Nat) (_req : List Byte) (s : State) : Host.Outcome State Fault Refusal :=
  onPldm tr (fun s =>
    let staged := ((s.mp.staged.map fun x => x.1.toNat)).getD 0
    pldmSend 0x02 ([0] ++ leBytes 1 2 ++ leBytes 1 2 ++ leBytes s.mp.runVer.toNat 4 ++ leBytes staged 4) s) s

/-- An FW_STAGE or an activation runs. -/
def stageRuns (s : State) : Bool :=
  s.mp.activating || decide ((s.getMbx 0).st = .busy ∧ (s.getMbx 0).mop = 0x50)

/-- REQUEST_UPDATE enters update mode. -/
def execRequestUpdate (tr : Nat) (_req : List Byte) (s : State) : Host.Outcome State Fault Refusal :=
  onPldm tr (fun s =>
    if stageRuns s then pldmCode 0x10 pcRetry s
    else if s.sec.pldm ≠ .idle then pldmCode 0x10 pcAlready s
    else pldmCode 0x10 0 { s with sec := { s.sec with pldm := .learn, pldmData := [], pldmSize := 0 } }) s

/-- PASS_COMPONENT_TABLE: TransferFlag, classification, identifier; the flag's bit 2 ends the table. -/
def execPassComponentTable (tr : Nat) (req : List Byte) (s : State) : Host.Outcome State Fault Refusal :=
  onPldm tr (fun s =>
    if s.sec.pldm = .idle then pldmCode 0x13 pcNotUpdate s
    else if s.sec.pldm ≠ .learn then pldmCode 0x13 pcState s
    else
      let known := decide (leAt req 3 2 = 1)
      pldmSend 0x13 ([0] ++ (if known then [0, 0] else [1, 6])) (if bit (leAt req 0 1) 2 then toPldm .ready s else s)) s

/-- The request for the next bytes of the package: offset, length up to 4,096. -/
def askFirmware (s : State) : State :=
  let off := s.sec.pldmData.length
  pldmSend 0x15 (leBytes off 4 ++ leBytes (min 4096 (s.sec.pldmSize - off)) 4) s

/-- UPDATE_COMPONENT: classification, identifier, index, stamp, size: the transfer starts. -/
def execUpdateComponent (tr : Nat) (req : List Byte) (s : State) : Host.Outcome State Fault Refusal :=
  onPldm tr (fun s =>
    let size := leAt req 9 4
    if s.sec.pldm = .idle then pldmCode 0x14 pcNotUpdate s
    else if s.sec.pldm ≠ .ready then pldmCode 0x14 pcState s
    else if leAt req 2 2 ≠ 1 ∨ size = 0 ∨ 33554432 < size then pldmSend 0x14 ([0] ++ [1, 6]) s
    else
      askFirmware (pldmSend 0x14 ([0] ++ [0, 0])
        { s with sec := { s.sec with pldm := .download, pldmData := [], pldmSize := size } })) s

/-- REQUEST_FIRMWARE_DATA: the update agent's answer to the request: completion code, then the bytes asked for. Another
answer asks again. -/
def execRequestFirmwareData (tr : Nat) (req : List Byte) (s : State) : Host.Outcome State Fault Refusal :=
  onPldm tr (fun s =>
    let want := min 4096 (s.sec.pldmSize - s.sec.pldmData.length)
    if s.sec.pldm ≠ .download ∨ want = 0 then s
    else if leAt req 0 1 ≠ 0 ∨ req.length ≠ want + 1 then askFirmware s
    else
      let s := { s with sec := { s.sec with pldmData := s.sec.pldmData ++ req.drop 1 } }
      if s.sec.pldmData.length < s.sec.pldmSize then askFirmware s else s) s

/-- TRANSFER_COMPLETE: the whole package has come. -/
def execTransferComplete (tr : Nat) (_req : List Byte) (s : State) : Host.Outcome State Fault Refusal :=
  onPldm tr (fun s =>
    if s.sec.pldm ≠ .download ∨ s.sec.pldmData.length < s.sec.pldmSize then s else pldmCode 0x16 0 (toPldm .verify s)) s

/-- VERIFY_COMPLETE: R530 on every component and the rollback check; a failure leaves the update to be cancelled. -/
def execVerifyComplete (tr : Nat) (_req : List Byte) (s : State) : Host.Outcome State Fault Refusal :=
  onPldm tr (fun s =>
    if s.sec.pldm ≠ .verify then s
    else
      match fwCheck s s.sec.pldmData with
      | some (d, _) => pldmCode 0x17 d s
      | none => pldmCode 0x17 0 (toPldm .apply s)) s

/-- APPLY_COMPLETE: the package becomes the staged image. -/
def execApplyComplete (tr : Nat) (_req : List Byte) (s : State) : Host.Outcome State Fault Refusal :=
  onPldm tr (fun s => if s.sec.pldm ≠ .apply then s else pldmCode 0x18 0 (toPldm .ready (stageImage s.sec.pldmData s))) s

/-- In recovery the package goes into the bank that is not preferred, and the module resets (R535). The cause that the
reset's entry carries is not in R477: a free value (log 101). -/
def recoverWith (b : List Byte) (s : State) : State :=
  let x := if s.sec.preferred then { s.sec with flash0 := b } else { s.sec with flash1 := b }
  let r := s.freshNat
  moduleReset (r.1 % 16) { r.2 with sec := x }

/-- ACTIVATE_FIRMWARE: the sequence of R481 with self-contained activation. -/
def execActivateFirmware (tr : Nat) (_req : List Byte) (s : State) : Host.Outcome State Fault Refusal :=
  onPldm tr (fun s =>
    if s.sec.pldm = .idle then pldmCode 0x1A pcNotUpdate s
    else if s.sec.pldm ≠ .ready then pldmCode 0x1A pcState s
    else
      match s.mp.staged with
      | none => pldmCode 0x1A pcIncomplete s
      | some (_, b) =>
        if s.sec.recovery then recoverWith b (pldmCode 0x1A 0 s)
        else if s.mp.activating ∨ !s.mp.lockstep ∨ !s.pads.booted then pldmCode 0x1A pcState s
        else beginActivation none (pldmCode 0x1A 0 (toPldm .activate s))) s

/-- Number of a state in GetStatus. -/
def pldmNum : PldmState → Nat
  | .idle => 0 | .learn => 1 | .ready => 2 | .download => 3 | .verify => 4 | .apply => 5 | .activate => 6

/-- GET_STATUS. -/
def execGetStatus (tr : Nat) (_req : List Byte) (s : State) : Host.Outcome State Fault Refusal :=
  onPldm tr (fun s => pldmSend 0x1B ([0] ++ leBytes (pldmNum s.sec.pldm) 1) s) s

/-- CANCEL_UPDATE ends update mode; an activation that runs is not cancelled. -/
def execCancelUpdate (tr : Nat) (_req : List Byte) (s : State) : Host.Outcome State Fault Refusal :=
  onPldm tr (fun s =>
    if s.sec.pldm = .idle then pldmCode 0x1D pcNotUpdate s
    else if s.sec.pldm = .activate then pldmCode 0x1D pcState s
    else pldmCode 0x1D 0 { s with sec := { s.sec with pldm := .idle, pldmData := [], pldmSize := 0 } }) s

end Sys2Proof.Machine
end

