-- ==== Sys2Proof/Machine/Dispatch.lean ====
section
/-!
DEFINITION. The meaning of each command: one direct call per constructor.
-/

namespace Sys2Proof.Machine

/-- The effect of a command on everything but the queue. -/
def exec (i : Instr) (s : State) : Host.Outcome State Fault Refusal :=
  match i with
  | .nop slot => Sys2Proof.Machine.execNop slot s
  | .query slot => Sys2Proof.Machine.execQuery slot s
  | .queryPoint slot => Sys2Proof.Machine.execQueryPoint slot s
  | .storeWrite slot => Sys2Proof.Machine.execStoreWrite slot s
  | .storeRead slot => Sys2Proof.Machine.execStoreRead slot s
  | .storeAppend slot => Sys2Proof.Machine.execStoreAppend slot s
  | .storeFlush slot => Sys2Proof.Machine.execStoreFlush slot s
  | .storeTrim slot => Sys2Proof.Machine.execStoreTrim slot s
  | .storeAttrCreate slot => Sys2Proof.Machine.execStoreAttrCreate slot s
  | .storeAttrDelete slot => Sys2Proof.Machine.execStoreAttrDelete slot s
  | .storeAttrGet slot => Sys2Proof.Machine.execStoreAttrGet slot s
  | .storeAttrResize slot => Sys2Proof.Machine.execStoreAttrResize slot s
  | .digest slot => Sys2Proof.Machine.execDigest slot s
  | .digestVerify slot => Sys2Proof.Machine.execDigestVerify slot s
  | .matchUpdate slot => Sys2Proof.Machine.execMatchUpdate slot s
  | .matchSearch slot => Sys2Proof.Machine.execMatchSearch slot s
  | .abort slot => Sys2Proof.Machine.execAbort slot s
  | .ringSqTailWrite inst sq val => Sys2Proof.Machine.execRingSqTailWrite inst sq val s
  | .sporeWrite inst sq line => Sys2Proof.Machine.execSporeWrite inst sq line s
  | .ringCqHeadWrite inst cq val => Sys2Proof.Machine.execRingCqHeadWrite inst cq val s
  | .registerWrite tgt data => Sys2Proof.Machine.execRegisterWrite tgt data s
  | .commandFetchStart inst sq => Sys2Proof.Machine.execCommandFetchStart inst sq s
  | .sqEntryReadDone inst sq idx data => Sys2Proof.Machine.execSqEntryReadDone inst sq idx data s
  | .sporeCompareReadDone inst sq idx data => Sys2Proof.Machine.execSporeCompareReadDone inst sq idx data s
  | .paramBlockReadDone slot data => Sys2Proof.Machine.execParamBlockReadDone slot data s
  | .groupDirectoryReadDone slot => Sys2Proof.Machine.execGroupDirectoryReadDone slot s
  | .flowIdWaitEnd slot => Sys2Proof.Machine.execFlowIdWaitEnd slot s
  | .deadlineTimerWaitEnd slot => Sys2Proof.Machine.execDeadlineTimerWaitEnd slot s
  | .itemDispatch cls unit => Sys2Proof.Machine.execItemDispatch cls unit s
  | .affWaitExpiry slot pipe => Sys2Proof.Machine.execAffWaitExpiry slot pipe s
  | .itemEnd f host => Sys2Proof.Machine.execItemEnd f host s
  | .commitFinish slot => Sys2Proof.Machine.execCommitFinish slot s
  | .completionBufferDrain inst cq => Sys2Proof.Machine.execCompletionBufferDrain inst cq s
  | .cqAggTimeExpiry inst cq => Sys2Proof.Machine.execCqAggTimeExpiry inst cq s
  | .deadlineExpiry slot => Sys2Proof.Machine.execDeadlineExpiry slot s
  | .breakerFinish slot pipe => Sys2Proof.Machine.execBreakerFinish slot pipe s
  | .flowServiceEnd slot pipe op flow => Sys2Proof.Machine.execFlowServiceEnd slot pipe op flow s
  | .handoffBatchTaken slot pipe item stage => Sys2Proof.Machine.execHandoffBatchTaken slot pipe item stage s
  | .quadrantPark quad => Sys2Proof.Machine.execQuadrantPark quad s
  | .admissionRequest units us level inst disc die => Sys2Proof.Machine.execAdmissionRequest units us level inst disc die s
  | .grantGiven => Sys2Proof.Machine.execGrantGiven s
  | .grantRelease id => Sys2Proof.Machine.execGrantRelease id s
  | .grantExpiry id => Sys2Proof.Machine.execGrantExpiry id s
  | .telemetrySample smp => Sys2Proof.Machine.execTelemetrySample smp s
  | .capLimitRise => Sys2Proof.Machine.execCapLimitRise s
  | .thermalLimitRise die => Sys2Proof.Machine.execThermalLimitRise die s
  | .frondClockStep die => Sys2Proof.Machine.execFrondClockStep die s
  | .observationWindowEnd loads occ => Sys2Proof.Machine.execObservationWindowEnd loads occ s
  | .frondStop f => Sys2Proof.Machine.execFrondStop f s
  | .budget f => Sys2Proof.Machine.execBudget f s
  | .doubleFaultRecovery f => Sys2Proof.Machine.execDoubleFaultRecovery f s
  | .statePageBacking f => Sys2Proof.Machine.execStatePageBacking f s
  | .streamRequestDone f tag data => Sys2Proof.Machine.execStreamRequestDone f tag data s
  | .addi f d a imm => Sys2Proof.Machine.execAddi f d a imm s
  | .andi f d a imm => Sys2Proof.Machine.execAndi f d a imm s
  | .ori f d a imm => Sys2Proof.Machine.execOri f d a imm s
  | .xori f d a imm => Sys2Proof.Machine.execXori f d a imm s
  | .lui f d imm => Sys2Proof.Machine.execLui f d imm s
  | .shi f d a imm => Sys2Proof.Machine.execShi f d a imm s
  | .slti f d a imm => Sys2Proof.Machine.execSlti f d a imm s
  | .ldB f d a imm => Sys2Proof.Machine.execLdB f d a imm s
  | .ldH f d a imm => Sys2Proof.Machine.execLdH f d a imm s
  | .ldW f d a imm => Sys2Proof.Machine.execLdW f d a imm s
  | .ldD f d a imm => Sys2Proof.Machine.execLdD f d a imm s
  | .lduB f d a imm => Sys2Proof.Machine.execLduB f d a imm s
  | .lduH f d a imm => Sys2Proof.Machine.execLduH f d a imm s
  | .lduW f d a imm => Sys2Proof.Machine.execLduW f d a imm s
  | .stB f d a imm => Sys2Proof.Machine.execStB f d a imm s
  | .stH f d a imm => Sys2Proof.Machine.execStH f d a imm s
  | .stW f d a imm => Sys2Proof.Machine.execStW f d a imm s
  | .stD f d a imm => Sys2Proof.Machine.execStD f d a imm s
  | .fldS f d a imm => Sys2Proof.Machine.execFldS f d a imm s
  | .fldD f d a imm => Sys2Proof.Machine.execFldD f d a imm s
  | .fstS f d a imm => Sys2Proof.Machine.execFstS f d a imm s
  | .fstD f d a imm => Sys2Proof.Machine.execFstD f d a imm s
  | .br f cond a b off => Sys2Proof.Machine.execBr f cond a b off s
  | .j f off => Sys2Proof.Machine.execJ f off s
  | .jl f off => Sys2Proof.Machine.execJl f off s
  | .jr f a => Sys2Proof.Machine.execJr f a s
  | .jlr f d a => Sys2Proof.Machine.execJlr f d a s
  | .fp f d a b fn => Sys2Proof.Machine.execFp f d a b fn s
  | .fmadd f d a b c dbl => Sys2Proof.Machine.execFmadd f d a b c dbl s
  | .fmsub f d a b c dbl => Sys2Proof.Machine.execFmsub f d a b c dbl s
  | .fnmadd f d a b c dbl => Sys2Proof.Machine.execFnmadd f d a b c dbl s
  | .fnmsub f d a b c dbl => Sys2Proof.Machine.execFnmsub f d a b c dbl s
  | .fcrd f d imm => Sys2Proof.Machine.execFcrd f d imm s
  | .fcwr f a imm => Sys2Proof.Machine.execFcwr f a imm s
  | .ho f d a b fn => Sys2Proof.Machine.execHo f d a b fn s
  | .add f d a b => Sys2Proof.Machine.execAdd f d a b s
  | .sub f d a b => Sys2Proof.Machine.execSub f d a b s
  | .opAnd f d a b => Sys2Proof.Machine.execOpAnd f d a b s
  | .opOr f d a b => Sys2Proof.Machine.execOpOr f d a b s
  | .opXor f d a b => Sys2Proof.Machine.execOpXor f d a b s
  | .sll f d a b => Sys2Proof.Machine.execSll f d a b s
  | .srl f d a b => Sys2Proof.Machine.execSrl f d a b s
  | .sra f d a b => Sys2Proof.Machine.execSra f d a b s
  | .slt f d a b => Sys2Proof.Machine.execSlt f d a b s
  | .sltu f d a b => Sys2Proof.Machine.execSltu f d a b s
  | .minS f d a b => Sys2Proof.Machine.execMinS f d a b s
  | .maxS f d a b => Sys2Proof.Machine.execMaxS f d a b s
  | .minU f d a b => Sys2Proof.Machine.execMinU f d a b s
  | .maxU f d a b => Sys2Proof.Machine.execMaxU f d a b s
  | .clz f d a => Sys2Proof.Machine.execClz f d a s
  | .ctz f d a => Sys2Proof.Machine.execCtz f d a s
  | .popc f d a => Sys2Proof.Machine.execPopc f d a s
  | .bswap f d a => Sys2Proof.Machine.execBswap f d a s
  | .mulLo f d a b => Sys2Proof.Machine.execMulLo f d a b s
  | .mulh f d a b => Sys2Proof.Machine.execMulh f d a b s
  | .mulhu f d a b => Sys2Proof.Machine.execMulhu f d a b s
  | .divS f d a b => Sys2Proof.Machine.execDivS f d a b s
  | .divu f d a b => Sys2Proof.Machine.execDivu f d a b s
  | .rem f d a b => Sys2Proof.Machine.execRem f d a b s
  | .remu f d a b => Sys2Proof.Machine.execRemu f d a b s
  | .trap f b => Sys2Proof.Machine.execTrap f b s
  | .eret f => Sys2Proof.Machine.execEret f s
  | .fence f => Sys2Proof.Machine.execFence f s
  | .wfe f => Sys2Proof.Machine.execWfe f s
  | .bpFlush f => Sys2Proof.Machine.execBpFlush f s
  | .bpBar f => Sys2Proof.Machine.execBpBar f s
  | .bpUnbar f => Sys2Proof.Machine.execBpUnbar f s
  | .spclr f => Sys2Proof.Machine.execSpclr f s
  | .strIssue f a b => Sys2Proof.Machine.execStrIssue f a b s
  | .strWait f b => Sys2Proof.Machine.execStrWait f b s
  | .strPoll f d b => Sys2Proof.Machine.execStrPoll f d b s
  | .strCancel f => Sys2Proof.Machine.execStrCancel f s
  | .vadd f o => Sys2Proof.Machine.execVadd f o s
  | .vsub f o => Sys2Proof.Machine.execVsub f o s
  | .vmul f o => Sys2Proof.Machine.execVmul f o s
  | .vmulhu f o => Sys2Proof.Machine.execVmulhu f o s
  | .vmin f o => Sys2Proof.Machine.execVmin f o s
  | .vmax f o => Sys2Proof.Machine.execVmax f o s
  | .vminu f o => Sys2Proof.Machine.execVminu f o s
  | .vmaxu f o => Sys2Proof.Machine.execVmaxu f o s
  | .vand f o => Sys2Proof.Machine.execVand f o s
  | .vor f o => Sys2Proof.Machine.execVor f o s
  | .vxor f o => Sys2Proof.Machine.execVxor f o s
  | .vandn f o => Sys2Proof.Machine.execVandn f o s
  | .vsll f o => Sys2Proof.Machine.execVsll f o s
  | .vsrl f o => Sys2Proof.Machine.execVsrl f o s
  | .vsra f o => Sys2Proof.Machine.execVsra f o s
  | .vpick f o => Sys2Proof.Machine.execVpick f o s
  | .vopx f o fn => Sys2Proof.Machine.execVopx f o fn s
  | .veq f o => Sys2Proof.Machine.execVeq f o s
  | .vne f o => Sys2Proof.Machine.execVne f o s
  | .vlt f o => Sys2Proof.Machine.execVlt f o s
  | .vge f o => Sys2Proof.Machine.execVge f o s
  | .vltu f o => Sys2Proof.Machine.execVltu f o s
  | .vgeu f o => Sys2Proof.Machine.execVgeu f o s
  | .vovadd f o => Sys2Proof.Machine.execVovadd f o s
  | .vovsub f o => Sys2Proof.Machine.execVovsub f o s
  | .vovmul f o => Sys2Proof.Machine.execVovmul f o s
  | .vovaddu f o => Sys2Proof.Machine.execVovaddu f o s
  | .vovsubu f o => Sys2Proof.Machine.execVovsubu f o s
  | .vovmulu f o => Sys2Proof.Machine.execVovmulu f o s
  | .vcmpx f o fn => Sys2Proof.Machine.execVcmpx f o fn s
  | .vfadd f o => Sys2Proof.Machine.execVfadd f o s
  | .vfsub f o => Sys2Proof.Machine.execVfsub f o s
  | .vfmul f o => Sys2Proof.Machine.execVfmul f o s
  | .vfdiv f o => Sys2Proof.Machine.execVfdiv f o s
  | .vfsqrt f o => Sys2Proof.Machine.execVfsqrt f o s
  | .vfmin f o => Sys2Proof.Machine.execVfmin f o s
  | .vfmax f o => Sys2Proof.Machine.execVfmax f o s
  | .vfmacc f o => Sys2Proof.Machine.execVfmacc f o s
  | .vfeq f o => Sys2Proof.Machine.execVfeq f o s
  | .vflt f o => Sys2Proof.Machine.execVflt f o s
  | .vfle f o => Sys2Proof.Machine.execVfle f o s
  | .vfteq f o => Sys2Proof.Machine.execVfteq f o s
  | .vftlt f o => Sys2Proof.Machine.execVftlt f o s
  | .vfcvti f o => Sys2Proof.Machine.execVfcvti f o s
  | .vicvtf f o => Sys2Proof.Machine.execVicvtf f o s
  | .vfwid f o => Sys2Proof.Machine.execVfwid f o s
  | .mkand f o => Sys2Proof.Machine.execMkand f o s
  | .mkor f o => Sys2Proof.Machine.execMkor f o s
  | .mkxor f o => Sys2Proof.Machine.execMkxor f o s
  | .mkandn f o => Sys2Proof.Machine.execMkandn f o s
  | .mknot f o => Sys2Proof.Machine.execMknot f o s
  | .mkcopy f o => Sys2Proof.Machine.execMkcopy f o s
  | .mkcount f o => Sys2Proof.Machine.execMkcount f o s
  | .mkfirst f o => Sys2Proof.Machine.execMkfirst f o s
  | .mkfill f o => Sys2Proof.Machine.execMkfill f o s
  | .mkzero f o => Sys2Proof.Machine.execMkzero f o s
  | .mtov f o => Sys2Proof.Machine.execMtov f o s
  | .vtom f o => Sys2Proof.Machine.execVtom f o s
  | .vcopy f o => Sys2Proof.Machine.execVcopy f o s
  | .vbcast f o => Sys2Proof.Machine.execVbcast f o s
  | .vext f o => Sys2Proof.Machine.execVext f o s
  | .vins f o => Sys2Proof.Machine.execVins f o s
  | .vseq f o => Sys2Proof.Machine.execVseq f o s
  | .vsqueeze f o => Sys2Proof.Machine.execVsqueeze f o s
  | .vwid f o => Sys2Proof.Machine.execVwid f o s
  | .vwidu f o => Sys2Proof.Machine.execVwidu f o s
  | .vnar f o => Sys2Proof.Machine.execVnar f o s
  | .vsumr f o => Sys2Proof.Machine.execVsumr f o s
  | .vsumur f o => Sys2Proof.Machine.execVsumur f o s
  | .vminr f o => Sys2Proof.Machine.execVminr f o s
  | .vmaxr f o => Sys2Proof.Machine.execVmaxr f o s
  | .vminur f o => Sys2Proof.Machine.execVminur f o s
  | .vmaxur f o => Sys2Proof.Machine.execVmaxur f o s
  | .vandr f o => Sys2Proof.Machine.execVandr f o s
  | .vorr f o => Sys2Proof.Machine.execVorr f o s
  | .vxorr f o => Sys2Proof.Machine.execVxorr f o s
  | .vbitcnt f o => Sys2Proof.Machine.execVbitcnt f o s
  | .vfsumr f o => Sys2Proof.Machine.execVfsumr f o s
  | .vfminr f o => Sys2Proof.Machine.execVfminr f o s
  | .vfmaxr f o => Sys2Proof.Machine.execVfmaxr f o s
  | .vld f o => Sys2Proof.Machine.execVld f o s
  | .vst f o => Sys2Proof.Machine.execVst f o s
  | .vlds f o => Sys2Proof.Machine.execVlds f o s
  | .vsts f o => Sys2Proof.Machine.execVsts f o s
  | .vgath f o scale dev => Sys2Proof.Machine.execVgath f o scale dev s
  | .vscat f o scale dev => Sys2Proof.Machine.execVscat f o scale dev s
  | .vunpk f o => Sys2Proof.Machine.execVunpk f o s
  | .vpcmp f o => Sys2Proof.Machine.execVpcmp f o s
  | .vpsel f o => Sys2Proof.Machine.execVpsel f o s
  | .vdict f o => Sys2Proof.Machine.execVdict f o s
  | .vrle f o => Sys2Proof.Machine.execVrle f o s
  | .vrlec f o => Sys2Proof.Machine.execVrlec f o s
  | .vhash f o => Sys2Proof.Machine.execVhash f o s
  | .vhashx f o => Sys2Proof.Machine.execVhashx f o s
  | .vhfin f o => Sys2Proof.Machine.execVhfin f o s
  | .vpart f o => Sys2Proof.Machine.execVpart f o s
  | .vstrip f o => Sys2Proof.Machine.execVstrip f o s
  | .memReadRequest req addr e0 e1 => Sys2Proof.Machine.execMemReadRequest req addr e0 e1 s
  | .memWriteRequest req addr data => Sys2Proof.Machine.execMemWriteRequest req addr data s
  | .leafEntryChange inst page ent => Sys2Proof.Machine.execLeafEntryChange inst page ent s
  | .releaseScrubBurst => Sys2Proof.Machine.execReleaseScrubBurst s
  | .scrubFrameDone frame => Sys2Proof.Machine.execScrubFrameDone frame s
  | .recolourDone frame => Sys2Proof.Machine.execRecolourDone frame s
  | .patrolRead addr e0 e1 => Sys2Proof.Machine.execPatrolRead addr e0 e1 s
  | .retrainDue ch => Sys2Proof.Machine.execRetrainDue ch s
  | .retrainDone ch ok => Sys2Proof.Machine.execRetrainDone ch ok s
  | .refreshDue ch => Sys2Proof.Machine.execRefreshDue ch s
  | .cmuSearchBurst unit slot pipe op keys => Sys2Proof.Machine.execCmuSearchBurst unit slot pipe op keys s
  | .cmuShadowWriteAck unit => Sys2Proof.Machine.execCmuShadowWriteAck unit s
  | .cmuUpdateStep unit => Sys2Proof.Machine.execCmuUpdateStep unit s
  | .cmuComparerCheck unit auto upset shadowOk => Sys2Proof.Machine.execCmuComparerCheck unit auto upset shadowOk s
  | .cmuThrottleStepChange unit temp => Sys2Proof.Machine.execCmuThrottleStepChange unit temp s
  | .cmuCmpcfgWrite val => Sys2Proof.Machine.execCmuCmpcfgWrite val s
  | .cmuTableReclaim inst table => Sys2Proof.Machine.execCmuTableReclaim inst table s
  | .smuJobEnd unit => Sys2Proof.Machine.execSmuJobEnd unit s
  | .smuQuantumExpiry unit => Sys2Proof.Machine.execSmuQuantumExpiry unit s
  | .engineUnitFault kind unit => Sys2Proof.Machine.execEngineUnitFault kind unit s
  | .fabricLink link => Sys2Proof.Machine.execFabricLink link s
  | .digContextOpen unit frond => Sys2Proof.Machine.execDigContextOpen unit frond s
  | .digStart unit slot acc cfg => Sys2Proof.Machine.execDigStart unit slot acc cfg s
  | .digClose unit slot acc => Sys2Proof.Machine.execDigClose unit slot acc s
  | .digDataWrite unit slot acc word => Sys2Proof.Machine.execDigDataWrite unit slot acc word s
  | .digLastWrite unit slot acc word valid => Sys2Proof.Machine.execDigLastWrite unit slot acc word valid s
  | .digFinish unit slot => Sys2Proof.Machine.execDigFinish unit slot s
  | .dguLaneGrant unit slot => Sys2Proof.Machine.execDguLaneGrant unit slot s
  | .dguQuantumExpiry unit => Sys2Proof.Machine.execDguQuantumExpiry unit s
  | .rotAlarm sensor => Sys2Proof.Machine.execRotAlarm sensor s
  | .queueDrainComplete inst sq => Sys2Proof.Machine.execQueueDrainComplete inst sq s
  | .orderingWaitEnd slot => Sys2Proof.Machine.execOrderingWaitEnd slot s
  | .extentReadDone id data => Sys2Proof.Machine.execExtentReadDone id data s
  | .nvmeCompletion id ok => Sys2Proof.Machine.execNvmeCompletion id ok s
  | .nvmeTimeout id => Sys2Proof.Machine.execNvmeTimeout id s
  | .destage => Sys2Proof.Machine.execDestage s
  | .journalCommit => Sys2Proof.Machine.execJournalCommit s
  | .journalCopyDone => Sys2Proof.Machine.execJournalCopyDone s
  | .writeCacheRoom slot => Sys2Proof.Machine.execWriteCacheRoom slot s
  | .storeMount found => Sys2Proof.Machine.execStoreMount found s
  | .idle1Expiry => Sys2Proof.Machine.execIdle1Expiry s
  | .idle2Expiry => Sys2Proof.Machine.execIdle2Expiry s
  | .idle3Expiry => Sys2Proof.Machine.execIdle3Expiry s
  | .psEntryComplete => Sys2Proof.Machine.execPsEntryComplete s
  | .psExitComplete => Sys2Proof.Machine.execPsExitComplete s
  | .info fn => Sys2Proof.Machine.execInfo fn s
  | .instCreate fn host => Sys2Proof.Machine.execInstCreate fn host s
  | .instResize fn host => Sys2Proof.Machine.execInstResize fn host s
  | .instReset fn => Sys2Proof.Machine.execInstReset fn s
  | .instanceFenceComplete inst => Sys2Proof.Machine.execInstanceFenceComplete inst s
  | .instanceResetFinish inst => Sys2Proof.Machine.execInstanceResetFinish inst s
  | .instDestroy fn => Sys2Proof.Machine.execInstDestroy fn s
  | .resizeDrainDone inst => Sys2Proof.Machine.execResizeDrainDone inst s
  | .resizeDrainTimeout inst => Sys2Proof.Machine.execResizeDrainTimeout inst s
  | .functionLevelReset fn => Sys2Proof.Machine.execFunctionLevelReset fn s
  | .vfEnableClear => Sys2Proof.Machine.execVfEnableClear s
  | .queueCreate fn => Sys2Proof.Machine.execQueueCreate fn s
  | .queueDelete fn => Sys2Proof.Machine.execQueueDelete fn s
  | .queueReset fn => Sys2Proof.Machine.execQueueReset fn s
  | .planLoad fn host host2 => Sys2Proof.Machine.execPlanLoad fn host host2 s
  | .planUnload fn => Sys2Proof.Machine.execPlanUnload fn s
  | .cmuTableCreate fn host => Sys2Proof.Machine.execCmuTableCreate fn host s
  | .cmuTableRefill fn host => Sys2Proof.Machine.execCmuTableRefill fn host s
  | .cmuTableDelete fn => Sys2Proof.Machine.execCmuTableDelete fn s
  | .profileSet fn => Sys2Proof.Machine.execProfileSet fn s
  | .profileSetComplete => Sys2Proof.Machine.execProfileSetComplete s
  | .powerCapSet fn => Sys2Proof.Machine.execPowerCapSet fn s
  | .telemetryCfg fn => Sys2Proof.Machine.execTelemetryCfg fn s
  | .fwStage fn host => Sys2Proof.Machine.execFwStage fn host s
  | .fwActivate fn => Sys2Proof.Machine.execFwActivate fn s
  | .fwStandbyVerified ok => Sys2Proof.Machine.execFwStandbyVerified ok s
  | .fwHandover ok => Sys2Proof.Machine.execFwHandover ok s
  | .planReload inst plan => Sys2Proof.Machine.execPlanReload inst plan s
  | .fwRejoin => Sys2Proof.Machine.execFwRejoin s
  | .logRead fn => Sys2Proof.Machine.execLogRead fn s
  | .sidebandLogRead start count => Sys2Proof.Machine.execSidebandLogRead start count s
  | .setRole fn => Sys2Proof.Machine.execSetRole fn s
  | .setWorkers fn host => Sys2Proof.Machine.execSetWorkers fn host s
  | .admitSsd fn found => Sys2Proof.Machine.execAdmitSsd fn found s
  | .mcDiverge => Sys2Proof.Machine.execMcDiverge s
  | .mcWatchdog core => Sys2Proof.Machine.execMcWatchdog core s
  | .mcCoreFault core => Sys2Proof.Machine.execMcCoreFault core s
  | .arbitrationVerdict failA failB sliceA sliceB => Sys2Proof.Machine.execArbitrationVerdict failA failB sliceA sliceB s
  | .standbySweepDone ok slice => Sys2Proof.Machine.execStandbySweepDone ok slice s
  | .mcRetest ok slice => Sys2Proof.Machine.execMcRetest ok slice s
  | .mcRejoin => Sys2Proof.Machine.execMcRejoin s
  | .mcReturn => Sys2Proof.Machine.execMcReturn s
  | .aonTick => Sys2Proof.Machine.execAonTick s
  | .refclkLoss => Sys2Proof.Machine.execRefclkLoss s
  | .refclkReturn => Sys2Proof.Machine.execRefclkReturn s
  | .supplyWarning src => Sys2Proof.Machine.execSupplyWarning src s
  | .sagClear => Sys2Proof.Machine.execSagClear s
  | .sensorCalibration offs => Sys2Proof.Machine.execSensorCalibration offs s
  | .thermalTrip sensor => Sys2Proof.Machine.execThermalTrip sensor s
  | .thermalHoldEnd => Sys2Proof.Machine.execThermalHoldEnd s
  | .vinReset => Sys2Proof.Machine.execVinReset s
  | .railReset dom => Sys2Proof.Machine.execRailReset dom s
  | .powerOnReset => Sys2Proof.Machine.execPowerOnReset s
  | .modRstNAssert => Sys2Proof.Machine.execModRstNAssert s
  | .perstNAssert => Sys2Proof.Machine.execPerstNAssert s
  | .resetRelease perst => Sys2Proof.Machine.execResetRelease perst s
  | .boot refLoc => Sys2Proof.Machine.execBoot refLoc s
  | .hotReset port => Sys2Proof.Machine.execHotReset port s
  | .hostLinkAbsenceTimeout port => Sys2Proof.Machine.execHostLinkAbsenceTimeout port s
  | .hostLinkReturn port => Sys2Proof.Machine.execHostLinkReturn port s
  | .cxlMemRead addr => Sys2Proof.Machine.execCxlMemRead addr s
  | .cxlMemWrite addr data => Sys2Proof.Machine.execCxlMemWrite addr data s
  | .flitReceive link flit => Sys2Proof.Machine.execFlitReceive link flit s
  | .flitAckTimeout link => Sys2Proof.Machine.execFlitAckTimeout link s
  | .rhizomeRetrainDone link ok => Sys2Proof.Machine.execRhizomeRetrainDone link ok s
  | .linkUpRetry link => Sys2Proof.Machine.execLinkUpRetry link s
  | .frameResendTimeout route fseq => Sys2Proof.Machine.execFrameResendTimeout route fseq s
  | .helloFrame link fr => Sys2Proof.Machine.execHelloFrame link fr s
  | .configFrame link fr => Sys2Proof.Machine.execConfigFrame link fr s
  | .byeFrame link fr => Sys2Proof.Machine.execByeFrame link fr s
  | .planFrame link fr => Sys2Proof.Machine.execPlanFrame link fr s
  | .fanoutFrame link fr => Sys2Proof.Machine.execFanoutFrame link fr s
  | .xdataFrame link fr => Sys2Proof.Machine.execXdataFrame link fr s
  | .endFrame link fr => Sys2Proof.Machine.execEndFrame link fr s
  | .ackFrame link fr => Sys2Proof.Machine.execAckFrame link fr s
  | .failFrame link fr => Sys2Proof.Machine.execFailFrame link fr s
  | .stopFrame link fr => Sys2Proof.Machine.execStopFrame link fr s
  | .barrierArmFrame link fr => Sys2Proof.Machine.execBarrierArmFrame link fr s
  | .telemFrame link fr => Sys2Proof.Machine.execTelemFrame link fr s
  | .fanoutStopTimeout xid => Sys2Proof.Machine.execFanoutStopTimeout xid s
  | .fanoutWorkerTimeout xid => Sys2Proof.Machine.execFanoutWorkerTimeout xid s
  | .hbar0InFall => Sys2Proof.Machine.execHbar0InFall s
  | .hbar0InRise => Sys2Proof.Machine.execHbar0InRise s
  | .hbar0StopHold => Sys2Proof.Machine.execHbar0StopHold s
  | .hbar1InFall => Sys2Proof.Machine.execHbar1InFall s
  | .hbar1InRise => Sys2Proof.Machine.execHbar1InRise s
  | .getVersion tr req => Sys2Proof.Machine.execGetVersion tr req s
  | .getCapabilities tr req => Sys2Proof.Machine.execGetCapabilities tr req s
  | .negotiateAlgorithms tr req => Sys2Proof.Machine.execNegotiateAlgorithms tr req s
  | .getDigests tr req => Sys2Proof.Machine.execGetDigests tr req s
  | .getCertificate tr req => Sys2Proof.Machine.execGetCertificate tr req s
  | .challenge tr req => Sys2Proof.Machine.execChallenge tr req s
  | .getMeasurements tr req => Sys2Proof.Machine.execGetMeasurements tr req s
  | .getSlhSig tr req => Sys2Proof.Machine.execGetSlhSig tr req s
  | .spdmSigningDone => Sys2Proof.Machine.execSpdmSigningDone s
  | .debugUnlock token => Sys2Proof.Machine.execDebugUnlock token s
  | .toReturn token => Sys2Proof.Machine.execToReturn token s
  | .toDecommissioned token => Sys2Proof.Machine.execToDecommissioned token s
  | .revokeKey token => Sys2Proof.Machine.execRevokeKey token s
  | .queryDeviceIdentifiers tr req => Sys2Proof.Machine.execQueryDeviceIdentifiers tr req s
  | .getFirmwareParameters tr req => Sys2Proof.Machine.execGetFirmwareParameters tr req s
  | .requestUpdate tr req => Sys2Proof.Machine.execRequestUpdate tr req s
  | .passComponentTable tr req => Sys2Proof.Machine.execPassComponentTable tr req s
  | .updateComponent tr req => Sys2Proof.Machine.execUpdateComponent tr req s
  | .requestFirmwareData tr req => Sys2Proof.Machine.execRequestFirmwareData tr req s
  | .transferComplete tr req => Sys2Proof.Machine.execTransferComplete tr req s
  | .verifyComplete tr req => Sys2Proof.Machine.execVerifyComplete tr req s
  | .applyComplete tr req => Sys2Proof.Machine.execApplyComplete tr req s
  | .activateFirmware tr req => Sys2Proof.Machine.execActivateFirmware tr req s
  | .getStatus tr req => Sys2Proof.Machine.execGetStatus tr req s
  | .cancelUpdate tr req => Sys2Proof.Machine.execCancelUpdate tr req s
  | .powerOnResetRelease => Sys2Proof.Machine.execPowerOnResetRelease s
  | .vinApplied vin => Sys2Proof.Machine.execVinApplied vin s
  | .hostPortOutOfL0 port => Sys2Proof.Machine.execHostPortOutOfL0 port s
  | .fecBlockLockLoss link => Sys2Proof.Machine.execFecBlockLockLoss link s
  | .hostReadDone slot data => Sys2Proof.Machine.execHostReadDone slot data s

end Sys2Proof.Machine
end

