-- ==== Sys2Proof/Machine/FrondWord.lean ====
section
/-!
DEFINITION. A frond executes an instruction word: the commands of the frond's instructions are what its words decode to.
-/

namespace Sys2Proof.Machine

/-- Frond f executes an instruction word: the command that it is, or ILLEGAL where no table lists it (R160, R161, R197,
R198). -/
def frondWord (f : Fin 128) (w : FrondWord) (s : State) : Host.Outcome State Fault Refusal :=
  match decodeFrond f w with
  | some i => exec i s
  | none => .next (illegalWord f s)

end Sys2Proof.Machine
end

