-- ==== Sys2Proof/Machine/RegView.lean ====
section
/-!
DEFINITION. What a read of a function's BAR0 returns (R24 to R29 and the register tables of the chapters), and the pads that
the module drives (R580). No row of the table is a read, and a read changes no state (log 145).
-/

namespace Sys2Proof.Machine

/-- A flag as bit k of a word. -/
def flagAt (b : Bool) (k : Nat) : Nat := if b then 2 ^ k else 0

/-- The number of a queue state (R401). -/
def qstNum : QState → Nat
  | .disabled => 0 | .active => 1 | .error => 2 | .draining => 3

/-! ## RING_ (R378, R401) -/

/-- STALLED of an SQ (R390). -/
def sqStalled (q : Sq) : Bool := q.stOutlim || q.stQuota || q.stCq

/-- RING_SQ_STATE. -/
def ringSqState (s : State) (fn n : Nat) : Nat :=
  let q := s.sq fn n
  2 ^ 30 * qstNum q.st + 2 ^ 24 * q.cause + flagAt (sqStalled q) 23 + flagAt q.stOutlim 22 + flagAt q.stQuota 21 +
  flagAt q.stCq 20 + flagAt q.stChain 19 + flagAt q.stPhase 18 + sqOut s fn n

/-- FULL of a CQ: used equals size. -/
def cqIsFull (c : Cq) : Bool := decide (c.st ≠ .disabled) && decide (ringUsed c.log2 c.tail.toNat c.head.toNat = 2 ^ c.log2)

/-- RING_CQ_STATE. -/
def ringCqState (c : Cq) : Nat :=
  2 ^ 30 * qstNum c.st + 2 ^ 24 * c.cause + flagAt (cqIsFull c) 23 + 2 ^ 16 * c.buf.length + flagAt (!c.held.isEmpty) 15

/-- Registers of a queue window; one at or above the SQ quota reads as zero (R28). -/
def windowReg (s : State) (fn off : Nat) : Nat :=
  let n := off / 128
  if (s.inst fn).res.sqs ≤ n then 0
  else
    match off % 128 with
    | 0x00 => (s.sq fn n).tail.toNat
    | 0x08 => ringSqState s fn n
    | 0x0C => (s.sq fn n).head.toNat
    | _ => 0

/-- RING_ registers; in a VF view the counters are the instance's, and a CQ at or above the quota reads as zero. -/
def ringReg (s : State) (fn off : Nat) : Nat :=
  let c := if fn = 0 then s.ring.cnt else s.ring.instCnt.get RingCnt.zero fn
  let n := off % 0x4000 / 4
  if off = 0x00 then 0x2000100040100488
  else if off = 0x08 then c.accepted.toNat
  else if off = 0x10 then c.dupHits.toNat
  else if off = 0x18 then c.sporeUsed.toNat
  else if off = 0x20 then c.sporeStale.toNat
  else if off = 0x28 then c.sporeMismatch.toNat
  else if off = 0x30 then c.phaseWaits.toNat
  else if off = 0x38 then c.qerrors.toNat
  else if off < 0x4000 ∨ 0xC000 ≤ off ∨ (s.inst fn).res.cqs ≤ n then 0
  else if off < 0x8000 then (s.cq fn n).head.toNat
  else ringCqState (s.cq fn n)

/-! ## DSP_ (R310) -/

/-- Items of a list that are not yet handed out; an open request of a digest context counts as one. -/
def listDepth (s : State) (r : ReadyList) : Nat :=
  (r.cursors.map fun x =>
    if x.kind = .digOpen then 1
    else if x.kind = .digFrond then 1 + s.eng.digAsks.get 0 x.pipe
    else match takenQuery s x.slot with
      | some (_, q) => cursorLeft q x
      | none => 0).sum

/-- DSP_PROFILE. -/
def dspProfile (s : State) : Nat :=
  2 ^ 16 * (affWait s / 100) + 2 ^ 9 * s.disp.latLevel.toNat + flagAt (decide (s.disp.profile = 1)) 8 + s.disp.profile.toNat

/-- DSP_LIST entry; one of another instance reads as zero in a VF view. -/
def dspList (s : State) (fn n : Nat) : Nat :=
  let r := s.disp.lists.get ReadyList.free n
  if fn ≠ 0 ∧ r.inst ≠ fn then 0
  else 2 ^ 24 * r.inst + 2 ^ 21 * r.level + 2 ^ 19 * r.cls + flagAt r.used 18 + min 0xFFFF (listDepth s r)

/-- DSP_FROND_LOAD entry. In a VF view CYCLES counts the instance's own work. -/
def dspLoad (s : State) (fn f : Nat) : Nat :=
  let cycles := if fn = 0 then s.disp.frondLoad.get 0 f else s.disp.frondOwn.get 0 (1024 * fn + f)
  let running := match (s.frond f).item with
    | some _ => if fn = 0 ∨ (s.frond f).inst.toNat = fn then 2 ^ 24 * (s.frond f).inst.toNat + 2 ^ 23 else 0
    | none => 0
  running + cycles.toNat

/-- DSP_ENG_OCC entry; in a VF view the instance's own work. -/
def dspOcc (s : State) (fn j : Nat) : Nat :=
  (if fn = 0 then s.disp.engOcc.get 0 j else s.disp.engOwn.get 0 (1024 * fn + j)).toNat

/-- DSP_SQ_DEPTH entry. -/
def dspSqDepth (s : State) (fn n : Nat) : Nat :=
  let q := s.sq fn n
  flagAt (sqStalled q) 31 + ringUsed q.log2 q.tail.toNat q.head.toNat

/-- DSP_ registers. -/
def dspReg (s : State) (fn off : Nat) : Nat :=
  if off = 0x00 then 0x0000401008000801
  else if off = 0x08 then dspProfile s
  else if off = 0x0C then s.disp.timers.length
  else if off = 0x10 then s.disp.tmrWaits.toNat
  else if off = 0x18 then s.disp.flowWaits.toNat
  else if off = 0x20 then s.disp.deadlines.toNat
  else if 0x100 ≤ off ∧ off < 0x300 then (if fn = 0 then (s.disp.lvlHist.get 0 ((off - 0x100) / 4)).toNat else 0)
  else if 0x400 ≤ off ∧ off < 0x600 then dspLoad s fn ((off - 0x400) / 4)
  else if 0x600 ≤ off ∧ off < 0x644 then dspOcc s fn ((off - 0x600) / 4)
  else if 0x1000 ≤ off ∧ off < 0x3000 then dspList s fn ((off - 0x1000) / 4)
  else if 0x4000 ≤ off ∧ off < 0x8000 then
    let k := (off - 0x4000) / 4
    if fn = 0 then (s.disp.instHist.get 0 k).toNat
    else if k < 16 then (s.disp.instHist.get 0 (16 * fn + k)).toNat else 0
  else if 0x8000 ≤ off ∧ off < 0x10000 then dspSqDepth s fn ((off - 0x8000) / 4)
  else 0

/-! ## CMU_, SMU_, DIG_ (R265, R284, R330) -/

/-- CMU_STATUS; SHADOW_ERR reads as zero in a VF view. -/
def cmuStatus (x : CmuUnit) (fn : Nat) : Nat :=
  2 ^ 24 * x.temp.toNat + flagAt x.fault 15 + flagAt (x.shadowErr && decide (fn = 0)) 14 + 2 ^ 10 * x.step + flagAt x.strict 9

/-- CMU_ registers. -/
def cmuReg (s : State) (fn off : Nat) : Nat :=
  let x := s.cmu (off / 256 % 16)
  let own := fun (all : W64) (k : Nat) => if fn = 0 then all.toNat else (x.instCnt.get 0 (4 * fn + k)).toNat
  let pf := fun (v : Nat) => if fn = 0 then v else 0
  if off = 0x00 then 0x0000000400400100
  else if off = 0x08 then pf s.eng.ratio.toNat
  else if off < 0x1000 ∨ 0x1400 ≤ off then 0
  else
    match off % 256 with
    | 0x00 => cmuStatus x fn
    | 0x08 => own x.searches 0
    | 0x10 => own x.autoBytes 1
    | 0x18 => own x.updSteps 2
    | 0x20 => pf x.cmpChecks.toNat
    | 0x28 => pf x.repairs.toNat
    | 0x2C => pf x.sweeps.toNat
    | 0x30 => x.thrUs.toNat
    | 0x38 => if fn = 0 then (x.tables.map (·.size)).sum else entUsed x fn
    | 0x3C => if fn = 0 then (x.images.map (·.nstate)).sum else stUsed x fn
    | _ => 0

/-- SMU_STATUS; INST and NIN read as zero in the view of a VF that does not own the job in the tree. -/
def smuStatus (s : State) (u fn : Nat) : Nat :=
  let x := s.smu u
  flagAt x.fault 15 + flagAt (treeJob s u).isSome 14 + flagAt x.strict 13 +
  (match treeJob s u with
    | none => 0
    | some j => if fn = 0 ∨ j.inst = fn then 2 ^ 24 * j.inst + j.nin else 0)

/-- SMU_ registers. -/
def smuReg (s : State) (fn off : Nat) : Nat :=
  let x := s.smu (off / 256 % 16)
  let own := fun (all : W64) (k : Nat) => if fn = 0 then all.toNat else (x.instCnt.get 0 (2 * fn + k)).toNat
  if off = 0x00 then 0x00000008404800C8
  else if off < 0x1000 ∨ 0x1800 ≤ off then 0
  else
    match off % 256 with
    | 0x00 => smuStatus s (off / 256 % 16) fn
    | 0x08 => own x.bytesIn 0
    | 0x10 => own x.done 1
    | 0x18 => x.busyUs.toNat
    | 0x20 => x.switches.toNat
    | _ => 0

/-- DIG_STATUS; CTX_USED gives only the instance's own slots in a VF view. -/
def digStatus (x : DguUnit) (fn : Nat) : Nat :=
  flagAt x.fault 31 + flagAt x.strict 30 + flagAt x.alarm 29 + 2 ^ 16 * (x.lanes.filter fun e => e.2.isSome).length +
  (x.ctxs.filter fun e => decide (e.2.st ≠ .free) && (decide (fn = 0) || decide (e.2.inst = fn))).length

/-- DIG_ registers. -/
def digReg (s : State) (fn off : Nat) : Nat :=
  let x := s.dgu (off / 256 % 16)
  let own := fun (all : W64) (k : Nat) => if fn = 0 then all.toNat else (x.instCnt.get 0 (4 * fn + k)).toNat
  let pf := fun (v : Nat) => if fn = 0 then v else 0
  if off = 0x00 then 0x0000000410400080
  else if off < 0x1000 ∨ 0x1400 ≤ off then 0
  else
    match off % 256 with
    | 0x00 => digStatus x fn
    | 0x08 => own x.bytes 0
    | 0x10 => own x.msgs 1
    | 0x18 => own x.mismatch 2
    | 0x20 => pf x.preempt.toNat
    | 0x28 => pf x.clears.toNat
    | _ => 0

/-! ## MEM_ (R356) -/

/-- Listed frames outside the system frames that are in one of some states. -/
def framesIn (s : State) (p : Frame → Bool) : Nat := (s.mem.frames.filter fun e => !isSysFrame s e.1 && p e.2).length

/-- System frames: 6,656 per die once the boot has taken them (R343). -/
def sysFrames (s : State) : Nat := if s.mem.sysUp then 4 * sysPerDie else 0

/-- A RELEASED frame that was an instance's. -/
def releasedBy (fn : Nat) (x : Frame) : Bool := decide (x.st = .released) && decide (x.tbl.toNat = fn)

/-- A frame waits for its scrub or for RECOLOUR. -/
def framePending (x : Frame) : Bool := decide (x.st = .released) || decide (x.st = .recolour)

/-- MEM_PAGES; in a VF view the frames that the instance holds, its unused quota and its own releases. It reads as it does after reset,
zero, until the boot has taken the system frames (R343, R356, R534; log 169). -/
def memPages (s : State) (fn : Nat) : Nat :=
  if !s.mem.sysUp then 0
  else if fn = 0 then
    let sys := sysFrames s + framesIn s (fun x => decide (x.st = .system))
    let free := nFrames - sysFrames s - framesIn s (fun x => decide (x.st ≠ .free))
    2 ^ 40 * framesIn s framePending + 2 ^ 20 * sys + free
  else
    let x := s.inst fn
    2 ^ 40 * framesIn s (releasedBy fn) + 2 ^ 20 * x.frames.length +
    (x.res.pages - x.frames.length)

/-- The record of the last error is one of a function's own; the PF reads every one. -/
def ownError (s : State) (fn : Nat) : Bool :=
  decide (fn = 0) || (decide (field s.mem.errInfo 23 16 = fn) && !s.mem.errInfo.getLsbD 15)

/-- MEM_STATUS; a VF view shows STRICT and SR alone. -/
def memStatus (s : State) (fn : Nat) : Nat :=
  flagAt (isStrict s) 31 + flagAt s.mem.sr 30 +
  (if fn ≠ 0 then 0
   else flagAt s.mem.ueSeen 29 + flagAt s.mem.cfSeen 28 + flagAt (s.mem.chans.any fun e => decide (e.2.st = .failed)) 27 +
     s.mem.temp.toNat)

/-- The number of a channel's state. -/
def chanNum : ChanState → Nat
  | .active => 0 | .selfRefresh => 1 | .retraining => 2 | .failed => 3

/-- The registers of a channel. -/
def chanReg (x : Chan) (off : Nat) : Nat :=
  match off with
  | 0x0 => x.ce.toNat
  | 0x4 => x.ue.toNat
  | 0x8 => x.retrain.toNat
  | 0xC => 2 ^ 24 * x.temp.toNat + 2 ^ 8 * (x.fails % 4) + chanNum x.st
  | _ => 0

/-- MEM_ registers. -/
def memReg (s : State) (fn off : Nat) : Nat :=
  let pf := fun (v : Nat) => if fn = 0 then v else 0
  if off = 0x00 then (if Config.binB then 0x00000C0000603200 else 0x00000C00006029AB)
  else if off = 0x08 then memStatus s fn
  else if off = 0x10 then memPages s fn
  else if off = 0x18 then pf s.mem.scrubBytes.toNat
  else if off = 0x20 then (if ownError s fn then s.mem.errAddr.toNat else 0)
  else if off = 0x28 then (if ownError s fn then s.mem.errInfo.toNat else 0)
  else if off = 0x30 then (if fn = 0 then s.mem.colourFaults else s.mem.instFaults.get 0 fn).toNat
  else if off = 0x38 then pf s.mem.retired.toNat
  else if 0x1000 ≤ off ∧ off < 0x1600 then pf (chanReg (s.chan ((off - 0x1000) / 16)) (off % 16))
  else 0

/-! ## PWR_, TEL_ (R436, R503, R525, R527, R528) -/

/-- PWR_ registers. -/
def pwrReg (s : State) (off : Nat) : Nat :=
  let k := (off - 0x100) / 4
  if off = 0x00 then 0x000001C2002305DC
  else if off = 0x08 then pwrState s
  else if off = 0x10 then s.pwr.idle1.toNat
  else if off = 0x14 then s.pwr.idle2.toNat
  else if off = 0x18 then s.pwr.idle3.toNat
  else if off = 0x20 then s.pwr.cap % 2048
  else if off = 0x24 then pwrBudget s
  else if off = 0x28 then s.pwr.waitCnt.toNat
  else if off = 0x30 then s.pwr.overruns.toNat
  else if off = 0x38 then s.pwr.revokes.toNat
  else if off = 0x40 then flagAt s.pwr.sag 31 + 2 ^ 25 * s.pwr.sagSource.toNat + s.pwr.vinMv.toNat
  else if off = 0x44 then pwrFclk s
  else if 0x100 ≤ off ∧ off < 0x1A4 then flagAt (s.pwr.domWarn.get false k) 2 + domState s k
  else 0

/-- TEL_ registers; sensors and domains read as zero in a VF view in STRICT. -/
def telReg (s : State) (fn off : Nat) : Nat :=
  let hide := decide (fn ≠ 0) && isStrict s
  if off = 0x00 then flagAt s.tel.rollup 17 + flagAt s.tel.mirror 16 + s.tel.div.toNat
  else if off = 0x08 then s.tel.samples.toNat
  else if off = 0x10 then s.tel.calTime.toNat
  else if off = 0x18 then telInput s
  else if hide then 0
  else if 0x100 ≤ off ∧ off < 0x280 then telSensor s ((off - 0x100) / 4)
  else if 0x400 ≤ off ∧ off < 0x548 then (if off % 8 = 0 then telDomain s ((off - 0x400) / 8) else 0)
  else 0

/-! ## SEC_, LNK_, MP_, LOG_ (R479, R498, R548, R577) -/

/-- The number of a mailbox or token state. -/
def mstNum : MbxState → Nat
  | .idle => 0 | .busy => 1 | .done => 2 | .error => 3

/-- SEC_STATUS. -/
def secStatus (s : State) : Nat :=
  2 ^ 16 * s.sec.bootErr.toNat + 2 ^ 8 * s.sec.scope.toNat + flagAt s.sec.unlocked 7 + flagAt s.sec.bank 6 +
  flagAt s.sec.fallback 5 + s.sec.lifecycle.toNat

/-- SEC_ registers; a VF reads SEC_STATUS alone. -/
def secReg (s : State) (fn off : Nat) : Nat :=
  let nonce := (Config.nonce s.sec.nonceNo).toNat
  if off = 0x00 then secStatus s
  else if fn ≠ 0 then 0
  else if off = 0x08 then s.sec.svn.getD 0 0 + 2 ^ 8 * s.sec.svn.getD 1 0 + 2 ^ 16 * s.sec.svn.getD 2 0
  else if off = 0x10 then Config.uid.toNat % 2 ^ 64
  else if off = 0x18 then Config.uid.toNat / 2 ^ 64
  else if off = 0x20 then nonce % 2 ^ 64
  else if off = 0x28 then nonce / 2 ^ 64
  else if off = 0x30 then s.sec.tokenAddr.toNat
  else if off = 0x38 then 2 ^ 16 * mstNum s.sec.tokenSt + 2 ^ 8 * s.sec.tokenErr.toNat
  else 0

/-- LNK_HIER. -/
def lnkHier (s : State) : Nat :=
  flagAt s.lnk.manager 31 + flagAt s.lnk.adopted 30 + 2 ^ 28 * (s.lnk.level % 4) + 2 ^ 16 * (s.lnk.index % 64) +
  s.lnk.workers.length % 128

/-- The number of a link's state. -/
def linkNum : LinkState → Nat
  | .down => 0 | .training => 1 | .up => 2 | .retraining => 3

/-- The registers of a link. -/
def linkReg (x : Link) (off : Nat) : Nat :=
  match off with
  | 0x0 => 2 ^ 30 * linkNum x.st + 2 ^ 8 * x.window.length + min 255 (x.credits.get 0 4)
  | 0x4 => x.crcErr.toNat
  | 0x8 => x.replay.toNat
  | 0xC => x.retrain.toNat
  | _ => 0

/-- LNK_ registers; the per-link ones read as zero in a VF view. -/
def lnkReg (s : State) (fn off : Nat) : Nat :=
  if off = 0x00 then 0x0000001010084040
  else if off = 0x08 then lnkHier s
  else if fn = 0 ∧ 0x1000 ≤ off ∧ off < 0x1100 then linkReg (s.link ((off - 0x1000) / 16)) (off % 16)
  else 0

/-- The number of a core's state. -/
def mcNum : McState → Nat
  | .active => 0 | .standby => 1 | .testing => 2 | .out => 3

/-- RETURN_MS: ms of the 100 ms still to run, whole or begun. -/
def returnMs (s : State) : Nat :=
  match s.mp.returnFrom with
  | none => 0
  | some t => 100 - (s.time - t) / 1000000

/-- MP_STATUS. -/
def mpStatus (s : State) : Nat :=
  2 ^ 16 * returnMs s + 2 ^ 6 * mcNum s.mp.stB + 2 ^ 4 * mcNum s.mp.stA + flagAt s.mp.activating 3 + flagAt s.mp.arbitrating 2 +
  flagAt s.mp.lockstep 1 + flagAt s.mp.actSel 0

/-- MP_HEALTH of a core. -/
def mpHealth (h : McHealth) : Nat :=
  2 ^ 8 * h.failSlice.toNat + 2 ^ 4 * (h.retests % 4) + flagAt h.contFail 3 + flagAt h.stFail 2 + flagAt h.stPass 1 + flagAt h.contOk 0

/-- MP_ registers; a VF reads MP_STATUS alone. -/
def mpReg (s : State) (fn off : Nat) : Nat :=
  if off = 0x00 then mpStatus s
  else if fn ≠ 0 then 0
  else if off = 0x08 then s.mp.arbs.toNat
  else if off = 0x10 then mpHealth s.mp.healthA
  else if off = 0x14 then mpHealth s.mp.healthB
  else if off = 0x18 then s.mp.lastUs.toNat
  else 0

/-- LOG_ registers. -/
def logReg (s : State) (off : Nat) : Nat :=
  if off = 0x00 then s.log.next.toNat else if off = 0x08 then s.log.next.toNat - 4096 else 0

/-! ## HAW (R472) -/

/-- An on-die sensor that is not usable after a calibration pass (R519). -/
def sensorLost (s : State) : Bool := decide (s.tel.calTime ≠ 0) && (List.range 72).any fun k => !(s.sensor k).valid

/-- DEGRADED: an SSD, memory channel, engine unit or management core is out of service, the reference is lost, or a sensor is
invalid (R472, R495, R500, R519). -/
def degraded (s : State) : Bool :=
  (s.store.ssds.any fun e => e.2.failed) || (s.mem.chans.any fun e => decide (e.2.st = .failed)) ||
  (s.eng.cmu.any fun e => e.2.fault) || (s.eng.smu.any fun e => e.2.fault) || (s.eng.dgu.any fun e => e.2.fault) ||
  decide (3 ≤ s.mp.healthA.retests) || decide (3 ≤ s.mp.healthB.retests) || s.pwr.refLost || sensorLost s

/-- THERMAL: a CMU throttle step above 0, or a junction above 100 °C. -/
def thermal (s : State) : Bool :=
  (s.eng.cmu.any fun e => decide (0 < e.2.step)) ||
  (hottest s 0 72).any fun t => decide (100 * 16 < t)

/-- The health byte, which the sideband also reads (R24). FAULT is the recovery of R535 (log 145). -/
def healthByte (s : State) : Nat :=
  flagAt (s.pads.booted && !s.pads.inReset) 7 + flagAt s.store.mounted 6 + flagAt (degraded s) 5 + flagAt (thermal s) 4 +
  flagAt s.pwr.sag 3 + flagAt s.mp.activating 2 + flagAt (!s.mp.lockstep) 1 + flagAt s.sec.recovery 0

/-- The number of an instance state (R438). -/
def istNum : InstState → Nat
  | .absent => 0 | .active => 1 | .resizing => 2 | .resetting => 3 | .destroying => 4

/-- HAW_STATUS. -/
def hawStatus (s : State) (fn : Nat) : Nat :=
  2 ^ 16 * s.sec.attProfile.toNat + 2 ^ 8 * istNum (s.inst fn).st + healthByte s

/-- Items of an instance not yet handed out at level l; saturates. -/
def lvlDepth (s : State) (fn l : Nat) : Nat :=
  min 0xFFFF (((s.disp.lists.filter fun e => e.2.used && decide (e.2.inst = fn) && decide (e.2.level = l)).map
    fun e => listDepth s e.2).sum)

/-- A word of HAW_LVL_DEPTH. -/
def lvlWord (s : State) (fn l : Nat) : Nat :=
  lvlDepth s fn l + 2 ^ 16 * lvlDepth s fn (l + 1) + 2 ^ 32 * lvlDepth s fn (l + 2) + 2 ^ 48 * lvlDepth s fn (l + 3)

/-- HAW registers. -/
def hawReg (s : State) (fn off : Nat) : Nat :=
  let h := s.getHaw fn
  let n := off % 0x400 / 4
  if off = 0x00 then
    2 ^ 48 * (if fn = 0 then 0x8800 else 0x8801) + 2 ^ 32 * 0x1EA7 + 2 ^ 24 * 0xB0 + s.mp.runVer.toNat / 256
  else if off = 0x08 then hawStatus s fn
  else if off = 0x0C then h.events.toNat
  else if off = 0x10 then s.time % 2 ^ 64
  else if off = 0x18 then hawPowerWord s
  else if off = 0x1C then s.tel.hawTemp.toNat
  else if off = 0x20 then 2 ^ 32 * (s.inst fn).res.slots + slotsHeld s fn
  else if off = 0x28 then (s.ring.instCnt.get RingCnt.zero fn).slotStalls.toNat
  else if off = 0x40 then lvlWord s fn 0
  else if off = 0x48 then lvlWord s fn 4
  else if off = 0x50 then s.log.next.toNat
  else if off = 0x58 then 2 ^ 16 * (h.vector % 2048) + h.en.toNat
  else if 0x400 ≤ off ∧ off < 0x800 then
    let q := s.sq fn n
    2 ^ 30 * qstNum q.st + flagAt (sqStalled q) 23 + q.head.toNat
  else if 0x800 ≤ off ∧ off < 0xC00 then
    let c := s.cq fn n
    2 ^ 30 * qstNum c.st + flagAt (cqIsFull c) 23 + c.tail.toNat
  else 0

/-! ## Mailbox (R460) -/

/-- Mailbox words. -/
def mbxWord (s : State) (fn off : Nat) : Nat :=
  let m := s.getMbx fn
  if off < 0x40 then m.cmd.toNat / 2 ^ (8 * off) % 2 ^ 32
  else if off = 0x40 then m.seq.toNat
  else if off = 0x50 then
    2 ^ 30 * mstNum m.st + flagAt m.replay 29 + flagAt m.held 28 + 2 ^ 16 * m.err + 2 ^ 8 * m.mop + m.rlen
  else if 0x100 ≤ off ∧ off < 0x200 then leAt m.resp (off - 0x100) 4
  else 0

/-! ## MSI-X and the telemetry mirror (R25, R26, R400, R523, R526) -/

/-- A word of the MSI-X table. -/
def msixWord (s : State) (fn off : Nat) : Nat :=
  (s.lnk.msix.get msixReset (2048 * fn + off / 16)).toNat / 2 ^ (8 * (off % 16)) % 2 ^ 32

/-- A word of the MSI-X pending bits. -/
def pbaWord (s : State) (fn off : Nat) : Nat :=
  ((List.range 32).map fun k =>
    flagAt (s.lnk.msixPend.any fun e => decide (e.2 = (fn, 8 * off + k))) k).sum

/-- The 512-byte record of a worker. -/
def workerBytes (r : WorkerRec) : List Byte :=
  leBytes r.timeRx.toNat 8 ++ r.head ++ zeros (64 - r.head.length) ++ leBytes r.subCount.toNat 4 ++ leBytes r.subPower.toNat 4 ++
  [r.subHot] ++ zeros 431

/-- A word of the telemetry mirror of a function. -/
def mirrorWord (s : State) (fn off : Nat) : Nat :=
  if off < 0x380 then leAt (s.tel.mirrorHead.get [] fn) off 4
  else if 0x1000 ≤ off ∧ off < (if fn = 0 then 0x5000 else 0x1040) then
    leAt (s.tel.mirrorRec.get [] (256 * fn + (off - 0x1000) / 64)) (off % 64) 4
  else if fn = 0 ∧ 0x80000 ≤ off ∧ off < 0x80000 + 512 * s.lnk.workers.length then
    leAt (workerBytes (s.tel.workers.get WorkerRec.zero ((off - 0x80000) / 512))) (off % 512) 4
  else 0

/-! ## Reads (R24 to R29) -/

/-- The register that begins at an offset of the register blocks and the HAW; 0 where none begins. -/
def regAt (s : State) (fn off : Nat) : Nat :=
  let o := off % 0x10000
  match off / 0x10000 with
  | 0x0 => if off < 0x1000 then hawReg s fn o else 0
  | 0x1 => ringReg s fn o
  | 0x2 => dspReg s fn o
  | 0x3 => cmuReg s fn o
  | 0x4 => smuReg s fn o
  | 0x5 => digReg s fn o
  | 0x6 => memReg s fn o
  | 0x7 => pwrReg s o
  | 0x8 => telReg s fn o
  | 0x9 => secReg s fn o
  | 0xA => lnkReg s fn o
  | 0xB => mpReg s fn o
  | 0xC => logReg s o
  | _ => 0

/-- The 4-byte word at an offset: the low half of the register that begins there, or the high half of the 64-bit register
that began 4 bytes before. -/
def regWord (s : State) (fn off : Nat) : Nat :=
  if off % 8 = 4 then regAt s fn off % 2 ^ 32 + regAt s fn (off - 4) / 2 ^ 32 else regAt s fn off % 2 ^ 32

/-- The word at a 4-byte aligned offset of a function's BAR0; reserved ranges read as zero, and so does all of an ABSENT
function's BAR0 but its mailbox (R28, R438). -/
def readWord (s : State) (fn off : Nat) : Nat :=
  if 0x1000 ≤ off ∧ off < 0x2000 then mbxWord s fn (off - 0x1000)
  else if (s.inst fn).st = .absent then 0
  else if 0x100000 ≤ off ∧ off < 0x200000 then windowReg s fn (off - 0x100000)
  else if fn = 0 ∧ 0x200000 ≤ off ∧ off < 0x208000 then msixWord s 0 (off - 0x200000)
  else if fn = 0 ∧ 0x210000 ≤ off ∧ off < 0x210100 then pbaWord s 0 (off - 0x210000)
  else if fn = 0 ∧ 0x300000 ≤ off ∧ off < 0x400000 then mirrorWord s 0 (off - 0x300000)
  else if fn ≠ 0 ∧ 0xE0000 ≤ off ∧ off < 0xE0400 then msixWord s fn (off - 0xE0000)
  else if fn ≠ 0 ∧ 0xE8000 ≤ off ∧ off < 0xE8008 then pbaWord s fn (off - 0xE8000)
  else if fn ≠ 0 ∧ 0xF0000 ≤ off ∧ off < 0x100000 then mirrorWord s fn (off - 0xF0000)
  else if off < 0xD0000 then regWord s fn off
  else 0

/-- A naturally aligned read of 4 or 8 bytes; any other returns zero (R27). -/
def readBar (s : State) (fn off n : Nat) : Nat :=
  if n = 4 ∧ off % 4 = 0 then readWord s fn off
  else if n = 8 ∧ off % 8 = 0 then readWord s fn off + 2 ^ 32 * readWord s fn (off + 4)
  else 0

/-- A read that R27 admits: aligned, of 4 or 8 bytes, and not of a spore window (R378). -/
def readAdmitted (off n : Nat) : Bool :=
  (n = 4 ∨ n = 8) && decide (off % n = 0) && !(decide (0x100000 ≤ off) && decide (off < 0x200000) && decide (0x40 ≤ off % 128))

/-- What a host read of BAR0 gives, and the module after it: any other access than R27 and R378 admit returns zero and is logged
with its offset; reserved ranges read as zero without an event (R28). No row of the table is such a read. -/
def barRead (fn off n : Nat) (s : State) : Nat × State :=
  (readBar s fn off n, if readAdmitted off n || barReserved s fn off then s else badAccess fn off s)

/-- Offset, size and reset value of registers for which a register table gives one (R265, R284, R310, R330, R401, R436, R460, R498,
R527, R528, R577). -/
def resetRegs : List (Nat × Nat × Nat) :=
  [(0x10000, 8, 0x2000100040100488), (0x20000, 8, 0x0000401008000801), (0x20008, 4, 0x000A0800), (0x30000, 8, 0x0000000400400100),
   (0x30008, 4, 0x0000000A), (0x31000, 4, 0), (0x40000, 8, 0x00000008404800C8), (0x41000, 4, 0), (0x50000, 8, 0x0000000410400080),
   (0x51000, 4, 0), (0x60008, 4, 0), (0x60028, 4, 0), (0x70000, 8, 0x000001C2002305DC), (0x70008, 4, 0), (0x70010, 4, 0x00000014),
   (0x70014, 4, 0x000007D0), (0x70018, 4, 0x000F4240), (0x70020, 4, 0x000005F0), (0x70024, 4, 0), (0x70040, 4, 0),
   (0x70044, 4, 0x18181818), (0x70100, 4, 0), (0x80000, 4, 0x0001000A), (0x80018, 8, 0), (0x90038, 4, 0), (0xA0000, 8, 0x0000001010084040),
   (0xA1000, 4, 0), (0xB0000, 4, 0x00000042), (0xB0010, 4, 0), (0x1050, 4, 0)]

/-! ## Pads (R580) -/

/-- ALERT_N: low while FAULT, SAG or THERMAL is set. -/
def alertN (s : State) : Bool := !(s.sec.recovery || s.pwr.sag || thermal s)

/-- PGOOD: released once every rail of domains 1 to 40 is in range, low in every module reset. -/
def pgood (s : State) : Bool := s.pads.railsOk && !s.pads.inReset

end Sys2Proof.Machine
end

