-- ==== Sys2Proof/WellFormed.lean ====
section
/-!
DEFINITION. Which commands are well formed: every operand names something the module has (a command slot, a function, a queue,
a link, a unit, ...). The checks are by operand; `wf` gives each command those of its operands.
-/

namespace Sys2Proof

/-- Command slots 0 to 65,535 (R389), and above them the worker parts of fan-out commands of other modules. -/
def slotOk (n : Nat) : Bool := decide (n < 131072)

/-- Functions, and instances, 0 to 255 (R437). -/
def fnOk (n : Nat) : Bool := decide (n < 256)

/-- Submission queue numbers (R357). -/
def sqOk (n : Nat) : Bool := decide (n < 8192)

/-- Completion queue numbers (R357). -/
def cqOk (n : Nat) : Bool := decide (n < 4096)

/-- Rhizome links RL00 to RL15 (R556). -/
def linkOk (n : Nat) : Bool := decide (n < 16)

/-- Host ports HP0 and HP1 (R550). -/
def portOk (n : Nat) : Bool := decide (n < 2)

/-- SPDM and PLDM transports: 0 DOE, 1 MCTP (R538, R546). -/
def trOk (n : Nat) : Bool := decide (n < 2)

/-- Memory channels C00 to C95 (R331). -/
def chOk (n : Nat) : Bool := decide (n < 96)

/-- Quadrants of fronds (R30, R31). -/
def quadOk (n : Nat) : Bool := decide (n < 16)

/-- Frond dies (R17). -/
def dieOk (n : Nat) : Bool := decide (n < 4)

/-- A die, when one is named. -/
def dieOptOk (d : Option Nat) : Bool := match d with | some n => dieOk n | none => true

/-- Units of an engine kind. -/
def unitOk (n u : Nat) : Bool := decide (u < n)

/-- Engine kinds: 0 CMU, 1 SMU, 2 DGU. -/
def kindOk (n : Nat) : Bool := decide (n < 3)

/-- Stream tags of a frond (R168). -/
def tagOk (n : Nat) : Bool := decide (n < 16)

/-- Pipelines of a plan (R38). -/
def pipeOk (n : Nat) : Bool := decide (n < 16)

/-- Operator entries of a plan (R38). -/
def opOk (n : Nat) : Bool := decide (n < 1024)

/-- Levels (R287). -/
def levelOk (n : Nat) : Bool := decide (n < 8)

/-- Physical frames (R333). -/
def frameOk (n : Nat) : Bool := decide (n < 786432)

/-- Pages of an instance (R337). -/
def pageOk (n : Nat) : Bool := decide (n < 134217728)

/-- Device addresses (R337). -/
def addrOk (n : Nat) : Bool := decide (n < 2 ^ 48)

/-- Requesters: an instance, or none for the system. -/
def reqOk (r : Option Nat) : Bool := match r with | some n => fnOk n | none => true

/-- Power domains (R30). -/
def domOk (n : Nat) : Bool := decide (n < 41)

/-- VALID of a digest message's last word (R317). -/
def validOk (n : Nat) : Bool := decide (n < 16)

/-- Requester identities at a digest context port (R313). -/
def accOk (n : Nat) : Bool := decide (n < 2 ^ 32)

/-- A flit whose fields have their widths (R557). -/
def flitOk (f : FlitIn) : Bool :=
  decide (f.ftype < 8) && decide (f.vc < 8) && decide (f.seq < 4096) && decide (f.ackseq < 4096) &&
  decide (f.payload.length ≤ 244)

/-- A frame whose fields have their widths (R561). -/
def frameInOk (f : FrameIn) : Bool :=
  decide (f.hops < 256) && decide (f.hopIdx < 256) && fnOk f.inst && decide (f.fseq < 2 ^ 32) &&
  decide (f.payload.length ≤ 16352)

/-- A register write reaches a function's BAR0 through a port, or a digest unit's context port. -/
def targetOk (t : WrTarget) : Bool :=
  match t with
  | .bar0 fn port off => fnOk fn && portOk port && decide (off < 2 ^ 26)
  | .ctxPort unit slot acc off => unitOk 4 unit && decide (slot < 64) && accOk acc && decide (off < 4096)

/-- A command is well formed when each of its operands is. -/
def wf (i : Instr) : Bool :=
  match i with
  | .nop slot => slotOk slot
  | .query slot => slotOk slot
  | .queryPoint slot => slotOk slot
  | .storeWrite slot => slotOk slot
  | .storeRead slot => slotOk slot
  | .storeAppend slot => slotOk slot
  | .storeFlush slot => slotOk slot
  | .storeTrim slot => slotOk slot
  | .storeAttrCreate slot => slotOk slot
  | .storeAttrDelete slot => slotOk slot
  | .storeAttrGet slot => slotOk slot
  | .storeAttrResize slot => slotOk slot
  | .digest slot => slotOk slot
  | .digestVerify slot => slotOk slot
  | .matchUpdate slot => slotOk slot
  | .matchSearch slot => slotOk slot
  | .abort slot => slotOk slot
  | .ringSqTailWrite inst sq _ => fnOk inst && sqOk sq
  | .sporeWrite inst sq _ => fnOk inst && sqOk sq
  | .ringCqHeadWrite inst cq _ => fnOk inst && cqOk cq
  | .registerWrite tgt _ => targetOk tgt
  | .commandFetchStart inst sq => fnOk inst && sqOk sq
  | .sqEntryReadDone inst sq _ _ => fnOk inst && sqOk sq
  | .sporeCompareReadDone inst sq _ _ => fnOk inst && sqOk sq
  | .paramBlockReadDone slot _ => slotOk slot
  | .groupDirectoryReadDone slot => slotOk slot
  | .flowIdWaitEnd slot => slotOk slot
  | .deadlineTimerWaitEnd slot => slotOk slot
  | .itemDispatch _ unit => unitOk 8 unit
  | .affWaitExpiry slot pipe => slotOk slot && pipeOk pipe
  | .itemEnd _ _ => true
  | .commitFinish slot => slotOk slot
  | .completionBufferDrain inst cq => fnOk inst && cqOk cq
  | .cqAggTimeExpiry inst cq => fnOk inst && cqOk cq
  | .deadlineExpiry slot => slotOk slot
  | .breakerFinish slot pipe => slotOk slot && pipeOk pipe
  | .flowServiceEnd slot pipe op _ => slotOk slot && pipeOk pipe && opOk op
  | .handoffBatchTaken slot pipe _ _ => slotOk slot && pipeOk pipe
  | .quadrantPark quad => quadOk quad
  | .admissionRequest _ _ level inst _ die => levelOk level && reqOk inst && dieOptOk die
  | .grantGiven => true
  | .grantRelease _ => true
  | .grantExpiry _ => true
  | .telemetrySample _ => true
  | .capLimitRise => true
  | .thermalLimitRise die => dieOk die
  | .frondClockStep die => dieOk die
  | .observationWindowEnd loads occ => loads.all (fun e => decide (e.1 < 128)) && occ.all fun e => decide (e < 17)
  | .frondStop _ => true
  | .budget _ => true
  | .doubleFaultRecovery _ => true
  | .statePageBacking _ => true
  | .streamRequestDone _ tag _ => tagOk tag
  | .addi _ _ _ _ => true
  | .andi _ _ _ _ => true
  | .ori _ _ _ _ => true
  | .xori _ _ _ _ => true
  | .lui _ _ _ => true
  | .shi _ _ _ _ => true
  | .slti _ _ _ _ => true
  | .ldB _ _ _ _ => true
  | .ldH _ _ _ _ => true
  | .ldW _ _ _ _ => true
  | .ldD _ _ _ _ => true
  | .lduB _ _ _ _ => true
  | .lduH _ _ _ _ => true
  | .lduW _ _ _ _ => true
  | .stB _ _ _ _ => true
  | .stH _ _ _ _ => true
  | .stW _ _ _ _ => true
  | .stD _ _ _ _ => true
  | .fldS _ _ _ _ => true
  | .fldD _ _ _ _ => true
  | .fstS _ _ _ _ => true
  | .fstD _ _ _ _ => true
  | .br _ _ _ _ _ => true
  | .j _ _ => true
  | .jl _ _ => true
  | .jr _ _ => true
  | .jlr _ _ _ => true
  | .fp _ _ _ _ _ => true
  | .fmadd _ _ _ _ _ _ => true
  | .fmsub _ _ _ _ _ _ => true
  | .fnmadd _ _ _ _ _ _ => true
  | .fnmsub _ _ _ _ _ _ => true
  | .fcrd _ _ _ => true
  | .fcwr _ _ _ => true
  | .ho _ _ _ _ _ => true
  | .add _ _ _ _ => true
  | .sub _ _ _ _ => true
  | .opAnd _ _ _ _ => true
  | .opOr _ _ _ _ => true
  | .opXor _ _ _ _ => true
  | .sll _ _ _ _ => true
  | .srl _ _ _ _ => true
  | .sra _ _ _ _ => true
  | .slt _ _ _ _ => true
  | .sltu _ _ _ _ => true
  | .minS _ _ _ _ => true
  | .maxS _ _ _ _ => true
  | .minU _ _ _ _ => true
  | .maxU _ _ _ _ => true
  | .clz _ _ _ => true
  | .ctz _ _ _ => true
  | .popc _ _ _ => true
  | .bswap _ _ _ => true
  | .mulLo _ _ _ _ => true
  | .mulh _ _ _ _ => true
  | .mulhu _ _ _ _ => true
  | .divS _ _ _ _ => true
  | .divu _ _ _ _ => true
  | .rem _ _ _ _ => true
  | .remu _ _ _ _ => true
  | .trap _ _ => true
  | .eret _ => true
  | .fence _ => true
  | .wfe _ => true
  | .bpFlush _ => true
  | .bpBar _ => true
  | .bpUnbar _ => true
  | .spclr _ => true
  | .strIssue _ _ _ => true
  | .strWait _ _ => true
  | .strPoll _ _ _ => true
  | .strCancel _ => true
  | .vadd _ _ => true
  | .vsub _ _ => true
  | .vmul _ _ => true
  | .vmulhu _ _ => true
  | .vmin _ _ => true
  | .vmax _ _ => true
  | .vminu _ _ => true
  | .vmaxu _ _ => true
  | .vand _ _ => true
  | .vor _ _ => true
  | .vxor _ _ => true
  | .vandn _ _ => true
  | .vsll _ _ => true
  | .vsrl _ _ => true
  | .vsra _ _ => true
  | .vpick _ _ => true
  | .vopx _ _ _ => true
  | .veq _ _ => true
  | .vne _ _ => true
  | .vlt _ _ => true
  | .vge _ _ => true
  | .vltu _ _ => true
  | .vgeu _ _ => true
  | .vovadd _ _ => true
  | .vovsub _ _ => true
  | .vovmul _ _ => true
  | .vovaddu _ _ => true
  | .vovsubu _ _ => true
  | .vovmulu _ _ => true
  | .vcmpx _ _ _ => true
  | .vfadd _ _ => true
  | .vfsub _ _ => true
  | .vfmul _ _ => true
  | .vfdiv _ _ => true
  | .vfsqrt _ _ => true
  | .vfmin _ _ => true
  | .vfmax _ _ => true
  | .vfmacc _ _ => true
  | .vfeq _ _ => true
  | .vflt _ _ => true
  | .vfle _ _ => true
  | .vfteq _ _ => true
  | .vftlt _ _ => true
  | .vfcvti _ _ => true
  | .vicvtf _ _ => true
  | .vfwid _ _ => true
  | .mkand _ _ => true
  | .mkor _ _ => true
  | .mkxor _ _ => true
  | .mkandn _ _ => true
  | .mknot _ _ => true
  | .mkcopy _ _ => true
  | .mkcount _ _ => true
  | .mkfirst _ _ => true
  | .mkfill _ _ => true
  | .mkzero _ _ => true
  | .mtov _ _ => true
  | .vtom _ _ => true
  | .vcopy _ _ => true
  | .vbcast _ _ => true
  | .vext _ _ => true
  | .vins _ _ => true
  | .vseq _ _ => true
  | .vsqueeze _ _ => true
  | .vwid _ _ => true
  | .vwidu _ _ => true
  | .vnar _ _ => true
  | .vsumr _ _ => true
  | .vsumur _ _ => true
  | .vminr _ _ => true
  | .vmaxr _ _ => true
  | .vminur _ _ => true
  | .vmaxur _ _ => true
  | .vandr _ _ => true
  | .vorr _ _ => true
  | .vxorr _ _ => true
  | .vbitcnt _ _ => true
  | .vfsumr _ _ => true
  | .vfminr _ _ => true
  | .vfmaxr _ _ => true
  | .vld _ _ => true
  | .vst _ _ => true
  | .vlds _ _ => true
  | .vsts _ _ => true
  | .vgath _ _ _ _ => true
  | .vscat _ _ _ _ => true
  | .vunpk _ _ => true
  | .vpcmp _ _ => true
  | .vpsel _ _ => true
  | .vdict _ _ => true
  | .vrle _ _ => true
  | .vrlec _ _ => true
  | .vhash _ _ => true
  | .vhashx _ _ => true
  | .vhfin _ _ => true
  | .vpart _ _ => true
  | .vstrip _ _ => true
  | .memReadRequest req addr _ _ => reqOk req && addrOk addr
  | .memWriteRequest req addr _ => reqOk req && addrOk addr
  | .leafEntryChange inst page _ => fnOk inst && pageOk page
  | .releaseScrubBurst => true
  | .scrubFrameDone frame => frameOk frame
  | .recolourDone frame => frameOk frame
  | .patrolRead addr _ _ => addrOk addr
  | .retrainDue ch => chOk ch
  | .retrainDone ch _ => chOk ch
  | .refreshDue ch => chOk ch
  | .cmuSearchBurst unit slot pipe op _ => unitOk 4 unit && slotOk slot && pipeOk pipe && opOk op
  | .cmuShadowWriteAck unit => unitOk 4 unit
  | .cmuUpdateStep unit => unitOk 4 unit
  | .cmuComparerCheck unit _ _ _ => unitOk 4 unit
  | .cmuThrottleStepChange unit _ => unitOk 4 unit
  | .cmuCmpcfgWrite _ => true
  | .cmuTableReclaim inst _ => fnOk inst
  | .smuJobEnd unit => unitOk 8 unit
  | .smuQuantumExpiry unit => unitOk 8 unit
  | .engineUnitFault kind unit => kindOk kind && unitOk 8 unit
  | .fabricLink link => decide (link < 14)
  | .digContextOpen unit _ => unitOk 4 unit
  | .digStart unit slot acc _ => unitOk 4 unit && unitOk 64 slot && accOk acc
  | .digClose unit slot acc => unitOk 4 unit && unitOk 64 slot && accOk acc
  | .digDataWrite unit slot acc _ => unitOk 4 unit && unitOk 64 slot && accOk acc
  | .digLastWrite unit slot acc _ valid => unitOk 4 unit && unitOk 64 slot && accOk acc && validOk valid
  | .digFinish unit slot => unitOk 4 unit && unitOk 64 slot.slot
  | .dguLaneGrant unit slot => unitOk 4 unit && slotOk slot
  | .dguQuantumExpiry unit => unitOk 4 unit
  | .rotAlarm _ => true
  | .queueDrainComplete inst sq => fnOk inst && sqOk sq
  | .orderingWaitEnd slot => slotOk slot
  | .extentReadDone _ _ => true
  | .nvmeCompletion _ _ => true
  | .nvmeTimeout _ => true
  | .destage => true
  | .journalCommit => true
  | .journalCopyDone => true
  | .writeCacheRoom slot => slotOk slot
  | .storeMount _ => true
  | .idle1Expiry => true
  | .idle2Expiry => true
  | .idle3Expiry => true
  | .psEntryComplete => true
  | .psExitComplete => true
  | .info fn => fnOk fn
  | .instCreate fn _ => fnOk fn
  | .instResize fn _ => fnOk fn
  | .instReset fn => fnOk fn
  | .instanceFenceComplete inst => fnOk inst
  | .instanceResetFinish inst => fnOk inst
  | .instDestroy fn => fnOk fn
  | .resizeDrainDone inst => fnOk inst
  | .resizeDrainTimeout inst => fnOk inst
  | .functionLevelReset fn => fnOk fn
  | .vfEnableClear => true
  | .queueCreate fn => fnOk fn
  | .queueDelete fn => fnOk fn
  | .queueReset fn => fnOk fn
  | .planLoad fn _ _ => fnOk fn
  | .planUnload fn => fnOk fn
  | .cmuTableCreate fn _ => fnOk fn
  | .cmuTableRefill fn _ => fnOk fn
  | .cmuTableDelete fn => fnOk fn
  | .profileSet fn => fnOk fn
  | .profileSetComplete => true
  | .powerCapSet fn => fnOk fn
  | .telemetryCfg fn => fnOk fn
  | .fwStage fn _ => fnOk fn
  | .fwActivate fn => fnOk fn
  | .fwStandbyVerified _ => true
  | .fwHandover _ => true
  | .planReload inst _ => fnOk inst
  | .fwRejoin => true
  | .logRead fn => fnOk fn
  | .sidebandLogRead _ _ => true
  | .setRole fn => fnOk fn
  | .setWorkers fn _ => fnOk fn
  | .admitSsd fn _ => fnOk fn
  | .mcDiverge => true
  | .mcWatchdog _ => true
  | .mcCoreFault _ => true
  | .arbitrationVerdict _ _ _ _ => true
  | .standbySweepDone _ _ => true
  | .mcRetest _ _ => true
  | .mcRejoin => true
  | .mcReturn => true
  | .aonTick => true
  | .refclkLoss => true
  | .refclkReturn => true
  | .supplyWarning _ => true
  | .sagClear => true
  | .sensorCalibration _ => true
  | .thermalTrip _ => true
  | .thermalHoldEnd => true
  | .vinReset => true
  | .railReset dom => domOk dom
  | .powerOnReset => true
  | .modRstNAssert => true
  | .perstNAssert => true
  | .resetRelease _ => true
  | .boot _ => true
  | .hotReset port => portOk port
  | .hostLinkAbsenceTimeout port => portOk port
  | .hostLinkReturn port => portOk port
  | .cxlMemRead addr => addrOk addr
  | .cxlMemWrite addr _ => addrOk addr
  | .flitReceive link flit => linkOk link && flitOk flit
  | .flitAckTimeout link => linkOk link
  | .rhizomeRetrainDone link _ => linkOk link
  | .linkUpRetry link => linkOk link
  | .frameResendTimeout _ _ => true
  | .helloFrame link fr => linkOk link && frameInOk fr
  | .configFrame link fr => linkOk link && frameInOk fr
  | .byeFrame link fr => linkOk link && frameInOk fr
  | .planFrame link fr => linkOk link && frameInOk fr
  | .fanoutFrame link fr => linkOk link && frameInOk fr
  | .xdataFrame link fr => linkOk link && frameInOk fr
  | .endFrame link fr => linkOk link && frameInOk fr
  | .ackFrame link fr => linkOk link && frameInOk fr
  | .failFrame link fr => linkOk link && frameInOk fr
  | .stopFrame link fr => linkOk link && frameInOk fr
  | .barrierArmFrame link fr => linkOk link && frameInOk fr
  | .telemFrame link fr => linkOk link && frameInOk fr
  | .fanoutStopTimeout _ => true
  | .fanoutWorkerTimeout _ => true
  | .hbar0InFall => true
  | .hbar0InRise => true
  | .hbar0StopHold => true
  | .hbar1InFall => true
  | .hbar1InRise => true
  | .getVersion tr _ => trOk tr
  | .getCapabilities tr _ => trOk tr
  | .negotiateAlgorithms tr _ => trOk tr
  | .getDigests tr _ => trOk tr
  | .getCertificate tr _ => trOk tr
  | .challenge tr _ => trOk tr
  | .getMeasurements tr _ => trOk tr
  | .getSlhSig tr _ => trOk tr
  | .spdmSigningDone => true
  | .debugUnlock _ => true
  | .toReturn _ => true
  | .toDecommissioned _ => true
  | .revokeKey _ => true
  | .queryDeviceIdentifiers tr _ => trOk tr
  | .getFirmwareParameters tr _ => trOk tr
  | .requestUpdate tr _ => trOk tr
  | .passComponentTable tr _ => trOk tr
  | .updateComponent tr _ => trOk tr
  | .requestFirmwareData tr _ => trOk tr
  | .transferComplete tr _ => trOk tr
  | .verifyComplete tr _ => trOk tr
  | .applyComplete tr _ => trOk tr
  | .activateFirmware tr _ => trOk tr
  | .getStatus tr _ => trOk tr
  | .cancelUpdate tr _ => trOk tr
  | .powerOnResetRelease => true
  | .vinApplied _ => true
  | .hostPortOutOfL0 port => portOk port
  | .fecBlockLockLoss link => linkOk link
  | .hostReadDone slot _ => slotOk slot

end Sys2Proof
end

