-- ==== Sys2Proof/Safety.lean ====
section
/-!
DEFINITION. The terms in which claims are stated: when a frond executes an instruction and what a retired instruction leaves,
what a mailbox command needs to run, and the canonical form of memory.
-/

namespace Sys2Proof.Machine

/-! ## Memory -/

/-- The canonical form of a byte memory: addresses strictly rise, and no listed byte is the 0 that an unlisted address
reads as (log 14). -/
def Memory.wf (m : List (Nat × Byte)) : Bool := Tbl.wf 0 m

/-! ## Fronds -/

/-- Frond f executes the instruction it is given, and no asynchronous request is taken when it retires: it is not halted,
its clock runs, its pc may be fetched from and holds a word that the tables list, STOP and BUDGET are not requested, and fc.budget does
not run (R158, R160, R165, R175, R176). -/
structure Quiet (f : Nat) (s : State) : Prop where
  running : (s.frond f).halted = false
  clock : clockOn f s = true
  fetch : (s.frond f).fetchOk = true
  listed : (s.frond f).listed = true
  stop : (s.frond f).stopReq = false
  budget : (s.frond f).budgetReq = false
  still : (s.frond f).isK = true ∨ (s.frond f).budget = 0

/-- Frond f is not halted, its clock runs, and its pc may be fetched from and holds a word that the tables list. -/
structure Ready (f : Nat) (s : State) : Prop where
  running : (s.frond f).halted = false
  clock : clockOn f s = true
  fetch : (s.frond f).fetchOk = true
  listed : (s.frond f).listed = true

/-- What a retired instruction that makes `fr` of frond f's registers leaves: the next address, one more instruction in
fc.ret and fc.iss, some cycles in fc.cyc (log 3), fc.budget loaded where an operator is entered (R148), and nothing else changed. -/
def retired (f : Nat) (s : State) (fr : Frond) (pc n : W64) : State :=
  { s with seed := s.seed + 1 }.setFrond f { enterOp s fr pc with pc := pc, ret := fr.ret + 1, iss := fr.iss + 1, cyc := fr.cyc + n }

/-- Instruction i on frond f completes in every quiet state that meets `pre`: it changes the frond's registers as `g` says
and goes on at `next`. -/
def Completes (i : Instr) (f : Fin 128) (pre : Frond → Prop) (g : Frond → Frond) (next : Frond → W64) : Prop :=
  ∀ s : State, Quiet f.val s → pre (s.frond f.val) →
    ∃ n : W64, exec i s = .next (retired f.val s (g (s.frond f.val)) (next (s.frond f.val)) n)

/-- The instruction completes at the next address on every quiet state. -/
def Falls (i : Instr) (f : Fin 128) (g : Frond → Frond) : Prop := Completes i f (fun _ => True) g fun fr => fr.pc + 4

/-- A vector instruction of form v completes, and leaves fc.vri 0 (R196). -/
def VecFalls (i : Instr) (f : Fin 128) (v : VForm) (o : VOps) (g : Frond → Frond) : Prop :=
  v.ok o = true → Falls i f fun fr => { g fr with vri := 0 }

/-- Elements of va and vb at the instruction's width. -/
def laneA (fr : Frond) (o : VOps) (e : Nat) : Nat := elem (fr.vr o.a.toNat) (wBits o.w) e
def laneB (fr : Frond) (o : VOps) (e : Nat) : Nat := elem (fr.vr o.b.toNat) (wBits o.w) e

/-- A VOP instruction with minor opcode k: `op` on n-bit elements (R199). -/
def LaneOp (i : Instr) (f : Fin 128) (k : Nat) (o : VOps) (op : Nat → Nat → Nat → Nat) : Prop :=
  VecFalls i f (vopForm k) o fun fr =>
    writeActive fr o (wBits o.w) (effLen fr o.w) fun e => op (wBits o.w) (laneA fr o e) (laneB fr o e)

/-- The form of VCMP. -/
def cmpForm : VForm := { d := .mask, a := .any, b := .any, men := 1, ws := wInt }

/-- A VCMP instruction: `test` on n-bit elements (R200). -/
def MaskOp (i : Instr) (f : Fin 128) (o : VOps) (test : Nat → Nat → Nat → Bool) : Prop :=
  VecFalls i f cmpForm o fun fr =>
    writeMask fr o (effLen fr o.w) fun e => test (wBits o.w) (laneA fr o e) (laneB fr o e)

/-- A VFP instruction that writes vd: `op` of the format, the rounding mode and the elements of va (read at width wa), vb and
vd (R201). -/
def FloatOp (i : Instr) (f : Fin 128) (b : FldUse) (ws : List (BitVec 3)) (o : VOps) (wa : Nat)
    (op : Fmt → Nat → Nat → Nat → Nat → Nat × FFlags) : Prop :=
  VecFalls i f { d := .any, a := .any, b := b, men := 1, ws := ws } o fun fr =>
    let g := fun e => op (vfmt o) fr.frm.toNat (elem (fr.vr o.a.toNat) wa e) (laneB fr o e) (elem (fr.vr o.d.toNat) (wBits o.w) e)
    (writeActive fr o (wBits o.w) (effLen fr o.w) fun e => (g e).1).raise (flagsOf ((activeList fr o (effLen fr o.w)).map g))

/-- A VFP instruction that writes a mask. -/
def FloatTest (i : Instr) (f : Fin 128) (o : VOps) (test : Fmt → Nat → Nat → Bool × FFlags) : Prop :=
  VecFalls i f { d := .mask, a := .any, b := .any, men := 1, ws := wFp } o fun fr =>
    let g := fun e => test (vfmt o) (laneA fr o e) (laneB fr o e)
    (writeMask fr o (effLen fr o.w) fun e => (g e).1).raise (flagsOf ((activeList fr o (effLen fr o.w)).map g))

/-- A reduction of the active elements of va into gd (R204). -/
def Folds (i : Instr) (f : Fin 128) (ws : List (BitVec 3)) (o : VOps) (fold : Nat → List Nat → W64) : Prop :=
  VecFalls i f { d := .any, a := .any, b := .unused, men := 1, ws := ws } o fun fr =>
    fr.setG o.d (fold (wBits o.w) (activeVals fr o))

/-- Nothing but a frond's pc, predictor and counters, and the model's own seed, differs between two states. -/
def SameData (f : Nat) (s t : State) : Prop :=
  (t.frond f).g = (s.frond f).g ∧ (t.frond f).v = (s.frond f).v ∧ (t.frond f).m = (s.frond f).m ∧
  (t.frond f).sp = (s.frond f).sp ∧ (t.frond f).status = (s.frond f).status ∧ (t.frond f).tags = (s.frond f).tags ∧
  (∀ j, j ≠ f → t.frond j = s.frond j) ∧ t.mem = s.mem ∧ t.ring = s.ring ∧ t.log = s.log ∧ t.pending = s.pending

/-- The instruction raises an exception on every ready frond that meets `pre` and is not inside an exception handler: entry
as R174 says, with the pc of the instruction saved. -/
def Traps (i : Instr) (f : Fin 128) (pre : Frond → Prop) (code detail : Nat) : Prop :=
  ∀ s : State, Ready f.val s → pre (s.frond f.val) → (s.frond f.val).exl = false →
    ∃ t, exec i s = .next t ∧
      (t.frond f.val).epc = (s.frond f.val).pc ∧ (t.frond f.val).pc = (s.frond f.val).evec ∧
      (t.frond f.val).cause = BitVec.ofNat 64 (2 ^ 8 * detail + code) ∧
      (t.frond f.val).status = statusOf true (s.frond f.val).ie (s.frond f.val).isK true ∧
      (t.frond f.val).g = (s.frond f.val).g ∧ (t.frond f.val).v = (s.frond f.val).v ∧
      (t.frond f.val).m = (s.frond f.val).m ∧ (t.frond f.val).sp = (s.frond f.val).sp

/-- The scalar loads and stores of register d at ga + IMM16, each with its bytes (R160). -/
def scalarAccesses (f : Fin 128) (d a : BitVec 5) (imm : BitVec 16) : List (Instr × Nat) :=
  [(.ldB f d a imm, 1), (.ldH f d a imm, 2), (.ldW f d a imm, 4), (.ldD f d a imm, 8), (.lduB f d a imm, 1), (.lduH f d a imm, 2),
    (.lduW f d a imm, 4), (.fldS f d a imm, 4), (.fldD f d a imm, 8), (.stB f d a imm, 1), (.stH f d a imm, 2), (.stW f d a imm, 4),
    (.stD f d a imm, 8), (.fstS f d a imm, 4), (.fstD f d a imm, 8)]

/-- An access whose address ga + IMM16 meets `pre` traps with its address in fc.tval, and loads and stores nothing. -/
def AccessTraps (i : Instr) (f : Fin 128) (a : BitVec 5) (imm : BitVec 16) (pre : Frond → Nat → Prop) (code : Nat) : Prop :=
  Traps i f (fun fr => pre fr (spAddr fr a imm)) code 0 ∧
  ∀ s t : State, Ready f.val s → pre (s.frond f.val) (spAddr (s.frond f.val) a imm) → (s.frond f.val).exl = false →
    exec i s = .next t → (t.frond f.val).tval = BitVec.ofNat 64 (spAddr (s.frond f.val) a imm)

/-! ## Commands and events of the block -/

/-- Command c answers a next state from s, and `post` says what that state holds. -/
def Does (c : Instr) (s : State) (post : State → Prop) : Prop := ∃ t, exec c s = .next t ∧ post t

/-- Slot k holds command c with opcode opc: it has been handed on, no fence holds it, its outcome is open, and, unless it is a
NOP or ABORT, its CQ holds no entries back (R383, R385, R392). -/
structure Handed (k opc : Nat) (c : Cmd) (s : State) : Prop where
  holds : s.cmd k = some c
  phase : c.phase = .handed
  undecided : c.outcome = none
  opcode : c.opc = opc
  free : c.fenceOn = []
  cqFree : ringOpcode opc = true ∨ cmdHeldByCq c s = false

/-- Writes to the rings of instance i are taken, queue n is inside its quota, and the module is in PS0 (R28, R433, R455). -/
structure TakesRings (i : Nat) (s : State) : Prop where
  there : ringClosed s i = false
  awake : awake s = true

/-- The mailbox of function fn runs a command with code mop that passes the checks every command has first: it is captured,
neither held nor under way, firmware runs, the function exists, may issue it, and leaves the reserved bytes zero (R439, R465). -/
structure MbxRuns (fn mop : Nat) (r : MbxRule) (s : State) : Prop where
  busy : (s.getMbx fn).st = .busy
  taken : (s.getMbx fn).held = false
  fresh : (s.getMbx fn).started = false
  code : (s.getMbx fn).mop = mop
  runs : fwRuns s = true
  there : fnAbsent fn s = false ∨ mop = 0x01
  allowed : r.pfOnly = false ∨ fn = 0
  target : if r.targeted then fn = 0 ∨ (s.getMbx fn).target = fn else (s.getMbx fn).target = 0
  reserved : badReserved (s.getMbx fn) r.named = none

/-- The mailbox of function fn has ended its command with an error code, 0 for none (R462, R463). -/
def MbxEnded (fn err : Nat) (t : State) : Prop :=
  (t.getMbx fn).st = (if err = 0 then .done else .error) ∧ (t.getMbx fn).err = err

/-! ## Frames -/

/-- The frame of type ft that a command brings. -/
def brought (ft : Nat) (x : FrameIn) : RFrame :=
  ⟨ft, x.hops, x.hopIdx, x.inst, x.route, x.fseq, x.xid, x.payload⟩

/-- What its destination sees of the frame, which came in on link l. -/
def gotBy (ft l : Nat) (x : FrameIn) : Got := gotOf (crossed l (brought ft x))

/-- The fields of a frame have the widths of its header (R561). -/
structure Fits (f : RFrame) : Prop where
  ftype : f.ftype < 2 ^ 8
  hops : f.hops < 2 ^ 8
  hopIdx : f.hopIdx < 2 ^ 8
  inst : f.inst < 2 ^ 8
  fseq : f.fseq < 2 ^ 32
  len : f.payload.length < 2 ^ 16

/-- A frame comes in whole on a link that is UP, with nothing held in reset. -/
structure Arrives (ft l : Nat) (x : FrameIn) (s : State) : Prop where
  link : l < 16
  up : (s.link l).st = .up
  running : s.pads.inReset = false
  fits : Fits (brought ft x)
  hops : x.hops ≤ 8
  hopIdx : x.hopIdx ≤ 8

/-- The frame has reached its destination, a module in PS0 that takes part in no fan-out command (R564). -/
structure ForUs (ft l : Nat) (x : FrameIn) (s : State) : Prop extends Arrives ft l x s where
  last : x.hopIdx + 1 = x.hops
  awake : awake s = true
  alone : s.lnk.fans = []

/-- The frame has reached its destination for the first time, for an ACTIVE instance, and belongs to fan-out command `f`. -/
structure ForFan (ft l : Nat) (x : FrameIn) (f : Fan) (s : State) : Prop extends Arrives ft l x s where
  last : x.hopIdx + 1 = x.hops
  awake : awake s = true
  fan : s.lnk.fans = [f]
  xid : f.xid = x.xid
  active : (s.inst x.inst).st = .active
  fresh : s.lnk.seen.contains (routeKey (gotBy ft l x).back x.hops, x.fseq) = false

/-- The type and the payload of the frame sent last that waits for its acknowledgement, and where it goes. -/
def lastSent (t : State) : Option (Nat × W32 × List Byte) :=
  t.lnk.sent.getLast?.map fun x => (x.frame.ftype, x.frame.route, x.frame.payload)

/-- The frame of this module for a destination has been acknowledged by an ACKF that is sent, not kept (R561, R562). -/
def Acked (g : Got) (s t : State) : Prop :=
  t.lnk.fseq.get 0 (routeKey g.back g.hops) = (s.lnk.fseq.get 0 (routeKey g.back g.hops) + 1) % 2 ^ 32

/-! ## Buses of the root of trust -/

/-- The root of trust answers on a transport: 0 DOE, 1 MCTP over the I3C sideband (R538, R546). -/
structure BusUp (tr : Nat) (s : State) : Prop where
  transport : tr < 2
  running : s.pads.inReset = false
  powered : s.pads.porHeld = false

/-- The module answers command `code` with data `d` on a transport, and nothing else about its messages changes. -/
def Answers (tr code : Nat) (d : List Byte) (s t : State) : Prop := t.out.bus = s.out.bus ++ [⟨tr, code, d⟩]

/-! ## The invariant -/

/-- What every step keeps: the log holds at most 4,096 entries (R474), the memory is in canonical form (log 14), no link holds more than
64 flits unacknowledged (R559), and every command that waits is well formed. -/
structure Inv (s : State) : Prop where
  log : s.log.entries.length ≤ 4096
  mem : Memory.wf s.mem.bytes = true
  window : ∀ l, (s.link l).window.length ≤ 64
  queue : ∀ c, c ∈ s.pending → Sys2Proof.wf c = true

end Sys2Proof.Machine
end

