-- ==== Sys2Proof/Certificates/Slice0/Obligations.lean ====
section
/-!
DEFINITION. The statements for the provers.
-/

open Sys2Proof Sys2Proof.Machine

/-- The immediate operations give the results of R160 and R161; a write to g0 is discarded (R154).
The register operations give the results of R160 and R161: arithmetic modulo 2^64, shift amounts from bits [5:0] of gb.
Multiplication and division give the results of R162: by zero all ones or the dividend, and −2^63 by −1 gives −2^63 and 0. -/
def Obligations.ScalarResults : Prop :=
  (∀ f d a imm, Falls (.addi f d a imm) f fun fr => fr.setG d (fr.gr a + imm.signExtend 64)) ∧
  (∀ f d a imm, Falls (.andi f d a imm) f fun fr => fr.setG d (fr.gr a &&& imm.zeroExtend 64)) ∧
  (∀ f d a imm, Falls (.ori f d a imm) f fun fr => fr.setG d (fr.gr a ||| imm.zeroExtend 64)) ∧
  (∀ f d a imm, Falls (.xori f d a imm) f fun fr => fr.setG d (fr.gr a ^^^ imm.zeroExtend 64)) ∧
  (∀ f d imm, Falls (.lui f d imm) f fun fr => fr.setG d ((imm ++ (0 : BitVec 16)).signExtend 64)) ∧
  (∀ f d a imm, Falls (.slti f d a imm) f fun fr => fr.setG d (if (fr.gr a).slt (imm.signExtend 64) then 1 else 0)) ∧
  (∀ f d a imm, field imm 7 6 = 0 → Falls (.shi f d a imm) f fun fr => fr.setG d (fr.gr a <<< field imm 5 0)) ∧
  (∀ f d a imm, field imm 7 6 = 1 → Falls (.shi f d a imm) f fun fr => fr.setG d (fr.gr a >>> field imm 5 0)) ∧
  (∀ f d a imm, field imm 7 6 = 2 → Falls (.shi f d a imm) f fun fr => fr.setG d ((fr.gr a).sshiftRight (field imm 5 0))) ∧
  (∀ f d a imm, field imm 7 6 = 3 → Falls (.shi f d a imm) f fun fr => fr.setG d ((fr.gr a).rotateLeft (field imm 5 0))) ∧
  (∀ f d a b, Falls (.add f d a b) f fun fr => fr.setG d (fr.gr a + fr.gr b)) ∧
  (∀ f d a b, Falls (.sub f d a b) f fun fr => fr.setG d (fr.gr a - fr.gr b)) ∧
  (∀ f d a b, Falls (.opAnd f d a b) f fun fr => fr.setG d (fr.gr a &&& fr.gr b)) ∧
  (∀ f d a b, Falls (.opOr f d a b) f fun fr => fr.setG d (fr.gr a ||| fr.gr b)) ∧
  (∀ f d a b, Falls (.opXor f d a b) f fun fr => fr.setG d (fr.gr a ^^^ fr.gr b)) ∧
  (∀ f d a b, Falls (.sll f d a b) f fun fr => fr.setG d (fr.gr a <<< field (fr.gr b) 5 0)) ∧
  (∀ f d a b, Falls (.srl f d a b) f fun fr => fr.setG d (fr.gr a >>> field (fr.gr b) 5 0)) ∧
  (∀ f d a b, Falls (.sra f d a b) f fun fr => fr.setG d ((fr.gr a).sshiftRight (field (fr.gr b) 5 0))) ∧
  (∀ f d a b, Falls (.slt f d a b) f fun fr => fr.setG d (if (fr.gr a).slt (fr.gr b) then 1 else 0)) ∧
  (∀ f d a b, Falls (.sltu f d a b) f fun fr => fr.setG d (if (fr.gr a).ult (fr.gr b) then 1 else 0)) ∧
  (∀ f d a b, Falls (.minS f d a b) f fun fr => fr.setG d (if (fr.gr b).slt (fr.gr a) then fr.gr b else fr.gr a)) ∧
  (∀ f d a b, Falls (.maxS f d a b) f fun fr => fr.setG d (if (fr.gr a).slt (fr.gr b) then fr.gr b else fr.gr a)) ∧
  (∀ f d a b, Falls (.minU f d a b) f fun fr => fr.setG d (if (fr.gr b).ult (fr.gr a) then fr.gr b else fr.gr a)) ∧
  (∀ f d a b, Falls (.maxU f d a b) f fun fr => fr.setG d (if (fr.gr a).ult (fr.gr b) then fr.gr b else fr.gr a)) ∧
  (∀ f d a, Falls (.clz f d a) f fun fr => fr.setG d (BitVec.ofNat 64 (64 - bitLen (fr.gr a).toNat))) ∧
  (∀ f d a, Falls (.ctz f d a) f fun fr => fr.setG d (BitVec.ofNat 64 (ctz64 (fr.gr a)))) ∧
  (∀ f d a, Falls (.popc f d a) f fun fr => fr.setG d (BitVec.ofNat 64 (popCount (fr.gr a).toNat 64))) ∧
  (∀ f d a, Falls (.bswap f d a) f fun fr => fr.setG d (BitVec.ofNat 64 (leNat (leBytes (fr.gr a).toNat 8).reverse))) ∧
  (∀ f d a b, Falls (.mulLo f d a b) f fun fr => fr.setG d (fr.gr a * fr.gr b)) ∧
  (∀ f d a b, Falls (.mulh f d a b) f fun fr => fr.setG d (BitVec.ofInt 64 ((fr.gr a).toInt * (fr.gr b).toInt / 2 ^ 64))) ∧
  (∀ f d a b, Falls (.mulhu f d a b) f fun fr => fr.setG d (BitVec.ofNat 64 ((fr.gr a).toNat * (fr.gr b).toNat / 2 ^ 64))) ∧
  (∀ f d a b, Falls (.divS f d a b) f fun fr => fr.setG d (if fr.gr b = 0 then -1 else BitVec.ofInt 64 ((fr.gr a).toInt.tdiv (fr.gr b).toInt))) ∧
  (∀ f d a b, Falls (.divu f d a b) f fun fr => fr.setG d (if fr.gr b = 0 then -1 else fr.gr a / fr.gr b)) ∧
  (∀ f d a b, Falls (.rem f d a b) f fun fr => fr.setG d (if fr.gr b = 0 then fr.gr a else BitVec.ofInt 64 ((fr.gr a).toInt.tmod (fr.gr b).toInt))) ∧
  (∀ f d a b, Falls (.remu f d a b) f fun fr => fr.setG d (if fr.gr b = 0 then fr.gr a else fr.gr a % fr.gr b))

/-- A scratchpad load whose address is aligned and open to its level loads the little-endian bytes there, sign- or zero-extended (R166); fld.s clears the high half (log 30, the model's choice).
A scratchpad store whose address is aligned and open to its level stores the low bytes of its register, little-endian, at ga + IMM16 (R166).
A store of bytes changes those bytes of the scratchpad and no other, and no register (R166). -/
def Obligations.ScratchpadAccess : Prop :=
  (∀ f d a imm, Completes (.ldB f d a imm) f (fun fr => scalarFault fr (spAddr fr a imm) 1 = none)
    (fun fr => fr.setG d (BitVec.ofInt 64 (toSigned 8 (fr.spNat (spAddr fr a imm) 1)))) fun fr => fr.pc + 4) ∧
  (∀ f d a imm, Completes (.ldH f d a imm) f (fun fr => scalarFault fr (spAddr fr a imm) 2 = none)
    (fun fr => fr.setG d (BitVec.ofInt 64 (toSigned 16 (fr.spNat (spAddr fr a imm) 2)))) fun fr => fr.pc + 4) ∧
  (∀ f d a imm, Completes (.ldW f d a imm) f (fun fr => scalarFault fr (spAddr fr a imm) 4 = none)
    (fun fr => fr.setG d (BitVec.ofInt 64 (toSigned 32 (fr.spNat (spAddr fr a imm) 4)))) fun fr => fr.pc + 4) ∧
  (∀ f d a imm, Completes (.ldD f d a imm) f (fun fr => scalarFault fr (spAddr fr a imm) 8 = none)
    (fun fr => fr.setG d (BitVec.ofInt 64 (toSigned 64 (fr.spNat (spAddr fr a imm) 8)))) fun fr => fr.pc + 4) ∧
  (∀ f d a imm, Completes (.lduB f d a imm) f (fun fr => scalarFault fr (spAddr fr a imm) 1 = none)
    (fun fr => fr.setG d (BitVec.ofNat 64 (fr.spNat (spAddr fr a imm) 1))) fun fr => fr.pc + 4) ∧
  (∀ f d a imm, Completes (.lduH f d a imm) f (fun fr => scalarFault fr (spAddr fr a imm) 2 = none)
    (fun fr => fr.setG d (BitVec.ofNat 64 (fr.spNat (spAddr fr a imm) 2))) fun fr => fr.pc + 4) ∧
  (∀ f d a imm, Completes (.lduW f d a imm) f (fun fr => scalarFault fr (spAddr fr a imm) 4 = none)
    (fun fr => fr.setG d (BitVec.ofNat 64 (fr.spNat (spAddr fr a imm) 4))) fun fr => fr.pc + 4) ∧
  (∀ f d a imm, Completes (.fldS f d a imm) f (fun fr => scalarFault fr (spAddr fr a imm) 4 = none)
    (fun fr => fr.setF d (fr.spNat (spAddr fr a imm) 4)) fun fr => fr.pc + 4) ∧
  (∀ f d a imm, Completes (.fldD f d a imm) f (fun fr => scalarFault fr (spAddr fr a imm) 8 = none)
    (fun fr => fr.setF d (fr.spNat (spAddr fr a imm) 8)) fun fr => fr.pc + 4) ∧
  (∀ f d a imm, Completes (.stB f d a imm) f (fun fr => scalarFault fr (spAddr fr a imm) 1 = none)
    (fun fr => fr.spStore (spAddr fr a imm) (leBytes ((fr.gr d).toNat) 1)) fun fr => fr.pc + 4) ∧
  (∀ f d a imm, Completes (.stH f d a imm) f (fun fr => scalarFault fr (spAddr fr a imm) 2 = none)
    (fun fr => fr.spStore (spAddr fr a imm) (leBytes ((fr.gr d).toNat) 2)) fun fr => fr.pc + 4) ∧
  (∀ f d a imm, Completes (.stW f d a imm) f (fun fr => scalarFault fr (spAddr fr a imm) 4 = none)
    (fun fr => fr.spStore (spAddr fr a imm) (leBytes ((fr.gr d).toNat) 4)) fun fr => fr.pc + 4) ∧
  (∀ f d a imm, Completes (.stD f d a imm) f (fun fr => scalarFault fr (spAddr fr a imm) 8 = none)
    (fun fr => fr.spStore (spAddr fr a imm) (leBytes ((fr.gr d).toNat) 8)) fun fr => fr.pc + 4) ∧
  (∀ f d a imm, Completes (.fstS f d a imm) f (fun fr => scalarFault fr (spAddr fr a imm) 4 = none)
    (fun fr => fr.spStore (spAddr fr a imm) (leBytes (fr.fpr d) 4)) fun fr => fr.pc + 4) ∧
  (∀ f d a imm, Completes (.fstD f d a imm) f (fun fr => scalarFault fr (spAddr fr a imm) 8 = none)
    (fun fr => fr.spStore (spAddr fr a imm) (leBytes (fr.fpr d) 8)) fun fr => fr.pc + 4) ∧
  (∀ (fr : Frond) (a : Nat) (d : List Byte) (k : Nat),
      Tbl.get 0 (fr.spStore a d).sp k = (if a ≤ k ∧ k < a + d.length then d.getD (k - a) 0 else Tbl.get 0 fr.sp k) ∧
      (fr.spStore a d).g = fr.g ∧ (fr.spStore a d).v = fr.v ∧ (fr.spStore a d).m = fr.m ∧ (fr.spStore a d).status = fr.status)

/-- Scalar loads and stores are naturally aligned: a misaligned one raises SP_ALIGN, with its address in fc.tval, and loads and stores nothing (R166). An aligned one at or above 0x200000 raises SP_RANGE, and an aligned one outside the working region below fc.wlim raises SP_PROT at P level (R165); that SP_ALIGN comes before the other two is the model's order (log 21). A load of the bytes that a store wrote gives the stored value, whatever an older store left there (R166). -/
def Obligations.ScratchpadFaults : Prop :=
  (∀ f d a imm, ∀ p ∈ scalarAccesses f d a imm, AccessTraps p.1 f a imm (fun _ x => x % p.2 ≠ 0) 0x04) ∧
  (∀ f d a imm, ∀ p ∈ scalarAccesses f d a imm, AccessTraps p.1 f a imm (fun _ x => x % p.2 = 0 ∧ 0x200000 ≤ x) 0x06) ∧
  (∀ f d a imm, ∀ p ∈ scalarAccesses f d a imm, AccessTraps p.1 f a imm (fun fr x => fr.isK = false ∧ x % p.2 = 0 ∧ x < 0x200000 ∧
    (x < 0x40000 ∨ 0x1C0000 ≤ x ∨ fr.wlim.toNat < x + p.2)) 0x05) ∧
  (∀ (fr : Frond) (a : Nat) (d : List Byte), (fr.spStore a d).spNat a d.length = leNat d) ∧
  (∀ (fr : Frond) (a b n : Nat) (d : List Byte), (b + n ≤ a ∨ a + d.length ≤ b) → (fr.spStore a d).spNat b n = fr.spNat b n)

/-- Jumps: j and jl go to the address plus four times their signed offset, jr and jlr to ga; jl writes g31 and jlr gd with the next address (R160). A conditional branch is taken as COND says (R160), and only the predictor and the counters follow beside the pc (R178).
BR with COND above 5 raises ILLEGAL (R160), and COND 0 to 5 tests EQ, NE, LT, GE, LTU and GEU. -/
def Obligations.JumpsAndBranches : Prop :=
  (∀ f off, Completes (.j f off) f (fun _ => True) id fun fr => fr.pc + 4 * off.signExtend 64) ∧
  (∀ f off, Completes (.jl f off) f (fun _ => True) (fun fr => (fr.setG 31 (fr.pc + 4)).pushRas (fr.pc + 4))
    fun fr => fr.pc + 4 * off.signExtend 64) ∧
  (∀ f d a, Completes (.jlr f d a) f (fun _ => True)
    (fun fr => if d = 31 then (fr.setG d (fr.pc + 4)).pushRas (fr.pc + 4) else fr.setG d (fr.pc + 4)) fun fr => fr.gr a) ∧
  (∀ (f : Fin 128) (a : BitVec 5) (s : State), Quiet f.val s → ∃ t, exec (.jr f a) s = .next t ∧
    (t.frond f.val).pc = (s.frond f.val).gr a ∧ SameData f.val s t) ∧
  (∀ (f : Fin 128) (c a b : BitVec 5) (off : BitVec 11) (s : State) (x : Bool), Quiet f.val s →
    brCond c ((s.frond f.val).gr a) ((s.frond f.val).gr b) = some x → ∃ t, exec (.br f c a b off) s = .next t ∧
    (t.frond f.val).pc = (if x then (s.frond f.val).pc + 4 * off.signExtend 64 else (s.frond f.val).pc + 4) ∧ SameData f.val s t) ∧
  (∀ (f : Fin 128) (c a b : BitVec 5) (off : BitVec 11), 5 < c.toNat → Traps (.br f c a b off) f (fun _ => True) 0x01 0) ∧
  (∀ x y : W64, brCond 0 x y = some (x == y) ∧ brCond 1 x y = some (x != y) ∧
    brCond 2 x y = some (decide (x.toInt < y.toInt)) ∧ brCond 3 x y = some (decide (y.toInt ≤ x.toInt)) ∧
    brCond 4 x y = some (decide (x.toNat < y.toNat)) ∧ brCond 5 x y = some (decide (y.toNat ≤ x.toNat)))

/-- The fused operations round once, with the product of a and b and the addend c, and set the sticky flags (R156, R160); which of fnmadd and fnmsub subtracts c is the free value of log 28. The minor opcode of FP selects an operation by the free table of log 5; a code that selects none raises ILLEGAL. -/
def Obligations.FloatingResults : Prop :=
  (∀ f d a b c dbl, Falls (.fmadd f d a b c dbl) f fun fr =>
    fr.fpResult d (fpFma (fmtOf dbl) fr.frm.toNat (fr.fpv dbl a) (fr.fpv dbl b) (fr.fpv dbl c))) ∧
  (∀ f d a b c dbl, Falls (.fmsub f d a b c dbl) f fun fr =>
    fr.fpResult d (fpFma (fmtOf dbl) fr.frm.toNat (fr.fpv dbl a) (fr.fpv dbl b) (fpNeg (fmtOf dbl) (fr.fpv dbl c)))) ∧
  (∀ f d a b c dbl, Falls (.fnmadd f d a b c dbl) f fun fr =>
    fr.fpResult d (fpFma (fmtOf dbl) fr.frm.toNat (fpNeg (fmtOf dbl) (fr.fpv dbl a)) (fr.fpv dbl b)
      (if Config.fnmSubtracts then fpNeg (fmtOf dbl) (fr.fpv dbl c) else fr.fpv dbl c))) ∧
  (∀ f d a b c dbl, Falls (.fnmsub f d a b c dbl) f fun fr =>
    fr.fpResult d (fpFma (fmtOf dbl) fr.frm.toNat (fpNeg (fmtOf dbl) (fr.fpv dbl a)) (fr.fpv dbl b)
      (if Config.fnmSubtracts then fr.fpv dbl c else fpNeg (fmtOf dbl) (fr.fpv dbl c)))) ∧
  (∀ (f : Fin 128) (d a b : BitVec 5) (fn : BitVec 11) (s : State), Quiet f.val s → (s.frond f.val).exl = false →
    ∃ t, exec (.fp f d a b fn) s = .next t ∧
      match Config.fpSelect fn with
      | none => (t.frond f.val).cause = 0x01 ∧ (t.frond f.val).pc = (s.frond f.val).evec
      | some n =>
        match fpOperation n d a b (s.frond f.val) with
        | some fr => ∃ c : W64, t = retired f.val s fr ((s.frond f.val).pc + 4) c
        | none => (t.frond f.val).pc = (s.frond f.val).pc + 4)

/-- Control registers and system operations: fcrd reads and fcwr writes a register of the table that the level may access (R157), eret returns to fc.epc with PRIV from PPRIV and EXL clear (R174), and fence, bp.*, spclr and wfe have the effects of R164, R167, R171 and R179.
wfe without an event waits: nothing changes (R164).
At P level eret, wfe, spclr, str.cancel and, without PEN, the bp. instructions raise PRIV (R164). -/
def Obligations.SystemInstructions : Prop :=
  (∀ (f : Fin 128) d imm acc, crAccess imm.toNat = some acc →
    Completes (.fcrd f d imm) f (fun fr => crLevel fr acc ≠ .none) (fun fr => fr.setG d (crRead f.val fr imm.toNat))
      fun fr => fr.pc + 4) ∧
  (∀ f a imm acc, crAccess (field imm 10 0) = some acc →
    Completes (.fcwr f a imm) f (fun fr => crLevel fr acc = .rw) (fun fr => crWrite fr (field imm 10 0) (fr.gr a))
      fun fr => fr.pc + 4) ∧
  (∀ f, Completes (.eret f) f (fun fr => fr.isK = true)
    (fun fr => Frond.flush { fr with status := statusOf false fr.ie (fr.status.getLsbD 3) (fr.status.getLsbD 3) })
    fun fr => fr.epc) ∧
  (∀ f, Falls (.fence f) f fun fr => { fr with unfenced := [] }) ∧
  (∀ f, Completes (.wfe f) f (fun fr => fr.isK = true ∧ fr.event = true) (fun fr => { fr with event := false })
    fun fr => fr.pc + 4) ∧
  (∀ f, Completes (.bpFlush f) f (fun fr => fr.isK = true ∨ fr.pen = true) (fun fr => { fr with bpc := [], hist := 0, ras := [] })
    fun fr => fr.pc + 4) ∧
  (∀ f, Completes (.bpBar f) f (fun fr => fr.isK = true ∨ fr.pen = true) (fun fr => { fr with bpctl := fr.bpctl ||| 2 })
    fun fr => fr.pc + 4) ∧
  (∀ f, Completes (.bpUnbar f) f (fun fr => fr.isK = true ∨ fr.pen = true)
    (fun fr => { fr with bpctl := fr.bpctl &&& 0xFFFFFFFFFFFFFFFD }) fun fr => fr.pc + 4) ∧
  (∀ f, Completes (.spclr f) f (fun fr => fr.isK = true) Frond.spclr fun fr => fr.pc + 4) ∧
  (∀ (f : Fin 128) (s : State), Ready f.val s → (s.frond f.val).isK = true → (s.frond f.val).event = false →
      exec (.wfe f) s = .next s) ∧
  (∀ f, Traps (.eret f) f (fun fr => fr.isK = false) 0x02 0) ∧
  (∀ f, Traps (.wfe f) f (fun fr => fr.isK = false) 0x02 0) ∧
  (∀ f, Traps (.spclr f) f (fun fr => fr.isK = false) 0x02 0) ∧
  (∀ f, Traps (.strCancel f) f (fun fr => fr.isK = false) 0x02 0) ∧
  (∀ f, Traps (.bpFlush f) f (fun fr => fr.isK = false ∧ fr.pen = false) 0x02 0) ∧
  (∀ f, Traps (.bpBar f) f (fun fr => fr.isK = false ∧ fr.pen = false) 0x02 0) ∧
  (∀ f, Traps (.bpUnbar f) f (fun fr => fr.isK = false ∧ fr.pen = false) 0x02 0)

/-- trap raises TRAP with its number as DETAIL: the pc is saved in fc.epc, the cause is written, PRIV is K, PPRIV the level before, EXL set, IE kept, the predictor flushed, and the next fetch is at fc.evec (R174).
An exception while EXL is set halts the frond (R175). A word fetched that no table of opcodes lists raises ILLEGAL, whatever
instruction the command gives (R160, R161). -/
def Obligations.Exceptions : Prop :=
  (∀ f b, Traps (.trap f b) f (fun _ => True) 0x0C b.toNat) ∧
  (∀ (f : Fin 128) (b : BitVec 5) (s : State), Ready f.val s → (s.frond f.val).exl = false → ∃ t,
    exec (.trap f b) s = .next t ∧ (t.frond f.val).bpc = [] ∧ (t.frond f.val).hist = 0 ∧ (t.frond f.val).ras = []) ∧
  (∀ (f : Fin 128) (b : BitVec 5) (s : State), Ready f.val s → (s.frond f.val).exl = true → (s.frond f.val).item = none →
    (∀ n < 16, ((s.frond f.val).tags.get StreamTag.idle n).st ≠ .pending) → s.mem.leaving = [] → s.mp.arbitrating = false →
    ∃ t, exec (.trap f b) s = .next t ∧ (t.frond f.val).halted = true ∧ t.log.entries.head?.map (·.code) = some 0x0201) ∧
  (∀ (f : Fin 128) op (s : State), (s.frond f.val).listed = false → runFrond f.val op s = illegalWord f s) ∧
  (∀ (f : Fin 128) (b : BitVec 5) (s : State), (s.frond f.val).halted = false → clockOn f s = true → (s.frond f.val).fetchOk = true →
    (s.frond f.val).listed = false → (s.frond f.val).exl = false → ∃ t, exec (.trap f b) s = .next t ∧
      (t.frond f.val).epc = (s.frond f.val).pc ∧ (t.frond f.val).pc = (s.frond f.val).evec ∧ (t.frond f.val).cause = 1 ∧
      (t.frond f.val).status = statusOf true (s.frond f.val).ie (s.frond f.val).isK true ∧ (t.frond f.val).g = (s.frond f.val).g)

/-- Stream and hand-off instructions: str.issue starts a request with the tag of field b, str.poll reads a tag's state (R169), str.wait goes on once its request has ended without an unraised fault (R170), str.cancel leaves no tag pending and unsent (R177), and HO hands its operands to the dispatcher by the free table of log 6 (R164).
Events at a frond: a STOP waits at K level while IE is 0 and is else taken as R177 gives; the last step of fc.budget at P level raises BUDGET (R158, R176); a halted frond returns to service with nothing of its item (R175, R187); and a host GET that returns, none of it cancelled, ends done, with its bytes in scratchpad (R170). -/
def Obligations.StreamsAndEvents : Prop :=
  (∀ (f : Fin 128) (a b : BitVec 5) (s : State), Quiet f.val s → b.toNat ≤ 15 →
    ((s.frond f.val).tags.get StreamTag.idle b.toNat).st ≠ .pending →
    ((s.frond f.val).gr a).toNat % 8 = 0 → (s.frond f.val).spOpen ((s.frond f.val).gr a).toNat 32 = true →
    (readDesc (s.frond f.val) ((s.frond f.val).gr a).toNat).ok (s.frond f.val) = true →
    ((s.frond f.val).isK = true ∨ (readDesc (s.frond f.val) ((s.frond f.val).gr a).toNat).space = 0) →
    ∃ t, exec (.strIssue f a b) s = .next t ∧ (t.frond f.val).pc = (s.frond f.val).pc + 4 ∧
      (t.frond f.val).g = (s.frond f.val).g ∧ (t.frond f.val).sp = (s.frond f.val).sp ∧
      (t.frond f.val).tags.get StreamTag.idle b.toNat =
        makeTag s (s.frond f.val) (readDesc (s.frond f.val) ((s.frond f.val).gr a).toNat)) ∧
  (∀ f d b, b.toNat ≤ 15 → Falls (.strPoll f d b) f fun fr => fr.setG d (fr.tags.get StreamTag.idle b.toNat).st.code) ∧
  (∀ f b, b.toNat ≤ 15 → Completes (.strWait f b) f
    (fun fr => (fr.tags.get StreamTag.idle b.toNat).st ≠ .pending ∧
      ¬ ((fr.tags.get StreamTag.idle b.toNat).st = .failed ∧ (fr.tags.get StreamTag.idle b.toNat).raised = false))
    id fun fr => fr.pc + 4) ∧
  (∀ (f : Fin 128) (s : State), Quiet f.val s → (s.frond f.val).isK = true → ∃ t, exec (.strCancel f) s = .next t ∧
    (t.frond f.val).pc = (s.frond f.val).pc + 4 ∧ (t.frond f.val).g = (s.frond f.val).g ∧
    ∀ n < 16, ((t.frond f.val).tags.get StreamTag.idle n).st = .pending →
      ((t.frond f.val).tags.get StreamTag.idle n).sent = true) ∧
  (∀ (f : Fin 128) (d a b : BitVec 5) (fn : BitVec 11) (s : State), Quiet f.val s → (s.frond f.val).isK = true →
    (s.frond f.val).exl = false → handoffDepth s (s.frond f.val) = none → ∃ t, exec (.ho f d a b fn) s = .next t ∧
      match Config.hoSelect fn with
      | none => (t.frond f.val).cause = 0x01 ∧ (t.frond f.val).pc = (s.frond f.val).evec
      | some n => (t.frond f.val).pc = (s.frond f.val).pc + 4 ∧
          (t.frond f.val).hoOut = (s.frond f.val).hoOut ++ [(n, (s.frond f.val).gr a, (s.frond f.val).gr b)]) ∧
  (∀ (f : Fin 128) (s : State), (s.frond f.val).item.isSome = true → (s.frond f.val).stopping.isSome = true →
    (s.frond f.val).halted = false → (s.frond f.val).isK = true → (s.frond f.val).ie = false →
    exec (.frondStop f) s = .next (s.setFrond f.val { s.frond f.val with stopReq := true })) ∧
  (∀ (f : Fin 128) (s : State), (s.frond f.val).item.isSome = true → (s.frond f.val).stopping.isSome = true →
    (s.frond f.val).halted = false → (s.frond f.val).isK = false → (s.frond f.val).exl = false →
    exec (.frondStop f) s = .next (reportEnded f.val (settleTags f.val (cancelTags f.val
      (takeException f.val { s.frond f.val with stopReq := false } true 0x10 0 none
        (s.setFrond f.val { s.frond f.val with stopReq := true })))))) ∧
  (∀ (f : Fin 128) (s : State), (s.frond f.val).isK = false → (s.frond f.val).halted = false → clockOn f.val s = true →
    (s.frond f.val).budget = 1 → (s.frond f.val).stopReq = false → (s.frond f.val).exl = false →
    ∃ t, exec (.budget f) s = .next t ∧ (t.frond f.val).budget = 0 ∧ (t.frond f.val).cause = BitVec.ofNat 64 (2 ^ 63 + 0x11) ∧
      (t.frond f.val).epc = (s.frond f.val).pc ∧ (t.frond f.val).pc = (s.frond f.val).evec) ∧
  (∀ (f : Fin 128) (s : State), (s.frond f.val).halted = true →
    exec (.doubleFaultRecovery f) s = .next (s.setFrond f.val { Frond.reset with sp := (s.frond f.val).spclr.sp })) ∧
  (∀ (f : Fin 128) (tag : Nat) (d : List Byte) (s : State), ((s.frond f.val).tags.get StreamTag.idle tag).st = .pending →
    ((s.frond f.val).tags.get StreamTag.idle tag).space = 1 → ((s.frond f.val).tags.get StreamTag.idle tag).put = false →
    ((s.frond f.val).tags.get StreamTag.idle tag).cut = false → ((s.frond f.val).tags.get StreamTag.idle tag).len = d.length → d ≠ [] → (s.hostPort (itemPort f.val s)).absent = false →
    ∃ t, exec (.streamRequestDone f tag (some d)) s = .next t ∧ ((t.frond f.val).tags.get StreamTag.idle tag).st = .done ∧
      Tbl.read 0 (t.frond f.val).sp ((s.frond f.val).tags.get StreamTag.idle tag).spaddr d.length = d)

/-- VOP and VOPX give each active element the result of R199 and leave every other element (R194); fc.vri is 0 at the end (R196).
VCMP and VCMPX write the mask of R195 from the tests of R200. -/
def Obligations.VectorIntegerAndCompare : Prop :=
  (∀ f o, LaneOp (.vadd f o) f 0 o fun n x y => (x + y) % 2 ^ n) ∧
  (∀ f o, LaneOp (.vsub f o) f 1 o fun n x y => (x + 2 ^ n - y) % 2 ^ n) ∧
  (∀ f o, LaneOp (.vmul f o) f 2 o fun n x y => (x * y) % 2 ^ n) ∧
  (∀ f o, LaneOp (.vmulhu f o) f 3 o fun n x y => x * y / 2 ^ n) ∧
  (∀ f o, LaneOp (.vmin f o) f 4 o fun n x y => if toSigned n y < toSigned n x then y else x) ∧
  (∀ f o, LaneOp (.vmax f o) f 5 o fun n x y => if toSigned n x < toSigned n y then y else x) ∧
  (∀ f o, LaneOp (.vminu f o) f 6 o fun _ x y => min x y) ∧
  (∀ f o, LaneOp (.vmaxu f o) f 7 o fun _ x y => max x y) ∧
  (∀ f o, LaneOp (.vand f o) f 8 o fun _ x y => x &&& y) ∧
  (∀ f o, LaneOp (.vor f o) f 9 o fun _ x y => x ||| y) ∧
  (∀ f o, LaneOp (.vxor f o) f 10 o fun _ x y => x ^^^ y) ∧
  (∀ f o, LaneOp (.vandn f o) f 11 o fun n x y => x &&& (2 ^ n - 1 - y)) ∧
  (∀ f o, LaneOp (.vsll f o) f 12 o fun n x y => (x <<< (y % n)) % 2 ^ n) ∧
  (∀ f o, LaneOp (.vsrl f o) f 13 o fun n x y => x >>> (y % n)) ∧
  (∀ f o, LaneOp (.vsra f o) f 14 o fun n x y => ofSigned n (toSigned n x / 2 ^ (y % n))) ∧
  (∀ f o, VecFalls (.vpick f o) f (vopForm 15) o fun fr => fr.setV o.d.toNat (buildV (fr.vr o.d.toNat) (wBits o.w) (effLen fr o.w) fun e =>
    if e < fr.vri.toNat then elem (fr.vr o.d.toNat) (wBits o.w) e else if maskBit fr o e then laneB fr o e else laneA fr o e)) ∧
  (∀ f o (fn : BitVec 4), fn.toNat ≠ 15 → VecFalls (.vopx f o fn) f (vopForm fn.toNat) o fun fr => writeActive fr o (wBits o.w) (effLen fr o.w) fun e =>
    vopElem fn.toNat (wBits o.w) (laneA fr o e) ((fr.gr o.b).toNat % 2 ^ wBits o.w)) ∧
  (∀ f o, MaskOp (.veq f o) f o fun _ x y => decide (x = y)) ∧
  (∀ f o, MaskOp (.vne f o) f o fun _ x y => decide (x ≠ y)) ∧
  (∀ f o, MaskOp (.vlt f o) f o fun n x y => decide (toSigned n x < toSigned n y)) ∧
  (∀ f o, MaskOp (.vge f o) f o fun n x y => decide (toSigned n y ≤ toSigned n x)) ∧
  (∀ f o, MaskOp (.vltu f o) f o fun _ x y => decide (x < y)) ∧
  (∀ f o, MaskOp (.vgeu f o) f o fun _ x y => decide (y ≤ x)) ∧
  (∀ f o, MaskOp (.vovadd f o) f o fun n x y => ovSigned n (toSigned n x + toSigned n y)) ∧
  (∀ f o, MaskOp (.vovsub f o) f o fun n x y => ovSigned n (toSigned n x - toSigned n y)) ∧
  (∀ f o, MaskOp (.vovmul f o) f o fun n x y => ovSigned n (toSigned n x * toSigned n y)) ∧
  (∀ f o, MaskOp (.vovaddu f o) f o fun n x y => ovUnsigned n ((x : Int) + y)) ∧
  (∀ f o, MaskOp (.vovsubu f o) f o fun n x y => ovUnsigned n ((x : Int) - y)) ∧
  (∀ f o, MaskOp (.vovmulu f o) f o fun n x y => ovUnsigned n ((x : Int) * y)) ∧
  (∀ f o (fn : BitVec 4), fn.toNat ≤ 11 → VecFalls (.vcmpx f o fn) f cmpForm o fun fr => writeMask fr o (effLen fr o.w) fun e =>
    (vcmpTest fn.toNat (wBits o.w) (laneA fr o e) ((fr.gr o.b).toNat % 2 ^ wBits o.w)).getD false)

/-- VFP gives each active element the result of R201 in the rounding mode fc.frm and adds the flags of the active elements to fc.fflags (R156). -/
def Obligations.VectorFloatResults : Prop :=
  (∀ f o, FloatOp (.vfadd f o) f .any wFp o (wBits o.w) fun F m x y _ => fpAdd F m x y) ∧
  (∀ f o, FloatOp (.vfsub f o) f .any wFp o (wBits o.w) fun F m x y _ => fpSub F m x y) ∧
  (∀ f o, FloatOp (.vfmul f o) f .any wFp o (wBits o.w) fun F m x y _ => fpMul F m x y) ∧
  (∀ f o, FloatOp (.vfdiv f o) f .any wFp o (wBits o.w) fun F m x y _ => fpDiv F m x y) ∧
  (∀ f o, FloatOp (.vfsqrt f o) f .unused wFp o (wBits o.w) fun F m x _ _ => fpSqrt F m x) ∧
  (∀ f o, FloatOp (.vfmin f o) f .any wFp o (wBits o.w) fun F _ x y _ => (if 0 < fpOrder F x y then y else x, 0)) ∧
  (∀ f o, FloatOp (.vfmax f o) f .any wFp o (wBits o.w) fun F _ x y _ => (if fpOrder F x y < 0 then y else x, 0)) ∧
  (∀ f o, FloatOp (.vfmacc f o) f .any wFp o (wBits o.w) fun F m x y z => fpFma F m x y z) ∧
  (∀ f o, FloatOp (.vfcvti f o) f .unused wFp o (wBits o.w) fun F m x _ _ => fpToInt F m F.width x) ∧
  (∀ f o, FloatOp (.vicvtf f o) f .unused wFp o (wBits o.w) fun F m x _ _ => fpOfInt F m (toSigned F.width x)) ∧
  (∀ f o, FloatOp (.vfwid f o) f .unused wD o 32 fun _ m x _ _ => fpConvert binary32 binary64 m x) ∧
  (∀ f o, FloatTest (.vfeq f o) f o fun F x y => fpEq F x y) ∧
  (∀ f o, FloatTest (.vflt f o) f o fun F x y => fpLt F false x y) ∧
  (∀ f o, FloatTest (.vfle f o) f o fun F x y => fpLt F true x y) ∧
  (∀ f o, FloatTest (.vfteq f o) f o fun F x y => (decide (fpOrder F x y = 0), 0)) ∧
  (∀ f o, FloatTest (.vftlt f o) f o fun F x y => (decide (fpOrder F x y < 0), 0))

/-- VMASK gives the masks, counts and moves of R202.
VMOVE gives the moves, extensions and squeezes of R203. -/
def Obligations.VectorMasksAndMoves : Prop :=
  (∀ f o, VecFalls (.mkand f o) f { d := .mask, a := .mask, b := .mask, men := 0, ws := [0] } o fun fr => fr.setM o.d.toNat (fr.mr o.a.toNat &&& fr.mr o.b.toNat)) ∧
  (∀ f o, VecFalls (.mkor f o) f { d := .mask, a := .mask, b := .mask, men := 0, ws := [0] } o fun fr => fr.setM o.d.toNat (fr.mr o.a.toNat ||| fr.mr o.b.toNat)) ∧
  (∀ f o, VecFalls (.mkxor f o) f { d := .mask, a := .mask, b := .mask, men := 0, ws := [0] } o fun fr => fr.setM o.d.toNat (fr.mr o.a.toNat ^^^ fr.mr o.b.toNat)) ∧
  (∀ f o, VecFalls (.mkandn f o) f { d := .mask, a := .mask, b := .mask, men := 0, ws := [0] } o fun fr => fr.setM o.d.toNat (fr.mr o.a.toNat &&& ~~~(fr.mr o.b.toNat))) ∧
  (∀ f o, VecFalls (.mknot f o) f { d := .mask, a := .mask, b := .unused, men := 0, ws := [0] } o fun fr => fr.setM o.d.toNat (~~~(fr.mr o.a.toNat))) ∧
  (∀ f o, VecFalls (.mkcopy f o) f { d := .mask, a := .mask, b := .unused, men := 0, ws := [0] } o fun fr => fr.setM o.d.toNat (fr.mr o.a.toNat)) ∧
  (∀ f o, VecFalls (.mkcount f o) f { d := .any, a := .mask, b := .unused, men := 0, ws := [0] } o fun fr => fr.setG o.d (BitVec.ofNat 64 (popCount (fr.mr o.a.toNat).toNat (min fr.vl.toNat 512)))) ∧
  (∀ f o, VecFalls (.mkfirst f o) f { d := .any, a := .mask, b := .unused, men := 0, ws := [0] } o fun fr => fr.setG o.d (match (List.range (min fr.vl.toNat 512)).find? (fun e => (fr.mr o.a.toNat).toNat.testBit e) with | some e => BitVec.ofNat 64 e | none => -1)) ∧
  (∀ f o, VecFalls (.mkfill f o) f { d := .mask, a := .unused, b := .unused, men := 0, ws := [0] } o fun fr => fr.setM o.d.toNat (BitVec.ofNat 512 (2 ^ min fr.vl.toNat 512 - 1))) ∧
  (∀ f o, VecFalls (.mkzero f o) f { d := .mask, a := .unused, b := .unused, men := 0, ws := [0] } o fun fr => fr.setM o.d.toNat 0) ∧
  (∀ f o, VecFalls (.mtov f o) f { d := .any, a := .mask, b := .unused, men := 0, ws := [0] } o fun fr => fr.setV o.d.toNat (buildV (fr.vr o.d.toNat) 512 1 fun _ => (fr.mr o.a.toNat).toNat)) ∧
  (∀ f o, VecFalls (.vtom f o) f { d := .mask, a := .any, b := .unused, men := 0, ws := [0] } o fun fr => fr.setM o.d.toNat ((fr.vr o.a.toNat).truncate 512)) ∧
  (∀ f o, VecFalls (.vcopy f o) f { d := .any, a := .any, b := .unused, men := 1, ws := wInt } o fun fr =>
    writeActive fr o (wBits o.w) (min (effLen fr o.w) 4096) fun e => laneA fr o e) ∧
  (∀ f o, VecFalls (.vbcast f o) f { d := .any, a := .unused, b := .any, men := 1, ws := wInt } o fun fr =>
    writeActive fr o (wBits o.w) (min (effLen fr o.w) 4096) fun _ => (fr.gr o.b).toNat) ∧
  (∀ f o, VecFalls (.vseq f o) f { d := .any, a := .unused, b := .unused, men := 1, ws := wInt } o fun fr =>
    writeActive fr o (wBits o.w) (min (effLen fr o.w) 4096) fun e => e) ∧
  (∀ f o, VecFalls (.vwid f o) f { d := .any, a := .any, b := .unused, men := 1, ws := [1, 2, 3] } o fun fr =>
    writeActive fr o (wBits o.w) (min (effLen fr o.w) 4096) fun e => ofSigned (wBits o.w) (toSigned (wBits o.w / 2) (elem (fr.vr o.a.toNat) (wBits o.w / 2) e))) ∧
  (∀ f o, VecFalls (.vwidu f o) f { d := .any, a := .any, b := .unused, men := 1, ws := [1, 2, 3] } o fun fr =>
    writeActive fr o (wBits o.w) (min (effLen fr o.w) 4096) fun e => elem (fr.vr o.a.toNat) (wBits o.w / 2) e) ∧
  (∀ f o, VecFalls (.vnar f o) f { d := .any, a := .any, b := .unused, men := 1, ws := [0, 1, 2] } o fun fr =>
    writeActive fr o (wBits o.w) (min (effLen fr o.w) (vlmax (o.w + 1))) fun e => elem (fr.vr o.a.toNat) (2 * wBits o.w) e) ∧
  (∀ f o, VecFalls (.vext f o) f { d := .any, a := .any, b := .any, men := 0, ws := wInt } o fun fr =>
    fr.setG o.d (if (fr.gr o.b).toNat < vlmax o.w then BitVec.ofNat 64 (laneA fr o (fr.gr o.b).toNat) else 0)) ∧
  (∀ f o, VecFalls (.vins f o) f { d := .any, a := .any, b := .any, men := 0, ws := wInt } o fun fr =>
    if (fr.gr o.a).toNat < vlmax o.w then fr.setV o.d.toNat (setElem (fr.vr o.d.toNat) (wBits o.w) (fr.gr o.a).toNat (fr.gr o.b).toNat) else fr) ∧
  (∀ f o, VecFalls (.vsqueeze f o) f { d := .any, a := .any, b := .unused, men := 2, ws := wInt } o fun fr =>
    squeezeInto fr o ((List.range (effLen fr o.w)).filter fun e => active fr o (effLen fr o.w) e) fun e => laneA fr o e)

/-- VRED folds the active elements of va in ascending order into gd, from the identities of R204; floating-point sums take the tree order of R205.
VHASH applies step and mix of R113 to the active elements (R211), and vstrip sets fc.ew, fc.vl and gd (R228). -/
def Obligations.VectorReduceAndHash : Prop :=
  (∀ f o, Folds (.vsumr f o) f wInt o fun n l => BitVec.ofInt 64 ((l.map (toSigned n)).foldr (· + ·) 0)) ∧
  (∀ f o, Folds (.vsumur f o) f wInt o fun _ l => BitVec.ofNat 64 l.sum) ∧
  (∀ f o, Folds (.vminr f o) f wInt o fun n l => BitVec.ofInt 64 ((l.map (toSigned n)).foldl (fun m x => if x < m then x else m) ((2 : Int) ^ (n - 1) - 1))) ∧
  (∀ f o, Folds (.vmaxr f o) f wInt o fun n l => BitVec.ofInt 64 ((l.map (toSigned n)).foldl (fun m x => if m < x then x else m) (-(2 : Int) ^ (n - 1)))) ∧
  (∀ f o, Folds (.vminur f o) f wInt o fun n l => BitVec.ofNat 64 (l.foldl (fun m x => if x < m then x else m) (2 ^ n - 1))) ∧
  (∀ f o, Folds (.vmaxur f o) f wInt o fun _ l => BitVec.ofNat 64 (l.foldl (fun m x => if m < x then x else m) 0)) ∧
  (∀ f o, Folds (.vandr f o) f wInt o fun n l => BitVec.ofNat 64 (l.foldl (· &&& ·) (2 ^ n - 1))) ∧
  (∀ f o, Folds (.vorr f o) f wInt o fun _ l => BitVec.ofNat 64 (l.foldl (· ||| ·) 0)) ∧
  (∀ f o, Folds (.vxorr f o) f wInt o fun _ l => BitVec.ofNat 64 (l.foldl (· ^^^ ·) 0)) ∧
  (∀ f o, Folds (.vbitcnt f o) f [4] o fun _ l => BitVec.ofNat 64 l.sum) ∧
  (∀ f o, VecFalls (.vfsumr f o) f { d := .any, a := .any, b := .unused, men := 1, ws := wFp } o fun fr => fr.fpResult o.d (foldSum (vfmt o) fr.frm.toNat (log2Up (effLen fr o.w)) ((List.range (2 ^ log2Up (effLen fr o.w))).map fun e =>
    if active fr o (effLen fr o.w) e then some (laneA fr o e) else none))) ∧
  (∀ f o, VecFalls (.vfminr f o) f { d := .any, a := .any, b := .unused, men := 1, ws := wFp } o fun fr => fr.fpResult o.d (match activeVals fr o with | [] => (fpDefaultNan (vfmt o), 0) | x :: t => (t.foldl (fun m y => if fpOrder (vfmt o) y m < 0 then y else m) x, 0))) ∧
  (∀ f o, VecFalls (.vfmaxr f o) f { d := .any, a := .any, b := .unused, men := 1, ws := wFp } o fun fr => fr.fpResult o.d (match activeVals fr o with | [] => (fpInf (vfmt o) true, 0) | x :: t => (t.foldl (fun m y => if fpOrder (vfmt o) m y < 0 then y else m) x, 0))) ∧
  (∀ f o, VecFalls (.vhash f o) f { d := .any, a := .any, b := .any, men := 1, ws := wD } o fun fr =>
    writeActive fr o 64 (effLen fr o.w) fun e => (stepHash (BitVec.ofNat 64 (elem (fr.vr o.a.toNat) 64 e)) (BitVec.ofNat 64 (elem (fr.vr o.b.toNat) 64 e))).toNat) ∧
  (∀ f o, VecFalls (.vhashx f o) f { d := .any, a := .any, b := .any, men := 1, ws := wD } o fun fr =>
    writeActive fr o 64 (effLen fr o.w) fun e => (stepHash (BitVec.ofNat 64 (elem (fr.vr o.a.toNat) 64 e)) (fr.gr o.b)).toNat) ∧
  (∀ f o, VecFalls (.vhfin f o) f { d := .any, a := .any, b := .any, men := 1, ws := wD } o fun fr =>
    writeActive fr o 64 (effLen fr o.w) fun e => (mixHash (BitVec.ofNat 64 (elem (fr.vr o.a.toNat) 64 e) ^^^ fr.gr o.b)).toNat) ∧
  (∀ f o, VecFalls (.vstrip f o) f { d := .any, a := .any, b := .any, men := 0, ws := wInt } o fun fr =>
    ({ fr with ew := o.w, vl := BitVec.ofNat 13 (stripLen fr o) }).setG o.d (BitVec.ofNat 64 (stripLen fr o)))

/-- Every element of vd that is active gets its result, cut to the element width, and every other element keeps its value (R194).
A destination mask: bits below fc.vri keep their values, active bits get the test, masked-off bits and bits at and above the length are 0 (R195). -/
def Obligations.VectorWriteRules : Prop :=
  (∀ (fr : Frond) (o : VOps) (g : Nat → Nat) (e : Nat), o.w.toNat ≤ 4 → e < vlmax o.w →
      elem ((writeActive fr o (wBits o.w) (effLen fr o.w) g).vr o.d.toNat) (wBits o.w) e =
        if active fr o (effLen fr o.w) e then g e % 2 ^ wBits o.w else elem (fr.vr o.d.toNat) (wBits o.w) e) ∧
  (∀ (fr : Frond) (o : VOps) (n : Nat) (g : Nat → Bool) (e : Nat), e < 512 →
      ((writeMask fr o n g).mr (o.d.toNat % 8)).getLsbD e =
        (if e < fr.vri.toNat then (fr.mr (o.d.toNat % 8)).getLsbD e else decide (e < n) && maskBit fr o e && g e))

/-- A word that no table of opcodes lists raises ILLEGAL (R160, R161, R198), and so does a vector instruction whose word breaks R197:
shown for VOP, VCMP, VMASK and unit-stride accesses. -/
def Obligations.VectorEncodingFaults : Prop :=
  (∀ f o, (vopForm 0).ok o = false → Traps (.vadd f o) f (fun _ => True) 0x01 0) ∧
  (∀ f o, cmpForm.ok o = false → Traps (.veq f o) f (fun _ => True) 0x01 0) ∧
  (∀ f o, VForm.ok { d := .mask, a := .mask, b := .mask, men := 0, ws := [0] } o = false → Traps (.mkand f o) f (fun _ => True) 0x01 0) ∧
  (∀ f o, (vmemForm false).ok o = false → Traps (.vld f o) f (fun _ => True) 0x01 0) ∧
  (∀ (f : Fin 128) (w : FrondWord) s, decodeFrond f w = none → Ready f.val s → (s.frond f.val).exl = false → ∃ t,
    frondWord f w s = .next t ∧ (t.frond f.val).epc = (s.frond f.val).pc ∧ (t.frond f.val).pc = (s.frond f.val).evec ∧
    (t.frond f.val).cause = 1 ∧ (t.frond f.val).status = statusOf true (s.frond f.val).ie (s.frond f.val).isK true ∧
    (t.frond f.val).g = (s.frond f.val).g ∧ (t.frond f.val).v = (s.frond f.val).v ∧ (t.frond f.val).m = (s.frond f.val).m ∧
    (t.frond f.val).sp = (s.frond f.val).sp)

/-- Unit-stride and strided loads and stores, packed codes, dictionaries and run lengths give the results of R206, R209 and R210 when no active element faults.
vrlec, vpart, and gathers and scatters in scratchpad give the results of R210, R212 and R213 when no active element faults. A scatter stores the values that vd holds, in ascending order of elements. -/
def Obligations.VectorMemory : Prop :=
  (∀ f o, Completes (.vld f o) f (fun fr => (vmemForm false).ok o = true ∧ firstFault (fun e => spCheck fr (vmemAddr false fr o e) (elemBytes o)) (activeList fr o (effLen fr o.w)) = none) (fun fr => { putElems fr o (activeList fr o (effLen fr o.w)) (vmemRead false fr o) with vri := 0 }) fun fr => fr.pc + 4) ∧
  (∀ f o, Completes (.vlds f o) f (fun fr => (vmemForm true).ok o = true ∧ firstFault (fun e => spCheck fr (vmemAddr true fr o e) (elemBytes o)) (activeList fr o (effLen fr o.w)) = none) (fun fr => { putElems fr o (activeList fr o (effLen fr o.w)) (vmemRead true fr o) with vri := 0 }) fun fr => fr.pc + 4) ∧
  (∀ f o, Completes (.vst f o) f (fun fr => (vmemForm false).ok o = true ∧ firstFault (fun e => spCheck fr (vmemAddr false fr o e) (elemBytes o)) (activeList fr o (effLen fr o.w)) = none) (fun fr => { forEach (vmemStore false o (fr.vr o.d.toNat)) (activeList fr o (effLen fr o.w)) fr with vri := 0 }) fun fr => fr.pc + 4) ∧
  (∀ f o, Completes (.vsts f o) f (fun fr => (vmemForm true).ok o = true ∧ firstFault (fun e => spCheck fr (vmemAddr true fr o e) (elemBytes o)) (activeList fr o (effLen fr o.w)) = none) (fun fr => { forEach (vmemStore true o (fr.vr o.d.toNat)) (activeList fr o (effLen fr o.w)) fr with vri := 0 }) fun fr => fr.pc + 4) ∧
  (∀ f o, Completes (.vunpk f o) f (fun fr => (packForm .any 1).ok o = true ∧ firstFault (codeCheck fr o) (activeList fr o (effLen fr o.w)) = none) (fun fr => { putElems fr o (activeList fr o (effLen fr o.w)) (codeAt fr o) with vri := 0 }) fun fr => fr.pc + 4) ∧
  (∀ f o, Completes (.vpcmp f o) f (fun fr => (packForm .mask 1).ok o = true ∧ firstFault (codeCheck fr o) (activeList fr o (effLen fr o.w)) = none) (fun fr => { (writeMask fr o (effLen fr o.w) fun e => codePred (bits (fr.gr o.b).toNat 31 29) (codeAt fr o e) (bits (fr.gr o.b).toNat 63 32)) with vri := 0 }) fun fr => fr.pc + 4) ∧
  (∀ f o, Completes (.vpsel f o) f (fun fr => (packForm .any 2).ok o = true ∧ firstFault (codeCheck fr o) (activeList fr o (effLen fr o.w)) = none) (fun fr => { squeezeInto fr o (activeList fr o (effLen fr o.w)) (codeAt fr o) with vri := 0 }) fun fr => fr.pc + 4) ∧
  (∀ f o, Completes (.vdict f o) f (fun fr => (packForm .any 1).ok o = true ∧ firstFault (fun e => spCheck fr (dictAddr fr o e) (elemBytes o)) (activeList fr o (effLen fr o.w)) = none) (fun fr => { (putElems fr o (activeList fr o (effLen fr o.w)) fun e => fr.spNat (dictAddr fr o e) (elemBytes o)) with vri := 0 }) fun fr => fr.pc + 4) ∧
  (∀ f o, Completes (.vrle f o) f (fun fr => (packForm .any 1).ok o = true ∧ firstFault (rleCheck fr o) (activeList fr o (effLen fr o.w)) = none) (fun fr => { (putElems fr o ((activeList fr o (effLen fr o.w)).filter fun e => (rleVal fr o e).isSome) fun e => (rleVal fr o e).getD 0) with vri := 0 }) fun fr => fr.pc + 4) ∧
  (∀ f o (b : RleBody) (run off : Nat), Completes (.vrlec f o) f (fun fr => (packForm .any 0).ok o = true ∧
    firstFault (fun e => match rleAt fr o e with | .error c => some c | .ok (_, .fault c a) => some (c, a) | .ok _ => none)
      ((List.range (effLen fr o.w + 1)).filter fun e => decide (fr.vri.toNat ≤ e) || decide (e = effLen fr o.w)) = none ∧
    rleAt fr o (effLen fr o.w) = .ok (b, .at run off))
    (fun fr => { fr.setG o.d (BitVec.ofNat 64 (run + off * 2 ^ 32)) with vri := 0 }) fun fr => fr.pc + 4) ∧
  (∀ f o, Completes (.vpart f o) f (fun fr => (packForm .any 1).ok o = true ∧ o.a ≠ 31 ∧
    (partRun o (fr.vr o.a.toNat) (fr.vr (o.a.toNat + 1)) ((fr.gr o.b).toNat / 8 * 8) (activeList fr o (effLen fr o.w)) fr).1 = .all)
    (fun fr => { (partRun o (fr.vr o.a.toNat) (fr.vr (o.a.toNat + 1)) ((fr.gr o.b).toNat / 8 * 8) (activeList fr o (effLen fr o.w)) fr).2.setG o.d
      (BitVec.ofNat 64 (effLen fr o.w)) with vri := 0 }) fun fr => fr.pc + 4) ∧
  (∀ f o scale, Completes (.vgath f o scale false) f (fun fr => VForm.ok { d := .any, a := .any, b := .any, men := 1, ws := wInt } o = true ∧
    firstFault (fun e => spCheck fr (gatherAddr fr o scale e) (elemBytes o)) (activeList fr o (gatherLen fr o)) = none)
    (fun fr => { (putElems fr o (activeList fr o (gatherLen fr o)) fun e => fr.spNat (gatherAddr fr o scale e) (elemBytes o)) with vri := 0 }) fun fr => fr.pc + 4) ∧
  (∀ f o scale, Completes (.vscat f o scale false) f (fun fr => VForm.ok { d := .any, a := .any, b := .any, men := 1, ws := wInt } o = true ∧
    firstFault (fun e => spCheck fr (gatherAddr fr o scale e) (elemBytes o)) (activeList fr o (gatherLen fr o)) = none)
    (fun fr => { (forEach (fun e fr => fr.spStore (gatherAddr fr o scale e) (leBytes (elem (fr.vr o.d.toNat) (wBits o.w) e) (elemBytes o))) (activeList fr o (gatherLen fr o)) fr) with vri := 0 }) fun fr => fr.pc + 4)

/-- The command at the front of the queue runs with the queue's rest.
With no command waiting the block idles (log 52, the model's choice). -/
def Obligations.StepRunsQueue : Prop :=
  (∀ (c : Instr) (rest : List Instr) (s : State), step { s with pending := c :: rest } = exec c { s with pending := rest }) ∧
  (∀ s : State, s.pending = [] → step s = .next s)

/-- A tail write, a spore write or a head write that passes its check moves its index and changes nothing else of the queues;
one that fails puts the queue into ERROR with its cause and leaves the index as it was (R372, R373, R379).
The ring engine reserves a slot for the next command of an SQ when the bounds of R390 allow and the turn is its instance's (R384);
it reads one aligned line per entry (R376), holds what it reads of the ring, waits where a covered entry has the wrong PHASE (R374, R375),
and puts the SQ into ERROR when a read fails (R377); a spore entry that differs from its slot is counted and logged (R380). -/
def Obligations.Rings : Prop :=
  (∀ i n (v : W32) s, TakesRings i s → n < (s.inst i).res.sqs → (s.sq i n).st = .active → (s.sq i n).slotRes = none →
    checkTail (s.sq i n) (v.toNat % ringMask (s.sq i n).log2) = .accepted →
    Does (.ringSqTailWrite i n v) s fun t =>
      (t.sq i n).tail = BitVec.ofNat 32 (v.toNat % ringMask (s.sq i n).log2) ∧ (t.sq i n).head = (s.sq i n).head ∧
      (t.sq i n).st = .active ∧ (t.sq i n).spores = (s.sq i n).spores ∧
      t = { s with ring := t.ring, out := t.out, lnk := t.lnk } ∧ t.ring.cmds = s.ring.cmds ∧ t.ring.cqs = s.ring.cqs ∧ ∀ j m, sqKey j m ≠ sqKey i n → t.sq j m = s.sq j m) ∧
  (∀ i n (v : W32) s, TakesRings i s → n < (s.inst i).res.sqs → (s.sq i n).st = .active →
    ringUsed (s.sq i n).log2 (v.toNat % ringMask (s.sq i n).log2) (s.sq i n).head.toNat > ringSize (s.sq i n).log2 →
    Does (.ringSqTailWrite i n v) s fun t => t.sq i n = { s.sq i n with st := .error, cause := 1 }) ∧
  (∀ i n (v : W32) s, TakesRings i s → n < (s.inst i).res.sqs → (s.sq i n).st = .active →
    ringUsed (s.sq i n).log2 (v.toNat % ringMask (s.sq i n).log2) (s.sq i n).head.toNat ≤ ringSize (s.sq i n).log2 →
    ringUsed (s.sq i n).log2 (v.toNat % ringMask (s.sq i n).log2) (s.sq i n).head.toNat <
      ringUsed (s.sq i n).log2 (s.sq i n).tail.toNat (s.sq i n).head.toNat →
    Does (.ringSqTailWrite i n v) s fun t => t.sq i n = { s.sq i n with st := .error, cause := 2 }) ∧
  (∀ i n (l : Line) s, TakesRings i s → n < (s.inst i).res.sqs → (s.sq i n).st = .active → (s.sq i n).slotRes = none →
    checkTail (s.sq i n) (ringNext (s.sq i n).log2 (s.sq i n).tail.toNat) = .accepted →
    entPhase l = ringWrap (s.sq i n).log2 (s.sq i n).tail.toNat → (s.sq i n).spores.length < 8 →
    Does (.sporeWrite i n l) s fun t =>
      (t.sq i n).tail = BitVec.ofNat 32 (ringNext (s.sq i n).log2 (s.sq i n).tail.toNat) ∧
      (t.sq i n).spores = (s.sq i n).spores ++ [((s.sq i n).tail.toNat, l)] ∧
      t.ring.cnt.sporeUsed = s.ring.cnt.sporeUsed + 1 ∧ t = { s with ring := t.ring, out := t.out, lnk := t.lnk } ∧ t.ring.cmds = s.ring.cmds) ∧
  (∀ i n (l : Line) s, TakesRings i s → n < (s.inst i).res.sqs → (s.sq i n).st = .active → (s.sq i n).slotRes = none →
    checkTail (s.sq i n) (ringNext (s.sq i n).log2 (s.sq i n).tail.toNat) = .accepted →
    (entPhase l ≠ ringWrap (s.sq i n).log2 (s.sq i n).tail.toNat ∨ 8 ≤ (s.sq i n).spores.length) →
    Does (.sporeWrite i n l) s fun t =>
      (t.sq i n).tail = BitVec.ofNat 32 (ringNext (s.sq i n).log2 (s.sq i n).tail.toNat) ∧
      (t.sq i n).spores = (s.sq i n).spores ∧ t.ring.cnt.sporeStale = s.ring.cnt.sporeStale + 1 ∧
      t = { s with ring := t.ring, out := t.out, lnk := t.lnk } ∧ t.ring.cmds = s.ring.cmds) ∧
  (∀ i n (v : W32) s, TakesRings i s → n < (s.inst i).res.cqs → (s.cq i n).st = .active →
    ringUsed (s.cq i n).log2 (s.cq i n).tail.toNat (v.toNat % ringMask (s.cq i n).log2) ≤
      ringUsed (s.cq i n).log2 (s.cq i n).tail.toNat (s.cq i n).head.toNat →
    exec (.ringCqHeadWrite i n v) s =
      .next (s.setCq i n { s.cq i n with head := BitVec.ofNat 32 (v.toNat % ringMask (s.cq i n).log2) })) ∧
  (∀ i n (v : W32) s, TakesRings i s → n < (s.inst i).res.cqs → (s.cq i n).st = .active →
    ringUsed (s.cq i n).log2 (s.cq i n).tail.toNat (s.cq i n).head.toNat <
      ringUsed (s.cq i n).log2 (s.cq i n).tail.toNat (v.toNat % ringMask (s.cq i n).log2) →
    Does (.ringCqHeadWrite i n v) s fun t => t.cq i n = { s.cq i n with st := .error, cause := 1 }) ∧
  (∀ i n u s, TakesRings i s → (s.sq i n).st = .active → (s.sq i n).slotRes = none → (s.sq i n).head ≠ (s.sq i n).tail →
    sqOut s i n < (s.sq i n).outlim → slotsHeld s i < (s.inst i).res.slots → freeSlot s < nSlots → cqHolds i (s.sq i n).cq s = false →
    (s.sq i n).spores = [] → (s.sq i n).copies = [] → fetchTurn i (setStall i n false false false s) = some u →
    Does (.commandFetchStart i n) s fun t =>
      t.sq i n = { s.sq i n with
        slotRes := some (freeSlot s), stOutlim := false, stQuota := false, stCq := false, reads := (t.sq i n).reads } ∧
      s.cmd (freeSlot s) = none ∧ t = { s with ring := t.ring, disp := u.disp, out := t.out, lnk := t.lnk } ∧
      t.ring.cmds = s.ring.cmds) ∧
  (∀ i n s, TakesRings i s → (s.sq i n).st = .active → (s.sq i n).slotRes = none → (s.sq i n).head ≠ (s.sq i n).tail →
    sqOut s i n < (s.sq i n).outlim → slotsHeld s i < (s.inst i).res.slots → freeSlot s < nSlots → cqHolds i (s.sq i n).cq s = false →
    fetchTurn i (setStall i n false false false s) = none →
    exec (.commandFetchStart i n) s = .next (setStall i n false false false s)) ∧
  (∀ i n s, TakesRings i s → (s.sq i n).st = .active → (s.sq i n).slotRes = none → (s.sq i n).head ≠ (s.sq i n).tail →
    (s.sq i n).outlim ≤ sqOut s i n →
    Does (.commandFetchStart i n) s fun t => (t.sq i n).stOutlim = true ∧ (t.sq i n).slotRes = none ∧
      (t.sq i n).head = (s.sq i n).head ∧ t = { s with ring := t.ring } ∧ t.ring.cmds = s.ring.cmds) ∧
  (∀ i n idx s, (s.sq i n).reads.contains idx = false → (s.sq i n).phaseOn.contains idx = false →
    (s.sq i n).spores.all (fun e => decide (e.1 ≠ idx)) = true → (s.sq i n).copies.all (fun e => decide (e.1 ≠ idx)) = true →
    (s.hostPort (s.sq i n).port).up = true → (issueRead i n idx s).out.host = s.out.host ++
      [.read (s.sq i n).port i ((s.sq i n).base + 64 * ringSlot (s.sq i n).log2 idx) 64] ∧
      (issueRead i n idx s).sq i n = { s.sq i n with reads := (s.sq i n).reads ++ [idx] }) ∧
  (∀ i n idx l s, (s.hostPort (s.sq i n).port).absent = false → (s.sq i n).st = .active → (s.sq i n).phaseOn.contains idx = false →
    covered (s.sq i n) idx = false → prefetchable (s.sq i n) idx = true →
    Does (.sqEntryReadDone i n idx (some l)) s fun t =>
      (t.sq i n).copies = (s.sq i n).copies.filter (·.1 ≠ idx) ++ [(idx, l)] ∧ (t.sq i n).head = (s.sq i n).head ∧
      t = { s with ring := t.ring, out := t.out, lnk := t.lnk } ∧ t.ring.cmds = s.ring.cmds) ∧
  (∀ i n idx s, (s.sq i n).st = .active → (s.sq i n).phaseOn.contains idx = false →
    (covered (s.sq i n) idx = true ∨ prefetchable (s.sq i n) idx = true) →
    Does (.sqEntryReadDone i n idx none) s fun t =>
      t.sq i n = { s.sq i n with st := .error, cause := 3, reads := (t.sq i n).reads } ∧ t.ring.cmds = s.ring.cmds) ∧
  (∀ i n idx l s, (s.hostPort (s.sq i n).port).absent = false → (s.sq i n).st = .active → (s.sq i n).phaseOn.contains idx = false →
    covered (s.sq i n) idx = true → entPhase l ≠ ringWrap (s.sq i n).log2 idx → (s.sq i n).spores.all (fun e => decide (e.1 ≠ idx)) = true →
    Does (.sqEntryReadDone i n idx (some l)) s fun t => (t.sq i n).stPhase = true ∧ (t.sq i n).phaseOn = (s.sq i n).phaseOn ++ [idx] ∧
      (t.sq i n).head = (s.sq i n).head ∧ t.ring.cnt.phaseWaits = s.ring.cnt.phaseWaits + 1 ∧ t.ring.cmds = s.ring.cmds) ∧
  (∀ i n idx l s, (s.hostPort (s.sq i n).port).absent = false →
    (s.sq i n).compares.find? (fun e => e.1 = idx) = some (idx, l) →
    Does (.sporeCompareReadDone i n idx (some l)) s fun t =>
      t.sq i n = { s.sq i n with compares := (s.sq i n).compares.erase (idx, l) } ∧ t.ring.cnt = s.ring.cnt ∧ t.log = s.log ∧
      t = { s with ring := t.ring, out := t.out, lnk := t.lnk }) ∧
  (∀ i n idx l m s, (s.hostPort (s.sq i n).port).absent = false →
    (s.sq i n).compares.find? (fun e => e.1 = idx) = some (idx, l) → m ≠ l →
    entPhase m = ringWrap (s.sq i n).log2 idx → Does (.sporeCompareReadDone i n idx (some m)) s fun t =>
      t.ring.cnt.sporeMismatch = s.ring.cnt.sporeMismatch + 1 ∧ t.log.next = s.log.next + 1 ∧
      (t.sq i n).compares = (s.sq i n).compares.erase (idx, l) ∧ t.ring.cmds = s.ring.cmds)

/-- NOP completes with SUCCESS and RESULT0 zero (R363); an ABORT with zero TAG ends with PARAM_INVALID (R394), one whose target
is open ends ABORT_APPLIED and the target ABORTED_BY_HOST, and one without target ends NOT_FOUND (R395).
A deadline that passes while the outcome is open fixes ABORTED_DEADLINE (R304), the earlier tick first, at one tick the timer set
earlier, then the one of lower number (R301); a command that waited for a timer takes one
that is free, and ends at once when its deadline has passed (R303). -/
def Obligations.NopAbortAndDeadlines : Prop :=
  (∀ k c s, Handed k 0 c s → Does (.nop k) s fun t =>
    t.cmd k = some { c with outcome := some stSuccess, r0 := 0 } ∧ ∀ j, j ≠ k → t.cmd j = s.cmd j) ∧
  (∀ k c s, Handed k 0x3F c s → abortFieldsOk c = false → Does (.abort k) s fun t =>
    (t.cmd k).map (·.outcome) = some (some stParam)) ∧
  (∀ k c s, Handed k 0x3F c s → abortFieldsOk c = true →
    abortTarget s c.inst (field (c.word 6) 12 0) (c.word 5) = none →
    writtenRecord (s.sq c.inst (field (c.word 6) 12 0)) (c.word 5) = none →
    Does (.abort k) s fun t => (t.cmd k).map (·.outcome) = some (some stNotFound)) ∧
  (∀ k c j x s, Handed k 0x3F c s → abortFieldsOk c = true →
    abortTarget s c.inst (field (c.word 6) 12 0) (c.word 5) = some (j, x) → s.cmd j = some x → x.outcome = none →
    writtenRecord (s.sq c.inst (field (c.word 6) 12 0)) (c.word 5) = none →
    Does (.abort k) s fun t => (t.cmd k).map (·.outcome) = some (some stApplied) ∧
      (t.cmd j).map (·.outcome) = some (some stAborted)) ∧
  (∀ k c tm s, s.cmd k = some c → c.outcome = none →
    (dueTimers s).find? (fun t => decide (t.slot = k)) = some tm → (∀ x ∈ dueTimers s, x.before tm = false) →
    Does (.deadlineExpiry k) s fun t => (t.cmd k).map (·.outcome) = some (some stDeadline) ∧
      t.disp.timers.filter (·.owner.isSome) = (s.disp.timers.erase tm).filter (·.owner.isSome) ∧
      t.disp.deadlines = s.disp.deadlines + 1) ∧
  (∀ k c o tm s, s.cmd k = some c → c.outcome = some o →
    (dueTimers s).find? (fun t => decide (t.slot = k)) = some tm → (∀ x ∈ dueTimers s, x.before tm = false) →
    exec (.deadlineExpiry k) s = .next { s with disp := { s.disp with timers := s.disp.timers.erase tm } }) ∧
  (∀ k tm x s, (dueTimers s).find? (fun t => decide (t.slot = k)) = some tm → x ∈ dueTimers s → x.before tm = true →
    exec (.deadlineExpiry k) s = .next s) ∧
  (∀ k c d s, s.cmd k = some c → c.deadline = some d → s.time < d → timerFree s c.inst = true →
    (s.disp.tmrQ.filter fun j => (s.cmd j).any fun x => x.inst = c.inst).head? = some k →
    Does (.deadlineTimerWaitEnd k) s fun t =>
      t.cmd k = some { c with phase := .handed } ∧ t.disp.tmrQ = s.disp.tmrQ.filter (· ≠ k) ∧
      ∃ id, t.disp.timers = s.disp.timers ++ [{ id := id, owner := some c.inst, slot := k, expiry := d, setAt := s.time }]) ∧
  (∀ k c d s, s.cmd k = some c → c.deadline = some d → d ≤ s.time → c.outcome = none → timerFree s c.inst = true →
    (s.disp.tmrQ.filter fun j => (s.cmd j).any fun x => x.inst = c.inst).head? = some k →
    Does (.deadlineTimerWaitEnd k) s fun t => (t.cmd k).map (·.outcome) = some (some stDeadline))

/-- A waiting entry is written once its CQ has room (R392); the interrupt goes out when AGG_TIME has passed (R400). -/
def Obligations.CompletionQueues : Prop :=
  (∀ i n s, (s.cq i n).buf = [] → (s.cq i n).held = [] →
    (∀ e ∈ s.ring.sqs, keyInst e.1 = i → e.2.cq = n → e.2.slotRes = none) →
    exec (.completionBufferDrain i n) s = .next (markCq i n false (s.setCq i n { s.cq i n with fullRaised := false }))) ∧
  (∀ i n k c s, ((s.cq i n).buf ++ (s.cq i n).held).head? = some k → s.cmd k = some c → c.inst = i →
    entryReady c n s = false → exec (.completionBufferDrain i n) s = .next s) ∧
  (∀ i n k c s, entryReady c n s = true → (s.cq i n).buf = [k] → (s.cq i n).held = [] → s.cmd k = some c → c.inst = i →
    (s.sq i c.sq).cq = n → (∀ e ∈ s.ring.cmds, ∀ x, e.2 = some x → x.dupOf ≠ some c.accNo) →
    (∀ e ∈ s.ring.sqs, keyInst e.1 = i → e.2.cq = n → e.2.slotRes = none) → Does (.completionBufferDrain i n) s fun t =>
      t.cmd k = none ∧ (t.cq i n).buf = [] ∧
      (t.cq i n).tail = BitVec.ofNat 32 (ringNext (s.cq i n).log2 (s.cq i n).tail.toNat) ∧
      .write (s.cq i n).port i ((s.cq i n).base + 32 * ringSlot (s.cq i n).log2 (s.cq i n).tail.toNat)
        (entryWords c (c.outcome.getD 0) (ringWrap (s.cq i n).log2 (s.cq i n).tail.toNat) (s.sq i c.sq).head.toNat) ∈ t.out.host) ∧
  (∀ i n s, (s.cq i n).ien = true → (s.cq i n).sigCount ≠ 0 → (s.cq i n).sigFirst + 1000 * (s.cq i n).aggTime ≤ s.time →
    (s.hostPort (s.cq i n).port).up = true → msixMasked s i (s.cq i n).vector = false →
    Does (.cqAggTimeExpiry i n) s fun t =>
      t.out.host = s.out.host ++ [.msix (s.cq i n).port i (s.cq i n).vector] ∧
      t.cq i n = { s.cq i n with sigCount := 0, sigFirst := 0 } ∧ t = { s with ring := t.ring, out := t.out })

/-- A QUERY or QUERY_POINT without its plan ends with NO_PLAN, one with bad fields with that status; else a QUERY whose plan
has parameters asks the host for its parameter block, and a QUERY_POINT starts from the plan's defaults and PARAM0 to PARAM2
(R53, R55 to R57).
The reads that precede a query's first item: a parameter block that came whole binds the query, a failed or short read
ends it with HOST_ACCESS (R57); a group directory that fails its checks ends it with PARAM_INVALID (R60, R61); a block that
names bad inputs or outputs does too (R58, R70). A command that waited for its flow block takes it, and its
items become eligible then (R300, R309). -/
def Obligations.QueryStartsAndReads : Prop :=
  (∀ k c s, Handed k 1 c s → queryRun c = none → Does (.query k) s fun t =>
    (t.cmd k).map (fun x => (x.outcome, x.r0)) = some (some stNoPlan, noItemR0)) ∧
  (∀ k c q st s, Handed k 1 c s → queryRun c = some q → queryDesc c q.plan = some st → Does (.query k) s fun t =>
    (t.cmd k).map (fun x => (x.outcome, x.r0)) = some (some st, noItemR0)) ∧
  (∀ k c q s, Handed k 1 c s → queryRun c = some q → queryDesc c q.plan = none → q.plan.pbSize ≠ 0 →
    (s.hostPort (s.sq c.inst c.sq).port).up = true → Does (.query k) s fun t =>
      t.cmd k = some { c with phase := .hostRead } ∧
      t.out.host = s.out.host ++ [.read (s.sq c.inst c.sq).port c.inst c.addr0 q.plan.pbSize] ∧
      t = { s with ring := t.ring, out := t.out } ∧ ∀ j, j ≠ k → t.cmd j = s.cmd j) ∧
  (∀ k c q s, Handed k 1 c s → queryRun c = some q → queryDesc c q.plan = none → q.plan.pbSize = 0 →
    exec (.query k) s = .next (startBlock k [] s)) ∧
  (∀ k c q s, Handed k 2 c s → queryRun c = some q → pointDesc c q.plan = none →
    exec (.queryPoint k) s = .next (startBlock k ((pointBlock c q.plan).take q.plan.pbSize) s)) ∧
  (∀ k c q st s, Handed k 2 c s → queryRun c = some q → pointDesc c q.plan = some st → Does (.queryPoint k) s fun t =>
    (t.cmd k).map (fun x => (x.outcome, x.r0)) = some (some st, noItemR0)) ∧
  (∀ k c q d s, s.cmd k = some c → c.phase = .hostRead → c.opc = 1 → c.outcome = none → queryRun c = some q →
    (s.hostPort (s.sq c.inst c.sq).port).absent = false → q.plan.pbSize ≤ d.length →
    exec (.paramBlockReadDone k (some d)) s = .next (startBlock k (d.take q.plan.pbSize) s)) ∧
  (∀ k c q (d : Option (List Byte)) s, s.cmd k = some c → c.phase = .hostRead → c.opc = 1 → c.outcome = none →
    queryRun c = some q → (∀ b, d = some b → b.length < q.plan.pbSize) → Does (.paramBlockReadDone k d) s fun t =>
      (t.cmd k).map (fun x => (x.outcome, x.r0)) = some (some stHost, noItemR0)) ∧
  (∀ k c q pb s, s.cmd k = some c → c.outcome = none → queryRun c = some q → blockFails s c.inst c.accNo q.plan pb ≠ [] →
    ((startBlock k pb s).cmd k).map (·.outcome) = some (some stParam)) ∧
  (∀ k c q ins t s, s.cmd k = some c → c.phase = .directory → c.outcome = none → readsLeft s k = false → queryRun c = some q →
    loadDirectories c (inputUsed s k q) q.inputs s = (some ins, t) →
    exec (.groupDirectoryReadDone k) s = .next (startPipes k (modQuery k (fun q => { q with inputs := ins }) t))) ∧
  (∀ k c q t s, s.cmd k = some c → c.phase = .directory → c.outcome = none → c.isQuery = true → readsLeft s k = false →
    queryRun c = some q → loadDirectories c (inputUsed s k q) q.inputs s = (none, t) → Does (.groupDirectoryReadDone k) s fun t =>
      (t.cmd k).map (fun x => (x.outcome, x.r0)) = some (some stParam, noItemR0)) ∧
  (∀ k c q s, s.cmd k = some c → c.phase = .flowWait → c.outcome = none → queryRun c = some q → k ∈ s.disp.flowQ →
    flowsFit s c q = true →
    exec (.flowIdWaitEnd k) s = .next (settle k (takeFlows k c q
      (setPhase k .running { s with disp := { s.disp with
        flowQ := s.disp.flowQ.filter (· ≠ k), lists := s.disp.lists.map fun e =>
          (e.1, { e.2 with cursors := e.2.cursors.map fun x => if x.slot = k then { x with since := s.time } else x }) } })))) ∧
  (∀ k c q s, s.cmd k = some c → queryRun c = some q → c.phase = .flowWait → flowsFit s c q = false →
    exec (.flowIdWaitEnd k) s = .next s)

/-- A frond that asks for work gets the item that the dispatcher chose: its registers are set as R186 says, its quadrant is
unparked, and the cursor has one item less (R186, R288, R289); a frond that last ran another instance is cleared, one of the same
instance keeps its state (R186, R187). Without an eligible cursor nothing happens, but that a frond that has asked
for its next item is cleared (R186).
An item without an unresolved cause whose last stage has run ends, and its fronds ask for their next item; one whose frond stands
in its handler fails with the status of its cause (R150, R173); a breaker whose finalising step is over lets its dependants start
(R63, R76); the item in service of a flow leaves its operator, the next one resumes (R298); a hand-off batch frees its place and
wakes both fronds (R65). -/
def Obligations.ItemsStartAndEnd : Prop :=
  (∀ f l x c q e s u, f < 128 → (s.frond f).item = none → (s.frond f).halted = false → awake s = true → s.pads.inReset = false →
    chooseCursor 0 (frondChoices s f) s = (some (l, x), u) → runnable u x.slot = some (c, q) → x.kind = .items →
    q.plan.pipes[x.pipe]? = some e → chainStages q.plan x.pipe = none → e.grantUnits = 0 → mergeSrc q.plan x.pipe = none →
    (∀ o ∈ q.outs, o.header = true) →
    (∀ w, (askChunks x.slot x.pipe (q.pipe x.pipe).made c q w).fronds = w.fronds) → Does (.itemDispatch 0 f) s fun t =>
      (t.frond f).item = some { slot := x.slot, pipe := x.pipe, idx := (q.pipe x.pipe).made, stage := 0 } ∧
      (t.frond f).pc = 0 ∧ (t.frond f).ret = 0 ∧ (t.frond f).cyc = 0 ∧ (t.frond f).iss = 0 ∧ (t.frond f).specx = 0 ∧
      ((s.frond f).inst.toNat ≠ c.inst → (t.frond f).cause = 0 ∧ (t.frond f).g = [] ∧ (t.frond f).v = [] ∧ (t.frond f).m = []) ∧
      ((s.frond f).inst.toNat = c.inst → (t.frond f).cause = (s.frond f).cause ∧ (t.frond f).g = (s.frond f).g ∧
        (t.frond f).v = (s.frond f).v ∧ (t.frond f).m = (s.frond f).m) ∧
      (t.frond f).clim = BitVec.ofNat 32 (codeOf q.plan (pipeOps q.plan x.pipe)).length ∧
      (t.frond f).wlim = BitVec.ofNat 32 (0x40000 + roundUp e.work 4096) ∧ t.pwr.parked.get false (f / 8) = false ∧
      ∀ g, g ≠ f → t.frond g = s.frond g) ∧
  (∀ f s, (∀ x, frondEligible s f x = false) → (s.frond f).asking = false → exec (.itemDispatch 0 f) s = .next s) ∧
  (∀ f s, f < 128 → (∀ x, frondEligible s f x = false) → (s.frond f).asking = true → (s.frond f).item = none →
    (s.frond f).halted = false → awake s = true → s.pads.inReset = false → exec (.itemDispatch 0 f) s =
      .next (s.setFrond f { (s.frond f).clear with reserved := (s.frond f).reserved, asking := false })) ∧
  (∀ f it s, (s.frond f).item = some it → exec (.itemDispatch 0 f) s = .next s) ∧
  (∀ k n s, Does (.affWaitExpiry k n) s fun t =>
    t = { s with disp := { s.disp with lists := t.disp.lists } } ∧
    ∀ l, (t.disp.lists.get ReadyList.free l).cursors = (s.disp.lists.get ReadyList.free l).cursors.map fun x =>
      if x.slot = k ∧ x.pipe = n ∧ x.kind ≠ .jobs ∧ x.kind ≠ .sends ∧ x.since + affWait s ≤ s.time then { x with affOver := true }
      else x) ∧
  (∀ (f : Fin 128) h s, (s.frond f.val).item = none → exec (.itemEnd f h) s = .next s) ∧
  (∀ (f : Fin 128) h it c q q' t s, (s.frond f.val).item = some it → (s.frond f.val).stopping = none →
    takenQuery s it.slot = some (c, q) → (unresolved s (chainFronds s it)).1 = none → mayEnd s it c q (chainFronds s it) = true →
    it.stage ≠ finalStage → (q.pipe it.pipe).passQ = [] → (q'.pipe it.pipe).passQ = [] →
    runItem (itemOf s it c f.val h) q s = (.ok (), q', t) →
    exec (.itemEnd f h) s = .next (endWell it c.inst (chainFronds s it) (modQuery it.slot (fun _ => q') t))) ∧
  (∀ (f : Fin 128) h it c q st s, (s.frond f.val).item = some it → (s.frond f.val).stopping = none →
    takenQuery s it.slot = some (c, q) → chainFronds s it = [f.val] → pendingCause (s.frond f.val) = some st →
    Does (.itemEnd f h) s fun t => (t.cmd it.slot).any (fun x => x.failure.map (·.1) = some st ∨ x.outcome = some st)) ∧
  (∀ k n c q s, liveQuery s k = some (c, q) → (q.pipe n).finished = false → breakerReady s k n q = true →
    exec (.breakerFinish k n) s = .next (settle k (modPipe k n (fun p => { p with finished := true }) s))) ∧
  (∀ k n c q s, liveQuery s k = some (c, q) → breakerReady s k n q = false → exec (.breakerFinish k n) s = .next s) ∧
  (∀ k n op fl h c q q' bs idx f fs t s, takenQuery s k = some (c, q) → inService q n op fl = some idx →
    chainFronds s ⟨k, n, idx, 0⟩ = f :: fs → parkedItem q n op idx = false → mayRun s ⟨k, n, idx, 0⟩ c q = true →
    (∀ g ∈ f :: fs, (s.frond g).stopping = none ∧ (s.frond g).exl = false) →
    runUpto (itemOf s ⟨k, n, idx, 0⟩ c f h) (op + 1) q s = (.ok bs, q', t) →
    exec (.flowServiceEnd k n op ⟨fl, h⟩) s = .next (needSends k (modQuery k
      (fun _ => leaveUpto n op idx (keepPart (itemOf s ⟨k, n, idx, 0⟩ c f h) (op + 1) bs q')) t))) ∧
  (∀ k n op fl h c q s, takenQuery s k = some (c, q) → inService q n op fl = none →
    exec (.flowServiceEnd k n op ⟨fl, h⟩) s = .next s) ∧
  (∀ n op fl idx q, inService (leaveUpto n op idx q) n op fl ≠ some idx) ∧
  (∀ k n idx st f g s, (List.range 128).find? (fun f => decide ((s.frond f).item = some ⟨k, n, idx, st⟩)) = some f →
    (List.range 128).find? (fun f => decide ((s.frond f).item = some ⟨k, n, idx, st + 1⟩)) = some g →
    batchesOut (s.frond f) ≠ 0 → Does (.handoffBatchTaken k n idx st) s fun t =>
      t.frond f = { s.frond f with hoOut := (s.frond f).hoOut.eraseP (fun x => x.1 = 0), event := true } ∧
      t.frond g = { s.frond g with event := true } ∧ t = { s with fronds := t.fronds } ∧
      ∀ j, j ≠ f → j ≠ g → t.frond j = s.frond j)

/-- Steps 3 and 4 of the commit sequence (R74): once the outcome stands and no work is left, the last writes are made and
the completion entry is written to a CQ that can take it, the command leaves its slot, and the CQ tail advances (R368, R369,
R391). A command that waits at its ordering point, or for a host read, goes on as its opcode says (R246, R249, R327, R417, R418). -/
def Obligations.CommandsCommit : Prop :=
  (∀ k c o s, k < nSlots → s.cmd k = some c → c.outcome = some o → c.dupOf = none → c.phase = .running → c.work = .none →
    c.silent = false → fanOf s k = none → cmdBusy k s = false → cqReady c.inst (s.sq c.inst c.sq).cq s = true →
    writesWait s c = false → (s.cq c.inst (s.sq c.inst c.sq).cq).buf = [] → (s.cq c.inst (s.sq c.inst c.sq).cq).held = [] →
    (∀ j x, (j, some x) ∈ s.ring.cmds → x.dupOf = none) → Does (.commitFinish k) s fun t =>
      t.cmd k = none ∧
      (t.cq c.inst (s.sq c.inst c.sq).cq).tail = BitVec.ofNat 32 (ringNext (s.cq c.inst (s.sq c.inst c.sq).cq).log2
        (s.cq c.inst (s.sq c.inst c.sq).cq).tail.toNat) ∧
      .write (s.cq c.inst (s.sq c.inst c.sq).cq).port c.inst
        ((s.cq c.inst (s.sq c.inst c.sq).cq).base + 32 * ringSlot (s.cq c.inst (s.sq c.inst c.sq).cq).log2
          (s.cq c.inst (s.sq c.inst c.sq).cq).tail.toNat)
        (entryWords c o (ringWrap (s.cq c.inst (s.sq c.inst c.sq).cq).log2 (s.cq c.inst (s.sq c.inst c.sq).cq).tail.toNat)
          (s.sq c.inst c.sq).head.toNat) ∈ t.out.host) ∧
  (∀ k c o s, k < nSlots → s.cmd k = some c → c.outcome = some o → o ≠ stSuccess → c.dupOf = none → c.phase ≠ .entryWait →
    fanOf s k = none → cmdBusy k s = false →
    exec (.commitFinish k) s = .next (endCommand k c (s.modCmd k fun c => { c with step3 := true }))) ∧
  (∀ k c s, s.cmd k = some c → (c.outcome = none ∨ cmdBusy k s = true) → exec (.commitFinish k) s = .next s) ∧
  (∀ k c s, s.cmd k = some c → c.phase = .ordering → c.outcome = none → c.isQuery = true →
    exec (.orderingWaitEnd k) s = .next (tryQuery k s)) ∧
  (∀ k c s, s.cmd k = some c → c.phase = .ordering → c.outcome = none → 0x10 ≤ c.opc → c.opc ≤ 0x15 →
    exec (.orderingWaitEnd k) s = .next (storeOrdered k c s)) ∧
  (∀ k c s, s.cmd k = some c → c.phase = .ordering → c.outcome = none → (c.opc = 0x20 ∨ c.opc = 0x21) →
    exec (.orderingWaitEnd k) s = .next (tryDigest k s)) ∧
  (∀ k c s, s.cmd k = some c → c.phase = .ordering → c.outcome = none → c.opc = 0x30 →
    exec (.orderingWaitEnd k) s = .next (tryUpdate k c (matchBytes c) s)) ∧
  (∀ k c s, s.cmd k = some c → c.phase = .ordering → c.outcome = none → c.opc = 0x31 →
    exec (.orderingWaitEnd k) s = .next (trySearch k c (matchBytes c) s)) ∧
  (∀ k c s, s.cmd k = some c → c.phase = .hostRead → c.outcome = none → (c.opc = 0x10 ∨ c.opc = 0x12) →
    Does (.hostReadDone k none) s fun t => (t.cmd k).map (·.outcome) = some (some stHost)) ∧
  (∀ k c d s, s.cmd k = some c → c.phase = .hostRead → c.outcome = none → (c.opc = 0x10 ∨ c.opc = 0x12) →
    (s.hostPort (s.sq c.inst c.sq).port).absent = false → d.length = c.len →
    exec (.hostReadDone k (some d)) s = .next (staged k c d s))

/-- A write or append whose fields and object are in order takes its place in the write cache and gets its data (R413, R420,
R424); when the cache has no room it waits for one; a read, a trim or a RESIZE goes to its ordering point (R418). -/
def Obligations.StoreCommandsStart : Prop :=
  (∀ k c o s, s.store.mounted = true → Handed k 0x10 c s → storeDesc c = none → objFor s c.inst c.obj c.accNo = some o →
    c.addr1 + c.len ≤ objMax → (c.dur = false ∨ o.wfault = false) → cacheRoom s c.inst c.len = true →
    exec (.storeWrite k) s = .next (stage k c s)) ∧
  (∀ k c o s, s.store.mounted = true → Handed k 0x12 c s → storeDesc c = none → objFor s c.inst c.obj c.accNo = some o →
    c.addr1 + c.len ≤ objMax → (c.dur = false ∨ o.wfault = false) → cacheRoom s c.inst c.len = true →
    exec (.storeAppend k) s = .next (stage k c s)) ∧
  (∀ k c s, s.cmd k = some c → c.param 1 = 0 → c.segs = [] → bits (c.param 0) 31 0 ≠ 0 →
    (s.hostPort (s.sq c.inst c.sq).port).up = true →
    (stage k c s).cmd k = some { c with phase := .hostRead, work := .store { storeRun c with frames := framesFor c.len } } ∧
    (stage k c s).out.host =
      s.out.host ++ [.read (s.sq c.inst c.sq).port c.inst c.addr0 (bits (c.param 0) 31 0)]) ∧
  (∀ k c o s, s.store.mounted = true → Handed k 0x10 c s → storeDesc c = none → objFor s c.inst c.obj c.accNo = some o →
    c.addr1 + c.len ≤ objMax → (c.dur = false ∨ o.wfault = false) → cacheRoom s c.inst c.len = false →
    Does (.storeWrite k) s fun t => t.cmd k = some { c with phase := .cacheWait } ∧ t.store.cacheQ = s.store.cacheQ ++ [k] ∧
      t = { s with ring := t.ring, store := { s.store with cacheQ := t.store.cacheQ } }) ∧
  (∀ k c s, s.cmd k = some c → c.phase = .cacheWait → c.outcome = none → queryRun c = none →
    nextWaiting s c.inst = some k → cacheRoom s c.inst c.len = true →
    exec (.writeCacheRoom k) s =
      .next (stage k c { s with store := { s.store with cacheQ := s.store.cacheQ.filter (· ≠ k) } })) ∧
  (∀ k c o s, s.store.mounted = true → Handed k 0x11 c s → storeDesc c = none → objFor s c.inst c.obj c.accNo = some o →
    c.addr1 + c.len ≤ objMax → exec (.storeRead k) s = .next (tryStore k (setPhase k .ordering (modRun k id s)))) ∧
  (∀ k c o s, s.store.mounted = true → Handed k 0x14 c s → trimDesc c = none → objFor s c.inst c.obj c.accNo = some o →
    c.addr1 + c.len ≤ objMax → (c.dur = false ∨ o.wfault = false) →
    exec (.storeTrim k) s = .next (readPartial k c o (modRun k id s))) ∧
  (∀ k c o s, s.store.mounted = true → Handed k 0x15 c s → attrDescOk c = true → c.aop = 4 →
    objFor s c.inst c.obj c.accNo = some o → c.param 1 ≤ objMax → (c.dur = false ∨ o.wfault = false) →
    exec (.storeAttrResize k) s = .next (readPartial k c o (modRun k id s)))

/-- At its ordering point a read delivers its bytes from the snapshot, and a write, append, trim or RESIZE without DUR publishes
its result as the object's contents at once (R410, R412, R416, R417). -/
def Obligations.StoreEffects : Prop :=
  (∀ k c o s, s.cmd k = some c → c.opc = 0x11 → c.phase = .ordering → c.outcome = none → readsLeft s k = false →
    orderBlocked s c [c.obj] = false → objFor s c.inst c.obj c.accNo = some o → c.addr1 + c.len ≤ o.cur.size →
    (∀ e ∈ extsOf c.addr1 c.len, e ∉ o.badExts ∧ onMedia o o.cur e = false) → c.param 1 = 0 → c.segs = [] →
    bits (c.param 0) 31 0 = c.len → (s.hostPort (s.sq c.inst c.sq).port).up = true →
    ((tryStore k s).cmd k).map (fun x => (x.outcome, x.r0)) = some (some stSuccess, BitVec.ofNat 64 c.len) ∧
    (tryStore k s).out.host =
      s.out.host ++ [.write (s.sq c.inst c.sq).port c.inst c.addr0 (imgRead o.cur c.addr1 c.len)] ∧
    (tryStore k s).store.objs = s.store.objs) ∧
  (∀ k c o s, s.cmd k = some c → c.opc = 0x11 → c.phase = .ordering → c.outcome = none → readsLeft s k = false →
    orderBlocked s c [c.obj] = false → objFor s c.inst c.obj c.accNo = some o → o.cur.size < c.addr1 + c.len →
    ((tryStore k s).cmd k).map (·.outcome) = some (some stRange)) ∧
  (∀ k c o m s, s.cmd k = some c → c.opc ≠ 0x11 → c.dur = false → c.phase = .ordering → c.outcome = none →
    readsLeft s k = false → orderBlocked s c [c.obj] = false → objFor s c.inst c.obj c.accNo = some o →
    effectOf c o.cur = some m → m.size ≤ objMax → o.badExts = [] → overCapacity s o m = false →
    ((tryStore k s).cmd k).map (fun x => (x.outcome, x.r0)) =
      some (some stSuccess, BitVec.ofNat 64 (publishResult c o.cur m)) ∧
    (objFor (tryStore k s) c.inst c.obj c.accNo).map (·.cur) = some m)

/-- STORE_FLUSH succeeds at once when nothing that it covers waits for media, else it waits for durability (R423); the STORE_ATTR
operations create, delete and describe objects (R414 to R417); a bad field ends any of them with PARAM_INVALID. -/
def Obligations.StoreAttributes : Prop :=
  (∀ k c s, s.store.mounted = true → Handed k 0x13 c s → bareDesc c = true → c.word 3 = 0 → c.word 4 = 0 →
    (c.obj = 0 ∨ (objFor s c.inst c.obj c.accNo).isSome = true) → flushFault s c = false → flushSet s c = [] →
    Does (.storeFlush k) s fun t => t.cmd k = some { c with outcome := some stSuccess, r0 := 0 }) ∧
  (∀ k c s, s.store.mounted = true → Handed k 0x13 c s → bareDesc c = true → c.word 3 = 0 → c.word 4 = 0 →
    (c.obj = 0 ∨ (objFor s c.inst c.obj c.accNo).isSome = true) → flushFault s c = false → flushSet s c ≠ [] →
    Does (.storeFlush k) s fun t => t.cmd k = some { c with phase := .durWait } ∧
      t.store.flushes = s.store.flushes ++ [(k, flushSet s c)]) ∧
  (∀ k c s, s.store.mounted = true → Handed k 0x15 c s → attrDescOk c = true → c.aop = 1 → c.obj ≠ 0 → c.obj ≠ 0xFFFFFFFF →
    orderBlocked s c [c.obj] = false → objNow s c.inst c.obj = none → (s.hostPort (s.sq c.inst c.sq).port).up = true →
    Does (.storeAttrCreate k) s fun t =>
      t.cmd k = some { c with phase := .hostRead } ∧
      t.out.host = s.out.host ++ [.read (s.sq c.inst c.sq).port c.inst c.addr0 64]) ∧
  (∀ k c d s, s.cmd k = some c → c.opc = 0x15 → c.phase = .hostRead → c.outcome = none → c.dur = false →
    (s.hostPort (s.sq c.inst c.sq).port).absent = false → d.length = 64 → createOk s d = true →
    objNow s c.inst c.obj = none → s.store.objs.length < 65536 → Does (.hostReadDone k (some d)) s fun t =>
      (t.cmd k).map (fun x => (x.outcome, x.r0)) = some (some stSuccess, 1) ∧
      (objNow t c.inst c.obj).map (fun o => (o.cur.size, o.cur.ver, o.copies, o.stripe)) =
        some (0, 1, leAt d 6 1, BitVec.ofNat 16 (leAt d 4 2))) ∧
  (∀ k c o s, s.store.mounted = true → Handed k 0x15 c s → attrDescOk c = true → c.aop = 2 →
    objNow s c.inst c.obj = some o → c.dur = false → orderBlocked s c [c.obj] = false → Does (.storeAttrDelete k) s fun t =>
      (t.cmd k).map (fun x => (x.outcome, x.r0)) = some (some stSuccess, 0) ∧
      ∃ p, t.store.pubs = s.store.pubs ++ [p] ∧ p.delete = true ∧ p.inst = c.inst ∧ p.id = c.obj ∧
        p.img.ver = o.cur.ver + 1) ∧
  (∀ k c o s, s.store.mounted = true → Handed k 0x15 c s → attrDescOk c = true → c.aop = 3 →
    objFor s c.inst c.obj c.accNo = some o → orderBlocked s c [c.obj] = false →
    (s.hostPort (s.sq c.inst c.sq).port).up = true → Does (.storeAttrGet k) s fun t =>
      (t.cmd k).map (fun x => (x.outcome, x.r0)) = some (some stSuccess, BitVec.ofNat 64 o.cur.ver) ∧
      t.out.host = s.out.host ++ [.write (s.sq c.inst c.sq).port c.inst c.addr0 (attrRecord s o)] ∧
      t.store.objs = s.store.objs) ∧
  (∀ k c s, s.store.mounted = true → Handed k 0x15 c s → attrDescOk c = false →
    Does (.storeAttrCreate k) s (fun t => (t.cmd k).map (·.outcome) = some (some stParam)) ∧
    Does (.storeAttrDelete k) s (fun t => (t.cmd k).map (·.outcome) = some (some stParam)) ∧
    Does (.storeAttrGet k) s (fun t => (t.cmd k).map (·.outcome) = some (some stParam)) ∧
    Does (.storeAttrResize k) s (fun t => (t.cmd k).map (·.outcome) = some (some stParam)))

/-- NVMe commands, the journal and the pool: an error is tried again (R425), a timeout fails the SSD, a written extent brings its
publication nearer to media, a commit record makes publications on media durable (R422), a journal copy takes its place, and where the other is missing too that one is made next (R403),
mounting reads the pool (R402, R404), and ADMIT_SSD takes a blank SSD into it (R555). -/
def Obligations.StoreMedia : Prop :=
  (∀ id n s, s.store.nvme.find? (fun n => n.id = id) = some n → n.tries < 2 → Does (.nvmeCompletion id false) s fun t =>
    t = { s with store := { s.store with nvme := t.store.nvme } } ∧
    t.store.nvme = s.store.nvme.map fun x => if x.id = id then { x with tries := n.tries + 1, sentAt := s.time } else x) ∧
  (∀ id n s, s.store.nvme.find? (fun n => n.id = id) = some n → n.kind = .rewrite → Does (.nvmeCompletion id true) s fun t =>
    t.store.nvme = s.store.nvme.filter (fun x => x.id ≠ id) ∧ (t.ssd n.port).failCount = 0) ∧
  (∀ id n p s, s.store.nvme.find? (fun n => n.id = id) = some n → n.kind = .extWrite → nvmePub s n = some p → p.hidden = false →
    Does (.nvmeCompletion id true) s fun t => t.store.nvme = s.store.nvme.filter (fun x => x.id ≠ id) ∧
      t.store.pubs = s.store.pubs.map fun x => if x = p then
        { p with todo := p.todo.erase n.ext, places := p.places.filter (fun e => e.1 ≠ n.ext) ++ [(n.ext, n.port)] } else x) ∧
  (∀ id n s, s.store.nvme.find? (fun n => n.id = id) = some n → n.sentAt + 2000000000 ≤ s.time → (s.ssd n.port).failed = false →
    Does (.nvmeTimeout id) s fun t => (t.ssd n.port).failed = true) ∧
  (∀ id n s, s.store.nvme.find? (fun n => n.id = id) = some n → s.time < n.sentAt + 2000000000 →
    exec (.nvmeTimeout id) s = .next s) ∧
  (∀ p o k port s, s.store.mounted = true → s.store.pubs = [p] → p.todo = [k] → inFence s p.inst = false →
    s.store.nvme = [] → pubObj s p = some o → writePort s o (k / 2) (k % 2) = some port → Does .destage s fun t =>
      ∃ n, t.store.nvme = [n] ∧ n.port = port ∧ n.kind = .extWrite ∧ n.ext = k ∧ n.ver = p.img.ver ∧
        n.data = extentBlocks o p.img (k / 2) ∧ n.inst = p.inst ∧ n.obj = p.id ∧ n.sentAt = s.time) ∧
  (∀ p o s, s.store.mounted = true → s.store.jour1.isSome = true → s.store.pubs = [p] → p.todo = [] → p.hidden = false →
    p.slot = none → p.delete = false → s.store.flushes = [] → s.pwr.destaging = false → pubObj s p = some o → o.deleted = false →
    Does .journalCommit s fun t => t.store.pubs = [] ∧ (pubObj t p).map (fun x => (x.dur, x.durVer)) = some (p.img, p.img.ver)) ∧
  (∀ x s, s.store.jourCopy = some x → s.store.jour1 = none → s.store.jour2.isSome = true →
    exec .journalCopyDone s = .next { s with store := { s.store with jour1 := some x, jourCopy := none } }) ∧
  (∀ x y s, s.store.jourCopy = some x → s.store.jour1 = none → s.store.jour2 = none →
    journalTarget x { s with store := { s.store with jour1 := some x, jourCopy := none } } = y →
    exec .journalCopyDone s = .next { s with store := { s.store with jour1 := some x, jourCopy := y } }) ∧
  (∀ x y s, s.store.jourCopy = some x → s.store.jour1 = some y →
    exec .journalCopyDone s = .next { s with store := { s.store with jour2 := some x, jourCopy := none } }) ∧
  (∀ x s, s.store.mounted = false → s.pads.booted = true → x.port < 16 → x.formatOk = true → x.label = true →
    Does (.storeMount [x]) s fun t => t.store.mounted = true ∧ (t.ssd x.port).pool = true ∧ t.log = s.log) ∧
  (∀ x s, s.store.mounted = false → s.pads.booted = true → x.port < 16 → x.label = false →
    Does (.storeMount [x]) s fun t => t.store.mounted = true ∧ (t.ssd x.port).pool = false ∧ t.log.next = s.log.next + 1)

/-- DIGEST and DIGEST_VERIFY: bad fields end the command; a DIGEST of host or device bytes without key asks for a context
(R313, R327); a DIGEST_VERIFY reads its expected digest first. The request that the
dispatcher chooses, of a command or of a frond's runtime, gets a free slot in STATE OPEN (R289, R313, R315). An extent read that passes its check goes on (R408). -/
def Obligations.DigestCommands : Prop :=
  (∀ k c st s, Handed k 0x20 c s → digestDesc c = some st → Does (.digest k) s fun t =>
    (t.cmd k).map (·.outcome) = some (some st)) ∧
  (∀ k c s, Handed k 0x20 c s → digestDesc c = none → c.dSrc ≠ 2 → keyed c.dFunc = false → Does (.digest k) s fun t =>
    t.cmd k = some { c with phase := .running, work := .digest (digestRun c) } ∧
    t.eng.digOpens = s.eng.digOpens.filter (· ≠ k) ++ [k]) ∧
  (∀ k c s, Handed k 0x21 c s → digestDesc c = none → c.dSrc ≠ 2 → keyed c.dFunc = false → (digestRun c).expected = [] →
    (s.hostPort (s.sq c.inst c.sq).port).up = true → Does (.digestVerify k) s fun t =>
      t.cmd k = some { c with phase := .hostRead, work := .digest (digestRun c) } ∧
      t.out.host = s.out.host ++ [.read (s.sq c.inst c.sq).port c.inst c.addr1 ((outLength c.dFunc c.dOut).getD 0)]) ∧
  (∀ u (f : Fin 128) l x k s w, u < 4 →
    chooseCursor 2 (candidates (askContext f.val s) 2 (openEligible (askContext f.val s) u)) (askContext f.val s) = (some (l, x), w) →
    x.kind = .digFrond → slotFor w u (w.disp.lists.get ReadyList.free l).inst = some k →
    Does (.digContextOpen u (some f)) s fun t =>
      t.ctx u k = { Ctx.free with
        st := .opened, inst := (w.disp.lists.get ReadyList.free l).inst, slot := none, frond := some x.pipe } ∧
      t.fronds = s.fronds ∧ ∀ v j, (v, j) ≠ (u, k) → t.ctx v j = s.ctx v j) ∧
  (∀ u l x k r s w, u < 4 → chooseCursor 2 (candidates s 2 (openEligible s u)) s = (some (l, x), w) → x.kind = .digOpen →
    w.disp.lists.get ReadyList.free l = r → slotFor w u r.inst = some k →
    exec (.digContextOpen u none) s = .next (startDigest x.slot u k (openCtx u k r.inst (some x.slot) none
      (let v := turnCursor l x 0 (countWait r.level r.inst x.since w)
       { v with eng := { v.eng with digOpens := v.eng.digOpens.filter (· ≠ x.slot) } })))) ∧
  (∀ id n o k d s, s.store.nvme.find? (fun n => decide (n.id = id) && decide (n.kind = .extRead)) = some n →
    nvmeObj s n = some o → extentPasses o n.ext n.ver d = true → n.heal = false → n.slot = some k →
    exec (.extentReadDone id (some d)) s = .next (readsDone k (fillSnap k n.obj n.ext d
      (dropNvme n (s.setSsd n.port { s.ssd n.port with failCount := 0 }))))) ∧
  (∀ id n s, s.store.nvme.find? (fun n => decide (n.id = id) && decide (n.kind = .extRead)) = some n → n.tries < 2 →
    Does (.extentReadDone id none) s fun t => t.store.nvme =
      s.store.nvme.map fun x => if x.id = n.id then { x with tries := n.tries + 1, sentAt := s.time } else x)

/-- The context port: START makes a context ACTIVE with its settings (R315), again on an ACTIVE one it fails with ORDER (R319); data
words arrive in order, one that the full buffer cannot take is held back and not lost (R315), the last one must agree with the length (R317); a finished
message leaves its output and its outcome, FAILED where the comparators do not read 0b01 (R318, R321, R322); CLOSE
frees the slot (R319), and another instance's CLOSE is logged; the first waiting message of an instance takes a free lane outside STRICT for the words that it has (R316, R324), in STRICT the quantum moves
on (R326), and an alarm of the root of trust is marked in every unit and logged (R323). -/
def Obligations.DigestContexts : Prop :=
  (∀ u k acc (cfg : W64) s, u < 4 → k < 64 → ((s.ctx u k).st = .opened ∨ (s.ctx u k).st = .done) → (s.ctx u k).inst = acc →
    field cfg 1 0 = 1 → badCfg (field cfg 15 8) (field cfg 23 16) (field cfg 31 24) (field cfg 39 32) (field cfg 47 40)
      (leNat ((s.ctx u k).regs.read 0 8 8)) = false → Does (.digStart u k acc cfg) s fun t =>
      (t.ctx u k).st = .active ∧ (t.ctx u k).func = field cfg 15 8 ∧ (t.ctx u k).msg = [] ∧ (t.ctx u k).last = false ∧
      (t.ctx u k).len = leNat ((s.ctx u k).regs.read 0 8 8) ∧ (t.ctx u k).cmplen = field cfg 47 40) ∧
  (∀ u k acc (cfg : W64) s, u < 4 → k < 64 → ((s.ctx u k).st = .active ∨ (s.ctx u k).st = .failed) → (s.ctx u k).inst = acc →
    field cfg 1 0 = 1 → Does (.digStart u k acc cfg) s fun t =>
      (t.ctx u k).st = .failed ∧ (t.ctx u k).detail = dtOrder ∧ (t.ctx u k).msg = [] ∧ (t.ctx u k).key = []) ∧
  (∀ u k acc (w : W64) x s, u < 4 → k < 64 → s.ctx u k = x → x.st = .active → x.inst = acc → x.last = false →
    x.fed.length + 8 ≤ x.len → Does (.digDataWrite u k acc w) s fun t =>
      (t.ctx u k).fed = x.fed ++ leBytes w.toNat 8 ∧
      t.ctx u k = { x with msg := (t.ctx u k).msg, inbuf := (t.ctx u k).inbuf, held := (t.ctx u k).held } ∧
      ∀ j, j ≠ k → t.ctx u j = s.ctx u j) ∧
  (∀ u k acc (w : W64) j x s, u < 4 → k < 64 → s.ctx u k = x → x.st = .active → x.inst = acc → x.last = false →
    x.fed.length + 8 ≤ x.len → x.inbuf.length = 512 → onLane s u k = false → j ≠ k → (s.dgu u).waiting.contains k = true →
    (s.dgu u).waiting.find? (fun j => (s.ctx u j).inst = x.inst) = some j → Does (.digDataWrite u k acc w) s fun t =>
      t.ctx u k = { x with held := x.held ++ leBytes w.toNat 8 } ∧ (t.dgu u).lanes = (s.dgu u).lanes) ∧
  (∀ u k acc (w : W64) n x s, u < 4 → k < 64 → s.ctx u k = x → x.st = .active → x.inst = acc → x.last = false →
    1 ≤ n → n ≤ 8 → x.fed.length + n = x.len → Does (.digLastWrite u k acc w n) s fun t =>
      (t.ctx u k).fed = x.fed ++ leBytes w.toNat n ∧
      t.ctx u k = { x with
        msg := (t.ctx u k).msg, inbuf := (t.ctx u k).inbuf, held := (t.ctx u k).held, last := true } ∧
      ∀ j, j ≠ k → t.ctx u j = s.ctx u j) ∧
  (∀ u k acc (w : W64) n x s, u < 4 → k < 64 → s.ctx u k = x → x.st = .active → x.inst = acc → x.last = false →
    x.slot = none → x.frond = none → 1 ≤ n → n ≤ 8 → x.fed.length + n ≠ x.len →
    Does (.digLastWrite u k acc w n) s fun t => (t.ctx u k).st = .failed ∧ (t.ctx u k).detail = dtLength) ∧
  (∀ u k acc x s, u < 4 → k < 64 → s.ctx u k = x → x.st ≠ .free → x.inst ≠ acc →
    Does (.digClose u k acc) s fun t => t.ctx u k = x ∧ t.log.next = s.log.next + 1) ∧
  (∀ u k acc s, u < 4 → k < 64 → (s.ctx u k).st ≠ .free → (s.ctx u k).inst = acc → Does (.digClose u k acc) s fun t =>
    t.ctx u k = Ctx.free ∧ ∀ j, j ≠ k → t.ctx u j = s.ctx u j) ∧
  (∀ u k g x s, u < 4 → s.ctx u k = x → x.st = .active → x.last = true → x.slot = none → onLane s u k = true →
    (x.cmplen = 0 ∨ upsetCmp g (cmpOf (ctxOutput x) x.expect x.cmplen) = 1) → Does (.digFinish u ⟨k, g⟩) s fun t =>
      (t.ctx u k).st = .done ∧ (t.ctx u k).out = ctxOutput x ∧ (t.ctx u k).msg = [] ∧ (t.ctx u k).key = [] ∧
      (t.ctx u k).cmp = (if x.cmplen = 0 then 0 else 1) ∧ onLane t u k = false ∧
      (t.dgu u).msgs = (s.dgu u).msgs + 1 ∧ (t.dgu u).bytes = (s.dgu u).bytes) ∧
  (∀ u k g x s, u < 4 → s.ctx u k = x → x.st = .active → x.last = true → x.cmplen ≠ 0 → x.slot = none → x.frond = none →
    upsetCmp g (cmpOf (ctxOutput x) x.expect x.cmplen) ≠ 1 → onLane s u k = true → Does (.digFinish u ⟨k, g⟩) s fun t =>
      (t.ctx u k).st = .failed ∧ (t.ctx u k).cmp = upsetCmp g (cmpOf (ctxOutput x) x.expect x.cmplen) ∧
      (t.ctx u k).detail = cmpDetail (t.ctx u k).cmp ∧ (t.ctx u k).out = [] ∧ (t.ctx u k).msg = []) ∧
  (∀ u k l x s, u < 4 → s.ctx u k = x → (s.dgu u).fault = false → (s.dgu u).strict = false → x.st = .active → onLane s u k = false →
    (s.dgu u).waiting.find? (fun j => (s.ctx u j).inst = x.inst) = some k → freeLane s u = some l →
    Does (.dguLaneGrant u k) s fun t => t.ctx u k = { x with msg := x.fed, inbuf := [], held := [] } ∧
      (x.last = true → (t.dgu u).lanes.get none l = some (k, s.time)) ∧ (x.last = false → onLane t u k = false) ∧
      k ∉ (t.dgu u).waiting ∧ (t.dgu u).bytes = (s.dgu u).bytes + BitVec.ofNat 64 (x.inbuf.length + x.held.length)) ∧
  (∀ u s, u < 4 → isStrict s = true → Does (.dguQuantumExpiry u) s fun t =>
    (t.dgu u).quantum = ((s.dgu u).quantum + 1) % 16 ∧ (t.dgu u).strict = true) ∧
  (∀ u s, u < 4 → isStrict s = false → (s.dgu u).strict = false → exec (.dguQuantumExpiry u) s = .next s) ∧
  (∀ n s, n ≤ 3 → Does (.rotAlarm n) s fun t => (∀ u, u < 4 → (t.dgu u).alarm = true) ∧ t.sec.signQ = [] ∧
    t.log.entries.head?.map (fun e => (e.code, e.detail)) = some (0x0405, BitVec.ofNat 32 n))

/-- MATCH_UPDATE and MATCH_SEARCH: a bad descriptor ends the command; else the host is asked for the list; a list in order goes to
the update engine of the table's unit (R247 to R250); a search of one key gives the winning entry's index and RESULT (R234, R252), in a slot of its instance's turn (R262), without which
it waits. -/
def Obligations.MatchCommands : Prop :=
  (∀ k c s, Handed k 0x30 c s → updateDescOk c = true → (s.hostPort (s.sq c.inst c.sq).port).up = true →
    Does (.matchUpdate k) s fun t => t.cmd k = some { c with phase := .hostRead } ∧
      t.out.host = s.out.host ++ [.read (s.sq c.inst c.sq).port c.inst c.addr0 c.len]) ∧
  (∀ k c s, Handed k 0x30 c s → updateDescOk c = false →
    Does (.matchUpdate k) s fun t => (t.cmd k).map (·.outcome) = some (some stParam)) ∧
  (∀ k c u tb d s, s.cmd k = some c → c.opc = 0x30 → c.phase = .hostRead → c.outcome = none →
    (s.hostPort (s.sq c.inst c.sq).port).absent = false → d.length = c.len → matchBlocked c s = false →
    cmuTableFor s c.inst c.obj c.accNo = some (u, tb) → firstBadRecord (2 ^ 32) 0 (recordsOf d) = none →
    firstBadRecord tb.size 0 (recordsOf d) = none → tb.faulted = false → (s.cmu u).fault = false → recordsOf d ≠ [] →
    Does (.hostReadDone k (some d)) s fun t => 
      (t.cmu u).upd = (s.cmu u).upd ++ [⟨some k, none, c.inst, c.obj, (recordsOf d).map readRecord, 0, 0, false⟩] ∧
      t.cmd k = some { c with phase := .running, work := .matching d 0 [] 0 }) ∧
  (∀ k c st s, Handed k 0x31 c s → searchDesc c = some st →
    Does (.matchSearch k) s fun t => (t.cmd k).map (·.outcome) = some (some st)) ∧
  (∀ k c s, Handed k 0x31 c s → searchDesc c = none → (s.hostPort (s.sq c.inst c.sq).port).up = true →
    Does (.matchSearch k) s fun t => t.cmd k = some { c with phase := .hostRead } ∧
      t.out.host = s.out.host ++ [.read (s.sq c.inst c.sq).port c.inst c.addr0 c.len]) ∧
  (∀ k c u tb d s, s.cmd k = some c → c.opc = 0x31 → c.phase = .running → c.outcome = none → c.work = .matching d 0 [] 0 →
    d.length = 32 → cmuTableFor s c.inst c.obj c.accNo = some (u, tb) → tb.faulted = false → (s.cmu u).fault = false →
    (s.cmu u).strict = isStrict s → slotMine s u c.inst = true → Does (.matchSearch k) s fun t =>
      let r := searchTable (s.cmu u) tb (BitVec.ofNat 144 (leAt d 0 18))
      (t.cmd k).map (fun x => (x.outcome, x.r0)) = some (some stSuccess, if r.isSome then 1 else 0) ∧
      (t.cmd k).map (·.work) = some (.matching d 1 (resultRecord r) (if r.isSome then 1 else 0)) ∧
      (t.cmu u).searches = (s.cmu u).searches + 1) ∧
  (∀ k c u tb s, s.cmd k = some c → c.opc = 0x31 → c.phase = .running → c.outcome = none →
    cmuTableFor s c.inst c.obj c.accNo = some (u, tb) → tb.faulted = false → (s.cmu u).fault = false →
    (s.cmu u).strict = isStrict s → slotMine s u c.inst = false → exec (.matchSearch k) s = .next s)

/-- The steps of R243: the shadow is written and the address marked busy, the entry is invalidated, written invalid, then made
valid, each step in a slot of the instance whose turn it is (R262, R263); the last record's end gives the command SUCCESS and the records applied (R246, R249). -/
def Obligations.UpdateSteps : Prop :=
  (∀ u r x tb s, currentRecord s u = some (r, x, tb) → r.step = 0 → (s.cmu u).fault = false → x.write = true →
    Does (.cmuShadowWriteAck u) s fun t =>
      (t.cmu u).shadow.get TEntry.empty (tb.base + x.index) = entryOf x tb ∧ (t.cmu u).busy = some (tb.base + x.index) ∧
      (t.cmu u).ent = (s.cmu u).ent ∧ (t.cmu u).upd = { r with step := 1 } :: (s.cmu u).upd.drop 1 ∧
      t = { s with eng := t.eng }) ∧
  (∀ u r x tb s, currentRecord s u = some (r, x, tb) → r.step = 1 → (s.cmu u).strict = isStrict s → slotMine s u r.inst = true → (s.cmu u).fault = false → x.write = true →
    Does (.cmuUpdateStep u) s fun t =>
      (t.cmu u).ent.get TEntry.empty (tb.base + x.index) =
        { (s.cmu u).ent.get TEntry.empty (tb.base + x.index) with valid := false } ∧
      (t.cmu u).upd = { r with step := 2 } :: (s.cmu u).upd.drop 1 ∧ (t.cmu u).updSteps = (s.cmu u).updSteps + 1) ∧
  (∀ u r x tb s, currentRecord s u = some (r, x, tb) → r.step = 2 → (s.cmu u).strict = isStrict s → slotMine s u r.inst = true → (s.cmu u).fault = false →
    Does (.cmuUpdateStep u) s fun t =>
      (t.cmu u).ent.get TEntry.empty (tb.base + x.index) = { entryOf x tb with valid := false } ∧
      (t.cmu u).upd = { r with step := 3 } :: (s.cmu u).upd.drop 1) ∧
  (∀ u r x tb s, currentRecord s u = some (r, x, tb) → r.step = 3 → (s.cmu u).strict = isStrict s → slotMine s u r.inst = true → (s.cmu u).fault = false → r.stop = false →
    r.applied + 1 < r.recs.length → Does (.cmuUpdateStep u) s fun t =>
      (t.cmu u).ent.get TEntry.empty (tb.base + x.index) =
        { (s.cmu u).ent.get TEntry.empty (tb.base + x.index) with valid := true } ∧
      (t.cmu u).busy = none ∧
      (t.cmu u).upd.Perm ({ r with applied := r.applied + 1, step := 0 } :: (s.cmu u).upd.drop 1)) ∧
  (∀ u r x tb k c s, currentRecord s u = some (r, x, tb) → r.step = 3 → (s.cmu u).strict = isStrict s → slotMine s u r.inst = true → (s.cmu u).fault = false → r.stop = false →
    r.applied + 1 = r.recs.length → r.slot = some k → s.cmd k = some c → c.outcome = none →
    Does (.cmuUpdateStep u) s fun t => (t.cmu u).upd.Perm ((s.cmu u).upd.drop 1) ∧ (t.cmu u).busy = none ∧
      (t.cmd k).map (fun y => (y.outcome, y.r0)) = some (some stSuccess, BitVec.ofNat 64 r.recs.length)) ∧
  (∀ u r x tb s, currentRecord s u = some (r, x, tb) → (s.cmu u).strict = isStrict s → slotMine s u r.inst = false → exec (.cmuUpdateStep u) s = .next s)

/-- A burst that holds its grant, when the unit is its instance's, gets its results in key order, kept for the item that sent it (R126,
R236, R262); the comparer of either array passes equal contents, repairs an upset from the shadow and logs it, marks what it cannot
repair, and skips a busy entry (R254 to R256); a reading of the hottest sensor sets the throttle step outside STRICT and SAG_WARN, and
in STRICT (R258, R260), the reading being that of the last sample (log 179, the model's reading of R522); RATIO_LOG2 takes 6 to 16 outside STRICT and no other value (R265).
CMU_TABLE_LOAD: CREATE makes a table of its SIZE, REFILL hands a checked list to the update engine, DELETE makes the ID unusable
at once, and a deleted table that nothing names any more gives its entries back (R251, R469). -/
def Obligations.MatchUnitsAndTables : Prop :=
  (∀ u k n op i keys c q o rs kd m s, s.cmd k = some c → c.work = .query q → planOp q.plan n op = some o → u < 4 →
    keys.length ≤ 4096 → c.phase = .running → (s.cmu u).fault = false → (s.cmu u).sagHold = false → (s.cmu u).strict = isStrict s →
    s.pwr.grants.any (fun g => g.holder = .cmu u k) = true →
    (if o.ternary then slotMine s u c.inst && (slotLimit s u c.inst).isNone else laneMine s u c.inst && (laneLimit s u c.inst).isNone) = true →
    burstResults s u c q o keys = some (rs, kd, m) →
    Does (.cmuSearchBurst u k n op ⟨i, keys⟩) s fun t => t.out.cmu = rs ∧ (t.cmu u).ent = (s.cmu u).ent ∧
      ((t.cmd k).bind queryRun).map (·.bursts) = some (q.bursts ++ (keys.zip rs).map fun x => burstRes n op i (x.1, some x.2))) ∧
  (∀ u s, u < 4 → (s.cmu u).busy ≠ some (s.cmu u).ptrT →
    (s.cmu u).ent.get TEntry.empty (s.cmu u).ptrT = (s.cmu u).shadow.get TEntry.empty (s.cmu u).ptrT →
    Does (.cmuComparerCheck u false false true) s fun t =>
      (t.cmu u).ptrT = ((s.cmu u).ptrT + 1) % 65536 ∧ (t.cmu u).cmpChecks = (s.cmu u).cmpChecks + 1 ∧
      (t.cmu u).ent = (s.cmu u).ent ∧ t = { s with eng := t.eng }) ∧
  (∀ u up s, u < 4 → (s.cmu u).busy ≠ some (s.cmu u).ptrT →
    (up = true ∨ (s.cmu u).ent.get TEntry.empty (s.cmu u).ptrT ≠ (s.cmu u).shadow.get TEntry.empty (s.cmu u).ptrT) →
    Does (.cmuComparerCheck u false up true) s fun t =>
      (t.cmu u).ent.get TEntry.empty (s.cmu u).ptrT = (s.cmu u).shadow.get TEntry.empty (s.cmu u).ptrT ∧
      (t.cmu u).repairs = (s.cmu u).repairs + 1 ∧ t.log.next = s.log.next + 1 ∧ t.ring = s.ring) ∧
  (∀ u up s, u < 4 → (s.cmu u).busy ≠ some (s.cmu u).ptrT → Does (.cmuComparerCheck u false up false) s fun t =>
    ((t.cmu u).ent.get TEntry.empty (s.cmu u).ptrT).valid = false ∧ (t.cmu u).shadowErr = true ∧
    ∀ tb ∈ (t.cmu u).tables, tb.base ≤ (s.cmu u).ptrT → (s.cmu u).ptrT < tb.base + tb.size → tb.faulted = true) ∧
  (∀ u up ok s, u < 4 → (s.cmu u).busy = some (s.cmu u).ptrT → Does (.cmuComparerCheck u false up ok) s fun t =>
    (t.cmu u).ptrT = ((s.cmu u).ptrT + 1) % 65536 ∧ (t.cmu u).cmpChecks = (s.cmu u).cmpChecks ∧
    (t.cmu u).ent = (s.cmu u).ent ∧ t = { s with eng := t.eng }) ∧
  (∀ u s, u < 4 → (s.cmu u).states.get 0 (s.cmu u).ptrA = (s.cmu u).stShadow.get 0 (s.cmu u).ptrA →
    Does (.cmuComparerCheck u true false true) s fun t =>
      (t.cmu u).ptrA = ((s.cmu u).ptrA + 1) % 262144 ∧ (t.cmu u).cmpChecks = (s.cmu u).cmpChecks + 1 ∧
      (t.cmu u).states = (s.cmu u).states ∧ t = { s with eng := t.eng }) ∧
  (∀ u up s, u < 4 → (up = true ∨ (s.cmu u).states.get 0 (s.cmu u).ptrA ≠ (s.cmu u).stShadow.get 0 (s.cmu u).ptrA) →
    Does (.cmuComparerCheck u true up true) s fun t =>
      (t.cmu u).states.get 0 (s.cmu u).ptrA = (s.cmu u).stShadow.get 0 (s.cmu u).ptrA ∧
      (t.cmu u).repairs = (s.cmu u).repairs + 1 ∧ t.log.next = s.log.next + 1 ∧ t.ring = s.ring) ∧
  (∀ u up m s, u < 4 → (s.cmu u).images.find? (fun m => decide (m.base ≤ (s.cmu u).ptrA) && decide ((s.cmu u).ptrA < m.base + m.nstate)) = some m →
    Does (.cmuComparerCheck u true up false) s fun t =>
      (t.cmu u).states.get 0 (s.cmu u).ptrA = deadState ((s.cmu u).ptrA - m.base) ∧ (t.cmu u).shadowErr = true ∧
      ∀ x ∈ (t.cmu u).images, x.inst = m.inst → x.planId = m.planId → x.uid = m.uid → x.bound = m.bound → x.idx = m.idx → x.faulted = true) ∧
  (∀ u temp s, u < 4 → cmuReading s u = some temp → (s.cmu u).strict = false → s.pwr.sag = false → Does (.cmuThrottleStepChange u temp) s fun t =>
    (100 < temp → (t.cmu u).step = 3) ∧ (95 < temp → temp ≤ 100 → (t.cmu u).step = if 3 ≤ (s.cmu u).step ∧ 98 < temp then 3 else 2) ∧
    (93 < temp → temp ≤ 95 → (t.cmu u).step = if 2 ≤ (s.cmu u).step then 2 else 1) ∧ (85 < temp → temp ≤ 93 → (t.cmu u).step = 1) ∧
    (83 < temp → temp ≤ 85 → (t.cmu u).step = if 1 ≤ (s.cmu u).step then 1 else 0) ∧ (temp ≤ 83 → (t.cmu u).step = 0) ∧
    t = { s with eng := t.eng }) ∧
  (∀ u temp s, u < 4 → cmuReading s u = some temp → (s.cmu u).strict = true → Does (.cmuThrottleStepChange u temp) s fun t =>
    (t.cmu u).step = if 100 < temp then 3 else 2) ∧
  (∀ u temp s, cmuReading s u ≠ some temp → exec (.cmuThrottleStepChange u temp) s = .next s) ∧
  (∀ (v : W32) s, 6 ≤ v.toNat % 32 → v.toNat % 32 ≤ 16 → isStrict s = false →
    exec (.cmuCmpcfgWrite v) s = .next { s with eng := { s.eng with ratio := BitVec.ofNat 5 (v.toNat % 32) } }) ∧
  (∀ (v : W32) s, (isStrict s = true ∨ v.toNat % 32 < 6 ∨ 16 < v.toNat % 32) → exec (.cmuCmpcfgWrite v) s = .next s) ∧
  (∀ fn host b s, MbxRuns fn 0x32 tableRule s → (s.getMbx fn).arg 8 1 = 1 → tableBadField (s.getMbx fn) true = none →
    (s.getMbx fn).arg 0x20 4 = 0 → cmuTableNow s fn ((s.getMbx fn).arg 0x0C 4) = none →
    (s.cmu ((s.getMbx fn).arg 9 1)).tables.length < 4096 → (s.cmu ((s.getMbx fn).arg 9 1)).fault = false →
    entUsed (s.cmu ((s.getMbx fn).arg 9 1)) fn + (s.getMbx fn).arg 0x10 4 ≤ (s.inst fn).res.cmuEnt.getD ((s.getMbx fn).arg 9 1) 0 →
    firstBlock 65536 ((s.cmu ((s.getMbx fn).arg 9 1)).tables.map fun t => (t.base, t.size)) ((s.getMbx fn).arg 0x10 4) = some b →
    Does (.cmuTableCreate fn host) s fun t => MbxEnded fn 0 t ∧
      ∃ x, (t.cmu ((s.getMbx fn).arg 9 1)).tables = (s.cmu ((s.getMbx fn).arg 9 1)).tables ++ [x] ∧ x.inst = fn ∧
        x.id = (s.getMbx fn).arg 0x0C 4 ∧ x.base = b ∧ x.size = (s.getMbx fn).arg 0x10 4 ∧ x.faulted = false ∧ x.gone = false) ∧
  (∀ fn host u tb rs s, MbxRuns fn 0x32 tableRule s → (s.getMbx fn).arg 8 1 = 2 → tableBadField (s.getMbx fn) false = none →
    cmuTableNow s fn ((s.getMbx fn).arg 0x0C 4) = some (u, tb) →
    tableList (s.getMbx fn) tb.size (hostGave s (s.getMbx fn).port host) = .ok rs → rs ≠ [] → (s.cmu u).fault = false →
    mbxReads s (s.getMbx fn) = true →
    Does (.cmuTableRefill fn host) s fun t => (t.getMbx fn).st = .busy ∧ (t.getMbx fn).started = true ∧
      (t.cmu u).upd = (s.cmu u).upd ++ [⟨none, some fn, fn, (s.getMbx fn).arg 0x0C 4, rs, 0, 0, false⟩]) ∧
  (∀ fn u tb s, MbxRuns fn 0x32 tableRule s → (s.getMbx fn).arg 8 1 = 3 →
    cmuTableNow s fn ((s.getMbx fn).arg 0x0C 4) = some (u, tb) → Does (.cmuTableDelete fn) s fun t => MbxEnded fn 0 t ∧
      (t.cmu u).tables = (s.cmu u).tables.map fun x =>
        if x.tsel = tb.tsel then { x with gone := true, goneAt := s.ring.nextAcc } else x) ∧
  (∀ fn s, MbxRuns fn 0x32 tableRule s → (s.getMbx fn).arg 8 1 = 3 → cmuTableNow s fn ((s.getMbx fn).arg 0x0C 4) = none →
    Does (.cmuTableDelete fn) s fun t => MbxEnded fn meNotFound t ∧ t.eng = s.eng) ∧
  (∀ i id u tb s, ((List.range 4).findSome? fun u => ((s.cmu u).tables.find? fun t =>
      decide (t.inst = i) && decide (t.id = id) && t.gone).map fun t => (u, t)) = some (u, tb) → tableInUse s tb = false →
    Does (.cmuTableReclaim i id) s fun t => (t.cmu u).tables = (s.cmu u).tables.filter (fun x => x.tsel ≠ tb.tsel) ∧
      (t.cmu u).ent = clearValid (s.cmu u).ent tb.base tb.size ∧ t = { s with eng := t.eng, disp := t.disp })

/-- Sort and merge units and faults: a merge job that ends leaves its unit, and what it has merged goes to its pipeline (R275, R276),
a job alone on its unit ends there, in STRICT the job of the quantum's instance does, and a unit without jobs goes on unchanged; in STRICT
the next quantum begins, and outside STRICT nothing changes at its end (R280); a unit that faults is out of service, keeps no work and is
logged (R265, R282, R323), and a lost fabric link is recorded and logged (R20). -/
def Obligations.MergeUnitsAndFaults : Prop :=
  (∀ u j c q p rs rows v w s, u < 8 → (s.smu u).fault = false → (s.smu u).paused = false → endingJob u s = some (j, v) →
    liveQuery (endHolder (.smu u j.slot) (nextInTree u j v)) j.slot = some (c, q) →
    mergeJob u j q (endHolder (.smu u j.slot) (nextInTree u j v)) = (.ok (p, rs, rows), w) →
    exec (.smuJobEnd u) s = .next (jobDone u j q p rs rows (countSmu u j.inst (j.bytes - j.merged) 1 w))) ∧
  (∀ u j s, u < 8 → (s.smu u).fault = false → (s.smu u).paused = false → (s.smu u).strict = false → (s.smu u).jobs = [j] →
    jobGranted u j s = true → s.cmd j.slot = none → Does (.smuJobEnd u) s fun t => (t.smu u).jobs = []) ∧
  (∀ u j s, (s.smu u).strict = false → (s.smu u).jobs = [j] → jobGranted u j s = true →
    (endingJob u s).map (fun r => (r.1.slot, r.1.pipe, r.1.inst, (r.2.smu u).jobs)) = some (j.slot, j.pipe, j.inst, [])) ∧
  (∀ u j s, (s.smu u).strict = true → treeJob s u = some j →
    (endingJob u s).map (fun r => (r.1, (r.2.smu u).jobs)) = some (j, (s.smu u).jobs.erase j)) ∧
  (∀ u s, u < 8 → (s.smu u).jobs = [] → exec (.smuJobEnd u) s = .next s) ∧
  (∀ u s, u < 8 → (s.smu u).strict = isStrict s → isStrict s = true → Does (.smuQuantumExpiry u) s fun t =>
    (t.smu u).quantum = ((s.smu u).quantum + 1) % smuFrame s ∧ (t.smu u).jobs = (s.smu u).jobs ∧ t = { s with eng := t.eng }) ∧
  (∀ u s, u < 8 → (s.smu u).strict = false → isStrict s = false → exec (.smuQuantumExpiry u) s = .next s) ∧
  (∀ u s, u < 4 → (s.cmu u).fault = false → Does (.engineUnitFault 0 u) s fun t =>
    (t.cmu u).fault = true ∧ (t.cmu u).upd = [] ∧ (t.cmu u).busy = none) ∧
  (∀ u s, u < 8 → (s.smu u).fault = false → Does (.engineUnitFault 1 u) s fun t =>
    (t.smu u).fault = true ∧ (t.smu u).jobs = []) ∧
  (∀ u s, u < 4 → (s.dgu u).fault = false → Does (.engineUnitFault 2 u) s fun t =>
    (t.dgu u).fault = true ∧ (t.dgu u).lanes = []) ∧
  (∀ n s, n < 14 → s.eng.fabricDown.get false n = false → Does (.fabricLink n) s fun t =>
    t.eng.fabricDown.get false n = true ∧
    t.log.entries.head?.map (fun e => (e.code, e.detail)) = some (0x0202, BitVec.ofNat 32 n))

/-- A line whose codewords carry the requester's colour is read as it stands; another colour gives DEV_COLOUR and a fault record,
poison gives DEV_POISON (R335, R342, R348, R355). A write inside one codeword stores its bytes and no others (R336), and
makes it poisoned when the writer marks it so (R348); a request to a channel that does not serve waits (R352, R353).
Frames and pages: a map change writes the leaf entry, where there is a leaf table for it (R337, R340); a scrub burst takes up to 32
released frames, and its pacing timer wakes a module that is not in PS0 (R345, R433); a scrubbed frame
is FREE, holds zeros and its former owner's colour (R345); a recoloured one is OWNED, holds zeros and the new colour, and is mapped
(R346); a state-region page that an item touches first is backed, or the item fails (R221). -/
def Obligations.DeviceMemory : Prop :=
  (∀ i a s, inMemory a = true → chanServes s a = true → isSysFrame s (frameAt (a / 64 * 64)) = false →
    poisonedAt s (a / 64 * 64 / 32) = false → poisonedAt s (a / 64 * 64 / 32 + 1) = false →
    colourOf s (a / 64 * 64 / 32) = i → colourOf s (a / 64 * 64 / 32 + 1) = i → Does (.memReadRequest (some i) a 0 0) s fun t =>
      t.out.mem = .data (readBytes s (a / 64 * 64) 64) ∧ t.mem = s.mem ∧ t.log = s.log) ∧
  (∀ i a s, inMemory a = true → chanServes s a = true → isSysFrame s (frameAt (a / 64 * 64)) = false →
    poisonedAt s (a / 64 * 64 / 32) = false → poisonedAt s (a / 64 * 64 / 32 + 1) = false →
    colourOf s (a / 64 * 64 / 32) ≠ i → Does (.memReadRequest (some i) a 0 0) s fun t =>
      t.out.mem = .colour ∧ t.mem.colourFaults = s.mem.colourFaults + 1 ∧ t.mem.bytes = s.mem.bytes ∧
      t.mem.instFaults.get 0 i = s.mem.instFaults.get 0 i + 1 ∧ t.log.next = s.log.next + 2) ∧
  (∀ i a s, inMemory a = true → chanServes s a = true → isSysFrame s (frameAt (a / 64 * 64)) = false →
    poisonedAt s (a / 64 * 64 / 32) = true → Does (.memReadRequest (some i) a 0 0) s fun t =>
      t.out.mem = .poison ∧ t.mem.bytes = s.mem.bytes ∧ t.mem.ueSeen = true) ∧
  (∀ i a (d : List Byte) s, inMemory a = true → chanServes s a = true → d ≠ [] → d.length < 32 → a % 32 + d.length ≤ 32 →
    isSysFrame s (frameAt a) = false → (s.frame (frameAt a)).tbl.toNat = i → (s.chan (chanAt (32 * (a / 32)))).st ≠ .failed →
    poisonedAt s (a / 32) = false → colourOf s (a / 32) = i → Does (.memWriteRequest (some i) a ⟨d, false⟩) s fun t =>
      t.out.mem = .ok ∧ readBytes t a d.length = d ∧
      (∀ b, b < a ∨ a + d.length ≤ b → Tbl.get 0 t.mem.bytes b = Tbl.get 0 s.mem.bytes b) ∧
      t = { s with mem := { s.mem with bytes := t.mem.bytes }, out := t.out }) ∧
  (∀ i a (d : List Byte) s, inMemory a = true → chanServes s a = true → d ≠ [] → a % 64 + d.length ≤ 64 →
    isSysFrame s (frameAt a) = false → (s.frame (frameAt a)).tbl.toNat ≠ i → Does (.memWriteRequest (some i) a ⟨d, false⟩) s fun t =>
      t.out.mem = .colour ∧ t.mem.bytes = s.mem.bytes ∧ t.mem.colourFaults = s.mem.colourFaults + 1) ∧
  (∀ i a d s, inMemory a = true → chanServes s a = true → d ≠ [] → d.length < 32 → a % 32 + d.length ≤ 32 →
    isSysFrame s (frameAt a) = false → (s.frame (frameAt a)).tbl.toNat = i → (s.chan (chanAt (32 * (a / 32)))).st ≠ .failed →
    poisonedAt s (a / 32) = false → colourOf s (a / 32) = i → Does (.memWriteRequest (some i) a ⟨d, true⟩) s fun t =>
      t.out.mem = .ok ∧ poisonedAt t (a / 32) = true) ∧
  (∀ i a s, inMemory a = true → chanServes s a = false → exec (.memReadRequest (some i) a 0 0) s =
    .next { s with mem := { s.mem with waits := s.mem.waits ++ [⟨some i, a, 0, 0, none⟩] } }) ∧
  (∀ a s, inMemory a = true → s.mem.patrolStop = false → chanServes s a = true → (s.frame (frameAt a)).st = .owned →
    poisonedAt s (a / 64 * 64 / 32) = false → poisonedAt s (a / 64 * 64 / 32 + 1) = false →
    exec (.patrolRead a 0 0) s = .next s) ∧
  (∀ i p (e : W32) s, ((leafTable s i p).isSome || (freeLeaf s).isSome) = true → Does (.leafEntryChange i p e) s fun t =>
    leafEntry t i p = some (e &&& 0xCFFFFFFF)) ∧
  (∀ s, s.mem.leaving = [] → s.mem.releaseQ ≠ [] → s.mem.burst = [] → s.mem.scrubPaused = false → s.mem.patrolStop = false → awake s = true →
    s.pwr.grants = [] → s.pwr.revoked = [] → s.pwr.waits = [] → s.pwr.sag = false → s.pwr.reduced = false → isStrict s = false →
    s.pwr.baseline + 12 ≤ s.pwr.cap → Does .releaseScrubBurst s fun t =>
      t.mem.burst = s.mem.releaseQ.take 32 ∧ t.mem.releaseQ = s.mem.releaseQ.drop 32 ∧
      t.pwr.grants.map (fun g => (g.units, g.us, g.discretionary)) = [(12, 336, true)]) ∧
  (∀ s, s.mem.leaving = [] → s.mem.releaseQ ≠ [] → s.mem.burst = [] → s.mem.scrubPaused = false → s.mem.patrolStop = false →
    s.pwr.grants = [] → s.pwr.revoked = [] → s.pwr.waits = [] → s.pwr.ps ≠ 0 → s.pwr.entering = false →
    Does .releaseScrubBurst s fun t => t.pwr.exiting = true ∧ t.mem = s.mem) ∧
  (∀ f s, (s.frame f).st = .released → (s.frame f).scrubbing = true → isSysFrame s f = false → s.mem.allocs = [] →
    Does (.scrubFrameDone f) s fun t => (t.frame f).st = .free ∧ (t.frame f).lines = (s.frame f).tbl ∧
      (∀ a, frameAt a = f → Tbl.get 0 t.mem.bytes a = 0) ∧ t.mem.scrubBytes = s.mem.scrubBytes + 2097152) ∧
  (∀ f w s, s.mem.allocs.find? (fun w => w.frame = some f) = some w → w.mbx = none → w.frond = none → isSysFrame s f = false →
    ((leafTable s w.inst w.page).isSome || (freeLeaf s).isSome) = true →
    Does (.recolourDone f) s fun t => (t.frame f).st = .owned ∧ (t.frame f).lines = BitVec.ofNat 8 w.inst ∧
      leafEntry t w.inst w.page = some (leafOf w.inst f w.wr) ∧ (∀ a, frameAt a = f → Tbl.get 0 t.mem.bytes a = 0) ∧
      t.mem.allocs = s.mem.allocs.erase w) ∧
  (∀ (f : Fin 128) it p t s, (s.frond f.val).item = some it → mapFaultPage f.val s = some p →
    allocPage ⟨(s.frond f.val).inst.toNat, p, none, some f.val, none, f.val / 32, true⟩ s = (.done, t) →
    exec (.statePageBacking f) s = .next (allocDone ⟨(s.frond f.val).inst.toNat, p, none, some f.val, none, f.val / 32, true⟩ t)) ∧
  (∀ (f : Fin 128) it p t s, (s.frond f.val).item = some it → mapFaultPage f.val s = some p →
    allocPage ⟨(s.frond f.val).inst.toNat, p, none, some f.val, none, f.val / 32, true⟩ s = (.exhausted, t) →
    exec (.statePageBacking f) s = .next (failItem f.val stExhausted t))

/-- Channels: a retrain is due 100 ms after the last and never within 10 ms of it, and gets a slot of its own when it falls due again
(log 168); a done one counts, the third failure in a row
makes the channel FAILED; a refresh counts and takes a retrain that is due (R352, R353). -/
def Obligations.Channels : Prop :=
  (∀ ch s, (s.chan ch).st = .active → (s.chan ch).retrainDue = false → (s.chan ch).lastRetrain + 100000000 ≤ s.time →
    exec (.retrainDue ch) s = .next (s.setChan ch { s.chan ch with retrainDue := true })) ∧
  (∀ ch s, (s.chan ch).st = .active → (s.chan ch).retrainDue = false → s.time < (s.chan ch).lastRetrain + 10000000 →
    exec (.retrainDue ch) s = .next s) ∧
  (∀ ch s, (s.chan ch).st = .active → (s.chan ch).retrainDue = true →
    exec (.retrainDue ch) s = .next (s.setChan ch { s.chan ch with st := .retraining })) ∧
  (∀ ch s, (s.chan ch).st = .retraining → s.mem.waits.all (fun x => decide (chanAt x.addr ≠ ch)) = true →
    Does (.retrainDone ch true) s fun t => (t.chan ch).st = .active ∧ (t.chan ch).retrain = (s.chan ch).retrain + 1 ∧
      (t.chan ch).fails = 0 ∧ (t.chan ch).retrainDue = false ∧ (t.chan ch).lastRetrain = s.time ∧ t = { s with mem := t.mem }) ∧
  (∀ ch s, (s.chan ch).st = .retraining → s.mem.waits.all (fun x => decide (chanAt x.addr ≠ ch)) = true → 2 ≤ (s.chan ch).fails →
    Does (.retrainDone ch false) s fun t => (t.chan ch).st = .failed ∧ t.log.next = s.log.next + 2) ∧
  (∀ ch s, (s.chan ch).st = .retraining → s.mem.waits.all (fun x => decide (chanAt x.addr ≠ ch)) = true → (s.chan ch).fails < 2 →
    Does (.retrainDone ch false) s fun t => (t.chan ch).st = .active ∧ (t.chan ch).fails = (s.chan ch).fails + 1 ∧
      (t.chan ch).retrainDue = (s.chan ch).retrainDue ∧ t.log.next = s.log.next + 1) ∧
  (∀ ch s, (s.chan ch).st ≠ .selfRefresh → (s.chan ch).st ≠ .failed →
    exec (.refreshDue ch) s = .next (s.setChan ch { s.chan ch with
      refreshes := (s.chan ch).refreshes + 1, st := if (s.chan ch).retrainDue then .retraining else (s.chan ch).st }))

/-- Instance commands of the mailbox: INFO answers, INST_CREATE makes an ACTIVE instance with the record's resources, INST_RESIZE begins,
its drains end it or time out (R438, R441, R444, R446, R469, R470). -/
def Obligations.InstanceCommands : Prop :=
  (∀ fn s, MbxRuns fn 0x01 ⟨false, true, []⟩ s → (s.getMbx fn).target = 0xFFFFFFFF →
    exec (.info fn) s = .next (endMbx fn 0 0 0 (infoModule s) s)) ∧
  (∀ fn s, MbxRuns fn 0x01 ⟨false, true, []⟩ s → (s.getMbx fn).target ≤ 255 →
    exec (.info fn) s = .next (endMbx fn 0 0 0 (infoInst s (s.getMbx fn).target) s)) ∧
  (∀ i b s, MbxRuns 0 0x10 ⟨true, true, [(8, 8)]⟩ s → (s.getMbx 0).target = i → 1 ≤ i → i ≤ 255 → (s.getMbx 0).arg 8 8 % 64 = 0 →
    (s.inst i).st = .absent → isStrict s = false → (s.hostPort (s.getMbx 0).port).absent = false → mbxReads s (s.getMbx 0) = true → b.length = 128 →
    recBadField i b (fun _ => true) = none → (readRec b).dataPages = 0 → overTotal s i (readRec b) = false →
    (∀ w ∈ s.mem.allocs, w.mbx ≠ some 0) → Does (.instCreate 0 (some b)) s fun t =>
      MbxEnded 0 0 t ∧ (t.inst i).st = .active ∧ (t.inst i).res = readRec b ∧ t.log.next = s.log.next + 1 ∧
      ∀ j, j ≠ i → t.inst j = s.inst j) ∧
  (∀ i host s, MbxRuns 0 0x10 ⟨true, true, [(8, 8)]⟩ s → (s.getMbx 0).target = i → 1 ≤ i → i ≤ 255 → (s.getMbx 0).arg 8 8 % 64 = 0 →
    (s.inst i).st ≠ .absent → Does (.instCreate 0 host) s fun t => MbxEnded 0 meState t ∧ t.insts = s.insts) ∧
  (∀ i b u s, MbxRuns 0 0x11 ⟨true, true, [(8, 8), (16, 2)]⟩ s → (s.getMbx 0).target = i → i ≤ 255 → (s.getMbx 0).arg 8 8 % 64 = 0 →
    (s.getMbx 0).arg 0x10 2 ≠ 0 → (s.inst i).st = .active → isStrict s = false → (s.hostPort (s.getMbx 0).port).absent = false →
    mbxReads s (s.getMbx 0) = true → mbxRead 0 (s.getMbx 0) [((s.getMbx 0).arg 8 8, 128)] id s = u → b.length = 128 → leAt b 0 8 < 65536 → recBadField i b (fun j => bit (leAt b 0 8) j) = none →
    (mergeRec (s.inst i).res (readRec b) fun j => bit (leAt b 0 8) j).dataPages ≤
      (mergeRec (s.inst i).res (readRec b) fun j => bit (leAt b 0 8) j).pages →
    resizeInUse s i (mergeRec (s.inst i).res (readRec b) fun j => bit (leAt b 0 8) j) = false →
    overTotal s i (mergeRec (s.inst i).res (readRec b) fun j => bit (leAt b 0 8) j) = false →
    exec (.instResize 0 (some b)) s = .next (resizeInst 0 i (leAt b 0 8) ((s.getMbx 0).arg 0x10 2) (s.inst i).res
      (mergeRec (s.inst i).res (readRec b) fun j => bit (leAt b 0 8) j) u)) ∧
  (∀ i z s, (s.inst i).resize = some z → z.waits = true → firstUndrained (trimInst i s) i = none →
    (∀ w ∈ s.mem.allocs, w.mbx ≠ some z.mbx) → z.mbx < 1000 → (s.getMbx z.mbx).mop = 0x11 → (s.getMbx z.mbx).st = .busy → (s.getMbx z.mbx).started = true → (s.getMbx z.mbx).target = i →
    (s.inst i).st = .resizing → s.mp.arbitrating = false → Does (.resizeDrainDone i) s fun t =>
      MbxEnded z.mbx 0 t ∧ (t.inst i).st = .active ∧ (t.inst i).resize = none ∧ (t.inst i).res = (s.inst i).res) ∧
  (∀ i z j s, (s.inst i).resize = some z → z.waits = true → firstUndrained (trimInst i s) i = some j → z.expiry ≤ s.time →
    (s.inst i).st = .resizing → s.mp.arbitrating = false → Does (.resizeDrainTimeout i) s fun t =>
      MbxEnded z.mbx meDrain t ∧ (t.inst i).st = .active ∧ (t.inst i).resize = none ∧ (t.inst i).res = (s.inst i).res) ∧
  (∀ i z j s, (s.inst i).resize = some z → firstUndrained (trimInst i s) i = some j → s.time < z.expiry →
    exec (.resizeDrainTimeout i) s = .next (trimInst i s))

/-- A reset of an instance fences it: its commands whose step 3 has not begun end ABORTED_RESET, and once every command has left the
instance is ACTIVE again; INST_DESTROY, a function-level reset and VF Enable follow the same sequence (R393, R397, R454 to R458). -/
def Obligations.InstanceResets : Prop :=
  (∀ fn i s, MbxRuns fn 0x12 ⟨false, true, []⟩ s → (s.getMbx fn).target = i → i ≤ 255 → (s.inst i).st = .active →
    (s.disp.fences.any fun f => f.inst = i) = false → Does (.instReset fn) s fun t =>
      (t.inst i).st = .resetting ∧ t.disp.fences = s.disp.fences ++ [⟨i, false, false, [fn], false⟩] ∧
      ∀ k c, t.cmd k = some c → c.inst = i → c.dupOf = none → c.step3 = false → (c.accepted = true ∨ nSlots ≤ k) →
        c.outcome = some stReset) ∧
  (∀ i s, MbxRuns 0 0x13 ⟨true, true, []⟩ s → (s.getMbx 0).target = i → i ≠ 0 → i ≤ 255 → (s.inst i).st ≠ .absent →
    (s.disp.fences.any fun f => f.inst = i) = false → Does (.instDestroy 0) s fun t =>
      (t.inst i).st = .destroying ∧ t.disp.fences = s.disp.fences ++ [⟨i, true, true, [0], false⟩]) ∧
  (∀ i f s, s.disp.fences.find? (fun f => f.inst = i) = some f → f.complete = false → fenceBusy s i = false →
    Does (.instanceFenceComplete i) s fun t =>
      t.disp.fences = s.disp.fences.map fun g => if g.inst = i then { g with complete := true } else g) ∧
  (∀ i f s, s.disp.fences.find? (fun f => f.inst = i) = some f → f.complete = true → f.flr = false → f.destroying = false →
    slotsHeld s i = 0 → quiesced s = false → s.pads.booted = true → s.pads.inReset = false → s.mp.arbitrating = false →
    (s.inst i).resize = none → Does (.instanceResetFinish i) s fun t =>
      (t.inst i).st = .active ∧ t.disp.fences = s.disp.fences.filter fun g => g.inst ≠ i) ∧
  (∀ i s, i ≤ 255 → i ≠ 0 → (s.inst i).st = .active → (s.disp.fences.any fun f => f.inst = i) = false →
    Does (.functionLevelReset i) s fun t =>
      (t.inst i).st = .resetting ∧ t.disp.fences = s.disp.fences ++ [⟨i, true, false, [], false⟩]) ∧
  (∀ s, (s.inst 0).st = .active → Does (.functionLevelReset 0) s fun t =>
    (t.inst 0).st = .resetting ∧ t.lnk.vfEnable = false ∧ t.lnk.numVfs = 0) ∧
  (∀ s, (s.inst 0).st = .active → Does .vfEnableClear s fun t =>
    (t.inst 0).st = .resetting ∧ t.lnk.vfEnable = false ∧ t.lnk.numVfs = 0 ∧
    ∀ i, i ≠ 0 → (s.inst i).st ≠ .absent → (t.inst i).st = .destroying)

/-- Queues and plans as mailbox commands make and remove them: QUEUE_CREATE, the drain of QUEUE_RESET and QUEUE_DELETE (R359, R398,
R399), PLAN_LOAD's order of checks (R48, R468), PLAN_UNLOAD (R52) and the check of a plan by new firmware, which unloads one that fails (R306, R481 step 7). -/
def Obligations.QueuesAndPlans : Prop :=
  (∀ fn s, MbxRuns fn 0x20 queueRule s → queueBadField (s.getMbx fn) (s.inst fn).res = none → (s.getMbx fn).arg 8 1 = 1 →
    (s.cq fn ((s.getMbx fn).arg 0x0A 2)).st = .disabled → Does (.queueCreate fn) s fun t => MbxEnded fn 0 t ∧
      t.cq fn ((s.getMbx fn).arg 0x0A 2) = cqOf (s.getMbx fn) ∧ t.ring.sqs = s.ring.sqs) ∧
  (∀ fn s, MbxRuns fn 0x20 queueRule s → queueBadField (s.getMbx fn) (s.inst fn).res = none → (s.getMbx fn).arg 8 1 = 0 →
    (s.sq fn ((s.getMbx fn).arg 0x0A 2)).st = .disabled → (s.cq fn ((s.getMbx fn).arg 0x1C 2)).st ≠ .disabled →
    Does (.queueCreate fn) s fun t => MbxEnded fn 0 t ∧
      t.sq fn ((s.getMbx fn).arg 0x0A 2) = sqOf (s.getMbx fn) ∧ t.ring.cqs = s.ring.cqs) ∧
  (∀ fn o s, MbxRuns fn 0x20 queueRule s → queueBadField (s.getMbx fn) (s.inst fn).res = some o →
    Does (.queueCreate fn) s fun t => MbxEnded fn meField t ∧ t.ring = s.ring) ∧
  (∀ fn s, MbxRuns fn 0x22 queueIdRule s → (s.getMbx fn).arg 8 1 = 0 → (s.sq fn ((s.getMbx fn).arg 0x0A 2)).st ≠ .disabled →
    (s.sq fn ((s.getMbx fn).arg 0x0A 2)).drain = none → Does (.queueReset fn) s fun t =>
      (t.sq fn ((s.getMbx fn).arg 0x0A 2)).st = .draining ∧
      (t.sq fn ((s.getMbx fn).arg 0x0A 2)).drain = some (false, some fn) ∧ (t.getMbx fn).started = true) ∧
  (∀ fn s, MbxRuns fn 0x21 queueIdRule s → (s.getMbx fn).arg 8 1 = 0 → (s.sq fn ((s.getMbx fn).arg 0x0A 2)).st ≠ .disabled →
    (s.sq fn ((s.getMbx fn).arg 0x0A 2)).drain = none → Does (.queueDelete fn) s fun t =>
      (t.sq fn ((s.getMbx fn).arg 0x0A 2)).st = .draining ∧
      (t.sq fn ((s.getMbx fn).arg 0x0A 2)).drain = some (true, some fn) ∧ (t.getMbx fn).started = true) ∧
  (∀ fn s, MbxRuns fn 0x21 queueIdRule s → (s.getMbx fn).arg 8 1 = 1 → (s.cq fn ((s.getMbx fn).arg 0x0A 2)).st ≠ .disabled →
    cqMapped s fn ((s.getMbx fn).arg 0x0A 2) = false → Does (.queueDelete fn) s fun t => MbxEnded fn 0 t ∧
      t.cq fn ((s.getMbx fn).arg 0x0A 2) = Cq.absent) ∧
  (∀ i n mbx s, (s.sq i n).drain = some (false, mbx) → sqOut s i n = 0 → Does (.queueDrainComplete i n) s fun t =>
    (t.sq i n).st = .active ∧ (t.sq i n).head = 0 ∧ (t.sq i n).tail = 0 ∧ (t.sq i n).window = [] ∧ (t.sq i n).drain = none ∧
    (t.sq i n).base = (s.sq i n).base ∧ (t.sq i n).cause = 0) ∧
  (∀ i n mbx s, (s.sq i n).drain = some (true, mbx) → sqOut s i n = 0 → Does (.queueDrainComplete i n) s fun t =>
    t.sq i n = Sq.absent) ∧
  (∀ fn img pb u s, MbxRuns fn 0x30 planLoadRule s → planBadField (s.getMbx fn) = none →
    beforeCopy s fn ((s.getMbx fn).arg 8 4) ((s.getMbx fn).arg 0x18 4) (bit ((s.getMbx fn).arg 0xC 1) 0) = none →
    (s.hostPort (s.getMbx fn).port).absent = false → img.length = (s.getMbx fn).arg 0x18 4 → (s.getMbx fn).arg 0x20 8 ≠ 0 →
    pb.length = (s.getMbx fn).arg 0x28 2 → mbxReads s (s.getMbx fn) = true →
    mbxRead fn (s.getMbx fn) [((s.getMbx fn).arg 0x10 8, img.length), ((s.getMbx fn).arg 0x20 8, pb.length)] id s = u →
    exec (.planLoad fn (some img) (some pb)) s =
      .next (loadImage fn fn ((s.getMbx fn).arg 8 4) ((s.getMbx fn).arg 0xC 1) img pb (u.modMbx fn fun m => { m with started := true }))) ∧
  (∀ fn h1 h2 s, MbxRuns fn 0x30 planLoadRule s → planBadField (s.getMbx fn) = none →
    beforeCopy s fn ((s.getMbx fn).arg 8 4) ((s.getMbx fn).arg 0x18 4) (bit ((s.getMbx fn).arg 0xC 1) 0) = none →
    (s.getMbx fn).arg 0x18 4 ≠ 0 → mbxReads s (s.getMbx fn) = false → exec (.planLoad fn h1 h2) s = .next s) ∧
  (∀ fn h1 h2 s, MbxRuns fn 0x30 planLoadRule s → planBadField (s.getMbx fn) = none → bit ((s.getMbx fn).arg 0xC 1) 0 = false →
    (s.inst fn).plans.any (fun p => decide (p.id = (s.getMbx fn).arg 8 4) && !p.gone) = true →
    Does (.planLoad fn h1 h2) s fun t => MbxEnded fn meExists t ∧ t.insts = s.insts ∧ t.mem = s.mem) ∧
  (∀ fn s, fn < 1000 → MbxRuns fn 0x31 planUnloadRule s → s.lnk.workers = [] → distOf s fn = none →
    (s.inst fn).plans.any (fun p => decide (p.id = (s.getMbx fn).arg 8 4) && p.ready && !p.gone) = true →
    Does (.planUnload fn) s fun t => MbxEnded fn 0 t ∧
      (t.inst fn).plans.any (fun p => decide (p.id = (s.getMbx fn).arg 8 4) && p.ready && !p.gone) = false) ∧
  (∀ fn s, MbxRuns fn 0x31 planUnloadRule s →
    (s.inst fn).plans.any (fun p => decide (p.id = (s.getMbx fn).arg 8 4) && p.ready && !p.gone) = false →
    Does (.planUnload fn) s fun t => MbxEnded fn meNotFound t ∧ t.insts = s.insts) ∧
  (∀ i id s, s.mp.reloads.contains (i, id) = true → s.mp.arbitrating = false →
    (s.inst i).plans.find? (fun p => decide (p.id = id) && p.ready && !p.gone) = none → Does (.planReload i id) s fun t =>
      t.mp.reloads = s.mp.reloads.erase (i, id) ∧ t.disp.reloading = s.disp.reloading.erase (i, id) ∧ t.insts = s.insts) ∧
  (∀ i id e s, s.mp.reloads.contains (i, id) = true → s.mp.arbitrating = false →
    (s.inst i).plans.find? (fun p => decide (p.id = id) && p.ready && !p.gone) = some e →
    reloadFails i e (unholdPlan i id s) = false → Does (.planReload i id) s fun t =>
      t.mp.reloads = s.mp.reloads.erase (i, id) ∧ t.disp.reloading = s.disp.reloading.erase (i, id) ∧ t.insts = s.insts ∧
      t = { s with mp := t.mp, disp := t.disp }) ∧
  (∀ i id e s, s.mp.reloads.contains (i, id) = true → s.mp.arbitrating = false →
    (s.inst i).plans.find? (fun p => decide (p.id = id) && p.ready && !p.gone) = some e →
    reloadFails i e (unholdPlan i id s) = true → Does (.planReload i id) s fun t =>
      t.mp.reloads = s.mp.reloads.erase (i, id) ∧ t.disp.reloading = s.disp.reloading.erase (i, id) ∧
      (t.inst i).plans.any (fun p => decide (p.id = id) && p.ready && !p.gone) = false ∧
      t.log.entries.head?.map (fun e => (e.code, e.inst, e.detail)) =
        some (0x0602, BitVec.ofNat 8 i, BitVec.ofNat 32 id))

/-- Profiles, the cap and telemetry settings: PROFILE_SET puts a profile in force with its idle timers and ends once no item of the
change runs (R435, R447 to R449); POWER_CAP_SET takes 500 to 1520 (R511); TELEMETRY_CFG stores its settings (R523). -/
def Obligations.ProfileCommands : Prop :=
  (∀ s, MbxRuns 0 0x40 ⟨true, false, [(8, 1), (9, 1), (10, 1)]⟩ s → (s.getMbx 0).arg 8 1 ≤ 2 → (s.getMbx 0).arg 9 1 ≤ 7 →
    (s.getMbx 0).arg 0xA 1 = 1 → Does (.profileSet 0) s fun t =>
      t.disp.profile = BitVec.ofNat 2 ((s.getMbx 0).arg 8 1) ∧ t.disp.latLevel = BitVec.ofNat 3 ((s.getMbx 0).arg 9 1) ∧
      t.disp.profileChange = some ⟨0, s.disp.profile, runningItems s⟩ ∧ (t.getMbx 0).started = true ∧
      t.pwr.idle1 = BitVec.ofNat 24 (idleTimers ((s.getMbx 0).arg 8 1)).1) ∧
  (∀ d s, MbxRuns 0 0x40 ⟨true, false, [(8, 1), (9, 1), (10, 1)]⟩ s → (s.getMbx 0).arg 8 1 = 3 → (s.getMbx 0).arg 9 1 ≤ 7 →
    (s.getMbx 0).arg 0xA 1 ≤ 1 → strictRefused s = some d → Does (.profileSet 0) s fun t =>
      MbxEnded 0 meState t ∧ t.disp = s.disp ∧ t.pwr = s.pwr) ∧
  (∀ ch s, s.disp.profileChange = some ch → (∀ x ∈ runningItems s, x ∉ ch.items) → s.mp.arbitrating = false →
    Does .profileSetComplete s fun t =>
    MbxEnded ch.mbx 0 t ∧ t.disp.profileChange = none ∧ t.sec.attProfile = s.disp.profile ∧
    t.log.entries.head?.map (fun e => (e.code, e.detail)) = some (0x0603, BitVec.ofNat 32 s.disp.profile.toNat) ∧
    (∀ u, u < 4 → (t.cmu u).strict = isStrict s ∧ (t.dgu u).strict = isStrict s) ∧ ∀ u, u < 8 → (t.smu u).strict = isStrict s) ∧
  (∀ s, MbxRuns 0 0x41 ⟨true, false, [(8, 2)]⟩ s → 500 ≤ (s.getMbx 0).arg 8 2 → (s.getMbx 0).arg 8 2 ≤ 1520 → isStrict s = false →
    Does (.powerCapSet 0) s fun t => MbxEnded 0 0 t ∧ t.pwr = { s.pwr with cap := (s.getMbx 0).arg 8 2 }) ∧
  (∀ s, MbxRuns 0 0x41 ⟨true, false, [(8, 2)]⟩ s → ((s.getMbx 0).arg 8 2 < 500 ∨ 1520 < (s.getMbx 0).arg 8 2) →
    Does (.powerCapSet 0) s fun t => MbxEnded 0 meField t ∧ t.pwr = s.pwr) ∧
  (∀ s, MbxRuns 0 0x42 ⟨true, false, [(8, 1), (10, 2)]⟩ s → (s.getMbx 0).arg 8 1 ≤ 3 → 1 ≤ (s.getMbx 0).arg 0xA 2 →
    (s.getMbx 0).arg 0xA 2 ≤ 10000 → Does (.telemetryCfg 0) s fun t => MbxEnded 0 0 t ∧
      t.tel.mirror = bit ((s.getMbx 0).arg 8 1) 0 ∧ t.tel.rollup = bit ((s.getMbx 0).arg 8 1) 1 ∧
      t.tel.div = BitVec.ofNat 14 ((s.getMbx 0).arg 0xA 2))

/-- Firmware: a package that passes its checks is staged, one that fails is rejected with the check's detail (R480, R483); activation
goes through its steps, and a failed one keeps the old firmware (R481, R482, R497, R536). -/
def Obligations.FirmwareCommands : Prop :=
  (∀ b s, stagingBusy s = false → MbxRuns 0 0x50 ⟨true, false, [(8, 8), (16, 4)]⟩ s → (s.getMbx 0).arg 8 8 % 64 = 0 →
    (s.getMbx 0).arg 0x10 4 ≤ 33554432 → (s.hostPort (s.getMbx 0).port).absent = false → mbxReads s (s.getMbx 0) = true →
    b.length = (s.getMbx 0).arg 0x10 4 → Does (.fwStage 0 (some b)) s fun t =>
      match fwCheck s b with
      | none => MbxEnded 0 0 t ∧ t.mp.staged = some (fwVersion b, b) ∧ t.log.next = s.log.next + 1
      | some _ => MbxEnded 0 meRejected t ∧ t.mp = { s.mp with outSeq := s.mp.outSeq + 1 }) ∧
  (∀ s, MbxRuns 0 0x51 ⟨true, false, [(8, 4)]⟩ s → s.mp.staged = none → Does (.fwActivate 0) s fun t =>
    MbxEnded 0 meRejected t ∧ t.mp = { s.mp with outSeq := s.mp.outSeq + 1 }) ∧
  (∀ v b s, MbxRuns 0 0x51 ⟨true, false, [(8, 4)]⟩ s → s.mp.staged = some (v, b) → (s.getMbx 0).arg 8 4 = v.toNat →
    s.mp.activating = false → s.mp.lockstep = true → Does (.fwActivate 0) s fun t =>
      t.mp.activating = true ∧ t.mp.actStep = 2 ∧ t.mp.actMbx = some 0 ∧ t.mp.lockstep = false ∧ t.mp.staged = some (v, b) ∧
      t.mp.runVer = s.mp.runVer ∧ (t.getMbx 0).started = true) ∧
  (∀ v b s, s.mp.activating = true → s.mp.actStep = 2 → s.mp.arbitrating = false → s.mp.staged = some (v, b) → Does (.fwStandbyVerified true) s fun t =>
    match fwCheck s b with
    | none => t = { s with mp := { s.mp with actStep := 3 } }
    | some _ => t.mp.activating = false ∧ t.mp.staged = none ∧ t.mp.runVer = s.mp.runVer ∧ t.mp.actSel = s.mp.actSel ∧ t.mp.lockstep = true) ∧
  (∀ v b s, s.mp.activating = true → s.mp.actStep = 2 → s.mp.arbitrating = false → s.mp.staged = some (v, b) → Does (.fwStandbyVerified false) s fun t =>
    t.mp.activating = false ∧ t.mp.staged = none ∧ t.mp.runVer = s.mp.runVer ∧ t.mp.actSel = s.mp.actSel ∧ t.mp.lockstep = true) ∧
  (∀ v b s, s.mp.activating = true → s.mp.actStep = 3 → s.mp.arbitrating = false → s.mbx.any (mbxRuns s) = false → s.mp.staged = some (v, b) →
    Does (.fwHandover true) s fun t => t.mp.actSel = (!s.mp.actSel) ∧ t.mp.runVer = v ∧ t.mp.actStep = 7 ∧
      t.mp.reloads = loadedPlans s ∧ t.disp.reloading = loadedPlans s ∧ t.sec.meas = fwMeas b) ∧
  (∀ v b s, s.mp.activating = true → s.mp.actStep = 3 → s.mp.arbitrating = false → s.mbx.any (mbxRuns s) = false → s.mp.staged = some (v, b) →
    Does (.fwHandover false) s fun t => t.mp.actSel = s.mp.actSel ∧ t.mp.runVer = s.mp.runVer ∧ t.mp.activating = false ∧
      t.mp.staged = none) ∧
  (∀ v b s, s.mp.activating = true → s.mp.actStep = 7 → s.mp.reloads = [] → s.mp.arbitrating = false → s.mp.staged = some (v, b) →
    (if s.mp.actSel then s.mp.stA else s.mp.stB) = .testing → Does .fwRejoin s fun t =>
      t.mp.lockstep = true ∧ t.mp.activating = false ∧ t.mp.staged = none ∧ t.sec.bank = (!s.sec.bank) ∧
      t.sec.preferred = (!s.sec.bank) ∧ t.sec.svn = (((fwParts b).zip s.sec.svn).map fun x => max x.1.svn x.2) ∧
      t.log.next = s.log.next + 2)

/-- A telemetry sample at a multiple of 100 µs is counted and gives the input power; at any other time nothing happens (R522);
calibration corrects the sensors (R519); LOG_READ writes the entries that pass and the sideband read gives the entries held (R478). -/
def Obligations.TelemetryAndLog : Prop :=
  (∀ x s, s.time % 100000 = 0 → s.pads.inReset = false → Does (.telemetrySample x) s fun t =>
    t.tel.samples = s.tel.samples + 1 ∧ t.pwr.measured = inputPower x ∧ t.tel.vinMv = x.vinMv ∧ t.tel.iin = x.iin ∧ t.ring = s.ring) ∧
  (∀ x s, s.time % 100000 ≠ 0 → exec (.telemetrySample x) s = .next s) ∧
  (∀ l s, exec (.sensorCalibration l) s = .next { s with tel := { s.tel with
    sensors := calibrateAll 0 l s.tel.sensors, calTime := BitVec.ofNat 64 s.time } }) ∧
  (∀ fn s, MbxRuns fn 0x60 ⟨false, false, [(8, 8), (16, 8), (24, 4)]⟩ s → (s.getMbx fn).arg 0x10 8 % 16 = 0 →
    (s.getMbx fn).arg 0x18 4 % 16 = 0 → 16 ≤ (s.getMbx fn).arg 0x18 4 → (s.getMbx fn).arg 0x18 4 ≤ 65536 →
    (s.hostPort (s.getMbx fn).port).up = true → (s.getMbx fn).irq = false →
    logEntries s fn ((s.getMbx fn).arg 8 8) ((s.getMbx fn).arg 0x18 4 / 16) ≠ [] → Does (.logRead fn) s fun t => MbxEnded fn 0 t ∧
      t.out.host = s.out.host ++ [.write (s.getMbx fn).port fn ((s.getMbx fn).arg 0x10 8)
        ((logEntries s fn ((s.getMbx fn).arg 8 8) ((s.getMbx fn).arg 0x18 4 / 16)).map fun x => entBytes x.2).flatten] ∧
      t.log = s.log) ∧
  (∀ a n s, exec (.sidebandLogRead a n) s = .next { s with out := { s.out with
    sideband := (((logHeld s).filter fun x => decide (a ≤ x.1)).take n).map (·.2) } })

/-- The management pair: a divergence, a watchdog or a fault in lockstep starts an arbitration, in which a core that fails its self-test
is taken out and the other goes on (R489 to R493, R495); outputs of firmware are numbered, held while the gate is closed and released
once, in order (R487, R491); sweeps, retests, rejoining and the return to MC-A (R494 to R496). -/
def Obligations.LichenPair : Prop :=
  (∀ s, s.mp.arbitrating = false → s.pads.inReset = false → s.mp.lockstep = true → Does .mcDiverge s fun t =>
    t.mp.arbitrating = true ∧ t.mp.arbCause = 0 ∧ t.mp.arbFrom = s.time ∧ t.mp.stA = .testing ∧ t.mp.stB = .testing ∧
    t.mp.arbs = s.mp.arbs + 1 ∧ t.mp.actSel = s.mp.actSel ∧ t = { s with mp := t.mp }) ∧
  (∀ s, s.mp.lockstep = false → exec .mcDiverge s = .next s) ∧
  (∀ c s, s.mp.arbitrating = false → s.pads.inReset = false → s.mp.lockstep = true → coreSt c s ≠ .out →
    Does (.mcWatchdog c) s fun t => t.mp.arbitrating = true ∧ t.mp.arbCause = 1 ∧ t = { s with mp := t.mp }) ∧
  (∀ c s, s.mp.arbitrating = false → s.pads.inReset = false → s.mp.lockstep = true → coreSt c s ≠ .out →
    Does (.mcCoreFault c) s fun t => t.mp.arbitrating = true ∧ t.mp.arbCause = 2 ∧ t = { s with mp := t.mp }) ∧
  (∀ s, s.mp.arbitrating = false → s.pads.inReset = false → s.mp.lockstep = false → s.mp.activating = false →
    coreSt (!s.mp.actSel) s ≠ .out → Does (.mcCoreFault (!s.mp.actSel)) s fun t =>
      coreSt (!s.mp.actSel) t = .out ∧ t.mp.arbitrating = false ∧ t.mp.actSel = s.mp.actSel) ∧
  (∀ x y s, s.mp.arbitrating = true → s.mp.lockstep = true → s.mp.actSel = false → s.mp.arbCause ≠ 1 →
    Does (.arbitrationVerdict false false x y) s fun t => t.mp.arbitrating = false ∧ t.mp.actSel = false ∧ t.mp.stA = .active ∧
      t.mp.stB = .standby ∧ t.mp.lockstep = true ∧ t.mp.gate = [] ∧ (s.mp.gate = [] → t.log.next = s.log.next + 1)) ∧
  (∀ fn err d off pl s, s.mp.arbitrating = true → endMbx fn err d off pl s =
    { s with mp := { s.mp with outSeq := s.mp.outSeq + 1, gate := s.mp.gate ++ [(s.mp.outSeq, .response fn err d off pl)] } }) ∧
  (∀ fn err d off pl s, s.mp.arbitrating = false →
    MbxEnded fn err (endMbx fn err d off pl s) ∧ (endMbx fn err d off pl s).mp = { s.mp with outSeq := s.mp.outSeq + 1 }) ∧
  (∀ n fn err d off pl x y s, s.mp.arbitrating = true → s.mp.lockstep = true → s.mp.arbCause ≠ 1 →
    s.mp.gate = [(n, .response fn err d off pl)] → Does (.arbitrationVerdict false false x y) s fun t =>
      MbxEnded fn err t ∧ t.mp.gate = [] ∧ t.mp.outSeq = s.mp.outSeq) ∧
  (∀ x y s, s.mp.arbitrating = true → s.mp.lockstep = true → s.mp.actSel = false →
    Does (.arbitrationVerdict true false x y) s fun t => t.mp.arbitrating = false ∧ t.mp.actSel = true ∧ t.mp.stA = .out ∧
      t.mp.stB = .active ∧ t.mp.lockstep = false ∧ t.mp.healthA.failSlice = x) ∧
  (∀ x y s, s.mp.arbitrating = true → s.mp.lockstep = true → s.mp.actSel = false →
    Does (.arbitrationVerdict false true x y) s fun t => t.mp.arbitrating = false ∧ t.mp.actSel = false ∧ t.mp.stA = .active ∧
      t.mp.stB = .out ∧ t.mp.lockstep = false ∧ t.mp.healthB.failSlice = y) ∧
  (∀ x s, s.mp.lockstep = true → s.mp.arbitrating = false → s.pads.inReset = false → s.mp.actSel = false →
    Does (.standbySweepDone false x) s fun t => t.mp.stB = .out ∧ t.mp.lockstep = false ∧ t.mp.healthB.failSlice = x ∧
      t.mp.healthB.contFail = true ∧ t.mp.actSel = false) ∧
  (∀ x s, s.mp.lockstep = true → s.mp.arbitrating = false → s.pads.inReset = false → s.mp.actSel = false →
    Does (.standbySweepDone true x) s fun t => t.mp.healthB.contOk = true ∧ t.mp.healthB.contFail = false ∧ t.mp.lockstep = true ∧
      t = { s with mp := t.mp }) ∧
  (∀ x s, s.mp.actSel = false → s.mp.stB = .out → s.mp.arbitrating = false → s.pads.inReset = false → s.mp.healthB.retests < 3 →
    Does (.mcRetest true x) s fun t => t.mp.stB = .testing ∧ t.mp.healthB.stPass = true ∧ t = { s with mp := t.mp }) ∧
  (∀ x s, s.mp.actSel = false → s.mp.stB = .out → s.mp.arbitrating = false → s.pads.inReset = false → s.mp.healthB.retests < 3 →
    Does (.mcRetest false x) s fun t => t.mp.stB = .out ∧ t.mp.healthB.retests = s.mp.healthB.retests + 1 ∧ t = { s with mp := t.mp }) ∧
  (∀ s, s.mp.lockstep = false → s.mp.arbitrating = false → s.mp.activating = false → s.pads.inReset = false → s.mp.actSel = false →
    s.mp.stB = .testing → Does .mcRejoin s fun t => t.mp.lockstep = true ∧ t.mp.stB = .standby ∧ t.log.next = s.log.next + 1) ∧
  (∀ from_ s, s.mp.actSel = true → s.mp.lockstep = true → s.mp.arbitrating = false → s.mp.activating = false → s.pads.inReset = false →
    s.mp.returnFrom = some from_ → from_ + 100000000 ≤ s.time → Does .mcReturn s fun t =>
      t.mp.actSel = false ∧ t.mp.stA = .active ∧ t.mp.stB = .standby ∧ t.log.next = s.log.next + 1)

/-- Admission: a request that fits is given at once, one that does not waits and is counted (R509); a release gives its units back
(R510); a grant past its length is extended while its holder runs, else it ends (R510). Frond clocks follow their ceiling by 100 MHz
steps, limits rise by 100 MHz when R511 and R520 allow, and an idle quadrant that is not warm is parked (R501, R504). -/
def Obligations.AdmissionAndClocks : Prop :=
  (∀ units us level (inst : Option Nat) disc die s, s.pwr.waits = [] → isStrict s = false → s.pwr.sag = false → s.pwr.reduced = false →
    s.pwr.baseline + granted s + units ≤ s.pwr.cap → Does (.admissionRequest units us level inst disc die) s fun t =>
      t.pwr.waits = [] ∧ t.pwr.waitCnt = s.pwr.waitCnt ∧ ∃ g, t.pwr.grants = s.pwr.grants ++ [g] ∧ g.units = units ∧ g.us = us ∧
        g.level = level ∧ g.inst = inst ∧ g.given = s.time ∧ g.expiry = s.time + 1000 * us) ∧
  (∀ units us level (inst : Option Nat) disc die s, s.pwr.waits = [] → isStrict s = false →
    s.pwr.cap < s.pwr.baseline + granted s + units → Does (.admissionRequest units us level inst disc die) s fun t =>
      t.pwr.grants = s.pwr.grants ∧ t.pwr.waitCnt = s.pwr.waitCnt + 1 ∧ ∃ g, t.pwr.waits = [g] ∧ g.units = units) ∧
  (∀ s, exec .grantGiven s = .next (examineGrants s)) ∧
  (∀ s, s.pwr.revoked = [] → s.pwr.waits = [] → Does .grantGiven s fun t => t.pwr.grants = s.pwr.grants) ∧
  (∀ g s, s.pwr.grants = [g] → s.pwr.revoked = [] → s.pwr.waits = [] → g.inst = none → Does (.grantRelease g.id) s fun t =>
    t.pwr.grants = []) ∧
  (∀ g s, s.pwr.grants = [g] → g.expiry ≤ s.time → holderRuns s g = true →
    exec (.grantExpiry g.id) s = .next { s with pwr := { s.pwr with
      overruns := s.pwr.overruns + 1, grants := [{ g with expiry := g.expiry + 1000 * g.us }] } }) ∧
  (∀ g s, s.pwr.grants = [g] → s.pwr.revoked = [] → s.pwr.waits = [] → g.inst = none → g.expiry ≤ s.time → holderRuns s g = false →
    Does (.grantExpiry g.id) s fun t => t.pwr.grants = [] ∧ t.pwr.overruns = s.pwr.overruns) ∧
  (∀ s, isStrict s = false → 100 * s.pwr.measured ≤ 95 * s.pwr.cap → Does .capLimitRise s fun t =>
    (∀ d, d < 4 → t.pwr.capLim.get 24 d = min 24 (s.pwr.capLim.get 24 d + 1)) ∧ t = { s with pwr := { s.pwr with capLim := t.pwr.capLim } }) ∧
  (∀ s, 95 * s.pwr.cap < 100 * s.pwr.measured → exec .capLimitRise s = .next s) ∧
  (∀ d s, isStrict s = false → d < 4 → (dieQuadTemp s d).all (fun x => decide (x ≤ 98 * 16)) = true → Does (.thermalLimitRise d) s fun t =>
    t.pwr.thermLim.get 24 d = min 24 (s.pwr.thermLim.get 24 d + 1) ∧ t = { s with pwr := { s.pwr with thermLim := t.pwr.thermLim } }) ∧
  (∀ d s, d < 4 → Does (.frondClockStep d) s fun t =>
    (s.pwr.fclk.get 24 d < ceiling s d → t.pwr.fclk.get 24 d = s.pwr.fclk.get 24 d + 1) ∧
    (ceiling s d < s.pwr.fclk.get 24 d → t.pwr.fclk.get 24 d = s.pwr.fclk.get 24 d - 1) ∧
    (s.pwr.fclk.get 24 d = ceiling s d → t.pwr.fclk.get 24 d = s.pwr.fclk.get 24 d) ∧
    t = { s with pwr := { s.pwr with fclk := t.pwr.fclk } }) ∧
  (∀ q s, q < 16 → awake s = true → isStrict s = false → isWarm s q = false → quadIdle s q = true → Does (.quadrantPark q) s fun t =>
    t.pwr.parked.get false q = true ∧ t = { s with pwr := { s.pwr with parked := t.pwr.parked } }) ∧
  (∀ q s, (isStrict s = true ∨ isWarm s q = true ∨ quadIdle s q = false) → exec (.quadrantPark q) s = .next s)

/-- Power states, supply warnings, the reference clock and time: an idle timer that may run out begins its entry, PS2 with a clean write
cache only, and an entry or exit completes (R431 to R435, R505 to R507); SAG_WARN revokes the discretionary grants and lowers the
clocks, and clears again (R516, R517); REFCLK_LOSS raises the alarm (R500); module time counts by microseconds, and no deadline
is left that was due (R301, R502); each µs counts the fronds' cycles, and the end of a window of 1 ms shows them (R308). -/
def Obligations.PowerStates : Prop :=
  (∀ s, idleMay 0 [s.pwr.idle1] s = true → exec .idle1Expiry s = .next (enterPs 1 s)) ∧
  (∀ s, idleMay 1 [s.pwr.idle1, s.pwr.idle2] s = true → s.store.pubs = [] → exec .idle2Expiry s = .next (enterPs 2 s)) ∧
  (∀ s, idleMay 1 [s.pwr.idle1, s.pwr.idle2] s = true → s.store.pubs ≠ [] →
    exec .idle2Expiry s = .next { s with pwr := { s.pwr with destaging := true } }) ∧
  (∀ s, idleMay 2 [s.pwr.idle1, s.pwr.idle2, s.pwr.idle3] s = true → s.lnk.cxlOn = false → exec .idle3Expiry s = .next (enterPs 3 s)) ∧
  (∀ s, (moduleIdle s = false ∨ isStrict s = true ∨ s.pwr.idle1 = 0) →
    exec .idle1Expiry s = .next s ∧ exec .idle2Expiry s = .next s ∧ exec .idle3Expiry s = .next s) ∧
  (∀ n s, (enterPs n s).pwr.entering = true ∧ (enterPs n s).pwr.target = n ∧ (enterPs n s).pwr.ps = s.pwr.ps ∧
    (enterPs n s).pwr.entryAt = s.time) ∧
  (∀ s, s.pwr.entering = true → Does .psEntryComplete s fun t => t.pwr.ps = s.pwr.target ∧ t.pwr.entering = false ∧
    t.pwr.exiting = s.pwr.wakeAfter ∧
    (s.pwr.target = 3 → ∀ c, c < 96 → (s.chan c).st ≠ .failed → (t.chan c).st = .selfRefresh) ∧
    (s.pwr.target ≠ 3 ∨ s.mem.burst = [] → t.ring = s.ring)) ∧
  (∀ s, s.pwr.exiting = true → s.pwr.entering = false → Does .psExitComplete s fun t => t.pwr.ps = 0 ∧ t.pwr.exiting = false ∧
    (s.pwr.ps = 3 → ∀ c, c < 96 → (s.chan c).st ≠ .failed → (t.chan c).st = .active) ∧ t.ring = s.ring) ∧
  (∀ n s, (n = 0x3F ∨ (1 ≤ n ∧ n ≤ 40)) → Does (.supplyWarning n) s fun t =>
    t.pwr.sag = true ∧ t.pwr.sagSource = BitVec.ofNat 6 n ∧ t.pwr.grants = s.pwr.grants.filter (fun g => !g.discretionary) ∧
    t.pwr.revoked = s.pwr.revoked ++ s.pwr.grants.filter (·.discretionary) ∧ t.mem.scrubPaused = true ∧
    t.log.next = s.log.next + 1 ∧ ∀ d, d < 4 → t.pwr.sagLim.get 24 d = 12) ∧
  (∀ s, s.pwr.sag = true → s.pwr.revoked = [] → s.pwr.waits = [] → Does .sagClear s fun t =>
    t.pwr.sag = false ∧ t.pwr.reduced = false ∧ t.pwr.domWarn = [] ∧ t.mem.scrubPaused = false ∧
    (∀ d, d < 4 → t.pwr.sagLim.get 24 d = 24) ∧ ∀ u, u < 4 → (t.cmu u).sagHold = false) ∧
  (∀ s, s.pwr.refLost = false → Does .refclkLoss s fun t => t.pwr.refLost = true ∧ ∀ u, u < 4 → (t.dgu u).alarm = true) ∧
  (∀ s, exec .refclkReturn s = .next { s with pwr := { s.pwr with refLost := false } }) ∧
  (∀ s, s.pads.porHeld = false → Does .aonTick s fun t => t.time = (s.time + 1000) % 2 ^ 64 ∧
    ∀ tm ∈ t.disp.timers, tm.owner.isSome = true → s.time < tm.expiry) ∧
  (∀ s, s.pads.porHeld = false → dueTimers s = [] → Does .aonTick s fun t => t.ring = s.ring ∧ t.mem = s.mem ∧ t.log = s.log ∧
    t.fronds = s.fronds ∧ t.disp.timers = s.disp.timers ∧
    ∀ f, f < 128 → t.disp.winFrond.get 0 f = s.disp.winFrond.get 0 f +
      (if (s.frond f).item.isSome && clockOn f s then 100 * s.pwr.fclk.get 24 (f / 32) else 0)) ∧
  (∀ l o s, s.time % 1000000 = 0 → Does (.observationWindowEnd l o) s fun t =>
    (∀ f, f < 128 → t.disp.frondLoad.get 0 f = BitVec.ofNat 22 (s.disp.winFrond.get 0 f + windowRest l s f)) ∧
    (∀ k, k < 17 → o.contains k = false → t.disp.engOcc.get 0 k = winPermille s k (s.disp.winEng.get 0 k)) ∧
    t.disp.winFrond = [] ∧ t.disp.winEng = [] ∧ t = { s with disp := t.disp }) ∧
  (∀ l o s, s.time % 1000000 ≠ 0 → exec (.observationWindowEnd l o) s = .next s)

/-- Resets: each trigger, on a module that is not in reset, writes RESET_CAUSE with its cause before the reset, clears what R583 clears
and holds the module while its condition stands (R583 to R585); power-on reset clears log and time too (R10, R581); supplies, straps and
the boot chain follow R534, R535, R582 and R586. -/
def Obligations.Resets : Prop :=
  (∀ cause s, s.pads.porHeld = false → s.pads.inReset = false → s.pads.lastCause = none →
    (moduleReset cause s).log.next = s.log.next + 1 ∧
    (moduleReset cause s).log.entries.head?.map (fun e => (e.code, e.detail)) = some (0x0802, BitVec.ofNat 32 cause) ∧
    (moduleReset cause s).ring = RingSt.reset ∧ (moduleReset cause s).fronds = [] ∧ (moduleReset cause s).mem = MemSt.reset ∧
    (moduleReset cause s).insts = State.reset.insts ∧ (moduleReset cause s).time = s.time ∧
    (moduleReset cause s).sec.svn = s.sec.svn ∧ (moduleReset cause s).sec.lifecycle = s.sec.fuse ∧
    (moduleReset cause s).pads.booted = false ∧ (moduleReset cause s).pads.inReset = resetHeld s.pads ∧
    (moduleReset cause s).pending = s.pending) ∧
  (∀ s, exec .vinReset s = .next (moduleReset 0 { s with pads := { s.pads with vinOk := false } })) ∧
  (∀ d s, 1 ≤ d → d ≤ 40 → exec (.railReset d) s = .next (moduleReset 1 s)) ∧
  (∀ n s, n < 96 → exec (.thermalTrip n) s = .next (moduleReset 2 { s with pads := { s.pads with thermalHold := true } })) ∧
  (∀ s, exec .modRstNAssert s = .next (moduleReset 4 { s with pads := { s.pads with modRstLow := true } })) ∧
  (∀ s, exec .perstNAssert s = .next (moduleReset 5 { s with pads := { s.pads with perstLow := true } })) ∧
  (∀ s, s.pads.thermalHold = true → Does .thermalHoldEnd s fun t => t.pads.thermalHold = false ∧
    t.pads.inReset = resetHeld { s.pads with thermalHold := false } ∧ t.log = s.log) ∧
  (∀ s, s.pads.perstLow = true → Does (.resetRelease true) s fun t => t.pads.perstLow = false ∧
    t.pads.inReset = resetHeld { s.pads with perstLow := false } ∧ t.pads.bootDue = true) ∧
  (∀ s, s.pads.modRstLow = true → Does (.resetRelease false) s fun t => t.pads.modRstLow = false ∧
    t.pads.inReset = resetHeld { s.pads with modRstLow := false } ∧ t.pads.bootDue = true) ∧
  (∀ s, Does .powerOnReset s fun t => t.time = 0 ∧ t.log.entries = [] ∧ t.log.next = 0 ∧ t.mp = MpSt.reset ∧ t.ring = RingSt.reset ∧
    t.mem = MemSt.reset ∧ t.pads.porHeld = true ∧ t.pads.inReset = true ∧ t.pads.booted = false ∧ t.sec.svn = s.sec.svn) ∧
  (∀ s, s.pads.porHeld = true → Does .powerOnResetRelease s fun t => t.time = 0 ∧ t.log.next = 0 ∧ t.pads.porHeld = false ∧
    t.pads.roleSel = s.pads.rolePad ∧ t.pads.i3cAddr = s.pads.i3cPad ∧ t.lnk.manager = s.pads.rolePad) ∧
  (∀ v s, 40000 ≤ v → s.pads.porHeld = false → s.pads.vinOk = false → Does (.vinApplied v) s fun t =>
    t.pads.vinOk = true ∧ t.pads.railsOk = true ∧ t.pwr.reduced = decide (v < 42000) ∧
    (v < 42000 → ∀ d, d < 4 → t.pwr.sagLim.get 24 d = 12)) ∧
  (∀ v s, v < 40000 → exec (.vinApplied v) s = .next s) ∧
  (∀ b s, s.pads.bootDue = true → s.pads.inReset = false → s.pads.porHeld = false → s.sec.lifecycle ≠ 3 → Does (.boot b) s fun t =>
    t.pads.bootDue = false ∧ t.pwr.refLoc = b ∧
    match bootCheck s (if s.sec.preferred then s.sec.flash1 else s.sec.flash0),
      bootCheck s (if s.sec.preferred then s.sec.flash0 else s.sec.flash1) with
    | none, _ => t.pads.booted = true ∧ t.sec.bank = s.sec.preferred ∧ t.sec.fallback = false ∧ t.mem.sysUp = true ∧
        t.mp.runVer = fwVersion (if s.sec.preferred then s.sec.flash1 else s.sec.flash0)
    | some d, none => t.pads.booted = true ∧ t.sec.bank = (!s.sec.preferred) ∧ t.sec.fallback = true ∧
        t.sec.bootErr = BitVec.ofNat 8 d ∧ t.mem.sysUp = true
    | some _, some e => t.pads.booted = s.pads.booted ∧ t.sec.recovery = true ∧ t.sec.bootErr = BitVec.ofNat 8 e) ∧
  (∀ b s, s.pads.bootDue = true → s.pads.inReset = false → s.pads.porHeld = false → s.sec.lifecycle = 3 → Does (.boot b) s fun t =>
    t.pads.booted = s.pads.booted ∧ t.pads.bootDue = false)

/-- Writes of registers without a command of their own: a reserved range discards them (R28), one of a size or alignment that is not
accepted is discarded and logged (R27), HAW_EVENTS is write-one-to-clear and HAW_EVENT_EN is stored (R472), the command buffer takes
bytes and GO captures the command, repeats the last response or is refused while BUSY (R460 to R462), and a context port keeps the
settings that its own instance writes (R313, R314). A write of a virtual function shows that it is enabled, which is the model's reading
(log 170). -/
def Obligations.RegisterWrites : Prop :=
  (∀ fn port off d s, barReserved s fn off = true → Does (.registerWrite (.bar0 fn port off) d) s fun t => t = s ∨ t = vfSeen fn s) ∧
  (∀ fn port off d s, s.pads.inReset = false → fn ≤ 255 → port ≤ 1 → d ≠ [] → off < 2 ^ 26 → barReserved s fn off = false →
    writeAdmitted off d.length = false → exec (.registerWrite (.bar0 fn port off) d) s = .next (badAccess fn off (vfSeen fn s))) ∧
  (∀ fn port (w : W32) s, s.pads.inReset = false → fn ≤ 255 → port ≤ 1 → barReserved s fn 0x00C = false →
    exec (.registerWrite (.bar0 fn port 0x00C) (leBytes w.toNat 4)) s =
      .next ((vfSeen fn s).setHaw fn { s.getHaw fn with events := (s.getHaw fn).events &&& ~~~(w.truncate 5) })) ∧
  (∀ fn port (w : W32) s, s.pads.inReset = false → fn ≤ 255 → port ≤ 1 → barReserved s fn 0x058 = false →
    exec (.registerWrite (.bar0 fn port 0x058) (leBytes w.toNat 4)) s =
      .next ((vfSeen fn s).setHaw fn { s.getHaw fn with en := w.truncate 5, vector := field w 26 16, port := port })) ∧
  (∀ fn port k d s, s.pads.inReset = false → fn ≤ 255 → port ≤ 1 → d ≠ [] → k < 64 → alignedWrite (0x1000 + k) d.length 64 = true →
    exec (.registerWrite (.bar0 fn port (0x1000 + k)) d) s =
      .next ((vfSeen fn s).setMbx fn { s.getMbx fn with cmd := regPut (s.getMbx fn).cmd k d })) ∧
  (∀ fn port (w : W32) s, s.pads.inReset = false → fn ≤ 255 → port ≤ 1 → w.getLsbD 0 = true →
    exec (.registerWrite (.bar0 fn port 0x1048) (leBytes w.toNat 4)) s = .next (mbxGo fn port w (vfSeen fn s))) ∧
  (∀ fn port w s, s.sec.recovery = false → awake s = true → (s.getMbx fn).st = .busy →
    mbxGo fn port w s = logEvent 0x0106 0x05 fn 0 none s) ∧
  (∀ fn port (w : W32) s, s.sec.recovery = false → awake s = true → (s.getMbx fn).st ≠ .busy →
    (s.getMbx fn).lastSeq = some (s.getMbx fn).seq → w.getLsbD 31 = false →
    ((mbxGo fn port w s).getMbx fn).replay = true ∧ ((mbxGo fn port w s).getMbx fn).st = (s.getMbx fn).cache.1 ∧
    ((mbxGo fn port w s).getMbx fn).resp = (s.getMbx fn).cache.2.2.2.2 ∧ (mbxGo fn port w s).log = s.log) ∧
  (∀ fn port (w : W32) s, s.sec.recovery = false → awake s = true → (s.getMbx fn).st ≠ .busy →
    (s.getMbx fn).lastSeq ≠ some (s.getMbx fn).seq → (s.getMbx fn).cmd.toNat % 256 = 0x01 →
    ((mbxGo fn port w s).getMbx fn).st = .busy ∧ ((mbxGo fn port w s).getMbx fn).mop = 0x01 ∧
    ((mbxGo fn port w s).getMbx fn).capCmd = (s.getMbx fn).cmd ∧ ((mbxGo fn port w s).getMbx fn).capSeq = (s.getMbx fn).seq ∧
    ((mbxGo fn port w s).getMbx fn).irq = w.getLsbD 31 ∧ (mbxGo fn port w s).log = s.log) ∧
  (∀ fn port (w : W32) s, s.sec.recovery = false → awake s = true → (s.getMbx fn).st ≠ .busy → s.pads.booted = true →
    s.mp.arbitrating = false → quiesced s = false → (s.getMbx fn).lastSeq ≠ some (s.getMbx fn).seq → mbxOps.contains ((s.getMbx fn).cmd.toNat % 256) = false →
    MbxEnded fn meUnknown (mbxGo fn port w s)) ∧
  (∀ u k acc off d s, u < 4 → k < 64 → (s.ctx u k).inst = acc → ((s.ctx u k).st = .opened ∨ (s.ctx u k).st = .done) → 0x40 ≤ off →
    off + d.length ≤ 0x80 → exec (.registerWrite (.ctxPort u k acc off) d) s =
      .next (s.setCtx u k { s.ctx u k with regs := Tbl.write 0 (s.ctx u k).regs off d })) ∧
  (∀ u k acc off d s, u < 4 → k < 64 → (s.ctx u k).inst = acc → (s.ctx u k).st = .active →
    exec (.registerWrite (.ctxPort u k acc off) d) s = .next s) ∧
  (∀ u k acc off d s, u < 4 → k < 64 → (s.ctx u k).st ≠ .free → (s.ctx u k).inst ≠ acc →
    exec (.registerWrite (.ctxPort u k acc off) d) s = .next (logEvent 0x0404 (0x30 + u) acc k none s))

/-- Host ports: while a port is out of L0 its writes wait in order and go out when it returns, and after 1 ms its reads fail, an SQ fetch
with FETCH_ERR (R552); a hot reset is a function-level reset of the PF that discards what waits (R552, R439). CXL.mem reads and
writes reach instance 0's data region from address 0, poison and a frame that the system-frame bitmap marks give the CXL poison
response, another colour gives zeros, and other addresses reach nothing (R335, R341, R342, R553). -/
def Obligations.HostPorts : Prop :=
  (∀ p s, p ≤ 1 → exec (.hostPortOutOfL0 p) s = .next (s.setHostPort p { s.hostPort p with up := false })) ∧
  (∀ p m s, (s.hostPort p).up = false → ((s.hostPort p).absent = false ∨ m.isRead = false) → hostOut p m s = s.setHostPort p { s.hostPort p with waitQ := (s.hostPort p).waitQ ++ [m] }) ∧
  (∀ p s, p ≤ 1 → (s.hostPort p).up = false → (s.hostPort p).absent = false → s.ring.cmds = [] → s.ring.sqs = [] → s.fronds = [] →
    Does (.hostLinkAbsenceTimeout p) s fun t => (t.hostPort p).absent = true ∧ (t.hostPort p).up = false ∧
      (∀ m, m ∈ (t.hostPort p).waitQ → m ∈ (s.hostPort p).waitQ) ∧ t.out = s.out ∧ t.ring = s.ring ∧ t.mem = s.mem) ∧
  (∀ p i n q s, p ≤ 1 → (s.hostPort p).up = false → (s.hostPort p).absent = false → s.ring.cmds = [] → s.fronds = [] →
    n < 8192 → s.ring.sqs = [(sqKey i n, q)] → q.port = p → fetchPending q = true → Does (.hostLinkAbsenceTimeout p) s fun t =>
      t.sq i n = { q with st := .error, cause := 3 }) ∧
  (∀ p s, p ≤ 1 → ((s.hostPort p).up = true ∨ (s.hostPort p).absent = true) → exec (.hostLinkAbsenceTimeout p) s = .next s) ∧
  (∀ p m s, (s.hostPort p).up = false → (s.hostPort p).absent = true → m.isRead = true → hostOut p m s = s) ∧
  (∀ p s, p ≤ 1 → (s.hostPort p).up = false → (∀ e ∈ s.ring.cmds, ∀ c, e.2 = some c → c.phase ≠ .writeWait) → Does (.hostLinkReturn p) s fun t =>
    t.out.host = s.out.host ++ (s.hostPort p).waitQ ∧ t.hostPort p = { up := true, absent := false, waitQ := [] } ∧
    t.ring = s.ring ∧ t.mem = s.mem ∧ t.log = s.log) ∧
  (∀ p s, p ≤ 1 → exec (.hotReset p) s =
    .next (resetPf ((s.setHostPort p { s.hostPort p with waitQ := [], owners := [] }).setMbx 0 { s.getMbx 0 with lastSeq := none }))) ∧
  (∀ p s, 2 ≤ p → exec (.hotReset p) s = .next s) ∧
  (∀ a d t s, inCxl s a = true → devReadN 0 (a / 64 * 64) 64 (cxlSeen s) = (d, none, t) →
    exec (.cxlMemRead a) s = .next { t with out := { t.out with mem := .data d } }) ∧
  (∀ a d x t s, inCxl s a = true → devReadN 0 (a / 64 * 64) 64 (cxlSeen s) = (d, some (.poison, x), t) →
    exec (.cxlMemRead a) s = .next { t with out := { t.out with mem := .cxlPoison } }) ∧
  (∀ a d x t s, inCxl s a = true → cxlSystem s (a / 64 * 64) = true → devReadN 0 (a / 64 * 64) 64 (cxlSeen s) = (d, some (.colour, x), t) →
    exec (.cxlMemRead a) s = .next { t with out := { t.out with mem := .cxlPoison } }) ∧
  (∀ a d x t s, inCxl s a = true → cxlSystem s (a / 64 * 64) = false → devReadN 0 (a / 64 * 64) 64 (cxlSeen s) = (d, some (.colour, x), t) →
    exec (.cxlMemRead a) s = .next { t with out := { t.out with mem := .data (zeros 64) } }) ∧
  (∀ a s, inCxl s a = false → exec (.cxlMemRead a) s = .next s ∧ ∀ d, exec (.cxlMemWrite a d) s = .next s) ∧
  (∀ a d t s, inCxl s a = true → d ≠ [] → a % 64 + d.length ≤ 64 → devWriteN 0 a d (cxlSeen s) = (none, t) →
    exec (.cxlMemWrite a d) s = .next { t with out := { t.out with mem := .ok } })

/-- A frame's bytes give the frame back, with the length and the FCRC that its header states, for every frame whose fields have the
widths of R561. -/
def Obligations.FrameBytesAgree : Prop :=
  ∀ f : RFrame, Fits f → frameOf (frameBytes f) = f ∧ frameGood (frameBytes f) = true ∧
    (frameBytes f).length = 32 + f.payload.length

/-- A frame for another module goes on to the port of its next nibble with only HOP_IDX and ROUTE changed (R564): every frame type.
Nothing arrives over a link that is not UP. The virtual channel of an XDATA frame is a free value (log 96). -/
def Obligations.FramesPassThrough : Prop :=
  (∀ l x s, Arrives ftMgmt l x s → x.hopIdx + 1 ≠ x.hops →
    let f := crossed l (brought ftMgmt x)
    let t := linkBytes 0 none f (crossedBytes f (frameBytes (brought ftMgmt x))) s
    exec (.helloFrame l x) s = .next t ∧ exec (.configFrame l x) s = .next t ∧ exec (.byeFrame l x) s = .next t) ∧
  (∀ c ft l x s, ((c = Instr.planFrame l x ∧ ft = ftPlan) ∨ (c = .fanoutFrame l x ∧ ft = ftFanout) ∨ (c = .endFrame l x ∧ ft = ftEnd) ∨
      (c = .ackFrame l x ∧ ft = ftAckf) ∨ (c = .failFrame l x ∧ ft = ftFail) ∨ (c = .stopFrame l x ∧ ft = ftStop) ∨
      (c = .barrierArmFrame l x ∧ ft = ftBarrier) ∨ (c = .telemFrame l x ∧ ft = ftTelem)) →
    Arrives ft l x s → x.hopIdx + 1 ≠ x.hops →
    exec c s = .next (linkBytes (vcOf ft 0) none (crossed l (brought ft x))
      (crossedBytes (crossed l (brought ft x)) (frameBytes (brought ft x))) s)) ∧
  (∀ l x s, Arrives ftXdata l x s → x.hopIdx + 1 ≠ x.hops → ∃ vc, 4 ≤ vc ∧ vc ≤ 7 ∧
    exec (.xdataFrame l x) s = .next (linkBytes vc none (crossed l (brought ftXdata x))
      (crossedBytes (crossed l (brought ftXdata x)) (frameBytes (brought ftXdata x))) { s with seed := s.seed + 1 })) ∧
  (∀ c ft f b s, (s.link (nibble f.route f.hopIdx)).st = .down → linkBytes c ft f b s = s) ∧
  (∀ l x s, (s.link l).st ≠ .up →
    exec (.helloFrame l x) s = .next s ∧ exec (.configFrame l x) s = .next s ∧ exec (.byeFrame l x) s = .next s ∧
    exec (.planFrame l x) s = .next s ∧ exec (.fanoutFrame l x) s = .next s ∧ exec (.xdataFrame l x) s = .next s ∧
    exec (.endFrame l x) s = .next s ∧ exec (.ackFrame l x) s = .next s ∧ exec (.failFrame l x) s = .next s ∧
    exec (.stopFrame l x) s = .next s ∧ exec (.barrierArmFrame l x) s = .next s ∧ exec (.telemFrame l x) s = .next s)

/-- Managers and workers: HELLO adopts a free worker whose UID it names, CONFIG gives the index and the peer row, BYE takes the manager
away (R567, R568); a TELEM record is kept by worker (R526, R576); ACKF ends a frame's resending (R561); PLAN slices are put together in
order (R569). A frame that has come before is only acknowledged again (log 48), and one for an instance that is not ACTIVE fails the
sender with ACCESS_DENIED (R573). -/
def Obligations.HierarchyFrames : Prop :=
  (∀ l x s, ForUs ftMgmt l x s → acceptsHello s (gotBy ftMgmt l x) = true → Does (.helloFrame l x) s fun t =>
    t.lnk.adopted = true ∧ t.lnk.mgrUid = BitVec.ofNat 128 (leAt x.payload 8 16) ∧ t.lnk.level = leAt x.payload 1 1 + 1 ∧
    t.lnk.mgrRoute = (gotBy ftMgmt l x).back ∧ t.lnk.mgrHops = x.hops ∧ Acked (gotBy ftMgmt l x) s t ∧ t.lnk.sent = s.lnk.sent) ∧
  (∀ l x s, ForUs ftMgmt l x s → acceptsHello s (gotBy ftMgmt l x) = false → exec (.helloFrame l x) s = .next s) ∧
  (∀ l x s, ForUs ftMgmt l x s → s.lnk.seen.contains (routeKey (gotBy ftMgmt l x).back x.hops, x.fseq) = false → s.lnk.adopted = true →
    Does (.configFrame l x) s fun t => t.lnk.index = leAt x.payload 1 1 ∧ t.lnk.adopted = true ∧
      t.lnk.mgrRoute = (gotBy ftMgmt l x).back ∧ t.lnk.peers.length = leAt x.payload 2 1 ∧
      (∀ j, j < leAt x.payload 2 1 →
        t.lnk.peers[j]? = some (BitVec.ofNat 32 (leAt x.payload (8 + 8 * j) 4), leAt x.payload (12 + 8 * j) 1)) ∧
      Acked (gotBy ftMgmt l x) s t) ∧
  (∀ l x s, ForUs ftMgmt l x s → s.lnk.seen.contains (routeKey (gotBy ftMgmt l x).back x.hops, x.fseq) = false → s.lnk.adopted = true →
    s.lnk.mgrUid.toNat = leAt x.payload 8 16 → Does (.byeFrame l x) s fun t =>
      t.lnk.adopted = false ∧ t.lnk.mgrUid = 0 ∧ t.lnk.level = 0 ∧ t.lnk.peers = [] ∧ Acked (gotBy ftMgmt l x) s t) ∧
  (∀ l x j s, ForUs ftTelem l x s → s.lnk.seen.contains (routeKey (gotBy ftTelem l x).back x.hops, x.fseq) = false →
    workerAt s.lnk.workers (gotBy ftTelem l x) = some j → Does (.telemFrame l x) s fun t =>
      t.tel.workers.get .zero j = ⟨BitVec.ofNat 64 s.time, x.payload.take 64, BitVec.ofNat 32 (leAt x.payload 64 4),
        BitVec.ofNat 32 (leAt x.payload 68 4), BitVec.ofNat 8 (leAt x.payload 72 1)⟩ ∧ Acked (gotBy ftTelem l x) s t) ∧
  (∀ l x y s, ForUs ftAckf l x s → s.lnk.sent = [y] → y.frame.route = (gotBy ftAckf l x).back → y.frame.hops = x.hops →
    y.frame.fseq = leAt x.payload 0 4 → (y.frame.ftype = ftPlan ∨ y.frame.ftype = ftFail ∨ y.frame.ftype = ftTelem) →
    exec (.ackFrame l x) s = .next { s with lnk := { s.lnk with sent := [] } }) ∧
  (∀ l x s, ForUs ftAckf l x s → s.lnk.sent = [] → exec (.ackFrame l x) s = .next s) ∧
  (∀ l x s, ForUs ftPlan l x s → s.lnk.seen.contains (routeKey (gotBy ftPlan l x).back x.hops, x.fseq) = false →
    leAt x.payload 0 1 = 1 → leAt x.payload 8 4 = 0 → x.payload.length - 16 < leAt x.payload 12 4 →
    Does (.planFrame l x) s fun t => planGot t x.inst (leAt x.payload 4 4) = x.payload.drop 16 ∧ Acked (gotBy ftPlan l x) s t ∧
      t.insts = s.insts) ∧
  (∀ l x s, ForUs ftPlan l x s → s.lnk.seen.contains (routeKey (gotBy ftPlan l x).back x.hops, x.fseq) = false →
    leAt x.payload 0 1 = 1 → leAt x.payload 8 4 ≠ 0 → leAt x.payload 8 4 ≠ (planGot s x.inst (leAt x.payload 4 4)).length →
    exec (.planFrame l x) s = .next s) ∧
  (∀ l x s, ForUs ftPlan l x s → s.lnk.seen.contains (routeKey (gotBy ftPlan l x).back x.hops, x.fseq) = true →
    exec (.planFrame l x) s = .next (ackGot (gotBy ftPlan l x) s)) ∧
  (∀ c ft l x s, ((c = Instr.fanoutFrame l x ∧ ft = ftFanout) ∨ (c = .endFrame l x ∧ ft = ftEnd) ∨ (c = .failFrame l x ∧ ft = ftFail) ∨
      (c = .barrierArmFrame l x ∧ ft = ftBarrier)) → ForUs ft l x s →
    s.lnk.seen.contains (routeKey (gotBy ft l x).back x.hops, x.fseq) = false → (s.inst x.inst).st = .absent →
    Does c s fun t => lastSent t = some (ftFail, (gotBy ft l x).back, leBytes stDenied 2) ∧ t.lnk.fans = [] ∧ t.ring = s.ring) ∧
  (∀ l x s, ForUs ftXdata l x s → s.lnk.seen.contains (routeKey (gotBy ftXdata l x).back x.hops, x.fseq) = false →
    (s.inst x.inst).st = .absent → Does (.xdataFrame l x) s fun t =>
      lastSent t = some (ftFail, (gotBy ftXdata l x).back, leBytes stDenied 2) ∧ t.lnk.reasm = s.lnk.reasm ∧ t.ring = s.ring)

/-- Fan-out commands: FANOUT starts a worker part or fails for want of the plan (R570, R571), XDATA segments join their chunk in order
(R563), END marks are counted by worker (R571, R575), FAIL goes on toward the top (R572), STOP ends the part and is acknowledged
(R572), BARRIER_ARM arms a breaker (R575), and the timeouts of R572 end what waits. -/
def Obligations.FanOutFrames : Prop :=
  (∀ l x s, ForUs ftFanout l x s → s.lnk.seen.contains (routeKey (gotBy ftFanout l x).back x.hops, x.fseq) = false →
    (s.inst x.inst).st = .active → boundPlan s x.inst (leAt x.payload 8 4) = none → Does (.fanoutFrame l x) s fun t =>
      lastSent t = some (ftFail, (gotBy ftFanout l x).back, leBytes stNoPlan 2) ∧ t.lnk.fans = [] ∧ t.ring = s.ring) ∧
  (∀ l x s, ForUs ftFanout l x s → s.lnk.seen.contains (routeKey (gotBy ftFanout l x).back x.hops, x.fseq) = false →
    (s.inst x.inst).st = .active → exec (.fanoutFrame l x) s =
      .next (gotFanout (gotBy ftFanout l x) (ackGot (gotBy ftFanout l x) (markSeen (gotBy ftFanout l x) s)))) ∧
  (∀ l x f c q k r t s, ForFan ftXdata l x f s → s.lnk.mgrRoute ≠ (gotBy ftXdata l x).back → s.lnk.reasm = [] → f.slot = some k →
    liveQuery s k = some (c, q) → sentTypes q.plan (leAt x.payload 2 1) ≠ [] →
    leAt x.payload 3 1 = 0 → leAt x.payload 4 1 = 1 → leAt x.payload 8 4 = 0 → leAt x.payload 12 4 = 0 → 25 ≤ x.payload.length →
    storeSegment k (newReasm (gotBy ftXdata l x) (leAt x.payload 2 1) (leAt x.payload 0 2)) (x.payload.drop 24)
      (ackGot (gotBy ftXdata l x) (markSeen (gotBy ftXdata l x) s)) = (.ok r, t) →
    exec (.xdataFrame l x) s = .next { t with lnk := { t.lnk with reasm := [r] } } ∧ r.bytes = x.payload.drop 24 ∧ r.open_ = true ∧
      r.cseq = 0 ∧ r.xpipe = leAt x.payload 2 1 ∧ r.part = leAt x.payload 0 2 ∧ r.xid = x.xid ∧
      r.pages.length = pagesFor (x.payload.drop 24).length) ∧
  (∀ l x f c q k t s, ForFan ftXdata l x f s → s.lnk.mgrRoute ≠ (gotBy ftXdata l x).back → s.lnk.reasm = [] → f.slot = some k →
    liveQuery s k = some (c, q) → sentTypes q.plan (leAt x.payload 2 1) ≠ [] →
    leAt x.payload 3 1 = 0 → leAt x.payload 4 1 = 1 → leAt x.payload 8 4 = 0 → leAt x.payload 12 4 = 0 → 25 ≤ x.payload.length →
    storeSegment k (newReasm (gotBy ftXdata l x) (leAt x.payload 2 1) (leAt x.payload 0 2)) (x.payload.drop 24)
      (ackGot (gotBy ftXdata l x) (markSeen (gotBy ftXdata l x) s)) = (.error stExhausted, t) →
    exec (.xdataFrame l x) s = .next (failPart x.xid (some (leAt x.payload 2 1)) stExhausted t)) ∧
  (∀ l x f w s, ForFan ftEnd l x f s → f.top = true → workerAt (fanWorkers s f) (gotBy ftEnd l x) = some w → Does (.endFrame l x) s fun t =>
    (fanBy t x.xid).any (fun y => y.ends.contains (endKey (leAt x.payload 0 1) w)) = true ∧ t.ring = s.ring) ∧
  (∀ l x f w s, ForFan ftFail l x f s → f.top = false → workerAt (fanWorkers s f) (gotBy ftFail l x) = some w → Does (.failFrame l x) s fun t =>
    lastSent t = some (ftFail, s.lnk.mgrRoute, leBytes (leAt x.payload 0 2) 2) ∧ t.ring = s.ring) ∧
  (∀ l x f s, ForFan ftStop l x f s → f.top = false → f.slot = none → f.owed = [] → fanWorkers s f = [] →
    Does (.stopFrame l x) s fun t => t.lnk.fans = [] ∧ Acked (gotBy ftStop l x) s t ∧ t.ring = s.ring) ∧
  (∀ l x s, ForUs ftStop l x s → s.lnk.seen.contains (routeKey (gotBy ftStop l x).back x.hops, x.fseq) = false →
    exec (.stopFrame l x) s = .next (ackGot (gotBy ftStop l x) (markSeen (gotBy ftStop l x) s))) ∧
  (∀ l x f s, ForFan ftBarrier l x f s → f.slot = none → fanWorkers s f = [] → Does (.barrierArmFrame l x) s fun t =>
    (fanBy t x.xid).map (·.armed) = some (f.armed ++ [leAt x.payload 0 1]) ∧ Acked (gotBy ftBarrier l x) s t ∧ t.ring = s.ring) ∧
  (∀ (xid : Nat) f s, fanBy s (BitVec.ofNat 64 xid) = some f → f.top = true → f.stopped = true → stopAnswered s f = false →
    f.lastFrame + 10000000 ≤ s.time → Does (.fanoutStopTimeout xid) s fun t =>
      ∃ y, fanBy t (BitVec.ofNat 64 xid) = some y ∧ (∀ w, w < (fanWorkers s f).length → w ∈ y.stopAcks) ∧
        t.log.next = s.log.next + BitVec.ofNat 64 ((List.range (fanWorkers s f).length).filter fun w => !f.stopAcks.contains w).length) ∧
  (∀ xid s, fanBy s (BitVec.ofNat 64 xid) = none →
    exec (.fanoutStopTimeout xid) s = .next s ∧ exec (.fanoutWorkerTimeout xid) s = .next s) ∧
  (∀ (xid : Nat) f s, fanBy s (BitVec.ofNat 64 xid) = some f → f.top = false → f.slot = none → f.lastFrame + 100000000 ≤ s.time →
    Does (.fanoutWorkerTimeout xid) s fun t => fanBy t (BitVec.ofNat 64 xid) = none ∧ t.ring = s.ring ∧ t.insts = s.insts) ∧
  (∀ (xid : Nat) f k s, fanBy s (BitVec.ofNat 64 xid) = some f → f.top = false → f.slot = some k → f.lastFrame + 100000000 ≤ s.time →
    exec (.fanoutWorkerTimeout xid) s =
      .next (presentOutcome k stAborted 0 (modXid f.xid (fun y => { y with stopped := true, owed := [] }) s)))

/-- Flits: one that fails its CRC or comes out of turn changes nothing but counters and is answered by one NAK, one in turn joins its
frame, INIT gives credits (R557 to R559); a resend sends the window again and the eighth in a row begins a retrain, which ends with
another resend, or with the link DOWN and its frames lost (R559, R560); a DOWN link asks again for a bring-up (R560, R508); a frame
without ACKF goes out again (R561). -/
def Obligations.LinkFlits : Prop :=
  (∀ l x s, l < 16 → s.pads.inReset = false → (s.link l).st = .up → x.crcOk = false → (s.link l).naked = false →
    Does (.flitReceive l x) s fun t => t.link l = { s.link l with crcErr := (s.link l).crcErr + 1, naked := true } ∧
      t.out.flits = s.out.flits ++ [(l, 2, (s.link l).expSeq)] ∧ t = { s with lnk := t.lnk, out := t.out }) ∧
  (∀ l x s, l < 16 → s.pads.inReset = false → (s.link l).st = .up → x.crcOk = true → x.ftype = 0 → (s.link l).window = [] →
    (s.link l).sendQ = [] → x.seq ≠ (s.link l).expSeq → (s.link l).naked = false → Does (.flitReceive l x) s fun t =>
      (t.link l).rx = (s.link l).rx ∧ (t.link l).expSeq = (s.link l).expSeq ∧ (t.link l).naked = true ∧
      t.out.flits = s.out.flits ++ [(l, 2, (s.link l).expSeq)] ∧ t.lnk.sent = s.lnk.sent) ∧
  (∀ l x s, l < 16 → s.pads.inReset = false → (s.link l).st = .up → x.crcOk = true → x.ftype = 0 → (s.link l).window = [] →
    (s.link l).sendQ = [] → x.seq = (s.link l).expSeq → x.sof = false → x.eof = false → Does (.flitReceive l x) s fun t =>
      (t.link l).expSeq = ((s.link l).expSeq + 1) % 4096 ∧ (t.link l).naked = false ∧
      (t.link l).rx.get [] x.vc = (s.link l).rx.get [] x.vc ++ x.payload ∧ t.out = s.out) ∧
  (∀ l x s, l < 16 → s.pads.inReset = false → (s.link l).st = .training → x.crcOk = true → x.ftype = 3 → (s.link l).window = [] →
    (s.link l).sendQ = [] → Does (.flitReceive l x) s fun t =>
      (t.link l).credits.get 0 (field x.crd 10 8) = (s.link l).credits.get 0 (field x.crd 10 8) + field x.crd 7 0 ∧
      (t.link l).st = .training ∧ t.out = s.out) ∧
  (∀ l s, l < 16 → s.pads.inReset = false → (s.link l).st = .up → (s.link l).window ≠ [] → (s.link l).resends < 7 →
    Does (.flitAckTimeout l) s fun t =>
      t.link l = { s.link l with replay := (s.link l).replay + 1, resends := (s.link l).resends + 1 } ∧
      t.out.flits = s.out.flits ++ (s.link l).window.map (fun f => (l, 0, f.seq)) ∧ t = { s with lnk := t.lnk, out := t.out }) ∧
  (∀ l s, l < 16 → s.pads.inReset = false → (s.link l).st = .up → (s.link l).window ≠ [] → (s.link l).resends = 7 →
    Does (.flitAckTimeout l) s fun t => (t.link l).st = .retraining ∧ (t.link l).window = (s.link l).window ∧
      (t.link l).replay = (s.link l).replay + 1 ∧ (t.link l).retrain = (s.link l).retrain + 1 ∧ (t.link l).resends = 0) ∧
  (∀ l s, (s.link l).window = [] → exec (.flitAckTimeout l) s = .next s) ∧
  (∀ l s, l < 16 → s.pads.inReset = false → (s.link l).st = .up → exec (.fecBlockLockLoss l) s =
    .next (s.setLink l { s.link l with st := .retraining, retrain := (s.link l).retrain + 1, resends := 0 })) ∧
  (∀ l s, l < 16 → (s.link l).st = .retraining → (s.link l).sendQ = [] → Does (.rhizomeRetrainDone l true) s fun t =>
    t.link l = { s.link l with st := .up, resends := 0 } ∧
    t.out.flits = s.out.flits ++ (s.link l).window.map (fun f => (l, 0, f.seq)) ∧ t.lnk.sent = s.lnk.sent) ∧
  (∀ l s, l < 16 → (s.link l).st = .retraining → exec (.rhizomeRetrainDone l false) s =
    .next (forEach frameLost (framesOn l s) (logEvent 0x0901 7 0 l none (s.setLink l (idleLink (s.link l) .down))))) ∧
  (∀ f s, f.xid ≠ 0 →
    frameLost f s = failPart f.xid (exchangeOf f) stLink { s with lnk := { s.lnk with sent := s.lnk.sent.filter fun x => x.frame ≠ f } }) ∧
  (∀ l ok s, l < 16 → (s.link l).st = .training → exec (.rhizomeRetrainDone l ok) s =
    .next (endHolder (.link l) (s.setLink l { s.link l with st := if ok then .up else .down }))) ∧
  (∀ l s, l < 16 → s.pads.inReset = false → (s.link l).st = .down → s.pwr.grants = [] → s.pwr.revoked = [] → s.pwr.waits = [] →
    exec (.linkUpRetry l) s = .next (requestGrant Config.linkUnits Config.linkUs 7 none false none (.link l)
      (s.setLink l (idleLink (s.link l) .down)))) ∧
  (∀ l s, (s.link l).st ≠ .down → exec (.linkUpRetry l) s = .next s) ∧
  (∀ x s, s.lnk.sent = [x] → x.frame.ftype ≠ ftMgmt → x.sentAt + 100000 ≤ s.time → (s.link (nibble x.frame.route 0)).st ≠ .down →
    exec (.frameResendTimeout (routeKey x.frame.route x.frame.hops) x.frame.fseq) s =
      .next (linkFrame x.level x.frame { s with lnk := { s.lnk with sent := [{ x with sentAt := s.time }] } })) ∧
  (∀ x s, s.lnk.sent = [x] → x.sentAt + 100000 ≤ s.time → (s.link (nibble x.frame.route 0)).st = .down →
    exec (.frameResendTimeout (routeKey x.frame.route x.frame.hops) x.frame.fseq) s = .next (frameLost x.frame s)) ∧
  (∀ r q s, s.lnk.sent = [] → exec (.frameResendTimeout r q) s = .next s)

/-- Barrier pads: OUT follows IN but where a top manager holds STOP (R574); HBAR0 low for 100 ns ends every fan-out command, a top with
ABORTED_BY_HOST; a falling edge of HBAR1 finishes the armed breakers and only those (R575). -/
def Obligations.BarrierPads : Prop :=
  (∀ s, exec .hbar0InFall s = .next { s with lnk := { s.lnk with hbar0In := false, hbar0Out := false } }) ∧
  (∀ s, Does .hbar0InRise s fun t => t.lnk.hbar0In = true ∧
    (t.lnk.hbar0Out = false ↔ (s.lnk.manager = true ∧ s.lnk.adopted = false ∧ (s.pads.inReset = true ∨ s.pads.thermalHold = true))) ∧
    t = { s with lnk := t.lnk }) ∧
  (∀ s, s.lnk.hbar0In = true → exec .hbar0StopHold s = .next s) ∧
  (∀ f k s, s.lnk.hbar0In = false → s.lnk.fans = [f] → f.top = true → f.slot = some k →
    exec .hbar0StopHold s = .next (presentOutcome k stAborted 0 s)) ∧
  (∀ f s, s.lnk.hbar0In = false → s.lnk.fans = [f] → f.top = false → f.slot = none → f.owed = [] → Does .hbar0StopHold s fun t =>
    t.lnk.fans = [] ∧ t.ring = s.ring ∧ t.out = s.out) ∧
  (∀ s, s.lnk.hbar1In = false → exec .hbar1InFall s = .next s) ∧
  (∀ s, s.lnk.hbar1In = true → s.lnk.fans = [] →
    exec .hbar1InFall s = .next { s with lnk := { s.lnk with hbar1In := false, hbar1Out := false } }) ∧
  (∀ f k n s, s.lnk.hbar1In = true → s.lnk.fans = [f] → f.slot = some k → f.armed = [n] → Does .hbar1InFall s fun t =>
    t = settle k (modPipe k n (fun p => if p.armed then { p with edge := true, armed := false, finished := true } else p)
      { s with lnk := { s.lnk with hbar1In := false, hbar1Out := false, fans := [{ f with armed := [] }] } })) ∧
  (∀ s, exec .hbar1InRise s = .next { s with lnk := { s.lnk with hbar1In := true, hbar1Out := true } })

/-- HIER_CONFIG: SET_ROLE changes the role and is refused while a fan-out command runs (R566); SET_WORKERS is refused where a module may
have no workers, ends with HOST_ACCESS or REJECTED, or sends a HELLO to each worker while the old table stays (R566, R567); ADMIT_SSD
takes a blank SSD into the pool (R402). -/
def Obligations.HierarchyConfig : Prop :=
  (∀ s, MbxRuns 0 0x70 ⟨true, false, [(8, 1), (9, 1)]⟩ s → (s.getMbx 0).arg 8 1 = 1 → (s.getMbx 0).arg 9 1 ≤ 1 → s.lnk.fans = [] →
    Does (.setRole 0) s fun t => MbxEnded 0 0 t ∧ t.lnk.manager = decide ((s.getMbx 0).arg 9 1 = 1) ∧
      (s.lnk.manager ≠ decide ((s.getMbx 0).arg 9 1 = 1) → t.lnk.level = (s.getMbx 0).arg 9 1 ∧ t.lnk.adopted = false ∧ t.lnk.mgrUid = 0)) ∧
  (∀ s, MbxRuns 0 0x70 ⟨true, false, [(8, 1), (9, 1)]⟩ s → (s.getMbx 0).arg 8 1 = 1 → (s.getMbx 0).arg 9 1 ≤ 1 → s.lnk.fans ≠ [] →
    s.lnk.manager ≠ decide ((s.getMbx 0).arg 9 1 = 1) → Does (.setRole 0) s fun t => MbxEnded 0 meState t ∧ t.lnk.manager = s.lnk.manager) ∧
  (∀ h s, MbxRuns 0 0x70 ⟨true, false, [(8, 1), (9, 1), (16, 8)]⟩ s → (s.getMbx 0).arg 8 1 = 2 → 1 ≤ (s.getMbx 0).arg 9 1 →
    (s.getMbx 0).arg 9 1 ≤ 64 → s.lnk.manager = false → (s.lnk.adopted = false ∨ s.lnk.level = 3) →
    Does (.setWorkers 0 h) s fun t => MbxEnded 0 meState t ∧ t.lnk.workers = s.lnk.workers) ∧
  (∀ s, MbxRuns 0 0x70 ⟨true, false, [(8, 1), (9, 1), (16, 8)]⟩ s → (s.getMbx 0).arg 8 1 = 2 → 1 ≤ (s.getMbx 0).arg 9 1 →
    (s.getMbx 0).arg 9 1 ≤ 64 → s.lnk.manager = true → mbxReads s (s.getMbx 0) = true →
    Does (.setWorkers 0 none) s fun t =>
      MbxEnded 0 meHost t ∧ t.lnk.workers = s.lnk.workers) ∧
  (∀ b n i s, MbxRuns 0 0x70 ⟨true, false, [(8, 1), (9, 1), (16, 8)]⟩ s → (s.getMbx 0).arg 8 1 = 2 → (s.getMbx 0).arg 9 1 = n → 1 ≤ n →
    n ≤ 64 → s.lnk.manager = true → (s.hostPort (s.getMbx 0).port).absent = false → mbxReads s (s.getMbx 0) = true → b.length = 64 + 32 * n + 8 * n * n →
    tableHead b n = true → badEntry b n = some i → Does (.setWorkers 0 (some b)) s fun t =>
      MbxEnded 0 meRejected t ∧ ((t.getMbx 0).resp.drop 2).take 2 = leBytes i 2 ∧ t.lnk.workers = s.lnk.workers) ∧
  (∀ b n s, MbxRuns 0 0x70 ⟨true, false, [(8, 1), (9, 1), (16, 8)]⟩ s → (s.getMbx 0).arg 8 1 = 2 → (s.getMbx 0).arg 9 1 = n → 1 ≤ n →
    n ≤ 64 → s.lnk.manager = true → (s.hostPort (s.getMbx 0).port).absent = false → mbxReads s (s.getMbx 0) = true → b.length = 64 + 32 * n + 8 * n * n →
    tableHead b n = true → badEntry b n = none → Does (.setWorkers 0 (some b)) s fun t =>
      t.lnk.newWorkers = (List.range n).map (workerEntry b n) ∧ t.lnk.workers = s.lnk.workers ∧
      t.lnk.sent.length = s.lnk.sent.length + n ∧ (t.getMbx 0).st = .busy ∧ (t.getMbx 0).started = true) ∧
  (∀ found s, MbxRuns 0 0x70 ⟨true, false, [(8, 1), (9, 1)]⟩ s → (s.getMbx 0).arg 8 1 = 3 → (s.getMbx 0).arg 9 1 ≤ 15 →
    (s.ssd ((s.getMbx 0).arg 9 1)).pool = false → found.port = (s.getMbx 0).arg 9 1 → found.formatOk = true → found.blank = true →
    Does (.admitSsd 0 found) s fun t => MbxEnded 0 0 t ∧ (t.ssd ((s.getMbx 0).arg 9 1)).pool = true ∧
      (t.ssd ((s.getMbx 0).arg 9 1)).label = true) ∧
  (∀ found s, MbxRuns 0 0x70 ⟨true, false, [(8, 1), (9, 1)]⟩ s → (s.getMbx 0).arg 8 1 = 3 → (s.getMbx 0).arg 9 1 ≤ 15 →
    ((s.ssd ((s.getMbx 0).arg 9 1)).pool = true ∨ found.port ≠ (s.getMbx 0).arg 9 1 ∨ found.formatOk = false ∨ found.blank = false) →
    Does (.admitSsd 0 found) s fun t => MbxEnded 0 meState t ∧ t.store = s.store)

/-- Attestation over SPDM: negotiation by phases with the capabilities and algorithms of R538, both certificate chains (R537), the
measurements of R539, signed responses that are queued and go out with their RSA signature (R540, R541), and portions of the pending
SLH-DSA signature (R540). The message layouts are those of SPDM 1.3 (log 98). -/
def Obligations.Attestation : Prop :=
  (∀ tr req s, BusUp tr s → leAt req 0 1 = 0x10 → Does (.getVersion tr req) s fun t =>
    (t.conn tr).phase = 1 ∧ Answers tr 4 [0x10, 0x04, 0, 0, 0, 1, 0, 0x13] s t ∧ ∀ j, j ∈ t.sec.signQ → j.transport ≠ tr) ∧
  (∀ tr req s, BusUp tr s → leAt req 0 1 = 0x13 → (s.conn tr).phase = 1 → 20 ≤ req.length → Does (.getCapabilities tr req) s fun t =>
    (t.conn tr).phase = 2 ∧ ∃ d, Answers tr 0x61 d s t ∧ leAt d 5 1 = 18 ∧ leAt d 8 4 = 2 ^ 1 + 2 ^ 2 + 2 ^ 4 + 2 ^ 17) ∧
  (∀ tr req s, BusUp tr s → leAt req 0 1 = 0x13 → (s.conn tr).phase = 2 → 32 ≤ req.length → bit (leAt req 8 4) 3 = true →
    bit (leAt req 12 4) 1 = true → Does (.negotiateAlgorithms tr req) s fun t =>
      (t.conn tr).phase = 3 ∧ ∃ d, Answers tr 0x63 d s t ∧ leAt d 12 4 = 8 ∧ leAt d 16 4 = 2) ∧
  (∀ tr req s, BusUp tr s → leAt req 0 1 = 0x13 → (s.conn tr).phase ≠ 3 →
    exec (.getDigests tr req) s = .next (spdmError tr seUnexpected 0 s) ∧
    exec (.getCertificate tr req) s = .next (spdmError tr seUnexpected 0 s) ∧
    exec (.challenge tr req) s = .next (spdmError tr seUnexpected 0 s) ∧
    exec (.getMeasurements tr req) s = .next (spdmError tr seUnexpected 0 s) ∧
    exec (.getSlhSig tr req) s = .next (spdmError tr seUnexpected 0 s)) ∧
  (∀ tr req s, BusUp tr s → leAt req 0 1 = 0x13 → (s.conn tr).phase = 3 → 4 ≤ req.length → Does (.getDigests tr req) s fun t =>
    Answers tr 1 ([0x13, 0x01, 3, 3] ++ sha384 (Config.certChain 0) ++ sha384 (Config.certChain 1)) s t) ∧
  (∀ tr req s, BusUp tr s → leAt req 0 1 = 0x13 → (s.conn tr).phase = 3 → 8 ≤ req.length → leAt req 2 1 ≤ 1 →
    leAt req 4 2 < (Config.certChain (leAt req 2 1)).length → Does (.getCertificate tr req) s fun t => ∃ d, Answers tr 2 d s t ∧
      d.drop 8 = ((Config.certChain (leAt req 2 1)).drop (leAt req 4 2)).take (leAt req 6 2)) ∧
  (∀ tr req s, BusUp tr s → leAt req 0 1 = 0x13 → (s.conn tr).phase = 3 → 12 ≤ req.length → bit (leAt req 2 1) 0 = false →
    leAt req 3 1 = 0xFF → s.sec.lifecycle ≠ 0 → Does (.getMeasurements tr req) s fun t => ∃ nonce, nonce.length = 32 ∧
      Answers tr 0x60 (measBody req false ((List.range' 1 9).map (measBlock s)) nonce) s t ∧ t.sec.signQ = s.sec.signQ) ∧
  (∀ tr req s, BusUp tr s → leAt req 0 1 = 0x13 → (s.conn tr).phase = 3 → 45 ≤ req.length → bit (leAt req 2 1) 0 = true →
    leAt req 3 1 = 0xFF → leAt req 36 1 = 0 → canSign s = true → Does (.getMeasurements tr req) s fun t =>
      t.out.bus = s.out.bus ∧ ∃ j, t.sec.signQ = s.sec.signQ ++ [j] ∧ j.transport = tr ∧ j.ref = 2 ∧ j.since = s.time) ∧
  (∀ tr req s, BusUp tr s → leAt req 0 1 = 0x13 → (s.conn tr).phase = 3 → 44 ≤ req.length → leAt req 2 1 = 0 → leAt req 3 1 = 0xFF →
    canSign s = true → Does (.challenge tr req) s fun t => t.out.bus = s.out.bus ∧ (t.conn tr).certs = [] ∧
      ∃ j, t.sec.signQ = s.sec.signQ ++ [j] ∧ j.transport = tr ∧ j.ref = 1) ∧
  (∀ tr req s, BusUp tr s → leAt req 0 1 = 0x13 → (s.conn tr).phase = 3 → 44 ≤ req.length → canSign s = false →
    exec (.challenge tr req) s = .next (spdmError tr seUnsupported 0x83 s)) ∧
  (∀ s, s.sec.signQ = [] → exec .spdmSigningDone s = .next s) ∧
  (∀ j rest s, s.sec.signQ = j :: rest → s.sec.keysGone = false → s.time ≤ j.since + 200000000 → j.ref = 1 →
    Does .spdmSigningDone s fun t => t.sec.signQ = rest ∧ (t.conn j.transport).pendChal = some j.msg ∧
      (t.conn j.transport).pendMeas = (s.conn j.transport).pendMeas ∧
      ∃ code, Answers j.transport code (j.body ++ fixLen 384 (Config.rsaSign j.msg)) s t) ∧
  (∀ j rest s, s.sec.signQ = j :: rest → s.sec.keysGone = false → s.time ≤ j.since + 200000000 → j.ref = 2 →
    Does .spdmSigningDone s fun t => t.sec.signQ = rest ∧ (t.conn j.transport).pendMeas = some j.msg ∧
      (t.conn j.transport).pendChal = (s.conn j.transport).pendChal) ∧
  (∀ tr req m s, BusUp tr s → leAt req 0 1 = 0x13 → (s.conn tr).phase = 3 → 19 ≤ req.length → isSlhReq req = true → s.sec.lifecycle ≠ 0 →
    pendingOf (s.conn tr) (leAt req 13 1) = some m → leAt req 15 2 < 16224 → 1 ≤ leAt req 17 2 → leAt req 17 2 ≤ 4096 →
    Does (.getSlhSig tr req) s fun t => t.sec.spdm = s.sec.spdm ∧ Answers tr 0x7E (vendorResp (slhHead 0 (leAt req 13 1) (leAt req 15 2)
      (min (leAt req 17 2) (16224 - leAt req 15 2)) (16224 - leAt req 15 2 - min (leAt req 17 2) (16224 - leAt req 15 2)) ++ sha384 m ++
      ((fixLen 16224 (Config.slhSign m)).drop (leAt req 15 2)).take (min (leAt req 17 2) (16224 - leAt req 15 2)))) s t) ∧
  (∀ tr req s, BusUp tr s → leAt req 0 1 = 0x13 → (s.conn tr).phase = 3 → 19 ≤ req.length → isSlhReq req = true → s.sec.lifecycle ≠ 0 →
    pendingOf (s.conn tr) (leAt req 13 1) = none → Does (.getSlhSig tr req) s fun t => ∃ d, Answers tr 0x7E d s t ∧ leAt d 12 1 = 1)

/-- A token attempt ends with the first failing check of R549 and no other effect, or with the effect of its KIND: DEBUG_UNLOCK opens
the debug ports of SCOPE, TO_RETURN and TO_DECOMMISSIONED burn the lifecycle fuse, REVOKE_KEY burns the fuse of a key pair; SEC_NONCE
is renewed in every case (R543 to R545, R549). -/
def Obligations.LifecycleTokens : Prop :=
  (∀ b s, s.sec.tokenSt = .busy → s.pads.inReset = false → tokenBad s b = none → tokKind b = 1 → Does (.debugUnlock b) s fun t =>
    t.sec.unlocked = true ∧ t.sec.scope = s.sec.scope ||| BitVec.ofNat 3 (tokScope b) ∧ t.sec.tokenSt = .done ∧ t.sec.tokenErr = 0 ∧
    t.sec.nonceNo = s.sec.nonceNo + 1 ∧ t.sec.fuse = s.sec.fuse ∧ t.log.next = s.log.next + 1) ∧
  (∀ b s, s.sec.tokenSt = .busy → s.pads.inReset = false → tokenBad s b = none → tokKind b = 2 → exec (.toReturn b) s =
    .next { s with sec := { s.sec with fuse := 2, tokenSt := .done, tokenErr := 0, nonceNo := s.sec.nonceNo + 1 } }) ∧
  (∀ b s, s.sec.tokenSt = .busy → s.pads.inReset = false → tokenBad s b = none → tokKind b = 3 → exec (.toDecommissioned b) s =
    .next { s with sec := { s.sec with fuse := 3, keysGone := true, tokenSt := .done, tokenErr := 0, nonceNo := s.sec.nonceNo + 1 } }) ∧
  (∀ b s, s.sec.tokenSt = .busy → s.pads.inReset = false → tokenBad s b = none → tokKind b = 4 → Does (.revokeKey b) s fun t =>
    t.sec.revoked = s.sec.revoked ||| (1#4 <<< (tokScope b % 4)) ∧ t.sec.tokenSt = .done ∧ t.sec.nonceNo = s.sec.nonceNo + 1 ∧
    t.sec.fuse = s.sec.fuse ∧ t.log = s.log) ∧
  (∀ c k b e s, ((c = Instr.debugUnlock b ∧ k = 1) ∨ (c = .toReturn b ∧ k = 2) ∨ (c = .toDecommissioned b ∧ k = 3) ∨
      (c = .revokeKey b ∧ k = 4)) → s.sec.tokenSt = .busy → s.pads.inReset = false → tokenBad s b = some e → tokKind b = k →
    exec c s = .next { s with sec := { s.sec with tokenSt := .error, tokenErr := BitVec.ofNat 8 e, nonceNo := s.sec.nonceNo + 1 } }) ∧
  (∀ b s, s.sec.tokenSt ≠ .busy → exec (.debugUnlock b) s = .next s ∧ exec (.toReturn b) s = .next s ∧
    exec (.toDecommissioned b) s = .next s ∧ exec (.revokeKey b) s = .next s) ∧
  (∀ b s, b.length ≠ 17216 → tokenBad s b = some 0x01)

/-- The PLDM firmware device over MCTP: each command in its state, from update mode through download, verify with the checks of R530,
apply to the staging area and activation as R481 gives (R546). States and codes are those of PLDM (log 99). -/
def Obligations.FirmwareDevice : Prop :=
  (∀ r s, BusUp 1 s → exec (.queryDeviceIdentifiers 1 r) s = .next (pldmSend 0x01 ([0] ++ Config.pldmIds) s)) ∧
  (∀ r s, BusUp 1 s → s.mp.staged = none → exec (.getFirmwareParameters 1 r) s =
    .next (pldmSend 0x02 ([0] ++ leBytes 1 2 ++ leBytes 1 2 ++ leBytes s.mp.runVer.toNat 4 ++ leBytes 0 4) s)) ∧
  (∀ r s, BusUp 1 s → stageRuns s = false → s.sec.pldm = .idle → Does (.requestUpdate 1 r) s fun t =>
    t.sec.pldm = .learn ∧ t.sec.pldmData = [] ∧ Answers 1 0x10 [0] s t) ∧
  (∀ r s, BusUp 1 s → stageRuns s = true → exec (.requestUpdate 1 r) s = .next (pldmCode 0x10 pcRetry s)) ∧
  (∀ r s, BusUp 1 s → s.sec.pldm = .learn → leAt r 3 2 = 1 → bit (leAt r 0 1) 2 = true → Does (.passComponentTable 1 r) s fun t =>
    t.sec.pldm = .ready ∧ Answers 1 0x13 [0, 0, 0] s t) ∧
  (∀ r s, BusUp 1 s → s.sec.pldm = .ready → leAt r 2 2 = 1 → 1 ≤ leAt r 9 4 → leAt r 9 4 ≤ 33554432 → Does (.updateComponent 1 r) s fun t =>
    t.sec.pldm = .download ∧ t.sec.pldmSize = leAt r 9 4 ∧ t.sec.pldmData = [] ∧
    t.out.bus = s.out.bus ++ [⟨1, 0x14, [0, 0, 0]⟩, ⟨1, 0x15, leBytes 0 4 ++ leBytes (min 4096 (leAt r 9 4)) 4⟩]) ∧
  (∀ r s, BusUp 1 s → s.sec.pldm = .download → s.sec.pldmData.length < s.sec.pldmSize → leAt r 0 1 = 0 →
    r.length = min 4096 (s.sec.pldmSize - s.sec.pldmData.length) + 1 → Does (.requestFirmwareData 1 r) s fun t =>
      t.sec.pldmData = s.sec.pldmData ++ r.drop 1 ∧ t.sec.pldm = .download) ∧
  (∀ r s, BusUp 1 s → s.sec.pldm = .download → s.sec.pldmData.length < s.sec.pldmSize → leAt r 0 1 ≠ 0 →
    exec (.requestFirmwareData 1 r) s = .next (askFirmware s)) ∧
  (∀ r s, BusUp 1 s → s.sec.pldm = .download → s.sec.pldmSize ≤ s.sec.pldmData.length → Does (.transferComplete 1 r) s fun t =>
    t.sec.pldm = .verify ∧ Answers 1 0x16 [0] s t) ∧
  (∀ r s, BusUp 1 s → s.sec.pldm = .verify → fwCheck s s.sec.pldmData = none → Does (.verifyComplete 1 r) s fun t =>
    t.sec.pldm = .apply ∧ Answers 1 0x17 [0] s t) ∧
  (∀ r d o s, BusUp 1 s → s.sec.pldm = .verify → fwCheck s s.sec.pldmData = some (d, o) → Does (.verifyComplete 1 r) s fun t =>
    t.sec.pldm = .verify ∧ Answers 1 0x17 (leBytes d 1) s t ∧ t.mp = s.mp) ∧
  (∀ r s, BusUp 1 s → s.sec.pldm = .apply → s.mp.arbitrating = false → Does (.applyComplete 1 r) s fun t =>
    t.sec.pldm = .ready ∧ t.mp.staged = some (fwVersion s.sec.pldmData, s.sec.pldmData) ∧ Answers 1 0x18 [0] s t ∧
    t.log.next = s.log.next + 1) ∧
  (∀ r v b s, BusUp 1 s → s.sec.pldm = .ready → s.mp.staged = some (v, b) → s.sec.recovery = false → s.mp.activating = false →
    s.mp.lockstep = true → s.pads.booted = true → Does (.activateFirmware 1 r) s fun t =>
      t.sec.pldm = .activate ∧ t.mp.activating = true ∧ t.mp.actStep = 2 ∧ t.mp.actMbx = none ∧ t.mp.staged = some (v, b) ∧
      Answers 1 0x1A [0] s t) ∧
  (∀ r s, BusUp 1 s → s.sec.pldm = .ready → s.mp.staged = none → exec (.activateFirmware 1 r) s = .next (pldmCode 0x1A pcIncomplete s)) ∧
  (∀ r s, BusUp 1 s → exec (.getStatus 1 r) s = .next (pldmSend 0x1B ([0] ++ leBytes (pldmNum s.sec.pldm) 1) s)) ∧
  (∀ r s, BusUp 1 s → s.sec.pldm ≠ .idle → s.sec.pldm ≠ .activate → Does (.cancelUpdate 1 r) s fun t =>
    t.sec.pldm = .idle ∧ t.sec.pldmData = [] ∧ t.mp = s.mp ∧ Answers 1 0x1D [0] s t) ∧
  (∀ r s, BusUp 1 s → s.sec.pldm = .idle →
    exec (.passComponentTable 1 r) s = .next (pldmCode 0x13 pcNotUpdate s) ∧ exec (.updateComponent 1 r) s = .next (pldmCode 0x14 pcNotUpdate s) ∧
    exec (.activateFirmware 1 r) s = .next (pldmCode 0x1A pcNotUpdate s) ∧ exec (.cancelUpdate 1 r) s = .next (pldmCode 0x1D pcNotUpdate s))

/-- What reset leaves, where the spec states it. After a module reset, and right after power-on, instance 0 holds 16 SQs, 16 CQs, 1,024
command slots, 4 ready lists, profile weights of 16, 1,024 frames of page quota with an empty data region, 16 plan-table entries, 2
digest contexts per unit, 16 MSI-X vectors and shares of 16, and nothing else (R443), and the cap is 1,520 units whatever POWER_CAP_SET
had set (R513). Right after power-on instance 0 is ACTIVE and no other instance exists, no queue exists, the profile is 0 and the
comparer ratio 10, the management pair runs in lockstep with MC-A active, the idle timers are 20, 2,000 and 1,000,000 µs, mailboxes are
IDLE, links DOWN, the log is empty and module time is 0, and the registers read as their tables say. -/
def Obligations.ResetState : Prop :=
  (State.reset.inst 0).st = .active ∧
  (State.reset.inst 0).res =
    { sqs := 16, cqs := 16, slots := 1024, lists := 4, msix := 16, weights := 0x10101010, pages := 1024, dataPages := 0,
      cmuEnt := [0, 0, 0, 0], cmuStates := 0, cmuSlots := 16, smuShare := 16, xchShare := 16, digCtx := [2, 2, 2, 2],
      plans := 16, storeExt := 0 } ∧
  (∀ cause s, s.pads.porHeld = false → s.pads.inReset = false → s.pads.lastCause = none →
    ((moduleReset cause s).inst 0).res = (State.reset.inst 0).res ∧ (moduleReset cause s).pwr.cap = 1520) ∧
  (∀ i, i ≠ 0 → (State.reset.inst i).st = .absent) ∧
  (∀ i n, (State.reset.sq i n).st = .disabled ∧ (State.reset.cq i n).st = .disabled) ∧
  State.reset.disp.profile = 0 ∧ State.reset.eng.ratio = 10 ∧ State.reset.mp.actSel = false ∧ State.reset.mp.lockstep = true ∧
  State.reset.mp.stA = .active ∧ State.reset.mp.stB = .standby ∧ State.reset.pwr.cap = 1520 ∧ State.reset.pwr.idle1 = 20 ∧
  State.reset.pwr.idle2 = 2000 ∧ State.reset.pwr.idle3 = 1000000 ∧ State.reset.pwr.ps = 0 ∧
  (∀ f, (State.reset.getMbx f).st = .idle) ∧ (∀ l, (State.reset.link l).st = .down) ∧
  State.reset.log.entries = [] ∧ State.reset.log.next = 0 ∧ State.reset.time = 0 ∧
  (∀ x ∈ resetRegs, readBar State.reset 0 x.1 x.2.1 = x.2.2)

/-- Every command completes from every state, and takes nothing from the queue and puts nothing into it: only the sender adds
commands, and only a step takes one. -/
def Obligations.EveryCommandCompletes : Prop :=
  ∀ (c : Instr) (s : State), Does c s fun t => t.pending = s.pending

/-- Every step keeps the invariant, from any state that has it: the log never holds more than 4,096 entries (R474), no link more than 64
flits unacknowledged (R559), device memory stays in canonical form, and the waiting commands stay well formed. -/
def Obligations.StepKeepsInvariant : Prop :=
  ∀ s t : State, Inv s → step s = .next t → Inv t

/-- The state after reset has the invariant. -/
def Obligations.ResetHoldsInvariant : Prop :=
  Inv State.reset
end

