-- ==== Sys2Proof/Laws/Tbl.lean ====
section
/-!
SUPPORT. Laws of sparse tables: a read after a write, and the canonical form under every operation.
-/

namespace Sys2Proof.Machine

variable {α : Type}

/-! ## Reads after writes -/

@[simp] theorem Tbl.get_nil (d : α) (k : Nat) : Tbl.get d [] k = d := rfl

theorem Tbl.get_erase_same (d : α) (t : Tbl α) (k : Nat) : (t.erase k).get d k = d := by
  induction t with
  | nil => rfl
  | cons e t ih =>
    obtain ⟨j, v⟩ := e
    by_cases h : j = k
    · simp [Tbl.erase, h, ih]
    · simp [Tbl.erase, h, Tbl.get, ih]

theorem Tbl.get_erase_ne (d : α) (t : Tbl α) {k j : Nat} (h : j ≠ k) : (t.erase k).get d j = t.get d j := by
  induction t with
  | nil => rfl
  | cons e t ih =>
    obtain ⟨i, v⟩ := e
    by_cases hi : i = k
    · subst hi; simp [Tbl.erase, Tbl.get, ih, Ne.symm h]
    · simp [Tbl.erase, hi, Tbl.get, ih]

/-- No entry of the table has key k. -/
def Tbl.free (t : Tbl α) (k : Nat) : Prop := ∀ e ∈ t, e.1 ≠ k

theorem Tbl.erase_free (t : Tbl α) (k : Nat) : (t.erase k).free k := by
  induction t with
  | nil => simp [Tbl.erase, Tbl.free]
  | cons e t ih =>
    obtain ⟨j, v⟩ := e
    by_cases h : j = k
    · simpa [Tbl.erase, h] using ih
    · simp only [Tbl.erase, h, if_false]
      intro x hx
      rcases List.mem_cons.1 hx with rfl | hx
      · exact h
      · exact ih x hx

theorem Tbl.get_insert_same (d v : α) (k : Nat) (t : Tbl α) (h : t.free k) : (Tbl.insert k v t).get d k = v := by
  induction t with
  | nil => simp [Tbl.insert, Tbl.get]
  | cons e t ih =>
    obtain ⟨j, w⟩ := e
    have hj : j ≠ k := h (j, w) (by simp)
    by_cases hk : k < j
    · simp [Tbl.insert, hk, Tbl.get]
    · simp only [Tbl.insert, hk, if_false, Tbl.get, hj]
      exact ih fun x hx => h x (by simp [hx])

theorem Tbl.get_insert_ne (d v : α) {k j : Nat} (t : Tbl α) (h : j ≠ k) : (Tbl.insert k v t).get d j = t.get d j := by
  induction t with
  | nil => simp [Tbl.insert, Tbl.get, Ne.symm h]
  | cons e t ih =>
    obtain ⟨i, w⟩ := e
    by_cases hk : k < i
    · simp [Tbl.insert, hk, Tbl.get, Ne.symm h]
    · simp [Tbl.insert, hk, Tbl.get, ih]

/-- A read after a write to the same key gives the value written. -/
@[simp] theorem Tbl.get_set_same [DecidableEq α] (d : α) (t : Tbl α) (k : Nat) (v : α) : (t.set d k v).get d k = v := by
  unfold Tbl.set
  split
  · next h => rw [Tbl.get_erase_same, h]
  · exact Tbl.get_insert_same d v k _ (Tbl.erase_free t k)

/-- A write leaves every other key alone. -/
theorem Tbl.get_set_ne [DecidableEq α] (d : α) (t : Tbl α) {k j : Nat} (v : α) (h : j ≠ k) :
    (t.set d k v).get d j = t.get d j := by
  unfold Tbl.set
  split
  · exact Tbl.get_erase_ne d t h
  · rw [Tbl.get_insert_ne d v _ h, Tbl.get_erase_ne d t h]

/-! ## The canonical form -/

theorem Tbl.wfFrom_mono [DecidableEq α] (d : α) (t : Tbl α) {a b : Nat} (h : a ≤ b) (w : t.wfFrom d (some b) = true) :
    t.wfFrom d (some a) = true := by
  cases t with
  | nil => rfl
  | cons e t =>
    obtain ⟨k, v⟩ := e
    simp only [Tbl.wfFrom, Bool.and_eq_true, decide_eq_true_eq] at w ⊢
    exact ⟨⟨by omega, w.1.2⟩, w.2⟩

theorem Tbl.wfFrom_none [DecidableEq α] (d : α) (t : Tbl α) {a : Nat} (w : t.wfFrom d (some a) = true) :
    t.wfFrom d none = true := by
  cases t with
  | nil => rfl
  | cons e t =>
    obtain ⟨k, v⟩ := e
    simp only [Tbl.wfFrom, Bool.and_eq_true, decide_eq_true_eq, Bool.true_and] at w ⊢
    exact ⟨w.1.2, w.2⟩

theorem Tbl.wfFrom_erase [DecidableEq α] (d : α) (t : Tbl α) (k : Nat) :
    ∀ lo, t.wfFrom d lo = true → (t.erase k).wfFrom d lo = true := by
  induction t with
  | nil => intro lo h; exact h
  | cons e t ih =>
    obtain ⟨j, v⟩ := e
    intro lo h
    simp only [Tbl.wfFrom, Bool.and_eq_true] at h
    by_cases hj : j = k
    · simp only [Tbl.erase, hj, if_true]
      have h2 := ih _ h.2
      cases lo with
      | none => exact Tbl.wfFrom_none d _ h2
      | some a =>
        have ha : a < j := by simpa using h.1.1
        exact Tbl.wfFrom_mono d _ (Nat.le_of_lt ha) h2
    · simp only [Tbl.erase, hj, if_false, Tbl.wfFrom, Bool.and_eq_true]
      exact ⟨h.1, ih _ h.2⟩

theorem Tbl.wfFrom_insert [DecidableEq α] (d v : α) (k : Nat) (hv : v ≠ d) (t : Tbl α) (hf : t.free k) :
    ∀ lo, (∀ a, lo = some a → a < k) → t.wfFrom d lo = true → (Tbl.insert k v t).wfFrom d lo = true := by
  induction t with
  | nil =>
    intro lo hlo _
    cases lo with
    | none => simp [Tbl.insert, Tbl.wfFrom, hv]
    | some a => simp [Tbl.insert, Tbl.wfFrom, hv, hlo a rfl]
  | cons e t ih =>
    obtain ⟨j, w⟩ := e
    intro lo hlo h
    have hj : j ≠ k := hf (j, w) (by simp)
    have h' := h
    simp only [Tbl.wfFrom, Bool.and_eq_true, decide_eq_true_eq] at h'
    by_cases hk : k < j
    · simp only [Tbl.insert, hk, if_true]
      cases lo with
      | none => simp only [Tbl.wfFrom, Bool.true_and, Bool.and_eq_true, decide_eq_true_eq]; exact ⟨hv, ⟨hk, h'.1.2⟩, h'.2⟩
      | some a =>
        simp only [Tbl.wfFrom, Bool.and_eq_true, decide_eq_true_eq]
        exact ⟨⟨hlo a rfl, hv⟩, ⟨hk, h'.1.2⟩, h'.2⟩
    · simp only [Tbl.insert, hk, if_false, Tbl.wfFrom, Bool.and_eq_true, decide_eq_true_eq]
      refine ⟨h'.1, ih (fun x hx => hf x (by simp [hx])) _ ?_ h'.2⟩
      intro a ha
      cases ha
      omega

/-- Writing a key keeps the canonical form. -/
theorem Tbl.wf_set [DecidableEq α] (d : α) (t : Tbl α) (k : Nat) (v : α) (h : t.wf d = true) : (t.set d k v).wf d = true := by
  unfold Tbl.set Tbl.wf at *
  split
  · exact Tbl.wfFrom_erase d t k none h
  · next hv =>
    exact Tbl.wfFrom_insert d v k hv _ (Tbl.erase_free t k) none (by simp) (Tbl.wfFrom_erase d t k none h)

/-- Writing consecutive cells keeps the canonical form. -/
theorem Tbl.wf_write [DecidableEq α] (d : α) (t : Tbl α) (a : Nat) (vs : List α) (h : t.wf d = true) :
    (Tbl.write d t a vs).wf d = true := by
  induction vs generalizing t a with
  | nil => exact h
  | cons v vs ih => exact ih _ _ (Tbl.wf_set d t a v h)

theorem Tbl.wfFrom_filter [DecidableEq α] (d : α) (p : Nat × α → Bool) (t : Tbl α) :
    ∀ lo, t.wfFrom d lo = true → Tbl.wfFrom d lo (t.filter p) = true := by
  induction t with
  | nil => intro lo h; exact h
  | cons e t ih =>
    obtain ⟨j, v⟩ := e
    intro lo h
    simp only [Tbl.wfFrom, Bool.and_eq_true] at h
    by_cases hp : p (j, v) = true
    · simp only [List.filter, hp, Tbl.wfFrom, Bool.and_eq_true]
      exact ⟨h.1, ih _ h.2⟩
    · simp only [List.filter, hp]
      have h2 := ih _ h.2
      cases lo with
      | none => exact Tbl.wfFrom_none d _ h2
      | some a =>
        have ha : a < j := by simpa using h.1.1
        exact Tbl.wfFrom_mono d _ (Nat.le_of_lt ha) h2

/-- Clearing a range of keys keeps the canonical form. -/
theorem Tbl.wf_clearRange [DecidableEq α] (d : α) (t : Tbl α) (lo hi : Nat) (h : t.wf d = true) :
    (t.clearRange lo hi).wf d = true :=
  Tbl.wfFrom_filter d _ t none h

/-! ## Ranges of cells -/

/-- A read of one cell inside the written range gives the value written there. -/
theorem Tbl.get_write [DecidableEq α] (d : α) (t : Tbl α) (a : Nat) (vs : List α) (k : Nat) :
    (Tbl.write d t a vs).get d k = if a ≤ k ∧ k < a + vs.length then vs.getD (k - a) d else t.get d k := by
  induction vs generalizing t a with
  | nil =>
    have h : ¬ (a ≤ k ∧ k < a + ([] : List α).length) := by simp
    rw [if_neg h]
    rfl
  | cons v vs ih =>
    rw [Tbl.write, ih]
    by_cases h : a ≤ k ∧ k < a + (v :: vs).length
    · by_cases hk : k = a
      · subst hk; simp
      · have h1 : a + 1 ≤ k ∧ k < a + 1 + vs.length := by simp at h; omega
        rw [if_pos h1, if_pos h]
        have : k - a = k - (a + 1) + 1 := by omega
        rw [this]; simp
    · have h1 : ¬ (a + 1 ≤ k ∧ k < a + 1 + vs.length) := by simp at h; omega
      rw [if_neg h1, if_neg h, Tbl.get_set_ne d t v (by simp at h; omega)]

/-- A read of n cells right after they were written gives them back. -/
theorem Tbl.read_write [DecidableEq α] (d : α) (t : Tbl α) (a : Nat) (vs : List α) :
    Tbl.read d (Tbl.write d t a vs) a vs.length = vs := by
  have gen : ∀ n i, i + n = vs.length → Tbl.read d (Tbl.write d t a vs) (a + i) n = vs.drop i := by
    intro n
    induction n with
    | zero => intro i h; rw [List.drop_eq_nil_of_le (by omega)]; rfl
    | succ n ih =>
      intro i h
      have hi : i < vs.length := by omega
      rw [Tbl.read, Nat.add_assoc, ih (i + 1) (by omega), Tbl.get_write, if_pos (by omega)]
      rw [List.drop_eq_getElem_cons hi]
      simp [List.getD, hi]
  simpa using gen vs.length 0 (by omega)

end Sys2Proof.Machine
end

