-- ==== Sys2Proof/Laws/State.lean ====
section
/-!
SUPPORT. What each update of a numbered part of the state leaves: one lemma per field, and what the part reads as afterwards.
-/

namespace Sys2Proof.Machine

/-! ## setFrond -/

@[simp] theorem State.setFrond_pending (s : State) (f : Nat) (x : Frond) : (s.setFrond f x).pending = s.pending := rfl
@[simp] theorem State.setFrond_seed (s : State) (f : Nat) (x : Frond) : (s.setFrond f x).seed = s.seed := rfl
@[simp] theorem State.setFrond_time (s : State) (f : Nat) (x : Frond) : (s.setFrond f x).time = s.time := rfl
@[simp] theorem State.setFrond_ring (s : State) (f : Nat) (x : Frond) : (s.setFrond f x).ring = s.ring := rfl
@[simp] theorem State.setFrond_disp (s : State) (f : Nat) (x : Frond) : (s.setFrond f x).disp = s.disp := rfl
@[simp] theorem State.setFrond_mem (s : State) (f : Nat) (x : Frond) : (s.setFrond f x).mem = s.mem := rfl
@[simp] theorem State.setFrond_eng (s : State) (f : Nat) (x : Frond) : (s.setFrond f x).eng = s.eng := rfl
@[simp] theorem State.setFrond_store (s : State) (f : Nat) (x : Frond) : (s.setFrond f x).store = s.store := rfl
@[simp] theorem State.setFrond_insts (s : State) (f : Nat) (x : Frond) : (s.setFrond f x).insts = s.insts := rfl
@[simp] theorem State.setFrond_mbx (s : State) (f : Nat) (x : Frond) : (s.setFrond f x).mbx = s.mbx := rfl
@[simp] theorem State.setFrond_haw (s : State) (f : Nat) (x : Frond) : (s.setFrond f x).haw = s.haw := rfl
@[simp] theorem State.setFrond_log (s : State) (f : Nat) (x : Frond) : (s.setFrond f x).log = s.log := rfl
@[simp] theorem State.setFrond_mp (s : State) (f : Nat) (x : Frond) : (s.setFrond f x).mp = s.mp := rfl
@[simp] theorem State.setFrond_pwr (s : State) (f : Nat) (x : Frond) : (s.setFrond f x).pwr = s.pwr := rfl
@[simp] theorem State.setFrond_tel (s : State) (f : Nat) (x : Frond) : (s.setFrond f x).tel = s.tel := rfl
@[simp] theorem State.setFrond_sec (s : State) (f : Nat) (x : Frond) : (s.setFrond f x).sec = s.sec := rfl
@[simp] theorem State.setFrond_lnk (s : State) (f : Nat) (x : Frond) : (s.setFrond f x).lnk = s.lnk := rfl
@[simp] theorem State.setFrond_pads (s : State) (f : Nat) (x : Frond) : (s.setFrond f x).pads = s.pads := rfl
@[simp] theorem State.setFrond_out (s : State) (f : Nat) (x : Frond) : (s.setFrond f x).out = s.out := rfl
@[simp] theorem State.setFrond_same (s : State) (f : Nat) (x : Frond) : (s.setFrond f x).frond f = x := Tbl.get_set_same _ _ _ _
theorem State.setFrond_ne (s : State) (f : Nat) (x : Frond) (j : Nat) (h : j ≠ f) : (s.setFrond f x).frond j = s.frond j :=
  Tbl.get_set_ne _ _ _ h
@[simp] theorem State.setFrond_inst (s : State) (f : Nat) (x : Frond) (j : Nat) : (s.setFrond f x).inst j = s.inst j := rfl
@[simp] theorem State.setFrond_cmd (s : State) (f : Nat) (x : Frond) (j : Nat) : (s.setFrond f x).cmd j = s.cmd j := rfl
@[simp] theorem State.setFrond_sq (s : State) (f : Nat) (x : Frond) (i' n' : Nat) : (s.setFrond f x).sq i' n' = s.sq i' n' := rfl
@[simp] theorem State.setFrond_cq (s : State) (f : Nat) (x : Frond) (i' n' : Nat) : (s.setFrond f x).cq i' n' = s.cq i' n' := rfl
@[simp] theorem State.setFrond_getMbx (s : State) (f : Nat) (x : Frond) (j : Nat) : (s.setFrond f x).getMbx j = s.getMbx j := rfl
@[simp] theorem State.setFrond_getHaw (s : State) (f : Nat) (x : Frond) (j : Nat) : (s.setFrond f x).getHaw j = s.getHaw j := rfl
@[simp] theorem State.setFrond_chan (s : State) (f : Nat) (x : Frond) (j : Nat) : (s.setFrond f x).chan j = s.chan j := rfl
@[simp] theorem State.setFrond_cmu (s : State) (f : Nat) (x : Frond) (j : Nat) : (s.setFrond f x).cmu j = s.cmu j := rfl
@[simp] theorem State.setFrond_smu (s : State) (f : Nat) (x : Frond) (j : Nat) : (s.setFrond f x).smu j = s.smu j := rfl
@[simp] theorem State.setFrond_dgu (s : State) (f : Nat) (x : Frond) (j : Nat) : (s.setFrond f x).dgu j = s.dgu j := rfl
@[simp] theorem State.setFrond_link (s : State) (f : Nat) (x : Frond) (j : Nat) : (s.setFrond f x).link j = s.link j := rfl
@[simp] theorem State.setFrond_hostPort (s : State) (f : Nat) (x : Frond) (j : Nat) : (s.setFrond f x).hostPort j = s.hostPort j := rfl
@[simp] theorem State.setFrond_conn (s : State) (f : Nat) (x : Frond) (j : Nat) : (s.setFrond f x).conn j = s.conn j := rfl
@[simp] theorem State.setFrond_ssd (s : State) (f : Nat) (x : Frond) (j : Nat) : (s.setFrond f x).ssd j = s.ssd j := rfl

/-! ## setInst -/

@[simp] theorem State.setInst_pending (s : State) (i : Nat) (x : Inst) : (s.setInst i x).pending = s.pending := rfl
@[simp] theorem State.setInst_seed (s : State) (i : Nat) (x : Inst) : (s.setInst i x).seed = s.seed := rfl
@[simp] theorem State.setInst_time (s : State) (i : Nat) (x : Inst) : (s.setInst i x).time = s.time := rfl
@[simp] theorem State.setInst_fronds (s : State) (i : Nat) (x : Inst) : (s.setInst i x).fronds = s.fronds := rfl
@[simp] theorem State.setInst_ring (s : State) (i : Nat) (x : Inst) : (s.setInst i x).ring = s.ring := rfl
@[simp] theorem State.setInst_disp (s : State) (i : Nat) (x : Inst) : (s.setInst i x).disp = s.disp := rfl
@[simp] theorem State.setInst_mem (s : State) (i : Nat) (x : Inst) : (s.setInst i x).mem = s.mem := rfl
@[simp] theorem State.setInst_eng (s : State) (i : Nat) (x : Inst) : (s.setInst i x).eng = s.eng := rfl
@[simp] theorem State.setInst_store (s : State) (i : Nat) (x : Inst) : (s.setInst i x).store = s.store := rfl
@[simp] theorem State.setInst_mbx (s : State) (i : Nat) (x : Inst) : (s.setInst i x).mbx = s.mbx := rfl
@[simp] theorem State.setInst_haw (s : State) (i : Nat) (x : Inst) : (s.setInst i x).haw = s.haw := rfl
@[simp] theorem State.setInst_log (s : State) (i : Nat) (x : Inst) : (s.setInst i x).log = s.log := rfl
@[simp] theorem State.setInst_mp (s : State) (i : Nat) (x : Inst) : (s.setInst i x).mp = s.mp := rfl
@[simp] theorem State.setInst_pwr (s : State) (i : Nat) (x : Inst) : (s.setInst i x).pwr = s.pwr := rfl
@[simp] theorem State.setInst_tel (s : State) (i : Nat) (x : Inst) : (s.setInst i x).tel = s.tel := rfl
@[simp] theorem State.setInst_sec (s : State) (i : Nat) (x : Inst) : (s.setInst i x).sec = s.sec := rfl
@[simp] theorem State.setInst_lnk (s : State) (i : Nat) (x : Inst) : (s.setInst i x).lnk = s.lnk := rfl
@[simp] theorem State.setInst_pads (s : State) (i : Nat) (x : Inst) : (s.setInst i x).pads = s.pads := rfl
@[simp] theorem State.setInst_out (s : State) (i : Nat) (x : Inst) : (s.setInst i x).out = s.out := rfl
@[simp] theorem State.setInst_same (s : State) (i : Nat) (x : Inst) : (s.setInst i x).inst i = x := Tbl.get_set_same _ _ _ _
theorem State.setInst_ne (s : State) (i : Nat) (x : Inst) (j : Nat) (h : j ≠ i) : (s.setInst i x).inst j = s.inst j :=
  Tbl.get_set_ne _ _ _ h
@[simp] theorem State.setInst_frond (s : State) (i : Nat) (x : Inst) (j : Nat) : (s.setInst i x).frond j = s.frond j := rfl
@[simp] theorem State.setInst_cmd (s : State) (i : Nat) (x : Inst) (j : Nat) : (s.setInst i x).cmd j = s.cmd j := rfl
@[simp] theorem State.setInst_sq (s : State) (i : Nat) (x : Inst) (i' n' : Nat) : (s.setInst i x).sq i' n' = s.sq i' n' := rfl
@[simp] theorem State.setInst_cq (s : State) (i : Nat) (x : Inst) (i' n' : Nat) : (s.setInst i x).cq i' n' = s.cq i' n' := rfl
@[simp] theorem State.setInst_getMbx (s : State) (i : Nat) (x : Inst) (j : Nat) : (s.setInst i x).getMbx j = s.getMbx j := rfl
@[simp] theorem State.setInst_getHaw (s : State) (i : Nat) (x : Inst) (j : Nat) : (s.setInst i x).getHaw j = s.getHaw j := rfl
@[simp] theorem State.setInst_chan (s : State) (i : Nat) (x : Inst) (j : Nat) : (s.setInst i x).chan j = s.chan j := rfl
@[simp] theorem State.setInst_cmu (s : State) (i : Nat) (x : Inst) (j : Nat) : (s.setInst i x).cmu j = s.cmu j := rfl
@[simp] theorem State.setInst_smu (s : State) (i : Nat) (x : Inst) (j : Nat) : (s.setInst i x).smu j = s.smu j := rfl
@[simp] theorem State.setInst_dgu (s : State) (i : Nat) (x : Inst) (j : Nat) : (s.setInst i x).dgu j = s.dgu j := rfl
@[simp] theorem State.setInst_link (s : State) (i : Nat) (x : Inst) (j : Nat) : (s.setInst i x).link j = s.link j := rfl
@[simp] theorem State.setInst_hostPort (s : State) (i : Nat) (x : Inst) (j : Nat) : (s.setInst i x).hostPort j = s.hostPort j := rfl
@[simp] theorem State.setInst_conn (s : State) (i : Nat) (x : Inst) (j : Nat) : (s.setInst i x).conn j = s.conn j := rfl
@[simp] theorem State.setInst_ssd (s : State) (i : Nat) (x : Inst) (j : Nat) : (s.setInst i x).ssd j = s.ssd j := rfl

/-! ## setCmd -/

@[simp] theorem State.setCmd_pending (s : State) (k : Nat) (x : Option Cmd) : (s.setCmd k x).pending = s.pending := rfl
@[simp] theorem State.setCmd_seed (s : State) (k : Nat) (x : Option Cmd) : (s.setCmd k x).seed = s.seed := rfl
@[simp] theorem State.setCmd_time (s : State) (k : Nat) (x : Option Cmd) : (s.setCmd k x).time = s.time := rfl
@[simp] theorem State.setCmd_fronds (s : State) (k : Nat) (x : Option Cmd) : (s.setCmd k x).fronds = s.fronds := rfl
@[simp] theorem State.setCmd_disp (s : State) (k : Nat) (x : Option Cmd) : (s.setCmd k x).disp = s.disp := rfl
@[simp] theorem State.setCmd_mem (s : State) (k : Nat) (x : Option Cmd) : (s.setCmd k x).mem = s.mem := rfl
@[simp] theorem State.setCmd_eng (s : State) (k : Nat) (x : Option Cmd) : (s.setCmd k x).eng = s.eng := rfl
@[simp] theorem State.setCmd_store (s : State) (k : Nat) (x : Option Cmd) : (s.setCmd k x).store = s.store := rfl
@[simp] theorem State.setCmd_insts (s : State) (k : Nat) (x : Option Cmd) : (s.setCmd k x).insts = s.insts := rfl
@[simp] theorem State.setCmd_mbx (s : State) (k : Nat) (x : Option Cmd) : (s.setCmd k x).mbx = s.mbx := rfl
@[simp] theorem State.setCmd_haw (s : State) (k : Nat) (x : Option Cmd) : (s.setCmd k x).haw = s.haw := rfl
@[simp] theorem State.setCmd_log (s : State) (k : Nat) (x : Option Cmd) : (s.setCmd k x).log = s.log := rfl
@[simp] theorem State.setCmd_mp (s : State) (k : Nat) (x : Option Cmd) : (s.setCmd k x).mp = s.mp := rfl
@[simp] theorem State.setCmd_pwr (s : State) (k : Nat) (x : Option Cmd) : (s.setCmd k x).pwr = s.pwr := rfl
@[simp] theorem State.setCmd_tel (s : State) (k : Nat) (x : Option Cmd) : (s.setCmd k x).tel = s.tel := rfl
@[simp] theorem State.setCmd_sec (s : State) (k : Nat) (x : Option Cmd) : (s.setCmd k x).sec = s.sec := rfl
@[simp] theorem State.setCmd_lnk (s : State) (k : Nat) (x : Option Cmd) : (s.setCmd k x).lnk = s.lnk := rfl
@[simp] theorem State.setCmd_pads (s : State) (k : Nat) (x : Option Cmd) : (s.setCmd k x).pads = s.pads := rfl
@[simp] theorem State.setCmd_out (s : State) (k : Nat) (x : Option Cmd) : (s.setCmd k x).out = s.out := rfl
@[simp] theorem State.setCmd_same (s : State) (k : Nat) (x : Option Cmd) : (s.setCmd k x).cmd k = x := Tbl.get_set_same _ _ _ _
theorem State.setCmd_ne (s : State) (k : Nat) (x : Option Cmd) (j : Nat) (h : j ≠ k) : (s.setCmd k x).cmd j = s.cmd j :=
  Tbl.get_set_ne _ _ _ h
@[simp] theorem State.setCmd_frond (s : State) (k : Nat) (x : Option Cmd) (j : Nat) : (s.setCmd k x).frond j = s.frond j := rfl
@[simp] theorem State.setCmd_inst (s : State) (k : Nat) (x : Option Cmd) (j : Nat) : (s.setCmd k x).inst j = s.inst j := rfl
@[simp] theorem State.setCmd_sq (s : State) (k : Nat) (x : Option Cmd) (i' n' : Nat) : (s.setCmd k x).sq i' n' = s.sq i' n' := rfl
@[simp] theorem State.setCmd_cq (s : State) (k : Nat) (x : Option Cmd) (i' n' : Nat) : (s.setCmd k x).cq i' n' = s.cq i' n' := rfl
@[simp] theorem State.setCmd_getMbx (s : State) (k : Nat) (x : Option Cmd) (j : Nat) : (s.setCmd k x).getMbx j = s.getMbx j := rfl
@[simp] theorem State.setCmd_getHaw (s : State) (k : Nat) (x : Option Cmd) (j : Nat) : (s.setCmd k x).getHaw j = s.getHaw j := rfl
@[simp] theorem State.setCmd_chan (s : State) (k : Nat) (x : Option Cmd) (j : Nat) : (s.setCmd k x).chan j = s.chan j := rfl
@[simp] theorem State.setCmd_cmu (s : State) (k : Nat) (x : Option Cmd) (j : Nat) : (s.setCmd k x).cmu j = s.cmu j := rfl
@[simp] theorem State.setCmd_smu (s : State) (k : Nat) (x : Option Cmd) (j : Nat) : (s.setCmd k x).smu j = s.smu j := rfl
@[simp] theorem State.setCmd_dgu (s : State) (k : Nat) (x : Option Cmd) (j : Nat) : (s.setCmd k x).dgu j = s.dgu j := rfl
@[simp] theorem State.setCmd_link (s : State) (k : Nat) (x : Option Cmd) (j : Nat) : (s.setCmd k x).link j = s.link j := rfl
@[simp] theorem State.setCmd_hostPort (s : State) (k : Nat) (x : Option Cmd) (j : Nat) : (s.setCmd k x).hostPort j = s.hostPort j := rfl
@[simp] theorem State.setCmd_conn (s : State) (k : Nat) (x : Option Cmd) (j : Nat) : (s.setCmd k x).conn j = s.conn j := rfl
@[simp] theorem State.setCmd_ssd (s : State) (k : Nat) (x : Option Cmd) (j : Nat) : (s.setCmd k x).ssd j = s.ssd j := rfl

/-! ## setSq -/

@[simp] theorem State.setSq_pending (s : State) (i n : Nat) (x : Sq) : (s.setSq i n x).pending = s.pending := rfl
@[simp] theorem State.setSq_seed (s : State) (i n : Nat) (x : Sq) : (s.setSq i n x).seed = s.seed := rfl
@[simp] theorem State.setSq_time (s : State) (i n : Nat) (x : Sq) : (s.setSq i n x).time = s.time := rfl
@[simp] theorem State.setSq_fronds (s : State) (i n : Nat) (x : Sq) : (s.setSq i n x).fronds = s.fronds := rfl
@[simp] theorem State.setSq_disp (s : State) (i n : Nat) (x : Sq) : (s.setSq i n x).disp = s.disp := rfl
@[simp] theorem State.setSq_mem (s : State) (i n : Nat) (x : Sq) : (s.setSq i n x).mem = s.mem := rfl
@[simp] theorem State.setSq_eng (s : State) (i n : Nat) (x : Sq) : (s.setSq i n x).eng = s.eng := rfl
@[simp] theorem State.setSq_store (s : State) (i n : Nat) (x : Sq) : (s.setSq i n x).store = s.store := rfl
@[simp] theorem State.setSq_insts (s : State) (i n : Nat) (x : Sq) : (s.setSq i n x).insts = s.insts := rfl
@[simp] theorem State.setSq_mbx (s : State) (i n : Nat) (x : Sq) : (s.setSq i n x).mbx = s.mbx := rfl
@[simp] theorem State.setSq_haw (s : State) (i n : Nat) (x : Sq) : (s.setSq i n x).haw = s.haw := rfl
@[simp] theorem State.setSq_log (s : State) (i n : Nat) (x : Sq) : (s.setSq i n x).log = s.log := rfl
@[simp] theorem State.setSq_mp (s : State) (i n : Nat) (x : Sq) : (s.setSq i n x).mp = s.mp := rfl
@[simp] theorem State.setSq_pwr (s : State) (i n : Nat) (x : Sq) : (s.setSq i n x).pwr = s.pwr := rfl
@[simp] theorem State.setSq_tel (s : State) (i n : Nat) (x : Sq) : (s.setSq i n x).tel = s.tel := rfl
@[simp] theorem State.setSq_sec (s : State) (i n : Nat) (x : Sq) : (s.setSq i n x).sec = s.sec := rfl
@[simp] theorem State.setSq_lnk (s : State) (i n : Nat) (x : Sq) : (s.setSq i n x).lnk = s.lnk := rfl
@[simp] theorem State.setSq_pads (s : State) (i n : Nat) (x : Sq) : (s.setSq i n x).pads = s.pads := rfl
@[simp] theorem State.setSq_out (s : State) (i n : Nat) (x : Sq) : (s.setSq i n x).out = s.out := rfl
@[simp] theorem State.setSq_same (s : State) (i n : Nat) (x : Sq) : (s.setSq i n x).sq i n = x := Tbl.get_set_same _ _ _ _
@[simp] theorem State.setSq_frond (s : State) (i n : Nat) (x : Sq) (j : Nat) : (s.setSq i n x).frond j = s.frond j := rfl
@[simp] theorem State.setSq_inst (s : State) (i n : Nat) (x : Sq) (j : Nat) : (s.setSq i n x).inst j = s.inst j := rfl
@[simp] theorem State.setSq_cmd (s : State) (i n : Nat) (x : Sq) (j : Nat) : (s.setSq i n x).cmd j = s.cmd j := rfl
@[simp] theorem State.setSq_cq (s : State) (i n : Nat) (x : Sq) (i' n' : Nat) : (s.setSq i n x).cq i' n' = s.cq i' n' := rfl
@[simp] theorem State.setSq_getMbx (s : State) (i n : Nat) (x : Sq) (j : Nat) : (s.setSq i n x).getMbx j = s.getMbx j := rfl
@[simp] theorem State.setSq_getHaw (s : State) (i n : Nat) (x : Sq) (j : Nat) : (s.setSq i n x).getHaw j = s.getHaw j := rfl
@[simp] theorem State.setSq_chan (s : State) (i n : Nat) (x : Sq) (j : Nat) : (s.setSq i n x).chan j = s.chan j := rfl
@[simp] theorem State.setSq_cmu (s : State) (i n : Nat) (x : Sq) (j : Nat) : (s.setSq i n x).cmu j = s.cmu j := rfl
@[simp] theorem State.setSq_smu (s : State) (i n : Nat) (x : Sq) (j : Nat) : (s.setSq i n x).smu j = s.smu j := rfl
@[simp] theorem State.setSq_dgu (s : State) (i n : Nat) (x : Sq) (j : Nat) : (s.setSq i n x).dgu j = s.dgu j := rfl
@[simp] theorem State.setSq_link (s : State) (i n : Nat) (x : Sq) (j : Nat) : (s.setSq i n x).link j = s.link j := rfl
@[simp] theorem State.setSq_hostPort (s : State) (i n : Nat) (x : Sq) (j : Nat) : (s.setSq i n x).hostPort j = s.hostPort j := rfl
@[simp] theorem State.setSq_conn (s : State) (i n : Nat) (x : Sq) (j : Nat) : (s.setSq i n x).conn j = s.conn j := rfl
@[simp] theorem State.setSq_ssd (s : State) (i n : Nat) (x : Sq) (j : Nat) : (s.setSq i n x).ssd j = s.ssd j := rfl

/-! ## setCq -/

@[simp] theorem State.setCq_pending (s : State) (i n : Nat) (x : Cq) : (s.setCq i n x).pending = s.pending := rfl
@[simp] theorem State.setCq_seed (s : State) (i n : Nat) (x : Cq) : (s.setCq i n x).seed = s.seed := rfl
@[simp] theorem State.setCq_time (s : State) (i n : Nat) (x : Cq) : (s.setCq i n x).time = s.time := rfl
@[simp] theorem State.setCq_fronds (s : State) (i n : Nat) (x : Cq) : (s.setCq i n x).fronds = s.fronds := rfl
@[simp] theorem State.setCq_disp (s : State) (i n : Nat) (x : Cq) : (s.setCq i n x).disp = s.disp := rfl
@[simp] theorem State.setCq_mem (s : State) (i n : Nat) (x : Cq) : (s.setCq i n x).mem = s.mem := rfl
@[simp] theorem State.setCq_eng (s : State) (i n : Nat) (x : Cq) : (s.setCq i n x).eng = s.eng := rfl
@[simp] theorem State.setCq_store (s : State) (i n : Nat) (x : Cq) : (s.setCq i n x).store = s.store := rfl
@[simp] theorem State.setCq_insts (s : State) (i n : Nat) (x : Cq) : (s.setCq i n x).insts = s.insts := rfl
@[simp] theorem State.setCq_mbx (s : State) (i n : Nat) (x : Cq) : (s.setCq i n x).mbx = s.mbx := rfl
@[simp] theorem State.setCq_haw (s : State) (i n : Nat) (x : Cq) : (s.setCq i n x).haw = s.haw := rfl
@[simp] theorem State.setCq_log (s : State) (i n : Nat) (x : Cq) : (s.setCq i n x).log = s.log := rfl
@[simp] theorem State.setCq_mp (s : State) (i n : Nat) (x : Cq) : (s.setCq i n x).mp = s.mp := rfl
@[simp] theorem State.setCq_pwr (s : State) (i n : Nat) (x : Cq) : (s.setCq i n x).pwr = s.pwr := rfl
@[simp] theorem State.setCq_tel (s : State) (i n : Nat) (x : Cq) : (s.setCq i n x).tel = s.tel := rfl
@[simp] theorem State.setCq_sec (s : State) (i n : Nat) (x : Cq) : (s.setCq i n x).sec = s.sec := rfl
@[simp] theorem State.setCq_lnk (s : State) (i n : Nat) (x : Cq) : (s.setCq i n x).lnk = s.lnk := rfl
@[simp] theorem State.setCq_pads (s : State) (i n : Nat) (x : Cq) : (s.setCq i n x).pads = s.pads := rfl
@[simp] theorem State.setCq_out (s : State) (i n : Nat) (x : Cq) : (s.setCq i n x).out = s.out := rfl
@[simp] theorem State.setCq_same (s : State) (i n : Nat) (x : Cq) : (s.setCq i n x).cq i n = x := Tbl.get_set_same _ _ _ _
@[simp] theorem State.setCq_frond (s : State) (i n : Nat) (x : Cq) (j : Nat) : (s.setCq i n x).frond j = s.frond j := rfl
@[simp] theorem State.setCq_inst (s : State) (i n : Nat) (x : Cq) (j : Nat) : (s.setCq i n x).inst j = s.inst j := rfl
@[simp] theorem State.setCq_cmd (s : State) (i n : Nat) (x : Cq) (j : Nat) : (s.setCq i n x).cmd j = s.cmd j := rfl
@[simp] theorem State.setCq_sq (s : State) (i n : Nat) (x : Cq) (i' n' : Nat) : (s.setCq i n x).sq i' n' = s.sq i' n' := rfl
@[simp] theorem State.setCq_getMbx (s : State) (i n : Nat) (x : Cq) (j : Nat) : (s.setCq i n x).getMbx j = s.getMbx j := rfl
@[simp] theorem State.setCq_getHaw (s : State) (i n : Nat) (x : Cq) (j : Nat) : (s.setCq i n x).getHaw j = s.getHaw j := rfl
@[simp] theorem State.setCq_chan (s : State) (i n : Nat) (x : Cq) (j : Nat) : (s.setCq i n x).chan j = s.chan j := rfl
@[simp] theorem State.setCq_cmu (s : State) (i n : Nat) (x : Cq) (j : Nat) : (s.setCq i n x).cmu j = s.cmu j := rfl
@[simp] theorem State.setCq_smu (s : State) (i n : Nat) (x : Cq) (j : Nat) : (s.setCq i n x).smu j = s.smu j := rfl
@[simp] theorem State.setCq_dgu (s : State) (i n : Nat) (x : Cq) (j : Nat) : (s.setCq i n x).dgu j = s.dgu j := rfl
@[simp] theorem State.setCq_link (s : State) (i n : Nat) (x : Cq) (j : Nat) : (s.setCq i n x).link j = s.link j := rfl
@[simp] theorem State.setCq_hostPort (s : State) (i n : Nat) (x : Cq) (j : Nat) : (s.setCq i n x).hostPort j = s.hostPort j := rfl
@[simp] theorem State.setCq_conn (s : State) (i n : Nat) (x : Cq) (j : Nat) : (s.setCq i n x).conn j = s.conn j := rfl
@[simp] theorem State.setCq_ssd (s : State) (i n : Nat) (x : Cq) (j : Nat) : (s.setCq i n x).ssd j = s.ssd j := rfl

/-! ## setMbx -/

@[simp] theorem State.setMbx_pending (s : State) (i : Nat) (x : Mbx) : (s.setMbx i x).pending = s.pending := rfl
@[simp] theorem State.setMbx_seed (s : State) (i : Nat) (x : Mbx) : (s.setMbx i x).seed = s.seed := rfl
@[simp] theorem State.setMbx_time (s : State) (i : Nat) (x : Mbx) : (s.setMbx i x).time = s.time := rfl
@[simp] theorem State.setMbx_fronds (s : State) (i : Nat) (x : Mbx) : (s.setMbx i x).fronds = s.fronds := rfl
@[simp] theorem State.setMbx_ring (s : State) (i : Nat) (x : Mbx) : (s.setMbx i x).ring = s.ring := rfl
@[simp] theorem State.setMbx_disp (s : State) (i : Nat) (x : Mbx) : (s.setMbx i x).disp = s.disp := rfl
@[simp] theorem State.setMbx_mem (s : State) (i : Nat) (x : Mbx) : (s.setMbx i x).mem = s.mem := rfl
@[simp] theorem State.setMbx_eng (s : State) (i : Nat) (x : Mbx) : (s.setMbx i x).eng = s.eng := rfl
@[simp] theorem State.setMbx_store (s : State) (i : Nat) (x : Mbx) : (s.setMbx i x).store = s.store := rfl
@[simp] theorem State.setMbx_insts (s : State) (i : Nat) (x : Mbx) : (s.setMbx i x).insts = s.insts := rfl
@[simp] theorem State.setMbx_haw (s : State) (i : Nat) (x : Mbx) : (s.setMbx i x).haw = s.haw := rfl
@[simp] theorem State.setMbx_log (s : State) (i : Nat) (x : Mbx) : (s.setMbx i x).log = s.log := rfl
@[simp] theorem State.setMbx_mp (s : State) (i : Nat) (x : Mbx) : (s.setMbx i x).mp = s.mp := rfl
@[simp] theorem State.setMbx_pwr (s : State) (i : Nat) (x : Mbx) : (s.setMbx i x).pwr = s.pwr := rfl
@[simp] theorem State.setMbx_tel (s : State) (i : Nat) (x : Mbx) : (s.setMbx i x).tel = s.tel := rfl
@[simp] theorem State.setMbx_sec (s : State) (i : Nat) (x : Mbx) : (s.setMbx i x).sec = s.sec := rfl
@[simp] theorem State.setMbx_lnk (s : State) (i : Nat) (x : Mbx) : (s.setMbx i x).lnk = s.lnk := rfl
@[simp] theorem State.setMbx_pads (s : State) (i : Nat) (x : Mbx) : (s.setMbx i x).pads = s.pads := rfl
@[simp] theorem State.setMbx_out (s : State) (i : Nat) (x : Mbx) : (s.setMbx i x).out = s.out := rfl
@[simp] theorem State.setMbx_same (s : State) (i : Nat) (x : Mbx) : (s.setMbx i x).getMbx i = x := Tbl.get_set_same _ _ _ _
theorem State.setMbx_ne (s : State) (i : Nat) (x : Mbx) (j : Nat) (h : j ≠ i) : (s.setMbx i x).getMbx j = s.getMbx j :=
  Tbl.get_set_ne _ _ _ h
@[simp] theorem State.setMbx_frond (s : State) (i : Nat) (x : Mbx) (j : Nat) : (s.setMbx i x).frond j = s.frond j := rfl
@[simp] theorem State.setMbx_inst (s : State) (i : Nat) (x : Mbx) (j : Nat) : (s.setMbx i x).inst j = s.inst j := rfl
@[simp] theorem State.setMbx_cmd (s : State) (i : Nat) (x : Mbx) (j : Nat) : (s.setMbx i x).cmd j = s.cmd j := rfl
@[simp] theorem State.setMbx_sq (s : State) (i : Nat) (x : Mbx) (i' n' : Nat) : (s.setMbx i x).sq i' n' = s.sq i' n' := rfl
@[simp] theorem State.setMbx_cq (s : State) (i : Nat) (x : Mbx) (i' n' : Nat) : (s.setMbx i x).cq i' n' = s.cq i' n' := rfl
@[simp] theorem State.setMbx_getHaw (s : State) (i : Nat) (x : Mbx) (j : Nat) : (s.setMbx i x).getHaw j = s.getHaw j := rfl
@[simp] theorem State.setMbx_chan (s : State) (i : Nat) (x : Mbx) (j : Nat) : (s.setMbx i x).chan j = s.chan j := rfl
@[simp] theorem State.setMbx_cmu (s : State) (i : Nat) (x : Mbx) (j : Nat) : (s.setMbx i x).cmu j = s.cmu j := rfl
@[simp] theorem State.setMbx_smu (s : State) (i : Nat) (x : Mbx) (j : Nat) : (s.setMbx i x).smu j = s.smu j := rfl
@[simp] theorem State.setMbx_dgu (s : State) (i : Nat) (x : Mbx) (j : Nat) : (s.setMbx i x).dgu j = s.dgu j := rfl
@[simp] theorem State.setMbx_link (s : State) (i : Nat) (x : Mbx) (j : Nat) : (s.setMbx i x).link j = s.link j := rfl
@[simp] theorem State.setMbx_hostPort (s : State) (i : Nat) (x : Mbx) (j : Nat) : (s.setMbx i x).hostPort j = s.hostPort j := rfl
@[simp] theorem State.setMbx_conn (s : State) (i : Nat) (x : Mbx) (j : Nat) : (s.setMbx i x).conn j = s.conn j := rfl
@[simp] theorem State.setMbx_ssd (s : State) (i : Nat) (x : Mbx) (j : Nat) : (s.setMbx i x).ssd j = s.ssd j := rfl

/-! ## setHaw -/

@[simp] theorem State.setHaw_pending (s : State) (i : Nat) (x : Haw) : (s.setHaw i x).pending = s.pending := rfl
@[simp] theorem State.setHaw_seed (s : State) (i : Nat) (x : Haw) : (s.setHaw i x).seed = s.seed := rfl
@[simp] theorem State.setHaw_time (s : State) (i : Nat) (x : Haw) : (s.setHaw i x).time = s.time := rfl
@[simp] theorem State.setHaw_fronds (s : State) (i : Nat) (x : Haw) : (s.setHaw i x).fronds = s.fronds := rfl
@[simp] theorem State.setHaw_ring (s : State) (i : Nat) (x : Haw) : (s.setHaw i x).ring = s.ring := rfl
@[simp] theorem State.setHaw_disp (s : State) (i : Nat) (x : Haw) : (s.setHaw i x).disp = s.disp := rfl
@[simp] theorem State.setHaw_mem (s : State) (i : Nat) (x : Haw) : (s.setHaw i x).mem = s.mem := rfl
@[simp] theorem State.setHaw_eng (s : State) (i : Nat) (x : Haw) : (s.setHaw i x).eng = s.eng := rfl
@[simp] theorem State.setHaw_store (s : State) (i : Nat) (x : Haw) : (s.setHaw i x).store = s.store := rfl
@[simp] theorem State.setHaw_insts (s : State) (i : Nat) (x : Haw) : (s.setHaw i x).insts = s.insts := rfl
@[simp] theorem State.setHaw_mbx (s : State) (i : Nat) (x : Haw) : (s.setHaw i x).mbx = s.mbx := rfl
@[simp] theorem State.setHaw_log (s : State) (i : Nat) (x : Haw) : (s.setHaw i x).log = s.log := rfl
@[simp] theorem State.setHaw_mp (s : State) (i : Nat) (x : Haw) : (s.setHaw i x).mp = s.mp := rfl
@[simp] theorem State.setHaw_pwr (s : State) (i : Nat) (x : Haw) : (s.setHaw i x).pwr = s.pwr := rfl
@[simp] theorem State.setHaw_tel (s : State) (i : Nat) (x : Haw) : (s.setHaw i x).tel = s.tel := rfl
@[simp] theorem State.setHaw_sec (s : State) (i : Nat) (x : Haw) : (s.setHaw i x).sec = s.sec := rfl
@[simp] theorem State.setHaw_lnk (s : State) (i : Nat) (x : Haw) : (s.setHaw i x).lnk = s.lnk := rfl
@[simp] theorem State.setHaw_pads (s : State) (i : Nat) (x : Haw) : (s.setHaw i x).pads = s.pads := rfl
@[simp] theorem State.setHaw_out (s : State) (i : Nat) (x : Haw) : (s.setHaw i x).out = s.out := rfl
@[simp] theorem State.setHaw_same (s : State) (i : Nat) (x : Haw) : (s.setHaw i x).getHaw i = x := Tbl.get_set_same _ _ _ _
theorem State.setHaw_ne (s : State) (i : Nat) (x : Haw) (j : Nat) (h : j ≠ i) : (s.setHaw i x).getHaw j = s.getHaw j :=
  Tbl.get_set_ne _ _ _ h
@[simp] theorem State.setHaw_frond (s : State) (i : Nat) (x : Haw) (j : Nat) : (s.setHaw i x).frond j = s.frond j := rfl
@[simp] theorem State.setHaw_inst (s : State) (i : Nat) (x : Haw) (j : Nat) : (s.setHaw i x).inst j = s.inst j := rfl
@[simp] theorem State.setHaw_cmd (s : State) (i : Nat) (x : Haw) (j : Nat) : (s.setHaw i x).cmd j = s.cmd j := rfl
@[simp] theorem State.setHaw_sq (s : State) (i : Nat) (x : Haw) (i' n' : Nat) : (s.setHaw i x).sq i' n' = s.sq i' n' := rfl
@[simp] theorem State.setHaw_cq (s : State) (i : Nat) (x : Haw) (i' n' : Nat) : (s.setHaw i x).cq i' n' = s.cq i' n' := rfl
@[simp] theorem State.setHaw_getMbx (s : State) (i : Nat) (x : Haw) (j : Nat) : (s.setHaw i x).getMbx j = s.getMbx j := rfl
@[simp] theorem State.setHaw_chan (s : State) (i : Nat) (x : Haw) (j : Nat) : (s.setHaw i x).chan j = s.chan j := rfl
@[simp] theorem State.setHaw_cmu (s : State) (i : Nat) (x : Haw) (j : Nat) : (s.setHaw i x).cmu j = s.cmu j := rfl
@[simp] theorem State.setHaw_smu (s : State) (i : Nat) (x : Haw) (j : Nat) : (s.setHaw i x).smu j = s.smu j := rfl
@[simp] theorem State.setHaw_dgu (s : State) (i : Nat) (x : Haw) (j : Nat) : (s.setHaw i x).dgu j = s.dgu j := rfl
@[simp] theorem State.setHaw_link (s : State) (i : Nat) (x : Haw) (j : Nat) : (s.setHaw i x).link j = s.link j := rfl
@[simp] theorem State.setHaw_hostPort (s : State) (i : Nat) (x : Haw) (j : Nat) : (s.setHaw i x).hostPort j = s.hostPort j := rfl
@[simp] theorem State.setHaw_conn (s : State) (i : Nat) (x : Haw) (j : Nat) : (s.setHaw i x).conn j = s.conn j := rfl
@[simp] theorem State.setHaw_ssd (s : State) (i : Nat) (x : Haw) (j : Nat) : (s.setHaw i x).ssd j = s.ssd j := rfl

/-! ## setChan -/

@[simp] theorem State.setChan_pending (s : State) (c : Nat) (x : Chan) : (s.setChan c x).pending = s.pending := rfl
@[simp] theorem State.setChan_seed (s : State) (c : Nat) (x : Chan) : (s.setChan c x).seed = s.seed := rfl
@[simp] theorem State.setChan_time (s : State) (c : Nat) (x : Chan) : (s.setChan c x).time = s.time := rfl
@[simp] theorem State.setChan_fronds (s : State) (c : Nat) (x : Chan) : (s.setChan c x).fronds = s.fronds := rfl
@[simp] theorem State.setChan_ring (s : State) (c : Nat) (x : Chan) : (s.setChan c x).ring = s.ring := rfl
@[simp] theorem State.setChan_disp (s : State) (c : Nat) (x : Chan) : (s.setChan c x).disp = s.disp := rfl
@[simp] theorem State.setChan_eng (s : State) (c : Nat) (x : Chan) : (s.setChan c x).eng = s.eng := rfl
@[simp] theorem State.setChan_store (s : State) (c : Nat) (x : Chan) : (s.setChan c x).store = s.store := rfl
@[simp] theorem State.setChan_insts (s : State) (c : Nat) (x : Chan) : (s.setChan c x).insts = s.insts := rfl
@[simp] theorem State.setChan_mbx (s : State) (c : Nat) (x : Chan) : (s.setChan c x).mbx = s.mbx := rfl
@[simp] theorem State.setChan_haw (s : State) (c : Nat) (x : Chan) : (s.setChan c x).haw = s.haw := rfl
@[simp] theorem State.setChan_log (s : State) (c : Nat) (x : Chan) : (s.setChan c x).log = s.log := rfl
@[simp] theorem State.setChan_mp (s : State) (c : Nat) (x : Chan) : (s.setChan c x).mp = s.mp := rfl
@[simp] theorem State.setChan_pwr (s : State) (c : Nat) (x : Chan) : (s.setChan c x).pwr = s.pwr := rfl
@[simp] theorem State.setChan_tel (s : State) (c : Nat) (x : Chan) : (s.setChan c x).tel = s.tel := rfl
@[simp] theorem State.setChan_sec (s : State) (c : Nat) (x : Chan) : (s.setChan c x).sec = s.sec := rfl
@[simp] theorem State.setChan_lnk (s : State) (c : Nat) (x : Chan) : (s.setChan c x).lnk = s.lnk := rfl
@[simp] theorem State.setChan_pads (s : State) (c : Nat) (x : Chan) : (s.setChan c x).pads = s.pads := rfl
@[simp] theorem State.setChan_out (s : State) (c : Nat) (x : Chan) : (s.setChan c x).out = s.out := rfl
@[simp] theorem State.setChan_same (s : State) (c : Nat) (x : Chan) : (s.setChan c x).chan c = x := Tbl.get_set_same _ _ _ _
theorem State.setChan_ne (s : State) (c : Nat) (x : Chan) (j : Nat) (h : j ≠ c) : (s.setChan c x).chan j = s.chan j :=
  Tbl.get_set_ne _ _ _ h
@[simp] theorem State.setChan_frond (s : State) (c : Nat) (x : Chan) (j : Nat) : (s.setChan c x).frond j = s.frond j := rfl
@[simp] theorem State.setChan_inst (s : State) (c : Nat) (x : Chan) (j : Nat) : (s.setChan c x).inst j = s.inst j := rfl
@[simp] theorem State.setChan_cmd (s : State) (c : Nat) (x : Chan) (j : Nat) : (s.setChan c x).cmd j = s.cmd j := rfl
@[simp] theorem State.setChan_sq (s : State) (c : Nat) (x : Chan) (i' n' : Nat) : (s.setChan c x).sq i' n' = s.sq i' n' := rfl
@[simp] theorem State.setChan_cq (s : State) (c : Nat) (x : Chan) (i' n' : Nat) : (s.setChan c x).cq i' n' = s.cq i' n' := rfl
@[simp] theorem State.setChan_getMbx (s : State) (c : Nat) (x : Chan) (j : Nat) : (s.setChan c x).getMbx j = s.getMbx j := rfl
@[simp] theorem State.setChan_getHaw (s : State) (c : Nat) (x : Chan) (j : Nat) : (s.setChan c x).getHaw j = s.getHaw j := rfl
@[simp] theorem State.setChan_cmu (s : State) (c : Nat) (x : Chan) (j : Nat) : (s.setChan c x).cmu j = s.cmu j := rfl
@[simp] theorem State.setChan_smu (s : State) (c : Nat) (x : Chan) (j : Nat) : (s.setChan c x).smu j = s.smu j := rfl
@[simp] theorem State.setChan_dgu (s : State) (c : Nat) (x : Chan) (j : Nat) : (s.setChan c x).dgu j = s.dgu j := rfl
@[simp] theorem State.setChan_link (s : State) (c : Nat) (x : Chan) (j : Nat) : (s.setChan c x).link j = s.link j := rfl
@[simp] theorem State.setChan_hostPort (s : State) (c : Nat) (x : Chan) (j : Nat) : (s.setChan c x).hostPort j = s.hostPort j := rfl
@[simp] theorem State.setChan_conn (s : State) (c : Nat) (x : Chan) (j : Nat) : (s.setChan c x).conn j = s.conn j := rfl
@[simp] theorem State.setChan_ssd (s : State) (c : Nat) (x : Chan) (j : Nat) : (s.setChan c x).ssd j = s.ssd j := rfl

/-! ## setCmu -/

@[simp] theorem State.setCmu_pending (s : State) (u : Nat) (x : CmuUnit) : (s.setCmu u x).pending = s.pending := rfl
@[simp] theorem State.setCmu_seed (s : State) (u : Nat) (x : CmuUnit) : (s.setCmu u x).seed = s.seed := rfl
@[simp] theorem State.setCmu_time (s : State) (u : Nat) (x : CmuUnit) : (s.setCmu u x).time = s.time := rfl
@[simp] theorem State.setCmu_fronds (s : State) (u : Nat) (x : CmuUnit) : (s.setCmu u x).fronds = s.fronds := rfl
@[simp] theorem State.setCmu_ring (s : State) (u : Nat) (x : CmuUnit) : (s.setCmu u x).ring = s.ring := rfl
@[simp] theorem State.setCmu_disp (s : State) (u : Nat) (x : CmuUnit) : (s.setCmu u x).disp = s.disp := rfl
@[simp] theorem State.setCmu_mem (s : State) (u : Nat) (x : CmuUnit) : (s.setCmu u x).mem = s.mem := rfl
@[simp] theorem State.setCmu_store (s : State) (u : Nat) (x : CmuUnit) : (s.setCmu u x).store = s.store := rfl
@[simp] theorem State.setCmu_insts (s : State) (u : Nat) (x : CmuUnit) : (s.setCmu u x).insts = s.insts := rfl
@[simp] theorem State.setCmu_mbx (s : State) (u : Nat) (x : CmuUnit) : (s.setCmu u x).mbx = s.mbx := rfl
@[simp] theorem State.setCmu_haw (s : State) (u : Nat) (x : CmuUnit) : (s.setCmu u x).haw = s.haw := rfl
@[simp] theorem State.setCmu_log (s : State) (u : Nat) (x : CmuUnit) : (s.setCmu u x).log = s.log := rfl
@[simp] theorem State.setCmu_mp (s : State) (u : Nat) (x : CmuUnit) : (s.setCmu u x).mp = s.mp := rfl
@[simp] theorem State.setCmu_pwr (s : State) (u : Nat) (x : CmuUnit) : (s.setCmu u x).pwr = s.pwr := rfl
@[simp] theorem State.setCmu_tel (s : State) (u : Nat) (x : CmuUnit) : (s.setCmu u x).tel = s.tel := rfl
@[simp] theorem State.setCmu_sec (s : State) (u : Nat) (x : CmuUnit) : (s.setCmu u x).sec = s.sec := rfl
@[simp] theorem State.setCmu_lnk (s : State) (u : Nat) (x : CmuUnit) : (s.setCmu u x).lnk = s.lnk := rfl
@[simp] theorem State.setCmu_pads (s : State) (u : Nat) (x : CmuUnit) : (s.setCmu u x).pads = s.pads := rfl
@[simp] theorem State.setCmu_out (s : State) (u : Nat) (x : CmuUnit) : (s.setCmu u x).out = s.out := rfl
@[simp] theorem State.setCmu_same (s : State) (u : Nat) (x : CmuUnit) : (s.setCmu u x).cmu u = x := Tbl.get_set_same _ _ _ _
theorem State.setCmu_ne (s : State) (u : Nat) (x : CmuUnit) (j : Nat) (h : j ≠ u) : (s.setCmu u x).cmu j = s.cmu j :=
  Tbl.get_set_ne _ _ _ h
@[simp] theorem State.setCmu_frond (s : State) (u : Nat) (x : CmuUnit) (j : Nat) : (s.setCmu u x).frond j = s.frond j := rfl
@[simp] theorem State.setCmu_inst (s : State) (u : Nat) (x : CmuUnit) (j : Nat) : (s.setCmu u x).inst j = s.inst j := rfl
@[simp] theorem State.setCmu_cmd (s : State) (u : Nat) (x : CmuUnit) (j : Nat) : (s.setCmu u x).cmd j = s.cmd j := rfl
@[simp] theorem State.setCmu_sq (s : State) (u : Nat) (x : CmuUnit) (i' n' : Nat) : (s.setCmu u x).sq i' n' = s.sq i' n' := rfl
@[simp] theorem State.setCmu_cq (s : State) (u : Nat) (x : CmuUnit) (i' n' : Nat) : (s.setCmu u x).cq i' n' = s.cq i' n' := rfl
@[simp] theorem State.setCmu_getMbx (s : State) (u : Nat) (x : CmuUnit) (j : Nat) : (s.setCmu u x).getMbx j = s.getMbx j := rfl
@[simp] theorem State.setCmu_getHaw (s : State) (u : Nat) (x : CmuUnit) (j : Nat) : (s.setCmu u x).getHaw j = s.getHaw j := rfl
@[simp] theorem State.setCmu_chan (s : State) (u : Nat) (x : CmuUnit) (j : Nat) : (s.setCmu u x).chan j = s.chan j := rfl
@[simp] theorem State.setCmu_smu (s : State) (u : Nat) (x : CmuUnit) (j : Nat) : (s.setCmu u x).smu j = s.smu j := rfl
@[simp] theorem State.setCmu_dgu (s : State) (u : Nat) (x : CmuUnit) (j : Nat) : (s.setCmu u x).dgu j = s.dgu j := rfl
@[simp] theorem State.setCmu_link (s : State) (u : Nat) (x : CmuUnit) (j : Nat) : (s.setCmu u x).link j = s.link j := rfl
@[simp] theorem State.setCmu_hostPort (s : State) (u : Nat) (x : CmuUnit) (j : Nat) : (s.setCmu u x).hostPort j = s.hostPort j := rfl
@[simp] theorem State.setCmu_conn (s : State) (u : Nat) (x : CmuUnit) (j : Nat) : (s.setCmu u x).conn j = s.conn j := rfl
@[simp] theorem State.setCmu_ssd (s : State) (u : Nat) (x : CmuUnit) (j : Nat) : (s.setCmu u x).ssd j = s.ssd j := rfl

/-! ## setSmu -/

@[simp] theorem State.setSmu_pending (s : State) (u : Nat) (x : SmuUnit) : (s.setSmu u x).pending = s.pending := rfl
@[simp] theorem State.setSmu_seed (s : State) (u : Nat) (x : SmuUnit) : (s.setSmu u x).seed = s.seed := rfl
@[simp] theorem State.setSmu_time (s : State) (u : Nat) (x : SmuUnit) : (s.setSmu u x).time = s.time := rfl
@[simp] theorem State.setSmu_fronds (s : State) (u : Nat) (x : SmuUnit) : (s.setSmu u x).fronds = s.fronds := rfl
@[simp] theorem State.setSmu_ring (s : State) (u : Nat) (x : SmuUnit) : (s.setSmu u x).ring = s.ring := rfl
@[simp] theorem State.setSmu_disp (s : State) (u : Nat) (x : SmuUnit) : (s.setSmu u x).disp = s.disp := rfl
@[simp] theorem State.setSmu_mem (s : State) (u : Nat) (x : SmuUnit) : (s.setSmu u x).mem = s.mem := rfl
@[simp] theorem State.setSmu_store (s : State) (u : Nat) (x : SmuUnit) : (s.setSmu u x).store = s.store := rfl
@[simp] theorem State.setSmu_insts (s : State) (u : Nat) (x : SmuUnit) : (s.setSmu u x).insts = s.insts := rfl
@[simp] theorem State.setSmu_mbx (s : State) (u : Nat) (x : SmuUnit) : (s.setSmu u x).mbx = s.mbx := rfl
@[simp] theorem State.setSmu_haw (s : State) (u : Nat) (x : SmuUnit) : (s.setSmu u x).haw = s.haw := rfl
@[simp] theorem State.setSmu_log (s : State) (u : Nat) (x : SmuUnit) : (s.setSmu u x).log = s.log := rfl
@[simp] theorem State.setSmu_mp (s : State) (u : Nat) (x : SmuUnit) : (s.setSmu u x).mp = s.mp := rfl
@[simp] theorem State.setSmu_pwr (s : State) (u : Nat) (x : SmuUnit) : (s.setSmu u x).pwr = s.pwr := rfl
@[simp] theorem State.setSmu_tel (s : State) (u : Nat) (x : SmuUnit) : (s.setSmu u x).tel = s.tel := rfl
@[simp] theorem State.setSmu_sec (s : State) (u : Nat) (x : SmuUnit) : (s.setSmu u x).sec = s.sec := rfl
@[simp] theorem State.setSmu_lnk (s : State) (u : Nat) (x : SmuUnit) : (s.setSmu u x).lnk = s.lnk := rfl
@[simp] theorem State.setSmu_pads (s : State) (u : Nat) (x : SmuUnit) : (s.setSmu u x).pads = s.pads := rfl
@[simp] theorem State.setSmu_out (s : State) (u : Nat) (x : SmuUnit) : (s.setSmu u x).out = s.out := rfl
@[simp] theorem State.setSmu_same (s : State) (u : Nat) (x : SmuUnit) : (s.setSmu u x).smu u = x := Tbl.get_set_same _ _ _ _
theorem State.setSmu_ne (s : State) (u : Nat) (x : SmuUnit) (j : Nat) (h : j ≠ u) : (s.setSmu u x).smu j = s.smu j :=
  Tbl.get_set_ne _ _ _ h
@[simp] theorem State.setSmu_frond (s : State) (u : Nat) (x : SmuUnit) (j : Nat) : (s.setSmu u x).frond j = s.frond j := rfl
@[simp] theorem State.setSmu_inst (s : State) (u : Nat) (x : SmuUnit) (j : Nat) : (s.setSmu u x).inst j = s.inst j := rfl
@[simp] theorem State.setSmu_cmd (s : State) (u : Nat) (x : SmuUnit) (j : Nat) : (s.setSmu u x).cmd j = s.cmd j := rfl
@[simp] theorem State.setSmu_sq (s : State) (u : Nat) (x : SmuUnit) (i' n' : Nat) : (s.setSmu u x).sq i' n' = s.sq i' n' := rfl
@[simp] theorem State.setSmu_cq (s : State) (u : Nat) (x : SmuUnit) (i' n' : Nat) : (s.setSmu u x).cq i' n' = s.cq i' n' := rfl
@[simp] theorem State.setSmu_getMbx (s : State) (u : Nat) (x : SmuUnit) (j : Nat) : (s.setSmu u x).getMbx j = s.getMbx j := rfl
@[simp] theorem State.setSmu_getHaw (s : State) (u : Nat) (x : SmuUnit) (j : Nat) : (s.setSmu u x).getHaw j = s.getHaw j := rfl
@[simp] theorem State.setSmu_chan (s : State) (u : Nat) (x : SmuUnit) (j : Nat) : (s.setSmu u x).chan j = s.chan j := rfl
@[simp] theorem State.setSmu_cmu (s : State) (u : Nat) (x : SmuUnit) (j : Nat) : (s.setSmu u x).cmu j = s.cmu j := rfl
@[simp] theorem State.setSmu_dgu (s : State) (u : Nat) (x : SmuUnit) (j : Nat) : (s.setSmu u x).dgu j = s.dgu j := rfl
@[simp] theorem State.setSmu_link (s : State) (u : Nat) (x : SmuUnit) (j : Nat) : (s.setSmu u x).link j = s.link j := rfl
@[simp] theorem State.setSmu_hostPort (s : State) (u : Nat) (x : SmuUnit) (j : Nat) : (s.setSmu u x).hostPort j = s.hostPort j := rfl
@[simp] theorem State.setSmu_conn (s : State) (u : Nat) (x : SmuUnit) (j : Nat) : (s.setSmu u x).conn j = s.conn j := rfl
@[simp] theorem State.setSmu_ssd (s : State) (u : Nat) (x : SmuUnit) (j : Nat) : (s.setSmu u x).ssd j = s.ssd j := rfl

/-! ## setDgu -/

@[simp] theorem State.setDgu_pending (s : State) (u : Nat) (x : DguUnit) : (s.setDgu u x).pending = s.pending := rfl
@[simp] theorem State.setDgu_seed (s : State) (u : Nat) (x : DguUnit) : (s.setDgu u x).seed = s.seed := rfl
@[simp] theorem State.setDgu_time (s : State) (u : Nat) (x : DguUnit) : (s.setDgu u x).time = s.time := rfl
@[simp] theorem State.setDgu_fronds (s : State) (u : Nat) (x : DguUnit) : (s.setDgu u x).fronds = s.fronds := rfl
@[simp] theorem State.setDgu_ring (s : State) (u : Nat) (x : DguUnit) : (s.setDgu u x).ring = s.ring := rfl
@[simp] theorem State.setDgu_disp (s : State) (u : Nat) (x : DguUnit) : (s.setDgu u x).disp = s.disp := rfl
@[simp] theorem State.setDgu_mem (s : State) (u : Nat) (x : DguUnit) : (s.setDgu u x).mem = s.mem := rfl
@[simp] theorem State.setDgu_store (s : State) (u : Nat) (x : DguUnit) : (s.setDgu u x).store = s.store := rfl
@[simp] theorem State.setDgu_insts (s : State) (u : Nat) (x : DguUnit) : (s.setDgu u x).insts = s.insts := rfl
@[simp] theorem State.setDgu_mbx (s : State) (u : Nat) (x : DguUnit) : (s.setDgu u x).mbx = s.mbx := rfl
@[simp] theorem State.setDgu_haw (s : State) (u : Nat) (x : DguUnit) : (s.setDgu u x).haw = s.haw := rfl
@[simp] theorem State.setDgu_log (s : State) (u : Nat) (x : DguUnit) : (s.setDgu u x).log = s.log := rfl
@[simp] theorem State.setDgu_mp (s : State) (u : Nat) (x : DguUnit) : (s.setDgu u x).mp = s.mp := rfl
@[simp] theorem State.setDgu_pwr (s : State) (u : Nat) (x : DguUnit) : (s.setDgu u x).pwr = s.pwr := rfl
@[simp] theorem State.setDgu_tel (s : State) (u : Nat) (x : DguUnit) : (s.setDgu u x).tel = s.tel := rfl
@[simp] theorem State.setDgu_sec (s : State) (u : Nat) (x : DguUnit) : (s.setDgu u x).sec = s.sec := rfl
@[simp] theorem State.setDgu_lnk (s : State) (u : Nat) (x : DguUnit) : (s.setDgu u x).lnk = s.lnk := rfl
@[simp] theorem State.setDgu_pads (s : State) (u : Nat) (x : DguUnit) : (s.setDgu u x).pads = s.pads := rfl
@[simp] theorem State.setDgu_out (s : State) (u : Nat) (x : DguUnit) : (s.setDgu u x).out = s.out := rfl
@[simp] theorem State.setDgu_same (s : State) (u : Nat) (x : DguUnit) : (s.setDgu u x).dgu u = x := Tbl.get_set_same _ _ _ _
theorem State.setDgu_ne (s : State) (u : Nat) (x : DguUnit) (j : Nat) (h : j ≠ u) : (s.setDgu u x).dgu j = s.dgu j :=
  Tbl.get_set_ne _ _ _ h
@[simp] theorem State.setDgu_frond (s : State) (u : Nat) (x : DguUnit) (j : Nat) : (s.setDgu u x).frond j = s.frond j := rfl
@[simp] theorem State.setDgu_inst (s : State) (u : Nat) (x : DguUnit) (j : Nat) : (s.setDgu u x).inst j = s.inst j := rfl
@[simp] theorem State.setDgu_cmd (s : State) (u : Nat) (x : DguUnit) (j : Nat) : (s.setDgu u x).cmd j = s.cmd j := rfl
@[simp] theorem State.setDgu_sq (s : State) (u : Nat) (x : DguUnit) (i' n' : Nat) : (s.setDgu u x).sq i' n' = s.sq i' n' := rfl
@[simp] theorem State.setDgu_cq (s : State) (u : Nat) (x : DguUnit) (i' n' : Nat) : (s.setDgu u x).cq i' n' = s.cq i' n' := rfl
@[simp] theorem State.setDgu_getMbx (s : State) (u : Nat) (x : DguUnit) (j : Nat) : (s.setDgu u x).getMbx j = s.getMbx j := rfl
@[simp] theorem State.setDgu_getHaw (s : State) (u : Nat) (x : DguUnit) (j : Nat) : (s.setDgu u x).getHaw j = s.getHaw j := rfl
@[simp] theorem State.setDgu_chan (s : State) (u : Nat) (x : DguUnit) (j : Nat) : (s.setDgu u x).chan j = s.chan j := rfl
@[simp] theorem State.setDgu_cmu (s : State) (u : Nat) (x : DguUnit) (j : Nat) : (s.setDgu u x).cmu j = s.cmu j := rfl
@[simp] theorem State.setDgu_smu (s : State) (u : Nat) (x : DguUnit) (j : Nat) : (s.setDgu u x).smu j = s.smu j := rfl
@[simp] theorem State.setDgu_link (s : State) (u : Nat) (x : DguUnit) (j : Nat) : (s.setDgu u x).link j = s.link j := rfl
@[simp] theorem State.setDgu_hostPort (s : State) (u : Nat) (x : DguUnit) (j : Nat) : (s.setDgu u x).hostPort j = s.hostPort j := rfl
@[simp] theorem State.setDgu_conn (s : State) (u : Nat) (x : DguUnit) (j : Nat) : (s.setDgu u x).conn j = s.conn j := rfl
@[simp] theorem State.setDgu_ssd (s : State) (u : Nat) (x : DguUnit) (j : Nat) : (s.setDgu u x).ssd j = s.ssd j := rfl

/-! ## setLink -/

@[simp] theorem State.setLink_pending (s : State) (l : Nat) (x : Link) : (s.setLink l x).pending = s.pending := rfl
@[simp] theorem State.setLink_seed (s : State) (l : Nat) (x : Link) : (s.setLink l x).seed = s.seed := rfl
@[simp] theorem State.setLink_time (s : State) (l : Nat) (x : Link) : (s.setLink l x).time = s.time := rfl
@[simp] theorem State.setLink_fronds (s : State) (l : Nat) (x : Link) : (s.setLink l x).fronds = s.fronds := rfl
@[simp] theorem State.setLink_ring (s : State) (l : Nat) (x : Link) : (s.setLink l x).ring = s.ring := rfl
@[simp] theorem State.setLink_disp (s : State) (l : Nat) (x : Link) : (s.setLink l x).disp = s.disp := rfl
@[simp] theorem State.setLink_mem (s : State) (l : Nat) (x : Link) : (s.setLink l x).mem = s.mem := rfl
@[simp] theorem State.setLink_eng (s : State) (l : Nat) (x : Link) : (s.setLink l x).eng = s.eng := rfl
@[simp] theorem State.setLink_store (s : State) (l : Nat) (x : Link) : (s.setLink l x).store = s.store := rfl
@[simp] theorem State.setLink_insts (s : State) (l : Nat) (x : Link) : (s.setLink l x).insts = s.insts := rfl
@[simp] theorem State.setLink_mbx (s : State) (l : Nat) (x : Link) : (s.setLink l x).mbx = s.mbx := rfl
@[simp] theorem State.setLink_haw (s : State) (l : Nat) (x : Link) : (s.setLink l x).haw = s.haw := rfl
@[simp] theorem State.setLink_log (s : State) (l : Nat) (x : Link) : (s.setLink l x).log = s.log := rfl
@[simp] theorem State.setLink_mp (s : State) (l : Nat) (x : Link) : (s.setLink l x).mp = s.mp := rfl
@[simp] theorem State.setLink_pwr (s : State) (l : Nat) (x : Link) : (s.setLink l x).pwr = s.pwr := rfl
@[simp] theorem State.setLink_tel (s : State) (l : Nat) (x : Link) : (s.setLink l x).tel = s.tel := rfl
@[simp] theorem State.setLink_sec (s : State) (l : Nat) (x : Link) : (s.setLink l x).sec = s.sec := rfl
@[simp] theorem State.setLink_pads (s : State) (l : Nat) (x : Link) : (s.setLink l x).pads = s.pads := rfl
@[simp] theorem State.setLink_out (s : State) (l : Nat) (x : Link) : (s.setLink l x).out = s.out := rfl
@[simp] theorem State.setLink_same (s : State) (l : Nat) (x : Link) : (s.setLink l x).link l = x := Tbl.get_set_same _ _ _ _
theorem State.setLink_ne (s : State) (l : Nat) (x : Link) (j : Nat) (h : j ≠ l) : (s.setLink l x).link j = s.link j :=
  Tbl.get_set_ne _ _ _ h
@[simp] theorem State.setLink_frond (s : State) (l : Nat) (x : Link) (j : Nat) : (s.setLink l x).frond j = s.frond j := rfl
@[simp] theorem State.setLink_inst (s : State) (l : Nat) (x : Link) (j : Nat) : (s.setLink l x).inst j = s.inst j := rfl
@[simp] theorem State.setLink_cmd (s : State) (l : Nat) (x : Link) (j : Nat) : (s.setLink l x).cmd j = s.cmd j := rfl
@[simp] theorem State.setLink_sq (s : State) (l : Nat) (x : Link) (i' n' : Nat) : (s.setLink l x).sq i' n' = s.sq i' n' := rfl
@[simp] theorem State.setLink_cq (s : State) (l : Nat) (x : Link) (i' n' : Nat) : (s.setLink l x).cq i' n' = s.cq i' n' := rfl
@[simp] theorem State.setLink_getMbx (s : State) (l : Nat) (x : Link) (j : Nat) : (s.setLink l x).getMbx j = s.getMbx j := rfl
@[simp] theorem State.setLink_getHaw (s : State) (l : Nat) (x : Link) (j : Nat) : (s.setLink l x).getHaw j = s.getHaw j := rfl
@[simp] theorem State.setLink_chan (s : State) (l : Nat) (x : Link) (j : Nat) : (s.setLink l x).chan j = s.chan j := rfl
@[simp] theorem State.setLink_cmu (s : State) (l : Nat) (x : Link) (j : Nat) : (s.setLink l x).cmu j = s.cmu j := rfl
@[simp] theorem State.setLink_smu (s : State) (l : Nat) (x : Link) (j : Nat) : (s.setLink l x).smu j = s.smu j := rfl
@[simp] theorem State.setLink_dgu (s : State) (l : Nat) (x : Link) (j : Nat) : (s.setLink l x).dgu j = s.dgu j := rfl
@[simp] theorem State.setLink_hostPort (s : State) (l : Nat) (x : Link) (j : Nat) : (s.setLink l x).hostPort j = s.hostPort j := rfl
@[simp] theorem State.setLink_conn (s : State) (l : Nat) (x : Link) (j : Nat) : (s.setLink l x).conn j = s.conn j := rfl
@[simp] theorem State.setLink_ssd (s : State) (l : Nat) (x : Link) (j : Nat) : (s.setLink l x).ssd j = s.ssd j := rfl

/-! ## setHostPort -/

@[simp] theorem State.setHostPort_pending (s : State) (p : Nat) (x : HostPort) : (s.setHostPort p x).pending = s.pending := rfl
@[simp] theorem State.setHostPort_seed (s : State) (p : Nat) (x : HostPort) : (s.setHostPort p x).seed = s.seed := rfl
@[simp] theorem State.setHostPort_time (s : State) (p : Nat) (x : HostPort) : (s.setHostPort p x).time = s.time := rfl
@[simp] theorem State.setHostPort_fronds (s : State) (p : Nat) (x : HostPort) : (s.setHostPort p x).fronds = s.fronds := rfl
@[simp] theorem State.setHostPort_ring (s : State) (p : Nat) (x : HostPort) : (s.setHostPort p x).ring = s.ring := rfl
@[simp] theorem State.setHostPort_disp (s : State) (p : Nat) (x : HostPort) : (s.setHostPort p x).disp = s.disp := rfl
@[simp] theorem State.setHostPort_mem (s : State) (p : Nat) (x : HostPort) : (s.setHostPort p x).mem = s.mem := rfl
@[simp] theorem State.setHostPort_eng (s : State) (p : Nat) (x : HostPort) : (s.setHostPort p x).eng = s.eng := rfl
@[simp] theorem State.setHostPort_store (s : State) (p : Nat) (x : HostPort) : (s.setHostPort p x).store = s.store := rfl
@[simp] theorem State.setHostPort_insts (s : State) (p : Nat) (x : HostPort) : (s.setHostPort p x).insts = s.insts := rfl
@[simp] theorem State.setHostPort_mbx (s : State) (p : Nat) (x : HostPort) : (s.setHostPort p x).mbx = s.mbx := rfl
@[simp] theorem State.setHostPort_haw (s : State) (p : Nat) (x : HostPort) : (s.setHostPort p x).haw = s.haw := rfl
@[simp] theorem State.setHostPort_log (s : State) (p : Nat) (x : HostPort) : (s.setHostPort p x).log = s.log := rfl
@[simp] theorem State.setHostPort_mp (s : State) (p : Nat) (x : HostPort) : (s.setHostPort p x).mp = s.mp := rfl
@[simp] theorem State.setHostPort_pwr (s : State) (p : Nat) (x : HostPort) : (s.setHostPort p x).pwr = s.pwr := rfl
@[simp] theorem State.setHostPort_tel (s : State) (p : Nat) (x : HostPort) : (s.setHostPort p x).tel = s.tel := rfl
@[simp] theorem State.setHostPort_sec (s : State) (p : Nat) (x : HostPort) : (s.setHostPort p x).sec = s.sec := rfl
@[simp] theorem State.setHostPort_pads (s : State) (p : Nat) (x : HostPort) : (s.setHostPort p x).pads = s.pads := rfl
@[simp] theorem State.setHostPort_out (s : State) (p : Nat) (x : HostPort) : (s.setHostPort p x).out = s.out := rfl
@[simp] theorem State.setHostPort_same (s : State) (p : Nat) (x : HostPort) : (s.setHostPort p x).hostPort p = x := Tbl.get_set_same _ _ _ _
theorem State.setHostPort_ne (s : State) (p : Nat) (x : HostPort) (j : Nat) (h : j ≠ p) : (s.setHostPort p x).hostPort j = s.hostPort j :=
  Tbl.get_set_ne _ _ _ h
@[simp] theorem State.setHostPort_frond (s : State) (p : Nat) (x : HostPort) (j : Nat) : (s.setHostPort p x).frond j = s.frond j := rfl
@[simp] theorem State.setHostPort_inst (s : State) (p : Nat) (x : HostPort) (j : Nat) : (s.setHostPort p x).inst j = s.inst j := rfl
@[simp] theorem State.setHostPort_cmd (s : State) (p : Nat) (x : HostPort) (j : Nat) : (s.setHostPort p x).cmd j = s.cmd j := rfl
@[simp] theorem State.setHostPort_sq (s : State) (p : Nat) (x : HostPort) (i' n' : Nat) : (s.setHostPort p x).sq i' n' = s.sq i' n' := rfl
@[simp] theorem State.setHostPort_cq (s : State) (p : Nat) (x : HostPort) (i' n' : Nat) : (s.setHostPort p x).cq i' n' = s.cq i' n' := rfl
@[simp] theorem State.setHostPort_getMbx (s : State) (p : Nat) (x : HostPort) (j : Nat) : (s.setHostPort p x).getMbx j = s.getMbx j := rfl
@[simp] theorem State.setHostPort_getHaw (s : State) (p : Nat) (x : HostPort) (j : Nat) : (s.setHostPort p x).getHaw j = s.getHaw j := rfl
@[simp] theorem State.setHostPort_chan (s : State) (p : Nat) (x : HostPort) (j : Nat) : (s.setHostPort p x).chan j = s.chan j := rfl
@[simp] theorem State.setHostPort_cmu (s : State) (p : Nat) (x : HostPort) (j : Nat) : (s.setHostPort p x).cmu j = s.cmu j := rfl
@[simp] theorem State.setHostPort_smu (s : State) (p : Nat) (x : HostPort) (j : Nat) : (s.setHostPort p x).smu j = s.smu j := rfl
@[simp] theorem State.setHostPort_dgu (s : State) (p : Nat) (x : HostPort) (j : Nat) : (s.setHostPort p x).dgu j = s.dgu j := rfl
@[simp] theorem State.setHostPort_link (s : State) (p : Nat) (x : HostPort) (j : Nat) : (s.setHostPort p x).link j = s.link j := rfl
@[simp] theorem State.setHostPort_conn (s : State) (p : Nat) (x : HostPort) (j : Nat) : (s.setHostPort p x).conn j = s.conn j := rfl
@[simp] theorem State.setHostPort_ssd (s : State) (p : Nat) (x : HostPort) (j : Nat) : (s.setHostPort p x).ssd j = s.ssd j := rfl

/-! ## setConn -/

@[simp] theorem State.setConn_pending (s : State) (t : Nat) (x : SpdmConn) : (s.setConn t x).pending = s.pending := rfl
@[simp] theorem State.setConn_seed (s : State) (t : Nat) (x : SpdmConn) : (s.setConn t x).seed = s.seed := rfl
@[simp] theorem State.setConn_time (s : State) (t : Nat) (x : SpdmConn) : (s.setConn t x).time = s.time := rfl
@[simp] theorem State.setConn_fronds (s : State) (t : Nat) (x : SpdmConn) : (s.setConn t x).fronds = s.fronds := rfl
@[simp] theorem State.setConn_ring (s : State) (t : Nat) (x : SpdmConn) : (s.setConn t x).ring = s.ring := rfl
@[simp] theorem State.setConn_disp (s : State) (t : Nat) (x : SpdmConn) : (s.setConn t x).disp = s.disp := rfl
@[simp] theorem State.setConn_mem (s : State) (t : Nat) (x : SpdmConn) : (s.setConn t x).mem = s.mem := rfl
@[simp] theorem State.setConn_eng (s : State) (t : Nat) (x : SpdmConn) : (s.setConn t x).eng = s.eng := rfl
@[simp] theorem State.setConn_store (s : State) (t : Nat) (x : SpdmConn) : (s.setConn t x).store = s.store := rfl
@[simp] theorem State.setConn_insts (s : State) (t : Nat) (x : SpdmConn) : (s.setConn t x).insts = s.insts := rfl
@[simp] theorem State.setConn_mbx (s : State) (t : Nat) (x : SpdmConn) : (s.setConn t x).mbx = s.mbx := rfl
@[simp] theorem State.setConn_haw (s : State) (t : Nat) (x : SpdmConn) : (s.setConn t x).haw = s.haw := rfl
@[simp] theorem State.setConn_log (s : State) (t : Nat) (x : SpdmConn) : (s.setConn t x).log = s.log := rfl
@[simp] theorem State.setConn_mp (s : State) (t : Nat) (x : SpdmConn) : (s.setConn t x).mp = s.mp := rfl
@[simp] theorem State.setConn_pwr (s : State) (t : Nat) (x : SpdmConn) : (s.setConn t x).pwr = s.pwr := rfl
@[simp] theorem State.setConn_tel (s : State) (t : Nat) (x : SpdmConn) : (s.setConn t x).tel = s.tel := rfl
@[simp] theorem State.setConn_lnk (s : State) (t : Nat) (x : SpdmConn) : (s.setConn t x).lnk = s.lnk := rfl
@[simp] theorem State.setConn_pads (s : State) (t : Nat) (x : SpdmConn) : (s.setConn t x).pads = s.pads := rfl
@[simp] theorem State.setConn_out (s : State) (t : Nat) (x : SpdmConn) : (s.setConn t x).out = s.out := rfl
@[simp] theorem State.setConn_same (s : State) (t : Nat) (x : SpdmConn) : (s.setConn t x).conn t = x := Tbl.get_set_same _ _ _ _
theorem State.setConn_ne (s : State) (t : Nat) (x : SpdmConn) (j : Nat) (h : j ≠ t) : (s.setConn t x).conn j = s.conn j :=
  Tbl.get_set_ne _ _ _ h
@[simp] theorem State.setConn_frond (s : State) (t : Nat) (x : SpdmConn) (j : Nat) : (s.setConn t x).frond j = s.frond j := rfl
@[simp] theorem State.setConn_inst (s : State) (t : Nat) (x : SpdmConn) (j : Nat) : (s.setConn t x).inst j = s.inst j := rfl
@[simp] theorem State.setConn_cmd (s : State) (t : Nat) (x : SpdmConn) (j : Nat) : (s.setConn t x).cmd j = s.cmd j := rfl
@[simp] theorem State.setConn_sq (s : State) (t : Nat) (x : SpdmConn) (i' n' : Nat) : (s.setConn t x).sq i' n' = s.sq i' n' := rfl
@[simp] theorem State.setConn_cq (s : State) (t : Nat) (x : SpdmConn) (i' n' : Nat) : (s.setConn t x).cq i' n' = s.cq i' n' := rfl
@[simp] theorem State.setConn_getMbx (s : State) (t : Nat) (x : SpdmConn) (j : Nat) : (s.setConn t x).getMbx j = s.getMbx j := rfl
@[simp] theorem State.setConn_getHaw (s : State) (t : Nat) (x : SpdmConn) (j : Nat) : (s.setConn t x).getHaw j = s.getHaw j := rfl
@[simp] theorem State.setConn_chan (s : State) (t : Nat) (x : SpdmConn) (j : Nat) : (s.setConn t x).chan j = s.chan j := rfl
@[simp] theorem State.setConn_cmu (s : State) (t : Nat) (x : SpdmConn) (j : Nat) : (s.setConn t x).cmu j = s.cmu j := rfl
@[simp] theorem State.setConn_smu (s : State) (t : Nat) (x : SpdmConn) (j : Nat) : (s.setConn t x).smu j = s.smu j := rfl
@[simp] theorem State.setConn_dgu (s : State) (t : Nat) (x : SpdmConn) (j : Nat) : (s.setConn t x).dgu j = s.dgu j := rfl
@[simp] theorem State.setConn_link (s : State) (t : Nat) (x : SpdmConn) (j : Nat) : (s.setConn t x).link j = s.link j := rfl
@[simp] theorem State.setConn_hostPort (s : State) (t : Nat) (x : SpdmConn) (j : Nat) : (s.setConn t x).hostPort j = s.hostPort j := rfl
@[simp] theorem State.setConn_ssd (s : State) (t : Nat) (x : SpdmConn) (j : Nat) : (s.setConn t x).ssd j = s.ssd j := rfl

/-! ## setSsd -/

@[simp] theorem State.setSsd_pending (s : State) (p : Nat) (x : Ssd) : (s.setSsd p x).pending = s.pending := rfl
@[simp] theorem State.setSsd_seed (s : State) (p : Nat) (x : Ssd) : (s.setSsd p x).seed = s.seed := rfl
@[simp] theorem State.setSsd_time (s : State) (p : Nat) (x : Ssd) : (s.setSsd p x).time = s.time := rfl
@[simp] theorem State.setSsd_fronds (s : State) (p : Nat) (x : Ssd) : (s.setSsd p x).fronds = s.fronds := rfl
@[simp] theorem State.setSsd_ring (s : State) (p : Nat) (x : Ssd) : (s.setSsd p x).ring = s.ring := rfl
@[simp] theorem State.setSsd_disp (s : State) (p : Nat) (x : Ssd) : (s.setSsd p x).disp = s.disp := rfl
@[simp] theorem State.setSsd_mem (s : State) (p : Nat) (x : Ssd) : (s.setSsd p x).mem = s.mem := rfl
@[simp] theorem State.setSsd_eng (s : State) (p : Nat) (x : Ssd) : (s.setSsd p x).eng = s.eng := rfl
@[simp] theorem State.setSsd_insts (s : State) (p : Nat) (x : Ssd) : (s.setSsd p x).insts = s.insts := rfl
@[simp] theorem State.setSsd_mbx (s : State) (p : Nat) (x : Ssd) : (s.setSsd p x).mbx = s.mbx := rfl
@[simp] theorem State.setSsd_haw (s : State) (p : Nat) (x : Ssd) : (s.setSsd p x).haw = s.haw := rfl
@[simp] theorem State.setSsd_log (s : State) (p : Nat) (x : Ssd) : (s.setSsd p x).log = s.log := rfl
@[simp] theorem State.setSsd_mp (s : State) (p : Nat) (x : Ssd) : (s.setSsd p x).mp = s.mp := rfl
@[simp] theorem State.setSsd_pwr (s : State) (p : Nat) (x : Ssd) : (s.setSsd p x).pwr = s.pwr := rfl
@[simp] theorem State.setSsd_tel (s : State) (p : Nat) (x : Ssd) : (s.setSsd p x).tel = s.tel := rfl
@[simp] theorem State.setSsd_sec (s : State) (p : Nat) (x : Ssd) : (s.setSsd p x).sec = s.sec := rfl
@[simp] theorem State.setSsd_lnk (s : State) (p : Nat) (x : Ssd) : (s.setSsd p x).lnk = s.lnk := rfl
@[simp] theorem State.setSsd_pads (s : State) (p : Nat) (x : Ssd) : (s.setSsd p x).pads = s.pads := rfl
@[simp] theorem State.setSsd_out (s : State) (p : Nat) (x : Ssd) : (s.setSsd p x).out = s.out := rfl
@[simp] theorem State.setSsd_same (s : State) (p : Nat) (x : Ssd) : (s.setSsd p x).ssd p = x := Tbl.get_set_same _ _ _ _
theorem State.setSsd_ne (s : State) (p : Nat) (x : Ssd) (j : Nat) (h : j ≠ p) : (s.setSsd p x).ssd j = s.ssd j :=
  Tbl.get_set_ne _ _ _ h
@[simp] theorem State.setSsd_frond (s : State) (p : Nat) (x : Ssd) (j : Nat) : (s.setSsd p x).frond j = s.frond j := rfl
@[simp] theorem State.setSsd_inst (s : State) (p : Nat) (x : Ssd) (j : Nat) : (s.setSsd p x).inst j = s.inst j := rfl
@[simp] theorem State.setSsd_cmd (s : State) (p : Nat) (x : Ssd) (j : Nat) : (s.setSsd p x).cmd j = s.cmd j := rfl
@[simp] theorem State.setSsd_sq (s : State) (p : Nat) (x : Ssd) (i' n' : Nat) : (s.setSsd p x).sq i' n' = s.sq i' n' := rfl
@[simp] theorem State.setSsd_cq (s : State) (p : Nat) (x : Ssd) (i' n' : Nat) : (s.setSsd p x).cq i' n' = s.cq i' n' := rfl
@[simp] theorem State.setSsd_getMbx (s : State) (p : Nat) (x : Ssd) (j : Nat) : (s.setSsd p x).getMbx j = s.getMbx j := rfl
@[simp] theorem State.setSsd_getHaw (s : State) (p : Nat) (x : Ssd) (j : Nat) : (s.setSsd p x).getHaw j = s.getHaw j := rfl
@[simp] theorem State.setSsd_chan (s : State) (p : Nat) (x : Ssd) (j : Nat) : (s.setSsd p x).chan j = s.chan j := rfl
@[simp] theorem State.setSsd_cmu (s : State) (p : Nat) (x : Ssd) (j : Nat) : (s.setSsd p x).cmu j = s.cmu j := rfl
@[simp] theorem State.setSsd_smu (s : State) (p : Nat) (x : Ssd) (j : Nat) : (s.setSsd p x).smu j = s.smu j := rfl
@[simp] theorem State.setSsd_dgu (s : State) (p : Nat) (x : Ssd) (j : Nat) : (s.setSsd p x).dgu j = s.dgu j := rfl
@[simp] theorem State.setSsd_link (s : State) (p : Nat) (x : Ssd) (j : Nat) : (s.setSsd p x).link j = s.link j := rfl
@[simp] theorem State.setSsd_hostPort (s : State) (p : Nat) (x : Ssd) (j : Nat) : (s.setSsd p x).hostPort j = s.hostPort j := rfl
@[simp] theorem State.setSsd_conn (s : State) (p : Nat) (x : Ssd) (j : Nat) : (s.setSsd p x).conn j = s.conn j := rfl

end Sys2Proof.Machine
end

