-- ==== Sys2Proof/Laws/Areas.lean ====
section
/-!
SUPPORT. What the operations over state pages, areas, ready lists and the output gate do, each said once.
-/

namespace Sys2Proof.Machine

/-! ## State pages and areas -/

/-- Pages taken together come in the number asked for. -/
theorem takePages_length (slot i die n : Nat) (s t : State) (l : List Nat) (h : takePages slot i die n s = (.ok l, t)) :
    l.length = n := by
  induction n generalizing s t l with
  | zero =>
    obtain ⟨rfl, -⟩ : [] = l ∧ s = t := by simpa [takePages] using h
    rfl
  | succ n ih =>
    simp only [takePages] at h
    split at h
    · simp at h
    · split at h
      · simp at h
      · next hr =>
        obtain ⟨rfl, -⟩ : _ ∧ _ := by simpa using h
        simpa using ih _ _ _ hr

@[simp] theorem PipeRun.area_setArea (p : PipeRun) (a : Area) : (p.setArea a).area a.kind a.id = a := by
  have h : ∀ l : List Area, (l.filter fun b => !(decide (b.kind = a.kind) && decide (b.id = a.id))).find?
      (fun x => decide (x.kind = a.kind) && decide (x.id = a.id)) = none := by
    intro l
    rw [List.find?_eq_none]
    intro x hx
    have := (List.mem_filter.1 hx).2
    revert this
    cases decide (x.kind = a.kind) && decide (x.id = a.id) <;> decide
  simp only [PipeRun.area, PipeRun.setArea, List.find?_append, h]
  simp

/-- An area keeps the kind and number by which it is found. -/
theorem PipeRun.area_key (p : PipeRun) (k : AreaKind) (id : Nat) : (p.area k id).kind = k ∧ (p.area k id).id = id := by
  unfold PipeRun.area
  cases h : p.areas.find? fun a => decide (a.kind = k) && decide (a.id = id) with
  | none => simp
  | some a => simpa using List.find?_some h

/-- An area that grows by n bytes holds n more, behind the pages that it had. -/
theorem growArea_area (slot i die : Nat) (k : AreaKind) (id n : Nat) (p p' : PipeRun) (s t : State)
    (h : growArea slot i die k id n p s = (.ok p', t)) :
    (p'.area k id).used = (p.area k id).used + n ∧ ∃ ps : List Nat, (p'.area k id).pages = (p.area k id).pages ++ ps := by
  simp only [growArea] at h
  split at h
  · simp at h
  · next ps _ _ =>
    obtain ⟨rfl, -⟩ : _ ∧ _ := by simpa using h
    obtain ⟨hk, hi⟩ := p.area_key k id
    have := p.area_setArea { p.area k id with pages := (p.area k id).pages ++ ps, used := (p.area k id).used + n }
    simp only [hk, hi] at this ⊢
    exact ⟨by rw [this], ps, by rw [this]⟩

/-! ## The choice among ready lists (R289) -/

/-- A free choice falls on one of those offered. -/
theorem State.choose_mem {α : Type} (s : State) (l : List α) (x : α) (h : (s.choose l).1 = some x) : x ∈ l := by
  unfold State.choose at h
  split at h
  · simp at h
  · simpa using h.symm
  · exact List.mem_of_getElem? h

/-- The next in cyclic order is one of the list. -/
theorem nextAfter_mem (n m : Nat) (l : List Nat) (h : nextAfter n l = some m) : m ∈ l := by
  unfold nextAfter at h
  split at h
  · next i hi =>
    obtain rfl : i = m := by simpa using h
    exact (List.mem_filter.1 (List.min?_mem hi)).1
  · exact List.min?_mem h

theorem keepTurn_mem (n m : Nat) (l : List Nat) (h : keepTurn n l = some m) : m ∈ l := by
  unfold keepTurn at h
  split at h
  · next hc =>
    obtain rfl : n = m := by simpa using h
    simpa using hc
  · exact nextAfter_mem _ _ _ h

/-- Deficit round robin takes one of the instances that wait. -/
theorem chooseHeavy_mem (cls i : Nat) (l : List Nat) (s : State) (h : (chooseHeavy cls l s).1 = some i) : i ∈ l := by
  simp only [chooseHeavy] at h
  split at h
  · cases h
  · next k hk =>
    obtain rfl : k = i := by injection h
    exact (List.mem_filter.1 (keepTurn_mem _ _ _ hk)).1

theorem le_foldl_max (l : List Nat) (a : Nat) : a ≤ l.foldl max a ∧ ∀ x ∈ l, x ≤ l.foldl max a := by
  induction l generalizing a with
  | nil => simp
  | cons b l ih =>
    obtain ⟨h1, h2⟩ := ih (max a b)
    refine ⟨by simp only [List.foldl_cons]; omega, fun x hx => ?_⟩
    rcases List.mem_cons.1 hx with rfl | hx
    · simp only [List.foldl_cons]; omega
    · exact h2 x hx

/-- The cursor chosen is one of those offered, and none offered has a higher level (R289). -/
theorem chooseCursor_mem (cls n : Nat) (x : Cursor) (l : List Choice) (s : State) (h : (chooseCursor cls l s).1 = some (n, x)) :
    ∃ r, (n, r, x) ∈ l ∧ ∀ y ∈ l, y.2.1.level ≤ r.level := by
  simp only [chooseCursor] at h
  split at h
  · cases h
  · obtain ⟨⟨a, r, y⟩, hf, he⟩ := Option.map_eq_some_iff.1 h
    obtain ⟨rfl, rfl⟩ : a = n ∧ y = x := by simpa using he
    obtain ⟨hm, ht⟩ := List.mem_filter.1 (List.mem_of_find?_eq_some hf)
    refine ⟨r, hm, fun z hz => ?_⟩
    have ht : r.level = (l.map fun x => x.2.1.level).foldl max 0 := by simpa using ht
    exact ht ▸ (le_foldl_max _ 0).2 _ (List.mem_map_of_mem hz)

/-! ## The output gate (R487) -/

/-- With the gate open an output takes its number and is released. -/
theorem gateOut_open (o : GateOut) (rel : State → State) (s : State) (h : s.mp.arbitrating = false) :
    gateOut o rel s = rel { s with mp := { s.mp with outSeq := s.mp.outSeq + 1 } } := by
  simp [gateOut, h]

/-- During an arbitration it waits behind the others with its number, and nothing else changes. -/
theorem gateOut_closed (o : GateOut) (rel : State → State) (s : State) (h : s.mp.arbitrating = true) :
    gateOut o rel s = { s with mp := { s.mp with outSeq := s.mp.outSeq + 1, gate := s.mp.gate ++ [(s.mp.outSeq, o)] } } := by
  simp [gateOut, h]

/-! ## Instruction words (R160, R161, R197, R198) -/

/-- A listed word is its command. -/
theorem frondWord_listed (f : Fin 128) (w : FrondWord) (i : Instr) (s : State) (h : decodeFrond f w = some i) :
    frondWord f w s = exec i s := by
  simp [frondWord, h]

end Sys2Proof.Machine
end

