-- ==== Sys2Proof/Laws/Frond.lean ====
section
/-!
SUPPORT. What running one instruction on a frond does: it retires, raises an exception or waits.
-/

namespace Sys2Proof.Machine

/-- Reading g0 gives zero, whatever stands behind it (R154). -/
@[simp] theorem Frond.gr_zero (fr : Frond) : fr.gr 0 = 0 := rfl

/-- A write to g0 is discarded (R154). -/
@[simp] theorem Frond.setG_zero (fr : Frond) (x : W64) : fr.setG 0 x = fr := rfl

theorem Frond.gr_setG_same (fr : Frond) (d : BitVec 5) (x : W64) (h : d ≠ 0) : (fr.setG d x).gr d = x := by
  unfold Frond.gr Frond.setG
  rw [if_neg h, if_neg h]
  exact Tbl.get_set_same _ _ _ _

theorem Frond.gr_setG_ne (fr : Frond) (d r : BitVec 5) (x : W64) (h : r ≠ d) : (fr.setG d x).gr r = fr.gr r := by
  unfold Frond.gr Frond.setG
  split
  · rfl
  · split
    · rfl
    · exact Tbl.get_set_ne _ _ _ fun e => h (BitVec.eq_of_toNat_eq e)

@[simp] theorem Frond.vr_setV_same (fr : Frond) (n : Nat) (x : BitVec 4096) : (fr.setV n x).vr n = x := Tbl.get_set_same _ _ _ _
@[simp] theorem Frond.mr_setM_same (fr : Frond) (n : Nat) (x : BitVec 512) : (fr.setM n x).mr n = x := Tbl.get_set_same _ _ _ _

/-- Outside K level with interrupts enabled, an instruction boundary without requests changes nothing. -/
theorem takeAsync_none (f : Nat) (s : State) (h1 : (s.frond f).stopReq = false) (h2 : (s.frond f).budgetReq = false) :
    takeAsync f s = s := by
  unfold takeAsync
  simp [h1, h2]

/-- The call of an operator loads fc.budget and changes no other register (R148). -/
theorem enterOp_eq (s : State) (fr : Frond) (pc : W64) : ∃ b : W64, enterOp s fr pc = { fr with budget := b } := by
  unfold enterOp
  split
  · exact ⟨_, rfl⟩
  · split
    · exact ⟨_, rfl⟩
    · exact ⟨_, rfl⟩

@[simp] theorem enterOp_stopReq (s : State) (fr : Frond) (pc : W64) : (enterOp s fr pc).stopReq = fr.stopReq := by
  obtain ⟨b, h⟩ := enterOp_eq s fr pc; rw [h]

@[simp] theorem enterOp_budgetReq (s : State) (fr : Frond) (pc : W64) : (enterOp s fr pc).budgetReq = fr.budgetReq := by
  obtain ⟨b, h⟩ := enterOp_eq s fr pc; rw [h]

/-- What an operator's call loads does not depend on the cycles counted. -/
theorem enterOp_cyc (s : State) (fr : Frond) (pc c : W64) :
    enterOp s { fr with cyc := c } pc = { enterOp s fr pc with cyc := c } := by
  unfold enterOp
  have h : opSpans s { fr with cyc := c } = opSpans s fr := rfl
  rw [h]
  split
  · rfl
  · dsimp only
    split <;> rfl

/-- A frond that runs no item enters no operator. -/
theorem enterOp_idle (s : State) (fr : Frond) (pc : W64) (h : fr.item = none) : enterOp s fr pc = fr := by
  unfold enterOp opSpans
  rw [h]
  rfl

/-- An instruction that retires without an asynchronous request. -/
theorem retireInstr_quiet (f : Nat) (s : State) (k : Bool) (fr : Frond) (pc : W64) (h1 : fr.stopReq = false)
    (h2 : fr.budgetReq = false) (h3 : k = true ∨ fr.budget = 0) :
    ∃ n : W64, retireInstr f k fr pc s =
      retired f s fr pc n := by
  refine ⟨BitVec.ofNat 64 (Config.cycles s.seed), ?_⟩
  unfold retireInstr retired
  have hk : (k || decide (fr.budget = 0)) = true := by rcases h3 with h | h <;> simp [h]
  obtain ⟨b, hb⟩ := enterOp_eq s fr pc
  simp only [Frond.passCycles, hk, if_true, enterOp_cyc, hb]
  apply takeAsync_none <;> simp [h1, h2]

/-- On a quiet frond an operation that retires leaves what it makes of the registers. -/
theorem runFrond_next (f : Nat) (op : State → Frond → FOut) (s s' : State) (fr : Frond) (pc : W64) (q : Quiet f s)
    (h : op s (s.frond f) = .next s' fr pc) (h1 : fr.stopReq = false) (h2 : fr.budgetReq = false)
    (h3 : (s.frond f).isK = true ∨ fr.budget = 0) : ∃ n : W64, runFrond f op s = retired f s' fr pc n := by
  obtain ⟨n, hn⟩ := retireInstr_quiet f s' (s.frond f).isK fr pc h1 h2 h3
  refine ⟨n, ?_⟩
  unfold runFrond
  simp only [q.running, q.clock, q.fetch, fetched, q.listed, h, Bool.not_true, Bool.or_self, Bool.false_eq_true, if_false, if_true]
  exact hn

/-- A halted frond, or one without a clock, executes nothing. -/
theorem runFrond_off (f : Nat) (op : State → Frond → FOut) (s : State)
    (h : ((s.frond f).halted || !clockOn f s) = true) : runFrond f op s = s := by
  unfold runFrond
  simp [h]

/-- An instruction that waits changes nothing. -/
theorem runFrond_stall (f : Nat) (op : State → Frond → FOut) (s : State) (r : Ready f s)
    (h : op s (s.frond f) = .stall) : runFrond f op s = s := by
  unfold runFrond
  simp [r.running, r.clock, r.fetch, fetched, r.listed, h]

/-- An instruction that raises an exception. -/
theorem runFrond_exc (f : Nat) (op : State → Frond → FOut) (s s' : State) (fr : Frond) (c d : Nat) (tv : Option Nat)
    (r : Ready f s) (h : op s (s.frond f) = .exc s' fr c d tv) :
    runFrond f op s =
      takeException f (excTime (squashInstr fr (s'.freshNat).1) (s.frond f).isK (s'.freshNat).2).1 false c d tv
        (excTime (squashInstr fr (s'.freshNat).1) (s.frond f).isK (s'.freshNat).2).2 := by
  unfold runFrond
  simp [r.running, r.clock, r.fetch, fetched, r.listed, h]

/-- A vector access that faults held back every younger instruction: none is squashed with it (R223). -/
theorem runFrond_heldExc (f : Nat) (op : State → Frond → FOut) (s s' : State) (fr : Frond) (c tv : Nat)
    (r : Ready f s) (h : op s (s.frond f) = .heldExc s' fr c tv) :
    runFrond f op s =
      takeException f (excTime (squashInstr fr 0) (s.frond f).isK s').1 false c 0 (some tv)
        (excTime (squashInstr fr 0) (s.frond f).isK s').2 := by
  unfold runFrond
  simp [r.running, r.clock, r.fetch, fetched, r.listed, h]

/-- Exception entry outside a handler (R174): what the frond's registers become. -/
theorem takeException_frond (f : Nat) (fr : Frond) (async : Bool) (c d : Nat) (tv : Option Nat) (s : State)
    (h : fr.exl = false) :
    ∃ x : W64, (takeException f fr async c d tv s).frond f = Frond.flush { fr with
      epc := fr.pc, cause := BitVec.ofNat 64 ((if async then 2 ^ 63 else 0) + 2 ^ 8 * d + c), tval := x,
      status := statusOf true fr.ie fr.isK true, pc := fr.evec } := by
  unfold takeException
  simp only [h, Bool.false_eq_true, if_false, State.setFrond_same]
  exact ⟨_, rfl⟩

/-- An operation on a frond's registers alone completes, when it leaves requests and budget alone. -/
theorem completes_of_next (i : Instr) (f : Fin 128) (pre : Frond → Prop) (g : Frond → Frond) (nx : Frond → W64)
    (op : State → Frond → FOut) (he : ∀ s, exec i s = .next (runFrond f.val op s))
    (ho : ∀ s, Quiet f.val s → pre (s.frond f.val) → op s (s.frond f.val) = .next s (g (s.frond f.val)) (nx (s.frond f.val)))
    (h1 : ∀ fr, (g fr).stopReq = fr.stopReq) (h2 : ∀ fr, (g fr).budgetReq = fr.budgetReq)
    (h3 : ∀ fr, pre fr → fr.isK = true ∨ (g fr).budget = fr.budget) : Completes i f pre g nx := by
  intro s q hp
  obtain ⟨n, hn⟩ := runFrond_next f.val op s s _ _ q (ho s q hp) (by rw [h1]; exact q.stop) (by rw [h2]; exact q.budget)
    (by
      rcases q.still with h | h
      · exact .inl h
      · rcases h3 _ hp with h' | h'
        · exact .inl h'
        · exact .inr (by rw [h', h]))
  exact ⟨n, by rw [he, hn]⟩

/-! ## Writes of registers leave the requests and the budget alone -/

@[simp] theorem Frond.setG_stopReq (fr : Frond) (d : BitVec 5) (x : W64) : (fr.setG d x).stopReq = fr.stopReq := by
  unfold Frond.setG; split <;> rfl
@[simp] theorem Frond.setG_budgetReq (fr : Frond) (d : BitVec 5) (x : W64) : (fr.setG d x).budgetReq = fr.budgetReq := by
  unfold Frond.setG; split <;> rfl
@[simp] theorem Frond.setG_budget (fr : Frond) (d : BitVec 5) (x : W64) : (fr.setG d x).budget = fr.budget := by
  unfold Frond.setG; split <;> rfl
@[simp] theorem Frond.setV_stopReq (fr : Frond) (d : Nat) (x : BitVec 4096) : (fr.setV d x).stopReq = fr.stopReq := rfl
@[simp] theorem Frond.setV_budgetReq (fr : Frond) (d : Nat) (x : BitVec 4096) : (fr.setV d x).budgetReq = fr.budgetReq := rfl
@[simp] theorem Frond.setV_budget (fr : Frond) (d : Nat) (x : BitVec 4096) : (fr.setV d x).budget = fr.budget := rfl
@[simp] theorem Frond.setM_stopReq (fr : Frond) (d : Nat) (x : BitVec 512) : (fr.setM d x).stopReq = fr.stopReq := rfl
@[simp] theorem Frond.setM_budgetReq (fr : Frond) (d : Nat) (x : BitVec 512) : (fr.setM d x).budgetReq = fr.budgetReq := rfl
@[simp] theorem Frond.setM_budget (fr : Frond) (d : Nat) (x : BitVec 512) : (fr.setM d x).budget = fr.budget := rfl
@[simp] theorem Frond.setF_stopReq (fr : Frond) (d : BitVec 5) (x : Nat) : (fr.setF d x).stopReq = fr.stopReq := by
  unfold Frond.setF; exact Frond.setV_stopReq _ _ _
@[simp] theorem Frond.setF_budgetReq (fr : Frond) (d : BitVec 5) (x : Nat) : (fr.setF d x).budgetReq = fr.budgetReq := by
  unfold Frond.setF; exact Frond.setV_budgetReq _ _ _
@[simp] theorem Frond.setF_budget (fr : Frond) (d : BitVec 5) (x : Nat) : (fr.setF d x).budget = fr.budget := by
  unfold Frond.setF; exact Frond.setV_budget _ _ _
@[simp] theorem Frond.raise_stopReq (fr : Frond) (x : FFlags) : (fr.raise x).stopReq = fr.stopReq := rfl
@[simp] theorem Frond.raise_budgetReq (fr : Frond) (x : FFlags) : (fr.raise x).budgetReq = fr.budgetReq := rfl
@[simp] theorem Frond.raise_budget (fr : Frond) (x : FFlags) : (fr.raise x).budget = fr.budget := rfl
@[simp] theorem Frond.markDirty_stopReq (fr : Frond) (a : Nat) : (fr.markDirty a).stopReq = fr.stopReq := by
  unfold Frond.markDirty; split <;> rfl
@[simp] theorem Frond.spStore_stopReq (fr : Frond) (a : Nat) (b : List Byte) : (fr.spStore a b).stopReq = fr.stopReq := by
  unfold Frond.spStore; rw [Frond.markDirty_stopReq, Frond.markDirty_stopReq]
@[simp] theorem Frond.markDirty_budgetReq (fr : Frond) (a : Nat) : (fr.markDirty a).budgetReq = fr.budgetReq := by
  unfold Frond.markDirty; split <;> rfl
@[simp] theorem Frond.spStore_budgetReq (fr : Frond) (a : Nat) (b : List Byte) : (fr.spStore a b).budgetReq = fr.budgetReq := by
  unfold Frond.spStore; rw [Frond.markDirty_budgetReq, Frond.markDirty_budgetReq]
@[simp] theorem Frond.markDirty_budget (fr : Frond) (a : Nat) : (fr.markDirty a).budget = fr.budget := by
  unfold Frond.markDirty; split <;> rfl
@[simp] theorem Frond.spStore_budget (fr : Frond) (a : Nat) (b : List Byte) : (fr.spStore a b).budget = fr.budget := by
  unfold Frond.spStore; rw [Frond.markDirty_budget, Frond.markDirty_budget]

end Sys2Proof.Machine
end

