-- ==== Sys2Proof/Laws/Store.lean ====
section
/-!
SUPPORT. Bytes of numbers, the length of a digest, the trailer of an extent, and capacity (R7, R408, R409).
-/

namespace Sys2Proof.Machine

theorem leBytes_length (n x : Nat) : (leBytes x n).length = n := by
  induction n generalizing x with
  | zero => rfl
  | succ n ih => simp [leBytes, ih]

/-- The bytes of a number spell it (R7). -/
theorem leNat_leBytes (n x : Nat) : leNat (leBytes x n) = x % 256 ^ n := by
  induction n generalizing x with
  | zero => simp [leBytes, leNat, Nat.mod_one]
  | succ n ih =>
    have h := Nat.mod_mul (x := x) (a := 256) (b := 256 ^ n)
    have e : 256 ^ (n + 1) = 256 * 256 ^ n := by rw [Nat.pow_succ, Nat.mul_comm]
    simp only [leBytes, leNat, ih, BitVec.toNat_ofNat, e, h]

theorem beBytes_length (n x : Nat) : (beBytes x n).length = n := by simp [beBytes, leBytes_length]

theorem zeros_length (n : Nat) : (zeros n).length = n := by simp [zeros]

theorem sha2Round_length (c : Sha2) (v : List Nat) (k : Nat × Nat) : (sha2Round c v k).length = v.length := by
  unfold sha2Round
  split <;> rfl

theorem sha2Rounds_length (c : Sha2) (l : List (Nat × Nat)) (v : List Nat) :
    (l.foldl (sha2Round c) v).length = v.length := by
  induction l generalizing v with
  | nil => rfl
  | cons k l ih => rw [List.foldl_cons, ih, sha2Round_length]

theorem sha2Block_length (c : Sha2) (h : List Nat) (b : List Byte) : (sha2Block c h b).length = h.length := by
  simp [sha2Block, sha2Rounds_length]

theorem sha2Blocks_length (c : Sha2) (l : List (List Byte)) (h : List Nat) :
    (l.foldl (sha2Block c) h).length = h.length := by
  induction l generalizing h with
  | nil => rfl
  | cons b l ih => rw [List.foldl_cons, ih, sha2Block_length]

theorem words_length (k : Nat) (l : List Nat) : ((l.map fun x => beBytes x k).flatten).length = l.length * k := by
  induction l with
  | nil => simp
  | cons x l ih => simp [ih, beBytes_length, Nat.succ_mul]; omega

/-- SHA-256 gives 32 bytes. -/
theorem sha256_length (m : List Byte) : (sha256 m).length = 32 := by
  unfold sha256 sha2
  rw [List.length_take, words_length, sha2Blocks_length]
  decide

theorem crcBit_lt (c : Nat) (h : c < 2 ^ 32) : crcBit c < 2 ^ 32 := by
  unfold crcBit
  have h1 : c / 2 < 2 ^ 32 := by omega
  have h2 : c >>> 1 < 2 ^ 32 := by rw [Nat.shiftRight_eq_div_pow]; omega
  split <;> first | exact Nat.xor_lt_two_pow h1 (by decide) | exact Nat.xor_lt_two_pow h2 (by decide) | assumption

theorem crcRun_lt (d : List Byte) (c : Nat) (h : c < 2 ^ 32) : crcRun c d < 2 ^ 32 := by
  induction d generalizing c with
  | nil => exact h
  | cons b t ih =>
    apply ih
    have hb : b.toNat < 2 ^ 32 := Nat.lt_of_lt_of_le b.isLt (by decide)
    unfold crcByte
    iterate 8 apply crcBit_lt
    exact Nat.xor_lt_two_pow h hb

/-- A CRC-32C has 32 bits. -/
theorem crc32c_lt (d : List Byte) : crc32c d < 2 ^ 32 := Nat.xor_lt_two_pow (crcRun_lt d _ (by decide)) (by decide)

/-- Fields behind a prefix of known length. -/
theorem leAt_append (a r : List Byte) (k n m : Nat) (h : a.length = m) : leAt (a ++ r) (m + k) n = leAt r k n := by
  subst h
  simp [leAt, List.drop_append, List.drop_of_length_le]

/-- The first field. -/
theorem leAt_leBytes (x n : Nat) (r : List Byte) : leAt (leBytes x n ++ r) 0 n = x % 256 ^ n := by
  have h := leBytes_length n x
  simp [leAt, h, leNat_leBytes]

/-- The trailer of an extent is one LBA. -/
theorem trailer_length (o : StoreObj) (e ver : Nat) (d : List Byte) : (trailer o e ver d).length = 4096 := by
  simp [trailer, sha256_length, leBytes_length, zeros_length]

/-- What the trailer was made for passes the check of R408. -/
theorem extentPasses_trailer (o : StoreObj) (e ver : Nat) (d : List Byte) (hd : d.length = extSize) (hi : o.id < 2 ^ 32)
    (hn : o.inst < 256) (he : e < 2 ^ 32) (hv : ver < 2 ^ 64) : extentPasses o e ver (d ++ trailer o e ver d) = true := by
  have hdrop : (d ++ trailer o e ver d).drop extSize = trailer o e ver d := by rw [← hd]; simp
  have htake : (d ++ trailer o e ver d).take extSize = d := by rw [← hd]; simp
  have hlen : (d ++ trailer o e ver d).length = 257 * 4096 := by
    rw [List.length_append, trailer_length, hd]; decide
  have hs := sha256_length d
  generalize hr : sha256 d ++ leBytes 0x5458515A 4 ++ leBytes o.id 4 ++ leBytes o.inst 1 ++ zeros 3 ++ leBytes e 4 ++
    leBytes ver 8 ++ zeros 4 = r
  have ht : trailer o e ver d = r ++ (leBytes (crc32c r) 4 ++ zeros (4096 - 64)) := by
    rw [← hr]; simp only [trailer, List.append_assoc]
  have hl : r.length = 0x3C := by rw [← hr]; simp [hs, leBytes_length, zeros_length]
  have h0 : leAt (trailer o e ver d) 0x3C 4 = crc32c r := by
    rw [ht, show (0x3C : Nat) = 0x3C + 0 from rfl, leAt_append _ _ 0 4 _ hl, leAt_leBytes]
    exact Nat.mod_eq_of_lt (crc32c_lt r)
  have h1 : (trailer o e ver d).take 0x3C = r := by rw [ht, ← hl]; simp
  have hq : trailer o e ver d = sha256 d ++ (leBytes 0x5458515A 4 ++ (leBytes o.id 4 ++ (leBytes o.inst 1 ++ (zeros 3 ++
      (leBytes e 4 ++ (leBytes ver 8 ++ (zeros 4 ++ (leBytes (crc32c r) 4 ++ zeros (4096 - 64))))))))) := by
    rw [ht, ← hr]; simp only [List.append_assoc]
  have hw : (trailer o e ver d).take 32 = sha256 d := by rw [hq, ← hs]; simp
  have l : ∀ x n, (leBytes x n).length = n := fun x n => leBytes_length n x
  have h2 : leAt (trailer o e ver d) 0x20 4 = 0x5458515A := by
    rw [hq, show (0x20 : Nat) = 32 + 0 from rfl, leAt_append _ _ 0 4 _ hs, leAt_leBytes]; rfl
  have h3 : leAt (trailer o e ver d) 0x24 4 = o.id := by
    rw [hq, show (0x24 : Nat) = 32 + (4 + 0) from rfl, leAt_append _ _ (4 + 0) 4 _ hs, leAt_append _ _ 0 4 _ (l _ _), leAt_leBytes]
    exact Nat.mod_eq_of_lt hi
  have h4 : leAt (trailer o e ver d) 0x28 1 = o.inst := by
    rw [hq, show (0x28 : Nat) = 32 + (4 + (4 + 0)) from rfl, leAt_append _ _ (4 + (4 + 0)) 1 _ hs, leAt_append _ _ (4 + 0) 1 _ (l _ _),
      leAt_append _ _ 0 1 _ (l _ _), leAt_leBytes]
    exact Nat.mod_eq_of_lt hn
  have h5 : leAt (trailer o e ver d) 0x2C 4 = e := by
    rw [hq, show (0x2C : Nat) = 32 + (4 + (4 + (1 + (3 + 0)))) from rfl, leAt_append _ _ _ 4 _ hs, leAt_append _ _ _ 4 _ (l _ _),
      leAt_append _ _ _ 4 _ (l _ _), leAt_append _ _ _ 4 _ (l _ _), leAt_append _ _ _ 4 _ (zeros_length _), leAt_leBytes]
    exact Nat.mod_eq_of_lt he
  have h6 : leAt (trailer o e ver d) 0x30 8 = ver := by
    rw [hq, show (0x30 : Nat) = 32 + (4 + (4 + (1 + (3 + (4 + 0))))) from rfl, leAt_append _ _ _ 8 _ hs, leAt_append _ _ _ 8 _ (l _ _),
      leAt_append _ _ _ 8 _ (l _ _), leAt_append _ _ _ 8 _ (l _ _), leAt_append _ _ _ 8 _ (zeros_length _),
      leAt_append _ _ _ 8 _ (l _ _), leAt_leBytes]
    exact Nat.mod_eq_of_lt hv
  unfold extentPasses
  simp only [hdrop, htake, hlen, h0, h1, h2, h3, h4, h5, h6, hw, decide_true, Bool.and_true]

/-! ## Capacity -/

/-- Contents that need no further copy exceed neither the instance's capacity nor the pool's (R409). -/
theorem overAll_of_no_growth (s : State) (i : Nat) (l : List (StoreObj × ObjImage)) (h : moreCopies s l = 0) :
    overAll s i l = false := by
  simp [overAll, h]

/-- No publication that needs a further copy is admitted beyond the pool (R409). -/
theorem overAll_of_full_pool (s : State) (i : Nat) (l : List (StoreObj × ObjImage)) (g : 0 < moreCopies s l)
    (h : poolCopies s < storeCopies s + moreCopies s l) : overAll s i l = true := by
  simp [overAll, g, h]

end Sys2Proof.Machine
end

