-- ==== Sys2Proof/Tests/Slice0.lean ====
section
/-!
SUPPORT. Tests: what well-formedness refuses, the spec's worked examples, published digest vectors, and for every statement that has
hypotheses states and operands that meet them.
-/

namespace Sys2Proof.Tests

set_option Elab.async false

open Sys2Proof Sys2Proof.Machine

/-! ## Well-formedness refuses one term for each check -/

theorem test_wf_slot : wf (.nop 131071) = true ∧ wf (.nop 131072) = false := by decide +kernel
theorem test_wf_function : wf (.sporeWrite 255 0 0) = true ∧ wf (.sporeWrite 256 0 0) = false := by decide +kernel
theorem test_wf_sq : wf (.commandFetchStart 0 8191) = true ∧ wf (.commandFetchStart 0 8192) = false := by decide +kernel
theorem test_wf_cq : wf (.ringCqHeadWrite 0 4095 0) = true ∧ wf (.ringCqHeadWrite 0 4096 0) = false := by decide +kernel
theorem test_wf_link : wf (.fecBlockLockLoss 15) = true ∧ wf (.fecBlockLockLoss 16) = false := by decide +kernel
theorem test_wf_port : wf (.hotReset 1) = true ∧ wf (.hotReset 2) = false := by decide +kernel
theorem test_wf_transport : wf (.getVersion 1 []) = true ∧ wf (.getVersion 2 []) = false := by decide +kernel
theorem test_wf_channel : wf (.retrainDue 95) = true ∧ wf (.retrainDue 96) = false := by decide +kernel
theorem test_wf_quadrant : wf (.quadrantPark 15) = true ∧ wf (.quadrantPark 16) = false := by decide +kernel
theorem test_wf_die : wf (.frondClockStep 3) = true ∧ wf (.frondClockStep 4) = false := by decide +kernel
theorem test_wf_optional_die : wf (.admissionRequest 1 1 0 none false (some 4)) = false := by decide +kernel
theorem test_wf_level : wf (.admissionRequest 1 1 8 none false none) = false := by decide +kernel
theorem test_wf_requester : wf (.memReadRequest (some 256) 0 0 0) = false := by decide +kernel
theorem test_wf_address : wf (.memReadRequest none (2 ^ 48) 0 0) = false := by decide +kernel
theorem test_wf_unit : wf (.cmuComparerCheck 3 false false true) = true ∧ wf (.cmuComparerCheck 4 false false true) = false := by
  decide +kernel
theorem test_wf_kind : wf (.engineUnitFault 3 0) = false := by decide +kernel
theorem test_wf_tag : wf (.streamRequestDone 0 16 none) = false := by decide +kernel
theorem test_wf_pipeline : wf (.breakerFinish 0 16) = false := by decide +kernel
theorem test_wf_operator : wf (.flowServiceEnd 0 0 1024 ⟨0, []⟩) = false := by decide +kernel
theorem test_wf_frame : wf (.scrubFrameDone 786432) = false := by decide +kernel
theorem test_wf_page : wf (.leafEntryChange 0 134217728 0) = false := by decide +kernel
theorem test_wf_target : wf (.registerWrite (.bar0 0 0 (2 ^ 26)) []) = false ∧ wf (.registerWrite (.ctxPort 4 0 0 0) []) = false := by
  decide +kernel
theorem test_wf_flit : wf (.flitReceive 0 ⟨true, 8, 0, 0, 0, false, false, 0, []⟩) = false := by decide +kernel
theorem test_wf_frame_in : wf (.helloFrame 0 ⟨256, 0, 0, 0, 0, 0, []⟩) = false := by decide +kernel

/-! ## The step -/

/-- No table word spells a command. -/
theorem test_no_word : decodeTableWord 32 5 = none := rfl

/-! ## Instruction words written out from R159 to R161, R197 to R201 and R213 -/

/-- OP add g3, g1, g2; MULDIV rem; SHI; LUI; a load, a store; BR LT, j, jlr. -/
theorem test_scalar_words :
    decodeFrond 5 0x00611000 = some (.add 5 3 1 2) ∧ decodeFrond 5 0x70611006 = some (.rem 5 3 1 2) ∧
    decodeFrond 5 0x18610045 = some (.shi 5 3 1 0x45) ∧ decodeFrond 5 0x1460ABCD = some (.lui 5 3 0xABCD) ∧
    decodeFrond 5 0x24611000 = some (.ldH 5 3 1 0x1000) ∧ decodeFrond 5 0x4C611000 = some (.stD 5 3 1 0x1000) ∧
    decodeFrond 5 0x604117FF = some (.br 5 2 1 2 0x7FF) ∧ decodeFrond 5 0x67FFFFFF = some (.j 5 0x3FFFFFF) ∧
    decodeFrond 5 0x6FE10001 = some (.jlr 5 31 1) := by decide

/-- trap with DETAIL 7, spclr, fcrd, str.poll, ho. -/
theorem test_system_words :
    decodeFrond 5 0x90003801 = some (.trap 5 7) ∧ decodeFrond 5 0x90000020 = some (.spclr 5) ∧
    decodeFrond 5 0x94600123 = some (.fcrd 5 3 0x123) ∧ decodeFrond 5 0xA0603802 = some (.strPoll 5 3 7) ∧
    decodeFrond 5 0xB0611001 = some (.ho 5 3 1 2 1) := by decide

/-- vadd.w v1, v2, v3 under m2; vandx; vovmulu; vgath.d v4, (g8, v2, 8), dev; vscat. -/
theorem test_vector_words :
    decodeFrond 5 0xC0221D20 = some (.vadd 5 ⟨1, 2, 3, true, 2, 2⟩) ∧ decodeFrond 5 0xC4221818 = some (.vopx 5 ⟨1, 2, 3, false, 0, 1⟩ 8) ∧
    decodeFrond 5 0xC822182B = some (.vovmulu 5 ⟨1, 2, 3, false, 0, 2⟩) ∧
    decodeFrond 5 0xE488103E = some (.vgath 5 ⟨4, 8, 2, false, 0, 3⟩ 3 true) ∧
    decodeFrond 5 0xE488103F = some (.vscat 5 ⟨4, 8, 2, false, 0, 3⟩ 3 true) := by decide

/-- A major, a minor and a vector opcode that no table lists. -/
theorem test_unlisted_words :
    decodeFrond 5 0x3C000000 = none ∧ decodeFrond 5 0x0000000E = none ∧ decodeFrond 5 0x70000003 = none ∧
    decodeFrond 5 0xC800000C = none ∧ decodeFrond 5 0xF4000000 = none := by decide

/-- The command at the front runs, and leaves the queue. -/
theorem test_front : step { State.reset with pending := [.refclkLoss, .refclkReturn] } =
    exec .refclkLoss { State.reset with pending := [.refclkReturn] } := rfl

/-- With nothing waiting the block idles. -/
theorem test_idle : step State.reset = .next State.reset := rfl

/-- A plan image: one pipeline of SCAN and EMIT, an input and an output slot, one word of code (R37 to R45, R117, R146). -/
def goodImage : List Byte :=
  leBytes 0x4C50515A 4 ++ leBytes 2 2 ++ leBytes 0x80 2 ++ leBytes 0x240 4 ++ leBytes 0x9cf2b3d0 4 ++ leBytes 7 8 ++ zeros 4 ++
  [1, 5, 2, 0, 2, 0, 0x80, 0] ++ zeros 92 ++
  leBytes 1 4 ++ leBytes 0x100 4 ++ leBytes 64 4 ++ leBytes 1 4 ++ leBytes 2 4 ++ leBytes 0x140 4 ++ leBytes 64 4 ++ leBytes 2 4 ++
  leBytes 6 4 ++ leBytes 0x180 4 ++ leBytes 32 4 ++ leBytes 2 4 ++ leBytes 3 4 ++ leBytes 0x1C0 4 ++ leBytes 4 4 ++ leBytes 0 4 ++
  leBytes 4 4 ++ leBytes 0x200 4 ++ leBytes 0x28 4 ++ leBytes 0 4 ++ zeros 48 ++
  [0, 0, 0, 0, 0, 0, 2, 1] ++ zeros 56 ++
  [1, 0, 0, 0] ++ leBytes 0 4 ++ leBytes 4 4 ++ leBytes 0 4 ++ leBytes 16 4 ++ zeros 12 ++
  [13, 0, 0, 0] ++ leBytes 0 4 ++ leBytes 4 4 ++ leBytes 16 4 ++ leBytes 12 4 ++ zeros 12 ++
  [2, 0, 0x40, 0, 32, 0, 0, 0] ++ zeros 8 ++ [3, 0, 0x60, 0, 32, 0, 0, 0] ++ zeros 40 ++ zeros 64 ++
  [0, 1, 0, 0, 0, 0, 0, 0, 0, 0, 5, 0, 0, 0, 0, 0, 1, 1, 0, 0, 0, 0, 0, 0] ++ zeros 40

set_option maxRecDepth 4000 in
/-- It passes every check of R48; one changed byte of it does not. -/
theorem test_good_image : imageCheck State.reset 0 false goodImage [] = none := by decide +kernel

set_option maxRecDepth 4000 in
theorem test_bad_crc : imageCheck State.reset 0 false (goodImage.set 0x10 9) [] = some (4, 0xC) := by decide +kernel

/-! ## The spec's worked examples -/

/-- chapter 12, *PHASE, prefetch and a spore write*: a ring of LOG2SIZE 4 with head and tail 0x0E takes tail 0x11; later, with head and
tail 0x12, tail 0x03 is an overrun, and 0x02 would fill the ring. -/
theorem test_ring_tail :
    ringUsed 4 0x11 0x0E = 3 ∧ checkTail { Sq.absent with tail := 0x0E, head := 0x0E } 0x11 = .accepted ∧
    checkTail { Sq.absent with tail := 0x12, head := 0x12 } 0x03 = .overrun ∧
    checkTail { Sq.absent with tail := 0x12, head := 0x12 } 0x02 = .accepted ∧
    ringWrap 4 0x0F = false ∧ ringWrap 4 0x11 = true := by decide +kernel

/-- chapter 7, *replacing a prefix entry*: of three entries that match, the longest mask wins. -/
theorem test_longest_mask :
    searchTable { CmuUnit.reset with ent := [(3, ⟨0x200000, 0xFFFFFFFFFFE00000, 0x11, true, 5⟩),
        (7, ⟨0x210000, 0xFFFFFFFFFFFF0000, 0x12, true, 5⟩), (9, ⟨0x21A000, 0xFFFFFFFFFFFFF000, 0x13, true, 5⟩)] }
      ⟨12, 0x31, 0, 16, 5, false, false, 0, 0⟩ 2204117 = some (9, 0x13) := by decide +kernel

/-- chapter 4: 1.25 times 0.35 at scale 4, rounded half away from zero to scale 2 and to scale 1. -/
theorem test_decimal_mul :
    atScale ⟨12, 2⟩ (125 * 35) (10 ^ 4) = 44 ∧ atScale ⟨12, 2⟩ (-125 * 35) (10 ^ 4) = -44 ∧
    atScale ⟨12, 1⟩ (125 * 35) (10 ^ 4) = 4 ∧ atScale ⟨12, 1⟩ (-125 * 35) (10 ^ 4) = -4 := by decide +kernel

/-- chapter 3: the region codes of the first eight rows pack into the bytes 0x40, 0xA0, 0x81, and unpack again; the flags of four rows
begin 0x01, 0x01, 0x14. -/
theorem test_codes :
    packCodes 3 [0, 0, 1, 0, 2, 3, 0, 4] = [0x40, 0xA0, 0x81] ∧ seqCode (leNat [0x40, 0xA0, 0x81]) 3 7 = 4 ∧
    packCodes 6 [1, 4, 0, 5] = [0x01, 0x01, 0x14] := by decide +kernel

/-- chapter 19: a frame that left on [4, 2] and came in on links 9 and 7 is answered on [7, 9]. -/
theorem test_reply_route : replyRoute (setNibble (setNibble 0x24 0 9) 1 7) 2 = 0x97 := by decide +kernel

/-- chapter 20: of two causes within one AON cycle only the first is logged. -/
theorem test_reset_cause :
    (moduleReset 4 (moduleReset 2 State.reset)).log.entries.map (·.detail) = [2] := by decide +kernel

/-! ## Published check values -/

/-- CRC-32C of "123456789". -/
theorem test_crc : crc32c [0x31, 0x32, 0x33, 0x34, 0x35, 0x36, 0x37, 0x38, 0x39] = 0xE3069283 := by decide +kernel

/-- SHA-256 of "abc" (FIPS 180-4), its first eight bytes; SHA-384 and SHA-512 likewise. -/
theorem test_sha2 :
    (sha256 [0x61, 0x62, 0x63]).take 8 = [0xBA, 0x78, 0x16, 0xBF, 0x8F, 0x01, 0xCF, 0xEA] ∧
    (sha384 [0x61, 0x62, 0x63]).take 8 = [0xCB, 0x00, 0x75, 0x3F, 0x45, 0xA3, 0x5E, 0x8B] ∧
    (sha512 [0x61, 0x62, 0x63]).take 8 = [0xDD, 0xAF, 0x35, 0xA1, 0x93, 0x61, 0x7A, 0xBA] := by decide +kernel

/-- SHA3-256 of "abc" (FIPS 202), its first eight bytes. -/
theorem test_sha3 : (sha3 32 [0x61, 0x62, 0x63]).take 8 = [0x3A, 0x98, 0x5D, 0xA7, 0x4F, 0xE2, 0x25, 0xB2] := by decide +kernel

/-! ## States to test on -/

/-- The module after its boot, in PRODUCTION, with empty flash banks. -/
def base : State :=
  { State.reset with
    sec := { SecSt.reset with lifecycle := 1, fuse := 1, flash0 := [], flash1 := [] },
    mem := { MemSt.reset with sysUp := true }, store := { StoreSt.reset with mounted := true },
    pads := { PadSt.reset with booted := true, bootDue := false } }

/-- SQ 0 and CQ 0 of instance 0 are ACTIVE. -/
def rings : State :=
  (base.setSq 0 0 { Sq.absent with st := .active, outlim := 8 }).setCq 0 0 { Cq.absent with st := .active }

/-- A FIRST and LAST entry with TAG 1: opcode, OBJ, ADDR0, LEN, ADDR1, PARAM0 to PARAM2. -/
def ent (opc obj addr0 len addr1 p0 p1 p2 : Nat) : Line :=
  BitVec.ofNat 512 (2 ^ 56 * opc + 2 ^ 54 + 2 ^ 53 + obj + 2 ^ 64 + 2 ^ 128 * addr0 + 2 ^ 192 * len + 2 ^ 256 * addr1 +
    2 ^ 320 * p0 + 2 ^ 384 * p1 + 2 ^ 448 * p2)

/-- A command of SQ 0 of instance 0. -/
def mkCmd (l : Line) (ph : CmdPhase) : Cmd :=
  { inst := 0, sq := 0, first := l, segs := [], accNo := 5, accepted := true, accTime := 0, dupOf := none, phase := ph,
    work := .none, outcome := none, orig := 0, failure := none, r0 := 0, r1 := 0, step3 := false, deadline := none, timer := none,
    fenceOn := [], silent := false, pages := [] }

/-- The command in slot 0. -/
def withCmd (c : Cmd) : State := rings.setCmd 0 (some c)

/-- A captured mailbox command from its fields: offset and value. -/
def cap (l : List (Nat × Nat)) : BitVec 512 := BitVec.ofNat 512 ((l.map fun x => x.2 * 2 ^ (8 * x.1)).sum)

/-- The mailbox of a function with a captured command. -/
def withMbx (fn mop : Nat) (l : List (Nat × Nat)) (s : State) : State :=
  s.setMbx fn { Mbx.reset with st := .busy, mop := mop, capCmd := cap ((0, mop) :: l) }

/-- A plan without sections. -/
def plan0 : Plan :=
  { uid := 7, pflags := 0, pbSize := 0, prs := 0, pipes := [], ops := [], slots := [], autos := [], code := [], image := [],
    defaults := [] }

/-- A query of a plan in flight. -/
def query (p : Plan) : QueryRun :=
  { planId := 1, plan := p, pb := [], inputs := [], outs := [], pipes := [], flows := 0, flowQ := [], dirDone := false, xid := 0 }

/-- A command that runs a query. -/
def queryCmd (opc p0 len : Nat) (ph : CmdPhase) (q : QueryRun) : Cmd :=
  { mkCmd (ent opc 1 0 len 0 p0 0 0) ph with work := .query q }

/-- A frond in mode K, and one in mode P. -/
def kF : Frond :=
  { Frond.reset with
    status := 1, pc := 0x80, g := [(1, 0x50000), (2, 0x50008)], vl := 4, wlim := 0x80000,
    sp := [(0x50000, 1), (0x50008, 0x20), (0x5000A, 5), (0x5000C, 0x40), (0x5000E, 5), (0x50010, 9)] }
def pF : Frond := { kF with status := 0, pc := 0x104, cbase := 0x100, clim := 0x200 }

/-- Frond 7 has these registers. -/
def onF (fr : Frond) : State := rings.setFrond 7 fr

/-! ## Hypotheses of the statements from their parts -/

theorem quiet_of {f : Nat} {s : State}
    (h : (s.frond f).halted = false ∧ clockOn f s = true ∧ (s.frond f).fetchOk = true ∧ (s.frond f).listed = true ∧ (s.frond f).stopReq = false ∧
        (s.frond f).budgetReq = false ∧ ((s.frond f).isK = true ∨ (s.frond f).budget = 0)) : Quiet f s :=
  ⟨h.1, h.2.1, h.2.2.1, h.2.2.2.1, h.2.2.2.2.1, h.2.2.2.2.2.1, h.2.2.2.2.2.2⟩

theorem ready_of {f : Nat} {s : State}
    (h : (s.frond f).halted = false ∧ clockOn f s = true ∧ (s.frond f).fetchOk = true ∧ (s.frond f).listed = true) : Ready f s :=
  ⟨h.1, h.2.1, h.2.2.1, h.2.2.2⟩

theorem handed_of {k opc : Nat} {c : Cmd} {s : State}
    (h : s.cmd k = some c ∧ c.phase = .handed ∧ c.outcome = none ∧ c.opc = opc ∧ c.fenceOn = [] ∧
        (ringOpcode opc = true ∨ cmdHeldByCq c s = false)) : Handed k opc c s :=
  ⟨h.1, h.2.1, h.2.2.1, h.2.2.2.1, h.2.2.2.2.1, h.2.2.2.2.2⟩

theorem takesRings_of {i : Nat} {s : State}
    (h : ringClosed s i = false ∧ awake s = true) : TakesRings i s :=
  ⟨h.1, h.2⟩

theorem mbxRuns_of {fn mop : Nat} {r : MbxRule} {s : State}
    (h : (s.getMbx fn).st = .busy ∧ (s.getMbx fn).held = false ∧ (s.getMbx fn).started = false ∧ (s.getMbx fn).mop = mop ∧ fwRuns s = true ∧
        (fnAbsent fn s = false ∨ mop = 0x01) ∧ (r.pfOnly = false ∨ fn = 0) ∧
        (if r.targeted then fn = 0 ∨ (s.getMbx fn).target = fn else (s.getMbx fn).target = 0) ∧
        badReserved (s.getMbx fn) r.named = none) : MbxRuns fn mop r s :=
  ⟨h.1, h.2.1, h.2.2.1, h.2.2.2.1, h.2.2.2.2.1, h.2.2.2.2.2.1, h.2.2.2.2.2.2.1, h.2.2.2.2.2.2.2.1, h.2.2.2.2.2.2.2.2⟩

theorem busUp_of {tr : Nat} {s : State}
    (h : tr < 2 ∧ s.pads.inReset = false ∧ s.pads.porHeld = false) : BusUp tr s :=
  ⟨h.1, h.2.1, h.2.2⟩

theorem fits_of {f : RFrame}
    (h : f.ftype < 2 ^ 8 ∧ f.hops < 2 ^ 8 ∧ f.hopIdx < 2 ^ 8 ∧ f.inst < 2 ^ 8 ∧ f.fseq < 2 ^ 32 ∧ f.payload.length < 2 ^ 16) : Fits f :=
  ⟨h.1, h.2.1, h.2.2.1, h.2.2.2.1, h.2.2.2.2.1, h.2.2.2.2.2⟩

theorem arrives_of {ft l : Nat} {x : FrameIn} {s : State} (w : Fits (brought ft x))
    (h : l < 16 ∧ (s.link l).st = .up ∧ s.pads.inReset = false ∧ x.hops ≤ 8 ∧ x.hopIdx ≤ 8) : Arrives ft l x s :=
  ⟨h.1, h.2.1, h.2.2.1, w, h.2.2.2.1, h.2.2.2.2⟩

theorem forUs_of {ft l : Nat} {x : FrameIn} {s : State} (a : Arrives ft l x s)
    (h : x.hopIdx + 1 = x.hops ∧ awake s = true ∧ s.lnk.fans = []) : ForUs ft l x s :=
  ⟨a, h.1, h.2.1, h.2.2⟩

theorem forFan_of {ft l : Nat} {x : FrameIn} {f : Fan} {s : State} (a : Arrives ft l x s)
    (h : x.hopIdx + 1 = x.hops ∧ awake s = true ∧ s.lnk.fans = [f] ∧ f.xid = x.xid ∧ (s.inst x.inst).st = .active ∧
        s.lnk.seen.contains (routeKey (gotBy ft l x).back x.hops, x.fseq) = false) : ForFan ft l x f s :=
  ⟨a, h.1, h.2.1, h.2.2.1, h.2.2.2.1, h.2.2.2.2.1, h.2.2.2.2.2⟩

/-- The one link that frames come in on here, and the one they leave on, are UP. -/
def linked : State := (base.setLink 3 { Link.reset with st := .up }).setLink 0 { Link.reset with st := .up }

/-- A HELLO of the manager with UID 99 for this module. -/
def helloIn : FrameIn :=
  { hops := 1, hopIdx := 0, inst := 0, route := 0, fseq := 7, xid := 0,
    payload := leBytes 1 1 ++ leBytes 1 1 ++ zeros 6 ++ leBytes 99 16 ++ leBytes Config.uid.toNat 16 }

theorem hello_accepted : acceptsHello linked (gotBy ftMgmt 3 helloIn) = true := by
  have h : leAt (gotBy ftMgmt 3 helloIn).payload 24 16 = leNat (leBytes Config.uid.toNat 16) := rfl
  have b : Config.uid.toNat % 256 ^ 16 = Config.uid.toNat := Nat.mod_eq_of_lt (Config.uid).isLt
  rw [leNat_leBytes, b] at h
  unfold acceptsHello
  rw [h, decide_eq_true rfl, Bool.and_true]
  decide +kernel

/-- A STORE read of an extent whose command is in slot 0. -/
def readObj : StoreObj :=
  ⟨0, 1, 1, 1, { size := 100, ver := 1, bytes := [], exts := [] }, ObjImage.empty, 0, true, false, false, false, 0, [], []⟩
def readN : Nvme := ⟨1, 2, .extRead, 0, 1, 0, 1, 0, 0, some 0, 0, 1, none, false, []⟩
def readS : State :=
  let s := withCmd (mkCmd (ent 0x11 1 0 64 0 64 0 0) .running)
  { s with store := { s.store with objs := [readObj], nvme := [readN] } }

/-- A query whose plan gathers one column, as the worker part of fan-out command 77. -/
def gatherPlan : Plan :=
  { plan0 with
    pipes := [⟨1, 0, 0, 1, 1, 4, 0, 1, 0, 0, 0⟩],
    ops := [⟨15, 0, 0, 0, 0, 0, 0, 0, 0, 0, .exchange 2 0 [] [0]⟩] }
def gatherCmd : Cmd := queryCmd 1 0 0 .running (query gatherPlan)
def gatherFan : Fan :=
  { xid := 77, inst := 0, top := true, slot := some 0, ends := [], stopAcks := [], armAcks := [], armed := [], stopped := false,
    status := none, lastFrame := 0, params := [], owed := [] }
def gatherS : State :=
  let s := linked.setCmd 0 (some gatherCmd)
  { s with lnk := { s.lnk with fans := [gatherFan], mgrRoute := 5, mgrHops := 1 } }
def xdataIn : FrameIn :=
  { hops := 1, hopIdx := 0, inst := 0, route := 0, fseq := 7, xid := 77, payload := [0, 0, 0, 0, 1] ++ zeros 19 ++ [9] }

/-- A loaded plan that PLAN_RELOAD checks again. -/
def reloadEnt : PlanEnt :=
  { id := 6, plan := { plan0 with image := goodImage }, pages := [], pinned := false, ready := true, gone := false, goneAt := 0 }
def reloadS : State :=
  let s := base.setInst 1 { Inst.zero with st := .active, plans := [reloadEnt], res := ResRec.inst0 }
  { s with mp := { s.mp with reloads := [(1, 6)] }, disp := { s.disp with reloading := [(1, 6)] } }

set_option maxRecDepth 4000 in
theorem reload_passes : reloadFails 1 reloadEnt (unholdPlan 1 6 reloadS) = false := by decide +kernel

/-- Instance 0 has page quota for a segment, and none. -/
def gatherRoom (n : Nat) : State :=
  { gatherS with insts := [(0, { Inst.zero with st := .active, res := { ResRec.inst0 with pages := n } })] }
def gatherGot : State := ackGot (gotBy ftXdata 3 xdataIn) (markSeen (gotBy ftXdata 3 xdataIn) (gatherRoom 9))
def gatherStored : Except Nat Reasm × State :=
  storeSegment 0 (newReasm (gotBy ftXdata 3 xdataIn) (leAt xdataIn.payload 2 1) (leAt xdataIn.payload 0 2)) (xdataIn.payload.drop 24) gatherGot
def gatherReasm : Reasm := gatherStored.1.toOption.getD (newReasm (gotBy ftXdata 3 xdataIn) 0 0)

theorem stored_ok (x : Except Nat Reasm × State) (d : Reasm) (h : x.1.isOk = true) : x = (.ok (x.1.toOption.getD d), x.2) := by
  obtain ⟨a, s⟩ := x
  cases a with
  | error e => cases h
  | ok r => rfl

theorem gather_stored : storeSegment 0 (newReasm (gotBy ftXdata 3 xdataIn) (leAt xdataIn.payload 2 1) (leAt xdataIn.payload 0 2))
    (xdataIn.payload.drop 24) (ackGot (gotBy ftXdata 3 xdataIn) (markSeen (gotBy ftXdata 3 xdataIn) (gatherRoom 9))) =
      (.ok gatherReasm, gatherStored.2) := by
  have h : gatherStored.1.isOk = true := by decide +kernel
  unfold gatherReasm gatherStored gatherGot at *
  exact stored_ok _ _ h

theorem pages_full (slot i die n : Nat) (s : State) (hq : (s.inst i).res.pages ≤ (s.inst i).frames.length) (hn : n ≠ 0) :
    takePages slot i die n s = (.error stExhausted, s) := by
  cases n with
  | zero => exact absurd rfl hn
  | succ n => unfold takePages takePage quotaUsed; rw [decide_eq_true hq, if_pos rfl]

theorem segment_full (slot : Nat) (r : Reasm) (d : List Byte) (s : State) (hq : (s.inst r.inst).res.pages ≤ (s.inst r.inst).frames.length)
    (hn : pagesFor (r.bytes.length + d.length) - r.pages.length ≠ 0) : storeSegment slot r d s = (.error stExhausted, s) := by
  unfold storeSegment
  rw [pages_full _ _ _ _ _ hq hn]

theorem gather_full : storeSegment 0 (newReasm (gotBy ftXdata 3 xdataIn) (leAt xdataIn.payload 2 1) (leAt xdataIn.payload 0 2))
    (xdataIn.payload.drop 24) (ackGot (gotBy ftXdata 3 xdataIn) (markSeen (gotBy ftXdata 3 xdataIn) (gatherRoom 0))) =
      (.error stExhausted, ackGot (gotBy ftXdata 3 xdataIn) (markSeen (gotBy ftXdata 3 xdataIn) (gatherRoom 0))) :=
  segment_full _ _ _ _ (by decide +kernel) (by decide +kernel)

/-! ## States and operands that meet the hypotheses of each statement -/

theorem witness_ScalarResults :
    (∃ (f : Fin 128) (s : State), Quiet f.val s) ∧
    (∃ (f : Fin 128) (imm : BitVec 16) (s : State), field imm 7 6 = 0 ∧ Quiet f.val s) ∧
    (∃ (f : Fin 128) (imm : BitVec 16) (s : State), field imm 7 6 = 1 ∧ Quiet f.val s) ∧
    (∃ (f : Fin 128) (imm : BitVec 16) (s : State), field imm 7 6 = 2 ∧ Quiet f.val s) ∧
    (∃ (f : Fin 128) (imm : BitVec 16) (s : State), field imm 7 6 = 3 ∧ Quiet f.val s) :=
  ⟨⟨7, onF kF, quiet_of (by decide +kernel)⟩,
   ⟨7, 0x0000#16, onF kF, by decide +kernel, quiet_of (by decide +kernel)⟩,
   ⟨7, 0x0040#16, onF kF, by decide +kernel, quiet_of (by decide +kernel)⟩,
   ⟨7, 0x0080#16, onF kF, by decide +kernel, quiet_of (by decide +kernel)⟩,
   ⟨7, 0x00c0#16, onF kF, by decide +kernel, quiet_of (by decide +kernel)⟩⟩

theorem witness_ScratchpadAccess :
    (∃ (f : Fin 128) (a : BitVec 5) (imm : BitVec 16) (s : State), Quiet f.val s ∧
        scalarFault (s.frond f.val) (spAddr (s.frond f.val) a imm) 1 = none) ∧
    (∃ (f : Fin 128) (a : BitVec 5) (imm : BitVec 16) (s : State), Quiet f.val s ∧
        scalarFault (s.frond f.val) (spAddr (s.frond f.val) a imm) 2 = none) ∧
    (∃ (f : Fin 128) (a : BitVec 5) (imm : BitVec 16) (s : State), Quiet f.val s ∧
        scalarFault (s.frond f.val) (spAddr (s.frond f.val) a imm) 4 = none) ∧
    (∃ (f : Fin 128) (a : BitVec 5) (imm : BitVec 16) (s : State), Quiet f.val s ∧
        scalarFault (s.frond f.val) (spAddr (s.frond f.val) a imm) 8 = none) :=
  ⟨⟨7, 0x00#5, 0x0000#16, onF kF, quiet_of (by decide +kernel), by decide +kernel⟩,
   ⟨7, 0x00#5, 0x0000#16, onF kF, quiet_of (by decide +kernel), by decide +kernel⟩,
   ⟨7, 0x00#5, 0x0000#16, onF kF, quiet_of (by decide +kernel), by decide +kernel⟩,
   ⟨7, 0x00#5, 0x0000#16, onF kF, quiet_of (by decide +kernel), by decide +kernel⟩⟩

theorem witness_ScratchpadFaults :
    (∃ (f : Fin 128) (d a : BitVec 5) (imm : BitVec 16) (p : Instr × Nat) (s : State), p ∈ scalarAccesses f d a imm ∧
        Ready f.val s ∧ (s.frond f.val).exl = false ∧ spAddr (s.frond f.val) a imm % p.2 ≠ 0) ∧
    (∃ (f : Fin 128) (d a : BitVec 5) (imm : BitVec 16) (p : Instr × Nat) (s : State), p ∈ scalarAccesses f d a imm ∧
        Ready f.val s ∧ (s.frond f.val).exl = false ∧ spAddr (s.frond f.val) a imm % p.2 = 0 ∧
        spAddr (s.frond f.val) a imm = 0x200000) ∧
    (∃ (f : Fin 128) (d a : BitVec 5) (imm : BitVec 16) (p : Instr × Nat) (s : State), p ∈ scalarAccesses f d a imm ∧
        Ready f.val s ∧ (s.frond f.val).exl = false ∧ (s.frond f.val).isK = false ∧ spAddr (s.frond f.val) a imm % p.2 = 0 ∧
        spAddr (s.frond f.val) a imm < 0x200000 ∧ spAddr (s.frond f.val) a imm = (s.frond f.val).wlim.toNat) ∧
    (∃ a b n : Nat, ∃ d : List Byte, d ≠ [] ∧ b + n = a) :=
  ⟨⟨7, 3, 5, 0, (.ldD 7 3 5 0, 8), onF { pF with g := [(5, 0x50001)] }, by decide +kernel, ⟨by decide +kernel, by decide +kernel,
      by decide +kernel, by decide +kernel⟩, by decide +kernel, by decide +kernel⟩,
   ⟨7, 3, 5, 0, (.stD 7 3 5 0, 8), onF { pF with g := [(5, 0x200000)] }, by decide +kernel, ⟨by decide +kernel, by decide +kernel,
      by decide +kernel, by decide +kernel⟩, by decide +kernel, by decide +kernel, by decide +kernel⟩,
   ⟨7, 3, 5, 0, (.fldS 7 3 5 0, 4), onF { pF with g := [(5, 0x80000)] }, by decide +kernel, ⟨by decide +kernel, by decide +kernel,
      by decide +kernel, by decide +kernel⟩, by decide +kernel, by decide +kernel, by decide +kernel, by decide +kernel, by decide +kernel⟩,
   ⟨0x50004, 0x50000, 4, [1], by decide, by decide⟩⟩

theorem witness_JumpsAndBranches :
    (∃ (f : Fin 128) (s : State), Quiet f.val s) ∧
    (∃ (f : Fin 128) (c : BitVec 5) (s : State), 5 < c.toNat ∧ Ready f.val s ∧ (s.frond f.val).exl = false) ∧
    (∃ (f : Fin 128) (s : State), Quiet f.val s) ∧
    (∃ (f : Fin 128) (c : BitVec 5) (a : BitVec 5) (b : BitVec 5) (s : State) (x : Bool), Quiet f.val s ∧
        brCond c ((s.frond f.val).gr a) ((s.frond f.val).gr b) = some x) :=
  ⟨⟨7, onF kF, quiet_of (by decide +kernel)⟩,
   ⟨7, 0x07#5, onF kF, by decide +kernel, ready_of (by decide +kernel), by decide +kernel⟩,
   ⟨(7 : Fin 128), (onF { kF with status := 1, pc := 0x80 }), quiet_of (by decide +kernel)⟩,
   ⟨(7 : Fin 128), (2 : BitVec 5), (5 : BitVec 5), (6 : BitVec 5), (onF { pF with status := 0, pc := 0x104 }),
       (brCond 2 (((onF { pF with status := 0, pc := 0x104 }).frond 7).gr 5) (((onF { pF with status := 0, pc := 0x104 }).frond 7).gr 6)).getD false,
       quiet_of (by decide +kernel), by decide +kernel⟩⟩

theorem witness_FloatingResults :
    (∃ (f : Fin 128) (s : State), Quiet f.val s) ∧
    (∃ (f : Fin 128) (s : State), Quiet f.val s ∧ (s.frond f.val).exl = false) :=
  ⟨⟨7, onF kF, quiet_of (by decide +kernel)⟩,
   ⟨7, onF kF, quiet_of (by decide +kernel), by decide +kernel⟩⟩

theorem witness_SystemInstructions :
    (∃ (f : Fin 128) (imm : BitVec 16) (acc : _) (s : State), crAccess imm.toNat = some acc ∧ Quiet f.val s ∧ crLevel (s.frond f.val) acc ≠ .none) ∧
    (∃ (f : Fin 128) (imm : BitVec 16) (acc : _) (s : State), crAccess (field imm 10 0) = some acc ∧ Quiet f.val s ∧
        crLevel (s.frond f.val) acc = .rw) ∧
    (∃ (f : Fin 128) (s : State), Quiet f.val s ∧ (s.frond f.val).isK = true) ∧
    (∃ (f : Fin 128) (s : State), Quiet f.val s) ∧
    (∃ (f : Fin 128) (s : State), Quiet f.val s ∧ ((s.frond f.val).isK = true ∧ (s.frond f.val).event = true)) ∧
    (∃ (f : Fin 128) (s : State), Quiet f.val s ∧ ((s.frond f.val).isK = true ∨ (s.frond f.val).pen = true)) ∧
    (∃ (f : Fin 128) (s : State), Ready f.val s ∧ (s.frond f.val).isK = false ∧ (s.frond f.val).exl = false) ∧
    (∃ (f : Fin 128) (s : State), Ready f.val s ∧ ((s.frond f.val).isK = false ∧ (s.frond f.val).pen = false) ∧ (s.frond f.val).exl = false) ∧
    (∃ (f : Fin 128) (s : State), Ready f.val s ∧ (s.frond f.val).isK = true ∧ (s.frond f.val).event = false) :=
  ⟨⟨7, 0x0000#16, _, onF kF, rfl, quiet_of (by decide +kernel), by decide +kernel⟩,
   ⟨7, 0x0000#16, _, onF kF, rfl, quiet_of (by decide +kernel), by decide +kernel⟩,
   ⟨7, onF kF, quiet_of (by decide +kernel), by decide +kernel⟩,
   ⟨7, onF kF, quiet_of (by decide +kernel)⟩,
   ⟨7, onF { kF with event := true }, quiet_of (by decide +kernel), by decide +kernel⟩,
   ⟨7, onF kF, quiet_of (by decide +kernel), by decide +kernel⟩,
   ⟨7, onF pF, ready_of (by decide +kernel), by decide +kernel⟩,
   ⟨7, onF pF, ready_of (by decide +kernel), by decide +kernel⟩,
   ⟨(7 : Fin 128), (onF { kF with status := 1, pc := 0x80, event := false }), ready_of (by decide +kernel), by decide +kernel⟩⟩

theorem witness_Exceptions :
    (∃ (f : Fin 128) (s : State), Ready f.val s ∧ (s.frond f.val).exl = false) ∧
    (∃ (f : Fin 128) (s : State), Ready f.val s ∧ (s.frond f.val).exl = false) ∧
    (∃ (f : Fin 128) (s : State), Ready f.val s ∧ (s.frond f.val).exl = true ∧ (s.frond f.val).item = none ∧
        ((∀ n < 16, ((s.frond f.val).tags.get StreamTag.idle n).st ≠ .pending)) ∧ s.mem.leaving = [] ∧ s.mp.arbitrating = false) ∧
    (∃ (f : Fin 128) (s : State), (s.frond f.val).listed = false) ∧
    (∃ (f : Fin 128) (s : State), (s.frond f.val).halted = false ∧ clockOn f s = true ∧ (s.frond f.val).fetchOk = true ∧
        (s.frond f.val).listed = false ∧ (s.frond f.val).exl = false) :=
  ⟨⟨7, onF kF, ready_of (by decide +kernel), by decide +kernel⟩,
   ⟨(7 : Fin 128), (onF { pF with status := 0, pc := 0x104 }), ready_of (by decide +kernel), by decide +kernel⟩,
   ⟨(7 : Fin 128), (onF { kF with status := 0x81, pc := 0x80 }), ready_of (by decide +kernel), by decide +kernel⟩,
   ⟨(7 : Fin 128), (onF { pF with sp := (List.range 4).foldl (fun t i => Tbl.set 0 t (0x104 + i) (0xFF : Byte)) [] }), by decide +kernel⟩,
   ⟨(7 : Fin 128), (onF { pF with sp := (List.range 4).foldl (fun t i => Tbl.set 0 t (0x104 + i) (0xFF : Byte)) [] }), by decide +kernel⟩⟩

theorem witness_StreamsAndEvents :
    (∃ (f : Fin 128) (b : BitVec 5) (s : State), b.toNat ≤ 15 ∧ Quiet f.val s) ∧
    (∃ (f : Fin 128) (b : BitVec 5) (s : State), b.toNat ≤ 15 ∧ Quiet f.val s ∧ (((s.frond f.val).tags.get StreamTag.idle b.toNat).st ≠ .pending ∧
        ¬ (((s.frond f.val).tags.get StreamTag.idle b.toNat).st = .failed ∧ ((s.frond f.val).tags.get StreamTag.idle b.toNat).raised = false))) ∧
    (∃ (f : Fin 128) (s : State), Quiet f.val s ∧ (s.frond f.val).isK = true) ∧
    (∃ (f : Fin 128) (s : State), (s.frond f.val).item.isSome = true ∧ (s.frond f.val).stopping.isSome = true ∧ (s.frond f.val).halted = false ∧
        (s.frond f.val).isK = true ∧ (s.frond f.val).ie = false) ∧
    (∃ (f : Fin 128) (s : State), (s.frond f.val).item.isSome = true ∧ (s.frond f.val).stopping.isSome = true ∧ (s.frond f.val).halted = false ∧
        (s.frond f.val).isK = false ∧ (s.frond f.val).exl = false) ∧
    (∃ (f : Fin 128) (s : State), (s.frond f.val).isK = false ∧ (s.frond f.val).halted = false ∧ clockOn f.val s = true ∧
        (s.frond f.val).budget = 1 ∧ (s.frond f.val).stopReq = false ∧ (s.frond f.val).exl = false) ∧
    (∃ (f : Fin 128) (s : State), (s.frond f.val).halted = true) ∧
    (∃ (f : Fin 128) (tag : Nat) (d : List Byte) (s : State), ((s.frond f.val).tags.get StreamTag.idle tag).st = .pending ∧
        ((s.frond f.val).tags.get StreamTag.idle tag).space = 1 ∧ ((s.frond f.val).tags.get StreamTag.idle tag).put = false ∧
        ((s.frond f.val).tags.get StreamTag.idle tag).cut = false ∧ ((s.frond f.val).tags.get StreamTag.idle tag).len = d.length ∧ d ≠ [] ∧
        (s.hostPort (itemPort f.val s)).absent = false) ∧
    (∃ (f : Fin 128) (a b : BitVec 5) (s : State), Quiet f.val s ∧ b.toNat ≤ 15 ∧ ((s.frond f.val).tags.get StreamTag.idle b.toNat).st ≠ .pending ∧
        ((s.frond f.val).gr a).toNat % 8 = 0 ∧ (s.frond f.val).spOpen ((s.frond f.val).gr a).toNat 32 = true ∧
        (readDesc (s.frond f.val) ((s.frond f.val).gr a).toNat).ok (s.frond f.val) = true ∧ (s.frond f.val).isK = true) ∧
    (∃ (f : Fin 128) (s : State), Quiet f.val s ∧ (s.frond f.val).isK = true ∧ (s.frond f.val).exl = false ∧ handoffDepth s (s.frond f.val) = none) :=
  ⟨⟨7, 0x00#5, onF kF, by decide +kernel, quiet_of (by decide +kernel)⟩,
   ⟨7, 0x00#5, onF kF, by decide +kernel, quiet_of (by decide +kernel), by decide +kernel⟩,
   ⟨(7 : Fin 128), (onF { kF with status := 1, pc := 0x80, tags := [(3, { StreamTag.idle with st := .pending, len := 8 })] }),
       quiet_of (by decide +kernel), by decide +kernel⟩,
   ⟨(7 : Fin 128), (onF { kF with status := 1, pc := 0x80, item := some ⟨0, 0, 0, 0⟩, stopping := some 3 }), by decide +kernel⟩,
   ⟨(7 : Fin 128), (onF { pF with status := 0, pc := 0x104, item := some ⟨0, 0, 0, 0⟩, stopping := some 3 }), by decide +kernel⟩,
   ⟨(7 : Fin 128), (onF { pF with status := 0, pc := 0x104, budget := 1 }), by decide +kernel⟩,
   ⟨(7 : Fin 128), (onF { kF with status := 1, pc := 0x80, halted := true }), by decide +kernel⟩,
   ⟨(7 : Fin 128), 4, [1, 2, 3],
       (onF { kF with status := 1, pc := 0x80, tags := [(4, { StreamTag.idle with st := .pending, space := 1, len := 3, spaddr := 0x50000, sent := true })] }),
       by decide +kernel⟩,
   ⟨7, 1, 15, (onF { kF with sp := [(0x50006, 6), (0x50010, 8)] }), quiet_of (by decide +kernel), by decide +kernel⟩,
   ⟨7, onF kF, quiet_of (by decide +kernel), by decide +kernel⟩⟩

theorem witness_VectorIntegerAndCompare :
    (∃ (f : Fin 128) (o : VOps) (s : State), VForm.ok (vopForm 0) o = true ∧ Quiet f.val s) ∧
    (∃ (f : Fin 128) (o : VOps) (s : State), VForm.ok (vopForm 1) o = true ∧ Quiet f.val s) ∧
    (∃ (f : Fin 128) (o : VOps) (s : State), VForm.ok (vopForm 2) o = true ∧ Quiet f.val s) ∧
    (∃ (f : Fin 128) (o : VOps) (s : State), VForm.ok (vopForm 3) o = true ∧ Quiet f.val s) ∧
    (∃ (f : Fin 128) (o : VOps) (s : State), VForm.ok (vopForm 4) o = true ∧ Quiet f.val s) ∧
    (∃ (f : Fin 128) (o : VOps) (s : State), VForm.ok (vopForm 5) o = true ∧ Quiet f.val s) ∧
    (∃ (f : Fin 128) (o : VOps) (s : State), VForm.ok (vopForm 6) o = true ∧ Quiet f.val s) ∧
    (∃ (f : Fin 128) (o : VOps) (s : State), VForm.ok (vopForm 7) o = true ∧ Quiet f.val s) ∧
    (∃ (f : Fin 128) (o : VOps) (s : State), VForm.ok (vopForm 8) o = true ∧ Quiet f.val s) ∧
    (∃ (f : Fin 128) (o : VOps) (s : State), VForm.ok (vopForm 9) o = true ∧ Quiet f.val s) ∧
    (∃ (f : Fin 128) (o : VOps) (s : State), VForm.ok (vopForm 10) o = true ∧ Quiet f.val s) ∧
    (∃ (f : Fin 128) (o : VOps) (s : State), VForm.ok (vopForm 11) o = true ∧ Quiet f.val s) ∧
    (∃ (f : Fin 128) (o : VOps) (s : State), VForm.ok (vopForm 12) o = true ∧ Quiet f.val s) ∧
    (∃ (f : Fin 128) (o : VOps) (s : State), VForm.ok (vopForm 13) o = true ∧ Quiet f.val s) ∧
    (∃ (f : Fin 128) (o : VOps) (s : State), VForm.ok (vopForm 14) o = true ∧ Quiet f.val s) ∧
    (∃ (f : Fin 128) (o : VOps) (s : State), VForm.ok (vopForm 15) o = true ∧ Quiet f.val s) ∧
    (∃ (f : Fin 128) (o : VOps) (fn : BitVec 4) (s : State), fn.toNat ≠ 15 ∧ VForm.ok (vopForm fn.toNat) o = true ∧ Quiet f.val s) ∧
    (∃ (f : Fin 128) (o : VOps) (s : State), VForm.ok cmpForm o = true ∧ Quiet f.val s) ∧
    (∃ (f : Fin 128) (o : VOps) (fn : BitVec 4) (s : State), fn.toNat ≤ 11 ∧ VForm.ok cmpForm o = true ∧ Quiet f.val s) :=
  ⟨⟨7, ⟨3, 1, 2, false, 0, 0⟩, onF kF, by decide +kernel, quiet_of (by decide +kernel)⟩,
   ⟨7, ⟨3, 1, 2, false, 0, 0⟩, onF kF, by decide +kernel, quiet_of (by decide +kernel)⟩,
   ⟨7, ⟨3, 1, 2, false, 0, 0⟩, onF kF, by decide +kernel, quiet_of (by decide +kernel)⟩,
   ⟨7, ⟨3, 1, 2, false, 0, 0⟩, onF kF, by decide +kernel, quiet_of (by decide +kernel)⟩,
   ⟨7, ⟨3, 1, 2, false, 0, 0⟩, onF kF, by decide +kernel, quiet_of (by decide +kernel)⟩,
   ⟨7, ⟨3, 1, 2, false, 0, 0⟩, onF kF, by decide +kernel, quiet_of (by decide +kernel)⟩,
   ⟨7, ⟨3, 1, 2, false, 0, 0⟩, onF kF, by decide +kernel, quiet_of (by decide +kernel)⟩,
   ⟨7, ⟨3, 1, 2, false, 0, 0⟩, onF kF, by decide +kernel, quiet_of (by decide +kernel)⟩,
   ⟨7, ⟨3, 1, 2, false, 0, 0⟩, onF kF, by decide +kernel, quiet_of (by decide +kernel)⟩,
   ⟨7, ⟨3, 1, 2, false, 0, 0⟩, onF kF, by decide +kernel, quiet_of (by decide +kernel)⟩,
   ⟨7, ⟨3, 1, 2, false, 0, 0⟩, onF kF, by decide +kernel, quiet_of (by decide +kernel)⟩,
   ⟨7, ⟨3, 1, 2, false, 0, 0⟩, onF kF, by decide +kernel, quiet_of (by decide +kernel)⟩,
   ⟨7, ⟨3, 1, 2, false, 0, 0⟩, onF kF, by decide +kernel, quiet_of (by decide +kernel)⟩,
   ⟨7, ⟨3, 1, 2, false, 0, 0⟩, onF kF, by decide +kernel, quiet_of (by decide +kernel)⟩,
   ⟨7, ⟨3, 1, 2, false, 0, 0⟩, onF kF, by decide +kernel, quiet_of (by decide +kernel)⟩,
   ⟨7, ⟨3, 1, 2, true, 0, 0⟩, onF kF, by decide +kernel, quiet_of (by decide +kernel)⟩,
   ⟨7, ⟨3, 1, 2, false, 0, 0⟩, 0x0#4, onF kF, by decide +kernel, by decide +kernel, quiet_of (by decide +kernel)⟩,
   ⟨7, ⟨3, 1, 2, false, 0, 0⟩, onF kF, by decide +kernel, quiet_of (by decide +kernel)⟩,
   ⟨7, ⟨3, 1, 2, false, 0, 0⟩, 0x0#4, onF kF, by decide +kernel, by decide +kernel, quiet_of (by decide +kernel)⟩⟩

theorem witness_VectorFloatResults :
    (∃ (f : Fin 128) (o : VOps) (s : State), VForm.ok { d := .any, a := .any, b := .any, men := 1, ws := wFp } o = true ∧ Quiet f.val s) ∧
    (∃ (f : Fin 128) (o : VOps) (s : State), VForm.ok { d := .any, a := .any, b := .unused, men := 1, ws := wFp } o = true ∧ Quiet f.val s) ∧
    (∃ (f : Fin 128) (o : VOps) (s : State), VForm.ok { d := .any, a := .any, b := .unused, men := 1, ws := wD } o = true ∧ Quiet f.val s) ∧
    (∃ (f : Fin 128) (o : VOps) (s : State), VForm.ok { d := .mask, a := .any, b := .any, men := 1, ws := wFp } o = true ∧ Quiet f.val s) :=
  ⟨⟨7, ⟨3, 1, 2, false, 0, 2⟩, onF kF, by decide +kernel, quiet_of (by decide +kernel)⟩,
   ⟨7, ⟨3, 1, 0, false, 0, 2⟩, onF kF, by decide +kernel, quiet_of (by decide +kernel)⟩,
   ⟨7, ⟨3, 1, 0, false, 0, 3⟩, onF kF, by decide +kernel, quiet_of (by decide +kernel)⟩,
   ⟨7, ⟨3, 1, 2, false, 0, 2⟩, onF kF, by decide +kernel, quiet_of (by decide +kernel)⟩⟩

theorem witness_VectorMasksAndMoves :
    (∃ (f : Fin 128) (o : VOps) (s : State), VForm.ok { d := .mask, a := .mask, b := .mask, men := 0, ws := [0] } o = true ∧ Quiet f.val s) ∧
    (∃ (f : Fin 128) (o : VOps) (s : State), VForm.ok { d := .mask, a := .mask, b := .unused, men := 0, ws := [0] } o = true ∧ Quiet f.val s) ∧
    (∃ (f : Fin 128) (o : VOps) (s : State), VForm.ok { d := .any, a := .mask, b := .unused, men := 0, ws := [0] } o = true ∧ Quiet f.val s) ∧
    (∃ (f : Fin 128) (o : VOps) (s : State), VForm.ok { d := .mask, a := .unused, b := .unused, men := 0, ws := [0] } o = true ∧ Quiet f.val s) ∧
    (∃ (f : Fin 128) (o : VOps) (s : State), VForm.ok { d := .mask, a := .any, b := .unused, men := 0, ws := [0] } o = true ∧ Quiet f.val s) ∧
    (∃ (f : Fin 128) (o : VOps) (s : State), VForm.ok { d := .any, a := .any, b := .unused, men := 1, ws := wInt } o = true ∧ Quiet f.val s) ∧
    (∃ (f : Fin 128) (o : VOps) (s : State), VForm.ok { d := .any, a := .unused, b := .any, men := 1, ws := wInt } o = true ∧ Quiet f.val s) ∧
    (∃ (f : Fin 128) (o : VOps) (s : State), VForm.ok { d := .any, a := .unused, b := .unused, men := 1, ws := wInt } o = true ∧ Quiet f.val s) ∧
    (∃ (f : Fin 128) (o : VOps) (s : State), VForm.ok { d := .any, a := .any, b := .unused, men := 1, ws := [1, 2, 3] } o = true ∧ Quiet f.val s) ∧
    (∃ (f : Fin 128) (o : VOps) (s : State), VForm.ok { d := .any, a := .any, b := .unused, men := 1, ws := [0, 1, 2] } o = true ∧ Quiet f.val s) ∧
    (∃ (f : Fin 128) (o : VOps) (s : State), VForm.ok { d := .any, a := .any, b := .any, men := 0, ws := wInt } o = true ∧ Quiet f.val s) ∧
    (∃ (f : Fin 128) (o : VOps) (s : State), VForm.ok { d := .any, a := .any, b := .unused, men := 2, ws := wInt } o = true ∧ Quiet f.val s) :=
  ⟨⟨7, ⟨3, 1, 2, false, 0, 0⟩, onF kF, by decide +kernel, quiet_of (by decide +kernel)⟩,
   ⟨7, ⟨3, 1, 0, false, 0, 0⟩, onF kF, by decide +kernel, quiet_of (by decide +kernel)⟩,
   ⟨7, ⟨3, 1, 0, false, 0, 0⟩, onF kF, by decide +kernel, quiet_of (by decide +kernel)⟩,
   ⟨7, ⟨3, 0, 0, false, 0, 0⟩, onF kF, by decide +kernel, quiet_of (by decide +kernel)⟩,
   ⟨7, ⟨3, 1, 0, false, 0, 0⟩, onF kF, by decide +kernel, quiet_of (by decide +kernel)⟩,
   ⟨7, ⟨3, 1, 0, false, 0, 0⟩, onF kF, by decide +kernel, quiet_of (by decide +kernel)⟩,
   ⟨7, ⟨3, 0, 2, false, 0, 0⟩, onF kF, by decide +kernel, quiet_of (by decide +kernel)⟩,
   ⟨7, ⟨3, 0, 0, false, 0, 0⟩, onF kF, by decide +kernel, quiet_of (by decide +kernel)⟩,
   ⟨7, ⟨3, 1, 0, false, 0, 1⟩, onF kF, by decide +kernel, quiet_of (by decide +kernel)⟩,
   ⟨7, ⟨3, 1, 0, false, 0, 0⟩, onF kF, by decide +kernel, quiet_of (by decide +kernel)⟩,
   ⟨7, ⟨3, 1, 2, false, 0, 0⟩, onF kF, by decide +kernel, quiet_of (by decide +kernel)⟩,
   ⟨7, ⟨3, 1, 0, true, 0, 0⟩, onF kF, by decide +kernel, quiet_of (by decide +kernel)⟩⟩

theorem witness_VectorReduceAndHash :
    (∃ (f : Fin 128) (o : VOps) (s : State), VForm.ok { d := .any, a := .any, b := .unused, men := 1, ws := wInt } o = true ∧ Quiet f.val s) ∧
    (∃ (f : Fin 128) (o : VOps) (s : State), VForm.ok { d := .any, a := .any, b := .unused, men := 1, ws := [4] } o = true ∧ Quiet f.val s) ∧
    (∃ (f : Fin 128) (o : VOps) (s : State), VForm.ok { d := .any, a := .any, b := .unused, men := 1, ws := wFp } o = true ∧ Quiet f.val s) ∧
    (∃ (f : Fin 128) (o : VOps) (s : State), VForm.ok { d := .any, a := .any, b := .any, men := 1, ws := wD } o = true ∧ Quiet f.val s) ∧
    (∃ (f : Fin 128) (o : VOps) (s : State), VForm.ok { d := .any, a := .any, b := .any, men := 0, ws := wInt } o = true ∧ Quiet f.val s) :=
  ⟨⟨7, ⟨3, 1, 0, false, 0, 0⟩, onF kF, by decide +kernel, quiet_of (by decide +kernel)⟩,
   ⟨7, ⟨3, 1, 0, false, 0, 4⟩, onF kF, by decide +kernel, quiet_of (by decide +kernel)⟩,
   ⟨7, ⟨3, 1, 0, false, 0, 2⟩, onF kF, by decide +kernel, quiet_of (by decide +kernel)⟩,
   ⟨7, ⟨3, 1, 2, false, 0, 3⟩, onF kF, by decide +kernel, quiet_of (by decide +kernel)⟩,
   ⟨7, ⟨3, 1, 2, false, 0, 0⟩, onF kF, by decide +kernel, quiet_of (by decide +kernel)⟩⟩

theorem witness_VectorWriteRules :
    (∃ (o : VOps) (e : Nat), o.w.toNat ≤ 4 ∧ e < vlmax o.w) :=
  ⟨⟨3, 1, 2, true, 0, 4⟩, 511, by decide +kernel⟩

theorem witness_VectorEncodingFaults :
    (∃ (f : Fin 128) (o : VOps) (s : State), (vopForm 0).ok o = false ∧ Ready f.val s ∧ (s.frond f.val).exl = false) ∧
    (∃ (f : Fin 128) (o : VOps) (s : State), cmpForm.ok o = false ∧ Ready f.val s ∧ (s.frond f.val).exl = false) ∧
    (∃ (f : Fin 128) (o : VOps) (s : State), VForm.ok { d := .mask, a := .mask, b := .mask, men := 0, ws := [0] } o = false ∧ Ready f.val s ∧
        (s.frond f.val).exl = false) ∧
    (∃ (f : Fin 128) (o : VOps) (s : State), (vmemForm false).ok o = false ∧ Ready f.val s ∧ (s.frond f.val).exl = false) ∧
    (∃ (f : Fin 128) (w : FrondWord) (s : State), decodeFrond f w = none ∧ Ready f.val s ∧ (s.frond f.val).exl = false) :=
  ⟨⟨7, ⟨3, 1, 2, false, 0, 4⟩, onF kF, by decide +kernel, ready_of (by decide +kernel), by decide +kernel⟩,
   ⟨7, ⟨3, 1, 2, false, 0, 4⟩, onF kF, by decide +kernel, ready_of (by decide +kernel), by decide +kernel⟩,
   ⟨7, ⟨3, 1, 2, true, 0, 0⟩, onF kF, by decide +kernel, ready_of (by decide +kernel), by decide +kernel⟩,
   ⟨7, ⟨3, 1, 2, true, 0, 4⟩, onF kF, by decide +kernel, ready_of (by decide +kernel), by decide +kernel⟩,
   ⟨7, 0xF4000000, onF kF, by decide, ready_of (by decide +kernel), by decide +kernel⟩⟩

theorem witness_VectorMemory :
    (∃ (f : Fin 128) (o : VOps) (s : State), Quiet f.val s ∧ ((vmemForm false).ok o = true ∧
        firstFault (fun e => spCheck (s.frond f.val) (vmemAddr false (s.frond f.val) o e) (elemBytes o)) (activeList (s.frond f.val) o (effLen (s.frond f.val) o.w)) = none)) ∧
    (∃ (f : Fin 128) (o : VOps) (s : State), Quiet f.val s ∧ ((vmemForm true).ok o = true ∧
        firstFault (fun e => spCheck (s.frond f.val) (vmemAddr true (s.frond f.val) o e) (elemBytes o)) (activeList (s.frond f.val) o (effLen (s.frond f.val) o.w)) = none)) ∧
    (∃ (f : Fin 128) (o : VOps) (s : State), Quiet f.val s ∧ ((packForm .any 1).ok o = true ∧
        firstFault (codeCheck (s.frond f.val) o) (activeList (s.frond f.val) o (effLen (s.frond f.val) o.w)) = none)) ∧
    (∃ (f : Fin 128) (o : VOps) (s : State), Quiet f.val s ∧ ((packForm .mask 1).ok o = true ∧
        firstFault (codeCheck (s.frond f.val) o) (activeList (s.frond f.val) o (effLen (s.frond f.val) o.w)) = none)) ∧
    (∃ (f : Fin 128) (o : VOps) (s : State), Quiet f.val s ∧ ((packForm .any 2).ok o = true ∧
        firstFault (codeCheck (s.frond f.val) o) (activeList (s.frond f.val) o (effLen (s.frond f.val) o.w)) = none)) ∧
    (∃ (f : Fin 128) (o : VOps) (s : State), Quiet f.val s ∧ ((packForm .any 1).ok o = true ∧
        firstFault (fun e => spCheck (s.frond f.val) (dictAddr (s.frond f.val) o e) (elemBytes o)) (activeList (s.frond f.val) o (effLen (s.frond f.val) o.w)) = none)) ∧
    (∃ (f : Fin 128) (o : VOps) (s : State), Quiet f.val s ∧ ((packForm .any 1).ok o = true ∧
        firstFault (rleCheck (s.frond f.val) o) (activeList (s.frond f.val) o (effLen (s.frond f.val) o.w)) = none)) ∧
    (∃ (f : Fin 128) (o : VOps) (s : State), Quiet f.val s ∧ ((packForm .any 1).ok o = true ∧ o.a ≠ 31 ∧
        (partRun o ((s.frond f.val).vr o.a.toNat) ((s.frond f.val).vr (o.a.toNat + 1)) (((s.frond f.val).gr o.b).toNat / 8 * 8) (activeList (s.frond f.val) o (effLen (s.frond f.val) o.w)) (s.frond f.val)).1 = .all)) ∧
    (∃ (f : Fin 128) (o : VOps) (scale : BitVec 2) (s : State), Quiet f.val s ∧
        (VForm.ok { d := .any, a := .any, b := .any, men := 1, ws := wInt } o = true ∧
        firstFault (fun e => spCheck (s.frond f.val) (gatherAddr (s.frond f.val) o scale e) (elemBytes o)) (activeList (s.frond f.val) o (gatherLen (s.frond f.val) o)) = none)) ∧
    (∃ (f : Fin 128) (o : VOps) (b : RleBody) (run off : Nat) (s : State), Quiet f.val s ∧ (packForm .any 0).ok o = true ∧
        firstFault (fun e => match rleAt (s.frond f.val) o e with | .error c => some c | .ok (_, .fault c a) => some (c, a) | .ok _ => none) ((List.range (effLen (s.frond f.val) o.w + 1)).filter fun e => decide ((s.frond f.val).vri.toNat ≤ e) || decide (e = effLen (s.frond f.val) o.w)) = none ∧
        rleAt (s.frond f.val) o (effLen (s.frond f.val) o.w) = .ok (b, .at run off)) :=
  ⟨⟨7, ⟨3, 1, 2, false, 0, 0⟩, onF kF, quiet_of (by decide +kernel), by decide +kernel⟩,
   ⟨7, ⟨3, 1, 2, false, 0, 0⟩, onF kF, quiet_of (by decide +kernel), by decide +kernel⟩,
   ⟨7, ⟨3, 1, 2, false, 0, 0⟩, onF kF, quiet_of (by decide +kernel), by decide +kernel⟩,
   ⟨7, ⟨3, 1, 2, false, 0, 0⟩, onF kF, quiet_of (by decide +kernel), by decide +kernel⟩,
   ⟨7, ⟨3, 1, 2, true, 0, 0⟩, onF kF, quiet_of (by decide +kernel), by decide +kernel⟩,
   ⟨7, ⟨3, 1, 2, false, 0, 0⟩, onF kF, quiet_of (by decide +kernel), by decide +kernel⟩,
   ⟨7, ⟨3, 1, 2, false, 0, 0⟩, onF kF, quiet_of (by decide +kernel), by decide +kernel⟩,
   ⟨7, ⟨3, 1, 2, false, 0, 0⟩, onF kF, quiet_of (by decide +kernel), by decide +kernel⟩,
   ⟨7, ⟨3, 1, 2, false, 0, 0⟩, 0x0#2, onF kF, quiet_of (by decide +kernel), by decide +kernel⟩,
   ⟨7, ⟨3, 1, 0, false, 0, 3⟩, ⟨1, 0x50008, 0x50010⟩, 0, 4, onF kF, quiet_of (by decide +kernel), by decide +kernel, by decide +kernel, rfl⟩⟩

theorem witness_StepRunsQueue :
    (∃ s : State, s.pending = []) :=
  ⟨base, rfl⟩

theorem witness_Rings :
    (∃ (i : Nat) (n : Nat) (v : W32) (s : State), TakesRings i s ∧ n < (s.inst i).res.sqs ∧ (s.sq i n).st = .active ∧ (s.sq i n).slotRes = none ∧
        checkTail (s.sq i n) (v.toNat % ringMask (s.sq i n).log2) = .accepted) ∧
    (∃ (i : Nat) (n : Nat) (v : W32) (s : State), TakesRings i s ∧ n < (s.inst i).res.sqs ∧ (s.sq i n).st = .active ∧
        ringUsed (s.sq i n).log2 (v.toNat % ringMask (s.sq i n).log2) (s.sq i n).head.toNat > ringSize (s.sq i n).log2) ∧
    (∃ (i : Nat) (n : Nat) (v : W32) (s : State), TakesRings i s ∧ n < (s.inst i).res.sqs ∧ (s.sq i n).st = .active ∧
        ringUsed (s.sq i n).log2 (v.toNat % ringMask (s.sq i n).log2) (s.sq i n).head.toNat ≤ ringSize (s.sq i n).log2 ∧
        ringUsed (s.sq i n).log2 (v.toNat % ringMask (s.sq i n).log2) (s.sq i n).head.toNat < ringUsed (s.sq i n).log2 (s.sq i n).tail.toNat (s.sq i n).head.toNat) ∧
    (∃ (i : Nat) (n : Nat) (l : Line) (s : State), TakesRings i s ∧ n < (s.inst i).res.sqs ∧ (s.sq i n).st = .active ∧ (s.sq i n).slotRes = none ∧
        checkTail (s.sq i n) (ringNext (s.sq i n).log2 (s.sq i n).tail.toNat) = .accepted ∧
        entPhase l = ringWrap (s.sq i n).log2 (s.sq i n).tail.toNat ∧ (s.sq i n).spores.length < 8) ∧
    (∃ (i : Nat) (n : Nat) (l : Line) (s : State), TakesRings i s ∧ n < (s.inst i).res.sqs ∧ (s.sq i n).st = .active ∧ (s.sq i n).slotRes = none ∧
        checkTail (s.sq i n) (ringNext (s.sq i n).log2 (s.sq i n).tail.toNat) = .accepted ∧
        ((entPhase l ≠ ringWrap (s.sq i n).log2 (s.sq i n).tail.toNat ∨ 8 ≤ (s.sq i n).spores.length))) ∧
    (∃ (i : Nat) (n : Nat) (v : W32) (s : State), TakesRings i s ∧ n < (s.inst i).res.cqs ∧ (s.cq i n).st = .active ∧
        ringUsed (s.cq i n).log2 (s.cq i n).tail.toNat (v.toNat % ringMask (s.cq i n).log2) ≤ ringUsed (s.cq i n).log2 (s.cq i n).tail.toNat (s.cq i n).head.toNat) ∧
    (∃ (i : Nat) (n : Nat) (v : W32) (s : State), TakesRings i s ∧ n < (s.inst i).res.cqs ∧ (s.cq i n).st = .active ∧
        ringUsed (s.cq i n).log2 (s.cq i n).tail.toNat (s.cq i n).head.toNat < ringUsed (s.cq i n).log2 (s.cq i n).tail.toNat (v.toNat % ringMask (s.cq i n).log2)) ∧
    (∃ (i : Nat) (n : Nat) (u : State) (s : State), TakesRings i s ∧ (s.sq i n).st = .active ∧ (s.sq i n).slotRes = none ∧
        (s.sq i n).head ≠ (s.sq i n).tail ∧ sqOut s i n < (s.sq i n).outlim ∧ slotsHeld s i < (s.inst i).res.slots ∧ freeSlot s < nSlots ∧
        cqHolds i (s.sq i n).cq s = false ∧ (s.sq i n).spores = [] ∧ (s.sq i n).copies = [] ∧
        fetchTurn i (setStall i n false false false s) = some u) ∧
    (∃ (i : Nat) (n : Nat) (s : State), TakesRings i s ∧ (s.sq i n).st = .active ∧ (s.sq i n).slotRes = none ∧ (s.sq i n).head ≠ (s.sq i n).tail ∧
        sqOut s i n < (s.sq i n).outlim ∧ slotsHeld s i < (s.inst i).res.slots ∧ freeSlot s < nSlots ∧ cqHolds i (s.sq i n).cq s = false ∧
        fetchTurn i (setStall i n false false false s) = none) ∧
    (∃ (i : Nat) (n : Nat) (s : State), TakesRings i s ∧ (s.sq i n).st = .active ∧ (s.sq i n).slotRes = none ∧ (s.sq i n).head ≠ (s.sq i n).tail ∧
        (s.sq i n).outlim ≤ sqOut s i n) ∧
    (∃ (i : Nat) (n : Nat) (idx : Nat) (s : State), (s.sq i n).reads.contains idx = false ∧ (s.sq i n).phaseOn.contains idx = false ∧
        ((s.sq i n).spores.all (fun e => decide (e.1 ≠ idx)) = true) ∧ ((s.sq i n).copies.all (fun e => decide (e.1 ≠ idx)) = true) ∧
        (s.hostPort (s.sq i n).port).up = true) ∧
    (∃ (i : Nat) (n : Nat) (idx : Nat) (s : State), (s.hostPort (s.sq i n).port).absent = false ∧ (s.sq i n).st = .active ∧
        (s.sq i n).phaseOn.contains idx = false ∧ covered (s.sq i n) idx = false ∧ prefetchable (s.sq i n) idx = true) ∧
    (∃ (i : Nat) (n : Nat) (idx : Nat) (s : State), (s.sq i n).st = .active ∧ (s.sq i n).phaseOn.contains idx = false ∧
        ((covered (s.sq i n) idx = true ∨ prefetchable (s.sq i n) idx = true))) ∧
    (∃ (i : Nat) (n : Nat) (idx : Nat) (l : Line) (s : State), (s.hostPort (s.sq i n).port).absent = false ∧ (s.sq i n).st = .active ∧
        (s.sq i n).phaseOn.contains idx = false ∧ covered (s.sq i n) idx = true ∧ entPhase l ≠ ringWrap (s.sq i n).log2 idx ∧
        ((s.sq i n).spores.all (fun e => decide (e.1 ≠ idx)) = true)) ∧
    (∃ (i : Nat) (n : Nat) (idx : Nat) (l : Line) (s : State), (s.hostPort (s.sq i n).port).absent = false ∧
        ((s.sq i n).compares.find? (fun e => e.1 = idx) = some (idx, l))) ∧
    (∃ (i : Nat) (n : Nat) (idx : Nat) (l : Line) (m : Line) (s : State), (s.hostPort (s.sq i n).port).absent = false ∧
        ((s.sq i n).compares.find? (fun e => e.1 = idx) = some (idx, l)) ∧ m ≠ l ∧ entPhase m = ringWrap (s.sq i n).log2 idx) :=
  ⟨⟨0, 0, 16, rings, takesRings_of (by decide +kernel), by decide +kernel⟩,
   ⟨0, 0, 17, rings, takesRings_of (by decide +kernel), by decide +kernel⟩,
   ⟨0, 0, 1, (rings.setSq 0 0 { Sq.absent with st := .active, outlim := 8, tail := 2 }), takesRings_of (by decide +kernel), by decide +kernel⟩,
   ⟨0, 0, ent 0 0 0 0 0 0 0 0, rings, takesRings_of (by decide +kernel), by decide +kernel⟩,
   ⟨0, 0, BitVec.ofNat 512 (2 ^ 55), rings, takesRings_of (by decide +kernel), by decide +kernel⟩,
   ⟨0, 0, 1, rings.setCq 0 0 { Cq.absent with st := .active, tail := 1 }, takesRings_of (by decide +kernel), by decide +kernel⟩,
   ⟨0, 0, 2, rings.setCq 0 0 { Cq.absent with st := .active, tail := 1 }, takesRings_of (by decide +kernel), by decide +kernel⟩,
   ⟨0, 0, ((fetchTurn 0 (setStall 0 0 false false false (rings.setSq 0 0 { Sq.absent with st := .active, outlim := 8, tail := 1 }))).getD base),
       (rings.setSq 0 0 { Sq.absent with st := .active, outlim := 8, tail := 1 }), takesRings_of (by decide +kernel), by decide +kernel⟩,
   ⟨0, 0, (let s := (((rings.setSq 0 0 { Sq.absent with st := .active, outlim := 8, tail := 1 }).setInst 2 Inst.zero).setSq 2 0 { Sq.absent with st := .active, outlim := 8, tail := 1 }).setCq 2 0 { Cq.absent with st := .active }; { s with disp := { s.disp with fetchInst := 2, fetchCredit := 3 } }),
       takesRings_of (by decide +kernel), by decide +kernel⟩,
   ⟨0, 0, rings.setSq 0 0 { Sq.absent with st := .active, outlim := 0, tail := 1 }, takesRings_of (by decide +kernel), by decide +kernel⟩,
   ⟨0, 0, 7, (rings.setSq 0 0 { Sq.absent with st := .active, base := 4096, outlim := 8, tail := 9 }), by decide +kernel⟩,
   ⟨0, 0, 7, (rings.setSq 0 0 { Sq.absent with st := .active, outlim := 8, prefetching := true }), by decide +kernel⟩,
   ⟨0, 0, 0, (rings.setSq 0 0 { Sq.absent with st := .active, outlim := 8, tail := 1 }), by decide +kernel⟩,
   ⟨0, 0, 0, BitVec.ofNat 512 (2 ^ 55), (rings.setSq 0 0 { Sq.absent with st := .active, outlim := 8, tail := 1, reads := [0] }), by decide +kernel⟩,
   ⟨0, 0, 0, (1 : Line), (rings.setSq 0 0 { Sq.absent with st := .active, outlim := 8, compares := [(0, 1)] }), by decide +kernel⟩,
   ⟨0, 0, 0, (1 : Line), (2 : Line), (rings.setSq 0 0 { Sq.absent with st := .active, outlim := 8, compares := [(0, 1)] }), by decide +kernel⟩⟩

theorem witness_NopAbortAndDeadlines :
    (∃ (k : Nat) (c : Cmd) (s : State), Handed k 0 c s) ∧
    (∃ (k : Nat) (c : Cmd) (s : State), Handed k 0x3F c s ∧ abortFieldsOk c = false) ∧
    (∃ (k : Nat) (c : Cmd) (s : State), Handed k 0x3F c s ∧ abortFieldsOk c = true ∧
        abortTarget s c.inst (field (c.word 6) 12 0) (c.word 5) = none ∧ writtenRecord (s.sq c.inst (field (c.word 6) 12 0)) (c.word 5) = none) ∧
    (∃ (k : Nat) (c : Cmd) (j : Nat) (x : _) (s : State), Handed k 0x3F c s ∧ abortFieldsOk c = true ∧
        abortTarget s c.inst (field (c.word 6) 12 0) (c.word 5) = some (j, x) ∧ s.cmd j = some x ∧ x.outcome = none ∧
        writtenRecord (s.sq c.inst (field (c.word 6) 12 0)) (c.word 5) = none) ∧
    (∃ (k : Nat) (c : Cmd) (tm : Timer) (s : State), s.cmd k = some c ∧ c.outcome = none ∧
        ((dueTimers s).find? (fun t => decide (t.slot = k)) = some tm) ∧ ((∀ x ∈ dueTimers s, x.before tm = false))) ∧
    (∃ (k : Nat) (c : Cmd) (o : Nat) (tm : Timer) (s : State), s.cmd k = some c ∧ c.outcome = some o ∧
        ((dueTimers s).find? (fun t => decide (t.slot = k)) = some tm) ∧ ((∀ x ∈ dueTimers s, x.before tm = false))) ∧
    (∃ (k : Nat) (tm : Timer) (x : Timer) (s : State), ((dueTimers s).find? (fun t => decide (t.slot = k)) = some tm) ∧ x ∈ dueTimers s ∧
        x.before tm = true) ∧
    (∃ (k : Nat) (c : Cmd) (d : Nat) (s : State), s.cmd k = some c ∧ c.deadline = some d ∧ s.time < d ∧ timerFree s c.inst = true ∧
        ((s.disp.tmrQ.filter fun j => (s.cmd j).any fun x => x.inst = c.inst).head? = some k)) ∧
    (∃ (k : Nat) (c : Cmd) (d : Nat) (s : State), s.cmd k = some c ∧ c.deadline = some d ∧ d ≤ s.time ∧ c.outcome = none ∧
        timerFree s c.inst = true ∧ ((s.disp.tmrQ.filter fun j => (s.cmd j).any fun x => x.inst = c.inst).head? = some k)) :=
  ⟨⟨0, mkCmd (ent 0 0 0 0 0 0 0 0) .handed, withCmd (mkCmd (ent 0 0 0 0 0 0 0 0) .handed), handed_of (by decide +kernel)⟩,
   ⟨0, mkCmd (ent 0x3F 0 0 0 0 0 0 0) .handed, withCmd (mkCmd (ent 0x3F 0 0 0 0 0 0 0) .handed), handed_of (by decide +kernel), by decide +kernel⟩,
   ⟨0, mkCmd (ent 0x3F 0 0 0 0 9 0 0) .handed, withCmd (mkCmd (ent 0x3F 0 0 0 0 9 0 0) .handed), handed_of (by decide +kernel), by decide +kernel⟩,
   ⟨0, mkCmd (ent 0x3F 0 0 0 0 1 0 0) .handed, 1, mkCmd (ent 0 0 0 0 0 0 0 0) .handed,
       (withCmd (mkCmd (ent 0x3F 0 0 0 0 1 0 0) .handed)).setCmd 1 (some (mkCmd (ent 0 0 0 0 0 0 0 0) .handed)), handed_of (by decide +kernel),
       by decide +kernel⟩,
   ⟨0, mkCmd (ent 0 0 0 0 0 0 0 0) .handed, { id := 0, owner := some 0, slot := 0, expiry := 10, setAt := 0 },
       (let s := withCmd (mkCmd (ent 0 0 0 0 0 0 0 0) .handed); { s with time := 10, disp := { s.disp with timers := [{ id := 0, owner := some 0, slot := 0, expiry := 10, setAt := 0 }] } }),
       by decide +kernel⟩,
   ⟨0, { mkCmd (ent 0 0 0 0 0 0 0 0) .ended with outcome := some 0 }, 0, { id := 0, owner := some 0, slot := 0, expiry := 10, setAt := 0 },
       (let s := withCmd ({ mkCmd (ent 0 0 0 0 0 0 0 0) .ended with outcome := some 0 }); { s with time := 10, disp := { s.disp with timers := [{ id := 0, owner := some 0, slot := 0, expiry := 10, setAt := 0 }] } }),
       by decide +kernel⟩,
   ⟨0, ({ id := 0, owner := some 0, slot := 0, expiry := 10, setAt := 1 } : Timer),
       ({ id := 1, owner := some 0, slot := 1, expiry := 10, setAt := 0 } : Timer),
       (let s := withCmd (mkCmd (ent 0 0 0 0 0 0 0 0) .handed); { s with time := 10, disp := { s.disp with timers := [({ id := 0, owner := some 0, slot := 0, expiry := 10, setAt := 1 } : Timer), ({ id := 1, owner := some 0, slot := 1, expiry := 10, setAt := 0 } : Timer)] } }),
       by decide +kernel⟩,
   ⟨0, { mkCmd (ent 0 0 0 0 0 0 0 0) .timerWait with deadline := some 5 }, 5,
       (let s := withCmd ({ mkCmd (ent 0 0 0 0 0 0 0 0) .timerWait with deadline := some 5 }); { s with time := 4, disp := { s.disp with tmrQ := [0] } }),
       by decide +kernel⟩,
   ⟨0, { mkCmd (ent 0 0 0 0 0 0 0 0) .timerWait with deadline := some 5 }, 5,
       (let s := withCmd ({ mkCmd (ent 0 0 0 0 0 0 0 0) .timerWait with deadline := some 5 }); { s with time := 5, disp := { s.disp with tmrQ := [0] } }),
       by decide +kernel⟩⟩

theorem witness_CompletionQueues :
    (∃ (i : Nat) (n : Nat) (s : State), (s.cq i n).buf = [] ∧ (s.cq i n).held = [] ∧
        ((∀ e ∈ s.ring.sqs, keyInst e.1 = i → e.2.cq = n → e.2.slotRes = none))) ∧
    (∃ (i : Nat) (n : Nat) (k : Nat) (c : Cmd) (s : State), ((s.cq i n).buf ++ (s.cq i n).held).head? = some k ∧ s.cmd k = some c ∧ c.inst = i ∧
        entryReady c n s = false) ∧
    (∃ (i : Nat) (n : Nat) (k : Nat) (c : Cmd) (s : State), entryReady c n s = true ∧ (s.cq i n).buf = [k] ∧ (s.cq i n).held = [] ∧
        s.cmd k = some c ∧ c.inst = i ∧ (s.sq i c.sq).cq = n ∧ ((∀ e ∈ s.ring.cmds, ∀ x, e.2 = some x → x.dupOf ≠ some c.accNo)) ∧
        ((∀ e ∈ s.ring.sqs, keyInst e.1 = i → e.2.cq = n → e.2.slotRes = none))) ∧
    (∃ (i : Nat) (n : Nat) (s : State), (s.cq i n).ien = true ∧ (s.cq i n).sigCount ≠ 0 ∧
        (s.cq i n).sigFirst + 1000 * (s.cq i n).aggTime ≤ s.time ∧ (s.hostPort (s.cq i n).port).up = true ∧
        msixMasked s i (s.cq i n).vector = false) :=
  ⟨⟨0, 0, rings, by decide +kernel⟩,
   ⟨0, 0, 0, { mkCmd (ent 0 0 0 0 0 0 0 0) .entryWait with outcome := some 0 },
       (withCmd ({ mkCmd (ent 0 0 0 0 0 0 0 0) .entryWait with outcome := some 0 })).setCq 0 0 { Cq.absent with st := .active, buf := [0], tail := 16 },
       by decide +kernel⟩,
   ⟨0, 0, 0, { mkCmd (ent 0 0 0 0 0 0 0 0) .entryWait with outcome := some 0 },
       (withCmd ({ mkCmd (ent 0 0 0 0 0 0 0 0) .entryWait with outcome := some 0 })).setCq 0 0 { Cq.absent with st := .active, buf := [0] },
       by decide +kernel⟩,
   ⟨0, 0, (let s := rings.setCq 0 0 { Cq.absent with st := .active, ien := true, sigCount := 1, aggTime := 2 }; { s with time := 2000, lnk := { s.lnk with msix := [(0, 0)] } }),
       by decide +kernel⟩⟩

theorem witness_QueryStartsAndReads :
    (∃ (k : Nat) (c : Cmd) (s : State), Handed k 1 c s ∧ queryRun c = none) ∧
    (∃ (k : Nat) (c : Cmd) (q : QueryRun) (st : Nat) (s : State), Handed k 1 c s ∧ queryRun c = some q ∧ queryDesc c q.plan = some st) ∧
    (∃ (k : Nat) (c : Cmd) (q : QueryRun) (s : State), Handed k 1 c s ∧ queryRun c = some q ∧ queryDesc c q.plan = none ∧ q.plan.pbSize ≠ 0 ∧
        (s.hostPort (s.sq c.inst c.sq).port).up = true) ∧
    (∃ (k : Nat) (c : Cmd) (q : QueryRun) (s : State), Handed k 1 c s ∧ queryRun c = some q ∧ queryDesc c q.plan = none ∧ q.plan.pbSize = 0) ∧
    (∃ (k : Nat) (c : Cmd) (q : QueryRun) (s : State), Handed k 2 c s ∧ queryRun c = some q ∧ pointDesc c q.plan = none) ∧
    (∃ (k : Nat) (c : Cmd) (q : QueryRun) (st : Nat) (s : State), Handed k 2 c s ∧ queryRun c = some q ∧ pointDesc c q.plan = some st) ∧
    (∃ (k : Nat) (c : Cmd) (q : QueryRun) (d : List Byte) (s : State), s.cmd k = some c ∧ c.phase = .hostRead ∧ c.opc = 1 ∧ c.outcome = none ∧
        queryRun c = some q ∧ (s.hostPort (s.sq c.inst c.sq).port).absent = false ∧ q.plan.pbSize ≤ d.length) ∧
    (∃ (k : Nat) (c : Cmd) (q : QueryRun) (d : Option (List Byte)) (s : State), s.cmd k = some c ∧ c.phase = .hostRead ∧ c.opc = 1 ∧
        c.outcome = none ∧ queryRun c = some q ∧ ((∀ b, d = some b → b.length < q.plan.pbSize))) ∧
    (∃ (k : Nat) (c : Cmd) (q : QueryRun) (pb : List Byte) (s : State), s.cmd k = some c ∧ c.outcome = none ∧ queryRun c = some q ∧
        blockFails s c.inst c.accNo q.plan pb ≠ []) ∧
    (∃ (k : Nat) (c : Cmd) (q : QueryRun) (ins : _) (t : State) (s : State), s.cmd k = some c ∧ c.phase = .directory ∧ c.outcome = none ∧
        readsLeft s k = false ∧ queryRun c = some q ∧ loadDirectories c (inputUsed s k q) q.inputs s = (some ins, t)) ∧
    (∃ (k : Nat) (c : Cmd) (q : QueryRun) (t : State) (s : State), s.cmd k = some c ∧ c.phase = .directory ∧ c.outcome = none ∧ c.isQuery = true ∧
        readsLeft s k = false ∧ queryRun c = some q ∧ loadDirectories c (inputUsed s k q) q.inputs s = (none, t)) ∧
    (∃ (k : Nat) (c : Cmd) (q : QueryRun) (s : State), s.cmd k = some c ∧ c.phase = .flowWait ∧ c.outcome = none ∧ queryRun c = some q ∧
        k ∈ s.disp.flowQ ∧ flowsFit s c q = true) ∧
    (∃ (k : Nat) (c : Cmd) (q : QueryRun) (s : State), s.cmd k = some c ∧ queryRun c = some q ∧ c.phase = .flowWait ∧ flowsFit s c q = false) :=
  ⟨⟨0, mkCmd (ent 1 1 0 0 0 0 0 0) .handed, withCmd (mkCmd (ent 1 1 0 0 0 0 0 0) .handed), handed_of (by decide +kernel), by decide +kernel⟩,
   ⟨0, queryCmd 1 1 1 .handed (query plan0), query plan0, 0x0106, withCmd (queryCmd 1 1 1 .handed (query plan0)), handed_of (by decide +kernel),
       by decide +kernel⟩,
   ⟨0, queryCmd 1 64 64 .handed (query { plan0 with pbSize := 64 }), query { plan0 with pbSize := 64 },
       withCmd (queryCmd 1 64 64 .handed (query { plan0 with pbSize := 64 })), handed_of (by decide +kernel), by decide +kernel⟩,
   ⟨0, queryCmd 1 0 0 .handed (query plan0), query plan0, withCmd (queryCmd 1 0 0 .handed (query plan0)), handed_of (by decide +kernel),
       by decide +kernel⟩,
   ⟨0, queryCmd 2 0 0 .handed (query { plan0 with pflags := 1 }), query { plan0 with pflags := 1 },
       withCmd (queryCmd 2 0 0 .handed (query { plan0 with pflags := 1 })), handed_of (by decide +kernel), by decide +kernel⟩,
   ⟨0, queryCmd 2 0 0 .handed (query plan0), query plan0, 0x0106, withCmd (queryCmd 2 0 0 .handed (query plan0)), handed_of (by decide +kernel),
       by decide +kernel⟩,
   ⟨0, queryCmd 1 64 64 .hostRead (query { plan0 with pbSize := 64 }), query { plan0 with pbSize := 64 }, zeros 64,
       withCmd (queryCmd 1 64 64 .hostRead (query { plan0 with pbSize := 64 })), by decide +kernel⟩,
   ⟨0, queryCmd 1 64 64 .hostRead (query { plan0 with pbSize := 64 }), query { plan0 with pbSize := 64 }, some (zeros 63),
       withCmd (queryCmd 1 64 64 .hostRead (query { plan0 with pbSize := 64 })), by decide +kernel⟩,
   ⟨0, queryCmd 1 64 64 .hostRead (query { plan0 with pbSize := 64 }), query { plan0 with pbSize := 64 }, zeros 64,
       withCmd (queryCmd 1 64 64 .hostRead (query { plan0 with pbSize := 64 })), by decide +kernel⟩,
   ⟨0, queryCmd 1 0 0 .directory (query plan0), query plan0, [], withCmd (queryCmd 1 0 0 .directory (query plan0)),
       withCmd (queryCmd 1 0 0 .directory (query plan0)), by decide +kernel⟩,
   ⟨0, queryCmd 1 0 0 .directory ({ query ({ plan0 with pipes := [⟨0, 0, 0, 1, 1, 0, 0, 3, 0, 0, 0⟩], ops := [⟨8, 0, 0, 0, 0, 0, 0, 0, 0, 0, .verify 0⟩] }) with inputs := [⟨0, 2, 1, 0, 3, 0, 0, [], true, ObjImage.empty⟩], pipes := [(0, { PipeRun.idle with started := true })] }),
       { query ({ plan0 with pipes := [⟨0, 0, 0, 1, 1, 0, 0, 3, 0, 0, 0⟩], ops := [⟨8, 0, 0, 0, 0, 0, 0, 0, 0, 0, .verify 0⟩] }) with inputs := [⟨0, 2, 1, 0, 3, 0, 0, [], true, ObjImage.empty⟩], pipes := [(0, { PipeRun.idle with started := true })] },
       (loadDirectories (queryCmd 1 0 0 .directory ({ query ({ plan0 with pipes := [⟨0, 0, 0, 1, 1, 0, 0, 3, 0, 0, 0⟩], ops := [⟨8, 0, 0, 0, 0, 0, 0, 0, 0, 0, .verify 0⟩] }) with inputs := [⟨0, 2, 1, 0, 3, 0, 0, [], true, ObjImage.empty⟩], pipes := [(0, { PipeRun.idle with started := true })] })) (inputUsed (withCmd (queryCmd 1 0 0 .directory ({ query ({ plan0 with pipes := [⟨0, 0, 0, 1, 1, 0, 0, 3, 0, 0, 0⟩], ops := [⟨8, 0, 0, 0, 0, 0, 0, 0, 0, 0, .verify 0⟩] }) with inputs := [⟨0, 2, 1, 0, 3, 0, 0, [], true, ObjImage.empty⟩], pipes := [(0, { PipeRun.idle with started := true })] }))) 0 ({ query ({ plan0 with pipes := [⟨0, 0, 0, 1, 1, 0, 0, 3, 0, 0, 0⟩], ops := [⟨8, 0, 0, 0, 0, 0, 0, 0, 0, 0, .verify 0⟩] }) with inputs := [⟨0, 2, 1, 0, 3, 0, 0, [], true, ObjImage.empty⟩], pipes := [(0, { PipeRun.idle with started := true })] })) ({ query ({ plan0 with pipes := [⟨0, 0, 0, 1, 1, 0, 0, 3, 0, 0, 0⟩], ops := [⟨8, 0, 0, 0, 0, 0, 0, 0, 0, 0, .verify 0⟩] }) with inputs := [⟨0, 2, 1, 0, 3, 0, 0, [], true, ObjImage.empty⟩], pipes := [(0, { PipeRun.idle with started := true })] }).inputs (withCmd (queryCmd 1 0 0 .directory ({ query ({ plan0 with pipes := [⟨0, 0, 0, 1, 1, 0, 0, 3, 0, 0, 0⟩], ops := [⟨8, 0, 0, 0, 0, 0, 0, 0, 0, 0, .verify 0⟩] }) with inputs := [⟨0, 2, 1, 0, 3, 0, 0, [], true, ObjImage.empty⟩], pipes := [(0, { PipeRun.idle with started := true })] })))).2,
       withCmd (queryCmd 1 0 0 .directory ({ query ({ plan0 with pipes := [⟨0, 0, 0, 1, 1, 0, 0, 3, 0, 0, 0⟩], ops := [⟨8, 0, 0, 0, 0, 0, 0, 0, 0, 0, .verify 0⟩] }) with inputs := [⟨0, 2, 1, 0, 3, 0, 0, [], true, ObjImage.empty⟩], pipes := [(0, { PipeRun.idle with started := true })] })),
       by decide +kernel⟩,
   ⟨0, queryCmd 1 0 0 .flowWait (query plan0), query plan0,
       (let s := withCmd (queryCmd 1 0 0 .flowWait (query plan0)); { s with disp := { s.disp with flowQ := [0] } }), by decide +kernel⟩,
   ⟨0, queryCmd 1 0 0 .flowWait (query plan0), query plan0,
       (let s := withCmd (queryCmd 1 0 0 .flowWait (query plan0)); { s with disp := { s.disp with flowQ := [0], flowUsed := [(0, 65537)] } }),
       by decide +kernel⟩⟩

theorem witness_ItemsStartAndEnd :
    (∃ (f : Nat) (l : Nat) (x : Cursor) (c : Cmd) (q : QueryRun) (e : PipeEnt) (s : State) (u : State), f < 128 ∧ (s.frond f).item = none ∧
        (s.frond f).halted = false ∧ awake s = true ∧ s.pads.inReset = false ∧ chooseCursor 0 (frondChoices s f) s = (some (l, x), u) ∧
        runnable u x.slot = some (c, q) ∧ x.kind = .items ∧ q.plan.pipes[x.pipe]? = some e ∧ chainStages q.plan x.pipe = none ∧ e.grantUnits = 0 ∧
        mergeSrc q.plan x.pipe = none ∧ ((∀ o ∈ q.outs, o.header = true)) ∧
        ((∀ w, (askChunks x.slot x.pipe (q.pipe x.pipe).made c q w).fronds = w.fronds))) ∧
    (∃ (f : Nat) (s : State), ((∀ x, frondEligible s f x = false)) ∧ (s.frond f).asking = false) ∧
    (∃ (f : Nat) (s : State), f < 128 ∧ ((∀ x, frondEligible s f x = false)) ∧ (s.frond f).asking = true ∧ (s.frond f).item = none ∧
        (s.frond f).halted = false ∧ awake s = true ∧ s.pads.inReset = false) ∧
    (∃ (f : Nat) (it : ItemRef) (s : State), (s.frond f).item = some it) ∧
    (∃ (f : Fin 128) (s : State), (s.frond f.val).item = none) ∧
    (∃ (f : Fin 128) (h : List (Option (List Byte))) (it : ItemRef) (c : Cmd) (q : QueryRun) (q' : QueryRun) (t : State) (s : State), (s.frond f.val).item = some it ∧
        (s.frond f.val).stopping = none ∧ takenQuery s it.slot = some (c, q) ∧ (unresolved s (chainFronds s it)).1 = none ∧
        mayEnd s it c q (chainFronds s it) = true ∧ it.stage ≠ finalStage ∧ (q.pipe it.pipe).passQ = [] ∧ (q'.pipe it.pipe).passQ = [] ∧
        runItem (itemOf s it c f.val h) q s = (.ok (), q', t)) ∧
    (∃ (f : Fin 128) (it : ItemRef) (c : Cmd) (q : QueryRun) (st : _) (s : State), (s.frond f.val).item = some it ∧
        (s.frond f.val).stopping = none ∧ takenQuery s it.slot = some (c, q) ∧ chainFronds s it = [f.val] ∧ pendingCause (s.frond f.val) = some st) ∧
    (∃ (k : Nat) (n : Nat) (c : Cmd) (q : QueryRun) (s : State), liveQuery s k = some (c, q) ∧ (q.pipe n).finished = false ∧
        breakerReady s k n q = true) ∧
    (∃ (k : Nat) (n : Nat) (c : Cmd) (q : QueryRun) (s : State), liveQuery s k = some (c, q) ∧ breakerReady s k n q = false) ∧
    (∃ (k : Nat) (n : Nat) (op : Nat) (fl : Nat) (h : List (Option (List Byte))) (c : Cmd) (q : QueryRun) (q' : QueryRun) (bs : _) (idx : Nat) (f : Nat) (fs : List Nat) (t : State) (s : State), takenQuery s k = some (c, q) ∧
        inService q n op fl = some idx ∧ chainFronds s ⟨k, n, idx, 0⟩ = f :: fs ∧ parkedItem q n op idx = false ∧
        mayRun s ⟨k, n, idx, 0⟩ c q = true ∧ ((∀ g ∈ f :: fs, (s.frond g).stopping = none ∧ (s.frond g).exl = false)) ∧
        runUpto (itemOf s ⟨k, n, idx, 0⟩ c f h) (op + 1) q s = (.ok bs, q', t)) ∧
    (∃ (k : Nat) (n : Nat) (op : Nat) (fl : Nat) (c : Cmd) (q : QueryRun) (s : State), takenQuery s k = some (c, q) ∧ inService q n op fl = none) ∧
    (∃ (k : Nat) (n : Nat) (idx : Nat) (st : Nat) (f : Nat) (g : Nat) (s : State), ((List.range 128).find? (fun f => decide ((s.frond f).item = some ⟨k, n, idx, st⟩)) = some f) ∧
        ((List.range 128).find? (fun f => decide ((s.frond f).item = some ⟨k, n, idx, st + 1⟩)) = some g) ∧ batchesOut (s.frond f) ≠ 0) :=
  ⟨⟨0, 0, (⟨0, 0, .items, false, false, false, 0⟩ : Cursor),
      queryCmd 1 0 0 .running ({ query ({ plan0 with pipes := [⟨0, 0, 0, 1, 1, 0, 0, 3, 0, 0, 0⟩], ops := [⟨8, 0, 0, 0, 0, 0, 0, 0, 0, 0, .verify 0⟩] }) with inputs := [⟨0, 2, 1, 0, 3, 0, 0, [], true, ObjImage.empty⟩], pipes := [(0, { PipeRun.idle with started := true })] }),
      { query ({ plan0 with pipes := [⟨0, 0, 0, 1, 1, 0, 0, 3, 0, 0, 0⟩], ops := [⟨8, 0, 0, 0, 0, 0, 0, 0, 0, 0, .verify 0⟩] }) with inputs := [⟨0, 2, 1, 0, 3, 0, 0, [], true, ObjImage.empty⟩], pipes := [(0, { PipeRun.idle with started := true })] },
      (⟨0, 0, 0, 1, 1, 0, 0, 3, 0, 0, 0⟩ : PipeEnt),
      (let s := withCmd (queryCmd 1 0 0 .running ({ query ({ plan0 with pipes := [⟨0, 0, 0, 1, 1, 0, 0, 3, 0, 0, 0⟩], ops := [⟨8, 0, 0, 0, 0, 0, 0, 0, 0, 0, .verify 0⟩] }) with inputs := [⟨0, 2, 1, 0, 3, 0, 0, [], true, ObjImage.empty⟩], pipes := [(0, { PipeRun.idle with started := true })] })); { s with disp := { s.disp with deficit := [(0, 5)], lists := [(0, ⟨true, 0, 0, 0, [(⟨0, 0, .items, false, false, false, 0⟩ : Cursor)]⟩)] } }),
      (chooseCursor 0 (frondChoices ((let s := withCmd (queryCmd 1 0 0 .running ({ query ({ plan0 with pipes := [⟨0, 0, 0, 1, 1, 0, 0, 3, 0, 0, 0⟩], ops := [⟨8, 0, 0, 0, 0, 0, 0, 0, 0, 0, .verify 0⟩] }) with inputs := [⟨0, 2, 1, 0, 3, 0, 0, [], true, ObjImage.empty⟩], pipes := [(0, { PipeRun.idle with started := true })] })); { s with disp := { s.disp with deficit := [(0, 5)], lists := [(0, ⟨true, 0, 0, 0, [(⟨0, 0, .items, false, false, false, 0⟩ : Cursor)]⟩)] } })) 0) ((let s := withCmd (queryCmd 1 0 0 .running ({ query ({ plan0 with pipes := [⟨0, 0, 0, 1, 1, 0, 0, 3, 0, 0, 0⟩], ops := [⟨8, 0, 0, 0, 0, 0, 0, 0, 0, 0, .verify 0⟩] }) with inputs := [⟨0, 2, 1, 0, 3, 0, 0, [], true, ObjImage.empty⟩], pipes := [(0, { PipeRun.idle with started := true })] })); { s with disp := { s.disp with deficit := [(0, 5)], lists := [(0, ⟨true, 0, 0, 0, [(⟨0, 0, .items, false, false, false, 0⟩ : Cursor)]⟩)] } }))).2,
      by decide +kernel, by decide +kernel, by decide +kernel, by decide +kernel, by decide +kernel, rfl, by decide +kernel, by decide +kernel,
      by decide +kernel, by decide +kernel, by decide +kernel, by decide +kernel, by decide +kernel, fun _ => rfl⟩,
   ⟨3, rings, fun _ => rfl, by decide +kernel⟩,
   ⟨3, rings.setFrond 3 { Frond.reset with asking := true }, by decide +kernel, fun _ => rfl, by decide +kernel⟩,
   ⟨0, (⟨0, 0, 0, 0⟩ : ItemRef), rings.setFrond 0 { Frond.reset with item := some ⟨0, 0, 0, 0⟩ }, by decide +kernel⟩,
   ⟨(0 : Fin 128), rings, by decide +kernel⟩,
   ⟨(0 : Fin 128), [], (⟨0, 0, 0, 0⟩ : ItemRef),
       queryCmd 1 0 0 .running ({ query ({ plan0 with pipes := [⟨0, 0, 0, 1, 1, 0, 0, 3, 0, 0, 0⟩], ops := [⟨8, 0, 0, 0, 0, 0, 0, 0, 0, 0, .verify 0⟩] }) with inputs := [⟨0, 2, 1, 0, 3, 0, 0, [], true, ObjImage.empty⟩], pipes := [(0, { PipeRun.idle with started := true })] }),
       { query ({ plan0 with pipes := [⟨0, 0, 0, 1, 1, 0, 0, 3, 0, 0, 0⟩], ops := [⟨8, 0, 0, 0, 0, 0, 0, 0, 0, 0, .verify 0⟩] }) with inputs := [⟨0, 2, 1, 0, 3, 0, 0, [], true, ObjImage.empty⟩], pipes := [(0, { PipeRun.idle with started := true })] },
       (runItem (itemOf ((withCmd (queryCmd 1 0 0 .running ({ query ({ plan0 with pipes := [⟨0, 0, 0, 1, 1, 0, 0, 3, 0, 0, 0⟩], ops := [⟨8, 0, 0, 0, 0, 0, 0, 0, 0, 0, .verify 0⟩] }) with inputs := [⟨0, 2, 1, 0, 3, 0, 0, [], true, ObjImage.empty⟩], pipes := [(0, { PipeRun.idle with started := true })] }))).setFrond 0 { Frond.reset with item := some ⟨0, 0, 0, 0⟩ }) (⟨0,
       0, 0, 0⟩ : ItemRef) (queryCmd 1 0 0 .running ({ query ({ plan0 with pipes := [⟨0, 0, 0, 1, 1, 0, 0, 3, 0, 0, 0⟩], ops := [⟨8, 0, 0, 0, 0, 0, 0, 0, 0, 0, .verify 0⟩] }) with inputs := [⟨0, 2, 1, 0, 3, 0, 0, [], true, ObjImage.empty⟩], pipes := [(0, { PipeRun.idle with started := true })] })) 0 []) ({ query ({ plan0 with pipes := [⟨0, 0, 0, 1, 1, 0, 0, 3, 0, 0, 0⟩], ops := [⟨8, 0, 0, 0, 0, 0, 0, 0, 0, 0, .verify 0⟩] }) with inputs := [⟨0, 2, 1, 0, 3, 0, 0, [], true, ObjImage.empty⟩], pipes := [(0, { PipeRun.idle with started := true })] }) ((withCmd (queryCmd 1 0 0 .running ({ query ({ plan0 with pipes := [⟨0, 0, 0, 1, 1, 0, 0, 3, 0, 0, 0⟩], ops := [⟨8, 0, 0, 0, 0, 0, 0, 0, 0, 0, .verify 0⟩] }) with inputs := [⟨0, 2, 1, 0, 3, 0, 0, [], true, ObjImage.empty⟩], pipes := [(0, { PipeRun.idle with started := true })] }))).setFrond 0 { Frond.reset with item := some ⟨0, 0, 0, 0⟩ })).2.1,
       (runItem (itemOf ((withCmd (queryCmd 1 0 0 .running ({ query ({ plan0 with pipes := [⟨0, 0, 0, 1, 1, 0, 0, 3, 0, 0, 0⟩], ops := [⟨8, 0, 0, 0, 0, 0, 0, 0, 0, 0, .verify 0⟩] }) with inputs := [⟨0, 2, 1, 0, 3, 0, 0, [], true, ObjImage.empty⟩], pipes := [(0, { PipeRun.idle with started := true })] }))).setFrond 0 { Frond.reset with item := some ⟨0, 0, 0, 0⟩ }) (⟨0,
       0, 0, 0⟩ : ItemRef) (queryCmd 1 0 0 .running ({ query ({ plan0 with pipes := [⟨0, 0, 0, 1, 1, 0, 0, 3, 0, 0, 0⟩], ops := [⟨8, 0, 0, 0, 0, 0, 0, 0, 0, 0, .verify 0⟩] }) with inputs := [⟨0, 2, 1, 0, 3, 0, 0, [], true, ObjImage.empty⟩], pipes := [(0, { PipeRun.idle with started := true })] })) 0 []) ({ query ({ plan0 with pipes := [⟨0, 0, 0, 1, 1, 0, 0, 3, 0, 0, 0⟩], ops := [⟨8, 0, 0, 0, 0, 0, 0, 0, 0, 0, .verify 0⟩] }) with inputs := [⟨0, 2, 1, 0, 3, 0, 0, [], true, ObjImage.empty⟩], pipes := [(0, { PipeRun.idle with started := true })] }) ((withCmd (queryCmd 1 0 0 .running ({ query ({ plan0 with pipes := [⟨0, 0, 0, 1, 1, 0, 0, 3, 0, 0, 0⟩], ops := [⟨8, 0, 0, 0, 0, 0, 0, 0, 0, 0, .verify 0⟩] }) with inputs := [⟨0, 2, 1, 0, 3, 0, 0, [], true, ObjImage.empty⟩], pipes := [(0, { PipeRun.idle with started := true })] }))).setFrond 0 { Frond.reset with item := some ⟨0, 0, 0, 0⟩ })).2.2,
       (withCmd (queryCmd 1 0 0 .running ({ query ({ plan0 with pipes := [⟨0, 0, 0, 1, 1, 0, 0, 3, 0, 0, 0⟩], ops := [⟨8, 0, 0, 0, 0, 0, 0, 0, 0, 0, .verify 0⟩] }) with inputs := [⟨0, 2, 1, 0, 3, 0, 0, [], true, ObjImage.empty⟩], pipes := [(0, { PipeRun.idle with started := true })] }))).setFrond 0 { Frond.reset with item := some ⟨0, 0, 0, 0⟩ },
       by decide +kernel, by decide +kernel, by decide +kernel, rfl, by decide +kernel, by decide +kernel, by decide +kernel, by decide +kernel, rfl⟩,
   ⟨(0 : Fin 128), (⟨0, 0, 0, 0⟩ : ItemRef),
       queryCmd 1 0 0 .running ({ query ({ plan0 with pipes := [⟨0, 0, 0, 1, 1, 0, 0, 3, 0, 0, 0⟩], ops := [⟨8, 0, 0, 0, 0, 0, 0, 0, 0, 0, .verify 0⟩] }) with inputs := [⟨0, 2, 1, 0, 3, 0, 0, [], true, ObjImage.empty⟩], pipes := [(0, { PipeRun.idle with started := true })] }),
       { query ({ plan0 with pipes := [⟨0, 0, 0, 1, 1, 0, 0, 3, 0, 0, 0⟩], ops := [⟨8, 0, 0, 0, 0, 0, 0, 0, 0, 0, .verify 0⟩] }) with inputs := [⟨0, 2, 1, 0, 3, 0, 0, [], true, ObjImage.empty⟩], pipes := [(0, { PipeRun.idle with started := true })] },
       stInternal,
       (withCmd (queryCmd 1 0 0 .running ({ query ({ plan0 with pipes := [⟨0, 0, 0, 1, 1, 0, 0, 3, 0, 0, 0⟩], ops := [⟨8, 0, 0, 0, 0, 0, 0, 0, 0, 0, .verify 0⟩] }) with inputs := [⟨0, 2, 1, 0, 3, 0, 0, [], true, ObjImage.empty⟩], pipes := [(0, { PipeRun.idle with started := true })] }))).setFrond 0 { Frond.reset with item := some ⟨0, 0, 0, 0⟩, status := 0x80, cause := 4 },
       by decide +kernel⟩,
   ⟨0, 0, queryCmd 1 0 0 .running ({ query ({ plan0 with pipes := [⟨0, 0, 0, 1, 1, 3, 0, 3, 0, 0, 0⟩], ops := [⟨8, 0, 0, 0, 0, 0, 0, 0, 0, 0, .verify 0⟩] }) with inputs := [⟨0, 2, 1, 0, 3, 0, 0, [], true, ObjImage.empty⟩], pipes := [(0, { PipeRun.idle with started := true, made := 3, ended := 3 })] }),
       { query ({ plan0 with pipes := [⟨0, 0, 0, 1, 1, 3, 0, 3, 0, 0, 0⟩], ops := [⟨8, 0, 0, 0, 0, 0, 0, 0, 0, 0, .verify 0⟩] }) with inputs := [⟨0, 2, 1, 0, 3, 0, 0, [], true, ObjImage.empty⟩], pipes := [(0, { PipeRun.idle with started := true, made := 3, ended := 3 })] },
       withCmd (queryCmd 1 0 0 .running ({ query ({ plan0 with pipes := [⟨0, 0, 0, 1, 1, 3, 0, 3, 0, 0, 0⟩], ops := [⟨8, 0, 0, 0, 0, 0, 0, 0, 0, 0, .verify 0⟩] }) with inputs := [⟨0, 2, 1, 0, 3, 0, 0, [], true, ObjImage.empty⟩], pipes := [(0, { PipeRun.idle with started := true, made := 3, ended := 3 })] })),
       by decide +kernel⟩,
   ⟨0, 0, queryCmd 1 0 0 .running ({ query ({ plan0 with pipes := [⟨0, 0, 0, 1, 1, 0, 0, 3, 0, 0, 0⟩], ops := [⟨8, 0, 0, 0, 0, 0, 0, 0, 0, 0, .verify 0⟩] }) with inputs := [⟨0, 2, 1, 0, 3, 0, 0, [], true, ObjImage.empty⟩], pipes := [(0, { PipeRun.idle with started := true })] }),
       { query ({ plan0 with pipes := [⟨0, 0, 0, 1, 1, 0, 0, 3, 0, 0, 0⟩], ops := [⟨8, 0, 0, 0, 0, 0, 0, 0, 0, 0, .verify 0⟩] }) with inputs := [⟨0, 2, 1, 0, 3, 0, 0, [], true, ObjImage.empty⟩], pipes := [(0, { PipeRun.idle with started := true })] },
       withCmd (queryCmd 1 0 0 .running ({ query ({ plan0 with pipes := [⟨0, 0, 0, 1, 1, 0, 0, 3, 0, 0, 0⟩], ops := [⟨8, 0, 0, 0, 0, 0, 0, 0, 0, 0, .verify 0⟩] }) with inputs := [⟨0, 2, 1, 0, 3, 0, 0, [], true, ObjImage.empty⟩], pipes := [(0, { PipeRun.idle with started := true })] })),
       by decide +kernel⟩,
   ⟨0, 0, 0, 0, [], queryCmd 1 0 0 .running ({ { query ({ plan0 with pipes := [⟨0, 0, 0, 1, 1, 0, 0, 3, 0, 0, 0⟩], ops := [⟨8, 0, 0, 0, 0, 0, 0, 0, 0, 0, .verify 0⟩] }) with inputs := [⟨0, 2, 1, 0, 3, 0, 0, [], true, ObjImage.empty⟩], pipes := [(0, { PipeRun.idle with started := true })] } with pipes := [(0, { PipeRun.idle with started := true, made := 1 })], flowQ := [(0, 0, 0, [0])] }), { { query ({ plan0 with pipes := [⟨0, 0, 0, 1, 1, 0, 0, 3, 0, 0, 0⟩], ops := [⟨8, 0, 0, 0, 0, 0, 0, 0, 0, 0, .verify 0⟩] }) with inputs := [⟨0, 2, 1, 0, 3, 0, 0, [], true, ObjImage.empty⟩], pipes := [(0, { PipeRun.idle with started := true })] } with pipes := [(0, { PipeRun.idle with started := true, made := 1 })], flowQ := [(0, 0, 0, [0])] }, (runUpto (itemOf ((withCmd (queryCmd 1 0 0 .running ({ { query ({ plan0 with pipes := [⟨0, 0, 0, 1, 1, 0, 0, 3, 0, 0, 0⟩], ops := [⟨8, 0, 0, 0, 0, 0, 0, 0, 0, 0, .verify 0⟩] }) with inputs := [⟨0, 2, 1, 0, 3, 0, 0, [], true, ObjImage.empty⟩], pipes := [(0, { PipeRun.idle with started := true })] } with pipes := [(0, { PipeRun.idle with started := true, made := 1 })], flowQ := [(0, 0, 0, [0])] }))).setFrond 3 { Frond.reset with item := some ⟨0, 0, 0, 0⟩, status := 0 }) ⟨0, 0, 0, 0⟩ (queryCmd 1 0 0 .running ({ { query ({ plan0 with pipes := [⟨0, 0, 0, 1, 1, 0, 0, 3, 0, 0, 0⟩], ops := [⟨8, 0, 0, 0, 0, 0, 0, 0, 0, 0, .verify 0⟩] }) with inputs := [⟨0, 2, 1, 0, 3, 0, 0, [], true, ObjImage.empty⟩], pipes := [(0, { PipeRun.idle with started := true })] } with pipes := [(0, { PipeRun.idle with started := true, made := 1 })], flowQ := [(0, 0, 0, [0])] })) 3 []) 1 ({ { query ({ plan0 with pipes := [⟨0, 0, 0, 1, 1, 0, 0, 3, 0, 0, 0⟩], ops := [⟨8, 0, 0, 0, 0, 0, 0, 0, 0, 0, .verify 0⟩] }) with inputs := [⟨0, 2, 1, 0, 3, 0, 0, [], true, ObjImage.empty⟩], pipes := [(0, { PipeRun.idle with started := true })] } with pipes := [(0, { PipeRun.idle with started := true, made := 1 })], flowQ := [(0, 0, 0, [0])] }) ((withCmd (queryCmd 1 0 0 .running ({ { query ({ plan0 with pipes := [⟨0, 0, 0, 1, 1, 0, 0, 3, 0, 0, 0⟩], ops := [⟨8, 0, 0, 0, 0, 0, 0, 0, 0, 0, .verify 0⟩] }) with inputs := [⟨0, 2, 1, 0, 3, 0, 0, [], true, ObjImage.empty⟩], pipes := [(0, { PipeRun.idle with started := true })] } with pipes := [(0, { PipeRun.idle with started := true, made := 1 })], flowQ := [(0, 0, 0, [0])] }))).setFrond 3 { Frond.reset with item := some ⟨0, 0, 0, 0⟩, status := 0 })).2.1, (match (runUpto (itemOf ((withCmd (queryCmd 1 0 0 .running ({ { query ({ plan0 with pipes := [⟨0, 0, 0, 1, 1, 0, 0, 3, 0, 0, 0⟩], ops := [⟨8, 0, 0, 0, 0, 0, 0, 0, 0, 0, .verify 0⟩] }) with inputs := [⟨0, 2, 1, 0, 3, 0, 0, [], true, ObjImage.empty⟩], pipes := [(0, { PipeRun.idle with started := true })] } with pipes := [(0, { PipeRun.idle with started := true, made := 1 })], flowQ := [(0, 0, 0, [0])] }))).setFrond 3 { Frond.reset with item := some ⟨0, 0, 0, 0⟩, status := 0 }) ⟨0, 0, 0, 0⟩ (queryCmd 1 0 0 .running ({ { query ({ plan0 with pipes := [⟨0, 0, 0, 1, 1, 0, 0, 3, 0, 0, 0⟩], ops := [⟨8, 0, 0, 0, 0, 0, 0, 0, 0, 0, .verify 0⟩] }) with inputs := [⟨0, 2, 1, 0, 3, 0, 0, [], true, ObjImage.empty⟩], pipes := [(0, { PipeRun.idle with started := true })] } with pipes := [(0, { PipeRun.idle with started := true, made := 1 })], flowQ := [(0, 0, 0, [0])] })) 3 []) 1 ({ { query ({ plan0 with pipes := [⟨0, 0, 0, 1, 1, 0, 0, 3, 0, 0, 0⟩], ops := [⟨8, 0, 0, 0, 0, 0, 0, 0, 0, 0, .verify 0⟩] }) with inputs := [⟨0, 2, 1, 0, 3, 0, 0, [], true, ObjImage.empty⟩], pipes := [(0, { PipeRun.idle with started := true })] } with pipes := [(0, { PipeRun.idle with started := true, made := 1 })], flowQ := [(0, 0, 0, [0])] }) ((withCmd (queryCmd 1 0 0 .running ({ { query ({ plan0 with pipes := [⟨0, 0, 0, 1, 1, 0, 0, 3, 0, 0, 0⟩], ops := [⟨8, 0, 0, 0, 0, 0, 0, 0, 0, 0, .verify 0⟩] }) with inputs := [⟨0, 2, 1, 0, 3, 0, 0, [], true, ObjImage.empty⟩], pipes := [(0, { PipeRun.idle with started := true })] } with pipes := [(0, { PipeRun.idle with started := true, made := 1 })], flowQ := [(0, 0, 0, [0])] }))).setFrond 3 { Frond.reset with item := some ⟨0, 0, 0, 0⟩, status := 0 })).1 with | .ok b => b | .error _ => []), 0, 3, ([] : List Nat), (runUpto (itemOf ((withCmd (queryCmd 1 0 0 .running ({ { query ({ plan0 with pipes := [⟨0, 0, 0, 1, 1, 0, 0, 3, 0, 0, 0⟩], ops := [⟨8, 0, 0, 0, 0, 0, 0, 0, 0, 0, .verify 0⟩] }) with inputs := [⟨0, 2, 1, 0, 3, 0, 0, [], true, ObjImage.empty⟩], pipes := [(0, { PipeRun.idle with started := true })] } with pipes := [(0, { PipeRun.idle with started := true, made := 1 })], flowQ := [(0, 0, 0, [0])] }))).setFrond 3 { Frond.reset with item := some ⟨0, 0, 0, 0⟩, status := 0 }) ⟨0, 0, 0, 0⟩ (queryCmd 1 0 0 .running ({ { query ({ plan0 with pipes := [⟨0, 0, 0, 1, 1, 0, 0, 3, 0, 0, 0⟩], ops := [⟨8, 0, 0, 0, 0, 0, 0, 0, 0, 0, .verify 0⟩] }) with inputs := [⟨0, 2, 1, 0, 3, 0, 0, [], true, ObjImage.empty⟩], pipes := [(0, { PipeRun.idle with started := true })] } with pipes := [(0, { PipeRun.idle with started := true, made := 1 })], flowQ := [(0, 0, 0, [0])] })) 3 []) 1 ({ { query ({ plan0 with pipes := [⟨0, 0, 0, 1, 1, 0, 0, 3, 0, 0, 0⟩], ops := [⟨8, 0, 0, 0, 0, 0, 0, 0, 0, 0, .verify 0⟩] }) with inputs := [⟨0, 2, 1, 0, 3, 0, 0, [], true, ObjImage.empty⟩], pipes := [(0, { PipeRun.idle with started := true })] } with pipes := [(0, { PipeRun.idle with started := true, made := 1 })], flowQ := [(0, 0, 0, [0])] }) ((withCmd (queryCmd 1 0 0 .running ({ { query ({ plan0 with pipes := [⟨0, 0, 0, 1, 1, 0, 0, 3, 0, 0, 0⟩], ops := [⟨8, 0, 0, 0, 0, 0, 0, 0, 0, 0, .verify 0⟩] }) with inputs := [⟨0, 2, 1, 0, 3, 0, 0, [], true, ObjImage.empty⟩], pipes := [(0, { PipeRun.idle with started := true })] } with pipes := [(0, { PipeRun.idle with started := true, made := 1 })], flowQ := [(0, 0, 0, [0])] }))).setFrond 3 { Frond.reset with item := some ⟨0, 0, 0, 0⟩, status := 0 })).2.2, (withCmd (queryCmd 1 0 0 .running ({ { query ({ plan0 with pipes := [⟨0, 0, 0, 1, 1, 0, 0, 3, 0, 0, 0⟩], ops := [⟨8, 0, 0, 0, 0, 0, 0, 0, 0, 0, .verify 0⟩] }) with inputs := [⟨0, 2, 1, 0, 3, 0, 0, [], true, ObjImage.empty⟩], pipes := [(0, { PipeRun.idle with started := true })] } with pipes := [(0, { PipeRun.idle with started := true, made := 1 })], flowQ := [(0, 0, 0, [0])] }))).setFrond 3 { Frond.reset with item := some ⟨0, 0, 0, 0⟩, status := 0 }, by decide +kernel, by decide +kernel, by decide +kernel, by decide +kernel, by decide +kernel, by decide +kernel, rfl⟩,
   ⟨0, 0, 0, 0,
       queryCmd 1 0 0 .running ({ query ({ plan0 with pipes := [⟨0, 0, 0, 1, 1, 0, 0, 3, 0, 0, 0⟩], ops := [⟨8, 0, 0, 0, 0, 0, 0, 0, 0, 0, .verify 0⟩] }) with inputs := [⟨0, 2, 1, 0, 3, 0, 0, [], true, ObjImage.empty⟩], pipes := [(0, { PipeRun.idle with started := true })] }),
       { query ({ plan0 with pipes := [⟨0, 0, 0, 1, 1, 0, 0, 3, 0, 0, 0⟩], ops := [⟨8, 0, 0, 0, 0, 0, 0, 0, 0, 0, .verify 0⟩] }) with inputs := [⟨0, 2, 1, 0, 3, 0, 0, [], true, ObjImage.empty⟩], pipes := [(0, { PipeRun.idle with started := true })] },
       withCmd (queryCmd 1 0 0 .running ({ query ({ plan0 with pipes := [⟨0, 0, 0, 1, 1, 0, 0, 3, 0, 0, 0⟩], ops := [⟨8, 0, 0, 0, 0, 0, 0, 0, 0, 0, .verify 0⟩] }) with inputs := [⟨0, 2, 1, 0, 3, 0, 0, [], true, ObjImage.empty⟩], pipes := [(0, { PipeRun.idle with started := true })] })),
       by decide +kernel⟩,
   ⟨0, 0, 0, 0, 3, 4,
       (rings.setFrond 3 { Frond.reset with item := some ⟨0, 0, 0, 0⟩, hoOut := [(0, 1, 2)] }).setFrond 4 { Frond.reset with item := some ⟨0, 0, 0, 1⟩ },
       by decide +kernel⟩⟩

theorem witness_CommandsCommit :
    (∃ (k : Nat) (c : Cmd) (o : Nat) (s : State), k < nSlots ∧ s.cmd k = some c ∧ c.outcome = some o ∧ c.dupOf = none ∧ c.phase = .running ∧
        c.work = .none ∧ c.silent = false ∧ fanOf s k = none ∧ cmdBusy k s = false ∧ cqReady c.inst (s.sq c.inst c.sq).cq s = true ∧
        writesWait s c = false ∧ (s.cq c.inst (s.sq c.inst c.sq).cq).buf = [] ∧ (s.cq c.inst (s.sq c.inst c.sq).cq).held = [] ∧
        ((∀ j x, (j, some x) ∈ s.ring.cmds → x.dupOf = none))) ∧
    (∃ (k : Nat) (c : Cmd) (o : Nat) (s : State), k < nSlots ∧ s.cmd k = some c ∧ c.outcome = some o ∧ o ≠ stSuccess ∧ c.dupOf = none ∧
        c.phase ≠ .entryWait ∧ fanOf s k = none ∧ cmdBusy k s = false) ∧
    (∃ (k : Nat) (c : Cmd) (s : State), s.cmd k = some c ∧ ((c.outcome = none ∨ cmdBusy k s = true))) ∧
    (∃ (k : Nat) (c : Cmd) (s : State), s.cmd k = some c ∧ c.phase = .ordering ∧ c.outcome = none ∧ c.isQuery = true) ∧
    (∃ (k : Nat) (c : Cmd) (s : State), s.cmd k = some c ∧ c.phase = .ordering ∧ c.outcome = none ∧ 0x10 ≤ c.opc ∧ c.opc ≤ 0x15) ∧
    (∃ (k : Nat) (c : Cmd) (s : State), s.cmd k = some c ∧ c.phase = .ordering ∧ c.outcome = none ∧ ((c.opc = 0x20 ∨ c.opc = 0x21))) ∧
    (∃ (k : Nat) (c : Cmd) (s : State), s.cmd k = some c ∧ c.phase = .ordering ∧ c.outcome = none ∧ c.opc = 0x30) ∧
    (∃ (k : Nat) (c : Cmd) (s : State), s.cmd k = some c ∧ c.phase = .ordering ∧ c.outcome = none ∧ c.opc = 0x31) ∧
    (∃ (k : Nat) (c : Cmd) (s : State), s.cmd k = some c ∧ c.phase = .hostRead ∧ c.outcome = none ∧ ((c.opc = 0x10 ∨ c.opc = 0x12))) ∧
    (∃ (k : Nat) (c : Cmd) (d : List Byte) (s : State), s.cmd k = some c ∧ c.phase = .hostRead ∧ c.outcome = none ∧
        ((c.opc = 0x10 ∨ c.opc = 0x12)) ∧ (s.hostPort (s.sq c.inst c.sq).port).absent = false ∧ d.length = c.len) :=
  ⟨⟨0, { mkCmd (ent 0 0 0 0 0 0 0 0) .running with outcome := some 0 }, 0,
      withCmd ({ mkCmd (ent 0 0 0 0 0 0 0 0) .running with outcome := some 0 }), by decide +kernel, by decide +kernel, by decide +kernel, rfl,
      rfl, rfl, by decide +kernel, by decide +kernel, by decide +kernel, rfl, by decide +kernel, by decide +kernel, by decide +kernel, fun j x h => by
      have h : (j, some x) ∈ ([(0, some { mkCmd (ent 0 0 0 0 0 0 0 0) .running with outcome := some 0 })] : List (Nat × Option Cmd)) := h
      rw [Option.some.inj (Prod.mk.inj (List.mem_singleton.mp h)).2]
      rfl⟩,
   ⟨0, { mkCmd (ent 0 0 0 0 0 0 0 0) .running with outcome := some 0x0106 }, 0x0106,
       withCmd ({ mkCmd (ent 0 0 0 0 0 0 0 0) .running with outcome := some 0x0106 }), by decide +kernel⟩,
   ⟨0, mkCmd (ent 0 0 0 0 0 0 0 0) .handed, withCmd (mkCmd (ent 0 0 0 0 0 0 0 0) .handed), by decide +kernel⟩,
   ⟨0, queryCmd 1 0 0 .ordering (query plan0), withCmd (queryCmd 1 0 0 .ordering (query plan0)), by decide +kernel⟩,
   ⟨0, mkCmd (ent 0x15 1 0 0 0 0 0 0) .ordering, withCmd (mkCmd (ent 0x15 1 0 0 0 0 0 0) .ordering), by decide +kernel⟩,
   ⟨0, mkCmd (ent 0x21 1 0 0 0 0 0 0) .ordering, withCmd (mkCmd (ent 0x21 1 0 0 0 0 0 0) .ordering), by decide +kernel⟩,
   ⟨0, mkCmd (ent 0x30 1 0 0 0 0 0 0) .ordering, withCmd (mkCmd (ent 0x30 1 0 0 0 0 0 0) .ordering), by decide +kernel⟩,
   ⟨0, mkCmd (ent 0x31 1 0 0 0 0 0 0) .ordering, withCmd (mkCmd (ent 0x31 1 0 0 0 0 0 0) .ordering), by decide +kernel⟩,
   ⟨0, mkCmd (ent 0x10 1 0 0 0 0 0 0) .hostRead, withCmd (mkCmd (ent 0x10 1 0 0 0 0 0 0) .hostRead), by decide +kernel⟩,
   ⟨0, mkCmd (ent 0x10 1 0 64 0 64 0 0) .hostRead, zeros 64, withCmd (mkCmd (ent 0x10 1 0 64 0 64 0 0) .hostRead), by decide +kernel⟩⟩

theorem witness_StoreCommandsStart :
    (∃ (k : Nat) (c : Cmd) (o : StoreObj) (s : State), s.store.mounted = true ∧ Handed k 0x10 c s ∧ storeDesc c = none ∧
        objFor s c.inst c.obj c.accNo = some o ∧ c.addr1 + c.len ≤ objMax ∧ ((c.dur = false ∨ o.wfault = false)) ∧ cacheRoom s c.inst c.len = true) ∧
    (∃ (k : Nat) (c : Cmd) (o : StoreObj) (s : State), s.store.mounted = true ∧ Handed k 0x12 c s ∧ storeDesc c = none ∧
        objFor s c.inst c.obj c.accNo = some o ∧ c.addr1 + c.len ≤ objMax ∧ ((c.dur = false ∨ o.wfault = false)) ∧ cacheRoom s c.inst c.len = true) ∧
    (∃ (k : Nat) (c : Cmd) (s : State), s.cmd k = some c ∧ c.param 1 = 0 ∧ c.segs = [] ∧ bits (c.param 0) 31 0 ≠ 0 ∧
        (s.hostPort (s.sq c.inst c.sq).port).up = true) ∧
    (∃ (k : Nat) (c : Cmd) (o : StoreObj) (s : State), s.store.mounted = true ∧ Handed k 0x10 c s ∧ storeDesc c = none ∧
        objFor s c.inst c.obj c.accNo = some o ∧ c.addr1 + c.len ≤ objMax ∧ ((c.dur = false ∨ o.wfault = false)) ∧ cacheRoom s c.inst c.len = false) ∧
    (∃ (k : Nat) (c : Cmd) (s : State), s.cmd k = some c ∧ c.phase = .cacheWait ∧ c.outcome = none ∧ queryRun c = none ∧
        nextWaiting s c.inst = some k ∧ cacheRoom s c.inst c.len = true) ∧
    (∃ (k : Nat) (c : Cmd) (o : StoreObj) (s : State), s.store.mounted = true ∧ Handed k 0x11 c s ∧ storeDesc c = none ∧
        objFor s c.inst c.obj c.accNo = some o ∧ c.addr1 + c.len ≤ objMax) ∧
    (∃ (k : Nat) (c : Cmd) (o : StoreObj) (s : State), s.store.mounted = true ∧ Handed k 0x14 c s ∧ trimDesc c = none ∧
        objFor s c.inst c.obj c.accNo = some o ∧ c.addr1 + c.len ≤ objMax ∧ ((c.dur = false ∨ o.wfault = false))) ∧
    (∃ (k : Nat) (c : Cmd) (o : StoreObj) (s : State), s.store.mounted = true ∧ Handed k 0x15 c s ∧ attrDescOk c = true ∧ c.aop = 4 ∧
        objFor s c.inst c.obj c.accNo = some o ∧ c.param 1 ≤ objMax ∧ ((c.dur = false ∨ o.wfault = false))) :=
  ⟨⟨0, mkCmd (ent 0x10 1 0 64 0 64 0 0) .handed, (⟨0, 1, 1, 1, { size := 100, ver := 1, bytes := [], exts := [] }, ObjImage.empty, 0, true, false,
      false, false, 0, [], []⟩ : StoreObj),
      (let s := withCmd (mkCmd (ent 0x10 1 0 64 0 64 0 0) .handed); { s with insts := [(0, { Inst.zero with res := { ResRec.inst0 with storeExt := 100 } })], store := { s.store with ssds := [(0, ⟨true, true, true, false, true, false, 0, 4⟩)], objs := [(⟨0, 1, 1, 1, { size := 100, ver := 1, bytes := [], exts := [] }, ObjImage.empty, 0, true, false, false, false, 0, [], []⟩ : StoreObj)] } }),
      by decide +kernel, handed_of (by decide +kernel), by decide +kernel⟩,
   ⟨0, mkCmd (ent 0x12 1 0 64 0 64 0 0) .handed, (⟨0, 1, 1, 1, { size := 100, ver := 1, bytes := [], exts := [] }, ObjImage.empty, 0, true, false,
       false, false, 0, [], []⟩ : StoreObj),
       (let s := withCmd (mkCmd (ent 0x12 1 0 64 0 64 0 0) .handed); { s with insts := [(0, { Inst.zero with res := { ResRec.inst0 with storeExt := 100 } })], store := { s.store with ssds := [(0, ⟨true, true, true, false, true, false, 0, 4⟩)], objs := [(⟨0, 1, 1, 1, { size := 100, ver := 1, bytes := [], exts := [] }, ObjImage.empty, 0, true, false, false, false, 0, [], []⟩ : StoreObj)] } }),
       by decide +kernel, handed_of (by decide +kernel), by decide +kernel⟩,
   ⟨0, mkCmd (ent 0x10 1 0 64 0 64 0 0) .handed,
       (let s := withCmd (mkCmd (ent 0x10 1 0 64 0 64 0 0) .handed); { s with insts := [(0, { Inst.zero with res := { ResRec.inst0 with storeExt := 100 } })], store := { s.store with ssds := [(0, ⟨true, true, true, false, true, false, 0, 4⟩)], objs := [(⟨0, 1, 1, 1, { size := 100, ver := 1, bytes := [], exts := [] }, ObjImage.empty, 0, true, false, false, false, 0, [], []⟩ : StoreObj)] } }),
       by decide +kernel⟩,
   ⟨0, mkCmd (ent 0x10 1 0 64 0 64 0 0) .handed, (⟨0, 1, 1, 1, { size := 100, ver := 1, bytes := [], exts := [] }, ObjImage.empty, 0, true, false,
       false, false, 0, [], []⟩ : StoreObj),
       (let s := withCmd (mkCmd (ent 0x10 1 0 64 0 64 0 0) .handed); { s with insts := [(0, { Inst.zero with res := { ResRec.inst0 with storeExt := 100 } })], store := { s.store with ssds := [(0, ⟨true, true, true, false, true, false, 0, 4⟩)], objs := [(⟨0, 1, 1, 1, { size := 100, ver := 1, bytes := [], exts := [] }, ObjImage.empty, 0, true, false, false, false, 0, [], []⟩ : StoreObj)],  pubs := [⟨0, 2, ObjImage.empty, [0], 1, none, false, false, none, 16384, [], []⟩] } }),
       by decide +kernel, handed_of (by decide +kernel), by decide +kernel⟩,
   ⟨0, { mkCmd (ent 0x10 1 0 64 0 64 0 0) .handed with phase := .cacheWait },
       (let s := withCmd ({ mkCmd (ent 0x10 1 0 64 0 64 0 0) .handed with phase := .cacheWait }); { s with insts := [(0, { Inst.zero with res := { ResRec.inst0 with storeExt := 100 } })], store := { s.store with ssds := [(0, ⟨true, true, true, false, true, false, 0, 4⟩)], objs := [(⟨0, 1, 1, 1, { size := 100, ver := 1, bytes := [], exts := [] }, ObjImage.empty, 0, true, false, false, false, 0, [], []⟩ : StoreObj)], cacheQ := [0] } }),
       by decide +kernel⟩,
   ⟨0, mkCmd (ent 0x11 1 0 64 0 64 0 0) .handed, (⟨0, 1, 1, 1, { size := 100, ver := 1, bytes := [], exts := [] }, ObjImage.empty, 0, true, false,
       false, false, 0, [], []⟩ : StoreObj),
       (let s := withCmd (mkCmd (ent 0x11 1 0 64 0 64 0 0) .handed); { s with insts := [(0, { Inst.zero with res := { ResRec.inst0 with storeExt := 100 } })], store := { s.store with ssds := [(0, ⟨true, true, true, false, true, false, 0, 4⟩)], objs := [(⟨0, 1, 1, 1, { size := 100, ver := 1, bytes := [], exts := [] }, ObjImage.empty, 0, true, false, false, false, 0, [], []⟩ : StoreObj)] } }),
       by decide +kernel, handed_of (by decide +kernel), by decide +kernel⟩,
   ⟨0, mkCmd (ent 0x14 1 0 64 0 0 0 0) .handed, (⟨0, 1, 1, 1, { size := 100, ver := 1, bytes := [], exts := [] }, ObjImage.empty, 0, true, false,
       false, false, 0, [], []⟩ : StoreObj),
       (let s := withCmd (mkCmd (ent 0x14 1 0 64 0 0 0 0) .handed); { s with insts := [(0, { Inst.zero with res := { ResRec.inst0 with storeExt := 100 } })], store := { s.store with ssds := [(0, ⟨true, true, true, false, true, false, 0, 4⟩)], objs := [(⟨0, 1, 1, 1, { size := 100, ver := 1, bytes := [], exts := [] }, ObjImage.empty, 0, true, false, false, false, 0, [], []⟩ : StoreObj)] } }),
       by decide +kernel, handed_of (by decide +kernel), by decide +kernel⟩,
   ⟨0, mkCmd (ent 0x15 1 0 64 0 4 (2 ^ 44) 0) .handed, (⟨0, 1, 1, 1, { size := 100, ver := 1, bytes := [], exts := [] }, ObjImage.empty, 0, true,
       false, false, false, 0, [], []⟩ : StoreObj),
       (let s := withCmd (mkCmd (ent 0x15 1 0 64 0 4 (2 ^ 44) 0) .handed); { s with insts := [(0, { Inst.zero with res := { ResRec.inst0 with storeExt := 100 } })], store := { s.store with ssds := [(0, ⟨true, true, true, false, true, false, 0, 4⟩)], objs := [(⟨0, 1, 1, 1, { size := 100, ver := 1, bytes := [], exts := [] }, ObjImage.empty, 0, true, false, false, false, 0, [], []⟩ : StoreObj)] } }),
       by decide +kernel, handed_of (by decide +kernel), by decide +kernel⟩⟩

theorem witness_StoreEffects :
    (∃ (k : Nat) (c : Cmd) (o : StoreObj) (s : State), s.cmd k = some c ∧ c.opc = 0x11 ∧ c.phase = .ordering ∧ c.outcome = none ∧
        readsLeft s k = false ∧ orderBlocked s c [c.obj] = false ∧ objFor s c.inst c.obj c.accNo = some o ∧ c.addr1 + c.len ≤ o.cur.size ∧
        ((∀ e ∈ extsOf c.addr1 c.len, e ∉ o.badExts ∧ onMedia o o.cur e = false)) ∧ c.param 1 = 0 ∧ c.segs = [] ∧ bits (c.param 0) 31 0 = c.len ∧
        (s.hostPort (s.sq c.inst c.sq).port).up = true) ∧
    (∃ (k : Nat) (c : Cmd) (o : StoreObj) (s : State), s.cmd k = some c ∧ c.opc = 0x11 ∧ c.phase = .ordering ∧ c.outcome = none ∧
        readsLeft s k = false ∧ orderBlocked s c [c.obj] = false ∧ objFor s c.inst c.obj c.accNo = some o ∧ o.cur.size < c.addr1 + c.len) ∧
    (∃ (k : Nat) (c : Cmd) (o : StoreObj) (m : _) (s : State), s.cmd k = some c ∧ c.opc ≠ 0x11 ∧ c.dur = false ∧ c.phase = .ordering ∧
        c.outcome = none ∧ readsLeft s k = false ∧ orderBlocked s c [c.obj] = false ∧ objFor s c.inst c.obj c.accNo = some o ∧
        effectOf c o.cur = some m ∧ m.size ≤ objMax ∧ o.badExts = [] ∧ overCapacity s o m = false) :=
  ⟨⟨0, { mkCmd (ent 0x11 1 0 64 0 64 0 0) .handed with phase := .ordering }, (⟨0, 1, 1, 1, { size := 100, ver := 1, bytes := [], exts := [] },
      ObjImage.empty, 0, true, false, false, false, 0, [], []⟩ : StoreObj),
      (let s := withCmd ({ mkCmd (ent 0x11 1 0 64 0 64 0 0) .handed with phase := .ordering }); { s with insts := [(0, { Inst.zero with res := { ResRec.inst0 with storeExt := 100 } })], store := { s.store with ssds := [(0, ⟨true, true, true, false, true, false, 0, 4⟩)], objs := [(⟨0, 1, 1, 1, { size := 100, ver := 1, bytes := [], exts := [] }, ObjImage.empty, 0, true, false, false, false, 0, [], []⟩ : StoreObj)] } }),
      by decide +kernel⟩,
   ⟨0, { mkCmd (ent 0x11 1 0 64 37 64 0 0) .handed with phase := .ordering }, (⟨0, 1, 1, 1, { size := 100, ver := 1, bytes := [], exts := [] },
       ObjImage.empty, 0, true, false, false, false, 0, [], []⟩ : StoreObj),
       (let s := withCmd ({ mkCmd (ent 0x11 1 0 64 37 64 0 0) .handed with phase := .ordering }); { s with insts := [(0, { Inst.zero with res := { ResRec.inst0 with storeExt := 100 } })], store := { s.store with ssds := [(0, ⟨true, true, true, false, true, false, 0, 4⟩)], objs := [(⟨0, 1, 1, 1, { size := 100, ver := 1, bytes := [], exts := [] }, ObjImage.empty, 0, true, false, false, false, 0, [], []⟩ : StoreObj)] } }),
       by decide +kernel⟩,
   ⟨0, { mkCmd (ent 0x10 1 0 64 0 64 0 0) .handed with work := .store { StoreRun.start with data := zeros 64, staged := true }, phase := .ordering },
       (⟨0, 1, 1, 1, { size := 100, ver := 1, bytes := [], exts := [] }, ObjImage.empty, 0, true, false, false, false, 0, [], []⟩ : StoreObj),
       imgWrite { size := 100, ver := 1, bytes := [], exts := [] } 0 (zeros 64),
       (let s := withCmd ({ mkCmd (ent 0x10 1 0 64 0 64 0 0) .handed with work := .store { StoreRun.start with data := zeros 64, staged := true }, phase := .ordering }); { s with insts := [(0, { Inst.zero with res := { ResRec.inst0 with storeExt := 100 } })], store := { s.store with ssds := [(0, ⟨true, true, true, false, true, false, 0, 4⟩)], objs := [(⟨0, 1, 1, 1, { size := 100, ver := 1, bytes := [], exts := [] }, ObjImage.empty, 0, true, false, false, false, 0, [], []⟩ : StoreObj)] } }),
       by decide +kernel⟩⟩

theorem witness_StoreAttributes :
    (∃ (k : Nat) (c : Cmd) (s : State), s.store.mounted = true ∧ Handed k 0x13 c s ∧ bareDesc c = true ∧ c.word 3 = 0 ∧ c.word 4 = 0 ∧
        ((c.obj = 0 ∨ (objFor s c.inst c.obj c.accNo).isSome = true)) ∧ flushFault s c = false ∧ flushSet s c = []) ∧
    (∃ (k : Nat) (c : Cmd) (s : State), s.store.mounted = true ∧ Handed k 0x13 c s ∧ bareDesc c = true ∧ c.word 3 = 0 ∧ c.word 4 = 0 ∧
        ((c.obj = 0 ∨ (objFor s c.inst c.obj c.accNo).isSome = true)) ∧ flushFault s c = false ∧ flushSet s c ≠ []) ∧
    (∃ (k : Nat) (c : Cmd) (s : State), s.store.mounted = true ∧ Handed k 0x15 c s ∧ attrDescOk c = true ∧ c.aop = 1 ∧ c.obj ≠ 0 ∧
        c.obj ≠ 0xFFFFFFFF ∧ orderBlocked s c [c.obj] = false ∧ objNow s c.inst c.obj = none ∧ (s.hostPort (s.sq c.inst c.sq).port).up = true) ∧
    (∃ (k : Nat) (c : Cmd) (d : List Byte) (s : State), s.cmd k = some c ∧ c.opc = 0x15 ∧ c.phase = .hostRead ∧ c.outcome = none ∧ c.dur = false ∧
        (s.hostPort (s.sq c.inst c.sq).port).absent = false ∧ d.length = 64 ∧ createOk s d = true ∧ objNow s c.inst c.obj = none ∧
        s.store.objs.length < 65536) ∧
    (∃ (k : Nat) (c : Cmd) (o : StoreObj) (s : State), s.store.mounted = true ∧ Handed k 0x15 c s ∧ attrDescOk c = true ∧ c.aop = 2 ∧
        objNow s c.inst c.obj = some o ∧ c.dur = false ∧ orderBlocked s c [c.obj] = false) ∧
    (∃ (k : Nat) (c : Cmd) (o : StoreObj) (s : State), s.store.mounted = true ∧ Handed k 0x15 c s ∧ attrDescOk c = true ∧ c.aop = 3 ∧
        objFor s c.inst c.obj c.accNo = some o ∧ orderBlocked s c [c.obj] = false ∧ (s.hostPort (s.sq c.inst c.sq).port).up = true) ∧
    (∃ (k : Nat) (c : Cmd) (s : State), s.store.mounted = true ∧ Handed k 0x15 c s ∧ attrDescOk c = false) :=
  ⟨⟨0, mkCmd (ent 0x13 1 0 0 0 0 0 0) .handed,
      (let s := withCmd (mkCmd (ent 0x13 1 0 0 0 0 0 0) .handed); { s with insts := [(0, { Inst.zero with res := { ResRec.inst0 with storeExt := 100 } })], store := { s.store with ssds := [(0, ⟨true, true, true, false, true, false, 0, 4⟩)], objs := [(⟨0, 1, 1, 1, { size := 100, ver := 1, bytes := [], exts := [] }, ObjImage.empty, 0, true, false, false, false, 0, [], []⟩ : StoreObj)] } }),
      by decide +kernel, handed_of (by decide +kernel), by decide +kernel⟩,
   ⟨0, mkCmd (ent 0x13 1 0 0 0 0 0 0) .handed,
       (let s := withCmd (mkCmd (ent 0x13 1 0 0 0 0 0 0) .handed); { s with insts := [(0, { Inst.zero with res := { ResRec.inst0 with storeExt := 100 } })], store := { s.store with ssds := [(0, ⟨true, true, true, false, true, false, 0, 4⟩)], objs := [(⟨0, 1, 1, 1, { size := 100, ver := 1, bytes := [], exts := [] }, ObjImage.empty, 0, true, false, false, false, 0, [], []⟩ : StoreObj)], pubs := [⟨0, 1, { size := 100, ver := 2, bytes := [], exts := [] }, [0], 1, some 3, false, false, none, 1, [], []⟩] } }),
       by decide +kernel, handed_of (by decide +kernel), by decide +kernel⟩,
   ⟨0, mkCmd (ent 0x15 5 0 64 0 1 0 0) .handed,
       (let s := withCmd (mkCmd (ent 0x15 5 0 64 0 1 0 0) .handed); { s with insts := [(0, { Inst.zero with res := { ResRec.inst0 with storeExt := 100 } })], store := { s.store with ssds := [(0, ⟨true, true, true, false, true, false, 0, 4⟩)], objs := [(⟨0, 1, 1, 1, { size := 100, ver := 1, bytes := [], exts := [] }, ObjImage.empty, 0, true, false, false, false, 0, [], []⟩ : StoreObj)] } }),
       by decide +kernel, handed_of (by decide +kernel), by decide +kernel⟩,
   ⟨0, { mkCmd (ent 0x15 5 0 64 0 1 0 0) .handed with phase := .hostRead }, (zeros 4 ++ leBytes 1 2 ++ leBytes 1 1 ++ zeros 57),
       (let s := (let s := withCmd ({ mkCmd (ent 0x15 5 0 64 0 1 0 0) .handed with phase := .hostRead }); { s with insts := [(0, { Inst.zero with res := { ResRec.inst0 with storeExt := 100 } })], store := { s.store with ssds := [(0, ⟨true, true, true, false, true, false, 0, 4⟩)], objs := [(⟨0, 1, 1, 1, { size := 100, ver := 1, bytes := [], exts := [] }, ObjImage.empty, 0, true, false, false, false, 0, [], []⟩ : StoreObj)] } }); s.setSsd 0 ⟨true,
       true, true, false, true, false, 0, 4⟩), by decide +kernel⟩,
   ⟨0, mkCmd (ent 0x15 1 0 64 0 2 0 0) .handed, (⟨0, 1, 1, 1, { size := 100, ver := 1, bytes := [], exts := [] }, ObjImage.empty, 0, true, false,
       false, false, 0, [], []⟩ : StoreObj),
       (let s := withCmd (mkCmd (ent 0x15 1 0 64 0 2 0 0) .handed); { s with insts := [(0, { Inst.zero with res := { ResRec.inst0 with storeExt := 100 } })], store := { s.store with ssds := [(0, ⟨true, true, true, false, true, false, 0, 4⟩)], objs := [(⟨0, 1, 1, 1, { size := 100, ver := 1, bytes := [], exts := [] }, ObjImage.empty, 0, true, false, false, false, 0, [], []⟩ : StoreObj)] } }),
       by decide +kernel, handed_of (by decide +kernel), by decide +kernel⟩,
   ⟨0, mkCmd (ent 0x15 1 0 64 0 3 0 0) .handed, (⟨0, 1, 1, 1, { size := 100, ver := 1, bytes := [], exts := [] }, ObjImage.empty, 0, true, false,
       false, false, 0, [], []⟩ : StoreObj),
       (let s := withCmd (mkCmd (ent 0x15 1 0 64 0 3 0 0) .handed); { s with insts := [(0, { Inst.zero with res := { ResRec.inst0 with storeExt := 100 } })], store := { s.store with ssds := [(0, ⟨true, true, true, false, true, false, 0, 4⟩)], objs := [(⟨0, 1, 1, 1, { size := 100, ver := 1, bytes := [], exts := [] }, ObjImage.empty, 0, true, false, false, false, 0, [], []⟩ : StoreObj)] } }),
       by decide +kernel, handed_of (by decide +kernel), by decide +kernel⟩,
   ⟨0, mkCmd (ent 0x15 5 0 64 0 5 0 0) .handed,
       (let s := withCmd (mkCmd (ent 0x15 5 0 64 0 5 0 0) .handed); { s with insts := [(0, { Inst.zero with res := { ResRec.inst0 with storeExt := 100 } })], store := { s.store with ssds := [(0, ⟨true, true, true, false, true, false, 0, 4⟩)], objs := [(⟨0, 1, 1, 1, { size := 100, ver := 1, bytes := [], exts := [] }, ObjImage.empty, 0, true, false, false, false, 0, [], []⟩ : StoreObj)] } }),
       by decide +kernel, handed_of (by decide +kernel), by decide +kernel⟩⟩

theorem witness_StoreMedia :
    (∃ (id : Nat) (n : Nvme) (s : State), (s.store.nvme.find? (fun n => n.id = id) = some n) ∧ n.tries < 2) ∧
    (∃ (id : Nat) (n : Nvme) (s : State), (s.store.nvme.find? (fun n => n.id = id) = some n) ∧ n.kind = .rewrite) ∧
    (∃ (id : Nat) (n : Nvme) (p : Pub) (s : State), (s.store.nvme.find? (fun n => n.id = id) = some n) ∧ n.kind = .extWrite ∧
        nvmePub s n = some p ∧ p.hidden = false) ∧
    (∃ (id : Nat) (n : Nvme) (s : State), (s.store.nvme.find? (fun n => n.id = id) = some n) ∧ n.sentAt + 2000000000 ≤ s.time ∧
        (s.ssd n.port).failed = false) ∧
    (∃ (id : Nat) (n : Nvme) (s : State), (s.store.nvme.find? (fun n => n.id = id) = some n) ∧ s.time < n.sentAt + 2000000000) ∧
    (∃ (p : Pub) (o : StoreObj) (k : Nat) (port : Nat) (s : State), s.store.mounted = true ∧ s.store.pubs = [p] ∧ p.todo = [k] ∧
        inFence s p.inst = false ∧ s.store.nvme = [] ∧ pubObj s p = some o ∧ writePort s o (k / 2) (k % 2) = some port) ∧
    (∃ (p : Pub) (o : StoreObj) (s : State), s.store.mounted = true ∧ s.store.jour1.isSome = true ∧ s.store.pubs = [p] ∧ p.todo = [] ∧
        p.hidden = false ∧ p.slot = none ∧ p.delete = false ∧ s.store.flushes = [] ∧ s.pwr.destaging = false ∧ pubObj s p = some o ∧
        o.deleted = false) ∧
    (∃ (x : Nat) (s : State), s.store.jourCopy = some x ∧ s.store.jour1 = none ∧ s.store.jour2.isSome = true) ∧
    (∃ (x : Nat) (y : _) (s : State), s.store.jourCopy = some x ∧ s.store.jour1 = none ∧ s.store.jour2 = none ∧
        journalTarget x { s with store := { s.store with jour1 := some x, jourCopy := none } } = y) ∧
    (∃ (x : Nat) (y : Nat) (s : State), s.store.jourCopy = some x ∧ s.store.jour1 = some y) ∧
    (∃ (x : SsdFound) (s : State), s.store.mounted = false ∧ s.pads.booted = true ∧ x.port < 16 ∧ x.formatOk = true ∧ x.label = true) ∧
    (∃ (x : SsdFound) (s : State), s.store.mounted = false ∧ s.pads.booted = true ∧ x.port < 16 ∧ x.label = false) :=
  ⟨⟨1, (⟨1, 2, .extRead, 0, 1, 0, 1, 1, 0, none, 0, 1, none, false, []⟩ : Nvme),
      { base with store := { base.store with objs := [(⟨0, 1, 4, 1, { size := 100, ver := 1, bytes := [], exts := [] }, ObjImage.empty, 0, true, false, false, false, 0, [], []⟩ : StoreObj)], ssds := [(2, ⟨true, true, true, false, true, false, 0, 4⟩)], nvme := [(⟨1, 2, .extRead, 0, 1, 0, 1, 1, 0, none, 0, 1, none, false, []⟩ : Nvme)] } },
      by decide +kernel⟩,
   ⟨1, (⟨1, 2, .rewrite, 0, 1, 0, 1, 0, 0, none, 0, 1, none, false, []⟩ : Nvme),
       { base with store := { base.store with objs := [(⟨0, 1, 4, 1, { size := 100, ver := 1, bytes := [], exts := [] }, ObjImage.empty, 0, true, false, false, false, 0, [], []⟩ : StoreObj)], ssds := [(2, ⟨true, true, true, false, true, false, 0, 4⟩)], nvme := [(⟨1, 2, .rewrite, 0, 1, 0, 1, 0, 0, none, 0, 1, none, false, []⟩ : Nvme)] } },
       by decide +kernel⟩,
   ⟨1, (⟨1, 2, .extWrite, 0, 1, 0, 1, 0, 0, none, 0, 1, none, false, []⟩ : Nvme), (⟨0, 1, { size := 100, ver := 1, bytes := [], exts := [] }, [0],
       1, none, false, false, none, 1, [], []⟩ : Pub),
       { base with store := { base.store with objs := [(⟨0, 1, 4, 1, { size := 100, ver := 1, bytes := [], exts := [] }, ObjImage.empty, 0, true, false, false, false, 0, [], []⟩ : StoreObj)], ssds := [(2, ⟨true, true, true, false, true, false, 0, 4⟩)], nvme := [(⟨1, 2, .extWrite, 0, 1, 0, 1, 0, 0, none, 0, 1, none, false, []⟩ : Nvme)], pubs := [(⟨0, 1, { size := 100, ver := 1, bytes := [], exts := [] }, [0], 1, none, false, false, none, 1, [], []⟩ : Pub)] } },
       by decide +kernel⟩,
   ⟨1, (⟨1, 2, .extRead, 0, 1, 0, 1, 0, 0, none, 0, 1, none, false, []⟩ : Nvme),
       { { base with store := { base.store with objs := [(⟨0, 1, 4, 1, { size := 100, ver := 1, bytes := [], exts := [] }, ObjImage.empty, 0, true, false, false, false, 0, [], []⟩ : StoreObj)], ssds := [(2, ⟨true, true, true, false, true, false, 0, 4⟩)], nvme := [(⟨1, 2, .extRead, 0, 1, 0, 1, 0, 0, none, 0, 1, none, false, []⟩ : Nvme)] } } with time := 2000000000 },
       by decide +kernel⟩,
   ⟨1, (⟨1, 2, .extRead, 0, 1, 0, 1, 0, 0, none, 0, 1, none, false, []⟩ : Nvme),
       { { base with store := { base.store with objs := [(⟨0, 1, 4, 1, { size := 100, ver := 1, bytes := [], exts := [] }, ObjImage.empty, 0, true, false, false, false, 0, [], []⟩ : StoreObj)], ssds := [(2, ⟨true, true, true, false, true, false, 0, 4⟩)], nvme := [(⟨1, 2, .extRead, 0, 1, 0, 1, 0, 0, none, 0, 1, none, false, []⟩ : Nvme)] } } with time := 1999999999 },
       by decide +kernel⟩,
   ⟨(⟨0, 1, { size := 100, ver := 1, bytes := [], exts := [] }, [0], 1, none, false, false, none, 1, [], []⟩ : Pub), (⟨0, 1, 4, 1,
       { size := 100, ver := 1, bytes := [], exts := [] }, ObjImage.empty, 0, true, false, false, false, 0, [], []⟩ : StoreObj), 0, 2,
       { base with store := { base.store with objs := [(⟨0, 1, 4, 1, { size := 100, ver := 1, bytes := [], exts := [] }, ObjImage.empty, 0, true, false, false, false, 0, [], []⟩ : StoreObj)], ssds := [(2, ⟨true, true, true, false, true, false, 0, 4⟩)], pubs := [(⟨0, 1, { size := 100, ver := 1, bytes := [], exts := [] }, [0], 1, none, false, false, none, 1, [], []⟩ : Pub)] } },
       by decide +kernel⟩,
   ⟨(⟨0, 1, { size := 100, ver := 1, bytes := [], exts := [] }, [], 1, none, false, false, none, 1, [], []⟩ : Pub), (⟨0, 1, 4, 1,
       { size := 100, ver := 1, bytes := [], exts := [] }, ObjImage.empty, 0, true, false, false, false, 0, [], []⟩ : StoreObj),
       { base with store := { base.store with objs := [(⟨0, 1, 4, 1, { size := 100, ver := 1, bytes := [], exts := [] }, ObjImage.empty, 0, true, false, false, false, 0, [], []⟩ : StoreObj)], ssds := [(2, ⟨true, true, true, false, true, false, 0, 4⟩)], pubs := [(⟨0, 1, { size := 100, ver := 1, bytes := [], exts := [] }, [], 1, none, false, false, none, 1, [], []⟩ : Pub)], jour1 := some 2 } },
       by decide +kernel⟩,
   ⟨3, { base with store := { base.store with objs := [(⟨0, 1, 4, 1, { size := 100, ver := 1, bytes := [], exts := [] }, ObjImage.empty, 0, true, false, false, false, 0, [], []⟩ : StoreObj)], ssds := [(2, ⟨true, true, true, false, true, false, 0, 4⟩)], jourCopy := some 3, jour2 := some 2 } },
       by decide +kernel⟩,
   ⟨3, some 2,
       { base with store := { base.store with objs := [(⟨0, 1, 4, 1, { size := 100, ver := 1, bytes := [], exts := [] }, ObjImage.empty, 0, true, false, false, false, 0, [], []⟩ : StoreObj)], ssds := [(2, ⟨true, true, true, false, true, false, 0, 4⟩)], jourCopy := some 3 } },
       by decide +kernel⟩,
   ⟨3, 2, { base with store := { base.store with objs := [(⟨0, 1, 4, 1, { size := 100, ver := 1, bytes := [], exts := [] }, ObjImage.empty, 0, true, false, false, false, 0, [], []⟩ : StoreObj)], ssds := [(2, ⟨true, true, true, false, true, false, 0, 4⟩)], jourCopy := some 3, jour1 := some 2 } },
       by decide +kernel⟩,
   ⟨({ port := 15, formatOk := true, label := true, blank := false, extents := 1 } : SsdFound), { base with store := StoreSt.reset },
       by decide +kernel⟩,
   ⟨({ port := 15, formatOk := true, label := false, blank := true, extents := 1 } : SsdFound), { base with store := StoreSt.reset },
       by decide +kernel⟩⟩

theorem witness_DigestCommands :
    (∃ (k : Nat) (c : Cmd) (st : Nat) (s : State), Handed k 0x20 c s ∧ digestDesc c = some st) ∧
    (∃ (k : Nat) (c : Cmd) (s : State), Handed k 0x20 c s ∧ digestDesc c = none ∧ c.dSrc ≠ 2 ∧ keyed c.dFunc = false) ∧
    (∃ (k : Nat) (c : Cmd) (s : State), Handed k 0x21 c s ∧ digestDesc c = none ∧ c.dSrc ≠ 2 ∧ keyed c.dFunc = false ∧
        (digestRun c).expected = [] ∧ (s.hostPort (s.sq c.inst c.sq).port).up = true) ∧
    (∃ (u : Nat) (f : Fin 128) (l : Nat) (x : _) (k : Nat) (s : State) (w : _), u < 4 ∧
        chooseCursor 2 (candidates (askContext f.val s) 2 (openEligible (askContext f.val s) u)) (askContext f.val s) = (some (l, x), w) ∧
        x.kind = .digFrond ∧ slotFor w u (w.disp.lists.get ReadyList.free l).inst = some k) ∧
    (∃ (u : Nat) (l : Nat) (x : Cursor) (k : Nat) (r : _) (s : State) (w : _), u < 4 ∧
        chooseCursor 2 (candidates s 2 (openEligible s u)) s = (some (l, x), w) ∧ x.kind = .digOpen ∧ w.disp.lists.get ReadyList.free l = r ∧
        slotFor w u r.inst = some k) ∧
    (∃ (id : Nat) (n : Nvme) (s : State), (s.store.nvme.find? (fun n => decide (n.id = id) && decide (n.kind = .extRead)) = some n) ∧ n.tries < 2) ∧
    (∃ (id : Nat) (n : Nvme) (o : StoreObj) (k : Nat) (d : List Byte) (s : State), s.store.nvme.find? (fun n => decide (n.id = id) && decide (n.kind = .extRead)) = some n ∧
        nvmeObj s n = some o ∧ extentPasses o n.ext n.ver d = true ∧ n.place = 0 ∧ n.slot = some k) :=
  ⟨⟨0, mkCmd (ent 0x20 0 0 64 0 0 0 0) .handed, 0x0106, withCmd (mkCmd (ent 0x20 0 0 64 0 0 0 0) .handed), handed_of (by decide +kernel),
      by decide +kernel⟩,
   ⟨0, mkCmd (ent 0x20 0 0 64 0 1 0 0) .handed, withCmd (mkCmd (ent 0x20 0 0 64 0 1 0 0) .handed), handed_of (by decide +kernel), by decide +kernel⟩,
   ⟨0, mkCmd (ent 0x21 0 0 64 0 1 0 0) .handed, withCmd (mkCmd (ent 0x21 0 0 64 0 1 0 0) .handed), handed_of (by decide +kernel), by decide +kernel⟩,
   ⟨3, (96 : Fin 128), 5,
       (((askContext 96 ((let s := (withCmd (queryCmd 1 0 0 .running ({ query ({ plan0 with pipes := [⟨0, 0, 0, 1, 1, 0, 0, 3, 0, 0, 0⟩], ops := [⟨8, 0, 0, 0, 0, 0, 0, 0, 0, 0, .verify 0⟩] }) with inputs := [⟨0, 2, 1, 0, 3, 0, 0, [], true, ObjImage.empty⟩], pipes := [(0, { PipeRun.idle with started := true })] }))).setFrond 96 { Frond.reset with item := some ⟨0, 0, 0, 0⟩ }; { s with insts := [(0, { Inst.zero with st := .active, res := { ResRec.inst0 with digCtx := [2, 2, 2, 2] } })], disp := { s.disp with deficit := [(2048, 5)], turn := [], lists := [(5, ⟨true, 0, 2, 2, []⟩)] } }))).disp.lists.get ReadyList.free 5).cursors.headD (⟨0,
       96, .digFrond, false, false, false, 0⟩ : Cursor)), 0,
       (let s := (withCmd (queryCmd 1 0 0 .running ({ query ({ plan0 with pipes := [⟨0, 0, 0, 1, 1, 0, 0, 3, 0, 0, 0⟩], ops := [⟨8, 0, 0, 0, 0, 0, 0, 0, 0, 0, .verify 0⟩] }) with inputs := [⟨0, 2, 1, 0, 3, 0, 0, [], true, ObjImage.empty⟩], pipes := [(0, { PipeRun.idle with started := true })] }))).setFrond 96 { Frond.reset with item := some ⟨0, 0, 0, 0⟩ }; { s with insts := [(0, { Inst.zero with st := .active, res := { ResRec.inst0 with digCtx := [2, 2, 2, 2] } })], disp := { s.disp with deficit := [(2048, 5)], turn := [], lists := [(5, ⟨true, 0, 2, 2, []⟩)] } }),
       (chooseCursor 2 (candidates (askContext 96 ((let s := (withCmd (queryCmd 1 0 0 .running ({ query ({ plan0 with pipes := [⟨0, 0, 0, 1, 1, 0, 0, 3, 0, 0, 0⟩], ops := [⟨8, 0, 0, 0, 0, 0, 0, 0, 0, 0, .verify 0⟩] }) with inputs := [⟨0, 2, 1, 0, 3, 0, 0, [], true, ObjImage.empty⟩], pipes := [(0, { PipeRun.idle with started := true })] }))).setFrond 96 { Frond.reset with item := some ⟨0, 0, 0, 0⟩ }; { s with insts := [(0, { Inst.zero with st := .active, res := { ResRec.inst0 with digCtx := [2, 2, 2, 2] } })], disp := { s.disp with deficit := [(2048, 5)], turn := [], lists := [(5, ⟨true, 0, 2, 2, []⟩)] } }))) 2 (openEligible (askContext 96 ((let s := (withCmd (queryCmd 1 0 0 .running ({ query ({ plan0 with pipes := [⟨0, 0, 0, 1, 1, 0, 0, 3, 0, 0, 0⟩], ops := [⟨8, 0, 0, 0, 0, 0, 0, 0, 0, 0, .verify 0⟩] }) with inputs := [⟨0, 2, 1, 0, 3, 0, 0, [], true, ObjImage.empty⟩], pipes := [(0, { PipeRun.idle with started := true })] }))).setFrond 96 { Frond.reset with item := some ⟨0, 0, 0, 0⟩ }; { s with insts := [(0, { Inst.zero with st := .active, res := { ResRec.inst0 with digCtx := [2, 2, 2, 2] } })], disp := { s.disp with deficit := [(2048, 5)], turn := [], lists := [(5, ⟨true, 0, 2, 2, []⟩)] } }))) 3)) (askContext 96 ((let s := (withCmd (queryCmd 1 0 0 .running ({ query ({ plan0 with pipes := [⟨0, 0, 0, 1, 1, 0, 0, 3, 0, 0, 0⟩], ops := [⟨8, 0, 0, 0, 0, 0, 0, 0, 0, 0, .verify 0⟩] }) with inputs := [⟨0, 2, 1, 0, 3, 0, 0, [], true, ObjImage.empty⟩], pipes := [(0, { PipeRun.idle with started := true })] }))).setFrond 96 { Frond.reset with item := some ⟨0, 0, 0, 0⟩ }; { s with insts := [(0, { Inst.zero with st := .active, res := { ResRec.inst0 with digCtx := [2, 2, 2, 2] } })], disp := { s.disp with deficit := [(2048, 5)], turn := [], lists := [(5, ⟨true, 0, 2, 2, []⟩)] } })))).2,
       by decide +kernel, rfl, by decide +kernel⟩,
   ⟨3, 5, (⟨0, 0, .digOpen, false, false, false, 0⟩ : Cursor), 0,
       ((chooseCursor 2 (candidates (let s := withCmd ({ mkCmd (ent 0x20 0 0 64 0 1 0 0) .handed with phase := .running, work := .digest (digestRun (mkCmd (ent 0x20 0 0 64 0 1 0 0) .handed)) }); { s with insts := [(0, { Inst.zero with st := .active, res := { ResRec.inst0 with digCtx := [2, 2, 2, 2] } })], eng := { s.eng with digOpens := [0] }, disp := { s.disp with deficit := [(2048, 5)], turn := [], lists := [(5, ⟨true, 0, 2, 2, [(⟨0, 0, .digOpen, false, false, false, 0⟩ : Cursor)]⟩)] } }) 2 (openEligible (let s := withCmd ({ mkCmd (ent 0x20 0 0 64 0 1 0 0) .handed with phase := .running, work := .digest (digestRun (mkCmd (ent 0x20 0 0 64 0 1 0 0) .handed)) }); { s with insts := [(0, { Inst.zero with st := .active, res := { ResRec.inst0 with digCtx := [2, 2, 2, 2] } })], eng := { s.eng with digOpens := [0] }, disp := { s.disp with deficit := [(2048, 5)], turn := [], lists := [(5, ⟨true, 0, 2, 2, [(⟨0, 0, .digOpen, false, false, false, 0⟩ : Cursor)]⟩)] } }) 3)) (let s := withCmd ({ mkCmd (ent 0x20 0 0 64 0 1 0 0) .handed with phase := .running, work := .digest (digestRun (mkCmd (ent 0x20 0 0 64 0 1 0 0) .handed)) }); { s with insts := [(0, { Inst.zero with st := .active, res := { ResRec.inst0 with digCtx := [2, 2, 2, 2] } })], eng := { s.eng with digOpens := [0] }, disp := { s.disp with deficit := [(2048, 5)], turn := [], lists := [(5, ⟨true, 0, 2, 2, [(⟨0, 0, .digOpen, false, false, false, 0⟩ : Cursor)]⟩)] } })).2.disp.lists.get ReadyList.free 5),
       (let s := withCmd ({ mkCmd (ent 0x20 0 0 64 0 1 0 0) .handed with phase := .running, work := .digest (digestRun (mkCmd (ent 0x20 0 0 64 0 1 0 0) .handed)) }); { s with insts := [(0, { Inst.zero with st := .active, res := { ResRec.inst0 with digCtx := [2, 2, 2, 2] } })], eng := { s.eng with digOpens := [0] }, disp := { s.disp with deficit := [(2048, 5)], turn := [], lists := [(5, ⟨true, 0, 2, 2, [(⟨0, 0, .digOpen, false, false, false, 0⟩ : Cursor)]⟩)] } }),
       (chooseCursor 2 (candidates (let s := withCmd ({ mkCmd (ent 0x20 0 0 64 0 1 0 0) .handed with phase := .running, work := .digest (digestRun (mkCmd (ent 0x20 0 0 64 0 1 0 0) .handed)) }); { s with insts := [(0, { Inst.zero with st := .active, res := { ResRec.inst0 with digCtx := [2, 2, 2, 2] } })], eng := { s.eng with digOpens := [0] }, disp := { s.disp with deficit := [(2048, 5)], turn := [], lists := [(5, ⟨true, 0, 2, 2, [(⟨0, 0, .digOpen, false, false, false, 0⟩ : Cursor)]⟩)] } }) 2 (openEligible (let s := withCmd ({ mkCmd (ent 0x20 0 0 64 0 1 0 0) .handed with phase := .running, work := .digest (digestRun (mkCmd (ent 0x20 0 0 64 0 1 0 0) .handed)) }); { s with insts := [(0, { Inst.zero with st := .active, res := { ResRec.inst0 with digCtx := [2, 2, 2, 2] } })], eng := { s.eng with digOpens := [0] }, disp := { s.disp with deficit := [(2048, 5)], turn := [], lists := [(5, ⟨true, 0, 2, 2, [(⟨0, 0, .digOpen, false, false, false, 0⟩ : Cursor)]⟩)] } }) 3)) (let s := withCmd ({ mkCmd (ent 0x20 0 0 64 0 1 0 0) .handed with phase := .running, work := .digest (digestRun (mkCmd (ent 0x20 0 0 64 0 1 0 0) .handed)) }); { s with insts := [(0, { Inst.zero with st := .active, res := { ResRec.inst0 with digCtx := [2, 2, 2, 2] } })], eng := { s.eng with digOpens := [0] }, disp := { s.disp with deficit := [(2048, 5)], turn := [], lists := [(5, ⟨true, 0, 2, 2, [(⟨0, 0, .digOpen, false, false, false, 0⟩ : Cursor)]⟩)] } })).2,
       by decide +kernel, rfl, by decide +kernel, rfl, by decide +kernel⟩,
   ⟨1, (⟨1, 2, .extRead, 0, 1, 0, 1, 1, 0, none, 0, 1, none, false, []⟩ : Nvme),
       { base with store := { base.store with objs := [(⟨0, 1, 4, 1, { size := 100, ver := 1, bytes := [], exts := [] }, ObjImage.empty, 0, true, false, false, false, 0, [], []⟩ : StoreObj)], ssds := [(2, ⟨true, true, true, false, true, false, 0, 4⟩)], nvme := [(⟨1, 2, .extRead, 0, 1, 0, 1, 1, 0, none, 0, 1, none, false, []⟩ : Nvme)] } },
       by decide +kernel⟩,
   ⟨1, readN, readObj, 0, zeros extSize ++ trailer readObj 0 1 (zeros extSize), readS, by decide +kernel, by decide +kernel,
     extentPasses_trailer readObj 0 1 (zeros extSize) (zeros_length _) (by decide) (by decide) (by decide) (by decide), by decide, by decide⟩⟩

theorem witness_DigestContexts :
    (∃ (u : Nat) (k : Nat) (acc : Nat) (cfg : W64) (s : State), u < 4 ∧ k < 64 ∧ (((s.ctx u k).st = .opened ∨ (s.ctx u k).st = .done)) ∧
        (s.ctx u k).inst = acc ∧ field cfg 1 0 = 1 ∧
        badCfg (field cfg 15 8) (field cfg 23 16) (field cfg 31 24) (field cfg 39 32) (field cfg 47 40) (leNat ((s.ctx u k).regs.read 0 8 8)) = false) ∧
    (∃ (u : Nat) (k : Nat) (acc : Nat) (cfg : W64) (s : State), u < 4 ∧ k < 64 ∧ (((s.ctx u k).st = .active ∨ (s.ctx u k).st = .failed)) ∧
        (s.ctx u k).inst = acc ∧ field cfg 1 0 = 1) ∧
    (∃ (u : Nat) (k : Nat) (acc : Nat) (x : Ctx) (s : State), u < 4 ∧ k < 64 ∧ s.ctx u k = x ∧ x.st = .active ∧ x.inst = acc ∧ x.last = false ∧
        x.fed.length + 8 ≤ x.len) ∧
    (∃ (u : Nat) (k : Nat) (acc : Nat) (j : Nat) (x : Ctx) (s : State), u < 4 ∧ k < 64 ∧ s.ctx u k = x ∧ x.st = .active ∧ x.inst = acc ∧
        x.last = false ∧ x.fed.length + 8 ≤ x.len ∧ x.inbuf.length = 512 ∧ onLane s u k = false ∧ j ≠ k ∧ (s.dgu u).waiting.contains k = true ∧
        ((s.dgu u).waiting.find? (fun j => (s.ctx u j).inst = x.inst) = some j)) ∧
    (∃ (u : Nat) (k : Nat) (acc : Nat) (n : Nat) (x : Ctx) (s : State), u < 4 ∧ k < 64 ∧ s.ctx u k = x ∧ x.st = .active ∧ x.inst = acc ∧
        x.last = false ∧ 1 ≤ n ∧ n ≤ 8 ∧ x.fed.length + n = x.len) ∧
    (∃ (u : Nat) (k : Nat) (acc : Nat) (n : Nat) (x : Ctx) (s : State), u < 4 ∧ k < 64 ∧ s.ctx u k = x ∧ x.st = .active ∧ x.inst = acc ∧
        x.last = false ∧ x.slot = none ∧ x.frond = none ∧ 1 ≤ n ∧ n ≤ 8 ∧ x.fed.length + n ≠ x.len) ∧
    (∃ (u : Nat) (k : Nat) (acc : Nat) (x : Ctx) (s : State), u < 4 ∧ k < 64 ∧ s.ctx u k = x ∧ x.st ≠ .free ∧ x.inst ≠ acc) ∧
    (∃ (u : Nat) (k : Nat) (acc : Nat) (s : State), u < 4 ∧ k < 64 ∧ (s.ctx u k).st ≠ .free ∧ (s.ctx u k).inst = acc) ∧
    (∃ (u : Nat) (k : Nat) (g : _) (x : Ctx) (s : State), u < 4 ∧ s.ctx u k = x ∧ x.st = .active ∧ x.last = true ∧ x.slot = none ∧
        onLane s u k = true ∧ ((x.cmplen = 0 ∨ upsetCmp g (cmpOf (ctxOutput x) x.expect x.cmplen) = 1))) ∧
    (∃ (u : Nat) (k : Nat) (g : _) (x : Ctx) (s : State), u < 4 ∧ s.ctx u k = x ∧ x.st = .active ∧ x.last = true ∧ x.cmplen ≠ 0 ∧ x.slot = none ∧
        x.frond = none ∧ upsetCmp g (cmpOf (ctxOutput x) x.expect x.cmplen) ≠ 1 ∧ onLane s u k = true) ∧
    (∃ (u : Nat) (k : Nat) (l : Nat) (x : Ctx) (s : State), u < 4 ∧ s.ctx u k = x ∧ (s.dgu u).fault = false ∧ (s.dgu u).strict = false ∧
        x.st = .active ∧ onLane s u k = false ∧ ((s.dgu u).waiting.find? (fun j => (s.ctx u j).inst = x.inst) = some k) ∧ freeLane s u = some l) ∧
    (∃ (u : Nat) (s : State), u < 4 ∧ isStrict s = true) ∧
    (∃ (u : Nat) (s : State), u < 4 ∧ isStrict s = false ∧ (s.dgu u).strict = false) ∧
    (∃ (n : Nat), n ≤ 3) :=
  ⟨⟨3, 63, 0, (257 : W64), (base.setCtx 3 63 { Ctx.free with st := .opened }), by decide +kernel⟩,
   ⟨3, 63, 0, (257 : W64), (base.setCtx 3 63 { Ctx.free with st := .active }), by decide +kernel⟩,
   ⟨3, 63, 0, ({ Ctx.free with st := .active, len := 8 } : Ctx), (base.setCtx 3 63 ({ Ctx.free with st := .active, len := 8 } : Ctx)),
       by decide +kernel⟩,
   ⟨3, 63, 0, 1, ({ Ctx.free with st := .active, len := 1000, inbuf := zeros 512 } : Ctx),
       (((base.setDgu 3 { DguUnit.reset with waiting := [1, 63] }).setCtx 3 63 ({ Ctx.free with st := .active, len := 1000, inbuf := zeros 512 } : Ctx)).setCtx 3 1 { Ctx.free with st := .active, len := 600 }),
       by decide +kernel⟩,
   ⟨3, 63, 0, 8, ({ Ctx.free with st := .active, len := 9, msg := [1] } : Ctx),
       (base.setCtx 3 63 ({ Ctx.free with st := .active, len := 9, msg := [1] } : Ctx)), by decide +kernel⟩,
   ⟨3, 63, 0, 7, ({ Ctx.free with st := .active, len := 9 } : Ctx), (base.setCtx 3 63 ({ Ctx.free with st := .active, len := 9 } : Ctx)),
       by decide +kernel⟩,
   ⟨3, 63, 1, ({ Ctx.free with st := .opened } : Ctx), (base.setCtx 3 63 { Ctx.free with st := .opened }), by decide +kernel⟩,
   ⟨3, 63, 0, (base.setCtx 3 63 { Ctx.free with st := .opened }), by decide +kernel⟩,
   ⟨3, 63, none, ({ Ctx.free with st := .active, func := 1, outlen := 32, last := true } : Ctx),
       ((base.setDgu 3 { DguUnit.reset with lanes := [(0, some (63, 0))] }).setCtx 3 63 ({ Ctx.free with st := .active, func := 1, outlen := 32, last := true } : Ctx)),
       by decide +kernel⟩,
   ⟨3, 63, (some false), ({ Ctx.free with st := .active, func := 1, outlen := 32, cmplen := 4, expect := [1, 2, 3, 4], last := true } : Ctx),
       ((base.setDgu 3 { DguUnit.reset with lanes := [(0, some (63, 0))] }).setCtx 3 63 ({ Ctx.free with st := .active, func := 1, outlen := 32, cmplen := 4, expect := [1, 2, 3, 4], last := true } : Ctx)),
       by decide +kernel⟩,
   ⟨3, 63, 0, ({ Ctx.free with st := .active, len := 9, inbuf := [1, 2], held := [3] } : Ctx),
       ((base.setDgu 3 { DguUnit.reset with waiting := [63] }).setCtx 3 63 ({ Ctx.free with st := .active, len := 9, inbuf := [1, 2], held := [3] } : Ctx)),
       by decide +kernel⟩,
   ⟨3, (let s := base.setDgu 3 { DguUnit.reset with strict := true, quantum := 15 }; { s with disp := { s.disp with profile := 3 } }),
       by decide +kernel⟩,
   ⟨3, base, by decide +kernel⟩,
   ⟨3, by decide +kernel⟩⟩

theorem witness_MatchCommands :
    (∃ (k : Nat) (c : Cmd) (s : State), Handed k 0x30 c s ∧ updateDescOk c = true ∧ (s.hostPort (s.sq c.inst c.sq).port).up = true) ∧
    (∃ (k : Nat) (c : Cmd) (s : State), Handed k 0x30 c s ∧ updateDescOk c = false) ∧
    (∃ (k : Nat) (c : Cmd) (u : Nat) (tb : CmuTable) (d : List Byte) (s : State), s.cmd k = some c ∧ c.opc = 0x30 ∧ c.phase = .hostRead ∧
        c.outcome = none ∧ (s.hostPort (s.sq c.inst c.sq).port).absent = false ∧ d.length = c.len ∧ matchBlocked c s = false ∧
        cmuTableFor s c.inst c.obj c.accNo = some (u, tb) ∧ firstBadRecord (2 ^ 32) 0 (recordsOf d) = none ∧
        firstBadRecord tb.size 0 (recordsOf d) = none ∧ tb.faulted = false ∧ (s.cmu u).fault = false ∧ recordsOf d ≠ []) ∧
    (∃ (k : Nat) (c : Cmd) (st : _) (s : State), Handed k 0x31 c s ∧ searchDesc c = some st) ∧
    (∃ (k : Nat) (c : Cmd) (s : State), Handed k 0x31 c s ∧ searchDesc c = none ∧ (s.hostPort (s.sq c.inst c.sq).port).up = true) ∧
    (∃ (k : Nat) (c : Cmd) (u : Nat) (tb : CmuTable) (d : List Byte) (s : State), s.cmd k = some c ∧ c.opc = 0x31 ∧ c.phase = .running ∧
        c.outcome = none ∧ c.work = .matching d 0 [] 0 ∧ d.length = 32 ∧ cmuTableFor s c.inst c.obj c.accNo = some (u, tb) ∧ tb.faulted = false ∧
        (s.cmu u).fault = false ∧ (s.cmu u).strict = isStrict s ∧ slotMine s u c.inst = true) ∧
    (∃ (k : Nat) (c : Cmd) (u : Nat) (tb : CmuTable) (s : State), s.cmd k = some c ∧ c.opc = 0x31 ∧ c.phase = .running ∧ c.outcome = none ∧
        cmuTableFor s c.inst c.obj c.accNo = some (u, tb) ∧ tb.faulted = false ∧ (s.cmu u).fault = false ∧ (s.cmu u).strict = isStrict s ∧
        slotMine s u c.inst = false) :=
  ⟨⟨0, mkCmd (ent 0x30 7 64 64 0 0 0 0) .handed, withCmd (mkCmd (ent 0x30 7 64 64 0 0 0 0) .handed), handed_of (by decide +kernel),
      by decide +kernel⟩,
   ⟨0, mkCmd (ent 0x30 7 64 65 0 0 0 0) .handed, withCmd (mkCmd (ent 0x30 7 64 65 0 0 0 0) .handed), handed_of (by decide +kernel),
       by decide +kernel⟩,
   ⟨0, { mkCmd (ent 0x30 7 64 64 0 0 0 0) .handed with phase := .hostRead }, 2, (⟨0, 7, 32, 16, 3, false, false, 0, 0⟩ : CmuTable),
       leBytes 5 4 ++ leBytes 1 4 ++ leBytes 9 8 ++ leBytes 3 24 ++ leBytes 7 24,
       ((withCmd ({ mkCmd (ent 0x30 7 64 64 0 0 0 0) .handed with phase := .hostRead })).setCmu 2 { CmuUnit.reset with tables := [(⟨0, 7, 32, 16, 3, false, false, 0, 0⟩ : CmuTable)] }),
       by decide +kernel⟩,
   ⟨0, mkCmd (ent 0x31 7 64 33 0 1 16 0) .handed, stLength, withCmd (mkCmd (ent 0x31 7 64 33 0 1 16 0) .handed), handed_of (by decide +kernel),
       by decide +kernel⟩,
   ⟨0, mkCmd (ent 0x31 7 64 32 0 1 16 0) .handed, withCmd (mkCmd (ent 0x31 7 64 32 0 1 16 0) .handed), handed_of (by decide +kernel),
       by decide +kernel⟩,
   ⟨0, { mkCmd (ent 0x31 7 64 32 0 1 16 0) .handed with phase := .running, work := .matching (leBytes 3 32) 0 [] 0 }, 2, (⟨0, 7, 32, 16, 3, false, false, 0, 0⟩ : CmuTable), leBytes 3 32, ((withCmd ({ mkCmd (ent 0x31 7 64 32 0 1 16 0) .handed with phase := .running, work := .matching (leBytes 3 32) 0 [] 0 })).setCmu 2 { CmuUnit.reset with tables := [(⟨0, 7, 32, 16, 3, false, false, 0, 0⟩ : CmuTable)], ent := [(37, ⟨3, 7, 9, true, 3⟩)] }), by decide +kernel⟩,
   ⟨0, { mkCmd (ent 0x31 7 64 32 0 1 16 0) .handed with phase := .running, work := .matching (leBytes 3 32) 0 [] 0 }, 2, (⟨0, 7, 32, 16, 3, false, false, 0, 0⟩ : CmuTable), (let s := ((withCmd ({ mkCmd (ent 0x31 7 64 32 0 1 16 0) .handed with phase := .running, work := .matching (leBytes 3 32) 0 [] 0 })).setCmu 2 { CmuUnit.reset with tables := [(⟨0, 7, 32, 16, 3, false, false, 0, 0⟩ : CmuTable)], ent := [(37, ⟨3, 7, 9, true, 3⟩)] }).setCmd 1 (some { { mkCmd (ent 0x31 7 64 32 0 1 16 0) .handed with phase := .running, work := .matching (leBytes 3 32) 0 [] 0 } with inst := 2 }); { s with insts := [(0, { Inst.zero with st := .active, res := { ResRec.inst0 with cmuSlots := 4 } }), (2, { Inst.zero with st := .active, res := { ResRec.inst0 with cmuSlots := 4 } })], eng := { s.eng with cmu := s.eng.cmu.map fun e => (e.1, { e.2 with turn := 2, credit := 3, tables := e.2.tables ++ [⟨2, 7, 64, 16, 4, false, false, 0, 0⟩] }) } }), by decide +kernel⟩⟩

theorem witness_UpdateSteps :
    (∃ (u : Nat) (r : UpdRun) (x : UpdRec) (tb : CmuTable) (s : State), currentRecord s u = some (r, x, tb) ∧ r.step = 0 ∧
        (s.cmu u).fault = false ∧ x.write = true) ∧
    (∃ (u : Nat) (r : UpdRun) (x : UpdRec) (tb : CmuTable) (s : State), currentRecord s u = some (r, x, tb) ∧ r.step = 1 ∧
        (s.cmu u).strict = isStrict s ∧ slotMine s u r.inst = true ∧ (s.cmu u).fault = false ∧ x.write = true) ∧
    (∃ (u : Nat) (r : UpdRun) (x : UpdRec) (tb : CmuTable) (s : State), currentRecord s u = some (r, x, tb) ∧ r.step = 2 ∧
        (s.cmu u).strict = isStrict s ∧ slotMine s u r.inst = true ∧ (s.cmu u).fault = false) ∧
    (∃ (u : Nat) (r : UpdRun) (x : UpdRec) (tb : CmuTable) (s : State), currentRecord s u = some (r, x, tb) ∧ r.step = 3 ∧
        (s.cmu u).strict = isStrict s ∧ slotMine s u r.inst = true ∧ (s.cmu u).fault = false ∧ r.stop = false ∧ r.applied + 1 < r.recs.length) ∧
    (∃ (u : Nat) (r : UpdRun) (x : UpdRec) (tb : CmuTable) (k : Nat) (c : Cmd) (s : State), currentRecord s u = some (r, x, tb) ∧ r.step = 3 ∧
        (s.cmu u).strict = isStrict s ∧ slotMine s u r.inst = true ∧ (s.cmu u).fault = false ∧ r.stop = false ∧ r.applied + 1 = r.recs.length ∧
        r.slot = some k ∧ s.cmd k = some c ∧ c.outcome = none) ∧
    (∃ (u : Nat) (r : UpdRun) (x : UpdRec) (tb : CmuTable) (s : State), currentRecord s u = some (r, x, tb) ∧ (s.cmu u).strict = isStrict s ∧
        slotMine s u r.inst = false) :=
  ⟨⟨2, (⟨some 0, none, 0, 7, [⟨5, true, 9, 3, 7⟩, ⟨6, true, 9, 3, 7⟩], 0, 0, false⟩ : UpdRun), (⟨5, true, 9, 3, 7⟩ : UpdRec), (⟨0, 7, 32, 16, 3,
      false, false, 0, 0⟩ : CmuTable),
      ((withCmd ({ mkCmd (ent 0x30 7 64 64 0 0 0 0) .handed with phase := .hostRead })).setCmu 2 { CmuUnit.reset with tables := [(⟨0, 7, 32, 16, 3, false, false, 0, 0⟩ : CmuTable)], upd := [(⟨some 0, none, 0, 7, [⟨5, true, 9, 3, 7⟩, ⟨6, true, 9, 3, 7⟩], 0, 0, false⟩ : UpdRun)] }),
      by decide +kernel⟩,
   ⟨2, (⟨some 0, none, 0, 7, [⟨5, true, 9, 3, 7⟩, ⟨6, true, 9, 3, 7⟩], 0, 1, false⟩ : UpdRun), (⟨5, true, 9, 3, 7⟩ : UpdRec), (⟨0, 7, 32, 16, 3,
       false, false, 0, 0⟩ : CmuTable),
       ((withCmd ({ mkCmd (ent 0x30 7 64 64 0 0 0 0) .handed with phase := .hostRead })).setCmu 2 { CmuUnit.reset with tables := [(⟨0, 7, 32, 16, 3, false, false, 0, 0⟩ : CmuTable)], upd := [(⟨some 0, none, 0, 7, [⟨5, true, 9, 3, 7⟩, ⟨6, true, 9, 3, 7⟩], 0, 1, false⟩ : UpdRun)], ent := [(37, ⟨1, 1, 4, true, 3⟩)] }),
       by decide +kernel⟩,
   ⟨2, (⟨some 0, none, 0, 7, [⟨5, true, 9, 3, 7⟩, ⟨6, true, 9, 3, 7⟩], 0, 2, false⟩ : UpdRun), (⟨5, true, 9, 3, 7⟩ : UpdRec), (⟨0, 7, 32, 16, 3,
       false, false, 0, 0⟩ : CmuTable),
       ((withCmd ({ mkCmd (ent 0x30 7 64 64 0 0 0 0) .handed with phase := .hostRead })).setCmu 2 { CmuUnit.reset with tables := [(⟨0, 7, 32, 16, 3, false, false, 0, 0⟩ : CmuTable)], upd := [(⟨some 0, none, 0, 7, [⟨5, true, 9, 3, 7⟩, ⟨6, true, 9, 3, 7⟩], 0, 2, false⟩ : UpdRun)], ent := [(37, ⟨1, 1, 4, false, 3⟩)] }),
       by decide +kernel⟩,
   ⟨2, (⟨some 0, none, 0, 7, [⟨5, true, 9, 3, 7⟩, ⟨6, true, 9, 3, 7⟩], 0, 3, false⟩ : UpdRun), (⟨5, true, 9, 3, 7⟩ : UpdRec), (⟨0, 7, 32, 16, 3,
       false, false, 0, 0⟩ : CmuTable),
       ((withCmd ({ mkCmd (ent 0x30 7 64 64 0 0 0 0) .handed with phase := .hostRead })).setCmu 2 { CmuUnit.reset with tables := [(⟨0, 7, 32, 16, 3, false, false, 0, 0⟩ : CmuTable)], upd := [(⟨some 0, none, 0, 7, [⟨5, true, 9, 3, 7⟩, ⟨6, true, 9, 3, 7⟩], 0, 3, false⟩ : UpdRun)], ent := [(37, ⟨1, 1, 4, false, 3⟩)] }),
       by decide +kernel⟩,
   ⟨2, (⟨some 0, none, 0, 7, [⟨5, true, 9, 3, 7⟩], 0, 3, false⟩ : UpdRun), (⟨5, true, 9, 3, 7⟩ : UpdRec), (⟨0, 7, 32, 16, 3, false, false, 0, 0⟩ : CmuTable), 0, { mkCmd (ent 0x30 7 64 64 0 0 0 0) .handed with phase := .running, work := .matching ((leBytes 5 4 ++ leBytes 1 4 ++ leBytes 9 8 ++ leBytes 3 24 ++ leBytes 7 24)) 0 [] 0 }, ((withCmd ({ mkCmd (ent 0x30 7 64 64 0 0 0 0) .handed with phase := .running, work := .matching ((leBytes 5 4 ++ leBytes 1 4 ++ leBytes 9 8 ++ leBytes 3 24 ++ leBytes 7 24)) 0 [] 0 })).setCmu 2 { CmuUnit.reset with tables := [(⟨0, 7, 32, 16, 3, false, false, 0, 0⟩ : CmuTable)], upd := [(⟨some 0, none, 0, 7, [⟨5, true, 9, 3, 7⟩], 0, 3, false⟩ : UpdRun)] }), by decide +kernel⟩,
   ⟨2, (⟨some 0, none, 0, 7, [⟨5, true, 9, 3, 7⟩, ⟨6, true, 9, 3, 7⟩], 0, 1, false⟩ : UpdRun), (⟨5, true, 9, 3, 7⟩ : UpdRec), (⟨0, 7, 32, 16, 3, false, false, 0, 0⟩ : CmuTable), (let s := ((withCmd ({ mkCmd (ent 0x30 7 64 64 0 0 0 0) .handed with phase := .hostRead })).setCmu 2 { CmuUnit.reset with tables := [(⟨0, 7, 32, 16, 3, false, false, 0, 0⟩ : CmuTable)], upd := [(⟨some 0, none, 0, 7, [⟨5, true, 9, 3, 7⟩, ⟨6, true, 9, 3, 7⟩], 0, 1, false⟩ : UpdRun)], ent := [(37, ⟨1, 1, 4, true, 3⟩)] }); let s := s.setCmd 0 (some { { mkCmd (ent 0x31 7 64 32 0 1 16 0) .handed with phase := .running, work := .matching (leBytes 3 32) 0 [] 0 } with inst := 2, phase := .running }); { s with insts := [(0, { Inst.zero with st := .active, res := { ResRec.inst0 with cmuSlots := 4 } }), (2, { Inst.zero with st := .active, res := { ResRec.inst0 with cmuSlots := 4 } })], eng := { s.eng with cmu := s.eng.cmu.map fun e => (e.1, { e.2 with turn := 2, credit := 3, tables := e.2.tables ++ [⟨2, 7, 64, 16, 4, false, false, 0, 0⟩] }) } }), by decide +kernel⟩⟩

theorem witness_MatchUnitsAndTables :
    (∃ (u : Nat) (k : Nat) (n : Nat) (op : Nat) (keys : _) (c : Cmd) (q : QueryRun) (o : OpEnt) (rs : _) (kd : Nat) (m : Nat) (s : State), s.cmd k = some c ∧
        c.work = .query q ∧ planOp q.plan n op = some o ∧ u < 4 ∧ keys.length ≤ 4096 ∧ c.phase = .running ∧ (s.cmu u).fault = false ∧
        (s.cmu u).sagHold = false ∧ (s.cmu u).strict = isStrict s ∧ (s.pwr.grants.any (fun g => g.holder = .cmu u k) = true) ∧
        (if o.ternary then slotMine s u c.inst && (slotLimit s u c.inst).isNone else laneMine s u c.inst && (laneLimit s u c.inst).isNone) = true ∧
        burstResults s u c q o keys = some (rs, kd, m)) ∧
    (∃ (u : Nat) (s : State), u < 4 ∧ (s.cmu u).busy ≠ some (s.cmu u).ptrT ∧
        (s.cmu u).ent.get TEntry.empty (s.cmu u).ptrT = (s.cmu u).shadow.get TEntry.empty (s.cmu u).ptrT) ∧
    (∃ (u : Nat) (up : Bool) (s : State), u < 4 ∧ (s.cmu u).busy ≠ some (s.cmu u).ptrT ∧
        ((up = true ∨ (s.cmu u).ent.get TEntry.empty (s.cmu u).ptrT ≠ (s.cmu u).shadow.get TEntry.empty (s.cmu u).ptrT))) ∧
    (∃ (u : Nat) (s : State), u < 4 ∧ (s.cmu u).busy ≠ some (s.cmu u).ptrT) ∧
    (∃ (u : Nat) (s : State), u < 4 ∧ (s.cmu u).busy = some (s.cmu u).ptrT) ∧
    (∃ (u : Nat) (s : State), u < 4 ∧ (s.cmu u).states.get 0 (s.cmu u).ptrA = (s.cmu u).stShadow.get 0 (s.cmu u).ptrA) ∧
    (∃ (u : Nat) (up : Bool) (s : State), u < 4 ∧ ((up = true ∨ (s.cmu u).states.get 0 (s.cmu u).ptrA ≠ (s.cmu u).stShadow.get 0 (s.cmu u).ptrA))) ∧
    (∃ (u : Nat) (m : ImgEnt) (s : State), u < 4 ∧
        ((s.cmu u).images.find? (fun m => decide (m.base ≤ (s.cmu u).ptrA) && decide ((s.cmu u).ptrA < m.base + m.nstate)) = some m)) ∧
    (∃ (u : Nat) (temp : Nat) (s : State), u < 4 ∧ cmuReading s u = some temp ∧ (s.cmu u).strict = false ∧ s.pwr.sag = false) ∧
    (∃ (u : Nat) (temp : Nat) (s : State), u < 4 ∧ cmuReading s u = some temp ∧ (s.cmu u).strict = true) ∧
    (∃ (u : Nat) (temp : Nat) (s : State), cmuReading s u ≠ some temp) ∧
    (∃ (v : W32) (s : State), 6 ≤ v.toNat % 32 ∧ v.toNat % 32 ≤ 16 ∧ isStrict s = false) ∧
    (∃ (v : W32) (s : State), ((isStrict s = true ∨ v.toNat % 32 < 6 ∨ 16 < v.toNat % 32))) ∧
    (∃ (fn : Nat) (b : Nat) (s : State), MbxRuns fn 0x32 tableRule s ∧ (s.getMbx fn).arg 8 1 = 1 ∧ tableBadField (s.getMbx fn) true = none ∧
        (s.getMbx fn).arg 0x20 4 = 0 ∧ cmuTableNow s fn ((s.getMbx fn).arg 0x0C 4) = none ∧ (s.cmu ((s.getMbx fn).arg 9 1)).tables.length < 4096 ∧
        (s.cmu ((s.getMbx fn).arg 9 1)).fault = false ∧
        entUsed (s.cmu ((s.getMbx fn).arg 9 1)) fn + (s.getMbx fn).arg 0x10 4 ≤ (s.inst fn).res.cmuEnt.getD ((s.getMbx fn).arg 9 1) 0 ∧
        (firstBlock 65536 ((s.cmu ((s.getMbx fn).arg 9 1)).tables.map fun t => (t.base, t.size)) ((s.getMbx fn).arg 0x10 4) = some b)) ∧
    (∃ (fn : Nat) (host : Option (List Byte)) (u : Nat) (tb : CmuTable) (rs : _) (s : State), MbxRuns fn 0x32 tableRule s ∧
        (s.getMbx fn).arg 8 1 = 2 ∧ tableBadField (s.getMbx fn) false = none ∧ cmuTableNow s fn ((s.getMbx fn).arg 0x0C 4) = some (u, tb) ∧
        tableList (s.getMbx fn) tb.size (hostGave s (s.getMbx fn).port host) = .ok rs ∧ rs ≠ [] ∧ (s.cmu u).fault = false ∧
        mbxReads s (s.getMbx fn) = true) ∧
    (∃ (fn : Nat) (u : Nat) (tb : CmuTable) (s : State), MbxRuns fn 0x32 tableRule s ∧ (s.getMbx fn).arg 8 1 = 3 ∧
        cmuTableNow s fn ((s.getMbx fn).arg 0x0C 4) = some (u, tb)) ∧
    (∃ (fn : Nat) (s : State), MbxRuns fn 0x32 tableRule s ∧ (s.getMbx fn).arg 8 1 = 3 ∧ cmuTableNow s fn ((s.getMbx fn).arg 0x0C 4) = none) ∧
    (∃ (i : Nat) (id : Nat) (u : Nat) (tb : CmuTable) (s : State), (((List.range 4).findSome? fun u => ((s.cmu u).tables.find? fun t => decide (t.inst = i) && decide (t.id = id) && t.gone).map fun t => (u, t)) = some (u, tb)) ∧
        tableInUse s tb = false) :=
  ⟨⟨2, 0, 0, 0, [leBytes 3 18, leBytes 4 18], queryCmd 1 0 0 .running ({ query ({ plan0 with pipes := [⟨1, 0, 0, 1, 1, 0, 0, 3, 0, 0, 0⟩], ops := [(⟨13, 0, 0, 0, 0, 0, 0, 0, 0, 0, .matchOp 0 0 0 0 0 0 0 []⟩ : OpEnt)], slots := [⟨0, ⟨3, 0⟩, 0, 4, 0⟩] }) with pb := leBytes 7 4, pipes := [(0, { PipeRun.idle with started := true })] }), { query ({ plan0 with pipes := [⟨1, 0, 0, 1, 1, 0, 0, 3, 0, 0, 0⟩], ops := [(⟨13, 0, 0, 0, 0, 0, 0, 0, 0, 0, .matchOp 0 0 0 0 0 0 0 []⟩ : OpEnt)], slots := [⟨0, ⟨3, 0⟩, 0, 4, 0⟩] }) with pb := leBytes 7 4, pipes := [(0, { PipeRun.idle with started := true })] }, (⟨13, 0, 0, 0, 0, 0, 0, 0, 0, 0, .matchOp 0 0 0 0 0 0 0 []⟩ : OpEnt), [(true, 5, 9), (false, 0, 0)], 0, 2, (let s := ((withCmd (queryCmd 1 0 0 .running ({ query ({ plan0 with pipes := [⟨1, 0, 0, 1, 1, 0, 0, 3, 0, 0, 0⟩], ops := [(⟨13, 0, 0, 0, 0, 0, 0, 0, 0, 0, .matchOp 0 0 0 0 0 0 0 []⟩ : OpEnt)], slots := [⟨0, ⟨3, 0⟩, 0, 4, 0⟩] }) with pb := leBytes 7 4, pipes := [(0, { PipeRun.idle with started := true })] }))).setCmu 2 { CmuUnit.reset with tables := [(⟨0, 7, 32, 16, 3, false, false, 0, 0⟩ : CmuTable)], ent := [(37, ⟨3, 7, 9, true, 3⟩)] }); { s with insts := [(0, { Inst.zero with st := .active, res := { ResRec.inst0 with cmuSlots := 4 } })], pwr := { s.pwr with grants := [⟨0, 1, 1, 0, none, false, none, .cmu 2 0, 0, 10, 0⟩] } }), by decide +kernel⟩,
   ⟨2, (let s := base.setCmu 2 { CmuUnit.reset with ptrT := 65535 }; { s with pwr := { s.pwr with grants := s.pwr.grants } }), by decide +kernel⟩,
   ⟨2, true, (let s := base.setCmu 2 { CmuUnit.reset with ptrT := 9 }; { s with pwr := { s.pwr with grants := s.pwr.grants } }), by decide +kernel⟩,
   ⟨2, (let s := base.setCmu 2 { CmuUnit.reset with ptrT := 47, ent := [(47, ⟨3, 7, 9, true, 3⟩)], tables := [(⟨0, 7, 32, 16, 3, false, false, 0, 0⟩ : CmuTable)] }; { s with pwr := { s.pwr with grants := s.pwr.grants } }),
       by decide +kernel⟩,
   ⟨2, (let s := base.setCmu 2 { CmuUnit.reset with ptrT := 65535, busy := some 65535 }; { s with pwr := { s.pwr with grants := s.pwr.grants } }),
       by decide +kernel⟩,
   ⟨2, (let s := base.setCmu 2 { CmuUnit.reset with ptrA := 262143 }; { s with pwr := { s.pwr with grants := s.pwr.grants } }), by decide +kernel⟩,
   ⟨2, false,
       (let s := base.setCmu 2 { CmuUnit.reset with ptrA := 9, states := [(9, 5)] }; { s with pwr := { s.pwr with grants := s.pwr.grants } }),
       by decide +kernel⟩,
   ⟨2, ({ inst := 1, planId := 7, uid := 0, bound := some 0, idx := 0, base := 100, nstate := 16, faulted := false } : ImgEnt),
       (let s := base.setCmu 2 { CmuUnit.reset with ptrA := 115, images := [({ inst := 1, planId := 7, uid := 0, bound := some 0, idx := 0, base := 100, nstate := 16, faulted := false } : ImgEnt)] }; { s with pwr := { s.pwr with grants := s.pwr.grants } }),
       by decide +kernel⟩,
   ⟨2, 95, (let s := (let s := base.setCmu 2 { CmuUnit.reset with step := 1 }; { s with pwr := { s.pwr with grants := s.pwr.grants } }); { s with tel := { s.tel with sensors := [(42, { (Tbl.get Sensor.reset s.tel.sensors 42) with valid := true, temp := 94 * 16 + 8 })] } }),
       by decide +kernel⟩,
   ⟨2, 101, (let s := (let s := base.setCmu 2 { CmuUnit.reset with strict := true, step := 2 }; { s with pwr := { s.pwr with grants := s.pwr.grants } }); { s with tel := { s.tel with sensors := [(42, { (Tbl.get Sensor.reset s.tel.sensors 42) with valid := true, temp := 100 * 16 + 8 })] } }),
       by decide +kernel⟩,
   ⟨2, 95, base, by decide +kernel⟩,
   ⟨16, base, by decide +kernel⟩,
   ⟨6, (let s := base; { s with disp := { s.disp with profile := 3 } }), by decide +kernel⟩,
   ⟨1, 0, withMbx 1 0x32 [(8, 1), (9, 2), (0x0C, 7), (0x10,
       16)] (let s := base; { s with insts := [(1, { Inst.zero with st := .active, res := { ResRec.inst0 with cmuEnt := [0, 0, 64, 0] } })] }),
       mbxRuns_of (by decide +kernel), by decide +kernel⟩,
   ⟨1, some (leBytes 5 4 ++ leBytes 1 4 ++ leBytes 9 8 ++ leBytes 3 24 ++ leBytes 7 24), 2, (⟨1, 7, 32, 16, 3, false, false, 0, 0⟩ : CmuTable),
       [(⟨5, true, 9, 3, 7⟩ : UpdRec)], withMbx 1 0x32 [(8, 2), (0x0C, 7), (0x18, 64), (0x20,
       64)] (let s := (base.setCmu 2 { CmuUnit.reset with tables := [(⟨1, 7, 32, 16, 3, false, false, 0, 0⟩ : CmuTable)] }); { s with insts := [(1, { Inst.zero with st := .active, res := { ResRec.inst0 with cmuEnt := [0, 0, 64, 0] } })] }),
       mbxRuns_of (by decide +kernel), by decide +kernel⟩,
   ⟨1, 2, (⟨1, 7, 32, 16, 3, false, false, 0, 0⟩ : CmuTable), withMbx 1 0x32 [(8, 3), (0x0C,
       7)] (let s := (base.setCmu 2 { CmuUnit.reset with tables := [(⟨1, 7, 32, 16, 3, false, false, 0, 0⟩ : CmuTable)] }); { s with insts := [(1, { Inst.zero with st := .active, res := { ResRec.inst0 with cmuEnt := [0, 0, 64, 0] } })] }),
       mbxRuns_of (by decide +kernel), by decide +kernel⟩,
   ⟨1, withMbx 1 0x32 [(8, 3), (0x0C,
       7)] (let s := base; { s with insts := [(1, { Inst.zero with st := .active, res := { ResRec.inst0 with cmuEnt := [0, 0, 64, 0] } })] }),
       mbxRuns_of (by decide +kernel), by decide +kernel⟩,
   ⟨1, 7, 2, (⟨1, 7, 32, 16, 3, false, true, 0, 0⟩ : CmuTable),
       (base.setCmu 2 { CmuUnit.reset with tables := [(⟨1, 7, 32, 16, 3, false, true, 0, 0⟩ : CmuTable)] }), by decide +kernel⟩⟩

theorem witness_MergeUnitsAndFaults :
    (∃ (u : Nat) (j : SmuJob) (c : Cmd) (q : QueryRun) (p : PipeRun) (rs : List SortRun) (rows : List Nat) (v : _) (w : _) (s : State), u < 8 ∧
        (s.smu u).fault = false ∧ (s.smu u).paused = false ∧ endingJob u s = some (j, v) ∧
        liveQuery (endHolder (.smu u j.slot) (nextInTree u j v)) j.slot = some (c, q) ∧
        mergeJob u j q (endHolder (.smu u j.slot) (nextInTree u j v)) = (.ok (p, rs, rows), w)) ∧
    (∃ (u : Nat) (j : SmuJob) (s : State), u < 8 ∧ (s.smu u).fault = false ∧ (s.smu u).paused = false ∧ (s.smu u).strict = false ∧
        (s.smu u).jobs = [j] ∧ jobGranted u j s = true ∧ s.cmd j.slot = none) ∧
    (∃ (u : Nat) (j : SmuJob) (s : State), (s.smu u).strict = false ∧ (s.smu u).jobs = [j] ∧ jobGranted u j s = true) ∧
    (∃ (u : Nat) (j : SmuJob) (s : State), (s.smu u).strict = true ∧ treeJob s u = some j) ∧
    (∃ (u : Nat) (s : State), u < 8 ∧ (s.smu u).jobs = []) ∧
    (∃ (u : Nat) (s : State), u < 8 ∧ (s.smu u).strict = isStrict s ∧ isStrict s = true) ∧
    (∃ (u : Nat) (s : State), u < 8 ∧ (s.smu u).strict = false ∧ isStrict s = false) ∧
    (∃ (u : Nat) (s : State), u < 4 ∧ (s.cmu u).fault = false) ∧
    (∃ (u : Nat) (s : State), u < 8 ∧ (s.smu u).fault = false) ∧
    (∃ (u : Nat) (s : State), u < 4 ∧ (s.dgu u).fault = false) ∧
    (∃ (n : Nat) (s : State), n < 14 ∧ s.eng.fabricDown.get false n = false) :=
  ⟨⟨7, ({ slot := 0, pipe := 1, inst := 0, group := 0, nin := 0, lastPass := true } : SmuJob), queryCmd 1 0 0 .running ({ query ({ plan0 with pipes := [⟨0, 0, 0, 1, 1, 0, 0, 3, 0, 0, 0⟩, ⟨0, 0, 1, 1, 1, 0, 0, 3, 0, 0, 0⟩], ops := [⟨5, 0, 0, 0, 0, 0, 0, 0, 0, 0, .sort [] false [] 0⟩, ⟨6, 0, 0, 0, 0, 0, 0, 0, 0, 0, .merge 0 []⟩] }) with pipes := [(0, { PipeRun.idle with started := true, finished := true }), (1, { PipeRun.idle with started := true, finMade := 1 })] }), { query ({ plan0 with pipes := [⟨0, 0, 0, 1, 1, 0, 0, 3, 0, 0, 0⟩, ⟨0, 0, 1, 1, 1, 0, 0, 3, 0, 0, 0⟩], ops := [⟨5, 0, 0, 0, 0, 0, 0, 0, 0, 0, .sort [] false [] 0⟩, ⟨6, 0, 0, 0, 0, 0, 0, 0, 0, 0, .merge 0 []⟩] }) with pipes := [(0, { PipeRun.idle with started := true, finished := true }), (1, { PipeRun.idle with started := true, finMade := 1 })] }, (match (mergeJob 7 ({ slot := 0, pipe := 1, inst := 0, group := 0, nin := 0, lastPass := true } : SmuJob) ({ query ({ plan0 with pipes := [⟨0, 0, 0, 1, 1, 0, 0, 3, 0, 0, 0⟩, ⟨0, 0, 1, 1, 1, 0, 0, 3, 0, 0, 0⟩], ops := [⟨5, 0, 0, 0, 0, 0, 0, 0, 0, 0, .sort [] false [] 0⟩, ⟨6, 0, 0, 0, 0, 0, 0, 0, 0, 0, .merge 0 []⟩] }) with pipes := [(0, { PipeRun.idle with started := true, finished := true }), (1, { PipeRun.idle with started := true, finMade := 1 })] }) (endHolder (.smu 7 0) (nextInTree 7 ({ slot := 0, pipe := 1, inst := 0, group := 0, nin := 0, lastPass := true } : SmuJob) (match endingJob 7 (let s := (withCmd (queryCmd 1 0 0 .running ({ query ({ plan0 with pipes := [⟨0, 0, 0, 1, 1, 0, 0, 3, 0, 0, 0⟩, ⟨0, 0, 1, 1, 1, 0, 0, 3, 0, 0, 0⟩], ops := [⟨5, 0, 0, 0, 0, 0, 0, 0, 0, 0, .sort [] false [] 0⟩, ⟨6, 0, 0, 0, 0, 0, 0, 0, 0, 0, .merge 0 []⟩] }) with pipes := [(0, { PipeRun.idle with started := true, finished := true }), (1, { PipeRun.idle with started := true, finMade := 1 })] }))).setSmu 7 { SmuUnit.reset with jobs := [({ slot := 0, pipe := 1, inst := 0, group := 0, nin := 0, lastPass := true } : SmuJob)] }; { s with pwr := { s.pwr with grants := [⟨0, 1, 1, 0, none, false, none, .smu 7 0, 0, 10, 0⟩] } }) with | some (_, v) => v | none => base)))).1 with | .ok (p, _, _) => p | .error _ => PipeRun.idle), (match (mergeJob 7 ({ slot := 0, pipe := 1, inst := 0, group := 0, nin := 0, lastPass := true } : SmuJob) ({ query ({ plan0 with pipes := [⟨0, 0, 0, 1, 1, 0, 0, 3, 0, 0, 0⟩, ⟨0, 0, 1, 1, 1, 0, 0, 3, 0, 0, 0⟩], ops := [⟨5, 0, 0, 0, 0, 0, 0, 0, 0, 0, .sort [] false [] 0⟩, ⟨6, 0, 0, 0, 0, 0, 0, 0, 0, 0, .merge 0 []⟩] }) with pipes := [(0, { PipeRun.idle with started := true, finished := true }), (1, { PipeRun.idle with started := true, finMade := 1 })] }) (endHolder (.smu 7 0) (nextInTree 7 ({ slot := 0, pipe := 1, inst := 0, group := 0, nin := 0, lastPass := true } : SmuJob) (match endingJob 7 (let s := (withCmd (queryCmd 1 0 0 .running ({ query ({ plan0 with pipes := [⟨0, 0, 0, 1, 1, 0, 0, 3, 0, 0, 0⟩, ⟨0, 0, 1, 1, 1, 0, 0, 3, 0, 0, 0⟩], ops := [⟨5, 0, 0, 0, 0, 0, 0, 0, 0, 0, .sort [] false [] 0⟩, ⟨6, 0, 0, 0, 0, 0, 0, 0, 0, 0, .merge 0 []⟩] }) with pipes := [(0, { PipeRun.idle with started := true, finished := true }), (1, { PipeRun.idle with started := true, finMade := 1 })] }))).setSmu 7 { SmuUnit.reset with jobs := [({ slot := 0, pipe := 1, inst := 0, group := 0, nin := 0, lastPass := true } : SmuJob)] }; { s with pwr := { s.pwr with grants := [⟨0, 1, 1, 0, none, false, none, .smu 7 0, 0, 10, 0⟩] } }) with | some (_, v) => v | none => base)))).1 with | .ok (_, r, _) => r | .error _ => []), (match (mergeJob 7 ({ slot := 0, pipe := 1, inst := 0, group := 0, nin := 0, lastPass := true } : SmuJob) ({ query ({ plan0 with pipes := [⟨0, 0, 0, 1, 1, 0, 0, 3, 0, 0, 0⟩, ⟨0, 0, 1, 1, 1, 0, 0, 3, 0, 0, 0⟩], ops := [⟨5, 0, 0, 0, 0, 0, 0, 0, 0, 0, .sort [] false [] 0⟩, ⟨6, 0, 0, 0, 0, 0, 0, 0, 0, 0, .merge 0 []⟩] }) with pipes := [(0, { PipeRun.idle with started := true, finished := true }), (1, { PipeRun.idle with started := true, finMade := 1 })] }) (endHolder (.smu 7 0) (nextInTree 7 ({ slot := 0, pipe := 1, inst := 0, group := 0, nin := 0, lastPass := true } : SmuJob) (match endingJob 7 (let s := (withCmd (queryCmd 1 0 0 .running ({ query ({ plan0 with pipes := [⟨0, 0, 0, 1, 1, 0, 0, 3, 0, 0, 0⟩, ⟨0, 0, 1, 1, 1, 0, 0, 3, 0, 0, 0⟩], ops := [⟨5, 0, 0, 0, 0, 0, 0, 0, 0, 0, .sort [] false [] 0⟩, ⟨6, 0, 0, 0, 0, 0, 0, 0, 0, 0, .merge 0 []⟩] }) with pipes := [(0, { PipeRun.idle with started := true, finished := true }), (1, { PipeRun.idle with started := true, finMade := 1 })] }))).setSmu 7 { SmuUnit.reset with jobs := [({ slot := 0, pipe := 1, inst := 0, group := 0, nin := 0, lastPass := true } : SmuJob)] }; { s with pwr := { s.pwr with grants := [⟨0, 1, 1, 0, none, false, none, .smu 7 0, 0, 10, 0⟩] } }) with | some (_, v) => v | none => base)))).1 with | .ok (_, _, r) => r | .error _ => []), (match endingJob 7 (let s := (withCmd (queryCmd 1 0 0 .running ({ query ({ plan0 with pipes := [⟨0, 0, 0, 1, 1, 0, 0, 3, 0, 0, 0⟩, ⟨0, 0, 1, 1, 1, 0, 0, 3, 0, 0, 0⟩], ops := [⟨5, 0, 0, 0, 0, 0, 0, 0, 0, 0, .sort [] false [] 0⟩, ⟨6, 0, 0, 0, 0, 0, 0, 0, 0, 0, .merge 0 []⟩] }) with pipes := [(0, { PipeRun.idle with started := true, finished := true }), (1, { PipeRun.idle with started := true, finMade := 1 })] }))).setSmu 7 { SmuUnit.reset with jobs := [({ slot := 0, pipe := 1, inst := 0, group := 0, nin := 0, lastPass := true } : SmuJob)] }; { s with pwr := { s.pwr with grants := [⟨0, 1, 1, 0, none, false, none, .smu 7 0, 0, 10, 0⟩] } }) with | some (_, v) => v | none => base), (mergeJob 7 ({ slot := 0, pipe := 1, inst := 0, group := 0, nin := 0, lastPass := true } : SmuJob) ({ query ({ plan0 with pipes := [⟨0, 0, 0, 1, 1, 0, 0, 3, 0, 0, 0⟩, ⟨0, 0, 1, 1, 1, 0, 0, 3, 0, 0, 0⟩], ops := [⟨5, 0, 0, 0, 0, 0, 0, 0, 0, 0, .sort [] false [] 0⟩, ⟨6, 0, 0, 0, 0, 0, 0, 0, 0, 0, .merge 0 []⟩] }) with pipes := [(0, { PipeRun.idle with started := true, finished := true }), (1, { PipeRun.idle with started := true, finMade := 1 })] }) (endHolder (.smu 7 0) (nextInTree 7 ({ slot := 0, pipe := 1, inst := 0, group := 0, nin := 0, lastPass := true } : SmuJob) (match endingJob 7 (let s := (withCmd (queryCmd 1 0 0 .running ({ query ({ plan0 with pipes := [⟨0, 0, 0, 1, 1, 0, 0, 3, 0, 0, 0⟩, ⟨0, 0, 1, 1, 1, 0, 0, 3, 0, 0, 0⟩], ops := [⟨5, 0, 0, 0, 0, 0, 0, 0, 0, 0, .sort [] false [] 0⟩, ⟨6, 0, 0, 0, 0, 0, 0, 0, 0, 0, .merge 0 []⟩] }) with pipes := [(0, { PipeRun.idle with started := true, finished := true }), (1, { PipeRun.idle with started := true, finMade := 1 })] }))).setSmu 7 { SmuUnit.reset with jobs := [({ slot := 0, pipe := 1, inst := 0, group := 0, nin := 0, lastPass := true } : SmuJob)] }; { s with pwr := { s.pwr with grants := [⟨0, 1, 1, 0, none, false, none, .smu 7 0, 0, 10, 0⟩] } }) with | some (_, v) => v | none => base)))).2, (let s := (withCmd (queryCmd 1 0 0 .running ({ query ({ plan0 with pipes := [⟨0, 0, 0, 1, 1, 0, 0, 3, 0, 0, 0⟩, ⟨0, 0, 1, 1, 1, 0, 0, 3, 0, 0, 0⟩], ops := [⟨5, 0, 0, 0, 0, 0, 0, 0, 0, 0, .sort [] false [] 0⟩, ⟨6, 0, 0, 0, 0, 0, 0, 0, 0, 0, .merge 0 []⟩] }) with pipes := [(0, { PipeRun.idle with started := true, finished := true }), (1, { PipeRun.idle with started := true, finMade := 1 })] }))).setSmu 7 { SmuUnit.reset with jobs := [({ slot := 0, pipe := 1, inst := 0, group := 0, nin := 0, lastPass := true } : SmuJob)] }; { s with pwr := { s.pwr with grants := [⟨0, 1, 1, 0, none, false, none, .smu 7 0, 0, 10, 0⟩] } }), by decide +kernel, by decide +kernel, by decide +kernel, rfl, rfl, rfl⟩,
   ⟨7, ({ slot := 0, pipe := 1, inst := 0, group := 0, nin := 0, lastPass := true } : SmuJob),
       (let s := base.setSmu 7 { SmuUnit.reset with jobs := [({ slot := 0, pipe := 1, inst := 0, group := 0, nin := 0, lastPass := true } : SmuJob)] }; { s with insts := [(0, { Inst.zero with st := .active, res := ResRec.inst0 })], pwr := { s.pwr with grants := [⟨0, 1, 1, 0, none, false, none, .smu 7 0, 0, 10, 0⟩] } }),
       by decide +kernel⟩,
   ⟨7, ({ slot := 0, pipe := 1, inst := 0, group := 0, nin := 0, lastPass := true } : SmuJob),
       (let s := base.setSmu 7 { SmuUnit.reset with jobs := [({ slot := 0, pipe := 1, inst := 0, group := 0, nin := 0, lastPass := true } : SmuJob)] }; { s with insts := [(0, { Inst.zero with st := .active, res := ResRec.inst0 })], pwr := { s.pwr with grants := [⟨0, 1, 1, 0, none, false, none, .smu 7 0, 0, 10, 0⟩] } }),
       by decide +kernel⟩,
   ⟨7, ({ slot := 0, pipe := 1, inst := 0, group := 0, nin := 0, lastPass := true } : SmuJob),
       (let s := base.setSmu 7 { SmuUnit.reset with jobs := [({ slot := 0, pipe := 1, inst := 0, group := 0, nin := 0, lastPass := true } : SmuJob)], strict := true }; { s with insts := [(0, { Inst.zero with st := .active, res := ResRec.inst0 })], pwr := { s.pwr with grants := [⟨0, 1, 1, 0, none, false, none, .smu 7 0, 0, 10, 0⟩] } }),
       by decide +kernel⟩,
   ⟨7, base, by decide +kernel⟩,
   ⟨7, (let s := (let s := base.setSmu 7 { SmuUnit.reset with jobs := [({ slot := 0, pipe := 1, inst := 0, group := 0, nin := 0, lastPass := true } : SmuJob)], strict := true }; { s with insts := [(0, { Inst.zero with st := .active, res := ResRec.inst0 })], pwr := { s.pwr with grants := [⟨0, 1, 1, 0, none, false, none, .smu 7 0, 0, 10, 0⟩] } }); { s with disp := { s.disp with profile := 3 } }),
       by decide +kernel⟩,
   ⟨7, (let s := base.setSmu 7 { SmuUnit.reset with jobs := [({ slot := 0, pipe := 1, inst := 0, group := 0, nin := 0, lastPass := true } : SmuJob)] }; { s with insts := [(0, { Inst.zero with st := .active, res := ResRec.inst0 })], pwr := { s.pwr with grants := [⟨0, 1, 1, 0, none, false, none, .smu 7 0, 0, 10, 0⟩] } }),
       by decide +kernel⟩,
   ⟨3, base.setCmu 3 { CmuUnit.reset with upd := [(⟨some 0, none, 0, 7, [⟨5, true, 9, 3, 7⟩, ⟨6, true, 9, 3, 7⟩], 0, 0, false⟩ : UpdRun)] },
       by decide +kernel⟩,
   ⟨7, base.setSmu 7 { SmuUnit.reset with jobs := [({ slot := 0, pipe := 0, inst := 0, group := 0, nin := 2, lastPass := true } : SmuJob)] },
       by decide +kernel⟩,
   ⟨3, base, by decide +kernel⟩,
   ⟨13, base, by decide +kernel⟩⟩

theorem witness_DeviceMemory :
    (∃ (i : Nat) (a : Nat) (s : State), inMemory a = true ∧ chanServes s a = true ∧ isSysFrame s (frameAt (a / 64 * 64)) = false ∧
        poisonedAt s (a / 64 * 64 / 32) = false ∧ poisonedAt s (a / 64 * 64 / 32 + 1) = false ∧ colourOf s (a / 64 * 64 / 32) = i ∧
        colourOf s (a / 64 * 64 / 32 + 1) = i) ∧
    (∃ (i : Nat) (a : Nat) (s : State), inMemory a = true ∧ chanServes s a = true ∧ isSysFrame s (frameAt (a / 64 * 64)) = false ∧
        poisonedAt s (a / 64 * 64 / 32) = false ∧ poisonedAt s (a / 64 * 64 / 32 + 1) = false ∧ colourOf s (a / 64 * 64 / 32) ≠ i) ∧
    (∃ (a : Nat) (s : State), inMemory a = true ∧ chanServes s a = true ∧ isSysFrame s (frameAt (a / 64 * 64)) = false ∧
        poisonedAt s (a / 64 * 64 / 32) = true) ∧
    (∃ (i : Nat) (a : Nat) (d : List Byte) (s : State), inMemory a = true ∧ chanServes s a = true ∧ d ≠ [] ∧ d.length < 32 ∧
        a % 32 + d.length ≤ 32 ∧ isSysFrame s (frameAt a) = false ∧ (s.frame (frameAt a)).tbl.toNat = i ∧
        (s.chan (chanAt (32 * (a / 32)))).st ≠ .failed ∧ poisonedAt s (a / 32) = false ∧ colourOf s (a / 32) = i) ∧
    (∃ (i : Nat) (a : Nat) (d : List Byte) (s : State), inMemory a = true ∧ chanServes s a = true ∧ d ≠ [] ∧ a % 64 + d.length ≤ 64 ∧
        isSysFrame s (frameAt a) = false ∧ (s.frame (frameAt a)).tbl.toNat ≠ i) ∧
    (∃ (i : Nat) (a : Nat) (d : List Byte) (s : State), inMemory a = true ∧ chanServes s a = true ∧ d ≠ [] ∧ d.length < 32 ∧
        a % 32 + d.length ≤ 32 ∧ isSysFrame s (frameAt a) = false ∧ (s.frame (frameAt a)).tbl.toNat = i ∧
        (s.chan (chanAt (32 * (a / 32)))).st ≠ .failed ∧ poisonedAt s (a / 32) = false ∧ colourOf s (a / 32) = i) ∧
    (∃ (a : Nat) (s : State), inMemory a = true ∧ chanServes s a = false) ∧
    (∃ (a : Nat) (s : State), inMemory a = true ∧ s.mem.patrolStop = false ∧ chanServes s a = true ∧ (s.frame (frameAt a)).st = .owned ∧
        poisonedAt s (a / 64 * 64 / 32) = false ∧ poisonedAt s (a / 64 * 64 / 32 + 1) = false) ∧
    (∃ (i : Nat) (p : Nat) (s : State), ((leafTable s i p).isSome || (freeLeaf s).isSome) = true) ∧
    (∃ (s : State), s.mem.leaving = [] ∧ s.mem.releaseQ ≠ [] ∧ s.mem.burst = [] ∧ s.mem.scrubPaused = false ∧ s.mem.patrolStop = false ∧
        awake s = true ∧ s.pwr.grants = [] ∧ s.pwr.revoked = [] ∧ s.pwr.waits = [] ∧ s.pwr.sag = false ∧ s.pwr.reduced = false ∧
        isStrict s = false ∧ s.pwr.baseline + 12 ≤ s.pwr.cap) ∧
    (∃ (s : State), s.mem.leaving = [] ∧ s.mem.releaseQ ≠ [] ∧ s.mem.burst = [] ∧ s.mem.scrubPaused = false ∧ s.mem.patrolStop = false ∧
        s.pwr.grants = [] ∧ s.pwr.revoked = [] ∧ s.pwr.waits = [] ∧ s.pwr.ps ≠ 0 ∧ s.pwr.entering = false) ∧
    (∃ (f : Nat) (s : State), (s.frame f).st = .released ∧ (s.frame f).scrubbing = true ∧ isSysFrame s f = false ∧ s.mem.allocs = []) ∧
    (∃ (f : Nat) (w : AllocWait) (s : State), (s.mem.allocs.find? (fun w => w.frame = some f) = some w) ∧ w.mbx = none ∧ w.frond = none ∧
        isSysFrame s f = false ∧ ((leafTable s w.inst w.page).isSome || (freeLeaf s).isSome) = true) ∧
    (∃ (f : Fin 128) (it : ItemRef) (p : Nat) (t : State) (s : State), (s.frond f.val).item = some it ∧ mapFaultPage f.val s = some p ∧
        allocPage ⟨(s.frond f.val).inst.toNat, p, none, some f.val, none, f.val / 32, true⟩ s = (.done, t)) ∧
    (∃ (f : Fin 128) (it : ItemRef) (p : Nat) (t : State) (s : State), (s.frond f.val).item = some it ∧ mapFaultPage f.val s = some p ∧
        allocPage ⟨(s.frond f.val).inst.toNat, p, none, some f.val, none, f.val / 32, true⟩ s = (.exhausted, t)) :=
  ⟨⟨3, 5 * 2097152 + 70,
      (let s := base; { s with mem := { s.mem with frames := [(5, { Frame.reset with st := .owned, tbl := 3, lines := 3, owner := some 3 })] } }),
      by decide +kernel⟩,
   ⟨2, 5 * 2097152 + 70,
       (let s := base; { s with mem := { s.mem with frames := [(5, { Frame.reset with st := .owned, tbl := 3, lines := 3, owner := some 3 })] } }),
       by decide +kernel⟩,
   ⟨5 * 2097152 + 70,
       (let s := base; { s with mem := { s.mem with frames := [(5, { Frame.reset with st := .owned, tbl := 3, lines := 3, owner := some 3 })], poison := [((5 * 2097152 + 64) / 32, true)] } }),
       by decide +kernel⟩,
   ⟨3, 5 * 2097152 + 70, [1, 2, 3],
       (let s := base; { s with mem := { s.mem with frames := [(5, { Frame.reset with st := .owned, tbl := 3, lines := 3, owner := some 3 })] } }),
       by decide +kernel⟩,
   ⟨2, 5 * 2097152 + 70, [1, 2, 3],
       (let s := base; { s with mem := { s.mem with frames := [(5, { Frame.reset with st := .owned, tbl := 3, lines := 3, owner := some 3 })] } }),
       by decide +kernel⟩,
   ⟨3, 5 * 2097152 + 70, [1, 2, 3],
       (let s := base; { s with mem := { s.mem with frames := [(5, { Frame.reset with st := .owned, tbl := 3, lines := 3, owner := some 3 })] } }),
       by decide +kernel⟩,
   ⟨5 * 2097152 + 70, (let s := base.setChan (chanAt (5 * 2097152 + 70)) { Chan.reset with st := .retraining }; s), by decide +kernel⟩,
   ⟨5 * 2097152 + 70,
       (let s := base; { s with mem := { s.mem with frames := [(5, { Frame.reset with st := .owned, tbl := 3, lines := 3, owner := some 3 })] } }),
       by decide +kernel⟩,
   ⟨3, 9, base, by decide +kernel⟩,
   ⟨(let s := base; { s with mem := { s.mem with releaseQ := List.range 40, frames := (List.range 40).map fun i => (i, { Frame.reset with st := .released }) } }),
       by decide +kernel⟩,
   ⟨(let s := base; { s with pwr := { s.pwr with ps := 1 }, mem := { s.mem with releaseQ := [3], frames := [(3, { Frame.reset with st := .released })] } }),
       by decide +kernel⟩,
   ⟨5, (let s := base; { s with mem := { s.mem with frames := [(5, { Frame.reset with st := .released, scrubbing := true, tbl := 3, lines := 2 })], bytes := [(5 * 2097152 + 8, 7)] } }),
       by decide +kernel⟩,
   ⟨5, (⟨3, 9, some 5, none, none, 0, true⟩ : AllocWait),
       (let s := base; { s with mem := { s.mem with frames := [(5, { Frame.reset with st := .recolour, tbl := 3, lines := 2, owner := some 3 })], allocs := [⟨3, 9, some 5, none, none, 0, true⟩], bytes := [(5 * 2097152 + 8, 7)] } }),
       by decide +kernel⟩,
   ⟨(97 : Fin 128), (⟨0, 0, 0, 0⟩ : ItemRef), 1572864,
       (let s := (rings.setInst 0 { Inst.zero with st := .active, res := { ResRec.inst0 with pages := 64 } }).setFrond 97 { Frond.reset with item := some ⟨0, 0, 0, 0⟩, status := 0x80, cause := 7, tval := BitVec.ofNat 64 (1572864 * 2097152) }; (allocPage ⟨(s.frond 97).inst.toNat,
       1572864, none, some 97, none, 97 / 32, true⟩ s).2),
       (rings.setInst 0 { Inst.zero with st := .active, res := { ResRec.inst0 with pages := 64 } }).setFrond 97 { Frond.reset with item := some ⟨0, 0, 0, 0⟩, status := 0x80, cause := 7, tval := BitVec.ofNat 64 (1572864 * 2097152) },
       by decide +kernel⟩,
   ⟨(97 : Fin 128), (⟨0, 0, 0, 0⟩ : ItemRef), 1572864,
       (let s := (rings.setInst 0 { Inst.zero with st := .active, res := { ResRec.inst0 with pages := 0 } }).setFrond 97 { Frond.reset with item := some ⟨0, 0, 0, 0⟩, status := 0x80, cause := 7, tval := BitVec.ofNat 64 (1572864 * 2097152) }; (allocPage ⟨(s.frond 97).inst.toNat,
       1572864, none, some 97, none, 97 / 32, true⟩ s).2),
       (rings.setInst 0 { Inst.zero with st := .active, res := { ResRec.inst0 with pages := 0 } }).setFrond 97 { Frond.reset with item := some ⟨0, 0, 0, 0⟩, status := 0x80, cause := 7, tval := BitVec.ofNat 64 (1572864 * 2097152) },
       by decide +kernel⟩⟩

theorem witness_Channels :
    (∃ (ch : Nat) (s : State), (s.chan ch).st = .active ∧ (s.chan ch).retrainDue = false ∧ (s.chan ch).lastRetrain + 100000000 ≤ s.time) ∧
    (∃ (ch : Nat) (s : State), (s.chan ch).st = .active ∧ (s.chan ch).retrainDue = false ∧ s.time < (s.chan ch).lastRetrain + 10000000) ∧
    (∃ (ch : Nat) (s : State), (s.chan ch).st = .active ∧ (s.chan ch).retrainDue = true) ∧
    (∃ (ch : Nat) (s : State), (s.chan ch).st = .retraining ∧ (s.mem.waits.all (fun x => decide (chanAt x.addr ≠ ch)) = true)) ∧
    (∃ (ch : Nat) (s : State), (s.chan ch).st = .retraining ∧ (s.mem.waits.all (fun x => decide (chanAt x.addr ≠ ch)) = true) ∧
        2 ≤ (s.chan ch).fails) ∧
    (∃ (ch : Nat) (s : State), (s.chan ch).st = .retraining ∧ (s.mem.waits.all (fun x => decide (chanAt x.addr ≠ ch)) = true) ∧
        (s.chan ch).fails < 2) ∧
    (∃ (ch : Nat) (s : State), (s.chan ch).st ≠ .selfRefresh ∧ (s.chan ch).st ≠ .failed) :=
  ⟨⟨95, (let s := base.setChan 95 { Chan.reset with lastRetrain := 100000000 }; { s with time := 200000000 }), by decide +kernel⟩,
   ⟨95, (let s := base.setChan 95 { Chan.reset with lastRetrain := 190000001 }; { s with time := 200000000 }), by decide +kernel⟩,
   ⟨95, (let s := base.setChan 95 { Chan.reset with retrainDue := true }; { s with time := 200000000 }), by decide +kernel⟩,
   ⟨95, (let s := base.setChan 95 { Chan.reset with retrainDue := true, fails := 2, st := .retraining }; { s with time := 200000000 }),
       by decide +kernel⟩,
   ⟨95, (let s := base.setChan 95 { Chan.reset with retrainDue := true, fails := 2, st := .retraining }; { s with time := 200000000 }),
       by decide +kernel⟩,
   ⟨95, (let s := base.setChan 95 { Chan.reset with retrainDue := true, fails := 1, st := .retraining }; { s with time := 200000000 }),
       by decide +kernel⟩,
   ⟨95, (let s := base.setChan 95 { Chan.reset with retrainDue := true }; { s with time := 200000000 }), by decide +kernel⟩⟩

theorem witness_InstanceCommands :
    (∃ (fn : Nat) (s : State), MbxRuns fn 0x01 ⟨false, true, []⟩ s ∧ (s.getMbx fn).target = 0xFFFFFFFF) ∧
    (∃ (fn : Nat) (s : State), MbxRuns fn 0x01 ⟨false, true, []⟩ s ∧ (s.getMbx fn).target ≤ 255) ∧
    (∃ (i : Nat) (b : List Byte) (s : State), MbxRuns 0 0x10 ⟨true, true, [(8, 8)]⟩ s ∧ (s.getMbx 0).target = i ∧ 1 ≤ i ∧ i ≤ 255 ∧
        (s.getMbx 0).arg 8 8 % 64 = 0 ∧ (s.inst i).st = .absent ∧ isStrict s = false ∧ (s.hostPort (s.getMbx 0).port).absent = false ∧
        mbxReads s (s.getMbx 0) = true ∧ b.length = 128 ∧ (recBadField i b (fun _ => true) = none) ∧ (readRec b).dataPages = 0 ∧
        overTotal s i (readRec b) = false ∧ ((∀ w ∈ s.mem.allocs, w.mbx ≠ some 0))) ∧
    (∃ (i : Nat) (s : State), MbxRuns 0 0x10 ⟨true, true, [(8, 8)]⟩ s ∧ (s.getMbx 0).target = i ∧ 1 ≤ i ∧ i ≤ 255 ∧ (s.getMbx 0).arg 8 8 % 64 = 0 ∧
        (s.inst i).st ≠ .absent) ∧
    (∃ (i : Nat) (b : List Byte) (u : State) (s : State), MbxRuns 0 0x11 ⟨true, true, [(8, 8), (16, 2)]⟩ s ∧ (s.getMbx 0).target = i ∧ i ≤ 255 ∧
        (s.getMbx 0).arg 8 8 % 64 = 0 ∧ (s.getMbx 0).arg 0x10 2 ≠ 0 ∧ (s.inst i).st = .active ∧ isStrict s = false ∧
        (s.hostPort (s.getMbx 0).port).absent = false ∧ mbxReads s (s.getMbx 0) = true ∧
        mbxRead 0 (s.getMbx 0) [((s.getMbx 0).arg 8 8, 128)] id s = u ∧ b.length = 128 ∧ leAt b 0 8 < 65536 ∧
        (recBadField i b (fun j => bit (leAt b 0 8) j) = none) ∧
        ((mergeRec (s.inst i).res (readRec b) fun j => bit (leAt b 0 8) j).dataPages ≤ (mergeRec (s.inst i).res (readRec b) fun j => bit (leAt b 0 8) j).pages) ∧
        (resizeInUse s i (mergeRec (s.inst i).res (readRec b) fun j => bit (leAt b 0 8) j) = false) ∧
        (overTotal s i (mergeRec (s.inst i).res (readRec b) fun j => bit (leAt b 0 8) j) = false)) ∧
    (∃ (i : Nat) (z : Resize) (s : State), (s.inst i).resize = some z ∧ z.waits = true ∧ firstUndrained (trimInst i s) i = none ∧
        ((∀ w ∈ s.mem.allocs, w.mbx ≠ some z.mbx)) ∧ z.mbx < 1000 ∧ (s.getMbx z.mbx).mop = 0x11 ∧ (s.getMbx z.mbx).st = .busy ∧
        (s.getMbx z.mbx).started = true ∧ (s.getMbx z.mbx).target = i ∧ (s.inst i).st = .resizing ∧ s.mp.arbitrating = false) ∧
    (∃ (i : Nat) (z : Resize) (j : Nat) (s : State), (s.inst i).resize = some z ∧ z.waits = true ∧ firstUndrained (trimInst i s) i = some j ∧
        z.expiry ≤ s.time ∧ (s.inst i).st = .resizing ∧ s.mp.arbitrating = false) ∧
    (∃ (i : Nat) (z : Resize) (j : Nat) (s : State), (s.inst i).resize = some z ∧ firstUndrained (trimInst i s) i = some j ∧ s.time < z.expiry) :=
  ⟨⟨0, withMbx 0 1 [(4, 0xFFFFFFFF)] base, mbxRuns_of (by decide +kernel), by decide +kernel⟩,
   ⟨0, withMbx 0 1 [(4, 255)] base, mbxRuns_of (by decide +kernel), by decide +kernel⟩,
   ⟨255, (leBytes 0 8 ++ leBytes 4 2 ++ leBytes 4 2 ++ leBytes 16 4 ++ leBytes 4 2 ++ leBytes 4 2 ++ leBytes 0x10101010 4 ++ leBytes 4 4 ++ zeros 4 ++ zeros 16 ++ zeros 4 ++ leBytes 0x010101 4 ++ zeros 4 ++ leBytes 4 2 ++ zeros 66),
       withMbx 0 0x10 [(4, 255), (8, 64)] base, mbxRuns_of (by decide +kernel), by decide +kernel⟩,
   ⟨255, withMbx 0 0x10 [(4, 255), (8, 64)] (base.setInst 255 { Inst.zero with st := .active }), mbxRuns_of (by decide +kernel), by decide +kernel⟩,
   ⟨1, (leBytes 65535 8 ++ leBytes 4 2 ++ leBytes 4 2 ++ leBytes 16 4 ++ leBytes 4 2 ++ leBytes 4 2 ++ leBytes 0x10101010 4 ++ leBytes 4 4 ++ zeros 4 ++ zeros 16 ++ zeros 4 ++ leBytes 0x010101 4 ++ zeros 4 ++ leBytes 4 2 ++ zeros 66),
       (mbxRead 0 ((withMbx 0 0x11 [(4, 1), (8, 64), (0x10,
       5)] (base.setInst 1 { Inst.zero with st := .active, res := ResRec.inst0 })).getMbx 0) [(((withMbx 0 0x11 [(4, 1), (8, 64), (0x10,
       5)] (base.setInst 1 { Inst.zero with st := .active, res := ResRec.inst0 })).getMbx 0).arg 8 8, 128)] id (withMbx 0 0x11 [(4, 1), (8, 64),
       (0x10, 5)] (base.setInst 1 { Inst.zero with st := .active, res := ResRec.inst0 }))), withMbx 0 0x11 [(4, 1), (8, 64), (0x10,
       5)] (base.setInst 1 { Inst.zero with st := .active, res := ResRec.inst0 }), mbxRuns_of (by decide +kernel), by decide +kernel⟩,
   ⟨1, (⟨ResRec.inst0, ResRec.inst0, 1, 10, 0, true⟩ : Resize), (withMbx 0 0x11 [(4,
       1)] (base.setInst 1 { Inst.zero with st := .resizing, res := ResRec.inst0, resize := some ⟨ResRec.inst0, ResRec.inst0, 1, 10, 0, true⟩ })).modMbx 0 fun m => { m with started := true },
       by decide +kernel⟩,
   ⟨1, (⟨ResRec.inst0, ResRec.inst0, 1, 10, 0, true⟩ : Resize), 6,
       { (withMbx 0 0x11 [(4, 1)] (base.setInst 1 { Inst.zero with st := .resizing, res := { ResRec.inst0 with pages := 0 }, frames := [5], resize := some ⟨ResRec.inst0, ResRec.inst0, 1, 10, 0, true⟩ })) with time := 10 },
       by decide +kernel⟩,
   ⟨1, (⟨ResRec.inst0, ResRec.inst0, 1, 10, 0, true⟩ : Resize), 6,
       { (withMbx 0 0x11 [(4, 1)] (base.setInst 1 { Inst.zero with st := .resizing, res := { ResRec.inst0 with pages := 0 }, frames := [5], resize := some ⟨ResRec.inst0, ResRec.inst0, 1, 10, 0, true⟩ })) with time := 9 },
       by decide +kernel⟩⟩

theorem witness_InstanceResets :
    (∃ (fn : Nat) (i : Nat) (s : State), MbxRuns fn 0x12 ⟨false, true, []⟩ s ∧ (s.getMbx fn).target = i ∧ i ≤ 255 ∧ (s.inst i).st = .active ∧
        ((s.disp.fences.any fun f => f.inst = i) = false)) ∧
    (∃ (i : Nat) (s : State), MbxRuns 0 0x13 ⟨true, true, []⟩ s ∧ (s.getMbx 0).target = i ∧ i ≠ 0 ∧ i ≤ 255 ∧ (s.inst i).st ≠ .absent ∧
        ((s.disp.fences.any fun f => f.inst = i) = false)) ∧
    (∃ (i : Nat) (f : FenceRec) (s : State), (s.disp.fences.find? (fun f => f.inst = i) = some f) ∧ f.complete = false ∧ fenceBusy s i = false) ∧
    (∃ (i : Nat) (f : FenceRec) (s : State), (s.disp.fences.find? (fun f => f.inst = i) = some f) ∧ f.complete = true ∧ f.flr = false ∧
        f.destroying = false ∧ slotsHeld s i = 0 ∧ quiesced s = false ∧ s.pads.booted = true ∧ s.pads.inReset = false ∧ s.mp.arbitrating = false ∧
        (s.inst i).resize = none) ∧
    (∃ (i : Nat) (s : State), i ≤ 255 ∧ i ≠ 0 ∧ (s.inst i).st = .active ∧ ((s.disp.fences.any fun f => f.inst = i) = false)) ∧
    (∃ (s : State), (s.inst 0).st = .active) ∧
    (∃ (s : State), (s.inst 0).st = .active) :=
  ⟨⟨0, 1, withMbx 0 0x12 [(4, 1)] (base.setInst 1 { Inst.zero with st := .active, res := ResRec.inst0 }), mbxRuns_of (by decide +kernel),
      by decide +kernel⟩,
   ⟨1, withMbx 0 0x13 [(4, 1)] (base.setInst 1 { Inst.zero with st := .active, res := ResRec.inst0 }), mbxRuns_of (by decide +kernel),
       by decide +kernel⟩,
   ⟨1, (⟨1, false, false, [0], false⟩ : FenceRec),
       (let s := base.setInst 1 { Inst.zero with st := .resetting, res := ResRec.inst0 }; { s with disp := { s.disp with fences := [⟨1, false, false, [0], false⟩] } }),
       by decide +kernel⟩,
   ⟨1, (⟨1, false, false, [0], true⟩ : FenceRec),
       (let s := base.setInst 1 { Inst.zero with st := .resetting, res := ResRec.inst0 }; { s with disp := { s.disp with fences := [⟨1, false, false, [0], true⟩] } }),
       by decide +kernel⟩,
   ⟨1, base.setInst 1 { Inst.zero with st := .active, res := ResRec.inst0 }, by decide +kernel⟩,
   ⟨(base.setInst 0 { Inst.zero with st := .active, res := ResRec.inst0 }), by decide +kernel⟩,
   ⟨(base.setInst 0 { Inst.zero with st := .active, res := ResRec.inst0 }).setInst 1 { Inst.zero with st := .active }, by decide +kernel⟩⟩

theorem witness_QueuesAndPlans :
    (∃ (fn : Nat) (s : State), MbxRuns fn 0x20 queueRule s ∧ queueBadField (s.getMbx fn) (s.inst fn).res = none ∧ (s.getMbx fn).arg 8 1 = 1 ∧
        (s.cq fn ((s.getMbx fn).arg 0x0A 2)).st = .disabled) ∧
    (∃ (fn : Nat) (s : State), MbxRuns fn 0x20 queueRule s ∧ queueBadField (s.getMbx fn) (s.inst fn).res = none ∧ (s.getMbx fn).arg 8 1 = 0 ∧
        (s.sq fn ((s.getMbx fn).arg 0x0A 2)).st = .disabled ∧ (s.cq fn ((s.getMbx fn).arg 0x1C 2)).st ≠ .disabled) ∧
    (∃ (fn : Nat) (o : Nat) (s : State), MbxRuns fn 0x20 queueRule s ∧ queueBadField (s.getMbx fn) (s.inst fn).res = some o) ∧
    (∃ (fn : Nat) (s : State), MbxRuns fn 0x22 queueIdRule s ∧ (s.getMbx fn).arg 8 1 = 0 ∧ (s.sq fn ((s.getMbx fn).arg 0x0A 2)).st ≠ .disabled ∧
        (s.sq fn ((s.getMbx fn).arg 0x0A 2)).drain = none) ∧
    (∃ (fn : Nat) (s : State), MbxRuns fn 0x21 queueIdRule s ∧ (s.getMbx fn).arg 8 1 = 0 ∧ (s.sq fn ((s.getMbx fn).arg 0x0A 2)).st ≠ .disabled ∧
        (s.sq fn ((s.getMbx fn).arg 0x0A 2)).drain = none) ∧
    (∃ (fn : Nat) (s : State), MbxRuns fn 0x21 queueIdRule s ∧ (s.getMbx fn).arg 8 1 = 1 ∧ (s.cq fn ((s.getMbx fn).arg 0x0A 2)).st ≠ .disabled ∧
        cqMapped s fn ((s.getMbx fn).arg 0x0A 2) = false) ∧
    (∃ (i : Nat) (n : Nat) (mbx : _) (s : State), (s.sq i n).drain = some (false, mbx) ∧ sqOut s i n = 0) ∧
    (∃ (i : Nat) (n : Nat) (mbx : _) (s : State), (s.sq i n).drain = some (true, mbx) ∧ sqOut s i n = 0) ∧
    (∃ (fn : Nat) (img : List Byte) (pb : List Byte) (u : State) (s : State), MbxRuns fn 0x30 planLoadRule s ∧ planBadField (s.getMbx fn) = none ∧
        beforeCopy s fn ((s.getMbx fn).arg 8 4) ((s.getMbx fn).arg 0x18 4) (bit ((s.getMbx fn).arg 0xC 1) 0) = none ∧
        (s.hostPort (s.getMbx fn).port).absent = false ∧ img.length = (s.getMbx fn).arg 0x18 4 ∧ (s.getMbx fn).arg 0x20 8 ≠ 0 ∧
        pb.length = (s.getMbx fn).arg 0x28 2 ∧ mbxReads s (s.getMbx fn) = true ∧
        mbxRead fn (s.getMbx fn) [((s.getMbx fn).arg 0x10 8, img.length), ((s.getMbx fn).arg 0x20 8, pb.length)] id s = u) ∧
    (∃ (fn : Nat) (s : State), MbxRuns fn 0x30 planLoadRule s ∧ planBadField (s.getMbx fn) = none ∧
        beforeCopy s fn ((s.getMbx fn).arg 8 4) ((s.getMbx fn).arg 0x18 4) (bit ((s.getMbx fn).arg 0xC 1) 0) = none ∧
        (s.getMbx fn).arg 0x18 4 ≠ 0 ∧ mbxReads s (s.getMbx fn) = false) ∧
    (∃ (fn : Nat) (s : State), MbxRuns fn 0x30 planLoadRule s ∧ planBadField (s.getMbx fn) = none ∧ bit ((s.getMbx fn).arg 0xC 1) 0 = false ∧
        ((s.inst fn).plans.any (fun p => decide (p.id = (s.getMbx fn).arg 8 4) && !p.gone) = true)) ∧
    (∃ (fn : Nat) (s : State), fn < 1000 ∧ MbxRuns fn 0x31 planUnloadRule s ∧ s.lnk.workers = [] ∧ distOf s fn = none ∧
        ((s.inst fn).plans.any (fun p => decide (p.id = (s.getMbx fn).arg 8 4) && p.ready && !p.gone) = true)) ∧
    (∃ (fn : Nat) (s : State), MbxRuns fn 0x31 planUnloadRule s ∧
        ((s.inst fn).plans.any (fun p => decide (p.id = (s.getMbx fn).arg 8 4) && p.ready && !p.gone) = false)) ∧
    (∃ (i : Nat) (id : Nat) (s : State), s.mp.reloads.contains (i, id) = true ∧ s.mp.arbitrating = false ∧
        ((s.inst i).plans.find? (fun p => decide (p.id = id) && p.ready && !p.gone) = none)) ∧
    (∃ (i : Nat) (id : Nat) (e : PlanEnt) (s : State), s.mp.reloads.contains (i, id) = true ∧ s.mp.arbitrating = false ∧
        ((s.inst i).plans.find? (fun p => decide (p.id = id) && p.ready && !p.gone) = some e) ∧ reloadFails i e (unholdPlan i id s) = true) ∧
    (∃ (i id : Nat) (e : PlanEnt) (s : State), s.mp.reloads.contains (i, id) = true ∧ s.mp.arbitrating = false ∧
        (s.inst i).plans.find? (fun p => decide (p.id = id) && p.ready && !p.gone) = some e ∧ reloadFails i e (unholdPlan i id s) = false) :=
  ⟨⟨1, withMbx 1 0x20 [(8, 1), (9, 4), (0x0A, 2), (0x0E, 1), (0x10, 4096), (0x1E,
      1)] (base.setInst 1 { Inst.zero with st := .active, res := ResRec.inst0 }), mbxRuns_of (by decide +kernel), by decide +kernel⟩,
   ⟨1, withMbx 1 0x20 [(8, 0), (9, 4), (0x0A, 2), (0x10, 4096), (0x18, 8), (0x1C,
       1)] ((base.setInst 1 { Inst.zero with st := .active, res := ResRec.inst0 }).setCq 1 1 { Cq.absent with st := .active }),
       mbxRuns_of (by decide +kernel), by decide +kernel⟩,
   ⟨1, 9, withMbx 1 0x20 [(9, 3)] (base.setInst 1 { Inst.zero with st := .active, res := ResRec.inst0 }), mbxRuns_of (by decide +kernel),
       by decide +kernel⟩,
   ⟨1, withMbx 1 0x22 [(0x0A,
       2)] ((base.setInst 1 { Inst.zero with st := .active, res := ResRec.inst0 }).setSq 1 2 { Sq.absent with st := .active }),
       mbxRuns_of (by decide +kernel), by decide +kernel⟩,
   ⟨1, withMbx 1 0x21 [(0x0A,
       2)] ((base.setInst 1 { Inst.zero with st := .active, res := ResRec.inst0 }).setSq 1 2 { Sq.absent with st := .active }),
       mbxRuns_of (by decide +kernel), by decide +kernel⟩,
   ⟨1, withMbx 1 0x21 [(8, 1), (0x0A,
       2)] ((base.setInst 1 { Inst.zero with st := .active, res := ResRec.inst0 }).setCq 1 2 { Cq.absent with st := .active }),
       mbxRuns_of (by decide +kernel), by decide +kernel⟩,
   ⟨1, 2, none,
       (base.setInst 1 { Inst.zero with st := .active, res := ResRec.inst0 }).setSq 1 2 { Sq.absent with st := .draining, drain := some (false, none), tail := 5, head := 5 },
       by decide +kernel⟩,
   ⟨1, 2, none,
       (base.setInst 1 { Inst.zero with st := .active, res := ResRec.inst0 }).setSq 1 2 { Sq.absent with st := .draining, drain := some (true, none), tail := 5, head := 5 },
       by decide +kernel⟩,
   ⟨1, [1, 2, 3], [0, 0], (mbxRead 1 ((withMbx 1 0x30 [(8, 5), (0x0C, 0), (0x10, 64), (0x18, 3), (0x20, 8), (0x28,
       2)] (base.setInst 1 { Inst.zero with st := .active, res := ResRec.inst0 })).getMbx 1) [(((withMbx 1 0x30 [(8, 5), (0x0C, 0), (0x10, 64),
       (0x18, 3), (0x20, 8), (0x28, 2)] (base.setInst 1 { Inst.zero with st := .active, res := ResRec.inst0 })).getMbx 1).arg 0x10 8, 3),
       (((withMbx 1 0x30 [(8, 5), (0x0C, 0), (0x10, 64), (0x18, 3), (0x20, 8), (0x28,
       2)] (base.setInst 1 { Inst.zero with st := .active, res := ResRec.inst0 })).getMbx 1).arg 0x20 8, 2)] id (withMbx 1 0x30 [(8, 5), (0x0C,
       0), (0x10, 64), (0x18, 3), (0x20, 8), (0x28, 2)] (base.setInst 1 { Inst.zero with st := .active, res := ResRec.inst0 }))),
       withMbx 1 0x30 [(8, 5), (0x0C, 0), (0x10, 64), (0x18, 3), (0x20, 8), (0x28,
       2)] (base.setInst 1 { Inst.zero with st := .active, res := ResRec.inst0 }), mbxRuns_of (by decide +kernel), by decide +kernel⟩,
   ⟨1, (withMbx 1 0x30 [(8, 5), (0x0C, 0), (0x10, 64), (0x18, 3), (0x20, 8), (0x28,
       2)] (base.setInst 1 { Inst.zero with st := .active, res := ResRec.inst0 })).setHostPort 0 { (withMbx 1 0x30 [(8, 5), (0x0C, 0), (0x10, 64), (0x18, 3), (0x20, 8), (0x28, 2)] (base.setInst 1 { Inst.zero with st := .active, res := ResRec.inst0 })).hostPort 0 with up := false },
       mbxRuns_of (by decide +kernel), by decide +kernel⟩,
   ⟨1, withMbx 1 0x30 [(8, 5), (0x0C, 0), (0x10, 64), (0x18, 3), (0x20, 8), (0x28,
       2)] (base.setInst 1 { Inst.zero with st := .active, plans := [({ id := 5, plan := plan0, pages := [], pinned := false, ready := true, gone := false, goneAt := 0 } : PlanEnt)], res := ResRec.inst0 }),
       mbxRuns_of (by decide +kernel), by decide +kernel⟩,
   ⟨1, withMbx 1 0x31 [(8,
       5)] (base.setInst 1 { Inst.zero with st := .active, plans := [({ id := 5, plan := plan0, pages := [], pinned := false, ready := true, gone := false, goneAt := 0 } : PlanEnt)], res := ResRec.inst0 }),
       by decide +kernel, mbxRuns_of (by decide +kernel), by decide +kernel⟩,
   ⟨1, withMbx 1 0x31 [(8,
       6)] (base.setInst 1 { Inst.zero with st := .active, plans := [({ id := 5, plan := plan0, pages := [], pinned := false, ready := true, gone := false, goneAt := 0 } : PlanEnt)], res := ResRec.inst0 }),
       mbxRuns_of (by decide +kernel), by decide +kernel⟩,
   ⟨1, 6, (let s := base.setInst 1 { Inst.zero with st := .active, plans := [({ id := 5, plan := plan0, pages := [], pinned := false, ready := true, gone := false, goneAt := 0 } : PlanEnt)], res := ResRec.inst0 }; { s with mp := { s.mp with reloads := [(1, 6)] }, disp := { s.disp with reloading := [(1, 6)] } }),
       by decide +kernel⟩,
   ⟨1, 6, ({ id := 6, plan := plan0, pages := [], pinned := false, ready := true, gone := false, goneAt := 0 } : PlanEnt),
       (let s := base.setInst 1 { Inst.zero with st := .active, plans := [({ id := 6, plan := plan0, pages := [], pinned := false, ready := true, gone := false, goneAt := 0 } : PlanEnt)], res := ResRec.inst0 }; { s with mp := { s.mp with reloads := [(1, 6)] }, disp := { s.disp with reloading := [(1, 6)] } }),
       by decide +kernel⟩,
   ⟨1, 6, reloadEnt, reloadS, by decide +kernel, rfl, rfl, reload_passes⟩⟩

theorem witness_ProfileCommands :
    (∃ (s : State), MbxRuns 0 0x40 ⟨true, false, [(8, 1), (9, 1), (10, 1)]⟩ s ∧ (s.getMbx 0).arg 8 1 ≤ 2 ∧ (s.getMbx 0).arg 9 1 ≤ 7 ∧
        (s.getMbx 0).arg 0xA 1 = 1) ∧
    (∃ (d : Nat) (s : State), MbxRuns 0 0x40 ⟨true, false, [(8, 1), (9, 1), (10, 1)]⟩ s ∧ (s.getMbx 0).arg 8 1 = 3 ∧ (s.getMbx 0).arg 9 1 ≤ 7 ∧
        (s.getMbx 0).arg 0xA 1 ≤ 1 ∧ strictRefused s = some d) ∧
    (∃ (ch : ProfChange) (s : State), s.disp.profileChange = some ch ∧ ((∀ x ∈ runningItems s, x ∉ ch.items)) ∧ s.mp.arbitrating = false) ∧
    (∃ (s : State), MbxRuns 0 0x41 ⟨true, false, [(8, 2)]⟩ s ∧ 500 ≤ (s.getMbx 0).arg 8 2 ∧ (s.getMbx 0).arg 8 2 ≤ 1520 ∧ isStrict s = false) ∧
    (∃ (s : State), MbxRuns 0 0x41 ⟨true, false, [(8, 2)]⟩ s ∧ (((s.getMbx 0).arg 8 2 < 500 ∨ 1520 < (s.getMbx 0).arg 8 2))) ∧
    (∃ (s : State), MbxRuns 0 0x42 ⟨true, false, [(8, 1), (10, 2)]⟩ s ∧ (s.getMbx 0).arg 8 1 ≤ 3 ∧ 1 ≤ (s.getMbx 0).arg 0xA 2 ∧
        (s.getMbx 0).arg 0xA 2 ≤ 10000) :=
  ⟨⟨withMbx 0 0x40 [(8, 2), (9, 7), (10, 1)] (base.setInst 1 { Inst.zero with st := .active, res := ResRec.inst0 }),
      mbxRuns_of (by decide +kernel), by decide +kernel⟩,
   ⟨1, withMbx 0 0x40 [(8, 3), (9, 7), (10,
       1)] (base.setInst 1 { st := .active, res := { ResRec.inst0 with weights := 0x00101010 }, plans := [], resize := none, logBase := 0, counters := [], frames := [] }),
       mbxRuns_of (by decide +kernel), by decide +kernel⟩,
   ⟨(⟨0, 0, []⟩ : ProfChange),
       (let s := withMbx 0 0x40 [] base; { s with disp := { s.disp with profile := 3, profileChange := some ⟨0, 0, []⟩ } }), by decide +kernel⟩,
   ⟨withMbx 0 0x41 [(8, 1520)] base, mbxRuns_of (by decide +kernel), by decide +kernel⟩,
   ⟨withMbx 0 0x41 [(8, 1521)] base, mbxRuns_of (by decide +kernel), by decide +kernel⟩,
   ⟨withMbx 0 0x42 [(8, 3), (10, 10000)] base, mbxRuns_of (by decide +kernel), by decide +kernel⟩⟩

theorem witness_FirmwareCommands :
    (∃ (b : List Byte) (s : State), stagingBusy s = false ∧ MbxRuns 0 0x50 ⟨true, false, [(8, 8), (16, 4)]⟩ s ∧ (s.getMbx 0).arg 8 8 % 64 = 0 ∧
        (s.getMbx 0).arg 0x10 4 ≤ 33554432 ∧ (s.hostPort (s.getMbx 0).port).absent = false ∧ mbxReads s (s.getMbx 0) = true ∧
        b.length = (s.getMbx 0).arg 0x10 4) ∧
    (∃ (s : State), MbxRuns 0 0x51 ⟨true, false, [(8, 4)]⟩ s ∧ s.mp.staged = none) ∧
    (∃ (v : W32) (b : List Byte) (s : State), MbxRuns 0 0x51 ⟨true, false, [(8, 4)]⟩ s ∧ s.mp.staged = some (v, b) ∧
        (s.getMbx 0).arg 8 4 = v.toNat ∧ s.mp.activating = false ∧ s.mp.lockstep = true) ∧
    (∃ (v : W32) (b : List Byte) (s : State), s.mp.activating = true ∧ s.mp.actStep = 2 ∧ s.mp.arbitrating = false ∧ s.mp.staged = some (v, b)) ∧
    (∃ (v : W32) (b : List Byte) (s : State), s.mp.activating = true ∧ s.mp.actStep = 2 ∧ s.mp.arbitrating = false ∧ s.mp.staged = some (v, b)) ∧
    (∃ (v : W32) (b : List Byte) (s : State), s.mp.activating = true ∧ s.mp.actStep = 3 ∧ s.mp.arbitrating = false ∧
        s.mbx.any (mbxRuns s) = false ∧ s.mp.staged = some (v, b)) ∧
    (∃ (v : W32) (b : List Byte) (s : State), s.mp.activating = true ∧ s.mp.actStep = 3 ∧ s.mp.arbitrating = false ∧
        s.mbx.any (mbxRuns s) = false ∧ s.mp.staged = some (v, b)) ∧
    (∃ (v : W32) (b : List Byte) (s : State), s.mp.activating = true ∧ s.mp.actStep = 7 ∧ s.mp.reloads = [] ∧ s.mp.arbitrating = false ∧
        s.mp.staged = some (v, b) ∧ (if s.mp.actSel then s.mp.stA else s.mp.stB) = .testing) :=
  ⟨⟨[1, 2], withMbx 0 0x50 [(8, 64), (16, 2)] base, by decide +kernel, mbxRuns_of (by decide +kernel), by decide +kernel⟩,
   ⟨withMbx 0 0x51 [(8, 5)] base, mbxRuns_of (by decide +kernel), by decide +kernel⟩,
   ⟨5, [1, 2], withMbx 0 0x51 [(8, 5)] ((let s := base; { s with mp := { s.mp with staged := some (5, [1, 2]) } })),
       mbxRuns_of (by decide +kernel), by decide +kernel⟩,
   ⟨5, [1, 2], (let s := base; { s with mp := { s.mp with staged := some (5, [1, 2]), activating := true, actStep := 2, lockstep := false } }),
       by decide +kernel⟩,
   ⟨5, [1, 2], (let s := base; { s with mp := { s.mp with staged := some (5, [1, 2]), activating := true, actStep := 2, lockstep := false } }),
       by decide +kernel⟩,
   ⟨5, [1, 2],
       (let s := base.setInst 1 { Inst.zero with st := .active, plans := [({ id := 5, plan := plan0, pages := [], pinned := false, ready := true, gone := false, goneAt := 0 } : PlanEnt)], res := ResRec.inst0 }; { s with mp := { s.mp with staged := some (5, [1, 2]), activating := true, actStep := 3, lockstep := false } }),
       by decide +kernel⟩,
   ⟨5, [1, 2],
       (let s := base.setInst 1 { Inst.zero with st := .active, plans := [({ id := 5, plan := plan0, pages := [], pinned := false, ready := true, gone := false, goneAt := 0 } : PlanEnt)], res := ResRec.inst0 }; { s with mp := { s.mp with staged := some (5, [1, 2]), activating := true, actStep := 3, lockstep := false } }),
       by decide +kernel⟩,
   ⟨5, [1, 2],
       (let s := base; { s with mp := { s.mp with staged := some (5, [1, 2]), activating := true, actStep := 7, actSel := true, stA := .testing, lockstep := false } }),
       by decide +kernel⟩⟩

theorem witness_TelemetryAndLog :
    (∃ (s : State), s.time % 100000 = 0 ∧ s.pads.inReset = false) ∧
    (∃ (s : State), s.time % 100000 ≠ 0) ∧
    (∃ (fn : Nat) (s : State), MbxRuns fn 0x60 ⟨false, false, [(8, 8), (16, 8), (24, 4)]⟩ s ∧ (s.getMbx fn).arg 0x10 8 % 16 = 0 ∧
        (s.getMbx fn).arg 0x18 4 % 16 = 0 ∧ 16 ≤ (s.getMbx fn).arg 0x18 4 ∧ (s.getMbx fn).arg 0x18 4 ≤ 65536 ∧
        (s.hostPort (s.getMbx fn).port).up = true ∧ (s.getMbx fn).irq = false ∧
        logEntries s fn ((s.getMbx fn).arg 8 8) ((s.getMbx fn).arg 0x18 4 / 16) ≠ []) :=
  ⟨⟨{ base with time := 200000 }, by decide +kernel⟩,
   ⟨{ base with time := 200001 }, by decide +kernel⟩,
   ⟨0, withMbx 0 0x60 [(8, 0), (16, 64), (24, 32)] (base |> logEvent 0x0301 3 0 5 none |> logEvent 0x0302 3 0 6 none),
       mbxRuns_of (by decide +kernel), by decide +kernel⟩⟩

theorem witness_LichenPair :
    (∃ (s : State), s.mp.arbitrating = false ∧ s.pads.inReset = false ∧ s.mp.lockstep = true) ∧
    (∃ (s : State), s.mp.lockstep = false) ∧
    (∃ (c : Bool) (s : State), s.mp.arbitrating = false ∧ s.pads.inReset = false ∧ s.mp.lockstep = true ∧ coreSt c s ≠ .out) ∧
    (∃ (c : Bool) (s : State), s.mp.arbitrating = false ∧ s.pads.inReset = false ∧ s.mp.lockstep = true ∧ coreSt c s ≠ .out) ∧
    (∃ (s : State), s.mp.arbitrating = false ∧ s.pads.inReset = false ∧ s.mp.lockstep = false ∧ s.mp.activating = false ∧
        coreSt (!s.mp.actSel) s ≠ .out) ∧
    (∃ (s : State), s.mp.arbitrating = true ∧ s.mp.lockstep = true ∧ s.mp.actSel = false ∧ s.mp.arbCause ≠ 1) ∧
    (∃ (s : State), s.mp.arbitrating = true) ∧
    (∃ (s : State), s.mp.arbitrating = false) ∧
    (∃ (n : W32) (fn : Nat) (err : Nat) (d : Nat) (off : Nat) (pl : List Byte) (s : State), s.mp.arbitrating = true ∧ s.mp.lockstep = true ∧
        s.mp.arbCause ≠ 1 ∧ s.mp.gate = [(n, .response fn err d off pl)]) ∧
    (∃ (s : State), s.mp.arbitrating = true ∧ s.mp.lockstep = true ∧ s.mp.actSel = false) ∧
    (∃ (s : State), s.mp.arbitrating = true ∧ s.mp.lockstep = true ∧ s.mp.actSel = false) ∧
    (∃ (s : State), s.mp.lockstep = true ∧ s.mp.arbitrating = false ∧ s.pads.inReset = false ∧ s.mp.actSel = false) ∧
    (∃ (s : State), s.mp.lockstep = true ∧ s.mp.arbitrating = false ∧ s.pads.inReset = false ∧ s.mp.actSel = false) ∧
    (∃ (s : State), s.mp.actSel = false ∧ s.mp.stB = .out ∧ s.mp.arbitrating = false ∧ s.pads.inReset = false ∧ s.mp.healthB.retests < 3) ∧
    (∃ (s : State), s.mp.actSel = false ∧ s.mp.stB = .out ∧ s.mp.arbitrating = false ∧ s.pads.inReset = false ∧ s.mp.healthB.retests < 3) ∧
    (∃ (s : State), s.mp.lockstep = false ∧ s.mp.arbitrating = false ∧ s.mp.activating = false ∧ s.pads.inReset = false ∧ s.mp.actSel = false ∧
        s.mp.stB = .testing) ∧
    (∃ (from_ : Nat) (s : State), s.mp.actSel = true ∧ s.mp.lockstep = true ∧ s.mp.arbitrating = false ∧ s.mp.activating = false ∧
        s.pads.inReset = false ∧ s.mp.returnFrom = some from_ ∧ from_ + 100000000 ≤ s.time) :=
  ⟨⟨base, by decide +kernel⟩,
   ⟨(let s := base; { s with mp := { s.mp with lockstep := false } }), by decide +kernel⟩,
   ⟨false, base, by decide +kernel⟩,
   ⟨true, base, by decide +kernel⟩,
   ⟨(let s := base; { s with mp := { s.mp with lockstep := false } }), by decide +kernel⟩,
   ⟨(let s := base; { s with mp := { s.mp with arbitrating := true, arbCause := 2, stA := .testing, stB := .testing } }), by decide +kernel⟩,
   ⟨(let s := base; { s with mp := { s.mp with arbitrating := true, outSeq := 41 } }), by decide +kernel⟩,
   ⟨(let s := base; { s with mp := { s.mp with outSeq := 0xFFFFFFFF } }), by decide +kernel⟩,
   ⟨(41 : W32), 3, 0, 1, 2, ([7, 8] : List Byte),
       (let s := base; { s with mp := { s.mp with arbitrating := true, arbCause := 2, stA := .testing, stB := .testing, outSeq := 42, gate := [(41, .response 3 0 1 2 [7, 8])] } }),
       by decide +kernel⟩,
   ⟨(let s := base; { s with mp := { s.mp with arbitrating := true, stA := .testing, stB := .testing } }), by decide +kernel⟩,
   ⟨(let s := base; { s with mp := { s.mp with arbitrating := true, stA := .testing, stB := .testing } }), by decide +kernel⟩,
   ⟨base, by decide +kernel⟩,
   ⟨base, by decide +kernel⟩,
   ⟨(let s := base; { s with mp := { s.mp with stB := .out, lockstep := false, healthB := { McHealth.reset with retests := 2 } } }),
       by decide +kernel⟩,
   ⟨(let s := base; { s with mp := { s.mp with stB := .out, lockstep := false, healthB := { McHealth.reset with retests := 2 } } }),
       by decide +kernel⟩,
   ⟨(let s := base; { s with mp := { s.mp with stB := .testing, lockstep := false } }), by decide +kernel⟩,
   ⟨5, { (let s := base; { s with mp := { s.mp with actSel := true, stA := .standby, stB := .active, returnFrom := some 5 } }) with time := 100000005 },
       by decide +kernel⟩⟩

theorem witness_AdmissionAndClocks :
    (∃ (units : Nat) (s : State), s.pwr.waits = [] ∧ isStrict s = false ∧ s.pwr.sag = false ∧ s.pwr.reduced = false ∧
        s.pwr.baseline + granted s + units ≤ s.pwr.cap) ∧
    (∃ (units : Nat) (s : State), s.pwr.waits = [] ∧ isStrict s = false ∧ s.pwr.cap < s.pwr.baseline + granted s + units) ∧
    (∃ (s : State), s.pwr.revoked = [] ∧ s.pwr.waits = []) ∧
    (∃ (g : Grant) (s : State), s.pwr.grants = [g] ∧ s.pwr.revoked = [] ∧ s.pwr.waits = [] ∧ g.inst = none) ∧
    (∃ (g : Grant) (s : State), s.pwr.grants = [g] ∧ g.expiry ≤ s.time ∧ holderRuns s g = true) ∧
    (∃ (g : Grant) (s : State), s.pwr.grants = [g] ∧ s.pwr.revoked = [] ∧ s.pwr.waits = [] ∧ g.inst = none ∧ g.expiry ≤ s.time ∧
        holderRuns s g = false) ∧
    (∃ (s : State), isStrict s = false ∧ 100 * s.pwr.measured ≤ 95 * s.pwr.cap) ∧
    (∃ (s : State), 95 * s.pwr.cap < 100 * s.pwr.measured) ∧
    (∃ (d : Nat) (s : State), isStrict s = false ∧ d < 4 ∧ ((dieQuadTemp s d).all (fun x => decide (x ≤ 98 * 16)) = true)) ∧
    (∃ (d : Nat), d < 4) ∧
    (∃ (q : Nat) (s : State), q < 16 ∧ awake s = true ∧ isStrict s = false ∧ isWarm s q = false ∧ quadIdle s q = true) ∧
    (∃ (q : Nat) (s : State), ((isStrict s = true ∨ isWarm s q = true ∨ quadIdle s q = false))) :=
  ⟨⟨100, (let s := base; { s with pwr := { s.pwr with baseline := 1420 } }), by decide +kernel⟩,
   ⟨101, (let s := base; { s with pwr := { s.pwr with baseline := 1420 } }), by decide +kernel⟩,
   ⟨(let s := base; { s with pwr := { s.pwr with grants := [({ id := 4, units := 12, us := 7, level := 1, inst := none, discretionary := true, die := none, holder := .other, given := 0, expiry := 1000 } : Grant)] } }),
       by decide +kernel⟩,
   ⟨({ id := 4, units := 12, us := 7, level := 1, inst := none, discretionary := true, die := none, holder := .scrub, given := 0, expiry := 1000 } : Grant),
       (let s := base; { s with pwr := { s.pwr with grants := [({ id := 4, units := 12, us := 7, level := 1, inst := none, discretionary := true, die := none, holder := .scrub, given := 0, expiry := 1000 } : Grant)] } }),
       by decide +kernel⟩,
   ⟨({ id := 4, units := 12, us := 7, level := 1, inst := none, discretionary := true, die := none, holder := .other, given := 0, expiry := 1000 } : Grant),
       { (let s := base; { s with pwr := { s.pwr with grants := [({ id := 4, units := 12, us := 7, level := 1, inst := none, discretionary := true, die := none, holder := .other, given := 0, expiry := 1000 } : Grant)] } }) with time := 1000 },
       by decide +kernel⟩,
   ⟨({ id := 4, units := 12, us := 7, level := 1, inst := none, discretionary := true, die := none, holder := .scrub, given := 0, expiry := 1000 } : Grant),
       { (let s := base; { s with pwr := { s.pwr with grants := [({ id := 4, units := 12, us := 7, level := 1, inst := none, discretionary := true, die := none, holder := .scrub, given := 0, expiry := 1000 } : Grant)] } }) with time := 1000 },
       by decide +kernel⟩,
   ⟨(let s := base; { s with pwr := { s.pwr with capLim := [(0, 20), (1, 24)] } }), by decide +kernel⟩,
   ⟨(let s := base; { s with pwr := { s.pwr with measured := 1500 } }), by decide +kernel⟩,
   ⟨3, (let s := base; { s with pwr := { s.pwr with thermLim := [(3, 20)] } }), by decide +kernel⟩,
   ⟨3, by decide +kernel⟩,
   ⟨15, base, by decide +kernel⟩,
   ⟨15, (let s := base; { s with disp := { s.disp with profile := 3 } }), by decide +kernel⟩⟩

theorem witness_PowerStates :
    (∃ (s : State), idleMay 0 [s.pwr.idle1] s = true) ∧
    (∃ (s : State), idleMay 1 [s.pwr.idle1, s.pwr.idle2] s = true ∧ s.store.pubs = []) ∧
    (∃ (s : State), idleMay 1 [s.pwr.idle1, s.pwr.idle2] s = true ∧ s.store.pubs ≠ []) ∧
    (∃ (s : State), idleMay 2 [s.pwr.idle1, s.pwr.idle2, s.pwr.idle3] s = true ∧ s.lnk.cxlOn = false) ∧
    (∃ (s : State), ((moduleIdle s = false ∨ isStrict s = true ∨ s.pwr.idle1 = 0))) ∧
    (∃ (s : State), s.pwr.entering = true) ∧
    (∃ (s : State), s.pwr.exiting = true ∧ s.pwr.entering = false) ∧
    (∃ (n : Nat), ((n = 0x3F ∨ (1 ≤ n ∧ n ≤ 40)))) ∧
    (∃ (s : State), s.pwr.sag = true ∧ s.pwr.revoked = [] ∧ s.pwr.waits = []) ∧
    (∃ (s : State), s.pwr.refLost = false) ∧
    (∃ (s : State), s.pads.porHeld = false) ∧
    (∃ (s : State), s.pads.porHeld = false ∧ dueTimers s = []) ∧
    (∃ (s : State), s.time % 1000000 = 0) ∧
    (∃ (s : State), s.time % 1000000 ≠ 0) :=
  ⟨⟨(let s := base; { s with pwr := { s.pwr with idleUs := 10000000, idleMark := workMarks s } }), by decide +kernel⟩,
   ⟨(let s := (let s := base; { s with pwr := { s.pwr with ps := 1 } }); { s with pwr := { s.pwr with idleUs := 10000000, idleMark := workMarks s } }),
       by decide +kernel⟩,
   ⟨(let s := (let s := (let s := base; { s with store := { s.store with pubs := [(⟨0, 1, { size := 100, ver := 1, bytes := [], exts := [] }, [0], 1, none, false, false, none, 1, [], []⟩ : Pub)] } }); { s with pwr := { s.pwr with ps := 1 } }); { s with pwr := { s.pwr with idleUs := 10000000, idleMark := workMarks s } }),
       by decide +kernel⟩,
   ⟨(let s := (let s := base; { s with pwr := { s.pwr with ps := 2 } }); { s with pwr := { s.pwr with idleUs := 10000000, idleMark := workMarks s } }),
       by decide +kernel⟩,
   ⟨(let s := base; { s with pwr := { s.pwr with idle1 := 0 } }), by decide +kernel⟩,
   ⟨(let s := (let s := base; { s with mem := { s.mem with chans := [(95, { Chan.reset with st := .failed })] } }); { s with pwr := { s.pwr with entering := true, target := 3 } }),
       by decide +kernel⟩,
   ⟨(let s := (let s := base; { s with mem := { s.mem with chans := [(95, { Chan.reset with st := .failed }), (3, { Chan.reset with st := .selfRefresh })] } }); { s with pwr := { s.pwr with exiting := true, ps := 3 } }),
       by decide +kernel⟩,
   ⟨40, by decide +kernel⟩,
   ⟨(let s := (let s := base.setCmu 3 { CmuUnit.reset with sagHold := true }; { s with mem := { s.mem with scrubPaused := true } }); { s with pwr := { s.pwr with sag := true, reduced := true, sagLim := [(0, 12), (3, 12)] } }),
       by decide +kernel⟩,
   ⟨base, by decide +kernel⟩,
   ⟨{ base with time := 2 ^ 64 - 500 }, by decide +kernel⟩,
   ⟨{ base with time := 2 ^ 64 - 500 }, by decide +kernel⟩,
   ⟨{ base with time := 5000000 }, by decide +kernel⟩,
   ⟨{ base with time := 5000001 }, by decide +kernel⟩⟩

theorem witness_Resets :
    (∃ (s : State), s.pads.porHeld = false ∧ s.pads.inReset = false ∧ s.pads.lastCause = none) ∧
    (∃ (d : Nat), 1 ≤ d ∧ d ≤ 40) ∧
    (∃ (n : Nat), n < 96) ∧
    (∃ (s : State), s.pads.thermalHold = true) ∧
    (∃ (s : State), s.pads.perstLow = true) ∧
    (∃ (s : State), s.pads.modRstLow = true) ∧
    (∃ (s : State), s.pads.porHeld = true) ∧
    (∃ (v : Nat) (s : State), 40000 ≤ v ∧ s.pads.porHeld = false ∧ s.pads.vinOk = false) ∧
    (∃ (v : Nat), v < 40000) ∧
    (∃ (s : State), s.pads.bootDue = true ∧ s.pads.inReset = false ∧ s.pads.porHeld = false ∧ s.sec.lifecycle ≠ 3) ∧
    (∃ (s : State), s.pads.bootDue = true ∧ s.pads.inReset = false ∧ s.pads.porHeld = false ∧ s.sec.lifecycle = 3) :=
  ⟨⟨{ base.setInst 1 { Inst.zero with st := .active, res := ResRec.inst0 } with time := 77 }, by decide +kernel⟩,
   ⟨40, by decide +kernel⟩,
   ⟨95, by decide +kernel⟩,
   ⟨(let s := base; { s with pads := { s.pads with thermalHold := true, inReset := true } }), by decide +kernel⟩,
   ⟨(let s := base; { s with pads := { s.pads with perstLow := true, inReset := true } }), by decide +kernel⟩,
   ⟨(let s := base; { s with pads := { s.pads with modRstLow := true, inReset := true, perstLow := true } }), by decide +kernel⟩,
   ⟨(let s := base |> logEvent 0x0301 3 0 5 none |> logEvent 0x0302 3 0 6 none; { s with pads := { s.pads with porHeld := true, rolePad := true, i3cPad := 2, inReset := true } }),
       by decide +kernel⟩,
   ⟨41999, (let s := base; { s with pads := { s.pads with vinOk := false, railsOk := false, inReset := true } }), by decide +kernel⟩,
   ⟨39999, by decide +kernel⟩,
   ⟨(let s := base; { s with pads := { s.pads with bootDue := true, booted := false } }), by decide +kernel⟩,
   ⟨(let s := (let s := base; { s with pads := { s.pads with bootDue := true, booted := false } }); { s with sec := { s.sec with lifecycle := 3 } }),
       by decide +kernel⟩⟩

theorem witness_RegisterWrites :
    (∃ (fn : Nat) (off : Nat) (s : State), barReserved s fn off = true) ∧
    (∃ (fn : Nat) (port : Nat) (off : Nat) (d : List Byte) (s : State), s.pads.inReset = false ∧ fn ≤ 255 ∧ port ≤ 1 ∧ d ≠ [] ∧ off < 2 ^ 26 ∧
        barReserved s fn off = false ∧ writeAdmitted off d.length = false) ∧
    (∃ (fn : Nat) (port : Nat) (s : State), s.pads.inReset = false ∧ fn ≤ 255 ∧ port ≤ 1 ∧ barReserved s fn 0x00C = false) ∧
    (∃ (fn : Nat) (port : Nat) (s : State), s.pads.inReset = false ∧ fn ≤ 255 ∧ port ≤ 1 ∧ barReserved s fn 0x058 = false) ∧
    (∃ (fn : Nat) (port : Nat) (k : Nat) (d : List Byte) (s : State), s.pads.inReset = false ∧ fn ≤ 255 ∧ port ≤ 1 ∧ d ≠ [] ∧ k < 64 ∧
        alignedWrite (0x1000 + k) d.length 64 = true) ∧
    (∃ (fn : Nat) (port : Nat) (w : W32) (s : State), s.pads.inReset = false ∧ fn ≤ 255 ∧ port ≤ 1 ∧ w.getLsbD 0 = true) ∧
    (∃ (fn : Nat) (s : State), s.sec.recovery = false ∧ awake s = true ∧ (s.getMbx fn).st = .busy) ∧
    (∃ (fn : Nat) (w : W32) (s : State), s.sec.recovery = false ∧ awake s = true ∧ (s.getMbx fn).st ≠ .busy ∧
        (s.getMbx fn).lastSeq = some (s.getMbx fn).seq ∧ w.getLsbD 31 = false) ∧
    (∃ (fn : Nat) (s : State), s.sec.recovery = false ∧ awake s = true ∧ (s.getMbx fn).st ≠ .busy ∧
        (s.getMbx fn).lastSeq ≠ some (s.getMbx fn).seq ∧ (s.getMbx fn).cmd.toNat % 256 = 0x01) ∧
    (∃ (fn : Nat) (s : State), s.sec.recovery = false ∧ awake s = true ∧ (s.getMbx fn).st ≠ .busy ∧ s.pads.booted = true ∧
        s.mp.arbitrating = false ∧ quiesced s = false ∧ (s.getMbx fn).lastSeq ≠ some (s.getMbx fn).seq ∧
        mbxOps.contains ((s.getMbx fn).cmd.toNat % 256) = false) ∧
    (∃ (u : Nat) (k : Nat) (acc : Nat) (off : Nat) (d : List Byte) (s : State), u < 4 ∧ k < 64 ∧ (s.ctx u k).inst = acc ∧
        (((s.ctx u k).st = .opened ∨ (s.ctx u k).st = .done)) ∧ 0x40 ≤ off ∧ off + d.length ≤ 0x80) ∧
    (∃ (u : Nat) (k : Nat) (acc : Nat) (s : State), u < 4 ∧ k < 64 ∧ (s.ctx u k).inst = acc ∧ (s.ctx u k).st = .active) ∧
    (∃ (u : Nat) (k : Nat) (acc : Nat) (s : State), u < 4 ∧ k < 64 ∧ (s.ctx u k).st ≠ .free ∧ (s.ctx u k).inst ≠ acc) :=
  ⟨⟨1, 0x2000, base, by decide +kernel⟩,
   ⟨1, 0, 0x1001, [1, 2, 3], base, by decide +kernel⟩,
   ⟨255, 1, (base.setInst 255 Inst.zero).setHaw 255 { events := 7, en := 0, vector := 0, port := 0 }, by decide +kernel⟩,
   ⟨255, 1, base.setInst 255 Inst.zero, by decide +kernel⟩,
   ⟨255, 1, 60, [1, 2, 3, 4], base, by decide +kernel⟩,
   ⟨0, 1, 0x80000001, base.setMbx 0 { Mbx.reset with cmd := 1, seq := 5 }, by decide +kernel⟩,
   ⟨0, base.setMbx 0 { Mbx.reset with st := .busy }, by decide +kernel⟩,
   ⟨0, 1, base.setMbx 0 { Mbx.reset with st := .idle, seq := 5, lastSeq := some 5, cache := (.error, 3, 0, 7, [1, 2]) }, by decide +kernel⟩,
   ⟨0, base.setMbx 0 { Mbx.reset with cmd := 1, seq := 5 }, by decide +kernel⟩,
   ⟨0, base.setMbx 0 { Mbx.reset with cmd := 0x99, seq := 5 }, by decide +kernel⟩,
   ⟨3, 63, 2, 0x44, [1, 2, 3, 4], base.setCtx 3 63 { Ctx.free with st := .opened, inst := 2 }, by decide +kernel⟩,
   ⟨3, 63, 2, base.setCtx 3 63 { Ctx.free with st := .active, inst := 2 }, by decide +kernel⟩,
   ⟨3, 63, 3, base.setCtx 3 63 { Ctx.free with st := .active, inst := 2 }, by decide +kernel⟩⟩

theorem witness_HostPorts :
    (∃ (p : Nat), p ≤ 1) ∧
    (∃ (p : Nat) (m : HostMsg) (s : State), (s.hostPort p).up = false ∧ (((s.hostPort p).absent = false ∨ m.isRead = false))) ∧
    (∃ (p : Nat) (s : State), p ≤ 1 ∧ (s.hostPort p).up = false ∧ (s.hostPort p).absent = false ∧ s.ring.cmds = [] ∧ s.ring.sqs = [] ∧
        s.fronds = []) ∧
    (∃ (p : Nat) (i : Nat) (n : Nat) (q : Sq) (s : State), p ≤ 1 ∧ (s.hostPort p).up = false ∧ (s.hostPort p).absent = false ∧ s.ring.cmds = [] ∧
        s.fronds = [] ∧ n < 8192 ∧ s.ring.sqs = [(sqKey i n, q)] ∧ q.port = p ∧ fetchPending q = true) ∧
    (∃ (p : Nat) (s : State), p ≤ 1 ∧ (((s.hostPort p).up = true ∨ (s.hostPort p).absent = true))) ∧
    (∃ (p : Nat) (m : HostMsg) (s : State), (s.hostPort p).up = false ∧ (s.hostPort p).absent = true ∧ m.isRead = true) ∧
    (∃ (p : Nat) (s : State), p ≤ 1 ∧ (s.hostPort p).up = false ∧ ((∀ e ∈ s.ring.cmds, ∀ c, e.2 = some c → c.phase ≠ .writeWait))) ∧
    (∃ (p : Nat), p ≤ 1) ∧
    (∃ (p : Nat), 2 ≤ p) ∧
    (∃ (a : Nat) (d : List Byte) (t : State) (s : State), inCxl s a = true ∧ devReadN 0 (a / 64 * 64) 64 (cxlSeen s) = (d, none, t)) ∧
    (∃ (a : Nat) (d : List Byte) (x : Nat) (t : State) (s : State), inCxl s a = true ∧
        devReadN 0 (a / 64 * 64) 64 (cxlSeen s) = (d, some (.poison, x), t)) ∧
    (∃ (a : Nat) (d : List Byte) (x : Nat) (t : State) (s : State), inCxl s a = true ∧ cxlSystem s (a / 64 * 64) = true ∧
        devReadN 0 (a / 64 * 64) 64 (cxlSeen s) = (d, some (.colour, x), t)) ∧
    (∃ (a : Nat) (d : List Byte) (x : Nat) (t : State) (s : State), inCxl s a = true ∧ cxlSystem s (a / 64 * 64) = false ∧
        devReadN 0 (a / 64 * 64) 64 (cxlSeen s) = (d, some (.colour, x), t)) ∧
    (∃ (a : Nat) (s : State), inCxl s a = false) ∧
    (∃ (a : Nat) (d : List Byte) (t : State) (s : State), inCxl s a = true ∧ d ≠ [] ∧ a % 64 + d.length ≤ 64 ∧
        devWriteN 0 a d (cxlSeen s) = (none, t)) :=
  ⟨⟨1, by decide +kernel⟩,
   ⟨1, (.write 1 0 64 [1] : HostMsg), base.setHostPort 1 { up := false, absent := false, waitQ := [] }, by decide +kernel⟩,
   ⟨1, base.setHostPort 1 { up := false, absent := false, waitQ := [.write 1 0 64 [1]] }, by decide +kernel⟩,
   ⟨1, 2, 8191, ({ Sq.absent with st := .active, tail := 2, port := 1, reads := [0] } : Sq),
       (base.setHostPort 1 { up := false, absent := false, waitQ := [.write 1 0 64 [1]] }).setSq 2 8191 ({ Sq.absent with st := .active, tail := 2, port := 1, reads := [0] } : Sq),
       by decide +kernel⟩,
   ⟨1, base, by decide +kernel⟩,
   ⟨1, (.read 1 0 64 64 : HostMsg), base.setHostPort 1 { up := false, absent := true, waitQ := [] }, by decide +kernel⟩,
   ⟨1, base.setHostPort 1 { up := false, absent := false, waitQ := [.write 1 0 64 [1]] }, by decide +kernel⟩,
   ⟨1, by decide +kernel⟩,
   ⟨2, by decide +kernel⟩,
   ⟨2097152 + 5,
       (devReadN 0 2097152 64 (cxlSeen (setLeaf 0 1 (leafOf 0 5 true) (let s := (base.setInst 0 { Inst.zero with res := { ResRec.inst0 with dataPages := 4 } }); { s with mem := { s.mem with frames := [(5, { Frame.reset with st := .owned, owner := some 0 })] } })))).1,
       (devReadN 0 2097152 64 (cxlSeen (setLeaf 0 1 (leafOf 0 5 true) (let s := (base.setInst 0 { Inst.zero with res := { ResRec.inst0 with dataPages := 4 } }); { s with mem := { s.mem with frames := [(5, { Frame.reset with st := .owned, owner := some 0 })] } })))).2.2,
       (setLeaf 0 1 (leafOf 0 5 true) (let s := (base.setInst 0 { Inst.zero with res := { ResRec.inst0 with dataPages := 4 } }); { s with mem := { s.mem with frames := [(5, { Frame.reset with st := .owned, owner := some 0 })] } })),
       by decide +kernel⟩,
   ⟨2097152 + 5,
       (devReadN 0 2097152 64 (cxlSeen (setLeaf 0 1 (leafOf 0 5 true) (let s := (base.setInst 0 { Inst.zero with res := { ResRec.inst0 with dataPages := 4 } }); { s with mem := { s.mem with frames := [(5, { Frame.reset with st := .owned, owner := some 0 })], poison := [((5 * 2097152) / 32, true)] } })))).1,
       2097152,
       (devReadN 0 2097152 64 (cxlSeen (setLeaf 0 1 (leafOf 0 5 true) (let s := (base.setInst 0 { Inst.zero with res := { ResRec.inst0 with dataPages := 4 } }); { s with mem := { s.mem with frames := [(5, { Frame.reset with st := .owned, owner := some 0 })], poison := [((5 * 2097152) / 32, true)] } })))).2.2,
       (setLeaf 0 1 (leafOf 0 5 true) (let s := (base.setInst 0 { Inst.zero with res := { ResRec.inst0 with dataPages := 4 } }); { s with mem := { s.mem with frames := [(5, { Frame.reset with st := .owned, owner := some 0 })], poison := [((5 * 2097152) / 32, true)] } })),
       by decide +kernel⟩,
   ⟨2097152 + 5,
       (devReadN 0 2097152 64 (cxlSeen (setLeaf 0 1 (leafOf 0 190000 true) (let s := (base.setInst 0 { Inst.zero with res := { ResRec.inst0 with dataPages := 4 } }); { s with mem := { s.mem with sysUp := true } })))).1,
       2097152,
       (devReadN 0 2097152 64 (cxlSeen (setLeaf 0 1 (leafOf 0 190000 true) (let s := (base.setInst 0 { Inst.zero with res := { ResRec.inst0 with dataPages := 4 } }); { s with mem := { s.mem with sysUp := true } })))).2.2,
       (setLeaf 0 1 (leafOf 0 190000 true) (let s := (base.setInst 0 { Inst.zero with res := { ResRec.inst0 with dataPages := 4 } }); { s with mem := { s.mem with sysUp := true } })),
       by decide +kernel⟩,
   ⟨2097152 + 5,
       (devReadN 0 2097152 64 (cxlSeen (setLeaf 0 1 (leafOf 0 5 true) (let s := (base.setInst 0 { Inst.zero with res := { ResRec.inst0 with dataPages := 4 } }); { s with mem := { s.mem with frames := [(5, { Frame.reset with st := .owned, owner := some 0 })], cwCol := [((5 * 2097152) / 32, some 9)] } })))).1,
       2097152,
       (devReadN 0 2097152 64 (cxlSeen (setLeaf 0 1 (leafOf 0 5 true) (let s := (base.setInst 0 { Inst.zero with res := { ResRec.inst0 with dataPages := 4 } }); { s with mem := { s.mem with frames := [(5, { Frame.reset with st := .owned, owner := some 0 })], cwCol := [((5 * 2097152) / 32, some 9)] } })))).2.2,
       (setLeaf 0 1 (leafOf 0 5 true) (let s := (base.setInst 0 { Inst.zero with res := { ResRec.inst0 with dataPages := 4 } }); { s with mem := { s.mem with frames := [(5, { Frame.reset with st := .owned, owner := some 0 })], cwCol := [((5 * 2097152) / 32, some 9)] } })),
       by decide +kernel⟩,
   ⟨2 ^ 40, base, by decide +kernel⟩,
   ⟨2097152 + 5, [1, 2], (devWriteN 0 (2097152 + 5) [1,
       2] (cxlSeen (setLeaf 0 1 (leafOf 0 5 true) (let s := (base.setInst 0 { Inst.zero with res := { ResRec.inst0 with dataPages := 4 } }); { s with mem := { s.mem with frames := [(5, { Frame.reset with st := .owned, owner := some 0 })] } })))).2,
       (setLeaf 0 1 (leafOf 0 5 true) (let s := (base.setInst 0 { Inst.zero with res := { ResRec.inst0 with dataPages := 4 } }); { s with mem := { s.mem with frames := [(5, { Frame.reset with st := .owned, owner := some 0 })] } })),
       by decide +kernel⟩⟩

theorem witness_FrameBytesAgree :
    (∃ f : RFrame, Fits f ∧ f.payload ≠ []) :=
  ⟨⟨255, 255, 255, 255, 0xFFFFFFFF, 4294967295, 7, [1, 2]⟩, ⟨by decide, by decide, by decide, by decide, by decide, by decide⟩, by decide⟩

theorem witness_FramesPassThrough :
    (∃ (l : Nat) (x : FrameIn) (s : State), Arrives ftMgmt l x s ∧ x.hopIdx + 1 ≠ x.hops) ∧
    (∃ (c : Instr) (ft : _) (l : Nat) (x : FrameIn) (s : State), (((c = Instr.planFrame l x ∧ ft = ftPlan) ∨ (c = .fanoutFrame l x ∧
        ft = ftFanout) ∨ (c = .endFrame l x ∧ ft = ftEnd) ∨ (c = .ackFrame l x ∧ ft = ftAckf) ∨ (c = .failFrame l x ∧
        ft = ftFail) ∨ (c = .stopFrame l x ∧ ft = ftStop) ∨ (c = .barrierArmFrame l x ∧ ft = ftBarrier) ∨ (c = .telemFrame l x ∧ ft = ftTelem))) ∧
        Arrives ft l x s ∧ x.hopIdx + 1 ≠ x.hops) ∧
    (∃ (l : Nat) (x : FrameIn) (s : State), Arrives ftXdata l x s ∧ x.hopIdx + 1 ≠ x.hops) ∧
    (∃ (f : RFrame) (s : State), (s.link (nibble f.route f.hopIdx)).st = .down) ∧
    (∃ (l : Nat) (s : State), (s.link l).st ≠ .up) :=
  ⟨⟨3, ({ hops := 2, hopIdx := 0, inst := 0, route := 0, fseq := 7, xid := 0, payload := [1, 2] } : FrameIn),
      linked,
      arrives_of (fits_of (by decide +kernel)) (by decide +kernel), by decide +kernel⟩,
   ⟨(.telemFrame 3 ({ hops := 2, hopIdx := 0, inst := 0, route := 0, fseq := 7, xid := 0, payload := [1, 2] } : FrameIn)), ftTelem, 3,
       ({ hops := 2, hopIdx := 0, inst := 0, route := 0, fseq := 7, xid := 0, payload := [1, 2] } : FrameIn),
       linked, .inr (.inr (.inr (.inr (.inr (.inr (.inr ⟨rfl,
       rfl⟩)))))), arrives_of (fits_of (by decide +kernel)) (by decide +kernel), by decide +kernel⟩,
   ⟨3, ({ hops := 2, hopIdx := 0, inst := 0, route := 0, fseq := 7, xid := 0, payload := [1, 2] } : FrameIn),
       linked,
       arrives_of (fits_of (by decide +kernel)) (by decide +kernel), by decide +kernel⟩,
   ⟨({ ftype := 1, hops := 2, hopIdx := 1, inst := 0, route := 0x50, fseq := 1, xid := 0, payload := [] } : RFrame),
       linked, by decide +kernel⟩,
   ⟨5, linked, by decide +kernel⟩⟩

theorem witness_HierarchyFrames :
    (∃ (l : Nat) (x : FrameIn) (s : State), ForUs ftMgmt l x s ∧ acceptsHello s (gotBy ftMgmt l x) = true) ∧
    (∃ (l : Nat) (x : FrameIn) (s : State), ForUs ftMgmt l x s ∧ acceptsHello s (gotBy ftMgmt l x) = false) ∧
    (∃ (l : Nat) (x : FrameIn) (s : State), ForUs ftMgmt l x s ∧ s.lnk.seen.contains (routeKey (gotBy ftMgmt l x).back x.hops, x.fseq) = false ∧
        s.lnk.adopted = true) ∧
    (∃ (l : Nat) (x : FrameIn) (s : State), ForUs ftMgmt l x s ∧ s.lnk.seen.contains (routeKey (gotBy ftMgmt l x).back x.hops, x.fseq) = false ∧
        s.lnk.adopted = true ∧ s.lnk.mgrUid.toNat = leAt x.payload 8 16) ∧
    (∃ (l : Nat) (x : FrameIn) (j : Nat) (s : State), ForUs ftTelem l x s ∧
        s.lnk.seen.contains (routeKey (gotBy ftTelem l x).back x.hops, x.fseq) = false ∧ workerAt s.lnk.workers (gotBy ftTelem l x) = some j) ∧
    (∃ (l : Nat) (x : FrameIn) (y : SentFrame) (s : State), ForUs ftAckf l x s ∧ s.lnk.sent = [y] ∧ y.frame.route = (gotBy ftAckf l x).back ∧
        y.frame.hops = x.hops ∧ y.frame.fseq = leAt x.payload 0 4 ∧ ((y.frame.ftype = ftPlan ∨ y.frame.ftype = ftFail ∨ y.frame.ftype = ftTelem))) ∧
    (∃ (l : Nat) (x : FrameIn) (s : State), ForUs ftAckf l x s ∧ s.lnk.sent = []) ∧
    (∃ (l : Nat) (x : FrameIn) (s : State), ForUs ftPlan l x s ∧ s.lnk.seen.contains (routeKey (gotBy ftPlan l x).back x.hops, x.fseq) = false ∧
        leAt x.payload 0 1 = 1 ∧ leAt x.payload 8 4 = 0 ∧ x.payload.length - 16 < leAt x.payload 12 4) ∧
    (∃ (l : Nat) (x : FrameIn) (s : State), ForUs ftPlan l x s ∧ s.lnk.seen.contains (routeKey (gotBy ftPlan l x).back x.hops, x.fseq) = false ∧
        leAt x.payload 0 1 = 1 ∧ leAt x.payload 8 4 ≠ 0 ∧ leAt x.payload 8 4 ≠ (planGot s x.inst (leAt x.payload 4 4)).length) ∧
    (∃ (l : Nat) (x : FrameIn) (s : State), ForUs ftPlan l x s ∧ s.lnk.seen.contains (routeKey (gotBy ftPlan l x).back x.hops, x.fseq) = true) ∧
    (∃ (c : Instr) (ft : _) (l : Nat) (x : FrameIn) (s : State), (((c = Instr.fanoutFrame l x ∧ ft = ftFanout) ∨ (c = .endFrame l x ∧
        ft = ftEnd) ∨ (c = .failFrame l x ∧ ft = ftFail) ∨ (c = .barrierArmFrame l x ∧ ft = ftBarrier))) ∧ ForUs ft l x s ∧
        s.lnk.seen.contains (routeKey (gotBy ft l x).back x.hops, x.fseq) = false ∧ (s.inst x.inst).st = .absent) ∧
    (∃ (l : Nat) (x : FrameIn) (s : State), ForUs ftXdata l x s ∧ s.lnk.seen.contains (routeKey (gotBy ftXdata l x).back x.hops, x.fseq) = false ∧
        (s.inst x.inst).st = .absent) :=
  ⟨⟨3, helloIn, linked, forUs_of (arrives_of (fits_of (by decide +kernel)) (by decide +kernel)) (by decide +kernel), hello_accepted⟩,
   ⟨3, ({ hops := 1, hopIdx := 0, inst := 0, route := 0, fseq := 7, xid := 0, payload := (leBytes 1 1 ++ leBytes 1 1 ++ zeros 6 ++ leBytes 99 16 ++ leBytes Config.uid.toNat 16) } : FrameIn),
       (let s := linked; { s with lnk := { s.lnk with manager := true } }),
       forUs_of (arrives_of (fits_of (by decide +kernel)) (by decide +kernel)) (by decide +kernel), by decide +kernel⟩,
   ⟨3, ({ hops := 1, hopIdx := 0, inst := 0, route := 0, fseq := 7, xid := 0, payload := (leBytes 2 1 ++ leBytes 4 1 ++ leBytes 2 1 ++ zeros 5 ++ leBytes 0x12 4 ++ leBytes 2 4 ++ leBytes 0x345 4 ++ leBytes 3 4) } : FrameIn),
       (let s := linked; { s with lnk := { s.lnk with adopted := true, mgrUid := 99 } }),
       forUs_of (arrives_of (fits_of (by decide +kernel)) (by decide +kernel)) (by decide +kernel), by decide +kernel⟩,
   ⟨3, ({ hops := 1, hopIdx := 0, inst := 0, route := 0, fseq := 7, xid := 0, payload := (leBytes 3 1 ++ zeros 7 ++ leBytes 99 16) } : FrameIn),
       (let s := linked; { s with lnk := { s.lnk with adopted := true, mgrUid := 99 } }),
       forUs_of (arrives_of (fits_of (by decide +kernel)) (by decide +kernel)) (by decide +kernel), by decide +kernel⟩,
   ⟨3, ({ hops := 1, hopIdx := 0, inst := 0, route := 0, fseq := 7, xid := 0, payload := (zeros 64 ++ leBytes 7 4 ++ leBytes 8 4 ++ leBytes 9 4) } : FrameIn),
       0, (let s := linked; { s with lnk := { s.lnk with workers := [⟨5, (gotBy ftTelem 3 ({ hops := 1, hopIdx := 0, inst := 0, route := 0, fseq := 7, xid := 0, payload := [1, 2] } : FrameIn)).back, 1, [], true⟩] } }),
       forUs_of (arrives_of (fits_of (by decide +kernel)) (by decide +kernel)) (by decide +kernel), by decide +kernel⟩,
   ⟨3, ({ hops := 1, hopIdx := 0, inst := 0, route := 0, fseq := 7, xid := 0, payload := (leBytes 21 4) } : FrameIn),
       ({ frame := { ftype := ftPlan, hops := 1, hopIdx := 0, inst := 0, route := (gotBy ftAckf 3 ({ hops := 1, hopIdx := 0, inst := 0, route := 0, fseq := 7, xid := 0, payload := [1, 2] } : FrameIn)).back, fseq := 21, xid := 0, payload := [] }, level := 1, sentAt := 0 } : SentFrame),
       (let s := linked; { s with lnk := { s.lnk with sent := [{ frame := { ftype := ftPlan, hops := 1, hopIdx := 0, inst := 0, route := (gotBy ftAckf 3 ({ hops := 1, hopIdx := 0, inst := 0, route := 0, fseq := 7, xid := 0, payload := [1, 2] } : FrameIn)).back, fseq := 21, xid := 0, payload := [] }, level := 1, sentAt := 0 }] } }),
       forUs_of (arrives_of (fits_of (by decide +kernel)) (by decide +kernel)) (by decide +kernel), by decide +kernel⟩,
   ⟨3, ({ hops := 1, hopIdx := 0, inst := 0, route := 0, fseq := 7, xid := 0, payload := (leBytes 21 4) } : FrameIn),
       linked,
       forUs_of (arrives_of (fits_of (by decide +kernel)) (by decide +kernel)) (by decide +kernel), by decide +kernel⟩,
   ⟨3, ({ hops := 1, hopIdx := 0, inst := 0, route := 0, fseq := 7, xid := 0, payload := (leBytes 1 4 ++ leBytes 5 4 ++ leBytes 0 4 ++ leBytes 9 4 ++ leBytes 0xAABBCC 3) } : FrameIn),
       linked,
       forUs_of (arrives_of (fits_of (by decide +kernel)) (by decide +kernel)) (by decide +kernel), by decide +kernel⟩,
   ⟨3, ({ hops := 1, hopIdx := 0, inst := 0, route := 0, fseq := 7, xid := 0, payload := (leBytes 1 4 ++ leBytes 5 4 ++ leBytes 4 4 ++ leBytes 9 4 ++ leBytes 0xAABBCC 3) } : FrameIn),
       linked,
       forUs_of (arrives_of (fits_of (by decide +kernel)) (by decide +kernel)) (by decide +kernel), by decide +kernel⟩,
   ⟨3, ({ hops := 1, hopIdx := 0, inst := 0, route := 0, fseq := 7, xid := 0, payload := (leBytes 1 4 ++ leBytes 5 4 ++ leBytes 4 4 ++ leBytes 9 4 ++ leBytes 0xAABBCC 3) } : FrameIn),
       (let s := linked; { s with lnk := { s.lnk with seen := [(routeKey ((gotBy ftPlan 3 ({ hops := 1, hopIdx := 0, inst := 0, route := 0, fseq := 7, xid := 0, payload := [1, 2] } : FrameIn)).back) 1, 7)] } }),
       forUs_of (arrives_of (fits_of (by decide +kernel)) (by decide +kernel)) (by decide +kernel), by decide +kernel⟩,
   ⟨(.endFrame 3 ({ hops := 1, hopIdx := 0, inst := 9, route := 0, fseq := 7, xid := 0, payload := [1, 2] } : FrameIn)), ftEnd, 3,
       ({ hops := 1, hopIdx := 0, inst := 9, route := 0, fseq := 7, xid := 0, payload := [1, 2] } : FrameIn),
       linked, .inr (.inl ⟨rfl, rfl⟩),
       forUs_of (arrives_of (fits_of (by decide +kernel)) (by decide +kernel)) (by decide +kernel), by decide +kernel⟩,
   ⟨3, ({ hops := 1, hopIdx := 0, inst := 9, route := 0, fseq := 7, xid := 0, payload := [1, 2] } : FrameIn),
       linked,
       forUs_of (arrives_of (fits_of (by decide +kernel)) (by decide +kernel)) (by decide +kernel), by decide +kernel⟩⟩

theorem witness_FanOutFrames :
    (∃ (l : Nat) (x : FrameIn) (s : State), ForUs ftFanout l x s ∧
        s.lnk.seen.contains (routeKey (gotBy ftFanout l x).back x.hops, x.fseq) = false ∧ (s.inst x.inst).st = .active ∧
        boundPlan s x.inst (leAt x.payload 8 4) = none) ∧
    (∃ (l : Nat) (x : FrameIn) (s : State), ForUs ftFanout l x s ∧
        s.lnk.seen.contains (routeKey (gotBy ftFanout l x).back x.hops, x.fseq) = false ∧ (s.inst x.inst).st = .active) ∧
    (∃ (l : Nat) (x : FrameIn) (f : Fan) (w : Nat) (s : State), ForFan ftEnd l x f s ∧ f.top = true ∧
        workerAt (fanWorkers s f) (gotBy ftEnd l x) = some w) ∧
    (∃ (l : Nat) (x : FrameIn) (f : Fan) (w : Nat) (s : State), ForFan ftFail l x f s ∧ f.top = false ∧
        workerAt (fanWorkers s f) (gotBy ftFail l x) = some w) ∧
    (∃ (l : Nat) (x : FrameIn) (f : Fan) (s : State), ForFan ftStop l x f s ∧ f.top = false ∧ f.slot = none ∧ f.owed = [] ∧ fanWorkers s f = []) ∧
    (∃ (l : Nat) (x : FrameIn) (s : State), ForUs ftStop l x s ∧ s.lnk.seen.contains (routeKey (gotBy ftStop l x).back x.hops, x.fseq) = false) ∧
    (∃ (l : Nat) (x : FrameIn) (f : Fan) (s : State), ForFan ftBarrier l x f s ∧ f.slot = none ∧ fanWorkers s f = []) ∧
    (∃ (xid : Nat) (f : Fan) (s : State), fanBy s (BitVec.ofNat 64 xid) = some f ∧ f.top = true ∧ f.stopped = true ∧ stopAnswered s f = false ∧
        f.lastFrame + 10000000 ≤ s.time) ∧
    (∃ (xid : Nat) (s : State), fanBy s (BitVec.ofNat 64 xid) = none) ∧
    (∃ (xid : Nat) (f : Fan) (s : State), fanBy s (BitVec.ofNat 64 xid) = some f ∧ f.top = false ∧ f.slot = none ∧ f.lastFrame + 100000000 ≤ s.time) ∧
    (∃ (xid : Nat) (f : Fan) (k : Nat) (s : State), fanBy s (BitVec.ofNat 64 xid) = some f ∧ f.top = false ∧ f.slot = some k ∧
        f.lastFrame + 100000000 ≤ s.time) ∧
    (∃ (l : Nat) (x : FrameIn) (f : Fan) (c : Cmd) (q : QueryRun) (k : Nat) (r : Reasm) (t : State) (s : State), ForFan ftXdata l x f s ∧
        s.lnk.mgrRoute ≠ (gotBy ftXdata l x).back ∧ s.lnk.reasm = [] ∧ f.slot = some k ∧ liveQuery s k = some (c, q) ∧
        sentTypes q.plan (leAt x.payload 2 1) ≠ [] ∧ leAt x.payload 3 1 = 0 ∧ leAt x.payload 4 1 = 1 ∧ leAt x.payload 8 4 = 0 ∧
        leAt x.payload 12 4 = 0 ∧ 25 ≤ x.payload.length ∧
        storeSegment k (newReasm (gotBy ftXdata l x) (leAt x.payload 2 1) (leAt x.payload 0 2)) (x.payload.drop 24) (ackGot (gotBy ftXdata l x) (markSeen (gotBy ftXdata l x) s)) = (.ok r, t)) ∧
    (∃ (l : Nat) (x : FrameIn) (f : Fan) (c : Cmd) (q : QueryRun) (k : Nat) (t : State) (s : State), ForFan ftXdata l x f s ∧
        s.lnk.mgrRoute ≠ (gotBy ftXdata l x).back ∧ s.lnk.reasm = [] ∧ f.slot = some k ∧ liveQuery s k = some (c, q) ∧
        sentTypes q.plan (leAt x.payload 2 1) ≠ [] ∧ leAt x.payload 3 1 = 0 ∧ leAt x.payload 4 1 = 1 ∧ leAt x.payload 8 4 = 0 ∧
        leAt x.payload 12 4 = 0 ∧ 25 ≤ x.payload.length ∧
        storeSegment k (newReasm (gotBy ftXdata l x) (leAt x.payload 2 1) (leAt x.payload 0 2)) (x.payload.drop 24) (ackGot (gotBy ftXdata l x) (markSeen (gotBy ftXdata l x) s)) = (.error stExhausted, t)) :=
  ⟨⟨3, ({ hops := 1, hopIdx := 0, inst := 0, route := 0, fseq := 7, xid := 77, payload := (zeros 8 ++ leBytes 6 4) } : FrameIn),
      linked,
      forUs_of (arrives_of (fits_of (by decide +kernel)) (by decide +kernel)) (by decide +kernel), by decide +kernel⟩,
   ⟨3, ({ hops := 1, hopIdx := 0, inst := 0, route := 0, fseq := 7, xid := 77, payload := (zeros 8 ++ leBytes 6 4) } : FrameIn),
       linked,
       forUs_of (arrives_of (fits_of (by decide +kernel)) (by decide +kernel)) (by decide +kernel), by decide +kernel⟩,
   ⟨3, ({ hops := 1, hopIdx := 0, inst := 0, route := 0, fseq := 7, xid := 77, payload := [4] } : FrameIn),
       ({ ({ xid := 77, inst := 0, top := false, slot := none, ends := [], stopAcks := [], armAcks := [], armed := [], stopped := false, status := none, lastFrame := 0, params := [], owed := [] } : Fan) with top := true } : Fan),
       0, (let s := linked; { s with lnk := { s.lnk with fans := [({ ({ xid := 77, inst := 0, top := false, slot := none, ends := [], stopAcks := [], armAcks := [], armed := [], stopped := false, status := none, lastFrame := 0, params := [], owed := [] } : Fan) with top := true } : Fan)], workers := [⟨5, (gotBy ftEnd 3 ({ hops := 1, hopIdx := 0, inst := 0, route := 0, fseq := 7, xid := 0, payload := [1, 2] } : FrameIn)).back, 1, [], true⟩] } }),
       forFan_of (arrives_of (fits_of (by decide +kernel)) (by decide +kernel)) (by decide +kernel), by decide +kernel⟩,
   ⟨3, ({ hops := 1, hopIdx := 0, inst := 0, route := 0, fseq := 7, xid := 77, payload := [4, 3] } : FrameIn),
       ({ xid := 77, inst := 0, top := false, slot := none, ends := [], stopAcks := [], armAcks := [], armed := [], stopped := false, status := none, lastFrame := 0, params := [], owed := [] } : Fan),
       0, (let s := linked.setLink 5 { Link.reset with st := .up }; { s with lnk := { s.lnk with fans := [({ xid := 77, inst := 0, top := false, slot := none, ends := [], stopAcks := [], armAcks := [], armed := [], stopped := false, status := none, lastFrame := 0, params := [], owed := [] } : Fan)], workers := [⟨5, (gotBy ftEnd 3 ({ hops := 1, hopIdx := 0, inst := 0, route := 0, fseq := 7, xid := 0, payload := [1, 2] } : FrameIn)).back, 1, [], true⟩], mgrRoute := 0x5, mgrHops := 1 } }),
       forFan_of (arrives_of (fits_of (by decide +kernel)) (by decide +kernel)) (by decide +kernel), by decide +kernel⟩,
   ⟨3, ({ hops := 1, hopIdx := 0, inst := 0, route := 0, fseq := 7, xid := 77, payload := [4, 3] } : FrameIn),
       ({ xid := 77, inst := 0, top := false, slot := none, ends := [], stopAcks := [], armAcks := [], armed := [], stopped := false, status := none, lastFrame := 0, params := [], owed := [] } : Fan),
       (let s := linked; { s with lnk := { s.lnk with fans := [({ xid := 77, inst := 0, top := false, slot := none, ends := [], stopAcks := [], armAcks := [], armed := [], stopped := false, status := none, lastFrame := 0, params := [], owed := [] } : Fan)] } }),
       forFan_of (arrives_of (fits_of (by decide +kernel)) (by decide +kernel)) (by decide +kernel), by decide +kernel⟩,
   ⟨3, ({ hops := 1, hopIdx := 0, inst := 0, route := 0, fseq := 7, xid := 77, payload := [4, 3] } : FrameIn),
       linked,
       forUs_of (arrives_of (fits_of (by decide +kernel)) (by decide +kernel)) (by decide +kernel), by decide +kernel⟩,
   ⟨3, ({ hops := 1, hopIdx := 0, inst := 0, route := 0, fseq := 7, xid := 77, payload := [4, 3] } : FrameIn),
       ({ xid := 77, inst := 0, top := false, slot := none, ends := [], stopAcks := [], armAcks := [], armed := [], stopped := false, status := none, lastFrame := 0, params := [], owed := [] } : Fan),
       (let s := linked; { s with lnk := { s.lnk with fans := [({ xid := 77, inst := 0, top := false, slot := none, ends := [], stopAcks := [], armAcks := [], armed := [], stopped := false, status := none, lastFrame := 0, params := [], owed := [] } : Fan)] } }),
       forFan_of (arrives_of (fits_of (by decide +kernel)) (by decide +kernel)) (by decide +kernel), by decide +kernel⟩,
   ⟨77, ({ ({ xid := 77, inst := 0, top := false, slot := none, ends := [], stopAcks := [], armAcks := [], armed := [], stopped := false, status := none, lastFrame := 0, params := [], owed := [] } : Fan) with top := true, stopped := true } : Fan),
       { (let s := linked; { s with lnk := { s.lnk with fans := [({ ({ xid := 77, inst := 0, top := false, slot := none, ends := [], stopAcks := [], armAcks := [], armed := [], stopped := false, status := none, lastFrame := 0, params := [], owed := [] } : Fan) with top := true, stopped := true } : Fan)], workers := [⟨5, 5, 1, [], true⟩] } }) with time := 10000000 },
       by decide +kernel⟩,
   ⟨77, linked, by decide +kernel⟩,
   ⟨77, ({ xid := 77, inst := 0, top := false, slot := none, ends := [], stopAcks := [], armAcks := [], armed := [], stopped := false, status := none, lastFrame := 0, params := [], owed := [] } : Fan),
       { (let s := linked; { s with lnk := { s.lnk with fans := [({ xid := 77, inst := 0, top := false, slot := none, ends := [], stopAcks := [], armAcks := [], armed := [], stopped := false, status := none, lastFrame := 0, params := [], owed := [] } : Fan)] } }) with time := 100000000 },
       by decide +kernel⟩,
   ⟨77, ({ ({ xid := 77, inst := 0, top := false, slot := none, ends := [], stopAcks := [], armAcks := [], armed := [], stopped := false, status := none, lastFrame := 0, params := [], owed := [] } : Fan) with slot := some 0 } : Fan),
       0, { (let s := withCmd (queryCmd 1 0 0 .running ({ query ({ plan0 with pipes := [⟨0, 0, 0, 1, 1, 0, 0, 3, 0, 0, 0⟩], ops := [⟨8, 0, 0, 0, 0, 0, 0, 0, 0, 0, .verify 0⟩] }) with inputs := [⟨0, 2, 1, 0, 3, 0, 0, [], true, ObjImage.empty⟩], pipes := [(0, { PipeRun.idle with started := true })] })); { s with lnk := { s.lnk with fans := [({ ({ xid := 77, inst := 0, top := false, slot := none, ends := [], stopAcks := [], armAcks := [], armed := [], stopped := false, status := none, lastFrame := 0, params := [], owed := [] } : Fan) with slot := some 0 } : Fan)] } }) with time := 100000000 },
       by decide +kernel⟩,
   ⟨3, xdataIn, gatherFan, gatherCmd, query gatherPlan, 0, gatherReasm, gatherStored.2, gatherRoom 9,
       forFan_of (arrives_of (fits_of (by decide +kernel)) (by decide +kernel)) (by decide +kernel), by decide +kernel, rfl, rfl,
       by decide +kernel, by decide +kernel, by decide +kernel, rfl, by decide +kernel, by decide +kernel, by decide +kernel, gather_stored⟩,
   ⟨3, xdataIn, gatherFan, gatherCmd, query gatherPlan, 0, ackGot (gotBy ftXdata 3 xdataIn) (markSeen (gotBy ftXdata 3 xdataIn) (gatherRoom 0)),
       gatherRoom 0, forFan_of (arrives_of (fits_of (by decide +kernel)) (by decide +kernel)) (by decide +kernel), by decide +kernel, rfl, rfl,
       by decide +kernel, by decide +kernel, by decide +kernel, rfl, by decide +kernel, by decide +kernel, by decide +kernel, gather_full⟩⟩

theorem witness_LinkFlits :
    (∃ (l : Nat) (x : FlitIn) (s : State), l < 16 ∧ s.pads.inReset = false ∧ (s.link l).st = .up ∧ x.crcOk = false ∧ (s.link l).naked = false) ∧
    (∃ (l : Nat) (x : FlitIn) (s : State), l < 16 ∧ s.pads.inReset = false ∧ (s.link l).st = .up ∧ x.crcOk = true ∧ x.ftype = 0 ∧
        (s.link l).window = [] ∧ (s.link l).sendQ = [] ∧ x.seq ≠ (s.link l).expSeq ∧ (s.link l).naked = false) ∧
    (∃ (l : Nat) (x : FlitIn) (s : State), l < 16 ∧ s.pads.inReset = false ∧ (s.link l).st = .up ∧ x.crcOk = true ∧ x.ftype = 0 ∧
        (s.link l).window = [] ∧ (s.link l).sendQ = [] ∧ x.seq = (s.link l).expSeq ∧ x.sof = false ∧ x.eof = false) ∧
    (∃ (l : Nat) (x : FlitIn) (s : State), l < 16 ∧ s.pads.inReset = false ∧ (s.link l).st = .training ∧ x.crcOk = true ∧ x.ftype = 3 ∧
        (s.link l).window = [] ∧ (s.link l).sendQ = []) ∧
    (∃ (l : Nat) (s : State), l < 16 ∧ s.pads.inReset = false ∧ (s.link l).st = .up ∧ (s.link l).window ≠ [] ∧ (s.link l).resends < 7) ∧
    (∃ (l : Nat) (s : State), l < 16 ∧ s.pads.inReset = false ∧ (s.link l).st = .up ∧ (s.link l).window ≠ [] ∧ (s.link l).resends = 7) ∧
    (∃ (l : Nat) (s : State), (s.link l).window = []) ∧
    (∃ (l : Nat) (s : State), l < 16 ∧ s.pads.inReset = false ∧ (s.link l).st = .up) ∧
    (∃ (l : Nat) (s : State), l < 16 ∧ (s.link l).st = .retraining ∧ (s.link l).sendQ = []) ∧
    (∃ (l : Nat) (s : State), l < 16 ∧ (s.link l).st = .retraining) ∧
    (∃ (f : RFrame), f.xid ≠ 0) ∧
    (∃ (l : Nat) (s : State), l < 16 ∧ (s.link l).st = .training) ∧
    (∃ (l : Nat) (s : State), l < 16 ∧ s.pads.inReset = false ∧ (s.link l).st = .down ∧ s.pwr.grants = [] ∧ s.pwr.revoked = [] ∧ s.pwr.waits = []) ∧
    (∃ (l : Nat) (s : State), (s.link l).st ≠ .down) ∧
    (∃ (x : SentFrame) (s : State), s.lnk.sent = [x] ∧ x.frame.ftype ≠ ftMgmt ∧ x.sentAt + 100000 ≤ s.time ∧
        (s.link (nibble x.frame.route 0)).st ≠ .down) ∧
    (∃ (x : SentFrame) (s : State), s.lnk.sent = [x] ∧ x.sentAt + 100000 ≤ s.time ∧ (s.link (nibble x.frame.route 0)).st = .down) ∧
    (∃ (s : State), s.lnk.sent = []) :=
  ⟨⟨15, ({ crcOk := false, ftype := 0, vc := 2, seq := 5, ackseq := 0, sof := false, eof := false, crd := 0, payload := [1, 2, 3] } : FlitIn),
      base.setLink 15 { Link.reset with st := .up, expSeq := 5 }, by decide +kernel⟩,
   ⟨15, ({ crcOk := true, ftype := 0, vc := 2, seq := 6, ackseq := 0, sof := false, eof := false, crd := 0, payload := [1, 2, 3] } : FlitIn),
       base.setLink 15 { Link.reset with st := .up, expSeq := 5 }, by decide +kernel⟩,
   ⟨15, ({ crcOk := true, ftype := 0, vc := 2, seq := 4095, ackseq := 0, sof := false, eof := false, crd := 0, payload := [1, 2, 3] } : FlitIn),
       base.setLink 15 { Link.reset with st := .up, expSeq := 4095, rx := [(2, [9])] }, by decide +kernel⟩,
   ⟨15, ({ crcOk := true, ftype := 3, vc := 2, seq := 5, ackseq := 0, sof := false, eof := false, crd := 0x20F, payload := [1, 2, 3] } : FlitIn),
       base.setLink 15 { Link.reset with st := .training, credits := [(2, 3)] }, by decide +kernel⟩,
   ⟨15, base.setLink 15 { Link.reset with st := .up, window := [{ vc := 2, seq := 9, sof := true, eof := true, payload := [], own := none }], resends := 6 },
       by decide +kernel⟩,
   ⟨15, base.setLink 15 { Link.reset with st := .up, window := [{ vc := 2, seq := 9, sof := true, eof := true, payload := [], own := none }], resends := 7 },
       by decide +kernel⟩,
   ⟨15, base.setLink 15 { Link.reset with st := .up, resends := 7 }, by decide +kernel⟩,
   ⟨15, base.setLink 15 { Link.reset with st := .up, resends := 7 }, by decide +kernel⟩,
   ⟨15, base.setLink 15 { Link.reset with st := .retraining, window := [{ vc := 2, seq := 9, sof := true, eof := true, payload := [], own := none }], resends := 3 },
       by decide +kernel⟩,
   ⟨15, (let s := base.setLink 15 { Link.reset with st := .retraining, window := [{ vc := 2, seq := 9, sof := true, eof := true, payload := [], own := none }], resends := 3 }; { s with lnk := { s.lnk with sent := [({ frame := { ftype := ftFail, hops := 1, hopIdx := 0, inst := 0, route := 15, fseq := 21, xid := 77, payload := [] }, level := 1, sentAt := 5 } : SentFrame)] } }),
       by decide +kernel⟩,
   ⟨({ frame := { ftype := ftFail, hops := 1, hopIdx := 0, inst := 0, route := 15, fseq := 21, xid := 77, payload := [] }, level := 1, sentAt := 5 } : SentFrame).frame,
       by decide +kernel⟩,
   ⟨15, base.setLink 15 { Link.reset with st := .training }, by decide +kernel⟩,
   ⟨15, base, by decide +kernel⟩,
   ⟨15, base.setLink 15 { Link.reset with st := .up, resends := 7 }, by decide +kernel⟩,
   ⟨({ frame := { ftype := ftFail, hops := 1, hopIdx := 0, inst := 0, route := 15, fseq := 21, xid := 77, payload := [] }, level := 1, sentAt := 5 } : SentFrame),
       { (let s := base.setLink 15 { Link.reset with st := .up, credits := [(1, 9)] }; { s with lnk := { s.lnk with sent := [({ frame := { ftype := ftFail, hops := 1, hopIdx := 0, inst := 0, route := 15, fseq := 21, xid := 77, payload := [] }, level := 1, sentAt := 5 } : SentFrame)] } }) with time := 100005 },
       by decide +kernel⟩,
   ⟨({ frame := { ftype := ftFail, hops := 1, hopIdx := 0, inst := 0, route := 15, fseq := 21, xid := 77, payload := [] }, level := 1, sentAt := 5 } : SentFrame),
       { (let s := linked; { s with lnk := { s.lnk with sent := [({ frame := { ftype := ftFail, hops := 1, hopIdx := 0, inst := 0, route := 15, fseq := 21, xid := 77, payload := [] }, level := 1, sentAt := 5 } : SentFrame)] } }) with time := 100005 },
       by decide +kernel⟩,
   ⟨base, by decide +kernel⟩⟩

theorem witness_BarrierPads :
    (∃ (s : State), s.lnk.hbar0In = true) ∧
    (∃ (f : Fan) (k : Nat) (s : State), s.lnk.hbar0In = false ∧ s.lnk.fans = [f] ∧ f.top = true ∧ f.slot = some k) ∧
    (∃ (f : Fan) (s : State), s.lnk.hbar0In = false ∧ s.lnk.fans = [f] ∧ f.top = false ∧ f.slot = none ∧ f.owed = []) ∧
    (∃ (s : State), s.lnk.hbar1In = false) ∧
    (∃ (s : State), s.lnk.hbar1In = true ∧ s.lnk.fans = []) ∧
    (∃ (f : Fan) (k : Nat) (n : Nat) (s : State), s.lnk.hbar1In = true ∧ s.lnk.fans = [f] ∧ f.slot = some k ∧ f.armed = [n]) :=
  ⟨⟨base, by decide +kernel⟩,
   ⟨({ ({ xid := 77, inst := 0, top := false, slot := none, ends := [], stopAcks := [], armAcks := [], armed := [], stopped := false, status := none, lastFrame := 0, params := [], owed := [] } : Fan) with top := true, slot := some 0 } : Fan),
       0, (let s := withCmd (queryCmd 1 0 0 .running ({ query ({ plan0 with pipes := [⟨0, 0, 0, 1, 1, 0, 0, 3, 0, 0, 0⟩], ops := [⟨8, 0, 0, 0, 0, 0, 0, 0, 0, 0, .verify 0⟩] }) with inputs := [⟨0, 2, 1, 0, 3, 0, 0, [], true, ObjImage.empty⟩], pipes := [(0, { PipeRun.idle with started := true })] })); { s with lnk := { s.lnk with hbar0In := false, fans := [({ ({ xid := 77, inst := 0, top := false, slot := none, ends := [], stopAcks := [], armAcks := [], armed := [], stopped := false, status := none, lastFrame := 0, params := [], owed := [] } : Fan) with top := true, slot := some 0 } : Fan)] } }),
       by decide +kernel⟩,
   ⟨({ xid := 77, inst := 0, top := false, slot := none, ends := [], stopAcks := [], armAcks := [], armed := [], stopped := false, status := none, lastFrame := 0, params := [], owed := [] } : Fan),
       (let s := linked; { s with lnk := { s.lnk with hbar0In := false, fans := [({ xid := 77, inst := 0, top := false, slot := none, ends := [], stopAcks := [], armAcks := [], armed := [], stopped := false, status := none, lastFrame := 0, params := [], owed := [] } : Fan)] } }),
       by decide +kernel⟩,
   ⟨(let s := linked; { s with lnk := { s.lnk with hbar1In := false } }),
       by decide +kernel⟩,
   ⟨base, by decide +kernel⟩,
   ⟨({ ({ xid := 77, inst := 0, top := false, slot := none, ends := [], stopAcks := [], armAcks := [], armed := [], stopped := false, status := none, lastFrame := 0, params := [], owed := [] } : Fan) with slot := some 0, armed := [0] } : Fan),
       0, 0, (let s := withCmd (queryCmd 1 0 0 .running ({ { query ({ plan0 with pipes := [⟨0, 0, 0, 1, 1, 0, 0, 3, 0, 0, 0⟩], ops := [⟨8, 0, 0, 0, 0, 0, 0, 0, 0, 0, .verify 0⟩] }) with inputs := [⟨0, 2, 1, 0, 3, 0, 0, [], true, ObjImage.empty⟩], pipes := [(0, { PipeRun.idle with started := true })] } with pipes := [(0, { PipeRun.idle with started := true, armed := true })] })); { s with lnk := { s.lnk with fans := [({ ({ xid := 77, inst := 0, top := false, slot := none, ends := [], stopAcks := [], armAcks := [], armed := [], stopped := false, status := none, lastFrame := 0, params := [], owed := [] } : Fan) with slot := some 0, armed := [0] } : Fan)] } }),
       by decide +kernel⟩⟩

theorem witness_HierarchyConfig :
    (∃ (s : State), MbxRuns 0 0x70 ⟨true, false, [(8, 1), (9, 1)]⟩ s ∧ (s.getMbx 0).arg 8 1 = 1 ∧ (s.getMbx 0).arg 9 1 ≤ 1 ∧ s.lnk.fans = []) ∧
    (∃ (s : State), MbxRuns 0 0x70 ⟨true, false, [(8, 1), (9, 1)]⟩ s ∧ (s.getMbx 0).arg 8 1 = 1 ∧ (s.getMbx 0).arg 9 1 ≤ 1 ∧ s.lnk.fans ≠ [] ∧
        s.lnk.manager ≠ decide ((s.getMbx 0).arg 9 1 = 1)) ∧
    (∃ (s : State), MbxRuns 0 0x70 ⟨true, false, [(8, 1), (9, 1), (16, 8)]⟩ s ∧ (s.getMbx 0).arg 8 1 = 2 ∧ 1 ≤ (s.getMbx 0).arg 9 1 ∧
        (s.getMbx 0).arg 9 1 ≤ 64 ∧ s.lnk.manager = false ∧ ((s.lnk.adopted = false ∨ s.lnk.level = 3))) ∧
    (∃ (s : State), MbxRuns 0 0x70 ⟨true, false, [(8, 1), (9, 1), (16, 8)]⟩ s ∧ (s.getMbx 0).arg 8 1 = 2 ∧ 1 ≤ (s.getMbx 0).arg 9 1 ∧
        (s.getMbx 0).arg 9 1 ≤ 64 ∧ s.lnk.manager = true ∧ mbxReads s (s.getMbx 0) = true) ∧
    (∃ (b : List Byte) (n : Nat) (i : Nat) (s : State), MbxRuns 0 0x70 ⟨true, false, [(8, 1), (9, 1), (16, 8)]⟩ s ∧ (s.getMbx 0).arg 8 1 = 2 ∧
        (s.getMbx 0).arg 9 1 = n ∧ 1 ≤ n ∧ n ≤ 64 ∧ s.lnk.manager = true ∧ (s.hostPort (s.getMbx 0).port).absent = false ∧
        mbxReads s (s.getMbx 0) = true ∧ b.length = 64 + 32 * n + 8 * n * n ∧ tableHead b n = true ∧ badEntry b n = some i) ∧
    (∃ (b : List Byte) (n : Nat) (s : State), MbxRuns 0 0x70 ⟨true, false, [(8, 1), (9, 1), (16, 8)]⟩ s ∧ (s.getMbx 0).arg 8 1 = 2 ∧
        (s.getMbx 0).arg 9 1 = n ∧ 1 ≤ n ∧ n ≤ 64 ∧ s.lnk.manager = true ∧ (s.hostPort (s.getMbx 0).port).absent = false ∧
        mbxReads s (s.getMbx 0) = true ∧ b.length = 64 + 32 * n + 8 * n * n ∧ tableHead b n = true ∧ badEntry b n = none) ∧
    (∃ (found : SsdFound) (s : State), MbxRuns 0 0x70 ⟨true, false, [(8, 1), (9, 1)]⟩ s ∧ (s.getMbx 0).arg 8 1 = 3 ∧ (s.getMbx 0).arg 9 1 ≤ 15 ∧
        (s.ssd ((s.getMbx 0).arg 9 1)).pool = false ∧ found.port = (s.getMbx 0).arg 9 1 ∧ found.formatOk = true ∧ found.blank = true) ∧
    (∃ (found : SsdFound) (s : State), MbxRuns 0 0x70 ⟨true, false, [(8, 1), (9, 1)]⟩ s ∧ (s.getMbx 0).arg 8 1 = 3 ∧ (s.getMbx 0).arg 9 1 ≤ 15 ∧
        (((s.ssd ((s.getMbx 0).arg 9 1)).pool = true ∨ found.port ≠ (s.getMbx 0).arg 9 1 ∨ found.formatOk = false ∨ found.blank = false))) :=
  ⟨⟨withMbx 0 0x70 [(8, 1), (9, 1)] base, mbxRuns_of (by decide +kernel), by decide +kernel⟩,
   ⟨withMbx 0 0x70 [(8, 1), (9,
       1)] ((let s := linked; { s with lnk := { s.lnk with fans := [({ xid := 77, inst := 0, top := false, slot := none, ends := [], stopAcks := [], armAcks := [], armed := [], stopped := false, status := none, lastFrame := 0, params := [], owed := [] } : Fan)] } })),
       mbxRuns_of (by decide +kernel), by decide +kernel⟩,
   ⟨withMbx 0 0x70 [(8, 2), (9, 1), (16, 64)] base, mbxRuns_of (by decide +kernel), by decide +kernel⟩,
   ⟨withMbx 0 0x70 [(8, 2), (9, 1), (16,
       64)] ((let s := linked; { s with lnk := { s.lnk with manager := true } })),
       mbxRuns_of (by decide +kernel), by decide +kernel⟩,
   ⟨(leBytes 0x5457515A 4 ++ leBytes 1 1 ++ zeros 59 ++ (leBytes 5 16 ++ leBytes 0x3 4 ++ leBytes 1 1 ++ zeros 11) ++ (leBytes 0 4 ++ leBytes 1 1 ++ zeros 3)),
       1, 0, withMbx 0 0x70 [(8, 2), (9, 1), (16,
       64)] ((let s := linked; { s with lnk := { s.lnk with manager := true } })),
       mbxRuns_of (by decide +kernel), by decide +kernel⟩,
   ⟨(leBytes 0x5457515A 4 ++ leBytes 1 1 ++ zeros 59 ++ (leBytes 5 16 ++ leBytes 0x3 4 ++ leBytes 1 1 ++ zeros 11) ++ (leBytes 0 4 ++ leBytes 0 1 ++ zeros 3)),
       1, withMbx 0 0x70 [(8, 2), (9, 1), (16,
       64)] ((let s := linked; { s with lnk := { s.lnk with manager := true } })),
       mbxRuns_of (by decide +kernel), by decide +kernel⟩,
   ⟨({ port := 15, formatOk := true, label := false, blank := true, extents := 1 } : SsdFound), withMbx 0 0x70 [(8, 3), (9, 15)] base,
       mbxRuns_of (by decide +kernel), by decide +kernel⟩,
   ⟨({ port := 15, formatOk := true, label := false, blank := false, extents := 1 } : SsdFound), withMbx 0 0x70 [(8, 3), (9, 15)] base,
       mbxRuns_of (by decide +kernel), by decide +kernel⟩⟩

theorem witness_Attestation :
    (∃ (tr : Nat) (req : List Byte) (s : State), BusUp tr s ∧ leAt req 0 1 = 0x10) ∧
    (∃ (tr : Nat) (req : List Byte) (s : State), BusUp tr s ∧ leAt req 0 1 = 0x13 ∧ (s.conn tr).phase = 1 ∧ 20 ≤ req.length) ∧
    (∃ (tr : Nat) (req : List Byte) (s : State), BusUp tr s ∧ leAt req 0 1 = 0x13 ∧ (s.conn tr).phase = 2 ∧ 32 ≤ req.length ∧
        bit (leAt req 8 4) 3 = true ∧ bit (leAt req 12 4) 1 = true) ∧
    (∃ (tr : Nat) (req : List Byte) (s : State), BusUp tr s ∧ leAt req 0 1 = 0x13 ∧ (s.conn tr).phase ≠ 3) ∧
    (∃ (tr : Nat) (req : List Byte) (s : State), BusUp tr s ∧ leAt req 0 1 = 0x13 ∧ (s.conn tr).phase = 3 ∧ 4 ≤ req.length) ∧
    (∃ (tr : Nat) (req : List Byte) (s : State), BusUp tr s ∧ leAt req 0 1 = 0x13 ∧ (s.conn tr).phase = 3 ∧ 12 ≤ req.length ∧
        bit (leAt req 2 1) 0 = false ∧ leAt req 3 1 = 0xFF ∧ s.sec.lifecycle ≠ 0) ∧
    (∃ (tr : Nat) (req : List Byte) (s : State), BusUp tr s ∧ leAt req 0 1 = 0x13 ∧ (s.conn tr).phase = 3 ∧ 45 ≤ req.length ∧
        bit (leAt req 2 1) 0 = true ∧ leAt req 3 1 = 0xFF ∧ leAt req 36 1 = 0 ∧ canSign s = true) ∧
    (∃ (tr : Nat) (req : List Byte) (s : State), BusUp tr s ∧ leAt req 0 1 = 0x13 ∧ (s.conn tr).phase = 3 ∧ 44 ≤ req.length ∧ leAt req 2 1 = 0 ∧
        leAt req 3 1 = 0xFF ∧ canSign s = true) ∧
    (∃ (tr : Nat) (req : List Byte) (s : State), BusUp tr s ∧ leAt req 0 1 = 0x13 ∧ (s.conn tr).phase = 3 ∧ 44 ≤ req.length ∧ canSign s = false) ∧
    (∃ (s : State), s.sec.signQ = []) ∧
    (∃ (j : SignJob) (rest : _) (s : State), s.sec.signQ = j :: rest ∧ s.sec.keysGone = false ∧ s.time ≤ j.since + 200000000 ∧ j.ref = 1) ∧
    (∃ (j : SignJob) (rest : _) (s : State), s.sec.signQ = j :: rest ∧ s.sec.keysGone = false ∧ s.time ≤ j.since + 200000000 ∧ j.ref = 2) ∧
    (∃ (tr : Nat) (req : List Byte) (m : _) (s : State), BusUp tr s ∧ leAt req 0 1 = 0x13 ∧ (s.conn tr).phase = 3 ∧ 19 ≤ req.length ∧
        isSlhReq req = true ∧ s.sec.lifecycle ≠ 0 ∧ pendingOf (s.conn tr) (leAt req 13 1) = some m ∧ leAt req 15 2 < 16224 ∧ 1 ≤ leAt req 17 2 ∧
        leAt req 17 2 ≤ 4096) ∧
    (∃ (tr : Nat) (req : List Byte) (s : State), BusUp tr s ∧ leAt req 0 1 = 0x13 ∧ (s.conn tr).phase = 3 ∧ 19 ≤ req.length ∧ isSlhReq req = true ∧
        s.sec.lifecycle ≠ 0 ∧ pendingOf (s.conn tr) (leAt req 13 1) = none) ∧
    (Config.certChain 0 ≠ [] → ∃ (tr : Nat) (req : List Byte) (s : State), BusUp tr s ∧ leAt req 0 1 = 0x13 ∧ (s.conn tr).phase = 3 ∧
        8 ≤ req.length ∧ leAt req 2 1 ≤ 1 ∧ leAt req 4 2 < (Config.certChain (leAt req 2 1)).length) :=
  ⟨⟨1, [0x10, 0x84, 0, 0], base, busUp_of (by decide +kernel), by decide +kernel⟩,
   ⟨1, ([0x13, 0, 0, 0] ++ zeros 16), (let s := base; { s with sec := { s.sec with spdm := [(1, ⟨1, [], [], [], none, none⟩)] } }),
       busUp_of (by decide +kernel), by decide +kernel⟩,
   ⟨1, ([0x13, 0xE3, 0, 0] ++ zeros 4 ++ leBytes 8 4 ++ leBytes 2 4 ++ zeros 16),
       (let s := base; { s with sec := { s.sec with spdm := [(1, ⟨2, [], [], [], none, none⟩)] } }), busUp_of (by decide +kernel), by decide +kernel⟩,
   ⟨1, ([0x13, 0, 0, 0] ++ zeros 30), (let s := base; { s with sec := { s.sec with spdm := [(1, ⟨2, [], [], [], none, none⟩)] } }),
       busUp_of (by decide +kernel), by decide +kernel⟩,
   ⟨1, ([0x13, 0, 0, 0] ++ zeros 4), (let s := base; { s with sec := { s.sec with spdm := [(1, ⟨3, [], [], [], none, none⟩)] } }),
       busUp_of (by decide +kernel), by decide +kernel⟩,
   ⟨1, ([0x13, 0, 0, 0xFF] ++ zeros 30), (let s := base; { s with sec := { s.sec with spdm := [(1, ⟨3, [], [], [], none, none⟩)] } }),
       busUp_of (by decide +kernel), by decide +kernel⟩,
   ⟨1, ([0x13, 0, 1, 0xFF] ++ zeros 50), (let s := base; { s with sec := { s.sec with spdm := [(1, ⟨3, [], [], [], none, none⟩)] } }),
       busUp_of (by decide +kernel), by decide +kernel⟩,
   ⟨1, ([0x13, 0, 0, 0xFF] ++ zeros 41), (let s := base; { s with sec := { s.sec with spdm := [(1, ⟨3, [], [], [], none, none⟩)] } }),
       busUp_of (by decide +kernel), by decide +kernel⟩,
   ⟨1, ([0x13, 0, 0, 0] ++ zeros 44),
       (let s := (let s := base; { s with sec := { s.sec with spdm := [(1, ⟨3, [], [], [], none, none⟩)] } }); { s with sec := { s.sec with keysGone := true } }),
       busUp_of (by decide +kernel), by decide +kernel⟩,
   ⟨base, by decide +kernel⟩,
   ⟨({ transport := 1, ref := 1, msg := [1], body := [2], since := 0 } : SignJob), [],
       (let s := base; { s with sec := { s.sec with signQ := [({ transport := 1, ref := 1, msg := [1], body := [2], since := 0 } : SignJob)] } }),
       by decide +kernel⟩,
   ⟨({ transport := 1, ref := 2, msg := [1], body := [2], since := 0 } : SignJob), [],
       (let s := base; { s with sec := { s.sec with signQ := [({ transport := 1, ref := 2, msg := [1], body := [2], since := 0 } : SignJob)] } }),
       by decide +kernel⟩,
   ⟨1, ([0x13, 0xFE, 0,
       0] ++ leBytes 3 2 ++ leBytes 2 1 ++ leBytes 0x1EA7 2 ++ zeros 2 ++ leBytes 1 1 ++ zeros 1 ++ leBytes 1 1 ++ zeros 1 ++ leBytes 16200 2 ++ leBytes 4096 2),
       [7], (let s := base; { s with sec := { s.sec with spdm := [(1, ⟨3, [], [], [], some [7], none⟩)] } }), busUp_of (by decide +kernel),
       by decide +kernel⟩,
   ⟨1, ([0x13, 0xFE, 0,
       0] ++ leBytes 3 2 ++ leBytes 2 1 ++ leBytes 0x1EA7 2 ++ zeros 2 ++ leBytes 1 1 ++ zeros 1 ++ leBytes 1 1 ++ zeros 1 ++ leBytes 16200 2 ++ leBytes 4096 2),
       (let s := base; { s with sec := { s.sec with spdm := [(1, ⟨3, [], [], [], none, none⟩)] } }), busUp_of (by decide +kernel), by decide +kernel⟩,
   fun h => ⟨1, [0x13, 0x82, 0, 0, 0, 0, 64, 0], (let s := base; { s with sec := { s.sec with spdm := [(1, ⟨3, [], [], [], none, none⟩)] } }),
       busUp_of (by decide +kernel), by decide +kernel, by decide +kernel, by decide +kernel, by decide +kernel, List.length_pos_iff.mpr h⟩⟩

theorem witness_LifecycleTokens :
    (∃ (c : Instr) (k : Nat) (b : List Byte) (e : Nat) (s : State), (((c = Instr.debugUnlock b ∧ k = 1) ∨ (c = .toReturn b ∧
        k = 2) ∨ (c = .toDecommissioned b ∧ k = 3) ∨ (c = .revokeKey b ∧ k = 4))) ∧ s.sec.tokenSt = .busy ∧ s.pads.inReset = false ∧
        tokenBad s b = some e ∧ tokKind b = k) ∧
    (∃ (s : State), s.sec.tokenSt ≠ .busy) ∧
    (∃ (b : List Byte), b.length ≠ 17216) :=
  ⟨⟨(.toReturn (zeros 6 ++ [2])), 2, zeros 6 ++ [2], 1, (let s := base; { s with sec := { s.sec with tokenSt := .busy } }), .inr (.inl ⟨rfl,
      rfl⟩), by decide +kernel⟩,
   ⟨(let s := base; { s with sec := { s.sec with tokenSt := .done } }), by decide +kernel⟩,
   ⟨[], by decide +kernel⟩⟩

theorem witness_FirmwareDevice :
    (∃ (s : State), BusUp 1 s) ∧
    (∃ (s : State), BusUp 1 s ∧ s.mp.staged = none) ∧
    (∃ (s : State), BusUp 1 s ∧ stageRuns s = false ∧ s.sec.pldm = .idle) ∧
    (∃ (s : State), BusUp 1 s ∧ stageRuns s = true) ∧
    (∃ (r : List Byte) (s : State), BusUp 1 s ∧ s.sec.pldm = .learn ∧ leAt r 3 2 = 1 ∧ bit (leAt r 0 1) 2 = true) ∧
    (∃ (r : List Byte) (s : State), BusUp 1 s ∧ s.sec.pldm = .ready ∧ leAt r 2 2 = 1 ∧ 1 ≤ leAt r 9 4 ∧ leAt r 9 4 ≤ 33554432) ∧
    (∃ (r : List Byte) (s : State), BusUp 1 s ∧ s.sec.pldm = .download ∧ s.sec.pldmData.length < s.sec.pldmSize ∧ leAt r 0 1 = 0 ∧
        r.length = min 4096 (s.sec.pldmSize - s.sec.pldmData.length) + 1) ∧
    (∃ (r : List Byte) (s : State), BusUp 1 s ∧ s.sec.pldm = .download ∧ s.sec.pldmData.length < s.sec.pldmSize ∧ leAt r 0 1 ≠ 0) ∧
    (∃ (s : State), BusUp 1 s ∧ s.sec.pldm = .download ∧ s.sec.pldmSize ≤ s.sec.pldmData.length) ∧
    (∃ (d : Nat) (o : Nat) (s : State), BusUp 1 s ∧ s.sec.pldm = .verify ∧ fwCheck s s.sec.pldmData = some (d, o)) ∧
    (∃ (s : State), BusUp 1 s ∧ s.sec.pldm = .apply ∧ s.mp.arbitrating = false) ∧
    (∃ (v : W32) (b : List Byte) (s : State), BusUp 1 s ∧ s.sec.pldm = .ready ∧ s.mp.staged = some (v, b) ∧ s.sec.recovery = false ∧
        s.mp.activating = false ∧ s.mp.lockstep = true ∧ s.pads.booted = true) ∧
    (∃ (s : State), BusUp 1 s ∧ s.sec.pldm = .ready ∧ s.mp.staged = none) ∧
    (∃ (s : State), BusUp 1 s) ∧
    (∃ (s : State), BusUp 1 s ∧ s.sec.pldm ≠ .idle ∧ s.sec.pldm ≠ .activate) ∧
    (∃ (s : State), BusUp 1 s ∧ s.sec.pldm = .idle) :=
  ⟨⟨base, busUp_of (by decide +kernel)⟩,
   ⟨base, busUp_of (by decide +kernel), by decide +kernel⟩,
   ⟨base, busUp_of (by decide +kernel), by decide +kernel⟩,
   ⟨(let s := base; { s with mp := { s.mp with activating := true } }), busUp_of (by decide +kernel), by decide +kernel⟩,
   ⟨([4, 0, 0] ++ leBytes 1 2 ++ zeros 20), (let s := base; { s with sec := { s.sec with pldm := .learn } }), busUp_of (by decide +kernel),
       by decide +kernel⟩,
   ⟨(zeros 2 ++ leBytes 1 2 ++ zeros 5 ++ leBytes 33554432 4 ++ zeros 10), (let s := base; { s with sec := { s.sec with pldm := .ready } }),
       busUp_of (by decide +kernel), by decide +kernel⟩,
   ⟨(zeros 1 ++ [1, 2, 3]), (let s := base; { s with sec := { s.sec with pldm := .download, pldmSize := 4, pldmData := [9] } }),
       busUp_of (by decide +kernel), by decide +kernel⟩,
   ⟨[3], (let s := base; { s with sec := { s.sec with pldm := .download, pldmSize := 4, pldmData := [9] } }), busUp_of (by decide +kernel),
       by decide +kernel⟩,
   ⟨(let s := base; { s with sec := { s.sec with pldm := .download, pldmSize := 1, pldmData := [9] } }), busUp_of (by decide +kernel),
       by decide +kernel⟩,
   ⟨sigBadFormat, 0, (let s := base; { s with sec := { s.sec with pldm := .verify, pldmSize := 1, pldmData := [9] } }),
       busUp_of (by decide +kernel), by decide +kernel⟩,
   ⟨(let s := base; { s with sec := { s.sec with pldm := .apply, pldmSize := 1, pldmData := [9] } }), busUp_of (by decide +kernel),
       by decide +kernel⟩,
   ⟨5, [1], (let s := (let s := base; { s with sec := { s.sec with pldm := .ready } }); { s with mp := { s.mp with staged := some (5, [1]) } }),
       busUp_of (by decide +kernel), by decide +kernel⟩,
   ⟨(let s := base; { s with sec := { s.sec with pldm := .ready } }), busUp_of (by decide +kernel), by decide +kernel⟩,
   ⟨(let s := base; { s with sec := { s.sec with pldm := .ready } }), busUp_of (by decide +kernel)⟩,
   ⟨(let s := base; { s with sec := { s.sec with pldm := .ready } }), busUp_of (by decide +kernel), by decide +kernel⟩,
   ⟨base, busUp_of (by decide +kernel), by decide +kernel⟩⟩

theorem witness_ResetState :
    ∃ s : State, s.pads.porHeld = false ∧ s.pads.inReset = false ∧ s.pads.lastCause = none ∧ s.pwr.cap = 500 :=
  ⟨{ base with pwr := { base.pwr with cap := 500 } }, by decide +kernel, by decide +kernel, by decide +kernel, by decide +kernel⟩

theorem witness_StepKeepsInvariant :
    (∃ s t : State, Inv s ∧ step s = .next t) :=
  ⟨base, base, ⟨by decide, by decide, fun _ => by show 0 ≤ 64; decide, fun c h => by cases h⟩, rfl⟩

end Sys2Proof.Tests
end

section
/-!
PROOFS. Rules of one frond instruction: it writes a general register and goes on, or it raises an exception and the frond enters its
handler (R174). The statements on scalar results and on scratchpad faults are settled by them.
-/

namespace Sys2Proof.Machine

/-! ## Instructions that write one general register -/

/-- An instruction that writes a value of its frond's registers to gd and does nothing else. -/
theorem falls_setG {i : Instr} {f : Fin 128} {d : BitVec 5} {v : Frond → W64}
    (he : ∀ s, exec i s = .next (runFrond f.val (pureOp fun fr => fr.setG d (v fr)) s)) :
    Falls i f fun fr => fr.setG d (v fr) :=
  completes_of_next i f _ _ _ _ he (fun _ _ _ => rfl) (fun _ => Frond.setG_stopReq _ _ _) (fun _ => Frond.setG_budgetReq _ _ _)
    fun _ _ => .inr (Frond.setG_budget _ _ _)

/-- SHI shifts as IMM16[7:6] selects (R160). -/
theorem falls_shi (k : Nat) {f : Fin 128} {d a : BitVec 5} {imm : BitVec 16} (h : field imm 7 6 = k) :
    Falls (.shi f d a imm) f fun fr => fr.setG d (shiftBy k (fr.gr a) (field imm 5 0)) := by
  subst h
  exact falls_setG fun _ => rfl

/-- Settles O1: every instruction writes one value to gd, so `falls_setG` gives its clause at the value that its meaning writes; SHI is
split by its selector. -/
theorem scalarResults : Obligations.ScalarResults :=
  ⟨-- ADDI, ANDI, ORI, XORI, LUI, SLTI
   fun _ _ _ _ => falls_setG fun _ => rfl, fun _ _ _ _ => falls_setG fun _ => rfl, fun _ _ _ _ => falls_setG fun _ => rfl,
   fun _ _ _ _ => falls_setG fun _ => rfl, fun _ _ _ => falls_setG fun _ => rfl, fun _ _ _ _ => falls_setG fun _ => rfl,
   -- SHI: SLL, SRL, SRA, ROL
   fun _ _ _ _ h => falls_shi 0 h, fun _ _ _ _ h => falls_shi 1 h, fun _ _ _ _ h => falls_shi 2 h,
   fun _ _ _ _ h => falls_shi 3 h,
   -- add, sub, and, or, xor
   fun _ _ _ _ => falls_setG fun _ => rfl, fun _ _ _ _ => falls_setG fun _ => rfl, fun _ _ _ _ => falls_setG fun _ => rfl,
   fun _ _ _ _ => falls_setG fun _ => rfl, fun _ _ _ _ => falls_setG fun _ => rfl,
   -- sll, srl, sra
   fun _ _ _ _ => falls_setG fun _ => rfl, fun _ _ _ _ => falls_setG fun _ => rfl, fun _ _ _ _ => falls_setG fun _ => rfl,
   -- slt, sltu, min, max, minu, maxu
   fun _ _ _ _ => falls_setG fun _ => rfl, fun _ _ _ _ => falls_setG fun _ => rfl, fun _ _ _ _ => falls_setG fun _ => rfl,
   fun _ _ _ _ => falls_setG fun _ => rfl, fun _ _ _ _ => falls_setG fun _ => rfl, fun _ _ _ _ => falls_setG fun _ => rfl,
   -- clz, ctz, popc, bswap
   fun _ _ _ => falls_setG fun _ => rfl, fun _ _ _ => falls_setG fun _ => rfl, fun _ _ _ => falls_setG fun _ => rfl,
   fun _ _ _ => falls_setG fun _ => rfl,
   -- mul, mulh, mulhu
   fun _ _ _ _ => falls_setG fun _ => rfl, fun _ _ _ _ => falls_setG fun _ => rfl, fun _ _ _ _ => falls_setG fun _ => rfl,
   -- div, divu, rem, remu
   fun _ _ _ _ => falls_setG fun _ => rfl, fun _ _ _ _ => falls_setG fun _ => rfl, fun _ _ _ _ => falls_setG fun _ => rfl,
   fun _ _ _ _ => falls_setG fun _ => rfl⟩

/-! ## Instructions that raise an exception -/

/-- Cycles count in fc.cyc and against fc.budget and change no other register (R157, R158). -/
theorem Frond.passCycles_eq (fr : Frond) (k : Bool) (n : Nat) :
    ∃ (c b : W64) (q : Bool), fr.passCycles k n = { fr with cyc := c, budget := b, budgetReq := q } := by
  unfold Frond.passCycles
  dsimp only
  split
  · exact ⟨_, _, _, rfl⟩
  · split <;> exact ⟨_, _, _, rfl⟩

/-- An excepting instruction that is squashed moves counters, fc.budget and its request, and no other register (R174, R184). -/
theorem excTime_squashInstr_eq (fr : Frond) (n : Nat) (k : Bool) (s : State) :
    ∃ (x y c b : W64) (q : Bool),
      (excTime (squashInstr fr n) k s).1 = { fr with iss := x, specx := y, cyc := c, budget := b, budgetReq := q } := by
  obtain ⟨c, b, q, h⟩ := (squashInstr fr n).passCycles_eq k (Config.cycles s.seed)
  exact ⟨_, _, c, b, q, h⟩

/-- A cause with a faulting address leaves that address in fc.tval (R174). -/
theorem takeException_tval (f : Nat) (fr : Frond) (async : Bool) (c d x : Nat) (s : State) (h : fr.exl = false) :
    ((takeException f fr async c d (some x) s).frond f).tval = BitVec.ofNat 64 x := by
  simp [takeException, h, Frond.flush]

/-- An instruction whose operation raises an exception on the registers it found enters the handler as R174 says. -/
theorem traps_of_exc {i : Instr} {f : Fin 128} {pre : Frond → Prop} {c d : Nat} {op : State → Frond → FOut}
    (he : ∀ s, exec i s = .next (runFrond f.val op s))
    (ho : ∀ s fr, pre fr → ∃ tv, op s fr = .exc s fr c d tv) : Traps i f pre c d := by
  intro s r hp hx
  obtain ⟨tv, hop⟩ := ho s _ hp
  refine ⟨_, he s, ?_⟩
  rw [runFrond_exc _ _ _ _ _ _ _ _ r hop]
  obtain ⟨x, y, cy, b, q, hfr⟩ := excTime_squashInstr_eq (s.frond f.val) s.freshNat.1 (s.frond f.val).isK s.freshNat.2
  rw [hfr]
  obtain ⟨w, hw⟩ := takeException_frond f.val
    { s.frond f.val with iss := x, specx := y, cyc := cy, budget := b, budgetReq := q } false c d tv
    (excTime (squashInstr (s.frond f.val) s.freshNat.1) (s.frond f.val).isK s.freshNat.2).2 hx
  rw [hw]
  exact ⟨rfl, rfl, by simp [Frond.flush], rfl, rfl, rfl, rfl, rfl⟩

/-- An exception with a faulting address leaves it in fc.tval. -/
theorem tval_of_exc {f : Nat} {op : State → Frond → FOut} {s : State} {c d x : Nat} (r : Ready f s)
    (hx : (s.frond f).exl = false) (ho : op s (s.frond f) = .exc s (s.frond f) c d (some x)) :
    ((runFrond f op s).frond f).tval = BitVec.ofNat 64 x := by
  rw [runFrond_exc _ _ _ _ _ _ _ _ r ho]
  apply takeException_tval
  obtain ⟨_, _, _, _, _, hfr⟩ := excTime_squashInstr_eq (s.frond f) s.freshNat.1 (s.frond f).isK s.freshNat.2
  rw [hfr]
  exact hx

/-! ## Faults of scalar loads and stores (R165, R166) -/

/-- Instruction i accesses n bytes of scratchpad at ga + IMM16: where the check of the access fails, it raises the fault found, with
the address, and does nothing else. -/
def ChecksAccess (i : Instr) (f : Fin 128) (a : BitVec 5) (imm : BitVec 16) (n : Nat) : Prop :=
  ∃ op : State → Frond → FOut, (∀ s, exec i s = .next (runFrond f.val op s)) ∧
    ∀ s fr c, scalarFault fr (spAddr fr a imm) n = some c → op s fr = .exc s fr c 0 (some (spAddr fr a imm))

theorem checksAccess_of_load {i : Instr} {f : Fin 128} {a : BitVec 5} {imm : BitVec 16} {n : Nat} {g : Nat → Frond → Frond}
    (he : ∀ s, exec i s = .next (runFrond f.val (loadOp a imm n g) s)) : ChecksAccess i f a imm n :=
  ⟨_, he, fun s fr c h => by simp only [loadOp, h]⟩

theorem checksAccess_of_store {i : Instr} {f : Fin 128} {a : BitVec 5} {imm : BitVec 16} {n : Nat} {v : Frond → Nat}
    (he : ∀ s, exec i s = .next (runFrond f.val (storeOp a imm n v) s)) : ChecksAccess i f a imm n :=
  ⟨_, he, fun s fr c h => by simp only [storeOp, h]⟩

/-- Every scalar load and store checks its access first. -/
theorem scalarAccesses_check (f : Fin 128) (d a : BitVec 5) (imm : BitVec 16) :
    ∀ p ∈ scalarAccesses f d a imm, ChecksAccess p.1 f a imm p.2 := by
  simp only [scalarAccesses, List.forall_mem_cons]
  exact ⟨-- ld.b, ld.h, ld.w, ld.d, ldu.b, ldu.h, ldu.w, fld.s, fld.d
    checksAccess_of_load fun _ => rfl, checksAccess_of_load fun _ => rfl, checksAccess_of_load fun _ => rfl,
    checksAccess_of_load fun _ => rfl, checksAccess_of_load fun _ => rfl, checksAccess_of_load fun _ => rfl,
    checksAccess_of_load fun _ => rfl, checksAccess_of_load fun _ => rfl, checksAccess_of_load fun _ => rfl,
    -- st.b, st.h, st.w, st.d, fst.s, fst.d
    checksAccess_of_store fun _ => rfl, checksAccess_of_store fun _ => rfl, checksAccess_of_store fun _ => rfl,
    checksAccess_of_store fun _ => rfl, checksAccess_of_store fun _ => rfl, checksAccess_of_store fun _ => rfl,
    List.forall_mem_nil _⟩

/-- Scalar accesses have 1, 2, 4 or 8 bytes. -/
theorem scalarAccesses_size (f : Fin 128) (d a : BitVec 5) (imm : BitVec 16) :
    ∀ p ∈ scalarAccesses f d a imm, p.2 ∣ 8 := by
  simp [scalarAccesses]

/-- An access whose check fails with one code wherever `pre` holds traps with that code. -/
theorem ChecksAccess.traps {i : Instr} {f : Fin 128} {a : BitVec 5} {imm : BitVec 16} {n c : Nat} {pre : Frond → Nat → Prop}
    (h : ChecksAccess i f a imm n) (hp : ∀ fr x, pre fr x → scalarFault fr x n = some c) : AccessTraps i f a imm pre c := by
  obtain ⟨op, he, ho⟩ := h
  refine ⟨traps_of_exc he fun s fr hpre => ⟨_, ho s fr c (hp _ _ hpre)⟩, ?_⟩
  intro s t r hpre hx ht
  rw [he, Host.Outcome.next.injEq] at ht
  rw [← ht]
  exact tval_of_exc r hx (ho s _ c (hp _ _ hpre))

/-- P level may touch only the working region below fc.wlim (R165). -/
theorem Frond.spFault_denied {fr : Frond} {x : Nat} (hk : fr.isK = false) (hx : x < 0x200000)
    (hd : x < 0x40000 ∨ 0x1C0000 ≤ x ∨ fr.wlim.toNat ≤ x) : fr.spFault x = some 0x05 := by
  have hopen : ¬ (spBase ≤ x ∧ x < fr.wlim.toNat ∧ x < spRuntime) := by simp only [spBase, spRuntime]; omega
  rw [Frond.spFault, if_neg (by simp only [spTop]; omega), hk, if_neg Bool.false_ne_true, if_neg hopen]

theorem scalarFault_misaligned (fr : Frond) {x n : Nat} (h : x % n ≠ 0) : scalarFault fr x n = some 0x04 := if_pos h

theorem scalarFault_aligned (fr : Frond) {x n : Nat} (h : x % n = 0) : scalarFault fr x n = fr.spFaultN x n :=
  if_neg (not_not.2 h)

theorem scalarFault_range (fr : Frond) {x n : Nat} (ha : x % n = 0) (hx : 0x200000 ≤ x) : scalarFault fr x n = some 0x06 := by
  have hf : fr.spFault x = some 0x06 := if_pos hx
  rw [scalarFault_aligned fr ha, Frond.spFaultN, hf]

/-- An aligned access below the end of scratchpad ends below it too. -/
theorem aligned_end_le {x n : Nat} (hn : n ∣ 8) (ha : x % n = 0) (hx : x < 0x200000) : x + n ≤ 0x200000 :=
  Nat.le_of_lt_add_of_dvd (Nat.add_lt_add_right hx n) ((Nat.dvd_of_mod_eq_zero ha).add (dvd_refl n))
    (hn.trans (by decide))

/-- The first byte decides where P level may not touch it, else the last byte, at or above fc.wlim. -/
theorem scalarFault_prot {fr : Frond} {x n : Nat} (hn : n ∣ 8) (hk : fr.isK = false) (ha : x % n = 0) (hx : x < 0x200000)
    (hd : x < 0x40000 ∨ 0x1C0000 ≤ x ∨ fr.wlim.toNat < x + n) : scalarFault fr x n = some 0x05 := by
  have hend := aligned_end_le hn ha hx
  have hpos : 0 < n := Nat.pos_of_dvd_of_pos hn (by decide)
  rw [scalarFault_aligned fr ha, Frond.spFaultN]
  by_cases h1 : x < 0x40000 ∨ 0x1C0000 ≤ x ∨ fr.wlim.toNat ≤ x
  · rw [Frond.spFault_denied hk hx h1]
  · have hlast : fr.spFault (x + n - 1) = some 0x05 := Frond.spFault_denied hk (by omega) (by omega)
    have hfirst : fr.spFault x = none := by
      rw [Frond.spFault, if_neg (by simp only [spTop]; omega), hk, if_neg Bool.false_ne_true,
        if_pos (by simp only [spBase, spRuntime]; omega)]
    rw [hfirst, hlast]

/-! ## Loads after stores (R166) -/

@[simp] theorem Frond.markDirty_sp (fr : Frond) (a : Nat) : (fr.markDirty a).sp = fr.sp := by
  unfold Frond.markDirty; split <;> rfl

@[simp] theorem Frond.spStore_sp (fr : Frond) (a : Nat) (d : List Byte) : (fr.spStore a d).sp = Tbl.write 0 fr.sp a d := by
  simp only [Frond.spStore, Frond.markDirty_sp]

/-- A read outside the cells that a write covers is a read before the write. -/
theorem Tbl.read_write_disjoint {α : Type} [DecidableEq α] (d : α) (t : Tbl α) (a : Nat) (vs : List α) (b n : Nat)
    (h : b + n ≤ a ∨ a + vs.length ≤ b) : Tbl.read d (Tbl.write d t a vs) b n = Tbl.read d t b n := by
  induction n generalizing b with
  | zero => rfl
  | succ n ih => rw [Tbl.read, Tbl.read, ih (b + 1) (by omega), Tbl.get_write, if_neg (by omega)]

theorem Frond.spNat_spStore_same (fr : Frond) (a : Nat) (d : List Byte) : (fr.spStore a d).spNat a d.length = leNat d := by
  rw [Frond.spNat, Frond.spRead, Frond.spStore_sp, Tbl.read_write]

theorem Frond.spNat_spStore_disjoint (fr : Frond) (a b n : Nat) (d : List Byte) (h : b + n ≤ a ∨ a + d.length ≤ b) :
    (fr.spStore a d).spNat b n = fr.spNat b n := by
  rw [Frond.spNat, Frond.spRead, Frond.spStore_sp, Tbl.read_write_disjoint _ _ _ _ _ _ h, Frond.spNat, Frond.spRead]

/-- Settles O3: each clause on faults names the fault that the check of the access finds. -/
theorem scratchpadFaults : Obligations.ScratchpadFaults := by
  unfold Obligations.ScratchpadFaults
  refine ⟨?misaligned, ?range, ?prot, Frond.spNat_spStore_same, Frond.spNat_spStore_disjoint⟩
  case misaligned =>
    intro f d a imm p hp
    exact (scalarAccesses_check f d a imm p hp).traps fun fr _ h => scalarFault_misaligned fr h
  case range =>
    intro f d a imm p hp
    exact (scalarAccesses_check f d a imm p hp).traps fun fr _ ⟨ha, hx⟩ => scalarFault_range fr ha hx
  case prot =>
    intro f d a imm p hp
    have hn := scalarAccesses_size f d a imm p hp
    exact (scalarAccesses_check f d a imm p hp).traps fun _ _ ⟨hk, ha, hx, hd⟩ => scalarFault_prot hn hk ha hx hd

end Sys2Proof.Machine
end

section
/-!
PROOFS. What a module reset leaves (R443, R513): the reset is read off the entry it logs, the clearing of the module and the settling
of its pads. The statement on the state after reset is settled by it.
-/

namespace Sys2Proof.Machine

/-! ## The parts of the state after a module reset (R583) -/

/-- Settling moves the pads and HBAR0_OUT_N only: the instances stay. -/
@[simp] theorem settleReset_insts (s : State) : (settleReset s).insts = s.insts := by
  unfold settleReset; dsimp only; split <;> rfl

/-- Settling moves the pads and HBAR0_OUT_N only: the power state stays. -/
@[simp] theorem settleReset_pwr (s : State) : (settleReset s).pwr = s.pwr := by
  unfold settleReset; dsimp only; split <;> rfl

@[simp] theorem clearModule_insts (s : State) : (clearModule s).insts = State.reset.insts := rfl

@[simp] theorem clearModule_cap (s : State) : (clearModule s).pwr.cap = PwrSt.reset.cap := rfl

/-- The first trigger of a module out of reset logs its cause, clears the module and settles the pads (R583, R585). -/
theorem moduleReset_first (cause : Nat) {s : State} (hpor : s.pads.porHeld = false) (hin : s.pads.inReset = false)
    (hlast : s.pads.lastCause = none) :
    moduleReset cause s =
      let t := logEvent 0x0802 0x00 0 cause none s
      settleReset (clearModule { t with pads := { t.pads with lastCause := some (t.time, cause) } }) := by
  rw [moduleReset, hpor, if_neg Bool.false_ne_true]
  split
  · next hsome => rw [hlast] at hsome; cases hsome
  · rw [hin, if_neg Bool.false_ne_true]

/-- Of all instances only number 0 exists right after power-on (R443). -/
theorem reset_inst_of_ne_zero {i : Nat} (h : i ≠ 0) : State.reset.inst i = Inst.absent := by
  simp [State.inst, State.reset, Tbl.get, Ne.symm h]

/-- The registers read as the reset columns of their tables say: each read is evaluated on the one reset state. -/
theorem reset_readBar : ∀ x ∈ resetRegs, readBar State.reset 0 x.1 x.2.1 = x.2.2 := by decide +kernel

/-- Settles O57: after a module reset instances and cap are those that `clearModule` writes, and right after power-on the fields are
those of `State.reset`. -/
theorem resetState : Obligations.ResetState := by
  unfold Obligations.ResetState
  have afterReset : ∀ cause s, s.pads.porHeld = false → s.pads.inReset = false → s.pads.lastCause = none →
      ((moduleReset cause s).inst 0).res = (State.reset.inst 0).res ∧ (moduleReset cause s).pwr.cap = 1520 := by
    intro cause s hpor hin hlast
    rw [moduleReset_first cause hpor hin hlast]
    constructor
    · rw [State.inst, settleReset_insts, clearModule_insts, State.inst]
    · rw [settleReset_pwr, clearModule_cap]; rfl
  have others : ∀ i, i ≠ 0 → (State.reset.inst i).st = .absent := by
    intro i hi
    rw [reset_inst_of_ne_zero hi]; rfl
  -- the rest are fields of the reset state, and tables that are empty there
  exact ⟨rfl, rfl, afterReset, others, fun _ _ => ⟨rfl, rfl⟩, rfl, rfl, rfl, rfl, rfl, rfl, rfl, rfl, rfl, rfl, rfl, fun _ => rfl,
    fun _ => rfl, rfl, rfl, rfl, reset_readBar⟩

end Sys2Proof.Machine
end

section
/-!
PROOFS. The bytes of a Rhizome frame (R561): each field of the header is read back at its offset. The statement on frame bytes is
settled by it.
-/

namespace Sys2Proof.Machine

/-- Fields behind a prefix that ends before them. -/
theorem leAt_skip (a r : List Byte) {o : Nat} (n : Nat) (h : a.length ≤ o) : leAt (a ++ r) o n = leAt r (o - a.length) n := by
  obtain ⟨k, rfl⟩ := Nat.exists_eq_add_of_le h
  rw [leAt_append a r k n _ rfl, Nat.add_sub_cancel_left]

theorem frameHeader_length (f : RFrame) (z : Bool) (c : Nat) : (frameHeader f z c).length = 32 := by
  simp [frameHeader, leBytes_length, zeros_length]

/-- The header's fields stand at the offsets of R561, each cut to its width. -/
theorem frameHeader_fields (f : RFrame) (c : Nat) (p : List Byte) :
    let b := frameHeader f false c ++ p
    leAt b 0 1 = f.ftype % 2 ^ 8 ∧ leAt b 1 1 = f.hops % 2 ^ 8 ∧ leAt b 2 1 = f.hopIdx % 2 ^ 8 ∧
    leAt b 3 1 = f.inst % 2 ^ 8 ∧ leAt b 4 4 = f.route.toNat % 2 ^ 32 ∧ leAt b 8 2 = f.payload.length % 2 ^ 16 ∧
    leAt b 0x0C 4 = f.fseq % 2 ^ 32 ∧ leAt b 0x10 8 = f.xid.toNat % 2 ^ 64 ∧ leAt b 0x1C 4 = c % 2 ^ 32 := by
  simp only [frameHeader, List.append_assoc]
  refine ⟨?_, ?_, ?_, ?_, ?_, ?_, ?_, ?_, ?_⟩ <;>
    simp only [leAt_skip, leAt_leBytes, leBytes_length, zeros_length, Nat.reduceLeDiff, Nat.reduceSub, Nat.reducePow, Bool.false_eq_true, if_false]

/-- A frame whose fields have their widths is what its bytes give (R561). -/
theorem frameOf_frameBytes {f : RFrame} (h : Fits f) : frameOf (frameBytes f) = f := by
  obtain ⟨hft, hhops, hidx, hinst, hroute, -, hseq, hxid, -⟩ := frameHeader_fields f (frameCrc f) f.payload
  have hdrop : (frameBytes f).drop 32 = f.payload := List.drop_left' (frameHeader_length f false _)
  have route_lt := f.route.isLt
  have xid_lt := f.xid.isLt
  simp only [frameBytes] at hdrop
  simp only [frameOf, frameBytes, hft, hhops, hidx, hinst, hroute, hseq, hxid, hdrop]
  rw [Nat.mod_eq_of_lt h.ftype, Nat.mod_eq_of_lt h.hops, Nat.mod_eq_of_lt h.hopIdx, Nat.mod_eq_of_lt h.inst,
    Nat.mod_eq_of_lt route_lt, Nat.mod_eq_of_lt h.fseq, Nat.mod_eq_of_lt xid_lt, BitVec.ofNat_toNat, BitVec.ofNat_toNat,
    BitVec.setWidth_eq, BitVec.setWidth_eq]

theorem frameBytes_length (f : RFrame) : (frameBytes f).length = 32 + f.payload.length := by
  rw [frameBytes, List.length_append, frameHeader_length]

theorem frameCrc_lt (f : RFrame) : frameCrc f < 2 ^ 32 := crc32c_lt _

/-- The bytes of a frame pass the check of length and FCRC (R561). -/
theorem frameGood_frameBytes {f : RFrame} (h : Fits f) : frameGood (frameBytes f) = true := by
  obtain ⟨-, -, -, -, -, hlen, -, -, hcrc⟩ := frameHeader_fields f (frameCrc f) f.payload
  rw [← frameBytes, Nat.mod_eq_of_lt h.len] at hlen
  rw [← frameBytes, Nat.mod_eq_of_lt (frameCrc_lt f)] at hcrc
  simp [frameGood, frameOf_frameBytes h, frameBytes_length, hlen, hcrc]

/-- Settles O47: the bytes are read field by field at the header's offsets. -/
theorem frameBytesAgree : Obligations.FrameBytesAgree := fun f h =>
  ⟨frameOf_frameBytes h, frameGood_frameBytes h, frameBytes_length f⟩

end Sys2Proof.Machine
end

section
/-!
PROOFS. Frond instructions that complete or trap: scalar loads and stores, jumps and branches, floating point, control registers and
system operations (R160 to R184). Each statement is settled by the one rule of its kind of instruction.
-/

namespace Sys2Proof.Machine

/-! ## What leaves the asynchronous requests alone (R176) -/

/-- Neither STOP nor BUDGET is requested, and fc.budget does not move. -/
structure SameRequests (fr fr' : Frond) : Prop where
  stop : fr'.stopReq = fr.stopReq
  request : fr'.budgetReq = fr.budgetReq
  budget : fr'.budget = fr.budget

theorem SameRequests.refl (fr : Frond) : SameRequests fr fr := ⟨rfl, rfl, rfl⟩

theorem SameRequests.trans {a b c : Frond} (h : SameRequests a b) (k : SameRequests b c) : SameRequests a c :=
  ⟨k.stop.trans h.stop, k.request.trans h.request, k.budget.trans h.budget⟩

theorem sameRequests_setG (fr : Frond) (d : BitVec 5) (x : W64) : SameRequests fr (fr.setG d x) :=
  ⟨Frond.setG_stopReq _ _ _, Frond.setG_budgetReq _ _ _, Frond.setG_budget _ _ _⟩

theorem sameRequests_setF (fr : Frond) (d : BitVec 5) (x : Nat) : SameRequests fr (fr.setF d x) :=
  ⟨Frond.setF_stopReq _ _ _, Frond.setF_budgetReq _ _ _, Frond.setF_budget _ _ _⟩

theorem sameRequests_spStore (fr : Frond) (a : Nat) (d : List Byte) : SameRequests fr (fr.spStore a d) :=
  ⟨Frond.spStore_stopReq _ _ _, Frond.spStore_budgetReq _ _ _, Frond.spStore_budget _ _ _⟩

theorem sameRequests_raise (fr : Frond) (x : FFlags) : SameRequests fr (fr.raise x) :=
  ⟨Frond.raise_stopReq _ _, Frond.raise_budgetReq _ _, Frond.raise_budget _ _⟩

theorem sameRequests_fpResult (fr : Frond) (d : BitVec 5) (r : Nat × FFlags) : SameRequests fr (fr.fpResult d r) :=
  (sameRequests_setF fr d r.1).trans (sameRequests_raise _ _)

theorem sameRequests_fpTest (fr : Frond) (d : BitVec 5) (r : Bool × FFlags) : SameRequests fr (fr.fpTest d r) :=
  (sameRequests_setG fr d _).trans (sameRequests_raise _ _)

/-- An operation that changes the frond alone and makes no request completes. -/
theorem completes_of_op {i : Instr} {f : Fin 128} {pre : Frond → Prop} {g : Frond → Frond} {nx : Frond → W64}
    {op : State → Frond → FOut} (he : ∀ s, exec i s = .next (runFrond f.val op s))
    (ho : ∀ s fr, pre fr → op s fr = .next s (g fr) (nx fr)) (hg : ∀ fr, SameRequests fr (g fr)) : Completes i f pre g nx :=
  completes_of_next i f pre g nx op he (fun s _ hp => ho s _ hp) (fun fr => (hg fr).stop) (fun fr => (hg fr).request)
    fun fr _ => .inr (hg fr).budget

/-- At K level the budget may be written: it does not run there (R158). -/
theorem completes_of_kOp {i : Instr} {f : Fin 128} {pre : Frond → Prop} {g : Frond → Frond} {nx : Frond → W64}
    {op : State → Frond → FOut} (he : ∀ s, exec i s = .next (runFrond f.val op s))
    (ho : ∀ s fr, pre fr → op s fr = .next s (g fr) (nx fr)) (hs : ∀ fr, (g fr).stopReq = fr.stopReq)
    (hb : ∀ fr, (g fr).budgetReq = fr.budgetReq) (hk : ∀ fr, pre fr → fr.isK = true) : Completes i f pre g nx :=
  completes_of_next i f pre g nx op he (fun s _ hp => ho s _ hp) hs hb fun fr hp => .inl (hk fr hp)

/-! ## Loads and stores of scratchpad (R165, R166) -/

/-- A load whose check passes writes what it reads. -/
theorem completes_load {i : Instr} {f : Fin 128} {a : BitVec 5} {imm : BitVec 16} {n : Nat} {g : Nat → Frond → Frond}
    (he : ∀ s, exec i s = .next (runFrond f.val (loadOp a imm n g) s)) (hg : ∀ x fr, SameRequests fr (g x fr)) :
    Completes i f (fun fr => scalarFault fr (spAddr fr a imm) n = none) (fun fr => g (fr.spNat (spAddr fr a imm) n) fr)
      fun fr => fr.pc + 4 :=
  completes_of_op he (fun s fr h => by simp only [loadOp, h]) fun fr => hg _ fr

/-- A load into a general register. -/
theorem completes_loadG {i : Instr} {f : Fin 128} {a d : BitVec 5} {imm : BitVec 16} {n : Nat} (v : Nat → W64)
    (he : ∀ s, exec i s = .next (runFrond f.val (loadOp a imm n fun x fr => fr.setG d (v x)) s)) :
    Completes i f (fun fr => scalarFault fr (spAddr fr a imm) n = none) (fun fr => fr.setG d (v (fr.spNat (spAddr fr a imm) n)))
      fun fr => fr.pc + 4 :=
  completes_load he fun _ fr => sameRequests_setG fr d _

/-- A load into a floating-point register. -/
theorem completes_loadF {i : Instr} {f : Fin 128} {a d : BitVec 5} {imm : BitVec 16} {n : Nat}
    (he : ∀ s, exec i s = .next (runFrond f.val (loadOp a imm n fun x fr => fr.setF d x) s)) :
    Completes i f (fun fr => scalarFault fr (spAddr fr a imm) n = none) (fun fr => fr.setF d (fr.spNat (spAddr fr a imm) n))
      fun fr => fr.pc + 4 :=
  completes_load he fun x fr => sameRequests_setF fr d x

/-- A store whose check passes writes the low bytes of its value. -/
theorem completes_store {i : Instr} {f : Fin 128} {a : BitVec 5} {imm : BitVec 16} {n : Nat} {v : Frond → Nat}
    (he : ∀ s, exec i s = .next (runFrond f.val (storeOp a imm n v) s)) :
    Completes i f (fun fr => scalarFault fr (spAddr fr a imm) n = none) (fun fr => fr.spStore (spAddr fr a imm) (leBytes (v fr) n))
      fun fr => fr.pc + 4 :=
  completes_of_op he (fun s fr h => by simp only [storeOp, h]) fun fr => sameRequests_spStore fr _ _

theorem Frond.markDirty_eq (fr : Frond) (a : Nat) : ∃ t : Tbl Bool, fr.markDirty a = { fr with dirty := t } := by
  unfold Frond.markDirty
  split
  · exact ⟨_, rfl⟩
  · exact ⟨fr.dirty, rfl⟩

/-- A store changes scratchpad, what unfenced bytes held before, and dirty bits (R166, R167, R171). -/
theorem Frond.spStore_eq (fr : Frond) (a : Nat) (d : List Byte) :
    ∃ (u : Tbl (Option Byte)) (t : Tbl Bool), fr.spStore a d = { fr with sp := Tbl.write 0 fr.sp a d, unfenced := u, dirty := t } := by
  unfold Frond.spStore
  obtain ⟨t, ht⟩ := Frond.markDirty_eq { fr with sp := Tbl.write 0 fr.sp a d, unfenced := keepOld fr.sp a d fr.unfenced } a
  obtain ⟨u, hu⟩ := Frond.markDirty_eq
    { fr with sp := Tbl.write 0 fr.sp a d, unfenced := keepOld fr.sp a d fr.unfenced, dirty := t } (a + d.length - 1)
  rw [ht, hu]
  exact ⟨_, u, rfl⟩

/-- Settles O2: every load and store completes by the rule of its kind, and a store writes the cells of its bytes. -/
theorem scratchpadAccess : Obligations.ScratchpadAccess := by
  refine ⟨-- ld.b, ld.h, ld.w, ld.d
    fun _ _ _ _ => completes_loadG (sext 1) fun _ => rfl, fun _ _ _ _ => completes_loadG (sext 2) fun _ => rfl,
    fun _ _ _ _ => completes_loadG (sext 4) fun _ => rfl, fun _ _ _ _ => completes_loadG (sext 8) fun _ => rfl,
    -- ldu.b, ldu.h, ldu.w
    fun _ _ _ _ => completes_loadG (BitVec.ofNat 64) fun _ => rfl, fun _ _ _ _ => completes_loadG (BitVec.ofNat 64) fun _ => rfl,
    fun _ _ _ _ => completes_loadG (BitVec.ofNat 64) fun _ => rfl,
    -- fld.s, fld.d
    fun _ _ _ _ => completes_loadF fun _ => rfl, fun _ _ _ _ => completes_loadF fun _ => rfl,
    -- st.b, st.h, st.w, st.d, fst.s, fst.d
    fun _ _ _ _ => completes_store fun _ => rfl, fun _ _ _ _ => completes_store fun _ => rfl,
    fun _ _ _ _ => completes_store fun _ => rfl, fun _ _ _ _ => completes_store fun _ => rfl,
    fun _ _ _ _ => completes_store fun _ => rfl, fun _ _ _ _ => completes_store fun _ => rfl, ?_⟩
  intro fr a d k
  obtain ⟨u, t, h⟩ := fr.spStore_eq a d
  rw [h]
  exact ⟨Tbl.get_write 0 fr.sp a d k, rfl, rfl, rfl, rfl⟩

/-! ## Jumps and branches (R160, R178) -/

/-- What a retired instruction leaves that touches neither registers nor memory. -/
theorem sameData_retired {f : Nat} {s s' : State} {fr : Frond} (pc n : W64) (hs : ∃ k, s' = { s with seed := k })
    (hf : fr.g = (s.frond f).g ∧ fr.v = (s.frond f).v ∧ fr.m = (s.frond f).m ∧ fr.sp = (s.frond f).sp ∧
      fr.status = (s.frond f).status ∧ fr.tags = (s.frond f).tags) :
    ((retired f s' fr pc n).frond f).pc = pc ∧ SameData f s (retired f s' fr pc n) := by
  obtain ⟨k, rfl⟩ := hs
  obtain ⟨hg, hv, hm, hsp, hst, ht⟩ := hf
  obtain ⟨b, hb⟩ := enterOp_eq { s with seed := k } fr pc
  simp only [retired, SameData, State.setFrond_same, hb, hg, hv, hm, hsp, hst, ht]
  exact ⟨trivial, trivial, trivial, trivial, trivial, trivial, trivial, fun j hj => State.setFrond_ne _ _ _ _ hj, rfl, rfl, rfl, rfl⟩

/-- A quiet frond's operation that moves the predictor and the counters only leaves all other data (R178, R184). -/
theorem retires_sameData {i : Instr} {f : Fin 128} {op : State → Frond → FOut} {s s' : State} {fr : Frond} {pc : W64}
    (he : exec i s = .next (runFrond f.val op s)) (q : Quiet f.val s) (ho : op s (s.frond f.val) = .next s' fr pc)
    (hs : ∃ k, s' = { s with seed := k })
    (hf : ∃ (x y : W64) (c : Tbl (BitVec 2)) (h : BitVec 12) (r : List W64),
      fr = { s.frond f.val with iss := x, specx := y, bpc := c, hist := h, ras := r }) :
    ∃ t, exec i s = .next t ∧ (t.frond f.val).pc = pc ∧ SameData f.val s t := by
  obtain ⟨x, y, c, h, r, rfl⟩ := hf
  obtain ⟨n, hn⟩ := runFrond_next f.val op s s' _ pc q ho q.stop q.budget q.still
  refine ⟨_, he, ?_⟩
  rw [hn]
  exact sameData_retired pc n hs ⟨rfl, rfl, rfl, rfl, rfl, rfl⟩

/-- A misprediction moves the counters and the return stack (R180 to R184). -/
theorem mispredict_eq (s : State) (fr : Frond) :
    (∃ k, (mispredict s fr).1 = { s with seed := k }) ∧
    ∃ (x y : W64) (r : List W64), (mispredict s fr).2 = { fr with iss := x, specx := y, ras := r } := by
  unfold mispredict
  split
  · exact ⟨⟨s.seed, rfl⟩, fr.iss, fr.specx, fr.ras, rfl⟩
  · exact ⟨⟨_, rfl⟩, _, _, _, rfl⟩

/-- A conditional branch moves the predictor and the counters (R178). -/
theorem resolveBranch_eq (taken : Bool) (s : State) (fr : Frond) :
    (∃ k, (resolveBranch taken s fr).1 = { s with seed := k }) ∧
    ∃ (x y : W64) (c : Tbl (BitVec 2)) (h : BitVec 12) (r : List W64),
      (resolveBranch taken s fr).2 = { fr with iss := x, specx := y, bpc := c, hist := h, ras := r } := by
  unfold resolveBranch
  dsimp only
  split
  · exact ⟨⟨s.seed, rfl⟩, fr.iss, fr.specx, _, _, fr.ras, rfl⟩
  · obtain ⟨hs, x, y, r, h⟩ := mispredict_eq s { fr with bpc := fr.bpc.set 1 fr.bpIndex (bump (fr.bpc.get 1 fr.bpIndex) taken) }
    rw [h]
    exact ⟨hs, x, y, _, fr.hist, r, rfl⟩

/-- What JR makes of its frond: with a = 31 the return stack is popped, and a wrong prediction is paid for (R178, R181). -/
def jrOp (a : BitVec 5) : State → Frond → FOut := fun s fr =>
  if a = 31 then
    if fr.ras.head?.getD (fr.pc + 4) = fr.gr a then .next s { fr with ras := fr.ras.drop 1 } (fr.gr a)
    else .next (mispredict s { fr with ras := fr.ras.drop 1 }).1 (mispredict s { fr with ras := fr.ras.drop 1 }).2 (fr.gr a)
  else .next s fr (fr.gr a)

theorem exec_jr (f : Fin 128) (a : BitVec 5) (s : State) : exec (.jr f a) s = .next (runFrond f.val (jrOp a) s) := rfl

theorem jr_sameData (f : Fin 128) (a : BitVec 5) (s : State) (q : Quiet f.val s) :
    ∃ t, exec (.jr f a) s = .next t ∧ (t.frond f.val).pc = (s.frond f.val).gr a ∧ SameData f.val s t := by
  have he := exec_jr f a s
  by_cases ha : a = 31
  · by_cases hp : (s.frond f.val).ras.head?.getD ((s.frond f.val).pc + 4) = (s.frond f.val).gr a
    · exact retires_sameData he q ((if_pos ha).trans (if_pos hp)) ⟨s.seed, rfl⟩ ⟨_, _, _, _, _, rfl⟩
    · obtain ⟨hs, x, y, r, hr⟩ := mispredict_eq s { s.frond f.val with ras := (s.frond f.val).ras.drop 1 }
      exact retires_sameData he q ((if_pos ha).trans (if_neg hp)) hs ⟨x, y, _, _, r, hr⟩
  · exact retires_sameData he q (if_neg ha) ⟨s.seed, rfl⟩ ⟨_, _, _, _, _, rfl⟩

theorem br_sameData (f : Fin 128) (c a b : BitVec 5) (off : BitVec 11) (s : State) (x : Bool) (q : Quiet f.val s)
    (h : brCond c ((s.frond f.val).gr a) ((s.frond f.val).gr b) = some x) : ∃ t, exec (.br f c a b off) s = .next t ∧
    (t.frond f.val).pc = (if x then (s.frond f.val).pc + 4 * off.signExtend 64 else (s.frond f.val).pc + 4) ∧ SameData f.val s t := by
  obtain ⟨hs, hf⟩ := resolveBranch_eq x s (s.frond f.val)
  exact retires_sameData rfl q (by simp only [h]; rfl) hs hf

theorem brCond_none {c : BitVec 5} (h : 5 < c.toNat) (x y : W64) : brCond c x y = none := by
  unfold brCond
  split <;> first | omega | rfl

theorem sameRequests_pushRas (fr : Frond) (a : W64) : SameRequests fr (fr.pushRas a) := ⟨rfl, rfl, rfl⟩

/-- Settles O4: jumps complete by the rule of operations on the frond alone; JR and BR move the predictor, which `SameData` leaves open. -/
theorem jumpsAndBranches : Obligations.JumpsAndBranches := by
  refine ⟨?j, ?jl, ?jlr, jr_sameData, br_sameData, ?illegal, ?tests⟩
  case j => exact fun f off => completes_of_op (fun _ => rfl) (fun _ _ _ => rfl) SameRequests.refl
  case jl =>
    exact fun f off => completes_of_op (fun _ => rfl) (fun _ _ _ => rfl) fun fr =>
      (sameRequests_setG fr 31 _).trans (sameRequests_pushRas _ _)
  case jlr =>
    intro f d a
    refine completes_of_op (fun _ => rfl) (fun _ _ _ => rfl) fun fr => ?_
    split
    · exact (sameRequests_setG fr d _).trans (sameRequests_pushRas _ _)
    · exact sameRequests_setG fr d _
  case illegal =>
    exact fun f c a b off h => traps_of_exc (fun _ => rfl) fun s fr _ => ⟨none, by simp only [brCond_none h]⟩
  case tests =>
    intro x y
    refine ⟨rfl, rfl, rfl, ?_, rfl, ?_⟩
    · simp [brCond, BitVec.slt, ← decide_not]
    · simp [brCond, BitVec.ult, ← decide_not]

/-! ## Floating point (R156, R160) -/

/-- The numbered operations of FP write a register and sticky flags. -/
theorem fpOperation_sameRequests {n : Nat} {d a b : BitVec 5} {fr fr' : Frond} (h : fpOperation n d a b fr = some fr') :
    SameRequests fr fr' := by
  unfold fpOperation at h
  split at h
  case h_9 =>
    dsimp only at h
    split at h <;> cases h <;> exact sameRequests_fpResult fr d _
  case h_10 => cases h
  case h_6 | h_7 | h_8 => cases h; exact sameRequests_fpTest fr d _
  all_goals cases h; exact sameRequests_fpResult fr d _

/-- Whatever a quiet frond's operation makes of the rest, the frond goes on at the next address. -/
theorem runFrond_next_pc {f : Nat} {op : State → Frond → FOut} {s s' : State} {fr : Frond} {pc : W64} (q : Quiet f s)
    (h : op s (s.frond f) = .next s' fr pc) (hr : SameRequests (s.frond f) fr) :
    (∃ n : W64, runFrond f op s = retired f s' fr pc n) ∧ ((runFrond f op s).frond f).pc = pc := by
  obtain ⟨n, hn⟩ := runFrond_next f op s s' fr pc q h (hr.stop.trans q.stop) (hr.request.trans q.budget)
    (q.still.imp_right hr.budget.trans)
  refine ⟨⟨n, hn⟩, ?_⟩
  rw [hn, retired, State.setFrond_same]

theorem Quiet.ready {f : Nat} {s : State} (q : Quiet f s) : Ready f s := ⟨q.running, q.clock, q.fetch, q.listed⟩

/-- FP does what the free table of log 5 selects. -/
theorem fp_selects (f : Fin 128) (d a b : BitVec 5) (fn : BitVec 11) (s : State) (q : Quiet f.val s)
    (hx : (s.frond f.val).exl = false) : ∃ t, exec (.fp f d a b fn) s = .next t ∧
      match Config.fpSelect fn with
      | none => (t.frond f.val).cause = 0x01 ∧ (t.frond f.val).pc = (s.frond f.val).evec
      | some n =>
        match fpOperation n d a b (s.frond f.val) with
        | some fr => ∃ c : W64, t = retired f.val s fr ((s.frond f.val).pc + 4) c
        | none => (t.frond f.val).pc = (s.frond f.val).pc + 4 := by
  cases hn : Config.fpSelect fn with
  | none =>
    obtain ⟨t, ht, -, hpc, hc, -⟩ := (traps_of_exc (i := .fp f d a b fn) (f := f) (pre := fun _ => True) (c := 0x01) (d := 0)
      (fun _ => rfl) fun s fr _ => ⟨none, by simp only [hn]⟩) s q.ready trivial hx
    exact ⟨t, ht, hc, hpc⟩
  | some n =>
    refine ⟨_, rfl, ?_⟩
    dsimp only
    cases ho : fpOperation n d a b (s.frond f.val) with
    | some fr => exact (runFrond_next_pc q (by simp only [hn, ho]) (fpOperation_sameRequests ho)).1
    | none =>
      exact (runFrond_next_pc q (by simp only [hn, ho]; rfl) ((sameRequests_setF _ _ _).trans (sameRequests_raise _ _))).2

/-- Settles O5: the fused operations change the frond alone; FP is split by what the table selects. -/
theorem floatingResults : Obligations.FloatingResults := by
  refine ⟨?_, ?_, ?_, ?_, fp_selects⟩
  · exact fun f d a b c dbl => completes_of_op (fun _ => rfl) (fun _ _ _ => rfl) fun fr => sameRequests_fpResult fr d _
  · exact fun f d a b c dbl => completes_of_op (fun _ => rfl) (fun _ _ _ => rfl) fun fr => sameRequests_fpResult fr d _
  · exact fun f d a b c dbl => completes_of_op (fun _ => rfl) (fun _ _ _ => rfl) fun fr => sameRequests_fpResult fr d _
  · refine fun f d a b c dbl => completes_of_op (fun _ => rfl) (fun s fr _ => ?_) fun fr => sameRequests_fpResult fr d _
    have h : (if Config.fnmSubtracts then fr.fpv dbl c else fpNeg (fmtOf dbl) (fr.fpv dbl c)) =
        if !Config.fnmSubtracts then fpNeg (fmtOf dbl) (fr.fpv dbl c) else fr.fpv dbl c := by
      cases Config.fnmSubtracts <;> rfl
    rw [h]
    rfl

/-! ## Control registers and system operations (R157, R164, R174) -/

theorem sameRequests_setEw (fr : Frond) (x : BitVec 3) : SameRequests fr (fr.setEw x) := by
  unfold Frond.setEw
  split <;> exact ⟨rfl, rfl, rfl⟩

/-- A write of a control register requests nothing. -/
theorem crWrite_requests (fr : Frond) (n : Nat) (x : W64) :
    (crWrite fr n x).stopReq = fr.stopReq ∧ (crWrite fr n x).budgetReq = fr.budgetReq := by
  unfold crWrite
  split
  case h_17 => exact ⟨(sameRequests_setEw fr _).stop, (sameRequests_setEw fr _).request⟩
  all_goals exact ⟨rfl, rfl⟩

/-- fc.budget is written by its own number alone (R157). -/
theorem crWrite_budget (fr : Frond) {n : Nat} (x : W64) (h : n ≠ 0x034) : (crWrite fr n x).budget = fr.budget := by
  unfold crWrite
  split
  case h_17 => exact (sameRequests_setEw fr _).budget
  case h_22 => exact absurd rfl h
  all_goals rfl

/-- Where the level may write a register, it is K level or the register is not fc.budget (R157). -/
theorem crLevel_rw {fr : Frond} {n : Nat} {acc : CrAcc × CrAcc} (ha : crAccess n = some acc) (hl : crLevel fr acc = .rw) :
    fr.isK = true ∨ n ≠ 0x034 := by
  by_cases hk : fr.isK = true
  · exact .inl hk
  · refine .inr ?_
    rintro rfl
    obtain rfl : (CrAcc.none, CrAcc.rw) = acc := Option.some.inj ha
    simp [crLevel, hk] at hl

theorem sameRequests_spclr (fr : Frond) : SameRequests fr fr.spclr := ⟨rfl, rfl, rfl⟩

/-- A K-only operation raises PRIV at P level (R164). -/
theorem traps_kOnly {i : Instr} {f : Fin 128} {op : State → Frond → FOut}
    (he : ∀ s, exec i s = .next (runFrond f.val (kOnly op) s)) : Traps i f (fun fr => fr.isK = false) 0x02 0 :=
  traps_of_exc he fun s fr hk => ⟨none, by simp [kOnly, hk]⟩

/-- A bp. instruction raises PRIV at P level without PEN (R164). -/
theorem traps_bpOnly {i : Instr} {f : Fin 128} {g : Frond → Frond}
    (he : ∀ s, exec i s = .next (runFrond f.val (bpOnly g) s)) : Traps i f (fun fr => fr.isK = false ∧ fr.pen = false) 0x02 0 :=
  traps_of_exc he fun s fr h => ⟨none, by simp [bpOnly, h]⟩

/-- A bp. instruction at K level, or with PEN, changes the predictor or its controls. -/
theorem completes_bpOnly {i : Instr} {f : Fin 128} {g : Frond → Frond}
    (he : ∀ s, exec i s = .next (runFrond f.val (bpOnly g) s)) (hg : ∀ fr, SameRequests fr (g fr)) :
    Completes i f (fun fr => fr.isK = true ∨ fr.pen = true) g fun fr => fr.pc + 4 :=
  completes_of_op he (fun s fr h => by simp [bpOnly, h]) hg

/-- Settles O6: every operation changes the frond alone; where the level is wrong it raises PRIV. -/
theorem systemInstructions : Obligations.SystemInstructions := by
  refine ⟨?fcrd, ?fcwr, ?eret, ?fence, ?wfe, ?bpFlush, ?bpBar, ?bpUnbar, ?spclr, ?waits,
    -- eret, wfe, spclr, str.cancel at P level
    fun _ => traps_kOnly fun _ => rfl, fun _ => traps_kOnly fun _ => rfl, fun _ => traps_kOnly fun _ => rfl,
    fun _ => traps_kOnly fun _ => rfl,
    -- bp.flush, bp.bar, bp.unbar at P level without PEN
    fun _ => traps_bpOnly fun _ => rfl, fun _ => traps_bpOnly fun _ => rfl, fun _ => traps_bpOnly fun _ => rfl⟩
  case fcrd =>
    intro f d imm acc ha
    exact completes_of_op (fun _ => rfl) (fun s fr hl => by simp only [ha, hl, if_false]) fun fr => sameRequests_setG fr d _
  case fcwr =>
    intro f a imm acc ha
    refine completes_of_next _ _ _ _ _ _ (fun _ => rfl) (fun s _ hl => by simp only [ha, hl, if_true])
      (fun fr => (crWrite_requests fr _ _).1) (fun fr => (crWrite_requests fr _ _).2) fun fr hl => ?_
    exact (crLevel_rw ha hl).imp_right fun hn => crWrite_budget fr _ hn
  case eret =>
    exact fun f => completes_of_op (fun _ => rfl) (fun s fr hk => by simp only [kOnly, hk, if_true]; rfl) fun fr => ⟨rfl, rfl, rfl⟩
  case fence => exact fun f => completes_of_op (fun _ => rfl) (fun _ _ _ => rfl) fun fr => ⟨rfl, rfl, rfl⟩
  case wfe =>
    exact fun f => completes_of_op (fun _ => rfl) (fun s fr h => by simp only [kOnly, h.1, h.2, if_true]) fun fr => ⟨rfl, rfl, rfl⟩
  case bpFlush => exact fun f => completes_bpOnly (fun _ => rfl) fun fr => ⟨rfl, rfl, rfl⟩
  case bpBar => exact fun f => completes_bpOnly (fun _ => rfl) fun fr => ⟨rfl, rfl, rfl⟩
  case bpUnbar => exact fun f => completes_bpOnly (fun _ => rfl) fun fr => ⟨rfl, rfl, rfl⟩
  case spclr =>
    exact fun f => completes_of_op (fun _ => rfl) (fun s fr hk => by simp only [kOnly, hk, if_true]) sameRequests_spclr
  case waits =>
    intro f s r hk hv
    have h := runFrond_stall f.val _ s r (show (kOnly fun s fr =>
      if fr.event then .next s { fr with event := false } (fr.pc + 4) else .stall) s (s.frond f.val) = .stall by
        simp [kOnly, hk, hv])
    exact congrArg Host.Outcome.next h

end Sys2Proof.Machine
end

section
/-!
PROOFS. Entry into the exception handler, double faults and unlisted words (R160, R174, R175). The statement on exceptions is settled by
them.
-/

namespace Sys2Proof.Machine

/-! ## Exception entry (R174) -/

/-- A frond that is executing raises an exception outside its handler: what its registers become. -/
theorem runFrond_enters {f : Nat} {op : State → Frond → FOut} {s : State} {c d : Nat} {tv : Option Nat}
    (hr : (s.frond f).halted = false) (hc : clockOn f s = true) (hp : (s.frond f).fetchOk = true)
    (ho : fetched op s (s.frond f) = .exc s (s.frond f) c d tv) (hx : (s.frond f).exl = false) :
    ∃ (x y cy b w : W64) (q : Bool), (runFrond f op s).frond f = Frond.flush { s.frond f with
      iss := x, specx := y, cyc := cy, budget := b, budgetReq := q, epc := (s.frond f).pc,
      cause := BitVec.ofNat 64 (2 ^ 8 * d + c), tval := w, status := statusOf true (s.frond f).ie (s.frond f).isK true,
      pc := (s.frond f).evec } := by
  have hrun : runFrond f op s = takeException f (excTime (squashInstr (s.frond f) s.freshNat.1) (s.frond f).isK s.freshNat.2).1 false c d
      tv (excTime (squashInstr (s.frond f) s.freshNat.1) (s.frond f).isK s.freshNat.2).2 := by
    unfold runFrond
    simp [hr, hc, hp, ho]
  obtain ⟨x, y, cy, b, q, hfr⟩ := excTime_squashInstr_eq (s.frond f) s.freshNat.1 (s.frond f).isK s.freshNat.2
  obtain ⟨w, hw⟩ := takeException_frond f { s.frond f with iss := x, specx := y, cyc := cy, budget := b, budgetReq := q } false c d tv
    (excTime (squashInstr (s.frond f) s.freshNat.1) (s.frond f).isK s.freshNat.2).2 hx
  refine ⟨x, y, cy, b, w, q, ?_⟩
  rw [hrun, hfr, hw]
  simp only [Bool.false_eq_true, if_false, Nat.zero_add]
  rfl

theorem fetched_listed {op : State → Frond → FOut} {s : State} {fr : Frond} (h : fr.listed = true) : fetched op s fr = op s fr :=
  if_pos h

theorem fetched_unlisted {op : State → Frond → FOut} {s : State} {fr : Frond} (h : fr.listed = false) :
    fetched op s fr = .exc s fr 0x01 0 none :=
  if_neg (by simp [h])

/-- An unlisted word raises ILLEGAL whatever the command is (R160, R161). -/
theorem runFrond_unlisted (f : Fin 128) (op : State → Frond → FOut) (s : State) (h : (s.frond f.val).listed = false) :
    runFrond f.val op s = illegalWord f s := by
  unfold illegalWord runFrond
  simp only [fetched_unlisted h]

/-! ## Double faults (R175) -/

/-- An operation that leaves the state alone for each element leaves it alone for the list. -/
theorem forEach_eq_self {α β : Type} {f : β → α → α} {l : List β} {a : α} (h : ∀ b ∈ l, f b a = a) : forEach f l a = a := by
  induction l with
  | nil => rfl
  | cons b l ih => rw [forEach, h b (List.mem_cons_self ..), ih fun c hc => h c (List.mem_cons_of_mem _ hc)]

theorem mem_insertOn {α : Type} {key : α → Nat} {a x : α} {l : List α} : x ∈ insertOn key a l ↔ x = a ∨ x ∈ l := by
  induction l with
  | nil => simp [insertOn]
  | cons b l ih =>
    unfold insertOn
    split <;> simp [ih, or_left_comm]

theorem mem_sortOn {α : Type} {key : α → Nat} {x : α} {l : List α} : x ∈ sortOn key l ↔ x ∈ l := by
  induction l with
  | nil => rfl
  | cons a l ih => rw [sortOn, mem_insertOn, ih, List.mem_cons]

theorem mem_tagOrder {fr : Frond} {n : Nat} : n ∈ tagOrder fr ↔ n < 16 := by rw [tagOrder, mem_sortOn, List.mem_range]

/-- No frame waits to leave: nothing is released. -/
theorem settleLeaving_none {s : State} (h : s.mem.leaving = []) : settleLeaving s = s := by
  simp [settleLeaving, h]

/-- Without a pending request nothing is cancelled (R177). -/
theorem cancelTags_none {f : Nat} {s : State} (h : ∀ n < 16, ((s.frond f).tags.get StreamTag.idle n).st ≠ .pending)
    (hl : s.mem.leaving = []) : cancelTags f s = s := by
  unfold cancelTags
  rw [forEach_eq_self fun n hn => by simp [h n (mem_tagOrder.1 hn)], settleLeaving_none hl]

/-- Without a pending request nothing is left to settle (R177). -/
theorem settleTags_none {f : Nat} {s : State} (h : ∀ n < 16, ((s.frond f).tags.get StreamTag.idle n).st ≠ .pending) :
    settleTags f s = s := by
  unfold settleTags
  exact forEach_eq_self fun n hn => by simp [putWaits, h n (mem_tagOrder.1 hn)]

/-- With the gate open a firmware event is a new head of the log (R474, R487). -/
theorem fwEvent_open {code inst detail : Nat} {s : State} (h : s.mp.arbitrating = false) :
    fwEvent code inst detail s = logEvent code 0x01 inst detail none { s with mp := { s.mp with outSeq := s.mp.outSeq + 1 } } :=
  gateOut_open _ _ _ h

/-- An exception inside the handler is a double fault (R175). -/
theorem takeException_inside {f : Nat} {fr : Frond} {async : Bool} {c d : Nat} {tv : Option Nat} {s : State} (h : fr.exl = true) :
    takeException f fr async c d tv s = doubleFault f fr s :=
  if_pos h

/-- A double fault of a frond without an item halts it and is logged (R175). -/
theorem doubleFault_idle {f : Nat} {fr : Frond} {s : State} (hi : fr.item = none)
    (ht : ∀ n < 16, (fr.tags.get StreamTag.idle n).st ≠ .pending) (hl : s.mem.leaving = []) (ha : s.mp.arbitrating = false) :
    ((doubleFault f fr s).frond f).halted = true ∧ (doubleFault f fr s).log.entries.head?.map (·.code) = some 0x0201 := by
  let t := logEvent 0x0201 0x01 fr.inst.toNat f none
    { s.setFrond f { fr with halted := true } with mp := { s.mp with outSeq := s.mp.outSeq + 1 } }
  have hfr : t.frond f = { fr with halted := true } := State.setFrond_same s f _
  have hev : fwEvent 0x0201 fr.inst.toNat f (s.setFrond f { fr with halted := true }) = t := fwEvent_open ha
  have htags : ∀ n < 16, ((t.frond f).tags.get StreamTag.idle n).st ≠ .pending := by rw [hfr]; exact ht
  have hfail : failItem f stInternal t = t := by simp only [failItem, hfr, hi]
  have hd : doubleFault f fr s = t.setFrond f { t.frond f with item := none, stopping := none, reserved := none } := by
    unfold doubleFault
    dsimp only
    rw [hev, hfail, cancelTags_none htags hl, settleTags_none htags, hi]
  rw [hd, State.setFrond_same, hfr]
  exact ⟨rfl, rfl⟩

/-- Settles O7: `runFrond_enters` gives the registers after entry, `doubleFault_idle` what a double fault leaves. -/
theorem exceptions : Obligations.Exceptions := by
  refine ⟨fun f b => traps_of_exc (fun _ => rfl) fun s fr _ => ⟨none, rfl⟩, ?flushed, ?double, runFrond_unlisted, ?unlisted⟩
  case flushed =>
    intro f b s r hx
    obtain ⟨x, y, cy, n, w, q, h⟩ := runFrond_enters (op := fun s fr => .exc s fr 0x0C b.toNat none) r.running r.clock r.fetch
      (fetched_listed r.listed) hx
    exact ⟨_, rfl, by rw [h]; exact ⟨rfl, rfl, rfl⟩⟩
  case double =>
    intro f b s r hx hi ht hl ha
    refine ⟨_, rfl, ?_⟩
    obtain ⟨x, y, cy, n, q, hfr⟩ := excTime_squashInstr_eq (s.frond f.val) s.freshNat.1 (s.frond f.val).isK s.freshNat.2
    rw [runFrond_exc _ _ _ _ _ _ _ _ r rfl, hfr, takeException_inside]
    · exact doubleFault_idle hi ht hl ha
    · exact hx
  case unlisted =>
    intro f b s hr hc hp hn hx
    obtain ⟨x, y, cy, n, w, q, h⟩ := runFrond_enters (op := fun s fr => .exc s fr 0x0C b.toNat none) hr hc hp (fetched_unlisted hn) hx
    exact ⟨_, rfl, by rw [h]; exact ⟨rfl, rfl, rfl, rfl, rfl⟩⟩

/-- A word that does not decode enters the handler with ILLEGAL and leaves the registers (R160, R161, R198). -/
theorem illegalWord_enters {f : Fin 128} {s : State} (r : Ready f.val s) (hx : (s.frond f.val).exl = false) :
    let t := illegalWord f s
    (t.frond f.val).epc = (s.frond f.val).pc ∧ (t.frond f.val).pc = (s.frond f.val).evec ∧ (t.frond f.val).cause = 1 ∧
    (t.frond f.val).status = statusOf true (s.frond f.val).ie (s.frond f.val).isK true ∧
    (t.frond f.val).g = (s.frond f.val).g ∧ (t.frond f.val).v = (s.frond f.val).v ∧ (t.frond f.val).m = (s.frond f.val).m ∧
    (t.frond f.val).sp = (s.frond f.val).sp := by
  obtain ⟨x, y, cy, n, w, q, h⟩ := runFrond_enters (op := fun s fr => .exc s fr 0x01 0 none) r.running r.clock r.fetch
    (fetched_listed r.listed) hx
  simp only [illegalWord, h]
  exact ⟨rfl, rfl, rfl, rfl, rfl, rfl, rfl, rfl⟩

end Sys2Proof.Machine
end

section
/-!
PROOFS. The stream unit, the hand-off port and the events that reach a frond from outside (R158, R164, R168 to R177, R187). The statement
on streams and events is settled by them.
-/

namespace Sys2Proof.Machine

/-! ## Loops over a list -/

/-- A property that every step keeps holds after the loop. -/
theorem forEach_keeps {α β : Type} {P : α → Prop} {f : β → α → α} {l : List β} {a : α} (h : ∀ b ∈ l, ∀ x, P x → P (f b x)) (ha : P a) :
    P (forEach f l a) := by
  induction l generalizing a with
  | nil => exact ha
  | cons b l ih => exact ih (fun c hc => h c (List.mem_cons_of_mem _ hc)) (h b (List.mem_cons_self ..) a ha)

/-- What each step brings about for its own element, and no step undoes, holds of every element after the loop. -/
theorem forEach_brings {α β : Type} {P : β → α → Prop} {f : β → α → α} (brings : ∀ b x, P b (f b x))
    (keeps : ∀ b c x, P b x → P b (f c x)) {l : List β} {a : α} : ∀ b ∈ l, P b (forEach f l a) := by
  induction l generalizing a with
  | nil => simp
  | cons c l ih =>
    intro b hb
    rcases List.mem_cons.1 hb with rfl | hb
    · exact forEach_keeps (P := P b) (l := l) (fun c _ x => keeps b c x) (brings b a)
    · exact ih b hb

/-! ## Frames that leave (R340, R345) -/

@[simp] theorem leaveQuota_fronds (f : Nat) (s : State) : (leaveQuota f s).fronds = s.fronds := by
  unfold leaveQuota; split <;> rfl

@[simp] theorem releaseFrame_fronds (f : Nat) (s : State) : (releaseFrame f s).fronds = s.fronds := by
  unfold releaseFrame; dsimp only; split <;> exact leaveQuota_fronds f s

@[simp] theorem settleLeaving_fronds (s : State) : (settleLeaving s).fronds = s.fronds := by
  unfold settleLeaving
  split
  · rfl
  · dsimp only
    refine forEach_keeps (P := fun t : State => t.fronds = s.fronds) ?_ rfl
    exact fun l _ t ht => (releaseFrame_fronds _ t).trans ht

@[simp] theorem settleLeaving_frond (s : State) (f : Nat) : (settleLeaving s).frond f = s.frond f := by
  simp only [State.frond, settleLeaving_fronds]

/-! ## Tags that are cancelled (R169, R177) -/

/-- A tag that is pending has been sent. -/
def SentIfPending (f : Nat) (s : State) (n : Nat) : Prop :=
  ((s.frond f).tags.get StreamTag.idle n).st = .pending → ((s.frond f).tags.get StreamTag.idle n).sent = true

/-- Nothing but the tags differs between two states of a frond. -/
def OnlyTags (fr fr' : Frond) : Prop := ∃ t : Tbl StreamTag, fr' = { fr with tags := t }

/-- Cancelling a tag changes that tag alone, which does not stay pending without having been sent. -/
theorem cancelTag_eq (f tag : Nat) (s : State) : ∃ t : StreamTag, (t.st = .pending → t.sent = true) ∧
    (cancelTag f tag s).frond f = { s.frond f with tags := (s.frond f).tags.set StreamTag.idle tag t } := by
  unfold cancelTag
  dsimp only
  split
  · refine ⟨_, ?_, State.setFrond_same _ _ _⟩
    intro h
    cases h
  · split <;> refine ⟨_, ?_, State.setFrond_same _ _ _⟩ <;> exact fun _ => rfl

/-- One step of str.cancel. -/
def cancelStep (f tag : Nat) (s : State) : State :=
  if ((s.frond f).tags.get StreamTag.idle tag).st = .pending ∧ !((s.frond f).tags.get StreamTag.idle tag).sent then cancelTag f tag s
  else s

theorem cancelTags_eq (f : Nat) (s : State) :
    cancelTags f s = settleLeaving (forEach (cancelStep f) (tagOrder (s.frond f)) s) := rfl

theorem cancelStep_brings (f tag : Nat) (s : State) : SentIfPending f (cancelStep f tag s) tag := by
  unfold cancelStep
  split
  · obtain ⟨t, ht, h⟩ := cancelTag_eq f tag s
    rw [SentIfPending, h]
    simpa using ht
  · next hn =>
    intro hp
    simpa [hp] using hn

theorem cancelStep_keeps (f n tag : Nat) (s : State) (hs : SentIfPending f s n) : SentIfPending f (cancelStep f tag s) n := by
  by_cases hn : n = tag
  · exact hn ▸ cancelStep_brings f tag s
  · unfold cancelStep
    split
    · obtain ⟨t, -, h⟩ := cancelTag_eq f tag s
      rw [SentIfPending, h]
      simpa only [SentIfPending, Tbl.get_set_ne _ _ _ hn] using hs
    · exact hs

theorem cancelStep_onlyTags (f tag : Nat) (s : State) {fr : Frond} (h : OnlyTags fr (s.frond f)) :
    OnlyTags fr ((cancelStep f tag s).frond f) := by
  unfold cancelStep
  split
  · obtain ⟨t, -, hc⟩ := cancelTag_eq f tag s
    obtain ⟨u, hu⟩ := h
    exact ⟨_, by rw [hc, hu]⟩
  · exact h

/-- str.cancel leaves no tag pending and unsent, and nothing but tags changes (R177). -/
theorem cancelTags_frond (f : Nat) (s : State) :
    OnlyTags (s.frond f) ((cancelTags f s).frond f) ∧ ∀ n < 16, SentIfPending f (cancelTags f s) n := by
  have hframe (n : Nat) (t : State) (h : SentIfPending f t n) : SentIfPending f (settleLeaving t) n := by
    simpa only [SentIfPending, settleLeaving_frond] using h
  rw [cancelTags_eq]
  refine ⟨?_, fun n hn => hframe n _ ?_⟩
  · rw [settleLeaving_frond]
    exact forEach_keeps (P := fun t => OnlyTags (s.frond f) (t.frond f)) (fun tag _ t ht => cancelStep_onlyTags f tag t ht) ⟨_, rfl⟩
  · exact forEach_brings (P := fun n t => SentIfPending f t n) (cancelStep_brings f) (fun n tag t => cancelStep_keeps f n tag t) n
      (mem_tagOrder.2 hn)

/-! ## Instructions of the stream unit and the hand-off port -/

/-- What a retired instruction leaves of the registers it made. -/
theorem retired_frond (f : Nat) (s : State) (fr : Frond) (pc n : W64) : ∃ b r i c : W64,
    (retired f s fr pc n).frond f = { fr with budget := b, pc := pc, ret := r, iss := i, cyc := c } := by
  obtain ⟨b, hb⟩ := enterOp_eq s fr pc
  exact ⟨b, _, _, _, by rw [retired, State.setFrond_same, hb]⟩

/-- A quiet frond's operation that retires: the registers that it leaves. -/
theorem runFrond_retires {f : Nat} {op : State → Frond → FOut} {s s' : State} {fr : Frond} {pc : W64} (q : Quiet f s)
    (h : op s (s.frond f) = .next s' fr pc) (hr : SameRequests (s.frond f) fr) : ∃ b r i c : W64,
    (runFrond f op s).frond f = { fr with budget := b, pc := pc, ret := r, iss := i, cyc := c } := by
  obtain ⟨⟨n, hn⟩, -⟩ := runFrond_next_pc q h hr
  rw [hn]
  exact retired_frond f s' fr pc n

theorem strIssue_starts (f : Fin 128) (a b : BitVec 5) (s : State) (q : Quiet f.val s) (hb : b.toNat ≤ 15)
    (hp : ((s.frond f.val).tags.get StreamTag.idle b.toNat).st ≠ .pending) (ha : ((s.frond f.val).gr a).toNat % 8 = 0)
    (ho : (s.frond f.val).spOpen ((s.frond f.val).gr a).toNat 32 = true)
    (hd : (readDesc (s.frond f.val) ((s.frond f.val).gr a).toNat).ok (s.frond f.val) = true)
    (hk : (s.frond f.val).isK = true ∨ (readDesc (s.frond f.val) ((s.frond f.val).gr a).toNat).space = 0) :
    ∃ t, exec (.strIssue f a b) s = .next t ∧ (t.frond f.val).pc = (s.frond f.val).pc + 4 ∧
      (t.frond f.val).g = (s.frond f.val).g ∧ (t.frond f.val).sp = (s.frond f.val).sp ∧
      (t.frond f.val).tags.get StreamTag.idle b.toNat =
        makeTag s (s.frond f.val) (readDesc (s.frond f.val) ((s.frond f.val).gr a).toNat) := by
  have hlevel : ¬ ((!(s.frond f.val).isK) = true ∧ (readDesc (s.frond f.val) ((s.frond f.val).gr a).toNat).space ≠ 0) := by
    rcases hk with h | h <;> simp [h]
  refine ⟨_, rfl, ?_⟩
  have hop : strIssueOp a b s (s.frond f.val) = .next
      { s with seed := s.seed + if (readDesc (s.frond f.val) ((s.frond f.val).gr a).toNat).dir = 1 then
        (readDesc (s.frond f.val) ((s.frond f.val).gr a).toNat).len else 0 }
      { s.frond f.val with tags := ((s.frond f.val).tags.set StreamTag.idle b.toNat
        (makeTag s (s.frond f.val) (readDesc (s.frond f.val) ((s.frond f.val).gr a).toNat)) : Tbl StreamTag) }
      ((s.frond f.val).pc + 4) := by
    unfold strIssueOp
    dsimp only
    rw [if_neg (Nat.not_lt.2 hb), if_neg hp, if_neg (by simp [ha, ho]), if_neg hlevel, if_neg (by simp [hd])]
  obtain ⟨n, r, i, c, h⟩ := runFrond_retires q hop ⟨rfl, rfl, rfl⟩
  rw [h]
  refine ⟨rfl, rfl, rfl, ?_⟩
  dsimp only
  exact Tbl.get_set_same _ _ _ _

/-- str.cancel at its frond. -/
def strCancelOp (f : Nat) : State → Frond → FOut :=
  kOnly fun s fr => .next (cancelTags f (s.setFrond f fr)) ((cancelTags f (s.setFrond f fr)).frond f) (fr.pc + 4)

theorem exec_strCancel (f : Fin 128) (s : State) : exec (.strCancel f) s = .next (runFrond f.val (strCancelOp f.val) s) := rfl

theorem strCancel_cancels (f : Fin 128) (s : State) (q : Quiet f.val s) (hk : (s.frond f.val).isK = true) :
    ∃ t, exec (.strCancel f) s = .next t ∧ (t.frond f.val).pc = (s.frond f.val).pc + 4 ∧ (t.frond f.val).g = (s.frond f.val).g ∧
      ∀ n < 16, ((t.frond f.val).tags.get StreamTag.idle n).st = .pending →
        ((t.frond f.val).tags.get StreamTag.idle n).sent = true := by
  obtain ⟨⟨u, hu⟩, hsent⟩ := cancelTags_frond f.val (s.setFrond f.val (s.frond f.val))
  rw [State.setFrond_same] at hu
  have hop : strCancelOp f.val s (s.frond f.val) = _ := if_pos hk
  obtain ⟨n, r, i, c, h⟩ := runFrond_retires q hop (by rw [hu]; exact ⟨rfl, rfl, rfl⟩)
  refine ⟨_, exec_strCancel f s, ?_⟩
  rw [h]
  simp only [SentIfPending, hu] at hsent ⊢
  exact ⟨trivial, trivial, hsent⟩

/-- HO at its frond. -/
def hoOp (d a b : BitVec 5) (fn : BitVec 11) : State → Frond → FOut := fun s fr =>
  match Config.hoSelect fn with
  | none => .exc s fr 0x01 0 none
  | some n =>
    if !fr.isK then .exc s fr 0x02 0 none
    else if n = 0 ∧ (handoffDepth s fr).any (fun k => decide (k ≤ batchesOut fr)) then .stall
    else .next s.freshWord.2 ({ fr with hoOut := fr.hoOut ++ [(n, fr.gr a, fr.gr b)] }.setG d s.freshWord.1) (fr.pc + 4)

theorem exec_ho (f : Fin 128) (d a b : BitVec 5) (fn : BitVec 11) (s : State) :
    exec (.ho f d a b fn) s = .next (runFrond f.val (hoOp d a b fn) s) := rfl

@[simp] theorem Frond.setG_hoOut (fr : Frond) (d : BitVec 5) (x : W64) : (fr.setG d x).hoOut = fr.hoOut := by
  unfold Frond.setG; split <;> rfl

theorem sameRequests_hoOut (fr : Frond) (l : List (Nat × W64 × W64)) : SameRequests fr { fr with hoOut := l } := ⟨rfl, rfl, rfl⟩

/-- HO hands its operands to the dispatcher, or raises ILLEGAL where the free table selects nothing (log 6). -/
theorem ho_hands (f : Fin 128) (d a b : BitVec 5) (fn : BitVec 11) (s : State) (q : Quiet f.val s) (hk : (s.frond f.val).isK = true)
    (hx : (s.frond f.val).exl = false) (hd : handoffDepth s (s.frond f.val) = none) : ∃ t, exec (.ho f d a b fn) s = .next t ∧
      match Config.hoSelect fn with
      | none => (t.frond f.val).cause = 0x01 ∧ (t.frond f.val).pc = (s.frond f.val).evec
      | some n => (t.frond f.val).pc = (s.frond f.val).pc + 4 ∧
          (t.frond f.val).hoOut = (s.frond f.val).hoOut ++ [(n, (s.frond f.val).gr a, (s.frond f.val).gr b)] := by
  cases hn : Config.hoSelect fn with
  | none =>
    obtain ⟨t, ht, -, hpc, hc, -⟩ := (traps_of_exc (pre := fun _ => True) (c := 0x01) (d := 0) (exec_ho f d a b fn)
      fun s fr _ => ⟨none, by simp only [hoOp, hn]⟩) s q.ready trivial hx
    exact ⟨t, ht, hc, hpc⟩
  | some n =>
    refine ⟨_, exec_ho f d a b fn s, ?_⟩
    have hop : hoOp d a b fn s (s.frond f.val) = .next s.freshWord.2 ({ s.frond f.val with
        hoOut := (s.frond f.val).hoOut ++ [(n, (s.frond f.val).gr a, (s.frond f.val).gr b)] }.setG d s.freshWord.1)
        ((s.frond f.val).pc + 4) := by
      simp [hoOp, hn, hk, hd]
    obtain ⟨m, r, i, c, h⟩ := runFrond_retires q hop ((sameRequests_hoOut _ _).trans (sameRequests_setG _ _ _))
    rw [h]
    exact ⟨rfl, Frond.setG_hoOut _ _ _⟩

/-! ## Events from outside (R158, R170, R175, R177) -/

/-- STOP reaches a frond whose item has been told to stop (R177). -/
theorem exec_frondStop (f : Fin 128) (s : State) (hi : (s.frond f.val).item.isSome = true) (hs : (s.frond f.val).stopping.isSome = true)
    (hh : (s.frond f.val).halted = false) :
    exec (.frondStop f) s = .next (takeAsync f.val (s.setFrond f.val { s.frond f.val with stopReq := true })) := by
  show execFrondStop f s = _
  unfold execFrondStop
  rw [Option.isSome_iff_ne_none] at hi hs
  rw [if_neg]
  simp [hi, hs, hh]

/-- At K level with interrupts off nothing is taken (R176). -/
theorem takeAsync_masked {f : Nat} {s : State} (hk : (s.frond f).isK = true) (he : (s.frond f).ie = false) : takeAsync f s = s :=
  if_pos (by simp [hk, he])

/-- STOP is taken first (R176, log 27). -/
theorem takeAsync_stop {f : Nat} {s : State} (hk : (s.frond f).isK = false) (hs : (s.frond f).stopReq = true) :
    takeAsync f s = takeStop f s := by
  unfold takeAsync
  simp [hk, hs]

theorem takeAsync_budget {f : Nat} {s : State} (hk : (s.frond f).isK = false) (hs : (s.frond f).stopReq = false)
    (hb : (s.frond f).budgetReq = true) :
    takeAsync f s = takeException f { s.frond f with budgetReq := false } true 0x11 0 none s := by
  unfold takeAsync
  simp [hk, hs, hb]

/-- Entry into the handler halts nothing (R174). -/
theorem takeException_halted {f : Nat} {fr : Frond} {async : Bool} {c d : Nat} {tv : Option Nat} {s : State} (hx : fr.exl = false) :
    ((takeException f fr async c d tv s).frond f).halted = fr.halted := by
  obtain ⟨w, h⟩ := takeException_frond f fr async c d tv s hx
  rw [h]
  rfl

/-- A STOP taken outside the handler: entry, cancellation, settling and the report (R177). -/
theorem takeStop_outside {f : Nat} {s : State} (hx : (s.frond f).exl = false) (hh : (s.frond f).halted = false) :
    takeStop f s = reportEnded f (settleTags f (cancelTags f
      (takeException f { s.frond f with stopReq := false } true 0x10 0 none s))) := by
  have hn : ((takeException f { s.frond f with stopReq := false } true 0x10 0 none s).frond f).halted = false :=
    (takeException_halted (by exact hx)).trans hh
  unfold takeStop
  dsimp only
  rw [hn, if_neg Bool.false_ne_true]

theorem budget_raises (f : Fin 128) (s : State) (hk : (s.frond f.val).isK = false) (hh : (s.frond f.val).halted = false)
    (hc : clockOn f.val s = true) (hb : (s.frond f.val).budget = 1) (hs : (s.frond f.val).stopReq = false)
    (hx : (s.frond f.val).exl = false) : ∃ t, exec (.budget f) s = .next t ∧ (t.frond f.val).budget = 0 ∧
      (t.frond f.val).cause = BitVec.ofNat 64 (2 ^ 63 + 0x11) ∧ (t.frond f.val).epc = (s.frond f.val).pc ∧
      (t.frond f.val).pc = (s.frond f.val).evec := by
  have hpass : (s.frond f.val).passCycles false 1 =
      { s.frond f.val with cyc := (s.frond f.val).cyc + 1, budget := 0, budgetReq := true } := by
    simp [Frond.passCycles, hb]
  have hexec : exec (.budget f) s = .next (takeAsync f.val (s.setFrond f.val ((s.frond f.val).passCycles false 1))) := by
    show execBudget f s = _
    unfold execBudget
    rw [if_neg]
    simp [hk, hh, hc, hb]
  refine ⟨_, hexec, ?_⟩
  rw [hpass, takeAsync_budget (by rw [State.setFrond_same]; exact hk) (by rw [State.setFrond_same]; exact hs)
    (by rw [State.setFrond_same]), State.setFrond_same]
  obtain ⟨w, h⟩ := takeException_frond f.val
    { s.frond f.val with cyc := (s.frond f.val).cyc + 1, budget := 0, budgetReq := false } true 0x11 0 none
    (s.setFrond f.val { s.frond f.val with cyc := (s.frond f.val).cyc + 1, budget := 0, budgetReq := true }) hx
  rw [h]
  exact ⟨rfl, rfl, rfl, rfl⟩

theorem doubleFaultRecovery_resets (f : Fin 128) (s : State) (h : (s.frond f.val).halted = true) :
    exec (.doubleFaultRecovery f) s = .next (s.setFrond f.val { Frond.reset with sp := (s.frond f.val).spclr.sp }) :=
  if_pos h

/-- Dirty bits that are set leave tags and scratchpad alone (R167). -/
theorem forEach_markDirty (l : List Nat) (fr : Frond) :
    ∃ t : Tbl Bool, forEach (fun k (fr : Frond) => fr.markDirty (4096 * k)) l fr = { fr with dirty := t } := by
  refine forEach_keeps (P := fun x => ∃ t : Tbl Bool, x = { fr with dirty := t }) ?_ ⟨fr.dirty, rfl⟩
  rintro k - x ⟨t, rfl⟩
  obtain ⟨u, hu⟩ := Frond.markDirty_eq { fr with dirty := t } (4096 * k)
  exact ⟨u, hu⟩

/-- A host GET that comes back whole ends done, with its bytes in scratchpad (R170). -/
theorem endTag_hostGet {f tag : Nat} {d : List Byte} {s : State} (h1 : ((s.frond f).tags.get StreamTag.idle tag).space = 1)
    (hg : ((s.frond f).tags.get StreamTag.idle tag).put = false) (hc : ((s.frond f).tags.get StreamTag.idle tag).cut = false)
    (hl : ((s.frond f).tags.get StreamTag.idle tag).len = d.length) (hd : d ≠ []) (hp : (s.hostPort (itemPort f s)).absent = false) :
    (((endTag f tag (some d) s).frond f).tags.get StreamTag.idle tag).st = .done ∧
      Tbl.read 0 ((endTag f tag (some d) s).frond f).sp ((s.frond f).tags.get StreamTag.idle tag).spaddr d.length = d := by
  have hne : d.isEmpty = false := by simpa using hd
  unfold endTag
  simp only [h1, hg, hc, hl, hp, Nat.one_ne_zero, Bool.false_eq_true, if_false, if_true, Option.getD_some, Nat.lt_irrefl,
    List.take_length, hne, false_and, State.setFrond_same]
  obtain ⟨t, ht⟩ := forEach_markDirty
    (List.range' (((s.frond f).tags.get StreamTag.idle tag).spaddr / 4096)
      ((((s.frond f).tags.get StreamTag.idle tag).spaddr + d.length - 1) / 4096 + 1 -
        ((s.frond f).tags.get StreamTag.idle tag).spaddr / 4096))
    { s.frond f with sp := Tbl.write 0 (s.frond f).sp ((s.frond f).tags.get StreamTag.idle tag).spaddr d }
  rw [ht]
  dsimp only
  rw [Tbl.get_set_same]
  exact ⟨rfl, Tbl.read_write _ _ _ _⟩

theorem streamRequestDone_hostGet (f : Fin 128) (tag : Nat) (d : List Byte) (s : State)
    (hst : ((s.frond f.val).tags.get StreamTag.idle tag).st = .pending) (h1 : ((s.frond f.val).tags.get StreamTag.idle tag).space = 1)
    (hg : ((s.frond f.val).tags.get StreamTag.idle tag).put = false) (hc : ((s.frond f.val).tags.get StreamTag.idle tag).cut = false)
    (hl : ((s.frond f.val).tags.get StreamTag.idle tag).len = d.length) (hd : d ≠ [])
    (hp : (s.hostPort (itemPort f.val s)).absent = false) : ∃ t, exec (.streamRequestDone f tag (some d)) s = .next t ∧
      ((t.frond f.val).tags.get StreamTag.idle tag).st = .done ∧
      Tbl.read 0 (t.frond f.val).sp ((s.frond f.val).tags.get StreamTag.idle tag).spaddr d.length = d := by
  have hexec : exec (.streamRequestDone f tag (some d)) s = .next (endRequest f.val tag (some d) s) := by
    show execStreamRequestDone f tag (some d) s = _
    unfold execStreamRequestDone
    rw [if_pos]
    simp [hst, blockedTag, h1]
  refine ⟨_, hexec, ?_⟩
  rw [endRequest, settleLeaving_frond]
  exact endTag_hostGet h1 hg hc hl hd hp

/-- Settles O8: one lemma for each instruction and each event. -/
theorem streamsAndEvents : Obligations.StreamsAndEvents := by
  refine ⟨strIssue_starts, ?poll, ?wait, strCancel_cancels, ho_hands, ?stopWaits, ?stopTaken, budget_raises,
    doubleFaultRecovery_resets, streamRequestDone_hostGet⟩
  case poll =>
    exact fun f d b hb => completes_of_op (fun _ => rfl) (fun s fr _ => if_neg (Nat.not_lt.2 hb)) fun fr => sameRequests_setG fr d _
  case wait =>
    intro f b hb
    refine completes_of_op (op := strWaitOp b) (fun _ => rfl) (fun s fr h => ?_) SameRequests.refl
    unfold strWaitOp
    dsimp only
    rw [if_neg (Nat.not_lt.2 hb), if_neg h.1, if_neg (by simpa using h.2)]
    rfl
  case stopWaits =>
    intro f s hi hs hh hk he
    rw [exec_frondStop f s hi hs hh, takeAsync_masked]
    · rw [State.setFrond_same]; exact hk
    · rw [State.setFrond_same]; exact he
  case stopTaken =>
    intro f s hi hs hh hk hx
    rw [exec_frondStop f s hi hs hh, takeAsync_stop, takeStop_outside, State.setFrond_same]
    · rw [State.setFrond_same]; exact hx
    · rw [State.setFrond_same]; exact hh
    · rw [State.setFrond_same]; exact hk
    · rw [State.setFrond_same]

end Sys2Proof.Machine
end

section
/-!
PROOFS. Vector instructions between registers (R188 to R205, R211, R228): each is one operation on the frond's registers behind the check
of its encoding. The statements on results are settled by the rule for such operations, the one on written elements by the digits of
packed numbers.
-/

namespace Sys2Proof.Machine

/-! ## What vector operations leave alone -/

theorem sameRequests_setV (fr : Frond) (d : Nat) (x : BitVec 4096) : SameRequests fr (fr.setV d x) := ⟨rfl, rfl, rfl⟩

theorem sameRequests_setM (fr : Frond) (d : Nat) (x : BitVec 512) : SameRequests fr (fr.setM d x) := ⟨rfl, rfl, rfl⟩

theorem sameRequests_writeActive (fr : Frond) (o : VOps) (wb n : Nat) (g : Nat → Nat) : SameRequests fr (writeActive fr o wb n g) :=
  sameRequests_setV fr _ _

theorem sameRequests_writeMask (fr : Frond) (o : VOps) (n : Nat) (g : Nat → Bool) : SameRequests fr (writeMask fr o n g) :=
  sameRequests_setM fr _ _

theorem sameRequests_squeezeInto (fr : Frond) (o : VOps) (es : List Nat) (g : Nat → Nat) : SameRequests fr (squeezeInto fr o es g) :=
  sameRequests_setV fr _ _

theorem sameRequests_vri (fr : Frond) (x : BitVec 13) : SameRequests fr { fr with vri := x } := ⟨rfl, rfl, rfl⟩

/-- A vector operation on the frond's registers completes where its encoding obeys R197, and leaves fc.vri 0 (R196). -/
theorem vecFalls_of_op {i : Instr} {f : Fin 128} {v : VForm} {o : VOps} {g : Frond → Frond}
    (he : ∀ s, exec i s = .next (runFrond f.val (vecOp v o g) s)) (hg : ∀ fr, SameRequests fr (g fr)) : VecFalls i f v o g :=
  fun ho => completes_of_op he (fun _ _ _ => if_pos ho) fun fr => (hg fr).trans (sameRequests_vri _ _)

/-! ## Integer operations and compares (R199, R200) -/

theorem laneOp_of_op {i : Instr} {f : Fin 128} {k : Nat} {o : VOps} {op : Nat → Nat → Nat → Nat}
    (he : ∀ s, exec i s = .next (runFrond f.val (vecOp (vopForm k) o fun fr =>
      writeActive fr o (wBits o.w) (effLen fr o.w) fun e => op (wBits o.w) (laneA fr o e) (laneB fr o e)) s)) : LaneOp i f k o op :=
  vecFalls_of_op he fun fr => sameRequests_writeActive fr _ _ _ _

theorem maskOp_of_op {i : Instr} {f : Fin 128} {o : VOps} {test : Nat → Nat → Nat → Bool}
    (he : ∀ s, exec i s = .next (runFrond f.val (vecOp cmpForm o fun fr =>
      writeMask fr o (effLen fr o.w) fun e => test (wBits o.w) (laneA fr o e) (laneB fr o e)) s)) : MaskOp i f o test :=
  vecFalls_of_op he fun fr => sameRequests_writeMask fr _ _ _

/-- VOPX with a minor opcode other than vpick's is a lane operation with gb as its source b (R198). -/
theorem vopRun_gb {fn : Nat} (h : fn ≠ 15) (o : VOps) :
    vopRun true fn o = vecOp (vopForm fn) o fun fr => writeActive fr o (wBits o.w) (effLen fr o.w) fun e =>
      vopElem fn (wBits o.w) (laneA fr o e) ((fr.gr o.b).toNat % 2 ^ wBits o.w) := by
  simp only [vopRun, h, if_false]
  rfl

/-- VCMPX with a listed minor opcode is a test with gb as its source b (R198). -/
theorem vcmpRun_gb {fn : Nat} (h : fn ≤ 11) (o : VOps) :
    vcmpRun true fn o = vecOp cmpForm o fun fr => writeMask fr o (effLen fr o.w) fun e =>
      (vcmpTest fn (wBits o.w) (laneA fr o e) ((fr.gr o.b).toNat % 2 ^ wBits o.w)).getD false := by
  funext s fr
  exact if_neg (Nat.not_lt.2 h)

/-- Settles O9: each minor opcode is its operation on every lane. -/
theorem vectorIntegerAndCompare : Obligations.VectorIntegerAndCompare := by
  refine ⟨-- vadd, vsub, vmul, vmulhu, vmin, vmax, vminu, vmaxu
    fun _ _ => laneOp_of_op fun _ => rfl, fun _ _ => laneOp_of_op fun _ => rfl, fun _ _ => laneOp_of_op fun _ => rfl,
    fun _ _ => laneOp_of_op fun _ => rfl, fun _ _ => laneOp_of_op fun _ => rfl, fun _ _ => laneOp_of_op fun _ => rfl,
    fun _ _ => laneOp_of_op fun _ => rfl, fun _ _ => laneOp_of_op fun _ => rfl,
    -- vand, vor, vxor, vandn, vsll, vsrl, vsra
    fun _ _ => laneOp_of_op fun _ => rfl, fun _ _ => laneOp_of_op fun _ => rfl, fun _ _ => laneOp_of_op fun _ => rfl,
    fun _ _ => laneOp_of_op fun _ => rfl, fun _ _ => laneOp_of_op fun _ => rfl, fun _ _ => laneOp_of_op fun _ => rfl,
    fun _ _ => laneOp_of_op fun _ => rfl,
    -- vpick, VOPX
    fun _ _ => vecFalls_of_op (fun _ => rfl) fun fr => sameRequests_setV fr _ _, ?vopx,
    -- veq, vne, vlt, vge, vltu, vgeu
    fun _ _ => maskOp_of_op fun _ => rfl, fun _ _ => maskOp_of_op fun _ => rfl, fun _ _ => maskOp_of_op fun _ => rfl,
    fun _ _ => maskOp_of_op fun _ => rfl, fun _ _ => maskOp_of_op fun _ => rfl, fun _ _ => maskOp_of_op fun _ => rfl,
    -- vovadd, vovsub, vovmul, vovaddu, vovsubu, vovmulu
    fun _ _ => maskOp_of_op fun _ => rfl, fun _ _ => maskOp_of_op fun _ => rfl, fun _ _ => maskOp_of_op fun _ => rfl,
    fun _ _ => maskOp_of_op fun _ => rfl, fun _ _ => maskOp_of_op fun _ => rfl, fun _ _ => maskOp_of_op fun _ => rfl, ?vcmpx⟩
  case vopx =>
    intro f o fn h
    refine vecFalls_of_op (fun s => ?_) fun fr => sameRequests_writeActive fr _ _ _ _
    rw [← vopRun_gb h]
    rfl
  case vcmpx =>
    intro f o fn h
    refine vecFalls_of_op (fun s => ?_) fun fr => sameRequests_writeMask fr _ _ _
    rw [← vcmpRun_gb h]
    rfl

/-! ## Floating point (R201) -/

theorem floatOp_of_op {i : Instr} {f : Fin 128} {b : FldUse} {ws : List (BitVec 3)} {o : VOps} {wa : Nat}
    {op : Fmt → Nat → Nat → Nat → Nat → Nat × FFlags} (fn : Nat) (hop : ∀ F m x y z, vfpElem fn F m x y z = op F m x y z)
    (he : ∀ s, exec i s = .next (runFrond f.val (vfpRun fn wa b ws o) s)) : FloatOp i f b ws o wa op := by
  obtain rfl : vfpElem fn = op := by funext F m x y z; exact hop F m x y z
  exact vecFalls_of_op he fun fr => (sameRequests_writeActive fr _ _ _ _).trans (sameRequests_raise _ _)

theorem floatTest_of_op {i : Instr} {f : Fin 128} {o : VOps} {test : Fmt → Nat → Nat → Bool × FFlags} (fn : Nat)
    (ht : ∀ F x y, vfpTest fn F x y = test F x y) (he : ∀ s, exec i s = .next (runFrond f.val (vfpCmp fn o) s)) :
    FloatTest i f o test := by
  obtain rfl : vfpTest fn = test := by funext F x y; exact ht F x y
  exact vecFalls_of_op he fun fr => (sameRequests_writeMask fr _ _ _).trans (sameRequests_raise _ _)

/-- Settles O10: each minor opcode of VFP is its operation or test on every lane. -/
theorem vectorFloatResults : Obligations.VectorFloatResults :=
  ⟨-- vfadd, vfsub, vfmul, vfdiv, vfsqrt, vfmin, vfmax, vfmacc
   fun _ _ => floatOp_of_op 0 (fun _ _ _ _ _ => rfl) fun _ => rfl, fun _ _ => floatOp_of_op 1 (fun _ _ _ _ _ => rfl) fun _ => rfl,
   fun _ _ => floatOp_of_op 2 (fun _ _ _ _ _ => rfl) fun _ => rfl, fun _ _ => floatOp_of_op 3 (fun _ _ _ _ _ => rfl) fun _ => rfl,
   fun _ _ => floatOp_of_op 4 (fun _ _ _ _ _ => rfl) fun _ => rfl, fun _ _ => floatOp_of_op 5 (fun _ _ _ _ _ => rfl) fun _ => rfl,
   fun _ _ => floatOp_of_op 6 (fun _ _ _ _ _ => rfl) fun _ => rfl, fun _ _ => floatOp_of_op 7 (fun _ _ _ _ _ => rfl) fun _ => rfl,
   -- vfcvti, vicvtf, vfwid
   fun _ _ => floatOp_of_op 13 (fun _ _ _ _ _ => rfl) fun _ => rfl, fun _ _ => floatOp_of_op 14 (fun _ _ _ _ _ => rfl) fun _ => rfl,
   fun _ _ => floatOp_of_op 15 (fun _ _ _ _ _ => rfl) fun _ => rfl,
   -- vfeq, vflt, vfle, vfteq, vftlt
   fun _ _ => floatTest_of_op 8 (fun _ _ _ => rfl) fun _ => rfl, fun _ _ => floatTest_of_op 9 (fun _ _ _ => rfl) fun _ => rfl,
   fun _ _ => floatTest_of_op 10 (fun _ _ _ => rfl) fun _ => rfl, fun _ _ => floatTest_of_op 11 (fun _ _ _ => rfl) fun _ => rfl,
   fun _ _ => floatTest_of_op 12 (fun _ _ _ => rfl) fun _ => rfl⟩

/-! ## Masks and moves (R202, R203) -/

theorem vecFalls_setM {i : Instr} {f : Fin 128} {v : VForm} {o : VOps} {g : Frond → BitVec 512}
    (he : ∀ s, exec i s = .next (runFrond f.val (vecOp v o fun fr => fr.setM o.d.toNat (g fr)) s)) :
    VecFalls i f v o fun fr => fr.setM o.d.toNat (g fr) :=
  vecFalls_of_op he fun fr => sameRequests_setM fr _ _

theorem vecFalls_setG {i : Instr} {f : Fin 128} {v : VForm} {o : VOps} {g : Frond → W64}
    (he : ∀ s, exec i s = .next (runFrond f.val (vecOp v o fun fr => fr.setG o.d (g fr)) s)) :
    VecFalls i f v o fun fr => fr.setG o.d (g fr) :=
  vecFalls_of_op he fun fr => sameRequests_setG fr _ _

theorem vecFalls_writeActive {i : Instr} {f : Fin 128} {v : VForm} {o : VOps} {wb : Nat} {n : Frond → Nat} {g : Frond → Nat → Nat}
    (he : ∀ s, exec i s = .next (runFrond f.val (vecOp v o fun fr => writeActive fr o wb (n fr) (g fr)) s)) :
    VecFalls i f v o fun fr => writeActive fr o wb (n fr) (g fr) :=
  vecFalls_of_op he fun fr => sameRequests_writeActive fr _ _ _ _

/-- vins leaves the frond as it is beyond VLMAX(W) (R203). -/
theorem sameRequests_vins (fr : Frond) (o : VOps) : SameRequests fr
    (if (fr.gr o.a).toNat < vlmax o.w then fr.setV o.d.toNat (setElem (fr.vr o.d.toNat) (wBits o.w) (fr.gr o.a).toNat (fr.gr o.b).toNat)
      else fr) := by
  split
  · exact sameRequests_setV fr _ _
  · exact SameRequests.refl fr

/-- Settles O11: each instruction writes one mask, one general register or the active elements. -/
theorem vectorMasksAndMoves : Obligations.VectorMasksAndMoves :=
  ⟨-- mkand, mkor, mkxor, mkandn, mknot, mkcopy
   fun _ _ => vecFalls_setM fun _ => rfl, fun _ _ => vecFalls_setM fun _ => rfl, fun _ _ => vecFalls_setM fun _ => rfl,
   fun _ _ => vecFalls_setM fun _ => rfl, fun _ _ => vecFalls_setM fun _ => rfl, fun _ _ => vecFalls_setM fun _ => rfl,
   -- mkcount, mkfirst, mkfill, mkzero, mtov, vtom
   fun _ _ => vecFalls_setG fun _ => rfl, fun _ _ => vecFalls_setG fun _ => rfl, fun _ _ => vecFalls_setM fun _ => rfl,
   fun _ _ => vecFalls_setM fun _ => rfl, fun _ _ => vecFalls_of_op (fun _ => rfl) fun fr => sameRequests_setV fr _ _,
   fun _ _ => vecFalls_setM fun _ => rfl,
   -- vcopy, vbcast, vseq, vwid, vwidu, vnar
   fun _ _ => vecFalls_writeActive fun _ => rfl, fun _ _ => vecFalls_writeActive fun _ => rfl,
   fun _ _ => vecFalls_writeActive fun _ => rfl, fun _ _ => vecFalls_writeActive fun _ => rfl,
   fun _ _ => vecFalls_writeActive fun _ => rfl, fun _ _ => vecFalls_writeActive fun _ => rfl,
   -- vext, vins, vsqueeze
   fun _ _ => vecFalls_setG fun _ => rfl, fun _ o => vecFalls_of_op (fun _ => rfl) fun fr => sameRequests_vins fr o,
   fun _ _ => vecFalls_of_op (fun _ => rfl) fun fr => sameRequests_squeezeInto fr _ _ _⟩

/-! ## Reductions, hashes and strips (R204, R205, R211, R228) -/

theorem folds_of_op {i : Instr} {f : Fin 128} {ws : List (BitVec 3)} {o : VOps} {fold : Nat → List Nat → W64}
    (he : ∀ s, exec i s = .next (runFrond f.val (vredRun ws o fold) s)) : Folds i f ws o fold :=
  vecFalls_of_op he fun fr => sameRequests_setG fr _ _

theorem sumInt_eq_foldr (l : List Int) : sumInt l = l.foldr (· + ·) 0 := by
  induction l with
  | nil => rfl
  | cons x l ih => rw [sumInt, ih]; rfl

/-- The extreme by a decidable relation is the fold that replaces where the relation holds. -/
theorem extreme_decide {α : Type} (r : α → α → Prop) [∀ m x, Decidable (r m x)] (i : α) (l : List α) :
    extreme (fun m x => decide (r m x)) i l = l.foldl (fun m x => if r m x then x else m) i := by
  simp only [extreme, decide_eq_true_eq]

theorem sameRequests_strip (fr : Frond) (w : BitVec 3) (n : BitVec 13) : SameRequests fr { fr with ew := w, vl := n } := ⟨rfl, rfl, rfl⟩

theorem vecFalls_fpResult {i : Instr} {f : Fin 128} {o : VOps} {g : Frond → Nat × FFlags}
    (he : ∀ s, exec i s = .next (runFrond f.val (vfredRun o g) s)) :
    VecFalls i f { d := .any, a := .any, b := .unused, men := 1, ws := wFp } o fun fr => fr.fpResult o.d (g fr) :=
  vecFalls_of_op he fun fr => sameRequests_fpResult fr _ _

/-- Settles O12: the folds and extremes of the model are those stated; hashes write the active elements, vstrip its registers. -/
theorem vectorReduceAndHash : Obligations.VectorReduceAndHash := by
  refine ⟨?sum, ?sumu, ?min, ?max, ?minu, ?maxu, ?and, ?or, ?xor, ?bitcnt, ?fsum, ?fmin, ?fmax, ?hash, ?hashx, ?hfin, ?strip⟩
  case sum => simp only [← sumInt_eq_foldr]; exact fun f o => folds_of_op fun _ => rfl
  case min | max | minu | maxu => simp only [← extreme_decide]; exact fun f o => folds_of_op fun _ => rfl
  case sumu | and | or | xor | bitcnt => exact fun f o => folds_of_op fun _ => rfl
  case fsum => exact fun f o => vecFalls_fpResult fun _ => rfl
  case fmin | fmax => simp only [← extreme_decide]; exact fun f o => vecFalls_fpResult fun _ => rfl
  case hash | hashx | hfin => exact fun f o => vecFalls_writeActive fun _ => rfl
  case strip =>
    exact fun f o => vecFalls_of_op (fun _ => rfl) fun fr => (sameRequests_strip fr _ _).trans (sameRequests_setG _ _ _)

/-! ## Written elements and mask bits (R194, R195) -/

theorem packElems_lt (wb : Nat) (l : List Nat) : packElems wb l < 2 ^ (wb * l.length) := by
  induction l with
  | nil => simp [packElems]
  | cons x l ih =>
    have hx : x % 2 ^ wb < 2 ^ wb := Nat.mod_lt _ (Nat.two_pow_pos wb)
    calc packElems wb (x :: l) < 2 ^ wb * (packElems wb l + 1) := by rw [packElems, Nat.mul_succ]; omega
      _ ≤ 2 ^ wb * 2 ^ (wb * l.length) := Nat.mul_le_mul_left _ ih
      _ = 2 ^ (wb * (x :: l).length) := by rw [← Nat.pow_add, List.length_cons, Nat.mul_succ, Nat.add_comm]

/-- The digits of a packed number are the list's elements, each cut to the width. -/
theorem testBit_packElems {wb i : Nat} (hi : i < wb) (l : List Nat) (e : Nat) :
    (packElems wb l).testBit (wb * e + i) = (l.getD e 0).testBit i := by
  induction l generalizing e with
  | nil => simp [packElems]
  | cons x l ih =>
    rw [packElems, Nat.add_comm, Nat.testBit_two_pow_mul_add _ (Nat.mod_lt _ (Nat.two_pow_pos wb))]
    cases e with
    | zero => simp [hi, Nat.testBit_mod_two_pow]
    | succ e =>
      rw [if_neg (by rw [Nat.mul_succ]; omega), show wb * (e + 1) + i - wb = wb * e + i by rw [Nat.mul_succ]; omega, ih]
      rfl

/-- Bits of a register whose lower n elements are given by a function. -/
theorem testBit_buildV (old : BitVec 4096) (wb n : Nat) (g : Nat → Nat) {j : Nat} (hj : j < 4096) :
    (buildV old wb n g).toNat.testBit j =
      if j < wb * n then (packElems wb ((List.range n).map g)).testBit j else old.toNat.testBit j := by
  have hlt : packElems wb ((List.range n).map g) < 2 ^ (wb * n) := by simpa using packElems_lt wb ((List.range n).map g)
  rw [buildV, BitVec.toNat_ofNat, Nat.testBit_mod_two_pow, Nat.shiftLeft_eq, Nat.mul_comm _ (2 ^ _), Nat.add_comm,
    Nat.testBit_two_pow_mul_add _ hlt, Nat.testBit_shiftRight]
  by_cases h : j < wb * n
  · simp [h, hj]
  · simp [h, hj, Nat.add_sub_cancel' (Nat.not_lt.1 h)]

theorem testBit_elem (v : BitVec 4096) (wb e i : Nat) : (elem v wb e).testBit i = (decide (i < wb) && v.toNat.testBit (wb * e + i)) := by
  rw [elem, Nat.testBit_mod_two_pow, Nat.testBit_shiftRight]

/-- An element of a register that is built: below n that of the function, cut to the width, else the old one. -/
theorem elem_buildV (old : BitVec 4096) {wb n e : Nat} (g : Nat → Nat) (he : wb * (e + 1) ≤ 4096) :
    elem (buildV old wb n g) wb e = if e < n then g e % 2 ^ wb else elem old wb e := by
  apply Nat.eq_of_testBit_eq
  intro i
  rw [testBit_elem]
  by_cases hi : i < wb
  · rw [Nat.mul_succ] at he
    rw [testBit_buildV old wb n g (by omega)]
    by_cases hn : e < n
    · have hle : wb * (e + 1) ≤ wb * n := Nat.mul_le_mul_left wb hn
      rw [Nat.mul_succ] at hle
      rw [if_pos (by omega), testBit_packElems hi, if_pos hn, Nat.testBit_mod_two_pow]
      simp [hn]
    · have hle : wb * n ≤ wb * e := Nat.mul_le_mul_left wb (Nat.not_lt.1 hn)
      rw [if_neg (by omega), if_neg hn, testBit_elem]
  · have hz : ∀ x : Nat, x < 2 ^ wb → x.testBit i = false := fun x hx =>
      Nat.testBit_lt_two_pow (Nat.lt_of_lt_of_le hx (Nat.pow_le_pow_right (by decide) (Nat.not_lt.1 hi)))
    rw [decide_eq_false hi, Bool.false_and]
    symm
    split
    · exact hz _ (Nat.mod_lt _ (Nat.two_pow_pos wb))
    · exact hz _ (Nat.mod_lt _ (Nat.two_pow_pos wb))

/-- Bits of a mask that is built. -/
theorem getLsbD_buildM (g : Nat → Bool) {e : Nat} (he : e < 512) : (buildM 512 g).getLsbD e = g e := by
  have h := testBit_packElems (wb := 1) (i := 0) Nat.one_pos ((List.range 512).map fun e => if g e then 1 else 0) e
  rw [Nat.one_mul, Nat.add_zero] at h
  rw [buildM, BitVec.getLsbD_ofNat, h]
  cases hg : g e <;> simp [he, hg]

theorem wBits_mul_vlmax : ∀ w : BitVec 3, w.toNat ≤ 4 → wBits w * vlmax w = 4096 := by decide

/-- Settles O13: elements and mask bits are read off the packed register. -/
theorem vectorWriteRules : Obligations.VectorWriteRules := by
  constructor
  · intro fr o g e hw he
    have hbits : wBits o.w * (e + 1) ≤ 4096 := (Nat.mul_le_mul_left _ he).trans_eq (wBits_mul_vlmax o.w hw)
    rw [writeActive, Frond.vr_setV_same, elem_buildV _ _ hbits]
    by_cases ha : active fr o (effLen fr o.w) e = true
    · have hn : e < effLen fr o.w := by
        simp only [active, Bool.and_eq_true, decide_eq_true_eq] at ha
        exact ha.1.2
      rw [if_pos hn, if_pos ha, if_pos ha]
    · rw [if_neg ha, if_neg ha, Nat.mod_eq_of_lt (show elem _ _ _ < _ from Nat.mod_lt _ (Nat.two_pow_pos _)), ite_self]
  · intro fr o n g e he
    rw [writeMask, Frond.mr_setM_same, getLsbD_buildM _ he]
    by_cases h1 : e < fr.vri.toNat
    · rw [if_pos h1, if_pos h1]
    · by_cases h2 : e < n <;> simp [h1, h2]

/-! ## Malformed encodings (R197, R198) -/

theorem traps_vecOp {i : Instr} {f : Fin 128} {v : VForm} {o : VOps} {g : Frond → Frond}
    (he : ∀ s, exec i s = .next (runFrond f.val (vecOp v o g) s)) (ho : v.ok o = false) : Traps i f (fun _ => True) 0x01 0 :=
  traps_of_exc he fun s fr _ => ⟨none, by simp [vecOp, ho]⟩

theorem traps_vmemOp {i : Instr} {f : Fin 128} {v : VForm} {o : VOps} {g : State → Frond → FOut}
    (he : ∀ s, exec i s = .next (runFrond f.val (vmemOp v o g) s)) (ho : v.ok o = false) : Traps i f (fun _ => True) 0x01 0 :=
  traps_of_exc he fun s fr _ => ⟨none, by simp [vmemOp, ho]⟩

/-- Settles O14: the check of the encoding is the first thing an instruction does, and a word that does not decode has no other meaning
than ILLEGAL. -/
theorem vectorEncodingFaults : Obligations.VectorEncodingFaults := by
  refine ⟨fun _ _ => traps_vecOp fun _ => rfl, fun _ _ => traps_vecOp fun _ => rfl, fun _ _ => traps_vecOp fun _ => rfl,
    fun _ _ => traps_vmemOp fun _ => rfl, ?_⟩
  intro f w s hw r hx
  exact ⟨_, by rw [frondWord, hw], illegalWord_enters r hx⟩

end Sys2Proof.Machine
end

section
/-!
PROOFS. vrlec and the cursor of an RLE page (R210). The statement on vector memory is refuted by a page of more than 2^17 runs: the model
writes bits [16:0] of the run, the statement the run.
-/

namespace Sys2Proof.Machine

/-- The instruction vrlec g3, g1, g2 on bytes. -/
def longRleOps : VOps := { d := 3, a := 1, b := 2, msk := 0, men := false, w := 0 }

/-- A page at 0x50000 with 2^17 + 1 runs of one row each, and a cursor one row behind the start of run 2^17 − 1; fc.vl is 0. -/
def longRleFrond : Frond :=
  { Frond.reset with status := 1, pc := 0x80, g := [(1, 0x50000), (2, 0x10001FFFF)], sp := [(0x50000, 1), (0x50002, 2)] }

/-- Frond 7 stands before that instruction. -/
def longRleState : State := State.reset.setFrond 7 longRleFrond

theorem longRle_quiet : Quiet 7 longRleState :=
  ⟨by decide +kernel, by decide +kernel, by decide +kernel, by decide +kernel, by decide +kernel, by decide +kernel, .inl (by decide +kernel)⟩

/-- The row lies in run 2^17. -/
theorem longRle_row : rleAt longRleFrond longRleOps (effLen longRleFrond longRleOps.w) =
    .ok ({ nruns := 131073, vals := 0x50008, lens := 458768 }, .at 131072 0) := by
  decide +kernel

/-- vrlec leaves run 0 in gd: bits [16:0] of 2^17. -/
theorem longRle_result : ((runFrond 7 (vrlecOp longRleOps) longRleState).frond 7).gr 3 = 0 := by decide +kernel

/-- Refutes O15: a cursor can pass run 2^17 − 1, and gd then holds the run cut to 17 bits, not the run. -/
theorem not_vectorMemory : ¬ Obligations.VectorMemory := by
  intro h
  obtain ⟨-, -, -, -, -, -, -, -, -, hrlec, -⟩ := h
  obtain ⟨n, hn⟩ := hrlec 7 longRleOps { nruns := 131073, vals := 0x50008, lens := 458768 } 131072 0 longRleState longRle_quiet
    ⟨by decide +kernel, by decide +kernel, longRle_row⟩
  have hrun : runFrond 7 (vrlecOp longRleOps) longRleState = _ := Host.Outcome.next.inj hn
  obtain ⟨b, r, i, c, hfr⟩ := retired_frond 7 longRleState
    { longRleFrond.setG 3 (BitVec.ofNat 64 (131072 + 0 * 2 ^ 32)) with vri := 0 } (longRleFrond.pc + 4) n
  have hres := longRle_result
  rw [hrun] at hres
  have hclaim : ((131072 : W64)) = 0 := (congrArg (fun fr : Frond => fr.gr 3) hfr).symm.trans hres
  exact absurd hclaim (by decide)

end Sys2Proof.Machine
end

section
/-!
PROOFS. The queue of commands that a step runs, and the invariant at reset. The statements on them are settled here.
-/

namespace Sys2Proof.Machine

/-- Settles O16: a step is the command at the front, run with the rest. -/
theorem stepRunsQueue : Obligations.StepRunsQueue :=
  ⟨fun _ _ _ => rfl, fun s h => by unfold step; rw [h]⟩

/-- Settles O60: log, memory and queue are empty at reset, and every link is as `Link.reset` leaves it. -/
theorem resetHoldsInvariant : Obligations.ResetHoldsInvariant where
  log := Nat.zero_le _
  mem := rfl
  window := fun _ => Nat.zero_le _
  queue := fun _ h => absurd h (List.not_mem_nil)

end Sys2Proof.Machine
end

section
/-!
PROOFS. What every command keeps: the queue stays as it is, and log, device memory and link windows stay within their bounds (R474, R559).
`Kept` is the relation; here stand its rules for updates of the state, the log, memory and links.
-/

namespace Sys2Proof.Machine

/-- From s₀ to s the queue is unchanged, and each bound of the invariant that held still holds. -/
structure Kept (s₀ s : State) : Prop where
  pending : s.pending = s₀.pending
  log : s₀.log.entries.length ≤ 4096 → s.log.entries.length ≤ 4096
  mem : Memory.wf s₀.mem.bytes = true → Memory.wf s.mem.bytes = true
  window : (∀ l, (s₀.link l).window.length ≤ 64) → ∀ l, (s.link l).window.length ≤ 64

/-- An outcome is a next state that keeps what `Kept` says. -/
def KeptOut (s₀ : State) (o : Host.Outcome State Fault Refusal) : Prop := ∃ t, o = .next t ∧ Kept s₀ t

/-- The state that an instruction's operation leaves keeps what `Kept` says. -/
def FOut.Keeps (s₀ : State) : FOut → Prop
  | .next s _ _ => Kept s₀ s
  | .exc s _ _ _ _ => Kept s₀ s
  | .heldExc s _ _ _ => Kept s₀ s
  | .stall => True

/-- The state that an operation leaves, if it leaves one, keeps what `Kept` says. -/
def KeptSome (s₀ : State) (o : Option State) : Prop := ∀ t, o = some t → Kept s₀ t

theorem Kept.refl (s : State) : Kept s s := ⟨rfl, id, id, id⟩

section
variable {s₀ s t : State}

theorem KeptOut.next (h : Kept s₀ s) : KeptOut s₀ (.next s) := ⟨s, rfl, h⟩

/-- A state with the same queue, log, memory bytes and links. -/
theorem Kept.of_eq (h : Kept s₀ s) (hp : t.pending = s.pending := by rfl) (hl : t.log = s.log := by rfl)
    (hm : t.mem.bytes = s.mem.bytes := by rfl) (hk : t.lnk.links = s.lnk.links := by rfl) : Kept s₀ t where
  pending := hp.trans h.pending
  log := by rw [hl]; exact h.log
  mem := by rw [hm]; exact h.mem
  window := by simpa only [State.link, hk] using h.window

/-- An update of the state that keeps the queue, the log, the memory bytes and the links. -/
theorem Kept.upd {seed time fronds ring disp mem eng store insts mbx haw mp pwr tel sec lnk pads out} (h : Kept s₀ s)
    (hm : mem.bytes = s.mem.bytes := by rfl) (hk : lnk.links = s.lnk.links := by rfl) :
    Kept s₀ { s with seed, time, fronds, ring, disp, mem, eng, store, insts, mbx, haw, mp, pwr, tel, sec, lnk, pads, out } :=
  h.of_eq rfl rfl hm hk

theorem Kept.ite {c : Prop} [Decidable c] (h : Kept s₀ s) (k : Kept s₀ t) : Kept s₀ (if c then s else t) := by
  split
  · exact h
  · exact k

theorem KeptOut.ite {c : Prop} [Decidable c] {o p : Host.Outcome State Fault Refusal} (h : KeptOut s₀ o) (k : KeptOut s₀ p) :
    KeptOut s₀ (if c then o else p) := by
  split
  · exact h
  · exact k

theorem FOut.Keeps.ite {c : Prop} [Decidable c] {o p : FOut} (h : o.Keeps s₀) (k : p.Keeps s₀) :
    (if c then o else p).Keeps s₀ := by
  split
  · exact h
  · exact k

theorem KeptSome.some (h : Kept s₀ s) : KeptSome s₀ (Option.some s) := by
  intro t e
  obtain rfl : s = t := Option.some.inj e
  exact h

theorem KeptSome.none : KeptSome s₀ Option.none := fun t e => absurd e.symm (Option.some_ne_none t)

theorem Kept.getD {o : Option State} (h : KeptSome s₀ o) (k : Kept s₀ s) : Kept s₀ (o.getD s) := by
  cases o with
  | none => exact k
  | some t => exact h t rfl

theorem KeptSome.ite {c : Prop} [Decidable c] {o p : Option State} (h : KeptSome s₀ o) (k : KeptSome s₀ p) :
    KeptSome s₀ (if c then o else p) := by
  split
  · exact h
  · exact k

theorem Kept.forEach {β : Type} {f : β → State → State} {l : List β} (h : Kept s₀ s)
    (hf : ∀ b t, Kept s₀ t → Kept s₀ (f b t)) : Kept s₀ (Machine.forEach f l s) :=
  forEach_keeps (fun b _ t => hf b t) h

theorem Kept.forBelow {f : Nat → State → State} {n : Nat} (h : Kept s₀ s) (hf : ∀ b t, Kept s₀ t → Kept s₀ (f b t)) :
    Kept s₀ (Machine.forBelow f n s) := by
  induction n with
  | zero => exact h
  | succ n ih => exact hf _ _ ih

theorem Kept.foldl {β : Type} {f : State → β → State} {l : List β} (h : Kept s₀ s) (hf : ∀ b t, Kept s₀ t → Kept s₀ (f t b)) :
    Kept s₀ (l.foldl f s) := by
  induction l generalizing s with
  | nil => exact h
  | cons b l ih => exact ih (hf b s h)

/-- The same for an operation whose result carries more than the state. -/
theorem Kept.forEachSnd {α β : Type} {f : β → α × State → α × State} {l : List β} {p : α × State} (h : Kept s₀ p.2)
    (hf : ∀ b p, Kept s₀ p.2 → Kept s₀ (f b p).2) : Kept s₀ (Machine.forEach f l p).2 := by
  induction l generalizing p with
  | nil => exact h
  | cons b l ih => exact ih (hf b p h)

theorem Kept.foldlSnd {α β : Type} {f : α × State → β → α × State} {l : List β} {p : α × State} (h : Kept s₀ p.2)
    (hf : ∀ b p, Kept s₀ p.2 → Kept s₀ (f p b).2) : Kept s₀ (l.foldl f p).2 := by
  induction l generalizing p with
  | nil => exact h
  | cons b l ih => exact ih (hf b p h)

/-- The state of a result. -/
theorem Kept.of_snd {α : Type} {p : α × State} {a : α} (h : Kept s₀ p.2) (e : p = (a, t)) : Kept s₀ t := by
  rw [e] at h; exact h

theorem Kept.of_snd_snd {α β : Type} {p : α × β × State} {a : α} {b : β} (h : Kept s₀ p.2.2) (e : p = (a, b, t)) : Kept s₀ t := by
  rw [e] at h; exact h

/-! ## Log, memory and links -/

theorem Kept.logOne {code src inst detail : Nat} (h : Kept s₀ s) : Kept s₀ (logOne code src inst detail s) where
  pending := h.pending
  log := fun _ => (List.length_take_le _ _)
  mem := h.mem
  window := h.window

/-- A write of a link whose window holds at most 64 flits where the old one does. -/
theorem Kept.setLink {l : Nat} {x : Link} (h : Kept s₀ s)
    (hx : (s.link l).window.length ≤ 64 → x.window.length ≤ 64 := by exact id) : Kept s₀ (s.setLink l x) where
  pending := h.pending
  log := h.log
  mem := h.mem
  window := by
    intro h0 j
    by_cases hj : j = l
    · subst hj
      rw [State.setLink_same]
      exact hx (h.window h0 j)
    · rw [State.setLink_ne _ _ _ _ hj]
      exact h.window h0 j

/-- New bytes of device memory in canonical form where the old are. -/
theorem Kept.of_bytes (h : Kept s₀ s) (hb : Memory.wf s.mem.bytes = true → Memory.wf t.mem.bytes = true)
    (hp : t.pending = s.pending := by rfl) (hl : t.log = s.log := by rfl) (hk : t.lnk.links = s.lnk.links := by rfl) : Kept s₀ t where
  pending := hp.trans h.pending
  log := by rw [hl]; exact h.log
  mem := fun h0 => hb (h.mem h0)
  window := by simpa only [State.link, hk] using h.window

end

end Sys2Proof.Machine
end

section
/-!
PROOFS. What every command keeps, continued: state operations, device memory, power grants, commands and rings. Each lemma follows the branches of its function.
-/

namespace Sys2Proof.Machine

section
-- Each of these short lemmas would else wait in a thread of its own for the long proofs before it.
set_option Elab.async false
variable {s₀ s t : State}

/-! ## Ops -/

theorem Kept.setFrond {f : Nat} {x : Frond} (h : Kept s₀ s) : Kept s₀ (s.setFrond f x) := h.upd

theorem Kept.setInst {i : Nat} {x : Inst} (h : Kept s₀ s) : Kept s₀ (s.setInst i x) := h.upd

theorem Kept.setSq {i n : Nat} {x : Sq} (h : Kept s₀ s) : Kept s₀ (s.setSq i n x) := h.upd

theorem Kept.setCq {i n : Nat} {x : Cq} (h : Kept s₀ s) : Kept s₀ (s.setCq i n x) := h.upd

theorem Kept.setCmd {k : Nat} {x : Option Cmd} (h : Kept s₀ s) : Kept s₀ (s.setCmd k x) := h.upd

theorem Kept.modCmd {k : Nat} {f : Cmd → Cmd} (h : Kept s₀ s) : Kept s₀ (s.modCmd k f) := by
  unfold Machine.State.modCmd
  split
  · exact h
  · exact h.setCmd

theorem Kept.setMbx {i : Nat} {x : Mbx} (h : Kept s₀ s) : Kept s₀ (s.setMbx i x) := h.upd

theorem Kept.setHaw {i : Nat} {x : Haw} (h : Kept s₀ s) : Kept s₀ (s.setHaw i x) := h.upd

theorem Kept.setChan {c : Nat} {x : Chan} (h : Kept s₀ s) : Kept s₀ (s.setChan c x) := h.upd

theorem Kept.setCmu {u : Nat} {x : CmuUnit} (h : Kept s₀ s) : Kept s₀ (s.setCmu u x) := h.upd

theorem Kept.setSmu {u : Nat} {x : SmuUnit} (h : Kept s₀ s) : Kept s₀ (s.setSmu u x) := h.upd

theorem Kept.setDgu {u : Nat} {x : DguUnit} (h : Kept s₀ s) : Kept s₀ (s.setDgu u x) := h.upd

theorem Kept.setHostPort {p : Nat} {x : HostPort} (h : Kept s₀ s) : Kept s₀ (s.setHostPort p x) := h.upd

theorem Kept.freshNat (h : Kept s₀ s) : Kept s₀ s.freshNat.2 := h.upd

theorem Kept.freshWord (h : Kept s₀ s) : Kept s₀ s.freshWord.2 := h.upd

theorem Kept.freshBytes {a : Nat} (h : Kept s₀ s) : Kept s₀ (freshBytes a s).2 := by
  induction a generalizing s with
  | zero =>
    unfold Machine.freshBytes
    dsimp only
    exact h
  | succ n ih =>
    unfold Machine.freshBytes
    dsimp only
    exact ih h.freshNat

theorem Kept.choose {α : Type} {l : List α} (h : Kept s₀ s) : Kept s₀ (s.choose l).2 := by
  unfold Machine.State.choose
  split
  · dsimp only
    exact h
  · dsimp only
    exact h
  · dsimp only
    exact h.upd

theorem Kept.logEvent {code src inst detail : Nat} {ext : Option Nat} (h : Kept s₀ s) :
    Kept s₀ (logEvent code src inst detail ext s) := by
  unfold Machine.logEvent
  split
  · exact h.logOne
  · exact h.logOne.logOne

theorem Kept.gateOut {o : GateOut} {release : State → State} (h : Kept s₀ s) (hf : ∀ t, Kept s₀ t → Kept s₀ (release t)) :
    Kept s₀ (gateOut o release s) := .ite h.upd.upd (hf _ h.upd)

theorem Kept.fwEvent {code inst detail : Nat} (h : Kept s₀ s) : Kept s₀ (fwEvent code inst detail s) :=
  h.gateOut fun _ h1 => h1.logEvent

theorem Kept.hostOut {port : Nat} {m : HostMsg} (h : Kept s₀ s) : Kept s₀ (hostOut port m s) := .ite h.upd (.ite h h.setHostPort)

theorem Kept.hostSend {port : Nat} {m : HostMsg} (h : Kept s₀ s) : Kept s₀ (hostSend port m s) := by
  unfold Machine.hostSend
  split
  · exact .ite (.ite h h.upd) h.hostOut
  · exact h.hostOut

theorem Kept.hostWrite {port fn addr : Nat} {d : List Byte} (h : Kept s₀ s) : Kept s₀ (hostWrite port fn addr d s) := h.hostSend

theorem Kept.hostWriteFor {port fn acc addr : Nat} {d : List Byte} (h : Kept s₀ s) :
    Kept s₀ (hostWriteFor port fn acc addr d s) := .ite h.hostWrite h.hostWrite.setHostPort

theorem Kept.hawEvent {i b : Nat} (h : Kept s₀ s) : Kept s₀ (hawEvent i b s) := .ite h.setHaw.hostSend h.setHaw

theorem Kept.hawEventAll {b : Nat} (h : Kept s₀ s) : Kept s₀ (hawEventAll b s) := h.forEach fun _ _ h1 => h1.hawEvent

theorem Kept.mcSwitch {act : Bool} {cause : Nat} (h : Kept s₀ s) : Kept s₀ (mcSwitch act cause s) := h.logEvent.hawEventAll

theorem Kept.badAccess {fn off : Nat} (h : Kept s₀ s) : Kept s₀ (badAccess fn off s) := h.logEvent

theorem Kept.addCounter {i k n : Nat} (h : Kept s₀ s) : Kept s₀ (addCounter i k n s) := .ite h h.setInst

/-! ## MemOps -/

theorem Kept.setFrame {f : Nat} {x : Frame} (h : Kept s₀ s) : Kept s₀ (s.setFrame f x) := h.upd

theorem Kept.colourFault {req : Option Nat} {a found : Nat} (h : Kept s₀ s) : Kept s₀ (colourFault req a found s) := by
  unfold Machine.colourFault
  exact h.upd.logEvent

theorem Kept.uncorrectable {req : Option Nat} {a : Nat} (h : Kept s₀ s) : Kept s₀ (uncorrectable req a s) := by
  unfold Machine.uncorrectable
  exact .logEvent (.upd (.ite h.setChan h.setChan.setFrame))

theorem Kept.corrected {a : Nat} (h : Kept s₀ s) : Kept s₀ (corrected a s) :=
  .ite (.logEvent (.ite h.setChan h.setChan.setFrame)) (.ite h.setChan h.setChan.setFrame)

theorem Kept.decodeCw {k e : Nat} (h : Kept s₀ s) : Kept s₀ (decodeCw k e s) := by
  unfold Machine.decodeCw
  split
  · exact h
  · exact h.corrected
  · exact h.upd

theorem Kept.readLine {req : Option Nat} {a e0 e1 : Nat} (h : Kept s₀ s) : Kept s₀ (readLine req a e0 e1 s).2 := by
  unfold Machine.readLine
  split
  · dsimp only
    split
    · dsimp only
      exact h.colourFault
    · split
      · dsimp only
        exact h.decodeCw.decodeCw.uncorrectable
      · dsimp only
        exact h.decodeCw.decodeCw
  · dsimp only
    split
    · dsimp only
      exact h.colourFault
    · split
      · dsimp only
        exact h.decodeCw.decodeCw.uncorrectable
      · split
        · dsimp only
          exact h.decodeCw.decodeCw.colourFault
        · split
          · dsimp only
            exact h.decodeCw.decodeCw.colourFault
          · dsimp only
            exact h.decodeCw.decodeCw.addCounter

theorem Kept.writeCw {req : Option Nat} {k a : Nat} {d : List Byte} (h : Kept s₀ s) : Kept s₀ (writeCw req k a d s).2 := by
  unfold Machine.writeCw
  dsimp only
  split
  · exact h
  split
  · exact h.of_bytes (Tbl.wf_write _ _ _ _)
  split
  · exact h.uncorrectable
  split
  · exact h.colourFault
  · exact h.of_bytes (Tbl.wf_write _ _ _ _)

theorem Kept.writePhys {req : Option Nat} {a : Nat} {d : List Byte} (h : Kept s₀ s) : Kept s₀ (writePhys req a d s).2 := by
  unfold Machine.writePhys
  dsimp only
  split
  · dsimp only
    exact h.colourFault
  · split
    · dsimp only
      exact h.colourFault
    · exact h.forEachSnd fun _ _ h1 => h1.writeCw

theorem Kept.writePoison {k : Nat} (h : Kept s₀ s) : Kept s₀ (writePoison k s) := h.upd

theorem Kept.writeMarked {req : Option Nat} {a : Nat} {w : MemWrite} (h : Kept s₀ s) : Kept s₀ (writeMarked req a w s).2 := by
  unfold Machine.writeMarked
  dsimp only
  split
  · dsimp only
    exact h.writePhys.forEach fun _ _ h1 => h1.writePoison
  · exact h.writePhys

theorem Kept.devReadLine {i a n : Nat} (h : Kept s₀ s) : Kept s₀ (devReadLine i a n s).2 := by
  unfold Machine.devReadLine
  split
  · dsimp only
    exact h
  · dsimp only
    exact h.colourFault
  · split
    · rename_i he1
      dsimp only
      exact .of_snd h.readLine he1
    · rename_i he1
      dsimp only
      exact .of_snd h.readLine he1
    · rename_i he3
      dsimp only
      exact .of_snd h.readLine he3

theorem Kept.devWriteLine {i a : Nat} {d : List Byte} (h : Kept s₀ s) : Kept s₀ (devWriteLine i a d s).2 := by
  unfold Machine.devWriteLine
  split
  · dsimp only
    exact h
  · dsimp only
    exact h.colourFault
  · split
    · rename_i he1
      dsimp only
      exact .of_snd h.writePhys he1
    · rename_i he2
      dsimp only
      exact .of_snd h.writePhys he2

theorem Kept.devRead {i a a1 a2 : Nat} (h : Kept s₀ s) : Kept s₀ (devRead i a a1 a2 s).2.2 := by
  induction a generalizing i a1 a2 s with
  | zero =>
    unfold Machine.devRead
    dsimp only
    exact h
  | succ n ih =>
    unfold Machine.devRead
    dsimp only
    split
    · dsimp only
      exact h
    · split
      · rename_i he1
        dsimp only
        exact .of_snd h.devReadLine he1
      · rename_i he1
        exact ih (.of_snd h.devReadLine he1)

theorem Kept.devWrite {i a a1 : Nat} {a2 : List Byte} (h : Kept s₀ s) : Kept s₀ (devWrite i a a1 a2 s).2 := by
  induction a generalizing i a1 a2 s with
  | zero =>
    unfold Machine.devWrite
    dsimp only
    exact h
  | succ n ih =>
    unfold Machine.devWrite
    dsimp only
    split
    · dsimp only
      exact h
    · split
      · rename_i he1
        dsimp only
        exact .of_snd h.devWriteLine he1
      · rename_i he1
        exact ih (.of_snd h.devWriteLine he1)

theorem Kept.devReadN {i a n : Nat} (h : Kept s₀ s) : Kept s₀ (devReadN i a n s).2.2 := h.devRead

theorem Kept.devWriteN {i a : Nat} {d : List Byte} (h : Kept s₀ s) : Kept s₀ (devWriteN i a d s).2 := h.devWrite

theorem Kept.putLeaf {b p : Nat} {e : W32} (h : Kept s₀ s) : Kept s₀ (putLeaf b p e s) := h.upd

theorem Kept.setLeaf {i p : Nat} {e : W32} (h : Kept s₀ s) : Kept s₀ (setLeaf i p e s) := by
  unfold Machine.setLeaf
  split
  · exact h.putLeaf
  · split
    · exact h
    · exact h.upd.putLeaf

theorem Kept.dropLeafTables {i : Nat} (h : Kept s₀ s) : Kept s₀ (dropLeafTables i s) := h.upd

theorem Kept.leaveQuota {f : Nat} (h : Kept s₀ s) : Kept s₀ (leaveQuota f s) := by
  unfold Machine.leaveQuota
  split
  · exact h
  · exact h.setInst.setFrame

theorem Kept.releaseFrame {f : Nat} (h : Kept s₀ s) : Kept s₀ (releaseFrame f s) :=
  .ite h.leaveQuota.setFrame.upd.logEvent h.leaveQuota.setFrame.upd

theorem Kept.unmapPage {i p : Nat} (h : Kept s₀ s) : Kept s₀ (unmapPage i p s) := by
  unfold Machine.unmapPage
  split
  · exact h
  · exact .ite h.setLeaf (.ite h.setLeaf.leaveQuota.upd h.setLeaf.releaseFrame)

theorem Kept.settleLeaving (h : Kept s₀ s) : Kept s₀ (settleLeaving s) := .ite h (h.upd.forEach (fun _ _ h1 => h1.releaseFrame))

theorem Kept.wipeFrame {f : Nat} {c : BitVec 8} (h : Kept s₀ s) : Kept s₀ (wipeFrame f c s) :=
  .setFrame (h.of_bytes (Tbl.wf_clearRange _ _ _ _))

theorem Kept.takeFrame {i f : Nat} {recolour : Bool} (h : Kept s₀ s) : Kept s₀ (takeFrame i f recolour s) :=
  h.setFrame.upd.setInst

theorem Kept.giveFrame {w : AllocWait} {f : Nat} {recolour : Bool} (h : Kept s₀ s) : Kept s₀ (giveFrame w f recolour s) :=
  .ite (.upd (.ite h.takeFrame h.takeFrame.upd)) (.setLeaf (.ite h.takeFrame h.takeFrame.upd))

theorem Kept.allocPage {w : AllocWait} (h : Kept s₀ s) : Kept s₀ (allocPage w s).2 := by
  unfold Machine.allocPage
  split
  · dsimp only
    exact h
  · split
    · dsimp only
      exact h.giveFrame
    · split
      · dsimp only
        exact h.upd
      · dsimp only
        exact h

theorem Kept.setAsks {f n : Nat} (h : Kept s₀ s) : Kept s₀ (setAsks f n s) := h.upd

theorem Kept.dropWaits {p : AllocWait → Bool} (h : Kept s₀ s) : Kept s₀ (dropWaits p s) := by
  unfold Machine.dropWaits
  refine .forEach h.upd ?_
  intro _ _ h1
  split
  · exact h1.releaseFrame
  · exact h1

/-! ## PowerOps -/

theorem Kept.onGrant {g : Grant} (h : Kept s₀ s) : Kept s₀ (onGrant g s) := by
  unfold Machine.onGrant
  split
  · exact h.upd
  · dsimp only
    split
    · exact .ite h.upd h.upd
    · exact .ite (.ite h.upd h.upd) (.setFrame (.ite h.upd h.upd))
  · exact h.setSmu
  · exact h.setCmu
  · exact .ite h.setLink h
  · exact h

theorem Kept.setWaitTimer {id : Nat} (h : Kept s₀ s) : Kept s₀ (setWaitTimer id s) := .ite h h.upd

theorem Kept.dropWaitTimer {id : Nat} (h : Kept s₀ s) : Kept s₀ (dropWaitTimer id s) := h.upd

theorem Kept.giveGrant {g : Grant} (h : Kept s₀ s) : Kept s₀ (giveGrant g s) := h.upd.dropWaitTimer.onGrant

theorem Kept.grantQueue {a : List Grant} {a1 : List (Option Nat)} (h : Kept s₀ s) : Kept s₀ (grantQueue a a1 s) := by
  induction a generalizing a1 s with
  | nil =>
    unfold Machine.grantQueue
    exact h
  | cons b l ih =>
    unfold Machine.grantQueue
    dsimp only
    exact .ite (ih h) (.ite (ih h.upd.giveGrant) (.ite (ih h) (.ite (ih h) h)))

theorem Kept.reinstate {a : List Grant} {a1 : List (Option Nat)} (h : Kept s₀ s) : Kept s₀ (reinstate a a1 s) := by
  induction a generalizing a1 s with
  | nil =>
    unfold Machine.reinstate
    exact h
  | cons b l ih =>
    unfold Machine.reinstate
    dsimp only
    exact .ite (ih h) (.ite (ih h.upd.onGrant) (.ite (ih h) h))

theorem Kept.raiseSag {d : Nat} (h : Kept s₀ s) : Kept s₀ (raiseSag d s) := .ite h h.upd

theorem Kept.examineGrants (h : Kept s₀ s) : Kept s₀ (examineGrants s) :=
  .grantQueue (.ite h (h.reinstate.forBelow (fun _ _ h1 => h1.raiseSag)))

theorem Kept.requestGrant {units us level : Nat} {inst : Option Nat} {disc : Bool} {die : Option Nat} {p : Holder} (h : Kept s₀ s)
    :
    Kept s₀ (requestGrant units us level inst disc die p s) := .ite h.upd.grantQueue.upd.setWaitTimer h.upd.grantQueue

theorem Kept.chargeGrant {g : Grant} (h : Kept s₀ s) : Kept s₀ (chargeGrant g s) := by
  unfold Machine.chargeGrant
  split
  · exact h.addCounter
  · exact h

theorem Kept.endGrant {id : Nat} (h : Kept s₀ s) : Kept s₀ (endGrant id s) :=
  .examineGrants (.dropWaitTimer (.upd (h.forEach (fun _ _ h1 => h1.chargeGrant))))

theorem Kept.endHolder {p : Holder} (h : Kept s₀ s) : Kept s₀ (endHolder p s) := h.forEach fun _ _ h1 => h1.endGrant

theorem Kept.enterSmu {u : Nat} (h : Kept s₀ s) : Kept s₀ (enterSmu u s) := .ite h h.setSmu

theorem Kept.enterDgu {u : Nat} (h : Kept s₀ s) : Kept s₀ (enterDgu u s) := .ite h h.setDgu

theorem Kept.countSmu {u i bytes jobs : Nat} (h : Kept s₀ s) : Kept s₀ (countSmu u i bytes jobs s) := h.setSmu

theorem Kept.countMerged {u : Nat} {before l : List SmuJob} (h : Kept s₀ s) : Kept s₀ (countMerged u before l s) := by
  unfold Machine.countMerged
  refine .forEach h ?_
  intro _ _ h1
  split
  · exact .ite h1 h1.countSmu
  · exact h1

theorem Kept.putTree {u : Nat} {also : List SmuJob} {y : TreeAt} (h : Kept s₀ s) : Kept s₀ (putTree u also y s) :=
  h.setSmu.countMerged

theorem Kept.advanceSmu {u : Nat} (h : Kept s₀ s) : Kept s₀ (advanceSmu u s) := .ite h h.freshNat.putTree

theorem Kept.dropJobs {slot u : Nat} (h : Kept s₀ s) : Kept s₀ (dropJobs slot u s) :=
  .ite (h.forEach (fun _ _ h1 => .ite h1.freshNat.countSmu h1)) (.setSmu (h.forEach (fun _ _ h1 => .ite h1.freshNat.countSmu h1)))

theorem Kept.idleTick (h : Kept s₀ s) : Kept s₀ (idleTick s) := h.upd

theorem Kept.wake (h : Kept s₀ s) : Kept s₀ (wake s) := .ite (.ite h.upd h.upd) (.ite h.upd h)

theorem Kept.enterPs {b : BitVec 2} (h : Kept s₀ s) : Kept s₀ (enterPs b s) := h.upd

/-! ## CmdOps -/

theorem Kept.openR0 {c : Cmd} (h : Kept s₀ s) : Kept s₀ (openR0 c s).2 := by
  unfold Machine.openR0
  split
  · dsimp only
    exact h
  · exact h.freshWord

theorem Kept.dropCursors {slot : Nat} (h : Kept s₀ s) : Kept s₀ (dropCursors slot s) := h.upd

theorem Kept.setCtx {u k : Nat} {x : Ctx} (h : Kept s₀ s) : Kept s₀ (s.setCtx u k x) := h.setDgu

theorem Kept.leaveLane {u k : Nat} (h : Kept s₀ s) : Kept s₀ (leaveLane u k s) := h.setDgu

theorem Kept.failCtxCmp {u k dt : Nat} {cmp : BitVec 2} (h : Kept s₀ s) : Kept s₀ (failCtxCmp u k dt cmp s) := h.setCtx.leaveLane

theorem Kept.failCtx {u k dt : Nat} (h : Kept s₀ s) : Kept s₀ (failCtx u k dt s) := h.failCtxCmp

theorem Kept.clearCtx {u k : Nat} (h : Kept s₀ s) : Kept s₀ (clearCtx u k s) := h.failCtx.setDgu

theorem Kept.logCleared {u : Nat} (h : Kept s₀ s) : Kept s₀ (logCleared u s) := by
  unfold Machine.logCleared
  exact h.freshNat.logEvent

theorem Kept.clearLogged {u k : Nat} (h : Kept s₀ s) : Kept s₀ (clearLogged u k s) := h.clearCtx.logCleared

theorem Kept.forCtxs {p : Ctx → Bool} {f : Nat → Nat → State → State} {u : Nat} (h : Kept s₀ s)
    (hf : ∀ a a1 t, Kept s₀ t → Kept s₀ (f a a1 t)) :
    Kept s₀ (forCtxs p f u s) := h.forEach (fun _ _ h1 => .ite (hf _ _ _ h1) h1)

theorem Kept.stopDigests {slot : Nat} (h : Kept s₀ s) : Kept s₀ (stopDigests slot s) :=
  h.forBelow (fun _ _ h1 => h1.forCtxs (fun _ _ _ h2 => h2.failCtx))

theorem Kept.ctxPortRead {u k acc off n : Nat} (h : Kept s₀ s) : Kept s₀ (ctxPortRead u k acc off n s).2 := by
  unfold Machine.ctxPortRead
  dsimp only
  split
  · dsimp only
    exact h.logEvent
  · dsimp only
    exact h

theorem Kept.endHolders {p : Holder → Bool} (h : Kept s₀ s) : Kept s₀ (endHolders p s) := h.forEach fun _ _ h1 => h1.endGrant

theorem Kept.stopWork {slot status : Nat} (h : Kept s₀ s) : Kept s₀ (stopWork slot status s) :=
  .endHolders (.ite (.upd (h.dropCursors.forBelow (fun _ _ h1 => h1.dropJobs)))
    (.stopDigests (.upd (h.dropCursors.forBelow (fun _ _ h1 => h1.dropJobs)))))

theorem Kept.fixRecord {c : Cmd} (h : Kept s₀ s) : Kept s₀ (fixRecord c s) := h.setSq

theorem Kept.presentOutcome {slot st : Nat} {r0 : W64} (h : Kept s₀ s) : Kept s₀ (presentOutcome slot st r0 s) := by
  unfold Machine.presentOutcome
  split
  · exact h
  · exact .ite h (.ite h.setCmd.fixRecord h.setCmd.fixRecord.stopWork)

theorem Kept.failCmd {slot st : Nat} (h : Kept s₀ s) : Kept s₀ (failCmd slot st s) := by
  unfold Machine.failCmd
  split
  · exact h
  · exact h.openR0.presentOutcome

theorem Kept.succeed {slot : Nat} {r0 : W64} (h : Kept s₀ s) : Kept s₀ (succeed slot r0 s) := h.presentOutcome

theorem Kept.presentFence {slot : Nat} (h : Kept s₀ s) : Kept s₀ (presentFence slot s) := by
  unfold Machine.presentFence
  split
  · exact h
  · exact .ite h h.setCmd.fixRecord.stopWork

theorem Kept.succeedDone {slot : Nat} {r0 : W64} (h : Kept s₀ s) : Kept s₀ (succeedDone slot r0 s) := .ite h.succeed.modCmd h

theorem Kept.recordFailure {slot st : Nat} {r0 : W64} (h : Kept s₀ s) : Kept s₀ (recordFailure slot st r0 s) := by
  unfold Machine.recordFailure
  split
  · exact h
  · exact .ite h h.setCmd.stopWork

theorem Kept.endIfFailed {slot : Nat} (h : Kept s₀ s) : Kept s₀ (endIfFailed slot s) := by
  unfold Machine.endIfFailed
  split
  · exact h
  · split
    · exact .ite h h.presentOutcome
    · exact h

theorem Kept.signalCq {i n : Nat} {force : Bool} (h : Kept s₀ s) : Kept s₀ (signalCq i n force s) := .ite h.setCq.hostSend h

theorem Kept.dropImages {i : Nat} {p : PlanEnt} (h : Kept s₀ s) : Kept s₀ (dropImages i p s) := h.forBelow fun _ _ h1 => h1.setCmu

theorem Kept.reapPlans {i : Nat} (h : Kept s₀ s) : Kept s₀ (reapPlans i s) :=
  h.setInst.forEach (fun _ _ h1 => .dropImages (h1.forEach (fun _ _ h2 => h2.unmapPage)))

theorem Kept.unbindPlan {i id : Nat} (h : Kept s₀ s) : Kept s₀ (unbindPlan i id s) := h.setInst

theorem Kept.retireCmd {slot : Nat} (h : Kept s₀ s) : Kept s₀ (retireCmd slot s) := by
  unfold Machine.retireCmd
  split
  · exact h
  · exact .upd (.reapPlans (h.setCmd.forEach (fun _ _ h1 => h1.unmapPage)))

theorem Kept.countRing {i : Nat} {f : RingCnt → RingCnt} (h : Kept s₀ s) : Kept s₀ (countRing i f s) := h.upd

theorem Kept.setStall {i n : Nat} {o k c : Bool} (h : Kept s₀ s) : Kept s₀ (setStall i n o k c s) :=
  .ite h.setSq.countRing h.setSq

theorem Kept.markCq {i n : Nat} {b : Bool} (h : Kept s₀ s) : Kept s₀ (markCq i n b s) := h.forEach fun _ _ h1 => h1.setStall

theorem Kept.writeEntryNow {slot n : Nat} (h : Kept s₀ s) : Kept s₀ (writeEntryNow slot n s) := by
  unfold Machine.writeEntryNow
  split
  · exact h
  · exact h.hostWrite.setCq.setSq.addCounter.addCounter.upd.retireCmd.signalCq

theorem Kept.holdEntry {slot i n : Nat} (h : Kept s₀ s) : Kept s₀ (holdEntry slot i n s) :=
  .ite (.markCq (.modCmd (.ite h.setCq h.setCq))) (.logEvent (.hawEvent (.markCq (.modCmd (.ite h.setCq h.setCq)))))

theorem Kept.placeOne {slot : Nat} (h : Kept s₀ s) : Kept s₀ (placeOne slot s) := by
  unfold Machine.placeOne
  split
  · exact h
  · exact .ite h.retireCmd (.ite h.writeEntryNow h.holdEntry)

theorem Kept.placeDups {c : Cmd} (h : Kept s₀ s) : Kept s₀ (placeDups c s) := h.forEach fun _ _ h1 => h1.modCmd.placeOne

theorem Kept.completeCmd {slot : Nat} (h : Kept s₀ s) : Kept s₀ (completeCmd slot s) := by
  unfold Machine.completeCmd
  split
  · exact h
  · exact .ite h.placeOne h.placeOne.placeDups

theorem Kept.writeHeld {slot n : Nat} (h : Kept s₀ s) : Kept s₀ (writeHeld slot n s) := by
  unfold Machine.writeHeld
  split
  · exact h
  · exact h.writeEntryNow.placeDups

theorem Kept.drainCq {i n a : Nat} (h : Kept s₀ s) : Kept s₀ (drainCq i n a s) := by
  induction a generalizing i n s with
  | zero =>
    unfold Machine.drainCq
    exact h
  | succ n ih =>
    unfold Machine.drainCq
    dsimp only
    split
    · exact .ite (ih h.setCq.writeHeld) h
    · exact .ite (ih h.setCq.writeHeld) h
    · exact h.setCq.markCq

/-! ## Rings -/

theorem Kept.sqError {i n cause : Nat} (h : Kept s₀ s) : Kept s₀ (sqError i n cause s) := by
  unfold Machine.sqError
  exact h.setSq.countRing.hawEvent.logEvent

theorem Kept.cqError {i n : Nat} (h : Kept s₀ s) : Kept s₀ (cqError i n s) := by
  unfold Machine.cqError
  exact h.setCq.countRing.hawEvent.logEvent

theorem Kept.setDeadline {slot i d : Nat} (h : Kept s₀ s) : Kept s₀ (setDeadline slot i d s) := h.upd

theorem Kept.expireDeadline {slot : Nat} (h : Kept s₀ s) : Kept s₀ (expireDeadline slot s) := by
  unfold Machine.expireDeadline
  split
  · exact h
  · exact .ite h h.upd.presentOutcome

theorem Kept.armDeadline {slot i us : Nat} (h : Kept s₀ s) : Kept s₀ (armDeadline slot i us s) :=
  .ite h (.ite h.modCmd.setDeadline h.modCmd.modCmd.upd)

theorem Kept.acceptCmd {i n : Nat} {fr : Framing} {ended : Bool} (h : Kept s₀ s) : Kept s₀ (acceptCmd i n fr ended s) := by
  unfold Machine.acceptCmd
  split
  · exact h.setSq.upd.setCmd.failCmd
  · dsimp only
    split
    · split
      · exact h.setSq.upd.countRing.countRing.setCmd.modCmd.placeOne
      · exact h.setSq.upd.countRing.countRing.setCmd
    · exact .ite (.armDeadline (.setCmd (.ite h.setSq.upd.countRing.setSq h.setSq.upd.countRing)))
        (.setCmd (.ite h.setSq.upd.countRing.setSq h.setSq.upd.countRing))

theorem Kept.sporeMismatch {i n : Nat} (h : Kept s₀ s) : Kept s₀ (sporeMismatch i n s) := h.countRing.logEvent

theorem Kept.issueRead {i n idx : Nat} (h : Kept s₀ s) : Kept s₀ (issueRead i n idx s) := .ite h h.setSq.hostSend

theorem Kept.readAhead {i n : Nat} (h : Kept s₀ s) : Kept s₀ (readAhead i n s) := .ite h (h.forEach (fun _ _ h1 => h1.issueRead))

theorem Kept.readBeyond {i n : Nat} (h : Kept s₀ s) : Kept s₀ (readBeyond i n s) := h.forEach fun _ _ h1 => h1.issueRead

theorem Kept.consumeHead {i n : Nat} {l : Line} {spore : Bool} (h : Kept s₀ s) : Kept s₀ (consumeHead i n l spore s) := by
  unfold Machine.consumeHead
  dsimp only
  split
  · exact .ite h.setSq h.setSq.sporeMismatch
  · exact h.setSq

theorem Kept.fetchLoop {i n a : Nat} (h : Kept s₀ s) : Kept s₀ (fetchLoop i n a s) := by
  induction a generalizing i n s with
  | zero =>
    unfold Machine.fetchLoop
    exact h
  | succ n ih =>
    unfold Machine.fetchLoop
    dsimp only
    split
    · exact h
    · refine .ite (.ite h.setSq h) ?_
      split
      · exact h
      · split
        · exact .ite h.consumeHead.acceptCmd (ih h.consumeHead.setSq)
        · exact .ite h.acceptCmd (.ite h.consumeHead.acceptCmd (ih h.consumeHead.setSq))

theorem Kept.fetchRun {i n : Nat} (h : Kept s₀ s) : Kept s₀ (fetchRun i n s) := h.fetchLoop.readAhead

theorem Kept.afterTail {i n : Nat} {q : Sq} {b : Nat} (h : Kept s₀ s) : Kept s₀ (afterTail i n q b s) :=
  .fetchRun (.readBeyond (h.forEach (fun _ _ h1 => h1.issueRead)))

theorem Kept.execRingSqTailWrite {inst sq : Nat} {val : W32} (h : Kept s₀ s) :
    KeptOut s₀ (execRingSqTailWrite inst sq val s) := by
  unfold Machine.execRingSqTailWrite
  refine .ite (.next h) ?_
  dsimp only
  split
  · exact .next h.wake.badAccess
  · exact .next h.wake
  · exact .next h.wake
  · split
    · exact .next h.wake.sqError
    · exact .next h.wake.sqError
    · exact .next h.wake.setSq.afterTail

theorem Kept.execSporeWrite {inst sq : Nat} {line : Line} (h : Kept s₀ s) : KeptOut s₀ (execSporeWrite inst sq line s) := by
  unfold Machine.execSporeWrite
  refine .ite (.next h) ?_
  dsimp only
  split
  · exact .next h.wake.badAccess
  · exact .next h.wake
  · exact .next h.wake
  · split
    · exact .next h.wake.sqError
    · exact .next h.wake.sqError
    · exact .ite (.next h.wake.setSq.countRing.afterTail) (.next h.wake.setSq.countRing.afterTail)

theorem Kept.execRingCqHeadWrite {inst cq : Nat} {val : W32} (h : Kept s₀ s) :
    KeptOut s₀ (execRingCqHeadWrite inst cq val s) := by
  unfold Machine.execRingCqHeadWrite
  refine .ite (.next h) ?_
  dsimp only
  split
  · exact .next h.wake.badAccess
  · exact .next h.wake
  · exact .next h.wake
  · exact .ite (.next h.wake.setCq) (.next h.wake.cqError)

theorem Kept.fetchTurn {i : Nat} (h : Kept s₀ s) : KeptSome s₀ (fetchTurn i s) := by
  unfold Machine.fetchTurn
  refine .ite ?_ (.ite (.some h.upd) (.none))
  dsimp only
  split
  · exact .ite (.some h.upd) (.none)
  · exact .none

theorem Kept.execCommandFetchStart {inst sq : Nat} (h : Kept s₀ s) : KeptOut s₀ (execCommandFetchStart inst sq s) := by
  unfold Machine.execCommandFetchStart
  refine .ite (.next h) ?_
  refine .ite (.next h.setStall) ?_
  split
  · exact .next h.setStall
  · rename_i he
    exact .next (.fetchRun (.setSq (h.setStall.fetchTurn _ he)))

theorem Kept.execSqEntryReadDone {inst sq idx : Nat} {data : Option Line} (h : Kept s₀ s) :
    KeptOut s₀ (execSqEntryReadDone inst sq idx data s) := by
  unfold Machine.execSqEntryReadDone
  refine .ite (.next h) ?_
  refine .ite (.next h) ?_
  dsimp only
  split
  · exact .next h.issueRead.setSq.sqError
  · exact .ite (.next h.issueRead.setSq.setSq)
      (.ite (.next h.issueRead.setSq.setSq.fetchRun) (.ite (.next h.issueRead.setSq) (.next h.issueRead.setSq.setSq.countRing)))

theorem Kept.execSporeCompareReadDone {inst sq idx : Nat} {data : Option Line} (h : Kept s₀ s) :
    KeptOut s₀ (execSporeCompareReadDone inst sq idx data s) := by
  unfold Machine.execSporeCompareReadDone
  dsimp only
  split
  · exact .next h
  · split
    · exact .next h.setSq.hostSend
    · exact .ite (.next h.setSq.hostSend) (.next h.setSq.hostSend.sporeMismatch)

theorem Kept.onHanded {slot opc : Nat} {f : Cmd → State → State} (h : Kept s₀ s) (hf : ∀ a t, Kept s₀ t → Kept s₀ (f a t)) :
    Kept s₀ (onHanded slot opc f s) := by
  unfold Machine.onHanded
  split
  · exact h
  · exact .ite (hf _ _ h) h

theorem Kept.execNop {slot : Nat} (h : Kept s₀ s) : KeptOut s₀ (execNop slot s) := .next (h.onHanded (fun _ _ h1 => h1.succeed))

theorem Kept.endAbort {slot st : Nat} (h : Kept s₀ s) : Kept s₀ (endAbort slot st s) := h.freshWord.presentOutcome

theorem Kept.runAbort {slot : Nat} {c : Cmd} (h : Kept s₀ s) : Kept s₀ (runAbort slot c s) := by
  unfold Machine.runAbort
  refine .ite h.endAbort ?_
  dsimp only
  split
  · exact .ite h.endAbort (.ite h.openR0.presentOutcome.endAbort h.modCmd.endAbort)
  · exact h.endAbort
  · exact h.endAbort

theorem Kept.execAbort {slot : Nat} (h : Kept s₀ s) : KeptOut s₀ (execAbort slot s) :=
  .next (h.onHanded (fun _ _ h1 => h1.runAbort))

theorem Kept.drainAll {i n : Nat} (h : Kept s₀ s) : Kept s₀ (drainAll i n s) :=
  .ite h.drainCq (h.drainCq.forEach (fun _ _ h1 => h1.fetchRun))

theorem Kept.execCompletionBufferDrain {inst cq : Nat} (h : Kept s₀ s) : KeptOut s₀ (execCompletionBufferDrain inst cq s) :=
  .next h.drainAll

theorem Kept.execCqAggTimeExpiry {inst cq : Nat} (h : Kept s₀ s) : KeptOut s₀ (execCqAggTimeExpiry inst cq s) :=
  .ite (.next h) (.next h.signalCq)

theorem Kept.execDeadlineTimerWaitEnd {slot : Nat} (h : Kept s₀ s) : KeptOut s₀ (execDeadlineTimerWaitEnd slot s) := by
  unfold Machine.execDeadlineTimerWaitEnd
  split
  · exact .next h
  · exact .ite (.next h) (.ite (.next h.upd.modCmd.expireDeadline) (.next h.upd.modCmd.setDeadline))

theorem Kept.fireTimer {b : Timer} (h : Kept s₀ s) : Kept s₀ (fireTimer b s) := h.upd.expireDeadline

theorem Kept.execDeadlineExpiry {slot : Nat} (h : Kept s₀ s) : KeptOut s₀ (execDeadlineExpiry slot s) := by
  unfold Machine.execDeadlineExpiry
  split
  · exact .next h
  · exact .ite (.next h) (.next h.fireTimer)

theorem Kept.fireDue {a : Nat} (h : Kept s₀ s) : Kept s₀ (fireDue a s) := by
  induction a generalizing s with
  | zero =>
    unfold Machine.fireDue
    exact h
  | succ n ih =>
    unfold Machine.fireDue
    split
    · exact h
    · exact ih h.fireTimer

end

end Sys2Proof.Machine
end

section
/-!
PROOFS. What every command keeps, continued: what fronds execute. Each lemma follows the branches of its function.
-/

namespace Sys2Proof.Machine

section
-- Each of these short lemmas would else wait in a thread of its own for the long proofs before it.
set_option Elab.async false
variable {s₀ s t : State}

/-! ## FrondOps -/

theorem Kept.failOp {f st : Nat} (h : Kept s₀ s) : Kept s₀ (failOp f st s).2 := by
  unfold Machine.failOp
  split
  · dsimp only
    exact h
  · split
    · dsimp only
      exact h
    · exact h.choose

theorem Kept.failItem {f st : Nat} (h : Kept s₀ s) : Kept s₀ (failItem f st s) := by
  unfold Machine.failItem
  split
  · exact h
  · exact h.failOp.recordFailure

theorem Kept.tagLine {b : StreamTag} {a n : Nat} (h : Kept s₀ s) : Kept s₀ (tagLine b a n s).2 := by
  unfold Machine.tagLine
  split
  · dsimp only
    exact h
  · dsimp only
    exact h.colourFault
  · split
    · split
      · rename_i he2
        dsimp only
        exact .of_snd h.writePhys he2
      · rename_i he3
        dsimp only
        exact .of_snd h.writePhys he3
    · split
      · rename_i he2
        dsimp only
        exact .of_snd h.readLine he2
      · rename_i he2
        dsimp only
        exact .of_snd h.readLine he2
      · rename_i he4
        dsimp only
        exact .of_snd h.readLine he4

theorem Kept.tagLines {b : StreamTag} {extra a a1 a2 : Nat} {a3 : Option (Nat × Nat)} (h : Kept s₀ s) :
    Kept s₀ (tagLines b extra a a1 a2 a3 s).2.2 := by
  induction a generalizing b extra a1 a2 a3 s with
  | zero =>
    unfold Machine.tagLines
    dsimp only
    exact h
  | succ n ih =>
    unfold Machine.tagLines
    dsimp only
    split
    · dsimp only
      exact h
    · split
      · exact ih h.tagLine
      · split
        · rename_i he1
          exact ih (.of_snd h.tagLine he1)
        · rename_i he1
          exact ih (.of_snd h.tagLine he1)

theorem Kept.endTag {f tag : Nat} {data : Option (List Byte)} (h : Kept s₀ s) : Kept s₀ (endTag f tag data s) := by
  unfold Machine.endTag
  refine .ite ?_ ?_
  · split
    · dsimp only
      split
      · exact h.freshNat.tagLines.setFrond
      · exact h.freshNat.tagLines.setFrond
    · dsimp only
      split
      · exact h.freshNat.tagLines.setFrond
      · exact h.freshNat.tagLines.setFrond
  · refine .ite (.ite (.ite h h.hostWrite.addCounter.setFrond) (.ite h.setFrond h.setFrond)) ?_
    split
    · refine .setFrond ?_
      split
      · exact .ite h.freshNat.clearLogged h.freshNat
      · exact h.freshNat
    · exact .ite (.ite h h.setFrond) h.ctxPortRead.setFrond
    · exact h.setFrond

theorem Kept.endRequest {f tag : Nat} {data : Option (List Byte)} (h : Kept s₀ s) : Kept s₀ (endRequest f tag data s) :=
  h.endTag.settleLeaving

theorem Kept.setTag {f tag : Nat} {b : StreamTag} (h : Kept s₀ s) : Kept s₀ (setTag f tag b s) := h.setFrond

theorem Kept.cancelTag {f tag : Nat} (h : Kept s₀ s) : Kept s₀ (cancelTag f tag s) :=
  .ite h.freshNat.setTag (.ite h.freshNat.setTag h.freshNat.setTag)

theorem Kept.cancelTags {f : Nat} (h : Kept s₀ s) : Kept s₀ (cancelTags f s) :=
  .settleLeaving (h.forEach (fun _ _ h1 => .ite h1.cancelTag h1))

theorem Kept.settleTags {f : Nat} (h : Kept s₀ s) : Kept s₀ (settleTags f s) :=
  h.forEach (fun _ _ h1 => .ite h1.setTag (.ite h1.endRequest h1))

theorem Kept.doubleFault {f : Nat} {fr : Frond} (h : Kept s₀ s) : Kept s₀ (doubleFault f fr s) := by
  unfold Machine.doubleFault
  dsimp only
  split
  · exact h.setFrond.fwEvent.failItem.cancelTags.settleTags.setFrond
  · exact h.setFrond.fwEvent.failItem.cancelTags.settleTags.setFrond.endHolder.endIfFailed

theorem Kept.takeException {f : Nat} {fr : Frond} {async : Bool} {code detail : Nat} {tval : Option Nat} (h : Kept s₀ s) :
    Kept s₀ (takeException f fr async code detail tval s) := by
  unfold Machine.takeException
  refine .ite h.doubleFault ?_
  refine .setFrond ?_
  split
  · exact h
  · exact h.freshWord

theorem Kept.dropAsks {f : Nat} (h : Kept s₀ s) : Kept s₀ (dropAsks f s) := h.dropWaits.setAsks.upd

theorem Kept.reportEnded {f : Nat} (h : Kept s₀ s) : Kept s₀ (reportEnded f s) := by
  unfold Machine.reportEnded
  dsimp only
  split
  · exact h.setFrond
  · exact h.setFrond.dropAsks.endHolder.endIfFailed

theorem Kept.takeStop {f : Nat} (h : Kept s₀ s) : Kept s₀ (takeStop f s) :=
  .ite h.takeException h.takeException.cancelTags.settleTags.reportEnded

theorem Kept.takeAsync {f : Nat} (h : Kept s₀ s) : Kept s₀ (takeAsync f s) := .ite h (.ite h.takeStop (.ite h.takeException h))

theorem Kept.retireInstr {f : Nat} {wasK : Bool} {fr : Frond} {pc : W64} (h : Kept s₀ s) :
    Kept s₀ (retireInstr f wasK fr pc s) := h.upd.setFrond.takeAsync

theorem Kept.excTime {fr : Frond} {wasK : Bool} (h : Kept s₀ s) : Kept s₀ (excTime fr wasK s).2 := h.upd

theorem Kept.fetched {op : State → Frond → FOut} {fr : Frond} (h : Kept s₀ s) (hf : ∀ t a, Kept s₀ t → (op t a).Keeps s₀) :
    (fetched op s fr).Keeps s₀ := .ite (hf _ _ h) h

theorem Kept.runFrond {f : Nat} {op : State → Frond → FOut} (h : Kept s₀ s) (hf : ∀ t a, Kept s₀ t → (op t a).Keeps s₀) :
    Kept s₀ (runFrond f op s) := by
  unfold Machine.runFrond
  dsimp only
  split
  · exact h
  split
  · exact h.excTime.takeException
  have ho : (Machine.fetched op s (s.frond f)).Keeps s₀ := h.fetched hf
  split
  case h_1 he => rw [he] at ho; exact .retireInstr ho
  case h_2 he => rw [he] at ho; exact (Kept.freshNat ho).excTime.takeException
  case h_3 he => rw [he] at ho; exact (Kept.excTime ho).takeException
  case h_4 => exact h

theorem Kept.pureOp {g : Frond → Frond} {a : Frond} (h : Kept s₀ s) : (pureOp g s a).Keeps s₀ := h

theorem Kept.kOnly {g : State → Frond → FOut} {a : Frond} (h : Kept s₀ s) (hf : ∀ t a, Kept s₀ t → (g t a).Keeps s₀) :
    (kOnly g s a).Keeps s₀ := .ite (hf _ _ h) h

theorem Kept.illegalWord {f : Fin 128} (h : Kept s₀ s) : Kept s₀ (illegalWord f s) := h.runFrond fun _ _ h1 => h1

theorem Kept.mispredict {fr : Frond} (h : Kept s₀ s) : Kept s₀ (mispredict s fr).1 := by
  unfold Machine.mispredict
  split
  · dsimp only
    exact h
  · dsimp only
    exact h.upd

theorem Kept.resolveBranch {taken : Bool} {fr : Frond} (h : Kept s₀ s) : Kept s₀ (resolveBranch taken s fr).1 := by
  unfold Machine.resolveBranch
  split
  · dsimp only
    split
    · dsimp only
      exact h
    · exact h.mispredict
  · dsimp only
    split
    · dsimp only
      exact h
    · exact h.mispredict

/-! ## Operands -/

theorem Kept.vecOp {v : VForm} {o : VOps} {g : Frond → Frond} {a : Frond} (h : Kept s₀ s) : (vecOp v o g s a).Keeps s₀ := .ite h h

/-! ## FrondScalar -/

theorem Kept.execAddi {f : Fin 128} {d a : BitVec 5} {imm : BitVec 16} (h : Kept s₀ s) : KeptOut s₀ (execAddi f d a imm s) :=
  .next (h.runFrond (fun _ _ h1 => h1.pureOp))

theorem Kept.execAndi {f : Fin 128} {d a : BitVec 5} {imm : BitVec 16} (h : Kept s₀ s) : KeptOut s₀ (execAndi f d a imm s) :=
  .next (h.runFrond (fun _ _ h1 => h1.pureOp))

theorem Kept.execOri {f : Fin 128} {d a : BitVec 5} {imm : BitVec 16} (h : Kept s₀ s) : KeptOut s₀ (execOri f d a imm s) :=
  .next (h.runFrond (fun _ _ h1 => h1.pureOp))

theorem Kept.execXori {f : Fin 128} {d a : BitVec 5} {imm : BitVec 16} (h : Kept s₀ s) : KeptOut s₀ (execXori f d a imm s) :=
  .next (h.runFrond (fun _ _ h1 => h1.pureOp))

theorem Kept.execLui {f : Fin 128} {d : BitVec 5} {imm : BitVec 16} (h : Kept s₀ s) : KeptOut s₀ (execLui f d imm s) :=
  .next (h.runFrond (fun _ _ h1 => h1.pureOp))

theorem Kept.execShi {f : Fin 128} {d a : BitVec 5} {imm : BitVec 16} (h : Kept s₀ s) : KeptOut s₀ (execShi f d a imm s) :=
  .next (h.runFrond (fun _ _ h1 => h1.pureOp))

theorem Kept.execSlti {f : Fin 128} {d a : BitVec 5} {imm : BitVec 16} (h : Kept s₀ s) : KeptOut s₀ (execSlti f d a imm s) :=
  .next (h.runFrond (fun _ _ h1 => h1.pureOp))

theorem Kept.execAdd {f : Fin 128} {d a b : BitVec 5} (h : Kept s₀ s) : KeptOut s₀ (execAdd f d a b s) :=
  .next (h.runFrond (fun _ _ h1 => h1.pureOp))

theorem Kept.execSub {f : Fin 128} {d a b : BitVec 5} (h : Kept s₀ s) : KeptOut s₀ (execSub f d a b s) :=
  .next (h.runFrond (fun _ _ h1 => h1.pureOp))

theorem Kept.execOpAnd {f : Fin 128} {d a b : BitVec 5} (h : Kept s₀ s) : KeptOut s₀ (execOpAnd f d a b s) :=
  .next (h.runFrond (fun _ _ h1 => h1.pureOp))

theorem Kept.execOpOr {f : Fin 128} {d a b : BitVec 5} (h : Kept s₀ s) : KeptOut s₀ (execOpOr f d a b s) :=
  .next (h.runFrond (fun _ _ h1 => h1.pureOp))

theorem Kept.execOpXor {f : Fin 128} {d a b : BitVec 5} (h : Kept s₀ s) : KeptOut s₀ (execOpXor f d a b s) :=
  .next (h.runFrond (fun _ _ h1 => h1.pureOp))

theorem Kept.execSll {f : Fin 128} {d a b : BitVec 5} (h : Kept s₀ s) : KeptOut s₀ (execSll f d a b s) :=
  .next (h.runFrond (fun _ _ h1 => h1.pureOp))

theorem Kept.execSrl {f : Fin 128} {d a b : BitVec 5} (h : Kept s₀ s) : KeptOut s₀ (execSrl f d a b s) :=
  .next (h.runFrond (fun _ _ h1 => h1.pureOp))

theorem Kept.execSra {f : Fin 128} {d a b : BitVec 5} (h : Kept s₀ s) : KeptOut s₀ (execSra f d a b s) :=
  .next (h.runFrond (fun _ _ h1 => h1.pureOp))

theorem Kept.execSlt {f : Fin 128} {d a b : BitVec 5} (h : Kept s₀ s) : KeptOut s₀ (execSlt f d a b s) :=
  .next (h.runFrond (fun _ _ h1 => h1.pureOp))

theorem Kept.execSltu {f : Fin 128} {d a b : BitVec 5} (h : Kept s₀ s) : KeptOut s₀ (execSltu f d a b s) :=
  .next (h.runFrond (fun _ _ h1 => h1.pureOp))

theorem Kept.execMinS {f : Fin 128} {d a b : BitVec 5} (h : Kept s₀ s) : KeptOut s₀ (execMinS f d a b s) :=
  .next (h.runFrond (fun _ _ h1 => h1.pureOp))

theorem Kept.execMaxS {f : Fin 128} {d a b : BitVec 5} (h : Kept s₀ s) : KeptOut s₀ (execMaxS f d a b s) :=
  .next (h.runFrond (fun _ _ h1 => h1.pureOp))

theorem Kept.execMinU {f : Fin 128} {d a b : BitVec 5} (h : Kept s₀ s) : KeptOut s₀ (execMinU f d a b s) :=
  .next (h.runFrond (fun _ _ h1 => h1.pureOp))

theorem Kept.execMaxU {f : Fin 128} {d a b : BitVec 5} (h : Kept s₀ s) : KeptOut s₀ (execMaxU f d a b s) :=
  .next (h.runFrond (fun _ _ h1 => h1.pureOp))

theorem Kept.execClz {f : Fin 128} {d a : BitVec 5} (h : Kept s₀ s) : KeptOut s₀ (execClz f d a s) :=
  .next (h.runFrond (fun _ _ h1 => h1.pureOp))

theorem Kept.execCtz {f : Fin 128} {d a : BitVec 5} (h : Kept s₀ s) : KeptOut s₀ (execCtz f d a s) :=
  .next (h.runFrond (fun _ _ h1 => h1.pureOp))

theorem Kept.execPopc {f : Fin 128} {d a : BitVec 5} (h : Kept s₀ s) : KeptOut s₀ (execPopc f d a s) :=
  .next (h.runFrond (fun _ _ h1 => h1.pureOp))

theorem Kept.execBswap {f : Fin 128} {d a : BitVec 5} (h : Kept s₀ s) : KeptOut s₀ (execBswap f d a s) :=
  .next (h.runFrond (fun _ _ h1 => h1.pureOp))

theorem Kept.execMulLo {f : Fin 128} {d a b : BitVec 5} (h : Kept s₀ s) : KeptOut s₀ (execMulLo f d a b s) :=
  .next (h.runFrond (fun _ _ h1 => h1.pureOp))

theorem Kept.execMulh {f : Fin 128} {d a b : BitVec 5} (h : Kept s₀ s) : KeptOut s₀ (execMulh f d a b s) :=
  .next (h.runFrond (fun _ _ h1 => h1.pureOp))

theorem Kept.execMulhu {f : Fin 128} {d a b : BitVec 5} (h : Kept s₀ s) : KeptOut s₀ (execMulhu f d a b s) :=
  .next (h.runFrond (fun _ _ h1 => h1.pureOp))

theorem Kept.execDivS {f : Fin 128} {d a b : BitVec 5} (h : Kept s₀ s) : KeptOut s₀ (execDivS f d a b s) :=
  .next (h.runFrond (fun _ _ h1 => h1.pureOp))

theorem Kept.execDivu {f : Fin 128} {d a b : BitVec 5} (h : Kept s₀ s) : KeptOut s₀ (execDivu f d a b s) :=
  .next (h.runFrond (fun _ _ h1 => h1.pureOp))

theorem Kept.execRem {f : Fin 128} {d a b : BitVec 5} (h : Kept s₀ s) : KeptOut s₀ (execRem f d a b s) :=
  .next (h.runFrond (fun _ _ h1 => h1.pureOp))

theorem Kept.execRemu {f : Fin 128} {d a b : BitVec 5} (h : Kept s₀ s) : KeptOut s₀ (execRemu f d a b s) :=
  .next (h.runFrond (fun _ _ h1 => h1.pureOp))

theorem Kept.loadOp {a : BitVec 5} {imm : BitVec 16} {n : Nat} {g : Nat → Frond → Frond} {a1 : Frond} (h : Kept s₀ s) :
    (loadOp a imm n g s a1).Keeps s₀ := by
  unfold Machine.loadOp
  dsimp only
  split
  · exact h
  · exact h

theorem Kept.storeOp {a : BitVec 5} {imm : BitVec 16} {n : Nat} {v : Frond → Nat} {a1 : Frond} (h : Kept s₀ s) :
    (storeOp a imm n v s a1).Keeps s₀ := by
  unfold Machine.storeOp
  dsimp only
  split
  · exact h
  · exact h

theorem Kept.execLdB {f : Fin 128} {d a : BitVec 5} {imm : BitVec 16} (h : Kept s₀ s) : KeptOut s₀ (execLdB f d a imm s) :=
  .next (h.runFrond (fun _ _ h1 => h1.loadOp))

theorem Kept.execLdH {f : Fin 128} {d a : BitVec 5} {imm : BitVec 16} (h : Kept s₀ s) : KeptOut s₀ (execLdH f d a imm s) :=
  .next (h.runFrond (fun _ _ h1 => h1.loadOp))

theorem Kept.execLdW {f : Fin 128} {d a : BitVec 5} {imm : BitVec 16} (h : Kept s₀ s) : KeptOut s₀ (execLdW f d a imm s) :=
  .next (h.runFrond (fun _ _ h1 => h1.loadOp))

theorem Kept.execLdD {f : Fin 128} {d a : BitVec 5} {imm : BitVec 16} (h : Kept s₀ s) : KeptOut s₀ (execLdD f d a imm s) :=
  .next (h.runFrond (fun _ _ h1 => h1.loadOp))

theorem Kept.execLduB {f : Fin 128} {d a : BitVec 5} {imm : BitVec 16} (h : Kept s₀ s) : KeptOut s₀ (execLduB f d a imm s) :=
  .next (h.runFrond (fun _ _ h1 => h1.loadOp))

theorem Kept.execLduH {f : Fin 128} {d a : BitVec 5} {imm : BitVec 16} (h : Kept s₀ s) : KeptOut s₀ (execLduH f d a imm s) :=
  .next (h.runFrond (fun _ _ h1 => h1.loadOp))

theorem Kept.execLduW {f : Fin 128} {d a : BitVec 5} {imm : BitVec 16} (h : Kept s₀ s) : KeptOut s₀ (execLduW f d a imm s) :=
  .next (h.runFrond (fun _ _ h1 => h1.loadOp))

theorem Kept.execStB {f : Fin 128} {d a : BitVec 5} {imm : BitVec 16} (h : Kept s₀ s) : KeptOut s₀ (execStB f d a imm s) :=
  .next (h.runFrond (fun _ _ h1 => h1.storeOp))

theorem Kept.execStH {f : Fin 128} {d a : BitVec 5} {imm : BitVec 16} (h : Kept s₀ s) : KeptOut s₀ (execStH f d a imm s) :=
  .next (h.runFrond (fun _ _ h1 => h1.storeOp))

theorem Kept.execStW {f : Fin 128} {d a : BitVec 5} {imm : BitVec 16} (h : Kept s₀ s) : KeptOut s₀ (execStW f d a imm s) :=
  .next (h.runFrond (fun _ _ h1 => h1.storeOp))

theorem Kept.execStD {f : Fin 128} {d a : BitVec 5} {imm : BitVec 16} (h : Kept s₀ s) : KeptOut s₀ (execStD f d a imm s) :=
  .next (h.runFrond (fun _ _ h1 => h1.storeOp))

theorem Kept.execFldS {f : Fin 128} {d a : BitVec 5} {imm : BitVec 16} (h : Kept s₀ s) : KeptOut s₀ (execFldS f d a imm s) :=
  .next (h.runFrond (fun _ _ h1 => h1.loadOp))

theorem Kept.execFldD {f : Fin 128} {d a : BitVec 5} {imm : BitVec 16} (h : Kept s₀ s) : KeptOut s₀ (execFldD f d a imm s) :=
  .next (h.runFrond (fun _ _ h1 => h1.loadOp))

theorem Kept.execFstS {f : Fin 128} {d a : BitVec 5} {imm : BitVec 16} (h : Kept s₀ s) : KeptOut s₀ (execFstS f d a imm s) :=
  .next (h.runFrond (fun _ _ h1 => h1.storeOp))

theorem Kept.execFstD {f : Fin 128} {d a : BitVec 5} {imm : BitVec 16} (h : Kept s₀ s) : KeptOut s₀ (execFstD f d a imm s) :=
  .next (h.runFrond (fun _ _ h1 => h1.storeOp))

theorem Kept.execBr {f : Fin 128} {cond a b : BitVec 5} {off : BitVec 11} (h : Kept s₀ s) :
    KeptOut s₀ (execBr f cond a b off s) := by
  unfold Machine.execBr
  refine .next ?_
  refine .runFrond h ?_
  intro _ _ h1
  split
  · exact h1
  · exact h1.resolveBranch

theorem Kept.execJ {f : Fin 128} {off : BitVec 26} (h : Kept s₀ s) : KeptOut s₀ (execJ f off s) :=
  .next (h.runFrond (fun _ _ h1 => h1))

theorem Kept.execJl {f : Fin 128} {off : BitVec 26} (h : Kept s₀ s) : KeptOut s₀ (execJl f off s) :=
  .next (h.runFrond (fun _ _ h1 => h1))

theorem Kept.execJr {f : Fin 128} {a : BitVec 5} (h : Kept s₀ s) : KeptOut s₀ (execJr f a s) :=
  .next (h.runFrond (fun _ _ h1 => .ite (.ite h1 h1.mispredict) h1))

theorem Kept.execJlr {f : Fin 128} {d a : BitVec 5} (h : Kept s₀ s) : KeptOut s₀ (execJlr f d a s) :=
  .next (h.runFrond (fun _ _ h1 => h1))

theorem Kept.execFp {f : Fin 128} {d a b : BitVec 5} {fn : BitVec 11} (h : Kept s₀ s) : KeptOut s₀ (execFp f d a b fn s) := by
  unfold Machine.execFp
  refine .next ?_
  refine .runFrond h ?_
  intro _ _ h1
  split
  · exact h1
  · split
    · exact h1
    · exact h1.freshWord.freshWord

theorem Kept.fmaOp {np nc : Bool} {d a b c : BitVec 5} {dbl : Bool} {a1 : Frond} (h : Kept s₀ s) :
    (fmaOp np nc d a b c dbl s a1).Keeps s₀ := h.pureOp

theorem Kept.execFmadd {f : Fin 128} {d a b c : BitVec 5} {dbl : Bool} (h : Kept s₀ s) :
    KeptOut s₀ (execFmadd f d a b c dbl s) := .next (h.runFrond (fun _ _ h1 => h1.fmaOp))

theorem Kept.execFmsub {f : Fin 128} {d a b c : BitVec 5} {dbl : Bool} (h : Kept s₀ s) :
    KeptOut s₀ (execFmsub f d a b c dbl s) := .next (h.runFrond (fun _ _ h1 => h1.fmaOp))

theorem Kept.execFnmadd {f : Fin 128} {d a b c : BitVec 5} {dbl : Bool} (h : Kept s₀ s) :
    KeptOut s₀ (execFnmadd f d a b c dbl s) := .next (h.runFrond (fun _ _ h1 => h1.fmaOp))

theorem Kept.execFnmsub {f : Fin 128} {d a b c : BitVec 5} {dbl : Bool} (h : Kept s₀ s) :
    KeptOut s₀ (execFnmsub f d a b c dbl s) := .next (h.runFrond (fun _ _ h1 => h1.fmaOp))

/-! ## FrondSystem -/

theorem Kept.execFcrd {f : Fin 128} {d : BitVec 5} {imm : BitVec 16} (h : Kept s₀ s) : KeptOut s₀ (execFcrd f d imm s) := by
  unfold Machine.execFcrd
  refine .next ?_
  refine .runFrond h ?_
  intro _ _ h1
  split
  · exact h1
  · exact .ite h1 h1

theorem Kept.execFcwr {f : Fin 128} {a : BitVec 5} {imm : BitVec 16} (h : Kept s₀ s) : KeptOut s₀ (execFcwr f a imm s) := by
  unfold Machine.execFcwr
  refine .next ?_
  refine .runFrond h ?_
  intro _ _ h1
  split
  · exact h1
  · exact .ite h1 h1

theorem Kept.execTrap {f : Fin 128} {b : BitVec 5} (h : Kept s₀ s) : KeptOut s₀ (execTrap f b s) :=
  .next (h.runFrond (fun _ _ h1 => h1))

theorem Kept.execEret {f : Fin 128} (h : Kept s₀ s) : KeptOut s₀ (execEret f s) :=
  .next (h.runFrond (fun _ _ h1 => h1.kOnly (fun _ _ h2 => h2)))

theorem Kept.execFence {f : Fin 128} (h : Kept s₀ s) : KeptOut s₀ (execFence f s) := .next (h.runFrond (fun _ _ h1 => h1.pureOp))

theorem Kept.execWfe {f : Fin 128} (h : Kept s₀ s) : KeptOut s₀ (execWfe f s) :=
  .next (h.runFrond (fun _ _ h1 => h1.kOnly (fun _ _ h2 => .ite h2 trivial)))

theorem Kept.bpOnly {g : Frond → Frond} {a : Frond} (h : Kept s₀ s) : (bpOnly g s a).Keeps s₀ := .ite h h

theorem Kept.execBpFlush {f : Fin 128} (h : Kept s₀ s) : KeptOut s₀ (execBpFlush f s) :=
  .next (h.runFrond (fun _ _ h1 => h1.bpOnly))

theorem Kept.execBpBar {f : Fin 128} (h : Kept s₀ s) : KeptOut s₀ (execBpBar f s) := .next (h.runFrond (fun _ _ h1 => h1.bpOnly))

theorem Kept.execBpUnbar {f : Fin 128} (h : Kept s₀ s) : KeptOut s₀ (execBpUnbar f s) :=
  .next (h.runFrond (fun _ _ h1 => h1.bpOnly))

theorem Kept.execSpclr {f : Fin 128} (h : Kept s₀ s) : KeptOut s₀ (execSpclr f s) :=
  .next (h.runFrond (fun _ _ h1 => h1.kOnly (fun _ _ h2 => h2)))

theorem Kept.strIssueOp {a b : BitVec 5} {a1 : Frond} (h : Kept s₀ s) : (strIssueOp a b s a1).Keeps s₀ :=
  .ite h (.ite trivial (.ite h (.ite h (.ite h h.upd))))

theorem Kept.execStrIssue {f : Fin 128} {a b : BitVec 5} (h : Kept s₀ s) : KeptOut s₀ (execStrIssue f a b s) :=
  .next (h.runFrond (fun _ _ h1 => h1.strIssueOp))

theorem Kept.strWaitOp {b : BitVec 5} {a : Frond} (h : Kept s₀ s) : (strWaitOp b s a).Keeps s₀ := .ite h (.ite trivial (.ite h h))

theorem Kept.execStrWait {f : Fin 128} {b : BitVec 5} (h : Kept s₀ s) : KeptOut s₀ (execStrWait f b s) :=
  .next (h.runFrond (fun _ _ h1 => h1.strWaitOp))

theorem Kept.execStrPoll {f : Fin 128} {d b : BitVec 5} (h : Kept s₀ s) : KeptOut s₀ (execStrPoll f d b s) :=
  .next (h.runFrond (fun _ _ h1 => .ite h1 h1))

theorem Kept.execStrCancel {f : Fin 128} (h : Kept s₀ s) : KeptOut s₀ (execStrCancel f s) :=
  .next (h.runFrond (fun _ _ h1 => h1.kOnly (fun _ _ h2 => h2.setFrond.cancelTags)))

theorem Kept.execHo {f : Fin 128} {d a b : BitVec 5} {fn : BitVec 11} (h : Kept s₀ s) : KeptOut s₀ (execHo f d a b fn s) := by
  unfold Machine.execHo
  refine .next ?_
  refine .runFrond h ?_
  intro _ _ h1
  split
  · exact h1
  · exact .ite h1 (.ite trivial h1.freshWord)

theorem Kept.execFrondStop {f : Fin 128} (h : Kept s₀ s) : KeptOut s₀ (execFrondStop f s) :=
  .ite (.next h) (.next h.setFrond.takeAsync)

theorem Kept.execBudget {f : Fin 128} (h : Kept s₀ s) : KeptOut s₀ (execBudget f s) := .ite (.next h) (.next h.setFrond.takeAsync)

theorem Kept.execDoubleFaultRecovery {f : Fin 128} (h : Kept s₀ s) : KeptOut s₀ (execDoubleFaultRecovery f s) :=
  .ite (.next h.setFrond) (.next h)

theorem Kept.execStreamRequestDone {f : Fin 128} {tag : Nat} {data : Option (List Byte)} (h : Kept s₀ s) :
    KeptOut s₀ (execStreamRequestDone f tag data s) := .ite (.next h.endRequest) (.next h)

/-! ## FrondVector -/

theorem Kept.vopRun {x : Bool} {fn : Nat} {o : VOps} {a : Frond} (h : Kept s₀ s) : (vopRun x fn o s a).Keeps s₀ := h.vecOp

theorem Kept.execVadd {f : Fin 128} {o : VOps} (h : Kept s₀ s) : KeptOut s₀ (execVadd f o s) :=
  .next (h.runFrond (fun _ _ h1 => h1.vopRun))

theorem Kept.execVsub {f : Fin 128} {o : VOps} (h : Kept s₀ s) : KeptOut s₀ (execVsub f o s) :=
  .next (h.runFrond (fun _ _ h1 => h1.vopRun))

theorem Kept.execVmul {f : Fin 128} {o : VOps} (h : Kept s₀ s) : KeptOut s₀ (execVmul f o s) :=
  .next (h.runFrond (fun _ _ h1 => h1.vopRun))

theorem Kept.execVmulhu {f : Fin 128} {o : VOps} (h : Kept s₀ s) : KeptOut s₀ (execVmulhu f o s) :=
  .next (h.runFrond (fun _ _ h1 => h1.vopRun))

theorem Kept.execVmin {f : Fin 128} {o : VOps} (h : Kept s₀ s) : KeptOut s₀ (execVmin f o s) :=
  .next (h.runFrond (fun _ _ h1 => h1.vopRun))

theorem Kept.execVmax {f : Fin 128} {o : VOps} (h : Kept s₀ s) : KeptOut s₀ (execVmax f o s) :=
  .next (h.runFrond (fun _ _ h1 => h1.vopRun))

theorem Kept.execVminu {f : Fin 128} {o : VOps} (h : Kept s₀ s) : KeptOut s₀ (execVminu f o s) :=
  .next (h.runFrond (fun _ _ h1 => h1.vopRun))

theorem Kept.execVmaxu {f : Fin 128} {o : VOps} (h : Kept s₀ s) : KeptOut s₀ (execVmaxu f o s) :=
  .next (h.runFrond (fun _ _ h1 => h1.vopRun))

theorem Kept.execVand {f : Fin 128} {o : VOps} (h : Kept s₀ s) : KeptOut s₀ (execVand f o s) :=
  .next (h.runFrond (fun _ _ h1 => h1.vopRun))

theorem Kept.execVor {f : Fin 128} {o : VOps} (h : Kept s₀ s) : KeptOut s₀ (execVor f o s) :=
  .next (h.runFrond (fun _ _ h1 => h1.vopRun))

theorem Kept.execVxor {f : Fin 128} {o : VOps} (h : Kept s₀ s) : KeptOut s₀ (execVxor f o s) :=
  .next (h.runFrond (fun _ _ h1 => h1.vopRun))

theorem Kept.execVandn {f : Fin 128} {o : VOps} (h : Kept s₀ s) : KeptOut s₀ (execVandn f o s) :=
  .next (h.runFrond (fun _ _ h1 => h1.vopRun))

theorem Kept.execVsll {f : Fin 128} {o : VOps} (h : Kept s₀ s) : KeptOut s₀ (execVsll f o s) :=
  .next (h.runFrond (fun _ _ h1 => h1.vopRun))

theorem Kept.execVsrl {f : Fin 128} {o : VOps} (h : Kept s₀ s) : KeptOut s₀ (execVsrl f o s) :=
  .next (h.runFrond (fun _ _ h1 => h1.vopRun))

theorem Kept.execVsra {f : Fin 128} {o : VOps} (h : Kept s₀ s) : KeptOut s₀ (execVsra f o s) :=
  .next (h.runFrond (fun _ _ h1 => h1.vopRun))

theorem Kept.execVpick {f : Fin 128} {o : VOps} (h : Kept s₀ s) : KeptOut s₀ (execVpick f o s) :=
  .next (h.runFrond (fun _ _ h1 => h1.vopRun))

theorem Kept.execVopx {f : Fin 128} {o : VOps} {fn : BitVec 4} (h : Kept s₀ s) : KeptOut s₀ (execVopx f o fn s) :=
  .next (h.runFrond (fun _ _ h1 => h1.vopRun))

theorem Kept.vcmpRun {x : Bool} {fn : Nat} {o : VOps} {a : Frond} (h : Kept s₀ s) : (vcmpRun x fn o s a).Keeps s₀ :=
  .ite h h.vecOp

theorem Kept.execVeq {f : Fin 128} {o : VOps} (h : Kept s₀ s) : KeptOut s₀ (execVeq f o s) :=
  .next (h.runFrond (fun _ _ h1 => h1.vcmpRun))

theorem Kept.execVne {f : Fin 128} {o : VOps} (h : Kept s₀ s) : KeptOut s₀ (execVne f o s) :=
  .next (h.runFrond (fun _ _ h1 => h1.vcmpRun))

theorem Kept.execVlt {f : Fin 128} {o : VOps} (h : Kept s₀ s) : KeptOut s₀ (execVlt f o s) :=
  .next (h.runFrond (fun _ _ h1 => h1.vcmpRun))

theorem Kept.execVge {f : Fin 128} {o : VOps} (h : Kept s₀ s) : KeptOut s₀ (execVge f o s) :=
  .next (h.runFrond (fun _ _ h1 => h1.vcmpRun))

theorem Kept.execVltu {f : Fin 128} {o : VOps} (h : Kept s₀ s) : KeptOut s₀ (execVltu f o s) :=
  .next (h.runFrond (fun _ _ h1 => h1.vcmpRun))

theorem Kept.execVgeu {f : Fin 128} {o : VOps} (h : Kept s₀ s) : KeptOut s₀ (execVgeu f o s) :=
  .next (h.runFrond (fun _ _ h1 => h1.vcmpRun))

theorem Kept.execVovadd {f : Fin 128} {o : VOps} (h : Kept s₀ s) : KeptOut s₀ (execVovadd f o s) :=
  .next (h.runFrond (fun _ _ h1 => h1.vcmpRun))

theorem Kept.execVovsub {f : Fin 128} {o : VOps} (h : Kept s₀ s) : KeptOut s₀ (execVovsub f o s) :=
  .next (h.runFrond (fun _ _ h1 => h1.vcmpRun))

theorem Kept.execVovmul {f : Fin 128} {o : VOps} (h : Kept s₀ s) : KeptOut s₀ (execVovmul f o s) :=
  .next (h.runFrond (fun _ _ h1 => h1.vcmpRun))

theorem Kept.execVovaddu {f : Fin 128} {o : VOps} (h : Kept s₀ s) : KeptOut s₀ (execVovaddu f o s) :=
  .next (h.runFrond (fun _ _ h1 => h1.vcmpRun))

theorem Kept.execVovsubu {f : Fin 128} {o : VOps} (h : Kept s₀ s) : KeptOut s₀ (execVovsubu f o s) :=
  .next (h.runFrond (fun _ _ h1 => h1.vcmpRun))

theorem Kept.execVovmulu {f : Fin 128} {o : VOps} (h : Kept s₀ s) : KeptOut s₀ (execVovmulu f o s) :=
  .next (h.runFrond (fun _ _ h1 => h1.vcmpRun))

theorem Kept.execVcmpx {f : Fin 128} {o : VOps} {fn : BitVec 4} (h : Kept s₀ s) : KeptOut s₀ (execVcmpx f o fn s) :=
  .next (h.runFrond (fun _ _ h1 => h1.vcmpRun))

theorem Kept.vfpRun {fn wa : Nat} {b : FldUse} {ws : List (BitVec 3)} {o : VOps} {a : Frond} (h : Kept s₀ s) :
    (vfpRun fn wa b ws o s a).Keeps s₀ := h.vecOp

theorem Kept.vfpCmp {fn : Nat} {o : VOps} {a : Frond} (h : Kept s₀ s) : (vfpCmp fn o s a).Keeps s₀ := h.vecOp

theorem Kept.execVfadd {f : Fin 128} {o : VOps} (h : Kept s₀ s) : KeptOut s₀ (execVfadd f o s) :=
  .next (h.runFrond (fun _ _ h1 => h1.vfpRun))

theorem Kept.execVfsub {f : Fin 128} {o : VOps} (h : Kept s₀ s) : KeptOut s₀ (execVfsub f o s) :=
  .next (h.runFrond (fun _ _ h1 => h1.vfpRun))

theorem Kept.execVfmul {f : Fin 128} {o : VOps} (h : Kept s₀ s) : KeptOut s₀ (execVfmul f o s) :=
  .next (h.runFrond (fun _ _ h1 => h1.vfpRun))

theorem Kept.execVfdiv {f : Fin 128} {o : VOps} (h : Kept s₀ s) : KeptOut s₀ (execVfdiv f o s) :=
  .next (h.runFrond (fun _ _ h1 => h1.vfpRun))

theorem Kept.execVfsqrt {f : Fin 128} {o : VOps} (h : Kept s₀ s) : KeptOut s₀ (execVfsqrt f o s) :=
  .next (h.runFrond (fun _ _ h1 => h1.vfpRun))

theorem Kept.execVfmin {f : Fin 128} {o : VOps} (h : Kept s₀ s) : KeptOut s₀ (execVfmin f o s) :=
  .next (h.runFrond (fun _ _ h1 => h1.vfpRun))

theorem Kept.execVfmax {f : Fin 128} {o : VOps} (h : Kept s₀ s) : KeptOut s₀ (execVfmax f o s) :=
  .next (h.runFrond (fun _ _ h1 => h1.vfpRun))

theorem Kept.execVfmacc {f : Fin 128} {o : VOps} (h : Kept s₀ s) : KeptOut s₀ (execVfmacc f o s) :=
  .next (h.runFrond (fun _ _ h1 => h1.vfpRun))

theorem Kept.execVfcvti {f : Fin 128} {o : VOps} (h : Kept s₀ s) : KeptOut s₀ (execVfcvti f o s) :=
  .next (h.runFrond (fun _ _ h1 => h1.vfpRun))

theorem Kept.execVicvtf {f : Fin 128} {o : VOps} (h : Kept s₀ s) : KeptOut s₀ (execVicvtf f o s) :=
  .next (h.runFrond (fun _ _ h1 => h1.vfpRun))

theorem Kept.execVfwid {f : Fin 128} {o : VOps} (h : Kept s₀ s) : KeptOut s₀ (execVfwid f o s) :=
  .next (h.runFrond (fun _ _ h1 => h1.vfpRun))

theorem Kept.execVfeq {f : Fin 128} {o : VOps} (h : Kept s₀ s) : KeptOut s₀ (execVfeq f o s) :=
  .next (h.runFrond (fun _ _ h1 => h1.vfpCmp))

theorem Kept.execVflt {f : Fin 128} {o : VOps} (h : Kept s₀ s) : KeptOut s₀ (execVflt f o s) :=
  .next (h.runFrond (fun _ _ h1 => h1.vfpCmp))

theorem Kept.execVfle {f : Fin 128} {o : VOps} (h : Kept s₀ s) : KeptOut s₀ (execVfle f o s) :=
  .next (h.runFrond (fun _ _ h1 => h1.vfpCmp))

theorem Kept.execVfteq {f : Fin 128} {o : VOps} (h : Kept s₀ s) : KeptOut s₀ (execVfteq f o s) :=
  .next (h.runFrond (fun _ _ h1 => h1.vfpCmp))

theorem Kept.execVftlt {f : Fin 128} {o : VOps} (h : Kept s₀ s) : KeptOut s₀ (execVftlt f o s) :=
  .next (h.runFrond (fun _ _ h1 => h1.vfpCmp))

theorem Kept.mkRun {d a b : FldUse} {o : VOps} {g : Frond → Frond} {a1 : Frond} (h : Kept s₀ s) :
    (mkRun d a b o g s a1).Keeps s₀ := h.vecOp

theorem Kept.mkBin {b : FldUse} {o : VOps} {g : BitVec 512 → BitVec 512 → BitVec 512} {a : Frond} (h : Kept s₀ s) :
    (mkBin b o g s a).Keeps s₀ := h.mkRun

theorem Kept.execMkand {f : Fin 128} {o : VOps} (h : Kept s₀ s) : KeptOut s₀ (execMkand f o s) :=
  .next (h.runFrond (fun _ _ h1 => h1.mkBin))

theorem Kept.execMkor {f : Fin 128} {o : VOps} (h : Kept s₀ s) : KeptOut s₀ (execMkor f o s) :=
  .next (h.runFrond (fun _ _ h1 => h1.mkBin))

theorem Kept.execMkxor {f : Fin 128} {o : VOps} (h : Kept s₀ s) : KeptOut s₀ (execMkxor f o s) :=
  .next (h.runFrond (fun _ _ h1 => h1.mkBin))

theorem Kept.execMkandn {f : Fin 128} {o : VOps} (h : Kept s₀ s) : KeptOut s₀ (execMkandn f o s) :=
  .next (h.runFrond (fun _ _ h1 => h1.mkBin))

theorem Kept.execMknot {f : Fin 128} {o : VOps} (h : Kept s₀ s) : KeptOut s₀ (execMknot f o s) :=
  .next (h.runFrond (fun _ _ h1 => h1.mkBin))

theorem Kept.execMkcopy {f : Fin 128} {o : VOps} (h : Kept s₀ s) : KeptOut s₀ (execMkcopy f o s) :=
  .next (h.runFrond (fun _ _ h1 => h1.mkBin))

theorem Kept.execMkcount {f : Fin 128} {o : VOps} (h : Kept s₀ s) : KeptOut s₀ (execMkcount f o s) :=
  .next (h.runFrond (fun _ _ h1 => h1.mkRun))

theorem Kept.execMkfirst {f : Fin 128} {o : VOps} (h : Kept s₀ s) : KeptOut s₀ (execMkfirst f o s) :=
  .next (h.runFrond (fun _ _ h1 => h1.mkRun))

theorem Kept.execMkfill {f : Fin 128} {o : VOps} (h : Kept s₀ s) : KeptOut s₀ (execMkfill f o s) :=
  .next (h.runFrond (fun _ _ h1 => h1.mkRun))

theorem Kept.execMkzero {f : Fin 128} {o : VOps} (h : Kept s₀ s) : KeptOut s₀ (execMkzero f o s) :=
  .next (h.runFrond (fun _ _ h1 => h1.mkRun))

theorem Kept.execMtov {f : Fin 128} {o : VOps} (h : Kept s₀ s) : KeptOut s₀ (execMtov f o s) :=
  .next (h.runFrond (fun _ _ h1 => h1.mkRun))

theorem Kept.execVtom {f : Fin 128} {o : VOps} (h : Kept s₀ s) : KeptOut s₀ (execVtom f o s) :=
  .next (h.runFrond (fun _ _ h1 => h1.mkRun))

theorem Kept.vmoveRun {a b : FldUse} {ws : List (BitVec 3)} {o : VOps} {lim : Nat} {g : Frond → Nat → Nat} {a1 : Frond}
    (h : Kept s₀ s) :
    (vmoveRun a b ws o lim g s a1).Keeps s₀ := h.vecOp

theorem Kept.vscalRun {d a : FldUse} {o : VOps} {g : Frond → Frond} {a1 : Frond} (h : Kept s₀ s) :
    (vscalRun d a o g s a1).Keeps s₀ := h.vecOp

theorem Kept.execVcopy {f : Fin 128} {o : VOps} (h : Kept s₀ s) : KeptOut s₀ (execVcopy f o s) :=
  .next (h.runFrond (fun _ _ h1 => h1.vmoveRun))

theorem Kept.execVbcast {f : Fin 128} {o : VOps} (h : Kept s₀ s) : KeptOut s₀ (execVbcast f o s) :=
  .next (h.runFrond (fun _ _ h1 => h1.vmoveRun))

theorem Kept.execVext {f : Fin 128} {o : VOps} (h : Kept s₀ s) : KeptOut s₀ (execVext f o s) :=
  .next (h.runFrond (fun _ _ h1 => h1.vscalRun))

theorem Kept.execVins {f : Fin 128} {o : VOps} (h : Kept s₀ s) : KeptOut s₀ (execVins f o s) :=
  .next (h.runFrond (fun _ _ h1 => h1.vscalRun))

theorem Kept.execVseq {f : Fin 128} {o : VOps} (h : Kept s₀ s) : KeptOut s₀ (execVseq f o s) :=
  .next (h.runFrond (fun _ _ h1 => h1.vmoveRun))

theorem Kept.execVsqueeze {f : Fin 128} {o : VOps} (h : Kept s₀ s) : KeptOut s₀ (execVsqueeze f o s) :=
  .next (h.runFrond (fun _ _ h1 => h1.vecOp))

theorem Kept.execVwid {f : Fin 128} {o : VOps} (h : Kept s₀ s) : KeptOut s₀ (execVwid f o s) :=
  .next (h.runFrond (fun _ _ h1 => h1.vmoveRun))

theorem Kept.execVwidu {f : Fin 128} {o : VOps} (h : Kept s₀ s) : KeptOut s₀ (execVwidu f o s) :=
  .next (h.runFrond (fun _ _ h1 => h1.vmoveRun))

theorem Kept.execVnar {f : Fin 128} {o : VOps} (h : Kept s₀ s) : KeptOut s₀ (execVnar f o s) :=
  .next (h.runFrond (fun _ _ h1 => h1.vmoveRun))

theorem Kept.vredRun {ws : List (BitVec 3)} {o : VOps} {g : Nat → List Nat → W64} {a : Frond} (h : Kept s₀ s) :
    (vredRun ws o g s a).Keeps s₀ := h.vecOp

theorem Kept.vfredRun {o : VOps} {g : Frond → Nat × FFlags} {a : Frond} (h : Kept s₀ s) : (vfredRun o g s a).Keeps s₀ := h.vecOp

theorem Kept.execVsumr {f : Fin 128} {o : VOps} (h : Kept s₀ s) : KeptOut s₀ (execVsumr f o s) :=
  .next (h.runFrond (fun _ _ h1 => h1.vredRun))

theorem Kept.execVsumur {f : Fin 128} {o : VOps} (h : Kept s₀ s) : KeptOut s₀ (execVsumur f o s) :=
  .next (h.runFrond (fun _ _ h1 => h1.vredRun))

theorem Kept.execVminr {f : Fin 128} {o : VOps} (h : Kept s₀ s) : KeptOut s₀ (execVminr f o s) :=
  .next (h.runFrond (fun _ _ h1 => h1.vredRun))

theorem Kept.execVmaxr {f : Fin 128} {o : VOps} (h : Kept s₀ s) : KeptOut s₀ (execVmaxr f o s) :=
  .next (h.runFrond (fun _ _ h1 => h1.vredRun))

theorem Kept.execVminur {f : Fin 128} {o : VOps} (h : Kept s₀ s) : KeptOut s₀ (execVminur f o s) :=
  .next (h.runFrond (fun _ _ h1 => h1.vredRun))

theorem Kept.execVmaxur {f : Fin 128} {o : VOps} (h : Kept s₀ s) : KeptOut s₀ (execVmaxur f o s) :=
  .next (h.runFrond (fun _ _ h1 => h1.vredRun))

theorem Kept.execVandr {f : Fin 128} {o : VOps} (h : Kept s₀ s) : KeptOut s₀ (execVandr f o s) :=
  .next (h.runFrond (fun _ _ h1 => h1.vredRun))

theorem Kept.execVorr {f : Fin 128} {o : VOps} (h : Kept s₀ s) : KeptOut s₀ (execVorr f o s) :=
  .next (h.runFrond (fun _ _ h1 => h1.vredRun))

theorem Kept.execVxorr {f : Fin 128} {o : VOps} (h : Kept s₀ s) : KeptOut s₀ (execVxorr f o s) :=
  .next (h.runFrond (fun _ _ h1 => h1.vredRun))

theorem Kept.execVbitcnt {f : Fin 128} {o : VOps} (h : Kept s₀ s) : KeptOut s₀ (execVbitcnt f o s) :=
  .next (h.runFrond (fun _ _ h1 => h1.vredRun))

theorem Kept.execVfsumr {f : Fin 128} {o : VOps} (h : Kept s₀ s) : KeptOut s₀ (execVfsumr f o s) :=
  .next (h.runFrond (fun _ _ h1 => h1.vfredRun))

theorem Kept.execVfminr {f : Fin 128} {o : VOps} (h : Kept s₀ s) : KeptOut s₀ (execVfminr f o s) :=
  .next (h.runFrond (fun _ _ h1 => h1.vfredRun))

theorem Kept.execVfmaxr {f : Fin 128} {o : VOps} (h : Kept s₀ s) : KeptOut s₀ (execVfmaxr f o s) :=
  .next (h.runFrond (fun _ _ h1 => h1.vfredRun))

theorem Kept.vhashRun {o : VOps} {g : Frond → Nat → W64 → W64} {a : Frond} (h : Kept s₀ s) : (vhashRun o g s a).Keeps s₀ :=
  h.vecOp

theorem Kept.execVhash {f : Fin 128} {o : VOps} (h : Kept s₀ s) : KeptOut s₀ (execVhash f o s) :=
  .next (h.runFrond (fun _ _ h1 => h1.vhashRun))

theorem Kept.execVhashx {f : Fin 128} {o : VOps} (h : Kept s₀ s) : KeptOut s₀ (execVhashx f o s) :=
  .next (h.runFrond (fun _ _ h1 => h1.vhashRun))

theorem Kept.execVhfin {f : Fin 128} {o : VOps} (h : Kept s₀ s) : KeptOut s₀ (execVhfin f o s) :=
  .next (h.runFrond (fun _ _ h1 => h1.vhashRun))

theorem Kept.execVstrip {f : Fin 128} {o : VOps} (h : Kept s₀ s) : KeptOut s₀ (execVstrip f o s) :=
  .next (h.runFrond (fun _ _ h1 => h1.vecOp))

/-! ## FrondMem -/

theorem Kept.endVec {fr : Frond} {bad : Option (Nat × Nat × Nat)} (h : Kept s₀ s) : (endVec s fr bad).Keeps s₀ := by
  unfold Machine.endVec
  split
  · exact h
  · exact h

theorem Kept.vmemOp {v : VForm} {o : VOps} {g : State → Frond → FOut} {a : Frond} (h : Kept s₀ s)
    (hf : ∀ t a, Kept s₀ t → (g t a).Keeps s₀) :
    (vmemOp v o g s a).Keeps s₀ := .ite (hf _ _ h) h

theorem Kept.vloadOp {strided : Bool} {o : VOps} {a : Frond} (h : Kept s₀ s) : (vloadOp strided o s a).Keeps s₀ :=
  h.vmemOp fun _ _ h1 => h1.endVec

theorem Kept.vstoreOp {strided : Bool} {o : VOps} {a : Frond} (h : Kept s₀ s) : (vstoreOp strided o s a).Keeps s₀ :=
  h.vmemOp fun _ _ h1 => h1.endVec

theorem Kept.execVld {f : Fin 128} {o : VOps} (h : Kept s₀ s) : KeptOut s₀ (execVld f o s) :=
  .next (h.runFrond (fun _ _ h1 => h1.vloadOp))

theorem Kept.execVst {f : Fin 128} {o : VOps} (h : Kept s₀ s) : KeptOut s₀ (execVst f o s) :=
  .next (h.runFrond (fun _ _ h1 => h1.vstoreOp))

theorem Kept.execVlds {f : Fin 128} {o : VOps} (h : Kept s₀ s) : KeptOut s₀ (execVlds f o s) :=
  .next (h.runFrond (fun _ _ h1 => h1.vloadOp))

theorem Kept.execVsts {f : Fin 128} {o : VOps} (h : Kept s₀ s) : KeptOut s₀ (execVsts f o s) :=
  .next (h.runFrond (fun _ _ h1 => h1.vstoreOp))

theorem Kept.vunpkOp {o : VOps} {a : Frond} (h : Kept s₀ s) : (vunpkOp o s a).Keeps s₀ := h.vmemOp fun _ _ h1 => h1.endVec

theorem Kept.vpcmpOp {o : VOps} {a : Frond} (h : Kept s₀ s) : (vpcmpOp o s a).Keeps s₀ := h.vmemOp fun _ _ h1 => h1.endVec

theorem Kept.vpselOp {o : VOps} {a : Frond} (h : Kept s₀ s) : (vpselOp o s a).Keeps s₀ := h.vmemOp fun _ _ h1 => h1.endVec

theorem Kept.vdictOp {o : VOps} {a : Frond} (h : Kept s₀ s) : (vdictOp o s a).Keeps s₀ := h.vmemOp fun _ _ h1 => h1.endVec

theorem Kept.execVunpk {f : Fin 128} {o : VOps} (h : Kept s₀ s) : KeptOut s₀ (execVunpk f o s) :=
  .next (h.runFrond (fun _ _ h1 => h1.vunpkOp))

theorem Kept.execVpcmp {f : Fin 128} {o : VOps} (h : Kept s₀ s) : KeptOut s₀ (execVpcmp f o s) :=
  .next (h.runFrond (fun _ _ h1 => h1.vpcmpOp))

theorem Kept.execVpsel {f : Fin 128} {o : VOps} (h : Kept s₀ s) : KeptOut s₀ (execVpsel f o s) :=
  .next (h.runFrond (fun _ _ h1 => h1.vpselOp))

theorem Kept.execVdict {f : Fin 128} {o : VOps} (h : Kept s₀ s) : KeptOut s₀ (execVdict f o s) :=
  .next (h.runFrond (fun _ _ h1 => h1.vdictOp))

theorem Kept.vrleOp {o : VOps} {a : Frond} (h : Kept s₀ s) : (vrleOp o s a).Keeps s₀ := h.vmemOp fun _ _ h1 => h1.endVec

theorem Kept.vrlecOp {o : VOps} {a : Frond} (h : Kept s₀ s) : (vrlecOp o s a).Keeps s₀ := by
  unfold Machine.vrlecOp
  refine Kept.vmemOp h ?_
  intro _ _ h1
  dsimp only
  split
  · exact h1.endVec
  · exact h1.endVec

theorem Kept.execVrle {f : Fin 128} {o : VOps} (h : Kept s₀ s) : KeptOut s₀ (execVrle f o s) :=
  .next (h.runFrond (fun _ _ h1 => h1.vrleOp))

theorem Kept.execVrlec {f : Fin 128} {o : VOps} (h : Kept s₀ s) : KeptOut s₀ (execVrlec f o s) :=
  .next (h.runFrond (fun _ _ h1 => h1.vrlecOp))

theorem Kept.vpartOp {o : VOps} {a : Frond} (h : Kept s₀ s) : (vpartOp o s a).Keeps s₀ := by
  unfold Machine.vpartOp
  refine Kept.vmemOp h ?_
  intro _ _ h1
  refine .ite h1 ?_
  dsimp only
  split
  · exact h1.endVec
  · exact h1.endVec
  · exact h1.endVec

theorem Kept.execVpart {f : Fin 128} {o : VOps} (h : Kept s₀ s) : KeptOut s₀ (execVpart f o s) :=
  .next (h.runFrond (fun _ _ h1 => h1.vpartOp))

theorem Kept.devXlate {i : Nat} {wr : Bool} {a : Nat} (h : Kept s₀ s) : Kept s₀ (devXlate i wr a s).2 := by
  unfold Machine.devXlate
  split
  · dsimp only
    exact h
  · dsimp only
    exact h.colourFault
  · dsimp only
    exact h

theorem Kept.xlateAll {i : Nat} {wr : Bool} {addr : Nat → Nat} {a : List Nat} (h : Kept s₀ s) :
    Kept s₀ (xlateAll i wr addr a s).2.2 := by
  induction a generalizing i wr s with
  | nil =>
    unfold Machine.xlateAll
    dsimp only
    exact h
  | cons b l ih =>
    unfold Machine.xlateAll
    dsimp only
    split
    · rename_i he
      dsimp only
      exact .of_snd h.devXlate he
    · rename_i he
      exact ih (.of_snd h.devXlate he)

theorem Kept.gatherLines {i n : Nat} {addr : Nat → Nat} {a : List (Nat × Nat)} {a1 : List (Nat × MemResp)} {a2 : Nat}
    {a3 : Option (Nat × Nat × Nat)} (h : Kept s₀ s) :
    Kept s₀ (gatherLines i n addr a a1 a2 a3 s).2.2 := by
  induction a generalizing i n a1 a2 a3 s with
  | nil =>
    unfold Machine.gatherLines
    dsimp only
    exact h
  | cons b l ih =>
    unfold Machine.gatherLines
    dsimp only
    split
    · dsimp only
      exact h
    · split
      · split
        · exact ih h
        · exact ih h.readLine
      · split
        · exact ih h
        · exact ih h.readLine
      · split
        · exact ih h
        · exact ih h.readLine
      · split
        · exact ih h
        · exact ih h.readLine

theorem Kept.vgathOp {o : VOps} {scale : BitVec 2} {dev : Bool} {a : Frond} (h : Kept s₀ s) :
    (vgathOp o scale dev s a).Keeps s₀ :=
  h.vmemOp (fun _ _ h1 => .ite (.ite trivial h1.xlateAll.freshNat.gatherLines.endVec) h1.endVec)

theorem Kept.scatterLines {i n wb : Nat} {v : BitVec 4096} {addr : Nat → Nat} {a : List (Nat × Nat)}
    {a1 : Option (Nat × Nat × Nat)} (h : Kept s₀ s) :
    Kept s₀ (scatterLines i n wb v addr a a1 s).2 := by
  induction a generalizing i n wb v a1 s with
  | nil =>
    unfold Machine.scatterLines
    dsimp only
    exact h
  | cons b l ih =>
    unfold Machine.scatterLines
    dsimp only
    split
    · split
      · rename_i he
        exact ih (.of_snd h.writePhys he)
      · rename_i he1
        exact ih (.of_snd h.writePhys he1)
    · exact ih (.ite h.freshNat.writePhys h.freshNat)

theorem Kept.vscatOp {o : VOps} {scale : BitVec 2} {dev : Bool} {a : Frond} (h : Kept s₀ s) :
    (vscatOp o scale dev s a).Keeps s₀ := h.vmemOp (fun _ _ h1 => .ite (.ite trivial h1.xlateAll.scatterLines.endVec) h1.endVec)

theorem Kept.execVgath {f : Fin 128} {o : VOps} {scale : BitVec 2} {dev : Bool} (h : Kept s₀ s) :
    KeptOut s₀ (execVgath f o scale dev s) := .next (h.runFrond (fun _ _ h1 => h1.vgathOp))

theorem Kept.execVscat {f : Fin 128} {o : VOps} {scale : BitVec 2} {dev : Bool} (h : Kept s₀ s) :
    KeptOut s₀ (execVscat f o scale dev s) := .next (h.runFrond (fun _ _ h1 => h1.vscatOp))

end

end Sys2Proof.Machine
end

section
/-!
PROOFS. What every command keeps, continued: links, mailboxes, match units, memory channels, telemetry and readiness. Each lemma follows the branches of its function.
-/

namespace Sys2Proof.Machine

section
-- Each of these short lemmas would else wait in a thread of its own for the long proofs before it.
set_option Elab.async false
variable {s₀ s t : State}

/-! ## LinkOps -/

theorem Kept.pumpGo {l : Nat} {fs : List Flit} {blocked : List Nat} (h : Kept s₀ s) : Kept s₀ (pumpGo l fs blocked s) := by
  induction fs generalizing blocked s with
  | nil => exact h
  | cons b fs ih =>
    unfold Machine.pumpGo
    dsimp only
    split
    · exact h
    next hw =>
      split
      · exact ih h
      · refine ih (.upd (h.setLink fun _ => ?_))
        rw [List.length_append]
        exact Nat.succ_le_of_lt (Nat.lt_of_not_le fun hl => hw (.inr hl))

theorem Kept.pump {l : Nat} (h : Kept s₀ s) : Kept s₀ (pump l s) := h.pumpGo

theorem Kept.linkBytes {vc : Nat} {own : Option (Nat × Nat)} {f : RFrame} {b : List Byte} (h : Kept s₀ s) :
    Kept s₀ (linkBytes vc own f b s) := .ite h h.setLink.upd.pump

theorem Kept.linkFrame {level : Nat} {f : RFrame} (h : Kept s₀ s) : Kept s₀ (linkFrame level f s) := h.linkBytes

theorem Kept.sendFrame {ft hops : Nat} {route : W32} {inst : Nat} {xid : W64} {level : Nat} {payload : List Byte} (h : Kept s₀ s)
    :
    Kept s₀ (sendFrame ft hops route inst xid level payload s) := .linkFrame (.ite h.upd h.upd.upd)

/-! ## MbxOps -/

theorem Kept.respond {fn err detail off : Nat} {payload : List Byte} (h : Kept s₀ s) :
    Kept s₀ (respond fn err detail off payload s) := .ite h.setMbx.hostSend h.setMbx

theorem Kept.endMbx {fn err detail off : Nat} {payload : List Byte} (h : Kept s₀ s) :
    Kept s₀ (endMbx fn err detail off payload s) := h.gateOut fun _ h1 => h1.respond

theorem Kept.openGate (h : Kept s₀ s) : Kept s₀ (openGate s) := by
  unfold Machine.openGate
  refine .foldl h.upd ?_
  intro _ _ h1
  split
  · exact h1.respond
  · exact h1.logEvent

theorem Kept.mbxErr {fn err : Nat} (h : Kept s₀ s) : Kept s₀ (mbxErr fn err s) := h.endMbx

theorem Kept.mbxBad {fn off : Nat} (h : Kept s₀ s) : Kept s₀ (mbxBad fn off s) := h.endMbx

theorem Kept.mbxOk {fn : Nat} (h : Kept s₀ s) : Kept s₀ (mbxOk fn s) := h.endMbx

theorem Kept.modMbx {fn : Nat} {f : Mbx → Mbx} (h : Kept s₀ s) : Kept s₀ (s.modMbx fn f) := h.setMbx

theorem Kept.refuseUnknown {fn : Nat} (h : Kept s₀ s) : Kept s₀ (refuseUnknown fn s) :=
  .ite h (.ite h.mbxErr (.ite (.ite h.mbxErr (.ite h.mbxErr h.mbxBad)) h))

theorem Kept.mbxGo {fn port : Nat} {db : W32} (h : Kept s₀ s) : Kept s₀ (mbxGo fn port db s) :=
  .ite h.wake (.ite h.wake.logEvent (.ite (.ite h.wake.setMbx.hostSend h.wake.setMbx) h.wake.setMbx.refuseUnknown))

theorem Kept.onMbx {fn mop : Nat} {r : MbxRule} {f : Mbx → State → State} (h : Kept s₀ s)
    (hf : ∀ a t, Kept s₀ t → Kept s₀ (f a t)) :
    Kept s₀ (onMbx fn mop r f s) := by
  unfold Machine.onMbx
  refine .ite h ?_
  refine .ite h.mbxErr ?_
  refine .ite h.mbxErr ?_
  refine .ite h.mbxErr ?_
  refine .ite h.mbxBad ?_
  split
  · exact h.mbxBad
  · exact hf _ _ h

theorem Kept.mbxRead {fn : Nat} {m : Mbx} {reads : List (Nat × Nat)} {k : State → State} (h : Kept s₀ s)
    (hf : ∀ t, Kept s₀ t → Kept s₀ (k t)) :
    Kept s₀ (mbxRead fn m reads k s) := .ite (hf _ (h.forEach (fun _ _ h1 => h1.hostSend))) h

theorem Kept.allocMany {i : Nat} {mbx : Option Nat} {wr : Bool} {place : State → Nat} {a : Nat} (h : Kept s₀ s) :
    Kept s₀ (allocMany i mbx wr place a s).2.2 := by
  induction a generalizing i mbx wr s with
  | zero =>
    unfold Machine.allocMany
    dsimp only
    exact h
  | succ n ih =>
    unfold Machine.allocMany
    dsimp only
    split
    · rename_i he
      dsimp only
      exact .of_snd h.allocPage he
    · rename_i he1
      exact ih (.of_snd h.allocPage he1)

theorem Kept.dropPages {i : Nat} {ps : List Nat} (h : Kept s₀ s) : Kept s₀ (dropPages i ps s) :=
  h.dropWaits.forEach fun _ _ h1 => h1.unmapPage

theorem Kept.planToWorkers {i : Nat} {ps : List (List Byte)} (h : Kept s₀ s) : Kept s₀ (planToWorkers i ps s) :=
  h.forEach (fun _ _ h1 => h1.forEach (fun _ _ h2 => h2.sendFrame))

theorem Kept.distribute {key i id : Nat} {load : Bool} {ps : List (List Byte)} (h : Kept s₀ s) :
    Kept s₀ (distribute key i id load ps s) := .ite h h.upd.planToWorkers

theorem Kept.dropDist {key : Nat} (h : Kept s₀ s) : Kept s₀ (dropDist key s) := h.upd

theorem Kept.bindImages {i : Nat} {e : PlanEnt} {n : Nat} (h : Kept s₀ s) : Kept s₀ (bindImages i e n s) :=
  h.forBelow fun _ _ h1 => h1.setCmu

theorem Kept.planReady {i id : Nat} (h : Kept s₀ s) : Kept s₀ (planReady i id s) := by
  unfold Machine.planReady
  split
  · exact h
  · exact .reapPlans (.setInst (.bindImages (.unbindPlan (h.forEach (fun _ _ h1 => h1.devWriteN)))))

theorem Kept.dropLoading {i id : Nat} (h : Kept s₀ s) : Kept s₀ (dropLoading i id s) := by
  unfold Machine.dropLoading
  split
  · exact h
  · exact h.dropPages.setInst.dropImages

theorem Kept.endPlan {key i id err detail off : Nat} {payload : List Byte} (h : Kept s₀ s) :
    Kept s₀ (endPlan key i id err detail off payload s) := .ite h.endMbx h.sendFrame

theorem Kept.failPlan {key i id err detail off : Nat} (h : Kept s₀ s) : Kept s₀ (failPlan key i id err detail off s) :=
  h.dropDist.dropLoading.endPlan

theorem Kept.finishPlan {key i id : Nat} {load : Bool} (h : Kept s₀ s) : Kept s₀ (finishPlan key i id load s) := by
  unfold Machine.finishPlan
  refine .ite h ?_
  split
  · split
    · exact h.endPlan
    · refine .ite h ?_
      split
      · exact h.dropDist.endPlan
      · exact h.unbindPlan.reapPlans.planToWorkers.failPlan
  · split
    · exact h.endPlan
    · refine .ite h ?_
      split
      · exact h.dropDist.endPlan
      · exact h.failPlan

theorem Kept.endWithRec {fn : Nat} (h : Kept s₀ s) : Kept s₀ (endWithRec fn s) := h.endMbx

theorem Kept.unmapAll {i : Nat} (h : Kept s₀ s) : Kept s₀ (unmapAll i s) :=
  .dropLeafTables (h.dropWaits.forEach (fun _ _ h1 => h1.unmapPage))

theorem Kept.freeLists {i : Nat} (h : Kept s₀ s) : Kept s₀ (freeLists i s) := h.upd

theorem Kept.renewSets (h : Kept s₀ s) : Kept s₀ (renewSets s) := .ite h.upd h

theorem Kept.createDone {fn : Nat} (h : Kept s₀ s) : Kept s₀ (createDone fn s) := h.setInst.renewSets.fwEvent.endWithRec

theorem Kept.undoCreate {i : Nat} (h : Kept s₀ s) : Kept s₀ (undoCreate i s) := h.unmapAll.freeLists.setInst

theorem Kept.finishResize {fn i : Nat} (h : Kept s₀ s) : Kept s₀ (finishResize fn i s) := h.setInst.endWithRec

theorem Kept.undoGrow {i : Nat} (h : Kept s₀ s) : Kept s₀ (undoGrow i s) := by
  unfold Machine.undoGrow
  dsimp only
  split
  · exact h
  · exact h.dropPages.setInst

theorem Kept.mbxPagesDone {fn : Nat} (h : Kept s₀ s) : Kept s₀ (mbxPagesDone fn s) :=
  .ite h (.ite h (.ite h.createDone (.ite (.ite h h.finishResize) h.planReady.finishPlan)))

theorem Kept.runtimeEret {f : Nat} (h : Kept s₀ s) : Kept s₀ (runtimeEret f s) := h.setFrond

theorem Kept.allocDone {w : AllocWait} (h : Kept s₀ s) : Kept s₀ (allocDone w s) := by
  unfold Machine.allocDone
  split
  · split
    · exact h
    · exact .ite h.modCmd.runtimeEret h
  · exact h.mbxPagesDone
  · exact h

theorem Kept.allocFailed {w : AllocWait} (h : Kept s₀ s) : Kept s₀ (allocFailed w s) := by
  unfold Machine.allocFailed
  split
  · exact h.failItem
  · exact .ite h.undoCreate.mbxErr (.ite h.undoGrow.mbxErr (.failPlan (.ite h h.planToWorkers)))
  · exact h

theorem Kept.retryAlloc {w : AllocWait} (h : Kept s₀ s) : Kept s₀ (retryAlloc w s) := by
  unfold Machine.retryAlloc
  refine .ite h ?_
  refine .ite h.upd.allocFailed ?_
  split
  · exact .ite h.upd.giveFrame h.upd.giveFrame.allocDone
  · exact .ite h h.upd.allocFailed

theorem Kept.retryAllocs (h : Kept s₀ s) : Kept s₀ (retryAllocs s) := h.forEach fun _ _ h1 => h1.retryAlloc

/-! ## CmuOps -/

theorem Kept.modTable {u : Nat} {sel : BitVec 12} {f : CmuTable → CmuTable} (h : Kept s₀ s) : Kept s₀ (modTable u sel f s) :=
  h.setCmu

theorem Kept.countCmu {u i k n : Nat} (h : Kept s₀ s) : Kept s₀ (countCmu u i k n s) := .setCmu (.ite h h.upd)

theorem Kept.endRun {u : Nat} {r : UpdRun} (h : Kept s₀ s) : Kept s₀ (endRun u r s) := by
  unfold Machine.endRun
  split
  · exact .ite h.setCmu.modCmd h.setCmu.succeed
  · refine .ite h.setCmu.mbxErr ?_
    refine .endMbx ?_
    refine .ite ?_ h.setCmu
    split
    · exact h.setCmu.modTable
    · exact h.setCmu
  · exact h.setCmu

theorem Kept.takeSlots {u i n : Nat} (h : Kept s₀ s) : Kept s₀ (takeSlots u i n s) := h.setCmu

theorem Kept.takeLanes {u i n : Nat} (h : Kept s₀ s) : Kept s₀ (takeLanes u i n s) := .ite h h.setCmu

theorem Kept.arrangeRuns {u : Nat} (h : Kept s₀ s) : Kept s₀ (arrangeRuns u s) := by
  unfold Machine.arrangeRuns
  dsimp only
  split
  · exact h
  · split
    · exact h
    · exact h.setCmu

theorem Kept.setRun {u : Nat} {r : UpdRun} (h : Kept s₀ s) : Kept s₀ (setRun u r s) := h.setCmu

theorem Kept.nextRecord {u : Nat} {r : UpdRun} (h : Kept s₀ s) : Kept s₀ (nextRecord u r s) :=
  .arrangeRuns (.ite h.endRun h.setRun)

theorem Kept.startRun {u : Nat} {r : UpdRun} (h : Kept s₀ s) : Kept s₀ (startRun u r s) := by
  unfold Machine.startRun
  refine .ite ?_ h.setCmu
  split
  · exact h.endMbx
  · exact h

theorem Kept.fenceCmu {i u : Nat} (h : Kept s₀ s) : Kept s₀ (fenceCmu i u s) := by
  unfold Machine.fenceCmu
  refine .forEach h.setCmu ?_
  intro _ _ h1
  split
  · exact h1.mbxErr
  · exact h1

theorem Kept.holdMatch {slot : Nat} {d : List Byte} (h : Kept s₀ s) : Kept s₀ (holdMatch slot d s) := h.modCmd

theorem Kept.askHost {slot : Nat} {c : Cmd} {a n : Nat} (h : Kept s₀ s) : Kept s₀ (askHost slot c a n s) := by
  unfold Machine.askHost
  exact h.modCmd.hostSend

theorem Kept.throttleTo {u temp : Nat} (h : Kept s₀ s) : Kept s₀ (throttleTo u temp s) := .ite h.setCmu.logEvent h.setCmu

/-! ## DeviceMemory -/

theorem Kept.serveMem {r : MemReq} (h : Kept s₀ s) : Kept s₀ (serveMem r s).2 := by
  unfold Machine.serveMem
  split
  · exact h.readLine
  · exact h.writeMarked

theorem Kept.askMem {r : MemReq} (h : Kept s₀ s) : Kept s₀ (askMem r s) := .ite h.serveMem.upd h.upd

theorem Kept.resumeChan {c : Nat} (h : Kept s₀ s) : Kept s₀ (resumeChan c s) := h.upd.forEach fun _ _ h1 => h1.serveMem.upd

theorem Kept.execMemReadRequest {req : Option Nat} {addr e0 e1 : Nat} (h : Kept s₀ s) :
    KeptOut s₀ (execMemReadRequest req addr e0 e1 s) := .ite (.next h.askMem) (.next h)

theorem Kept.execMemWriteRequest {req : Option Nat} {addr : Nat} {data : MemWrite} (h : Kept s₀ s) :
    KeptOut s₀ (execMemWriteRequest req addr data s) := .ite (.next h.askMem) (.next h)

theorem Kept.settlePage {i p : Nat} (h : Kept s₀ s) : Kept s₀ (settlePage i p s) :=
  h.forBelow (fun _ _ h1 => h1.forBelow (fun _ _ h2 => .ite h2.endRequest h2))

theorem Kept.execLeafEntryChange {inst page : Nat} {ent : W32} (h : Kept s₀ s) :
    KeptOut s₀ (execLeafEntryChange inst page ent s) :=
  .ite (.next h.setLeaf.settlePage.releaseFrame) (.next h.setLeaf.settlePage)

theorem Kept.execReleaseScrubBurst (h : Kept s₀ s) : KeptOut s₀ (execReleaseScrubBurst s) :=
  .ite (.next h.settleLeaving) (.ite (.next h.settleLeaving.wake) (.next h.settleLeaving.requestGrant))

theorem Kept.nextScrub (h : Kept s₀ s) : Kept s₀ (nextScrub s) := by
  unfold Machine.nextScrub
  split
  · exact h.endHolder
  · exact .ite h h.setFrame

theorem Kept.scrubDone {frame : Nat} (h : Kept s₀ s) : Kept s₀ (scrubDone frame s) :=
  .ite h h.wipeFrame.setFrame.upd.nextScrub.retryAllocs

theorem Kept.execScrubFrameDone {frame : Nat} (h : Kept s₀ s) : KeptOut s₀ (execScrubFrameDone frame s) := .next h.scrubDone

theorem Kept.execRecolourDone {frame : Nat} (h : Kept s₀ s) : KeptOut s₀ (execRecolourDone frame s) := by
  unfold Machine.execRecolourDone
  split
  · exact .next h
  · exact .next h.wipeFrame.setFrame.setLeaf.upd.allocDone

theorem Kept.execStatePageBacking {f : Fin 128} (h : Kept s₀ s) : KeptOut s₀ (execStatePageBacking f s) := by
  unfold Machine.execStatePageBacking
  split
  · dsimp only
    split
    · rename_i he2
      exact .next (.allocDone (.of_snd h.allocPage he2))
    · rename_i he2
      exact .next (.of_snd h.allocPage he2)
    · rename_i he2
      exact .next (.failItem (.of_snd h.allocPage he2))
  · exact .next h

theorem Kept.execPatrolRead {addr e0 e1 : Nat} (h : Kept s₀ s) : KeptOut s₀ (execPatrolRead addr e0 e1 s) :=
  .ite (.next h.readLine) (.next h)

theorem Kept.execRetrainDue {ch : Nat} (h : Kept s₀ s) : KeptOut s₀ (execRetrainDue ch s) :=
  .ite (.next h) (.ite (.next h.setChan) (.ite (.next h.setChan) (.next h)))

theorem Kept.failChannel {ch : Nat} (h : Kept s₀ s) : Kept s₀ (failChannel ch s) := by
  unfold Machine.failChannel
  exact h.setChan.upd.logEvent

theorem Kept.trained {ch : Nat} (h : Kept s₀ s) : Kept s₀ (trained ch s) := h.setChan.resumeChan

theorem Kept.execRetrainDone {ch : Nat} {ok : Bool} (h : Kept s₀ s) : KeptOut s₀ (execRetrainDone ch ok s) :=
  .ite (.next h) (.ite (.next h.trained) (.next (.resumeChan (.ite h.setChan.logEvent.failChannel h.setChan.logEvent))))

theorem Kept.execRefreshDue {ch : Nat} (h : Kept s₀ s) : KeptOut s₀ (execRefreshDue ch s) := .ite (.next h) (.next h.setChan)

theorem Kept.selfRefreshResumeSelf {c : Nat} (h : Kept s₀ s) : Kept s₀ (selfRefresh.resumeSelf c s) := h.resumeChan.setChan

theorem Kept.selfRefresh (h : Kept s₀ s) : Kept s₀ (selfRefresh s) := by
  unfold Machine.selfRefresh
  refine .forBelow ?_ fun _ _ h1 => .ite h1 h1.selfRefreshResumeSelf
  split
  · exact h.upd.scrubDone
  · exact h.upd

theorem Kept.leaveSelfRefresh (h : Kept s₀ s) : Kept s₀ (leaveSelfRefresh s) := by
  have ht : Kept s₀ (Machine.forBelow (fun c s => if (s.chan c).st = .failed then s else Machine.trained c s) 96 s) :=
    h.forBelow fun _ _ h1 => .ite h1 h1.trained
  unfold Machine.leaveSelfRefresh
  generalize Machine.forBelow _ 96 s = t at ht
  exact .ite ht.upd ht.upd.nextScrub

/-! ## Telemetry -/

theorem Kept.memTemps (h : Kept s₀ s) : Kept s₀ (memTemps s) := .upd (h.forBelow (fun _ _ h1 => h1.setChan))

theorem Kept.capLoop {p : Nat} (h : Kept s₀ s) : Kept s₀ (capLoop p s) := .upd (.ite (h.forBelow (fun _ _ h1 => h1.upd)) h)

theorem Kept.thermLoop (h : Kept s₀ s) : Kept s₀ (thermLoop s) := .ite h (h.forBelow (fun _ _ h1 => .ite h1.upd h1))

theorem Kept.mirrorFn {fn : Nat} (h : Kept s₀ s) : Kept s₀ (mirrorFn fn s) := h.upd

theorem Kept.mirrorAll (h : Kept s₀ s) : Kept s₀ (mirrorAll s) := h.upd.forEach fun _ _ h1 => h1.mirrorFn

theorem Kept.sendRollup (h : Kept s₀ s) : Kept s₀ (sendRollup s) := .ite h.sendFrame h

theorem Kept.cmuFollow {u : Nat} (h : Kept s₀ s) : Kept s₀ (cmuFollow u s) := h.throttleTo.setCmu

theorem Kept.enterCmu {u : Nat} (h : Kept s₀ s) : Kept s₀ (enterCmu u s) := .ite h h.setCmu.cmuFollow

theorem Kept.cmuSample {u : Nat} (h : Kept s₀ s) : Kept s₀ (cmuSample u s) := h.cmuFollow.setCmu

theorem Kept.execTelemetrySample {smp : Sample} (h : Kept s₀ s) : KeptOut s₀ (execTelemetrySample smp s) :=
  .ite (.next h) (.ite (.next
    (.examineGrants (.thermLoop (.capLoop (.upd (h.upd.upd.memTemps.forBelow (fun _ _ h1 => h1.cmuSample)))))))
    (.next (.ite (.sendRollup
    (.ite (.mirrorAll (.examineGrants (.thermLoop (.capLoop (.upd (h.upd.upd.memTemps.forBelow (fun _ _ h1 => h1.cmuSample)))))))
    (.examineGrants (.thermLoop (.capLoop (.upd (h.upd.upd.memTemps.forBelow (fun _ _ h1 => h1.cmuSample))))))))
    (.ite (.mirrorAll (.examineGrants (.thermLoop (.capLoop (.upd (h.upd.upd.memTemps.forBelow (fun _ _ h1 => h1.cmuSample)))))))
    (.examineGrants (.thermLoop (.capLoop (.upd (h.upd.upd.memTemps.forBelow (fun _ _ h1 => h1.cmuSample))))))))))

theorem Kept.execSensorCalibration {offs : List ℤ} (h : Kept s₀ s) : KeptOut s₀ (execSensorCalibration offs s) := .next h.upd

/-! ## Cmu -/

theorem Kept.tryUpdate {slot : Nat} {c : Cmd} {d : List Byte} (h : Kept s₀ s) : Kept s₀ (tryUpdate slot c d s) := by
  unfold Machine.tryUpdate
  refine .ite h.holdMatch ?_
  split
  · exact h.failCmd
  · split
    · dsimp only
      split
      · exact h.failCmd
      · split
        · exact h.failCmd
        · exact h.failCmd
    · dsimp only
      split
      · exact h.failCmd
      · split
        · exact h.failCmd
        · exact h.modCmd.startRun

theorem Kept.matchUpdateRead {slot : Nat} {c : Cmd} {data : Option (List Byte)} (h : Kept s₀ s) :
    Kept s₀ (matchUpdateRead slot c data s) := by
  unfold Machine.matchUpdateRead
  split
  · exact h.failCmd
  · exact .ite h.failCmd h.tryUpdate

theorem Kept.onOrdering {slot opc : Nat} {f : Cmd → State → State} (h : Kept s₀ s) (hf : ∀ a t, Kept s₀ t → Kept s₀ (f a t)) :
    Kept s₀ (onOrdering slot opc f s) := by
  unfold Machine.onOrdering
  split
  · exact h
  · exact .ite (hf _ _ h) h

theorem Kept.execMatchUpdate {slot : Nat} (h : Kept s₀ s) : KeptOut s₀ (execMatchUpdate slot s) :=
  .ite (.next (h.onOrdering (fun _ _ h1 => h1.tryUpdate))) (.next (h.onHanded (fun _ _ h1 => .ite h1.askHost h1.failCmd)))

theorem Kept.trySearch {slot : Nat} {c : Cmd} {d : List Byte} (h : Kept s₀ s) : Kept s₀ (trySearch slot c d s) := by
  unfold Machine.trySearch
  refine .ite h.holdMatch ?_
  refine .ite h.failCmd ?_
  split
  · exact h.failCmd
  · exact .ite h.failCmd h.modCmd

theorem Kept.matchSearchRead {slot : Nat} {c : Cmd} {data : Option (List Byte)} (h : Kept s₀ s) :
    Kept s₀ (matchSearchRead slot c data s) := by
  unfold Machine.matchSearchRead
  split
  · exact h.failCmd
  · exact .ite h.failCmd h.trySearch

theorem Kept.searchKeys {slot u : Nat} {c : Cmd} {b : CmuTable} {n : Nat} (h : Kept s₀ s) :
    Kept s₀ (searchKeys slot u c b n s) := by
  unfold Machine.searchKeys
  split
  · exact .ite h.countCmu.modCmd.succeed h.countCmu.modCmd
  · exact h

theorem Kept.searchSome {slot : Nat} {c : Cmd} (h : Kept s₀ s) : Kept s₀ (searchSome slot c s) := by
  unfold Machine.searchSome
  split
  · exact h.failCmd
  · exact .ite h.failCmd (.ite h.enterCmu h.enterCmu.freshNat.takeSlots.searchKeys)

theorem Kept.execMatchSearch {slot : Nat} (h : Kept s₀ s) : KeptOut s₀ (execMatchSearch slot s) := by
  unfold Machine.execMatchSearch
  split
  · exact .next h
  · refine .ite (.next (h.onOrdering (fun _ _ h1 => h1.trySearch))) ?_
    refine .ite (.next h.searchSome) ?_
    refine .next ?_
    refine .onHanded h ?_
    intro _ _ h1
    split
    · exact h1.failCmd
    · exact h1.askHost

theorem Kept.execCmuShadowWriteAck {unit : Nat} (h : Kept s₀ s) : KeptOut s₀ (execCmuShadowWriteAck unit s) := by
  unfold Machine.execCmuShadowWriteAck
  split
  · exact .next h
  · exact .ite (.next h) (.next h.setCmu.setRun)

theorem Kept.execCmuUpdateStep {unit : Nat} (h : Kept s₀ s) : KeptOut s₀ (execCmuUpdateStep unit s) := by
  unfold Machine.execCmuUpdateStep
  dsimp only
  split
  · exact .next h.enterCmu
  · exact .ite (.next h.enterCmu)
      (.ite (.ite (.next h.enterCmu.takeSlots.countCmu.setCmu.setRun)
      (.next h.enterCmu.takeSlots.countCmu.setCmu.setCmu.nextRecord))
      (.ite (.next h.enterCmu.takeSlots.countCmu.setCmu.setRun) (.next h.enterCmu.takeSlots.countCmu.setCmu.nextRecord)))

theorem Kept.burstGrant {u slot : Nat} {c : Cmd} {n : Nat} (h : Kept s₀ s) : Kept s₀ (burstGrant u slot c n s).2 :=
  .ite h h.requestGrant

theorem Kept.burstTurn {u slot pipe op item : Nat} {c : Cmd} {q : QueryRun} {o : OpEnt} {keys : List (List Byte)}
    {l : List BurstRes} {rs : List (Bool × Nat × W32)} (h : Kept s₀ s)
    (he : burstTurn u slot pipe op item c q o keys s = some (l, rs, t)) :
    Kept s₀ t := by
  unfold Machine.burstTurn at he
  extract_lets mine n ks ended at he
  split at he
  · exact absurd he.symm (Option.some_ne_none _)
  split at he
  · have e := congrArg (·.2.2) (Option.some.inj he)
    dsimp only at e
    rw [← e]
    exact h.endHolder
  next k m _ =>
    have e := congrArg (·.2.2) (Option.some.inj he)
    dsimp only at e
    rw [← e]
    have hk : Kept s₀ (Machine.countCmu u c.inst k m
      (if o.ternary then Machine.takeSlots u c.inst n s else Machine.takeLanes u c.inst n s)) :=
      .countCmu (.ite h.takeSlots h.takeLanes)
    exact .ite hk.endHolder hk

theorem Kept.keepBurst {slot : Nat} {rs : List BurstRes} (h : Kept s₀ s) : Kept s₀ (keepBurst slot rs s) := h.modCmd

theorem Kept.execCmuSearchBurst {unit slot pipe op : Nat} {keys : Burst} (h : Kept s₀ s) :
    KeptOut s₀ (execCmuSearchBurst unit slot pipe op keys s) := by
  unfold Machine.execCmuSearchBurst
  split
  · exact .next h
  split
  case h_2 => exact .next h
  split
  · exact .next h
  refine .ite (.next h) ?_
  dsimp only
  refine .ite (.next h.enterCmu.burstGrant) ?_
  split
  · exact .next h.enterCmu.burstGrant
  next he => exact .next (.keepBurst (.upd (h.enterCmu.burstGrant.burstTurn he)))

theorem Kept.shadowLostEnt {u a : Nat} (h : Kept s₀ s) : Kept s₀ (shadowLostEnt u a s) := h.setCmu

theorem Kept.shadowLostState {u a : Nat} (h : Kept s₀ s) : Kept s₀ (shadowLostState u a s) := by
  unfold Machine.shadowLostState
  dsimp only
  split
  · exact h.setCmu
  · exact h.setCmu.forBelow fun _ _ h1 => h1.setCmu

theorem Kept.advance {u : Nat} {auto : Bool} (h : Kept s₀ s) : Kept s₀ (advance u auto s) := .ite h.setCmu h.setCmu

theorem Kept.execCmuComparerCheck {unit : Nat} {auto upset shadowOk : Bool} (h : Kept s₀ s) :
    KeptOut s₀ (execCmuComparerCheck unit auto upset shadowOk s) :=
  .ite (.next h) (.ite (.next h.advance)
    (.ite (.next (.logEvent (.ite h.setCmu.advance.shadowLostState h.setCmu.advance.shadowLostEnt)))
    (.ite (.next h.setCmu.advance) (.next h.setCmu.advance.setCmu.logEvent))))

theorem Kept.execCmuThrottleStepChange {unit temp : Nat} (h : Kept s₀ s) :
    KeptOut s₀ (execCmuThrottleStepChange unit temp s) := .ite (.next h) (.next h.cmuFollow)

theorem Kept.execCmuCmpcfgWrite {val : W32} (h : Kept s₀ s) : KeptOut s₀ (execCmuCmpcfgWrite val s) :=
  .ite (.next h.upd) (.next h)

theorem Kept.onMbxSub {fn mop sub : Nat} {r : MbxRule} {f : Mbx → State → State} (h : Kept s₀ s)
    (hf : ∀ a t, Kept s₀ t → Kept s₀ (f a t)) :
    Kept s₀ (onMbxSub fn mop sub r f s) := .ite (h.onMbx (fun _ _ h1 => hf _ _ h1)) h

theorem Kept.startTableRun {fn u id : Nat} {rs : List UpdRec} (h : Kept s₀ s) : Kept s₀ (startTableRun fn u id rs s) :=
  .ite h.mbxErr h.modMbx.startRun

theorem Kept.createTable {fn u id size : Nat} (h : Kept s₀ s) : KeptSome s₀ (createTable fn u id size s) := by
  unfold Machine.createTable
  refine .ite (.none) ?_
  split
  · exact .none
  · exact .some h.setCmu

theorem Kept.execCmuTableCreate {fn : Nat} {host : Option (List Byte)} (h : Kept s₀ s) :
    KeptOut s₀ (execCmuTableCreate fn host s) := by
  unfold Machine.execCmuTableCreate
  refine .next ?_
  refine .onMbxSub h ?_
  intro _ _ h1
  split
  · exact h1.mbxBad
  · refine .ite h1.mbxErr ?_
    split
    · exact h1.mbxErr
    · refine .mbxRead h1 ?_
      intro _ h2
      split
      · exact h2.endMbx
      · exact .startTableRun (.ite h2 h2.setCmu)

theorem Kept.execCmuTableRefill {fn : Nat} {host : Option (List Byte)} (h : Kept s₀ s) :
    KeptOut s₀ (execCmuTableRefill fn host s) := by
  unfold Machine.execCmuTableRefill
  refine .next ?_
  refine .onMbxSub h ?_
  intro _ _ h1
  split
  · exact h1.mbxBad
  · dsimp only
    split
    · exact h1.mbxErr
    · refine .mbxRead h1 ?_
      intro _ h2
      split
      · exact h2.endMbx
      · exact h2.startTableRun

theorem Kept.deleteTable {i id : Nat} (h : Kept s₀ s) : Kept s₀ (deleteTable i id s) := by
  unfold Machine.deleteTable
  split
  · exact h
  · exact h.modTable

theorem Kept.execCmuTableDelete {fn : Nat} (h : Kept s₀ s) : KeptOut s₀ (execCmuTableDelete fn s) := by
  unfold Machine.execCmuTableDelete
  refine .next ?_
  refine .onMbxSub h ?_
  intro _ _ h1
  split
  · exact h1.mbxErr
  · exact h1.deleteTable.endMbx

theorem Kept.execCmuTableReclaim {inst table : Nat} (h : Kept s₀ s) : KeptOut s₀ (execCmuTableReclaim inst table s) := by
  unfold Machine.execCmuTableReclaim
  dsimp only
  split
  · exact .next h
  · exact .ite (.next h) (.next h.countCmu.setCmu)

/-! ## Ready -/

theorem Kept.addCursor {slot pipe : Nat} {kind : WorkKind} {cls : Nat} (h : Kept s₀ s) :
    Kept s₀ (addCursor slot pipe kind cls s) := by
  unfold Machine.addCursor
  split
  · exact h
  · split
    · exact h
    · exact h.upd

theorem Kept.dropCursor {slot pipe : Nat} {kind : WorkKind} (h : Kept s₀ s) : Kept s₀ (dropCursor slot pipe kind s) := h.upd

theorem Kept.modList {l : Nat} {f : List Cursor → List Cursor} (h : Kept s₀ s) : Kept s₀ (modList l f s) := h.upd

theorem Kept.turnCursor {l : Nat} {x : Cursor} {left : Nat} (h : Kept s₀ s) : Kept s₀ (turnCursor l x left s) := h.modList

theorem Kept.holdCursor {l : Nat} {x : Cursor} (h : Kept s₀ s) : Kept s₀ (holdCursor l x s) := h.modList

theorem Kept.countWait {level i since : Nat} (h : Kept s₀ s) : Kept s₀ (countWait level i since s) := h.upd

theorem Kept.setDeficit {cls i : Nat} {x : ℤ} (h : Kept s₀ s) : Kept s₀ (setDeficit cls i x s) := h.upd

theorem Kept.chargeWork {cls i ns : Nat} (h : Kept s₀ s) : Kept s₀ (chargeWork cls i ns s) := h.setDeficit

theorem Kept.fillDeficits {cls : Nat} {l : List Nat} (h : Kept s₀ s) : Kept s₀ (fillDeficits cls l s) :=
  .ite (h.forEach (fun _ _ h1 => h1.setDeficit))
    (.forEach (h.forEach (fun _ _ h1 => h1.setDeficit)) (fun _ _ h1 => h1.setDeficit))

theorem Kept.chooseHeavy {cls : Nat} {l : List Nat} (h : Kept s₀ s) : Kept s₀ (chooseHeavy cls l s).2 := by
  unfold Machine.chooseHeavy
  dsimp only
  split
  · dsimp only
    exact h.fillDeficits
  · dsimp only
    exact h.fillDeficits.upd

theorem Kept.chooseCursor {cls : Nat} {l : List Choice} (h : Kept s₀ s) : Kept s₀ (chooseCursor cls l s).2 := by
  unfold Machine.chooseCursor
  extract_lets top l insts heavy
  have hr : Kept s₀ (if heavy.isEmpty then s.choose insts else Machine.chooseHeavy cls heavy s).2 := by
    split
    · exact h.choose
    · exact h.chooseHeavy
  split
  next he => exact hr.of_snd he
  next he => exact hr.of_snd he

end

end Sys2Proof.Machine
end

section
/-!
PROOFS. What every command keeps, continued: the table store and digests. Each lemma follows the branches of its function.
-/

namespace Sys2Proof.Machine

section
-- Each of these short lemmas would else wait in a thread of its own for the long proofs before it.
set_option Elab.async false
variable {s₀ s t : State}

/-! ## StoreOps -/

theorem Kept.modObj {o : StoreObj} {f : StoreObj → StoreObj} (h : Kept s₀ s) : Kept s₀ (modObj o f s) := h.upd

theorem Kept.setSsd {p : Nat} {x : Ssd} (h : Kept s₀ s) : Kept s₀ (s.setSsd p x) := h.upd

theorem Kept.sendNvme {n : Nvme} (h : Kept s₀ s) : Kept s₀ (sendNvme n s) := .ite h h.upd

theorem Kept.dropNvme {n : Nvme} (h : Kept s₀ s) : Kept s₀ (dropNvme n s) := h.upd

theorem Kept.extentBad {n : Nvme} (h : Kept s₀ s) : Kept s₀ (extentBad n s) := h.logEvent

theorem Kept.extentLost {slot : Nat} {r0 : Option W64} {st : Nat} (h : Kept s₀ s) : Kept s₀ (extentLost slot r0 st s) := by
  unfold Machine.extentLost
  split
  · exact h
  · split
    · exact h.recordFailure.endIfFailed
    · exact h.failCmd
    · exact h.clearLogged.failCmd
    · exact h.failCmd

theorem Kept.readLost {n : Nvme} {st : Nat} (h : Kept s₀ s) : Kept s₀ (readLost n st s) := by
  unfold Machine.readLost
  split
  · dsimp only
    split
    · exact h.dropNvme.extentBad
    · exact .ite h.dropNvme.extentBad.sendNvme (.extentLost (.ite h.dropNvme.extentBad.modObj h.dropNvme.extentBad))
  · dsimp only
    split
    · exact h.dropNvme.extentBad
    · exact .ite h.dropNvme.extentBad.sendNvme (.ite h.dropNvme.extentBad.modObj h.dropNvme.extentBad)

theorem Kept.readExtent {slot : Nat} {r0 : Option W64} {o : StoreObj} {m : ObjImage} {e : Nat} (h : Kept s₀ s) :
    Kept s₀ (readExtent slot r0 o m e s) := .ite h.extentBad.extentLost (.ite h (.ite h.sendNvme h.extentBad.extentLost))

theorem Kept.readExtents {slot : Nat} {r0 : Option W64} {o : StoreObj} {m : ObjImage} {es : List Nat} (h : Kept s₀ s) :
    Kept s₀ (readExtents slot r0 o m es s) := h.forEach fun _ _ h1 => .ite h1 h1.readExtent

theorem Kept.publish {o : StoreObj} {m : ObjImage} {c : Cmd} {slot : Option Nat} {frames : Nat} {del : Bool} (h : Kept s₀ s) :
    Kept s₀ (publish o m c slot frames del s) := h.upd.modObj

theorem Kept.publishLater {o : StoreObj} {m : ObjImage} {c : Cmd} {slot frames : Nat} (h : Kept s₀ s) :
    Kept s₀ (publishLater o m c slot frames s) := h.upd

theorem Kept.flushDone {i id ver : Nat} (h : Kept s₀ s) : Kept s₀ (flushDone i id ver s) :=
  .forEach (h.upd.forEach (fun _ _ h1 => h1.modCmd)) fun _ _ h1 => h1.succeed

theorem Kept.makeDurable {p : Pub} (h : Kept s₀ s) : Kept s₀ (makeDurable p s) := by
  unfold Machine.makeDurable
  split
  · refine .ite ?_ ?_
    · split
      · refine .ite ?_ ?_
        · refine .ite ?_ ?_
          · refine .flushDone ?_
            split
            · exact h.upd
            · exact h.upd.modObj
          · refine .modCmd ?_
            refine .flushDone ?_
            split
            · exact h.upd
            · exact h.upd.modObj
        · refine .succeedDone ?_
          refine .flushDone ?_
          split
          · exact h.upd
          · exact h.upd.modObj
      · refine .flushDone ?_
        split
        · exact h.upd
        · exact h.upd.modObj
    · refine .flushDone ?_
      split
      · exact h.upd
      · exact h.upd.modObj
  · refine .flushDone ?_
    split
    · exact h.upd
    · exact h.upd.modObj

theorem Kept.dropDeleted (h : Kept s₀ s) : Kept s₀ (dropDeleted s) := h.upd

theorem Kept.placeJournal (h : Kept s₀ s) : Kept s₀ (placeJournal s) := by
  unfold Machine.placeJournal
  split
  · exact h.upd
  · exact h.upd
  · exact h.upd
  · exact h

theorem Kept.moveJournal {p : Nat} (h : Kept s₀ s) : Kept s₀ (moveJournal p s) := .ite h h.upd.upd.logEvent

/-! ## Store -/

theorem Kept.modRun {slot : Nat} {f : StoreRun → StoreRun} (h : Kept s₀ s) : Kept s₀ (modRun slot f s) := h.modCmd

theorem Kept.setPhase {slot : Nat} {p : CmdPhase} (h : Kept s₀ s) : Kept s₀ (setPhase slot p s) := h.modCmd

theorem Kept.scatter {port : Nat} {c : Cmd} {a : List (Nat × Nat)} {a1 : List Byte} (h : Kept s₀ s) :
    Kept s₀ (scatter port c a a1 s) := by
  induction a generalizing port c a1 s with
  | nil =>
    unfold Machine.scatter
    exact h
  | cons b l ih =>
    unfold Machine.scatter
    exact ih h.hostWriteFor

theorem Kept.finishRead {slot : Nat} (h : Kept s₀ s) : Kept s₀ (finishRead slot s) := by
  unfold Machine.finishRead
  split
  · exact h
  · refine .ite ?_ h.addCounter.scatter.addCounter.succeed
    split
    · rename_i he1
      exact .succeed (.of_snd h.addCounter.devWriteN he1)
    · rename_i he1
      exact .failCmd (.of_snd h.addCounter.devWriteN he1)

theorem Kept.takeRead {slot : Nat} {c : Cmd} {o : StoreObj} (h : Kept s₀ s) : Kept s₀ (takeRead slot c o s) :=
  .ite h.failCmd (.ite h.modRun.setPhase.readExtents h.modRun.setPhase.readExtents.finishRead)

theorem Kept.makePub {p : Pub} {o : StoreObj} (h : Kept s₀ s) : Kept s₀ (makePub p o s) := h.upd.modObj

theorem Kept.publishHidden {slot : Nat} (h : Kept s₀ s) : Kept s₀ (publishHidden slot s) := by
  unfold Machine.publishHidden
  split
  · exact h
  · exact .ite h (.ite (h.forEach (fun _ _ h1 => h1.upd))
      (.ite (.modCmd (h.forEach (fun _ _ h1 => h1.makePub))) (.modCmd (h.forEach (fun _ _ h1 => h1.makePub)))))

theorem Kept.doPublish {slot : Nat} {c : Cmd} {o : StoreObj} (h : Kept s₀ s) : Kept s₀ (doPublish slot c o s) := by
  unfold Machine.doPublish
  split
  · exact h
  · exact .ite h.failCmd
      (.ite h.failCmd (.ite h.failCmd
      (.ite (.publishHidden (.setPhase (.publishLater (.ite h.modRun.addCounter h.modRun))))
      (.succeedDone (.publish (.modRun (.ite h.modRun.addCounter h.modRun)))))))

theorem Kept.tryStore {slot : Nat} (h : Kept s₀ s) : Kept s₀ (tryStore slot s) := by
  unfold Machine.tryStore
  split
  · exact h
  · refine .ite h ?_
    split
    · exact h.failCmd
    · exact .ite h.takeRead h.doPublish

theorem Kept.readPartial {slot : Nat} {c : Cmd} {o : StoreObj} (h : Kept s₀ s) : Kept s₀ (readPartial slot c o s) :=
  h.setPhase.readExtents.tryStore

theorem Kept.staged {slot : Nat} {c : Cmd} {d : List Byte} (h : Kept s₀ s) : Kept s₀ (staged slot c d s) := by
  unfold Machine.staged
  dsimp only
  split
  · exact h.modRun.failCmd
  · exact h.modRun.readPartial

theorem Kept.askPieces {slot : Nat} {c : Cmd} (h : Kept s₀ s) : Kept s₀ (askPieces slot c s) :=
  h.setPhase.forEach fun _ _ h1 => .ite h1 h1.hostSend

theorem Kept.stage {slot : Nat} {c : Cmd} (h : Kept s₀ s) : Kept s₀ (stage slot c s) := by
  unfold Machine.stage
  refine .ite ?_ h.modRun.askPieces
  split
  · rename_i he
    exact .staged (.of_snd_snd h.modRun.devReadN he)
  · rename_i he
    exact .failCmd (.of_snd_snd h.modRun.devReadN he)

theorem Kept.storeDataRead {slot : Nat} {c : Cmd} {data : Option (List Byte)} (h : Kept s₀ s) :
    Kept s₀ (storeDataRead slot c data s) := by
  unfold Machine.storeDataRead
  split
  · exact h.failCmd
  · exact .ite h.failCmd h.staged

theorem Kept.startWrite {slot : Nat} {c : Cmd} {o : StoreObj} (h : Kept s₀ s) : Kept s₀ (startWrite slot c o s) :=
  .ite h.failCmd (.ite h.stage h.setPhase.upd)

theorem Kept.onStore {slot opc : Nat} {desc : Cmd → Option Nat} {f : Cmd → StoreObj → State → State} (h : Kept s₀ s)
    (hf : ∀ a a1 t, Kept s₀ t → Kept s₀ (f a a1 t)) :
    Kept s₀ (onStore slot opc desc f s) := by
  unfold Machine.onStore
  refine .ite h ?_
  refine .onHanded h ?_
  intro _ _ h1
  split
  · exact h1.failCmd
  · split
    · exact .ite h1 h1.failCmd
    · exact .ite h1.failCmd (hf _ _ _ h1)

theorem Kept.execStoreWrite {slot : Nat} (h : Kept s₀ s) : KeptOut s₀ (execStoreWrite slot s) :=
  .next (h.onStore (fun _ _ _ h1 => h1.startWrite))

theorem Kept.execStoreAppend {slot : Nat} (h : Kept s₀ s) : KeptOut s₀ (execStoreAppend slot s) :=
  .next (h.onStore (fun _ _ _ h1 => h1.startWrite))

theorem Kept.execStoreRead {slot : Nat} (h : Kept s₀ s) : KeptOut s₀ (execStoreRead slot s) :=
  .next (h.onStore (fun _ _ _ h1 => h1.modRun.setPhase.tryStore))

theorem Kept.execStoreTrim {slot : Nat} (h : Kept s₀ s) : KeptOut s₀ (execStoreTrim slot s) :=
  .next (h.onStore (fun _ _ _ h1 => .ite h1.failCmd h1.modRun.readPartial))

theorem Kept.runFlush {slot : Nat} {c : Cmd} (h : Kept s₀ s) : Kept s₀ (runFlush slot c s) :=
  .ite h.failCmd (.ite h.failCmd (.ite h.failCmd (.ite h.succeed h.setPhase.upd)))

theorem Kept.execStoreFlush {slot : Nat} (h : Kept s₀ s) : KeptOut s₀ (execStoreFlush slot s) :=
  .ite (.next (h.onHanded (fun _ _ h1 => h1.runFlush))) (.next h)

theorem Kept.onAttr {slot aop : Nat} {f : Cmd → State → State} (h : Kept s₀ s) (hf : ∀ a t, Kept s₀ t → Kept s₀ (f a t)) :
    Kept s₀ (onAttr slot aop f s) := .ite h (h.onHanded (fun _ _ h1 => .ite h1.failCmd (.ite (hf _ _ h1) h1)))

theorem Kept.runCreate {slot : Nat} (h : Kept s₀ s) : Kept s₀ (runCreate slot s) := by
  unfold Machine.runCreate
  split
  · exact h
  · exact .ite h.failCmd (.ite h.modRun.setPhase (.ite h.failCmd h.askHost))

theorem Kept.execStoreAttrCreate {slot : Nat} (h : Kept s₀ s) : KeptOut s₀ (execStoreAttrCreate slot s) :=
  .next (h.onAttr (fun _ _ h1 => h1.runCreate))

theorem Kept.publishAttr {slot : Nat} {c : Cmd} {o : StoreObj} {m : ObjImage} {del : Bool} (h : Kept s₀ s) :
    Kept s₀ (publishAttr slot c o m del s) := .ite h.modRun.publish.modCmd h.modRun.publish.succeedDone

theorem Kept.createRead {slot : Nat} {c : Cmd} {data : Option (List Byte)} (h : Kept s₀ s) :
    Kept s₀ (createRead slot c data s) := by
  unfold Machine.createRead
  split
  · exact h.failCmd
  · exact .ite h.failCmd (.ite h.failCmd (.ite h.failCmd h.upd.publishAttr))

theorem Kept.runDelete {slot : Nat} (h : Kept s₀ s) : Kept s₀ (runDelete slot s) := by
  unfold Machine.runDelete
  split
  · exact h
  · split
    · exact h.modRun.setPhase
    · exact h.failCmd
    · exact .ite h.failCmd h.publishAttr

theorem Kept.execStoreAttrDelete {slot : Nat} (h : Kept s₀ s) : KeptOut s₀ (execStoreAttrDelete slot s) :=
  .next (h.onAttr (fun _ _ h1 => h1.runDelete))

theorem Kept.runGet {slot : Nat} (h : Kept s₀ s) : Kept s₀ (runGet slot s) := by
  unfold Machine.runGet
  split
  · exact h
  · split
    · exact h.failCmd
    · exact .ite h.modRun.setPhase h.hostWriteFor.addCounter.succeed

theorem Kept.execStoreAttrGet {slot : Nat} (h : Kept s₀ s) : KeptOut s₀ (execStoreAttrGet slot s) :=
  .next (h.onAttr (fun _ _ h1 => h1.runGet))

theorem Kept.execStoreAttrResize {slot : Nat} (h : Kept s₀ s) : KeptOut s₀ (execStoreAttrResize slot s) := by
  unfold Machine.execStoreAttrResize
  refine .next ?_
  refine .onAttr h ?_
  intro _ _ h1
  split
  · exact .ite h1 h1.failCmd
  · exact .ite h1.failCmd (.ite h1.failCmd h1.modRun.readPartial)

theorem Kept.storeOrdered {slot : Nat} {c : Cmd} (h : Kept s₀ s) : Kept s₀ (storeOrdered slot c s) :=
  .ite (.ite h h.runCreate) (.ite (.ite h h.runDelete) (.ite (.ite h h.runGet) h.tryStore))

theorem Kept.loseQuery {slot : Nat} {c : Cmd} {r0 : W64} (h : Kept s₀ s) : Kept s₀ (loseQuery slot c r0 s) := h.upd.modCmd

theorem Kept.writeLost {p : Pub} {ext : Nat} (h : Kept s₀ s) : Kept s₀ (writeLost p ext s) := by
  unfold Machine.writeLost
  split
  · split
    · exact .ite h.loseQuery h.upd.failCmd
    · exact h.upd
  · split
    · exact h
    · exact .ite h h.modObj.logEvent

theorem Kept.rePlace {n : Nvme} (h : Kept s₀ s) : Kept s₀ (rePlace n s) := by
  unfold Machine.rePlace
  split
  · dsimp only
    split
    · exact h.dropNvme
    · split
      · exact h.dropNvme
      · split
        · exact h.dropNvme.sendNvme
        · exact h.dropNvme.writeLost
  · dsimp only
    split
    · exact h.dropNvme
    · split
      · exact h.dropNvme
      · split
        · exact h.dropNvme.writeLost
        · exact h.dropNvme.writeLost

theorem Kept.giveUp {n : Nvme} (h : Kept s₀ s) : Kept s₀ (giveUp n s) := by
  unfold Machine.giveUp
  split
  · exact h.readLost
  · exact h.rePlace
  · exact h.dropNvme

theorem Kept.failSsd {p : Nat} (h : Kept s₀ s) : Kept s₀ (failSsd p s) :=
  .ite h (h.freshNat.setSsd.logEvent.moveJournal.forEach (fun _ _ h1 => h1.giveUp))

theorem Kept.nvmeError {n : Nvme} (h : Kept s₀ s) : Kept s₀ (nvmeError n s) := .ite h.upd (.ite h.setSsd.failSsd h.setSsd.giveUp)

theorem Kept.storeReadsDone {slot : Nat} {c : Cmd} (h : Kept s₀ s) : Kept s₀ (storeReadsDone slot c s) :=
  .ite h.finishRead h.tryStore

theorem Kept.fillSnap {slot obj e : Nat} {d : List Byte} (h : Kept s₀ s) : Kept s₀ (fillSnap slot obj e d s) := h.modCmd

theorem Kept.healCopy {n : Nvme} {o : StoreObj} {d : List Byte} (h : Kept s₀ s) : Kept s₀ (healCopy n o d s) := by
  unfold Machine.healCopy
  refine .ite h ?_
  split
  · exact h.sendNvme
  · exact h

theorem Kept.healed {n : Nvme} (h : Kept s₀ s) : Kept s₀ (healed n s) := by
  unfold Machine.healed
  split
  · exact h
  · exact .ite h.modObj h

theorem Kept.execNvmeCompletion {id : Nat} {ok : Bool} (h : Kept s₀ s) : KeptOut s₀ (execNvmeCompletion id ok s) := by
  unfold Machine.execNvmeCompletion
  split
  · exact .next h
  · refine .ite (.next h.nvmeError) ?_
    split
    · exact .next h.setSsd
    · exact .next h.setSsd.dropNvme.healed
    · dsimp only
      split
      · exact .next h.setSsd.dropNvme
      · split
        · exact .next h.setSsd.dropNvme.upd.publishHidden
        · exact .next h.setSsd.dropNvme.upd

theorem Kept.execNvmeTimeout {id : Nat} (h : Kept s₀ s) : KeptOut s₀ (execNvmeTimeout id s) := by
  unfold Machine.execNvmeTimeout
  split
  · exact .next h
  · exact .ite (.next h) (.ite (.next h.giveUp) (.next h.failSsd))

theorem Kept.destageOne {p : Pub} {o : StoreObj} {k : Nat} (h : Kept s₀ s) : Kept s₀ (destageOne p o k s) := by
  unfold Machine.destageOne
  split
  · exact h.writeLost
  · exact h.sendNvme

theorem Kept.execDestage (h : Kept s₀ s) : KeptOut s₀ (execDestage s) := by
  unfold Machine.execDestage
  dsimp only
  split
  · split
    · exact .next h
    · exact .next (h.forEach (fun _ _ h1 => h1.destageOne))
  · exact .next h

theorem Kept.execJournalCommit (h : Kept s₀ s) : KeptOut s₀ (execJournalCommit s) :=
  .ite (.next h) (.ite (.next (.enterPs (.dropDeleted (h.forEach (fun _ _ h1 => h1.makeDurable)))))
    (.next (.dropDeleted (h.forEach (fun _ _ h1 => h1.makeDurable)))))

theorem Kept.execJournalCopyDone (h : Kept s₀ s) : KeptOut s₀ (execJournalCopyDone s) := by
  unfold Machine.execJournalCopyDone
  split
  · exact .next h
  · exact .next (.ite h.upd.upd h.upd)

theorem Kept.takeSsd {x : SsdFound} (h : Kept s₀ s) : Kept s₀ (takeSsd x s) := .ite h (.ite h.setSsd h.setSsd.logEvent)

theorem Kept.execStoreMount {found : List SsdFound} (h : Kept s₀ s) : KeptOut s₀ (execStoreMount found s) :=
  .ite (.next h) (.next (.upd (.placeJournal (h.forEach (fun _ _ h1 => h1.takeSsd)))))

theorem Kept.execAdmitSsd {fn : Nat} {found : SsdFound} (h : Kept s₀ s) : KeptOut s₀ (execAdmitSsd fn found s) :=
  .next (h.onMbxSub (fun _ _ h1 => .ite h1.mbxBad (.ite h1.mbxErr h1.setSsd.placeJournal.mbxOk)))

/-! ## DigestOps -/

theorem Kept.onPort {u k acc : Nat} {f : Ctx → State → State} (h : Kept s₀ s) (hf : ∀ a t, Kept s₀ t → Kept s₀ (f a t)) :
    Kept s₀ (onPort u k acc f s) := .ite h (.ite h.logEvent (hf _ _ h))

theorem Kept.startCtx {u k func o keylen custlen cmplen len : Nat} {key cust expect : List Byte} (h : Kept s₀ s) :
    Kept s₀ (startCtx u k func o keylen custlen cmplen len key cust expect s) := .ite h.failCtx (.ite h.failCtx h.setCtx)

theorem Kept.feedCtx {u k : Nat} {d : List Byte} {fin : Bool} (h : Kept s₀ s) : Kept s₀ (feedCtx u k d fin s) :=
  .ite h.failCtx (.ite h.failCtx (.ite h.failCtx h.setCtx))

theorem Kept.addDgu {u i k n : Nat} (h : Kept s₀ s) : Kept s₀ (addDgu u i k n s) := h.setDgu

theorem Kept.countBytes {u i n : Nat} (h : Kept s₀ s) : Kept s₀ (countBytes u i n s) := h.setDgu.addDgu

theorem Kept.runWords {u k : Nat} (h : Kept s₀ s) : Kept s₀ (runWords u k s) :=
  .ite h.setCtx.countBytes h.setCtx.countBytes.leaveLane

theorem Kept.takeLane {u k l : Nat} (h : Kept s₀ s) : Kept s₀ (takeLane u k l s) := h.setDgu.runWords

theorem Kept.chargeLane {u k : Nat} (h : Kept s₀ s) : Kept s₀ (chargeLane u k s) := by
  unfold Machine.chargeLane
  split
  · exact h
  · exact h.chargeWork

theorem Kept.preemptLane {u k l v : Nat} (h : Kept s₀ s) : Kept s₀ (preemptLane u k l v s) := h.chargeLane.setDgu.takeLane

theorem Kept.serveLane {u k : Nat} (h : Kept s₀ s) : Kept s₀ (serveLane u k s) := by
  unfold Machine.serveLane
  refine .ite h ?_
  refine .ite ?_ ?_
  · refine .ite ?_ h
    split
    · exact h.takeLane
    · exact h
  · split
    · exact h.takeLane
    · refine .ite h ?_
      split
      · exact h
      · exact h.preemptLane

theorem Kept.wantLane {u k : Nat} (h : Kept s₀ s) : Kept s₀ (wantLane u k s) :=
  .ite h (.ite h.runWords (.serveLane (.ite h h.setDgu)))

theorem Kept.modDigest {slot : Nat} {f : DigestRun → DigestRun} (h : Kept s₀ s) : Kept s₀ (modDigest slot f s) := h.modCmd

theorem Kept.failDigest {slot st dt : Nat} (h : Kept s₀ s) : Kept s₀ (failDigest slot st dt s) := h.modCmd.failCmd

theorem Kept.reportCtx {x : Ctx} {st dt : Nat} (h : Kept s₀ s) : Kept s₀ (reportCtx x st dt s) := by
  unfold Machine.reportCtx
  split
  · exact h.failDigest
  · exact .ite h.failItem h
  · exact h

theorem Kept.failVerifies (h : Kept s₀ s) : Kept s₀ (failVerifies s) := by
  unfold Machine.failVerifies
  refine .forBelow h ?_
  intro _ _ h1
  split
  · exact h1
  · exact .ite h1 (.ite h1.freshNat h1.freshNat.recordFailure)

theorem Kept.alarmCtxs {u : Nat} (h : Kept s₀ s) : Kept s₀ (alarmCtxs u s) :=
  .failVerifies (h.forCtxs (fun _ _ _ h1 => .ite h1.clearCtx h1.clearCtx.reportCtx))

theorem Kept.spdmError {tr err data : Nat} (h : Kept s₀ s) : Kept s₀ (spdmError tr err data s) := h.upd

theorem Kept.endToken {st : MbxState} {err : Nat} (h : Kept s₀ s) : Kept s₀ (endToken st err s) := h.upd

theorem Kept.dropSigning (h : Kept s₀ s) : Kept s₀ (dropSigning s) := h.upd

theorem Kept.alarmUnit {sensor u : Nat} (h : Kept s₀ s) : Kept s₀ (alarmUnit sensor u s) := by
  unfold Machine.alarmUnit
  exact h.alarmCtxs.setDgu.logEvent

theorem Kept.rotAlarm {sensor : Nat} (h : Kept s₀ s) : Kept s₀ (rotAlarm sensor s) :=
  .forBelow (.ite (.endToken (.dropSigning (h.forEach (fun _ _ h1 => h1.spdmError))))
    (.dropSigning (h.forEach (fun _ _ h1 => h1.spdmError)))) fun _ _ h1 => h1.alarmUnit

/-! ## Digest -/

theorem Kept.openDigest {slot : Nat} (h : Kept s₀ s) : Kept s₀ (openDigest slot s) := h.setPhase.dropCursor.addCursor.upd

theorem Kept.digestNext {slot : Nat} (h : Kept s₀ s) : Kept s₀ (digestNext slot s) := by
  unfold Machine.digestNext
  split
  · exact h
  · exact .ite h.askHost (.ite h.askHost h.openDigest)

theorem Kept.tryDigest {slot : Nat} (h : Kept s₀ s) : Kept s₀ (tryDigest slot s) := by
  unfold Machine.tryDigest
  split
  · exact h
  · refine .ite h ?_
    split
    · exact h.failCmd
    · exact .ite h.failCmd h.modDigest.digestNext

theorem Kept.runDigest {slot : Nat} {c : Cmd} (h : Kept s₀ s) : Kept s₀ (runDigest slot c s) := by
  unfold Machine.runDigest
  split
  · exact h.failCmd
  · exact .ite (.ite h.modDigest.setPhase.tryDigest h.modDigest.setPhase) h.modDigest.digestNext

theorem Kept.execDigest {slot : Nat} (h : Kept s₀ s) : KeptOut s₀ (execDigest slot s) :=
  .next (h.onHanded (fun _ _ h1 => h1.runDigest))

theorem Kept.execDigestVerify {slot : Nat} (h : Kept s₀ s) : KeptOut s₀ (execDigestVerify slot s) :=
  .next (h.onHanded (fun _ _ h1 => h1.runDigest))

theorem Kept.deliver {slot u k : Nat} {d : List Byte} (h : Kept s₀ s) : Kept s₀ (deliver slot u k d s) :=
  .ite h.feedCtx.wantLane.failDigest h.feedCtx.wantLane

theorem Kept.feedLost {slot st : Nat} (h : Kept s₀ s) : Kept s₀ (feedLost slot st s) := by
  unfold Machine.feedLost
  split
  · exact h.clearLogged.failDigest
  · exact h.failDigest

theorem Kept.storeFeed {slot : Nat} (h : Kept s₀ s) : Kept s₀ (storeFeed slot s) := by
  unfold Machine.storeFeed
  split
  · exact h
  · split
    · exact h
    · exact h.addCounter.deliver

theorem Kept.readMessage {slot u k : Nat} {c : Cmd} (h : Kept s₀ s) : Kept s₀ (readMessage slot u k c s) := by
  unfold Machine.readMessage
  refine .ite h.deliver ?_
  refine .ite (h.setPhase.forEach (fun _ _ h1 => h1.hostSend)) ?_
  refine .ite ?_ ?_
  · split
    · rename_i he
      exact .deliver (.of_snd_snd h.devReadN he)
    · rename_i he
      exact .feedLost (.of_snd_snd h.devReadN he)
  · split
    · exact h.feedLost
    · exact .ite h.readExtents h.readExtents.storeFeed

theorem Kept.startDigest {slot u k : Nat} (h : Kept s₀ s) : Kept s₀ (startDigest slot u k s) := by
  unfold Machine.startDigest
  split
  · exact h
  · exact h.modDigest.startCtx.readMessage

theorem Kept.digestRead {slot : Nat} {c : Cmd} {data : Option (List Byte)} (h : Kept s₀ s) :
    Kept s₀ (digestRead slot c data s) := by
  unfold Machine.digestRead
  dsimp only
  split
  · exact .ite h.feedLost h.setPhase.deliver
  · exact h.feedLost
  · exact h.failDigest
  · exact .ite (.ite h.failDigest (.ite h.failDigest h.modDigest.digestNext)) (.ite h.failDigest h.modDigest.digestNext)

theorem Kept.openCtx {u k i : Nat} {slot frond : Option Nat} (h : Kept s₀ s) : Kept s₀ (openCtx u k i slot frond s) := h.setCtx

theorem Kept.serveOpen {u : Nat} (h : Kept s₀ s) : Kept s₀ (serveOpen u s) := by
  unfold Machine.serveOpen
  split
  · rename_i he
    exact .of_snd h.chooseCursor he
  · rename_i he
    split
    · dsimp only
      split
      · exact .of_snd h.chooseCursor he
      · exact .openCtx (.setAsks (.turnCursor (.countWait (.of_snd h.chooseCursor he))))
    · dsimp only
      split
      · exact .of_snd h.chooseCursor he
      · exact .startDigest (.openCtx (.upd (.turnCursor (.countWait (.of_snd h.chooseCursor he)))))

theorem Kept.askContext {f : Nat} (h : Kept s₀ s) : Kept s₀ (askContext f s) := by
  unfold Machine.askContext
  split
  · exact h
  · exact .ite h.setAsks h.addCursor

theorem Kept.execDigContextOpen {unit : Nat} {frond : Option (Fin 128)} (h : Kept s₀ s) :
    KeptOut s₀ (execDigContextOpen unit frond s) := by
  unfold Machine.execDigContextOpen
  refine .ite (.next h) ?_
  split
  · exact .next h.askContext.serveOpen
  · exact .next h.serveOpen

theorem Kept.execDigStart {unit slot acc : Nat} {cfg : W64} (h : Kept s₀ s) : KeptOut s₀ (execDigStart unit slot acc cfg s) :=
  .ite (.next h) (.next (h.onPort (fun _ _ h1 => h1.startCtx)))

theorem Kept.execDigClose {unit slot acc : Nat} (h : Kept s₀ s) : KeptOut s₀ (execDigClose unit slot acc s) :=
  .next (h.onPort (fun _ _ h1 => h1.setCtx.leaveLane))

theorem Kept.afterWrite {u k : Nat} {before : Ctx} (h : Kept s₀ s) : Kept s₀ (afterWrite u k before s) :=
  .ite h.reportCtx h.wantLane

theorem Kept.execDigDataWrite {unit slot acc : Nat} {word : W64} (h : Kept s₀ s) :
    KeptOut s₀ (execDigDataWrite unit slot acc word s) := .next (h.onPort (fun _ _ h1 => h1.feedCtx.afterWrite))

theorem Kept.execDigLastWrite {unit slot acc : Nat} {word : W64} {valid : Nat} (h : Kept s₀ s) :
    KeptOut s₀ (execDigLastWrite unit slot acc word valid s) :=
  .next (h.onPort (fun _ _ h1 => .afterWrite (.ite h1.failCtx h1.feedCtx)))

theorem Kept.countDigest {u i : Nat} {bad : Bool} (h : Kept s₀ s) : Kept s₀ (countDigest u i bad s) := h.setDgu.addDgu.addDgu

theorem Kept.digestEnd {slot : Nat} {out : List Byte} (h : Kept s₀ s) : Kept s₀ (digestEnd slot out s) := by
  unfold Machine.digestEnd
  split
  · exact h
  · exact h.modDigest.succeed

theorem Kept.execDigFinish {unit : Nat} {slot : DigFinished} (h : Kept s₀ s) : KeptOut s₀ (execDigFinish unit slot s) := by
  unfold Machine.execDigFinish
  refine .ite (.next h) ?_
  refine .ite (.next h.countDigest.chargeLane.failCtxCmp.reportCtx) ?_
  split
  · split
    · exact .next h.countDigest.chargeLane.setCtx.leaveLane.digestEnd
    · exact .next h.countDigest.chargeLane.setCtx.leaveLane
  · split
    · exact .next h.countDigest.chargeLane.setCtx.leaveLane.digestEnd
    · exact .next h.countDigest.chargeLane.setCtx.leaveLane

theorem Kept.execDguLaneGrant {unit slot : Nat} (h : Kept s₀ s) : KeptOut s₀ (execDguLaneGrant unit slot s) :=
  .ite (.next h) (.next h.serveLane)

theorem Kept.execDguQuantumExpiry {unit : Nat} (h : Kept s₀ s) : KeptOut s₀ (execDguQuantumExpiry unit s) :=
  .ite (.next h.enterDgu)
    (.next (.forEach (.setDgu (h.enterDgu.forEach (fun _ _ h1 => h1.chargeLane))) (fun _ _ h1 => h1.serveLane)))

theorem Kept.execRotAlarm {sensor : Nat} (h : Kept s₀ s) : KeptOut s₀ (execRotAlarm sensor s) := .ite (.next h) (.next h.rotAlarm)

theorem Kept.readsDone {slot : Nat} (h : Kept s₀ s) : Kept s₀ (readsDone slot s) := by
  unfold Machine.readsDone
  refine .ite h ?_
  split
  · exact h
  · exact .ite h (.ite h.endIfFailed (.ite h.storeFeed h.storeReadsDone))

theorem Kept.execExtentReadDone {id : Nat} {data : Option (List Byte)} (h : Kept s₀ s) :
    KeptOut s₀ (execExtentReadDone id data s) := by
  unfold Machine.execExtentReadDone
  split
  · exact .next h
  · split
    · exact .next h.nvmeError
    · exact .next h.dropNvme
    · refine .ite (.next h.setSsd.readLost) ?_
      split
      · exact .next h.setSsd.dropNvme.healCopy
      · exact .next h.setSsd.dropNvme.healCopy.fillSnap.readsDone

end

end Sys2Proof.Machine
end

section
/-!
PROOFS. What every command keeps, continued: plans, queries and operators. Each lemma follows the branches of its function.
-/

namespace Sys2Proof.Machine

section
-- Each of these short lemmas would else wait in a thread of its own for the long proofs before it.
set_option Elab.async false
variable {s₀ s t : State}

/-! ## PlanLoad -/

theorem Kept.writeImage {i id uid k : Nat} {a : AutoImg} {u : Nat} (h : Kept s₀ s) : Kept s₀ (writeImage i id uid k a u s) := by
  unfold Machine.writeImage
  dsimp only
  split
  · exact h
  · exact h.setCmu

theorem Kept.writeImages {i id : Nat} {p : Plan} (h : Kept s₀ s) : Kept s₀ (writeImages i id p s) :=
  h.forEach (fun _ _ h1 => h1.forBelow (fun _ _ h2 => h2.writeImage))

theorem Kept.loadImage {key i id opt : Nat} {img pb : List Byte} (h : Kept s₀ s) : Kept s₀ (loadImage key i id opt img pb s) := by
  unfold Machine.loadImage
  split
  · exact h.endPlan
  · exact .ite h.writeImages.dropImages.endPlan
      (.ite h.writeImages.setInst.allocMany.setInst.failPlan h.writeImages.setInst.allocMany.setInst.distribute.mbxPagesDone)

theorem Kept.execPlanLoad {fn : Nat} {host host2 : Option (List Byte)} (h : Kept s₀ s) :
    KeptOut s₀ (execPlanLoad fn host host2 s) := by
  unfold Machine.execPlanLoad
  refine .next ?_
  refine .onMbx h ?_
  intro _ _ h1
  split
  · exact h1.mbxBad
  · split
    · dsimp only
      split
      · exact h1.endMbx
      · exact h1.endMbx
      · refine .mbxRead h1 ?_
        intro _ h2
        split
        · exact h2.modMbx.loadImage
        · exact h2.mbxErr
    · dsimp only
      split
      · exact h1.endMbx
      · exact h1.endMbx
      · refine .mbxRead h1 ?_
        intro _ h2
        split
        · exact h2.modMbx.loadImage
        · exact h2.mbxErr

theorem Kept.execPlanUnload {fn : Nat} (h : Kept s₀ s) : KeptOut s₀ (execPlanUnload fn s) :=
  .next (h.onMbx (fun _ _ h1 => .ite h1.mbxErr h1.modMbx.unbindPlan.reapPlans.distribute.finishPlan))

theorem Kept.unholdPlan {inst plan : Nat} (h : Kept s₀ s) : Kept s₀ (unholdPlan inst plan s) := h.upd

theorem Kept.execPlanReload {inst plan : Nat} (h : Kept s₀ s) : KeptOut s₀ (execPlanReload inst plan s) := by
  unfold Machine.execPlanReload
  refine .ite (.next h) ?_
  dsimp only
  split
  · exact .next h.unholdPlan
  · exact .ite (.next h.unholdPlan.unbindPlan.reapPlans.fwEvent) (.next h.unholdPlan)

/-! ## Areas -/

theorem Kept.takePage {slot i die : Nat} (h : Kept s₀ s) : Kept s₀ (takePage slot i die s).2 := by
  unfold Machine.takePage
  split
  · dsimp only
    exact h
  · split
    · dsimp only
      exact h
    · dsimp only
      exact .modCmd (.setLeaf (.ite h.takeFrame.wipeFrame.setFrame h.takeFrame))

theorem Kept.takePages {slot i die a : Nat} (h : Kept s₀ s) : Kept s₀ (takePages slot i die a s).2 := by
  induction a generalizing slot i die s with
  | zero =>
    unfold Machine.takePages
    dsimp only
    exact h
  | succ n ih =>
    unfold Machine.takePages
    split
    · rename_i he
      dsimp only
      exact .of_snd h.takePage he
    · rename_i he
      split
      · rename_i he1
        dsimp only
        exact .of_snd (ih (.of_snd h.takePage he)) he1
      · rename_i he1
        dsimp only
        exact .of_snd (ih (.of_snd h.takePage he)) he1

theorem Kept.releasePages {slot i : Nat} {ps : List Nat} (h : Kept s₀ s) : Kept s₀ (releasePages slot i ps s) :=
  .modCmd (h.forEach (fun _ _ h1 => h1.unmapPage))

theorem Kept.growArea {slot i die : Nat} {k : AreaKind} {id n : Nat} {p : PipeRun} (h : Kept s₀ s) :
    Kept s₀ (growArea slot i die k id n p s).2 := by
  unfold Machine.growArea
  dsimp only
  split
  · rename_i he
    dsimp only
    exact .of_snd h.takePages he
  · rename_i he
    dsimp only
    exact .of_snd h.takePages he

theorem Kept.areaWrite {i : Nat} {a : Area} {a1 a2 : Nat} {a3 : List Byte} (h : Kept s₀ s) :
    Kept s₀ (Area.write i a a1 a2 a3 s).2 := by
  induction a1 generalizing i a a2 a3 s with
  | zero =>
    unfold Machine.Area.write
    dsimp only
    exact h
  | succ n ih =>
    unfold Machine.Area.write
    dsimp only
    split
    · dsimp only
      exact h
    · split
      · rename_i he1
        dsimp only
        exact .of_snd h.devWriteN he1
      · rename_i he1
        exact ih (.of_snd h.devWriteN he1)

theorem Kept.areaPut {i : Nat} {a : Area} {off : Nat} {d : List Byte} (h : Kept s₀ s) : Kept s₀ (Area.put i a off d s).2 :=
  h.areaWrite

theorem Kept.areaRead {i : Nat} {a : Area} {a1 a2 a3 : Nat} (h : Kept s₀ s) : Kept s₀ (Area.read i a a1 a2 a3 s).2 := by
  induction a1 generalizing i a a2 a3 s with
  | zero =>
    unfold Machine.Area.read
    dsimp only
    exact h
  | succ n ih =>
    unfold Machine.Area.read
    dsimp only
    split
    · dsimp only
      exact h
    · split
      · rename_i he1
        dsimp only
        exact .of_snd_snd h.devReadN he1
      · rename_i he1
        split
        · rename_i he2
          dsimp only
          exact .of_snd (ih (.of_snd_snd h.devReadN he1)) he2
        · rename_i he2
          dsimp only
          exact .of_snd (ih (.of_snd_snd h.devReadN he1)) he2

theorem Kept.areaReadAll {i : Nat} {a : Area} (h : Kept s₀ s) : Kept s₀ (Area.readAll i a s).2 := h.areaRead

theorem Kept.appendArea {slot i die : Nat} {k : AreaKind} {id : Nat} {d : List Byte} {p : PipeRun} (h : Kept s₀ s) :
    Kept s₀ (appendArea slot i die k id d p s).2 := by
  unfold Machine.appendArea
  split
  · rename_i he
    dsimp only
    exact .of_snd h.growArea he
  · rename_i he
    dsimp only
    split
    · rename_i he1
      dsimp only
      exact .of_snd (.areaPut (.of_snd h.growArea he)) he1
    · rename_i he1
      dsimp only
      exact .of_snd (.areaPut (.of_snd h.growArea he)) he1

theorem Kept.freeArea {slot i : Nat} {k : AreaKind} {id : Nat} {p : PipeRun} (h : Kept s₀ s) :
    Kept s₀ (freeArea slot i k id p s).2 := h.releasePages

/-! ## QueryOps -/

theorem Kept.modQuery {slot : Nat} {f : QueryRun → QueryRun} (h : Kept s₀ s) : Kept s₀ (modQuery slot f s) := h.modCmd

theorem Kept.modPipe {slot n : Nat} {f : PipeRun → PipeRun} (h : Kept s₀ s) : Kept s₀ (modPipe slot n f s) := h.modQuery

theorem Kept.startPass {slot n : Nat} (h : Kept s₀ s) : Kept s₀ (startPass slot n s) := by
  unfold Machine.startPass
  split
  · exact h
  · split
    · exact h
    · exact .ite h h.modPipe.addCursor

theorem Kept.modFan {slot : Nat} {f : Fan → Fan} (h : Kept s₀ s) : Kept s₀ (modFan slot f s) := h.upd

theorem Kept.reportUp {slot n : Nat} (h : Kept s₀ s) : Kept s₀ (reportUp slot n s) := by
  unfold Machine.reportUp
  split
  · split
    · exact h
    · exact .ite h h.modFan.sendFrame
  · exact h

theorem Kept.reportAll {slot : Nat} (h : Kept s₀ s) : Kept s₀ (reportAll slot s) := by
  unfold Machine.reportAll
  split
  · exact h.forEach fun _ _ h1 => h1.reportUp
  · exact h

theorem Kept.sendEnd {slot n : Nat} {c : Cmd} {q : QueryRun} (h : Kept s₀ s) : Kept s₀ (sendEnd slot n c q s) := by
  unfold Machine.sendEnd
  split
  · exact h.modPipe
  · refine .reportUp ?_
    refine .ite h.modPipe ?_
    refine .forEach h.modPipe ?_
    intro _ _ h1
    split
    · exact .ite h1 h1.sendFrame
    · exact h1

theorem Kept.exchangeEnd {slot n : Nat} {itemsEnded : Bool} (h : Kept s₀ s) : Kept s₀ (exchangeEnd slot n itemsEnded s) := by
  unfold Machine.exchangeEnd
  split
  · exact h
  · split
    · exact h
    · exact .ite h h.sendEnd

theorem Kept.itemsDone {slot n : Nat} (h : Kept s₀ s) : Kept s₀ (itemsDone slot n s) := by
  unfold Machine.itemsDone
  split
  · exact h
  · split
    · exact h
    · split
      · exact h.modPipe
      · exact h.modPipe.addCursor
      · exact h.startPass
      · exact h.exchangeEnd
      · exact h

theorem Kept.takeFlows {slot : Nat} {c : Cmd} {q : QueryRun} (h : Kept s₀ s) : Kept s₀ (takeFlows slot c q s) := h.modQuery.upd

theorem Kept.startPipe {slot n : Nat} {q : QueryRun} (h : Kept s₀ s) : Kept s₀ (startPipe slot n q s) :=
  .ite h.modPipe.itemsDone h.modPipe.addCursor

theorem Kept.joinPipes {a a1 : Nat} (h : Kept s₀ s) : Kept s₀ (joinPipes a a1 s) := by
  induction a generalizing a1 s with
  | zero =>
    unfold Machine.joinPipes
    exact h
  | succ n ih =>
    unfold Machine.joinPipes
    dsimp only
    split
    · exact h
    · split
      · exact h
      · exact .ite (.ite (ih h.takeFlows.startPipe) h.modCmd.upd) (ih h.startPipe)

theorem Kept.writeOut {c : Cmd} {o : OutRun} {off : Nat} {d : List Byte} (h : Kept s₀ s) : Kept s₀ (writeOut c o off d s).2 := by
  unfold Machine.writeOut
  split
  · dsimp only
    exact h.hostWriteFor.addCounter
  · split
    · exact h.devWriteN
    · dsimp only
      exact h

theorem Kept.writeIncomplete {slot : Nat} {c : Cmd} {q : QueryRun} (h : Kept s₀ s) : Kept s₀ (writeIncomplete slot c q s).2 := by
  unfold Machine.writeIncomplete
  dsimp only
  refine .modQuery ?_
  refine .forEachSnd h ?_
  intro _ _ h1
  split
  · exact h1
  · exact h1.writeOut

theorem Kept.endWritten {slot : Nat} {r0 : W64} (h : Kept s₀ s) : Kept s₀ (endWritten slot r0 s) := .ite h.modCmd h.succeed

theorem Kept.finishPoint {slot : Nat} {c : Cmd} {q : QueryRun} (h : Kept s₀ s) : Kept s₀ (finishPoint slot c q s) := by
  unfold Machine.finishPoint
  split
  · exact h.succeed
  · split
    · exact h.succeed
    · exact .ite h.modCmd.succeed h.modCmd.hostWriteFor.addCounter.endWritten

theorem Kept.writeOutputs {slot : Nat} {c : Cmd} {q : QueryRun} {a : List OutRun} (h : Kept s₀ s) :
    Kept s₀ (writeOutputs slot c q a s).2 := by
  induction a generalizing slot c q s with
  | nil =>
    unfold Machine.writeOutputs
    dsimp only
    exact h
  | cons b l ih =>
    unfold Machine.writeOutputs
    dsimp only
    split
    · exact ih h.writeOut
    · dsimp only
      exact h.writeOut.presentOutcome

theorem Kept.stageOutputs {slot : Nat} {c : Cmd} {q : QueryRun} (h : Kept s₀ s) : Kept s₀ (stageOutputs slot c q s) := h.modQuery

theorem Kept.finishQuery {slot : Nat} {c : Cmd} {q : QueryRun} (h : Kept s₀ s) : Kept s₀ (finishQuery slot c q s) := by
  unfold Machine.finishQuery
  refine .ite h.succeed ?_
  refine .ite h.finishPoint ?_
  split
  · exact h.presentOutcome
  · refine .ite h.modCmd.upd ?_
    split
    · rename_i he1
      exact .presentOutcome (.of_snd h.stageOutputs.writeIncomplete he1)
    · rename_i he1
      exact .ite (.endWritten (.writeOutputs (.of_snd h.stageOutputs.writeIncomplete he1)))
        (.writeOutputs (.of_snd h.stageOutputs.writeIncomplete he1))

theorem Kept.middleEnd {slot : Nat} (h : Kept s₀ s) : Kept s₀ (middleEnd slot s) := by
  unfold Machine.middleEnd
  split
  · exact h
  · exact .ite h.sendEnd h

theorem Kept.settle {slot : Nat} (h : Kept s₀ s) : Kept s₀ (settle slot s) := by
  unfold Machine.settle
  dsimp only
  split
  · exact h.joinPipes.middleEnd
  · exact .ite h.joinPipes.middleEnd.finishQuery h.joinPipes.middleEnd

/-! ## Query -/

theorem Kept.startPipes {slot : Nat} (h : Kept s₀ s) : Kept s₀ (startPipes slot s) := by
  unfold Machine.startPipes
  split
  · exact h
  · split
    · exact h
    · exact h.modQuery.setPhase.settle

theorem Kept.readInput {slot : Nat} {r0 : Option W64} {c : Cmd} {x : InputRun} {es : List Nat} (h : Kept s₀ s) :
    Kept s₀ (readInput slot r0 c x es s) := by
  unfold Machine.readInput
  split
  · exact h
  · exact h.readExtents

theorem Kept.readDirectories {slot : Nat} (h : Kept s₀ s) : Kept s₀ (readDirectories slot s) := by
  unfold Machine.readDirectories
  split
  · exact .ite h.startPipes (h.setPhase.forEach (fun _ _ h1 => .ite h1.readInput h1))
  · exact h

theorem Kept.tryQuery {slot : Nat} (h : Kept s₀ s) : Kept s₀ (tryQuery slot s) := by
  unfold Machine.tryQuery
  split
  · exact h
  · split
    · exact h
    · exact .ite h (.ite h.failCmd h.modQuery.readDirectories)

theorem Kept.sendFanout {c : Cmd} {xid : Nat} {pb : List Byte} (h : Kept s₀ s) : Kept s₀ (sendFanout c xid pb s) :=
  h.forEach fun _ _ h1 => h1.sendFrame

theorem Kept.beginFan {slot : Nat} {c : Cmd} {q : QueryRun} {pb : List Byte} (h : Kept s₀ s) :
    Kept s₀ (beginFan slot c q pb s) := .ite (.ite h h.sendFanout) (.ite h h.upd.modQuery.sendFanout)

theorem Kept.startBlock {slot : Nat} {pb : List Byte} (h : Kept s₀ s) : Kept s₀ (startBlock slot pb s) := by
  unfold Machine.startBlock
  split
  · exact h
  · split
    · exact h
    · exact .ite h.failCmd (.ite h.modQuery.beginFan.setPhase.tryQuery h.modQuery.beginFan.readDirectories)

theorem Kept.onQuery {slot opc : Nat} {desc : Cmd → Plan → Option Nat} {f : Cmd → QueryRun → State → State} (h : Kept s₀ s)
    (hf : ∀ a a1 t, Kept s₀ t → Kept s₀ (f a a1 t)) :
    Kept s₀ (onQuery slot opc desc f s) := by
  unfold Machine.onQuery
  refine .onHanded h ?_
  intro _ _ h1
  split
  · exact h1.failCmd
  · split
    · exact h1.failCmd
    · exact hf _ _ _ h1

theorem Kept.execQuery {slot : Nat} (h : Kept s₀ s) : KeptOut s₀ (execQuery slot s) :=
  .next (h.onQuery (fun _ _ _ h1 => .ite h1.startBlock h1.askHost))

theorem Kept.execQueryPoint {slot : Nat} (h : Kept s₀ s) : KeptOut s₀ (execQueryPoint slot s) :=
  .next (h.onQuery (fun _ _ _ h1 => h1.startBlock))

theorem Kept.execParamBlockReadDone {slot : Nat} {data : Option (List Byte)} (h : Kept s₀ s) :
    KeptOut s₀ (execParamBlockReadDone slot data s) := by
  unfold Machine.execParamBlockReadDone
  split
  · exact .next h
  · refine .ite (.next h) ?_
    split
    · exact .ite (.next h.failCmd) (.next h.startBlock)
    · exact .next h.failCmd

theorem Kept.readSource {c : Cmd} {x : InputRun} {a n : Nat} (h : Kept s₀ s) : Kept s₀ (readSource c x a n s).2 := by
  unfold Machine.readSource
  split
  · exact h.devReadN
  · split
    · dsimp only
      exact h
    · dsimp only
      exact h.addCounter

theorem Kept.loadDirectory {c : Cmd} {x : InputRun} (h : Kept s₀ s) : Kept s₀ (loadDirectory c x s).2 := by
  unfold Machine.loadDirectory
  split
  · rename_i he
    dsimp only
    exact .of_snd h.readSource he
  · rename_i he
    split
    · dsimp only
      exact .of_snd h.readSource he
    · dsimp only
      split
      · dsimp only
        exact .of_snd h.readSource he
      · split
        · rename_i he3
          dsimp only
          exact .of_snd (.readSource (.of_snd h.readSource he)) he3
        · rename_i he3
          dsimp only
          exact .of_snd (.readSource (.of_snd h.readSource he)) he3

theorem Kept.loadDirectories {c : Cmd} {used : InputRun → Bool} {l : List InputRun} (h : Kept s₀ s) :
    Kept s₀ (loadDirectories c used l s).2 := by
  induction l generalizing s with
  | nil => exact h
  | cons b l ih =>
    unfold Machine.loadDirectories
    have hr : Kept s₀ (if b.kind ≠ 3 ∧ used b then Machine.loadDirectory c b s else (some b, s)).2 := by
      split
      · exact h.loadDirectory
      · exact h
    dsimp only
    split
    next he => exact hr.of_snd he
    next he => exact ih (hr.of_snd he)

theorem Kept.execGroupDirectoryReadDone {slot : Nat} (h : Kept s₀ s) : KeptOut s₀ (execGroupDirectoryReadDone slot s) := by
  unfold Machine.execGroupDirectoryReadDone
  split
  · exact .next h
  · refine .ite (.next h) ?_
    split
    · exact .next h
    · split
      · rename_i he2
        exact .next (.failCmd (.of_snd h.loadDirectories he2))
      · rename_i he2
        exact .next (.startPipes (.modQuery (.of_snd h.loadDirectories he2)))

theorem Kept.execFlowIdWaitEnd {slot : Nat} (h : Kept s₀ s) : KeptOut s₀ (execFlowIdWaitEnd slot s) := by
  unfold Machine.execFlowIdWaitEnd
  split
  · exact .next h
  · split
    · exact .next h
    · exact .ite (.next h) (.next h.upd.setPhase.takeFlows.settle)

/-! ## Operators -/

theorem Kept.thenOk {α β : Type} {r : Except Nat α × State} {f : α → State → Except Nat β × State} (h : Kept s₀ r.2)
    (hf : ∀ a t, Kept s₀ t → Kept s₀ (f a t).2) :
    Kept s₀ (thenOk r f).2 := by
  unfold Machine.thenOk
  split
  · exact h
  · exact hf _ _ h

theorem Kept.appendAll {it : Item} {k : AreaKind} {a : List (Nat × List Byte)} {a1 : PipeRun} (h : Kept s₀ s) :
    Kept s₀ (appendAll it k a a1 s).2 := by
  induction a generalizing it k a1 s with
  | nil =>
    unfold Machine.appendAll
    dsimp only
    exact h
  | cons b l ih =>
    unfold Machine.appendAll
    split
    · rename_i he
      dsimp only
      exact .of_snd h.appendArea he
    · rename_i he
      exact ih (.of_snd h.appendArea he)

theorem Kept.readAreas {i : Nat} {p : PipeRun} {k : AreaKind} {a : List Nat} (h : Kept s₀ s) :
    Kept s₀ (readAreas i p k a s).2 := by
  induction a generalizing i p k s with
  | nil =>
    unfold Machine.readAreas
    dsimp only
    exact h
  | cons b l ih =>
    unfold Machine.readAreas
    split
    · rename_i he
      dsimp only
      exact .of_snd h.areaReadAll he
    · rename_i he
      exact ih (.of_snd h.areaReadAll he)

theorem Kept.shuffle {α : Type} {a : Nat} {a1 : List α} (h : Kept s₀ s) : Kept s₀ (shuffle a a1 s).2 := by
  induction a generalizing a1 s with
  | zero =>
    unfold Machine.shuffle
    dsimp only
    exact h
  | succ n ih =>
    unfold Machine.shuffle
    dsimp only
    split
    · dsimp only
      exact h
    · split
      · exact h.freshNat
      · exact ih h.freshNat

theorem Kept.readChunk {it : Item} {x : InputRun} {icol k : Nat} (h : Kept s₀ s) : Kept s₀ (readChunk it x icol k s).2 := by
  unfold Machine.readChunk
  split
  · dsimp only
    split
    · split
      · dsimp only
        exact h
      · dsimp only
        exact h
    · dsimp only
      exact h
  · split
    · dsimp only
      split
      · rename_i he2
        dsimp only
        exact .of_snd_snd h.devReadN he2
      · rename_i he2
        dsimp only
        exact .of_snd_snd h.devReadN he2
    · dsimp only
      split
      · dsimp only
        exact h
      · dsimp only
        exact h.addCounter

theorem Kept.stageChunk {it : Item} {b : List Byte} (h : Kept s₀ s) : Kept s₀ (stageChunk it b s).2 := by
  unfold Machine.stageChunk
  refine .thenOk h.takePages ?_
  intro _ _ h1
  dsimp only
  split
  · rename_i he
    dsimp only
    exact .of_snd h1.areaPut he
  · rename_i he
    exact .thenOk (.areaReadAll (.of_snd h1.areaPut he)) fun _ _ h2 => h2

theorem Kept.readChunks {it : Item} {x : InputRun} {room : Nat} {ps : List Nat} {l : List (Nat × Nat)} (h : Kept s₀ s) :
    Kept s₀ (readChunks it x room ps l s).2 := by
  induction l generalizing room ps s with
  | nil => exact h
  | cons b l ih =>
    unfold Machine.readChunks
    dsimp only
    split
    next he => exact .of_snd h.readChunk he
    next a t he =>
      have ht : Kept s₀ t := .of_snd h.readChunk he
      have hr : Kept s₀ (if (decide (x.kind = 1) || decide (a.bytes.length ≤ room)) = true then (.ok [], t)
          else Machine.stageChunk it a.bytes t).2 := by
        split
        · exact ht
        · exact ht.stageChunk
      split
      next he => exact hr.of_snd he
      next he =>
        split
        next he' => exact (ih (hr.of_snd he)).of_snd he'
        next he' => exact (ih (hr.of_snd he)).of_snd he'

theorem Kept.scanInput {it : Item} {cols : List ScanCol} {q : QueryRun} (h : Kept s₀ s) : Kept s₀ (scanInput it cols q s).2 := by
  unfold Machine.scanInput
  split
  · dsimp only
    exact h
  · split
    · split
      · dsimp only
        split
        · rename_i he3
          dsimp only
          exact .of_snd h.readChunks he3
        · rename_i he3
          split
          · dsimp only
            exact .of_snd h.readChunks he3
          · split
            · dsimp only
              exact .of_snd h.readChunks he3
            · split
              · dsimp only
                exact .of_snd h.readChunks he3
              · split
                · dsimp only
                  exact .of_snd h.readChunks he3
                · dsimp only
                  exact .addCounter (.releasePages (.of_snd h.readChunks he3))
      · split
        · dsimp only
          split
          · rename_i he4
            dsimp only
            exact .of_snd h.readChunks he4
          · rename_i he4
            dsimp only
            exact .of_snd h.readChunks he4
        · split
          · dsimp only
            split
            · rename_i he5
              dsimp only
              exact .of_snd h.readChunks he5
            · rename_i he5
              split
              · dsimp only
                exact .of_snd h.readChunks he5
              · split
                · dsimp only
                  exact .of_snd h.readChunks he5
                · dsimp only
                  exact .of_snd h.readChunks he5
          · dsimp only
            split
            · rename_i he5
              dsimp only
              exact .of_snd h.readChunks he5
            · rename_i he5
              split
              · dsimp only
                exact .of_snd h.readChunks he5
              · split
                · dsimp only
                  exact .of_snd h.readChunks he5
                · dsimp only
                  exact .addCounter (.releasePages (.of_snd h.readChunks he5))
    · split
      · dsimp only
        split
        · rename_i he3
          dsimp only
          exact .of_snd h.readChunks he3
        · rename_i he3
          split
          · dsimp only
            exact .of_snd h.readChunks he3
          · split
            · dsimp only
              exact .of_snd h.readChunks he3
            · split
              · dsimp only
                exact .of_snd h.readChunks he3
              · split
                · dsimp only
                  exact .of_snd h.readChunks he3
                · dsimp only
                  exact .addCounter (.releasePages (.of_snd h.readChunks he3))
      · split
        · dsimp only
          split
          · rename_i he4
            dsimp only
            exact .of_snd h.readChunks he4
          · rename_i he4
            dsimp only
            exact .of_snd h.readChunks he4
        · split
          · dsimp only
            split
            · rename_i he5
              dsimp only
              exact .of_snd h.readChunks he5
            · rename_i he5
              split
              · dsimp only
                exact .of_snd h.readChunks he5
              · split
                · dsimp only
                  exact .of_snd h.readChunks he5
                · dsimp only
                  exact .of_snd h.readChunks he5
          · dsimp only
            split
            · rename_i he5
              dsimp only
              exact .of_snd h.readChunks he5
            · rename_i he5
              split
              · dsimp only
                exact .of_snd h.readChunks he5
              · split
                · dsimp only
                  exact .of_snd h.readChunks he5
                · dsimp only
                  exact .addCounter (.releasePages (.of_snd h.readChunks he5))

theorem Kept.probeRows {f : Row → Option (List Row × List Nat)} {a : List Row} (h : Kept s₀ s) : Kept s₀ (probeRows f a s).2 := by
  induction a generalizing s with
  | nil =>
    unfold Machine.probeRows
    dsimp only
    exact h
  | cons b l ih =>
    unfold Machine.probeRows
    dsimp only
    split
    · dsimp only
      exact h
    · exact ih h.shuffle

theorem Kept.probeBatches {f : Row → Option (List Row × List Nat)} {a : List Batch} (h : Kept s₀ s) :
    Kept s₀ (probeBatches f a s).2 := by
  induction a generalizing s with
  | nil =>
    unfold Machine.probeBatches
    dsimp only
    exact h
  | cons b l ih =>
    unfold Machine.probeBatches
    dsimp only
    split
    · rename_i he
      dsimp only
      exact .of_snd h.probeRows he
    · rename_i he
      exact ih (.of_snd h.probeRows he)

theorem Kept.searchUnit {it : Item} {mmode tsrc : Nat} {q : QueryRun} (h : Kept s₀ s) :
    Kept s₀ (searchUnit it mmode tsrc q s).2 := by
  unfold Machine.searchUnit
  split
  · dsimp only
    exact h
  · split
    · dsimp only
      exact h
    · exact h.choose

theorem Kept.lateBurst {it : Item} {k : Nat} {o : OpEnt} {mmode tsrc : Nat} {keys : List (List Byte)} {q : QueryRun}
    (h : Kept s₀ s) :
    Kept s₀ (lateBurst it k o mmode tsrc keys q s).2.2 := by
  unfold Machine.lateBurst
  dsimp only
  split
  next he => exact h.searchUnit.of_snd he
  next u t he =>
    have ht : Kept s₀ t := h.searchUnit.of_snd he
    split
    · exact ht
    split
    · exact ht
    split
    · exact ht.enterCmu.burstGrant
    split
    · exact ht.enterCmu.burstGrant
    next he => exact ht.enterCmu.burstGrant.burstTurn he

theorem Kept.lateBursts {it : Item} {k : Nat} {o : OpEnt} {mmode tsrc : Nat} {key : Row → Option (List Byte)} {a : List Batch}
    {a1 : List BurstRes} {a2 : QueryRun} (h : Kept s₀ s) :
    Kept s₀ (lateBursts it k o mmode tsrc key a a1 a2 s).2.2 := by
  induction a generalizing it k o mmode tsrc a1 a2 s with
  | nil =>
    unfold Machine.lateBursts
    dsimp only
    exact h
  | cons b l ih =>
    unfold Machine.lateBursts
    dsimp only
    split
    · exact ih h
    · split
      · exact h.lateBurst
      · exact ih h.lateBurst

theorem Kept.matchItem {it : Item} {k : Nat} {o : OpEnt} {env : Env} {mmode mkind tsrc hc rc pc : Nat} {fields : List MatchField}
    {bs : List Batch} {q : QueryRun} (h : Kept s₀ s) :
    Kept s₀ (matchItem it k o env mmode mkind tsrc hc rc pc fields bs q s).2.2 := by
  unfold Machine.matchItem
  dsimp only
  split
  · rename_i he
    dsimp only
    exact .of_snd_snd h.lateBursts he
  · rename_i he
    split
    · dsimp only
      exact .of_snd_snd h.lateBursts he
    · dsimp only
      exact .of_snd_snd h.lateBursts he

theorem Kept.sortRows {keys : List KeyEnt} {stable : Bool} {pays : List Nat} {item : Nat} {a : List (Row × Nat)} (h : Kept s₀ s) :
    Kept s₀ (sortRows keys stable pays item a s).2 := by
  induction a generalizing keys stable pays item s with
  | nil =>
    unfold Machine.sortRows
    dsimp only
    exact h
  | cons b l ih =>
    unfold Machine.sortRows
    dsimp only
    split
    · exact ih h
    · exact ih h.freshNat

theorem Kept.topkRows {env : Env} {keys : List KeyEnt} {stable : Bool} {k : Nat} {bs : List Batch} (h : Kept s₀ s) :
    Kept s₀ (topkRows env keys stable k bs s).2 := by
  unfold Machine.topkRows
  split
  · dsimp only
    exact h
  · exact h.sortRows

theorem Kept.readRuns {i rl : Nat} {p : PipeRun} {a : List SortRun} (h : Kept s₀ s) : Kept s₀ (readRuns i rl p a s).2 := by
  induction a generalizing i rl p s with
  | nil =>
    unfold Machine.readRuns
    dsimp only
    exact h
  | cons b l ih =>
    unfold Machine.readRuns
    split
    · rename_i he
      dsimp only
      exact .of_snd h.areaReadAll he
    · rename_i he
      split
      · dsimp only
        exact .of_snd h.areaReadAll he
      · split
        · rename_i he2
          dsimp only
          exact .of_snd (ih (.of_snd h.areaReadAll he)) he2
        · rename_i he2
          dsimp only
          exact .of_snd (ih (.of_snd h.areaReadAll he)) he2

theorem Kept.writeRun {slot i die rl sort : Nat} {l : List SortRec} {p : PipeRun} (h : Kept s₀ s) :
    Kept s₀ (writeRun slot i die rl sort l p s).2 := by
  unfold Machine.writeRun
  split
  · rename_i he
    dsimp only
    exact .of_snd h.appendArea he
  · rename_i he
    dsimp only
    exact .of_snd h.appendArea he

theorem Kept.writeRuns {slot i die rl sort : Nat} {a : List (List SortRec)} {a1 : PipeRun} (h : Kept s₀ s) :
    Kept s₀ (writeRuns slot i die rl sort a a1 s).2 := by
  induction a generalizing slot i die rl sort a1 s with
  | nil =>
    unfold Machine.writeRuns
    dsimp only
    exact h
  | cons b l ih =>
    unfold Machine.writeRuns
    split
    · rename_i he
      dsimp only
      exact .of_snd h.writeRun he
    · rename_i he
      split
      · rename_i he1
        dsimp only
        exact .of_snd (ih (.of_snd h.writeRun he)) he1
      · rename_i he1
        dsimp only
        exact .of_snd (ih (.of_snd h.writeRun he)) he1

theorem Kept.freeRuns {slot i : Nat} {l : List SortRun} {p : PipeRun} (h : Kept s₀ s) : Kept s₀ (freeRuns slot i l p s).2 :=
  h.foldlSnd fun _ _ h1 => h1.freeArea

theorem Kept.readCell {i : Nat} {a : Area} {b : Ty} {start n k : Nat} (h : Kept s₀ s) :
    Kept s₀ (readCell i a b start n k s).2 := by
  unfold Machine.readCell
  refine .thenOk h.areaRead ?_
  intro _ _ h1
  split
  · dsimp only
    exact h1
  · split
    · exact h1.areaRead.thenOk (fun _ _ h2 => h2.areaRead.thenOk (fun _ _ h3 => h3))
    · split
      · exact h1.areaRead.thenOk fun _ _ h2 => h2
      · exact h1.areaRead.thenOk fun _ _ h2 => h2

theorem Kept.readCells {i : Nat} {a : Area} {n k : Nat} {a1 : List (Ty × Nat)} (h : Kept s₀ s) :
    Kept s₀ (readCells i a n k a1 s).2 := by
  induction a1 generalizing i a n k s with
  | nil =>
    unfold Machine.readCells
    dsimp only
    exact h
  | cons b l ih =>
    unfold Machine.readCells
    exact h.readCell.thenOk (fun _ _ h1 => .thenOk (ih h1) (fun _ _ h2 => h2))

theorem Kept.readRows {i : Nat} {tys : List Ty} {nkeys : Nat} {p : PipeRun} {a : List Nat} (h : Kept s₀ s) :
    Kept s₀ (readRows i tys nkeys p a s).2 := by
  induction a generalizing i tys nkeys p s with
  | nil =>
    unfold Machine.readRows
    dsimp only
    exact h
  | cons b l ih =>
    unfold Machine.readRows
    dsimp only
    split
    · exact ih h
    · exact h.readCells.thenOk (fun _ _ h1 => .thenOk (ih h1) (fun _ _ h2 => h2))

/-! ## ItemRun -/

theorem Kept.groupOrder {flow : Bool} {gs : List AggGroup} (h : Kept s₀ s) : Kept s₀ (groupOrder flow gs s).2 := by
  unfold Machine.groupOrder
  split
  · exact h.foldlSnd fun _ _ h1 => h1.shuffle
  · exact h.shuffle

theorem Kept.finalRows {it : Item} {single flow : Bool} {src : Nat} {keys : List (Nat × Nat × Nat)} {fns : List AggFn}
    {q : QueryRun} (h : Kept s₀ s) :
    Kept s₀ (finalRows it single flow src keys fns q s).2 := by
  unfold Machine.finalRows
  split
  · exact h.groupOrder
  · dsimp only
    exact h

theorem Kept.sortItem {it : Item} {env : Env} {keys : List KeyEnt} {stable : Bool} {pays : List Nat} {limit : Nat}
    {bs : List Batch} {q : QueryRun} (h : Kept s₀ s) :
    Kept s₀ (sortItem it env keys stable pays limit bs q s).2.2 := by
  unfold Machine.sortItem
  dsimp only
  split
  · dsimp only
    exact h
  · split
    · rename_i he1
      dsimp only
      exact .of_snd h.sortRows.appendAll he1
    · rename_i he1
      split
      · split
        · rename_i he3
          dsimp only
          exact .of_snd (.writeRun (.of_snd h.sortRows.appendAll he1)) he3
        · rename_i he3
          dsimp only
          exact .of_snd (.writeRun (.of_snd h.sortRows.appendAll he1)) he3
      · split
        · rename_i he3
          dsimp only
          exact .of_snd (.writeRuns (.of_snd h.sortRows.appendAll he1)) he3
        · rename_i he3
          dsimp only
          exact .of_snd (.writeRuns (.of_snd h.sortRows.appendAll he1)) he3

theorem Kept.storeReceived {it : Item} {tys : List Ty} {rows : List (Nat × List Val)} {p : PipeRun} (h : Kept s₀ s) :
    Kept s₀ (storeReceived it tys rows p s).2 := h.appendAll

theorem Kept.exchangeBatch {it : Item} {env : Env} {mode nlocal : Nat} {keys : List KeyEnt} {cols : List Nat} {b : Batch}
    {p : PipeRun} (h : Kept s₀ s) :
    Kept s₀ (exchangeBatch it env mode nlocal keys cols b p s).2 := by
  unfold Machine.exchangeBatch
  dsimp only
  split
  · rename_i he
    dsimp only
    exact .of_snd h.storeReceived he
  · rename_i he
    dsimp only
    exact .of_snd h.storeReceived he

theorem Kept.exchangeItem {it : Item} {env : Env} {mode nlocal : Nat} {keys : List KeyEnt} {cols : List Nat} {a : List Batch}
    {a1 : PipeRun} (h : Kept s₀ s) :
    Kept s₀ (exchangeItem it env mode nlocal keys cols a a1 s).2 := by
  induction a generalizing it env mode nlocal keys cols a1 s with
  | nil =>
    unfold Machine.exchangeItem
    dsimp only
    exact h
  | cons b l ih =>
    unfold Machine.exchangeItem
    split
    · rename_i he
      dsimp only
      exact .of_snd h.exchangeBatch he
    · rename_i he
      exact ih (.of_snd h.exchangeBatch he)

theorem Kept.emitItem {it : Item} {k : Nat} {cols : List (Nat × Nat)} {bs : List Batch} {q : QueryRun} (h : Kept s₀ s) :
    Kept s₀ (emitItem it k cols bs q s).2.2 := by
  unfold Machine.emitItem
  split
  · dsimp only
    exact h
  · dsimp only
    split
    · dsimp only
      exact h
    · dsimp only
      exact h

theorem Kept.buildItem {it : Item} {env : Env} {keys : List KeyEnt} {pays : List Nat} {npart : Nat} {bs : List Batch}
    {q : QueryRun} (h : Kept s₀ s) :
    Kept s₀ (buildItem it env keys pays npart bs q s).2.2 := by
  unfold Machine.buildItem
  dsimp only
  split
  · dsimp only
    exact h
  · split
    · rename_i he1
      dsimp only
      exact .of_snd h.appendAll he1
    · rename_i he1
      dsimp only
      exact .of_snd h.appendAll he1

theorem Kept.finalItem {it : Item} {q : QueryRun} (h : Kept s₀ s) : Kept s₀ (finalItem it q s).2.2 := by
  unfold Machine.finalItem
  dsimp only
  split
  · rename_i he
    dsimp only
    exact .of_snd h.areaReadAll he
  · rename_i he
    split
    · rename_i he1
      dsimp only
      exact .of_snd (.appendAll (.freshBytes (.of_snd h.areaReadAll he))) he1
    · rename_i he1
      dsimp only
      exact .of_snd (.appendAll (.freshBytes (.of_snd h.areaReadAll he))) he1

theorem Kept.writeGroups {it : Item} {a : AggSet} {a1 : List AggGroup} {a2 : PipeRun} (h : Kept s₀ s) :
    Kept s₀ (writeGroups it a a1 a2 s).2 := by
  induction a1 generalizing it a a2 s with
  | nil =>
    unfold Machine.writeGroups
    dsimp only
    exact h
  | cons b l ih =>
    unfold Machine.writeGroups
    dsimp only
    split
    · rename_i he
      dsimp only
      exact .of_snd h.freshBytes.appendAll he
    · rename_i he
      exact ih (.of_snd h.freshBytes.appendAll he)

theorem Kept.stepOp {it : Item} {k : Nat} {env : Env} {o : OpEnt} {bs : List Batch} {q : QueryRun} (h : Kept s₀ s) :
    Kept s₀ (stepOp it k env o bs q s).2.2 := by
  unfold Machine.stepOp
  split
  · split
    · dsimp only
      exact h
    · split
      · dsimp only
        exact h
      · split
        · rename_i he3
          dsimp only
          exact .of_snd h.readAreas he3
        · rename_i he3
          dsimp only
          exact .of_snd h.readAreas he3
  · dsimp only
    split
    · dsimp only
      exact h
    · dsimp only
      exact h
  · dsimp only
    split
    · dsimp only
      exact h
    · dsimp only
      exact h
  · exact h.buildItem
  · split
    · dsimp only
      split
      · rename_i he2
        dsimp only
        exact .of_snd h.probeBatches he2
      · rename_i he2
        dsimp only
        exact .of_snd h.probeBatches he2
    · dsimp only
      split
      · rename_i he2
        dsimp only
        exact .of_snd h.probeBatches he2
      · rename_i he2
        dsimp only
        exact .of_snd h.probeBatches he2
  · exact h.matchItem
  · exact h.sortItem
  · exact h.topkRows
  · split
    · dsimp only
      split
      · rename_i he2
        dsimp only
        exact .of_snd h.readRows he2
      · rename_i he2
        dsimp only
        exact .of_snd h.readRows he2
    · dsimp only
      exact h
  · dsimp only
    split
    · rename_i he1
      dsimp only
      exact .of_snd h.writeGroups he1
    · rename_i he1
      dsimp only
      exact .of_snd h.writeGroups he1
  · dsimp only
    split
    · rename_i he1
      dsimp only
      exact .of_snd h.readAreas he1
    · rename_i he1
      split
      · rename_i he2
        dsimp only
        exact .of_snd (.finalRows (.of_snd h.readAreas he1)) he2
      · rename_i he2
        dsimp only
        exact .of_snd (.finalRows (.of_snd h.readAreas he1)) he2
  · dsimp only
    exact h
  · split
    · rename_i he1
      dsimp only
      exact .of_snd h.exchangeItem he1
    · rename_i he1
      dsimp only
      exact .of_snd h.exchangeItem he1
  · exact h.emitItem
  · split
    · dsimp only
      exact h
    · dsimp only
      exact h

theorem Kept.runOps {it : Item} {l : List (OpEnt × Nat)} {bs : List Batch} {q : QueryRun} (h : Kept s₀ s) :
    Kept s₀ (runOps it l bs q s).2.2 := by
  induction l generalizing bs q s with
  | nil => exact h
  | cons b l ih =>
    unfold Machine.runOps
    split
    next he => exact .of_snd_snd h.stepOp he
    next he => exact ih (.of_snd_snd h.stepOp he)

theorem Kept.runUpto {it : Item} {stop : Nat} {q : QueryRun} (h : Kept s₀ s) : Kept s₀ (runUpto it stop q s).2.2 := by
  unfold Machine.runUpto
  split
  · exact h.runOps
  · split
    · split
      · rename_i he2
        dsimp only
        exact .of_snd h.scanInput he2
      · rename_i he2
        exact .runOps (.of_snd h.scanInput he2)
    · exact h.runOps

theorem Kept.runItem {it : Item} {q : QueryRun} (h : Kept s₀ s) : Kept s₀ (runItem it q s).2.2 := by
  unfold Machine.runItem
  split
  · rename_i he
    dsimp only
    exact .of_snd_snd h.runUpto he
  · rename_i he
    dsimp only
    exact .of_snd_snd h.runUpto he

end

end Sys2Proof.Machine
end

section
/-!
PROOFS. What every command keeps, continued: power states, the dispatcher, merge units, queues, instances, firmware and resets. Each lemma follows the branches of its function.
-/

namespace Sys2Proof.Machine

section
-- Each of these short lemmas would else wait in a thread of its own for the long proofs before it.
set_option Elab.async false
variable {s₀ s t : State}

/-! ## Power -/

theorem Kept.execAdmissionRequest {units us level : Nat} {inst : Option Nat} {disc : Bool} {die : Option Nat} (h : Kept s₀ s) :
    KeptOut s₀ (execAdmissionRequest units us level inst disc die s) := .next h.requestGrant

theorem Kept.execGrantGiven (h : Kept s₀ s) : KeptOut s₀ (execGrantGiven s) := .next h.examineGrants

theorem Kept.execGrantRelease {id : Nat} (h : Kept s₀ s) : KeptOut s₀ (execGrantRelease id s) := .ite (.next h.endGrant) (.next h)

theorem Kept.execGrantExpiry {id : Nat} (h : Kept s₀ s) : KeptOut s₀ (execGrantExpiry id s) := by
  unfold Machine.execGrantExpiry
  split
  · exact .next h
  · exact .ite (.next h) (.ite (.next h.upd) (.next h.endGrant))

theorem Kept.execCapLimitRise (h : Kept s₀ s) : KeptOut s₀ (execCapLimitRise s) :=
  .ite (.next h) (.next (h.forBelow (fun _ _ h1 => h1.upd)))

theorem Kept.execThermalLimitRise {die : Nat} (h : Kept s₀ s) : KeptOut s₀ (execThermalLimitRise die s) :=
  .ite (.next h) (.next h.upd)

theorem Kept.execFrondClockStep {die : Nat} (h : Kept s₀ s) : KeptOut s₀ (execFrondClockStep die s) :=
  .ite (.next h) (.next h.upd)

theorem Kept.execQuadrantPark {quad : Nat} (h : Kept s₀ s) : KeptOut s₀ (execQuadrantPark quad s) := .ite (.next h.upd) (.next h)

theorem Kept.execIdle1Expiry (h : Kept s₀ s) : KeptOut s₀ (execIdle1Expiry s) := .ite (.next h.enterPs) (.next h)

theorem Kept.execIdle2Expiry (h : Kept s₀ s) : KeptOut s₀ (execIdle2Expiry s) :=
  .ite (.ite (.next h.enterPs) (.next h.upd)) (.next h)

theorem Kept.execIdle3Expiry (h : Kept s₀ s) : KeptOut s₀ (execIdle3Expiry s) := .ite (.next h.enterPs) (.next h)

theorem Kept.lowLinks (h : Kept s₀ s) : Kept s₀ (lowLinks s) := h.upd

theorem Kept.execPsEntryComplete (h : Kept s₀ s) : KeptOut s₀ (execPsEntryComplete s) :=
  .ite (.next h) (.next (.upd (.ite h.selfRefresh.lowLinks h)))

theorem Kept.execPsExitComplete (h : Kept s₀ s) : KeptOut s₀ (execPsExitComplete s) :=
  .ite (.next h) (.next (.upd (.ite (.upd (.ite h.leaveSelfRefresh h)) (.ite h.leaveSelfRefresh h))))

theorem Kept.sagDie {d : Nat} (h : Kept s₀ s) : Kept s₀ (sagDie d s) := h.upd

theorem Kept.execSupplyWarning {src : Nat} (h : Kept s₀ s) : KeptOut s₀ (execSupplyWarning src s) := by
  unfold Machine.execSupplyWarning
  refine .ite (.next h) (.next (.hawEventAll ?_))
  generalize ht : Machine.forBelow _ 8 _ = t
  refine .upd (?_ : Kept s₀ t)
  subst ht
  exact .forBelow (.forBelow (.forBelow (.upd (h.logEvent.forEach fun _ _ h1 => h1.chargeGrant)) fun _ _ h1 => h1.sagDie)
    fun _ _ h1 => h1.setCmu) fun _ _ h1 => .ite h1 h1.setSmu

theorem Kept.cmuStepFree {u : Nat} (h : Kept s₀ s) : Kept s₀ (cmuStepFree u s) := h.setCmu

theorem Kept.execSagClear (h : Kept s₀ s) : KeptOut s₀ (execSagClear s) := by
  unfold Machine.execSagClear
  refine .ite (.next h) (.next (.examineGrants ?_))
  generalize ht : Machine.forBelow _ 8 _ = t
  have hk : Kept s₀ t := by
    subst ht
    exact .forBelow (.forBelow (h.upd.forBelow fun _ _ h1 => h1.cmuStepFree) fun _ _ h1 => .ite h1 h1.setCmu)
      fun _ _ h1 => .ite h1 h1.setSmu
  exact .ite hk hk.upd

theorem Kept.execRefclkLoss (h : Kept s₀ s) : KeptOut s₀ (execRefclkLoss s) := .ite (.next h) (.next h.upd.rotAlarm)

theorem Kept.execRefclkReturn (h : Kept s₀ s) : KeptOut s₀ (execRefclkReturn s) := .next h.upd

theorem Kept.busyTick (h : Kept s₀ s) : Kept s₀ (busyTick s) :=
  .forBelow (h.forBelow (fun _ _ h1 => .ite h1 h1.setCmu)) fun _ _ h1 => .ite h1 h1.setSmu.advanceSmu

theorem Kept.addWin {eng : Bool} {k i n : Nat} (h : Kept s₀ s) : Kept s₀ (addWin eng k i n s) := .ite h.upd h.upd

theorem Kept.windowTickOwnOnly {k : Nat} {is : List Nat} (h : Kept s₀ s) : Kept s₀ (windowTick.ownOnly k is s) :=
  .ite h (h.upd.forEach (fun _ _ h1 => h1.upd))

theorem Kept.windowTick (h : Kept s₀ s) : Kept s₀ (windowTick s) := by
  unfold Machine.windowTick
  refine .windowTickOwnOnly ?_
  refine .forBelow ?_ fun _ _ h1 => h1.windowTickOwnOnly
  refine .forBelow (.forBelow (h.forBelow (fun _ _ h1 => .ite h1.addWin h1)) (fun _ _ h1 => h1.upd)) ?_
  intro _ _ h1
  split
  · exact .ite h1 h1.addWin
  · exact h1

theorem Kept.execAonTick (h : Kept s₀ s) : KeptOut s₀ (execAonTick s) :=
  .ite (.next h) (.next
    (.ite (.wake (.idleTick (.ite h.fireDue.upd.busyTick.windowTick.upd h.fireDue.upd.busyTick.windowTick)))
    (.idleTick (.ite h.fireDue.upd.busyTick.windowTick.upd h.fireDue.upd.busyTick.windowTick))))

theorem Kept.execObservationWindowEnd {loads : List (Nat × Nat)} {occ : List Nat} (h : Kept s₀ s) :
    KeptOut s₀ (execObservationWindowEnd loads occ s) := .ite (.next h) (.next h.upd)

/-! ## Dispatcher -/

theorem Kept.startFrond {f : Nat} {c : Cmd} {p : Plan} {it : ItemRef} (h : Kept s₀ s) : Kept s₀ (startFrond f c p it s) :=
  h.upd.setFrond

theorem Kept.nameGrant {slot pipe f : Nat} (h : Kept s₀ s) : Kept s₀ (nameGrant slot pipe f s) := h.upd

theorem Kept.stageGrant {l : Nat} {x : Cursor} {c : Cmd} {units us f : Nat} (h : Kept s₀ s) :
    Kept s₀ (stageGrant l x c units us f s).2 := by
  unfold Machine.stageGrant
  split
  · dsimp only
    exact h
  · dsimp only
    split
    · dsimp only
      exact h.requestGrant.holdCursor
    · dsimp only
      exact h.requestGrant

theorem Kept.failStart {x : Cursor} {q : QueryRun} (h : Kept s₀ s) : Kept s₀ (failStart x q s) := h.recordFailure.endIfFailed

theorem Kept.askChunks {slot pipe idx : Nat} {c : Cmd} {q : QueryRun} (h : Kept s₀ s) :
    Kept s₀ (askChunks slot pipe idx c q s) := by
  unfold Machine.askChunks
  split
  · exact h
  · refine .ite ?_ (.ite h.readInput h)
    refine .forEach h ?_
    intro _ _ h1
    split
    · exact .ite h1 h1.hostSend
    · exact h1

theorem Kept.takeItem {l : Nat} {x : Cursor} {c : Cmd} {q : QueryRun} {fs : List Nat} (h : Kept s₀ s) :
    Kept s₀ (takeItem l x c q fs s) :=
  .ite (.forEach (.ite h.countWait.nameGrant.turnCursor.modQuery.addCursor h.countWait.nameGrant.turnCursor.modQuery)
    (fun _ _ h1 => h1.startFrond))
    (.askChunks (.forEach (.ite h.countWait.nameGrant.turnCursor.modQuery.addCursor h.countWait.nameGrant.turnCursor.modQuery)
    (fun _ _ h1 => h1.startFrond)))

theorem Kept.giveItem {l : Nat} {x : Cursor} {f : Nat} (h : Kept s₀ s) : Kept s₀ (giveItem l x f s) := by
  unfold Machine.giveItem
  split
  · exact h
  · exact .ite h.writeIncomplete.recordFailure.endIfFailed
      (.ite h.writeIncomplete.failStart
      (.ite (.ite h.writeIncomplete.failStart
      (.ite (h.writeIncomplete.forEach (fun _ _ h1 => h1.setFrond))
      (.ite (.takeItem (.stageGrant (h.writeIncomplete.forEach (fun _ _ h1 => h1.setFrond))))
      (.stageGrant (h.writeIncomplete.forEach (fun _ _ h1 => h1.setFrond))))))
      (.ite h.writeIncomplete.stageGrant.takeItem h.writeIncomplete.stageGrant)))

theorem Kept.answerIdle {f : Nat} (h : Kept s₀ s) : Kept s₀ (answerIdle f s) := .ite h.setFrond h

theorem Kept.dispatchFrond {f : Nat} (h : Kept s₀ s) : Kept s₀ (dispatchFrond f s) := by
  unfold Machine.dispatchFrond
  refine .ite h ?_
  split
  · rename_i he
    exact .answerIdle (.of_snd h.chooseCursor he)
  · rename_i he
    exact .answerIdle (.giveItem (.of_snd h.chooseCursor he))

theorem Kept.joinUnit {u : Nat} {j : SmuJob} {prio : Nat} (h : Kept s₀ s) : Kept s₀ (joinUnit u j prio s) :=
  h.advanceSmu.setSmu.requestGrant

theorem Kept.dispatchSmu {u : Nat} (h : Kept s₀ s) : Kept s₀ (dispatchSmu u s) := by
  unfold Machine.dispatchSmu
  refine .ite h ?_
  dsimp only
  split
  · rename_i he
    exact .of_snd h.chooseCursor he
  · rename_i he
    split
    · exact .of_snd h.chooseCursor he
    · exact .joinUnit (.modPipe (.turnCursor (.countWait (.of_snd h.chooseCursor he))))

theorem Kept.sendBatch {c : Cmd} {xid : W64} {pipe : Nat} {tys : List Ty} {d part cseq : Nat} {rows : List (List Val)}
    (h : Kept s₀ s) :
    Kept s₀ (sendBatch c xid pipe tys d part cseq rows s) := h.forEach (fun _ _ h1 => h1.forEach (fun _ _ h2 => h2.sendFrame))

theorem Kept.nextPosition (h : Kept s₀ s) : Kept s₀ (nextPosition s) := .ite h.upd h

theorem Kept.dispatchSend (h : Kept s₀ s) : Kept s₀ (dispatchSend s) := by
  unfold Machine.dispatchSend
  refine .ite h ?_
  split
  · rename_i he
    exact .of_snd h.nextPosition.chooseCursor he
  · rename_i he
    split
    · exact .of_snd h.nextPosition.chooseCursor he
    · split
      · exact .of_snd h.nextPosition.chooseCursor he
      · exact .settle (.exchangeEnd
          (.chargeWork (.sendBatch (.modPipe (.turnCursor (.countWait (.of_snd h.nextPosition.chooseCursor he)))))))

theorem Kept.execItemDispatch {cls unit : Nat} (h : Kept s₀ s) : KeptOut s₀ (execItemDispatch cls unit s) := by
  unfold Machine.execItemDispatch
  split
  · exact .next h.dispatchFrond
  · exact .next h.dispatchSmu
  · exact h.execDigContextOpen
  · exact .next h.dispatchSend
  · exact .next h

theorem Kept.execAffWaitExpiry {slot pipe : Nat} (h : Kept s₀ s) : KeptOut s₀ (execAffWaitExpiry slot pipe s) := .next h.upd

theorem Kept.unresolved {fs : List Nat} (h : Kept s₀ s) : Kept s₀ (unresolved s fs).2 := by
  unfold Machine.unresolved
  split
  · dsimp only
    exact h
  · split
    · exact h.failOp
    · exact h.failOp.choose

theorem Kept.freeFronds {it : ItemRef} {i : Nat} {fs : List Nat} (h : Kept s₀ s) : Kept s₀ (freeFronds it i fs s) :=
  h.forEach fun _ _ h1 => h1.settleTags.addCounter.dropAsks.chargeWork.setFrond.endHolder

theorem Kept.joinChain {f : Nat} (h : Kept s₀ s) : Kept s₀ (joinChain f s) := by
  unfold Machine.joinChain
  split
  · exact h
  · split
    · exact .ite h (.ite h.setFrond h.setFrond.giveItem)
    · exact h

theorem Kept.nextItems {fs : List Nat} (h : Kept s₀ s) : Kept s₀ (nextItems fs s) :=
  h.forEach (fun _ _ h1 => .ite (.ite (.ite h1 h1.joinChain) (.dispatchFrond (.ite h1 h1.joinChain)))
    (.setFrond (.ite (.ite h1 h1.joinChain) (.dispatchFrond (.ite h1 h1.joinChain)))))

theorem Kept.needSends {slot : Nat} (h : Kept s₀ s) : Kept s₀ (needSends slot s) := by
  unfold Machine.needSends
  split
  · exact h
  · exact h.forEach fun _ _ h1 => .ite h1 h1.addCursor

theorem Kept.itemEnded {it : ItemRef} (h : Kept s₀ s) : Kept s₀ (itemEnded it s) :=
  .ite h.modPipe (.settle (.ite h.modQuery.needSends.itemsDone h.modQuery.needSends))

theorem Kept.itemFails {it : ItemRef} {op st : Nat} (h : Kept s₀ s) : Kept s₀ (itemFails it op st s) := h.recordFailure

theorem Kept.keepWait {it : ItemRef} {q : QueryRun} {s' : State} (h : Kept s₀ s) : Kept s₀ (keepWait it q s s') := h.upd.modQuery

theorem Kept.endFailed {it : ItemRef} {i op st : Nat} {fs : List Nat} (h : Kept s₀ s) : Kept s₀ (endFailed it i op st fs s) :=
  h.itemFails.freeFronds.endIfFailed.nextItems

theorem Kept.endWell {it : ItemRef} {i : Nat} {fs : List Nat} (h : Kept s₀ s) : Kept s₀ (endWell it i fs s) :=
  h.freeFronds.itemEnded.nextItems

theorem Kept.itemOutcome {it : ItemRef} {c : Cmd} {fs : List Nat} {r : Except (Nat × Nat) Unit × QueryRun × State} (h : Kept s₀ s)
    (hr : Kept s₀ r.2.2) :
    Kept s₀ (itemOutcome it c fs s r) := by
  unfold Machine.itemOutcome
  split
  · exact .ite h.keepWait hr.endFailed
  · exact .ite (.ite hr.modQuery hr.modQuery.addCursor) hr.modQuery.endWell

theorem Kept.reachFlow {x : Item} {fs : List Nat} {q : QueryRun} (h : Kept s₀ s) : Kept s₀ (reachFlow x fs q s) := by
  unfold Machine.reachFlow
  split
  · exact h
  · split
    · rename_i he1
      exact .ite h.keepWait (.endFailed (.of_snd_snd h.runUpto he1))
    · rename_i he1
      exact .modQuery (.of_snd_snd h.runUpto he1)

theorem Kept.execItemEnd {f : Fin 128} {host : List (Option (List Byte))} (h : Kept s₀ s) :
    KeptOut s₀ (execItemEnd f host s) := by
  unfold Machine.execItemEnd
  dsimp only
  split
  · exact .next h
  · refine .ite (.next h.settleTags.reportEnded) ?_
    refine .ite (.next h.settleTags.reportEnded.nextItems) ?_
    split
    · exact .next h
    · split
      · rename_i he2
        exact .next (.endFailed (.of_snd h.unresolved he2))
      · refine .ite (.next h.reachFlow) ?_
        refine .ite (.next h) ?_
        refine .ite ?_ ?_
        · split
          · rename_i he3
            exact .next (h.itemOutcome (.of_snd_snd h.finalItem he3))
          · rename_i he3
            exact .next (h.itemOutcome (.of_snd_snd h.finalItem he3))
        · split
          · exact .next (.ite h.endWell h)
          · exact .next (h.itemOutcome h.runItem)

theorem Kept.execBreakerFinish {slot pipe : Nat} (h : Kept s₀ s) : KeptOut s₀ (execBreakerFinish slot pipe s) := by
  unfold Machine.execBreakerFinish
  split
  · exact .next h
  · exact .ite (.next h) (.next h.modPipe.settle)

theorem Kept.execFlowServiceEnd {slot pipe op : Nat} {flow : FlowLeave} (h : Kept s₀ s) :
    KeptOut s₀ (execFlowServiceEnd slot pipe op flow s) := by
  unfold Machine.execFlowServiceEnd
  split
  · exact .next h
  · split
    · exact .next h
    · dsimp only
      split
      · exact .next h
      · refine .ite (.next h) ?_
        split
        · rename_i he3
          exact .next (.ite h.keepWait (.endFailed (.of_snd_snd h.runUpto he3)))
        · rename_i he3
          exact .next (.needSends (.modQuery (.of_snd_snd h.runUpto he3)))

theorem Kept.execHandoffBatchTaken {slot pipe item stage : Nat} (h : Kept s₀ s) :
    KeptOut s₀ (execHandoffBatchTaken slot pipe item stage s) := by
  unfold Machine.execHandoffBatchTaken
  dsimp only
  split
  · exact .ite (.next h) (.next h.setFrond.setFrond)
  · exact .next h

/-! ## Smu -/

theorem Kept.endingJob {u : Nat} {j : SmuJob} (h : Kept s₀ s) (he : endingJob u s = some (j, t)) : Kept s₀ t := by
  unfold Machine.endingJob at he
  dsimp only at he
  split at he
  · obtain ⟨k, -, hk⟩ := Option.map_eq_some_iff.1 he
    have e := congrArg (·.2) hk
    dsimp only at e
    rw [← e]
    exact h.setSmu
  · obtain ⟨k, -, hk⟩ := Option.map_eq_some_iff.1 he
    have e := congrArg (·.2) hk
    dsimp only at e
    rw [← e]
    exact h.putTree

theorem Kept.mergeJob {u : Nat} {j : SmuJob} {q : QueryRun} (h : Kept s₀ s) : Kept s₀ (mergeJob u j q s).2 := by
  unfold Machine.mergeJob
  split
  · dsimp only
    split
    · dsimp only
      exact h
    · split
      · rename_i he2
        dsimp only
        exact .of_snd h.readRuns he2
      · rename_i he2
        exact .freeRuns (.of_snd h.readRuns he2)
  · dsimp only
    split
    · dsimp only
      exact h
    · split
      · rename_i he2
        dsimp only
        exact .of_snd h.readRuns he2
      · rename_i he2
        split
        · rename_i he3
          dsimp only
          exact .of_snd (.writeRuns (.of_snd h.readRuns he2)) he3
        · rename_i he3
          exact .freeRuns (.of_snd (.writeRuns (.of_snd h.readRuns he2)) he3)

theorem Kept.passDone {u : Nat} {j : SmuJob} {idx : Nat} {q : QueryRun} {p : PipeRun} {rs : List SortRun} (h : Kept s₀ s) :
    Kept s₀ (passDone u j idx q p rs s) := .ite h.modPipe h.modPipe.joinUnit

theorem Kept.jobDone {u : Nat} {j : SmuJob} {q : QueryRun} {p : PipeRun} {rs : List SortRun} {rows : List Nat} (h : Kept s₀ s) :
    Kept s₀ (jobDone u j q p rs rows s) := by
  unfold Machine.jobDone
  refine .ite h.modPipe.modPipe ?_
  split
  · exact h.passDone
  · exact .ite h.modPipe h.modPipe.startPass

theorem Kept.jobFails {u : Nat} {j : SmuJob} {q : QueryRun} {st : Nat} (h : Kept s₀ s) : Kept s₀ (jobFails u j q st s) :=
  .endIfFailed (.recordFailure (.ite h.logEvent h))

theorem Kept.nextInTree {u : Nat} {j : SmuJob} (h : Kept s₀ s) : Kept s₀ (nextInTree u j s) := h.setSmu.chargeWork

theorem Kept.execSmuJobEnd {unit : Nat} (h : Kept s₀ s) : KeptOut s₀ (execSmuJobEnd unit s) := by
  unfold Machine.execSmuJobEnd
  dsimp only
  refine .ite (.next h) ?_
  split
  · exact .next h
  next j t he =>
    have ht : Kept s₀ (Machine.endHolder (.smu unit j.slot) (Machine.nextInTree unit j t)) :=
      (h.endingJob he).nextInTree.endHolder
    split
    · exact .next ht
    split
    next he' =>
      split
      · exact .next h
      · exact .next (.jobFails (.of_snd ht.mergeJob he'))
    next he' => exact .next (.jobDone (.countSmu (.of_snd ht.mergeJob he')))

theorem Kept.execSmuQuantumExpiry {unit : Nat} (h : Kept s₀ s) : KeptOut s₀ (execSmuQuantumExpiry unit s) :=
  .ite (.next h.enterSmu) (.next h.enterSmu.setSmu.setSmu)

theorem Kept.cmuFault {u : Nat} (h : Kept s₀ s) : Kept s₀ (cmuFault u s) := by
  unfold Machine.cmuFault
  refine .forEach h.setCmu ?_
  intro _ _ h1
  split
  · exact h1.failCmd
  · exact h1.mbxErr
  · exact h1

theorem Kept.smuFault {u : Nat} (h : Kept s₀ s) : Kept s₀ (smuFault u s) := by
  unfold Machine.smuFault
  refine .forEach h.setSmu ?_
  intro _ _ h1
  dsimp only
  split
  · exact h1.endHolder.recordFailure.endIfFailed
  · exact h1.endHolder

theorem Kept.failAsks (h : Kept s₀ s) : Kept s₀ (failAsks s) := h.forEach fun _ _ h1 => h1.dropAsks.failItem

theorem Kept.dguFault {u : Nat} (h : Kept s₀ s) : Kept s₀ (dguFault u s) := by
  unfold Machine.dguFault
  exact .ite (.failAsks (h.alarmCtxs.setDgu.upd.forEach (fun _ _ h1 => h1.dropCursor.failDigest))) h.alarmCtxs.setDgu

theorem Kept.execEngineUnitFault {kind unit : Nat} (h : Kept s₀ s) : KeptOut s₀ (execEngineUnitFault kind unit s) :=
  .ite (.next h) (.next (.ite h.logEvent.cmuFault (.ite h.logEvent.smuFault h.logEvent.dguFault)))

theorem Kept.goesBy {link : Nat} {a : List (List Nat)} (h : Kept s₀ s) : Kept s₀ (goesBy link a s).2 := by
  induction a generalizing link s with
  | nil =>
    unfold Machine.goesBy
    dsimp only
    exact h
  | cons b l ih =>
    unfold Machine.goesBy
    dsimp only
    split
    · dsimp only
      exact h
    · split
      · split
        · exact h.freshNat
        · exact ih h.freshNat
      · exact ih h

theorem Kept.linkFrond {link f : Nat} (h : Kept s₀ s) : Kept s₀ (linkFrond link f s) := .ite h (.ite h.goesBy.failItem h.goesBy)

theorem Kept.linkSmu {link u : Nat} (h : Kept s₀ s) : Kept s₀ (linkSmu link u s) := by
  unfold Machine.linkSmu
  refine .forEach h ?_
  intro _ _ h1
  split
  · exact h1
  · exact .ite h1.goesBy.recordFailure.endIfFailed h1.goesBy

theorem Kept.linkDgu {link u : Nat} (h : Kept s₀ s) : Kept s₀ (linkDgu link u s) := by
  unfold Machine.linkDgu
  refine .forCtxs h ?_
  intro _ _ _ h1
  split
  · exact h1
  · exact .ite h1.goesBy.failDigest h1.goesBy

theorem Kept.linkNvme {link : Nat} (h : Kept s₀ s) : Kept s₀ (linkNvme link s) := by
  unfold Machine.linkNvme
  refine .forEach h ?_
  intro _ _ h1
  split
  · exact h1
  · refine .ite h1.freshNat.goesBy ?_
    split
    · exact h1.freshNat.goesBy.recordFailure.endIfFailed
    · exact h1.freshNat.goesBy.failCmd

theorem Kept.execFabricLink {link : Nat} (h : Kept s₀ s) : KeptOut s₀ (execFabricLink link s) :=
  .ite (.next h) (.next
    (.linkNvme (.forBelow (.forBelow (h.upd.logEvent.forBelow (fun _ _ h1 => h1.linkFrond)) (fun _ _ h1 => h1.linkSmu))
    (fun _ _ h1 => h1.linkDgu))))

/-! ## Commit -/

theorem Kept.sendStop {xid : W64} {inst : Nat} (h : Kept s₀ s) : Kept s₀ (sendStop xid inst s) :=
  h.upd.forEach fun _ _ h1 => h1.sendFrame

theorem Kept.dropFan {xid : W64} (h : Kept s₀ s) : Kept s₀ (dropFan xid s) := h.upd

theorem Kept.writeHeaders {slot : Nat} {c : Cmd} (h : Kept s₀ s) : Kept s₀ (writeHeaders slot c s) := by
  unfold Machine.writeHeaders
  split
  · exact h
  · exact .ite h (h.forEach (fun _ _ h1 => .ite h1.writeOut h1))

theorem Kept.blameRows {c : Cmd} {o : OutRun} {n : Nat} (h : Kept s₀ s) : Kept s₀ (blameRows c o n s) := by
  unfold Machine.blameRows
  split
  · exact h
  · exact h.upd

theorem Kept.publishOuts {slot : Nat} {c : Cmd} (h : Kept s₀ s) : Kept s₀ (publishOuts slot c s) := by
  unfold Machine.publishOuts
  refine .publishHidden ?_
  refine .forEach h.modQuery ?_
  intro _ _ h1
  split
  · exact h1
  · exact .ite h1.addCounter.publishLater.blameRows h1.addCounter.publish

theorem Kept.writeOwn {c : Cmd} (h : Kept s₀ s) : Kept s₀ (writeOwn c s) := by
  unfold Machine.writeOwn
  refine .ite h ?_
  split
  · exact .ite h.hostWriteFor.addCounter h
  · exact .ite h.hostWriteFor.addCounter h
  · exact h

theorem Kept.closeOwn {slot : Nat} {c : Cmd} (h : Kept s₀ s) : Kept s₀ (closeOwn slot c s) := by
  unfold Machine.closeOwn
  split
  · exact .ite h.setCtx.leaveLane h
  · exact h

theorem Kept.endCommand {slot : Nat} {c : Cmd} (h : Kept s₀ s) : Kept s₀ (endCommand slot c s) := by
  unfold Machine.endCommand
  dsimp only
  split
  · exact h.writeHeaders.writeOwn.closeOwn.setPhase.completeCmd.dropFan
  · exact h.writeHeaders.writeOwn.closeOwn.setPhase.completeCmd

theorem Kept.endPart {slot : Nat} {c : Cmd} (h : Kept s₀ s) : Kept s₀ (endPart slot c s) := by
  unfold Machine.endPart
  split
  · exact h.retireCmd
  · exact .retireCmd (.ite (.modFan (.ite h h.sendFrame)) (.dropFan (.modFan (.ite h h.sendFrame))))

theorem Kept.execCommitFinish {slot : Nat} (h : Kept s₀ s) : KeptOut s₀ (execCommitFinish slot s) := by
  unfold Machine.execCommitFinish
  split
  · exact .next h
  · refine .ite (.next h) ?_
    refine .ite (.next h.endPart) ?_
    split
    · dsimp only
      split
      · exact .ite (.next h.sendStop) (.ite (.next h) (.next h.modCmd.endCommand))
      · exact .ite (.next h.modCmd.endCommand)
          (.ite (.next h) (.ite (.next h.publishOuts.setPhase) (.next h.publishOuts.modCmd.endCommand)))
    · dsimp only
      split
      · exact .ite (.next h.sendStop) (.ite (.next h) (.next h.modCmd.endCommand))
      · exact .ite (.next h.modCmd.endCommand)
          (.ite (.next h) (.ite (.next h.modCmd.publishOuts.setPhase) (.next h.modCmd.publishOuts.modCmd.endCommand)))

theorem Kept.execOrderingWaitEnd {slot : Nat} (h : Kept s₀ s) : KeptOut s₀ (execOrderingWaitEnd slot s) := by
  unfold Machine.execOrderingWaitEnd
  split
  · exact .next h
  · exact .ite (.next h)
      (.ite (.next h.tryQuery)
      (.ite (.next h.storeOrdered) (.ite (.next h.tryDigest) (.ite (.next h.tryUpdate) (.next h.trySearch)))))

theorem Kept.execWriteCacheRoom {slot : Nat} (h : Kept s₀ s) : KeptOut s₀ (execWriteCacheRoom slot s) := by
  unfold Machine.execWriteCacheRoom
  split
  · exact .next h
  · refine .ite (.next h) ?_
    split
    · exact .next h.upd.setPhase.finishQuery
    · exact .next h.upd.stage

theorem Kept.execHostReadDone {slot : Nat} {data : Option (List Byte)} (h : Kept s₀ s) :
    KeptOut s₀ (execHostReadDone slot data s) := by
  unfold Machine.execHostReadDone
  split
  · exact .next h
  · exact .ite (.next h)
      (.ite (.next h.storeDataRead)
      (.ite (.next h.createRead)
      (.ite (.next h.digestRead) (.ite (.next h.matchUpdateRead) (.ite (.next h.matchSearchRead) (.next h))))))

/-! ## QueueAdmin -/

theorem Kept.execQueueCreate {fn : Nat} (h : Kept s₀ s) : KeptOut s₀ (execQueueCreate fn s) := by
  unfold Machine.execQueueCreate
  refine .next ?_
  refine .onMbx h ?_
  intro _ _ h1
  split
  · exact h1.mbxBad
  · exact .ite (.ite h1.mbxErr h1.setCq.mbxOk) (.ite h1.mbxErr (.ite h1.mbxErr h1.setSq.mbxOk))

theorem Kept.drainSq {i n : Nat} {delete : Bool} {mbx : Option Nat} (h : Kept s₀ s) : Kept s₀ (drainSq i n delete mbx s) :=
  h.setSq.forEach fun _ _ h1 => h1.failCmd

theorem Kept.trimCqs {i : Nat} (h : Kept s₀ s) : Kept s₀ (trimCqs i s) := h.upd

theorem Kept.endDrain {i n : Nat} (h : Kept s₀ s) : Kept s₀ (endDrain i n s) := by
  unfold Machine.endDrain
  dsimp only
  split
  · exact h
  · split
    · exact .mbxOk (.ite h.setSq.trimCqs h.setSq)
    · exact .ite h.setSq.trimCqs h.setSq

theorem Kept.execQueueDrainComplete {inst sq : Nat} (h : Kept s₀ s) : KeptOut s₀ (execQueueDrainComplete inst sq s) :=
  .ite (.next h) (.next h.endDrain)

theorem Kept.resetCq {i n : Nat} (h : Kept s₀ s) : Kept s₀ (resetCq i n s) := h.setCq.drainAll

theorem Kept.onQueue {fn mop : Nat} {delete : Bool} (h : Kept s₀ s) : Kept s₀ (onQueue fn mop delete s) :=
  h.onMbx (fun _ _ h1 => .ite h1.mbxBad
    (.ite (.ite h1.mbxErr (.ite h1.resetCq.mbxOk (.ite h1.mbxErr h1.setCq.mbxOk)))
    (.ite h1.mbxErr (.ite h1.mbxErr h1.modMbx.drainSq))))

theorem Kept.execQueueDelete {fn : Nat} (h : Kept s₀ s) : KeptOut s₀ (execQueueDelete fn s) := .next h.onQueue

theorem Kept.execQueueReset {fn : Nat} (h : Kept s₀ s) : KeptOut s₀ (execQueueReset fn s) := .next h.onQueue

/-! ## InstanceOps -/

theorem Kept.growLists {i a : Nat} (h : Kept s₀ s) : Kept s₀ (growLists i a s) := by
  induction a generalizing i s with
  | zero =>
    unfold Machine.growLists
    exact h
  | succ n ih =>
    unfold Machine.growLists
    dsimp only
    exact .ite (ih h) (.upd (ih h))

theorem Kept.shrinkLists {i n a : Nat} (h : Kept s₀ s) : Kept s₀ (shrinkLists i n a s) := by
  induction a generalizing i n s with
  | zero =>
    unfold Machine.shrinkLists
    exact h
  | succ n ih =>
    unfold Machine.shrinkLists
    dsimp only
    refine .ite h ?_
    split
    · exact h
    · exact ih h.upd

theorem Kept.fenceDigests {i : Nat} (h : Kept s₀ s) : Kept s₀ (fenceDigests i s) :=
  h.forBelow (fun _ _ h1 => .ite (.logCleared (h1.forCtxs (fun _ _ _ h2 => h2.clearCtx))) h1)

theorem Kept.fenceExchange {i : Nat} (h : Kept s₀ s) : Kept s₀ (fenceExchange i s) := h.upd

theorem Kept.fenceHost {i : Nat} (h : Kept s₀ s) : Kept s₀ (fenceHost i s) := h.upd

theorem Kept.fenceAll {i : Nat} (h : Kept s₀ s) : Kept s₀ (fenceAll i s) :=
  .fenceHost (.fenceExchange
    (.fenceDigests (.forBelow (.upd (h.forEach (fun _ _ h1 => h1.presentFence))) (fun _ _ h1 => h1.fenceCmu))))

theorem Kept.endFenced {flr : Bool} {slot : Nat} (h : Kept s₀ s) : Kept s₀ (endFenced flr slot s) := by
  unfold Machine.endFenced
  split
  · exact h
  · refine .ite ?_ ?_
    · split
      · refine .dropFan ?_
        refine .retireCmd ?_
        split
        · exact .ite h h.sendStop
        · exact h
      · refine .retireCmd ?_
        split
        · exact .ite h h.sendStop
        · exact h
    · refine .ite ?_ ?_
      · refine .retireCmd ?_
        refine .ite ?_ ?_
        · refine .writeHeaders ?_
          split
          · exact .ite h h.sendStop
          · exact h
        · split
          · exact .ite h h.sendStop
          · exact h
      · refine .ite ?_ ?_
        · split
          · exact .ite h h.sendStop
          · exact h
        · refine .endCommand ?_
          split
          · exact .ite h h.sendStop
          · exact h

theorem Kept.beginReset {i : Nat} {flr destroying : Bool} {mbx : Option Nat} (h : Kept s₀ s) :
    Kept s₀ (beginReset i flr destroying mbx s) :=
  .ite (.upd (.ite (h.setInst.forEach (fun _ _ h1 => h1.endFenced)) h.setInst)) h.setInst.upd.fenceAll

theorem Kept.deleteObj {o : StoreObj} (h : Kept s₀ s) : Kept s₀ (deleteObj o s) := h.upd.modObj

theorem Kept.freeContexts {i u : Nat} (h : Kept s₀ s) : Kept s₀ (freeContexts i u s) :=
  h.forEach fun _ _ h1 => .ite h1.setCtx.leaveLane h1

theorem Kept.clearUnitCnts {i : Nat} (h : Kept s₀ s) : Kept s₀ (clearUnitCnts i s) :=
  .forBelow (.forBelow (h.forBelow (fun _ _ h1 => h1.setCmu)) (fun _ _ h1 => h1.setSmu)) fun _ _ h1 => h1.setDgu

theorem Kept.removeInst {i : Nat} {mbxs : List Nat} (h : Kept s₀ s) : Kept s₀ (removeInst i mbxs s) := by
  unfold Machine.removeInst
  generalize h1 : Machine.clearUnitCnts i _ = t₁
  have k1 : Kept s₀ t₁ := h1 ▸ (h.forEach fun _ _ h => h.mbxErr).clearUnitCnts
  dsimp only
  generalize h2 : Machine.forEach _ _ t₁ = t₂
  have k2 : Kept s₀ t₂ := h2 ▸ k1.forEach fun _ _ h => h.unbindPlan
  generalize h3 : Machine.forEach _ _ t₂ = t₃
  have k3 : Kept s₀ t₃ := h3 ▸ k2.forEach fun _ _ h => h.dropImages
  generalize h4 : Machine.forEach _ _ t₃ = t₄
  have k4 : Kept s₀ t₄ := h4 ▸ k3.forEach fun _ _ h => h.deleteTable
  generalize h5 : Machine.forEach _ _ t₄ = t₅
  have k5 : Kept s₀ t₅ := h5 ▸ k4.forEach fun _ _ h => h.deleteObj
  generalize h6 : Machine.forBelow _ _ _ = t₆
  have k6 : Kept s₀ t₆ := h6 ▸ k5.unmapAll.freeLists.forBelow fun _ _ h => h.freeContexts
  exact k6.upd.setInst.fwEvent.renewSets

theorem Kept.dropStatePages {i : Nat} (h : Kept s₀ s) : Kept s₀ (dropStatePages i s) := h.dropPages

theorem Kept.clearMsix {fn : Nat} (h : Kept s₀ s) : Kept s₀ (clearMsix fn s) := h.upd

theorem Kept.resetQueues {i : Nat} {flr : Bool} (h : Kept s₀ s) : Kept s₀ (resetQueues i flr s) :=
  .ite (.upd (h.forEach (fun _ _ h1 => h1.setSq.endDrain))) (h.forEach (fun _ _ h1 => h1.setSq.endDrain))

theorem Kept.backActive {i : Nat} (h : Kept s₀ s) : Kept s₀ (backActive i s) := h.setInst.fwEvent

/-! ## Instances -/

theorem Kept.execInfo {fn : Nat} (h : Kept s₀ s) : KeptOut s₀ (execInfo fn s) :=
  .next (h.onMbx (fun _ _ h1 => .ite h1.endMbx (.ite h1.mbxBad h1.endMbx)))

theorem Kept.growPages {fn i : Nat} {a : List Nat} (h : Kept s₀ s) : Kept s₀ (growPages fn i a s).2 := by
  induction a generalizing fn i s with
  | nil =>
    unfold Machine.growPages
    dsimp only
    exact h
  | cons b l ih =>
    unfold Machine.growPages
    split
    · exact ih h
    · split
      · rename_i he1
        dsimp only
        exact .of_snd h.allocPage he1
      · rename_i he2
        exact ih (.of_snd h.allocPage he2)

theorem Kept.growData {fn i lo n : Nat} (h : Kept s₀ s) : Kept s₀ (growData fn i lo n s).2 := h.growPages

theorem Kept.createInst {fn i : Nat} {r : ResRec} (h : Kept s₀ s) : Kept s₀ (createInst fn i r s) :=
  .ite h.modMbx.modMbx.setInst.clearUnitCnts.upd.growLists.growData.undoCreate.mbxErr
    h.modMbx.modMbx.setInst.clearUnitCnts.upd.growLists.growData.mbxPagesDone

theorem Kept.execInstCreate {fn : Nat} {host : Option (List Byte)} (h : Kept s₀ s) : KeptOut s₀ (execInstCreate fn host s) := by
  unfold Machine.execInstCreate
  refine .next ?_
  refine .onMbx h ?_
  intro _ _ h1
  refine .ite h1.mbxBad ?_
  refine .ite h1.mbxBad ?_
  refine .ite h1.mbxErr ?_
  refine .ite h1.endMbx ?_
  refine .mbxRead h1 ?_
  intro _ h2
  split
  · exact h2.mbxErr
  · split
    · exact h2.mbxBad
    · exact .ite h2.mbxBad (.ite h2.endMbx (.ite h2.mbxErr h2.createInst))

theorem Kept.trimInst {i : Nat} (h : Kept s₀ s) : Kept s₀ (trimInst i s) := h.shrinkLists.trimCqs

theorem Kept.deleteDrained {i n : Nat} (h : Kept s₀ s) : Kept s₀ (deleteDrained i n s) := h.upd

theorem Kept.beginShrink {i : Nat} {old r : ResRec} (h : Kept s₀ s) : Kept s₀ (beginShrink i old r s) :=
  .trimInst (.forEach (h.deleteDrained.forEach (fun _ _ h1 => h1.drainSq)) (fun _ _ h1 => h1.unmapPage))

theorem Kept.resizeInst {fn i valid ms : Nat} {old r : ResRec} (h : Kept s₀ s) : Kept s₀ (resizeInst fn i valid ms old r s) :=
  .ite h.modMbx.setInst.growData.undoGrow.setInst.mbxErr
    h.modMbx.setInst.growData.growLists.beginShrink.renewSets.fwEvent.setInst.mbxPagesDone

theorem Kept.execInstResize {fn : Nat} {host : Option (List Byte)} (h : Kept s₀ s) : KeptOut s₀ (execInstResize fn host s) := by
  unfold Machine.execInstResize
  refine .next ?_
  refine .onMbx h ?_
  intro _ _ h1
  refine .ite h1.mbxBad ?_
  refine .ite h1.mbxBad ?_
  refine .ite h1.mbxBad ?_
  refine .ite h1.mbxErr ?_
  refine .mbxRead h1 ?_
  intro _ h2
  split
  · exact h2.mbxErr
  · refine .ite h2.mbxBad ?_
    split
    · exact h2.mbxBad
    · exact .ite h2.mbxBad (.ite h2.endMbx (.ite h2.mbxErr (.ite h2.mbxErr h2.resizeInst)))

theorem Kept.execResizeDrainDone {inst : Nat} (h : Kept s₀ s) : KeptOut s₀ (execResizeDrainDone inst s) := by
  unfold Machine.execResizeDrainDone
  dsimp only
  split
  · exact .next h.trimInst
  · exact .ite (.next h.trimInst) (.next h.trimInst.setInst.mbxPagesDone)

theorem Kept.execResizeDrainTimeout {inst : Nat} (h : Kept s₀ s) : KeptOut s₀ (execResizeDrainTimeout inst s) := by
  unfold Machine.execResizeDrainTimeout
  dsimp only
  split
  · exact .ite (.next h.trimInst) (.next h.trimInst.setInst.upd.endMbx)
  · exact .next h.trimInst

theorem Kept.execInstReset {fn : Nat} (h : Kept s₀ s) : KeptOut s₀ (execInstReset fn s) :=
  .next (h.onMbx (fun _ _ h1 => .ite h1.mbxBad (.ite h1.mbxErr h1.modMbx.beginReset)))

theorem Kept.execInstDestroy {fn : Nat} (h : Kept s₀ s) : KeptOut s₀ (execInstDestroy fn s) :=
  .next (h.onMbx (fun _ _ h1 => .ite h1.mbxErr (.ite h1.mbxBad (.ite h1.mbxErr h1.modMbx.beginReset))))

theorem Kept.execInstanceFenceComplete {inst : Nat} (h : Kept s₀ s) : KeptOut s₀ (execInstanceFenceComplete inst s) := by
  unfold Machine.execInstanceFenceComplete
  split
  · exact .next h
  · exact .ite (.next h) (.next (.upd (.fenceHost (h.forEach (fun _ _ h1 => h1.endFenced)))))

theorem Kept.execInstanceResetFinish {inst : Nat} (h : Kept s₀ s) : KeptOut s₀ (execInstanceResetFinish inst s) := by
  unfold Machine.execInstanceResetFinish
  split
  · exact .next h
  · exact .ite (.next h)
      (.next (.forEach (.ite
      (.removeInst (.ite h.upd.resetQueues.dropStatePages.modMbx.clearMsix h.upd.resetQueues.dropStatePages))
      (.backActive (.ite h.upd.resetQueues.dropStatePages.modMbx.clearMsix h.upd.resetQueues.dropStatePages)))
      (fun _ _ h1 => h1.mbxOk)))

theorem Kept.resetPf (h : Kept s₀ s) : Kept s₀ (resetPf s) := .beginReset (h.upd.forEach (fun _ _ h1 => h1.beginReset))

theorem Kept.execFunctionLevelReset {fn : Nat} (h : Kept s₀ s) : KeptOut s₀ (execFunctionLevelReset fn s) :=
  .ite (.next h) (.ite (.next h.modMbx.resetPf) (.ite (.next h.modMbx.clearMsix) (.next h.modMbx.beginReset)))

theorem Kept.execVfEnableClear (h : Kept s₀ s) : KeptOut s₀ (execVfEnableClear s) := .next h.resetPf

/-! ## Firmware -/

theorem Kept.enterProfile {fn p : Nat} {lat : Option Nat} (h : Kept s₀ s) : Kept s₀ (enterProfile fn p lat s) := h.upd.upd.upd

theorem Kept.execProfileSet {fn : Nat} (h : Kept s₀ s) : KeptOut s₀ (execProfileSet fn s) := by
  unfold Machine.execProfileSet
  refine .next ?_
  refine .onMbx h ?_
  intro _ _ h1
  refine .ite h1.mbxBad ?_
  refine .ite h1.mbxBad ?_
  refine .ite h1.mbxBad ?_
  split
  · exact h1.endMbx
  · exact h1.modMbx.enterProfile.examineGrants

theorem Kept.engineSchedules (h : Kept s₀ s) : Kept s₀ (engineSchedules s) := by
  unfold Machine.engineSchedules
  exact .ite (.upd (.forBelow (.forBelow (h.forBelow (fun _ _ h1 => h1.enterCmu)) (fun _ _ h1 => h1.enterSmu))
    (fun _ _ h1 => h1.enterDgu)))
    (.forBelow (.forBelow (h.forBelow (fun _ _ h1 => h1.enterCmu)) (fun _ _ h1 => h1.enterSmu)) (fun _ _ h1 => h1.enterDgu))

theorem Kept.execProfileSetComplete (h : Kept s₀ s) : KeptOut s₀ (execProfileSetComplete s) := by
  unfold Machine.execProfileSetComplete
  split
  · exact .next h
  · exact .ite (.next h) (.next h.upd.engineSchedules.upd.fwEvent.endMbx)

theorem Kept.execPowerCapSet {fn : Nat} (h : Kept s₀ s) : KeptOut s₀ (execPowerCapSet fn s) :=
  .next (h.onMbx (fun _ _ h1 => .ite h1.mbxBad (.ite h1.endMbx h1.upd.endMbx)))

theorem Kept.execTelemetryCfg {fn : Nat} (h : Kept s₀ s) : KeptOut s₀ (execTelemetryCfg fn s) :=
  .next (h.onMbx (fun _ _ h1 => .ite h1.mbxBad (.ite h1.mbxBad h1.upd.mbxOk)))

theorem Kept.raiseSvn {b : List Byte} (h : Kept s₀ s) : Kept s₀ (raiseSvn b s) := h.upd

theorem Kept.stageImage {b : List Byte} (h : Kept s₀ s) : Kept s₀ (stageImage b s) := h.upd.fwEvent

theorem Kept.execFwStage {fn : Nat} {host : Option (List Byte)} (h : Kept s₀ s) : KeptOut s₀ (execFwStage fn host s) := by
  unfold Machine.execFwStage
  refine .ite (.next h) ?_
  refine .next ?_
  refine .onMbx h ?_
  intro _ _ h1
  refine .ite h1.mbxBad ?_
  refine .ite h1.endMbx ?_
  refine .mbxRead h1 ?_
  intro _ h2
  split
  · exact h2.mbxErr
  · split
    · exact h2.endMbx
    · exact h2.stageImage.endMbx

theorem Kept.setStandby {st : McState} (h : Kept s₀ s) : Kept s₀ (setStandby st s) := .ite h.upd h.upd

theorem Kept.beginActivation {mbx : Option Nat} (h : Kept s₀ s) : Kept s₀ (beginActivation mbx s) :=
  h.hawEventAll.hawEventAll.upd.setStandby

theorem Kept.dropActivation {lock : Bool} (h : Kept s₀ s) : Kept s₀ (dropActivation lock s) := .upd (.ite h.setStandby h)

theorem Kept.releaseHeld (h : Kept s₀ s) : Kept s₀ (releaseHeld s) := h.forEach fun _ _ h1 => h1.modMbx.refuseUnknown

theorem Kept.answerActivation {err detail : Nat} {payload : List Byte} (h : Kept s₀ s) :
    Kept s₀ (answerActivation err detail payload s) := by
  unfold Machine.answerActivation
  split
  · exact h.endMbx
  · exact h

theorem Kept.failActivation {err detail : Nat} {lock : Bool} (h : Kept s₀ s) : Kept s₀ (failActivation err detail lock s) :=
  h.answerActivation.fwEvent.dropActivation.releaseHeld

theorem Kept.execFwActivate {fn : Nat} (h : Kept s₀ s) : KeptOut s₀ (execFwActivate fn s) := by
  unfold Machine.execFwActivate
  refine .next ?_
  refine .onMbx h ?_
  intro _ _ h1
  split
  · exact h1.endMbx
  · exact .ite h1.endMbx (.ite h1.mbxErr h1.modMbx.beginActivation)

theorem Kept.execFwStandbyVerified {ok : Bool} (h : Kept s₀ s) : KeptOut s₀ (execFwStandbyVerified ok s) := by
  unfold Machine.execFwStandbyVerified
  refine .ite (.next h) ?_
  split
  · exact .next h
  · split
    · exact .next h.upd
    · exact .next h.failActivation
    · exact .next h.failActivation

theorem Kept.writeBank {b : List Byte} (h : Kept s₀ s) : Kept s₀ (writeBank b s) := .ite h.upd h.upd

theorem Kept.handOver {v : W32} {b : List Byte} (h : Kept s₀ s) : Kept s₀ (handOver v b s) :=
  h.upd.mcSwitch.upd.writeBank.answerActivation.upd.releaseHeld

theorem Kept.execFwHandover {ok : Bool} (h : Kept s₀ s) : KeptOut s₀ (execFwHandover ok s) := by
  unfold Machine.execFwHandover
  refine .ite (.next h) ?_
  split
  · exact .next h
  · exact .ite (.next h.handOver) (.next h.mcSwitch.mcSwitch.failActivation)

theorem Kept.execFwRejoin (h : Kept s₀ s) : KeptOut s₀ (execFwRejoin s) := by
  unfold Machine.execFwRejoin
  refine .ite (.next h) ?_
  split
  · exact .next h
  · exact .next h.upd.raiseSvn.upd.setStandby.fwEvent.mcSwitch

/-! ## Resets -/

theorem Kept.clearModule (h : Kept s₀ s) : Kept s₀ (clearModule s) where
  pending := h.pending
  log := h.log
  mem _ := rfl
  window _ _ := Nat.zero_le _

theorem Kept.settleReset (h : Kept s₀ s) : Kept s₀ (settleReset s) := .ite h.upd h.upd.upd

/-- A lower cause in the newest RESET_CAUSE entry leaves the log as long as it was (R585). -/
theorem amendCause_go_length (cause : Nat) (l : List LogEnt) : (amendCause.go cause l).length = l.length := by
  induction l with
  | nil => rfl
  | cons e l ih =>
    unfold amendCause.go
    split
    · rfl
    · rw [List.length_cons, List.length_cons, ih]

theorem Kept.amendCause {cause c low : Nat} {pads : PadSt} (h : Kept s₀ s) :
    Kept s₀ { s with log := if cause < c then amendCause low s.log else s.log, pads := pads } where
  pending := h.pending
  log h0 := by
    dsimp only
    split
    · exact (amendCause_go_length low s.log.entries).trans_le (h.log h0)
    · exact h.log h0
  mem := h.mem
  window := h.window

theorem Kept.moduleReset {cause : Nat} (h : Kept s₀ s) : Kept s₀ (moduleReset cause s) := by
  have hl : ∀ p, Kept s₀
    (Machine.settleReset (Machine.clearModule { Machine.logEvent 0x0802 0x00 0 cause none s with pads := p })) :=
    fun _ => .settleReset (.clearModule h.logEvent.upd)
  unfold Machine.moduleReset
  refine .ite h.settleReset ?_
  split
  · exact .ite h.amendCause.settleReset (.ite h.settleReset (hl _))
  · exact .ite h.settleReset (hl _)

theorem Kept.execVinReset (h : Kept s₀ s) : KeptOut s₀ (execVinReset s) := .next h.upd.moduleReset

theorem Kept.execRailReset {dom : Nat} (h : Kept s₀ s) : KeptOut s₀ (execRailReset dom s) := .ite (.next h) (.next h.moduleReset)

theorem Kept.execThermalTrip {sensor : Nat} (h : Kept s₀ s) : KeptOut s₀ (execThermalTrip sensor s) :=
  .ite (.next h) (.next h.upd.moduleReset)

theorem Kept.execThermalHoldEnd (h : Kept s₀ s) : KeptOut s₀ (execThermalHoldEnd s) := .ite (.next h.upd.settleReset) (.next h)

theorem Kept.execModRstNAssert (h : Kept s₀ s) : KeptOut s₀ (execModRstNAssert s) := .next h.upd.moduleReset

theorem Kept.execPerstNAssert (h : Kept s₀ s) : KeptOut s₀ (execPerstNAssert s) := .next h.upd.moduleReset

theorem Kept.execResetRelease {perst : Bool} (h : Kept s₀ s) : KeptOut s₀ (execResetRelease perst s) :=
  .ite (.next h.upd.settleReset) (.ite (.next h.upd.settleReset) (.next h))

theorem Kept.execPowerOnReset (h : Kept s₀ s) : KeptOut s₀ (execPowerOnReset s) :=
  .next ⟨h.pending, fun _ => Nat.zero_le _, fun _ => rfl, fun _ _ => Nat.zero_le _⟩

theorem Kept.execPowerOnResetRelease (h : Kept s₀ s) : KeptOut s₀ (execPowerOnResetRelease s) :=
  .ite (.next h) (.next (.settleReset ⟨h.pending, fun _ => Nat.zero_le _, h.mem, fun _ _ => Nat.zero_le _⟩))

theorem Kept.reducedMode {low : Bool} (h : Kept s₀ s) : Kept s₀ (reducedMode low s) :=
  .ite (h.upd.forBelow (fun _ _ h1 => h1.upd)) h.upd

theorem Kept.execVinApplied {vin : Nat} (h : Kept s₀ s) : KeptOut s₀ (execVinApplied vin s) :=
  .ite (.next h) (.next h.upd.reducedMode.settleReset)

theorem Kept.startFirmware {bank fallback : Bool} {b : List Byte} (h : Kept s₀ s) :
    Kept s₀ (startFirmware bank fallback b s) := h.upd.raiseSvn.forEach fun _ _ h1 => h1.refuseUnknown

theorem Kept.execBoot {refLoc : Bool} (h : Kept s₀ s) : KeptOut s₀ (execBoot refLoc s) := by
  unfold Machine.execBoot
  refine .ite (.next h) ?_
  refine .ite (.next h.upd) ?_
  dsimp only
  split
  · exact .next h.upd.startFirmware
  · split
    · exact .next h.upd.logEvent.startFirmware
    · exact .next h.upd.logEvent.upd.logEvent

end

end Sys2Proof.Machine
end

section
/-!
PROOFS. What every command keeps, continued: the management pair, host ports, the hierarchy, links and the root of trust. Each lemma follows the branches of its function.
-/

namespace Sys2Proof.Machine

section
-- Each of these short lemmas would else wait in a thread of its own for the long proofs before it.
set_option Elab.async false
variable {s₀ s t : State}

/-! ## Lichen -/

theorem Kept.setCore {core : Bool} {st : McState} (h : Kept s₀ s) : Kept s₀ (setCore core st s) := .ite h.upd h.upd

theorem Kept.modHealth {core : Bool} {f : McHealth → McHealth} (h : Kept s₀ s) : Kept s₀ (modHealth core f s) := .ite h.upd h.upd

theorem Kept.logSwitch {cause : Nat} (h : Kept s₀ s) : Kept s₀ (logSwitch cause s) := h.mcSwitch

theorem Kept.countReturn (h : Kept s₀ s) : Kept s₀ (countReturn s) := h.upd

theorem Kept.takeOut {core : Bool} (h : Kept s₀ s) : Kept s₀ (takeOut core s) := h.modHealth.setCore.upd

theorem Kept.beginArb {cause : Nat} (h : Kept s₀ s) : Kept s₀ (beginArb cause s) := .ite h.upd.setCore.setCore h.upd.setCore

theorem Kept.abandonActivation (h : Kept s₀ s) : Kept s₀ (abandonActivation s) :=
  .ite h.answerActivation.fwEvent.dropActivation.releaseHeld h

theorem Kept.coreFault {cause : Nat} {core : Bool} (h : Kept s₀ s) : Kept s₀ (coreFault cause core s) :=
  .ite h (.ite h.beginArb (.ite h.abandonActivation.beginArb h.abandonActivation.takeOut))

theorem Kept.execMcDiverge (h : Kept s₀ s) : KeptOut s₀ (execMcDiverge s) := .ite (.next h) (.next h.beginArb)

theorem Kept.execMcWatchdog {core : Bool} (h : Kept s₀ s) : KeptOut s₀ (execMcWatchdog core s) := .next h.coreFault

theorem Kept.execMcCoreFault {core : Bool} (h : Kept s₀ s) : KeptOut s₀ (execMcCoreFault core s) := .next h.coreFault

theorem Kept.testResult {core fail : Bool} {slice : Byte} (h : Kept s₀ s) : Kept s₀ (testResult core fail slice s) := h.modHealth

theorem Kept.endArb (h : Kept s₀ s) : Kept s₀ (endArb s) := h.modHealth.upd.logSwitch.countReturn.openGate

theorem Kept.execArbitrationVerdict {failA failB : Bool} {sliceA sliceB : Byte} (h : Kept s₀ s) :
    KeptOut s₀ (execArbitrationVerdict failA failB sliceA sliceB s) :=
  .ite (.next h) (.ite (.ite (.next (.moduleReset (.ite (.testResult (.ite h.testResult h)) (.ite h.testResult h))))
    (.next (.upd (.ite (.testResult (.ite h.testResult h)) (.ite h.testResult h)))))
    (.ite (.next (.moduleReset (.ite (.testResult (.ite h.testResult h)) (.ite h.testResult h))))
    (.ite (.ite (.next (.endArb (.setCore (.ite (.testResult (.ite h.testResult h)) (.ite h.testResult h)))))
    (.ite (.next (.endArb (.setCore (.setCore (.ite (.testResult (.ite h.testResult h)) (.ite h.testResult h))))))
    (.next (.endArb (.takeOut (.setCore (.ite (.testResult (.ite h.testResult h)) (.ite h.testResult h))))))))
    (.next (.endArb (.setCore (.takeOut (.upd (.ite (.testResult (.ite h.testResult h)) (.ite h.testResult h))))))))))

theorem Kept.execStandbySweepDone {ok : Bool} {slice : Byte} (h : Kept s₀ s) : KeptOut s₀ (execStandbySweepDone ok slice s) :=
  .ite (.next h) (.ite (.next h.modHealth) (.next h.modHealth.takeOut.logSwitch))

theorem Kept.execMcRetest {ok : Bool} {slice : Byte} (h : Kept s₀ s) : KeptOut s₀ (execMcRetest ok slice s) :=
  .ite (.next h) (.ite (.next h.testResult.setCore) (.next h.testResult.modHealth))

theorem Kept.execMcRejoin (h : Kept s₀ s) : KeptOut s₀ (execMcRejoin s) :=
  .ite (.next h) (.next h.upd.setCore.countReturn.logSwitch)

theorem Kept.execMcReturn (h : Kept s₀ s) : KeptOut s₀ (execMcReturn s) := by
  unfold Machine.execMcReturn
  refine .ite (.next h) ?_
  split
  · exact .next h
  · exact .ite (.next h) (.next h.upd.modHealth.logSwitch)

/-! ## Regs -/

theorem Kept.writeHaw {fn port off : Nat} {w : W32} (h : Kept s₀ s) : Kept s₀ (writeHaw fn port off w s) :=
  .ite h.setHaw (.ite h.setHaw h)

theorem Kept.flushMsix {fn v : Nat} (h : Kept s₀ s) : Kept s₀ (flushMsix fn v s) :=
  .ite h (h.upd.forEach (fun _ _ h1 => h1.hostOut))

theorem Kept.writeMsix {fn off : Nat} {d : List Byte} (h : Kept s₀ s) : Kept s₀ (writeMsix fn off d s) := h.upd.flushMsix

theorem Kept.tokenGo {w : W32} (h : Kept s₀ s) : Kept s₀ (tokenGo w s) := .ite h.upd h

theorem Kept.writePf {off : Nat} {w : W32} (h : Kept s₀ s) : Kept s₀ (writePf off w s) :=
  .ite h.upd (.ite h.upd
    (.ite h.upd (.ite h.upd (.ite h.tokenGo (.ite h.upd (.ite (.ite h.upd h) (.ite h.setCmu (.ite h.setDgu h))))))))

theorem Kept.writeVf {fn off : Nat} {w : W32} (h : Kept s₀ s) : Kept s₀ (writeVf fn off w s) := .ite h.upd h

theorem Kept.writeMbx {fn port off : Nat} {d : List Byte} (h : Kept s₀ s) : Kept s₀ (writeMbx fn port off d s) :=
  .ite h.modMbx (h.forEach (fun _ _ h1 => .ite h1.modMbx (.ite h1.mbxGo h1)))

theorem Kept.writeBar {fn port off : Nat} {d : List Byte} (h : Kept s₀ s) : Kept s₀ (writeBar fn port off d s) :=
  .ite h.writeMbx (.ite h.writeMsix
    (.ite h.writeMsix (h.forEach (fun _ _ h1 => .ite h1.writeHaw (.ite (.ite h1.writePf h1.writeVf) h1)))))

theorem Kept.ctxPortWrite {u k acc off : Nat} {d : List Byte} (h : Kept s₀ s) : Kept s₀ (ctxPortWrite u k acc off d s) :=
  h.onPort (fun _ _ h1 => .ite h1.failCtx (.ite h1 h1.setCtx))

theorem Kept.vfSeen {fn : Nat} (h : Kept s₀ s) : Kept s₀ (vfSeen fn s) := .ite h h.upd

theorem Kept.execRegisterWrite {tgt : WrTarget} {data : List Byte} (h : Kept s₀ s) :
    KeptOut s₀ (execRegisterWrite tgt data s) := by
  unfold Machine.execRegisterWrite
  split
  · exact .next h.ctxPortWrite
  · exact .ite (.next h) (.ite (.next h.vfSeen) (.ite (.next h.vfSeen.badAccess) (.next h.vfSeen.writeBar)))

/-! ## HostPorts -/

theorem Kept.execHostPortOutOfL0 {port : Nat} (h : Kept s₀ s) : KeptOut s₀ (execHostPortOutOfL0 port s) :=
  .ite (.next h) (.next h.setHostPort)

theorem Kept.failHostRead {slot : Nat} (h : Kept s₀ s) : Kept s₀ (failHostRead slot s) := by
  unfold Machine.failHostRead
  split
  · exact h
  · exact .ite h (.ite h.storeDataRead
      (.ite h.createRead (.ite h.digestRead (.ite h.matchUpdateRead (.ite h.matchSearchRead h.failCmd)))))

theorem Kept.failHostGets {port f : Nat} (h : Kept s₀ s) : Kept s₀ (failHostGets port f s) :=
  .ite h (h.forBelow (fun _ _ h1 => .ite h1.endRequest h1))

theorem Kept.execHostLinkAbsenceTimeout {port : Nat} (h : Kept s₀ s) : KeptOut s₀ (execHostLinkAbsenceTimeout port s) :=
  .ite (.next h) (.next
    (.forEach (.forEach (h.setHostPort.forEach (fun _ _ h1 => h1.failHostRead)) (fun _ _ h1 => h1.failHostGets))
    (fun _ _ h1 => h1.sqError)))

theorem Kept.endWriteWait {port slot : Nat} (h : Kept s₀ s) : Kept s₀ (endWriteWait port slot s) := by
  unfold Machine.endWriteWait
  split
  · exact h
  · exact .ite h.succeed h

theorem Kept.execHostLinkReturn {port : Nat} (h : Kept s₀ s) : KeptOut s₀ (execHostLinkReturn port s) :=
  .ite (.next h) (.next (h.upd.setHostPort.forEach (fun _ _ h1 => h1.endWriteWait)))

theorem Kept.execHotReset {port : Nat} (h : Kept s₀ s) : KeptOut s₀ (execHotReset port s) :=
  .ite (.next h) (.next h.setHostPort.modMbx.resetPf)

theorem Kept.cxlSeen (h : Kept s₀ s) : Kept s₀ (cxlSeen s) := h.upd

theorem Kept.execCxlMemRead {addr : Nat} (h : Kept s₀ s) : KeptOut s₀ (execCxlMemRead addr s) :=
  .ite (.next h) (.next h.cxlSeen.devReadN.upd)

theorem Kept.execCxlMemWrite {addr : Nat} {data : List Byte} (h : Kept s₀ s) : KeptOut s₀ (execCxlMemWrite addr data s) :=
  .ite (.next h) (.next h.cxlSeen.devWriteN.upd)

/-! ## FanOut -/

theorem Kept.ackGot {g : Got} (h : Kept s₀ s) : Kept s₀ (ackGot g s) := h.sendFrame

theorem Kept.modXid {xid : W64} {f : Fan → Fan} (h : Kept s₀ s) : Kept s₀ (modXid xid f s) := h.upd

theorem Kept.sendFail {route : W32} {hops inst : Nat} {xid : W64} {st : Nat} (h : Kept s₀ s) :
    Kept s₀ (sendFail route hops inst xid st s) := h.sendFrame

theorem Kept.remoteR0 {q : QueryRun} {n : Option Nat} (h : Kept s₀ s) : Kept s₀ (remoteR0 q n s).2 := by
  unfold Machine.remoteR0
  split
  · exact h.freshNat
  · exact h.freshNat

theorem Kept.remoteFailure {slot : Nat} {n : Option Nat} {st : Nat} (h : Kept s₀ s) : Kept s₀ (remoteFailure slot n st s) := by
  unfold Machine.remoteFailure
  split
  · exact h
  · exact h.remoteR0.recordFailure.endIfFailed

theorem Kept.failPart {xid : W64} {n : Option Nat} {st : Nat} (h : Kept s₀ s) : Kept s₀ (failPart xid n st s) := by
  unfold Machine.failPart
  split
  · exact h.remoteFailure
  · exact h

theorem Kept.failAlone {i : Nat} {n : Option Nat} {st : Nat} (h : Kept s₀ s) : Kept s₀ (failAlone i n st s) := by
  unfold Machine.failAlone
  refine .forEach h ?_
  intro _ _ h1
  split
  · exact h1
  · refine .ite ?_ h1
    split
    · exact h1.remoteFailure
    · exact h1

theorem Kept.gotFail {g : Got} (h : Kept s₀ s) : Kept s₀ (gotFail g s) := by
  unfold Machine.gotFail
  split
  · exact .ite h.failAlone h
  · exact .ite h.failPart (.ite h.sendFail h.failPart)

theorem Kept.payOwed {xid : W64} (h : Kept s₀ s) : Kept s₀ (payOwed xid s) := by
  unfold Machine.payOwed
  split
  · exact h
  · exact h.modXid.forEach fun _ _ h1 => h1.sendFrame

theorem Kept.dropStopped {xid : W64} (h : Kept s₀ s) : Kept s₀ (dropStopped xid s) := by
  unfold Machine.dropStopped
  split
  · exact h
  · exact .ite h.dropFan h

theorem Kept.relay {ft : Nat} {g : Got} (h : Kept s₀ s) : Kept s₀ (relay ft g s) :=
  .ite h.ackGot (h.modXid.forEach (fun _ _ h1 => h1.sendFrame))

theorem Kept.payWorker {xid : W64} {w : Nat} (h : Kept s₀ s) : Kept s₀ (payWorker xid w s) := h.modXid.payOwed.dropStopped

theorem Kept.gotStop {g : Got} (h : Kept s₀ s) : Kept s₀ (gotStop g s) := by
  unfold Machine.gotStop
  split
  · exact h.ackGot
  · refine .dropStopped ?_
    split
    · exact h.modXid.relay.presentOutcome
    · exact h.modXid.relay

theorem Kept.gotArm {g : Got} (h : Kept s₀ s) : Kept s₀ (gotArm g s) := by
  unfold Machine.gotArm
  split
  · exact h.ackGot
  · refine .relay ?_
    split
    · exact h.modXid.modPipe
    · exact h.modXid

theorem Kept.barrierEdge {f : Fan} (h : Kept s₀ s) : Kept s₀ (barrierEdge f s) := by
  unfold Machine.barrierEdge
  split
  · exact h.modXid
  · exact .settle (h.modXid.forEach (fun _ _ h1 => h1.modPipe))

theorem Kept.armIfEnded {xid : W64} {n : Nat} (h : Kept s₀ s) : Kept s₀ (armIfEnded xid n s) := by
  unfold Machine.armIfEnded
  split
  · exact h
  · exact .ite h (h.modXid.forEach (fun _ _ h1 => h1.sendFrame))

theorem Kept.gotEnd {g : Got} (h : Kept s₀ s) : Kept s₀ (gotEnd g s) := by
  unfold Machine.gotEnd
  split
  · exact h
  · split
    · split
      · exact .ite h.modXid.armIfEnded h.modXid.armIfEnded.reportUp.settle
      · exact h.modXid.armIfEnded
    · split
      · exact h.modPipe.reportUp
      · exact h
    · exact h

theorem Kept.putReasm {r : Reasm} (h : Kept s₀ s) : Kept s₀ (putReasm r s) := h.upd

theorem Kept.storeSegment {slot : Nat} {r : Reasm} {d : List Byte} (h : Kept s₀ s) : Kept s₀ (storeSegment slot r d s).2 := by
  unfold Machine.storeSegment
  split
  next he => exact .of_snd h.takePages he
  next he =>
    extract_lets n q
    split
    next he' => exact .of_snd (.areaPut (.of_snd h.takePages he)) he'
    next he' => exact .of_snd (.areaPut (.of_snd h.takePages he)) he'

theorem Kept.storeRows {slot i pipe part item : Nat} {tys : List Ty} {rows : List (List Val)} {q : QueryRun} (h : Kept s₀ s) :
    Kept s₀ (storeRows slot i pipe part item tys rows q s).2 := by
  unfold Machine.storeRows
  split
  · rename_i he
    dsimp only
    exact .of_snd h.appendArea he
  · rename_i he
    dsimp only
    exact .modPipe (.of_snd h.appendArea he)

theorem Kept.chunkDone {g : Got} {slot : Nat} {q : QueryRun} {r : Reasm} {tys : List Ty} (h : Kept s₀ s) :
    Kept s₀ (chunkDone g slot q r tys s).2 := by
  unfold Machine.chunkDone
  split
  · rename_i he
    dsimp only
    exact .of_snd h.areaReadAll he
  · rename_i he
    split
    · dsimp only
      exact .of_snd h.areaReadAll he
    · dsimp only
      split
      · dsimp only
        exact .putReasm (.of_snd h.areaReadAll he)
      · split
        · rename_i he3
          dsimp only
          exact .of_snd (.storeRows (.of_snd h.areaReadAll he)) he3
        · rename_i he3
          dsimp only
          exact .settle (.putReasm (.of_snd (.storeRows (.of_snd h.areaReadAll he)) he3))

theorem Kept.gotSegment {g : Got} {slot : Nat} {q : QueryRun} (h : Kept s₀ s) : KeptSome s₀ (gotSegment g slot q s) := by
  unfold Machine.gotSegment
  refine .ite (.ite (.none) (.some h.failPart)) ?_
  split
  · rename_i he
    exact .ite (.none) (.some (.failPart (.of_snd h.storeSegment he)))
  · rename_i he
    refine .ite (.some (.putReasm (.of_snd h.storeSegment he))) ?_
    split
    · rename_i he1
      exact .ite (.none) (.some (.failPart (.of_snd (.chunkDone (.of_snd h.storeSegment he)) he1)))
    · rename_i he1
      exact .some (.of_snd (.chunkDone (.of_snd h.storeSegment he)) he1)

theorem Kept.gotXdata {g : Got} (h : Kept s₀ s) : KeptSome s₀ (gotXdata g s) := by
  unfold Machine.gotXdata
  split
  · exact .ite (.some h) .none
  split
  · exact .some h
  split
  · exact .some h
  · intro t he
    obtain ⟨x, -, hx⟩ := Option.bind_eq_some_iff.1 he
    exact h.gotSegment t hx

theorem Kept.gotFanout {g : Got} (h : Kept s₀ s) : Kept s₀ (gotFanout g s) := by
  unfold Machine.gotFanout
  refine .ite h ?_
  split
  · exact h.sendFail
  · exact .startBlock (.ite h.setCmd.upd h.setCmd.upd.modCmd.setDeadline)

/-! ## Hierarchy -/

theorem Kept.takeRole {manager : Bool} (h : Kept s₀ s) : Kept s₀ (takeRole manager s) := .ite h h.upd

theorem Kept.execSetRole {fn : Nat} (h : Kept s₀ s) : KeptOut s₀ (execSetRole fn s) :=
  .next (h.onMbxSub (fun _ _ h1 => .ite h1.mbxBad (.ite h1.mbxErr h1.takeRole.mbxOk)))

theorem Kept.rejectWorkers {fn i : Nat} (h : Kept s₀ s) : Kept s₀ (rejectWorkers fn i s) := h.upd.endMbx

theorem Kept.adoptTable {fn : Nat} (h : Kept s₀ s) : Kept s₀ (adoptTable fn s) :=
  .mbxOk (.forEach (.upd (h.forEach (fun _ _ h1 => h1.sendFrame))) (fun _ _ h1 => h1.sendFrame))

theorem Kept.sendHellos {fn : Nat} {ws : List Worker} (h : Kept s₀ s) : Kept s₀ (sendHellos fn ws s) :=
  h.modMbx.upd.forEach fun _ _ h1 => h1.sendFrame

theorem Kept.execSetWorkers {fn : Nat} {host : Option (List Byte)} (h : Kept s₀ s) : KeptOut s₀ (execSetWorkers fn host s) := by
  unfold Machine.execSetWorkers
  refine .next ?_
  refine .onMbxSub h ?_
  intro _ _ h1
  refine .ite h1.mbxBad ?_
  refine .ite h1.mbxErr ?_
  refine .mbxRead h1 ?_
  intro _ h2
  split
  · exact h2.mbxErr
  · refine .ite h2.endMbx ?_
    split
    · exact h2.endMbx
    · exact h2.sendHellos

theorem Kept.gotHello {g : Got} (h : Kept s₀ s) : Kept s₀ (gotHello g s) := .ite h h.upd.ackGot

theorem Kept.gotConfig {g : Got} (h : Kept s₀ s) : Kept s₀ (gotConfig g s) := .ite h h.upd

theorem Kept.gotBye {g : Got} (h : Kept s₀ s) : Kept s₀ (gotBye g s) := .ite h h.upd

theorem Kept.gotTelem {g : Got} (h : Kept s₀ s) : Kept s₀ (gotTelem g s) := by
  unfold Machine.gotTelem
  split
  · exact h
  · exact h.upd

theorem Kept.putPlan {i id : Nat} {b : Option (List Byte)} (h : Kept s₀ s) : Kept s₀ (putPlan i id b s) := h.upd

theorem Kept.planWhole {i id opt pbLen : Nat} {b : List Byte} (h : Kept s₀ s) : Kept s₀ (planWhole i id opt pbLen b s) := by
  unfold Machine.planWhole
  refine .ite h.endPlan ?_
  split
  · exact h.endPlan
  · exact h.endPlan
  · exact h.loadImage

theorem Kept.planSliceCome {g : Got} (h : Kept s₀ s) : KeptSome s₀ (planSliceCome g s) :=
  .ite (.none) (.ite (.some h.putPlan) (.some h.putPlan.planWhole))

theorem Kept.planDropCome {g : Got} (h : Kept s₀ s) : Kept s₀ (planDropCome g s) :=
  .ite h.putPlan.dropDist.dropLoading.unbindPlan.reapPlans.planToWorkers
    (.ite h.putPlan.endPlan h.putPlan.unbindPlan.reapPlans.distribute.finishPlan)

theorem Kept.planAnswered {i id w err detail off : Nat} (h : Kept s₀ s) : Kept s₀ (planAnswered i id w err detail off s) := by
  unfold Machine.planAnswered
  split
  · exact h
  · exact h.upd.finishPlan

theorem Kept.gotPlan {g : Got} (h : Kept s₀ s) : KeptSome s₀ (gotPlan g s) := by
  unfold Machine.gotPlan
  split
  · dsimp only
    split
    · exact h.planSliceCome
    · exact .some h.planDropCome
    · exact .some h.planAnswered
    · exact .some h
  · dsimp only
    split
    · exact h.planSliceCome
    · exact .some h.planDropCome
    · exact .some h
    · exact .some h

theorem Kept.helloAcked {f : RFrame} (h : Kept s₀ s) : Kept s₀ (helloAcked f s) := by
  unfold Machine.helloAcked
  split
  · exact .ite h.upd.adoptTable h.upd
  · exact h

theorem Kept.stopAcked {f : RFrame} {w : Nat} (h : Kept s₀ s) : Kept s₀ (stopAcked f w s) := by
  unfold Machine.stopAcked
  split
  · exact h
  · exact .ite h.modXid h.modXid.payWorker

theorem Kept.armAcked {f : RFrame} {w : Nat} (h : Kept s₀ s) : Kept s₀ (armAcked f w s) := by
  unfold Machine.armAcked
  split
  · exact h
  · exact .ite h.payWorker (.ite h.modXid.upd h.modXid)

theorem Kept.frameAcked {f : RFrame} (h : Kept s₀ s) : Kept s₀ (frameAcked f s) := by
  unfold Machine.frameAcked
  refine .ite h.helloAcked ?_
  split
  · exact .ite h.stopAcked (.ite h.armAcked h)
  · exact h

theorem Kept.gotAck {g : Got} (h : Kept s₀ s) : Kept s₀ (gotAck g s) := by
  unfold Machine.gotAck
  dsimp only
  split
  · exact h
  · split
    · exact h.upd.frameAcked.reportAll.settle
    · exact h.upd.frameAcked

theorem Kept.frameLost {f : RFrame} (h : Kept s₀ s) : Kept s₀ (frameLost f s) := by
  unfold Machine.frameLost
  refine .ite h.upd.failPart ?_
  refine .ite h.upd.failAlone ?_
  refine .ite ?_ ?_
  · split
    · exact h.upd.planAnswered
    · exact h.upd
  · refine .ite ?_ h.upd
    split
    · exact h.upd.rejectWorkers
    · exact h.upd

theorem Kept.markSeen {g : Got} (h : Kept s₀ s) : Kept s₀ (markSeen g s) := h.upd

theorem Kept.heardTop {g : Got} (h : Kept s₀ s) : Kept s₀ (heardTop g s) := .ite h.modXid h

theorem Kept.logOpen {detail : Nat} (h : Kept s₀ s) : Kept s₀ (logOpen detail s) := by
  unfold Machine.logOpen
  exact h.freshNat.logEvent

theorem Kept.newFrame {ft sub : Nat} {g : Got} (h : Kept s₀ s) : Kept s₀ (newFrame ft sub g s) :=
  .ite h.markSeen.ackGot.sendFail
    (.ite (.getD h.markSeen.ackGot.gotPlan h)
    (.ite (.getD h.markSeen.ackGot.gotXdata h)
    (.ite h.markSeen.gotStop
    (.ite h.markSeen.gotArm
    (.ite (.ite h.markSeen.ackGot.gotConfig h.markSeen.ackGot.gotBye)
    (.ite h.markSeen.ackGot.gotFanout
    (.ite h.markSeen.ackGot.gotEnd (.ite h.markSeen.ackGot.gotFail h.markSeen.ackGot.gotTelem))))))))

theorem Kept.ownFrame {ft sub : Nat} {g : Got} (h : Kept s₀ s) : Kept s₀ (ownFrame ft sub g s) :=
  .ite h.wake.heardTop.gotAck
    (.ite h.wake.heardTop.logOpen
    (.ite h.wake.heardTop.gotHello (.ite (.ite h.wake.heardTop h.wake.heardTop.ackGot) h.wake.heardTop.newFrame)))

/-! ## Links -/

theorem Kept.frameIn {l vc sub : Nat} {b : List Byte} (h : Kept s₀ s) : Kept s₀ (frameIn l vc sub b s) :=
  .ite h.logOpen (.ite h (.ite h.linkBytes (.ite h.logOpen h.ownFrame)))

theorem Kept.sentFlit {l k q : Nat} (h : Kept s₀ s) : Kept s₀ (sentFlit l k q s) := h.upd

theorem Kept.beginRetrain {l : Nat} (h : Kept s₀ s) : Kept s₀ (beginRetrain l s) := h.setLink

theorem Kept.resendWindow {l : Nat} (h : Kept s₀ s) : Kept s₀ (resendWindow l s) := h.forEach fun _ _ h1 => h1.sentFlit

theorem Kept.resend {l : Nat} (h : Kept s₀ s) : Kept s₀ (resend l s) :=
  .ite h (.ite h.setLink.resendWindow.beginRetrain h.setLink.resendWindow)

theorem Kept.takeAck {l ack : Nat} (h : Kept s₀ s) : Kept s₀ (takeAck l ack s) := by
  unfold Machine.takeAck
  dsimp only
  split
  · exact h
  · exact .ite h (h.setLink fun hw => ((List.length_drop ..).trans_le (Nat.sub_le ..)).trans hw)

theorem Kept.takeCredits {l vc n : Nat} (h : Kept s₀ s) : Kept s₀ (takeCredits l vc n s) := h.setLink

theorem Kept.sendNak {l : Nat} (h : Kept s₀ s) : Kept s₀ (sendNak l s) := .ite h h.setLink.sentFlit

theorem Kept.takeData {l : Nat} {f : FlitIn} (h : Kept s₀ s) : Kept s₀ (takeData l f s) := .ite h.setLink.frameIn h.setLink

theorem Kept.goodFlit {l : Nat} {f : FlitIn} (h : Kept s₀ s) : Kept s₀ (goodFlit l f s) :=
  .ite h (.ite h.takeAck.takeCredits.pump.resend
    (.ite h.takeAck.takeCredits.pump (.ite h.takeAck.takeCredits.pump.takeData h.takeAck.takeCredits.pump.sendNak)))

theorem Kept.execFlitReceive {link : Nat} {flit : FlitIn} (h : Kept s₀ s) : KeptOut s₀ (execFlitReceive link flit s) :=
  .ite (.next h) (.ite (.next h.setLink.sendNak) (.next h.goodFlit))

theorem Kept.execFlitAckTimeout {link : Nat} (h : Kept s₀ s) : KeptOut s₀ (execFlitAckTimeout link s) :=
  .ite (.next h) (.next h.resend)

theorem Kept.execFecBlockLockLoss {link : Nat} (h : Kept s₀ s) : KeptOut s₀ (execFecBlockLockLoss link s) :=
  .ite (.next h) (.next h.beginRetrain)

theorem Kept.linkDown {l : Nat} (h : Kept s₀ s) : Kept s₀ (linkDown l s) :=
  (h.setLink fun _ => Nat.zero_le _).logEvent.forEach fun _ _ h1 => h1.frameLost

theorem Kept.execRhizomeRetrainDone {link : Nat} {ok : Bool} (h : Kept s₀ s) : KeptOut s₀ (execRhizomeRetrainDone link ok s) := by
  unfold Machine.execRhizomeRetrainDone
  refine .ite (.next h) ?_
  split
  · exact .ite (.next h.setLink.resendWindow.pump) (.next h.linkDown)
  · exact .next h.setLink.endHolder
  · exact .next h

theorem Kept.execLinkUpRetry {link : Nat} (h : Kept s₀ s) : KeptOut s₀ (execLinkUpRetry link s) :=
  .ite (.next h) (.next (.requestGrant (h.setLink fun _ => Nat.zero_le _)))

theorem Kept.execFrameResendTimeout {route fseq : Nat} (h : Kept s₀ s) : KeptOut s₀ (execFrameResendTimeout route fseq s) := by
  unfold Machine.execFrameResendTimeout
  dsimp only
  split
  · exact .next h
  · exact .ite (.next h.frameLost) (.next h.upd.linkFrame)

theorem Kept.passVc {ft : Nat} (h : Kept s₀ s) : Kept s₀ (passVc ft s).2 := by
  unfold Machine.passVc
  split
  · exact h.freshNat
  · dsimp only
    exact h

theorem Kept.frameCome {ft sub l : Nat} {x : FrameIn} (h : Kept s₀ s) : Kept s₀ (frameCome ft sub l x s) :=
  .ite h h.passVc.frameIn

theorem Kept.execHelloFrame {link : Nat} {fr : FrameIn} (h : Kept s₀ s) : KeptOut s₀ (execHelloFrame link fr s) :=
  .next h.frameCome

theorem Kept.execConfigFrame {link : Nat} {fr : FrameIn} (h : Kept s₀ s) : KeptOut s₀ (execConfigFrame link fr s) :=
  .next h.frameCome

theorem Kept.execByeFrame {link : Nat} {fr : FrameIn} (h : Kept s₀ s) : KeptOut s₀ (execByeFrame link fr s) := .next h.frameCome

theorem Kept.execPlanFrame {link : Nat} {fr : FrameIn} (h : Kept s₀ s) : KeptOut s₀ (execPlanFrame link fr s) := .next h.frameCome

theorem Kept.execFanoutFrame {link : Nat} {fr : FrameIn} (h : Kept s₀ s) : KeptOut s₀ (execFanoutFrame link fr s) :=
  .next h.frameCome

theorem Kept.execXdataFrame {link : Nat} {fr : FrameIn} (h : Kept s₀ s) : KeptOut s₀ (execXdataFrame link fr s) :=
  .next h.frameCome

theorem Kept.execEndFrame {link : Nat} {fr : FrameIn} (h : Kept s₀ s) : KeptOut s₀ (execEndFrame link fr s) := .next h.frameCome

theorem Kept.execAckFrame {link : Nat} {fr : FrameIn} (h : Kept s₀ s) : KeptOut s₀ (execAckFrame link fr s) := .next h.frameCome

theorem Kept.execFailFrame {link : Nat} {fr : FrameIn} (h : Kept s₀ s) : KeptOut s₀ (execFailFrame link fr s) := .next h.frameCome

theorem Kept.execStopFrame {link : Nat} {fr : FrameIn} (h : Kept s₀ s) : KeptOut s₀ (execStopFrame link fr s) := .next h.frameCome

theorem Kept.execBarrierArmFrame {link : Nat} {fr : FrameIn} (h : Kept s₀ s) : KeptOut s₀ (execBarrierArmFrame link fr s) :=
  .next h.frameCome

theorem Kept.execTelemFrame {link : Nat} {fr : FrameIn} (h : Kept s₀ s) : KeptOut s₀ (execTelemFrame link fr s) :=
  .next h.frameCome

theorem Kept.execFanoutStopTimeout {xid : Nat} (h : Kept s₀ s) : KeptOut s₀ (execFanoutStopTimeout xid s) := by
  unfold Machine.execFanoutStopTimeout
  split
  · exact .next h
  · exact .ite (.next h) (.next (.modXid (h.forEach (fun _ _ h1 => h1.logOpen))))

theorem Kept.execFanoutWorkerTimeout {xid : Nat} (h : Kept s₀ s) : KeptOut s₀ (execFanoutWorkerTimeout xid s) := by
  unfold Machine.execFanoutWorkerTimeout
  split
  · exact .next h
  · refine .ite (.next h) ?_
    split
    · exact .next h.modXid.presentOutcome
    · exact .next h.modXid.dropFan

theorem Kept.execHbar0InFall (h : Kept s₀ s) : KeptOut s₀ (execHbar0InFall s) := .next h.upd

theorem Kept.execHbar0InRise (h : Kept s₀ s) : KeptOut s₀ (execHbar0InRise s) := .next h.upd

theorem Kept.barStop {f : Fan} (h : Kept s₀ s) : Kept s₀ (barStop f s) := by
  unfold Machine.barStop
  split
  · split
    · exact h.presentOutcome
    · exact h
  · split
    · exact h.modXid.presentOutcome
    · exact h.modXid.dropStopped

theorem Kept.execHbar0StopHold (h : Kept s₀ s) : KeptOut s₀ (execHbar0StopHold s) :=
  .ite (.next h) (.next (h.forEach (fun _ _ h1 => h1.barStop)))

theorem Kept.execHbar1InFall (h : Kept s₀ s) : KeptOut s₀ (execHbar1InFall s) :=
  .ite (.next h) (.next (h.upd.forEach (fun _ _ h1 => h1.barrierEdge)))

theorem Kept.execHbar1InRise (h : Kept s₀ s) : KeptOut s₀ (execHbar1InRise s) := .next h.upd

/-! ## LogRead -/

theorem Kept.execLogRead {fn : Nat} (h : Kept s₀ s) : KeptOut s₀ (execLogRead fn s) :=
  .next (h.onMbx (fun _ _ h1 => .ite h1.mbxBad (.ite h1.mbxBad (.endMbx (.ite h1 h1.hostWrite)))))

theorem Kept.execSidebandLogRead {start count : Nat} (h : Kept s₀ s) : KeptOut s₀ (execSidebandLogRead start count s) :=
  .next h.upd

/-! ## Spdm -/

theorem Kept.setConn {tr : Nat} {c : SpdmConn} (h : Kept s₀ s) : Kept s₀ (s.setConn tr c) := h.upd

theorem Kept.spdmSend {tr : Nat} {m : List Byte} (h : Kept s₀ s) : Kept s₀ (spdmSend tr m s) := h.upd

theorem Kept.onSpdm {tr : Nat} {f : State → State} (h : Kept s₀ s) (hf : ∀ t, Kept s₀ t → Kept s₀ (f t)) :
    KeptOut s₀ (onSpdm tr f s) := .ite (.next h) (.next (hf _ h))

theorem Kept.onRequest {tr len : Nat} {phase : Nat → Bool} {req : List Byte} {f : SpdmConn → State → State} (h : Kept s₀ s)
    (hf : ∀ a t, Kept s₀ t → Kept s₀ (f a t)) :
    Kept s₀ (onRequest tr len phase req f s) := .ite h.spdmError (.ite h.spdmError (.ite h.spdmError (hf _ _ h)))

theorem Kept.execGetVersion {tr : Nat} {req : List Byte} (h : Kept s₀ s) : KeptOut s₀ (execGetVersion tr req s) :=
  h.onSpdm fun _ h1 => .ite h1.spdmError h1.upd.setConn.spdmSend

theorem Kept.execGetCapabilities {tr : Nat} {req : List Byte} (h : Kept s₀ s) : KeptOut s₀ (execGetCapabilities tr req s) :=
  h.onSpdm (fun _ h1 => h1.onRequest (fun _ _ h2 => h2.setConn.spdmSend))

theorem Kept.execNegotiateAlgorithms {tr : Nat} {req : List Byte} (h : Kept s₀ s) :
    KeptOut s₀ (execNegotiateAlgorithms tr req s) :=
  h.onSpdm (fun _ h1 => h1.onRequest (fun _ _ h2 => .ite h2.spdmError h2.setConn.spdmSend))

theorem Kept.noteCerts {tr : Nat} {m : List Byte} (h : Kept s₀ s) : Kept s₀ (noteCerts tr m s) := h.setConn

theorem Kept.execGetDigests {tr : Nat} {req : List Byte} (h : Kept s₀ s) : KeptOut s₀ (execGetDigests tr req s) :=
  h.onSpdm (fun _ h1 => h1.onRequest (fun _ _ h2 => h2.noteCerts.spdmSend))

theorem Kept.execGetCertificate {tr : Nat} {req : List Byte} (h : Kept s₀ s) : KeptOut s₀ (execGetCertificate tr req s) :=
  h.onSpdm (fun _ h1 => h1.onRequest (fun _ _ h2 => .ite h2.spdmError h2.noteCerts.spdmSend))

theorem Kept.queueSign {tr ref : Nat} {msg body : List Byte} (h : Kept s₀ s) : Kept s₀ (queueSign tr ref msg body s) := h.upd

theorem Kept.execGetMeasurements {tr : Nat} {req : List Byte} (h : Kept s₀ s) : KeptOut s₀ (execGetMeasurements tr req s) := by
  unfold Machine.execGetMeasurements
  refine Kept.onSpdm h ?_
  intro _ h1
  refine .onRequest h1 ?_
  intro _ _ h2
  split
  · exact h2.spdmError
  · exact .ite h2.spdmError (.ite h2.spdmError (.ite h2.freshBytes.setConn.queueSign h2.freshBytes.setConn.spdmSend))

theorem Kept.execChallenge {tr : Nat} {req : List Byte} (h : Kept s₀ s) : KeptOut s₀ (execChallenge tr req s) :=
  h.onSpdm (fun _ h1 => h1.onRequest (fun _ _ h2 => .ite h2.spdmError (.ite h2.spdmError h2.freshBytes.setConn.queueSign)))

theorem Kept.execSpdmSigningDone (h : Kept s₀ s) : KeptOut s₀ (execSpdmSigningDone s) := by
  unfold Machine.execSpdmSigningDone
  split
  · exact .next h
  · exact .ite (.next h.upd.spdmError) (.ite (.next h.upd.spdmError) (.next h.upd.setConn.spdmSend))

theorem Kept.execGetSlhSig {tr : Nat} {req : List Byte} (h : Kept s₀ s) : KeptOut s₀ (execGetSlhSig tr req s) := by
  unfold Machine.execGetSlhSig
  refine Kept.onSpdm h ?_
  intro _ h1
  refine .onRequest h1 ?_
  intro _ _ h2
  refine .ite h2.spdmError ?_
  split
  · exact h2.freshBytes.spdmSend
  · exact .ite h2.spdmSend h2.spdmSend

/-! ## Tokens -/

theorem Kept.tokenAttempt {kind : Nat} {b : List Byte} {f : State → State} (h : Kept s₀ s) (hf : ∀ t, Kept s₀ t → Kept s₀ (f t)) :
    KeptOut s₀ (tokenAttempt kind b f s) := by
  unfold Machine.tokenAttempt
  refine .ite (.next h) ?_
  split
  · exact .ite (.next h) (.next h.endToken)
  · exact .ite (.next h) (.next (.endToken (hf _ h)))

theorem Kept.execDebugUnlock {token : List Byte} (h : Kept s₀ s) : KeptOut s₀ (execDebugUnlock token s) :=
  h.tokenAttempt fun _ h1 => h1.freshNat.upd.logEvent

theorem Kept.execToReturn {token : List Byte} (h : Kept s₀ s) : KeptOut s₀ (execToReturn token s) :=
  h.tokenAttempt fun _ h1 => h1.upd

theorem Kept.execToDecommissioned {token : List Byte} (h : Kept s₀ s) : KeptOut s₀ (execToDecommissioned token s) :=
  h.tokenAttempt fun _ h1 => h1.upd

theorem Kept.execRevokeKey {token : List Byte} (h : Kept s₀ s) : KeptOut s₀ (execRevokeKey token s) :=
  h.tokenAttempt fun _ h1 => h1.upd

/-! ## Pldm -/

theorem Kept.pldmSend {cmd : Nat} {d : List Byte} (h : Kept s₀ s) : Kept s₀ (pldmSend cmd d s) := h.upd

theorem Kept.pldmCode {cmd cc : Nat} (h : Kept s₀ s) : Kept s₀ (pldmCode cmd cc s) := h.pldmSend

theorem Kept.onPldm {tr : Nat} {f : State → State} (h : Kept s₀ s) (hf : ∀ t, Kept s₀ t → Kept s₀ (f t)) :
    KeptOut s₀ (onPldm tr f s) := .ite (.next h) (.next (hf _ h))

theorem Kept.toPldm {p : PldmState} (h : Kept s₀ s) : Kept s₀ (toPldm p s) := h.upd

theorem Kept.execQueryDeviceIdentifiers {tr : Nat} {_req : List Byte} (h : Kept s₀ s) :
    KeptOut s₀ (execQueryDeviceIdentifiers tr _req s) := h.onPldm fun _ h1 => h1.pldmSend

theorem Kept.execGetFirmwareParameters {tr : Nat} {_req : List Byte} (h : Kept s₀ s) :
    KeptOut s₀ (execGetFirmwareParameters tr _req s) := h.onPldm fun _ h1 => h1.pldmSend

theorem Kept.execRequestUpdate {tr : Nat} {_req : List Byte} (h : Kept s₀ s) : KeptOut s₀ (execRequestUpdate tr _req s) :=
  h.onPldm (fun _ h1 => .ite h1.pldmCode (.ite h1.pldmCode h1.upd.pldmCode))

theorem Kept.execPassComponentTable {tr : Nat} {req : List Byte} (h : Kept s₀ s) :
    KeptOut s₀ (execPassComponentTable tr req s) :=
  h.onPldm (fun _ h1 => .ite h1.pldmCode (.ite h1.pldmCode (.pldmSend (.ite h1.toPldm h1))))

theorem Kept.askFirmware (h : Kept s₀ s) : Kept s₀ (askFirmware s) := h.pldmSend

theorem Kept.execUpdateComponent {tr : Nat} {req : List Byte} (h : Kept s₀ s) : KeptOut s₀ (execUpdateComponent tr req s) :=
  h.onPldm (fun _ h1 => .ite h1.pldmCode (.ite h1.pldmCode (.ite h1.pldmSend h1.upd.pldmSend.askFirmware)))

theorem Kept.execRequestFirmwareData {tr : Nat} {req : List Byte} (h : Kept s₀ s) :
    KeptOut s₀ (execRequestFirmwareData tr req s) :=
  h.onPldm (fun _ h1 => .ite h1 (.ite h1.askFirmware (.ite h1.upd.askFirmware h1.upd)))

theorem Kept.execTransferComplete {tr : Nat} {_req : List Byte} (h : Kept s₀ s) :
    KeptOut s₀ (execTransferComplete tr _req s) := h.onPldm fun _ h1 => .ite h1 h1.toPldm.pldmCode

theorem Kept.execVerifyComplete {tr : Nat} {_req : List Byte} (h : Kept s₀ s) : KeptOut s₀ (execVerifyComplete tr _req s) := by
  unfold Machine.execVerifyComplete
  refine Kept.onPldm h ?_
  intro _ h1
  refine .ite h1 ?_
  split
  · exact h1.pldmCode
  · exact h1.toPldm.pldmCode

theorem Kept.execApplyComplete {tr : Nat} {_req : List Byte} (h : Kept s₀ s) : KeptOut s₀ (execApplyComplete tr _req s) :=
  h.onPldm fun _ h1 => .ite h1 h1.stageImage.toPldm.pldmCode

theorem Kept.recoverWith {b : List Byte} (h : Kept s₀ s) : Kept s₀ (recoverWith b s) := h.freshNat.upd.moduleReset

theorem Kept.execActivateFirmware {tr : Nat} {_req : List Byte} (h : Kept s₀ s) :
    KeptOut s₀ (execActivateFirmware tr _req s) := by
  unfold Machine.execActivateFirmware
  refine Kept.onPldm h ?_
  intro _ h1
  refine .ite h1.pldmCode ?_
  refine .ite h1.pldmCode ?_
  split
  · exact h1.pldmCode
  · exact .ite h1.pldmCode.recoverWith (.ite h1.pldmCode h1.toPldm.pldmCode.beginActivation)

theorem Kept.execGetStatus {tr : Nat} {_req : List Byte} (h : Kept s₀ s) : KeptOut s₀ (execGetStatus tr _req s) :=
  h.onPldm fun _ h1 => h1.pldmSend

theorem Kept.execCancelUpdate {tr : Nat} {_req : List Byte} (h : Kept s₀ s) : KeptOut s₀ (execCancelUpdate tr _req s) :=
  h.onPldm (fun _ h1 => .ite h1.pldmCode (.ite h1.pldmCode h1.upd.pldmCode))

/-! ## Step -/

theorem Kept.withFetchWord {nbits w : Nat} (h : Kept s₀ s) : Kept s₀ (s.withFetchWord nbits w) := h

/-! ## RegView -/

theorem Kept.barRead {fn off n : Nat} (h : Kept s₀ s) : Kept s₀ (barRead fn off n s).2 := .ite h h.badAccess

end

end Sys2Proof.Machine
end

section
/-!
PROOFS. What every command keeps, put together: the statements on every command and on the invariant.
-/

namespace Sys2Proof.Machine

section
set_option Elab.async false
variable {s₀ s t : State}

/-- Every command keeps the queue and the bounds of the invariant. -/
theorem Kept.exec (h : Kept s₀ s) : ∀ i, KeptOut s₀ (exec i s)
  | .nop .. => h.execNop
  | .query .. => h.execQuery
  | .queryPoint .. => h.execQueryPoint
  | .storeWrite .. => h.execStoreWrite
  | .storeRead .. => h.execStoreRead
  | .storeAppend .. => h.execStoreAppend
  | .storeFlush .. => h.execStoreFlush
  | .storeTrim .. => h.execStoreTrim
  | .storeAttrCreate .. => h.execStoreAttrCreate
  | .storeAttrDelete .. => h.execStoreAttrDelete
  | .storeAttrGet .. => h.execStoreAttrGet
  | .storeAttrResize .. => h.execStoreAttrResize
  | .digest .. => h.execDigest
  | .digestVerify .. => h.execDigestVerify
  | .matchUpdate .. => h.execMatchUpdate
  | .matchSearch .. => h.execMatchSearch
  | .abort .. => h.execAbort
  | .ringSqTailWrite .. => h.execRingSqTailWrite
  | .sporeWrite .. => h.execSporeWrite
  | .ringCqHeadWrite .. => h.execRingCqHeadWrite
  | .registerWrite .. => h.execRegisterWrite
  | .commandFetchStart .. => h.execCommandFetchStart
  | .sqEntryReadDone .. => h.execSqEntryReadDone
  | .sporeCompareReadDone .. => h.execSporeCompareReadDone
  | .paramBlockReadDone .. => h.execParamBlockReadDone
  | .groupDirectoryReadDone .. => h.execGroupDirectoryReadDone
  | .flowIdWaitEnd .. => h.execFlowIdWaitEnd
  | .deadlineTimerWaitEnd .. => h.execDeadlineTimerWaitEnd
  | .itemDispatch .. => h.execItemDispatch
  | .affWaitExpiry .. => h.execAffWaitExpiry
  | .itemEnd .. => h.execItemEnd
  | .commitFinish .. => h.execCommitFinish
  | .completionBufferDrain .. => h.execCompletionBufferDrain
  | .cqAggTimeExpiry .. => h.execCqAggTimeExpiry
  | .deadlineExpiry .. => h.execDeadlineExpiry
  | .breakerFinish .. => h.execBreakerFinish
  | .flowServiceEnd .. => h.execFlowServiceEnd
  | .handoffBatchTaken .. => h.execHandoffBatchTaken
  | .quadrantPark .. => h.execQuadrantPark
  | .admissionRequest .. => h.execAdmissionRequest
  | .grantGiven => h.execGrantGiven
  | .grantRelease .. => h.execGrantRelease
  | .grantExpiry .. => h.execGrantExpiry
  | .telemetrySample .. => h.execTelemetrySample
  | .capLimitRise => h.execCapLimitRise
  | .thermalLimitRise .. => h.execThermalLimitRise
  | .frondClockStep .. => h.execFrondClockStep
  | .observationWindowEnd .. => h.execObservationWindowEnd
  | .frondStop .. => h.execFrondStop
  | .budget .. => h.execBudget
  | .doubleFaultRecovery .. => h.execDoubleFaultRecovery
  | .statePageBacking .. => h.execStatePageBacking
  | .streamRequestDone .. => h.execStreamRequestDone
  | .addi .. => h.execAddi
  | .andi .. => h.execAndi
  | .ori .. => h.execOri
  | .xori .. => h.execXori
  | .lui .. => h.execLui
  | .shi .. => h.execShi
  | .slti .. => h.execSlti
  | .ldB .. => h.execLdB
  | .ldH .. => h.execLdH
  | .ldW .. => h.execLdW
  | .ldD .. => h.execLdD
  | .lduB .. => h.execLduB
  | .lduH .. => h.execLduH
  | .lduW .. => h.execLduW
  | .stB .. => h.execStB
  | .stH .. => h.execStH
  | .stW .. => h.execStW
  | .stD .. => h.execStD
  | .fldS .. => h.execFldS
  | .fldD .. => h.execFldD
  | .fstS .. => h.execFstS
  | .fstD .. => h.execFstD
  | .br .. => h.execBr
  | .j .. => h.execJ
  | .jl .. => h.execJl
  | .jr .. => h.execJr
  | .jlr .. => h.execJlr
  | .fp .. => h.execFp
  | .fmadd .. => h.execFmadd
  | .fmsub .. => h.execFmsub
  | .fnmadd .. => h.execFnmadd
  | .fnmsub .. => h.execFnmsub
  | .fcrd .. => h.execFcrd
  | .fcwr .. => h.execFcwr
  | .ho .. => h.execHo
  | .add .. => h.execAdd
  | .sub .. => h.execSub
  | .opAnd .. => h.execOpAnd
  | .opOr .. => h.execOpOr
  | .opXor .. => h.execOpXor
  | .sll .. => h.execSll
  | .srl .. => h.execSrl
  | .sra .. => h.execSra
  | .slt .. => h.execSlt
  | .sltu .. => h.execSltu
  | .minS .. => h.execMinS
  | .maxS .. => h.execMaxS
  | .minU .. => h.execMinU
  | .maxU .. => h.execMaxU
  | .clz .. => h.execClz
  | .ctz .. => h.execCtz
  | .popc .. => h.execPopc
  | .bswap .. => h.execBswap
  | .mulLo .. => h.execMulLo
  | .mulh .. => h.execMulh
  | .mulhu .. => h.execMulhu
  | .divS .. => h.execDivS
  | .divu .. => h.execDivu
  | .rem .. => h.execRem
  | .remu .. => h.execRemu
  | .trap .. => h.execTrap
  | .eret .. => h.execEret
  | .fence .. => h.execFence
  | .wfe .. => h.execWfe
  | .bpFlush .. => h.execBpFlush
  | .bpBar .. => h.execBpBar
  | .bpUnbar .. => h.execBpUnbar
  | .spclr .. => h.execSpclr
  | .strIssue .. => h.execStrIssue
  | .strWait .. => h.execStrWait
  | .strPoll .. => h.execStrPoll
  | .strCancel .. => h.execStrCancel
  | .vadd .. => h.execVadd
  | .vsub .. => h.execVsub
  | .vmul .. => h.execVmul
  | .vmulhu .. => h.execVmulhu
  | .vmin .. => h.execVmin
  | .vmax .. => h.execVmax
  | .vminu .. => h.execVminu
  | .vmaxu .. => h.execVmaxu
  | .vand .. => h.execVand
  | .vor .. => h.execVor
  | .vxor .. => h.execVxor
  | .vandn .. => h.execVandn
  | .vsll .. => h.execVsll
  | .vsrl .. => h.execVsrl
  | .vsra .. => h.execVsra
  | .vpick .. => h.execVpick
  | .vopx .. => h.execVopx
  | .veq .. => h.execVeq
  | .vne .. => h.execVne
  | .vlt .. => h.execVlt
  | .vge .. => h.execVge
  | .vltu .. => h.execVltu
  | .vgeu .. => h.execVgeu
  | .vovadd .. => h.execVovadd
  | .vovsub .. => h.execVovsub
  | .vovmul .. => h.execVovmul
  | .vovaddu .. => h.execVovaddu
  | .vovsubu .. => h.execVovsubu
  | .vovmulu .. => h.execVovmulu
  | .vcmpx .. => h.execVcmpx
  | .vfadd .. => h.execVfadd
  | .vfsub .. => h.execVfsub
  | .vfmul .. => h.execVfmul
  | .vfdiv .. => h.execVfdiv
  | .vfsqrt .. => h.execVfsqrt
  | .vfmin .. => h.execVfmin
  | .vfmax .. => h.execVfmax
  | .vfmacc .. => h.execVfmacc
  | .vfeq .. => h.execVfeq
  | .vflt .. => h.execVflt
  | .vfle .. => h.execVfle
  | .vfteq .. => h.execVfteq
  | .vftlt .. => h.execVftlt
  | .vfcvti .. => h.execVfcvti
  | .vicvtf .. => h.execVicvtf
  | .vfwid .. => h.execVfwid
  | .mkand .. => h.execMkand
  | .mkor .. => h.execMkor
  | .mkxor .. => h.execMkxor
  | .mkandn .. => h.execMkandn
  | .mknot .. => h.execMknot
  | .mkcopy .. => h.execMkcopy
  | .mkcount .. => h.execMkcount
  | .mkfirst .. => h.execMkfirst
  | .mkfill .. => h.execMkfill
  | .mkzero .. => h.execMkzero
  | .mtov .. => h.execMtov
  | .vtom .. => h.execVtom
  | .vcopy .. => h.execVcopy
  | .vbcast .. => h.execVbcast
  | .vext .. => h.execVext
  | .vins .. => h.execVins
  | .vseq .. => h.execVseq
  | .vsqueeze .. => h.execVsqueeze
  | .vwid .. => h.execVwid
  | .vwidu .. => h.execVwidu
  | .vnar .. => h.execVnar
  | .vsumr .. => h.execVsumr
  | .vsumur .. => h.execVsumur
  | .vminr .. => h.execVminr
  | .vmaxr .. => h.execVmaxr
  | .vminur .. => h.execVminur
  | .vmaxur .. => h.execVmaxur
  | .vandr .. => h.execVandr
  | .vorr .. => h.execVorr
  | .vxorr .. => h.execVxorr
  | .vbitcnt .. => h.execVbitcnt
  | .vfsumr .. => h.execVfsumr
  | .vfminr .. => h.execVfminr
  | .vfmaxr .. => h.execVfmaxr
  | .vld .. => h.execVld
  | .vst .. => h.execVst
  | .vlds .. => h.execVlds
  | .vsts .. => h.execVsts
  | .vgath .. => h.execVgath
  | .vscat .. => h.execVscat
  | .vunpk .. => h.execVunpk
  | .vpcmp .. => h.execVpcmp
  | .vpsel .. => h.execVpsel
  | .vdict .. => h.execVdict
  | .vrle .. => h.execVrle
  | .vrlec .. => h.execVrlec
  | .vhash .. => h.execVhash
  | .vhashx .. => h.execVhashx
  | .vhfin .. => h.execVhfin
  | .vpart .. => h.execVpart
  | .vstrip .. => h.execVstrip
  | .memReadRequest .. => h.execMemReadRequest
  | .memWriteRequest .. => h.execMemWriteRequest
  | .leafEntryChange .. => h.execLeafEntryChange
  | .releaseScrubBurst => h.execReleaseScrubBurst
  | .scrubFrameDone .. => h.execScrubFrameDone
  | .recolourDone .. => h.execRecolourDone
  | .patrolRead .. => h.execPatrolRead
  | .retrainDue .. => h.execRetrainDue
  | .retrainDone .. => h.execRetrainDone
  | .refreshDue .. => h.execRefreshDue
  | .cmuSearchBurst .. => h.execCmuSearchBurst
  | .cmuShadowWriteAck .. => h.execCmuShadowWriteAck
  | .cmuUpdateStep .. => h.execCmuUpdateStep
  | .cmuComparerCheck .. => h.execCmuComparerCheck
  | .cmuThrottleStepChange .. => h.execCmuThrottleStepChange
  | .cmuCmpcfgWrite .. => h.execCmuCmpcfgWrite
  | .cmuTableReclaim .. => h.execCmuTableReclaim
  | .smuJobEnd .. => h.execSmuJobEnd
  | .smuQuantumExpiry .. => h.execSmuQuantumExpiry
  | .engineUnitFault .. => h.execEngineUnitFault
  | .fabricLink .. => h.execFabricLink
  | .digContextOpen .. => h.execDigContextOpen
  | .digStart .. => h.execDigStart
  | .digClose .. => h.execDigClose
  | .digDataWrite .. => h.execDigDataWrite
  | .digLastWrite .. => h.execDigLastWrite
  | .digFinish .. => h.execDigFinish
  | .dguLaneGrant .. => h.execDguLaneGrant
  | .dguQuantumExpiry .. => h.execDguQuantumExpiry
  | .rotAlarm .. => h.execRotAlarm
  | .queueDrainComplete .. => h.execQueueDrainComplete
  | .orderingWaitEnd .. => h.execOrderingWaitEnd
  | .extentReadDone .. => h.execExtentReadDone
  | .nvmeCompletion .. => h.execNvmeCompletion
  | .nvmeTimeout .. => h.execNvmeTimeout
  | .destage => h.execDestage
  | .journalCommit => h.execJournalCommit
  | .journalCopyDone => h.execJournalCopyDone
  | .writeCacheRoom .. => h.execWriteCacheRoom
  | .storeMount .. => h.execStoreMount
  | .idle1Expiry => h.execIdle1Expiry
  | .idle2Expiry => h.execIdle2Expiry
  | .idle3Expiry => h.execIdle3Expiry
  | .psEntryComplete => h.execPsEntryComplete
  | .psExitComplete => h.execPsExitComplete
  | .info .. => h.execInfo
  | .instCreate .. => h.execInstCreate
  | .instResize .. => h.execInstResize
  | .instReset .. => h.execInstReset
  | .instanceFenceComplete .. => h.execInstanceFenceComplete
  | .instanceResetFinish .. => h.execInstanceResetFinish
  | .instDestroy .. => h.execInstDestroy
  | .resizeDrainDone .. => h.execResizeDrainDone
  | .resizeDrainTimeout .. => h.execResizeDrainTimeout
  | .functionLevelReset .. => h.execFunctionLevelReset
  | .vfEnableClear => h.execVfEnableClear
  | .queueCreate .. => h.execQueueCreate
  | .queueDelete .. => h.execQueueDelete
  | .queueReset .. => h.execQueueReset
  | .planLoad .. => h.execPlanLoad
  | .planUnload .. => h.execPlanUnload
  | .cmuTableCreate .. => h.execCmuTableCreate
  | .cmuTableRefill .. => h.execCmuTableRefill
  | .cmuTableDelete .. => h.execCmuTableDelete
  | .profileSet .. => h.execProfileSet
  | .profileSetComplete => h.execProfileSetComplete
  | .powerCapSet .. => h.execPowerCapSet
  | .telemetryCfg .. => h.execTelemetryCfg
  | .fwStage .. => h.execFwStage
  | .fwActivate .. => h.execFwActivate
  | .fwStandbyVerified .. => h.execFwStandbyVerified
  | .fwHandover .. => h.execFwHandover
  | .planReload .. => h.execPlanReload
  | .fwRejoin => h.execFwRejoin
  | .logRead .. => h.execLogRead
  | .sidebandLogRead .. => h.execSidebandLogRead
  | .setRole .. => h.execSetRole
  | .setWorkers .. => h.execSetWorkers
  | .admitSsd .. => h.execAdmitSsd
  | .mcDiverge => h.execMcDiverge
  | .mcWatchdog .. => h.execMcWatchdog
  | .mcCoreFault .. => h.execMcCoreFault
  | .arbitrationVerdict .. => h.execArbitrationVerdict
  | .standbySweepDone .. => h.execStandbySweepDone
  | .mcRetest .. => h.execMcRetest
  | .mcRejoin => h.execMcRejoin
  | .mcReturn => h.execMcReturn
  | .aonTick => h.execAonTick
  | .refclkLoss => h.execRefclkLoss
  | .refclkReturn => h.execRefclkReturn
  | .supplyWarning .. => h.execSupplyWarning
  | .sagClear => h.execSagClear
  | .sensorCalibration .. => h.execSensorCalibration
  | .thermalTrip .. => h.execThermalTrip
  | .thermalHoldEnd => h.execThermalHoldEnd
  | .vinReset => h.execVinReset
  | .railReset .. => h.execRailReset
  | .powerOnReset => h.execPowerOnReset
  | .modRstNAssert => h.execModRstNAssert
  | .perstNAssert => h.execPerstNAssert
  | .resetRelease .. => h.execResetRelease
  | .boot .. => h.execBoot
  | .hotReset .. => h.execHotReset
  | .hostLinkAbsenceTimeout .. => h.execHostLinkAbsenceTimeout
  | .hostLinkReturn .. => h.execHostLinkReturn
  | .cxlMemRead .. => h.execCxlMemRead
  | .cxlMemWrite .. => h.execCxlMemWrite
  | .flitReceive .. => h.execFlitReceive
  | .flitAckTimeout .. => h.execFlitAckTimeout
  | .rhizomeRetrainDone .. => h.execRhizomeRetrainDone
  | .linkUpRetry .. => h.execLinkUpRetry
  | .frameResendTimeout .. => h.execFrameResendTimeout
  | .helloFrame .. => h.execHelloFrame
  | .configFrame .. => h.execConfigFrame
  | .byeFrame .. => h.execByeFrame
  | .planFrame .. => h.execPlanFrame
  | .fanoutFrame .. => h.execFanoutFrame
  | .xdataFrame .. => h.execXdataFrame
  | .endFrame .. => h.execEndFrame
  | .ackFrame .. => h.execAckFrame
  | .failFrame .. => h.execFailFrame
  | .stopFrame .. => h.execStopFrame
  | .barrierArmFrame .. => h.execBarrierArmFrame
  | .telemFrame .. => h.execTelemFrame
  | .fanoutStopTimeout .. => h.execFanoutStopTimeout
  | .fanoutWorkerTimeout .. => h.execFanoutWorkerTimeout
  | .hbar0InFall => h.execHbar0InFall
  | .hbar0InRise => h.execHbar0InRise
  | .hbar0StopHold => h.execHbar0StopHold
  | .hbar1InFall => h.execHbar1InFall
  | .hbar1InRise => h.execHbar1InRise
  | .getVersion .. => h.execGetVersion
  | .getCapabilities .. => h.execGetCapabilities
  | .negotiateAlgorithms .. => h.execNegotiateAlgorithms
  | .getDigests .. => h.execGetDigests
  | .getCertificate .. => h.execGetCertificate
  | .challenge .. => h.execChallenge
  | .getMeasurements .. => h.execGetMeasurements
  | .getSlhSig .. => h.execGetSlhSig
  | .spdmSigningDone => h.execSpdmSigningDone
  | .debugUnlock .. => h.execDebugUnlock
  | .toReturn .. => h.execToReturn
  | .toDecommissioned .. => h.execToDecommissioned
  | .revokeKey .. => h.execRevokeKey
  | .queryDeviceIdentifiers tr req => (h.execQueryDeviceIdentifiers : KeptOut s₀ (Machine.execQueryDeviceIdentifiers tr req s))
  | .getFirmwareParameters tr req => (h.execGetFirmwareParameters : KeptOut s₀ (Machine.execGetFirmwareParameters tr req s))
  | .requestUpdate tr req => (h.execRequestUpdate : KeptOut s₀ (Machine.execRequestUpdate tr req s))
  | .passComponentTable .. => h.execPassComponentTable
  | .updateComponent .. => h.execUpdateComponent
  | .requestFirmwareData .. => h.execRequestFirmwareData
  | .transferComplete tr req => (h.execTransferComplete : KeptOut s₀ (Machine.execTransferComplete tr req s))
  | .verifyComplete tr req => (h.execVerifyComplete : KeptOut s₀ (Machine.execVerifyComplete tr req s))
  | .applyComplete tr req => (h.execApplyComplete : KeptOut s₀ (Machine.execApplyComplete tr req s))
  | .activateFirmware tr req => (h.execActivateFirmware : KeptOut s₀ (Machine.execActivateFirmware tr req s))
  | .getStatus tr req => (h.execGetStatus : KeptOut s₀ (Machine.execGetStatus tr req s))
  | .cancelUpdate tr req => (h.execCancelUpdate : KeptOut s₀ (Machine.execCancelUpdate tr req s))
  | .powerOnResetRelease => h.execPowerOnResetRelease
  | .vinApplied .. => h.execVinApplied
  | .hostPortOutOfL0 .. => h.execHostPortOutOfL0
  | .fecBlockLockLoss .. => h.execFecBlockLockLoss
  | .hostReadDone .. => h.execHostReadDone

/-- The invariant of a state without the command that runs, from what was kept. -/
theorem Inv.of_kept (hi : Inv s₀) (h : Kept s₀ s) : Inv s where
  log := h.log hi.log
  mem := h.mem hi.mem
  window := h.window hi.window
  queue c hc := hi.queue c (h.pending ▸ hc)

/-- A command that waits no more leaves the invariant as it is. -/
theorem Inv.rest {c : Instr} {l : List Instr} (hi : Inv s) (hp : s.pending = c :: l) : Inv { s with pending := l } where
  log := hi.log
  mem := hi.mem
  window := hi.window
  queue d hd := hi.queue d (hp ▸ List.mem_cons_of_mem c hd)

end

/-- Settles O58: `Kept.exec` says of every command that it answers a next state with the same queue. -/
theorem everyCommandCompletes : Obligations.EveryCommandCompletes := by
  intro c s
  obtain ⟨t, he, hk⟩ := (Kept.refl s).exec c
  exact ⟨t, he, hk.pending⟩

/-- Settles O59: the command that runs keeps the bounds (`Kept.exec`), and the queue loses only that command. -/
theorem stepKeepsInvariant : Obligations.StepKeepsInvariant := by
  intro s t hi hs
  unfold step at hs
  split at hs
  · obtain rfl : s = t := by injection hs
    exact hi
  next c rest hp =>
    obtain ⟨u, he, hk⟩ := (Kept.refl { s with pending := rest }).exec c
    obtain rfl : u = t := by
      rw [he] at hs
      injection hs
    exact (hi.rest hp).of_kept hk

end Sys2Proof.Machine
end

section
/-!
PROOFS. What the shared operations can change: host messages, events of the log and of HAW_EVENTS, wake events, ring counters. One lemma
per operation, which the proofs of single commands cite.
-/

namespace Sys2Proof.Machine

/-- A command does what its next state shows. -/
theorem Does.of {c : Instr} {s t : State} {post : State → Prop} (h : exec c s = .next t) (hp : post t) : Does c s post := ⟨t, h, hp⟩

theorem next_congr {s t : State} (h : s = t) : (.next s : Host.Outcome State Fault Refusal) = .next t := congrArg _ h

/-! ## Log and firmware events -/

theorem logEvent_eq (code src inst detail : Nat) (ext : Option Nat) (s : State) :
    ∃ l, logEvent code src inst detail ext s = { s with log := l } := by
  cases ext <;> exact ⟨_, rfl⟩

/-- An event without extension takes one sequence number of the log (R475). -/
theorem logEvent_next (code src inst detail : Nat) (s : State) :
    (logEvent code src inst detail none s).log.next = s.log.next + 1 := rfl

theorem fwEvent_next {code inst detail : Nat} {s : State} (h : s.mp.arbitrating = false) :
    (fwEvent code inst detail s).log.next = s.log.next + 1 := by
  rw [fwEvent_open h]
  rfl

theorem fwEvent_eq (code inst detail : Nat) (s : State) :
    ∃ l m, fwEvent code inst detail s = { s with log := l, mp := m } := by
  unfold fwEvent gateOut
  dsimp only
  split
  · exact ⟨s.log, _, rfl⟩
  · obtain ⟨l, hl⟩ := logEvent_eq code 0x01 inst detail none { s with mp := { s.mp with outSeq := s.mp.outSeq + 1 } }
    exact ⟨l, _, hl⟩

/-! ## Host messages (R400, R552) -/

theorem hostOut_up {p : Nat} {m : HostMsg} {s : State} (h : (s.hostPort p).up = true) :
    hostOut p m s = { s with out := { s.out with host := s.out.host ++ [m] } } := if_pos h

/-- A message goes out or waits at its port; which ports are in L0 or absent stays. -/
theorem hostOut_eq (p : Nat) (m : HostMsg) (s : State) :
    ∃ h w, hostOut p m s = { s with out := { s.out with host := h }, lnk := { s.lnk with hp := w } } ∧
      ∀ j, (w.get HostPort.reset j).up = (s.hostPort j).up ∧ (w.get HostPort.reset j).absent = (s.hostPort j).absent := by
  unfold hostOut
  dsimp only
  split
  · exact ⟨_, s.lnk.hp, rfl, fun _ => ⟨rfl, rfl⟩⟩
  split
  · exact ⟨s.out.host, s.lnk.hp, rfl, fun _ => ⟨rfl, rfl⟩⟩
  · refine ⟨s.out.host, _, rfl, fun j => ?_⟩
    by_cases hj : j = p
    · subst hj
      have hs := State.setHostPort_same s j { s.hostPort j with waitQ := (s.hostPort j).waitQ ++ [m] }
      exact ⟨(congrArg HostPort.up hs).trans rfl, (congrArg HostPort.absent hs).trans rfl⟩
    · have hs := State.setHostPort_ne s p { s.hostPort p with waitQ := (s.hostPort p).waitQ ++ [m] } j hj
      exact ⟨congrArg HostPort.up hs, congrArg HostPort.absent hs⟩

theorem hostSend_eq (p : Nat) (m : HostMsg) (s : State) :
    ∃ h w x, hostSend p m s = { s with out := { s.out with host := h }, lnk := { s.lnk with hp := w, msixPend := x } } ∧
      ∀ j, (w.get HostPort.reset j).up = (s.hostPort j).up ∧ (w.get HostPort.reset j).absent = (s.hostPort j).absent := by
  have hout : ∀ m : HostMsg, ∃ h w x,
      hostOut p m s = { s with out := { s.out with host := h }, lnk := { s.lnk with hp := w, msixPend := x } } ∧
      ∀ j, (w.get HostPort.reset j).up = (s.hostPort j).up ∧ (w.get HostPort.reset j).absent = (s.hostPort j).absent := fun m =>
    let ⟨h, w, e, hk⟩ := hostOut_eq p m s
    ⟨h, w, s.lnk.msixPend, e, hk⟩
  unfold hostSend
  split
  · split
    · split
      · exact ⟨s.out.host, s.lnk.hp, s.lnk.msixPend, rfl, fun _ => ⟨rfl, rfl⟩⟩
      · exact ⟨s.out.host, s.lnk.hp, _, rfl, fun _ => ⟨rfl, rfl⟩⟩
    · exact hout _
  · exact hout _

theorem hostSend_read {p a b c d : Nat} (s : State) : hostSend p (.read a b c d) s = hostOut p (.read a b c d) s := rfl

theorem hostWrite_eq (p fn a : Nat) (d : List Byte) (s : State) :
    ∃ h w, hostWrite p fn a d s = { s with out := { s.out with host := h }, lnk := { s.lnk with hp := w } } := by
  obtain ⟨h, w, e, -⟩ := hostOut_eq p (.write p fn a d) s
  exact ⟨h, w, e⟩

/-! ## Events of functions (R472) -/

theorem hawEvent_eq (i b : Nat) (s : State) : ∃ v h w x,
    hawEvent i b s = { s with haw := v, out := { s.out with host := h }, lnk := { s.lnk with hp := w, msixPend := x } } := by
  unfold hawEvent
  dsimp only
  split
  · obtain ⟨h, w, x, e, -⟩ := hostSend_eq (s.getHaw i).port (.msix (s.getHaw i).port i (s.getHaw i).vector)
      (s.setHaw i { s.getHaw i with events := (s.getHaw i).events ||| BitVec.ofNat 5 (2 ^ b) })
    exact ⟨_, h, w, x, e⟩
  · exact ⟨_, s.out.host, s.lnk.hp, s.lnk.msixPend, rfl⟩

theorem hawEventAll_eq (b : Nat) (s : State) : ∃ v h w x,
    hawEventAll b s = { s with haw := v, out := { s.out with host := h }, lnk := { s.lnk with hp := w, msixPend := x } } := by
  refine forEach_keeps (P := fun t : State => ∃ v h w x,
    t = { s with haw := v, out := { s.out with host := h }, lnk := { s.lnk with hp := w, msixPend := x } }) ?_
    ⟨s.haw, s.out.host, s.lnk.hp, s.lnk.msixPend, rfl⟩
  rintro e - t ⟨v, h, w, x, rfl⟩
  obtain ⟨v', h', w', x', e'⟩ := hawEvent_eq e.1 b
    { s with haw := v, out := { s.out with host := h }, lnk := { s.lnk with hp := w, msixPend := x } }
  exact ⟨v', h', w', x', e'⟩

@[simp] theorem logEvent_ring (code src inst detail : Nat) (ext : Option Nat) (s : State) :
    (logEvent code src inst detail ext s).ring = s.ring := by
  obtain ⟨l, h⟩ := logEvent_eq code src inst detail ext s
  rw [h]

@[simp] theorem hawEvent_ring (i b : Nat) (s : State) : (hawEvent i b s).ring = s.ring := by
  obtain ⟨v, h, w, x, e⟩ := hawEvent_eq i b s
  rw [e]

@[simp] theorem hostSend_ring (p : Nat) (m : HostMsg) (s : State) : (hostSend p m s).ring = s.ring := by
  obtain ⟨h, w, x, e, -⟩ := hostSend_eq p m s
  rw [e]

/-! ## Wake events and host reads (R433, R552) -/

theorem wake_eq (s : State) : ∃ p, wake s = { s with pwr := p } := by
  unfold wake
  dsimp only
  split
  · split
    · exact ⟨_, rfl⟩
    · exact ⟨_, rfl⟩
  split
  · exact ⟨_, rfl⟩
  · exact ⟨s.pwr, rfl⟩

/-- A module in PS0 stays as it is (R433). -/
theorem wake_awake {s : State} (h : awake s = true) : wake s = s := by
  simp only [awake, Bool.and_eq_true, decide_eq_true_eq, Bool.not_eq_true'] at h
  unfold wake
  simp [h.1, h.2]

theorem hostGave_present {α : Type} {s : State} {p : Nat} (d : Option α) (h : (s.hostPort p).absent = false) : hostGave s p d = d :=
  if_neg (by simp [h])

theorem hostGave_none {α : Type} (s : State) (p : Nat) : hostGave s p (none : Option α) = none := ite_self _

/-! ## Queues -/

section
variable {s t : State}

theorem sq_of_ring (h : t.ring = s.ring) (i n : Nat) : t.sq i n = s.sq i n := by unfold State.sq; rw [h]

theorem cq_of_ring (h : t.ring = s.ring) (i n : Nat) : t.cq i n = s.cq i n := by unfold State.cq; rw [h]

theorem cmd_of_ring (h : t.ring = s.ring) (k : Nat) : t.cmd k = s.cmd k := by unfold State.cmd; rw [h]

end

theorem State.setSq_ne (s : State) (i n : Nat) (x : Sq) {j m : Nat} (h : sqKey j m ≠ sqKey i n) : (s.setSq i n x).sq j m = s.sq j m :=
  Tbl.get_set_ne _ _ _ h

theorem State.setCq_ne (s : State) (i n : Nat) (x : Cq) {j m : Nat} (h : cqKey j m ≠ cqKey i n) : (s.setCq i n x).cq j m = s.cq j m :=
  Tbl.get_set_ne _ _ _ h

@[simp] theorem countRing_sq (i : Nat) (f : RingCnt → RingCnt) (s : State) (j m : Nat) : (countRing i f s).sq j m = s.sq j m := rfl
@[simp] theorem countRing_cq (i : Nat) (f : RingCnt → RingCnt) (s : State) (j m : Nat) : (countRing i f s).cq j m = s.cq j m := rfl
@[simp] theorem countRing_cmds (i : Nat) (f : RingCnt → RingCnt) (s : State) : (countRing i f s).ring.cmds = s.ring.cmds := rfl
@[simp] theorem countRing_cnt (i : Nat) (f : RingCnt → RingCnt) (s : State) : (countRing i f s).ring.cnt = f s.ring.cnt := rfl

end Sys2Proof.Machine
end

section
/-!
PROOFS. The statement on rings fails: it does not ask that the table of SQs names each SQ once. Where a second entry of an SQ's key holds a
reserved slot, the stall bits' write drops that entry, and the slot that is given is a lower one than the lowest free slot before.
-/

namespace Sys2Proof.Machine

/-- An ACTIVE SQ with one entry to fetch, and no slot reserved. -/
def oneEntrySq : Sq := { Sq.absent with st := .active, outlim := 8, tail := 1 }

/-- The module after its boot; the table of SQs lists SQ 0 of instance 0 twice, and slot 0 is reserved in the second entry. -/
def listedTwice : State :=
  { State.reset with
    pads := { PadSt.reset with booted := true, bootDue := false },
    ring := { RingSt.reset with sqs := [(0, oneEntrySq), (0, { oneEntrySq with slotRes := some 0 })], cqs := [(0, { Cq.absent with st := .active })] } }

/-- The turn is taken, and slot 0 is given although slot 1 was the lowest free one. -/
theorem listedTwice_given : freeSlot listedTwice = 1 ∧
    (match execCommandFetchStart 0 0 listedTwice with
      | .next t => decide ((t.sq 0 0).slotRes = some 0)
      | _ => false) = true ∧
    (fetchTurn 0 (setStall 0 0 false false false listedTwice)).isSome = true := by decide +kernel

/-- Refutes O17: in `listedTwice` the slot given to SQ 0 is not the lowest free one before the step. -/
theorem not_rings : ¬ Obligations.Rings := by
  intro h
  obtain ⟨-, -, -, -, -, -, -, hfetch, -⟩ := h
  obtain ⟨hfree, hgiven, hturn⟩ := listedTwice_given
  obtain ⟨u, hu⟩ := Option.isSome_iff_exists.1 hturn
  obtain ⟨t, ht, hsq, -⟩ := hfetch 0 0 u listedTwice ⟨by decide +kernel, by decide +kernel⟩ (by decide +kernel) (by decide +kernel)
    (by decide +kernel) (by decide +kernel) (by decide +kernel) (by decide +kernel) (by decide +kernel) (by decide +kernel)
    (by decide +kernel) hu
  rw [show execCommandFetchStart 0 0 listedTwice = .next t from ht] at hgiven
  have h0 : (t.sq 0 0).slotRes = some 0 := of_decide_eq_true hgiven
  rw [hsq, hfree] at h0
  exact absurd (Option.some.inj h0) (by decide)

end Sys2Proof.Machine
end

section
/-!
PROOFS. Lifecycle tokens (R543 to R545, R549): what an attempt leaves, by the first failing check or by its KIND.
-/

namespace Sys2Proof.Machine

/-- An attempt that a GO began and whose token fails a check ends with that check's code; a token of the wrong form ends it whatever its
KIND. -/
theorem tokenAttempt_bad {kind e : Nat} {b : List Byte} {f : State → State} {s : State} (hb : s.sec.tokenSt = .busy)
    (hr : s.pads.inReset = false) (he : tokenBad s b = some e) (hk : tokKind b = kind) :
    tokenAttempt kind b f s = .next (endToken .error e s) := by
  unfold tokenAttempt
  simp [hb, hr, he, hk]

/-- An attempt that passes every check ends with the effect of its KIND. -/
theorem tokenAttempt_good {kind : Nat} {b : List Byte} {f : State → State} {s : State} (hb : s.sec.tokenSt = .busy)
    (hr : s.pads.inReset = false) (hg : tokenBad s b = none) (hk : tokKind b = kind) :
    tokenAttempt kind b f s = .next (endToken .done 0 (f s)) := by
  unfold tokenAttempt
  simp [hb, hr, hg, hk]

theorem tokenAttempt_idle {kind : Nat} {b : List Byte} {f : State → State} {s : State} (hb : s.sec.tokenSt ≠ .busy) :
    tokenAttempt kind b f s = .next s := if_pos (.inl hb)

/-- Settles O55. -/
theorem lifecycleTokens : Obligations.LifecycleTokens := by
  unfold Obligations.LifecycleTokens
  refine ⟨fun b s hb hr hg hk => ?_, fun b s hb hr hg hk => ?_, fun b s hb hr hg hk => ?_, fun b s hb hr hg hk => ?_, ?_,
    fun b s hb => ?_, fun b s hlen => if_pos (.inl hlen)⟩
  · exact ⟨_, show execDebugUnlock b s = _ from tokenAttempt_good hb hr hg hk, rfl, rfl, rfl, rfl, rfl, rfl, rfl⟩
  · show execToReturn b s = _
    exact tokenAttempt_good hb hr hg hk
  · show execToDecommissioned b s = _
    exact tokenAttempt_good hb hr hg hk
  · exact ⟨_, show execRevokeKey b s = _ from tokenAttempt_good hb hr hg hk, rfl, rfl, rfl, rfl, rfl⟩
  · rintro c k b e s (⟨rfl, rfl⟩ | ⟨rfl, rfl⟩ | ⟨rfl, rfl⟩ | ⟨rfl, rfl⟩) hb hr he hk
    · exact show execDebugUnlock b s = _ from tokenAttempt_bad hb hr he hk
    · exact show execToReturn b s = _ from tokenAttempt_bad hb hr he hk
    · exact show execToDecommissioned b s = _ from tokenAttempt_bad hb hr he hk
    · exact show execRevokeKey b s = _ from tokenAttempt_bad hb hr he hk
  · exact ⟨show execDebugUnlock b s = _ from tokenAttempt_idle hb, show execToReturn b s = _ from tokenAttempt_idle hb,
      show execToDecommissioned b s = _ from tokenAttempt_idle hb, show execRevokeKey b s = _ from tokenAttempt_idle hb⟩

end Sys2Proof.Machine
end

section
/-!
PROOFS. Attestation over SPDM (R537 to R541): a request of version 1.3 in its phase and of its length goes to its handler, each response
goes out on its transport, and a signed one waits for its signature.
-/

namespace Sys2Proof.Machine

/-! ## Requests and responses -/

theorem onSpdm_up {tr : Nat} {f : State → State} {s : State} (h : BusUp tr s) : onSpdm tr f s = .next (f s) := by
  refine if_neg ?_
  have ht := h.transport
  rw [h.running, h.powered]
  simp only [Bool.false_eq_true, or_self, or_false]
  omega

/-- A request of version 1.3 that has its length and comes in its phase goes to its handler. -/
theorem onRequest_ok {tr len : Nat} {phase : Nat → Bool} {req : List Byte} {f : SpdmConn → State → State} {s : State}
    (hv : leAt req 0 1 = 0x13) (hp : phase (s.conn tr).phase = true) (hl : len ≤ req.length) :
    onRequest tr len phase req f s = f (s.conn tr) s := by
  unfold onRequest
  simp only [hv, hp, Nat.not_lt.2 hl, ne_eq, not_true_eq_false, if_false, Bool.not_true, Bool.false_eq_true]

theorem onRequest_unexpected {tr len : Nat} {phase : Nat → Bool} {req : List Byte} {f : SpdmConn → State → State} {s : State}
    (hv : leAt req 0 1 = 0x13) (hp : phase (s.conn tr).phase = false) :
    onRequest tr len phase req f s = spdmError tr seUnexpected 0 s := by
  unfold onRequest
  simp only [hv, hp, ne_eq, not_true_eq_false, if_false, Bool.not_false, if_true]

/-- Both together: what a command that is a request does. -/
theorem onSpdm_request {tr len : Nat} {phase : Nat → Bool} {req : List Byte} {f : SpdmConn → State → State} {s : State}
    (h : BusUp tr s) (hv : leAt req 0 1 = 0x13) (hp : phase (s.conn tr).phase = true) (hl : len ≤ req.length) :
    onSpdm tr (onRequest tr len phase req f) s = .next (f (s.conn tr) s) := by
  rw [onSpdm_up h, onRequest_ok hv hp hl]

theorem onSpdm_unexpected {tr len : Nat} {phase : Nat → Bool} {req : List Byte} {f : SpdmConn → State → State} {s : State}
    (h : BusUp tr s) (hv : leAt req 0 1 = 0x13) (hp : phase (s.conn tr).phase = false) :
    onSpdm tr (onRequest tr len phase req f) s = .next (spdmError tr seUnexpected 0 s) := by
  rw [onSpdm_up h, onRequest_unexpected hv hp]

theorem conn_setConn (s : State) (tr : Nat) (c : SpdmConn) : (s.setConn tr c).conn tr = c := Tbl.get_set_same ..

/-- A response carries the code in its second byte. -/
theorem answers_spdmSend {tr code : Nat} {m : List Byte} {s t : State} (hc : leAt m 1 1 = code) (ho : t.out = s.out) :
    Answers tr code m s (spdmSend tr m t) := by
  subst hc
  show t.out.bus ++ _ = s.out.bus ++ _
  rw [ho]

theorem leAt_one (b : List Byte) (off : Nat) : leAt b off 1 = (b.getD off 0).toNat := by
  unfold leAt
  cases h : b.drop off with
  | nil =>
    rw [List.drop_eq_nil_iff] at h
    simp [leNat, List.getD_eq_getElem?_getD, List.getElem?_eq_none h]
  | cons x xs =>
    have hx : b[off]? = some x := by rw [← List.head?_drop, h]; rfl
    simp [leNat, List.getD_eq_getElem?_getD, hx]

/-! ## Free values -/

theorem freshBytes_length (n : Nat) (s : State) : (freshBytes n s).1.length = n := by
  induction n generalizing s with
  | zero => rfl
  | succ n ih => simp [freshBytes, ih]

theorem freshBytes_state (n : Nat) (s : State) : (freshBytes n s).2 = { s with seed := s.seed + n } := by
  induction n generalizing s with
  | zero => rfl
  | succ n ih =>
    show (freshBytes n { s with seed := s.seed + 1 }).2 = _
    rw [ih]
    simp only [Nat.add_assoc, Nat.add_comm 1 n]

/-! ## Negotiation and certificates -/

theorem getVersion_does {tr : Nat} {req : List Byte} {s : State} (h : BusUp tr s) (hv : leAt req 0 1 = 0x10) :
    Does (.getVersion tr req) s fun t =>
      (t.conn tr).phase = 1 ∧ Answers tr 4 [0x10, 0x04, 0, 0, 0, 1, 0, 0x13] s t ∧ ∀ j, j ∈ t.sec.signQ → j.transport ≠ tr := by
  refine ⟨_, show execGetVersion tr req s = _ from (onSpdm_up h).trans (congrArg Host.Outcome.next (if_neg (by simp [hv]))), ?_, ?_, ?_⟩
  · exact congrArg SpdmConn.phase (conn_setConn _ tr _)
  · exact answers_spdmSend rfl rfl
  · intro j hj
    exact of_decide_eq_true (List.mem_filter.1 hj).2

theorem getCapabilities_does {tr : Nat} {req : List Byte} {s : State} (h : BusUp tr s) (hv : leAt req 0 1 = 0x13)
    (hp : (s.conn tr).phase = 1) (hl : 20 ≤ req.length) : Does (.getCapabilities tr req) s fun t =>
      (t.conn tr).phase = 2 ∧ ∃ d, Answers tr 0x61 d s t ∧ leAt d 5 1 = 18 ∧ leAt d 8 4 = 2 ^ 1 + 2 ^ 2 + 2 ^ 4 + 2 ^ 17 := by
  refine ⟨_, show execGetCapabilities tr req s = _ from onSpdm_request h hv (by simp [hp]) hl, ?_, _, answers_spdmSend rfl rfl, rfl, ?_⟩
  · exact congrArg SpdmConn.phase (conn_setConn _ tr _)
  · decide +kernel

theorem negotiateAlgorithms_does {tr : Nat} {req : List Byte} {s : State} (h : BusUp tr s) (hv : leAt req 0 1 = 0x13)
    (hp : (s.conn tr).phase = 2) (hl : 32 ≤ req.length) (ha : bit (leAt req 8 4) 3 = true) (hb : bit (leAt req 12 4) 1 = true) :
    Does (.negotiateAlgorithms tr req) s fun t =>
      (t.conn tr).phase = 3 ∧ ∃ d, Answers tr 0x63 d s t ∧ leAt d 12 4 = 8 ∧ leAt d 16 4 = 2 := by
  refine ⟨_, show execNegotiateAlgorithms tr req s = _ from
    (onSpdm_request h hv (by simp [hp]) hl).trans (congrArg Host.Outcome.next (if_neg (by simp [ha, hb]))), ?_, _, answers_spdmSend rfl rfl, ?_, ?_⟩
  · exact congrArg SpdmConn.phase (conn_setConn _ tr _)
  · decide +kernel
  · decide +kernel

theorem getDigests_does {tr : Nat} {req : List Byte} {s : State} (h : BusUp tr s) (hv : leAt req 0 1 = 0x13)
    (hp : (s.conn tr).phase = 3) (hl : 4 ≤ req.length) : Does (.getDigests tr req) s fun t =>
      Answers tr 1 ([0x13, 0x01, 3, 3] ++ sha384 (Config.certChain 0) ++ sha384 (Config.certChain 1)) s t :=
  ⟨_, show execGetDigests tr req s = _ from onSpdm_request h hv (by simp [hp]) hl, answers_spdmSend rfl rfl⟩

theorem getCertificate_does {tr : Nat} {req : List Byte} {s : State} (h : BusUp tr s) (hv : leAt req 0 1 = 0x13)
    (hp : (s.conn tr).phase = 3) (hl : 8 ≤ req.length) (hs : leAt req 2 1 ≤ 1)
    (ho : leAt req 4 2 < (Config.certChain (leAt req 2 1)).length) : Does (.getCertificate tr req) s fun t => ∃ d, Answers tr 2 d s t ∧
      d.drop 8 = ((Config.certChain (leAt req 2 1)).drop (leAt req 4 2)).take (leAt req 6 2) := by
  refine ⟨_, show execGetCertificate tr req s = _ from
    (onSpdm_request h hv (by simp [hp]) hl).trans (congrArg Host.Outcome.next (if_neg (by omega))), _, answers_spdmSend rfl rfl, rfl⟩

/-! ## Measurements and CHALLENGE -/

theorem getMeasurements_unsigned {tr : Nat} {req : List Byte} {s : State} (h : BusUp tr s) (hv : leAt req 0 1 = 0x13)
    (hp : (s.conn tr).phase = 3) (hl : 12 ≤ req.length) (hb : bit (leAt req 2 1) 0 = false) (hop : leAt req 3 1 = 0xFF)
    (hm : s.sec.lifecycle ≠ 0) : Does (.getMeasurements tr req) s fun t => ∃ nonce, nonce.length = 32 ∧
      Answers tr 0x60 (measBody req false ((List.range' 1 9).map (measBlock s)) nonce) s t ∧ t.sec.signQ = s.sec.signQ := by
  apply Does.of
  · show execGetMeasurements tr req s = _
    unfold execGetMeasurements
    rw [hb]
    refine (onSpdm_request h hv (by simp [hp]) hl).trans ?_
    simp only [hop, measBlocks, hm, freshBytes_state, Bool.false_eq_true, if_false, if_true, false_and, or_false,
      show (0xFF : Nat) ≠ 0 from by decide]
    rfl
  · exact ⟨_, freshBytes_length 32 s, answers_spdmSend rfl rfl, rfl⟩

theorem getMeasurements_signed {tr : Nat} {req : List Byte} {s : State} (h : BusUp tr s) (hv : leAt req 0 1 = 0x13)
    (hp : (s.conn tr).phase = 3) (hl : 45 ≤ req.length) (hb : bit (leAt req 2 1) 0 = true) (hop : leAt req 3 1 = 0xFF)
    (hslot : leAt req 36 1 = 0) (hc : canSign s = true) : Does (.getMeasurements tr req) s fun t =>
      t.out.bus = s.out.bus ∧ ∃ j, t.sec.signQ = s.sec.signQ ++ [j] ∧ j.transport = tr ∧ j.ref = 2 ∧ j.since = s.time := by
  have hm : s.sec.lifecycle ≠ 0 := by
    unfold canSign at hc
    simp only [Bool.and_eq_true, decide_eq_true_eq] at hc
    exact hc.1.2
  apply Does.of
  · show execGetMeasurements tr req s = _
    unfold execGetMeasurements
    rw [hb]
    refine (onSpdm_request h hv (by simp [hp]) hl).trans ?_
    simp only [hop, measBlocks, hm, hc, hslot, freshBytes_state, Bool.false_eq_true, if_false, if_true, true_and, or_false,
      Bool.not_true, ne_eq, not_true_eq_false, show ¬ (0xFF : Nat) = 0 from by decide]
    rfl
  · exact ⟨rfl, _, rfl, rfl, rfl, rfl⟩

theorem challenge_does {tr : Nat} {req : List Byte} {s : State} (h : BusUp tr s) (hv : leAt req 0 1 = 0x13)
    (hp : (s.conn tr).phase = 3) (hl : 44 ≤ req.length) (hslot : leAt req 2 1 = 0) (hsum : leAt req 3 1 = 0xFF)
    (hc : canSign s = true) : Does (.challenge tr req) s fun t => t.out.bus = s.out.bus ∧ (t.conn tr).certs = [] ∧
      ∃ j, t.sec.signQ = s.sec.signQ ++ [j] ∧ j.transport = tr ∧ j.ref = 1 := by
  apply Does.of
  · show execChallenge tr req s = _
    refine (onSpdm_request h hv (by simp [hp]) hl).trans ?_
    rewrite [if_neg (by simp [hc]), if_neg (by simp [hslot, hsum])]
    simp only [freshBytes_state]
    rfl
  · exact ⟨rfl, congrArg SpdmConn.certs (conn_setConn _ tr _), _, rfl, rfl, rfl⟩

theorem challenge_unsupported {tr : Nat} {req : List Byte} {s : State} (h : BusUp tr s) (hv : leAt req 0 1 = 0x13)
    (hp : (s.conn tr).phase = 3) (hl : 44 ≤ req.length) (hc : canSign s = false) :
    execChallenge tr req s = .next (spdmError tr seUnsupported 0x83 s) :=
  (onSpdm_request h hv (by simp [hp]) hl).trans (congrArg Host.Outcome.next (if_pos (by simp [hc])))

/-! ## Signatures -/

/-- The oldest signed response, in time and with its keys, goes out with its RSA signature, and its message becomes the pending one of its
kind. -/
theorem spdmSigningDone_signed {j : SignJob} {rest : List SignJob} {s : State} (hq : s.sec.signQ = j :: rest)
    (hk : s.sec.keysGone = false) (ht : s.time ≤ j.since + 200000000) :
    execSpdmSigningDone s = .next (spdmSend j.transport (j.body ++ fixLen 384 (Config.rsaSign j.msg))
      (State.setConn { s with sec := { s.sec with signQ := rest } } j.transport
        (if j.ref = 1 then { s.conn j.transport with pendChal := some j.msg } else { s.conn j.transport with pendMeas := some j.msg }))) := by
  unfold execSpdmSigningDone
  rw [hq]
  dsimp only
  rw [if_neg (by simp [hk]), if_neg (by omega)]
  rfl

theorem getSlhSig_portion {tr : Nat} {req m : List Byte} {s : State} (h : BusUp tr s) (hv : leAt req 0 1 = 0x13)
    (hp : (s.conn tr).phase = 3) (hl : 19 ≤ req.length) (hreq : isSlhReq req = true) (hm : s.sec.lifecycle ≠ 0)
    (hpend : pendingOf (s.conn tr) (leAt req 13 1) = some m) (hoff : leAt req 15 2 < 16224) (hmin : 1 ≤ leAt req 17 2)
    (hmax : leAt req 17 2 ≤ 4096) : Does (.getSlhSig tr req) s fun t => t.sec.spdm = s.sec.spdm ∧
      Answers tr 0x7E (vendorResp (slhHead 0 (leAt req 13 1) (leAt req 15 2)
        (min (leAt req 17 2) (16224 - leAt req 15 2)) (16224 - leAt req 15 2 - min (leAt req 17 2) (16224 - leAt req 15 2)) ++ sha384 m ++
        ((fixLen 16224 (Config.slhSign m)).drop (leAt req 15 2)).take (min (leAt req 17 2) (16224 - leAt req 15 2)))) s t := by
  apply Does.of
  · show execGetSlhSig tr req s = _
    refine (onSpdm_request h hv (by simp [hp]) hl).trans ?_
    rewrite [if_neg (not_or.2 ⟨by simp [hreq], hm⟩), hpend]
    exact congrArg Host.Outcome.next (if_neg (by omega))
  · exact ⟨rfl, answers_spdmSend rfl rfl⟩

theorem getSlhSig_none {tr : Nat} {req : List Byte} {s : State} (h : BusUp tr s) (hv : leAt req 0 1 = 0x13)
    (hp : (s.conn tr).phase = 3) (hl : 19 ≤ req.length) (hreq : isSlhReq req = true) (hm : s.sec.lifecycle ≠ 0)
    (hpend : pendingOf (s.conn tr) (leAt req 13 1) = none) : Does (.getSlhSig tr req) s fun t =>
      ∃ d, Answers tr 0x7E d s t ∧ leAt d 12 1 = 1 := by
  apply Does.of
  · show execGetSlhSig tr req s = _
    refine (onSpdm_request h hv (by simp [hp]) hl).trans ?_
    rewrite [if_neg (not_or.2 ⟨by simp [hreq], hm⟩), hpend]
    rfl
  · exact ⟨_, answers_spdmSend rfl (by rw [freshBytes_state]), by rw [leAt_one]; rfl⟩

/-- Settles O54. -/
theorem attestation : Obligations.Attestation := by
  unfold Obligations.Attestation
  refine ⟨fun tr req s h hv => getVersion_does h hv, fun tr req s h hv hp hl => getCapabilities_does h hv hp hl,
    fun tr req s h hv hp hl ha hb => negotiateAlgorithms_does h hv hp hl ha hb, ?_,
    fun tr req s h hv hp hl => getDigests_does h hv hp hl, fun tr req s h hv hp hl hs ho => getCertificate_does h hv hp hl hs ho,
    fun tr req s h hv hp hl hb hop hm => getMeasurements_unsigned h hv hp hl hb hop hm,
    fun tr req s h hv hp hl hb hop hslot hc => getMeasurements_signed h hv hp hl hb hop hslot hc,
    fun tr req s h hv hp hl hslot hsum hc => challenge_does h hv hp hl hslot hsum hc, ?_, ?_, ?_, ?_,
    fun tr req m s h hv hp hl hreq hm hpend hoff hmin hmax => getSlhSig_portion h hv hp hl hreq hm hpend hoff hmin hmax,
    fun tr req s h hv hp hl hreq hm hpend => getSlhSig_none h hv hp hl hreq hm hpend⟩
  · intro tr req s h hv hp
    have hp' : ((s.conn tr).phase == 3) = false := beq_false_of_ne hp
    exact ⟨show execGetDigests tr req s = _ from onSpdm_unexpected h hv hp',
      show execGetCertificate tr req s = _ from onSpdm_unexpected h hv hp',
      show execChallenge tr req s = _ from onSpdm_unexpected h hv hp',
      show execGetMeasurements tr req s = _ from onSpdm_unexpected h hv hp',
      show execGetSlhSig tr req s = _ from onSpdm_unexpected h hv hp'⟩
  · intro tr req s h hv hp hl hc
    exact show execChallenge tr req s = _ from challenge_unsupported h hv hp hl hc
  · intro s hq
    show execSpdmSigningDone s = _
    unfold execSpdmSigningDone
    rw [hq]
  · intro j rest s hq hk ht href
    refine ⟨_, show execSpdmSigningDone s = _ from spdmSigningDone_signed hq hk ht, rfl, ?_, ?_, _, answers_spdmSend rfl rfl⟩
    · exact (congrArg SpdmConn.pendChal (conn_setConn ..)).trans (by rw [if_pos href])
    · exact (congrArg SpdmConn.pendMeas (conn_setConn ..)).trans (by rw [if_pos href])
  · intro j rest s hq hk ht href
    have hne : ¬ j.ref = 1 := by omega
    refine ⟨_, show execSpdmSigningDone s = _ from spdmSigningDone_signed hq hk ht, rfl, ?_, ?_⟩
    · exact (congrArg SpdmConn.pendMeas (conn_setConn ..)).trans (by rw [if_neg hne])
    · exact (congrArg SpdmConn.pendChal (conn_setConn ..)).trans (by rw [if_neg hne])

end Sys2Proof.Machine
end

section
/-!
PROOFS. The PLDM firmware device (R546): what each of its commands leaves, state by state.
-/

namespace Sys2Proof.Machine

theorem onPldm_up {f : State → State} {s : State} (h : BusUp 1 s) : onPldm 1 f s = .next (f s) := by
  refine if_neg ?_
  rw [h.running, h.powered]
  simp

/-- A message of the device goes out over MCTP. -/
theorem answers_pldmSend {cmd : Nat} {d : List Byte} {s t : State} (ho : t.out.bus = s.out.bus) :
    Answers 1 cmd d s (pldmSend cmd d t) := by
  show t.out.bus ++ _ = s.out.bus ++ _
  rw [ho]

/-! ## Update mode and download -/

theorem requestUpdate_learn {r : List Byte} {s : State} (h : BusUp 1 s) (hst : stageRuns s = false) (hp : s.sec.pldm = .idle) :
    Does (.requestUpdate 1 r) s fun t => t.sec.pldm = .learn ∧ t.sec.pldmData = [] ∧ Answers 1 0x10 [0] s t := by
  apply Does.of
  · show execRequestUpdate 1 r s = _
    refine (onPldm_up h).trans ?_
    rewrite [if_neg (by simp [hst]), if_neg (by simp [hp])]
    rfl
  · exact ⟨rfl, rfl, answers_pldmSend rfl⟩

theorem passComponentTable_ready {r : List Byte} {s : State} (h : BusUp 1 s) (hp : s.sec.pldm = .learn) (hid : leAt r 3 2 = 1)
    (hend : bit (leAt r 0 1) 2 = true) : Does (.passComponentTable 1 r) s fun t =>
      t.sec.pldm = .ready ∧ Answers 1 0x13 [0, 0, 0] s t := by
  apply Does.of
  · show execPassComponentTable 1 r s = _
    refine (onPldm_up h).trans ?_
    rewrite [if_neg (by simp [hp]), if_neg (by simp [hp])]
    simp only [hid, hend, decide_true, if_true]
    rfl
  · exact ⟨rfl, answers_pldmSend rfl⟩

theorem updateComponent_download {r : List Byte} {s : State} (h : BusUp 1 s) (hp : s.sec.pldm = .ready) (hid : leAt r 2 2 = 1)
    (hmin : 1 ≤ leAt r 9 4) (hmax : leAt r 9 4 ≤ 33554432) : Does (.updateComponent 1 r) s fun t =>
      t.sec.pldm = .download ∧ t.sec.pldmSize = leAt r 9 4 ∧ t.sec.pldmData = [] ∧
      t.out.bus = s.out.bus ++ [⟨1, 0x14, [0, 0, 0]⟩, ⟨1, 0x15, leBytes 0 4 ++ leBytes (min 4096 (leAt r 9 4)) 4⟩] := by
  apply Does.of
  · show execUpdateComponent 1 r s = _
    refine (onPldm_up h).trans ?_
    exact congrArg Host.Outcome.next ((if_neg (by simp [hp])).trans ((if_neg (by simp [hp])).trans (if_neg (by omega))))
  · exact ⟨rfl, rfl, rfl, by simp [askFirmware, pldmSend]⟩

theorem requestFirmwareData_takes {r : List Byte} {s : State} (h : BusUp 1 s) (hp : s.sec.pldm = .download)
    (hl : s.sec.pldmData.length < s.sec.pldmSize) (hcc : leAt r 0 1 = 0)
    (hr : r.length = min 4096 (s.sec.pldmSize - s.sec.pldmData.length) + 1) : Does (.requestFirmwareData 1 r) s fun t =>
      t.sec.pldmData = s.sec.pldmData ++ r.drop 1 ∧ t.sec.pldm = .download := by
  apply Does.of
  · show execRequestFirmwareData 1 r s = _
    refine (onPldm_up h).trans ?_
    exact congrArg Host.Outcome.next ((if_neg (by simp only [hp, ne_eq, not_true_eq_false, false_or]; omega)).trans (if_neg (by omega)))
  · dsimp only
    split <;> exact ⟨rfl, hp⟩

theorem requestFirmwareData_again {r : List Byte} {s : State} (h : BusUp 1 s) (hp : s.sec.pldm = .download)
    (hl : s.sec.pldmData.length < s.sec.pldmSize) (hcc : leAt r 0 1 ≠ 0) :
    execRequestFirmwareData 1 r s = .next (askFirmware s) := by
  refine (onPldm_up h).trans ?_
  exact congrArg Host.Outcome.next ((if_neg (by simp only [hp, ne_eq, not_true_eq_false, false_or]; omega)).trans (if_pos (.inl hcc)))

/-! ## Verify, apply and activate -/

theorem transferComplete_verify {r : List Byte} {s : State} (h : BusUp 1 s) (hp : s.sec.pldm = .download)
    (hl : s.sec.pldmSize ≤ s.sec.pldmData.length) : Does (.transferComplete 1 r) s fun t =>
      t.sec.pldm = .verify ∧ Answers 1 0x16 [0] s t := by
  apply Does.of
  · show execTransferComplete 1 r s = _
    refine (onPldm_up h).trans ?_
    exact congrArg Host.Outcome.next (if_neg (by simp only [hp, ne_eq, not_true_eq_false, false_or]; omega))
  · exact ⟨rfl, answers_pldmSend rfl⟩

theorem verifyComplete_passes {r : List Byte} {s : State} (h : BusUp 1 s) (hp : s.sec.pldm = .verify)
    (hc : fwCheck s s.sec.pldmData = none) : Does (.verifyComplete 1 r) s fun t => t.sec.pldm = .apply ∧ Answers 1 0x17 [0] s t := by
  apply Does.of
  · show execVerifyComplete 1 r s = _
    refine (onPldm_up h).trans ?_
    rewrite [if_neg (by simp [hp]), hc]
    rfl
  · exact ⟨rfl, answers_pldmSend rfl⟩

theorem verifyComplete_fails {r : List Byte} {d o : Nat} {s : State} (h : BusUp 1 s) (hp : s.sec.pldm = .verify)
    (hc : fwCheck s s.sec.pldmData = some (d, o)) : Does (.verifyComplete 1 r) s fun t =>
      t.sec.pldm = .verify ∧ Answers 1 0x17 (leBytes d 1) s t ∧ t.mp = s.mp := by
  apply Does.of
  · show execVerifyComplete 1 r s = _
    refine (onPldm_up h).trans ?_
    rewrite [if_neg (by simp [hp]), hc]
    rfl
  · exact ⟨hp, answers_pldmSend rfl, rfl⟩

theorem applyComplete_stages {r : List Byte} {s : State} (h : BusUp 1 s) (hp : s.sec.pldm = .apply) (ha : s.mp.arbitrating = false) :
    Does (.applyComplete 1 r) s fun t => t.sec.pldm = .ready ∧ t.mp.staged = some (fwVersion s.sec.pldmData, s.sec.pldmData) ∧
      Answers 1 0x18 [0] s t ∧ t.log.next = s.log.next + 1 := by
  apply Does.of
  · show execApplyComplete 1 r s = _
    refine (onPldm_up h).trans ?_
    rewrite [if_neg (by simp [hp]), stageImage]
    exact congrArg (fun t => Host.Outcome.next (pldmCode 0x18 0 (toPldm .ready t))) (fwEvent_open ha)
  · exact ⟨rfl, rfl, answers_pldmSend rfl, rfl⟩

/-- Activation begins with both HAW events, the standby core under test, and step 2 of R481. -/
theorem beginActivation_begun (mbx : Option Nat) (s : State) :
    (beginActivation mbx s).sec = s.sec ∧ (beginActivation mbx s).out.bus = s.out.bus ∧
    (beginActivation mbx s).mp.activating = true ∧ (beginActivation mbx s).mp.actStep = 2 ∧
    (beginActivation mbx s).mp.actMbx = mbx ∧ (beginActivation mbx s).mp.staged = s.mp.staged := by
  unfold beginActivation setStandby
  obtain ⟨v, h, w, x, e⟩ := hawEventAll_eq 3 s
  obtain ⟨v', h', w', x', e'⟩ := hawEventAll_eq 4 (hawEventAll 3 s)
  rw [e', e]
  dsimp only
  split <;> exact ⟨rfl, rfl, rfl, rfl, rfl, rfl⟩

theorem activateFirmware_begins {r : List Byte} {v : W32} {b : List Byte} {s : State} (h : BusUp 1 s) (hp : s.sec.pldm = .ready)
    (hs : s.mp.staged = some (v, b)) (hr : s.sec.recovery = false) (ha : s.mp.activating = false) (hl : s.mp.lockstep = true)
    (hb : s.pads.booted = true) : Does (.activateFirmware 1 r) s fun t =>
      t.sec.pldm = .activate ∧ t.mp.activating = true ∧ t.mp.actStep = 2 ∧ t.mp.actMbx = none ∧ t.mp.staged = some (v, b) ∧
      Answers 1 0x1A [0] s t := by
  apply Does.of
  · show execActivateFirmware 1 r s = _
    refine (onPldm_up h).trans ?_
    rewrite [if_neg (by simp [hp]), if_neg (by simp [hp]), hs]
    exact congrArg Host.Outcome.next ((if_neg (by simp [hr])).trans (if_neg (by simp [ha, hl, hb])))
  · obtain ⟨hsec, hbus, hact, hstep, hmbx, hstaged⟩ := beginActivation_begun none (pldmCode 0x1A 0 (toPldm .activate s))
    refine ⟨congrArg SecSt.pldm hsec, hact, hstep, hmbx, hstaged.trans hs, ?_⟩
    exact hbus

theorem activateFirmware_unstaged {r : List Byte} {s : State} (h : BusUp 1 s) (hp : s.sec.pldm = .ready) (hs : s.mp.staged = none) :
    execActivateFirmware 1 r s = .next (pldmCode 0x1A pcIncomplete s) := by
  refine (onPldm_up h).trans ?_
  rewrite [if_neg (by simp [hp]), if_neg (by simp [hp]), hs]
  rfl

theorem cancelUpdate_idle {r : List Byte} {s : State} (h : BusUp 1 s) (hi : s.sec.pldm ≠ .idle) (ha : s.sec.pldm ≠ .activate) :
    Does (.cancelUpdate 1 r) s fun t => t.sec.pldm = .idle ∧ t.sec.pldmData = [] ∧ t.mp = s.mp ∧ Answers 1 0x1D [0] s t := by
  apply Does.of
  · show execCancelUpdate 1 r s = _
    exact (onPldm_up h).trans (congrArg Host.Outcome.next ((if_neg hi).trans (if_neg ha)))
  · exact ⟨rfl, rfl, rfl, answers_pldmSend rfl⟩

/-- Settles O56. -/
theorem firmwareDevice : Obligations.FirmwareDevice := by
  unfold Obligations.FirmwareDevice
  refine ⟨?_, ?_, fun r s h hst hp => requestUpdate_learn h hst hp, ?_, fun r s h hp hid hend => passComponentTable_ready h hp hid hend,
    fun r s h hp hid hmin hmax => updateComponent_download h hp hid hmin hmax,
    fun r s h hp hl hcc hr => requestFirmwareData_takes h hp hl hcc hr, ?_,
    fun r s h hp hl => transferComplete_verify h hp hl, fun r s h hp hc => verifyComplete_passes h hp hc,
    fun r d o s h hp hc => verifyComplete_fails h hp hc, fun r s h hp ha => applyComplete_stages h hp ha,
    fun r v b s h hp hs hr ha hl hb => activateFirmware_begins h hp hs hr ha hl hb, ?_, ?_,
    fun r s h hi ha => cancelUpdate_idle h hi ha, ?_⟩
  · intro r s h
    exact show execQueryDeviceIdentifiers 1 r s = _ from onPldm_up h
  · intro r s h hs
    refine (show execGetFirmwareParameters 1 r s = _ from onPldm_up h).trans ?_
    rw [hs]
    rfl
  · intro r s h hst
    exact (show execRequestUpdate 1 r s = _ from onPldm_up h).trans (congrArg Host.Outcome.next (if_pos hst))
  · intro r s h hp hl hcc
    exact show execRequestFirmwareData 1 r s = _ from requestFirmwareData_again h hp hl hcc
  · intro r s h hp hs
    exact show execActivateFirmware 1 r s = _ from activateFirmware_unstaged h hp hs
  · intro r s h
    exact show execGetStatus 1 r s = _ from onPldm_up h
  · intro r s h hp
    exact ⟨(show execPassComponentTable 1 r s = _ from onPldm_up h).trans (congrArg Host.Outcome.next (if_pos hp)),
      (show execUpdateComponent 1 r s = _ from onPldm_up h).trans (congrArg Host.Outcome.next (if_pos hp)),
      (show execActivateFirmware 1 r s = _ from onPldm_up h).trans (congrArg Host.Outcome.next (if_pos hp)),
      (show execCancelUpdate 1 r s = _ from onPldm_up h).trans (congrArg Host.Outcome.next (if_pos hp))⟩

end Sys2Proof.Machine
end

section
/-!
PROOFS. Retrains, refreshes and failures of memory channels (R352, R353).
-/

namespace Sys2Proof.Machine

/-- Where no request waits for a channel, its return to service changes nothing else. -/
theorem resumeChan_none {ch : Nat} {s : State} (h : s.mem.waits.all (fun x => decide (chanAt x.addr ≠ ch)) = true) :
    resumeChan ch s = s := by
  have hw : ∀ r ∈ s.mem.waits, chanAt r.addr ≠ ch := fun r hr => of_decide_eq_true (List.all_eq_true.1 h r hr)
  have hmine : (s.mem.waits.filter fun r => decide (chanAt r.addr = ch)) = [] :=
    List.filter_eq_nil_iff.2 fun r hr => by simp [hw r hr]
  have hkept : (s.mem.waits.filter fun r => decide (chanAt r.addr ≠ ch)) = s.mem.waits :=
    List.filter_eq_self.2 fun r hr => by simp [hw r hr]
  unfold resumeChan
  simp only [hmine, hkept, forEach]

section
variable {ch : Nat} {s : State} (h : s.mem.waits.all (fun x => decide (chanAt x.addr ≠ ch)) = true)
include h

theorem trained_none : trained ch s = s.setChan ch { s.chan ch with
    st := .active, retrain := (s.chan ch).retrain + 1, fails := 0, retrainDue := false, lastRetrain := s.time, lastTemp := (s.chan ch).temp } :=
  resumeChan_none h

/-- A retrain that failed is logged, and a channel whose third failure in a row this is fails for good. -/
theorem retrainDone_failed (hst : (s.chan ch).st = .retraining) : execRetrainDone ch false s = .next
    (let t := logEvent 0x0305 (0x10 + ch / 24) 0 (ch + 256 * ((s.chan ch).fails + 1)) none
       (s.setChan ch { s.chan ch with st := .active, fails := (s.chan ch).fails + 1 })
     if 3 ≤ (s.chan ch).fails + 1 then failChannel ch t else t) := by
  unfold execRetrainDone
  rw [if_neg (by simp [hst]), if_neg (by decide)]
  dsimp only
  split
  · exact congrArg Host.Outcome.next (resumeChan_none h)
  · exact congrArg Host.Outcome.next (resumeChan_none h)

end

/-- Settles O34. -/
theorem channels : Obligations.Channels := by
  unfold Obligations.Channels
  refine ⟨?_, ?_, ?_, ?_, ?_, ?_, ?_⟩
  · intro ch s hst hdue ht
    show execRetrainDue ch s = _
    unfold execRetrainDue
    rw [if_neg (by simp [hst]), if_neg (by simp [hdue]), if_pos (.inl ht)]
  · intro ch s hst hdue ht
    show execRetrainDue ch s = _
    unfold execRetrainDue
    rw [if_neg (by simp [hst]), if_neg (by simp [hdue]), if_neg (by omega)]
  · intro ch s hst hdue
    show execRetrainDue ch s = _
    unfold execRetrainDue
    rw [if_neg (by simp [hst]), if_pos hdue]
  · intro ch s hst hw
    apply Does.of
    · show execRetrainDone ch true s = _
      unfold execRetrainDone
      rewrite [if_neg (by simp [hst]), if_pos rfl, trained_none hw]
      rfl
    · rw [State.setChan_same]
      exact ⟨rfl, rfl, rfl, rfl, rfl, rfl⟩
  · intro ch s hst hw hf
    apply Does.of
    · exact show execRetrainDone ch false s = _ from retrainDone_failed hw hst
    · dsimp only
      rw [if_pos (by omega)]
      refine ⟨?_, ?_⟩
      · exact congrArg Chan.st (State.setChan_same ..)
      · exact (BitVec.add_assoc ..).trans rfl
  · intro ch s hst hw hf
    apply Does.of
    · exact show execRetrainDone ch false s = _ from retrainDone_failed hw hst
    · dsimp only
      rw [if_neg (by omega)]
      have hc : (logEvent 0x0305 (0x10 + ch / 24) 0 (ch + 256 * ((s.chan ch).fails + 1)) none
          (s.setChan ch { s.chan ch with st := .active, fails := (s.chan ch).fails + 1 })).chan ch = _ := State.setChan_same ..
      rw [hc]
      exact ⟨rfl, rfl, rfl, rfl⟩
  · intro ch s hsr hf
    show execRefreshDue ch s = _
    unfold execRefreshDue
    rw [if_neg (not_or.2 ⟨hsr, hf⟩)]

end Sys2Proof.Machine
end

section
/-!
PROOFS. The statement on fan-out frames fails: an XDATA frame takes a free value for its virtual channel as it comes in (log 96), which the
statement's next state has not taken.
-/

namespace Sys2Proof.Machine

/-- A plan of one pipeline that gathers one column. -/
def gatherOne : Plan :=
  { uid := 0, pflags := 0, pbSize := 0, prs := 0, pipes := [⟨1, 0, 0, 1, 1, 4, 0, 1, 0, 0, 0⟩],
    ops := [⟨15, 0, 0, 0, 0, 0, 0, 0, 0, 0, .exchange 2 0 [] [0]⟩], slots := [], autos := [], code := [], image := [], defaults := [] }

/-- A query that runs the plan. -/
def gatherRun : QueryRun :=
  { planId := 1, plan := gatherOne, pb := [], inputs := [], outs := [], pipes := [], flows := 0, flowQ := [], dirDone := false, xid := 77 }

/-- Its command. -/
def gatherHere : Cmd :=
  { inst := 0, sq := 0, first := BitVec.ofNat 512 (2 ^ 56 + 1), segs := [], accNo := 5, accepted := true, accTime := 0, dupOf := none,
    phase := .running, work := .query gatherRun, outcome := none, orig := 0, failure := none, r0 := 0, r1 := 0, step3 := false,
    deadline := none, timer := none, fenceOn := [], silent := false, pages := [] }

/-- Its fan-out. -/
def gatherTop : Fan :=
  { xid := 77, inst := 0, top := true, slot := some 0, ends := [], stopAcks := [], armAcks := [], armed := [], stopped := false,
    status := none, lastFrame := 0, params := [], owed := [] }

/-- Instance 0 runs the fan-out, has no page left, and link 3 is UP. -/
def gatherFull : State :=
  { State.reset with
    ring := { RingSt.reset with cmds := [(0, some gatherHere)] },
    insts := [(0, { Inst.zero with res := { ResRec.inst0 with pages := 0 } })],
    lnk := { LnkSt.reset with links := [(0, { Link.reset with st := .up }), (3, { Link.reset with st := .up })],
                              fans := [gatherTop], mgrRoute := 5, mgrHops := 1 } }

/-- The first segment of a chunk, of one byte. -/
def firstSegment : FrameIn :=
  { hops := 1, hopIdx := 0, inst := 0, route := 0, fseq := 7, xid := 77, payload := [0, 0, 0, 0, 1] ++ zeros 19 ++ [9] }

/-- The state in which the statement stores the segment. -/
def segmentAcked : State := ackGot (gotBy ftXdata 3 firstSegment) (markSeen (gotBy ftXdata 3 firstSegment) gatherFull)

/-- Without page quota a segment that needs a page is not stored. -/
theorem storeSegment_exhausted {slot : Nat} {r : Reasm} {d : List Byte} {s : State} (hq : quotaUsed s r.inst = true)
    (hn : pagesFor (r.bytes.length + d.length) - r.pages.length ≠ 0) : storeSegment slot r d s = (.error stExhausted, s) := by
  obtain ⟨n, hn⟩ := Nat.exists_eq_succ_of_ne_zero hn
  have ht : takePages slot r.inst 0 (n + 1) s = (.error stExhausted, s) := by
    unfold takePages takePage
    rw [if_pos hq]
  unfold storeSegment
  rw [hn, ht]

theorem firstSegment_forFan : ForFan ftXdata 3 firstSegment gatherTop gatherFull :=
  { link := by decide, up := by decide +kernel, running := rfl,
    fits := ⟨by decide, by decide, by decide, by decide, by decide, by decide +kernel⟩,
    hops := by decide, hopIdx := by decide, last := rfl, awake := by decide +kernel, fan := rfl, xid := rfl,
    active := by decide +kernel, fresh := rfl }

/-- The command takes one free value more than the statement says. -/
theorem firstSegment_seed :
    (frameCome ftXdata 0 3 firstSegment gatherFull).seed ≠
      (failPart firstSegment.xid (some (leAt firstSegment.payload 2 1)) stExhausted segmentAcked).seed := by decide +kernel

/-- Refutes O50: in `gatherFull` the failure of `firstSegment` takes the seed one further than the statement's state has it. -/
theorem not_fanOutFrames : ¬ Obligations.FanOutFrames := by
  intro h
  obtain ⟨-, -, -, hfull, -⟩ := h
  have he := hfull 3 firstSegment gatherTop gatherHere gatherRun 0 segmentAcked gatherFull firstSegment_forFan (by decide +kernel) rfl rfl
    (by decide +kernel) (by decide +kernel) (by decide +kernel) (by decide +kernel) (by decide +kernel) (by decide +kernel)
    (by decide +kernel) (storeSegment_exhausted (by decide +kernel) (by decide +kernel))
  exact firstSegment_seed (congrArg State.seed (Host.Outcome.next.inj he))

end Sys2Proof.Machine
end

section
/-!
PROOFS. Frames that come in over a link (R561 to R564): a frame for another module goes on with only HOP_IDX and ROUTE changed.
-/

namespace Sys2Proof.Machine

/-! ## A frame comes in whole -/

/-- A frame that is not XDATA comes in without a free value. -/
theorem frameCome_bytes {ft sub l : Nat} {x : FrameIn} {s : State} (h : Arrives ft l x s) (hx : ft ≠ ftXdata) :
    frameCome ft sub l x s = frameIn l (vcOf ft 0) sub (frameBytes (brought ft x)) s := by
  have hl := h.link
  unfold frameCome passVc
  dsimp only
  rw [if_neg (by simp [h.running, h.up, hl]), if_neg hx]
  rfl

/-- An XDATA frame takes its virtual channel by a free value (log 96). -/
theorem frameCome_xdata {sub l : Nat} {x : FrameIn} {s : State} (h : Arrives ftXdata l x s) :
    frameCome ftXdata sub l x s =
      frameIn l (4 + Config.freeNat s.seed % 8 / 2) sub (frameBytes (brought ftXdata x)) { s with seed := s.seed + 1 } := by
  have hl := h.link
  unfold frameCome passVc
  dsimp only
  rw [if_neg (by simp [h.running, h.up, hl]), if_pos rfl]
  rfl

/-- Nothing arrives over a link that is not UP. -/
theorem frameCome_down {ft sub l : Nat} {x : FrameIn} {s : State} (h : (s.link l).st ≠ .up) : frameCome ft sub l x s = s :=
  if_pos (.inr (.inr h))

section
variable {ft sub l vc : Nat} {x : FrameIn} {s t : State} (h : Arrives ft l x s)
include h

/-- A frame that has not reached its last hop goes on (R564). -/
theorem frameIn_passes (hop : x.hopIdx + 1 ≠ x.hops) : frameIn l vc sub (frameBytes (brought ft x)) t =
    linkBytes vc none (crossed l (brought ft x)) (crossedBytes (crossed l (brought ft x)) (frameBytes (brought ft x))) t := by
  have hops := h.hops
  have hopIdx := h.hopIdx
  unfold frameIn
  rw [frameOf_frameBytes h.fits, if_neg (by rw [frameBytes_length]; omega), if_neg (show ¬ 8 < (crossed l (brought ft x)).hops from Nat.not_lt.2 hops), if_pos]
  show (x.hopIdx + 1) % 256 ≠ x.hops
  omega

/-- A frame at its last hop is this module's (R561, R564). -/
theorem frameIn_own (last : x.hopIdx + 1 = x.hops) :
    frameIn l vc sub (frameBytes (brought ft x)) t = ownFrame ft sub (gotBy ft l x) t := by
  have hops := h.hops
  unfold frameIn
  rw [frameOf_frameBytes h.fits, if_neg (by rw [frameBytes_length]; omega), if_neg (show ¬ 8 < (crossed l (brought ft x)).hops from Nat.not_lt.2 hops), if_neg, if_neg]
  · rfl
  · rw [frameGood_frameBytes h.fits]
    simp
  · show ¬ (x.hopIdx + 1) % 256 ≠ x.hops
    omega

end

/-! ## Frames that pass through -/

theorem frameCome_passes {ft sub l : Nat} {x : FrameIn} {s : State} (h : Arrives ft l x s) (hx : ft ≠ ftXdata)
    (hop : x.hopIdx + 1 ≠ x.hops) : frameCome ft sub l x s = linkBytes (vcOf ft 0) none (crossed l (brought ft x))
      (crossedBytes (crossed l (brought ft x)) (frameBytes (brought ft x))) s := by
  rw [frameCome_bytes h hx, frameIn_passes h hop]

/-- A frame whose next port is DOWN is discarded (R564). -/
theorem linkBytes_down {vc : Nat} {own : Option (Nat × Nat)} {f : RFrame} {b : List Byte} {s : State}
    (h : (s.link (nibble f.route f.hopIdx)).st = .down) : linkBytes vc own f b s = s := if_pos (.inr h)

/-- Settles O48. -/
theorem framesPassThrough : Obligations.FramesPassThrough := by
  unfold Obligations.FramesPassThrough
  refine ⟨?_, ?_, ?_, fun c ft f b s h => linkBytes_down h, ?_⟩
  · intro l x s h hop
    have hpass := fun sub => next_congr (frameCome_passes (sub := sub) h (by decide) hop)
    exact ⟨show execHelloFrame l x s = _ from hpass 1, show execConfigFrame l x s = _ from hpass 2,
      show execByeFrame l x s = _ from hpass 3⟩
  · rintro c ft l x s hc h hop
    have hpass : ft ≠ ftXdata → (.next (frameCome ft 0 l x s) : Host.Outcome State Fault Refusal) = _ := fun hx =>
      next_congr (frameCome_passes h hx hop)
    obtain ⟨rfl, rfl⟩ | ⟨rfl, rfl⟩ | ⟨rfl, rfl⟩ | ⟨rfl, rfl⟩ | ⟨rfl, rfl⟩ | ⟨rfl, rfl⟩ | ⟨rfl, rfl⟩ | ⟨rfl, rfl⟩ := hc
    · exact show execPlanFrame l x s = _ from hpass (by decide)
    · exact show execFanoutFrame l x s = _ from hpass (by decide)
    · exact show execEndFrame l x s = _ from hpass (by decide)
    · exact show execAckFrame l x s = _ from hpass (by decide)
    · exact show execFailFrame l x s = _ from hpass (by decide)
    · exact show execStopFrame l x s = _ from hpass (by decide)
    · exact show execBarrierArmFrame l x s = _ from hpass (by decide)
    · exact show execTelemFrame l x s = _ from hpass (by decide)
  · intro l x s h hop
    refine ⟨4 + Config.freeNat s.seed % 8 / 2, by omega, by omega, ?_⟩
    refine (show execXdataFrame l x s = _ from next_congr (frameCome_xdata h)).trans ?_
    rw [frameIn_passes h hop]
  · intro l x s h
    have hdown := fun ft sub => next_congr (frameCome_down (ft := ft) (sub := sub) (x := x) h)
    exact ⟨show execHelloFrame l x s = _ from hdown ftMgmt 1, show execConfigFrame l x s = _ from hdown ftMgmt 2,
      show execByeFrame l x s = _ from hdown ftMgmt 3, show execPlanFrame l x s = _ from hdown ftPlan 0,
      show execFanoutFrame l x s = _ from hdown ftFanout 0, show execXdataFrame l x s = _ from hdown ftXdata 0,
      show execEndFrame l x s = _ from hdown ftEnd 0, show execAckFrame l x s = _ from hdown ftAckf 0,
      show execFailFrame l x s = _ from hdown ftFail 0, show execStopFrame l x s = _ from hdown ftStop 0,
      show execBarrierArmFrame l x s = _ from hdown ftBarrier 0, show execTelemFrame l x s = _ from hdown ftTelem 0⟩

end Sys2Proof.Machine
end

section
/-!
PROOFS. Frames for this module (R526, R561, R567 to R573): what sending a frame changes, and what each frame from a manager, a worker or a
peer does to a module that takes part in no fan-out command.
-/

namespace Sys2Proof.Machine

/-! ## What sending a frame changes -/

theorem pumpGo_eq (l : Nat) (q : List Flit) (b : List Nat) (s : State) : ∃ k f,
    pumpGo l q b s = { s with lnk := { s.lnk with links := k }, out := { s.out with flits := f } } := by
  induction q generalizing b s with
  | nil => exact ⟨s.lnk.links, s.out.flits, rfl⟩
  | cons g q ih =>
    unfold pumpGo
    dsimp only
    split
    · exact ⟨s.lnk.links, s.out.flits, rfl⟩
    split
    · exact ih _ _
    · obtain ⟨k, f, e⟩ := ih b { s.setLink l { s.link l with
          window := (s.link l).window ++ [{ g with seq := (s.link l).nextSeq }], sendQ := (s.link l).sendQ.erase g,
          nextSeq := ((s.link l).nextSeq + 1) % 4096,
          credits := (s.link l).credits.set 0 g.vc ((s.link l).credits.get 0 g.vc - 1) } with
        out := { s.out with flits := s.out.flits ++ [(l, 0, (s.link l).nextSeq)] } }
      exact ⟨k, f, e⟩

theorem linkBytes_eq (vc : Nat) (own : Option (Nat × Nat)) (f : RFrame) (b : List Byte) (s : State) : ∃ k fl fr,
    linkBytes vc own f b s = { s with lnk := { s.lnk with links := k }, out := { s.out with flits := fl, frames := fr } } := by
  unfold linkBytes
  dsimp only
  split
  · exact ⟨s.lnk.links, s.out.flits, s.out.frames, rfl⟩
  · obtain ⟨k, fl, e⟩ := pumpGo_eq (nibble f.route f.hopIdx) _ [] { s.setLink (nibble f.route f.hopIdx)
        { s.link (nibble f.route f.hopIdx) with
          sendQ := (s.link (nibble f.route f.hopIdx)).sendQ ++ cutFlits vc own true (b.length / 244 + 1) b } with
      out := { s.out with frames := s.out.frames ++ [(nibble f.route f.hopIdx, f)] } }
    exact ⟨k, fl, _, e⟩

/-- The sequence number of a destination after one more frame to it. -/
def nextFseq (hops : Nat) (route : W32) (s : State) : Tbl Nat :=
  s.lnk.fseq.set 0 (routeKey route hops) ((s.lnk.fseq.get 0 (routeKey route hops) + 1) % 2 ^ 32)

/-- A frame that is sent takes the next FSEQ of its destination; all but ACKF are kept (R561). -/
theorem sendFrame_eq (ft hops : Nat) (route : W32) (inst : Nat) (xid : W64) (level : Nat) (p : List Byte) (s : State) :
    ∃ k fl fr, sendFrame ft hops route inst xid level p s = { s with
      lnk := { s.lnk with links := k, fseq := nextFseq hops route s, sent := if ft = ftAckf then s.lnk.sent else s.lnk.sent ++
        [⟨⟨ft, hops, 0, inst, route, s.lnk.fseq.get 0 (routeKey route hops), xid, p⟩, level, s.time⟩] },
      out := { s.out with flits := fl, frames := fr } } := by
  unfold sendFrame linkFrame
  dsimp only
  split
  · obtain ⟨k, fl, fr, e⟩ := linkBytes_eq (vcOf ft level) none
      ⟨ft, hops, 0, inst, route, s.lnk.fseq.get 0 (routeKey route hops), xid, p⟩
      (frameBytes ⟨ft, hops, 0, inst, route, s.lnk.fseq.get 0 (routeKey route hops), xid, p⟩)
      { s with lnk := { s.lnk with fseq := nextFseq hops route s } }
    exact ⟨k, fl, fr, e⟩
  · obtain ⟨k, fl, fr, e⟩ := linkBytes_eq (vcOf ft level) (some (routeKey route hops, s.lnk.fseq.get 0 (routeKey route hops)))
      ⟨ft, hops, 0, inst, route, s.lnk.fseq.get 0 (routeKey route hops), xid, p⟩
      (frameBytes ⟨ft, hops, 0, inst, route, s.lnk.fseq.get 0 (routeKey route hops), xid, p⟩)
      { s with lnk := { s.lnk with fseq := nextFseq hops route s, sent := s.lnk.sent ++
        [⟨⟨ft, hops, 0, inst, route, s.lnk.fseq.get 0 (routeKey route hops), xid, p⟩, level, s.time⟩] } }
    exact ⟨k, fl, fr, e⟩

/-- An ACKF takes its FSEQ and is not kept. -/
theorem ackGot_eq (g : Got) (s : State) : ∃ k fl fr, ackGot g s = { s with
    lnk := { s.lnk with links := k, fseq := nextFseq g.hops g.back s }, out := { s.out with flits := fl, frames := fr } } :=
  sendFrame_eq ftAckf g.hops g.back g.inst g.xid 0 (leBytes g.fseq 4) s

/-- A destination whose next FSEQ has been taken has been acknowledged. -/
theorem acked_of_fseq {g : Got} {s t : State} (h : t.lnk.fseq = nextFseq g.hops g.back s) : Acked g s t := by
  show t.lnk.fseq.get 0 (routeKey g.back g.hops) = _
  rw [h]
  exact Tbl.get_set_same ..

/-! ## A frame for a module in no fan-out command -/

theorem modXid_alone {xid : W64} {f : Fan → Fan} {s : State} (h : s.lnk.fans = []) : modXid xid f s = s := by
  unfold modXid
  rw [h]
  show { s with lnk := { s.lnk with fans := [] } } = s
  rw [← h]

theorem heardTop_alone {g : Got} {s : State} (h : s.lnk.fans = []) : heardTop g s = s := by
  unfold heardTop
  split
  · exact modXid_alone h
  · rfl

theorem fanBy_alone {xid : W64} {s : State} (h : s.lnk.fans = []) : fanBy s xid = none := by
  unfold fanBy
  rw [h]
  rfl

theorem stillOwed_alone {g : Got} {s : State} (h : s.lnk.fans = []) : stillOwed s g = false := by
  unfold stillOwed
  rw [fanBy_alone h]
  rfl

section
variable {ft sub l vc : Nat} {x : FrameIn} {s : State} (h : ForUs ft l x s)
include h

/-- The frame wakes nothing and is no fan-out's: it goes to the handler of its type. -/
theorem frameCome_own (hx : ft ≠ ftXdata) : frameCome ft sub l x s = ownFrame ft sub (gotBy ft l x) s := by
  rw [frameCome_bytes h.toArrives hx, frameIn_own h.toArrives h.last]

theorem ownFrame_hello (hft : ft = ftMgmt) (hsub : sub = 1) : ownFrame ft sub (gotBy ft l x) s = gotHello (gotBy ft l x) s := by
  subst hft hsub
  unfold ownFrame
  rw [wake_awake h.awake, heardTop_alone h.alone]
  rfl

theorem ownFrame_ack (hft : ft = ftAckf) : ownFrame ft sub (gotBy ft l x) s = gotAck (gotBy ft l x) s := by
  subst hft
  unfold ownFrame
  rw [wake_awake h.awake, heardTop_alone h.alone]
  rfl

section
variable (hft : ft ≠ ftAckf ∧ ft ≠ 0 ∧ ft ≤ 0x0A) (hsub : ft = ftMgmt → sub = 2 ∨ sub = 3)
include hft hsub

theorem ownFrame_known : ownFrame ft sub (gotBy ft l x) s =
    if s.lnk.seen.contains (routeKey (gotBy ft l x).back x.hops, x.fseq) then ackGot (gotBy ft l x) s
    else newFrame ft sub (gotBy ft l x) s := by
  obtain ⟨ha, hz, hm⟩ := hft
  unfold ownFrame
  rw [wake_awake h.awake, heardTop_alone h.alone]
  dsimp only
  rw [if_neg ha, if_neg (by rintro (h | h | ⟨h, h'⟩) <;> [exact hz h; omega; (have := hsub h; omega)]),
    if_neg (by rintro ⟨h, h'⟩; have := hsub h; omega), stillOwed_alone h.alone]
  rfl

theorem ownFrame_seen (hs : s.lnk.seen.contains (routeKey (gotBy ft l x).back x.hops, x.fseq) = true) :
    ownFrame ft sub (gotBy ft l x) s = ackGot (gotBy ft l x) s := by
  rw [ownFrame_known h hft hsub, if_pos hs]

theorem ownFrame_new (hs : s.lnk.seen.contains (routeKey (gotBy ft l x).back x.hops, x.fseq) = false) :
    ownFrame ft sub (gotBy ft l x) s = newFrame ft sub (gotBy ft l x) s := by
  rw [ownFrame_known h hft hsub, if_neg (by simp only [hs]; decide)]

end

end

/-! ## The frame is acknowledged -/

/-- The state in which a new frame is handled: it has been seen, and its ACKF sent. -/
theorem ackMarked_eq (g : Got) (s : State) : ∃ k fl fr, ackGot g (markSeen g s) = { s with
    lnk := { s.lnk with links := k, fseq := nextFseq g.hops g.back s, seen := s.lnk.seen ++ [(routeKey g.back g.hops, g.fseq)] },
    out := { s.out with flits := fl, frames := fr } } := ackGot_eq g (markSeen g s)

theorem newFrame_mgmt {sub : Nat} {g : Got} {s : State} : newFrame ftMgmt sub g s =
    if sub = 2 then gotConfig g (ackGot g (markSeen g s)) else gotBye g (ackGot g (markSeen g s)) := rfl

theorem newFrame_plan {sub : Nat} {g : Got} {s : State} : newFrame ftPlan sub g s =
    (gotPlan g (ackGot g (markSeen g s))).getD s := rfl

theorem newFrame_telem {sub : Nat} {g : Got} {s : State} : newFrame ftTelem sub g s = gotTelem g (ackGot g (markSeen g s)) := rfl

/-- A new frame for an instance that is not there is acknowledged, and its sender gets FAIL with ACCESS_DENIED (R573). -/
theorem newFrame_refused {ft sub : Nat} {g : Got} {s : State} (hi : (s.inst g.inst).st = .absent)
    (hft : ft = ftFanout ∨ ft = ftXdata ∨ ft = ftEnd ∨ ft = ftFail ∨ ft = ftBarrier) :
    newFrame ft sub g s = sendFail g.back g.hops g.inst g.xid stDenied (ackGot g (markSeen g s)) := by
  refine if_pos ?_
  unfold refused
  rw [hi]
  obtain rfl | rfl | rfl | rfl | rfl := hft <;> rfl

/-- FAIL is the frame sent last, and nothing else of the links' fan-out state changes. -/
theorem refusal_sent (g : Got) (st : Nat) (s : State) :
    let t := sendFail g.back g.hops g.inst g.xid st (ackGot g (markSeen g s))
    lastSent t = some (ftFail, g.back, leBytes st 2) ∧ t.lnk.fans = s.lnk.fans ∧ t.lnk.reasm = s.lnk.reasm ∧ t.ring = s.ring := by
  intro t
  obtain ⟨k, fl, fr, e⟩ := ackMarked_eq g s
  obtain ⟨k', fl', fr', e'⟩ := sendFrame_eq ftFail g.hops g.back g.inst g.xid 0 (leBytes st 2) (ackGot g (markSeen g s))
  rw [show t = _ from e', e]
  refine ⟨?_, rfl, rfl, rfl⟩
  unfold lastSent
  dsimp only
  rw [if_neg (by decide), List.getLast?_concat]
  rfl

/-! ## MGMT frames (R567, R568) -/

theorem gotHello_eq {g : Got} {s : State} (ha : acceptsHello s g = true) : ∃ k fl fr, gotHello g s = { s with
    lnk := { s.lnk with
      adopted := true, mgrUid := BitVec.ofNat 128 (leAt g.payload 8 16), level := leAt g.payload 1 1 + 1, mgrRoute := g.back,
      mgrHops := g.hops, seen := s.lnk.seen.filter fun x => x.1 ≠ routeKey g.back g.hops, links := k, fseq := nextFseq g.hops g.back s },
    out := { s.out with flits := fl, frames := fr } } := by
  unfold gotHello
  rw [if_neg (by simp [ha])]
  exact ackGot_eq g _

theorem helloFrame_adopts {l : Nat} {x : FrameIn} {s : State} (h : ForUs ftMgmt l x s) (ha : acceptsHello s (gotBy ftMgmt l x) = true) :
    Does (.helloFrame l x) s fun t =>
      t.lnk.adopted = true ∧ t.lnk.mgrUid = BitVec.ofNat 128 (leAt x.payload 8 16) ∧ t.lnk.level = leAt x.payload 1 1 + 1 ∧
      t.lnk.mgrRoute = (gotBy ftMgmt l x).back ∧ t.lnk.mgrHops = x.hops ∧ Acked (gotBy ftMgmt l x) s t ∧ t.lnk.sent = s.lnk.sent := by
  refine Does.of (show execHelloFrame l x s = _ from next_congr ((frameCome_own h (by decide)).trans (ownFrame_hello h rfl rfl))) ?_
  obtain ⟨k, fl, fr, e⟩ := gotHello_eq ha
  rw [e]
  exact ⟨rfl, rfl, rfl, rfl, rfl, acked_of_fseq rfl, rfl⟩

theorem helloFrame_refused {l : Nat} {x : FrameIn} {s : State} (h : ForUs ftMgmt l x s) (ha : acceptsHello s (gotBy ftMgmt l x) = false) :
    execHelloFrame l x s = .next s := by
  refine next_congr ((frameCome_own h (by decide)).trans ((ownFrame_hello h rfl rfl).trans (if_pos ?_)))
  simp [ha]

theorem configFrame_takes {l : Nat} {x : FrameIn} {s : State} (h : ForUs ftMgmt l x s)
    (hs : s.lnk.seen.contains (routeKey (gotBy ftMgmt l x).back x.hops, x.fseq) = false) (ha : s.lnk.adopted = true) :
    Does (.configFrame l x) s fun t => t.lnk.index = leAt x.payload 1 1 ∧ t.lnk.adopted = true ∧
      t.lnk.mgrRoute = (gotBy ftMgmt l x).back ∧ t.lnk.peers.length = leAt x.payload 2 1 ∧
      (∀ j, j < leAt x.payload 2 1 →
        t.lnk.peers[j]? = some (BitVec.ofNat 32 (leAt x.payload (8 + 8 * j) 4), leAt x.payload (12 + 8 * j) 1)) ∧
      Acked (gotBy ftMgmt l x) s t := by
  refine Does.of (show execConfigFrame l x s = _ from
    next_congr ((frameCome_own h (by decide)).trans (ownFrame_new h (by decide) (by decide) hs))) ?_
  rw [newFrame_mgmt, if_pos rfl]
  obtain ⟨k, fl, fr, e⟩ := ackMarked_eq (gotBy ftMgmt l x) s
  unfold gotConfig
  rw [e, if_neg (by simp [ha])]
  refine ⟨rfl, ha, rfl, ?_, fun j hj => ?_, acked_of_fseq rfl⟩
  · exact (List.length_map ..).trans List.length_range
  · dsimp only
    rw [List.getElem?_map, List.getElem?_range (show j < leAt (gotBy ftMgmt l x).payload 2 1 from hj)]
    rfl

theorem byeFrame_leaves {l : Nat} {x : FrameIn} {s : State} (h : ForUs ftMgmt l x s)
    (hs : s.lnk.seen.contains (routeKey (gotBy ftMgmt l x).back x.hops, x.fseq) = false) (ha : s.lnk.adopted = true)
    (hu : s.lnk.mgrUid.toNat = leAt x.payload 8 16) : Does (.byeFrame l x) s fun t =>
      t.lnk.adopted = false ∧ t.lnk.mgrUid = 0 ∧ t.lnk.level = 0 ∧ t.lnk.peers = [] ∧ Acked (gotBy ftMgmt l x) s t := by
  refine Does.of (show execByeFrame l x s = _ from
    next_congr ((frameCome_own h (by decide)).trans (ownFrame_new h (by decide) (by decide) hs))) ?_
  rw [newFrame_mgmt, if_neg (by decide)]
  obtain ⟨k, fl, fr, e⟩ := ackMarked_eq (gotBy ftMgmt l x) s
  unfold gotBye
  rw [e, if_neg]
  · exact ⟨rfl, rfl, rfl, rfl, acked_of_fseq rfl⟩
  · simp only [ha, Bool.not_true, Bool.false_eq_true, false_or, not_not]
    exact hu

/-! ## TELEM and ACKF (R526, R561, R576) -/

theorem telemFrame_records {l j : Nat} {x : FrameIn} {s : State} (h : ForUs ftTelem l x s)
    (hs : s.lnk.seen.contains (routeKey (gotBy ftTelem l x).back x.hops, x.fseq) = false)
    (hw : workerAt s.lnk.workers (gotBy ftTelem l x) = some j) : Does (.telemFrame l x) s fun t =>
      t.tel.workers.get .zero j = ⟨BitVec.ofNat 64 s.time, x.payload.take 64, BitVec.ofNat 32 (leAt x.payload 64 4),
        BitVec.ofNat 32 (leAt x.payload 68 4), BitVec.ofNat 8 (leAt x.payload 72 1)⟩ ∧ Acked (gotBy ftTelem l x) s t := by
  refine Does.of (show execTelemFrame l x s = _ from
    next_congr ((frameCome_own h (by decide)).trans (ownFrame_new h (by decide) (by decide) hs))) ?_
  rw [newFrame_telem]
  obtain ⟨k, fl, fr, e⟩ := ackMarked_eq (gotBy ftTelem l x) s
  unfold gotTelem
  rw [e]
  dsimp only
  rw [hw]
  exact ⟨Tbl.get_set_same .., acked_of_fseq rfl⟩

theorem ackFrame_ends {l : Nat} {x : FrameIn} {y : SentFrame} {s : State} (h : ForUs ftAckf l x s) (hsent : s.lnk.sent = [y])
    (hr : y.frame.route = (gotBy ftAckf l x).back) (hh : y.frame.hops = x.hops) (hq : y.frame.fseq = leAt x.payload 0 4)
    (hft : y.frame.ftype = ftPlan ∨ y.frame.ftype = ftFail ∨ y.frame.ftype = ftTelem) :
    execAckFrame l x s = .next { s with lnk := { s.lnk with sent := [] } } := by
  refine next_congr ((frameCome_own h (by decide)).trans ((ownFrame_ack h rfl).trans ?_))
  have hfans : s.lnk.fans = [] := h.alone
  have hhit : (decide (y.frame.route = (gotBy ftAckf l x).back) && decide (y.frame.hops = (gotBy ftAckf l x).hops) &&
      decide (y.frame.fseq = leAt (gotBy ftAckf l x).payload 0 4)) = true := by
    rw [hr, show y.frame.hops = (gotBy ftAckf l x).hops from hh, show y.frame.fseq = leAt (gotBy ftAckf l x).payload 0 4 from hq]
    simp
  have hacked : ∀ t : State, frameAcked y.frame t = t := by
    intro t
    have hm : y.frame.ftype ≠ ftMgmt := by obtain e | e | e := hft <;> rw [e] <;> decide
    have hst : y.frame.ftype ≠ ftStop := by obtain e | e | e := hft <;> rw [e] <;> decide
    have hb : y.frame.ftype ≠ ftBarrier := by obtain e | e | e := hft <;> rw [e] <;> decide
    unfold frameAcked
    rw [if_neg (fun h => hm h.1)]
    split
    · rw [if_neg hst, if_neg hb]
    · rfl
  unfold gotAck
  simp only [hsent, List.find?_cons, hhit, hacked, List.filter_cons, Bool.not_true, Bool.false_eq_true, if_false, List.filter_nil]
  rw [fanBy_alone (by exact hfans)]
  rfl

theorem ackFrame_unsent {l : Nat} {x : FrameIn} {s : State} (h : ForUs ftAckf l x s) (hsent : s.lnk.sent = []) :
    execAckFrame l x s = .next s := by
  refine next_congr ((frameCome_own h (by decide)).trans ((ownFrame_ack h rfl).trans ?_))
  unfold gotAck
  rw [hsent]
  rfl

/-! ## PLAN (R569) -/

theorem planGot_putPlan (i id : Nat) (b : List Byte) (s : State) : planGot (putPlan i id (some b) s) i id = b := by
  unfold planGot putPlan
  dsimp only
  rw [List.find?_append, List.find?_eq_none.2]
  · simp
  · intro e he
    simpa [imp_iff_not_or] using (List.mem_filter.1 he).2

theorem planFrame_first {l : Nat} {x : FrameIn} {s : State} (h : ForUs ftPlan l x s)
    (hs : s.lnk.seen.contains (routeKey (gotBy ftPlan l x).back x.hops, x.fseq) = false) (hop : leAt x.payload 0 1 = 1)
    (hoff : leAt x.payload 8 4 = 0) (hlen : x.payload.length - 16 < leAt x.payload 12 4) : Does (.planFrame l x) s fun t =>
      planGot t x.inst (leAt x.payload 4 4) = x.payload.drop 16 ∧ Acked (gotBy ftPlan l x) s t ∧ t.insts = s.insts := by
  refine Does.of (show execPlanFrame l x s = _ from
    next_congr ((frameCome_own h (by decide)).trans (ownFrame_new h (by decide) (by decide) hs))) ?_
  have hslice : gotPlan (gotBy ftPlan l x) (ackGot (gotBy ftPlan l x) (markSeen (gotBy ftPlan l x) s)) =
      some (putPlan x.inst (leAt x.payload 4 4) (some (x.payload.drop 16)) (ackGot (gotBy ftPlan l x) (markSeen (gotBy ftPlan l x) s))) := by
    unfold gotPlan planSliceCome
    simp only [show (gotBy ftPlan l x).payload = x.payload from rfl, show (gotBy ftPlan l x).inst = x.inst from rfl, hop, hoff, if_true,
      List.length_nil, ne_eq, not_true_eq_false, if_false, List.nil_append, List.length_drop, hlen]
  rw [newFrame_plan, hslice, Option.getD_some]
  obtain ⟨k, fl, fr, e⟩ := ackMarked_eq (gotBy ftPlan l x) s
  refine ⟨planGot_putPlan .., acked_of_fseq ?_, ?_⟩
  · rw [e]
    rfl
  · rw [e]
    rfl

theorem planFrame_gap {l : Nat} {x : FrameIn} {s : State} (h : ForUs ftPlan l x s)
    (hs : s.lnk.seen.contains (routeKey (gotBy ftPlan l x).back x.hops, x.fseq) = false) (hop : leAt x.payload 0 1 = 1)
    (hoff : leAt x.payload 8 4 ≠ 0) (hgap : leAt x.payload 8 4 ≠ (planGot s x.inst (leAt x.payload 4 4)).length) :
    execPlanFrame l x s = .next s := by
  refine next_congr ((frameCome_own h (by decide)).trans ((ownFrame_new h (by decide) (by decide) hs).trans ?_))
  have hslice : gotPlan (gotBy ftPlan l x) (ackGot (gotBy ftPlan l x) (markSeen (gotBy ftPlan l x) s)) = none := by
    have hgot : planGot (ackGot (gotBy ftPlan l x) (markSeen (gotBy ftPlan l x) s)) x.inst (leAt x.payload 4 4) =
        planGot s x.inst (leAt x.payload 4 4) := by
      obtain ⟨k, fl, fr, e⟩ := ackMarked_eq (gotBy ftPlan l x) s
      rw [e]
      rfl
    unfold gotPlan planSliceCome
    simp only [show (gotBy ftPlan l x).payload = x.payload from rfl, show (gotBy ftPlan l x).inst = x.inst from rfl, hop, hoff, if_false,
      hgot, ne_eq, hgap, not_false_eq_true, if_true]
  rw [newFrame_plan, hslice]
  rfl

/-- Settles O49. -/
theorem hierarchyFrames : Obligations.HierarchyFrames := by
  unfold Obligations.HierarchyFrames
  refine ⟨fun l x s h ha => helloFrame_adopts h ha, ?_, fun l x s h hs ha => configFrame_takes h hs ha,
    fun l x s h hs ha hu => byeFrame_leaves h hs ha hu, fun l x j s h hs hw => telemFrame_records h hs hw, ?_, ?_,
    fun l x s h hs hop hoff hlen => planFrame_first h hs hop hoff hlen, ?_, ?_, ?_, ?_⟩
  · intro l x s h ha
    exact show execHelloFrame l x s = _ from helloFrame_refused h ha
  · intro l x y s h hsent hr hh hq hft
    exact show execAckFrame l x s = _ from ackFrame_ends h hsent hr hh hq hft
  · intro l x s h hsent
    exact show execAckFrame l x s = _ from ackFrame_unsent h hsent
  · intro l x s h hs hop hoff hgap
    exact show execPlanFrame l x s = _ from planFrame_gap h hs hop hoff hgap
  · intro l x s h hs
    exact show execPlanFrame l x s = _ from
      next_congr ((frameCome_own h (by decide)).trans (ownFrame_seen h (by decide) (by decide) hs))
  · rintro c ft l x s hc h hs hi
    have hsends : ft ≠ ftXdata ∧ (ft ≠ ftAckf ∧ ft ≠ 0 ∧ ft ≤ 0x0A) ∧ ft ≠ ftMgmt →
        (ft = ftFanout ∨ ft = ftXdata ∨ ft = ftEnd ∨ ft = ftFail ∨ ft = ftBarrier) → exec c s = .next (frameCome ft 0 l x s) →
        Does c s fun t => lastSent t = some (ftFail, (gotBy ft l x).back, leBytes stDenied 2) ∧ t.lnk.fans = [] ∧ t.ring = s.ring := by
      rintro ⟨hx, hk, hm⟩ hft he
      rw [frameCome_own h hx, ownFrame_new h hk (fun e => absurd e hm) hs, newFrame_refused hi hft] at he
      obtain ⟨hlast, hfans, -, hring⟩ := refusal_sent (gotBy ft l x) stDenied s
      exact ⟨_, he, hlast, hfans.trans h.alone, hring⟩
    obtain ⟨rfl, rfl⟩ | ⟨rfl, rfl⟩ | ⟨rfl, rfl⟩ | ⟨rfl, rfl⟩ := hc
    · exact hsends (by decide) (by decide) rfl
    · exact hsends (by decide) (by decide) rfl
    · exact hsends (by decide) (by decide) rfl
    · exact hsends (by decide) (by decide) rfl
  · intro l x s h hs hi
    have h' : ForUs ftXdata l x { s with seed := s.seed + 1 } := ⟨⟨h.link, h.up, h.running, h.fits, h.hops, h.hopIdx⟩, h.last, h.awake, h.alone⟩
    refine Does.of (show execXdataFrame l x s = _ from next_congr ((frameCome_xdata h.toArrives).trans
      ((frameIn_own h.toArrives h.last).trans ((ownFrame_new h' (by decide) (by decide) hs).trans
        (newFrame_refused hi (by decide)))))) ?_
    obtain ⟨hlast, -, hreasm, hring⟩ := refusal_sent (gotBy ftXdata l x) stDenied { s with seed := s.seed + 1 }
    exact ⟨hlast, hreasm, hring⟩

end Sys2Proof.Machine
end

section
/-!
PROOFS. The barrier pads (R574, R575).
-/

namespace Sys2Proof.Machine

theorem dropStopped_drops {xid : W64} {f : Fan} {s : State} (hby : fanBy s xid = some f) (ht : f.top = false) (hstop : f.stopped = true)
    (hs : f.slot = none) (ho : f.owed = []) : dropStopped xid s = dropFan xid s := by
  unfold dropStopped
  rw [hby]
  simp [ht, hstop, hs, ho]

/-- A worker part without slot whose answers have all been given goes when it is stopped. -/
theorem barStop_drops {f : Fan} {s : State} (hf : s.lnk.fans = [f]) (ht : f.top = false) (hs : f.slot = none) (ho : f.owed = []) :
    (barStop f s).lnk.fans = [] ∧ (barStop f s).ring = s.ring ∧ (barStop f s).out = s.out := by
  have hfans : (modXid f.xid (fun f => { f with stopped := true }) s).lnk.fans = [{ f with stopped := true }] := by
    show s.lnk.fans.map _ = _
    rw [hf]
    simp
  have hby : fanBy (modXid f.xid (fun f => { f with stopped := true }) s) f.xid = some { f with stopped := true } := by
    unfold fanBy
    rw [hfans]
    simp
  have hb : barStop f s = dropFan f.xid (modXid f.xid (fun f => { f with stopped := true }) s) := by
    rw [← dropStopped_drops hby ht rfl hs ho]
    unfold barStop
    rw [ht, hs]
    rfl
  rw [hb]
  refine ⟨?_, rfl, rfl⟩
  show List.filter (fun x : Fan => decide (x.xid ≠ f.xid)) (modXid f.xid (fun f => { f with stopped := true }) s).lnk.fans = []
  rw [hfans]
  simp

/-- Settles O52. -/
theorem barrierPads : Obligations.BarrierPads := by
  unfold Obligations.BarrierPads
  refine ⟨fun s => rfl, ?_, ?_, ?_, ?_, ?_, ?_, ?_, fun s => rfl⟩
  · intro s
    refine Does.of (show execHbar0InRise s = _ from rfl) ⟨rfl, ?_, rfl⟩
    show (!holdsHbar0 s) = false ↔ _
    simp only [holdsHbar0, Bool.not_eq_false', Bool.and_eq_true, Bool.not_eq_true', Bool.or_eq_true, and_assoc]
  · intro s h
    show execHbar0StopHold s = _
    exact if_pos h
  · intro f k s h hf ht hs
    show execHbar0StopHold s = _
    unfold execHbar0StopHold
    rw [if_neg (by simp [h]), hf]
    simp only [forEach, barStop, ht, hs, if_true]
  · intro f s h hf ht hs ho
    refine Does.of (t := barStop f s) ?_ (barStop_drops hf ht hs ho)
    show execHbar0StopHold s = _
    unfold execHbar0StopHold
    rw [if_neg (by simp [h]), hf]
    rfl
  · intro s h
    show execHbar1InFall s = _
    exact if_pos (by simp [h])
  · intro s h hf
    show execHbar1InFall s = _
    unfold execHbar1InFall
    rw [if_neg (by simp [h])]
    simp only [hf, forEach]
  · intro f k n s h hf hs ha
    refine ⟨_, ?_, rfl⟩
    show execHbar1InFall s = _
    unfold execHbar1InFall
    rw [if_neg (by simp [h])]
    simp only [hf, forEach, barrierEdge, hs, ha, modXid, List.map_cons, List.map_nil, if_true]

end Sys2Proof.Machine
end

section
/-!
PROOFS. Flits, go-back-N retry, credits, retraining and link failure (R557 to R561, R508).
-/

namespace Sys2Proof.Machine

/-! ## What a resend sends -/

/-- Every flit of the window goes out again, in order. -/
theorem resendWindow_eq (l : Nat) (s : State) : resendWindow l s =
    { s with out := { s.out with flits := s.out.flits ++ (s.link l).window.map (fun f => (l, 0, f.seq)) } } := by
  have hsent : ∀ (w : List Flit) (t : State), forEach (fun (f : Flit) t => sentFlit l 0 f.seq t) w t =
      { t with out := { t.out with flits := t.out.flits ++ w.map (fun f => (l, 0, f.seq)) } } := by
    intro w
    induction w with
    | nil =>
      intro t
      show t = { t with out := { t.out with flits := t.out.flits ++ [] } }
      rw [List.append_nil]
    | cons f w ih =>
      intro t
      show forEach _ w (sentFlit l 0 f.seq t) = _
      rw [ih]
      simp [sentFlit]
  exact hsent (s.link l).window s

theorem pump_idle {l : Nat} {s : State} (h : (s.link l).sendQ = []) : pump l s = s := by
  unfold pump
  rw [h]
  rfl

theorem takeAck_idle {l ack : Nat} {s : State} (h : (s.link l).window = []) : takeAck l ack s = s := by
  unfold takeAck
  dsimp only
  rw [h]

/-- Before a resend of a link that is UP and has flits unacknowledged, REPLAY and the count of resends have advanced. -/
theorem resend_up {l : Nat} {s : State} (hup : (s.link l).st = .up) (hw : (s.link l).window ≠ []) : resend l s =
    (let t := resendWindow l (s.setLink l { s.link l with replay := (s.link l).replay + 1, resends := (s.link l).resends + 1 })
     if 8 ≤ (s.link l).resends + 1 then beginRetrain l t else t) := by
  unfold resend
  refine if_neg ?_
  simp [hup, List.isEmpty_iff, hw]

theorem resend_empty {l : Nat} {s : State} (hw : (s.link l).window = []) : resend l s = s := by
  unfold resend
  exact if_pos (.inr (by simp [hw]))

/-! ## Flits that come in -/

section
variable {l : Nat} {x : FlitIn} {s : State} (hl : l < 16) (hr : s.pads.inReset = false)
include hl hr

/-- A link that is UP, or one that trains and gets INIT, takes the flit. -/
theorem flitReceive_open (hopen : (s.link l).st = .up ∨ ((s.link l).st = .training ∧ x.ftype = 3)) : execFlitReceive l x s =
    if !x.crcOk then .next (sendNak l (s.setLink l { s.link l with crcErr := (s.link l).crcErr + 1 })) else .next (goodFlit l x s) := by
  unfold execFlitReceive
  refine if_neg ?_
  simp only [hr, Nat.not_le.2 hl, Bool.false_eq_true, false_or]
  obtain h | ⟨h, hx⟩ := hopen
  · simp [h]
  · simp [h, hx]

omit hl hr in
/-- A flit of an idle link whose CRC holds first brings its credits. -/
theorem goodFlit_idle (hft : x.ftype ≤ 3) (hw : (s.link l).window = []) (hq : (s.link l).sendQ = []) : goodFlit l x s =
    (let t := takeCredits l (field x.crd 10 8) (field x.crd 7 0) s
     if x.ftype = 2 then resend l t
     else if x.ftype ≠ 0 then t
     else if x.seq = (t.link l).expSeq then takeData l x t else sendNak l t) := by
  unfold goodFlit
  rw [if_neg (Nat.not_lt.2 hft), takeAck_idle hw, pump_idle]
  unfold takeCredits
  rw [State.setLink_same]
  exact hq

end

theorem takeCredits_link (l vc n : Nat) (s : State) : (takeCredits l vc n s).link l =
    { s.link l with credits := (s.link l).credits.set 0 vc ((s.link l).credits.get 0 vc + n) } := State.setLink_same ..

theorem sendNak_first {l : Nat} {s : State} (hn : (s.link l).naked = false) :
    sendNak l s = sentFlit l 2 (s.link l).expSeq (s.setLink l { s.link l with naked := true }) := by
  unfold sendNak
  exact if_neg (by simp [hn])

section
variable {l : Nat} {x : FlitIn} {s : State} (hl : l < 16) (hr : s.pads.inReset = false)
include hl hr

theorem flitReceive_badCrc (hup : (s.link l).st = .up) (hc : x.crcOk = false) (hn : (s.link l).naked = false) :
    Does (.flitReceive l x) s fun t => t.link l = { s.link l with crcErr := (s.link l).crcErr + 1, naked := true } ∧
      t.out.flits = s.out.flits ++ [(l, 2, (s.link l).expSeq)] ∧ t = { s with lnk := t.lnk, out := t.out } := by
  refine Does.of (show execFlitReceive l x s = _ from (flitReceive_open hl hr (.inl hup)).trans (if_pos (by simp [hc]))) ?_
  have hk := State.setLink_same s l { s.link l with crcErr := (s.link l).crcErr + 1 }
  rw [sendNak_first (by rw [hk]; exact hn)]
  refine ⟨(State.setLink_same ..).trans (by rw [hk]), ?_, rfl⟩
  show s.out.flits ++ [(l, 2, ((s.setLink l _).link l).expSeq)] = _
  rw [hk]

theorem flitReceive_outOfTurn (hup : (s.link l).st = .up) (hc : x.crcOk = true) (hft : x.ftype = 0) (hw : (s.link l).window = [])
    (hq : (s.link l).sendQ = []) (hseq : x.seq ≠ (s.link l).expSeq) (hn : (s.link l).naked = false) : Does (.flitReceive l x) s fun t =>
      (t.link l).rx = (s.link l).rx ∧ (t.link l).expSeq = (s.link l).expSeq ∧ (t.link l).naked = true ∧
      t.out.flits = s.out.flits ++ [(l, 2, (s.link l).expSeq)] ∧ t.lnk.sent = s.lnk.sent := by
  refine Does.of (show execFlitReceive l x s = _ from (flitReceive_open hl hr (.inl hup)).trans (if_neg (by simp [hc]))) ?_
  have hk := takeCredits_link l (field x.crd 10 8) (field x.crd 7 0) s
  rw [goodFlit_idle (by omega) hw hq]
  dsimp only
  rw [if_neg (by omega), if_neg (by omega), if_neg (by rw [hk]; exact hseq), sendNak_first (by rw [hk]; exact hn), hk]
  have ht : (sentFlit l 2 (s.link l).expSeq ((takeCredits l (field x.crd 10 8) (field x.crd 7 0) s).setLink l { s.link l with
      credits := (s.link l).credits.set 0 (field x.crd 10 8) ((s.link l).credits.get 0 (field x.crd 10 8) + field x.crd 7 0),
      naked := true })).link l = _ := State.setLink_same ..
  rw [ht]
  exact ⟨rfl, rfl, rfl, rfl, rfl⟩

theorem flitReceive_joins (hup : (s.link l).st = .up) (hc : x.crcOk = true) (hft : x.ftype = 0) (hw : (s.link l).window = [])
    (hq : (s.link l).sendQ = []) (hseq : x.seq = (s.link l).expSeq) (hsof : x.sof = false) (heof : x.eof = false) :
    Does (.flitReceive l x) s fun t => (t.link l).expSeq = ((s.link l).expSeq + 1) % 4096 ∧ (t.link l).naked = false ∧
      (t.link l).rx.get [] x.vc = (s.link l).rx.get [] x.vc ++ x.payload ∧ t.out = s.out := by
  refine Does.of (show execFlitReceive l x s = _ from (flitReceive_open hl hr (.inl hup)).trans (if_neg (by simp [hc]))) ?_
  have hk := takeCredits_link l (field x.crd 10 8) (field x.crd 7 0) s
  rw [goodFlit_idle (by omega) hw hq]
  dsimp only
  rw [if_neg (by omega), if_neg (by omega), if_pos (by rw [hk]; exact hseq)]
  unfold takeData
  simp only [hk, hsof, heof, Bool.false_eq_true, if_false, State.setLink_same]
  exact ⟨trivial, trivial, Tbl.get_set_same .., rfl⟩

theorem flitReceive_init (htr : (s.link l).st = .training) (hc : x.crcOk = true) (hft : x.ftype = 3) (hw : (s.link l).window = [])
    (hq : (s.link l).sendQ = []) : Does (.flitReceive l x) s fun t =>
      (t.link l).credits.get 0 (field x.crd 10 8) = (s.link l).credits.get 0 (field x.crd 10 8) + field x.crd 7 0 ∧
      (t.link l).st = .training ∧ t.out = s.out := by
  refine Does.of (show execFlitReceive l x s = _ from (flitReceive_open hl hr (.inr ⟨htr, hft⟩)).trans (if_neg (by simp [hc]))) ?_
  rw [goodFlit_idle (by omega) hw hq]
  dsimp only
  rw [if_neg (by omega), if_pos (by omega), takeCredits_link]
  exact ⟨Tbl.get_set_same .., htr, rfl⟩

/-! ## Resends and retrains -/

theorem flitAckTimeout_resends (hup : (s.link l).st = .up) (hw : (s.link l).window ≠ []) (hn : (s.link l).resends < 7) :
    Does (.flitAckTimeout l) s fun t =>
      t.link l = { s.link l with replay := (s.link l).replay + 1, resends := (s.link l).resends + 1 } ∧
      t.out.flits = s.out.flits ++ (s.link l).window.map (fun f => (l, 0, f.seq)) ∧ t = { s with lnk := t.lnk, out := t.out } := by
  refine Does.of (show execFlitAckTimeout l s = _ from if_neg (by simp [hr, hl])) ?_
  rw [resend_up hup hw]
  dsimp only
  rw [if_neg (by omega), resendWindow_eq, State.setLink_same]
  exact ⟨State.setLink_same .., rfl, rfl⟩

theorem flitAckTimeout_retrains (hup : (s.link l).st = .up) (hw : (s.link l).window ≠ []) (hn : (s.link l).resends = 7) :
    Does (.flitAckTimeout l) s fun t => (t.link l).st = .retraining ∧ (t.link l).window = (s.link l).window ∧
      (t.link l).replay = (s.link l).replay + 1 ∧ (t.link l).retrain = (s.link l).retrain + 1 ∧ (t.link l).resends = 0 := by
  refine Does.of (show execFlitAckTimeout l s = _ from if_neg (by simp [hr, hl])) ?_
  rw [resend_up hup hw]
  dsimp only
  rw [if_pos (by omega), resendWindow_eq, State.setLink_same]
  generalize ht : ({ s.setLink l _ with out := _ } : State) = t
  have hk : t.link l = { s.link l with replay := (s.link l).replay + 1, resends := (s.link l).resends + 1 } := by
    rw [← ht]
    exact State.setLink_same ..
  unfold beginRetrain
  rw [State.setLink_same, hk]
  exact ⟨rfl, rfl, rfl, rfl, rfl⟩

end

theorem rhizomeRetrainDone_up {l : Nat} {s : State} (hl : l < 16) (hst : (s.link l).st = .retraining) (hq : (s.link l).sendQ = []) :
    Does (.rhizomeRetrainDone l true) s fun t => t.link l = { s.link l with st := .up, resends := 0 } ∧
      t.out.flits = s.out.flits ++ (s.link l).window.map (fun f => (l, 0, f.seq)) ∧ t.lnk.sent = s.lnk.sent := by
  have hk := State.setLink_same s l { s.link l with st := .up, resends := 0 }
  have hdone : execRhizomeRetrainDone l true s =
      .next (pump l (resendWindow l (s.setLink l { s.link l with st := .up, resends := 0 }))) := by
    unfold execRhizomeRetrainDone
    simp only [Nat.not_le.2 hl, if_false, hst, if_true]
  refine Does.of (show execRhizomeRetrainDone l true s = _ from hdone) ?_
  rw [resendWindow_eq, pump_idle]
  · rw [hk]
    exact ⟨hk, rfl, rfl⟩
  · exact (congrArg Link.sendQ hk).trans hq

/-! ## Frames that are sent again (R561) -/

section
variable {x : SentFrame} {s : State} (hs : s.lnk.sent = [x]) (ht : x.sentAt + 100000 ≤ s.time)
include hs ht

theorem frameResendTimeout_again (hm : x.frame.ftype ≠ ftMgmt) (hd : (s.link (nibble x.frame.route 0)).st ≠ .down) :
    execFrameResendTimeout (routeKey x.frame.route x.frame.hops) x.frame.fseq s =
      .next (linkFrame x.level x.frame { s with lnk := { s.lnk with sent := [{ x with sentAt := s.time }] } }) := by
  unfold execFrameResendTimeout
  simp only [hs, List.find?_cons, ht, decide_true, Bool.and_self, hm, decide_false, Bool.false_and, hd, Bool.false_eq_true, or_self,
    if_false, List.map_cons, List.map_nil, if_true]

theorem frameResendTimeout_lost (hd : (s.link (nibble x.frame.route 0)).st = .down) :
    execFrameResendTimeout (routeKey x.frame.route x.frame.hops) x.frame.fseq s = .next (frameLost x.frame s) := by
  unfold execFrameResendTimeout
  simp only [hs, List.find?_cons, ht, decide_true, Bool.and_self, hd, true_or, if_true]

end

/-- Settles O51. -/
theorem linkFlits : Obligations.LinkFlits := by
  unfold Obligations.LinkFlits
  refine ⟨fun l x s hl hr hup hc hn => flitReceive_badCrc hl hr hup hc hn,
    fun l x s hl hr hup hc hft hw hq hseq hn => flitReceive_outOfTurn hl hr hup hc hft hw hq hseq hn,
    fun l x s hl hr hup hc hft hw hq hseq hsof heof => flitReceive_joins hl hr hup hc hft hw hq hseq hsof heof,
    fun l x s hl hr htr hc hft hw hq => flitReceive_init hl hr htr hc hft hw hq,
    fun l s hl hr hup hw hn => flitAckTimeout_resends hl hr hup hw hn, fun l s hl hr hup hw hn => flitAckTimeout_retrains hl hr hup hw hn,
    ?_, ?_, fun l s hl hst hq => rhizomeRetrainDone_up hl hst hq, ?_, ?_, ?_, ?_, ?_, ?_, ?_, ?_⟩
  · intro l s hw
    show execFlitAckTimeout l s = _
    unfold execFlitAckTimeout
    rw [resend_empty hw, ite_self]
  · intro l s hl hr hup
    show execFecBlockLockLoss l s = _
    exact if_neg (by simp [hr, hup, hl])
  · intro l s hl hst
    show execRhizomeRetrainDone l false s = _
    unfold execRhizomeRetrainDone
    simp only [Nat.not_le.2 hl, if_false, hst, Bool.false_eq_true]
    rfl
  · intro f s hx
    exact if_pos hx
  · intro l ok s hl hst
    show execRhizomeRetrainDone l ok s = _
    unfold execRhizomeRetrainDone
    simp only [Nat.not_le.2 hl, if_false, hst]
  · intro l s hl hr hst hg hrev hwt
    show execLinkUpRetry l s = _
    exact if_neg (by simp [hr, hst, hg, hrev, hwt, hl])
  · intro l s hst
    show execLinkUpRetry l s = _
    exact if_pos (.inr (.inr (.inl hst)))
  · intro x s hs hm ht hd
    exact show execFrameResendTimeout _ _ s = _ from frameResendTimeout_again hs ht hm hd
  · intro x s hs ht hd
    exact show execFrameResendTimeout _ _ s = _ from frameResendTimeout_lost hs ht hd
  · intro r q s hs
    show execFrameResendTimeout r q s = _
    unfold execFrameResendTimeout
    rw [hs]
    rfl

end Sys2Proof.Machine
end

section
/-!
PROOFS. Mailbox commands as each of them begins and ends (R460 to R468): a command that passes the checks which every command has first
runs its own, and the end of a command stands in its mailbox.
-/

namespace Sys2Proof.Machine

/-! ## A command runs -/

section
variable {fn mop : Nat} {r : MbxRule} {s : State} (h : MbxRuns fn mop r s)
include h

theorem MbxRuns.gateOpen : s.mp.arbitrating = false := by
  have hr := h.runs
  simp only [fwRuns, Bool.and_eq_true, Bool.not_eq_true'] at hr
  exact hr.1.2

theorem MbxRuns.awake : awake s = true := by
  have hr := h.runs
  simp only [fwRuns, Bool.and_eq_true] at hr
  exact hr.2

/-- The checks of every command pass (R439, R465). -/
theorem onMbx_runs (f : Mbx → State → State) : onMbx fn mop r f s = f (s.getMbx fn) s := by
  have hrule : (r.pfOnly && decide (fn ≠ 0)) = false := by
    obtain hp | hp := h.allowed <;> simp [hp]
  have habsent : (fnAbsent fn s && decide (mop ≠ 1)) = false := by
    obtain ha | ha := h.there <;> simp [ha]
  have hother : (r.targeted && decide (fn ≠ 0) && decide ((s.getMbx fn).target ≠ fn)) = false := by
    have ht := h.target
    cases hb : r.targeted with
    | false => rfl
    | true =>
      rw [hb, if_pos rfl] at ht
      obtain ht | ht := ht <;> simp [ht]
  have hnone : (!r.targeted && decide ((s.getMbx fn).target ≠ 0)) = false := by
    have ht := h.target
    cases hb : r.targeted with
    | true => rfl
    | false =>
      rw [hb, if_neg (by decide)] at ht
      simp [ht]
  unfold onMbx
  dsimp only
  rw [if_neg (by simp [h.busy, h.taken, h.fresh, h.code, h.runs]), habsent, hrule, hother, hnone, h.reserved]
  rfl

theorem onMbxSub_runs (f : Mbx → State → State) {sub : Nat} (hs : (s.getMbx fn).arg 8 1 = sub) :
    onMbxSub fn mop sub r f s = f (s.getMbx fn) s := (if_pos hs).trans (onMbx_runs h f)

end

/-! ## A command ends -/

/-- The mailbox after the response of R466. -/
def answered (m : Mbx) (err detail off : Nat) (payload : List Byte) : Mbx :=
  let resp := leBytes m.mop 1 ++ leBytes err 1 ++ leBytes detail 2 ++ leBytes m.capSeq.toNat 4 ++ leBytes off 8 ++ payload.take 240
  let full := resp ++ zeros (256 - resp.length)
  let st : MbxState := if err = 0 then .done else .error
  { m with
    st := st, replay := false, held := false, started := false, err := err, rlen := (resp.length + 7) / 8, resp := full,
    lastSeq := some m.capSeq, cache := (st, err, (resp.length + 7) / 8, m.mop, full) }

theorem respond_eq (fn err detail off : Nat) (payload : List Byte) (s : State) : ∃ h w x, respond fn err detail off payload s = { s with
    mbx := s.mbx.set Mbx.reset fn (answered (s.getMbx fn) err detail off payload), out := { s.out with host := h },
    lnk := { s.lnk with hp := w, msixPend := x } } := by
  unfold respond
  dsimp only
  split
  · obtain ⟨h, w, x, e, -⟩ := hostSend_eq (s.getMbx fn).port (.msix (s.getMbx fn).port fn (s.getMbx fn).vector)
      (s.setMbx fn (answered (s.getMbx fn) err detail off payload))
    exact ⟨h, w, x, e⟩
  · exact ⟨s.out.host, s.lnk.hp, s.lnk.msixPend, rfl⟩

/-- While the gate is open a response is one output of the pair, and stands in the mailbox at once (R487). -/
theorem endMbx_eq (fn err detail off : Nat) (payload : List Byte) {s : State} (ha : s.mp.arbitrating = false) :
    ∃ h w x, endMbx fn err detail off payload s = { s with
      mp := { s.mp with outSeq := s.mp.outSeq + 1 },
      mbx := s.mbx.set Mbx.reset fn (answered (s.getMbx fn) err detail off payload), out := { s.out with host := h },
      lnk := { s.lnk with hp := w, msixPend := x } } := by
  unfold endMbx
  rw [gateOut_open _ _ _ ha]
  obtain ⟨h, w, x, e⟩ := respond_eq fn err detail off payload { s with mp := { s.mp with outSeq := s.mp.outSeq + 1 } }
  exact ⟨h, w, x, e⟩

theorem endMbx_getMbx (fn err detail off : Nat) (payload : List Byte) {s : State} (ha : s.mp.arbitrating = false) :
    (endMbx fn err detail off payload s).getMbx fn = answered (s.getMbx fn) err detail off payload := by
  obtain ⟨h, w, x, e⟩ := endMbx_eq fn err detail off payload ha
  rw [e]
  exact Tbl.get_set_same ..

theorem endMbx_ended (fn err detail off : Nat) (payload : List Byte) {s : State} (ha : s.mp.arbitrating = false) :
    MbxEnded fn err (endMbx fn err detail off payload s) := by
  unfold MbxEnded
  rw [endMbx_getMbx _ _ _ _ _ ha]
  exact ⟨rfl, rfl⟩

/-! ## Reads of host memory (R440, R468) -/

theorem sentAll_eq {α : Type} (p : Nat) (f : α → HostMsg) (l : List α) (s : State) : ∃ h w x,
    forEach (fun a t => hostSend p (f a) t) l s =
      { s with out := { s.out with host := h }, lnk := { s.lnk with hp := w, msixPend := x } } ∧
      ∀ j, (w.get HostPort.reset j).up = (s.hostPort j).up ∧ (w.get HostPort.reset j).absent = (s.hostPort j).absent := by
  induction l generalizing s with
  | nil => exact ⟨s.out.host, s.lnk.hp, s.lnk.msixPend, rfl, fun _ => ⟨rfl, rfl⟩⟩
  | cons a l ih =>
    obtain ⟨h, w, x, e, hk⟩ := hostSend_eq p (f a) s
    obtain ⟨h', w', x', e', hk'⟩ := ih { s with out := { s.out with host := h }, lnk := { s.lnk with hp := w, msixPend := x } }
    refine ⟨h', w', x', ?_, fun j => ⟨(hk' j).1.trans (hk j).1, (hk' j).2.trans (hk j).2⟩⟩
    show forEach _ l (hostSend p (f a) s) = _
    rw [e, e']

/-- Where the port answers reads, the command goes on after them; the ports stand as before. -/
theorem mbxRead_reads (fn : Nat) (m : Mbx) (l : List (Nat × Nat)) {s : State} (h : mbxReads s m = true) :
    ∃ o w x, (∀ k : State → State, mbxRead fn m l k s = k { s with out := { s.out with host := o }, lnk := { s.lnk with hp := w, msixPend := x } }) ∧
      ∀ j, (w.get HostPort.reset j).up = (s.hostPort j).up ∧ (w.get HostPort.reset j).absent = (s.hostPort j).absent := by
  obtain ⟨o, w, x, e, hk⟩ := sentAll_eq m.port (fun r : Nat × Nat => HostMsg.read m.port fn r.1 r.2) (l.filter fun r => r.2 ≠ 0) s
  refine ⟨o, w, x, fun k => ?_, hk⟩
  unfold mbxRead
  dsimp only
  rw [if_pos (by simp [h]), e]

theorem whole_of_length {n : Nat} {b : List Byte} (h : b.length = n) : whole n (some b) = some b := if_pos h

end Sys2Proof.Machine
end

section
/-!
PROOFS. HIER_CONFIG: role, workers and SSD admission (R402, R566, R567).
-/

namespace Sys2Proof.Machine

theorem placeJournal_eq (s : State) : ∃ a b, placeJournal s = { s with store := { s.store with jour1 := a, jour2 := b } } := by
  unfold placeJournal
  dsimp only
  split
  · exact ⟨_, _, rfl⟩
  · exact ⟨s.store.jour1, _, rfl⟩
  · exact ⟨_, s.store.jour2, rfl⟩
  · exact ⟨s.store.jour1, s.store.jour2, rfl⟩

/-- MGMT frames to every worker of a table: each is kept, and the tables of workers stay. -/
theorem sendAll_eq (f : State → Worker → List Byte) (ws : List Worker) (s : State) : ∃ k q fl fr n,
    forEach (fun (w : Worker) t => sendFrame ftMgmt w.hops w.route 0 0 0 (f t w) t) ws s =
      { s with lnk := { s.lnk with links := k, fseq := q, sent := s.lnk.sent ++ n }, out := { s.out with flits := fl, frames := fr } } ∧
    n.length = ws.length := by
  induction ws generalizing s with
  | nil => exact ⟨s.lnk.links, s.lnk.fseq, s.out.flits, s.out.frames, [], by simp [forEach], rfl⟩
  | cons w ws ih =>
    obtain ⟨k, fl, fr, e⟩ := sendFrame_eq ftMgmt w.hops w.route 0 0 0 (f s w) s
    rw [if_neg (by decide)] at e
    obtain ⟨k', q', fl', fr', n', e', hn⟩ := ih (sendFrame ftMgmt w.hops w.route 0 0 0 (f s w) s)
    refine ⟨k', q', fl', fr', ⟨⟨ftMgmt, w.hops, 0, 0, w.route, s.lnk.fseq.get 0 (routeKey w.route w.hops), 0, f s w⟩, 0, s.time⟩ :: n', ?_,
      by simp [hn]⟩
    show forEach _ ws (sendFrame ftMgmt w.hops w.route 0 0 0 (f s w) s) = _
    rw [e', e]
    simp only [List.append_assoc, List.singleton_append]

section
variable {s : State}

theorem setRole_takes (h : MbxRuns 0 0x70 ⟨true, false, [(8, 1), (9, 1)]⟩ s) (hop : (s.getMbx 0).arg 8 1 = 1) (hr : (s.getMbx 0).arg 9 1 ≤ 1)
    (hf : s.lnk.fans = []) : Does (.setRole 0) s fun t => MbxEnded 0 0 t ∧ t.lnk.manager = decide ((s.getMbx 0).arg 9 1 = 1) ∧
      (s.lnk.manager ≠ decide ((s.getMbx 0).arg 9 1 = 1) → t.lnk.level = (s.getMbx 0).arg 9 1 ∧ t.lnk.adopted = false ∧ t.lnk.mgrUid = 0) := by
  have hrun : execSetRole 0 s = .next (mbxOk 0 (takeRole (decide ((s.getMbx 0).arg 9 1 = 1)) s)) := by
    refine next_congr ((onMbxSub_runs h _ hop).trans ?_)
    dsimp only
    rw [if_neg (by omega), if_neg (by simp [hf])]
  have ha : (takeRole (decide ((s.getMbx 0).arg 9 1 = 1)) s).mp.arbitrating = false := by
    unfold takeRole
    split <;> exact h.gateOpen
  refine Does.of (show execSetRole 0 s = _ from hrun) ⟨endMbx_ended _ _ _ _ _ ha, ?_⟩
  obtain ⟨o, w, x, e⟩ := endMbx_eq 0 0 0 0 [] ha
  rw [show mbxOk 0 _ = _ from e]
  unfold takeRole
  by_cases hm : s.lnk.manager = decide ((s.getMbx 0).arg 9 1 = 1)
  · rw [if_pos hm]
    exact ⟨hm, fun hn => absurd hm hn⟩
  · rw [if_neg hm]
    refine ⟨rfl, fun _ => ⟨?_, rfl, rfl⟩⟩
    show (if decide ((s.getMbx 0).arg 9 1 = 1) = true then 1 else 0) = _
    split
    case isTrue h1 => exact (of_decide_eq_true h1).symm
    case isFalse h1 =>
      have := of_decide_eq_false (Bool.eq_false_iff.2 h1)
      omega

theorem setRole_busy (h : MbxRuns 0 0x70 ⟨true, false, [(8, 1), (9, 1)]⟩ s) (hop : (s.getMbx 0).arg 8 1 = 1) (hr : (s.getMbx 0).arg 9 1 ≤ 1)
    (hf : s.lnk.fans ≠ []) (hm : s.lnk.manager ≠ decide ((s.getMbx 0).arg 9 1 = 1)) :
    Does (.setRole 0) s fun t => MbxEnded 0 meState t ∧ t.lnk.manager = s.lnk.manager := by
  have hrun : execSetRole 0 s = .next (mbxErr 0 meState s) := by
    refine next_congr ((onMbxSub_runs h _ hop).trans ?_)
    dsimp only
    rw [if_neg (by omega), if_pos ⟨hm, by simp [hf]⟩]
  refine Does.of (show execSetRole 0 s = _ from hrun) ⟨endMbx_ended _ _ _ _ _ h.gateOpen, ?_⟩
  obtain ⟨o, w, x, e⟩ := endMbx_eq 0 meState 0 0 [] h.gateOpen
  rw [show mbxErr 0 meState s = _ from e]

end

/-! ## SET_WORKERS -/

section
variable {s : State} (h : MbxRuns 0 0x70 ⟨true, false, [(8, 1), (9, 1), (16, 8)]⟩ s) (hop : (s.getMbx 0).arg 8 1 = 2)
  (hmin : 1 ≤ (s.getMbx 0).arg 9 1) (hmax : (s.getMbx 0).arg 9 1 ≤ 64)
include h hop hmin hmax

theorem setWorkers_refused (b : Option (List Byte)) (hm : s.lnk.manager = false) (hl : s.lnk.adopted = false ∨ s.lnk.level = 3) :
    Does (.setWorkers 0 b) s fun t => MbxEnded 0 meState t ∧ t.lnk.workers = s.lnk.workers := by
  have hrun : execSetWorkers 0 b s = .next (mbxErr 0 meState s) := by
    refine next_congr ((onMbxSub_runs h _ hop).trans ?_)
    dsimp only
    rw [if_neg (by omega), if_pos (by obtain hl | hl := hl <;> simp [hm, hl])]
  refine Does.of (show execSetWorkers 0 b s = _ from hrun) ⟨endMbx_ended _ _ _ _ _ h.gateOpen, ?_⟩
  obtain ⟨o, w, x, e⟩ := endMbx_eq 0 meState 0 0 [] h.gateOpen
  rw [show mbxErr 0 meState s = _ from e]

section
variable (hm : s.lnk.manager = true) (hreads : mbxReads s (s.getMbx 0) = true)
include hm hreads

/-- What a manager's SET_WORKERS does once its read has returned, in a state that differs only by the read request. -/
theorem setWorkers_read (b : Option (List Byte)) : ∃ o w x, ∃ t : State,
    t = { s with out := { s.out with host := o }, lnk := { s.lnk with hp := w, msixPend := x } } ∧
    (t.hostPort (s.getMbx 0).port).absent = (s.hostPort (s.getMbx 0).port).absent ∧
    execSetWorkers 0 b s = .next (
      match whole (64 + 32 * (s.getMbx 0).arg 9 1 + 8 * (s.getMbx 0).arg 9 1 * (s.getMbx 0).arg 9 1) (hostGave t (s.getMbx 0).port b) with
      | none => mbxErr 0 meHost t
      | some b =>
        if !tableHead b ((s.getMbx 0).arg 9 1) then endMbx 0 meRejected 0 0 [] t
        else
          match badEntry b ((s.getMbx 0).arg 9 1) with
          | some i => endMbx 0 meRejected i 0 [] t
          | none => sendHellos 0 ((List.range ((s.getMbx 0).arg 9 1)).map (workerEntry b ((s.getMbx 0).arg 9 1))) t) := by
  obtain ⟨o, w, x, hread, hk⟩ := mbxRead_reads 0 (s.getMbx 0)
    [((s.getMbx 0).arg 0x10 8, 64 + 32 * (s.getMbx 0).arg 9 1 + 8 * (s.getMbx 0).arg 9 1 * (s.getMbx 0).arg 9 1)] hreads
  exact ⟨o, w, x, _, rfl, (hk _).2,
    next_congr ((onMbxSub_runs h _ hop).trans ((if_neg (by omega)).trans ((if_neg (by simp [hm])).trans (hread _))))⟩

theorem setWorkers_unread : Does (.setWorkers 0 none) s fun t => MbxEnded 0 meHost t ∧ t.lnk.workers = s.lnk.workers := by
  obtain ⟨o, w, x, t, ht, -, hrun⟩ := setWorkers_read h hop hmin hmax hm hreads none
  rw [hostGave_none] at hrun
  have ha : t.mp.arbitrating = false := by rw [ht]; exact h.gateOpen
  refine Does.of (show execSetWorkers 0 none s = _ from hrun) ⟨endMbx_ended _ _ _ _ _ ha, ?_⟩
  obtain ⟨o', w', x', e⟩ := endMbx_eq 0 meHost 0 0 [] ha
  show (mbxErr 0 meHost t).lnk.workers = _
  rw [show mbxErr 0 meHost t = _ from e, ht]

section
variable {b : List Byte} (hp : (s.hostPort (s.getMbx 0).port).absent = false)
  (hlen : b.length = 64 + 32 * (s.getMbx 0).arg 9 1 + 8 * (s.getMbx 0).arg 9 1 * (s.getMbx 0).arg 9 1)
  (hhead : tableHead b ((s.getMbx 0).arg 9 1) = true)
include hp hlen hhead

theorem setWorkers_rejected {i : Nat} (hbad : badEntry b ((s.getMbx 0).arg 9 1) = some i) : Does (.setWorkers 0 (some b)) s fun t =>
    MbxEnded 0 meRejected t ∧ ((t.getMbx 0).resp.drop 2).take 2 = leBytes i 2 ∧ t.lnk.workers = s.lnk.workers := by
  obtain ⟨o, w, x, t, ht, hk, hrun⟩ := setWorkers_read h hop hmin hmax hm hreads (some b)
  rw [hostGave_present _ (hk.trans hp), whole_of_length hlen] at hrun
  simp only [hhead, hbad, Bool.not_true, Bool.false_eq_true, if_false] at hrun
  have ha : t.mp.arbitrating = false := by rw [ht]; exact h.gateOpen
  refine Does.of (show execSetWorkers 0 (some b) s = _ from hrun) ⟨endMbx_ended _ _ _ _ _ ha, ?_, ?_⟩
  · rw [endMbx_getMbx _ _ _ _ _ ha]
    rfl
  · obtain ⟨o', w', x', e⟩ := endMbx_eq 0 meRejected i 0 [] ha
    rw [e, ht]

theorem setWorkers_hellos (hgood : badEntry b ((s.getMbx 0).arg 9 1) = none) : Does (.setWorkers 0 (some b)) s fun t =>
    t.lnk.newWorkers = (List.range ((s.getMbx 0).arg 9 1)).map (workerEntry b ((s.getMbx 0).arg 9 1)) ∧ t.lnk.workers = s.lnk.workers ∧
    t.lnk.sent.length = s.lnk.sent.length + (s.getMbx 0).arg 9 1 ∧ (t.getMbx 0).st = .busy ∧ (t.getMbx 0).started = true := by
  obtain ⟨o, w, x, t, ht, hk, hrun⟩ := setWorkers_read h hop hmin hmax hm hreads (some b)
  rw [hostGave_present _ (hk.trans hp), whole_of_length hlen] at hrun
  simp only [hhead, hgood, Bool.not_true, Bool.false_eq_true, if_false] at hrun
  refine Does.of (show execSetWorkers 0 (some b) s = _ from hrun) ?_
  obtain ⟨k, q, fl, fr, n, e, hn⟩ := sendAll_eq (fun t w => helloPayload t.lnk.level w.uid)
    ((List.range ((s.getMbx 0).arg 9 1)).map (workerEntry b ((s.getMbx 0).arg 9 1)))
    { t.modMbx 0 (fun m => { m with started := true }) with lnk := { t.lnk with
        newWorkers := (List.range ((s.getMbx 0).arg 9 1)).map (workerEntry b ((s.getMbx 0).arg 9 1)), helloFrom := some (0, t.time) } }
  rw [show sendHellos 0 _ t = _ from e]
  have hmbx : (t.modMbx 0 (fun m => { m with started := true })).getMbx 0 = { s.getMbx 0 with started := true } := by
    rw [ht]
    exact Tbl.get_set_same ..
  refine ⟨rfl, ?_, ?_, (congrArg Mbx.st hmbx).trans h.busy, congrArg Mbx.started hmbx⟩
  · rw [ht]
  · show (t.lnk.sent ++ n).length = _
    rw [List.length_append, hn, List.length_map, List.length_range, ht]

end
end
end

/-! ## ADMIT_SSD -/

section
variable {found : SsdFound} {s : State} (h : MbxRuns 0 0x70 ⟨true, false, [(8, 1), (9, 1)]⟩ s) (hop : (s.getMbx 0).arg 8 1 = 3)
  (hport : (s.getMbx 0).arg 9 1 ≤ 15)
include h hop hport

theorem admitSsd_blank (hpool : (s.ssd ((s.getMbx 0).arg 9 1)).pool = false) (hf : found.port = (s.getMbx 0).arg 9 1)
    (hok : found.formatOk = true) (hblank : found.blank = true) : Does (.admitSsd 0 found) s fun t => MbxEnded 0 0 t ∧
      (t.ssd ((s.getMbx 0).arg 9 1)).pool = true ∧ (t.ssd ((s.getMbx 0).arg 9 1)).label = true := by
  obtain ⟨a, b, ej⟩ := placeJournal_eq (s.setSsd ((s.getMbx 0).arg 9 1) ⟨true, true, true, false, true, false, 0, found.extents⟩)
  have hrun : execAdmitSsd 0 found s =
      .next (mbxOk 0 (placeJournal (s.setSsd ((s.getMbx 0).arg 9 1) ⟨true, true, true, false, true, false, 0, found.extents⟩))) := by
    refine next_congr ((onMbxSub_runs h _ hop).trans ?_)
    dsimp only
    rw [if_neg (by omega), if_neg (by simp [hpool, hf, hok, hblank])]
  have ha : (placeJournal (s.setSsd ((s.getMbx 0).arg 9 1) ⟨true, true, true, false, true, false, 0, found.extents⟩)).mp.arbitrating = false := by
    rw [ej]
    exact h.gateOpen
  refine Does.of (show execAdmitSsd 0 found s = _ from hrun) ⟨endMbx_ended _ _ _ _ _ ha, ?_⟩
  obtain ⟨o, w, x, e⟩ := endMbx_eq 0 0 0 0 [] ha
  have hssds : (mbxOk 0 (placeJournal (s.setSsd ((s.getMbx 0).arg 9 1) ⟨true, true, true, false, true, false, 0, found.extents⟩))).store.ssds =
      (s.setSsd ((s.getMbx 0).arg 9 1) ⟨true, true, true, false, true, false, 0, found.extents⟩).store.ssds := by
    rw [show mbxOk 0 _ = _ from e, ej]
  have hssd := (congrArg (fun d => Tbl.get Ssd.none d ((s.getMbx 0).arg 9 1)) hssds).trans (State.setSsd_same ..)
  exact ⟨congrArg Ssd.pool hssd, congrArg Ssd.label hssd⟩

theorem admitSsd_refused (hbad : (s.ssd ((s.getMbx 0).arg 9 1)).pool = true ∨ found.port ≠ (s.getMbx 0).arg 9 1 ∨ found.formatOk = false ∨
    found.blank = false) : Does (.admitSsd 0 found) s fun t => MbxEnded 0 meState t ∧ t.store = s.store := by
  have hrun : execAdmitSsd 0 found s = .next (mbxErr 0 meState s) := by
    refine next_congr ((onMbxSub_runs h _ hop).trans ?_)
    dsimp only
    rw [if_neg (by omega), if_pos (by simpa using hbad)]
  refine Does.of (show execAdmitSsd 0 found s = _ from hrun) ⟨endMbx_ended _ _ _ _ _ h.gateOpen, ?_⟩
  obtain ⟨o, w, x, e⟩ := endMbx_eq 0 meState 0 0 [] h.gateOpen
  rw [show mbxErr 0 meState s = _ from e]

end

/-- Settles O53. -/
theorem hierarchyConfig : Obligations.HierarchyConfig := by
  unfold Obligations.HierarchyConfig
  refine ⟨fun s h hop hr hf => setRole_takes h hop hr hf, fun s h hop hr hf hm => setRole_busy h hop hr hf hm,
    fun b s h hop hmin hmax hm hl => setWorkers_refused h hop hmin hmax b hm hl,
    fun s h hop hmin hmax hm hreads => setWorkers_unread h hop hmin hmax hm hreads, ?_, ?_,
    fun found s h hop hport hpool hf hok hblank => admitSsd_blank h hop hport hpool hf hok hblank,
    fun found s h hop hport hbad => admitSsd_refused h hop hport hbad⟩
  · rintro b n i s h hop rfl hmin hmax hm hp hreads hlen hhead hbad
    exact setWorkers_rejected h hop hmin hmax hm hreads hp hlen hhead hbad
  · rintro b n s h hop rfl hmin hmax hm hp hreads hlen hhead hgood
    exact setWorkers_hellos h hop hmin hmax hm hreads hp hlen hhead hgood

end Sys2Proof.Machine
end

section
/-!
PROOFS. Host ports out of L0, hot reset and CXL.mem accesses (R335, R341, R342, R552, R553).
-/

namespace Sys2Proof.Machine

theorem Tbl.mem_of_get {α : Type} {d v : α} {t : Tbl α} {k : Nat} (h : t.get d k = v) (hv : v ≠ d) : (k, v) ∈ t := by
  induction t with
  | nil => exact absurd h.symm hv
  | cons e t ih =>
    obtain ⟨j, w⟩ := e
    unfold Tbl.get at h
    split at h
    case isTrue hj => exact hj ▸ h ▸ List.mem_cons_self ..
    case isFalse => exact List.mem_cons_of_mem _ (ih h)

theorem cmd_mem {s : State} {k : Nat} {c : Cmd} (h : s.cmd k = some c) : (k, some c) ∈ s.ring.cmds := Tbl.mem_of_get h nofun

/-! ## The reads of an absent port fail -/

theorem sqError_ring_eq (i n cause : Nat) (s : State) : (sqError i n cause s).ring =
    (countRing i (fun c => { c with qerrors := c.qerrors + 1 }) (s.setSq i n { s.sq i n with st := .error, cause := cause })).ring := by
  unfold sqError
  rw [logEvent_ring, hawEvent_ring]

theorem sqError_sq (i n cause : Nat) (s : State) : (sqError i n cause s).sq i n = { s.sq i n with st := .error, cause := cause } := by
  rw [sq_of_ring (sqError_ring_eq i n cause s), countRing_sq, State.setSq_same]

/-- The state in which the reads that are pending on a port fail. -/
def portAbsent (p : Nat) (s : State) : State :=
  s.setHostPort p { s.hostPort p with
    absent := true, waitQ := (s.hostPort p).waitQ.filter fun m => match m with | .read .. => false | _ => true }

/-- What fails: the host reads of commands, the stream GETs of fronds, then the fetches of SQs (R552). -/
theorem hostLinkAbsenceTimeout_fails {p : Nat} {s : State} (hp : p ≤ 1) (hup : (s.hostPort p).up = false)
    (ha : (s.hostPort p).absent = false) : execHostLinkAbsenceTimeout p s = .next
      (let t := forEach failHostRead (((portAbsent p s).ring.cmds.filter fun e => e.2.any fun c =>
         decide (((portAbsent p s).sq c.inst c.sq).port = p)).map (·.1)) (portAbsent p s)
       forEach (fun k s => sqError (keyInst k) (keyNum k) 3 s)
         (((portAbsent p s).ring.sqs.filter fun e => decide (e.2.port = p) && fetchPending e.2).map (·.1))
         (forEach (failHostGets p) (t.fronds.map (·.1)) t)) :=
  if_neg (by simp [hup, ha, hp])

/-- Without commands and fronds only the fetches of SQs are pending. -/
theorem hostLinkAbsenceTimeout_sqs {p : Nat} {s : State} (hp : p ≤ 1) (hup : (s.hostPort p).up = false)
    (ha : (s.hostPort p).absent = false) (hc : s.ring.cmds = []) (hf : s.fronds = []) :
    execHostLinkAbsenceTimeout p s = .next (forEach (fun k s => sqError (keyInst k) (keyNum k) 3 s)
      ((s.ring.sqs.filter fun e => decide (e.2.port = p) && fetchPending e.2).map (·.1)) (portAbsent p s)) := by
  refine (hostLinkAbsenceTimeout_fails hp hup ha).trans ?_
  have hslots : (((portAbsent p s).ring.cmds.filter fun e => e.2.any fun c =>
      decide (((portAbsent p s).sq c.inst c.sq).port = p)).map (·.1)) = [] := by
    rw [show (portAbsent p s).ring.cmds = [] from hc]
    rfl
  rw [hslots, forEach]
  dsimp only
  rw [show (portAbsent p s).fronds = [] from hf]
  rfl

theorem hostLinkAbsenceTimeout_quiet {p : Nat} {s : State} (hp : p ≤ 1) (hup : (s.hostPort p).up = false)
    (ha : (s.hostPort p).absent = false) (hc : s.ring.cmds = []) (hq : s.ring.sqs = []) (hf : s.fronds = []) :
    Does (.hostLinkAbsenceTimeout p) s fun t => (t.hostPort p).absent = true ∧ (t.hostPort p).up = false ∧
      (∀ m, m ∈ (t.hostPort p).waitQ → m ∈ (s.hostPort p).waitQ) ∧ t.out = s.out ∧ t.ring = s.ring ∧ t.mem = s.mem := by
  have hrun := hostLinkAbsenceTimeout_sqs hp hup ha hc hf
  rw [hq] at hrun
  refine Does.of (show execHostLinkAbsenceTimeout p s = _ from hrun) ?_
  have hport : (portAbsent p s).hostPort p = _ := State.setHostPort_same ..
  show (((portAbsent p s).hostPort p).absent = true) ∧ _
  show ((portAbsent p s).hostPort p).absent = true ∧ ((portAbsent p s).hostPort p).up = false ∧ (∀ m, m ∈ ((portAbsent p s).hostPort p).waitQ → _) ∧ _
  rw [hport]
  exact ⟨rfl, hup, fun m hm => (List.mem_filter.1 hm).1, rfl, rfl, rfl⟩

theorem hostLinkAbsenceTimeout_fetch {p i n : Nat} {q : Sq} {s : State} (hp : p ≤ 1) (hup : (s.hostPort p).up = false)
    (ha : (s.hostPort p).absent = false) (hc : s.ring.cmds = []) (hf : s.fronds = []) (hn : n < 8192) (hq : s.ring.sqs = [(sqKey i n, q)])
    (hport : q.port = p) (hpend : fetchPending q = true) : Does (.hostLinkAbsenceTimeout p) s fun t =>
      t.sq i n = { q with st := .error, cause := 3 } := by
  have hrun := hostLinkAbsenceTimeout_sqs hp hup ha hc hf
  have hkey : keyInst (sqKey i n) = i ∧ keyNum (sqKey i n) = n := by
    unfold keyInst keyNum sqKey
    omega
  have hsq : (portAbsent p s).sq i n = q := by
    show Tbl.get Sq.absent s.ring.sqs (sqKey i n) = q
    rw [hq]
    simp [Tbl.get]
  rw [hq] at hrun
  simp only [List.filter_cons, hport, hpend, decide_true, Bool.and_self, if_true, List.filter_nil, List.map_cons, List.map_nil, forEach,
    hkey] at hrun
  refine Does.of (show execHostLinkAbsenceTimeout p s = _ from hrun) ?_
  rw [sqError_sq, hsq]

/-! ## A port returns -/

theorem hostLinkReturn_sends {p : Nat} {s : State} (hp : p ≤ 1) (hup : (s.hostPort p).up = false)
    (hw : ∀ e ∈ s.ring.cmds, ∀ c, e.2 = some c → c.phase ≠ .writeWait) : Does (.hostLinkReturn p) s fun t =>
      t.out.host = s.out.host ++ (s.hostPort p).waitQ ∧ t.hostPort p = { up := true, absent := false, waitQ := [] } ∧
      t.ring = s.ring ∧ t.mem = s.mem ∧ t.log = s.log := by
  have hrun : execHostLinkReturn p s = .next (({ s with out := { s.out with host := s.out.host ++ (s.hostPort p).waitQ } } : State).setHostPort p
      { up := true, absent := false, waitQ := [] }) := by
    unfold execHostLinkReturn
    dsimp only
    rw [if_neg (by simp [hup, hp]), forEach_eq_self]
    intro k _
    unfold endWriteWait
    split
    case h_1 => rfl
    case h_2 c hc => exact if_neg fun h => hw _ (cmd_mem hc) c rfl h.1
  exact Does.of (show execHostLinkReturn p s = _ from hrun) ⟨rfl, State.setHostPort_same .., rfl, rfl, rfl⟩

/-! ## CXL.mem -/

/-- What a CXL.mem read answers, by how the device read ends. -/
theorem cxlMemRead_eq {a : Nat} {s : State} (h : inCxl s a = true) : execCxlMemRead a s =
    (let r := devReadN 0 (a / 64 * 64) 64 (cxlSeen s)
     let m : MemResp := match r.2.1 with
      | none => .data r.1
      | some (.poison, _) => .cxlPoison
      | some (.colour, _) => if cxlSystem s (a / 64 * 64) then .cxlPoison else .data (zeros 64)
      | some (.map, _) => .mapFault
     .next { r.2.2 with out := { r.2.2.out with mem := m } }) := if_neg (by simp [h])

/-- Settles O46. -/
theorem hostPorts : Obligations.HostPorts := by
  unfold Obligations.HostPorts
  refine ⟨?_, ?_, fun p s hp hup ha hc hq hf => hostLinkAbsenceTimeout_quiet hp hup ha hc hq hf,
    fun p i n q s hp hup ha hc hf hn hq hport hpend => hostLinkAbsenceTimeout_fetch hp hup ha hc hf hn hq hport hpend, ?_, ?_,
    fun p s hp hup hw => hostLinkReturn_sends hp hup hw, ?_, ?_, ?_, ?_, ?_, ?_, ?_, ?_⟩
  · intro p s hp
    show execHostPortOutOfL0 p s = _
    exact if_neg (by omega)
  · intro p m s hup hm
    unfold hostOut
    dsimp only
    rw [if_neg (by simp [hup]), if_neg (by obtain hm | hm := hm <;> simp [hm])]
  · intro p s hp h
    show execHostLinkAbsenceTimeout p s = _
    exact if_pos (.inr h)
  · intro p m s hup ha hm
    unfold hostOut
    dsimp only
    rw [if_neg (by simp [hup]), if_pos (by simp [ha, hm])]
  · intro p s hp
    show execHotReset p s = _
    exact if_neg (by omega)
  · intro p s hp
    show execHotReset p s = _
    exact if_pos (by omega)
  · intro a d t s h hr
    refine (show execCxlMemRead a s = _ from cxlMemRead_eq h).trans ?_
    rw [hr]
  · intro a d x t s h hr
    refine (show execCxlMemRead a s = _ from cxlMemRead_eq h).trans ?_
    rw [hr]
  · intro a d x t s h hsys hr
    refine (show execCxlMemRead a s = _ from cxlMemRead_eq h).trans ?_
    rw [hr]
    simp only [hsys, if_true]
  · intro a d x t s h hsys hr
    refine (show execCxlMemRead a s = _ from cxlMemRead_eq h).trans ?_
    rw [hr]
    simp only [hsys, Bool.false_eq_true, if_false]
  · intro a s h
    refine ⟨?_, fun d => ?_⟩
    · show execCxlMemRead a s = _
      exact if_pos (by simp [h])
    · show execCxlMemWrite a d s = _
      exact if_pos (.inl (by simp [h]))
  · intro a d t s h hd hl hr
    show execCxlMemWrite a d s = _
    unfold execCxlMemWrite
    dsimp only
    rw [if_neg (by simp [h, hd, hl]), hr]

end Sys2Proof.Machine
end

section
/-!
PROOFS. Writes of registers without a command of their own (R25 to R28, R313, R314, R460 to R462, R472).
-/

namespace Sys2Proof.Machine

theorem barReserved_vfSeen (s : State) (fn off : Nat) : barReserved (vfSeen fn s) fn off = barReserved s fn off := by
  unfold vfSeen
  split <;> rfl

theorem vfSeen_getMbx (s : State) (fn i : Nat) : (vfSeen fn s).getMbx i = s.getMbx i := by
  unfold vfSeen
  split <;> rfl

theorem vfSeen_getHaw (s : State) (fn i : Nat) : (vfSeen fn s).getHaw i = s.getHaw i := by
  unfold vfSeen
  split <;> rfl

theorem leAt_word (w : W32) : leAt (leBytes w.toNat 4) 0 4 = w.toNat := by
  have h := leAt_leBytes w.toNat 4 []
  rw [List.append_nil] at h
  rw [h]
  exact Nat.mod_eq_of_lt (by have := w.isLt; omega)

/-- A write of one word is one 4-byte write. -/
theorem words_one (off : Nat) (w : W32) : words off (leBytes w.toNat 4) = [(off, w)] := by
  have hl : (leBytes w.toNat 4).length / 4 = 1 := by rw [leBytes_length]
  unfold words
  rw [hl]
  simp [leAt_word]

section
variable {fn port off : Nat} {d : List Byte} {s : State} (hr : s.pads.inReset = false) (hf : fn ≤ 255) (hp : port ≤ 1) (hd : d ≠ [])
  (ho : off < 2 ^ 26)
include hr hf hp hd ho

/-- A write that is taken at all: reserved, refused for its size, or done. -/
theorem registerWrite_bar : execRegisterWrite (.bar0 fn port off) d s =
    if barReserved s fn off then .next (vfSeen fn s)
    else if !writeAdmitted off d.length then .next (badAccess fn off (vfSeen fn s))
    else .next (writeBar fn port off d (vfSeen fn s)) := by
  unfold execRegisterWrite
  dsimp only
  rw [if_neg, barReserved_vfSeen]
  simp only [hr, Bool.false_eq_true, Nat.not_lt.2 hf, Nat.not_lt.2 hp, List.isEmpty_iff, hd, Nat.not_le.2 ho, or_self, not_false_eq_true]

theorem registerWrite_done (hb : barReserved s fn off = false) (ha : writeAdmitted off d.length = true) :
    execRegisterWrite (.bar0 fn port off) d s = .next (writeBar fn port off d (vfSeen fn s)) := by
  rw [registerWrite_bar hr hf hp hd ho, if_neg (by simp [hb]), if_neg (by simp [ha])]

end

theorem leBytes_ne_nil (w : W32) : leBytes w.toNat 4 ≠ [] := List.cons_ne_nil _ _

/-- A word written into the first block of BAR0 goes to the registers of the function (R472). -/
theorem writeBar_haw (fn port off : Nat) (w : W32) (s : State) (h : off < 0x1000) :
    writeBar fn port off (leBytes w.toNat 4) s = writeHaw fn port off w s := by
  unfold writeBar
  rw [if_neg (by omega), if_neg (by omega), if_neg (by omega), words_one]
  simp only [forEach, h, if_true]

theorem mailbox_unreserved (s : State) (fn off : Nat) (hl : 0x1000 ≤ off) (hh : off < 0x2000) : barReserved s fn off = false := by
  unfold barReserved
  simp only [hl, hh, decide_true, Bool.and_self, Bool.not_true]
  split
  · rfl
  split
  · simp only [Bool.or_eq_false_iff, Bool.and_eq_false_iff, decide_eq_false_iff_not]
    omega
  · simp only [Bool.or_eq_false_iff, Bool.and_eq_false_iff, decide_eq_false_iff_not]
    omega

/-! ## GO (R461, R462) -/

section
variable {fn port : Nat} {w : W32} {s : State} (hrec : s.sec.recovery = false) (haw : awake s = true)
include hrec haw

theorem mbxGo_busy (hb : (s.getMbx fn).st = .busy) : mbxGo fn port w s = logEvent 0x0106 0x05 fn 0 none s := by
  unfold mbxGo
  rw [wake_awake haw]
  dsimp only
  rw [if_neg (by simp [hrec]), if_pos hb]

/-- GO with the sequence number of the last command shows its response again. -/
theorem mbxGo_repeats (hb : (s.getMbx fn).st ≠ .busy) (hq : (s.getMbx fn).lastSeq = some (s.getMbx fn).seq) (hi : w.getLsbD 31 = false) :
    mbxGo fn port w s = s.setMbx fn { s.getMbx fn with
      irq := false, vector := field w 26 16, port := port, st := (s.getMbx fn).cache.1, err := (s.getMbx fn).cache.2.1,
      rlen := (s.getMbx fn).cache.2.2.1, mop := (s.getMbx fn).cache.2.2.2.1, resp := (s.getMbx fn).cache.2.2.2.2, replay := true } := by
  unfold mbxGo
  rw [wake_awake haw]
  dsimp only
  rw [if_neg (by simp [hrec]), if_neg hb, if_pos hq, hi]
  rfl

/-- The mailbox as GO captures its command. -/
def captured (fn port : Nat) (w : W32) (s : State) : Mbx :=
  { s.getMbx fn with
    irq := w.getLsbD 31, vector := field w 26 16, port := port, capCmd := (s.getMbx fn).cmd, capSeq := (s.getMbx fn).seq, st := .busy,
    replay := false, held := quiesced s, err := 0, mop := (s.getMbx fn).cmd.toNat % 256, rlen := 0, started := false, goNo := nextGo s }

theorem mbxGo_captures (hb : (s.getMbx fn).st ≠ .busy) (hq : (s.getMbx fn).lastSeq ≠ some (s.getMbx fn).seq) :
    mbxGo fn port w s = refuseUnknown fn (s.setMbx fn (captured fn port w s)) := by
  unfold mbxGo
  rw [wake_awake haw]
  dsimp only
  rw [if_neg (by simp [hrec]), if_neg hb, if_neg hq]
  rfl

/-- A command that R469 lists, other than the two with a sub-operation, waits for its row. -/
theorem mbxGo_known (hb : (s.getMbx fn).st ≠ .busy) (hq : (s.getMbx fn).lastSeq ≠ some (s.getMbx fn).seq)
    (hm : mbxOps.contains ((s.getMbx fn).cmd.toNat % 256) = true)
    (hs : (s.getMbx fn).cmd.toNat % 256 ≠ 0x32 ∧ (s.getMbx fn).cmd.toNat % 256 ≠ 0x70) :
    mbxGo fn port w s = s.setMbx fn (captured fn port w s) := by
  rw [mbxGo_captures hrec haw hb hq]
  unfold refuseUnknown
  dsimp only
  rw [State.setMbx_same]
  split
  · rfl
  rw [if_neg (by rw [show (captured fn port w s).mop = (s.getMbx fn).cmd.toNat % 256 from rfl, hm]; decide), if_neg]
  rintro ⟨h | h, -⟩
  · exact hs.1 h
  · exact hs.2 h

theorem mbxGo_unknown (hbt : s.pads.booted = true) (hg : s.mp.arbitrating = false) (hqu : quiesced s = false)
    (hb : (s.getMbx fn).st ≠ .busy) (hq : (s.getMbx fn).lastSeq ≠ some (s.getMbx fn).seq)
    (hm : mbxOps.contains ((s.getMbx fn).cmd.toNat % 256) = false) : MbxEnded fn meUnknown (mbxGo fn port w s) := by
  rw [mbxGo_captures hrec haw hb hq]
  unfold refuseUnknown
  dsimp only
  rw [State.setMbx_same, if_neg, if_pos (by rw [show (captured fn port w s).mop = (s.getMbx fn).cmd.toNat % 256 from rfl, hm]; rfl)]
  · exact endMbx_ended _ _ _ _ _ hg
  · simp [captured, hqu, hbt]

end

/-! ## Context ports (R313, R314) -/

section
variable {u k acc off : Nat} {d : List Byte} {s : State} (hu : u < 4) (hk : k < 64)
include hu hk

theorem onPort_own {f : Ctx → State → State} (hi : (s.ctx u k).inst = acc) (hf : (s.ctx u k).st ≠ .free) :
    onPort u k acc f s = f (s.ctx u k) s := by
  unfold onPort
  dsimp only
  rw [if_neg (by simp [hf, hu, hk]), if_neg (by simp [hi])]

theorem onPort_other {f : Ctx → State → State} (hi : (s.ctx u k).inst ≠ acc) (hf : (s.ctx u k).st ≠ .free) :
    onPort u k acc f s = logEvent 0x0404 (0x30 + u) acc k none s := by
  unfold onPort
  dsimp only
  rw [if_neg (by simp [hf, hu, hk]), if_pos hi]

end

/-- Settles O45. -/
theorem registerWrites : Obligations.RegisterWrites := by
  unfold Obligations.RegisterWrites
  refine ⟨?_, ?_, ?_, ?_, ?_, ?_, fun fn port w s hrec haw hb => mbxGo_busy hrec haw hb, ?_, ?_,
    fun fn port w s hrec haw hb hbt hg hqu hq hm => mbxGo_unknown hrec haw hbt hg hqu hb hq hm, ?_, ?_, ?_⟩
  · intro fn port off d s hb
    by_cases h : s.pads.inReset ∨ 255 < fn ∨ 1 < port ∨ d.isEmpty ∨ 2 ^ 26 ≤ off
    · exact ⟨s, show execRegisterWrite (.bar0 fn port off) d s = _ from if_pos h, .inl rfl⟩
    · refine ⟨vfSeen fn s, show execRegisterWrite (.bar0 fn port off) d s = _ from (if_neg h).trans (if_pos ?_), .inr rfl⟩
      rw [barReserved_vfSeen, hb]
  · intro fn port off d s hr hf hp hd ho hb ha
    show execRegisterWrite (.bar0 fn port off) d s = _
    rw [registerWrite_bar hr hf hp hd ho, if_neg (by simp [hb]), if_pos (by simp [ha])]
  · intro fn port w s hr hf hp hb
    refine (show execRegisterWrite (.bar0 fn port 0x00C) _ s = _ from
      registerWrite_done hr hf hp (leBytes_ne_nil w) (by decide) hb (by rw [leBytes_length]; decide)).trans ?_
    rw [writeBar_haw _ _ _ _ _ (by decide)]
    unfold writeHaw
    simp only [if_true, vfSeen_getHaw]
  · intro fn port w s hr hf hp hb
    refine (show execRegisterWrite (.bar0 fn port 0x058) _ s = _ from
      registerWrite_done hr hf hp (leBytes_ne_nil w) (by decide) hb (by rw [leBytes_length]; decide)).trans ?_
    rw [writeBar_haw _ _ _ _ _ (by decide)]
    unfold writeHaw
    rw [if_neg (by decide), if_pos rfl, vfSeen_getHaw]
  · intro fn port k d s hr hf hp hd hk ha
    refine (show execRegisterWrite (.bar0 fn port (0x1000 + k)) d s = _ from
      registerWrite_done hr hf hp hd (by omega) (mailbox_unreserved s fn _ (by omega) (by omega)) ?_).trans ?_
    · unfold writeAdmitted
      rw [if_pos (by omega), ha]
    · unfold writeBar writeMbx
      rw [if_pos (by omega), if_pos (by omega), Nat.add_sub_cancel_left]
      unfold State.modMbx
      rw [vfSeen_getMbx]
  · intro fn port w s hr hf hp hgo
    refine (show execRegisterWrite (.bar0 fn port 0x1048) _ s = _ from registerWrite_done hr hf hp (leBytes_ne_nil w) (by decide)
      (mailbox_unreserved s fn _ (by decide) (by decide)) (by rw [leBytes_length]; decide)).trans ?_
    unfold writeBar writeMbx
    rw [if_pos (by decide), if_neg (by decide), words_one]
    simp only [forEach, hgo]
    rfl
  · intro fn port w s hrec haw hb hq hi
    rw [mbxGo_repeats hrec haw hb hq hi, State.setMbx_same]
    exact ⟨rfl, rfl, rfl, rfl⟩
  · intro fn port w s hrec haw hb hq hm
    rw [mbxGo_known hrec haw hb hq (by rw [hm]; decide) (by rw [hm]; decide), State.setMbx_same]
    exact ⟨rfl, hm, rfl, rfl, rfl, rfl⟩
  · intro u k acc off d s hu hk hi hst hlo hhi
    show Host.Outcome.next (ctxPortWrite u k acc off d s) = _
    unfold ctxPortWrite
    dsimp only
    rw [onPort_own hu hk hi (by obtain h | h := hst <;> simp [h])]
    have hset : (decide (8 ≤ off ∧ off + d.length ≤ 0x10) || decide (0x40 ≤ off ∧ off + d.length ≤ 0x80) ||
        decide (0x100 ≤ off ∧ off + d.length ≤ 0x1C0)) = true := by simp [hlo, hhi]
    rw [hset]
    obtain h | h := hst <;> simp [h]
  · intro u k acc off d s hu hk hi hst
    show Host.Outcome.next (ctxPortWrite u k acc off d s) = _
    unfold ctxPortWrite
    dsimp only
    rw [onPort_own hu hk hi (by simp [hst])]
    simp [hst]
  · intro u k acc off d s hu hk hf hi
    show Host.Outcome.next (ctxPortWrite u k acc off d s) = _
    unfold ctxPortWrite
    rw [onPort_other hu hk hi hf]

end Sys2Proof.Machine
end

section
/-!
PROOFS. The module resets, power-up and the boot chain (O44).
-/

namespace Sys2Proof.Machine

/-- What the end of a trigger does: pads and HBAR0_OUT_N only. -/
theorem settleReset_eq (s : State) : ∃ b, settleReset s =
    { s with pads := { s.pads with inReset := resetHeld s.pads, bootDue := true, booted := false }, lnk := { s.lnk with hbar0Out := b } } := by
  unfold settleReset
  dsimp only
  split
  · exact ⟨s.lnk.hbar0Out, rfl⟩
  · exact ⟨s.lnk.hbar0In, rfl⟩

theorem resets_records {cause : Nat} {s : State} (hp : s.pads.porHeld = false) (hi : s.pads.inReset = false)
    (hl : s.pads.lastCause = none) : ∃ b, moduleReset cause s =
      { clearModule (logEvent 0x0802 0x00 0 cause none s) with
        pads := { s.pads with lastCause := some (s.time, cause), inReset := resetHeld s.pads, bootDue := true, booted := false },
        lnk := { resetLnk s.pads.roleSel s.lnk with hbar0Out := b } } := by
  rw [moduleReset_first cause hp hi hl]
  dsimp only
  obtain ⟨b, e⟩ := settleReset_eq (clearModule { logEvent 0x0802 0x00 0 cause none s with
    pads := { (logEvent 0x0802 0x00 0 cause none s).pads with
      lastCause := some ((logEvent 0x0802 0x00 0 cause none s).time, cause) } })
  exact ⟨b, e⟩

/-! ## VIN (R515, R582) -/

theorem forBelow_sagLim (n : Nat) (s : State) :
    ∃ l, forBelow (fun d s => { s with pwr := { s.pwr with sagLim := s.pwr.sagLim.set 24 d 12 } }) n s =
      { s with pwr := { s.pwr with sagLim := l } } ∧ ∀ d, d < n → l.get 24 d = 12 := by
  induction n with
  | zero => exact ⟨s.pwr.sagLim, rfl, nofun⟩
  | succ n ih =>
    obtain ⟨l, e, hl⟩ := ih
    refine ⟨l.set 24 n 12, by rw [forBelow, e], fun d hd => ?_⟩
    obtain rfl | hne := eq_or_ne d n
    · exact Tbl.get_set_same ..
    · rw [Tbl.get_set_ne _ _ _ hne]
      exact hl d (by omega)

theorem reducedMode_eq (low : Bool) (s : State) : ∃ l, reducedMode low s =
    { s with pwr := { s.pwr with reduced := low, sagLim := l } } ∧ (low = true → ∀ d, d < 4 → l.get 24 d = 12) := by
  unfold reducedMode
  dsimp only
  split
  · obtain ⟨l, e, hl⟩ := forBelow_sagLim 4 { s with pwr := { s.pwr with reduced := low } }
    exact ⟨l, e, fun _ => hl⟩
  · next h => exact ⟨s.pwr.sagLim, rfl, fun h' => absurd h' h⟩

/-! ## The boot chain (R534 to R536) -/

/-- Only mailboxes, their responses and what goes to the host differ. -/
def AnswersOnly (s t : State) : Prop :=
  ∃ m n b o w x, t = { s with mp := { s.mp with outSeq := n, gate := m }, mbx := b, out := { s.out with host := o }, lnk := { s.lnk with hp := w, msixPend := x } }

theorem AnswersOnly.refl (s : State) : AnswersOnly s s := ⟨_, _, _, _, _, _, rfl⟩

theorem AnswersOnly.trans {s t u : State} (h : AnswersOnly s t) (h' : AnswersOnly t u) : AnswersOnly s u := by
  obtain ⟨_, _, _, _, _, _, rfl⟩ := h
  obtain ⟨_, _, _, _, _, _, rfl⟩ := h'
  exact ⟨_, _, _, _, _, _, rfl⟩

theorem AnswersOnly.forEach {α : Type} {f : α → State → State} (h : ∀ a s, AnswersOnly s (f a s)) (l : List α) (s : State) :
    AnswersOnly s (forEach f l s) := by
  induction l generalizing s with
  | nil => exact .refl s
  | cons a l ih => exact (h a s).trans (ih (f a s))

/-- A response that is held at the gate, or goes out. -/
theorem endMbx_answers (fn err detail off : Nat) (payload : List Byte) (s : State) :
    AnswersOnly s (endMbx fn err detail off payload s) := by
  obtain ha | ha := Bool.eq_false_or_eq_true s.mp.arbitrating
  · exact ⟨_, _, _, _, _, _, gateOut_closed _ _ _ ha⟩
  · obtain ⟨o, w, x, e⟩ := endMbx_eq fn err detail off payload ha
    exact ⟨s.mp.gate, _, _, o, w, x, e⟩

theorem refuseUnknown_answers (fn : Nat) (s : State) : AnswersOnly s (refuseUnknown fn s) := by
  unfold refuseUnknown
  dsimp only
  split
  · exact .refl s
  split
  · exact endMbx_answers ..
  split
  · split
    · exact endMbx_answers ..
    split
    · exact endMbx_answers ..
    · exact endMbx_answers ..
  · exact .refl s

theorem startFirmware_keeps (bank fallback : Bool) (b : List Byte) (s : State) :
    let t := startFirmware bank fallback b s
    t.pads = { s.pads with booted := true } ∧ t.sec.bank = bank ∧ t.sec.fallback = fallback ∧ t.sec.bootErr = s.sec.bootErr ∧
      t.mem.sysUp = true ∧ t.mp.runVer = fwVersion b ∧ t.pwr = s.pwr := by
  obtain ⟨m, n, x, o, w, y, h⟩ := AnswersOnly.forEach (fun e : Nat × Mbx => refuseUnknown_answers e.1) s.mbx (raiseSvn b { s with
    sec := { s.sec with bank := bank, fallback := fallback, meas := fwMeas b },
    mem := { s.mem with sysUp := true }, mp := { s.mp with runVer := fwVersion b }, pads := { s.pads with booted := true } })
  dsimp only
  rw [show startFirmware bank fallback b s = _ from h]
  exact ⟨rfl, rfl, rfl, rfl, rfl, rfl, rfl⟩

/-- The checks of a package read the lifecycle state, the security versions and the revoked keys only. -/
theorem bootCheck_congr {s t : State} (hl : t.sec.lifecycle = s.sec.lifecycle) (hv : t.sec.svn = s.sec.svn)
    (hr : t.sec.revoked = s.sec.revoked) (b : List Byte) : bootCheck t b = bootCheck s b := by
  have hd : dsbCheck t 1 = dsbCheck s 1 := by
    unfold dsbCheck
    rw [hr]
  have hp : fwPartBad t b = fwPartBad s b := by
    unfold fwPartBad
    rw [hd, hv]
  unfold bootCheck fwCheck
  rw [hp, hl, hv]

/-- The package that a bank of the boot flash holds. -/
def bankOf (s : State) (k : Bool) : List Byte := if k then s.sec.flash1 else s.sec.flash0

theorem bankOf_other (s : State) : bankOf s (!s.sec.preferred) = if s.sec.preferred then s.sec.flash0 else s.sec.flash1 := by
  cases h : s.sec.preferred <;> rfl

/-- The state in which the boot chain checks its packages. -/
def bootFrom (b : Bool) (s : State) : State :=
  { s with pads := { s.pads with bootDue := false, lastCause := none }, pwr := { s.pwr with refLoc := b } }

/-- A bank has failed its check, and the check's code is logged. -/
def bootFailed (d : Nat) (s : State) : State := logEvent 0x0604 0x02 0 (2 + 256 * d) none { s with sec := { s.sec with bootErr := BitVec.ofNat 8 d } }

/-- The preferred bank, then the other, then recovery (R535). -/
def bootChain (s : State) : Host.Outcome State Fault Refusal :=
  match bootCheck s (bankOf s s.sec.preferred) with
  | none => .next (startFirmware s.sec.preferred false (bankOf s s.sec.preferred) s)
  | some d =>
    match bootCheck (bootFailed d s) (bankOf s (!s.sec.preferred)) with
    | none => .next (startFirmware (!s.sec.preferred) true (bankOf s (!s.sec.preferred)) (bootFailed d s))
    | some e => .next (logEvent 0x0604 0x02 0 (2 + 256 * e) none
        { bootFailed d s with sec := { (bootFailed d s).sec with bootErr := BitVec.ofNat 8 e, recovery := true } })

theorem execBoot_chain {b : Bool} {s : State} (hd : s.pads.bootDue = true) (hr : s.pads.inReset = false) (hp : s.pads.porHeld = false)
    (hl : s.sec.lifecycle ≠ 3) : execBoot b s = bootChain (bootFrom b s) :=
  (if_neg (by simp [hd, hr, hp])).trans (if_neg hl)

/-- What a boot leaves, by the outcomes of its two checks. -/
theorem bootChain_does (s : State) : ∃ t, bootChain s = .next t ∧ t.pads.bootDue = s.pads.bootDue ∧ t.pwr = s.pwr ∧
    match bootCheck s (bankOf s s.sec.preferred), bootCheck s (bankOf s (!s.sec.preferred)) with
    | none, _ => t.pads.booted = true ∧ t.sec.bank = s.sec.preferred ∧ t.sec.fallback = false ∧ t.mem.sysUp = true ∧
        t.mp.runVer = fwVersion (bankOf s s.sec.preferred)
    | some d, none => t.pads.booted = true ∧ t.sec.bank = (!s.sec.preferred) ∧ t.sec.fallback = true ∧
        t.sec.bootErr = BitVec.ofNat 8 d ∧ t.mem.sysUp = true
    | some _, some e => t.pads.booted = s.pads.booted ∧ t.sec.recovery = true ∧ t.sec.bootErr = BitVec.ofNat 8 e := by
  have hf : ∀ d p, bootCheck (bootFailed d s) p = bootCheck s p := fun d p => bootCheck_congr rfl rfl rfl p
  unfold bootChain
  split
  · next h =>
    obtain ⟨h1, h2, h3, -, h5, h6, h7⟩ := startFirmware_keeps s.sec.preferred false (bankOf s s.sec.preferred) s
    refine ⟨_, rfl, by rw [h1], h7, ?_⟩
    rw [h]
    exact ⟨by rw [h1], h2, h3, h5, h6⟩
  · next d h =>
    rw [hf]
    split
    · next h' =>
      obtain ⟨h1, h2, h3, h4, h5, -, h7⟩ :=
        startFirmware_keeps (!s.sec.preferred) true (bankOf s (!s.sec.preferred)) (bootFailed d s)
      refine ⟨_, rfl, by rw [h1]; rfl, h7, ?_⟩
      rw [h, h']
      exact ⟨by rw [h1], h2, h3, h4, h5⟩
    · next e h' =>
      refine ⟨_, rfl, rfl, rfl, ?_⟩
      rw [h, h']
      exact ⟨rfl, rfl, rfl⟩

/-- Settles O44. -/
theorem resets : Obligations.Resets := by
  unfold Obligations.Resets
  refine ⟨?_, fun s => rfl, ?_, ?_, fun s => rfl, fun s => rfl, ?_, ?_, ?_, ?_, ?_, ?_, ?_, ?_, ?_⟩
  · intro cause s hp hi hl
    obtain ⟨b, e⟩ := resets_records (cause := cause) hp hi hl
    rw [e]
    exact ⟨rfl, rfl, rfl, rfl, rfl, rfl, rfl, rfl, rfl, rfl, rfl, rfl⟩
  · intro d s h1 h2
    exact (show execRailReset d s = _ from if_neg (by omega))
  · intro n s h
    exact (show execThermalTrip n s = _ from if_neg (by omega))
  · intro s h
    obtain ⟨b, e⟩ := settleReset_eq { s with pads := { s.pads with thermalHold := false } }
    refine Does.of (show execThermalHoldEnd s = _ from if_pos h) ?_
    rw [e]
    exact ⟨rfl, rfl, rfl⟩
  · intro s h
    obtain ⟨b, e⟩ := settleReset_eq { s with pads := { s.pads with perstLow := false } }
    refine Does.of (show execResetRelease true s = _ from if_pos ⟨rfl, h⟩) ?_
    rw [e]
    exact ⟨rfl, rfl, rfl⟩
  · intro s h
    obtain ⟨b, e⟩ := settleReset_eq { s with pads := { s.pads with modRstLow := false } }
    refine Does.of (show execResetRelease false s = .next (settleReset { s with pads := { s.pads with modRstLow := false } }) from
      by unfold execResetRelease; simp [h]) ?_
    rw [e]
    exact ⟨rfl, rfl, rfl⟩
  · intro s
    exact ⟨_, rfl, rfl, rfl, rfl, rfl, rfl, rfl, rfl, rfl, rfl, rfl⟩
  · intro s h
    obtain ⟨b, e⟩ := settleReset_eq { s with
      time := 0, log := { entries := [], next := 0 },
      pads := { s.pads with porHeld := false, vauxOk := true, roleSel := s.pads.rolePad, i3cAddr := s.pads.i3cPad },
      lnk := resetLnk s.pads.rolePad s.lnk }
    refine Does.of (show execPowerOnResetRelease s = _ from if_neg (by simp [h])) ?_
    rw [e]
    exact ⟨rfl, rfl, rfl, rfl, rfl, rfl⟩
  · intro v s hv hp hn
    obtain ⟨l, e, hl⟩ := reducedMode_eq (decide (v < 42000)) { s with pads := { s.pads with vinOk := true, railsOk := true } }
    obtain ⟨b, e'⟩ := settleReset_eq (reducedMode (decide (v < 42000)) { s with pads := { s.pads with vinOk := true, railsOk := true } })
    refine Does.of (show execVinApplied v s = _ from if_neg (by simp [hp, hn]; omega)) ?_
    rw [e', e]
    exact ⟨rfl, rfl, rfl, fun h d hd => hl (decide_eq_true h) d hd⟩
  · intro v s hv
    exact (show execVinApplied v s = _ from if_pos (.inl hv))
  · intro b s hd hr hp hl
    obtain ⟨t, e, h1, h2, h3⟩ := bootChain_does (bootFrom b s)
    have hc : ∀ p, bootCheck (bootFrom b s) p = bootCheck s p := fun p => bootCheck_congr rfl rfl rfl p
    rw [hc, hc, bankOf_other] at h3
    exact ⟨t, (execBoot_chain hd hr hp hl).trans e, h1, by rw [h2]; rfl, h3⟩
  · intro b s hd hr hp hl
    exact Does.of (show execBoot b s = _ from (if_neg (by simp [hd, hr, hp])).trans (if_pos hl)) ⟨rfl, rfl⟩

end Sys2Proof.Machine
end

section
/-!
PROOFS. What the end of a command's work, and the giving and ending of power grants, leave unchanged: rings, log, host messages, mailboxes,
firmware, telemetry, pads and the deadlines' timers. `Calm` is the relation.
-/

namespace Sys2Proof.Machine

/-- From s₀ to s the rings, the log, messages, mailboxes, firmware, telemetry, security, pads and time are unchanged, and so are the timers of
deadlines. -/
structure Calm (s₀ s : State) : Prop where
  ring : s.ring = s₀.ring
  time : s.time = s₀.time
  log : s.log = s₀.log
  out : s.out = s₀.out
  mp : s.mp = s₀.mp
  mbx : s.mbx = s₀.mbx
  haw : s.haw = s₀.haw
  tel : s.tel = s₀.tel
  sec : s.sec = s₀.sec
  pads : s.pads = s₀.pads
  timers : s.disp.timers.filter (·.owner.isSome) = s₀.disp.timers.filter (·.owner.isSome)
  deadlines : s.disp.deadlines = s₀.disp.deadlines

theorem Calm.refl (s : State) : Calm s s := ⟨rfl, rfl, rfl, rfl, rfl, rfl, rfl, rfl, rfl, rfl, rfl, rfl⟩

section
variable {s₀ s t : State}

/-- An update of the parts that `Calm` does not name. -/
theorem Calm.upd {pending seed fronds disp mem eng store insts pwr lnk} (h : Calm s₀ s)
    (ht : disp.timers.filter (·.owner.isSome) = s.disp.timers.filter (·.owner.isSome) := by rfl)
    (hd : disp.deadlines = s.disp.deadlines := by rfl) :
    Calm s₀ { s with pending, seed, fronds, disp, mem, eng, store, insts, pwr, lnk } :=
  { h with timers := ht.trans h.timers, deadlines := hd.trans h.deadlines }

theorem Calm.ite {c : Prop} [Decidable c] (h : Calm s₀ s) (k : Calm s₀ t) : Calm s₀ (if c then s else t) := by
  split
  · exact h
  · exact k

theorem Calm.forEach {β : Type} {f : β → State → State} {l : List β} (h : Calm s₀ s)
    (hf : ∀ b t, Calm s₀ t → Calm s₀ (f b t)) : Calm s₀ (Machine.forEach f l s) :=
  forEach_keeps (fun b _ t => hf b t) h

theorem Calm.forBelow {f : Nat → State → State} {n : Nat} (h : Calm s₀ s) (hf : ∀ b t, Calm s₀ t → Calm s₀ (f b t)) :
    Calm s₀ (Machine.forBelow f n s) := by
  induction n with
  | zero => exact h
  | succ n ih => exact hf _ _ ih

/-- The state of a result. -/
theorem Calm.of_snd {α : Type} {p : α × State} {a : α} (h : Calm s₀ p.2) (e : p = (a, t)) : Calm s₀ t := by
  rw [e] at h; exact h

end

end Sys2Proof.Machine
end

section
namespace Sys2Proof.Machine

section
-- Each of these short lemmas would else wait in a thread of its own.
set_option Elab.async false
variable {s₀ s t : State}

theorem Calm.setFrond {f : Nat} {x : Frond} (h : Calm s₀ s) : Calm s₀ (s.setFrond f x) := h.upd

theorem Calm.setInst {i : Nat} {x : Inst} (h : Calm s₀ s) : Calm s₀ (s.setInst i x) := h.upd

theorem Calm.setChan {c : Nat} {x : Chan} (h : Calm s₀ s) : Calm s₀ (s.setChan c x) := h.upd

theorem Calm.setCmu {u : Nat} {x : CmuUnit} (h : Calm s₀ s) : Calm s₀ (s.setCmu u x) := h.upd

theorem Calm.setSmu {u : Nat} {x : SmuUnit} (h : Calm s₀ s) : Calm s₀ (s.setSmu u x) := h.upd

theorem Calm.setDgu {u : Nat} {x : DguUnit} (h : Calm s₀ s) : Calm s₀ (s.setDgu u x) := h.upd

theorem Calm.setLink {l : Nat} {x : Link} (h : Calm s₀ s) : Calm s₀ (s.setLink l x) := h.upd

theorem Calm.setHostPort {p : Nat} {x : HostPort} (h : Calm s₀ s) : Calm s₀ (s.setHostPort p x) := h.upd

theorem Calm.freshNat (h : Calm s₀ s) : Calm s₀ s.freshNat.2 := h.upd

theorem Calm.freshWord (h : Calm s₀ s) : Calm s₀ s.freshWord.2 := h.upd

theorem Calm.freshBytes {a : Nat} (h : Calm s₀ s) : Calm s₀ (freshBytes a s).2 := by
  induction a generalizing s with
  | zero =>
    unfold Machine.freshBytes
    dsimp only
    exact h
  | succ n ih =>
    unfold Machine.freshBytes
    dsimp only
    exact ih h.freshNat

theorem Calm.choose {α : Type} {l : List α} (h : Calm s₀ s) : Calm s₀ (s.choose l).2 := by
  unfold Machine.State.choose
  split
  · dsimp only
    exact h
  · dsimp only
    exact h
  · dsimp only
    exact h.upd

theorem Calm.addCounter {i k n : Nat} (h : Calm s₀ s) : Calm s₀ (addCounter i k n s) := .ite h h.setInst

theorem Calm.setFrame {f : Nat} {x : Frame} (h : Calm s₀ s) : Calm s₀ (s.setFrame f x) := h.upd

theorem Calm.writePoison {k : Nat} (h : Calm s₀ s) : Calm s₀ (writePoison k s) := h.upd

theorem Calm.putLeaf {b p : Nat} {e : W32} (h : Calm s₀ s) : Calm s₀ (putLeaf b p e s) := h.upd

theorem Calm.setLeaf {i p : Nat} {e : W32} (h : Calm s₀ s) : Calm s₀ (setLeaf i p e s) := by
  unfold Machine.setLeaf
  split
  · exact h.putLeaf
  · split
    · exact h
    · exact h.upd.putLeaf

theorem Calm.dropLeafTables {i : Nat} (h : Calm s₀ s) : Calm s₀ (dropLeafTables i s) := h.upd

theorem Calm.leaveQuota {f : Nat} (h : Calm s₀ s) : Calm s₀ (leaveQuota f s) := by
  unfold Machine.leaveQuota
  split
  · exact h
  · exact h.setInst.setFrame

theorem Calm.takeFrame {i f : Nat} {recolour : Bool} (h : Calm s₀ s) : Calm s₀ (takeFrame i f recolour s) :=
  h.setFrame.upd.setInst

theorem Calm.giveFrame {w : AllocWait} {f : Nat} {recolour : Bool} (h : Calm s₀ s) : Calm s₀ (giveFrame w f recolour s) :=
  .ite (.upd (.ite h.takeFrame h.takeFrame.upd)) (.setLeaf (.ite h.takeFrame h.takeFrame.upd))

theorem Calm.allocPage {w : AllocWait} (h : Calm s₀ s) : Calm s₀ (allocPage w s).2 := by
  unfold Machine.allocPage
  split
  · dsimp only
    exact h
  · split
    · dsimp only
      exact h.giveFrame
    · split
      · dsimp only
        exact h.upd
      · dsimp only
        exact h

theorem Calm.setAsks {f n : Nat} (h : Calm s₀ s) : Calm s₀ (setAsks f n s) := h.upd

theorem Calm.onGrant {g : Grant} (h : Calm s₀ s) : Calm s₀ (onGrant g s) := by
  unfold Machine.onGrant
  split
  · exact h.upd
  · dsimp only
    split
    · exact .ite h.upd h.upd
    · exact .ite (.ite h.upd h.upd) (.setFrame (.ite h.upd h.upd))
  · exact h.setSmu
  · exact h.setCmu
  · exact .ite h.setLink h
  · exact h

theorem Calm.setWaitTimer {id : Nat} (h : Calm s₀ s) : Calm s₀ (setWaitTimer id s) := by
  unfold Machine.setWaitTimer
  dsimp only
  exact .ite h (h.upd (ht := by simp [List.filter_append]))

theorem Calm.dropWaitTimer {id : Nat} (h : Calm s₀ s) : Calm s₀ (dropWaitTimer id s) := by
  refine h.upd (ht := ?_)
  rw [List.filter_filter]
  exact List.filter_congr fun t _ => by cases t.owner <;> simp

theorem Calm.giveGrant {g : Grant} (h : Calm s₀ s) : Calm s₀ (giveGrant g s) := h.upd.dropWaitTimer.onGrant

theorem Calm.grantQueue {a : List Grant} {a1 : List (Option Nat)} (h : Calm s₀ s) : Calm s₀ (grantQueue a a1 s) := by
  induction a generalizing a1 s with
  | nil =>
    unfold Machine.grantQueue
    exact h
  | cons b l ih =>
    unfold Machine.grantQueue
    dsimp only
    exact .ite (ih h) (.ite (ih h.upd.giveGrant) (.ite (ih h) (.ite (ih h) h)))

theorem Calm.reinstate {a : List Grant} {a1 : List (Option Nat)} (h : Calm s₀ s) : Calm s₀ (reinstate a a1 s) := by
  induction a generalizing a1 s with
  | nil =>
    unfold Machine.reinstate
    exact h
  | cons b l ih =>
    unfold Machine.reinstate
    dsimp only
    exact .ite (ih h) (.ite (ih h.upd.onGrant) (.ite (ih h) h))

theorem Calm.raiseSag {d : Nat} (h : Calm s₀ s) : Calm s₀ (raiseSag d s) := .ite h h.upd

theorem Calm.examineGrants (h : Calm s₀ s) : Calm s₀ (examineGrants s) :=
  .grantQueue (.ite h (h.reinstate.forBelow (fun _ _ h1 => h1.raiseSag)))

theorem Calm.requestGrant {units us level : Nat} {inst : Option Nat} {disc : Bool} {die : Option Nat} {p : Holder} (h : Calm s₀ s)
    :
    Calm s₀ (requestGrant units us level inst disc die p s) := .ite h.upd.grantQueue.upd.setWaitTimer h.upd.grantQueue

theorem Calm.chargeGrant {g : Grant} (h : Calm s₀ s) : Calm s₀ (chargeGrant g s) := by
  unfold Machine.chargeGrant
  split
  · exact h.addCounter
  · exact h

theorem Calm.endGrant {id : Nat} (h : Calm s₀ s) : Calm s₀ (endGrant id s) := by
  unfold Machine.endGrant
  dsimp only
  have h1 : Calm s₀ (Machine.forEach Machine.chargeGrant (s.pwr.grants.filter fun g => g.id = id) s) := h.forEach fun _ _ h =>
    h.chargeGrant
  exact (h1.upd).dropWaitTimer.examineGrants

theorem Calm.endHolder {p : Holder} (h : Calm s₀ s) : Calm s₀ (endHolder p s) := h.forEach fun _ _ h1 => h1.endGrant

theorem Calm.enterSmu {u : Nat} (h : Calm s₀ s) : Calm s₀ (enterSmu u s) := .ite h h.setSmu

theorem Calm.enterDgu {u : Nat} (h : Calm s₀ s) : Calm s₀ (enterDgu u s) := .ite h h.setDgu

theorem Calm.countSmu {u i bytes jobs : Nat} (h : Calm s₀ s) : Calm s₀ (countSmu u i bytes jobs s) := h.setSmu

theorem Calm.countMerged {u : Nat} {before l : List SmuJob} (h : Calm s₀ s) : Calm s₀ (countMerged u before l s) := by
  unfold Machine.countMerged
  refine .forEach h ?_
  intro _ _ h1
  split
  · exact .ite h1 h1.countSmu
  · exact h1

theorem Calm.putTree {u : Nat} {also : List SmuJob} {y : TreeAt} (h : Calm s₀ s) : Calm s₀ (putTree u also y s) :=
  h.setSmu.countMerged

theorem Calm.advanceSmu {u : Nat} (h : Calm s₀ s) : Calm s₀ (advanceSmu u s) := .ite h h.freshNat.putTree

theorem Calm.dropJobs {slot u : Nat} (h : Calm s₀ s) : Calm s₀ (dropJobs slot u s) :=
  .ite (h.forEach (fun _ _ h1 => .ite h1.freshNat.countSmu h1)) (.setSmu (h.forEach (fun _ _ h1 => .ite h1.freshNat.countSmu h1)))

theorem Calm.idleTick (h : Calm s₀ s) : Calm s₀ (idleTick s) := h.upd

theorem Calm.wake (h : Calm s₀ s) : Calm s₀ (wake s) := .ite (.ite h.upd h.upd) (.ite h.upd h)

theorem Calm.enterPs {b : BitVec 2} (h : Calm s₀ s) : Calm s₀ (enterPs b s) := h.upd

theorem Calm.openR0 {c : Cmd} (h : Calm s₀ s) : Calm s₀ (openR0 c s).2 := by
  unfold Machine.openR0
  split
  · dsimp only
    exact h
  · exact h.freshWord

theorem Calm.dropCursors {slot : Nat} (h : Calm s₀ s) : Calm s₀ (dropCursors slot s) := h.upd

theorem Calm.setCtx {u k : Nat} {x : Ctx} (h : Calm s₀ s) : Calm s₀ (s.setCtx u k x) := h.setDgu

theorem Calm.leaveLane {u k : Nat} (h : Calm s₀ s) : Calm s₀ (leaveLane u k s) := h.setDgu

theorem Calm.failCtxCmp {u k dt : Nat} {cmp : BitVec 2} (h : Calm s₀ s) : Calm s₀ (failCtxCmp u k dt cmp s) := h.setCtx.leaveLane

theorem Calm.failCtx {u k dt : Nat} (h : Calm s₀ s) : Calm s₀ (failCtx u k dt s) := h.failCtxCmp

theorem Calm.clearCtx {u k : Nat} (h : Calm s₀ s) : Calm s₀ (clearCtx u k s) := h.failCtx.setDgu

theorem Calm.forCtxs {p : Ctx → Bool} {f : Nat → Nat → State → State} {u : Nat} (h : Calm s₀ s)
    (hf : ∀ a a1 t, Calm s₀ t → Calm s₀ (f a a1 t)) :
    Calm s₀ (forCtxs p f u s) := h.forEach (fun _ _ h1 => .ite (hf _ _ _ h1) h1)

theorem Calm.stopDigests {slot : Nat} (h : Calm s₀ s) : Calm s₀ (stopDigests slot s) :=
  h.forBelow (fun _ _ h1 => h1.forCtxs (fun _ _ _ h2 => h2.failCtx))

theorem Calm.endHolders {p : Holder → Bool} (h : Calm s₀ s) : Calm s₀ (endHolders p s) := h.forEach fun _ _ h1 => h1.endGrant

theorem Calm.stopWork {slot status : Nat} (h : Calm s₀ s) : Calm s₀ (stopWork slot status s) := by
  unfold Machine.stopWork
  dsimp only
  have h1 : Calm s₀ (Machine.forBelow (Machine.dropJobs slot) 8 (Machine.dropCursors slot s)) :=
    h.dropCursors.forBelow fun _ _ h1 => h1.dropJobs
  generalize Machine.forBelow (Machine.dropJobs slot) 8 (Machine.dropCursors slot s) = t at h1 ⊢
  refine .endHolders (.ite h1.upd (.stopDigests h1.upd))

/-! ## The outcome of a command -/

@[simp] theorem fixRecord_cmd (c : Cmd) (s : State) (k : Nat) : (fixRecord c s).cmd k = s.cmd k := rfl

/-- What `presentOutcome` does to an open command: the outcome stands, its window records are marked, and where it is not SUCCESS
the work ends. -/
theorem presentOutcome_open {slot st : Nat} {r0 : W64} {s : State} {c : Cmd} (hc : s.cmd slot = some c) (ho : c.outcome = none) :
    ∃ r, Calm (fixRecord c (s.setCmd slot (some { c with outcome := some st, r0 := r }))) (presentOutcome slot st r0 s) ∧
      (¬(st = stAborted ∧ c.opc = 0x30) → r = r0) := by
  unfold presentOutcome
  rw [hc]
  dsimp only
  rw [if_neg (by simp [ho])]
  refine ⟨if st = stAborted ∧ c.opc = 0x30 then BitVec.ofNat 64 (appliedOf slot s) else r0, ?_, fun h => if_neg h⟩
  exact .ite (.refl _) (Calm.refl _).stopWork

/-- A command whose outcome is fixed keeps it. -/
theorem presentOutcome_fixed {slot st : Nat} {r0 : W64} {s : State} {c : Cmd} (hc : s.cmd slot = some c) (ho : c.outcome.isSome = true) :
    presentOutcome slot st r0 s = s := by
  unfold presentOutcome
  rw [hc]
  exact if_pos ho

theorem presentOutcome_absent {slot st : Nat} {r0 : W64} {s : State} (hc : s.cmd slot = none) : presentOutcome slot st r0 s = s := by
  unfold presentOutcome
  rw [hc]

theorem Calm.cmd_eq {s₀ s : State} (h : Calm s₀ s) (k : Nat) : s.cmd k = s₀.cmd k := cmd_of_ring h.ring k

/-- The command of the slot after its outcome was presented. -/
theorem presentOutcome_cmd {slot st : Nat} {r0 : W64} {s : State} {c : Cmd} (hc : s.cmd slot = some c) (ho : c.outcome = none) :
    ∃ r, (presentOutcome slot st r0 s).cmd slot = some { c with outcome := some st, r0 := r } ∧
      (¬(st = stAborted ∧ c.opc = 0x30) → r = r0) := by
  obtain ⟨r, h, hr⟩ := presentOutcome_open (st := st) (r0 := r0) hc ho
  exact ⟨r, (h.cmd_eq slot).trans ((fixRecord_cmd ..).trans (State.setCmd_same ..)), hr⟩

theorem presentOutcome_outcome {slot st : Nat} {r0 : W64} {s : State} {c : Cmd} (hc : s.cmd slot = some c) (ho : c.outcome = none) :
    ((presentOutcome slot st r0 s).cmd slot).map (·.outcome) = some (some st) := by
  obtain ⟨r, h, -⟩ := presentOutcome_cmd (st := st) (r0 := r0) hc ho
  rw [h]
  rfl

/-- Another slot's command is left alone. -/
theorem presentOutcome_cmd_ne {slot st k : Nat} {r0 : W64} {s : State} (hk : k ≠ slot) : (presentOutcome slot st r0 s).cmd k = s.cmd k := by
  cases hc : s.cmd slot with
  | none => rw [presentOutcome_absent hc]
  | some c =>
    cases ho : c.outcome with
    | some x => rw [presentOutcome_fixed hc (by rw [ho]; rfl)]
    | none =>
      obtain ⟨r, h, -⟩ := presentOutcome_open (st := st) (r0 := r0) hc ho
      exact (h.cmd_eq k).trans ((fixRecord_cmd ..).trans (State.setCmd_ne _ _ _ _ hk))

/-- What an outcome leaves as it was, beside the rings. -/
structure Settled (s₀ s : State) : Prop where
  time : s.time = s₀.time
  log : s.log = s₀.log
  out : s.out = s₀.out
  mp : s.mp = s₀.mp
  mbx : s.mbx = s₀.mbx
  haw : s.haw = s₀.haw
  tel : s.tel = s₀.tel
  sec : s.sec = s₀.sec
  pads : s.pads = s₀.pads
  timers : s.disp.timers.filter (·.owner.isSome) = s₀.disp.timers.filter (·.owner.isSome)
  deadlines : s.disp.deadlines = s₀.disp.deadlines

theorem Calm.settled {s₀ s : State} (h : Calm s₀ s) : Settled s₀ s :=
  ⟨h.time, h.log, h.out, h.mp, h.mbx, h.haw, h.tel, h.sec, h.pads, h.timers, h.deadlines⟩

theorem presentOutcome_settled (slot st : Nat) (r0 : W64) (s : State) : Settled s (presentOutcome slot st r0 s) := by
  cases hc : s.cmd slot with
  | none => rw [presentOutcome_absent hc]; exact (Calm.refl s).settled
  | some c =>
    cases ho : c.outcome with
    | some x => rw [presentOutcome_fixed hc (by rw [ho]; rfl)]; exact (Calm.refl s).settled
    | none =>
      obtain ⟨r, h, -⟩ := presentOutcome_open (st := st) (r0 := r0) hc ho
      obtain ⟨h1, h2, h3, h4, h5, h6, h7, h8, h9, h10, h11⟩ := h.settled
      exact ⟨h1, h2, h3, h4, h5, h6, h7, h8, h9, h10, h11⟩

theorem failCmd_outcome {slot st : Nat} {s : State} {c : Cmd} (hc : s.cmd slot = some c) (ho : c.outcome = none) :
    ((failCmd slot st s).cmd slot).map (·.outcome) = some (some st) := by
  unfold failCmd
  rw [hc]
  dsimp only
  exact presentOutcome_outcome (((Calm.refl s).openR0.cmd_eq slot).trans hc) ho

end

end Sys2Proof.Machine
end

section
/-!
PROOFS. The service of memory channels: what scrubs, retrains and their requests leave unchanged.
-/

namespace Sys2Proof.Machine

/-- From s₀ to s every memory channel keeps its state of service, and an entry into a power state its target. -/
structure Chans (s₀ s : State) : Prop where
  st : ∀ c, (s.chan c).st = (s₀.chan c).st
  target : s.pwr.target = s₀.pwr.target
  wakeAfter : s.pwr.wakeAfter = s₀.pwr.wakeAfter

theorem Chans.refl (s : State) : Chans s s := ⟨fun _ => rfl, rfl, rfl⟩

section
variable {s₀ s t : State}

/-- An update that keeps the channels. -/
theorem Chans.upd {pending seed fronds ring disp mem eng store insts mbx haw log mp pwr tel sec lnk pads out} (h : Chans s₀ s)
    (hm : mem.chans = s.mem.chans := by rfl) (ht : pwr.target = s.pwr.target := by rfl)
    (hw : pwr.wakeAfter = s.pwr.wakeAfter := by rfl) :
    Chans s₀ { s with pending, seed, fronds, ring, disp, mem, eng, store, insts, mbx, haw, log, mp, pwr, tel, sec, lnk, pads, out } where
  st c := by
    refine Eq.trans ?_ (h.st c)
    unfold State.chan
    rw [hm]
  target := ht.trans h.target
  wakeAfter := hw.trans h.wakeAfter

theorem Chans.setChan {c : Nat} {x : Chan} (h : Chans s₀ s) (hx : x.st = (s.chan c).st := by rfl) : Chans s₀ (s.setChan c x) where
  st j := by
    obtain rfl | hj := eq_or_ne j c
    · rw [State.setChan_same, hx, h.st]
    · rw [State.setChan_ne _ _ _ _ hj, h.st]
  target := h.target
  wakeAfter := h.wakeAfter

theorem Chans.ite {c : Prop} [Decidable c] (h : Chans s₀ s) (k : Chans s₀ t) : Chans s₀ (if c then s else t) := by
  split
  · exact h
  · exact k

theorem Chans.forEach {β : Type} {f : β → State → State} {l : List β} (h : Chans s₀ s)
    (hf : ∀ b t, Chans s₀ t → Chans s₀ (f b t)) : Chans s₀ (Machine.forEach f l s) :=
  forEach_keeps (fun b _ t => hf b t) h

theorem Chans.forBelow {f : Nat → State → State} {n : Nat} (h : Chans s₀ s) (hf : ∀ b t, Chans s₀ t → Chans s₀ (f b t)) :
    Chans s₀ (Machine.forBelow f n s) := by
  induction n with
  | zero => exact h
  | succ n ih => exact hf _ _ ih

theorem Chans.foldl {β : Type} {f : State → β → State} {l : List β} (h : Chans s₀ s) (hf : ∀ b t, Chans s₀ t → Chans s₀ (f t b)) :
    Chans s₀ (l.foldl f s) := by
  induction l generalizing s with
  | nil => exact h
  | cons b l ih => exact ih (hf b s h)

theorem Chans.forEachSnd {α β : Type} {f : β → α × State → α × State} {l : List β} {p : α × State} (h : Chans s₀ p.2)
    (hf : ∀ b p, Chans s₀ p.2 → Chans s₀ (f b p).2) : Chans s₀ (Machine.forEach f l p).2 := by
  induction l generalizing p with
  | nil => exact h
  | cons b l ih => exact ih (hf b p h)

theorem Chans.foldlSnd {α β : Type} {f : α × State → β → α × State} {l : List β} {p : α × State} (h : Chans s₀ p.2)
    (hf : ∀ b p, Chans s₀ p.2 → Chans s₀ (f p b).2) : Chans s₀ (l.foldl f p).2 := by
  induction l generalizing p with
  | nil => exact h
  | cons b l ih => exact ih (hf b p h)

theorem Chans.of_snd_snd {α β : Type} {p : α × β × State} {a : α} {b : β} (h : Chans s₀ p.2.2) (e : p = (a, b, t)) : Chans s₀ t := by
  rw [e] at h; exact h

/-- The state of a result. -/
theorem Chans.of_snd {α : Type} {p : α × State} {a : α} (h : Chans s₀ p.2) (e : p = (a, t)) : Chans s₀ t := by
  rw [e] at h; exact h

end

end Sys2Proof.Machine
end

section
namespace Sys2Proof.Machine

section
-- Each of these short lemmas would else wait in a thread of its own.
set_option Elab.async false
variable {s₀ s t : State}

theorem Chans.setFrond {f : Nat} {x : Frond} (h : Chans s₀ s) : Chans s₀ (s.setFrond f x) := h.upd

theorem Chans.setInst {i : Nat} {x : Inst} (h : Chans s₀ s) : Chans s₀ (s.setInst i x) := h.upd

theorem Chans.setCmd {k : Nat} {x : Option Cmd} (h : Chans s₀ s) : Chans s₀ (s.setCmd k x) := h.upd

theorem Chans.modCmd {k : Nat} {f : Cmd → Cmd} (h : Chans s₀ s) : Chans s₀ (s.modCmd k f) := by
  unfold Machine.State.modCmd
  split
  · exact h
  · exact h.setCmd

theorem Chans.setMbx {i : Nat} {x : Mbx} (h : Chans s₀ s) : Chans s₀ (s.setMbx i x) := h.upd

theorem Chans.setHaw {i : Nat} {x : Haw} (h : Chans s₀ s) : Chans s₀ (s.setHaw i x) := h.upd

theorem Chans.setCmu {u : Nat} {x : CmuUnit} (h : Chans s₀ s) : Chans s₀ (s.setCmu u x) := h.upd

theorem Chans.setSmu {u : Nat} {x : SmuUnit} (h : Chans s₀ s) : Chans s₀ (s.setSmu u x) := h.upd

theorem Chans.setDgu {u : Nat} {x : DguUnit} (h : Chans s₀ s) : Chans s₀ (s.setDgu u x) := h.upd

theorem Chans.setLink {l : Nat} {x : Link} (h : Chans s₀ s) : Chans s₀ (s.setLink l x) := h.upd

theorem Chans.setHostPort {p : Nat} {x : HostPort} (h : Chans s₀ s) : Chans s₀ (s.setHostPort p x) := h.upd

theorem Chans.freshNat (h : Chans s₀ s) : Chans s₀ s.freshNat.2 := h.upd

theorem Chans.choose {α : Type} {l : List α} (h : Chans s₀ s) : Chans s₀ (s.choose l).2 := by
  unfold Machine.State.choose
  split
  · dsimp only
    exact h
  · dsimp only
    exact h
  · dsimp only
    exact h.upd

theorem Chans.logOne {code src inst detail : Nat} (h : Chans s₀ s) : Chans s₀ (logOne code src inst detail s) := h.upd

theorem Chans.logEvent {code src inst detail : Nat} {ext : Option Nat} (h : Chans s₀ s) :
    Chans s₀ (logEvent code src inst detail ext s) := by
  unfold Machine.logEvent
  split
  · exact h.logOne
  · exact h.logOne.logOne

theorem Chans.gateOut {o : GateOut} {release : State → State} (h : Chans s₀ s) (hf : ∀ t, Chans s₀ t → Chans s₀ (release t)) :
    Chans s₀ (gateOut o release s) := .ite h.upd.upd (hf _ h.upd)

theorem Chans.fwEvent {code inst detail : Nat} (h : Chans s₀ s) : Chans s₀ (fwEvent code inst detail s) :=
  h.gateOut fun _ h1 => h1.logEvent

theorem Chans.hostOut {port : Nat} {m : HostMsg} (h : Chans s₀ s) : Chans s₀ (hostOut port m s) :=
  .ite h.upd (.ite h h.setHostPort)

theorem Chans.hostSend {port : Nat} {m : HostMsg} (h : Chans s₀ s) : Chans s₀ (hostSend port m s) := by
  unfold Machine.hostSend
  split
  · exact .ite (.ite h h.upd) h.hostOut
  · exact h.hostOut

theorem Chans.addCounter {i k n : Nat} (h : Chans s₀ s) : Chans s₀ (addCounter i k n s) := .ite h h.setInst

theorem Chans.setFrame {f : Nat} {x : Frame} (h : Chans s₀ s) : Chans s₀ (s.setFrame f x) := h.upd

theorem Chans.colourFault {req : Option Nat} {a found : Nat} (h : Chans s₀ s) : Chans s₀ (colourFault req a found s) := by
  unfold Machine.colourFault
  exact h.upd.logEvent

theorem Chans.uncorrectable {req : Option Nat} {a : Nat} (h : Chans s₀ s) : Chans s₀ (uncorrectable req a s) := by
  have h1 : Chans s₀ (s.setChan (chanAt a) { s.chan (chanAt a) with ue := (s.chan (chanAt a)).ue + 1 }) := h.setChan
  unfold Machine.uncorrectable
  dsimp only
  generalize s.setChan _ _ = t at h1 ⊢
  refine .logEvent ?_
  split
  · exact h1.upd
  · exact h1.setFrame.upd

theorem Chans.corrected {a : Nat} (h : Chans s₀ s) : Chans s₀ (corrected a s) := by
  have h1 : Chans s₀ (s.setChan (chanAt a) { s.chan (chanAt a) with ce := (s.chan (chanAt a)).ce + 1 }) := h.setChan
  unfold Machine.corrected
  dsimp only
  generalize s.setChan _ _ = t at h1 ⊢
  exact .ite (.logEvent (.ite h1 h1.setFrame)) (.ite h1 h1.setFrame)

theorem Chans.decodeCw {k e : Nat} (h : Chans s₀ s) : Chans s₀ (decodeCw k e s) := by
  unfold Machine.decodeCw
  split
  · exact h
  · exact h.corrected
  · exact h.upd

theorem Chans.readLine {req : Option Nat} {a e0 e1 : Nat} (h : Chans s₀ s) : Chans s₀ (readLine req a e0 e1 s).2 := by
  unfold Machine.readLine
  split
  · dsimp only
    split
    · dsimp only
      exact h.colourFault
    · split
      · dsimp only
        exact h.decodeCw.decodeCw.uncorrectable
      · dsimp only
        exact h.decodeCw.decodeCw
  · dsimp only
    split
    · dsimp only
      exact h.colourFault
    · split
      · dsimp only
        exact h.decodeCw.decodeCw.uncorrectable
      · split
        · dsimp only
          exact h.decodeCw.decodeCw.colourFault
        · split
          · dsimp only
            exact h.decodeCw.decodeCw.colourFault
          · dsimp only
            exact h.decodeCw.decodeCw.addCounter

theorem Chans.writeCw {req : Option Nat} {k a : Nat} {d : List Byte} (h : Chans s₀ s) : Chans s₀ (writeCw req k a d s).2 := by
  unfold Machine.writeCw
  dsimp only
  split
  · exact h
  split
  · exact h.upd
  split
  · exact h.uncorrectable
  split
  · exact h.colourFault
  · exact h.upd

theorem Chans.writePhys {req : Option Nat} {a : Nat} {d : List Byte} (h : Chans s₀ s) : Chans s₀ (writePhys req a d s).2 := by
  unfold Machine.writePhys
  dsimp only
  split
  · dsimp only
    exact h.colourFault
  · split
    · dsimp only
      exact h.colourFault
    · exact h.forEachSnd fun _ _ h1 => h1.writeCw

theorem Chans.writePoison {k : Nat} (h : Chans s₀ s) : Chans s₀ (writePoison k s) := h.upd

theorem Chans.writeMarked {req : Option Nat} {a : Nat} {w : MemWrite} (h : Chans s₀ s) : Chans s₀ (writeMarked req a w s).2 := by
  unfold Machine.writeMarked
  dsimp only
  split
  · dsimp only
    exact h.writePhys.forEach fun _ _ h1 => h1.writePoison
  · exact h.writePhys

theorem Chans.devWriteLine {i a : Nat} {d : List Byte} (h : Chans s₀ s) : Chans s₀ (devWriteLine i a d s).2 := by
  unfold Machine.devWriteLine
  split
  · dsimp only
    exact h
  · dsimp only
    exact h.colourFault
  · split
    · rename_i he1
      dsimp only
      exact .of_snd h.writePhys he1
    · rename_i he2
      dsimp only
      exact .of_snd h.writePhys he2

theorem Chans.devWrite {i a a1 : Nat} {a2 : List Byte} (h : Chans s₀ s) : Chans s₀ (devWrite i a a1 a2 s).2 := by
  induction a generalizing i a1 a2 s with
  | zero =>
    unfold Machine.devWrite
    dsimp only
    exact h
  | succ n ih =>
    unfold Machine.devWrite
    dsimp only
    split
    · dsimp only
      exact h
    · split
      · rename_i he1
        dsimp only
        exact .of_snd h.devWriteLine he1
      · rename_i he1
        exact ih (.of_snd h.devWriteLine he1)

theorem Chans.devWriteN {i a : Nat} {d : List Byte} (h : Chans s₀ s) : Chans s₀ (devWriteN i a d s).2 := h.devWrite

theorem Chans.putLeaf {b p : Nat} {e : W32} (h : Chans s₀ s) : Chans s₀ (putLeaf b p e s) := h.upd

theorem Chans.setLeaf {i p : Nat} {e : W32} (h : Chans s₀ s) : Chans s₀ (setLeaf i p e s) := by
  unfold Machine.setLeaf
  split
  · exact h.putLeaf
  · split
    · exact h
    · exact h.upd.putLeaf

theorem Chans.dropLeafTables {i : Nat} (h : Chans s₀ s) : Chans s₀ (dropLeafTables i s) := h.upd

theorem Chans.leaveQuota {f : Nat} (h : Chans s₀ s) : Chans s₀ (leaveQuota f s) := by
  unfold Machine.leaveQuota
  split
  · exact h
  · exact h.setInst.setFrame

theorem Chans.releaseFrame {f : Nat} (h : Chans s₀ s) : Chans s₀ (releaseFrame f s) :=
  .ite h.leaveQuota.setFrame.upd.logEvent h.leaveQuota.setFrame.upd

theorem Chans.unmapPage {i p : Nat} (h : Chans s₀ s) : Chans s₀ (unmapPage i p s) := by
  unfold Machine.unmapPage
  split
  · exact h
  · exact .ite h.setLeaf (.ite h.setLeaf.leaveQuota.upd h.setLeaf.releaseFrame)

theorem Chans.wipeFrame {f : Nat} {c : BitVec 8} (h : Chans s₀ s) : Chans s₀ (wipeFrame f c s) := h.upd.setFrame

theorem Chans.takeFrame {i f : Nat} {recolour : Bool} (h : Chans s₀ s) : Chans s₀ (takeFrame i f recolour s) :=
  h.setFrame.upd.setInst

theorem Chans.giveFrame {w : AllocWait} {f : Nat} {recolour : Bool} (h : Chans s₀ s) : Chans s₀ (giveFrame w f recolour s) :=
  .ite (.upd (.ite h.takeFrame h.takeFrame.upd)) (.setLeaf (.ite h.takeFrame h.takeFrame.upd))

theorem Chans.dropWaits {p : AllocWait → Bool} (h : Chans s₀ s) : Chans s₀ (dropWaits p s) := by
  unfold Machine.dropWaits
  refine .forEach h.upd ?_
  intro _ _ h1
  split
  · exact h1.releaseFrame
  · exact h1

theorem Chans.onGrant {g : Grant} (h : Chans s₀ s) : Chans s₀ (onGrant g s) := by
  unfold Machine.onGrant
  split
  · exact h.upd
  · dsimp only
    split
    · exact .ite h.upd h.upd
    · exact .ite (.ite h.upd h.upd) (.setFrame (.ite h.upd h.upd))
  · exact h.setSmu
  · exact h.setCmu
  · exact .ite h.setLink h
  · exact h

theorem Chans.dropWaitTimer {id : Nat} (h : Chans s₀ s) : Chans s₀ (dropWaitTimer id s) := h.upd

theorem Chans.giveGrant {g : Grant} (h : Chans s₀ s) : Chans s₀ (giveGrant g s) := h.upd.dropWaitTimer.onGrant

theorem Chans.grantQueue {a : List Grant} {a1 : List (Option Nat)} (h : Chans s₀ s) : Chans s₀ (grantQueue a a1 s) := by
  induction a generalizing a1 s with
  | nil =>
    unfold Machine.grantQueue
    exact h
  | cons b l ih =>
    unfold Machine.grantQueue
    dsimp only
    exact .ite (ih h) (.ite (ih h.upd.giveGrant) (.ite (ih h) (.ite (ih h) h)))

theorem Chans.reinstate {a : List Grant} {a1 : List (Option Nat)} (h : Chans s₀ s) : Chans s₀ (reinstate a a1 s) := by
  induction a generalizing a1 s with
  | nil =>
    unfold Machine.reinstate
    exact h
  | cons b l ih =>
    unfold Machine.reinstate
    dsimp only
    exact .ite (ih h) (.ite (ih h.upd.onGrant) (.ite (ih h) h))

theorem Chans.raiseSag {d : Nat} (h : Chans s₀ s) : Chans s₀ (raiseSag d s) := .ite h h.upd

theorem Chans.examineGrants (h : Chans s₀ s) : Chans s₀ (examineGrants s) :=
  .grantQueue (.ite h (h.reinstate.forBelow (fun _ _ h1 => h1.raiseSag)))

theorem Chans.chargeGrant {g : Grant} (h : Chans s₀ s) : Chans s₀ (chargeGrant g s) := by
  unfold Machine.chargeGrant
  split
  · exact h.addCounter
  · exact h

theorem Chans.endGrant {id : Nat} (h : Chans s₀ s) : Chans s₀ (endGrant id s) := by
  unfold Machine.endGrant
  dsimp only
  have h1 : Chans s₀ (Machine.forEach Machine.chargeGrant (s.pwr.grants.filter fun g => g.id = id) s) := h.forEach fun _ _ h =>
    h.chargeGrant
  exact (h1.upd).dropWaitTimer.examineGrants

theorem Chans.endHolder {p : Holder} (h : Chans s₀ s) : Chans s₀ (endHolder p s) := h.forEach fun _ _ h1 => h1.endGrant

theorem Chans.countSmu {u i bytes jobs : Nat} (h : Chans s₀ s) : Chans s₀ (countSmu u i bytes jobs s) := h.setSmu

theorem Chans.dropJobs {slot u : Nat} (h : Chans s₀ s) : Chans s₀ (dropJobs slot u s) :=
  .ite (h.forEach (fun _ _ h1 => .ite h1.freshNat.countSmu h1)) (.setSmu (h.forEach (fun _ _ h1 => .ite h1.freshNat.countSmu h1)))

theorem Chans.dropCursors {slot : Nat} (h : Chans s₀ s) : Chans s₀ (dropCursors slot s) := h.upd

theorem Chans.setCtx {u k : Nat} {x : Ctx} (h : Chans s₀ s) : Chans s₀ (s.setCtx u k x) := h.setDgu

theorem Chans.leaveLane {u k : Nat} (h : Chans s₀ s) : Chans s₀ (leaveLane u k s) := h.setDgu

theorem Chans.failCtxCmp {u k dt : Nat} {cmp : BitVec 2} (h : Chans s₀ s) : Chans s₀ (failCtxCmp u k dt cmp s) :=
  h.setCtx.leaveLane

theorem Chans.failCtx {u k dt : Nat} (h : Chans s₀ s) : Chans s₀ (failCtx u k dt s) := h.failCtxCmp

theorem Chans.forCtxs {p : Ctx → Bool} {f : Nat → Nat → State → State} {u : Nat} (h : Chans s₀ s)
    (hf : ∀ a a1 t, Chans s₀ t → Chans s₀ (f a a1 t)) :
    Chans s₀ (forCtxs p f u s) := h.forEach (fun _ _ h1 => .ite (hf _ _ _ h1) h1)

theorem Chans.stopDigests {slot : Nat} (h : Chans s₀ s) : Chans s₀ (stopDigests slot s) :=
  h.forBelow (fun _ _ h1 => h1.forCtxs (fun _ _ _ h2 => h2.failCtx))

theorem Chans.endHolders {p : Holder → Bool} (h : Chans s₀ s) : Chans s₀ (endHolders p s) := h.forEach fun _ _ h1 => h1.endGrant

theorem Chans.stopWork {slot status : Nat} (h : Chans s₀ s) : Chans s₀ (stopWork slot status s) := by
  unfold Machine.stopWork
  dsimp only
  have h1 : Chans s₀ (Machine.forBelow (Machine.dropJobs slot) 8 (Machine.dropCursors slot s)) := h.dropCursors.forBelow
    fun _ _ h1 => h1.dropJobs
  generalize Machine.forBelow (Machine.dropJobs slot) 8 (Machine.dropCursors slot s) = t at h1 ⊢
  exact .endHolders (.ite h1.upd (.stopDigests h1.upd))

theorem Chans.recordFailure {slot st : Nat} {r0 : W64} (h : Chans s₀ s) : Chans s₀ (recordFailure slot st r0 s) := by
  unfold Machine.recordFailure
  split
  · exact h
  · exact .ite h h.setCmd.stopWork

theorem Chans.dropImages {i : Nat} {p : PlanEnt} (h : Chans s₀ s) : Chans s₀ (dropImages i p s) :=
  h.forBelow fun _ _ h1 => h1.setCmu

theorem Chans.reapPlans {i : Nat} (h : Chans s₀ s) : Chans s₀ (reapPlans i s) :=
  h.setInst.forEach (fun _ _ h1 => .dropImages (h1.forEach (fun _ _ h2 => h2.unmapPage)))

theorem Chans.unbindPlan {i id : Nat} (h : Chans s₀ s) : Chans s₀ (unbindPlan i id s) := h.setInst

theorem Chans.failOp {f st : Nat} (h : Chans s₀ s) : Chans s₀ (failOp f st s).2 := by
  unfold Machine.failOp
  split
  · dsimp only
    exact h
  · split
    · dsimp only
      exact h
    · exact h.choose

theorem Chans.failItem {f st : Nat} (h : Chans s₀ s) : Chans s₀ (failItem f st s) := by
  unfold Machine.failItem
  split
  · exact h
  · exact h.failOp.recordFailure

theorem Chans.pumpGo {l : Nat} {fs : List Flit} {blocked : List Nat} (h : Chans s₀ s) : Chans s₀ (pumpGo l fs blocked s) := by
  induction fs generalizing blocked s with
  | nil => exact h
  | cons b fs ih =>
    unfold Machine.pumpGo
    dsimp only
    exact .ite h (.ite (ih h) (ih h.setLink.upd))

theorem Chans.pump {l : Nat} (h : Chans s₀ s) : Chans s₀ (pump l s) := h.pumpGo

theorem Chans.linkBytes {vc : Nat} {own : Option (Nat × Nat)} {f : RFrame} {b : List Byte} (h : Chans s₀ s) :
    Chans s₀ (linkBytes vc own f b s) := .ite h h.setLink.upd.pump

theorem Chans.linkFrame {level : Nat} {f : RFrame} (h : Chans s₀ s) : Chans s₀ (linkFrame level f s) := h.linkBytes

theorem Chans.sendFrame {ft hops : Nat} {route : W32} {inst : Nat} {xid : W64} {level : Nat} {payload : List Byte}
    (h : Chans s₀ s) :
    Chans s₀ (sendFrame ft hops route inst xid level payload s) := .linkFrame (.ite h.upd h.upd.upd)

theorem Chans.respond {fn err detail off : Nat} {payload : List Byte} (h : Chans s₀ s) :
    Chans s₀ (respond fn err detail off payload s) := .ite h.setMbx.hostSend h.setMbx

theorem Chans.endMbx {fn err detail off : Nat} {payload : List Byte} (h : Chans s₀ s) :
    Chans s₀ (endMbx fn err detail off payload s) := h.gateOut fun _ h1 => h1.respond

theorem Chans.mbxErr {fn err : Nat} (h : Chans s₀ s) : Chans s₀ (mbxErr fn err s) := h.endMbx

theorem Chans.dropPages {i : Nat} {ps : List Nat} (h : Chans s₀ s) : Chans s₀ (dropPages i ps s) :=
  h.dropWaits.forEach fun _ _ h1 => h1.unmapPage

theorem Chans.planToWorkers {i : Nat} {ps : List (List Byte)} (h : Chans s₀ s) : Chans s₀ (planToWorkers i ps s) :=
  h.forEach (fun _ _ h1 => h1.forEach (fun _ _ h2 => h2.sendFrame))

theorem Chans.dropDist {key : Nat} (h : Chans s₀ s) : Chans s₀ (dropDist key s) := h.upd

theorem Chans.bindImages {i : Nat} {e : PlanEnt} {n : Nat} (h : Chans s₀ s) : Chans s₀ (bindImages i e n s) :=
  h.forBelow fun _ _ h1 => h1.setCmu

theorem Chans.planReady {i id : Nat} (h : Chans s₀ s) : Chans s₀ (planReady i id s) := by
  unfold Machine.planReady
  split
  · exact h
  · exact .reapPlans (.setInst (.bindImages (.unbindPlan (h.forEach (fun _ _ h1 => h1.devWriteN)))))

theorem Chans.dropLoading {i id : Nat} (h : Chans s₀ s) : Chans s₀ (dropLoading i id s) := by
  unfold Machine.dropLoading
  split
  · exact h
  · exact h.dropPages.setInst.dropImages

theorem Chans.endPlan {key i id err detail off : Nat} {payload : List Byte} (h : Chans s₀ s) :
    Chans s₀ (endPlan key i id err detail off payload s) := .ite h.endMbx h.sendFrame

theorem Chans.failPlan {key i id err detail off : Nat} (h : Chans s₀ s) : Chans s₀ (failPlan key i id err detail off s) :=
  h.dropDist.dropLoading.endPlan

theorem Chans.finishPlan {key i id : Nat} {load : Bool} (h : Chans s₀ s) : Chans s₀ (finishPlan key i id load s) := by
  unfold Machine.finishPlan
  refine .ite h ?_
  split
  · split
    · exact h.endPlan
    · refine .ite h ?_
      split
      · exact h.dropDist.endPlan
      · exact h.unbindPlan.reapPlans.planToWorkers.failPlan
  · split
    · exact h.endPlan
    · refine .ite h ?_
      split
      · exact h.dropDist.endPlan
      · exact h.failPlan

theorem Chans.endWithRec {fn : Nat} (h : Chans s₀ s) : Chans s₀ (endWithRec fn s) := h.endMbx

theorem Chans.unmapAll {i : Nat} (h : Chans s₀ s) : Chans s₀ (unmapAll i s) :=
  .dropLeafTables (h.dropWaits.forEach (fun _ _ h1 => h1.unmapPage))

theorem Chans.freeLists {i : Nat} (h : Chans s₀ s) : Chans s₀ (freeLists i s) := h.upd

theorem Chans.renewSets (h : Chans s₀ s) : Chans s₀ (renewSets s) := .ite h.upd h

theorem Chans.createDone {fn : Nat} (h : Chans s₀ s) : Chans s₀ (createDone fn s) := h.setInst.renewSets.fwEvent.endWithRec

theorem Chans.undoCreate {i : Nat} (h : Chans s₀ s) : Chans s₀ (undoCreate i s) := h.unmapAll.freeLists.setInst

theorem Chans.finishResize {fn i : Nat} (h : Chans s₀ s) : Chans s₀ (finishResize fn i s) := h.setInst.endWithRec

theorem Chans.undoGrow {i : Nat} (h : Chans s₀ s) : Chans s₀ (undoGrow i s) := by
  unfold Machine.undoGrow
  dsimp only
  split
  · exact h
  · exact h.dropPages.setInst

theorem Chans.mbxPagesDone {fn : Nat} (h : Chans s₀ s) : Chans s₀ (mbxPagesDone fn s) :=
  .ite h (.ite h (.ite h.createDone (.ite (.ite h h.finishResize) h.planReady.finishPlan)))

theorem Chans.runtimeEret {f : Nat} (h : Chans s₀ s) : Chans s₀ (runtimeEret f s) := h.setFrond

theorem Chans.allocDone {w : AllocWait} (h : Chans s₀ s) : Chans s₀ (allocDone w s) := by
  unfold Machine.allocDone
  split
  · split
    · exact h
    · exact .ite h.modCmd.runtimeEret h
  · exact h.mbxPagesDone
  · exact h

theorem Chans.allocFailed {w : AllocWait} (h : Chans s₀ s) : Chans s₀ (allocFailed w s) := by
  unfold Machine.allocFailed
  split
  · exact h.failItem
  · exact .ite h.undoCreate.mbxErr (.ite h.undoGrow.mbxErr (.failPlan (.ite h h.planToWorkers)))
  · exact h

theorem Chans.retryAlloc {w : AllocWait} (h : Chans s₀ s) : Chans s₀ (retryAlloc w s) := by
  unfold Machine.retryAlloc
  refine .ite h ?_
  refine .ite h.upd.allocFailed ?_
  split
  · exact .ite h.upd.giveFrame h.upd.giveFrame.allocDone
  · exact .ite h h.upd.allocFailed

theorem Chans.retryAllocs (h : Chans s₀ s) : Chans s₀ (retryAllocs s) := h.forEach fun _ _ h1 => h1.retryAlloc

theorem Chans.serveMem {r : MemReq} (h : Chans s₀ s) : Chans s₀ (serveMem r s).2 := by
  unfold Machine.serveMem
  split
  · exact h.readLine
  · exact h.writeMarked

theorem Chans.resumeChan {c : Nat} (h : Chans s₀ s) : Chans s₀ (resumeChan c s) := h.upd.forEach fun _ _ h1 => h1.serveMem.upd

theorem Chans.nextScrub (h : Chans s₀ s) : Chans s₀ (nextScrub s) := by
  unfold Machine.nextScrub
  split
  · exact h.endHolder
  · exact .ite h h.setFrame

theorem Chans.scrubDone {frame : Nat} (h : Chans s₀ s) : Chans s₀ (scrubDone frame s) :=
  .ite h h.wipeFrame.setFrame.upd.nextScrub.retryAllocs

end

end Sys2Proof.Machine
end

section
/-!
PROOFS. Reads and writes of device memory: what they leave unchanged.
-/

namespace Sys2Proof.Machine

/-- From s₀ to s only device memory, the log, the counters of instances and messages out differ. -/
structure MemOnly (s₀ s : State) : Prop where
  pending : s.pending = s₀.pending
  seed : s.seed = s₀.seed
  time : s.time = s₀.time
  fronds : s.fronds = s₀.fronds
  ring : s.ring = s₀.ring
  disp : s.disp = s₀.disp
  eng : s.eng = s₀.eng
  store : s.store = s₀.store
  mbx : s.mbx = s₀.mbx
  haw : s.haw = s₀.haw
  mp : s.mp = s₀.mp
  pwr : s.pwr = s₀.pwr
  tel : s.tel = s₀.tel
  sec : s.sec = s₀.sec
  lnk : s.lnk = s₀.lnk
  pads : s.pads = s₀.pads

theorem MemOnly.refl (s : State) : MemOnly s s := ⟨rfl, rfl, rfl, rfl, rfl, rfl, rfl, rfl, rfl, rfl, rfl, rfl, rfl, rfl, rfl, rfl⟩

section
variable {s₀ s t : State}

/-- An update of the parts that `MemOnly` does not name. -/
theorem MemOnly.upd {mem insts log out} (h : MemOnly s₀ s) : MemOnly s₀ { s with mem, insts, log, out } := { h with }

theorem MemOnly.ite {c : Prop} [Decidable c] (h : MemOnly s₀ s) (k : MemOnly s₀ t) : MemOnly s₀ (if c then s else t) := by
  split
  · exact h
  · exact k

theorem MemOnly.forEach {β : Type} {f : β → State → State} {l : List β} (h : MemOnly s₀ s)
    (hf : ∀ b t, MemOnly s₀ t → MemOnly s₀ (f b t)) : MemOnly s₀ (Machine.forEach f l s) :=
  forEach_keeps (fun b _ t => hf b t) h

theorem MemOnly.forBelow {f : Nat → State → State} {n : Nat} (h : MemOnly s₀ s) (hf : ∀ b t, MemOnly s₀ t → MemOnly s₀ (f b t)) :
    MemOnly s₀ (Machine.forBelow f n s) := by
  induction n with
  | zero => exact h
  | succ n ih => exact hf _ _ ih

theorem MemOnly.foldl {β : Type} {f : State → β → State} {l : List β} (h : MemOnly s₀ s) (hf : ∀ b t, MemOnly s₀ t → MemOnly s₀ (f t b)) :
    MemOnly s₀ (l.foldl f s) := by
  induction l generalizing s with
  | nil => exact h
  | cons b l ih => exact ih (hf b s h)

theorem MemOnly.forEachSnd {α β : Type} {f : β → α × State → α × State} {l : List β} {p : α × State} (h : MemOnly s₀ p.2)
    (hf : ∀ b p, MemOnly s₀ p.2 → MemOnly s₀ (f b p).2) : MemOnly s₀ (Machine.forEach f l p).2 := by
  induction l generalizing p with
  | nil => exact h
  | cons b l ih => exact ih (hf b p h)

theorem MemOnly.foldlSnd {α β : Type} {f : α × State → β → α × State} {l : List β} {p : α × State} (h : MemOnly s₀ p.2)
    (hf : ∀ b p, MemOnly s₀ p.2 → MemOnly s₀ (f p b).2) : MemOnly s₀ (l.foldl f p).2 := by
  induction l generalizing p with
  | nil => exact h
  | cons b l ih => exact ih (hf b p h)

theorem MemOnly.of_snd_snd {α β : Type} {p : α × β × State} {a : α} {b : β} (h : MemOnly s₀ p.2.2) (e : p = (a, b, t)) : MemOnly s₀ t := by
  rw [e] at h; exact h

/-- The state of a result. -/
theorem MemOnly.of_snd {α : Type} {p : α × State} {a : α} (h : MemOnly s₀ p.2) (e : p = (a, t)) : MemOnly s₀ t := by
  rw [e] at h; exact h

end

end Sys2Proof.Machine
end

section
namespace Sys2Proof.Machine

section
-- Each of these short lemmas would else wait in a thread of its own.
set_option Elab.async false
variable {s₀ s t : State}

theorem MemOnly.setInst {i : Nat} {x : Inst} (h : MemOnly s₀ s) : MemOnly s₀ (s.setInst i x) := h.upd

theorem MemOnly.setChan {c : Nat} {x : Chan} (h : MemOnly s₀ s) : MemOnly s₀ (s.setChan c x) := h.upd

theorem MemOnly.logOne {code src inst detail : Nat} (h : MemOnly s₀ s) : MemOnly s₀ (logOne code src inst detail s) := h.upd

theorem MemOnly.logEvent {code src inst detail : Nat} {ext : Option Nat} (h : MemOnly s₀ s) :
    MemOnly s₀ (logEvent code src inst detail ext s) := by
  unfold Machine.logEvent
  split
  · exact h.logOne
  · exact h.logOne.logOne

theorem MemOnly.addCounter {i k n : Nat} (h : MemOnly s₀ s) : MemOnly s₀ (addCounter i k n s) := .ite h h.setInst

theorem MemOnly.setFrame {f : Nat} {x : Frame} (h : MemOnly s₀ s) : MemOnly s₀ (s.setFrame f x) := h.upd

theorem MemOnly.colourFault {req : Option Nat} {a found : Nat} (h : MemOnly s₀ s) : MemOnly s₀ (colourFault req a found s) := by
  unfold Machine.colourFault
  exact h.upd.logEvent

theorem MemOnly.uncorrectable {req : Option Nat} {a : Nat} (h : MemOnly s₀ s) : MemOnly s₀ (uncorrectable req a s) := by
  have h1 : MemOnly s₀ (s.setChan (chanAt a) { s.chan (chanAt a) with ue := (s.chan (chanAt a)).ue + 1 }) := h.setChan
  unfold Machine.uncorrectable
  dsimp only
  generalize s.setChan _ _ = t at h1 ⊢
  refine .logEvent ?_
  split
  · exact h1.upd
  · exact h1.setFrame.upd

theorem MemOnly.corrected {a : Nat} (h : MemOnly s₀ s) : MemOnly s₀ (corrected a s) := by
  have h1 : MemOnly s₀ (s.setChan (chanAt a) { s.chan (chanAt a) with ce := (s.chan (chanAt a)).ce + 1 }) := h.setChan
  unfold Machine.corrected
  dsimp only
  generalize s.setChan _ _ = t at h1 ⊢
  exact .ite (.logEvent (.ite h1 h1.setFrame)) (.ite h1 h1.setFrame)

theorem MemOnly.decodeCw {k e : Nat} (h : MemOnly s₀ s) : MemOnly s₀ (decodeCw k e s) := by
  unfold Machine.decodeCw
  split
  · exact h
  · exact h.corrected
  · exact h.upd

theorem MemOnly.readLine {req : Option Nat} {a e0 e1 : Nat} (h : MemOnly s₀ s) : MemOnly s₀ (readLine req a e0 e1 s).2 := by
  unfold Machine.readLine
  split
  · dsimp only
    split
    · dsimp only
      exact h.colourFault
    · split
      · dsimp only
        exact h.decodeCw.decodeCw.uncorrectable
      · dsimp only
        exact h.decodeCw.decodeCw
  · dsimp only
    split
    · dsimp only
      exact h.colourFault
    · split
      · dsimp only
        exact h.decodeCw.decodeCw.uncorrectable
      · split
        · dsimp only
          exact h.decodeCw.decodeCw.colourFault
        · split
          · dsimp only
            exact h.decodeCw.decodeCw.colourFault
          · dsimp only
            exact h.decodeCw.decodeCw.addCounter

theorem MemOnly.writeCw {req : Option Nat} {k a : Nat} {d : List Byte} (h : MemOnly s₀ s) :
    MemOnly s₀ (writeCw req k a d s).2 := by
  unfold Machine.writeCw
  dsimp only
  split
  · exact h
  split
  · exact h.upd
  split
  · exact h.uncorrectable
  split
  · exact h.colourFault
  · exact h.upd

theorem MemOnly.writePhys {req : Option Nat} {a : Nat} {d : List Byte} (h : MemOnly s₀ s) :
    MemOnly s₀ (writePhys req a d s).2 := by
  unfold Machine.writePhys
  dsimp only
  split
  · dsimp only
    exact h.colourFault
  · split
    · dsimp only
      exact h.colourFault
    · exact h.forEachSnd fun _ _ h1 => h1.writeCw

theorem MemOnly.writePoison {k : Nat} (h : MemOnly s₀ s) : MemOnly s₀ (writePoison k s) := h.upd

theorem MemOnly.writeMarked {req : Option Nat} {a : Nat} {w : MemWrite} (h : MemOnly s₀ s) :
    MemOnly s₀ (writeMarked req a w s).2 := by
  unfold Machine.writeMarked
  dsimp only
  split
  · dsimp only
    exact h.writePhys.forEach fun _ _ h1 => h1.writePoison
  · exact h.writePhys

theorem MemOnly.devReadLine {i a n : Nat} (h : MemOnly s₀ s) : MemOnly s₀ (devReadLine i a n s).2 := by
  unfold Machine.devReadLine
  split
  · dsimp only
    exact h
  · dsimp only
    exact h.colourFault
  · split
    · rename_i he1
      dsimp only
      exact .of_snd h.readLine he1
    · rename_i he1
      dsimp only
      exact .of_snd h.readLine he1
    · rename_i he3
      dsimp only
      exact .of_snd h.readLine he3

theorem MemOnly.devWriteLine {i a : Nat} {d : List Byte} (h : MemOnly s₀ s) : MemOnly s₀ (devWriteLine i a d s).2 := by
  unfold Machine.devWriteLine
  split
  · dsimp only
    exact h
  · dsimp only
    exact h.colourFault
  · split
    · rename_i he1
      dsimp only
      exact .of_snd h.writePhys he1
    · rename_i he2
      dsimp only
      exact .of_snd h.writePhys he2

theorem MemOnly.devRead {i a a1 a2 : Nat} (h : MemOnly s₀ s) : MemOnly s₀ (devRead i a a1 a2 s).2.2 := by
  induction a generalizing i a1 a2 s with
  | zero =>
    unfold Machine.devRead
    dsimp only
    exact h
  | succ n ih =>
    unfold Machine.devRead
    dsimp only
    split
    · dsimp only
      exact h
    · split
      · rename_i he1
        dsimp only
        exact .of_snd h.devReadLine he1
      · rename_i he1
        exact ih (.of_snd h.devReadLine he1)

theorem MemOnly.devWrite {i a a1 : Nat} {a2 : List Byte} (h : MemOnly s₀ s) : MemOnly s₀ (devWrite i a a1 a2 s).2 := by
  induction a generalizing i a1 a2 s with
  | zero =>
    unfold Machine.devWrite
    dsimp only
    exact h
  | succ n ih =>
    unfold Machine.devWrite
    dsimp only
    split
    · dsimp only
      exact h
    · split
      · rename_i he1
        dsimp only
        exact .of_snd h.devWriteLine he1
      · rename_i he1
        exact ih (.of_snd h.devWriteLine he1)

theorem MemOnly.devReadN {i a n : Nat} (h : MemOnly s₀ s) : MemOnly s₀ (devReadN i a n s).2.2 := h.devRead

theorem MemOnly.devWriteN {i a : Nat} {d : List Byte} (h : MemOnly s₀ s) : MemOnly s₀ (devWriteN i a d s).2 := h.devWrite

theorem MemOnly.wipeFrame {f : Nat} {c : BitVec 8} (h : MemOnly s₀ s) : MemOnly s₀ (wipeFrame f c s) := h.upd.setFrame

theorem MemOnly.serveMem {r : MemReq} (h : MemOnly s₀ s) : MemOnly s₀ (serveMem r s).2 := by
  unfold Machine.serveMem
  split
  · exact h.readLine
  · exact h.writeMarked

theorem MemOnly.resumeChan {c : Nat} (h : MemOnly s₀ s) : MemOnly s₀ (resumeChan c s) :=
  h.upd.forEach fun _ _ h1 => h1.serveMem.upd

theorem MemOnly.areaWrite {i : Nat} {a : Area} {a1 a2 : Nat} {a3 : List Byte} (h : MemOnly s₀ s) :
    MemOnly s₀ (Area.write i a a1 a2 a3 s).2 := by
  induction a1 generalizing i a a2 a3 s with
  | zero =>
    unfold Machine.Area.write
    dsimp only
    exact h
  | succ n ih =>
    unfold Machine.Area.write
    dsimp only
    split
    · dsimp only
      exact h
    · split
      · rename_i he1
        dsimp only
        exact .of_snd h.devWriteN he1
      · rename_i he1
        exact ih (.of_snd h.devWriteN he1)

end

end Sys2Proof.Machine
end

section
/-!
PROOFS. The clearing of digest contexts: which unit has an alarm is unchanged by it, and so are the root of trust and the reference clock.
-/

namespace Sys2Proof.Machine

/-- From s₀ to s the alarm marks of the digest units, the root of trust and the reference clock are unchanged. -/
structure Alarms (s₀ s : State) : Prop where
  alarm : ∀ u, (s.dgu u).alarm = (s₀.dgu u).alarm
  sec : s.sec = s₀.sec
  refLost : s.pwr.refLost = s₀.pwr.refLost

theorem Alarms.refl (s : State) : Alarms s s := ⟨fun _ => rfl, rfl, rfl⟩

section
variable {s₀ s t : State}

/-- An update that keeps the digest units, the root of trust and the reference clock. -/
theorem Alarms.upd {pending seed fronds ring disp mem eng store insts mbx haw log mp pwr tel lnk pads out} (h : Alarms s₀ s)
    (hm : eng.dgu = s.eng.dgu := by rfl) (hr : pwr.refLost = s.pwr.refLost := by rfl) :
    Alarms s₀ { s with pending, seed, fronds, ring, disp, mem, eng, store, insts, mbx, haw, log, mp, pwr, tel, lnk, pads, out } where
  alarm u := by
    refine Eq.trans ?_ (h.alarm u)
    unfold State.dgu
    rw [hm]
  sec := h.sec
  refLost := hr.trans h.refLost

theorem Alarms.setDgu {u : Nat} {x : DguUnit} (h : Alarms s₀ s) (hx : x.alarm = (s.dgu u).alarm := by rfl) : Alarms s₀ (s.setDgu u x) where
  alarm j := by
    obtain rfl | hj := eq_or_ne j u
    · rw [State.setDgu_same, hx, h.alarm]
    · rw [State.setDgu_ne _ _ _ _ hj, h.alarm]
  sec := h.sec
  refLost := h.refLost

theorem Alarms.ite {c : Prop} [Decidable c] (h : Alarms s₀ s) (k : Alarms s₀ t) : Alarms s₀ (if c then s else t) := by
  split
  · exact h
  · exact k

theorem Alarms.forEach {β : Type} {f : β → State → State} {l : List β} (h : Alarms s₀ s)
    (hf : ∀ b t, Alarms s₀ t → Alarms s₀ (f b t)) : Alarms s₀ (Machine.forEach f l s) :=
  forEach_keeps (fun b _ t => hf b t) h

theorem Alarms.forBelow {f : Nat → State → State} {n : Nat} (h : Alarms s₀ s) (hf : ∀ b t, Alarms s₀ t → Alarms s₀ (f b t)) :
    Alarms s₀ (Machine.forBelow f n s) := by
  induction n with
  | zero => exact h
  | succ n ih => exact hf _ _ ih

theorem Alarms.foldl {β : Type} {f : State → β → State} {l : List β} (h : Alarms s₀ s) (hf : ∀ b t, Alarms s₀ t → Alarms s₀ (f t b)) :
    Alarms s₀ (l.foldl f s) := by
  induction l generalizing s with
  | nil => exact h
  | cons b l ih => exact ih (hf b s h)

theorem Alarms.forEachSnd {α β : Type} {f : β → α × State → α × State} {l : List β} {p : α × State} (h : Alarms s₀ p.2)
    (hf : ∀ b p, Alarms s₀ p.2 → Alarms s₀ (f b p).2) : Alarms s₀ (Machine.forEach f l p).2 := by
  induction l generalizing p with
  | nil => exact h
  | cons b l ih => exact ih (hf b p h)

theorem Alarms.foldlSnd {α β : Type} {f : α × State → β → α × State} {l : List β} {p : α × State} (h : Alarms s₀ p.2)
    (hf : ∀ b p, Alarms s₀ p.2 → Alarms s₀ (f p b).2) : Alarms s₀ (l.foldl f p).2 := by
  induction l generalizing p with
  | nil => exact h
  | cons b l ih => exact ih (hf b p h)

theorem Alarms.of_snd_snd {α β : Type} {p : α × β × State} {a : α} {b : β} (h : Alarms s₀ p.2.2) (e : p = (a, b, t)) : Alarms s₀ t := by
  rw [e] at h; exact h

/-- The state of a result. -/
theorem Alarms.of_snd {α : Type} {p : α × State} {a : α} (h : Alarms s₀ p.2) (e : p = (a, t)) : Alarms s₀ t := by
  rw [e] at h; exact h

end

end Sys2Proof.Machine
end

section
namespace Sys2Proof.Machine

section
-- Each of these short lemmas would else wait in a thread of its own.
set_option Elab.async false
variable {s₀ s t : State}

theorem Alarms.setInst {i : Nat} {x : Inst} (h : Alarms s₀ s) : Alarms s₀ (s.setInst i x) := h.upd

theorem Alarms.setSq {i n : Nat} {x : Sq} (h : Alarms s₀ s) : Alarms s₀ (s.setSq i n x) := h.upd

theorem Alarms.setCq {i n : Nat} {x : Cq} (h : Alarms s₀ s) : Alarms s₀ (s.setCq i n x) := h.upd

theorem Alarms.setCmd {k : Nat} {x : Option Cmd} (h : Alarms s₀ s) : Alarms s₀ (s.setCmd k x) := h.upd

theorem Alarms.modCmd {k : Nat} {f : Cmd → Cmd} (h : Alarms s₀ s) : Alarms s₀ (s.modCmd k f) := by
  unfold Machine.State.modCmd
  split
  · exact h
  · exact h.setCmd

theorem Alarms.setCmu {u : Nat} {x : CmuUnit} (h : Alarms s₀ s) : Alarms s₀ (s.setCmu u x) := h.upd

theorem Alarms.setSmu {u : Nat} {x : SmuUnit} (h : Alarms s₀ s) : Alarms s₀ (s.setSmu u x) := h.upd

theorem Alarms.setLink {l : Nat} {x : Link} (h : Alarms s₀ s) : Alarms s₀ (s.setLink l x) := h.upd

theorem Alarms.freshNat (h : Alarms s₀ s) : Alarms s₀ s.freshNat.2 := h.upd

theorem Alarms.freshWord (h : Alarms s₀ s) : Alarms s₀ s.freshWord.2 := h.upd

theorem Alarms.choose {α : Type} {l : List α} (h : Alarms s₀ s) : Alarms s₀ (s.choose l).2 := by
  unfold Machine.State.choose
  split
  · dsimp only
    exact h
  · dsimp only
    exact h
  · dsimp only
    exact h.upd

theorem Alarms.addCounter {i k n : Nat} (h : Alarms s₀ s) : Alarms s₀ (addCounter i k n s) := .ite h h.setInst

theorem Alarms.setFrame {f : Nat} {x : Frame} (h : Alarms s₀ s) : Alarms s₀ (s.setFrame f x) := h.upd

theorem Alarms.onGrant {g : Grant} (h : Alarms s₀ s) : Alarms s₀ (onGrant g s) := by
  unfold Machine.onGrant
  split
  · exact h.upd
  · dsimp only
    split
    · exact .ite h.upd h.upd
    · exact .ite (.ite h.upd h.upd) (.setFrame (.ite h.upd h.upd))
  · exact h.setSmu
  · exact h.setCmu
  · exact .ite h.setLink h
  · exact h

theorem Alarms.dropWaitTimer {id : Nat} (h : Alarms s₀ s) : Alarms s₀ (dropWaitTimer id s) := h.upd

theorem Alarms.giveGrant {g : Grant} (h : Alarms s₀ s) : Alarms s₀ (giveGrant g s) := h.upd.dropWaitTimer.onGrant

theorem Alarms.grantQueue {a : List Grant} {a1 : List (Option Nat)} (h : Alarms s₀ s) : Alarms s₀ (grantQueue a a1 s) := by
  induction a generalizing a1 s with
  | nil =>
    unfold Machine.grantQueue
    exact h
  | cons b l ih =>
    unfold Machine.grantQueue
    dsimp only
    exact .ite (ih h) (.ite (ih h.upd.giveGrant) (.ite (ih h) (.ite (ih h) h)))

theorem Alarms.reinstate {a : List Grant} {a1 : List (Option Nat)} (h : Alarms s₀ s) : Alarms s₀ (reinstate a a1 s) := by
  induction a generalizing a1 s with
  | nil =>
    unfold Machine.reinstate
    exact h
  | cons b l ih =>
    unfold Machine.reinstate
    dsimp only
    exact .ite (ih h) (.ite (ih h.upd.onGrant) (.ite (ih h) h))

theorem Alarms.raiseSag {d : Nat} (h : Alarms s₀ s) : Alarms s₀ (raiseSag d s) := .ite h h.upd

theorem Alarms.examineGrants (h : Alarms s₀ s) : Alarms s₀ (examineGrants s) :=
  .grantQueue (.ite h (h.reinstate.forBelow (fun _ _ h1 => h1.raiseSag)))

theorem Alarms.chargeGrant {g : Grant} (h : Alarms s₀ s) : Alarms s₀ (chargeGrant g s) := by
  unfold Machine.chargeGrant
  split
  · exact h.addCounter
  · exact h

theorem Alarms.endGrant {id : Nat} (h : Alarms s₀ s) : Alarms s₀ (endGrant id s) := by
  unfold Machine.endGrant
  dsimp only
  have h1 : Alarms s₀ (Machine.forEach Machine.chargeGrant (s.pwr.grants.filter fun g => g.id = id) s) := h.forEach fun _ _ h =>
    h.chargeGrant
  exact (h1.upd).dropWaitTimer.examineGrants

theorem Alarms.countSmu {u i bytes jobs : Nat} (h : Alarms s₀ s) : Alarms s₀ (countSmu u i bytes jobs s) := h.setSmu

theorem Alarms.dropJobs {slot u : Nat} (h : Alarms s₀ s) : Alarms s₀ (dropJobs slot u s) :=
  .ite (h.forEach (fun _ _ h1 => .ite h1.freshNat.countSmu h1)) (.setSmu (h.forEach (fun _ _ h1 => .ite h1.freshNat.countSmu h1)))

theorem Alarms.openR0 {c : Cmd} (h : Alarms s₀ s) : Alarms s₀ (openR0 c s).2 := by
  unfold Machine.openR0
  split
  · dsimp only
    exact h
  · exact h.freshWord

theorem Alarms.dropCursors {slot : Nat} (h : Alarms s₀ s) : Alarms s₀ (dropCursors slot s) := h.upd

theorem Alarms.setCtx {u k : Nat} {x : Ctx} (h : Alarms s₀ s) : Alarms s₀ (s.setCtx u k x) := h.setDgu

theorem Alarms.leaveLane {u k : Nat} (h : Alarms s₀ s) : Alarms s₀ (leaveLane u k s) := h.setDgu

theorem Alarms.failCtxCmp {u k dt : Nat} {cmp : BitVec 2} (h : Alarms s₀ s) : Alarms s₀ (failCtxCmp u k dt cmp s) :=
  h.setCtx.leaveLane

theorem Alarms.failCtx {u k dt : Nat} (h : Alarms s₀ s) : Alarms s₀ (failCtx u k dt s) := h.failCtxCmp

theorem Alarms.clearCtx {u k : Nat} (h : Alarms s₀ s) : Alarms s₀ (clearCtx u k s) := h.failCtx.setDgu

theorem Alarms.forCtxs {p : Ctx → Bool} {f : Nat → Nat → State → State} {u : Nat} (h : Alarms s₀ s)
    (hf : ∀ a a1 t, Alarms s₀ t → Alarms s₀ (f a a1 t)) :
    Alarms s₀ (forCtxs p f u s) := h.forEach (fun _ _ h1 => .ite (hf _ _ _ h1) h1)

theorem Alarms.stopDigests {slot : Nat} (h : Alarms s₀ s) : Alarms s₀ (stopDigests slot s) :=
  h.forBelow (fun _ _ h1 => h1.forCtxs (fun _ _ _ h2 => h2.failCtx))

theorem Alarms.endHolders {p : Holder → Bool} (h : Alarms s₀ s) : Alarms s₀ (endHolders p s) :=
  h.forEach fun _ _ h1 => h1.endGrant

theorem Alarms.stopWork {slot status : Nat} (h : Alarms s₀ s) : Alarms s₀ (stopWork slot status s) := by
  unfold Machine.stopWork
  dsimp only
  have h1 : Alarms s₀ (Machine.forBelow (Machine.dropJobs slot) 8 (Machine.dropCursors slot s)) := h.dropCursors.forBelow
    fun _ _ h1 => h1.dropJobs
  generalize Machine.forBelow (Machine.dropJobs slot) 8 (Machine.dropCursors slot s) = t at h1 ⊢
  exact .endHolders (.ite h1.upd (.stopDigests h1.upd))

theorem Alarms.fixRecord {c : Cmd} (h : Alarms s₀ s) : Alarms s₀ (fixRecord c s) := h.setSq

theorem Alarms.presentOutcome {slot st : Nat} {r0 : W64} (h : Alarms s₀ s) : Alarms s₀ (presentOutcome slot st r0 s) := by
  unfold Machine.presentOutcome
  split
  · exact h
  · exact .ite h (.ite h.setCmd.fixRecord h.setCmd.fixRecord.stopWork)

theorem Alarms.failCmd {slot st : Nat} (h : Alarms s₀ s) : Alarms s₀ (failCmd slot st s) := by
  unfold Machine.failCmd
  split
  · exact h
  · exact h.openR0.presentOutcome

theorem Alarms.recordFailure {slot st : Nat} {r0 : W64} (h : Alarms s₀ s) : Alarms s₀ (recordFailure slot st r0 s) := by
  unfold Machine.recordFailure
  split
  · exact h
  · exact .ite h h.setCmd.stopWork

theorem Alarms.failOp {f st : Nat} (h : Alarms s₀ s) : Alarms s₀ (failOp f st s).2 := by
  unfold Machine.failOp
  split
  · dsimp only
    exact h
  · split
    · dsimp only
      exact h
    · exact h.choose

theorem Alarms.failItem {f st : Nat} (h : Alarms s₀ s) : Alarms s₀ (failItem f st s) := by
  unfold Machine.failItem
  split
  · exact h
  · exact h.failOp.recordFailure

theorem Alarms.failDigest {slot st dt : Nat} (h : Alarms s₀ s) : Alarms s₀ (failDigest slot st dt s) := h.modCmd.failCmd

theorem Alarms.reportCtx {x : Ctx} {st dt : Nat} (h : Alarms s₀ s) : Alarms s₀ (reportCtx x st dt s) := by
  unfold Machine.reportCtx
  split
  · exact h.failDigest
  · exact .ite h.failItem h
  · exact h

theorem Alarms.failVerifies (h : Alarms s₀ s) : Alarms s₀ (failVerifies s) := by
  unfold Machine.failVerifies
  refine .forBelow h ?_
  intro _ _ h1
  split
  · exact h1
  · exact .ite h1 (.ite h1.freshNat h1.freshNat.recordFailure)

theorem Alarms.alarmCtxs {u : Nat} (h : Alarms s₀ s) : Alarms s₀ (alarmCtxs u s) :=
  .failVerifies (h.forCtxs (fun _ _ _ h1 => .ite h1.clearCtx h1.clearCtx.reportCtx))

end

end Sys2Proof.Machine
end

section
/-!
PROOFS. Power states, supply warnings, the reference clock and module time (O43).
-/

namespace Sys2Proof.Machine

/-! ## Loops -/

theorem forBelow_keeps {α : Type} {P : α → Prop} {f : Nat → α → α} {n : Nat} {a : α} (h : P a) (hf : ∀ i a, P a → P (f i a)) :
    P (forBelow f n a) := by
  induction n with
  | zero => exact h
  | succ n ih => exact hf n _ ih

/-! ## Deadlines that fall due (R301) -/

/-- A timer that is set for a deadline. -/
def owned (s : State) : List Timer := s.disp.timers.filter (·.owner.isSome)

theorem expireDeadline_owned (slot : Nat) (s : State) : owned (expireDeadline slot s) = owned s := by
  unfold expireDeadline
  split
  · rfl
  split
  · rfl
  · exact (presentOutcome_settled ..).timers

theorem expireDeadline_time (slot : Nat) (s : State) : (expireDeadline slot s).time = s.time := by
  unfold expireDeadline
  split
  · rfl
  split
  · rfl
  · exact (presentOutcome_settled ..).time

theorem fireTimer_time (t : Timer) (s : State) : (fireTimer t s).time = s.time := expireDeadline_time ..

theorem fireTimer_owned {t : Timer} {s : State} : owned (fireTimer t s) = (s.disp.timers.erase t).filter (·.owner.isSome) :=
  expireDeadline_owned ..

theorem fireTimer_fewer {t : Timer} {s : State} (h : t ∈ dueTimers s) : (owned (fireTimer t s)).length + 1 = (owned s).length := by
  obtain ⟨hm, hd⟩ := List.mem_filter.1 h
  have ho : t.owner.isSome = true := (Bool.and_eq_true _ _ ▸ hd).1
  have hmem : t ∈ owned s := List.mem_filter.2 ⟨hm, ho⟩
  have hpos := List.length_pos_of_mem hmem
  rw [fireTimer_owned, ← List.erase_filter]
  show ((owned s).erase t).length + 1 = _
  rw [List.length_erase_of_mem hmem]
  exact Nat.sub_add_cancel hpos

/-- The order in which timers fire. -/
def Timer.key (t : Timer) : ℕ ×ₗ ℕ ×ₗ ℕ := toLex (t.tick, toLex (t.setAt, t.id))

theorem before_iff (a b : Timer) : a.before b = true ↔ a.key < b.key := by
  simp [Timer.before, Timer.key, Prod.Lex.toLex_lt_toLex]

/-- Among timers one fires before all others. -/
theorem exists_first {l : List Timer} (h : l ≠ []) : ∃ t ∈ l, ∀ x ∈ l, x.before t = false := by
  obtain ⟨t, ht, hmin⟩ := Finset.exists_min_image l.toFinset Timer.key (List.toFinset_nonempty_iff l |>.2 h)
  refine ⟨t, List.mem_toFinset.1 ht, fun x hx => Bool.eq_false_iff.2 fun hb => ?_⟩
  exact absurd ((before_iff x t).1 hb) (not_lt.2 (hmin x (List.mem_toFinset.2 hx)))

/-- Where nothing is due nothing fires. -/
theorem fireDue_none {fuel : Nat} {s : State} (h : dueTimers s = []) : fireDue fuel s = s := by
  cases fuel with
  | zero => rfl
  | succ n =>
    unfold fireDue
    rw [h]
    rfl

theorem fireDue_done {fuel : Nat} {s : State} (h : (owned s).length ≤ fuel) : dueTimers (fireDue fuel s) = [] := by
  induction fuel generalizing s with
  | zero =>
    refine List.filter_eq_nil_iff.2 fun t ht hd => ?_
    have ho : t ∈ owned s := List.mem_filter.2 ⟨ht, (Bool.and_eq_true _ _ ▸ hd).1⟩
    rw [List.length_eq_zero_iff.1 (Nat.le_zero.1 h)] at ho
    cases ho
  | succ n ih =>
    unfold fireDue
    split
    · next hnone =>
      by_contra hne
      obtain ⟨t, ht, hfirst⟩ := exists_first hne
      have hlate := List.find?_eq_none.1 hnone t ht
      simp only [Bool.not_eq_true', Bool.not_eq_false, List.any_eq_true] at hlate
      obtain ⟨x, hx, hb⟩ := hlate
      rw [hfirst x hx] at hb
      cases hb
    · next t hsome =>
      refine ih ?_
      have := fireTimer_fewer (List.mem_of_find?_eq_some hsome)
      omega

theorem fireDue_time (fuel : Nat) (s : State) : (fireDue fuel s).time = s.time := by
  induction fuel generalizing s with
  | zero => rfl
  | succ n ih =>
    unfold fireDue
    split
    · rfl
    · rw [ih, fireTimer_time]

/-! ## Counters of time (R265, R284, R308) -/

/-- Only the engines and the source of free values differ. -/
def EngOnly (s t : State) : Prop := ∃ e n, t = { s with eng := e, seed := n }

theorem EngOnly.refl (s : State) : EngOnly s s := ⟨_, _, rfl⟩

theorem EngOnly.trans {s t u : State} (h : EngOnly s t) (h' : EngOnly t u) : EngOnly s u := by
  obtain ⟨_, _, rfl⟩ := h
  obtain ⟨_, _, rfl⟩ := h'
  exact ⟨_, _, rfl⟩

theorem countMerged_engOnly (u : Nat) (b l : List SmuJob) (s : State) : EngOnly s (countMerged u b l s) := by
  refine forEach_keeps (P := EngOnly s) (fun j _ t h => ?_) (.refl s)
  split
  · split
    · exact h
    · exact h.trans ⟨_, _, rfl⟩
  · exact h

theorem advanceSmu_engOnly (u : Nat) (s : State) : EngOnly s (advanceSmu u s) := by
  unfold advanceSmu
  split
  · exact .refl s
  · exact EngOnly.trans (t := (s.freshNat).2) ⟨s.eng, _, rfl⟩ (EngOnly.trans ⟨_, _, rfl⟩ (countMerged_engOnly ..))

theorem busyTick_engOnly (s : State) : EngOnly s (busyTick s) := by
  unfold busyTick
  dsimp only
  refine forBelow_keeps (P := EngOnly s) (forBelow_keeps (P := EngOnly s) (.refl s) fun u t h => ?_) fun u t h => ?_
  · split
    · exact h
    · exact h.trans ⟨_, _, rfl⟩
  · split
    · exact h
    · exact (h.trans ⟨_, _, rfl⟩).trans (advanceSmu_engOnly ..)

/-- Only what the window has counted of engines differs. -/
def EnginesCounted (s t : State) : Prop := ∃ a b, t = { s with disp := { s.disp with winEng := a, winEngOwn := b } }

theorem EnginesCounted.refl (s : State) : EnginesCounted s s := ⟨_, _, rfl⟩

theorem EnginesCounted.trans {s t u : State} (h : EnginesCounted s t) (h' : EnginesCounted t u) : EnginesCounted s u := by
  obtain ⟨_, _, rfl⟩ := h
  obtain ⟨_, _, rfl⟩ := h'
  exact ⟨_, _, rfl⟩

theorem ownOnly_counted (k : Nat) (is : List Nat) (s : State) : EnginesCounted s (windowTick.ownOnly k is s) := by
  unfold windowTick.ownOnly
  split
  · exact .refl s
  · exact forEach_keeps (P := EnginesCounted s) (fun i _ t h => h.trans ⟨_, _, rfl⟩) ⟨_, _, rfl⟩

/-- Core cycles that a frond counts in 1 µs. -/
def frondCycles (s : State) (f : Nat) : Nat :=
  if (s.frond f).item.isSome && clockOn f s then 100 * s.pwr.fclk.get 24 (f / 32) else 0

theorem countFronds (n : Nat) (s : State) : ∃ w o, forBelow (fun f s =>
    if (s.frond f).item.isSome && clockOn f s then addWin false f (s.frond f).inst.toNat (100 * s.pwr.fclk.get 24 (f / 32)) s else s) n s =
      { s with disp := { s.disp with winFrond := w, winFrondOwn := o } } ∧
    ∀ f, w.get 0 f = s.disp.winFrond.get 0 f + if f < n then frondCycles s f else 0 := by
  induction n with
  | zero => exact ⟨_, _, rfl, fun f => by simp⟩
  | succ n ih =>
    obtain ⟨w, o, e, hw⟩ := ih
    rw [forBelow, e]
    by_cases hc : ((s.frond n).item.isSome && clockOn n s) = true
    · refine ⟨w.set 0 n (w.get 0 n + 100 * s.pwr.fclk.get 24 (n / 32)), _, if_pos hc, fun f => ?_⟩
      obtain rfl | hne := eq_or_ne f n
      · rw [Tbl.get_set_same, hw, if_neg (lt_irrefl _), if_pos (Nat.lt_succ_self _), frondCycles, if_pos hc, Nat.add_zero]
      · rw [Tbl.get_set_ne _ _ _ hne, hw]
        simp only [Nat.lt_succ_iff_lt_or_eq, hne, or_false]
    · refine ⟨w, o, if_neg hc, fun f => ?_⟩
      rw [hw]
      obtain rfl | hne := eq_or_ne f n
      · rw [if_neg (lt_irrefl _), if_pos (Nat.lt_succ_self _), frondCycles, if_neg hc]
      · simp only [Nat.lt_succ_iff_lt_or_eq, hne, or_false]

theorem windowTick_eq (s : State) : ∃ w o a b,
    windowTick s = { s with disp := { s.disp with winFrond := w, winFrondOwn := o, winEng := a, winEngOwn := b } } ∧
    ∀ f, f < 128 → w.get 0 f = s.disp.winFrond.get 0 f + frondCycles s f := by
  obtain ⟨w, o, e, hw⟩ := countFronds 128 s
  suffices h : EnginesCounted { s with disp := { s.disp with winFrond := w, winFrondOwn := o } } (windowTick s) by
    obtain ⟨a, b, h⟩ := h
    exact ⟨w, o, a, b, h, fun f hf => by rw [hw, if_pos hf]⟩
  unfold windowTick
  dsimp only
  rw [e]
  refine EnginesCounted.trans (forBelow_keeps (P := EnginesCounted _) ?_ fun u t h => h.trans (ownOnly_counted ..)) (ownOnly_counted ..)
  refine forBelow_keeps (P := EnginesCounted _) (forBelow_keeps (P := EnginesCounted _) (.refl _) fun u t h => h.trans ⟨_, _, rfl⟩)
    fun u t h => ?_
  split
  · split
    · exact h
    · exact h.trans ⟨_, _, rfl⟩
  · exact h

/-- Only the power state differs. -/
def PwrOnly (s t : State) : Prop := ∃ p, t = { s with pwr := p }

theorem PwrOnly.trans {s t u : State} (h : PwrOnly s t) (h' : PwrOnly t u) : PwrOnly s u := by
  obtain ⟨_, rfl⟩ := h
  obtain ⟨_, rfl⟩ := h'
  exact ⟨_, rfl⟩

theorem PwrOnly.ite {c : Prop} [Decidable c] {s t u : State} (h : PwrOnly s t) (h' : PwrOnly s u) : PwrOnly s (if c then t else u) := by
  split
  · exact h
  · exact h'

/-- The end of a tick: the point of no return, the idle time, and a wake. -/
theorem tickEnd_pwrOnly (s : State) : PwrOnly s
    (let s := if s.pwr.entering && decide (s.pwr.entryAt + ponrAfter s.pwr.target ≤ s.time)
      then { s with pwr := { s.pwr with ponr := true } } else s
    let s := idleTick s
    if timerDue s && !awake s then wake s else s) := by
  refine PwrOnly.trans (t := if s.pwr.entering && decide (s.pwr.entryAt + ponrAfter s.pwr.target ≤ s.time)
      then { s with pwr := { s.pwr with ponr := true } } else s) (.ite ⟨_, rfl⟩ ⟨s.pwr, rfl⟩) ?_
  dsimp only
  generalize (if s.pwr.entering && decide (s.pwr.entryAt + ponrAfter s.pwr.target ≤ s.time)
      then { s with pwr := { s.pwr with ponr := true } } else s) = t
  exact PwrOnly.trans (t := idleTick t) ⟨_, rfl⟩ (.ite (wake_eq _) ⟨_, rfl⟩)

/-- A tick, from the deadlines that were due: time advances, what the window counts of fronds is added, and engines, power states and the
source of free values may differ. -/
theorem execAonTick_eq {s : State} (hp : s.pads.porHeld = false) : ∃ w o a b e n p,
    execAonTick s = .next { fireDue s.disp.timers.length s with
      time := (s.time + 1000) % 2 ^ 64, eng := e, seed := n, pwr := p,
      disp := { (fireDue s.disp.timers.length s).disp with winFrond := w, winFrondOwn := o, winEng := a, winEngOwn := b } } ∧
    ∀ f, f < 128 → w.get 0 f = (fireDue s.disp.timers.length s).disp.winFrond.get 0 f + frondCycles (fireDue s.disp.timers.length s) f := by
  have ht := fireDue_time s.disp.timers.length s
  unfold execAonTick
  rw [if_neg (by simp [hp])]
  dsimp only
  rw [ht]
  generalize fireDue s.disp.timers.length s = s₁ at ht ⊢
  obtain ⟨e, n, hb⟩ := busyTick_engOnly { s₁ with time := (s.time + 1000) % 2 ^ 64 }
  rw [hb]
  obtain ⟨w, o, a, b, hw, hc⟩ := windowTick_eq { s₁ with time := (s.time + 1000) % 2 ^ 64, eng := e, seed := n }
  rw [hw]
  obtain ⟨p, hp⟩ := tickEnd_pwrOnly { s₁ with
    time := (s.time + 1000) % 2 ^ 64, eng := e, seed := n,
    disp := { s₁.disp with winFrond := w, winFrondOwn := o, winEng := a, winEngOwn := b } }
  exact ⟨w, o, a, b, e, n, p, next_congr hp, hc⟩

/-! ## Power states and channels (R353, R505 to R507) -/

theorem resumeSelf_st (c : Nat) (s : State) (j : Nat) :
    ((selfRefresh.resumeSelf c s).chan j).st = if j = c then .selfRefresh else (s.chan j).st := by
  unfold selfRefresh.resumeSelf
  dsimp only
  obtain rfl | hj := eq_or_ne j c
  · rw [State.setChan_same, if_pos rfl]
  · rw [State.setChan_ne _ _ _ _ hj, if_neg hj]
    exact (Chans.refl s).resumeChan.st j

theorem trained_st (c : Nat) (s : State) (j : Nat) : ((trained c s).chan j).st = if j = c then .active else (s.chan j).st := by
  unfold trained
  refine ((Chans.refl _).resumeChan.st j).trans ?_
  obtain rfl | hj := eq_or_ne j c
  · rw [State.setChan_same, if_pos rfl]
  · rw [State.setChan_ne _ _ _ _ hj, if_neg hj]

/-- Every channel of a range that has not failed takes a state of service. -/
theorem forBelow_chans {f : Nat → State → State} {x : ChanState} (n : Nat) (s : State)
    (hf : ∀ c t j, ((f c t).chan j).st = if j = c then x else (t.chan j).st) :
    ∀ j, ((forBelow (fun c s => if (s.chan c).st = .failed then s else f c s) n s).chan j).st =
      if j < n ∧ (s.chan j).st ≠ .failed then x else (s.chan j).st := by
  induction n with
  | zero => exact fun j => rfl
  | succ n ih =>
    rw [forBelow]
    generalize forBelow (fun c s => if (s.chan c).st = .failed then s else f c s) n s = t at ih ⊢
    have hn : (t.chan n).st = (s.chan n).st := (ih n).trans (if_neg fun h => absurd h.1 (lt_irrefl n))
    intro j
    obtain rfl | hj := eq_or_ne j n
    · split
      · next h => rw [hn, if_neg fun hh => hh.2 (hn ▸ h)]
      · next h => rw [hf, if_pos rfl, if_pos ⟨Nat.lt_succ_self _, fun hh => h (hn.trans hh)⟩]
    · simp only [show j < n + 1 ↔ j < n by omega, ← ih j]
      split
      · rfl
      · rw [hf, if_neg hj]

/-- The scrub in progress ends before the channels enter self-refresh. -/
theorem selfRefresh_from (s : State) : ∃ t, Chans s t ∧
    selfRefresh s = forBelow (fun c s => if (s.chan c).st = .failed then s else selfRefresh.resumeSelf c s) 96 t := by
  have h : Chans s { s with mem := { s.mem with sr := true, patrolStop := true } } := (Chans.refl s).upd
  unfold selfRefresh
  dsimp only
  split
  · exact ⟨_, h.scrubDone, rfl⟩
  · exact ⟨_, h, rfl⟩

/-- Channels that have not failed enter self-refresh, and an entry that goes on keeps its target. -/
theorem selfRefresh_done (s : State) :
    (∀ c, c < 96 → (s.chan c).st ≠ .failed → ((selfRefresh s).chan c).st = .selfRefresh) ∧
    (selfRefresh s).pwr.target = s.pwr.target ∧ (selfRefresh s).pwr.wakeAfter = s.pwr.wakeAfter := by
  obtain ⟨t, h1, e⟩ := selfRefresh_from s
  rw [e]
  refine ⟨fun c hc hs => ?_, ?_⟩
  · rw [forBelow_chans (x := .selfRefresh) 96 t (fun c t j => resumeSelf_st c t j), if_pos ⟨hc, by rwa [h1.st]⟩]
  · refine forBelow_keeps (P := fun u : State => u.pwr.target = s.pwr.target ∧ u.pwr.wakeAfter = s.pwr.wakeAfter)
      ⟨h1.target, h1.wakeAfter⟩ fun c u h => ?_
    split
    · exact h
    · have hr : Chans u (resumeChan c u) := (Chans.refl u).resumeChan
      exact ⟨hr.target.trans h.1, hr.wakeAfter.trans h.2⟩

theorem selfRefresh_ring {s : State} (h : s.mem.burst = []) : (selfRefresh s).ring = s.ring := by
  unfold selfRefresh
  dsimp only
  rw [h]
  refine forBelow_keeps (P := fun u : State => u.ring = s.ring) rfl fun c u hu => ?_
  split
  · exact hu
  · exact (MemOnly.refl u).resumeChan.ring.trans hu

theorem leaveSelfRefresh_done (s : State) :
    (∀ c, c < 96 → (s.chan c).st ≠ .failed → ((leaveSelfRefresh s).chan c).st = .active) ∧ (leaveSelfRefresh s).ring = s.ring := by
  have hst := forBelow_chans (x := .active) 96 s fun c t j => trained_st c t j
  have hring : (forBelow (fun c s => if (s.chan c).st = .failed then s else trained c s) 96 s).ring = s.ring := by
    refine forBelow_keeps (P := fun u : State => u.ring = s.ring) rfl fun c u hu => ?_
    split
    · exact hu
    · exact ((MemOnly.refl u).setChan.resumeChan.ring).trans hu
  unfold leaveSelfRefresh
  dsimp only
  generalize forBelow (fun c s => if (s.chan c).st = .failed then s else trained c s) 96 s = t at hst hring ⊢
  have hc : Chans t { t with mem := { t.mem with sr := false, patrolStop := false } } := (Chans.refl t).upd
  split
  · exact ⟨fun c h h' => (hc.st c).trans ((hst c).trans (if_pos ⟨h, h'⟩)), hring⟩
  · refine ⟨fun c h h' => (hc.nextScrub.st c).trans ((hst c).trans (if_pos ⟨h, h'⟩)), Eq.trans ?_ hring⟩
    unfold nextScrub
    split
    · exact (Calm.refl _).endHolder.ring
    · split
      · rfl
      · rfl


/-- The end of an entry, from the state in which the memory has followed. -/
def entered (s : State) : State :=
  { s with pwr := { s.pwr with ps := s.pwr.target, entering := false, ponr := false, exiting := s.pwr.wakeAfter, wakeAfter := false } }

theorem psEntryComplete_from {s : State} (h : s.pwr.entering = true) :
    execPsEntryComplete s = .next (entered (if s.pwr.target = 3 then lowLinks (selfRefresh s) else s)) :=
  if_neg (by simp [h])

theorem psExitComplete_from {s : State} (h : s.pwr.exiting = true) (hn : s.pwr.entering = false) : ∃ fr,
    execPsExitComplete s = .next
      (let t := if s.pwr.ps = 3 then leaveSelfRefresh s else s
       { t with fronds := fr,
                pwr := { t.pwr with ps := 0, target := 0, exiting := false, ponr := false, linksLow := false, l12 := false } }) := by
  unfold execPsExitComplete
  rw [if_neg (by simp [h, hn])]
  dsimp only
  generalize (if s.pwr.ps = 3 then leaveSelfRefresh s else s) = t
  split
  · exact ⟨_, rfl⟩
  · exact ⟨t.fronds, rfl⟩

/-! ## Supply warnings (R516, R517) -/

theorem chargeGrants_eq (l : List Grant) (s : State) : ∃ i, forEach chargeGrant l s = { s with insts := i } := by
  refine forEach_keeps (P := fun t => ∃ i, t = { s with insts := i }) (fun g _ t h => ?_) ⟨s.insts, rfl⟩
  obtain ⟨i, rfl⟩ := h
  unfold chargeGrant
  split
  · unfold addCounter
    dsimp only
    split
    · exact ⟨_, rfl⟩
    · exact ⟨_, rfl⟩
  · exact ⟨_, rfl⟩

theorem sagDies (n : Nat) (s : State) : ∃ l k, forBelow sagDie n s = { s with pwr := { s.pwr with sagLim := l, fclk := k } } ∧
    ∀ d, d < n → l.get 24 d = 12 := by
  induction n with
  | zero => exact ⟨_, _, rfl, nofun⟩
  | succ n ih =>
    obtain ⟨l, k, e, hl⟩ := ih
    refine ⟨l.set 24 n 12, _, (congrArg (sagDie n) e).trans rfl, fun d hd => ?_⟩
    obtain rfl | hne := eq_or_ne d n
    · exact Tbl.get_set_same ..
    · rw [Tbl.get_set_ne _ _ _ hne]
      exact hl d (by omega)

/-- Jobs are paused and searches slowed; that touches engines only. -/
theorem sagUnits_engOnly (s : State) : EngOnly s
    (forBelow (fun u s => if (s.smu u).jobs.isEmpty then s else s.setSmu u { s.smu u with paused := true }) 8
      (forBelow (fun u (s : State) => s.setCmu u { s.cmu u with sagHold := true, step := max 2 (s.cmu u).step }) 4 s)) := by
  refine forBelow_keeps (P := EngOnly s) (forBelow_keeps (P := EngOnly s) (.refl s) fun u t h => h.trans ⟨_, _, rfl⟩) fun u t h => ?_
  split
  · exact h
  · exact h.trans ⟨_, _, rfl⟩

theorem supplyWarning_does {n : Nat} (hn : n = 0x3F ∨ (1 ≤ n ∧ n ≤ 40)) (s : State) : ∃ t, execSupplyWarning n s = .next t ∧
    t.pwr.sag = true ∧ t.pwr.sagSource = BitVec.ofNat 6 n ∧ t.pwr.grants = s.pwr.grants.filter (fun g => !g.discretionary) ∧
    t.pwr.revoked = s.pwr.revoked ++ s.pwr.grants.filter (·.discretionary) ∧ t.mem.scrubPaused = true ∧
    t.log.next = s.log.next + 1 ∧ ∀ d, d < 4 → t.pwr.sagLim.get 24 d = 12 := by
  unfold execSupplyWarning
  rw [if_neg (by omega)]
  dsimp only
  obtain ⟨i, hi⟩ := chargeGrants_eq ((logEvent 0x0801 0x00 0 n none s).pwr.grants.filter (·.discretionary)) (logEvent 0x0801 0x00 0 n none s)
  rw [hi]
  generalize hp : ({ (logEvent 0x0801 0x00 0 n none s).pwr with
    sag := true, sagSource := BitVec.ofNat 6 n, domWarn := _, revoked := _, grants := _, revokes := _ } : PwrSt) = p
  obtain ⟨l, k, hl, hd⟩ := sagDies 4 { logEvent 0x0801 0x00 0 n none s with insts := i, pwr := p }
  rw [hl]
  obtain ⟨e, m, he⟩ := sagUnits_engOnly { logEvent 0x0801 0x00 0 n none s with insts := i, pwr := { p with sagLim := l, fclk := k } }
  rw [he]
  obtain ⟨v, h, w, x, hv⟩ := hawEventAll_eq 0 { logEvent 0x0801 0x00 0 n none s with
    insts := i, pwr := { p with sagLim := l, fclk := k }, eng := e, seed := m,
    mem := { (logEvent 0x0801 0x00 0 n none s).mem with scrubPaused := true } }
  refine ⟨_, next_congr hv, ?_⟩
  subst hp
  exact ⟨rfl, rfl, rfl, rfl, rfl, rfl, hd⟩

/-! ## The end of a warning (R517) -/

/-- The hold of a warning ends for every unit below n. -/
theorem freeCmus {f : Nat → State → State} {n : Nat} {s t : State} (h : forBelow f n s = t) (hr : s.pwr.revoked = [])
    (hf : ∀ u t, t.pwr.revoked = [] → f u t = t.setCmu u { t.cmu u with sagHold := false }) :
    ∃ e, t = { s with eng := e } ∧ ∀ u, u < n → (e.cmu.get CmuUnit.reset u).sagHold = false := by
  induction n generalizing t with
  | zero => exact ⟨s.eng, h.symm, nofun⟩
  | succ n ih =>
    obtain ⟨e, he, hu⟩ := ih rfl
    have h' : f n (forBelow f n s) = t := h
    rw [he, hf n { s with eng := e } hr] at h'
    refine ⟨_, h'.symm, fun u hlt => ?_⟩
    obtain rfl | hne := eq_or_ne u n
    · exact congrArg CmuUnit.sagHold (Tbl.get_set_same ..)
    · exact (congrArg CmuUnit.sagHold (Tbl.get_set_ne _ _ _ hne)).trans (hu u (by omega))

/-- The paused jobs resume. -/
theorem freeSmus {f : Nat → State → State} {n : Nat} {s t : State} (h : forBelow f n s = t) (hr : s.pwr.revoked = [])
    (hf : ∀ u t, t.pwr.revoked = [] → f u t = t.setSmu u { t.smu u with paused := false }) :
    ∃ x, t = { s with eng := { s.eng with smu := x } } := by
  induction n generalizing t with
  | zero => exact ⟨s.eng.smu, h.symm⟩
  | succ n ih =>
    obtain ⟨x, hx⟩ := ih rfl
    have h' : f n (forBelow f n s) = t := h
    rw [hx, hf n { s with eng := { s.eng with smu := x } } hr] at h'
    exact ⟨_, h'.symm⟩

theorem raiseSags {s : State} (hr : s.pwr.revoked = []) (n : Nat) :
    ∃ l, forBelow raiseSag n s = { s with pwr := { s.pwr with sagLim := l } } ∧ ∀ d, d < n → l.get 24 d = 24 := by
  induction n with
  | zero => exact ⟨_, rfl, nofun⟩
  | succ n ih =>
    obtain ⟨l, e, hl⟩ := ih
    refine ⟨l.set 24 n 24, (congrArg (raiseSag n) e).trans (if_neg (by simp [hr])), fun d hd => ?_⟩
    obtain rfl | hne := eq_or_ne d n
    · exact Tbl.get_set_same ..
    · rw [Tbl.get_set_ne _ _ _ hne]
      exact hl d (by omega)

/-- With no request waiting and none revoked, the queue gives nothing; outside a warning the sag limits rise. -/
theorem examineGrants_none {s : State} (hr : s.pwr.revoked = []) (hw : s.pwr.waits = []) (hs : s.pwr.sag = false) (hd : s.pwr.reduced = false) :
    ∃ l, examineGrants s = { s with pwr := { s.pwr with sagLim := l } } ∧ ∀ d, d < 4 → l.get 24 d = 24 := by
  obtain ⟨l, e, hl⟩ := raiseSags hr 4
  refine ⟨l, ?_, hl⟩
  unfold examineGrants
  rw [if_neg (by simp [hs, hd]), hr]
  show grantQueue (forBelow raiseSag 4 s).pwr.waits [] (forBelow raiseSag 4 s) = _
  rw [e]
  show grantQueue s.pwr.waits [] _ = _
  rw [hw]
  rfl

theorem sagClear_does {s : State} (hs : s.pwr.sag = true) (hr : s.pwr.revoked = []) (hw : s.pwr.waits = []) :
    ∃ t, execSagClear s = .next t ∧ t.pwr.sag = false ∧ t.pwr.reduced = false ∧ t.pwr.domWarn = [] ∧ t.mem.scrubPaused = false ∧
    (∀ d, d < 4 → t.pwr.sagLim.get 24 d = 24) ∧ ∀ u, u < 4 → (t.cmu u).sagHold = false := by
  unfold execSagClear
  rw [if_neg (by simp [hs]), hr]
  dsimp only [List.filter_nil]
  generalize hp : ({ s.pwr with sag := false, domWarn := [], reduced := false, revoked := [] } : PwrSt) = p
  have hpr : p.revoked = [] := by rw [← hp]
  obtain ⟨e₀, h₀⟩ : ∃ e, forBelow cmuStepFree 4 { s with pwr := p } = { s with pwr := p, eng := e } :=
    forBelow_keeps (P := fun t => ∃ e, t = { s with pwr := p, eng := e }) ⟨s.eng, rfl⟩ fun u t h => by
      obtain ⟨e, rfl⟩ := h
      exact ⟨_, rfl⟩
  rw [h₀]
  generalize h₁ : forBelow _ 4 _ = t₁
  obtain ⟨e₁, rfl, hh⟩ := freeCmus h₁ hpr fun u t h => if_neg (by simp [h])
  generalize h₂ : forBelow _ 8 _ = t₂
  obtain ⟨x, rfl⟩ := freeSmus h₂ hpr fun u t h => if_neg (by simp [h])
  rw [if_neg (by simp [hpr])]
  obtain ⟨l, e, hl⟩ := examineGrants_none (s := { s with
    pwr := p, eng := { e₁ with smu := x }, mem := { s.mem with scrubPaused := false } }) hpr (by rw [← hp]; exact hw) (by rw [← hp]) (by rw [← hp])
  refine ⟨_, next_congr e, ?_⟩
  subst hp
  exact ⟨rfl, rfl, rfl, rfl, hl, hh⟩

/-! ## Alarms (R500, R547) -/

theorem alarmUnit_eq (n m : Nat) (s : State) : ∃ l, alarmUnit n m s =
    { (alarmCtxs m s).setDgu m { (alarmCtxs m s).dgu m with alarm := true } with log := l } := by
  unfold alarmUnit
  exact logEvent_eq ..

theorem alarmUnit_alarm (n m : Nat) (s : State) (u : Nat) :
    ((alarmUnit n m s).dgu u).alarm = if u = m then true else (s.dgu u).alarm := by
  obtain ⟨l, e⟩ := alarmUnit_eq n m s
  have hk := (Alarms.refl s).alarmCtxs (u := m)
  rw [e]
  generalize alarmCtxs m s = t at hk
  show ((t.setDgu m { t.dgu m with alarm := true }).dgu u).alarm = _
  obtain rfl | hne := eq_or_ne u m
  · rw [State.setDgu_same, if_pos rfl]
  · rw [State.setDgu_ne _ _ _ _ hne, if_neg hne]
    exact hk.alarm u

theorem alarmUnits (n m : Nat) (s : State) :
    (∀ u, u < m → ((forBelow (alarmUnit n) m s).dgu u).alarm = true) ∧ (forBelow (alarmUnit n) m s).sec = s.sec ∧
    (forBelow (alarmUnit n) m s).pwr.refLost = s.pwr.refLost := by
  induction m with
  | zero => exact ⟨nofun, rfl, rfl⟩
  | succ m ih =>
    obtain ⟨ha, hs, hr⟩ := ih
    rw [forBelow]
    generalize forBelow (alarmUnit n) m s = t at ha hs hr ⊢
    have hk := (Alarms.refl t).alarmCtxs (u := m)
    refine ⟨fun u hu => ?_, ?_⟩
    · rw [alarmUnit_alarm]
      split
      · rfl
      · exact ha u (by omega)
    · obtain ⟨l, e⟩ := alarmUnit_eq n m t
      rw [e]
      generalize alarmCtxs m t = t' at hk
      exact ⟨hk.sec.trans hs, hk.refLost.trans hr⟩

/-- What an alarm does before it reaches the digest units. -/
def alarmStart (s : State) : State :=
  let s := forEach (fun (q : SignJob) s => spdmError q.transport 0x05 0 s) s.sec.signQ s
  let s := dropSigning s
  if s.sec.tokenSt = .busy then endToken .error 0x13 s else s

theorem rotAlarm_eq (n : Nat) (s : State) : rotAlarm n s = forBelow (alarmUnit n) 4 (alarmStart s) := rfl

theorem spdmErrors_eq (l : List SignJob) (s : State) :
    ∃ o, forEach (fun (q : SignJob) s => spdmError q.transport 0x05 0 s) l s = { s with out := o } :=
  forEach_keeps (P := fun t => ∃ o, t = { s with out := o }) (fun q _ t h => by obtain ⟨o, rfl⟩ := h; exact ⟨_, rfl⟩) ⟨s.out, rfl⟩

theorem alarmStart_eq (s : State) : ∃ o x, alarmStart s = { s with out := o, sec := x } ∧ x.signQ = [] := by
  obtain ⟨o, h⟩ := spdmErrors_eq s.sec.signQ s
  unfold alarmStart
  rw [h]
  dsimp only
  split
  · exact ⟨o, _, rfl, rfl⟩
  · exact ⟨o, _, rfl, rfl⟩

/-- An alarm is marked in every unit, and the reference clock is left as it was. -/
theorem rotAlarm_marks (n : Nat) (s : State) :
    (∀ u, u < 4 → ((rotAlarm n s).dgu u).alarm = true) ∧ (rotAlarm n s).sec.signQ = [] ∧ (rotAlarm n s).pwr.refLost = s.pwr.refLost := by
  obtain ⟨o, x, h, hq⟩ := alarmStart_eq s
  obtain ⟨ha, hs, hr⟩ := alarmUnits n 4 (alarmStart s)
  rw [h] at hs hr
  rw [rotAlarm_eq]
  rw [h] at ha ⊢
  exact ⟨ha, by rw [hs]; exact hq, hr⟩

/-! ## A window of observation (R308, R310) -/

theorem foldl_set_get {α : Type} [DecidableEq α] (d : α) (g : Nat → α) (n : Nat) (k : Nat) (h : k < n) :
    ((List.range n).foldl (fun (t : Tbl α) f => t.set d f (g f)) []).get d k = g k := by
  induction n with
  | zero => omega
  | succ n ih =>
    rw [List.range_succ, List.foldl_append, List.foldl_cons, List.foldl_nil]
    obtain rfl | hne := eq_or_ne k n
    · exact Tbl.get_set_same ..
    · rw [Tbl.get_set_ne _ _ _ hne]
      exact ih (by omega)

/-- A permille that is not rounded up stays as counted. -/
theorem winPermille_bounded (s : State) (k n : Nat) : BitVec.ofNat 10 (min 1000 ((winPermille s k n).toNat + 0)) = winPermille s k n := by
  unfold winPermille
  apply BitVec.eq_of_toNat_eq
  simp only [BitVec.toNat_ofNat]
  omega

/-- An engine whose occupancy the event does not name keeps what the module counted. -/
theorem windowOcc_plain {o : List Nat} {s : State} {k : Nat} (hk : k < 17) (ho : o.contains k = false) :
    (windowOcc o s).get 0 k = winPermille s k (s.disp.winEng.get 0 k) := by
  unfold windowOcc
  rw [foldl_set_get _ _ _ _ hk, ho]
  exact winPermille_bounded ..

/-- Settles O43. -/
theorem powerStates : Obligations.PowerStates := by
  unfold Obligations.PowerStates
  refine ⟨?_, ?_, ?_, ?_, ?_, fun n s => ⟨rfl, rfl, rfl, rfl⟩, ?_, ?_, fun n s hn => supplyWarning_does hn s, fun s hs hr hw => sagClear_does hs hr hw,
    ?_, fun s => rfl, ?_, ?_, ?_, ?_⟩
  · intro s h
    exact (show execIdle1Expiry s = _ from if_pos h)
  · intro s h hp
    exact (show execIdle2Expiry s = _ from (if_pos h).trans (if_pos (by simp [cacheClean, hp])))
  · intro s h hp
    exact (show execIdle2Expiry s = _ from (if_pos h).trans (if_neg (by simp [cacheClean, hp])))
  · intro s h hc
    exact (show execIdle3Expiry s = _ from if_pos (by rw [h, hc]; rfl))
  · intro s h
    have hno : ∀ ps vs, idleMay ps (s.pwr.idle1 :: vs) s = false := fun ps vs => by
      unfold idleMay
      obtain h | h | h := h <;> simp [h]
    exact ⟨(show execIdle1Expiry s = _ from if_neg (by simp [hno])), (show execIdle2Expiry s = _ from if_neg (by simp [hno])),
      (show execIdle3Expiry s = _ from if_neg (by simp [hno]))⟩
  · intro s h
    by_cases ht : s.pwr.target = 3
    · obtain ⟨hst, htg, hwk⟩ := selfRefresh_done s
      have hring := selfRefresh_ring (s := s)
      refine Does.of (show execPsEntryComplete s = _ from psEntryComplete_from h) ?_
      rw [if_pos ht]
      generalize selfRefresh s = t at hst htg hwk hring
      exact ⟨htg, rfl, hwk, fun _ => hst, fun hb => hring (hb.resolve_left fun hn => hn ht)⟩
    · refine Does.of (show execPsEntryComplete s = _ from psEntryComplete_from h) ?_
      rw [if_neg ht]
      exact ⟨rfl, rfl, rfl, fun h3 => absurd h3 ht, fun _ => rfl⟩
  · intro s h hn
    obtain ⟨hst, hring⟩ := leaveSelfRefresh_done s
    obtain ⟨fr, he⟩ := psExitComplete_from h hn
    generalize leaveSelfRefresh s = t at hst hring he
    refine Does.of (show execPsExitComplete s = _ from he) ⟨rfl, rfl, fun h3 c hc hs => ?_, ?_⟩
    · rw [if_pos h3]
      exact hst c hc hs
    · split
      · exact hring
      · rfl
  · intro s h
    refine Does.of (show execRefclkLoss s = _ from if_neg (by simp [h])) ?_
    obtain ⟨ha, -, hr⟩ := rotAlarm_marks 1 { s with pwr := { s.pwr with refLost := true } }
    generalize rotAlarm 1 _ = t at ha hr ⊢
    exact ⟨hr, ha⟩
  · intro s h
    obtain ⟨w, o, a, b, e, n, p, he, hw⟩ := execAonTick_eq h
    refine Does.of (show execAonTick s = _ from he) ⟨rfl, fun tm hm ho => ?_⟩
    by_contra hle
    have hdue : tm ∈ dueTimers (fireDue s.disp.timers.length s) := by
      refine List.mem_filter.2 ⟨hm, ?_⟩
      rw [fireDue_time, ho]
      exact decide_eq_true (Nat.le_of_not_lt hle)
    rw [fireDue_done (List.length_filter_le ..)] at hdue
    cases hdue
  · intro s h hd
    obtain ⟨w, o, a, b, e, n, p, he, hw⟩ := execAonTick_eq h
    rw [fireDue_none hd] at he hw
    exact Does.of (show execAonTick s = _ from he) ⟨rfl, rfl, rfl, rfl, rfl, hw⟩
  · intro l o s h
    refine Does.of (show execObservationWindowEnd l o s = _ from if_neg (by simp [h])) ⟨fun f hf => ?_, fun k hk ho => ?_, rfl, rfl, rfl⟩
    · exact foldl_set_get _ _ _ _ hf
    · exact windowOcc_plain hk ho
  · intro l o s h
    exact (show execObservationWindowEnd l o s = _ from if_pos h)

end Sys2Proof.Machine
end

section
/-!
PROOFS. Power grants, clock limits and parked quadrants (O42).
-/

namespace Sys2Proof.Machine

/-! ## Grants (R509, R510) -/

/-- The request that `requestGrant` puts into the queue. -/
def newGrant (units us level : Nat) (inst : Option Nat) (disc : Bool) (die : Option Nat) (h : Holder) (s : State) : Grant :=
  { id := s.pwr.nextGrant, units := units, us := us, level := level, inst := inst, discretionary := disc, die := die, holder := h,
    given := s.time, expiry := 0 }

theorem grantQueue_one_fits {g : Grant} {s : State} (hf : fits s g = true) :
    grantQueue [g] [] s = giveGrant g { s with pwr := { s.pwr with waits := s.pwr.waits.filter (·.id ≠ g.id) } } := by
  unfold grantQueue
  rw [if_neg (by simp), if_pos hf]
  rfl

theorem grantQueue_one_waits {g : Grant} {s : State} (hf : fits s g = false) : grantQueue [g] [] s = s := by
  unfold grantQueue
  rw [if_neg (by simp), if_neg (by simp [hf])]
  split
  · rfl
  split
  · rfl
  · rfl

section
variable {units us level : Nat} {inst : Option Nat} {disc : Bool} {die : Option Nat} {s : State} (hw : s.pwr.waits = [])
include hw

/-- A request that comes to an empty queue is alone in it. -/
theorem requestGrant_alone : requestGrant units us level inst disc die .other s =
    (let t := grantQueue [newGrant units us level inst disc die .other s] [] { s with pwr := { s.pwr with
       nextGrant := s.pwr.nextGrant + 1, waits := [newGrant units us level inst disc die .other s] } }
     if t.pwr.waits.any (·.id = s.pwr.nextGrant) then setWaitTimer s.pwr.nextGrant { t with pwr := { t.pwr with waitCnt := t.pwr.waitCnt + 1 } }
     else t) := by
  unfold requestGrant
  dsimp only
  rw [hw]
  rfl

/-- With an empty queue a request that fits is given at once. -/
theorem requestGrant_fits (hf : fits s (newGrant units us level inst disc die .other s) = true) : ∃ ts,
    requestGrant units us level inst disc die .other s = { s with
      pwr := { s.pwr with nextGrant := s.pwr.nextGrant + 1, waits := [], grants := s.pwr.grants ++
        [{ newGrant units us level inst disc die .other s with given := s.time, first := s.time, expiry := s.time + 1000 * us }] },
      disp := { s.disp with timers := ts } } := by
  rw [requestGrant_alone hw, grantQueue_one_fits (s := { s with pwr := { s.pwr with
    nextGrant := s.pwr.nextGrant + 1, waits := [newGrant units us level inst disc die .other s] } }) hf]
  have he : [newGrant units us level inst disc die .other s].filter (·.id ≠ (newGrant units us level inst disc die .other s).id) = [] := by
    simp
  dsimp only
  rw [he]
  exact ⟨_, if_neg (by simp [giveGrant, onGrant, dropWaitTimer, newGrant])⟩

/-- With an empty queue a request that does not fit waits, is counted, and asks for a timer. -/
theorem requestGrant_waits (hf : fits s (newGrant units us level inst disc die .other s) = false) :
    requestGrant units us level inst disc die .other s = setWaitTimer s.pwr.nextGrant { s with pwr := { s.pwr with
      nextGrant := s.pwr.nextGrant + 1, waits := [newGrant units us level inst disc die .other s], waitCnt := s.pwr.waitCnt + 1 } } := by
  rw [requestGrant_alone hw, grantQueue_one_waits (s := { s with pwr := { s.pwr with
    nextGrant := s.pwr.nextGrant + 1, waits := [newGrant units us level inst disc die .other s] } }) hf]
  exact if_pos (by simp [newGrant])

end

theorem setWaitTimer_pwr (id : Nat) (s : State) : (setWaitTimer id s).pwr = s.pwr := by
  unfold setWaitTimer
  split
  · rfl
  · rfl

/-- With no request waiting and none revoked, an examination of the queue gives no grant. -/
theorem examineGrants_empty {s : State} (hr : s.pwr.revoked = []) (hw : s.pwr.waits = []) :
    ∃ l, examineGrants s = { s with pwr := { s.pwr with sagLim := l } } := by
  unfold examineGrants
  split
  · refine ⟨s.pwr.sagLim, ?_⟩
    show grantQueue s.pwr.waits [] s = _
    rw [hw]
    rfl
  · obtain ⟨l, e, -⟩ := raiseSags hr 4
    refine ⟨l, ?_⟩
    rw [hr]
    show grantQueue (forBelow raiseSag 4 s).pwr.waits [] (forBelow raiseSag 4 s) = _
    rw [e]
    show grantQueue s.pwr.waits [] _ = _
    rw [hw]
    rfl

/-- The only grant ends, and nothing is waiting for its units. -/
theorem endGrant_only {g : Grant} {s : State} (hg : s.pwr.grants = [g]) (hr : s.pwr.revoked = []) (hw : s.pwr.waits = [])
    (hi : g.inst = none) : (endGrant g.id s).pwr.grants = [] ∧ (endGrant g.id s).pwr.overruns = s.pwr.overruns := by
  have hc : forEach chargeGrant (s.pwr.grants.filter fun x => x.id = g.id) s = s := by
    rw [hg, List.filter_cons_of_pos (by simp)]
    show chargeGrant g s = s
    unfold chargeGrant
    rw [hi]
  have he : ∃ ts, endGrant g.id s = examineGrants { s with
      pwr := { s.pwr with grants := [], revoked := [], waits := [] }, disp := { s.disp with timers := ts } } := by
    unfold endGrant
    dsimp only
    rw [hc, hg, hr, hw]
    exact ⟨_, by simp [dropWaitTimer]; rfl⟩
  obtain ⟨ts, he⟩ := he
  rw [he]
  obtain ⟨l, e⟩ := examineGrants_empty (s := { s with
      pwr := { s.pwr with grants := [], revoked := [], waits := [] }, disp := { s.disp with timers := ts } }) rfl rfl
  rw [e]
  exact ⟨rfl, rfl⟩

section
variable {g : Grant} {s : State} (hg : s.pwr.grants = [g]) (he : g.expiry ≤ s.time)
include hg he

/-- A grant past its length is extended while its holder runs. -/
theorem grantExpiry_extends (hr : holderRuns s g = true) : execGrantExpiry g.id s = .next { s with pwr := { s.pwr with
    overruns := s.pwr.overruns + 1, grants := [{ g with expiry := g.expiry + 1000 * g.us }] } } := by
  unfold execGrantExpiry
  rw [hg]
  simp [Nat.not_lt.2 he, hr]

theorem grantExpiry_ends (hr : holderRuns s g = false) : execGrantExpiry g.id s = .next (endGrant g.id s) := by
  unfold execGrantExpiry
  rw [hg]
  simp [Nat.not_lt.2 he, hr]

end

/-! ## Clock limits (R501, R511, R520) -/

theorem raiseCaps (n : Nat) (s : State) : ∃ l, forBelow (fun d s => { s with pwr := { s.pwr with
      capLim := s.pwr.capLim.set 24 d (raiseLimit (s.pwr.capLim.get 24 d)) } }) n s = { s with pwr := { s.pwr with capLim := l } } ∧
    ∀ d, l.get 24 d = if d < n then min 24 (s.pwr.capLim.get 24 d + 1) else s.pwr.capLim.get 24 d := by
  induction n with
  | zero => exact ⟨s.pwr.capLim, rfl, fun d => rfl⟩
  | succ n ih =>
    obtain ⟨l, e, hl⟩ := ih
    rw [forBelow, e]
    refine ⟨_, rfl, fun d => ?_⟩
    obtain rfl | hne := eq_or_ne d n
    · rw [Tbl.get_set_same, if_pos (Nat.lt_succ_self _)]
      show raiseLimit (l.get 24 d) = _
      rw [hl, if_neg (lt_irrefl _)]
      rfl
    · rw [Tbl.get_set_ne _ _ _ hne]
      simp only [show d < n + 1 ↔ d < n by omega]
      exact hl d

/-- Settles O42. -/
theorem admissionAndClocks : Obligations.AdmissionAndClocks := by
  unfold Obligations.AdmissionAndClocks
  refine ⟨?_, ?_, fun s => rfl, ?_, ?_, ?_, ?_, ?_, ?_, ?_, ?_, ?_, ?_⟩
  · intro units us level inst disc die s hw hs hsag hred hfit
    have hf : fits s (newGrant units us level inst disc die .other s) = true := by
      simp [fits, newGrant, hs, hsag, hred, hfit]
    obtain ⟨ts, e⟩ := requestGrant_fits hw hf
    refine Does.of (show execAdmissionRequest units us level inst disc die s = _ from next_congr e) ?_
    exact ⟨rfl, rfl, _, rfl, rfl, rfl, rfl, rfl, rfl, rfl⟩
  · intro units us level inst disc die s hw hs hfit
    have hf : fits s (newGrant units us level inst disc die .other s) = false := by
      simp [fits, newGrant, hs, Nat.not_le.2 hfit]
    refine Does.of (show execAdmissionRequest units us level inst disc die s = _ from next_congr (requestGrant_waits hw hf)) ?_
    rw [setWaitTimer_pwr]
    exact ⟨rfl, rfl, _, rfl, rfl⟩
  · intro s hr hw
    obtain ⟨l, e⟩ := examineGrants_empty hr hw
    exact Does.of (show execGrantGiven s = _ from next_congr e) rfl
  · intro g s hg hr hw hi
    exact Does.of (show execGrantRelease g.id s = _ from if_pos (by simp [hg])) (endGrant_only hg hr hw hi).1
  · intro g s hg he hr
    exact (show execGrantExpiry g.id s = _ from grantExpiry_extends hg he hr)
  · intro g s hg hr hw hi he hn
    exact Does.of (show execGrantExpiry g.id s = _ from grantExpiry_ends hg he hn) (endGrant_only hg hr hw hi)
  · intro s hs hm
    obtain ⟨l, e, hl⟩ := raiseCaps 4 s
    refine Does.of (show execCapLimitRise s = _ from (if_neg (by simp [hs, hm])).trans (next_congr e)) ⟨fun d hd => ?_, rfl⟩
    exact (hl d).trans (if_pos hd)
  · intro s hm
    exact (show execCapLimitRise s = _ from if_pos (.inr hm))
  · intro d s hs hd ht
    refine Does.of (show execThermalLimitRise d s = _ from if_neg (by simp only [hs, ht]; simp; omega)) ⟨Tbl.get_set_same .., rfl⟩
  · intro d s hd
    refine Does.of (show execFrondClockStep d s = _ from if_neg (by omega)) ⟨fun h => ?_, fun h => ?_, fun h => ?_, rfl⟩
    · exact (Tbl.get_set_same ..).trans (if_pos h)
    · exact (Tbl.get_set_same ..).trans ((if_neg (by omega)).trans (if_pos h))
    · exact (Tbl.get_set_same ..).trans ((if_neg (by omega)).trans (if_neg (by omega)))
  · intro q s hq ha hs hwm hi
    exact Does.of (t := { s with pwr := { s.pwr with parked := s.pwr.parked.set false q true } })
      (show execQuadrantPark q s = _ from if_pos ⟨hq, ha, by simp [hs], by simp [hwm], hi⟩)
      ⟨Tbl.get_set_same false s.pwr.parked q true, rfl⟩
  · intro q s h
    refine (show execQuadrantPark q s = _ from if_neg ?_)
    rintro ⟨-, -, h1, h2, h3⟩
    obtain h | h | h := h
    · simp [h] at h1
    · simp [h] at h2
    · simp [h] at h3

end Sys2Proof.Machine
end

section
/-!
PROOFS. What follows a telemetry sample: mirrors, rollups, limits and grants leave the sample as it was taken.
-/

namespace Sys2Proof.Machine

/-- From s₀ to s the rings and what the newest sample has stored are unchanged. -/
structure Sampled (s₀ s : State) : Prop where
  ring : s.ring = s₀.ring
  time : s.time = s₀.time
  samples : s.tel.samples = s₀.tel.samples
  vinMv : s.tel.vinMv = s₀.tel.vinMv
  iin : s.tel.iin = s₀.tel.iin
  measured : s.pwr.measured = s₀.pwr.measured

theorem Sampled.refl (s : State) : Sampled s s := ⟨rfl, rfl, rfl, rfl, rfl, rfl⟩

section
variable {s₀ s t : State}

/-- An update of the parts that `Sampled` does not name. -/
theorem Sampled.upd {pending seed fronds disp mem eng store insts mbx haw log mp pwr tel sec lnk pads out} (h : Sampled s₀ s)
    (h_samples : tel.samples = s.tel.samples := by rfl)
    (h_vinMv : tel.vinMv = s.tel.vinMv := by rfl)
    (h_iin : tel.iin = s.tel.iin := by rfl)
    (h_measured : pwr.measured = s.pwr.measured := by rfl) :
    Sampled s₀ { s with pending, seed, fronds, disp, mem, eng, store, insts, mbx, haw, log, mp, pwr, tel, sec, lnk, pads, out } :=
  { h with 
    samples := h_samples.trans h.samples,
    vinMv := h_vinMv.trans h.vinMv,
    iin := h_iin.trans h.iin,
    measured := h_measured.trans h.measured }

theorem Sampled.ite {c : Prop} [Decidable c] (h : Sampled s₀ s) (k : Sampled s₀ t) : Sampled s₀ (if c then s else t) := by
  split
  · exact h
  · exact k

theorem Sampled.forEach {β : Type} {f : β → State → State} {l : List β} (h : Sampled s₀ s)
    (hf : ∀ b t, Sampled s₀ t → Sampled s₀ (f b t)) : Sampled s₀ (Machine.forEach f l s) :=
  forEach_keeps (fun b _ t => hf b t) h

theorem Sampled.forBelow {f : Nat → State → State} {n : Nat} (h : Sampled s₀ s) (hf : ∀ b t, Sampled s₀ t → Sampled s₀ (f b t)) :
    Sampled s₀ (Machine.forBelow f n s) := by
  induction n with
  | zero => exact h
  | succ n ih => exact hf _ _ ih

theorem Sampled.foldl {β : Type} {f : State → β → State} {l : List β} (h : Sampled s₀ s) (hf : ∀ b t, Sampled s₀ t → Sampled s₀ (f t b)) :
    Sampled s₀ (l.foldl f s) := by
  induction l generalizing s with
  | nil => exact h
  | cons b l ih => exact ih (hf b s h)

theorem Sampled.forEachSnd {α β : Type} {f : β → α × State → α × State} {l : List β} {p : α × State} (h : Sampled s₀ p.2)
    (hf : ∀ b p, Sampled s₀ p.2 → Sampled s₀ (f b p).2) : Sampled s₀ (Machine.forEach f l p).2 := by
  induction l generalizing p with
  | nil => exact h
  | cons b l ih => exact ih (hf b p h)

theorem Sampled.foldlSnd {α β : Type} {f : α × State → β → α × State} {l : List β} {p : α × State} (h : Sampled s₀ p.2)
    (hf : ∀ b p, Sampled s₀ p.2 → Sampled s₀ (f p b).2) : Sampled s₀ (l.foldl f p).2 := by
  induction l generalizing p with
  | nil => exact h
  | cons b l ih => exact ih (hf b p h)

theorem Sampled.of_snd_snd {α β : Type} {p : α × β × State} {a : α} {b : β} (h : Sampled s₀ p.2.2) (e : p = (a, b, t)) : Sampled s₀ t := by
  rw [e] at h; exact h

/-- The state of a result. -/
theorem Sampled.of_snd {α : Type} {p : α × State} {a : α} (h : Sampled s₀ p.2) (e : p = (a, t)) : Sampled s₀ t := by
  rw [e] at h; exact h

end

end Sys2Proof.Machine
end

section
namespace Sys2Proof.Machine

section
-- Each of these short lemmas would else wait in a thread of its own.
set_option Elab.async false
variable {s₀ s t : State}

theorem Sampled.setChan {c : Nat} {x : Chan} (h : Sampled s₀ s) : Sampled s₀ (s.setChan c x) := h.upd

theorem Sampled.setCmu {u : Nat} {x : CmuUnit} (h : Sampled s₀ s) : Sampled s₀ (s.setCmu u x) := h.upd

theorem Sampled.setSmu {u : Nat} {x : SmuUnit} (h : Sampled s₀ s) : Sampled s₀ (s.setSmu u x) := h.upd

theorem Sampled.setDgu {u : Nat} {x : DguUnit} (h : Sampled s₀ s) : Sampled s₀ (s.setDgu u x) := h.upd

theorem Sampled.setLink {l : Nat} {x : Link} (h : Sampled s₀ s) : Sampled s₀ (s.setLink l x) := h.upd

theorem Sampled.logOne {code src inst detail : Nat} (h : Sampled s₀ s) : Sampled s₀ (logOne code src inst detail s) := h.upd

theorem Sampled.logEvent {code src inst detail : Nat} {ext : Option Nat} (h : Sampled s₀ s) :
    Sampled s₀ (logEvent code src inst detail ext s) := by
  unfold Machine.logEvent
  split
  · exact h.logOne
  · exact h.logOne.logOne

theorem Sampled.setFrame {f : Nat} {x : Frame} (h : Sampled s₀ s) : Sampled s₀ (s.setFrame f x) := h.upd

theorem Sampled.colourFault {req : Option Nat} {a found : Nat} (h : Sampled s₀ s) : Sampled s₀ (colourFault req a found s) := by
  unfold Machine.colourFault
  exact h.upd.logEvent

theorem Sampled.uncorrectable {req : Option Nat} {a : Nat} (h : Sampled s₀ s) : Sampled s₀ (uncorrectable req a s) := by
  unfold Machine.uncorrectable
  exact .logEvent (.upd (.ite h.setChan h.setChan.setFrame))

theorem Sampled.onGrant {g : Grant} (h : Sampled s₀ s) : Sampled s₀ (onGrant g s) := by
  unfold Machine.onGrant
  split
  · exact h.upd
  · dsimp only
    split
    · exact .ite h.upd h.upd
    · exact .ite (.ite h.upd h.upd) (.setFrame (.ite h.upd h.upd))
  · exact h.setSmu
  · exact h.setCmu
  · exact .ite h.setLink h
  · exact h

theorem Sampled.dropWaitTimer {id : Nat} (h : Sampled s₀ s) : Sampled s₀ (dropWaitTimer id s) := h.upd

theorem Sampled.giveGrant {g : Grant} (h : Sampled s₀ s) : Sampled s₀ (giveGrant g s) := h.upd.dropWaitTimer.onGrant

theorem Sampled.grantQueue {a : List Grant} {a1 : List (Option Nat)} (h : Sampled s₀ s) : Sampled s₀ (grantQueue a a1 s) := by
  induction a generalizing a1 s with
  | nil =>
    unfold Machine.grantQueue
    exact h
  | cons b l ih =>
    unfold Machine.grantQueue
    dsimp only
    exact .ite (ih h) (.ite (ih h.upd.giveGrant) (.ite (ih h) (.ite (ih h) h)))

theorem Sampled.reinstate {a : List Grant} {a1 : List (Option Nat)} (h : Sampled s₀ s) : Sampled s₀ (reinstate a a1 s) := by
  induction a generalizing a1 s with
  | nil =>
    unfold Machine.reinstate
    exact h
  | cons b l ih =>
    unfold Machine.reinstate
    dsimp only
    exact .ite (ih h) (.ite (ih h.upd.onGrant) (.ite (ih h) h))

theorem Sampled.raiseSag {d : Nat} (h : Sampled s₀ s) : Sampled s₀ (raiseSag d s) := .ite h h.upd

theorem Sampled.examineGrants (h : Sampled s₀ s) : Sampled s₀ (examineGrants s) :=
  .grantQueue (.ite h (h.reinstate.forBelow (fun _ _ h1 => h1.raiseSag)))

theorem Sampled.pumpGo {l : Nat} {fs : List Flit} {blocked : List Nat} (h : Sampled s₀ s) :
    Sampled s₀ (pumpGo l fs blocked s) := by
  induction fs generalizing blocked s with
  | nil => exact h
  | cons b fs ih =>
    unfold Machine.pumpGo
    dsimp only
    exact .ite h (.ite (ih h) (ih h.setLink.upd))

theorem Sampled.pump {l : Nat} (h : Sampled s₀ s) : Sampled s₀ (pump l s) := h.pumpGo

theorem Sampled.linkBytes {vc : Nat} {own : Option (Nat × Nat)} {f : RFrame} {b : List Byte} (h : Sampled s₀ s) :
    Sampled s₀ (linkBytes vc own f b s) := .ite h h.setLink.upd.pump

theorem Sampled.linkFrame {level : Nat} {f : RFrame} (h : Sampled s₀ s) : Sampled s₀ (linkFrame level f s) := h.linkBytes

theorem Sampled.sendFrame {ft hops : Nat} {route : W32} {inst : Nat} {xid : W64} {level : Nat} {payload : List Byte}
    (h : Sampled s₀ s) :
    Sampled s₀ (sendFrame ft hops route inst xid level payload s) := .linkFrame (.ite h.upd h.upd.upd)

theorem Sampled.throttleTo {u temp : Nat} (h : Sampled s₀ s) : Sampled s₀ (throttleTo u temp s) := .ite h.setCmu.logEvent h.setCmu

theorem Sampled.memTemps (h : Sampled s₀ s) : Sampled s₀ (memTemps s) := .upd (h.forBelow (fun _ _ h1 => h1.setChan))

theorem Sampled.capLoop {p : Nat} (h : Sampled s₀ s) : Sampled s₀ (capLoop p s) :=
  .upd (.ite (h.forBelow (fun _ _ h1 => h1.upd)) h)

theorem Sampled.thermLoop (h : Sampled s₀ s) : Sampled s₀ (thermLoop s) := .ite h (h.forBelow (fun _ _ h1 => .ite h1.upd h1))

theorem Sampled.mirrorFn {fn : Nat} (h : Sampled s₀ s) : Sampled s₀ (mirrorFn fn s) := h.upd

theorem Sampled.mirrorAll (h : Sampled s₀ s) : Sampled s₀ (mirrorAll s) := h.upd.forEach fun _ _ h1 => h1.mirrorFn

theorem Sampled.sendRollup (h : Sampled s₀ s) : Sampled s₀ (sendRollup s) := .ite h.sendFrame h

theorem Sampled.cmuFollow {u : Nat} (h : Sampled s₀ s) : Sampled s₀ (cmuFollow u s) := h.throttleTo.setCmu

theorem Sampled.cmuSample {u : Nat} (h : Sampled s₀ s) : Sampled s₀ (cmuSample u s) := h.cmuFollow.setCmu

end

end Sys2Proof.Machine
end

section
/-!
PROOFS. Telemetry samples, calibration and log reads (O40).
-/

namespace Sys2Proof.Machine

/-- A sample is counted, and gives the input power. -/
theorem telemetrySample_does {x : Sample} {s : State} (ht : s.time % 100000 = 0) (hr : s.pads.inReset = false) :
    Does (.telemetrySample x) s fun t => t.tel.samples = s.tel.samples + 1 ∧ t.pwr.measured = inputPower x ∧ t.tel.vinMv = x.vinMv ∧
      t.tel.iin = x.iin ∧ t.ring = s.ring := by
  show ∃ t, execTelemetrySample x s = .next t ∧ _
  unfold execTelemetrySample
  rw [if_neg (by simp [ht, hr])]
  extract_lets p tel taken hot tel' stored followed pwr measured limited
  have h₁ : Sampled stored followed := (Sampled.refl stored).memTemps.forBelow fun _ _ h => h.cmuSample
  have h₂ : Sampled measured limited := (Sampled.refl measured).capLoop.thermLoop.examineGrants
  clear_value limited followed
  have post : ∀ t, Sampled limited t → t.tel.samples = s.tel.samples + 1 ∧ t.pwr.measured = inputPower x ∧ t.tel.vinMv = x.vinMv ∧
      t.tel.iin = x.iin ∧ t.ring = s.ring := fun t h =>
    ⟨(h.samples.trans h₂.samples).trans h₁.samples, h.measured.trans h₂.measured, (h.vinMv.trans h₂.vinMv).trans h₁.vinMv,
      (h.iin.trans h₂.iin).trans h₁.iin, (h.ring.trans h₂.ring).trans h₁.ring⟩
  split
  · exact ⟨_, rfl, post _ (.refl _)⟩
  · have hm : Sampled limited (if limited.tel.mirror then mirrorAll limited else limited) := .ite (Sampled.refl _).mirrorAll (.refl _)
    exact ⟨_, rfl, post _ (.ite hm.sendRollup hm)⟩

theorem hostWrite_up {p fn a : Nat} {d : List Byte} {s : State} (h : (s.hostPort p).up = true) :
    hostWrite p fn a d s = { s with out := { s.out with host := s.out.host ++ [.write p fn a d] } } := hostOut_up h

/-- A response that raises no interrupt changes the mailbox and the number of outputs only. -/
theorem endMbx_quiet (fn err detail off : Nat) (payload : List Byte) {s : State} (ha : s.mp.arbitrating = false)
    (hi : (s.getMbx fn).irq = false) : endMbx fn err detail off payload s = { s with
      mp := { s.mp with outSeq := s.mp.outSeq + 1 },
      mbx := s.mbx.set Mbx.reset fn (answered (s.getMbx fn) err detail off payload) } := by
  unfold endMbx
  rw [gateOut_open _ _ _ ha]
  exact if_neg (by simp [State.getMbx] at hi ⊢; exact hi)

theorem entBytes_flatten {l : List (Nat × LogEnt)} (h : l ≠ []) : (l.map fun x => entBytes x.2).flatten.isEmpty = false := by
  obtain ⟨x, l, rfl⟩ := List.exists_cons_of_ne_nil h
  simp [entBytes]

/-- Settles O40. -/
theorem telemetryAndLog : Obligations.TelemetryAndLog := by
  unfold Obligations.TelemetryAndLog
  refine ⟨fun x s ht hr => telemetrySample_does ht hr, fun x s h => ?_, fun l s => rfl, ?_, fun a n s => rfl⟩
  · exact (show execTelemetrySample x s = _ from if_pos (.inl h))
  · intro fn s hm ha hl h16 h64 hup hirq hne
    show ∃ t, execLogRead fn s = .next t ∧ _
    unfold execLogRead
    rw [onMbx_runs hm]
    dsimp only
    rw [if_neg (by simp [ha]), if_neg (by omega), if_neg (by simp [entBytes_flatten hne]), hostWrite_up hup]
    generalize hw : ({ s with out := { s.out with host := _ } } : State) = t
    generalize (_ ++ _ : List Byte) = pl
    have ha : t.mp.arbitrating = false := by rw [← hw]; exact hm.gateOpen
    refine ⟨_, rfl, endMbx_ended _ _ _ _ _ ha, ?_⟩
    rw [endMbx_quiet _ _ _ _ _ ha (by rw [← hw]; exact hirq), ← hw]
    exact ⟨rfl, rfl⟩

end Sys2Proof.Machine
end

section
/-!
PROOFS. The management pair: arbitration, self-test, rejoin and return (O41).
-/

namespace Sys2Proof.Machine

/-! ## What a switch and the opening of the gate do -/

/-- MC_SWITCH: one entry of the log, and events to the instances. -/
theorem mcSwitch_eq (act : Bool) (cause : Nat) (s : State) : ∃ l v h w x, mcSwitch act cause s =
    { s with log := l, haw := v, out := { s.out with host := h }, lnk := { s.lnk with hp := w, msixPend := x } } ∧
    l.next = s.log.next + 1 := by
  obtain ⟨v, h, w, x, e⟩ := hawEventAll_eq 4 (logEvent 0x0701 0x00 0 ((if act then 1 else 0) + 16 * cause) none s)
  obtain ⟨l, hl⟩ := logEvent_eq 0x0701 0x00 0 ((if act then 1 else 0) + 16 * cause) none s
  have hn := logEvent_next 0x0701 0x00 0 ((if act then 1 else 0) + 16 * cause) s
  rw [hl] at e hn
  refine ⟨l, v, h, w, x, ?_, hn⟩
  unfold mcSwitch
  rw [hl]
  exact e

theorem foldl_keeps {α β : Type} {P : α → Prop} {f : α → β → α} {l : List β} {a : α} (h : P a) (hf : ∀ a b, P a → P (f a b)) :
    P (l.foldl f a) := by
  induction l generalizing a with
  | nil => exact h
  | cons b l ih => exact ih (hf a b h)

theorem openGate_mp (s : State) : (openGate s).mp = { s.mp with gate := [] } := by
  unfold openGate
  refine foldl_keeps (P := fun t : State => t.mp = { s.mp with gate := [] }) rfl fun t e ht => ?_
  split
  · obtain ⟨h, w, x, e⟩ := respond_eq _ _ _ _ _ t
    rw [e]
    exact ht
  · obtain ⟨l, e⟩ := logEvent_eq _ _ _ _ _ t
    rw [e]
    exact ht

theorem openGate_empty {s : State} (h : s.mp.gate = []) : openGate s = s := by
  unfold openGate
  rw [h]
  show ({ s with mp := { s.mp with gate := [] } } : State) = s
  rw [← h]

/-- The one response that the gate held goes out. -/
theorem openGate_response {s : State} {n : W32} {fn err d off : Nat} {pl : List Byte} (h : s.mp.gate = [(n, .response fn err d off pl)]) :
    openGate s = respond fn err d off pl { s with mp := { s.mp with gate := [] } } := by
  unfold openGate
  rw [h]
  rfl

theorem respond_ended (fn err d off : Nat) (pl : List Byte) (s : State) : MbxEnded fn err (respond fn err d off pl s) := by
  obtain ⟨h, w, x, e⟩ := respond_eq fn err d off pl s
  unfold MbxEnded
  rw [e]
  have hm : State.getMbx { s with
    mbx := s.mbx.set Mbx.reset fn (answered (s.getMbx fn) err d off pl), out := { s.out with host := h },
    lnk := { s.lnk with hp := w, msixPend := x } } fn = answered (s.getMbx fn) err d off pl := Tbl.get_set_same ..
  rw [hm]
  exact ⟨rfl, rfl⟩

/-! ## Arbitration (R489 to R493) -/

theorem beginArb_lockstep {c : Nat} {s : State} (h : s.mp.lockstep = true) : beginArb c s = { s with mp := { s.mp with
    arbitrating := true, arbCause := c, arbSecond := false, arbFrom := s.time, arbs := s.mp.arbs + 1, stA := .testing, stB := .testing } } := by
  unfold beginArb setCore
  cases ha : s.mp.actSel <;> simp [h, ha]

/-- In lockstep a fault of a core that is in service begins an arbitration. -/
theorem coreFault_lockstep {n : Nat} {c : Bool} {s : State} (ha : s.mp.arbitrating = false) (hr : s.pads.inReset = false)
    (hl : s.mp.lockstep = true) (hc : coreSt c s ≠ .out) : coreFault n c s = beginArb n s := by
  unfold coreFault
  rw [if_neg (by simp [ha, hr, hc]), if_pos hl]

theorem modHealth_eq (c : Bool) (f : McHealth → McHealth) (s : State) : modHealth c f s = { s with mp := (modHealth c f s).mp } := by
  cases c <;> rfl

/-- What the end of an arbitration makes of the pair, before the gate opens. -/
def arbOver (s : State) : MpSt :=
  let m := (modHealth s.mp.actSel (fun h => { h with contOk := false }) s).mp
  { m with
    arbitrating := false, lastUs := BitVec.ofNat 32 (min ((s.time - m.arbFrom) / 1000) (2 ^ 32 - 1)),
    returnFrom := if m.actSel && m.lockstep then some s.time else none }

/-- An arbitration that ends is logged once, and the gate opens. -/
theorem endArb_eq (s : State) : ∃ l v h w x, endArb s = openGate { s with
    mp := arbOver s, log := l, haw := v, out := { s.out with host := h }, lnk := { s.lnk with hp := w, msixPend := x } } ∧
    l.next = s.log.next + 1 := by
  unfold endArb
  dsimp only
  rw [modHealth_eq]
  obtain ⟨l, v, h, w, x, e, hl⟩ := mcSwitch_eq (modHealth s.mp.actSel (fun h => { h with contOk := false }) s).mp.actSel
    (modHealth s.mp.actSel (fun h => { h with contOk := false }) s).mp.arbCause
    { s with mp := { (modHealth s.mp.actSel (fun h => { h with contOk := false }) s).mp with
      arbitrating := false,
      lastUs := BitVec.ofNat 32 (min ((s.time - (modHealth s.mp.actSel (fun h => { h with contOk := false }) s).mp.arbFrom) / 1000) (2 ^ 32 - 1)) } }
  refine ⟨l, v, h, w, x, ?_, hl⟩
  unfold logSwitch countReturn
  dsimp only
  rw [e]
  rfl

/-- An arbitration that ends in a state: its pair, without what the gate held. -/
theorem endArb_mp (s : State) : (endArb s).mp = { arbOver s with gate := [] } := by
  obtain ⟨l, v, h, w, x, e, -⟩ := endArb_eq s
  rw [e, openGate_mp]

/-- The end of an arbitration leaves the cores in their states. -/
theorem arbOver_pair (s : State) : (arbOver s).arbitrating = false ∧ (arbOver s).actSel = s.mp.actSel ∧ (arbOver s).stA = s.mp.stA ∧
    (arbOver s).stB = s.mp.stB ∧ (arbOver s).lockstep = s.mp.lockstep ∧ (arbOver s).outSeq = s.mp.outSeq ∧
    (arbOver s).healthA.failSlice = s.mp.healthA.failSlice ∧ (arbOver s).healthB.failSlice = s.mp.healthB.failSlice := by
  cases h : s.mp.actSel <;> simp [arbOver, modHealth, h]

theorem arbOver_gate (s : State) : (arbOver s).gate = s.mp.gate := by
  cases h : s.mp.actSel <;> simp [arbOver, modHealth, h]

theorem endArb_log {s : State} (h : s.mp.gate = []) : (endArb s).log.next = s.log.next + 1 := by
  obtain ⟨l, v, o, w, x, e, hl⟩ := endArb_eq s
  rw [e, openGate_empty (s := { s with
    mp := arbOver s, log := l, haw := v, out := { s.out with host := o }, lnk := { s.lnk with hp := w, msixPend := x } }) ((arbOver_gate s).trans h)]
  exact hl

theorem endArb_response {s : State} {n : W32} {fn err d off : Nat} {pl : List Byte} (h : s.mp.gate = [(n, .response fn err d off pl)]) :
    MbxEnded fn err (endArb s) := by
  obtain ⟨l, v, o, w, x, e, hl⟩ := endArb_eq s
  rw [e, openGate_response (s := { s with
    mp := arbOver s, log := l, haw := v, out := { s.out with host := o }, lnk := { s.lnk with hp := w, msixPend := x } }) ((arbOver_gate s).trans h)]
  exact respond_ended ..

/-- What a self-test of both cores leaves in the pair's health. -/
def tested (failA failB : Bool) (x y : Byte) (s : State) : State := testResult true failB y (testResult false failA x s)

section
variable {s : State} {x y : Byte} (ha : s.mp.arbitrating = true) (hl : s.mp.lockstep = true)
include ha hl

/-- Both cores pass: the arbitration ends as it began. -/
theorem verdict_pass (hc : s.mp.arbCause ≠ 1) : execArbitrationVerdict false false x y s =
    .next (endArb (setCore (!s.mp.actSel) .standby (setCore s.mp.actSel .active (tested false false x y s)))) := by
  unfold execArbitrationVerdict
  simp [ha, hl, hc, tested, testResult, modHealth, setCore]

/-- MC-B fails: it is taken out and MC-A goes on alone. -/
theorem verdict_failB (hs : s.mp.actSel = false) : execArbitrationVerdict false true x y s =
    .next (endArb (takeOut true { tested false true x y s with mp := { (tested false true x y s).mp with stA := .active } })) := by
  unfold execArbitrationVerdict
  simp [ha, hl, hs, tested, testResult, modHealth, setCore]

/-- MC-A fails: it is taken out and MC-B goes on alone. -/
theorem verdict_failA (hs : s.mp.actSel = false) : execArbitrationVerdict true false x y s =
    .next (endArb (setCore true .active (takeOut false { tested true false x y s with mp := { (tested true false x y s).mp with actSel := true } }))) := by
  unfold execArbitrationVerdict
  simp [ha, hl, hs, tested, testResult, modHealth, setCore]

end

/-! ## Sweeps, retests, rejoining and the return (R494 to R496) -/

section
variable {s : State} {x : Byte} (hr : s.pads.inReset = false) (hs : s.mp.actSel = false)

section
variable (hl : s.mp.lockstep = true) (ha : s.mp.arbitrating = false)
include hl ha hr hs

theorem sweep_fails : execStandbySweepDone false x s = .next (mcSwitch false 3 (takeOut true (modHealth true (fun h => { h with
    contOk := false, contFail := true, failSlice := x }) s))) := by
  unfold execStandbySweepDone
  simp [hl, ha, hr, hs, logSwitch, takeOut, setCore, modHealth]

theorem sweep_passes : execStandbySweepDone true x s = .next (modHealth true (fun h => { h with contOk := true, contFail := false }) s) := by
  unfold execStandbySweepDone
  simp [hl, ha, hr, hs]

end

section
variable (hb : s.mp.stB = .out) (ha : s.mp.arbitrating = false) (hn : s.mp.healthB.retests < 3)
include hb ha hn hr hs

theorem retest_passes : execMcRetest true x s = .next (setCore true .testing (testResult true false x s)) := by
  unfold execMcRetest
  simp [hb, ha, hr, hs, coreSt, healthOf, hn]

theorem retest_fails : execMcRetest false x s =
    .next (modHealth true (fun h => { h with retests := h.retests + 1 }) (testResult true true x s)) := by
  unfold execMcRetest
  simp [hb, ha, hr, hs, coreSt, healthOf, hn]

end

end

theorem rejoin_eq (hl : s.mp.lockstep = false) (ha : s.mp.arbitrating = false) (hv : s.mp.activating = false) (hr : s.pads.inReset = false)
    (hs : s.mp.actSel = false) (hb : s.mp.stB = .testing) : execMcRejoin s =
      .next (mcSwitch false 6 { s with mp := { s.mp with lockstep := true, stB := .standby, returnFrom := none } }) := by
  unfold execMcRejoin
  simp [hl, ha, hv, hr, hs, hb, coreSt, setCore, logSwitch, countReturn]

theorem return_eq {t : Nat} (hs : s.mp.actSel = true) (hl : s.mp.lockstep = true) (ha : s.mp.arbitrating = false)
    (hv : s.mp.activating = false) (hr : s.pads.inReset = false) (hf : s.mp.returnFrom = some t) (ht : t + 100000000 ≤ s.time) :
    execMcReturn s = .next (mcSwitch false 4 { s with mp := { s.mp with
      actSel := false, stA := .active, stB := .standby, returnFrom := none, healthA := { s.mp.healthA with contOk := false } } }) := by
  unfold execMcReturn
  rw [if_neg (by simp [hs, hl, ha, hv, hr]), hf]
  dsimp only
  rw [if_neg (by omega)]
  rfl

/-- Settles O41. -/
theorem lichenPair : Obligations.LichenPair := by
  unfold Obligations.LichenPair
  refine ⟨?_, ?_, ?_, ?_, ?_, ?_, ?_, ?_, ?_, ?_, ?_, ?_, ?_, ?_, ?_, ?_, ?_⟩
  · intro s ha hr hl
    exact Does.of (show execMcDiverge s = _ from (if_neg (by simp [ha, hr, hl])).trans (next_congr (beginArb_lockstep hl)))
      ⟨rfl, rfl, rfl, rfl, rfl, rfl, rfl, rfl⟩
  · intro s h
    exact (show execMcDiverge s = _ from if_pos (by simp [h]))
  · intro c s ha hr hl hc
    exact Does.of (show execMcWatchdog c s = _ from next_congr ((coreFault_lockstep ha hr hl hc).trans (beginArb_lockstep hl))) ⟨rfl, rfl, rfl⟩
  · intro c s ha hr hl hc
    exact Does.of (show execMcCoreFault c s = _ from next_congr ((coreFault_lockstep ha hr hl hc).trans (beginArb_lockstep hl))) ⟨rfl, rfl, rfl⟩
  · intro s ha hr hl hact hc
    have hab : abandonActivation s = s := if_neg (by simp [hact])
    have e : coreFault 2 (!s.mp.actSel) s = takeOut (!s.mp.actSel) s := by
      unfold coreFault
      rw [if_neg (by simp [ha, hr, hc]), if_neg (by simp [hl])]
      dsimp only
      rw [hab, if_neg (by simp)]
    refine Does.of (show execMcCoreFault (!s.mp.actSel) s = _ from next_congr e) ?_
    refine ⟨?_, ?_, ?_⟩ <;> cases h : s.mp.actSel <;> simp [coreSt, takeOut, setCore, modHealth, ha, h]
  · intro x y s ha hl hs hc
    refine Does.of (show execArbitrationVerdict false false x y s = _ from verdict_pass ha hl hc) ?_
    rw [hs]
    obtain ⟨h1, h2, h3, h4, h5, -⟩ := arbOver_pair (setCore (!false) .standby (setCore false .active (tested false false x y s)))
    rw [endArb_mp]
    exact ⟨h1, h2.trans hs, h3, h4, h5.trans hl, rfl, fun h => endArb_log h⟩
  · intro fn err d off pl s ha
    exact gateOut_closed _ _ _ ha
  · intro fn err d off pl s ha
    refine ⟨endMbx_ended _ _ _ _ _ ha, ?_⟩
    obtain ⟨h, w, x, e⟩ := endMbx_eq fn err d off pl ha
    rw [e]
  · intro n fn err d off pl x y s ha hl hc hg
    have hm : ∀ c a : Bool, (setCore c .standby (setCore a .active (tested false false x y s))).mp.gate = s.mp.gate ∧
        (setCore c .standby (setCore a .active (tested false false x y s))).mp.outSeq = s.mp.outSeq := by
      rintro (_ | _) (_ | _) <;> exact ⟨rfl, rfl⟩
    obtain ⟨hgate, hseq⟩ := hm (!s.mp.actSel) s.mp.actSel
    refine Does.of (show execArbitrationVerdict false false x y s = _ from verdict_pass ha hl hc)
      ⟨endArb_response (hgate.trans hg), ?_, ?_⟩
    · rw [endArb_mp]
    · rw [endArb_mp]
      obtain ⟨-, -, -, -, -, h6, -⟩ := arbOver_pair (setCore (!s.mp.actSel) .standby (setCore s.mp.actSel .active (tested false false x y s)))
      exact h6.trans hseq
  · intro x y s ha hl hs
    refine Does.of (show execArbitrationVerdict true false x y s = _ from verdict_failA ha hl hs) ?_
    obtain ⟨h1, h2, h3, h4, h5, -, h7, -⟩ := arbOver_pair
      (setCore true .active (takeOut false { tested true false x y s with mp := { (tested true false x y s).mp with actSel := true } }))
    rw [endArb_mp]
    exact ⟨h1, h2, h3, h4, h5, h7⟩
  · intro x y s ha hl hs
    refine Does.of (show execArbitrationVerdict false true x y s = _ from verdict_failB ha hl hs) ?_
    obtain ⟨h1, h2, h3, h4, h5, -, -, h8⟩ := arbOver_pair
      (takeOut true { tested false true x y s with mp := { (tested false true x y s).mp with stA := .active } })
    rw [endArb_mp]
    exact ⟨h1, h2.trans hs, h3, h4, h5, h8⟩
  · intro x s hl ha hr hs
    obtain ⟨l, v, h, w, z, e, -⟩ := mcSwitch_eq false 3 (takeOut true (modHealth true (fun h => { h with
      contOk := false, contFail := true, failSlice := x }) s))
    refine Does.of (show execStandbySweepDone false x s = _ from (sweep_fails hr hs hl ha).trans (next_congr e)) ?_
    exact ⟨rfl, rfl, rfl, rfl, hs⟩
  · intro x s hl ha hr hs
    exact Does.of (show execStandbySweepDone true x s = _ from sweep_passes hr hs hl ha) ⟨rfl, rfl, hl, rfl⟩
  · intro x s hs hb ha hr hn
    exact Does.of (show execMcRetest true x s = _ from retest_passes hr hs hb ha hn) ⟨rfl, rfl, rfl⟩
  · intro x s hs hb ha hr hn
    exact Does.of (show execMcRetest false x s = _ from retest_fails hr hs hb ha hn) ⟨hb, rfl, rfl⟩
  · intro s hl ha hv hr hs hb
    obtain ⟨l, v, h, w, z, e, hn⟩ := mcSwitch_eq false 6 { s with mp := { s.mp with lockstep := true, stB := .standby, returnFrom := none } }
    exact Does.of (show execMcRejoin s = _ from (rejoin_eq hl ha hv hr hs hb).trans (next_congr e)) ⟨rfl, rfl, hn⟩
  · intro t s hs hl ha hv hr hf ht
    obtain ⟨l, v, h, w, z, e, hn⟩ := mcSwitch_eq false 4 { s with mp := { s.mp with
      actSel := false, stA := .active, stB := .standby, returnFrom := none, healthA := { s.mp.healthA with contOk := false } } }
    exact Does.of (show execMcReturn s = _ from (return_eq hs hl ha hv hr hf ht).trans (next_congr e)) ⟨rfl, rfl, rfl, hn⟩

end Sys2Proof.Machine
end

section
/-!
PROOFS. Staging and activation of firmware (O39).
-/

namespace Sys2Proof.Machine

/-! ## What the firmware tells -/

/-- Only what the firmware tells differs: mailboxes, events, the log and what goes to the host. -/
def Told (s t : State) : Prop :=
  ∃ m n b o w x l v, t = { s with
    mp := { s.mp with outSeq := n, gate := m }, mbx := b, out := { s.out with host := o }, lnk := { s.lnk with hp := w, msixPend := x },
    log := l, haw := v }

theorem Told.refl (s : State) : Told s s := ⟨_, _, _, _, _, _, _, _, rfl⟩

theorem Told.trans {s t u : State} (h : Told s t) (h' : Told t u) : Told s u := by
  obtain ⟨_, _, _, _, _, _, _, _, rfl⟩ := h
  obtain ⟨_, _, _, _, _, _, _, _, rfl⟩ := h'
  exact ⟨_, _, _, _, _, _, _, _, rfl⟩

theorem AnswersOnly.told {s t : State} (h : AnswersOnly s t) : Told s t := by
  obtain ⟨m, n, b, o, w, x, rfl⟩ := h
  exact ⟨m, n, b, o, w, x, s.log, s.haw, rfl⟩

theorem mcSwitch_told (act : Bool) (cause : Nat) (s : State) : Told s (mcSwitch act cause s) := by
  obtain ⟨l, v, o, w, x, e, -⟩ := mcSwitch_eq act cause s
  exact ⟨s.mp.gate, s.mp.outSeq, s.mbx, o, w, x, l, v, e⟩

theorem hawEventAll_told (b : Nat) (s : State) : Told s (hawEventAll b s) := by
  obtain ⟨v, o, w, x, e⟩ := hawEventAll_eq b s
  exact ⟨s.mp.gate, s.mp.outSeq, s.mbx, o, w, x, s.log, v, e⟩

/-- An event of the firmware is logged while the gate is open. -/
theorem fwEvent_logs (code inst detail : Nat) {s : State} (h : s.mp.arbitrating = false) : ∃ l, fwEvent code inst detail s =
    { s with mp := { s.mp with outSeq := s.mp.outSeq + 1 }, log := l } ∧ l.next = s.log.next + 1 := by
  rw [fwEvent_open h]
  obtain ⟨l, e⟩ := logEvent_eq code 0x01 inst detail none { s with mp := { s.mp with outSeq := s.mp.outSeq + 1 } }
  have hn := logEvent_next code 0x01 inst detail { s with mp := { s.mp with outSeq := s.mp.outSeq + 1 } }
  rw [e] at hn ⊢
  exact ⟨l, rfl, hn⟩

theorem fwEvent_told (code inst detail : Nat) (s : State) : Told s (fwEvent code inst detail s) := by
  obtain ha | ha := Bool.eq_false_or_eq_true s.mp.arbitrating
  · exact ⟨_, _, _, _, _, _, _, _, gateOut_closed _ _ _ ha⟩
  · obtain ⟨l, e, -⟩ := fwEvent_logs code inst detail ha
    exact ⟨s.mp.gate, _, s.mbx, s.out.host, s.lnk.hp, s.lnk.msixPend, l, s.haw, e⟩

theorem modMbx_answers (fn : Nat) (f : Mbx → Mbx) (s : State) : AnswersOnly s (s.modMbx fn f) := ⟨_, _, _, _, _, _, rfl⟩

theorem releaseHeld_told (s : State) : Told s (releaseHeld s) :=
  (AnswersOnly.forEach (fun fn t => (modMbx_answers fn _ t).trans (refuseUnknown_answers fn _)) _ s).told

theorem answerActivation_told (err detail : Nat) (payload : List Byte) (s : State) : Told s (answerActivation err detail payload s) := by
  unfold answerActivation
  split
  · exact (endMbx_answers ..).told
  · exact .refl s

/-! ## Checks and the end of an activation -/

theorem setStandby_eq (st : McState) (s : State) : ∃ a b, setStandby st s = { s with mp := { s.mp with stA := a, stB := b } } := by
  unfold setStandby
  cases s.mp.actSel
  · exact ⟨s.mp.stA, st, rfl⟩
  · exact ⟨st, s.mp.stB, rfl⟩

/-- The check of a package reads the security versions and the revoked keys only. -/
theorem fwCheck_congr {s t : State} (h : t.sec = s.sec) (b : List Byte) : fwCheck t b = fwCheck s b := by
  have hd : dsbCheck t 1 = dsbCheck s 1 := by
    unfold dsbCheck
    rw [h]
  have hp : fwPartBad t b = fwPartBad s b := by
    unfold fwPartBad
    rw [hd, h]
  unfold fwCheck
  rw [hp]

/-- An activation that fails leaves the old firmware. -/
theorem failActivation_keeps (err detail : Nat) (lock : Bool) (s : State) :
    let t := failActivation err detail lock s
    t.mp.activating = false ∧ t.mp.staged = none ∧ t.mp.runVer = s.mp.runVer ∧ t.mp.actSel = s.mp.actSel ∧
      t.mp.lockstep = (lock || s.mp.lockstep) := by
  dsimp only
  have h₁ := (answerActivation_told err detail [] s).trans (fwEvent_told 0x0604 0 (2 + 256 * detail) _)
  have h₂ := releaseHeld_told (dropActivation lock (fwEvent 0x0604 0 (2 + 256 * detail) (answerActivation err detail [] s)))
  unfold failActivation
  dsimp only
  generalize releaseHeld _ = t at h₂ ⊢
  generalize fwEvent _ _ _ _ = u at h₁ h₂
  obtain ⟨_, _, _, _, _, _, _, _, rfl⟩ := h₁
  obtain ⟨_, _, _, _, _, _, _, _, rfl⟩ := h₂
  cases lock <;> cases h : s.mp.actSel <;> simp [dropActivation, setStandby, h]

/-! ## The steps of an activation (R481) -/

theorem fwActivate_begins {v : W32} {b : List Byte} {s : State} (hm : MbxRuns 0 0x51 ⟨true, false, [(8, 4)]⟩ s)
    (hs : s.mp.staged = some (v, b)) (hv : (s.getMbx 0).arg 8 4 = v.toNat) (hact : s.mp.activating = false) (hl : s.mp.lockstep = true) :
    execFwActivate 0 s = .next (beginActivation (some 0) (s.modMbx 0 fun m => { m with started := true })) := by
  unfold execFwActivate
  rw [onMbx_runs hm]
  simp [hs, hv, hact, hl]

/-- Steps 1 and 2 of an activation take the standby out of lockstep. -/
theorem beginActivation_mp (m : Option Nat) (s : State) : let t := beginActivation m s
    t.mp.activating = true ∧ t.mp.actStep = 2 ∧ t.mp.actMbx = m ∧ t.mp.lockstep = false ∧ t.mp.staged = s.mp.staged ∧
      t.mp.runVer = s.mp.runVer ∧ t.mbx = s.mbx := by
  obtain ⟨v, o, w, x, e⟩ := hawEventAll_eq 3 s
  obtain ⟨v', o', w', x', e'⟩ := hawEventAll_eq 4 (hawEventAll 3 s)
  unfold beginActivation setStandby
  dsimp only
  rw [e', e]
  cases s.mp.actSel <;> exact ⟨rfl, rfl, rfl, rfl, rfl, rfl, rfl⟩

theorem standbyVerified_eq {ok : Bool} {v : W32} {b : List Byte} {s : State} (hv : s.mp.activating = true) (hp : s.mp.actStep = 2)
    (ha : s.mp.arbitrating = false) (hs : s.mp.staged = some (v, b)) : execFwStandbyVerified ok s =
      if fwCheck s b = none ∧ ok = true then .next { s with mp := { s.mp with actStep := 3 } }
      else .next (failActivation meRejected (((fwCheck s b).map (·.1)).getD fdFormat) true s) := by
  unfold execFwStandbyVerified
  rw [if_neg (by simp [hv, hp, ha]), hs]
  dsimp only
  generalize fwCheck s b = c
  cases ok <;> rcases c with _ | ⟨d, o⟩ <;> rfl

theorem writeBank_keeps (b : List Byte) (s : State) : ∃ f g, writeBank b s = { s with sec := { s.sec with flash0 := f, flash1 := g } } := by
  unfold writeBank
  cases s.sec.bank
  · exact ⟨s.sec.flash0, b, rfl⟩
  · exact ⟨b, s.sec.flash1, rfl⟩

/-- Steps 4 to 6: the other core runs the new image, and its plans are to be checked. -/
theorem handOver_does (v : W32) (b : List Byte) (s : State) : let t := handOver v b s
    t.mp.actSel = (!s.mp.actSel) ∧ t.mp.runVer = v ∧ t.mp.actStep = 7 ∧ t.mp.reloads = loadedPlans s ∧
      t.disp.reloading = loadedPlans s ∧ t.sec.meas = fwMeas b := by
  unfold handOver
  extract_lets now ps idle _ s₁ s₂ _ _ s₃ s₄
  have h₁ : Told s₁ s₂ := mcSwitch_told now 5 s₁
  obtain ⟨f, g, e₃⟩ := writeBank_keeps b { s₂ with sec := { s₂.sec with meas := fwMeas b }, disp := { s₂.disp with reloading := ps } }
  have h₄ : Told s₃ s₄ := answerActivation_told 0 0 (leBytes v.toNat 4) s₃
  have e₃ : s₃ = _ := e₃
  clear_value s₄ s₃ s₂
  suffices h : ∀ t, Told { s₄ with mp := { s₄.mp with actMbx := none } } t → t.mp.actSel = (!s.mp.actSel) ∧ t.mp.runVer = v ∧
      t.mp.actStep = 7 ∧ t.mp.reloads = loadedPlans s ∧ t.disp.reloading = loadedPlans s ∧ t.sec.meas = fwMeas b from
    h _ (releaseHeld_told _)
  intro t h₅
  obtain ⟨_, _, _, _, _, _, _, _, rfl⟩ := h₁
  subst e₃
  obtain ⟨_, _, _, _, _, _, _, _, rfl⟩ := h₄
  obtain ⟨_, _, _, _, _, _, _, _, rfl⟩ := h₅
  exact ⟨rfl, rfl, rfl, rfl, rfl, rfl⟩

theorem fwHandover_runs {ok : Bool} {v : W32} {b : List Byte} {s : State} (hv : s.mp.activating = true) (hp : s.mp.actStep = 3)
    (ha : s.mp.arbitrating = false) (hr : s.mbx.any (mbxRuns s) = false) (hs : s.mp.staged = some (v, b)) : execFwHandover ok s =
      .next (if ok then handOver v b s
        else failActivation meRejected fdTakeover false (mcSwitch s.mp.actSel 5 (mcSwitch (!s.mp.actSel) 5 s))) := by
  unfold execFwHandover
  rw [if_neg (by simp [hv, hp, ha, hr]), hs]
  cases ok <;> rfl

/-- Step 8: the pair is in lockstep again, the bank of the new image is preferred and the rollback counters rise. -/
theorem fwRejoin_does {v : W32} {b : List Byte} {s : State} (hv : s.mp.activating = true) (hp : s.mp.actStep = 7) (hl : s.mp.reloads = [])
    (ha : s.mp.arbitrating = false) (hs : s.mp.staged = some (v, b)) (ht : (if s.mp.actSel then s.mp.stA else s.mp.stB) = .testing) :
    Does .fwRejoin s fun t => t.mp.lockstep = true ∧ t.mp.activating = false ∧ t.mp.staged = none ∧ t.sec.bank = (!s.sec.bank) ∧
      t.sec.preferred = (!s.sec.bank) ∧ t.sec.svn = (((fwParts b).zip s.sec.svn).map fun x => max x.1.svn x.2) ∧
      t.log.next = s.log.next + 2 := by
  show ∃ t, execFwRejoin s = .next t ∧ _
  unfold execFwRejoin
  dsimp only
  rw [if_neg (by simp [hv, hp, hl, ha, ht]), hs]
  dsimp only
  refine ⟨_, rfl, ?_⟩
  generalize hu : setStandby .standby _ = u
  have hk : u.mp.lockstep = true ∧ u.mp.activating = false ∧ u.mp.staged = none ∧ u.sec.bank = (!s.sec.bank) ∧
      u.sec.preferred = (!s.sec.bank) ∧ u.sec.svn = (((fwParts b).zip s.sec.svn).map fun x => max x.1.svn x.2) ∧
      u.log.next = s.log.next ∧ u.mp.arbitrating = false := by
    have hsvn : (pldmOver s.sec).svn = s.sec.svn := by
      unfold pldmOver
      split <;> rfl
    rw [← hu, ← hsvn]
    obtain ⟨a, c, e⟩ := setStandby_eq .standby _
    rw [e]
    exact ⟨rfl, rfl, rfl, rfl, rfl, rfl, rfl, ha⟩
  obtain ⟨h1, h2, h3, h4, h5, h6, h7, h8⟩ := hk
  obtain ⟨l, e, hn⟩ := fwEvent_logs 0x0604 0 1 h8
  obtain ⟨l', v', o, w, x, e', hn'⟩ := mcSwitch_eq (fwEvent 0x0604 0 1 u).mp.actSel 6 (fwEvent 0x0604 0 1 u)
  have hlog : (fwEvent 0x0604 0 1 u).log.next = s.log.next + 1 := by rw [e, ← h7]; exact hn
  rw [e', hn', hlog, e]
  exact ⟨h1, h2, h3, h4, h5, h6, BitVec.add_assoc ..⟩

/-- Settles O39. -/
theorem firmwareCommands : Obligations.FirmwareCommands := by
  unfold Obligations.FirmwareCommands
  refine ⟨?_, ?_, ?_, ?_, ?_, ?_, ?_, ?_⟩
  · intro b s hb hm ha hn hp hr hlen
    obtain ⟨o, w, x, hk, hports⟩ := mbxRead_reads 0 (s.getMbx 0) [((s.getMbx 0).arg 8 8, (s.getMbx 0).arg 0x10 4)] hr
    show ∃ t, execFwStage 0 (some b) s = .next t ∧ _
    unfold execFwStage
    rw [if_neg (by simp [hb]), onMbx_runs hm]
    dsimp only
    rw [if_neg (by simp [ha]), if_neg (by omega), hk]
    generalize hu : ({ s with out := { s.out with host := o }, lnk := { s.lnk with hp := w, msixPend := x } } : State) = u
    have hpu : (u.hostPort (s.getMbx 0).port).absent = false := by
      rw [← hu]
      exact (hports _).2.trans hp
    have hcu : fwCheck u b = fwCheck s b := fwCheck_congr (by rw [← hu]) b
    have hgu : u.mp.arbitrating = false := by rw [← hu]; exact hm.gateOpen
    have hmp : u.mp = s.mp := by rw [← hu]
    have hlog : u.log = s.log := by rw [← hu]
    rw [hostGave_present _ hpu, whole_of_length hlen]
    dsimp only
    rw [hcu]
    cases hc : fwCheck s b with
    | none =>
      dsimp only
      obtain ⟨l, e, hn⟩ := fwEvent_logs 0x0604 0 0 (s := { u with mp := { u.mp with staged := some (fwVersion b, b) } }) hgu
      have e : stageImage b u = _ := e
      rw [e]
      generalize hz : ({ u with mp := _, log := l } : State) = z
      have hgz : z.mp.arbitrating = false := by rw [← hz]; exact hgu
      obtain ⟨h', w', x', e'⟩ := endMbx_eq 0 0 0 0 (leBytes (fwVersion b).toNat 4) hgz
      refine ⟨_, rfl, endMbx_ended _ _ _ _ _ hgz, ?_⟩
      rw [e', ← hz, ← hlog]
      exact ⟨rfl, hn⟩
    | some d =>
      obtain ⟨d, off⟩ := d
      obtain ⟨h', w', x', e'⟩ := endMbx_eq 0 meRejected d off [] hgu
      refine ⟨_, rfl, endMbx_ended _ _ _ _ _ hgu, ?_⟩
      dsimp only
      rw [e', hmp]
  · intro s hm hs
    obtain ⟨h', w', x', e'⟩ := endMbx_eq 0 meRejected fdNotStaged 8 [] hm.gateOpen
    refine ⟨_, ?_, endMbx_ended 0 meRejected fdNotStaged 8 [] hm.gateOpen, ?_⟩
    · show execFwActivate 0 s = _
      unfold execFwActivate
      rw [onMbx_runs hm, hs]
    · rw [e']
  · intro v b s hm hs hv hact hl
    obtain ⟨h1, h2, h3, h4, h5, h6, h7⟩ := beginActivation_mp (some 0) (s.modMbx 0 fun m => { m with started := true })
    refine Does.of (fwActivate_begins hm hs hv hact hl) ⟨h1, h2, h3, h4, h5.trans hs, h6, ?_⟩
    unfold State.getMbx
    rw [h7]
    exact congrArg Mbx.started (Tbl.get_set_same ..)
  · intro v b s hv hp ha hs
    have e : exec (.fwStandbyVerified true) s = _ := standbyVerified_eq hv hp ha hs
    cases hc : fwCheck s b with
    | none => exact Does.of (e.trans (if_pos ⟨hc, rfl⟩)) rfl
    | some x =>
      obtain ⟨h1, h2, h3, h4, h5⟩ := failActivation_keeps meRejected (((fwCheck s b).map (·.1)).getD fdFormat) true s
      exact Does.of (e.trans (if_neg (by simp [hc]))) ⟨h1, h2, h3, h4, h5⟩
  · intro v b s hv hp ha hs
    obtain ⟨h1, h2, h3, h4, h5⟩ := failActivation_keeps meRejected (((fwCheck s b).map (·.1)).getD fdFormat) true s
    exact Does.of (show execFwStandbyVerified false s = _ from (standbyVerified_eq hv hp ha hs).trans (if_neg (by simp))) ⟨h1, h2, h3, h4, h5⟩
  · intro v b s hv hp ha hr hs
    exact Does.of (show execFwHandover true s = _ from fwHandover_runs hv hp ha hr hs) (handOver_does v b s)
  · intro v b s hv hp ha hr hs
    obtain ⟨h1, h2, h3, h4, -⟩ := failActivation_keeps meRejected fdTakeover false (mcSwitch s.mp.actSel 5 (mcSwitch (!s.mp.actSel) 5 s))
    have hm := (mcSwitch_told (!s.mp.actSel) 5 s).trans (mcSwitch_told s.mp.actSel 5 _)
    refine Does.of (show execFwHandover false s = _ from fwHandover_runs hv hp ha hr hs) ⟨?_, ?_, h1, h2⟩
    · exact h4.trans (by obtain ⟨_, _, _, _, _, _, _, _, e⟩ := hm; rw [e])
    · exact h3.trans (by obtain ⟨_, _, _, _, _, _, _, _, e⟩ := hm; rw [e])
  · intro v b s hv hp hl ha hs ht
    exact fwRejoin_does hv hp hl ha hs ht

end Sys2Proof.Machine
end

section
/-!
PROOFS. The grants that are examined leave the execution profile and the mailboxes as they were.
-/

namespace Sys2Proof.Machine

/-- From s₀ to s the mailboxes, the profile with its change in progress and the idle timer of PS1 are unchanged. -/
structure Profiled (s₀ s : State) : Prop where
  mbx : s.mbx = s₀.mbx
  time : s.time = s₀.time
  profile : s.disp.profile = s₀.disp.profile
  latLevel : s.disp.latLevel = s₀.disp.latLevel
  profileChange : s.disp.profileChange = s₀.disp.profileChange
  idle1 : s.pwr.idle1 = s₀.pwr.idle1

theorem Profiled.refl (s : State) : Profiled s s := ⟨rfl, rfl, rfl, rfl, rfl, rfl⟩

section
variable {s₀ s t : State}

/-- An update of the parts that `Profiled` does not name. -/
theorem Profiled.upd {pending seed fronds ring disp mem eng store insts haw log mp pwr tel sec lnk pads out} (h : Profiled s₀ s)
    (h_profile : disp.profile = s.disp.profile := by rfl)
    (h_latLevel : disp.latLevel = s.disp.latLevel := by rfl)
    (h_profileChange : disp.profileChange = s.disp.profileChange := by rfl)
    (h_idle1 : pwr.idle1 = s.pwr.idle1 := by rfl) :
    Profiled s₀ { s with pending, seed, fronds, ring, disp, mem, eng, store, insts, haw, log, mp, pwr, tel, sec, lnk, pads, out } :=
  { h with 
    profile := h_profile.trans h.profile,
    latLevel := h_latLevel.trans h.latLevel,
    profileChange := h_profileChange.trans h.profileChange,
    idle1 := h_idle1.trans h.idle1 }

theorem Profiled.ite {c : Prop} [Decidable c] (h : Profiled s₀ s) (k : Profiled s₀ t) : Profiled s₀ (if c then s else t) := by
  split
  · exact h
  · exact k

theorem Profiled.forEach {β : Type} {f : β → State → State} {l : List β} (h : Profiled s₀ s)
    (hf : ∀ b t, Profiled s₀ t → Profiled s₀ (f b t)) : Profiled s₀ (Machine.forEach f l s) :=
  forEach_keeps (fun b _ t => hf b t) h

theorem Profiled.forBelow {f : Nat → State → State} {n : Nat} (h : Profiled s₀ s) (hf : ∀ b t, Profiled s₀ t → Profiled s₀ (f b t)) :
    Profiled s₀ (Machine.forBelow f n s) := by
  induction n with
  | zero => exact h
  | succ n ih => exact hf _ _ ih

theorem Profiled.foldl {β : Type} {f : State → β → State} {l : List β} (h : Profiled s₀ s) (hf : ∀ b t, Profiled s₀ t → Profiled s₀ (f t b)) :
    Profiled s₀ (l.foldl f s) := by
  induction l generalizing s with
  | nil => exact h
  | cons b l ih => exact ih (hf b s h)

theorem Profiled.forEachSnd {α β : Type} {f : β → α × State → α × State} {l : List β} {p : α × State} (h : Profiled s₀ p.2)
    (hf : ∀ b p, Profiled s₀ p.2 → Profiled s₀ (f b p).2) : Profiled s₀ (Machine.forEach f l p).2 := by
  induction l generalizing p with
  | nil => exact h
  | cons b l ih => exact ih (hf b p h)

theorem Profiled.foldlSnd {α β : Type} {f : α × State → β → α × State} {l : List β} {p : α × State} (h : Profiled s₀ p.2)
    (hf : ∀ b p, Profiled s₀ p.2 → Profiled s₀ (f p b).2) : Profiled s₀ (l.foldl f p).2 := by
  induction l generalizing p with
  | nil => exact h
  | cons b l ih => exact ih (hf b p h)

theorem Profiled.of_snd_snd {α β : Type} {p : α × β × State} {a : α} {b : β} (h : Profiled s₀ p.2.2) (e : p = (a, b, t)) : Profiled s₀ t := by
  rw [e] at h; exact h

/-- The state of a result. -/
theorem Profiled.of_snd {α : Type} {p : α × State} {a : α} (h : Profiled s₀ p.2) (e : p = (a, t)) : Profiled s₀ t := by
  rw [e] at h; exact h

end

end Sys2Proof.Machine
end

section
namespace Sys2Proof.Machine

section
-- Each of these short lemmas would else wait in a thread of its own.
set_option Elab.async false
variable {s₀ s t : State}

theorem Profiled.setCmu {u : Nat} {x : CmuUnit} (h : Profiled s₀ s) : Profiled s₀ (s.setCmu u x) := h.upd

theorem Profiled.setSmu {u : Nat} {x : SmuUnit} (h : Profiled s₀ s) : Profiled s₀ (s.setSmu u x) := h.upd

theorem Profiled.setDgu {u : Nat} {x : DguUnit} (h : Profiled s₀ s) : Profiled s₀ (s.setDgu u x) := h.upd

theorem Profiled.setLink {l : Nat} {x : Link} (h : Profiled s₀ s) : Profiled s₀ (s.setLink l x) := h.upd

theorem Profiled.setFrame {f : Nat} {x : Frame} (h : Profiled s₀ s) : Profiled s₀ (s.setFrame f x) := h.upd

theorem Profiled.onGrant {g : Grant} (h : Profiled s₀ s) : Profiled s₀ (onGrant g s) := by
  unfold Machine.onGrant
  split
  · exact h.upd
  · dsimp only
    split
    · exact .ite h.upd h.upd
    · exact .ite (.ite h.upd h.upd) (.setFrame (.ite h.upd h.upd))
  · exact h.setSmu
  · exact h.setCmu
  · exact .ite h.setLink h
  · exact h

theorem Profiled.dropWaitTimer {id : Nat} (h : Profiled s₀ s) : Profiled s₀ (dropWaitTimer id s) := h.upd

theorem Profiled.giveGrant {g : Grant} (h : Profiled s₀ s) : Profiled s₀ (giveGrant g s) := h.upd.dropWaitTimer.onGrant

theorem Profiled.grantQueue {a : List Grant} {a1 : List (Option Nat)} (h : Profiled s₀ s) : Profiled s₀ (grantQueue a a1 s) := by
  induction a generalizing a1 s with
  | nil =>
    unfold Machine.grantQueue
    exact h
  | cons b l ih =>
    unfold Machine.grantQueue
    dsimp only
    exact .ite (ih h) (.ite (ih h.upd.giveGrant) (.ite (ih h) (.ite (ih h) h)))

theorem Profiled.reinstate {a : List Grant} {a1 : List (Option Nat)} (h : Profiled s₀ s) : Profiled s₀ (reinstate a a1 s) := by
  induction a generalizing a1 s with
  | nil =>
    unfold Machine.reinstate
    exact h
  | cons b l ih =>
    unfold Machine.reinstate
    dsimp only
    exact .ite (ih h) (.ite (ih h.upd.onGrant) (.ite (ih h) h))

theorem Profiled.raiseSag {d : Nat} (h : Profiled s₀ s) : Profiled s₀ (raiseSag d s) := .ite h h.upd

theorem Profiled.examineGrants (h : Profiled s₀ s) : Profiled s₀ (examineGrants s) :=
  .grantQueue (.ite h (h.reinstate.forBelow (fun _ _ h1 => h1.raiseSag)))

end

end Sys2Proof.Machine
end

section
/-!
PROOFS. PROFILE_SET, POWER_CAP_SET and TELEMETRY_CFG (O38).
-/

namespace Sys2Proof.Machine

/-! ## Engines that enter the schedule of the profile -/

/-- Only match unit u and the log differ. -/
def UnitOnly (u : Nat) (s t : State) : Prop :=
  (∃ c l, t = { s with eng := { s.eng with cmu := c }, log := l }) ∧ ∀ j, j ≠ u → t.cmu j = s.cmu j

theorem UnitOnly.trans {u : Nat} {s t v : State} (h : UnitOnly u s t) (h' : UnitOnly u t v) : UnitOnly u s v := by
  obtain ⟨⟨c, l, rfl⟩, hj⟩ := h
  obtain ⟨⟨c', l', rfl⟩, hj'⟩ := h'
  exact ⟨⟨c', l', rfl⟩, fun j hne => (hj' j hne).trans (hj j hne)⟩

theorem setCmu_unitOnly (u : Nat) (x : CmuUnit) (s : State) : UnitOnly u s (s.setCmu u x) :=
  ⟨⟨_, s.log, rfl⟩, fun j hj => State.setCmu_ne s u x j hj⟩

theorem throttleTo_unitOnly (u temp : Nat) (s : State) :
    UnitOnly u s (throttleTo u temp s) ∧ ((throttleTo u temp s).cmu u).strict = (s.cmu u).strict := by
  unfold throttleTo
  dsimp only
  generalize hx : ({ s.cmu u with temp := _, reading := _, step := _ } : CmuUnit) = x
  have hs : ((s.setCmu u x).cmu u).strict = (s.cmu u).strict := by rw [State.setCmu_same, ← hx]
  split
  · obtain ⟨l, e⟩ := logEvent_eq 0x0403 (0x20 + u) 0 0 none (s.setCmu u x)
    rw [e]
    exact ⟨⟨⟨_, l, rfl⟩, fun j hj => State.setCmu_ne s u x j hj⟩, hs⟩
  · exact ⟨setCmu_unitOnly u x s, hs⟩

/-- A match unit that enters the schedule changes the units and the log only, and of the modes its own. -/
theorem enterCmu_unitOnly (u : Nat) (s : State) : UnitOnly u s (enterCmu u s) ∧ ((enterCmu u s).cmu u).strict = isStrict s := by
  unfold enterCmu
  dsimp only
  split
  · next h => exact ⟨⟨⟨s.eng.cmu, s.log, rfl⟩, fun _ _ => rfl⟩, h⟩
  · unfold cmuFollow
    dsimp only
    generalize hx : ({ s.cmu u with strict := _, step := _, turn := _, credit := _, laneTurn := _, laneCredit := _, pos := _ } : CmuUnit) = x
    obtain ⟨h, hs⟩ := throttleTo_unitOnly u ((cmuReading (s.setCmu u x) u).getD ((s.setCmu u x).cmu u).reading) (s.setCmu u x)
    refine ⟨((setCmu_unitOnly u x s).trans h).trans (setCmu_unitOnly ..), ?_⟩
    rw [State.setCmu_same]
    refine hs.trans ?_
    rw [State.setCmu_same, ← hx]

theorem enterSmu_eq (u : Nat) (s : State) : ∃ c, enterSmu u s = { s with eng := { s.eng with smu := c } } ∧
    ∀ j, (c.get SmuUnit.reset j).strict = if j = u then isStrict s else (s.smu j).strict := by
  unfold enterSmu
  split
  · next h =>
    refine ⟨s.eng.smu, rfl, fun j => ?_⟩
    split
    · next hj => exact hj ▸ h
    · rfl
  · refine ⟨_, rfl, fun j => ?_⟩
    obtain rfl | hj := eq_or_ne j u
    · rw [if_pos rfl, Tbl.get_set_same]
    · rw [if_neg hj, Tbl.get_set_ne _ _ _ hj]
      rfl

theorem enterDgu_eq (u : Nat) (s : State) : ∃ c, enterDgu u s = { s with eng := { s.eng with dgu := c } } ∧
    ∀ j, (c.get DguUnit.reset j).strict = if j = u then isStrict s else (s.dgu j).strict := by
  unfold enterDgu
  split
  · next h =>
    refine ⟨s.eng.dgu, rfl, fun j => ?_⟩
    split
    · next hj => exact hj ▸ h
    · rfl
  · refine ⟨_, rfl, fun j => ?_⟩
    obtain rfl | hj := eq_or_ne j u
    · rw [if_pos rfl, Tbl.get_set_same]
    · rw [if_neg hj, Tbl.get_set_ne _ _ _ hj]
      rfl

theorem enterCmus_eq (n : Nat) (s : State) : ∃ c l, forBelow enterCmu n s = { s with eng := { s.eng with cmu := c }, log := l } ∧
    ∀ u, u < n → (c.get CmuUnit.reset u).strict = isStrict s := by
  induction n with
  | zero => exact ⟨s.eng.cmu, s.log, rfl, fun u h => absurd h (Nat.not_lt_zero u)⟩
  | succ n ih =>
    obtain ⟨c, l, e, hc⟩ := ih
    obtain ⟨⟨⟨c', l', e'⟩, hj⟩, hn⟩ := enterCmu_unitOnly n (forBelow enterCmu n s)
    rw [e] at e' hj hn
    refine ⟨c', l', by rw [forBelow, e, e'], fun u hu => ?_⟩
    rw [e'] at hj hn
    obtain rfl | hne := eq_or_ne u n
    · exact hn
    · exact (congrArg CmuUnit.strict (hj u hne)).trans (hc u (by omega))

theorem enterSmus_eq (n : Nat) (s : State) : ∃ c, forBelow enterSmu n s = { s with eng := { s.eng with smu := c } } ∧
    ∀ u, u < n → (c.get SmuUnit.reset u).strict = isStrict s := by
  induction n with
  | zero => exact ⟨s.eng.smu, rfl, fun u h => absurd h (Nat.not_lt_zero u)⟩
  | succ n ih =>
    obtain ⟨c, e, hc⟩ := ih
    obtain ⟨c', e', hc'⟩ := enterSmu_eq n (forBelow enterSmu n s)
    rw [e] at e' hc'
    refine ⟨c', by rw [forBelow, e, e'], fun u hu => (hc' u).trans ?_⟩
    split
    · rfl
    · exact hc u (by omega)

theorem enterDgus_eq (n : Nat) (s : State) : ∃ c, forBelow enterDgu n s = { s with eng := { s.eng with dgu := c } } ∧
    ∀ u, u < n → (c.get DguUnit.reset u).strict = isStrict s := by
  induction n with
  | zero => exact ⟨s.eng.dgu, rfl, fun u h => absurd h (Nat.not_lt_zero u)⟩
  | succ n ih =>
    obtain ⟨c, e, hc⟩ := ih
    obtain ⟨c', e', hc'⟩ := enterDgu_eq n (forBelow enterDgu n s)
    rw [e] at e' hc'
    refine ⟨c', by rw [forBelow, e, e'], fun u hu => (hc' u).trans ?_⟩
    split
    · rfl
    · exact hc u (by omega)

/-- Every engine is in the schedule of the profile. -/
theorem engineSchedules_eq (s : State) : ∃ g l, engineSchedules s = { s with eng := g, log := l } ∧
    (∀ u, u < 4 → (g.cmu.get CmuUnit.reset u).strict = isStrict s ∧ (g.dgu.get DguUnit.reset u).strict = isStrict s) ∧
    ∀ u, u < 8 → (g.smu.get SmuUnit.reset u).strict = isStrict s := by
  obtain ⟨c, l, e, hc⟩ := enterCmus_eq 4 s
  obtain ⟨c', e', hc'⟩ := enterSmus_eq 8 { s with eng := { s.eng with cmu := c }, log := l }
  obtain ⟨c'', e'', hc''⟩ := enterDgus_eq 4 { s with eng := { s.eng with cmu := c, smu := c' }, log := l }
  unfold engineSchedules
  rw [e, e', e'']
  dsimp only
  split
  · exact ⟨_, l, rfl, fun u hu => ⟨hc u hu, hc'' u hu⟩, hc'⟩
  · exact ⟨_, l, rfl, fun u hu => ⟨hc u hu, hc'' u hu⟩, hc'⟩

/-! ## PROFILE_SET (R447 to R449) -/

/-- Settles O38. -/
theorem profileCommands : Obligations.ProfileCommands := by
  unfold Obligations.ProfileCommands
  refine ⟨?_, ?_, ?_, ?_, ?_, ?_⟩
  · intro s hm hp hl hf
    show ∃ t, execProfileSet 0 s = .next t ∧ _
    unfold execProfileSet
    rw [onMbx_runs hm]
    dsimp only
    rw [if_neg (by omega), if_neg (by omega), if_neg (by omega), if_neg (by omega), if_pos hf]
    generalize hu : enterProfile _ _ _ _ = u
    have h := (Profiled.refl u).examineGrants
    refine ⟨_, rfl, ?_⟩
    generalize examineGrants u = t at h ⊢
    refine ⟨h.profile.trans ?_, h.latLevel.trans ?_, h.profileChange.trans ?_, ?_, h.idle1.trans ?_⟩
    · rw [← hu]; rfl
    · rw [← hu]; rfl
    · rw [← hu]; rfl
    · unfold State.getMbx
      rw [h.mbx, ← hu]
      exact congrArg Mbx.started (Tbl.get_set_same ..)
    · rw [← hu]; rfl
  · intro d s hm hp hl hf hd
    obtain ⟨h', w', x', e'⟩ := endMbx_eq 0 meState d 0 [] hm.gateOpen
    refine ⟨_, ?_, endMbx_ended 0 meState d 0 [] hm.gateOpen, ?_⟩
    · show execProfileSet 0 s = _
      unfold execProfileSet
      rw [onMbx_runs hm]
      dsimp only
      rw [if_neg (by omega), if_neg (by omega), if_neg (by omega), if_pos hp, hd]
    · rw [e']
      exact ⟨rfl, rfl⟩
  · intro ch s hch hrun ha
    have hnone : (runningItems s).any (fun x => ch.items.contains x) = false :=
      List.any_eq_false.2 fun x hx => by simpa using hrun x hx
    obtain ⟨g, l, e, hg, hs⟩ := engineSchedules_eq { s with disp := { s.disp with profileChange := none } }
    show ∃ t, execProfileSetComplete s = .next t ∧ _
    unfold execProfileSetComplete
    rw [hch]
    dsimp only
    rw [if_neg (by rw [hnone, ha]; decide), e]
    dsimp only
    rw [fwEvent_open (by exact ha)]
    generalize hz : logEvent _ _ _ _ _ _ = z
    have hgz : z.mp.arbitrating = false := by rw [← hz]; exact ha
    obtain ⟨h', w', x', e'⟩ := endMbx_eq ch.mbx 0 0 0 [ch.prev.zeroExtend 8] hgz
    refine ⟨_, rfl, endMbx_ended _ _ _ _ _ hgz, ?_⟩
    rw [e', ← hz]
    exact ⟨rfl, rfl, rfl, hg, hs⟩
  · intro s hm h5 h15 hs
    show ∃ t, execPowerCapSet 0 s = .next t ∧ _
    unfold execPowerCapSet
    rw [onMbx_runs hm]
    dsimp only
    rw [if_neg (by omega), if_neg (by simp [hs])]
    generalize hz : ({ s with pwr := _ } : State) = z
    have hgz : z.mp.arbitrating = false := by rw [← hz]; exact hm.gateOpen
    obtain ⟨h', w', x', e'⟩ := endMbx_eq 0 0 0 0 (leBytes s.pwr.cap 2) hgz
    refine ⟨_, rfl, endMbx_ended _ _ _ _ _ hgz, ?_⟩
    rw [e', ← hz]
  · intro s hm h
    obtain ⟨h', w', x', e'⟩ := endMbx_eq 0 meField 0 8 [] hm.gateOpen
    refine ⟨_, ?_, endMbx_ended 0 meField 0 8 [] hm.gateOpen, ?_⟩
    · show execPowerCapSet 0 s = _
      unfold execPowerCapSet
      rw [onMbx_runs hm]
      exact congrArg _ (if_pos h)
    · rw [e']
  · intro s hm h3 h1 h10
    show ∃ t, execTelemetryCfg 0 s = .next t ∧ _
    unfold execTelemetryCfg
    rw [onMbx_runs hm]
    dsimp only
    rw [if_neg (by omega), if_neg (by omega)]
    generalize hz : ({ s with tel := _ } : State) = z
    have hgz : z.mp.arbitrating = false := by rw [← hz]; exact hm.gateOpen
    obtain ⟨h', w', x', e'⟩ := endMbx_eq 0 0 0 0 [] hgz
    unfold mbxOk
    refine ⟨_, rfl, endMbx_ended _ _ _ _ _ hgz, ?_⟩
    rw [e', ← hz]
    exact ⟨rfl, rfl, rfl⟩

end Sys2Proof.Machine
end

section
/-!
PROOFS. A field that a write to a table keeps.
-/

namespace Sys2Proof.Machine

/-- A write that keeps a field of its entry keeps it in every entry. -/
theorem Tbl.get_set_field {α β : Type} [DecidableEq α] {d v : α} {t : Tbl α} {k : Nat} (f : α → β) (h : f v = f (t.get d k)) (j : Nat) :
    f ((t.set d k v).get d j) = f (t.get d j) := by
  obtain rfl | hj := eq_or_ne j k
  · rw [Tbl.get_set_same, h]
  · rw [Tbl.get_set_ne _ _ _ hj]

end Sys2Proof.Machine
end

section
/-!
PROOFS. The pages and images of plans that go: what their removal leaves unchanged.
-/

namespace Sys2Proof.Machine

/-- From s₀ to s only device memory, the images of the match units, the frames of instances, the log and the outputs differ. -/
structure PlansKept (s₀ s : State) : Prop where
  pending : s.pending = s₀.pending
  seed : s.seed = s₀.seed
  time : s.time = s₀.time
  fronds : s.fronds = s₀.fronds
  ring : s.ring = s₀.ring
  disp : s.disp = s₀.disp
  store : s.store = s₀.store
  mbx : s.mbx = s₀.mbx
  haw : s.haw = s₀.haw
  mp : s.mp = s₀.mp
  pwr : s.pwr = s₀.pwr
  tel : s.tel = s₀.tel
  sec : s.sec = s₀.sec
  lnk : s.lnk = s₀.lnk
  pads : s.pads = s₀.pads
  inst_st : ∀ j, (s.inst j).st = (s₀.inst j).st
  inst_res : ∀ j, (s.inst j).res = (s₀.inst j).res
  inst_plans : ∀ j, (s.inst j).plans = (s₀.inst j).plans
  inst_resize : ∀ j, (s.inst j).resize = (s₀.inst j).resize

theorem PlansKept.refl (s : State) : PlansKept s s := ⟨rfl, rfl, rfl, rfl, rfl, rfl, rfl, rfl, rfl, rfl, rfl, rfl, rfl, rfl, rfl, fun _ => rfl, fun _ => rfl, fun _ => rfl, fun _ => rfl⟩

section
variable {s₀ s t : State}

/-- An update of the parts that `PlansKept` does not name. -/
theorem PlansKept.upd {mem eng insts log out} (h : PlansKept s₀ s)
    (h_inst : insts = s.insts := by rfl) :
    PlansKept s₀ { s with mem, eng, insts, log, out } :=
  { h with
    inst_st := fun j => (congrArg (fun t : Tbl Inst => (t.get Inst.absent j).st) h_inst).trans (h.inst_st j),
    inst_res := fun j => (congrArg (fun t : Tbl Inst => (t.get Inst.absent j).res) h_inst).trans (h.inst_res j),
    inst_plans := fun j => (congrArg (fun t : Tbl Inst => (t.get Inst.absent j).plans) h_inst).trans (h.inst_plans j),
    inst_resize := fun j => (congrArg (fun t : Tbl Inst => (t.get Inst.absent j).resize) h_inst).trans (h.inst_resize j) }

theorem PlansKept.setInst {i : Nat} {x : Inst} (h : PlansKept s₀ s)
    (h_st : x.st = (s.inst i).st := by rfl)
    (h_res : x.res = (s.inst i).res := by rfl)
    (h_plans : x.plans = (s.inst i).plans := by rfl)
    (h_resize : x.resize = (s.inst i).resize := by rfl) :
    PlansKept s₀ (s.setInst i x) :=
  { h with
    inst_st := fun j => (Tbl.get_set_field Inst.st h_st j).trans (h.inst_st j),
    inst_res := fun j => (Tbl.get_set_field Inst.res h_res j).trans (h.inst_res j),
    inst_plans := fun j => (Tbl.get_set_field Inst.plans h_plans j).trans (h.inst_plans j),
    inst_resize := fun j => (Tbl.get_set_field Inst.resize h_resize j).trans (h.inst_resize j) }

theorem PlansKept.ite {c : Prop} [Decidable c] (h : PlansKept s₀ s) (k : PlansKept s₀ t) : PlansKept s₀ (if c then s else t) := by
  split
  · exact h
  · exact k

theorem PlansKept.forEach {β : Type} {f : β → State → State} {l : List β} (h : PlansKept s₀ s)
    (hf : ∀ b t, PlansKept s₀ t → PlansKept s₀ (f b t)) : PlansKept s₀ (Machine.forEach f l s) :=
  forEach_keeps (fun b _ t => hf b t) h

theorem PlansKept.forBelow {f : Nat → State → State} {n : Nat} (h : PlansKept s₀ s) (hf : ∀ b t, PlansKept s₀ t → PlansKept s₀ (f b t)) :
    PlansKept s₀ (Machine.forBelow f n s) := by
  induction n with
  | zero => exact h
  | succ n ih => exact hf _ _ ih

theorem PlansKept.foldl {β : Type} {f : State → β → State} {l : List β} (h : PlansKept s₀ s) (hf : ∀ b t, PlansKept s₀ t → PlansKept s₀ (f t b)) :
    PlansKept s₀ (l.foldl f s) := by
  induction l generalizing s with
  | nil => exact h
  | cons b l ih => exact ih (hf b s h)

theorem PlansKept.forEachSnd {α β : Type} {f : β → α × State → α × State} {l : List β} {p : α × State} (h : PlansKept s₀ p.2)
    (hf : ∀ b p, PlansKept s₀ p.2 → PlansKept s₀ (f b p).2) : PlansKept s₀ (Machine.forEach f l p).2 := by
  induction l generalizing p with
  | nil => exact h
  | cons b l ih => exact ih (hf b p h)

theorem PlansKept.foldlSnd {α β : Type} {f : α × State → β → α × State} {l : List β} {p : α × State} (h : PlansKept s₀ p.2)
    (hf : ∀ b p, PlansKept s₀ p.2 → PlansKept s₀ (f p b).2) : PlansKept s₀ (l.foldl f p).2 := by
  induction l generalizing p with
  | nil => exact h
  | cons b l ih => exact ih (hf b p h)

theorem PlansKept.of_snd_snd {α β : Type} {p : α × β × State} {a : α} {b : β} (h : PlansKept s₀ p.2.2) (e : p = (a, b, t)) : PlansKept s₀ t := by
  rw [e] at h; exact h

/-- The state of a result. -/
theorem PlansKept.of_snd {α : Type} {p : α × State} {a : α} (h : PlansKept s₀ p.2) (e : p = (a, t)) : PlansKept s₀ t := by
  rw [e] at h; exact h

end

end Sys2Proof.Machine
end

section
namespace Sys2Proof.Machine

section
-- Each of these short lemmas would else wait in a thread of its own.
set_option Elab.async false
variable {s₀ s t : State}

theorem PlansKept.setCmu {u : Nat} {x : CmuUnit} (h : PlansKept s₀ s) : PlansKept s₀ (s.setCmu u x) := h.upd

theorem PlansKept.logOne {code src inst detail : Nat} (h : PlansKept s₀ s) : PlansKept s₀ (logOne code src inst detail s) := h.upd

theorem PlansKept.logEvent {code src inst detail : Nat} {ext : Option Nat} (h : PlansKept s₀ s) :
    PlansKept s₀ (logEvent code src inst detail ext s) := by
  unfold Machine.logEvent
  split
  · exact h.logOne
  · exact h.logOne.logOne

theorem PlansKept.setFrame {f : Nat} {x : Frame} (h : PlansKept s₀ s) : PlansKept s₀ (s.setFrame f x) := h.upd

theorem PlansKept.putLeaf {b p : Nat} {e : W32} (h : PlansKept s₀ s) : PlansKept s₀ (putLeaf b p e s) := h.upd

theorem PlansKept.setLeaf {i p : Nat} {e : W32} (h : PlansKept s₀ s) : PlansKept s₀ (setLeaf i p e s) := by
  unfold Machine.setLeaf
  split
  · exact h.putLeaf
  · split
    · exact h
    · exact h.upd.putLeaf

theorem PlansKept.leaveQuota {f : Nat} (h : PlansKept s₀ s) : PlansKept s₀ (leaveQuota f s) := by
  unfold Machine.leaveQuota
  split
  · exact h
  · next i _ =>
    have h1 : PlansKept s₀ (s.setInst i { s.inst i with frames := (s.inst i).frames.erase f }) := h.setInst
    generalize s.setInst i _ = t at h1 ⊢
    exact h1.setFrame

theorem PlansKept.releaseFrame {f : Nat} (h : PlansKept s₀ s) : PlansKept s₀ (releaseFrame f s) :=
  .ite h.leaveQuota.setFrame.upd.logEvent h.leaveQuota.setFrame.upd

theorem PlansKept.unmapPage {i p : Nat} (h : PlansKept s₀ s) : PlansKept s₀ (unmapPage i p s) := by
  unfold Machine.unmapPage
  split
  · exact h
  · exact .ite h.setLeaf (.ite h.setLeaf.leaveQuota.upd h.setLeaf.releaseFrame)

theorem PlansKept.dropImages {i : Nat} {p : PlanEnt} (h : PlansKept s₀ s) : PlansKept s₀ (dropImages i p s) :=
  h.forBelow fun _ _ h1 => h1.setCmu

end

end Sys2Proof.Machine
end

section
/-!
PROOFS. Queues and plans as mailbox commands make and remove them (O37).
-/

namespace Sys2Proof.Machine

theorem getMbx_of_mbx {s t : State} (h : t.mbx = s.mbx) (fn : Nat) : t.getMbx fn = s.getMbx fn := by unfold State.getMbx; rw [h]

theorem modMbx_getMbx (fn : Nat) (f : Mbx → Mbx) (s : State) : (s.modMbx fn f).getMbx fn = f (s.getMbx fn) := State.setMbx_same ..

/-! ## Queues (R357 to R359, R398, R399) -/

/-- The end of a command that is answered at once. -/
theorem mbx_answers {c : Instr} {fn err d off : Nat} {pl : List Byte} {s t : State} {post : State → Prop}
    (h : exec c s = .next (endMbx fn err d off pl t)) (ha : t.mp.arbitrating = false)
    (hp : ∀ o w x, post { t with
      mp := { t.mp with outSeq := t.mp.outSeq + 1 }, mbx := t.mbx.set Mbx.reset fn (answered (t.getMbx fn) err d off pl),
      out := { t.out with host := o }, lnk := { t.lnk with hp := w, msixPend := x } }) :
    Does c s fun t => MbxEnded fn err t ∧ post t := by
  obtain ⟨o, w, x, e⟩ := endMbx_eq fn err d off pl ha
  refine ⟨_, h, endMbx_ended _ _ _ _ _ ha, ?_⟩
  rw [e]
  exact hp o w x

/-- An SQ keeps its state and its drain while outcomes of commands are presented. -/
def DrainKept (s t : State) : Prop :=
  t.mbx = s.mbx ∧ ∀ i n, (t.sq i n).st = (s.sq i n).st ∧ (t.sq i n).drain = (s.sq i n).drain

theorem DrainKept.trans {s t u : State} (h : DrainKept s t) (h' : DrainKept t u) : DrainKept s u :=
  ⟨h'.1.trans h.1, fun i n => ⟨(h'.2 i n).1.trans (h.2 i n).1, (h'.2 i n).2.trans (h.2 i n).2⟩⟩

theorem Calm.drainKept {s t : State} (h : Calm s t) : DrainKept s t :=
  ⟨h.mbx, fun i n => by rw [sq_of_ring h.ring]; exact ⟨rfl, rfl⟩⟩

theorem fixRecord_drainKept (c : Cmd) (s : State) : DrainKept s (fixRecord c s) := by
  refine ⟨rfl, fun i n => ?_⟩
  unfold fixRecord
  by_cases h : sqKey i n = sqKey c.inst c.sq
  · have e : ∀ x, (s.setSq c.inst c.sq x).sq i n = x := fun x => by
      unfold State.sq State.setSq
      rw [h]
      exact Tbl.get_set_same ..
    have e' : s.sq i n = s.sq c.inst c.sq := by unfold State.sq; rw [h]
    rw [e, e']
    exact ⟨rfl, rfl⟩
  · rw [State.setSq_ne _ _ _ _ h]
    exact ⟨rfl, rfl⟩

theorem presentOutcome_drainKept (slot st : Nat) (r0 : W64) (s : State) : DrainKept s (presentOutcome slot st r0 s) := by
  cases hc : s.cmd slot with
  | none => rw [presentOutcome_absent hc]; exact (Calm.refl s).drainKept
  | some c =>
    cases ho : c.outcome with
    | some x => rw [presentOutcome_fixed hc (by rw [ho]; rfl)]; exact (Calm.refl s).drainKept
    | none =>
      obtain ⟨r, h, -⟩ := presentOutcome_open (st := st) (r0 := r0) hc ho
      refine DrainKept.trans ?_ h.drainKept
      exact DrainKept.trans ⟨rfl, fun _ _ => ⟨rfl, rfl⟩⟩ (fixRecord_drainKept ..)

theorem failCmd_drainKept (slot st : Nat) (s : State) : DrainKept s (failCmd slot st s) := by
  unfold failCmd
  cases s.cmd slot with
  | none => exact (Calm.refl s).drainKept
  | some c => exact (Calm.refl s).openR0.drainKept.trans (presentOutcome_drainKept ..)

/-- Steps 1 to 3 of a drain (R398). -/
theorem drainSq_drains (i n : Nat) (delete : Bool) (mbx : Option Nat) (s : State) : let t := drainSq i n delete mbx s
    (t.sq i n).st = .draining ∧ (t.sq i n).drain = some (delete, mbx) ∧ t.mbx = s.mbx := by
  unfold drainSq
  dsimp only
  generalize hq : ({ s.sq i n with st := _, spores := _, copies := _, compares := _, framing := _, slotRes := _, stChain := _, stPhase := _, reads := _, phaseOn := _, drain := _ } : Sq) = q
  generalize List.map _ _ = mine
  have h : DrainKept (s.setSq i n q) (forEach (fun k s => failCmd k stQdel s) mine (s.setSq i n q)) :=
    forEach_keeps (fun k _ t h => h.trans (failCmd_drainKept k stQdel t)) (Calm.refl _).drainKept
  generalize forEach _ mine _ = t at h ⊢
  obtain ⟨h1, h2⟩ := h
  refine ⟨(h2 i n).1.trans ?_, (h2 i n).2.trans ?_, h1⟩
  · rw [State.setSq_same, ← hq]
  · rw [State.setSq_same, ← hq]

theorem onQueue_drains {fn mop : Nat} {delete : Bool} {s : State} (hm : MbxRuns fn mop queueIdRule s) (hk : (s.getMbx fn).arg 8 1 = 0)
    (hq : (s.sq fn ((s.getMbx fn).arg 0x0A 2)).st ≠ .disabled) (hd : (s.sq fn ((s.getMbx fn).arg 0x0A 2)).drain = none) :
    onQueue fn mop delete s = drainSq fn ((s.getMbx fn).arg 0x0A 2) delete (some fn) (s.modMbx fn fun m => { m with started := true }) := by
  unfold onQueue
  rw [onMbx_runs hm]
  dsimp only
  rw [if_neg (by omega), if_neg (by omega), if_neg hq, if_neg (by simp [hd])]

theorem onQueue_does {c : Instr} {fn mop : Nat} {delete : Bool} {s : State} (h : exec c s = .next (onQueue fn mop delete s))
    (hm : MbxRuns fn mop queueIdRule s) (hk : (s.getMbx fn).arg 8 1 = 0)
    (hq : (s.sq fn ((s.getMbx fn).arg 0x0A 2)).st ≠ .disabled) (hd : (s.sq fn ((s.getMbx fn).arg 0x0A 2)).drain = none) :
    Does c s fun t => (t.sq fn ((s.getMbx fn).arg 0x0A 2)).st = .draining ∧
      (t.sq fn ((s.getMbx fn).arg 0x0A 2)).drain = some (delete, some fn) ∧ (t.getMbx fn).started = true := by
  obtain ⟨h1, h2, h3⟩ := drainSq_drains fn ((s.getMbx fn).arg 0x0A 2) delete (some fn) (s.modMbx fn fun m => { m with started := true })
  refine Does.of (h.trans (next_congr (onQueue_drains hm hk hq hd))) ⟨h1, h2, ?_⟩
  rw [getMbx_of_mbx h3, modMbx_getMbx]

/-- Who waits for the end of a drain is answered; the queues stand. -/
theorem endDrain_ring {i n : Nat} {delete : Bool} {mbx : Option Nat} {s : State} (h : (s.sq i n).drain = some (delete, mbx)) :
    ∃ q, ((endDrain i n s).sq i n) = (if delete then Sq.absent else q) ∧ q = { s.sq i n with
      st := .active, cause := 0, tail := 0, head := 0, window := [], drain := none, stOutlim := false, stQuota := false, stCq := false } := by
  refine ⟨_, ?_, rfl⟩
  unfold endDrain
  dsimp only
  rw [h]
  dsimp only
  generalize hq : ({ s.sq i n with st := _, cause := _, tail := _, head := _, window := _, drain := _, stOutlim := _, stQuota := _, stCq := _ } : Sq) = q
  generalize hu : (if delete then trimCqs i _ else _) = u
  have hsq : u.sq i n = if delete then Sq.absent else q := by
    rw [← hu]
    cases delete
    · exact State.setSq_same ..
    · exact State.setSq_same s i n Sq.absent
  cases mbx with
  | none => exact hsq
  | some fn =>
    obtain ⟨_, _, _, _, _, _, e⟩ := endMbx_answers fn 0 0 0 [] u
    have e : mbxOk fn u = _ := e
    dsimp only
    rw [e]
    exact hsq

/-! ## Plans (R47 to R54, R481) -/

/-- No plan of the ID is bound once it is unbound and what no query runs is reaped. -/
theorem reapPlans_unbound (i id : Nat) (s : State) : let t := reapPlans i (unbindPlan i id s)
    (t.inst i).plans.any (fun p => decide (p.id = id) && p.ready && !p.gone) = false ∧ t.mp = s.mp ∧ t.disp = s.disp ∧
      t.mbx = s.mbx ∧ t.lnk = s.lnk := by
  unfold reapPlans
  dsimp only
  generalize hv : (unbindPlan i id s).setInst i _ = v
  generalize List.filter _ _ = dead
  have h : PlansKept v (forEach (fun (p : PlanEnt) s => dropImages i p (forEach (unmapPage i) p.pages s)) dead v) :=
    (PlansKept.refl v).forEach fun p _ h => (h.forEach fun _ _ h => h.unmapPage).dropImages
  generalize forEach _ dead v = t at h ⊢
  refine ⟨?_, ?_, ?_, ?_, ?_⟩
  · rw [h.inst_plans, ← hv, State.setInst_same]
    unfold unbindPlan
    rw [State.setInst_same]
    rw [List.any_eq_false]
    intro p hp
    obtain ⟨hp, -⟩ := List.mem_filter.1 hp
    obtain ⟨p, -, rfl⟩ := List.mem_map.1 hp
    split
    · simp
    · next hn => simpa [and_assoc] using hn
  · rw [h.mp, ← hv]; rfl
  · rw [h.disp, ← hv]; rfl
  · rw [h.mbx, ← hv]; rfl
  · rw [h.lnk, ← hv]; rfl

/-- Where no worker has part in it, an unloading ends with its answer. -/
theorem finishPlan_answers {fn id : Nat} {s : State} (hd : distOf s fn = none) (h : fn < 1000) :
    ∃ pl, finishPlan fn fn id false s = endMbx fn 0 0 0 pl s := by
  unfold finishPlan
  dsimp only
  rw [if_neg (by simp), hd]
  exact ⟨_, if_pos h⟩

/-- Settles O37. -/
theorem queuesAndPlans : Obligations.QueuesAndPlans := by
  unfold Obligations.QueuesAndPlans
  refine ⟨?_, ?_, ?_, ?_, ?_, ?_, ?_, ?_, ?_, ?_, ?_, ?_, ?_, ?_, ?_, ?_⟩
  · intro fn s hm hb hk hq
    refine mbx_answers (t := s.setCq fn ((s.getMbx fn).arg 0x0A 2) (cqOf (s.getMbx fn))) (pl := []) (d := 0) (off := 0) ?_ hm.gateOpen ?_
    · show execQueueCreate fn s = _
      unfold execQueueCreate
      rw [onMbx_runs hm, hb]
      dsimp only
      rw [if_pos hk, if_neg (by simp [hq])]
      rfl
    · exact fun o w x => ⟨(cq_of_ring rfl ..).trans (State.setCq_same ..), rfl⟩
  · intro fn s hm hb hk hq hc
    refine mbx_answers (t := s.setSq fn ((s.getMbx fn).arg 0x0A 2) (sqOf (s.getMbx fn))) (pl := []) (d := 0) (off := 0) ?_ hm.gateOpen ?_
    · show execQueueCreate fn s = _
      unfold execQueueCreate
      rw [onMbx_runs hm, hb]
      dsimp only
      rw [if_neg (by omega), if_neg (by simp [hq]), if_neg hc]
      rfl
    · exact fun o w x => ⟨(sq_of_ring rfl ..).trans (State.setSq_same ..), rfl⟩
  · intro fn o s hm hb
    refine mbx_answers (t := s) (pl := []) (d := 0) (off := o) ?_ hm.gateOpen fun _ _ _ => rfl
    show execQueueCreate fn s = _
    unfold execQueueCreate
    rw [onMbx_runs hm, hb]
    rfl
  · intro fn s hm hk hq hd
    exact onQueue_does rfl hm hk hq hd
  · intro fn s hm hk hq hd
    exact onQueue_does rfl hm hk hq hd
  · intro fn s hm hk hq hmap
    refine mbx_answers (t := s.setCq fn ((s.getMbx fn).arg 0x0A 2) Cq.absent) (pl := []) (d := 0) (off := 0) ?_ hm.gateOpen ?_
    · show execQueueDelete fn s = _
      unfold execQueueDelete onQueue
      rw [onMbx_runs hm]
      dsimp only
      rw [if_neg (by omega), if_pos hk, if_neg hq, if_neg (by simp), hmap]
      rfl
    · exact fun o w x => (cq_of_ring rfl ..).trans (State.setCq_same ..)
  · intro i n mbx s hd ho
    obtain ⟨q, hq, rfl⟩ := endDrain_ring hd
    refine Does.of (show execQueueDrainComplete i n s = _ from if_neg (by simp [hd, ho])) ?_
    rw [hq]
    exact ⟨rfl, rfl, rfl, rfl, rfl, rfl, rfl⟩
  · intro i n mbx s hd ho
    obtain ⟨q, hq, -⟩ := endDrain_ring hd
    exact Does.of (show execQueueDrainComplete i n s = _ from if_neg (by simp [hd, ho])) hq
  · intro fn img pb u s hm hb hbc hp hl ha hlp hr hu
    obtain ⟨o, w, x, hk, hports⟩ := mbxRead_reads fn (s.getMbx fn)
      [((s.getMbx fn).arg 0x10 8, (s.getMbx fn).arg 0x18 4), ((s.getMbx fn).arg 0x20 8, (s.getMbx fn).arg 0x28 2)] hr
    rw [hl, hlp, hk] at hu
    have hpu : (u.hostPort (s.getMbx fn).port).absent = false := by
      rw [← hu]
      exact (hports _).2.trans hp
    show execPlanLoad fn (some img) (some pb) s = _
    unfold execPlanLoad
    rw [onMbx_runs hm, hb]
    dsimp only
    rw [hbc]
    dsimp only
    rw [hk, show ({ s with out := { s.out with host := o }, lnk := { s.lnk with hp := w, msixPend := x } } : State) = u from hu, hostGave_present _ hpu, hostGave_present _ hpu, whole_of_length hl, whole_of_length hlp, if_neg ha]
  · intro fn h1 h2 s hm hb hbc hn hr
    show execPlanLoad fn h1 h2 s = _
    unfold execPlanLoad
    rw [onMbx_runs hm, hb]
    dsimp only
    rw [hbc]
    unfold mbxRead
    dsimp only
    rw [if_neg]
    simp [hr, hn]
  · intro fn h1 h2 s hm hb hrep hex
    refine mbx_answers (t := s) (pl := []) (d := 0x0F) (off := 8) ?_ hm.gateOpen fun _ _ _ => ⟨rfl, rfl⟩
    have hbc : beforeCopy s fn ((s.getMbx fn).arg 8 4) ((s.getMbx fn).arg 0x18 4) (bit ((s.getMbx fn).arg 0xC 1) 0) = some 0x0F :=
      if_pos (by rw [hrep]; exact hex)
    show execPlanLoad fn h1 h2 s = _
    unfold execPlanLoad
    rw [onMbx_runs hm, hb]
    dsimp only
    rw [hbc]
    rfl
  · intro fn s hfn hm hw hdist hany
    obtain ⟨h1, h2, -, -, h5⟩ := reapPlans_unbound fn ((s.getMbx fn).arg 8 4) (s.modMbx fn fun m => { m with started := true })
    have e : execPlanUnload fn s = .next (finishPlan fn fn ((s.getMbx fn).arg 8 4) false (distribute fn fn ((s.getMbx fn).arg 8 4) false
        [planDrop ((s.getMbx fn).arg 8 4)]
        (reapPlans fn (unbindPlan fn ((s.getMbx fn).arg 8 4) (s.modMbx fn fun m => { m with started := true }))))) := by
      unfold execPlanUnload
      rw [onMbx_runs hm]
      dsimp only
      rw [hany]
      rfl
    generalize reapPlans _ _ = u at h1 h2 h5 e
    have hdu : distOf u fn = none := by unfold distOf; rw [h5]; exact hdist
    have ed : distribute fn fn ((s.getMbx fn).arg 8 4) false [planDrop ((s.getMbx fn).arg 8 4)] u = u := if_pos (by rw [h5]; exact congrArg List.isEmpty hw)
    obtain ⟨pl, ef⟩ := finishPlan_answers (id := (s.getMbx fn).arg 8 4) hdu hfn
    rw [ed, ef] at e
    exact mbx_answers (t := u) e (by rw [h2]; exact hm.gateOpen) fun _ _ _ => h1
  · intro fn s hm hany
    refine mbx_answers (t := s) (pl := []) (d := 0) (off := 0) ?_ hm.gateOpen fun _ _ _ => rfl
    show execPlanUnload fn s = _
    unfold execPlanUnload
    rw [onMbx_runs hm]
    dsimp only
    rw [hany]
    rfl
  · intro i id s hr ha hf
    refine Does.of (t := unholdPlan i id s) (show execPlanReload i id s = _ from ?_) ⟨rfl, rfl, rfl⟩
    unfold execPlanReload
    dsimp only
    rw [if_neg (by rw [hr, ha]; decide), show List.find? _ ((unholdPlan i id s).inst i).plans = none from hf]
  · intro i id e s hr ha hf hok
    refine Does.of (t := unholdPlan i id s) (show execPlanReload i id s = _ from ?_) ⟨rfl, rfl, rfl, rfl⟩
    unfold execPlanReload
    dsimp only
    rw [if_neg (by rw [hr, ha]; decide), show List.find? _ ((unholdPlan i id s).inst i).plans = some e from hf]
    exact if_neg (by rw [hok]; decide)
  · intro i id e s hr ha hf hbad
    obtain ⟨h1, h2, h3, h4, h5⟩ := reapPlans_unbound i id (unholdPlan i id s)
    refine Does.of (t := fwEvent 0x0602 i id (reapPlans i (unbindPlan i id (unholdPlan i id s)))) (show execPlanReload i id s = _ from ?_) ?_
    · unfold execPlanReload
      dsimp only
      rw [if_neg (by rw [hr, ha]; decide), show List.find? _ ((unholdPlan i id s).inst i).plans = some e from hf]
      exact if_pos hbad
    · rw [fwEvent_open (by rw [h2]; exact ha)]
      exact ⟨congrArg MpSt.reloads h2, congrArg DispSt.reloading h3, h1, rfl⟩

end Sys2Proof.Machine
end

section
/-!
PROOFS. Fences, ends of commands and drains leave the states of instances and the fences as they were.
-/

namespace Sys2Proof.Machine

/-- From s₀ to s the states, quotas and resizes of instances, the fences and the functions' enables are unchanged. -/
structure Fenced (s₀ s : State) : Prop where
  time : s.time = s₀.time
  pads : s.pads = s₀.pads
  fences : s.disp.fences = s₀.disp.fences
  vfEnable : s.lnk.vfEnable = s₀.lnk.vfEnable
  numVfs : s.lnk.numVfs = s₀.lnk.numVfs
  arbitrating : s.mp.arbitrating = s₀.mp.arbitrating
  inst_st : ∀ j, (s.inst j).st = (s₀.inst j).st
  inst_res : ∀ j, (s.inst j).res = (s₀.inst j).res
  inst_resize : ∀ j, (s.inst j).resize = (s₀.inst j).resize

theorem Fenced.refl (s : State) : Fenced s s := ⟨rfl, rfl, rfl, rfl, rfl, rfl, fun _ => rfl, fun _ => rfl, fun _ => rfl⟩

section
variable {s₀ s t : State}

/-- An update of the parts that `Fenced` does not name. -/
theorem Fenced.upd {pending seed fronds ring disp mem eng store insts mbx haw log mp pwr tel sec lnk out} (h : Fenced s₀ s)
    (h_fences : disp.fences = s.disp.fences := by rfl)
    (h_vfEnable : lnk.vfEnable = s.lnk.vfEnable := by rfl)
    (h_numVfs : lnk.numVfs = s.lnk.numVfs := by rfl)
    (h_arbitrating : mp.arbitrating = s.mp.arbitrating := by rfl)
    (h_inst : insts = s.insts := by rfl) :
    Fenced s₀ { s with pending, seed, fronds, ring, disp, mem, eng, store, insts, mbx, haw, log, mp, pwr, tel, sec, lnk, out } :=
  { h with
    fences := h_fences.trans h.fences,
    vfEnable := h_vfEnable.trans h.vfEnable,
    numVfs := h_numVfs.trans h.numVfs,
    arbitrating := h_arbitrating.trans h.arbitrating,
    inst_st := fun j => (congrArg (fun t : Tbl Inst => (t.get Inst.absent j).st) h_inst).trans (h.inst_st j),
    inst_res := fun j => (congrArg (fun t : Tbl Inst => (t.get Inst.absent j).res) h_inst).trans (h.inst_res j),
    inst_resize := fun j => (congrArg (fun t : Tbl Inst => (t.get Inst.absent j).resize) h_inst).trans (h.inst_resize j) }

theorem Fenced.setInst {i : Nat} {x : Inst} (h : Fenced s₀ s)
    (h_st : x.st = (s.inst i).st := by rfl)
    (h_res : x.res = (s.inst i).res := by rfl)
    (h_resize : x.resize = (s.inst i).resize := by rfl) :
    Fenced s₀ (s.setInst i x) :=
  { h with
    inst_st := fun j => (Tbl.get_set_field Inst.st h_st j).trans (h.inst_st j),
    inst_res := fun j => (Tbl.get_set_field Inst.res h_res j).trans (h.inst_res j),
    inst_resize := fun j => (Tbl.get_set_field Inst.resize h_resize j).trans (h.inst_resize j) }

theorem Fenced.ite {c : Prop} [Decidable c] (h : Fenced s₀ s) (k : Fenced s₀ t) : Fenced s₀ (if c then s else t) := by
  split
  · exact h
  · exact k

theorem Fenced.forEach {β : Type} {f : β → State → State} {l : List β} (h : Fenced s₀ s)
    (hf : ∀ b t, Fenced s₀ t → Fenced s₀ (f b t)) : Fenced s₀ (Machine.forEach f l s) :=
  forEach_keeps (fun b _ t => hf b t) h

theorem Fenced.forBelow {f : Nat → State → State} {n : Nat} (h : Fenced s₀ s) (hf : ∀ b t, Fenced s₀ t → Fenced s₀ (f b t)) :
    Fenced s₀ (Machine.forBelow f n s) := by
  induction n with
  | zero => exact h
  | succ n ih => exact hf _ _ ih

theorem Fenced.foldl {β : Type} {f : State → β → State} {l : List β} (h : Fenced s₀ s) (hf : ∀ b t, Fenced s₀ t → Fenced s₀ (f t b)) :
    Fenced s₀ (l.foldl f s) := by
  induction l generalizing s with
  | nil => exact h
  | cons b l ih => exact ih (hf b s h)

theorem Fenced.forEachSnd {α β : Type} {f : β → α × State → α × State} {l : List β} {p : α × State} (h : Fenced s₀ p.2)
    (hf : ∀ b p, Fenced s₀ p.2 → Fenced s₀ (f b p).2) : Fenced s₀ (Machine.forEach f l p).2 := by
  induction l generalizing p with
  | nil => exact h
  | cons b l ih => exact ih (hf b p h)

theorem Fenced.foldlSnd {α β : Type} {f : α × State → β → α × State} {l : List β} {p : α × State} (h : Fenced s₀ p.2)
    (hf : ∀ b p, Fenced s₀ p.2 → Fenced s₀ (f p b).2) : Fenced s₀ (l.foldl f p).2 := by
  induction l generalizing p with
  | nil => exact h
  | cons b l ih => exact ih (hf b p h)

theorem Fenced.of_snd_snd {α β : Type} {p : α × β × State} {a : α} {b : β} (h : Fenced s₀ p.2.2) (e : p = (a, b, t)) : Fenced s₀ t := by
  rw [e] at h; exact h

/-- The state of a result. -/
theorem Fenced.of_snd {α : Type} {p : α × State} {a : α} (h : Fenced s₀ p.2) (e : p = (a, t)) : Fenced s₀ t := by
  rw [e] at h; exact h

end

end Sys2Proof.Machine
end

section
namespace Sys2Proof.Machine

section
-- Each of these short lemmas would else wait in a thread of its own.
set_option Elab.async false
variable {s₀ s t : State}

theorem Fenced.setSq {i n : Nat} {x : Sq} (h : Fenced s₀ s) : Fenced s₀ (s.setSq i n x) := h.upd

theorem Fenced.setCq {i n : Nat} {x : Cq} (h : Fenced s₀ s) : Fenced s₀ (s.setCq i n x) := h.upd

theorem Fenced.setCmd {k : Nat} {x : Option Cmd} (h : Fenced s₀ s) : Fenced s₀ (s.setCmd k x) := h.upd

theorem Fenced.modCmd {k : Nat} {f : Cmd → Cmd} (h : Fenced s₀ s) : Fenced s₀ (s.modCmd k f) := by
  unfold Machine.State.modCmd
  split
  · exact h
  · exact h.setCmd

theorem Fenced.setMbx {i : Nat} {x : Mbx} (h : Fenced s₀ s) : Fenced s₀ (s.setMbx i x) := h.upd

theorem Fenced.setHaw {i : Nat} {x : Haw} (h : Fenced s₀ s) : Fenced s₀ (s.setHaw i x) := h.upd

theorem Fenced.setChan {c : Nat} {x : Chan} (h : Fenced s₀ s) : Fenced s₀ (s.setChan c x) := h.upd

theorem Fenced.setCmu {u : Nat} {x : CmuUnit} (h : Fenced s₀ s) : Fenced s₀ (s.setCmu u x) := h.upd

theorem Fenced.setSmu {u : Nat} {x : SmuUnit} (h : Fenced s₀ s) : Fenced s₀ (s.setSmu u x) := h.upd

theorem Fenced.setDgu {u : Nat} {x : DguUnit} (h : Fenced s₀ s) : Fenced s₀ (s.setDgu u x) := h.upd

theorem Fenced.setLink {l : Nat} {x : Link} (h : Fenced s₀ s) : Fenced s₀ (s.setLink l x) := h.upd

theorem Fenced.setHostPort {p : Nat} {x : HostPort} (h : Fenced s₀ s) : Fenced s₀ (s.setHostPort p x) := h.upd

theorem Fenced.freshNat (h : Fenced s₀ s) : Fenced s₀ s.freshNat.2 := h.upd

theorem Fenced.logOne {code src inst detail : Nat} (h : Fenced s₀ s) : Fenced s₀ (logOne code src inst detail s) := h.upd

theorem Fenced.logEvent {code src inst detail : Nat} {ext : Option Nat} (h : Fenced s₀ s) :
    Fenced s₀ (logEvent code src inst detail ext s) := by
  unfold Machine.logEvent
  split
  · exact h.logOne
  · exact h.logOne.logOne

theorem Fenced.gateOut {o : GateOut} {release : State → State} (h : Fenced s₀ s) (hf : ∀ t, Fenced s₀ t → Fenced s₀ (release t)) :
    Fenced s₀ (gateOut o release s) := .ite h.upd.upd (hf _ h.upd)

theorem Fenced.fwEvent {code inst detail : Nat} (h : Fenced s₀ s) : Fenced s₀ (fwEvent code inst detail s) :=
  h.gateOut fun _ h1 => h1.logEvent

theorem Fenced.hostOut {port : Nat} {m : HostMsg} (h : Fenced s₀ s) : Fenced s₀ (hostOut port m s) :=
  .ite h.upd (.ite h h.setHostPort)

theorem Fenced.hostSend {port : Nat} {m : HostMsg} (h : Fenced s₀ s) : Fenced s₀ (hostSend port m s) := by
  unfold Machine.hostSend
  split
  · exact .ite (.ite h h.upd) h.hostOut
  · exact h.hostOut

theorem Fenced.hostWrite {port fn addr : Nat} {d : List Byte} (h : Fenced s₀ s) : Fenced s₀ (hostWrite port fn addr d s) :=
  h.hostSend

theorem Fenced.hostWriteFor {port fn acc addr : Nat} {d : List Byte} (h : Fenced s₀ s) :
    Fenced s₀ (hostWriteFor port fn acc addr d s) := .ite h.hostWrite h.hostWrite.setHostPort

theorem Fenced.hawEvent {i b : Nat} (h : Fenced s₀ s) : Fenced s₀ (hawEvent i b s) := .ite h.setHaw.hostSend h.setHaw

theorem Fenced.addCounter {i k n : Nat} (h : Fenced s₀ s) : Fenced s₀ (addCounter i k n s) := .ite h h.setInst

theorem Fenced.setFrame {f : Nat} {x : Frame} (h : Fenced s₀ s) : Fenced s₀ (s.setFrame f x) := h.upd

theorem Fenced.colourFault {req : Option Nat} {a found : Nat} (h : Fenced s₀ s) : Fenced s₀ (colourFault req a found s) := by
  unfold Machine.colourFault
  exact h.upd.logEvent

theorem Fenced.uncorrectable {req : Option Nat} {a : Nat} (h : Fenced s₀ s) : Fenced s₀ (uncorrectable req a s) := by
  have h1 : Fenced s₀ (s.setChan (chanAt a) { s.chan (chanAt a) with ue := (s.chan (chanAt a)).ue + 1 }) := h.setChan
  unfold Machine.uncorrectable
  dsimp only
  generalize s.setChan _ _ = t at h1 ⊢
  refine .logEvent ?_
  split
  · exact h1.upd
  · exact h1.setFrame.upd

theorem Fenced.writeCw {req : Option Nat} {k a : Nat} {d : List Byte} (h : Fenced s₀ s) : Fenced s₀ (writeCw req k a d s).2 := by
  unfold Machine.writeCw
  dsimp only
  split
  · exact h
  split
  · exact h.upd
  split
  · exact h.uncorrectable
  split
  · exact h.colourFault
  · exact h.upd

theorem Fenced.writePhys {req : Option Nat} {a : Nat} {d : List Byte} (h : Fenced s₀ s) : Fenced s₀ (writePhys req a d s).2 := by
  unfold Machine.writePhys
  dsimp only
  split
  · dsimp only
    exact h.colourFault
  · split
    · dsimp only
      exact h.colourFault
    · exact h.forEachSnd fun _ _ h1 => h1.writeCw

theorem Fenced.devWriteLine {i a : Nat} {d : List Byte} (h : Fenced s₀ s) : Fenced s₀ (devWriteLine i a d s).2 := by
  unfold Machine.devWriteLine
  split
  · dsimp only
    exact h
  · dsimp only
    exact h.colourFault
  · split
    · rename_i he1
      dsimp only
      exact .of_snd h.writePhys he1
    · rename_i he2
      dsimp only
      exact .of_snd h.writePhys he2

theorem Fenced.devWrite {i a a1 : Nat} {a2 : List Byte} (h : Fenced s₀ s) : Fenced s₀ (devWrite i a a1 a2 s).2 := by
  induction a generalizing i a1 a2 s with
  | zero =>
    unfold Machine.devWrite
    dsimp only
    exact h
  | succ n ih =>
    unfold Machine.devWrite
    dsimp only
    split
    · dsimp only
      exact h
    · split
      · rename_i he1
        dsimp only
        exact .of_snd h.devWriteLine he1
      · rename_i he1
        exact ih (.of_snd h.devWriteLine he1)

theorem Fenced.devWriteN {i a : Nat} {d : List Byte} (h : Fenced s₀ s) : Fenced s₀ (devWriteN i a d s).2 := h.devWrite

theorem Fenced.putLeaf {b p : Nat} {e : W32} (h : Fenced s₀ s) : Fenced s₀ (putLeaf b p e s) := h.upd

theorem Fenced.setLeaf {i p : Nat} {e : W32} (h : Fenced s₀ s) : Fenced s₀ (setLeaf i p e s) := by
  unfold Machine.setLeaf
  split
  · exact h.putLeaf
  · split
    · exact h
    · exact h.upd.putLeaf

theorem Fenced.leaveQuota {f : Nat} (h : Fenced s₀ s) : Fenced s₀ (leaveQuota f s) := by
  unfold Machine.leaveQuota
  split
  · exact h
  · next i _ =>
    have h1 : Fenced s₀ (s.setInst i { s.inst i with frames := (s.inst i).frames.erase f }) := h.setInst
    generalize s.setInst i _ = t at h1 ⊢
    exact h1.setFrame

theorem Fenced.releaseFrame {f : Nat} (h : Fenced s₀ s) : Fenced s₀ (releaseFrame f s) :=
  .ite h.leaveQuota.setFrame.upd.logEvent h.leaveQuota.setFrame.upd

theorem Fenced.unmapPage {i p : Nat} (h : Fenced s₀ s) : Fenced s₀ (unmapPage i p s) := by
  unfold Machine.unmapPage
  split
  · exact h
  · exact .ite h.setLeaf (.ite h.setLeaf.leaveQuota.upd h.setLeaf.releaseFrame)

theorem Fenced.dropWaits {p : AllocWait → Bool} (h : Fenced s₀ s) : Fenced s₀ (dropWaits p s) := by
  unfold Machine.dropWaits
  refine .forEach h.upd ?_
  intro _ _ h1
  split
  · exact h1.releaseFrame
  · exact h1

theorem Fenced.onGrant {g : Grant} (h : Fenced s₀ s) : Fenced s₀ (onGrant g s) := by
  unfold Machine.onGrant
  split
  · exact h.upd
  · dsimp only
    split
    · exact .ite h.upd h.upd
    · exact .ite (.ite h.upd h.upd) (.setFrame (.ite h.upd h.upd))
  · exact h.setSmu
  · exact h.setCmu
  · exact .ite h.setLink h
  · exact h

theorem Fenced.dropWaitTimer {id : Nat} (h : Fenced s₀ s) : Fenced s₀ (dropWaitTimer id s) := h.upd

theorem Fenced.giveGrant {g : Grant} (h : Fenced s₀ s) : Fenced s₀ (giveGrant g s) := h.upd.dropWaitTimer.onGrant

theorem Fenced.grantQueue {a : List Grant} {a1 : List (Option Nat)} (h : Fenced s₀ s) : Fenced s₀ (grantQueue a a1 s) := by
  induction a generalizing a1 s with
  | nil =>
    unfold Machine.grantQueue
    exact h
  | cons b l ih =>
    unfold Machine.grantQueue
    dsimp only
    exact .ite (ih h) (.ite (ih h.upd.giveGrant) (.ite (ih h) (.ite (ih h) h)))

theorem Fenced.reinstate {a : List Grant} {a1 : List (Option Nat)} (h : Fenced s₀ s) : Fenced s₀ (reinstate a a1 s) := by
  induction a generalizing a1 s with
  | nil =>
    unfold Machine.reinstate
    exact h
  | cons b l ih =>
    unfold Machine.reinstate
    dsimp only
    exact .ite (ih h) (.ite (ih h.upd.onGrant) (.ite (ih h) h))

theorem Fenced.raiseSag {d : Nat} (h : Fenced s₀ s) : Fenced s₀ (raiseSag d s) := .ite h h.upd

theorem Fenced.examineGrants (h : Fenced s₀ s) : Fenced s₀ (examineGrants s) :=
  .grantQueue (.ite h (h.reinstate.forBelow (fun _ _ h1 => h1.raiseSag)))

theorem Fenced.chargeGrant {g : Grant} (h : Fenced s₀ s) : Fenced s₀ (chargeGrant g s) := by
  unfold Machine.chargeGrant
  split
  · exact h.addCounter
  · exact h

theorem Fenced.endGrant {id : Nat} (h : Fenced s₀ s) : Fenced s₀ (endGrant id s) := by
  unfold Machine.endGrant
  dsimp only
  have h1 : Fenced s₀ (Machine.forEach Machine.chargeGrant (s.pwr.grants.filter fun g => g.id = id) s) := h.forEach fun _ _ h =>
    h.chargeGrant
  exact (h1.upd).dropWaitTimer.examineGrants

theorem Fenced.countSmu {u i bytes jobs : Nat} (h : Fenced s₀ s) : Fenced s₀ (countSmu u i bytes jobs s) := h.setSmu

theorem Fenced.dropJobs {slot u : Nat} (h : Fenced s₀ s) : Fenced s₀ (dropJobs slot u s) :=
  .ite (h.forEach (fun _ _ h1 => .ite h1.freshNat.countSmu h1)) (.setSmu (h.forEach (fun _ _ h1 => .ite h1.freshNat.countSmu h1)))

theorem Fenced.dropCursors {slot : Nat} (h : Fenced s₀ s) : Fenced s₀ (dropCursors slot s) := h.upd

theorem Fenced.setCtx {u k : Nat} {x : Ctx} (h : Fenced s₀ s) : Fenced s₀ (s.setCtx u k x) := h.setDgu

theorem Fenced.leaveLane {u k : Nat} (h : Fenced s₀ s) : Fenced s₀ (leaveLane u k s) := h.setDgu

theorem Fenced.failCtxCmp {u k dt : Nat} {cmp : BitVec 2} (h : Fenced s₀ s) : Fenced s₀ (failCtxCmp u k dt cmp s) :=
  h.setCtx.leaveLane

theorem Fenced.failCtx {u k dt : Nat} (h : Fenced s₀ s) : Fenced s₀ (failCtx u k dt s) := h.failCtxCmp

theorem Fenced.clearCtx {u k : Nat} (h : Fenced s₀ s) : Fenced s₀ (clearCtx u k s) := h.failCtx.setDgu

theorem Fenced.logCleared {u : Nat} (h : Fenced s₀ s) : Fenced s₀ (logCleared u s) := by
  unfold Machine.logCleared
  exact h.freshNat.logEvent

theorem Fenced.forCtxs {p : Ctx → Bool} {f : Nat → Nat → State → State} {u : Nat} (h : Fenced s₀ s)
    (hf : ∀ a a1 t, Fenced s₀ t → Fenced s₀ (f a a1 t)) :
    Fenced s₀ (forCtxs p f u s) := h.forEach (fun _ _ h1 => .ite (hf _ _ _ h1) h1)

theorem Fenced.stopDigests {slot : Nat} (h : Fenced s₀ s) : Fenced s₀ (stopDigests slot s) :=
  h.forBelow (fun _ _ h1 => h1.forCtxs (fun _ _ _ h2 => h2.failCtx))

theorem Fenced.endHolders {p : Holder → Bool} (h : Fenced s₀ s) : Fenced s₀ (endHolders p s) :=
  h.forEach fun _ _ h1 => h1.endGrant

theorem Fenced.stopWork {slot status : Nat} (h : Fenced s₀ s) : Fenced s₀ (stopWork slot status s) := by
  unfold Machine.stopWork
  dsimp only
  have h1 : Fenced s₀ (Machine.forBelow (Machine.dropJobs slot) 8 (Machine.dropCursors slot s)) := h.dropCursors.forBelow
    fun _ _ h1 => h1.dropJobs
  generalize Machine.forBelow (Machine.dropJobs slot) 8 (Machine.dropCursors slot s) = t at h1 ⊢
  exact .endHolders (.ite h1.upd (.stopDigests h1.upd))

theorem Fenced.fixRecord {c : Cmd} (h : Fenced s₀ s) : Fenced s₀ (fixRecord c s) := h.setSq

theorem Fenced.presentFence {slot : Nat} (h : Fenced s₀ s) : Fenced s₀ (presentFence slot s) := by
  unfold Machine.presentFence
  split
  · exact h
  · exact .ite h h.setCmd.fixRecord.stopWork

theorem Fenced.signalCq {i n : Nat} {force : Bool} (h : Fenced s₀ s) : Fenced s₀ (signalCq i n force s) := .ite h.setCq.hostSend h

theorem Fenced.dropImages {i : Nat} {p : PlanEnt} (h : Fenced s₀ s) : Fenced s₀ (dropImages i p s) :=
  h.forBelow fun _ _ h1 => h1.setCmu

theorem Fenced.reapPlans {i : Nat} (h : Fenced s₀ s) : Fenced s₀ (reapPlans i s) :=
  h.setInst.forEach (fun _ _ h1 => .dropImages (h1.forEach (fun _ _ h2 => h2.unmapPage)))

theorem Fenced.retireCmd {slot : Nat} (h : Fenced s₀ s) : Fenced s₀ (retireCmd slot s) := by
  unfold Machine.retireCmd
  split
  · exact h
  · exact .upd (.reapPlans (h.setCmd.forEach (fun _ _ h1 => h1.unmapPage)))

theorem Fenced.countRing {i : Nat} {f : RingCnt → RingCnt} (h : Fenced s₀ s) : Fenced s₀ (countRing i f s) := h.upd

theorem Fenced.setStall {i n : Nat} {o k c : Bool} (h : Fenced s₀ s) : Fenced s₀ (setStall i n o k c s) :=
  .ite h.setSq.countRing h.setSq

theorem Fenced.markCq {i n : Nat} {b : Bool} (h : Fenced s₀ s) : Fenced s₀ (markCq i n b s) := h.forEach fun _ _ h1 => h1.setStall

theorem Fenced.writeEntryNow {slot n : Nat} (h : Fenced s₀ s) : Fenced s₀ (writeEntryNow slot n s) := by
  unfold Machine.writeEntryNow
  split
  · exact h
  · exact h.hostWrite.setCq.setSq.addCounter.addCounter.upd.retireCmd.signalCq

theorem Fenced.holdEntry {slot i n : Nat} (h : Fenced s₀ s) : Fenced s₀ (holdEntry slot i n s) :=
  .ite (.markCq (.modCmd (.ite h.setCq h.setCq))) (.logEvent (.hawEvent (.markCq (.modCmd (.ite h.setCq h.setCq)))))

theorem Fenced.placeOne {slot : Nat} (h : Fenced s₀ s) : Fenced s₀ (placeOne slot s) := by
  unfold Machine.placeOne
  split
  · exact h
  · exact .ite h.retireCmd (.ite h.writeEntryNow h.holdEntry)

theorem Fenced.placeDups {c : Cmd} (h : Fenced s₀ s) : Fenced s₀ (placeDups c s) := h.forEach fun _ _ h1 => h1.modCmd.placeOne

theorem Fenced.completeCmd {slot : Nat} (h : Fenced s₀ s) : Fenced s₀ (completeCmd slot s) := by
  unfold Machine.completeCmd
  split
  · exact h
  · exact .ite h.placeOne h.placeOne.placeDups

theorem Fenced.pumpGo {l : Nat} {fs : List Flit} {blocked : List Nat} (h : Fenced s₀ s) : Fenced s₀ (pumpGo l fs blocked s) := by
  induction fs generalizing blocked s with
  | nil => exact h
  | cons b fs ih =>
    unfold Machine.pumpGo
    dsimp only
    exact .ite h (.ite (ih h) (ih h.setLink.upd))

theorem Fenced.pump {l : Nat} (h : Fenced s₀ s) : Fenced s₀ (pump l s) := h.pumpGo

theorem Fenced.linkBytes {vc : Nat} {own : Option (Nat × Nat)} {f : RFrame} {b : List Byte} (h : Fenced s₀ s) :
    Fenced s₀ (linkBytes vc own f b s) := .ite h h.setLink.upd.pump

theorem Fenced.linkFrame {level : Nat} {f : RFrame} (h : Fenced s₀ s) : Fenced s₀ (linkFrame level f s) := h.linkBytes

theorem Fenced.sendFrame {ft hops : Nat} {route : W32} {inst : Nat} {xid : W64} {level : Nat} {payload : List Byte}
    (h : Fenced s₀ s) :
    Fenced s₀ (sendFrame ft hops route inst xid level payload s) := .linkFrame (.ite h.upd h.upd.upd)

theorem Fenced.respond {fn err detail off : Nat} {payload : List Byte} (h : Fenced s₀ s) :
    Fenced s₀ (respond fn err detail off payload s) := .ite h.setMbx.hostSend h.setMbx

theorem Fenced.endMbx {fn err detail off : Nat} {payload : List Byte} (h : Fenced s₀ s) :
    Fenced s₀ (endMbx fn err detail off payload s) := h.gateOut fun _ h1 => h1.respond

theorem Fenced.mbxErr {fn err : Nat} (h : Fenced s₀ s) : Fenced s₀ (mbxErr fn err s) := h.endMbx

theorem Fenced.mbxOk {fn : Nat} (h : Fenced s₀ s) : Fenced s₀ (mbxOk fn s) := h.endMbx

theorem Fenced.dropPages {i : Nat} {ps : List Nat} (h : Fenced s₀ s) : Fenced s₀ (dropPages i ps s) :=
  h.dropWaits.forEach fun _ _ h1 => h1.unmapPage

theorem Fenced.fenceCmu {i u : Nat} (h : Fenced s₀ s) : Fenced s₀ (fenceCmu i u s) := by
  unfold Machine.fenceCmu
  refine .forEach h.setCmu ?_
  intro _ _ h1
  split
  · exact h1.mbxErr
  · exact h1

theorem Fenced.setPhase {slot : Nat} {p : CmdPhase} (h : Fenced s₀ s) : Fenced s₀ (setPhase slot p s) := h.modCmd

theorem Fenced.areaWrite {i : Nat} {a : Area} {a1 a2 : Nat} {a3 : List Byte} (h : Fenced s₀ s) :
    Fenced s₀ (Area.write i a a1 a2 a3 s).2 := by
  induction a1 generalizing i a a2 a3 s with
  | zero =>
    unfold Machine.Area.write
    dsimp only
    exact h
  | succ n ih =>
    unfold Machine.Area.write
    dsimp only
    split
    · dsimp only
      exact h
    · split
      · rename_i he1
        dsimp only
        exact .of_snd h.devWriteN he1
      · rename_i he1
        exact ih (.of_snd h.devWriteN he1)

theorem Fenced.areaPut {i : Nat} {a : Area} {off : Nat} {d : List Byte} (h : Fenced s₀ s) :
    Fenced s₀ (Area.put i a off d s).2 := h.areaWrite

theorem Fenced.writeOut {c : Cmd} {o : OutRun} {off : Nat} {d : List Byte} (h : Fenced s₀ s) :
    Fenced s₀ (writeOut c o off d s).2 := by
  unfold Machine.writeOut
  split
  · dsimp only
    exact h.hostWriteFor.addCounter
  · split
    · exact h.devWriteN
    · dsimp only
      exact h

theorem Fenced.sendStop {xid : W64} {inst : Nat} (h : Fenced s₀ s) : Fenced s₀ (sendStop xid inst s) :=
  h.upd.forEach fun _ _ h1 => h1.sendFrame

theorem Fenced.dropFan {xid : W64} (h : Fenced s₀ s) : Fenced s₀ (dropFan xid s) := h.upd

theorem Fenced.writeHeaders {slot : Nat} {c : Cmd} (h : Fenced s₀ s) : Fenced s₀ (writeHeaders slot c s) := by
  unfold Machine.writeHeaders
  split
  · exact h
  · exact .ite h (h.forEach (fun _ _ h1 => .ite h1.writeOut h1))

theorem Fenced.writeOwn {c : Cmd} (h : Fenced s₀ s) : Fenced s₀ (writeOwn c s) := by
  unfold Machine.writeOwn
  refine .ite h ?_
  split
  · exact .ite h.hostWriteFor.addCounter h
  · exact .ite h.hostWriteFor.addCounter h
  · exact h

theorem Fenced.closeOwn {slot : Nat} {c : Cmd} (h : Fenced s₀ s) : Fenced s₀ (closeOwn slot c s) := by
  unfold Machine.closeOwn
  split
  · exact .ite h.setCtx.leaveLane h
  · exact h

theorem Fenced.endCommand {slot : Nat} {c : Cmd} (h : Fenced s₀ s) : Fenced s₀ (endCommand slot c s) := by
  unfold Machine.endCommand
  dsimp only
  split
  · exact h.writeHeaders.writeOwn.closeOwn.setPhase.completeCmd.dropFan
  · exact h.writeHeaders.writeOwn.closeOwn.setPhase.completeCmd

theorem Fenced.trimCqs {i : Nat} (h : Fenced s₀ s) : Fenced s₀ (trimCqs i s) := h.upd

theorem Fenced.endDrain {i n : Nat} (h : Fenced s₀ s) : Fenced s₀ (endDrain i n s) := by
  unfold Machine.endDrain
  dsimp only
  split
  · exact h
  · split
    · exact .mbxOk (.ite h.setSq.trimCqs h.setSq)
    · exact .ite h.setSq.trimCqs h.setSq

theorem Fenced.fenceDigests {i : Nat} (h : Fenced s₀ s) : Fenced s₀ (fenceDigests i s) :=
  h.forBelow (fun _ _ h1 => .ite (.logCleared (h1.forCtxs (fun _ _ _ h2 => h2.clearCtx))) h1)

theorem Fenced.fenceExchange {i : Nat} (h : Fenced s₀ s) : Fenced s₀ (fenceExchange i s) := h.upd

theorem Fenced.fenceHost {i : Nat} (h : Fenced s₀ s) : Fenced s₀ (fenceHost i s) := h.upd

theorem Fenced.fenceAll {i : Nat} (h : Fenced s₀ s) : Fenced s₀ (fenceAll i s) :=
  .fenceHost (.fenceExchange
    (.fenceDigests (.forBelow (.upd (h.forEach (fun _ _ h1 => h1.presentFence))) (fun _ _ h1 => h1.fenceCmu))))

theorem Fenced.endFenced {flr : Bool} {slot : Nat} (h : Fenced s₀ s) : Fenced s₀ (endFenced flr slot s) := by
  unfold Machine.endFenced
  split
  · exact h
  · refine .ite ?_ ?_
    · split
      · refine .dropFan ?_
        refine .retireCmd ?_
        split
        · exact .ite h h.sendStop
        · exact h
      · refine .retireCmd ?_
        split
        · exact .ite h h.sendStop
        · exact h
    · refine .ite ?_ ?_
      · refine .retireCmd ?_
        refine .ite ?_ ?_
        · refine .writeHeaders ?_
          split
          · exact .ite h h.sendStop
          · exact h
        · split
          · exact .ite h h.sendStop
          · exact h
      · refine .ite ?_ ?_
        · split
          · exact .ite h h.sendStop
          · exact h
        · refine .endCommand ?_
          split
          · exact .ite h h.sendStop
          · exact h

theorem Fenced.dropStatePages {i : Nat} (h : Fenced s₀ s) : Fenced s₀ (dropStatePages i s) := h.dropPages

end

end Sys2Proof.Machine
end

section
/-!
PROOFS. Resets of instances (O36).
-/

namespace Sys2Proof.Machine

/-! ## The commands of an instance under its fence (R455) -/

/-- Whether slot k, where it holds a command of instance i before its step 3, holds it with the outcome of the reset. -/
def ResetFixed (i k : Nat) (s : State) : Prop :=
  ∀ c, s.cmd k = some c → c.inst = i → c.dupOf = none → c.step3 = false → (c.accepted = true ∨ nSlots ≤ k) → c.outcome = some stReset

theorem ResetFixed.of_cmd {i k : Nat} {s t : State} (h : t.cmd k = s.cmd k) (hr : ResetFixed i k s) : ResetFixed i k t := by
  unfold ResetFixed
  rw [h]
  exact hr

/-- The fence gives a command of its instance the outcome of the reset, and leaves the others. -/
theorem presentFence_cmd (slot : Nat) (s : State) (i : Nat) : ResetFixed i slot (presentFence slot s) ∧
    ∀ k, k ≠ slot → (presentFence slot s).cmd k = s.cmd k := by
  unfold presentFence
  cases hc : s.cmd slot with
  | none => exact ⟨fun c h => absurd (hc.symm.trans h) nofun, fun _ _ => rfl⟩
  | some c =>
    dsimp only
    split
    · next h =>
      refine ⟨fun c' h' _ hd h3 hacc => ?_, fun _ _ => rfl⟩
      obtain rfl : c = c' := Option.some.inj (hc.symm.trans h')
      obtain hacc | hk := hacc
      · simp [hd, h3, hacc] at h
      · simp [hd, h3, Nat.not_lt.2 hk] at h
    · generalize hx : ({ c with outcome := _, r0 := _, r1 := _ } : Cmd) = x
      have h := (Calm.refl (fixRecord c (s.setCmd slot (some x)))).stopWork (slot := slot) (status := stReset)
      refine ⟨fun c' h' _ _ _ _ => ?_, fun k hk => (h.cmd_eq k).trans ((fixRecord_cmd ..).trans (State.setCmd_ne _ _ _ _ hk))⟩
      have hs : (fixRecord c (s.setCmd slot (some x))).cmd slot = some x := (fixRecord_cmd ..).trans (State.setCmd_same ..)
      rw [h.cmd_eq, hs] at h'
      rw [← Option.some.inj h', ← hx]

/-- Where the fence has reached the commands of an instance, those before their step 3 have its outcome. -/
theorem presentFences_fix (i : Nat) (s : State) (k : Nat) :
    ResetFixed i k (forEach presentFence ((s.ring.cmds.filter fun e => e.2.any fun c => decide (c.inst = i)).map (·.1)) s) := by
  generalize hl : (s.ring.cmds.filter fun e => e.2.any fun c => decide (c.inst = i)).map (·.1) = l
  by_cases hk : k ∈ l
  · refine forEach_brings (P := fun k t => ResetFixed i k t) (fun b x => (presentFence_cmd b x i).1) (fun b c x h => ?_) k hk
    obtain rfl | hbc := eq_or_ne b c
    · exact (presentFence_cmd b x i).1
    · exact h.of_cmd ((presentFence_cmd c x i).2 b hbc)
  · refine forEach_keeps (P := fun t => ResetFixed i k t) (fun b hb t h => h.of_cmd ((presentFence_cmd b t i).2 k ?_)) ?_
    · rintro rfl
      exact hk hb
    · intro c hc hi
      refine absurd ?_ hk
      rw [← hl]
      exact List.mem_map.2 ⟨(k, some c), List.mem_filter.2 ⟨cmd_mem hc, by simp [hi]⟩, rfl⟩

theorem fenceCmu_ring (i u : Nat) (s : State) : (fenceCmu i u s).ring = s.ring := by
  unfold fenceCmu
  dsimp only
  refine forEach_keeps (P := fun t : State => t.ring = s.ring) (fun r _ t h => ?_) rfl
  split
  · obtain ⟨_, _, _, _, _, _, e⟩ := endMbx_answers _ meState 0 0 [] t
    exact (congrArg State.ring e).trans h
  · exact h

theorem fenceDigests_ring (i : Nat) (s : State) : (fenceDigests i s).ring = s.ring := by
  unfold fenceDigests
  refine forBelow_keeps (P := fun t : State => t.ring = s.ring) rfl fun u t h => ?_
  split
  · have hc := (Calm.refl t).forCtxs (u := u) (p := fun c => decide (c.inst = i)) (f := clearCtx) fun _ _ _ h => h.clearCtx
    unfold logCleared
    exact (logEvent_ring ..).trans (hc.ring.trans h)
  · exact h

theorem fenceAll_fixes (i : Nat) (s : State) (k : Nat) : ResetFixed i k (fenceAll i s) := by
  unfold fenceAll
  dsimp only
  have h := presentFences_fix i s k
  generalize forEach presentFence _ s = t at h ⊢
  generalize hu : ({ t with disp := _ } : State) = u
  have hut : u.ring = t.ring := by rw [← hu]
  have hv : (forBelow (fenceCmu i) 4 u).ring = u.ring :=
    forBelow_keeps (P := fun v : State => v.ring = u.ring) rfl fun j v h => (fenceCmu_ring i j v).trans h
  generalize forBelow (fenceCmu i) 4 u = v at hv ⊢
  have hw := fenceDigests_ring i v
  generalize fenceDigests i v = w at hw ⊢
  exact h.of_cmd (cmd_of_ring (hw.trans (hv.trans hut)) k)

/-! ## The beginning of a reset (R455, R457, R458) -/

/-- The state in which the fence of an instance goes out. -/
def resetBegun (i : Nat) (flr destroying : Bool) (mbx : Option Nat) (s : State) : State :=
  let t := s.setInst i { s.inst i with st := if destroying || decide ((s.inst i).st = .destroying) then .destroying else .resetting }
  { t with
    disp := { t.disp with fences := t.disp.fences ++ [⟨i, flr, destroying, mbx.toList, false⟩] },
    ring := { t.ring with sqs := t.ring.sqs.map fun e =>
      (e.1, if keyInst e.1 = i then { e.2 with framing := none, slotRes := none, stChain := false } else e.2) } }

theorem beginReset_first {i : Nat} {flr destroying : Bool} {mbx : Option Nat} {s : State}
    (h : (s.disp.fences.any fun f => f.inst = i) = false) :
    beginReset i flr destroying mbx s = fenceAll i (resetBegun i flr destroying mbx s) := by
  unfold beginReset
  dsimp only
  exact if_neg (by rw [show (s.setInst i _).disp = s.disp from rfl, h]; decide)

/-- What the beginning of a reset makes of the instances and of the enables. -/
theorem beginReset_insts (i : Nat) (flr destroying : Bool) (mbx : Option Nat) (s : State) : let t := beginReset i flr destroying mbx s
    (t.inst i).st = (if destroying || decide ((s.inst i).st = .destroying) then .destroying else .resetting) ∧
      (∀ j, j ≠ i → (t.inst j).st = (s.inst j).st) ∧ t.lnk.vfEnable = s.lnk.vfEnable ∧ t.lnk.numVfs = s.lnk.numVfs := by
  unfold beginReset
  dsimp only
  generalize hu : s.setInst i _ = u
  have hi : (u.inst i).st = if destroying || decide ((s.inst i).st = .destroying) then .destroying else .resetting := by
    rw [← hu, State.setInst_same]
  have hj : ∀ j, j ≠ i → (u.inst j).st = (s.inst j).st := fun j h => by rw [← hu, State.setInst_ne _ _ _ _ h]
  have hl : u.lnk = s.lnk := by rw [← hu]; rfl
  have post : ∀ t : State, (∀ j, (t.inst j).st = (u.inst j).st) → t.lnk.vfEnable = u.lnk.vfEnable → t.lnk.numVfs = u.lnk.numVfs →
      (t.inst i).st = (if destroying || decide ((s.inst i).st = .destroying) then .destroying else .resetting) ∧
      (∀ j, j ≠ i → (t.inst j).st = (s.inst j).st) ∧ t.lnk.vfEnable = s.lnk.vfEnable ∧ t.lnk.numVfs = s.lnk.numVfs :=
    fun t h1 h2 h3 => ⟨(h1 i).trans hi, fun j h => (h1 j).trans (hj j h), h2.trans (by rw [hl]), h3.trans (by rw [hl])⟩
  split
  · have h : Fenced u (if (flr && u.disp.fences.any fun f => decide (f.inst = i) && f.complete) = true then
        forEach (endFenced true) (instSlots u i) u else u) :=
      .ite ((Fenced.refl u).forEach fun _ _ h => h.endFenced) (.refl u)
    generalize (if (flr && u.disp.fences.any fun f => decide (f.inst = i) && f.complete) = true then
      forEach (endFenced true) (instSlots u i) u else u) = v at h ⊢
    exact post _ h.inst_st h.vfEnable h.numVfs
  · generalize hv : ({ u with disp := _, ring := _ } : State) = v
    have h := (Fenced.refl v).fenceAll (i := i)
    refine post _ (fun j => (h.inst_st j).trans ?_) (h.vfEnable.trans ?_) (h.numVfs.trans ?_) <;> rw [← hv]
    rfl

theorem beginReset_does {i : Nat} {flr destroying : Bool} {mbx : Option Nat} {s : State}
    (h : (s.disp.fences.any fun f => f.inst = i) = false) : let t := beginReset i flr destroying mbx s
    t.disp.fences = s.disp.fences ++ [⟨i, flr, destroying, mbx.toList, false⟩] ∧ ∀ k, ResetFixed i k t := by
  rw [beginReset_first h]
  exact ⟨(Fenced.refl _).fenceAll.fences, fun k => fenceAll_fixes i _ k⟩

/-! ## The end of a reset (R455, R457) -/

theorem resetQueues_fenced {s₀ s : State} (i : Nat) (flr : Bool) (h : Fenced s₀ s) : Fenced s₀ (resetQueues i flr s) := by
  unfold resetQueues
  dsimp only
  generalize List.map _ _ = mine
  split
  · exact .upd (h.forEach fun _ _ h => h.setSq.endDrain)
  · exact h.forEach fun _ _ h => h.setSq.endDrain

/-- The instance is ACTIVE again where no drain of a resize waits. -/
theorem backActive_does (i : Nat) {s : State} (hz : (s.inst i).resize = none) : let t := backActive i s
    (t.inst i).st = .active ∧ t.disp.fences = s.disp.fences := by
  unfold backActive
  dsimp only
  generalize hu : s.setInst i _ = u
  have h := (Fenced.refl u).fwEvent (code := 0x0601) (inst := i) (detail := 1)
  refine ⟨(h.inst_st i).trans ?_, h.fences.trans ?_⟩
  · rw [← hu, State.setInst_same, hz]
    rfl
  · rw [← hu]
    rfl

/-- A reset of the PF destroys every VF instance and resets instance 0. -/
theorem resetPf_does {s : State} (h0 : (s.inst 0).st = .active) : let t := resetPf s
    (t.inst 0).st = .resetting ∧ t.lnk.vfEnable = false ∧ t.lnk.numVfs = 0 ∧
      ∀ i, i ≠ 0 → (s.inst i).st ≠ .absent → (t.inst i).st = .destroying := by
  unfold resetPf
  dsimp only
  generalize hu : ({ s with lnk := _ } : State) = u
  generalize hl : ((s.insts.filter fun e => decide (e.1 ≠ 0) && decide (e.2.st ≠ .absent)).map (·.1)) = vfs
  have hP : let t := forEach (fun i s => beginReset i true true none s) vfs u
      (t.inst 0).st = .active ∧ t.lnk.vfEnable = false ∧ t.lnk.numVfs = 0 := by
    refine forEach_keeps (P := fun t : State => (t.inst 0).st = .active ∧ t.lnk.vfEnable = false ∧ t.lnk.numVfs = 0) ?_ ?_
    · rintro i hi t ⟨h1, h2, h3⟩
      have hi0 : i ≠ 0 := by
        rw [← hl] at hi
        obtain ⟨e, he, rfl⟩ := List.mem_map.1 hi
        have he := (List.mem_filter.1 he).2
        simp only [Bool.and_eq_true, decide_eq_true_eq] at he
        exact he.1
      obtain ⟨-, hj, hv, hn⟩ := beginReset_insts i true true none t
      exact ⟨(hj 0 hi0.symm).trans h1, hv.trans h2, hn.trans h3⟩
    · rw [← hu]
      exact ⟨h0, rfl, rfl⟩
  have hQ : ∀ i ∈ vfs, ((forEach (fun i s => beginReset i true true none s) vfs u).inst i).st = .destroying := by
    refine forEach_brings (P := fun i t => (State.inst t i).st = .destroying) (fun i t => (beginReset_insts i true true none t).1) fun i j t h => ?_
    obtain rfl | hne := eq_or_ne i j
    · exact (beginReset_insts i true true none t).1
    · exact ((beginReset_insts j true true none t).2.1 i hne).trans h
  generalize forEach _ vfs u = t at hP hQ ⊢
  obtain ⟨h1, h2, h3⟩ := hP
  obtain ⟨g1, g2, g3, g4⟩ := beginReset_insts 0 true false none t
  refine ⟨g1.trans (by rw [h1]; rfl), g3.trans h2, g4.trans h3, fun i hi hne => (g2 i hi).trans (hQ i ?_)⟩
  rw [← hl]
  refine List.mem_map.2 ⟨(i, s.inst i), List.mem_filter.2 ⟨Tbl.mem_of_get rfl fun h => hne ?_, by simp [hi, hne]⟩, rfl⟩
  rw [show s.inst i = Inst.absent from h]
  rfl

/-- Settles O36. -/
theorem instanceResets : Obligations.InstanceResets := by
  unfold Obligations.InstanceResets
  refine ⟨?_, ?_, ?_, ?_, ?_, ?_, ?_⟩
  · intro fn i s hm ht hi hact hf
    have e : execInstReset fn s = .next (beginReset i false false (some fn) (s.modMbx fn fun m => { m with started := true })) := by
      unfold execInstReset
      rw [onMbx_runs hm, ht]
      rw [if_neg (by omega), if_neg (by rw [hact]; decide)]
    obtain ⟨h1, h2⟩ := beginReset_does (flr := false) (destroying := false) (mbx := some fn) (s := s.modMbx fn fun m => { m with started := true }) hf
    obtain ⟨h3, -⟩ := beginReset_insts i false false (some fn) (s.modMbx fn fun m => { m with started := true })
    refine Does.of e ⟨h3.trans ?_, h1, fun k c hc hci hd h3 ha => h2 k c hc hci hd h3 ha⟩
    rw [show ((s.modMbx fn _).inst i).st = .active from hact]
    rfl
  · intro i s hm ht h0 hi hact hf
    have e : execInstDestroy 0 s = .next (beginReset i true true (some 0) (s.modMbx 0 fun m => { m with started := true })) := by
      unfold execInstDestroy
      rw [onMbx_runs hm, ht]
      rw [if_neg h0, if_neg (by omega), if_neg hact]
    obtain ⟨h1, -⟩ := beginReset_does (flr := true) (destroying := true) (mbx := some 0) (s := s.modMbx 0 fun m => { m with started := true }) hf
    obtain ⟨h3, -⟩ := beginReset_insts i true true (some 0) (s.modMbx 0 fun m => { m with started := true })
    exact Does.of e ⟨h3, h1⟩
  · intro i f s hf hc hb
    have h : Fenced s (fenceHost i (forEach (endFenced f.flr) (instSlots s i) s)) :=
      ((Fenced.refl s).forEach fun _ _ h => h.endFenced).fenceHost
    show ∃ t, execInstanceFenceComplete i s = .next t ∧ _
    unfold execInstanceFenceComplete
    rw [hf]
    dsimp only
    rw [if_neg (by simp [hc, hb])]
    exact ⟨_, rfl, congrArg (List.map _) h.fences⟩
  · intro i f s hf hc hflr hd hs hq hb hr ha hz
    unfold Does
    show ∃ t, execInstanceResetFinish i s = .next t ∧ _
    unfold execInstanceResetFinish
    rw [hf]
    dsimp only
    rw [if_neg (by simp [hc, hs, hq, hb, hr, ha]), if_neg (by rw [hd]; decide), if_neg (by rw [hflr]; decide)]
    generalize hu : ({ s with disp := _ } : State) = u
    have hv := (resetQueues_fenced i f.flr (Fenced.refl u)).dropStatePages (i := i)
    generalize dropStatePages i (resetQueues i f.flr u) = v at hv ⊢
    have hvz : (v.inst i).resize = none := (hv.inst_resize i).trans (by rw [← hu]; exact hz)
    obtain ⟨h1, h2⟩ := backActive_does i hvz
    have hw := (Fenced.refl (backActive i v)).forEach (l := f.mbxs) (f := mbxOk) fun _ _ h => h.mbxOk
    refine ⟨_, rfl, (hw.inst_st i).trans h1, (hw.fences.trans (h2.trans hv.fences)).trans ?_⟩
    rw [← hu]
  · intro i s hi h0 hact hf
    have e : execFunctionLevelReset i s = .next (beginReset i true false none (s.modMbx i fun m => { m with lastSeq := none })) := by
      unfold execFunctionLevelReset
      dsimp only
      rw [if_neg (by omega), if_neg h0, if_neg (by rw [show ((s.modMbx i _).inst i).st = .active from hact]; decide)]
    obtain ⟨h1, -⟩ := beginReset_does (flr := true) (destroying := false) (mbx := none) (s := s.modMbx i fun m => { m with lastSeq := none }) hf
    obtain ⟨h3, -⟩ := beginReset_insts i true false none (s.modMbx i fun m => { m with lastSeq := none })
    refine Does.of e ⟨h3.trans ?_, h1⟩
    rw [show ((s.modMbx i _).inst i).st = .active from hact]
    rfl
  · intro s hact
    obtain ⟨h1, h2, h3, -⟩ := resetPf_does (s := s.modMbx 0 fun m => { m with lastSeq := none }) hact
    exact Does.of (show execFunctionLevelReset 0 s = _ from rfl) ⟨h1, h2, h3⟩
  · intro s hact
    exact Does.of (show execVfEnableClear s = _ from rfl) (resetPf_does hact)

end Sys2Proof.Machine
end

section
/-!
PROOFS. INFO, INST_CREATE and INST_RESIZE (O35).
-/

namespace Sys2Proof.Machine

/-! ## What the parts of the instance commands change -/

theorem clearUnitCnts_eq (i : Nat) (s : State) : ∃ e, clearUnitCnts i s = { s with eng := e } := by
  unfold clearUnitCnts
  dsimp only
  have h1 : ∃ e, forBelow (fun u s => s.setCmu u { s.cmu u with instCnt := (s.cmu u).instCnt.clearRange (4 * i) (4 * i + 4) }) 4 s =
      { s with eng := e } :=
    forBelow_keeps (P := fun t : State => ∃ e, t = { s with eng := e }) ⟨s.eng, rfl⟩ (by rintro u t ⟨e, rfl⟩; exact ⟨_, rfl⟩)
  obtain ⟨e, h1⟩ := h1
  rw [h1]
  have h2 : ∃ e', forBelow (fun u s => s.setSmu u { s.smu u with instCnt := (s.smu u).instCnt.clearRange (2 * i) (2 * i + 2) }) 8
      ({ s with eng := e } : State) = { s with eng := e' } :=
    forBelow_keeps (P := fun t : State => ∃ e', t = { s with eng := e' }) ⟨e, rfl⟩ (by rintro u t ⟨e', rfl⟩; exact ⟨_, rfl⟩)
  obtain ⟨e', h2⟩ := h2
  rw [h2]
  exact forBelow_keeps (P := fun t : State => ∃ e'', t = { s with eng := e'' }) ⟨e', rfl⟩ (by rintro u t ⟨e'', rfl⟩; exact ⟨_, rfl⟩)

theorem growLists_eq (i n : Nat) (s : State) : ∃ d, growLists i n s = { s with disp := { s.disp with lists := d } } := by
  induction n with
  | zero => exact ⟨s.disp.lists, rfl⟩
  | succ n ih =>
    obtain ⟨d, e⟩ := ih
    unfold growLists
    dsimp only
    rw [e]
    split
    · exact ⟨d, rfl⟩
    · exact ⟨_, rfl⟩

theorem shrinkLists_eq (i n fuel : Nat) (s : State) : ∃ d, shrinkLists i n fuel s = { s with disp := { s.disp with lists := d } } := by
  induction fuel generalizing s with
  | zero => exact ⟨s.disp.lists, rfl⟩
  | succ fuel ih =>
    unfold shrinkLists
    dsimp only
    split
    · exact ⟨s.disp.lists, rfl⟩
    split
    · exact ⟨s.disp.lists, rfl⟩
    · next x _ =>
      obtain ⟨d, e⟩ := ih { s with disp := { s.disp with lists := s.disp.lists.set ReadyList.free x.1 ReadyList.free } }
      exact ⟨d, e⟩

/-- What a resize frees are lists and CQs. -/
theorem trimInst_eq (i : Nat) (s : State) : ∃ d c, trimInst i s = { s with
    disp := { s.disp with lists := d }, ring := { s.ring with cqs := c } } := by
  obtain ⟨d, e⟩ := shrinkLists_eq i (s.inst i).res.lists (listsOf s i).length s
  unfold trimInst trimCqs
  rw [e]
  exact ⟨d, _, rfl⟩

theorem renewSets_eq (s : State) : ∃ f, renewSets s = { s with disp := { s.disp with frondSet := f } } := by
  unfold renewSets
  split
  · exact ⟨_, rfl⟩
  · exact ⟨s.disp.frondSet, rfl⟩

theorem endMbx_inst (fn err d off : Nat) (pl : List Byte) (s : State) (j : Nat) : (endMbx fn err d off pl s).inst j = s.inst j := by
  obtain ⟨_, _, _, _, _, _, e⟩ := endMbx_answers fn err d off pl s
  rw [e]
  rfl

/-! ## INST_CREATE (R441, R453, R470) -/

/-- A creation whose pages are all there answers, and makes the instance ACTIVE. -/
theorem createDone_does {fn i : Nat} {s : State} (ht : (s.getMbx fn).target = i) (ha : s.mp.arbitrating = false) :
    let t := createDone fn s
    MbxEnded fn 0 t ∧ (t.inst i).st = .active ∧ (t.inst i).res = (s.inst i).res ∧ t.log.next = s.log.next + 1 ∧
      ∀ j, j ≠ i → t.inst j = s.inst j := by
  unfold createDone
  dsimp only
  rw [ht]
  generalize hx : ({ s.inst i with st := _, logBase := _ } : Inst) = x
  obtain ⟨f, e⟩ := renewSets_eq (s.setInst i x)
  rw [e]
  generalize hu : ({ s.setInst i x with disp := _ } : State) = u
  have hui : u.insts = (s.setInst i x).insts := by rw [← hu]
  have hua : u.mp.arbitrating = false := by rw [← hu]; exact ha
  have hul : u.log = s.log := by rw [← hu]; rfl
  obtain ⟨l, e', hl⟩ := fwEvent_logs 0x0601 i 0 hua
  rw [e']
  generalize hv : ({ u with mp := _, log := l } : State) = v
  have hva : v.mp.arbitrating = false := by rw [← hv]; exact hua
  unfold endWithRec
  obtain ⟨o, w, p, e''⟩ := endMbx_eq fn 0 0 0 (recBytes (v.inst (v.getMbx fn).target).res) hva
  have hin : ∀ j, (endMbx fn 0 0 0 (recBytes (v.inst (v.getMbx fn).target).res) v).inst j = (s.setInst i x).inst j := fun j => by
    rw [e'']
    exact congrArg (fun t : Tbl Inst => t.get Inst.absent j) ((congrArg State.insts hv.symm).trans hui)
  refine ⟨endMbx_ended _ _ _ _ _ hva, ?_, ?_, ?_, fun j hj => ?_⟩
  · rw [hin, State.setInst_same, ← hx]
  · rw [hin, State.setInst_same, ← hx]
  · rw [e'', ← hv, ← hul]
    exact hl
  · rw [hin, State.setInst_ne _ _ _ _ hj]

/-- An instance without data pages is ACTIVE at once. -/
theorem createInst_does {i : Nat} {r : ResRec} {s : State} (ht : (s.getMbx 0).target = i) (hi : i ≠ 0) (hd : r.dataPages = 0)
    (hw : ∀ w ∈ s.mem.allocs, w.mbx ≠ some 0) (hb : (s.getMbx 0).st = .busy) (hop : (s.getMbx 0).mop = 0x10)
    (ha : s.mp.arbitrating = false) : let t := createInst 0 i r s
    MbxEnded 0 0 t ∧ (t.inst i).st = .active ∧ (t.inst i).res = r ∧ t.log.next = s.log.next + 1 ∧ ∀ j, j ≠ i → t.inst j = s.inst j := by
  unfold createInst
  dsimp only
  generalize hv : ((s.modMbx 0 fun m => { m with started := true }).modMbx i fun m => { m with lastSeq := none }) = v
  have hvm : v.getMbx 0 = { s.getMbx 0 with started := true } := by
    rw [← hv]
    exact (State.setMbx_ne _ _ _ _ hi.symm).trans (modMbx_getMbx ..)
  obtain ⟨e, h1⟩ := clearUnitCnts_eq i (v.setInst i { Inst.absent with res := r })
  rw [h1, hd]
  generalize hu : ({ v.setInst i { Inst.absent with res := r } with eng := e, ring := _, mem := _ } : State) = u
  obtain ⟨d, h2⟩ := growLists_eq i r.lists u
  rw [h2]
  generalize hg : ({ u with disp := _ } : State) = g
  have e : growData 0 i 0 0 g = (true, g) := rfl
  rw [e]
  have hgm : g.mbx = v.mbx := by rw [← hg, ← hu]; rfl
  have hgi : g.insts = (v.setInst i { Inst.absent with res := r }).insts := by rw [← hg, ← hu]
  have hgw : g.mem.allocs = s.mem.allocs := by rw [← hg, ← hu, ← hv]; rfl
  have hga : g.mp = s.mp := by rw [← hg, ← hu, ← hv]; rfl
  have hgl : g.log = s.log := by rw [← hg, ← hu, ← hv]; rfl
  have hm0 : g.getMbx 0 = { s.getMbx 0 with started := true } := (getMbx_of_mbx hgm 0).trans hvm
  have hdone : mbxPagesDone 0 g = createDone 0 g := by
    unfold mbxPagesDone
    dsimp only
    rw [if_neg, if_neg (by rw [hm0]; simp [hb]), if_pos (by rw [hm0]; exact ⟨by decide, hop⟩)]
    rw [hgw]
    simpa using hw
  rw [if_neg (by simp), hdone]
  have hinst : ∀ j, g.inst j = (v.setInst i { Inst.absent with res := r }).inst j := fun j =>
    congrArg (fun t : Tbl Inst => t.get Inst.absent j) hgi
  obtain ⟨h1, h2, h3, h4, h5⟩ := createDone_does (fn := 0) (i := i) (s := g) (by rw [hm0]; exact ht) (by rw [hga]; exact ha)
  refine ⟨h1, h2, ?_, h4.trans (by rw [hgl]), fun j hj => ?_⟩
  · rw [h3, hinst, State.setInst_same]
  · rw [h5 j hj, hinst, State.setInst_ne _ _ _ _ hj, ← hv]
    rfl

/-! ## INST_RESIZE (R444 to R446) -/

/-- Settles O35. -/
theorem instanceCommands : Obligations.InstanceCommands := by
  unfold Obligations.InstanceCommands
  refine ⟨?_, ?_, ?_, ?_, ?_, ?_, ?_, ?_⟩
  · intro fn s hm ht
    show execInfo fn s = _
    unfold execInfo
    rw [onMbx_runs hm, if_pos ht]
  · intro fn s hm ht
    show execInfo fn s = _
    unfold execInfo
    rw [onMbx_runs hm, if_neg (by omega), if_neg (by omega)]
  · intro i b s hm ht h1 h255 ha hst hstr hp hr hlen hbad hd hover hw
    obtain ⟨o, w, x, hk, hports⟩ := mbxRead_reads 0 (s.getMbx 0) [((s.getMbx 0).arg 8 8, 128)] hr
    have e : execInstCreate 0 (some b) s = .next (createInst 0 i (readRec b)
        { s with out := { s.out with host := o }, lnk := { s.lnk with hp := w, msixPend := x } }) := by
      have hpu : (State.hostPort { s with out := { s.out with host := o }, lnk := { s.lnk with hp := w, msixPend := x } }
        (s.getMbx 0).port).absent = false := (hports _).2.trans hp
      unfold execInstCreate
      rw [onMbx_runs hm, ht]
      dsimp only
      rw [if_neg (by omega), if_neg (by simp [ha]), if_neg (by simp [hst]), if_neg (by simp [hstr]), hk, hostGave_present _ hpu,
        whole_of_length hlen]
      dsimp only
      rw [hbad]
      dsimp only
      rw [if_neg (by omega), if_neg, if_neg]
      · exact (Bool.not_eq_true _).mpr hover
      · exact fun h => absurd (h.1.symm.trans hstr) (by decide)
    exact Does.of e (createInst_does ht (by omega) hd hw hm.busy hm.code hm.gateOpen)
  · intro i host s hm ht h1 h255 ha hst
    refine mbx_answers (t := s) (pl := []) (d := 0) (off := 0) ?_ hm.gateOpen fun _ _ _ => rfl
    show execInstCreate 0 host s = _
    unfold execInstCreate
    rw [onMbx_runs hm, ht]
    dsimp only
    rw [if_neg (by omega), if_neg (by simp [ha]), if_pos hst]
    rfl
  · intro i b u s hm ht h255 ha hms hst hstr hp hr hu hlen hnamed hbad hpages hinuse hover
    obtain ⟨o, w, x, hk, hports⟩ := mbxRead_reads 0 (s.getMbx 0) [((s.getMbx 0).arg 8 8, 128)] hr
    rw [hk] at hu
    have hpu : (State.hostPort { s with out := { s.out with host := o }, lnk := { s.lnk with hp := w, msixPend := x } }
      (s.getMbx 0).port).absent = false := (hports _).2.trans hp
    show execInstResize 0 (some b) s = _
    unfold execInstResize
    rw [onMbx_runs hm, ht]
    dsimp only
    rw [if_neg (by omega), if_neg (by simp [ha]), if_neg hms, if_neg (by simp [hst]), hk, hostGave_present _ hpu, whole_of_length hlen]
    dsimp only
    rw [if_neg (by omega), show recBadField i b (fun j => bit (leAt b 0 8) j) = none from hbad]
    dsimp only
    rw [if_neg, if_neg, if_neg, if_neg]
    · rw [← hu]
      rfl
    · exact (Bool.not_eq_true _).mpr hover
    · exact (Bool.not_eq_true _).mpr hinuse
    · exact fun h => absurd (h.1.symm.trans hstr) (by decide)
    · exact Nat.not_lt.2 hpages
  · intro i z s hz hwait hfirst hw hfn hop hb hstd ht hst ha
    obtain ⟨d, c, e⟩ := trimInst_eq i s
    show ∃ t, execResizeDrainDone i s = .next t ∧ _
    unfold execResizeDrainDone
    dsimp only
    generalize hv : trimInst i s = v at e hfirst ⊢
    have hinst : v.insts = s.insts := by rw [e]
    have hvi : v.inst i = s.inst i := congrArg (fun t : Tbl Inst => t.get Inst.absent i) hinst
    have hva : v.mp = s.mp := by rw [e]
    have hvm : v.mbx = s.mbx := by rw [e]
    have hvw : v.mem = s.mem := by rw [e]
    rw [hvi, hz]
    dsimp only
    rw [if_neg (by rw [hfirst, hva]; simp [hwait, ha]), hst, if_pos rfl]
    generalize hx : ({ s.inst i with resize := _, st := _ } : Inst) = x
    have hm0 : (v.setInst i x).getMbx z.mbx = s.getMbx z.mbx := getMbx_of_mbx hvm z.mbx
    have hu : mbxPagesDone z.mbx (v.setInst i x) = finishResize z.mbx i (v.setInst i x) := by
      unfold mbxPagesDone
      dsimp only
      rw [hm0, if_neg, if_neg (by simp [hb, hstd]), if_neg (by rw [hop]; simp), if_pos ⟨hfn, hop⟩, ht, State.setInst_same, if_neg]
      · rw [← hx]
        simp
      · rw [show (v.setInst i x).mem = s.mem from hvw]
        simpa using hw
    rw [hu]
    unfold finishResize endWithRec
    dsimp only
    rw [State.setInst_same]
    generalize hy : ({ x with resize := _, st := _ } : Inst) = y
    refine ⟨_, rfl, endMbx_ended _ _ _ _ _ (by rw [← ha, ← hva]; rfl), ?_⟩
    rw [endMbx_inst, State.setInst_same, ← hy, ← hx]
    exact ⟨rfl, rfl, rfl⟩
  · intro i z j s hz hwait hfirst hexp hst ha
    obtain ⟨d, c, e⟩ := trimInst_eq i s
    show ∃ t, execResizeDrainTimeout i s = .next t ∧ _
    unfold execResizeDrainTimeout
    dsimp only
    generalize hv : trimInst i s = v at e hfirst ⊢
    have hinst : v.insts = s.insts := by rw [e]
    have hvi : v.inst i = s.inst i := congrArg (fun t : Tbl Inst => t.get Inst.absent i) hinst
    have hva : v.mp = s.mp := by rw [e]
    have hvt : v.time = s.time := by rw [e]
    rw [hvi, hz, hfirst]
    dsimp only
    rw [if_neg (by rw [hva, hvt]; simp [hwait, ha, hexp]), hst, if_pos rfl]
    generalize hx : ({ s.inst i with resize := _, st := _ } : Inst) = x
    generalize hu : ({ v.setInst i x with mem := _ } : State) = u
    have hui : u.inst i = x := by
      rw [← hu]
      exact State.setInst_same v i x
    have hua : u.mp = s.mp := by
      rw [← hu]
      exact hva
    refine ⟨_, rfl, endMbx_ended _ _ _ _ _ (by rw [hua]; exact ha), ?_⟩
    rw [endMbx_inst, hui, ← hx]
    exact ⟨rfl, rfl, rfl⟩
  · intro i z j s hz hfirst hexp
    obtain ⟨d, c, e⟩ := trimInst_eq i s
    show execResizeDrainTimeout i s = _
    unfold execResizeDrainTimeout
    dsimp only
    rw [hfirst, show (trimInst i s).inst i = s.inst i by rw [e]; rfl, hz]
    dsimp only
    rw [if_pos]
    rw [show (trimInst i s).time = s.time by rw [e]]
    exact .inr (.inr hexp)

end Sys2Proof.Machine
end

section
/-!
PROOFS. The frame states, the map and the bytes of device memory: what a write to one of them shows of it.
-/

namespace Sys2Proof.Machine

theorem frame_of_mem {s t : State} (h : t.mem.frames = s.mem.frames) (hs : t.mem.sysUp = s.mem.sysUp) (j : Nat) : t.frame j = s.frame j := by
  unfold State.frame isSysFrame
  rw [h, hs]

theorem State.setFrame_ne (s : State) {k j : Nat} (x : Frame) (h : j ≠ k) : (s.setFrame k x).frame j = s.frame j := by
  unfold State.frame
  exact if_congr Iff.rfl rfl (Tbl.get_set_ne _ _ _ h)

theorem State.setFrame_same {s : State} {k : Nat} (x : Frame) (h : isSysFrame s k = false) : (s.setFrame k x).frame k = x := by
  unfold State.frame
  exact (if_neg (by rw [show isSysFrame (s.setFrame k x) k = isSysFrame s k from rfl, h]; decide)).trans (Tbl.get_set_same ..)

/-- A write to a frame that keeps a field keeps it in every frame. -/
theorem State.setFrame_field {β : Type} {s : State} {k : Nat} {x : Frame} (f : Frame → β) (h : f x = f (s.frame k)) (j : Nat) :
    f ((s.setFrame k x).frame j) = f (s.frame j) := by
  obtain rfl | hj := eq_or_ne j k
  · cases hs : isSysFrame s j with
    | false => rw [State.setFrame_same x hs, h]
    | true =>
      refine congrArg f ?_
      unfold State.frame
      rw [if_pos hs]
      exact if_pos hs
  · rw [State.setFrame_ne s x hj]

theorem Tbl.get_filter_keys {α : Type} (d : α) (p : Nat → Bool) (t : Tbl α) (k : Nat) :
    Tbl.get d (t.filter fun e => p e.1) k = if p k then Tbl.get d t k else d := by
  induction t with
  | nil => simp [Tbl.get]
  | cons e t ih =>
    obtain ⟨j, v⟩ := e
    by_cases hj : j = k
    · subst hj
      cases hp : p j
      · rw [List.filter_cons_of_neg (by simp [hp]), ih, hp]
        rfl
      · rw [List.filter_cons_of_pos (by simp [hp])]
        simp [Tbl.get]
    · have e1 : Tbl.get d ((j, v) :: t) k = Tbl.get d t k := if_neg hj
      rw [e1, ← ih]
      cases hp : p j
      · rw [List.filter_cons_of_neg (by simp [hp])]
      · rw [List.filter_cons_of_pos (by simp [hp])]
        exact if_neg hj

/-- A cleared range reads as the default. -/
theorem Tbl.get_clearRange {α : Type} (d : α) (t : Tbl α) {lo hi k : Nat} (h : lo ≤ k) (h' : k < hi) : (t.clearRange lo hi).get d k = d := by
  unfold Tbl.clearRange
  rw [Tbl.get_filter_keys d (fun j => decide (j < lo) || decide (hi ≤ j)) t k, if_neg]
  simp
  omega

end Sys2Proof.Machine
end

section
/-!
PROOFS. Requests that end and frames that leave keep the directory and the leaf tables.
-/

namespace Sys2Proof.Machine

/-- From s₀ to s the directory and the leaf tables are unchanged. -/
structure LeafKept (s₀ s : State) : Prop where
  time : s.time = s₀.time
  dir : s.mem.dir = s₀.mem.dir
  leaf : s.mem.leaf = s₀.mem.leaf

theorem LeafKept.refl (s : State) : LeafKept s s := ⟨rfl, rfl, rfl⟩

section
variable {s₀ s t : State}

/-- An update of the parts that `LeafKept` does not name. -/
theorem LeafKept.upd {pending seed fronds ring disp mem eng store insts mbx haw log mp pwr tel sec lnk pads out} (h : LeafKept s₀ s)
    (h_dir : mem.dir = s.mem.dir := by rfl)
    (h_leaf : mem.leaf = s.mem.leaf := by rfl) :
    LeafKept s₀ { s with pending, seed, fronds, ring, disp, mem, eng, store, insts, mbx, haw, log, mp, pwr, tel, sec, lnk, pads, out } :=
  { h with
    dir := h_dir.trans h.dir,
    leaf := h_leaf.trans h.leaf }

theorem LeafKept.ite {c : Prop} [Decidable c] (h : LeafKept s₀ s) (k : LeafKept s₀ t) : LeafKept s₀ (if c then s else t) := by
  split
  · exact h
  · exact k

theorem LeafKept.forEach {β : Type} {f : β → State → State} {l : List β} (h : LeafKept s₀ s)
    (hf : ∀ b t, LeafKept s₀ t → LeafKept s₀ (f b t)) : LeafKept s₀ (Machine.forEach f l s) :=
  forEach_keeps (fun b _ t => hf b t) h

theorem LeafKept.forBelow {f : Nat → State → State} {n : Nat} (h : LeafKept s₀ s) (hf : ∀ b t, LeafKept s₀ t → LeafKept s₀ (f b t)) :
    LeafKept s₀ (Machine.forBelow f n s) := by
  induction n with
  | zero => exact h
  | succ n ih => exact hf _ _ ih

theorem LeafKept.foldl {β : Type} {f : State → β → State} {l : List β} (h : LeafKept s₀ s) (hf : ∀ b t, LeafKept s₀ t → LeafKept s₀ (f t b)) :
    LeafKept s₀ (l.foldl f s) := by
  induction l generalizing s with
  | nil => exact h
  | cons b l ih => exact ih (hf b s h)

theorem LeafKept.forEachSnd {α β : Type} {f : β → α × State → α × State} {l : List β} {p : α × State} (h : LeafKept s₀ p.2)
    (hf : ∀ b p, LeafKept s₀ p.2 → LeafKept s₀ (f b p).2) : LeafKept s₀ (Machine.forEach f l p).2 := by
  induction l generalizing p with
  | nil => exact h
  | cons b l ih => exact ih (hf b p h)

theorem LeafKept.foldlSnd {α β : Type} {f : α × State → β → α × State} {l : List β} {p : α × State} (h : LeafKept s₀ p.2)
    (hf : ∀ b p, LeafKept s₀ p.2 → LeafKept s₀ (f p b).2) : LeafKept s₀ (l.foldl f p).2 := by
  induction l generalizing p with
  | nil => exact h
  | cons b l ih => exact ih (hf b p h)

theorem LeafKept.of_snd_snd {α β : Type} {p : α × β × State} {a : α} {b : β} (h : LeafKept s₀ p.2.2) (e : p = (a, b, t)) : LeafKept s₀ t := by
  rw [e] at h; exact h

/-- The state of a result. -/
theorem LeafKept.of_snd {α : Type} {p : α × State} {a : α} (h : LeafKept s₀ p.2) (e : p = (a, t)) : LeafKept s₀ t := by
  rw [e] at h; exact h

end

end Sys2Proof.Machine
end

section
namespace Sys2Proof.Machine

section
-- Each of these short lemmas would else wait in a thread of its own.
set_option Elab.async false
variable {s₀ s t : State}

theorem LeafKept.setFrond {f : Nat} {x : Frond} (h : LeafKept s₀ s) : LeafKept s₀ (s.setFrond f x) := h.upd

theorem LeafKept.setInst {i : Nat} {x : Inst} (h : LeafKept s₀ s) : LeafKept s₀ (s.setInst i x) := h.upd

theorem LeafKept.setChan {c : Nat} {x : Chan} (h : LeafKept s₀ s) : LeafKept s₀ (s.setChan c x) := h.upd

theorem LeafKept.setCmu {u : Nat} {x : CmuUnit} (h : LeafKept s₀ s) : LeafKept s₀ (s.setCmu u x) := h.upd

theorem LeafKept.setSmu {u : Nat} {x : SmuUnit} (h : LeafKept s₀ s) : LeafKept s₀ (s.setSmu u x) := h.upd

theorem LeafKept.setDgu {u : Nat} {x : DguUnit} (h : LeafKept s₀ s) : LeafKept s₀ (s.setDgu u x) := h.upd

theorem LeafKept.setLink {l : Nat} {x : Link} (h : LeafKept s₀ s) : LeafKept s₀ (s.setLink l x) := h.upd

theorem LeafKept.setHostPort {p : Nat} {x : HostPort} (h : LeafKept s₀ s) : LeafKept s₀ (s.setHostPort p x) := h.upd

theorem LeafKept.freshNat (h : LeafKept s₀ s) : LeafKept s₀ s.freshNat.2 := h.upd

theorem LeafKept.logOne {code src inst detail : Nat} (h : LeafKept s₀ s) : LeafKept s₀ (logOne code src inst detail s) := h.upd

theorem LeafKept.logEvent {code src inst detail : Nat} {ext : Option Nat} (h : LeafKept s₀ s) :
    LeafKept s₀ (logEvent code src inst detail ext s) := by
  unfold Machine.logEvent
  split
  · exact h.logOne
  · exact h.logOne.logOne

theorem LeafKept.hostOut {port : Nat} {m : HostMsg} (h : LeafKept s₀ s) : LeafKept s₀ (hostOut port m s) :=
  .ite h.upd (.ite h h.setHostPort)

theorem LeafKept.hostSend {port : Nat} {m : HostMsg} (h : LeafKept s₀ s) : LeafKept s₀ (hostSend port m s) := by
  unfold Machine.hostSend
  split
  · exact .ite (.ite h h.upd) h.hostOut
  · exact h.hostOut

theorem LeafKept.hostWrite {port fn addr : Nat} {d : List Byte} (h : LeafKept s₀ s) :
    LeafKept s₀ (hostWrite port fn addr d s) := h.hostSend

theorem LeafKept.addCounter {i k n : Nat} (h : LeafKept s₀ s) : LeafKept s₀ (addCounter i k n s) := .ite h h.setInst

theorem LeafKept.setFrame {f : Nat} {x : Frame} (h : LeafKept s₀ s) : LeafKept s₀ (s.setFrame f x) := h.upd

theorem LeafKept.colourFault {req : Option Nat} {a found : Nat} (h : LeafKept s₀ s) :
    LeafKept s₀ (colourFault req a found s) := by
  unfold Machine.colourFault
  exact h.upd.logEvent

theorem LeafKept.uncorrectable {req : Option Nat} {a : Nat} (h : LeafKept s₀ s) : LeafKept s₀ (uncorrectable req a s) := by
  have h1 : LeafKept s₀ (s.setChan (chanAt a) { s.chan (chanAt a) with ue := (s.chan (chanAt a)).ue + 1 }) := h.setChan
  unfold Machine.uncorrectable
  dsimp only
  generalize s.setChan _ _ = t at h1 ⊢
  refine .logEvent ?_
  split
  · exact h1.upd
  · exact h1.setFrame.upd

theorem LeafKept.corrected {a : Nat} (h : LeafKept s₀ s) : LeafKept s₀ (corrected a s) := by
  have h1 : LeafKept s₀ (s.setChan (chanAt a) { s.chan (chanAt a) with ce := (s.chan (chanAt a)).ce + 1 }) := h.setChan
  unfold Machine.corrected
  dsimp only
  generalize s.setChan _ _ = t at h1 ⊢
  exact .ite (.logEvent (.ite h1 h1.setFrame)) (.ite h1 h1.setFrame)

theorem LeafKept.decodeCw {k e : Nat} (h : LeafKept s₀ s) : LeafKept s₀ (decodeCw k e s) := by
  unfold Machine.decodeCw
  split
  · exact h
  · exact h.corrected
  · exact h.upd

theorem LeafKept.readLine {req : Option Nat} {a e0 e1 : Nat} (h : LeafKept s₀ s) : LeafKept s₀ (readLine req a e0 e1 s).2 := by
  unfold Machine.readLine
  split
  · dsimp only
    split
    · dsimp only
      exact h.colourFault
    · split
      · dsimp only
        exact h.decodeCw.decodeCw.uncorrectable
      · dsimp only
        exact h.decodeCw.decodeCw
  · dsimp only
    split
    · dsimp only
      exact h.colourFault
    · split
      · dsimp only
        exact h.decodeCw.decodeCw.uncorrectable
      · split
        · dsimp only
          exact h.decodeCw.decodeCw.colourFault
        · split
          · dsimp only
            exact h.decodeCw.decodeCw.colourFault
          · dsimp only
            exact h.decodeCw.decodeCw.addCounter

theorem LeafKept.writeCw {req : Option Nat} {k a : Nat} {d : List Byte} (h : LeafKept s₀ s) :
    LeafKept s₀ (writeCw req k a d s).2 := by
  unfold Machine.writeCw
  dsimp only
  split
  · exact h
  split
  · exact h.upd
  split
  · exact h.uncorrectable
  split
  · exact h.colourFault
  · exact h.upd

theorem LeafKept.writePhys {req : Option Nat} {a : Nat} {d : List Byte} (h : LeafKept s₀ s) :
    LeafKept s₀ (writePhys req a d s).2 := by
  unfold Machine.writePhys
  dsimp only
  split
  · dsimp only
    exact h.colourFault
  · split
    · dsimp only
      exact h.colourFault
    · exact h.forEachSnd fun _ _ h1 => h1.writeCw

theorem LeafKept.devWriteLine {i a : Nat} {d : List Byte} (h : LeafKept s₀ s) : LeafKept s₀ (devWriteLine i a d s).2 := by
  unfold Machine.devWriteLine
  split
  · dsimp only
    exact h
  · dsimp only
    exact h.colourFault
  · split
    · rename_i he1
      dsimp only
      exact .of_snd h.writePhys he1
    · rename_i he2
      dsimp only
      exact .of_snd h.writePhys he2

theorem LeafKept.devWrite {i a a1 : Nat} {a2 : List Byte} (h : LeafKept s₀ s) : LeafKept s₀ (devWrite i a a1 a2 s).2 := by
  induction a generalizing i a1 a2 s with
  | zero =>
    unfold Machine.devWrite
    dsimp only
    exact h
  | succ n ih =>
    unfold Machine.devWrite
    dsimp only
    split
    · dsimp only
      exact h
    · split
      · rename_i he1
        dsimp only
        exact .of_snd h.devWriteLine he1
      · rename_i he1
        exact ih (.of_snd h.devWriteLine he1)

theorem LeafKept.devWriteN {i a : Nat} {d : List Byte} (h : LeafKept s₀ s) : LeafKept s₀ (devWriteN i a d s).2 := h.devWrite

theorem LeafKept.leaveQuota {f : Nat} (h : LeafKept s₀ s) : LeafKept s₀ (leaveQuota f s) := by
  unfold Machine.leaveQuota
  split
  · exact h
  · exact h.setInst.setFrame

theorem LeafKept.releaseFrame {f : Nat} (h : LeafKept s₀ s) : LeafKept s₀ (releaseFrame f s) :=
  .ite h.leaveQuota.setFrame.upd.logEvent h.leaveQuota.setFrame.upd

theorem LeafKept.settleLeaving (h : LeafKept s₀ s) : LeafKept s₀ (settleLeaving s) :=
  .ite h (h.upd.forEach (fun _ _ h1 => h1.releaseFrame))

theorem LeafKept.setCtx {u k : Nat} {x : Ctx} (h : LeafKept s₀ s) : LeafKept s₀ (s.setCtx u k x) := h.setDgu

theorem LeafKept.leaveLane {u k : Nat} (h : LeafKept s₀ s) : LeafKept s₀ (leaveLane u k s) := h.setDgu

theorem LeafKept.failCtxCmp {u k dt : Nat} {cmp : BitVec 2} (h : LeafKept s₀ s) : LeafKept s₀ (failCtxCmp u k dt cmp s) :=
  h.setCtx.leaveLane

theorem LeafKept.failCtx {u k dt : Nat} (h : LeafKept s₀ s) : LeafKept s₀ (failCtx u k dt s) := h.failCtxCmp

theorem LeafKept.clearCtx {u k : Nat} (h : LeafKept s₀ s) : LeafKept s₀ (clearCtx u k s) := h.failCtx.setDgu

theorem LeafKept.logCleared {u : Nat} (h : LeafKept s₀ s) : LeafKept s₀ (logCleared u s) := by
  unfold Machine.logCleared
  exact h.freshNat.logEvent

theorem LeafKept.clearLogged {u k : Nat} (h : LeafKept s₀ s) : LeafKept s₀ (clearLogged u k s) := h.clearCtx.logCleared

theorem LeafKept.ctxPortRead {u k acc off n : Nat} (h : LeafKept s₀ s) : LeafKept s₀ (ctxPortRead u k acc off n s).2 := by
  unfold Machine.ctxPortRead
  dsimp only
  split
  · dsimp only
    exact h.logEvent
  · dsimp only
    exact h

theorem LeafKept.tagLine {b : StreamTag} {a n : Nat} (h : LeafKept s₀ s) : LeafKept s₀ (tagLine b a n s).2 := by
  unfold Machine.tagLine
  split
  · dsimp only
    exact h
  · dsimp only
    exact h.colourFault
  · split
    · split
      · rename_i he2
        dsimp only
        exact .of_snd h.writePhys he2
      · rename_i he3
        dsimp only
        exact .of_snd h.writePhys he3
    · split
      · rename_i he2
        dsimp only
        exact .of_snd h.readLine he2
      · rename_i he2
        dsimp only
        exact .of_snd h.readLine he2
      · rename_i he4
        dsimp only
        exact .of_snd h.readLine he4

theorem LeafKept.tagLines {b : StreamTag} {extra a a1 a2 : Nat} {a3 : Option (Nat × Nat)} (h : LeafKept s₀ s) :
    LeafKept s₀ (tagLines b extra a a1 a2 a3 s).2.2 := by
  induction a generalizing b extra a1 a2 a3 s with
  | zero =>
    unfold Machine.tagLines
    dsimp only
    exact h
  | succ n ih =>
    unfold Machine.tagLines
    dsimp only
    split
    · dsimp only
      exact h
    · split
      · exact ih h.tagLine
      · split
        · rename_i he1
          exact ih (.of_snd h.tagLine he1)
        · rename_i he1
          exact ih (.of_snd h.tagLine he1)

theorem LeafKept.endTag {f tag : Nat} {data : Option (List Byte)} (h : LeafKept s₀ s) : LeafKept s₀ (endTag f tag data s) := by
  unfold Machine.endTag
  refine .ite ?_ ?_
  · split
    · dsimp only
      split
      · exact h.freshNat.tagLines.setFrond
      · exact h.freshNat.tagLines.setFrond
    · dsimp only
      split
      · exact h.freshNat.tagLines.setFrond
      · exact h.freshNat.tagLines.setFrond
  · refine .ite (.ite (.ite h h.hostWrite.addCounter.setFrond) (.ite h.setFrond h.setFrond)) ?_
    split
    · refine .setFrond ?_
      split
      · exact .ite h.freshNat.clearLogged h.freshNat
      · exact h.freshNat
    · exact .ite (.ite h h.setFrond) h.ctxPortRead.setFrond
    · exact h.setFrond

theorem LeafKept.endRequest {f tag : Nat} {data : Option (List Byte)} (h : LeafKept s₀ s) :
    LeafKept s₀ (endRequest f tag data s) := h.endTag.settleLeaving

theorem LeafKept.areaWrite {i : Nat} {a : Area} {a1 a2 : Nat} {a3 : List Byte} (h : LeafKept s₀ s) :
    LeafKept s₀ (Area.write i a a1 a2 a3 s).2 := by
  induction a1 generalizing i a a2 a3 s with
  | zero =>
    unfold Machine.Area.write
    dsimp only
    exact h
  | succ n ih =>
    unfold Machine.Area.write
    dsimp only
    split
    · dsimp only
      exact h
    · split
      · rename_i he1
        dsimp only
        exact .of_snd h.devWriteN he1
      · rename_i he1
        exact ih (.of_snd h.devWriteN he1)

theorem LeafKept.areaPut {i : Nat} {a : Area} {off : Nat} {d : List Byte} (h : LeafKept s₀ s) :
    LeafKept s₀ (Area.put i a off d s).2 := h.areaWrite

end

end Sys2Proof.Machine
end

section
/-!
PROOFS. The next frame of a burst, or the end of the burst: what they leave of device memory.
-/

namespace Sys2Proof.Machine

/-- From s₀ to s no byte, no state or colour of a frame and nothing that waits for one differs. -/
structure Scrubs (s₀ s : State) : Prop where
  time : s.time = s₀.time
  bytes : s.mem.bytes = s₀.mem.bytes
  scrubBytes : s.mem.scrubBytes = s₀.mem.scrubBytes
  allocs : s.mem.allocs = s₀.mem.allocs
  sysUp : s.mem.sysUp = s₀.mem.sysUp
  frame_st : ∀ j, (s.frame j).st = (s₀.frame j).st
  frame_lines : ∀ j, (s.frame j).lines = (s₀.frame j).lines

theorem Scrubs.refl (s : State) : Scrubs s s := ⟨rfl, rfl, rfl, rfl, rfl, fun _ => rfl, fun _ => rfl⟩

section
variable {s₀ s t : State}

/-- An update of the parts that `Scrubs` does not name. -/
theorem Scrubs.upd {pending seed fronds ring disp mem eng store insts mbx haw log mp pwr tel sec lnk pads out} (h : Scrubs s₀ s)
    (h_bytes : mem.bytes = s.mem.bytes := by rfl)
    (h_scrubBytes : mem.scrubBytes = s.mem.scrubBytes := by rfl)
    (h_allocs : mem.allocs = s.mem.allocs := by rfl)
    (h_sysUp : mem.sysUp = s.mem.sysUp := by rfl)
    (h_frame : mem.frames = s.mem.frames := by rfl) :
    Scrubs s₀ { s with pending, seed, fronds, ring, disp, mem, eng, store, insts, mbx, haw, log, mp, pwr, tel, sec, lnk, pads, out } :=
  { h with
    bytes := h_bytes.trans h.bytes,
    scrubBytes := h_scrubBytes.trans h.scrubBytes,
    allocs := h_allocs.trans h.allocs,
    sysUp := h_sysUp.trans h.sysUp,
    frame_st := fun j => (congrArg Frame.st (frame_of_mem h_frame h_sysUp j)).trans (h.frame_st j),
    frame_lines := fun j => (congrArg Frame.lines (frame_of_mem h_frame h_sysUp j)).trans (h.frame_lines j) }

theorem Scrubs.setFrame {f : Nat} {x : Frame} (h : Scrubs s₀ s)
    (h_st : x.st = (s.frame f).st := by rfl)
    (h_lines : x.lines = (s.frame f).lines := by rfl) :
    Scrubs s₀ (s.setFrame f x) :=
  { h with
    frame_st := fun j => (State.setFrame_field Frame.st h_st j).trans (h.frame_st j),
    frame_lines := fun j => (State.setFrame_field Frame.lines h_lines j).trans (h.frame_lines j) }

theorem Scrubs.ite {c : Prop} [Decidable c] (h : Scrubs s₀ s) (k : Scrubs s₀ t) : Scrubs s₀ (if c then s else t) := by
  split
  · exact h
  · exact k

theorem Scrubs.forEach {β : Type} {f : β → State → State} {l : List β} (h : Scrubs s₀ s)
    (hf : ∀ b t, Scrubs s₀ t → Scrubs s₀ (f b t)) : Scrubs s₀ (Machine.forEach f l s) :=
  forEach_keeps (fun b _ t => hf b t) h

theorem Scrubs.forBelow {f : Nat → State → State} {n : Nat} (h : Scrubs s₀ s) (hf : ∀ b t, Scrubs s₀ t → Scrubs s₀ (f b t)) :
    Scrubs s₀ (Machine.forBelow f n s) := by
  induction n with
  | zero => exact h
  | succ n ih => exact hf _ _ ih

theorem Scrubs.foldl {β : Type} {f : State → β → State} {l : List β} (h : Scrubs s₀ s) (hf : ∀ b t, Scrubs s₀ t → Scrubs s₀ (f t b)) :
    Scrubs s₀ (l.foldl f s) := by
  induction l generalizing s with
  | nil => exact h
  | cons b l ih => exact ih (hf b s h)

theorem Scrubs.forEachSnd {α β : Type} {f : β → α × State → α × State} {l : List β} {p : α × State} (h : Scrubs s₀ p.2)
    (hf : ∀ b p, Scrubs s₀ p.2 → Scrubs s₀ (f b p).2) : Scrubs s₀ (Machine.forEach f l p).2 := by
  induction l generalizing p with
  | nil => exact h
  | cons b l ih => exact ih (hf b p h)

theorem Scrubs.foldlSnd {α β : Type} {f : α × State → β → α × State} {l : List β} {p : α × State} (h : Scrubs s₀ p.2)
    (hf : ∀ b p, Scrubs s₀ p.2 → Scrubs s₀ (f p b).2) : Scrubs s₀ (l.foldl f p).2 := by
  induction l generalizing p with
  | nil => exact h
  | cons b l ih => exact ih (hf b p h)

theorem Scrubs.of_snd_snd {α β : Type} {p : α × β × State} {a : α} {b : β} (h : Scrubs s₀ p.2.2) (e : p = (a, b, t)) : Scrubs s₀ t := by
  rw [e] at h; exact h

/-- The state of a result. -/
theorem Scrubs.of_snd {α : Type} {p : α × State} {a : α} (h : Scrubs s₀ p.2) (e : p = (a, t)) : Scrubs s₀ t := by
  rw [e] at h; exact h

end

end Sys2Proof.Machine
end

section
namespace Sys2Proof.Machine

section
-- Each of these short lemmas would else wait in a thread of its own.
set_option Elab.async false
variable {s₀ s t : State}

theorem Scrubs.setInst {i : Nat} {x : Inst} (h : Scrubs s₀ s) : Scrubs s₀ (s.setInst i x) := h.upd

theorem Scrubs.setCmu {u : Nat} {x : CmuUnit} (h : Scrubs s₀ s) : Scrubs s₀ (s.setCmu u x) := h.upd

theorem Scrubs.setSmu {u : Nat} {x : SmuUnit} (h : Scrubs s₀ s) : Scrubs s₀ (s.setSmu u x) := h.upd

theorem Scrubs.setDgu {u : Nat} {x : DguUnit} (h : Scrubs s₀ s) : Scrubs s₀ (s.setDgu u x) := h.upd

theorem Scrubs.setLink {l : Nat} {x : Link} (h : Scrubs s₀ s) : Scrubs s₀ (s.setLink l x) := h.upd

theorem Scrubs.addCounter {i k n : Nat} (h : Scrubs s₀ s) : Scrubs s₀ (addCounter i k n s) := .ite h h.setInst

theorem Scrubs.onGrant {g : Grant} (h : Scrubs s₀ s) : Scrubs s₀ (onGrant g s) := by
  unfold Machine.onGrant
  split
  · exact h.upd
  · dsimp only
    split
    · exact .ite h.upd h.upd
    · exact .ite (.ite h.upd h.upd) (.setFrame (.ite h.upd h.upd))
  · exact h.setSmu
  · exact h.setCmu
  · exact .ite h.setLink h
  · exact h

theorem Scrubs.dropWaitTimer {id : Nat} (h : Scrubs s₀ s) : Scrubs s₀ (dropWaitTimer id s) := h.upd

theorem Scrubs.giveGrant {g : Grant} (h : Scrubs s₀ s) : Scrubs s₀ (giveGrant g s) := h.upd.dropWaitTimer.onGrant

theorem Scrubs.grantQueue {a : List Grant} {a1 : List (Option Nat)} (h : Scrubs s₀ s) : Scrubs s₀ (grantQueue a a1 s) := by
  induction a generalizing a1 s with
  | nil =>
    unfold Machine.grantQueue
    exact h
  | cons b l ih =>
    unfold Machine.grantQueue
    dsimp only
    exact .ite (ih h) (.ite (ih h.upd.giveGrant) (.ite (ih h) (.ite (ih h) h)))

theorem Scrubs.reinstate {a : List Grant} {a1 : List (Option Nat)} (h : Scrubs s₀ s) : Scrubs s₀ (reinstate a a1 s) := by
  induction a generalizing a1 s with
  | nil =>
    unfold Machine.reinstate
    exact h
  | cons b l ih =>
    unfold Machine.reinstate
    dsimp only
    exact .ite (ih h) (.ite (ih h.upd.onGrant) (.ite (ih h) h))

theorem Scrubs.raiseSag {d : Nat} (h : Scrubs s₀ s) : Scrubs s₀ (raiseSag d s) := .ite h h.upd

theorem Scrubs.examineGrants (h : Scrubs s₀ s) : Scrubs s₀ (examineGrants s) :=
  .grantQueue (.ite h (h.reinstate.forBelow (fun _ _ h1 => h1.raiseSag)))

theorem Scrubs.chargeGrant {g : Grant} (h : Scrubs s₀ s) : Scrubs s₀ (chargeGrant g s) := by
  unfold Machine.chargeGrant
  split
  · exact h.addCounter
  · exact h

theorem Scrubs.endGrant {id : Nat} (h : Scrubs s₀ s) : Scrubs s₀ (endGrant id s) := by
  unfold Machine.endGrant
  dsimp only
  have h1 : Scrubs s₀ (Machine.forEach Machine.chargeGrant (s.pwr.grants.filter fun g => g.id = id) s) := h.forEach fun _ _ h =>
    h.chargeGrant
  exact (h1.upd).dropWaitTimer.examineGrants

theorem Scrubs.endHolder {p : Holder} (h : Scrubs s₀ s) : Scrubs s₀ (endHolder p s) := h.forEach fun _ _ h1 => h1.endGrant

theorem Scrubs.nextScrub (h : Scrubs s₀ s) : Scrubs s₀ (nextScrub s) := by
  unfold Machine.nextScrub
  split
  · exact h.endHolder
  · exact .ite h h.setFrame

end

end Sys2Proof.Machine
end

section
/-!
PROOFS. Device memory: reads and writes of lines, map changes, scrub and RECOLOUR, and pages that an item touches first (O33).
-/

namespace Sys2Proof.Machine

/-! ## Reads (R335, R342, R348) -/

section
variable {i a : Nat} {s : State} (hm : inMemory a = true) (hc : chanServes s a = true)
include hm hc

theorem memRead_asks (req : Option Nat) : execMemReadRequest req a 0 0 s =
    .next { (readLine req a 0 0 s).2 with out := { (readLine req a 0 0 s).2.out with mem := (readLine req a 0 0 s).1 } } := by
  unfold execMemReadRequest askMem
  rw [if_pos hm]
  exact next_congr (if_pos hc)

theorem memWrite_asks {d : List Byte} {p : Bool} (req : Option Nat) (hd : d ≠ []) (hl : a % 64 + d.length ≤ 64) :
    execMemWriteRequest req a ⟨d, p⟩ s =
      .next { (writeMarked req a ⟨d, p⟩ s).2 with out := { (writeMarked req a ⟨d, p⟩ s).2.out with mem := (writeMarked req a ⟨d, p⟩ s).1 } } := by
  unfold execMemWriteRequest askMem
  rw [if_pos (by simp [hm, hd, hl])]
  exact next_congr (if_pos hc)

end

theorem decodeCw_none (k : Nat) (s : State) : decodeCw k 0 s = s := rfl

section
variable {i a : Nat} {s : State} (hf : isSysFrame s (frameAt (a / 64 * 64)) = false)
include hf

/-- A line without poison that carries the requester's colour. -/
theorem readLine_data (h₁ : poisonedAt s (a / 64 * 64 / 32) = false) (h₂ : poisonedAt s (a / 64 * 64 / 32 + 1) = false)
    (c₁ : colourOf s (a / 64 * 64 / 32) = i) (c₂ : colourOf s (a / 64 * 64 / 32 + 1) = i) :
    readLine (some i) a 0 0 s = (.data (readBytes s (a / 64 * 64) 64), addCounter i 1 64 s) := by
  unfold readLine
  dsimp only
  rw [decodeCw_none, decodeCw_none, hf, if_neg (by simp), h₁, h₂, if_neg (by simp), if_neg (by simp [c₁]), if_neg (by simp [c₂])]

theorem readLine_colour (h₁ : poisonedAt s (a / 64 * 64 / 32) = false) (h₂ : poisonedAt s (a / 64 * 64 / 32 + 1) = false)
    (c₁ : colourOf s (a / 64 * 64 / 32) ≠ i) : readLine (some i) a 0 0 s =
      (.colour, colourFault (some i) (a / 64 * 64) (colourOf s (a / 64 * 64 / 32)) s) := by
  unfold readLine
  dsimp only
  rw [decodeCw_none, decodeCw_none, hf, if_neg (by simp), h₁, h₂, if_neg (by simp), if_pos c₁]

theorem readLine_poison (h₁ : poisonedAt s (a / 64 * 64 / 32) = true) :
    readLine (some i) a 0 0 s = (.poison, uncorrectable (some i) (a / 64 * 64) s) := by
  unfold readLine
  dsimp only
  rw [decodeCw_none, decodeCw_none, hf, if_neg (by simp), h₁, if_pos (by simp)]

end

theorem addCounter_insts (i k n : Nat) (s : State) : ∃ x, addCounter i k n s = { s with insts := x } := by
  unfold addCounter
  dsimp only
  split
  · exact ⟨s.insts, rfl⟩
  · exact ⟨_, rfl⟩

/-- A colour fault counts, and leaves a record of two entries. -/
theorem colourFault_does (i a found : Nat) (s : State) : let t := colourFault (some i) a found s
    t.mem.colourFaults = s.mem.colourFaults + 1 ∧ t.mem.bytes = s.mem.bytes ∧
      t.mem.instFaults.get 0 i = s.mem.instFaults.get 0 i + 1 ∧ t.log.next = s.log.next + 2 := by
  unfold colourFault logEvent logOne
  exact ⟨rfl, rfl, Tbl.get_set_same .., BitVec.add_assoc ..⟩

theorem uncorrectable_does (req : Option Nat) (a : Nat) (s : State) : let t := uncorrectable req a s
    t.mem.bytes = s.mem.bytes ∧ t.mem.ueSeen = true := by
  unfold uncorrectable
  dsimp only
  split <;> exact ⟨rfl, rfl⟩

/-! ## Writes (R336, R348) -/

/-- Bytes that lie in one codeword are one share. -/
theorem cwShares_one {n a : Nat} {d : List Byte} (hd : d ≠ []) (h : a % 32 + d.length ≤ 32) : cwShares (n + 1) a d = [(a / 32, a, d)] := by
  obtain ⟨x, l, rfl⟩ := List.exists_cons_of_ne_nil hd
  unfold cwShares
  dsimp only
  have h1 : (x :: l).take (32 - a % 32) = x :: l := List.take_of_length_le (by omega)
  have h2 : (x :: l).drop (32 - a % 32) = [] := List.drop_eq_nil_of_le (by omega)
  rw [h1, h2]
  cases n <;> rfl

section
variable {i a : Nat} {d : List Byte} {s : State} (hd : d ≠ []) (hl : d.length < 32) (hcw : a % 32 + d.length ≤ 32)
  (hf : isSysFrame s (frameAt a) = false) (ht : (s.frame (frameAt a)).tbl.toNat = i)
  (hch : (s.chan (chanAt (32 * (a / 32)))).st ≠ .failed) (hp : poisonedAt s (a / 32) = false) (hcol : colourOf s (a / 32) = i)
include hd hl hcw hf ht hch hp hcol

omit hd hcw hf ht in
theorem writeCw_part : writeCw (some i) (a / 32) a d s = (false, { s with mem := { s.mem with bytes := Tbl.write 0 s.mem.bytes a d } }) := by
  unfold writeCw
  dsimp only
  rw [if_neg hch, if_neg (Nat.ne_of_lt hl), hp, if_neg (by simp), if_neg]
  simp [hcol]

/-- A write inside one codeword stores its bytes. -/
theorem writePhys_codeword : writePhys (some i) a d s = (.ok, { s with mem := { s.mem with bytes := Tbl.write 0 s.mem.bytes a d } }) := by
  unfold writePhys
  dsimp only
  rw [hf, if_neg (by simp), if_neg (by simp [ht]), cwShares_one hd hcw]
  unfold forEach forEach
  dsimp only
  rw [writeCw_part hl hch hp hcol]
  rfl

end

theorem writePhys_other {i a : Nat} {d : List Byte} {s : State} (hf : isSysFrame s (frameAt a) = false)
    (ht : (s.frame (frameAt a)).tbl.toNat ≠ i) :
    writePhys (some i) a d s = (.colour, colourFault (some i) a (s.frame (frameAt a)).tbl.toNat s) := by
  unfold writePhys
  dsimp only
  rw [hf, if_neg (by simp), if_pos]
  simpa using ht

/-! ## The map (R337, R340) -/

theorem bit_dirEntry {t : Nat} (h : t < 65536) : bit (BitVec.ofNat 32 (2 ^ 31 + t)).toNat 31 = true ∧
    bits (BitVec.ofNat 32 (2 ^ 31 + t)).toNat 15 0 = t := by
  have hn : (BitVec.ofNat 32 (2 ^ 31 + t)).toNat = 2 ^ 31 + t := Nat.mod_eq_of_lt (by omega)
  rw [hn]
  unfold bit bits
  refine ⟨?_, by omega⟩
  rw [Nat.testBit_eq_decide_div_mod_eq]
  simp
  omega

theorem freeLeaf_lt {s : State} {t : Nat} (h : freeLeaf s = some t) : t < 65536 := by
  unfold freeLeaf at h
  dsimp only at h
  split at h
  · split at h
    · next h' => exact Option.some.inj h ▸ h'
    · exact absurd h nofun
  · exact absurd h nofun

/-- An entry that is written, where there is a leaf table for it, reads back. -/
theorem leafEntry_setLeaf {i p : Nat} {e : W32} {s : State} (h : ((leafTable s i p).isSome || (freeLeaf s).isSome) = true) :
    leafEntry (setLeaf i p e s) i p = some e := by
  unfold setLeaf
  split
  · next t ht =>
    unfold leafEntry
    rw [show leafTable (putLeaf t p e s) i p = some t from ht]
    exact congrArg some (Tbl.get_set_same ..)
  · next hn =>
    split
    · next hfree => rw [hn, hfree] at h; exact absurd h (by decide)
    · next t ht =>
      obtain ⟨hb, hbits⟩ := bit_dirEntry (freeLeaf_lt ht)
      generalize hu : ({ s with mem := _ } : State) = u
      have htab : leafTable u i p = some t := by
        unfold leafTable
        dsimp only
        rw [← hu]
        dsimp only
        rw [Tbl.get_set_same, if_pos hb, hbits]
      unfold leafEntry
      rw [show leafTable (putLeaf t p e u) i p = some t from htab]
      exact congrArg some (Tbl.get_set_same ..)

theorem LeafKept.leafEntry_eq {s t : State} (h : LeafKept s t) (i p : Nat) : leafEntry t i p = leafEntry s i p := by
  unfold leafEntry leafTable
  rw [h.dir, h.leaf]

theorem settlePage_leafKept (i p : Nat) (s : State) : LeafKept s (settlePage i p s) := by
  unfold settlePage
  refine (LeafKept.refl s).forBelow fun f t h => h.forBelow fun tag u h => ?_
  dsimp only
  split
  · exact h.endRequest
  · exact h

/-! ## Scrubs and grants (R345, R346) -/

/-- The grant of a release scrub. -/
def scrubGrant (s : State) : Grant :=
  { id := s.pwr.nextGrant, units := 12, us := 336, level := 0, inst := none, discretionary := true, die := none, holder := .scrub,
    given := s.time, expiry := 0 }

/-- A burst that is given takes up to 32 released frames. -/
theorem scrub_onGrant {g : Grant} (hg : g.holder = .scrub) {u : State} (hu : u.mem.burst = []) : (onGrant g u).pwr = u.pwr ∧
    (onGrant g u).mem.burst = u.mem.releaseQ.take 32 ∧ (onGrant g u).mem.releaseQ = u.mem.releaseQ.drop 32 := by
  unfold onGrant
  rw [hg]
  dsimp only
  rw [if_pos (by rw [hu]; rfl)]
  split
  · exact ⟨rfl, rfl, rfl⟩
  · split <;> exact ⟨rfl, rfl, rfl⟩

/-- With an empty queue a scrub burst that fits is given, and takes up to 32 released frames. -/
theorem scrubGrant_given {s : State} (hw : s.pwr.waits = []) (hf : fits s (scrubGrant s) = true) (hb : s.mem.burst = []) :
    let t := requestGrant 12 336 0 none true none .scrub s
    t.mem.burst = s.mem.releaseQ.take 32 ∧ t.mem.releaseQ = s.mem.releaseQ.drop 32 ∧
      t.pwr.grants = s.pwr.grants ++ [{ scrubGrant s with given := s.time, first := s.time, expiry := s.time + 1000 * 336 }] := by
  have e : requestGrant 12 336 0 none true none .scrub s =
      (let t := grantQueue [scrubGrant s] [] { s with pwr := { s.pwr with nextGrant := s.pwr.nextGrant + 1, waits := [scrubGrant s] } }
       if t.pwr.waits.any (·.id = s.pwr.nextGrant) then setWaitTimer s.pwr.nextGrant { t with pwr := { t.pwr with waitCnt := t.pwr.waitCnt + 1 } }
       else t) := by
    unfold requestGrant
    dsimp only
    rw [hw]
    rfl
  rw [e, grantQueue_one_fits (s := { s with pwr := { s.pwr with nextGrant := s.pwr.nextGrant + 1, waits := [scrubGrant s] } }) hf]
  dsimp only
  rw [show [scrubGrant s].filter (fun x => decide (x.id ≠ (scrubGrant s).id)) = [] by simp]
  unfold giveGrant
  dsimp only
  have key : ∀ (g : Grant) (u : State), g.holder = .scrub → u.pwr.waits = [] → u.pwr.grants = s.pwr.grants ++ [g] → u.mem = s.mem →
      let r := if (onGrant g u).pwr.waits.any (·.id = s.pwr.nextGrant) then
        setWaitTimer s.pwr.nextGrant { onGrant g u with pwr := { (onGrant g u).pwr with waitCnt := (onGrant g u).pwr.waitCnt + 1 } } else onGrant g u
      r.mem.burst = s.mem.releaseQ.take 32 ∧ r.mem.releaseQ = s.mem.releaseQ.drop 32 ∧ r.pwr.grants = s.pwr.grants ++ [g] := by
    intro g u hg h1 h2 h3
    obtain ⟨h4, h5, h6⟩ := scrub_onGrant hg (u := u) (by rw [h3]; exact hb)
    dsimp only
    rw [h4, h1, if_neg (by simp), h5, h6, h3, h4]
    exact ⟨rfl, rfl, h2⟩
  exact key _ _ rfl rfl rfl rfl

/-! ## Frames that are wiped (R345, R346) -/

/-- A wiped frame holds zeros. -/
theorem wipeFrame_bytes (f : Nat) (c : BitVec 8) (s : State) (a : Nat) (h : frameAt a = f) : Tbl.get 0 (wipeFrame f c s).mem.bytes a = 0 := by
  unfold frameAt pageSize at h
  refine Tbl.get_clearRange _ _ ?_ ?_ <;> unfold pageSize <;> omega

theorem wipeFrame_frame {f : Nat} (c : BitVec 8) {s : State} (h : isSysFrame s f = false) :
    (wipeFrame f c s).frame f = { s.frame f with lines := c } := by
  unfold wipeFrame
  dsimp only
  exact State.setFrame_same _ h

theorem setLeaf_eq (i p : Nat) (e : W32) (s : State) : ∃ d l, setLeaf i p e s = { s with mem := { s.mem with dir := d, leaf := l } } := by
  unfold setLeaf putLeaf
  split
  · exact ⟨s.mem.dir, _, rfl⟩
  · split
    · exact ⟨s.mem.dir, s.mem.leaf, rfl⟩
    · exact ⟨_, _, rfl⟩

/-- Settles O33. -/
theorem deviceMemory : Obligations.DeviceMemory := by
  unfold Obligations.DeviceMemory
  refine ⟨?_, ?_, ?_, ?_, ?_, ?_, ?_, ?_, ?_, ?_, ?_, ?_, ?_, ?_, ?_⟩
  · intro i a s hm hc hf h1 h2 c1 c2
    refine Does.of (show execMemReadRequest (some i) a 0 0 s = _ from memRead_asks hm hc _) ?_
    rw [readLine_data hf h1 h2 c1 c2]
    obtain ⟨x, e⟩ := addCounter_insts i 1 64 s
    rw [e]
    exact ⟨rfl, rfl, rfl⟩
  · intro i a s hm hc hf h1 h2 c1
    refine Does.of (show execMemReadRequest (some i) a 0 0 s = _ from memRead_asks hm hc _) ?_
    rw [readLine_colour hf h1 h2 c1]
    exact ⟨rfl, colourFault_does i _ _ s⟩
  · intro i a s hm hc hf h1
    refine Does.of (show execMemReadRequest (some i) a 0 0 s = _ from memRead_asks hm hc _) ?_
    rw [readLine_poison hf h1]
    exact ⟨rfl, uncorrectable_does _ _ s⟩
  · intro i a d s hm hc hd hl hcw hf ht hch hp hcol
    refine Does.of (show execMemWriteRequest (some i) a ⟨d, false⟩ s = _ from memWrite_asks hm hc _ hd (by omega)) ?_
    have e : writeMarked (some i) a ⟨d, false⟩ s = writePhys (some i) a d s := rfl
    rw [e, writePhys_codeword hd hl hcw hf ht hch hp hcol]
    refine ⟨rfl, Tbl.read_write .., fun b hb => ?_, rfl⟩
    refine (Tbl.get_write ..).trans (if_neg ?_)
    omega
  · intro i a d s hm hc hd hl hf ht
    refine Does.of (show execMemWriteRequest (some i) a ⟨d, false⟩ s = _ from memWrite_asks hm hc _ hd hl) ?_
    have e : writeMarked (some i) a ⟨d, false⟩ s = writePhys (some i) a d s := rfl
    rw [e, writePhys_other hf ht]
    obtain ⟨h1, h2, -⟩ := colourFault_does i a (s.frame (frameAt a)).tbl.toNat s
    exact ⟨rfl, h2, h1⟩
  · intro i a d s hm hc hd hl hcw hf ht hch hp hcol
    refine Does.of (show execMemWriteRequest (some i) a ⟨d, true⟩ s = _ from memWrite_asks hm hc _ hd (by omega)) ?_
    have e : writeMarked (some i) a ⟨d, true⟩ s = (.ok, writePoison (a / 32) { s with mem := { s.mem with bytes := Tbl.write 0 s.mem.bytes a d } }) := by
      unfold writeMarked
      rw [writePhys_codeword hd hl hcw hf ht hch hp hcol]
      dsimp only
      rw [if_pos (by simp), cwShares_one hd hcw]
      rfl
    rw [e]
    refine ⟨rfl, ?_⟩
    unfold poisonedAt
    dsimp only [writePoison]
    rw [Tbl.get_set_same]
    rfl
  · intro i a s hm hc
    show execMemReadRequest (some i) a 0 0 s = _
    unfold execMemReadRequest askMem
    rw [if_pos hm]
    exact next_congr (if_neg (by simp [hc]))
  · intro a s hm hst hc hown h1 h2
    show execPatrolRead a 0 0 s = _
    unfold execPatrolRead
    dsimp only
    rw [if_pos (by simp [hm, hst, hc, hown])]
    refine next_congr ?_
    unfold readLine
    dsimp only
    rw [decodeCw_none, decodeCw_none, if_neg (by simp), h1, h2, if_neg (by simp)]
  · intro i p e s h
    have h1 : leafEntry (settlePage i p (setLeaf i p (e &&& 0xCFFFFFFF) s)) i p = some (e &&& 0xCFFFFFFF) :=
      ((settlePage_leafKept i p _).leafEntry_eq i p).trans (leafEntry_setLeaf h)
    show ∃ t, execLeafEntryChange i p e s = .next t ∧ _
    unfold execLeafEntryChange
    dsimp only
    generalize settlePage i p _ = t at h1 ⊢
    split
    · exact ⟨_, rfl, ((LeafKept.refl t).releaseFrame.leafEntry_eq i p).trans h1⟩
    · exact ⟨_, rfl, h1⟩
  · intro s hlv hq hb hsp hps haw hg hrv hw hsag hred hstr hfit
    have hf : fits s (scrubGrant s) = true := by
      unfold fits granted
      rw [hsag, hred, hstr, hg]
      simpa [scrubGrant] using hfit
    obtain ⟨h1, h2, h3⟩ := scrubGrant_given hw hf hb
    refine Does.of (show execReleaseScrubBurst s = _ from ?_) ⟨h1, h2, by rw [h3, hg]; rfl⟩
    unfold execReleaseScrubBurst
    rw [settleLeaving_none hlv]
    dsimp only
    rw [if_neg (by simp [hq, hb, hsp, hps, hg, hrv, hw]), if_neg (by simp [haw])]
  · intro s hlv hq hb hsp hps hg hrv hw hpsn hent
    have haw : awake s = false := by
      unfold awake
      rw [decide_eq_false hpsn]
      rfl
    refine Does.of (show execReleaseScrubBurst s = .next (wake s) from ?_) ?_
    · unfold execReleaseScrubBurst
      rw [settleLeaving_none hlv]
      dsimp only
      rw [if_neg (by simp [hq, hb, hsp, hps, hg, hrv, hw]), if_pos (by rw [haw]; rfl)]
    · unfold wake
      dsimp only
      rw [if_neg (by simp [hent]), if_pos hpsn]
      exact ⟨rfl, rfl⟩
  · intro f s hst hscr hsys hal
    show ∃ t, execScrubFrameDone f s = .next t ∧ _
    unfold execScrubFrameDone scrubDone
    dsimp only
    rw [if_neg (by simp [hst, hscr])]
    generalize hx : ({ (wipeFrame f (s.frame f).tbl s).frame f with st := _, scrubbing := _, ce := _, ue := _ } : Frame) = x
    generalize hv : ({ (wipeFrame f (s.frame f).tbl s).setFrame f x with mem := _ } : State) = v
    have hvf : v.frame f = x := by
      rw [← hv]
      exact (frame_of_mem rfl rfl f).trans (State.setFrame_same (s := wipeFrame f (s.frame f).tbl s) x hsys)
    have hvb : v.mem.bytes = (wipeFrame f (s.frame f).tbl s).mem.bytes ∧ v.mem.scrubBytes = s.mem.scrubBytes + 2097152 ∧ v.mem.allocs = s.mem.allocs := by
      rw [← hv]
      exact ⟨rfl, rfl, rfl⟩
    obtain ⟨hb, hsb, hva⟩ := hvb
    have h := (Scrubs.refl v).nextScrub
    generalize nextScrub v = t at h ⊢
    have ht : retryAllocs t = t := by
      unfold retryAllocs
      rw [h.allocs, hva, hal]
      rfl
    refine ⟨_, rfl, ?_⟩
    rw [ht, h.frame_st, h.frame_lines, h.bytes, h.scrubBytes, hvf, hb, hsb, ← hx]
    refine ⟨rfl, ?_, fun a ha => wipeFrame_bytes f _ s a ha, rfl⟩
    rw [wipeFrame_frame _ hsys]
  · intro f w s hfind hmbx hfr hsys hleaf
    show ∃ t, execRecolourDone f s = .next t ∧ _
    unfold execRecolourDone
    rw [hfind]
    dsimp only
    generalize hx : ({ (wipeFrame f (BitVec.ofNat 8 w.inst) s).frame f with st := _ } : Frame) = x
    generalize hu : (wipeFrame f (BitVec.ofNat 8 w.inst) s).setFrame f x = u
    have hul : leafEntry (setLeaf w.inst w.page (leafOf w.inst f w.wr) u) w.inst w.page = some (leafOf w.inst f w.wr) :=
      leafEntry_setLeaf (by rw [← hu]; exact hleaf)
    have huf : u.frame f = x := by
      rw [← hu]
      exact State.setFrame_same x hsys
    have hub : u.mem.bytes = (wipeFrame f (BitVec.ofNat 8 w.inst) s).mem.bytes := by rw [← hu]; rfl
    have hua : u.mem.allocs = s.mem.allocs := by rw [← hu]; rfl
    obtain ⟨d, l, e⟩ := setLeaf_eq w.inst w.page (leafOf w.inst f w.wr) u
    have ha : ∀ v, allocDone w v = v := fun v => by
      unfold allocDone
      rw [hfr, hmbx]
    refine ⟨_, rfl, ?_⟩
    rw [ha]
    generalize hv : ({ setLeaf w.inst w.page (leafOf w.inst f w.wr) u with mem := _ } : State) = v
    have hvf : v.frame f = x := by
      refine Eq.trans (frame_of_mem ?_ ?_ f) huf <;> (rw [← hv, e])
    refine ⟨?_, ?_, ?_, fun a ha => ?_, ?_⟩
    · rw [hvf, ← hx]
    · rw [hvf, ← hx, wipeFrame_frame _ hsys]
    · rw [← hv]
      exact hul
    · rw [← hv, e]
      exact (congrArg (fun t : Tbl (BitVec 8) => Tbl.get 0 t a) hub).trans (wipeFrame_bytes f _ s a ha)
    · rw [← hv, e]
      exact congrArg (List.erase · w) hua
  · intro f it p t s hit hmap hal
    show execStatePageBacking f s = _
    unfold execStatePageBacking
    rw [hit, hmap]
    dsimp only
    rw [hal]
  · intro f it p t s hit hmap hal
    show execStatePageBacking f s = _
    unfold execStatePageBacking
    rw [hit, hmap]
    dsimp only
    rw [hal]

end Sys2Proof.Machine
end

section
/-!
PROOFS. A property that a write to a table keeps.
-/

namespace Sys2Proof.Machine

/-- A write that keeps a property of its entry keeps it of every entry. -/
theorem Tbl.get_set_imp {α : Type} [DecidableEq α] {d v : α} {t : Tbl α} {k : Nat} (P : α → Prop) (h : P (t.get d k) → P v) (j : Nat)
    (hj : P (t.get d j)) : P ((t.set d k v).get d j) := by
  obtain rfl | hne := eq_or_ne j k
  · rw [Tbl.get_set_same]
    exact h hj
  · rw [Tbl.get_set_ne _ _ _ hne]
    exact hj

/-- A map over a table that keeps a property of entries keeps it of every entry. -/
theorem Tbl.get_map_imp {α : Type} {d : α} {f : α → α} (P : α → Prop) (hf : ∀ v, P v → P (f v)) (t : Tbl α) (j : Nat) (hj : P (t.get d j)) :
    P (Tbl.get d (t.map fun e => (e.1, f e.2)) j) := by
  induction t with
  | nil => exact hj
  | cons e t ih =>
    obtain ⟨k, v⟩ := e
    unfold Tbl.get at hj
    show P (Tbl.get d ((k, f v) :: t.map fun e => (e.1, f e.2)) j)
    unfold Tbl.get
    split
    · next h =>
      rw [if_pos h] at hj
      exact hf v hj
    · next h =>
      rw [if_neg h] at hj
      exact ih hj

/-- A map over a table that keeps a field keeps it in every entry. -/
theorem Tbl.get_map_field {α β : Type} {d : α} {f : α → α} (g : α → β) (hf : ∀ v, g (f v) = g v) (t : Tbl α) (j : Nat) :
    g (Tbl.get d (t.map fun e => (e.1, f e.2)) j) = g (t.get d j) :=
  Tbl.get_map_imp (fun x => g x = g (t.get d j)) (fun v h => (hf v).trans h) t j rfl

/-- The updates of a match unit when a command's work ends. -/
def stopUpd (slot : Nat) (x : CmuUnit) : CmuUnit :=
  { x with upd := (x.upd.filter fun u => !(u.slot = some slot && u.step = 0)).map fun u => if u.slot = some slot then { u with stop := true } else u }

theorem stopUpd_nil (slot : Nat) {x : CmuUnit} (h : x.upd = []) : (stopUpd slot x).upd = [] := by
  unfold stopUpd
  rw [h]
  rfl

end Sys2Proof.Machine
end

section
/-!
PROOFS. Work that ends because a unit has failed: what it leaves of the engine units.
-/

namespace Sys2Proof.Machine

/-- From s₀ to s an engine unit's fault and updates, and the absence of jobs and lanes, stand. -/
structure Faulted (s₀ s : State) : Prop where
  time : s.time = s₀.time
  cmu_fault : ∀ j, (s.cmu j).fault = (s₀.cmu j).fault
  cmu_upd : ∀ j, (s₀.cmu j).upd = [] → (s.cmu j).upd = []
  cmu_busy : ∀ j, (s.cmu j).busy = (s₀.cmu j).busy
  smu_fault : ∀ j, (s.smu j).fault = (s₀.smu j).fault
  smu_jobs : ∀ j, (s₀.smu j).jobs = [] → (s.smu j).jobs = []
  dgu_fault : ∀ j, (s.dgu j).fault = (s₀.dgu j).fault
  dgu_lanes : ∀ j, (s₀.dgu j).lanes = [] → (s.dgu j).lanes = []

theorem Faulted.refl (s : State) : Faulted s s := ⟨rfl, fun _ => rfl, fun _ h => h, fun _ => rfl, fun _ => rfl, fun _ h => h, fun _ => rfl, fun _ h => h⟩

section
variable {s₀ s t : State}

/-- An update of the parts that `Faulted` does not name. -/
theorem Faulted.upd {pending seed fronds ring disp mem eng store insts mbx haw log mp pwr tel sec lnk pads out} (h : Faulted s₀ s)
    (h_cmu : eng.cmu = s.eng.cmu := by rfl)
    (h_smu : eng.smu = s.eng.smu := by rfl)
    (h_dgu : eng.dgu = s.eng.dgu := by rfl) :
    Faulted s₀ { s with pending, seed, fronds, ring, disp, mem, eng, store, insts, mbx, haw, log, mp, pwr, tel, sec, lnk, pads, out } :=
  { h with
    cmu_fault := fun j => (congrArg (fun t : Tbl CmuUnit => (t.get CmuUnit.reset j).fault) h_cmu).trans (h.cmu_fault j),
    cmu_upd := fun j hj => (congrArg (fun t : Tbl CmuUnit => (t.get CmuUnit.reset j).upd) h_cmu).trans (h.cmu_upd j hj),
    cmu_busy := fun j => (congrArg (fun t : Tbl CmuUnit => (t.get CmuUnit.reset j).busy) h_cmu).trans (h.cmu_busy j),
    smu_fault := fun j => (congrArg (fun t : Tbl SmuUnit => (t.get SmuUnit.reset j).fault) h_smu).trans (h.smu_fault j),
    smu_jobs := fun j hj => (congrArg (fun t : Tbl SmuUnit => (t.get SmuUnit.reset j).jobs) h_smu).trans (h.smu_jobs j hj),
    dgu_fault := fun j => (congrArg (fun t : Tbl DguUnit => (t.get DguUnit.reset j).fault) h_dgu).trans (h.dgu_fault j),
    dgu_lanes := fun j hj => (congrArg (fun t : Tbl DguUnit => (t.get DguUnit.reset j).lanes) h_dgu).trans (h.dgu_lanes j hj) }

theorem Faulted.setCmu {u : Nat} {x : CmuUnit} (h : Faulted s₀ s)
    (h_fault : x.fault = (s.cmu u).fault := by rfl)
    (h_upd : (s.cmu u).upd = [] → x.upd = [] := by exact id)
    (h_busy : x.busy = (s.cmu u).busy := by rfl) :
    Faulted s₀ (s.setCmu u x) :=
  { h with
    cmu_fault := fun j => (Tbl.get_set_field CmuUnit.fault h_fault j).trans (h.cmu_fault j),
    cmu_upd := fun j hj => Tbl.get_set_imp (fun x : CmuUnit => x.upd = []) h_upd j (h.cmu_upd j hj),
    cmu_busy := fun j => (Tbl.get_set_field CmuUnit.busy h_busy j).trans (h.cmu_busy j) }

theorem Faulted.setSmu {u : Nat} {x : SmuUnit} (h : Faulted s₀ s)
    (h_fault : x.fault = (s.smu u).fault := by rfl)
    (h_jobs : (s.smu u).jobs = [] → x.jobs = [] := by exact id) :
    Faulted s₀ (s.setSmu u x) :=
  { h with
    smu_fault := fun j => (Tbl.get_set_field SmuUnit.fault h_fault j).trans (h.smu_fault j),
    smu_jobs := fun j hj => Tbl.get_set_imp (fun x : SmuUnit => x.jobs = []) h_jobs j (h.smu_jobs j hj) }

theorem Faulted.setDgu {u : Nat} {x : DguUnit} (h : Faulted s₀ s)
    (h_fault : x.fault = (s.dgu u).fault := by rfl)
    (h_lanes : (s.dgu u).lanes = [] → x.lanes = [] := by exact id) :
    Faulted s₀ (s.setDgu u x) :=
  { h with
    dgu_fault := fun j => (Tbl.get_set_field DguUnit.fault h_fault j).trans (h.dgu_fault j),
    dgu_lanes := fun j hj => Tbl.get_set_imp (fun x : DguUnit => x.lanes = []) h_lanes j (h.dgu_lanes j hj) }

theorem Faulted.ite {c : Prop} [Decidable c] (h : Faulted s₀ s) (k : Faulted s₀ t) : Faulted s₀ (if c then s else t) := by
  split
  · exact h
  · exact k

theorem Faulted.forEach {β : Type} {f : β → State → State} {l : List β} (h : Faulted s₀ s)
    (hf : ∀ b t, Faulted s₀ t → Faulted s₀ (f b t)) : Faulted s₀ (Machine.forEach f l s) :=
  forEach_keeps (fun b _ t => hf b t) h

theorem Faulted.forBelow {f : Nat → State → State} {n : Nat} (h : Faulted s₀ s) (hf : ∀ b t, Faulted s₀ t → Faulted s₀ (f b t)) :
    Faulted s₀ (Machine.forBelow f n s) := by
  induction n with
  | zero => exact h
  | succ n ih => exact hf _ _ ih

theorem Faulted.foldl {β : Type} {f : State → β → State} {l : List β} (h : Faulted s₀ s) (hf : ∀ b t, Faulted s₀ t → Faulted s₀ (f t b)) :
    Faulted s₀ (l.foldl f s) := by
  induction l generalizing s with
  | nil => exact h
  | cons b l ih => exact ih (hf b s h)

theorem Faulted.forEachSnd {α β : Type} {f : β → α × State → α × State} {l : List β} {p : α × State} (h : Faulted s₀ p.2)
    (hf : ∀ b p, Faulted s₀ p.2 → Faulted s₀ (f b p).2) : Faulted s₀ (Machine.forEach f l p).2 := by
  induction l generalizing p with
  | nil => exact h
  | cons b l ih => exact ih (hf b p h)

theorem Faulted.foldlSnd {α β : Type} {f : α × State → β → α × State} {l : List β} {p : α × State} (h : Faulted s₀ p.2)
    (hf : ∀ b p, Faulted s₀ p.2 → Faulted s₀ (f p b).2) : Faulted s₀ (l.foldl f p).2 := by
  induction l generalizing p with
  | nil => exact h
  | cons b l ih => exact ih (hf b p h)

theorem Faulted.of_snd_snd {α β : Type} {p : α × β × State} {a : α} {b : β} (h : Faulted s₀ p.2.2) (e : p = (a, b, t)) : Faulted s₀ t := by
  rw [e] at h; exact h

/-- The state of a result. -/
theorem Faulted.of_snd {α : Type} {p : α × State} {a : α} (h : Faulted s₀ p.2) (e : p = (a, t)) : Faulted s₀ t := by
  rw [e] at h; exact h

end

end Sys2Proof.Machine
end

section
namespace Sys2Proof.Machine

section
-- Each of these short lemmas would else wait in a thread of its own.
set_option Elab.async false
variable {s₀ s t : State}

theorem Faulted.setInst {i : Nat} {x : Inst} (h : Faulted s₀ s) : Faulted s₀ (s.setInst i x) := h.upd

theorem Faulted.setSq {i n : Nat} {x : Sq} (h : Faulted s₀ s) : Faulted s₀ (s.setSq i n x) := h.upd

theorem Faulted.setCq {i n : Nat} {x : Cq} (h : Faulted s₀ s) : Faulted s₀ (s.setCq i n x) := h.upd

theorem Faulted.setCmd {k : Nat} {x : Option Cmd} (h : Faulted s₀ s) : Faulted s₀ (s.setCmd k x) := h.upd

theorem Faulted.modCmd {k : Nat} {f : Cmd → Cmd} (h : Faulted s₀ s) : Faulted s₀ (s.modCmd k f) := by
  unfold Machine.State.modCmd
  split
  · exact h
  · exact h.setCmd

theorem Faulted.setMbx {i : Nat} {x : Mbx} (h : Faulted s₀ s) : Faulted s₀ (s.setMbx i x) := h.upd

theorem Faulted.setHaw {i : Nat} {x : Haw} (h : Faulted s₀ s) : Faulted s₀ (s.setHaw i x) := h.upd

theorem Faulted.setChan {c : Nat} {x : Chan} (h : Faulted s₀ s) : Faulted s₀ (s.setChan c x) := h.upd

theorem Faulted.setLink {l : Nat} {x : Link} (h : Faulted s₀ s) : Faulted s₀ (s.setLink l x) := h.upd

theorem Faulted.setHostPort {p : Nat} {x : HostPort} (h : Faulted s₀ s) : Faulted s₀ (s.setHostPort p x) := h.upd

theorem Faulted.freshNat (h : Faulted s₀ s) : Faulted s₀ s.freshNat.2 := h.upd

theorem Faulted.freshWord (h : Faulted s₀ s) : Faulted s₀ s.freshWord.2 := h.upd

theorem Faulted.choose {α : Type} {l : List α} (h : Faulted s₀ s) : Faulted s₀ (s.choose l).2 := by
  unfold Machine.State.choose
  split
  · dsimp only
    exact h
  · dsimp only
    exact h
  · dsimp only
    exact h.upd

theorem Faulted.logOne {code src inst detail : Nat} (h : Faulted s₀ s) : Faulted s₀ (logOne code src inst detail s) := h.upd

theorem Faulted.logEvent {code src inst detail : Nat} {ext : Option Nat} (h : Faulted s₀ s) :
    Faulted s₀ (logEvent code src inst detail ext s) := by
  unfold Machine.logEvent
  split
  · exact h.logOne
  · exact h.logOne.logOne

theorem Faulted.gateOut {o : GateOut} {release : State → State} (h : Faulted s₀ s)
    (hf : ∀ t, Faulted s₀ t → Faulted s₀ (release t)) :
    Faulted s₀ (gateOut o release s) := .ite h.upd.upd (hf _ h.upd)

theorem Faulted.hostOut {port : Nat} {m : HostMsg} (h : Faulted s₀ s) : Faulted s₀ (hostOut port m s) :=
  .ite h.upd (.ite h h.setHostPort)

theorem Faulted.hostSend {port : Nat} {m : HostMsg} (h : Faulted s₀ s) : Faulted s₀ (hostSend port m s) := by
  unfold Machine.hostSend
  split
  · exact .ite (.ite h h.upd) h.hostOut
  · exact h.hostOut

theorem Faulted.addCounter {i k n : Nat} (h : Faulted s₀ s) : Faulted s₀ (addCounter i k n s) := .ite h h.setInst

theorem Faulted.setFrame {f : Nat} {x : Frame} (h : Faulted s₀ s) : Faulted s₀ (s.setFrame f x) := h.upd

theorem Faulted.leaveQuota {f : Nat} (h : Faulted s₀ s) : Faulted s₀ (leaveQuota f s) := by
  unfold Machine.leaveQuota
  split
  · exact h
  · exact h.setInst.setFrame

theorem Faulted.releaseFrame {f : Nat} (h : Faulted s₀ s) : Faulted s₀ (releaseFrame f s) :=
  .ite h.leaveQuota.setFrame.upd.logEvent h.leaveQuota.setFrame.upd

theorem Faulted.setAsks {f n : Nat} (h : Faulted s₀ s) : Faulted s₀ (setAsks f n s) := h.upd

theorem Faulted.dropWaits {p : AllocWait → Bool} (h : Faulted s₀ s) : Faulted s₀ (dropWaits p s) := by
  unfold Machine.dropWaits
  refine .forEach h.upd ?_
  intro _ _ h1
  split
  · exact h1.releaseFrame
  · exact h1

theorem Faulted.onGrant {g : Grant} (h : Faulted s₀ s) : Faulted s₀ (onGrant g s) := by
  unfold Machine.onGrant
  split
  · exact h.upd
  · dsimp only
    split
    · exact .ite h.upd h.upd
    · exact .ite (.ite h.upd h.upd) (.setFrame (.ite h.upd h.upd))
  · exact h.setSmu
  · exact h.setCmu
  · exact .ite h.setLink h
  · exact h

theorem Faulted.dropWaitTimer {id : Nat} (h : Faulted s₀ s) : Faulted s₀ (dropWaitTimer id s) := h.upd

theorem Faulted.giveGrant {g : Grant} (h : Faulted s₀ s) : Faulted s₀ (giveGrant g s) := h.upd.dropWaitTimer.onGrant

theorem Faulted.grantQueue {a : List Grant} {a1 : List (Option Nat)} (h : Faulted s₀ s) : Faulted s₀ (grantQueue a a1 s) := by
  induction a generalizing a1 s with
  | nil =>
    unfold Machine.grantQueue
    exact h
  | cons b l ih =>
    unfold Machine.grantQueue
    dsimp only
    exact .ite (ih h) (.ite (ih h.upd.giveGrant) (.ite (ih h) (.ite (ih h) h)))

theorem Faulted.reinstate {a : List Grant} {a1 : List (Option Nat)} (h : Faulted s₀ s) : Faulted s₀ (reinstate a a1 s) := by
  induction a generalizing a1 s with
  | nil =>
    unfold Machine.reinstate
    exact h
  | cons b l ih =>
    unfold Machine.reinstate
    dsimp only
    exact .ite (ih h) (.ite (ih h.upd.onGrant) (.ite (ih h) h))

theorem Faulted.raiseSag {d : Nat} (h : Faulted s₀ s) : Faulted s₀ (raiseSag d s) := .ite h h.upd

theorem Faulted.examineGrants (h : Faulted s₀ s) : Faulted s₀ (examineGrants s) :=
  .grantQueue (.ite h (h.reinstate.forBelow (fun _ _ h1 => h1.raiseSag)))

theorem Faulted.chargeGrant {g : Grant} (h : Faulted s₀ s) : Faulted s₀ (chargeGrant g s) := by
  unfold Machine.chargeGrant
  split
  · exact h.addCounter
  · exact h

theorem Faulted.endGrant {id : Nat} (h : Faulted s₀ s) : Faulted s₀ (endGrant id s) := by
  unfold Machine.endGrant
  dsimp only
  have h1 : Faulted s₀ (Machine.forEach Machine.chargeGrant (s.pwr.grants.filter fun g => g.id = id) s) := h.forEach fun _ _ h =>
    h.chargeGrant
  exact (h1.upd).dropWaitTimer.examineGrants

theorem Faulted.endHolder {p : Holder} (h : Faulted s₀ s) : Faulted s₀ (endHolder p s) := h.forEach fun _ _ h1 => h1.endGrant

theorem Faulted.countSmu {u i bytes jobs : Nat} (h : Faulted s₀ s) : Faulted s₀ (countSmu u i bytes jobs s) := h.setSmu

theorem Faulted.dropJobs {slot u : Nat} (h : Faulted s₀ s) : Faulted s₀ (dropJobs slot u s) := by
  unfold Machine.dropJobs
  dsimp only
  generalize List.filter (fun j : SmuJob => decide (j.slot = slot)) (s.smu u).jobs = l
  have h1 : Faulted s₀ (Machine.forEach (fun (j : SmuJob) s =>
      if jobGranted u j s then Machine.countSmu u j.inst (s.freshNat.1 % (j.bytes - j.merged + 1)) 0 s.freshNat.2 else s) l s) :=
    h.forEach fun _ _ h => .ite h.freshNat.countSmu h
  generalize Machine.forEach _ l s = t at h1 ⊢
  exact .ite h1 (h1.setSmu (h_jobs := fun hj => by simp [hj]))

theorem Faulted.openR0 {c : Cmd} (h : Faulted s₀ s) : Faulted s₀ (openR0 c s).2 := by
  unfold Machine.openR0
  split
  · dsimp only
    exact h
  · exact h.freshWord

theorem Faulted.dropCursors {slot : Nat} (h : Faulted s₀ s) : Faulted s₀ (dropCursors slot s) := h.upd

theorem Faulted.setCtx {u k : Nat} {x : Ctx} (h : Faulted s₀ s) : Faulted s₀ (s.setCtx u k x) := h.setDgu

theorem Faulted.leaveLane {u k : Nat} (h : Faulted s₀ s) : Faulted s₀ (leaveLane u k s) :=
  h.setDgu (h_lanes := fun hl => by simp [hl])

theorem Faulted.failCtxCmp {u k dt : Nat} {cmp : BitVec 2} (h : Faulted s₀ s) : Faulted s₀ (failCtxCmp u k dt cmp s) :=
  h.setCtx.leaveLane

theorem Faulted.failCtx {u k dt : Nat} (h : Faulted s₀ s) : Faulted s₀ (failCtx u k dt s) := h.failCtxCmp

theorem Faulted.forCtxs {p : Ctx → Bool} {f : Nat → Nat → State → State} {u : Nat} (h : Faulted s₀ s)
    (hf : ∀ a a1 t, Faulted s₀ t → Faulted s₀ (f a a1 t)) :
    Faulted s₀ (forCtxs p f u s) := h.forEach (fun _ _ h1 => .ite (hf _ _ _ h1) h1)

theorem Faulted.stopDigests {slot : Nat} (h : Faulted s₀ s) : Faulted s₀ (stopDigests slot s) :=
  h.forBelow (fun _ _ h1 => h1.forCtxs (fun _ _ _ h2 => h2.failCtx))

theorem Faulted.endHolders {p : Holder → Bool} (h : Faulted s₀ s) : Faulted s₀ (endHolders p s) :=
  h.forEach fun _ _ h1 => h1.endGrant

theorem Faulted.stopWork {slot status : Nat} (h : Faulted s₀ s) : Faulted s₀ (stopWork slot status s) := by
  unfold Machine.stopWork
  dsimp only
  have h1 : Faulted s₀ (Machine.forBelow (Machine.dropJobs slot) 8 (Machine.dropCursors slot s)) := h.dropCursors.forBelow
    fun _ _ h1 => h1.dropJobs
  generalize Machine.forBelow (Machine.dropJobs slot) 8 (Machine.dropCursors slot s) = t at h1 ⊢
  generalize hv : ({ t with fronds := _, disp := _, store := _, eng := _ } : State) = v
  have hcmu : v.eng.cmu = t.eng.cmu.map fun e => (e.1, stopUpd slot e.2) := by
    rw [← hv]
    rfl
  have hj : ∀ j, v.cmu j = Tbl.get CmuUnit.reset (t.eng.cmu.map fun e => (e.1, stopUpd slot e.2)) j := fun j => by
    unfold State.cmu
    rw [hcmu]
  have hrest : v.time = t.time ∧ v.eng.smu = t.eng.smu ∧ v.eng.dgu = t.eng.dgu := by
    rw [← hv]
    exact ⟨rfl, rfl, rfl⟩
  obtain ⟨ht, hs, hd⟩ := hrest
  have h2 : Faulted s₀ v := {
    time := ht.trans h1.time
    cmu_fault := fun j => (congrArg CmuUnit.fault (hj j)).trans
      ((Tbl.get_map_field (f := stopUpd slot) CmuUnit.fault (fun _ => rfl) _ j).trans (h1.cmu_fault j))
    cmu_busy := fun j => (congrArg CmuUnit.busy (hj j)).trans
      ((Tbl.get_map_field (f := stopUpd slot) CmuUnit.busy (fun _ => rfl) _ j).trans (h1.cmu_busy j))
    cmu_upd := fun j he => (congrArg CmuUnit.upd (hj j)).trans
      (Tbl.get_map_imp (fun x : CmuUnit => x.upd = []) (fun _ h => stopUpd_nil slot h) _ j (h1.cmu_upd j he))
    smu_fault := fun j => (congrArg (fun t : Tbl SmuUnit => (t.get SmuUnit.reset j).fault) hs).trans (h1.smu_fault j)
    smu_jobs := fun j he => (congrArg (fun t : Tbl SmuUnit => (t.get SmuUnit.reset j).jobs) hs).trans (h1.smu_jobs j he)
    dgu_fault := fun j => (congrArg (fun t : Tbl DguUnit => (t.get DguUnit.reset j).fault) hd).trans (h1.dgu_fault j)
    dgu_lanes := fun j he => (congrArg (fun t : Tbl DguUnit => (t.get DguUnit.reset j).lanes) hd).trans (h1.dgu_lanes j he) }
  exact .endHolders (.ite h2 h2.stopDigests)

theorem Faulted.fixRecord {c : Cmd} (h : Faulted s₀ s) : Faulted s₀ (fixRecord c s) := h.setSq

theorem Faulted.presentOutcome {slot st : Nat} {r0 : W64} (h : Faulted s₀ s) : Faulted s₀ (presentOutcome slot st r0 s) := by
  unfold Machine.presentOutcome
  split
  · exact h
  · exact .ite h (.ite h.setCmd.fixRecord h.setCmd.fixRecord.stopWork)

theorem Faulted.failCmd {slot st : Nat} (h : Faulted s₀ s) : Faulted s₀ (failCmd slot st s) := by
  unfold Machine.failCmd
  split
  · exact h
  · exact h.openR0.presentOutcome

theorem Faulted.recordFailure {slot st : Nat} {r0 : W64} (h : Faulted s₀ s) : Faulted s₀ (recordFailure slot st r0 s) := by
  unfold Machine.recordFailure
  split
  · exact h
  · exact .ite h h.setCmd.stopWork

theorem Faulted.endIfFailed {slot : Nat} (h : Faulted s₀ s) : Faulted s₀ (endIfFailed slot s) := by
  unfold Machine.endIfFailed
  split
  · exact h
  · split
    · exact .ite h h.presentOutcome
    · exact h

theorem Faulted.failOp {f st : Nat} (h : Faulted s₀ s) : Faulted s₀ (failOp f st s).2 := by
  unfold Machine.failOp
  split
  · dsimp only
    exact h
  · split
    · dsimp only
      exact h
    · exact h.choose

theorem Faulted.failItem {f st : Nat} (h : Faulted s₀ s) : Faulted s₀ (failItem f st s) := by
  unfold Machine.failItem
  split
  · exact h
  · exact h.failOp.recordFailure

theorem Faulted.dropAsks {f : Nat} (h : Faulted s₀ s) : Faulted s₀ (dropAsks f s) := h.dropWaits.setAsks.upd

theorem Faulted.respond {fn err detail off : Nat} {payload : List Byte} (h : Faulted s₀ s) :
    Faulted s₀ (respond fn err detail off payload s) := .ite h.setMbx.hostSend h.setMbx

theorem Faulted.endMbx {fn err detail off : Nat} {payload : List Byte} (h : Faulted s₀ s) :
    Faulted s₀ (endMbx fn err detail off payload s) := h.gateOut fun _ h1 => h1.respond

theorem Faulted.mbxErr {fn err : Nat} (h : Faulted s₀ s) : Faulted s₀ (mbxErr fn err s) := h.endMbx

theorem Faulted.dropCursor {slot pipe : Nat} {kind : WorkKind} (h : Faulted s₀ s) : Faulted s₀ (dropCursor slot pipe kind s) :=
  h.upd

theorem Faulted.setDeficit {cls i : Nat} {x : ℤ} (h : Faulted s₀ s) : Faulted s₀ (setDeficit cls i x s) := h.upd

theorem Faulted.chargeWork {cls i ns : Nat} (h : Faulted s₀ s) : Faulted s₀ (chargeWork cls i ns s) := h.setDeficit

theorem Faulted.failDigest {slot st dt : Nat} (h : Faulted s₀ s) : Faulted s₀ (failDigest slot st dt s) := h.modCmd.failCmd

theorem Faulted.failAsks (h : Faulted s₀ s) : Faulted s₀ (failAsks s) := h.forEach fun _ _ h1 => h1.dropAsks.failItem

end

end Sys2Proof.Machine
end

section
/-!
PROOFS. Commands and items that fail with a link of the fabric log nothing.
-/

namespace Sys2Proof.Machine

/-- From s₀ to s the log and the state of the fabric's links are unchanged. -/
structure FabricKept (s₀ s : State) : Prop where
  time : s.time = s₀.time
  log : s.log = s₀.log
  fabricDown : s.eng.fabricDown = s₀.eng.fabricDown

theorem FabricKept.refl (s : State) : FabricKept s s := ⟨rfl, rfl, rfl⟩

section
variable {s₀ s t : State}

/-- An update of the parts that `FabricKept` does not name. -/
theorem FabricKept.upd {pending seed fronds ring disp mem eng store insts mbx haw mp pwr tel sec lnk pads out} (h : FabricKept s₀ s)
    (h_fabricDown : eng.fabricDown = s.eng.fabricDown := by rfl) :
    FabricKept s₀ { s with pending, seed, fronds, ring, disp, mem, eng, store, insts, mbx, haw, mp, pwr, tel, sec, lnk, pads, out } :=
  { h with
    fabricDown := h_fabricDown.trans h.fabricDown }

theorem FabricKept.ite {c : Prop} [Decidable c] (h : FabricKept s₀ s) (k : FabricKept s₀ t) : FabricKept s₀ (if c then s else t) := by
  split
  · exact h
  · exact k

theorem FabricKept.forEach {β : Type} {f : β → State → State} {l : List β} (h : FabricKept s₀ s)
    (hf : ∀ b t, FabricKept s₀ t → FabricKept s₀ (f b t)) : FabricKept s₀ (Machine.forEach f l s) :=
  forEach_keeps (fun b _ t => hf b t) h

theorem FabricKept.forBelow {f : Nat → State → State} {n : Nat} (h : FabricKept s₀ s) (hf : ∀ b t, FabricKept s₀ t → FabricKept s₀ (f b t)) :
    FabricKept s₀ (Machine.forBelow f n s) := by
  induction n with
  | zero => exact h
  | succ n ih => exact hf _ _ ih

theorem FabricKept.foldl {β : Type} {f : State → β → State} {l : List β} (h : FabricKept s₀ s) (hf : ∀ b t, FabricKept s₀ t → FabricKept s₀ (f t b)) :
    FabricKept s₀ (l.foldl f s) := by
  induction l generalizing s with
  | nil => exact h
  | cons b l ih => exact ih (hf b s h)

theorem FabricKept.forEachSnd {α β : Type} {f : β → α × State → α × State} {l : List β} {p : α × State} (h : FabricKept s₀ p.2)
    (hf : ∀ b p, FabricKept s₀ p.2 → FabricKept s₀ (f b p).2) : FabricKept s₀ (Machine.forEach f l p).2 := by
  induction l generalizing p with
  | nil => exact h
  | cons b l ih => exact ih (hf b p h)

theorem FabricKept.foldlSnd {α β : Type} {f : α × State → β → α × State} {l : List β} {p : α × State} (h : FabricKept s₀ p.2)
    (hf : ∀ b p, FabricKept s₀ p.2 → FabricKept s₀ (f p b).2) : FabricKept s₀ (l.foldl f p).2 := by
  induction l generalizing p with
  | nil => exact h
  | cons b l ih => exact ih (hf b p h)

theorem FabricKept.of_snd_snd {α β : Type} {p : α × β × State} {a : α} {b : β} (h : FabricKept s₀ p.2.2) (e : p = (a, b, t)) : FabricKept s₀ t := by
  rw [e] at h; exact h

/-- The state of a result. -/
theorem FabricKept.of_snd {α : Type} {p : α × State} {a : α} (h : FabricKept s₀ p.2) (e : p = (a, t)) : FabricKept s₀ t := by
  rw [e] at h; exact h

end

end Sys2Proof.Machine
end

section
namespace Sys2Proof.Machine

section
-- Each of these short lemmas would else wait in a thread of its own.
set_option Elab.async false
variable {s₀ s t : State}

theorem FabricKept.setInst {i : Nat} {x : Inst} (h : FabricKept s₀ s) : FabricKept s₀ (s.setInst i x) := h.upd

theorem FabricKept.setSq {i n : Nat} {x : Sq} (h : FabricKept s₀ s) : FabricKept s₀ (s.setSq i n x) := h.upd

theorem FabricKept.setCq {i n : Nat} {x : Cq} (h : FabricKept s₀ s) : FabricKept s₀ (s.setCq i n x) := h.upd

theorem FabricKept.setCmd {k : Nat} {x : Option Cmd} (h : FabricKept s₀ s) : FabricKept s₀ (s.setCmd k x) := h.upd

theorem FabricKept.modCmd {k : Nat} {f : Cmd → Cmd} (h : FabricKept s₀ s) : FabricKept s₀ (s.modCmd k f) := by
  unfold Machine.State.modCmd
  split
  · exact h
  · exact h.setCmd

theorem FabricKept.setCmu {u : Nat} {x : CmuUnit} (h : FabricKept s₀ s) : FabricKept s₀ (s.setCmu u x) := h.upd

theorem FabricKept.setSmu {u : Nat} {x : SmuUnit} (h : FabricKept s₀ s) : FabricKept s₀ (s.setSmu u x) := h.upd

theorem FabricKept.setDgu {u : Nat} {x : DguUnit} (h : FabricKept s₀ s) : FabricKept s₀ (s.setDgu u x) := h.upd

theorem FabricKept.setLink {l : Nat} {x : Link} (h : FabricKept s₀ s) : FabricKept s₀ (s.setLink l x) := h.upd

theorem FabricKept.freshNat (h : FabricKept s₀ s) : FabricKept s₀ s.freshNat.2 := h.upd

theorem FabricKept.freshWord (h : FabricKept s₀ s) : FabricKept s₀ s.freshWord.2 := h.upd

theorem FabricKept.choose {α : Type} {l : List α} (h : FabricKept s₀ s) : FabricKept s₀ (s.choose l).2 := by
  unfold Machine.State.choose
  split
  · dsimp only
    exact h
  · dsimp only
    exact h
  · dsimp only
    exact h.upd

theorem FabricKept.addCounter {i k n : Nat} (h : FabricKept s₀ s) : FabricKept s₀ (addCounter i k n s) := .ite h h.setInst

theorem FabricKept.setFrame {f : Nat} {x : Frame} (h : FabricKept s₀ s) : FabricKept s₀ (s.setFrame f x) := h.upd

theorem FabricKept.onGrant {g : Grant} (h : FabricKept s₀ s) : FabricKept s₀ (onGrant g s) := by
  unfold Machine.onGrant
  split
  · exact h.upd
  · dsimp only
    split
    · exact .ite h.upd h.upd
    · exact .ite (.ite h.upd h.upd) (.setFrame (.ite h.upd h.upd))
  · exact h.setSmu
  · exact h.setCmu
  · exact .ite h.setLink h
  · exact h

theorem FabricKept.dropWaitTimer {id : Nat} (h : FabricKept s₀ s) : FabricKept s₀ (dropWaitTimer id s) := h.upd

theorem FabricKept.giveGrant {g : Grant} (h : FabricKept s₀ s) : FabricKept s₀ (giveGrant g s) := h.upd.dropWaitTimer.onGrant

theorem FabricKept.grantQueue {a : List Grant} {a1 : List (Option Nat)} (h : FabricKept s₀ s) :
    FabricKept s₀ (grantQueue a a1 s) := by
  induction a generalizing a1 s with
  | nil =>
    unfold Machine.grantQueue
    exact h
  | cons b l ih =>
    unfold Machine.grantQueue
    dsimp only
    exact .ite (ih h) (.ite (ih h.upd.giveGrant) (.ite (ih h) (.ite (ih h) h)))

theorem FabricKept.reinstate {a : List Grant} {a1 : List (Option Nat)} (h : FabricKept s₀ s) :
    FabricKept s₀ (reinstate a a1 s) := by
  induction a generalizing a1 s with
  | nil =>
    unfold Machine.reinstate
    exact h
  | cons b l ih =>
    unfold Machine.reinstate
    dsimp only
    exact .ite (ih h) (.ite (ih h.upd.onGrant) (.ite (ih h) h))

theorem FabricKept.raiseSag {d : Nat} (h : FabricKept s₀ s) : FabricKept s₀ (raiseSag d s) := .ite h h.upd

theorem FabricKept.examineGrants (h : FabricKept s₀ s) : FabricKept s₀ (examineGrants s) :=
  .grantQueue (.ite h (h.reinstate.forBelow (fun _ _ h1 => h1.raiseSag)))

theorem FabricKept.chargeGrant {g : Grant} (h : FabricKept s₀ s) : FabricKept s₀ (chargeGrant g s) := by
  unfold Machine.chargeGrant
  split
  · exact h.addCounter
  · exact h

theorem FabricKept.endGrant {id : Nat} (h : FabricKept s₀ s) : FabricKept s₀ (endGrant id s) := by
  unfold Machine.endGrant
  dsimp only
  have h1 : FabricKept s₀ (Machine.forEach Machine.chargeGrant (s.pwr.grants.filter fun g => g.id = id) s) := h.forEach
    fun _ _ h => h.chargeGrant
  exact (h1.upd).dropWaitTimer.examineGrants

theorem FabricKept.countSmu {u i bytes jobs : Nat} (h : FabricKept s₀ s) : FabricKept s₀ (countSmu u i bytes jobs s) := h.setSmu

theorem FabricKept.dropJobs {slot u : Nat} (h : FabricKept s₀ s) : FabricKept s₀ (dropJobs slot u s) :=
  .ite (h.forEach (fun _ _ h1 => .ite h1.freshNat.countSmu h1)) (.setSmu (h.forEach (fun _ _ h1 => .ite h1.freshNat.countSmu h1)))

theorem FabricKept.openR0 {c : Cmd} (h : FabricKept s₀ s) : FabricKept s₀ (openR0 c s).2 := by
  unfold Machine.openR0
  split
  · dsimp only
    exact h
  · exact h.freshWord

theorem FabricKept.dropCursors {slot : Nat} (h : FabricKept s₀ s) : FabricKept s₀ (dropCursors slot s) := h.upd

theorem FabricKept.setCtx {u k : Nat} {x : Ctx} (h : FabricKept s₀ s) : FabricKept s₀ (s.setCtx u k x) := h.setDgu

theorem FabricKept.leaveLane {u k : Nat} (h : FabricKept s₀ s) : FabricKept s₀ (leaveLane u k s) := h.setDgu

theorem FabricKept.failCtxCmp {u k dt : Nat} {cmp : BitVec 2} (h : FabricKept s₀ s) :
    FabricKept s₀ (failCtxCmp u k dt cmp s) := h.setCtx.leaveLane

theorem FabricKept.failCtx {u k dt : Nat} (h : FabricKept s₀ s) : FabricKept s₀ (failCtx u k dt s) := h.failCtxCmp

theorem FabricKept.forCtxs {p : Ctx → Bool} {f : Nat → Nat → State → State} {u : Nat} (h : FabricKept s₀ s)
    (hf : ∀ a a1 t, FabricKept s₀ t → FabricKept s₀ (f a a1 t)) :
    FabricKept s₀ (forCtxs p f u s) := h.forEach (fun _ _ h1 => .ite (hf _ _ _ h1) h1)

theorem FabricKept.stopDigests {slot : Nat} (h : FabricKept s₀ s) : FabricKept s₀ (stopDigests slot s) :=
  h.forBelow (fun _ _ h1 => h1.forCtxs (fun _ _ _ h2 => h2.failCtx))

theorem FabricKept.endHolders {p : Holder → Bool} (h : FabricKept s₀ s) : FabricKept s₀ (endHolders p s) :=
  h.forEach fun _ _ h1 => h1.endGrant

theorem FabricKept.stopWork {slot status : Nat} (h : FabricKept s₀ s) : FabricKept s₀ (stopWork slot status s) := by
  unfold Machine.stopWork
  dsimp only
  have h1 : FabricKept s₀ (Machine.forBelow (Machine.dropJobs slot) 8 (Machine.dropCursors slot s)) := h.dropCursors.forBelow
    fun _ _ h1 => h1.dropJobs
  generalize Machine.forBelow (Machine.dropJobs slot) 8 (Machine.dropCursors slot s) = t at h1 ⊢
  exact .endHolders (.ite h1.upd (.stopDigests h1.upd))

theorem FabricKept.fixRecord {c : Cmd} (h : FabricKept s₀ s) : FabricKept s₀ (fixRecord c s) := h.setSq

theorem FabricKept.presentOutcome {slot st : Nat} {r0 : W64} (h : FabricKept s₀ s) :
    FabricKept s₀ (presentOutcome slot st r0 s) := by
  unfold Machine.presentOutcome
  split
  · exact h
  · exact .ite h (.ite h.setCmd.fixRecord h.setCmd.fixRecord.stopWork)

theorem FabricKept.failCmd {slot st : Nat} (h : FabricKept s₀ s) : FabricKept s₀ (failCmd slot st s) := by
  unfold Machine.failCmd
  split
  · exact h
  · exact h.openR0.presentOutcome

theorem FabricKept.recordFailure {slot st : Nat} {r0 : W64} (h : FabricKept s₀ s) :
    FabricKept s₀ (recordFailure slot st r0 s) := by
  unfold Machine.recordFailure
  split
  · exact h
  · exact .ite h h.setCmd.stopWork

theorem FabricKept.endIfFailed {slot : Nat} (h : FabricKept s₀ s) : FabricKept s₀ (endIfFailed slot s) := by
  unfold Machine.endIfFailed
  split
  · exact h
  · split
    · exact .ite h h.presentOutcome
    · exact h

theorem FabricKept.failOp {f st : Nat} (h : FabricKept s₀ s) : FabricKept s₀ (failOp f st s).2 := by
  unfold Machine.failOp
  split
  · dsimp only
    exact h
  · split
    · dsimp only
      exact h
    · exact h.choose

theorem FabricKept.failItem {f st : Nat} (h : FabricKept s₀ s) : FabricKept s₀ (failItem f st s) := by
  unfold Machine.failItem
  split
  · exact h
  · exact h.failOp.recordFailure

theorem FabricKept.failDigest {slot st dt : Nat} (h : FabricKept s₀ s) : FabricKept s₀ (failDigest slot st dt s) :=
  h.modCmd.failCmd

theorem FabricKept.goesBy {link : Nat} {a : List (List Nat)} (h : FabricKept s₀ s) : FabricKept s₀ (goesBy link a s).2 := by
  induction a generalizing link s with
  | nil =>
    unfold Machine.goesBy
    dsimp only
    exact h
  | cons b l ih =>
    unfold Machine.goesBy
    dsimp only
    split
    · dsimp only
      exact h
    · split
      · split
        · exact h.freshNat
        · exact ih h.freshNat
      · exact ih h

theorem FabricKept.linkFrond {link f : Nat} (h : FabricKept s₀ s) : FabricKept s₀ (linkFrond link f s) :=
  .ite h (.ite h.goesBy.failItem h.goesBy)

theorem FabricKept.linkSmu {link u : Nat} (h : FabricKept s₀ s) : FabricKept s₀ (linkSmu link u s) := by
  unfold Machine.linkSmu
  refine .forEach h ?_
  intro _ _ h1
  split
  · exact h1
  · exact .ite h1.goesBy.recordFailure.endIfFailed h1.goesBy

theorem FabricKept.linkDgu {link u : Nat} (h : FabricKept s₀ s) : FabricKept s₀ (linkDgu link u s) := by
  unfold Machine.linkDgu
  refine .forCtxs h ?_
  intro _ _ _ h1
  split
  · exact h1
  · exact .ite h1.goesBy.failDigest h1.goesBy

theorem FabricKept.linkNvme {link : Nat} (h : FabricKept s₀ s) : FabricKept s₀ (linkNvme link s) := by
  unfold Machine.linkNvme
  refine .forEach h ?_
  intro _ _ h1
  split
  · exact h1
  · refine .ite h1.freshNat.goesBy ?_
    split
    · exact h1.freshNat.goesBy.recordFailure.endIfFailed
    · exact h1.freshNat.goesBy.failCmd

end

end Sys2Proof.Machine
end

section
/-!
PROOFS. Merge jobs and quanta of the sort and merge units, and engine units and fabric links that fault (O32).
-/

namespace Sys2Proof.Machine

/-! ## The merge tree with one job (R280) -/

/-- A job alone in its tree, whatever it has merged, ends after its blocks. -/
theorem runTree_alone {may : SmuJob → Bool} (share : SmuJob → Nat) {j : SmuJob} (hmay : ∀ m, may { j with merged := m } = true) :
    ∀ (fuel m : Nat) (x : TreeAt), x.jobs = [{ j with merged := m }] → (j.bytes - m) / outBlock + 1 ≤ fuel →
      ∃ m' y, runTree may share fuel x = some ({ j with merged := m' }, y) ∧ y.jobs = []
  | 0, _, _, _, hf => absurd hf (Nat.not_succ_le_zero _)
  | fuel + 1, m, x, hx, hf => by
    have hfind : x.jobs.find? may = some { j with merged := m } := by rw [hx, List.find?_cons_of_pos (hmay m)]
    have hrest : x.jobs.erase { j with merged := m } = [] := by rw [hx, List.erase_cons_head]
    unfold runTree blockStep
    rw [hfind]
    dsimp only
    rw [hrest]
    by_cases hlast : j.bytes ≤ m + outBlock
    · rw [if_pos hlast]
      exact ⟨m, _, rfl, rfl⟩
    · have hfuel : (j.bytes - (m + outBlock)) / outBlock + 1 ≤ fuel := by
        unfold outBlock at *
        omega
      rw [if_neg hlast]
      by_cases hc : 1 < (if x.credit = 0 then max 1 (share { j with merged := m }) else x.credit)
      · rw [if_pos hc]
        exact runTree_alone share hmay fuel (m + outBlock) _ rfl hfuel
      · rw [if_neg hc, List.find?_nil]
        exact runTree_alone share hmay fuel (m + outBlock) _ rfl hfuel

theorem runTree_empty (may : SmuJob → Bool) (share : SmuJob → Nat) : ∀ (fuel : Nat) (x : TreeAt), x.jobs = [] → runTree may share fuel x = none
  | 0, _, _ => rfl
  | fuel + 1, x, hx => by
    unfold runTree blockStep
    rw [hx, List.find?_nil]
    exact runTree_empty may share fuel x hx

theorem blocksLeft_one (j : SmuJob) : blocksLeft [j] = (j.bytes - j.merged) / outBlock + 1 := by simp [blocksLeft]

theorem countSmu_jobs (u i bytes jobs : Nat) (s : State) : ((countSmu u i bytes jobs s).smu u).jobs = (s.smu u).jobs := by
  unfold countSmu
  rw [State.setSmu_same]

theorem countMerged_jobs (u : Nat) (before l : List SmuJob) (s : State) : ((countMerged u before l s).smu u).jobs = (s.smu u).jobs := by
  refine forEach_keeps (P := fun t : State => (t.smu u).jobs = (s.smu u).jobs) (fun j _ t ht => ?_) rfl
  split
  · split
    · exact ht
    · exact (countSmu_jobs ..).trans ht
  · exact ht

theorem putTree_jobs (u : Nat) (also : List SmuJob) (y : TreeAt) (s : State) : ((putTree u also y s).smu u).jobs = y.jobs :=
  (countMerged_jobs ..).trans (congrArg SmuUnit.jobs (State.setSmu_same ..))

section
variable {u : Nat} {j : SmuJob} {s : State} (hst : (s.smu u).strict = false) (hj : (s.smu u).jobs = [j]) (hg : jobGranted u j s = true)
include hst hj hg

/-- A job that is alone on its unit may stand in the tree, whatever its share. -/
theorem mayMerge_alone (m : Nat) : mayMerge s u { j with merged := m } = true := by
  have hg' : jobGranted u { j with merged := m } s = true := hg
  have hs' : jobShare s { j with merged := m } = jobShare s j := rfl
  unfold mayMerge
  rw [hg', hst, hj, hs']
  by_cases h : jobShare s j = 0 <;> simp [h]

theorem endingJob_alone : ∃ m v, endingJob u s = some ({ j with merged := m }, v) ∧ (v.smu u).jobs = [] ∧ Calm s v := by
  obtain ⟨m, y, hr, hy⟩ := runTree_alone (jobShare s) (mayMerge_alone hst hj hg) (blocksLeft (s.smu u).jobs) j.merged (treeAt (s.smu u)) hj
    (by rw [hj, blocksLeft_one])
  refine ⟨m, putTree u [{ j with merged := m }] y s, ?_, (putTree_jobs ..).trans hy, (Calm.refl s).putTree⟩
  unfold endingJob
  simp only [hst, Bool.false_eq_true, if_false, hr, Option.map_some]

end

theorem nextInTree_jobs (u : Nat) (j : SmuJob) (s : State) : ((nextInTree u j s).smu u).jobs = (s.smu u).jobs := by
  show (((s.setSmu u _).smu u).jobs) = _
  rw [State.setSmu_same]

theorem Calm.nextInTree {u : Nat} {j : SmuJob} {s₀ s : State} (h : Calm s₀ s) : Calm s₀ (nextInTree u j s) := h.setSmu.upd

theorem liveQuery_absent {s : State} {k : Nat} (h : s.cmd k = none) : liveQuery s k = none := by
  unfold liveQuery
  rw [h]

/-! ## The end of a job and of a quantum (R275, R276, R280) -/

section
variable {u : Nat} {s : State} (hu : u < 8) (hf : (s.smu u).fault = false) (hp : (s.smu u).paused = false)
include hu hf hp

theorem smuJobEnd_open : ¬(8 ≤ u ∨ (s.smu u).fault = true ∨ (s.smu u).paused = true) := by
  rw [hf, hp]
  simp only [Bool.false_eq_true, or_false, Nat.not_le]
  exact hu

theorem smuJobEnd_done {j : SmuJob} {c : Cmd} {q : QueryRun} {p : PipeRun} {rs : List SortRun} {rows : List Nat} {v w : State}
    (he : endingJob u s = some (j, v)) (hq : liveQuery (endHolder (.smu u j.slot) (nextInTree u j v)) j.slot = some (c, q))
    (hm : mergeJob u j q (endHolder (.smu u j.slot) (nextInTree u j v)) = (.ok (p, rs, rows), w)) :
    exec (.smuJobEnd u) s = .next (jobDone u j q p rs rows (countSmu u j.inst (j.bytes - j.merged) 1 w)) := by
  show execSmuJobEnd u s = _
  unfold execSmuJobEnd
  refine (if_neg (smuJobEnd_open hu hf hp)).trans ?_
  rw [he]
  dsimp only
  rw [hq]
  dsimp only
  rw [hm]

/-- A job whose command is no more leaves its unit all the same. -/
theorem smuJobEnd_alone {j : SmuJob} (hst : (s.smu u).strict = false) (hj : (s.smu u).jobs = [j]) (hg : jobGranted u j s = true)
    (hc : s.cmd j.slot = none) : Does (.smuJobEnd u) s fun t => (t.smu u).jobs = [] := by
  obtain ⟨m, v, he, hv, hcalm⟩ := endingJob_alone hst hj hg
  have hgone : liveQuery (endHolder (.smu u j.slot) (nextInTree u { j with merged := m } v)) j.slot = none :=
    liveQuery_absent ((hcalm.nextInTree.endHolder.cmd_eq _).trans hc)
  refine Does.of (show execSmuJobEnd u s = .next (endHolder (.smu u j.slot) (nextInTree u { j with merged := m } v)) from ?_) ?_
  · unfold execSmuJobEnd
    refine (if_neg (smuJobEnd_open hu hf hp)).trans ?_
    rw [he]
    dsimp only
    rw [hgone]
  · exact (Faulted.refl (nextInTree u { j with merged := m } v)).endHolder.smu_jobs u ((nextInTree_jobs ..).trans hv)

end

theorem endingJob_strict {u : Nat} {j : SmuJob} {s : State} (hst : (s.smu u).strict = true) (hj : treeJob s u = some j) :
    (endingJob u s).map (fun r => (r.1, (r.2.smu u).jobs)) = some (j, (s.smu u).jobs.erase j) := by
  unfold endingJob
  simp only [hst, if_true, hj, Option.map_some, State.setSmu_same]

theorem endingJob_empty {u : Nat} {s : State} (h : (s.smu u).jobs = []) : endingJob u s = none := by
  unfold endingJob
  have ht : treeJob s u = none := by
    unfold treeJob
    rw [h]
    rfl
  by_cases hst : (s.smu u).strict = true
  · simp only [hst, if_true, ht, Option.map_none]
  · simp only [hst, Bool.false_eq_true, if_false, runTree_empty _ _ _ (treeAt (s.smu u)) h, Option.map_none]

theorem smuJobEnd_empty {u : Nat} {s : State} (h : (s.smu u).jobs = []) : exec (.smuJobEnd u) s = .next s := by
  show execSmuJobEnd u s = _
  unfold execSmuJobEnd
  dsimp only
  split
  · rfl
  · rw [endingJob_empty h]

theorem enterSmu_in {u : Nat} {s : State} (h : (s.smu u).strict = isStrict s) : enterSmu u s = s := if_pos h

theorem smuQuantum_strict {u : Nat} {s : State} (hu : u < 8) (hst : (s.smu u).strict = isStrict s) (hs : isStrict s = true) :
    Does (.smuQuantumExpiry u) s fun t =>
      (t.smu u).quantum = ((s.smu u).quantum + 1) % smuFrame s ∧ (t.smu u).jobs = (s.smu u).jobs ∧ t = { s with eng := t.eng } := by
  show ∃ t, execSmuQuantumExpiry u s = .next t ∧ _
  unfold execSmuQuantumExpiry
  rw [enterSmu_in hst]
  refine ⟨_, if_neg (show ¬(8 ≤ u ∨ (!(s.smu u).strict) = true) by rw [hst, hs]; simpa using hu), ?_⟩
  simp only [State.setSmu_same]
  exact ⟨trivial, trivial, rfl⟩

theorem smuQuantum_idle {u : Nat} {s : State} (hst : (s.smu u).strict = false) (hs : isStrict s = false) :
    exec (.smuQuantumExpiry u) s = .next s := by
  show execSmuQuantumExpiry u s = _
  unfold execSmuQuantumExpiry
  rw [enterSmu_in (hst.trans hs.symm)]
  exact if_pos (.inr (by rw [hst]; rfl))

/-! ## Faults of units and links (R20, R265, R282, R323) -/

theorem cmuFault_faulted (u : Nat) (s : State) :
    Faulted (s.setCmu u { s.cmu u with fault := true, upd := [], busy := none }) (cmuFault u s) := by
  refine (Faulted.refl _).forEach fun r t h => ?_
  split
  · exact h.failCmd
  · exact h.mbxErr
  · exact h

theorem smuFault_faulted (u : Nat) (s : State) : Faulted (s.setSmu u { s.smu u with fault := true, jobs := [] }) (smuFault u s) := by
  refine (Faulted.refl _).forEach fun j t h => ?_
  dsimp only
  split
  · exact h.endHolder.recordFailure.endIfFailed
  · exact h.endHolder

theorem digOpens_faulted (s : State) :
    Faulted s (failAsks (forEach (fun (k : Nat) s => failDigest k stEngine 0 (dropCursor k 0 .digOpen s)) s.eng.digOpens
      { s with eng := { s.eng with digOpens := [] } })) :=
  ((show Faulted s { s with eng := { s.eng with digOpens := [] } } from (Faulted.refl s).upd).forEach fun _ _ h =>
    h.dropCursor.failDigest).failAsks

theorem dguFault_faulted (u : Nat) (s : State) :
    Faulted ((alarmCtxs u s).setDgu u { (alarmCtxs u s).dgu u with fault := true, lanes := [], waiting := [] }) (dguFault u s) := by
  unfold dguFault
  dsimp only
  generalize (alarmCtxs u s).setDgu u _ = t
  split
  · exact digOpens_faulted t
  · exact .refl t

theorem cmuFault_out (u : Nat) (s : State) :
    ((cmuFault u s).cmu u).fault = true ∧ ((cmuFault u s).cmu u).upd = [] ∧ ((cmuFault u s).cmu u).busy = none := by
  have h := cmuFault_faulted u s
  exact ⟨(h.cmu_fault u).trans (by rw [State.setCmu_same]), h.cmu_upd u (by rw [State.setCmu_same]),
    (h.cmu_busy u).trans (by rw [State.setCmu_same])⟩

theorem smuFault_out (u : Nat) (s : State) : ((smuFault u s).smu u).fault = true ∧ ((smuFault u s).smu u).jobs = [] := by
  have h := smuFault_faulted u s
  exact ⟨(h.smu_fault u).trans (by rw [State.setSmu_same]), h.smu_jobs u (by rw [State.setSmu_same])⟩

theorem dguFault_out (u : Nat) (s : State) : ((dguFault u s).dgu u).fault = true ∧ ((dguFault u s).dgu u).lanes = [] := by
  have h := dguFault_faulted u s
  exact ⟨(h.dgu_fault u).trans (by rw [State.setDgu_same]), h.dgu_lanes u (by rw [State.setDgu_same])⟩

theorem engineUnitFault_faults {kind u : Nat} {s : State} (hk : kind ≤ 2) (hu : u < (if kind = 1 then 8 else 4))
    (ho : (if kind = 0 then (s.cmu u).fault else if kind = 1 then (s.smu u).fault else (s.dgu u).fault) = false) :
    ∃ t, exec (.engineUnitFault kind u) s =
      .next (if kind = 0 then cmuFault u t else if kind = 1 then smuFault u t else dguFault u t) := by
  show ∃ t, execEngineUnitFault kind u s = _
  unfold execEngineUnitFault
  dsimp only
  rw [ho, if_neg (by simpa using ⟨hk, hu⟩)]
  exact ⟨_, rfl⟩

theorem cmuFault_does {u : Nat} {s : State} (hu : u < 4) (h : (s.cmu u).fault = false) :
    Does (.engineUnitFault 0 u) s fun t => (t.cmu u).fault = true ∧ (t.cmu u).upd = [] ∧ (t.cmu u).busy = none := by
  obtain ⟨t, e⟩ := engineUnitFault_faults (kind := 0) (by decide) hu h
  exact Does.of e (cmuFault_out u t)

theorem smuFault_does {u : Nat} {s : State} (hu : u < 8) (h : (s.smu u).fault = false) :
    Does (.engineUnitFault 1 u) s fun t => (t.smu u).fault = true ∧ (t.smu u).jobs = [] := by
  obtain ⟨t, e⟩ := engineUnitFault_faults (kind := 1) (by decide) hu h
  exact Does.of e (smuFault_out u t)

theorem dguFault_does {u : Nat} {s : State} (hu : u < 4) (h : (s.dgu u).fault = false) :
    Does (.engineUnitFault 2 u) s fun t => (t.dgu u).fault = true ∧ (t.dgu u).lanes = [] := by
  obtain ⟨t, e⟩ := engineUnitFault_faults (kind := 2) (by decide) hu h
  rw [if_neg (by decide), if_neg (by decide)] at e
  exact Does.of e (dguFault_out u t)

theorem fabricLink_fails (n : Nat) (s : State) :
    FabricKept s (linkNvme n (forBelow (linkDgu n) 4 (forBelow (linkSmu n) 8 (forBelow (linkFrond n) 128 s)))) :=
  ((((FabricKept.refl s).forBelow fun _ _ h => h.linkFrond).forBelow fun _ _ h => h.linkSmu).forBelow fun _ _ h => h.linkDgu).linkNvme

theorem fabricLink_does {n : Nat} {s : State} (hn : n < 14) (h : s.eng.fabricDown.get false n = false) :
    Does (.fabricLink n) s fun t => t.eng.fabricDown.get false n = true ∧
      t.log.entries.head?.map (fun e => (e.code, e.detail)) = some (0x0202, BitVec.ofNat 32 n) := by
  refine Does.of (if_neg (show ¬(14 ≤ n ∨ s.eng.fabricDown.get false n = true) by rw [h]; simpa using hn)) ?_
  generalize hd : ({ s with eng := { s.eng with fabricDown := s.eng.fabricDown.set false n true } } : State) = d
  have hdown : d.eng.fabricDown.get false n = true := by
    rw [← hd]
    exact Tbl.get_set_same false s.eng.fabricDown n true
  have hk := fabricLink_fails n (logEvent 0x0202 0x00 0 n none d)
  generalize linkNvme n _ = t at hk ⊢
  exact ⟨(congrArg (Tbl.get false · n) hk.fabricDown).trans hdown, by rw [hk.log]; rfl⟩

end Sys2Proof.Machine

namespace Sys2Proof

open Machine

/-- Settles O32: a job alone in its tree ends whatever its share, and what fails with a unit or a link leaves the unit's state and the log. -/
theorem mergeUnitsAndFaults : Obligations.MergeUnitsAndFaults := by
  unfold Obligations.MergeUnitsAndFaults
  refine ⟨fun u j c q p rs rows v w s hu hf hp he hq hm => smuJobEnd_done hu hf hp he hq hm,
    fun u j s hu hf hp hst hj hg hc => smuJobEnd_alone hu hf hp hst hj hg hc, fun u j s hst hj hg => ?_,
    fun u j s hst hj => endingJob_strict hst hj, fun u s _ h => smuJobEnd_empty h,
    fun u s hu hst hs => smuQuantum_strict hu hst hs, fun u s _ hst hs => smuQuantum_idle hst hs,
    fun u s hu h => cmuFault_does hu h, fun u s hu h => smuFault_does hu h, fun u s hu h => dguFault_does hu h,
    fun n s hn h => fabricLink_does hn h⟩
  obtain ⟨m, v, he, hv, -⟩ := endingJob_alone hst hj hg
  rw [he]
  simp only [Option.map_some, hv]

end Sys2Proof
end

section
/-!
PROOFS. Grants that end leave the arrays of the match units as they are.
-/

namespace Sys2Proof.Machine

/-- From s₀ to s the entries of the match units are unchanged, and so are their tables, images and updates. -/
structure ArraysKept (s₀ s : State) : Prop where
  ring : s.ring = s₀.ring
  out : s.out = s₀.out
  cmu_ent : ∀ j, (s.cmu j).ent = (s₀.cmu j).ent
  cmu_tables : ∀ j, (s.cmu j).tables = (s₀.cmu j).tables
  cmu_images : ∀ j, (s.cmu j).images = (s₀.cmu j).images
  cmu_upd : ∀ j, (s.cmu j).upd = (s₀.cmu j).upd

theorem ArraysKept.refl (s : State) : ArraysKept s s := ⟨rfl, rfl, fun _ => rfl, fun _ => rfl, fun _ => rfl, fun _ => rfl⟩

section
variable {s₀ s t : State}

/-- An update of the parts that `ArraysKept` does not name. -/
theorem ArraysKept.upd {pending seed time fronds disp mem eng store insts mbx haw log mp pwr tel sec lnk pads} (h : ArraysKept s₀ s)
    (h_cmu : eng.cmu = s.eng.cmu := by rfl) :
    ArraysKept s₀ { s with pending, seed, time, fronds, disp, mem, eng, store, insts, mbx, haw, log, mp, pwr, tel, sec, lnk, pads } :=
  { h with
    cmu_ent := fun j => (congrArg (fun t : Tbl CmuUnit => (t.get CmuUnit.reset j).ent) h_cmu).trans (h.cmu_ent j),
    cmu_tables := fun j => (congrArg (fun t : Tbl CmuUnit => (t.get CmuUnit.reset j).tables) h_cmu).trans (h.cmu_tables j),
    cmu_images := fun j => (congrArg (fun t : Tbl CmuUnit => (t.get CmuUnit.reset j).images) h_cmu).trans (h.cmu_images j),
    cmu_upd := fun j => (congrArg (fun t : Tbl CmuUnit => (t.get CmuUnit.reset j).upd) h_cmu).trans (h.cmu_upd j) }

theorem ArraysKept.setCmu {u : Nat} {x : CmuUnit} (h : ArraysKept s₀ s)
    (h_ent : x.ent = (s.cmu u).ent := by rfl)
    (h_tables : x.tables = (s.cmu u).tables := by rfl)
    (h_images : x.images = (s.cmu u).images := by rfl)
    (h_upd : x.upd = (s.cmu u).upd := by rfl) :
    ArraysKept s₀ (s.setCmu u x) :=
  { h with
    cmu_ent := fun j => (Tbl.get_set_field CmuUnit.ent h_ent j).trans (h.cmu_ent j),
    cmu_tables := fun j => (Tbl.get_set_field CmuUnit.tables h_tables j).trans (h.cmu_tables j),
    cmu_images := fun j => (Tbl.get_set_field CmuUnit.images h_images j).trans (h.cmu_images j),
    cmu_upd := fun j => (Tbl.get_set_field CmuUnit.upd h_upd j).trans (h.cmu_upd j) }

theorem ArraysKept.ite {c : Prop} [Decidable c] (h : ArraysKept s₀ s) (k : ArraysKept s₀ t) : ArraysKept s₀ (if c then s else t) := by
  split
  · exact h
  · exact k

theorem ArraysKept.forEach {β : Type} {f : β → State → State} {l : List β} (h : ArraysKept s₀ s)
    (hf : ∀ b t, ArraysKept s₀ t → ArraysKept s₀ (f b t)) : ArraysKept s₀ (Machine.forEach f l s) :=
  forEach_keeps (fun b _ t => hf b t) h

theorem ArraysKept.forBelow {f : Nat → State → State} {n : Nat} (h : ArraysKept s₀ s) (hf : ∀ b t, ArraysKept s₀ t → ArraysKept s₀ (f b t)) :
    ArraysKept s₀ (Machine.forBelow f n s) := by
  induction n with
  | zero => exact h
  | succ n ih => exact hf _ _ ih

theorem ArraysKept.foldl {β : Type} {f : State → β → State} {l : List β} (h : ArraysKept s₀ s) (hf : ∀ b t, ArraysKept s₀ t → ArraysKept s₀ (f t b)) :
    ArraysKept s₀ (l.foldl f s) := by
  induction l generalizing s with
  | nil => exact h
  | cons b l ih => exact ih (hf b s h)

theorem ArraysKept.forEachSnd {α β : Type} {f : β → α × State → α × State} {l : List β} {p : α × State} (h : ArraysKept s₀ p.2)
    (hf : ∀ b p, ArraysKept s₀ p.2 → ArraysKept s₀ (f b p).2) : ArraysKept s₀ (Machine.forEach f l p).2 := by
  induction l generalizing p with
  | nil => exact h
  | cons b l ih => exact ih (hf b p h)

theorem ArraysKept.foldlSnd {α β : Type} {f : α × State → β → α × State} {l : List β} {p : α × State} (h : ArraysKept s₀ p.2)
    (hf : ∀ b p, ArraysKept s₀ p.2 → ArraysKept s₀ (f p b).2) : ArraysKept s₀ (l.foldl f p).2 := by
  induction l generalizing p with
  | nil => exact h
  | cons b l ih => exact ih (hf b p h)

theorem ArraysKept.of_snd_snd {α β : Type} {p : α × β × State} {a : α} {b : β} (h : ArraysKept s₀ p.2.2) (e : p = (a, b, t)) : ArraysKept s₀ t := by
  rw [e] at h; exact h

/-- The state of a result. -/
theorem ArraysKept.of_snd {α : Type} {p : α × State} {a : α} (h : ArraysKept s₀ p.2) (e : p = (a, t)) : ArraysKept s₀ t := by
  rw [e] at h; exact h

end

end Sys2Proof.Machine
end

section
namespace Sys2Proof.Machine

section
-- Each of these short lemmas would else wait in a thread of its own.
set_option Elab.async false
variable {s₀ s t : State}

theorem ArraysKept.setInst {i : Nat} {x : Inst} (h : ArraysKept s₀ s) : ArraysKept s₀ (s.setInst i x) := h.upd

theorem ArraysKept.setSmu {u : Nat} {x : SmuUnit} (h : ArraysKept s₀ s) : ArraysKept s₀ (s.setSmu u x) := h.upd

theorem ArraysKept.setDgu {u : Nat} {x : DguUnit} (h : ArraysKept s₀ s) : ArraysKept s₀ (s.setDgu u x) := h.upd

theorem ArraysKept.setLink {l : Nat} {x : Link} (h : ArraysKept s₀ s) : ArraysKept s₀ (s.setLink l x) := h.upd

theorem ArraysKept.addCounter {i k n : Nat} (h : ArraysKept s₀ s) : ArraysKept s₀ (addCounter i k n s) := .ite h h.setInst

theorem ArraysKept.setFrame {f : Nat} {x : Frame} (h : ArraysKept s₀ s) : ArraysKept s₀ (s.setFrame f x) := h.upd

theorem ArraysKept.onGrant {g : Grant} (h : ArraysKept s₀ s) : ArraysKept s₀ (onGrant g s) := by
  unfold Machine.onGrant
  split
  · exact h.upd
  · dsimp only
    split
    · exact .ite h.upd h.upd
    · exact .ite (.ite h.upd h.upd) (.setFrame (.ite h.upd h.upd))
  · exact h.setSmu
  · exact h.setCmu
  · exact .ite h.setLink h
  · exact h

theorem ArraysKept.dropWaitTimer {id : Nat} (h : ArraysKept s₀ s) : ArraysKept s₀ (dropWaitTimer id s) := h.upd

theorem ArraysKept.giveGrant {g : Grant} (h : ArraysKept s₀ s) : ArraysKept s₀ (giveGrant g s) := h.upd.dropWaitTimer.onGrant

theorem ArraysKept.grantQueue {a : List Grant} {a1 : List (Option Nat)} (h : ArraysKept s₀ s) :
    ArraysKept s₀ (grantQueue a a1 s) := by
  induction a generalizing a1 s with
  | nil =>
    unfold Machine.grantQueue
    exact h
  | cons b l ih =>
    unfold Machine.grantQueue
    dsimp only
    exact .ite (ih h) (.ite (ih h.upd.giveGrant) (.ite (ih h) (.ite (ih h) h)))

theorem ArraysKept.reinstate {a : List Grant} {a1 : List (Option Nat)} (h : ArraysKept s₀ s) :
    ArraysKept s₀ (reinstate a a1 s) := by
  induction a generalizing a1 s with
  | nil =>
    unfold Machine.reinstate
    exact h
  | cons b l ih =>
    unfold Machine.reinstate
    dsimp only
    exact .ite (ih h) (.ite (ih h.upd.onGrant) (.ite (ih h) h))

theorem ArraysKept.raiseSag {d : Nat} (h : ArraysKept s₀ s) : ArraysKept s₀ (raiseSag d s) := .ite h h.upd

theorem ArraysKept.examineGrants (h : ArraysKept s₀ s) : ArraysKept s₀ (examineGrants s) :=
  .grantQueue (.ite h (h.reinstate.forBelow (fun _ _ h1 => h1.raiseSag)))

theorem ArraysKept.chargeGrant {g : Grant} (h : ArraysKept s₀ s) : ArraysKept s₀ (chargeGrant g s) := by
  unfold Machine.chargeGrant
  split
  · exact h.addCounter
  · exact h

theorem ArraysKept.endGrant {id : Nat} (h : ArraysKept s₀ s) : ArraysKept s₀ (endGrant id s) := by
  unfold Machine.endGrant
  dsimp only
  have h1 : ArraysKept s₀ (Machine.forEach Machine.chargeGrant (s.pwr.grants.filter fun g => g.id = id) s) := h.forEach
    fun _ _ h => h.chargeGrant
  exact (h1.upd).dropWaitTimer.examineGrants

theorem ArraysKept.endHolder {p : Holder} (h : ArraysKept s₀ s) : ArraysKept s₀ (endHolder p s) :=
  h.forEach fun _ _ h1 => h1.endGrant

end

end Sys2Proof.Machine
end

section
/-!
PROOFS. Commands in their slots: a change of one, a command handed to its engine, the bytes that it asks the host for, and its success.
-/

namespace Sys2Proof.Machine

theorem State.modCmd_of {s : State} {k : Nat} {c : Cmd} (h : s.cmd k = some c) (f : Cmd → Cmd) : s.modCmd k f = s.setCmd k (some (f c)) := by
  unfold State.modCmd
  rw [h]

theorem State.modCmd_cmd {s : State} {k : Nat} {c : Cmd} (h : s.cmd k = some c) (f : Cmd → Cmd) : (s.modCmd k f).cmd k = some (f c) := by
  rw [State.modCmd_of h]
  exact State.setCmd_same ..

theorem State.modCmd_cmd_ne (s : State) {k j : Nat} (h : j ≠ k) (f : Cmd → Cmd) : (s.modCmd k f).cmd j = s.cmd j := by
  unfold State.modCmd
  split
  · rfl
  · exact State.setCmd_ne _ _ _ _ h

/-- Only the table of commands changes. -/
theorem State.modCmd_eq (s : State) (k : Nat) (f : Cmd → Cmd) : ∃ x, s.modCmd k f = { s with ring := { s.ring with cmds := x } } := by
  unfold State.modCmd
  split
  · exact ⟨s.ring.cmds, rfl⟩
  · exact ⟨_, rfl⟩

/-- A command that the rings have handed on runs. -/
theorem onHanded_runs {k opc : Nat} {c : Cmd} {s : State} (h : Handed k opc c s) (f : Cmd → State → State) : onHanded k opc f s = f c s := by
  unfold onHanded
  rw [h.holds]
  refine if_pos ⟨h.phase, h.undecided, h.opcode, .inl h.free, h.cqFree.imp_right fun hq => ?_⟩
  rw [hq]
  rfl

/-- Where its port is in L0, the read goes out. -/
theorem askHost_up {k a n : Nat} {c d : Cmd} {s : State} (hc : s.cmd k = some d) (hp : (s.hostPort (s.sq c.inst c.sq).port).up = true) :
    ∃ t, askHost k c a n s = t ∧ t.cmd k = some { d with phase := .hostRead } ∧
      t.out.host = s.out.host ++ [.read (s.sq c.inst c.sq).port c.inst a n] := by
  refine ⟨_, rfl, ?_⟩
  unfold askHost
  dsimp only
  rw [State.modCmd_of hc]
  have h : hostSend (s.sq c.inst c.sq).port (.read (s.sq c.inst c.sq).port c.inst a n) (s.setCmd k (some { d with phase := .hostRead })) = _ :=
    hostOut_up hp
  rw [h]
  exact ⟨State.setCmd_same s k _, rfl⟩

/-- The success of an open command leaves everything but its slot and the window of its SQ. -/
theorem succeed_eq {k : Nat} {r : W64} {c : Cmd} {s : State} (hc : s.cmd k = some c) (ho : c.outcome = none) :
    succeed k r s = fixRecord c (s.setCmd k (some { c with outcome := some stSuccess, r0 := r })) := by
  unfold succeed presentOutcome
  rw [hc]
  dsimp only
  rw [ho]
  rfl

theorem succeed_cmd {k : Nat} {r : W64} {c : Cmd} {s : State} (hc : s.cmd k = some c) (ho : c.outcome = none) :
    (succeed k r s).cmd k = some { c with outcome := some stSuccess, r0 := r } := by
  rw [succeed_eq hc ho, fixRecord_cmd]
  exact State.setCmd_same ..

end Sys2Proof.Machine
end

section
/-!
PROOFS. The match units: what counting and the taking of slots leave of a unit, and a unit that is in the schedule of the profile.
-/

namespace Sys2Proof.Machine

theorem enterCmu_in {u : Nat} {s : State} (h : (s.cmu u).strict = isStrict s) : enterCmu u s = s := if_pos h

/-- Only counters of the unit change. -/
theorem countCmu_unit (u i k n : Nat) (s : State) : ∃ c a b d, (countCmu u i k n s).cmu u =
    { s.cmu u with instCnt := c, searches := a, autoBytes := b, updSteps := d } := by
  unfold countCmu
  dsimp only
  rw [State.setCmu_same]
  split
  · exact ⟨_, _, _, _, rfl⟩
  · split <;> exact ⟨_, _, _, _, rfl⟩

theorem countCmu_eq (u i k n : Nat) (s : State) : ∃ d c, countCmu u i k n s = { s with disp := d, eng := { s.eng with cmu := c } } := by
  unfold countCmu
  dsimp only
  split <;> exact ⟨_, _, rfl⟩

theorem countCmu_searches (u i n : Nat) (s : State) :
    ((countCmu u i 0 n s).cmu u).searches = (s.cmu u).searches + BitVec.ofNat 64 n :=
  congrArg CmuUnit.searches (State.setCmu_same _ u _)

theorem countCmu_updSteps (u i n : Nat) (s : State) :
    ((countCmu u i 2 n s).cmu u).updSteps = (s.cmu u).updSteps + BitVec.ofNat 64 n :=
  congrArg CmuUnit.updSteps (State.setCmu_same _ u _)

/-- Only the turn and the place in the frame change. -/
theorem takeSlots_unit (u i n : Nat) (s : State) : ∃ p t c, (takeSlots u i n s).cmu u = { s.cmu u with pos := p, turn := t, credit := c } := by
  unfold takeSlots
  dsimp only
  rw [State.setCmu_same]
  split <;> exact ⟨_, _, _, rfl⟩

theorem takeSlots_eq (u i n : Nat) (s : State) : ∃ c, takeSlots u i n s = { s with eng := { s.eng with cmu := c } } := ⟨_, rfl⟩

theorem takeLanes_unit (u i n : Nat) (s : State) :
    ∃ t c, (takeLanes u i n s).cmu u = { s.cmu u with laneTurn := t, laneCredit := c } := by
  unfold takeLanes
  dsimp only
  split
  · exact ⟨_, _, rfl⟩
  · rw [State.setCmu_same]
    exact ⟨_, _, rfl⟩

theorem takeLanes_eq (u i n : Nat) (s : State) : ∃ c, takeLanes u i n s = { s with eng := { s.eng with cmu := c } } := by
  unfold takeLanes
  dsimp only
  split
  · exact ⟨s.eng.cmu, rfl⟩
  · exact ⟨_, rfl⟩

theorem takeSlots_ent (u i n : Nat) (s : State) : ((takeSlots u i n s).cmu u).ent = (s.cmu u).ent := by
  obtain ⟨p, t, c, e⟩ := takeSlots_unit u i n s
  rw [e]

theorem takeLanes_ent (u i n : Nat) (s : State) : ((takeLanes u i n s).cmu u).ent = (s.cmu u).ent := by
  obtain ⟨t, c, e⟩ := takeLanes_unit u i n s
  rw [e]

theorem countCmu_ent (u i k n : Nat) (s : State) : ((countCmu u i k n s).cmu u).ent = (s.cmu u).ent := by
  obtain ⟨c, a, b, d, e⟩ := countCmu_unit u i k n s
  rw [e]

end Sys2Proof.Machine
end

section
/-!
PROOFS. Match bursts, the comparer of a match unit's arrays, its throttle and CMU_TABLE_LOAD (O31).
-/

namespace Sys2Proof.Machine

/-! ## Bursts (R126, R236, R262) -/

theorem burstGrant_held {u k : Nat} {c : Cmd} {n : Nat} {s : State} (h : s.pwr.grants.any (fun g => g.holder = .cmu u k) = true) :
    burstGrant u k c n s = (true, s) := by
  unfold burstGrant
  dsimp only
  rw [if_pos (by rw [List.any_append, h]; rfl), h]

/-- A whole burst, and the state in which its keys have been searched and its grant given back. -/
theorem burstTurn_whole {u k n op i m kd : Nat} {c : Cmd} {q : QueryRun} {o : OpEnt} {keys : List (List Byte)} {rs : List (Bool × Nat × W32)}
    {s : State}
    (hl : (if o.ternary then slotMine s u c.inst && (slotLimit s u c.inst).isNone else laneMine s u c.inst && (laneLimit s u c.inst).isNone) = true)
    (hr : burstResults s u c q o keys = some (rs, kd, m)) :
    burstTurn u k n op i c q o keys s = some ((keys.zip rs).map fun x => burstRes n op i (x.1, some x.2), rs,
      endHolder (.cmu u k) (countCmu u c.inst kd m
        (if o.ternary then takeSlots u c.inst keys.length s else takeLanes u c.inst keys.length s))) := by
  unfold burstTurn
  dsimp only
  cases ho : o.ternary
  · simp only [ho, Bool.false_eq_true, if_false, Bool.and_eq_true, Option.isNone_iff_eq_none] at hl ⊢
    obtain ⟨hm, hn⟩ := hl
    simp only [hm, hn, Option.getD_none, min_self, List.take_length, hr, Bool.not_true, Bool.false_eq_true, if_false, if_true]
  · simp only [ho, if_true, Bool.and_eq_true, Option.isNone_iff_eq_none] at hl ⊢
    obtain ⟨hm, hn⟩ := hl
    simp only [hm, hn, Option.getD_none, min_self, List.take_length, hr, Bool.not_true, Bool.false_eq_true, if_false, if_true]

/-- The searches of a burst leave the rings and the entries of the unit. -/
theorem burstDone_kept (u k i kd m n : Nat) (b : Bool) (s : State) :
    (endHolder (.cmu u k) (countCmu u i kd m (if b then takeSlots u i n s else takeLanes u i n s))).ring = s.ring ∧
    ((endHolder (.cmu u k) (countCmu u i kd m (if b then takeSlots u i n s else takeLanes u i n s))).cmu u).ent = (s.cmu u).ent := by
  generalize ht : (if b then takeSlots u i n s else takeLanes u i n s) = t
  have hring : t.ring = s.ring := by
    rw [← ht]
    split
    · rfl
    · obtain ⟨c, e⟩ := takeLanes_eq u i n s
      rw [e]
  have hent : (t.cmu u).ent = (s.cmu u).ent := by
    rw [← ht]
    split
    · exact takeSlots_ent ..
    · exact takeLanes_ent ..
  have hk := (ArraysKept.refl (countCmu u i kd m t)).endHolder (p := .cmu u k)
  obtain ⟨d, c, e⟩ := countCmu_eq u i kd m t
  exact ⟨hk.ring.trans (by rw [e]; exact hring), (hk.cmu_ent u).trans ((countCmu_ent ..).trans hent)⟩

theorem keepBurst_query {k : Nat} {c : Cmd} {q : QueryRun} {s : State} (l : List BurstRes) (hc : s.cmd k = some c) (hq : c.work = .query q) :
    ((keepBurst k l s).cmd k).bind queryRun = some { q with bursts := q.bursts ++ l } := by
  unfold keepBurst
  rw [State.modCmd_cmd hc, hq]
  rfl

theorem keepBurst_kept (k : Nat) (l : List BurstRes) (s : State) : (keepBurst k l s).out = s.out ∧ (keepBurst k l s).eng = s.eng := by
  unfold keepBurst
  obtain ⟨x, e⟩ := State.modCmd_eq s k _
  rw [e]
  exact ⟨rfl, rfl⟩

theorem searchBurst_does {u k n op i m kd : Nat} {c : Cmd} {q : QueryRun} {o : OpEnt} {keys : List (List Byte)} {rs : List (Bool × Nat × W32)}
    {s : State} (hc : s.cmd k = some c) (hq : c.work = .query q) (ho : planOp q.plan n op = some o) (hu : u < 4) (hk : keys.length ≤ 4096)
    (hp : c.phase = .running) (hf : (s.cmu u).fault = false) (hh : (s.cmu u).sagHold = false) (hst : (s.cmu u).strict = isStrict s)
    (hg : s.pwr.grants.any (fun g => g.holder = .cmu u k) = true)
    (hl : (if o.ternary then slotMine s u c.inst && (slotLimit s u c.inst).isNone else laneMine s u c.inst && (laneLimit s u c.inst).isNone) = true)
    (hr : burstResults s u c q o keys = some (rs, kd, m)) :
    Does (.cmuSearchBurst u k n op ⟨i, keys⟩) s fun t => t.out.cmu = rs ∧ (t.cmu u).ent = (s.cmu u).ent ∧
      ((t.cmd k).bind queryRun).map (·.bursts) = some (q.bursts ++ (keys.zip rs).map fun x => burstRes n op i (x.1, some x.2)) := by
  show ∃ t, execCmuSearchBurst u k n op ⟨i, keys⟩ s = .next t ∧ _
  unfold execCmuSearchBurst
  simp only [hc, hq, ho]
  rw [if_neg (by simp [hu, hk, hp, hf, hh]), enterCmu_in hst, burstGrant_held hg]
  dsimp only
  rw [if_neg (by decide), burstTurn_whole hl hr]
  dsimp only
  obtain ⟨hring, hent⟩ := burstDone_kept u k c.inst kd m keys.length o.ternary s
  generalize endHolder (.cmu u k) _ = t at hring hent
  refine ⟨_, rfl, ?_, ?_, ?_⟩
  · exact congrArg OutSt.cmu (keepBurst_kept ..).1
  · exact (congrArg (fun e : EngSt => (e.cmu.get CmuUnit.reset u).ent) (keepBurst_kept ..).2).trans hent
  · exact congrArg (Option.map QueryRun.bursts) (keepBurst_query (s := { t with out := { t.out with cmu := rs } }) _
      ((cmd_of_ring hring k).trans hc) hq)

/-! ## The comparer (R254 to R256) -/

@[simp] theorem logEvent_cmu (code src inst detail u : Nat) (ext : Option Nat) (s : State) : (logEvent code src inst detail ext s).cmu u = s.cmu u := by
  obtain ⟨l, e⟩ := logEvent_eq code src inst detail ext s
  rw [e]
  rfl

theorem check_finds {up : Bool} {p : Prop} [Decidable p] (h : up = true ∨ p) : (!(up || decide p)) = false := by
  obtain h | h := h <;> simp [h]

theorem check_passes {p : Prop} [Decidable p] (h : ¬p) : (!(false || decide p)) = true := by simp [h]

/-- The sweep of the entries at its next address, after one more check. -/
theorem sweepEntry_next (u : Nat) (s : State) :
    ∃ t, advance u false (s.setCmu u { s.cmu u with cmpChecks := (s.cmu u).cmpChecks + 1 }) = t ∧
      t.cmu u = { s.cmu u with
        cmpChecks := (s.cmu u).cmpChecks + 1, ptrT := ((s.cmu u).ptrT + 1) % 65536,
        sweeps := if (s.cmu u).ptrT = 65535 then (s.cmu u).sweeps + 1 else (s.cmu u).sweeps } ∧ t = { s with eng := t.eng } := by
  refine ⟨_, rfl, ?_, rfl⟩
  unfold advance
  simp only [Bool.false_eq_true, if_false, State.setCmu_same]

/-- The sweep of the states at its next address. -/
theorem sweepState_next (u : Nat) (s : State) :
    ∃ t, advance u true (s.setCmu u { s.cmu u with cmpChecks := (s.cmu u).cmpChecks + 1 }) = t ∧
      t.cmu u = { s.cmu u with cmpChecks := (s.cmu u).cmpChecks + 1, ptrA := ((s.cmu u).ptrA + 1) % 262144 } ∧
      t = { s with eng := t.eng } := by
  refine ⟨_, rfl, ?_, rfl⟩
  unfold advance
  simp only [if_true, State.setCmu_same]

/-- Where the shadow cannot be read, the entry is invalid and the tables that it lies in are faulted. -/
theorem shadowLostEnt_unit (u a : Nat) (s : State) :
    (((shadowLostEnt u a s).cmu u).ent.get TEntry.empty a).valid = false ∧ ((shadowLostEnt u a s).cmu u).shadowErr = true ∧
    ∀ tb ∈ ((shadowLostEnt u a s).cmu u).tables, tb.base ≤ a → a < tb.base + tb.size → tb.faulted = true := by
  unfold shadowLostEnt
  dsimp only
  rw [State.setCmu_same]
  refine ⟨by rw [Tbl.get_set_same], rfl, fun tb htb hlo hhi => ?_⟩
  obtain ⟨x, -, rfl⟩ := List.mem_map.mp htb
  split
  · rfl
  · next h =>
    rw [if_neg h] at hlo hhi
    exact absurd ⟨hlo, hhi⟩ h

section
variable {u : Nat} {s : State} (hu : u < 4)
include hu

theorem comparer_busy {up ok : Bool} (hb : (s.cmu u).busy = some (s.cmu u).ptrT) : Does (.cmuComparerCheck u false up ok) s fun t =>
    (t.cmu u).ptrT = ((s.cmu u).ptrT + 1) % 65536 ∧ (t.cmu u).cmpChecks = (s.cmu u).cmpChecks ∧
    (t.cmu u).ent = (s.cmu u).ent ∧ t = { s with eng := t.eng } := by
  refine Does.of ((if_neg (by omega)).trans (if_pos (by simp [hb]))) ?_
  unfold advance
  simp only [Bool.false_eq_true, if_false, State.setCmu_same]
  exact ⟨trivial, trivial, trivial, rfl⟩

/-- A check that is made: the sweep goes on, and what the comparer then does. -/
theorem comparer_checks {auto up ok : Bool} (hb : auto = true ∨ (s.cmu u).busy ≠ some (s.cmu u).ptrT) {a : Nat} {t : State}
    (ha : (if auto then (s.cmu u).ptrA else (s.cmu u).ptrT) = a)
    (ht : advance u auto (s.setCmu u { s.cmu u with cmpChecks := (s.cmu u).cmpChecks + 1 }) = t) :
    exec (.cmuComparerCheck u auto up ok) s =
      if !ok then
        .next (logEvent 0x0402 (0x20 + u) 0 ((if auto then 2 ^ 31 else 0) + a) none (if auto then shadowLostState u a t else shadowLostEnt u a t))
      else if !(up || (if auto then decide ((t.cmu u).states.get 0 a ≠ (t.cmu u).stShadow.get 0 a)
          else decide ((t.cmu u).ent.get TEntry.empty a ≠ (t.cmu u).shadow.get TEntry.empty a))) then .next t
      else .next (logEvent 0x0401 (0x20 + u) 0 ((if auto then 2 ^ 31 else 0) + a) none (t.setCmu u {
        (if auto then { t.cmu u with states := (t.cmu u).states.set 0 a ((t.cmu u).stShadow.get 0 a) }
          else { t.cmu u with ent := (t.cmu u).ent.set TEntry.empty a ((t.cmu u).shadow.get TEntry.empty a) }) with
        repairs := (t.cmu u).repairs + 1 })) := by
  subst ha ht
  show execCmuComparerCheck u auto up ok s = _
  unfold execCmuComparerCheck
  dsimp only
  rw [if_neg (by omega), if_neg (by obtain h | h := hb <;> simp [h])]
  cases auto <;> rfl

theorem comparer_equal_entry (hb : (s.cmu u).busy ≠ some (s.cmu u).ptrT)
    (he : (s.cmu u).ent.get TEntry.empty (s.cmu u).ptrT = (s.cmu u).shadow.get TEntry.empty (s.cmu u).ptrT) :
    Does (.cmuComparerCheck u false false true) s fun t =>
      (t.cmu u).ptrT = ((s.cmu u).ptrT + 1) % 65536 ∧ (t.cmu u).cmpChecks = (s.cmu u).cmpChecks + 1 ∧
      (t.cmu u).ent = (s.cmu u).ent ∧ t = { s with eng := t.eng } := by
  obtain ⟨t, ht, hx, hs⟩ := sweepEntry_next u s
  refine Does.of ((comparer_checks hu (.inr hb) rfl ht).trans ((if_neg (by decide)).trans (if_pos ?_))) ?_
  · rw [hx]
    exact check_passes (not_not_intro he)
  · rw [hx]
    exact ⟨rfl, rfl, rfl, hs⟩

theorem comparer_repairs_entry {up : Bool} (hb : (s.cmu u).busy ≠ some (s.cmu u).ptrT)
    (he : up = true ∨ (s.cmu u).ent.get TEntry.empty (s.cmu u).ptrT ≠ (s.cmu u).shadow.get TEntry.empty (s.cmu u).ptrT) :
    Does (.cmuComparerCheck u false up true) s fun t =>
      (t.cmu u).ent.get TEntry.empty (s.cmu u).ptrT = (s.cmu u).shadow.get TEntry.empty (s.cmu u).ptrT ∧
      (t.cmu u).repairs = (s.cmu u).repairs + 1 ∧ t.log.next = s.log.next + 1 ∧ t.ring = s.ring := by
  obtain ⟨t, ht, hx, hs⟩ := sweepEntry_next u s
  have hring : t.ring = s.ring := by rw [hs]
  refine Does.of ((comparer_checks hu (.inr hb) rfl ht).trans ((if_neg (by decide)).trans (if_neg ?_))) ?_
  · rw [hx]
    exact ne_true_of_eq_false (check_finds he)
  · simp only [Bool.false_eq_true, if_false]
    rw [logEvent_cmu, State.setCmu_same, hx, logEvent_next, State.setCmu_log, congrArg State.log hs]
    exact ⟨Tbl.get_set_same .., rfl, rfl, hring⟩

theorem comparer_loses_entry {up : Bool} (hb : (s.cmu u).busy ≠ some (s.cmu u).ptrT) : Does (.cmuComparerCheck u false up false) s fun t =>
    ((t.cmu u).ent.get TEntry.empty (s.cmu u).ptrT).valid = false ∧ (t.cmu u).shadowErr = true ∧
    ∀ tb ∈ (t.cmu u).tables, tb.base ≤ (s.cmu u).ptrT → (s.cmu u).ptrT < tb.base + tb.size → tb.faulted = true := by
  obtain ⟨t, ht, -, -⟩ := sweepEntry_next u s
  refine Does.of ((comparer_checks hu (.inr hb) rfl ht).trans (if_pos (by decide))) ?_
  simp only [Bool.false_eq_true, if_false]
  rw [logEvent_cmu]
  exact shadowLostEnt_unit ..

theorem comparer_equal_state (he : (s.cmu u).states.get 0 (s.cmu u).ptrA = (s.cmu u).stShadow.get 0 (s.cmu u).ptrA) :
    Does (.cmuComparerCheck u true false true) s fun t =>
      (t.cmu u).ptrA = ((s.cmu u).ptrA + 1) % 262144 ∧ (t.cmu u).cmpChecks = (s.cmu u).cmpChecks + 1 ∧
      (t.cmu u).states = (s.cmu u).states ∧ t = { s with eng := t.eng } := by
  obtain ⟨t, ht, hx, hs⟩ := sweepState_next u s
  refine Does.of ((comparer_checks hu (.inl rfl) rfl ht).trans ((if_neg (by decide)).trans (if_pos ?_))) ?_
  · rw [hx]
    exact check_passes (not_not_intro he)
  · rw [hx]
    exact ⟨rfl, rfl, rfl, hs⟩

theorem comparer_repairs_state {up : Bool}
    (he : up = true ∨ (s.cmu u).states.get 0 (s.cmu u).ptrA ≠ (s.cmu u).stShadow.get 0 (s.cmu u).ptrA) :
    Does (.cmuComparerCheck u true up true) s fun t =>
      (t.cmu u).states.get 0 (s.cmu u).ptrA = (s.cmu u).stShadow.get 0 (s.cmu u).ptrA ∧
      (t.cmu u).repairs = (s.cmu u).repairs + 1 ∧ t.log.next = s.log.next + 1 ∧ t.ring = s.ring := by
  obtain ⟨t, ht, hx, hs⟩ := sweepState_next u s
  have hring : t.ring = s.ring := by rw [hs]
  refine Does.of ((comparer_checks hu (.inl rfl) rfl ht).trans ((if_neg (by decide)).trans (if_neg ?_))) ?_
  · rw [hx]
    exact ne_true_of_eq_false (check_finds he)
  · simp only [if_true]
    rw [logEvent_cmu, State.setCmu_same, hx, logEvent_next, State.setCmu_log, congrArg State.log hs]
    exact ⟨Tbl.get_set_same .., rfl, rfl, hring⟩

end

/-- Marks the image entries of a plan's image as faulted (R256). -/
def faultImage (o m : ImgEnt) : ImgEnt :=
  if m.inst = o.inst ∧ m.planId = o.planId ∧ m.uid = o.uid ∧ m.bound = o.bound ∧ m.idx = o.idx then { m with faulted := true } else m

theorem faultImage_faulted {o m x : ImgEnt} (h : faultImage o m = x) (hi : x.inst = o.inst) (hp : x.planId = o.planId) (hu : x.uid = o.uid)
    (hb : x.bound = o.bound) (hx : x.idx = o.idx) : x.faulted = true := by
  subst h
  by_cases h : m.inst = o.inst ∧ m.planId = o.planId ∧ m.uid = o.uid ∧ m.bound = o.bound ∧ m.idx = o.idx
  · rw [faultImage, if_pos h]
  · rw [faultImage, if_neg h] at hi hp hu hb hx
    exact absurd ⟨hi, hp, hu, hb, hx⟩ h

theorem faultImages_unit (o : ImgEnt) (u n : Nat) (s : State) :
    (forBelow (fun v s => s.setCmu v { s.cmu v with images := (s.cmu v).images.map (faultImage o) }) n s).cmu u =
      if u < n then { s.cmu u with images := (s.cmu u).images.map (faultImage o) } else s.cmu u := by
  induction n with
  | zero => rfl
  | succ n ih =>
    show State.cmu (State.setCmu (forBelow (fun v s => s.setCmu v { s.cmu v with images := (s.cmu v).images.map (faultImage o) }) n s) n _) u = _
    obtain rfl | h := eq_or_ne u n
    · rw [State.setCmu_same, ih, if_neg (Nat.lt_irrefl _), if_pos (Nat.lt_succ_self _)]
    · rw [State.setCmu_ne _ _ _ _ h, ih]
      exact if_congr (by omega) rfl rfl

/-- Where the shadow of a state cannot be read, it is harmless and its image is faulted. -/
theorem shadowLostState_unit {u a : Nat} {m : ImgEnt} {s : State} (hu : u < 4)
    (hm : (s.cmu u).images.find? (fun m => decide (m.base ≤ a) && decide (a < m.base + m.nstate)) = some m) :
    (shadowLostState u a s).cmu u = { s.cmu u with
      states := (s.cmu u).states.set 0 a (deadState (a - m.base)), shadowErr := true, images := (s.cmu u).images.map (faultImage m) } := by
  unfold shadowLostState
  dsimp only
  rw [hm]
  simp only [Option.map_some, Option.getD_some]
  generalize deadState (a - m.base) = d
  refine (faultImages_unit m u 4 _).trans ?_
  rw [if_pos hu, State.setCmu_same]

theorem comparer_loses_state {u : Nat} {up : Bool} {m : ImgEnt} {s : State} (hu : u < 4)
    (hm : (s.cmu u).images.find? (fun m => decide (m.base ≤ (s.cmu u).ptrA) && decide ((s.cmu u).ptrA < m.base + m.nstate)) = some m) :
    Does (.cmuComparerCheck u true up false) s fun t =>
      (t.cmu u).states.get 0 (s.cmu u).ptrA = deadState ((s.cmu u).ptrA - m.base) ∧ (t.cmu u).shadowErr = true ∧
      ∀ x ∈ (t.cmu u).images, x.inst = m.inst → x.planId = m.planId → x.uid = m.uid → x.bound = m.bound → x.idx = m.idx → x.faulted = true := by
  obtain ⟨t, ht, hx, -⟩ := sweepState_next u s
  refine Does.of ((comparer_checks hu (.inl rfl) rfl ht).trans (if_pos (by decide))) ?_
  simp only [if_true]
  rw [logEvent_cmu]
  have hm' : (t.cmu u).images.find? (fun m => decide (m.base ≤ (s.cmu u).ptrA) && decide ((s.cmu u).ptrA < m.base + m.nstate)) = some m := by
    rw [hx]
    exact hm
  rw [shadowLostState_unit hu hm']
  generalize deadState ((s.cmu u).ptrA - m.base) = d
  refine ⟨Tbl.get_set_same .., rfl, fun x hmem hi hp huid hb hidx => ?_⟩
  obtain ⟨y, -, hy⟩ := List.mem_map.mp hmem
  exact faultImage_faulted hy hi hp huid hb hidx

/-! ## Throttle and configuration (R258 to R260, R265) -/

theorem stepDown_eq (t : Nat) : ∀ k, stepDown t k =
    if k = 0 then 0 else if t ≤ 83 then 0 else if t ≤ 93 ∨ k = 1 then 1 else if t ≤ 98 ∨ k = 2 then 2 else k
  | 0 => rfl
  | k + 1 => by
    rw [stepDown, stepDown_eq t k]
    unfold stepEdge
    split_ifs <;> omega

theorem throttleTo_free {u temp : Nat} {s : State} (h : (s.cmu u).strict = false) :
    throttleTo u temp s = s.setCmu u { s.cmu u with
      temp := BitVec.ofNat 8 temp, reading := temp, step := nextStep false s.pwr.sag temp (s.cmu u).step } := by
  unfold throttleTo
  dsimp only
  rw [h]
  rfl

theorem throttleTo_step (u temp : Nat) (s : State) :
    ((throttleTo u temp s).cmu u).step = nextStep (s.cmu u).strict s.pwr.sag temp (s.cmu u).step := by
  unfold throttleTo
  dsimp only
  split
  · rw [logEvent_cmu, State.setCmu_same]
  · rw [State.setCmu_same]

section
variable {u temp : Nat} {s : State}

theorem throttle_follows (hu : u < 4) (hr : cmuReading s u = some temp) :
    exec (.cmuThrottleStepChange u temp) s =
      .next ((throttleTo u temp s).setCmu u { (throttleTo u temp s).cmu u with temp := (s.cmu u).temp }) := by
  refine (if_neg (by simp [hr, hu])).trans ?_
  unfold cmuFollow
  rw [hr]
  rfl

theorem throttle_free (hu : u < 4) (hr : cmuReading s u = some temp) (hst : (s.cmu u).strict = false) (hs : s.pwr.sag = false) :
    Does (.cmuThrottleStepChange u temp) s fun t =>
      (100 < temp → (t.cmu u).step = 3) ∧ (95 < temp → temp ≤ 100 → (t.cmu u).step = if 3 ≤ (s.cmu u).step ∧ 98 < temp then 3 else 2) ∧
      (93 < temp → temp ≤ 95 → (t.cmu u).step = if 2 ≤ (s.cmu u).step then 2 else 1) ∧ (85 < temp → temp ≤ 93 → (t.cmu u).step = 1) ∧
      (83 < temp → temp ≤ 85 → (t.cmu u).step = if 1 ≤ (s.cmu u).step then 1 else 0) ∧ (temp ≤ 83 → (t.cmu u).step = 0) ∧
      t = { s with eng := t.eng } := by
  refine Does.of (throttle_follows hu hr) ?_
  rw [State.setCmu_same]
  dsimp only
  rw [throttleTo_step, hst, hs]
  have hstep : nextStep false false temp (s.cmu u).step = min 3 (max (stepOf temp) (stepDown temp (s.cmu u).step)) := rfl
  rw [hstep, stepDown_eq, throttleTo_free hst]
  unfold stepOf
  refine ⟨fun h => ?_, fun h h' => ?_, fun h h' => ?_, fun h h' => ?_, fun h h' => ?_, fun h => ?_, rfl⟩ <;> split_ifs <;> omega

theorem throttle_strict (hu : u < 4) (hr : cmuReading s u = some temp) (hst : (s.cmu u).strict = true) :
    Does (.cmuThrottleStepChange u temp) s fun t => (t.cmu u).step = if 100 < temp then 3 else 2 := by
  refine Does.of (throttle_follows hu hr) ?_
  rw [State.setCmu_same]
  dsimp only
  rw [throttleTo_step, hst]
  rfl

theorem throttle_other (hr : cmuReading s u ≠ some temp) : exec (.cmuThrottleStepChange u temp) s = .next s := if_pos (.inr hr)

end

theorem cmpcfg_taken {v : W32} {s : State} (hlo : 6 ≤ v.toNat % 32) (hhi : v.toNat % 32 ≤ 16) (hs : isStrict s = false) :
    exec (.cmuCmpcfgWrite v) s = .next { s with eng := { s.eng with ratio := BitVec.ofNat 5 (v.toNat % 32) } } :=
  if_pos ⟨hlo, hhi, by rw [hs]; rfl⟩

theorem cmpcfg_refused {v : W32} {s : State} (h : isStrict s = true ∨ v.toNat % 32 < 6 ∨ 16 < v.toNat % 32) :
    exec (.cmuCmpcfgWrite v) s = .next s := by
  refine if_neg fun ⟨hlo, hhi, hs⟩ => ?_
  obtain h | h | h := h
  · rw [h] at hs
    exact absurd hs (by decide)
  · omega
  · omega

/-! ## CMU_TABLE_LOAD (R251, R469) -/

/-- An empty list is in order, whatever the host gives. -/
theorem tableList_empty {m : Mbx} (h : m.arg 0x20 4 = 0) (size : Nat) (host : Option (List Byte)) : tableList m size host = .ok [] := by
  unfold tableList
  simp only [h, if_true, List.length_nil, ne_eq, not_true_eq_false, if_false]
  rfl

theorem mbxRead_nothing {fn : Nat} {m : Mbx} {a n : Nat} {k : State → State} {s : State} (h : n = 0) :
    mbxRead fn m [(a, n)] k s = k s := by
  subst h
  unfold mbxRead
  exact if_pos (by simp)

theorem createTable_makes {fn u id size b : Nat} {s : State} (hn : (s.cmu u).tables.length < 4096)
    (he : entUsed (s.cmu u) fn + size ≤ (s.inst fn).res.cmuEnt.getD u 0)
    (hb : firstBlock 65536 ((s.cmu u).tables.map fun t => (t.base, t.size)) size = some b) :
    ∃ x : CmuTable, createTable fn u id size s = some (s.setCmu u { s.cmu u with tables := (s.cmu u).tables ++ [x] }) ∧
      x.inst = fn ∧ x.id = id ∧ x.base = b ∧ x.size = size ∧ x.faulted = false ∧ x.gone = false := by
  unfold createTable
  dsimp only
  rw [if_neg (by omega), hb]
  exact ⟨_, rfl, rfl, rfl, rfl, rfl, rfl, rfl⟩

section
variable {fn : Nat} {host : Option (List Byte)} {s : State} (hm : MbxRuns fn 0x32 tableRule s)
include hm

theorem tableCreate_does {b : Nat} (hop : (s.getMbx fn).arg 8 1 = 1) (hbad : tableBadField (s.getMbx fn) true = none)
    (hlen : (s.getMbx fn).arg 0x20 4 = 0) (hnew : cmuTableNow s fn ((s.getMbx fn).arg 0x0C 4) = none)
    (hn : (s.cmu ((s.getMbx fn).arg 9 1)).tables.length < 4096) (hf : (s.cmu ((s.getMbx fn).arg 9 1)).fault = false)
    (he : entUsed (s.cmu ((s.getMbx fn).arg 9 1)) fn + (s.getMbx fn).arg 0x10 4 ≤ (s.inst fn).res.cmuEnt.getD ((s.getMbx fn).arg 9 1) 0)
    (hb : firstBlock 65536 ((s.cmu ((s.getMbx fn).arg 9 1)).tables.map fun t => (t.base, t.size)) ((s.getMbx fn).arg 0x10 4) = some b) :
    Does (.cmuTableCreate fn host) s fun t => MbxEnded fn 0 t ∧
      ∃ x, (t.cmu ((s.getMbx fn).arg 9 1)).tables = (s.cmu ((s.getMbx fn).arg 9 1)).tables ++ [x] ∧ x.inst = fn ∧
        x.id = (s.getMbx fn).arg 0x0C 4 ∧ x.base = b ∧ x.size = (s.getMbx fn).arg 0x10 4 ∧ x.faulted = false ∧ x.gone = false := by
  obtain ⟨x, hx, hfacts⟩ := createTable_makes (id := (s.getMbx fn).arg 0x0C 4) hn he hb
  generalize hu : (s.getMbx fn).arg 9 1 = u at *
  refine mbx_answers (t := (s.setCmu u { s.cmu u with tables := (s.cmu u).tables ++ [x] }).modMbx fn fun m => { m with started := true })
    (err := 0) (d := 0) (off := 0) (pl := leBytes 0 4) ?_ hm.gateOpen fun o w z => ⟨x, ?_, hfacts⟩
  · show execCmuTableCreate fn host s = _
    unfold execCmuTableCreate
    rw [onMbxSub_runs hm _ hop]
    dsimp only
    rw [hbad, hnew]
    dsimp only
    rw [hu, hx]
    dsimp only
    rw [if_neg (by decide), mbxRead_nothing hlen, tableList_empty hlen, hf]
    dsimp only
    rw [if_neg (by decide), State.setCmu_same]
    unfold startTableRun
    rw [State.setCmu_same]
    rfl
  · exact congrArg CmuUnit.tables (State.setCmu_same s u _)

theorem tableRefill_does {u : Nat} {tb : CmuTable} {rs : List UpdRec} (hop : (s.getMbx fn).arg 8 1 = 2)
    (hbad : tableBadField (s.getMbx fn) false = none) (ht : cmuTableNow s fn ((s.getMbx fn).arg 0x0C 4) = some (u, tb))
    (hl : tableList (s.getMbx fn) tb.size (hostGave s (s.getMbx fn).port host) = .ok rs) (hrs : rs ≠ []) (hf : (s.cmu u).fault = false)
    (hr : mbxReads s (s.getMbx fn) = true) : Does (.cmuTableRefill fn host) s fun t => (t.getMbx fn).st = .busy ∧ (t.getMbx fn).started = true ∧
      (t.cmu u).upd = (s.cmu u).upd ++ [⟨none, some fn, fn, (s.getMbx fn).arg 0x0C 4, rs, 0, 0, false⟩] := by
  obtain ⟨o, w, x, hread, hport⟩ := mbxRead_reads fn (s.getMbx fn) [((s.getMbx fn).arg 0x18 8, (s.getMbx fn).arg 0x20 4)] hr
  show ∃ t, execCmuTableRefill fn host s = .next t ∧ _
  unfold execCmuTableRefill
  rw [onMbxSub_runs hm _ hop]
  dsimp only
  rw [hbad, ht]
  dsimp only
  rw [hread]
  generalize hv : ({ s with out := { s.out with host := o }, lnk := { s.lnk with hp := w, msixPend := x } } : State) = v
  have hport' : (v.hostPort (s.getMbx fn).port).absent = (s.hostPort (s.getMbx fn).port).absent := by
    rw [← hv]
    exact (hport _).2
  have hgave : hostGave v (s.getMbx fn).port host = hostGave s (s.getMbx fn).port host := by
    unfold hostGave
    rw [hport']
  have hcmu : v.cmu u = s.cmu u := by
    rw [← hv]
    rfl
  have hmbx : v.getMbx fn = s.getMbx fn := by
    rw [← hv]
    rfl
  rw [hgave, hl]
  dsimp only
  unfold startTableRun startRun
  rw [hcmu, hf, if_neg (by decide)]
  dsimp only
  rw [if_neg (by simpa using hrs)]
  refine ⟨_, rfl, ?_⟩
  rw [State.setCmu_same]
  refine ⟨?_, ?_, ?_⟩
  · exact (congrArg Mbx.st (modMbx_getMbx fn (fun m => { m with started := true }) v)).trans ((congrArg Mbx.st hmbx).trans hm.busy)
  · exact congrArg Mbx.started (modMbx_getMbx fn (fun m => { m with started := true }) v)
  · exact congrArg (fun y : CmuUnit => y.upd ++ _) hcmu

theorem tableDelete_does {u : Nat} {tb : CmuTable} (hop : (s.getMbx fn).arg 8 1 = 3)
    (ht : cmuTableNow s fn ((s.getMbx fn).arg 0x0C 4) = some (u, tb)) : Does (.cmuTableDelete fn) s fun t => MbxEnded fn 0 t ∧
      (t.cmu u).tables = (s.cmu u).tables.map fun x =>
        if x.tsel = tb.tsel then { x with gone := true, goneAt := s.ring.nextAcc } else x := by
  refine mbx_answers (t := deleteTable fn ((s.getMbx fn).arg 0x0C 4) s) (err := 0) (d := 0) (off := 0) (pl := leBytes 0 4) ?_ ?_
    fun o w z => ?_
  · show execCmuTableDelete fn s = _
    unfold execCmuTableDelete
    rw [onMbxSub_runs hm _ hop]
    rw [ht]
  · unfold deleteTable
    rw [ht]
    exact hm.gateOpen
  · unfold deleteTable modTable
    rw [ht]
    exact congrArg CmuUnit.tables (State.setCmu_same s u _)

theorem tableDelete_unknown (hop : (s.getMbx fn).arg 8 1 = 3) (ht : cmuTableNow s fn ((s.getMbx fn).arg 0x0C 4) = none) :
    Does (.cmuTableDelete fn) s fun t => MbxEnded fn meNotFound t ∧ t.eng = s.eng := by
  refine mbx_answers (t := s) (err := meNotFound) (d := 0) (off := 0) (pl := []) ?_ hm.gateOpen fun o w z => rfl
  show execCmuTableDelete fn s = _
  unfold execCmuTableDelete
  rw [onMbxSub_runs hm _ hop]
  rw [ht]
  rfl

end

theorem tableReclaim_does {i id u : Nat} {tb : CmuTable} {s : State}
    (h : ((List.range 4).findSome? fun u => ((s.cmu u).tables.find? fun t =>
      decide (t.inst = i) && decide (t.id = id) && t.gone).map fun t => (u, t)) = some (u, tb)) (hf : tableInUse s tb = false) :
    Does (.cmuTableReclaim i id) s fun t => (t.cmu u).tables = (s.cmu u).tables.filter (fun x => x.tsel ≠ tb.tsel) ∧
      (t.cmu u).ent = clearValid (s.cmu u).ent tb.base tb.size ∧ t = { s with eng := t.eng, disp := t.disp } := by
  show ∃ t, execCmuTableReclaim i id s = .next t ∧ _
  unfold execCmuTableReclaim
  rw [h]
  refine ⟨_, if_neg (by rw [hf]; decide), ?_⟩
  rw [State.setCmu_same]
  obtain ⟨c, a, b, d, e⟩ := countCmu_unit u i 2 tb.size s
  rw [e]
  obtain ⟨x, y, e'⟩ := countCmu_eq u i 2 tb.size s
  rw [e']
  exact ⟨rfl, rfl, rfl⟩

end Sys2Proof.Machine

namespace Sys2Proof

open Machine

/-- Settles O31: one lemma for a check of the comparer, and each CMU_TABLE_LOAD by the fields of its captured command. -/
theorem matchUnitsAndTables : Obligations.MatchUnitsAndTables := by
  unfold Obligations.MatchUnitsAndTables
  exact ⟨fun u k n op i keys c q o rs kd m s hc hq ho hu hk hp hf hh hst hg hl hr => searchBurst_does hc hq ho hu hk hp hf hh hst hg hl hr,
    fun u s hu hb he => comparer_equal_entry hu hb he, fun u up s hu hb he => comparer_repairs_entry hu hb he,
    fun u up s hu hb => comparer_loses_entry hu hb, fun u up ok s hu hb => comparer_busy hu hb,
    fun u s hu he => comparer_equal_state hu he, fun u up s hu he => comparer_repairs_state hu he,
    fun u up m s hu hm => comparer_loses_state hu hm, fun u temp s hu hr hst hs => throttle_free hu hr hst hs,
    fun u temp s hu hr hst => throttle_strict hu hr hst, fun u temp s hr => throttle_other hr,
    fun v s hlo hhi hs => cmpcfg_taken hlo hhi hs, fun v s h => cmpcfg_refused h,
    fun fn host b s hm hop hbad hlen hnew hn hf he hb => tableCreate_does hm hop hbad hlen hnew hn hf he hb,
    fun fn host u tb rs s hm hop hbad ht hl hrs hf hr => tableRefill_does hm hop hbad ht hl hrs hf hr,
    fun fn u tb s hm hop ht => tableDelete_does hm hop ht, fun fn s hm hop ht => tableDelete_unknown hm hop ht,
    fun i id u tb s h hf => tableReclaim_does h hf⟩

end Sys2Proof
end

section
/-!
PROOFS. The four steps of a match-table update and the end of its command (O30).
-/

namespace Sys2Proof.Machine

/-- The record in progress is that of the first run. -/
theorem currentRecord_head {s : State} {u : Nat} {r : UpdRun} {x : UpdRec} {tb : CmuTable} (h : currentRecord s u = some (r, x, tb)) :
    ∃ l, (s.cmu u).upd = r :: l := by
  unfold currentRecord at h
  split at h
  · exact absurd h (by simp)
  · next r' l hl =>
    split at h
    · obtain ⟨rfl, -⟩ := Prod.mk.inj (Option.some.inj h)
      exact ⟨l, hl⟩
    · exact absurd h (by simp)

theorem setRun_unit (u : Nat) (r : UpdRun) (s : State) :
    (setRun u r s).cmu u = { s.cmu u with upd := r :: (s.cmu u).upd.drop 1 } := State.setCmu_same ..

/-- Putting the next run first rearranges the runs, and no more. -/
theorem arrangeRuns_unit (u : Nat) (s : State) : ∃ l, (arrangeRuns u s).cmu u = { s.cmu u with upd := l } ∧ l.Perm (s.cmu u).upd ∧
    arrangeRuns u s = { s with eng := (arrangeRuns u s).eng } := by
  unfold arrangeRuns
  dsimp only
  split
  · exact ⟨(s.cmu u).upd, rfl, .refl _, rfl⟩
  · split
    · exact ⟨(s.cmu u).upd, rfl, .refl _, rfl⟩
    · next r hr => exact ⟨_, State.setCmu_same .., (List.perm_cons_erase (List.mem_of_find?_eq_some hr)).symm, rfl⟩

/-- A step that takes its slot: the unit is counted a step, and its entries and runs are as they were. -/
theorem stepTaken_unit (u i : Nat) (s : State) : ∃ v, countCmu u i 2 1 (takeSlots u i 1 s) = v ∧ v.ring = s.ring ∧
    (v.cmu u).ent = (s.cmu u).ent ∧ (v.cmu u).upd = (s.cmu u).upd ∧ (v.cmu u).updSteps = (s.cmu u).updSteps + 1 := by
  refine ⟨_, rfl, ?_, (countCmu_ent ..).trans (takeSlots_ent ..), ?_, (countCmu_updSteps ..).trans ?_⟩
  · obtain ⟨d, c, e⟩ := countCmu_eq u i 2 1 (takeSlots u i 1 s)
    rw [e]
    rfl
  · obtain ⟨c, a, b, d, e⟩ := countCmu_unit u i 2 1 (takeSlots u i 1 s)
    obtain ⟨p, t, n, e'⟩ := takeSlots_unit u i 1 s
    rw [e, e']
  · obtain ⟨p, t, n, e'⟩ := takeSlots_unit u i 1 s
    rw [e']
    rfl

theorem updateStep_open {u : Nat} {r : UpdRun} {s : State} (hm : slotMine s u r.inst = true) (hf : (s.cmu u).fault = false) (h0 : r.step ≠ 0) :
    ¬(r.step = 0 ∨ (s.cmu u).fault = true ∨ (!slotMine s u r.inst) = true) := by
  simp [h0, hm, hf]

section
variable {u : Nat} {r : UpdRun} {x : UpdRec} {tb : CmuTable} {s : State} (hr : currentRecord s u = some (r, x, tb))
include hr

theorem shadowWriteAck_does (h0 : r.step = 0) (hf : (s.cmu u).fault = false) (hw : x.write = true) :
    Does (.cmuShadowWriteAck u) s fun t =>
      (t.cmu u).shadow.get TEntry.empty (tb.base + x.index) = entryOf x tb ∧ (t.cmu u).busy = some (tb.base + x.index) ∧
      (t.cmu u).ent = (s.cmu u).ent ∧ (t.cmu u).upd = { r with step := 1 } :: (s.cmu u).upd.drop 1 ∧ t = { s with eng := t.eng } := by
  show ∃ t, execCmuShadowWriteAck u s = .next t ∧ _
  unfold execCmuShadowWriteAck
  rw [hr]
  refine ⟨_, if_neg (by simp [h0, hf]), ?_⟩
  rw [setRun_unit, State.setCmu_same, hw]
  exact ⟨Tbl.get_set_same .., rfl, rfl, rfl, rfl⟩

theorem updateStep_other (hst : (s.cmu u).strict = isStrict s) (hm : slotMine s u r.inst = false) : exec (.cmuUpdateStep u) s = .next s := by
  show execCmuUpdateStep u s = _
  unfold execCmuUpdateStep
  rw [enterCmu_in hst]
  dsimp only
  rw [hr]
  exact if_pos (.inr (.inr (by rw [hm]; rfl)))

variable (hst : (s.cmu u).strict = isStrict s) (hm : slotMine s u r.inst = true) (hf : (s.cmu u).fault = false)
include hst hm hf

theorem updateStep_invalidates (h1 : r.step = 1) (hw : x.write = true) : Does (.cmuUpdateStep u) s fun t =>
      (t.cmu u).ent.get TEntry.empty (tb.base + x.index) =
        { (s.cmu u).ent.get TEntry.empty (tb.base + x.index) with valid := false } ∧
      (t.cmu u).upd = { r with step := 2 } :: (s.cmu u).upd.drop 1 ∧ (t.cmu u).updSteps = (s.cmu u).updSteps + 1 := by
  obtain ⟨v, hv, -, hent, hupd, hsteps⟩ := stepTaken_unit u r.inst s
  show ∃ t, execCmuUpdateStep u s = .next t ∧ _
  unfold execCmuUpdateStep
  rw [enterCmu_in hst]
  dsimp only
  rw [hr]
  refine ⟨_, (if_neg (updateStep_open hm hf (by omega))).trans ((if_pos h1).trans (if_pos hw)), ?_⟩
  rw [hv, setRun_unit, State.setCmu_same, hent, hupd, hsteps]
  exact ⟨Tbl.get_set_same .., rfl, rfl⟩

theorem updateStep_writes (h2 : r.step = 2) : Does (.cmuUpdateStep u) s fun t =>
      (t.cmu u).ent.get TEntry.empty (tb.base + x.index) = { entryOf x tb with valid := false } ∧
      (t.cmu u).upd = { r with step := 3 } :: (s.cmu u).upd.drop 1 := by
  obtain ⟨v, hv, -, hent, hupd, -⟩ := stepTaken_unit u r.inst s
  show ∃ t, execCmuUpdateStep u s = .next t ∧ _
  unfold execCmuUpdateStep
  rw [enterCmu_in hst]
  dsimp only
  rw [hr]
  refine ⟨_, (if_neg (updateStep_open hm hf (by omega))).trans ((if_neg (by omega)).trans (if_pos h2)), ?_⟩
  rw [hv, setRun_unit, State.setCmu_same, hupd]
  exact ⟨Tbl.get_set_same .., rfl⟩

/-- The last step of a record: the entry is valid, the address is no longer busy, and the next record or the end follows. -/
theorem updateStep_last (h3 : r.step = 3) : ∃ v : State, v.ring = s.ring ∧
    (v.cmu u).ent.get TEntry.empty (tb.base + x.index) = { (s.cmu u).ent.get TEntry.empty (tb.base + x.index) with valid := true } ∧
    (v.cmu u).upd = (s.cmu u).upd ∧ (v.cmu u).busy = none ∧ exec (.cmuUpdateStep u) s = .next (nextRecord u r v) := by
  obtain ⟨v, hv, hring, hent, hupd, -⟩ := stepTaken_unit u r.inst s
  refine ⟨v.setCmu u { v.cmu u with
    ent := (v.cmu u).ent.set TEntry.empty (tb.base + x.index) { (v.cmu u).ent.get TEntry.empty (tb.base + x.index) with valid := true },
    busy := none }, hring, ?_⟩
  rw [State.setCmu_same]
  refine ⟨(Tbl.get_set_same ..).trans (by rw [hent]), hupd, rfl, ?_⟩
  show execCmuUpdateStep u s = _
  unfold execCmuUpdateStep
  rw [enterCmu_in hst]
  dsimp only
  rw [hr, ← hv]
  exact (if_neg (updateStep_open hm hf (by omega))).trans ((if_neg (by omega)).trans (if_neg (by omega)))

theorem updateStep_next (h3 : r.step = 3) (hs : r.stop = false) (hl : r.applied + 1 < r.recs.length) : Does (.cmuUpdateStep u) s fun t =>
      (t.cmu u).ent.get TEntry.empty (tb.base + x.index) =
        { (s.cmu u).ent.get TEntry.empty (tb.base + x.index) with valid := true } ∧
      (t.cmu u).busy = none ∧
      (t.cmu u).upd.Perm ({ r with applied := r.applied + 1, step := 0 } :: (s.cmu u).upd.drop 1) := by
  obtain ⟨v, -, hent, hupd, hbusy, he⟩ := updateStep_last hr hst hm hf h3
  have hnext : nextRecord u r v = arrangeRuns u (setRun u { r with applied := r.applied + 1, step := 0 } v) :=
    congrArg (arrangeRuns u) (if_neg (by simpa [hs] using hl))
  refine Does.of he ?_
  rw [hnext]
  obtain ⟨l, e, hl, -⟩ := arrangeRuns_unit u (setRun u { r with applied := r.applied + 1, step := 0 } v)
  rw [setRun_unit] at e hl
  rw [e]
  exact ⟨hent, hbusy, hupd ▸ hl⟩

theorem updateStep_ends {k : Nat} {c : Cmd} (h3 : r.step = 3) (hs : r.stop = false) (hl : r.applied + 1 = r.recs.length) (hk : r.slot = some k)
    (hc : s.cmd k = some c) (ho : c.outcome = none) : Does (.cmuUpdateStep u) s fun t =>
      (t.cmu u).upd.Perm ((s.cmu u).upd.drop 1) ∧ (t.cmu u).busy = none ∧
      (t.cmd k).map (fun y => (y.outcome, y.r0)) = some (some stSuccess, BitVec.ofNat 64 r.recs.length) := by
  obtain ⟨v, hring, -, hupd, -, he⟩ := updateStep_last hr hst hm hf h3
  generalize hw : v.setCmu u { v.cmu u with upd := (v.cmu u).upd.drop 1, busy := none } = w
  have hwu : w.cmu u = { v.cmu u with upd := (v.cmu u).upd.drop 1, busy := none } := hw ▸ State.setCmu_same ..
  have hwc : w.cmd k = some c := (cmd_of_ring (hw ▸ hring) k).trans hc
  have hnext : nextRecord u r v = arrangeRuns u (succeed k (BitVec.ofNat 64 (r.applied + 1)) w) := by
    unfold nextRecord endRun
    dsimp only
    rw [if_pos (by simp [hl]), hk, hs, ← hw]
    rfl
  obtain ⟨l, e, hl', hring'⟩ := arrangeRuns_unit u (succeed k (BitVec.ofNat 64 (r.applied + 1)) w)
  have hu : (succeed k (BitVec.ofNat 64 (r.applied + 1)) w).cmu u = w.cmu u := by
    rw [succeed_eq hwc ho]
    rfl
  rw [hu, hwu] at e hl'
  refine Does.of he ?_
  rw [hnext]
  refine ⟨?_, ?_, ?_⟩
  · rw [e, ← hupd]
    exact hl'
  · rw [e]
  · rw [cmd_of_ring (congrArg State.ring hring') k, ← hl]
    exact congrArg (Option.map fun y : Cmd => (y.outcome, y.r0)) (succeed_cmd hwc ho)

end

end Sys2Proof.Machine

namespace Sys2Proof

open Machine

/-- Settles O30: a step takes its slot and changes the entry; the last record's end is the command's success. -/
theorem updateSteps : Obligations.UpdateSteps := by
  unfold Obligations.UpdateSteps
  exact ⟨fun u r x tb s hr h0 hf hw => shadowWriteAck_does hr h0 hf hw,
    fun u r x tb s hr h1 hst hm hf hw => updateStep_invalidates hr hst hm hf h1 hw,
    fun u r x tb s hr h2 hst hm hf => updateStep_writes hr hst hm hf h2,
    fun u r x tb s hr h3 hst hm hf hs hl => updateStep_next hr hst hm hf h3 hs hl,
    fun u r x tb k c s hr h3 hst hm hf hs hl hk hc ho => updateStep_ends hr hst hm hf h3 hs hl hk hc ho,
    fun u r x tb s hr hst hm => updateStep_other hr hst hm⟩

end Sys2Proof
end

section
/-!
PROOFS. MATCH_UPDATE and MATCH_SEARCH: their start, their lists, and a search of one key (O29).
-/

namespace Sys2Proof.Machine

/-- The bytes of a command that the host gives come to its opcode. -/
theorem hostReadDone_open {k : Nat} {c : Cmd} {d : List Byte} {s : State} (hc : s.cmd k = some c) (hp : c.phase = .hostRead)
    (ho : c.outcome = none) (ha : (s.hostPort (s.sq c.inst c.sq).port).absent = false) :
    exec (.hostReadDone k (some d)) s =
      if c.opc = 0x10 ∨ c.opc = 0x12 then .next (storeDataRead k c (some d) s)
      else if c.opc = 0x15 then .next (createRead k c (some d) s)
      else if c.opc = 0x20 ∨ c.opc = 0x21 then .next (digestRead k c (some d) s)
      else if c.opc = 0x30 then .next (matchUpdateRead k c (some d) s)
      else if c.opc = 0x31 then .next (matchSearchRead k c (some d) s)
      else .next s := by
  show execHostReadDone k (some d) s = _
  unfold execHostReadDone
  rw [hc]
  dsimp only
  rw [hostGave_present _ ha]
  exact if_neg (by simp [hp, ho])

/-- An instance in turn takes one slot at least. -/
theorem slotLimit_pos {s : State} {u i n : Nat} (h : slotLimit s u i = some n) : 1 ≤ n := by
  unfold slotLimit turnLeft at h
  dsimp only at h
  split at h
  · exact absurd h (by simp)
  · split at h <;> obtain rfl := Option.some.inj h <;> exact le_max_left ..

/-! ## MATCH_UPDATE (R247 to R250) -/

section
variable {k : Nat} {c : Cmd} {s : State}

theorem matchUpdate_handed (h : Handed k 0x30 c s) : exec (.matchUpdate k) s =
    .next (if updateDescOk c then askHost k c c.addr0 c.len s else failCmd k stParam s) := by
  show execMatchUpdate k s = _
  unfold execMatchUpdate
  rw [h.holds, if_neg (by simp [h.phase]), onHanded_runs h]

theorem matchUpdate_asks (h : Handed k 0x30 c s) (hd : updateDescOk c = true) (hp : (s.hostPort (s.sq c.inst c.sq).port).up = true) :
    Does (.matchUpdate k) s fun t => t.cmd k = some { c with phase := .hostRead } ∧
      t.out.host = s.out.host ++ [.read (s.sq c.inst c.sq).port c.inst c.addr0 c.len] := by
  obtain ⟨t, e, ht⟩ := askHost_up (a := c.addr0) (n := c.len) h.holds hp
  refine ⟨t, (matchUpdate_handed h).trans ?_, ht⟩
  rw [if_pos hd, e]

theorem matchUpdate_bad (h : Handed k 0x30 c s) (hd : updateDescOk c = false) :
    Does (.matchUpdate k) s fun t => (t.cmd k).map (·.outcome) = some (some stParam) := by
  refine Does.of (matchUpdate_handed h) ?_
  rw [if_neg (by rw [hd]; decide)]
  exact failCmd_outcome h.holds h.undecided

theorem matchUpdate_listed {u : Nat} {tb : CmuTable} {d : List Byte} (hc : s.cmd k = some c) (hopc : c.opc = 0x30) (hp : c.phase = .hostRead)
    (ho : c.outcome = none) (ha : (s.hostPort (s.sq c.inst c.sq).port).absent = false) (hl : d.length = c.len)
    (hb : matchBlocked c s = false) (ht : cmuTableFor s c.inst c.obj c.accNo = some (u, tb))
    (h1 : firstBadRecord (2 ^ 32) 0 (recordsOf d) = none) (h2 : firstBadRecord tb.size 0 (recordsOf d) = none)
    (hf : tb.faulted = false) (hu : (s.cmu u).fault = false) (hne : recordsOf d ≠ []) :
    Does (.hostReadDone k (some d)) s fun t =>
      (t.cmu u).upd = (s.cmu u).upd ++ [⟨some k, none, c.inst, c.obj, (recordsOf d).map readRecord, 0, 0, false⟩] ∧
      t.cmd k = some { c with phase := .running, work := .matching d 0 [] 0 } := by
  have hread : exec (.hostReadDone k (some d)) s = .next (matchUpdateRead k c (some d) s) := by
    rw [hostReadDone_open hc hp ho ha, hopc]
    rfl
  refine Does.of hread ?_
  unfold matchUpdateRead tryUpdate startRun
  dsimp only
  rw [if_neg (not_not_intro hl), if_neg (by rw [hb]; decide), ht]
  dsimp only
  rw [h1]
  dsimp only
  rw [h2]
  dsimp only
  rw [if_neg (by simp [hf, hu]), if_neg (by simpa using hne), State.modCmd_of hc, State.setCmu_same]
  exact ⟨rfl, State.setCmd_same s k _⟩

/-! ## MATCH_SEARCH (R252, R253) -/

theorem matchSearch_handed (h : Handed k 0x31 c s) : exec (.matchSearch k) s =
    .next (((searchDesc c).map fun st => failCmd k st s).getD (askHost k c c.addr0 c.len s)) := by
  show execMatchSearch k s = _
  unfold execMatchSearch
  rw [h.holds]
  dsimp only
  rw [if_neg (by simp [h.phase]), if_neg (by simp [h.phase]), onHanded_runs h]
  cases searchDesc c <;> rfl

theorem matchSearch_bad {st : Nat} (h : Handed k 0x31 c s) (hd : searchDesc c = some st) :
    Does (.matchSearch k) s fun t => (t.cmd k).map (·.outcome) = some (some st) := by
  refine Does.of (matchSearch_handed h) ?_
  rw [hd]
  exact failCmd_outcome h.holds h.undecided

theorem matchSearch_asks (h : Handed k 0x31 c s) (hd : searchDesc c = none) (hp : (s.hostPort (s.sq c.inst c.sq).port).up = true) :
    Does (.matchSearch k) s fun t => t.cmd k = some { c with phase := .hostRead } ∧
      t.out.host = s.out.host ++ [.read (s.sq c.inst c.sq).port c.inst c.addr0 c.len] := by
  obtain ⟨t, e, ht⟩ := askHost_up (a := c.addr0) (n := c.len) h.holds hp
  refine ⟨t, (matchSearch_handed h).trans ?_, ht⟩
  rw [hd]
  exact next_congr e

section
variable {u : Nat} {tb : CmuTable} (hc : s.cmd k = some c) (hopc : c.opc = 0x31) (hp : c.phase = .running) (ho : c.outcome = none)
  (ht : cmuTableFor s c.inst c.obj c.accNo = some (u, tb)) (hf : tb.faulted = false) (hu : (s.cmu u).fault = false)
  (hst : (s.cmu u).strict = isStrict s)
include hc hopc hp ho ht hf hu hst

/-- In its turn a search takes a slot at least; out of it, nothing happens. -/
theorem matchSearch_running : ∃ n, 1 ≤ n ∧ exec (.matchSearch k) s =
    .next (if !slotMine s u c.inst then s else searchKeys k u c tb n (takeSlots u c.inst n s.freshNat.2)) := by
  show ∃ n, 1 ≤ n ∧ execMatchSearch k s = _
  unfold execMatchSearch searchSome
  rw [hc]
  dsimp only
  rw [if_neg (by simp [hp]), if_pos ⟨hp, hopc, ho⟩, ht]
  dsimp only
  rw [if_neg (by simp [hf, hu]), enterCmu_in hst]
  cases hl : slotLimit s u c.inst with
  | none => exact ⟨_, Nat.le_add_left .., rfl⟩
  | some m => exact ⟨_, le_min (slotLimit_pos hl) (Nat.le_add_left ..), rfl⟩

theorem matchSearch_waits (hm : slotMine s u c.inst = false) : exec (.matchSearch k) s = .next s := by
  obtain ⟨n, -, e⟩ := matchSearch_running hc hopc hp ho ht hf hu hst
  rw [e, hm]
  rfl

end

end

theorem chunksOf_one {d : List Byte} (h : d.length = 32) : chunksOf 32 (d.length / 32 + 1) d = [d] := by
  have hne : d.isEmpty = false := by
    cases d with
    | nil => exact absurd h (by decide)
    | cons _ _ => rfl
  rw [h]
  simp [chunksOf, hne, List.take_of_length_le (Nat.le_of_eq h), List.drop_of_length_le (Nat.le_of_eq h)]

theorem searchTable_congr {x y : CmuUnit} (h : x.ent = y.ent) (t : CmuTable) (key : BitVec 144) : searchTable x t key = searchTable y t key := by
  unfold searchTable
  rw [h]

/-- A search of the only key ends its command. -/
theorem searchKeys_one {k u n : Nat} {c : Cmd} {tb : CmuTable} {d : List Byte} {s : State} (hc : s.cmd k = some c) (ho : c.outcome = none)
    (hw : c.work = .matching d 0 [] 0) (hl : d.length = 32) (hn : 1 ≤ n) {r : Option (Nat × W32)}
    (hr : searchTable (s.cmu u) tb (BitVec.ofNat 144 (leAt d 0 18)) = r) :
    (searchKeys k u c tb n s).cmd k = some { c with
      work := .matching d 1 (resultRecord r) (if r.isSome then 1 else 0), outcome := some stSuccess, r0 := if r.isSome then 1 else 0 } ∧
    ((searchKeys k u c tb n s).cmu u).searches = (s.cmu u).searches + 1 := by
  obtain ⟨m, rfl⟩ : ∃ m, n = m + 1 := ⟨n - 1, by omega⟩
  unfold searchKeys
  rw [hw]
  dsimp only
  rw [chunksOf_one hl]
  simp only [List.drop_zero, List.take_succ_cons, List.take_nil, List.map_cons, List.map_nil, hr, List.length_singleton, List.nil_append,
    List.flatten_cons, List.flatten_nil, List.append_nil, Nat.zero_add]
  rw [if_pos (by omega)]
  obtain ⟨x, y, e⟩ := countCmu_eq u c.inst 0 1 s
  have hc' : (countCmu u c.inst 0 1 s).cmd k = some c := by
    rw [e]
    exact hc
  have hs : ((countCmu u c.inst 0 1 s).cmu u).searches = (s.cmu u).searches + 1 := countCmu_searches ..
  generalize countCmu u c.inst 0 1 s = v at hc' hs
  have hh : ([r].filter (·.isSome)).length = if r.isSome then 1 else 0 := by cases r <;> rfl
  rw [hh, State.modCmd_of hc']
  have ho' : ({ c with work := .matching d 1 (resultRecord r) (if r.isSome then 1 else 0) } : Cmd).outcome = none := ho
  refine ⟨?_, ?_⟩
  · refine (succeed_cmd (State.setCmd_same v k _) ho').trans ?_
    cases r <;> rfl
  · exact (congrArg (fun s : State => (s.cmu u).searches) (succeed_eq (State.setCmd_same v k _) ho')).trans hs

theorem matchSearch_one {k u : Nat} {c : Cmd} {tb : CmuTable} {d : List Byte} {s : State} (hc : s.cmd k = some c) (hopc : c.opc = 0x31)
    (hp : c.phase = .running) (ho : c.outcome = none) (hw : c.work = .matching d 0 [] 0) (hl : d.length = 32)
    (ht : cmuTableFor s c.inst c.obj c.accNo = some (u, tb)) (hf : tb.faulted = false) (hu : (s.cmu u).fault = false)
    (hst : (s.cmu u).strict = isStrict s) (hm : slotMine s u c.inst = true) : Does (.matchSearch k) s fun t =>
      let r := searchTable (s.cmu u) tb (BitVec.ofNat 144 (leAt d 0 18))
      (t.cmd k).map (fun x => (x.outcome, x.r0)) = some (some stSuccess, if r.isSome then 1 else 0) ∧
      (t.cmd k).map (·.work) = some (.matching d 1 (resultRecord r) (if r.isSome then 1 else 0)) ∧
      (t.cmu u).searches = (s.cmu u).searches + 1 := by
  obtain ⟨n, hpos, hrun⟩ := matchSearch_running hc hopc hp ho ht hf hu hst
  refine Does.of hrun ?_
  rw [if_neg (by rw [hm]; decide)]
  obtain ⟨p, a, b, e⟩ := takeSlots_unit u c.inst n s.freshNat.2
  have hent : ((takeSlots u c.inst n s.freshNat.2).cmu u).ent = (s.cmu u).ent := takeSlots_ent ..
  have hsearches : ((takeSlots u c.inst n s.freshNat.2).cmu u).searches = (s.cmu u).searches := by
    rw [e]
    rfl
  have hc' : (takeSlots u c.inst n s.freshNat.2).cmd k = some c := hc
  generalize takeSlots u c.inst n s.freshNat.2 = v at hent hsearches hc'
  obtain ⟨h1, h2⟩ := searchKeys_one (u := u) hc' ho hw hl hpos (searchTable_congr hent tb (BitVec.ofNat 144 (leAt d 0 18)))
  dsimp only
  rw [h1, h2, hsearches]
  exact ⟨rfl, rfl, rfl⟩

end Sys2Proof.Machine

namespace Sys2Proof

open Machine

/-- Settles O29: each command by its phase; an instance in turn takes a slot at least, so a search of one key ends. -/
theorem matchCommands : Obligations.MatchCommands := by
  unfold Obligations.MatchCommands
  exact ⟨fun k c s h hd hp => matchUpdate_asks h hd hp, fun k c s h hd => matchUpdate_bad h hd,
    fun k c u tb d s hc hopc hp ho ha hl hb ht h1 h2 hf hu hne => matchUpdate_listed hc hopc hp ho ha hl hb ht h1 h2 hf hu hne,
    fun k c st s h hd => matchSearch_bad h hd, fun k c s h hd hp => matchSearch_asks h hd hp,
    fun k c u tb d s hc hopc hp ho hw hl ht hf hu hst hm => matchSearch_one hc hopc hp ho hw hl ht hf hu hst hm,
    fun k c u tb s hc hopc hp ho ht hf hu hst hm => matchSearch_waits hc hopc hp ho ht hf hu hst hm⟩

end Sys2Proof
end

section
/-!
PROOFS. Contexts of a digest unit: what a write of one, and a message that asks for a lane or leaves it, change.
-/

namespace Sys2Proof.Machine

@[simp] theorem State.setCtx_same (s : State) (u k : Nat) (x : Ctx) : (s.setCtx u k x).ctx u k = x := by
  unfold State.ctx State.setCtx
  rw [State.setDgu_same]
  exact Tbl.get_set_same ..

theorem State.setCtx_ne (s : State) {u v k j : Nat} (x : Ctx) (h : (v, j) ≠ (u, k)) : (s.setCtx u k x).ctx v j = s.ctx v j := by
  unfold State.ctx State.setCtx
  obtain rfl | hv := eq_or_ne v u
  · rw [State.setDgu_same]
    exact Tbl.get_set_ne _ _ _ fun hj => h (by rw [hj])
  · rw [State.setDgu_ne _ _ _ _ hv]

theorem ctx_of_ctxs {s t : State} {u : Nat} (h : (t.dgu u).ctxs = (s.dgu u).ctxs) (k : Nat) : t.ctx u k = s.ctx u k := by
  unfold State.ctx
  rw [h]

theorem leaveLane_unit (u k : Nat) (s : State) : (leaveLane u k s).dgu u = { s.dgu u with
    lanes := (s.dgu u).lanes.filter fun e => (match e.2 with | some (x, _) => decide (x ≠ k) | none => false),
    waiting := (s.dgu u).waiting.filter (· ≠ k) } := by
  refine (State.setDgu_same ..).trans ?_
  rfl

@[simp] theorem leaveLane_ctx (u k j : Nat) (s : State) : (leaveLane u k s).ctx u j = s.ctx u j :=
  ctx_of_ctxs (by rw [leaveLane_unit]) j

/-- A message that has left its lane is on none. -/
theorem leaveLane_onLane (u k : Nat) (s : State) : onLane (leaveLane u k s) u k = false := by
  unfold onLane
  rw [leaveLane_unit, List.any_eq_false]
  intro e he hk
  have hne := (List.mem_filter.mp he).2
  revert hne hk
  rcases e.2 with - | ⟨x, n⟩
  · simp
  · simp

theorem countBytes_unit (u i n : Nat) (s : State) : ∃ c, (countBytes u i n s).dgu u =
    { s.dgu u with bytes := (s.dgu u).bytes + BitVec.ofNat 64 n, instCnt := c } := by
  unfold countBytes addDgu
  dsimp only
  rw [State.setDgu_same, State.setDgu_same]
  exact ⟨_, rfl⟩

theorem countBytes_ctx (u i n j : Nat) (s : State) : (countBytes u i n s).ctx u j = s.ctx u j := by
  obtain ⟨c, e⟩ := countBytes_unit u i n s
  exact ctx_of_ctxs (by rw [e]) j

/-- A context whose waiting words the lane has taken. -/
def Ctx.ran (x : Ctx) : Ctx := { x with msg := x.fed, inbuf := [], held := [] }

theorem Ctx.ran_fed (x : Ctx) : x.ran.fed = x.fed := by
  unfold Ctx.ran
  exact (List.append_nil _).trans (List.append_nil _)

theorem Ctx.ran_ran (x : Ctx) : x.ran.ran = x.ran := by
  have h := x.ran_fed
  unfold Ctx.ran at *
  rw [h]

/-- Between s and t a lane of the unit took the words of context k, or nothing happened to it; the other contexts and the frame of STRICT
are as they were. -/
structure Served (u k : Nat) (s t : State) : Prop where
  own : t.ctx u k = s.ctx u k ∨ t.ctx u k = (s.ctx u k).ran
  others : ∀ j, j ≠ k → t.ctx u j = s.ctx u j
  quantum : (t.dgu u).quantum = (s.dgu u).quantum
  strict : (t.dgu u).strict = (s.dgu u).strict

theorem Served.of_unit {u k : Nat} {s t : State} (hc : (t.dgu u).ctxs = (s.dgu u).ctxs) (hq : (t.dgu u).quantum = (s.dgu u).quantum)
    (hs : (t.dgu u).strict = (s.dgu u).strict) : Served u k s t :=
  ⟨.inl (ctx_of_ctxs hc k), fun j _ => ctx_of_ctxs hc j, hq, hs⟩

theorem Served.refl (u k : Nat) (s : State) : Served u k s s := .of_unit rfl rfl rfl

theorem Served.trans {u k : Nat} {s t v : State} (h : Served u k s t) (h' : Served u k t v) : Served u k s v where
  own := by
    obtain e | e := h.own <;> obtain e' | e' := h'.own <;> rw [e'] <;> rw [e]
    · exact .inl rfl
    · exact .inr rfl
    · exact .inr rfl
    · exact .inr (Ctx.ran_ran _)
  others j hj := (h'.others j hj).trans (h.others j hj)
  quantum := h'.quantum.trans h.quantum
  strict := h'.strict.trans h.strict

theorem leaveLane_served (u k j : Nat) (s : State) : Served u k s (leaveLane u j s) := by
  refine .of_unit ?_ ?_ ?_ <;> rw [leaveLane_unit]

/-- The state in which a lane has taken the waiting words of a message, and they are counted. -/
def wordsRun (u k : Nat) (s : State) : State :=
  countBytes u (s.ctx u k).inst ((s.ctx u k).inbuf.length + (s.ctx u k).held.length) (s.setCtx u k (s.ctx u k).ran)

theorem runWords_eq (u k : Nat) (s : State) : runWords u k s = if (s.ctx u k).last then wordsRun u k s else leaveLane u k (wordsRun u k s) := rfl

theorem wordsRun_unit (u k : Nat) (s : State) : ∃ c, (wordsRun u k s).dgu u = { s.dgu u with
    ctxs := (s.dgu u).ctxs.set Ctx.free k (s.ctx u k).ran, instCnt := c,
    bytes := (s.dgu u).bytes + BitVec.ofNat 64 ((s.ctx u k).inbuf.length + (s.ctx u k).held.length) } := by
  obtain ⟨c, e⟩ := countBytes_unit u (s.ctx u k).inst ((s.ctx u k).inbuf.length + (s.ctx u k).held.length) (s.setCtx u k (s.ctx u k).ran)
  refine ⟨c, e.trans ?_⟩
  unfold State.setCtx
  rw [State.setDgu_same]

theorem wordsRun_ctx (u k : Nat) (s : State) : (wordsRun u k s).ctx u k = (s.ctx u k).ran :=
  (countBytes_ctx ..).trans (State.setCtx_same ..)

theorem wordsRun_served (u k : Nat) (s : State) : Served u k s (wordsRun u k s) := by
  obtain ⟨c, e⟩ := wordsRun_unit u k s
  refine ⟨.inr (wordsRun_ctx u k s), fun j hj => ?_, by rw [e], by rw [e]⟩
  exact (countBytes_ctx ..).trans (State.setCtx_ne _ _ fun h => hj (Prod.mk.inj h).2)

theorem runWords_served (u k : Nat) (s : State) : Served u k s (runWords u k s) := by
  rw [runWords_eq]
  split
  · exact wordsRun_served u k s
  · exact (wordsRun_served u k s).trans (leaveLane_served ..)

theorem runWords_ctx (u k : Nat) (s : State) : (runWords u k s).ctx u k = (s.ctx u k).ran := by
  rw [runWords_eq]
  split
  · exact wordsRun_ctx u k s
  · exact (leaveLane_ctx ..).trans (wordsRun_ctx u k s)

theorem takeLane_served (u k l : Nat) (s : State) : Served u k s (takeLane u k l s) := by
  refine Served.trans (.of_unit ?_ ?_ ?_) (runWords_served ..) <;> rw [State.setDgu_same]

theorem chargeLane_eng (u k : Nat) (s : State) : (chargeLane u k s).eng = s.eng := by
  unfold chargeLane
  split <;> rfl

theorem chargeLane_dgu (u k v : Nat) (s : State) : (chargeLane u k s).dgu v = s.dgu v := by
  unfold State.dgu
  rw [chargeLane_eng]

theorem preemptLane_served (u k l v : Nat) (s : State) : Served u k s (preemptLane u k l v s) := by
  refine Served.trans (.of_unit ?_ ?_ ?_) (takeLane_served ..) <;> rw [State.setDgu_same, chargeLane_dgu]

theorem serveLane_served (u k : Nat) (s : State) : Served u k s (serveLane u k s) := by
  have htake : ∀ o : Option Nat, Served u k s (match o with | some l => takeLane u k l s | none => s) := by
    rintro (- | l)
    · exact .refl ..
    · exact takeLane_served ..
  unfold serveLane
  dsimp only
  split
  · exact .refl ..
  · split
    · split
      · exact htake _
      · exact .refl ..
    · split
      · exact takeLane_served ..
      · split
        · exact .refl ..
        · split
          · exact .refl ..
          · exact preemptLane_served ..

theorem wantLane_served (u k : Nat) (s : State) : Served u k s (wantLane u k s) := by
  unfold wantLane
  dsimp only
  split
  · exact .refl ..
  · split
    · exact runWords_served ..
    · split
      · exact serveLane_served ..
      · refine Served.trans (.of_unit ?_ ?_ ?_) (serveLane_served ..) <;> rw [State.setDgu_same]

end Sys2Proof.Machine
end

section
/-!
PROOFS. The context port of a digest unit, its lanes, and the alarm of the root of trust (O28).
-/

namespace Sys2Proof.Machine

/-! ## A message fails (R317, R319, R322) -/

theorem failCtxCmp_ctx (u k dt : Nat) (cmp : BitVec 2) (s : State) :
    (failCtxCmp u k dt cmp s).ctx u k = { blankCtx (s.ctx u k) with st := .failed, detail := dt, cmp := cmp } :=
  (leaveLane_ctx ..).trans (State.setCtx_same ..)

/-- A message without a requester fails in silence. -/
theorem reportCtx_alone {x : Ctx} (hs : x.slot = none) (hf : x.frond = none) (st dt : Nat) (s : State) : reportCtx x st dt s = s := by
  unfold reportCtx
  rw [hs, hf]

/-! ## Data (R315, R317) -/

/-- Bytes that agree with the length are taken by the buffer, or held back. -/
theorem feedCtx_takes {u k : Nat} {d : List Byte} {fin : Bool} {s : State} (hst : (s.ctx u k).st = .active) (hl : (s.ctx u k).last = false)
    (hn : (s.ctx u k).fed.length + d.length ≤ (s.ctx u k).len) (hf : fin = true → (s.ctx u k).fed.length + d.length = (s.ctx u k).len) :
    feedCtx u k d fin s = s.setCtx u k { s.ctx u k with
      inbuf := (s.ctx u k).inbuf ++ d.take (if (s.ctx u k).held.isEmpty then 512 - (s.ctx u k).inbuf.length else 0),
      held := (s.ctx u k).held ++ d.drop (if (s.ctx u k).held.isEmpty then 512 - (s.ctx u k).inbuf.length else 0), last := fin } := by
  unfold feedCtx
  dsimp only
  have hlen : ¬((s.ctx u k).len < (s.ctx u k).fed.length + d.length ∨ fin = true ∧ (s.ctx u k).fed.length + d.length ≠ (s.ctx u k).len) := by
    rintro (h | ⟨h, h'⟩)
    · omega
    · exact h' (hf h)
  rw [if_neg (not_not_intro hst), if_neg hlen, if_neg (by rw [hl]; decide)]

/-- The buffer and what is held back are the bytes before and the new ones, in order. -/
theorem fed_buffered (x : Ctx) (d : List Byte) (b : Bool) : Ctx.fed { x with
      inbuf := x.inbuf ++ d.take (if x.held.isEmpty then 512 - x.inbuf.length else 0),
      held := x.held ++ d.drop (if x.held.isEmpty then 512 - x.inbuf.length else 0), last := b } = x.fed ++ d := by
  unfold Ctx.fed
  dsimp only
  cases hh : x.held with
  | nil => simp
  | cons a l => simp

section
variable {u k : Nat} {x : Ctx} {s : State} (hx : s.ctx u k = x)
include hx

/-- A write that the context takes: what it then holds, whatever lane it gets. -/
theorem afterWrite_fed {d : List Byte} {fin : Bool} (hst : x.st = .active) (hl : x.last = false) (hn : x.fed.length + d.length ≤ x.len)
    (hf : fin = true → x.fed.length + d.length = x.len) :
    ∃ t, afterWrite u k x (feedCtx u k d fin s) = t ∧ (t.ctx u k).fed = x.fed ++ d ∧
      t.ctx u k = { x with msg := (t.ctx u k).msg, inbuf := (t.ctx u k).inbuf, held := (t.ctx u k).held, last := fin } ∧
      ∀ j, j ≠ k → t.ctx u j = s.ctx u j := by
  subst hx
  rw [feedCtx_takes hst hl hn hf]
  have hfed := fed_buffered (s.ctx u k) d fin
  generalize hy : ({ s.ctx u k with inbuf := _, held := _, last := fin } : Ctx) = y at hfed ⊢
  have hyst : y.st = .active := by
    rw [← hy]
    exact hst
  have hfields : y = { s.ctx u k with msg := y.msg, inbuf := y.inbuf, held := y.held, last := fin } := by
    rw [← hy]
  refine ⟨_, rfl, ?_⟩
  unfold afterWrite
  dsimp only
  rw [State.setCtx_same, if_neg (by rw [hyst]; simp)]
  have h := wantLane_served u k (s.setCtx u k y)
  obtain ⟨hown, hothers, -, -⟩ := h
  rw [State.setCtx_same] at hown
  refine ⟨?_, ?_, fun j hj => (hothers j hj).trans (State.setCtx_ne _ _ fun he => hj (Prod.mk.inj he).2)⟩
  · obtain e | e := hown <;> rw [e]
    · exact hfed
    · exact y.ran_fed.trans hfed
  · obtain e | e := hown <;> rw [e]
    · exact hfields
    · unfold Ctx.ran
      rw [hfields]

end

/-! ## The port (R313, R315, R317, R319) -/

section
variable {u k acc : Nat} {s : State} (hu : u < 4) (hk : k < 64)
include hu hk

theorem digStart_onPort {cfg : W64} (hop : field cfg 1 0 = 1) (hi : (s.ctx u k).inst = acc) (hf : (s.ctx u k).st ≠ .free) :
    exec (.digStart u k acc cfg) s = .next (startCtx u k (field cfg 15 8) (field cfg 23 16) (field cfg 31 24) (field cfg 39 32)
      (field cfg 47 40) (leNat ((s.ctx u k).regs.read 0 8 8)) ((s.ctx u k).regs.read 0 0x100 128) ((s.ctx u k).regs.read 0 0x180 64)
      ((s.ctx u k).regs.read 0 0x40 64) s) :=
  (if_neg (not_not_intro hop)).trans (next_congr (onPort_own hu hk hi hf))

theorem digStart_starts {cfg : W64} (hst : (s.ctx u k).st = .opened ∨ (s.ctx u k).st = .done) (hi : (s.ctx u k).inst = acc)
    (hop : field cfg 1 0 = 1) (hbad : badCfg (field cfg 15 8) (field cfg 23 16) (field cfg 31 24) (field cfg 39 32) (field cfg 47 40)
      (leNat ((s.ctx u k).regs.read 0 8 8)) = false) : Does (.digStart u k acc cfg) s fun t =>
      (t.ctx u k).st = .active ∧ (t.ctx u k).func = field cfg 15 8 ∧ (t.ctx u k).msg = [] ∧ (t.ctx u k).last = false ∧
      (t.ctx u k).len = leNat ((s.ctx u k).regs.read 0 8 8) ∧ (t.ctx u k).cmplen = field cfg 47 40 := by
  refine Does.of (digStart_onPort hu hk hop hi (by obtain h | h := hst <;> simp [h])) ?_
  unfold startCtx
  dsimp only
  rw [if_neg (by obtain h | h := hst <;> simp [h]), if_neg (by rw [hbad]; decide), State.setCtx_same]
  exact ⟨rfl, rfl, rfl, rfl, rfl, rfl⟩

theorem digStart_order {cfg : W64} (hst : (s.ctx u k).st = .active ∨ (s.ctx u k).st = .failed) (hi : (s.ctx u k).inst = acc)
    (hop : field cfg 1 0 = 1) : Does (.digStart u k acc cfg) s fun t =>
      (t.ctx u k).st = .failed ∧ (t.ctx u k).detail = dtOrder ∧ (t.ctx u k).msg = [] ∧ (t.ctx u k).key = [] := by
  refine Does.of (digStart_onPort hu hk hop hi (by obtain h | h := hst <;> simp [h])) ?_
  unfold startCtx
  dsimp only
  rw [if_pos hst]
  rw [show (failCtx u k dtOrder s).ctx u k = _ from failCtxCmp_ctx ..]
  exact ⟨rfl, rfl, rfl, rfl⟩

theorem digClose_own (hf : (s.ctx u k).st ≠ .free) (hi : (s.ctx u k).inst = acc) : Does (.digClose u k acc) s fun t =>
    t.ctx u k = Ctx.free ∧ ∀ j, j ≠ k → t.ctx u j = s.ctx u j := by
  refine Does.of (next_congr (onPort_own hu hk hi hf)) ⟨(leaveLane_ctx ..).trans (State.setCtx_same ..), fun j hj => ?_⟩
  exact (leaveLane_ctx ..).trans (State.setCtx_ne _ _ fun he => hj (Prod.mk.inj he).2)

theorem digClose_other {x : Ctx} (hx : s.ctx u k = x) (hf : x.st ≠ .free) (hi : x.inst ≠ acc) :
    Does (.digClose u k acc) s fun t => t.ctx u k = x ∧ t.log.next = s.log.next + 1 := by
  subst hx
  exact Does.of (next_congr (onPort_other hu hk hi hf)) ⟨rfl, rfl⟩

section
variable {w : W64} {x : Ctx} (hx : s.ctx u k = x) (hst : x.st = .active) (hi : x.inst = acc)
include hx hst hi

theorem digData_onPort : exec (.digDataWrite u k acc w) s = .next (afterWrite u k x (feedCtx u k (leBytes w.toNat 8) false s)) := by
  subst hx
  exact next_congr (onPort_own hu hk hi (by rw [hst]; simp))

theorem digData_fed (hl : x.last = false) (hn : x.fed.length + 8 ≤ x.len) : Does (.digDataWrite u k acc w) s fun t =>
      (t.ctx u k).fed = x.fed ++ leBytes w.toNat 8 ∧
      t.ctx u k = { x with msg := (t.ctx u k).msg, inbuf := (t.ctx u k).inbuf, held := (t.ctx u k).held } ∧
      ∀ j, j ≠ k → t.ctx u j = s.ctx u j := by
  obtain ⟨t, e, hfed, hfields, hothers⟩ := afterWrite_fed (d := leBytes w.toNat 8) (fin := false) hx hst hl
    (by rw [leBytes_length]; exact hn) (by simp)
  refine ⟨t, (digData_onPort hu hk hx hst hi).trans (next_congr e), hfed, ?_, hothers⟩
  rw [hfields, ← hl]

/-- A word that finds the buffer full is held, and another message of the instance waits before it. -/
theorem digData_held {j : Nat} (hl : x.last = false) (hn : x.fed.length + 8 ≤ x.len) (hfull : x.inbuf.length = 512)
    (hlane : onLane s u k = false) (hj : j ≠ k) (hw : (s.dgu u).waiting.contains k = true)
    (hfirst : (s.dgu u).waiting.find? (fun j => (s.ctx u j).inst = x.inst) = some j) : Does (.digDataWrite u k acc w) s fun t =>
      t.ctx u k = { x with held := x.held ++ leBytes w.toNat 8 } ∧ (t.dgu u).lanes = (s.dgu u).lanes := by
  refine Does.of (digData_onPort hu hk hx hst hi) ?_
  subst hx
  rw [feedCtx_takes hst hl (by rw [leBytes_length]; exact hn) (by simp)]
  have hfree : (if (s.ctx u k).held.isEmpty then 512 - (s.ctx u k).inbuf.length else 0) = 0 := by
    rw [hfull]
    exact ite_self _
  rw [hfree, List.take_zero, List.append_nil, List.drop_zero]
  generalize hy : ({ s.ctx u k with inbuf := (s.ctx u k).inbuf, held := _, last := false } : Ctx) = y
  have hyx : y = { s.ctx u k with held := (s.ctx u k).held ++ leBytes w.toNat 8 } := by rw [← hy, ← hl]
  have hunit : (s.setCtx u k y).dgu u = { s.dgu u with ctxs := (s.dgu u).ctxs.set Ctx.free k y } := State.setDgu_same ..
  have hinst : ∀ i, ((s.setCtx u k y).ctx u i).inst = (s.ctx u i).inst := fun i => by
    obtain rfl | hne := eq_or_ne i k
    · rw [State.setCtx_same, hyx]
    · rw [State.setCtx_ne _ _ fun he => hne (Prod.mk.inj he).2]
  have hlane' : onLane (s.setCtx u k y) u k = false := by
    unfold onLane
    rw [hunit]
    exact hlane
  have hw' : ((s.setCtx u k y).dgu u).waiting.contains k = true := by
    rw [hunit]
    exact hw
  have hstays : afterWrite u k (s.ctx u k) (s.setCtx u k y) = s.setCtx u k y := by
    have hyst : y.st = .active := by
      rw [hyx]
      exact hst
    unfold afterWrite wantLane serveLane
    dsimp only
    rw [State.setCtx_same, if_neg (by rw [hyst]; simp), if_neg (by rw [hyst]; simp), hlane', if_neg (by decide),
      if_pos hw']
    refine if_pos (.inr ?_)
    simp only [hinst]
    rw [hunit]
    dsimp only
    rw [hfirst]
    simpa using hj
  rw [hstays]
  exact ⟨(State.setCtx_same ..).trans hyx, by rw [hunit]⟩

theorem digLast_fed {n : Nat} (hl : x.last = false) (h1 : 1 ≤ n) (h8 : n ≤ 8) (hn : x.fed.length + n = x.len) :
    Does (.digLastWrite u k acc w n) s fun t => (t.ctx u k).fed = x.fed ++ leBytes w.toNat n ∧
      t.ctx u k = { x with
        msg := (t.ctx u k).msg, inbuf := (t.ctx u k).inbuf, held := (t.ctx u k).held, last := true } ∧
      ∀ j, j ≠ k → t.ctx u j = s.ctx u j := by
  obtain ⟨t, e, ht⟩ := afterWrite_fed (d := leBytes w.toNat n) (fin := true) hx hst hl
    (by rw [leBytes_length]; exact hn.le) (fun _ => by rw [leBytes_length]; exact hn)
  refine ⟨t, ?_, ht⟩
  subst hx
  refine next_congr ((onPort_own hu hk hi (by rw [hst]; simp)).trans ?_)
  dsimp only
  rw [if_neg (by omega)]
  exact e

theorem digLast_length {n : Nat} (hs : x.slot = none) (hf : x.frond = none) (h1 : 1 ≤ n) (h8 : n ≤ 8)
    (hn : x.fed.length + n ≠ x.len) :
    Does (.digLastWrite u k acc w n) s fun t => (t.ctx u k).st = .failed ∧ (t.ctx u k).detail = dtLength := by
  subst hx
  have hfeed : feedCtx u k (leBytes w.toNat n) true s = failCtx u k dtLength s := by
    unfold feedCtx
    dsimp only
    rw [if_neg (not_not_intro hst), leBytes_length]
    exact if_pos (.inr ⟨rfl, hn⟩)
  have hctx : (failCtx u k dtLength s).ctx u k = { blankCtx (s.ctx u k) with st := .failed, detail := dtLength, cmp := 0 } :=
    failCtxCmp_ctx ..
  have hafter : afterWrite u k (s.ctx u k) (failCtx u k dtLength s) = failCtx u k dtLength s := by
    unfold afterWrite
    dsimp only
    rw [hctx]
    exact (if_pos ⟨rfl, by rw [hst]; simp⟩).trans (reportCtx_alone hs hf _ _ _)
  refine Does.of (t := failCtx u k dtLength s) (next_congr ((onPort_own hu hk hi (by rw [hst]; simp)).trans ?_)) ?_
  · dsimp only
    rw [if_neg (by omega), hfeed, hafter]
  · rw [hctx]
    exact ⟨rfl, rfl⟩

end

end

/-! ## The end of a message (R318, R321, R322) -/

/-- A finished message is counted; the contexts, the lanes and the bytes are as before. -/
theorem countDigest_unit (u i : Nat) (bad : Bool) (s : State) : ∃ m c, (countDigest u i bad s).dgu u =
    { s.dgu u with msgs := (s.dgu u).msgs + 1, mismatch := m, instCnt := c } := by
  unfold countDigest addDgu
  dsimp only
  rw [State.setDgu_same, State.setDgu_same, State.setDgu_same]
  exact ⟨_, _, rfl⟩

section
variable {u k : Nat} {g : Option Bool} {x : Ctx} {s : State} (hu : u < 4) (hx : s.ctx u k = x) (hst : x.st = .active) (hl : x.last = true)
  (hlane : onLane s u k = true)
include hu hx hst hl hlane

theorem digFinish_open : ¬(4 ≤ u ∨ (s.ctx u k).st ≠ .active ∨ (!(s.ctx u k).last) = true ∨ (!onLane s u k) = true) := by
  rw [hx, hl, hlane, hst]
  simp [hu]

theorem digFinish_done (hs : x.slot = none) (hc : x.cmplen = 0 ∨ upsetCmp g (cmpOf (ctxOutput x) x.expect x.cmplen) = 1) :
    Does (.digFinish u ⟨k, g⟩) s fun t =>
      (t.ctx u k).st = .done ∧ (t.ctx u k).out = ctxOutput x ∧ (t.ctx u k).msg = [] ∧ (t.ctx u k).key = [] ∧
      (t.ctx u k).cmp = (if x.cmplen = 0 then 0 else 1) ∧ onLane t u k = false ∧
      (t.dgu u).msgs = (s.dgu u).msgs + 1 ∧ (t.dgu u).bytes = (s.dgu u).bytes := by
  have hcmp : (if x.cmplen = 0 then 0 else upsetCmp g (cmpOf (ctxOutput x) x.expect x.cmplen)) = if x.cmplen = 0 then 0 else 1 := by
    obtain h | h := hc
    · rw [if_pos h, if_pos h]
    · rw [h]
  have hbad : (decide (x.cmplen ≠ 0) && decide ((if x.cmplen = 0 then (0 : BitVec 2) else 1) ≠ 1)) = false := by
    by_cases h : x.cmplen = 0 <;> simp [h]
  show ∃ t, execDigFinish u ⟨k, g⟩ s = .next t ∧ _
  unfold execDigFinish
  dsimp only
  rw [if_neg (digFinish_open hu hx hst hl hlane), hx, hcmp, hbad]
  rw [if_neg (by decide), hs]
  obtain ⟨m, c, e⟩ := countDigest_unit u x.inst false s
  refine ⟨_, rfl, ?_⟩
  rw [leaveLane_ctx, State.setCtx_same, leaveLane_onLane, leaveLane_unit]
  unfold State.setCtx
  rw [State.setDgu_same, chargeLane_dgu, e]
  exact ⟨rfl, rfl, rfl, rfl, rfl, rfl, rfl, rfl⟩

theorem digFinish_fails (hn : x.cmplen ≠ 0) (hs : x.slot = none) (hf : x.frond = none)
    (hc : upsetCmp g (cmpOf (ctxOutput x) x.expect x.cmplen) ≠ 1) : Does (.digFinish u ⟨k, g⟩) s fun t =>
      (t.ctx u k).st = .failed ∧ (t.ctx u k).cmp = upsetCmp g (cmpOf (ctxOutput x) x.expect x.cmplen) ∧
      (t.ctx u k).detail = cmpDetail (t.ctx u k).cmp ∧ (t.ctx u k).out = [] ∧ (t.ctx u k).msg = [] := by
  have hbad : (decide (x.cmplen ≠ 0) && decide (upsetCmp g (cmpOf (ctxOutput x) x.expect x.cmplen) ≠ 1)) = true := by
    rw [decide_eq_true hn, decide_eq_true hc]
    rfl
  show ∃ t, execDigFinish u ⟨k, g⟩ s = .next t ∧ _
  unfold execDigFinish
  dsimp only
  rw [if_neg (digFinish_open hu hx hst hl hlane), hx, if_neg hn, hbad]
  rw [if_pos rfl, reportCtx_alone hs hf]
  refine ⟨_, rfl, ?_⟩
  rw [failCtxCmp_ctx]
  exact ⟨rfl, rfl, rfl, rfl, rfl⟩

end

/-! ## Lanes (R316, R324 to R326) -/

theorem takeLane_eq (u k l : Nat) (s : State) : takeLane u k l s = runWords u k (s.setDgu u { s.dgu u with
    lanes := (s.dgu u).lanes.set none l (some (k, s.time)), waiting := (s.dgu u).waiting.filter (· ≠ k) }) := rfl

theorem laneGrant_does {u k l : Nat} {x : Ctx} {s : State} (hu : u < 4) (hx : s.ctx u k = x) (hf : (s.dgu u).fault = false)
    (hstrict : (s.dgu u).strict = false) (hst : x.st = .active) (hlane : onLane s u k = false)
    (hw : (s.dgu u).waiting.find? (fun j => (s.ctx u j).inst = x.inst) = some k) (hfree : freeLane s u = some l) :
    Does (.dguLaneGrant u k) s fun t => t.ctx u k = { x with msg := x.fed, inbuf := [], held := [] } ∧
      (x.last = true → (t.dgu u).lanes.get none l = some (k, s.time)) ∧ (x.last = false → onLane t u k = false) ∧
      k ∉ (t.dgu u).waiting ∧ (t.dgu u).bytes = (s.dgu u).bytes + BitVec.ofNat 64 (x.inbuf.length + x.held.length) := by
  subst hx
  have htake : exec (.dguLaneGrant u k) s = .next (takeLane u k l s) := by
    refine (if_neg (by simp [hu, hst, hlane])).trans (next_congr ?_)
    unfold serveLane
    dsimp only
    rw [if_neg (by simp only [hf, hw]; simp), hstrict, if_neg (by decide), hfree]
  refine Does.of htake ?_
  rw [takeLane_eq]
  generalize hv : s.setDgu u { s.dgu u with
    lanes := (s.dgu u).lanes.set none l (some (k, s.time)), waiting := (s.dgu u).waiting.filter (· ≠ k) } = v
  have hunit : v.dgu u = { s.dgu u with
      lanes := (s.dgu u).lanes.set none l (some (k, s.time)), waiting := (s.dgu u).waiting.filter (· ≠ k) } := hv ▸ State.setDgu_same ..
  have hctx : v.ctx u k = s.ctx u k := ctx_of_ctxs (by rw [hunit]) k
  obtain ⟨c, e⟩ := wordsRun_unit u k v
  rw [hunit, hctx] at e
  have hgone : k ∉ (s.dgu u).waiting.filter (· ≠ k) := fun h => absurd (List.mem_filter.mp h).2 (by simp)
  refine ⟨(runWords_ctx ..).trans (by rw [hctx]; rfl), fun h => ?_, fun h => ?_, ?_, ?_⟩
  · rw [runWords_eq, hctx, if_pos h, e]
    exact Tbl.get_set_same none (s.dgu u).lanes l (some (k, s.time))
  · rw [runWords_eq, hctx, if_neg (by rw [h]; decide)]
    exact leaveLane_onLane ..
  · rw [runWords_eq]
    split
    · rw [e]
      exact hgone
    · rw [leaveLane_unit, e]
      exact fun h => absurd (List.mem_filter.mp h).2 (by simp)
  · rw [runWords_eq]
    split
    · rw [e]
    · rw [leaveLane_unit, e]

theorem enterDgu_unit (u : Nat) (s : State) : (enterDgu u s).dgu u = { s.dgu u with strict := isStrict s } := by
  unfold enterDgu
  split
  · next h => rw [← h]
  · exact State.setDgu_same ..

theorem dguQuantum_strict {u : Nat} {s : State} (hu : u < 4) (hs : isStrict s = true) : Does (.dguQuantumExpiry u) s fun t =>
    (t.dgu u).quantum = ((s.dgu u).quantum + 1) % 16 ∧ (t.dgu u).strict = true := by
  have hunit := enterDgu_unit u s
  rw [hs] at hunit
  show ∃ t, execDguQuantumExpiry u s = .next t ∧ _
  unfold execDguQuantumExpiry
  dsimp only
  generalize enterDgu u s = v at hunit
  refine ⟨_, if_neg (by rw [hunit]; simp [hu]), ?_⟩
  generalize hw : forEach (chargeLane u) _ v = w
  have hdgu : w.dgu u = v.dgu u := by
    rw [← hw]
    exact forEach_keeps (P := fun t : State => t.dgu u = v.dgu u) (fun b _ t ht => (chargeLane_dgu u b u t).trans ht) rfl
  rw [hdgu, hunit]
  generalize hz : w.setDgu u _ = z
  have hzu : (z.dgu u).quantum = ((s.dgu u).quantum + 1) % 16 ∧ (z.dgu u).strict = true := by
    rw [← hz, State.setDgu_same]
    exact ⟨rfl, rfl⟩
  refine forEach_keeps (P := fun t : State => (t.dgu u).quantum = ((s.dgu u).quantum + 1) % 16 ∧ (t.dgu u).strict = true)
    (fun b _ t ht => ?_) hzu
  have h := serveLane_served u b t
  exact ⟨h.quantum.trans ht.1, h.strict.trans ht.2⟩

theorem dguQuantum_idle {u : Nat} {s : State} (hs : isStrict s = false) (hst : (s.dgu u).strict = false) :
    exec (.dguQuantumExpiry u) s = .next s := by
  show execDguQuantumExpiry u s = _
  unfold execDguQuantumExpiry
  have h : enterDgu u s = s := if_pos (hst.trans hs.symm)
  rw [h]
  exact if_pos (.inr (by rw [hst]; rfl))

/-! ## The alarm of the root of trust (R323, R547) -/

theorem alarmUnit_alarms (n u : Nat) (s : State) : (alarmUnit n u s).sec = s.sec ∧ ((alarmUnit n u s).dgu u).alarm = true ∧
    (∀ v, v ≠ u → ((alarmUnit n u s).dgu v).alarm = (s.dgu v).alarm) ∧
    (alarmUnit n u s).log.entries.head?.map (fun e => (e.code, e.detail)) = some (0x0405, BitVec.ofNat 32 n) := by
  have h := (Alarms.refl s).alarmCtxs (u := u)
  unfold alarmUnit
  dsimp only
  generalize alarmCtxs u s = v at h
  refine ⟨h.sec, ?_, fun j hj => ?_, rfl⟩
  · show ((v.setDgu u _).dgu u).alarm = true
    rw [State.setDgu_same]
  · show ((v.setDgu u _).dgu j).alarm = _
    rw [State.setDgu_ne _ _ _ _ hj, h.alarm]

theorem alarmUnits_alarms (n m : Nat) (s : State) : (forBelow (alarmUnit n) m s).sec = s.sec ∧
    ∀ u, u < m → ((forBelow (alarmUnit n) m s).dgu u).alarm = true := by
  induction m with
  | zero => exact ⟨rfl, fun u hu => absurd hu (Nat.not_lt_zero u)⟩
  | succ m ih =>
    obtain ⟨hsec, hown, hothers, -⟩ := alarmUnit_alarms n m (forBelow (alarmUnit n) m s)
    refine ⟨hsec.trans ih.1, fun u hu => ?_⟩
    obtain rfl | hne := eq_or_ne u m
    · exact hown
    · exact (hothers u hne).trans (ih.2 u (by omega))

theorem alarmUnits_log (n m : Nat) (s : State) :
    (forBelow (alarmUnit n) (m + 1) s).log.entries.head?.map (fun e => (e.code, e.detail)) = some (0x0405, BitVec.ofNat 32 n) := by
  obtain ⟨-, -, -, hlog⟩ := alarmUnit_alarms n m (forBelow (alarmUnit n) m s)
  exact hlog

theorem rotAlarm_does {n : Nat} {s : State} (hn : n ≤ 3) : Does (.rotAlarm n) s fun t => (∀ u, u < 4 → (t.dgu u).alarm = true) ∧
    t.sec.signQ = [] ∧ t.log.entries.head?.map (fun e => (e.code, e.detail)) = some (0x0405, BitVec.ofNat 32 n) := by
  refine Does.of (if_neg (by omega)) ?_
  unfold rotAlarm
  dsimp only
  generalize hv : dropSigning _ = v
  have hq : v.sec.signQ = [] := hv ▸ rfl
  generalize hw : (if v.sec.tokenSt = .busy then endToken .error 0x13 v else v) = w
  have hwq : w.sec.signQ = [] := by
    rw [← hw]
    split
    · exact hq
    · exact hq
  obtain ⟨hsec, halarm⟩ := alarmUnits_alarms n 4 w
  exact ⟨halarm, by rw [hsec]; exact hwq, alarmUnits_log n 3 w⟩

end Sys2Proof.Machine

namespace Sys2Proof

open Machine

/-- Settles O28: a lane changes only how the bytes of a message are held, and the alarms of the units survive the clearing of contexts. -/
theorem digestContexts : Obligations.DigestContexts := by
  unfold Obligations.DigestContexts
  exact ⟨fun u k acc cfg s hu hk hst hi hop hbad => digStart_starts hu hk hst hi hop hbad,
    fun u k acc cfg s hu hk hst hi hop => digStart_order hu hk hst hi hop,
    fun u k acc w x s hu hk hx hst hi hl hn => digData_fed hu hk hx hst hi hl hn,
    fun u k acc w j x s hu hk hx hst hi hl hn hfull hlane hj hw hfirst => digData_held hu hk hx hst hi hl hn hfull hlane hj hw hfirst,
    fun u k acc w n x s hu hk hx hst hi hl h1 h8 hn => digLast_fed hu hk hx hst hi hl h1 h8 hn,
    fun u k acc w n x s hu hk hx hst hi _ hs hf h1 h8 hn => digLast_length hu hk hx hst hi hs hf h1 h8 hn,
    fun u k acc x s hu hk hx hf hi => digClose_other hu hk hx hf hi, fun u k acc s hu hk hf hi => digClose_own hu hk hf hi,
    fun u k g x s hu hx hst hl hs hlane hc => digFinish_done hu hx hst hl hlane hs hc,
    fun u k g x s hu hx hst hl hn hs hf hc hlane => digFinish_fails hu hx hst hl hlane hn hs hf hc,
    fun u k l x s hu hx hf hstrict hst hlane hw hfree => laneGrant_does hu hx hf hstrict hst hlane hw hfree,
    fun u s hu hs => dguQuantum_strict hu hs, fun u s _ hs hst => dguQuantum_idle hs hst, fun n s hn => rotAlarm_does hn⟩

end Sys2Proof
end

section
/-!
PROOFS. The ready lists: putting work on them, taking it off and choosing from them change only the dispatcher and the free values taken.
-/

namespace Sys2Proof.Machine

/-- From s to t only the dispatcher and the position in the free values differ. -/
def DispOnly (s t : State) : Prop := t = { s with seed := t.seed, disp := t.disp }

theorem DispOnly.refl (s : State) : DispOnly s s := rfl

theorem DispOnly.trans {s t v : State} (h : DispOnly s t) (h' : DispOnly t v) : DispOnly s v := by
  unfold DispOnly at *
  rw [h', h]

theorem DispOnly.forEach {β : Type} {f : β → State → State} (hf : ∀ b t, DispOnly t (f b t)) (l : List β) (s : State) :
    DispOnly s (forEach f l s) := forEach_keeps (P := DispOnly s) (fun b _ t ht => ht.trans (hf b t)) (.refl s)

theorem addCursor_disp (slot pipe : Nat) (kind : WorkKind) (cls : Nat) (s : State) : DispOnly s (addCursor slot pipe kind cls s) := by
  unfold addCursor
  split
  · exact .refl s
  · split
    · exact .refl s
    · exact rfl

theorem dropCursor_disp (slot pipe : Nat) (kind : WorkKind) (s : State) : DispOnly s (dropCursor slot pipe kind s) := rfl

theorem turnCursor_disp (l : Nat) (x : Cursor) (left : Nat) (s : State) : DispOnly s (turnCursor l x left s) := rfl

theorem countWait_disp (level i since : Nat) (s : State) : DispOnly s (countWait level i since s) := rfl

theorem choose_disp {α : Type} (l : List α) (s : State) : DispOnly s (s.choose l).2 := by
  unfold State.choose
  split <;> exact rfl

theorem setDeficit_disp (cls i : Nat) (x : Int) (s : State) : DispOnly s (setDeficit cls i x s) := rfl

theorem fillDeficits_disp (cls : Nat) (l : List Nat) (s : State) : DispOnly s (fillDeficits cls l s) := by
  unfold fillDeficits
  extract_lets idle t n
  have ht : DispOnly s t := .forEach (fun i v => setDeficit_disp cls i 0 v) idle s
  split
  · exact ht
  · exact ht.trans (.forEach (fun i v => setDeficit_disp ..) l t)

theorem chooseHeavy_disp (cls : Nat) (l : List Nat) (s : State) : DispOnly s (chooseHeavy cls l s).2 := by
  unfold chooseHeavy
  dsimp only
  have h := fillDeficits_disp cls l s
  generalize fillDeficits cls l s = t at h
  split
  · exact h
  · exact h.trans rfl

theorem chooseCursor_disp (cls : Nat) (l : List Choice) (s : State) : DispOnly s (chooseCursor cls l s).2 := by
  unfold chooseCursor
  extract_lets top l insts heavy
  have hr : DispOnly s (if heavy.isEmpty then s.choose insts else chooseHeavy cls heavy s).2 := by
    split
    · exact choose_disp ..
    · exact chooseHeavy_disp ..
  generalize (if heavy.isEmpty then s.choose insts else chooseHeavy cls heavy s) = p at hr
  split <;> exact hr

end Sys2Proof.Machine
end

section
/-!
PROOFS. DIGEST and DIGEST_VERIFY: their start, their contexts and the extent reads that they wait for (O27).
-/

namespace Sys2Proof.Machine

/-! ## Start (R327) -/

section
variable {k : Nat} {c : Cmd} {s : State}

theorem runDigest_bad {st : Nat} (hc : s.cmd k = some c) (ho : c.outcome = none) (hd : digestDesc c = some st) :
    ((runDigest k c s).cmd k).map (·.outcome) = some (some st) := by
  unfold runDigest
  rw [hd]
  exact failCmd_outcome hc ho

theorem modDigest_of (hc : s.cmd k = some c) (f : DigestRun → DigestRun) :
    modDigest k f s = s.setCmd k (some { c with work := .digest (f (digestRun c)) }) := State.modCmd_of hc _

theorem runDigest_next (hc : s.cmd k = some c) (hd : digestDesc c = none) (hsrc : c.dSrc ≠ 2) :
    runDigest k c s = digestNext k (s.setCmd k (some { c with work := .digest (digestRun c) })) := by
  unfold runDigest
  rw [hd]
  dsimp only
  rw [if_neg hsrc, modDigest_of hc]
  rfl

/-- The command runs and waits on its ready list. -/
theorem openDigest_does (hc : s.cmd k = some c) : (openDigest k s).cmd k = some { c with phase := .running } ∧
    (openDigest k s).eng.digOpens = s.eng.digOpens.filter (· ≠ k) ++ [k] := by
  unfold openDigest
  have h : DispOnly (setPhase k .running s) (addCursor k 0 .digOpen 2 (dropCursor k 0 .digOpen (setPhase k .running s))) :=
    (dropCursor_disp ..).trans (addCursor_disp ..)
  have hp : setPhase k .running s = s.setCmd k (some { c with phase := .running }) := State.modCmd_of hc _
  rw [hp] at h ⊢
  generalize addCursor k 0 .digOpen 2 _ = t at h
  rw [h]
  exact ⟨State.setCmd_same s k _, rfl⟩

theorem digest_opens (h : Handed k 0x20 c s) (hd : digestDesc c = none) (hsrc : c.dSrc ≠ 2) (hk : keyed c.dFunc = false) :
    Does (.digest k) s fun t => t.cmd k = some { c with phase := .running, work := .digest (digestRun c) } ∧
      t.eng.digOpens = s.eng.digOpens.filter (· ≠ k) ++ [k] := by
  have hnext : digestNext k (s.setCmd k (some { c with work := .digest (digestRun c) })) =
      openDigest k (s.setCmd k (some { c with work := .digest (digestRun c) })) := by
    unfold digestNext
    rw [State.setCmd_same]
    refine (if_neg fun hkey => ?_).trans (if_neg fun hopc => ?_)
    · exact absurd (hk.symm.trans hkey.1) (by decide)
    · exact absurd (h.opcode.symm.trans hopc.1) (by decide)
  refine Does.of (next_congr ((onHanded_runs h _).trans ((runDigest_next h.holds hd hsrc).trans hnext))) ?_
  exact openDigest_does (State.setCmd_same s k _)

theorem digestVerify_asks (h : Handed k 0x21 c s) (hd : digestDesc c = none) (hsrc : c.dSrc ≠ 2) (hk : keyed c.dFunc = false)
    (he : (digestRun c).expected = []) (hp : (s.hostPort (s.sq c.inst c.sq).port).up = true) : Does (.digestVerify k) s fun t =>
      t.cmd k = some { c with phase := .hostRead, work := .digest (digestRun c) } ∧
      t.out.host = s.out.host ++ [.read (s.sq c.inst c.sq).port c.inst c.addr1 ((outLength c.dFunc c.dOut).getD 0)] := by
  generalize hc' : ({ c with work := .digest (digestRun c) } : Cmd) = c'
  have hnext : digestNext k (s.setCmd k (some c')) =
      askHost k c' c.addr1 ((outLength c.dFunc c.dOut).getD 0) (s.setCmd k (some c')) := by
    unfold digestNext
    rw [State.setCmd_same, ← hc']
    refine (if_neg fun hkey => ?_).trans (if_pos ⟨h.opcode, ?_⟩)
    · exact absurd (hk.symm.trans hkey.1) (by decide)
    · show (digestRun c).expected.isEmpty = true
      rw [he]
      rfl
  obtain ⟨t, e, ht, hout⟩ := askHost_up (c := c') (a := c.addr1) (n := (outLength c.dFunc c.dOut).getD 0)
    (State.setCmd_same s k (some c')) (by rw [← hc']; exact hp)
  refine Does.of (t := t) (next_congr ((onHanded_runs h _).trans ((runDigest_next h.holds hd hsrc).trans ?_))) ?_
  · rw [hc', hnext, e]
  · rw [ht, hout, ← hc']
    exact ⟨rfl, rfl⟩

end

/-! ## Contexts (R289, R313) -/

/-- The request of a frond's runtime joins its ready list. -/
theorem askContext_kept (f : Nat) (s : State) : (askContext f s).fronds = s.fronds ∧ (askContext f s).eng.dgu = s.eng.dgu := by
  unfold askContext
  split
  · exact ⟨rfl, rfl⟩
  · split
    · exact ⟨rfl, rfl⟩
    · have h := addCursor_disp ‹ItemRef›.slot f .digFrond 2 s
      rw [h]
      exact ⟨rfl, rfl⟩

section
variable {u l k : Nat} {x : Cursor} {s w : State}

theorem serveOpen_frond (hch : chooseCursor 2 (candidates s 2 (openEligible s u)) s = (some (l, x), w)) (hx : x.kind = .digFrond)
    (hk : slotFor w u (w.disp.lists.get ReadyList.free l).inst = some k) :
    ∃ v, serveOpen u s = openCtx u k (w.disp.lists.get ReadyList.free l).inst none (some x.pipe) v ∧ v.fronds = w.fronds ∧ v.eng.dgu = w.eng.dgu := by
  unfold serveOpen
  rw [hch]
  dsimp only
  rw [hk]
  dsimp only
  rw [if_pos hx]
  exact ⟨_, rfl, rfl, rfl⟩

theorem serveOpen_cmd {r : ReadyList} (hch : chooseCursor 2 (candidates s 2 (openEligible s u)) s = (some (l, x), w)) (hx : x.kind = .digOpen)
    (hr : w.disp.lists.get ReadyList.free l = r) (hk : slotFor w u r.inst = some k) :
    serveOpen u s = startDigest x.slot u k (openCtx u k r.inst (some x.slot) none
      (let v := turnCursor l x 0 (countWait r.level r.inst x.since w)
       { v with eng := { v.eng with digOpens := v.eng.digOpens.filter (· ≠ x.slot) } })) := by
  unfold serveOpen
  rw [hch]
  dsimp only
  rw [hr, hk]
  dsimp only
  rw [if_neg (by rw [hx]; decide), if_neg (by rw [hx]; decide)]

theorem contextOpen_frond {f : Fin 128} (hu : u < 4)
    (hch : chooseCursor 2 (candidates (askContext f.val s) 2 (openEligible (askContext f.val s) u)) (askContext f.val s) = (some (l, x), w))
    (hx : x.kind = .digFrond) (hk : slotFor w u (w.disp.lists.get ReadyList.free l).inst = some k) :
    Does (.digContextOpen u (some f)) s fun t =>
      t.ctx u k = { Ctx.free with
        st := .opened, inst := (w.disp.lists.get ReadyList.free l).inst, slot := none, frond := some x.pipe } ∧
      t.fronds = s.fronds ∧ ∀ v j, (v, j) ≠ (u, k) → t.ctx v j = s.ctx v j := by
  obtain ⟨v, e, hf, hd⟩ := serveOpen_frond hch hx hk
  obtain ⟨hf', hd'⟩ := askContext_kept f.val s
  have hw : w = { askContext f.val s with seed := w.seed, disp := w.disp } := by
    have h := chooseCursor_disp 2 (candidates (askContext f.val s) 2 (openEligible (askContext f.val s) u)) (askContext f.val s)
    rw [hch] at h
    exact h
  have hfronds : v.fronds = s.fronds := hf.trans ((congrArg State.fronds hw).trans hf')
  have hdgu : v.eng.dgu = s.eng.dgu := hd.trans ((congrArg (fun s : State => s.eng.dgu) hw).trans hd')
  refine Does.of ((if_neg (by omega)).trans (next_congr e)) ⟨State.setCtx_same .., hfronds, fun a j hne => ?_⟩
  refine (State.setCtx_ne v _ hne).trans (ctx_of_ctxs ?_ j)
  unfold State.dgu
  rw [hdgu]

end

/-! ## Extent reads (R408, R425) -/

section
variable {id : Nat} {n : Nvme} {s : State} (hn : s.store.nvme.find? (fun n => decide (n.id = id) && decide (n.kind = .extRead)) = some n)
include hn

theorem extentRead_passes {o : StoreObj} {k : Nat} {d : List Byte} (ho : nvmeObj s n = some o) (hd : extentPasses o n.ext n.ver d = true)
    (hh : n.heal = false) (hs : n.slot = some k) : exec (.extentReadDone id (some d)) s =
      .next (readsDone k (fillSnap k n.obj n.ext d (dropNvme n (s.setSsd n.port { s.ssd n.port with failCount := 0 })))) := by
  show execExtentReadDone id (some d) s = _
  unfold execExtentReadDone
  rw [hn]
  dsimp only
  rw [ho]
  dsimp only
  rw [hd, if_neg (by decide), hs]
  dsimp only
  unfold healCopy
  rw [hh]
  rfl

theorem extentRead_retries (ht : n.tries < 2) : Does (.extentReadDone id none) s fun t => t.store.nvme =
    s.store.nvme.map fun x => if x.id = n.id then { x with tries := n.tries + 1, sentAt := s.time } else x := by
  have h : exec (.extentReadDone id none) s = .next (nvmeError n s) := by
    show execExtentReadDone id none s = _
    unfold execExtentReadDone
    rw [hn]
  refine Does.of h ?_
  unfold nvmeError
  rw [if_pos ht]

end

end Sys2Proof.Machine

namespace Sys2Proof

open Machine

/-- Settles O27: the ready lists change only the dispatcher, so the request chosen finds its slot as it was. -/
theorem digestCommands : Obligations.DigestCommands := by
  unfold Obligations.DigestCommands
  exact ⟨fun k c st s h hd => Does.of (next_congr (onHanded_runs h _)) (runDigest_bad h.holds h.undecided hd),
    fun k c s h hd hsrc hk => digest_opens h hd hsrc hk, fun k c s h hd hsrc hk he hp => digestVerify_asks h hd hsrc hk he hp,
    fun u f l x k s w hu hch hx hk => contextOpen_frond hu hch hx hk,
    fun u l x k r s w hu hch hx hr hk => (if_neg (by omega)).trans (next_congr (serveOpen_cmd hch hx hr hk)),
    fun id n o k d s hn ho hd hh hs => extentRead_passes hn ho hd hh hs, fun id n s hn ht => extentRead_retries hn ht⟩

end Sys2Proof
end

section
/-!
PROOFS. An NVMe command that is given up changes no SSD.
-/

namespace Sys2Proof.Machine

/-- From s₀ to s every SSD is as it was. -/
structure SsdsKept (s₀ s : State) : Prop where
  time : s.time = s₀.time
  ssds : s.store.ssds = s₀.store.ssds

theorem SsdsKept.refl (s : State) : SsdsKept s s := ⟨rfl, rfl⟩

section
variable {s₀ s t : State}

/-- An update of the parts that `SsdsKept` does not name. -/
theorem SsdsKept.upd {pending seed fronds ring disp mem eng store insts mbx haw log mp pwr tel sec lnk pads out} (h : SsdsKept s₀ s)
    (h_ssds : store.ssds = s.store.ssds := by rfl) :
    SsdsKept s₀ { s with pending, seed, fronds, ring, disp, mem, eng, store, insts, mbx, haw, log, mp, pwr, tel, sec, lnk, pads, out } :=
  { h with
    ssds := h_ssds.trans h.ssds }

theorem SsdsKept.ite {c : Prop} [Decidable c] (h : SsdsKept s₀ s) (k : SsdsKept s₀ t) : SsdsKept s₀ (if c then s else t) := by
  split
  · exact h
  · exact k

theorem SsdsKept.forEach {β : Type} {f : β → State → State} {l : List β} (h : SsdsKept s₀ s)
    (hf : ∀ b t, SsdsKept s₀ t → SsdsKept s₀ (f b t)) : SsdsKept s₀ (Machine.forEach f l s) :=
  forEach_keeps (fun b _ t => hf b t) h

theorem SsdsKept.forBelow {f : Nat → State → State} {n : Nat} (h : SsdsKept s₀ s) (hf : ∀ b t, SsdsKept s₀ t → SsdsKept s₀ (f b t)) :
    SsdsKept s₀ (Machine.forBelow f n s) := by
  induction n with
  | zero => exact h
  | succ n ih => exact hf _ _ ih

theorem SsdsKept.foldl {β : Type} {f : State → β → State} {l : List β} (h : SsdsKept s₀ s) (hf : ∀ b t, SsdsKept s₀ t → SsdsKept s₀ (f t b)) :
    SsdsKept s₀ (l.foldl f s) := by
  induction l generalizing s with
  | nil => exact h
  | cons b l ih => exact ih (hf b s h)

theorem SsdsKept.forEachSnd {α β : Type} {f : β → α × State → α × State} {l : List β} {p : α × State} (h : SsdsKept s₀ p.2)
    (hf : ∀ b p, SsdsKept s₀ p.2 → SsdsKept s₀ (f b p).2) : SsdsKept s₀ (Machine.forEach f l p).2 := by
  induction l generalizing p with
  | nil => exact h
  | cons b l ih => exact ih (hf b p h)

theorem SsdsKept.foldlSnd {α β : Type} {f : α × State → β → α × State} {l : List β} {p : α × State} (h : SsdsKept s₀ p.2)
    (hf : ∀ b p, SsdsKept s₀ p.2 → SsdsKept s₀ (f p b).2) : SsdsKept s₀ (l.foldl f p).2 := by
  induction l generalizing p with
  | nil => exact h
  | cons b l ih => exact ih (hf b p h)

theorem SsdsKept.of_snd_snd {α β : Type} {p : α × β × State} {a : α} {b : β} (h : SsdsKept s₀ p.2.2) (e : p = (a, b, t)) : SsdsKept s₀ t := by
  rw [e] at h; exact h

/-- The state of a result. -/
theorem SsdsKept.of_snd {α : Type} {p : α × State} {a : α} (h : SsdsKept s₀ p.2) (e : p = (a, t)) : SsdsKept s₀ t := by
  rw [e] at h; exact h

end

end Sys2Proof.Machine
end

section
namespace Sys2Proof.Machine

section
-- Each of these short lemmas would else wait in a thread of its own.
set_option Elab.async false
variable {s₀ s t : State}

theorem SsdsKept.setInst {i : Nat} {x : Inst} (h : SsdsKept s₀ s) : SsdsKept s₀ (s.setInst i x) := h.upd

theorem SsdsKept.setSq {i n : Nat} {x : Sq} (h : SsdsKept s₀ s) : SsdsKept s₀ (s.setSq i n x) := h.upd

theorem SsdsKept.setCq {i n : Nat} {x : Cq} (h : SsdsKept s₀ s) : SsdsKept s₀ (s.setCq i n x) := h.upd

theorem SsdsKept.setCmd {k : Nat} {x : Option Cmd} (h : SsdsKept s₀ s) : SsdsKept s₀ (s.setCmd k x) := h.upd

theorem SsdsKept.modCmd {k : Nat} {f : Cmd → Cmd} (h : SsdsKept s₀ s) : SsdsKept s₀ (s.modCmd k f) := by
  unfold Machine.State.modCmd
  split
  · exact h
  · exact h.setCmd

theorem SsdsKept.setCmu {u : Nat} {x : CmuUnit} (h : SsdsKept s₀ s) : SsdsKept s₀ (s.setCmu u x) := h.upd

theorem SsdsKept.setSmu {u : Nat} {x : SmuUnit} (h : SsdsKept s₀ s) : SsdsKept s₀ (s.setSmu u x) := h.upd

theorem SsdsKept.setDgu {u : Nat} {x : DguUnit} (h : SsdsKept s₀ s) : SsdsKept s₀ (s.setDgu u x) := h.upd

theorem SsdsKept.setLink {l : Nat} {x : Link} (h : SsdsKept s₀ s) : SsdsKept s₀ (s.setLink l x) := h.upd

theorem SsdsKept.freshNat (h : SsdsKept s₀ s) : SsdsKept s₀ s.freshNat.2 := h.upd

theorem SsdsKept.freshWord (h : SsdsKept s₀ s) : SsdsKept s₀ s.freshWord.2 := h.upd

theorem SsdsKept.logOne {code src inst detail : Nat} (h : SsdsKept s₀ s) : SsdsKept s₀ (logOne code src inst detail s) := h.upd

theorem SsdsKept.logEvent {code src inst detail : Nat} {ext : Option Nat} (h : SsdsKept s₀ s) :
    SsdsKept s₀ (logEvent code src inst detail ext s) := by
  unfold Machine.logEvent
  split
  · exact h.logOne
  · exact h.logOne.logOne

theorem SsdsKept.addCounter {i k n : Nat} (h : SsdsKept s₀ s) : SsdsKept s₀ (addCounter i k n s) := .ite h h.setInst

theorem SsdsKept.setFrame {f : Nat} {x : Frame} (h : SsdsKept s₀ s) : SsdsKept s₀ (s.setFrame f x) := h.upd

theorem SsdsKept.onGrant {g : Grant} (h : SsdsKept s₀ s) : SsdsKept s₀ (onGrant g s) := by
  unfold Machine.onGrant
  split
  · exact h.upd
  · dsimp only
    split
    · exact .ite h.upd h.upd
    · exact .ite (.ite h.upd h.upd) (.setFrame (.ite h.upd h.upd))
  · exact h.setSmu
  · exact h.setCmu
  · exact .ite h.setLink h
  · exact h

theorem SsdsKept.dropWaitTimer {id : Nat} (h : SsdsKept s₀ s) : SsdsKept s₀ (dropWaitTimer id s) := h.upd

theorem SsdsKept.giveGrant {g : Grant} (h : SsdsKept s₀ s) : SsdsKept s₀ (giveGrant g s) := h.upd.dropWaitTimer.onGrant

theorem SsdsKept.grantQueue {a : List Grant} {a1 : List (Option Nat)} (h : SsdsKept s₀ s) : SsdsKept s₀ (grantQueue a a1 s) := by
  induction a generalizing a1 s with
  | nil =>
    unfold Machine.grantQueue
    exact h
  | cons b l ih =>
    unfold Machine.grantQueue
    dsimp only
    exact .ite (ih h) (.ite (ih h.upd.giveGrant) (.ite (ih h) (.ite (ih h) h)))

theorem SsdsKept.reinstate {a : List Grant} {a1 : List (Option Nat)} (h : SsdsKept s₀ s) : SsdsKept s₀ (reinstate a a1 s) := by
  induction a generalizing a1 s with
  | nil =>
    unfold Machine.reinstate
    exact h
  | cons b l ih =>
    unfold Machine.reinstate
    dsimp only
    exact .ite (ih h) (.ite (ih h.upd.onGrant) (.ite (ih h) h))

theorem SsdsKept.raiseSag {d : Nat} (h : SsdsKept s₀ s) : SsdsKept s₀ (raiseSag d s) := .ite h h.upd

theorem SsdsKept.examineGrants (h : SsdsKept s₀ s) : SsdsKept s₀ (examineGrants s) :=
  .grantQueue (.ite h (h.reinstate.forBelow (fun _ _ h1 => h1.raiseSag)))

theorem SsdsKept.chargeGrant {g : Grant} (h : SsdsKept s₀ s) : SsdsKept s₀ (chargeGrant g s) := by
  unfold Machine.chargeGrant
  split
  · exact h.addCounter
  · exact h

theorem SsdsKept.endGrant {id : Nat} (h : SsdsKept s₀ s) : SsdsKept s₀ (endGrant id s) := by
  unfold Machine.endGrant
  dsimp only
  have h1 : SsdsKept s₀ (Machine.forEach Machine.chargeGrant (s.pwr.grants.filter fun g => g.id = id) s) := h.forEach fun _ _ h =>
    h.chargeGrant
  exact (h1.upd).dropWaitTimer.examineGrants

theorem SsdsKept.countSmu {u i bytes jobs : Nat} (h : SsdsKept s₀ s) : SsdsKept s₀ (countSmu u i bytes jobs s) := h.setSmu

theorem SsdsKept.dropJobs {slot u : Nat} (h : SsdsKept s₀ s) : SsdsKept s₀ (dropJobs slot u s) :=
  .ite (h.forEach (fun _ _ h1 => .ite h1.freshNat.countSmu h1)) (.setSmu (h.forEach (fun _ _ h1 => .ite h1.freshNat.countSmu h1)))

theorem SsdsKept.openR0 {c : Cmd} (h : SsdsKept s₀ s) : SsdsKept s₀ (openR0 c s).2 := by
  unfold Machine.openR0
  split
  · dsimp only
    exact h
  · exact h.freshWord

theorem SsdsKept.dropCursors {slot : Nat} (h : SsdsKept s₀ s) : SsdsKept s₀ (dropCursors slot s) := h.upd

theorem SsdsKept.setCtx {u k : Nat} {x : Ctx} (h : SsdsKept s₀ s) : SsdsKept s₀ (s.setCtx u k x) := h.setDgu

theorem SsdsKept.leaveLane {u k : Nat} (h : SsdsKept s₀ s) : SsdsKept s₀ (leaveLane u k s) := h.setDgu

theorem SsdsKept.failCtxCmp {u k dt : Nat} {cmp : BitVec 2} (h : SsdsKept s₀ s) : SsdsKept s₀ (failCtxCmp u k dt cmp s) :=
  h.setCtx.leaveLane

theorem SsdsKept.failCtx {u k dt : Nat} (h : SsdsKept s₀ s) : SsdsKept s₀ (failCtx u k dt s) := h.failCtxCmp

theorem SsdsKept.clearCtx {u k : Nat} (h : SsdsKept s₀ s) : SsdsKept s₀ (clearCtx u k s) := h.failCtx.setDgu

theorem SsdsKept.logCleared {u : Nat} (h : SsdsKept s₀ s) : SsdsKept s₀ (logCleared u s) := by
  unfold Machine.logCleared
  exact h.freshNat.logEvent

theorem SsdsKept.clearLogged {u k : Nat} (h : SsdsKept s₀ s) : SsdsKept s₀ (clearLogged u k s) := h.clearCtx.logCleared

theorem SsdsKept.forCtxs {p : Ctx → Bool} {f : Nat → Nat → State → State} {u : Nat} (h : SsdsKept s₀ s)
    (hf : ∀ a a1 t, SsdsKept s₀ t → SsdsKept s₀ (f a a1 t)) :
    SsdsKept s₀ (forCtxs p f u s) := h.forEach (fun _ _ h1 => .ite (hf _ _ _ h1) h1)

theorem SsdsKept.stopDigests {slot : Nat} (h : SsdsKept s₀ s) : SsdsKept s₀ (stopDigests slot s) :=
  h.forBelow (fun _ _ h1 => h1.forCtxs (fun _ _ _ h2 => h2.failCtx))

theorem SsdsKept.endHolders {p : Holder → Bool} (h : SsdsKept s₀ s) : SsdsKept s₀ (endHolders p s) :=
  h.forEach fun _ _ h1 => h1.endGrant

theorem SsdsKept.stopWork {slot status : Nat} (h : SsdsKept s₀ s) : SsdsKept s₀ (stopWork slot status s) := by
  unfold Machine.stopWork
  dsimp only
  have h1 : SsdsKept s₀ (Machine.forBelow (Machine.dropJobs slot) 8 (Machine.dropCursors slot s)) := h.dropCursors.forBelow
    fun _ _ h1 => h1.dropJobs
  generalize Machine.forBelow (Machine.dropJobs slot) 8 (Machine.dropCursors slot s) = t at h1 ⊢
  exact .endHolders (.ite h1.upd (.stopDigests h1.upd))

theorem SsdsKept.fixRecord {c : Cmd} (h : SsdsKept s₀ s) : SsdsKept s₀ (fixRecord c s) := h.setSq

theorem SsdsKept.presentOutcome {slot st : Nat} {r0 : W64} (h : SsdsKept s₀ s) : SsdsKept s₀ (presentOutcome slot st r0 s) := by
  unfold Machine.presentOutcome
  split
  · exact h
  · exact .ite h (.ite h.setCmd.fixRecord h.setCmd.fixRecord.stopWork)

theorem SsdsKept.failCmd {slot st : Nat} (h : SsdsKept s₀ s) : SsdsKept s₀ (failCmd slot st s) := by
  unfold Machine.failCmd
  split
  · exact h
  · exact h.openR0.presentOutcome

theorem SsdsKept.recordFailure {slot st : Nat} {r0 : W64} (h : SsdsKept s₀ s) : SsdsKept s₀ (recordFailure slot st r0 s) := by
  unfold Machine.recordFailure
  split
  · exact h
  · exact .ite h h.setCmd.stopWork

theorem SsdsKept.endIfFailed {slot : Nat} (h : SsdsKept s₀ s) : SsdsKept s₀ (endIfFailed slot s) := by
  unfold Machine.endIfFailed
  split
  · exact h
  · split
    · exact .ite h h.presentOutcome
    · exact h

theorem SsdsKept.modObj {o : StoreObj} {f : StoreObj → StoreObj} (h : SsdsKept s₀ s) : SsdsKept s₀ (modObj o f s) := h.upd

theorem SsdsKept.sendNvme {n : Nvme} (h : SsdsKept s₀ s) : SsdsKept s₀ (sendNvme n s) := .ite h h.upd

theorem SsdsKept.dropNvme {n : Nvme} (h : SsdsKept s₀ s) : SsdsKept s₀ (dropNvme n s) := h.upd

theorem SsdsKept.extentBad {n : Nvme} (h : SsdsKept s₀ s) : SsdsKept s₀ (extentBad n s) := h.logEvent

theorem SsdsKept.extentLost {slot : Nat} {r0 : Option W64} {st : Nat} (h : SsdsKept s₀ s) :
    SsdsKept s₀ (extentLost slot r0 st s) := by
  unfold Machine.extentLost
  split
  · exact h
  · split
    · exact h.recordFailure.endIfFailed
    · exact h.failCmd
    · exact h.clearLogged.failCmd
    · exact h.failCmd

theorem SsdsKept.readLost {n : Nvme} {st : Nat} (h : SsdsKept s₀ s) : SsdsKept s₀ (readLost n st s) := by
  unfold Machine.readLost
  split
  · dsimp only
    split
    · exact h.dropNvme.extentBad
    · exact .ite h.dropNvme.extentBad.sendNvme (.extentLost (.ite h.dropNvme.extentBad.modObj h.dropNvme.extentBad))
  · dsimp only
    split
    · exact h.dropNvme.extentBad
    · exact .ite h.dropNvme.extentBad.sendNvme (.ite h.dropNvme.extentBad.modObj h.dropNvme.extentBad)

theorem SsdsKept.moveJournal {p : Nat} (h : SsdsKept s₀ s) : SsdsKept s₀ (moveJournal p s) := .ite h h.upd.upd.logEvent

theorem SsdsKept.loseQuery {slot : Nat} {c : Cmd} {r0 : W64} (h : SsdsKept s₀ s) : SsdsKept s₀ (loseQuery slot c r0 s) :=
  h.upd.modCmd

theorem SsdsKept.writeLost {p : Pub} {ext : Nat} (h : SsdsKept s₀ s) : SsdsKept s₀ (writeLost p ext s) := by
  unfold Machine.writeLost
  split
  · split
    · exact .ite h.loseQuery h.upd.failCmd
    · exact h.upd
  · split
    · exact h
    · exact .ite h h.modObj.logEvent

theorem SsdsKept.rePlace {n : Nvme} (h : SsdsKept s₀ s) : SsdsKept s₀ (rePlace n s) := by
  unfold Machine.rePlace
  split
  · dsimp only
    split
    · exact h.dropNvme
    · split
      · exact h.dropNvme
      · split
        · exact h.dropNvme.sendNvme
        · exact h.dropNvme.writeLost
  · dsimp only
    split
    · exact h.dropNvme
    · split
      · exact h.dropNvme
      · split
        · exact h.dropNvme.writeLost
        · exact h.dropNvme.writeLost

theorem SsdsKept.giveUp {n : Nvme} (h : SsdsKept s₀ s) : SsdsKept s₀ (giveUp n s) := by
  unfold Machine.giveUp
  split
  · exact h.readLost
  · exact h.rePlace
  · exact h.dropNvme

end

end Sys2Proof.Machine
end

section
/-!
PROOFS. NVMe commands, destage, the journal and the mounting of the table store (O26).
-/

namespace Sys2Proof.Machine

/-! ## NVMe commands (R425, R427) -/

section
variable {id : Nat} {n : Nvme} {s : State} (hn : s.store.nvme.find? (fun n => n.id = id) = some n)
include hn

theorem found_id : n.id = id := by simpa using List.find?_some hn

theorem nvmeCompletion_retries (ht : n.tries < 2) : Does (.nvmeCompletion id false) s fun t =>
    t = { s with store := { s.store with nvme := t.store.nvme } } ∧
    t.store.nvme = s.store.nvme.map fun x => if x.id = id then { x with tries := n.tries + 1, sentAt := s.time } else x := by
  have h : exec (.nvmeCompletion id false) s = .next (nvmeError n s) := by
    show execNvmeCompletion id false s = _
    unfold execNvmeCompletion
    rw [hn]
    rfl
  refine Does.of h ?_
  unfold nvmeError
  rw [if_pos ht, found_id hn]
  exact ⟨rfl, rfl⟩

theorem nvmeCompletion_rewritten (hk : n.kind = .rewrite) : Does (.nvmeCompletion id true) s fun t =>
    t.store.nvme = s.store.nvme.filter (fun x => x.id ≠ id) ∧ (t.ssd n.port).failCount = 0 := by
  have h : exec (.nvmeCompletion id true) s = .next (healed n (dropNvme n (s.setSsd n.port { s.ssd n.port with failCount := 0 }))) := by
    show execNvmeCompletion id true s = _
    unfold execNvmeCompletion
    rw [hn]
    dsimp only
    rw [if_neg (by decide), hk]
  refine Does.of h ?_
  generalize ht : dropNvme n (s.setSsd n.port { s.ssd n.port with failCount := 0 }) = t
  have hnvme : t.store.nvme = s.store.nvme.filter (fun x => x.id ≠ id) := by
    rw [← ht, ← found_id hn]
    rfl
  have hssd : (t.ssd n.port).failCount = 0 := by
    rw [← ht]
    exact congrArg Ssd.failCount (State.setSsd_same s n.port _)
  unfold healed
  split
  · exact ⟨hnvme, hssd⟩
  · split
    · exact ⟨hnvme, hssd⟩
    · exact ⟨hnvme, hssd⟩

theorem nvmeCompletion_written {p : Pub} (hk : n.kind = .extWrite) (hp : nvmePub s n = some p) (hh : p.hidden = false) :
    Does (.nvmeCompletion id true) s fun t => t.store.nvme = s.store.nvme.filter (fun x => x.id ≠ id) ∧
      t.store.pubs = s.store.pubs.map fun x => if x = p then
        { p with todo := p.todo.erase n.ext, places := p.places.filter (fun e => e.1 ≠ n.ext) ++ [(n.ext, n.port)] } else x := by
  have hpub : nvmePub (dropNvme n (s.setSsd n.port { s.ssd n.port with failCount := 0 })) n = some p := hp
  show ∃ t, execNvmeCompletion id true s = .next t ∧ _
  unfold execNvmeCompletion
  rw [hn]
  dsimp only
  rw [if_neg (by decide), hk]
  dsimp only
  rw [hpub]
  dsimp only
  generalize hq : ({ p with todo := _, places := _ } : Pub) = q
  rw [show p.hidden = false from hh]
  refine ⟨_, rfl, ?_, rfl⟩
  rw [← found_id hn]
  rfl

theorem nvmeTimeout_early (ht : s.time < n.sentAt + 2000000000) : exec (.nvmeTimeout id) s = .next s := by
  show execNvmeTimeout id s = _
  unfold execNvmeTimeout
  rw [hn]
  exact if_pos ht

theorem nvmeTimeout_fails (ht : n.sentAt + 2000000000 ≤ s.time) (hf : (s.ssd n.port).failed = false) :
    Does (.nvmeTimeout id) s fun t => (t.ssd n.port).failed = true := by
  have h : exec (.nvmeTimeout id) s = .next (failSsd n.port s) := by
    show execNvmeTimeout id s = _
    unfold execNvmeTimeout
    rw [hn]
    exact (if_neg (by omega)).trans (if_neg (by rw [hf]; decide))
  refine Does.of h ?_
  unfold failSsd
  rw [if_neg (by rw [hf]; decide)]
  dsimp only
  generalize hv : s.freshNat.2.setSsd n.port { s.freshNat.2.ssd n.port with failed := true } = v
  have hfailed : (v.ssd n.port).failed = true := by
    rw [← hv]
    exact congrArg Ssd.failed (State.setSsd_same s.freshNat.2 n.port _)
  generalize hw : moveJournal n.port _ = w
  have hk : SsdsKept v w := by
    rw [← hw]
    exact (SsdsKept.refl v).logEvent.moveJournal
  have hall := hk.forEach (l := w.store.nvme.filter fun x => x.port = n.port) fun x t (h : SsdsKept v t) => h.giveUp (n := x)
  unfold State.ssd at hfailed ⊢
  rw [hall.ssds]
  exact hfailed

end

/-! ## Destage (R424) -/

theorem destage_sends {p : Pub} {o : StoreObj} {k port : Nat} {s : State} (hm : s.store.mounted = true) (hp : s.store.pubs = [p])
    (ht : p.todo = [k]) (hf : inFence s p.inst = false) (hn : s.store.nvme = []) (ho : pubObj s p = some o)
    (hw : writePort s o (k / 2) (k % 2) = some port) : Does .destage s fun t =>
      ∃ n, t.store.nvme = [n] ∧ n.port = port ∧ n.kind = .extWrite ∧ n.ext = k ∧ n.ver = p.img.ver ∧
        n.data = extentBlocks o p.img (k / 2) ∧ n.inst = p.inst ∧ n.obj = p.id ∧ n.sentAt = s.time := by
  have hmedia : p.onMedia = false := by
    unfold Pub.onMedia
    rw [ht]
    rfl
  have hdestage : exec .destage s = .next (destageOne p o k s) := by
    show execDestage s = _
    unfold execDestage
    dsimp only
    rw [hm, hp, List.find?_cons_of_pos (by simp [hmedia, hf, hn])]
    dsimp only
    rw [ho, ht]
    rfl
  refine Does.of hdestage ?_
  unfold destageOne sendNvme
  rw [hw]
  dsimp only
  rw [hf, if_neg (by decide), hn]
  exact ⟨_, rfl, rfl, rfl, rfl, rfl, rfl, rfl, rfl, rfl⟩

/-! ## The journal (R403, R422) -/

/-- A publication whose extents are all on media is covered by the next commit record. -/
theorem coverable_alone {p : Pub} (ht : p.todo = []) (hh : p.hidden = false) : coverable [p] = [p] := by
  have hrest : p.restsOn p = true := by
    unfold Pub.restsOn
    rw [ht]
    rfl
  have hsame : p.sameObj p = true := by simp [Pub.sameObj]
  unfold coverable
  simp [hh, hsame, hrest, List.zipIdx]

/-- The object with new contents on media. -/
def madeDurable (p : Pub) (e : Bool) (x : StoreObj) : StoreObj :=
  p.places.foldl (fun x e => placeCopy x e.1 e.2) { x with dur := p.img, durVer := p.img.ver, durExists := e, wfault := false }

/-- Only where its copies lie differs. -/
def SamePlaced (x y : StoreObj) : Prop := ∃ m, y = { x with moved := m }

theorem placed_same (l : List (Nat × Nat)) (x : StoreObj) : SamePlaced x (l.foldl (fun x e => placeCopy x e.1 e.2) x) := by
  induction l generalizing x with
  | nil => exact ⟨x.moved, rfl⟩
  | cons e l ih =>
    obtain ⟨m, h⟩ := ih (placeCopy x e.1 e.2)
    exact ⟨m, h⟩

theorem madeDurable_eq (p : Pub) (e : Bool) (x : StoreObj) : ∃ m, madeDurable p e x =
    { x with dur := p.img, durVer := p.img.ver, durExists := e, wfault := false, moved := m } := placed_same ..

/-- A list of objects of which some are changed and others leave keeps the first that a publication serves. -/
theorem find_changed {l : List StoreObj} {P keep : StoreObj → Bool} {f : StoreObj → StoreObj} {o : StoreObj} (ho : l.find? P = some o)
    (hf : ∀ x, P (f x) = P x) (hk : keep (f o) = true) : ((l.map f).filter keep).find? P = some (f o) := by
  induction l with
  | nil => exact absurd ho (by simp)
  | cons a l ih =>
    rw [List.map_cons]
    by_cases ha : P a = true
    · rw [List.find?_cons_of_pos ha] at ho
      obtain rfl := Option.some.inj ho
      rw [List.filter_cons_of_pos hk, List.find?_cons_of_pos (by rw [hf]; exact ha)]
    · rw [List.find?_cons_of_neg ha] at ho
      by_cases hka : keep (f a) = true
      · rw [List.filter_cons_of_pos hka, List.find?_cons_of_neg (by rw [hf]; exact ha)]
        exact ih ho
      · rw [List.filter_cons_of_neg hka]
        exact ih ho

theorem flushDone_none {i id ver : Nat} {s : State} (h : s.store.flushes = []) : flushDone i id ver s = s := by
  unfold flushDone
  rw [h]
  show ({ s with store := { s.store with flushes := [] } } : State) = s
  rw [← h]

/-- The commit of the only publication leaves its object durable. -/
theorem makeDurable_alone {p : Pub} {o : StoreObj} {s : State} (hs : p.slot = none) (hf : s.store.flushes = []) (hp : s.store.pubs = [p])
    (ho : pubObj s p = some o) : ∃ e, makeDurable p s = { s with store := { s.store with
      pubs := [], objs := s.store.objs.map fun x => if sameObj x o then madeDurable p e x else x } } := by
  have ho' : pubObj { s with store := { s.store with pubs := s.store.pubs.erase p } } p = some o := ho
  unfold makeDurable
  dsimp only
  rw [ho', hs]
  dsimp only
  rw [flushDone_none (by exact hf)]
  unfold modObj
  refine ⟨!p.delete && !goneForGood { s with store := { s.store with pubs := s.store.pubs.erase p } } o, ?_⟩
  rw [hp, List.erase_cons_head]
  rfl

theorem journalCommit_covers {p : Pub} {o : StoreObj} {s : State} (hm : s.store.mounted = true) (hj : s.store.jour1.isSome = true)
    (hp : s.store.pubs = [p]) (ht : p.todo = []) (hh : p.hidden = false) (hs : p.slot = none) (hf : s.store.flushes = [])
    (hd : s.pwr.destaging = false) (ho : pubObj s p = some o) (hdel : o.deleted = false) :
    Does .journalCommit s fun t => t.store.pubs = [] ∧ (pubObj t p).map (fun x => (x.dur, x.durVer)) = some (p.img, p.img.ver) := by
  obtain ⟨e, hmake⟩ := makeDurable_alone hs hf hp ho
  have hopen : ¬((!s.store.mounted) = true ∨ s.store.jour1.isNone = true ∧ s.store.jour2.isNone = true) := by
    rw [hm]
    cases hjour : s.store.jour1 with
    | none =>
      rw [hjour] at hj
      exact absurd hj (by decide)
    | some x => simp
  have hcommit : exec .journalCommit s = .next (dropDeleted (makeDurable p s)) := by
    show execJournalCommit s = _
    unfold execJournalCommit
    rw [if_neg hopen, hp, coverable_alone ht hh]
    have hclean : ¬((dropDeleted (makeDurable p s)).pwr.destaging = true) := by
      rw [hmake]
      exact fun h => absurd (hd.symm.trans h) (by decide)
    exact if_neg fun h => hclean h.1
  refine Does.of hcommit ?_
  rw [hmake]
  refine ⟨rfl, ?_⟩
  obtain ⟨m, hmade⟩ := madeDurable_eq p e o
  have hkeys : ∀ x, (fun o : StoreObj => decide (o.inst = p.inst) && decide (o.id = p.id) && (!o.deleted || decide (p.accNo < o.goneAt)))
      (if sameObj x o then madeDurable p e x else x) =
      (fun o : StoreObj => decide (o.inst = p.inst) && decide (o.id = p.id) && (!o.deleted || decide (p.accNo < o.goneAt))) x := fun x => by
    obtain ⟨m, h⟩ := madeDurable_eq p e x
    rw [h]
    split <;> rfl
  have hself : sameObj o o = true := by simp [sameObj]
  have hfound := find_changed (f := fun x => if sameObj x o then madeDurable p e x else x)
    (keep := fun x => !(x.deleted && !x.durExists && !(([] : List Pub).any fun p => decide (p.inst = x.inst) && decide (p.id = x.id)) &&
        !(s.ring.cmds.any fun e => e.2.any fun c => decide (c.inst = x.inst) && decide (c.accNo < x.goneAt) && c.outcome.isNone))) ho hkeys
    (by rw [if_pos hself, hmade]; simp [hdel])
  unfold pubObj dropDeleted
  dsimp only
  rw [hfound, if_pos hself, hmade]
  rfl

section
variable {x y : Nat} {s : State} (hx : s.store.jourCopy = some x)
include hx

theorem journalCopy_first (h1 : s.store.jour1 = none) (h2 : s.store.jour2.isSome = true) :
    exec .journalCopyDone s = .next { s with store := { s.store with jour1 := some x, jourCopy := none } } := by
  show execJournalCopyDone s = _
  unfold execJournalCopyDone
  rw [hx]
  dsimp only
  rw [h1]
  refine next_congr (if_neg ?_)
  cases hj : s.store.jour2 with
  | none =>
    rw [hj] at h2
    exact absurd h2 (by decide)
  | some z => simp [journalShort]

theorem journalCopy_next {z : Option Nat} (h1 : s.store.jour1 = none) (h2 : s.store.jour2 = none)
    (hz : journalTarget x { s with store := { s.store with jour1 := some x, jourCopy := none } } = z) :
    exec .journalCopyDone s = .next { s with store := { s.store with jour1 := some x, jourCopy := z } } := by
  show execJournalCopyDone s = _
  unfold execJournalCopyDone
  rw [hx]
  dsimp only
  rw [h1]
  refine next_congr ((if_pos ?_).trans ?_)
  · simp [journalShort, h2]
  · subst hz
    rfl

theorem journalCopy_second (h1 : s.store.jour1 = some y) :
    exec .journalCopyDone s = .next { s with store := { s.store with jour2 := some x, jourCopy := none } } := by
  show execJournalCopyDone s = _
  unfold execJournalCopyDone
  rw [hx]
  dsimp only
  rw [h1]
  refine next_congr (if_neg ?_)
  simp [journalShort]

end

/-! ## The pool (R402, R404) -/

section
variable {x : SsdFound} {s : State} (hm : s.store.mounted = false) (hb : s.pads.booted = true)
include hm hb

theorem storeMount_mounts : ∃ t, exec (.storeMount [x]) s = .next t ∧ t.store.mounted = true ∧ (∀ p, t.ssd p = (takeSsd x s).ssd p) ∧
    t.log = (takeSsd x s).log := by
  obtain ⟨a, b, e⟩ := placeJournal_eq (takeSsd x s)
  refine ⟨_, if_neg (by rw [hm, hb]; decide), rfl, fun p => ?_, ?_⟩
  · show (placeJournal (takeSsd x s)).ssd p = _
    rw [e]
    rfl
  · show (placeJournal (takeSsd x s)).log = _
    rw [e]

theorem storeMount_pools (hp : x.port < 16) (hf : x.formatOk = true) (hl : x.label = true) :
    Does (.storeMount [x]) s fun t => t.store.mounted = true ∧ (t.ssd x.port).pool = true ∧ t.log = s.log := by
  obtain ⟨t, e, hmount, hssds, hlog⟩ := storeMount_mounts (x := x) hm hb
  refine ⟨t, e, hmount, ?_, ?_⟩
  · rw [hssds]
    unfold takeSsd
    rw [if_neg (by omega)]
    dsimp only
    rw [hf, hl, if_pos (by decide)]
    exact congrArg Ssd.pool (State.setSsd_same s x.port _)
  · rw [hlog]
    unfold takeSsd
    rw [if_neg (by omega)]
    dsimp only
    rw [hf, hl]
    rfl

theorem storeMount_foreign (hp : x.port < 16) (hl : x.label = false) :
    Does (.storeMount [x]) s fun t => t.store.mounted = true ∧ (t.ssd x.port).pool = false ∧ t.log.next = s.log.next + 1 := by
  obtain ⟨t, e, hmount, hssds, hlog⟩ := storeMount_mounts (x := x) hm hb
  have hno : (x.formatOk && x.label) = false := by
    rw [hl]
    exact Bool.and_false _
  refine ⟨t, e, hmount, ?_, ?_⟩
  · rw [hssds]
    unfold takeSsd
    rw [if_neg (by omega)]
    dsimp only
    rw [hno, if_neg (by decide)]
    exact congrArg Ssd.pool (State.setSsd_same s x.port _)
  · rw [hlog]
    unfold takeSsd
    rw [if_neg (by omega)]
    dsimp only
    rw [hno]
    rfl

end

end Sys2Proof.Machine

namespace Sys2Proof

open Machine

/-- Settles O26: what is given up changes no SSD, and the only publication with its extents on media is covered by the commit. -/
theorem storeMedia : Obligations.StoreMedia := by
  unfold Obligations.StoreMedia
  exact ⟨fun id n s hn ht => nvmeCompletion_retries hn ht, fun id n s hn hk => nvmeCompletion_rewritten hn hk,
    fun id n p s hn hk hp hh => nvmeCompletion_written hn hk hp hh, fun id n s hn ht hf => nvmeTimeout_fails hn ht hf,
    fun id n s hn ht => nvmeTimeout_early hn ht, fun p o k port s hm hp ht hf hn ho hw => destage_sends hm hp ht hf hn ho hw,
    fun p o s hm hj hp ht hh hs _ hf hd ho hdel => journalCommit_covers hm hj hp ht hh hs hf hd ho hdel,
    fun x s hx h1 h2 => journalCopy_first hx h1 h2, fun x y s hx h1 h2 hz => journalCopy_next hx h1 h2 hz,
    fun x y s hx h1 => journalCopy_second hx h1, fun x s hm hb hp hf hl => storeMount_pools hm hb hp hf hl,
    fun x s hm hb hp hl => storeMount_foreign hm hb hp hl⟩

end Sys2Proof
end

section
/-!
PROOFS. Table-store commands: their run, the bytes they write to the host, an object that changes, and the end of a publication.
-/

namespace Sys2Proof.Machine

theorem modRun_of {k : Nat} {c : Cmd} {s : State} (hc : s.cmd k = some c) (f : StoreRun → StoreRun) :
    modRun k f s = s.setCmd k (some { c with work := .store (f (storeRun c)) }) := State.modCmd_of hc _

theorem setPhase_of {k : Nat} {c : Cmd} {s : State} (hc : s.cmd k = some c) (p : CmdPhase) :
    setPhase k p s = s.setCmd k (some { c with phase := p }) := State.modCmd_of hc _

/-- Where its port is in L0, a write to the host goes out, and no more happens. -/
theorem hostWriteFor_up {p fn acc a : Nat} {d : List Byte} {s : State} (h : (s.hostPort p).up = true) :
    hostWriteFor p fn acc a d s = { s with out := { s.out with host := s.out.host ++ [.write p fn a d] } } := by
  have hw : hostWrite p fn a d s = { s with out := { s.out with host := s.out.host ++ [.write p fn a d] } } := hostOut_up h
  unfold hostWriteFor
  rw [hw]
  exact if_pos h

/-- A publication's command ends with its result. -/
theorem succeedDone_cmd {k : Nat} {r : W64} {c : Cmd} {s : State} (hc : s.cmd k = some c) (ho : c.outcome = none) :
    (succeedDone k r s).cmd k = some { c with outcome := some stSuccess, r0 := r, step3 := true } := by
  unfold succeedDone
  rw [if_pos (by rw [hc]; simp [ho])]
  exact State.modCmd_cmd (succeed_cmd hc ho) _

theorem succeedDone_store {k : Nat} {r : W64} {c : Cmd} {s : State} (hc : s.cmd k = some c) (ho : c.outcome = none) :
    (succeedDone k r s).store = s.store := by
  unfold succeedDone
  rw [if_pos (by rw [hc]; simp [ho]), succeed_eq hc ho]
  obtain ⟨x, e⟩ := State.modCmd_eq (fixRecord c (s.setCmd k (some { c with outcome := some stSuccess, r0 := r }))) k
    fun c => { c with step3 := true }
  rw [e]
  rfl

/-- The first object that satisfies P, after a change that leaves what P reads. -/
theorem find_modObj {P : StoreObj → Bool} {o : StoreObj} {f : StoreObj → StoreObj} {s : State} (ho : s.store.objs.find? P = some o)
    (hf : ∀ x, P (f x) = P x) : (modObj o f s).store.objs.find? P = some (f o) := by
  have hself : sameObj o o = true := by simp [sameObj]
  show (s.store.objs.map fun x => if sameObj x o then f x else x).find? P = _
  rw [List.find?_map]
  have hP : P ∘ (fun x => if sameObj x o then f x else x) = P := funext fun x => by
    dsimp only [Function.comp]
    split
    · exact hf x
    · rfl
  rw [hP, ho]
  exact congrArg some (if_pos hself)

end Sys2Proof.Machine
end

section
/-!
PROOFS. STORE_FLUSH and STORE_ATTR (O25).
-/

namespace Sys2Proof.Machine

section
variable {k : Nat} {c : Cmd} {s : State} (hm : s.store.mounted = true)
include hm

/-! ## STORE_FLUSH (R423) -/

theorem storeFlush_runs (h : Handed k 0x13 c s) : exec (.storeFlush k) s = .next (runFlush k c s) :=
  (if_pos hm).trans (next_congr (onHanded_runs h _))

theorem storeFlush_checked (h : Handed k 0x13 c s) (hd : bareDesc c = true) (h3 : c.word 3 = 0) (h4 : c.word 4 = 0)
    (ho : c.obj = 0 ∨ (objFor s c.inst c.obj c.accNo).isSome = true) (hf : flushFault s c = false) : exec (.storeFlush k) s =
      .next (if (flushSet s c).isEmpty then succeed k 0 s
        else { setPhase k .durWait s with store := { (setPhase k .durWait s).store with
          flushes := (setPhase k .durWait s).store.flushes ++ [(k, flushSet s c)] } }) := by
  refine (storeFlush_runs hm h).trans ?_
  unfold runFlush
  have hobj : ¬(c.obj ≠ 0 ∧ (objFor s c.inst c.obj c.accNo).isNone = true) := by
    rintro ⟨hne, hnone⟩
    obtain h | h := ho
    · exact hne h
    · rw [Option.isNone_iff_eq_none.mp hnone] at h
      exact absurd h (by decide)
  rw [if_neg (by simp [hd, h3, h4]), if_neg hobj, if_neg (by rw [hf]; decide)]

theorem storeFlush_done (h : Handed k 0x13 c s) (hd : bareDesc c = true) (h3 : c.word 3 = 0) (h4 : c.word 4 = 0)
    (ho : c.obj = 0 ∨ (objFor s c.inst c.obj c.accNo).isSome = true) (hf : flushFault s c = false) (hs : flushSet s c = []) :
    Does (.storeFlush k) s fun t => t.cmd k = some { c with outcome := some stSuccess, r0 := 0 } := by
  refine Does.of (storeFlush_checked hm h hd h3 h4 ho hf) ?_
  rw [hs]
  exact succeed_cmd h.holds h.undecided

theorem storeFlush_waits (h : Handed k 0x13 c s) (hd : bareDesc c = true) (h3 : c.word 3 = 0) (h4 : c.word 4 = 0)
    (ho : c.obj = 0 ∨ (objFor s c.inst c.obj c.accNo).isSome = true) (hf : flushFault s c = false) (hs : flushSet s c ≠ []) :
    Does (.storeFlush k) s fun t => t.cmd k = some { c with phase := .durWait } ∧
      t.store.flushes = s.store.flushes ++ [(k, flushSet s c)] := by
  refine Does.of (storeFlush_checked hm h hd h3 h4 ho hf) ?_
  rw [if_neg (by simpa using hs), setPhase_of h.holds]
  exact ⟨State.setCmd_same s k _, rfl⟩

/-! ## STORE_ATTR (R414 to R416) -/

/-- A command with a bad field fails, whichever row of STORE_ATTR takes it up. -/
theorem onAttr_bad (h : Handed k 0x15 c s) (hd : attrDescOk c = false) (a : Nat) (f : Cmd → State → State) :
    ((onAttr k a f s).cmd k).map (·.outcome) = some (some stParam) := by
  unfold onAttr
  rw [if_neg (by rw [hm]; decide), onHanded_runs h, if_pos (by rw [hd]; rfl)]
  exact failCmd_outcome h.holds h.undecided

theorem onAttr_runs (h : Handed k 0x15 c s) (hd : attrDescOk c = true) {a : Nat} (ha : c.aop = a) (f : Cmd → State → State) :
    onAttr k a f s = f c s := by
  unfold onAttr
  rw [if_neg (by rw [hm]; decide), onHanded_runs h, if_neg (by rw [hd]; decide), if_pos ha]

theorem attrCreate_asks (h : Handed k 0x15 c s) (hd : attrDescOk c = true) (ha : c.aop = 1) (h0 : c.obj ≠ 0) (h1 : c.obj ≠ 0xFFFFFFFF)
    (hb : orderBlocked s c [c.obj] = false) (hn : objNow s c.inst c.obj = none) (hp : (s.hostPort (s.sq c.inst c.sq).port).up = true) :
    Does (.storeAttrCreate k) s fun t => t.cmd k = some { c with phase := .hostRead } ∧
      t.out.host = s.out.host ++ [.read (s.sq c.inst c.sq).port c.inst c.addr0 64] := by
  obtain ⟨t, e, ht⟩ := askHost_up (a := c.addr0) (n := 64) h.holds hp
  refine ⟨t, next_congr ((onAttr_runs hm h hd ha _).trans ?_), ht⟩
  unfold runCreate
  rw [h.holds]
  dsimp only
  rw [if_neg (by simp [h0, h1]), if_neg (by rw [hb]; decide), if_neg (by rw [hn]; decide), e]

theorem attrGet_reports {o : StoreObj} (h : Handed k 0x15 c s) (hd : attrDescOk c = true) (ha : c.aop = 3)
    (ho : objFor s c.inst c.obj c.accNo = some o) (hb : orderBlocked s c [c.obj] = false)
    (hp : (s.hostPort (s.sq c.inst c.sq).port).up = true) : Does (.storeAttrGet k) s fun t =>
      (t.cmd k).map (fun x => (x.outcome, x.r0)) = some (some stSuccess, BitVec.ofNat 64 o.cur.ver) ∧
      t.out.host = s.out.host ++ [.write (s.sq c.inst c.sq).port c.inst c.addr0 (attrRecord s o)] ∧
      t.store.objs = s.store.objs := by
  refine Does.of (next_congr (onAttr_runs hm h hd ha _)) ?_
  unfold runGet
  rw [h.holds]
  dsimp only
  rw [ho]
  dsimp only
  rw [if_neg (by rw [hb]; decide), hostWriteFor_up hp]
  obtain ⟨x, e⟩ := addCounter_insts c.inst 3 64 { s with out := { s.out with host := s.out.host ++
    [.write (s.sq c.inst c.sq).port c.inst c.addr0 (attrRecord s o)] } }
  rw [e]
  have hc : State.cmd { s with out := { s.out with host := s.out.host ++
    [.write (s.sq c.inst c.sq).port c.inst c.addr0 (attrRecord s o)] }, insts := x } k = some c := h.holds
  rw [succeed_cmd hc h.undecided, succeed_eq hc h.undecided]
  exact ⟨rfl, rfl, rfl⟩

end

/-- The object that an ID names is the command's. -/
theorem objNow_key {s : State} {i id : Nat} {o : StoreObj} (h : objNow s i id = some o) : o.inst = i ∧ o.id = id ∧ o.deleted = false := by
  simpa [and_assoc] using List.find?_some h

section
variable {k : Nat} {c : Cmd} {s : State} (hc : s.cmd k = some c) (ho : c.outcome = none) (hdur : c.dur = false)
include hc ho hdur

/-- A change of the set of objects without DUR is published, and its command ends. -/
theorem publishAttr_done (o : StoreObj) (m : ObjImage) (del : Bool) :
    ((publishAttr k c o m del s).cmd k).map (fun x => (x.outcome, x.r0)) =
      some (some stSuccess, if del then 0 else BitVec.ofNat 64 m.ver) ∧
    (publishAttr k c o m del s).store = (publish o m c none 0 del s).store := by
  unfold publishAttr
  dsimp only
  simp only [hdur, Bool.false_eq_true, if_false]
  rw [modRun_of hc]
  generalize hv : publish o m c none 0 del (s.setCmd k _) = v
  have hcmd : v.cmd k = some { c with work := .store { storeRun c with passed := true } } := by
    rw [← hv]
    exact State.setCmd_same s k _
  have hstore : v.store = (publish o m c none 0 del s).store := by
    rw [← hv]
    rfl
  have ho' : ({ c with work := .store { storeRun c with passed := true } } : Cmd).outcome = none := ho
  rw [succeedDone_cmd hcmd ho', succeedDone_store hcmd ho', hstore]
  exact ⟨rfl, rfl⟩

end

theorem attrDelete_publishes {k : Nat} {c : Cmd} {o : StoreObj} {s : State} (hm : s.store.mounted = true) (h : Handed k 0x15 c s)
    (hd : attrDescOk c = true) (ha : c.aop = 2) (hn : objNow s c.inst c.obj = some o) (hdur : c.dur = false)
    (hb : orderBlocked s c [c.obj] = false) : Does (.storeAttrDelete k) s fun t =>
      (t.cmd k).map (fun x => (x.outcome, x.r0)) = some (some stSuccess, 0) ∧
      ∃ p, t.store.pubs = s.store.pubs ++ [p] ∧ p.delete = true ∧ p.inst = c.inst ∧ p.id = c.obj ∧
        p.img.ver = o.cur.ver + 1 := by
  obtain ⟨hi, hid, -⟩ := objNow_key hn
  have hrun : runDelete k s = publishAttr k c o { size := 0, ver := o.cur.ver + 1, bytes := [], exts := [] } true s := by
    unfold runDelete
    rw [h.holds]
    dsimp only
    rw [hn, hb]
    dsimp only
    rw [if_neg (by rw [hdur]; simp)]
  obtain ⟨hcmd, hstore⟩ := publishAttr_done h.holds h.undecided hdur o { size := 0, ver := o.cur.ver + 1, bytes := [], exts := [] } true
  refine Does.of (next_congr ((onAttr_runs hm h hd ha _).trans hrun)) ⟨hcmd, ?_⟩
  rw [hstore]
  exact ⟨_, rfl, rfl, hi, hid, rfl⟩

/-- The object that CREATE makes, once published, is the one that its ID names. -/
theorem objNow_created {i id : Nat} {d : List Byte} {m : ObjImage} {c : Cmd} {s : State} (hn : objNow s i id = none) :
    (objNow (publish (newObj i id d) m c none 0 false { s with store := { s.store with objs := s.store.objs ++ [newObj i id d] } }) i id).map
      (fun o => (o.cur, o.copies, o.stripe)) = some (m, leAt d 6 1, BitVec.ofNat 16 (leAt d 4 2)) := by
  have hfind : (s.store.objs ++ [newObj i id d]).find? (fun o => decide (o.inst = i) && decide (o.id = id) && !o.deleted) =
      some (newObj i id d) := by
    rw [List.find?_append, show s.store.objs.find? _ = none from hn]
    simp [newObj]
  unfold objNow publish
  dsimp only
  rw [find_modObj hfind fun x => by simp]
  rfl

theorem create_publishes {k : Nat} {c : Cmd} {d : List Byte} {s : State} (hc : s.cmd k = some c) (hopc : c.opc = 0x15)
    (hp : c.phase = .hostRead) (ho : c.outcome = none) (hdur : c.dur = false)
    (ha : (s.hostPort (s.sq c.inst c.sq).port).absent = false) (hl : d.length = 64) (hok : createOk s d = true)
    (hn : objNow s c.inst c.obj = none) (hlim : s.store.objs.length < 65536) : Does (.hostReadDone k (some d)) s fun t =>
      (t.cmd k).map (fun x => (x.outcome, x.r0)) = some (some stSuccess, 1) ∧
      (objNow t c.inst c.obj).map (fun o => (o.cur.size, o.cur.ver, o.copies, o.stripe)) =
        some (0, 1, leAt d 6 1, BitVec.ofNat 16 (leAt d 4 2)) := by
  have hread : exec (.hostReadDone k (some d)) s = .next (createRead k c (some d) s) := by
    rw [hostReadDone_open hc hp ho ha, hopc]
    rfl
  have hroom : ¬(65536 ≤ (s.store.objs.filter fun o => decide (o.inst = c.inst) && !o.deleted).length ∨ 1048576 ≤ s.store.objs.length) := by
    have h := List.length_filter_le (fun o : StoreObj => decide (o.inst = c.inst) && !o.deleted) s.store.objs
    omega
  refine Does.of hread ?_
  unfold createRead
  dsimp only
  rw [if_neg (not_not_intro hl), if_neg (by rw [hok, hn]; decide), if_neg hroom]
  have hc' : State.cmd { s with store := { s.store with objs := s.store.objs ++ [newObj c.inst c.obj d] } } k = some c := hc
  obtain ⟨hcmd, hstore⟩ := publishAttr_done hc' ho hdur (newObj c.inst c.obj d) { ObjImage.empty with ver := 1 } false
  refine ⟨hcmd, ?_⟩
  unfold objNow
  rw [hstore]
  have h := objNow_created (d := d) (m := { ObjImage.empty with ver := 1 }) (c := c) hn
  unfold objNow at h
  rw [Option.map_eq_some_iff] at h ⊢
  obtain ⟨x, hx, e⟩ := h
  refine ⟨x, hx, ?_⟩
  obtain ⟨hcur, hcopies, hstripe⟩ : x.cur = { ObjImage.empty with ver := 1 } ∧ x.copies = leAt d 6 1 ∧ x.stripe = BitVec.ofNat 16 (leAt d 4 2) := by
    simpa using e
  rw [hcur, hcopies, hstripe]
  rfl

end Sys2Proof.Machine

namespace Sys2Proof

open Machine

/-- Settles O25: what STORE_ATTR publishes is found again under its ID. -/
theorem storeAttributes : Obligations.StoreAttributes := by
  unfold Obligations.StoreAttributes
  exact ⟨fun k c s hm h hd h3 h4 ho hf hs => storeFlush_done hm h hd h3 h4 ho hf hs,
    fun k c s hm h hd h3 h4 ho hf hs => storeFlush_waits hm h hd h3 h4 ho hf hs,
    fun k c s hm h hd ha h0 h1 hb hn hp => attrCreate_asks hm h hd ha h0 h1 hb hn hp,
    fun k c d s hc hopc hp ho hdur ha hl hok hn hlim => create_publishes hc hopc hp ho hdur ha hl hok hn hlim,
    fun k c o s hm h hd ha hn hdur hb => attrDelete_publishes hm h hd ha hn hdur hb,
    fun k c o s hm h hd ha ho hb hp => attrGet_reports hm h hd ha ho hb hp,
    fun k c s hm h hd => ⟨Does.of rfl (onAttr_bad hm h hd 1 _), Does.of rfl (onAttr_bad hm h hd 2 _), Does.of rfl (onAttr_bad hm h hd 3 _),
      Does.of rfl (onAttr_bad hm h hd 4 _)⟩⟩

end Sys2Proof
end

section
/-!
PROOFS. Table-store commands at their ordering point: a read delivers its bytes, and a change without DUR is published at once (O24).
-/

namespace Sys2Proof.Machine

theorem readsLeft_of_store {s t : State} (h : t.store = s.store) (k : Nat) : readsLeft t k = readsLeft s k := by
  unfold readsLeft
  rw [h]

theorem imgRead_length (m : ObjImage) (off n : Nat) : (imgRead m off n).length = n := by
  unfold imgRead
  induction n generalizing off with
  | zero => rfl
  | succ n ih => exact congrArg (· + 1) (ih (off + 1))

/-- Extents that are not known to be bad and do not lie on media need no read. -/
theorem readExtents_none {k : Nat} {r0 : Option W64} {o : StoreObj} {m : ObjImage} {l : List Nat}
    (h : ∀ e ∈ l, e ∉ o.badExts ∧ onMedia o m e = false) (s : State) : readExtents k r0 o m l s = s := by
  refine forEach_eq_self fun e he => ?_
  obtain ⟨hbad, hmedia⟩ := h e he
  split
  · rfl
  · unfold readExtent
    dsimp only
    rw [if_neg (by simp [hbad]), if_pos (by rw [hmedia]; rfl)]

/-- What a command publishes of an object, once its command has ended: its result, and the object's contents. -/
theorem publish_done {k i id n fr : Nat} {r : W64} {c c' : Cmd} {o : StoreObj} {m : ObjImage} {v : State} (hc : v.cmd k = some c')
    (ho : c'.outcome = none) (hobj : objFor v i id n = some o) :
    ((succeedDone k r (publish o m c none fr false v)).cmd k).map (fun x => (x.outcome, x.r0)) = some (some stSuccess, r) ∧
    (objFor (succeedDone k r (publish o m c none fr false v)) i id n).map (·.cur) = some m := by
  have hcmd : (publish o m c none fr false v).cmd k = some c' := hc
  rw [succeedDone_cmd hcmd ho]
  refine ⟨rfl, ?_⟩
  unfold objFor
  rw [succeedDone_store hcmd ho]
  unfold publish
  dsimp only
  exact congrArg (Option.map StoreObj.cur) (find_modObj (by exact hobj) fun x => by simp)

section
variable {k : Nat} {c : Cmd} {o : StoreObj} {s : State} (hc : s.cmd k = some c) (hp : c.phase = .ordering) (ho : c.outcome = none)
  (hr : readsLeft s k = false) (hb : orderBlocked s c [c.obj] = false) (hobj : objFor s c.inst c.obj c.accNo = some o)
include hc hp ho hr hb hobj

theorem tryStore_free : tryStore k s = if c.opc = 0x11 then takeRead k c o s else doPublish k c o s := by
  unfold tryStore
  rw [hc]
  dsimp only
  rw [if_neg (by simp [hp, ho, hr, hb]), hobj]

theorem tryStore_range (hopc : c.opc = 0x11) (hlen : o.cur.size < c.addr1 + c.len) :
    ((tryStore k s).cmd k).map (·.outcome) = some (some stRange) := by
  rw [tryStore_free hc hp ho hr hb hobj, if_pos hopc]
  unfold takeRead
  rw [if_pos hlen]
  exact failCmd_outcome hc ho

/-- A read in host memory in one piece. -/
theorem tryStore_reads (hopc : c.opc = 0x11) (hlen : c.addr1 + c.len ≤ o.cur.size)
    (he : ∀ e ∈ extsOf c.addr1 c.len, e ∉ o.badExts ∧ onMedia o o.cur e = false) (hdev : c.param 1 = 0) (hseg : c.segs = [])
    (hfirst : bits (c.param 0) 31 0 = c.len) (hport : (s.hostPort (s.sq c.inst c.sq).port).up = true) :
    ((tryStore k s).cmd k).map (fun x => (x.outcome, x.r0)) = some (some stSuccess, BitVec.ofNat 64 c.len) ∧
    (tryStore k s).out.host =
      s.out.host ++ [.write (s.sq c.inst c.sq).port c.inst c.addr0 (imgRead o.cur c.addr1 c.len)] ∧
    (tryStore k s).store.objs = s.store.objs := by
  rw [tryStore_free hc hp ho hr hb hobj, if_pos hopc]
  unfold takeRead
  dsimp only
  rw [if_neg (by omega), readExtents_none he, modRun_of hc, setPhase_of (State.setCmd_same s k _)]
  generalize hc' : ({ c with work := .store { storeRun c with passed := true, snap := o.cur }, phase := .running } : Cmd) = c'
  generalize hv : (s.setCmd k _).setCmd k (some c') = v
  have hcmd : v.cmd k = some c' := hv ▸ State.setCmd_same ..
  have hstore : v.store = s.store := hv ▸ rfl
  have hreads : readsLeft v k = false := (readsLeft_of_store hstore k).trans hr
  have hopen : c'.outcome = none := hc' ▸ ho
  have hread : imgRead (storeRun c').snap c'.addr1 c'.len = imgRead o.cur c.addr1 c.len := hc' ▸ rfl
  have hpieces : hostPieces c' = [(c.addr0, c.len)] := by
    rw [← hc', ← hfirst]
    unfold hostPieces
    rw [show ({ c with work := .store { storeRun c with passed := true, snap := o.cur }, phase := .running } : Cmd).segs = [] from hseg]
    rfl
  have hwhole : (imgRead o.cur c.addr1 c.len).take c.len = imgRead o.cur c.addr1 c.len := List.take_of_length_le (imgRead_length ..).le
  have hrun : finishRead k v = succeed k (BitVec.ofNat 64 c'.len) (addCounter c'.inst 3 c'.len
      (scatter ((addCounter c'.inst 2 c'.len v).sq c'.inst c'.sq).port c' (hostPieces c') (imgRead (storeRun c').snap c'.addr1 c'.len)
        (addCounter c'.inst 2 c'.len v))) := by
    unfold finishRead
    rw [hcmd]
    exact if_neg (by rw [← hc']; exact fun h => absurd (hdev.symm.trans h) (by decide))
  have hend : (if readsLeft v k = true ∨ ((v.cmd k).any fun c => c.outcome.isSome) = true then v else finishRead k v) = finishRead k v :=
    if_neg (by rw [hreads, hcmd]; simp [hopen])
  rw [hend, hrun, hpieces, hread]
  obtain ⟨x, e⟩ := addCounter_insts c'.inst 2 c'.len v
  rw [e]
  have hup : (State.hostPort { v with insts := x } (State.sq { v with insts := x } c'.inst c'.sq).port).up = true := by
    rw [← hv, ← hc']
    exact hport
  unfold scatter scatter
  rw [hwhole, hostWriteFor_up hup]
  obtain ⟨y, e'⟩ := addCounter_insts c'.inst 3 c'.len { v with
    insts := x, out := { v.out with host := v.out.host ++ [.write (State.sq { v with insts := x } c'.inst c'.sq).port c'.inst c.addr0
      (imgRead o.cur c.addr1 c.len)] } }
  rw [e']
  generalize hw : ({ v with insts := y, out := _ } : State) = w
  have hwcmd : w.cmd k = some c' := hw ▸ hcmd
  rw [succeed_cmd hwcmd hopen, succeed_eq hwcmd hopen, ← hw, ← hv, ← hc']
  exact ⟨rfl, rfl, rfl⟩

/-- Without DUR a change is published at once, and the object's contents are the new ones. -/
theorem tryStore_publishes {m : ObjImage} (hopc : c.opc ≠ 0x11) (hdur : c.dur = false) (he : effectOf c o.cur = some m) (hm : m.size ≤ objMax)
    (hbad : o.badExts = []) (hcap : overCapacity s o m = false) :
    ((tryStore k s).cmd k).map (fun x => (x.outcome, x.r0)) =
      some (some stSuccess, BitVec.ofNat 64 (publishResult c o.cur m)) ∧
    (objFor (tryStore k s) c.inst c.obj c.accNo).map (·.cur) = some m := by
  rw [tryStore_free hc hp ho hr hb hobj, if_neg hopc]
  unfold doPublish
  rw [he]
  dsimp only
  rw [if_neg (by omega), if_neg (by rw [hbad]; simp), if_neg (by rw [hcap]; decide), if_neg (by rw [hdur]; decide), modRun_of hc]
  generalize hv : (if c.opc = 0x10 ∨ c.opc = 0x12 then _ else _ : State) = v
  have hcmd : v.cmd k = some { c with work := .store { storeRun c with frames := 0 } } := by
    rw [← hv]
    split
    · obtain ⟨x, e⟩ := addCounter_insts c.inst 2 c.len (s.setCmd k (some { c with work := .store { storeRun c with frames := 0 } }))
      rw [e]
      exact State.setCmd_same s k _
    · exact State.setCmd_same s k _
  have hstore : v.store = s.store := by
    rw [← hv]
    split
    · obtain ⟨x, e⟩ := addCounter_insts c.inst 2 c.len (s.setCmd k (some { c with work := .store { storeRun c with frames := 0 } }))
      rw [e]
      rfl
    · rfl
  rw [modRun_of hcmd]
  refine publish_done (State.setCmd_same v k _) ho ?_
  unfold objFor at hobj ⊢
  rw [State.setCmd_store, hstore]
  exact hobj

end

end Sys2Proof.Machine

namespace Sys2Proof

open Machine

/-- Settles O24: a read without media reads ends with the bytes of its snapshot, and a published change is found under its object. -/
theorem storeEffects : Obligations.StoreEffects := by
  unfold Obligations.StoreEffects
  exact ⟨fun k c o s hc hopc hp ho hr hb hobj hlen he hdev hseg hfirst hport =>
      tryStore_reads hc hp ho hr hb hobj hopc hlen he hdev hseg hfirst hport,
    fun k c o s hc hopc hp ho hr hb hobj hlen => tryStore_range hc hp ho hr hb hobj hopc hlen,
    fun k c o m s hc hopc hdur hp ho hr hb hobj he hm hbad hcap =>
      tryStore_publishes hc hp ho hr hb hobj hopc hdur he hm hbad hcap⟩

end Sys2Proof
end

section
/-!
PROOFS. Table-store commands: their start, their place in the write cache and their ordering point (O23).
-/

namespace Sys2Proof.Machine

section
variable {k opc : Nat} {desc : Cmd → Option Nat} {c : Cmd} {o : StoreObj} {s : State} (hm : s.store.mounted = true)
include hm

/-- A command in order that names an object goes on. -/
theorem onStore_runs (h : Handed k opc c s) (hd : desc c = none) (ho : objFor s c.inst c.obj c.accNo = some o)
    (hl : c.addr1 + c.len ≤ objMax) (f : Cmd → StoreObj → State → State) : onStore k opc desc f s = f c o s := by
  unfold onStore
  rw [if_neg (by rw [hm]; decide), onHanded_runs h, hd]
  dsimp only
  rw [ho]
  exact if_neg (by omega)

end

theorem dur_open {c : Cmd} {o : StoreObj} (h : c.dur = false ∨ o.wfault = false) : ¬(c.dur = true ∧ o.wfault = true) := by
  rintro ⟨hd, hw⟩
  obtain h | h := h
  · exact absurd (h.symm.trans hd) (by decide)
  · exact absurd (h.symm.trans hw) (by decide)

theorem startWrite_stages {k : Nat} {c : Cmd} {o : StoreObj} {s : State} (hd : c.dur = false ∨ o.wfault = false)
    (hr : cacheRoom s c.inst c.len = true) : startWrite k c o s = stage k c s := (if_neg (dur_open hd)).trans (if_pos hr)

theorem startWrite_waits {k : Nat} {c : Cmd} {o : StoreObj} {s : State} (hc : s.cmd k = some c) (hd : c.dur = false ∨ o.wfault = false)
    (hr : cacheRoom s c.inst c.len = false) : ∃ t, startWrite k c o s = t ∧ t.cmd k = some { c with phase := .cacheWait } ∧
      t.store.cacheQ = s.store.cacheQ ++ [k] ∧ t = { s with ring := t.ring, store := { s.store with cacheQ := t.store.cacheQ } } := by
  refine ⟨_, (if_neg (dur_open hd)).trans (if_neg (by rw [hr]; decide)), ?_⟩
  rw [setPhase_of hc]
  exact ⟨State.setCmd_same s k _, rfl, rfl⟩

/-- A write of one piece in host memory asks for it. -/
theorem stage_asks {k : Nat} {c : Cmd} {s : State} (hc : s.cmd k = some c) (hdev : c.param 1 = 0) (hseg : c.segs = [])
    (hfirst : bits (c.param 0) 31 0 ≠ 0) (hp : (s.hostPort (s.sq c.inst c.sq).port).up = true) :
    (stage k c s).cmd k = some { c with phase := .hostRead, work := .store { storeRun c with frames := framesFor c.len } } ∧
    (stage k c s).out.host = s.out.host ++ [.read (s.sq c.inst c.sq).port c.inst c.addr0 (bits (c.param 0) 31 0)] := by
  have hpieces : hostPieces c = [(c.addr0, bits (c.param 0) 31 0)] := by
    unfold hostPieces
    rw [hseg]
    rfl
  unfold stage askPieces
  dsimp only
  rw [if_neg (by omega), modRun_of hc, setPhase_of (State.setCmd_same s k _), hpieces]
  generalize hv : (s.setCmd k _).setCmd k _ = v
  have hup : (v.hostPort (s.sq c.inst c.sq).port).up = true := by
    rw [← hv]
    exact hp
  have hsent : hostSend (s.sq c.inst c.sq).port (.read (s.sq c.inst c.sq).port c.inst c.addr0 (bits (c.param 0) 31 0)) v =
      { v with out := { v.out with host := v.out.host ++ [.read (s.sq c.inst c.sq).port c.inst c.addr0 (bits (c.param 0) 31 0)] } } :=
    hostOut_up hup
  have hall : forEach (fun (x : Nat × Nat) t => if x.2 = 0 then t else
      hostSend (s.sq c.inst c.sq).port (.read (s.sq c.inst c.sq).port c.inst x.1 x.2) t) [(c.addr0, bits (c.param 0) 31 0)] v =
      { v with out := { v.out with host := v.out.host ++ [.read (s.sq c.inst c.sq).port c.inst c.addr0 (bits (c.param 0) 31 0)] } } :=
    (if_neg hfirst).trans hsent
  refine ⟨(congrArg (State.cmd · k) hall).trans ?_, (congrArg (fun t : State => t.out.host) hall).trans ?_⟩
  · rw [← hv]
    exact State.setCmd_same _ k _
  · rw [← hv]
    rfl

theorem cacheRoom_stages {k : Nat} {c : Cmd} {s : State} (hc : s.cmd k = some c) (hp : c.phase = .cacheWait) (ho : c.outcome = none)
    (hq : queryRun c = none) (hn : nextWaiting s c.inst = some k) (hr : cacheRoom s c.inst c.len = true) :
    exec (.writeCacheRoom k) s =
      .next (stage k c { s with store := { s.store with cacheQ := s.store.cacheQ.filter (· ≠ k) } }) := by
  show execWriteCacheRoom k s = _
  unfold execWriteCacheRoom
  rw [hc]
  dsimp only
  rw [hq]
  dsimp only
  rw [if_neg (by simp [hp, ho, hn, hr])]

theorem storeResize_runs {k : Nat} {c : Cmd} {o : StoreObj} {s : State} (hm : s.store.mounted = true) (h : Handed k 0x15 c s)
    (hd : attrDescOk c = true) (ha : c.aop = 4) (ho : objFor s c.inst c.obj c.accNo = some o) (hl : c.param 1 ≤ objMax)
    (hdur : c.dur = false ∨ o.wfault = false) : exec (.storeAttrResize k) s = .next (readPartial k c o (modRun k id s)) := by
  refine next_congr ((onAttr_runs hm h hd ha _).trans ?_)
  rw [ho]
  dsimp only
  rw [if_neg (by omega), if_neg (dur_open hdur)]

end Sys2Proof.Machine

namespace Sys2Proof

open Machine

/-- Settles O23: a command in order goes on to the write cache or to its ordering point. -/
theorem storeCommandsStart : Obligations.StoreCommandsStart := by
  unfold Obligations.StoreCommandsStart
  refine ⟨fun k c o s hm h hd ho hl hdur hr => next_congr ((onStore_runs hm h hd ho hl _).trans (startWrite_stages hdur hr)),
    fun k c o s hm h hd ho hl hdur hr => next_congr ((onStore_runs hm h hd ho hl _).trans (startWrite_stages hdur hr)),
    fun k c s hc hdev hseg hfirst hp => stage_asks hc hdev hseg hfirst hp, fun k c o s hm h hd ho hl hdur hr => ?_,
    fun k c s hc hp ho hq hn hr => cacheRoom_stages hc hp ho hq hn hr,
    fun k c o s hm h hd ho hl => next_congr (onStore_runs hm h hd ho hl _),
    fun k c o s hm h hd ho hl hdur => next_congr ((onStore_runs hm h hd ho hl _).trans (if_neg (dur_open hdur))),
    fun k c o s hm h hd ha ho hl hdur => storeResize_runs hm h hd ha ho hl hdur⟩
  obtain ⟨t, e, ht⟩ := startWrite_waits (o := o) h.holds hdur hr
  exact ⟨t, next_congr ((onStore_runs hm h hd ho hl _).trans e), ht⟩

end Sys2Proof
end

section
/-!
PROOFS. The pages and plans that a command leaves behind: what their release leaves unchanged.
-/

namespace Sys2Proof.Machine

/-- From s₀ to s only device memory, the match units, the states of instances and the log differ. -/
structure PagesFreed (s₀ s : State) : Prop where
  pending : s.pending = s₀.pending
  seed : s.seed = s₀.seed
  time : s.time = s₀.time
  fronds : s.fronds = s₀.fronds
  ring : s.ring = s₀.ring
  disp : s.disp = s₀.disp
  store : s.store = s₀.store
  mbx : s.mbx = s₀.mbx
  haw : s.haw = s₀.haw
  mp : s.mp = s₀.mp
  pwr : s.pwr = s₀.pwr
  tel : s.tel = s₀.tel
  sec : s.sec = s₀.sec
  lnk : s.lnk = s₀.lnk
  pads : s.pads = s₀.pads
  out : s.out = s₀.out

theorem PagesFreed.refl (s : State) : PagesFreed s s := ⟨rfl, rfl, rfl, rfl, rfl, rfl, rfl, rfl, rfl, rfl, rfl, rfl, rfl, rfl, rfl, rfl⟩

section
variable {s₀ s t : State}

/-- An update of the parts that `PagesFreed` does not name. -/
theorem PagesFreed.upd {mem eng insts log} (h : PagesFreed s₀ s) : PagesFreed s₀ { s with mem, eng, insts, log } := { h with }

theorem PagesFreed.ite {c : Prop} [Decidable c] (h : PagesFreed s₀ s) (k : PagesFreed s₀ t) : PagesFreed s₀ (if c then s else t) := by
  split
  · exact h
  · exact k

theorem PagesFreed.forEach {β : Type} {f : β → State → State} {l : List β} (h : PagesFreed s₀ s)
    (hf : ∀ b t, PagesFreed s₀ t → PagesFreed s₀ (f b t)) : PagesFreed s₀ (Machine.forEach f l s) :=
  forEach_keeps (fun b _ t => hf b t) h

theorem PagesFreed.forBelow {f : Nat → State → State} {n : Nat} (h : PagesFreed s₀ s) (hf : ∀ b t, PagesFreed s₀ t → PagesFreed s₀ (f b t)) :
    PagesFreed s₀ (Machine.forBelow f n s) := by
  induction n with
  | zero => exact h
  | succ n ih => exact hf _ _ ih

theorem PagesFreed.foldl {β : Type} {f : State → β → State} {l : List β} (h : PagesFreed s₀ s) (hf : ∀ b t, PagesFreed s₀ t → PagesFreed s₀ (f t b)) :
    PagesFreed s₀ (l.foldl f s) := by
  induction l generalizing s with
  | nil => exact h
  | cons b l ih => exact ih (hf b s h)

theorem PagesFreed.forEachSnd {α β : Type} {f : β → α × State → α × State} {l : List β} {p : α × State} (h : PagesFreed s₀ p.2)
    (hf : ∀ b p, PagesFreed s₀ p.2 → PagesFreed s₀ (f b p).2) : PagesFreed s₀ (Machine.forEach f l p).2 := by
  induction l generalizing p with
  | nil => exact h
  | cons b l ih => exact ih (hf b p h)

theorem PagesFreed.foldlSnd {α β : Type} {f : α × State → β → α × State} {l : List β} {p : α × State} (h : PagesFreed s₀ p.2)
    (hf : ∀ b p, PagesFreed s₀ p.2 → PagesFreed s₀ (f p b).2) : PagesFreed s₀ (l.foldl f p).2 := by
  induction l generalizing p with
  | nil => exact h
  | cons b l ih => exact ih (hf b p h)

theorem PagesFreed.of_snd_snd {α β : Type} {p : α × β × State} {a : α} {b : β} (h : PagesFreed s₀ p.2.2) (e : p = (a, b, t)) : PagesFreed s₀ t := by
  rw [e] at h; exact h

/-- The state of a result. -/
theorem PagesFreed.of_snd {α : Type} {p : α × State} {a : α} (h : PagesFreed s₀ p.2) (e : p = (a, t)) : PagesFreed s₀ t := by
  rw [e] at h; exact h

end

end Sys2Proof.Machine
end

section
namespace Sys2Proof.Machine

section
-- Each of these short lemmas would else wait in a thread of its own.
set_option Elab.async false
variable {s₀ s t : State}

theorem PagesFreed.setInst {i : Nat} {x : Inst} (h : PagesFreed s₀ s) : PagesFreed s₀ (s.setInst i x) := h.upd

theorem PagesFreed.setCmu {u : Nat} {x : CmuUnit} (h : PagesFreed s₀ s) : PagesFreed s₀ (s.setCmu u x) := h.upd

theorem PagesFreed.setSmu {u : Nat} {x : SmuUnit} (h : PagesFreed s₀ s) : PagesFreed s₀ (s.setSmu u x) := h.upd

theorem PagesFreed.setDgu {u : Nat} {x : DguUnit} (h : PagesFreed s₀ s) : PagesFreed s₀ (s.setDgu u x) := h.upd

theorem PagesFreed.logOne {code src inst detail : Nat} (h : PagesFreed s₀ s) : PagesFreed s₀ (logOne code src inst detail s) :=
  h.upd

theorem PagesFreed.logEvent {code src inst detail : Nat} {ext : Option Nat} (h : PagesFreed s₀ s) :
    PagesFreed s₀ (logEvent code src inst detail ext s) := by
  unfold Machine.logEvent
  split
  · exact h.logOne
  · exact h.logOne.logOne

theorem PagesFreed.addCounter {i k n : Nat} (h : PagesFreed s₀ s) : PagesFreed s₀ (addCounter i k n s) := .ite h h.setInst

theorem PagesFreed.setFrame {f : Nat} {x : Frame} (h : PagesFreed s₀ s) : PagesFreed s₀ (s.setFrame f x) := h.upd

theorem PagesFreed.putLeaf {b p : Nat} {e : W32} (h : PagesFreed s₀ s) : PagesFreed s₀ (putLeaf b p e s) := h.upd

theorem PagesFreed.setLeaf {i p : Nat} {e : W32} (h : PagesFreed s₀ s) : PagesFreed s₀ (setLeaf i p e s) := by
  unfold Machine.setLeaf
  split
  · exact h.putLeaf
  · split
    · exact h
    · exact h.upd.putLeaf

theorem PagesFreed.leaveQuota {f : Nat} (h : PagesFreed s₀ s) : PagesFreed s₀ (leaveQuota f s) := by
  unfold Machine.leaveQuota
  split
  · exact h
  · next i _ =>
    have h1 : PagesFreed s₀ (s.setInst i { s.inst i with frames := (s.inst i).frames.erase f }) := h.setInst
    generalize s.setInst i _ = t at h1 ⊢
    exact h1.setFrame

theorem PagesFreed.releaseFrame {f : Nat} (h : PagesFreed s₀ s) : PagesFreed s₀ (releaseFrame f s) :=
  .ite h.leaveQuota.setFrame.upd.logEvent h.leaveQuota.setFrame.upd

theorem PagesFreed.unmapPage {i p : Nat} (h : PagesFreed s₀ s) : PagesFreed s₀ (unmapPage i p s) := by
  unfold Machine.unmapPage
  split
  · exact h
  · exact .ite h.setLeaf (.ite h.setLeaf.leaveQuota.upd h.setLeaf.releaseFrame)

theorem PagesFreed.dropImages {i : Nat} {p : PlanEnt} (h : PagesFreed s₀ s) : PagesFreed s₀ (dropImages i p s) :=
  h.forBelow fun _ _ h1 => h1.setCmu

theorem PagesFreed.reapPlans {i : Nat} (h : PagesFreed s₀ s) : PagesFreed s₀ (reapPlans i s) :=
  h.setInst.forEach (fun _ _ h1 => .dropImages (h1.forEach (fun _ _ h2 => h2.unmapPage)))

end

end Sys2Proof.Machine
end

section
/-!
PROOFS. Completion entries: the entry that a ready CQ takes, the command that leaves with it, and the duplicates that follow.
-/

namespace Sys2Proof.Machine

/-! ## Entries of tables -/

theorem Tbl.mem_insert {α : Type} {k : Nat} {v : α} {t : Tbl α} {e : Nat × α} (h : e ∈ Tbl.insert k v t) : e = (k, v) ∨ e ∈ t := by
  induction t with
  | nil => exact .inl (List.mem_singleton.1 h)
  | cons x t ih =>
    obtain ⟨j, w⟩ := x
    rw [Tbl.insert] at h
    split at h
    · exact List.mem_cons.1 h
    · rcases List.mem_cons.1 h with rfl | h
      · exact .inr List.mem_cons_self
      · exact (ih h).imp id fun h => List.mem_cons_of_mem _ h

theorem Tbl.mem_erase {α : Type} {k : Nat} {t : Tbl α} {e : Nat × α} (h : e ∈ t.erase k) : e ∈ t := by
  induction t with
  | nil => exact h
  | cons x t ih =>
    obtain ⟨j, w⟩ := x
    rw [Tbl.erase] at h
    split at h
    · exact List.mem_cons_of_mem _ (ih h)
    · exact (List.mem_cons.1 h).elim (fun hx => List.mem_cons.2 (.inl hx)) fun hx => List.mem_cons_of_mem _ (ih hx)

theorem Tbl.mem_set {α : Type} [DecidableEq α] {d v : α} {t : Tbl α} {k : Nat} {e : Nat × α} (h : e ∈ t.set d k v) :
    e = (k, v) ∧ v ≠ d ∨ e ∈ t := by
  unfold Tbl.set at h
  split at h
  · exact .inr (Tbl.mem_erase h)
  · next hv => exact (Tbl.mem_insert h).imp (⟨·, hv⟩) Tbl.mem_erase

/-! ## Commands that no duplicate waits for -/

/-- No command that waits as a duplicate of acceptance number n is in a slot. -/
def NoDups (n : Nat) (s : State) : Prop := ∀ e ∈ s.ring.cmds, ∀ x, e.2 = some x → x.dupOf ≠ some n

theorem NoDups.setCmd {n k : Nat} {x : Option Cmd} {s : State} (h : NoDups n s) (hx : ∀ y, x = some y → y.dupOf ≠ some n) :
    NoDups n (s.setCmd k x) := fun e he y hy =>
  (Tbl.mem_set he).elim (fun ⟨he, _⟩ => hx y ((congrArg Prod.snd he).symm.trans hy)) fun he => h e he y hy

theorem NoDups.of_cmds {n : Nat} {s t : State} (h : NoDups n s) (ht : t.ring.cmds = s.ring.cmds) : NoDups n t :=
  fun e he => h e (ht ▸ he)

/-- Without duplicates nothing follows a command's entry. -/
theorem placeDups_none {c : Cmd} {s : State} (h : NoDups c.accNo s) : placeDups c s = s := by
  have hl : (s.ring.cmds.filter fun e => e.2.any fun x => decide (x.dupOf = some c.accNo) && decide (x.phase = .dupWait)) = [] := by
    refine List.filter_eq_nil_iff.2 fun e he hx => ?_
    obtain ⟨hs, hd⟩ := (Option.any_eq_true_iff_get _ _).1 hx
    exact h e he _ (Option.some_get hs).symm (of_decide_eq_true (Bool.and_eq_true_iff.1 hd).1)
  unfold placeDups
  rw [hl]
  rfl

/-! ## A command leaves its slot -/

/-- What a command that leaves its slot leaves of the others: their fences no longer wait for it. -/
def withoutFence (c : Cmd) (x : Cmd) : Cmd := if x.inst = c.inst then { x with fenceOn := x.fenceOn.erase c.accNo } else x

theorem withoutFence_dupOf (c x : Cmd) : (withoutFence c x).dupOf = x.dupOf := by
  unfold withoutFence
  split <;> rfl

/-- The rings, the outputs and the host ports after a command has left its slot. -/
theorem retireCmd_rings {k : Nat} {c : Cmd} {s : State} (hc : s.cmd k = some c) :
    (retireCmd k s).ring = { (s.setCmd k none).ring with
      cmds := (s.setCmd k none).ring.cmds.map fun e => (e.1, e.2.map (withoutFence c)) } ∧
    (retireCmd k s).out = s.out ∧ (retireCmd k s).lnk = s.lnk := by
  unfold retireCmd
  rw [hc]
  dsimp only
  have h : PagesFreed (s.setCmd k none) (reapPlans c.inst (forEach (unmapPage c.inst) c.pages (s.setCmd k none))) :=
    ((PagesFreed.refl _).forEach fun _ _ h1 => h1.unmapPage).reapPlans
  generalize reapPlans c.inst _ = t at h ⊢
  exact ⟨by rw [h.ring]; rfl, h.out, h.lnk⟩

theorem retireCmd_cmd {k : Nat} {c : Cmd} {s : State} (hc : s.cmd k = some c) : (retireCmd k s).cmd k = none := by
  have h : (s.setCmd k none).cmd k = none := State.setCmd_same ..
  unfold State.cmd
  rw [(retireCmd_rings hc).1]
  exact Tbl.get_map_imp (· = none) (fun v hv => by rw [hv]; rfl) _ k h

theorem retireCmd_noDups {n k : Nat} {c : Cmd} {s : State} (hc : s.cmd k = some c) (h : NoDups n s) : NoDups n (retireCmd k s) := by
  intro e he x hx
  rw [(retireCmd_rings hc).1] at he
  obtain ⟨e', he', rfl⟩ := List.mem_map.1 he
  obtain ⟨y, hy, rfl⟩ := Option.map_eq_some_iff.1 hx
  rw [withoutFence_dupOf]
  exact h.setCmd (k := k) (x := none) (fun _ hn => absurd hn (Option.some_ne_none _).symm) e' he' y hy

/-! ## The entry is written -/

/-- The CQ after an entry has been written to it and before its interrupt goes out. -/
def entryTaken (q : Cq) (irq : Bool) (now : Nat) : Cq :=
  { q with
    tail := BitVec.ofNat 32 (ringNext q.log2 q.tail.toNat),
    sigCount := if q.ien && irq then q.sigCount + 1 else q.sigCount,
    sigFirst := if (q.ien && irq) && decide (q.sigCount = 0) then now else q.sigFirst }

/-- A message to the host drops none that was sent. -/
theorem mem_hostOut {p : Nat} {m x : HostMsg} {s : State} (h : x ∈ s.out.host) : x ∈ (hostOut p m s).out.host := by
  unfold hostOut
  dsimp only
  split
  · exact List.mem_append_left _ h
  · split <;> exact h

theorem mem_hostSend {p : Nat} {m x : HostMsg} {s : State} (h : x ∈ s.out.host) : x ∈ (hostSend p m s).out.host := by
  unfold hostSend
  split
  · split
    · split <;> exact h
    · exact mem_hostOut h
  · exact mem_hostOut h

/-- The interrupt of a CQ: nothing of the rings but the count of its own signals changes. -/
theorem signalCq_rings (i n : Nat) (force : Bool) (s : State) :
    (signalCq i n force s).ring.cmds = s.ring.cmds ∧ (signalCq i n force s).ring.sqs = s.ring.sqs ∧
    ∃ a b, (signalCq i n force s).cq i n = { s.cq i n with sigCount := a, sigFirst := b } := by
  unfold signalCq
  dsimp only
  split
  · rw [hostSend_ring]
    exact ⟨rfl, rfl, 0, 0, (cq_of_ring (hostSend_ring ..) i n).trans (State.setCq_same ..)⟩
  · exact ⟨rfl, rfl, _, _, rfl⟩

theorem mem_signalCq {i n : Nat} {force : Bool} {x : HostMsg} {s : State} (h : x ∈ s.out.host) : x ∈ (signalCq i n force s).out.host := by
  unfold signalCq
  dsimp only
  split
  · exact mem_hostSend h
  · exact h

/-- The window of an SQ once the entry of a command has been written. -/
def entryNoted (c : Cmd) (q : Sq) : Sq :=
  { q with window := q.window.map fun r =>
      if r.accNo = c.accNo then { r with fixed := true, written := some (c.outcome.getD 0, c.r0, c.r1) } else r }

/-- The completion entry of a command as a message to the host (R368, R371). -/
def entryMessage (n : Nat) (c : Cmd) (s : State) : HostMsg :=
  .write (s.cq c.inst n).port c.inst ((s.cq c.inst n).base + 32 * ringSlot (s.cq c.inst n).log2 (s.cq c.inst n).tail.toNat)
    (entryWords c (c.outcome.getD 0) (ringWrap (s.cq c.inst n).log2 (s.cq c.inst n).tail.toNat) (s.sq c.inst c.sq).head.toNat)

/-- An entry is written, then its command leaves its slot, then the interrupt goes out. -/
theorem writeEntryNow_of {k n : Nat} {c : Cmd} {s : State} (hc : s.cmd k = some c) (hup : (s.hostPort (s.cq c.inst n).port).up = true) :
    ∃ u, writeEntryNow k n s = signalCq c.inst n false (retireCmd k u) ∧
      u.ring = ((s.setCq c.inst n (entryTaken (s.cq c.inst n) c.irq s.time)).setSq c.inst c.sq
        (entryNoted c (s.sq c.inst c.sq))).ring ∧
      u.out.host = s.out.host ++ [entryMessage n c s] := by
  have hw : hostWrite (s.cq c.inst n).port c.inst ((s.cq c.inst n).base + 32 * ringSlot (s.cq c.inst n).log2 (s.cq c.inst n).tail.toNat)
      (entryWords c (c.outcome.getD 0) (ringWrap (s.cq c.inst n).log2 (s.cq c.inst n).tail.toNat) (s.sq c.inst c.sq).head.toNat) s =
      { s with out := { s.out with host := s.out.host ++ [entryMessage n c s] } } := hostOut_up hup
  have hn (t : State) : (addCounter c.inst 6 1 (addCounter c.inst 3 32 t)).ring = t.ring ∧
      (addCounter c.inst 6 1 (addCounter c.inst 3 32 t)).out = t.out :=
    have h := ((PagesFreed.refl t).addCounter (i := c.inst) (k := 3) (n := 32)).addCounter (i := c.inst) (k := 6) (n := 1)
    ⟨h.ring, h.out⟩
  unfold writeEntryNow
  rw [hc]
  dsimp only
  refine ⟨_, rfl, (hn _).1.trans ?_, (congrArg (·.host) (hn _).2).trans ?_⟩
  · rw [hw]
    rfl
  · rw [hw]
    rfl

/-- What holds of the SQs of instance i whose entries go to CQ n: none of them fetches. -/
def NoFetch (i n : Nat) (s : State) : Prop := ∀ e ∈ s.ring.sqs, keyInst e.1 = i → e.2.cq = n → e.2.slotRes = none

theorem NoFetch.setSq {i n j m : Nat} {x : Sq} {s : State} (h : NoFetch i n s) (hq : x.cq = (s.sq j m).cq)
    (hr : x.slotRes = (s.sq j m).slotRes) : NoFetch i n (s.setSq j m x) := fun e he hi hn => by
  rcases Tbl.mem_set he with ⟨rfl, -⟩ | he
  · by_cases hd : s.sq j m = Sq.absent
    · exact hr.trans (by rw [hd]; rfl)
    · exact hr.trans (h _ (Tbl.mem_of_get rfl hd) hi (hq.symm.trans hn))
  · exact h e he hi hn

theorem NoFetch.of_sqs {i n : Nat} {s t : State} (h : NoFetch i n s) (ht : t.ring.sqs = s.ring.sqs) : NoFetch i n t :=
  fun e he => h e (ht ▸ he)

/-- The written entry: its command has left, its CQ is one entry further, its words go to the host. -/
theorem writeEntryNow_rings {k n : Nat} {c : Cmd} {s : State} (hc : s.cmd k = some c)
    (hup : (s.hostPort (s.cq c.inst n).port).up = true) :
    (writeEntryNow k n s).cmd k = none ∧
    (∃ a b, (writeEntryNow k n s).cq c.inst n = { s.cq c.inst n with
      tail := BitVec.ofNat 32 (ringNext (s.cq c.inst n).log2 (s.cq c.inst n).tail.toNat), sigCount := a, sigFirst := b }) ∧
    entryMessage n c s ∈ (writeEntryNow k n s).out.host ∧
    (∀ m, NoDups m s → NoDups m (writeEntryNow k n s)) ∧ ∀ i m, NoFetch i m s → NoFetch i m (writeEntryNow k n s) := by
  obtain ⟨u, he, hr, ho⟩ := writeEntryNow_of hc hup
  have hu : u.cmd k = some c := (cmd_of_ring hr k).trans hc
  obtain ⟨hring, hout, -⟩ := retireCmd_rings hu
  have hcmd := retireCmd_cmd hu
  have hdups (m : Nat) (h : NoDups m s) : NoDups m (retireCmd k u) := retireCmd_noDups hu (h.of_cmds (congrArg (·.cmds) hr))
  have hfetch (i m : Nat) (h : NoFetch i m s) : NoFetch i m (retireCmd k u) :=
    (h.setSq (x := entryNoted c (s.sq c.inst c.sq)) rfl rfl).of_sqs ((congrArg (·.sqs) hring).trans (congrArg (·.sqs) hr))
  have hcq : (retireCmd k u).cq c.inst n = entryTaken (s.cq c.inst n) c.irq s.time :=
    calc (retireCmd k u).ring.cqs.get Cq.absent (cqKey c.inst n)
      _ = u.ring.cqs.get Cq.absent (cqKey c.inst n) := by rw [hring]; rfl
      _ = _ := by rw [hr]; exact State.setCq_same s c.inst n _
  have hmsg : entryMessage n c s ∈ (retireCmd k u).out.host := by
    rw [hout, ho]
    exact List.mem_append_right _ List.mem_cons_self
  rw [he]
  generalize retireCmd k u = v at hcmd hdups hfetch hcq hmsg ⊢
  obtain ⟨hc', hs', a, b, hq'⟩ := signalCq_rings c.inst n false v
  refine ⟨?_, ⟨a, b, ?_⟩, mem_signalCq hmsg, fun m h => (hdups m h).of_cmds hc', fun i m h => (hfetch i m h).of_sqs hs'⟩
  · unfold State.cmd
    rw [hc']
    exact hcmd
  · rw [hq', hcq]
    rfl

theorem entryReady_up {c : Cmd} {n : Nat} {s : State} (h : entryReady c n s = true) : (s.hostPort (s.cq c.inst n).port).up = true := by
  unfold entryReady cqReady at h
  simp only [Bool.and_eq_true] at h
  exact h.1.2

/-- A command whose CQ can take its entry, and for which no duplicate waits, ends with that entry. -/
theorem completeCmd_written {k : Nat} {c : Cmd} {s : State} (hc : s.cmd k = some c) (hl : c.silent = false)
    (hr : entryReady c (s.sq c.inst c.sq).cq s = true) (hb : (s.cq c.inst (s.sq c.inst c.sq).cq).buf = [])
    (hh : (s.cq c.inst (s.sq c.inst c.sq).cq).held = []) (hd : NoDups c.accNo s) :
    completeCmd k s = writeEntryNow k (s.sq c.inst c.sq).cq s := by
  obtain ⟨hcmd, -, -, hdups, -⟩ := writeEntryNow_rings hc (entryReady_up hr)
  have hp : placeOne k s = writeEntryNow k (s.sq c.inst c.sq).cq s := by
    unfold placeOne
    rw [hc]
    dsimp only
    rw [if_neg (by rw [hl]; exact Bool.false_ne_true), hb, hh, hr]
    rfl
  unfold completeCmd
  rw [hc]
  dsimp only
  rw [hp, hcmd]
  exact placeDups_none (hdups _ hd)

/-! ## The stall bits of SQs -/

/-- The stall bits of an SQ change its state bits and the counters only. -/
theorem setStall_noFetch {i n j m : Nat} {o k c : Bool} {s : State} (h : NoFetch i n s) : NoFetch i n (setStall j m o k c s) := by
  have h1 : NoFetch i n (s.setSq j m { s.sq j m with stOutlim := o, stQuota := k, stCq := c }) := h.setSq rfl rfl
  unfold setStall
  dsimp only
  split
  · exact h1.of_sqs rfl
  · exact h1

theorem setStall_ring (j m : Nat) (o k c : Bool) (s : State) : ∃ x y z, setStall j m o k c s =
    { s with ring := { s.ring with sqs := x, cnt := y, instCnt := z } } := by
  unfold setStall
  dsimp only
  split
  · exact ⟨_, _, _, rfl⟩
  · exact ⟨_, s.ring.cnt, s.ring.instCnt, rfl⟩

theorem markCq_ring (i n : Nat) (b : Bool) (s : State) : ∃ x y z, markCq i n b s =
    { s with ring := { s.ring with sqs := x, cnt := y, instCnt := z } } := by
  refine forEach_keeps (P := fun t => ∃ x y z, t = { s with ring := { s.ring with sqs := x, cnt := y, instCnt := z } }) ?_ ⟨s.ring.sqs, s.ring.cnt, s.ring.instCnt, rfl⟩
  rintro m - _ ⟨x, y, z, rfl⟩
  obtain ⟨x', y', z', h⟩ := setStall_ring i m (State.sq _ i m).stOutlim (State.sq _ i m).stQuota b { s with ring := { s.ring with sqs := x, cnt := y, instCnt := z } }
  exact ⟨x', y', z', h⟩

theorem markCq_noFetch {i n j m : Nat} {b : Bool} {s : State} (h : NoFetch i n s) : NoFetch i n (markCq j m b s) :=
  forEach_keeps (P := NoFetch i n) (fun _ _ _ h1 => setStall_noFetch h1) h

end Sys2Proof.Machine
end

section
/-!
PROOFS. Completion queues: waiting entries that are written, and interrupts whose time has passed (R392, R400).
-/

namespace Sys2Proof.Machine

/-- The first waiting entry of a CQ stays, and with it all others, while it is not ready. -/
theorem drainAll_waits {i n k : Nat} {c : Cmd} {s : State} (hk : ((s.cq i n).buf ++ (s.cq i n).held).head? = some k)
    (hc : s.cmd k = some c) (hr : entryReady c n s = false) : drainAll i n s = s := by
  have hn : (s.cmd k).all (fun c => entryReady c n s) = false := by
    rw [hc]
    exact hr
  have hd : drainCq i n (s.ring.cmds.length + 1) s = s := by
    rw [drainCq]
    dsimp only
    split
    · next k' t h =>
      rw [h] at hk
      obtain rfl : k' = k := Option.some.inj hk
      exact if_neg (Bool.eq_false_iff.1 hn)
    · next k' t hb hh =>
      rw [hb, hh] at hk
      obtain rfl : k' = k := Option.some.inj hk
      exact if_neg (Bool.eq_false_iff.1 hn)
    · next hb hh =>
      rw [hb, hh] at hk
      exact absurd hk (Option.some_ne_none k).symm
  have hh : cqHolds i n s = true := by
    unfold cqHolds
    cases hb : (s.cq i n).buf with
    | cons => rfl
    | nil => cases hl : (s.cq i n).held with
      | cons => rfl
      | nil => simp [hb, hl] at hk
  unfold drainAll
  rw [hd]
  exact if_pos hh

/-- Once a CQ holds nothing, the SQs of it that fetch go on; there are none. -/
theorem drainAll_done {i n : Nat} {s u : State} (hu : drainCq i n (s.ring.cmds.length + 1) s = u) (hb : (u.cq i n).buf = [])
    (hh : (u.cq i n).held = []) (hf : NoFetch i n u) : drainAll i n s = u := by
  have hl : (u.ring.sqs.filter fun e => decide (keyInst e.1 = i) && decide (e.2.cq = n) && e.2.slotRes.isSome) = [] := by
    refine List.filter_eq_nil_iff.2 fun e he hx => ?_
    simp only [Bool.and_eq_true, decide_eq_true_eq] at hx
    obtain ⟨⟨hi, hn⟩, hs⟩ := hx
    rw [hf e he hi hn] at hs
    exact Bool.false_ne_true hs
  have hc : cqHolds i n u = false := by
    unfold cqHolds
    rw [hb, hh]
    rfl
  unfold drainAll
  rw [hu]
  dsimp only
  rw [hl, hc]
  rfl

/-- A CQ that holds nothing: it may be full again, and its SQs show no stall. -/
theorem drainCq_empty {i n fuel : Nat} {s : State} (hb : (s.cq i n).buf = []) (hh : (s.cq i n).held = []) :
    drainCq i n (fuel + 1) s = markCq i n false (s.setCq i n { s.cq i n with fullRaised := false }) := by
  rw [drainCq]
  dsimp only
  rw [hb, hh]

theorem markCq_cq (i n j m : Nat) (b : Bool) (s : State) : (markCq i n b s).cq j m = s.cq j m := by
  obtain ⟨_, _, _, h⟩ := markCq_ring i n b s
  rw [h]
  rfl

/-- Draining a CQ that holds nothing keeps its entries and what was sent. -/
theorem drainCq_kept {i n fuel : Nat} {s : State} (hb : (s.cq i n).buf = []) (hh : (s.cq i n).held = []) :
    (drainCq i n fuel s).ring.cmds = s.ring.cmds ∧ (drainCq i n fuel s).out = s.out ∧
    (∃ b, (drainCq i n fuel s).cq i n = { s.cq i n with fullRaised := b }) ∧
    (NoFetch i n s → NoFetch i n (drainCq i n fuel s)) := by
  cases fuel with
  | zero => exact ⟨rfl, rfl, ⟨_, rfl⟩, id⟩
  | succ fuel =>
    rw [drainCq_empty hb hh]
    refine ⟨?_, ?_, ⟨false, (markCq_cq ..).trans (State.setCq_same ..)⟩, fun h => markCq_noFetch (h.of_sqs rfl)⟩ <;>
    · obtain ⟨_, _, _, h⟩ := markCq_ring i n false (s.setCq i n { s.cq i n with fullRaised := false })
      rw [h]
      rfl

/-- The one entry in the completion buffer of a CQ is written when it is ready. -/
theorem drainCq_one {i n k fuel : Nat} {c : Cmd} {s : State} (hb : (s.cq i n).buf = [k]) (hh : (s.cq i n).held = [])
    (hc : s.cmd k = some c) (hr : entryReady c n s = true) : drainCq i n (fuel + 1) s =
    drainCq i n fuel (placeDups c (writeEntryNow k n (s.setCq i n { s.cq i n with buf := [], held := [] }))) := by
  have hw : writeHeld k n (s.setCq i n { s.cq i n with buf := [], held := [] }) =
      placeDups c (writeEntryNow k n (s.setCq i n { s.cq i n with buf := [], held := [] })) := by
    unfold writeHeld
    rw [show (s.setCq i n { s.cq i n with buf := [], held := [] }).cmd k = some c from hc]
  rw [drainCq]
  dsimp only
  rw [hb, hh]
  dsimp only
  exact (if_pos (by rw [hc]; exact hr)).trans (congrArg _ hw)

/-- The interrupt of a CQ whose moderation time has passed. -/
theorem signalCq_forced {i n : Nat} {s : State} (he : (s.cq i n).ien = true) (hc : (s.cq i n).sigCount ≠ 0)
    (hu : (s.hostPort (s.cq i n).port).up = true) (hm : msixMasked s i (s.cq i n).vector = false) :
    signalCq i n true s = { s with
      ring := (s.setCq i n { s.cq i n with sigCount := 0, sigFirst := 0 }).ring,
      out := { s.out with host := s.out.host ++ [.msix (s.cq i n).port i (s.cq i n).vector] } } := by
  have hs : signalCq i n true s = hostSend (s.cq i n).port (.msix (s.cq i n).port i (s.cq i n).vector)
      (s.setCq i n { s.cq i n with sigCount := 0, sigFirst := 0 }) :=
    if_pos (by rw [he, decide_eq_true (Nat.pos_of_ne_zero hc)]; rfl)
  have ho : hostSend (s.cq i n).port (.msix (s.cq i n).port i (s.cq i n).vector)
      (s.setCq i n { s.cq i n with sigCount := 0, sigFirst := 0 }) =
      hostOut (s.cq i n).port (.msix (s.cq i n).port i (s.cq i n).vector)
        (s.setCq i n { s.cq i n with sigCount := 0, sigFirst := 0 }) :=
    if_neg (by rw [show msixMasked (s.setCq i n _) i (s.cq i n).vector = false from hm]; exact Bool.false_ne_true)
  rw [hs, ho, hostOut_up (by exact hu)]
  rfl

end Sys2Proof.Machine

namespace Sys2Proof
open Machine

/-- Settles O19: a ready entry leaves the buffer by `writeEntryNow`, after which the CQ holds nothing and no SQ of it
fetches. -/
theorem completionQueues : Obligations.CompletionQueues := by
  unfold Obligations.CompletionQueues
  refine ⟨?_, ?_, ?_, ?_⟩
  · intro i n s hb hh hf
    have h := drainCq_kept (fuel := s.ring.cmds.length + 1) hb hh
    obtain ⟨-, -, ⟨b, hq⟩, hk⟩ := h
    refine congrArg Host.Outcome.next ((drainAll_done rfl ?_ ?_ (hk hf)).trans (drainCq_empty hb hh))
    · rw [hq]
      exact hb
    · rw [hq]
      exact hh
  · intro i n k c s hk hc _ hr
    exact congrArg Host.Outcome.next (drainAll_waits hk hc hr)
  · rintro i n k c s hr hb hh hc rfl _ hd hf
    have hu : ((s.setCq c.inst n { s.cq c.inst n with buf := [], held := [] }).hostPort
        ((s.setCq c.inst n { s.cq c.inst n with buf := [], held := [] }).cq c.inst n).port).up = true := by
      rw [State.setCq_same]
      exact entryReady_up hr
    obtain ⟨hcmd, ⟨a, b, hq⟩, hmsg, hdups, hfetch⟩ := writeEntryNow_rings
      (show (s.setCq c.inst n { s.cq c.inst n with buf := [], held := [] }).cmd k = some c from hc) hu
    have he := drainCq_one (fuel := s.ring.cmds.length) hb hh hc hr
    rw [placeDups_none (hdups _ (NoDups.of_cmds (s := s) hd rfl))] at he
    have hf' := hfetch _ _ (NoFetch.of_sqs (s := s) (i := c.inst) (n := n) hf rfl)
    rw [State.setCq_same] at hq
    unfold entryMessage at hmsg
    rw [State.setCq_same] at hmsg
    generalize writeEntryNow k n _ = u at hcmd hq hmsg hf' he
    have hub : (u.cq c.inst n).buf = [] := by rw [hq]
    have huh : (u.cq c.inst n).held = [] := by rw [hq]
    obtain ⟨hc', ho', ⟨b', hq'⟩, hk'⟩ := drainCq_kept (fuel := s.ring.cmds.length) hub huh
    rw [← he] at hc' ho' hq' hk'
    refine ⟨_, congrArg Host.Outcome.next (drainAll_done rfl (by rw [hq', hq]) (by rw [hq', hq]) (hk' hf')), ?_, ?_, ?_, ?_⟩
    · unfold State.cmd
      rw [hc']
      exact hcmd
    · rw [hq', hq]
    · rw [hq', hq]
    · rw [ho']
      exact hmsg
  · intro i n s he hc ht hu hm
    have hx : exec (.cqAggTimeExpiry i n) s = .next (signalCq i n true s) :=
      if_neg fun h => h.elim hc (Nat.not_lt.2 ht)
    rw [signalCq_forced he hc hu hm] at hx
    exact ⟨_, hx, rfl, State.setCq_same .., rfl⟩

end Sys2Proof
end

section
/-!
PROOFS. The commit sequence: the end of a command with its completion entry, and the waits of its own work (R74).
-/

namespace Sys2Proof.Machine

/-- A command whose outcome stands ends at once, unless it publishes what it stores. -/
theorem execCommitFinish_ends {k o : Nat} {c : Cmd} {s : State} (hk : k < nSlots) (hc : s.cmd k = some c) (ho : c.outcome = some o)
    (hd : c.dupOf = none) (hp : c.phase ≠ .entryWait) (hw : c.phase = .durWait → o ≠ stSuccess) (hf : fanOf s k = none)
    (hb : cmdBusy k s = false) (hs : o ≠ stSuccess ∨ storeOuts c = []) :
    exec (.commitFinish k) s = .next (endCommand k c (s.modCmd k fun c => { c with step3 := true })) := by
  show execCommitFinish k s = _
  unfold execCommitFinish
  rw [hc]
  dsimp only
  rw [if_neg, if_neg (Nat.not_le.2 hk), hf]
  · dsimp only
    refine if_pos (.inr ?_)
    rcases hs with h | h
    · exact .inl (by simp [ho, h])
    · exact .inr (by rw [h]; rfl)
  · rintro (h | h | h | h)
    · rw [ho] at h
      exact Bool.false_ne_true h
    · rw [hd] at h
      exact Bool.false_ne_true h
    · rw [ho] at h
      simp only [Bool.or_eq_true, Bool.and_eq_true, decide_eq_true_eq, Option.some.injEq] at h
      exact h.elim hp fun ⟨⟨_, h⟩, h'⟩ => hw h h'
    · rw [hb] at h
      exact Bool.false_ne_true h

/-- Nothing is finished while the outcome is open or work is left. -/
theorem execCommitFinish_waits {k : Nat} {c : Cmd} {s : State} (hc : s.cmd k = some c) (h : c.outcome = none ∨ cmdBusy k s = true) :
    exec (.commitFinish k) s = .next s := by
  show execCommitFinish k s = _
  unfold execCommitFinish
  rw [hc]
  exact if_pos (h.elim (fun h => .inl (by rw [h]; rfl)) fun h => .inr (.inr (.inr h)))

/-- A command without work of its own writes nothing before its entry, and what its fan-out leaves changes no ring. -/
theorem endCommand_idle {k : Nat} {c : Cmd} (s : State) (hw : c.work = .none) :
    (endCommand k c s).ring = (completeCmd k (setPhase k .ended s)).ring ∧
    (endCommand k c s).out = (completeCmd k (setPhase k .ended s)).out := by
  have hh : writeHeaders k c s = s := by
    unfold writeHeaders queryRun
    rw [hw]
  have ho : writeOwn c s = s := by
    unfold writeOwn
    rw [hw]
    exact ite_self _
  have hc : closeOwn k c s = s := by
    unfold closeOwn
    rw [hw]
  unfold endCommand
  rw [hh, ho, hc]
  dsimp only
  split <;> exact ⟨rfl, rfl⟩

/-- What waits at its ordering point goes on. -/
theorem orderingWaitEnd_goes {k : Nat} {c : Cmd} {s : State} (hc : s.cmd k = some c) (hp : c.phase = .ordering) (ho : c.outcome = none) :
    exec (.orderingWaitEnd k) s =
      if c.isQuery then .next (tryQuery k s)
      else if 0x10 ≤ c.opc ∧ c.opc ≤ 0x15 then .next (storeOrdered k c s)
      else if c.opc = 0x20 ∨ c.opc = 0x21 then .next (tryDigest k s)
      else if c.opc = 0x30 then .next (tryUpdate k c (matchBytes c) s)
      else .next (trySearch k c (matchBytes c) s) := by
  show execOrderingWaitEnd k s = _
  unfold execOrderingWaitEnd
  rw [hc]
  exact if_neg fun h => h.elim (absurd hp) fun h => by simp [ho] at h

theorem Cmd.isQuery_of_opc {c : Cmd} (h : 2 < c.opc) : c.isQuery = false := by
  have h1 : c.opc ≠ 1 := by omega
  have h2 : c.opc ≠ 2 := by omega
  simp [Cmd.isQuery, h1, h2]

/-- The last steps of a command of whose work nothing is left, with a CQ that can take its entry. -/
theorem endCommand_written {k o : Nat} {c : Cmd} {s : State} (hc : s.cmd k = some c) (ho : c.outcome = some o) (hw : c.work = .none)
    (hl : c.silent = false) (hr : cqReady c.inst (s.sq c.inst c.sq).cq s = true) (hv : writesWait s c = false)
    (hb : (s.cq c.inst (s.sq c.inst c.sq).cq).buf = []) (hh : (s.cq c.inst (s.sq c.inst c.sq).cq).held = [])
    (hd : NoDups c.accNo s) (hs : c.dupOf = none) (t : State) (ht : t = endCommand k c (s.modCmd k fun c => { c with step3 := true })) :
    t.cmd k = none ∧
    (t.cq c.inst (s.sq c.inst c.sq).cq).tail = BitVec.ofNat 32 (ringNext (s.cq c.inst (s.sq c.inst c.sq).cq).log2
      (s.cq c.inst (s.sq c.inst c.sq).cq).tail.toNat) ∧
    .write (s.cq c.inst (s.sq c.inst c.sq).cq).port c.inst
      ((s.cq c.inst (s.sq c.inst c.sq).cq).base + 32 * ringSlot (s.cq c.inst (s.sq c.inst c.sq).cq).log2
        (s.cq c.inst (s.sq c.inst c.sq).cq).tail.toNat)
      (entryWords c o (ringWrap (s.cq c.inst (s.sq c.inst c.sq).cq).log2 (s.cq c.inst (s.sq c.inst c.sq).cq).tail.toNat)
        (s.sq c.inst c.sq).head.toNat) ∈ t.out.host := by
  obtain ⟨hring, hout⟩ := endCommand_idle (k := k) (s.modCmd k fun c => { c with step3 := true }) hw
  rw [← ht] at hring hout
  have hm : setPhase k .ended (s.modCmd k fun c => { c with step3 := true }) =
      (s.setCmd k (some { c with step3 := true })).setCmd k (some { c with step3 := true, phase := .ended }) := by
    unfold setPhase
    rw [State.modCmd_of (State.modCmd_cmd hc _), State.modCmd_of hc]
  have hu : ((s.setCmd k (some { c with step3 := true })).setCmd k (some { c with step3 := true, phase := .ended })).cmd k =
      some { c with step3 := true, phase := .ended } := State.setCmd_same ..
  have hn : NoDups c.accNo ((s.setCmd k (some { c with step3 := true })).setCmd k (some { c with step3 := true, phase := .ended })) := by
    have h0 (x : Cmd) (hx : x.dupOf = none) (y : Cmd) (hy : some x = some y) : y.dupOf ≠ some c.accNo := by
      obtain rfl := Option.some.inj hy
      rw [hx]
      exact (Option.some_ne_none _).symm
    exact (hd.setCmd (h0 { c with step3 := true } hs)).setCmd (h0 { c with step3 := true, phase := .ended } hs)
  have hr' : entryReady { c with step3 := true, phase := .ended } (s.sq c.inst c.sq).cq
      ((s.setCmd k (some { c with step3 := true })).setCmd k (some { c with step3 := true, phase := .ended })) = true := by
    unfold entryReady
    exact Bool.and_eq_true_iff.2 ⟨hr, congrArg (!·) hv⟩
  obtain ⟨hcmd, ⟨a, b, hq⟩, hmsg, -, -⟩ := writeEntryNow_rings hu (entryReady_up hr')
  have hw := completeCmd_written hu hl hr' hb hh hn
  rw [hm, hw] at hring hout
  refine ⟨(cmd_of_ring hring k).trans hcmd, ?_, ?_⟩
  · rw [cq_of_ring hring]
    exact congrArg Cq.tail hq
  · have hst : c.outcome.getD 0 = o := by
      rw [ho]
      rfl
    rw [hout, ← hst]
    exact hmsg

/-- A read of the host that fails ends a write or an append. -/
theorem hostReadDone_lost {k : Nat} {c : Cmd} {s : State} (hc : s.cmd k = some c) (hp : c.phase = .hostRead) (ho : c.outcome = none)
    (h : c.opc = 0x10 ∨ c.opc = 0x12) : exec (.hostReadDone k none) s = .next (failCmd k stHost s) := by
  show execHostReadDone k none s = _
  unfold execHostReadDone
  rw [hc]
  dsimp only
  rw [hostGave_none, if_neg (by simp [hp, ho]), if_pos h]
  rfl

end Sys2Proof.Machine

namespace Sys2Proof
open Machine

/-- Settles O22: a command with nothing left ends with `endCommand`, and its entry is the one that `writeEntryNow` sends. -/
theorem commandsCommit : Obligations.CommandsCommit := by
  unfold Obligations.CommandsCommit
  refine ⟨?_, ?_, ?_, ?_, ?_, ?_, ?_, ?_, ?_, ?_⟩
  · intro k c o s hk hc ho hd hp hw hl hf hb hr hv hbuf hheld hdups
    have hn : NoDups c.accNo s := fun e he x hx => by
      obtain ⟨j, y⟩ := e
      obtain rfl : y = some x := hx
      rw [hdups j x he]
      exact (Option.some_ne_none _).symm
    have hs : storeOuts c = [] := by
      unfold storeOuts queryRun
      rw [hw]
    exact ⟨_, execCommitFinish_ends hk hc ho hd (by rw [hp]; decide) (fun h => absurd (hp.symm.trans h) (by decide)) hf hb (.inr hs),
      endCommand_written hc ho hw hl hr hv hbuf hheld hn hd _ rfl⟩
  · intro k c o s hk hc ho hs hd hp hf hb
    exact execCommitFinish_ends hk hc ho hd hp (fun _ => hs) hf hb (.inl hs)
  · exact fun k c s hc h => execCommitFinish_waits hc h
  · intro k c s hc hp ho hq
    exact (orderingWaitEnd_goes hc hp ho).trans (if_pos hq)
  · intro k c s hc hp ho h1 h2
    have hq : c.isQuery = false := Cmd.isQuery_of_opc (by omega)
    exact (orderingWaitEnd_goes hc hp ho).trans (by rw [hq, if_neg Bool.false_ne_true, if_pos ⟨h1, h2⟩])
  · intro k c s hc hp ho h
    have hq : c.isQuery = false := Cmd.isQuery_of_opc (by omega)
    exact (orderingWaitEnd_goes hc hp ho).trans (by rw [hq, if_neg Bool.false_ne_true, if_neg (by omega), if_pos h])
  · intro k c s hc hp ho h
    have hq : c.isQuery = false := Cmd.isQuery_of_opc (by omega)
    exact (orderingWaitEnd_goes hc hp ho).trans
      (by rw [hq, if_neg Bool.false_ne_true, if_neg (by omega), if_neg (by omega), if_pos h])
  · intro k c s hc hp ho h
    have hq : c.isQuery = false := Cmd.isQuery_of_opc (by omega)
    exact (orderingWaitEnd_goes hc hp ho).trans
      (by rw [hq, if_neg Bool.false_ne_true, if_neg (by omega), if_neg (by omega), if_neg (by omega)])
  · intro k c s hc hp ho h
    exact ⟨_, hostReadDone_lost hc hp ho h, failCmd_outcome hc ho⟩
  · intro k c d s hc hp ho h ha hd
    refine (hostReadDone_open hc hp ho ha).trans ((if_pos h).trans (congrArg _ ?_))
    exact if_neg (fun hn => hn hd)

end Sys2Proof
end

section
/-!
PROOFS. The start of queries: their descriptors, parameter blocks, directories and flow blocks (R53 to R61, R300).
-/

namespace Sys2Proof.Machine

/-! ## A query that fails -/

/-- A query ends with a failure and, without an item to name, the RESULT0 of R77. -/
theorem failCmd_query {k st : Nat} {c : Cmd} {s : State} (hc : s.cmd k = some c) (ho : c.outcome = none) (hq : c.isQuery = true) :
    ((failCmd k st s).cmd k).map (fun x => (x.outcome, x.r0)) = some (some st, noItemR0) := by
  have hr : openR0 c s = (noItemR0, s) := if_pos hq
  have hn : ¬(st = stAborted ∧ c.opc = 0x30) := fun h => by
    unfold Cmd.isQuery at hq
    rw [h.2] at hq
    exact absurd hq (by decide)
  obtain ⟨r, h, hr0⟩ := presentOutcome_cmd (st := st) (r0 := noItemR0) hc ho
  unfold failCmd
  rw [hc]
  dsimp only
  rw [hr, h, hr0 hn]
  rfl

theorem Handed.isQuery {k opc : Nat} {c : Cmd} {s : State} (h : Handed k opc c s) (hq : opc = 1 ∨ opc = 2) : c.isQuery = true := by
  unfold Cmd.isQuery
  rw [h.opcode]
  rcases hq with rfl | rfl <;> rfl

section
variable {k opc st : Nat} {c : Cmd} {q : QueryRun} {desc : Cmd → Plan → Option Nat} {f : Cmd → QueryRun → State → State} {s : State}

theorem onQuery_noPlan (h : Handed k opc c s) (hq : queryRun c = none) : onQuery k opc desc f s = failCmd k stNoPlan s := by
  unfold onQuery
  rw [onHanded_runs h, hq]

theorem onQuery_bad (h : Handed k opc c s) (hq : queryRun c = some q) (hd : desc c q.plan = some st) :
    onQuery k opc desc f s = failCmd k st s := by
  unfold onQuery
  rw [onHanded_runs h, hq]
  dsimp only
  rw [hd]

theorem onQuery_runs (h : Handed k opc c s) (hq : queryRun c = some q) (hd : desc c q.plan = none) : onQuery k opc desc f s = f c q s := by
  unfold onQuery
  rw [onHanded_runs h, hq]
  dsimp only
  rw [hd]

end

/-! ## Parameter blocks and directories -/

/-- Where its port is in L0, a command's read goes out, and nothing else than its phase changes. -/
theorem askHost_runs {k a n : Nat} {c d : Cmd} {s : State} (hc : s.cmd k = some d) (hp : (s.hostPort (s.sq c.inst c.sq).port).up = true) :
    askHost k c a n s = { s.setCmd k (some { d with phase := .hostRead }) with
      out := { s.out with host := s.out.host ++ [.read (s.sq c.inst c.sq).port c.inst a n] } } := by
  unfold askHost
  dsimp only
  rw [State.modCmd_of hc]
  exact hostOut_up hp

/-- What a returned parameter block does: a whole one starts the query, else the query ends with HOST_ACCESS. -/
theorem paramBlockReadDone_read {k : Nat} {c : Cmd} {q : QueryRun} {d : Option (List Byte)} {s : State} (hc : s.cmd k = some c)
    (hp : c.phase = .hostRead) (ho : c.opc = 1) (hn : c.outcome = none) (hq : queryRun c = some q) :
    exec (.paramBlockReadDone k d) s = .next (((hostGave s (s.sq c.inst c.sq).port d).map fun b =>
      if b.length < q.plan.pbSize then failCmd k stHost s else startBlock k (b.take q.plan.pbSize) s).getD (failCmd k stHost s)) := by
  show execParamBlockReadDone k d s = _
  unfold execParamBlockReadDone
  rw [hc]
  dsimp only
  rw [if_neg (by simp [hp, ho, hn]), hq]
  cases hostGave s (s.sq c.inst c.sq).port d with
  | none => rfl
  | some b => exact (apply_ite Host.Outcome.next ..).symm

theorem hostGave_cases {α : Type} (s : State) (p : Nat) (d : Option α) : hostGave s p d = none ∨ hostGave s p d = d := by
  unfold hostGave
  split
  · exact .inl rfl
  · exact .inr rfl

/-- A block that fails its checks ends its query. -/
theorem startBlock_fails {k : Nat} {c : Cmd} {q : QueryRun} {pb : List Byte} {s : State} (hc : s.cmd k = some c)
    (hq : queryRun c = some q) (hb : blockFails s c.inst c.accNo q.plan pb ≠ []) : startBlock k pb s = failCmd k stParam s := by
  unfold startBlock
  rw [hc]
  dsimp only
  rw [hq]
  exact if_pos (.inl hb)

section
variable {s₀ s : State}

theorem MemOnly.readSource {c : Cmd} {x : InputRun} {a n : Nat} (h : MemOnly s₀ s) : MemOnly s₀ (readSource c x a n s).2 := by
  unfold Machine.readSource
  split
  · exact h.devReadN
  · split
    · exact h
    · exact h.addCounter

theorem MemOnly.loadDirectory {c : Cmd} {x : InputRun} (h : MemOnly s₀ s) : MemOnly s₀ (loadDirectory c x s).2 := by
  unfold Machine.loadDirectory
  have h1 : MemOnly s₀ (Machine.readSource c x x.addr 64 s).2 := h.readSource
  split
  · next t e =>
    rw [e] at h1
    exact h1
  · next b t e =>
    rw [e] at h1
    split
    · exact h1
    · dsimp only
      split
      · exact h1
      · have h2 : MemOnly s₀ (Machine.readSource c x (x.addr + 64 + 16 * (x.first * x.ncol)) (16 * (x.ncol * x.ngroups)) t).2 :=
          h1.readSource
        split <;>
        · next e' =>
          rw [e'] at h2
          exact h2

/-- Loading directories reads memory and changes no ring. -/
theorem MemOnly.loadDirectories {c : Cmd} {used : InputRun → Bool} {l : List InputRun} (h : MemOnly s₀ s) :
    MemOnly s₀ (loadDirectories c used l s).2 := by
  induction l generalizing s with
  | nil => exact h
  | cons x l ih =>
    have h1 : MemOnly s₀ (if x.kind ≠ 3 ∧ used x then Machine.loadDirectory c x s else (some x, s)).2 := by
      split
      · exact h.loadDirectory
      · exact h
    rw [Machine.loadDirectories]
    dsimp only
    split
    · next e =>
      rw [e] at h1
      exact h1
    · next e =>
      rw [e] at h1
      exact ih h1

end

/-- The directories have been read: the pipelines start when all are in order. -/
theorem groupDirectoryReadDone_read {k : Nat} {c : Cmd} {q : QueryRun} {r : Option (List InputRun)} {s t : State} (hc : s.cmd k = some c)
    (hp : c.phase = .directory) (ho : c.outcome = none) (hr : readsLeft s k = false) (hq : queryRun c = some q)
    (hl : loadDirectories c (inputUsed s k q) q.inputs s = (r, t)) : exec (.groupDirectoryReadDone k) s =
      .next ((r.map fun ins => startPipes k (modQuery k (fun q => { q with inputs := ins }) t)).getD (failCmd k stParam t)) := by
  show execGroupDirectoryReadDone k s = _
  unfold execGroupDirectoryReadDone
  rw [hc]
  dsimp only
  rw [if_neg (by simp [hp, ho, hr]), hq]
  dsimp only
  rw [hl]
  cases r <;> rfl

/-! ## Flow blocks -/

theorem flowIdWaitEnd_waits {k : Nat} {c : Cmd} {q : QueryRun} {s : State} (hc : s.cmd k = some c) (hq : queryRun c = some q)
    (hf : flowsFit s c q = false) : exec (.flowIdWaitEnd k) s = .next s := by
  show execFlowIdWaitEnd k s = _
  unfold execFlowIdWaitEnd
  rw [hc]
  dsimp only
  rw [hq]
  exact if_pos (.inr (.inr (.inr (by rw [hf]; rfl))))

end Sys2Proof.Machine

namespace Sys2Proof
open Machine

/-- Settles O20: each event runs one arm of its function, and a query that fails is `failCmd_query`. -/
theorem queryStartsAndReads : Obligations.QueryStartsAndReads := by
  unfold Obligations.QueryStartsAndReads
  refine ⟨?_, ?_, ?_, ?_, ?_, ?_, ?_, ?_, ?_, ?_, ?_, ?_, ?_⟩
  · intro k c s h hq
    exact ⟨_, congrArg Host.Outcome.next (onQuery_noPlan h hq), failCmd_query h.holds h.undecided (h.isQuery (.inl rfl))⟩
  · intro k c q st s h hq hd
    exact ⟨_, congrArg Host.Outcome.next (onQuery_bad h hq hd), failCmd_query h.holds h.undecided (h.isQuery (.inl rfl))⟩
  · intro k c q s h hq hd hb hp
    have hs : (s.setCmd k (some { c with phase := .hostRead })).cmd k = some { c with phase := .hostRead } := State.setCmd_same ..
    refine ⟨_, congrArg Host.Outcome.next ((onQuery_runs h hq hd).trans ((if_neg hb).trans (askHost_runs h.holds hp))), hs, rfl, rfl, ?_⟩
    exact fun j hj => State.setCmd_ne _ _ _ _ hj
  · intro k c q s h hq hd hb
    exact congrArg Host.Outcome.next ((onQuery_runs h hq hd).trans (if_pos hb))
  · intro k c q s h hq hd
    exact congrArg Host.Outcome.next (onQuery_runs h hq hd)
  · intro k c q st s h hq hd
    exact ⟨_, congrArg Host.Outcome.next (onQuery_bad h hq hd), failCmd_query h.holds h.undecided (h.isQuery (.inr rfl))⟩
  · intro k c q d s hc hp ho hn hq ha hd
    rw [paramBlockReadDone_read hc hp ho hn hq, hostGave_present _ ha]
    exact congrArg Host.Outcome.next (if_neg (Nat.not_lt.2 hd))
  · intro k c q d s hc hp ho hn hq hd
    have hi : c.isQuery = true := by
      unfold Cmd.isQuery
      rw [ho]
      rfl
    refine ⟨failCmd k stHost s, (paramBlockReadDone_read hc hp ho hn hq).trans (congrArg _ ?_), failCmd_query hc hn hi⟩
    cases hg : hostGave s (s.sq c.inst c.sq).port d with
    | none => rfl
    | some b =>
      have hb : d = some b := (hostGave_cases s (s.sq c.inst c.sq).port d).elim (fun h => nomatch hg.symm.trans h) fun h => h.symm.trans hg
      exact if_pos (hd b hb)
  · intro k c q pb s hc ho hq hb
    rw [startBlock_fails hc hq hb]
    exact failCmd_outcome hc ho
  · intro k c q ins t s hc hp ho hr hq hl
    exact groupDirectoryReadDone_read hc hp ho hr hq hl
  · intro k c q t s hc hp ho hi hr hq hl
    have ht : MemOnly s t := by
      have h := (MemOnly.refl s).loadDirectories (c := c) (used := inputUsed s k q) (l := q.inputs)
      rw [hl] at h
      exact h
    exact ⟨_, groupDirectoryReadDone_read hc hp ho hr hq hl, failCmd_query ((cmd_of_ring ht.ring k).trans hc) ho hi⟩
  · intro k c q s hc hp ho hq hk hf
    show execFlowIdWaitEnd k s = _
    unfold execFlowIdWaitEnd
    rw [hc]
    dsimp only
    rw [hq]
    exact if_neg (by simp [hp, ho, hk, hf])
  · exact fun k c q s hc hq _ hf => flowIdWaitEnd_waits hc hq hf

end Sys2Proof
end

section
/-!
PROOFS. NOP, ABORT and deadlines (R301 to R304, R363, R394, R395).
-/

namespace Sys2Proof.Machine

/-! ## ABORT -/

/-- An ABORT ends with its status, and no other command does. -/
theorem endAbort_outcome {k st : Nat} {c : Cmd} {s : State} (hc : s.cmd k = some c) (ho : c.outcome = none) :
    ((endAbort k st s).cmd k).map (·.outcome) = some (some st) := presentOutcome_outcome (s := s.freshWord.2) hc ho

theorem endAbort_cmd_ne {k j st : Nat} {s : State} (hj : j ≠ k) : (endAbort k st s).cmd j = s.cmd j :=
  presentOutcome_cmd_ne (s := s.freshWord.2) hj

/-- The command that an ABORT names is none itself. -/
theorem abortTarget_opc {s : State} {i n j : Nat} {tag : W64} {x : Cmd} (h : abortTarget s i n tag = some (j, x)) : x.opc ≠ 0x3F := by
  have hm := mem_sortOn.1 (List.mem_of_mem_head? h)
  obtain ⟨e, -, he⟩ := List.mem_filterMap.1 hm
  split at he
  · split at he
    · next h =>
      obtain ⟨-, -, -, -, -, -, ho⟩ := h
      obtain rfl : _ = x := congrArg Prod.snd (Option.some.inj he)
      exact ho
    · exact absurd he (Option.some_ne_none _).symm
  · exact absurd he (Option.some_ne_none _).symm

theorem runAbort_bad {k : Nat} {c : Cmd} {s : State} (h : abortFieldsOk c = false) : runAbort k c s = endAbort k stParam s :=
  if_pos (by rw [h]; rfl)

section
variable {k j : Nat} {c x : Cmd} {s : State} (hf : abortFieldsOk c = true)
  (hw : writtenRecord (s.sq c.inst (field (c.word 6) 12 0)) (c.word 5) = none)
include hf hw

theorem runAbort_none (ht : abortTarget s c.inst (field (c.word 6) 12 0) (c.word 5) = none) : runAbort k c s = endAbort k stNotFound s := by
  unfold runAbort
  rw [hf, if_neg (by decide)]
  dsimp only
  rw [ht, hw]

/-- An open target ends ABORTED_BY_HOST, then the ABORT with ABORT_APPLIED. -/
theorem runAbort_open (ht : abortTarget s c.inst (field (c.word 6) 12 0) (c.word 5) = some (j, x)) (hx : x.outcome = none) :
    runAbort k c s = endAbort k stApplied (presentOutcome j stAborted (openR0 x s).1 (openR0 x s).2) := by
  unfold runAbort
  rw [hf, if_neg (by decide)]
  dsimp only
  rw [ht, hw]
  dsimp only
  rw [if_neg (by simp), if_pos hx]

end

/-! ## Deadlines -/

/-- The timer that is due first, of the slot, fires. -/
theorem deadlineExpiry_fires {k : Nat} {tm : Timer} {s : State} (hf : (dueTimers s).find? (fun t => decide (t.slot = k)) = some tm)
    (hb : ∀ x ∈ dueTimers s, x.before tm = false) :
    exec (.deadlineExpiry k) s = .next (expireDeadline k { s with disp := { s.disp with timers := s.disp.timers.erase tm } }) := by
  have hk : tm.slot = k := of_decide_eq_true (List.find?_some (p := fun t : Timer => decide (t.slot = k)) hf)
  have ha : (dueTimers s).any (fun x => x.before tm) = false := by
    rw [List.any_eq_false]
    exact fun x hx => Bool.eq_false_iff.1 (hb x hx)
  show execDeadlineExpiry k s = _
  unfold execDeadlineExpiry
  rw [hf]
  dsimp only
  rw [ha, if_neg Bool.false_ne_true]
  unfold fireTimer
  rw [hk]

/-- A timer due earlier goes first. -/
theorem deadlineExpiry_waits {k : Nat} {tm x : Timer} {s : State}
    (hf : (dueTimers s).find? (fun t => decide (t.slot = k)) = some tm) (hx : x ∈ dueTimers s) (hb : x.before tm = true) :
    exec (.deadlineExpiry k) s = .next s := by
  show execDeadlineExpiry k s = _
  unfold execDeadlineExpiry
  rw [hf]
  exact if_pos (List.any_eq_true.2 ⟨x, hx, hb⟩)

theorem expireDeadline_open {k : Nat} {c : Cmd} {s : State} (hc : s.cmd k = some c) (ho : c.outcome = none) :
    expireDeadline k s = presentOutcome k stDeadline noItemR0 { s with disp := { s.disp with deadlines := s.disp.deadlines + 1 } } := by
  unfold expireDeadline
  rw [hc]
  dsimp only
  rw [ho]
  rfl

theorem expireDeadline_fixed {k : Nat} {c : Cmd} {s : State} (hc : s.cmd k = some c) (ho : c.outcome.isSome = true) :
    expireDeadline k s = s := by
  unfold expireDeadline
  rw [hc]
  exact if_pos ho

/-- The state after a command has left the queue for timers. -/
def leftTimerQueue (k : Nat) (c : Cmd) (s : State) : State :=
  ({ s with disp := { s.disp with tmrQ := s.disp.tmrQ.filter (· ≠ k) } } : State).setCmd k (some { c with phase := .handed })

theorem leftTimerQueue_cmd (k : Nat) (c : Cmd) (s : State) : (leftTimerQueue k c s).cmd k = some { c with phase := .handed } :=
  State.setCmd_same ..

/-- A command that waited for a timer is handed on: with a timer of its own, or ended when its deadline has passed. -/
theorem deadlineTimerWaitEnd_goes {k d : Nat} {c : Cmd} {s : State} (hc : s.cmd k = some c) (hd : c.deadline = some d)
    (hf : timerFree s c.inst = true) (hq : (s.disp.tmrQ.filter fun j => (s.cmd j).any fun x => x.inst = c.inst).head? = some k) :
    exec (.deadlineTimerWaitEnd k) s =
      if d ≤ s.time then .next (expireDeadline k (leftTimerQueue k c s)) else .next (setDeadline k c.inst d (leftTimerQueue k c s)) := by
  show execDeadlineTimerWaitEnd k s = _
  unfold execDeadlineTimerWaitEnd
  rw [hc]
  dsimp only
  rw [if_neg (by simp [hq, hf]), hd, State.modCmd_of (by exact hc)]
  rfl

end Sys2Proof.Machine

namespace Sys2Proof
open Machine

/-- Settles O18: each event presents one outcome, which is the first at its command. -/
theorem nopAbortAndDeadlines : Obligations.NopAbortAndDeadlines := by
  unfold Obligations.NopAbortAndDeadlines
  refine ⟨?_, ?_, ?_, ?_, ?_, ?_, ?_, ?_, ?_⟩
  · intro k c s h
    refine ⟨_, congrArg Host.Outcome.next (onHanded_runs h _), succeed_cmd h.holds h.undecided, ?_⟩
    exact fun j hj => presentOutcome_cmd_ne hj
  · intro k c s h hf
    refine ⟨_, congrArg Host.Outcome.next (onHanded_runs h _), ?_⟩
    rw [runAbort_bad hf]
    exact endAbort_outcome h.holds h.undecided
  · intro k c s h hf ht hw
    refine ⟨_, congrArg Host.Outcome.next (onHanded_runs h _), ?_⟩
    rw [runAbort_none hf hw ht]
    exact endAbort_outcome h.holds h.undecided
  · intro k c j x s h hf ht hj hx hw
    have hjk : j ≠ k := by
      rintro rfl
      obtain rfl := Option.some.inj (h.holds.symm.trans hj)
      exact abortTarget_opc ht h.opcode
    have hs (i : Nat) : (openR0 x s).2.cmd i = s.cmd i := (Calm.refl s).openR0.cmd_eq i
    refine ⟨_, congrArg Host.Outcome.next (onHanded_runs h _), ?_⟩
    rw [runAbort_open hf hw ht hx]
    refine ⟨endAbort_outcome ((presentOutcome_cmd_ne hjk.symm).trans ((hs k).trans h.holds)) h.undecided, ?_⟩
    rw [endAbort_cmd_ne hjk]
    exact presentOutcome_outcome ((hs j).trans hj) hx
  · intro k c tm s hc ho hf hb
    have he := expireDeadline_open (s := { s with disp := { s.disp with timers := s.disp.timers.erase tm } }) hc ho
    have hs := presentOutcome_settled k stDeadline noItemR0
      { s with disp := { s.disp with timers := s.disp.timers.erase tm, deadlines := s.disp.deadlines + 1 } }
    refine ⟨_, (deadlineExpiry_fires hf hb).trans (congrArg _ he), presentOutcome_outcome hc ho, hs.timers, hs.deadlines⟩
  · intro k c o tm s hc ho hf hb
    refine (deadlineExpiry_fires hf hb).trans (congrArg _ (expireDeadline_fixed ?_ (by rw [ho]; rfl)))
    exact hc
  · exact fun k tm x s hf hx hb => deadlineExpiry_waits hf hx hb
  · intro k c d s hc hd ht hf hq
    exact ⟨_, (deadlineTimerWaitEnd_goes hc hd hf hq).trans (if_neg (Nat.not_le.2 ht)), leftTimerQueue_cmd k c s, rfl, _, rfl⟩
  · intro k c d s hc hd ht ho hf hq
    have he := expireDeadline_open (leftTimerQueue_cmd k c s) ho
    refine ⟨_, (deadlineTimerWaitEnd_goes hc hd hf hq).trans ((if_pos ht).trans (congrArg _ he)), ?_⟩
    exact presentOutcome_outcome (leftTimerQueue_cmd k c s) ho

end Sys2Proof
end

section
/-!
PROOFS. Fronds that end their item and take the next one: commands that have failed stay failed with their status, and no quadrant is parked.
-/

namespace Sys2Proof.Machine

theorem clearLogged_cmd (u k slot : Nat) (s : State) : (clearLogged u k s).cmd slot = s.cmd slot := by
  unfold clearLogged logCleared
  dsimp only
  obtain ⟨_, h⟩ := logEvent_eq 0x0405 (0x30 + u) 0 ((clearCtx u k s).freshNat.1 % 2 ^ 32) none (clearCtx u k s).freshNat.2
  rw [h]
  rfl

/-- A command has failed with a status: its failure is recorded, or its outcome stands. -/
def FailedWith (st : Nat) (o : Option Cmd) : Prop := ∃ c, o = some c ∧ (c.failure.map (·.1) = some st ∨ c.outcome = some st)

/-- From s₀ to s a failed command keeps its status, and a quadrant that runs goes on running. -/
structure Going (s₀ s : State) : Prop where
  failed : ∀ k st, FailedWith st (s₀.cmd k) → FailedWith st (s.cmd k)
  runs : ∀ q, s₀.pwr.parked.get false q = false → s.pwr.parked.get false q = false

theorem Going.refl (s : State) : Going s s := ⟨fun _ _ h => h, fun _ h => h⟩

section
variable {s₀ s t : State}

/-- An update of the parts that `Going` does not name. -/
theorem Going.upd {pending seed time fronds ring disp mem eng store insts mbx haw log mp pwr tel sec lnk pads out} (h : Going s₀ s)
    (h_cmds : ring.cmds = s.ring.cmds := by rfl)
    (h_parked : pwr.parked = s.pwr.parked := by rfl) :
    Going s₀ { s with pending, seed, time, fronds, ring, disp, mem, eng, store, insts, mbx, haw, log, mp, pwr, tel, sec, lnk, pads, out } where
  failed k st hf := (congrArg (fun t : Tbl (Option Cmd) => FailedWith st (t.get none k)) h_cmds).mpr (h.failed k st hf)
  runs q hq := (congrArg (Tbl.get false · q) h_parked).trans (h.runs q hq)

theorem Going.ite {c : Prop} [Decidable c] (h : Going s₀ s) (k : Going s₀ t) : Going s₀ (if c then s else t) := by
  split
  · exact h
  · exact k

theorem Going.forEach {β : Type} {f : β → State → State} {l : List β} (h : Going s₀ s)
    (hf : ∀ b t, Going s₀ t → Going s₀ (f b t)) : Going s₀ (Machine.forEach f l s) :=
  forEach_keeps (fun b _ t => hf b t) h

theorem Going.forBelow {f : Nat → State → State} {n : Nat} (h : Going s₀ s) (hf : ∀ b t, Going s₀ t → Going s₀ (f b t)) :
    Going s₀ (Machine.forBelow f n s) := by
  induction n with
  | zero => exact h
  | succ n ih => exact hf _ _ ih

theorem Going.foldl {β : Type} {f : State → β → State} {l : List β} (h : Going s₀ s) (hf : ∀ b t, Going s₀ t → Going s₀ (f t b)) :
    Going s₀ (l.foldl f s) := by
  induction l generalizing s with
  | nil => exact h
  | cons b l ih => exact ih (hf b s h)

theorem Going.forEachSnd {α β : Type} {f : β → α × State → α × State} {l : List β} {p : α × State} (h : Going s₀ p.2)
    (hf : ∀ b p, Going s₀ p.2 → Going s₀ (f b p).2) : Going s₀ (Machine.forEach f l p).2 := by
  induction l generalizing p with
  | nil => exact h
  | cons b l ih => exact ih (hf b p h)

theorem Going.foldlSnd {α β : Type} {f : α × State → β → α × State} {l : List β} {p : α × State} (h : Going s₀ p.2)
    (hf : ∀ b p, Going s₀ p.2 → Going s₀ (f p b).2) : Going s₀ (l.foldl f p).2 := by
  induction l generalizing p with
  | nil => exact h
  | cons b l ih => exact ih (hf b p h)

theorem Going.of_snd_snd {α β : Type} {p : α × β × State} {a : α} {b : β} (h : Going s₀ p.2.2) (e : p = (a, b, t)) : Going s₀ t := by
  rw [e] at h; exact h

/-- The state of a result. -/
theorem Going.of_snd {α : Type} {p : α × State} {a : α} (h : Going s₀ p.2) (e : p = (a, t)) : Going s₀ t := by
  rw [e] at h; exact h

end

end Sys2Proof.Machine
end

section
namespace Sys2Proof.Machine

section
-- Each of these short lemmas would else wait in a thread of its own.
set_option Elab.async false
variable {s₀ s t : State}

theorem Going.setFrond {f : Nat} {x : Frond} (h : Going s₀ s) : Going s₀ (s.setFrond f x) := h.upd

theorem Going.setInst {i : Nat} {x : Inst} (h : Going s₀ s) : Going s₀ (s.setInst i x) := h.upd

theorem Going.setSq {i n : Nat} {x : Sq} (h : Going s₀ s) : Going s₀ (s.setSq i n x) := h.upd

theorem Going.setCq {i n : Nat} {x : Cq} (h : Going s₀ s) : Going s₀ (s.setCq i n x) := h.upd

theorem Going.setCmd {k : Nat} {x : Option Cmd} (h : Going s₀ s) (hx : ∀ st, FailedWith st (s.cmd k) → FailedWith st x) :
    Going s₀ (s.setCmd k x) where
  failed j st hf := by
    by_cases hj : j = k
    · rw [hj, State.setCmd_same]
      exact hx st (hj ▸ h.failed j st hf)
    · rw [State.setCmd_ne _ _ _ _ hj]
      exact h.failed j st hf
  runs := h.runs

/-- A change of a command that keeps its failure and its outcome. -/
theorem Going.modCmd {k : Nat} {f : Cmd → Cmd} (h : Going s₀ s)
    (hf : ∀ c, (f c).failure = c.failure ∧ (f c).outcome = c.outcome := by exact fun _ => ⟨rfl, rfl⟩) : Going s₀ (s.modCmd k f) :=
      by
  unfold Machine.State.modCmd
  split
  · exact h
  · next c hc =>
    refine h.setCmd fun st hs => ?_
    obtain ⟨d, hd, hs⟩ := hs
    obtain rfl : c = d := Option.some.inj (hc.symm.trans hd)
    exact ⟨f c, rfl, by rw [(hf c).1, (hf c).2]; exact hs⟩

theorem Going.setChan {c : Nat} {x : Chan} (h : Going s₀ s) : Going s₀ (s.setChan c x) := h.upd

theorem Going.setCmu {u : Nat} {x : CmuUnit} (h : Going s₀ s) : Going s₀ (s.setCmu u x) := h.upd

theorem Going.setSmu {u : Nat} {x : SmuUnit} (h : Going s₀ s) : Going s₀ (s.setSmu u x) := h.upd

theorem Going.setDgu {u : Nat} {x : DguUnit} (h : Going s₀ s) : Going s₀ (s.setDgu u x) := h.upd

theorem Going.setLink {l : Nat} {x : Link} (h : Going s₀ s) : Going s₀ (s.setLink l x) := h.upd

theorem Going.setHostPort {p : Nat} {x : HostPort} (h : Going s₀ s) : Going s₀ (s.setHostPort p x) := h.upd

theorem Going.freshNat (h : Going s₀ s) : Going s₀ s.freshNat.2 := h.upd

theorem Going.freshWord (h : Going s₀ s) : Going s₀ s.freshWord.2 := h.upd

theorem Going.choose {α : Type} {l : List α} (h : Going s₀ s) : Going s₀ (s.choose l).2 := by
  unfold Machine.State.choose
  split
  · dsimp only
    exact h
  · dsimp only
    exact h
  · dsimp only
    exact h.upd

theorem Going.logOne {code src inst detail : Nat} (h : Going s₀ s) : Going s₀ (logOne code src inst detail s) := h.upd

theorem Going.logEvent {code src inst detail : Nat} {ext : Option Nat} (h : Going s₀ s) :
    Going s₀ (logEvent code src inst detail ext s) := by
  unfold Machine.logEvent
  split
  · exact h.logOne
  · exact h.logOne.logOne

theorem Going.hostOut {port : Nat} {m : HostMsg} (h : Going s₀ s) : Going s₀ (hostOut port m s) :=
  .ite h.upd (.ite h h.setHostPort)

theorem Going.hostSend {port : Nat} {m : HostMsg} (h : Going s₀ s) : Going s₀ (hostSend port m s) := by
  unfold Machine.hostSend
  split
  · exact .ite (.ite h h.upd) h.hostOut
  · exact h.hostOut

theorem Going.hostWrite {port fn addr : Nat} {d : List Byte} (h : Going s₀ s) : Going s₀ (hostWrite port fn addr d s) :=
  h.hostSend

theorem Going.hostWriteFor {port fn acc addr : Nat} {d : List Byte} (h : Going s₀ s) :
    Going s₀ (hostWriteFor port fn acc addr d s) := .ite h.hostWrite h.hostWrite.setHostPort

theorem Going.addCounter {i k n : Nat} (h : Going s₀ s) : Going s₀ (addCounter i k n s) := .ite h h.setInst

theorem Going.setFrame {f : Nat} {x : Frame} (h : Going s₀ s) : Going s₀ (s.setFrame f x) := h.upd

theorem Going.colourFault {req : Option Nat} {a found : Nat} (h : Going s₀ s) : Going s₀ (colourFault req a found s) := by
  unfold Machine.colourFault
  exact h.upd.logEvent

theorem Going.uncorrectable {req : Option Nat} {a : Nat} (h : Going s₀ s) : Going s₀ (uncorrectable req a s) := by
  have h1 : Going s₀ (s.setChan (chanAt a) { s.chan (chanAt a) with ue := (s.chan (chanAt a)).ue + 1 }) := h.setChan
  unfold Machine.uncorrectable
  dsimp only
  generalize s.setChan _ _ = t at h1 ⊢
  refine .logEvent ?_
  split
  · exact h1.upd
  · exact h1.setFrame.upd

theorem Going.corrected {a : Nat} (h : Going s₀ s) : Going s₀ (corrected a s) := by
  have h1 : Going s₀ (s.setChan (chanAt a) { s.chan (chanAt a) with ce := (s.chan (chanAt a)).ce + 1 }) := h.setChan
  unfold Machine.corrected
  dsimp only
  generalize s.setChan _ _ = t at h1 ⊢
  exact .ite (.logEvent (.ite h1 h1.setFrame)) (.ite h1 h1.setFrame)

theorem Going.decodeCw {k e : Nat} (h : Going s₀ s) : Going s₀ (decodeCw k e s) := by
  unfold Machine.decodeCw
  split
  · exact h
  · exact h.corrected
  · exact h.upd

theorem Going.readLine {req : Option Nat} {a e0 e1 : Nat} (h : Going s₀ s) : Going s₀ (readLine req a e0 e1 s).2 := by
  unfold Machine.readLine
  split
  · dsimp only
    split
    · dsimp only
      exact h.colourFault
    · split
      · dsimp only
        exact h.decodeCw.decodeCw.uncorrectable
      · dsimp only
        exact h.decodeCw.decodeCw
  · dsimp only
    split
    · dsimp only
      exact h.colourFault
    · split
      · dsimp only
        exact h.decodeCw.decodeCw.uncorrectable
      · split
        · dsimp only
          exact h.decodeCw.decodeCw.colourFault
        · split
          · dsimp only
            exact h.decodeCw.decodeCw.colourFault
          · dsimp only
            exact h.decodeCw.decodeCw.addCounter

theorem Going.writeCw {req : Option Nat} {k a : Nat} {d : List Byte} (h : Going s₀ s) : Going s₀ (writeCw req k a d s).2 := by
  unfold Machine.writeCw
  dsimp only
  split
  · exact h
  split
  · exact h.upd
  split
  · exact h.uncorrectable
  split
  · exact h.colourFault
  · exact h.upd

theorem Going.writePhys {req : Option Nat} {a : Nat} {d : List Byte} (h : Going s₀ s) : Going s₀ (writePhys req a d s).2 := by
  unfold Machine.writePhys
  dsimp only
  split
  · dsimp only
    exact h.colourFault
  · split
    · dsimp only
      exact h.colourFault
    · exact h.forEachSnd fun _ _ h1 => h1.writeCw

theorem Going.devWriteLine {i a : Nat} {d : List Byte} (h : Going s₀ s) : Going s₀ (devWriteLine i a d s).2 := by
  unfold Machine.devWriteLine
  split
  · dsimp only
    exact h
  · dsimp only
    exact h.colourFault
  · split
    · rename_i he1
      dsimp only
      exact .of_snd h.writePhys he1
    · rename_i he2
      dsimp only
      exact .of_snd h.writePhys he2

theorem Going.devWrite {i a a1 : Nat} {a2 : List Byte} (h : Going s₀ s) : Going s₀ (devWrite i a a1 a2 s).2 := by
  induction a generalizing i a1 a2 s with
  | zero =>
    unfold Machine.devWrite
    dsimp only
    exact h
  | succ n ih =>
    unfold Machine.devWrite
    dsimp only
    split
    · dsimp only
      exact h
    · split
      · rename_i he1
        dsimp only
        exact .of_snd h.devWriteLine he1
      · rename_i he1
        exact ih (.of_snd h.devWriteLine he1)

theorem Going.devWriteN {i a : Nat} {d : List Byte} (h : Going s₀ s) : Going s₀ (devWriteN i a d s).2 := h.devWrite

theorem Going.leaveQuota {f : Nat} (h : Going s₀ s) : Going s₀ (leaveQuota f s) := by
  unfold Machine.leaveQuota
  split
  · exact h
  · next i _ =>
    have h1 : Going s₀ (s.setInst i { s.inst i with frames := (s.inst i).frames.erase f }) := h.setInst
    generalize s.setInst i _ = t at h1 ⊢
    exact h1.setFrame

theorem Going.releaseFrame {f : Nat} (h : Going s₀ s) : Going s₀ (releaseFrame f s) :=
  .ite h.leaveQuota.setFrame.upd.logEvent h.leaveQuota.setFrame.upd

theorem Going.settleLeaving (h : Going s₀ s) : Going s₀ (settleLeaving s) :=
  .ite h (h.upd.forEach (fun _ _ h1 => h1.releaseFrame))

theorem Going.setAsks {f n : Nat} (h : Going s₀ s) : Going s₀ (setAsks f n s) := h.upd

theorem Going.dropWaits {p : AllocWait → Bool} (h : Going s₀ s) : Going s₀ (dropWaits p s) := by
  unfold Machine.dropWaits
  refine .forEach h.upd ?_
  intro _ _ h1
  split
  · exact h1.releaseFrame
  · exact h1

theorem Going.onGrant {g : Grant} (h : Going s₀ s) : Going s₀ (onGrant g s) := by
  unfold Machine.onGrant
  split
  · exact h.upd
  · dsimp only
    split
    · exact .ite h.upd h.upd
    · exact .ite (.ite h.upd h.upd) (.setFrame (.ite h.upd h.upd))
  · exact h.setSmu
  · exact h.setCmu
  · exact .ite h.setLink h
  · exact h

theorem Going.setWaitTimer {id : Nat} (h : Going s₀ s) : Going s₀ (setWaitTimer id s) := .ite h h.upd

theorem Going.dropWaitTimer {id : Nat} (h : Going s₀ s) : Going s₀ (dropWaitTimer id s) := h.upd

theorem Going.giveGrant {g : Grant} (h : Going s₀ s) : Going s₀ (giveGrant g s) := h.upd.dropWaitTimer.onGrant

theorem Going.grantQueue {a : List Grant} {a1 : List (Option Nat)} (h : Going s₀ s) : Going s₀ (grantQueue a a1 s) := by
  induction a generalizing a1 s with
  | nil =>
    unfold Machine.grantQueue
    exact h
  | cons b l ih =>
    unfold Machine.grantQueue
    dsimp only
    exact .ite (ih h) (.ite (ih h.upd.giveGrant) (.ite (ih h) (.ite (ih h) h)))

theorem Going.reinstate {a : List Grant} {a1 : List (Option Nat)} (h : Going s₀ s) : Going s₀ (reinstate a a1 s) := by
  induction a generalizing a1 s with
  | nil =>
    unfold Machine.reinstate
    exact h
  | cons b l ih =>
    unfold Machine.reinstate
    dsimp only
    exact .ite (ih h) (.ite (ih h.upd.onGrant) (.ite (ih h) h))

theorem Going.raiseSag {d : Nat} (h : Going s₀ s) : Going s₀ (raiseSag d s) := .ite h h.upd

theorem Going.examineGrants (h : Going s₀ s) : Going s₀ (examineGrants s) :=
  .grantQueue (.ite h (h.reinstate.forBelow (fun _ _ h1 => h1.raiseSag)))

theorem Going.requestGrant {units us level : Nat} {inst : Option Nat} {disc : Bool} {die : Option Nat} {p : Holder}
    (h : Going s₀ s) :
    Going s₀ (requestGrant units us level inst disc die p s) := by
  have h1 (n : Nat) (w : List Grant) : Going s₀
    (Machine.grantQueue w [] { s with pwr := { s.pwr with nextGrant := n, waits := w } }) :=
    Going.grantQueue h.upd
  unfold Machine.requestGrant
  dsimp only
  generalize insertWait _ _ = w
  have h2 := h1 (s.pwr.nextGrant + 1) w
  generalize Machine.grantQueue _ [] _ = t at h2 ⊢
  exact .ite (Going.setWaitTimer h2.upd) h2

theorem Going.chargeGrant {g : Grant} (h : Going s₀ s) : Going s₀ (chargeGrant g s) := by
  unfold Machine.chargeGrant
  split
  · exact h.addCounter
  · exact h

theorem Going.endGrant {id : Nat} (h : Going s₀ s) : Going s₀ (endGrant id s) := by
  unfold Machine.endGrant
  dsimp only
  have h1 : Going s₀ (Machine.forEach Machine.chargeGrant (s.pwr.grants.filter fun g => g.id = id) s) := h.forEach fun _ _ h =>
    h.chargeGrant
  exact (h1.upd).dropWaitTimer.examineGrants

theorem Going.endHolder {p : Holder} (h : Going s₀ s) : Going s₀ (endHolder p s) := h.forEach fun _ _ h1 => h1.endGrant

theorem Going.countSmu {u i bytes jobs : Nat} (h : Going s₀ s) : Going s₀ (countSmu u i bytes jobs s) := h.setSmu

theorem Going.dropJobs {slot u : Nat} (h : Going s₀ s) : Going s₀ (dropJobs slot u s) :=
  .ite (h.forEach (fun _ _ h1 => .ite h1.freshNat.countSmu h1)) (.setSmu (h.forEach (fun _ _ h1 => .ite h1.freshNat.countSmu h1)))

theorem Going.openR0 {c : Cmd} (h : Going s₀ s) : Going s₀ (openR0 c s).2 := by
  unfold Machine.openR0
  split
  · dsimp only
    exact h
  · exact h.freshWord

theorem Going.dropCursors {slot : Nat} (h : Going s₀ s) : Going s₀ (dropCursors slot s) := h.upd

theorem Going.setCtx {u k : Nat} {x : Ctx} (h : Going s₀ s) : Going s₀ (s.setCtx u k x) := h.setDgu

theorem Going.leaveLane {u k : Nat} (h : Going s₀ s) : Going s₀ (leaveLane u k s) := h.setDgu

theorem Going.failCtxCmp {u k dt : Nat} {cmp : BitVec 2} (h : Going s₀ s) : Going s₀ (failCtxCmp u k dt cmp s) :=
  h.setCtx.leaveLane

theorem Going.failCtx {u k dt : Nat} (h : Going s₀ s) : Going s₀ (failCtx u k dt s) := h.failCtxCmp

theorem Going.clearCtx {u k : Nat} (h : Going s₀ s) : Going s₀ (clearCtx u k s) := h.failCtx.setDgu

theorem Going.logCleared {u : Nat} (h : Going s₀ s) : Going s₀ (logCleared u s) := by
  unfold Machine.logCleared
  exact h.freshNat.logEvent

theorem Going.clearLogged {u k : Nat} (h : Going s₀ s) : Going s₀ (clearLogged u k s) := h.clearCtx.logCleared

theorem Going.forCtxs {p : Ctx → Bool} {f : Nat → Nat → State → State} {u : Nat} (h : Going s₀ s)
    (hf : ∀ a a1 t, Going s₀ t → Going s₀ (f a a1 t)) :
    Going s₀ (forCtxs p f u s) := h.forEach (fun _ _ h1 => .ite (hf _ _ _ h1) h1)

theorem Going.stopDigests {slot : Nat} (h : Going s₀ s) : Going s₀ (stopDigests slot s) :=
  h.forBelow (fun _ _ h1 => h1.forCtxs (fun _ _ _ h2 => h2.failCtx))

theorem Going.ctxPortRead {u k acc off n : Nat} (h : Going s₀ s) : Going s₀ (ctxPortRead u k acc off n s).2 := by
  unfold Machine.ctxPortRead
  dsimp only
  split
  · dsimp only
    exact h.logEvent
  · dsimp only
    exact h

theorem Going.endHolders {p : Holder → Bool} (h : Going s₀ s) : Going s₀ (endHolders p s) := h.forEach fun _ _ h1 => h1.endGrant

theorem Going.stopWork {slot status : Nat} (h : Going s₀ s) : Going s₀ (stopWork slot status s) := by
  unfold Machine.stopWork
  dsimp only
  have h1 : Going s₀ (Machine.forBelow (Machine.dropJobs slot) 8 (Machine.dropCursors slot s)) := h.dropCursors.forBelow
    fun _ _ h1 => h1.dropJobs
  generalize Machine.forBelow (Machine.dropJobs slot) 8 (Machine.dropCursors slot s) = t at h1 ⊢
  exact .endHolders (.ite h1.upd (.stopDigests h1.upd))

theorem Going.fixRecord {c : Cmd} (h : Going s₀ s) : Going s₀ (fixRecord c s) := h.setSq

/-- An outcome that comes to a command without failure, or with the status of its failure. -/
theorem Going.presentOutcome {slot st : Nat} {r0 : W64} (h : Going s₀ s)
    (hs : ∀ c, s.cmd slot = some c → c.outcome = none → c.failure = none ∨ c.failure.map (·.1) = some st) :
    Going s₀ (presentOutcome slot st r0 s) := by
  unfold Machine.presentOutcome
  split
  · exact h
  · next c hc =>
    split
    · exact h
    · next ho =>
      have ho : c.outcome = none := Option.not_isSome_iff_eq_none.1 ho
      have h1 (r : W64) : Going s₀ (s.setCmd slot (some { c with outcome := some st, r0 := r })) := h.setCmd fun st' hf => by
        obtain ⟨d, hd, hf⟩ := hf
        obtain rfl : c = d := Option.some.inj (hc.symm.trans hd)
        rcases hf with hf | hf
        · exact ⟨_, rfl, .inl hf⟩
        · exact absurd (ho.symm.trans hf) (Option.some_ne_none _).symm
      dsimp only
      exact .ite (h1 _).fixRecord (h1 _).fixRecord.stopWork

theorem Going.failCmd {slot st : Nat} (h : Going s₀ s) (hs : ∀ c, s.cmd slot = some c → c.failure = none) :
    Going s₀ (failCmd slot st s) := by
  unfold Machine.failCmd
  split
  · exact h
  · next c hc =>
    refine h.openR0.presentOutcome fun d hd _ => .inl (hs d ?_)
    exact ((Calm.refl s).openR0.cmd_eq slot).symm.trans hd

theorem Going.recordFailure {slot st : Nat} {r0 : W64} (h : Going s₀ s) : Going s₀ (recordFailure slot st r0 s) := by
  unfold Machine.recordFailure
  split
  · exact h
  · next c hc =>
    split
    · exact h
    · next ho =>
      refine .stopWork (h.setCmd fun st' hf => ?_)
      obtain ⟨d, hd, hf⟩ := hf
      obtain rfl : c = d := Option.some.inj (hc.symm.trans hd)
      rw [Bool.not_eq_true, Bool.or_eq_false_iff, Option.isSome_eq_false_iff, Option.isSome_eq_false_iff,
        Option.isNone_iff_eq_none,
        Option.isNone_iff_eq_none] at ho
      rcases hf with hf | hf
      · rw [ho.2] at hf
        exact absurd hf (Option.some_ne_none _).symm
      · exact absurd (ho.1.symm.trans hf) (Option.some_ne_none _).symm

theorem Going.endIfFailed {slot : Nat} (h : Going s₀ s) : Going s₀ (endIfFailed slot s) := by
  unfold Machine.endIfFailed
  split
  · exact h
  · next c hc =>
    split
    · next st r0 hf =>
      refine .ite h (h.presentOutcome fun d hd _ => .inr ?_)
      obtain rfl : c = d := Option.some.inj (hc.symm.trans hd)
      rw [hf]
      rfl
    · exact h

theorem Going.tagLine {b : StreamTag} {a n : Nat} (h : Going s₀ s) : Going s₀ (tagLine b a n s).2 := by
  unfold Machine.tagLine
  split
  · dsimp only
    exact h
  · dsimp only
    exact h.colourFault
  · split
    · split
      · rename_i he2
        dsimp only
        exact .of_snd h.writePhys he2
      · rename_i he3
        dsimp only
        exact .of_snd h.writePhys he3
    · split
      · rename_i he2
        dsimp only
        exact .of_snd h.readLine he2
      · rename_i he2
        dsimp only
        exact .of_snd h.readLine he2
      · rename_i he4
        dsimp only
        exact .of_snd h.readLine he4

theorem Going.tagLines {b : StreamTag} {extra a a1 a2 : Nat} {a3 : Option (Nat × Nat)} (h : Going s₀ s) :
    Going s₀ (tagLines b extra a a1 a2 a3 s).2.2 := by
  induction a generalizing b extra a1 a2 a3 s with
  | zero =>
    unfold Machine.tagLines
    dsimp only
    exact h
  | succ n ih =>
    unfold Machine.tagLines
    dsimp only
    split
    · dsimp only
      exact h
    · split
      · exact ih h.tagLine
      · split
        · rename_i he1
          exact ih (.of_snd h.tagLine he1)
        · rename_i he1
          exact ih (.of_snd h.tagLine he1)

theorem Going.endTag {f tag : Nat} {data : Option (List Byte)} (h : Going s₀ s) : Going s₀ (endTag f tag data s) := by
  unfold Machine.endTag
  refine .ite ?_ ?_
  · split
    · dsimp only
      split
      · exact h.freshNat.tagLines.setFrond
      · exact h.freshNat.tagLines.setFrond
    · dsimp only
      split
      · exact h.freshNat.tagLines.setFrond
      · exact h.freshNat.tagLines.setFrond
  · refine .ite (.ite (.ite h h.hostWrite.addCounter.setFrond) (.ite h.setFrond h.setFrond)) ?_
    split
    · refine .setFrond ?_
      split
      · exact .ite h.freshNat.clearLogged h.freshNat
      · exact h.freshNat
    · exact .ite (.ite h h.setFrond) h.ctxPortRead.setFrond
    · exact h.setFrond

theorem Going.endRequest {f tag : Nat} {data : Option (List Byte)} (h : Going s₀ s) : Going s₀ (endRequest f tag data s) :=
  h.endTag.settleLeaving

theorem Going.setTag {f tag : Nat} {b : StreamTag} (h : Going s₀ s) : Going s₀ (setTag f tag b s) := h.setFrond

theorem Going.settleTags {f : Nat} (h : Going s₀ s) : Going s₀ (settleTags f s) :=
  h.forEach (fun _ _ h1 => .ite h1.setTag (.ite h1.endRequest h1))

theorem Going.dropAsks {f : Nat} (h : Going s₀ s) : Going s₀ (dropAsks f s) := h.dropWaits.setAsks.upd

theorem Going.addCursor {slot pipe : Nat} {kind : WorkKind} {cls : Nat} (h : Going s₀ s) :
    Going s₀ (addCursor slot pipe kind cls s) := by
  unfold Machine.addCursor
  split
  · exact h
  · split
    · exact h
    · exact h.upd

theorem Going.modList {l : Nat} {f : List Cursor → List Cursor} (h : Going s₀ s) : Going s₀ (modList l f s) := h.upd

theorem Going.turnCursor {l : Nat} {x : Cursor} {left : Nat} (h : Going s₀ s) : Going s₀ (turnCursor l x left s) := h.modList

theorem Going.holdCursor {l : Nat} {x : Cursor} (h : Going s₀ s) : Going s₀ (holdCursor l x s) := h.modList

theorem Going.countWait {level i since : Nat} (h : Going s₀ s) : Going s₀ (countWait level i since s) := h.upd

theorem Going.setDeficit {cls i : Nat} {x : ℤ} (h : Going s₀ s) : Going s₀ (setDeficit cls i x s) := h.upd

theorem Going.chargeWork {cls i ns : Nat} (h : Going s₀ s) : Going s₀ (chargeWork cls i ns s) := h.setDeficit

theorem Going.fillDeficits {cls : Nat} {l : List Nat} (h : Going s₀ s) : Going s₀ (fillDeficits cls l s) :=
  .ite (h.forEach (fun _ _ h1 => h1.setDeficit))
    (.forEach (h.forEach (fun _ _ h1 => h1.setDeficit)) (fun _ _ h1 => h1.setDeficit))

theorem Going.chooseHeavy {cls : Nat} {l : List Nat} (h : Going s₀ s) : Going s₀ (chooseHeavy cls l s).2 := by
  unfold Machine.chooseHeavy
  dsimp only
  split
  · dsimp only
    exact h.fillDeficits
  · dsimp only
    exact h.fillDeficits.upd

theorem Going.chooseCursor {cls : Nat} {l : List Choice} (h : Going s₀ s) : Going s₀ (chooseCursor cls l s).2 := by
  have hd : _ = _ := chooseCursor_disp cls l s
  rw [hd]
  exact h.upd

theorem Going.sendNvme {n : Nvme} (h : Going s₀ s) : Going s₀ (sendNvme n s) := .ite h h.upd

theorem Going.extentBad {n : Nvme} (h : Going s₀ s) : Going s₀ (extentBad n s) := h.logEvent

theorem Going.extentLost {slot st : Nat} {r0 : Option W64} (h : Going s₀ s) (hs : ∀ c, s.cmd slot = some c → c.failure = none) :
    Going s₀ (extentLost slot r0 st s) := by
  unfold Machine.extentLost
  split
  · exact h
  · next c hc =>
    split
    · exact h.recordFailure.endIfFailed
    · exact h.failCmd hs
    · exact h.clearLogged.failCmd fun d hd => hs d ((clearLogged_cmd _ _ slot s).symm.trans hd)
    · exact h.failCmd hs

theorem Going.readExtent {slot e : Nat} {r0 : Option W64} {o : StoreObj} {m : ObjImage} (h : Going s₀ s)
    (hs : ∀ c, s.cmd slot = some c → c.failure = none) : Going s₀ (readExtent slot r0 o m e s) :=
  have hb (n : Nvme) (st : Nat) : Going s₀ (Machine.extentLost slot r0 st (Machine.extentBad n s)) := h.extentBad.extentLost hs
  .ite (hb ..) (.ite h (.ite h.sendNvme (hb ..)))

theorem Going.readExtents {slot : Nat} {r0 : Option W64} {o : StoreObj} {m : ObjImage} {es : List Nat} (h : Going s₀ s) :
    Going s₀ (readExtents slot r0 o m es s) := by
  refine h.forEach fun e t ht => ?_
  split
  · exact ht
  · next hn =>
    refine ht.readExtent fun c hc => ?_
    rw [hc] at hn
    have hn : ¬((c.outcome.isSome || c.failure.isSome) = true) := hn
    rw [Bool.not_eq_true, Bool.or_eq_false_iff] at hn
    exact Option.isNone_iff_eq_none.1 (Option.isSome_eq_false_iff.1 hn.2)

theorem Going.areaWrite {i : Nat} {a : Area} {a1 a2 : Nat} {a3 : List Byte} (h : Going s₀ s) :
    Going s₀ (Area.write i a a1 a2 a3 s).2 := by
  induction a1 generalizing i a a2 a3 s with
  | zero =>
    unfold Machine.Area.write
    dsimp only
    exact h
  | succ n ih =>
    unfold Machine.Area.write
    dsimp only
    split
    · dsimp only
      exact h
    · split
      · rename_i he1
        dsimp only
        exact .of_snd h.devWriteN he1
      · rename_i he1
        exact ih (.of_snd h.devWriteN he1)

theorem Going.areaPut {i : Nat} {a : Area} {off : Nat} {d : List Byte} (h : Going s₀ s) : Going s₀ (Area.put i a off d s).2 :=
  h.areaWrite

theorem Going.modQuery {slot : Nat} {f : QueryRun → QueryRun} (h : Going s₀ s) : Going s₀ (modQuery slot f s) :=
  h.modCmd fun c => by
    split <;> exact ⟨rfl, rfl⟩

theorem Going.writeOut {c : Cmd} {o : OutRun} {off : Nat} {d : List Byte} (h : Going s₀ s) :
    Going s₀ (writeOut c o off d s).2 := by
  unfold Machine.writeOut
  split
  · dsimp only
    exact h.hostWriteFor.addCounter
  · split
    · exact h.devWriteN
    · dsimp only
      exact h

theorem Going.writeIncomplete {slot : Nat} {c : Cmd} {q : QueryRun} (h : Going s₀ s) :
    Going s₀ (writeIncomplete slot c q s).2 := by
  unfold Machine.writeIncomplete
  dsimp only
  refine .modQuery ?_
  refine .forEachSnd h ?_
  intro _ _ h1
  split
  · exact h1
  · exact h1.writeOut

theorem Going.readInput {slot : Nat} {r0 : Option W64} {c : Cmd} {x : InputRun} {es : List Nat} (h : Going s₀ s) :
    Going s₀ (readInput slot r0 c x es s) := by
  unfold Machine.readInput
  split
  · exact h
  · exact h.readExtents

theorem Going.startFrond {f : Nat} {c : Cmd} {p : Plan} {it : ItemRef} (h : Going s₀ s) : Going s₀ (startFrond f c p it s) :=
  have h1 : Going s₀ { s with pwr := { s.pwr with parked := s.pwr.parked.set false (f / 8) false } } :=
    ⟨h.failed, fun q hq => by
      by_cases hf : q = f / 8
      · rw [hf]
        exact Tbl.get_set_same false s.pwr.parked (f / 8) false
      · exact (Tbl.get_set_ne false s.pwr.parked false hf).trans (h.runs q hq)⟩
  h1.setFrond

theorem Going.nameGrant {slot pipe f : Nat} (h : Going s₀ s) : Going s₀ (nameGrant slot pipe f s) := h.upd

theorem Going.stageGrant {l : Nat} {x : Cursor} {c : Cmd} {units us f : Nat} (h : Going s₀ s) :
    Going s₀ (stageGrant l x c units us f s).2 := by
  unfold Machine.stageGrant
  split
  · dsimp only
    exact h
  · dsimp only
    split
    · dsimp only
      exact h.requestGrant.holdCursor
    · dsimp only
      exact h.requestGrant

theorem Going.failStart {x : Cursor} {q : QueryRun} (h : Going s₀ s) : Going s₀ (failStart x q s) := h.recordFailure.endIfFailed

theorem Going.askChunks {slot pipe idx : Nat} {c : Cmd} {q : QueryRun} (h : Going s₀ s) :
    Going s₀ (askChunks slot pipe idx c q s) := by
  unfold Machine.askChunks
  split
  · exact h
  · refine .ite ?_ (.ite h.readInput h)
    refine .forEach h ?_
    intro _ _ h1
    split
    · exact .ite h1 h1.hostSend
    · exact h1

theorem Going.takeItem {l : Nat} {x : Cursor} {c : Cmd} {q : QueryRun} {fs : List Nat} (h : Going s₀ s) :
    Going s₀ (takeItem l x c q fs s) :=
  .ite (.forEach (.ite h.countWait.nameGrant.turnCursor.modQuery.addCursor h.countWait.nameGrant.turnCursor.modQuery)
    (fun _ _ h1 => h1.startFrond))
    (.askChunks (.forEach (.ite h.countWait.nameGrant.turnCursor.modQuery.addCursor h.countWait.nameGrant.turnCursor.modQuery)
    (fun _ _ h1 => h1.startFrond)))

theorem Going.giveItem {l : Nat} {x : Cursor} {f : Nat} (h : Going s₀ s) : Going s₀ (giveItem l x f s) := by
  unfold Machine.giveItem
  split
  · exact h
  · exact .ite h.writeIncomplete.recordFailure.endIfFailed
      (.ite h.writeIncomplete.failStart
      (.ite (.ite h.writeIncomplete.failStart
      (.ite (h.writeIncomplete.forEach (fun _ _ h1 => h1.setFrond))
      (.ite (.takeItem (.stageGrant (h.writeIncomplete.forEach (fun _ _ h1 => h1.setFrond))))
      (.stageGrant (h.writeIncomplete.forEach (fun _ _ h1 => h1.setFrond))))))
      (.ite h.writeIncomplete.stageGrant.takeItem h.writeIncomplete.stageGrant)))

theorem Going.answerIdle {f : Nat} (h : Going s₀ s) : Going s₀ (answerIdle f s) := .ite h.setFrond h

theorem Going.dispatchFrond {f : Nat} (h : Going s₀ s) : Going s₀ (dispatchFrond f s) := by
  unfold Machine.dispatchFrond
  refine .ite h ?_
  split
  · rename_i he
    exact .answerIdle (.of_snd h.chooseCursor he)
  · rename_i he
    exact .answerIdle (.giveItem (.of_snd h.chooseCursor he))

theorem Going.freeFronds {it : ItemRef} {i : Nat} {fs : List Nat} (h : Going s₀ s) : Going s₀ (freeFronds it i fs s) :=
  h.forEach fun _ _ h1 => h1.settleTags.addCounter.dropAsks.chargeWork.setFrond.endHolder

theorem Going.joinChain {f : Nat} (h : Going s₀ s) : Going s₀ (joinChain f s) := by
  unfold Machine.joinChain
  split
  · exact h
  · split
    · exact .ite h (.ite h.setFrond h.setFrond.giveItem)
    · exact h

theorem Going.nextItems {fs : List Nat} (h : Going s₀ s) : Going s₀ (nextItems fs s) :=
  h.forEach (fun _ _ h1 => .ite (.ite (.ite h1 h1.joinChain) (.dispatchFrond (.ite h1 h1.joinChain)))
    (.setFrond (.ite (.ite h1 h1.joinChain) (.dispatchFrond (.ite h1 h1.joinChain)))))

end

end Sys2Proof.Machine
end

section
/-!
PROOFS. The end of items: well, with a failure, at a flow, and with a batch handed on (R63 to R67, R76, R150, R298).
-/

namespace Sys2Proof.Machine

/-! ## Items that are being worked on -/

/-- A taken query is open, and no failure of it is recorded. -/
theorem takenQuery_open {k : Nat} {c : Cmd} {q : QueryRun} {s : State} (h : takenQuery s k = some (c, q)) :
    s.cmd k = some c ∧ c.outcome = none ∧ c.failure = none := by
  unfold takenQuery at h
  split at h
  · exact absurd h (Option.some_ne_none _).symm
  · next d hd =>
    split at h
    · next hn =>
      obtain ⟨q', -, he⟩ := Option.map_eq_some_iff.1 h
      obtain rfl : d = c := congrArg Prod.fst he
      rw [Bool.and_eq_true, Option.isNone_iff_eq_none, Option.isNone_iff_eq_none] at hn
      exact ⟨hd, hn.1, hn.2⟩
    · exact absurd h (Option.some_ne_none _).symm

/-- An item that is parked at an operator is parked at every later one too. -/
theorem parkedItem_mono {q : QueryRun} {n k j idx : Nat} (hk : k ≤ j) (h : parkedItem q n k idx = true) : parkedItem q n j idx = true := by
  unfold parkedItem at h ⊢
  obtain ⟨e, he, hp⟩ := List.any_eq_true.1 h
  refine List.any_eq_true.2 ⟨e, he, ?_⟩
  simp only [Bool.and_eq_true, decide_eq_true_eq] at hp ⊢
  exact ⟨⟨⟨hp.1.1.1, hp.1.1.2.trans hk⟩, hp.1.2⟩, hp.2⟩

/-- An item that is parked nowhere in its pipeline. -/
theorem parkedAt_none {q : QueryRun} {n idx : Nat} (h : parkedItem q n (pipeOps q.plan n).length idx = false) : parkedAt q n idx = none := by
  refine List.find?_eq_none.2 fun k hk hp => ?_
  rw [parkedItem_mono (List.mem_range.1 hk).le hp] at h
  exact Bool.false_ne_true h.symm

/-- What an item that may end has behind it: unless it is a finalising one, it is parked nowhere. -/
theorem mayEnd_parkedAt {s : State} {it : ItemRef} {c : Cmd} {q : QueryRun} {fs : List Nat} (h : mayEnd s it c q fs = true)
    (hf : it.stage ≠ finalStage) : parkedAt q it.pipe it.idx = none := by
  unfold mayEnd at h
  rw [Bool.and_eq_true, Bool.or_eq_true] at h
  refine parkedAt_none (h.2.elim (fun h => absurd (of_decide_eq_true h) hf) fun h => ?_)
  rw [Bool.and_eq_true] at h
  exact (Bool.not_eq_eq_eq_not (a := parkedItem ..) (b := true)).1 h.2

section
variable {f : Fin 128} {h : List (Option (List Byte))} {it : ItemRef} {c : Cmd} {q q' : QueryRun} {s t : State}

theorem itemEnd_none (hi : (s.frond f.val).item = none) : exec (.itemEnd f h) s = .next s := by
  show execItemEnd f h s = _
  unfold execItemEnd
  dsimp only
  rw [hi]

/-- An item whose last stage has run, and that has no blocks to merge, ends well. -/
theorem itemEnd_well (hi : (s.frond f.val).item = some it) (hs : (s.frond f.val).stopping = none) (hq : takenQuery s it.slot = some (c, q))
    (hu : (unresolved s (chainFronds s it)).1 = none) (hm : mayEnd s it c q (chainFronds s it) = true) (hf : it.stage ≠ finalStage)
    (hp : (q.pipe it.pipe).passQ = []) (hp' : (q'.pipe it.pipe).passQ = [])
    (hr : runItem (itemOf s it c f.val h) q s = (.ok (), q', t)) :
    exec (.itemEnd f h) s = .next (endWell it c.inst (chainFronds s it) (modQuery it.slot (fun _ => q') t)) := by
  obtain ⟨hc, -, -⟩ := takenQuery_open hq
  have ho : itemOutcome it c (chainFronds s it) s (.ok (), q', t) =
      endWell it c.inst (chainFronds s it) (modQuery it.slot (fun _ => q') t) := by
    unfold itemOutcome
    dsimp only
    rw [hp']
    rfl
  show execItemEnd f h s = _
  unfold execItemEnd
  dsimp only
  rw [hi]
  dsimp only
  rw [hc, if_neg (by exact Bool.false_ne_true), hs, if_neg (by exact Bool.false_ne_true), hq]
  dsimp only
  rw [show unresolved s (chainFronds s it) = (none, (unresolved s (chainFronds s it)).2) from Prod.ext hu rfl]
  dsimp only
  rw [if_neg (by rw [mayEnd_parkedAt hm hf]; exact fun h => Bool.false_ne_true h.2.2), hm, if_neg (by decide), if_neg hf, hp]
  dsimp only [List.find?_nil]
  rw [hr, ho]

/-- A frond in its handler fails the item with the status of its cause. -/
theorem unresolved_cause {g st : Nat} (hp : pendingCause (s.frond g) = some st) :
    unresolved s [g] = (some ((failOp g st s).1, st), (failOp g st s).2) := by
  have hg : [g].find? (fun g => (pendingCause (s.frond g)).isSome || trapped (s.frond g)) = some g := by
    rw [List.find?_cons, hp]
    rfl
  unfold unresolved
  rw [hg]
  dsimp only
  rw [hp]

theorem failOp_cmd (g st k : Nat) : (failOp g st s).2.cmd k = s.cmd k := by
  unfold failOp
  split
  · rfl
  · split
    · rfl
    · exact (Calm.refl s).choose.cmd_eq k

/-- A first failure of an open command is recorded. -/
theorem recordFailure_failed {k st : Nat} {r0 : W64} (hc : s.cmd k = some c) (ho : c.outcome = none) (hf : c.failure = none) :
    FailedWith st ((recordFailure k st r0 s).cmd k) := by
  unfold recordFailure
  rw [hc]
  dsimp only
  rw [if_neg (by simp [ho, hf]), (Calm.refl _).stopWork.cmd_eq, State.setCmd_same]
  exact ⟨_, rfl, .inl rfl⟩

/-- The command of an item that fails has failed with its status, whatever its fronds take up next. -/
theorem endFailed_failed {i op st : Nat} {fs : List Nat} (hc : s.cmd it.slot = some c) (ho : c.outcome = none) (hf : c.failure = none) :
    FailedWith st ((endFailed it i op st fs s).cmd it.slot) :=
  ((Going.refl _).freeFronds.endIfFailed.nextItems).failed _ _ (recordFailure_failed hc ho hf)

theorem itemEnd_cause {st : Nat} (hi : (s.frond f.val).item = some it) (hs : (s.frond f.val).stopping = none)
    (hq : takenQuery s it.slot = some (c, q)) (hf : chainFronds s it = [f.val]) (hp : pendingCause (s.frond f.val) = some st) :
    exec (.itemEnd f h) s = .next (endFailed it c.inst (failOp f.val st s).1 st [f.val] (failOp f.val st s).2) := by
  obtain ⟨hc, -, -⟩ := takenQuery_open hq
  show execItemEnd f h s = _
  unfold execItemEnd
  dsimp only
  rw [hi]
  dsimp only
  rw [hc, if_neg (by exact Bool.false_ne_true), hs, if_neg (by exact Bool.false_ne_true), hq]
  dsimp only
  rw [hf, unresolved_cause hp]

end

theorem FailedWith.any {st : Nat} {o : Option Cmd} (h : FailedWith st o) :
    o.any (fun x => x.failure.map (·.1) = some st ∨ x.outcome = some st) = true := by
  obtain ⟨c, rfl, hc⟩ := h
  exact decide_eq_true hc

/-! ## Breakers -/

theorem breakerFinish_finishes {k n : Nat} {c : Cmd} {q : QueryRun} {s : State} (hq : liveQuery s k = some (c, q))
    (hf : (q.pipe n).finished = false) (hr : breakerReady s k n q = true) :
    exec (.breakerFinish k n) s = .next (settle k (modPipe k n (fun p => { p with finished := true }) s)) := by
  show execBreakerFinish k n s = _
  unfold execBreakerFinish
  rw [hq]
  exact if_neg (by simp [hf, hr])

theorem breakerFinish_waits {k n : Nat} {c : Cmd} {q : QueryRun} {s : State} (hq : liveQuery s k = some (c, q))
    (hr : breakerReady s k n q = false) : exec (.breakerFinish k n) s = .next s := by
  show execBreakerFinish k n s = _
  unfold execBreakerFinish
  rw [hq]
  exact if_pos (.inr (by rw [hr]; rfl))

/-! ## Flows -/

/-- An item that has left an operator is not in service there. -/
theorem inService_leaveUpto (n op fl idx : Nat) (q : QueryRun) : inService (leaveUpto n op idx q) n op fl ≠ some idx := by
  intro h
  obtain ⟨e, he, hi⟩ := Option.bind_eq_some_iff.1 h
  have hp := List.find?_some he
  obtain ⟨e', -, rfl⟩ := List.mem_map.1 (List.mem_of_find?_eq_some he)
  simp only [Bool.and_eq_true, decide_eq_true_eq] at hp
  have hc : e'.1 = n ∧ e'.2.1 ≤ op := by
    obtain ⟨⟨hn, ho⟩, -⟩ := hp
    split at hn
    · next h => exact h
    · next h =>
      rw [if_neg h] at ho
      exact ⟨hn, ho.le⟩
  rw [if_pos hc] at hi
  have hm := List.mem_of_mem_head? hi
  exact absurd rfl (of_decide_eq_true (List.mem_filter.1 hm).2)

theorem flowServiceEnd_leaves {k n op fl idx f : Nat} {fs : List Nat} {bs} {h : List (Option (List Byte))} {c : Cmd} {q q' : QueryRun} {s t : State}
    (hq : takenQuery s k = some (c, q)) (hi : inService q n op fl = some idx) (hf : chainFronds s ⟨k, n, idx, 0⟩ = f :: fs)
    (hp : parkedItem q n op idx = false) (hm : mayRun s ⟨k, n, idx, 0⟩ c q = true)
    (hg : ∀ g ∈ f :: fs, (s.frond g).stopping = none ∧ (s.frond g).exl = false)
    (hr : runUpto (itemOf s ⟨k, n, idx, 0⟩ c f h) (op + 1) q s = (.ok bs, q', t)) :
    exec (.flowServiceEnd k n op ⟨fl, h⟩) s = .next (needSends k (modQuery k
      (fun _ => leaveUpto n op idx (keepPart (itemOf s ⟨k, n, idx, 0⟩ c f h) (op + 1) bs q')) t)) := by
  have ha : (f :: fs).any (fun g => (s.frond g).stopping.isSome || (s.frond g).exl) = false := by
    refine List.any_eq_false.2 fun g hgm => ?_
    rw [(hg g hgm).1, (hg g hgm).2]
    exact Bool.false_ne_true
  show execFlowServiceEnd k n op ⟨fl, h⟩ s = _
  unfold execFlowServiceEnd
  rw [hq]
  dsimp only
  rw [hi]
  dsimp only
  rw [hf]
  dsimp only
  rw [if_neg (by rw [hp, hm, ha]; decide), hr]

theorem flowServiceEnd_idle {k n op fl : Nat} {h : List (Option (List Byte))} {c : Cmd} {q : QueryRun} {s : State}
    (hq : takenQuery s k = some (c, q)) (hi : inService q n op fl = none) : exec (.flowServiceEnd k n op ⟨fl, h⟩) s = .next s := by
  show execFlowServiceEnd k n op ⟨fl, h⟩ s = _
  unfold execFlowServiceEnd
  rw [hq]
  dsimp only
  rw [hi]

/-! ## Batches handed on -/

/-- The stage that gives a batch has one less, and both stages are woken. -/
theorem handoffBatchTaken_wakes {k n idx st f g : Nat} {s : State}
    (hf : (List.range 128).find? (fun f => decide ((s.frond f).item = some ⟨k, n, idx, st⟩)) = some f)
    (hg : (List.range 128).find? (fun f => decide ((s.frond f).item = some ⟨k, n, idx, st + 1⟩)) = some g)
    (hb : batchesOut (s.frond f) ≠ 0) : f ≠ g ∧ exec (.handoffBatchTaken k n idx st) s =
      .next ((s.setFrond f { s.frond f with hoOut := (s.frond f).hoOut.eraseP (fun x => x.1 = 0), event := true }).setFrond g
        { s.frond g with event := true }) := by
  have h1 : (s.frond f).item = some ⟨k, n, idx, st⟩ :=
    of_decide_eq_true (List.find?_some (p := fun f => decide ((s.frond f).item = some ⟨k, n, idx, st⟩)) hf)
  have h2 : (s.frond g).item = some ⟨k, n, idx, st + 1⟩ :=
    of_decide_eq_true (List.find?_some (p := fun f => decide ((s.frond f).item = some ⟨k, n, idx, st + 1⟩)) hg)
  have hne : f ≠ g := by
    rintro rfl
    exact absurd (congrArg ItemRef.stage (Option.some.inj (h1.symm.trans h2))) (Nat.succ_ne_self st).symm
  refine ⟨hne, ?_⟩
  show execHandoffBatchTaken k n idx st s = _
  unfold execHandoffBatchTaken
  dsimp only
  rw [hf, hg]
  dsimp only
  rw [if_neg hb, State.setFrond_ne _ _ _ _ hne.symm]

end Sys2Proof.Machine
end

section
/-!
PROOFS. Items handed to fronds (R186, R288, R289), and what an item's end brings about.
-/

namespace Sys2Proof.Machine

/-! ## A frond that gets no work -/

/-- Without an eligible cursor a frond has no choice. -/
theorem frondChoices_none {s : State} {f : Nat} (h : ∀ x, frondEligible s f x = false) : frondChoices s f = [] := by
  have hc : candidates s 0 (frondEligible s f) = [] := by
    refine List.filterMap_eq_nil_iff.2 fun e _ => ?_
    split
    · rfl
    · rw [List.find?_eq_none.2 fun x _ => by rw [h x]; exact Bool.false_ne_true]
      rfl
  unfold frondChoices
  rw [hc]
  exact ite_self _

/-- Without an eligible cursor a frond's request is answered with no item. -/
theorem dispatchFrond_idle {s : State} {f : Nat} (h : ∀ x, frondEligible s f x = false)
    (hr : ¬(128 ≤ f ∨ (s.frond f).item.isSome ∨ (s.frond f).halted ∨ !awake s ∨ s.pads.inReset)) :
    dispatchFrond f s = answerIdle f s := by
  unfold dispatchFrond
  dsimp only
  rw [if_neg hr, frondChoices_none h]
  rfl

theorem answerIdle_quiet {s : State} {f : Nat} (h : (s.frond f).asking = false) : answerIdle f s = s :=
  if_neg (by rw [h]; exact Bool.false_ne_true)

theorem answerIdle_busy {s : State} {f : Nat} (h : (s.frond f).item.isSome = true) : answerIdle f s = s := by
  unfold answerIdle
  dsimp only
  cases hi : (s.frond f).item with
  | none => rw [hi] at h; exact absurd h Bool.false_ne_true
  | some it => exact if_neg (by rw [Bool.and_eq_true]; exact fun h => Bool.false_ne_true h.2)

/-! ## A frond that starts an item -/

/-- What a frond keeps of the instance it ran last: all of it, or nothing when that was another one. -/
def handedOver (i : Nat) (fr : Frond) : Frond := if fr.inst.toNat = i then fr else fr.clear

theorem startFrond_ne {f g : Nat} {c : Cmd} {p : Plan} {it : ItemRef} {s : State} (h : g ≠ f) :
    (startFrond f c p it s).frond g = s.frond g := State.setFrond_ne _ _ _ _ h

theorem startFrond_unparks (f : Nat) (c : Cmd) (p : Plan) (it : ItemRef) (s : State) :
    (startFrond f c p it s).pwr.parked.get false (f / 8) = false := Tbl.get_set_same false s.pwr.parked (f / 8) false

/-- A frond that starts an item: its counters and pc are 0, its limits are those of the code and the work area. -/
theorem startFrond_starts (f : Nat) (c : Cmd) (p : Plan) (it : ItemRef) (s : State) :
    ∃ x, (startFrond f c p it s).frond f = x ∧ x.item = some it ∧ x.pc = 0 ∧ x.ret = 0 ∧ x.cyc = 0 ∧ x.iss = 0 ∧ x.specx = 0 ∧
      x.cause = (handedOver c.inst (s.frond f)).cause ∧ x.g = (handedOver c.inst (s.frond f)).g ∧
      x.v = (handedOver c.inst (s.frond f)).v ∧ x.m = (handedOver c.inst (s.frond f)).m ∧
      x.clim = BitVec.ofNat 32 (codeOf p (stageOps p it.pipe it.stage)).length ∧
      x.wlim = BitVec.ofNat 32 (0x40000 + roundUp (((p.pipes[it.pipe]?).map (·.work)).getD 0) 4096) := by
  unfold startFrond
  dsimp only
  rw [State.setFrond_same]
  exact ⟨_, rfl, rfl, rfl, rfl, rfl, rfl, rfl, rfl, rfl, rfl, rfl, rfl, rfl⟩

theorem handedOver_same {i : Nat} {fr : Frond} (h : fr.inst.toNat = i) : handedOver i fr = fr := if_pos h

theorem handedOver_other {i : Nat} {fr : Frond} (h : fr.inst.toNat ≠ i) : handedOver i fr = fr.clear := if_neg h

/-! ## The items of a cursor -/

/-- A query whose outputs all have their headers writes none. -/
theorem writeIncomplete_done {k : Nat} {c : Cmd} {q : QueryRun} {s : State} (h : ∀ o ∈ q.outs, o.header = true) :
    writeIncomplete k c q s = (none, modQuery k (fun q => { q with outs := q.outs.map fun o => { o with header := true } }) s) := by
  unfold writeIncomplete
  dsimp only
  rw [forEach_eq_self]
  intro o ho
  exact if_pos (by rw [h o ho]; rfl)

/-- The state in which a frond takes up an item that goes to no chain. -/
def itemTaken (l : Nat) (x : Cursor) (c : Cmd) (q : QueryRun) (f : Nat) (s : State) : State :=
  modQuery x.slot (fun q' => enterFlows x.pipe (q.pipe x.pipe).made (q'.modPipe x.pipe fun p => { p with made := p.made + 1 }))
    (turnCursor l x (cursorLeft q x - 1)
      (nameGrant x.slot x.pipe f (countWait (s.disp.lists.get ReadyList.free l).level c.inst x.since s)))

theorem State.modCmd_fronds (s : State) (k : Nat) (g : Cmd → Cmd) : (s.modCmd k g).fronds = s.fronds := by
  obtain ⟨_, h⟩ := State.modCmd_eq s k g
  rw [h]

theorem modQuery_fronds (k : Nat) (g : QueryRun → QueryRun) (s : State) : (modQuery k g s).fronds = s.fronds := State.modCmd_fronds ..

theorem itemTaken_fronds (l : Nat) (x : Cursor) (c : Cmd) (q : QueryRun) (f : Nat) (s : State) : (itemTaken l x c q f s).fronds = s.fronds :=
  modQuery_fronds ..

/-- A cursor gives its next item to one frond, whose chunks are then asked for. -/
theorem takeItem_one {l f : Nat} {x : Cursor} {c : Cmd} {q : QueryRun} {s : State} (hk : x.kind = .items)
    (hm : mergeSrc q.plan x.pipe = none) : takeItem l x c q [f] s = askChunks x.slot x.pipe (q.pipe x.pipe).made c q
      (startFrond f c q.plan ⟨x.slot, x.pipe, (q.pipe x.pipe).made, 0⟩ (itemTaken l x c q f s)) := by
  unfold takeItem
  rw [hk, hm]
  rfl

/-- The next item of a cursor, for which no grant, no chain and no header is needed, goes to the frond. -/
theorem giveItem_one {l f : Nat} {x : Cursor} {c : Cmd} {q : QueryRun} {e : PipeEnt} {s : State} (hr : runnable s x.slot = some (c, q))
    (hk : x.kind = .items) (he : q.plan.pipes[x.pipe]? = some e) (hc : chainStages q.plan x.pipe = none) (hg : e.grantUnits = 0)
    (ho : ∀ o ∈ q.outs, o.header = true) : giveItem l x f s = takeItem l x c q [f]
      (modQuery x.slot (fun q => { q with outs := q.outs.map fun o => { o with header := true } }) s) := by
  unfold giveItem
  rw [hr]
  dsimp only
  rw [writeIncomplete_done ho, he, hk, hc]
  dsimp only [Option.getD]
  generalize modQuery x.slot _ s = u
  have hs : stageGrant l x c (1 * e.grantUnits) e.grantUs f u = (true, u) := if_pos (.inl (by rw [hg]))
  refine (if_neg (by exact Bool.false_ne_true)).trans ((if_neg ?_).trans ((if_neg ?_).trans ?_))
  · rw [hg]
    exact fun h => Nat.not_lt_zero _ h.2
  · exact fun h => Bool.false_ne_true h.2
  · show (if (stageGrant l x c (1 * e.grantUnits) e.grantUs f u).1 then takeItem l x c q [f] (stageGrant l x c (1 * e.grantUnits) e.grantUs f u).2
      else (stageGrant l x c (1 * e.grantUnits) e.grantUs f u).2) = _
    rw [hs]
    rfl

/-- A frond in service that asks gets the item of the chosen cursor, and its chunks are asked for. -/
theorem dispatchFrond_gives {f l : Nat} {x : Cursor} {c : Cmd} {q : QueryRun} {e : PipeEnt} {s u : State}
    (hr : ¬(128 ≤ f ∨ (s.frond f).item.isSome ∨ (s.frond f).halted ∨ !awake s ∨ s.pads.inReset))
    (hx : chooseCursor 0 (frondChoices s f) s = (some (l, x), u)) (hq : runnable u x.slot = some (c, q)) (hk : x.kind = .items)
    (he : q.plan.pipes[x.pipe]? = some e) (hc : chainStages q.plan x.pipe = none) (hg : e.grantUnits = 0)
    (hm : mergeSrc q.plan x.pipe = none) (ho : ∀ o ∈ q.outs, o.header = true) :
    ∃ w, w.fronds = s.fronds ∧ dispatchFrond f s = answerIdle f (askChunks x.slot x.pipe (q.pipe x.pipe).made c q
      (startFrond f c q.plan ⟨x.slot, x.pipe, (q.pipe x.pipe).made, 0⟩ w)) := by
  have hu : u.fronds = s.fronds := by
    have h := chooseCursor_disp 0 (frondChoices s f) s
    rw [hx] at h
    have h' := congrArg State.fronds (show u = _ from h)
    exact h'
  refine ⟨itemTaken l x c q f (modQuery x.slot (fun q => { q with outs := q.outs.map fun o => { o with header := true } }) u), ?_, ?_⟩
  · rw [itemTaken_fronds, modQuery_fronds, hu]
  · unfold dispatchFrond
    dsimp only
    rw [if_neg hr, hx]
    dsimp only
    rw [giveItem_one hq hk he hc hg ho, takeItem_one hk hm]

/-- Asking for chunks parks no quadrant. -/
theorem askChunks_runs (k n idx : Nat) (c : Cmd) (q : QueryRun) (s : State) (d : Nat) (h : s.pwr.parked.get false d = false) :
    (askChunks k n idx c q s).pwr.parked.get false d = false := (Going.refl s).askChunks.runs d h

/-- Which operators' code a frond of a fused pipeline holds. -/
theorem stageOps_fused {p : Plan} {n : Nat} (h : chainStages p n = none) : stageOps p n 0 = pipeOps p n := by
  unfold stageOps
  rw [h]
  rfl

/-! ## The wait for a home die -/

theorem Tbl.get_map {α : Type} (d : α) (f : α → α) (hd : f d = d) (t : Tbl α) (k : Nat) :
    Tbl.get d (t.map fun e => (e.1, f e.2)) k = f (t.get d k) := by
  induction t with
  | nil => exact hd.symm
  | cons e t ih =>
    obtain ⟨j, v⟩ := e
    rw [List.map_cons, Tbl.get, Tbl.get]
    split
    · rfl
    · exact ih

/-- A ready list once the wait of a pipeline's items for their home die is over. -/
def waitsOver (k n : Nat) (s : State) (r : ReadyList) : ReadyList :=
  { r with cursors := r.cursors.map fun x =>
      if x.slot = k ∧ x.pipe = n ∧ x.kind ≠ .jobs ∧ x.kind ≠ .sends ∧ x.since + affWait s ≤ s.time then { x with affOver := true } else x }

end Sys2Proof.Machine

namespace Sys2Proof
open Machine

/-- Settles O21: a frond is handed its item by `startFrond`, and an item's end runs the arm of its case. -/
theorem itemsStartAndEnd : Obligations.ItemsStartAndEnd := by
  unfold Obligations.ItemsStartAndEnd
  refine ⟨?_, ?_, ?_, ?_, ?_, ?_, ?_, ?_, ?_, ?_, ?_, ?_, ?_, ?_⟩
  · intro f l x c q e s u hf hi hh hw hp hx hq hk he hc hg hm ho ha
    obtain ⟨w, hwf, hd⟩ := dispatchFrond_gives (by simp [hf, hi, hh, hw, hp]) hx hq hk he hc hg hm ho
    obtain ⟨y, hy, hitem, hpc, hret, hcyc, hiss, hspec, hcause, hyg, hyv, hym, hclim, hwlim⟩ :=
      startFrond_starts f c q.plan ⟨x.slot, x.pipe, (q.pipe x.pipe).made, 0⟩ w
    have hwg (g : Nat) : w.frond g = s.frond g := by
      unfold State.frond
      rw [hwf]
    have hne (g : Nat) (hg : g ≠ f) := (startFrond_ne (c := c) (p := q.plan) (it := ⟨x.slot, x.pipe, (q.pipe x.pipe).made, 0⟩) (s := w) hg).trans (hwg g)
    have hpark := askChunks_runs x.slot x.pipe (q.pipe x.pipe).made c q _ _ (startFrond_unparks f c q.plan ⟨x.slot, x.pipe, (q.pipe x.pipe).made, 0⟩ w)
    rw [hwg f] at hcause hyg hyv hym
    rw [stageOps_fused hc] at hclim
    rw [he] at hwlim
    generalize startFrond f c q.plan ⟨x.slot, x.pipe, (q.pipe x.pipe).made, 0⟩ w = v at hd hy hne hpark
    have hv (g : Nat) : (askChunks x.slot x.pipe (q.pipe x.pipe).made c q v).frond g = v.frond g := by
      unfold State.frond
      rw [ha v]
    generalize askChunks x.slot x.pipe (q.pipe x.pipe).made c q v = t at hd hpark hv
    rw [answerIdle_busy (by rw [hv f, hy, hitem]; rfl)] at hd
    refine ⟨t, congrArg Host.Outcome.next hd, ?_⟩
    dsimp only
    rw [hv f, hy]
    refine ⟨hitem, hpc, hret, hcyc, hiss, hspec, fun h => ?_, fun h => ?_, hclim, hwlim, hpark, fun g hg => (hv g).trans (hne g hg)⟩
    · rw [handedOver_other h] at hcause hyg hyv hym
      exact ⟨hcause, hyg, hyv, hym⟩
    · rw [handedOver_same h] at hcause hyg hyv hym
      exact ⟨hcause, hyg, hyv, hym⟩
  · intro f s h ha
    refine congrArg Host.Outcome.next ?_
    by_cases hr : 128 ≤ f ∨ (s.frond f).item.isSome ∨ (s.frond f).halted ∨ !awake s ∨ s.pads.inReset
    · exact if_pos hr
    · rw [dispatchFrond_idle h hr, answerIdle_quiet ha]
  · intro f s hf h ha hi hh hw hp
    refine congrArg Host.Outcome.next ((dispatchFrond_idle h ?_).trans (if_pos ?_))
    · simp [hf, hi, hh, hw, hp]
    · rw [ha, hi]
      rfl
  · intro f it s hi
    exact congrArg Host.Outcome.next (if_pos (.inr (.inl (by rw [hi]; rfl))))
  · intro k n s
    refine ⟨_, rfl, rfl, fun l => ?_⟩
    exact congrArg ReadyList.cursors (Tbl.get_map ReadyList.free (waitsOver k n s) rfl s.disp.lists l)
  · exact fun f h s hi => itemEnd_none hi
  · intro f h it c q q' t s hi hs hq hu hm hf hp hp' hr
    exact itemEnd_well hi hs hq hu hm hf hp hp' hr
  · intro f h it c q st s hi hs hq hf hp
    obtain ⟨hc, ho, hn⟩ := takenQuery_open hq
    exact ⟨_, itemEnd_cause hi hs hq hf hp, (endFailed_failed ((failOp_cmd ..).trans hc) ho hn).any⟩
  · exact fun k n c q s hq hf hr => breakerFinish_finishes hq hf hr
  · exact fun k n c q s hq hr => breakerFinish_waits hq hr
  · intro k n op fl h c q q' bs idx f fs t s hq hi hf hp hm hg hr
    exact flowServiceEnd_leaves hq hi hf hp hm hg hr
  · exact fun k n op fl h c q s hq hi => flowServiceEnd_idle hq hi
  · exact inService_leaveUpto
  · intro k n idx st f g s hf hg hb
    obtain ⟨hne, hx⟩ := handoffBatchTaken_wakes hf hg hb
    refine ⟨_, hx, ?_, State.setFrond_same .., rfl, fun j hj hj' => ?_⟩
    · rw [State.setFrond_ne _ _ _ _ hne, State.setFrond_same]
    · rw [State.setFrond_ne _ _ _ _ hj', State.setFrond_ne _ _ _ _ hj]

end Sys2Proof
end
